-- ==== Sys2Proof/Word.lean ====
section
/-! DEFINITION. The word types of the model: a byte, a 32-bit register word, a 64-bit quantity. -/
namespace Sys2Proof

/-- One byte of memory. -/
abbrev Byte := BitVec 8
/-- A 32-bit register word (R30). -/
abbrev W32 := BitVec 32
/-- A 64-bit quantity, such as a `_LO`/`_HI` pair (R36) or a Rill register (R215). -/
abbrev W64 := BitVec 64

end Sys2Proof
end

