-- ==== Sys2Proof/Syntax.lean ====
section
/-! DEFINITION. The commands the block takes: one constructor for each row of the opcode table, with its operands. What
comes from outside the block or from its physics (host data, an error-correction outcome, a count, a temperature, a
partner's message) is an operand of the command that meets it. -/
namespace Sys2Proof

/-- The outcome of a read under an error-correcting code. -/
inductive Ecc where
  | clean | corrected | uncorrectable
deriving DecidableEq, Repr

/-- The size of a BAR0 write (R30). -/
inductive WSize where
  | b8 | b16 | b32 | b64
deriving DecidableEq, Repr

/-- A register whose hardened copies were found different by a scan (R42): its word offset; `both` when both copies fail
parity, or pass it and differ. -/
structure HardStrike where
  off : BitVec 10
  both : Bool
deriving DecidableEq, Repr

/-- What the weight-parity check of a pass found (R82): nothing, one failure mended by the repeat, or a second failure. -/
inductive PassParity where
  | good | once | twice
deriving DecidableEq, Repr

/-- What the accumulator and Spillway checks found (R114, R124). -/
inductive AccErr where
  | good | entryParity | spillCorrected | spillUncorrectable
deriving DecidableEq, Repr

/-- What the Basin line of a request held (R196). -/
inductive LineErr where
  | good | corrected | cleanUe | dirtyUe
deriving DecidableEq, Repr

/-- What one granule of an access meets in its home Basin and behind it (R194 to R198, R202): whether a line holds it, whether that
line is dirty, what the line's check bits show; where no line holds it, whether a write first reads the granule from HBM, and
whether the line that an allocation replaces is written back, to the lower or the upper stack of the Basin; what a read from HBM
shows. -/
structure GranUse where
  hit : Bool := true
  dirty : Bool := false
  line : LineErr := .good
  fill : Bool := false
  back : Option Bool := none
  ecc : Ecc := .clean
deriving DecidableEq, Repr

/-- What an access to board addresses meets: at the Page Map entries it reads, in order, and at its granules, in order. -/
structure MemUse where
  pm : List Ecc := []
  gran : List GranUse := []
deriving DecidableEq, Repr

/-- A BAR0 write to program memory or to a load register of a core (R237). -/
inductive LoadTarget where
  | word (i : BitVec 14) (v : W32)
  | words (i : BitVec 14) (v : W64)
  | greg (i : Fin 16) (v : W64)
  | gregHi (i : Fin 16) (v : W32)
  | pred (v : W32)
  | ctx (v : W32)
  | startPc (v : W32)
deriving DecidableEq, Repr

/-- An error that a Tarn read found (R95): the word is its address divided by 32. -/
inductive TarnErr where
  | good
  | corrected (word : BitVec 19)
  | ue (word : BitVec 19)
deriving DecidableEq, Repr

/-- What a read of host memory returns (R270, R278): bytes, taken in order from the first one asked for, and whether the
completion is marked poisoned. -/
structure HostData where
  bytes : List Byte
  ep : Bool
deriving DecidableEq, Repr

/-- A flit (R288): the link header, the slots in use as sixteen words each, the CRC. -/
structure Flit where
  hdr : W64
  slots : List (List W32)
  crc : W64
deriving DecidableEq, Repr

/-- A HELLO (R308, R310): the partner's position word in the layout of `PLAN_NBR` (`NODE`, `GROUP`, `DEV`, `PORT`), the
highest generation it allows, its nonce. -/
structure Hello where
  pos : W32
  gen : Fin 4
  nonce : List Byte
deriving DecidableEq, Repr


/-- A configuration write (R500): the power state (D3hot or D0), the size of BAR2 as a power of two over 256 GiB, the MSI-X
function mask. -/
inductive CfgWrite where
  | power (d3 : Bool)
  | barSize (n : Fin 3)
  | functionMask (m : Bool)
deriving DecidableEq, Repr

/-- The queue of an op of a Ridge (R414). -/
inductive OpKind where
  | tile | brook | fetch
deriving DecidableEq, Repr

/-- What the comparison of the checker's tile with the source's gives (R452): equal, or different, in twin B of the pair or not;
or that a forwarded operand or a buffer word was poisoned (R453). -/
inductive Recompute where
  | equal | differ (twinB : Bool) | poisoned
deriving DecidableEq, Repr

/-- Which tile the arbiter's equals (R452): the source's, the checker's, neither; or poison (R453). -/
inductive Arbitration where
  | source | checker | neither | poisoned
deriving DecidableEq, Repr

/-- The clock inputs (R474). -/
inductive ClkInput where
  | core | pcie | watch
deriving DecidableEq, Repr

/-- The packet error code of an SMBus write (R506): missing, right or wrong. -/
inductive Pec where
  | missing | good | wrong
deriving DecidableEq, Repr

/-- How a chip reset is reached (R419): PERST#, or a PCI Express hot reset. -/
inductive ResetCause where
  | perst | hotReset
deriving DecidableEq, Repr
/-- The commands of the block: one constructor for each row of the opcode table. -/
inductive Instr where
  /-- REGISTER_WRITE (R30). -/
  | registerWrite (addr : BitVec 29) (size : WSize) (value : W64)
  /-- PAIR_LO_WRITE (R37). -/
  | pairLoWrite (addr : BitVec 29) (value : W32)
  /-- PAIR_HI_WRITE (R37). -/
  | pairHiWrite (addr : BitVec 29) (value : W32)
  /-- SEAL_KEY_WRITE (R43). -/
  | sealKeyWrite (addr : BitVec 29) (value : W32)
  /-- ERR_STAT_CLEAR (R38). -/
  | errStatClear (addr : BitVec 29) (value detect : W32)
  /-- ERR_FIRST_CLEAR (R39). -/
  | errFirstClear (addr : BitVec 29) (value : W32)
  /-- ERR_INJ_WRITE (R40). -/
  | errInjWrite (addr : BitVec 29) (value : W32)
  /-- HARD_REG_SCAN (R42). -/
  | hardRegScan (addr : BitVec 26) (strikes : List HardStrike)
  /-- PART_CFG_WRITE (R26). -/
  | partCfgWrite (value : W32)
  /-- D2D_TRANSFER_RETRY (R13). -/
  | d2dTransferRetry (link : Fin 13) (fails : Fin 18)
  /-- OPERATION_ACCEPT (R252). -/
  | operationAccept (die : Fin 4)
  /-- OPERATION_BEGIN (R15). -/
  | operationBegin (die : Fin 4) (shareTally : Fin 4096)
  /-- SHARE_COMPLETE (R16). -/
  | shareComplete (ridge : Fin 64)
  /-- TILE_OP_ACCEPT (R102). -/
  | tileOpAccept (ridge : Fin 64) (e : Ecc)
  /-- TILE_OP_REACH_ARRAY (R103). -/
  | tileOpReachArray (ridge array : Fin 64) (tarn : TarnErr)
  /-- ARRAY_PASS (R81). -/
  | arrayPass (ridge array : Fin 64) (parity : PassParity) (acc : AccErr) (tarn : TarnErr)
  /-- TILE_DRAIN (R128). -/
  | tileDrain (ridge array : Fin 64) (acc : AccErr) (tarn : TarnErr) (m : MemUse)
  /-- ARRAY_RAMP_STEP (R90). -/
  | arrayRampStep (ridge array : Fin 64)
  /-- ARRAY_HOLD_EXPIRE (R90). -/
  | arrayHoldExpire (ridge array : Fin 64)
  /-- TARN_ZEROING_START (R94). -/
  | tarnZeroingStart (ridge : Fin 64)
  /-- TARN_ZEROING_DONE (R94). -/
  | tarnZeroingDone (ridge : Fin 64)
  /-- TARN_SCRUB_READ (R95). -/
  | tarnScrubRead (ridge : Fin 64) (e : Ecc)
  /-- BROOK_OP_ACCEPT (R166). -/
  | brookOpAccept (ridge : Fin 64) (e : Ecc)
  /-- BROOK_OP_EXECUTE (R167). -/
  | brookOpExecute (ridge : Fin 64) (tarn : TarnErr)
  /-- BROOK_OP_COMPLETE (R155). -/
  | brookOpComplete (ridge : Fin 64)
  /-- SCALE_TABLE_WRITE (R67). -/
  | scaleTableWrite (off : BitVec 23) (wide : Bool) (value : W64)
  /-- NORM_TABLE_WRITE (R145). -/
  | normTableWrite (off : BitVec 20) (wide : Bool) (value : W64)
  /-- NOISE_TABLE_WRITE (R346). -/
  | noiseTableWrite (off : BitVec 20) (wide : Bool) (value : W64)
  /-- EXPERT_TABLE_WRITE (R337). -/
  | expertTableWrite (off : BitVec 16) (wide : Bool) (value : W64)
  /-- SCREE_TEST_START (R74). -/
  | screeTestStart (value : W32)
  /-- SCREE_TEST_DONE (R74). -/
  | screeTestDone
  /-- HBM_TRAIN_FILL (R172). -/
  | hbmTrainFill (stack : Fin 8) (ok : Bool) (lanes : BitVec 8)
  /-- HBM_FILL_DONE (R172). -/
  | hbmFillDone (stack : Fin 8)
  /-- HBM_SCRUB_READ (R205). -/
  | hbmScrubRead (stack : Fin 8) (e : Ecc)
  /-- WIN_CFG_WRITE (R177). -/
  | winCfgWrite (value : W32)
  /-- PAGE_MAP_WRITE (R185). -/
  | pageMapWrite (page : BitVec 19) (wide : Bool) (value : W64)
  /-- BATCH_GO (R186). -/
  | batchGo (value : W32)
  /-- BATCH_APPLY (R186). -/
  | batchApply
  /-- XLATE_CACHE_REFILL (R187). -/
  | xlateCacheRefill (ridge : Fin 64) (page : BitVec 19) (e : Ecc) (tarn : TarnErr)
  /-- WINDOW_PORT_READ_LO (R211). -/
  | windowPortReadLo (wide : Bool)
  /-- WINDOW_PORT_READ_HI (R211). -/
  | windowPortReadHi
  /-- WINDOW_PORT_WRITE_HI (R211). -/
  | windowPortWriteHi (value : W32)
  /-- FETCH_OP_ACCEPT (R192). -/
  | fetchOpAccept (ridge : Fin 64)
  /-- FETCH_CHUNK_ISSUE (R190). -/
  | fetchChunkIssue (ridge : Fin 64) (op : Fin 32) (tarn : TarnErr)
  /-- FETCH_CHUNK_DONE (R190). -/
  | fetchChunkDone (ridge : Fin 64) (op : Fin 32) (chunk : BitVec 8) (us : List GranUse) (tarn : TarnErr)
  /-- NOP (R220). -/
  | nop (c : Fin 77) (e : Ecc)
  /-- ADD (R220). -/
  | addR (c : Fin 77) (e : Ecc)
  /-- SUB (R220). -/
  | subR (c : Fin 77) (e : Ecc)
  /-- AND (R220). -/
  | andR (c : Fin 77) (e : Ecc)
  /-- OR (R220). -/
  | orR (c : Fin 77) (e : Ecc)
  /-- XOR (R220). -/
  | xorR (c : Fin 77) (e : Ecc)
  /-- SHL (R220). -/
  | shl (c : Fin 77) (e : Ecc)
  /-- SHR (R220). -/
  | shr (c : Fin 77) (e : Ecc)
  /-- SAR (R220). -/
  | sar (c : Fin 77) (e : Ecc)
  /-- MUL (R220). -/
  | mulR (c : Fin 77) (e : Ecc)
  /-- ADDI (R220). -/
  | addi (c : Fin 77) (e : Ecc)
  /-- ANDI (R220). -/
  | andi (c : Fin 77) (e : Ecc)
  /-- ORI (R220). -/
  | ori (c : Fin 77) (e : Ecc)
  /-- XORI (R220). -/
  | xori (c : Fin 77) (e : Ecc)
  /-- SHLI (R220). -/
  | shli (c : Fin 77) (e : Ecc)
  /-- SHRI (R220). -/
  | shri (c : Fin 77) (e : Ecc)
  /-- SARI (R220). -/
  | sari (c : Fin 77) (e : Ecc)
  /-- LI (R220). -/
  | li (c : Fin 77) (e : Ecc)
  /-- LIS (R220). -/
  | lis (c : Fin 77) (e : Ecc)
  /-- TRD (R220). -/
  | trd (c : Fin 77) (e : Ecc)
  /-- CMP (R221). -/
  | cmp (c : Fin 77) (e : Ecc)
  /-- CMPI (R221). -/
  | cmpi (c : Fin 77) (e : Ecc)
  /-- BR (R222). -/
  | br (c : Fin 77) (e : Ecc)
  /-- CALL (R220). -/
  | call (c : Fin 77) (e : Ecc)
  /-- JR (R220). -/
  | jr (c : Fin 77) (e : Ecc)
  /-- HALT (R220). -/
  | halt (c : Fin 77) (e : Ecc)
  /-- PROG (R231). -/
  | prog (c : Fin 77) (e : Ecc)
  /-- GETS (R224). -/
  | gets (c : Fin 77) (e : Ecc)
  /-- SETS (R224). -/
  | sets (c : Fin 77) (e : Ecc)
  /-- RETT (R234). -/
  | rett (c : Fin 77) (e : Ecc)
  /-- LD64 (R223). -/
  | ld64 (c : Fin 77) (e d : Ecc)
  /-- LD32 (R223). -/
  | ld32 (c : Fin 77) (e d : Ecc)
  /-- ST64 (R223). -/
  | st64 (c : Fin 77) (e : Ecc)
  /-- ST32 (R223). -/
  | st32 (c : Fin 77) (e : Ecc)
  /-- ISSUE (R227). -/
  | issue (c : Fin 77) (e d : Ecc)
  /-- ISSUE_RESUME (R227). -/
  | issueResume (c : Fin 77)
  /-- TAKE (R228). -/
  | take (c : Fin 77) (e : Ecc)
  /-- TAKE_RESUME (R228). -/
  | takeResume (c : Fin 77)
  /-- TINC (R225). -/
  | tinc (c : Fin 77) (e : Ecc)
  /-- TWAIT (R225). -/
  | twait (c : Fin 77) (e : Ecc)
  /-- TWAIT_RELEASE (R225). -/
  | twaitRelease (c : Fin 77)
  /-- WAIT_LIMIT_EXPIRE (R231). -/
  | waitLimitExpire (c : Fin 77)
  /-- HANG_DETECT (R231). -/
  | hangDetect (c : Fin 77)
  /-- ASYNC_EXCEPTION_TAKE (R234). -/
  | asyncExceptionTake (c : Fin 77)
  /-- RUN_CTL_START (R218). -/
  | runCtlStart (c : Fin 77) (value : W32)
  /-- RUN_CTL_STOP (R218). -/
  | runCtlStop (c : Fin 77)
  /-- PROGRAM_MEMORY_WRITE (R237). -/
  | programMemoryWrite (c : Fin 77) (target : LoadTarget)
  /-- DATA_MEMORY_WRITE (R238). -/
  | dataMemoryWrite (c : Fin 77) (off : BitVec 16) (wide : Bool) (value : W64)
  /-- COMMAND_WINDOW_WRITE (R242). -/
  | commandWindowWrite (w : Fin 64) (off : BitVec 16) (data : List Byte) (enables : List Bool)
  /-- RECORD_NOP (R247). -/
  | recordNop (w : Fin 64)
  /-- RECORD_DESC (R247). -/
  | recordDesc (w : Fin 64)
  /-- RECORD_DESC_REF (R247). -/
  | recordDescRef (w : Fin 64) (pm : Ecc)
  /-- DESC_REF_READ_DONE (R247). -/
  | descRefReadDone (w : Fin 64) (us : List GranUse)
  /-- RECORD_TINC (R247). -/
  | recordTinc (w : Fin 64)
  /-- RECORD_PROG (R247). -/
  | recordProg (w : Fin 64)
  /-- RECORD_WAIT_RELEASE (R248). -/
  | recordWaitRelease (w : Fin 64) (pm : Ecc)
  /-- WIN_CTL_EN_WRITE (R251). -/
  | winCtlEnWrite (w : Fin 64) (en : Bool)
  /-- WIN_CTL_RESUME (R250). -/
  | winCtlResume (w : Fin 64)
  /-- WIN_NEXT_WRITE (R251). -/
  | winNextWrite (w : Fin 64) (value : W32)
  /-- TALLY_WRITE (R254). -/
  | tallyWrite (t : Fin 4096) (wide : Bool) (value : W64)
  /-- HOST_INC (R254). -/
  | hostInc (value : W32)
  /-- BLOCK_OWN_WRITE (R256). -/
  | blockOwnWrite (b : Fin 64) (value : W32)
  /-- SLOT_TOK_WRITE (R258). -/
  | slotTokWrite (slot : Fin 8) (value : W32)
  /-- DMA_DESC_ACCEPT (R271). -/
  | dmaDescAccept (c : Fin 32)
  /-- DMA_READ_ACCESS (R274). -/
  | dmaReadAccess (c : Fin 32) (host : HostData) (m : MemUse)
  /-- DMA_WRITE_ACCESS (R274). -/
  | dmaWriteAccess (c : Fin 32) (m : MemUse)
  /-- DMA_DESC_COMPLETE (R275). -/
  | dmaDescComplete (c : Fin 32)
  /-- DMA_BUS_ERROR (R276). -/
  | dmaBusError (c : Fin 32)
  /-- DMA_RESUME (R277). -/
  | dmaResume (c : Fin 32)
  /-- DMA_ABORT (R277). -/
  | dmaAbort (c : Fin 32)
  /-- CH_CFG_WRITE (R281). -/
  | chCfgWrite (c : Fin 32) (value : W32)
  /-- PORT_TRAIN_ATTEMPT (R286). -/
  | portTrainAttempt (port : Fin 36) (ok peerGen2 : Bool) (nonce : List Byte)
  /-- HELLO_RECEIVE (R310). -/
  | helloReceive (port : Fin 36) (hello : Hello)
  /-- ADMIT_RECEIVE (R309). -/
  | admitReceive (port : Fin 36) (sig key : List Byte)
  /-- ADMIT_TIMEOUT (R309). -/
  | admitTimeout (port : Fin 36)
  /-- FLIT_RECEIVE (R291). -/
  | flitReceive (port : Fin 36) (flit : Flit)
  /-- NAK_RECEIVE (R291). -/
  | nakReceive (port : Fin 36) (ack : BitVec 16)
  /-- TRANSACTION_ISSUE (R300). -/
  | transactionIssue (n : BitVec 16)
  /-- TRANSACTION_TIMEOUT (R296). -/
  | transactionTimeout (port : Fin 36) (tag : BitVec 11)
  /-- RESPONSE_RECEIVE (R297). -/
  | responseReceive (port : Fin 36) (vc : Fin 8)
  /-- INCOMING_REQUEST (R304). -/
  | incomingRequest (port : Fin 36) (vc : Fin 8) (m : MemUse)
  /-- FLOOD_RECEIVE (R298). -/
  | floodReceive (port : Fin 36)
  /-- PROBE_SEND (R306). -/
  | probeSend (port : Fin 36)
  /-- PROBE_RECEIVE (R306). -/
  | probeReceive (port : Fin 36) (count : W64)
  /-- PROBE_REPLY_RECEIVE (R306). -/
  | probeReplyReceive (port : Fin 36) (count : W64)
  /-- PROBE_MISS (R306). -/
  | probeMiss (port : Fin 36)
  /-- LOSS_OF_LIGHT (R306). -/
  | lossOfLight (port : Fin 36)
  /-- STARVE_EPISODE (R312). -/
  | starveEpisode (port : Fin 36)
  /-- FENCE_WINDOW_EXPIRE (R312). -/
  | fenceWindowExpire (port : Fin 36)
  /-- RATE_INTERVAL_EXPIRE (R305). -/
  | rateIntervalExpire (port : Fin 36)
  /-- LINK_MAP_UPDATE (R302). -/
  | linkMapUpdate (port : Fin 36) (idx : BitVec 8) (entry : W32)
  /-- DISC_START (R310). -/
  | discStart (value : W32)
  /-- DISC_TIMEOUT (R310). -/
  | discTimeout
  /-- PORT_CTL_ADMIT (R311). -/
  | portCtlAdmit (port : Fin 36) (value : W32)
  /-- PORT_CTL_FENCE (R312). -/
  | portCtlFence (port : Fin 36) (value : W32)
  /-- PORT_CTL_UNFENCE (R313). -/
  | portCtlUnfence (port : Fin 36) (value : W32)
  /-- PORT_CTL_RETRAIN (R314). -/
  | portCtlRetrain (port : Fin 36) (value : W32)
  /-- PULL (R329). -/
  | pull (e : Fin 8) (m : MemUse)
  /-- PULL_COMBINE (R326). -/
  | pullCombine (e : Fin 8) (m : MemUse)
  /-- NOTIFY (R329). -/
  | notify (e : Fin 8)
  /-- FINISH (R329). -/
  | finish (e : Fin 8) (m : MemUse)
  /-- PUT (R329). -/
  | put (e : Fin 8) (m : MemUse)
  /-- PULL_CHUNK_ARRIVE (R326). -/
  | pullChunkArrive (e : Fin 8) (m : MemUse)
  /-- MSG_READY_RECEIVE (R324). -/
  | msgReadyReceive (e : Fin 8)
  /-- MSG_DONE_RECEIVE (R324). -/
  | msgDoneReceive (e : Fin 8)
  /-- ALLREDUCE (R331). -/
  | allreduce (e : Fin 8)
  /-- REDUCE_SCATTER (R331). -/
  | reduceScatter (e : Fin 8)
  /-- ALLGATHER (R331). -/
  | allgather (e : Fin 8)
  /-- BROADCAST (R331). -/
  | broadcast (e : Fin 8)
  /-- ALLTOALL (R338). -/
  | alltoall (e : Fin 8)
  /-- PERMUTE (R344). -/
  | permute (e : Fin 8)
  /-- RING (R335). -/
  | ring (e : Fin 8)
  /-- RING_ROUND (R335). -/
  | ringRound (e : Fin 8)
  /-- SEND (R331). -/
  | send (e : Fin 8)
  /-- RECV (R331). -/
  | recv (e : Fin 8)
  /-- REDUCE (R331). -/
  | reduce (e : Fin 8)
  /-- BARRIER (R331). -/
  | barrier (e : Fin 8)
  /-- COLLECTIVE_COMPLETE (R331). -/
  | collectiveComplete (e : Fin 8)
  /-- COLLECTIVE_TIMEOUT (R333). -/
  | collectiveTimeout (e : Fin 8)
  /-- STEP_OPEN (R361). -/
  | stepOpen
  /-- STEP_REPLAY_OPEN (R363). -/
  | stepReplayOpen
  /-- JOURNAL_COPY_DONE (R361). -/
  | journalCopyDone
  /-- SLOT_DONE (R364). -/
  | slotDone
  /-- STEP_CHECK (R365). -/
  | stepCheck
  /-- STEP_VOTE (R367). -/
  | stepVote
  /-- VOTE_ROUND1_END (R368). -/
  | voteRound1End
  /-- VOTE_TIMEOUT (R368). -/
  | voteTimeout
  /-- STEP_SEAL (R372). -/
  | stepSeal
  /-- SEAL_COPY_DONE (R369). -/
  | sealCopyDone
  /-- SEAL_WORD_RETURN (R369). -/
  | sealWordReturn
  /-- VOTE_ROUND2_END (R369). -/
  | voteRound2End
  /-- SEALED_TIMEOUT (R370). -/
  | sealedTimeout
  /-- RESOLUTION_RETURN (R370). -/
  | resolutionReturn
  /-- STEP_RESOLVE (R370). -/
  | stepResolve
  /-- STEP_LAYER (R373). -/
  | stepLayer
  /-- COMMIT_END (R374). -/
  | commitEnd
  /-- STEP_END_SKIP (R382). -/
  | stepEndSkip
  /-- STEP_END_DROP (R382). -/
  | stepEndDrop
  /-- STEP_ABORT_ACTION (R358). -/
  | stepAbortAction
  /-- STEP_DRAIN_DONE (R392). -/
  | stepDrainDone
  /-- MIRROR_PAGE_SEND (R377). -/
  | mirrorPageSend
  /-- MIRROR_PAGE_CONFIRM (R377). -/
  | mirrorPageConfirm
  /-- COPY_BEFORE_WRITE_STALL (R378). -/
  | copyBeforeWriteStall (m : BitVec 19) (counts : W32)
  /-- MIRROR_INIT (R379). -/
  | mirrorInit (value : W32)
  /-- REMIRROR (R401). -/
  | remirror (value : W32)
  /-- PARTNER_WRITE (R375). -/
  | partnerWrite (n : Fin 4) (value : W32)
  /-- NEXT_STEP_WRITE (R384). -/
  | nextStepWrite (value : W32)
  /-- CURSOR_WRITE (R386). -/
  | cursorWrite (k : Fin 8) (wide : Bool) (value : W64)
  /-- STEP_DECIDE (R410). -/
  | stepDecide (value : W32)
  /-- STRAG_CLR (R423). -/
  | stragClr (value : W32)
  /-- OP_TIMEOUT (R414). -/
  | opTimeout (ridge : Fin 64) (kind : OpKind) (op : Fin 64)
  /-- CONTEXT_ABORT (R416). -/
  | contextAbort (part : Option (Fin 4)) (value : W32)
  /-- RIDGE_QUIESCE (R417). -/
  | ridgeQuiesce (ridge : Fin 64) (value : W32)
  /-- DMA_QUIESCE (R417). -/
  | dmaQuiesce (c : Fin 32) (value : W32)
  /-- CFL_QUIESCE (R417). -/
  | cflQuiesce (e : Fin 8) (value : W32)
  /-- PARTITION_QUIESCE (R418). -/
  | partitionQuiesce (value : W32)
  /-- QUIESCE_TIMEOUT (R419). -/
  | quiesceTimeout (ridge : Fin 64)
  /-- ESC_GO_CHIP_RESET (R421). -/
  | escGoChipReset (value : W32)
  /-- ESC_GO_POWER_CYCLE (R420). -/
  | escGoPowerCycle (value : W32)
  /-- CHIP_RESET (R419). -/
  | chipReset (cause : ResetCause)
  /-- MAILBOX_GO (R518). -/
  | mailboxGo (value : W32)
  /-- CKPT_DIGEST (R429). -/
  | ckptDigest
  /-- CKPT_TABLES (R427). -/
  | ckptTables
  /-- CKPT_SIGN (R427). -/
  | ckptSign
  /-- VERIFY_BYTES (R427). -/
  | verifyBytes
  /-- VERIFY_PAGE_LIST (R427). -/
  | verifyPageList
  /-- VERIFY_SIGNATURE (R436). -/
  | verifySignature
  /-- CKPT_LOAD (R427). -/
  | ckptLoad
  /-- FLASH_READ (R519). -/
  | flashRead
  /-- FLASH_ERASE (R519). -/
  | flashErase
  /-- FLASH_PROGRAM (R519). -/
  | flashProgram
  /-- FLASH_SELECT (R519). -/
  | flashSelect
  /-- FLASH_CONFIRM (R519). -/
  | flashConfirm
  /-- ATTESTATION_REPORT (R521). -/
  | attestationReport
  /-- CAIRN_PAIR_BORROW (R449). -/
  | cairnPairBorrow (check : BitVec 8)
  /-- CAIRN_ACQ_TIMEOUT (R449). -/
  | cairnAcqTimeout (check : BitVec 8)
  /-- CAIRN_RECOMPUTE_DONE (R452). -/
  | cairnRecomputeDone (check : BitVec 8) (r : Recompute)
  /-- CAIRN_ARBITER_DONE (R452). -/
  | cairnArbiterDone (check : BitVec 8) (r : Arbitration)
  /-- UHL_CLEAR (R464). -/
  | uhlClear (value : W32)
  /-- CHK_SEED_WRITE (R447). -/
  | chkSeedWrite (value : W32)
  /-- DIGEST_ENGINE_START (R465). -/
  | digestEngineStart (value : W32)
  /-- DIGEST_ENGINE_DONE (R465). -/
  | digestEngineDone
  /-- CLOCK_MONITOR_WINDOW (R479). -/
  | clockMonitorWindow (core pcie watch : W32)
  /-- CLOCK_FAST_TEST (R479). -/
  | clockFastTest (pcie : Bool) (edges : BitVec 16)
  /-- CLOCK_RETURN (R483). -/
  | clockReturn (input : ClkInput)
  /-- DIVIDER_RAMP_STEP (R476). -/
  | dividerRampStep (island : Fin 125)
  /-- FMC_GO (R484). -/
  | fmcGo
  /-- FMC_ABORT (R484). -/
  | fmcAbort
  /-- FMC_DONE (R484). -/
  | fmcDone (count : BitVec 40)
  /-- RAIL_OUT_OF_WINDOW (R487). -/
  | railOutOfWindow (rail : Fin 11)
  /-- RESET_RELEASE (R486). -/
  | resetRelease (straps : BitVec 14)
  /-- FORCED_RESET_RELEASE (R486). -/
  | forcedResetRelease (straps : BitVec 14)
  /-- FLASH_RESET_RELEASE (R539). -/
  | flashResetRelease (silent : Bool)
  /-- BOOT_SLOT_VERIFY (R514). -/
  | bootSlotVerify
  /-- BOOT_READY (R509). -/
  | bootReady
  /-- AVS_VOLTAGE_ACK (R488). -/
  | avsVoltageAck (die : Fin 4)
  /-- AVS_TIMEOUT (R488). -/
  | avsTimeout (die : Fin 4)
  /-- THERMAL_TICK (R491). -/
  | thermalTick (ridges edies hbms : List (Option Byte))
  /-- POWER_TICK (R492). -/
  | powerTick (short long : BitVec 16)
  /-- DIE_IDLE_ENTRY (R493). -/
  | dieIdleEntry (die : Fin 4)
  /-- BAR2_READ (R502). -/
  | bar2Read (off : BitVec 40) (len : BitVec 13) (m : MemUse)
  /-- BAR2_WRITE (R502). -/
  | bar2Write (off : BitVec 40) (data : List Byte) (enables : List Bool) (m : MemUse)
  /-- PCIE_LINK_LOSS (R503). -/
  | pcieLinkLoss
  /-- TALLY_NOTICE_FIRE (R505). -/
  | tallyNoticeFire (n : Fin 64)
  /-- SMB_STATUS (R506). -/
  | smbStatus (pec : Bool)
  /-- SMB_TEMP (R506). -/
  | smbTemp (pec : Bool)
  /-- SMB_POWER (R506). -/
  | smbPower (pec : Bool)
  /-- SMB_ESC_CAUSE (R506). -/
  | smbEscCause (pec : Bool)
  /-- SMB_POSITION (R506). -/
  | smbPosition (pec : Bool)
  /-- SMB_ID_DIGEST (R506). -/
  | smbIdDigest (pec : Bool)
  /-- SMB_SVN (R506). -/
  | smbSvn (pec : Bool)
  /-- SMB_TRAY_LIMIT_WRITE (R506). -/
  | smbTrayLimitWrite (watts : BitVec 16) (pec : Pec)
  /-- SMB_TRAY_LIMIT_READ (R506). -/
  | smbTrayLimitRead (pec : Bool)
  /-- SMB_BAD_COMMAND (R506). -/
  | smbBadCommand (code : Byte)
  /-- SMB_ALERT_RESPONSE (R507). -/
  | smbAlertResponse
  /-- SVN_COMMIT (R517). -/
  | svnCommit (value : W32) (bad : Option (Fin 64))
  /-- STRAP_COMPARE (R536). -/
  | strapCompare (straps : BitVec 14)
  /-- JTAG_BYPASS (R540). -/
  | jtagBypass
  /-- JTAG_SAMPLE_PRELOAD (R540). -/
  | jtagSamplePreload (lands preload : List Bool)
  /-- JTAG_EXTEST (R540). -/
  | jtagExtest
  /-- JTAG_CLAMP (R540). -/
  | jtagClamp
  /-- JTAG_HIGHZ (R540). -/
  | jtagHighz
  /-- RAILS_IN_WINDOW (R486). -/
  | railsInWindow (rail : Fin 11)
  /-- WATCH_OSC_EDGE_TIMEOUT (R479). -/
  | watchOscEdgeTimeout
  /-- D2D_LINKS_TRAINED (R28). -/
  | d2dLinksTrained
  /-- PCIE_LINK_UP (R503). -/
  | pcieLinkUp (rate : Fin 6) (width : Fin 5) (flit : Bool)
  /-- PROG_WAIT (R265). -/
  | progWait (w : Fin 64)
  /-- MSIX_UNMASK (R504). -/
  | msixUnmask (vector : BitVec 8)
  /-- CONFIGURATION_WRITE (R500). -/
  | configurationWrite (w : CfgWrite)
  /-- ATOMICOP_REQUEST (R500). -/
  | atomicopRequest
  /-- PORT_CFG_WRITE (R287). -/
  | portCfgWrite (port : Fin 36) (value : W32)
deriving DecidableEq, Repr

end Sys2Proof
end

