-- ==== Sys2Proof/Decode.lean ====
section
/-! DEFINITION. The opcode table gives its commands no bits, so no word spells one. -/
namespace Sys2Proof

/-- The command that a word of `nbits` bits spells: none, since no row of the table has bits. -/
def decodeTableWord (_nbits _w : Nat) : Option Instr := none

end Sys2Proof
end

