-- ==== Sys2Proof/Machine/Bits.lean ====
section
/-! DEFINITION. Bit fields of words, little-endian bytes, and small numeric helpers shared by every block. -/
namespace Sys2Proof.Machine

/-- Bits `[hi:lo]` of a natural number (the manual's `[msb:lsb]` notation, R5). -/
def bits (x hi lo : Nat) : Nat := (x >>> lo) % 2 ^ (hi + 1 - lo)

/-- Field `[hi:lo]` of a register word. -/
def fld (w : W32) (hi lo : Nat) : Nat := bits w.toNat hi lo

/-- Bit `i` of a register word. -/
def bitOf (w : W32) (i : Nat) : Bool := w.toNat.testBit i

/-- The word with field `[hi:lo]` replaced by `v` (taken modulo the field's size). -/
def setFld (w : W32) (hi lo v : Nat) : W32 :=
  let mask := (2 ^ (hi + 1 - lo) - 1) <<< lo
  (w &&& ~~~(BitVec.ofNat 32 mask)) ||| BitVec.ofNat 32 ((v % 2 ^ (hi + 1 - lo)) <<< lo)

/-- The word with bit `i` set to `b`. -/
def setBit (w : W32) (i : Nat) (b : Bool) : W32 := setFld w i i b.toNat

/-- A word from a natural number, modulo 2^32. -/
def w32 (n : Nat) : W32 := BitVec.ofNat 32 n

/-- A 64-bit quantity from a natural number, modulo 2^64. -/
def w64 (n : Nat) : W64 := BitVec.ofNat 64 n

/-- The low half of a 64-bit quantity (R36). -/
def lo32 (q : W64) : W32 := q.setWidth 32

/-- The high half of a 64-bit quantity (R36). -/
def hi32 (q : W64) : W32 := (q >>> 32).setWidth 32

/-- A 64-bit quantity from its halves (R36). -/
def join64 (hi lo : W32) : W64 := (hi ++ lo)

/-- An increment that stops at all ones (the saturating counters, R41). -/
def satAdd32 (w : W32) (n : Nat) : W32 :=
  if w.toNat + n < 2 ^ 32 then w32 (w.toNat + n) else w32 (2 ^ 32 - 1)

/-- `n` bytes of a natural number, least significant first. -/
def leBytes : Nat → Nat → List Byte
  | 0, _ => []
  | n + 1, x => BitVec.ofNat 8 x :: leBytes n (x / 256)

/-- The natural number whose little-endian bytes are given. -/
def leNat : List Byte → Nat
  | [] => 0
  | b :: bs => b.toNat + 256 * leNat bs

/-- `n` bytes of a natural number, most significant first. -/
def beBytes (n x : Nat) : List Byte := (leBytes n x).reverse

/-- The natural number whose big-endian bytes are given. -/
def beNat (bs : List Byte) : Nat := leNat bs.reverse

/-- 32-bit little-endian words of a byte list; an incomplete last word is completed with zeros. -/
def leWords (bs : List Byte) (n : Nat) : List W32 :=
  (List.range n).map fun i => w32 (leNat ((bs.drop (4 * i)).take 4))

/-- The bytes of a list of words, each word little-endian. -/
def wordsBytes (ws : List W32) : List Byte := ws.flatMap fun w => leBytes 4 w.toNat

/-- Word `i` of a list of words, zero beyond its end. -/
def wordAt (ws : List W32) (i : Nat) : W32 := ws.getD i 0

/-- Field `[hi:lo]` of word `i` of a descriptor. -/
def wfld (ws : List W32) (i hi lo : Nat) : Nat := fld (wordAt ws i) hi lo

/-- A quantity in words `i` (low) and `i + 1` (high) of a descriptor, with `n` bits. -/
def wquad (ws : List W32) (i n : Nat) : Nat :=
  ((wordAt ws i).toNat + (wordAt ws (i + 1)).toNat * 2 ^ 32) % 2 ^ n

/-- The two's-complement value of the low `n` bits of `x`. -/
def signedOf (n x : Nat) : Int :=
  let y := x % 2 ^ n
  if y < 2 ^ (n - 1) then (y : Int) else (y : Int) - 2 ^ n

/-- Every bit outside the given `(hi, lo)` fields of word `w` is zero. -/
def onlyBits (w : W32) (fs : List (Nat × Nat)) : Bool :=
  (fs.foldl (fun acc f => setFld acc f.1 f.2 0) w) == 0

/-- Division rounding up. -/
def ceilDiv (a b : Nat) : Nat := if b = 0 then 0 else (a + b - 1) / b

/-- The population count of the low `n` bits. -/
def popCount (n x : Nat) : Nat := (List.range n).countP fun i => x.testBit i

/-- Replace element `i` of a list, leaving the list alone where it is too short. -/
def setAt {α : Type} (l : List α) (i : Nat) (v : α) : List α := l.set i v

end Sys2Proof.Machine
end

