-- ==== Sys2Proof/Machine/Crypto.lean ====
section
/-! DEFINITION. The checks that the manual names by their standards: CRC-64 of flits (R289), CRC-32, CRC-8 of SMBus, SHA-256 (R309). -/
namespace Sys2Proof.Machine

/-! ### Cyclic redundancy checks -/

/-- One bit of a CRC of `n` bits, most significant bit first. -/
def crcBit (n poly : Nat) (r : Nat) (b : Bool) : Nat :=
  let top := (r / 2 ^ (n - 1) % 2 == 1) != b
  let s := r * 2 % 2 ^ n
  if top then s ^^^ poly else s

/-- One byte, most significant bit first. -/
def crcByte (n poly : Nat) (r : Nat) (b : Byte) : Nat :=
  [7, 6, 5, 4, 3, 2, 1, 0].foldl (fun r i => crcBit n poly r (b.getLsbD i)) r

/-- CRC-64 with the ECMA-182 polynomial, initial value all ones, inverted (R289). -/
def crc64 (bs : List Byte) : Nat :=
  (2 ^ 64 - 1) ^^^ bs.foldl (crcByte 64 0x42F0E1EBA9EA3693) (2 ^ 64 - 1)

/-- The packet error code of SMBus: CRC-8 with the polynomial x^8 + x^2 + x + 1. -/
def crc8 (bs : List Byte) : Nat := bs.foldl (crcByte 8 0x07) 0

/-- One byte of the reflected CRC-32 of IEEE 802.3. -/
def crc32Byte (r : Nat) (b : Byte) : Nat :=
  (List.range 8).foldl (fun r _ => if r % 2 = 1 then (r / 2) ^^^ 0xEDB88320 else r / 2) (r ^^^ b.toNat)

/-- CRC-32 of IEEE 802.3: reflected, initial value all ones, inverted. -/
def crc32 (bs : List Byte) : W32 := w32 ((2 ^ 32 - 1) ^^^ bs.foldl crc32Byte (2 ^ 32 - 1))

/-! ### SHA-256 (FIPS 180-4) -/

/-- The `k`-th root of `x`, rounded down: its bits found from the highest, `2 ^ n` and above excluded. -/
def rootFloor (k x : Nat) : Nat → Nat → Nat
  | 0, r => r
  | n + 1, r => rootFloor k x n (if (r + 2 ^ n) ^ k ≤ x then r + 2 ^ n else r)

/-- The first 32 bits of the fractional part of the `k`-th root of `p`. -/
def rootFrac (k p : Nat) : W32 := w32 (rootFloor k (p * 2 ^ (32 * k)) 40 0)

/-- The primes below `n`. -/
def primesBelow (n : Nat) : List Nat :=
  (List.range n).filter fun p => decide (2 ≤ p) && (List.range p).all fun d => decide (d < 2) || p % d != 0

/-- The round constants: from the cube roots of the first 64 primes. -/
def shaK : List W32 := (primesBelow 312).map (rootFrac 3)

/-- The initial hash value: from the square roots of the first eight primes. -/
def shaInit : List W32 := (primesBelow 20).map (rootFrac 2)

def shaS (a b : Nat) (x : W32) (c : Nat) : W32 := x.rotateRight a ^^^ x.rotateRight b ^^^ (x >>> c)
def shaR (a b c : Nat) (x : W32) : W32 := x.rotateRight a ^^^ x.rotateRight b ^^^ x.rotateRight c

/-- The message schedule, latest word first. -/
def shaSched : Nat → List W32 → List W32
  | 0, w => w
  | n + 1, w => shaSched n ((shaS 17 19 (w.getD 1 0) 10 + w.getD 6 0 + shaS 7 18 (w.getD 14 0) 3 + w.getD 15 0) :: w)

/-- One round. -/
def shaRound (h : List W32) (kw : W32 × W32) : List W32 :=
  let a := h.getD 0 0
  let b := h.getD 1 0
  let c := h.getD 2 0
  let e := h.getD 4 0
  let f := h.getD 5 0
  let g := h.getD 6 0
  let t1 := h.getD 7 0 + shaR 6 11 25 e + ((e &&& f) ^^^ (~~~e &&& g)) + kw.1 + kw.2
  let t2 := shaR 2 13 22 a + ((a &&& b) ^^^ (a &&& c) ^^^ (b &&& c))
  [t1 + t2, a, b, c, h.getD 3 0 + t1, e, f, g]

/-- One block of 64 bytes. -/
def shaBlock (h : List W32) (blk : List Byte) : List W32 :=
  let w := (List.range 16).map fun i => w32 (beNat ((blk.drop (4 * i)).take 4))
  let r := (shaK.zip (shaSched 48 w.reverse).reverse).foldl shaRound h
  (h.zip r).map fun p => p.1 + p.2

/-- The padded message. -/
def shaPad (m : List Byte) : List Byte :=
  m ++ [0x80#8] ++ List.replicate ((119 - m.length % 64) % 64) 0#8 ++ beBytes 8 (8 * m.length)

/-- All blocks. -/
def shaBlocks : Nat → List W32 → List Byte → List W32
  | 0, h, _ => h
  | n + 1, h, m => shaBlocks n (shaBlock h (m.take 64)) (m.drop 64)

/-- The SHA-256 digest of a byte string: 32 bytes. -/
def sha256 (m : List Byte) : List Byte :=
  let p := shaPad m
  (shaBlocks (p.length / 64) shaInit p).flatMap fun w => beBytes 4 w.toNat

end Sys2Proof.Machine
end

