-- ==== Sys2Proof/Config.lean ====
section
/-! DEFINITION. What the manual leaves open: values without a body, so that nothing can be proved about them but what
holds of every value. -/
namespace Sys2Proof

/-- A word the manual calls unpredictable: the `n`-th draw, at place `tag` (R6). -/
opaque Config.freeWord : Nat → Nat → W32

/-- A byte the manual calls unpredictable: the `n`-th draw, at place `tag` (R6). -/
opaque Config.freeByte : Nat → Nat → Byte

/-- An outcome the manual calls unpredictable (R6). -/
opaque Config.freeBit : Nat → Nat → Bool

/-- A count the manual does not fix, such as the island cycles that pass in one reference count. -/
opaque Config.freeNat : Nat → Nat → Nat

/-- Whether a signature verifies under SLH-DSA-SHA2-128f (R309, R522): public key, context string, message, signature. The
manual names the algorithm and gives no more of it. -/
opaque Config.slhVerify : List Byte → List Byte → List Byte → List Byte → Bool

/-- The signature that the security core makes under its identity key (R309, R522): public key, context string, message. -/
opaque Config.slhSign : List Byte → List Byte → List Byte → List Byte

/-- The bytes of a HELLO (R308, R309): position word, generation, nonce. The manual gives no layout. -/
opaque Config.helloBytes : W32 → Nat → List Byte → List Byte

/-- The device secret in the fuses, 32 bytes (R520). -/
opaque Config.deviceSecret : BitVec 256

/-- PK.root of the key pair that SLH-DSA-SHA2-128f makes of its three seeds SK.seed, SK.prf, PK.seed (R520, FIPS 205). -/
opaque Config.slhRoot : List Byte → List Byte → List Byte → BitVec 128

/-- Whether a firmware signature verifies under SLH-DSA-SHA2-192s (R514): public key, message, signature. -/
opaque Config.vendorVerify : List Byte → List Byte → List Byte → Bool

/-- The vendor key digest in the fuses, 32 bytes (R514). -/
opaque Config.vendorDigest : List Byte

/-- The bytes of the boot configuration sector (R515): preferred slot, trial state, place. The manual gives no layout. -/
opaque Config.bootSector : Nat → Nat → Nat → Byte

end Sys2Proof
end

