-- ==== Sys2Proof/Machine/Layout.lean ====
section
/-! DEFINITION. The BAR0 register pages: the page index (R32), and for each block the registers with their offsets, reset
values and writable bits, as the register tables of each chapter give them. -/
namespace Sys2Proof.Machine

/-- A register page of R32, with its instance number. -/
inductive Page where
  | dev | clk | pwr | thm | pci | smb | stp | sec | boot | uhl
  | die (k : Nat) | rdg (n : Nat) | acc (n : Nat) | brk (n : Nat) | chk (n : Nat) | trn (n : Nat)
  | hbm (k : Nat) | hbm2 (k : Nat) | bsn (k : Nat) | dmaG | dma (c : Nat)
  | prt (p : Nat) | prt2 (p : Nat) | cfl (e : Nat)
  | step | hdw | oxb | chkG | scl | nrm | nse | pmap | cwn | tly | ril (c : Nat)
deriving DecidableEq, Repr

/-- The BAR0 address of a page (R32). -/
def Page.base : Page → Nat
  | .dev => 0x0 | .clk => 0x1000 | .pwr => 0x2000 | .thm => 0x3000 | .pci => 0x4000
  | .smb => 0x5000 | .stp => 0x6000 | .sec => 0x7000 | .boot => 0x8000 | .uhl => 0x9000
  | .die k => 0x100000 + k * 0x1000
  | .rdg n => 0x200000 + n * 0x4000 | .acc n => 0x201000 + n * 0x4000
  | .brk n => 0x202000 + n * 0x4000 | .chk n => 0x203000 + n * 0x4000
  | .trn n => 0x300000 + n * 0x1000
  | .hbm k => 0x400000 + k * 0x2000 | .hbm2 k => 0x401000 + k * 0x2000
  | .bsn k => 0x500000 + k * 0x1000
  | .dmaG => 0x600000 | .dma c => 0x601000 + c * 0x1000
  | .prt p => 0x700000 + p * 0x2000 | .prt2 p => 0x701000 + p * 0x2000
  | .cfl e => 0x780000 + e * 0x1000
  | .step => 0x800000 | .hdw => 0x801000 | .oxb => 0x802000 | .chkG => 0x803000
  | .scl => 0x804000 | .nrm => 0x805000 | .nse => 0x806000 | .pmap => 0x807000
  | .cwn => 0x808000 | .tly => 0x809000
  | .ril c => 0xC00000 + c * 0x1000

/-- The page that occupies BAR0 address `a`, if any (R31, R32). -/
def pageAt (a : Nat) : Option Page :=
  let q := a / 0x1000
  if q < 0x100 then
    match q with
    | 0 => some .dev | 1 => some .clk | 2 => some .pwr | 3 => some .thm | 4 => some .pci
    | 5 => some .smb | 6 => some .stp | 7 => some .sec | 8 => some .boot | 9 => some .uhl
    | _ => none
  else if q < 0x200 then if q - 0x100 < 4 then some (.die (q - 0x100)) else none
  else if q < 0x300 then
    let n := (q - 0x200) / 4
    match (q - 0x200) % 4 with
    | 0 => some (.rdg n) | 1 => some (.acc n) | 2 => some (.brk n) | _ => some (.chk n)
  else if q < 0x400 then if q - 0x300 < 64 then some (.trn (q - 0x300)) else none
  else if q < 0x500 then
    if q - 0x400 < 16 then some (if q % 2 = 0 then .hbm ((q - 0x400) / 2) else .hbm2 ((q - 0x400) / 2)) else none
  else if q < 0x600 then if q - 0x500 < 4 then some (.bsn (q - 0x500)) else none
  else if q < 0x700 then
    if q = 0x600 then some .dmaG else if q - 0x601 < 32 then some (.dma (q - 0x601)) else none
  else if q < 0x780 then
    if q - 0x700 < 72 then some (if q % 2 = 0 then .prt ((q - 0x700) / 2) else .prt2 ((q - 0x700) / 2)) else none
  else if q < 0x800 then if q - 0x780 < 8 then some (.cfl (q - 0x780)) else none
  else if q < 0xC00 then
    match q - 0x800 with
    | 0 => some .step | 1 => some .hdw | 2 => some .oxb | 3 => some .chkG | 4 => some .scl
    | 5 => some .nrm | 6 => some .nse | 7 => some .pmap | 8 => some .cwn | 9 => some .tly
    | _ => none
  else if q - 0xC00 < 77 then some (.ril (q - 0xC00)) else none

/-- The block type and the instance field of the page's `ID` register (R32, R34). -/
def Page.typeInst : Page → Nat × Nat
  | .dev => (0x01, 0) | .clk => (0x02, 0) | .pwr => (0x03, 0) | .thm => (0x04, 0) | .pci => (0x05, 0)
  | .smb => (0x06, 0) | .stp => (0x07, 0) | .sec => (0x08, 0) | .boot => (0x09, 0) | .uhl => (0x0A, 0)
  | .die k => (0x10, k) | .rdg n => (0x11, n) | .acc n => (0x13, n) | .brk n => (0x14, n)
  | .chk n => (0x15, n) | .trn n => (0x12, n)
  | .hbm k => (0x20, k) | .hbm2 k => (0x20, 0x80 + k) | .bsn k => (0x21, k)
  | .dmaG => (0x30, 0xFF) | .dma c => (0x30, c)
  | .prt p => (0x40, p) | .prt2 p => (0x40, 0x80 + p) | .cfl e => (0x41, e)
  | .step => (0x50, 0xFF) | .hdw => (0x51, 0xFF) | .oxb => (0x52, 0xFF) | .chkG => (0x15, 0xFF)
  | .scl => (0x53, 0xFF) | .nrm => (0x54, 0xFF) | .nse => (0x55, 0xFF) | .pmap => (0x22, 0xFF)
  | .cwn => (0x60, 0xFF) | .tly => (0x61, 0xFF)
  | .ril c => (0x70, c)

/-- The page's `ID` register: type, instance, silicon revision 0xA1 (R34). -/
def Page.id (p : Page) : W32 := w32 (p.typeInst.1 * 65536 + p.typeInst.2 * 256 + 0xA1)

/-- The kind code of Rill core `c` (R214): 0 step sequencer, 1 die, 2 Ridge, 3 Confluence. -/
def coreKind (c : Nat) : Nat := if c = 0 then 0 else if c ≤ 4 then 1 else if c ≤ 68 then 2 else 3

/-- The role of a port: 0 group, 1 global, 2 flex (R283). -/
def portRole (p : Nat) : Nat := if p < 8 then 0 else if p < 16 then 1 else if p < 18 then 2 else if p < 25 then 0 else
  if p < 33 then 1 else 2

/-- The page's `CAPS` register, as each block's chapter states it (R34). -/
def Page.caps : Page → W32
  | .dev => 0x80030000#32 | .clk => 0x8003007D#32 | .pwr => 0x8002073A#32 | .thm => 0x80030040#32
  | .pci => 0x80020100#32 | .smb => 0x80020000#32 | .stp => 0x00020000#32 | .sec => 0x00020000#32
  | .boot => 0x80030002#32 | .uhl => 0x80028000#32
  | .die _ => 0x00020010#32 | .rdg _ => 0x80030040#32 | .acc _ => 0x80050010#32 | .brk _ => 0x00020100#32
  | .chk _ => 0x00020010#32 | .trn _ => 0x8002000C#32
  | .hbm _ => 0x80030050#32 | .hbm2 _ => 0x0#32 | .bsn _ => 0x80030060#32
  | .dmaG => 0x80000020#32 | .dma _ => 0x80030010#32
  | .prt p => w32 (0x80060010 + portRole p)
  | .prt2 _ => 0x80000000#32 | .cfl _ => 0x80050010#32
  | .step => 0x80050002#32 | .hdw => 0x80020008#32 | .oxb => 0x80030002#32 | .chkG => 0x80030000#32
  | .scl => 0x80040000#32 | .nrm => 0x00020000#32 | .nse => 0x00030000#32 | .pmap => 0x80050013#32
  | .cwn => 0x00030040#32 | .tly => 0x80011000#32
  | .ril c => w32 (0x80050000 + coreKind c)

/-- `CAPS.SEALABLE` (R34, R43). -/
def Page.sealable (p : Page) : Bool := bitOf p.caps 31

/-- `CAPS.ERR_BITS`: the number of error bits the block defines (R34). -/
def Page.errBits (p : Page) : Nat := fld p.caps 23 16

/-- How a register takes writes: by the plain register write, by a `_LO`/`_HI` pair (R37), or by a command of its own. -/
inductive RegKind where
  | plain | lo | hi | own
deriving DecidableEq, Repr

/-- One row of a register table: offset, number of registers and their stride, reset value, the bits with access RW,
RWS and W1C, and how writes reach it. Registers not listed are RO with reset 0, or not defined (R31). -/
structure RegRow where
  off : Nat
  count : Nat := 1
  stride : Nat := 4
  reset : Nat := 0
  rw : Nat := 0
  rws : Nat := 0
  w1c : Nat := 0
  kind : RegKind := .plain
deriving DecidableEq, Repr

/-- All 32 bits. -/
def all32 : Nat := 0xFFFFFFFF

/-- The rows of a `_LO`/`_HI` pair with access RW. -/
def pairRw (off lo hi : Nat) : List RegRow :=
  [{ off := off, rw := lo, kind := .lo }, { off := off + 4, rw := hi, kind := .hi }]

/-- The rows of a `_LO`/`_HI` pair with access RWS. -/
def pairRws (off lo hi : Nat) : List RegRow :=
  [{ off := off, rws := lo, kind := .lo }, { off := off + 4, rws := hi, kind := .hi }]

/-- The block-specific RW bits of `CTL` that software sets through the plain write: bits, RWS bits, and their reset
(R421, R422, R423, R424, and the PWR page of R497). -/
def Page.ctlBlock : Page → Nat × Nat × Nat
  | .dev => (0x50030000, 0, 0)
  | .cwn => (0x003F0000, 0, 0)
  | .step => (0x6FFF0000, 0, 0x08730000)
  | .rdg _ => (0, 0x0FFF0000, 0x01000000)
  | .pwr => (0x00010000, 0, 0x00010000)
  | _ => (0, 0, 0)

/-- The common header (R34) of a page: its writable registers. -/
def headerRows (p : Page) : List RegRow :=
  let c := p.ctlBlock
  let inj := if p.sealable then (0, 2) else (2, 0)
  let e := 2 ^ p.errBits - 1
  let m := if p.sealable then (0, e) else (e, 0)
  [ { off := 0x000, reset := p.id.toNat },
    { off := 0x004, reset := p.caps.toNat },
    { off := 0x008, reset := c.2.2, rw := c.1 + inj.1 + 1, rws := c.2.1 + inj.2 },
    { off := 0x010, w1c := e, kind := .own },
    { off := 0x014, rw := m.1, rws := m.2 },
    { off := 0x018, w1c := e, kind := .own },
    { off := 0x01C, kind := .own },
    { off := 0x020, rw := all32 },
    { off := 0x024, kind := .own },
    { off := 0x028, w1c := 0x40000000 },
    { off := 0x02C, rw := 0x80FF80FF } ] ++ pairRw 0x030 all32 all32 ++ pairRw 0x038 all32 all32

/-- The block-specific registers that take writes or have a reset value other than zero. -/
def blockRows : Page → List RegRow
  | .dev => [{ off := 0x100, rws := 0x33, kind := .own }]
  | .clk => [{ off := 0x100, reset := 0x03E80001, rws := 0xFFFF0001 }, { off := 0x118, kind := .own },
      { off := 0x11C, reset := 0x7F7D, rw := 0xFFFF }, { off := 0x120, reset := 0x10000, rw := 0xFFFFFF },
      { off := 0x200, count := 76, reset := 0x00400040, rw := 0x3FF },
      { off := 0x330, count := 36, reset := 0 },
      { off := 0x3C0, count := 10, reset := 0x00400040, rw := 0x3FF },
      { off := 0x3EC, reset := 0x00500050, rw := 0x3FF }]
  | .pwr => [{ off := 0x100, reset := 0x073A07D0, rws := all32 }, { off := 0x108, reset := 2 },
      { off := 0x10C, reset := 0x32323232 }, { off := 0x110, rw := all32 }]
  | .thm => [{ off := 0x100, reset := 0x5F6E0200, rws := 0xFFFFFF00 }, { off := 0x154, rw := all32 }]
  | .pci => pairRws 0x104 0xFF000000 0x7FF ++ [{ off := 0x10C, rws := 0x8000003F },
      { off := 0x200, count := 64, rw := 0x80000FFF }, { off := 0x300, count := 64, rw := all32 }]
  | .smb => [{ off := 0x104, reset := 1, rws := 1 }]
  | .stp => [{ off := 0x108, rw := all32 }]
  | .sec => []
  | .boot => [{ off := 0x100, reset := 0x80800 }, { off := 0x104, rws := 1 }] ++ pairRw 0x108 0xFFFFFFC0 0x7FF ++ [{ off := 0x110, rw := 3 }]
  | .uhl => [{ off := 0x10C, rw := 0x7FFF }, { off := 0x150, rws := 0xFFF }]
  | .die _ => [{ off := 0x110, rw := all32 }]
  | .rdg _ => [{ off := 0x100, reset := 0x4004, rws := 0xFF07 }] ++ pairRw 0x104 all32 all32 ++
      [{ off := 0x118, reset := 0xFF }]
  | .acc _ => [{ off := 0x100, reset := 0x1FF, rws := 0x7F03FF }, { off := 0x104, rws := 0xFFFFE0 },
      { off := 0x10C, w1c := 0xF0F }, { off := 0x110, count := 4, rw := all32 }]
  | .brk _ => [{ off := 0x104, w1c := 0x1F }]
  | .chk _ => [{ off := 0x100, count := 5, rw := all32 }]
  | .trn _ => [{ off := 0x100, reset := 0x401, rws := 0xF01 }]
  | .hbm _ => [{ off := 0x100, reset := 0x601, rws := 0xF01 }]
  | .hbm2 _ => []
  | .bsn _ => [{ off := 0x100, reset := 0x8, rws := 0xF }]
  | .dmaG => pairRws 0x100 all32 all32
  | .dma _ => [{ off := 0x100, reset := 0x3040, rws := 0x377FF, kind := .own }, { off := 0x104, kind := .own }]
  | .prt _ => [{ off := 0x100, reset := 6, rws := 0xBF07, kind := .own }, { off := 0x104, kind := .own },
      { off := 0x108, reset := 0x10000000 },
      { off := 0x110, reset := 0x00A01403, rws := 0xFFFFFF0F }, { off := 0x114, reset := 0x3E8, rws := 0xFFFF },
      { off := 0x118, reset := 0x64, rws := 0xFFFF }, { off := 0x11C, reset := 0x40040310, rws := all32 },
      { off := 0x120, reset := 0x3E8, rws := 0xFFFF }, { off := 0x124, reset := 0x80102000, rws := 0x80FFFFFF },
      { off := 0x12C, reset := all32 }, { off := 0x130, count := 8, rw := all32 }]
  | .prt2 p => [{ off := 0x100, rws := 0xFFFFFF00 }, { off := 0x104, count := 8, rws := all32 },
      { off := 0x140, count := 8, stride := 8, rws := 0x7FFFF, kind := .lo },
      { off := 0x144, count := 8, stride := 8, rws := 0xF007FFFF, kind := .hi }] ++
      (if p = 0 then
        [{ off := 0x400, reset := 0x801000C8, rws := 0x80FF00FF }, { off := 0x404, kind := .own },
         { off := 0x414, rw := 0xFF }, { off := 0x420, count := 8, rws := 0xFFFFF800 },
         { off := 0x440, count := 8, rws := 0x7FFFF }] else [])
  | .cfl e => [{ off := 0x100, reset := 0x10000020, rws := 0xFFFF00FF }, { off := 0x104, rws := 0x7FFFF }] ++
      (if e = 0 then [{ off := 0x108, reset := 0x01010000, rws := 0x01FF01FF }] else [])
  | .step => pairRws 0x100 all32 all32 ++ [{ off := 0x108, rw := all32, kind := .own },
      { off := 0x10C, reset := all32 }, { off := 0x120, reset := 0x1000, rws := 0xFFFFFF }]
  | .hdw => pairRws 0x100 0xFFFFF000 0x7FF ++ [{ off := 0x108, reset := 0x01001F04, rws := 0xFFFF1FFF },
      { off := 0x110, count := 8, stride := 8, rw := all32, kind := .lo },
      { off := 0x114, count := 8, stride := 8, rw := all32, kind := .own }] ++
      pairRws 0x150 all32 0x7FF ++ pairRws 0x158 all32 0x7FF
  | .oxb => [{ off := 0x100, reset := 1, rws := 0x80000003 },
      { off := 0x104, count := 4, rws := 0xBFFE0000, kind := .own }] ++
      pairRws 0x114 all32 0x7FF ++ pairRws 0x11C all32 0x7FF ++ pairRws 0x124 all32 0x7FF ++
      pairRws 0x12C all32 0x7FF ++ [{ off := 0x134, reset := 0x1000, rws := 0xFFFF }] ++
      pairRws 0x138 0xFFFFFFF0 0x7FF ++ [{ off := 0x140, kind := .own }, { off := 0x14C, count := 3, rw := all32 }]
  | .chkG => [{ off := 0x100, reset := 0x91080064, rws := 0xBF1FFFFF },
      { off := 0x104, reset := 0x2545F491, rws := all32, kind := .own },
      { off := 0x110, reset := 0x40, rws := 0xFFF0FFFF }] ++ pairRws 0x114 0xFFFFFFC0 0x7FF ++
      [{ off := 0x11C, kind := .own }, { off := 0x124, rw := all32 }]
  | .scl => [{ off := 0x100, rws := 1 }] ++ pairRws 0x104 all32 all32 ++
      [{ off := 0x110, rw := all32 }, { off := 0x114, rw := 0xFFFFFF }, { off := 0x118, rw := all32, kind := .lo },
       { off := 0x11C, rw := 0xFF, kind := .own }, { off := 0x120, reset := 0x80000000 }]
  | .nrm => []
  | .nse => []
  | .pmap => [{ off := 0x100, reset := 1, rws := 0x3FF, kind := .own }, { off := 0x110, rw := 0x11FFF }] ++
      pairRw 0x118 all32 0xF ++ [{ off := 0x120, rw := all32, kind := .lo }, { off := 0x124, rw := all32, kind := .own }] ++
      pairRws 0x128 all32 all32 ++ [{ off := 0x200, count := 64, rws := all32 }]
  | .cwn => [{ off := 0x100, count := 64, rw := all32, kind := .own },
      { off := 0x200, count := 64, reset := 0x400 }, { off := 0x300, count := 64, kind := .own },
      { off := 0x500, count := 8, stride := 16, rw := 0x81FFFFFF, kind := .own },
      { off := 0x508, count := 8, stride := 16, rw := 0 }, { off := 0x50C, count := 8, stride := 16, rw := 7 }]
  | .tly => [{ off := 0x100, kind := .own }, { off := 0x200, count := 64, rws := 0xFF, kind := .own }]
  | .ril _ => [{ off := 0x100, kind := .own }, { off := 0x104, rw := 0x3FFF, kind := .own },
      { off := 0x10C, rw := 0x3F, kind := .own }, { off := 0x110, rws := 0x80003FFF },
      { off := 0x114, rws := 1 }, { off := 0x118, reset := 0x100000, rws := all32 },
      { off := 0x11C, reset := 0x1000, rws := all32 },
      { off := 0x208, count := 15, stride := 8, rw := all32, kind := .lo },
      { off := 0x20C, count := 15, stride := 8, rw := all32, kind := .own }, { off := 0x280, rw := 0xF, kind := .own }]

/-- Row `r` describes offset `off`. -/
def RegRow.covers (r : RegRow) (off : Nat) : Bool :=
  r.off ≤ off && (off - r.off) % r.stride == 0 && (off - r.off) / r.stride < r.count

/-- The row of a page's register at `off`, if it takes writes or has a reset value. -/
def Page.row (p : Page) (off : Nat) : Option RegRow :=
  if off < 0x100 then (headerRows p).find? fun r => r.covers off
  else (blockRows p).find? fun r => r.covers off

/-- The reset value of the register at `off`; the tally block owners (R266) and the sampling
states of Cairn (R447) differ by instance. -/
def Page.resetOf (p : Page) (off : Nat) : W32 :=
  match p, (0x200 ≤ off && off < 0x300), off == 0x120 with
  | .tly, true, _ => w32 ((off - 0x200) / 4)
  | .chk n, _, true => 0x2545F491#32 ^^^ w32 n
  | _, _, _ => match p.row off with
    | some r => w32 r.reset
    | none => 0

/-- What a BAR0 word address reads as when nothing has been written there. -/
def regDefault (a : Nat) : W32 :=
  match pageAt a with
  | some p => p.resetOf (a - p.base)
  | none => 0

/-- All pages, in ascending BAR0 address. -/
def allPages : List Page :=
  [.dev, .clk, .pwr, .thm, .pci, .smb, .stp, .sec, .boot, .uhl] ++ (List.range 4).map .die ++
  (List.range 64).flatMap (fun n => [.rdg n, .acc n, .brk n, .chk n]) ++ (List.range 64).map .trn ++
  (List.range 8).flatMap (fun k => [.hbm k, .hbm2 k]) ++ (List.range 4).map .bsn ++ [.dmaG] ++
  (List.range 32).map .dma ++ (List.range 36).flatMap (fun p => [.prt p, .prt2 p]) ++ (List.range 8).map .cfl ++
  [.step, .hdw, .oxb, .chkG, .scl, .nrm, .nse, .pmap, .cwn, .tly] ++ (List.range 77).map .ril

end Sys2Proof.Machine
end

