-- ==== Sys2Proof/Machine/Numeric.lean ====
section
/-! DEFINITION. The number formats: decoding, exact arithmetic on values, and the single rounding of every conversion
(R45 to R60). A value is a NaN, an infinity, or a sign and an exact magnitude `m × 2^e`. -/
namespace Sys2Proof.Machine

/-- A real value with the specials of the floating-point formats. A magnitude of zero keeps its sign (R49). -/
inductive Num where
  | nan
  | inf (neg : Bool)
  | fin (neg : Bool) (m : Nat) (e : Int)
deriving DecidableEq, Repr

/-- The number formats of R45. -/
inductive Fmt where
  | f8e4 | f8e5 | int8 | f4 | int4 | bf16 | fp16 | fp32
deriving DecidableEq, Repr

/-- The format of a 4-bit code; codes 0x8 to 0xF are unused (R45). -/
def Fmt.ofCode : Nat → Option Fmt
  | 0 => some .f8e4 | 1 => some .f8e5 | 2 => some .int8 | 3 => some .f4
  | 4 => some .int4 | 5 => some .bf16 | 6 => some .fp16 | 7 => some .fp32 | _ => none

/-- The 4-bit code of a format (R45). -/
def Fmt.code : Fmt → Nat
  | .f8e4 => 0 | .f8e5 => 1 | .int8 => 2 | .f4 => 3 | .int4 => 4 | .bf16 => 5 | .fp16 => 6 | .fp32 => 7

/-- The width of a stored element in bits (R45). -/
def Fmt.width : Fmt → Nat
  | .f8e4 | .f8e5 | .int8 => 8
  | .f4 | .int4 => 4
  | .bf16 | .fp16 => 16
  | .fp32 => 32

/-- The width in bytes of a format that is not packed. -/
def Fmt.bytes (f : Fmt) : Nat := f.width / 8

/-- An 8-bit format: an array operand at the 8-bit rate. -/
def Fmt.is8 : Fmt → Bool
  | .f8e4 | .f8e5 | .int8 => true
  | _ => false

/-- A 16-bit format. -/
def Fmt.is16 : Fmt → Bool
  | .bf16 | .fp16 => true
  | _ => false

/-- The fields of a binary floating-point encoding (R47): mantissa bits, bias, total width, largest finite code, code of
infinity (none in F8E4), canonical NaN (R48). -/
structure FpSpec where
  mant : Nat
  bias : Int
  width : Nat
  maxCode : Nat
  infCode : Option Nat
  nanCode : Nat
deriving DecidableEq, Repr

/-- The encodings of R47; integer and block formats have none. -/
def Fmt.fp : Fmt → Option FpSpec
  | .f8e4 => some ⟨3, 7, 8, 0x7F, none, 0x80⟩
  | .f8e5 => some ⟨2, 15, 8, 0x7B, some 0x7C, 0x7F⟩
  | .bf16 => some ⟨7, 127, 16, 0x7F7F, some 0x7F80, 0x7FC0⟩
  | .fp16 => some ⟨10, 15, 16, 0x7BFF, some 0x7C00, 0x7E00⟩
  | .fp32 => some ⟨23, 127, 32, 0x7F7FFFFF, some 0x7F800000, 0x7FC00000⟩
  | _ => none

/-- The exponent of the smallest subnormal: 1 − bias − mantissa bits (R47). -/
def FpSpec.emin (f : FpSpec) : Int := 1 - f.bias - f.mant

/-- Decode a floating-point code (R47). -/
def FpSpec.decode (f : FpSpec) (c : Nat) : Num :=
  let half := 2 ^ (f.width - 1)
  let neg := c / half % 2 == 1
  let mag := c % half
  match f.infCode with
  | none => if c = f.nanCode then .nan else
      let ex := mag / 2 ^ f.mant
      if ex = 0 then .fin neg mag f.emin
      else .fin neg (mag % 2 ^ f.mant + 2 ^ f.mant) (f.emin + (ex : Int) - 1)
  | some ic =>
      if mag = ic then .inf neg
      else if mag > ic then .nan
      else
        let ex := mag / 2 ^ f.mant
        if ex = 0 then .fin neg mag f.emin
        else .fin neg (mag % 2 ^ f.mant + 2 ^ f.mant) (f.emin + (ex : Int) - 1)

/-- A signed integer as a value. -/
def Num.ofInt (i : Int) : Num := .fin (decide (i < 0)) i.natAbs 0

/-- The value of an F4 code (R50): sign, exponent field [2:1] with bias 1, mantissa bit [0]; code 0x8 is 0. -/
def f4Value (c : Nat) : Num :=
  let neg := c / 8 % 2 == 1
  let ex := c / 2 % 4
  let man := c % 2
  if ex = 0 then .fin (neg && man == 1) man (-1) else .fin neg (2 + man) ((ex : Int) - 2)

/-- Decode an element of any format (R47, R50); INT8 and INT4 are two's complement. -/
def Fmt.decode (f : Fmt) (c : Nat) : Num :=
  match f with
  | .int8 => Num.ofInt (signedOf 8 c)
  | .int4 => Num.ofInt (signedOf 4 c)
  | .f4 => f4Value (c % 16)
  | g => match g.fp with
    | some s => s.decode (c % 2 ^ s.width)
    | none => .nan

/-- `floor (m × 2^k)` for any integer `k`. -/
def shiftNat (m : Nat) (k : Int) : Nat := if 0 ≤ k then m * 2 ^ k.toNat else m / 2 ^ (-k).toNat

/-- `m × 2^k` has no fractional part. -/
def shiftExact (m : Nat) (k : Int) : Bool := if 0 ≤ k then true else m % 2 ^ (-k).toNat == 0

/-- The sign of a value (false for a NaN). -/
def Num.sign : Num → Bool
  | .nan => false
  | .inf n => n
  | .fin n _ _ => n

/-- The magnitude is zero. -/
def Num.isZero : Num → Bool
  | .fin _ m _ => m == 0
  | _ => false

def Num.isNan : Num → Bool
  | .nan => true
  | _ => false

def Num.isInf : Num → Bool
  | .inf _ => true
  | _ => false

def Num.isFin : Num → Bool
  | .fin _ _ _ => true
  | _ => false

/-- Negation (a NaN stays a NaN). -/
def Num.neg : Num → Num
  | .nan => .nan
  | .inf n => .inf (!n)
  | .fin n m e => .fin (!n) m e

/-- The magnitude. -/
def Num.abs : Num → Num
  | .nan => .nan
  | .inf _ => .inf false
  | .fin _ m e => .fin false m e

/-- Exact multiplication by 2^k (R59, R68). -/
def Num.scale (x : Num) (k : Int) : Num :=
  match x with
  | .fin n m e => .fin n m (e + k)
  | y => y

/-- The signed integer `± m × 2^(e - q)` for `q ≤ e`. -/
def alignInt (neg : Bool) (m : Nat) (e q : Int) : Int :=
  let v : Int := (m * 2 ^ (e - q).toNat : Nat)
  if neg then -v else v

/-- Exact addition; an exact zero sum of unlike signs is +0, and opposite infinities give a NaN (IEEE 754). -/
def Num.add (x y : Num) : Num :=
  match x, y with
  | .nan, _ => .nan
  | _, .nan => .nan
  | .inf a, .inf b => if a = b then .inf a else .nan
  | .inf a, .fin _ _ _ => .inf a
  | .fin _ _ _, .inf b => .inf b
  | .fin a m e, .fin b n f =>
    let q := min e f
    let s := alignInt a m e q + alignInt b n f q
    if s = 0 then .fin (a && b) 0 q else .fin (decide (s < 0)) s.natAbs q

/-- Exact subtraction. -/
def Num.sub (x y : Num) : Num := Num.add x y.neg

/-- Exact multiplication; zero times infinity is a NaN. -/
def Num.mul (x y : Num) : Num :=
  match x, y with
  | .nan, _ => .nan
  | _, .nan => .nan
  | .inf a, .inf b => .inf (a != b)
  | .inf a, .fin b n _ => if n = 0 then .nan else .inf (a != b)
  | .fin a m _, .inf b => if m = 0 then .nan else .inf (a != b)
  | .fin a m e, .fin b n f => .fin (a != b) (m * n) (e + f)

/-- Comparison of two values that are not NaN: −1, 0 or 1; the zeros are equal. -/
def Num.cmp (x y : Num) : Option Int :=
  match x, y with
  | .nan, _ => none
  | _, .nan => none
  | .inf a, .inf b => some (if a = b then 0 else if a then -1 else 1)
  | .inf a, .fin _ _ _ => some (if a then -1 else 1)
  | .fin _ _ _, .inf b => some (if b then 1 else -1)
  | .fin a m e, .fin b n f =>
    let q := min e f
    let s := alignInt a m e q - alignInt b n f q
    some (if s < 0 then -1 else if s = 0 then 0 else 1)

/-- `x < y`, false if either is a NaN. -/
def Num.lt (x y : Num) : Bool := Num.cmp x y == some (-1)

/-- `x ≤ y`, false if either is a NaN. -/
def Num.le (x y : Num) : Bool := Num.cmp x y == some (-1) || Num.cmp x y == some 0

/-- Equality of values, false if either is a NaN. -/
def Num.eqv (x y : Num) : Bool := Num.cmp x y == some 0

/-- The quotient of two magnitudes to `k` fractional binary places, with a sticky last bit that is set when the quotient
is not exact; `k` is large enough for every rounding of R55 and for the comparison of R60. -/
def divMag (m n : Nat) (k : Nat) : Nat :=
  let q := m * 2 ^ k / n
  2 * q + (if m * 2 ^ k % n = 0 then 0 else 1)

/-- The quotient (R155): exact, or with a sticky bit below every rounding boundary. -/
def Num.div (x y : Num) : Num :=
  match x, y with
  | .nan, _ => .nan
  | _, .nan => .nan
  | .inf _, .inf _ => .nan
  | .inf a, .fin b _ _ => .inf (a != b)
  | .fin a _ _, .inf b => .fin (a != b) 0 0
  | .fin a m e, .fin b n f =>
    if n = 0 then (if m = 0 then .nan else .inf (a != b))
    else
      let k := 128 + n.log2
      .fin (a != b) (divMag m n k) (e - f - k - 1)

/-- One step of the integer square root: decide bit `i` of the root. -/
def isqrtStep (n : Nat) (acc : Nat) (i : Nat) : Nat :=
  let c := acc + 2 ^ i
  if c * c ≤ n then c else acc

/-- The integer square root, bit by bit. -/
def isqrt (n : Nat) : Nat := ((List.range (n.log2 / 2 + 1)).reverse).foldl (isqrtStep n) 0

/-- The square root of a positive magnitude, with a sticky last bit. -/
def sqrtMag (m : Nat) (e : Int) : Nat × Int :=
  let k : Nat := 256 + (if (e % 2) = 0 then 0 else 1)
  let n := m * 2 ^ k
  let r := isqrt n
  (2 * r + (if r * r = n then 0 else 1), (e - k) / 2 - 1)

/-- The square root (R155); a negative value other than −0 gives a NaN. -/
def Num.sqrt : Num → Num
  | .nan => .nan
  | .inf n => if n then .nan else .inf false
  | .fin n m e =>
    if m = 0 then .fin n 0 0
    else if n then .nan
    else let r := sqrtMag m e; .fin false r.1 r.2

/-- The rounding modes of R55. -/
inductive Rnd where
  | rne | rtz | sr
deriving DecidableEq, Repr

/-- The mode of a 2-bit code; 0b11 is unused. -/
def Rnd.ofCode : Nat → Option Rnd
  | 0 => some .rne | 1 => some .rtz | 2 => some .sr | _ => none

/-- Round `m × 2^e` to an integer multiple of `2^q`: the multiplier, by the mode; `r` is the 16-bit Scree output for
stochastic rounding (R60): up when `r < f × 2^16`. -/
def roundMul (mode : Rnd) (r : Nat) (m : Nat) (e q : Int) : Nat :=
  if q ≤ e then m * 2 ^ (e - q).toNat
  else
    let d := 2 ^ (q - e).toNat
    let lo := m / d
    let rem := m % d
    match mode with
    | .rtz => lo
    | .rne => if 2 * rem < d then lo else if 2 * rem > d then lo + 1 else lo + lo % 2
    | .sr => if r * d < rem * 65536 then lo + 1 else lo

/-- The quantum of a value in a format: the spacing of the format's values at its magnitude, with the subnormal spacing
below and an unbounded exponent above (R60). -/
def quantum (f : FpSpec) (m : Nat) (e : Int) : Int := max ((m.log2 : Int) + e - f.mant) f.emin

/-- A conversion's outcome: the code, and whether it overflowed under R56, lost exactness, or was tiny before rounding
(the last two serve the strict flags of R162). -/
structure Conv where
  code : Nat
  past : Bool
  inexact : Bool
  tiny : Bool
deriving DecidableEq, Repr

/-- The overflow result of R56 for a floating-point target. -/
def FpSpec.overCode (f : FpSpec) (nonsat neg : Bool) : Nat :=
  let s := if neg then 2 ^ (f.width - 1) else 0
  if nonsat then
    match f.infCode with
    | some ic => ic + s
    | none => f.nanCode
  else f.maxCode + s

/-- Convert a value to a floating-point format with one rounding (R55, R56, R59, R60). -/
def FpSpec.conv (f : FpSpec) (mode : Rnd) (nonsat : Bool) (r : Nat) (x : Num) : Conv :=
  match x with
  | .nan => ⟨f.nanCode, false, false, false⟩
  | .inf neg => ⟨f.overCode nonsat neg, true, false, false⟩
  | .fin neg m e =>
    let s := if neg then 2 ^ (f.width - 1) else 0
    let zcode := if f.infCode.isNone then 0 else s
    if m = 0 then ⟨zcode, false, false, false⟩
    else
      let q := quantum f m e
      let n := roundMul mode r m e q
      let code := (q - f.emin).toNat * 2 ^ f.mant + n
      let inexact := decide (q > e) && m % 2 ^ (q - e).toNat != 0
      let tiny := decide ((m.log2 : Int) + e < f.emin + f.mant)
      if n = 0 then ⟨zcode, false, inexact, tiny⟩
      else if code ≤ f.maxCode then ⟨code + s, false, inexact, tiny⟩
      else if mode = .rtz then ⟨f.maxCode + s, true, true, false⟩
      else ⟨f.overCode nonsat neg, true, true, false⟩

/-- Convert to a two's-complement integer of `w` bits: nearest even or toward zero, always saturating, a NaN gives 0
(R56). -/
def intConv (w : Nat) (mode : Rnd) (x : Num) : Conv :=
  let hi : Int := 2 ^ (w - 1) - 1
  let lo : Int := -(2 ^ (w - 1))
  let enc (i : Int) : Nat := (i % 2 ^ w).toNat
  match x with
  | .nan => ⟨0, false, false, false⟩
  | .inf neg => ⟨enc (if neg then lo else hi), true, false, false⟩
  | .fin neg m e =>
    let n : Int := roundMul mode 0 m e 0
    let v := if neg then -n else n
    if v > hi then ⟨enc hi, mode != .rtz, true, false⟩
    else if v < lo then ⟨enc lo, mode != .rtz, true, false⟩
    else ⟨enc v, false, !(shiftExact m e), false⟩

/-- Convert a value to an element format (R57); the 4-bit formats are converted by block (R58). -/
def Fmt.conv (f : Fmt) (mode : Rnd) (nonsat : Bool) (r : Nat) (x : Num) : Conv :=
  match f with
  | .int8 => intConv 8 mode x
  | .int4 => intConv 4 mode x
  | g => match g.fp with
    | some s => s.conv mode nonsat r x
    | none => ⟨0, false, false, false⟩

/-- The FP32 format. -/
def fp32 : FpSpec := ⟨23, 127, 32, 0x7F7FFFFF, some 0x7F800000, 0x7FC00000⟩

/-- The value of an FP32 word. -/
def fp32Val (w : W32) : Num := fp32.decode w.toNat

/-- A value rounded to FP32, nearest even, with IEEE 754 overflow (R56). -/
def toFp32 (x : Num) : W32 := w32 (fp32.conv .rne true 0 x).code

/-- A value rounded to FP32 and taken as a value again. -/
def rnd32 (x : Num) : Num := fp32Val (toFp32 x)

/-- The magnitude of a value rounded up to FP32; an infinity becomes the largest finite value (the amax folds, R69). -/
def fp32Up (x : Num) : W32 :=
  match x with
  | .nan => 0
  | .inf _ => 0x7F7FFFFF#32
  | .fin _ m e =>
    if m = 0 then 0
    else
      let q := quantum fp32 m e
      let n := shiftNat m (e - q) + (if shiftExact m (e - q) then 0 else 1)
      w32 (min ((q - fp32.emin).toNat * 2 ^ 23 + n) 0x7F7FFFFF)

/-- The largest integer `k` with `x × 2^k ≤ b`, for positive `x` and `b` (R58, R71). -/
def largestShift (x b : Num) : Int :=
  match x, b with
  | .fin _ m e, .fin _ n f =>
    let k := ((n.log2 : Int) + f) - ((m.log2 : Int) + e)
    if Num.le (x.scale k) b then k else k - 1
  | _, _ => 0

/-- Clamp an integer. -/
def clampInt (lo hi x : Int) : Int := max lo (min hi x)

/-- The Brook conversion of one block to F4 (R58): the block scale and the element codes. -/
def f4Block (nonsat : Bool) (xs : List Num) : Nat × List Nat :=
  if xs.any Num.isNan || (nonsat && xs.any Num.isInf) then (0xFF, xs.map fun _ => 0)
  else
    let m := (xs.filter Num.isFin).foldl (fun a x => if Num.lt a x.abs then x.abs else a) (.fin false 0 0)
    let e : Nat := if m.isZero then 0x7F else (clampInt 0 0xFE (127 - largestShift m (.fin false 6 0))).toNat
    let f : FpSpec := ⟨1, 1, 4, 0x7, some 8, 0⟩
    (e, xs.map fun x =>
      match x with
      | .inf neg => if neg then 0xF else 0x7
      | y => (f.conv .rne false 0 (y.scale (127 - (e : Int)))).code)

/-- The Brook conversion of one block to INT4 (R58): the block scale `j` and the element codes. -/
def int4Block (expo : Int) (xs : List Num) : Nat × List Nat :=
  let ys := xs.map fun x => x.scale expo
  let m := (ys.filter fun y => !y.isNan).foldl (fun a y => if Num.lt a y.abs then y.abs else a) (.fin false 0 0)
  let j : Nat := ((List.range 5).find? fun (i : Nat) => Num.le m (.fin false 7 (i : Int))).getD 4
  (j, ys.map fun y => (intConv 4 .rne (y.scale (-(j : Int)))).code)

/-- The feeder's expansion of an F4 element (R52, R53): the F8E4 code, and whether the expansion left its exact range. -/
def f4Expand (nonsat : Bool) (scaleByte : Nat) (expo : Int) (c : Nat) : Nat × Bool :=
  if scaleByte = 0xFF then (0x80, false)
  else
    let d : Int := (scaleByte : Int) - 127 + expo
    ((Fmt.f8e4.conv .rne nonsat 0 ((f4Value (c % 16)).scale d)).code, decide (d < -8) || decide (d > 6))

/-- The feeder's expansion of an INT4 element (R54). -/
def int4Expand (scaleByte : Nat) (c : Nat) : Nat × Bool :=
  if scaleByte ≤ 4 then (((signedOf 4 c * 2 ^ scaleByte) % 256).toNat, false) else (0, true)

/-! ### Scree (R61 to R64) -/

/-- The quarter round of R63. -/
def screeQr (s : W32 × W32 × W32 × W32) : W32 × W32 × W32 × W32 :=
  let a := s.1 + s.2.1
  let d := (s.2.2.2 ^^^ a).rotateLeft 16
  let c := s.2.2.1 + d
  let b := (s.2.1 ^^^ c).rotateLeft 12
  let a := a + b
  let d := (d ^^^ a).rotateLeft 8
  let c := c + d
  let b := (b ^^^ c).rotateLeft 4
  (a, b, c, d)

/-- The tensor key: it depends on the seed, the step and the tensor alone (R63). -/
def screeKey (seed : W64) (step tensor : W32) : W32 × W32 × W32 × W32 :=
  screeQr (screeQr (lo32 seed ^^^ 0x9e3779b9#32, hi32 seed ^^^ 0x7f4a7c15#32,
    step ^^^ 0x6a09e667#32, tensor ^^^ 0xbb67ae85#32))

/-- The two rounds of one element (R63). -/
def screeElem (key : W32 × W32 × W32 × W32) (elem : Nat) : W32 × W32 × W32 × W32 :=
  screeQr (screeQr (key.1 ^^^ w32 elem, key.2.1 ^^^ w32 (elem / 2 ^ 32 % 256), key.2.2.1, key.2.2.2))

/-- The 16-bit output of the Scree generator (R63). -/
def scree (seed : W64) (step tensor : W32) (elem : Nat) : Nat :=
  let s := screeElem (screeKey seed step tensor) elem
  fld (s.1 ^^^ s.2.1 ^^^ s.2.2.1 ^^^ s.2.2.2) 31 16

end Sys2Proof.Machine
end

