-- ==== Sys2Proof/Machine/Table.lean ====
section
/-! DEFINITION. Sparse tables over natural-number keys, in one canonical form: keys strictly rising, and no entry equal
to what an unlisted key reads as. Every addressed RAM and every register array of the model is one of these. -/
namespace Sys2Proof.Machine

/-- A sparse table: pairs of a key and a value. -/
abbrev Table (α : Type) := List (Nat × α)

/-- The table without any entry for key `k`. -/
def Table.erase {α : Type} (k : Nat) : Table α → Table α
  | [] => []
  | e :: t => if e.1 = k then Table.erase k t else e :: Table.erase k t

/-- Put `(k, v)` before the first larger key. -/
def Table.insert {α : Type} (k : Nat) (v : α) : Table α → Table α
  | [] => [(k, v)]
  | e :: t => if k < e.1 then (k, v) :: e :: t else e :: Table.insert k v t

/-- The value listed for key `k`. -/
def Table.find {α : Type} (k : Nat) : Table α → Option α
  | [] => none
  | e :: t => if e.1 = k then some e.2 else Table.find k t

/-- The value at key `k`; an unlisted key reads as `d k`. -/
def Table.get {α : Type} (d : Nat → α) (t : Table α) (k : Nat) : α := (Table.find k t).getD (d k)

/-- Write `v` at key `k`; a value equal to the unlisted one leaves no entry. -/
def Table.set {α : Type} [DecidableEq α] (d : Nat → α) (t : Table α) (k : Nat) (v : α) : Table α :=
  if v = d k then Table.erase k t else Table.insert k v (Table.erase k t)

/-- List `v` at key `k`, whatever it is. -/
def Table.put {α : Type} (t : Table α) (k : Nat) (v : α) : Table α := Table.insert k v (Table.erase k t)

/-- The canonical form: strictly rising keys, no entry equal to the unlisted value. -/
def Table.wf {α : Type} [DecidableEq α] (d : Nat → α) : Table α → Bool
  | [] => true
  | [e] => decide (e.2 ≠ d e.1)
  | e :: f :: t => decide (e.2 ≠ d e.1) && decide (e.1 < f.1) && Table.wf d (f :: t)

/-- A set of natural numbers, held in rising order without repeats. -/
abbrev NatSet := List Nat

/-- Membership. -/
def NatSet.has (s : NatSet) (n : Nat) : Bool := s.contains n

/-- The set with `n`. -/
def NatSet.add (n : Nat) : NatSet → NatSet
  | [] => [n]
  | m :: t => if n < m then n :: m :: t else if n = m then m :: t else m :: NatSet.add n t

/-- The set without `n`. -/
def NatSet.del (n : Nat) (s : NatSet) : NatSet := s.filter fun m => m != n

/-- Add or remove `n` as `b` says. -/
def NatSet.put (s : NatSet) (n : Nat) (b : Bool) : NatSet := if b then NatSet.add n s else NatSet.del n s

/-- The canonical form of a set: strictly rising. -/
def NatSet.wf : NatSet → Bool
  | [] => true
  | [_] => true
  | a :: b :: t => decide (a < b) && NatSet.wf (b :: t)

/-- The canonical form of a table that lists whatever is put into it: strictly rising keys. -/
def Table.rising {α : Type} (t : Table α) : Bool := NatSet.wf (t.map Prod.fst)

end Sys2Proof.Machine
end

