-- ==== Sys2Proof/Machine/Types.lean ====
section
/-! DEFINITION. The records that the state is made of: descriptors, memory, Rill cores, command windows, Ridges. -/
namespace Sys2Proof.Machine

/-! ### Descriptors and who is charged for them -/

/-- Who issued a descriptor, and is charged with its faults (R232, R250). -/
inductive Src where
  /-- a Rill core, and the data-memory address of the descriptor (`CAUSE.ADDR`, R233) -/
  | core (c addr : Nat)
  /-- a command window, and the `SEQ` of the record (R250) -/
  | win (w : Nat) (seq : W32)
  /-- the device itself -/
  | device
deriving DecidableEq, Repr

/-- A descriptor in a queue: its words, the context that tags it (R227, R241), and who issued it. -/
structure Desc where
  words : List W32
  ctx : Nat
  src : Src
  /-- the number of the operation that it belongs to, the same on every die of the partition; 0 for none (R15, R16) -/
  op : Nat := 0
  /-- the die sequencer has judged it under R252 -/
  judged : Bool := false
  /-- the first of a pair with a descriptor of another kind issued right after it (R84) -/
  alone : Bool := false
deriving DecidableEq, Repr

/-! ### BAR0 registers -/

/-- Everything behind BAR0 that is not a block's own live state: register values (unlisted ones read their reset value),
the held words of the `_LO`/`_HI` pairs (R37), sealed pages (R43), pages with an injected error (R34), pages whose error
interrupt is raised (R38), the MSI-X table and the pending bits (R504). -/
structure Bar0 where
  regs : Table W32 := []
  held : Table W32 := []
  isSealed : NatSet := []
  /-- pages with a mismatch of hardened copies since `HARD_CHK.CORR` was last cleared (R42) -/
  struck : NatSet := []
  injSeen : NatSet := []
  irq : NatSet := []
  /-- MSI-X vectors whose condition a tally notice holds true (R505) -/
  notices : NatSet := []
  /-- words of the MSI-X table, by BAR0 address -/
  msix : Table W32 := []
  /-- the MSI-X pending bits, by vector -/
  pba : NatSet := []
  msixMask : Bool := false
deriving DecidableEq, Repr

/-! ### Memory -/

/-- A pending Page Map batch (R186): the records read and judged, and whether it waits for CLOSED. -/
structure Batch where
  recs : List (Nat × W64)
  atClosed : Bool
deriving DecidableEq, Repr

/-- The memory system: the bytes of HBM that have been written, by key `stack × 2^37 + stack address`; by stack the draw that
its fill made (R172), and by granule (key div 64), one more than the draw that stands in place of lost contents;
poisoned granules, granules whose contents are unpredictable after a DISCARD read (R198), the top frames per stack whose
contents a resize left unpredictable (`winStale`, R177) with the granules of them written since (`winFresh`), the size of the
window for which the spill copy was last rewritten (R177, R183); the Page Map copies (R9), the translation caches by
`Ridge × 256 + set` (R187), the scrubbers, the die-to-die links (R13); while requests wait in the mailbox, the requests handed
over since it was last empty, and by granule how many were when it was last written (R426, R518). -/
structure Mem where
  hbm : List Host.Cell := []
  fill : Table Nat := []
  draws : Table Nat := []
  spillAt : Nat := 0
  poison : NatSet := []
  freed : NatSet := []
  winStale : Nat := 0
  winFresh : NatSet := []
  ready : NatSet := []
  failed : NatSet := []
  filling : NatSet := []
  pmap0 : Table W64 := []
  pmap1 : Table W64 := []
  lost : NatSet := []
  pmapReady : Bool := false
  batch : Option Batch := none
  /-- a slot is in COMMIT: frames of 2 MiB that a request writes are marked (R377) -/
  marking : Bool := false
  marked : NatSet := []
  /-- stacks whose transfers are unpredictable (R18, R42) -/
  astray : NatSet := []
  xcache : Table (List Nat) := []
  scrub : Table Nat := []
  d2dUp : NatSet := []
  d2dDown : NatSet := []
  handed : Nat := 0
  touched : Table Nat := []
deriving DecidableEq, Repr

/-! ### Rill cores -/

/-- The states of R218. -/
inductive CoreSt where
  | stopped | running | waiting | idle | halted | faulted
deriving DecidableEq, Repr

/-- A Rill core (R215, R216, R217, R239). `imemBad` and `dmemBad` are the uncorrectable words (instruction index, and
data word index); `waitTally` is the tally and target of a `TWAIT` in progress and `released` that it was passed (R225). -/
structure Core where
  g : Table W64 := []
  p : BitVec 4 := 0
  pc : BitVec 14 := 0
  ctx : Nat := 0
  /-- the number of the operation whose descriptor the program took last, 0 for none (R15, R16) -/
  op : Nat := 0
  epc : BitVec 14 := 0
  cause : W64 := 0
  inTrap : Bool := false
  prog : W32 := 0
  st : CoreSt := .stopped
  imem : Table W32 := []
  dmem : Table Byte := []
  imemBad : NatSet := []
  dmemBad : NatSet := []
  pend : List W64 := []
  inq : List Desc := []
  waitTally : Option (Nat × W32) := none
  released : Bool := false
  /-- the descriptor that a waiting `ISSUE` holds (R227) -/
  heldDesc : Option Desc := none
  /-- reference count at which the wait began, or from which running without progress is counted (R231) -/
  since : W64 := 0
  /-- counts of running without progress before the wait in progress (R231) -/
  ran : W64 := 0
  haltCode : BitVec 14 := 0
  startPc : BitVec 14 := 0
  startCtx : Nat := 0
deriving DecidableEq, Repr

/-! ### Command windows -/

/-- The states of a command window (R264). -/
inductive WinSt where
  | disabled | run | held | blocked | faulted
deriving DecidableEq, Repr

/-- The descriptor read of a DESC_REF record (R247): on its way here, at another device, or done. -/
inductive RefSt where
  | here (key : Nat) | away | got (words : List W32)
deriving DecidableEq, Repr

/-- A command window (R242 to R251): slot words written since the slot was consumed (key `slot × 16 + word`), those that
those written twice before it was being `none`, `NEXT`, the state with its fault record, the start of a wait; the draw by which an
overrun makes the records unpredictable (R244); the read of a DESC_REF record, and the number of the window's present run, by
which an answer to a read of an earlier one is known (R251); what a HELD record waits for, and that it has been met (R248). -/
structure Win where
  words : Table (Option W32) := []
  next : W32 := 0
  st : WinSt := .disabled
  reason : Nat := 0
  fseq : W32 := 0
  since : W64 := 0
  overrun : Option Nat := none
  ref : Option RefSt := none
  gen : Nat := 0
  waits : Option (Nat × W32) := none
  met : Bool := false
deriving DecidableEq, Repr

/-- A die sequencer's operation, accepted and waiting, open or draining (R15, R16, R252). -/
structure OpRec where
  desc : Desc
  /-- waiting 0, open 1, draining 2 -/
  phase : Nat := 0
  shareTally : Nat := 0
  /-- Ridges that still owe their share -/
  owing : NatSet := []
  /-- by Ridge, the dealt tiles that have not left its arrays yet (R15) -/
  due : Table Nat := []
  abandoned : Bool := false
deriving DecidableEq, Repr

/-! ### The Ridge -/

/-- The tile flags of R127. -/
structure TFlags where
  sat : Bool := false
  nan : Bool := false
  inf : Bool := false
  poison : Bool := false
deriving DecidableEq, Repr

/-- An accumulator, Spillway or Tarn-slot entry: a value and a class (R113, R123): 0 finite, 1 and 2 the infinities,
3 NaN. In FP32 form the value is the FP32 code. -/
structure Entry where
  v : Int := 0
  cls : Nat := 0
deriving DecidableEq, Repr

/-- An output tile of an array (R112 to R120, R127). Entries by `row × 32 + column`. `slot` is the spill slot, and `spill`
its entries; `poisoned` names entries that depend on a poisoned operand (R95), `all` that the whole tile is poisoned; `loose`
says that its sums are unpredictable (R96, R121). -/
structure Tile where
  isOpen : Bool := false
  fp : Bool := false
  ent : Table Entry := []
  count : Nat := 0
  flags : TFlags := {}
  scheme : Nat := 0
  tmode : Nat := 0
  cols : Nat := 0
  kblk : Nat := 0
  slot : Option Nat := none
  spill : Table Entry := []
  shift : Option Int := none
  poisoned : NatSet := []
  allPoison : Bool := false
  loose : Bool := false
deriving DecidableEq, Repr

/-- The activity ramp of an array (R90): stopped, ramping up with `n` steps taken, running, holding, ramping down. -/
inductive Ramp where
  | stopped | up (n : Nat) | running | hold | down (n : Nat)
deriving DecidableEq, Repr

/-- An operand element as the feeder reads it: its value, whether it depends on a poisoned word (R95), whether a 4-bit expansion
left its range (R53, R54), whether it only pads a block (R79). -/
structure Elem where
  x : Num := .fin false 0 0
  bad : Bool := false
  range : Bool := false
  pad : Bool := false
deriving DecidableEq, Repr

/-- An array: its two tiles, the tile it used last (R103), its ramp, and the active and the shadow weight register of each cell,
as cell rows of cell columns (R76). A weight is held with what its operand carries. -/
structure Arr where
  t0 : Tile := {}
  t1 : Tile := {}
  last : Nat := 1
  ramp : Ramp := .stopped
  active : List (List Elem) := []
  shadow : List (List Elem) := []
deriving DecidableEq, Repr

/-- What an engine holds of a Scale Table entry for an op: its format, exponent and overflow mode. -/
structure ScaleUse where
  entry : Option Nat := none
  fmt : Nat := 0
  expo : Int := 0
  nonsat : Bool := false
  wide : Bool := false
deriving DecidableEq, Repr

/-- The progress of a tile op: accepted; at its array, with passes made; passes all made, waiting for its drain; results
on their way to another device; results written, the tally held by a Cairn check (R451). -/
inductive TilePh where
  | accepted | atArray | passed | writing | held
deriving DecidableEq, Repr

/-- An accepted tile op (R99 to R103) with what was judged at acceptance: the epilogue record (R131), the journal slot
(R356), the Scree seed and step (R61), the scale uses, the cold verdict (R72), the Cairn sample and conditions. -/
structure TileOp where
  id : Nat
  desc : Desc
  epi : List W32 := []
  jslot : Option Nat := none
  seed : W64 := 0
  step : W32 := 0
  a : ScaleUse := {}
  w : ScaleUse := {}
  o : ScaleUse := {}
  e : ScaleUse := {}
  cold : Bool := false
  ph : TilePh := .accepted
  tile : Nat := 0
  made : Nat := 0
  /-- twin A: 32-row blocks drained so far -/
  blocks : Nat := 0
  since : W64 := 0
  /-- the other op of a pair (R84) -/
  mate : Option Nat := none
  /-- the poison fault of R204 has been raised -/
  faulted : Bool := false
  /-- a Cairn check of the op is not over (R451) -/
  sampled : Bool := false
  /-- when the op began to wait for its Cairn check -/
  heldAt : W64 := 0
  /-- output transactions to other devices not yet answered -/
  remote : Nat := 0
  /-- an output write faulted in translation: no tally (R180) -/
  xfault : Bool := false
deriving DecidableEq, Repr

/-- The progress of a Cairn check: waiting for a pair, recomputing, waiting for the arbiter's pair, arbitrating. -/
inductive CheckPh where
  | waitPair | recompute | waitArb | arbitrate
deriving DecidableEq, Repr

/-- The conditions of a Ridge that a Cairn record carries (R456): temperature bin, load signature, rail in mV, clock in MHz. -/
structure CairnCond where
  bin : Nat
  sig : Nat
  mv : Nat
  mhz : Nat
deriving DecidableEq, Repr

/-- A Cairn check (R446 to R456): its source Ridge, op and array, whether the op is one of a pair, the journal slot it
counts for, the checker and the arbiter chosen, the conditions of source and checker at acceptance, the twin whose tile was
found different, and the pairs it borrows as (Ridge, even array). -/
structure Check where
  ridge : Nat
  op : Nat
  arr : Nat
  pair : Bool
  ctx : Nat
  jslot : Option Nat
  step : W32
  chk : Nat
  arb : Option Nat
  srcCond : CairnCond
  chkCond : CairnCond
  since : W64
  ph : CheckPh := .waitPair
  twinB : Bool := false
  checker : Option (Nat × Nat) := none
  arbiter : Option (Nat × Nat) := none
deriving DecidableEq, Repr

/-- An accepted Brook op (R165 to R167): what was fixed at acceptance (the parameter record, the uses of the entries of A,
B, C and D, the scalars), and, once executed, the amax folds it still owes: entry and word. -/
structure BrookOp where
  id : Nat
  desc : Desc
  params : List W32 := []
  jslot : Option Nat := none
  seed : W64 := 0
  step : W32 := 0
  uses : List ScaleUse := []
  cold : Bool := false
  scalars : List W32 := []
  folds : List (Nat × W32) := []
  done : Bool := false
  since : W64 := 0
deriving DecidableEq, Repr

/-- Where a chunk of a fetch op stands: waiting for a refill of the translation cache (R187), translated to a local key or
to the hashed window, or at another device. -/
inductive ChunkSt where
  | refill | here (key : Nat) | window | away
deriving DecidableEq, Repr

/-- A chunk of a fetch op that holds a fetch context (R190): its row, its byte range within the row, its memory address. -/
structure Chunk where
  row : Nat
  off : Nat
  len : Nat
  addr : Nat
  st : ChunkSt
deriving DecidableEq, Repr

/-- An accepted fetch op (R188 to R193): the next row and byte to cut, the chunks in flight. -/
structure FetchOp where
  id : Nat
  desc : Desc
  row : Nat := 0
  off : Nat := 0
  chunks : List Chunk := []
  /-- a chunk faulted in translation: the tally does not increment (R193) -/
  xfault : Bool := false
  /-- the poison fault of R201 has been raised -/
  faulted : Bool := false
  since : W64 := 0
deriving DecidableEq, Repr

/-- A Ridge (R92 to R111): the Tarn by byte address and its poisoned words (address div 32), the queues of descriptors
not yet accepted and of accepted ops, the arrays, the owner and the zeroing. -/
structure Ridge where
  tarn : Table Byte := []
  tarnBad : NatSet := []
  scrub : Nat := 0
  tileIn : List Desc := []
  brookIn : List Desc := []
  fetchIn : List Desc := []
  tileOps : List TileOp := []
  brookOps : List BrookOp := []
  fetchOps : List FetchOp := []
  arrs : Table Arr := []
  owner : Nat := 0xFF
  /-- zeroing is pending or running (R94); it begins at chip reset -/
  zeroing : Bool := true
  /-- the arrays unfenced at the last deal (R98) -/
  dealt : Option NatSet := none
  nextId : Nat := 0
  quiescing : Bool := false
  quiesced : Bool := false
  opHung : Bool := false
  /-- the results of open tiles are unpredictable until the next zeroing (R121) -/
  spoiled : Bool := false
deriving DecidableEq, Repr

/-! ### Requests over the fabric -/

/-- Who waits for the response of a transaction (R295). -/
inductive Who where
  /-- an output write of a tile op: Ridge, op -/
  | tile (n op : Nat)
  /-- a chunk of a fetch op: Ridge, op, chunk -/
  | fetch (n op chunk : Nat)
  /-- a granule access of a DMA channel -/
  | dma (c : Nat) (key : Nat)
  /-- a transfer of a Confluence engine -/
  | cfl (e : Nat) (key : Nat)
  /-- the DESC_REF read of a command window, with the number of the window's run -/
  | win (w gen : Nat)
  /-- an access of the step machinery -/
  | step (key : Nat)
  /-- a read or a write by a service of the management core: address and length -/
  | service (a n : Nat) (wr : Bool)
  /-- a piece of a host access through BAR2: the access and the place of the piece -/
  | host (key off : Nat)
  /-- a message of a Confluence engine, with the collective that is charged for it -/
  | msg (e : Nat) (d : Desc)
  /-- a piece of a participant table: the reader, the read, the place of the piece -/
  | table (q id off : Nat)
  /-- nobody: a flood -/
  | none
deriving DecidableEq, Repr

/-- A transaction (R290): kind code, `ROP`, width, destination, board address at the target, bytes, data with the 64-byte
slots that are poisoned, `ARG` and `BODY`. -/
structure FReq where
  who : Who
  ctx : Nat := 0
  kind : Nat
  rop : Nat := 0
  wide : Bool := false
  group : Nat
  dev : Nat
  port : Nat := 0x3F
  addr : Nat
  len : Nat
  data : List Byte := []
  bad : NatSet := []
  arg : W32 := 0
  body : List W32 := []
  /-- the board address as this device knows it, where that differs (R303) -/
  own : Option Nat := none
deriving DecidableEq, Repr

/-! ### DMA channels -/

/-- The states of a DMA channel (R281). -/
inductive DmaSt where
  | idle | active | halted
deriving DecidableEq, Repr

/-- A DMA channel (R268 to R277): descriptors placed but not yet accepted, accepted ones with the running one first; the
stream position of the next byte to read and of the first byte not written; the staged bytes between them; the bytes of a
read or a write that is out at another device; the attempts made at the present access of each side; `wstop` that the
destination has failed; `gen` numbers the runs, so that a response to an abandoned access is known. -/
structure DmaCh where
  inq : List Desc := []
  acc : List Desc := []
  st : DmaSt := .idle
  rd : Nat := 0
  wr : Nat := 0
  buf : List (Byte × Bool) := []
  rdOut : Option Nat := none
  wrOut : Option Nat := none
  rtries : Nat := 0
  wtries : Nat := 0
  wstop : Bool := false
  gen : Nat := 0
  since : W64 := 0
  quiesced : Bool := false
deriving DecidableEq, Repr

/-! ### The fabric -/

/-- The states of a port (R308). -/
inductive PortSt where
  | disabled | down | training | hello | attest | quarantine | up | fenced
deriving DecidableEq, Repr

/-- The code of a port state (R308). -/
def PortSt.code : PortSt → Nat
  | .disabled => 0 | .down => 1 | .training => 2 | .hello => 3 | .attest => 4 | .quarantine => 5 | .up => 6 | .fenced => 7

/-- A 64-byte slot: its words, whether it holds a transaction header, whether it is poisoned (R288). -/
structure Slot where
  words : List W32
  hdr : Bool
  bad : Bool := false
deriving DecidableEq, Repr

/-- A transaction queued at a port (R294): class, virtual channel, slots not yet sent, whether any was sent, and for one of
this device's own requests its tag. -/
structure TxEnt where
  cls : Nat
  vc : Nat
  slots : List Slot
  begun : Bool := false
  tag : Option Nat := none
deriving DecidableEq, Repr

/-- An outstanding transaction (R295): its tag, its request, when it was issued. -/
structure OutTxn where
  tag : Nat
  req : FReq
  since : W64
deriving DecidableEq, Repr

/-- A numbered flit kept for retry (R291): its number, the flit, how often it was resent. -/
structure Replay where
  seq : Nat
  flit : Flit
  resent : Nat := 0
deriving DecidableEq, Repr

/-- A port (R283 to R313): its state, generation, fence cause and verdict; the attempts made at generation 2; the partner's
position word, the own nonce, the partner's HELLO and the outcome of attestation; the link's sequence numbers and replay
buffer; the credits held and the slots freed but not yet returned, by `class × 8 + VC`; the queues; the window counts; the
request headers of the interval; the probes not yet answered; the outstanding transactions. -/
structure Port where
  st : PortSt := .down
  gen : Nat := 0
  cause : Nat := 0
  verdict : Nat := 0
  tries : Nat := 0
  nbr : W32 := 0
  nonce : List Byte := []
  /-- the generation that the own HELLO named -/
  ownGen : Nat := 0
  peer : Option Hello := none
  attOk : Bool := false
  idOk : Bool := false
  attReason : Nat := 0
  keyDigest : List Byte := []
  txSeq : Nat := 0
  rxSeq : Nat := 0
  nakSent : Bool := false
  replay : List Replay := []
  credits : Table Nat := []
  owed : Table Nat := []
  /-- flits of the port's own that wait for the replay buffer: type and slots -/
  ctlq : List (Nat × List Slot) := []
  txq : List TxEnt := []
  rxq : Table (List Slot) := []
  retryW : Nat := 0
  malfW : Nat := 0
  starveW : Nat := 0
  fwW : Nat := 0
  rateW : Nat := 0
  winAt : W64 := 0
  hdrs : Nat := 0
  past : Bool := false
  rateAt : W64 := 0
  probes : List W64 := []
  probeAt : W64 := 0
  misses : Nat := 0
  outs : List OutTxn := []
  /-- transactions that ended by their timeout, whose response may still come, oldest first (R296) -/
  late : List OutTxn := []
  since : W64 := 0
deriving DecidableEq, Repr

/-- The port has a trained partner: flits go to and fro. -/
def PortSt.linked : PortSt → Bool
  | .hello | .attest | .quarantine | .up => true
  | _ => false

/-- What the fabric keeps beside its ports: the group link map of the mates (R302), the last 64 FLOOD identifiers (R298),
discovery (R310). -/
structure Fab where
  lmap : Table W32 := []
  floods : List W64 := []
  disc : Bool := false
  discAt : W64 := 0
  discDone : Bool := false
  unreach : NatSet := []
  partnerLost : Bool := false
  spareLost : Bool := false
deriving DecidableEq, Repr

/-! ### Confluence engines -/

/-- A participant of a collective (R321). -/
structure Part where
  group : Nat
  dev : Nat
  engine : Nat
  rank : Nat
  rxPage : Nat
  segOff : Nat
  segLen : Nat
deriving DecidableEq, Repr

/-- A READY or DONE message (R324), and when it was taken in. -/
structure Msg where
  coll : Nat
  peer : Nat
  done : Bool
  first : Nat := 0
  count : Nat := 0
  off : Nat := 0
  len : Nat := 0
  expert : Nat := 0x3FF
  at_ : W64 := 0
deriving DecidableEq, Repr

/-- What a transfer waits for: nothing, chunks made ready by its peer, or its peer's DONE. -/
inductive Gate where
  | none
  | ready (first count : Nat)
  | done
deriving DecidableEq, Repr

/-- A transfer of the transfer unit (R329): its descriptor and its fields; `key` is the combine slot. `stock` ones are
made by the collective program, name no tally, and have `16 + segment` as their slot. `note` is the message of a NOTIFY. -/
structure Xfer where
  desc : Desc
  stock : Bool := false
  kind : Nat
  key : Nat := 0
  peer : Nat := 0
  remote : Nat := 0
  loc : Nat := 0
  len : Nat := 0
  gate : Gate := .none
  note : Option Msg := none
deriving DecidableEq, Repr

/-- A transfer under way: the pieces (offset, length) that have not arrived. -/
structure Flight where
  id : Nat
  x : Xfer
  left : List (Nat × Nat)
deriving DecidableEq, Repr

/-- A pulled piece that has arrived: its transfer, its offset, its bytes. -/
structure Arrival where
  flight : Nat
  off : Nat
  data : List (Byte × Bool)
deriving DecidableEq, Repr

/-- A piece of a contribution held in a combine slot (R326): participant, offset, bytes. -/
structure Held where
  peer : Nat
  off : Nat
  data : List (Byte × Bool)
deriving DecidableEq, Repr

/-- The collective that an engine runs (R320, R330): its participants as read at acceptance, the journal slot and Scree
inputs, the uses of its output entry, the epilogue record, the bytes of a chunk (0 where it is not known), the messages
consumed, the rounds of a RING done. A collective that a loaded program has taken is not `stock`. -/
structure Coll where
  desc : Desc
  parts : List Part
  since : W64
  stock : Bool := true
  jslot : Option Nat := none
  seed : W64 := 0
  step : W32 := 0
  out : ScaleUse := {}
  epi : List W32 := []
  cold : Bool := false
  unit : Nat := 2048
  got : List Msg := []
  round : Nat := 0
  /-- ALLTOALL: the next source to be placed, and the bytes placed so far -/
  nextSrc : Nat := 0
  placed : Nat := 0
  /-- a Watershed round of this journal slot (R367) -/
  ws : Option Nat := none
  /-- its cold output has been counted in `WIDE_CNT` (R72) -/
  counted : Bool := false
  /-- PERMUTE: its Shard Maps are inconsistent (R342); this participant's old buffer, as address and length (R344) -/
  loose : Bool := false
  oldBuf : Nat × Nat := (0, 0)
deriving DecidableEq, Repr

/-- Who reads a participant table: a collective of the firmware's program, one that a loaded program has taken, a VOTE. -/
inductive TableUse where
  | coll | loaded | vote
deriving DecidableEq, Repr

/-- The read of a participant table and the Shard Map records of a PERMUTE (R322, R344): its number, the engine whose Page Map copy it goes by, the collective as it stands
at acceptance, without its participants; the bytes that have come and the places still awaited; `bad` once a piece has failed. -/
structure TableRead where
  id : Nat
  engine : Nat
  use : TableUse
  coll : Coll
  got : List (Nat × List (Byte × Bool)) := []
  wait : List Nat := []
  bad : Bool := false
deriving DecidableEq, Repr

/-- A Confluence engine (R319): the collective it runs, the transfers waiting and under way, the pieces that have arrived,
the combine slots, the message queue. -/
structure Cfl where
  cur : Option Coll := none
  xq : List Xfer := []
  fly : List Flight := []
  arr : List Arrival := []
  slots : Table (List Held) := []
  msgs : List Msg := []
  /-- Watershed rounds that wait for the engine -/
  wsq : List Coll := []
  nextId : Nat := 0
  quiescing : Bool := false
  quiesced : Bool := false
deriving DecidableEq, Repr

/-! ### The transactional step -/

/-- The states of a journal slot (R353). -/
inductive SlotSt where
  | free | opening | compute | reduce | check | vote | seal | commit | mirror | aborted | inDoubt
deriving DecidableEq, Repr

/-- The code of a slot state (R353). -/
def SlotSt.code : SlotSt → Nat
  | .free => 0 | .opening => 1 | .compute => 2 | .reduce => 3 | .check => 4 | .vote => 5
  | .seal => 6 | .commit => 7 | .mirror => 8 | .aborted => 9 | .inDoubt => 10

/-- The Watershed of a step, as the VOTE action names it (R358, R367): engine, participant table, participants, own index,
collective, buffer, the limits of the two rounds. -/
structure Vote where
  engine : Nat
  table : Nat
  parts : List Part
  me : Nat
  coll : Nat
  vbuf : Nat
  voteTo : Nat
  sealedTo : Nat
deriving DecidableEq, Repr

/-- A journal slot and the step in it (R353 to R356, R361). -/
structure StepSlot where
  st : SlotSt := .free
  step : W32 := 0
  ctx : Nat := 0
  seed : W64 := 0
  replay : Bool := false
  /-- replay OPENs of the step, up to 255 (R361) -/
  replays : Nat := 0
  mbDone : NatSet := []
  pastCommit : Bool := false
  /-- a conversion of a collective wrote a NaN or an infinity (R365) -/
  nonfin : Bool := false
  /-- the micro-batch table that the step opened with (R258): `SLOT_TOK` and `SLOT_CFG` words -/
  toks : List W32 := []
  cfgs : List W32 := []
  /-- the descriptor of the action that is not done yet -/
  act : Option Desc := none
  /-- the descriptor of a RESOLVE that repeats the resolution -/
  again : Option Desc := none
  /-- the failure bits of the verdict (R365) -/
  verdict : Option Nat := none
  vote : Option Vote := none
  /-- the Watershed round that runs or has run: 0 none; and whether it has gathered or failed -/
  round : Nat := 0
  gathered : Option Bool := none
  passed : Bool := false
  /-- the first-round records (R367), by index -/
  recs : List (List W32) := []
  copyFail : Bool := false
  sealFail : Bool := false
  /-- what the own seal word's OR returned (R369), and that it was not refused -/
  sealRet : Option W64 := none
  complete : Bool := false
  /-- indices whose seal words are asked (R370), and the answers: a value, or none for a failure -/
  lack : NatSet := []
  answers : Table (Option W64) := []
  /-- layers whose entries the commit has updated (R373), and Norm entries that had a fold (R348) -/
  layers : NatSet := []
  folded : NatSet := []
  /-- when the slot entered each state (by its code; 15 is the commit point), and when it opened -/
  times : Table W64 := []
  openAt : W64 := 0
  /-- reference counts from OPEN to each SLOT_DONE (R260) -/
  busy : Table W32 := []
deriving DecidableEq, Repr

/-- What an access of the step machinery is for: token data of a micro-batch slot at an offset of the journal (R361); a
journal copy; a zero into the seal word; a seal; the OR of `COMPLETE`; the OR of `REFUSED` into the own seal word, before a
flood (R371); the OR of `REFUSED` into the seal word of index k (R370); bytes of mirror page m, and its tag (R377). -/
inductive AskKind where
  | tokens (off : Nat)
  | copy
  | word
  | seal
  | complete
  | refuse (flood : FReq)
  | resolve (k : Nat)
  | page (m : Nat)
  | tag (m : Nat)
  | remirror
deriving DecidableEq, Repr

/-- Accesses that an abort of their step stops (R392). -/
def AskKind.ofStep : AskKind → Bool
  | .tokens _ | .copy | .word | .seal | .complete | .resolve _ => true
  | .refuse _ | .page _ | .tag _ | .remirror => false

/-- An access of the step machinery at another device: its number, slot, purpose, request, and the repeats made. -/
structure Ask where
  key : Nat
  slot : Nat
  kind : AskKind
  req : FReq
  tries : Nat := 0
deriving DecidableEq, Repr

/-- The straggler rule (R411): rounds that passed since the cold period began, run counts, the straggler named. -/
structure Strag where
  rounds : Nat := 0
  runs : Table Nat := []
  named : Option Nat := none
deriving DecidableEq, Repr

/-- The step machinery (R357 to R359): the slots, the queue with the time at which its head began to wait, the slot and
the context of the step abort that drains (R392), the accesses under way, the slot of the newest step that reached its commit point (R398). -/
structure StepM where
  s0 : StepSlot := {}
  s1 : StepSlot := {}
  q : List Desc := []
  waitAt : Option W64 := none
  draining : Option (Nat × Nat) := none
  asks : List Ask := []
  nextKey : Nat := 0
  newest : Option Nat := none
  strag : Strag := {}
deriving DecidableEq, Repr

/-- A mirror page that waits to be sent (R377): its number, its step, its contents: the bytes of its frame that have been
written, the draws of the granules whose contents were lost, and its poisoned granules. -/
structure PendPage where
  m : Nat
  step : W32
  cells : List (Nat × Byte)
  draws : Table Nat
  bad : NatSet
deriving DecidableEq, Repr

/-- A run of the digest engine (R465): the step, the digests of the list's entries in order, and whether a poisoned page ended
it. -/
structure Dig where
  step : W32
  digests : List (List Byte)
  poison : Bool
deriving DecidableEq, Repr

/-- Oxbow (R375 to R379, R401): the frames of the mirror pages as keys in units of 2 MiB, the PENDING pages, the one that is
SENDING, the promoted ones, and what runs; `loose` since software has written a page tag (R383). -/
structure Oxb where
  frames : List Nat := []
  pend : List PendPage := []
  sending : Option Nat := none
  promoted : List Nat := []
  stopped : Bool := false
  initRun : Bool := false
  remirror : Bool := false
  loose : Bool := false
deriving DecidableEq, Repr

/-! ### The escalation ladder -/

/-- What the ladder waits for (R416, R417): the accepted ops, as Ridge and number, whose end completes the context abort that
`CWN.CTL.ABORT` reports; the reference count at which each Ridge was asked to quiesce. -/
structure Ladder where
  aborting : List (Nat × Nat) := []
  since : Table W64 := []
deriving DecidableEq, Repr

/-! ### The host -/

/-- A host access through BAR2 with pieces at other devices (R502): its address and length, the context, the bytes that
have come by their offset, the pieces still awaited by their offset; `bad` once a piece has failed. -/
structure HostAcc where
  key : Nat
  wr : Bool
  addr : Nat
  len : Nat
  got : List (Nat × List (Byte × Bool)) := []
  wait : List Nat := []
  bad : Bool := false
deriving DecidableEq, Repr

/-- The PCI Express function (R499 to R503): the link is up, the function is in D3hot, the size of BAR2 as a power of two over
256 GiB, the accesses under way, the tally notices whose tally has reached its target (R505). -/
structure HostIf where
  linkUp : Bool := false
  d3 : Bool := false
  barSize : Nat := 0
  accs : List HostAcc := []
  nextKey : Nat := 0
  due : NatSet := []
deriving DecidableEq, Repr

/-! ### Clocks, supplies, heat, boundary scan -/

/-- The states of a clock input (R480). -/
inductive ClkSt where
  | unjudged | stable | lost
deriving DecidableEq, Repr

/-- The code of a clock state in `MON_STAT` (R495). -/
def ClkSt.code : ClkSt → Nat
  | .unjudged => 0 | .stable => 1 | .lost => 2

/-- A clock input: its state and its consecutive good windows. -/
structure ClkIn where
  st : ClkSt := .unjudged
  good : Nat := 0
deriving DecidableEq, Repr

/-- The boundary-scan instructions of R540. -/
inductive TapMode where
  | bypass | sample | extest | clamp | highz
deriving DecidableEq, Repr

/-- What the platform blocks hold beside their registers (R474 to R494, R540): `held` while chip reset is held, the rails
outside their windows, PERST# asserted, the 125 °C trip; the clock inputs; the count of the frequency-measuring counter; the
thermal floors, the idle dies, the voltage in mV by die that the regulator certainly supplies, the dies whose request is not
acknowledged, the last ticks; the boundary register. -/
structure Plat where
  held : Bool := true
  railsOut : NatSet := []
  perst : Bool := false
  trip : Bool := false
  core : ClkIn := {}
  pcie : ClkIn := {}
  watch : ClkIn := {}
  tfloor : Table Nat := []
  idle : NatSet := []
  vAck : Table Nat := []
  vWait : NatSet := []
  thmAt : W64 := 0
  pwrAt : W64 := 0
  /-- islands outside the ratio limits (R18, R478) -/
  astray : NatSet := []
  /-- pages of blocks whose results are unpredictable until chip reset, by address (R42) -/
  wrecked : NatSet := []
  tap : TapMode := .bypass
  bsr : List Bool := []
deriving DecidableEq, Repr

/-- What the boot has done (R509, R514, R515, R539): the flash is out of reset; a slot has been chosen, or both have failed;
the digest of bytes 0x000 to 0xFFF of the running image. -/
structure Boot where
  flashUp : Bool := false
  tried : Bool := false
  imageDigest : List Byte := []
deriving DecidableEq, Repr

/-! ### The board and the management core -/

/-- The mailbox request being served (R518): bytes read at other devices by address and length, reads and writes under way, a
write that failed, and once the work is done the words of the block that the end writes: their index and value. -/
structure Svc where
  got : List ((Nat × Nat) × Option (List (Byte × Bool))) := []
  asked : List (Nat × Nat) := []
  wr : Nat := 0
  bad : Bool := false
  fin : Option (List (Nat × W32)) := none
deriving DecidableEq, Repr

/-- What survives every reset (R457, R511, R515, R517): the bytes of the board flash, whether the flash answers, the boot
configuration as its preferred slot and trial state (none where the sector holds no valid one), the blown fuses of the
anti-rollback row; and the count of floods the device has sent in its life (R325). -/
structure Board where
  flash : Table Byte := []
  dead : Bool := false
  bootCfg : Option (Nat × Nat) := none
  fuses : Nat := 0
  floods : Nat := 0
deriving DecidableEq, Repr

/-- The management core (R419, R420, R460, R518): the record position of the log that it writes next, the MISMATCH records it
wrote per array in this boot, the steps committed since chip reset, the level it asks of the tray controller, `PWR_REQ#`, the
mailbox: service and block address of the requests handed over; the Confluence engines whose core holds the collective program
that the image brought (R319, R513). -/
structure Mgmt where
  uhlPos : Nat := 0
  mism : Table Nat := []
  commits : Nat := 0
  asked : Nat := 0
  pwrReq : Bool := false
  mbox : List (Nat × Nat) := []
  svc : Svc := {}
  collProg : NatSet := []
deriving DecidableEq, Repr

end Sys2Proof.Machine
end

