-- ==== Sys2Proof/Machine/State.lean ====
section
/-! DEFINITION. The state of the block, the reasons a step can stop, and the state right after reset. -/
namespace Sys2Proof.Machine

/-- Why a step may stop with a fault. -/
inductive Fault where
  /-- No command raises it: the block answers every command with a next state, and its errors are bits of its registers.
  Safe. -/
  | unraised
deriving DecidableEq, Repr

/-- Why a step may be refused. -/
inductive Refusal where
  /-- A command whose meaning is not written yet: safe, since nothing follows from it. -/
  | notModelled (mnemonic : String)
deriving DecidableEq, Repr

/-- What the block sends out. -/
inductive Out where
  /-- an MSI-X message (R504) -/
  | msix (vector : Nat)
  /-- the value of a read (R30, R211) -/
  | data (v : W64)
  /-- a flit sent on a port (R288) -/
  | flit (port : Nat) (f : Flit)
  /-- a posted write to host memory, and whether it is marked poisoned (R278) -/
  | hostWrite (addr : Nat) (bytes : List Byte) (ep : Bool)
  /-- the completion of a BAR2 read, and whether it is marked poisoned (R502) -/
  | hostRead (bytes : List Byte) (ep : Bool)
  /-- a completion with Unsupported Request (R500) -/
  | unsupported
  /-- what the SMBus target answers: bytes, or no acknowledge (R506, R507) -/
  | smb (bytes : List Byte)
  | smbNack
  /-- a voltage request for a C-die, in mV (R488) -/
  | avs (die mv : Nat)
  /-- what SAMPLE captured, shifted out of the TAP (R540) -/
  | tdo (values : List Bool)
  /-- what the TAP drives on the signal lands (R540): the boundary register, or high impedance -/
  | lands (values : List Bool)
  | highZ
deriving DecidableEq, Repr

structure State where
  pending : List Instr := []
  out : List Out := []
  free : Nat := 0
  refcnt : W64 := 0
  io : Bar0 := {}
  mem : Mem := {}
  cores : Table Core := []
  wins : Table Win := []
  /-- the command window that the controller served last (R245) -/
  winTurn : Nat := 63
  tallies : Table W32 := []
  dies : Table (List OpRec) := []
  /-- the number of operations issued so far (R15) -/
  opNum : Nat := 0
  ridges : Table Ridge := []
  dmas : Table DmaCh := []
  ports : Table Port := []
  fab : Fab := {}
  cfls : Table Cfl := []
  /-- the participant tables being read, by their reader: an engine, or 8 for the head of the step machinery's queue (R322) -/
  treads : Table (Option TableRead) := []
  stepm : StepM := {}
  oxb : Oxb := {}
  /-- the run of the digest engine that is not over (R465) -/
  dig : Option Dig := none
  board : Board := {}
  mgmt : Mgmt := {}
  lad : Ladder := {}
  host : HostIf := {}
  plat : Plat := {}
  boot : Boot := {}
  /-- Cairn checks not yet over -/
  checks : List Check := []
  /-- transactions in transit that a fence returned: the port, the class, the slots (R313) -/
  transit : List (Nat × Nat × List Slot) := []
  /-- transactions that wait for their issue (R295) -/
  fwait : List FReq := []
  /-- contexts that took a fault since the step of their slot opened (R365) -/
  faulted : NatSet := []
deriving DecidableEq, Repr

/-- The state right after reset. -/
def State.reset : State := {}

end Sys2Proof.Machine
end

