-- ==== Sys2Proof/Machine/Ops.lean ====
section
/-! DEFINITION. The named operations over the state that every block shares: registers, errors, interrupts, event
counters, tallies, and the accessors of the indexed parts. -/
namespace Sys2Proof.Machine

/-! ### Registers -/

/-- The stored value of a page's register: what was last written, or its reset value. -/
def State.reg (s : State) (p : Page) (off : Nat) : W32 := Table.get regDefault s.io.regs (p.base + off)

/-- Store a register's value. -/
def State.setReg (s : State) (p : Page) (off : Nat) (v : W32) : State :=
  { s with io := { s.io with regs := Table.set regDefault s.io.regs (p.base + off) v } }

/-- A 64-bit quantity of a `_LO`/`_HI` pair (R36). -/
def State.reg64 (s : State) (p : Page) (off : Nat) : W64 := join64 (s.reg p (off + 4)) (s.reg p off)

/-- Store both halves of a pair (R37). -/
def State.setReg64 (s : State) (p : Page) (off : Nat) (v : W64) : State :=
  (s.setReg p off (lo32 v)).setReg p (off + 4) (hi32 v)

/-- A field of a register. -/
def State.field (s : State) (p : Page) (off hi lo : Nat) : Nat := fld (s.reg p off) hi lo

/-- Store a field of a register. -/
def State.setField (s : State) (p : Page) (off hi lo v : Nat) : State := s.setReg p off (setFld (s.reg p off) hi lo v)

/-- A bit of a register. -/
def State.flag (s : State) (p : Page) (off i : Nat) : Bool := bitOf (s.reg p off) i

/-- Store a bit of a register. -/
def State.setFlag (s : State) (p : Page) (off i : Nat) (b : Bool) : State := s.setReg p off (setBit (s.reg p off) i b)

/-- Add to a saturating 32-bit counter register. -/
def State.addSat (s : State) (p : Page) (off n : Nat) : State := s.setReg p off (satAdd32 (s.reg p off) n)

/-- A page is sealed (R43). -/
def State.pageSealed (s : State) (p : Page) : Bool := s.io.isSealed.has p.base

/-- A plain write of a register (R30, R31, R43): its RW bits take the value, its RWS bits while the page is not sealed, its W1C
bits clear where the value has ones. -/
def State.storeBits (s : State) (p : Page) (off : Nat) (v : W32) : State :=
  match p.row off with
  | none => s
  | some r =>
    let m := w32 (r.rw ||| (if s.pageSealed p then 0 else r.rws))
    s.setReg p off (((s.reg p off &&& ~~~m) ||| (v &&& m)) &&& ~~~(v &&& w32 r.w1c))

/-! ### Outputs and open values -/

/-- Send something out of the block; the newest output stands first. -/
def State.emit (s : State) (o : Out) : State := { s with out := o :: s.out }

/-- A fresh draw of unpredictable values. -/
def State.fresh (s : State) : State := { s with free := s.free + 1 }

/-! ### Blocks whose results are unpredictable (R18, R42) -/

/-- A page of the list is that of a block whose hardened registers failed (R42). -/
def State.wreckedAny (s : State) (ps : List Page) : Bool := ps.any fun p => s.plat.wrecked.has p.base

/-- The results of the ops of Ridge `n` are unpredictable: its clock breaks a limit, or a block of it failed. -/
def State.ridgeAstray (s : State) (n : Nat) : Bool :=
  s.plat.astray.has n || s.wreckedAny [.rdg n, .trn n, .acc n, .brk n]

/-- What Confluence engine `e` moves is unpredictable. -/
def State.cflAstray (s : State) (e : Nat) : Bool := s.plat.astray.has (112 + e) || s.wreckedAny [.cfl e]

/-- What DMA channel `c` moves is unpredictable. -/
def State.dmaAstray (s : State) (c : Nat) : Bool := s.wreckedAny [.dma c, .dmaG]

/-- The stacks whose transfers are unpredictable. -/
def State.judgeStacks (s : State) : State :=
  { s with mem := { s.mem with
      astray := (List.range 8).filter fun k =>
        s.plat.astray.has (68 + k) || s.wreckedAny [.hbm k, .hbm2 k, .bsn (k / 2)] } }

/-- The results of a page's block are unpredictable from now on (R42). -/
def State.wreck (s : State) (p : Page) : State :=
  ({ s with plat := { s.plat with wrecked := NatSet.add p.base s.plat.wrecked } }).judgeStacks

/-! ### Interrupts (R38, R504) -/

/-- The MSI-X vector that carries a page's error interrupt; the CLK page has none (R504). -/
def Page.vector : Page → Option Nat
  | .clk => none
  | .dev | .pwr | .thm | .pci | .smb | .stp | .uhl => some 1
  | .sec | .boot => some 2
  | .step | .hdw | .oxb | .chkG | .scl | .nrm | .nse | .pmap | .cwn | .tly => some 3
  | .die k => some (4 + k)
  | .rdg n | .trn n | .acc n | .brk n | .chk n => some (4 + n / 16)
  | .hbm k | .hbm2 k => some (4 + k / 2)
  | .bsn k => some (4 + k)
  | .dmaG => none
  | .dma c => some (8 + c)
  | .prt p | .prt2 p => some (40 + p)
  | .cfl e => some (76 + e)
  | .ril c => some (84 + c)

/-- The host masks vector `v`: by its table entry, whose mask bit is 1 after reset, or by the function mask. -/
def State.vectorMasked (s : State) (v : Nat) : Bool :=
  s.io.msixMask || bitOf (Table.get (fun a => if a % 16 = 12 then 1#32 else 0#32) s.io.msix (0xA000 + 16 * v + 12)) 0

/-- Send a vector's message, or set its pending bit while it is masked (R504). -/
def State.sendVector (s : State) (v : Nat) : State :=
  if s.vectorMasked v then { s with io := { s.io with pba := NatSet.add v s.io.pba } } else s.emit (.msix v)

/-- The condition of an error vector: some page of it raises its error interrupt (R504). -/
def State.vectorHigh (s : State) (v : Nat) : Bool :=
  s.io.irq.any fun a => (pageAt a).bind Page.vector == some v

/-- The page's error interrupt condition: `INT_EN`, and an error that is not masked (R38). -/
def State.pageIrq (s : State) (p : Page) : Bool :=
  s.flag p 0x008 0 && (s.reg p 0x010 &&& ~~~(s.reg p 0x014)) != 0

/-- Bring the page's interrupt up to date; a vector whose condition becomes true sends its message (R504). -/
def State.irqUpdate (s : State) (p : Page) : State :=
  let now := s.pageIrq p
  let t := { s with io := { s.io with irq := NatSet.put s.io.irq p.base now } }
  match p.vector with
  | none => t
  | some v => if now && !(s.vectorHigh v) then t.sendVector v else t

/-! ### Errors and event counters -/

/-- Detect errors: the bits set in `ERR_STAT`; `ERR_FIRST` captures them when it reads all zero (R38, R39). -/
def State.detect (s : State) (p : Page) (bitsMask : W32) : State :=
  let t := s.setReg p 0x010 (s.reg p 0x010 ||| bitsMask)
  let u := if s.reg p 0x018 = 0 then t.setReg p 0x018 bitsMask else t
  u.irqUpdate p

/-- Detect one error (R38). -/
def State.setErr (s : State) (p : Page) (i : Nat) : State := s.detect p (w32 (2 ^ i))

/-- Count a corrected error of the block (R41). -/
def State.countErr (s : State) (p : Page) : State := s.addSat p 0x020 1

/-- Count `n` events of a block-specific or common code in the page's event counters (R35). -/
def State.event (s : State) (p : Page) (code n : Nat) : State :=
  let sel := s.reg p 0x02C
  let t := if bitOf sel 15 && fld sel 7 0 == code then s.setReg64 p 0x030 (s.reg64 p 0x030 + w64 n) else s
  if bitOf sel 31 && fld sel 23 16 == code then t.setReg64 p 0x038 (t.reg64 p 0x038 + w64 n) else t

/-! ### Indexed parts of the state -/

/-- Rill core `c`. -/
def State.core (s : State) (c : Nat) : Core := Table.get (fun _ => {}) s.cores c
def State.setCore (s : State) (c : Nat) (k : Core) : State := { s with cores := Table.set (fun _ => {}) s.cores c k }

/-- Command window `w`. -/
def State.win (s : State) (w : Nat) : Win := Table.get (fun _ => {}) s.wins w
def State.setWin (s : State) (w : Nat) (k : Win) : State := { s with wins := Table.set (fun _ => {}) s.wins w k }

/-- Ridge `n`. -/
def State.ridge (s : State) (n : Nat) : Ridge := Table.get (fun _ => {}) s.ridges n
def State.setRidge (s : State) (n : Nat) (r : Ridge) : State := { s with ridges := Table.set (fun _ => {}) s.ridges n r }

/-- DMA channel `c`. -/
def State.dma (s : State) (c : Nat) : DmaCh := Table.get (fun _ => {}) s.dmas c
def State.setDma (s : State) (c : Nat) (k : DmaCh) : State := { s with dmas := Table.set (fun _ => {}) s.dmas c k }

/-- Port `p`. -/
def State.port (s : State) (p : Nat) : Port := Table.get (fun _ => {}) s.ports p
def State.setPort (s : State) (p : Nat) (k : Port) : State := { s with ports := Table.set (fun _ => {}) s.ports p k }

/-- Confluence engine `e`. -/
def State.cfl (s : State) (e : Nat) : Cfl := Table.get (fun _ => {}) s.cfls e
def State.setCfl (s : State) (e : Nat) (k : Cfl) : State := { s with cfls := Table.set (fun _ => {}) s.cfls e k }

/-- The participant table that reader `q` is reading (R322). -/
def State.tread (s : State) (q : Nat) : Option TableRead := Table.get (fun _ => none) s.treads q
def State.setTread (s : State) (q : Nat) (r : Option TableRead) : State :=
  { s with treads := Table.set (fun _ => none) s.treads q r }

/-- The operations of die sequencer `k`, oldest first. -/
def State.die (s : State) (k : Nat) : List OpRec := Table.get (fun _ => []) s.dies k
def State.setDie (s : State) (k : Nat) (l : List OpRec) : State := { s with dies := Table.set (fun _ => []) s.dies k l }

/-- Array `a` of a Ridge. -/
def Ridge.arr (r : Ridge) (a : Nat) : Arr := Table.get (fun _ => {}) r.arrs a
def Ridge.setArr (r : Ridge) (a : Nat) (v : Arr) : Ridge := { r with arrs := Table.set (fun _ => {}) r.arrs a v }

/-- Tile `i` of an array (R112). -/
def Arr.tile (a : Arr) (i : Nat) : Tile := if i = 0 then a.t0 else a.t1
def Arr.setTile (a : Arr) (i : Nat) (t : Tile) : Arr := if i = 0 then { a with t0 := t } else { a with t1 := t }

/-! ### Partitions (R23, R24) -/

/-- `DEV.PART_CFG.MODE`. -/
def State.partMode (s : State) : Nat := s.field .dev 0x100 1 0

/-- The number of partitions. -/
def State.partCount (s : State) : Nat := match s.partMode with | 0 => 1 | 1 => 2 | _ => 4

/-- The partition that owns context (and command window) `c` (R24). -/
def State.partOfCtx (s : State) (c : Nat) : Nat := c / (64 / s.partCount)

/-- The partition that contains C-die `k` (R23). -/
def State.partOfDie (s : State) (k : Nat) : Nat := match s.partMode with | 0 => 0 | 1 => k / 2 | _ => k

/-- The C-dies of a partition, ascending. -/
def State.diesOf (s : State) (p : Nat) : List Nat := (List.range 4).filter fun k => s.partOfDie k == p

/-- The partition that owns the step machinery (R25). -/
def State.stepOwner (s : State) : Nat := s.field .dev 0x100 5 4

/-! ### Tallies (R225, R254, R255) -/

/-- The value of tally `t`. -/
def State.tally (s : State) (t : Nat) : W32 := Table.get (fun _ => 0) s.tallies t

/-- The tally has reached or passed the target under wrapping arithmetic (R225). -/
def tallyReached (v target : W32) : Bool := (v - target).toNat < 2 ^ 31

/-- The core executes or waits (R218): load registers and program memory ignore writes (R237). -/
def Core.busy (k : Core) : Bool := k.st == .running || k.st == .waiting || k.st == .idle

/-- No asynchronous exception has to be taken before the core goes on (R234). -/
def Core.undisturbed (k : Core) : Bool := k.pend.isEmpty || k.inTrap

/-- A core waiting in `TWAIT` on tally `t` is released for good once the tally passes its target (R225), unless an exception
has come that ends the wait (R234). -/
def Core.seeTally (t : Nat) (v : W32) (k : Core) : Core :=
  match k.waitTally with
  | some (u, target) => if u = t ∧ tallyReached v target ∧ k.undisturbed then { k with released := true } else k
  | none => k

/-- The condition of a window that is HELD on tally `t` has held (R248). -/
def Win.seeTally (t : Nat) (v : W32) (k : Win) : Win :=
  match k.waits with
  | some (u, target) => if u = t ∧ k.st = .held ∧ tallyReached v target then { k with met := true } else k
  | none => k

/-- The tally notices that are due once tally `t` holds `v`: the enabled ones on it whose target it reaches (R505). -/
def State.noticesDue (s : State) (t : Nat) (v : W32) : NatSet :=
  let cfg := Page.base .pci + 0x200
  s.io.regs.foldl (fun m e =>
    let n := (e.1 - cfg) / 4
    if decide (cfg ≤ e.1) && decide (n < 64) && bitOf e.2 31 && fld e.2 11 0 == t && tallyReached v (s.reg .pci (0x300 + 4 * n)) then
      NatSet.add n m
    else m) s.host.due

/-- Store a tally's value and release what waits on it. -/
def State.setTally (s : State) (t : Nat) (v : W32) : State :=
  { s with
    tallies := Table.set (fun _ => 0) s.tallies t v
    host := { s.host with due := s.noticesDue t v }
    wins := s.wins.map fun e => (e.1, e.2.seeTally t v)
    cores := s.cores.map fun e => (e.1, e.2.seeTally t v) }

/-- Add to a tally as one indivisible act (R225); TLY event 0x02 counts it. -/
def State.addTally (s : State) (t : Nat) (n : W32) : State := (s.setTally t (s.tally t + n)).event .tly 0x02 1

/-- Tally `t` is permitted to context `c` (R255). -/
def State.tallyPermitted (s : State) (t c : Nat) : Bool := s.field .tly (0x200 + 4 * (t / 64)) 7 0 == c

/-- The increment an op makes when it completes: dropped and recorded when the tally is not permitted to the op's tag
(R255). -/
def State.opTally (s : State) (t c : Nat) : State :=
  if s.tallyPermitted t c then s.addTally t 1
  else
    let u := if s.flag .tly 0x104 31 then s else s.setReg .tly 0x104 (w32 (2 ^ 31 + c * 4096 + t))
    u.setErr .tly 0

/-! ### The reference counter (R20) -/

/-- At least `n` reference counts have passed since `since`. -/
def State.elapsed (s : State) (since : W64) (n : Nat) : Bool := n ≤ (s.refcnt - since).toNat

/-! ### The phases of an operation (R15) -/

/-- A share of the operation still waits in the inbound queue of Ridge `n`'s sequencer. -/
def State.shareWaits (s : State) (n : Nat) (r : OpRec) : Bool := (s.core (5 + n)).inq.any fun d => d.op == r.desc.op

/-- Tile ops of operation `op` that Ridge `n` still has to pass through its arrays: issued ones, and accepted ones. -/
def State.tilesUndone (s : State) (n op : Nat) : Bool :=
  let r := s.ridge n
  (r.tileIn ++ (s.core (5 + n)).heldDesc.toList).any (fun d => d.op == op) ||
    r.tileOps.any fun o => o.desc.op == op && (o.ph == .accepted || o.ph == .atArray)

/-- The last tile of the operation has left the arrays of this die: each Ridge that owes its share has taken it, has passed
every tile dealt to it through its arrays, and has no further tile op of the operation. -/
def State.tilesLeft (s : State) (r : OpRec) : Bool :=
  r.owing.all fun n =>
    !(s.shareWaits n r) && Table.get (fun _ => 0) r.due n == 0 && !(s.tilesUndone n r.desc.op)

/-- The phase of an operation: 0 waiting, 1 open, 2 draining. -/
def State.opPhase (s : State) (r : OpRec) : Nat := if r.phase = 1 ∧ s.tilesLeft r then 2 else r.phase

/-- An operation of die `k` is open. -/
def State.dieOpen (s : State) (k : Nat) : Bool := (s.die k).any fun r => s.opPhase r == 1

/-- A tile of operation `op` has left the arrays of Ridge `n`. -/
def State.tileLeaves (s : State) (n op : Nat) : State :=
  s.setDie (n / 16) ((s.die (n / 16)).map fun r =>
    if r.desc.op = op ∧ r.phase = 1 then
      { r with due := Table.set (fun _ => 0) r.due n (Table.get (fun _ => 0) r.due n - 1) }
    else r)

/-- `n` reference counts pass for a page's event counters: the counts, the cycles of its island, whose number is not
fixed, and on a DIE page the counts with an operation open (R35, R263). -/
def State.tickPage (s : State) (n : Nat) (p : Page) : State :=
  let t := (s.event p 0x01 n).event p 0x00 (Config.freeNat s.free (2 ^ 26 * s.refcnt.toNat + p.base))
  match p with
  | .die k => if t.dieOpen k then t.event p 0x06 n else t
  | _ => t

/-- The pages whose event counters have been set up. -/
def State.countingPages (s : State) : List Page :=
  s.io.regs.filterMap fun e => if e.1 % 0x1000 = 0x02C then pageAt e.1 else none

/-- `n` reference counts pass (R20, R35). -/
def State.passTime (s : State) (n : Nat) : State :=
  s.countingPages.foldl (fun t p => t.tickPage n p) { s with refcnt := s.refcnt + w64 n }

/-- Let the reference counter advance to at least `n` counts after `since`. -/
def State.advance (s : State) (since : W64) (n : Nat) : State :=
  if s.elapsed since n then s else s.passTime (n - (s.refcnt - since).toNat)

end Sys2Proof.Machine
end

