-- ==== Sys2Proof/Machine/Memory.lean ====
section
/-! DEFINITION. Memory: the bytes of HBM with their poison, the hashed window, the Page Map and its checks, the
die-to-die routes (R12, R170 to R187, R202 to R204). -/
namespace Sys2Proof.Machine

/-! ### Bytes of HBM -/

/-- The key of a byte: stack and 37-bit stack address (R170). -/
def memKey (stack addr : Nat) : Nat := stack * 2 ^ 37 + addr

/-- `W`: frames per stack in the hashed window; 513 to 1,023 act as 512 (R210). -/
def State.winFrames (s : State) : Nat := min (s.field .pmap 0x100 9 0) 512

/-- Granule `g` (key div 64) lies in a stack's share of the hashed window (R170). -/
def State.granInWindow (s : State) (g : Nat) : Bool :=
  (5120 - s.winFrames) * 2 ^ 24 ≤ (g * 64) % 2 ^ 37

/-- Granule `g` lies in the rows of the hashed window that the spill copy was last rewritten to (R173, R174, R177). -/
def State.inSpill (s : State) (g : Nat) : Bool :=
  let o := (g * 64) % 2 ^ 37
  let lo := (5120 - s.mem.spillAt) * 2 ^ 24
  s.mem.spillAt != 0 && decide (lo ≤ o) && decide (o < lo + 2 ^ 19)

/-- Granule `g` lies in frames that a resize of the window left unpredictable (R177). -/
def State.granStale (s : State) (g : Nat) : Bool :=
  decide ((5120 - s.mem.winStale) * 2 ^ 24 ≤ (g * 64) % 2 ^ 37) && !(s.mem.winFresh.has g) && !(s.inSpill g)

/-- The contents of a granule are unpredictable: after a DISCARD read (R198), after a resize of the window (R177), or while
the transfers of its stack are (R18, R42). -/
def State.granFree (s : State) (g : Nat) : Bool := s.mem.freed.has g || s.granStale g || s.mem.astray.has (g / 2 ^ 31)

/-- The granule is poisoned (R202). -/
def State.granPoison (s : State) (g : Nat) : Bool := s.mem.poison.has g

/-- The draw that gives the bytes of a granule that nothing has written since its contents were last lost, or since the fill. -/
def State.drawOf (s : State) (g : Nat) : Nat :=
  match Table.get (fun _ => 0) s.mem.draws g with
  | 0 => Table.get (fun _ => 0) s.mem.fill (g / 2 ^ 31)
  | n + 1 => n

/-- What a byte nothing has written reads as: the fill leaves it unpredictable (R172); an entry of the spill copy is zero until
the Page Map's is not (R183). -/
def State.hbmDefault (s : State) (k : Nat) : Byte :=
  if s.inSpill (k / 64) && Table.get (fun _ => 0) s.mem.draws (k / 64) == 0 then 0 else Config.freeByte (s.drawOf (k / 64)) k

/-- One byte of HBM. -/
def State.hbmByte (s : State) (k : Nat) : Byte :=
  if s.granFree (k / 64) then Config.freeByte s.free k else (Table.find k s.mem.hbm).getD (s.hbmDefault k)

/-- `n` bytes from key `k`. -/
def State.hbmRead (s : State) (k n : Nat) : List Byte := (List.range n).map fun i => s.hbmByte (k + i)

/-- The granules that `n` bytes from key `k` touch. -/
def granules (k n : Nat) : List Nat :=
  if n = 0 then [] else (List.range ((k + n - 1) / 64 + 1 - k / 64)).map fun i => k / 64 + i

/-- Some byte of the range lies in a poisoned granule. -/
def State.rangePoison (s : State) (k n : Nat) : Bool := (granules k n).any s.granPoison

/-- Store listed bytes in the table of cells. -/
def putBytes (t : Table Byte) (bs : List (Nat × Byte)) : Table Byte := bs.foldl (fun t b => Table.put t b.1 b.2) t

/-- A granule whose contents are unpredictable takes the bytes that a read would now return, before part of it is written. -/
def State.settle (s : State) (g : Nat) : State :=
  if s.granFree g then
    { s with mem := { s.mem with
        hbm := s.mem.hbm.filter fun e => e.1 / 64 != g
        draws := Table.set (fun _ => 0) s.mem.draws g (s.free + 1)
        freed := NatSet.del g s.mem.freed
        winFresh := if s.granStale g then NatSet.add g s.mem.winFresh else s.mem.winFresh } }
  else s

/-- A granule is written while requests wait in the mailbox (R426, R518). -/
def Mem.touch (m : Mem) (g : Nat) : Mem :=
  if m.handed = 0 then m else { m with touched := Table.set (fun _ => 0) m.touched g m.handed }

/-- A request writes a granule: while a slot is in COMMIT, the home Basin marks its 2 MiB frame (R377). -/
def State.markFrame (s : State) (g : Nat) : State :=
  let m := s.mem.touch g
  { s with mem := if m.marking then { m with marked := NatSet.add (g / 2 ^ 15) m.marked } else m }

/-- Write bytes of one granule: into a poisoned granule only a write of all 64 bytes lands, and it clears the poison
(R203). What is written to a stack whose transfers are unpredictable is so too (R18, R42). -/
def State.writeGran (s : State) (g : Nat) (bs : List (Nat × Byte)) : State :=
  if s.granPoison g && bs.length < 64 then s
  else
    let t := (s.settle g).markFrame g
    { t with mem := { t.mem with
        hbm := putBytes t.mem.hbm bs, poison := NatSet.del g t.mem.poison
        freed := if t.mem.astray.has (g / 2 ^ 31) then NatSet.add g t.mem.freed else t.mem.freed } }

/-- Write bytes with byte enables: each pair is a key and a byte, in ascending keys without repeats. -/
def State.hbmPut (s : State) (bs : List (Nat × Byte)) : State :=
  (bs.map fun b => b.1 / 64).eraseDups.foldl
    (fun t g => t.writeGran g (bs.filter fun b => b.1 / 64 == g)) s

/-- Write consecutive bytes from key `k`. -/
def State.hbmWrite (s : State) (k : Nat) (bs : List Byte) : State :=
  s.hbmPut ((List.range bs.length).zip bs |>.map fun p => (k + p.1, p.2))

/-- Mark a granule poisoned. -/
def State.poisonGran (s : State) (g : Nat) : State :=
  { s with mem := { s.mem with poison := NatSet.add g s.mem.poison } }

/-- A granule comes to be poisoned: the controller of its stack counts it (R206). -/
def State.poisonCount (s : State) (g : Nat) : State :=
  if s.granPoison g then s else (s.poisonGran g).addSat (.hbm (g / 2 ^ 31)) 0x10C 1

/-- A request writes a granule as poisoned (R204). -/
def State.poisonWrite (s : State) (g : Nat) : State := (s.markFrame g).poisonCount g

/-- An uncorrectable HBM error of a stack: the granule is poisoned and counted, the first address captured (R202). -/
def State.hbmUe (s : State) (stack addr : Nat) (bit : Nat) : State :=
  let g := memKey stack addr / 64
  let t := (s.poisonGran g).addSat (.hbm stack) 0x10C 1
  let u := if t.flag (.hbm stack) 0x108 31 then t
    else (t.setReg (.hbm stack) 0x108 (w32 (2 ^ 31 + addr / 2 ^ 32))).setReg (.hbm stack) 0x104 (w32 (addr / 64 * 64))
  u.setErr (.hbm stack) bit

/-! ### The hashed window (R173 to R177) -/

/-- Fold the 3-bit fields of a granule index (R174). -/
def windowStack (g : Nat) : Nat := (List.range 10).foldl (fun a i => a ^^^ ((g >>> (3 * i)) % 8)) 0

/-- The HBM key of window offset `o` (R174). -/
def State.windowKey (s : State) (o : Nat) : Nat :=
  let g := o / 256
  memKey (windowStack g) ((5120 - s.winFrames) * 2 ^ 24 + g / 8 * 256 + o % 256)

/-- The size of the hashed window in bytes. -/
def State.windowSize (s : State) : Nat := s.winFrames * 2 ^ 27

/-- The window can serve: it has a size, and no stack failed training (R172). -/
def State.windowOk (s : State) : Bool := s.winFrames != 0 && s.mem.failed.isEmpty

/-- `n` bytes of the window; consecutive offsets within a 256-byte grain are consecutive in HBM. -/
def State.winRead (s : State) (o n : Nat) : List Byte := (List.range n).map fun i => s.hbmByte (s.windowKey (o + i))

/-- Write consecutive window bytes. -/
def State.winWrite (s : State) (o : Nat) (bs : List Byte) : State :=
  s.hbmPut ((List.range bs.length).zip bs |>.map fun p => (s.windowKey (o + p.1), p.2))

/-- The window granule at offset `o` is poisoned. -/
def State.winPoison (s : State) (o : Nat) : Bool := s.granPoison (s.windowKey o / 64)

/-- A 32-bit word of the window. -/
def State.winWord (s : State) (o : Nat) : W32 := w32 (leNat (s.winRead o 4))

/-- Write a 32-bit word of the window. -/
def State.setWinWord (s : State) (o : Nat) (v : W32) : State := s.winWrite o (leBytes 4 v.toNat)

/-- Window offsets of the tables (R173). -/
def scaleOff (i : Nat) : Nat := 0x400000 + i * 0x80
def normOff (i : Nat) : Nat := 0xC00000 + i * 0x100
def noiseOff (i : Nat) : Nat := 0xD00000 + i * 0x100
def expertOff : Nat := 0xE00000
def stagingOff : Nat := 0xE10000
def metaOff : Nat := 0x1000000

/-! ### Die-to-die routes (R11, R12) -/

/-- The links that traffic between two dies crosses: 0 to 3 are the C-dies, 4 and 5 are E0 and E1 (R11, R12). -/
def dieRoute (a b : Nat) : List Nat :=
  if a = b then []
  else
    let lo := min a b
    let hi := max a b
    if hi < 4 then
      if hi = lo + 1 then [lo]
      else if lo = 0 ∧ hi = 3 then [3]
      else if lo = 0 then [0, 1]
      else [1, 2]
    else if lo < 4 then (if hi = 4 then [4 + lo] else [8 + lo])
    else [12]

/-- The route between two dies crosses a link that is down (R13). -/
def State.routeDown (s : State) (a b : Nat) : Bool := (dieRoute a b).any s.mem.d2dDown.has

/-- The die of a stack (R170). -/
def stackDie (k : Nat) : Nat := k / 2

/-- The die of a port (R8). -/
def portDie (p : Nat) : Nat := if p < 18 then 4 else 5

/-- The die of a Confluence engine (R8). -/
def cflDie (e : Nat) : Nat := if e < 4 then 4 else 5

/-- The Page Map copy that a Ridge refills from: copy 0 for C0 and C1, copy 1 for C2 and C3 (R9). -/
def ridgeCopy (n : Nat) : Nat := if n < 32 then 0 else 1

/-! ### The Page Map (R178 to R182) -/

/-- Entry `p` of Page Map copy `copy`. -/
def State.pmapEntry (s : State) (copy p : Nat) : W64 :=
  Table.get (fun _ => 0) (if copy = 0 then s.mem.pmap0 else s.mem.pmap1) p

/-- Write an entry of both copies (R9, R185). -/
def State.setPmap (s : State) (p : Nat) (e : W64) : State :=
  { s with mem := { s.mem with
      pmap0 := Table.set (fun _ => 0) s.mem.pmap0 p e
      pmap1 := Table.set (fun _ => 0) s.mem.pmap1 p e
      lost := NatSet.del p s.mem.lost } }

/-- The entry's field `[hi:lo]` (R178). -/
def pmFld (e : W64) (hi lo : Nat) : Nat := bits e.toNat hi lo

/-- The entry translates: `VALID` is 1 and no reserved field is nonzero (R178). -/
def pmValid (e : W64) : Bool :=
  pmFld e 63 63 == 1 && pmFld e 58 56 == 0 && pmFld e 51 44 == 0 && pmFld e 39 19 == 0 && pmFld e 15 13 == 0

/-- The kinds of access of R181. -/
inductive Acc where
  | rd | wr | at
deriving DecidableEq, Repr

/-- Where a translation leads (R179). -/
inductive Place where
  /-- a local stack address -/
  | local (stack addr : Nat)
  /-- board member `slot`, over the fabric -/
  | board (slot : Nat)
  /-- remote window `w` -/
  | remote (w : Nat)
deriving DecidableEq, Repr

/-- The kind of access is permitted by the entry (R181). -/
def pmKind (e : W64) (k : Acc) : Bool :=
  match k with
  | .rd => pmFld e 62 62 == 1
  | .wr => pmFld e 61 61 == 1
  | .at => pmFld e 62 62 == 1 && pmFld e 61 61 == 1 && pmFld e 60 60 == 1

/-- The context's view permits the access to the entry's domain (R181). -/
def State.viewPermits (s : State) (c : Nat) (e : W64) (k : Acc) : Bool :=
  let v := s.reg .pmap (0x200 + 4 * c)
  let d := pmFld e 55 52
  match k with
  | .rd => bitOf v d
  | .wr => bitOf v (16 + d)
  | .at => bitOf v d && bitOf v (16 + d)

/-- The strap word latched at reset (R535, R541). -/
def State.strap (s : State) : W32 := s.reg .stp 0x100

/-- The device's own slot, half and group from its straps (R179, R541). -/
def State.mySlot (s : State) : Nat := fld s.strap 2 0
def State.myHalf (s : State) : Nat := fld s.strap 3 3
def State.myGroup (s : State) : Nat := fld s.strap 12 4
/-- The device's position in its group, d = 8h + s (R7). -/
def State.myDev (s : State) : Nat := s.myHalf * 8 + s.mySlot

/-- The page of a board address. -/
def pageOf (a : Nat) : Nat := a / 2 ^ 24 % 2 ^ 19

/-- The checks of R180 on entry `e` for a request of context `c` from die `die` at address `a`, in their order; a path that is
down fails at once (R13). -/
def State.translateEntry (s : State) (die c : Nat) (k : Acc) (a : Nat) (e : W64) : Except Nat Place :=
  if !(pmValid e) then .error 0x01
  else if !(pmKind e k && s.viewPermits c e k) then .error 0x02
  else
    let tgt := pmFld e 43 40
    if tgt ≥ 8 then .ok (.remote (tgt - 8))
    else if tgt ≠ s.mySlot then .ok (.board tgt)
    else
      let st := pmFld e 18 16
      if s.mem.failed.has st then .error 0x08
      else if s.partOfDie (stackDie st) ≠ s.partOfCtx c then .error 0x03
      else if 5120 - s.winFrames ≤ pmFld e 12 0 then .error 0x04
      else if s.routeDown die (stackDie st) then .error 0x09
      else .ok (.local st (pmFld e 12 0 * 2 ^ 24 + a % 2 ^ 24))

/-- Translate board address `a` for a request of context `c` from die `die` with Page Map copy `copy` (R180): the copy must be
reachable (R13), and hold the entry (R184). -/
def State.translate (s : State) (die copy c : Nat) (k : Acc) (a : Nat) : Except Nat Place :=
  if s.routeDown die (4 + copy) then .error 0x09
  else if s.mem.lost.has (pageOf a) then .error 0x05
  else s.translateEntry die c k a (s.pmapEntry copy (pageOf a))

/-- The entry has the bit of the kind of an incoming request (R182): for an atomic or reduction, `AT`. -/
def pmServes (e : W64) (k : Acc) : Bool :=
  match k with
  | .rd => pmFld e 62 62 == 1
  | .wr => pmFld e 61 61 == 1
  | .at => pmFld e 60 60 == 1

/-- Judge a request that arrives over the fabric through port `port` against the device's own entry (R182). -/
def State.mayServe (s : State) (port : Nat) (k : Acc) (a : Nat) : Except Nat (Nat × Nat) :=
  let p := a / 2 ^ 24 % 2 ^ 19
  let e := s.pmapEntry 0 p
  if s.routeDown (portDie port) 4 then .error 0x09
  else if s.mem.lost.has p then .error 0x05
  else if !(pmValid e) then .error 0x01
  else if pmFld e 43 40 ≠ s.mySlot ∨ pmFld e 59 59 = 0 ∨ !(pmServes e k) then .error 0x02
  else if s.mem.failed.has (pmFld e 18 16) then .error 0x08
  else if 5120 - s.winFrames ≤ pmFld e 12 0 then .error 0x04
  else if s.routeDown (portDie port) (stackDie (pmFld e 18 16)) then .error 0x09
  else .ok (pmFld e 18 16, pmFld e 12 0 * 2 ^ 24 + a % 2 ^ 24)

/-- Record a translation fault or a refused fabric request: the first one is kept (R180, R210). -/
def State.recordXlate (s : State) (reason req c inst a : Nat) : State :=
  let t := if s.flag .pmap 0x10C 31 then s
    else ((s.setReg .pmap 0x10C (w32 (2 ^ 31 + reason * 65536 + req * 4096 + c * 64 + inst))).setReg .pmap 0x104
      (w32 a)).setReg .pmap 0x108 (w32 (a / 2 ^ 32 % 2048))
  t.setErr .pmap 0

/-- Read or write bytes piecewise: split a board range at page boundaries, as (address, length, offset). -/
def pageSplit : Nat → Nat → Nat → Nat → List (Nat × Nat × Nat)
  | 0, _, _, _ => []
  | fuel + 1, a, n, o =>
    if n = 0 then []
    else
      let m := min n (2 ^ 24 - a % 2 ^ 24)
      (a % 2 ^ 43, m, o) :: pageSplit fuel (a + m) (n - m) (o + m)

/-- The local key of a board range that lies within one page and translates locally. -/
def State.localKey (s : State) (die copy c : Nat) (k : Acc) (a : Nat) : Except Nat Nat :=
  match s.translate die copy c k a with
  | .ok (.local st x) => .ok (memKey st x)
  | .ok _ => .error 0x06
  | .error r => .error r

/-- The local keys of every page piece of a board range, or the first fault. -/
def State.localPieces (s : State) (die copy c : Nat) (k : Acc) (a n : Nat) : Except Nat (List (Nat × Nat × Nat)) :=
  (pageSplit (n / 2 ^ 24 + 2) a n 0).foldr (fun p acc =>
    match acc, s.localKey die copy c k p.1 with
    | .ok l, .ok key => .ok ((key, p.2.1, p.2.2) :: l)
    | _, .error r => .error r
    | .error r, _ => .error r) (.ok [])

/-- Read a board range through local pages: the bytes, and whether any granule of it is poisoned. -/
def State.boardRead (s : State) (die copy c a n : Nat) : Except Nat (List Byte × Bool) :=
  match s.localPieces die copy c .rd a n with
  | .error r => .error r
  | .ok l => .ok (l.flatMap fun p => s.hbmRead p.1 p.2.1, l.any fun p => s.rangePoison p.1 p.2.1)

/-- Write a board range through local pages; nothing is written if any page faults. -/
def State.boardWrite (s : State) (die copy c a : Nat) (bs : List Byte) : Except Nat State :=
  match s.localPieces die copy c .wr a bs.length with
  | .error r => .error r
  | .ok l => .ok (l.foldl (fun t p => t.hbmWrite p.1 ((bs.drop p.2.2).take p.2.1)) s)

/-! ### Elements of atomics (R189, R199, R200) -/

/-- Combine an element with memory: `rop` of R189 at width `n` bits (32 or 64). FMAX and FMIN follow R156's MAX and MIN,
given as arguments. -/
def ropApply (fmax fmin : W32 → W32 → W32) (rop n old x : Nat) : Nat :=
  let so := signedOf n old
  let sx := signedOf n x
  match rop with
  | 0 => (old + x) % 2 ^ n
  | 1 => if so < sx then x else old
  | 2 => if sx < so then x else old
  | 3 => max old x
  | 4 => min old x
  | 5 => old &&& x
  | 6 => old ||| x
  | 7 => old ^^^ x
  | 8 => (fmax (w32 old) (w32 x)).toNat
  | _ => (fmin (w32 old) (w32 x)).toNat

end Sys2Proof.Machine
end

