-- ==== Sys2Proof/Machine/Uhl.lean ====
section
/-! DEFINITION. The board flash (R511) and the Unit History Log in it (R457 to R461). -/
namespace Sys2Proof.Machine

/-! ### Board flash -/

/-- An erased byte of flash. -/
def flashErased (_ : Nat) : Byte := 0xFF

/-- One byte of flash; the first sector holds the boot configuration (R511, R515). -/
def State.flashByte (s : State) (o : Nat) : Byte :=
  match decide (o < 4096), s.board.bootCfg with
  | true, some (slot, trial) => Config.bootSector slot trial o
  | _, _ => Table.get flashErased s.board.flash o

/-- `n` bytes of flash. -/
def State.flashRead (s : State) (o n : Nat) : List Byte := (List.range n).map fun i => s.flashByte (o + i)

/-- Erase the sectors of 4 KiB that hold `n` bytes from `o`. -/
def State.flashErase (s : State) (o n : Nat) : State :=
  { s with board := { s.board with
      flash := s.board.flash.filter fun e => decide (e.1 / 4096 < o / 4096) || decide ((o + n + 4095) / 4096 ≤ e.1 / 4096) } }

/-- Write bytes. -/
def State.flashPut (s : State) (o : Nat) (bs : List Byte) : State :=
  { s with board := { s.board with
      flash := ((List.range bs.length).zip bs).foldl (fun t p => Table.set flashErased t (o + p.1) p.2) s.board.flash } }

/-! ### Records (R458, R459) -/

/-- The log's place in the flash (R511). -/
def uhlBase : Nat := 0x3100000

/-- The number of records that the log holds, and of records in a sector (R457). -/
def uhlSize : Nat := 32768
def uhlSector : Nat := 64

/-- What a record states: `TYPE`, `UNIT`, `STEP`, `INFO1` to `INFO3`, `VCLK`. -/
structure UhlRec where
  type : Nat
  unit : W32
  step : W32
  info1 : W32
  info2 : W32 := 0
  info3 : W32 := 0
  vclk : W32 := 0
deriving DecidableEq, Repr

/-- The words of the record at a position. -/
def State.uhlWords (s : State) (i : Nat) : List W32 := leWords (s.flashRead (uhlBase + 64 * i) 64) 16

/-- The record is valid: `MAGIC`, `VER` and `CRC` are right, and its type is one of R459 (R461). -/
def uhlMagic (w : List W32) : Bool := wfld w 0 15 0 == 0x5548 && wfld w 0 23 16 == 1 && wordAt w 15 == crc32 (wordsBytes (w.take 15))
def uhlType (w : List W32) : Nat := wfld w 0 31 24
def uhlSeq (w : List W32) : W32 := wordAt w 1
def uhlBoot (w : List W32) : W32 := wordAt w 2
def uhlUnit (w : List W32) : W32 := wordAt w 3
def uhlKnown (w : List W32) : Bool := decide (1 ≤ uhlType w) && decide (uhlType w ≤ 6)

/-- The positions of a sector that the scan looks at: up to the first erased record (R459). -/
def State.uhlScan (s : State) (sec : Nat) : List Nat :=
  ((List.range uhlSector).map fun i => sec * uhlSector + i).takeWhile fun i => uhlType (s.uhlWords i) != 0xFF

/-- Every position that the scan looks at. -/
def State.uhlSeen (s : State) : List Nat := (List.range (uhlSize / uhlSector)).flatMap s.uhlScan

/-- The positions of the valid records, oldest first. -/
def State.uhlValid (s : State) : List Nat :=
  (s.uhlSeen.filter fun i => uhlMagic (s.uhlWords i) && uhlKnown (s.uhlWords i)).mergeSort fun a b =>
    decide ((uhlSeq (s.uhlWords a)).toNat ≤ (uhlSeq (s.uhlWords b)).toNat)

/-- The valid records, oldest first. -/
def State.uhlLog (s : State) : List (List W32) := s.uhlValid.map s.uhlWords

/-- The newest FENCE record of array `a` since its newest CLEAR record is in force when it states a class other than none. -/
def fenceInForce (log : List (List W32)) (w : List W32) : Bool :=
  uhlType w == 4 && wfld w 9 31 28 != 0 &&
  ((log.filter fun v => (uhlType v == 4 || uhlType v == 6) && uhlUnit v == uhlUnit w).getLast? == some w)

/-- The bytes of a record. -/
def State.uhlBytes (s : State) (r : UhlRec) : List Byte :=
  let w : List W32 := [w32 (0x15548 + r.type * 2 ^ 24), s.reg .uhl 0x104, s.reg .uhl 0x100, r.unit, lo32 s.refcnt, hi32 s.refcnt,
    s.reg .step 0x100, s.reg .step 0x104, r.step, r.info1, r.info2, r.info3, r.vclk, 0, 0]
  wordsBytes w ++ leBytes 4 (crc32 (wordsBytes w)).toNat

/-- Write a record at the next position; a write that fails loses the record (R460). -/
def State.uhlPut (s : State) (r : UhlRec) : State :=
  if s.board.dead then s.setErr .uhl 1
  else
    let i := s.mgmt.uhlPos % uhlSize
    let t := s.flashPut (uhlBase + 64 * i) (s.uhlBytes r)
    let t := { t with mgmt := { t.mgmt with uhlPos := (i + 1) % uhlSize } }
    let t := t.setReg .uhl 0x104 (t.reg .uhl 0x104 + 1)
    (t.setReg .uhl 0x108 (w32 (min uhlSize ((t.reg .uhl 0x108).toNat + 1)))).event .uhl 0x02 1

/-- A FENCE record that is written again. -/
def uhlAgain (w : List W32) : UhlRec :=
  { type := 4, unit := uhlUnit w, step := wordAt w 8, info1 := wordAt w 9, info2 := wordAt w 10, info3 := wordAt w 11
    vclk := wordAt w 12 }

/-- The next record would fall in a sector that holds records, the oldest: its FENCE records in force are written again, and
it is erased (R460). -/
def State.uhlRoom (s : State) : State :=
  let i := s.mgmt.uhlPos % uhlSize
  let sec := i / uhlSector
  let used := s.uhlScan sec
  if i % uhlSector ≠ 0 ∨ used.isEmpty then s
  else
    let log := s.uhlLog
    let gone := used.filter fun j => uhlMagic (s.uhlWords j) && uhlKnown (s.uhlWords j)
    let keep := (gone.map s.uhlWords).filter (fenceInForce log)
    let t := (s.flashErase (uhlBase + 64 * i) 4096).event .uhl 0x03 1
    let t := t.setReg .uhl 0x108 (w32 ((t.reg .uhl 0x108).toNat - gone.length))
    keep.foldl (fun t w => t.uhlPut (uhlAgain w)) t

/-- The management core writes a record to the log (R460). -/
def State.uhlWrite (s : State) (r : UhlRec) : State := s.uhlRoom.uhlPut r

end Sys2Proof.Machine
end

