-- ==== Sys2Proof/Machine/Clear.lean ====
section
/-! DEFINITION. What the end of a step clears: the pending fields of its slot in the tables of the hashed window (R70, R143,
R338, R348), and its flags and counters (R147, R470). -/
namespace Sys2Proof.Machine

/-- A little-endian number in the hashed window. -/
def State.winNat (s : State) (o n : Nat) : Nat := leNat (s.winRead o n)

/-- A step that ends without committing clears the pending words of its slot (R70). -/
def State.scaleDrop (s : State) (j : Nat) : State :=
  if !s.windowOk then s else
  (List.range 65536).foldl (fun a i =>
    let o := scaleOff i
    if a.winPoison (o + 0x40) then a
    else
      let st := a.winWord (o + 0x4C)
      (a.setWinWord (o + 0x40 + 4 * j) 0).setWinWord (o + 0x4C)
        (setBit (setBit (setBit st j false) (2 + j) false) (4 + j) false)) s

/-- Clear a pending block. -/
def State.clearBlock (s : State) (o : Nat) : State :=
  (s.winWrite o (leBytes 48 0)).setWinWord (o + 0x30) (setFld (setFld (s.winWord (o + 0x30)) 2 0 0) 15 8 0)

/-- A step that ends without committing clears the pending blocks of its slot in both tables: of every noise entry (R348),
and of the enabled norm entries (R143, log entry 109). -/
def State.normDrop (s : State) (j : Nat) : State :=
  if !s.windowOk then s else
  let t := (List.range 4096).foldl (fun a i =>
    if a.winPoison (normOff i + 0x40 * j) || a.winPoison (normOff i + 0x80)
      || !(bitOf (a.winWord (normOff i + 0x8C)) 0) then a
    else a.clearBlock (normOff i + 0x40 * j)) s
  (List.range 4096).foldl (fun a i =>
    if a.winPoison (noiseOff i + 0x40 * j) then a
    else a.clearBlock (noiseOff i + 0x40 * j)) t

/-- A step that ends without committing clears the tokens of its slot, in every entry (R338). -/
def State.expertDrop (s : State) (j : Nat) : State :=
  if !s.windowOk then s else
  (List.range 1024).foldl (fun t x =>
    let o := expertOff + 64 * x
    if t.winPoison o then t else t.setWinWord (o + 8 + 4 * j) 0) s

/-- Every pending field of slot `j` in the four tables (R381). -/
def State.pendingDrop (s : State) (j : Nat) : State := ((s.scaleDrop j).normDrop j).expertDrop j

/-- The counts and records of the Norm Table's evaluation clear when slot `j` is freed (R150). -/
def State.oobClear (s : State) (j : Nat) : State := (s.setReg .nrm (0x100 + 4 * j) 0).setReg .nrm (0x108 + 4 * j) 0

/-- The flags and counters of slot `j` on every Ridge (R147). -/
def State.accClear (s : State) (j : Nat) : State :=
  (List.range 64).foldl (fun t n =>
    ((t.setField (.acc n) 0x10C (8 * j + 3) (8 * j) 0).setReg (.acc n) (0x110 + 4 * j) 0).setReg (.acc n) (0x118 + 4 * j) 0) s

end Sys2Proof.Machine
end

