-- ==== Sys2Proof/Machine/Faults.lean ====
section
/-! DEFINITION. Faults and what they reach: exceptions of Rill cores (R232 to R234), window faults (R250), the step abort
(R391, R392) and requests for escalation (R419). -/
namespace Sys2Proof.Machine

/-! ### Exceptions of Rill cores -/

/-- `CAUSE` (R233). -/
def causeWord (addr reason opc ctx code : Nat) : W64 :=
  w64 (addr % 65536 * 2 ^ 32 + reason % 256 * 2 ^ 24 + opc % 256 * 2 ^ 16 + ctx % 64 * 2 ^ 8 + code % 256)

/-- An asynchronous exception arrives: it waits in the pending list, or overflows it (R234). -/
def State.raiseAsync (s : State) (c : Nat) (cause : W64) : State :=
  let k := s.core c
  if k.pend.length < 8 then s.setCore c { k with pend := k.pend ++ [cause] }
  else s.setErr (.ril c) 4

/-- The collective commands do the work of the image's own program on the core of a Confluence engine, so that the context
of a collective is not the core's (R319, log entry 59). -/
def State.firmCore (s : State) (c : Nat) : Bool :=
  decide (69 ≤ c) && s.mgmt.collProg.has (c - 69) && (s.cfl (c - 69)).cur.all Coll.stock

/-- Window `w` enters FAULTED; only the first fault is recorded until it resumes (R250). -/
def State.winFault (s : State) (w reason : Nat) (seq : W32) : State :=
  let k := s.win w
  if k.st = .faulted ∨ k.st = .disabled then s
  else (s.setWin w { k with st := .faulted, reason := reason, fseq := seq }).setErr .cwn 0

/-- A descriptor, poison or translation fault of an op: charged to who issued it (R232, R250 reason 0x07), and held as the
context's fault (R365). `code` is the exception code, `reason` the engine's code, `opc` the op's. -/
def State.opFault (s : State) (d : Desc) (code reason opc : Nat) : State :=
  let t := { s with faulted := NatSet.add d.ctx s.faulted }
  match d.src with
  | .core c addr => t.raiseAsync c (causeWord addr reason opc d.ctx code)
  | .win w seq => t.winFault w 0x07 seq
  | .device => t

/-- The target of a window's record refuses its descriptor: as a descriptor fault, with the window's reason 0x06. -/
def State.refuseDesc (s : State) (d : Desc) (reason opc : Nat) : State :=
  let t := { s with faulted := NatSet.add d.ctx s.faulted }
  match d.src with
  | .core c addr => t.raiseAsync c (causeWord addr reason opc d.ctx 0x09)
  | .win w seq => t.winFault w 0x06 seq
  | .device => t

/-! ### Escalation (R419, R421) -/

/-- An escalation record (R459): the level, the cause, the steps committed since chip reset. No management firmware that could
write it runs until the log has been scanned (R509, R515). -/
def State.escRecord (s : State) (level cause : Nat) : State :=
  if s.reg .uhl 0x100 = 0 then s
  else s.uhlWrite
    { type := 3, unit := 0xFFFFFFFF#32, step := s.reg .step 0x10C, info1 := w32 (level * 2 ^ 28 + cause * 2 ^ 16)
      info2 := w32 s.mgmt.commits }

/-- The management core asks the tray controller for level `n`, which `STATUS` reports (R506, R508). -/
def State.askTray (s : State) (n : Nat) : State := { s with mgmt := { s.mgmt with asked := n } }

/-- A block requests level 4 (R419): the first cause is kept while a request is pending; an escalation record is written; the
tray controller is asked for the reset unless `ESC_HOLD` is 1. -/
def State.escalate (s : State) (cause : Nat) : State :=
  if s.field .dev 0x00C 31 29 = 4 then s
  else
    let t := s.setReg .dev 0x00C (setFld (setFld (s.reg .dev 0x00C) 31 29 4) 28 24 cause)
    let t := (t.setFlag .smb 0x108 1 true).escRecord 4 cause
    if t.flag .dev 0x008 30 then t else t.askTray 4

/-! ### The journal slots -/

def StepM.slot (m : StepM) (j : Nat) : StepSlot := if j = 0 then m.s0 else m.s1
def StepM.setSlot (m : StepM) (j : Nat) (k : StepSlot) : StepM := if j = 0 then { m with s0 := k } else { m with s1 := k }
def State.slot (s : State) (j : Nat) : StepSlot := s.stepm.slot j
def State.setSlot (s : State) (j : Nat) (k : StepSlot) : State := { s with stepm := s.stepm.setSlot j k }

/-- Some step lies between OPEN and CLOSED (R67, R145). -/
def State.stepOpen (s : State) : Bool := s.stepm.s0.st != .free || s.stepm.s1.st != .free

/-- The slot is in OPEN, COMPUTE, REDUCE or CHECK. -/
def StepSlot.computing (k : StepSlot) : Bool :=
  match k.st with
  | .opening | .compute | .reduce | .check => true
  | _ => false

/-- The slot is past its commit point and before COMMIT_END. -/
def StepSlot.committing (k : StepSlot) : Bool := k.st == .commit || (k.st == .seal && k.pastCommit)

/-- The step of the slot can abort: it lies between OPEN and SEAL, before the commit point (R355, R391). -/
def StepSlot.abortable (k : StepSlot) : Bool :=
  (k.computing || k.st == .vote || k.st == .seal) && !k.pastCommit

/-- The current journal slot of an op that context `c` issues, fixed at acceptance (R356); none in a partition that does
not own the step machinery (R147). `opt` says that the op is an optimiser op. -/
def State.curSlot (s : State) (c : Nat) (opt : Bool) : Option Nat :=
  if s.partOfCtx c ≠ s.stepOwner then none
  else if opt && s.stepm.s0.committing then some 0
  else if opt && s.stepm.s1.committing then some 1
  else if s.stepm.s0.computing then some 0
  else if s.stepm.s1.computing then some 1
  else none

/-- The Scree seed and step of an op with journal slot `j` (R61). -/
def State.screeInputs (s : State) (j : Option Nat) : W64 × W32 :=
  match j with
  | some i => ((s.slot i).seed, (s.slot i).step)
  | none => (s.reg64 .scl 0x104, 0)

/-! ### The step abort (R391, R392) -/

/-- Let a transaction wait for its issue. -/
def State.submit (s : State) (r : FReq) : State := { s with fwait := s.fwait ++ [r] }

/-- An access of the step machinery at another device: it is numbered, so that its answer finds it. -/
def State.ask (s : State) (slot : Nat) (kind : AskKind) (r : FReq) : State :=
  let m := s.stepm
  let r : FReq := { r with who := .step m.nextKey }
  let a : Ask := { key := m.nextKey, slot := slot, kind := kind, req := r }
  let t := { s with stepm := { m with nextKey := m.nextKey + 1, asks := m.asks ++ [a] } }
  t.submit r

/-- The partner of way `w` (0 or 1), as device group and position, while its register is valid (R375, R388). -/
def State.partner (s : State) (w : Nat) : Option (Nat × Nat) :=
  let p := s.reg .oxb (0x104 + 4 * w)
  if bitOf p 31 then some (fld p 29 21, fld p 20 17) else none

/-- `MIR_CFG.EN`, and the number of ways. -/
def State.mirrorOn (s : State) : Bool := s.flag .oxb 0x100 31
def State.ways (s : State) : Nat := if s.field .oxb 0x100 1 0 = 2 then 2 else 1

/-- The board address of the own seal word of slot `j` (R367). -/
def State.sealWord (s : State) (j : Nat) : Nat := ((s.reg64 .oxb 0x138).toNat % 2 ^ 43 + 8 * j) % 2 ^ 43

/-- The bits of a seal word beside the step number (R369). -/
def sealComplete : Nat := 2 ^ 32
def sealRefused : Nat := 2 ^ 33

/-- An ATOM OR of `v` to the 64-bit word at board address `a` of a device (R369). -/
def orReq (ctx : Nat) (dest : Nat × Nat) (a v : Nat) : FReq :=
  { who := .none, ctx := ctx, kind := 3, rop := 6, wide := true, group := dest.1, dev := dest.2, addr := a, len := 8
    data := leBytes 8 v }

/-- The next flood identifier (R325). -/
def State.floodId (s : State) : W64 := w64 ((s.myGroup * 16 + s.myDev) * 2 ^ 51 + s.board.floods % 2 ^ 51)

/-- Issue a FLOOD, whose identifier takes the place of the first two body words; a device drops its own (R298, R325). -/
def State.sendFlood (s : State) (r : FReq) : State :=
  let id := s.floodId
  { s with board := { s.board with floods := s.board.floods + 1 }
           fab := { s.fab with floods := (id :: s.fab.floods).take 64 } }.submit
    { r with body := [lo32 id, hi32 id] ++ r.body.drop 2 }

/-- The flood of a step abort (R394). -/
def State.abortFlood (s : State) (j cause : Nat) : FReq :=
  let k := s.slot j
  let rank := match k.vote with
    | some v => (v.parts.map Part.rank).getD v.me 0
    | none => 0
  { who := .none, ctx := k.ctx, kind := 5, group := 0, dev := 0, port := 0, addr := 0, len := 1
    arg := w32 (0x01000000 + cause * 2 ^ 16)
    body := [0, 0, s.reg .step 0x100, s.reg .step 0x104, k.step, w32 (rank % 2 ^ 15)] }

/-- Step 2 of R392: the own seal word is refused if SEAL had begun, and the abort is flooded (R371). -/
def State.abortTell (s : State) (j cause : Nat) : State :=
  let k := s.slot j
  let done := k.complete || k.sealRet.any fun v => v.toNat / sealRefused % 2 == 0
  let own := decide (4 ≤ cause) && (!done || cause == 7)
  let fl := s.abortFlood j cause
  if !own then s
  else if k.st == .seal && s.mirrorOn && !done then
    match s.partner 0 with
    | some d => s.ask j (.refuse fl) (orReq k.ctx d (s.sealWord j) (k.step.toNat + sealRefused))
    | none => s.sendFlood fl
  else s.sendFlood fl

/-- The step of slot `j` aborts (R392, steps 1 and 2): ABORTED-CLEAN, `ABORT_INFO`, the flood; the tally of a SEAL in
progress increments (R358); the pending fields, flags and counters of the slot clear (R381). The rest is
STEP_DRAIN_DONE's. -/
def State.abortSlot (s : State) (j cause index : Nat) (tell : Bool) : State :=
  let k := s.slot j
  let t := if tell then s.abortTell j cause else s
  let t := t.setReg .step 0x12C (w32 (2 ^ 31 + cause * 2 ^ 16 + index % 2 ^ 13))
  let t := if k.st = .inDoubt then t.setReg .step 0x130 0 else t
  let t := ((t.setErr .step 1).event .step 0x03 1).setSlot j { k with st := .aborted, act := if k.st = .vote then k.act else none }
  let t := match k.st, k.act with
    | .seal, some d => t.opTally (wfld d.words 1 31 20) d.ctx
    | .inDoubt, some d => t.opTally (wfld d.words 1 31 20) d.ctx
    | _, _ => t
  let t := { t with stepm := { t.stepm with draining := some (j, k.ctx) } }
  (t.pendingDrop j).accClear j

/-- A block of this device raises a step abort (R391): it acts on the step that can abort; after the commit point and before
COMMIT_END it is a commit fault, which requests escalation; else it acts on nothing. -/
def State.stepAbort (s : State) (cause : Nat) : State :=
  if s.stepm.s0.abortable then s.abortSlot 0 cause 0 true
  else if s.stepm.s1.abortable then s.abortSlot 1 cause 0 true
  else if s.stepm.s0.committing || s.stepm.s1.committing then s.escalate 0x04
  else s

end Sys2Proof.Machine
end

