-- ==== Sys2Proof/Machine/Tile.lean ====
section
/-! DEFINITION. Tile ops: their descriptor fields (R100), the Scale Table entries they name (R46, R65, R72), the operands
read from the Tarn, the accumulator arithmetic (R113 to R127) and one pass (R76 to R89). -/
namespace Sys2Proof.Machine

/-! ### The Tarn -/

/-- The size of the Tarn in bytes (R92). -/
def tarnSize : Nat := 0xC00000

/-- One byte of the Tarn. -/
def Ridge.tarnByte (r : Ridge) (a : Nat) : Byte := Table.get (fun _ => 0) r.tarn a

/-- `n` bytes of the Tarn. -/
def Ridge.tarnRead (r : Ridge) (a n : Nat) : List Byte := (List.range n).map fun i => r.tarnByte (a + i)

/-- A little-endian number of `n` bytes in the Tarn. -/
def Ridge.tarnNat (r : Ridge) (a n : Nat) : Nat := leNat (r.tarnRead a n)

/-- The Tarn words that `n` bytes at `a` touch (R92). -/
def tarnWords (a n : Nat) : List Nat :=
  if n = 0 then [] else (List.range ((a + n - 1) / 32 + 1 - a / 32)).map fun i => a / 32 + i

/-- Some byte of the range lies in a poisoned Tarn word (R95). -/
def Ridge.tarnPoison (r : Ridge) (a n : Nat) : Bool := (tarnWords a n).any r.tarnBad.has

/-- A single write of `n` bytes at `a` clears the poison of each Tarn word that it covers whole (R95, R203). -/
def Ridge.tarnClear (r : Ridge) (a n : Nat) : Ridge :=
  { r with tarnBad := r.tarnBad.filter fun w => !(decide (a ≤ w * 32) && decide (w * 32 + 32 ≤ a + n)) }

/-- Write Tarn bytes; a poisoned word that the write does not cover whole stays as it is (R95, R203). -/
def Ridge.tarnWrite (r : Ridge) (a : Nat) (bs : List Byte) : Ridge :=
  let u := r.tarnClear a bs.length
  { u with
    tarn := ((List.range bs.length).zip bs).foldl (fun t p =>
      if u.tarnBad.has ((a + p.1) / 32) then t else Table.set (fun _ => 0) t (a + p.1) p.2) u.tarn }

/-- Mark a Tarn word poisoned. -/
def Ridge.tarnMark (r : Ridge) (w : Nat) : Ridge := { r with tarnBad := NatSet.add w r.tarnBad }

/-! ### The Scale Table entries an op names -/

/-- `CFG` and `STATE` of Scale Table entry `i`; zero while the window cannot serve (R177). -/
def State.scaleCfg (s : State) (i : Nat) : W32 := if s.windowOk then s.winWord (scaleOff i + 0x48) else 0
def State.scaleState (s : State) (i : Nat) : W32 := if s.windowOk then s.winWord (scaleOff i + 0x4C) else 0

/-- The device default overflow mode is NONSAT (R74). -/
def State.ovfDefault (s : State) : Bool := s.flag .scl 0x100 0

/-- What an op takes from the Scale Table entry it names, or the values of an operand marked NS (R56, R65, R100). An `EXP` byte of
0x80, outside the range of R65, is taken as −128 (DESIGN CHOICE, log entry 109). -/
def State.scaleUse (s : State) (ns : Bool) (i : Nat) (j : Option Nat) : ScaleUse :=
  if ns then { nonsat := s.ovfDefault }
  else
    let c := s.scaleCfg i
    let t := s.scaleState i
    let wide := match j with | some k => bitOf t (2 + k) | none => false
    { entry := some i, fmt := fld c 11 8
      expo := if wide && decide (fld c 11 8 < 3) then 0 else signedOf 8 (fld t 31 24)
      nonsat := match fld c 5 4 with | 1 => false | 2 => true | _ => s.ovfDefault
      wide := wide }

/-- The entry may be named with format code `code` (R46). -/
def State.scaleOk (s : State) (ns : Bool) (i code : Nat) : Bool :=
  ns || (bitOf (s.scaleCfg i) 0 && fld (s.scaleCfg i) 11 8 == code && code < 8)

/-- The entry lies in a poisoned granule (R543). -/
def State.scalePoison (s : State) (ns : Bool) (i : Nat) : Bool :=
  !ns && s.windowOk && (s.winPoison (scaleOff i) || s.winPoison (scaleOff i + 0x40))

/-- The entry is cold: an 8-bit format with no valid history (R65, R72). -/
def State.scaleCold (s : State) (ns : Bool) (i : Nat) : Bool :=
  !ns && decide (fld (s.scaleCfg i) 11 8 < 3) && decide (fld (s.scaleState i) 20 16 = 0)

/-- An operand's format under the cold rule: BF16 while its entry is wide for the slot (R72, R101). -/
def effFmt (code : Nat) (u : ScaleUse) : Nat := if u.wide && code < 3 then 5 else code

/-! ### Descriptor fields (R100) -/

def tdFmtA (d : List W32) : Nat := wfld d 0 31 28
def tdFmtW (d : List W32) : Nat := wfld d 0 27 24
def tdFmtOut (d : List W32) : Nat := wfld d 0 23 20
def tdRnd (d : List W32) : Nat := wfld d 0 19 18
def tdTmode (d : List W32) : Nat := wfld d 0 17 16
def tdScheme (d : List W32) : Nat := wfld d 0 15 13
def tdAccIn (d : List W32) : Bool := wfld d 0 12 12 == 1
def tdDrain (d : List W32) : Bool := wfld d 0 11 11 == 1
def tdTout (d : List W32) : Bool := wfld d 0 10 10 == 1
def tdTile (d : List W32) : Nat := wfld d 0 9 8
def tdOpc (d : List W32) : Nat := wfld d 0 7 0
def tdTally (d : List W32) : Nat := wfld d 1 31 20
def tdRows (d : List W32) : Nat := wfld d 1 19 13
def tdCols (d : List W32) : Nat := wfld d 1 12 7
def tdRaw (d : List W32) : Bool := wfld d 1 6 6 == 1
def tdArray (d : List W32) : Nat := wfld d 1 5 0
def tdKlen (d : List W32) : Nat := wfld d 2 23 0
def tdAAddr (d : List W32) : Nat := wfld d 3 23 0
def tdWAddr (d : List W32) : Nat := wfld d 4 23 0
def tdAStride (d : List W32) : Nat := wfld d 5 31 16 * 32
def tdWStride (d : List W32) : Nat := wfld d 5 15 0 * 32
def tdChain (d : List W32) : Nat := wfld d 6 23 0
def tdSAddr (d : List W32) : Nat := wfld d 7 23 0
def tdSclA (d : List W32) : Nat := wfld d 8 31 16
def tdSclW (d : List W32) : Nat := wfld d 8 15 0
def tdSclOut (d : List W32) : Nat := wfld d 9 31 16
def tdEpi (d : List W32) : Nat := wfld d 9 15 0
def tdOutTarn (d : List W32) : Bool := wfld d 11 31 31 == 1
def tdHint (d : List W32) : Nat := wfld d 11 29 28
def tdOutAddr (d : List W32) : Nat := (wordAt d 10).toNat + wfld d 11 10 0 * 2 ^ 32
def tdTensor (d : List W32) : W32 := w32 (wfld d 12 31 8)
def tdElem (d : List W32) : Nat := (wordAt d 13).toNat + wfld d 12 7 0 * 2 ^ 32
def tdOutStride (d : List W32) : Nat := wfld d 14 23 0
def tdElemRs (d : List W32) : Nat := wfld d 15 31 8
def tdNsOut (d : List W32) : Bool := wfld d 15 4 4 == 1
def tdNsW (d : List W32) : Bool := wfld d 15 3 3 == 1
def tdNsA (d : List W32) : Bool := wfld d 15 2 2 == 1
def tdNb (d : List W32) : Nat := wfld d 15 1 0 + 1
/-- The op is one of a pair (R84). -/
def tdPair (d : List W32) : Bool := tdTmode d == 2
/-- Twin A of a pair: the even array. -/
def tdTwinA (d : List W32) : Bool := tdPair d && tdArray d % 2 == 0
/-- Twin B of a pair: the odd array. -/
def tdTwinB (d : List W32) : Bool := tdPair d && tdArray d % 2 == 1

/-- The reserved fields of a tile op are zero (R100); so is `NBM1` outside a pair op, which is judged with them (log entry 110). -/
def tdReservedOk (d : List W32) : Bool :=
  [2, 3, 4, 6, 7, 14].all (fun i => wfld d i 31 24 == 0) && wfld d 11 30 30 == 0 && wfld d 11 27 11 == 0 &&
  wfld d 15 7 5 == 0 && (tdPair d || wfld d 15 1 0 == 0)

/-- The products are 16-bit: FP32 accumulation (R101, R113). -/
def fpProducts (fa fw : Nat) : Bool := fa == 5 || fa == 6 || fw == 5 || fw == 6

/-- The operand formats form one of the combinations of R101; `wa`, `ww` say that an operand counts as BF16 under the
cold rule. -/
def comboOk (fa fw : Nat) (wa ww : Bool) : Bool :=
  if fpProducts fa fw then
    fa ∈ [0, 1, 2, 5, 6] && fw ∈ [0, 1, 2, 5, 6] && (fa != 2 || ww) && (fw != 2 || wa)
  else (fa ∈ [0, 1] && fw ∈ [0, 1, 3]) || (fa == 2 && fw ∈ [2, 4])

/-- Bytes of a streamed element, and of a stationary element that is not packed (R88). -/
def opSizeA (d : List W32) (a : ScaleUse) : Nat :=
  if tdScheme d = 2 ∨ tdScheme d = 4 then 2 else if effFmt (tdFmtA d) a < 3 then 1 else 2
def opSizeW (d : List W32) (w : ScaleUse) : Nat :=
  if tdScheme d = 3 ∨ tdScheme d = 4 then 2 else if effFmt (tdFmtW d) w < 3 then 1 else 2

/-- The stationary operand is packed, two elements a byte (R51). -/
def opPacked (d : List W32) : Bool := tdFmtW d == 3 || tdFmtW d == 4

/-- Interleaved elements per logical element (the complex scheme, R88). -/
def opCplx (d : List W32) : Nat := if tdScheme d = 1 then 2 else 1

/-- Storage rows and elements per storage row of the stationary operand. -/
def opWShape (d : List W32) : Nat × Nat :=
  if tdTwinA d then (tdCols d, tdNb d * 32)
  else if tdTwinB d then (tdKlen d, tdCols d)
  else if tdTmode d = 1 then (tdCols d, tdKlen d * opCplx d)
  else (tdKlen d, tdCols d * opCplx d)

/-- Storage rows and elements per row of the streamed operand. -/
def opAShape (d : List W32) : Nat × Nat :=
  if tdPair d then (tdKlen d, tdNb d * 32) else (tdRows d, tdKlen d * opCplx d)

/-- The rows and columns of the written output (R86, R130). -/
def opOutShape (d : List W32) : Nat × Nat :=
  let rows := if tdTwinA d then ceilDiv (tdKlen d) 32 * 32 else if tdTwinB d then tdNb d * 32 else tdRows d
  if tdTout d then (tdCols d, rows * opCplx d) else (rows, tdCols d * opCplx d)

/-- The format a converted output is written in: BF16 under the cold rule (R72). -/
def opOutFmt (d : List W32) (cold : Bool) : Fmt :=
  if cold then .bf16 else (Fmt.ofCode (tdFmtOut d)).getD .bf16

/-- The bytes of a raw tile of `n` entries: header and entries by form code 1, 2, 3 (R136). -/
def rawSize (form n : Nat) : Nat := 64 + n * (if form = 1 then 16 else if form = 2 then 32 else 4)

/-- The rows of each raw tile that an op loads or drains (R86, R88, R136). -/
def rawRowsOf (d : List W32) : List Nat :=
  if tdTwinA d then List.replicate (ceilDiv (tdKlen d) 32) 32
  else if tdTwinB d then (if 2 < tdNb d then [64, 32 * tdNb d - 64] else [32 * tdNb d])
  else if tdScheme d = 1 then [tdRows d, tdRows d]
  else [tdRows d]

/-- The bytes of an op's raw tiles in a form. -/
def rawTotal (d : List W32) (form : Nat) : Nat := ((rawRowsOf d).map fun r => rawSize form (r * tdCols d)).sum

/-- A region of `rows` rows of `len` bytes at `stride` lies inside the Tarn and starts on a word (R92, R102). -/
def regionOk (a rows stride len : Nat) : Bool := a % 32 == 0 && decide (a + (rows - 1) * stride + len ≤ tarnSize)

/-- Check 6 of R102: the Tarn regions that the op uses; `CHAIN_ADDR` and `S_ADDR` of an op that uses neither are not judged (log
entry 110). -/
def tdRegionsOk (d : List W32) (a w : ScaleUse) (cold : Bool) : Bool :=
  let sa := opAShape d
  let sw := opWShape d
  let so := opOutShape d
  let fp := fpProducts (effFmt (tdFmtA d) a) (effFmt (tdFmtW d) w)
  let wlen := if opPacked d then ceilDiv sw.2 2 else sw.2 * opSizeW d w
  regionOk (tdAAddr d) sa.1 (tdAStride d) (sa.2 * opSizeA d a) &&
  regionOk (tdWAddr d) sw.1 (tdWStride d) wlen &&
  (!(opPacked d) || regionOk (tdSAddr d) sw.1 (tdWStride d / 16) (ceilDiv sw.2 32)) &&
  (!(tdAccIn d) || regionOk (tdChain d) 1 0 64) &&
  (!(tdDrain d && tdOutTarn d) ||
    (if tdRaw d then regionOk (tdOutAddr d % 2 ^ 24) 1 0 (rawTotal d (if fp then 3 else 1))
     else regionOk (tdOutAddr d % 2 ^ 24) so.1 (tdOutStride d) (so.2 * (opOutFmt d cold).bytes)))

/-- Check 3 of R102: formats, their combination, the rounding (R46, R55, R88, R101). -/
def State.tdFormatsOk (s : State) (d : List W32) (a w : ScaleUse) : Bool :=
  let conv := tdDrain d && !(tdRaw d)
  s.scaleOk (tdNsA d) (tdSclA d) (tdFmtA d) && s.scaleOk (tdNsW d) (tdSclW d) (tdFmtW d) &&
  (!conv || s.scaleOk (tdNsOut d) (tdSclOut d) (tdFmtOut d)) &&
  comboOk (effFmt (tdFmtA d) a) (effFmt (tdFmtW d) w) a.wide w.wide &&
  (!conv || tdFmtOut d ∈ [0, 1, 2, 5, 6]) && tdRnd d != 3 &&
  (!(conv && tdRnd d == 2) || tdFmtOut d ∈ [5, 6]) &&
  (tdScheme d < 2 || (tdFmtA d == 2 && tdFmtW d == 2 && !a.wide && !w.wide))

/-- The pair rule between two consecutive descriptors (R84). -/
def pairOk (x y : List W32) : Bool :=
  tdTwinA x && tdTwinB y && tdArray y == tdArray x + 1 && tdOpc y == 0x21 &&
  tdFmtA x == tdFmtA y && tdAAddr x == tdAAddr y && tdAStride x == tdAStride y && tdSclA x == tdSclA y &&
  tdNsA x == tdNsA y && tdKlen x == tdKlen y && tdNb x == tdNb y && tdCols x == tdCols y && tdTally x == tdTally y &&
  tdRows x == 32 && tdDrain x

/-- The reason code of the first failing check of R102 made at acceptance, but for the pair rule and the fence. -/
def State.tdJudge (s : State) (d : List W32) (a w : ScaleUse) (cold : Bool) : Nat :=
  if tdOpc d ≠ 0x21 ∨ !(tdReservedOk d) then 1
  else if tdTmode d = 3 ∨ tdScheme d ≥ 5 ∨ tdTile d = 3 then 4
  else if !(s.tdFormatsOk d a w) then 8
  else if tdRows d < 1 ∨ tdRows d > 64 ∨ tdCols d < 1 ∨ tdCols d > 32 ∨ tdKlen d = 0 then 2
  else if tdEpi d % 32 ≠ 0 then 9
  else if !(tdRegionsOk d a w cold) then 3
  else 0

/-! ### Accumulator arithmetic -/

/-- The class of a sum (R123). -/
def clsAdd (a b : Nat) : Nat :=
  if a = 3 ∨ b = 3 then 3 else if (a = 1 ∧ b = 2) ∨ (a = 2 ∧ b = 1) then 3 else if a ≠ 0 then a else b

/-- Add two exact entries in a range of `n` bits: the sum, and whether it was clamped (R126). -/
def entAdd (n : Nat) (x y : Entry) : Entry × Bool :=
  let c := clsAdd x.cls y.cls
  if c ≠ 0 then ({ v := 0, cls := c }, false)
  else
    let v := x.v + y.v
    let w := clampInt (-(2 ^ (n - 1))) (2 ^ (n - 1) - 1) v
    ({ v := w, cls := 0 }, decide (v ≠ w))

/-- An exact value as an entry, in units of 2^−32 (R115, R126). -/
def entOf (x : Num) : Entry :=
  match x with
  | .nan => { cls := 3 }
  | .inf n => { cls := if n then 2 else 1 }
  | .fin n m e => let v : Int := (shiftNat m (e + 32) : Nat); { v := if n then -v else v }

/-- An entry as a raw tile holds it: the value bits of one whose class is not finite are not stated, and are free. -/
def Entry.stored (free x form : Nat) (e : Entry) : Entry :=
  if e.cls = 0 then e
  else { e with v := ((List.range 4).map fun i => (Config.freeWord free (4 * x + i)).toNat * 2 ^ (32 * i)).sum %
                  2 ^ (if form = 1 then 80 else 128) }

/-- The exact value of an entry. -/
def Entry.num (e : Entry) (fp : Bool) : Num :=
  if fp then fp32Val (w32 e.v.toNat)
  else match e.cls with
    | 0 => .fin (decide (e.v < 0)) e.v.natAbs (-32)
    | 1 => .inf false
    | 2 => .inf true
    | _ => .nan

/-- Round to FP32 by nearest even inside accumulation; a finite overflow follows the output's overflow mode (R125, R126):
the code, and whether it was clamped. -/
def accRound (nonsat : Bool) (x : Num) : Nat × Bool :=
  match x with
  | .nan => (0x7FC00000, false)
  | .inf n => (if n then 0xFF800000 else 0x7F800000, false)
  | y => let c := fp32.conv .rne nonsat 0 y; (c.code, c.past && !nonsat)

/-- Multiply an exact entry by 2^k within 128 bits (R137). -/
def entShift (k : Nat) (x : Entry) : Entry × Bool := entAdd 128 { x with v := x.v * 2 ^ k } {}

/-! ### Passes -/

/-- The number of passes per K-block (R88). -/
def schemePasses (scheme : Nat) : Nat := match scheme with | 0 => 1 | 1 => 4 | 2 => 2 | 3 => 2 | _ => 4

/-- The K-blocks of an op (R79), or the staged blocks of a pair op (R85). -/
def opBlocks (d : List W32) : Nat := ceilDiv (tdKlen d) 32 * (if tdPair d then tdNb d else 1)

/-- All passes of an op. -/
def opPasses (d : List W32) : Nat := opBlocks d * (if tdPair d then 1 else schemePasses (tdScheme d))

/-- A zero supplied for padding (R79). -/
def padElem : Elem := { pad := true }

/-- Decode an operand element of effective format `f`; a limb scheme splits a 16-bit integer: limb 1 the unsigned low
byte, 2 the signed high byte (R88). -/
def elemNum (f limb raw : Nat) : Num :=
  match limb with
  | 1 => Num.ofInt (raw % 256 : Nat)
  | 2 => Num.ofInt (signedOf 8 (raw / 256))
  | _ => match Fmt.ofCode f with | some g => g.decode raw | none => .nan

/-- The streamed element at storage row `i`, element `j`. -/
def Ridge.streamAt (r : Ridge) (d : List W32) (a : ScaleUse) (limb i j : Nat) : Elem :=
  let sh := opAShape d
  if i < sh.1 ∧ j < sh.2 then
    let n := opSizeA d a
    let ad := tdAAddr d + i * tdAStride d + j * n
    { x := elemNum (effFmt (tdFmtA d) a) limb (r.tarnNat ad n), bad := r.tarnPoison ad n }
  else padElem

/-- The stationary element at storage row `i`, element `j`, expanded from 4 bits where packed (R53, R54, R80). -/
def Ridge.weightAt (r : Ridge) (d : List W32) (w : ScaleUse) (limb i j : Nat) : Elem :=
  let sh := opWShape d
  if i < sh.1 ∧ j < sh.2 then
    if opPacked d then
      let ad := tdWAddr d + i * tdWStride d + j / 2
      let sad := tdSAddr d + i * (tdWStride d / 16) + j / 32
      let c := (r.tarnByte ad).toNat / (if j % 2 = 0 then 1 else 16) % 16
      let sb := (r.tarnByte sad).toNat
      let bad := r.tarnPoison ad 1 || r.tarnPoison sad 1
      if tdFmtW d = 3 then
        let e := f4Expand w.nonsat sb w.expo c
        { x := Fmt.f8e4.decode e.1, bad := bad, range := e.2 }
      else
        let e := int4Expand sb c
        { x := Fmt.int8.decode e.1, bad := bad, range := e.2 }
    else
      let n := opSizeW d w
      let ad := tdWAddr d + i * tdWStride d + j * n
      { x := elemNum (effFmt (tdFmtW d) w) limb (r.tarnNat ad n), bad := r.tarnPoison ad n }
  else padElem

/-- A weight negated on its way into the shadow registers (R80): F8E4 0x00 and 0x80 keep their codes, and so do the zero of
INT8 and a padding zero. -/
def Elem.neg (f : Nat) (e : Elem) : Elem :=
  if e.pad then e
  else match e.x with
    | .fin _ 0 _ => if f = 0 ∨ f = 2 then e else { e with x := e.x.neg }
    | _ => { e with x := e.x.neg }

/-- The effective format that a weight has in the cells: F4 becomes F8E4 and INT4 becomes INT8 (R80). -/
def cellFmt (code : Nat) (w : ScaleUse) : Nat := if code = 3 then 0 else if code = 4 then 2 else effFmt code w

/-- One pass: the streamed element for row `m` and cell row `k`, the weight for cell row `k` and column `n`, the tile
written, the first row it reaches, the rows and columns, and the limb weight's exponent; `turned` says that the cells are read
along their columns (R83), `load` that the pass brings its own weights, `reads` what the feeder reads of the Tarn. -/
structure Pass where
  x : Nat → Nat → Elem
  w : Nat → Nat → Elem
  tile : Nat
  row0 : Nat
  rows : Nat
  cols : Nat
  lw : Nat
  turned : Bool
  load : Bool
  reads : List (Nat × Nat)

/-- The shadow registers once the weights of the pass are loaded (R80, R83): storage row `j` loads into cell row `j`. -/
def Pass.shadow (p : Pass) : List (List Elem) :=
  (List.range 32).map fun j => (List.range 32).map fun i => if p.turned then p.w i j else p.w j i

/-- The pass with the weights that the active registers hold: cell (k, n) uses its own, or that at (n, k) (R76, R83). -/
def Pass.using (p : Pass) (t : List (List Elem)) : Pass :=
  { p with w := fun k n => if p.turned then (t.getD n []).getD k {} else (t.getD k []).getD n {} }

/-- The parts of the Tarn that the feeder reads of an operand's storage rows `i0` to `i0 + ni − 1`, elements `j0` to
`j0 + nj − 1`: `per` elements in `size` bytes. -/
def rowSpans (a stride : Nat) (sh : Nat × Nat) (per size i0 ni j0 nj : Nat) : List (Nat × Nat) :=
  ((List.range ni).filter fun i => i0 + i < sh.1 && decide (j0 < sh.2)).map fun i =>
    (a + (i0 + i) * stride + j0 / per * size, ceilDiv (min nj (sh.2 - j0)) per * size)

/-- What the feeder reads of the streamed operand. -/
def streamSpans (d : List W32) (a : ScaleUse) (i0 ni j0 nj : Nat) : List (Nat × Nat) :=
  rowSpans (tdAAddr d) (tdAStride d) (opAShape d) 1 (opSizeA d a) i0 ni j0 nj

/-- What the feeder reads of the stationary operand, with the block scales of a packed one. -/
def weightSpans (d : List W32) (w : ScaleUse) (i0 ni j0 nj : Nat) : List (Nat × Nat) :=
  if opPacked d then rowSpans (tdWAddr d) (tdWStride d) (opWShape d) 2 1 i0 ni j0 nj ++
    rowSpans (tdSAddr d) (tdWStride d / 16) (opWShape d) 32 1 i0 ni j0 nj
  else rowSpans (tdWAddr d) (tdWStride d) (opWShape d) 1 (opSizeW d w) i0 ni j0 nj

/-- Pass number `p` of an op that is not one of a pair (R79, R83, R88). -/
def Ridge.passOf (r : Ridge) (o : TileOp) (p : Nat) : Pass :=
  let d := o.desc.words
  let sp := schemePasses (tdScheme d)
  let kb := p / sp
  let q := p % sp
  let wAt (limb k n : Nat) : Elem :=
    if tdTmode d = 1 then r.weightAt d o.w limb n k else r.weightAt d o.w limb k n
  let plain (la lw e : Nat) : Pass :=
    { x := fun m k => r.streamAt d o.a la m (32 * kb + k)
      w := fun k n => wAt lw (32 * kb + k) n
      tile := o.tile, row0 := 0, rows := tdRows d, cols := tdCols d, lw := e, turned := tdTmode d == 1, load := true
      reads := streamSpans d o.a 0 (tdRows d) (32 * kb) 32 ++
        (if tdTmode d = 1 then weightSpans d o.w 0 (tdCols d) (32 * kb) 32 else weightSpans d o.w (32 * kb) 32 0 (tdCols d)) }
  let cplx (ia iw : Nat) (neg : Bool) (t : Nat) : Pass :=
    { x := fun m k => r.streamAt d o.a 0 m (2 * (32 * kb + k) + ia)
      w := fun k n =>
        let e := if tdTmode d = 1 then r.weightAt d o.w 0 n (2 * (32 * kb + k) + iw)
          else r.weightAt d o.w 0 (32 * kb + k) (2 * n + iw)
        if neg then e.neg (cellFmt (tdFmtW d) o.w) else e
      tile := t, row0 := 0, rows := tdRows d, cols := tdCols d, lw := 0, turned := tdTmode d == 1, load := true
      reads := streamSpans d o.a 0 (tdRows d) (64 * kb) 64 ++
        (if tdTmode d = 1 then weightSpans d o.w 0 (tdCols d) (64 * kb) 64
         else weightSpans d o.w (32 * kb) 32 0 (2 * tdCols d)) }
  match tdScheme d, q with
  | 0, _ => plain 0 0 0
  | 1, 0 => cplx 0 0 false 0
  | 1, 1 => cplx 1 1 true 0
  | 1, 2 => cplx 0 1 false 1
  | 1, _ => cplx 1 0 false 1
  | 2, 0 => plain 1 0 0
  | 2, _ => plain 2 0 8
  | 3, 0 => plain 0 1 0
  | 3, _ => plain 0 2 8
  | _, 0 => plain 1 1 0
  | _, 1 => plain 1 2 8
  | _, 2 => plain 2 1 8
  | _, _ => plain 2 2 16

/-- Staged block `p` of a pair op for one twin (R85, R86); twin B loads the rows of X once for each block of rows. `SCHEME` does
nothing here but to set the element size (DESIGN CHOICE, log entry 110). The staged block is read from the Tarn once, by the
twin that `first` names. -/
def Ridge.pairPass (r : Ridge) (o : TileOp) (p : Nat) (first : Bool) : Pass :=
  let d := o.desc.words
  let i := p / tdNb d
  let j := p % tdNb d
  if tdTwinA d then
    { x := fun m k => r.streamAt d o.a 0 (32 * i + m) (32 * j + k)
      w := fun k n => r.weightAt d o.w 0 n (32 * j + k)
      tile := (o.tile + i) % 2, row0 := 0, rows := 32, cols := tdCols d, lw := 0, turned := true, load := true
      reads := (if first then streamSpans d o.a (32 * i) 32 (32 * j) 32 else []) ++ weightSpans d o.w 0 (tdCols d) (32 * j) 32 }
  else
    { x := fun m k => r.streamAt d o.a 0 (32 * i + k) (32 * j + m)
      w := fun k n => r.weightAt d o.w 0 (32 * i + k) n
      tile := j / 2, row0 := 32 * (j % 2), rows := 32, cols := tdCols d, lw := 0, turned := false, load := j == 0
      reads := (if first then streamSpans d o.a (32 * i) 32 (32 * j) 32 else []) ++
        (if j = 0 then weightSpans d o.w (32 * i) 32 0 (tdCols d) else []) }

/-- The product of cell (k, n) for row `m` (R76); a padding zero adds nothing (R79). -/
def Pass.product (p : Pass) (m k n : Nat) : Num :=
  if (p.x m k).pad || (p.w k n).pad then .fin true 0 0 else (p.x m k).x.mul (p.w k n).x

/-- The exact column sum of one pass at (m, n) (R76, R78); a zero sum is −0 only if every product is (R125). -/
def Pass.sum (p : Pass) (m n : Nat) : Num :=
  (List.range 32).foldl (fun acc k => Num.add acc (p.product m k n)) (.fin true 0 0)

/-- The entry sum of one pass in ledger form: products scaled by the limb weight, added exactly with their classes. -/
def Pass.entry (p : Pass) (k0 : Nat) (m n : Nat) : Entry :=
  (List.range 32).foldl (fun acc k =>
    let e := entOf ((p.product m k n).scale (p.lw + k0))
    { v := acc.v + e.v, cls := clsAdd acc.cls e.cls }) {}

/-- The flags that an entry's class sets (R127). -/
def TFlags.see (f : TFlags) (c : Nat) : TFlags := { f with nan := f.nan || c == 3, inf := f.inf || c == 1 || c == 2 }

/-- A row or column of the pass depends on a poisoned word (R95). -/
def Pass.rowBad (p : Pass) (m : Nat) : Bool := (List.range 32).any fun k => (p.x m k).bad
def Pass.colBad (p : Pass) (n : Nat) : Bool := (List.range 32).any fun k => (p.w k n).bad
/-- A 4-bit expansion of the pass left its range (R53, R54). -/
def Pass.rangeBad (p : Pass) : Bool := (List.range 32).any fun k => (List.range p.cols).any fun n => (p.w k n).range

/-- The entry keys of the pass. -/
def Pass.keys (p : Pass) : List (Nat × Nat) :=
  (List.range p.rows).flatMap fun m => (List.range p.cols).map fun n => (m, n)

def Tile.entry (t : Tile) (k : Nat) : Entry := Table.get (fun _ => {}) t.ent k
def Tile.setEntry (t : Tile) (k : Nat) (e : Entry) : Tile := { t with ent := Table.set (fun _ => {}) t.ent k e }

/-- Add one pass to one entry of a tile: `mul` is the power of two of R137 for a chain of larger SHIFT. -/
def Tile.addAt (t : Tile) (p : Pass) (nonsat : Bool) (mul : Nat) (m n : Nat) : Tile :=
  let k := (p.row0 + m) * 32 + n
  if t.fp then
    let b := accRound nonsat (p.sum m n)
    let a := accRound nonsat (Num.add (fp32Val (w32 (t.entry k).v.toNat)) (fp32Val (w32 b.1)))
    { t.setEntry k { v := (a.1 : Int) } with flags := { t.flags with sat := t.flags.sat || b.2 || a.2 } }
  else
    let e := entAdd 80 (t.entry k) (p.entry mul m n)
    { t.setEntry k e.1 with flags := { t.flags with sat := t.flags.sat || e.2 }.see e.1.cls }

/-- Add a pass to a tile (R78): every entry, the product count (R117), the entries that depend on poison (R95). -/
def Tile.addPass (t : Tile) (p : Pass) (nonsat : Bool) (mul : Nat) : Tile :=
  let u := p.keys.foldl (fun t k => t.addAt p nonsat mul k.1 k.2) t
  let bad := p.keys.filter fun k => p.rowBad k.1 || p.colBad k.2
  { u with
    count := if u.fp then u.count else u.count + 32
    poisoned := bad.foldl (fun a k => NatSet.add ((p.row0 + k.1) * 32 + k.2) a) u.poisoned }

/-- Spill a ledger tile into its slot (R118): entries and classes are added, the ledger returns to zero. -/
def Tile.spillInto (t : Tile) : Tile :=
  let keys := (List.range 2048).filter fun k => (Table.find k t.ent).isSome
  let r := keys.foldl (fun (a : Table Entry × Bool) k =>
    let e := entAdd 128 (Table.get (fun _ => {}) a.1 k) (t.entry k)
    (Table.set (fun _ => {}) a.1 k e.1, a.2 || e.2)) (t.spill, false)
  { t with ent := [], count := 0, spill := r.1
           flags := r.1.foldl (fun f e => f.see e.2.cls) { t.flags with sat := t.flags.sat || r.2 } }

/-- The spill slots held on a Ridge (R120). -/
def Ridge.heldSlots (r : Ridge) : List Nat :=
  r.arrs.flatMap fun e => (match e.2.t0.slot with | some k => [k] | none => []) ++
    (match e.2.t1.slot with | some k => [k] | none => [])

/-- The free spill slot with the lowest number: the 16 Spillway slots, then the Tarn slots that end inside the Tarn. -/
def State.freeSlot (s : State) (n : Nat) : Option Nat :=
  let tarn := min (s.field (.acc n) 0x100 22 16) 112
  let base := s.field (.acc n) 0x104 23 5 * 32
  ((List.range 128).filter fun k => k < 16 || (k - 16 < tarn && base + (k - 15) * 32768 ≤ tarnSize)).find? fun k =>
    !((s.ridge n).heldSlots.contains k)

/-- The Tarn slots in use as spill slots (R120, R121), as address and length. -/
def State.tarnSlots (s : State) (n : Nat) : List (Nat × Nat) :=
  let base := s.field (.acc n) 0x104 23 5 * 32
  ((List.range (min (s.field (.acc n) 0x100 22 16) 112)).filter fun k => base + (k + 1) * 32768 ≤ tarnSize).map fun k =>
    (base + k * 32768, 32768)

/-- The direction, the rows and the Tarn region of a fetch descriptor (R188, R189). -/
def fdDir (d : List W32) : Nat := wfld d 0 31 28
def fdRows (d : List W32) : Nat := wfld d 1 19 8
def fdMem (d : List W32) : Nat := wquad d 2 43
def fdStride (d : List W32) : Nat := (wordAt d 4).toNat
def fdTarn (d : List W32) : Nat := wfld d 5 23 0
def fdTarnStride (d : List W32) : Nat := wfld d 6 31 16 * 32
def fdBytes (d : List W32) : Nat := wfld d 7 19 0

/-- The parts of the Tarn that a region takes up. -/
def spansOf (a rows stride len : Nat) : List (Nat × Nat) := (List.range rows).map fun i => (a + i * stride, len)

/-- Two sets of parts share a byte. -/
def spansMeet (x y : List (Nat × Nat)) : Bool := x.any fun p => y.any fun q => decide (p.1 < q.1 + q.2 ∧ q.1 < p.1 + p.2)

/-- The parts of the Tarn that a fetch op writes: those of a read, or of an atomic that returns what it found. -/
def fetchSpans (d : List W32) : List (Nat × Nat) :=
  if fdDir d = 0 ∨ fdDir d = 3 then spansOf (fdTarn d) (fdRows d) (fdTarnStride d) (fdBytes d) else []

/-- The results of open tiles of a Ridge become unpredictable where `b` (R121). -/
def Ridge.spoil (r : Ridge) (b : Bool) : Ridge := if b then { r with spoiled := true } else r

/-- The Tarn words of several parts. -/
def spanWords (l : List (Nat × Nat)) : Nat := (l.map fun p => (tarnWords p.1 p.2).length).sum

/-- Parts of the Tarn are read, or written: their words are counted (R111). -/
def State.tarnReads (s : State) (n : Nat) (l : List (Nat × Nat)) : State := s.event (.trn n) 0x02 (spanWords l)
def State.tarnWrites (s : State) (n : Nat) (l : List (Nat × Nat)) : State := s.event (.trn n) 0x03 (spanWords l)

/-- The spill interval in products (R117). -/
def State.spillInterval (s : State) (n : Nat) : Nat := 32 * (s.field (.acc n) 0x100 9 0 + 1)

end Sys2Proof.Machine
end

