-- ==== Sys2Proof/Machine/BrookDesc.lean ====
section
/-! DEFINITION. Brook op descriptors (R152, R156, R165): their fields, the formats of their operands, and the parts of the Tarn
that an op reads and writes. -/
namespace Sys2Proof.Machine

/-! ### Descriptor fields (R165) -/

def bdFn (d : List W32) : Nat := wfld d 0 31 26
def bdStrict (d : List W32) : Bool := wfld d 0 25 25 == 1
def bdRnd (d : List W32) : Nat := wfld d 0 24 23
def bdFmtD (d : List W32) : Nat := wfld d 0 19 16
def bdTally (d : List W32) : Nat := wfld d 1 31 20
def bdRows (d : List W32) : Nat := wfld d 1 19 8
def bdLen (d : List W32) : Nat := wfld d 2 19 0
/-- The kind of source `x` (0 for A, 1 for B, 2 for C). -/
def bdKind (d : List W32) (x : Nat) : Nat := wfld d 0 (15 - 2 * x) (14 - 2 * x)
/-- The format of operand `x`, 3 being D. -/
def bdFmt (d : List W32) (x : Nat) : Nat := if x = 3 then bdFmtD d else wfld d (3 + x) 31 28
def bdAddr (d : List W32) (x : Nat) : Nat := wfld d (3 + x) 23 0
def bdStride (d : List W32) (x : Nat) : Nat := (if x % 2 = 0 then wfld d (7 + x / 2) 31 16 else wfld d (7 + x / 2) 15 0) * 32
def bdScl (d : List W32) (x : Nat) : Nat := if x % 2 = 0 then wfld d (9 + x / 2) 31 16 else wfld d (9 + x / 2) 15 0
def bdNs (d : List W32) (x : Nat) : Bool := wfld d 13 x x == 1
def bdTensor (d : List W32) : Nat := wfld d 11 31 8
def bdElem (d : List W32) : Nat := (wordAt d 12).toNat + wfld d 11 7 0 * 2 ^ 32
def bdElemRs (d : List W32) : Nat := wfld d 13 31 8
def bdParam (d : List W32) : Nat := wfld d 14 31 16

/-- The sources a function uses (R156). -/
def fnUses (fn : Nat) : List Nat :=
  if fn ∈ [0x00, 0x08, 0x09, 0x0A, 0x0B, 0x0C, 0x0D, 0x0E] then [0]
  else if fn ∈ [0x01, 0x02, 0x03, 0x05, 0x06, 0x07, 0x0F] then [0, 1]
  else if fn ∈ [0x04, 0x10, 0x11] then [0, 1, 2]
  else []

/-- A row function. -/
def fnRow (fn : Nat) : Bool := decide (0x0C ≤ fn) && decide (fn ≤ 0x0F)
/-- An optimiser update. -/
def fnOpt (fn : Nat) : Bool := fn == 0x10 || fn == 0x11
/-- Stochastic rounding is allowed (R156). -/
def fnSr (fn : Nat) : Bool := fn ∈ [0x00, 0x01, 0x02, 0x03, 0x04, 0x0D, 0x0E, 0x0F, 0x10, 0x11]

/-- The operands an op reads; OPT_ADAMW reads D too (R159). -/
def bdReads (d : List W32) : List Nat := fnUses (bdFn d) ++ (if bdFn d = 0x10 then [3] else [])
/-- The operands an op writes. -/
def bdWrites (d : List W32) : List Nat :=
  if bdFn d = 0x10 then [1, 2, 3] else if bdFn d = 0x11 then [1, 2] else [3]

/-- The operand names a Scale Table entry. -/
def bdNames (d : List W32) (x : Nat) : Bool :=
  !(bdNs d x) && (x == 3 || bdKind d x != 1)

/-- The operands whose Scale Table entries count: those read or written. -/
def bdOperands (d : List W32) : List Nat := (bdReads d ++ bdWrites d).eraseDups

/-- The format an operand has in the Tarn: BF16 under the cold rule (R72). -/
def brFmt (d : List W32) (u : ScaleUse) (cold : Bool) (x : Nat) : Fmt :=
  let c := bdFmt d x
  let wide := if x = 3 ∧ !(fnOpt (bdFn d)) then cold else u.wide && (x == 3 || bdKind d x == 0 || bdKind d x == 2)
  if wide && c < 3 then .bf16 else (Fmt.ofCode c).getD .fp32

/-- The use of operand `x`. -/
def BrookOp.use (o : BrookOp) (x : Nat) : ScaleUse := o.uses.getD x {}

/-- The format of operand `x` in the Tarn. -/
def BrookOp.fmt (o : BrookOp) (x : Nat) : Fmt := brFmt o.desc.words (o.use x) o.cold x

/-- The exponent of operand `x`; 0 for a cold output (R72). -/
def BrookOp.expo (o : BrookOp) (x : Nat) : Int := if x = 3 ∧ o.cold then 0 else (o.use x).expo

/-- The kind of operand `x`: D is a matrix, or a row vector for a row function. -/
def BrookOp.kind (o : BrookOp) (x : Nat) : Nat :=
  if x = 3 then (if fnRow (bdFn o.desc.words) then 2 else 0) else bdKind o.desc.words x

/-- The Tarn address of element (row, i) of operand `x`. -/
def BrookOp.addr (o : BrookOp) (x row i : Nat) : Nat :=
  let d := o.desc.words
  if o.kind x = 2 then bdAddr d x + row * (o.fmt x).bytes
  else bdAddr d x + row * bdStride d x + i * (o.fmt x).bytes

/-- Two elements of the format share a byte (R51). -/
def Fmt.packed (f : Fmt) : Bool := f == .f4 || f == .int4

/-- The bytes of `n` elements that stand next to each other. -/
def Fmt.runBytes (f : Fmt) (n : Nat) : Nat := if f.packed then ceilDiv n 2 else n * f.bytes

/-- The parts of the Tarn that operand `x` takes up, row by row; nothing for a scalar. -/
def BrookOp.spans (o : BrookOp) (form x : Nat) : List (Nat × Nat) :=
  let d := o.desc.words
  match o.kind x with
  | 0 => spansOf (bdAddr d x) (bdRows d) (bdStride d x) ((o.fmt x).runBytes (bdLen d))
  | 1 => [(bdAddr d x, rawSize form (bdRows d * bdLen d))]
  | 2 => if (o.fmt x).packed then [(bdAddr d x, ceilDiv (bdRows d) 2)]
    else spansOf (bdAddr d x) (bdRows d) (o.fmt x).bytes (o.fmt x).bytes
  | _ => []

/-- What a Brook op has still to write (R96). -/
def BrookOp.pendingSpans (o : BrookOp) : List (Nat × Nat) :=
  if o.done then [] else (bdWrites o.desc.words).flatMap (o.spans 1)

end Sys2Proof.Machine
end

