-- ==== Sys2Proof/Machine/Clock.lean ====
section
/-! DEFINITION. Divider codes of the islands (R475 to R477) and the voltage requests that follow them (R488). -/
namespace Sys2Proof.Machine

/-! ### Codes (R475, R477, R495) -/

/-- The register of island `i`. -/
def islReg (i : Nat) : Nat := 0x200 + 4 * i

/-- The code in force, the target code that software wrote, and whether the island runs from the reserve oscillator. -/
def State.islCur (s : State) (i : Nat) : Nat := s.field .clk (islReg i) 25 16
def State.islDiv (s : State) (i : Nat) : Nat := s.field .clk (islReg i) 9 0
def State.islReserve (s : State) (i : Nat) : Bool := s.flag .clk (islReg i) 31

/-- The HBM stacks are in self-refresh: their islands run from the reserve oscillator (R481). -/
def State.hbmSleeps (s : State) : Bool := s.islReserve 68

/-- The PLL output of an island in MHz; 0 where it is not divided. -/
def islPll (i : Nat) : Nat :=
  if i < 64 then 4800 else if i < 68 then 4000 else if i < 76 then 5600 else if i < 112 then 6000 else if i < 122 then 4000
  else if i = 123 then 4000 else 0

/-- The smallest code that a write can give an island. -/
def islMin (i : Nat) : Nat := if 76 ≤ i ∧ i < 112 then 0 else if i = 123 then 80 else 64

/-- The power floor (R492, R497): 0 acts as 64. -/
def State.powerFloor (s : State) : Nat := max 64 (s.field .pwr 0x108 31 22)

/-- The thermal floor of C-die `k` (R491). -/
def State.thermalFloor (s : State) (k : Nat) : Nat := Table.get (fun _ => 64) s.plat.tfloor k

/-- The effective code of island `i` (R477). -/
def State.islCode (s : State) (i : Nat) : Nat :=
  let d := max (islMin i) (s.islDiv i)
  if i < 64 then max (max d (s.thermalFloor (i / 16))) (max s.powerFloor (if s.plat.idle.has (i / 16) then 128 else 0)) else d

/-- The clock of Ridge `n` in MHz (R475, R481, R495). -/
def State.ridgeMhz (s : State) (n : Nat) : Nat := if s.islReserve n then 200 else 76800 / max 1 (s.islCur n)

/-- The requested core rail voltage of C-die `k` in mV (R497). -/
def State.railMv (s : State) (k : Nat) : Nat := 500 + 5 * s.field .pwr 0x10C (8 * k + 7) (8 * k)

/-! ### Ratio limits (R478) -/

/-- The rate of an island as a fraction in MHz; an island without a code has none. -/
def State.islRate (s : State) (i : Nat) : Option (Nat × Nat) :=
  if s.islReserve i then some (200, 1) else if s.islCur i = 0 then none else some (16 * islPll i, s.islCur i)

/-- Island `i` runs at no less than `a / b` times the rate of island `j`, where both have one. -/
def State.rateAtLeast (s : State) (i a b j : Nat) : Bool :=
  match s.islRate i, s.islRate j with
  | some x, some y => decide (a * y.1 * x.2 ≤ b * x.1 * y.2)
  | _, _ => true

/-- The limits of island `i` hold. -/
def State.limitsHold (s : State) (i : Nat) : Bool :=
  if i < 64 then s.rateAtLeast i 1 2 (64 + i / 16) && s.rateAtLeast (64 + i / 16) 1 2 i
  else if 68 ≤ i ∧ i < 76 then s.rateAtLeast i 3 4 (64 + (i - 68) / 2)
  else if 112 ≤ i ∧ i < 120 then
    (List.range 18).all fun p => s.rateAtLeast i 1 2 (76 + (if i < 116 then p else 18 + p))
  else true

/-- The islands whose limits name island `i`. -/
def limitIslands (i : Nat) : List Nat :=
  if i < 64 then [i]
  else if i < 68 then ((List.range 16).map fun n => 16 * (i - 64) + n) ++ [68 + 2 * (i - 64), 69 + 2 * (i - 64)]
  else if i < 76 then [i]
  else if i < 112 then (List.range 4).map fun e => (if i < 94 then 112 else 116) + e
  else if i < 120 then [i] else []

/-- The limits are judged after island `i` has changed its rate. -/
def State.judgeLimits (s : State) (i : Nat) : State :=
  let a := (limitIslands i).foldl (fun m j => NatSet.put m j (!(s.limitsHold j))) s.plat.astray
  ({ s with plat := { s.plat with astray := a } }).judgeStacks

/-! ### Voltage (R488) -/

/-- The voltage in mV that a Ridge code needs: 550 mV and 1 mV for each 3 MHz above 600 MHz, rounded up to 5 mV. -/
def codeMv (code : Nat) : Nat := if 128 ≤ code then 550 else 500 + 5 * ceilDiv (76800 - 450 * code) (15 * max 1 code)

/-- The fastest code of C-die `k`, now or as the ramps' target. -/
def State.dieCode (s : State) (k : Nat) : Nat :=
  ((List.range 16).map fun i => min (s.islCur (16 * k + i)) (s.islCode (16 * k + i))).foldl min 1023

/-- The voltage that the regulator of C-die `k` certainly supplies. -/
def State.volts (s : State) (k : Nat) : Nat := Table.get (fun _ => 750) s.plat.vAck k

/-- Send the voltage request of C-die `k`. -/
def State.avsSend (s : State) (k : Nat) : State := (s.event .pwr 0x02 1).emit (.avs k (s.railMv k))

/-- The request of C-die `k` follows its codes: up at once, so that the ramp can wait for it, and down once the ramp is over. -/
def State.avsUpdate (s : State) (k : Nat) : State :=
  let mv := codeMv (s.dieCode k)
  if mv = s.railMv k then s
  else
    let t := s.setField .pwr 0x10C (8 * k + 7) (8 * k) ((mv - 500) / 5)
    let p := t.plat
    ({ t with plat := { p with
        vAck := Table.set (fun _ => 750) p.vAck k (min (t.volts k) mv), vWait := NatSet.add k p.vWait } }).avsSend k

/-- A tile op reaches C-die `k`: an idle die wakes (R493). -/
def State.wake (s : State) (k : Nat) : State :=
  if s.plat.idle.has k then ({ s with plat := { s.plat with idle := NatSet.del k s.plat.idle } }).avsUpdate k else s

end Sys2Proof.Machine
end

