-- ==== Sys2Proof/Machine/Tables.lean ====
section
/-! DEFINITION. The Scale, Norm and Noise Tables in the hashed window: folds (R69, R133, R134, R347), updates at a commit
(R70, R71, R143, R348), the evaluation of CHECK (R144), and writes through BAR0 (R67, R145, R346). -/
namespace Sys2Proof.Machine

/-- `BOOT_STAT.READY` (R509). -/
def State.bootDone (s : State) : Bool := s.flag .boot 0x100 31

/-- In D3hot the function does not accept memory requests (R500). -/
def State.asleep (s : State) : Bool := s.host.d3

/-- The host may use BAR0 beyond the management pages (R500, R510). -/
def State.ready (s : State) : Bool := s.bootDone && !s.asleep

/-- A poisoned table granule was met (R543): recorded; with `j` a journal slot, its step aborts. -/
def State.tablePoison (s : State) (j : Option Nat) : State :=
  let t := s.setErr .scl 3
  match j with
  | some _ => t.stepAbort 0x04
  | none => t

/-! ### The words of the tables -/

/-- The writable bits of a Scale Table word at offset `o` of its entry (R65). -/
def scaleMask (o : Nat) : Nat :=
  if o < 0x48 then 0xFFFFFFFF else if o = 0x48 then 0xFFFF0F31 else if o = 0x4C then 0xFF1F003F else 0

/-- The writable bits of a Norm Table word (R142). -/
def normMask (o : Nat) : Nat :=
  if o < 0x80 then (if o % 0x40 < 0x30 then 0xFFFFFFFF else if o % 0x40 = 0x30 then 7 else 0)
  else if o < 0x8C then 0xFFFFFFFF else if o = 0x8C then 0xFFF00F01 else if o = 0x90 then 1 else 0

/-- The writable bits of a Noise Table word (R346). -/
def noiseMask (o : Nat) : Nat :=
  if o < 0x80 then (if o % 0x40 < 0x30 then 0xFFFFFFFF else if o % 0x40 = 0x30 then 0xFF07 else 0)
  else if o = 0x80 then 0x000FFF01 else if o < 0xB0 then 0xFFFFFFFF else if o = 0xB0 then 0xFC
  else if o = 0xB4 then 0xFFFFFFFF else 0

/-- The writable bits of an Expert Table word (R337). -/
def expertMask (o : Nat) : Nat := if o = 0 then 0xC3FFFFFF else if o < 0x1C then 0xFFFFFFFF else 0

/-- The bits of the window word at offset `o` that exist: reserved ones of the tables read zero and ignore writes. -/
def winMask (o : Nat) : Nat :=
  if o < 0x400000 then 0xFFFFFFFF
  else if o < 0xC00000 then scaleMask (o % 0x80)
  else if o < 0xD00000 then normMask (o % 0x100)
  else if o < 0xE00000 then noiseMask (o % 0x100)
  else if o < 0xE10000 then expertMask (o % 0x40)
  else 0xFFFFFFFF

/-- A window word as a read shows it: `COLD` of a Scale Table entry is 1 while `VALID` is 0 (R65). -/
def State.shownWord (s : State) (o : Nat) : W32 :=
  let v := s.winWord o &&& w32 (winMask o)
  if 0x400000 ≤ o ∧ o < 0xC00000 ∧ o % 0x80 = 0x4C then setBit v 8 (fld v 20 16 == 0) else v

/-! ### The Scale Table -/

/-- Fold an amax into `PEND[j]` of entry `i` (R69): the word `a` is the magnitude rounded up to FP32. -/
def State.foldAmax (s : State) (i j : Nat) (a : W32) : State :=
  let o := scaleOff i
  if !s.windowOk then s
  else if s.winPoison (o + 0x40) then s.tablePoison (some j)
  else
    let st := s.winWord (o + 0x4C)
    let old := s.winWord (o + 0x40 + 4 * j)
    let keep := bitOf st j && !(bitOf old 31) && !(fp32Val old).isNan && decide (a.toNat ≤ old.toNat)
    let t := if keep then s else s.setWinWord (o + 0x40 + 4 * j) a
    t.setWinWord (o + 0x4C) (setBit st j true)

/-- Set a bit of `STATE` of entry `i` for journal slot `j`: `WIDE[j]` (R72) or `BLKR[j]` (R53, R54). -/
def State.setScaleBit (s : State) (i j b : Nat) : State :=
  if !s.windowOk then s
  else if s.winPoison (scaleOff i + 0x40) then s.tablePoison (some j)
  else s.setWinWord (scaleOff i + 0x4C) (setBit (s.winWord (scaleOff i + 0x4C)) b true)

/-- The scale exponent derived from the amax history (R71). -/
def scaleExp (fmt margin : Nat) (hist : List W32) : Int :=
  let xs := (hist.map fun w => (fp32Val w).abs).filter fun x => !x.isNan
  let a := xs.foldl (fun m x => if m.lt x then x else m) (.fin false 0 0)
  let fmax : Num := .fin false (match fmt with | 0 => 480 | 1 => 57344 | _ => 127) 0
  if a.isZero then 0
  else if a.isInf then -127
  else clampInt (-127) 127 (largestShift a fmax - margin)

/-- `VALID` of a `STATE` word: 17 to 31 act as 16 (R65). -/
def scaleValid (st : W32) : Nat := min (fld st 20 16) 16

/-- The update of one enabled entry at the commit of journal slot `j` (R70). -/
def State.scaleUpdate (s : State) (j i : Nat) : State :=
  let o := scaleOff i
  let cfg := s.winWord (o + 0x48)
  let st := s.winWord (o + 0x4C)
  let cleared := setBit (setBit (setBit st j false) (2 + j) false) (4 + j) false
  if bitOf st j then
    let hist := (s.winWord (o + 0x40 + 4 * j)) :: (List.range 15).map fun k => s.winWord (o + 4 * k)
    let v := min (scaleValid st + 1) 16
    let e := if fld cfg 11 8 < 3 then scaleExp (fld cfg 11 8) (fld cfg 19 16) (hist.take v)
      else signedOf 8 (fld st 31 24)
    let st' := setFld (setFld cleared 20 16 v) 31 24 (e % 256).toNat
    (s.winWrite o (wordsBytes hist)).setWinWord (o + 0x4C) st'
  else s.setWinWord (o + 0x4C) cleared

/-- Update the entries of the layers that `sel` picks; the flag says that a poisoned granule was met (R543). -/
def State.scaleCommit (s : State) (j : Nat) (sel : Nat → Bool) : State × Bool :=
  (List.range 65536).foldl (fun (a : State × Bool) i =>
    let o := scaleOff i
    if a.1.winPoison (o + 0x40) then (a.1, true)
    else if !(bitOf (a.1.winWord (o + 0x48)) 0 && sel (fld (a.1.winWord (o + 0x48)) 31 20)) then a
    else if a.1.winPoison o && bitOf (a.1.winWord (o + 0x4C)) j then (a.1, true)
    else (a.1.scaleUpdate j i, a.2)) (s, false)

/-! ### Sums of FP32 values in units of 2^−149 -/

/-- What a fold adds: the exact sum, the count of elements, and whether a NaN or an overflow was met (R133). -/
structure Fold where
  sum : Nat := 0
  cnt : Nat := 0
  nan : Bool := false
  inf : Bool := false
deriving DecidableEq, Repr

/-- Add one written element with real value `v`: q(v) = v² rounded once to FP32 (R133). -/
def Fold.push (f : Fold) (v : Num) : Fold :=
  let q := fp32.conv .rne true 0 (v.mul v)
  let g := { f with cnt := f.cnt + 1 }
  match v with
  | .nan => { g with nan := true }
  | _ => match fp32.decode q.code with
    | .fin _ m e => { g with sum := g.sum + shiftNat m (e + 149) }
    | _ => { g with inf := true }

/-- The pending block of a Norm or Noise entry at window offset `o` with `f` folded in and the flag bits `mask` set. -/
def State.foldBlock (s : State) (o : Nat) (f : Fold) (mask : Nat) : State :=
  let t := s.winWrite o (leBytes 40 (s.winNat o 40 + f.sum))
  let u := t.winWrite (o + 0x28) (leBytes 8 (t.winNat (o + 0x28) 8 + f.cnt))
  u.setWinWord (o + 0x30) (u.winWord (o + 0x30) ||| w32 (1 + (if f.inf then 2 else 0) + (if f.nan then 4 else 0) + mask))

/-- Fold the norm statistic into Norm Table entry `i` (R133, R142). -/
def State.foldNorm (s : State) (i : Nat) (j : Option Nat) (f : Fold) : State :=
  match j with
  | none => s
  | some j =>
    let o := normOff i
    let t := (s.addSat .nrm 0x110 1).event .nrm 0x02 1
    if !t.windowOk then t.setErr .nrm 1
    else if t.winPoison (o + 0x80) || t.winPoison (o + 0x40 * j) then t.tablePoison (some j)
    else if !(bitOf (t.winWord (o + 0x8C)) 0) then t.setErr .nrm 1
    else t.foldBlock (o + 0x40 * j) f 0

/-- Fold the noise statistic of micro-batch slot `m` into Noise Table entry `i` (R134, R346, R347). -/
def State.foldNoise (s : State) (i m : Nat) (j : Option Nat) (f : Fold) : State :=
  match j with
  | none => s
  | some j =>
    let o := noiseOff i
    let t := (s.addSat .nse 0x110 1).event .nse 0x02 1
    if !t.windowOk then t.setErr .nse 1
    else if t.winPoison (o + 0x80) || t.winPoison (o + 0x40 * j) then t.tablePoison (some j)
    else if !(bitOf (t.winWord (o + 0x80)) 0) then t.setErr .nse 1
    else
      let u := t.foldBlock (o + 0x40 * j) f (2 ^ (8 + m))
      if f.nan || f.inf then u.setErr .nse 2 else u

/-- An exact sum in units of 2^−149 as an FP32 word, rounded to nearest even. -/
def sumWord (n : Nat) : W32 := toFp32 (.fin false n (-149))

/-- The update of the Norm entries of the layers that `sel` picks, at the commit of slot `j` (R143). -/
def State.normCommit (s : State) (j : Nat) (sel : Nat → Bool) : State × Bool :=
  (List.range 4096).foldl (fun (a : State × Bool) i =>
    let s := a.1
    let o := normOff i
    if s.winPoison (o + 0x80) then (s, true)
    else if !(bitOf (s.winWord (o + 0x8C)) 0 && sel (fld (s.winWord (o + 0x8C)) 31 20)) then a
    else if s.winPoison (o + 0x40 * j) then (s, true)
    else
      let b := o + 0x40 * j
      let t := if bitOf (s.winWord (b + 0x30)) 0 then
          (s.setWinWord (o + 0x80) (sumWord (s.winNat b 40))).setWinWord (o + 0x90)
            (setBit (s.winWord (o + 0x90)) 0 true)
        else s
      (t.clearBlock b, a.2)) (s, false)

/-- An enabled Norm entry with a fold is out of bounds (R144). -/
def State.normBad (s : State) (i j : Nat) : Bool :=
  let o := normOff i
  let b := o + 0x40 * j
  let fl := s.winWord (b + 0x30)
  let p := fp32Val (sumWord (s.winNat b 40))
  let r := fld (s.winWord (o + 0x8C)) 11 8
  bitOf fl 1 || bitOf fl 2 || (fp32Val (s.winWord (o + 0x84))).lt p || p.lt (fp32Val (s.winWord (o + 0x88))) ||
    (r != 0 && bitOf (s.winWord (o + 0x90)) 0 && ((fp32Val (s.winWord (o + 0x80))).scale r).lt p)

/-- The entry is enabled and has a fold for slot `j`. -/
def State.normLive (s : State) (i j : Nat) : Bool :=
  bitOf (s.winWord (normOff i + 0x8C)) 0 && bitOf (s.winWord (normOff i + 0x40 * j + 0x30)) 0

/-- Evaluate the Norm Table during CHECK (R144, R150); a poisoned granule is met as R543 says. -/
def State.normEval (s : State) (j : Nat) : State :=
  let pois := (List.range 4096).filter fun i => s.winPoison (normOff i + 0x80) || s.winPoison (normOff i + 0x40 * j)
  let live := (List.range 4096).filter fun i => !(pois.contains i) && s.normLive i j
  let bad := live.filter fun i => s.normBad i j
  let t := (s.setReg .nrm (0x100 + 4 * j) (w32 bad.length)).setReg .nrm (0x108 + 4 * j)
    (match bad.head? with | some i => w32 (2 ^ 31 + i) | none => 0)
  let u := t.event .nrm 0x03 live.length
  if pois.isEmpty then u else u.tablePoison (some j)

/-- FP32 arithmetic of R348: each operation rounded to nearest even. -/
def fAdd (a b : Num) : Num := rnd32 (a.add b)
def fSub (a b : Num) : Num := rnd32 (a.sub b)
def fMul (a b : Num) : Num := rnd32 (a.mul b)
def fDiv (a b : Num) : Num := rnd32 (a.div b)
def fNat (n : Nat) : Num := rnd32 (.fin false n 0)

/-- The evaluation of one Noise Table entry (R348): `tok m` is the token count of micro-batch slot `m`. -/
def State.noiseEntry (s : State) (i j : Nat) (tok : Nat → Nat) : State :=
  let o := noiseOff i
  let b := o + 0x40 * j
  let fl := s.winWord (b + 0x30)
  let ms := (List.range 8).filter fun m => bitOf fl (8 + m)
  let st := s.winWord (o + 0xB0)
  let sm := fDiv (rnd32 (.fin false (s.winNat b 40) (-149))) (fNat (s.winNat (b + 0x28) 8))
  let bg := fDiv (fp32Val (s.winWord (normOff (fld (s.winWord (o + 0x80)) 19 8) + 0x80))) (fNat (s.winNat (o + 0x88) 8))
  let bs := fDiv (fNat (ms.map tok).sum) (fNat ms.length)
  let bb := fNat (s.winWord (o + 0x84)).toNat
  if !(bs.lt bb) && !bs.isNan then s.setWinWord (o + 0xB0) (setFld st 3 2 2)
  else
    let g2 := fDiv (fSub (fMul bb bg) (fMul bs sm)) (fSub bb bs)
    let sv := fDiv (fSub sm bg) (fSub (fDiv (fNat 1) bs) (fDiv (fNat 1) bb))
    let hs := toFp32 sv :: (List.range 3).map fun k => s.winWord (o + 0x90 + 4 * k)
    let hg := toFp32 g2 :: (List.range 3).map fun k => s.winWord (o + 0xA0 + 4 * k)
    let v := min (min (fld st 7 4) 4 + 1) 4
    let t := (s.winWrite (o + 0x90) (wordsBytes hs)).winWrite (o + 0xA0) (wordsBytes hg)
    let add4 (l : List W32) : Num :=
      fAdd (fAdd (fAdd (fp32Val (l.getD 0 0)) (fp32Val (l.getD 1 0))) (fp32Val (l.getD 2 0))) (fp32Val (l.getD 3 0))
    let num := add4 hs
    let den := add4 hg
    if v = 4 then
      if (fNat 0).lt den && !num.isNan then
        (t.setWinWord (o + 0xB4) (toFp32 (fDiv num den))).setWinWord (o + 0xB0) (setFld (setFld st 7 4 v) 3 2 1)
      else t.setWinWord (o + 0xB0) (setFld (setFld st 7 4 v) 3 2 2)
    else t.setWinWord (o + 0xB0) (setFld (setFld st 7 4 v) 3 2 0)

/-- The evaluation of the Noise Table at the commit of slot `j` (R348): `linked i` says that Norm entry `i` had a fold in
the step. Every entry then clears its pending block, an enabled one or not. -/
def State.noiseCommit (s : State) (j : Nat) (tok : Nat → Nat) (linked : Nat → Bool) : State × Bool :=
  let x := (List.range 4096).foldl (fun (a : State × Bool) i =>
    let s := a.1
    let o := noiseOff i
    let b := o + 0x40 * j
    if s.winPoison (o + 0x80) then (s, true)
    else if !(bitOf (s.winWord (o + 0x80)) 0) then (if s.winPoison b then a else (s.clearBlock b, a.2))
    else if s.winPoison b || s.winPoison (normOff (fld (s.winWord (o + 0x80)) 19 8) + 0x80) then (s, true)
    else
      let fl := s.winWord (b + 0x30)
      let skip := !(bitOf fl 0) || bitOf fl 1 || bitOf fl 2 || !(linked (fld (s.winWord (o + 0x80)) 19 8))
      let t := if skip then s.addSat .nse 0x10C 1 else (s.noiseEntry i j tok).event .nse 0x03 1
      (t.clearBlock b, a.2)) (s.setReg .nse 0x10C 0, false)
  let count (t : State) (off code : Nat) : State :=
    t.setReg .nse off (w32 ((List.range 4096).countP fun i => !(t.winPoison (noiseOff i + 0x80)) &&
      bitOf (t.winWord (noiseOff i + 0x80)) 0 && fld (t.winWord (noiseOff i + 0xB0)) 3 2 == code))
  (count (count (count x.1 0x100 1) 0x104 0) 0x108 2, x.2)

/-! ### Writes through BAR0 -/

/-- Write one word of a table entry with its writable bits. -/
def State.tableWord (s : State) (o mask : Nat) (v : W32) : State :=
  if mask = 0 then s else s.setWinWord o (v &&& w32 mask)

/-- A write of one or two words at offset `x` of a table: `base` is its window offset, `size` the size of an entry. -/
def State.tableWrite (s : State) (base size x : Nat) (mask : Nat → Nat) (wide : Bool) (v : W64) : State :=
  if !s.ready || !s.windowOk then s
  else
    let t := s.tableWord (base + x) (mask (x % size)) (lo32 v)
    if wide then t.tableWord (base + x + 4) (mask ((x + 4) % size)) (hi32 v) else t

/-- SCALE_TABLE_WRITE (R67): ignored while a step is open. -/
def execScaleTableWrite (off : BitVec 23) (wide : Bool) (value : W64) (s : State) :
    Host.Outcome State Fault Refusal :=
  .next (if s.ready && s.stepOpen then s.setErr .scl 2
    else s.tableWrite (scaleOff 0) 0x80 off.toNat scaleMask wide value)

/-- NORM_TABLE_WRITE (R145): ignored while a step is open. -/
def execNormTableWrite (off : BitVec 20) (wide : Bool) (value : W64) (s : State) :
    Host.Outcome State Fault Refusal :=
  .next (if s.ready && s.stepOpen then s.setErr .nrm 0
    else s.tableWrite (normOff 0) 0x100 off.toNat normMask wide value)

/-- NOISE_TABLE_WRITE (R346): ignored while a step is open. -/
def execNoiseTableWrite (off : BitVec 20) (wide : Bool) (value : W64) (s : State) :
    Host.Outcome State Fault Refusal :=
  .next (if s.ready && s.stepOpen then s.setErr .nse 0
    else s.tableWrite (noiseOff 0) 0x100 off.toNat noiseMask wide value)

/-! ### The test registers of Scree (R64, R74) -/

/-- SCREE_TEST_START: a write of `TEST_ELEM_HI` takes the held low word, clears `READY` and starts the computation; one
in progress is left unpredictable. -/
def execScreeTestStart (value : W32) (s : State) : Host.Outcome State Fault Refusal :=
  .next (if !s.ready then s
    else
      let lo := Table.get (fun _ => 0) s.io.held (Page.base .scl + 0x118)
      let t := (s.setReg .scl 0x118 lo).setReg .scl 0x11C (w32 (fld value 7 0))
      let busy := !(t.flag .scl 0x120 31)
      let u := if busy then (t.setField .scl 0x120 15 0 (Config.freeWord t.free 0x120).toNat).fresh else t
      u.setFlag .scl 0x120 31 false)

/-- SCREE_TEST_DONE: the result for the device's seed and the test inputs. -/
def execScreeTestDone (s : State) : Host.Outcome State Fault Refusal :=
  .next (if s.flag .scl 0x120 31 then s
    else
      let r := scree (s.reg64 .scl 0x104) (s.reg .scl 0x110) (s.reg .scl 0x114)
        ((s.reg .scl 0x118).toNat + (s.reg .scl 0x11C).toNat * 2 ^ 32)
      s.setReg .scl 0x120 (w32 (2 ^ 31 + r)))

end Sys2Proof.Machine
end

