-- ==== Sys2Proof/Machine/Hbm.lean ====
section
/-! DEFINITION. The stacks and the Page Map: training and fill (R172, R183), scrubbing (R205), the size of the hashed window
(R177), entry writes and batches (R185, R186), the window port (R211), refills of the translation caches (R184, R187). -/
namespace Sys2Proof.Machine

/-! ### Errors that a read finds -/

/-- An uncorrectable error in a page that is PENDING or SENDING: its committed contents exist nowhere else, and the device
requests escalation (R406). -/
def State.pageLost (s : State) (g : Nat) : State :=
  if s.oxb.pend.any fun p => s.oxb.frames[p.m]? == some (g / 2 ^ 15) then s.escalate 0x04 else s

/-- A read of the granule at key `key` met the outcome `e` of the controller code (R202). -/
def State.hbmEcc (s : State) (key : Nat) (e : Ecc) : State :=
  let k := key / 2 ^ 37
  match e with
  | .clean => s
  | .corrected => (s.countErr (.hbm k)).event (.hbm k) 0x04 1
  | .uncorrectable => (s.hbmUe k (key % 2 ^ 37) 0).pageLost (key / 64)

/-- The Basin line of the granule at key `key` held `l` (R196, R406). -/
def State.basinLine (s : State) (key : Nat) (l : LineErr) : State :=
  let b := key / 2 ^ 38
  match l with
  | .good => s
  | .corrected => s.countErr (.bsn b)
  | .cleanUe => s.setErr (.bsn b) 2
  | .dirtyUe => ((s.poisonCount (key / 64)).setErr (.bsn b) 2).pageLost (key / 64)

/-! ### What the granules of an access meet (R171, R194 to R198, R207, R209) -/

/-- The granule is read from HBM: a poisoned one is delivered as such. -/
def State.hbmFetch (s : State) (g : Nat) (e : Ecc) : State :=
  let t := (s.event (.hbm (g / 2 ^ 31)) 0x02 1).hbmEcc (g * 64) e
  if t.granPoison g then t.event (.hbm (g / 2 ^ 31)) 0x05 1 else t

/-- An allocation in Basin `b` replaces a line: a dirty one is written back. -/
def State.writeBack (s : State) (b : Nat) (back : Option Bool) : State :=
  match back with
  | none => s
  | some up => (s.event (.bsn b) 0x04 1).event (.hbm (2 * b + up.toNat)) 0x03 1

/-- A line holds the granule; one that fails while clean is dropped and read again (R196). -/
def State.basinHit (s : State) (g : Nat) (u : GranUse) : State :=
  let t := (s.event (.bsn (g / 2 ^ 32)) 0x02 1).basinLine (g * 64) u.line
  if u.line = .cleanUe then t.hbmFetch g u.ecc else t

/-- A read of one granule under a hint (R197): NORMAL and KEEP allocate, a DISCARD drops a dirty line. -/
def State.granRead (s : State) (hint g : Nat) (u : GranUse) : State :=
  if u.hit then
    let t := s.basinHit g u
    if hint = 3 ∧ u.dirty then t.event (.bsn (g / 2 ^ 32)) 0x05 1 else t
  else
    let t := (s.event (.bsn (g / 2 ^ 32)) 0x03 1).hbmFetch g u.ecc
    if hint = 0 ∨ hint = 2 then t.writeBack (g / 2 ^ 32) u.back else t

/-- A write of one granule under a hint (R197): STREAM goes to HBM where no line holds the granule, the others allocate. -/
def State.granWrite (s : State) (hint g : Nat) (u : GranUse) : State :=
  if u.hit then s.basinHit g u
  else
    let t := s.event (.bsn (g / 2 ^ 32)) 0x03 1
    let t := if u.fill then t.hbmFetch g u.ecc else t
    if hint = 1 then t.event (.hbm (g / 2 ^ 31)) 0x03 1 else t.writeBack (g / 2 ^ 32) u.back

/-- The granules of a range with what each meets. -/
def granUses (key n : Nat) (us : List GranUse) : List (Nat × GranUse) :=
  (List.range (granules key n).length).map fun i => ((granules key n).getD i 0, us.getD i {})

/-- A read of `n` bytes at key `key` passes through the home Basin (R171). -/
def State.readRange (s : State) (hint key n : Nat) (us : List GranUse) : State :=
  (granUses key n us).foldl (fun t p => t.granRead hint p.1 p.2) s

/-- A write of them. -/
def State.writeRange (s : State) (hint key n : Nat) (us : List GranUse) : State :=
  (granUses key n us).foldl (fun t p => t.granWrite hint p.1 p.2) s

/-- A DISCARD read leaves the granules unpredictable (R198). -/
def State.discard (s : State) (key n : Nat) : State :=
  { s with mem := { s.mem with freed := (granules key n).foldl (fun m g => NatSet.add g m) s.mem.freed } }.fresh

/-! ### Training, fill and scrub -/

/-- Store an entry of the spill copy in the hashed window (R173). -/
def State.setSpill (s : State) (p : Nat) (v : W64) : State :=
  if s.windowOk then s.winWrite (8 * p) (leBytes 8 v.toNat) else s

/-- The rows of the spill copy for the window as it is now hold nothing written, and no poison. -/
def State.clearSpill (s : State) : State :=
  let t := { s with mem := { s.mem with spillAt := s.winFrames } }
  { s with mem := { s.mem with
      spillAt := s.winFrames
      hbm := s.mem.hbm.filter fun e => !(t.inSpill (e.1 / 64))
      draws := s.mem.draws.filter fun e => !(t.inSpill e.1)
      poison := s.mem.poison.filter fun g => !(t.inSpill g)
      freed := s.mem.freed.filter fun g => !(t.inSpill g) } }

/-- The device rewrites the spill copy from Page Map copy 0, whole granules at a time, so that nothing in it stays poisoned
(R177, R183). -/
def State.writeSpill (s : State) : State :=
  if !s.windowOk then s else s.mem.pmap0.foldl (fun v e => v.setSpill e.1 e.2) s.clearSpill

/-- Every stack is ready or has failed: the spill copy is written, and `PMAP.STAT.BLOCK.READY` sets (R183). -/
def State.pmapInit (s : State) : State :=
  if s.mem.pmapReady || !(List.range 8).all (fun k => s.mem.ready.has k || s.mem.failed.has k) then s
  else { s.writeSpill with mem := { s.writeSpill.mem with pmapReady := true } }

/-- HBM_TRAIN_FILL (R172): the controller trains its stack, repairing `lanes` lanes, and begins the fill, or fails. -/
def execHbmTrainFill (stack : Fin 8) (ok : Bool) (lanes : BitVec 8) (s : State) : Host.Outcome State Fault Refusal :=
  let k := stack.val
  .next (if s.plat.held || s.mem.ready.has k || s.mem.failed.has k || s.mem.filling.has k then s
    else if ok then
      { s with mem := { s.mem with filling := NatSet.add k s.mem.filling } }.setReg (.hbm2 k) 0x104 (w32 lanes.toNat)
    else ({ s with mem := { s.mem with failed := NatSet.add k s.mem.failed } }.setErr (.hbm k) 2).pmapInit)

/-- HBM_FILL_DONE (R172): the fill ends, its bytes unpredictable; the stack is ready. -/
def execHbmFillDone (stack : Fin 8) (s : State) : Host.Outcome State Fault Refusal :=
  let k := stack.val
  .next (if s.mem.filling.has k then
      { s with mem := { s.mem with
        filling := NatSet.del k s.mem.filling, ready := NatSet.add k s.mem.ready
        fill := Table.set (fun _ => 0) s.mem.fill k s.free } }.fresh.pmapInit
    else s)

/-- Granules of a stack (R205). -/
def stackGranules : Nat := 5120 * 2 ^ 18

/-- HBM_SCRUB_READ (R205): the scrubber reads the next granule of the stack; a stack in self-refresh makes it wait (R481). -/
def execHbmScrubRead (stack : Fin 8) (e : Ecc) (s : State) : Host.Outcome State Fault Refusal :=
  let k := stack.val
  let g := Table.get (fun _ => 0) s.mem.scrub k
  .next (if !(s.flag (.hbm k) 0x100 0) || !(s.mem.ready.has k) || s.hbmSleeps then s
    else
      let t := { s with mem := { s.mem with scrub := Table.set (fun _ => 0) s.mem.scrub k ((g + 1) % stackGranules) } }
      let t := t.event (.hbm k) 0x06 1
      match e with
      | .clean => t
      | .corrected => (t.countErr (.hbm k)).event (.hbm k) 0x04 1
      | .uncorrectable => (t.hbmUe k (g * 64) 1).pageLost (memKey k (g * 64) / 64))

/-! ### The size of the window (R177) -/

/-- Resize the hashed window: the spill copy is rewritten, everything else in the frames concerned is unpredictable. -/
def State.resizeWindow (s : State) (v : W32) : State :=
  let old := s.winFrames
  let t := s.setReg .pmap 0x100 (w32 (fld v 9 0))
  if t.winFrames = old then t
  else
    let lo := (5120 - max old t.winFrames) * 2 ^ 24
    let u := { t with mem := { t.mem with
      winStale := max t.mem.winStale (max old t.winFrames)
      winFresh := t.mem.winFresh.filter fun g => decide ((g * 64) % 2 ^ 37 < lo)
      spillAt := 0, pmapReady := false } }
    u.fresh.pmapInit

/-! ### Entries of the Page Map (R178, R184, R185) -/

/-- Page `p` is written: every translation cache that holds it is emptied (R185, R187). -/
def State.dropPage (s : State) (p : Nat) : State :=
  let holders := (s.mem.xcache.filter fun e => e.2.contains p).map fun e => e.1 / 256
  { s with mem := { s.mem with xcache := s.mem.xcache.filter fun e => !(holders.contains (e.1 / 256)) } }

/-- Write entry `p`: both copies, the spill copy, and no cache holds the page (R185). -/
def State.writeEntry (s : State) (p : Nat) (v : W64) : State :=
  ((((s.setPmap p v).setSpill p v).dropPage p)).event .pmap 0x03 1

/-- PAGE_MAP_WRITE (R185): a 64-bit write, or the `_HI` write of a pair, whose low half is the held word (R37); ignored
while a batch is pending (R186). -/
def execPageMapWrite (page : BitVec 19) (wide : Bool) (value : W64) (s : State) : Host.Outcome State Fault Refusal :=
  let p := page.toNat
  let a := 0x02400000 + 8 * p
  let v := if wide then value else join64 (lo32 value) (Table.get (fun _ => 0) s.io.held a)
  .next (if s.asleep then s else if s.mem.batch.isSome then s.setErr .pmap 3
    else
      let t := if wide then { s with io := { s.io with held := Table.set (fun _ => 0) s.io.held a (lo32 value) } } else s
      t.writeEntry p v)

/-- An uncorrectable entry of a Page Map copy is restored from the spill copy, or lost (R184). -/
def State.entryUe (s : State) (p : Nat) : State :=
  if s.windowOk && !(s.winPoison (8 * p)) then
    (s.setPmap p (w64 (s.winNat (8 * p) 8))).countErr .pmap
  else
    let t := { s with mem := { s.mem with lost := NatSet.add p s.mem.lost } }
    (t.setErr .pmap 1).stepAbort 0x04

/-- An entry is read from a copy (R184, R213). -/
def State.readEntry (s : State) (p : Nat) (e : Ecc) : State :=
  let t := s.event .pmap 0x02 1
  match e with
  | .clean => t
  | .corrected => (t.countErr .pmap).event .pmap 0x04 1
  | .uncorrectable => if t.mem.lost.has p then t else t.entryUe p

/-- A requester at die `die` reads the entry of board address `a` from a copy that it can reach (R9, R13). -/
def State.lookup (s : State) (die copy a : Nat) (e : Ecc) : State :=
  if s.routeDown die (4 + copy) then s else s.readEntry (pageOf a) e

/-! ### Translation caches (R187) -/

/-- The set of a translation cache that holds page `p` of Ridge `n`: pages, most recently used first. -/
def State.cacheSet (s : State) (n p : Nat) : List Nat := Table.get (fun _ => []) s.mem.xcache (n * 256 + p % 256)

/-- The cache of Ridge `n` holds the page of board address `a`. -/
def State.cached (s : State) (n a : Nat) : Bool := (s.cacheSet n (pageOf a)).contains (pageOf a)

/-- Use page `p`: it becomes the most recently used of its set, whose ninth page is replaced. -/
def State.cacheUse (s : State) (n p : Nat) : State :=
  let l := (p :: (s.cacheSet n p).filter fun q => q != p).take 8
  { s with mem := { s.mem with xcache := Table.set (fun _ => []) s.mem.xcache (n * 256 + p % 256) l } }

/-- The cache of Ridge `n` takes the entry of page `p` from the copy of R9, unless it cannot be reached or is lost. -/
def State.cacheFill (s : State) (n p : Nat) (e : Ecc) : State :=
  if s.routeDown (n / 16) (4 + ridgeCopy n) then s
  else
    let t := s.readEntry p e
    if t.mem.lost.has p then t else t.cacheUse n p

/-! ### Batches (R186) -/

/-- Record `i` of the staging area: the first and second 64-bit words. -/
def State.batchRec (s : State) (i : Nat) : Nat × W64 :=
  (s.winNat (stagingOff + 16 * i) 8, w64 (s.winNat (stagingOff + 16 * i + 8) 8))

/-- A batch of `n` records is valid. -/
def State.batchOk (s : State) (n : Nat) : Bool :=
  n != 0 && decide (n ≤ 4096) && s.windowOk &&
  (List.range n).all fun i => !(s.winPoison (stagingOff + 16 * i)) && decide ((s.batchRec i).1 < 2 ^ 19)

/-- BATCH_GO (R186): a write of `BATCH_CTL` with `GO` at 1; a valid batch becomes pending. -/
def execBatchGo (value : W32) (s : State) : Host.Outcome State Fault Refusal :=
  .next (if s.asleep then s else if s.mem.batch.isSome then s.setErr .pmap 3
    else
      let n := fld value 12 0
      let t := (s.setReg .pmap 0x110 (setFld (setFld 0 12 0 n) 16 16 (fld value 16 16))).setReg .pmap 0x114 0
      if t.batchOk n then
        let b : Batch := { recs := (List.range n).map t.batchRec, atClosed := bitOf value 16 }
        { t with mem := { t.mem with batch := some b } }
      else t.setErr .pmap 2)

/-- The pending batch is applied: every record to the copies, in order; every translation cache is emptied. -/
def State.applyBatch (s : State) (b : Batch) : State :=
  let t := b.recs.foldl (fun t r => ((t.setPmap r.1 r.2).setSpill r.1 r.2).event .pmap 0x03 1) s
  ({ t with mem := { t.mem with batch := none, xcache := [] } }.setReg .pmap 0x114 1).event .pmap 0x05 1

/-- BATCH_APPLY (R186): a pending batch that does not wait for CLOSED is applied. -/
def execBatchApply (s : State) : Host.Outcome State Fault Refusal :=
  .next (match s.mem.batch with
    | some b => if b.atClosed then s else s.applyBatch b
    | none => s)

/-- A batch that waits for CLOSED is applied at CLOSED (R186). -/
def State.batchAtClosed (s : State) : State :=
  match s.mem.batch with
  | some b => if b.atClosed then s.applyBatch b else s
  | none => s

/-! ### The window port (R211, R212) -/

/-- The window offset that the port names. -/
def State.portOff (s : State) : Nat := ((s.reg64 .pmap 0x118).toNat % 2 ^ 36) / 8 * 8

/-- Advance the port by 8. -/
def State.portNext (s : State) : State :=
  s.setReg64 .pmap 0x118 (w64 (((s.reg64 .pmap 0x118).toNat + 8) % 2 ^ 36))

/-- The offset lies in an unused row of R173 or R383. -/
def portUnused (o : Nat) : Bool :=
  (decide (0xE20000 ≤ o) && decide (o < 0x1000000)) || (decide (0x1000400 ≤ o) && decide (o < 0x1100000)) ||
  (decide (0x1380000 ≤ o) && decide (o < 0x2000000))

/-- WINDOW_PORT_READ_LO (R211): the word at `WIN_ADDR` is read, its low half returned and its high half held; an aligned 64-bit
read returns both, and advances. -/
def execWindowPortReadLo (wide : Bool) (s : State) : Host.Outcome State Fault Refusal :=
  let o := s.portOff
  let there := s.windowOk && decide (o < s.windowSize) && !(portUnused o)
  let bad := there && s.winPoison o
  let v := if there && !bad then join64 (s.shownWord (o + 4)) (s.shownWord o) else 0
  let t := ((if bad then s.setErr .pmap 4 else s).setReg .pmap 0x124 (hi32 v)).event .pmap 0x06 1
  .next (if s.asleep then s.emit .unsupported
    else if wide then (t.emit (.data v)).portNext else t.emit (.data (w64 (lo32 v).toNat)))

/-- WINDOW_PORT_READ_HI (R211): the held half is returned, and `WIN_ADDR` advances by 8. -/
def execWindowPortReadHi (s : State) : Host.Outcome State Fault Refusal :=
  .next (if s.asleep then s.emit .unsupported else (s.emit (.data (w64 (s.reg .pmap 0x124).toNat))).portNext)

/-- The port may write offset `o` (R67, R145, R212, R337). -/
def State.portWritable (s : State) (o : Nat) : Bool :=
  s.windowOk && decide (o < s.windowSize) && !(portUnused o) &&
  !(s.stepOpen && decide (0x400000 ≤ o) && decide (o < 0xE10000))

/-- A write through the port to a table while a step is open (R67, R145, R337, R346). -/
def State.portBusy (s : State) (o : Nat) : State :=
  if !s.stepOpen || o < 0x400000 || 0xE10000 ≤ o then s
  else if o < 0xC00000 then s.setErr .scl 2
  else if o < 0xD00000 then s.setErr .nrm 0
  else if o < 0xE00000 then s.setErr .nse 0
  else s.event (.cfl 0) 0x0A 1

/-- A write of a page tag through the port leaves the mirror unpredictable until the next INIT (R383). -/
def State.portTag (s : State) (o : Nat) : State :=
  if 0x1100000 ≤ o ∧ o < 0x1380000 then { s with oxb := { s.oxb with loose := true } } else s

/-- WINDOW_PORT_WRITE_HI (R211): the word, whose low half is the held word, is stored at `WIN_ADDR`, which advances. -/
def execWindowPortWriteHi (value : W32) (s : State) : Host.Outcome State Fault Refusal :=
  let o := s.portOff
  let lo := Table.get (fun _ => 0) s.io.held (Page.base .pmap + 0x120)
  let v := join64 (value &&& w32 (winMask (o + 4))) (lo &&& w32 (winMask o))
  let t := if s.portWritable o then (s.winWrite o (leBytes 8 v.toNat)).portTag o else s.portBusy o
  .next (if s.asleep then s else (t.event .pmap 0x06 1).portNext)

end Sys2Proof.Machine
end

