-- ==== Sys2Proof/Machine/Access.lean ====
section
/-! DEFINITION. Accesses to the board address space that may leave the device: the destination of a translation (R179,
R303), writes and their pieces, and the queue of transactions that wait for a port (R295). -/
namespace Sys2Proof.Machine

/-- Where a piece of a board range is served: here, or at another device or node. -/
inductive Site where
  | here (key : Nat)
  | there (group dev port addr : Nat)
deriving DecidableEq, Repr

/-- Where a translation of board address `a` is served (R179, R303). -/
def State.siteOf (s : State) (a : Nat) : Except Nat Place → Except Nat Site
  | .error r => .error r
  | .ok (.local st x) => .ok (.here (memKey st x))
  | .ok (.board slot) => .ok (.there s.myGroup (s.myHalf * 8 + slot) 0x3F a)
  | .ok (.remote w) =>
    let t := s.reg (.prt2 0) (0x420 + 4 * w)
    let add := s.field (.prt2 0) (0x440 + 4 * w) 18 0
    if !(bitOf t 31) then .error 0x06
    else .ok (.there (fld t 29 21) (fld t 20 17) (if bitOf t 30 then fld t 16 11 else 0x3F)
      ((a / 2 ^ 24 + add) % 2 ^ 19 * 2 ^ 24 + a % 2 ^ 24))

/-- The site of a board address for a request of context `c` that translates with a Page Map copy (R179, R180, R303). -/
def State.site (s : State) (die copy c : Nat) (k : Acc) (a : Nat) : Except Nat Site := s.siteOf a (s.translate die copy c k a)

/-- Who translates: a Ridge's memory port, through its cache, or a requester at a die, with a Page Map copy (R187). -/
inductive Walker where
  | ridge (n : Nat)
  | die (die copy : Nat)
deriving DecidableEq, Repr

/-- The entry for board address `a` is looked up: a copy is read, or a cache used and refilled where it misses (R184, R187,
R213). -/
def State.walk (s : State) (w : Walker) (a : Nat) (e : Ecc) : State :=
  match w with
  | .die d c => s.lookup d c a e
  | .ridge n =>
    if s.cached n a then s.cacheUse n (pageOf a) else (s.event (.bsn (n / 16)) 0x09 1).cacheFill n (pageOf a) e

/-- The site of a board address for a request of context `c`: a cached entry needs no copy. -/
def State.siteBy (s : State) (w : Walker) (c : Nat) (k : Acc) (a : Nat) : Except Nat Site :=
  match w with
  | .die d cp => s.site d cp c k a
  | .ridge n =>
    if s.cached n a then s.siteOf a (s.translateEntry (n / 16) c k a (s.pmapEntry (ridgeCopy n) (pageOf a)))
    else s.site (n / 16) (ridgeCopy n) c k a

/-- Pieces of a range that never cross a 2 KiB boundary (R190, R290), as (address, length, offset). -/
def pieces2k : Nat → Nat → Nat → Nat → List (Nat × Nat × Nat)
  | 0, _, _, _ => []
  | fuel + 1, a, n, o =>
    if n = 0 then []
    else
      let m := min n (2048 - a % 2048)
      (a % 2 ^ 43, m, o) :: pieces2k fuel (a + m) (n - m) (o + m)

/-- All pieces of `n` bytes at `a`. -/
def pieces (a n : Nat) : List (Nat × Nat × Nat) := pieces2k (n / 2048 + 2) a n 0

/-- A byte to write, and whether it is to be written as poisoned. -/
abbrev OutByte := Byte × Bool

/-- Bytes at an HBM key, each with the poison of its granule. -/
def State.keyBytes (s : State) (k n : Nat) : List OutByte :=
  (List.range n).map fun i => (s.hbmByte (k + i), s.granPoison ((k + i) / 64))

/-- Write bytes at a local key: a granule with a byte to be written as poisoned is poisoned whole (R204). -/
def State.putLocal (s : State) (key : Nat) (bs : List OutByte) : State :=
  let cells := (List.range bs.length).zip bs |>.map fun p => (key + p.1, p.2)
  let bad := (cells.filter fun c => c.2.2).map fun c => c.1 / 64
  let good := cells.filter fun c => !(bad.contains (c.1 / 64))
  bad.eraseDups.foldl State.poisonWrite (s.hbmPut (good.map fun c => (c.1, c.2.1)))

/-- The poisoned 64-byte slots of a write's data. -/
def badSlots (a : Nat) (bs : List OutByte) : NatSet :=
  ((List.range bs.length).zip bs).foldl (fun m p => if p.2.2 then NatSet.add ((a + p.1) / 64 - a / 64) m else m) []

/-! ### DMA descriptors, and bytes that a channel may write as well (R268, R269, R279) -/

def ddSw (d : List W32) : Nat := 2 ^ wfld d 0 26 24
def ddDw (d : List W32) : Nat := 2 ^ wfld d 0 23 21
def ddSHost (d : List W32) : Bool := wfld d 0 20 20 == 1
def ddDHost (d : List W32) : Bool := wfld d 0 19 19 == 1
def ddSHint (d : List W32) : Nat := wfld d 0 18 17
def ddDHint (d : List W32) : Nat := wfld d 0 16 15
def ddTally (d : List W32) : Nat := wfld d 1 31 20
def ddSrc (d : List W32) : Nat := wquad d 2 64
def ddDst (d : List W32) : Nat := wquad d 4 64
def ddLen (d : List W32) : Nat := (wordAt d 6).toNat
def ddSStride (d : List W32) : Nat := (wordAt d 7).toNat
def ddDStride (d : List W32) : Nat := (wordAt d 8).toNat

/-- The address of stream byte `p` on each side (R269). -/
def ddSrcAddr (d : List W32) (p : Nat) : Nat := ddSrc d + p / ddSw d * ddSStride d + p % ddSw d
def ddDstAddr (d : List W32) (p : Nat) : Nat := ddDst d + p / ddDw d * ddDStride d + p % ddDw d

/-- The last byte of a side: of its last element, or of the last whole one. -/
def lastByte (base stride w len : Nat) : Nat :=
  let n := ceilDiv len w
  let r := len - (n - 1) * w
  max (base + (n - 1) * stride + r - 1) (if 2 ≤ n then base + (n - 2) * stride + w - 1 else 0)

/-- Address `a` belongs to a side of a descriptor. -/
def inSide (base stride w len a : Nat) : Bool :=
  let o := a - base
  decide (base ≤ a) && (if stride = 0 then decide (o < min w len)
    else (List.range w).any fun i =>
      let e := o / stride - i
      decide (i ≤ o / stride) && decide (o - e * stride < w) && decide (e * w + (o - e * stride) < len))

/-- Address `a` belongs to the source, or to the destination, of a descriptor; `host` names the address space. -/
def ddReads (d : List W32) (host : Bool) (a : Nat) : Bool :=
  ddSHost d == host && inSide (ddSrc d) (ddSStride d) (ddSw d) (ddLen d) a
def ddWrites (d : List W32) (host : Bool) (a : Nat) : Bool :=
  ddDHost d == host && inSide (ddDst d) (ddDStride d) (ddDw d) (ddLen d) a

/-- Some descriptor that a channel other than `but` has accepted writes address `a` of the host's or the board's space. -/
def State.dmaDest (s : State) (but : Option Nat) (host : Bool) (a : Nat) : Bool :=
  s.dmas.any fun e => but != some e.1 && e.2.acc.any fun x => ddWrites x.words host a

/-- Bytes written at key `key` that a DMA channel may write as well, with nothing to order the two, are unpredictable (R279):
`race` tells them by their board address. -/
def State.smear (s : State) (race : Nat → Bool) (a n key : Nat) : State :=
  let hit := (List.range n).filter fun i => race ((a + i) % 2 ^ 43)
  if hit.isEmpty then s else (s.hbmPut (hit.map fun i => (key + i, Config.freeByte s.free (key + i)))).fresh

/-- A requester other than a channel writes bytes of board address `a` at a local key. -/
def State.putBoard (s : State) (a key : Nat) (bs : List OutByte) : State :=
  (s.putLocal key bs).smear (s.dmaDest none false) a bs.length key

/-- What a write to the board address space did: the state, the first translation fault, the transactions queued, the granules
used of what the access meets. -/
structure Wrote where
  s : State
  fault : Nat := 0
  faultAddr : Nat := 0
  remote : Nat := 0
  used : Nat := 0

/-- One piece of a write: translated, then written here or sent on; `e` is what the entry's check bits show. -/
def Wrote.piece (x : Wrote) (w : Walker) (c hint : Nat) (who : Who) (us : List GranUse) (a : Nat) (d : List OutByte) (e : Ecc) :
    Wrote :=
  let t := x.s.walk w a e
  match t.siteBy w c .wr a with
  | .error r => { x with s := t, fault := if x.fault = 0 then r else x.fault, faultAddr := if x.fault = 0 then a else x.faultAddr }
  | .ok (.here key) =>
    { x with s := (t.writeRange hint key d.length (us.drop x.used)).putBoard a key d
             used := x.used + (granules key d.length).length }
  | .ok (.there g dv pt y) =>
    { x with
      s := t.submit { who := who, ctx := c, kind := 1, group := g, dev := dv, port := pt, addr := y, len := d.length
                      data := d.map Prod.fst, bad := badSlots y d }
      remote := x.remote + 1 }

/-- Write bytes to board addresses for a request of context `c`, piece by piece: a piece that faults is not written
(R193), a piece of another device becomes a transaction. -/
def State.writeBoard (s : State) (w : Walker) (c a hint : Nat) (bs : List OutByte) (who : Who) (m : MemUse) : Wrote :=
  let ps := pieces a bs.length
  (List.range ps.length).foldl (fun x i =>
    let p := ps.getD i (0, 0, 0)
    x.piece w c hint who m.gran p.1 ((bs.drop p.2.2).take p.2.1) (m.pm.getD i .clean)) { s := s }

/-! ### Ranges that an engine reads or writes at once -/

/-- What is left of what an access meets once it has looked up `p` pages and used `g` granules. -/
def memRest (m : MemUse) (p g : Nat) : MemUse := { pm := m.pm.drop p, gran := m.gran.drop g }

/-- The pages and granules that an access to local pieces takes of what it meets. -/
def memAfter (m : MemUse) (a n : Nat) (l : List (Nat × Nat × Nat)) : MemUse :=
  memRest m (pageSplit (n / 2 ^ 24 + 2) a n 0).length (l.map fun p => (granules p.1 p.2.1).length).sum

/-- The entries of every page of a range are read from a copy. -/
def State.lookupRange (s : State) (die copy a n : Nat) (pm : List Ecc) : State :=
  let ps := pageSplit (n / 2 ^ 24 + 2) a n 0
  (List.range ps.length).foldl (fun t i => t.lookup die copy (ps.getD i (0, 0, 0)).1 (pm.getD i .clean)) s

/-- Local pieces, as (key, length, offset), pass through their home Basins. -/
def State.useLocal (s : State) (wr : Bool) (hint : Nat) (l : List (Nat × Nat × Nat)) (us : List GranUse) : State :=
  (l.foldl (fun (x : State × Nat) p =>
    ((if wr then x.1.writeRange hint p.1 p.2.1 (us.drop x.2) else x.1.readRange hint p.1 p.2.1 (us.drop x.2)),
      x.2 + (granules p.1 p.2.1).length)) (s, 0)).1

/-- Write bytes of board address `a` to local pieces. -/
def State.putPieces (s : State) (a : Nat) (l : List (Nat × Nat × Nat)) (bs : List OutByte) : State :=
  l.foldl (fun t p => t.putBoard ((a + p.2.2) % 2 ^ 43) p.1 ((bs.drop p.2.2).take p.2.1)) s

end Sys2Proof.Machine
end

