-- ==== Sys2Proof/Machine/Ridge.lean ====
section
/-! DEFINITION. A Ridge accepts tile ops: fences, the checks of R102 and R132, the pair rule (R84), Cairn sampling (R446,
R447), the activity ramp (R90), and how an op ends. -/
namespace Sys2Proof.Machine

/-! ### Fences (R98, R463) -/

/-- Array `a` of Ridge `n` is fenced unconditionally: `RDG.FENCE` or `CHK.UFENCE`. -/
def State.uncondFence (s : State) (n a : Nat) : Bool :=
  s.flag (.rdg n) (0x104 + 4 * (a / 32)) (a % 32) || s.flag (.chk n) (0x118 + 4 * (a / 32)) (a % 32)

/-- The temperature bin of C-die `k` (R490, R498). -/
def State.dieBin (s : State) (k : Nat) : Nat := s.field .thm 0x108 (3 * k + 2) (3 * k)

/-- A conditional fence of the array names bin `b` (R463). -/
def State.binFence (s : State) (n a b : Nat) : Bool :=
  (List.range 16).any fun k =>
    let c := s.reg (.chk n) (0x140 + 4 * k)
    bitOf c 31 && fld c 29 24 == a && bitOf c (16 + b)

/-- A conditional fence of the array names load signature `g` (R463). -/
def State.sigFence (s : State) (n a g : Nat) : Bool :=
  (List.range 16).any fun k =>
    let c := s.reg (.chk n) (0x140 + 4 * k)
    bitOf c 31 && fld c 29 24 == a && bitOf c g

/-- The array is fenced for a tile op: as the last deal saw it, or as the fences stand before any deal (R98). -/
def State.opFenced (s : State) (n a : Nat) : Bool :=
  match (s.ridge n).dealt with
  | some l => !(l.has a)
  | none => s.uncondFence n a || s.binFence n a (s.dieBin (n / 16))

/-- The 4-bit load signature of Ridge `n` at the last deal (R262, R456). -/
def State.loadSig (s : State) (n : Nat) : Nat :=
  let i := n % 16
  s.field (.die (n / 16)) (0x108 + 4 * (i / 8)) (4 * (i % 8) + 3) (4 * (i % 8))

/-! ### Refusals -/

/-- Record the first refusal of a Ridge (R107). -/
def State.rdgInfo (s : State) (n reason arr : Nat) : State :=
  if s.flag (.rdg n) 0x11C 31 then s else s.setReg (.rdg n) 0x11C (w32 (2 ^ 31 + reason * 256 + arr))

/-- Record the first refusal or chain fault of an accumulator page (R147). -/
def State.accInfo (s : State) (n reason arr : Nat) : State :=
  if s.flag (.acc n) 0x120 31 then s else s.setReg (.acc n) 0x120 (w32 (2 ^ 31 + reason * 256 + arr))

/-- The tile that a descriptor drains is due in its operation no more (R15). -/
def State.tileDone (s : State) (n : Nat) (d : Desc) : State := if tdDrain d.words then s.tileLeaves n d.op else s

/-- A tile op is refused under R102: nothing is written and no tally increments. -/
def State.tileRefuse (s : State) (n : Nat) (d : Desc) (reason : Nat) : State :=
  let t := (((s.rdgInfo n reason (tdArray d.words)).setErr (.rdg n) 0).event (.rdg n) 0x0A 1).opFault d 0x09 reason 0x21
  if reason = 8 then t.setErr .scl 0 else t

/-- A tile op is refused under R132: `fmt` says that R46 refuses the epilogue's format. -/
def State.epiRefuse (s : State) (n : Nat) (d : Desc) (reason : Nat) (fmt : Bool) : State :=
  let t := (((s.accInfo n reason (tdArray d.words)).setErr (.acc n) 0).event (.rdg n) 0x0A 1).opFault d 0x09 reason 0x21
  if fmt then t.setErr .scl 0 else t

/-- A chain tile is not loaded, or a raw output does not fit (R136, R137): the op ends in a descriptor fault. -/
def State.chainFault (s : State) (n : Nat) (d : Desc) (reason : Nat) : State :=
  ((s.accInfo n reason (tdArray d.words)).setErr (.acc n) 1).opFault d 0x09 reason 0x21

/-! ### Results that are not written yet (R16, R279) -/

/-- The Ridge has still to write board address `a` by an op whose descriptor `f` takes: a fetch op, or a drain to memory (a raw
one at most as long as a tile in Spillway form). -/
def Ridge.mayWrite (r : Ridge) (f : Desc → Bool) (a : Nat) : Bool :=
  (r.fetchOps.any fun o =>
    let d := o.desc.words
    f o.desc && fdDir d != 0 && inSide (fdMem d) (fdStride d) (fdBytes d) (fdRows d * fdBytes d) a) ||
  r.tileOps.any fun o =>
    let d := o.desc.words
    let so := opOutShape d
    let n := so.2 * (opOutFmt d o.cold).bytes
    f o.desc && tdDrain d && !(tdOutTarn d) && o.ph != .writing && o.ph != .held &&
      (if tdRaw d then inSide (tdOutAddr d) 0 (rawTotal d 2) (2 ^ 43) a
       else inSide (tdOutAddr d) (tdOutStride d) n (so.1 * n) a)

/-- Board address `a` holds results of an operation other than `op` that are still to be written. -/
def State.unwritten (s : State) (op a : Nat) : Bool :=
  s.ridges.any fun e => e.2.mayWrite (fun d => d.op != 0 && d.op != op) a

/-- What a reader that belongs to operation `op`, 0 for none, gets of the bytes `bs`, byte `i` from board address `place i`: results
that are still to be written are unpredictable (R16). -/
def State.asRead (s : State) (op : Nat) (place : Nat → Nat) (bs : List OutByte) : State × List OutByte :=
  if (List.range bs.length).any fun i => s.unwritten op (place i) then
    (s.fresh, ((List.range bs.length).zip bs).map fun p =>
      if s.unwritten op (place p.1) then (Config.freeByte s.free (place p.1), p.2.2) else p.2)
  else (s, bs)

/-! ### The epilogue record (R131, R132) -/

/-- Eight words of a core's data memory. -/
def Core.dmemWords (k : Core) (a n : Nat) : List W32 :=
  (List.range n).map fun i => w32 (leNat ((List.range 4).map fun b => Table.get (fun _ => 0) k.dmem (a + 4 * i + b)))

/-- Some data word of the range is uncorrectable (R239). -/
def Core.dmemPoison (k : Core) (a n : Nat) : Bool := (List.range n).any fun i => k.dmemBad.has ((a + 4 * i) / 8)

def epOp (e : List W32) : Nat := wfld e 0 27 26
def epFmt (e : List W32) : Nat := wfld e 0 31 28
def epShape (e : List W32) : Nat := wfld e 0 25 24
def epAddr (e : List W32) : Nat := wfld e 0 23 0
def epStride (e : List W32) : Nat := wfld e 1 31 16 * 32
def epScl (e : List W32) : Nat := wfld e 1 15 0
def epNrm (e : List W32) : Bool := wfld e 2 31 31 == 1
def epNrmIdx (e : List W32) : Nat := wfld e 2 27 16
def epNse (e : List W32) : Bool := wfld e 2 15 15 == 1
def epNseSlot (e : List W32) : Nat := wfld e 2 14 12
def epNseIdx (e : List W32) : Nat := wfld e 2 11 0
def epNs (e : List W32) : Bool := wfld e 3 0 0 == 1

/-- The bytes of an epilogue element. -/
def epSize (e : List W32) : Nat := ((Fmt.ofCode (epFmt e)).getD .fp32).bytes

/-- What is wrong with an epilogue record (R132): a reason code, or 0; the flag says that R46 refuses its format. -/
def epiOwnReason (d e : List W32) : Nat × Bool :=
  let so := opOutShape d
  let region := match epShape e with
    | 0 => regionOk (epAddr e) so.1 (epStride e) (so.2 * epSize e)
    | 1 => regionOk (epAddr e) 1 0 (so.2 * epSize e)
    | _ => regionOk (epAddr e) 1 0 (so.1 * epSize e)
  if epOp e = 3 ∨ wfld e 2 30 28 ≠ 0 ∨ wfld e 3 31 1 ≠ 0 ∨ (List.range 4).any (fun i => wordAt e (4 + i) != 0) then (1, false)
  else if epOp e = 0 then (0, false)
  else if epShape e = 3 then (1, false)
  else if !(epFmt e ∈ [0, 1, 2, 5, 6, 7]) then (2, true)
  else if !region then (3, false)
  else (0, false)

/-- The entry that a sound epilogue record names is not enabled, or of another format. -/
def State.epiEntryReason (s : State) (e : List W32) : Nat × Bool :=
  if epOp e = 0 || epNs e then (0, false)
  else if !(bitOf (s.scaleCfg (epScl e)) 0) then (4, true)
  else if fld (s.scaleCfg (epScl e)) 11 8 ≠ epFmt e then (2, true)
  else (0, false)

/-- The entry of an epilogue record lies in a poisoned granule (R543). -/
def State.epiPoison (s : State) (e : List W32) : Bool := epOp e != 0 && s.scalePoison (epNs e) (epScl e)

/-! ### The verdict on one tile op descriptor -/

/-- What acceptance finds (R102, R132, R229, R543). -/
inductive TileVerdict where
  | ok | refuse (reason : Nat) | epi (reason : Nat) (fmt : Bool) | poison (table : Bool)
deriving DecidableEq, Repr

/-- The op draws a converted output. -/
def tdConv (d : List W32) : Bool := tdDrain d && !(tdRaw d)

/-- `COLD` of the output, judged at acceptance (R72). -/
def State.tdCold (s : State) (d : List W32) : Bool := tdConv d && s.scaleCold (tdNsOut d) (tdSclOut d) && decide (tdFmtOut d < 3)

/-- The epilogue record an op names (R131); `EPI` 0 names none. -/
def State.tdEpiRec (s : State) (n : Nat) (d : List W32) : List W32 :=
  if tdEpi d = 0 then [] else (s.core (5 + n)).dmemWords (tdEpi d) 8

/-- The checks made at acceptance, but for the pair rule. -/
def State.tileVerdict (s : State) (n : Nat) (d : Desc) : TileVerdict :=
  let w := d.words
  let j := s.curSlot d.ctx false
  let a := s.scaleUse (tdNsA w) (tdSclA w) j
  let b := s.scaleUse (tdNsW w) (tdSclW w) j
  let r := s.tdJudge w a b (s.tdCold w)
  let e := s.tdEpiRec n w
  let er := epiOwnReason w e
  let en := s.epiEntryReason e
  if r = 1 ∨ r = 4 then .refuse r
  else if s.scalePoison (tdNsA w) (tdSclA w) || s.scalePoison (tdNsW w) (tdSclW w) ||
      (tdConv w && s.scalePoison (tdNsOut w) (tdSclOut w)) then .poison true
  else if r ≠ 0 then .refuse r
  else if !(tdPair w) && s.opFenced n (tdArray w) then .refuse 6
  else if tdEpi w = 0 then .ok
  else if (s.core (5 + n)).dmemPoison (tdEpi w) 8 then .poison false
  else if er.1 ≠ 0 then .epi er.1 er.2
  else if s.epiPoison e then .poison true
  else if en.1 ≠ 0 then .epi en.1 en.2
  else .ok

/-- The op that an accepted descriptor becomes: everything fixed at acceptance (R61, R72, R131, R356). -/
def State.tileOpOf (s : State) (n id : Nat) (d : Desc) : TileOp :=
  let w := d.words
  let j := s.curSlot d.ctx false
  let e := s.tdEpiRec n w
  let sc := s.screeInputs j
  { id := id, desc := d, epi := e, jslot := j, seed := sc.1, step := sc.2
    a := s.scaleUse (tdNsA w) (tdSclA w) j
    w := s.scaleUse (tdNsW w) (tdSclW w) j
    o := s.scaleUse (tdNsOut w) (tdSclOut w) none
    e := if epOp e = 0 then {} else s.scaleUse (epNs e) (epScl e) none
    cold := s.tdCold w, since := s.refcnt }

/-- A descriptor that is not accepted: its fault and its records. -/
def State.tileReject (s : State) (n : Nat) (d : Desc) (v : TileVerdict) : State :=
  let s := s.tileDone n d
  match v with
  | .ok => s
  | .refuse r => s.tileRefuse n d r
  | .epi r f => s.epiRefuse n d r f
  | .poison tb => (if tb then s.setErr .scl 3 else s).opFault d 0x0A 0 0x21

/-! ### Cairn sampling (R446 to R454) -/

/-- The tiles an op names, as they stand at acceptance. -/
def Ridge.namedTiles (r : Ridge) (d : List W32) : List Nat :=
  let t := if tdTile d = 2 then 1 - (r.arr (tdArray d)).last else tdTile d % 2
  if tdTwinA d then (if 32 < tdKlen d then [0, 1] else [t])
  else if tdTwinB d then (if 2 < tdNb d then [0, 1] else [0])
  else if tdScheme d = 1 then [0, 1] else [t]

/-- One descriptor of an eligible op (R446). -/
def Ridge.eligible (r : Ridge) (d : List W32) : Bool :=
  tdDrain d && (r.namedTiles d).all fun t => !((r.arr (tdArray d)).tile t).isOpen

/-- One step of the sampling state (R447). -/
def cairnStep (x : W32) : W32 :=
  let a := x ^^^ (x <<< 13)
  let b := a ^^^ (a >>> 17)
  b ^^^ (b <<< 5)

/-- `CHK.CFG.RATE` within its limits (R470). -/
def State.cairnRate (s : State) : Nat := max 6 (min 16 (s.field .chkG 0x100 20 16))

/-- The new sampling state samples the op (R447). -/
def State.cairnHit (s : State) (x : W32) : Bool := s.flag .chkG 0x100 31 && fld x (s.cairnRate - 1) 0 == 0

/-- Both twins of pair `j` of Ridge `n` are unfenced. -/
def State.pairFree (s : State) (n j : Nat) : Bool := !(s.opFenced n (2 * j)) && !(s.opFenced n (2 * j + 1))

/-- The Ridges of a partition that hold an unfenced pair, ascending (R448). -/
def State.cairnRidges (s : State) (p : Nat) : List Nat :=
  (List.range 64).filter fun n => s.partOfDie (n / 16) == p && (List.range 32).any (s.pairFree n)

/-- The checker and the arbiter of an op on Ridge `n` (R448): `STRIDE` 0 acts as 1. -/
def State.cairnPick (s : State) (n : Nat) : Option Nat × Option Nat :=
  let l := s.cairnRidges (s.partOfDie (n / 16))
  match l.findIdx? (· == n), l.length with
  | none, _ => (l.head?, l[1]?)
  | _, 0 => (none, none)
  | some i, len =>
    let k := (i + max 1 (s.field .chkG 0x100 29 24)) % len
    let k := if l[k]? = some n then (k + 1) % len else k
    let c := l[k]?
    if c = some n then (none, none)
    else (c, ((List.range len).map fun x => l.getD ((k + 1 + x) % len) 0).find? fun m => m != n && c != some m)

/-- The journal slot that a sampled op counts for: in COMPUTE or REDUCE (R454). -/
def State.cairnSlot (s : State) (c : Nat) : Option Nat :=
  if s.partOfCtx c ≠ s.stepOwner then none
  else if s.stepm.s0.st = .compute ∨ s.stepm.s0.st = .reduce then some 0
  else if s.stepm.s1.st = .compute ∨ s.stepm.s1.st = .reduce then some 1
  else none

/-- Add to `PENDING` of `CHK.PEND[j]` (R470). -/
def State.cairnPending (s : State) (j : Option Nat) (d : Int) : State :=
  match j with
  | none => s
  | some i => s.setField .chkG (0x108 + 4 * i) 31 16 (((s.field .chkG (0x108 + 4 * i) 31 16 : Nat) + d).toNat)

/-- The conditions of Ridge `n` (R456). -/
def State.cairnCond (s : State) (n : Nat) : CairnCond :=
  { bin := s.dieBin (n / 16), sig := s.loadSig n, mv := s.railMv (n / 16), mhz := s.ridgeMhz n }

/-- An eligible op is accepted: the sampling state advances, and the op is sampled or not (R447, R453). The flag is its
`sampled`. -/
def State.cairnAccept (s : State) (n id : Nat) (d : Desc) : State × Bool :=
  let x := cairnStep (s.reg (.chk n) 0x120)
  let t := ((s.setReg (.chk n) 0x120 x).addSat (.chk n) 0x100 1).event (.chk n) 0x02 1
  if !(t.cairnHit x) then (t, false)
  else
    let u := (t.addSat (.chk n) 0x104 1).event (.chk n) 0x03 1
    match u.cairnPick n with
    | (none, _) => ((u.addSat (.chk n) 0x108 1).event (.chk n) 0x07 1, false)
    | (some k, arb) =>
      let j := u.cairnSlot d.ctx
      let c : Check :=
        { ridge := n, op := id, arr := tdArray d.words, pair := tdPair d.words, ctx := d.ctx, jslot := j
          step := match j with | some i => (u.slot i).step | none => u.reg .step 0x10C
          chk := k, arb := arb, srcCond := u.cairnCond n, chkCond := u.cairnCond k, since := u.refcnt }
      ({ u.cairnPending j 1 with checks := u.checks ++ [c] }, true)

/-- A fifth sampled op of a Ridge waits at acceptance (R455). -/
def State.cairnWait (s : State) (n : Nat) : Bool :=
  s.cairnHit (cairnStep (s.reg (.chk n) 0x120)) && decide (4 ≤ (s.checks.filter fun c => c.ridge == n).length) &&
    (s.cairnPick n).1.isSome

/-! ### The activity ramp (R90) -/

/-- An array receives an op. -/
def Ramp.start : Ramp → Ramp
  | .stopped => .up 0
  | .hold => .running
  | .down n => .up (8 - n)
  | r => r

/-- Array `a` of a Ridge receives an op. -/
def Ridge.startArr (r : Ridge) (a : Nat) : Ridge := r.setArr a { r.arr a with ramp := (r.arr a).ramp.start }

/-- An array without a tile op left begins its hold (R90); one that loses its op during ramp-up begins to ramp down at once, with no
hold (DESIGN CHOICE, log entry 110). -/
def Ridge.idleArr (r : Ridge) (a : Nat) : Ridge :=
  if r.tileOps.any (fun o => tdArray o.desc.words == a) then r
  else match (r.arr a).ramp with
    | .running => r.setArr a { r.arr a with ramp := .hold }
    | .up n => r.setArr a { r.arr a with ramp := .down (8 - n) }
    | _ => r

/-! ### Acceptance -/

/-- A descriptor next to be accepted belongs to another context than the owner (R94). -/
def Ridge.ownerChanges (r : Ridge) : Bool :=
  r.owner != 0xFF && ((r.tileIn.head?).toList ++ (r.brookIn.head?).toList ++ (r.fetchIn.head?).toList).any fun d =>
    d.ctx != r.owner

/-- A zeroing of the Ridge is pending or running (R94, R110). -/
def Ridge.zeroPending (r : Ridge) : Bool := r.zeroing || r.quiescing || r.ownerChanges

/-- The Ridge may accept an op of context `c`: no zeroing, and its owner or nobody's (R94). -/
def Ridge.admits (r : Ridge) (c : Nat) : Bool := !r.zeroing && (r.owner == c || r.owner == 0xFF)

/-- Put an accepted op in the Ridge's list. -/
def State.pushTile (s : State) (n : Nat) (o : TileOp) : State :=
  let r := s.ridge n
  ((s.setRidge n ({ r with tileOps := r.tileOps ++ [o], owner := o.desc.ctx, nextId := o.id + 1 }.startArr
    (tdArray o.desc.words))).event (.rdg n) 0x07 1).wake (n / 16)

/-- Accept one descriptor that is not one of a pair. -/
def State.acceptTile (s : State) (n : Nat) (d : Desc) : State :=
  match s.tileVerdict n d with
  | .ok =>
    let r := s.ridge n
    let o := s.tileOpOf n r.nextId d
    if r.eligible d.words then
      let p := s.cairnAccept n r.nextId d
      p.1.pushTile n { o with sampled := p.2 }
    else s.pushTile n o
  | v => s.tileReject n d v

/-- Accept two descriptors as a pair (R84), or refuse both. -/
def State.acceptPair (s : State) (n : Nat) (d e : Desc) : State :=
  match s.tileVerdict n d, s.tileVerdict n e with
  | .ok, .ok =>
    if s.opFenced n (tdArray d.words) || s.opFenced n (tdArray e.words) then
      (s.tileReject n d (.refuse 6)).tileReject n e (.refuse 6)
    else
      let r := s.ridge n
      let i := r.nextId
      let a := s.tileOpOf n i d
      let b := s.tileOpOf n (i + 1) e
      if r.eligible d.words && r.eligible e.words then
        let p := s.cairnAccept n i d
        (p.1.pushTile n { a with sampled := p.2, mate := some (i + 1) }).pushTile n { b with sampled := p.2, mate := some i }
      else (s.pushTile n { a with mate := some (i + 1) }).pushTile n { b with mate := some i }
  | .ok, v => (s.tileReject n d (.refuse 5)).tileReject n e v
  | v, _ => (s.tileReject n d v).tileReject n e (.refuse 5)

/-- A descriptor of a pair op without its other one is refused, for a check of R102 made before that of R84, or for R84. -/
def State.rejectTwin (s : State) (n : Nat) (d : Desc) : State :=
  match s.tileVerdict n d with
  | .ok => s.tileReject n d (.refuse 5)
  | v => s.tileReject n d v

/-- Nothing can follow a descriptor any more: another kind of descriptor was issued after it, or its core has stopped (R84). -/
def State.endsAlone (s : State) (d : Desc) : Bool :=
  d.alone || match d.src with
    | .core c _ => (s.core c).st ∈ [.stopped, .halted, .faulted]
    | _ => false

/-- What an engine's read of a record in a core's data memory meets (R217, R229): `n` words from byte address `a`; a word found
uncorrectable stays bad, and so does one that was bad before. -/
def State.dmemMeets (s : State) (c a n : Nat) (e : Ecc) : State :=
  let t := match e with
    | .clean => s
    | .corrected => s.countErr (.ril c)
    | .uncorrectable => s.setCore c { s.core c with dmemBad := NatSet.add (a / 8) (s.core c).dmemBad }
  if (t.core c).dmemPoison a n then t.setErr (.ril c) 3 else t

/-- The epilogue record of a tile op descriptor is read (R131). -/
def State.epiMeets (s : State) (n : Nat) (d : Desc) (e : Ecc) : State :=
  if tdEpi d.words = 0 || tdEpi d.words % 32 ≠ 0 then s else s.dmemMeets (5 + n) (tdEpi d.words) 8 e

/-- TILE_OP_ACCEPT (R84, R99, R102): the Ridge sequencer takes the oldest tile op descriptor; a pair op takes two, or both are
refused. It waits while 64 tile ops are accepted, while the Ridge zeroes or belongs to another context, as R455 says, and for the
second of a pair while one can follow (log entry 112). `e` is what the read of its epilogue record meets (R217). -/
def execTileOpAccept (ridge : Fin 64) (e : Ecc) (s : State) : Host.Outcome State Fault Refusal :=
  let n := ridge.val
  let r := s.ridge n
  .next (match r.tileIn with
    | [] => s
    | d :: rest =>
      if !(r.admits d.ctx) || decide (64 ≤ r.tileOps.length) || (s.cairnWait n && r.eligible d.words) then s
      else if !(tdPair d.words) then ((s.setRidge n { r with tileIn := rest }).epiMeets n d e).acceptTile n d
      else match rest with
        | [] => if s.endsAlone d then ((s.setRidge n { r with tileIn := [] }).epiMeets n d e).rejectTwin n d else s
        | f :: rest2 =>
          if d.alone then ((s.setRidge n { r with tileIn := rest }).epiMeets n d e).rejectTwin n d
          else if pairOk d.words f.words && d.ctx == f.ctx then
            if 63 ≤ r.tileOps.length then s
            else ((s.setRidge n { r with tileIn := rest2 }).epiMeets n d e).acceptPair n d f
          else if tdTwinA d.words && tdTwinB f.words then
            (((s.setRidge n { r with tileIn := rest2 }).epiMeets n d e).rejectTwin n d).rejectTwin n f
          else ((s.setRidge n { r with tileIn := rest }).epiMeets n d e).rejectTwin n d)

/-! ### How a tile op ends -/

/-- The tile op with number `id`. -/
def Ridge.tileOp? (r : Ridge) (id : Nat) : Option TileOp := r.tileOps.find? fun o => o.id == id

/-- Replace a tile op. -/
def Ridge.putTile (r : Ridge) (o : TileOp) : Ridge :=
  { r with tileOps := r.tileOps.map fun x => if x.id = o.id then o else x }

/-- Remove a tile op. -/
def Ridge.dropTile (r : Ridge) (o : TileOp) : Ridge :=
  { r with tileOps := r.tileOps.filter fun x => x.id != o.id }.idleArr (tdArray o.desc.words)

/-- The op has written its results: its tally increments, unless a Cairn check holds it (R451) or a write faulted. -/
def State.finishTile (s : State) (n : Nat) (o : TileOp) : State :=
  let r := s.ridge n
  if o.remote ≠ 0 then s.setRidge n (r.putTile { o with ph := .writing })
  else if o.sampled then s.setRidge n (r.putTile { o with ph := .held, heldAt := s.refcnt })
  else
    let t := s.setRidge n (r.dropTile o)
    if o.xfault then t else t.opTally (tdTally o.desc.words) o.desc.ctx

/-- A Cairn check that is not over is abandoned (R453). -/
def State.abandonCheck (s : State) (c : Check) : State :=
  let t := { s with checks := s.checks.filter fun x => x != c }
  ((t.cairnPending c.jslot (-1)).addSat (.chk c.ridge) 0x108 1).event (.chk c.ridge) 0x07 1

/-- The op of a check, and its mate of a pair, hold their tally no longer (R451); the counts that it was held are event 0x06. -/
def State.checkRelease (s : State) (c : Check) : State :=
  ((s.ridge c.ridge).tileOps.filter fun o => o.id == c.op || o.mate == some c.op).foldl (fun t o =>
    let o1 := { o with sampled := false }
    let u := t.setRidge c.ridge ((t.ridge c.ridge).putTile o1)
    if o.ph = .held then (u.event (.chk c.ridge) 0x06 (u.refcnt - o.heldAt).toNat).finishTile c.ridge o1 else u) s

/-- A sample is abandoned; it releases the tally (R453). -/
def State.abandonSample (s : State) (c : Check) : State := (s.abandonCheck c).checkRelease c

/-- An op ends without completing: its Cairn check is abandoned and holds the mate's tally no longer, it is removed; a tile
that it was to pass through its array is due no more. -/
def State.endTile (s : State) (n : Nat) (o : TileOp) : State :=
  let s := if o.ph = .accepted ∨ o.ph = .atArray then s.tileDone n o.desc else s
  match s.checks.find? fun c => c.ridge == n && (c.op == o.id || o.mate == some c.op) with
  | some c =>
    let t := s.abandonCheck c
    (t.setRidge n ((t.ridge n).dropTile o)).checkRelease c
  | none => s.setRidge n ((s.ridge n).dropTile o)

/-- The poison fault of an op, raised once (R204). -/
def State.tilePoisonFault (s : State) (n id : Nat) : State :=
  match (s.ridge n).tileOp? id with
  | some o =>
    if o.faulted then s
    else (s.setRidge n ((s.ridge n).putTile { o with faulted := true })).opFault o.desc 0x0A 0 0x21
  | none => s

end Sys2Proof.Machine
end

