-- ==== Sys2Proof/Machine/Array.lean ====
section
/-! DEFINITION. An array: a tile op reaches it (R103), its chain tiles (R136, R137), its passes (R78 to R89), its ramp
(R90); the Tarn's zeroing (R94) and scrubbing (R95). -/
namespace Sys2Proof.Machine

/-! ### Errors of Tarn reads (R95) -/

/-- Record the first uncorrectable Tarn word (R110). -/
def State.tarnUe (s : State) (n word bit : Nat) : State :=
  let t := s.setRidge n ((s.ridge n).tarnMark word)
  let u := if t.flag (.trn n) 0x104 31 then t else t.setReg (.trn n) 0x104 (w32 (2 ^ 31 + word * 32))
  u.setErr (.trn n) bit

/-- A corrected Tarn error: counted, and the last one kept (R110). -/
def State.tarnCe (s : State) (n word : Nat) : State :=
  ((s.countErr (.trn n)).setReg (.trn n) 0x108 (w32 (2 ^ 31 + word * 32))).event (.trn n) 0x06 1

/-- What a read of the Tarn met. -/
def State.tarnErr (s : State) (n : Nat) (e : TarnErr) : State :=
  match e with
  | .good => s
  | .corrected w => s.tarnCe n w.toNat
  | .ue w => if w.toNat * 32 < tarnSize then s.tarnUe n w.toNat 0 else s

/-! ### Chain tiles (R136, R137) -/

/-- The header of a raw tile. -/
structure ChainHdr where
  form : Nat
  rows : Nat
  cols : Nat
  count : Nat
  flags : Nat
  shift : Int
  kblk : Nat
deriving DecidableEq, Repr

/-- The header in sixteen words. -/
def ChainHdr.ofWords (w : List W32) : ChainHdr :=
  { form := wfld w 0 31 28, rows := wfld w 0 27 21, cols := wfld w 0 20 15, count := wfld w 1 31 16
    flags := wfld w 1 3 0, shift := signedOf 9 (wfld w 2 8 0), kblk := (wordAt w 3).toNat }

/-- The words of a header. -/
def ChainHdr.words (h : ChainHdr) : List W32 :=
  [w32 (h.form * 2 ^ 28 + h.rows * 2 ^ 21 + h.cols * 2 ^ 15), w32 (h.count * 2 ^ 16 + h.flags),
   w32 (h.shift % 512).toNat, w32 h.kblk] ++ List.replicate 12 0

/-- The bytes of an entry in a form. -/
def formBytes (form : Nat) : Nat := if form = 1 then 16 else if form = 2 then 32 else 4

/-- An entry from its bytes in a form. -/
def entryOfNat (form x : Nat) : Entry :=
  match form with
  | 1 => let c := x / 2 ^ 80 % 4; { v := if c = 0 then signedOf 80 x else 0, cls := c }
  | 2 => let c := x / 2 ^ 128 % 4; { v := if c = 0 then signedOf 128 x else 0, cls := c }
  | _ => { v := (x % 2 ^ 32 : Nat) }

/-- The bytes of an entry in a form. -/
def entryBytes (form : Nat) (e : Entry) : List Byte :=
  match form with
  | 1 => leBytes 16 ((e.v % 2 ^ 80).toNat + e.cls * 2 ^ 80)
  | 2 => leBytes 32 ((e.v % 2 ^ 128).toNat + e.cls * 2 ^ 128)
  | _ => leBytes 4 e.v.toNat

/-- The tile flags as the code of R136. -/
def TFlags.code (f : TFlags) : Nat := f.sat.toNat + 2 * f.nan.toNat + 4 * f.inf.toNat + 8 * f.poison.toNat

/-- Flags OR-ed with a code. -/
def TFlags.orCode (f : TFlags) (c : Nat) : TFlags :=
  { sat := f.sat || c.testBit 0, nan := f.nan || c.testBit 1, inf := f.inf || c.testBit 2
    poison := f.poison || c.testBit 3 }

/-- The header of the chain tile at a Tarn address. -/
def Ridge.chainHdr (r : Ridge) (a : Nat) : ChainHdr := ChainHdr.ofWords (leWords (r.tarnRead a 64) 16)

/-- Why a chain tile is not loaded: the code of R147, or 0. -/
def Ridge.chainReason (r : Ridge) (a : Nat) (fp : Bool) (rows cols : Nat) : Nat :=
  let h := r.chainHdr a
  if !(h.form ∈ [1, 2, 3]) ∨ (h.form == 3) ≠ fp then 5
  else if h.rows ≠ rows ∨ h.cols ≠ cols then 6
  else if tarnSize < a + rawSize h.form (rows * cols) then 7
  else 0

/-- Entry number `i` of the chain tile, and whether it is poisoned. -/
def Ridge.chainEntry (r : Ridge) (a form i : Nat) : Entry × Bool :=
  let b := a + 64 + i * formBytes form
  (entryOfNat form (r.tarnNat b (formBytes form)), r.tarnPoison b (formBytes form))

/-- The entries of a chain tile by tile key, each changed by `f`, which tells whether it clamped. -/
def Ridge.chainEntries (r : Ridge) (a form rows cols : Nat) (f : Entry → Entry × Bool) : Table Entry × Bool × NatSet :=
  (List.range (rows * cols)).foldl (fun acc i =>
    let e := r.chainEntry a form i
    let g := f e.1
    let k := i / cols * 32 + i % cols
    (Table.set (fun _ => {}) acc.1 k g.1, acc.2.1 || g.2, if e.2 then NatSet.add k acc.2.2 else acc.2.2)) ([], false, [])

/-- The chain tile of an op at a Tarn address, as address and length. -/
def Ridge.chainSpan (r : Ridge) (o : TileOp) (a rows : Nat) : Nat × Nat :=
  (a, rawSize (r.chainHdr a).form (rows * tdCols o.desc.words))

/-- What a preload comes to. -/
inductive Load where
  | ok (t : Tile) (bad : Bool)
  | fault (reason : Nat)
  | wait
deriving DecidableEq, Repr

/-- `SHIFT` of an op (R128). -/
def TileOp.shift (o : TileOp) : Int := o.a.expo + o.w.expo

/-- The flags and the poison that a chain tile brings. -/
def Tile.joinChain (t : Tile) (h : ChainHdr) (sat : Bool) (bad : NatSet) (hdrBad : Bool) : Tile :=
  let f := t.flags.orCode h.flags
  { t with flags := (t.ent ++ t.spill).foldl (fun f e => f.see e.2.cls) { f with sat := f.sat || sat }, poisoned := bad.foldl (fun m k => NatSet.add k m) t.poisoned
           allPoison := t.allPoison || hdrBad }

/-- An FP32 chain value brought to another `SHIFT` (R137). -/
def fpShift (nonsat : Bool) (k : Int) (e : Entry) : Entry × Bool :=
  let c := accRound nonsat ((fp32Val (w32 e.v.toNat)).scale k)
  ({ v := (c.1 : Int) }, c.2)

/-- Preload a fresh tile from the chain tile at `a` (R137). -/
def State.loadTile (s : State) (n : Nat) (o : TileOp) (t : Tile) (a rows : Nat) : Load :=
  let r := s.ridge n
  let cols := tdCols o.desc.words
  let reason := r.chainReason a t.fp rows cols
  let h := r.chainHdr a
  let hb := r.tarnPoison a 64
  if reason ≠ 0 then .fault reason
  else if t.fp then
    let x := r.chainEntries a 3 rows cols (fpShift o.o.nonsat (h.shift - o.shift))
    .ok ({ t with ent := x.1 }.joinChain h x.2.1 x.2.2 hb) (hb || !x.2.2.isEmpty)
  else if h.form = 1 ∧ h.shift = o.shift then
    let x := r.chainEntries a 1 rows cols fun e => (e, false)
    .ok ({ t with ent := x.1, count := h.count }.joinChain h false x.2.2 hb) (hb || !x.2.2.isEmpty)
  else match s.freeSlot n with
    | none => .wait
    | some slot =>
      let k := o.shift - h.shift
      let x := r.chainEntries a h.form rows cols (if 0 < k then entShift k.toNat else fun e => (e, false))
      .ok ({ t with spill := x.1, slot := some slot, shift := if k < 0 then some h.shift else none }.joinChain
        h x.2.1 x.2.2 hb) (hb || !x.2.2.isEmpty)

/-! ### An op reaches its array (R103) -/

/-- The op accumulates in FP32 form. -/
def TileOp.fp (o : TileOp) : Bool := fpProducts (effFmt (tdFmtA o.desc.words) o.a) (effFmt (tdFmtW o.desc.words) o.w)

/-- The preload is made at the drain (R138). -/
def TileOp.late (o : TileOp) : Bool := tdAccIn o.desc.words && epNse o.epi && tdDrain o.desc.words

/-- The tiles an op uses, once `TILE` is resolved to `t`. -/
def TileOp.tiles (o : TileOp) (t : Nat) : List Nat :=
  let d := o.desc.words
  if tdTwinA d then (if 32 < tdKlen d then [t, 1 - t] else [t])
  else if tdTwinB d then (if 2 < tdNb d then [0, 1] else [0])
  else if tdScheme d = 1 then [0, 1] else [t]

/-- The rows of tile `t` that an op adds to; the `ROWS` of a twin B is ignored, since `NB` gives them (DESIGN CHOICE, log entry 109). -/
def TileOp.rowsOf (o : TileOp) (t : Nat) : Nat :=
  let d := o.desc.words
  if tdTwinA d then 32 else if tdTwinB d then min 64 (32 * tdNb d - 64 * t) else tdRows d

/-- The tile an op names, `TILE` 0b10 resolved by the array's record. -/
def Ridge.tileOf (r : Ridge) (o : TileOp) : Nat :=
  if tdTile o.desc.words = 2 then 1 - (r.arr (tdArray o.desc.words)).last else tdTile o.desc.words % 2

/-- The array's record of the tile used last. -/
def TileOp.lastTile (o : TileOp) (t : Nat) : Nat := if tdScheme o.desc.words = 1 && !(tdPair o.desc.words) then 1 else t

/-- The tile state breaks R103. -/
def TileOp.stateBad (o : TileOp) (t : Tile) : Bool :=
  t.isOpen && (tdAccIn o.desc.words || t.scheme != tdScheme o.desc.words || t.tmode != tdTmode o.desc.words ||
    t.cols != tdCols o.desc.words || t.fp != o.fp)

/-- A closed tile as an op opens it. -/
def TileOp.fresh (o : TileOp) : Tile :=
  { isOpen := !(tdDrain o.desc.words), fp := o.fp, scheme := tdScheme o.desc.words, tmode := tdTmode o.desc.words
    cols := tdCols o.desc.words }

/-! ### Unordered accesses to the Tarn (R96, R121) -/

/-- The parts of the Tarn that an op reads: its operands, scales, chain tiles and epilogue elements (R92, R131, R136). -/
def Ridge.readsOf (r : Ridge) (o : TileOp) : List (Nat × Nat) :=
  let d := o.desc.words
  let sa := opAShape d
  let sw := opWShape d
  let so := opOutShape d
  let n := epSize o.epi
  spansOf (tdAAddr d) sa.1 (tdAStride d) (sa.2 * opSizeA d o.a) ++
  (if opPacked d then spansOf (tdWAddr d) sw.1 (tdWStride d) (ceilDiv sw.2 2) ++
      spansOf (tdSAddr d) sw.1 (tdWStride d / 16) (ceilDiv sw.2 32)
    else spansOf (tdWAddr d) sw.1 (tdWStride d) (sw.2 * opSizeW d o.w)) ++
  (if tdAccIn d then [(tdChain d, rawTotal d (r.chainHdr (tdChain d)).form)] else []) ++
  (if epOp o.epi = 0 then [] else match epShape o.epi with
    | 0 => spansOf (epAddr o.epi) so.1 (epStride o.epi) (so.2 * n)
    | 1 => [(epAddr o.epi, so.2 * n)]
    | _ => [(epAddr o.epi, so.1 * n)])

/-- The parts of the Tarn that an op has still to write. -/
def Ridge.writesOf (r : Ridge) (o : TileOp) : List (Nat × Nat) :=
  let d := o.desc.words
  let so := opOutShape d
  if !(tdDrain d && tdOutTarn d) || o.ph == .writing || o.ph == .held then []
  else if tdRaw d then
    let form := if o.fp then 3
      else if (o.tiles o.tile).any fun t => ((r.arr (tdArray d)).tile t).slot.isSome then 2 else 1
    [(tdOutAddr d % 2 ^ 24, rawTotal d form)]
  else spansOf (tdOutAddr d % 2 ^ 24) so.1 (tdOutStride d) (so.2 * (opOutFmt d o.cold).bytes)

/-- The sums of the op are unpredictable: a fetch, a Brook op or a tile op that is not over writes what it reads (R96), it reads a
spill slot, `SPILL_CTL` or a slot was written under the Ridge's open tiles (R121), or the Ridge itself is astray (R18, R42). Of
its own writes and its mate's, those of a twin A come before later reads of the pair. -/
def State.opRaces (s : State) (n : Nat) (o : TileOp) : Bool :=
  let r := s.ridge n
  r.spoiled || s.ridgeAstray n || spansMeet (r.readsOf o) ((r.fetchOps.flatMap fun f => fetchSpans f.desc.words) ++
    (r.brookOps.flatMap fun b => b.pendingSpans) ++
    ((r.tileOps.filter fun x => x.id != o.id && o.mate != some x.id || tdTwinA x.desc.words).flatMap r.writesOf) ++
    s.tarnSlots n)

/-- The sums of a tile become unpredictable where `b`. -/
def Tile.loosen (t : Tile) (b : Bool) : Tile := { t with loose := t.loose || b }

/-- A preload from a region that is being written. -/
def Load.loosen (l : Load) (b : Bool) : Load := match l with | .ok t bad => .ok (t.loosen b) bad | x => x

/-- The sums of an op's tiles become unpredictable where `b`. -/
def State.loosen (s : State) (n : Nat) (o : TileOp) (b : Bool) : State :=
  if b then (o.tiles o.tile).foldl (fun t i =>
    let r := t.ridge n
    t.setRidge n (r.setArr (tdArray o.desc.words) ((r.arr (tdArray o.desc.words)).setTile i
      (((r.arr (tdArray o.desc.words)).tile i).loosen true)))) s
  else s

/-- The op waits for an earlier op of its array: one not yet through its passes, or one whose drain holds a tile. -/
def Ridge.blockedBy (r : Ridge) (o : TileOp) (t : Nat) : Bool :=
  (r.tileOps.takeWhile fun x => x.id != o.id).any fun x =>
    tdArray x.desc.words == tdArray o.desc.words &&
      match x.ph with
      | .accepted | .atArray => true
      | .passed => (x.tiles x.tile).any fun u => (o.tiles t).contains u
      | .writing | .held => false

/-- The pair of array `a` of Ridge `n` is borrowed by a Cairn check (R449). -/
def State.borrowed (s : State) (n a : Nat) : Bool :=
  s.checks.any fun c => (c.ph == .recompute && c.checker == some (n, a / 2 * 2)) ||
    (c.ph == .arbitrate && c.arbiter == some (n, a / 2 * 2))

/-- The array can take the op now. -/
def State.arrReady (s : State) (n : Nat) (o : TileOp) : Bool :=
  let r := s.ridge n
  (r.arr (tdArray o.desc.words)).ramp == .running && !(r.blockedBy o (r.tileOf o)) &&
    !(s.borrowed n (tdArray o.desc.words))

/-- A tile that the op takes at its array: continued if open, else fresh and preloaded. -/
def State.takeTile (s : State) (n : Nat) (o : TileOp) (t a : Nat) : Load :=
  let u := ((s.ridge n).arr (tdArray o.desc.words)).tile t
  if u.isOpen then .ok { u with isOpen := !(tdDrain o.desc.words) || u.isOpen } false
  else if tdAccIn o.desc.words && !o.late then (s.loadTile n o o.fresh a (o.rowsOf t)).loosen (s.opRaces n o)
  else .ok o.fresh false

/-- Store a tile of an op's array. -/
def State.putArrTile (s : State) (n arr t : Nat) (u : Tile) : State :=
  let r := s.ridge n
  s.setRidge n (r.setArr arr ((r.arr arr).setTile t u))

/-- A feeder consumed poison: recorded, and the op's context takes a poison fault (R95, R204). -/
def State.feedPoison (s : State) (n id : Nat) : State := (s.setErr (.rdg n) 1).tilePoisonFault n id

/-- The op takes its tiles one after another, from the chain tile at `a` on; none while a spill slot is missing. -/
def State.takeTiles (s : State) (n : Nat) (o : TileOp) : List Nat → Nat → Option (State × Nat)
  | [], _ => some (s, 0)
  | t :: ts, a =>
    match s.takeTile n o t a with
    | .wait => none
    | .fault r => some (s, r)
    | .ok u bad =>
      let s1 := s.putArrTile n (tdArray o.desc.words) t u
      let s2 := if tdAccIn o.desc.words && !o.late then
        (s1.event (.acc n) 0x0A 1).tarnReads n [((s.ridge n).chainSpan o a (o.rowsOf t))] else s1
      let s3 := if bad then s2.feedPoison n o.id else s2
      s3.takeTiles n o ts (a + rawSize ((s.ridge n).chainHdr a).form (o.rowsOf t * tdCols o.desc.words))

/-- The op begins at its array: its record, and its tiles but for a twin A, which takes one tile a block. An op whose chain tile is
then not loaded has been the last on its array all the same (R103: DESIGN CHOICE, log entry 109). -/
def State.beginOp (s : State) (n : Nat) (o : TileOp) : Option State :=
  let r := s.ridge n
  let t := r.tileOf o
  let arr := tdArray o.desc.words
  let o1 := { o with ph := .atArray, tile := t }
  let s1 := s.setRidge n ((r.putTile o1).setArr arr { r.arr arr with last := o.lastTile t })
  if tdTwinA o.desc.words then some s1
  else match s1.takeTiles n o1 (o1.tiles t) (tdChain o.desc.words) with
    | none => none
    | some (s2, 0) => some s2
    | some (_, r) => some ((s1.chainFault n o.desc r).endTile n o1)

/-- The state of the tiles refuses the op. -/
def Ridge.stateRefused (r : Ridge) (o : TileOp) : Bool :=
  (o.tiles (r.tileOf o)).any fun t => o.stateBad ((r.arr (tdArray o.desc.words)).tile t)

/-- TILE_OP_REACH_ARRAY (R103, R137): the oldest op of the array that has not begun takes its tiles, or is refused; the two
ops of a pair begin together. `tarn` is what the read of a chain tile meets (R95). -/
def execTileOpReachArray (ridge array : Fin 64) (tarn : TarnErr) (s : State) : Host.Outcome State Fault Refusal :=
  let n := ridge.val
  .next (match (s.ridge n).tileOps.find? fun o => tdArray o.desc.words == array.val && o.ph == .accepted with
    | none => s
    | some o =>
      let s := if tdAccIn o.desc.words && !o.late && !(tdTwinA o.desc.words) then s.tarnErr n tarn else s
      let r := s.ridge n
      match o.mate.bind r.tileOp? with
      | none =>
        if !(s.arrReady n o) then s
        else if r.stateRefused o then (s.tileRefuse n o.desc 7).endTile n o
        else (s.beginOp n o).getD s
      | some m =>
        let a := if tdTwinA o.desc.words then o else m
        let b := if tdTwinA o.desc.words then m else o
        if !(s.arrReady n a) || !(s.arrReady n b) then s
        else if r.stateRefused a || r.stateRefused b then
          (((s.tileRefuse n a.desc 7).tileRefuse n b.desc 7).endTile n a).endTile n b
        else ((s.beginOp n a).bind fun t => t.beginOp n b).getD s)

/-! ### Passes -/

/-- Poison a tile of an array. -/
def State.poisonTile (s : State) (n arr t : Nat) : State :=
  let u := ((s.ridge n).arr arr).tile t
  s.putArrTile n arr t { u with allPoison := true, flags := { u.flags with poison := true } }

/-- A tile is poisoned by an error of the accumulator's own memory, `bit` of `ACC.ERR_STAT` (R114, R124): the op's context takes a
poison fault and the step aborts. -/
def State.accPoison (s : State) (n id arr t bit : Nat) : State :=
  (((s.poisonTile n arr t).setErr (.acc n) bit).tilePoisonFault n id).stepAbort 0x04

/-- The place of a Tarn slot (R120): 32 KiB, two entries to a word (log entry 111). -/
def State.slotAddr (s : State) (n k : Nat) : Nat := s.field (.acc n) 0x104 23 5 * 32 + (k - 16) * 32768

/-- The entries of a tile whose Tarn slot holds them in a poisoned word (R95, R124). -/
def State.slotBad (s : State) (n : Nat) (u : Tile) : NatSet :=
  match u.slot with
  | some k =>
    if k < 16 then []
    else
      let w := s.slotAddr n k / 32
      ((s.ridge n).tarnBad.filter fun x => w ≤ x && decide (x < w + 1024)).flatMap fun x => [2 * (x - w), 2 * (x - w) + 1]
  | none => []

/-- A tile reads its Tarn slot: entries in a poisoned word are poisoned, as for a feeder's read (R95, R124). -/
def State.readSlot (s : State) (n id arr t : Nat) : State :=
  let u := ((s.ridge n).arr arr).tile t
  let b := s.slotBad n u
  if b.isEmpty then s
  else (s.putArrTile n arr t { u with poisoned := b.foldl (fun m k => NatSet.add k m) u.poisoned }).feedPoison n id

/-- What the check bits of a spill slot show (R124): those of a Spillway slot; a Tarn slot has the Tarn's (R95). -/
def State.slotErr (s : State) (n id arr t : Nat) (acc : AccErr) : State :=
  match (((s.ridge n).arr arr).tile t).slot with
  | none => s
  | some k =>
    if k < 16 then
      match acc with
      | .spillCorrected => s.countErr (.acc n)
      | .spillUncorrectable => s.accPoison n id arr t 2
      | _ => s
    else s.readSlot n id arr t

/-- Spill a tile of array `arr` if the next pass would exceed the interval (R118); none while no slot is free (R120). -/
def State.spillTile (s : State) (n id arr t : Nat) (acc : AccErr) : Option State :=
  let u := ((s.ridge n).arr arr).tile t
  if u.fp || decide (u.count + 32 ≤ s.spillInterval n) then some s
  else
    match (match u.slot with | some k => some k | none => s.freeSlot n) with
    | none => none
    | some k =>
      let s1 := s.putArrTile n arr t { u.spillInto with slot := some k }
      if k < 16 then some ((s1.event (.acc n) 0x04 1).slotErr n id arr t acc)
      else
        let a := [(s.slotAddr n k, 32768)]
        let s2 := ((s1.event (.acc n) 0x05 1).tarnReads n a).tarnWrites n a
        if u.slot.isSome then some (s2.readSlot n id arr t)
        else some (s2.setRidge n ((s2.ridge n).tarnClear (s.slotAddr n k) 32768))

/-- The weight-parity outcome of a pass (R82): the flag says that the pass adds its contribution. -/
def State.passParity (s : State) (n id arr t : Nat) (p : PassParity) : State × Bool :=
  match p with
  | .good => (s, true)
  | .once => ((s.countErr (.rdg n)).event (.rdg n) 0x0B 1, true)
  | .twice =>
    (((((s.countErr (.rdg n)).poisonTile n arr t).setErr (.rdg n) 2).tilePoisonFault n id).stepAbort 0x04, false)

/-- The power of two that an op's products are multiplied by after a chain of larger `SHIFT` (R137). -/
def TileOp.mulShift (o : TileOp) (t : Tile) : Nat := match t.shift with | some c => (c - o.shift).toNat | none => 0

/-- A 4-bit expansion of the pass left its range (R53, R54). -/
def State.blkRange (s : State) (o : TileOp) : State :=
  let t := s.setErr .scl 1
  match o.w.entry, o.jslot with
  | some i, some j => t.setScaleBit i j (4 + j)
  | _, _ => t

/-- The registers of an array's cells as a pass finds them (R76, R80, R81): the shadow registers take the weights that it brings,
and each cell copies its shadow register into its active one. -/
def Arr.swap (a : Arr) (p : Pass) : Arr := if p.load then { a with shadow := p.shadow, active := p.shadow } else a

/-- One pass of an op on its array (R78, R80, R81, R82, R114, R118), at cadence 2 or not; none while a spill slot is missing. -/
def State.runPass (s : State) (n : Nat) (o : TileOp) (p : Pass) (kfirst two : Bool) (par : PassParity) (acc : AccErr) :
    Option State :=
  let arr := tdArray o.desc.words
  (s.spillTile n o.id arr p.tile acc).map fun s0 =>
    let r := s0.ridge n
    let x := (r.arr arr).swap p
    let s1 := s0.setRidge n (r.setArr arr x)
    let p := p.using x.active
    let q := s1.passParity n o.id arr p.tile par
    let u := ((q.1.ridge n).arr arr).tile p.tile
    let u1 := if q.2 then u.addPass p o.o.nonsat (o.mulShift u) else u
    let u2 := { u1 with kblk := if kfirst then min (u1.kblk + 1) (2 ^ 32 - 1) else u1.kblk }
    let s2 := q.1.putArrTile n arr p.tile u2
    let s3 := match acc with
      | .entryParity => s2.accPoison n o.id arr p.tile 3
      | _ => s2
    let s4 := if (List.range p.rows).any p.rowBad || (List.range p.cols).any p.colBad then s3.feedPoison n o.id else s3
    let s5 := if p.rangeBad then s4.blkRange o else s4
    let s6 := ((s5.event (.rdg n) 0x02 1).event (.rdg n) 0x09 two.toNat).tarnReads n p.reads
    match (s6.ridge n).tileOp? o.id with
    | some x => s6.setRidge n ((s6.ridge n).putTile { x with made := x.made + 1 })
    | none => s6

/-- An op that has made all its passes waits for its drain, or completes (R103). -/
def State.endPasses (s : State) (n id : Nat) : State :=
  match (s.ridge n).tileOp? id with
  | none => s
  | some o =>
    if o.made < opPasses o.desc.words then s
    else if tdDrain o.desc.words then (s.setRidge n ((s.ridge n).putTile { o with ph := .passed })).tileDone n o.desc
    else s.finishTile n o

/-- The twin A of a pair takes the tile of block `i` before its first pass (R86); the raw tiles of its chain stand as far apart as the
form in the first one's header says (DESIGN CHOICE, log entry 109). -/
def State.blockTile (s : State) (n : Nat) (a : TileOp) : Option State :=
  let d := a.desc.words
  let i := a.made / tdNb d
  if a.made % tdNb d ≠ 0 then some s
  else if a.blocks + 2 ≤ i then none
  else
    let t := (a.tile + i) % 2
    let at_ := tdChain d + i * rawSize ((s.ridge n).chainHdr (tdChain d)).form (32 * tdCols d)
    match s.takeTile n a t at_ with
    | .wait => none
    | .fault r => some ((s.chainFault n a.desc r).endTile n a)
    | .ok u bad =>
      let s1 := s.putArrTile n (tdArray d) t u
      let s2 := if tdAccIn d && !a.late then (s1.event (.acc n) 0x0A 1).tarnReads n [((s.ridge n).chainSpan a at_ 32)] else s1
      some (if bad then s2.feedPoison n a.id else s2)

/-- The next pass of an op that is not one of a pair. -/
def State.singlePass (s : State) (n : Nat) (o : TileOp) (par : PassParity) (acc : AccErr) : Option State :=
  let sp := schemePasses (tdScheme o.desc.words)
  let q := o.made % sp
  (s.runPass n o ((s.ridge n).passOf o o.made) (q == 0 || (tdScheme o.desc.words == 1 && q == 2)) o.fp par acc).map
    fun t => (t.loosen n o (s.opRaces n o)).endPasses n o.id

/-- The next staged block of a pair (R85): twin A, if it still runs, then twin B; the errors strike array `arr`, and
both run at cadence 2 if either forms 16-bit products (R87). -/
def State.pairBlock (s : State) (n arr : Nat) (a b : Option TileOp) (par : PassParity) (acc : AccErr) : Option State :=
  let err (o : TileOp) : PassParity × AccErr := if tdArray o.desc.words = arr then (par, acc) else (.good, .good)
  let two := (a.map TileOp.fp).getD false || (b.map TileOp.fp).getD false
  let s1 := match a with
    | none => some s
    | some a =>
      (s.blockTile n a).bind fun t =>
        match (t.ridge n).tileOp? a.id with
        | none => some t
        | some a1 => t.runPass n a1 ((t.ridge n).pairPass a1 a1.made true) true two (err a1).1 (err a1).2
  let s2 := s1.bind fun t => match b with
    | none => some t
    | some b =>
      t.runPass n b ((t.ridge n).pairPass b b.made a.isNone) (b.made % tdNb b.desc.words % 2 == 0) two (err b).1 (err b).2
  s2.map fun t =>
    let u := match a with | some a => (t.loosen n a (s.opRaces n a)).endPasses n a.id | none => t
    match b with | some b => (u.loosen n b (s.opRaces n b)).endPasses n b.id | none => u

/-- ARRAY_PASS (R76 to R89, R118): the array makes the next pass of its op; a pair makes the next staged block. -/
def execArrayPass (ridge array : Fin 64) (parity : PassParity) (acc : AccErr) (tarn : TarnErr) (s : State) :
    Host.Outcome State Fault Refusal :=
  let n := ridge.val
  .next (match (s.ridge n).tileOps.find? fun o => tdArray o.desc.words == array.val && o.ph == .atArray with
    | none => s
    | some o =>
      let t := s.tarnErr n tarn
      if !(tdPair o.desc.words) then (t.singlePass n o parity acc).getD s
      else
        let m := (o.mate.bind (s.ridge n).tileOp?).filter fun x => x.ph == .atArray
        let a := if tdTwinA o.desc.words then some o else m
        let b := if tdTwinA o.desc.words then m else some o
        (t.pairBlock n array.val a b parity acc).getD s)

/-! ### The ramp (R90) -/

/-- Array `a` has an accepted op. -/
def Ridge.hasOp (r : Ridge) (a : Nat) : Bool := r.tileOps.any fun o => tdArray o.desc.words == a

/-- ARRAY_RAMP_STEP: one of the eight steps in which columns are enabled, or disabled. -/
def execArrayRampStep (ridge array : Fin 64) (s : State) : Host.Outcome State Fault Refusal :=
  let n := ridge.val
  let r := s.ridge n
  let x := r.arr array.val
  let next := match x.ramp with
    | .up k => if k + 1 < 8 then Ramp.up (k + 1) else if r.hasOp array.val then .running else .hold
    | .down k => if k + 1 < 8 then Ramp.down (k + 1) else .stopped
    | y => y
  .next (s.setRidge n (r.setArr array.val { x with ramp := next }))

/-- ARRAY_HOLD_EXPIRE: the hold ends and the columns are disabled again. -/
def execArrayHoldExpire (ridge array : Fin 64) (s : State) : Host.Outcome State Fault Refusal :=
  let n := ridge.val
  let r := s.ridge n
  let x := r.arr array.val
  .next (if x.ramp = .hold then s.setRidge n (r.setArr array.val { x with ramp := .down 0 }) else s)

/-! ### Zeroing and scrubbing (R94, R95) -/

/-- Zero the Tarn, both tiles of every array, the Spillway and the staging tiles (R94). -/
def Ridge.zeroed (r : Ridge) : Ridge :=
  { r with tarn := [], tarnBad := [], arrs := r.arrs.map fun e => (e.1, { e.2 with t0 := {}, t1 := {}, last := 1 })
           owner := 0xFF, zeroing := false, spoiled := false }

/-- The arrays of the table that differ from an idle one. -/
def Ridge.tidy (r : Ridge) : Ridge := { r with arrs := r.arrs.filter fun e => e.2 != ({} : Arr) }

/-- TARN_ZEROING_START: a descriptor of another context waits, or the Ridge is asked to quiesce (R417), and no op of the owner
is left. -/
def execTarnZeroingStart (ridge : Fin 64) (s : State) : Host.Outcome State Fault Refusal :=
  let n := ridge.val
  let r := s.ridge n
  .next (if !r.zeroing && (r.quiescing || r.ownerChanges) &&
      r.tileOps.isEmpty && r.brookOps.isEmpty && r.fetchOps.isEmpty then s.setRidge n { r with zeroing := true } else s)

/-- A core's registers and data memory are zeroed, its program memory is kept (R417). -/
def Core.scrubbed (k : Core) : Core :=
  { k with g := [], p := 0, pc := 0, ctx := 0, epc := 0, cause := 0, inTrap := false, dmem := [], dmemBad := [], pend := [] }

/-- The partition whose quiesce is asked for: every Ridge of it has been scrubbed (R418). -/
def State.partDone (s : State) : State :=
  let p := s.field .dev 0x008 17 16
  if !(s.flag .dev 0x008 31) || (List.range 64).any (fun n => s.partOfDie (n / 16) == p && (s.ridge n).quiescing) then s
  else ((s.setFlag .dev 0x008 31 false).setFlag .dev 0x00C (16 + p) true)

/-- The scrub of a Ridge that quiesces is done (R417). -/
def State.ridgeScrubbed (s : State) (n : Nat) : State :=
  let r := s.ridge n
  if !r.quiescing then s
  else
    let t := s.setRidge n { r with quiescing := false, quiesced := true }
    let t := { t with
      mem := { t.mem with xcache := t.mem.xcache.filter fun e => e.1 / 256 != n }
      lad := { t.lad with since := Table.erase n t.lad.since } }
    ((t.setCore (5 + n) (t.core (5 + n)).scrubbed).setFlag (.rdg n) 0x008 31 false).partDone

/-- TARN_ZEROING_DONE: the Ridge is zeroed and has no owner; the scrub of a quiesce ends with it (R417). -/
def execTarnZeroingDone (ridge : Fin 64) (s : State) : Host.Outcome State Fault Refusal :=
  let n := ridge.val
  let r := s.ridge n
  .next (if r.zeroing then (((s.setRidge n r.zeroed.tidy).event (.trn n) 0x07 6144).tarnWrites n [(0, tarnSize)]).ridgeScrubbed n else s)

/-- TARN_SCRUB_READ: the scrubber reads its next word (R95). -/
def execTarnScrubRead (ridge : Fin 64) (e : Ecc) (s : State) : Host.Outcome State Fault Refusal :=
  let n := ridge.val
  let r := s.ridge n
  .next (if !(s.flag (.trn n) 0x100 0) then s
    else
      let t := (s.setRidge n { r with scrub := (r.scrub + 1) % (tarnSize / 32) }).tarnReads n [(r.scrub * 32, 32)]
      match e with
      | .clean => t
      | .corrected => t.tarnCe n r.scrub
      | .uncorrectable => t.tarnUe n r.scrub 1)

end Sys2Proof.Machine
end

