-- ==== Sys2Proof/Machine/Cairn.lean ====
section
/-! DEFINITION. Cairn (chapter 16): borrowed pairs, verdicts, the classification of arrays from the Unit History Log, the scan at
boot, the clearing of an array. -/
namespace Sys2Proof.Machine

/-! ### Classification (R462, R463) -/

/-- A MISMATCH record's bin and load signature (R459). -/
def uhlBin (w : List W32) : Nat := wfld w 9 18 16
def uhlSig (w : List W32) : Nat := wfld w 9 15 12

/-- The MISMATCH records of array `a` newer than its newest CLEAR record, newest first. -/
def uhlCounted (log : List (List W32)) (a : Nat) : List (List W32) :=
  ((log.filter fun w => (uhlUnit w).toNat == a && (uhlType w == 1 || uhlType w == 6)).reverse.takeWhile
    fun w => uhlType w != 6)

/-- The class that the newest FENCE record of array `a` states; 0 without one. -/
def uhlClass (log : List (List W32)) (a : Nat) : Nat :=
  match (log.filter fun w => (uhlUnit w).toNat == a && uhlType w == 4).getLast? with
  | some w => wfld w 9 31 28
  | none => 0

/-- The bits of the numbers below `n` for which `f` holds. -/
def maskOf (n : Nat) (f : Nat → Bool) : Nat := ((List.range n).filter f).foldl (fun m i => m + 2 ^ i) 0

/-- The bins that make a conditional fence: at least 3 records with at least 2 distinct boots (R462). -/
def uhlBins (recs : List (List W32)) : Nat :=
  maskOf 8 fun b =>
    let l := recs.filter fun w => uhlBin w == b
    decide (3 ≤ l.length) && decide (2 ≤ (l.map uhlBoot).eraseDups.length)

/-- The load signatures of the records in those bins. -/
def uhlSigs (recs : List (List W32)) (bins : Nat) : Nat :=
  maskOf 16 fun g => recs.any fun w => uhlSig w == g && bins.testBit (uhlBin w)

/-- The bins in which mismatches occurred. -/
def uhlSeenBins (recs : List (List W32)) : Nat := maskOf 8 fun b => recs.any fun w => uhlBin w == b

/-- The `COND` entry of array `a` of Ridge `n`, or the first free one; none where all 16 serve other arrays. -/
def State.condEntry (s : State) (n a : Nat) : Option Nat :=
  match (List.range 16).find? fun k => s.flag (.chk n) (0x140 + 4 * k) 31 && s.field (.chk n) (0x140 + 4 * k) 29 24 == a with
  | some k => some k
  | none => (List.range 16).find? fun k => !(s.flag (.chk n) (0x140 + 4 * k) 31)

/-- The array's Cairn fences are removed (R464). -/
def State.unfence (s : State) (a : Nat) : State :=
  let n := a / 64
  let i := a % 64
  let t := s.setFlag (.chk n) (0x118 + 4 * (i / 32)) (i % 32) false
  (List.range 16).foldl (fun t k =>
    if t.flag (.chk n) (0x140 + 4 * k) 31 && t.field (.chk n) (0x140 + 4 * k) 29 24 == i then t.setReg (.chk n) (0x140 + 4 * k) 0
    else t) t

/-- The firmware classifies array `a` (device-wide) and loads its fence, or removes it; a change of class writes a FENCE record. A seventeenth
conditional array of a Ridge is fenced unconditionally (R463). -/
def State.classify (s : State) (a : Nat) : State :=
  let log := s.uhlLog
  let recs := uhlCounted log a
  let bins := uhlBins recs
  let sigs := uhlSigs recs bins
  let n := a / 64
  let i := a % 64
  let uf := 0x118 + 4 * (i / 32)
  let raw := if 3 ≤ popCount 8 (uhlSeenBins recs) then 3 else if bins ≠ 0 then 2 else 0
  let entry := s.condEntry n i
  let cls := if raw = 2 && (entry.isNone || s.flag (.chk n) uf (i % 32)) then 3 else raw
  let t := match cls, entry with
    | 3, _ => s.setFlag (.chk n) uf (i % 32) true
    | 2, some k => s.setReg (.chk n) (0x140 + 4 * k) (w32 (2 ^ 31 + i * 2 ^ 24 + bins * 2 ^ 16 + sigs))
    | _, _ => s.unfence a
  if cls = uhlClass log a then t
  else t.uhlWrite
    { type := 4, unit := w32 a, step := t.reg .step 0x10C, info1 := w32 (cls * 2 ^ 28 + bins * 2 ^ 16 + sigs)
      info2 := w32 ((recs.map uhlBoot).eraseDups.length * 2 ^ 16 + recs.length % 2 ^ 16), info3 := w32 (uhlSeenBins recs) }

/-- UHL_CLEAR (R464): a write of `UHL.CLEAR`; with `GO` the array's fences go, and it is classified from later records. -/
def execUhlClear (value : W32) (s : State) : Host.Outcome State Fault Refusal :=
  let a := fld value 11 0
  .next (if !s.ready || s.pageSealed .uhl then s
    else
      let t := s.setReg .uhl 0x150 (w32 a)
      if !(bitOf value 31) then t
      else ((t.uhlWrite { type := 6, unit := w32 a, step := t.reg .step 0x10C, info1 := 0 }).unfence a).classify a)

/-! ### The scan at boot (R461) -/

/-- The largest of the numbers, or none. -/
def maxOf (l : List Nat) : Option Nat := l.foldl (fun m x => match m with | none => some x | some y => some (max x y)) none

/-- The position after the newest valid record, past whatever its sector holds. -/
def State.uhlNext (s : State) (newest : Option Nat) : Nat :=
  let sec := (newest.getD 0) / uhlSector
  (sec * uhlSector + (s.uhlScan sec).length) % uhlSize

/-- The firmware scans the log, classifies every array, loads the fences and writes the BOOT record. -/
def State.uhlBootScan (s : State) : State :=
  let valid := s.uhlValid
  let log := valid.map s.uhlWords
  let t := if s.uhlSeen.any fun i => !(uhlMagic (s.uhlWords i)) then s.setErr .uhl 0 else s
  let t := t.setReg .uhl 0x100 (w32 (((maxOf (log.map fun w => (uhlBoot w).toNat)).getD 0) + 1))
  let t := t.setReg .uhl 0x104 (w32 (match maxOf (log.map fun w => (uhlSeq w).toNat) with | some m => m + 1 | none => 0))
  let t := t.setReg .uhl 0x108 (w32 valid.length)
  let t := t.setFlag .uhl 0x00C 16 (!(log.any fun w => uhlType w == 1))
  let t := { t with mgmt := { t.mgmt with uhlPos := s.uhlNext valid.getLast? } }
  let units := ((log.filter fun w => uhlType w == 1 || uhlType w == 4).map fun w => (uhlUnit w).toNat).filter fun a => a < 4096
  let t := (units.foldl (fun l a => NatSet.add a l) []).foldl State.classify t
  t.uhlWrite { type := 5, unit := 0xFFFFFFFF#32, step := t.reg .step 0x10C, info1 := w32 valid.length }

/-! ### Borrowed pairs (R449, R455) -/

/-- Ridge `n` serves a check as checker or arbiter. -/
def State.cairnServes (s : State) (n : Nat) : Bool :=
  s.checks.any fun c => (c.ph == .recompute && c.chk == n) || (c.ph == .arbitrate && c.arb == some n)

/-- The lowest pair of Ridge `n` that can be borrowed: unfenced, its four tiles closed, without an accepted op (R449). -/
def State.cairnPair (s : State) (n : Nat) : Option Nat :=
  let r := s.ridge n
  (List.range 32).find? fun j =>
    s.pairFree n j && [2 * j, 2 * j + 1].all fun a =>
      !((r.arr a).t0.isOpen) && !((r.arr a).t1.isOpen) && !(r.tileOps.any fun o => tdArray o.desc.words == a)

/-- Replace the check at index `i`. -/
def State.putCheck (s : State) (i : Nat) (c : Check) : State := { s with checks := setAt s.checks i c }

/-- CAIRN_PAIR_BORROW (R449): the check at the index takes a pair of its checker, or of its arbiter. -/
def execCairnPairBorrow (check : BitVec 8) (s : State) : Host.Outcome State Fault Refusal :=
  .next (match s.checks[check.toNat]? with
    | none => s
    | some c =>
      let n := match c.ph with | .waitPair => some c.chk | .waitArb => c.arb | _ => none
      match n with
      | none => s
      | some n =>
        if s.cairnServes n then s
        else match s.cairnPair n with
          | none => s
          | some j =>
            s.putCheck check.toNat (if c.ph = .waitPair then { c with ph := .recompute, checker := some (n, 2 * j) }
              else { c with ph := .arbitrate, arbiter := some (n, 2 * j) }))

/-- `CHK.CFG.ACQ` in reference counts; 0 acts as 1 (R470). -/
def State.cairnAcq (s : State) : Nat := 100 * max 1 (s.field .chkG 0x100 15 0)

/-- CAIRN_ACQ_TIMEOUT (R449): a check whose pair was not taken in time is abandoned. -/
def execCairnAcqTimeout (check : BitVec 8) (s : State) : Host.Outcome State Fault Refusal :=
  .next (match s.checks[check.toNat]? with
    | none => s
    | some c =>
      if c.ph = .waitPair ∨ c.ph = .waitArb then (s.advance c.since s.cairnAcq).abandonSample c else s)

/-! ### Verdicts (R452, R454, R460) -/

/-- A check is over: it counts for its slot no longer, and the op's tally is released. -/
def State.endCheck (s : State) (c : Check) : State :=
  ({ s with checks := s.checks.filter fun x => x != c }.cairnPending c.jslot (-1)).checkRelease c

/-- The device-wide number of the array that a check concerns, of its source or of a borrowed pair. -/
def Check.srcArray (c : Check) : Nat := c.ridge * 64 + (if c.pair then c.arr / 2 * 2 + c.twinB.toNat else c.arr)
def Check.pairArray (c : Check) (p : Option (Nat × Nat)) : Nat :=
  match p with
  | some x => x.1 * 64 + x.2 + (if c.pair then c.twinB.toNat else c.arr % 2)
  | none => 0

/-- The MISMATCH record of a verdict, at most 16 per culprit array in each boot; the array is classified again. -/
def State.logMismatch (s : State) (c : Check) (verdict : Nat) (arb : Bool) : State :=
  let culprit := if verdict = 2 then c.pairArray c.checker else c.srcArray
  let q := if verdict = 2 then c.chkCond else c.srcCond
  let n := Table.get (fun _ => 0) s.mgmt.mism culprit
  if 16 ≤ n then s
  else
    let t := { s with mgmt := { s.mgmt with mism := Table.set (fun _ => 0) s.mgmt.mism culprit (n + 1) } }
    let t := t.uhlWrite
      { type := 1, unit := w32 culprit, step := c.step
        info1 := w32 (verdict * 2 ^ 28 + q.bin % 8 * 2 ^ 16 + q.sig % 16 * 2 ^ 12)
        info2 := w32 (c.srcArray * 2 ^ 16 + c.pairArray c.checker)
        info3 := if arb then w32 (2 ^ 31 + c.pairArray c.arbiter) else 0
        vclk := w32 (q.mv % 2 ^ 16 * 2 ^ 16 + q.mhz % 2 ^ 16) }
    let t := if t.board.dead then t else t.setFlag .uhl 0x00C 16 false
    t.classify culprit

/-- A confirmed mismatch counts for the op's journal slot (R452). -/
def State.cairnConfirm (s : State) (j : Option Nat) : State :=
  match j with
  | none => s
  | some i => s.setField .chkG (0x108 + 4 * i) 15 0 (min 65535 (s.field .chkG (0x108 + 4 * i) 15 0 + 1))

/-- The errors that a verdict detects, the bits of a page in one cycle (R39, R452, R470): on the page of the source's Ridge,
on that of the culprit's, and on the CHK page of the device. -/
def State.cairnErrs (s : State) (src culprit : Nat) (confirmed unresolved : Bool) : State :=
  let t := if src = culprit then s.detect (.chk src) 3 else (s.setErr (.chk src) 0).setErr (.chk culprit) 1
  if confirmed || unresolved then t.detect .chkG (w32 (confirmed.toNat + 2 * unresolved.toNat)) else t

/-- A verdict other than a pass: 1 source culprit, 2 checker culprit, 3 unresolved. -/
def State.cairnVerdict (s : State) (c : Check) (verdict : Nat) (arb : Bool) : State :=
  let culprit := if verdict = 2 then c.pairArray c.checker else c.srcArray
  let t := (s.addSat (.chk c.ridge) 0x10C 1).setReg (.chk c.ridge) 0x114
    (w32 (2 ^ 31 + verdict * 2 ^ 28 + c.srcArray % 64 * 2 ^ 16 + culprit))
  let t := (t.addSat (.chk (culprit / 64)) 0x110 1).cairnErrs c.ridge (culprit / 64)
    (verdict != 2 && c.jslot.isSome) (verdict == 3)
  let t := t.event .chkG (2 + verdict) 1
  let t := if verdict = 2 then t else t.cairnConfirm c.jslot
  (t.logMismatch c verdict arb).endCheck c

/-- The source op has its tile: it has made its passes, or the check's op is not found any more. -/
def State.cairnSourceDone (s : State) (c : Check) : Bool :=
  (s.ridge c.ridge).tileOps.all fun o =>
    !(o.id == c.op || o.mate == some c.op) || !(o.ph == .accepted || o.ph == .atArray)

/-- CAIRN_RECOMPUTE_DONE (R452): the checker's tile is compared with the source's. -/
def execCairnRecomputeDone (check : BitVec 8) (r : Recompute) (s : State) : Host.Outcome State Fault Refusal :=
  .next (match s.checks[check.toNat]? with
    | none => s
    | some c =>
      if c.ph ≠ .recompute ∨ !(s.cairnSourceDone c) then s
      else match r with
        | .poisoned => s.abandonSample c
        | .equal => (s.event .chkG 0x02 1).endCheck c
        | .differ twinB =>
          let c1 := { c with twinB := twinB && c.pair, ph := .waitArb }
          let t := s.putCheck check.toNat c1
          if c.arb.isNone then t.cairnVerdict c1 3 false else t)

/-- CAIRN_ARBITER_DONE (R452): the arbiter's tile decides. -/
def execCairnArbiterDone (check : BitVec 8) (r : Arbitration) (s : State) : Host.Outcome State Fault Refusal :=
  .next (match s.checks[check.toNat]? with
    | none => s
    | some c =>
      if c.ph ≠ .arbitrate then s
      else match r with
        | .poisoned => s.abandonSample c
        | .source => s.cairnVerdict c 2 true
        | .checker => s.cairnVerdict c 1 true
        | .neither => s.cairnVerdict c 3 true)

/-- CHK_SEED_WRITE (R447): a write of `CHK.SEED` gives every Ridge its sampling state. -/
def execChkSeedWrite (value : W32) (s : State) : Host.Outcome State Fault Refusal :=
  .next (if !s.ready || s.pageSealed .chkG then s
    else (List.range 64).foldl (fun t n =>
      t.setReg (.chk n) 0x120 (if value ^^^ w32 n = 0 then 1 else value ^^^ w32 n)) (s.setReg .chkG 0x104 value))

end Sys2Proof.Machine
end

