-- ==== Sys2Proof/Machine/Host.lean ====
section
/-! DEFINITION. The PCI Express function: BAR2 (R502, R516), MSI-X and tally notices (R504, R505), the link and the
configuration space (R499, R500, R503). -/
namespace Sys2Proof.Machine

/-! ### BAR2 (R502, R516) -/

/-- `BOOT_STAT.FAIL`: both image slots are invalid (R515). -/
def State.bootFail (s : State) : Bool := s.flag .boot 0x100 30

/-- The stack that holds the recovery area: the lowest one that is READY, once every stack is READY or FAILED (R516). -/
def State.recovery (s : State) : Option Nat :=
  if s.bootFail && (List.range 8).all (fun k => s.mem.ready.has k || s.mem.failed.has k) then s.mem.ready.head? else none

/-- The size of the recovery area. -/
def recoverySize : Nat := 2 ^ 26

/-- The size of the aperture (R500, R501). -/
def State.apertureSize (s : State) : Nat := 2 ^ (38 + s.host.barSize)

/-- The function accepts memory requests (R500). -/
def State.hostOpen (s : State) : Bool := s.host.linkUp && !s.host.d3 && !s.plat.held

/-- The board address of an aperture offset, the context of BAR2, and whether it is enabled (R502). -/
def State.b2Addr (s : State) (o : Nat) : Nat := ((s.reg64 .pci 0x104).toNat + o) % 2 ^ 43
def State.b2Ctx (s : State) : Nat := s.field .pci 0x10C 5 0
def State.b2En (s : State) : Bool := s.flag .pci 0x10C 31

/-- A BAR2 access faults: the first one is recorded (R502, R525). -/
def State.b2Fault (s : State) (reason a : Nat) : State :=
  let t := if s.flag .pci 0x114 31 then s
    else (s.setReg .pci 0x110 (w32 a)).setReg .pci 0x114 (w32 (2 ^ 31 + reason * 65536 + a / 2 ^ 32 % 2048))
  t.setErr .pci 0

/-- A BAR2 read completes: a poisoned granule marks the completion (R502). -/
def State.b2Complete (s : State) (bs : List OutByte) : State :=
  let ep := bs.any Prod.snd
  (if ep then s.setErr .pci 1 else s).emit (.hostRead (bs.map Prod.fst) ep)

/-- A read of the recovery area: bytes past its end read as zero (R510, R516). -/
def State.areaRead (s : State) (k o n : Nat) : List OutByte :=
  (List.range n).map fun i =>
    if o + i < recoverySize then (s.hbmByte (memKey k (o + i)), s.granPoison (memKey k (o + i) / 64)) else (0, false)

/-- Put a piece before the first one with a larger offset. -/
def putPiece (p : Nat × List OutByte) : List (Nat × List OutByte) → List (Nat × List OutByte)
  | [] => [p]
  | q :: l => if p.1 < q.1 then p :: q :: l else q :: putPiece p l

/-- The bytes of an access in the order of their offsets. -/
def HostAcc.bytes (x : HostAcc) : List OutByte := (x.got.foldl (fun l p => putPiece p l) []).flatMap Prod.snd

/-- An access with nothing left to wait for ends. -/
def State.hostEnd (s : State) (x : HostAcc) : State :=
  if !x.wait.isEmpty then
    { s with host := { s.host with accs := s.host.accs.map fun y => if y.key = x.key then x else y } }
  else
    let t := { s with host := { s.host with accs := s.host.accs.filter fun y => y.key != x.key } }
    let t := if x.bad then t.b2Fault 0x06 x.addr else t
    if x.wr then t
    else if x.bad then t.emit (.hostRead (List.replicate x.len (0xFF#8)) false)
    else t.b2Complete x.bytes

/-- A piece of a BAR2 access that went to another device is answered (R297, R502). -/
def State.hostAnswer (s : State) (key off : Nat) (ok : Bool) (bs : List OutByte) : State :=
  match s.host.accs.find? fun x => x.key == key with
  | none => s
  | some x => s.hostEnd { x with wait := x.wait.erase off, got := x.got ++ [(off, bs)], bad := x.bad || !ok }

/-- A new access. -/
def State.hostBegin (s : State) (wr : Bool) (a n : Nat) : State × HostAcc :=
  let x : HostAcc := { key := s.host.nextKey, wr := wr, addr := a, len := n }
  ({ s with host := { s.host with nextKey := s.host.nextKey + 1, accs := s.host.accs ++ [x] } }, x)

/-- One piece of a read: from here at once, or asked of another device; `us` is what its granules meet. -/
def State.b2Piece (s : State) (x : HostAcc) (p : Nat × Nat × Nat) (us : List GranUse) : State × HostAcc :=
  match s.site 4 0 s.b2Ctx .rd p.1 with
  | .error _ => (s, x)
  | .ok (.here key) =>
    let t := s.readRange 0 key p.2.1 us
    let b := t.asRead 0 (fun i => (p.1 + i) % 2 ^ 43) (t.keyBytes key p.2.1)
    (b.1, { x with got := x.got ++ [(p.2.2, b.2)] })
  | .ok (.there g d pt a) =>
    (s.submit { who := .host x.key p.2.2, ctx := s.b2Ctx, kind := 0, group := g, dev := d, port := pt, addr := a, len := p.2.1 },
      { x with wait := x.wait ++ [p.2.2] })

/-- A read through the Page Map (R502): any fault of a piece fails it whole. -/
def State.b2Read (s : State) (a n : Nat) (m : MemUse) : State :=
  let ps := pieces a n
  let s0 := (List.range ps.length).foldl (fun t i => t.lookup 4 0 (ps.getD i (0, 0, 0)).1 (m.pm.getD i .clean)) s
  let bad := ps.filterMap fun p => match s0.site 4 0 s0.b2Ctx .rd p.1 with
    | .error r => some (r, p.1)
    | .ok _ => none
  match bad with
  | (r, x) :: _ => (s0.b2Fault r x).emit (.hostRead (List.replicate n (0xFF#8)) false)
  | [] =>
    let b := s0.hostBegin false a n
    let r := ps.foldl (fun (t : (State × HostAcc) × Nat) p =>
      (t.1.1.b2Piece t.1.2 p (m.gran.drop t.2), t.2 + (granules p.1 p.2.1).length)) (b, 0)
    r.1.1.hostEnd r.1.2

/-- BAR2_READ (R502, R510, R516). -/
def execBar2Read (off : BitVec 40) (len : BitVec 13) (m : MemUse) (s : State) : Host.Outcome State Fault Refusal :=
  let o := off.toNat
  let n := len.toNat
  .next (if !s.host.linkUp || s.plat.held || n == 0 then s
    else if s.host.d3 || decide (s.apertureSize < o + n) then s.emit .unsupported
    else
      let t := s.event .pci 0x02 1
      if s.ready then
        if !s.b2En then t.emit (.hostRead (List.replicate n (0xFF#8)) false) else t.b2Read (s.b2Addr o) n m
      else match s.recovery with
        | some k => let u := t.readRange 0 (memKey k o) n m.gran; u.b2Complete (u.areaRead k o n)
        | none => t.emit (.hostRead (List.replicate n (0#8)) false))

/-- The runs of enabled bytes, as (offset, bytes). -/
def byteRuns : Nat → List (Byte × Bool) → List (Nat × List Byte)
  | _, [] => []
  | i, (b, en) :: rest =>
    let t := byteRuns (i + 1) rest
    if !en then t
    else match t with
      | (j, bs) :: u => if j = i + 1 then (i, b :: bs) :: u else (i, [b]) :: t
      | [] => [(i, [b])]

/-- A write through the Page Map: a piece that faults is discarded (R502). -/
def State.b2Write (s : State) (a n : Nat) (runs : List (Nat × List Byte)) (m : MemUse) : State :=
  let b := s.hostBegin true a n
  let r := runs.foldl (fun (t : (State × HostAcc) × MemUse) p =>
    let b := (a + p.1) % 2 ^ 43
    let w := t.1.1.writeBoard (.die 4 0) t.1.1.b2Ctx b 0 (p.2.map fun x => (x, false)) (.host t.1.2.key 0) t.2
    let u := if w.fault = 0 then w.s else w.s.b2Fault w.fault w.faultAddr
    ((u, { t.1.2 with wait := t.1.2.wait ++ List.replicate w.remote 0 }),
      { pm := t.2.pm.drop (pieces b p.2.length).length, gran := t.2.gran.drop w.used })) (b, m)
  r.1.1.hostEnd r.1.2

/-- A write of the recovery area. -/
def State.areaWrite (s : State) (k : Nat) (p : Nat × List Byte) (us : List GranUse) : State :=
  let bs := p.2.take (recoverySize - p.1)
  (s.writeRange 0 (memKey k p.1) bs.length us).hbmWrite (memKey k p.1) bs

/-- BAR2_WRITE (R502, R510, R516). -/
def execBar2Write (off : BitVec 40) (data : List Byte) (enables : List Bool) (m : MemUse) (s : State) :
    Host.Outcome State Fault Refusal :=
  let o := off.toNat
  let runs := byteRuns 0 (data.zip enables)
  .next (if !s.hostOpen || decide (s.apertureSize < o + data.length) then s
    else
      let t := s.event .pci 0x03 1
      if s.ready then (if s.b2En then t.b2Write (s.b2Addr o) data.length runs m else t)
      else match s.recovery with
        | some k =>
          ((runs.filter fun p => decide (o + p.1 < recoverySize)).foldl (fun (t : State × Nat) p =>
            (t.1.areaWrite k (o + p.1, p.2) (m.gran.drop t.2), t.2 + (granules (o + p.1) p.2.length).length)) (t, 0)).1
        | none => t)

/-! ### MSI-X and tally notices (R504, R505) -/

/-- The condition of a vector holds (R504). -/
def State.vectorCond (s : State) (v : Nat) : Bool :=
  if v = 0 then s.reg .clk 0x010 != 0 else s.vectorHigh v || s.io.notices.has v

/-- A pending message whose vector is no longer masked is sent, if its condition still holds (R504). -/
def State.sendPending (s : State) (v : Nat) : State :=
  if !(s.io.pba.has v) || s.vectorMasked v then s
  else
    let t := { s with io := { s.io with pba := NatSet.del v s.io.pba } }
    if s.vectorCond v then t.emit (.msix v) else t

/-- Write a word of the MSI-X table (R501). -/
def State.msixWrite (s : State) (a : Nat) (v : W32) : State :=
  let d (x : Nat) : W32 := if x % 16 = 12 then 1#32 else 0#32
  let v := if a % 16 = 12 then setFld 0 0 0 (fld v 0 0) else if a % 16 = 0 then setFld v 1 0 0 else v
  let t := { s with io := { s.io with msix := Table.set d s.io.msix a v } }
  t.sendPending ((a - 0xA000) / 16)

/-- MSIX_UNMASK (R504): the host clears a vector's mask bit. -/
def execMsixUnmask (vector : BitVec 8) (s : State) : Host.Outcome State Fault Refusal :=
  .next (if !s.hostOpen then s else s.msixWrite (0xA000 + 16 * vector.toNat + 12) 0)

/-- Notice `n` is enabled, and its tally has reached its target, now or since the notice was written (R505). -/
def State.noticeDue (s : State) (n : Nat) : Bool :=
  let c := s.reg .pci (0x200 + 4 * n)
  bitOf c 31 && (s.host.due.has n || tallyReached (s.tally (fld c 11 0)) (s.reg .pci (0x300 + 4 * n)))

/-- TALLY_NOTICE_FIRE (R505): an enabled notice whose tally has reached its target sends its vector and is disabled. -/
def execTallyNoticeFire (n : Fin 64) (s : State) : Host.Outcome State Fault Refusal :=
  .next (if !(s.noticeDue n.val) then s
    else
      let off := 0x200 + 4 * n.val
      let t := (s.setReg .pci off (setBit (s.reg .pci off) 31 false)).event .pci 0x04 1
      let t := { t with
        io := { t.io with notices := NatSet.add (161 + n.val) t.io.notices }
        host := { t.host with due := NatSet.del n.val t.host.due } }
      t.sendVector (161 + n.val))

/-! ### The link and the configuration space (R499, R500, R503) -/

/-- PCIE_LINK_UP (R499, R503): the link reaches DL_Active; without a stable PCIE_REFCLK it does not train (R486). -/
def execPcieLinkUp (rate : Fin 6) (width : Fin 5) (flit : Bool) (s : State) : Host.Outcome State Fault Refusal :=
  .next (if s.plat.held || s.host.linkUp || s.plat.pcie.st != .stable then s
    else { s with host := { s.host with linkUp := true } }.setReg .pci 0x100
      (w32 ((rate.val + 1) * 2 ^ 28 + (flit || rate.val == 5).toNat * 2 ^ 27 + 2 ^ width.val * 2 ^ 16)))

/-- CONFIGURATION_WRITE (R500, R504): the power state, the size of BAR2, or the MSI-X function mask. -/
def execConfigurationWrite (w : CfgWrite) (s : State) : Host.Outcome State Fault Refusal :=
  .next (if !s.host.linkUp || s.plat.held then s
    else match w with
      | .power d3 => { s with host := { s.host with d3 := d3 } }
      | .barSize n => { s with host := { s.host with barSize := n.val } }
      | .functionMask m =>
        let t := { s with io := { s.io with msixMask := m } }
        if m then t else (List.range 225).foldl State.sendPending t)

/-- ATOMICOP_REQUEST (R500): it completes with Unsupported Request. -/
def execAtomicopRequest (s : State) : Host.Outcome State Fault Refusal :=
  .next (if !s.host.linkUp || s.plat.held then s else s.emit .unsupported)

end Sys2Proof.Machine
end

