-- ==== Sys2Proof/Machine/Image.lean ====
section
/-! DEFINITION. The firmware image in its flash slot (R512, R513) and the checks that make a slot valid (R514). -/
namespace Sys2Proof.Machine

/-- The flash offset of an image slot, and its size (R511). -/
def slotBase (slot : Nat) : Nat := if slot = 0 then 0x100000 else 0x1900000
def slotSize : Nat := 24 * 2 ^ 20

/-- `n` bytes of a slot. -/
def State.imageRead (s : State) (slot o n : Nat) : List Byte := s.flashRead (slotBase slot + o) n

/-- A 32-bit field of an image. -/
def State.imageWord (s : State) (slot o : Nat) : Nat := leNat (s.imageRead slot o 4)

/-- Bytes of an image are zero. -/
def State.imageZero (s : State) (slot o n : Nat) : Bool := (s.imageRead slot o n).all fun b => b == 0

/-- A section (R513): its words. -/
def secType (w : List W32) : Nat := (wordAt w 0).toNat
def secOff (w : List W32) : Nat := (wordAt w 1).toNat
def secLen (w : List W32) : Nat := (wordAt w 2).toNat
def secTarget (w : List W32) : Nat := (wordAt w 3).toNat
def secDigest (w : List W32) : List Byte := wordsBytes (w.drop 8)

/-- The section table up to its end (R513). -/
def State.sections (s : State) (slot : Nat) : List (List W32) :=
  ((List.range 16).map fun i => leWords (s.imageRead slot (0x100 + 64 * i) 64) 16).takeWhile fun w => secType w != 0

/-- One section obeys R513 in an image of `len` bytes. -/
def secOk (len : Nat) (w : List W32) : Bool :=
  decide (secType w ≤ 4) && (List.range 4).all (fun i => wordAt w (4 + i) == 0) &&
  decide (0x5000 ≤ secOff w) && decide (secOff w + secLen w ≤ len) &&
  (decide (secType w ≤ 2) || (decide (69 ≤ secTarget w) && decide (secTarget w ≤ 76)))

/-- Two sections do not overlap. -/
def secApart (a b : List W32) : Bool := decide (secOff a + secLen a ≤ secOff b) || decide (secOff b + secLen b ≤ secOff a)

/-- Every two sections lie apart. -/
def secsApart : List (List W32) → Bool
  | [] => true
  | a :: l => l.all (secApart a) && secsApart l

/-- The reason code of a slot (R514): 0 for a valid one. -/
def State.slotReason (s : State) (slot : Nat) : Nat :=
  let len := s.imageWord slot 0xC
  let svn := s.imageWord slot 8
  let secs := s.sections slot
  if s.board.dead then 1
  else if s.imageWord slot 0 ≠ 0x53504657 ∨ s.imageWord slot 4 ≠ 1 ∨ s.imageWord slot 0x10 ≠ uhlBase ∨
      !(s.imageZero slot 0x14 236) ∨ !(s.imageZero slot 0x530 2768) then 2
  else if sha256 (s.imageRead slot 0x500 48) ≠ Config.vendorDigest then 3
  else if !(Config.vendorVerify (s.imageRead slot 0x500 48) (s.imageRead slot 0 0x1000) (s.imageRead slot 0x1000 16224)) then 4
  else if svn < s.board.fuses ∨ 64 < svn then 5
  else if slotSize < len ∨ !(secs.all (secOk len)) ∨ !(secsApart secs) then 6
  else if secs.any fun w => sha256 (s.imageRead slot (secOff w) (secLen w)) != secDigest w then 7
  else 0

/-- The security core verifies the signature of a slot whose first three checks pass; SEC event 0x03 counts it (R514, R528). -/
def State.slotVerified (s : State) (slot : Nat) : State :=
  if 1 ≤ s.slotReason slot ∧ s.slotReason slot ≤ 3 then s else s.event .sec 0x03 1

/-- The other slot. -/
def otherSlot (slot : Nat) : Nat := 1 - slot

/-- Write the boot configuration (R515). -/
def State.bootCfgPut (s : State) (slot trial : Nat) : State :=
  { s with board := { s.board with bootCfg := some (slot, trial) } }

end Sys2Proof.Machine
end

