-- ==== Sys2Proof/Machine/Journal.lean ====
section
/-! DEFINITION. What Headwater, Oxbow and the digest engine share: reads of the device's own memory without a context, accesses
of the step machinery, writes to a partner (R361, R376), the journal (R361, R362), CLOSED (R353). -/
namespace Sys2Proof.Machine

/-! ### The device's own memory -/

/-- The HBM key of a board address that the device's own engines read, or the reason of R180 for which there is none: a valid entry,
local, in the stacks of the partition that owns the step machinery, below the hashed window (R376). -/
def State.ownSite (s : State) (a : Nat) : Except Nat Nat :=
  let e := s.pmapEntry 0 (pageOf a)
  let st := pmFld e 18 16
  if s.mem.lost.has (pageOf a) then .error 0x05
  else if !(pmValid e) then .error 0x01
  else if pmFld e 43 40 ≠ s.mySlot then .error 0x06
  else if s.mem.failed.has st then .error 0x08
  else if s.partOfDie (stackDie st) ≠ s.stepOwner then .error 0x03
  else if 5120 - s.winFrames ≤ pmFld e 12 0 then .error 0x04
  else if s.routeDown 4 (stackDie st) then .error 0x09
  else .ok (memKey st (pmFld e 12 0 * 2 ^ 24 + a % 2 ^ 24))

/-- The HBM key of such an address, if there is one. -/
def State.ownKey (s : State) (a : Nat) : Option Nat := (s.ownSite a).toOption

/-- Read the device's own memory. -/
def State.ownRead (s : State) (a n : Nat) : Option (List OutByte) :=
  ((pageSplit (n / 2 ^ 24 + 2) a n 0).mapM fun p => (s.ownKey p.1).map fun k => s.keyBytes k p.2.1).map List.flatten

/-- Bytes of the hashed window, each with the poison of its granule; zeros while it cannot serve. -/
def State.winBytes (s : State) (o n : Nat) : List OutByte :=
  if !s.windowOk then List.replicate n (0, false)
  else (List.range n).map fun i => (s.hbmByte (s.windowKey (o + i)), s.winPoison (o + i))

/-! ### Accesses under the step context -/

/-- A fault of a request of the step machinery (R210): Headwater is instance 0, Oxbow 1, the digest engine 2. -/
def State.stepXlate (s : State) (inst reason ctx a : Nat) : State := s.recordXlate reason 5 ctx inst a

/-- Some page of the device's own memory that an engine reads has no key: recorded as that engine's fault. -/
def State.ownFault (s : State) (inst a n : Nat) : State :=
  match (pageSplit (n / 2 ^ 24 + 2) a n 0).findSome? fun p =>
      match s.ownSite p.1 with
      | .error r => some (r, p.1)
      | .ok _ => none with
  | some (r, x) => s.stepXlate inst r 0 x
  | none => s

/-- Write bytes to local board addresses; the flag says that no page faulted. -/
def State.stepWrite (s : State) (ctx a : Nat) (bs : List OutByte) : State × Bool :=
  let t := s.lookupRange 4 0 a bs.length []
  match t.localPieces 4 0 ctx .wr a bs.length with
  | .error r => (t.stepXlate 0 r ctx a, false)
  | .ok l => ((t.useLocal true 0 l []).putPieces a l bs, true)

/-- Read bytes from local board addresses. -/
def State.stepRead (s : State) (ctx a n : Nat) : Except Nat (List OutByte) :=
  match s.localPieces 4 0 ctx .rd a n with
  | .error r => .error r
  | .ok l => .ok (l.flatMap fun p => s.keyBytes p.1 p.2.1)

/-- A read of local board addresses that faults is recorded as the fault of engine `inst`. -/
def State.readFault (s : State) (inst ctx a n : Nat) : State :=
  match s.stepRead ctx a n with
  | .error r => s.stepXlate inst r ctx a
  | .ok _ => s

/-- Bytes without poison. -/
def clean (bs : List Byte) : List OutByte := bs.map fun b => (b, false)

/-- Read a table of words; a poisoned or unreadable one is none. -/
def State.stepWords (s : State) (ctx a n : Nat) : Option (List W32) :=
  match s.stepRead ctx a (4 * n) with
  | .error _ => none
  | .ok bs => if bs.any Prod.snd then none else some (leWords (bs.map Prod.fst) n)

/-! ### Writes to a partner -/

/-- Write bytes to the partner of way `w`, in transactions of at most 2 KiB; none where it is not valid. -/
def State.putTo (s : State) (slot : Nat) (kind : AskKind) (ctx w a : Nat) (bs : List OutByte) : Option State :=
  (s.partner w).map fun d =>
    (pieces (a % 2 ^ 43) bs.length).foldl (fun t p =>
      let x := (bs.drop p.2.2).take p.2.1
      t.ask slot kind { who := .none, ctx := ctx, kind := 1, group := d.1, dev := d.2, addr := p.1, len := p.2.1
                        data := x.map Prod.fst, bad := badSlots p.1 x }) s

/-- Write bytes to every way, at an address for each. -/
def State.putWays (s : State) (slot : Nat) (kind : AskKind) (ctx : Nat) (a : Nat → Nat) (bs : List OutByte) : Option State :=
  (List.range s.ways).foldl (fun o w => o.bind fun t => t.putTo slot kind ctx w (a w) bs) (some s)

/-- Some access of the step machinery for slot `j` is not answered. -/
def State.asking (s : State) (j : Nat) (f : AskKind → Bool) : Bool := s.stepm.asks.any fun a => a.slot == j && f a.kind

/-- Forget accesses; their answers find nothing. -/
def State.unask (s : State) (f : Ask → Bool) : State :=
  { s with stepm := { s.stepm with asks := s.stepm.asks.filter fun a => !(f a) } }

/-! ### The journal (R361, R362, R386) -/

/-- `JSIZE` in bytes, `TOK_BYTES`, and the address of journal slot `j`. -/
def State.journalSize (s : State) : Nat := max 1 (s.field .hdw 0x108 31 16) * 2 ^ 20
def State.tokBytes (s : State) : Nat := max 1 (s.field .hdw 0x108 7 0)
def State.journalAt (s : State) (j : Nat) : Nat :=
  ((s.reg64 .hdw 0x100).toNat % 2 ^ 43 + j * s.journalSize) % 2 ^ 43

/-- The journal copy of slot `j` at way `w`. -/
def State.journalCopy (s : State) (j w : Nat) : Nat :=
  ((s.reg64 .hdw (0x150 + 8 * w)).toNat % 2 ^ 43 + j * s.journalSize) % 2 ^ 43

/-- Whether micro-batch slot `i` of a table is valid, its tokens, its stream. -/
def mbValid (toks : List W32) (i : Nat) : Bool := wfld toks i 31 31 == 1
def mbTokens (toks : List W32) (i : Nat) : Nat := wfld toks i 24 0
def mbStream (cfgs : List W32) (i : Nat) : Nat := wfld cfgs i 2 0

/-- Round up to 64 bytes. -/
def align64 (n : Nat) : Nat := (n + 63) / 64 * 64

/-- The offsets of the data of the valid micro-batch slots, and the end of the last one. -/
def mbOffsets (toks : List W32) (tb : Nat) : List (Nat × Nat) × Nat :=
  (List.range 8).foldl (fun a i =>
    if mbValid toks i then (a.1 ++ [(i, align64 a.2)], align64 a.2 + mbTokens toks i * tb) else a) ([], 0x1000)

/-- The journal's token bytes. -/
def mbBytes (toks : List W32) (tb : Nat) : Nat :=
  (((List.range 8).filter (mbValid toks)).map fun i => mbTokens toks i * tb).sum

/-- The tokens by which a step advances stream `k` (R362). -/
def StepSlot.advanceOf (k : StepSlot) (c : Nat) : Nat :=
  (((List.range 8).filter fun i => mbValid k.toks i && mbStream k.cfgs i == c).map (mbTokens k.toks)).sum

/-- The committed cursor of a stream (R386). -/
def State.cursor (s : State) (k : Nat) : Nat := (s.reg64 .hdw (0x110 + 8 * k)).toNat

/-- The position at which the data of a new step begins (R362). -/
def State.cursorFor (s : State) (j k : Nat) : Nat :=
  let o := s.slot (1 - j)
  s.cursor k + (if o.committing then o.advanceOf k else 0)

/-- The committed cursors advance (R362). -/
def State.cursorsAdvance (s : State) (k : StepSlot) : State :=
  (List.range 8).foldl (fun t c => t.setReg64 .hdw (0x110 + 8 * c) (w64 (s.cursor c + k.advanceOf c))) s

/-- Bytes 0x000 to 0x0FF of a journal slot, with the cursors given (R361). -/
def State.journalHead (s : State) (k : StepSlot) (tb : Nat) (cur : Nat → Nat) : List Byte :=
  let offs := (mbOffsets k.toks tb).1
  leBytes 8 (s.reg64 .step 0x100).toNat ++ leBytes 4 k.step.toNat ++ leBytes 4 k.replays ++ leBytes 8 k.seed.toNat ++
  List.replicate 40 (0 : Byte) ++ (List.range 8).flatMap (fun c => leBytes 8 (cur c)) ++
  (List.range 8).flatMap (fun i =>
    leBytes 4 ((mbValid k.toks i).toNat * 2 ^ 31 + mbTokens k.toks i) ++ leBytes 4 (mbStream k.cfgs i) ++
    leBytes 8 (match offs.find? fun p => p.1 == i with | some p => p.2 | none => 0))

/-! ### CLOSED (R353) -/

/-- Note when a slot entered a state. -/
def StepSlot.stamp (k : StepSlot) (code : Nat) (now : W64) : StepSlot :=
  { k with times := Table.insert code now (Table.erase code k.times) }

/-- The counts between two of its states; 0 where it was not in both. -/
def StepSlot.phase (k : StepSlot) (a b : Nat) : W32 :=
  match Table.find a k.times, Table.find b k.times with
  | some x, some y => w32 (min (y - x).toNat 0xFFFFFFFF)
  | _, _ => 0

/-- The six phase times (R384). -/
def StepSlot.phases (k : StepSlot) : List W32 :=
  [k.phase 2 3, k.phase 3 4, k.phase 4 5, k.phase 5 6, k.phase 6 15, k.phase 7 8]

/-- `STRETCH` (R260, R264). -/
def stretch (busy : List Nat) : Nat :=
  let m := (busy.mergeSort fun a b => decide (a ≤ b)).getD ((busy.length - 1) / 2) 0
  let top := busy.foldl max 0
  if m = 0 then (if top = 0 then 0 else 0xFFFF) else min 0xFFFF (top * 256 / m)

/-- Store the busy times of a closed step (R260). -/
def State.setBusy (s : State) (k : StepSlot) : State :=
  let vs := (List.range 8).filter (mbValid k.toks)
  let b := fun i => Table.get (fun _ => 0) k.busy i
  let t := (List.range 8).foldl (fun t i => t.setReg .cwn (0x508 + 16 * i) (if vs.contains i then b i else 0)) s
  t.setReg .cwn 0x580 (w32 (stretch (vs.map fun i => (b i).toNat)))

/-- The slot becomes FREE: the step is CLOSED (R353, R147, R186, R260, R384, R470). -/
def State.closeSlot (s : State) (j : Nat) : State :=
  let k := s.slot j
  let t := ((List.range 6).foldl (fun t i => t.setReg .step (0x134 + 4 * i) (k.phases.getD i 0)) s).setBusy k
  let t := ((t.setReg .chkG (0x108 + 4 * j) 0).accClear j).oobClear j
  (t.setSlot j {}).batchAtClosed

end Sys2Proof.Machine
end

