-- ==== Sys2Proof/Machine/Sign.lean ====
section
/-! DEFINITION. The identity key and what the security core signs and verifies with it (R520, R522). -/
namespace Sys2Proof.Machine

/-- The bytes of an ASCII string without a terminator. -/
def asciiBytes (x : String) : List Byte := x.toList.map fun c => BitVec.ofNat 8 c.toNat

/-- A seed of the key pair (R520): the first 16 bytes of SHA-256(secret ‖ label). -/
def idSeed (label : String) : List Byte := (sha256 (beBytes 32 Config.deviceSecret.toNat ++ asciiBytes label)).take 16

/-- The identity public key (R520): PK.seed and the root that the seeds give. -/
def idKey : List Byte :=
  idSeed "PK.seed" ++ beBytes 16 (Config.slhRoot (idSeed "SK.seed") (idSeed "SK.prf") (idSeed "PK.seed")).toNat

/-- The context strings of the three kinds of message (R522). -/
def admitContext : List Byte := asciiBytes "SPM616-ADMIT"
def reportContext : List Byte := asciiBytes "SPM616-REPORT"
def manifestContext : List Byte := asciiBytes "SPM616-MANIFEST"

/-- The security core verifies a signature, which SEC event 0x03 counts (R528). -/
def State.verified (s : State) (key context msg sig : List Byte) : State × Bool :=
  (s.event .sec 0x03 1, Config.slhVerify key context msg sig)

/-- A signature of the identity key, verified before it is released (R520); none where it fails, which sets `SIGN_FAIL`. -/
def State.signed (s : State) (context msg : List Byte) : State × Option (List Byte) :=
  let sig := Config.slhSign idKey context msg
  let r := s.verified idKey context msg sig
  if sig.length = 17088 ∧ r.2 then (r.1.event .sec 0x02 1, some sig) else (r.1.setErr .sec 1, none)

end Sys2Proof.Machine
end

