-- ==== Sys2Proof/Machine/Mailbox.lean ====
section
/-! DEFINITION. The management mailbox (R518), the checkpoint service (R426 to R431) and the flash service (R519). -/
namespace Sys2Proof.Machine

/-! ### Handing over (R518) -/

/-- MAILBOX_GO (R518): a write of `MB_CTL` with `GO`. -/
def execMailboxGo (value : W32) (s : State) : Host.Outcome State Fault Refusal :=
  let sv := fld value 1 0
  .next (if s.plat.held || s.asleep then s
    else
      let t := s.setReg .boot 0x110 (w32 sv)
      if !(bitOf value 31) then t
      else if sv = 3 ∨ (s.bootFail ∧ sv ≠ 1) ∨ (!s.bootDone ∧ !s.bootFail) then t.setErr .boot 2
      else if 16 ≤ s.mgmt.mbox.length then t.setErr .boot 1
      else
        { t with
          mem := { t.mem with handed := t.mem.handed + 1 }
          mgmt := { t.mgmt with mbox := t.mgmt.mbox ++ [(sv, (t.reg64 .boot 0x108).toNat % 2 ^ 43 / 64 * 64)] } })

/-! ### Memory of a service -/

/-- The site of an address of a service: by the view of a context, or an offset into the recovery area (R516, R518). -/
def State.svcSite (s : State) (ctx : Nat) (k : Acc) (a : Nat) : Except Nat Site :=
  if s.bootFail then
    match s.recovery with
    | some st => if a < recoverySize then .ok (.here (memKey st a)) else .error 0x01
    | none => .error 0x01
  else s.site 4 0 ctx k a

/-- The context by whose view a request block is first read: the block names its own (R518), so any that translates. -/
def State.svcAny (s : State) (a : Nat) : Nat :=
  ((List.range 64).find? fun c => match s.svcSite c .rd a with
    | .ok _ => true
    | .error _ => false).getD 0

/-- What a service has read: bytes, or a fault with its address, or pieces that are still to come from other devices. -/
inductive SvcIn where
  | got (bs : List OutByte)
  | fault (reason a : Nat)
  | wait (rs : List FReq)

/-- Put what was read before what is read next. -/
def SvcIn.join : SvcIn → SvcIn → SvcIn
  | .fault r a, _ => .fault r a
  | _, .fault r a => .fault r a
  | .wait x, .wait y => .wait (x ++ y)
  | .wait x, _ => .wait x
  | _, .wait y => .wait y
  | .got x, .got y => .got (x ++ y)

/-- A granule was written since the request at the head of the mailbox was handed over: what its block, its source or its
destination holds there is unpredictable (R426, R518). -/
def State.svcTouched (s : State) (key : Nat) : Bool :=
  let n := Table.get (fun _ => 0) s.mem.touched (key / 64)
  n != 0 && !s.mgmt.mbox.isEmpty && decide (s.mem.handed < n + s.mgmt.mbox.length)

/-- Bytes that a service reads, or is to write, at a local key. -/
def State.svcBytes (s : State) (key : Nat) (bs : List OutByte) : List OutByte :=
  ((List.range bs.length).zip bs).map fun p =>
    (if s.svcTouched (key + p.1) then Config.freeByte s.free (key + p.1) else p.2.1, p.2.2)

/-- Read a local board range for a service. -/
def State.svcLocal (s : State) (ctx a n : Nat) : Except Nat (List Byte × Bool) :=
  match s.localPieces 4 0 ctx .rd a n with
  | .error r => .error r
  | .ok l =>
    let bs := l.flatMap fun p => s.svcBytes p.1 (s.keyBytes p.1 p.2.1)
    .ok (bs.map Prod.fst, bs.any Prod.snd)

/-- One piece of a read of a service. -/
def State.svcPiece (s : State) (ctx : Nat) (p : Nat × Nat × Nat) : SvcIn :=
  match s.svcSite ctx .rd p.1 with
  | .error r => .fault r p.1
  | .ok (.here key) => .got (s.svcBytes key (s.keyBytes key p.2.1))
  | .ok (.there g d pt x) =>
    match s.mgmt.svc.got.find? fun e => e.1 == (p.1, p.2.1) with
    | some (_, some bs) => .got bs
    | some (_, none) => .fault 0x06 p.1
    | none => .wait [{ who := .service p.1 p.2.1 false, ctx := ctx, kind := 0, group := g, dev := d, port := pt, addr := x
                       len := p.2.1 }]

/-- Read `n` bytes for a service. -/
def State.svcRead (s : State) (ctx a n : Nat) : SvcIn :=
  (pieces a n).foldr (fun p acc => (s.svcPiece ctx p).join acc) (.got [])

/-- Ask other devices for the pieces not asked before. -/
def State.svcAsk (s : State) (rs : List FReq) : State :=
  rs.foldl (fun t r => match r.who with
    | .service a n _ =>
      if t.mgmt.svc.asked.contains (a, n) then t
      else { t with mgmt := { t.mgmt with svc := { t.mgmt.svc with asked := t.mgmt.svc.asked ++ [(a, n)] } } }.submit r
    | _ => t) s

/-- Whether every piece of a range may be written, with the first fault. -/
def State.svcMayWrite (s : State) (ctx a n : Nat) : Option (Nat × Nat) :=
  (pieces a n).findSome? fun p => match s.svcSite ctx .wr p.1 with
    | .error r => some (r, p.1)
    | .ok _ => none

/-- A service writes bytes at a local key: not software, it touches no range of a waiting request. -/
def State.svcPut (s : State) (key : Nat) (bs : List OutByte) : State :=
  let u := s.putLocal key (s.svcBytes key bs)
  { u with mem := { u.mem with touched := s.mem.touched } }

/-- Write bytes for a service; pieces of other devices become transactions. -/
def State.svcWrite (s : State) (ctx a : Nat) (bs : List OutByte) : State :=
  (pieces a bs.length).foldl (fun t p =>
    let d := (bs.drop p.2.2).take p.2.1
    match t.svcSite ctx .wr p.1 with
    | .error _ => t
    | .ok (.here key) => t.svcPut key d
    | .ok (.there g dv pt x) =>
      { t with mgmt := { t.mgmt with svc := { t.mgmt.svc with wr := t.mgmt.svc.wr + 1 } } }.submit
        { who := .service p.1 p.2.1 true, ctx := ctx, kind := 1, group := g, dev := dv, port := pt, addr := x, len := p.2.1
          data := d.map Prod.fst, bad := badSlots x d }) s

/-- A fault of a service is recorded (R210); in the recovery area no Page Map takes part. -/
def State.svcXlate (s : State) (reason ctx a : Nat) : State :=
  if s.bootFail then s else s.recordXlate reason 6 ctx 0 a

/-! ### Serving a request -/

/-- The words of a block: `CTX` and `TALLY` (R426, R519, R521). -/
def sbFn (w : List W32) : Nat := wfld w 0 31 28
def sbCtx (w : List W32) : Nat := wfld w 0 5 0
def sbTally (w : List W32) : Nat := wfld w 1 31 20

/-- The bytes of a service's block. -/
def svcBlock (service : Nat) : Nat := if service = 0 then 128 else 64

/-- The head of the mailbox leaves it; what was drawn for it is not drawn again. -/
def State.svcDrop (s : State) : State :=
  let t := if s.mem.touched.isEmpty then s else s.fresh
  let rest := t.mgmt.mbox.drop 1
  { t with
    mem := if rest.isEmpty then { t.mem with handed := 0, touched := [] } else t.mem
    mgmt := { t.mgmt with mbox := rest, svc := {} } }

/-- A request ends: the words of its block are written, its tally increments, and the next one may be served. -/
def State.svcFinish (s : State) (ctx tally a : Nat) (ws : List (Nat × W32)) : State :=
  let t := ws.foldl (fun t w => t.svcWrite ctx (a + 4 * w.1) (clean (leBytes 4 w.2.toNat))) s
  ((t.addTally tally 1).event .boot 0x02 1).svcDrop

/-- The place of `STATUS` in a block. -/
def svcStatus (service : Nat) : Nat := if service = 0 then 16 else 12

/-- The words of a block that ends by a translation fault (R426, R519, R521). -/
def svcFail (service : Nat) : List (Nat × W32) := (if service = 0 then [(17, 0)] else []) ++ [(svcStatus service, 0x05)]

/-- The block of the request at the head of the mailbox, read through a context's view. -/
def State.svcHead (s : State) : Option (Nat × Nat × SvcIn) :=
  match s.mgmt.mbox with
  | [] => none
  | (sv, a) :: _ => some (sv, a, s.svcRead (s.svcAny a) a (svcBlock sv))

/-- What a service makes of its request: more reads, or an end with its `STATUS`, the further words of the block, and the
writes it makes. -/
inductive SvcRes where
  | more (rs : List FReq)
  | done (s : State) (status : Nat) (words : List (Nat × W32)) (writes : List (Nat × List OutByte))

/-- A request ends without writes. -/
def State.svcEnd (s : State) (status : Nat) : SvcRes := .done s status [] []

/-- Use what was read: a fault gives `STATUS` 0x05, poison 0x06 or what the service states. -/
def State.svcUse (s : State) (ctx poison : Nat) (i : SvcIn) (f : List Byte → SvcRes) : SvcRes :=
  match i with
  | .wait rs => .more rs
  | .fault r a => (s.svcXlate r ctx a).svcEnd 0x05
  | .got bs => if bs.any Prod.snd then s.svcEnd poison else f (bs.map Prod.fst)

/-- The writes are made, and the request ends once other devices have answered theirs. -/
def State.svcApply (s : State) (sv a ctx : Nat) (w : List W32) (r : SvcRes) : State :=
  match r with
  | .more rs => s.svcAsk rs
  | .done t status words writes =>
    let bad := writes.findSome? fun x => t.svcMayWrite ctx x.1 x.2.length
    match bad with
    | some (r, x) => (t.svcXlate r ctx x).svcFinish ctx (sbTally w) a (svcFail sv)
    | none =>
      let u := writes.foldl (fun u x => u.svcWrite ctx x.1 x.2) t
      let fin := words ++ [(svcStatus sv, w32 status)]
      if u.mgmt.svc.wr = 0 then u.svcFinish ctx (sbTally w) a fin
      else { u with mgmt := { u.mgmt with svc := { u.mgmt.svc with fin := some fin } } }

/-- Serve the request at the head of the mailbox if it is of service `sv` and one that `mine` takes (R518): the block is read
when it is served. A block whose own context may not reach it, or that is poisoned, is dropped. -/
def State.svcServe (s : State) (sv : Nat) (mine : List W32 → Bool) (job : State → List W32 → SvcRes) : State :=
  match s.svcHead with
  | none => s
  | some (v, a, i) =>
    if v ≠ sv || s.mgmt.svc.fin.isSome then s
    else match i with
      | .wait rs => s.svcAsk rs
      | .fault r x => (s.svcXlate r 0 x).svcDrop
      | .got bs =>
        let w := leWords (bs.map Prod.fst) (svcBlock sv / 4)
        if bs.any Prod.snd then s.svcDrop
        else if !(mine w) then s
        else match s.svcSite (sbCtx w) .rd a, s.svcSite (sbCtx w) .wr a with
          | .error r, _ => (s.svcXlate r (sbCtx w) a).svcDrop
          | _, .error r => (s.svcXlate r (sbCtx w) a).svcDrop
          | .ok _, .ok _ => s.svcApply sv a (sbCtx w) w (job s w)

/-- The answer to an access of a service at another device. -/
def State.svcAnswer (s : State) (a n : Nat) (wr ok : Bool) (bs : List OutByte) : State :=
  let v := s.mgmt.svc
  if !wr then
    { s with mgmt := { s.mgmt with svc := { v with got := v.got ++ [((a, n), if ok then some bs else none)] } } }
  else
    let v1 := { v with wr := v.wr - 1, bad := v.bad || !ok }
    let t := { s with mgmt := { s.mgmt with svc := v1 } }
    match decide (v1.wr = 0), v1.fin, t.svcHead with
    | true, some ws, some (sv, x, .got bs) =>
      let w := leWords (bs.map Prod.fst) (svcBlock sv / 4)
      if v1.bad then (t.svcXlate 0x06 (sbCtx w) a).svcFinish (sbCtx w) (sbTally w) x (svcFail sv)
      else t.svcFinish (sbCtx w) (sbTally w) x ws
    | _, _, _ => t

/-! ### Checkpoints (R426 to R431) -/

/-- The fields of a request block (R426). -/
def ckMode (w : List W32) : Nat := wfld w 0 27 26
def ckSrc (w : List W32) : Nat := wquad w 2 43
def ckDst (w : List W32) : Nat := wquad w 4 43
def ckLen (w : List W32) : Nat := wquad w 6 64
def ckExpect (w : List W32) : List Byte := wordsBytes ((w.drop 8).take 8)

/-- A reserved field of the block is nonzero, or its function or mode is not one of R427. -/
def ckBad (w : List W32) : Bool :=
  wfld w 0 25 6 != 0 || wfld w 1 19 0 != 0 || wfld w 3 31 11 != 0 || wfld w 5 31 11 != 0 || wfld w 16 31 8 != 0 ||
  (List.range 6).any (fun i => wordAt w (18 + i) != 0) || sbFn w == 0 || decide (6 ≤ sbFn w) ||
  (sbFn w != 4 && ckMode w != 0) || (sbFn w == 4 && ckMode w == 3)

/-- The words of `RESULT` and `DETAIL` (R426). -/
def ckResult (bs : List Byte) : List (Nat × W32) :=
  (List.range 8).map fun i => (24 + i, (leWords bs 8).getD i 0)
def ckDetail (n : Nat) : Nat × W32 := (17, w32 n)

/-- The table region: its bytes and its window offset (R427, R430). -/
def tableLen : Nat := 10551296
def ckTables : Nat := 0x400000

/-- The bits of the window byte at offset `o` that are pending fields (R427). -/
def pendingMask (o : Nat) : Byte :=
  if o < 0xC00000 then
    let r := o % 0x80
    if 0x40 ≤ r ∧ r < 0x48 then 0xFF else if r = 0x4C then 0x3F else 0
  else if o < 0xE00000 then
    let r := o % 0x100
    let q := r % 0x40
    if 0x80 ≤ r then 0 else if q < 48 ∨ q = 0x31 then 0xFF else if q = 0x30 then 0x07 else 0
  else if 8 ≤ o % 64 ∧ o % 64 < 16 then 0xFF else 0

/-- The offsets of a shard object (R430). -/
def objList : Nat := 0xA11000
def objPages : Nat := 0x1411000
def pageLen : Nat := 2 ^ 21

/-- The pages of a shard object with header and table region `h` are read: every digest of the object (R429, R430). -/
def State.ckptPages (s : State) (w : List W32) (h : List Byte) (bad : Bool) (r : Except Nat (List Byte × Bool)) : SvcRes :=
  let src := ckSrc w
  match r with
  | .error r => (s.svcXlate r (sbCtx w) ((src + objPages) % 2 ^ 43)).svcEnd 0x05
  | .ok (d, bad2) =>
    if bad || bad2 then s.svcEnd 0x06
    else
      let list := (List.range (leNat ((h.drop 0x18).take 4))).flatMap fun m => sha256 ((d.drop (m * pageLen)).take pageLen)
      let tbl := sha256 (h.drop 4096)
      let pd := sha256 list
      let head := h.take 0x20 ++ List.replicate 32 (0#8) ++ (h.take 0x90).drop 0x40 ++ tbl ++ pd ++ (h.take 4096).drop 0xD0
      let dg := sha256 head
      .done s 0x01 (ckDetail 0 :: ckResult dg)
        [((src + objList) % 2 ^ 43, clean list), ((src + 0x90) % 2 ^ 43, clean (tbl ++ pd)), ((src + 0x20) % 2 ^ 43, clean dg)]

/-- The header and the table region of a shard object are read; its pages follow (R430). -/
def State.ckptHead (s : State) (w : List W32) (r : Except Nat (List Byte × Bool)) : SvcRes :=
  match r with
  | .error r => (s.svcXlate r (sbCtx w) (ckSrc w)).svcEnd 0x05
  | .ok (h, bad) =>
    let pages := leNat ((h.drop 0x18).take 4)
    if 327680 < pages then s.svcEnd 0x03
    else s.ckptPages w h bad (s.svcLocal (sbCtx w) ((ckSrc w + objPages) % 2 ^ 43) (pages * pageLen))

/-- DIGEST (R427, R429, R430): every digest of the shard object. -/
def State.ckptDigest (s : State) (w : List W32) : SvcRes :=
  s.ckptHead w (s.svcLocal (sbCtx w) (ckSrc w) (4096 + tableLen))

/-- TABLES (R427): the table region with its pending fields zero. -/
def State.ckptTables (s : State) (w : List W32) : SvcRes :=
  if s.stepm.s0.st == .commit || s.stepm.s1.st == .commit then s.svcEnd 0x04
  else if !s.windowOk then s.svcEnd 0x05
  else
    let bs := (List.range tableLen).map fun i =>
      (s.hbmByte (s.windowKey (ckTables + i)) &&& ~~~(pendingMask (ckTables + i)), s.winPoison (ckTables + i))
    if bs.any Prod.snd then s.svcEnd 0x06 else .done s 0x01 [ckDetail 0] [(ckDst w, bs)]

/-- SIGN (R427). -/
def State.ckptSign (s : State) (w : List W32) : SvcRes :=
  if ckLen w % 64 ≠ 0 then s.svcEnd 0x03
  else s.svcUse (sbCtx w) 0x06 (s.svcRead (sbCtx w) (ckSrc w) (ckLen w)) fun bs =>
    match s.signed manifestContext (sha256 bs) with
    | (t, some sig) => .done t 0x01 [ckDetail 0] [((ckSrc w + ckLen w) % 2 ^ 43, clean (idKey ++ sig))]
    | (t, none) => t.svcEnd 0x02

/-- VERIFY of bytes (R427). -/
def State.verifyBytes (s : State) (w : List W32) : SvcRes :=
  s.svcUse (sbCtx w) 0x06 (s.svcRead (sbCtx w) (ckSrc w) (ckLen w)) fun bs =>
    let d := sha256 bs
    .done s (if d = ckExpect w then 0x01 else 0x02) (ckDetail 0 :: ckResult d) []

/-- The first page whose digest differs from its entry of the list. -/
def firstDiffer (bs list : List Byte) (n : Nat) : Option Nat :=
  (List.range n).find? fun m => sha256 ((bs.drop (m * pageLen)).take pageLen) != (list.drop (32 * m)).take 32

/-- VERIFY of a page list (R427). -/
def State.verifyPages (s : State) (w : List W32) : SvcRes :=
  let n := ckLen w / pageLen
  if ckLen w % pageLen ≠ 0 then s.svcEnd 0x03
  else
    match s.svcRead (sbCtx w) (ckSrc w) (ckLen w), s.svcRead (sbCtx w) (ckDst w) (32 * n) with
    | .got x, .got y =>
      if x.any Prod.snd || y.any Prod.snd then s.svcEnd 0x06
      else
        let list := y.map Prod.fst
        let d := sha256 list
        match firstDiffer (x.map Prod.fst) list n with
        | some m => .done s 0x02 (ckDetail m :: ckResult d) []
        | none => .done s (if d = ckExpect w then 0x01 else 0x02) (ckDetail 0 :: ckResult d) []
    | x, y => s.svcUse (sbCtx w) 0x06 (x.join y) fun _ => s.svcEnd 0x06

/-- VERIFY of a manifest signature (R427, R522). -/
def State.verifySig (s : State) (w : List W32) : SvcRes :=
  let c := sbCtx w
  s.svcUse c 0x06 ((s.svcRead c (ckSrc w) (ckLen w)).join (s.svcRead c ((ckSrc w + ckLen w) % 2 ^ 43) 17120)) fun bs =>
    let msg := bs.take (ckLen w)
    let key := (bs.drop (ckLen w)).take 32
    let sig := bs.drop (ckLen w + 32)
    let r := s.verified key manifestContext (sha256 msg) sig
    .done r.1 (if r.2 then 0x01 else 0x02) (ckDetail 0 :: ckResult (sha256 key)) []

/-- LOAD (R427): the table region is written into the four tables. -/
def State.ckptLoad (s : State) (w : List W32) : SvcRes :=
  if s.stepOpen then s.svcEnd 0x04
  else if !s.windowOk then s.svcEnd 0x05
  else s.svcUse (sbCtx w) 0x06 (s.svcRead (sbCtx w) (ckSrc w) tableLen) fun bs =>
    .done (s.winWrite ckTables bs) 0x01 [ckDetail 0] []

/-- A checkpoint request that ends without a page that differs: `DETAIL` is zero (R426). -/
def SvcRes.plain (r : SvcRes) : SvcRes :=
  match r with
  | .done s st [] ws => .done s st [ckDetail 0] ws
  | r => r

/-- A checkpoint request whose fields are in order. -/
def State.ckpt (s : State) (mine : List W32 → Bool) (job : State → List W32 → SvcRes) : State :=
  s.svcServe 0 mine fun t w => (if ckBad w then t.svcEnd 0x03 else job t w).plain

/-- CKPT_DIGEST (R427); the functions that are not used are refused here. -/
def execCkptDigest (s : State) : Host.Outcome State Fault Refusal :=
  .next (s.ckpt (fun w => sbFn w == 1 || sbFn w == 0 || decide (6 ≤ sbFn w)) State.ckptDigest)

/-- CKPT_TABLES (R427). -/
def execCkptTables (s : State) : Host.Outcome State Fault Refusal := .next (s.ckpt (fun w => sbFn w == 2) State.ckptTables)

/-- CKPT_SIGN (R427). -/
def execCkptSign (s : State) : Host.Outcome State Fault Refusal := .next (s.ckpt (fun w => sbFn w == 3) State.ckptSign)

/-- VERIFY_BYTES (R427); `MODE` 0b11 is refused here. -/
def execVerifyBytes (s : State) : Host.Outcome State Fault Refusal :=
  .next (s.ckpt (fun w => sbFn w == 4 && (ckMode w == 0 || ckMode w == 3)) State.verifyBytes)

/-- VERIFY_PAGE_LIST (R427). -/
def execVerifyPageList (s : State) : Host.Outcome State Fault Refusal :=
  .next (s.ckpt (fun w => sbFn w == 4 && ckMode w == 1) State.verifyPages)

/-- VERIFY_SIGNATURE (R427). -/
def execVerifySignature (s : State) : Host.Outcome State Fault Refusal :=
  .next (s.ckpt (fun w => sbFn w == 4 && ckMode w == 2) State.verifySig)

/-- CKPT_LOAD (R427). -/
def execCkptLoad (s : State) : Host.Outcome State Fault Refusal := .next (s.ckpt (fun w => sbFn w == 5) State.ckptLoad)

/-! ### The flash service (R519) -/

/-- The fields of a flash block. -/
def flAddr (w : List W32) : Nat := wquad w 2 43
def flOff (w : List W32) : Nat := (wordAt w 4).toNat
def flLen (w : List W32) : Nat := (wordAt w 5).toNat
def flSlot (w : List W32) : Nat := wfld w 8 0 0
def flTrial (w : List W32) : Nat := wfld w 8 8 8

/-- A field of the block that must be zero is not, or its function is none of R519. -/
def flBad (w : List W32) : Bool :=
  !(onlyBits (wordAt w 0) [(31, 28), (5, 0)]) || wfld w 1 19 0 != 0 || wfld w 3 31 11 != 0 ||
  [6, 7, 9, 10, 11, 13, 14, 15].any (fun i => wordAt w i != 0) || wfld w 12 31 8 != 0 ||
  (if sbFn w = 4 then !(onlyBits (wordAt w 8) [(8, 8), (0, 0)]) else wordAt w 8 != 0) ||
  sbFn w == 0 || decide (6 ≤ sbFn w)

/-- The running slot, if the device runs one (R519). -/
def State.runSlot (s : State) : Option Nat := if s.bootFail then none else some (s.flag .boot 0x100 29).toNat

/-- A flash range that ERASE and PROGRAM may change: an inactive slot or the board-use area (R519). -/
def State.flashOpen (s : State) (o n : Nat) : Bool :=
  (decide (0x3300000 ≤ o) && decide (o + n ≤ 2 ^ 26)) ||
  (List.range 2).any fun k => s.runSlot != some k && decide (slotBase k ≤ o) && decide (o + n ≤ slotBase k + slotSize)

/-- `BOOT_CTL.FL_LOCK` (R523, R527). -/
def State.flashLock (s : State) : Bool := s.flag .boot 0x104 0

/-- The board range of a flash block runs past the recovery area (R516). -/
def State.flashPast (s : State) (w : List W32) : Bool := s.bootFail && decide (recoverySize < flAddr w + flLen w)

/-- READ (R519). -/
def State.flRead (s : State) (w : List W32) : SvcRes :=
  if 2 ^ 26 < flOff w + flLen w ∨ s.flashPast w then s.svcEnd 0x02
  else if s.board.dead then s.svcEnd 0x04
  else .done s 0x01 [] [(flAddr w, clean (s.flashRead (flOff w) (flLen w)))]

/-- ERASE (R519). -/
def State.flErase (s : State) (w : List W32) : SvcRes :=
  if s.flashLock then s.svcEnd 0x06
  else if flOff w % 4096 ≠ 0 ∨ flLen w % 4096 ≠ 0 then s.svcEnd 0x03
  else if !(s.flashOpen (flOff w) (flLen w)) then s.svcEnd 0x02
  else if s.board.dead then s.svcEnd 0x04
  else (s.flashErase (flOff w) (flLen w)).svcEnd 0x01

/-- PROGRAM (R519): flash that is not erased ends it as a flash error. -/
def State.flProgram (s : State) (w : List W32) : SvcRes :=
  if s.flashLock then s.svcEnd 0x06
  else if flOff w % 256 ≠ 0 ∨ flLen w % 256 ≠ 0 then s.svcEnd 0x03
  else if !(s.flashOpen (flOff w) (flLen w)) || s.flashPast w then s.svcEnd 0x02
  else if s.board.dead || (s.flashRead (flOff w) (flLen w)).any (fun b => b != 0xFF) then s.svcEnd 0x04
  else s.svcUse (sbCtx w) 0x05 (s.svcRead (sbCtx w) (flAddr w) (flLen w)) fun bs =>
    ((s.flashPut (flOff w) bs).event .boot 0x03 (flLen w / 256)).svcEnd 0x01

/-- SELECT (R519): a slot that is valid becomes the preferred one. -/
def State.flSelect (s : State) (w : List W32) : SvcRes :=
  if s.flashLock then s.svcEnd 0x06
  else if s.board.dead then s.svcEnd 0x04
  else
    let t := s.slotVerified (flSlot w)
    if s.slotReason (flSlot w) ≠ 0 then t.svcEnd 0x07 else (t.bootCfgPut (flSlot w) (flTrial w)).svcEnd 0x01

/-- CONFIRM (R515, R519): the running slot is in trial no longer. -/
def State.flConfirm (s : State) (_ : List W32) : SvcRes :=
  match s.runSlot with
  | none => s.svcEnd 0x03
  | some k =>
    if s.board.dead then s.svcEnd 0x04
    else ((s.bootCfgPut k 0).setFlag .boot 0x100 28 false).svcEnd 0x01

/-- A flash request whose fields are in order. -/
def State.flash (s : State) (mine : List W32 → Bool) (job : State → List W32 → SvcRes) : State :=
  s.svcServe 1 mine fun t w => if flBad w then t.svcEnd 0x03 else job t w

/-- FLASH_READ (R519); the functions that are not used are refused here. -/
def execFlashRead (s : State) : Host.Outcome State Fault Refusal :=
  .next (s.flash (fun w => sbFn w == 1 || sbFn w == 0 || decide (6 ≤ sbFn w)) State.flRead)

/-- FLASH_ERASE (R519). -/
def execFlashErase (s : State) : Host.Outcome State Fault Refusal := .next (s.flash (fun w => sbFn w == 2) State.flErase)

/-- FLASH_PROGRAM (R519). -/
def execFlashProgram (s : State) : Host.Outcome State Fault Refusal := .next (s.flash (fun w => sbFn w == 3) State.flProgram)

/-- FLASH_SELECT (R519). -/
def execFlashSelect (s : State) : Host.Outcome State Fault Refusal := .next (s.flash (fun w => sbFn w == 4) State.flSelect)

/-- FLASH_CONFIRM (R519). -/
def execFlashConfirm (s : State) : Host.Outcome State Fault Refusal := .next (s.flash (fun w => sbFn w == 5) State.flConfirm)

end Sys2Proof.Machine
end

