-- ==== Sys2Proof/Machine/Transcend.lean ====
section
/-! DEFINITION. The functions of Brook whose values are not rational: RSQRT, EXP and LOG (R155, R156), as exact values with
a sticky last bit far below every rounding boundary, so that one rounding of them is correct. -/
namespace Sys2Proof.Machine

/-- 1 ÷ √(m × 2^e) for a positive magnitude, with a sticky last bit. -/
def rsqrtMag (m : Nat) (e : Int) : Nat × Int :=
  let m' := if e % 2 = 0 then m else 2 * m
  let e' := if e % 2 = 0 then e else e - 1
  let k := 128 + m'.log2
  let q := 2 ^ (2 * k) / m'
  let r := isqrt q
  (2 * r + (if r * r * m' = 2 ^ (2 * k) then 0 else 1), -(e' / 2) - k - 1)

/-- The reciprocal square root; RSQRT of a zero is the infinity of its sign, of a negative value a NaN. -/
def Num.rsqrt : Num → Num
  | .nan => .nan
  | .inf n => if n then .nan else .fin false 0 0
  | .fin n m e =>
    if m = 0 then .inf n
    else if n then .nan
    else let r := rsqrtMag m e; .fin false r.1 r.2

/-- The terms of 2 × atanh(p / q) in units of 2^−f, `n` of them: Σ 2 (p/q)^(2i+1) / (2i+1). -/
def atanhSum : Nat → Int → Int → Nat → Int → Int
  | 0, _, _, _, acc => acc
  | n + 1, t, z2, i, acc => atanhSum n (t * z2 / (2 ^ 2048)) z2 (i + 1) (acc + 2 * t / (2 * i + 1))

/-- ln of the rational a / b in [1/2, 2] in units of 2^−2048, to within 2^−2000. -/
def lnUnit (a b : Nat) : Int :=
  let z : Int := (((a : Int) - b) * 2 ^ 2048) / (a + b)
  atanhSum 700 z (z * z / 2 ^ 2048) 0 0

/-- ln 2 in units of 2^−2048. -/
def ln2 : Int := lnUnit 2 1

/-- The terms of e^x − 1 for x in units of 2^−2048. -/
def expSum : Nat → Int → Int → Nat → Int → Int
  | 0, _, _, _, acc => acc
  | n + 1, t, x, i, acc =>
    let u := t * x / (2 ^ 2048) / (i + 1)
    expSum n u x (i + 1) (acc + u)

/-- A magnitude known in units of 2^e, cut to a sticky form of at most 256 bits. -/
def stickyCut (m : Nat) (e : Int) : Nat × Int :=
  let k := m.log2 - 200
  (2 * (m / 2 ^ k) + 1, e + k - 1)

/-- e^x (R155). Beyond ±512 the value lies past every format and scale, or below them; within, e^x − 1 for a magnitude
below 2^−600 lies nearer to 1 than any format distinguishes. -/
def Num.exp : Num → Num
  | .nan => .nan
  | .inf n => if n then .fin false 0 0 else .inf false
  | .fin neg m e =>
    if m = 0 then .fin false 1 0
    else if 9 ≤ (m.log2 : Int) + e then (if neg then .fin false 1 (-1000) else .fin false 1 1000)
    else if (m.log2 : Int) + e < -600 then
      (if neg then .fin false (2 ^ 700 - 1) (-700) else .fin false (2 ^ 700 + 1) (-700))
    else
      let x : Int := (shiftNat m (e + 2048) : Nat)
      let x := if neg then -x else x
      let k := (x + ln2 / 2) / ln2
      let y := 2 ^ 2048 + expSum 400 (2 ^ 2048) (x - k * ln2) 0 0
      let s := stickyCut y.toNat (k - 2048)
      .fin false s.1 s.2

/-- ln x (R155): ln 1 is exactly 0; LOG of a zero is −infinity, of a negative value a NaN. -/
def Num.log : Num → Num
  | .nan => .nan
  | .inf n => if n then .nan else .inf false
  | .fin neg m e =>
    if m = 0 then .inf true
    else if neg then .nan
    else
      let k := m.log2
      if m = 2 ^ k ∧ (k : Int) + e = 0 then .fin false 0 0
      else
        -- m × 2^e = (m / 2^k) × 2^(k + e), with m / 2^k in [1, 2)
        let y := lnUnit m (2 ^ k) + ((k : Int) + e) * ln2
        let s := stickyCut y.natAbs (-2048)
        .fin (decide (y < 0)) s.1 s.2

end Sys2Proof.Machine
end

