-- ==== Sys2Proof/Machine/Brook.lean ====
section
/-! DEFINITION. Brook (R152 to R169): acceptance, the functions, strict mode, the optimiser update, and completion. -/
namespace Sys2Proof.Machine

/-! ### Acceptance (R46, R166) -/

/-- The regions of an operand meet R92: a matrix, a raw tile's header, a row vector, or nothing for a scalar. -/
def brRegionOk (d : List W32) (f : Fmt) (x : Nat) : Bool :=
  let a := bdAddr d x
  let kind := if x = 3 then (if fnRow (bdFn d) then 2 else 0) else bdKind d x
  match kind with
  | 0 => regionOk a (bdRows d) (bdStride d x) (f.runBytes (bdLen d))
  | 1 => regionOk a 1 0 64
  | 2 => regionOk a 1 0 (f.runBytes (bdRows d))
  | _ => true

/-- The reserved fields are zero; the fields of unused sources are ignored. -/
def bdReservedOk (d : List W32) : Bool :=
  wfld d 0 22 20 == 0 && wfld d 0 9 8 == 0 && wfld d 1 7 0 == 0 && wfld d 2 31 20 == 0 && wfld d 6 31 24 == 0 &&
  wfld d 13 7 4 == 0 && wfld d 14 15 0 == 0 && wordAt d 15 == 0 &&
  (fnUses (bdFn d)).all fun x => wfld d (3 + x) 27 24 == 0

/-- The strict-mode conditions of R162. -/
def bdStrictOk (d : List W32) : Bool :=
  !(fnOpt (bdFn d)) && bdFmtD d ∈ [6, 7] && decide (bdRnd d ≤ 1) && bdNs d 3 &&
  (fnUses (bdFn d)).all fun x => bdFmt d x ∈ [5, 6, 7] && bdKind d x != 1 && bdNs d x

/-- The op converts to F4 or INT4 (R57, R58). -/
def bdTo4 (d : List W32) : Bool := bdFmtD d == 3 || bdFmtD d == 4

/-- The formats, kinds and rounding of R152, R153, R156 and R159; a destination may be any format (R57). The format code and the
Scale Table entry of a raw-tile source are not judged (R46: the spec does not say, log entry 110). -/
def bdFormatsOk (d : List W32) : Bool :=
  let ok (c : Nat) : Bool := c ∈ [0, 1, 2, 5, 6, 7]
  decide (bdFmtD d < 8) && (fnUses (bdFn d)).all (fun x => ok (bdFmt d x) || bdKind d x == 1) &&
  bdRnd d != 3 && (bdRnd d != 2 || (fnSr (bdFn d) && bdFmtD d ∈ [5, 6])) &&
  (fnUses (bdFn d)).all (fun x => bdKind d x != 3 ||
    (bdAddr d x / 2 ^ 22 != 3 && (bdAddr d x / 2 ^ 22 != 0 || bdAddr d x % 4 == 0))) &&
  (!(fnOpt (bdFn d)) || (bdRnd d == 2 && bdFmtD d ∈ [5, 6] && bdFmt d 1 == bdFmtD d && bdFmt d 2 == bdFmtD d &&
    bdKind d 1 == 0 && bdKind d 2 == 0))

/-- The descriptor breaks R46 or R55: an unused code, a format in a position that R45 does not permit, an unused rounding, or a
stochastic one for another target. -/
def bdFormatCodeBad (d : List W32) : Bool :=
  decide (8 ≤ bdFmtD d) || bdRnd d == 3 || (bdRnd d == 2 && !(bdFmtD d ∈ [5, 6])) ||
    (fnUses (bdFn d)).any (fun x => !(bdFmt d x ∈ [0, 1, 2, 5, 6, 7]) && bdKind d x != 1) ||
    (fnOpt (bdFn d) && [1, 2, 3].any fun x => !(bdFmt d x ∈ [5, 6]))

/-- `COLD` of the output (R72). -/
def State.bdCold (s : State) (d : List W32) : Bool :=
  !(fnOpt (bdFn d)) && decide (bdFmtD d < 3) && s.scaleCold (bdNs d 3) (bdScl d 3)

/-- The uses of the entries of A, B, C and D; a scalar is FP32 whatever its entry's WIDE bits say (R72, R153). -/
def State.bdUses (s : State) (d : List W32) (j : Option Nat) : List ScaleUse :=
  (List.range 4).map fun x =>
    if bdNames d x then s.scaleUse false (bdScl d x) (if x < 3 ∧ bdKind d x = 3 then none else j)
    else { nonsat := s.ovfDefault }

/-- The reason of the first refusal (R168), or 0; the flag says that R46 refuses (R75). -/
def State.bdJudge (s : State) (d : List W32) (us : List ScaleUse) (cold : Bool) : Nat × Bool :=
  if wfld d 0 7 0 ≠ 0x31 ∨ !(bdReservedOk d) then (1, false)
  else if fnUses (bdFn d) = [] ∨ bdRows d = 0 ∨ bdLen d = 0 then (2, false)
  else if bdStrict d && !(bdStrictOk d) then (5, bdFormatCodeBad d)
  else if !(bdFormatsOk d) then (3, bdFormatCodeBad d)
  else if !((bdOperands d).all fun x => brRegionOk d (brFmt d (us.getD x {}) cold x) x) then (4, false)
  else if !((bdOperands d).all fun x => !(bdNames d x) || s.scaleOk false (bdScl d x) (bdFmt d x)) then (7, true)
  else if fnOpt (bdFn d) && bdParam d % 32 != 0 then (7, false)
  else (0, false)

/-- A tile op, with the words of its epilogue record, folds Norm Table entry `i` for slot `j` (R133). -/
def foldsNorm (d epi : List W32) (slot : Option Nat) (i j : Nat) : Bool :=
  tdDrain d && !(tdRaw d) && tdEpi d != 0 && epNrm epi && epNrmIdx epi == i && slot.getD 0 == j

/-- A drain that folds Norm Table entry `i` for slot `j` is still to come: its op is accepted, or waits at a Ridge (R153, log
entry 113). -/
def State.normPending (s : State) (i j : Nat) : Bool :=
  (List.range 64).any fun n =>
    (s.ridge n).tileOps.any (fun o => o.ph != .writing && o.ph != .held && foldsNorm o.desc.words o.epi o.jslot i j) ||
      (s.ridge n).tileIn.any fun d => foldsNorm d.words (s.tdEpiRec n d.words) (s.curSlot d.ctx false) i j

/-- A scalar source's word (R153): its address in data memory, or a Norm Table value; none if it is poisoned. A pending sum that
is not yet complete is unpredictable. -/
def State.brScalar (s : State) (n a : Nat) (j : Option Nat) : Option W32 :=
  let i := a % 2 ^ 12
  let o := normOff i
  match a / 2 ^ 22 with
  | 0 => if (s.core (5 + n)).dmemPoison (a % 2 ^ 16) 1 then none
    else some (wordAt ((s.core (5 + n)).dmemWords (a % 2 ^ 16) 1) 0)
  | 1 => if !s.windowOk then some 0 else if s.winPoison (o + 0x80) then none else some (s.winWord (o + 0x80))
  | _ =>
    let b := o + 0x40 * j.getD 0
    if !s.windowOk then some 0
    else if s.winPoison b then none
    else if s.normPending i (j.getD 0) then some (Config.freeWord s.free (2 ^ 40 + i))
    else some (sumWord (s.winNat b 40))

/-- A source of the op is a pending sum. -/
def bdSums (d : List W32) : Bool := (fnUses (bdFn d)).any fun x => bdKind d x == 3 && bdAddr d x / 2 ^ 22 == 2

/-- The scalar words of A, B and C (zero where a source is not a scalar); none if one is poisoned. -/
def State.brScalars (s : State) (n : Nat) (d : List W32) (j : Option Nat) : Option (List W32) :=
  (List.range 3).foldr (fun x acc => match acc with
    | none => none
    | some l =>
      if (fnUses (bdFn d)).contains x && bdKind d x == 3 then (s.brScalar n (bdAddr d x) j).map fun w => w :: l
      else some (0 :: l)) (some [])

/-- A Norm Table granule that a scalar names is poisoned (R543). -/
def State.brTablePoison (s : State) (d : List W32) (j : Option Nat) : Bool :=
  (fnUses (bdFn d)).any fun x => bdKind d x == 3 && s.windowOk &&
    ((bdAddr d x / 2 ^ 22 == 1 && s.winPoison (normOff (bdAddr d x % 2 ^ 12) + 0x80)) ||
      (bdAddr d x / 2 ^ 22 == 2 && s.winPoison (normOff (bdAddr d x % 2 ^ 12) + 0x40 * j.getD 0)))

/-- A Brook descriptor or op is refused (R166, R154): recorded, and a descriptor fault. -/
def State.brookRefuse (s : State) (n : Nat) (d : Desc) (reason : Nat) (fmt : Bool) : State :=
  let t := if s.flag (.brk n) 0x108 31 then s else s.setReg (.brk n) 0x108 (w32 (2 ^ 31 + reason))
  let u := (t.setErr (.brk n) 0).opFault d 0x09 reason 0x31
  if fmt then u.setErr .scl 0 else u

/-- What the reads of data memory at acceptance meet (R217): the parameter record, or the first scalar taken from there. -/
def State.brookMeets (s : State) (n : Nat) (d : List W32) (e : Ecc) : State :=
  if fnOpt (bdFn d) && bdParam d % 32 == 0 then s.dmemMeets (5 + n) (bdParam d) 16 e
  else match (fnUses (bdFn d)).find? fun x => bdKind d x == 3 && bdAddr d x / 2 ^ 22 == 0 && bdAddr d x % 4 == 0 with
    | some x => s.dmemMeets (5 + n) (bdAddr d x % 2 ^ 16) 1 e
    | none => s

/-- BROOK_OP_ACCEPT (R153, R166, R167, R229, R543): the Ridge sequencer takes the oldest Brook op descriptor; `e` is what its
reads of the sequencer's data memory meet (R217). -/
def execBrookOpAccept (ridge : Fin 64) (e : Ecc) (s : State) : Host.Outcome State Fault Refusal :=
  let n := ridge.val
  let r := s.ridge n
  .next (match r.brookIn with
    | [] => s
    | d :: rest =>
      if !(r.admits d.ctx) || decide (16 ≤ r.brookOps.length) then s
      else
        let w := d.words
        let s := s.brookMeets n w e
        let t := s.setRidge n { r with brookIn := rest }
        let j := s.curSlot d.ctx (fnOpt (bdFn w))
        let us := s.bdUses w j
        let cold := s.bdCold w
        let v := s.bdJudge w us cold
        let par := fnOpt (bdFn w) && v.1 == 0
        if v.1 = 1 ∨ v.1 = 2 then t.brookRefuse n d v.1 v.2
        else if (bdOperands w).any fun x => bdNames w x && s.scalePoison false (bdScl w x) then
          (t.setErr .scl 3).opFault d 0x0A 0 0x31
        else if v.1 ≠ 0 then t.brookRefuse n d v.1 v.2
        else if par && (s.core (5 + n)).dmemPoison (bdParam w) 16 then t.opFault d 0x0A 0 0x31
        else match s.brScalars n w j with
          | none => (if s.brTablePoison w j then t.setErr .scl 3 else t).opFault d 0x0A 0 0x31
          | some sc =>
            let si := s.screeInputs j
            let o : BrookOp :=
              { id := r.nextId, desc := d, jslot := j, seed := si.1, step := si.2, uses := us, cold := cold, scalars := sc
                params := if par then (s.core (5 + n)).dmemWords (bdParam w) 16 else [], since := s.refcnt }
            (if bdSums w then t.fresh else t).setRidge n { r with brookIn := rest, brookOps := r.brookOps ++ [o], owner := d.ctx, nextId := r.nextId + 1 })

/-! ### Operands -/

/-- A source element: its real value, its code and format (for NaN payloads), whether it is poisoned. -/
structure BEl where
  x : Num := .fin false 0 0
  code : Nat := 0
  fmt : Fmt := .fp32
  bad : Bool := false

/-- Element (row, i) of operand `x` (R152, R154). -/
def Ridge.brElem (r : Ridge) (o : BrookOp) (x row i : Nat) : BEl :=
  let d := o.desc.words
  match o.kind x with
  | 1 =>
    let a := bdAddr d x
    let h := r.chainHdr a
    let e := r.chainEntry a h.form (row * bdLen d + i)
    { x := (e.1.num (h.form == 3)).scale (-h.shift), bad := e.2 || r.tarnPoison a 64 }
  | 3 =>
    let c := wordAt o.scalars x
    { x := (fp32Val c).scale (-(o.expo x)), code := c.toNat }
  | _ =>
    let f := o.fmt x
    let a := o.addr x row i
    let c := r.tarnNat a f.bytes
    { x := (f.decode c).scale (-(o.expo x)), code := c, fmt := f, bad := r.tarnPoison a f.bytes }

/-- A raw-tile source does not suit the op (R154). -/
def Ridge.brRawBad (r : Ridge) (o : BrookOp) : Bool :=
  (fnUses (bdFn o.desc.words)).any fun x => o.kind x == 1 &&
    let a := bdAddr o.desc.words x
    let h := r.chainHdr a
    !(h.form ∈ [1, 2, 3]) || h.rows != bdRows o.desc.words || h.cols != bdLen o.desc.words ||
      decide (tarnSize < a + rawSize h.form (h.rows * h.cols))

/-! ### The functions (R155, R156) -/

/-- What a function comes to: its IEEE 754 value, and whether the operation is invalid or divides by zero; then no exact
mathematical result exists. -/
structure FnRes where
  x : Num
  invalid : Bool := false
  divzero : Bool := false

/-- The sum of infinities of opposite signs. -/
def addInvalid (a b : Num) : Bool := a.isInf && b.isInf && a.sign != b.sign
/-- The product of a zero and an infinity. -/
def mulInvalid (a b : Num) : Bool := (a.isInf && b.isZero) || (a.isZero && b.isInf)

/-- The larger or the smaller value (R156): max(+0, −0) is +0, min(+0, −0) is −0. -/
def numMax (a b : Num) : Num :=
  if a.isNan || b.isNan then .nan else if a.lt b then b else if b.lt a then a else if a.sign then b else a
def numMin (a b : Num) : Num :=
  if a.isNan || b.isNan then .nan else if a.lt b then a else if b.lt a then b else if a.sign then a else b

/-- A negative value other than −0. -/
def negative (a : Num) : Bool := a.sign && !a.isZero && !a.isNan

/-- An element-wise function of real values. -/
def fnValue (fn : Nat) (a b c : Num) : FnRes :=
  match fn with
  | 0x00 => { x := a }
  | 0x01 => { x := a.add b, invalid := addInvalid a b }
  | 0x02 => { x := a.sub b, invalid := addInvalid a b.neg }
  | 0x03 => { x := a.mul b, invalid := mulInvalid a b }
  | 0x04 => { x := (a.mul b).add c, invalid := mulInvalid a b || addInvalid (a.mul b) c }
  | 0x05 => { x := numMax a b }
  | 0x06 => { x := numMin a b }
  | 0x07 => { x := a.div b, invalid := (a.isInf && b.isInf) || (a.isZero && b.isZero)
              divzero := a.isFin && !a.isZero && b.isZero }
  | 0x08 => { x := a.sqrt, invalid := negative a }
  | 0x09 => { x := a.rsqrt, invalid := negative a, divzero := a.isZero }
  | 0x0A => { x := a.exp }
  | _ => { x := a.log, invalid := negative a, divzero := a.isZero }

/-! ### Strict mode (R162) -/

/-- The flags of `STRICT_FLAGS`. -/
structure SFlags where
  invalid : Bool := false
  divzero : Bool := false
  overflow : Bool := false
  underflow : Bool := false
  inexact : Bool := false

def SFlags.code (f : SFlags) : Nat :=
  f.inexact.toNat + 2 * f.underflow.toNat + 4 * f.overflow.toNat + 8 * f.divzero.toNat + 16 * f.invalid.toNat

/-- A nonzero value is tiny after rounding with an unbounded exponent range. -/
def tinyAfter (f : FpSpec) (mode : Rnd) (x : Num) : Bool :=
  match x with
  | .fin _ m e =>
    if m = 0 then false
    else
      let q : Int := (m.log2 : Int) + e - f.mant
      let n := roundMul mode 0 m e q
      decide ((n.log2 : Int) + q < f.emin + f.mant)
  | _ => false

/-- The mantissa of a NaN made quiet, with its sign: the NaN code in format `g` (R162). -/
def quietNan (f g : FpSpec) (code : Nat) : Nat :=
  let m := code % 2 ^ f.mant ||| 2 ^ (f.mant - 1)
  let m' := if f.mant ≤ g.mant then m * 2 ^ (g.mant - f.mant) else m / 2 ^ (f.mant - g.mant)
  code / 2 ^ (f.width - 1) % 2 * 2 ^ (g.width - 1) + (g.infCode.getD 0) + m'

/-- The element is a signalling NaN. -/
def BEl.signalling (e : BEl) : Bool :=
  match e.fmt.fp with
  | some f => e.x.isNan && !(e.code.testBit (f.mant - 1))
  | none => false

/-- One strict operation: its result rounded by `mode` to format `g`, with overflow under R56, and the flags it sets. -/
def strictRound (g : Fmt) (mode : Rnd) (nonsat : Bool) (r : FnRes) (ops : List BEl) (fl : SFlags) : Nat × SFlags :=
  let gs := (g.fp).getD fp32
  let fl := { fl with invalid := fl.invalid || r.invalid || ops.any BEl.signalling, divzero := fl.divzero || r.divzero }
  match r.x with
  | .nan =>
    match ops.find? fun e => e.x.isNan with
    | some e => (match e.fmt.fp with | some f => quietNan f gs e.code | none => gs.nanCode, fl)
    | none => (gs.nanCode, fl)
  | x =>
    let c := gs.conv mode nonsat 0 x
    (c.code, { fl with overflow := fl.overflow || (c.past && x.isFin), inexact := fl.inexact || c.inexact
                       underflow := fl.underflow || (tinyAfter gs mode x && c.inexact) })

/-- An FP32 code as an operand. -/
def fpEl (c : Nat) : BEl := { x := fp32Val (w32 c), code := c }

/-- A strict row function over a row's elements (R162): every operation rounded in FP32, then once to `FMT_D`. -/
def strictRow (fn : Nat) (g : Fmt) (mode : Rnd) (nonsat : Bool) (es : List (BEl × BEl)) (fl : SFlags) : Nat × SFlags :=
  let step (acc : BEl × SFlags) (e : BEl × BEl) : BEl × SFlags :=
    let a := e.1
    let b := e.2
    let c := acc.1
    let r : FnRes × List BEl := match fn with
      | 0x0C => ({ x := numMax a.x c.x }, [a, c])
      | 0x0D => ({ x := c.x.add a.x, invalid := addInvalid c.x a.x }, [a, c])
      | 0x0E => (fnValue 0x04 a.x a.x c.x, [a, c])
      | _ => (fnValue 0x04 a.x b.x c.x, [a, b, c])
    let q := strictRound .fp32 mode true r.1 r.2 acc.2
    (fpEl q.1, q.2)
  let init : BEl := if fn = 0x0C then fpEl 0xFF800000 else fpEl 0
  let acc := es.foldl step (init, fl)
  strictRound g mode nonsat { x := acc.1.x } [acc.1] acc.2

/-! ### Executing an op -/

/-- One value to be stored: operand written, row, element, code, poisoned, and its real value. -/
structure BOut where
  x : Nat
  row : Nat
  i : Nat
  code : Nat
  bad : Bool
  v : Num := .fin false 0 0

/-- What execution gathers. -/
structure BRun where
  outs : List BOut := []
  flags : SFlags := {}
  sr : Nat := 0
  poison : Bool := false

/-- The overflow mode of operand `x` (R56): FP32 follows IEEE 754. -/
def BrookOp.nonsat (o : BrookOp) (x : Nat) : Bool := o.fmt x == .fp32 || (o.use x).nonsat

/-- The rounding of an op. -/
def BrookOp.mode (o : BrookOp) : Rnd := (Rnd.ofCode (bdRnd o.desc.words)).getD .rne

/-- A free code of a format: a NaN is canonical (R48). -/
def Fmt.freeCode (f : Fmt) (x : W32) : Nat :=
  let c := x.toNat % 2 ^ f.width
  if (f.decode c).isNan then (f.conv .rne false 0 .nan).code else c

/-- The real value of a fast-mode result: the canonical NaN where an operand is NaN (R48); free where no exact result exists. -/
def fastValue (free row i : Nat) (nan : Bool) (r : FnRes) : Num :=
  if nan then .nan
  else if r.invalid || r.divzero then fp32Val (Config.freeWord free (row * 2 ^ 20 + i))
  else r.x

/-- Round a fast-mode result for operand `x` at (row, i); `nan` says that an operand is NaN. Where no exact result exists, the code
is free. -/
def BrookOp.roundFast (o : BrookOp) (free x k row i : Nat) (nan nonsat : Bool) (r : FnRes) : Nat :=
  let d := o.desc.words
  let f := o.fmt x
  if !nan && (r.invalid || r.divzero) then f.freeCode (Config.freeWord free (row * 2 ^ 20 + i))
  else
    let draw := if o.mode = .sr then
        scree o.seed o.step (w32 ((bdTensor d + k) % 2 ^ 24)) ((bdElem d + row * bdElemRs d + i) % 2 ^ 40) else 0
    (f.conv o.mode nonsat draw ((if nan then Num.nan else r.x).scale (o.expo x))).code

/-- One element of an element-wise function. In strict mode IEEE 754 leaves it open whether ∞ × 0 plus a NaN is invalid: that flag
is free. -/
def Ridge.brElement (r : Ridge) (o : BrookOp) (free row : Nat) (run : BRun) (i : Nat) : BRun :=
  let d := o.desc.words
  let us := fnUses (bdFn d)
  let e (x : Nat) : BEl := if us.contains x then r.brElem o x row i else {}
  let a := e 0
  let b := e 1
  let c := e 2
  let v := fnValue (bdFn d) a.x b.x c.x
  let bad := a.bad || b.bad || c.bad
  let nan := a.x.isNan || b.x.isNan || c.x.isNan
  let sv := if c.x.isNan && v.invalid then { v with invalid := Config.freeBit free (row * 2 ^ 20 + i) } else v
  let q : Nat × SFlags := if bdStrict d then strictRound (o.fmt 3) o.mode (o.nonsat 3) sv ((us.map e)) run.flags
    else (o.roundFast free 3 0 row i nan (o.nonsat 3) v, run.flags)
  { run with outs := { x := 3, row := row, i := i, code := q.1, bad := bad, v := fastValue free row i nan v } :: run.outs
             flags := q.2
             sr := run.sr + (o.mode == .sr).toNat, poison := run.poison || bad }

/-- One row of a row function (R157). -/
def Ridge.brRow (r : Ridge) (o : BrookOp) (free row : Nat) (run : BRun) : BRun :=
  let d := o.desc.words
  let fn := bdFn d
  let es := (List.range (bdLen d)).map fun i => (r.brElem o 0 row i, if fn = 0x0F then r.brElem o 1 row i else {})
  let bad := es.any fun e => e.1.bad || e.2.bad
  let term (e : BEl × BEl) : FnRes := match fn with
    | 0x0E => fnValue 0x03 e.1.x e.1.x e.1.x
    | 0x0F => fnValue 0x03 e.1.x e.2.x e.1.x
    | _ => { x := e.1.x }
  let join (a b : FnRes) : FnRes :=
    if fn = 0x0C then { x := numMax a.x b.x }
    else
      let nan := a.x.isNan && !a.invalid || b.x.isNan && !b.invalid
      { x := a.x.add b.x, invalid := !nan && (a.invalid || b.invalid || addInvalid a.x b.x) }
  let v := match es with
    | [] => { x := .fin false 0 0 }
    | e :: l => l.foldl (fun a x => join a (term x)) (term e)
  let q : Nat × SFlags := if bdStrict d then strictRow fn (o.fmt 3) o.mode (o.nonsat 3) es run.flags
    else (o.roundFast free 3 0 row 0 false (o.nonsat 3) v, run.flags)
  { run with outs := { x := 3, row := row, i := 0, code := q.1, bad := bad, v := fastValue free row 0 false v } :: run.outs
             flags := q.2
             sr := run.sr + (o.mode == .sr).toNat, poison := run.poison || bad }

/-- One operation of the optimiser: FP32, rounded to nearest even (R159). -/
def optFma (a b c : Num) : Num := rnd32 ((a.mul b).add c)
def optMul (a b : Num) : Num := rnd32 (a.mul b)

/-- One element of OPT_ADAMW: w′, m′ and v′. -/
def adamw (p : Nat → Num) (g w m v : Num) : List Num :=
  let g1 := optMul g (p 9)
  let m1 := optMul (p 1) m
  let m' := optFma (p 2) g1 m1
  let g2 := optMul g1 g1
  let v1 := optMul (p 3) v
  let v' := optFma (p 4) g2 v1
  let mh := optMul m' (p 5)
  let vh := optMul v' (p 6)
  let s := rnd32 ((rnd32 vh.sqrt).add (p 7))
  let q := rnd32 (mh.div s)
  let u := optFma (p 8) w q
  [optFma (p 0).neg u w, m', v']

/-- One element of OPT_SGDM: w′ and m′. -/
def sgdm (p : Nat → Num) (g w m : Num) : List Num :=
  let g1 := optMul g (p 9)
  let m' := optFma (p 10) m g1
  let u := optFma (p 8) w m'
  [optFma (p 0).neg u w, m']

/-- One element of an optimiser update (R159); a NaN or an infinity in g gives NaN or infinite results, whatever the overflow mode
(R160). -/
def Ridge.brOpt (r : Ridge) (o : BrookOp) (free row : Nat) (run : BRun) (i : Nat) : BRun :=
  let d := o.desc.words
  let p (k : Nat) : Num := fp32Val (wordAt o.params k)
  let e := (bdReads d).map fun x => r.brElem o x row i
  let x (k : Nat) : Num := rnd32 (e.getD k {}).x
  let bad := e.any BEl.bad
  let vs := if bdFn d = 0x10 then adamw p (x 0) (x 1) (x 2) (x 3) else sgdm p (x 0) (x 1) (x 2)
  let special := !(x 0).isFin
  let outs := ((bdWrites d).zip ((List.range 3).zip vs)).map fun q =>
    ({ x := q.1, row := row, i := i, bad := bad
       code := o.roundFast free q.1 q.2.1 row i false (special || o.nonsat q.1) { x := q.2.2 } } : BOut)
  { run with outs := outs.reverse ++ run.outs, sr := run.sr + outs.length, poison := run.poison || bad }

/-- All elements of an op. -/
def Ridge.brRun (r : Ridge) (o : BrookOp) (free : Nat) : BRun :=
  let d := o.desc.words
  (List.range (bdRows d)).foldl (fun run row =>
    if fnRow (bdFn d) then r.brRow o free row run
    else if fnOpt (bdFn d) then (List.range (bdLen d)).foldl (r.brOpt o free row) run
    else (List.range (bdLen d)).foldl (r.brElement o free row) run) {}

/-- The places of two operands, row by row, meet other than element for element (R158): no part of one meets a part of the other,
but that of the same row where it starts and ends with it and its elements are of the same size. -/
def BrookOp.meets (o : BrookOp) (form x y : Nat) : Bool :=
  let p := o.spans form x
  let q := o.spans form y
  let same := o.kind x != 1 && o.kind y != 1 && (o.fmt x).bytes == (o.fmt y).bytes && !(o.fmt x).packed && !(o.fmt y).packed
  (List.range p.length).any fun i => (List.range q.length).any fun j =>
    let a := p.getD i (0, 0)
    let b := q.getD j (0, 0)
    decide (a.1 < b.1 + b.2) && decide (b.1 < a.1 + a.2) && !(same && i == j && a == b)

/-- The written operand `y` overlaps what the op reads other than element for element, a source of a row function at all, or
another written operand: what is written there is unpredictable (R158). -/
def BrookOp.overlaps (o : BrookOp) (r : Ridge) (y : Nat) : Bool :=
  let d := o.desc.words
  let form (x : Nat) : Nat := (r.chainHdr (bdAddr d x)).form
  ((bdReads d).any fun x =>
    if fnRow (bdFn d) then spansMeet (o.spans (form x) x) (o.spans 1 y) else x != y && o.meets (form x) x y) ||
  ((bdWrites d).any fun x => x != y && spansMeet (o.spans 1 x) (o.spans 1 y))

/-- The bytes of a run of codes, two 4-bit codes to a byte, the first in the low half (R51). -/
def nibbles : List Nat → List Nat
  | [] => []
  | [a] => [a]
  | a :: b :: l => (a + 16 * b) :: nibbles l

/-- One row of values converted to blocks of 32 elements (R51, R58): the packed codes and the scale bytes. -/
def blocks32 (f4 nonsat : Bool) (expo : Int) : Nat → List Num → List Nat × List Nat
  | 0, _ => ([], [])
  | fuel + 1, xs =>
    match xs with
    | [] => ([], [])
    | _ =>
      let b := if f4 then f4Block nonsat (xs.take 32) else int4Block expo (xs.take 32)
      let t := blocks32 f4 nonsat expo fuel (xs.drop 32)
      (b.2 ++ t.1, b.1 :: t.2)

/-- Where the scale array of a Brook op's destination begins: no field of its descriptor says, so it is free (log entry 113). -/
def scaleArray (free : Nat) : Nat := Config.freeNat free 0 % (tarnSize / 32) * 32

/-- Store a 4-bit destination (R51, R58): the values of a row, or of the row vector, in blocks of 32, each with its scale byte at
the block's place in the scale array. -/
def Ridge.brStore4 (r : Ridge) (o : BrookOp) (free : Nat) (outs : List BOut) : Ridge :=
  let d := o.desc.words
  let rows := if fnRow (bdFn d) then [outs] else (List.range (bdRows d)).map fun row => outs.filter fun b => b.row == row
  (List.range rows.length).foldl (fun (r : Ridge) i =>
    let l := rows.getD i []
    let q := blocks32 (bdFmtD d == 3) (o.nonsat 3) (o.expo 3) (l.length + 1) (l.map BOut.v)
    let bytes := nibbles q.1
    let a := bdAddr d 3 + i * bdStride d 3
    let sa := (scaleArray free + i * (bdStride d 3 / 16)) % tarnSize
    let u := (r.tarnWrite a (bytes.map (BitVec.ofNat 8))).tarnWrite sa (q.2.map (BitVec.ofNat 8))
    (List.range l.length).foldl (fun (r : Ridge) k =>
      if (l.getD k { x := 3, row := 0, i := 0, code := 0, bad := false }).bad then
        (r.tarnMark ((a + k / 2) / 32)).tarnMark ((sa + k / 32) / 32) else r) u) r

/-- Store the outputs, each row as a single write; a Tarn word that holds a poisoned one is poisoned. -/
def Ridge.brStore (r : Ridge) (o : BrookOp) (outs : List BOut) : Ridge :=
  let d := o.desc.words
  let c := (bdWrites d).foldl (fun r x => (List.range (bdRows d)).foldl (fun (r : Ridge) row =>
    r.tarnClear (o.addr x row 0) ((if fnRow (bdFn d) then 1 else bdLen d) * (o.fmt x).bytes)) r) r
  let u := outs.foldl (fun (r : Ridge) b => r.tarnWrite (o.addr b.x b.row b.i) (leBytes (o.fmt b.x).bytes b.code)) c
  (outs.filter BOut.bad).foldl (fun r b => r.tarnMark (o.addr b.x b.row b.i / 32)) u

/-- The amax that the op owes for operand `x`: nothing if only NaN or poison was written (R69). -/
def BrookOp.amax (o : BrookOp) (outs : List BOut) (x : Nat) : List (Nat × W32) :=
  match (o.use x).entry, o.jslot with
  | some i, some _ =>
    let vs := ((outs.filter fun b => b.x == x && !b.bad).map fun b => ((o.fmt x).decode b.code).scale (-(o.expo x))).filter
      fun v => !v.isNan
    if vs.isEmpty || !(bdFmt o.desc.words x ∈ [0, 1, 2, 5, 6]) then []
    else [(i, fp32Up (vs.foldl (fun m v => if m.lt v.abs then v.abs else m) (.fin false 0 0)))]
  | _, _ => []

/-- What the op reads of the Tarn, for the words it counts. -/
def BrookOp.readSpans (o : BrookOp) (r : Ridge) : List (Nat × Nat) :=
  (bdReads o.desc.words).flatMap fun x => o.spans (r.chainHdr (bdAddr o.desc.words x)).form x

/-- A fetch or a tile op that is not over writes what the op reads, the op reads a spill slot, or the Ridge is astray (R42, R96,
R121): what it writes is unpredictable. -/
def State.brRaces (s : State) (n : Nat) (o : BrookOp) : Bool :=
  let r := s.ridge n
  s.ridgeAstray n || spansMeet (o.readSpans r) ((r.fetchOps.flatMap fun f => fetchSpans f.desc.words) ++
    r.tileOps.flatMap r.writesOf ++ s.tarnSlots n)

/-- An unpredictable value in place of one that was to be stored. -/
def BrookOp.loosen (o : BrookOp) (free : Nat) (b : BOut) : BOut :=
  let w := Config.freeWord free ((b.x * 2 ^ 12 + b.row) * 2 ^ 20 + b.i)
  { b with code := (o.fmt b.x).freeCode w, v := fp32Val w }

/-- BROOK_OP_EXECUTE (R152 to R164, R167): Brook runs the next op over its rows and elements, and writes the results. -/
def execBrookOpExecute (ridge : Fin 64) (tarn : TarnErr) (s : State) : Host.Outcome State Fault Refusal :=
  let n := ridge.val
  .next (match (s.ridge n).brookOps with
    | [] => s
    | o :: rest =>
      if o.done || (s.ridge n).zeroing then s
      else
        let d := o.desc.words
        let t := (s.tarnErr n tarn).tarnReads n (o.readSpans (s.ridge n))
        let r := t.ridge n
        if r.brRawBad o then (t.setRidge n { r with brookOps := rest }).brookRefuse n o.desc 6 false
        else
          let run := r.brRun o t.free
          let all := s.brRaces n o
          let loose := (bdWrites d).filter fun x => all || o.overlaps r x
          let outs := run.outs.reverse.map fun b => if loose.contains b.x then o.loosen (t.free + 1) b else b
          let flags := if all then (Config.freeNat (t.free + 1) 1) % 32 else run.flags.code
          let o1 := { o with done := true, folds := (bdWrites d).flatMap fun x => o.amax outs x }
          let r1 := if bdTo4 d then r.brStore4 o t.free outs else r.brStore o outs
          let w := (bdWrites d).flatMap (o.spans 1)
          let u := ((t.fresh.fresh.setRidge n ({ r1 with brookOps := o1 :: rest }.spoil (spansMeet w (s.tarnSlots n)))).event
            (.brk n) 0x06 run.sr).tarnWrites n w
          let v := if bdStrict d then u.setReg (.brk n) 0x104 (u.reg (.brk n) 0x104 ||| w32 flags) else u
          if run.poison then (v.setErr (.brk n) 1).opFault o.desc 0x0A 0 0x31 else v)

/-- BROOK_OP_COMPLETE (R69, R72, R155, R167): the op that has run folds its amax and increments its tally. -/
def execBrookOpComplete (ridge : Fin 64) (s : State) : Host.Outcome State Fault Refusal :=
  let n := ridge.val
  .next (match (s.ridge n).brookOps with
    | [] => s
    | o :: rest =>
      if !o.done then s
      else
        let d := o.desc.words
        let t := s.setRidge n { s.ridge n with brookOps := rest }
        let t := match o.jslot with
          | some j => o.folds.foldl (fun (a : State) (f : Nat × W32) => a.foldAmax f.1 j f.2) t
          | none => t
        let t := if o.cold then t.addSat .scl 0x10C 1 else t
        let t := match o.cold, (o.use 3).entry, o.jslot with
          | true, some i, some j => t.setScaleBit i j (2 + j)
          | _, _, _ => t
        let t := (t.event (.brk n) 0x02 1).event (.brk n) 0x07 (bdStrict d).toNat
        t.opTally (bdTally d) o.desc.ctx)

end Sys2Proof.Machine
end

