-- ==== Sys2Proof/Machine/Fetch.lean ====
section
/-! DEFINITION. The Ridge memory port: fetch ops (R188 to R193), the translation caches (R187), atomics and in-memory
reductions (R199 to R201). -/
namespace Sys2Proof.Machine

/-! ### Atomics and reductions (R189, R199, R201) -/

/-- FMAX and FMIN on FP32 codes (R189): MAX and MIN of R156, a NaN operand giving the canonical NaN. -/
def fmax32 (a b : W32) : W32 := w32 (fp32.conv .rne true 0 (numMax (fp32Val a) (fp32Val b))).code
def fmin32 (a b : W32) : W32 := w32 (fp32.conv .rne true 0 (numMin (fp32Val a) (fp32Val b))).code

/-- What combining elements into memory did: the state, the former values with the elements that were not combined, and
whether there were any. -/
structure Combined where
  s : State
  old : List OutByte := []
  bad : Bool := false

/-- Combine one element of `n` bytes, given little-endian, into memory at `key` (R199); a poisoned granule or operand
changes nothing (R201). -/
def State.combine (s : State) (rop n key : Nat) (x : List OutByte) : Combined :=
  let old := s.hbmRead key n
  if s.granPoison (key / 64) || x.any Prod.snd then { s := s, old := old.map fun b => (b, true), bad := true }
  else
    let v := ropApply fmax32 fmin32 rop (8 * n) (leNat old) (leNat (x.map Prod.fst))
    { s := (s.hbmWrite key (leBytes n v)).event (.bsn (key / 2 ^ 38)) 0x06 1, old := old.map fun b => (b, false) }

/-- Combine the elements of a chunk, lowest address first. -/
def State.combineAll (s : State) (rop n key : Nat) (data : List OutByte) : Combined :=
  (List.range (data.length / n)).foldl (fun c i =>
    let r := c.s.combine rop n (key + i * n) ((data.drop (i * n)).take n)
    { s := r.s, old := c.old ++ r.old, bad := c.bad || r.bad }) { s := s }

/-! ### Fetch descriptors (R188) -/

def fdRop (d : List W32) : Nat := wfld d 0 27 24
def fdHint (d : List W32) : Nat := wfld d 0 23 22
def fdWidth (d : List W32) : Nat := if wfld d 0 21 21 = 1 then 8 else 4
def fdWin (d : List W32) : Bool := wfld d 0 20 20 == 1
def fdTally (d : List W32) : Nat := wfld d 1 31 20

/-- The memory address of row `i`. -/
def fdRowAddr (d : List W32) (i : Nat) : Nat := (fdMem d + i * fdStride d) % 2 ^ 43

/-- The refusal reason of a fetch descriptor (R188, R189, R192, R208), or 0. -/
def fdReason (d : List W32) : Nat :=
  if wfld d 0 7 0 ≠ 0x41 ∨ wfld d 0 19 8 ≠ 0 ∨ wfld d 1 7 0 ≠ 0 ∨ wfld d 3 31 11 ≠ 0 ∨ wfld d 5 31 24 ≠ 0 ∨
      wfld d 6 15 0 ≠ 0 ∨ wfld d 7 31 20 ≠ 0 then 1
  else if 4 ≤ fdDir d ∨ (2 ≤ fdDir d ∧ 0xA ≤ fdRop d) ∨ fdRows d = 0 ∨ fdBytes d = 0 then 2
  else if 2 ≤ fdDir d ∧ (fdMem d % fdWidth d ≠ 0 ∨ fdStride d % fdWidth d ≠ 0 ∨ fdBytes d % fdWidth d ≠ 0 ∨
      (8 ≤ fdRop d ∧ fdWidth d = 8)) then 3
  else if !(regionOk (fdTarn d) (fdRows d) (fdTarnStride d) (fdBytes d)) then 4
  else 0

/-- Record the first refusal or poisoned element of a Basin page (R208). -/
def State.bsnInfo (s : State) (b reason n : Nat) : State :=
  if s.flag (.bsn b) 0x104 31 then s else s.setReg (.bsn b) 0x104 (w32 (2 ^ 31 + reason * 256 + n))

/-- FETCH_OP_ACCEPT (R191, R192): the Ridge sequencer takes the oldest fetch descriptor; it waits while 32 fetch ops are
accepted, and while the Ridge zeroes or belongs to another context (R94). -/
def execFetchOpAccept (ridge : Fin 64) (s : State) : Host.Outcome State Fault Refusal :=
  let n := ridge.val
  let r := s.ridge n
  .next (match r.fetchIn with
    | [] => s
    | d :: rest =>
      if !(r.admits d.ctx) || decide (32 ≤ r.fetchOps.length) then s
      else
        let why := fdReason d.words
        if why ≠ 0 then
          (((s.setRidge n { r with fetchIn := rest }).bsnInfo (n / 16) why n).setErr (.bsn (n / 16)) 0).opFault d 0x09
            why 0x41
        else
          let o : FetchOp := { id := r.nextId, desc := d, since := s.refcnt }
          s.setRidge n { r with
            fetchIn := rest, fetchOps := r.fetchOps ++ [o], owner := d.ctx, nextId := r.nextId + 1 })

/-! ### Fetch ops in progress -/

/-- The fetch op with number `id`. -/
def Ridge.fetchOp? (r : Ridge) (id : Nat) : Option FetchOp := r.fetchOps.find? fun o => o.id == id

/-- Replace a fetch op. -/
def State.putFetch (s : State) (n : Nat) (o : FetchOp) : State :=
  let r := s.ridge n
  s.setRidge n { r with fetchOps := r.fetchOps.map fun x => if x.id = o.id then o else x }

/-- Remove a fetch op. -/
def State.dropFetch (s : State) (n id : Nat) : State :=
  let r := s.ridge n
  s.setRidge n { r with fetchOps := r.fetchOps.filter fun x => x.id != id }

/-- An op with no chunk left to issue and none in flight ends: its tally increments unless a chunk faulted (R190, R193). -/
def State.fetchEnd (s : State) (n id : Nat) : State :=
  match (s.ridge n).fetchOp? id with
  | none => s
  | some o =>
    if o.row < fdRows o.desc.words || !o.chunks.isEmpty then s
    else
      let t := s.dropFetch n id
      if o.xfault then t else t.opTally (fdTally o.desc.words) o.desc.ctx

/-- The key of a chunk among its op's. -/
def Chunk.key (c : Chunk) : Nat := c.row * 2 ^ 20 + c.off

/-- Release a chunk's fetch context. -/
def State.releaseChunk (s : State) (n id : Nat) (c : Chunk) : State :=
  match (s.ridge n).fetchOp? id with
  | none => s
  | some o => (s.putFetch n { o with chunks := o.chunks.filter fun x => x.key != c.key }).fetchEnd n id

/-- A chunk faults in translation: it does nothing, the op takes no tally, its context one translation fault (R180, R193). -/
def State.chunkFault (s : State) (n id : Nat) (c : Chunk) (reason : Nat) : State :=
  match (s.ridge n).fetchOp? id with
  | none => s
  | some o =>
    let t := s.putFetch n { o with xfault := true }
    let t := if o.xfault then t else t.opFault o.desc 0x0B reason 0x41
    t.releaseChunk n id c

/-- The kind of access of a fetch direction (R181). -/
def fdAcc (d : List W32) : Acc := match fdDir d with | 0 => .rd | 1 => .wr | _ => .at

/-- The Tarn address of a chunk. -/
def chunkTarn (d : List W32) (c : Chunk) : Nat := fdTarn d + c.row * fdTarnStride d + c.off

/-- Tarn bytes with the poison of their words. -/
def Ridge.tarnOut (r : Ridge) (a n : Nat) : List OutByte :=
  (List.range n).map fun i => (r.tarnByte (a + i), r.tarnBad.has ((a + i) / 32))

/-- What a chunk takes from the Tarn; unpredictable where it lies in a spill slot (R121). -/
def State.tarnSend (s : State) (n a m : Nat) : List OutByte :=
  if spansMeet [(a, m)] (s.tarnSlots n) then (List.range m).map fun i => (Config.freeByte s.free (n * 2 ^ 24 + a + i), false)
  else (s.ridge n).tarnOut a m

/-- The draw of those values, and the words read. -/
def State.tarnSent (s : State) (n a m : Nat) : State :=
  (if spansMeet [(a, m)] (s.tarnSlots n) then s.fresh else s).tarnReads n [(a, m)]

/-- Write bytes into the Tarn; a word that receives a poisoned byte is poisoned. -/
def Ridge.tarnPut (r : Ridge) (a : Nat) (bs : List OutByte) : Ridge :=
  let bad := (((List.range bs.length).zip bs).filter fun p => p.2.2).map fun p => (a + p.1) / 32
  bad.eraseDups.foldl Ridge.tarnMark (r.tarnWrite a (bs.map Prod.fst))

/-- A chunk faults in translation: recorded, and it does nothing (R180, R193). -/
def State.chunkDown (s : State) (n : Nat) (o : FetchOp) (c : Chunk) (reason : Nat) : State :=
  (s.recordXlate reason 0 o.desc.ctx n c.addr).chunkFault n o.id c reason

/-- A chunk whose page has been looked up goes home or to another device (R179, R180); `tarn` is what the Tarn shows of the data
that it sends (R95). -/
def State.chunkTranslate (s : State) (n : Nat) (o : FetchOp) (c : Chunk) (tarn : TarnErr) : State :=
  let d := o.desc.words
  let put (t : State) (st : ChunkSt) : State :=
    t.putFetch n { o with chunks := o.chunks.map fun x => if x.key = c.key then { x with st := st } else x }
  match s.siteBy (.ridge n) o.desc.ctx (fdAcc d) c.addr with
  | .error r => s.chunkDown n o c r
  | .ok (.here key) => put s (.here key)
  | .ok (.there g dv pt x) =>
    let t := if fdDir d = 0 then s else s.tarnErr n tarn
    let data := if fdDir d = 0 then [] else t.tarnSend n (chunkTarn d c) c.len
    (put (if fdDir d = 0 then t else t.tarnSent n (chunkTarn d c) c.len) .away).submit
      { who := .fetch n o.id c.key, ctx := o.desc.ctx, kind := fdDir d, rop := if 2 ≤ fdDir d then fdRop d else 0
        wide := decide (2 ≤ fdDir d) && fdWidth d == 8, group := g, dev := dv, port := pt, addr := x, len := c.len
        data := data.map Prod.fst, bad := badSlots x data }

/-- XLATE_CACHE_REFILL (R184, R187): the cache of a Ridge that waits for the page takes its entry from the copy of R9. -/
def execXlateCacheRefill (ridge : Fin 64) (page : BitVec 19) (e : Ecc) (tarn : TarnErr) (s : State) :
    Host.Outcome State Fault Refusal :=
  let n := ridge.val
  let p := page.toNat
  let wait := (s.ridge n).fetchOps.flatMap fun o =>
    (o.chunks.filter fun c => c.st == .refill && pageOf c.addr == p).map fun c => (o.id, c)
  .next (if wait.isEmpty then s
    else
      wait.foldl (fun t w =>
        match (t.ridge n).fetchOp? w.1 with
        | some o => t.chunkTranslate n o w.2 tarn
        | none => t) (s.cacheFill n p e))

/-! ### Chunks (R176, R190) -/

/-- Fetch contexts held at a Ridge's port. -/
def Ridge.contexts (r : Ridge) : Nat := (r.fetchOps.map fun o => o.chunks.length).sum

/-- A window fetch is permitted (R176). -/
def State.winFetchOk (s : State) (o : FetchOp) : Bool :=
  let d := o.desc.words
  s.windowOk && (s.reg64 .pmap 0x128).toNat.testBit o.desc.ctx && fdDir d == 0 && decide (0x2000000 ≤ fdMem d) &&
  decide (fdMem d + (fdRows d - 1) * fdStride d + fdBytes d ≤ s.windowSize)

/-- FETCH_CHUNK_ISSUE (R190): the port cuts the next chunk of a fetch op, if one of its 256 contexts is free. -/
def execFetchChunkIssue (ridge : Fin 64) (op : Fin 32) (tarn : TarnErr) (s : State) : Host.Outcome State Fault Refusal :=
  let n := ridge.val
  let r := s.ridge n
  .next (match r.fetchOps[op.val]? with
    | none => s
    | some o =>
      let d := o.desc.words
      if fdRows d ≤ o.row || decide (256 ≤ r.contexts) then s
      else
        let a := (fdRowAddr d o.row + o.off) % 2 ^ 43
        let m := min (fdBytes d - o.off) (2048 - a % 2048)
        let o1 := if fdBytes d ≤ o.off + m then { o with row := o.row + 1, off := 0 } else { o with off := o.off + m }
        let c : Chunk := { row := o.row, off := o.off, len := m, addr := a, st := .refill }
        let t := s.event (.bsn (n / 16)) 0x07 1
        if fdWin d then
          if s.winFetchOk o then t.putFetch n { o1 with chunks := o1.chunks ++ [{ c with st := .window }] }
          else (t.putFetch n o1).chunkDown n o1 c 0x07
        else
          let o2 := { o1 with chunks := o1.chunks ++ [c] }
          if s.cached n a then ((t.putFetch n o2).cacheUse n (pageOf a)).chunkTranslate n o2 c tarn
          else (t.putFetch n o2).event (.bsn (n / 16)) 0x09 1)

/-- The poison fault of an atomic or reduction (R201), raised once for the op. -/
def State.atomPoison (s : State) (n id b : Nat) : State :=
  let t := (s.bsnInfo b 5 n).setErr (.bsn b) 1
  match (t.ridge n).fetchOp? id with
  | none => t
  | some o => if o.faulted then t else (t.putFetch n { o with faulted := true }).opFault o.desc 0x0A 0 0x41

/-- Data for a chunk arrives in the Tarn. -/
def State.chunkLand (s : State) (n : Nat) (d : List W32) (c : Chunk) (bs : List OutByte) : State :=
  (s.setRidge n (((s.ridge n).tarnPut (chunkTarn d c) bs).spoil
    (spansMeet [(chunkTarn d c, bs.length)] (s.tarnSlots n)))).tarnWrites n [(chunkTarn d c, bs.length)]

/-- Perform a chunk whose memory is here. -/
def State.chunkHere (s : State) (n : Nat) (o : FetchOp) (c : Chunk) (key : Nat) (us : List GranUse) (tarn : TarnErr) : State :=
  let d := o.desc.words
  let a := chunkTarn d c
  match fdDir d with
  | 0 =>
    let t := s.readRange (fdHint d) key c.len us
    let x := t.asRead o.desc.op (fun i => (c.addr + i) % 2 ^ 43) (t.keyBytes key c.len)
    let u := x.1.chunkLand n d c x.2
    (if fdHint d = 3 then u.discard key c.len else u).releaseChunk n o.id c
  | 1 =>
    let t := (s.tarnErr n tarn).writeRange (fdHint d) key c.len us
    ((t.putBoard c.addr key (t.tarnSend n a c.len)).tarnSent n a c.len).releaseChunk n o.id c
  | k =>
    let t := (s.tarnErr n tarn).readRange (if fdHint d = 3 then 0 else fdHint d) key c.len us
    let r := t.combineAll (fdRop d) (fdWidth d) key (t.tarnSend n a c.len)
    let v := (r.s.tarnSent n a c.len).smear (s.dmaDest none false) c.addr c.len key
    let u := if k = 3 then v.chunkLand n d c r.old else v
    (if r.bad then u.atomPoison n o.id (key / 2 ^ 38) else u).releaseChunk n o.id c

/-- The keys of the window bytes that a chunk reads. -/
def State.chunkKeys (s : State) (c : Chunk) : List Nat := (List.range c.len).map fun i => s.windowKey (c.addr + i)

/-- Perform a chunk that reads the hashed window: each of its granules passes through its own Basin. -/
def State.chunkWindow (s : State) (n : Nat) (o : FetchOp) (c : Chunk) (us : List GranUse) : State :=
  let h := fdHint o.desc.words
  let gs := ((s.chunkKeys c).map fun k => k / 64).eraseDups
  let t := (List.range gs.length).foldl (fun t i => t.granRead h (gs.getD i 0) (us.getD i {})) s
  let u := t.chunkLand n o.desc.words c ((s.chunkKeys c).map fun k => (t.hbmByte k, t.granPoison (k / 64)))
  (if h = 3 then gs.foldl (fun u g => u.discard (g * 64) 64) u else u).releaseChunk n o.id c

/-- The way from Ridge `n` to the stack of a key crosses a link that is down (R13). -/
def State.keyDown (s : State) (n key : Nat) : Bool := s.routeDown (n / 16) (stackDie (key / 2 ^ 37))

/-- FETCH_CHUNK_DONE (R190, R192, R195 to R201): a chunk served on this device moves its data and releases its context; one
whose way is down by now does nothing (R13). -/
def execFetchChunkDone (ridge : Fin 64) (op : Fin 32) (chunk : BitVec 8) (us : List GranUse) (tarn : TarnErr) (s : State) :
    Host.Outcome State Fault Refusal :=
  let n := ridge.val
  .next (match (s.ridge n).fetchOps[op.val]? with
    | none => s
    | some o =>
      match o.chunks[chunk.toNat]? with
      | none => s
      | some c =>
        match c.st with
        | .here key => if s.keyDown n key then s.chunkDown n o c 0x09 else s.chunkHere n o c key us tarn
        | .window => if (s.chunkKeys c).any (s.keyDown n) then s.chunkDown n o c 0x09 else s.chunkWindow n o c us
        | _ => s)

/-- The answer to a chunk that went to another device (R201, R297): data of a read, former values, or the mark that a reduction met
poison; or a fault, with its reason. -/
def State.fetchAnswer (s : State) (n id key reason : Nat) (bs : List OutByte) : State :=
  match (s.ridge n).fetchOp? id with
  | none => s
  | some o =>
    match o.chunks.find? fun c => c.key == key with
    | none => s
    | some c =>
      if reason ≠ 0 then s.chunkDown n o c reason
      else
        let d := o.desc.words
        let t := if fdDir d = 0 ∨ fdDir d = 3 then s.chunkLand n d c (bs.take c.len) else s
        let u := if 2 ≤ fdDir d ∧ bs.any Prod.snd then t.atomPoison n id (n / 16) else t
        u.releaseChunk n id c

end Sys2Proof.Machine
end

