-- ==== Sys2Proof/Machine/Dma.lean ====
section
/-! DEFINITION. The DMA channels: acceptance (R271), read and write accesses (R269, R270, R274, R278), completion (R275),
bus errors and halts (R276, R277), `CH_CFG` (R281). -/
namespace Sys2Proof.Machine

/-! ### Descriptors (R268) -/

/-- The address space of a side ends at this byte. -/
def spaceEnd (host : Bool) : Nat := if host then 2 ^ 64 else 2 ^ 43

/-- The refusal reason of a DMA descriptor on channel `c` (R271, R281), or 0. -/
def State.ddReason (s : State) (c : Nat) (x : Desc) : Nat :=
  let d := x.words
  let en := s.reg64 .dmaG 0x100
  if wfld d 0 14 8 ≠ 0 ∨ wfld d 1 19 0 ≠ 0 ∨ (List.range 7).any (fun i => wordAt d (9 + i) != 0) ∨ wfld d 0 26 24 = 7 ∨
      wfld d 0 23 21 = 7 then 1
  else if ddLen d = 0 ∨ (ddDStride d < ddDw d ∧ ddDw d < ddLen d) then 2
  else if spaceEnd (ddSHost d) ≤ ddSrc d ∨ spaceEnd (ddDHost d) ≤ ddDst d ∨
      spaceEnd (ddSHost d) ≤ lastByte (ddSrc d) (ddSStride d) (ddSw d) (ddLen d) ∨
      spaceEnd (ddDHost d) ≤ lastByte (ddDst d) (ddDStride d) (ddDw d) (ddLen d) then 3
  else if (ddSHost d || ddDHost d) && !(en.toNat.testBit x.ctx) then 4
  else if s.partOfCtx x.ctx ≠ s.field (.dma c) 0x100 17 16 then 5
  else 0

/-! ### The running descriptor -/

/-- The words of the running or halted descriptor. -/
def DmaCh.words (k : DmaCh) : List W32 := (k.acc.headD { words := [], ctx := 0, src := .device }).words

/-- Begin the first accepted descriptor, or be idle. -/
def DmaCh.begin (k : DmaCh) (now : W64) : DmaCh :=
  { k with
    st := if k.acc.isEmpty then .idle else .active
    rd := 0, wr := 0, buf := [], rdOut := none, wrOut := none, rtries := 0, wtries := 0, wstop := false, gen := k.gen + 1
    since := now }

/-- DMA_DESC_ACCEPT (R271): the channel takes and checks its next descriptor. -/
def execDmaDescAccept (c : Fin 32) (s : State) : Host.Outcome State Fault Refusal :=
  let k := s.dma c.val
  .next (match k.inq with
    | [] => s
    | d :: rest =>
      let why := s.ddReason c.val d
      if why = 0 then
        let k1 := { k with inq := rest, acc := k.acc ++ [d], quiesced := false }
        s.setDma c.val (if k.st = .idle then k1.begin s.refcnt else k1)
      else
        let t := s.setDma c.val { k with inq := rest }
        let t := if t.flag (.dma c.val) 0x11C 31 then t
          else t.setReg (.dma c.val) 0x11C (w32 (2 ^ 31 + d.ctx * 256 + why))
        (t.setErr (.dma c.val) 0).refuseDesc d why 0x61)

/-! ### Halting (R277) -/

/-- `RESIDUAL`: from the first destination element that is not written whole. -/
def DmaCh.residual (k : DmaCh) : Nat := ddLen k.words - k.wr / ddDw k.words * ddDw k.words

/-- The channel halts: its record, its error, and a translation fault of the context. A side that has failed is not tried again
before a RESUME: a channel that its source has halted may still come to fail at its destination. -/
def State.dmaHalt (s : State) (c : Nat) (dst host : Bool) (reason pmap attempts addr : Nat) : State :=
  let k := s.dma c
  let k1 := { k with wstop := k.wstop || dst }
  if k.st = .halted then s.setDma c k1 else
  let t := s.setDma c { k1 with st := .halted, rdOut := none, rtries := 0 }
  let t := t.setReg (.dma c) 0x10C (w32 (2 ^ 31 + dst.toNat * 2 ^ 30 + host.toNat * 2 ^ 29 + reason * 65536 + pmap * 256 +
    attempts))
  let t := (t.setReg64 (.dma c) 0x110 (w64 addr)).setReg (.dma c) 0x118 (w32 k.residual)
  match k.acc with
  | [] => t
  | d :: _ => (t.setErr (.dma c) 1).opFault d 0x0B (if reason = 1 then pmap else 0x06) 0x61

/-- The context of the running descriptor. -/
def DmaCh.tag (k : DmaCh) : Nat := (k.acc.headD { words := [], ctx := 0, src := .device }).ctx

/-- The operation that the running descriptor belongs to, 0 for none (R16). -/
def DmaCh.op (k : DmaCh) : Nat := (k.acc.headD { words := [], ctx := 0, src := .device }).op

/-- A translation fault of an access halts the channel (R272). -/
def State.dmaXfault (s : State) (c : Nat) (dst : Bool) (reason addr : Nat) : State :=
  (s.recordXlate reason 1 (s.dma c).tag c addr).dmaHalt c dst false 1 reason 1 addr

/-- A bus error: the access is repeated up to `RETRY` times, each side counting its own, then the channel halts (R276). -/
def State.dmaBusError (s : State) (c : Nat) (dst host : Bool) (addr : Nat) : State :=
  let k := s.dma c
  let n := (if dst then k.wtries else k.rtries) + 1
  let k1 := if dst then { k with wtries := n, wrOut := none } else { k with rtries := n, rdOut := none }
  if n ≤ s.field (.dma c) 0x100 14 12 then ((s.setDma c k1).countErr (.dma c)).event (.dma c) 0x05 1
  else (s.setDma c { k with wrOut := if dst then none else k.wrOut }).dmaHalt c dst host 2 0 n addr

/-! ### Accesses (R270, R274) -/

/-- Stream bytes from `p`, at most `m`, whose addresses lie in one granule, and in one run where `flat`. -/
def runLen (addr : Nat → Nat) (flat : Bool) (p m : Nat) : Nat :=
  ((List.range m).takeWhile fun i =>
    addr (p + i) / 64 == addr p / 64 && (!flat || addr (p + i) == addr p + i)).length

/-- A run that a limit cuts inside an element ends at the element's beginning. -/
def trimRun (addr : Nat → Nat) (w p n len : Nat) : Nat :=
  if (p + n) % w = 0 ∨ len ≤ p + n ∨ addr (p + n) / 64 ≠ addr p / 64 ∨ (p + n) / w * w ≤ p then n
  else (p + n) / w * w - p

/-- Bytes that a channel's blocks hold or are reserved for: staged ones, and those of a read that is out. -/
def DmaCh.held (k : DmaCh) : Nat := k.buf.length + k.rdOut.getD 0

/-- Blocks of 2 KiB that a channel holds (R274). -/
def DmaCh.blocks (k : DmaCh) : Nat := ceilDiv k.held 2048

/-- Bytes of staging that channel `c` may still fill: within its share, the rest of its last block and the free blocks (R274). -/
def State.dmaRoom (s : State) (c : Nat) : Nat :=
  let k := s.dma c
  let share := max 1 (min 2048 (s.field (.dma c) 0x100 10 0)) * 2048
  let free := 2048 - (s.dmas.map fun e => e.2.blocks).sum
  min (share - k.held) (k.blocks * 2048 - k.held + free * 2048)

/-- The bytes of the next read access of a channel. -/
def State.dmaReadLen (s : State) (c : Nat) (flat : Bool) : Nat :=
  let k := s.dma c
  let d := k.words
  let m := min (ddLen d - k.rd) (s.dmaRoom c)
  trimRun (ddSrcAddr d) (ddSw d) k.rd (runLen (ddSrcAddr d) flat k.rd m) (ddLen d)

/-- The bytes from the read position that belong to one element and one granule: one access reads them together (R270). -/
def DmaCh.headLen (k : DmaCh) : Nat :=
  let d := k.words
  runLen (ddSrcAddr d) false k.rd (min (ddSw d - k.rd % ddSw d) (ddLen d - k.rd))

/-- Read bytes enter the staging buffer. -/
def State.dmaTake (s : State) (c : Nat) (bs : List OutByte) : State :=
  let k := s.dma c
  (s.setDma c { k with rd := k.rd + bs.length, buf := k.buf ++ bs, rdOut := none, rtries := 0 }).event (.dma c) 0x03 1

/-- The read engine can serve the channel: there is room for what one access must read together. -/
def State.dmaCanRead (s : State) (c : Nat) : Bool :=
  let k := s.dma c
  k.st == .active && k.rdOut.isNone && decide (k.rd < ddLen k.words) && decide (k.headLen ≤ s.dmaRoom c)

/-- Bytes that a block whose results are unpredictable moves (R18, R42). -/
def State.dmaMoved (s : State) (c : Nat) (bs : List OutByte) : List OutByte :=
  if s.dmaAstray c then (List.range bs.length).map fun i => (Config.freeByte s.free (c * 2 ^ 32 + i), false) else bs

/-- The read engine takes bytes. -/
def State.dmaGot (s : State) (c : Nat) (bs : List OutByte) : State :=
  let t := s.dmaTake c (s.dmaMoved c bs)
  if s.dmaAstray c then t.fresh else t

/-- DMA_READ_ACCESS (R270, R274, R278): one granule access on the source side; a host read returns `host`. -/
def execDmaReadAccess (c : Fin 32) (host : HostData) (m : MemUse) (s : State) : Host.Outcome State Fault Refusal :=
  let k := s.dma c.val
  let d := k.words
  let a := ddSrcAddr d k.rd
  .next (if !(s.dmaCanRead c.val) then s
    else if ddSHost d then
      s.dmaGot c.val ((List.range (s.dmaReadLen c.val true)).map fun i => (host.bytes.getD i 0, host.ep))
    else
      let s0 := s.lookup 4 0 a (m.pm.headD .clean)
      match s0.site 4 0 k.tag .rd a with
      | .error r => s0.dmaXfault c.val false r a
      | .ok (.here key) =>
        let g := key / 64
        let t := s0.granRead (ddSHint d) g (m.gran.headD {})
        let bs := (List.range (s0.dmaReadLen c.val false)).map fun i =>
          (t.hbmByte (g * 64 + ddSrcAddr d (k.rd + i) % 64), t.granPoison g)
        let x := t.asRead k.op (fun i => ddSrcAddr d (k.rd + i)) bs
        (if ddSHint d = 3 then x.1.discard (g * 64) 64 else x.1).dmaGot c.val x.2
      | .ok (.there g dv pt x) =>
        let n := s0.dmaReadLen c.val true
        (s0.setDma c.val { s0.dma c.val with rdOut := some n }).submit
          { who := .dma c.val (2 * k.gen), ctx := k.tag, kind := 0, group := g, dev := dv, port := pt, addr := x, len := n })

/-- Stream bytes that may be written: up to the last destination element that is wholly buffered, or to the end. -/
def DmaCh.writable (k : DmaCh) : Nat :=
  let hi := k.wr + k.buf.length
  (if ddLen k.words ≤ hi then ddLen k.words else hi / ddDw k.words * ddDw k.words) - k.wr

/-- Written bytes leave the staging buffer. -/
def State.dmaDrop (s : State) (c n : Nat) : State :=
  let k := s.dma c
  let k1 := { k with wr := k.wr + n, buf := k.buf.drop n, wrOut := none, wtries := 0 }
  let t := (s.setDma c k1).event (.dma c) 0x04 1
  if k.st = .halted then t.setReg (.dma c) 0x118 (w32 k1.residual) else t

/-- Write bytes of one granule at their keys; poisoned whole if any byte is (R278). -/
def State.putGran (s : State) (g : Nat) (bs : List (Nat × OutByte)) : State :=
  if bs.any fun b => b.2.2 then s.poisonWrite g else s.hbmPut (bs.map fun b => (b.1, b.2.1))

/-- A requester other than a channel has still to write board address `a`: an op of a Ridge, or a transfer of a Confluence
engine. -/
def State.otherDest (s : State) (a : Nat) : Bool :=
  (s.ridges.any fun e => e.2.mayWrite (fun _ => true) a) ||
  s.cfls.any fun e => (e.2.xq ++ e.2.fly.map Flight.x).any fun x =>
    if x.kind = 1 ∨ x.kind = 4 then inSide x.loc 0 x.len x.len a
    else x.kind == 5 && inSide x.remote 0 x.len x.len a

/-- A write of address `a` by channel `c` meets an access that nothing orders it with (R279): the source of its own descriptor,
the destination of another channel's, on the board one of another requester. -/
def State.dmaRaces (s : State) (c : Nat) (a : Nat) : Bool :=
  let d := (s.dma c).words
  ddReads d (ddDHost d) a || s.dmaDest (some c) (ddDHost d) a || (!(ddDHost d) && s.otherDest a)

/-- The next `n` bytes of a channel's buffer as they are written: a byte that races is unpredictable (R279). -/
def State.dmaBytes (s : State) (c n : Nat) : List OutByte :=
  let k := s.dma c
  ((List.range n).zip (k.buf.take n)).map fun p =>
    if s.dmaRaces c (ddDstAddr k.words (k.wr + p.1)) then (Config.freeByte s.free (c * 2 ^ 32 + k.wr + p.1), p.2.2) else p.2

/-- The draw of those values. -/
def State.dmaDrew (s t : State) (c n : Nat) : State :=
  if (List.range n).any fun i => s.dmaRaces c (ddDstAddr (s.dma c).words ((s.dma c).wr + i)) then t.fresh else t

/-- The write engine can serve the channel: a halted channel still writes the elements read before a source failed. -/
def State.dmaCanWrite (s : State) (c : Nat) : Bool :=
  let k := s.dma c
  k.wrOut.isNone && k.writable != 0 && !k.wstop && k.st != .idle

/-- DMA_WRITE_ACCESS (R270, R274, R278): one granule access on the destination side. -/
def execDmaWriteAccess (c : Fin 32) (m : MemUse) (s : State) : Host.Outcome State Fault Refusal :=
  let k := s.dma c.val
  let d := k.words
  let a := ddDstAddr d k.wr
  let flat := runLen (ddDstAddr d) true k.wr k.writable
  .next (if !(s.dmaCanWrite c.val) then s
    else if ddDHost d then
      let bs := s.dmaBytes c.val flat
      let bad := bs.any Prod.snd
      s.dmaDrew (((s.dmaDrop c.val flat).emit (.hostWrite a (bs.map Prod.fst) bad)).event (.dma c.val) 0x08 bad.toNat) c.val flat
    else
      let s0 := s.lookup 4 0 a (m.pm.headD .clean)
      match s0.site 4 0 k.tag .wr a with
      | .error r => s0.dmaXfault c.val true r a
      | .ok (.here key) =>
        let n := runLen (ddDstAddr d) false k.wr k.writable
        let bs := s0.dmaBytes c.val n
        let g := key / 64
        let cells := ((List.range n).zip bs).map fun p => (g * 64 + ddDstAddr d (k.wr + p.1) % 64, p.2)
        let t := s0.granWrite (ddDHint d) g (m.gran.headD {})
        s0.dmaDrew (((t.putGran g cells).dmaDrop c.val n).event (.dma c.val) 0x08 (bs.any Prod.snd).toNat) c.val n
      | .ok (.there g dv pt x) =>
        let bs := s0.dmaBytes c.val flat
        s0.dmaDrew ((s0.setDma c.val { s0.dma c.val with wrOut := some flat }).submit
          { who := .dma c.val (2 * k.gen + 1), ctx := k.tag, kind := 1, group := g, dev := dv, port := pt, addr := x
            len := flat, data := bs.map Prod.fst, bad := badSlots x bs }) c.val flat)

/-- An access to another device has failed: a bus error (R276, R297), or a translation fault where the way to its port is down
(R13). -/
def State.dmaAway (s : State) (c : Nat) (dst : Bool) (reason a : Nat) : State :=
  if reason = 0x09 then s.dmaXfault c dst reason a else s.dmaBusError c dst false a

/-- The answer to an access that went to another device (R276, R297); `reason` is 0 where it was performed. -/
def State.dmaAnswer (s : State) (c key reason : Nat) (bs : List OutByte) : State :=
  let k := s.dma c
  if key / 2 ≠ k.gen then s
  else if key % 2 = 0 then
    match k.rdOut with
    | none => s
    | some n => if reason = 0 then s.dmaGot c (bs.take n) else s.dmaAway c false reason (ddSrcAddr k.words k.rd)
  else match k.wrOut with
    | none => s
    | some n =>
      if reason = 0 then (s.dmaDrop c n).event (.dma c) 0x08 ((k.buf.take n).any Prod.snd).toNat
      else s.dmaAway c true reason (ddDstAddr k.words k.wr)

/-- DMA_BUS_ERROR (R276): the next read access of host memory ends with UR, CA or a completion timeout. -/
def execDmaBusError (c : Fin 32) (s : State) : Host.Outcome State Fault Refusal :=
  let k := s.dma c.val
  .next (if s.dmaCanRead c.val && ddSHost k.words then s.dmaBusError c.val false true (ddSrcAddr k.words k.rd) else s)

/-- DMA_DESC_COMPLETE (R275): every byte is written; the tally increments, and the next descriptor begins. -/
def execDmaDescComplete (c : Fin 32) (s : State) : Host.Outcome State Fault Refusal :=
  let k := s.dma c.val
  .next (match k.acc with
    | [] => s
    | d :: rest =>
      if k.st ≠ .active ∨ k.wr < ddLen d.words then s
      else ((s.setDma c.val ({ k with acc := rest }.begin s.refcnt)).event (.dma c.val) 0x02 1).opTally
        (ddTally d.words) d.ctx)

/-! ### Resume, abort, configuration (R277, R281) -/

/-- Clear the record of a halt. -/
def State.dmaClear (s : State) (c : Nat) : State := s.setFlag (.dma c) 0x10C 31 false

/-- DMA_RESUME (R277): the halted descriptor restarts at its first unwritten destination element. -/
def execDmaResume (c : Fin 32) (s : State) : Host.Outcome State Fault Refusal :=
  let k := s.dma c.val
  .next (if !s.ready || k.st != .halted then s
    else
      let w := k.wr / ddDw k.words * ddDw k.words
      (s.dmaClear c.val).setDma c.val
        { k with st := .active, rd := w, wr := w, buf := [], rdOut := none, wrOut := none, rtries := 0, wtries := 0
                 wstop := false, gen := k.gen + 1 })

/-- DMA_ABORT (R277): the halted descriptor and every queued one are discarded. -/
def execDmaAbort (c : Fin 32) (s : State) : Host.Outcome State Fault Refusal :=
  let k := s.dma c.val
  .next (if !s.ready || k.st != .halted then s
    else (s.dmaClear c.val).setDma c.val ({ k with inq := [], acc := [] }.begin s.refcnt))

/-- CH_CFG_WRITE (R281). -/
def execChCfgWrite (c : Fin 32) (value : W32) (s : State) : Host.Outcome State Fault Refusal :=
  let k := s.dma c.val
  .next (if !s.ready || s.pageSealed (.dma c.val) then s
    else if k.st ≠ .idle ∨ !k.acc.isEmpty then s.setErr (.dma c.val) 2
    else s.setReg (.dma c.val) 0x100 (value &&& 0x000377FF#32))

end Sys2Proof.Machine
end

