-- ==== Sys2Proof/Machine/Drain.lean ====
section
/-! DEFINITION. The drain of a tile op (R128 to R138): closing a tile, the late preload, the conversion, the statistics,
the raw chain form, and the write of the results. -/
namespace Sys2Proof.Machine

/-- A tile at stage 1 of its drain: its entries' values, its `SHIFT`, and what a raw drain writes in its header. -/
structure Closed where
  vals : Table Entry := []
  fp : Bool := false
  shift : Int := 0
  form : Nat := 1
  count : Nat := 0
  kblk : Nat := 0
  flags : TFlags := {}
  bad : NatSet := []
  allBad : Bool := false

/-- The entry with key `k`. -/
def Closed.entry (c : Closed) (k : Nat) : Entry := Table.get (fun _ => {}) c.vals k

/-- The entry depends on poison. -/
def Closed.isBad (c : Closed) (k : Nat) : Bool := c.allBad || c.bad.has k

/-- Close a tile: the ledger is added into its spill slot, which is read instead (R128). -/
def Tile.close (t : Tile) (o : TileOp) : Closed :=
  let u := if t.slot.isSome then t.spillInto else t
  { vals := if t.slot.isSome then u.spill else u.ent, fp := t.fp, shift := t.shift.getD o.shift
    form := if t.fp then 3 else if t.slot.isSome then 2 else 1
    count := if t.fp || t.slot.isSome then 0 else t.count, kblk := t.kblk, flags := u.flags, bad := t.poisoned
    allBad := t.allPoison }

/-- An unpredictable entry of a form (R96, R121). -/
def looseEntry (free x form : Nat) : Entry :=
  let w (i : Nat) : Nat := (Config.freeWord free (4 * x + i)).toNat * 2 ^ (32 * i)
  let c := Config.freeNat free x % 4
  if form = 3 then { v := (w 0 : Nat) }
  else { v := if c = 0 then signedOf (if form = 1 then 80 else 128) (w 0 + w 1 + w 2 + w 3) else 0, cls := c }

/-- A closed tile whose sums are unpredictable: every entry and flag but the poison is free. -/
def Closed.loose (c : Closed) (free x : Nat) : Closed :=
  { c with
    vals := (List.range 2048).map fun k => (k, looseEntry free (x * 2048 + k) c.form)
    flags := { c.flags with sat := Config.freeBit free (3 * x), nan := Config.freeBit free (3 * x + 1)
                            inf := Config.freeBit free (3 * x + 2) } }

/-- Add the chain tile at `a` after the noise contribution is taken (R138): the sum, and whether poison was read. A raw drain keeps the
ledger form where both are ledgers of one `SHIFT` whose counts sum to at most 32,768, else it takes the Spillway form with count 0
(DESIGN CHOICE, log entry 109). -/
def Ridge.lateChain (r : Ridge) (o : TileOp) (c : Closed) (a rows : Nat) : Closed × Bool :=
  let cols := tdCols o.desc.words
  let h := r.chainHdr a
  let hb := r.tarnPoison a 64
  let keys := (List.range (rows * cols)).map fun i => i / cols * 32 + i % cols
  let add (f : Entry → Entry → Entry × Bool) (vals chain : Table Entry) : Table Entry × Bool :=
    keys.foldl (fun acc k =>
      let e := f (Table.get (fun _ => {}) vals k) (Table.get (fun _ => {}) chain k)
      (Table.set (fun _ => {}) acc.1 k e.1, acc.2 || e.2)) ([], false)
  let join (c : Closed) (sat : Bool) (bad : NatSet) : Closed × Bool :=
    let f := c.flags.orCode h.flags
    ({ c with flags := { f with sat := f.sat || sat }, bad := bad.foldl (fun m k => NatSet.add k m) c.bad
              allBad := c.allBad || hb }, hb || !bad.isEmpty)
  if c.fp then
    let x := r.chainEntries a 3 rows cols (fpShift o.o.nonsat (h.shift - o.shift))
    let y := add (fun p q =>
      let z := accRound o.o.nonsat (Num.add (fp32Val (w32 p.v.toNat)) (fp32Val (w32 q.v.toNat)))
      ({ v := (z.1 : Int) }, z.2)) c.vals x.1
    join { c with vals := y.1 } (x.2.1 || y.2) x.2.2
  else
    let k := o.shift - h.shift
    let x := r.chainEntries a h.form rows cols (if 0 < k then entShift k.toNat else fun e => (e, false))
    let y := add (fun p q =>
      let p1 := if k < 0 then entShift (-k).toNat p else (p, false)
      let z := entAdd 128 p1.1 q
      (z.1, z.2 || p1.2)) c.vals x.1
    let ledger := c.form == 1 && h.form == 1 && k == 0 && decide (c.count + h.count ≤ 32768)
    join { c with vals := y.1, shift := if k < 0 then h.shift else c.shift, form := if ledger then 1 else 2
                  count := if ledger then c.count + h.count else 0 } (x.2.1 || y.2) x.2.2

/-! ### Conversion (R128 to R131) -/

/-- A written output element: the closed tile and the entry it comes from, its address, its value before and after
rounding. -/
structure OutEl where
  src : Nat := 0
  key : Nat := 0
  addr : Nat
  code : Nat
  z : Num
  bad : Bool
  epiBad : Bool
  past : Bool
deriving Repr

/-- The epilogue element for written output element (r, c) (R131), and whether it is poisoned. -/
def Ridge.epiElem (r : Ridge) (o : TileOp) (row col : Nat) : Num × Bool :=
  let e := o.epi
  let n := epSize e
  let a := match epShape e with
    | 0 => epAddr e + row * epStride e + col * n
    | 1 => epAddr e + col * n
    | _ => epAddr e + row * n
  (((((Fmt.ofCode (epFmt e)).getD .fp32).decode (r.tarnNat a n)).scale (-o.e.expo)), r.tarnPoison a n)

/-- What the drain of `nc` tiles of `rows` rows, from output row `base` on, reads of the epilogue operand. -/
def TileOp.epiSpans (o : TileOp) (base rows nc : Nat) : List (Nat × Nat) :=
  let e := o.epi
  let d := o.desc.words
  let n := epSize e
  let sh := if tdTout d then (tdCols d, rows * nc) else (rows, tdCols d * nc)
  let at_ := if tdTout d then (0, base * nc) else (base, 0)
  match epShape e with
  | 0 => spansOf (epAddr e + at_.1 * epStride e + at_.2 * n) sh.1 (epStride e) (sh.2 * n)
  | 1 => [(epAddr e + at_.2 * n, sh.2 * n)]
  | _ => [(epAddr e + at_.1 * n, sh.1 * n)]

/-- The exponent of the output (R128, R72). -/
def TileOp.outExp (o : TileOp) : Int := if o.cold then 0 else o.o.expo

/-- Written output element (row, col) from a closed tile's entry `k` (stages 2 to 5 of R128). -/
def Ridge.outEl (r : Ridge) (o : TileOp) (cs : List Closed) (src k row col : Nat) : OutEl :=
  let d := o.desc.words
  let c := cs.getD src {}
  let f := opOutFmt d o.cold
  let x := ((c.entry k).num c.fp).scale (-c.shift)
  let e := if epOp o.epi = 0 then (Num.nan, false) else r.epiElem o row col
  let y := match epOp o.epi with | 1 => x.add e.1 | 2 => x.mul e.1 | _ => x
  let z := y.scale o.outExp
  let mode := (Rnd.ofCode (tdRnd d)).getD .rne
  let draw := if mode = .sr then scree o.seed o.step (tdTensor d) ((tdElem d + row * tdElemRs d + col) % 2 ^ 40) else 0
  let q := f.conv mode o.o.nonsat draw z
  { src := src, key := k, addr := tdOutAddr d + row * tdOutStride d + col * f.bytes, code := q.code, z := z
    bad := c.isBad k, epiBad := e.2
    past := q.past && !(mode == .rtz && z.isFin) }

/-- The written rows that a drain of one or two closed tiles produces: `base` is the op's output row of tile row 0. Each is
a list of elements at consecutive addresses. -/
def Ridge.outRows (r : Ridge) (o : TileOp) (cs : List Closed) (base rows : Nat) : List (List OutEl) :=
  let cols := tdCols o.desc.words
  let nc := cs.length
  if tdTout o.desc.words then
    (List.range cols).map fun n => (List.range (rows * nc)).map fun x =>
      r.outEl o cs (x % nc) (x / nc * 32 + n) n (base * nc + x)
  else
    (List.range rows).map fun m => (List.range (cols * nc)).map fun x =>
      r.outEl o cs (x % nc) (m * 32 + x / nc) (base + m) x

/-- The granules (of `g` bytes) that hold an element to be written as poisoned (R95, R204). -/
def badGranules (g size : Nat) (els : List OutEl) : NatSet :=
  (els.filter fun e => e.bad || e.epiBad).foldl (fun m e => NatSet.add (e.addr / g) (NatSet.add ((e.addr + size - 1) / g) m)) []

/-- The element lies in such a granule: it is written as poisoned. -/
def OutEl.hit (e : OutEl) (g size : Nat) (bad : NatSet) : Bool := bad.has (e.addr / g) || bad.has ((e.addr + size - 1) / g)

/-- What the elements of a drain come to: flags, counts, and what is folded (R127, R133, R135). -/
structure Tallied where
  flags : TFlags := {}
  sat : Nat := 0
  nonfin : Nat := 0
  amax : Num := .fin false 0 0
  seen : Bool := false
  norm : Fold := {}

/-- Count one element that is not written as poisoned. -/
def Tallied.push (t : Tallied) (f : Fmt) (nonsat : Bool) (expo : Int) (e : OutEl) : Tallied :=
  let v := f.decode e.code
  let clamp := e.past && (f == .int8 || !nonsat)
  let inf := v.isInf || (v.isNan && e.z.isInf)
  let nan := v.isNan && !inf
  let real := v.scale (-expo)
  { flags := { t.flags with sat := t.flags.sat || clamp, nan := t.flags.nan || nan, inf := t.flags.inf || inf }
    sat := t.sat + clamp.toNat, nonfin := t.nonfin + (nan || inf).toNat
    amax := if t.amax.lt real.abs then real.abs else t.amax
    seen := t.seen || !v.isNan, norm := t.norm.push real }

/-- The flags that the entries' classes set (R127). -/
def Closed.classFlags (c : Closed) : TFlags :=
  { nan := !c.fp && c.vals.any fun e => e.2.cls == 3, inf := !c.fp && c.vals.any fun e => e.2.cls == 1 || e.2.cls == 2 }

/-- Two sets of flags OR-ed. -/
def TFlags.or (a b : TFlags) : TFlags := a.orCode b.code

/-! ### Writing the results -/

/-- Write bytes of an op's output: to the Tarn, or through the Ridge's memory port (R130, R180, R193); what the access meets of
memory is used up. -/
def State.writeOut (s : State) (n id : Nat) (a : Nat) (bs : List OutByte) (m : MemUse) : State × MemUse :=
  match (s.ridge n).tileOp? id with
  | none => (s, m)
  | some o =>
    if tdOutTarn o.desc.words then
      let r := (s.ridge n).tarnWrite (a % 2 ^ 24) (bs.map Prod.fst)
      let words := ((List.range bs.length).zip bs).foldl (fun m p =>
        if p.2.2 then NatSet.add ((a % 2 ^ 24 + p.1) / 32) m else m) []
      ((s.setRidge n ((words.foldl Ridge.tarnMark r).spoil (spansMeet [(a % 2 ^ 24, bs.length)] (s.tarnSlots n)))).tarnWrites n
        [(a % 2 ^ 24, bs.length)], m)
    else
      let w := s.writeBoard (.ridge n) o.desc.ctx (a % 2 ^ 43) (tdHint o.desc.words) bs (.tile n id) m
      let rest : MemUse := { pm := m.pm.drop (pieces (a % 2 ^ 43) bs.length).length, gran := m.gran.drop w.used }
      let t := w.s
      let o1 := { o with remote := o.remote + w.remote, xfault := o.xfault || w.fault != 0 }
      let u := t.setRidge n ((t.ridge n).putTile o1)
      if w.fault = 0 then (u, rest)
      else
        let v := u.recordXlate w.fault 0 o.desc.ctx n w.faultAddr
        (if o.xfault then v else v.opFault o.desc 0x0B w.fault 0x21, rest)

/-- Write several runs of output bytes, each from an address. -/
def State.writeRuns (s : State) (n id : Nat) (runs : List (Nat × List OutByte)) (m : MemUse) : State × MemUse :=
  runs.foldl (fun x r => x.1.writeOut n id r.1 r.2 x.2) (s, m)

/-- Book the flags and counts of a drain for its journal slot; without one, for slot 0 (R127, R147). -/
def State.bookFlags (s : State) (n : Nat) (j : Option Nat) (f : TFlags) (sat nonfin : Nat) : State :=
  let i := j.getD 0
  let t := s.setReg (.acc n) 0x10C (s.reg (.acc n) 0x10C ||| w32 (f.code * 2 ^ (8 * i)))
  let u := (((t.addSat (.acc n) (0x110 + 4 * i) sat).addSat (.acc n) (0x118 + 4 * i) nonfin).event (.acc n) 0x08 sat)
  if f.sat then u.setErr (.acc n) 4 else u

/-- Fold the noise contribution of the written elements (R134): `own` are the tiles before any preload, `els` the tile and
the entry of each element that is not written as poisoned (R135). -/
def State.drainNoise (s : State) (o : TileOp) (own : List Closed) (els : List (Nat × Nat)) : State :=
  if !(epNse o.epi) then s
  else
    s.foldNoise (epNseIdx o.epi) (epNseSlot o.epi) o.jslot (els.foldl (fun f p =>
      let c := own.getD p.1 {}
      f.push (((c.entry p.2).num c.fp).scale (-c.shift))) {})

/-- Fold the amax of a drain and set the cold rule's mark (R69, R72). -/
def State.drainAmax (s : State) (o : TileOp) (t : Tallied) : State :=
  match o.o.entry, o.jslot with
  | some i, some j =>
    let s1 := if o.cold then s.setScaleBit i j (2 + j) else s
    if t.seen then s1.foldAmax i j (fp32Up t.amax) else s1
  | _, _ => s

/-- Drain closed tiles to the output format (stages 2 to 7 of R128). -/
def State.drainConv (s : State) (n id : Nat) (o : TileOp) (cs own : List Closed) (base rows : Nat) (m : MemUse) :
    State × MemUse :=
  let d := o.desc.words
  let f := opOutFmt d o.cold
  let size := f.bytes
  let g := if tdOutTarn d then 32 else 64
  let lines := (s.ridge n).outRows o cs base rows
  let bad := badGranules g size lines.flatten
  let good := lines.flatten.filter fun e => !(e.hit g size bad)
  let t := good.foldl (fun t e => t.push f o.o.nonsat o.outExp e) {}
  let flags : TFlags := cs.foldl (fun (a : TFlags) c => (a.or c.flags).or c.classFlags) t.flags
  let flags := { flags with poison := flags.poison || !bad.isEmpty }
  let s1 := s.bookFlags n o.jslot flags t.sat t.nonfin
  let s2 := if lines.flatten.any fun e => e.epiBad then s1.tilePoisonFault n id else s1
  let s3 := s2.drainAmax o t
  let s4 := if epNrm o.epi then s3.foldNorm (epNrmIdx o.epi) o.jslot t.norm else s3
  let s5 := (s4.drainNoise o own (good.map fun e => (e.src, e.key))).event (.acc n) 0x02 cs.length
  let s6 := if epOp o.epi = 0 then s5 else s5.tarnReads n (o.epiSpans base rows cs.length)
  s6.writeRuns n id (lines.filterMap fun l => l.head?.map fun e =>
    (e.addr, l.flatMap fun x => (leBytes size x.code).map fun b => (b, x.hit g size bad))) m

/-- The bytes of a raw tile (R136). -/
def Closed.rawBytes (c : Closed) (free rows cols : Nat) : List OutByte :=
  let f := c.flags.or c.classFlags
  let h : ChainHdr := { form := c.form, rows := rows, cols := cols, count := c.count, shift := c.shift, kblk := c.kblk
                        flags := { f with poison := f.poison || c.allBad || !c.bad.isEmpty }.code }
  (wordsBytes h.words).map (fun b => (b, c.allBad)) ++
    (List.range (rows * cols)).flatMap fun i =>
      let k := i / cols * 32 + i % cols
      (entryBytes c.form ((c.entry k).stored free k c.form)).map fun b => (b, c.isBad k)

/-- The granules of `g` bytes of a raw tile at address `a` with an entry that depends on poison. -/
def Closed.rawBad (c : Closed) (g a rows cols : Nat) : NatSet :=
  let n := formBytes c.form
  (List.range (rows * cols)).foldl (fun m i =>
    let x := a + 64 + i * n
    if c.isBad (i / cols * 32 + i % cols) then NatSet.add (x / g) (NatSet.add ((x + n - 1) / g) m) else m) []

/-- The entries of a raw tile at address `a` that are not written as poisoned. -/
def Closed.rawGood (c : Closed) (g a rows cols : Nat) : List Nat :=
  let bad := c.rawBad g a rows cols
  let n := formBytes c.form
  ((List.range (rows * cols)).filter fun i =>
    let x := a + 64 + i * n
    !(bad.has (x / g)) && !(bad.has ((x + n - 1) / g))).map fun i => i / cols * 32 + i % cols

/-- Drain closed tiles in chain form, one after another from address `a` on (R136). -/
def State.drainRaw (s : State) (n id : Nat) (o : TileOp) (cs own : List Closed) (a rows : Nat) (m : MemUse) :
    State × MemUse :=
  let f0 : TFlags := cs.foldl (fun (f : TFlags) c => (f.or c.flags).or c.classFlags) {}
  let f : TFlags := { f0 with poison := f0.poison || cs.any fun c => c.allBad || !c.bad.isEmpty }
  let g := if tdOutTarn o.desc.words then 32 else 64
  let els := (List.range cs.length).flatMap fun i =>
    let c := cs.getD i {}
    (c.rawGood g (a + ((cs.take i).map fun x => rawSize x.form (rows * tdCols o.desc.words)).sum) rows
      (tdCols o.desc.words)).map fun k => (i, k)
  let s1 := ((s.bookFlags n o.jslot f 0 0).drainNoise o own els).event (.acc n) 0x03 cs.length
  let runs := cs.foldl (fun (x : List (Nat × List OutByte) × Nat) c =>
    let b := c.rawBytes (s1.free + x.1.length) rows (tdCols o.desc.words)
    (x.1 ++ [(x.2, b)], x.2 + b.length)) ([], a)
  let s2 := if cs.any fun c => c.vals.any fun e => e.2.cls != 0 then { s1 with free := s1.free + cs.length } else s1
  s2.writeRuns n id runs.1 m

/-- Tiles of an op that are drained together: the tiles, the first output row, the address of their chain tile and of their raw
output; their rows, closed with the late preload, and before it; whether the chain was poisoned; why the chain is not loaded. -/
structure Group where
  ts : List Nat
  base : Nat
  chain : Nat
  raw : Nat := 0
  rows : Nat
  cs : List Closed
  own : List Closed
  bad : Bool
  reason : Nat

/-- The bytes of a group's raw tiles. -/
def Group.rawBytes (g : Group) (d : List W32) : Nat := (g.cs.map fun c => rawSize c.form (g.rows * tdCols d)).sum

/-- Close tile `t` of an op with its late preload from `a`: the sum, the tile before it, the poison of the chain. -/
def State.closeTile (s : State) (n : Nat) (o : TileOp) (t a : Nat) : Closed × Closed × Bool :=
  let r := s.ridge n
  let u := (r.arr (tdArray o.desc.words)).tile t
  let c := if u.loose then (u.close o).loose s.free (tdArray o.desc.words * 2 + t) else u.close o
  if o.late then let x := r.lateChain o c a (o.rowsOf t); (x.1, c, x.2) else (c, c, false)

/-- Free the tiles of an op (R127, R136). -/
def State.freeTiles (s : State) (n arr : Nat) (ts : List Nat) : State :=
  ts.foldl (fun a t => a.putArrTile n arr t {}) s

/-- Close the tiles `ts` of an op, from their chain tile on. -/
def State.closeGroup (s : State) (n : Nat) (o : TileOp) (ts : List Nat) (base chain : Nat) : Group :=
  let d := o.desc.words
  let r := s.ridge n
  let rows := match ts with | t :: _ => o.rowsOf t | [] => 0
  let step := rawSize (r.chainHdr chain).form (rows * tdCols d)
  let at_ (i : Nat) : Nat := chain + i * step
  let reasons := if o.late then (List.range ts.length).map fun i => r.chainReason (at_ i) o.fp rows (tdCols d) else []
  let xs := (List.range ts.length).zip ts |>.map fun p => s.closeTile n o p.2 (at_ p.1)
  { ts := ts, base := base, chain := chain, rows := rows, cs := xs.map fun x => x.1, own := xs.map fun x => x.2.1
    bad := xs.any fun x => x.2.2, reason := (reasons.find? fun x => x != 0).getD 0 }

/-- Write the results of a group. -/
def State.drainGroup (s : State) (n : Nat) (o : TileOp) (g : Group) (m : MemUse) : State × MemUse :=
  let s1 := if o.late then (s.event (.acc n) 0x09 g.ts.length).tarnReads n
      [(g.chain, g.ts.length * rawSize ((s.ridge n).chainHdr g.chain).form (g.rows * tdCols o.desc.words))] else s
  let s2 := if g.bad then s1.feedPoison n o.id else s1
  if tdRaw o.desc.words then s2.drainRaw n o.id o g.cs g.own g.raw g.rows m
  else s2.drainConv n o.id o g.cs g.own g.base g.rows m

/-- What the accumulator checks meet at a drain: entries (R114), and the spill slot if the tile holds one (R124). -/
def State.drainErr (s : State) (n id arr t : Nat) (acc : AccErr) : State :=
  match acc with
  | .entryParity => (s.accPoison n id arr t 3).slotErr n id arr t .good
  | e => s.slotErr n id arr t e

/-- A tile that holds a Tarn slot reads it (R120, R122). -/
def State.slotReads (s : State) (n arr t : Nat) : State :=
  match (((s.ridge n).arr arr).tile t).slot with
  | some k => if k < 16 then s else s.tarnReads n [(s.slotAddr n k, 32768)]
  | none => s

/-- The tiles of an op whose drain is due, as groups drained together: the tiles, the first output row, and the number of
raw tiles before it. -/
def TileOp.due (o : TileOp) : List (List Nat × Nat × Nat) :=
  let d := o.desc.words
  if tdTwinA d then
    if (o.blocks + 1) * tdNb d ≤ o.made then [([(o.tile + o.blocks) % 2], 32 * o.blocks, o.blocks)] else []
  else if o.ph ≠ .passed then []
  else if tdTwinB d then (o.tiles o.tile).map fun t => ([t], 64 * t, t)
  else [(o.tiles o.tile, 0, 0)]

/-- The groups of an op that are due, closed; raw outputs stand one after another from `raw` on. -/
def State.dueGroups (s : State) (n : Nat) (o : TileOp) (raw : Nat) : List Group :=
  let d := o.desc.words
  let step := rawSize ((s.ridge n).chainHdr (tdChain d)).form ((if tdTwinA d then 32 else 64) * tdCols d)
  (o.due.foldl (fun (x : List Group × Nat) g =>
    let y := s.closeGroup n o g.1 g.2.1 (tdChain d + g.2.2 * step)
    (x.1 ++ [{ y with raw := x.2 }], x.2 + y.rawBytes d)) ([], raw)).1

/-- Why a drain writes nothing: a chain tile that is not loaded (R137), or a raw output past the Tarn (R136); else 0. -/
def drainReason (d : List W32) (raw : Nat) (gs : List Group) : Nat :=
  let r := ((gs.map Group.reason).find? fun x => x != 0).getD 0
  if r ≠ 0 then r
  else if tdRaw d && tdOutTarn d && decide (tarnSize < raw % 2 ^ 24 + (gs.map fun g => g.rawBytes d).sum) then 7
  else 0

/-- TILE_DRAIN (R114, R124, R128 to R138): the drain that is due on the array; when the op has nothing left, its tally
increments. All tiles that it drains are freed, whether they are written or not. -/
def execTileDrain (ridge array : Fin 64) (acc : AccErr) (tarn : TarnErr) (m : MemUse) (s : State) :
    Host.Outcome State Fault Refusal :=
  let n := ridge.val
  .next (match (s.ridge n).tileOps.find? fun o =>
      tdArray o.desc.words == array.val && tdDrain o.desc.words && (o.ph == .passed || o.ph == .atArray) && !o.due.isEmpty with
    | none => s
    | some o =>
      let d := o.desc.words
      let ts := o.due.flatMap fun g => g.1
      let s0 := s.tarnErr n tarn
      let s1 := match ts with
        | t :: us => us.foldl (fun (x : State) u => x.drainErr n o.id array.val u .good) (s0.drainErr n o.id array.val t acc)
        | [] => s0
      let s1 := ts.foldl (fun (x : State) t => x.slotReads n array.val t) (s1.loosen n o (s.opRaces n o))
      match (s1.ridge n).tileOp? o.id with
      | none => s1
      | some o1 =>
        let r := s1.ridge n
        let raw := tdOutAddr d + (if tdTwinA d then o1.blocks * rawSize
          ((((r.arr array.val).tile ((o1.tile + o1.blocks) % 2)).close o1).form) (32 * tdCols d) else 0)
        let gs := s1.dueGroups n o1 raw
        let s2 := s1.freeTiles n array.val ts
        let s3 := if ts.any fun t => ((r.arr array.val).tile t).loose then s2.fresh else s2
        let why := drainReason d raw gs
        if why ≠ 0 then (s3.chainFault n o1.desc why).endTile n o1
        else
          let x := (gs.foldl (fun (x : State × MemUse) g => x.1.drainGroup n o1 g x.2) (s3, m)).1
          match (x.ridge n).tileOp? o.id with
          | none => x
          | some o2 =>
            let o3 := { o2 with blocks := o2.blocks + 1 }
            let u := if o2.cold && decide (o2.blocks = 0) then x.addSat .scl 0x10C 1 else x
            let t := u.setRidge n ((u.ridge n).putTile o3)
            if tdTwinA d && decide (o3.blocks < ceilDiv (tdKlen d) 32) then t else t.finishTile n o3)

end Sys2Proof.Machine
end

