-- ==== Sys2Proof/Machine/Combine.lean ====
section
/-! DEFINITION. What a combine slot computes (R326, R328): elements under R189, raw tiles under R139, in a chain or a tree;
the conversion of a combined tile (R330). -/
namespace Sys2Proof.Machine

/-! ### The rank-order rule (R326) -/

/-- One level of the tree: neighbours are combined, an unpaired last value passes up. -/
def pairUp {α : Type} (f : α → α → α) : List α → List α
  | a :: b :: l => f a b :: pairUp f l
  | l => l

/-- The tree of R326; `fuel` is at least the number of levels. -/
def treeFold {α : Type} (f : α → α → α) : Nat → List α → Option α
  | _, [] => none
  | _, [a] => some a
  | 0, a :: _ => some a
  | fuel + 1, l => treeFold f fuel (pairUp f l)

/-- Chain or tree over the contributions in participant order. -/
def rankFold {α : Type} (tree : Bool) (f : α → α → α) (l : List α) : Option α :=
  if tree then treeFold f l.length l
  else match l with
    | [] => none
    | a :: r => some (r.foldl f a)

/-! ### Elements (R189, R328) -/

/-- Combine two contributions of elements of `n` bytes; a result that depends on a poisoned byte is poisoned. -/
def combineElems (op : Nat → Nat → Nat) (n : Nat) (x y : List OutByte) : List OutByte :=
  (List.range (x.length / n)).flatMap fun i =>
    let a := (x.drop (i * n)).take n
    let b := (y.drop (i * n)).take n
    let bad := a.any Prod.snd || b.any Prod.snd
    (leBytes n (op (leNat (a.map Prod.fst)) (leNat (b.map Prod.fst)))).map fun v => (v, bad)

/-! ### Raw tiles (R136, R139) -/

/-- A raw tile: its header, its entries in row-major order, and which are poisoned. -/
structure RawTile where
  hdr : ChainHdr
  ents : List (Entry × Bool)
  bad : Bool := false
deriving DecidableEq, Repr

/-- The bytes of a raw tile from its header. -/
def ChainHdr.size (h : ChainHdr) : Nat := rawSize h.form (h.rows * h.cols)

/-- The header of a raw tile at the front of some bytes. -/
def hdrOf (bs : List OutByte) : ChainHdr := ChainHdr.ofWords (leWords ((bs.take 64).map Prod.fst) 16)

/-- Read the raw tile with header `h` at the front of some bytes. -/
def RawTile.ofBytes (h : ChainHdr) (bs : List OutByte) : RawTile :=
  let n := formBytes h.form
  { hdr := h
    ents := (List.range (h.rows * h.cols)).map fun i =>
      let e := (bs.drop (64 + i * n)).take n
      (entryOfNat h.form (leNat (e.map Prod.fst)), e.any Prod.snd) }

/-- The bytes of a raw tile, number `x` of those that are written together; all of them depend on its header. -/
def RawTile.bytes (t : RawTile) (free x : Nat) : List OutByte :=
  (wordsBytes t.hdr.words).map (fun b => (b, t.bad)) ++
    ((List.range t.ents.length).zip t.ents).flatMap fun e =>
      (entryBytes t.hdr.form (e.2.1.stored free (2048 * x + e.1) t.hdr.form)).map fun b => (b, t.bad || e.2.2)

/-- The header of a tile is poisoned. -/
def hdrBad (bs : List OutByte) : Bool := (bs.take 64).any Prod.snd

/-- Cut bytes into raw tiles; none where they are not a whole number of known tiles. A tile with a poisoned header is taken to be
of the shape of `like`. -/
def rawTiles (like : ChainHdr) : Nat → List OutByte → Option (List RawTile)
  | _, [] => some []
  | 0, _ => none
  | fuel + 1, bs =>
    let h := if hdrBad bs then like else hdrOf bs
    if !(h.form ∈ [1, 2, 3]) || bs.length < h.size then none
    else (rawTiles like fuel (bs.drop h.size)).map fun l => { RawTile.ofBytes h (bs.take h.size) with bad := hdrBad bs } :: l

/-- Two raw tiles can be combined (R139, R328). -/
def rawMatch (a b : RawTile) : Bool :=
  a.hdr.rows == b.hdr.rows && a.hdr.cols == b.hdr.cols && (a.hdr.form == 3) == (b.hdr.form == 3)

/-- Combine two raw tiles (R139): both are aligned to the larger `SHIFT` and added; `nonsat` is the mode of the output. -/
def rawCombine (nonsat : Bool) (a b : RawTile) : RawTile :=
  let sh := max a.hdr.shift b.hdr.shift
  let fp := a.hdr.form == 3
  let one (x y : Entry × Bool) : (Entry × Bool) × Bool :=
    if fp then
      let p := fpShift nonsat (sh - a.hdr.shift) x.1
      let q := fpShift nonsat (sh - b.hdr.shift) y.1
      let z := accRound nonsat (Num.add (fp32Val (w32 p.1.v.toNat)) (fp32Val (w32 q.1.v.toNat)))
      (({ v := (z.1 : Int) }, x.2 || y.2), p.2 || q.2 || z.2)
    else
      let p := entShift (sh - a.hdr.shift).toNat x.1
      let q := entShift (sh - b.hdr.shift).toNat y.1
      let z := entAdd 128 p.1 q.1
      ((z.1, x.2 || y.2), p.2 || q.2 || z.2)
  let es := (a.ents.zip b.ents).map fun p => one p.1 p.2
  let f := (TFlags.orCode {} a.hdr.flags).orCode b.hdr.flags
  { hdr := { form := if fp then 3 else 2, rows := a.hdr.rows, cols := a.hdr.cols, count := 0, shift := sh
             flags := ({ f with sat := f.sat || es.any Prod.snd } : TFlags).code
             kblk := min (a.hdr.kblk + b.hdr.kblk) 0xFFFFFFFF }
    ents := es.map Prod.fst, bad := a.bad || b.bad }

/-! ### Conversion of a combined tile (R330) -/

/-- What the conversion of raw tiles needs: format, rounding, output entry, Scree inputs, epilogue. -/
structure ConvJob where
  fmt : Fmt
  rnd : Nat
  out : ScaleUse
  cold : Bool
  seed : W64
  step : W32
  tensor : W32
  elem : Nat
  epi : List W32
  free : Nat

/-- The output exponent. -/
def ConvJob.expo (j : ConvJob) : Int := if j.cold then 0 else j.out.expo

/-- Element `i` (row-major) of output tile `t` (stages 2 to 5 of R128). With an epilogue operation the operand's place is not
stated for an engine, so the element is open. -/
def ConvJob.element (j : ConvJob) (addr t : Nat) (x : RawTile) (i : Nat) : OutEl :=
  let e := x.ents.getD i ({}, false)
  let z := ((e.1.num (x.hdr.form == 3)).scale (-x.hdr.shift)).scale j.expo
  let mode := (Rnd.ofCode j.rnd).getD .rne
  let draw := if mode = .sr then scree j.seed j.step j.tensor ((j.elem + 2048 * t + i) % 2 ^ 40) else 0
  let q := j.fmt.conv mode j.out.nonsat draw z
  let code := if epOp j.epi = 0 then q.code else (Config.freeWord j.free (2048 * t + i)).toNat % 2 ^ j.fmt.width
  { addr := addr + i * j.fmt.bytes, code := code, z := z, bad := x.bad || e.2, epiBad := false
    past := q.past && !(mode == .rtz && z.isFin) && epOp j.epi == 0 }

/-- The statistics of R133 to R135 and the flags of converted elements. -/
def ConvJob.tally (j : ConvJob) (els : List OutEl) : Tallied :=
  let bad := badGranules 64 j.fmt.bytes els
  (els.filter fun e => !(e.hit 64 j.fmt.bytes bad)).foldl (fun t e => t.push j.fmt j.out.nonsat j.expo e) {}

/-- The noise contribution of a tile. -/
def RawTile.noise (x : RawTile) (f : Fold) : Fold :=
  (x.ents.filter fun e => !(x.bad || e.2)).foldl
    (fun f e => f.push ((e.1.num (x.hdr.form == 3)).scale (-x.hdr.shift))) f

/-- The output bytes of converted elements: a granule with an element that depends on poison is written poisoned. -/
def elBytes (size : Nat) (els : List OutEl) : List OutByte :=
  let bad := badGranules 64 size els
  els.flatMap fun e => (leBytes size e.code).map fun b => (b, e.hit 64 size bad)

end Sys2Proof.Machine
end

