-- ==== Sys2Proof/Machine/Die.lean ====
section
/-! DEFINITION. The die sequencers: accepting an operation (R252), opening and dealing it (R14, R15, R97, R253, R463), and
the end of a share (R16). -/
namespace Sys2Proof.Machine

/-- Fields of an operation descriptor (R252). -/
def odTally (d : List W32) : Nat := wfld d 0 31 20
def odM (d : List W32) : Nat := wfld d 2 23 0
def odN (d : List W32) : Nat := wfld d 3 23 0
def odK (d : List W32) : Nat := wfld d 4 23 0

/-- The die sequencer accepts the descriptor (R252). -/
def odOk (d : List W32) : Bool :=
  wfld d 0 19 8 == 0 && wfld d 1 31 28 == 0 && [2, 3, 4].all (fun i => wfld d i 31 24 == 0) &&
  (List.range 4).all (fun i => wordAt d (12 + i) == 0) && odM d != 0 && odN d != 0 && odK d != 0

/-- The output tiles of an operation (R97). -/
def odTiles (d : List W32) : Nat := ceilDiv (odM d) 64 * ceilDiv (odN d) 32

/-- The oldest descriptor of a queue not yet judged. -/
def nextUnjudged (q : List Desc) : Option Desc := q.find? fun d => !d.judged

/-- The queue with its oldest unjudged descriptor replaced or removed. -/
def judgeFirst (f : Desc → Option Desc) : List Desc → List Desc
  | [] => []
  | d :: q => if d.judged then d :: judgeFirst f q else (f d).toList ++ q

/-- OPERATION_ACCEPT (R252): the die sequencer checks the next operation descriptor of its inbound queue. -/
def execOperationAccept (die : Fin 4) (s : State) : Host.Outcome State Fault Refusal :=
  let k := die.val
  let c := s.core (1 + k)
  .next (match nextUnjudged c.inq with
    | none => s
    | some d =>
      if odOk d.words then
        (s.setCore (1 + k) { c with inq := judgeFirst (fun d => some { d with judged := true }) c.inq }).setDie k
          (s.die k ++ [{ desc := { d with judged := true } }])
      else
        ((s.setCore (1 + k) { c with inq := judgeFirst (fun _ => none) c.inq }).setErr (.die k) 1).refuseDesc d 0 0x11)

/-! ### Opening an operation (R15) -/

/-- Ridge `n` has work of operation `op` left: descriptors that were issued, or accepted ops. -/
def State.opWork (s : State) (n op : Nat) : Bool :=
  let r := s.ridge n
  (r.tileIn ++ r.brookIn ++ r.fetchIn ++ (s.core (5 + n)).heldDesc.toList).any (fun d => d.op == op) ||
  (r.tileOps.any fun o => o.desc.op == op) || (r.brookOps.any fun o => o.desc.op == op) ||
  (r.fetchOps.any fun o => o.desc.op == op)

/-- An abandoned operation that was opened: the ops of the shares that were taken have completed or ended (R416). -/
def State.opGone (s : State) (r : OpRec) : Bool :=
  r.abandoned && r.phase != 0 && r.owing.all fun n => !(s.opWork n r.desc.op)

/-- Open operations whose last tile has left the arrays are draining; abandoned ones that are over are closed. -/
def State.settleOps (s : State) (k : Nat) : State :=
  s.setDie k (((s.die k).filter fun r => !(s.opGone r)).map fun r => { r with phase := s.opPhase r })

/-- The operation may open on die `k` (R15): on every die of its partition, no other operation is open, at most one drains,
and no earlier one still waits to begin. -/
def State.mayOpen (s : State) (k : Nat) (r : OpRec) : Bool :=
  let ks := s.diesOf (s.partOfDie k)
  let begun := ks.flatMap fun j => (s.die j).filter fun x => x.phase != 0 && x.desc.op != r.desc.op
  let earlier (d : Desc) : Bool := decide (d.op < r.desc.op)
  begun.all (fun x => x.phase == 2) &&
    (match begun with
    | [] => true
    | x :: l => l.all fun y => y.desc.op == x.desc.op) &&
    ks.all fun j => !((s.die j).any fun x => x.phase == 0 && earlier x.desc) &&
      !((s.core (1 + j)).inq.any fun d => !d.judged && earlier d)

/-! ### The deal (R97, R463) -/

/-- The arrays of a partition not excluded by `RDG.FENCE`, a Cairn fence or a quiesce, with every bin fence applied. -/
def State.dealList (s : State) (p : Nat) : List (Nat × Nat) :=
  (List.range 64).flatMap fun n =>
    if s.partOfDie (n / 16) ≠ p ∨ (s.ridge n).quiescing ∨ (s.ridge n).quiesced then []
    else (List.range 64).filterMap fun a =>
      if s.uncondFence n a || s.binFence n a (s.dieBin (n / 16)) then none else some (n, a)

/-- The arrays of Ridge `n` in a list. -/
def arraysOf (l : List (Nat × Nat)) (n : Nat) : Nat := (l.filter fun x => x.1 == n).length

/-- The arrays of Ridge `n` that the deal of `t` tiles gives at least one tile. -/
def occupancy (l : List (Nat × Nat)) (t n : Nat) : Nat := arraysOf (l.take t) n

/-- The neighbours of a Ridge: n ± 1 in the same row of four, n ± 4, on the same die (R456). -/
def ridgeNeighbours (n : Nat) : List Nat :=
  (if n % 4 = 0 then [] else [n - 1]) ++ (if n % 4 = 3 then [] else [n + 1]) ++
  (if n % 16 < 4 then [] else [n - 4]) ++ (if 12 ≤ n % 16 then [] else [n + 4])

/-- The load signature of Ridge `n` under a deal (R456). -/
def loadSignature (l : List (Nat × Nat)) (t n : Nat) : Nat :=
  min 3 (occupancy l t n / 16) * 4 + min 3 ((ridgeNeighbours n).countP fun m => decide (32 ≤ occupancy l t m))

/-- The final list of a deal: arrays whose signature a conditional fence names are removed (R463). -/
def State.dealFinal (s : State) (l : List (Nat × Nat)) (t : Nat) : List (Nat × Nat) :=
  l.filter fun x => !(s.sigFence x.1 x.2 (loadSignature l t x.1))

/-- A conditional fence removed an array of Ridges of die `k` from the deal. -/
def State.condRemoved (s : State) (k : Nat) (l fin : List (Nat × Nat)) : Bool :=
  let here (l : List (Nat × Nat)) : Nat := l.countP fun x => x.1 / 16 == k
  decide (here fin < here l) || (List.range 16).any fun i => (List.range 64).any fun a =>
    !(s.uncondFence (16 * k + i) a) && s.binFence (16 * k + i) a (s.dieBin k)

/-- The place of the lowest array of Ridge `n` in a list. -/
def listPos (l : List (Nat × Nat)) (n : Nat) : Nat := (l.findIdx? fun x => x.1 == n).getD 0

/-- The tiles of `t` that a list deals to Ridge `n`: tile i goes to the array at place i mod the list's length (R97, R253). -/
def tilesDealt (l : List (Nat × Nat)) (t n : Nat) : Nat :=
  t / l.length * arraysOf l n + min (arraysOf l n) (t % l.length - listPos l n)

/-- The share descriptor of Ridge `n` (R253). -/
def shareWords (d : List W32) (tally : Nat) (l : List (Nat × Nat)) (n : Nat) : List W32 :=
  [w32 (tally * 2 ^ 20 + 0x12), w32 (wfld d 1 13 0), w32 (odTiles d % 2 ^ 24), w32 (listPos l n * 65536 + l.length),
   w32 (arraysOf l n)] ++ ((List.range 7).map fun i => wordAt d (5 + i)) ++ [w32 (odM d), w32 (odN d), w32 (odK d), 0]

/-- Put a descriptor in the inbound queue of a core. -/
def State.deliver (s : State) (c : Nat) (d : Desc) : State :=
  let k := s.core c
  s.setCore c { k with inq := k.inq ++ [d] }

/-- The die's record of a deal (R262): arrays and Ridges, and the load signatures of the first round. -/
def State.recordDeal (s : State) (k : Nat) (first fin : List (Nat × Nat)) (t : Nat) : State :=
  let ridges := (List.range 16).map fun i => 16 * k + i
  let cnt := (ridges.map fun n => arraysOf fin n)
  let sig (i : Nat) : Nat := (List.range 8).foldl (fun a x => a + loadSignature first t (16 * k + 8 * i + x) * 16 ^ x) 0
  let u := ((s.setReg (.die k) 0x104 (w32 (2 ^ 31 + (cnt.countP fun c => c != 0) * 65536 + cnt.sum))).setReg
    (.die k) 0x108 (w32 (sig 0))).setReg (.die k) 0x10C (w32 (sig 1))
  ridges.foldl (fun a n => a.setRidge n { a.ridge n with
    dealt := some ((fin.filter fun x => x.1 == n).map Prod.snd) }) u

/-- Remove a completed or abandoned operation of die `k`, and its descriptor if no program took it. -/
def State.closeOp (s : State) (k : Nat) (r : OpRec) : State :=
  let c := s.core (1 + k)
  (s.setDie k ((s.die k).erase r)).setCore (1 + k) { c with inq := c.inq.erase r.desc }

/-- The operation's share on die `k` is complete (R16, R252). -/
def State.completeOp (s : State) (k : Nat) (r : OpRec) : State :=
  let t := s.closeOp k r
  if r.abandoned then t else (t.addSat (.die k) 0x110 1).opTally (odTally r.desc.words) r.desc.ctx

/-- OPERATION_BEGIN (R15, R97, R253, R463): the next operation of the die opens and is dealt into shares, whose tally the
die sequencer's program chooses. DESIGN CHOICE (log entry 109): the deal of a die reads the fences and the temperature bins
when that die begins; the manual does not say that the dies of a partition deal at one moment. -/
def execOperationBegin (die : Fin 4) (shareTally : Fin 4096) (s : State) : Host.Outcome State Fault Refusal :=
  let k := die.val
  let p := s.partOfDie k
  let u := (s.diesOf p).foldl State.settleOps s
  .next (match (u.die k).find? fun r => r.phase == 0 with
    | none => s
    | some r =>
      let d := r.desc.words
      let first := s.dealList p
      let t := odTiles d
      let fin := s.dealFinal first t
      let mine := ((List.range 16).map fun i => 16 * k + i).filter fun n => arraysOf fin n != 0
      if !(u.mayOpen k r) || mine.any fun n => decide (16 ≤ (u.core (5 + n)).inq.length) then s
      else
        let v := (u.recordDeal k first fin t).setReg (.die k) 0x100 (w32 (odTally d * 65536))
        let v := (v.event (.die k) 0x03 1).event (.die k) 0x05 (s.condRemoved k first fin).toNat
        let r1 := { r with phase := 1, shareTally := shareTally.val, owing := mine
                           due := mine.foldl (fun m n => Table.set (fun _ => 0) m n (tilesDealt fin t n)) [] }
        let v := v.setDie k ((v.die k).map fun x => if x == r then r1 else x)
        if mine.isEmpty then (v.setErr (.die k) 0).completeOp k r1
        else
          (mine.foldl (fun a n => a.deliver (5 + n)
            { words := shareWords d shareTally.val fin n, ctx := r.desc.ctx, src := r.desc.src, op := r.desc.op }) v).event
            (.die k) 0x04 mine.length)

/-- SHARE_COMPLETE (R16): the Ridge ends its oldest share, whose descriptor it has taken and whose ops have all written
their results: the share tally increments, and with the last share of the die the operation's tally. -/
def execShareComplete (ridge : Fin 64) (s : State) : Host.Outcome State Fault Refusal :=
  let n := ridge.val
  let k := n / 16
  .next (match (s.die k).find? fun r => r.phase != 0 && r.owing.has n with
    | none => s
    | some r =>
      if s.shareWaits n r || s.opWork n r.desc.op then s
      else
        let r1 := { r with owing := NatSet.del n r.owing }
        let t := (s.opTally r.shareTally r.desc.ctx).setDie k ((s.die k).map fun x => if x == r then r1 else x)
        if r1.owing.isEmpty then
          t.completeOp k r1
        else t)

end Sys2Proof.Machine
end

