-- ==== Sys2Proof/Machine/Issue.lean ====
section
/-! DEFINITION. The queues that descriptors are placed in (R227, R247, R261): each target takes a descriptor or is full. -/
namespace Sys2Proof.Machine

/-- The fields of a descriptor that name its target: the OPC, a collective's engine (R330), a DMA channel (R268). -/
def dcOpc (d : List W32) : Nat := wfld d 0 7 0
def dcEngine (d : List W32) : Nat := wfld d 0 27 25
def dcChan (d : List W32) : Nat := wfld d 0 31 27

/-- Put a descriptor in the inbound queue of core `c`, of 16 places (R227). -/
def State.placeCore (s : State) (c : Nat) (d : Desc) : Option State :=
  if 16 ≤ (s.core c).inq.length then none else some (s.deliver c d)

/-- One copy for each die sequencer of the partition (R247); the operation takes the next number. -/
def State.placeDies (s : State) (d : Desc) : Option State :=
  let ks := s.diesOf (s.partOfCtx d.ctx)
  if ks.any fun k => decide (16 ≤ (s.core (1 + k)).inq.length) then none
  else some (ks.foldl (fun t k => t.deliver (1 + k) { d with op := s.opNum + 1 }) { s with opNum := s.opNum + 1 })

/-- A DMA channel holds at most 16 descriptors (R273). -/
def State.placeDma (s : State) (d : Desc) : Option State :=
  let k := s.dma (dcChan d.words)
  if 16 ≤ k.inq.length + k.acc.length then none else some (s.setDma (dcChan d.words) { k with inq := k.inq ++ [d] })

/-- The queue of the step machinery (R227). -/
def State.placeStep (s : State) (d : Desc) : Option State :=
  if 16 ≤ s.stepm.q.length then none else some { s with stepm := { s.stepm with q := s.stepm.q ++ [d] } }

/-- A share goes to the Ridge of the die whose lowest array of the deal stands at `POS` (R253); with no such Ridge it goes
nowhere. -/
def State.placeShare (s : State) (k : Nat) (d : Desc) : Option State :=
  match (s.dealList (s.partOfDie k))[wfld d.words 3 28 16]? with
  | some x => if x.1 / 16 = k then s.placeCore (5 + x.1) d else some s
  | none => some s

/-- A descriptor of another kind follows the tile op that was placed last (R84). -/
def Ridge.lastAlone (r : Ridge) : Ridge :=
  { r with tileIn := r.tileIn.dropLast ++ (r.tileIn.getLast?.map fun d => { d with alone := true }).toList }

/-- The queues of a Ridge: 64 tile ops, 16 Brook ops and 32 fetch ops, accepted ones included (R99, R167, R191). -/
def State.placeRidge (s : State) (n : Nat) (d : Desc) : Option State :=
  let r := s.ridge n
  let t := r.lastAlone
  match dcOpc d.words with
  | 0x21 => if 64 ≤ r.tileIn.length + r.tileOps.length then none else some (s.setRidge n { r with tileIn := r.tileIn ++ [d] })
  | 0x31 => if 16 ≤ r.brookIn.length + r.brookOps.length then none else some (s.setRidge n { t with brookIn := r.brookIn ++ [d] })
  | _ => if 32 ≤ r.fetchIn.length + r.fetchOps.length then none else some (s.setRidge n { t with fetchIn := r.fetchIn ++ [d] })

/-- A transfer as its descriptor states it (R329). -/
def Xfer.ofDesc (d : Desc) : Xfer :=
  let w := d.words
  { desc := d, kind := wfld w 0 31 28, key := wfld w 0 27 24, peer := wfld w 1 12 0, remote := wquad w 2 43
    loc := wquad w 4 43, len := (wordAt w 6).toNat
    note := some { coll := wfld w 8 31 20, peer := 0, done := false, first := (wordAt w 7).toNat
                   count := ceilDiv (wordAt w 6).toNat 2048 } }

/-- The queue of a Confluence engine's transfer unit. -/
def State.placeXfer (s : State) (e : Nat) (d : Desc) : Option State :=
  let k := s.cfl e
  if 16 ≤ k.xq.length then none else some (s.setCfl e { k with xq := k.xq ++ [Xfer.ofDesc d] })

/-- The OPCs that a kind of core may issue (R214). -/
def kindIssues (kind opc : Nat) : Bool :=
  match kind with
  | 0 => opc == 0x11 || opc == 0x51 || opc == 0x61 || opc == 0x71
  | 1 => opc == 0x12
  | 2 => opc == 0x21 || opc == 0x31 || opc == 0x41
  | _ => opc == 0x52

/-- Place a descriptor from core 0 or a command window (R247). -/
def State.placeWork (s : State) (d : Desc) : Option State :=
  match dcOpc d.words with
  | 0x11 => s.placeDies d
  | 0x51 => s.placeCore (69 + dcEngine d.words) d
  | 0x61 => s.placeDma d
  | _ => s.placeStep d

/-- Place a descriptor issued by core `c` (R227). -/
def State.place (s : State) (c : Nat) (d : Desc) : Option State :=
  match coreKind c with
  | 0 => s.placeWork d
  | 1 => s.placeShare (c - 1) d
  | 2 => s.placeRidge (c - 5) d
  | _ => s.placeXfer (c - 69) d

end Sys2Proof.Machine
end

