-- ==== Sys2Proof/Machine/Coll.lean ====
section
/-! DEFINITION. Collectives: their descriptors (R330), participants (R321, R322), refusals (R332), what the collective
program does at acceptance (R331, R335, R338, R344), and how a collective ends (R333). -/
namespace Sys2Proof.Machine

/-! ### Collective descriptors (R330) -/

def cdKind (d : List W32) : Nat := wfld d 0 31 28
def cdTree (d : List W32) : Bool := wfld d 0 24 24 == 1
def cdDtype (d : List W32) : Nat := wfld d 0 23 22
def cdWide (d : List W32) : Bool := wfld d 0 21 21 == 1
def cdRop (d : List W32) : Nat := wfld d 0 20 17
def cdTally (d : List W32) : Nat := wfld d 1 31 20
def cdId (d : List W32) : Nat := wfld d 1 19 8
def cdMe (d : List W32) : Nat := wfld d 2 28 16
def cdN (d : List W32) : Nat := wfld d 2 12 0
def cdPart (d : List W32) : Nat := wquad d 3 43
def cdSrc (d : List W32) : Nat := wquad d 5 43
def cdDst (d : List W32) : Nat := wquad d 7 43
def cdLen (d : List W32) : Nat := (wordAt d 9).toNat
def cdScl (d : List W32) : Nat := wfld d 10 31 16
def cdFmt (d : List W32) : Nat := wfld d 10 15 12
def cdRnd (d : List W32) : Nat := wfld d 10 11 10
def cdRaw (d : List W32) : Bool := wfld d 10 9 9 == 1
def cdNs (d : List W32) : Bool := wfld d 10 8 8 == 1
def cdTensor (d : List W32) : W32 := w32 (wfld d 11 31 8)
def cdElem (d : List W32) : Nat := (wordAt d 12).toNat + wfld d 11 7 0 * 2 ^ 32
def cdEpi (d : List W32) : Nat := wfld d 13 31 16
def cdRtally (d : List W32) : Nat := wfld d 13 27 16
def cdRoot (d : List W32) : Nat := wfld d 13 12 0
def cdRow (d : List W32) : Nat := (wordAt d 15).toNat

/-- Kinds that combine (R331). -/
def cdCombines (d : List W32) : Bool := cdKind d ∈ [1, 2, 10]

/-- The result is converted (R330): raw tiles without `RAW_OUT`, where something is written from them. -/
def cdConv (d : List W32) : Bool := cdDtype d == 1 && !(cdRaw d) && (cdCombines d || cdKind d == 9)

/-- The bytes of an element of integers or FP32. -/
def cdElemBytes (d : List W32) : Nat := if cdDtype d = 2 && cdWide d then 8 else 4

/-- Every reserved field is zero (R330). -/
def cdReservedOk (d : List W32) : Bool :=
  wfld d 0 14 8 == 0 && wfld d 1 7 0 == 0 && wfld d 2 31 29 == 0 && wfld d 2 15 13 == 0 && wfld d 4 31 11 == 0 &&
  wfld d 6 31 11 == 0 && wfld d 8 31 11 == 0 && wfld d 10 7 0 == 0 && wfld d 13 15 13 == 0

/-- `DTYPE`, `ROP` and `COLL` agree (R189, R328, R331). -/
def cdTypeOk (d : List W32) : Bool :=
  (match cdKind d with
    | 1 | 2 | 10 => cdDtype d != 0
    | 8 | 9 => decide (cdDtype d < 2)
    | _ => cdDtype d == 0) &&
  (cdDtype d != 2 || decide (cdRop d < 8)) && (cdDtype d != 3 || ((cdRop d == 8 || cdRop d == 9) && !(cdWide d)))

/-- The conversion fields keep to R46 and R55. -/
def State.cdConvOk (s : State) (d : List W32) : Bool :=
  !(cdConv d) || (s.scaleOk (cdNs d) (cdScl d) (cdFmt d) && cdFmt d ∈ [0, 1, 2, 5, 6] && cdRnd d != 3 &&
    (cdRnd d != 2 || cdFmt d ∈ [5, 6]))

/-- A 64 × 32 output tile, as the checks of an epilogue record see it. -/
def tile64 : List W32 := [0, w32 (64 * 2 ^ 13 + 32 * 2 ^ 7)]

/-- The epilogue record of a collective: none for RING (R330). -/
def State.cdEpiRec (s : State) (e : Nat) (d : List W32) : List W32 :=
  if !(cdConv d) || cdEpi d = 0 then [] else (s.core (69 + e)).dmemWords (cdEpi d) 8

/-- What the checks of R332 find that do not need the participant table: a reason of R349 and whether a format is at fault
(R46), or the poison of R543, which `FAULT_INFO` does not record. -/
inductive CollVerdict where
  | ok | refuse (reason : Nat) (fmt : Bool) | poison (table : Bool)
deriving DecidableEq, Repr

/-- What is wrong with the descriptor itself: a reason of R349, or 0. -/
def cdReason (d : List W32) : Nat :=
  if dcOpc d ≠ 0x51 ∨ !(cdReservedOk d) ∨ (cdKind d = 7 ∧ wfld d 13 31 28 ≠ 0) then 1
  else if cdKind d = 0 ∨ 12 ≤ cdKind d then 2
  else if !(cdTypeOk d) then 5
  else if cdN d = 0 ∨ 4112 < cdN d ∨ cdN d ≤ cdMe d ∨ cdN d ≤ cdRoot d ∨ cdPart d % 64 ≠ 0 then 3
  else if cdKind d = 7 ∧ (cdN d < 2 ∨ 64 < cdN d ∨ cdRoot d = 0) then 3
  else 0

/-- The verdict on the conversion of a collective: its output entry, then its epilogue record and the entry of that (R46, R55,
R132, R543). -/
def State.cdConvVerdict (s : State) (e : Nat) (d : List W32) : CollVerdict :=
  let r := s.cdEpiRec e d
  let er := epiOwnReason tile64 r
  let en := s.epiEntryReason r
  if s.scalePoison (cdNs d) (cdScl d) then .poison true
  else if !(s.cdConvOk d) then .refuse 5 true
  else if cdEpi d % 32 ≠ 0 then .refuse 5 false
  else if cdEpi d ≠ 0 ∧ (s.core (69 + e)).dmemPoison (cdEpi d) 8 then .poison false
  else if er.1 ≠ 0 then .refuse 5 er.2
  else if s.epiPoison r then .poison true
  else if en.1 ≠ 0 then .refuse 5 en.2
  else .ok

/-- The checks of R332 that do not need the participant table. -/
def State.cdVerdict (s : State) (e ctx : Nat) (d : List W32) : CollVerdict :=
  if cdReason d ≠ 0 then .refuse (cdReason d) false
  else if cdKind d = 7 ∧ !(s.tallyPermitted (cdRtally d) ctx) then .refuse 1 false
  else if cdConv d then s.cdConvVerdict e d
  else .ok

/-! ### Participants (R321 to R323) -/

/-- The job range holds the group (R323). -/
def State.inJob (s : State) (g : Nat) : Bool :=
  let w := s.reg (.cfl 0) 0x108
  let c := fld w 24 16
  let n := if c = 0 ∨ 257 < c then 257 else c
  let f := if 256 < fld w 8 0 then 0 else fld w 8 0
  decide (g ≤ 256) && decide ((g + 257 - f) % 257 < n)

/-- Entry `i` of a participant table. -/
def partOf (ws : List W32) (i : Nat) : Part :=
  let a := 4 * i
  { group := wfld ws a 30 22, dev := wfld ws a 21 18, engine := wfld ws a 17 15, rank := wfld ws a 14 0
    rxPage := wfld ws (a + 1) 18 0, segOff := (wordAt ws (a + 2)).toNat, segLen := (wordAt ws (a + 3)).toNat }

/-- What is wrong with the entries from `i` on, `prev` being one more than the rank before. -/
def State.partsReason (s : State) (ws : List W32) : Nat → Nat → Nat → Nat
  | 0, _, _ => 0
  | fuel + 1, i, prev =>
    let p := partOf ws i
    if wfld ws (4 * i) 31 31 = 0 ∨ wfld ws (4 * i + 1) 31 19 ≠ 0 ∨ p.rank < prev then 3
    else if !(s.inJob p.group) then 4
    else s.partsReason ws fuel (i + 1) (p.rank + 1)

/-- The participant is engine `e` of this device. -/
def State.isMe (s : State) (e : Nat) (p : Part) : Bool := p.group == s.myGroup && p.dev == s.myDev && p.engine == e

/-- The participant lies on this device. -/
def State.isHere (s : State) (p : Part) : Bool := p.group == s.myGroup && p.dev == s.myDev

/-- An engine reads memory through the Page Map copy of its E-die (R319). -/
def State.cflRead (s : State) (e ctx a n : Nat) : Except Nat (List Byte × Bool) :=
  s.boardRead (cflDie e) (cflDie e - 4) ctx a n

/-- The participants that `n` entries name, or the reason of their refusal (R322, R332). -/
def State.partsOf (s : State) (e : Nat) (d : List W32) (ws : List W32) : Except Nat (List Part) :=
  let why := s.partsReason ws (cdN d) 0 0
  if why ≠ 0 then .error why
  else if !(s.isMe e (partOf ws (cdMe d))) then .error 3
  else .ok ((List.range (cdN d)).map (partOf ws))

/-- A piece of a participant table has come, or its read has failed. -/
def State.tableGot (s : State) (q id off : Nat) (bs : Option (List OutByte)) : State :=
  match s.tread q with
  | none => s
  | some r =>
    if r.id ≠ id then s
    else s.setTread q (some { r with
      wait := r.wait.filter fun o => o != off, bad := r.bad || bs.isNone
      got := r.got ++ (bs.map fun b => (off, b)).toList })

/-- One piece of a participant table is asked for: at this device it is read at once, else by a RD transaction (R319, R322). -/
def State.tablePiece (s : State) (q : Nat) (r : TableRead) (p : Nat × Nat × Nat) : State :=
  let die := cflDie r.engine
  let c := r.coll.desc.ctx
  let t := s.lookup die (die - 4) p.1 .clean
  match t.site die (die - 4) c .rd p.1 with
  | .error f => (t.recordXlate f 2 c r.engine p.1).tableGot q r.id p.2.2 none
  | .ok (.here key) => (t.readRange 0 key p.2.1 []).tableGot q r.id p.2.2 (some (t.keyBytes key p.2.1))
  | .ok (.there g dv pt a) =>
    t.submit { who := .table q r.id p.2.2, ctx := c, kind := 0, group := g, dev := dv, port := pt, addr := a, len := p.2.1, own := some p.1 }

/-- What is read for a collective at acceptance: its participant table (R322) and, for PERMUTE, behind it the two Shard Map
records (R342, R344), as pieces with their places. -/
def tablePieces (w : List W32) : List (Nat × Nat × Nat) :=
  let n := 16 * cdN w
  let m := 32 + 32 * cdN w
  let put (a len by_ : Nat) : List (Nat × Nat × Nat) := (pieces a len).map fun p => (p.1, p.2.1, p.2.2 + by_)
  pieces (cdPart w) n ++ (if dcOpc w = 0x51 ∧ cdKind w = 6 then put (cdSrc w) m n ++ put (cdDst w) m (n + m) else [])

/-- Reader `q` asks for the participant table of a collective of engine `e`. -/
def State.tableAsk (s : State) (q e : Nat) (use : TableUse) (c : Coll) : State :=
  let k := s.cfl e
  let ps := tablePieces c.desc.words
  let r : TableRead := { id := k.nextId, engine := e, use := use, coll := c, wait := ps.map fun p => p.2.2 }
  ps.foldl (fun t p => t.tablePiece q r p) ((s.setCfl e { k with nextId := k.nextId + 1 }).setTread q (some r))

/-- The words of a participant table, all of it here; none where a piece failed or is poisoned. -/
def TableRead.words (r : TableRead) : Option (List W32) :=
  let bs := (r.got.mergeSort fun a b => decide (a.1 ≤ b.1)).flatMap Prod.snd
  if r.bad || bs.any Prod.snd then none else some (leWords (bs.map Prod.fst) (bs.length / 4))

/-- The header of the first raw tile of the engine's own source, where it can be read. -/
def State.srcHdr (s : State) (e : Nat) (d : Desc) : Option ChainHdr :=
  match s.cflRead e d.ctx (cdSrc d.words) 64 with
  | .error _ => none
  | .ok (bs, _) =>
    let h := ChainHdr.ofWords (leWords bs 16)
    if h.form ∈ [1, 2, 3] then some h else none

/-- The bytes of a chunk (R328): 2 KiB, or one raw tile; 0 where no raw tile of the engine's own tells it. -/
def State.chunkBytes (s : State) (e : Nat) (d : Desc) : Nat :=
  if cdDtype d.words ≠ 1 then 2048 else match s.srcHdr e d with | some h => h.size | none => 0

/-- The unit checks of R328, as reasons of R349. -/
def State.unitReason (s : State) (e : Nat) (d : Desc) (ps : List Part) : Nat :=
  let w := d.words
  let tail (n : Nat) : Bool := ps.any fun p => p.segLen % n != 0
  if !(cdCombines w) then 0
  else if cdDtype w ≠ 1 then (if tail (cdElemBytes w) then 6 else 0)
  else match s.srcHdr e d with
    | none => 0
    | some h => if cdConv w && !(h.rows == 64 && h.cols == 32) then 5 else if tail h.size then 6 else 0

/-! ### Transfers that the collective program makes -/

/-- The chunks of bytes `[off, off + len)`, as a gate. -/
def chunkGate (unit off len : Nat) : Gate :=
  if unit = 0 then .ready 0 0 else .ready (off / unit) (ceilDiv (off + len) unit - off / unit)

/-- The participant with index `i`. -/
def Coll.part (c : Coll) (i : Nat) : Part := c.parts.getD i { group := 0, dev := 0, engine := 0, rank := 0, rxPage := 0, segOff := 0, segLen := 0 }

/-- This participant's own index. -/
def Coll.me (c : Coll) : Nat := cdMe c.desc.words

/-- Indices of all participants but this one. -/
def Coll.peers (c : Coll) : List Nat := (List.range c.parts.length).filter fun i => i != c.me

/-- A READY to peer `k`. -/
def Coll.readyTo (c : Coll) (k first count : Nat) : Xfer :=
  { desc := c.desc, stock := true, kind := 3, peer := k
    note := some { coll := cdId c.desc.words, peer := c.me, done := false, first := first, count := count } }

/-- The READY for the whole source. -/
def Coll.readyAll (c : Coll) (k : Nat) : Xfer :=
  c.readyTo k 0 (ceilDiv (cdLen c.desc.words) (if c.unit = 0 then 2048 else c.unit))

/-- A pull from participant `k`; one from this device waits for nothing. -/
def Coll.pull (c : Coll) (kind key k remote loc len : Nat) (g : Gate) : Xfer :=
  { desc := c.desc, stock := true, kind := kind, key := key, peer := k, remote := remote % 2 ^ 43, loc := loc % 2 ^ 43
    len := len, gate := if k = c.me then .none else g }

/-- The transfers that combine segment `k` here: a pull of every contribution, then FINISH. -/
def Coll.combineSeg (c : Coll) (k : Nat) : List Xfer :=
  let p := c.part k
  if p.segLen = 0 then []
  else
    (List.range c.parts.length).map (fun i => c.pull 2 (16 + k) i (cdSrc c.desc.words + p.segOff) 0 p.segLen
      (chunkGate c.unit p.segOff p.segLen)) ++
    [c.pull 4 (16 + k) c.me 0 (cdDst c.desc.words + p.segOff) p.segLen .none]

/-- Where the result of segment `k` lies in the destination: offset and length. -/
def Coll.resultSpan (c : Coll) (form : Nat) (k : Nat) : Nat × Nat :=
  let p := c.part k
  let w := c.desc.words
  if cdDtype w ≠ 1 ∨ c.unit = 0 then (p.segOff, p.segLen)
  else
    let tiles := p.segLen / c.unit
    if cdConv w then
      let n := 2048 * (if c.cold then 2 else ((Fmt.ofCode (cdFmt w)).getD .bf16).bytes)
      (p.segOff / c.unit * n, tiles * n)
    else if form = 1 ∧ 2 ≤ c.parts.length then (p.segOff, tiles * (64 + (c.unit - 64) * 2))
    else (p.segOff, p.segLen)

/-- One extent of a Shard Map record (R342). -/
def shardExtent (ws : List W32) (i : Nat) : Nat × Nat × Nat :=
  let a := 8 + 8 * i
  (wquad ws a 40, (wordAt ws (a + 2)).toNat, wquad ws (a + 4) 43)

/-- The extents of `n` participants are disjoint and cover the rows of their Shard Map record, whose reserved bits are zero
(R342). -/
def shardOk (ws : List W32) (n : Nat) : Bool :=
  let es := (List.range n).map (shardExtent ws)
  let rows := wquad ws 2 40
  wfld ws 0 31 24 == 0 && wfld ws 3 31 8 == 0 && ((List.range 4).all fun i => wordAt ws (4 + i) == 0) &&
  ((List.range n).all fun i =>
    let a := 8 + 8 * i
    wfld ws (a + 1) 31 8 == 0 && wordAt ws (a + 3) == 0 && wfld ws (a + 5) 31 11 == 0 && wordAt ws (a + 6) == 0 &&
      wordAt ws (a + 7) == 0) &&
  es.all (fun e => decide (e.1 + e.2.1 ≤ rows)) && (es.map fun e => e.2.1).sum == rows &&
  (List.range n).all fun i => (List.range i).all fun j =>
    let p := es.getD i (0, 0, 0)
    let q := es.getD j (0, 0, 0)
    p.2.1 == 0 || q.2.1 == 0 || decide (p.1 + p.2.1 ≤ q.1) || decide (q.1 + q.2.1 ≤ p.1)

/-- Both records of a PERMUTE are sound and name one tensor, one row and as many rows (R342, R344). -/
def shardsAgree (old new : List W32) (n : Nat) : Bool :=
  shardOk old n && shardOk new n && (List.range 4).all fun i => wordAt old i == wordAt new i

/-- The pulls of PERMUTE (R344): the rows that this rank holds in the new map, by ascending row. -/
def Coll.permutePulls (c : Coll) (old new : List W32) : List Xfer :=
  let rb := (wordAt old 1).toNat
  let n := shardExtent new c.me
  let l := (List.range c.parts.length).filterMap fun k =>
    let o := shardExtent old k
    let lo := max o.1 n.1
    let hi := min (o.1 + o.2.1) (n.1 + n.2.1)
    if hi ≤ lo then none
    else some (lo, c.pull 1 0 k (o.2.2 + (lo - o.1) * rb) (n.2.2 + (lo - n.1) * rb) ((hi - lo) * rb) (.ready 0 0))
  (l.mergeSort fun a b => decide (a.1 ≤ b.1)).map Prod.snd

/-- The transfers of a collective at acceptance (R331); a Watershed round gathers in place, each record at its index
(R367). `form` is the form of the raw tiles, `old` and `new` the Shard
Map records of PERMUTE. -/
def Coll.transfers (c : Coll) (form : Nat) (old new : List W32) : List Xfer :=
  let w := c.desc.words
  let n := c.parts.length
  let src := cdSrc w
  let dst := cdDst w
  let len := cdLen w
  let notes := c.peers.map c.readyAll
  match cdKind w with
  | 1 => notes ++ c.combineSeg c.me ++ c.peers.filterMap fun k =>
      let sp := c.resultSpan form k
      if sp.2 = 0 then none else some (c.pull 1 0 k (dst + sp.1) (dst + sp.1) sp.2 .done)
  | 2 => notes ++ c.combineSeg c.me
  | 3 => if c.ws.isSome then notes ++ c.peers.map fun k => c.pull 1 0 k (dst + 64 * k) (dst + 64 * k) 64 (chunkGate c.unit 0 64)
    else notes ++ (List.range n).filterMap fun k =>
      let p := c.part k
      if p.segLen = 0 then none else some (c.pull 1 0 k src (dst + p.segOff) p.segLen (chunkGate c.unit 0 p.segLen))
  | 4 =>
    let pred := (c.me + n - 1) % n
    if c.me = cdRoot w then (if 1 < n then [c.readyAll ((c.me + 1) % n)] else []) ++ [c.pull 1 0 c.me src dst len .none]
    else [c.pull 1 0 pred (if pred = cdRoot w then src else dst) dst len (chunkGate c.unit 0 len)]
  | 5 => c.peers.map fun k =>
      let p := c.part k
      { c.readyAll k with note := some { coll := cdId w, peer := c.me, done := false, first := 0
                                         count := ceilDiv p.segLen 2048, off := p.segOff, len := p.segLen } }
  | 6 => notes ++ c.permutePulls old new
  | 7 => if 1 < n then [c.readyTo ((c.me + 1) % n) 0 1] else []
  | 8 => if cdRoot w = c.me then [] else [c.readyAll (cdRoot w)]
  | 9 =>
    let g := chunkGate (if cdDtype w = 1 then 0 else 2048) 0 len
    if cdConv w then [c.pull 2 16 (cdRoot w) src 0 len g, c.pull 4 16 c.me 0 dst len .none]
    else [c.pull 1 0 (cdRoot w) src dst len g]
  | 10 => if c.me = cdRoot w then (List.range n).flatMap c.combineSeg else [c.readyAll (cdRoot w)]
  | _ => notes

/-! ### How a collective ends -/

/-- `COLL_STAT` names the collective that the engine runs, or ran last (R349). -/
def State.collShow (s : State) (e : Nat) (c : Coll) : State :=
  s.setReg (.cfl e) 0x10C (w32 (cdKind c.desc.words * 2 ^ 24 + cdId c.desc.words * 2 ^ 8))

/-- Record the first refusal or failure of an engine (R349). -/
def State.cflInfo (s : State) (e id reason : Nat) : State :=
  if s.flag (.cfl e) 0x124 31 then s else s.setReg (.cfl e) 0x124 (w32 (2 ^ 31 + id * 256 + reason))

/-- The engine drops its collective with everything the program had under way, and the messages of its `COLL_ID`. -/
def Cfl.clear (k : Cfl) (id : Nat) : Cfl :=
  { k with
    cur := none, xq := k.xq.filter fun x => !x.stock, fly := k.fly.filter fun f => !f.x.stock, arr := []
    slots := [], msgs := k.msgs.filter fun m => m.coll != id }

/-- A Watershed round of slot `j` has gathered or failed; `lack` are the indices whose records are missing. -/
def State.roundOver (s : State) (j : Nat) (ok : Bool) (lack : List Nat) : State :=
  s.setSlot j { s.slot j with gathered := some ok, lack := lack }

/-- The next Watershed round that waits for the engine begins (R320, R367). -/
def State.wsStart (s : State) (e : Nat) : State :=
  let k := s.cfl e
  match k.cur, s.tread e, k.wsq with
  | none, none, c :: rest =>
    let c := { c with since := s.refcnt }
    (s.setCfl e { k with cur := some c, wsq := rest, xq := k.xq ++ c.transfers 0 [] [] }).collShow e c
  | _, _, _ => s

/-- The read of engine `e`'s participant table is given up where `gone` says so of its context. -/
def State.tableDrop (s : State) (e : Nat) (gone : Nat → Bool) : State :=
  match s.tread e with
  | none => s
  | some r => if gone r.coll.desc.ctx then (s.setTread e none).wsStart e else s

/-- Indices whose record a Watershed round has not pulled. -/
def Cfl.missing (k : Cfl) (c : Coll) : List Nat :=
  c.peers.filter fun p => (k.xq.any fun x => x.stock && x.kind == 1 && x.peer == p) ||
    (k.fly.any fun f => f.x.stock && f.x.peer == p) || k.arr.any fun a => k.fly.any fun f => f.id == a.flight && f.x.peer == p

/-- The collective ends without completing, and nothing else (R333). -/
def State.collDrop (s : State) (e : Nat) : State :=
  match (s.cfl e).cur with
  | none => s
  | some c => (s.setCfl e ((s.cfl e).clear (cdId c.desc.words))).wsStart e

/-- A collective fails (R333): recorded, the step aborts, its context takes a translation fault; a Watershed round raises no
step abort of its own (R368). -/
def State.collFail (s : State) (e reason bit fault : Nat) : State :=
  match (s.cfl e).cur with
  | none => s
  | some c =>
    let t := ((s.collDrop e).cflInfo e (cdId c.desc.words) reason).setErr (.cfl e) bit
    match c.ws with
    | some j => t.roundOver j false ((s.cfl e).missing c)
    | none => (t.stepAbort 0x04).opFault c.desc 0x0B fault 0x51

/-! ### Acceptance -/

/-- The collective as its descriptor and the tables stand (R61, R72, R131, R322, R356); its participants are not read yet. -/
def State.collOf (s : State) (e : Nat) (d : Desc) : Coll :=
  let w := d.words
  let j := s.curSlot d.ctx false
  let sc := s.screeInputs j
  let u := s.scaleUse (cdNs w) (cdScl w) none
  { desc := d, parts := [], since := s.refcnt, jslot := j, seed := sc.1, step := sc.2, out := u, epi := s.cdEpiRec e w
    cold := cdConv w && s.scaleCold (cdNs w) (cdScl w) && decide (cdFmt w < 3), unit := s.chunkBytes e d }

/-- A collective descriptor is refused (R332). -/
def State.collRefuse (s : State) (e : Nat) (d : Desc) (reason : Nat) : State :=
  ((s.cflInfo e (cdId d.words) reason).setErr (.cfl e) 0).opFault d 0x09 reason 0x51

/-- The engine begins a collective: its segments are reported, its transfers wait (R331, R343). -/
def State.collBegin (s : State) (e : Nat) (c : Coll) (old new : List W32) : State :=
  let lens := c.parts.map Part.segLen
  let form := match s.srcHdr e c.desc with | some h => h.form | none => 0
  let k := s.cfl e
  let t := (s.setCfl e { k with cur := some c, xq := k.xq ++ c.transfers form old new }).collShow e c
  (t.setReg (.cfl e) 0x118 (w32 (lens.foldl max 0))).setReg (.cfl e) 0x11C (w32 (lens.foldl min (lens.headD 0)))

/-- The firmware's collective program runs on the engine's core: nothing has replaced it (R319, R236). -/
def State.cflNative (s : State) (e : Nat) : Bool := s.mgmt.collProg.has e && (s.core (69 + e)).busy

/-- The participants of a collective of the firmware's program are known: what is left of R332 is judged, and it begins; `ws` are
the words read for it, the Shard Map records of PERMUTE behind the table (R342, R344). -/
def State.collGo (s : State) (e : Nat) (c : Coll) (ws : List W32) : State :=
  let n := cdN c.desc.words
  let r := s.unitReason e c.desc c.parts
  let old := ws.drop (4 * n)
  let new := ws.drop (4 * n + 8 + 8 * n)
  let o := shardExtent old c.me
  if r ≠ 0 then s.collRefuse e c.desc r
  else if cdKind c.desc.words = 6 then
    s.collBegin e { c with loose := !(shardsAgree old new n), oldBuf := (o.2.2, o.2.1 * (wordAt old 1).toNat) } old new
  else s.collBegin e c old new

/-- The participant table of an engine's collective is here (R322): it begins, or is refused; a loaded program's becomes known to
the transfer unit. -/
def State.tableEnd (s : State) (e : Nat) : State :=
  match s.tread e with
  | none => s
  | some r =>
    if !r.wait.isEmpty || r.use == .vote then s
    else
      let t := s.setTread e none
      let ws := r.words.getD []
      let res : Except Nat (List Part) := if r.words.isNone then .error 7 else t.partsOf e r.coll.desc.words ws
      match res, r.use with
      | .error x, .coll => (t.collRefuse e r.coll.desc x).wsStart e
      | .error _, _ => t.wsStart e
      | .ok ps, .coll => (t.collGo e { r.coll with parts := ps } ws).wsStart e
      | .ok ps, _ => (t.setCfl e { t.cfl e with cur := some { r.coll with parts := ps, stock := false } }).collShow e r.coll

/-- The answer to a piece of a participant table (R297); `reason` is 0, or the reason of the translation fault. -/
def State.tableAnswer (s : State) (q id off reason a : Nat) (bs : List OutByte) : State :=
  match s.tread q with
  | none => s
  | some r =>
    if r.id ≠ id then s
    else
      let t := if reason = 0 then s else s.recordXlate reason 2 r.coll.desc.ctx r.engine a
      (t.tableGot q id off (if reason = 0 then some bs else none)).tableEnd q

/-- The collective program takes the next descriptor of kind `kind`, or one that no kind fits (R320, R331, R332): what does not
need its participants is judged, and their table is asked for (R322). -/
def State.collAccept (s : State) (e kind : Nat) : State :=
  let c := s.core (69 + e)
  match c.inq with
  | [] => s
  | d :: rest =>
    let w := d.words
    if !(s.cflNative e) || (s.cfl e).cur.isSome || (s.tread e).isSome then s
    else if cdKind w ≠ kind ∧ 1 ≤ cdKind w ∧ cdKind w ≤ 11 then s
    else
      let t := s.setCore (69 + e) { c with inq := rest }
      let t := if cdConv w && cdEpi w != 0 && cdEpi w % 32 == 0 then t.dmemMeets (69 + e) (cdEpi w) 8 .clean else t
      match t.cdVerdict e d.ctx w with
      | .refuse r f => (if f then t.setErr .scl 0 else t).collRefuse e d r
      | .poison tb => (if tb then t.setErr .scl 3 else t).opFault d 0x0A 0 0x51
      | .ok => (t.tableAsk e e .coll (t.collOf e d)).tableEnd e

/-- A loaded program takes a collective descriptor: the transfer unit learns its participants and its output fields. -/
def State.collTaken (s : State) (e : Nat) (d : Desc) : State :=
  if dcOpc d.words ≠ 0x51 then s else (s.tableAsk e e .loaded (s.collOf e d)).tableEnd e

/-- ALLREDUCE (R331). -/
def execAllreduce (e : Fin 8) (s : State) : Host.Outcome State Fault Refusal := .next (s.collAccept e.val 1)

/-- REDUCE_SCATTER (R331). -/
def execReduceScatter (e : Fin 8) (s : State) : Host.Outcome State Fault Refusal := .next (s.collAccept e.val 2)

/-- ALLGATHER (R331). -/
def execAllgather (e : Fin 8) (s : State) : Host.Outcome State Fault Refusal := .next (s.collAccept e.val 3)

/-- BROADCAST (R331). -/
def execBroadcast (e : Fin 8) (s : State) : Host.Outcome State Fault Refusal := .next (s.collAccept e.val 4)

/-- ALLTOALL (R338). -/
def execAlltoall (e : Fin 8) (s : State) : Host.Outcome State Fault Refusal := .next (s.collAccept e.val 5)

/-- PERMUTE (R344). -/
def execPermute (e : Fin 8) (s : State) : Host.Outcome State Fault Refusal := .next (s.collAccept e.val 6)

/-- RING (R335). -/
def execRing (e : Fin 8) (s : State) : Host.Outcome State Fault Refusal := .next (s.collAccept e.val 7)

/-- SEND (R331). -/
def execSend (e : Fin 8) (s : State) : Host.Outcome State Fault Refusal := .next (s.collAccept e.val 8)

/-- RECV (R331). -/
def execRecv (e : Fin 8) (s : State) : Host.Outcome State Fault Refusal := .next (s.collAccept e.val 9)

/-- REDUCE (R331). -/
def execReduce (e : Fin 8) (s : State) : Host.Outcome State Fault Refusal := .next (s.collAccept e.val 10)

/-- BARRIER (R331). -/
def execBarrier (e : Fin 8) (s : State) : Host.Outcome State Fault Refusal := .next (s.collAccept e.val 11)

end Sys2Proof.Machine
end

