-- ==== Sys2Proof/Machine/Cfl.lean ====
section
/-! DEFINITION. The transfer unit of a Confluence engine (R329): pulls, combining, FINISH, PUT, messages (R324), the rounds
of RING (R335), the placing of ALLTOALL (R338), completion and timeout (R331, R333), the Expert Table (R337, R338). -/
namespace Sys2Proof.Machine

/-! ### Gates (R324, R329) -/

/-- READY messages cover chunks `[f, f + c)`. -/
def covered (ms : List Msg) : Nat → Nat → Nat → Bool
  | 0, _, c => c == 0
  | fuel + 1, f, c =>
    if c = 0 then true
    else match ms.find? fun m => decide (m.first ≤ f) && decide (f < m.first + m.count) with
      | some m => covered ms fuel (m.first + m.count) (c - (m.first + m.count - f))
      | none => false

/-- The messages of peer `p` that the collective has consumed. -/
def Coll.from (c : Coll) (p : Nat) (done : Bool) : List Msg := c.got.filter fun m => m.peer == p && m.done == done

/-- The chunks that a loaded program's transfer names (R329): from `CHUNK` on, as many as its bytes take. -/
def Coll.chunksOf (c : Coll) (w : List W32) : Nat × Nat :=
  let u := if cdDtype w = 1 then c.unit else 2048
  ((wordAt w 7).toNat, if u = 0 then 0 else ceilDiv (wordAt w 6).toNat u)

/-- What a transfer waits for; a loaded program's pull waits for its chunks. -/
def Coll.gateOf (c : Coll) (x : Xfer) : Gate :=
  if x.stock then x.gate else if 2 < x.kind then .none else .ready (c.chunksOf x.desc.words).1 (c.chunksOf x.desc.words).2

/-- The gate of a transfer from peer `p` is open. -/
def Coll.gateOpen (c : Coll) (p : Nat) : Gate → Bool
  | .none => true
  | .ready f n => let ms := c.from p false; !ms.isEmpty && covered ms (ms.length + 1) f n
  | .done => !(c.from p true).isEmpty

/-- Contributions still owed to a slot. -/
def Cfl.slotOwes (k : Cfl) (key : Nat) : Bool :=
  (k.xq.any fun x => x.kind == 2 && x.key == key) || k.fly.any fun f => f.x.kind == 2 && f.x.key == key

/-- The transfer can begin: its collective runs, its gate is open; FINISH waits for its slot. -/
def Cfl.canRun (k : Cfl) (x : Xfer) : Bool :=
  match k.cur with
  | none => false
  | some c =>
    (x.stock == c.stock && (x.stock || (x.note.map Msg.coll) == some (cdId c.desc.words))) &&
    decide (x.peer < c.parts.length) && c.gateOpen x.peer (c.gateOf x) && !(x.kind == 4 && k.slotOwes x.key)

/-- The oldest transfer of a kind that can begin. -/
def Cfl.nextXfer (k : Cfl) (kind : Nat) : Option Xfer := k.xq.find? fun x => x.kind == kind && k.canRun x

/-- Take a transfer out of the queue. -/
def State.takeXfer (s : State) (e : Nat) (x : Xfer) : State :=
  let k := s.cfl e
  s.setCfl e { k with xq := k.xq.erase x }

/-! ### Refused transfer descriptors -/

/-- What is wrong with a transfer descriptor: a reason of R349, or 0. -/
def xferReason (w : List W32) : Nat :=
  if wfld w 0 7 0 ≠ 0x52 ∨ wfld w 0 14 8 ≠ 0 ∨ wfld w 1 19 13 ≠ 0 ∨ wfld w 3 31 11 ≠ 0 ∨ wfld w 5 31 11 ≠ 0 ∨
      wfld w 8 19 0 ≠ 0 ∨ (List.range 7).any (fun i => wordAt w (9 + i) != 0) then 1
  else if wfld w 0 31 28 = 0 ∨ 5 < wfld w 0 31 28 then 2
  else if wfld w 0 31 28 = 2 ∧ ((wfld w 0 23 22 = 2 ∧ 8 ≤ wfld w 0 20 17) ∨ (wfld w 0 23 22 = 3 ∧ !(wfld w 0 20 17 == 8 || wfld w 0 20 17 == 9)))
  then 5
  else 0

/-- Refuse the transfers of a loaded program that break R329. -/
def State.judgeXfers (s : State) (e : Nat) : State :=
  let k := s.cfl e
  let bad := k.xq.filter fun x => !x.stock && xferReason x.desc.words != 0
  bad.foldl (fun t x => ((t.cflInfo e (wfld x.desc.words 8 31 20) (xferReason x.desc.words)).setErr (.cfl e) 0).opFault
    x.desc 0x09 (xferReason x.desc.words) 0x52)
    (s.setCfl e { k with xq := k.xq.filter fun x => x.stock || xferReason x.desc.words == 0 })

/-! ### Messages (R324) -/

/-- A message arrives for engine `e` (R324): its status, or nothing while the queue is full. -/
def State.msgArrive (s : State) (arg : W32) (addr : Nat) (body : List W32) : State × Option Nat :=
  let e := fld arg 2 0
  let k := s.cfl e
  let kind := fld arg 6 3
  if pageOf addr ≠ s.field (.cfl e) 0x104 18 0 ∨ !(kind ∈ [1, 2]) then
    (((s.setErr (.cfl e) 2).event (.cfl e) 0x09 1), some 2)
  else if 1024 ≤ k.msgs.length then ((s.event (.cfl e) 0x07 (1 + Config.freeNat s.free e)).fresh, none)
  else
    let m : Msg :=
      { coll := fld arg 31 20, peer := fld arg 19 7, done := kind == 2, first := (wordAt body 0).toNat
        count := (wordAt body 1).toNat, off := (wordAt body 2).toNat, len := (wordAt body 3).toNat
        expert := wfld body 4 9 0, at_ := s.refcnt }
    ((s.setCfl e { k with msgs := k.msgs ++ [m] }).event (.cfl e) 0x05 1, some 0)

/-- A message of a collective is answered (R297): with a status other than OK, or a timeout, its context takes a translation fault
with the reason given; 0 says that it has arrived. -/
def State.msgAnswer (s : State) (e : Nat) (d : Desc) (a reason : Nat) : State :=
  if reason = 0 then s else (s.recordXlate reason 2 d.ctx e a).opFault d 0x0B reason 0x51

/-- Send a message to participant `p` of a collective; one for an engine of this device is delivered at once, or waits while its
queue is full (R324). -/
def State.sendMsg (s : State) (e : Nat) (c : Coll) (peer : Nat) (m : Msg) : State :=
  let p := c.part peer
  let kind := if m.done then 2 else 1
  let arg := w32 (m.coll * 2 ^ 20 + c.me * 2 ^ 7 + kind * 8 + p.engine)
  let body := [w32 m.first, w32 m.count, w32 m.off, w32 m.len, w32 m.expert]
  let t := s.event (.cfl e) 0x06 1
  let r : FReq := { who := .msg e c.desc, ctx := c.desc.ctx, kind := 4, group := p.group, dev := p.dev
                    addr := p.rxPage * 2 ^ 24, len := 1, arg := arg, body := body }
  if s.isHere p && s.routeDown (cflDie e) (cflDie p.engine) then t.msgAnswer e c.desc r.addr 0x09
  else if s.isHere p then
    match t.msgArrive arg r.addr body with
    | (u, some st) => u.msgAnswer e c.desc r.addr (if st = 0 then 0 else 0x06)
    | (u, none) => u.submit r
  else t.submit r

/-- The engine consumes the first queued message of its collective of the given kind. -/
def State.msgConsume (s : State) (e : Nat) (done : Bool) : State :=
  let k := s.cfl e
  match k.cur with
  | none => s
  | some c =>
    match k.msgs.find? fun m => m.coll == cdId c.desc.words && m.done == done with
    | none => s
    | some m => s.setCfl e { k with msgs := k.msgs.erase m, cur := some { c with got := c.got ++ [m] } }

/-- MSG_READY_RECEIVE (R324): a READY of the running collective is consumed; others stay queued. -/
def execMsgReadyReceive (e : Fin 8) (s : State) : Host.Outcome State Fault Refusal := .next (s.msgConsume e.val false)

/-- MSG_DONE_RECEIVE (R324). -/
def execMsgDoneReceive (e : Fin 8) (s : State) : Host.Outcome State Fault Refusal := .next (s.msgConsume e.val true)

/-- NOTIFY (R329): the oldest NOTIFY that can begin sends its message; a loaded program's takes its tally. -/
def execNotify (e : Fin 8) (s : State) : Host.Outcome State Fault Refusal :=
  let s0 := s.judgeXfers e.val
  let k := s0.cfl e.val
  .next (match k.nextXfer 3, k.cur with
    | some x, some c =>
      let t := s0.takeXfer e.val x
      let t := match x.note with
        | some m => t.sendMsg e.val c x.peer (if x.stock then m else { m with count := (c.chunksOf x.desc.words).2 })
        | none => t
      if x.stock then t else t.opTally (wfld x.desc.words 1 31 20) x.desc.ctx
    | _, _ => s0)

/-! ### ALLTOALL (R338) -/

/-- The hint of a transfer or collective for its local writes (R197, R329, R330). -/
def Xfer.hint (x : Xfer) : Nat := wfld x.desc.words 0 16 15

/-- What an engine moves, unpredictable while the engine is astray (R18, R42). -/
def State.cflLoose (s : State) (e : Nat) (bs : List OutByte) : State × List OutByte :=
  if s.cflAstray e then (s.fresh, ((List.range bs.length).zip bs).map fun p => (Config.freeByte s.free p.1, p.2.2)) else (s, bs)

/-- Write bytes to board addresses of this device for an engine: the state, the first translation fault (0 for none, where it
is written), what is left of what the access meets. -/
def State.cflWrite (s : State) (e ctx a hint : Nat) (bs : List OutByte) (m : MemUse) : State × Nat × MemUse :=
  let t := s.lookupRange (cflDie e) (cflDie e - 4) a bs.length m.pm
  match t.localPieces (cflDie e) (cflDie e - 4) ctx .wr a bs.length with
  | .error r => (t, r, memAfter m a bs.length [])
  | .ok l =>
    let x := t.cflLoose e bs
    ((x.1.useLocal true hint l m.gran).putPieces a l x.2, 0, memAfter m a bs.length l)

/-- Read bytes of board addresses of this device for an engine. -/
def State.cflFetch (s : State) (e ctx a n : Nat) (m : MemUse) : State × Except Nat (List OutByte) × MemUse :=
  let t := s.lookupRange (cflDie e) (cflDie e - 4) a n m.pm
  match t.localPieces (cflDie e) (cflDie e - 4) ctx .rd a n with
  | .error r => (t, .error r, memAfter m a n [])
  | .ok l =>
    let u := t.useLocal false 0 l m.gran
    let b := u.asRead 0 (fun i => (a + i) % 2 ^ 43) (l.flatMap fun p => u.keyBytes p.1 p.2.1)
    let x := b.1.cflLoose e b.2
    (x.1, .ok x.2, memAfter m a n l)

/-- Add tokens to `TOK[j]` of an Expert Table entry (R338, R543). -/
def State.addTokens (s : State) (x : Nat) (j : Option Nat) (n : W32) : State :=
  match j with
  | none => s
  | some j =>
    let o := expertOff + 64 * x
    if x = 0x3FF || !s.windowOk then s
    else if s.winPoison o then s.tablePoison (some j)
    else s.setWinWord (o + 8 + 4 * j) (s.winWord (o + 8 + 4 * j) + n)

/-- The READY of the next source of an ALLTOALL; this participant's own segment is ready at once. -/
def Coll.a2aReady (c : Coll) : Option Msg :=
  if c.nextSrc = c.me then
    let p := c.part c.me
    some { coll := cdId c.desc.words, peer := c.me, done := false, off := p.segOff, len := p.segLen }
  else (c.from c.nextSrc false).head?

/-- The tokens of a source's segment are counted, once it is placed (R338). -/
def State.a2aTokens (s : State) (c : Coll) (m : Msg) : State :=
  let w := c.desc.words
  if cdRow w = 0 then (s.addTokens m.expert c.jslot (Config.freeWord s.free m.peer)).fresh
  else s.addTokens m.expert c.jslot (w32 (m.len / cdRow w))

/-- The READY that made a source's segment known. -/
def Coll.a2aFrom (c : Coll) (p : Nat) : Option Msg := ({ c with nextSrc := p } : Coll).a2aReady

/-- The length of a peer's segment is written, or its write failed with reason `r`: the pull of the segment is queued behind
those before it. A failed write is recorded. -/
def State.a2aWrote (s : State) (e : Nat) (c : Coll) (m : Msg) (r a : Nat) : State :=
  let w := c.desc.words
  if r ≠ 0 then (s.recordXlate r 2 c.desc.ctx e a).collFail e 9 4 r
  else
    let x := c.pull 1 0 c.nextSrc (cdSrc w + m.off) (cdDst w + c.placed) m.len .none
    let k := s.cfl e
    let t := s.setCfl e { k with
      cur := some { c with nextSrc := c.nextSrc + 1, placed := c.placed + m.len }
      xq := if m.len = 0 then k.xq else k.xq ++ [x] }
    if m.len = 0 then t.a2aTokens c m else t

/-- Place the segment of the next source, if it is ready: its count is written, its tokens are counted, its pull waits. -/
def State.a2aPlace (s : State) (e : Nat) (m : MemUse) : State × MemUse :=
  match (s.cfl e).cur with
  | none => (s, m)
  | some c =>
    if !c.stock || cdKind c.desc.words != 5 || c.parts.length ≤ c.nextSrc then (s, m)
    else match c.a2aReady with
      | none => (s, m)
      | some g =>
        let a := (cdSrc c.desc.words + 4 * c.nextSrc) % 2 ^ 43
        let x := s.cflWrite e c.desc.ctx a (wfld c.desc.words 0 16 15) ((leBytes 4 g.len).map fun b => (b, false)) m
        (x.1.a2aWrote e c g x.2.1 a, x.2.2)

/-! ### Pulls -/

/-- The key by which the answer to a piece finds its transfer. -/
def pieceKey (id off : Nat) : Nat := id * 2 ^ 33 + off

/-- Put an arrived piece in the engine's list. -/
def State.cflArrive (s : State) (e id off : Nat) (bs : List OutByte) : State :=
  let x := s.cflLoose e bs
  let k := x.1.cfl e
  (x.1.setCfl e { k with arr := k.arr ++ [{ flight := id, off := off, data := x.2 }] }).event (.cfl e) 0x03 bs.length

/-- Ask for one piece of a pull: from this device's own memory at once, else by a RD transaction (R329). -/
def State.pullPiece (s : State) (e id : Nat) (c : Coll) (x : Xfer) (p : Nat × Nat × Nat) (m : MemUse) : State × MemUse :=
  let pt := c.part x.peer
  if s.isHere pt then
    let r := s.cflFetch e c.desc.ctx p.1 p.2.1 m
    match r.2.1 with
    | .error f => ((r.1.recordXlate f 2 c.desc.ctx e p.1).collFail e 9 4 f, r.2.2)
    | .ok bs => (r.1.cflArrive e id p.2.2 bs, r.2.2)
  else
    (s.submit { who := .cfl e (pieceKey id p.2.2), ctx := c.desc.ctx, kind := 0, group := pt.group, dev := pt.dev
                addr := p.1, len := p.2.1 }, m)

/-- What the collective program does when a stock transfer is done: BROADCAST passes its bytes on, ALLTOALL counts the tokens of a
placed segment, RING ends its round. -/
def State.nativeDone (s : State) (e : Nat) (c : Coll) (x : Xfer) : State :=
  let w := c.desc.words
  let n := c.parts.length
  let k := s.cfl e
  let next := (c.me + 1) % n
  match cdKind w with
  | 4 => if c.me = cdRoot w ∨ next = cdRoot w then s else s.setCfl e { k with xq := k.xq ++ [c.readyAll next] }
  | 5 => match c.a2aFrom x.peer with
    | some m => s.a2aTokens c m
    | none => s
  | 7 =>
    let r := c.round + 1
    let t := s.setCfl e { k with
      cur := some { c with round := r }
      xq := if r < cdRoot w then k.xq ++ [c.readyTo next r 1] else k.xq }
    t.opTally (cdTally w) c.desc.ctx
  | _ => s

/-- A transfer has nothing left in flight: it is done. -/
def State.flightEnd (s : State) (e id : Nat) : State :=
  let k := s.cfl e
  match k.fly.find? fun f => f.id == id, k.cur with
  | some f, some c =>
    if !f.left.isEmpty then s
    else
      let t := s.setCfl e { k with fly := k.fly.filter fun g => g.id != id }
      if f.x.stock then t.nativeDone e c f.x else t.opTally (wfld f.x.desc.words 1 31 20) f.x.desc.ctx
  | _, _ => s

/-- Begin a pull (R329). -/
def State.startPull (s : State) (e : Nat) (c : Coll) (x : Xfer) (m : MemUse) : State :=
  let t := s.takeXfer e x
  let k := t.cfl e
  let ps := pieces x.remote x.len
  let f : Flight := { id := k.nextId, x := x, left := ps.map fun p => (p.2.2, p.2.1) }
  let t := t.setCfl e { k with nextId := k.nextId + 1, fly := k.fly ++ [f] }
  (ps.foldl (fun (y : State × MemUse) p =>
    if (y.1.cfl e).fly.any fun g => g.id == f.id then y.1.pullPiece e f.id c x p y.2 else y) (t, m)).1.flightEnd e f.id

/-- PULL (R329): the oldest pull that can begin asks for its bytes; an ALLTOALL first places its next source. -/
def execPull (e : Fin 8) (m : MemUse) (s : State) : Host.Outcome State Fault Refusal :=
  let y := (s.judgeXfers e.val).a2aPlace e.val m
  let s0 := y.1
  let k := s0.cfl e.val
  .next (match k.nextXfer 1, k.cur with
    | some x, some c => s0.startPull e.val c x y.2
    | _, _ => s0)

/-- PULL_COMBINE (R326, R329): the oldest pull into a combine slot that can begin asks for its bytes. -/
def execPullCombine (e : Fin 8) (m : MemUse) (s : State) : Host.Outcome State Fault Refusal :=
  let s0 := s.judgeXfers e.val
  let k := s0.cfl e.val
  .next (match k.nextXfer 2, k.cur with
    | some x, some c => s0.startPull e.val c x m
    | _, _ => s0)

/-- A piece is no longer in flight. -/
def State.pieceDone (s : State) (e id off : Nat) : State :=
  let k := s.cfl e
  (s.setCfl e { k with fly := k.fly.map fun f =>
    if f.id = id then { f with left := f.left.filter fun p => p.1 != off } else f }).flightEnd e id

/-- Bytes as a PERMUTE writes them at board address `a`: those that fall into the old buffer of this participant are unpredictable
(R344), and all are where its Shard Map is inconsistent (R342). -/
def State.clashed (s : State) (c : Coll) (a : Nat) (bs : List OutByte) : Bool × List OutByte :=
  let hit (i : Nat) : Bool := c.loose || decide (c.oldBuf.1 ≤ a + i ∧ a + i < c.oldBuf.1 + c.oldBuf.2)
  ((List.range bs.length).any hit,
    ((List.range bs.length).zip bs).map fun p => if hit p.1 then (Config.freeByte s.free (a + p.1), p.2.2) else p.2)

/-- PULL_CHUNK_ARRIVE (R326, R329): the oldest arrived piece is written, or waits in its slot for its turn. -/
def execPullChunkArrive (e : Fin 8) (m : MemUse) (s : State) : Host.Outcome State Fault Refusal :=
  let n := e.val
  let k := s.cfl n
  .next (match k.arr, k.cur with
    | a :: rest, some c =>
      let t := s.setCfl n { k with arr := rest }
      match k.fly.find? fun f => f.id == a.flight with
      | none => t
      | some f =>
        if f.x.kind = 2 then
          let held := Table.get (fun _ => []) k.slots f.x.key ++ [{ peer := f.x.peer, off := a.off, data := a.data }]
          (t.setCfl n { t.cfl n with slots := Table.set (fun _ => []) k.slots f.x.key held }).pieceDone n f.id a.off
        else
          let at_ := (f.x.loc + a.off) % 2 ^ 43
          let x := t.cflWrite n c.desc.ctx at_ f.x.hint (t.clashed c at_ a.data).2 m
          if x.2.1 = 0 then (if (t.clashed c at_ a.data).1 then x.1.fresh else x.1).pieceDone n f.id a.off
          else (x.1.recordXlate x.2.1 2 c.desc.ctx n at_).collFail n 9 4 x.2.1
    | _, _ => s)

/-- The answer to a transaction of an engine (R297, R333): its status, none for a timeout; `reason` is 0, or the reason of the
translation fault. -/
def State.cflAnswer (s : State) (e key : Nat) (status : Option Nat) (reason : Nat) (bs : List OutByte) : State :=
  let id := key / 2 ^ 33
  let off := key % 2 ^ 33
  match (s.cfl e).cur, (s.cfl e).fly.find? fun f => f.id == id with
  | some c, some f =>
    if reason = 0 then (if f.x.kind = 5 then s.pieceDone e id off else s.cflArrive e id off bs)
    else
      let t := s.recordXlate reason 2 c.desc.ctx e ((f.x.remote + off) % 2 ^ 43)
      t.collFail e 9 4 (if reason = 0x06 then status.getD 0x06 else reason)
  | _, _ => s

/-- One piece of a PUT: written here, or sent. -/
def State.putPiece (s : State) (e id : Nat) (c : Coll) (x : Xfer) (bs : List OutByte) (p : Nat × Nat × Nat) (m : MemUse) :
    State × MemUse :=
  let d := (bs.drop p.2.2).take p.2.1
  let t := s.lookup (cflDie e) (cflDie e - 4) p.1 (m.pm.getD 0 .clean)
  match t.site (cflDie e) (cflDie e - 4) c.desc.ctx .wr p.1 with
  | .error r => ((t.recordXlate r 2 c.desc.ctx e p.1).collFail e 9 4 r, memRest m 1 0)
  | .ok (.here key) =>
    (((t.writeRange x.hint key d.length m.gran).putBoard p.1 key d).pieceDone e id p.2.2, memRest m 1 (granules key d.length).length)
  | .ok (.there g dv pt a) =>
    (t.submit { who := .cfl e (pieceKey id p.2.2), ctx := c.desc.ctx, kind := 1, group := g, dev := dv, port := pt
                addr := a, len := p.2.1, data := d.map Prod.fst, bad := badSlots a d }, memRest m 1 0)

/-- PUT (R329): the oldest PUT writes local bytes to its remote address, used for node targets of remote windows. -/
def execPut (e : Fin 8) (m : MemUse) (s : State) : Host.Outcome State Fault Refusal :=
  let n := e.val
  let s0 := s.judgeXfers n
  let k := s0.cfl n
  .next (match k.nextXfer 5, k.cur with
    | some x, some c =>
      let y := (s0.takeXfer n x).cflFetch n c.desc.ctx x.loc x.len m
      match y.2.1 with
      | .error r => (y.1.recordXlate r 2 c.desc.ctx n x.loc).collFail n 9 4 r
      | .ok bs =>
        let k1 := y.1.cfl n
        let ps := pieces x.remote x.len
        let t := y.1.setCfl n { k1 with
          nextId := k1.nextId + 1, fly := k1.fly ++ [{ id := k1.nextId, x := x, left := ps.map fun p => (p.2.2, p.2.1) }] }
        ((ps.foldl (fun (z : State × MemUse) p =>
          if (z.1.cfl n).fly.any fun g => g.id == k1.nextId then z.1.putPiece n k1.nextId c x bs p z.2 else z)
          (t, y.2.2)).1).flightEnd n k1.nextId
    | _, _ => s0)

/-! ### FINISH (R326, R328, R330) -/

/-- The contributions of a slot, in participant order. -/
def contributions (hs : List Held) (n : Nat) : List (List OutByte) :=
  ((List.range n).map fun p =>
    ((hs.filter fun h => h.peer == p).mergeSort fun a b => decide (a.off ≤ b.off)).flatMap Held.data).filter fun l => !l.isEmpty

/-- The conversion that a collective names. -/
def Coll.conv (c : Coll) (free : Nat) : ConvJob :=
  let w := c.desc.words
  { fmt := if c.cold then .bf16 else (Fmt.ofCode (cdFmt w)).getD .bf16, rnd := cdRnd w, out := c.out, cold := c.cold
    seed := c.seed, step := c.step, tensor := cdTensor w, elem := cdElem w, epi := c.epi, free := free }

/-- A conversion wrote a NaN or an infinity, or met a tile flag: kept for CHECK of the collective's slot (R365). -/
def State.convFlags (s : State) (j : Option Nat) (f : TFlags) : State :=
  match j with
  | none => s
  | some j =>
    if f.nan || f.inf then s.setSlot j { s.slot j with nonfin := true } else s

/-- Fold the statistics of a conversion (R69, R133, R134); a cold op counts once, however many segments it finishes (R72). -/
def State.convFold (s : State) (c : Coll) (t : Tallied) (ts : List RawTile) : State :=
  let s1 := if c.cold && !c.counted then s.addSat .scl 0x10C 1 else s
  let s2 := match c.out.entry, c.jslot with
    | some i, some j =>
      let u := if c.cold then s1.setScaleBit i j (2 + j) else s1
      if t.seen then u.foldAmax i j (fp32Up t.amax) else u
    | _, _ => s1
  let s3 := if epNrm c.epi then s2.foldNorm (epNrmIdx c.epi) c.jslot t.norm else s2
  if epNse c.epi then s3.foldNoise (epNseIdx c.epi) (epNseSlot c.epi) c.jslot (ts.foldl (fun f x => x.noise f) {}) else s3

/-- The shape of raw tiles whose headers are all poisoned: that of the engine's own source, else of a converted tile. -/
def State.likeHdr (s : State) (c : Coll) : ChainHdr :=
  (s.srcHdr (dcEngine c.desc.words) c.desc).getD { form := 3, rows := 64, cols := 32, count := 0, flags := 0, shift := 0, kblk := 0 }

/-- The result of a slot as bytes at an offset from the destination of its segment, with the state in which its
statistics are folded; none where exact and FP32 tiles mix. The transfer names the combination (R329); its fields stand in word 0
as those of a collective do. -/
def State.slotResult (s : State) (c : Coll) (x : Xfer) (cs : List (List OutByte)) : Option (State × Nat × List OutByte) :=
  let w := c.desc.words
  let v := x.desc.words
  match cdDtype v with
  | 1 =>
    let like := match cs.find? fun l => !(hdrBad l) with | some l => hdrOf l | none => s.likeHdr c
    match cs.mapM fun l => rawTiles like (l.length / 64 + 1) l with
    | none => none
    | some tss =>
      let n := (tss.map List.length).foldl max 0
      let cols := (List.range n).map fun i => tss.filterMap fun ts => ts[i]?
      let same := cols.all fun l => match l with
        | [] => true
        | a :: r => r.all (rawMatch a)
      if !same then none
      else
        let res := cols.filterMap (rankFold (cdTree w) (rawCombine c.out.nonsat))
        if !(cdRaw w) then
          if res.any fun t => !(t.hdr.rows == 64 && t.hdr.cols == 32) then none
          else
            let j := c.conv s.free
            let t0 := if c.unit = 0 then 0 else (x.loc + 2 ^ 43 - cdDst w) % 2 ^ 43 / c.unit
            let size := j.fmt.bytes
            let dst := cdDst w
            let els := ((List.range res.length).zip res).map fun p =>
              (List.range 2048).map (j.element (dst + (t0 + p.1) * 2048 * size) (t0 + p.1) p.2)
            let tl := j.tally els.flatten
            let fl := res.foldl (fun (f : TFlags) t => f.orCode t.hdr.flags) tl.flags
            let cl := res.any fun t => t.hdr.form != 3 && t.ents.any fun e => e.1.cls != 0
            let s1 := ((s.convFold c tl res).convFlags c.jslot { fl with inf := fl.inf || cl }).fresh
            some (s1, dst + t0 * 2048 * size, elBytes size els.flatten)
        else
          let any := res.any fun t => t.ents.any fun e => e.1.cls != 0
          some (if any then s.fresh else s, x.loc, ((List.range res.length).zip res).flatMap fun p => p.2.bytes s.free p.1)
  | dt =>
    let n := cdElemBytes v
    let op := ropApply fmax32 fmin32 (cdRop v) (8 * n)
    if dt = 0 then (cs.head?).map fun l => (s, x.loc, l)
    else (rankFold (cdTree w) (combineElems op n) cs).map fun l => (s, x.loc, l)

/-- The conversion of a collective's output has counted. -/
def State.convCounted (s : State) (e : Nat) (c : Coll) : State :=
  if c.cold then s.setCfl e { s.cfl e with cur := (s.cfl e).cur.map fun k => { k with counted := true } } else s

/-- FINISH (R326, R329, R330): the slot's result is written; an owner of an ALLREDUCE segment tells its peers. -/
def execFinish (e : Fin 8) (m : MemUse) (s : State) : Host.Outcome State Fault Refusal :=
  let n := e.val
  let s0 := s.judgeXfers n
  let k := s0.cfl n
  .next (match k.nextXfer 4, k.cur with
    | some x, some c =>
      let cs := contributions (Table.get (fun _ => []) k.slots x.key) c.parts.length
      let t := s0.takeXfer n x
      let t := t.setCfl n { t.cfl n with slots := Table.set (fun _ => []) k.slots x.key [] }
      let t := t.event (.cfl n) 0x04 (if c.unit = 0 then 1 else ceilDiv x.len c.unit)
      match t.slotResult c x cs with
      | none => t.collFail n 5 4 6
      | some (u, a, bs) =>
        let u := if cdDtype x.desc.words = 1 && !(cdRaw c.desc.words) then u.convCounted n c else u
        let y := u.cflWrite n c.desc.ctx (a % 2 ^ 43) x.hint bs m
        let v := y.1
        if y.2.1 ≠ 0 then (v.recordXlate y.2.1 2 c.desc.ctx n (a % 2 ^ 43)).collFail n 9 4 y.2.1
        else if !x.stock then v.opTally (wfld x.desc.words 1 31 20) x.desc.ctx
        else if cdKind c.desc.words ≠ 1 then v
        else
          let kv := v.cfl n
          v.setCfl n { kv with xq := kv.xq ++ c.peers.map fun p =>
            { desc := c.desc, stock := true, kind := 3, peer := p
              note := some { coll := cdId c.desc.words, peer := c.me, done := true, first := (x.loc + 2 ^ 43 - cdDst c.desc.words) % 2 ^ 43
                             count := bs.length } } }
    | _, _ => s0)

/-! ### RING (R335) -/

/-- RING_ROUND (R335): the next round begins once the predecessor holds its block and `RTALLY` releases the buffer. -/
def execRingRound (e : Fin 8) (s : State) : Host.Outcome State Fault Refusal :=
  let n := e.val
  let k := s.cfl n
  .next (match k.cur with
    | none => s
    | some c =>
      let w := c.desc.words
      let np := c.parts.length
      let r := c.round + 1
      let pred := (c.me + np - 1) % np
      let free := decide (r < 3) || tallyReached (s.tally (cdRtally w)) (w32 (r - 2))
      if !c.stock || cdKind w != 7 || cdRoot w < r || !free || !(k.fly.isEmpty) || (k.xq.any fun x => x.kind == 1) ||
          !(c.gateOpen pred (.ready (r - 1) 1)) then s
      else
        let src := if r = 1 then cdSrc w else cdDst w + (r - 1) % 2 * cdLen w
        let len := (c.part ((c.me + np * r - r) % np)).segLen
        s.setCfl n { k with xq := k.xq ++ [c.pull 1 0 pred src (cdDst w + r % 2 * cdLen w) len .none] })

/-! ### Completion and timeout (R331, R333, R349) -/

/-- When participant `p` made chunk `i` ready. -/
def Coll.readyAt (c : Coll) (p i : Nat) : W64 :=
  if p = c.me then c.since
  else match (c.from p false).find? fun m => decide (m.first ≤ i) && decide (i < m.first + m.count) with
    | some m => m.at_
    | none => c.since

/-- The participant that was ready last for a chunk, and the counts since all others were. -/
def Coll.lastFor (c : Coll) (i : Nat) : Nat × W64 × W64 :=
  let ts := (List.range c.parts.length).map fun p => (p, c.readyAt p i - c.since)
  let m := ts.foldl (fun a b => if a.2 < b.2 then b else a) (ts.headD (0, 0))
  let snd := (ts.filter fun t => t.1 != m.1).foldl (fun a b => if a < b.2 then b.2 else a) 0
  (m.1, snd, m.2)

/-- Counts covered by some of the intervals, which are sorted by their beginnings. -/
def coverLen : List (W64 × W64) → W64 → Nat
  | [], _ => 0
  | p :: l, upTo =>
    let lo := if p.1 < upTo then upTo else p.1
    if lo < p.2 then (p.2 - lo).toNat + coverLen l p.2 else coverLen l upTo

/-- The chunks that this participant combined. -/
def Coll.ownChunks (c : Coll) : List Nat :=
  let segs := if cdKind c.desc.words = 10 then c.parts else [c.part c.me]
  let u := if c.unit = 0 then 2048 else c.unit
  segs.flatMap fun p => if p.segLen = 0 then []
    else (List.range (ceilDiv (p.segOff + p.segLen) u - p.segOff / u)).map fun i => p.segOff / u + i

/-- The imbalance registers of a completed combining collective (R343, R349). -/
def State.collStats (s : State) (e : Nat) (c : Coll) : State :=
  let ls := c.ownChunks.map c.lastFor
  if !(cdCombines c.desc.words) || ls.isEmpty then s
  else
    let best := (List.range c.parts.length).foldl (fun (b : Nat × Nat) p =>
      let n := ls.countP fun x => x.1 == p
      if b.2 < n then (p, n) else b) (0, 0)
    let wait := coverLen ((ls.map fun x => (x.2.1, x.2.2)).mergeSort fun a b => decide (a.1 ≤ b.1)) 0
    ((s.setReg (.cfl e) 0x110 (w32 (2 ^ 31 + best.1))).setReg (.cfl e) 0x114 (w32 (min wait 0xFFFFFFFF))).event
      (.cfl e) 0x08 wait

/-- The collective program has nothing left to do: every transfer is done; BARRIER has heard from every participant,
ALLTOALL has placed every source, RING has done its rounds. -/
def Cfl.collDone (k : Cfl) (c : Coll) : Bool :=
  !(k.xq.any Xfer.stock) && !(k.fly.any fun f => f.x.stock) && k.arr.isEmpty &&
  (match cdKind c.desc.words with
    | 11 => c.peers.all fun p => !(c.from p false).isEmpty
    | 5 => decide (c.parts.length ≤ c.nextSrc)
    | 7 => decide (cdRoot c.desc.words ≤ c.round)
    | _ => true)

/-- COLLECTIVE_COMPLETE (R331): this participant's part is complete; the tally increments, but for RING, whose rounds
have incremented it. -/
def execCollectiveComplete (e : Fin 8) (s : State) : Host.Outcome State Fault Refusal :=
  let n := e.val
  let k := s.cfl n
  .next (match k.cur with
    | none => s
    | some c =>
      if !c.stock || !(k.collDone c) then s
      else
        let t := ((s.setCfl n { k with cur := none, slots := [] }).collStats n c).event (.cfl n) 0x02 1
        match c.ws with
        | some j => (t.roundOver j true []).wsStart n
        | none => (if cdKind c.desc.words = 7 then t else t.opTally (cdTally c.desc.words) c.desc.ctx).wsStart n)

/-- The limit of a collective in reference counts. -/
def State.collLimit (s : State) (e : Nat) (c : Coll) : Nat :=
  (if wordAt c.desc.words 14 = 0 then s.field (.cfl e) 0x100 31 16 else (wordAt c.desc.words 14).toNat) * 1024

/-- COLLECTIVE_TIMEOUT (R333): not complete within its limit; a limit of 0 ends at once. -/
def execCollectiveTimeout (e : Fin 8) (s : State) : Host.Outcome State Fault Refusal :=
  let n := e.val
  .next (match (s.cfl n).cur with
    | none => s
    | some c =>
      if !c.stock || c.ws.isSome then s
      else (s.advance c.since (s.collLimit n c)).collFail n 8 1 6)

/-! ### The Expert Table (R337, R338) -/

/-- EXPERT_TABLE_WRITE (R337): ignored while a step is open. -/
def execExpertTableWrite (off : BitVec 16) (wide : Bool) (value : W64) (s : State) : Host.Outcome State Fault Refusal :=
  .next (if s.ready && s.stepOpen then s.event (.cfl 0) 0x0A 1
    else s.tableWrite expertOff 0x40 off.toNat expertMask wide value)

/-- The Expert Table at the COMMIT of journal slot `j` (R338): every valid entry takes its tokens. -/
def State.expertCommit (s : State) (j : Nat) : State × Bool :=
  if !s.windowOk then (s, false) else
  (List.range 1024).foldl (fun (a : State × Bool) x =>
    let o := expertOff + 64 * x
    let t := a.1
    if t.winPoison o then (t, true)
    else if !(bitOf (t.winWord o) 31) then a
    else
      let n := t.winWord (o + 8 + 4 * j)
      let cap := t.winWord (o + 4)
      let past := if cap = 0 ∨ n ≤ cap then 0 else n - cap
      let mx := t.winWord (o + 0x18)
      (((((t.setWinWord (o + 0x10) n).setWinWord (o + 0x14) past).setWinWord (o + 0x18) (if mx < n then n else mx)).setWinWord
        (o + 8 + 4 * j) 0), a.2)) (s, false)

end Sys2Proof.Machine
end

