-- ==== Sys2Proof/Machine/Digest.lean ====
section
/-! DEFINITION. The digest engine (R465, R466, R470). -/
namespace Sys2Proof.Machine

/-- Entry `i` of the digest list, as words; none where the list cannot be read. -/
def State.digEntry (s : State) (i : Nat) : Option (List W32) :=
  match s.ownRead (((s.reg64 .chkG 0x114).toNat % 2 ^ 43 + 64 * i) % 2 ^ 43) 64 with
  | none => none
  | some bs => if bs.any Prod.snd then none else some (leWords (bs.map Prod.fst) 16)

/-- The runs of the list: address and pages. -/
def State.digRuns (s : State) : Nat → Nat → List (Nat × Nat)
  | 0, _ => []
  | n + 1, i =>
    match s.digEntry i with
    | none => []
    | some w => if wfld w 3 0 0 = 0 then [] else (wquad w 0 43, (wordAt w 2).toNat) :: s.digRuns n (i + 1)

/-- The bytes that the manual calls unpredictable, or does not state. -/
def State.freeDigest (s : State) (i : Nat) : List Byte := (List.range 32).map fun b => Config.freeByte s.free (32 * i + b)

/-- The digests of the runs, up to a poisoned page: a run that breaks R465 has a digest that the manual does not state. -/
def State.digests (s : State) : List (Nat × Nat) → Nat → List (List Byte) × Bool
  | [], _ => ([], false)
  | r :: rs, i =>
    match s.ownRead r.1 (r.2 * 2 ^ 21) with
    | none => let x := s.digests rs (i + 1); (s.freeDigest i :: x.1, x.2)
    | some bs =>
      if bs.any Prod.snd then ([s.freeDigest i], true)
      else let x := s.digests rs (i + 1); (sha256 (bs.map Prod.fst) :: x.1, x.2)

/-- The engine starts: its pages are digested as they stand, since a write to a pending page waits (R466). -/
def State.digStart (s : State) (step : W32) : State :=
  if s.dig.isSome then s
  else
    let runs := s.digRuns 64 0
    let x := s.digests runs 0
    let t := runs.foldl (fun t r => t.ownFault 2 r.1 (r.2 * 2 ^ 21))
      (if runs.length < 64 then s.ownFault 2 (((s.reg64 .chkG 0x114).toNat % 2 ^ 43 + 64 * runs.length) % 2 ^ 43) 64 else s)
    ({ t with dig := some { step := step, digests := x.1, poison := x.2 } }.setReg .chkG 0x120 0x80000000#32).fresh

/-- A COMMIT_END whose step is a multiple of `INTERVAL` starts the engine (R465). -/
def State.digAtCommit (s : State) (step : W32) : State :=
  let n := s.field .chkG 0x110 15 0
  if n = 0 ∨ step.toNat % n ≠ 0 then s else s.digStart step

/-- DIGEST_ENGINE_START (R465, R470): a write of `DIG_CTL`; `GO` is ignored while the engine runs. -/
def execDigestEngineStart (value : W32) (s : State) : Host.Outcome State Fault Refusal :=
  .next (if !s.ready || !(bitOf value 0) then s else s.digStart (s.reg .step 0x10C))

/-- Write a digest into entry `i` of the list: 32 bytes, big-endian, at words 8 to 15. -/
def State.digWrite (s : State) (i : Nat) (bs : List Byte) : State :=
  match s.ownKey (((s.reg64 .chkG 0x114).toNat % 2 ^ 43 + 64 * i + 32) % 2 ^ 43) with
  | none => s
  | some k => s.putLocal k (clean bs)

/-- DIGEST_ENGINE_DONE (R465): the digests stand in the list; `DONE` sets, and the tally increments. -/
def execDigestEngineDone (s : State) : Host.Outcome State Fault Refusal :=
  .next (match s.dig with
    | none => s
    | some d =>
      let n := d.digests.length
      let runs := s.digRuns n 0
      let t := ((List.range n).zip d.digests).foldl (fun t p => t.digWrite p.1 p.2) { s with dig := none }
      let t := t.event .chkG 0x06 ((runs.map fun r => r.2 * 2 ^ 15).sum)
      let t := (t.setReg .chkG 0x120 (w32 ((if d.poison then 2 ^ 29 else 2 ^ 30) + n))).setReg .chkG 0x128 d.step
      if d.poison then t.setErr .chkG 2 else t.addTally (s.field .chkG 0x110 31 20) 1)

end Sys2Proof.Machine
end

