-- ==== Sys2Proof/Machine/Mirror.lean ====
section
/-! DEFINITION. Oxbow (R375 to R380, R383, R401, R402, R407): the mirror pages, INIT, sending and confirming pages, CLOSED,
copy-before-write, REMIRROR, the partner registers. -/
namespace Sys2Proof.Machine

/-! ### The mirror pages (R376, R383) -/

/-- The most mirror pages. -/
def mirrorMax : Nat := 327680

/-- The extents of the table, as addresses and page counts. -/
def State.mirrorExtents (s : State) : List (Nat × Nat × Bool) :=
  ((List.range 64).map fun i =>
    let w := leWords (s.winRead (metaOff + 16 * i) 16) 4
    (wquad w 0 64, (wordAt w 2).toNat, wordAt w 3 == 0 && !(s.winPoison (metaOff + 16 * i)))).takeWhile fun e => e.2.1 != 0

/-- The frames of 2 MiB of the mirror pages, in the order of m; none where the extent table is not valid. -/
def State.mirrorFrames (s : State) : Option (List Nat) :=
  let es := s.mirrorExtents
  let bad := es.any fun e => !e.2.2 || e.1 % 2 ^ 21 != 0 || decide (2 ^ 43 < e.1 + e.2.1 * 2 ^ 21)
  if !s.windowOk || s.winPoison metaOff || bad || decide (mirrorMax < (es.map fun e => e.2.1).sum) then none
  else (es.flatMap fun e => (List.range e.2.1).map fun i => e.1 + i * 2 ^ 21).mapM fun a => (s.ownKey a).map (· / 2 ^ 21)

/-- The window offset of the local tag of page m (R383). -/
def tagOff (m : Nat) : Nat := 0x1100000 + 8 * m

/-- Write the local tag of page m. -/
def State.setTag (s : State) (m : Nat) (pending sending : Bool) (step : W32) : State :=
  if !s.windowOk then s
  else s.winWrite (tagOff m) (leBytes 8 (pending.toNat * 2 ^ 63 + sending.toNat * 2 ^ 62 + step.toNat))

/-- Mark page m PENDING or SENDING; its confirmed step stays. -/
def State.markTag (s : State) (m : Nat) (sending : Bool) : State := s.setTag m true sending (s.winWord (tagOff m))

/-- Give the unpredictable granules of a frame their bytes. -/
def State.settleFrame (s : State) (f : Nat) : State :=
  (((List.range 32768).map fun i => f * 32768 + i).filter s.granFree).foldl State.settle s

/-- The contents of the frame of page m, to be sent for a step. -/
def State.pageNow (s : State) (m f : Nat) (step : W32) : PendPage :=
  { m := m, step := step, cells := s.mem.hbm.filter fun e => e.1 / 2 ^ 21 == f
    draws := s.mem.draws.filter fun e => e.1 / 2 ^ 15 == f, bad := s.mem.poison.filter fun g => g / 2 ^ 15 == f }

/-- Put a page into the PENDING list, in ascending m; a page stands there once. -/
def pendAdd (p : PendPage) : List PendPage → List PendPage
  | [] => [p]
  | q :: l => if p.m < q.m then p :: q :: l else if p.m = q.m then p :: l else q :: pendAdd p l

/-- Page m becomes PENDING for a step. -/
def State.pendPage (s : State) (step : W32) (m : Nat) : State :=
  match s.oxb.frames[m]? with
  | none => s
  | some f =>
    let t := s.settleFrame f
    ({ t with oxb := { t.oxb with pend := pendAdd (t.pageNow m f step) t.oxb.pend } }).markTag m false

/-! ### Closing -/

/-- The slot of a step in MIRROR whose pages are all confirmed is CLOSED; while a REMIRROR runs, only with every page. -/
def State.mirrorClose (s : State) : State :=
  (List.range 2).foldl (fun t j =>
    if (t.slot j).st == .mirror && !t.oxb.remirror && !(t.oxb.pend.any fun p => p.step == (t.slot j).step) then t.closeSlot j
    else t) s

/-- Nothing is PENDING: an INIT is done, a REMIRROR is over (R379, R401). -/
def State.mirrorEnd (s : State) : State :=
  if !s.oxb.pend.isEmpty then s.mirrorClose
  else
    let t := if s.oxb.initRun then s.setFlag .oxb 0x144 31 true else s
    { t with oxb := { t.oxb with initRun := false, remirror := false, promoted := [] } }.mirrorClose

/-- A page whose copy is confirmed at every way (R377). -/
def State.pageDone (s : State) (m : Nat) (step : W32) : State :=
  ({ s with oxb := { s.oxb with
      pend := s.oxb.pend.filter fun p => p.m != m, sending := none
      promoted := s.oxb.promoted.filter fun p => p != m } }).setTag m false false step

/-- Every page becomes PENDING for `LAST_DONE`, or with `EN` at 0 is confirmed at once (R379, R401, R402). -/
def State.mirrorAll (s : State) : State :=
  let step := s.reg .step 0x10C
  let ms := List.range s.oxb.frames.length
  let t := { s with oxb := { s.oxb with pend := [], sending := none, promoted := [], stopped := false } }
  let t := if s.mirrorOn then ms.foldl (fun t m => t.pendPage step m) t else ms.foldl (fun t m => t.setTag m false false step) t
  t.fresh.mirrorEnd

/-- The page in flight stops. -/
def State.mirrorHalt (s : State) : State :=
  s.unask fun a => match a.kind with
    | .page _ | .tag _ | .remirror => true
    | _ => false

/-- Mirroring stops: a write failed after its repeats, or the page holds poison (R377, R407). -/
def State.mirrorFail (s : State) : State :=
  let t := match s.oxb.sending with
    | some m => s.markTag m false
    | none => s
  ({ t.mirrorHalt with oxb := { t.oxb with sending := none, stopped := true } }).setErr .oxb 0

/-- At COMMIT_END the marked pages become PENDING for the step (R377); with `EN` at 0 they are confirmed at once. -/
def State.mirrorCommit (s : State) (step : W32) : State :=
  let ms := (List.range s.oxb.frames.length).filter fun m => match s.oxb.frames[m]? with
    | some f => s.mem.marked.has f
    | none => false
  let t := { s with mem := { s.mem with marking := false, marked := [] } }
  (if s.mirrorOn then ms.foldl (fun t m => t.pendPage step m) t else ms.foldl (fun t m => t.setTag m false false step) t).fresh

/-- A marked page is still PENDING for an earlier step, or SENDING: the write that marked it waits for its copy (R378). -/
def State.mirrorWait (s : State) : Bool :=
  s.oxb.pend.any fun p => match s.oxb.frames[p.m]? with
    | some f => s.mem.marked.has f
    | none => false

/-! ### Sending (R377) -/

/-- `DST[w]`. -/
def State.mirrorDst (s : State) (w : Nat) : Nat := (s.reg64 .oxb (0x114 + 8 * w)).toNat % 2 ^ 43

/-- The tag of page m goes to every way (R376). -/
def State.sendTag (s : State) (m : Nat) : State :=
  match s.oxb.pend.find? fun p => p.m == m with
  | none => s
  | some p =>
    let a := fun w => s.mirrorDst w + s.oxb.frames.length * 2 ^ 21 + 8 * m
    let v := if s.oxb.loose then (List.range 8).map fun i => Config.freeByte s.free i else leBytes 8 (2 ^ 63 + p.step.toNat)
    match (if s.oxb.loose then s.fresh else s).putWays 0 (.tag m) 0 a (clean v) with
    | some t => t
    | none => s.mirrorFail

/-- The bytes of page `p`, in frame `f`, as they were when it became PENDING: where nothing had been written, what the last loss of
the granule's contents, or the fill, left there. They are unpredictable while the mirror is (R383). -/
def State.pageBytes (s : State) (p : PendPage) (f : Nat) : List OutByte :=
  (List.range (2 ^ 21)).map fun i =>
    let k := f * 2 ^ 21 + i
    let d := match Table.get (fun _ => 0) p.draws (k / 64) with
      | 0 => Table.get (fun _ => 0) s.mem.fill (k / 2 ^ 37)
      | n + 1 => n
    (if s.oxb.loose then Config.freeByte s.free i else (Table.find k p.cells).getD (Config.freeByte d k), false)

/-- MIRROR_PAGE_SEND (R377, R407): the next PENDING page, promoted ones first, goes to every way; one is sent at a time. -/
def execMirrorPageSend (s : State) : Host.Outcome State Fault Refusal :=
  let o := s.oxb
  let next := match o.promoted.findSome? fun m => o.pend.find? fun p => p.m == m with
    | some p => some p
    | none => o.pend.head?
  .next (match next with
    | none => s
    | some p =>
      if o.sending.isSome || o.stopped || !s.mirrorOn then s
      else
        let f := o.frames.getD p.m 0
        let t := { s with oxb := { o with sending := some p.m } }.markTag p.m true
        if !p.bad.isEmpty || s.mem.poison.any fun g => g / 2 ^ 15 == f then t.mirrorFail
        else match t.putWays 0 (.page p.m) 0 (fun w => s.mirrorDst w + p.m * 2 ^ 21) (s.pageBytes p f) with
          | some u => if o.loose then u.fresh else u
          | none => t.mirrorFail)

/-- MIRROR_PAGE_CONFIRM (R377): the writes of the page and of its tag are confirmed; the last page closes the slot. -/
def execMirrorPageConfirm (s : State) : Host.Outcome State Fault Refusal :=
  .next (match s.oxb.sending with
    | none => s
    | some m =>
      let busy := s.stepm.asks.any fun a => a.kind == .page m || a.kind == .tag m
      match s.oxb.pend.find? fun p => p.m == m with
      | none => s
      | some p => if busy then s else ((s.pageDone m p.step).event .oxb 0x02 1).mirrorEnd)

/-- COPY_BEFORE_WRITE_STALL (R378): a write met page m while it is PENDING for an earlier step or SENDING, and waited for
`counts`; the page is promoted. -/
def execCopyBeforeWriteStall (m : BitVec 19) (counts : W32) (s : State) : Host.Outcome State Fault Refusal :=
  let n := m.toNat
  .next (if !(s.oxb.pend.any fun p => p.m == n) then s
    else
      let t := ((s.addSat .oxb 0x14C 1).addSat .oxb 0x150 counts.toNat).event .oxb 0x03 1
      if s.oxb.sending == some n || s.oxb.promoted.contains n then t
      else (({ t with oxb := { t.oxb with promoted := t.oxb.promoted ++ [n] } }).addSat .oxb 0x154 1).event .oxb 0x04 1)

/-- MIRROR_INIT (R379, R402): a write of `MIR_CTL` with `INIT` at 1. -/
def execMirrorInit (value : W32) (s : State) : Host.Outcome State Fault Refusal :=
  .next (if !s.ready || !(bitOf value 0) then s
    else match s.mirrorFrames with
      | none => s.setErr .oxb 2
      | some fs =>
        if s.stepOpen then s.setErr .oxb 2
        else
          let t := (s.mirrorHalt.setFlag .oxb 0x144 31 false).setReg .oxb 0x148 (w32 fs.length)
          { t with oxb := { t.oxb with frames := fs, initRun := true, loose := false } }.mirrorAll)

/-- The occupied bytes of a journal slot. -/
def State.journalUsed (s : State) (k : StepSlot) : Nat := (mbOffsets k.toks s.tokBytes).2

/-- Copy journal slot `j` to the partner of every way; none where it cannot be read or a partner is not valid. -/
def State.journalSend (s : State) (j : Nat) (kind : AskKind) : Option State :=
  let k := s.slot j
  match s.stepRead k.ctx (s.journalAt j) (s.journalUsed k) with
  | .error _ => none
  | .ok bs => s.putWays j kind k.ctx (s.journalCopy j) bs

/-- Write zero to the seal word of slot `j` at way 1 (R369). -/
def State.sealZero (s : State) (j : Nat) (kind : AskKind) : Option State :=
  s.putTo j kind (s.slot j).ctx 0 (s.sealWord j) (clean (leBytes 8 0))

/-- REMIRROR (R401): a write of `OXB.CTL` with `REMIRROR` at 1. -/
def execRemirror (value : W32) (s : State) : Host.Outcome State Fault Refusal :=
  .next (if !s.ready then s
    else
      let s0 := (s.storeBits .oxb 0x008 value).irqUpdate .oxb
      if !(bitOf value 31) then s0
      else if s0.stepm.s0.st == .commit || s0.stepm.s1.st == .commit || s0.oxb.initRun then s0.setErr .oxb 2
      else
        let t := { s0.mirrorHalt with oxb := { s0.oxb with sending := none, stopped := false, remirror := true } }
        let live := (List.range 2).filter fun j => (t.slot j).st != .free
        let fits := (List.range 2).filter fun j => (t.slot j).abortable
        let u := if !t.mirrorOn then some t
          else fits.foldl (fun o j => o.bind fun x => x.sealZero j .remirror)
            (live.foldl (fun o j => o.bind fun x => x.journalSend j .remirror) (some t))
        match u with
        | none => t.mirrorAll.mirrorFail
        | some x => x.mirrorAll)

/-- PARTNER_WRITE (R375, R388): `PARTNER0`, `PARTNER1`, `PRED0`, `PRED1`; a partner of another group is not taken. -/
def execPartnerWrite (i : Fin 4) (value : W32) (s : State) : Host.Outcome State Fault Refusal :=
  .next (if !s.ready || s.pageSealed .oxb then s
    else if i.val < 2 ∧ bitOf value 31 ∧ fld value 29 21 ≠ s.myGroup then s.setErr .oxb 2
    else s.storeBits .oxb (0x104 + 4 * i.val) value)

end Sys2Proof.Machine
end

