-- ==== Sys2Proof/Machine/Rill.lean ====
section
/-! DEFINITION. Rill: fetching and retiring an instruction (R217, R219, R222), exceptions (R232 to R234), and every
instruction of R220. -/
namespace Sys2Proof.Machine

/-! ### Registers and fields -/

/-- Register `i`: g0 reads as zero (R215). -/
def Core.reg (k : Core) (i : Nat) : W64 := if i = 0 then 0 else Table.get (fun _ => 0) k.g i

/-- Write register `i`: writes to g0 are discarded (R215). -/
def Core.setReg (k : Core) (i : Nat) (v : W64) : Core := if i = 0 then k else { k with g := Table.set (fun _ => 0) k.g i v }

/-- Fields of an instruction word (R219). -/
def rG (w : W32) : Bool := bitOf w 31
def rN (w : W32) : Bool := bitOf w 30
def rP (w : W32) : Nat := fld w 29 28
def rOp (w : W32) : Nat := fld w 27 22
def rD (w : W32) : Nat := fld w 21 18
def rA (w : W32) : Nat := fld w 17 14
def rB (w : W32) : Nat := fld w 13 10
def rLow (w : W32) : Nat := fld w 9 0
def rImm (w : W32) : Nat := fld w 13 0

/-- The sign-extended immediates. -/
def rSx14 (w : W32) : W64 := (w.extractLsb' 0 14).signExtend 64
def rSx18 (w : W32) : W64 := (w.extractLsb' 0 18).signExtend 64
def rOff (w : W32) : Int := signedOf 22 w.toNat

/-- The effective address (R220). -/
def Core.ea (k : Core) (w : W32) : W64 := k.reg (rA w) + rSx14 w

/-! ### Exceptions (R232 to R234) -/

/-- Counting of running time stops when a wait begins, and goes on when it ends (R231). -/
def Core.beginWait (k : Core) (now : W64) (st : CoreSt) : Core := { k with st := st, ran := now - k.since, since := now }
def Core.endWait (k : Core) (now : W64) : Core :=
  { k with st := .running, since := now - k.ran, ran := 0, waitTally := none, released := false, heldDesc := none }

/-- The wait that an exception abandons ends (R234). -/
def Core.leaveWait (k : Core) (now : W64) : Core := if k.st = .waiting ∨ k.st = .idle then k.endWait now else k

/-- The core enters FAULTED with `CAUSE` and `EPC` recorded (R234), and the errors `errs` set. -/
def State.enterFaulted (s : State) (c : Nat) (cause : W64) (epc : BitVec 14) (errs : W32) : State :=
  ((s.event (.ril c) 0x06 1).setCore c { (s.core c).leaveWait s.refcnt with cause := cause, epc := epc, st := .faulted }).detect
    (.ril c) errs

/-- An exception is taken: `epc` is what `EPC` records. It traps, or the core enters FAULTED (R234). -/
def State.takeExc (s : State) (c : Nat) (cause : W64) (epc : BitVec 14) : State :=
  let k := s.core c
  let t := s.reg (.ril c) 0x110
  if bitOf t 31 && !k.inTrap then
    (s.event (.ril c) 0x06 1).setCore c { k.leaveWait s.refcnt with
      cause := cause, epc := epc, inTrap := true, st := .running, pc := BitVec.ofNat 14 (fld t 13 0) }
  else s.enterFaulted c cause epc 1

/-- A synchronous exception of the instruction at the PC (R232). -/
def State.syncExc (s : State) (c code addr : Nat) : State :=
  let k := s.core c
  s.takeExc c (causeWord addr 0 0 k.ctx code) k.pc

/-- The progress counter increments (R231). -/
def Core.progress (k : Core) (now : W64) : Core := { k with prog := k.prog + 1, since := now }

/-! ### Fetch and retire -/

/-- What an instruction does: an exception; an effect and the next instruction; an effect and a jump; an effect at which
the core stays (a wait, `HALT`). -/
inductive Act where
  | exc (code addr : Nat)
  | next (s : State)
  | jump (target : Int) (s : State)
  | wait (s : State)
  | halt (s : State)

/-- The core goes to instruction `target`; a target outside program memory raises exception 0x02 at the instruction, which
has no other effect (R222). `s` is the state before the instruction, `t` the state with its effect. -/
def State.goPc (s : State) (c : Nat) (target : Int) (t : State) : State :=
  if target < 0 ∨ 16384 ≤ target then s.syncExc c 0x02 0
  else (t.setCore c { t.core c with pc := BitVec.ofNat 14 target.toNat }).event (.ril c) 0x02 1

/-- Retire an instruction. -/
def State.retire (s : State) (c : Nat) (a : Act) : State :=
  let pc : Int := ((s.core c).pc.toNat : Int)
  match a with
  | .exc code addr => s.syncExc c code addr
  | .next t => s.goPc c (pc + 1) t
  | .jump x t => s.goPc c x t
  | .wait t => if pc = 16383 then s.syncExc c 0x02 0 else t
  | .halt t => t.event (.ril c) 0x02 1

/-- The core may perform an instruction: it is running, and no asynchronous exception has to be taken first (R234). -/
def Core.steps (k : Core) : Bool := k.st == .running && k.undisturbed

/-- One instruction of core `c`: the word at the PC is fetched with the outcome `e` of its check bits (R217); where its
opcode is one of `ops`, it is performed as `f` says. -/
def State.rill (s : State) (c : Nat) (e : Ecc) (ops : List Nat) (f : State → Core → W32 → Act) : State :=
  let k := s.core c
  let w := Table.get (fun _ => 0) k.imem k.pc.toNat
  if !k.steps then s
  else if e = .uncorrectable ∨ k.imemBad.has k.pc.toNat then
    ((s.setCore c { k with imemBad := NatSet.add k.pc.toNat k.imemBad }).setErr (.ril c) 3).syncExc c 0x06 0
  else if !(ops.contains (rOp w)) then s
  else
    let s := if e = .corrected then s.countErr (.ril c) else s
    if !(rG w) && (rN w || rP w != 0) then s.syncExc c 0x01 0
    else if rG w && (k.p.getLsbD (rP w) == rN w) then s.retire c (.next (s.event (.ril c) 0x08 1))
    else s.retire c (f s k w)

/-- An instruction that only writes a register. -/
def writeReg (s : State) (c : Nat) (k : Core) (d : Nat) (v : W64) : Act := .next (s.setCore c (k.setReg d v))

/-- Format R arithmetic (R219, R220): bits [9:0] are zero. -/
def aluR (c : Nat) (f : W64 → W64 → W64) (s : State) (k : Core) (w : W32) : Act :=
  if rLow w ≠ 0 then .exc 0x01 0 else writeReg s c k (rD w) (f (k.reg (rA w)) (k.reg (rB w)))

/-- Format I arithmetic with the immediate as `imm` gives it. -/
def aluI (c : Nat) (imm : W32 → W64) (f : W64 → W64 → W64) (s : State) (k : Core) (w : W32) : Act :=
  writeReg s c k (rD w) (f (k.reg (rA w)) (imm w))

/-- The zero-extended immediate. -/
def rZx14 (w : W32) : W64 := w64 (rImm w)

/-- Format I shifts: `IMM14`[13:6] is zero. -/
def shiftI (c : Nat) (f : W64 → Nat → W64) (s : State) (k : Core) (w : W32) : Act :=
  if fld w 13 6 ≠ 0 then .exc 0x01 0 else writeReg s c k (rD w) (f (k.reg (rA w)) (fld w 5 0))

/-- The shift amount g[B][5:0]. -/
def amt (b : W64) : Nat := b.toNat % 64

/-! ### Arithmetic -/

/-- NOP (R220), and the opcodes 0x0A to 0x0F and 0x1A to 0x1F, which raise exception 0x01. -/
def execNop (c : Fin 77) (e : Ecc) (s : State) : Host.Outcome State Fault Refusal :=
  .next (s.rill c.val e [0, 0xA, 0xB, 0xC, 0xD, 0xE, 0xF, 0x1A, 0x1B, 0x1C, 0x1D, 0x1E, 0x1F] fun s _ w =>
    if rOp w ≠ 0 ∨ fld w 21 0 ≠ 0 then .exc 0x01 0 else .next s)

/-- ADD (R220). -/
def execAddR (c : Fin 77) (e : Ecc) (s : State) : Host.Outcome State Fault Refusal :=
  .next (s.rill c.val e [0x01] (aluR c.val fun a b => a + b))

/-- SUB (R220). -/
def execSubR (c : Fin 77) (e : Ecc) (s : State) : Host.Outcome State Fault Refusal :=
  .next (s.rill c.val e [0x02] (aluR c.val fun a b => a - b))

/-- AND (R220). -/
def execAndR (c : Fin 77) (e : Ecc) (s : State) : Host.Outcome State Fault Refusal :=
  .next (s.rill c.val e [0x03] (aluR c.val fun a b => a &&& b))

/-- OR (R220). -/
def execOrR (c : Fin 77) (e : Ecc) (s : State) : Host.Outcome State Fault Refusal :=
  .next (s.rill c.val e [0x04] (aluR c.val fun a b => a ||| b))

/-- XOR (R220). -/
def execXorR (c : Fin 77) (e : Ecc) (s : State) : Host.Outcome State Fault Refusal :=
  .next (s.rill c.val e [0x05] (aluR c.val fun a b => a ^^^ b))

/-- SHL (R220). -/
def execShl (c : Fin 77) (e : Ecc) (s : State) : Host.Outcome State Fault Refusal :=
  .next (s.rill c.val e [0x06] (aluR c.val fun a b => a <<< amt b))

/-- SHR (R220). -/
def execShr (c : Fin 77) (e : Ecc) (s : State) : Host.Outcome State Fault Refusal :=
  .next (s.rill c.val e [0x07] (aluR c.val fun a b => a >>> amt b))

/-- SAR (R220). -/
def execSar (c : Fin 77) (e : Ecc) (s : State) : Host.Outcome State Fault Refusal :=
  .next (s.rill c.val e [0x08] (aluR c.val fun a b => a.sshiftRight (amt b)))

/-- MUL (R220). -/
def execMulR (c : Fin 77) (e : Ecc) (s : State) : Host.Outcome State Fault Refusal :=
  .next (s.rill c.val e [0x09] (aluR c.val fun a b => a * b))

/-- ADDI (R220). -/
def execAddi (c : Fin 77) (e : Ecc) (s : State) : Host.Outcome State Fault Refusal :=
  .next (s.rill c.val e [0x10] (aluI c.val rSx14 fun a b => a + b))

/-- ANDI (R220). -/
def execAndi (c : Fin 77) (e : Ecc) (s : State) : Host.Outcome State Fault Refusal :=
  .next (s.rill c.val e [0x11] (aluI c.val rZx14 fun a b => a &&& b))

/-- ORI (R220). -/
def execOri (c : Fin 77) (e : Ecc) (s : State) : Host.Outcome State Fault Refusal :=
  .next (s.rill c.val e [0x12] (aluI c.val rZx14 fun a b => a ||| b))

/-- XORI (R220). -/
def execXori (c : Fin 77) (e : Ecc) (s : State) : Host.Outcome State Fault Refusal :=
  .next (s.rill c.val e [0x13] (aluI c.val rZx14 fun a b => a ^^^ b))

/-- SHLI (R220). -/
def execShli (c : Fin 77) (e : Ecc) (s : State) : Host.Outcome State Fault Refusal :=
  .next (s.rill c.val e [0x14] (shiftI c.val fun a n => a <<< n))

/-- SHRI (R220). -/
def execShri (c : Fin 77) (e : Ecc) (s : State) : Host.Outcome State Fault Refusal :=
  .next (s.rill c.val e [0x15] (shiftI c.val fun a n => a >>> n))

/-- SARI (R220). -/
def execSari (c : Fin 77) (e : Ecc) (s : State) : Host.Outcome State Fault Refusal :=
  .next (s.rill c.val e [0x16] (shiftI c.val fun a n => a.sshiftRight n))

/-- LI (R220). -/
def execLi (c : Fin 77) (e : Ecc) (s : State) : Host.Outcome State Fault Refusal :=
  .next (s.rill c.val e [0x17] fun s k w => writeReg s c.val k (rD w) (rSx18 w))

/-- LIS (R220). -/
def execLis (c : Fin 77) (e : Ecc) (s : State) : Host.Outcome State Fault Refusal :=
  .next (s.rill c.val e [0x18] fun s k w => writeReg s c.val k (rD w) (k.reg (rD w) <<< 18 ||| w64 (fld w 17 0)))

/-! ### Compares (R221) -/

/-- The condition `cc` between two values. -/
def condHolds (cc : Nat) (a b : W64) : Bool :=
  match cc with
  | 0 => a == b
  | 1 => a != b
  | 2 => a.slt b
  | 3 => !(a.slt b)
  | 4 => a.ult b
  | 5 => !(a.ult b)
  | _ => (a &&& b) != 0

/-- Write a predicate. -/
def Core.setPred (k : Core) (i : Nat) (b : Bool) : Core :=
  { k with p := BitVec.ofNat 4 (setBit (w32 k.p.toNat) i b).toNat }

/-- CMP.cc (R220, R221): `D`[21:20] and bits [9:0] are zero; condition 7 raises exception 0x01. -/
def execCmp (c : Fin 77) (e : Ecc) (s : State) : Host.Outcome State Fault Refusal :=
  .next (s.rill c.val e [0x20, 0x21, 0x22, 0x23, 0x24, 0x25, 0x26, 0x27] fun s k w =>
    if rOp w = 0x27 ∨ fld w 21 20 ≠ 0 ∨ rLow w ≠ 0 then .exc 0x01 0
    else .next (s.setCore c.val (k.setPred (fld w 19 18) (condHolds (rOp w % 8) (k.reg (rA w)) (k.reg (rB w))))))

/-- CMPI.cc (R220, R221). -/
def execCmpi (c : Fin 77) (e : Ecc) (s : State) : Host.Outcome State Fault Refusal :=
  .next (s.rill c.val e [0x28, 0x29, 0x2A, 0x2B, 0x2C, 0x2D, 0x2E, 0x2F] fun s k w =>
    if rOp w = 0x2F ∨ fld w 21 20 ≠ 0 then .exc 0x01 0
    else .next (s.setCore c.val (k.setPred (fld w 19 18) (condHolds (rOp w % 8) (k.reg (rA w)) (rSx14 w)))))

/-! ### Control flow -/

/-- BR (R220, R222). -/
def execBr (c : Fin 77) (e : Ecc) (s : State) : Host.Outcome State Fault Refusal :=
  .next (s.rill c.val e [0x30] fun s k w => .jump (k.pc.toNat + rOff w) s)

/-- CALL (R220, R222): g15 = PC + 1. -/
def execCall (c : Fin 77) (e : Ecc) (s : State) : Host.Outcome State Fault Refusal :=
  .next (s.rill c.val e [0x31] fun s k w => .jump (k.pc.toNat + rOff w) (s.setCore c.val (k.setReg 15 (w64 (k.pc.toNat + 1)))))

/-- JR (R220, R222): the target is the whole of g[A], unsigned. -/
def execJr (c : Fin 77) (e : Ecc) (s : State) : Host.Outcome State Fault Refusal :=
  .next (s.rill c.val e [0x32] fun s k w =>
    if rD w ≠ 0 ∨ fld w 13 0 ≠ 0 then .exc 0x01 0 else .jump (k.reg (rA w)).toNat s)

/-- HALT (R220): `STATE.PC` names the next instruction (R239). -/
def execHalt (c : Fin 77) (e : Ecc) (s : State) : Host.Outcome State Fault Refusal :=
  .next (s.rill c.val e [0x33] fun s k w =>
    if rD w ≠ 0 ∨ rA w ≠ 0 then .exc 0x01 0
    else .halt (s.setCore c.val { k with st := .halted, haltCode := BitVec.ofNat 14 (rImm w), pc := k.pc + 1 }))

/-- RETT (R234): only inside the handler. -/
def execRett (c : Fin 77) (e : Ecc) (s : State) : Host.Outcome State Fault Refusal :=
  .next (s.rill c.val e [0x37] fun s k w =>
    if !k.inTrap || fld w 21 0 != 0 then .exc 0x01 0
    else .jump k.epc.toNat (s.setCore c.val { k with inTrap := false }))

/-! ### System values, progress (R224, R231) -/

/-- PROG (R231). -/
def execProg (c : Fin 77) (e : Ecc) (s : State) : Host.Outcome State Fault Refusal :=
  .next (s.rill c.val e [0x34] fun s k w =>
    if fld w 21 0 ≠ 0 then .exc 0x01 0 else .next (s.setCore c.val (k.progress s.refcnt)))

/-- The system value that `GETS` reads (R224). -/
def State.sysValue (s : State) (c : Nat) (k : Core) (sel : Nat) : Option W64 :=
  match sel with
  | 0 => some (w64 c)
  | 1 => some (w64 (coreKind c))
  | 2 => some (w64 k.ctx)
  | 3 => some (w64 (s.partOfCtx k.ctx))
  | 4 => some s.refcnt
  | 5 => some (w64 k.prog.toNat)
  | 6 => some (w64 k.epc.toNat)
  | 7 => some k.cause
  | 8 => some (w64 k.p.toNat)
  | _ => none

/-- GETS (R224). -/
def execGets (c : Fin 77) (e : Ecc) (s : State) : Host.Outcome State Fault Refusal :=
  .next (s.rill c.val e [0x35] fun s k w =>
    if rA w ≠ 0 then .exc 0x01 0
    else match s.sysValue c.val k (rImm w) with
      | some v => writeReg s c.val k (rD w) v
      | none => .exc 0x01 0)

/-- SETS (R224): `EPC` and `PRED`. -/
def execSets (c : Fin 77) (e : Ecc) (s : State) : Host.Outcome State Fault Refusal :=
  .next (s.rill c.val e [0x36] fun s k w =>
    let v := k.reg (rA w)
    if rD w ≠ 0 then .exc 0x01 0
    else if rImm w = 6 then .next (s.setCore c.val { k with epc := v.setWidth 14 })
    else if rImm w = 8 then .next (s.setCore c.val { k with p := v.setWidth 4 })
    else .exc 0x01 0)

/-! ### Loads and stores (R217, R223) -/

/-- `n` bytes of data memory. -/
def Core.dmemNat (k : Core) (a n : Nat) : Nat := leNat ((List.range n).map fun i => Table.get (fun _ => 0) k.dmem (a + i))

/-- Store `n` bytes in data memory; a word that is written whole is repaired (R217). -/
def Core.dmemPut (k : Core) (a n v : Nat) : Core :=
  { k with
    dmem := ((List.range n).zip (leBytes n v)).foldl (fun t p => Table.set (fun _ => 0) t (a + p.1) p.2) k.dmem
    dmemBad := k.dmemBad.filter fun w => !(decide (a ≤ 8 * w) && decide (8 * w + 8 ≤ a + n)) }

/-- The exception of an access of `n` bytes at `ea`, aligned to `al` (R223, R227), if any. -/
def eaExc (ea : W64) (al n : Nat) : Option Nat :=
  if ea.toNat % al ≠ 0 then some 0x03 else if 65536 < ea.toNat + n then some 0x04 else none

/-- A load of `n` bytes, whose data word is read with outcome `d` (R217). -/
def loadAct (c n : Nat) (d : Ecc) (s : State) (k : Core) (w : W32) : Act :=
  let ea := k.ea w
  match eaExc ea n n with
  | some x => .exc x ea.toNat
  | none => writeReg (if d = .corrected then s.countErr (.ril c) else s) c k (rD w) (w64 (k.dmemNat ea.toNat n))

/-- A load whose data word is uncorrectable raises exception 0x05, and `MEM_UE` sets (R217). -/
def State.loadStep (s : State) (c : Nat) (e d : Ecc) (op n : Nat) : State :=
  s.rill c e [op] fun s k w =>
    let ea := k.ea w
    if (eaExc ea n n).isNone && (d == .uncorrectable || k.dmemBad.has (ea.toNat / 8)) then .exc 0x05 ea.toNat
    else loadAct c n d s k w

/-- The data word that the load at the PC finds uncorrectable is marked, before its exception (R217). -/
def State.markLoad (s : State) (c : Nat) (d : Ecc) (op n : Nat) : State :=
  let k := s.core c
  let w := Table.get (fun _ => 0) k.imem k.pc.toNat
  let ea := k.ea w
  let runs := k.steps && rOp w == op && !(k.imemBad.has k.pc.toNat) &&
    (if rG w then k.p.getLsbD (rP w) != rN w else !(rN w) && rP w == 0) && (eaExc ea n n).isNone
  if runs && (d == .uncorrectable || k.dmemBad.has (ea.toNat / 8)) then
    (s.setCore c { k with dmemBad := NatSet.add (ea.toNat / 8) k.dmemBad }).setErr (.ril c) 3
  else s

/-- LD64 (R220, R223). -/
def execLd64 (c : Fin 77) (e d : Ecc) (s : State) : Host.Outcome State Fault Refusal :=
  .next ((if e = .uncorrectable then s else s.markLoad c.val d 0x38 8).loadStep c.val e d 0x38 8)

/-- LD32 (R220, R223). -/
def execLd32 (c : Fin 77) (e d : Ecc) (s : State) : Host.Outcome State Fault Refusal :=
  .next ((if e = .uncorrectable then s else s.markLoad c.val d 0x39 4).loadStep c.val e d 0x39 4)

/-- A store of `n` bytes. -/
def storeAct (c n : Nat) (s : State) (k : Core) (w : W32) : Act :=
  let ea := k.ea w
  match eaExc ea n n with
  | some x => .exc x ea.toNat
  | none => .next (s.setCore c (k.dmemPut ea.toNat n (k.reg (rD w)).toNat))

/-- ST64 (R220, R223). -/
def execSt64 (c : Fin 77) (e : Ecc) (s : State) : Host.Outcome State Fault Refusal :=
  .next (s.rill c.val e [0x3A] (storeAct c.val 8))

/-- ST32 (R220, R223). -/
def execSt32 (c : Fin 77) (e : Ecc) (s : State) : Host.Outcome State Fault Refusal :=
  .next (s.rill c.val e [0x3B] (storeAct c.val 4))

/-! ### Tallies (R225, R226) -/

/-- The tally that an instruction names. -/
def Core.eaTally (k : Core) (w : W32) : Nat := (k.ea w).toNat % 4096

/-- TRD (R220, R226). -/
def execTrd (c : Fin 77) (e : Ecc) (s : State) : Host.Outcome State Fault Refusal :=
  .next (s.rill c.val e [0x19] fun s k w =>
    if s.tallyPermitted (k.eaTally w) k.ctx then writeReg s c.val k (rD w) (w64 (s.tally (k.eaTally w)).toNat)
    else .exc 0x08 0)

/-- TINC (R225, R226, R231): by g[D][31:0], or by 1 when `D` is 0. -/
def execTinc (c : Fin 77) (e : Ecc) (s : State) : Host.Outcome State Fault Refusal :=
  .next (s.rill c.val e [0x3E] fun s k w =>
    if s.tallyPermitted (k.eaTally w) k.ctx then
      .next ((s.setCore c.val (k.progress s.refcnt)).addTally (k.eaTally w)
        (if rD w = 0 then 1 else (k.reg (rD w)).setWidth 32))
    else .exc 0x08 0)

/-- TWAIT (R225): the core goes on, or waits for the tally. -/
def execTwait (c : Fin 77) (e : Ecc) (s : State) : Host.Outcome State Fault Refusal :=
  .next (s.rill c.val e [0x3F] fun s k w =>
    let t := k.eaTally w
    let target : W32 := (k.reg (rD w)).setWidth 32
    if !(s.tallyPermitted t k.ctx) then .exc 0x08 0
    else if tallyReached (s.tally t) target then .next s
    else .wait (s.setCore c.val { k.beginWait s.refcnt .waiting with waitTally := some (t, target), released := false }))

/-- TWAIT_RELEASE (R225): the tally has reached or passed the target while the core waited. -/
def execTwaitRelease (c : Fin 77) (s : State) : Host.Outcome State Fault Refusal :=
  let k := s.core c.val
  .next (if k.st = .waiting ∧ k.waitTally.isSome ∧ k.released then
      ((s.setCore c.val { k.endWait s.refcnt with pc := k.pc + 1 }).event (.ril c.val) 0x02 1).event .tly 0x03 1
    else s)

/-! ### Issue and take (R227, R228) -/

/-- The words of a descriptor in data memory: 8 for OPC 0x41, else 16 (R227). -/
def Core.descWords (k : Core) (a : Nat) : List W32 :=
  k.dmemWords a (if dcOpc (k.dmemWords a 1) = 0x41 then 8 else 16)

/-- ISSUE (R227, R229): the descriptor at ea is copied, tagged and placed; the core waits while the target is full. A
descriptor in an uncorrectable word is not placed, and its context takes a poison fault. -/
def issueAct (c : Nat) (d : Ecc) (s : State) (k : Core) (w : W32) : Act :=
  let ea := k.ea w
  let a := ea.toNat
  let opc := dcOpc (k.dmemWords a 1)
  let n := if opc = 0x41 then 32 else 64
  if rD w ≠ 0 then .exc 0x01 0
  else match eaExc ea 32 n with
    | some x => .exc x a
    | none =>
      let ws := k.descWords a
      let desc : Desc := { words := ws, ctx := k.ctx, src := .core c a, op := k.op }
      let bad := d == .uncorrectable || k.dmemPoison a (n / 4)
      let s := if d = .corrected then s.countErr (.ril c) else s
      if !(kindIssues (coreKind c) opc) then .exc 0x07 0
      else if bad then
        let k := if d = .uncorrectable then { k with dmemBad := NatSet.add (a / 8) k.dmemBad } else k
        .next (((s.setCore c k).setErr (.ril c) 3).opFault desc 0x0A 0 opc)
      else match s.place c desc with
        | some t => .next (t.event (.ril c) 0x07 1)
        | none => .wait (s.setCore c { k.beginWait s.refcnt .waiting with heldDesc := some desc, waitTally := none })

/-- ISSUE (R227). -/
def execIssue (c : Fin 77) (e d : Ecc) (s : State) : Host.Outcome State Fault Refusal :=
  .next (s.rill c.val e [0x3C] (issueAct c.val d))

/-- ISSUE_RESUME (R227): a place is free; the copied descriptor is placed, unless an exception ends the wait (R234). -/
def execIssueResume (c : Fin 77) (s : State) : Host.Outcome State Fault Refusal :=
  let k := s.core c.val
  .next (match k.heldDesc with
    | none => s
    | some d =>
      if k.st ≠ .waiting ∨ !k.undisturbed then s
      else match s.place c.val d with
        | some t =>
          let k := t.core c.val
          ((t.setCore c.val { k.endWait t.refcnt with pc := k.pc + 1 }).event (.ril c.val) 0x02 1).event (.ril c.val) 0x07 1
        | none => s)

/-- The next descriptor that core `c` may take: a die sequencer's operations are judged first (R252). -/
def State.nextTake (s : State) (c : Nat) : Option Desc :=
  match (s.core c).inq with
  | [] => none
  | d :: _ => if coreKind c = 1 && !d.judged then none else some d

/-- The oldest descriptor is written at `a`, its tag becomes the current context, and progress is made (R228). -/
def Core.takeDesc (k : Core) (a : Nat) (d : Desc) (now : W64) : Core :=
  let k1 := k.dmemPut a 64 (leNat (wordsBytes ((List.range 16).map fun i => wordAt d.words i)))
  { k1.progress now with inq := k.inq.drop 1, ctx := d.ctx, op := d.op }

/-- Core `c` has taken a descriptor; a collective's is known to the transfer unit of its engine (R319, R329). -/
def State.tookDesc (s : State) (c : Nat) (k : Core) (d : Desc) : State :=
  let t := s.setCore c k
  if 69 ≤ c then t.collTaken (c - 69) d else t

/-- TAKE (R228): an empty queue leaves the core IDLE. -/
def execTake (c : Fin 77) (e : Ecc) (s : State) : Host.Outcome State Fault Refusal :=
  .next (s.rill c.val e [0x3D] fun s k w =>
    if rD w ≠ 0 then .exc 0x01 0
    else match eaExc (k.ea w) 32 64 with
      | some x => .exc x (k.ea w).toNat
      | none =>
        match s.nextTake c.val with
        | some d => .next (s.tookDesc c.val (k.takeDesc (k.ea w).toNat d s.refcnt) d)
        | none => .wait (s.setCore c.val (k.beginWait s.refcnt .idle)))

/-- TAKE_RESUME (R228): a descriptor has arrived for an IDLE core. -/
def execTakeResume (c : Fin 77) (s : State) : Host.Outcome State Fault Refusal :=
  let k := s.core c.val
  .next (match s.nextTake c.val with
    | none => s
    | some d =>
      if k.st ≠ .idle ∨ !k.undisturbed then s
      else
        let a := (k.ea (Table.get (fun _ => 0) k.imem k.pc.toNat)).toNat
        let k1 := (k.takeDesc a d s.refcnt).endWait s.refcnt
        (s.tookDesc c.val { k1 with pc := k.pc + 1, since := s.refcnt } d).event (.ril c.val) 0x02 1)

/-! ### Limits, asynchronous exceptions, start and stop -/

/-- WAIT_LIMIT_EXPIRE (R231): the wait in an `ISSUE` or a `TWAIT` reaches its limit; 0 disables the check. -/
def execWaitLimitExpire (c : Fin 77) (s : State) : Host.Outcome State Fault Refusal :=
  let k := s.core c.val
  let lim := (s.reg (.ril c.val) 0x118).toNat * 1024
  .next (if k.st ≠ .waiting ∨ lim = 0 ∨ k.released ∨ !k.undisturbed then s
    else (s.advance k.since lim).syncExc c.val 0x0C 0)

/-- The core hangs (R231): exception 0x0D, which does not trap; FAULTED and HANG set together. -/
def State.hang (s : State) (c : Nat) : State :=
  s.enterFaulted c (causeWord 0 0 0 (s.core c).ctx 0x0D) (s.core c).pc 3

/-- HANG_DETECT (R231): a running core made no progress for its limit; 0 disables the check. -/
def execHangDetect (c : Fin 77) (s : State) : Host.Outcome State Fault Refusal :=
  let k := s.core c.val
  let lim := (s.reg (.ril c.val) 0x11C).toNat * 1024
  .next (if k.st ≠ .running ∨ lim = 0 then s else (s.advance k.since lim).hang c.val)

/-- ASYNC_EXCEPTION_TAKE (R234): the oldest pending exception is taken at the instruction boundary; a wait is abandoned. -/
def execAsyncExceptionTake (c : Fin 77) (s : State) : Host.Outcome State Fault Refusal :=
  let k := s.core c.val
  .next (match k.pend with
    | [] => s
    | x :: rest =>
      if k.inTrap || !(k.st == .running || k.st == .waiting || k.st == .idle) then s
      else
        (s.setCore c.val { k with pend := rest }).takeExc c.val x k.pc)

/-- RUN_CTL_START (R218): a write of `RUN_CTL`; `STOP` at 1 acts and `START` is then ignored. -/
def State.runStop (s : State) (c : Nat) : State :=
  let k := s.core c
  match k.st with
  | .running => s.setCore c { k with st := .stopped }
  | .waiting | .idle => s.setCore c { k with st := .stopped, waitTally := none, released := false, heldDesc := none }
  | _ => s.setCore c { k with st := .stopped }

/-- `QUIESCED` of the engine that a core drives clears when the core is started (R424). -/
def State.unquiesce (s : State) (c : Nat) : State :=
  if 69 ≤ c then s.setCfl (c - 69) { s.cfl (c - 69) with quiesced := false }
  else if 5 ≤ c then s.setRidge (c - 5) { s.ridge (c - 5) with quiesced := false }
  else s

/-- Start a core that is STOPPED, HALTED or FAULTED (R218). -/
def State.runStart (s : State) (c : Nat) : State :=
  let k := s.core c
  match k.st with
  | .stopped | .halted | .faulted =>
    (s.unquiesce c).setCore c { k with
      st := .running, pc := k.startPc, ctx := k.startCtx, op := 0, inTrap := false, pend := [], since := s.refcnt, ran := 0
      waitTally := none, released := false, heldDesc := none }
  | _ => s

/-- RUN_CTL_START (R218). -/
def execRunCtlStart (c : Fin 77) (value : W32) (s : State) : Host.Outcome State Fault Refusal :=
  .next (if !s.ready then s
    else if bitOf value 1 then s.runStop c.val
    else if bitOf value 0 then s.runStart c.val
    else s)

/-- RUN_CTL_STOP (R218). -/
def execRunCtlStop (c : Fin 77) (s : State) : Host.Outcome State Fault Refusal :=
  .next (if !s.ready then s else s.runStop c.val)

/-! ### Loading (R237, R238) -/

/-- Write program words; a word that is written whole is repaired (R217). -/
def Core.setImem (k : Core) (i : Nat) (v : W32) : Core :=
  if i < 16384 then { k with imem := Table.set (fun _ => 0) k.imem i v, imemBad := NatSet.del i k.imemBad } else k

/-- Software replaces a program: what the image brought is gone (R513). -/
def State.progReplaced (s : State) (c : Nat) : State :=
  if 69 ≤ c then { s with mgmt := { s.mgmt with collProg := NatSet.del (c - 69) s.mgmt.collProg } } else s

/-- The BAR0 address of a core's `GREG_LO[i]`. -/
def gregAddr (c i : Nat) : Nat := Page.base (.ril c) + 0x200 + 8 * i

/-- PROGRAM_MEMORY_WRITE (R237, R239): a write to program memory or to a load register. -/
def execProgramMemoryWrite (c : Fin 77) (target : LoadTarget) (s : State) : Host.Outcome State Fault Refusal :=
  let k := s.core c.val
  let lock := s.flag (.ril c.val) 0x114 0
  let prog := match target with | .word _ _ | .words _ _ => true | _ => false
  .next (if !s.ready then s
    else if k.busy || (prog && lock) then s.setErr (.ril c.val) 2
    else match target with
      | .word i v => (s.progReplaced c.val).setCore c.val (k.setImem i.toNat v)
      | .words i v =>
        let j := i.toNat / 2 * 2
        (s.progReplaced c.val).setCore c.val ((k.setImem j (lo32 v)).setImem (j + 1) (hi32 v))
      | .greg i v =>
        { s with io := { s.io with held := Table.set (fun _ => 0) s.io.held (gregAddr c.val i.val) (lo32 v) } }.setCore
          c.val (k.setReg i.val v)
      | .gregHi i v =>
        s.setCore c.val (k.setReg i.val (join64 v (Table.get (fun _ => 0) s.io.held (gregAddr c.val i.val))))
      | .pred v => s.setCore c.val { k with p := v.setWidth 4 }
      | .ctx v => s.setCore c.val { k with startCtx := fld v 5 0 }
      | .startPc v => s.setCore c.val { k with startPc := v.setWidth 14 })

/-- DATA_MEMORY_WRITE (R238): a 32-bit or 64-bit write, in every state of the core. -/
def execDataMemoryWrite (c : Fin 77) (off : BitVec 16) (wide : Bool) (value : W64) (s : State) :
    Host.Outcome State Fault Refusal :=
  let n := if wide then 8 else 4
  .next (if !s.ready || off.toNat % n != 0 then s
    else s.setCore c.val ((s.core c.val).dmemPut off.toNat n value.toNat))

end Sys2Proof.Machine
end

