-- ==== Sys2Proof/Machine/Steps.lean ====
section
/-! DEFINITION. The step machinery (R353 to R374, R381 to R386, R392, R398, R410, R411): the actions, the journal, CHECK, the two
rounds of the Watershed, the seal and its resolution, the commit, and the end of a step. -/
namespace Sys2Proof.Machine

/-! ### Descriptors (R357, R358) -/

def sdAction (d : List W32) : Nat := wfld d 0 31 28
def sdFlag (d : List W32) : Bool := wfld d 0 27 27 == 1
def sdSlot (d : List W32) : Nat := wfld d 0 26 26
def sdTally (d : List W32) : Nat := wfld d 1 31 20

/-- The bits of argument word `i` that an action uses. -/
def sdArgs (action i : Nat) : Nat :=
  match action, i with
  | 1, 2 => 0xFFFFFFFF | 1, 3 => 0x7FF
  | 2, 2 => 7
  | 3, 2 => 0xFFFFFFFF | 3, 3 => 1
  | 4, 2 => 7 | 4, 3 => 0xFFFFFFFF | 4, 4 => 0x7FF | 4, 5 => 0x1FFF1FFF | 4, 6 => 0xFFF | 4, 7 => 0xFFFFFFFF | 4, 8 => 0x7FF
  | 4, 9 => 0xFFFFFFFF
  | 5, 2 => 0xFFFFFFFF | 5, 3 => 0x7FF | 5, 4 => 0x7F
  | 6, 2 => 0xFFF
  | _, _ => 0

/-- What every action is checked for: a reason of R384, or 0. -/
def State.sdReason (s : State) (d : Desc) : Nat :=
  let w := d.words
  let a := sdAction w
  if wfld w 0 7 0 ≠ 0x71 ∨ wfld w 0 25 8 ≠ 0 ∨ wfld w 1 19 0 ≠ 0 ∨ (sdFlag w ∧ a ≠ 1 ∧ a ≠ 8) then 1
  else if a = 0 ∨ 11 ≤ a then 2
  else if s.partOfCtx d.ctx ≠ s.stepOwner then 8
  else if (List.range 14).any fun i => wordAt w (2 + i) &&& ~~~(w32 (sdArgs a (2 + i))) != 0 then 1
  else 0

/-! ### The queue (R359) -/

/-- The head of the queue is done with; the counts that it waited are events 0x04 or 0x05. -/
def State.stepPop (s : State) : State :=
  let m := s.stepm
  let t := { s.setTread 8 none with stepm := { m with q := m.q.drop 1, waitAt := none } }
  match m.waitAt, m.q with
  | some a, d :: _ => t.event .step (if sdAction d.words = 1 then 4 else 5) (s.refcnt - a).toNat
  | _, _ => t

/-- The head of the queue waits. -/
def State.stepWait (s : State) : State :=
  { s with stepm := { s.stepm with waitAt := some (s.stepm.waitAt.getD s.refcnt) } }

/-- The head of the queue is refused (R359). -/
def State.stepRefuse (s : State) (d : Desc) (reason : Nat) : State :=
  let t := s.stepPop
  let t := if t.flag .step 0x14C 31 then t
    else t.setReg .step 0x14C (w32 (2 ^ 31 + reason * 256 + sdAction d.words * 16))
  (t.setErr .step 0).refuseDesc d reason 0x71

/-- The tally of an action that is done. -/
def State.stepTally (s : State) (d : Desc) : State := s.opTally (sdTally d.words) d.ctx

/-- Take the head of the queue if `want` says that it is the action, or if it breaks R357. -/
def State.stepTake (s : State) (want : List W32 → Bool) (act : Desc → State) : State :=
  match s.stepm.q with
  | [] => s
  | d :: _ =>
    let why := s.sdReason d
    if why ≠ 0 then s.stepRefuse d why else if want d.words then act d else s

/-- Take an action on a slot that must be in a state (R359). -/
def State.stepTakeIn (s : State) (action : Nat) (ok : StepSlot → Bool) (act : Desc → Nat → StepSlot → State) : State :=
  s.stepTake (fun w => sdAction w == action) fun d =>
    let j := sdSlot d.words
    if ok (s.slot j) then act d j (s.slot j) else s.stepRefuse d 3

/-! ### OPEN (R360 to R363) -/

/-- The slot that the next new OPEN takes (R398). -/
def State.nextSlot (s : State) : Nat :=
  match s.stepm.s0.st == .free, s.stepm.s1.st == .free with
  | true, false => 0
  | false, true => 1
  | true, true => match s.stepm.newest with | some j => 1 - j | none => 0
  | false, false => 0

/-- A slot lets a new OPEN pass: it is FREE, or its step has reached its commit point. -/
def StepSlot.passes (k : StepSlot) : Bool := k.st == .free || k.st == .mirror || k.committing

/-- The journal or its copies failed. -/
def State.copyFail (s : State) (j : Nat) : State := s.setSlot j { s.slot j with copyFail := true }

/-- All token data is journaled: the journal goes to every way, and the seal word is written to zero (R361). -/
def State.openCopies (s : State) (j : Nat) : State :=
  let k := s.slot j
  if k.copyFail || !s.mirrorOn || s.asking j fun a => match a with | .tokens _ => true | _ => false then s
  else match (s.journalSend j .copy).bind fun t => t.sealZero j .word with
    | some t => t
    | none => s.copyFail j

/-- Journal one piece of token data. -/
def State.tokenPiece (s : State) (j ctx base : Nat) (p : Nat × Nat × Nat) : State :=
  match s.site 4 0 ctx .rd p.1 with
  | .error r => (s.stepXlate 0 r ctx p.1).copyFail j
  | .ok (.here key) =>
    let x := (s.readRange 0 key p.2.1 []).stepWrite ctx (base + p.2.2) (s.keyBytes key p.2.1)
    if x.2 then x.1 else x.1.copyFail j
  | .ok (.there g dv pt a) =>
    s.ask j (.tokens (base + p.2.2)) { who := .none, ctx := ctx, kind := 0, group := g, dev := dv, port := pt, addr := a, len := p.2.1 }

/-- The journal's header is written with outcome `x`, and the OPEN's table of token areas read as `r`: the token areas are
copied behind the header, and the copies begin. -/
def State.openGo (j : Nat) (d : Desc) (base n : Nat) (toks : List W32) (x : State × Bool) (r : Option (List W32)) : State :=
  match r, x.2 with
  | some ws, true =>
    let t := (mbOffsets toks n).1.foldl (fun t o =>
      (pieces (wquad ws (2 * o.1) 43) (mbTokens toks o.1 * n)).foldl (fun t p =>
        t.tokenPiece j d.ctx base (p.1, p.2.1, o.2 + p.2.2)) t) x.1
    t.openCopies j
  | _, _ => x.1.copyFail j

/-- A new OPEN takes slot `j` and its step number, and journals its inputs (R354, R361). -/
def State.openNew (s : State) (d : Desc) : State :=
  let j := s.nextSlot
  let step := s.reg .step 0x108
  let k : StepSlot :=
    { st := .opening, step := step, ctx := d.ctx, seed := s.reg64 .scl 0x104, act := some d, openAt := s.refcnt
      toks := (List.range 8).map fun i => s.reg .cwn (0x500 + 16 * i)
      cfgs := (List.range 8).map fun i => s.reg .cwn (0x50C + 16 * i) }
  let head := s.journalHead k s.tokBytes (s.cursorFor j)
  let t := ((s.stepPop.setReg .step 0x108 (step + 1)).setFlag .step 0x12C 31 false).accClear j
  let t := { t with faulted := NatSet.del d.ctx t.faulted }.setSlot j (k.stamp 1 s.refcnt)
  let base := s.journalAt j
  let u := t.readFault 0 d.ctx (wquad d.words 2 43) 64
  let x := u.stepWrite d.ctx base (clean (head ++ List.replicate 0xF00 (0 : Byte)))
  State.openGo j d base s.tokBytes k.toks x (s.stepWords d.ctx (wquad d.words 2 43) 16)

/-- STEP_OPEN (R359, R360, R361): a new OPEN waits for a free slot and the other step's commit point. -/
def execStepOpen (s : State) : Host.Outcome State Fault Refusal :=
  .next (s.stepTake (fun w => sdAction w == 1 && !(sdFlag w)) fun d =>
    let m := s.stepm
    let toks := (List.range 8).map fun i => s.reg .cwn (0x500 + 16 * i)
    if m.s0.st == .aborted || m.s1.st == .aborted then s.stepRefuse d 3
    else if !(m.s0.passes && m.s1.passes && (m.s0.st == .free || m.s1.st == .free)) then s.stepWait
    else if (s.fab.partnerLost && s.mirrorOn) || s.winFrames = 0 then s.stepRefuse d 4
    else if s.journalSize < (mbOffsets toks s.tokBytes).2 then s.stepRefuse d 5
    else s.openNew d)

/-- STEP_REPLAY_OPEN (R363). -/
def execStepReplayOpen (s : State) : Host.Outcome State Fault Refusal :=
  .next (s.stepTake (fun w => sdAction w == 1 && sdFlag w) fun d =>
    let j := sdSlot d.words
    let k := s.slot j
    if k.st ≠ .aborted then s.stepRefuse d 3
    else
      let n := min 255 (k.replays + 1)
      let k1 : StepSlot :=
        { st := .opening, step := k.step, ctx := d.ctx, seed := k.seed, replay := true, replays := n, toks := k.toks
          cfgs := k.cfgs, act := some d, openAt := s.refcnt }
      let t := s.stepPop.accClear j
      let t := { t with faulted := NatSet.del d.ctx t.faulted }.setSlot j (k1.stamp 1 s.refcnt)
      let x := t.stepWrite d.ctx (s.journalAt j + 0xC) (clean (leBytes 4 n))
      if !x.2 then x.1.copyFail j
      else if !s.mirrorOn then x.1
      else match x.1.sealZero j .word with
        | some u => u
        | none => x.1.copyFail j)

/-- The slot that is in OPEN. -/
def State.openSlot (s : State) : Option Nat :=
  if s.stepm.s0.st == .opening then some 0 else if s.stepm.s1.st == .opening then some 1 else none

/-- JOURNAL_COPY_DONE (R361, R363, R387): every write of the OPEN is confirmed, or one has failed. -/
def execJournalCopyDone (s : State) : Host.Outcome State Fault Refusal :=
  .next (match s.openSlot with
    | none => s
    | some j =>
      let k := s.slot j
      if k.copyFail then (s.setErr .hdw 0).abortSlot j 0x09 0 true
      else if s.asking j fun _ => true then s
      else
        let n := mbBytes k.toks s.tokBytes
        let t := if k.replay then s.event .hdw 0x05 1
          else (((s.setReg .hdw 0x10C (w32 (min n 0xFFFFFFFF))).event .hdw 0x02 1).event .hdw 0x03 (n / 64)).event .hdw 0x04
            (if s.mirrorOn then s.ways else 0)
        let t := t.setSlot j ({ k with st := .compute, act := none }.stamp 2 s.refcnt)
        match k.act with
        | some d => t.stepTally d
        | none => t)

/-! ### COMPUTE and CHECK (R364, R365) -/

/-- SLOT_DONE (R364, R260). -/
def execSlotDone (s : State) : Host.Outcome State Fault Refusal :=
  .next (s.stepTakeIn 2 (fun k => k.st == .compute) fun d j k =>
    let i := wfld d.words 2 2 0
    let vs := (List.range 8).filter (mbValid k.toks)
    if !vs.isEmpty && !(vs.contains i) then s.stepRefuse d 3
    else
      let k1 := { k with
        mbDone := NatSet.add i k.mbDone
        busy := Table.set (fun _ => 0) k.busy i (w32 (min (s.refcnt - k.openAt).toNat 0xFFFFFFFF)) }
      let k2 := if vs.all k1.mbDone.has then { k1 with st := .reduce }.stamp 3 s.refcnt else k1
      (s.stepPop.setSlot j k2).stepTally d)

/-- The failure bits of CHECK for slot `j` (R365), with the Norm Table evaluated. -/
def State.verdictOf (s : State) (j : Nat) (d : Desc) : Nat :=
  let k := s.slot j
  let fl := fun b => (List.range 64).any fun n => s.flag (.acc n) 0x10C (8 * j + b)
  let sat := ((List.range 64).map fun n => (s.reg (.acc n) (0x110 + 4 * j)).toNat).sum
  let mx := s.field .step 0x120 23 0
  let bit (b : Bool) (i : Nat) : Nat := b.toNat * 2 ^ i
  bit (wfld d.words 2 30 23 == 0xFF) 0 + bit (wfld d.words 3 0 0 == 1) 1 + bit (fl 1 || fl 2 || k.nonfin) 2 +
  bit (mx != 0xFFFFFF && decide (mx < sat)) 3 + bit (s.reg .nrm (0x100 + 4 * j) != 0) 4 +
  bit (s.field .chkG (0x108 + 4 * j) 15 0 != 0) 5 + bit (fl 3) 6 + bit (s.faulted.has k.ctx) 7

/-- The checks of slot `j` are over: the criteria are evaluated and the verdict recorded; a poisoned granule of the Norm
Table aborts the step (R543). -/
def State.checkEnd (s : State) (j : Nat) (d : Desc) : State :=
  let t := s.normEval j
  if (t.slot j).st ≠ .check then t
  else (t.setSlot j { t.slot j with verdict := some (t.verdictOf j d), act := none }).stepTally d

/-- STEP_CHECK (R365): CHECK begins, and records its verdict once no Cairn check of the slot is pending. -/
def execStepCheck (s : State) : Host.Outcome State Fault Refusal :=
  let wait := (List.range 2).find? fun j => (s.slot j).st == .check && (s.slot j).act.isSome
  let ready (t : State) (j : Nat) (d : Desc) : State := if t.field .chkG (0x108 + 4 * j) 31 16 = 0 then t.checkEnd j d else t
  .next (match wait with
    | some j => (match (s.slot j).act with | some d => ready s j d | none => s)
    | none =>
      s.stepTakeIn 3 (fun k => k.st == .reduce) fun d j k =>
        ready (s.stepPop.setSlot j ({ k with st := .check, act := some d }.stamp 4 s.refcnt)) j d)

/-! ### The rounds of the Watershed (R367 to R369) -/

/-- The record of the first round (R367). -/
def State.voteRecord (s : State) (j : Nat) (k : StepSlot) (v : Vote) : List W32 :=
  let f := k.verdict.getD 0
  let p := s.reg .oxb 0x104
  let a := s.sealWord j
  [w32 ((f == 0).toNat * 2 ^ 31 + f), k.step, s.reg .step 0x100, s.reg .step 0x104, w32 ((v.parts.map Part.rank).getD v.me 0),
    w32 (fld p 29 21 * 16 + fld p 20 17), w32 a, w32 (a / 2 ^ 32), k.phase 2 3, k.phase 3 4, k.phase 4 5, 0, 0, 0, 0, 0]

/-- The record of the second round (R369). -/
def State.sealedRecord (s : State) (k : StepSlot) (v : Vote) : List W32 :=
  [0x80000000#32, k.step, s.reg .step 0x100, s.reg .step 0x104, w32 ((v.parts.map Part.rank).getD v.me 0)] ++ List.replicate 11 0

/-- Where a round gathers. -/
def Vote.buf (v : Vote) (round : Nat) : Nat := (v.vbuf + (if round = 2 then 64 * v.parts.length else 0)) % 2 ^ 43

/-- The collective of a round. -/
def Vote.desc (v : Vote) (ctx round : Nat) : Desc :=
  let b := v.buf round
  { words := [w32 (0x30000051 + v.engine * 2 ^ 25), w32 (v.coll * 256), w32 (v.me * 2 ^ 16 + v.parts.length),
      w32 v.table, w32 (v.table / 2 ^ 32), w32 b, w32 (b / 2 ^ 32), w32 b, w32 (b / 2 ^ 32), 64, 0, 0, 0, 0, 0, 0]
    ctx := ctx, src := .device }

/-- A round of the Watershed begins: the own record is placed, and the engine gathers the others'. -/
def State.roundStart (s : State) (j round : Nat) : State :=
  let k := s.slot j
  match k.vote with
  | none => s
  | some v =>
    let r := if round = 1 then s.voteRecord j k v else s.sealedRecord k v
    let x := s.stepWrite k.ctx (v.buf round + 64 * v.me) (clean (wordsBytes r))
    let k1 := { k with round := round, gathered := none, lack := [] }.stamp 14 s.refcnt
    if !x.2 then
      x.1.setSlot j { k1 with gathered := some false, lack := (List.range v.parts.length).filter fun i => i != v.me }
    else
      let c : Coll := { desc := v.desc k.ctx round, parts := v.parts, since := s.refcnt, ws := some j }
      let e := x.1.cfl v.engine
      ((x.1.setSlot j k1).setCfl v.engine { e with wsq := e.wsq ++ [c] }).wsStart v.engine

/-- The engine of slot `j`'s Watershed ends its round, if one runs or waits. -/
def State.wsEnd (s : State) (j : Nat) : State :=
  match (s.slot j).vote with
  | none => s
  | some v =>
    let e := s.cfl v.engine
    let t := s.setCfl v.engine { e with wsq := e.wsq.filter fun c => c.ws != some j }
    match e.cur with
    | some c => if c.ws = some j then t.collDrop v.engine else t
    | none => t

/-- The fields of a VOTE keep to R332 and R367. -/
def voteFieldsOk (w : List W32) : Bool :=
  let n := wfld w 5 12 0
  n != 0 && decide (n ≤ 4112) && decide (wfld w 5 28 16 < n) && wquad w 3 43 % 64 == 0

/-- The participant table of a VOTE, as the engine that it names reads it (R322, R367). -/
def voteTable (w : List W32) : List W32 :=
  [0, 0, w32 (wfld w 5 28 16 * 2 ^ 16 + wfld w 5 12 0), wordAt w 3, wordAt w 4]

/-- The Watershed that a VOTE names, or none where its table breaks R322 or R367, or could not be read. -/
def State.voteOf (s : State) (d : Desc) (r : TableRead) : Option Vote :=
  let w := d.words
  let e := wfld w 2 2 0
  match r.words with
  | none => none
  | some ws =>
    match s.partsOf e r.coll.desc.words ws with
    | .error _ => none
    | .ok ps =>
      if ((List.range ps.length).zip ps).all fun p => p.2.segOff == 64 * p.1 && p.2.segLen == 64 then
        some { engine := e, table := wquad w 3 43, parts := ps, me := wfld w 5 28 16, coll := wfld w 6 11 0
               vbuf := wquad w 7 43, voteTo := wfld w 9 31 16, sealedTo := wfld w 9 15 0 }
      else none

/-- The table of a VOTE is all here: the first round begins, or the VOTE is refused; until then it waits. -/
def State.voteGo (s : State) (d : Desc) (j : Nat) (k : StepSlot) : State :=
  match s.tread 8 with
  | none => s.stepWait
  | some r =>
    if !r.wait.isEmpty then s.stepWait
    else match s.voteOf d r with
      | none => s.stepRefuse d 6
      | some v => (s.stepPop.setSlot j ({ k with st := .vote, vote := some v, act := some d }.stamp 5 s.refcnt)).roundStart j 1

/-- STEP_VOTE (R358, R367): the participant table is read; once it is here the first round begins. -/
def execStepVote (s : State) : Host.Outcome State Fault Refusal :=
  .next (s.stepTakeIn 4 (fun k => k.st == .check && k.verdict.isSome) fun d j k =>
    if !(voteFieldsOk d.words) then s.stepRefuse d 6
    else if (s.tread 8).isSome then s.voteGo d j k
    else (s.tableAsk 8 (wfld d.words 2 2 0) .vote
      { desc := { d with words := voteTable d.words }, parts := [], since := s.refcnt }).voteGo d j k)

/-- The records that a round gathered. -/
def State.roundRecs (s : State) (k : StepSlot) (v : Vote) : Option (List (List W32)) :=
  let n := v.parts.length
  (s.stepWords k.ctx (v.buf k.round) (16 * n)).map fun ws => (List.range n).map fun i => (ws.drop (16 * i)).take 16

/-- The first round has ended: the tally of VOTE increments. -/
def State.voteTally (s : State) (j : Nat) : State :=
  match (s.slot j).act with
  | some d => (s.setSlot j { s.slot j with act := none }).stepTally d
  | none => s

/-- A record carries this step and job. -/
def State.recOurs (s : State) (k : StepSlot) (r : List W32) : Bool :=
  wordAt r 1 == k.step && wordAt r 2 == s.reg .step 0x100 && wordAt r 3 == s.reg .step 0x104

/-! #### Stragglers (R411) -/

/-- The lower middle value. -/
def lowerMid (l : List Nat) : Nat := (l.mergeSort fun a b => decide (a ≤ b)).getD ((l.length - 1) / 2) 0

/-- The indices that are slow in a step, with factor `f` in hundredths. -/
def slowIndices (recs : List (List W32)) (f : Nat) : List Nat :=
  let t := fun p i => (wordAt (recs.getD i []) (8 + p)).toNat
  let ix := List.range recs.length
  ix.filter fun i => (List.range 3).any fun p => decide (f * lowerMid (ix.map (t p)) < 100 * t p i)

/-- A first round that passed is judged, but for the first 8 of a cold period. -/
def State.stragJudge (s : State) (recs : List (List W32)) : State :=
  let g := s.stepm.strag
  let f := s.field .step 0x008 23 16
  if g.rounds < 8 then { s with stepm := { s.stepm with strag := { g with rounds := g.rounds + 1 } } }
  else if f = 0 then s
  else
    let slow := slowIndices recs (max f 100)
    let runs := slow.foldl (fun t i => Table.set (fun _ => 0) t i (Table.get (fun _ => 0) g.runs i + 1)) ([] : Table Nat)
    let n := max 1 (s.field .step 0x008 27 24)
    let hit := (runs.filter fun e => decide (n ≤ e.2)).head?
    let named := match g.named, hit with
      | some i, _ => some i
      | none, some e => some e.1
      | none, none => none
    { s with stepm := { s.stepm with strag := { g with runs := runs, named := named } } }

/-- The slot whose first round runs or is over. -/
def State.voteSlot (s : State) : Option (Nat × Vote) :=
  (List.range 2).findSome? fun j =>
    let k := s.slot j
    if k.st == .vote && k.round == 1 && !k.passed then k.vote.map fun v => (j, v) else none

/-- The first round fails (R368). -/
def State.voteFail (s : State) (j : Nat) : State := ((s.wsEnd j).voteTally j).abortSlot j 0x08 0 true

/-- VOTE_ROUND1_END (R368): every record is here and is judged. -/
def execVoteRound1End (s : State) : Host.Outcome State Fault Refusal :=
  .next (match s.voteSlot with
    | none => s
    | some (j, v) =>
      let k := s.slot j
      if k.gathered ≠ some true then s
      else match s.roundRecs k v with
        | none => s.voteFail j
        | some recs =>
          let t := s.voteTally j
          let k := t.slot j
          let bad := (List.range recs.length).find? fun i =>
            let r := recs.getD i []
            !(s.recOurs k r) || wfld r 4 14 0 != (v.parts.map Part.rank).getD i 0
          let unsound := (List.range recs.length).find? fun i => wfld (recs.getD i []) 0 31 31 == 0
          match bad, unsound with
          | some i, _ => (t.setErr .step 2).abortSlot j 0x02 i true
          | none, some i => t.abortSlot j 0x01 i true
          | none, none => (t.setSlot j { k with passed := true, recs := recs }).stragJudge recs)

/-- VOTE_TIMEOUT (R368): the first round has failed, or has not ended within `VOTE_TO`. -/
def execVoteTimeout (s : State) : Host.Outcome State Fault Refusal :=
  .next (match s.voteSlot with
    | none => s
    | some (j, v) =>
      let k := s.slot j
      match k.gathered with
      | some true => s
      | some false => s.voteFail j
      | none => (s.advance (Table.get (fun _ => 0) k.times 14) (v.voteTo * 1024)).voteFail j)

/-! ### SEAL (R369, R372) -/

/-- `SEAL_SIZE` in bytes, and the seal of slot `j` at way `w`. -/
def State.sealSize (s : State) : Nat := max 1 (s.field .oxb 0x134 15 0) * 2 ^ 20
def State.sealAt (s : State) (j w : Nat) : Nat :=
  ((s.reg64 .oxb (0x124 + 8 * w)).toNat % 2 ^ 43 + j * s.sealSize) % 2 ^ 43

/-- The extents of a SEAL: addresses, lengths and offsets in the seal, and where the last one ends. -/
def sealExtents (ws : List W32) (n : Nat) : List (Nat × Nat × Nat) × Nat :=
  (List.range n).foldl (fun a i =>
    let len := wquad ws (4 * i + 2) 64
    (a.1 ++ [(wquad ws (4 * i) 43, len, align64 a.2)], align64 a.2 + len)) ([], 0xA11000)

/-- The header of a seal: the head of the journal slot with its cursors advanced, and the extent table. -/
def State.sealHead (s : State) (j : Nat) (k : StepSlot) (ext : List W32) : Option (List OutByte) :=
  match s.stepRead k.ctx (s.journalAt j) 0x100 with
  | .error _ => none
  | .ok bs =>
    let cur := fun c => leBytes 8 (leNat (((bs.drop (0x40 + 8 * c)).take 8).map Prod.fst) + k.advanceOf c)
    let h := bs.take 0x40 ++ clean ((List.range 8).flatMap cur) ++ bs.drop 0x80 ++ clean (wordsBytes ext)
    some (h ++ clean (List.replicate (0x1000 - h.length) 0))

/-- The parts of a seal, with their offsets; none where a part cannot be read. -/
def State.sealParts (s : State) (j : Nat) (k : StepSlot) (ext : List W32) (n : Nat) : Option (List (Nat × List OutByte)) :=
  match s.sealHead j k ext, (sealExtents ext n).1.mapM fun e => (s.ownRead e.1 e.2.1).map fun bs => (e.2.2, bs) with
  | some h, some es => some ((0, h) :: (0x1000, s.winBytes 0x400000 0xA10000) :: es)
  | _, _ => none

/-- A seal write failed after its repeats (R389, R391). -/
def State.sealBroken (s : State) : State := (s.setErr .oxb 1).stepAbort 0x04

/-- The writes of the seal's parts are made, in state `r`, or one of them could not be. -/
def State.sealSent (s : State) (ps : List (Nat × List OutByte)) (r : Option State) : State :=
  match r with
  | none => s.sealBroken
  | some t => t.event .oxb 0x05 ((ps.map fun p => ceilDiv p.2.length 64).sum * s.ways)

/-- The parts of the seal, if they could be read, go to every way. -/
def State.sealPut (s : State) (j : Nat) (r : Option (List (Nat × List OutByte))) : State :=
  match r with
  | none => s.sealBroken
  | some ps =>
    s.sealSent ps (ps.foldl (fun o p => o.bind fun t =>
      t.putWays j .seal (s.slot j).ctx (fun w => s.sealAt j w + p.1) p.2) (some s))

/-- The seal goes to every way. -/
def State.sealSend (s : State) (j : Nat) (ext : List W32) (n : Nat) : State :=
  let t := s.readFault 1 (s.slot j).ctx (s.journalAt j) 0x100
  let t := (sealExtents ext n).1.foldl (fun t e => t.ownFault 1 e.1 e.2.1) t
  t.sealPut j (s.sealParts j (s.slot j) ext n)

/-- STEP_SEAL (R369, R372, R379): with `EN` at 0 the second round follows at once. -/
def execStepSeal (s : State) : Host.Outcome State Fault Refusal :=
  .next (s.stepTakeIn 5 (fun k => k.st == .vote && k.passed) fun d j k =>
    let a := wquad d.words 2 43
    let n := wfld d.words 4 6 0
    if a % 64 ≠ 0 ∨ n = 0 ∨ 64 < n then s.stepRefuse d 7
    else match s.stepWords d.ctx a (4 * n) with
      | none => (s.readFault 1 d.ctx a (16 * n)).stepRefuse d 7
      | some ext =>
        if s.sealSize < (sealExtents ext n).2 then s.stepRefuse d 7
        else
          let t := s.stepPop.setSlot j ({ k with st := .seal, act := some d, gathered := none }.stamp 6 s.refcnt)
          if s.mirrorOn then t.sealSend j ext n else t.roundStart j 2)

/-- The slot in SEAL whose second round has not begun. -/
def State.sealSlot (s : State) : Option Nat :=
  (List.range 2).find? fun j => (s.slot j).st == .seal && !(s.slot j).pastCommit && (s.slot j).round == 1

/-- SEAL_COPY_DONE (R369): every write of the seal is confirmed; the OR of `COMPLETE` goes to the seal word. -/
def execSealCopyDone (s : State) : Host.Outcome State Fault Refusal :=
  .next (match s.sealSlot with
    | none => s
    | some j =>
      let k := s.slot j
      if k.sealRet.isSome || s.asking j fun a => a == .seal || a == .complete then s
      else match s.partner 0 with
        | none => s.sealBroken
        | some p => s.ask j .complete (orReq k.ctx p (s.sealWord j) (k.step.toNat + sealComplete)))

/-- SEAL_WORD_RETURN (R369): the OR has returned; a refused seal aborts, else the second round begins. -/
def execSealWordReturn (s : State) : Host.Outcome State Fault Refusal :=
  .next (match s.sealSlot with
    | none => s
    | some j =>
      let k := s.slot j
      match k.sealRet with
      | none => s
      | some v =>
        if v.toNat / sealRefused % 2 = 1 then s.abortSlot j 0x06 0 true
        else (s.setSlot j { k with complete := true }).roundStart j 2)

/-! ### The commit point and resolution (R369, R370) -/

/-- The commit point is reached: from here the step never aborts. -/
def State.commitPoint (s : State) (j : Nat) : State :=
  let t := (s.wsEnd j).unask fun a => a.slot == j && match a.kind with | .resolve _ => true | _ => false
  let k := t.slot j
  let t := (t.setReg .step 0x130 0).setSlot j
    ({ k with st := .seal, pastCommit := true, act := none, again := none, lack := [], answers := [] }.stamp 15 s.refcnt)
  let t := { t with stepm := { t.stepm with newest := some j } }
  match k.act with
  | some d => t.stepTally d
  | none => t

/-- OR into a seal word on this device, through its Page Map (R182): the value before. -/
def State.orHere (s : State) (a v : Nat) : State × Option W64 :=
  match s.mayServe 0 .at a with
  | .error _ => (s, none)
  | .ok (st, x) =>
    let key := memKey st x
    if a % 8 ≠ 0 ∨ s.rangePoison key 8 then (s, none)
    else
      let old := leNat (s.hbmRead key 8)
      (s.hbmWrite key (leBytes 8 (old ||| v)), some (w64 old))

/-- OR `REFUSED` into the seal word that index k named in the first round (R367, R370). -/
def State.resolveAsk (s : State) (j k : Nat) : State :=
  let w := s.slot j
  let r := w.recs.getD k []
  let dest := (wfld r 5 12 4, wfld r 5 3 0)
  let a := wquad r 6 43
  let v := w.step.toNat + sealRefused
  if dest = (s.myGroup, s.myDev) then
    let x := s.orHere a v
    x.1.setSlot j { x.1.slot j with answers := Table.set (fun _ => none) w.answers k x.2 }
  else s.ask j (.resolve k) (orReq w.ctx dest a v)

/-- Resolution (R370): every lacking index is asked. -/
def State.resolve (s : State) (j : Nat) (lack : List Nat) : State :=
  let t := (s.wsEnd j).event .step 0x06 1
  if lack.isEmpty then t.commitPoint j
  else lack.foldl (fun t k => t.resolveAsk j k) (t.setSlot j { t.slot j with round := 3, lack := lack, answers := [] })

/-- The indices whose `SEALED` record is not here: those the engine lacks, and those whose record does not say it. -/
def State.sealedLack (s : State) (k : StepSlot) (v : Vote) (missing : List Nat) : List Nat :=
  match s.roundRecs k v with
  | none => (List.range v.parts.length).filter fun i => i != v.me
  | some recs => (List.range v.parts.length).filter fun i =>
      let r := recs.getD i []
      missing.contains i || wfld r 0 31 31 == 0 || !(s.recOurs k r)

/-- The slot whose second round runs or is over. -/
def State.round2Slot (s : State) : Option (Nat × Vote) :=
  (List.range 2).findSome? fun j =>
    let k := s.slot j
    if k.st == .seal && !k.pastCommit && k.round == 2 then k.vote.map fun v => (j, v) else none

/-- VOTE_ROUND2_END (R369): every record is here; with all of them `SEALED` the commit point is reached. -/
def execVoteRound2End (s : State) : Host.Outcome State Fault Refusal :=
  .next (match s.round2Slot with
    | none => s
    | some (j, v) =>
      let k := s.slot j
      if k.gathered ≠ some true then s
      else match s.sealedLack k v [] with
        | [] => s.commitPoint j
        | l => s.resolve j l)

/-- SEALED_TIMEOUT (R370): the second round has failed, or has not ended within `SEALED_TO`. -/
def execSealedTimeout (s : State) : Host.Outcome State Fault Refusal :=
  .next (match s.round2Slot with
    | none => s
    | some (j, v) =>
      let k := s.slot j
      let running := match (s.cfl v.engine).cur with
        | some c => if c.ws = some j then some ((s.cfl v.engine).missing c) else none
        | none => none
      match k.gathered with
      | some true => s
      | some false => s.resolve j (s.sealedLack k v k.lack)
      | none =>
        let t := s.advance (Table.get (fun _ => 0) k.times 14) (v.sealedTo * 1024)
        t.resolve j (t.sealedLack k v (running.getD ((List.range v.parts.length).filter fun i => i != v.me))))

/-- The tally of a RESOLVE. -/
def State.againTally (s : State) (j : Nat) : State :=
  match (s.slot j).again with
  | some d => (s.setSlot j { s.slot j with again := none }).stepTally d
  | none => s

/-- RESOLUTION_RETURN (R370): the last answer is here, and decides. -/
def execResolutionReturn (s : State) : Host.Outcome State Fault Refusal :=
  let run := (List.range 2).find? fun j =>
    ((s.slot j).st == .seal || (s.slot j).st == .inDoubt) && !(s.slot j).pastCommit && (s.slot j).round == 3
  .next (match run with
    | none => s
    | some j =>
      if s.asking j fun a => match a with | .resolve _ => true | _ => false then s
      else
        let t := s.againTally j
        let k := t.slot j
        let ans := fun i => Table.get (fun _ => none) k.answers i
        let refused := k.lack.find? fun i => match ans i with
          | some v => v.toNat / sealComplete % 2 == 0
          | none => false
        let silent := k.lack.filter fun i => (ans i).isNone
        match refused, silent with
        | some i, _ => t.abortSlot j 0x07 i true
        | none, [] => t.commitPoint j
        | none, i :: _ =>
          ((t.setSlot j { k with st := .inDoubt, round := 2, lack := silent, answers := [] }).setReg .step 0x130
            (w32 (2 ^ 31 + i))).setErr .step 3)

/-- STEP_RESOLVE (R370): the ORs still unanswered are repeated. -/
def execStepResolve (s : State) : Host.Outcome State Fault Refusal :=
  .next (s.stepTakeIn 9 (fun k => k.st == .inDoubt && k.round == 2) fun d j k =>
    (s.stepPop.setSlot j { k with again := some d }).resolve j k.lack)

/-- STEP_DECIDE (R410, R423): a write of `STEP.CTL` with `DECIDE` at 1. -/
def execStepDecide (value : W32) (s : State) : Host.Outcome State Fault Refusal :=
  .next (if !s.ready then s
    else
      let t := (s.storeBits .step 0x008 value).irqUpdate .step
      let j := fld value 29 29
      if (t.slot j).st ≠ .inDoubt then t
      else if bitOf value 30 then t.commitPoint j
      else t.abortSlot j 0x05 0 false)

/-- STRAG_CLR (R411, R423): a write of `STEP.CTL` with `STRAG_CLR` at 1. -/
def execStragClr (value : W32) (s : State) : Host.Outcome State Fault Refusal :=
  .next (if !s.ready then s
    else
      let t := (s.storeBits .step 0x008 value).irqUpdate .step
      { t with stepm := { t.stepm with strag := {} } })

/-! ### COMMIT (R373, R374) -/

/-- A commit-time update met a poisoned granule: a commit fault (R543, R391). -/
def State.commitFault (s : State) (bad : Bool) : State := if bad then (s.setErr .scl 3).escalate 0x04 else s

/-- The enabled Scale and Norm entries of the layers that `sel` picks are updated (R70, R143). -/
def State.layerUpdate (s : State) (j : Nat) (sel : Nat → Bool) : State :=
  if !s.windowOk then s
  else
    let live := (List.range 4096).filter fun i =>
      !(s.winPoison (normOff i + 0x80)) && s.normLive i j && sel (fld (s.winWord (normOff i + 0x8C)) 31 20)
    let k := s.slot j
    let t := s.setSlot j { k with folded := live.foldl (fun m i => NatSet.add i m) k.folded }
    let a := t.scaleCommit j sel
    let b := a.1.normCommit j sel
    b.1.commitFault (a.2 || b.2)

/-- STEP_LAYER (R373): it waits for the commit point and `INIT_DONE`; the first one moves the slot into COMMIT. -/
def execStepLayer (s : State) : Host.Outcome State Fault Refusal :=
  .next (s.stepTakeIn 6 (fun k => k.st == .seal || k.st == .commit) fun d j k =>
    let l := wfld d.words 2 11 0
    if !k.pastCommit || !(s.flag .oxb 0x144 31) then s.stepWait
    else
      let t := s.stepPop
      let t := if k.st = .commit then t
        else
          let u := t.setSlot j ({ k with st := .commit, layers := [0xFFF] }.stamp 7 s.refcnt)
          { u with mem := { u.mem with marking := true } }.layerUpdate j fun x => x == 0xFFF
      let t := t.setSlot j { t.slot j with layers := NatSet.add l (t.slot j).layers }
      (t.layerUpdate j fun x => x == l).stepTally d)

/-- COMMIT_END (R374); a write of the commit that waits for the copy of its page delays it (R378). -/
def execCommitEnd (s : State) : Host.Outcome State Fault Refusal :=
  .next (s.stepTakeIn 7 (fun k => k.st == .commit) fun d j k =>
    if s.mirrorWait then s
    else
      let t := s.stepPop.layerUpdate j fun x => !(k.layers.has x)
      let f := (t.slot j).folded
      let n := if t.windowOk then t.noiseCommit j (mbTokens k.toks) f.has else (t, false)
      let x := n.1.expertCommit j
      let t := (x.1.commitFault (n.2 || x.2)).cursorsAdvance k
      let t := ((t.setReg .step 0x10C k.step).pendingDrop j).accClear j
      let t := t.setSlot j ({ t.slot j with st := .mirror }.stamp 8 s.refcnt)
      let t := (({ t with mgmt := { t.mgmt with commits := t.mgmt.commits + 1 } }.event .step 0x02 1).mirrorCommit
        k.step).digAtCommit k.step
      (t.stepTally d).mirrorClose)

/-! ### The end of an aborted step (R382, R392) -/

/-- What the aborted step of slot `j` still had under way ends: its accesses, its Cairn checks (R453), its first round. -/
def State.abortScrub (s : State) (j : Nat) : State :=
  let t := (s.unask fun a => a.slot == j && a.kind.ofStep).voteTally j
  (t.checks.filter fun x => x.jslot == some j).foldl State.abandonSample t

/-- STEP_END_SKIP (R382). -/
def execStepEndSkip (s : State) : Host.Outcome State Fault Refusal :=
  .next (s.stepTake (fun w => sdAction w == 8 && sdFlag w) fun d =>
    let j := sdSlot d.words
    let k := s.slot j
    if k.st ≠ .aborted then s.stepRefuse d 3
    else ((((s.stepPop.abortScrub j).cursorsAdvance k).setReg .step 0x10C k.step).closeSlot j).stepTally d)

/-- STEP_END_DROP (R382). -/
def execStepEndDrop (s : State) : Host.Outcome State Fault Refusal :=
  .next (s.stepTake (fun w => sdAction w == 8 && !(sdFlag w)) fun d =>
    let j := sdSlot d.words
    let k := s.slot j
    if k.st ≠ .aborted then s.stepRefuse d 3
    else (((s.stepPop.abortScrub j).setReg .step 0x108 k.step).closeSlot j).stepTally d)

/-- STEP_ABORT_ACTION (R358). -/
def execStepAbortAction (s : State) : Host.Outcome State Fault Refusal :=
  .next (s.stepTakeIn 10 StepSlot.abortable fun d j _ => (s.stepPop.abortSlot j 0x05 0 true).stepTally d)

/-- A core executes or waits under context `c`, or is core 0 (R392). -/
def State.signalled (s : State) (n c : Nat) : Bool :=
  let k := s.core n
  !(s.firmCore n) && (n == 0 || (k.ctx == c && k.busy))

/-- Engine `e` ends every collective of context `c`, running or queued (R392, R416). -/
def State.collsEnd (s : State) (c e : Nat) : State :=
  let k := s.cfl e
  let core := s.core (69 + e)
  let gone := core.inq.filter fun d => d.ctx == c
  let t := s.setCore (69 + e) { core with inq := core.inq.filter fun d => d.ctx != c }
  let t := (t.setCfl e { k with
    wsq := k.wsq.filter fun x => x.desc.ctx != c
    msgs := k.msgs.filter fun m => !(gone.any fun d => cdId d.words == m.coll) }).tableDrop e fun x => x == c
  match k.cur with
  | some x => if x.desc.ctx = c then t.collDrop e else t
  | none => t

/-- STEP_DRAIN_DONE (R392, R453): steps 3 to 5 are done. -/
def execStepDrainDone (s : State) : Host.Outcome State Fault Refusal :=
  .next (match s.stepm.draining with
    | none => s
    | some (j, c) =>
      let t := (List.range 8).foldl (fun t e => t.collsEnd c e) s
      let t := if (t.slot j).st = .aborted then t.abortScrub j else t
      let t := (List.range 77).foldl (fun t n => if t.signalled n c then t.raiseAsync n (causeWord 0 0 0 c 0x0E) else t) t
      { t with stepm := { t.stepm with draining := none } })

/-! ### Registers (R384, R386) -/

/-- Both slots are FREE. -/
def State.slotsFree (s : State) : Bool := !s.stepOpen

/-- NEXT_STEP_WRITE (R384, R411). -/
def execNextStepWrite (value : W32) (s : State) : Host.Outcome State Fault Refusal :=
  .next (if !s.ready then s
    else if !s.slotsFree then s.setErr .step 4
    else
      let t := (s.setReg .step 0x108 value).setReg .step 0x10C (value - 1)
      { t with stepm := { t.stepm with strag := { t.stepm.strag with rounds := 0 } } })

/-- CURSOR_WRITE (R386): a 64-bit write, or the `_HI` write of a pair, whose low half is the held word (R37). -/
def execCursorWrite (k : Fin 8) (wide : Bool) (value : W64) (s : State) : Host.Outcome State Fault Refusal :=
  let a := Page.base .hdw + 0x110 + 8 * k.val
  let v := if wide then value else join64 (lo32 value) (Table.get (fun _ => 0) s.io.held a)
  .next (if !s.ready then s
    else if !s.slotsFree then s.setErr .hdw 1
    else
      let t := if wide then { s with io := { s.io with held := Table.set (fun _ => 0) s.io.held a (lo32 value) } } else s
      t.setReg64 .hdw (0x110 + 8 * k.val) v)

/-! ### Answers of accesses at other devices -/

/-- How often a failed access of a kind is repeated: token data, journal copies and the seal word under `CH_CFG.RETRY` of
Headwater's channel (R276, R361), pages and seals 3 times (R377), atomics never (R297). -/
def State.askRetries (s : State) : AskKind → Nat
  | .tokens _ | .copy | .word => s.field (.dma (s.field .hdw 0x108 12 8)) 0x100 14 12
  | .seal | .page _ | .tag _ | .remirror => 3
  | .complete | .refuse _ | .resolve _ => 0

/-- The seal word after an OR, as its answer brings it. -/
def orValue (bs : List OutByte) : W64 := w64 (leNat (bs.map Prod.fst))

/-- An access has ended for good. -/
def State.askDone (s : State) (a : Ask) (ok : Bool) (bs : List OutByte) : State :=
  let j := a.slot
  let k := s.slot j
  match a.kind with
  | .tokens o =>
    if k.st ≠ .opening then s
    else if !ok then s.copyFail j
    else
      let x := s.stepWrite k.ctx o bs
      if x.2 then x.1.openCopies j else x.1.copyFail j
  | .copy | .word => if k.st = .opening ∧ !ok then s.copyFail j else s
  | .seal => if k.st = .seal ∧ !k.pastCommit ∧ !ok then s.sealBroken else s
  | .complete =>
    if k.st ≠ .seal then s else if ok then s.setSlot j { k with sealRet := some (orValue bs) } else s.stepAbort 0x04
  | .refuse fl => s.sendFlood fl
  | .resolve i =>
    if k.round ≠ 3 then s
    else s.setSlot j { k with answers := Table.set (fun _ => none) k.answers i (if ok then some (orValue bs) else none) }
  | .page m =>
    if !ok then s.mirrorFail
    else if s.oxb.sending = some m ∧ !(s.asking j fun x => x == .page m) then s.sendTag m else s
  | .tag _ | .remirror => if ok then s else s.mirrorFail

/-- The answer to an access of the step machinery: its status, none for a timeout; a failed one is repeated (R276, R377). -/
def State.stepAnswer (s : State) (key : Nat) (status : Option Nat) (bs : List OutByte) : State :=
  match s.stepm.asks.find? fun a => a.key == key with
  | none => s
  | some a =>
    let t := s.unask fun x => x.key == key
    if status = some 0 then t.askDone a true bs
    else if a.tries < s.askRetries a.kind then
      let m := t.stepm
      let r := { a.req with who := .step m.nextKey }
      let b : Ask := { key := m.nextKey, slot := a.slot, kind := a.kind, req := r, tries := a.tries + 1 }
      let t := match a.kind with
        | .page _ | .tag _ => t.event .oxb 0x06 1
        | _ => t
      { t with stepm := { m with nextKey := m.nextKey + 1, asks := m.asks ++ [b] } }.submit r
    else t.askDone a false []

/-- An abort flood of this job arrives (R371, R394). -/
def State.abortFloodGot (s : State) (origin : Nat) (job : W64) (step : W32) : State :=
  let hit := (List.range 2).find? fun j => (s.slot j).abortable && (s.slot j).step == step
  match hit, decide (job = s.reg64 .step 0x100) with
  | some j, true => s.abortSlot j 0x03 origin false
  | _, _ => s.event .step 0x07 1

end Sys2Proof.Machine
end

