-- ==== Sys2Proof/Machine/Ladder.lean ====
section
/-! DEFINITION. The escalation ladder: op timeouts (R414), context aborts (R416), quiesces (R417, R418), requests for a chip
reset and a power cycle (R419, R420), chip reset. -/
namespace Sys2Proof.Machine

/-! ### Context abort (R416) -/

/-- The window of the context enters FAULTED with reason 0x08 unless it is DISABLED. -/
def State.abortWin (s : State) (c : Nat) : State :=
  let t := s.winFault c 0x08 (s.win c).next
  if (t.win c).st = .faulted then t.setWin c { t.win c with ref := none } else t

/-- The descriptors of the context that wait in queues are removed. -/
def notOf (c : Nat) (l : List Desc) : List Desc := l.filter fun d => d.ctx != c

/-- A core that waits in an `ISSUE` of such a descriptor waits no longer: the exception of the abort comes (R234); in its
handler, where exceptions stay pending, it performs the `ISSUE` again. -/
def Core.loseDesc (k : Core) (c : Nat) (now : W64) : Core :=
  if k.heldDesc.any fun d => d.ctx == c then
    if k.inTrap then k.endWait now else { k with heldDesc := none }
  else k

def State.abortCoreQ (s : State) (c n : Nat) : State :=
  let k := (s.core n).loseDesc c s.refcnt
  s.setCore n { k with inq := notOf c k.inq }

/-- A running DMA descriptor stops at its next access boundary (R277); a halted one waits for its RESUME or ABORT. -/
def State.abortDma (s : State) (c n : Nat) : State :=
  let k := s.dma n
  let k1 := { k with inq := notOf c k.inq }
  match k.acc with
  | [] => s.setDma n k1
  | d :: rest =>
    if d.ctx = c ∧ k.st = .active then s.setDma n ({ k1 with acc := notOf c rest }.begin s.refcnt)
    else s.setDma n { k1 with acc := d :: notOf c rest }

/-- The chunks of a fetch op that are not issued are dropped; its tally does not increment. -/
def State.abortFetch (s : State) (n : Nat) (o : FetchOp) : State :=
  if fdRows o.desc.words ≤ o.row then s
  else (s.putFetch n { o with row := fdRows o.desc.words, off := 0, xfault := true }).fetchEnd n o.id

def State.abortRidge (s : State) (c n : Nat) : State :=
  let r := s.ridge n
  let t := s.setRidge n { r with tileIn := notOf c r.tileIn, brookIn := notOf c r.brookIn, fetchIn := notOf c r.fetchIn }
  (r.fetchOps.filter fun o => o.desc.ctx == c).foldl (fun t o => t.abortFetch n o) t

/-- An operation of the context is abandoned; a Ridge whose sequencer has not taken its share owes it no longer. -/
def State.abortDie (s : State) (c k : Nat) : State :=
  s.setDie k (((s.die k).filter fun r => r.desc.ctx != c || r.phase != 0).map fun r =>
    if r.desc.ctx = c then
      { r with abandoned := true, owing := r.owing.filter fun n => !(s.shareWaits n r) }
    else r)

def State.abortCfl (s : State) (c e : Nat) : State :=
  let t := s.collsEnd c e
  t.setCfl e { t.cfl e with xq := (t.cfl e).xq.filter fun x => x.stock || x.desc.ctx != c }

/-- The core takes exception 0x0E (R233): its current context is the one aborted. -/
def State.abortSignal (s : State) (c n : Nat) : State :=
  let k := s.core n
  if !(s.firmCore n) && k.ctx == c && k.busy then s.raiseAsync n (causeWord 0 0 0 c 0x0E) else s

/-- The context of the step that can still abort, or that commits. -/
def State.stepCtx (s : State) (c : Nat) : Bool :=
  let hit (k : StepSlot) : Bool := (k.abortable || k.committing) && k.ctx == c
  hit s.stepm.s0 || hit s.stepm.s1

/-- Context `c` is aborted (R416). -/
def State.abortCtx (s : State) (c : Nat) : State :=
  let step := s.stepCtx c
  let t := s.abortWin c
  let t := (List.range 4).foldl (State.abortDie · c ·) t
  let t := (List.range 77).foldl (State.abortCoreQ · c ·) t
  let t := (List.range 4).foldl State.settleOps t
  let t := (List.range 64).foldl (State.abortRidge · c ·) t
  let t := (List.range 32).foldl (State.abortDma · c ·) t
  let t := (List.range 8).foldl (State.abortCfl · c ·) t
  let t := if t.stepm.q.head?.any fun d => d.ctx == c then t.setTread 8 none else t
  let t := { t with stepm := { t.stepm with q := notOf c t.stepm.q } }
  let t := (List.range 77).foldl (State.abortSignal · c ·) t
  if step then t.stepAbort 0x04 else t

/-- The accepted ops of a context, as Ridge and number. -/
def State.opsOf (s : State) (c : Nat) : List (Nat × Nat) :=
  (List.range 64).flatMap fun n =>
    let r := s.ridge n
    ((r.tileOps.filter fun o => o.desc.ctx == c).map fun o => (n, o.id)) ++
    ((r.brookOps.filter fun o => o.desc.ctx == c).map fun o => (n, o.id)) ++
    ((r.fetchOps.filter fun o => o.desc.ctx == c).map fun o => (n, o.id))

/-- Op `x` of a Ridge is still accepted. -/
def State.opLives (s : State) (x : Nat × Nat) : Bool :=
  let r := s.ridge x.1
  (r.tileOps.any fun o => o.id == x.2) || (r.brookOps.any fun o => o.id == x.2) || (r.fetchOps.any fun o => o.id == x.2)

/-- `CWN.CTL.ABORT` reads 1: an item of the last abort is not done (R416). -/
def State.abortBusy (s : State) : Bool := s.lad.aborting.any s.opLives

/-- A context that a write names through the sub-aperture of another partition (R416). -/
def State.foreign (s : State) (part : Option (Fin 4)) (c : Nat) : Bool :=
  part.any fun q => decide (s.partCount ≤ q.val) || s.partOfCtx c != q.val

/-- CONTEXT_ABORT (R416, R422): a write of `CWN.CTL` with `ABORT`, through the whole of BAR0 or through the sub-aperture of
a partition. -/
def execContextAbort (part : Option (Fin 4)) (value : W32) (s : State) : Host.Outcome State Fault Refusal :=
  let v := setBit value 31 true
  .next (if !s.ready || s.foreign part (fld value 21 16) then s
    else if s.abortBusy then ((s.storeBits .cwn 0x008 (setFld v 21 16 (s.field .cwn 0x008 21 16))).irqUpdate .cwn)
    else
      let t := (s.storeBits .cwn 0x008 v).irqUpdate .cwn
      let c := fld value 21 16
      let u := t.abortCtx c
      { u with lad := { u.lad with aborting := u.opsOf c } })

/-! ### Op timeout (R414) -/

/-- The context and the start of an op, and the op taken out of its Ridge. -/
def State.opAt (s : State) (n : Nat) (kind : OpKind) (i : Nat) : Option (Nat × W64 × State) :=
  let r := s.ridge n
  match kind with
  | .tile => r.tileOps[i]?.map fun o =>
      let t := s.endTile n o
      (o.desc.ctx, o.since, match o.mate.bind (t.ridge n).tileOp? with
        | some m => t.endTile n m
        | none => t)
  | .brook => r.brookOps[i]?.map fun o =>
      (o.desc.ctx, o.since, s.setRidge n { r with brookOps := r.brookOps.filter fun x => x.id != o.id })
  | .fetch => r.fetchOps[i]?.map fun o => (o.desc.ctx, o.since, s.dropFetch n o.id)

/-- OP_TIMEOUT (R414): an accepted op has not completed within `OP_TIMEOUT` × 65,536 reference counts; 0 disables. -/
def execOpTimeout (ridge : Fin 64) (kind : OpKind) (op : Fin 64) (s : State) : Host.Outcome State Fault Refusal :=
  let n := ridge.val
  let lim := s.field (.rdg n) 0x008 27 16 * 65536
  .next (match decide (lim = 0), s.opAt n kind op.val with
    | false, some (c, since, t) =>
      let u := t.advance since lim
      ((u.setRidge n { u.ridge n with opHung := true }).abortCtx c).stepAbort 0x04
    | _, _ => s)

/-! ### Quiesces (R417, R418) -/

/-- The contexts of a list without repeats. -/
def ctxSet (l : List Nat) : NatSet := l.foldl (fun m c => NatSet.add c m) []

/-- The contexts that a Ridge works for. -/
def State.ridgeCtxs (s : State) (n : Nat) : NatSet :=
  let r := s.ridge n
  let k := s.core (5 + n)
  ctxSet ((if k.busy then [k.ctx] else []) ++ (k.inq ++ r.tileIn ++ r.brookIn ++ r.fetchIn).map Desc.ctx ++
    (r.tileOps.map fun o => o.desc.ctx) ++ (r.brookOps.map fun o => o.desc.ctx) ++ (r.fetchOps.map fun o => o.desc.ctx))

/-- The contexts whose descriptors a DMA channel holds. -/
def State.dmaCtxs (s : State) (c : Nat) : NatSet := ctxSet (((s.dma c).inq ++ (s.dma c).acc).map Desc.ctx)

/-- The contexts that a Confluence engine works for. -/
def State.cflCtxs (s : State) (e : Nat) : NatSet :=
  let k := s.cfl e
  let core := s.core (69 + e)
  ctxSet ((if core.busy && !(s.firmCore (69 + e)) then [core.ctx] else []) ++ core.inq.map Desc.ctx ++
    (((s.tread e).map TableRead.coll).toList ++ k.cur.toList).map (fun c => c.desc.ctx) ++ (k.wsq.map fun c => c.desc.ctx) ++ (k.xq.map fun x => x.desc.ctx))

/-- Every Cairn check whose checker or arbiter is Ridge `n` is abandoned (R453). -/
def State.quiesceChecks (s : State) (n : Nat) : State :=
  (s.checks.filter fun c => c.chk == n || c.arb == some n).foldl State.abandonSample s

/-- Ridge `n` is to quiesce: its sequencer stops; the scrub follows when its accepted ops have ended (R417). -/
def State.quiesceRidge (s : State) (n : Nat) : State :=
  let t := (s.ridgeCtxs n).foldl State.abortCtx s
  let t := (t.quiesceChecks n).runStop (5 + n)
  let t := t.setRidge n { t.ridge n with quiescing := true, opHung := false }
  ({ t with lad := { t.lad with since := Table.set (fun _ => 0) t.lad.since n t.refcnt } }.setFlag (.rdg n) 0x008 31 true)

/-- DMA channel `c` quiesces (R417). -/
def State.quiesceDma (s : State) (c : Nat) : State :=
  let t := (s.dmaCtxs c).foldl State.abortCtx s
  let k := { t.dma c with inq := [], acc := [] }.begin t.refcnt
  (t.dmaClear c).setDma c { k with quiesced := true }

/-- Confluence engine `e` quiesces (R417). -/
def State.quiesceCfl (s : State) (e : Nat) : State :=
  let t := (s.cflCtxs e).foldl State.abortCtx s
  let t := t.runStop (69 + e)
  let t := t.setCore (69 + e) { (t.core (69 + e)).scrubbed with inq := [] }
  let k := t.cfl e
  (t.setTread e none).setCfl e { nextId := k.nextId, quiesced := true }

/-- RIDGE_QUIESCE (R417, R424): a write of `RDG.CTL` with `QUIESCE`. -/
def execRidgeQuiesce (ridge : Fin 64) (value : W32) (s : State) : Host.Outcome State Fault Refusal :=
  let n := ridge.val
  .next (if !s.ready then s
    else
      let t := (s.storeBits (.rdg n) 0x008 value).irqUpdate (.rdg n)
      if (t.ridge n).quiescing then t.setRidge n { t.ridge n with opHung := false } else (t.quiesceRidge n).stepAbort 0x04)

/-- DMA_QUIESCE (R417, R424): a write of `CTL` of a channel's page with `QUIESCE`. -/
def execDmaQuiesce (c : Fin 32) (value : W32) (s : State) : Host.Outcome State Fault Refusal :=
  .next (if !s.ready then s
    else ((((s.storeBits (.dma c.val) 0x008 value).irqUpdate (.dma c.val)).quiesceDma c.val).stepAbort 0x04))

/-- CFL_QUIESCE (R417, R424): a write of `CTL` of an engine's page with `QUIESCE`. -/
def execCflQuiesce (e : Fin 8) (value : W32) (s : State) : Host.Outcome State Fault Refusal :=
  .next (if !s.ready then s
    else ((((s.storeBits (.cfl e.val) 0x008 value).irqUpdate (.cfl e.val)).quiesceCfl e.val).stepAbort 0x04))

/-- Partition `p` quiesces (R418). -/
def State.quiescePart (s : State) (p : Nat) : State :=
  let t := ((List.range 64).filter fun c => s.partOfCtx c == p).foldl State.abortCtx s
  let t := ((List.range 64).filter fun n => s.partOfDie (n / 16) == p).foldl State.quiesceRidge t
  let t := (s.diesOf p).foldl (fun t k =>
    let u := t.runStop (1 + k)
    u.setCore (1 + k) (u.core (1 + k)).scrubbed) t
  let t := ((List.range 32).filter fun c => s.field (.dma c) 0x100 17 16 == p).foldl State.quiesceDma t
  let t := if s.stepOwner = p then { (t.runStop 0).setTread 8 none with stepm := { t.stepm with q := [] } } else t
  t.stepAbort 0x04

/-! ### Requests for escalation (R419 to R421) -/

/-- `ESC_GO` carries out level 4 (R419): a request is recorded unless one is pending, and the tray controller is asked. -/
def State.goChipReset (s : State) : State := (s.escalate 0x05).askTray 4

/-- The firmware asks for a power cycle (R420): PWR_REQ# stays asserted until a rail falls. -/
def State.goPowerCycle (s : State) : State :=
  let t := (s.escRecord 5 0x05).askTray 5
  { t with mgmt := { t.mgmt with pwrReq := true } }

/-- A write of `DEV.CTL` (R421). -/
def State.devCtl (s : State) (v : W32) : State :=
  let busy := s.flag .dev 0x008 31
  let keep := if busy then setFld v 17 16 (s.field .dev 0x008 17 16) else v
  let t := (s.storeBits .dev 0x008 keep).irqUpdate .dev
  let p := fld v 17 16
  let t := if bitOf v 31 && !busy && decide (p < s.partCount) then
      (((t.setFlag .dev 0x008 31 true).setFlag .dev 0x00C (16 + p) false).quiescePart p).partDone
    else t
  if bitOf v 29 then (if bitOf v 28 then t.goPowerCycle else t.goChipReset) else t

/-- PARTITION_QUIESCE (R418, R421): a write of `DEV.CTL` with `PQ_GO`. -/
def execPartitionQuiesce (value : W32) (s : State) : Host.Outcome State Fault Refusal :=
  .next (if !s.ready then s else s.devCtl (setBit value 31 true))

/-- ESC_GO_CHIP_RESET (R419, R421): a write of `DEV.CTL` with `ESC_GO` and `ESC_LVL` 0. -/
def execEscGoChipReset (value : W32) (s : State) : Host.Outcome State Fault Refusal :=
  .next (if s.plat.held || s.asleep then s else s.devCtl (setBit (setBit value 29 true) 28 false))

/-- ESC_GO_POWER_CYCLE (R420, R421): a write of `DEV.CTL` with `ESC_GO` and `ESC_LVL` 1. -/
def execEscGoPowerCycle (value : W32) (s : State) : Host.Outcome State Fault Refusal :=
  .next (if s.plat.held || s.asleep then s else s.devCtl (setBit (setBit value 29 true) 28 true))

/-- QUIESCE_TIMEOUT (R419): a quiesce has not completed 100,000,000 reference counts after its request; while `ESC_HOLD` keeps
the device from its reset, the results of the Ridge are unpredictable. -/
def execQuiesceTimeout (ridge : Fin 64) (s : State) : Host.Outcome State Fault Refusal :=
  let n := ridge.val
  .next (if !(s.ridge n).quiescing then s
    else
      let t := (s.advance (Table.get (fun _ => 0) s.lad.since n) 100000000).escalate 0x03
      if t.flag .dev 0x008 30 then t.wreck (.rdg n) else t)

/-! ### Chip reset (R419) -/

/-- Chip reset: every island and every register; the board flash, the fuses and what the board drives survive. PWR_REQ# stays
low until a rail falls (R532), and the boundary register belongs to the TAP (R540). -/
def State.chipReset (s : State) : State :=
  { pending := s.pending, out := s.out, free := s.free, board := s.board
    mgmt := { pwrReq := s.mgmt.pwrReq }
    plat := { railsOut := s.plat.railsOut, perst := s.plat.perst, trip := s.plat.trip, tap := s.plat.tap, bsr := s.plat.bsr } }

/-- CHIP_RESET (R419, R503). -/
def execChipReset (cause : ResetCause) (s : State) : Host.Outcome State Fault Refusal :=
  .next (match cause with
    | .perst => { s.chipReset with plat := { s.chipReset.plat with perst := true } }
    | .hotReset => if s.host.linkUp then s.chipReset else s)

/-- PCIE_LINK_LOSS (R503): the loss of a link that had reached DL_Active causes a chip reset. -/
def execPcieLinkLoss (s : State) : Host.Outcome State Fault Refusal := .next (if s.host.linkUp then s.chipReset else s)

end Sys2Proof.Machine
end

