-- ==== Sys2Proof/Machine/Link.lean ====
section
/-! DEFINITION. The Dzimas ports below the transactions: roles (R283, R287), flits and headers (R288 to R290), credits and
link retry (R291 to R293), fences (R312, R313), routes (R300 to R302). -/
namespace Sys2Proof.Machine

/-! ### Roles and positions (R283, R284, R287, R307) -/

/-- The role index of a port (R283). -/
def portIndex (p : Nat) : Nat := if p < 8 then p else if p < 16 then p - 8 else if p < 18 then p - 16 else
  if p < 25 then p - 10 else if p < 33 then p - 17 else p - 31

/-- The port that `p` acts as: a flex port with `SUBST` stands in for `SUBST_PORT` (R287). -/
def State.portAs (s : State) (p : Nat) : Nat :=
  if portRole p = 2 && s.flag (.prt p) 0x100 15 then s.field (.prt p) 0x100 13 8 else p

/-- The group position that group index `i` of this device is cabled to (R284). -/
def State.mateOf (s : State) (i : Nat) : Nat :=
  if i < 7 then 8 * s.myHalf + (s.mySlot + 1 + i) % 8 else 8 * (1 - s.myHalf) + (s.mySlot + (i - 7)) % 8

/-- The straps give no valid position (R307, R535): even parity, or a group above 256. -/
def State.posBad (s : State) : Bool := popCount 14 s.strap.toNat % 2 == 0 || decide (256 < s.myGroup)

/-! ### Headers and slots (R290) -/

/-- The granules, one to a slot, that the bytes of a transaction touch. -/
def slotCount (a n : Nat) : Nat := (granules a n).length

/-- A header from its fields. -/
def txHeader (kind rop : Nat) (wide : Bool) (hops : Nat) (detour : Bool) (tag sg sd dg dd dp a len : Nat) (arg : W32)
    (body : List W32) : List W32 :=
  [w32 (kind * 2 ^ 28 + rop * 2 ^ 24 + wide.toNat * 2 ^ 23 + hops * 2 ^ 20 + detour.toNat * 2 ^ 19 + tag),
   w32 (sg * 2 ^ 23 + sd * 2 ^ 19 + dg * 2 ^ 10 + dd * 2 ^ 6 + dp), w32 a,
   w32 ((len - 1) % 2048 * 2 ^ 20 + a / 2 ^ 32 % 2048), arg] ++ (List.range 11).map fun i => wordAt body i

def thKind (h : List W32) : Nat := wfld h 0 31 28
def thRop (h : List W32) : Nat := wfld h 0 27 24
def thWide (h : List W32) : Bool := wfld h 0 23 23 == 1
def thHops (h : List W32) : Nat := wfld h 0 22 20
def thDetour (h : List W32) : Bool := wfld h 0 19 19 == 1
def thTag (h : List W32) : Nat := wfld h 0 10 0
def thSrcGroup (h : List W32) : Nat := wfld h 1 31 23
def thSrcDev (h : List W32) : Nat := wfld h 1 22 19
def thDstGroup (h : List W32) : Nat := wfld h 1 18 10
def thDstDev (h : List W32) : Nat := wfld h 1 9 6
def thDstPort (h : List W32) : Nat := wfld h 1 5 0
def thAddr (h : List W32) : Nat := (wordAt h 2).toNat + wfld h 3 10 0 * 2 ^ 32
def thLen (h : List W32) : Nat := wfld h 3 30 20 + 1
def thArg (h : List W32) : W32 := wordAt h 4
def thBody (h : List W32) : List W32 := (List.range 11).map fun i => wordAt h (5 + i)

/-- A header with its hop count and detour mark replaced. -/
def thSet (h : List W32) (hops : Nat) (detour : Bool) : List W32 :=
  h.set 0 (setFld (setFld (wordAt h 0) 22 20 hops) 19 19 detour.toNat)

/-- The header is malformed (R292, R297): an unused `KIND` or `STATUS`, or a nonzero field that must be zero. -/
def thBad (h : List W32) : Bool :=
  let k := thKind h
  !(k ∈ [0, 1, 2, 3, 4, 5, 8]) || (k == 8 && decide (5 ≤ thRop h)) || wfld h 0 18 11 != 0 || wfld h 3 31 31 != 0 || wfld h 3 19 11 != 0 ||
  (k != 4 && k != 5 && (thArg h != 0 || (thBody h).any fun w => w != 0))

/-- The data slots of bytes at address `a`: each slot holds one granule. -/
def dataSlots (a : Nat) (bs : List Byte) (bad : NatSet) : List Slot :=
  let pad := List.replicate (a % 64) (0#8) ++ bs
  (List.range (slotCount a bs.length)).map fun i =>
    { words := leWords ((pad.drop (64 * i)).take 64) 16, hdr := false, bad := bad.has i }

/-- The bytes that data slots bring for `n` bytes at address `a`. -/
def slotBytes (a n : Nat) (ss : List Slot) : List OutByte :=
  ((ss.flatMap fun x => (wordsBytes ((List.range 16).map fun i => wordAt x.words i)).map fun b => (b, x.bad)).drop
    (a % 64)).take n

/-! ### Credits and the link (R288, R291, R293) -/

/-- The key of a class and virtual channel. -/
def vcKey (cls vc : Nat) : Nat := cls * 8 + vc

/-- Receive slots of a class and virtual channel; CTL has one channel (R293). -/
def vcAllot (cls vc : Nat) : Nat := if cls = 2 then (if vc = 0 then 256 else 0) else 240

/-- Credits held for a class and virtual channel. -/
def Port.credit (k : Port) (cls vc : Nat) : Nat := Table.get (fun x => vcAllot (x / 8) (x % 8)) k.credits (vcKey cls vc)
def Port.setCredit (k : Port) (cls vc n : Nat) : Port :=
  { k with credits := Table.set (fun x => vcAllot (x / 8) (x % 8)) k.credits (vcKey cls vc) n }

/-- Slots freed and not yet returned as credits. -/
def Port.owedAt (k : Port) (key : Nat) : Nat := Table.get (fun _ => 0) k.owed key
def Port.setOwed (k : Port) (key n : Nat) : Port := { k with owed := Table.set (fun _ => 0) k.owed key n }

/-- Received slots waiting in a class and virtual channel. -/
def Port.rx (k : Port) (cls vc : Nat) : List Slot := Table.get (fun _ => []) k.rxq (vcKey cls vc)
def Port.setRx (k : Port) (cls vc : Nat) (l : List Slot) : Port :=
  { k with rxq := Table.set (fun _ => []) k.rxq (vcKey cls vc) l }

/-- Take `n` slots out of a receive queue: they are owed as credits. -/
def Port.freeRx (k : Port) (cls vc n : Nat) : Port :=
  (k.setRx cls vc ((k.rx cls vc).drop n)).setOwed (vcKey cls vc) (k.owedAt (vcKey cls vc) + n)

/-- The credits that the next flit returns: key and units of 8 slots. -/
def Port.returns (k : Port) : Nat × Nat :=
  match k.owed.find? fun e => decide (8 ≤ e.2) with
  | some e => (e.1, min 127 (e.2 / 8))
  | none => (0, 0)

/-- A flit of a port: type, class, channel, sequence number, slots; it acknowledges and returns credits. -/
def Port.mkFlit (k : Port) (ty cls vc seq : Nat) (ss : List Slot) : Flit :=
  let r := k.returns
  let mask (f : Slot → Bool) : Nat := ((List.range ss.length).zip ss).foldl (fun m p => m + (f p.2).toNat * 2 ^ p.1) 0
  let h := seq % 65536 * 2 ^ 48 + k.rxSeq % 65536 * 2 ^ 32 + ty * 2 ^ 28 + cls * 2 ^ 26 + vc * 2 ^ 23 +
    mask Slot.hdr * 2 ^ 19 + mask Slot.bad * 2 ^ 15 + ss.length * 2 ^ 12 + r.1 / 8 * 2 ^ 10 + r.1 % 8 * 2 ^ 7 + r.2
  let bytes := beBytes 8 h ++ (List.range 4).flatMap fun i =>
    wordsBytes ((List.range 16).map fun j => wordAt ((ss.map Slot.words).getD i []) j)
  { hdr := w64 h, slots := ss.map Slot.words, crc := w64 (crc64 bytes) }

/-- The port has returned the credits of its last flit. -/
def Port.returned (k : Port) : Port := let r := k.returns; k.setOwed r.1 (k.owedAt r.1 - 8 * r.2)

/-- The queue entry that sends next: CTL, then RSP, then REQ; the first entry of each channel, with a credit. -/
def Port.nextTx (k : Port) : Option TxEnt :=
  let firsts := k.txq.filter fun e => (k.txq.find? fun x => x.cls == e.cls && x.vc == e.vc) == some e
  let ok := firsts.filter fun e => k.credit e.cls e.vc != 0
  (ok.find? fun e => e.cls == 2) <|> (ok.find? fun e => e.cls == 1) <|> ok.head?

/-- Replace the first occurrence of a queue entry. -/
def replaceTx (old : TxEnt) (new : Option TxEnt) : List TxEnt → List TxEnt
  | [] => []
  | e :: l => if e = old then new.toList ++ l else e :: replaceTx old new l

/-- Put a numbered flit of type `ty` into the replay buffer (R291): the port, and the flit that is sent. -/
def Port.sendFlit (k : Port) (ty cls vc : Nat) (ss : List Slot) : Port × Flit :=
  let seq := (k.txSeq + 1) % 65536
  let f := k.mkFlit ty cls vc seq ss
  ({ k.returned with txSeq := seq, replay := k.replay ++ [{ seq := seq, flit := f }] }, f)

/-- An IDLE flit where there are credits to return (R291, R293). -/
def Port.idleFlit (k : Port) (fs : List Flit) : Port × List Flit :=
  if k.returns.2 = 0 then (k, fs) else (k.returned, fs ++ [k.mkFlit 0 0 0 k.txSeq []])

/-- Send flits while there is replay space: the port's own first (log entry 114), then, while it is UP, DATA against credits, up
to four slots of one transaction to a flit. -/
def Port.pump : Nat → Port → List Flit → Port × List Flit
  | 0, k, fs => (k, fs)
  | fuel + 1, k, fs =>
    if !k.st.linked then (k, fs)
    else if 256 ≤ k.replay.length then k.idleFlit fs
    else match k.ctlq, (if k.st = .up then k.nextTx else none) with
      | c :: rest, _ =>
        let r := { k with ctlq := rest }.sendFlit c.1 2 0 c.2
        Port.pump fuel r.1 (fs ++ [r.2])
      | [], none => k.idleFlit fs
      | [], some e =>
        let n := min (min 4 e.slots.length) (k.credit e.cls e.vc)
        let rest := e.slots.drop n
        let r := k.sendFlit 1 e.cls e.vc (e.slots.take n)
        let k1 := r.1.setCredit e.cls e.vc (r.1.credit e.cls e.vc - n)
        let k2 := { k1 with txq := replaceTx e (if rest.isEmpty then none else some { e with slots := rest, begun := true }) k1.txq }
        Port.pump fuel k2 (fs ++ [r.2])

/-- Slots queued at a port. -/
def Port.queued (k : Port) : Nat := (k.txq.map fun e => e.slots.length).sum

/-- Send flits on port `p`; the numbered ones count (R315). -/
def State.emitFlits (s : State) (p : Nat) (fs : List Flit) : State :=
  (fs.foldl (fun t f => t.emit (.flit p f)) s).event (.prt p) 0x02 (fs.countP fun f => bits f.hdr.toNat 31 28 != 0)

/-- Let port `p` send what it can. -/
def State.pump (s : State) (p : Nat) : State :=
  let k := s.port p
  let r := Port.pump (k.queued + k.ctlq.length + 1) k []
  (s.setPort p r.1).emitFlits p r.2

/-- A numbered flit has been taken in: what is sent next acknowledges it, an IDLE flit where there is nothing else (R288). -/
def State.pumpAck (s : State) (p : Nat) : State :=
  let k := s.port p
  let r := Port.pump (k.queued + k.ctlq.length + 1) k []
  (s.setPort p r.1).emitFlits p (if r.2.isEmpty then [r.1.mkFlit 0 0 0 r.1.txSeq []] else r.2)

/-- Port `p` sends a flit of its own: type and slots (R288). -/
def State.sendOwn (s : State) (p ty : Nat) (ss : List Slot) : State :=
  (s.setPort p { s.port p with ctlq := (s.port p).ctlq ++ [(ty, ss)] }).pump p

/-- Bytes as slots, the last one filled with zeros. -/
def byteSlots (bs : List Byte) : List Slot :=
  (List.range (ceilDiv bs.length 64)).map fun i =>
    let b := (bs.drop (64 * i)).take 64
    { words := leWords (b ++ List.replicate (64 - b.length) (0 : Byte)) 16, hdr := false }

/-- Port `p` sends bytes in flits of its own, four slots to a flit (log entry 114). -/
def State.sendBytes (s : State) (p ty : Nat) (bs : List Byte) : State :=
  let ss := byteSlots bs
  (List.range (ceilDiv ss.length 4)).foldl (fun t i => t.sendOwn p ty ((ss.drop (4 * i)).take 4)) s

/-- The slot of a flit that brings one 64-bit value: words 0 and 1 (log entry 114). -/
def valueSlot (v : W64) : Slot := { words := [lo32 v, hi32 v], hdr := false }

/-- Queue a transaction at port `p`; a FLOOD goes ahead of every slot of its class that has not begun (R395). -/
def State.enqueue (s : State) (p : Nat) (e : TxEnt) : State :=
  let k := s.port p
  let q := if e.cls = 2 then (k.txq.filter fun x => x.cls == 2 && x.begun) ++ e :: k.txq.filter fun x =>
    !(x.cls == 2 && x.begun) else k.txq ++ [e]
  (s.setPort p { k with txq := q }).pump p

/-! ### Fences (R312, R313) -/

/-- The own link entries of the group link map: global index j, from the HELLO of the port that serves it until that port leaves UP
or QUARANTINE; `UP` while it is UP. A node is no link to a group (R302, R314). -/
def State.ownLink (s : State) (j : Nat) : W32 :=
  match (List.range 36).find? fun p => portRole (s.portAs p) == 1 && portIndex (s.portAs p) == j &&
      bitOf (s.port p).nbr 31 && !(bitOf (s.port p).nbr 30) with
  | some p => setBit (s.port p).nbr 30 ((s.port p).st == .up)
  | none => 0

/-- The group link map entry 16d + j (R302). -/
def State.linkEntry (s : State) (i : Nat) : W32 :=
  if i / 16 = s.myDev then s.ownLink (i % 16) else Table.get (fun _ => 0) s.fab.lmap i

/-- The ports that face a group mate and are UP. -/
def State.matePorts (s : State) : List Nat :=
  (List.range 36).filter fun p => portRole (s.portAs p) == 0 && (s.port p).st == .up

/-- Send the own link entries to every mate: one CTL slot, entry j its word j (R302, log entry 114). -/
def State.sendLinks (s : State) : State :=
  let x : Slot := { words := (List.range 16).map s.ownLink, hdr := false }
  s.matePorts.foldl (fun t p => t.enqueue p { cls := 2, vc := 0, slots := [x] }) s

/-- The port leaves UP: `LINK_DOWN` sets; what it had not begun to send is to be routed anew. What its partner proved holds for
that bring-up only (R309, R316). -/
def State.leaveUp (s : State) (p : Nat) (st : PortSt) : State :=
  let k := s.port p
  let wasUp := k.st == .up
  let unsent := k.txq.filter fun e => !e.begun && !(e.slots.all fun x => !x.hdr)
  let own := unsent.filterMap fun e => e.tag.bind fun t => k.outs.find? fun o => o.tag == t
  let k1 := { k with
    st := st, nbr := 0, peer := none, attOk := false, idOk := false, ctlq := [], txq := [], replay := [], credits := [], owed := []
    probes := [], misses := 0, nakSent := false, txSeq := 0, rxSeq := 0
    outs := k.outs.filter fun o => !(own.contains o) }
  let t := s.setPort p k1
  let t := { t with
    fwait := t.fwait ++ own.map OutTxn.req
    transit := t.transit ++ (unsent.filter fun e => e.tag.isNone).map fun e => (p, e.cls, e.slots) }
  let t := if wasUp then t.setErr (.prt p) 0 else t
  if wasUp || bitOf k.nbr 31 then t.sendLinks else t

/-- The port fences (R313): one FENCE flit, then silence; its window counts restart. -/
def State.fencePort (s : State) (p cause : Nat) : State :=
  let k := s.port p
  if k.st = .fenced then s
  else
    let f := k.mkFlit 7 2 0 (k.txSeq + 1) [{ words := [w32 cause], hdr := false }]
    let t := (s.emitFlits p [f]).leaveUp p .fenced
    let k := t.port p
    (t.setPort p { k with cause := cause, retryW := 0, malfW := 0, starveW := 0, fwW := 0, rateW := 0
                          winAt := t.refcnt }).setErr (.prt p) 5

/-- The plan entry that judges the port (R287, R316). -/
def State.planNbr (s : State) (p : Nat) : W32 := s.reg (.prt2 (s.portAs p)) 0x100

/-- The partner is absent (R306, R310, R312): the port fences with cause 0x01, or returns to DOWN without a plan entry. -/
def State.absent (s : State) (p : Nat) : State :=
  if bitOf (s.planNbr p) 31 then
    let t := s.fencePort p 0x01
    t.setPort p { t.port p with verdict := 2 }
  else
    let t := s.leaveUp p .down
    t.setPort p { t.port p with verdict := 0 }

/-! ### Routes (R300, R301) -/

/-- The port that serves the place of port `q`: a flex port that stands in for it, or `q` itself (R287). -/
def State.actor (s : State) (q : Nat) : Nat :=
  ((List.range 36).find? fun p => p != q && s.portAs p == q).getD q

/-- Port `p` can take a transaction that has made `hops` hops and will make `len` more. -/
def State.livePort (s : State) (cls hops len p : Nat) : Bool :=
  (s.port p).st == .up && (s.port p).credit cls (min hops 7) != 0 && decide (hops + len ≤ 8)

/-- The candidate with the fewest slots queued, the lowest port on a tie. -/
def State.shortest (s : State) (l : List Nat) : Option Nat :=
  l.foldl (fun b p => match b with
    | some q => if (s.port p).queued < (s.port q).queued then some p else some q
    | none => some p) none

/-- The group ports to mate `d`. -/
def State.portsTo (s : State) (d : Nat) : List Nat :=
  (List.range 36).filter fun p => portRole (s.portAs p) == 0 && s.mateOf (portIndex (s.portAs p)) == d

/-- The global ports that are UP to a device of another group which satisfies `f`. -/
def State.globals (s : State) (f : W32 → Bool) : List Nat :=
  (List.range 36).filter fun p =>
    let w := (s.port p).nbr
    portRole (s.portAs p) == 1 && (s.port p).st == .up && !(bitOf w 30) && f w

/-- The mates with a live global link whose peer satisfies `f`. -/
def State.matesWith (s : State) (f : W32 → Bool) : List Nat :=
  (List.range 16).filter fun d => d != s.myDev &&
    (List.range 16).any fun j => let e := s.linkEntry (16 * d + j); bitOf e 31 && bitOf e 30 && f e

/-- The candidates of rule 1 of R300: the group port to `d`, or where that is not UP the mates, which add a hop. -/
def State.inGroup (s : State) (cls hops d : Nat) : List Nat :=
  let direct := s.portsTo d
  if direct.any fun p => (s.port p).st == .up then direct.filter (s.livePort cls hops 1)
  else ((List.range 16).flatMap s.portsTo).filter (s.livePort cls hops 2)

/-- The minimal candidates of rules 1 to 4 of R300 for device (g, d), with the first rule that yields any. -/
def State.minimal (s : State) (cls hops g d : Nat) : List Nat :=
  let live (n : Nat) (l : List Nat) : List Nat := l.filter (s.livePort cls hops n)
  if g = s.myGroup then s.inGroup cls hops d
  else
    let r2 := live 1 (s.globals fun e => fld e 29 21 == g && fld e 20 17 == d)
    let r3 := live 2 (s.globals fun e => fld e 29 21 == g)
    let r4 := live 3 ((s.matesWith fun e => fld e 29 21 == g).flatMap s.portsTo)
    if !r2.isEmpty then r2 else if !r3.isEmpty then r3 else r4

/-- The detour candidates (R301): any live global exit of the group, counted at the most hops that a detour takes from it, 6 from an
own port and 7 by way of a mate (log entry 115). -/
def State.detours (s : State) (cls hops : Nat) : List Nat :=
  (s.globals fun _ => true).filter (s.livePort cls hops 6) ++
    ((s.matesWith fun _ => true).flatMap s.portsTo).filter (s.livePort cls hops 7)

/-- The candidates of a transaction, and whether they are those of its detour (R300, R301); `dport` names a target node of this
device (R303). -/
def State.routes (s : State) (cls hops : Nat) (detour : Bool) (g d dport : Nat) : List Nat × Bool :=
  if g = s.myGroup ∧ d = s.myDev then
    (if dport < 36 && s.livePort cls hops 1 (s.actor dport) then [s.actor dport] else [], false)
  else
    let m := s.minimal cls hops g d
    let thr := s.field (.prt2 0) 0x400 23 16 * 16
    let jam := s.flag (.prt2 0) 0x400 31 && m.all fun p => decide (thr < (s.port p).queued)
    let dt := if detour then [] else (s.detours cls hops).filter fun p => !(m.contains p)
    if m.isEmpty || (jam && !dt.isEmpty) then (dt, true) else (m, false)

/-- The transaction bears the mark of its detour once it leaves the group by it: a mate that it is sent to for its global exit
finds it unmarked (R301, log entry 115). -/
def State.marked (s : State) (r : List Nat × Bool) (detour : Bool) (p : Nat) : Bool :=
  detour || (r.2 && portRole (s.portAs p) == 1)

/-- The port a transaction takes, and whether it bears the mark of its detour there (R300, R301). -/
def State.route (s : State) (cls hops : Nat) (detour : Bool) (g d dport : Nat) : Option (Nat × Bool) :=
  let r := s.routes cls hops detour g d dport
  (s.shortest r.1).map fun p => (p, s.marked r detour p)

end Sys2Proof.Machine
end

