-- ==== Sys2Proof/Machine/Platform.lean ====
section
/-! DEFINITION. Clocks, supplies, power and heat (chapter 17), and the release of chip reset (R486, R534 to R536, R539). -/
namespace Sys2Proof.Machine

/-! ### The states of the clock inputs (R479, R480) -/

def Plat.input (p : Plat) : ClkInput → ClkIn
  | .core => p.core | .pcie => p.pcie | .watch => p.watch

def Plat.setInput (p : Plat) (i : ClkInput) (v : ClkIn) : Plat :=
  match i with
  | .core => { p with core := v } | .pcie => { p with pcie := v } | .watch => { p with watch := v }

def State.input (s : State) (i : ClkInput) : ClkIn := s.plat.input i

/-- Store an input's state; `MON_STAT` shows it (R495). -/
def State.setInput (s : State) (i : ClkInput) (v : ClkIn) : State :=
  let t := { s with plat := s.plat.setInput i v }
  t.setReg .clk 0x104
    (w32 (t.plat.core.st.code * 2 ^ 30 + t.plat.pcie.st.code * 2 ^ 28 + t.plat.watch.st.code * 2 ^ 26))

/-- The islands that the loss of an input switches to the reserve oscillator (R481). -/
def inputIslands : ClkInput → List Nat
  | .core => (List.range 124).filter fun i => i != 122
  | .pcie => [122]
  | .watch => [124]

/-- The bit of `ERR_STAT` that an input's loss sets (R496). -/
def inputBit : ClkInput → Nat
  | .core => 0 | .pcie => 1 | .watch => 2

/-- Switch islands to the reserve oscillator, or back. -/
def State.reserve (s : State) (l : List Nat) (b : Bool) : State := l.foldl (fun t i => t.setFlag .clk (islReg i) 31 b) s

/-- The reference counter changes its source (R21, R28). -/
def State.refReserve (s : State) (b : Bool) : State :=
  let n := s.field .dev 0x110 15 8
  (s.setFlag .dev 0x110 0 b).setField .dev 0x110 15 8 (if b && !(s.flag .dev 0x110 0) then min 255 (n + 1) else n)

/-- Every optical port that is not fenced or disabled changes to a state (R481, R483). -/
def State.portsGo (s : State) (from_ : PortSt → Bool) (dst : PortSt) : State :=
  (List.range 36).foldl (fun t p => if from_ (t.port p).st then t.leaveUp p dst else t) s

/-- The effects of a loss of CORE_REFCLK beside the Clock Loss event (R481), or of a release without it (R486). -/
def State.coreReserve (s : State) : State :=
  ((s.reserve (inputIslands .core) true).refReserve true).portsGo
    (fun st => !(st == .fenced || st == .disabled || st == .down)) .down

/-- The Clock Loss event (R482): the step abort, ALERT#, the message on vector 0; no mask of the device applies. Each loss sends
its own message, also while the error bit of an earlier loss stands (DEDUCED, log entry 118). After a loss of PCIE_REFCLK the message
cannot be delivered. -/
def State.clockLoss (s : State) (i : ClkInput) : State :=
  let t := (s.setErr .clk (inputBit i)).setFlag .smb 0x108 0 true
  (if i = .pcie then t else t.sendVector 0).stepAbort 0x04

/-- An input is judged lost (R480, R481): nothing but its state changes while chip reset is held. -/
def State.lose (s : State) (i : ClkInput) : State :=
  if (s.input i).st = .lost then s.setInput i { st := .lost }
  else
    let t := s.setInput i { st := .lost }
    let t := if i = .watch then (t.setInput .core {}).setInput .pcie {} else t
    if s.plat.held then t
    else
      let u := if i = .core then t.coreReserve else t.reserve (inputIslands i) true
      (u.addSat .clk 0x114 1).clockLoss i

/-- A window is judged (R480): good, lost or neither. The reference counter returns to a CORE_REFCLK judged STABLE (R21). -/
def State.judge (s : State) (i : ClkInput) (good lost : Bool) : State :=
  let t := s.event .clk 0x02 1
  if lost then t.lose i
  else
    let k := t.input i
    let u := if good then t else t.event .clk 0x03 1
    if k.st = .stable then u
    else if !good then u.setInput i { k with good := 0 }
    else if 2 ≤ k.good then
      let u := u.setInput i { st := .stable, good := 0 }
      if i = .core then u.refReserve false else u
    else u.setInput i { k with good := k.good + 1 }

/-- The distance of two counts. -/
def apart (a b : Nat) : Nat := (a - b) + (b - a)

/-- `LOSS_TOL` in counts of a window (R479, R495). -/
def State.lossTol (s : State) : Nat := 262144 * max 250 (s.field .clk 0x100 31 16) / 1000000

/-- The rails are good: the monitor runs (R479, R486). -/
def State.railsGood (s : State) : Bool := s.plat.railsOut.isEmpty

/-- CLOCK_MONITOR_WINDOW (R479, R480): a window ends with its counts; the references are judged if WATCH_OSC was STABLE when
the window began. -/
def execClockMonitorWindow (core pcie watch : W32) (s : State) : Host.Outcome State Fault Refusal :=
  let dw := apart watch.toNat 1048576
  let dc := apart core.toNat 262144
  let dp := apart pcie.toNat 262144
  .next (if !s.railsGood then s
    else
      let t := ((s.setReg .clk 0x108 core).setReg .clk 0x10C pcie).setReg .clk 0x110 watch
      let on := s.plat.watch.st == .stable
      let t := t.judge .watch (decide (dw ≤ 209715)) (decide (262144 < dw))
      if !on || t.plat.watch.st != .stable then t
      else (t.judge .core (decide (dc ≤ 52)) (decide (s.lossTol < dc))).judge .pcie (decide (dp ≤ 52)) (decide (s.lossTol < dp)))

/-- CLOCK_FAST_TEST (R479): the edges of a reference in a span of 64 WATCH_OSC cycles. -/
def execClockFastTest (pcie : Bool) (edges : BitVec 16) (s : State) : Host.Outcome State Fault Refusal :=
  .next (if s.railsGood && s.plat.watch.st == .stable && (decide (edges.toNat < 192) || decide (320 < edges.toNat)) then
      s.lose (if pcie then .pcie else .core)
    else s)

/-- WATCH_OSC_EDGE_TIMEOUT (R479): no WATCH_OSC edge for 256 reserve cycles. -/
def execWatchOscEdgeTimeout (s : State) : Host.Outcome State Fault Refusal :=
  .next (if s.railsGood then s.lose .watch else s)

/-- The code at which an island returns to its PLL: nearest to, and not above, the measured reserve frequency (R483). -/
def State.returnCode (s : State) (i : Nat) : Nat :=
  let n := 25 * (s.reg .clk 0x110).toNat
  if n = 0 then 1023 else min 1023 (ceilDiv (islPll i * 16 * 65536) n)

/-- CLOCK_RETURN (R483): a lost input is STABLE again, and its islands return. -/
def execClockReturn (input : ClkInput) (s : State) : Host.Outcome State Fault Refusal :=
  let l := (inputIslands input).filter s.islReserve
  .next (if (s.input input).st != .stable || !(s.flag .clk 0x100 0) || l.isEmpty || s.plat.held then s
    else
      let t := (s.reserve l false)
      match input with
      | .core =>
        let t := l.foldl (fun t i => if islPll i = 0 then t else t.setField .clk (islReg i) 25 16 (s.returnCode i)) t
        let t := (List.range 4).foldl State.avsUpdate t
        if t.fab.disc || t.fab.discDone then
          (List.range 36).foldl (fun t p => if (t.port p).st = .down && t.field (.prt p) 0x100 1 0 != 0 then
            t.setPort p { t.port p with st := .training, gen := 0 } else t) t
        else t
      | _ => t)

/-! ### Dividers (R476, R488) -/

/-- DIVIDER_RAMP_STEP (R476): an island's code moves by one; a Ridge becomes faster only as its die's voltage permits. -/
def execDividerRampStep (island : Fin 125) (s : State) : Host.Outcome State Fault Refusal :=
  let i := island.val
  let cur := s.islCur i
  let goal := s.islCode i
  .next (if islPll i = 0 || s.islReserve i || s.plat.held || cur == goal then s
    else
      let next := if cur < goal then cur + 1 else cur - 1
      if i < 64 ∧ next < cur ∧ s.volts (i / 16) < codeMv next then s.avsUpdate (i / 16)
      else
        let t := ((s.setField .clk (islReg i) 25 16 next).event .clk 0x04 1).judgeLimits i
        if i < 64 then t.avsUpdate (i / 16) else t)

/-- AVS_VOLTAGE_ACK (R488): the regulator supplies what was asked. -/
def execAvsVoltageAck (die : Fin 4) (s : State) : Host.Outcome State Fault Refusal :=
  let k := die.val
  .next (if !(s.plat.vWait.has k) then s
    else { s with plat := { s.plat with
      vAck := Table.set (fun _ => 750) s.plat.vAck k (s.railMv k), vWait := NatSet.del k s.plat.vWait } })

/-- AVS_TIMEOUT (R488): no acknowledgement within 100 µs, and the request is repeated. -/
def execAvsTimeout (die : Fin 4) (s : State) : Host.Outcome State Fault Refusal :=
  let k := die.val
  .next (if s.plat.vWait.has k then (s.setErr .pwr 0).avsSend k else s)

/-! ### The frequency-measuring counter (R484) -/

/-- FMC_GO (R484, R495). -/
def execFmcGo (s : State) : Host.Outcome State Fault Refusal :=
  .next (if s.asleep || s.flag .clk 0x118 29 then s
    else
      let t := (s.setReg .clk 0x124 0).setReg .clk 0x128 0
      if 129 ≤ s.field .clk 0x11C 15 8 ∨ 129 ≤ s.field .clk 0x11C 7 0 then t.setReg .clk 0x118 (w32 (2 ^ 28))
      else t.setReg .clk 0x118 (w32 (2 ^ 29)))

/-- FMC_ABORT (R484): the count ends; what it held is not stated. -/
def execFmcAbort (s : State) : Host.Outcome State Fault Refusal :=
  .next (if !s.asleep && s.flag .clk 0x118 29 then
      (((s.setReg .clk 0x118 0).setReg .clk 0x124 (Config.freeWord s.free 0)).setReg .clk 0x128
        (w32 (fld (Config.freeWord s.free 1) 7 0))).fresh
    else s)

/-- FMC_DONE (R484): the count is held. -/
def execFmcDone (count : BitVec 40) (s : State) : Host.Outcome State Fault Refusal :=
  .next (if s.flag .clk 0x118 29 then
      ((s.setReg .clk 0x118 (w32 (2 ^ 28))).setReg .clk 0x124 (w32 count.toNat)).setReg .clk 0x128 (w32 (count.toNat / 2 ^ 32))
    else s)

/-! ### Rails and the release of chip reset (R485 to R487, R534 to R536, R539) -/

/-- RAIL_OUT_OF_WINDOW (R487): a chip reset; nothing survives but the board flash and the fuses. -/
def execRailOutOfWindow (rail : Fin 11) (s : State) : Host.Outcome State Fault Refusal :=
  let t := s.chipReset
  .next { t with mgmt := {}, plat := { railsOut := NatSet.add rail.val s.plat.railsOut, perst := s.plat.perst } }

/-- RAILS_IN_WINDOW (R486): a rail is good. -/
def execRailsInWindow (rail : Fin 11) (s : State) : Host.Outcome State Fault Refusal :=
  .next { s with plat := { s.plat with railsOut := NatSet.del rail.val s.plat.railsOut } }

/-- The straps are latched (R534, R535, R541); an invalid position fences every port (R307). -/
def State.latchStraps (s : State) (straps : BitVec 14) : State :=
  let v := straps.toNat
  let g := bits v 12 4
  let par := popCount 14 v % 2 == 0
  let range := decide (256 < g)
  let bad := par || range
  let t := (s.setReg .stp 0x100 (w32 v)).setReg .stp 0x104
    (w32 ((!bad).toNat * 2 ^ 31 + par.toNat * 2 ^ 30 + range.toNat * 2 ^ 29 + bits v 12 0))
  let t := t.setReg .smb 0x100 (w32 (0x60 + v % 8))
  if !bad then t
  else (List.range 36).foldl (fun t p =>
    (t.setPort p { t.port p with st := .fenced, cause := 0x09 }).setErr (.prt p) 5) (t.setErr .stp 0)

/-- Chip reset is released (R486): PERST# is deasserted, the islands leave reset together; the TAP drives nothing (R540). -/
def State.release (s : State) (straps : BitVec 14) : State :=
  let tap := if s.plat.tap = .sample then .sample else .bypass
  let t := { s with plat := { s.plat with held := false, perst := false, tap := tap }, refcnt := 0 }
  (t.setReg .sec 0x140 (w32 s.board.fuses)).latchStraps straps

/-- RESET_RELEASE (R486): the rails are good, PERST# is deasserted, the clocks are STABLE. -/
def execResetRelease (straps : BitVec 14) (s : State) : Host.Outcome State Fault Refusal :=
  .next (if s.plat.held && s.railsGood && !s.plat.trip && s.plat.core.st == .stable && s.plat.pcie.st == .stable &&
      s.plat.watch.st == .stable then s.release straps else s)

/-- FORCED_RESET_RELEASE (R486): CORE_REFCLK is not STABLE in time. -/
def execForcedResetRelease (straps : BitVec 14) (s : State) : Host.Outcome State Fault Refusal :=
  .next (if s.plat.held && s.railsGood && !s.plat.trip && s.plat.core.st != .stable then
      ((s.release straps).coreReserve).clockLoss .core else s)

/-- FLASH_RESET_RELEASE (R539): XSPI_RESET# goes high; a flash that is absent or silent fails every slot. -/
def execFlashResetRelease (silent : Bool) (s : State) : Host.Outcome State Fault Refusal :=
  .next (if s.plat.held then s
    else { s with boot := { s.boot with flashUp := true }, board := { s.board with dead := silent } })

/-- D2D_LINKS_TRAINED (R28): the thirteen die-to-die links carry traffic; a link taken down stays down. -/
def execD2dLinksTrained (s : State) : Host.Outcome State Fault Refusal :=
  .next (if s.plat.held then s
    else
      let up := (List.range 13).filter fun n => !(s.mem.d2dDown.has n)
      { s with mem := { s.mem with d2dUp := up } }.setReg .dev 0x114 (w32 (up.foldl (fun m n => m + 2 ^ n) 0)))

/-! ### Heat (R489 to R491) -/

/-- The highest of the readings that count; a die without any counts as 125 °C. -/
def dieTemp (l : List (Option Byte)) : Nat :=
  match l.filterMap id with
  | [] => 125
  | b :: bs => bs.foldl (fun m x => max m x.toNat) b.toNat

/-- The bin of a temperature (R490). -/
def tempBin (t : Nat) : Nat := if t < 40 then 0 else min 7 ((t - 30) / 10)

/-- The bin that a die in bin `b` goes to: up at once, down only `hyst` below the bin's lower bound. -/
def nextBin (hyst t : Nat) : Nat → Nat
  | 0 => tempBin t
  | b + 1 =>
    if b + 1 ≤ tempBin t then tempBin t
    else if t + hyst ≤ 30 + 10 * (b + 1) then nextBin hyst t b else b + 1

/-- `THROTTLE_C`, `CRIT_C` and `HYST` within their limits (R498). -/
def State.throttleC (s : State) : Nat := min 120 (s.field .thm 0x100 31 24)
def State.critC (s : State) : Nat := min 120 (s.field .thm 0x100 23 16)
def State.thermHyst (s : State) : Nat := max 1 (s.field .thm 0x100 15 8)

/-- One C-die at a tick: its temperature, its bin, its floor (R490, R491). -/
def State.thermalDie (s : State) (l : List (Option Byte)) (k : Nat) : State :=
  let r := (List.range 16).map fun i => (l.getD (16 * k + i) none)
  let c := dieTemp r
  let was := s.field .thm 0x108 (3 * k + 2) (3 * k)
  let bin := if (r.filterMap id).isEmpty then 7 else nextBin s.thermHyst c was
  let t := (s.setField .thm 0x104 (8 * k + 7) (8 * k) c).setField .thm 0x108 (3 * k + 2) (3 * k) bin
  let t := if bin = was then t else t.event .thm 0x03 1
  let f := s.thermalFloor k
  let g := if s.critC ≤ c then 128 else if s.throttleC ≤ c then min 128 (f + 4)
    else if c + s.thermHyst ≤ s.throttleC then max 64 (f - 4) else f
  let t := { t with plat := { t.plat with tfloor := Table.set (fun _ => 64) t.plat.tfloor k g } }
  let t := if f = g then t else t.event .thm 0x04 1
  let t := if f ≤ 64 ∧ 64 < g then t.setErr .thm 0 else t
  let t := (t.setFlag .thm 0x150 (4 + k) (decide (s.critC ≤ c))).setFlag .thm 0x150 k (decide (64 < g))
  let t := if s.critC ≤ c then (t.setErr .thm 1).setFlag .smb 0x108 2 true else t
  t.avsUpdate k

/-- The readings are stored; a failed sensor's reading is not stated (R489, R498). -/
def State.storeReadings (s : State) (l : List (Option Byte)) : State :=
  ((List.range 16).foldl (fun t w =>
    t.setReg .thm (0x110 + 4 * w) (wordAt (leWords ((List.range 4).map fun b =>
      (l.getD (4 * w + b) none).getD (Config.freeByte s.free (4 * w + b))) 1) 0)) s).fresh

/-- The silicon trip at 125 °C (R491): PWR_REQ# and ALERT#, and every island held in reset until power goes. -/
def State.tripOff (s : State) : State :=
  let t := s.chipReset
  ({ t with mgmt := { t.mgmt with pwrReq := true }, plat := { t.plat with trip := true } }).setFlag .smb 0x108 3 true

/-- The temperatures that the stacks report (R206, R489). -/
def State.stackTemps (s : State) (l : List (Option Byte)) : State :=
  (List.range 8).foldl (fun t k => match l.getD k none with
    | some b => t.setReg (.hbm2 k) 0x100 (w32 (2 ^ 31 + b.toNat))
    | none => t) s

/-- THERMAL_TICK (R489 to R491): the sensors of the Ridges and of the E-dies, of which one that fails its self-check gives
none; the stacks' reports. -/
def execThermalTick (ridges edies hbms : List (Option Byte)) (s : State) : Host.Outcome State Fault Refusal :=
  let good := (ridges.take 64 ++ edies.take 4).filterMap id
  .next (if s.plat.held then s
    else if good.any fun b => decide (125 ≤ b.toNat) then s.tripOff
    else
      let t := s.advance s.plat.thmAt 10000
      let n := (t.refcnt - s.plat.thmAt).toNat
      let t := if (List.range 4).any fun k => decide (64 < s.thermalFloor k) then t.addSat .thm 0x154 n else t
      let t := { t with plat := { t.plat with thmAt := t.refcnt } }
      let t := ((t.event .thm 0x02 good.length).storeReadings ridges).stackTemps hbms
      let t := if good.length < 68 then t.setErr .thm 2 else t
      let e (i : Nat) : Nat := dieTemp [edies.getD (2 * i) none, edies.getD (2 * i + 1) none]
      let t := t.setReg .thm 0x10C (w32 (e 1 * 256 + e 0))
      (List.range 4).foldl (fun t k => t.thermalDie ridges k) t)

/-! ### Power (R492, R493) -/

/-- The limits of the estimates (R492, R497, R506): sustained and peak. -/
def State.sustW (s : State) : Nat :=
  let a := min 1850 (s.field .pwr 0x100 31 16)
  let b := s.field .smb 0x10C 15 0
  if b = 0 then a else min a b
def State.peakW (s : State) : Nat := min 2000 (s.field .pwr 0x100 15 0)

/-- POWER_TICK (R492): the 10 ms and the 1 s estimates in W. -/
def execPowerTick (short long : BitVec 16) (s : State) : Host.Outcome State Fault Refusal :=
  let a := short.toNat
  let b := long.toNat
  .next (if s.plat.held then s
    else
      let t := s.advance s.plat.pwrAt 100000
      let n := (t.refcnt - s.plat.pwrAt).toNat
      let f := s.powerFloor
      let t := if 64 < f then t.addSat .pwr 0x110 n else t
      let t := ({ t with plat := { t.plat with pwrAt := t.refcnt } }).setReg .pwr 0x104 (w32 (b * 65536 + a))
      let g := if s.peakW < a ∨ s.sustW < b then min 128 (f + 4)
        else if a * 100 < 97 * s.peakW ∧ b * 100 < 97 * s.sustW then max 64 (f - 4) else f
      if f = g then t
      else
        let t := (t.setField .pwr 0x108 31 22 g).event .pwr 0x03 1
        let t := if f ≤ 64 ∧ 64 < g then t.setErr .pwr 1 else t
        (List.range 4).foldl State.avsUpdate t)

/-- No Ridge of C-die `k` is busy (R107, R493): every array is stopped, and none recomputes for a check. -/
def State.dieQuiet (s : State) (k : Nat) : Bool :=
  (List.range 16).all fun i => (s.ridge (16 * k + i)).arrs.all (fun e => e.2.ramp == .stopped) && !(s.cairnServes (16 * k + i))

/-- DIE_IDLE_ENTRY (R493): a die with no Ridge busy for 1 ms. -/
def execDieIdleEntry (die : Fin 4) (s : State) : Host.Outcome State Fault Refusal :=
  let k := die.val
  .next (if s.plat.held || !(s.flag .pwr 0x008 16) || !(s.dieQuiet k) then s
    else ({ s with plat := { s.plat with idle := NatSet.add k s.plat.idle } }).avsUpdate k)

end Sys2Proof.Machine
end

