-- ==== Sys2Proof/Machine/Boot.lean ====
section
/-! DEFINITION. From reset to ready (R509 to R517), the attestation service (R521 to R523), the strap comparison (R536), boundary
scan (R540). -/
namespace Sys2Proof.Machine

/-! ### The image (R509, R514, R515) -/

/-- The slot that the boot ROM tries first, whether that is a trial, and the configuration it writes (R515). -/
def State.bootPick (s : State) : Nat × Bool × Option (Nat × Nat) :=
  let c := if s.board.dead then (0, 0) else s.board.bootCfg.getD (0, 0)
  match c.2 with
  | 1 => (c.1, true, some (c.1, 2))
  | 2 => (otherSlot c.1, false, some (otherSlot c.1, 0))
  | _ => (c.1, false, none)

/-- Load one section of a slot: a Rill program or Rill data of a core (R513). -/
def State.loadSection (s : State) (slot : Nat) (w : List W32) : State :=
  let c := secTarget w
  let bs := s.imageRead slot (secOff w) (secLen w)
  if secType w = 3 then
    let ws := leWords bs (min 16384 (ceilDiv (secLen w) 4))
    let k := ((List.range ws.length).zip ws).foldl (fun k p => k.setImem p.1 p.2) (s.core c)
    { s.setCore c k with mgmt := { s.mgmt with collProg := NatSet.add (c - 69) s.mgmt.collProg } }
  else if secType w = 4 then
    let k := s.core c
    s.setCore c { k with dmem := ((List.range 65536).zip bs).foldl (fun m p => Table.set (fun _ => 0) m p.1 p.2) k.dmem }
  else s

/-- The image of a valid slot is loaded, and runs. -/
def State.loadImage (s : State) (slot : Nat) (trial : Bool) : State :=
  let t := (s.sections slot).foldl (fun t w => t.loadSection slot w) s
  let t := { t with boot := { t.boot with imageDigest := sha256 (s.imageRead slot 0 0x1000) } }
  t.setReg .boot 0x100 (w32 (slot * 2 ^ 29 + trial.toNat * 2 ^ 28 + fld (t.reg .boot 0x100) 23 8 * 2 ^ 8 + s.imageWord slot 8 % 256))

/-- A slot is tried: its reason is reported, and an invalid one sets `SLOT_FAIL` (R514, R527). -/
def State.trySlot (s : State) (slot : Nat) : State × Bool :=
  let r := s.slotReason slot
  let s := s.slotVerified slot
  let t := if slot = 0 then s.setField .boot 0x100 23 16 r else s.setField .boot 0x100 15 8 r
  if r = 0 then (t, true) else (t.setErr .boot 0, false)

/-! ### The identity key and the log at boot (R420, R461, R509, R520) -/

/-- The identity key stands in the SEC page (R520, R528). -/
def State.identity (s : State) : State :=
  let put (t : State) (o : Nat) (bs : List Byte) : State :=
    (List.range 8).foldl (fun t i => t.setReg .sec (o + 4 * i) (w32 (beNat ((bs.drop (4 * i)).take 4)))) t
  (put (put s 0x100 idKey) 0x120 (sha256 idKey)).setFlag .sec 0x144 31 true

/-- The two newest escalation records ask for a power cycle (R420). -/
def State.escTwice (s : State) : Option Nat :=
  match (s.uhlLog.filter fun w => uhlType w == 3).reverse with
  | a :: b :: _ =>
    if wfld a 9 31 28 = 4 ∧ wfld b 9 31 28 = 4 ∧ wfld a 9 20 16 = wfld b 9 20 16 ∧ wordAt a 10 = 0 then some (wfld a 9 20 16)
    else none
  | _ => none

/-- The firmware asks for the power cycle of R420 at boot. -/
def State.bootPowerCycle (s : State) : State :=
  match s.escTwice with
  | some c =>
    let t := (s.escRecord 5 c).askTray 5
    { t with mgmt := { t.mgmt with pwrReq := true } }
  | none => s

/-- What follows the load of an image (R509): the identity key is derived, the log is scanned and its fences are loaded. -/
def State.bootImage (s : State) : State := s.identity.uhlBootScan.bootPowerCycle

/-- BOOT_SLOT_VERIFY (R509, R514, R515): a slot is chosen, verified and loaded, and the firmware scans the log; or both fail. -/
def execBootSlotVerify (s : State) : Host.Outcome State Fault Refusal :=
  .next (if s.plat.held || !s.boot.flashUp || s.boot.tried then s
    else
      let p := s.bootPick
      let t := { s with boot := { s.boot with tried := true } }
      let t := match p.2.2 with
        | some c => t.bootCfgPut c.1 c.2
        | none => t
      let a := t.trySlot p.1
      if a.2 then (a.1.loadImage p.1 p.2.1).bootImage
      else
        let b := a.1.trySlot (otherSlot p.1)
        if b.2 then (b.1.loadImage (otherSlot p.1) false).bootImage
        else (b.1.setFlag .boot 0x100 30 true).setFlag .smb 0x108 4 true)

/-! ### Ready (R509) -/

/-- The cores that hold the collective program start (R319). -/
def State.startColl (s : State) : State :=
  (List.range 8).foldl (fun t e => if s.mgmt.collProg.has e then t.runStart (69 + e) else t) s

/-- BOOT_READY (R509): with a running image, every stack READY or FAILED and the Page Map ready, the device is ready. -/
def execBootReady (s : State) : Host.Outcome State Fault Refusal :=
  .next (if s.plat.held || !s.boot.tried || s.bootFail || s.bootDone || !s.mem.pmapReady then s
    else s.startColl.setFlag .boot 0x100 31 true)

/-! ### The fuses (R517) -/

/-- SVN_COMMIT (R517, R527): a write of `BOOT_CTL` with `SVN_COMMIT`; `bad` is a fuse that fails to verify. -/
def execSvnCommit (value : W32) (bad : Option (Fin 64)) (s : State) : Host.Outcome State Fault Refusal :=
  let t := s.storeBits .boot 0x104 value
  let svn := s.field .boot 0x100 7 0
  let old := s.board.fuses
  .next (if s.plat.held || s.asleep then s
    else if s.bootFail || !s.boot.tried || s.flag .boot 0x100 28 || decide (svn ≤ old) then t
    else
      let fails := match bad with
        | some b => if old ≤ b.val ∧ b.val < svn then some b.val else none
        | none => none
      let n := fails.getD svn
      let u := { t with board := { t.board with fuses := n } }.setReg .sec 0x140 (w32 n)
      if fails.isSome then u.setErr .sec 0 else u)

/-! ### Attestation (R521 to R523) -/

/-- The pages that are sealed, and those that can be. -/
def State.sealedPages (s : State) : List Page := allPages.filter s.pageSealed

/-- The offsets of a page's RWS registers, ascending. -/
def Page.rwsOffs (p : Page) : List Nat :=
  (List.range 1024).map (fun i => 4 * i) |>.filter fun o => match p.row o with
    | some r => r.rws != 0
    | none => false

/-- `CONFIG_DIGEST` (R523). -/
def State.configDigest (s : State) : List Byte :=
  sha256 (s.sealedPages.flatMap fun p => p.rwsOffs.flatMap fun o => leBytes 4 (p.base + o) ++ leBytes 4 (s.reg p o).toNat)

/-- The position in the form of SMBus command 0x04 (R506). -/
def State.smbPosition (s : State) : Nat := s.field .stp 0x104 12 0 + (s.flag .stp 0x104 30).toNat * 2 ^ 15

/-- The arrays under a conditional fence, and those under `UFENCE`. -/
def State.condFenced (s : State) : Nat :=
  ((List.range 64).flatMap fun n => (List.range 16).filter fun k => s.flag (.chk n) (0x140 + 4 * k) 31).length
def State.uncFenced (s : State) : Nat :=
  ((List.range 64).map fun n => popCount 32 (s.reg (.chk n) 0x118).toNat + popCount 32 (s.reg (.chk n) 0x11C).toNat).sum

/-- The signed bytes of a report: 0x000 to 0x11F (R521). -/
def State.report (s : State) (nonce : List Byte) : List Byte :=
  leBytes 4 0x53504152 ++ leBytes 4 1 ++ nonce ++ leBytes 4 0x000100A1 ++ leBytes 4 s.smbPosition ++
  leBytes 4 ((s.flag .boot 0x100 29).toNat + (s.flag .boot 0x100 28).toNat * 256) ++
  leBytes 4 (s.field .boot 0x100 7 0) ++ leBytes 4 s.board.fuses ++ leBytes 4 (s.reg .uhl 0x100).toNat ++
  s.boot.imageDigest ++ s.configDigest ++
  leBytes 4 ((allPages.filter Page.sealable).length * 65536 + s.sealedPages.length) ++
  leBytes 4 (s.condFenced * 65536 + s.uncFenced % 65536) ++ leBytes 8 s.refcnt.toNat ++
  leBytes 8 (s.reg64 .step 0x100).toNat ++ List.replicate 104 (0#8) ++ idKey

/-- The address of the report. -/
def atDst (w : List W32) : Nat := wquad w 2 43

/-- A field of an attestation block is refused. -/
def atBad (w : List W32) : Bool :=
  sbFn w != 1 || !(onlyBits (wordAt w 0) [(31, 28), (5, 0)]) || wfld w 1 19 0 != 0 || wfld w 3 31 11 != 0 || atDst w % 64 != 0 ||
  wfld w 12 31 8 != 0 || [13, 14, 15].any fun i => wordAt w i != 0

/-- ATTESTATION_REPORT (R521): the attestation service serves its request. -/
def execAttestationReport (s : State) : Host.Outcome State Fault Refusal :=
  .next (s.svcServe 2 (fun _ => true) fun t w =>
    if atBad w then t.svcEnd 0x03
    else
      let r := t.report (wordsBytes ((w.drop 4).take 8))
      match t.signed reportContext r with
      | (u, some sig) => .done u 0x01 [] [(atDst w, clean (r ++ sig))]
      | (u, none) => u.svcEnd 0x02)

/-! ### Straps and boundary scan (R536, R540) -/

/-- STRAP_COMPARE (R536): the lands are compared with the latched values. -/
def execStrapCompare (straps : BitVec 14) (s : State) : Host.Outcome State Fault Refusal :=
  .next (if s.plat.held then s
    else
      let t := s.event .stp 0x02 1
      if s.field .stp 0x100 13 0 = straps.toNat then t
      else ((t.event .stp 0x03 1).setErr .stp 1).addSat .stp 0x108 1)

/-- The TAP takes an instruction; three of them act only while PERST# is asserted. -/
def State.tapLoad (s : State) (m : TapMode) : State :=
  let m := if s.plat.perst || m == .sample then m else .bypass
  { s with plat := { s.plat with tap := m } }

/-- JTAG_BYPASS (R540). -/
def execJtagBypass (s : State) : Host.Outcome State Fault Refusal := .next (if s.railsGood then s.tapLoad .bypass else s)

/-- JTAG_SAMPLE_PRELOAD (R540): the lands are captured and shifted out, the boundary register is loaded. -/
def execJtagSamplePreload (lands preload : List Bool) (s : State) : Host.Outcome State Fault Refusal :=
  .next (if !s.railsGood then s
    else
      let t := s.tapLoad .sample
      { t with plat := { t.plat with bsr := preload.take 108 } }.emit (.tdo (lands.take 108)))

/-- JTAG_EXTEST (R540). -/
def execJtagExtest (s : State) : Host.Outcome State Fault Refusal :=
  .next (if !s.railsGood then s
    else if s.plat.perst then (s.tapLoad .extest).emit (.lands s.plat.bsr) else s.tapLoad .extest)

/-- JTAG_CLAMP (R540). -/
def execJtagClamp (s : State) : Host.Outcome State Fault Refusal :=
  .next (if !s.railsGood then s
    else if s.plat.perst then (s.tapLoad .clamp).emit (.lands s.plat.bsr) else s.tapLoad .clamp)

/-- JTAG_HIGHZ (R540). -/
def execJtagHighz (s : State) : Host.Outcome State Fault Refusal :=
  .next (if !s.railsGood then s
    else if s.plat.perst then (s.tapLoad .highz).emit .highZ else s.tapLoad .highz)

end Sys2Proof.Machine
end

