-- ==== Sys2Proof/Machine/Port.lean ====
section
/-! DEFINITION. Bring-up, discovery and supervision of the ports: training (R286), admission (R308, R309), the plan (R310,
R311), flits received (R289, R291, R292), probes (R306), window counts (R305, R312), port registers (R287, R314). -/
namespace Sys2Proof.Machine

/-! ### Training, HELLO, ADMIT -/

/-- What a link has at its beginning: no flit numbered, every credit at the sender, nothing queued (R288, R293). -/
def Port.fresh (k : Port) : Port :=
  { k with
    txSeq := 0, rxSeq := 0, nakSent := false, replay := [], credits := [], owed := [], ctlq := [], txq := [], rxq := [], probes := []
    misses := 0 }

/-- The position word of this device's own HELLO on port `p`. -/
def State.myPos (s : State) (p : Nat) : W32 := w32 (2 ^ 31 + s.myGroup * 2 ^ 21 + s.myDev * 2 ^ 17 + p * 2 ^ 11)

/-- PORT_TRAIN_ATTEMPT (R286, R308): one training attempt of a port that is DOWN or TRAINING, after discovery began; with
success the port sends its HELLO with the nonce of the security core, and training has set the code of its island (R475). Only a
link that R291 retrains keeps its generation. -/
def execPortTrainAttempt (port : Fin 36) (ok peerGen2 : Bool) (nonce : List Byte) (s : State) :
    Host.Outcome State Fault Refusal :=
  let p := port.val
  let k := s.port p
  let gm := s.field (.prt p) 0x100 1 0
  let fall := s.flag (.prt p) 0x100 2
  let start := s.fab.disc || s.fab.discDone
  .next (if !start || gm = 0 || !(k.st == .down || k.st == .training) then s
    else
      let two := if k.st = .training ∧ k.gen ≠ 0 then k.gen == 2
        else decide (2 ≤ gm) && peerGen2 && !(fall && decide (3 ≤ k.tries))
      if ok then
        let code := if two then 64 else 128
        let t := s.setPort p { k.fresh with
          st := .hello, gen := if two then 2 else 1, tries := 0, nonce := nonce, ownGen := gm, attReason := 0, since := s.refcnt }
        ((t.setReg .clk (0x200 + 4 * (76 + p)) (w32 (code * 65536 + code))).judgeLimits (76 + p)).sendBytes p 5
          (Config.helloBytes (s.myPos p) gm nonce)
      else s.setPort p { k with st := .down, gen := 0, tries := if two || 2 ≤ gm then k.tries + 1 else k.tries })

/-- The position fields of a HELLO or a plan entry: node, group, device, port. -/
def posFields (w : W32) : Nat := fld w 30 11

/-- The message signed by one end: the digest of its own HELLO followed by its partner's (R309). -/
def admitMessage (own peer : List Byte) : List Byte := sha256 (own ++ peer)

/-- The bytes of the HELLO that this end sent in this bring-up (R309). -/
def State.ownHello (s : State) (p : Nat) : List Byte := Config.helloBytes (s.myPos p) (s.port p).ownGen (s.port p).nonce

/-- A position word names the device that a group port is cabled to (R284); other ports may be cabled anywhere. -/
def State.cabledTo (s : State) (p : Nat) (pos : W32) : Bool :=
  portRole (s.portAs p) != 0 || (!(bitOf pos 30) && fld pos 29 21 == s.myGroup && fld pos 20 17 == s.mateOf (portIndex (s.portAs p)))

/-- The verdict on a HELLO (R284, R310): 1 where it is as planned, before attestation. -/
def State.helloVerdict (s : State) (p : Nat) (pos : W32) : Nat :=
  let plan := s.planNbr p
  if !(s.cabledTo p pos) then 3 else if !(bitOf plan 31) then 4 else if posFields plan = posFields pos then 1 else 3

/-- Every enabled port has a verdict: discovery is done (R310). A port without a plan entry whose partner has not trained
has the verdict NONE, and a port that a flex port stands in for is judged by that one (R287). -/
def State.discSettled (s : State) : Bool :=
  (List.range 36).all fun p =>
    let k := s.port p
    s.field (.prt p) 0x100 1 0 == 0 || k.verdict != 0 || s.actor p != p || (!(bitOf (s.planNbr p) 31) && k.st == .down)

/-- The ports whose planned neighbour is the mirror partner or a spare, and which have no MATCH, theirs or that of the flex port which
stands in for them (R287, R310). -/
def State.lostPorts (s : State) : List Nat :=
  (List.range 36).filter fun p =>
    let w := s.reg (.prt2 p) 0x100
    s.portAs p == p && bitOf w 31 && (bitOf w 8 || fld w 10 9 == 1) && (s.port (s.actor p)).verdict != 1

/-- Discovery ends: `UNREACH` and the summaries are set (R310). -/
def State.discEnd (s : State) : State :=
  let lost := s.lostPorts
  { s with fab := { s.fab with
      disc := false, discDone := true, unreach := lost
      partnerLost := lost.any fun p => bitOf (s.reg (.prt2 p) 0x100) 8
      spareLost := lost.any fun p => fld (s.reg (.prt2 p) 0x100) 10 9 == 1 } }

/-- Discovery ends when every port has its verdict. -/
def State.discCheck (s : State) : State := if s.fab.disc && s.discSettled then s.discEnd else s

/-- The partner's HELLO, at position `pos`, has the verdict `v`: the port goes on to attestation, and sends its ADMIT (R309). -/
def State.helloTaken (s : State) (p v : Nat) (pos : W32) (hello : Hello) : State :=
  let k := s.port p
  let t := s.setPort p { k with
    nbr := pos, peer := some hello, since := s.refcnt, st := .attest, verdict := if v = 1 then 0 else v }
  let t := (if v = 3 then t.setErr (.prt p) 3 else t).sendLinks
  let msg := admitMessage (t.ownHello p) (Config.helloBytes hello.pos hello.gen.val hello.nonce)
  match t.signed admitContext msg with
  | (u, some sig) => u.sendBytes p 6 (sig ++ idKey)
  | (u, none) => u

/-- HELLO_RECEIVE (R310): the partner's HELLO is judged against the cabling and the plan; a claim of this device's own position
fences. -/
def execHelloReceive (port : Fin 36) (hello : Hello) (s : State) : Host.Outcome State Fault Refusal :=
  let p := port.val
  let k := s.port p
  .next (if k.st ≠ .hello then s
    else
      let pos := setBit (w32 (fld hello.pos 30 11 * 2 ^ 11)) 31 true
      (if !(bitOf pos 30) && fld pos 29 21 == s.myGroup && fld pos 20 17 == s.myDev then
        ((s.setPort p { k with verdict := 3 }).setErr (.prt p) 3).fencePort p 0x0A
      else s.helloTaken p (s.helloVerdict p pos) pos hello).discCheck)

/-- `PLAN_ID` of the port: big-endian bytes, word 0 first (R316). -/
def State.planId (s : State) (p : Nat) : List Byte :=
  (List.range 8).flatMap fun i => beBytes 4 (s.reg (.prt2 (s.portAs p)) (0x104 + 4 * i)).toNat

/-- The port enters UP: the mates learn its link (R302). -/
def State.goUp (s : State) (p : Nat) : State :=
  let k := s.port p
  (s.setPort p { k with
    st := .up, verdict := if k.verdict = 0 then 1 else k.verdict, probeAt := s.refcnt }).sendLinks

/-- Admission fails: the port fences with cause 0x05 (R309). -/
def State.admitFail (s : State) (p reason : Nat) : State :=
  ((s.setPort p { s.port p with attReason := reason }).setErr (.prt p) 4).fencePort p 0x05

/-- ADMIT_RECEIVE (R309, R310): the partner's signature and key digest are judged. -/
def execAdmitReceive (port : Fin 36) (sig key : List Byte) (s : State) : Host.Outcome State Fault Refusal :=
  let p := port.val
  let k := s.port p
  .next (match k.peer with
    | none => s
    | some h =>
      if k.st ≠ .attest then s
      else
        let msg := admitMessage (Config.helloBytes h.pos h.gen.val h.nonce) (s.ownHello p)
        let ok := (s.verified key admitContext msg sig).2
        let same := sha256 key == s.planId p
        let t := (s.verified key admitContext msg sig).1.setPort p { k with attOk := ok, idOk := same, keyDigest := sha256 key }
        (if sig.length ≠ 17088 ∨ key.length ≠ 32 then s.admitFail p 4
        else if !ok then t.admitFail p 1
        else if k.verdict = 3 ∨ k.verdict = 4 then t.setPort p { t.port p with st := .quarantine, probeAt := t.refcnt }
        else if !same then t.admitFail p 2
        else t.goUp p).discCheck)

/-- ADMIT_TIMEOUT (R309): no ADMIT within 10,000,000 reference counts. -/
def execAdmitTimeout (port : Fin 36) (s : State) : Host.Outcome State Fault Refusal :=
  let p := port.val
  let k := s.port p
  .next (if k.st ≠ .attest then s else ((s.advance k.since 10000000).admitFail p 3).discCheck)

/-! ### Discovery (R310) -/

/-- DISC_START (R310): a write of `DISC_CTL.START`. -/
def execDiscStart (value : W32) (s : State) : Host.Outcome State Fault Refusal :=
  .next (if !s.ready || !(bitOf value 0) then s
    else { s with fab := { s.fab with disc := true, discDone := false, discAt := s.refcnt } }.discCheck)

/-- DISC_TIMEOUT (R310): `DISC_TO` has passed; planned partners that have not trained, or whose port has fenced, are
ABSENT. -/
def execDiscTimeout (s : State) : Host.Outcome State Fault Refusal :=
  let t := s.advance s.fab.discAt (s.field (.prt2 0) 0x400 7 0 * 100000)
  .next (if !s.fab.disc then s
    else ((List.range 36).foldl (fun t p =>
      let k := t.port p
      if bitOf (t.planNbr p) 31 && t.field (.prt p) 0x100 1 0 != 0 && k.verdict == 0 &&
          (k.st == .down || k.st == .training || k.st == .fenced) then
        t.setPort p { k with verdict := 2 } else t) t).discEnd)

/-! ### Flits (R289, R291, R292) -/

/-- A retry episode is counted; too many in a window fence the port (R312). -/
def State.retryEpisode (s : State) (p : Nat) : State :=
  let k := s.port p
  let t := (s.setPort p { k with retryW := k.retryW + 1 }).addSat (.prt p) 0x130 1
  if s.field (.prt p) 0x11C 31 24 < k.retryW + 1 then t.fencePort p 0x03 else t

/-- A malformed flit is counted; too many in a window fence the port (R292, R312). -/
def State.malformed (s : State) (p : Nat) : State :=
  let k := s.port p
  let t := (s.setPort p { k with malfW := k.malfW + 1 }).addSat (.prt p) 0x134 1
  if s.field (.prt p) 0x11C 23 16 < k.malfW + 1 then t.fencePort p 0x04 else t

/-- Flits up to the acknowledged one leave the replay buffer (R291). -/
def Port.acked (k : Port) (ack : Nat) : Port :=
  match k.replay.findIdx? fun r => r.seq == ack with
  | some i => { k with replay := k.replay.drop (i + 1) }
  | none => k

/-- A NAK: the flits after the named one are resent; a flit resent 16 times retrains the port (R291). -/
def State.nakGot (s : State) (p ack : Nat) : State :=
  let k := (s.port p).acked ack
  if k.replay.isEmpty then s.setPort p k
  else if k.replay.any fun r => decide (16 ≤ r.resent) then (s.setPort p k).leaveUp p .training
  else
    let t := s.setPort p { k with replay := k.replay.map fun r => { r with resent := r.resent + 1 } }
    let t := k.replay.foldl (fun t r => t.emit (.flit p r.flit)) t
    (t.event (.prt p) 0x04 k.replay.length).retryEpisode p

/-- NAK_RECEIVE (R291). -/
def execNakReceive (port : Fin 36) (ack : BitVec 16) (s : State) : Host.Outcome State Fault Refusal :=
  .next (if (s.port port.val).st.linked then s.nakGot port.val ack.toNat else s)

/-- A PROBE is answered with its count (R306). -/
def State.probeGot (s : State) (p : Nat) (count : W64) : State :=
  let k := s.port p
  if k.st = .up ∨ k.st = .quarantine then s.sendOwn p 4 [valueSlot count] else s

/-- A PROBE_REPLY in time stores its round trip (R306). -/
def State.replyGot (s : State) (p : Nat) (count : W64) : State :=
  let k := s.port p
  let rtt := (s.refcnt - count).toNat
  if !(k.probes.contains count) || s.field (.prt p) 0x110 19 8 * 100 < rtt then s
  else (s.setPort p { k with probes := k.probes.filter fun c => c != count, misses := 0 }).setReg (.prt p) 0x12C (w32 rtt)

/-- PROBE_RECEIVE (R306). -/
def execProbeReceive (port : Fin 36) (count : W64) (s : State) : Host.Outcome State Fault Refusal :=
  .next (s.probeGot port.val count)

/-- PROBE_REPLY_RECEIVE (R306). -/
def execProbeReplyReceive (port : Fin 36) (count : W64) (s : State) : Host.Outcome State Fault Refusal :=
  .next (s.replyGot port.val count)

def flType (f : Flit) : Nat := bits f.hdr.toNat 31 28
def flClass (f : Flit) : Nat := bits f.hdr.toNat 27 26
def flVc (f : Flit) : Nat := bits f.hdr.toNat 25 23
def flN (f : Flit) : Nat := bits f.hdr.toNat 14 12
def flSeq (f : Flit) : Nat := bits f.hdr.toNat 63 48
def flAck (f : Flit) : Nat := bits f.hdr.toNat 47 32

/-- The 264 bytes that the CRC covers, header first and most significant byte first (R289). -/
def flBytes (f : Flit) : List Byte :=
  beBytes 8 f.hdr.toNat ++ (List.range 4).flatMap fun i =>
    wordsBytes ((List.range 16).map fun j => wordAt (f.slots.getD i []) j)

/-- The slots of a flit. -/
def flSlots (f : Flit) : List Slot :=
  (List.range (flN f)).map fun i =>
    { words := (List.range 16).map fun j => wordAt (f.slots.getD i []) j
      hdr := f.hdr.toNat.testBit (19 + i), bad := f.hdr.toNat.testBit (15 + i) }

/-- A flit that passed its CRC is malformed (R292); only the slots of DATA need credits (log entry 114). -/
def Port.flBad (k : Port) (f : Flit) : Bool :=
  let key := vcKey (flClass f) (flVc f)
  decide (8 ≤ flType f) || flClass f == 3 || decide (5 ≤ flN f) ||
  ((List.range 4).any fun i => decide (flN f ≤ i) && (f.hdr.toNat.testBit (19 + i) || f.hdr.toNat.testBit (15 + i))) ||
  ((flSlots f).any fun x => x.hdr && thBad x.words) ||
  (flType f == 1 && decide (vcAllot (flClass f) (flVc f) < (k.rx (flClass f) (flVc f)).length + k.owedAt key + flN f))

/-- Credits that a flit returns. -/
def Port.creditGot (k : Port) (f : Flit) : Port :=
  let cls := bits f.hdr.toNat 11 10
  let vc := bits f.hdr.toNat 9 7
  k.setCredit cls vc (min (vcAllot cls vc) (k.credit cls vc + 8 * bits f.hdr.toNat 6 0))

/-- A mate's link entries have come in a CTL slot: entry j of device d is its word j (R302). -/
def State.linksGot (s : State) (p : Nat) (ws : List W32) : State :=
  if portRole (s.portAs p) ≠ 0 then s
  else
    let d := s.mateOf (portIndex (s.portAs p))
    { s with fab := { s.fab with
        lmap := (List.range 16).foldl (fun m j => Table.set (fun _ => 0) m (16 * d + j) (w32 (wfld ws j 31 11 * 2 ^ 11))) s.fab.lmap } }

/-- The slots of a DATA flit: a port that is not UP discards them, and CTL slots without a header are link entries; both are free
again at once (R293, R308). -/
def State.dataGot (s : State) (p : Nat) (f : Flit) : State :=
  let k := s.port p
  let cls := flClass f
  let vc := flVc f
  let keep := (flSlots f).filter fun x => k.st == .up && (cls != 2 || x.hdr)
  let links := (flSlots f).filter fun x => k.st == .up && cls == 2 && !x.hdr
  let k1 := (k.setRx cls vc (k.rx cls vc ++ keep)).setOwed (vcKey cls vc) (k.owedAt (vcKey cls vc) + (flN f - keep.length))
  links.foldl (fun t x => t.linksGot p x.words) (s.setPort p k1)

/-- What an accepted flit brings: slots, a NAK, a probe or its reply. The contents of HELLO and ADMIT flits come with their own
commands, and a FENCE changes nothing here: the partner's silence does (R308). -/
def State.flTake (s : State) (p : Nat) (f : Flit) : State :=
  let v := join64 (wordAt (f.slots.getD 0 []) 1) (wordAt (f.slots.getD 0 []) 0)
  match flType f with
  | 1 => s.dataGot p f
  | 2 => s.nakGot p (flAck f)
  | 3 => s.probeGot p v
  | 4 => s.replyGot p v
  | _ => s

/-- A flit is discarded; the first of a run is answered by a NAK naming the last good flit (R291). -/
def State.flDrop (s : State) (p : Nat) : State :=
  let k := s.port p
  if k.nakSent then s else (s.setPort p { k with nakSent := true }).sendOwn p 2 []

/-- FLIT_RECEIVE (R289, R291, R292, R293). -/
def execFlitReceive (port : Fin 36) (flit : Flit) (s : State) : Host.Outcome State Fault Refusal :=
  let p := port.val
  let k := s.port p
  .next (if !k.st.linked then s
    else if crc64 (flBytes flit) ≠ flit.crc.toNat then (s.addSat (.prt p) 0x14C 1).flDrop p
    else if flType flit = 0 then
      if k.flBad flit then s.malformed p else (s.setPort p ((k.acked (flAck flit)).creditGot flit)).pump p
    else if flSeq flit ≠ (k.rxSeq + 1) % 65536 then
      if (k.rxSeq + 65536 - flSeq flit) % 65536 < 256 then s else s.flDrop p
    else
      let k1 := { k.acked (flAck flit) with rxSeq := flSeq flit, nakSent := false }
      let t := (s.setPort p k1).event (.prt p) 0x03 1
      if k.flBad flit then (t.malformed p).pumpAck p
      else ((t.setPort p ((t.port p).creditGot flit)).flTake p flit).pumpAck p)

/-! ### Probes (R306) -/

/-- PROBE_SEND (R306): every `INTERVAL` µs. -/
def execProbeSend (port : Fin 36) (s : State) : Host.Outcome State Fault Refusal :=
  let p := port.val
  let k := s.port p
  .next (if !(k.st == .up || k.st == .quarantine) then s
    else
      let t := s.advance k.probeAt (max 1 (s.field (.prt p) 0x110 31 20) * 100)
      (t.setPort p { k with probeAt := t.refcnt, probes := k.probes ++ [t.refcnt] }).sendOwn p 3 [valueSlot t.refcnt])

/-- PROBE_MISS (R306): the oldest probe is not answered in time. -/
def execProbeMiss (port : Fin 36) (s : State) : Host.Outcome State Fault Refusal :=
  let p := port.val
  let k := s.port p
  .next (match k.probes with
    | [] => s
    | c :: rest =>
      let t := (s.advance c (s.field (.prt p) 0x110 19 8 * 100)).addSat (.prt p) 0x13C 1
      let t := t.setPort p { k with probes := rest, misses := k.misses + 1 }
      if max 1 (s.field (.prt p) 0x110 3 0) ≤ k.misses + 1 then (t.absent p).discCheck else t)

/-- LOSS_OF_LIGHT (R306): the partner is absent at once. -/
def execLossOfLight (port : Fin 36) (s : State) : Host.Outcome State Fault Refusal :=
  let p := port.val
  .next (match (s.port p).st with
    | .hello | .attest | .quarantine | .up => (s.absent p).discCheck
    | .training => s.setPort p { s.port p with st := .down, gen := 0 }
    | _ => s)

/-! ### Window counts (R305, R312) -/

/-- STARVE_EPISODE (R312): a channel with work had no credit for `LIMIT` µs. -/
def execStarveEpisode (port : Fin 36) (s : State) : Host.Outcome State Fault Refusal :=
  let p := port.val
  let k := s.port p
  .next (if k.st ≠ .up ∨ !(k.txq.any fun e => k.credit e.cls e.vc == 0) then s
    else
      let t := (s.setPort p { k with starveW := k.starveW + 1 }).addSat (.prt p) 0x138 1
      if s.field (.prt p) 0x11C 15 8 < k.starveW + 1 then t.fencePort p 0x02 else t)

/-- FENCE_WINDOW_EXPIRE (R312): the window counts restart. -/
def execFenceWindowExpire (port : Fin 36) (s : State) : Host.Outcome State Fault Refusal :=
  let p := port.val
  let k := s.port p
  let t := s.advance k.winAt (s.field (.prt p) 0x120 15 0 * 100000)
  .next (t.setPort p { k with retryW := 0, malfW := 0, starveW := 0, fwW := 0, rateW := 0, winAt := t.refcnt })

/-- RATE_INTERVAL_EXPIRE (R305): the count of request headers restarts every 1,024 reference counts. -/
def execRateIntervalExpire (port : Fin 36) (s : State) : Host.Outcome State Fault Refusal :=
  let p := port.val
  let k := s.port p
  let t := s.advance k.rateAt 1024
  .next (t.setPort p { k with hdrs := 0, past := false, rateAt := t.refcnt })

/-- A request header is counted (R305): the flag says that it exceeds the limit of its interval. -/
def State.countHeader (s : State) (p : Nat) : State × Bool :=
  let k := s.port p
  let t := s.setPort p { k with hdrs := k.hdrs + 1 }
  if !(s.flag (.prt p) 0x124 31) || decide (k.hdrs + 1 ≤ s.field (.prt p) 0x124 15 0) then (t, false)
  else if k.past then (t, true)
  else
    let u := (t.setPort p { k with hdrs := k.hdrs + 1, past := true, rateW := k.rateW + 1 }).addSat (.prt p) 0x144 1
    (if s.field (.prt p) 0x124 23 16 < k.rateW + 1 then u.fencePort p 0x07 else u, true)

/-! ### The link map and the port registers (R287, R302, R311, R313, R314) -/

/-- LINK_MAP_UPDATE (R302): a mate sends an entry of its own. -/
def execLinkMapUpdate (port : Fin 36) (idx : BitVec 8) (entry : W32) (s : State) : Host.Outcome State Fault Refusal :=
  let p := port.val
  let i := idx.toNat
  .next (if (s.port p).st = .up ∧ portRole (s.portAs p) = 0 ∧ s.mateOf (portIndex (s.portAs p)) = i / 16 then
      { s with fab := { s.fab with
          lmap := Table.set (fun _ => 0) s.fab.lmap i (w32 (fld entry 31 11 * 2 ^ 11)) } }
    else s)

/-- The partner's key digest equals the `PLAN_ID` that software has written. -/
def State.admitDigest (s : State) (p : Nat) : Bool := (s.port p).keyDigest == s.planId p

/-- A write of `PORT_CTL` (R311, R313, R314): `FENCE` wins over everything else. -/
def State.portCtl (s : State) (p : Nat) (v : W32) : State :=
  let k := s.port p
  if !s.ready then s
  else if bitOf v 3 then (if k.st = .disabled then s else (s.fencePort p 0x08).discCheck)
  else if bitOf v 2 && k.st == .fenced && !s.posBad then
    s.setPort p { k with st := .training, gen := 0, cause := 0, verdict := 0, tries := 0, attOk := false, idOk := false }
  else if bitOf v 1 && (k.st == .up || k.st == .quarantine) then
    let t := s.leaveUp p .training
    t.setPort p { t.port p with verdict := 0, gen := 0 }
  else if bitOf v 0 then
    let t := s.setPort p { k with idOk := k.peer.isSome && s.admitDigest p }
    (if k.st = .quarantine ∧ k.attOk ∧ s.admitDigest p then t.goUp p else t.setErr (.prt p) 4)
  else s

/-- PORT_CTL_ADMIT (R311): a write with `ADMIT` set. -/
def execPortCtlAdmit (port : Fin 36) (value : W32) (s : State) : Host.Outcome State Fault Refusal :=
  .next (s.portCtl port.val (setBit value 0 true))

/-- PORT_CTL_FENCE (R313): a write with `FENCE` set. -/
def execPortCtlFence (port : Fin 36) (value : W32) (s : State) : Host.Outcome State Fault Refusal :=
  .next (s.portCtl port.val (setBit value 3 true))

/-- PORT_CTL_UNFENCE (R313): a write with `UNFENCE` set. -/
def execPortCtlUnfence (port : Fin 36) (value : W32) (s : State) : Host.Outcome State Fault Refusal :=
  .next (s.portCtl port.val (setBit value 2 true))

/-- PORT_CTL_RETRAIN (R314): a write with `RETRAIN` set. -/
def execPortCtlRetrain (port : Fin 36) (value : W32) (s : State) : Host.Outcome State Fault Refusal :=
  .next (s.portCtl port.val (setBit value 1 true))

/-- `GEN_MAX` and `FALLBACK` written: 0 disables the port, and a disabled port that may train again is DOWN (R286). -/
def State.setGenMax (s : State) (p : Nat) (v : W32) : State :=
  let t := s.setReg (.prt p) 0x100 (setFld (s.reg (.prt p) 0x100) 2 0 (fld v 2 0))
  let k := t.port p
  if fld v 1 0 = 0 then (if k.st = .fenced then t else t.leaveUp p .disabled)
  else if k.st = .disabled then t.setPort p { k with st := .down } else t

/-- The write asks for a substitution that R287 allows. -/
def State.substOk (s : State) (p : Nat) (v : W32) : Bool :=
  let q := fld v 13 8
  portRole p == 2 && decide (q < 36) && portRole q != 2 &&
    ((s.port q).st == .fenced || (s.port q).st == .disabled)

/-- PORT_CFG_WRITE (R286, R287, R43). -/
def execPortCfgWrite (port : Fin 36) (value : W32) (s : State) : Host.Outcome State Fault Refusal :=
  let p := port.val
  .next (if !s.ready || s.pageSealed (.prt p) then s
    else
      let sub := bitOf value 15 && portRole p == 2
      let t := if sub && !(s.substOk p value) then s.setErr (.prt p) 3
        else s.setReg (.prt p) 0x100 (setBit (setFld (s.reg (.prt p) 0x100) 13 8 (fld value 13 8)) 15 sub)
      (t.setGenMax p value).discCheck)

end Sys2Proof.Machine
end

