-- ==== Sys2Proof/Machine/Smbus.lean ====
section
/-! DEFINITION. The SMBus target (R506, R507, R526). -/
namespace Sys2Proof.Machine

/-- The address byte of the port: write direction, bit 0 is 0. -/
def State.smbAddr (s : State) : Nat := 2 * s.field .smb 0x100 6 0

/-- The answer to a read of command `code`, with its packet error code if one byte more is read. -/
def State.smbRead (s : State) (code : Nat) (bs : List Byte) (pec : Bool) : State :=
  if s.plat.held then s.emit .smbNack
  else
    let head := leBytes 1 s.smbAddr ++ leBytes 1 code ++ leBytes 1 (s.smbAddr + 1)
    (s.event .smb 0x02 1).emit (.smb (bs ++ if pec then leBytes 1 (crc8 (head ++ bs)) else []))

/-- STATUS (R506). -/
def State.smbStatus (s : State) : Nat :=
  let floors := decide (64 < s.powerFloor) || (List.range 4).any fun k => decide (64 < s.thermalFloor k)
  s.bootDone.toNat * 128 + s.bootFail.toNat * 64 + s.mgmt.asked % 8 * 8 + (s.flag .smb 0x108 0).toNat * 4 +
    (s.flag .thm 0x010 1).toNat * 2 + floors.toNat

/-- The highest die temperature. -/
def State.smbTemp (s : State) : Nat :=
  max (((List.range 4).map fun k => s.field .thm 0x104 (8 * k + 7) (8 * k)).foldl max 0)
    (max (s.field .thm 0x10C 15 8) (s.field .thm 0x10C 7 0))

/-- SMB_STATUS (R506). -/
def execSmbStatus (pec : Bool) (s : State) : Host.Outcome State Fault Refusal :=
  .next (s.smbRead 0x00 (leBytes 1 s.smbStatus) pec)

/-- SMB_TEMP (R506). -/
def execSmbTemp (pec : Bool) (s : State) : Host.Outcome State Fault Refusal := .next (s.smbRead 0x01 (leBytes 1 s.smbTemp) pec)

/-- SMB_POWER (R506). -/
def execSmbPower (pec : Bool) (s : State) : Host.Outcome State Fault Refusal :=
  .next (s.smbRead 0x02 (leBytes 2 (s.field .pwr 0x104 31 16)) pec)

/-- SMB_ESC_CAUSE (R506). -/
def execSmbEscCause (pec : Bool) (s : State) : Host.Outcome State Fault Refusal :=
  .next (s.smbRead 0x03 (leBytes 1 (s.field .dev 0x00C 28 24)) pec)

/-- SMB_POSITION (R506). -/
def execSmbPosition (pec : Bool) (s : State) : Host.Outcome State Fault Refusal :=
  .next (s.smbRead 0x04 (leBytes 2 s.smbPosition) pec)

/-- SMB_ID_DIGEST (R506): a block of 32 bytes, after its count. -/
def execSmbIdDigest (pec : Bool) (s : State) : Host.Outcome State Fault Refusal :=
  .next (s.smbRead 0x05 (leBytes 1 32 ++ (List.range 8).flatMap fun i => beBytes 4 (s.reg .sec (0x120 + 4 * i)).toNat) pec)

/-- SMB_SVN (R506). -/
def execSmbSvn (pec : Bool) (s : State) : Host.Outcome State Fault Refusal :=
  .next (s.smbRead 0x06 (leBytes 1 (s.field .sec 0x140 6 0)) pec)

/-- SMB_TRAY_LIMIT_WRITE (R506): a wrong packet error code, or a missing one where it is required, has no effect. -/
def execSmbTrayLimitWrite (watts : BitVec 16) (pec : Pec) (s : State) : Host.Outcome State Fault Refusal :=
  .next (if s.plat.held then s.emit .smbNack
    else if pec = .wrong ∨ (pec = .missing ∧ s.flag .smb 0x104 0) then (s.setErr .smb 1).emit .smbNack
    else ((s.setReg .smb 0x10C (w32 watts.toNat)).event .smb 0x02 1).emit (.smb []))

/-- SMB_TRAY_LIMIT_READ (R506). -/
def execSmbTrayLimitRead (pec : Bool) (s : State) : Host.Outcome State Fault Refusal :=
  .next (s.smbRead 0x10 (leBytes 2 (s.field .smb 0x10C 15 0)) pec)

/-- SMB_BAD_COMMAND (R506): a code that is none of the table's. -/
def execSmbBadCommand (code : Byte) (s : State) : Host.Outcome State Fault Refusal :=
  .next (if s.plat.held then s.emit .smbNack
    else if code.toNat ≤ 6 ∨ code.toNat = 0x10 then s
    else (s.setErr .smb 0).emit .smbNack)

/-- SMB_ALERT_RESPONSE (R507): the port answers with its own address. -/
def execSmbAlertResponse (s : State) : Host.Outcome State Fault Refusal :=
  .next (if s.plat.held then s.emit .smbNack else (s.event .smb 0x03 1).emit (.smb (leBytes 1 s.smbAddr)))

end Sys2Proof.Machine
end

