-- ==== Sys2Proof/Machine/Window.lean ====
section
/-! DEFINITION. Command windows and tallies: BAR4 writes (R242 to R244), the record kinds (R246 to R250), window control
(R251), the tally window (R254 to R256), the micro-batch slot table (R258). -/
namespace Sys2Proof.Machine

/-! ### Slots (R242 to R244) -/

/-- A write to BAR4 is accepted (R242). -/
def bar4Ok (off : Nat) (data : List Byte) (en : List Bool) : Bool :=
  data.length % 4 == 0 && decide (4 ≤ data.length) && decide (data.length ≤ 64) && off % 4 == 0 &&
  decide (off % 64 + data.length ≤ 64) && en.length == data.length && en.all id

/-- Write one word of a slot; a word of a slot not yet consumed that is written again is an overrun, under draw `n` (R244). -/
def Win.putWord (n : Nat) (k : Win) (key : Nat) (v : W32) : Win :=
  match Table.find key k.words with
  | some _ => { k with words := Table.insert key none (Table.erase key k.words), overrun := k.overrun <|> some n }
  | none => { k with words := Table.insert key (some v) k.words }

/-- COMMAND_WINDOW_WRITE (R242). -/
def execCommandWindowWrite (w : Fin 64) (off : BitVec 16) (data : List Byte) (enables : List Bool) (s : State) :
    Host.Outcome State Fault Refusal :=
  let k := s.win w.val
  let o := off.toNat
  .next (if !s.ready || k.st == .disabled || !(bar4Ok o data enables) then s
    else
      let k1 := (List.range (data.length / 4)).foldl
        (fun k i => k.putWord s.free (o / 4 + i) (w32 (leNat ((data.drop (4 * i)).take 4)))) k
      let t := s.setWin w.val k1
      if k1.overrun = k.overrun then t else t.fresh)

/-- The slot that `NEXT` names. -/
def Win.slot (k : Win) : Nat := k.next.toNat % 1024

/-- Slot `i` is full (R243). -/
def Win.full (k : Win) (i : Nat) : Bool := (List.range 16).all fun j => (Table.find (16 * i + j) k.words).isSome

/-- Full slots (R244). -/
def Win.fullSlots (k : Win) : Nat := (k.words.filter fun e => e.1 % 16 == 0 && k.full (e.1 / 16)).length

/-- Free a slot. -/
def Win.freeSlot (k : Win) (i : Nat) : Win := { k with words := k.words.filter fun e => e.1 / 16 != i }

/-- Word `j` of the record in slot `NEXT`; after an overrun every word of the window's records is unpredictable (R244). -/
def State.recWord (s : State) (w j : Nat) : W32 :=
  let k := s.win w
  let x := 16 * k.slot + j
  match k.overrun, Table.find x k.words with
  | none, some (some v) => v
  | d, _ => Config.freeWord (d.getD s.free) (w * 2 ^ 14 + x)

/-- The record in slot `NEXT`, when the slot is full. -/
def State.record (s : State) (w : Nat) : Option (List W32) :=
  if (s.win w).full (s.win w).slot then some ((List.range 16).map (s.recWord w)) else none

/-! ### Records (R246 to R250) -/

def rcKind (r : List W32) : Nat := wfld r 1 31 28
def rcWait (r : List W32) : Bool := wfld r 1 27 27 == 1
def rcWtally (r : List W32) : Nat := wfld r 1 11 0
def rcTarget (r : List W32) : W32 := wordAt r 2

/-- Words `a` to 15 are zero. -/
def zeroFrom (r : List W32) (a : Nat) : Bool := (List.range (16 - a)).all fun i => wordAt r (a + i) == 0

/-- The record breaks R246 or R247 (reason 0x01). -/
def rcBad (r : List W32) : Bool :=
  decide (5 ≤ rcKind r) || wfld r 1 26 12 != 0 || wordAt r 3 != 0 ||
  match rcKind r with
  | 0 => !(zeroFrom r 4)
  | 2 => !(zeroFrom r 6) || wfld r 5 31 11 != 0 || wfld r 4 5 0 != 0
  | 3 => !(zeroFrom r 6) || wfld r 4 31 12 != 0
  | _ => false

/-- The window's descriptor may be issued with this OPC (R247). -/
def State.winOpc (s : State) (w opc : Nat) : Bool :=
  opc == 0x11 || opc == 0x51 || opc == 0x61 || (opc == 0x71 && s.partOfCtx w == s.stepOwner)

/-- The reason for which a record is refused before it acts (R250), or 0. -/
def State.rcReason (s : State) (w : Nat) (r : List W32) : Nat :=
  if rcBad r then 1
  else if (rcWait r && !(s.tallyPermitted (rcWtally r) w)) || (rcKind r == 3 && !(s.tallyPermitted (wfld r 4 11 0) w)) then 2
  else if rcKind r = 1 ∧ !(s.winOpc w (dcOpc (r.drop 4))) then 3
  else 0

/-- The record has acted: its slot is free, and `NEXT` advances (R243, R248). -/
def State.consume (s : State) (w : Nat) : State :=
  let k := s.win w
  (s.setWin w { (k.freeSlot k.slot) with
    next := k.next + 1, st := .run, ref := none, waits := none, met := false }).event .cwn 0x02 1

/-- The record is refused: it is consumed, and the window enters FAULTED (R250). -/
def State.refuseRec (s : State) (w reason : Nat) : State :=
  let k := s.win w
  (s.consume w).winFault w reason k.next

/-- The window waits in a state. -/
def State.winHold (s : State) (w : Nat) (st : WinSt) : State :=
  let k := s.win w
  if k.st = st then s else s.setWin w { k with st := st, since := s.refcnt }

/-- Place a descriptor of window `w`, or hold it in BLOCKED (R248). -/
def State.winPlace (s : State) (w : Nat) (ws : List W32) : State :=
  match s.placeWork { words := ws, ctx := w, src := .win w (s.win w).next } with
  | some t => t.consume w
  | none => s.winHold w .blocked

/-- The descriptor that a DESC_REF record named has been read (R247, R250). -/
def State.refDone (s : State) (w : Nat) (ws : List W32) (poison : Bool) : State :=
  if poison then { s with faulted := NatSet.add w s.faulted }.refuseRec w 5
  else if !(s.winOpc w (dcOpc ws)) then s.refuseRec w 3
  else (s.setWin w { s.win w with ref := some (.got ws) }).winPlace w ws

/-- The read of a DESC_REF record faults in translation (R250). -/
def State.refFault (s : State) (w reason a : Nat) : State :=
  { (s.recordXlate reason 4 w w a) with faulted := NatSet.add w s.faulted }.refuseRec w 4

/-- Begin the read of a DESC_REF record; `e` is what the Page Map's entry shows. -/
def State.refRead (s : State) (w : Nat) (a : Nat) (e : Ecc) : State :=
  let t := (s.event .cwn 0x05 1).lookup 4 0 a e
  match t.site 4 0 w .rd a with
  | .error r => t.refFault w r a
  | .ok (.here key) => t.setWin w { t.win w with ref := some (.here key), st := .run }
  | .ok (.there g dv pt x) =>
    (t.setWin w { t.win w with ref := some .away, st := .run }).submit
      { who := .win w (t.win w).gen, ctx := w, kind := 0, group := g, dev := dv, port := pt, addr := x, len := 64, own := some a }

/-- The answer to the read of a DESC_REF record at another device; one to a read of an earlier run of the window finds nothing. A
window in FAULTED keeps the words, or reads again, once it is resumed (R250, R251). -/
def State.refAnswer (s : State) (w gen reason a : Nat) (bs : List OutByte) : State :=
  let k := s.win w
  if k.gen ≠ gen ∨ k.ref ≠ some .away then s
  else
    let ws := leWords (bs.map Prod.fst) 16
    if k.st = .faulted then
      s.setWin w { k with ref := if reason = 0 ∧ !(bs.any Prod.snd) then some (.got ws) else none }
    else if reason = 0 then s.refDone w ws (bs.any Prod.snd) else s.refFault w reason a

/-- The window acts on a record whose wait is over (R247); `e` is what the Page Map's entry for a DESC_REF record shows. -/
def State.recAct (s : State) (w : Nat) (r : List W32) (e : Ecc) : State :=
  match rcKind r with
  | 0 => s.consume w
  | 1 => s.winPlace w (r.drop 4)
  | 2 =>
    match (s.win w).ref with
    | some (.got ws) => if s.winOpc w (dcOpc ws) then s.winPlace w ws else s.refuseRec w 3
    | some _ => s
    | none => s.refRead w (wquad r 4 43) e
  | 3 => (s.addTally (wfld r 4 11 0) (wordAt r 5)).consume w
  | _ =>
    match s.placeCore 0 { words := r, ctx := w, src := .win w (s.win w).next } with
    | some t => t.consume w
    | none => s.winHold w .blocked

/-- A window holds on its record's `WAIT`. -/
def State.winWait (s : State) (w : Nat) (r : List W32) : State :=
  let t := s.winHold w .held
  t.setWin w { t.win w with waits := some (rcWtally r, rcTarget r), met := false }

/-- The record of a window is refused, waits, or acts; an unpredictable one is refused as any other would be (R244, R250). -/
def State.recJudged (s : State) (w : Nat) (r : List W32) (met : Bool) (e : Ecc) : State :=
  let why := s.rcReason w r
  if why ≠ 0 then s.refuseRec w why
  else if rcWait r && !met && !(tallyReached (s.tally (rcWtally r)) (rcTarget r)) then s.winWait w r
  else s.recAct w r e

/-- The window has a record to be served: it runs, the slot of `NEXT` is full, and no read of its descriptor is under way. -/
def State.winReady (s : State) (w : Nat) : Bool :=
  let k := s.win w
  k.st == .run && k.full k.slot && (match k.ref with | none => true | some (.got _) => true | some _ => false)

/-- The window whose turn it is: the first that is ready after the one served last (R245). -/
def State.nextWin (s : State) : Option Nat :=
  ((List.range 64).map fun i => (s.winTurn + 1 + i) % 64).find? s.winReady

/-- The controller serves the window whose turn it is, if it is `w` and its record of one of the kinds; a full slot whose turn has
come with another sequence number is an overrun (R243, R244, R245). -/
def State.serve (s : State) (w : Nat) (kinds : List Nat) (e : Ecc) : State :=
  let k := s.win w
  match s.record w with
  | none => s
  | some r =>
    if s.nextWin ≠ some w then s
    else if k.overrun.isNone ∧ wordAt r 0 ≠ k.next then (s.setWin w { k with overrun := some s.free }).fresh
    else if !(kinds.contains (rcKind r)) then s
    else { s with winTurn := w }.recJudged w r false e

/-- RECORD_NOP (R247); the kinds 0x5 to 0xF are refused (R250). -/
def execRecordNop (w : Fin 64) (s : State) : Host.Outcome State Fault Refusal :=
  .next (s.serve w.val [0, 5, 6, 7, 8, 9, 10, 11, 12, 13, 14, 15] .clean)

/-- RECORD_DESC (R247). -/
def execRecordDesc (w : Fin 64) (s : State) : Host.Outcome State Fault Refusal := .next (s.serve w.val [1] .clean)

/-- RECORD_DESC_REF (R247). -/
def execRecordDescRef (w : Fin 64) (pm : Ecc) (s : State) : Host.Outcome State Fault Refusal := .next (s.serve w.val [2] pm)

/-- RECORD_TINC (R247). -/
def execRecordTinc (w : Fin 64) (s : State) : Host.Outcome State Fault Refusal := .next (s.serve w.val [3] .clean)

/-- RECORD_PROG (R247). -/
def execRecordProg (w : Fin 64) (s : State) : Host.Outcome State Fault Refusal := .next (s.serve w.val [4] .clean)

/-- DESC_REF_READ_DONE (R247, R250): the descriptor is read from a local address. -/
def execDescRefReadDone (w : Fin 64) (us : List GranUse) (s : State) : Host.Outcome State Fault Refusal :=
  .next (match (s.win w.val).ref with
    | some (.here key) =>
      if (s.win w.val).st ≠ .run then s
      else if s.routeDown 4 (stackDie (key / 2 ^ 37)) then s.refFault w.val 0x09 (wquad ((s.record w.val).getD []) 4 43)
      else
        let t := s.readRange 0 key 64 us
        t.refDone w.val (leWords (t.hbmRead key 64) 16) (t.rangePoison key 64)
    | _ => s)

/-- RECORD_WAIT_RELEASE (R248, R267): the condition of a HELD window has held, or the queue of a BLOCKED window has a place. -/
def execRecordWaitRelease (w : Fin 64) (pm : Ecc) (s : State) : Host.Outcome State Fault Refusal :=
  let k := s.win w.val
  .next (match s.record w.val with
    | none => s
    | some r =>
      if k.st = .held ∧ (k.met ∨ tallyReached (s.tally (rcWtally r)) (rcTarget r)) then
        ((s.setWin w.val { k with st := .run }).event .tly 0x03 1).recJudged w.val r true pm
      else if k.st = .blocked then s.recJudged w.val r true pm
      else s)

/-- PROG_WAIT (R265): a window stays BLOCKED on core 0's queue for the whole of core 0's `WAIT_LIMIT`; 0 disables. -/
def execProgWait (w : Fin 64) (s : State) : Host.Outcome State Fault Refusal :=
  let k := s.win w.val
  let lim := (s.reg (.ril 0) 0x118).toNat * 1024
  .next (match s.record w.val with
    | none => s
    | some r =>
      if k.st ≠ .blocked ∨ rcKind r ≠ 4 ∨ lim = 0 then s
      else (s.advance k.since lim).setErr .cwn 1)

/-! ### Window control (R250, R251) -/

/-- A window emptied: a new run of it begins. -/
def Win.emptied (k : Win) (st : WinSt) : Win :=
  { k with words := [], st := st, reason := 0, overrun := none, ref := none, gen := k.gen + 1, waits := none, met := false }

/-- WIN_CTL_EN_WRITE (R251). -/
def execWinCtlEnWrite (w : Fin 64) (en : Bool) (s : State) : Host.Outcome State Fault Refusal :=
  let k := s.win w.val
  .next (if !s.ready then s
    else if !en then s.setWin w.val (k.emptied .disabled)
    else if k.st = .disabled then s.setWin w.val (k.emptied .run)
    else s)

/-- WIN_CTL_RESUME (R250). -/
def execWinCtlResume (w : Fin 64) (s : State) : Host.Outcome State Fault Refusal :=
  let k := s.win w.val
  .next (if s.ready && k.st == .faulted then s.setWin w.val { k with st := .run, reason := 0 } else s)

/-- WIN_NEXT_WRITE (R251). -/
def execWinNextWrite (w : Fin 64) (value : W32) (s : State) : Host.Outcome State Fault Refusal :=
  let k := s.win w.val
  .next (if s.ready && k.st == .disabled then s.setWin w.val { k with next := value } else s)

/-! ### Tallies (R254 to R256) -/

/-- TALLY_WRITE (R254): a 64-bit write sets tallies t and t + 1. -/
def execTallyWrite (t : Fin 4096) (wide : Bool) (value : W64) (s : State) : Host.Outcome State Fault Refusal :=
  .next (if !s.ready then s
    else if wide then ((s.setTally (t.val / 2 * 2) (lo32 value)).setTally (t.val / 2 * 2 + 1) (hi32 value))
    else s.setTally t.val (lo32 value))

/-- HOST_INC (R254, R266). -/
def execHostInc (value : W32) (s : State) : Host.Outcome State Fault Refusal :=
  .next (if !s.ready then s else s.addTally (fld value 31 20) (w32 (fld value 19 0)))

/-- The tally that a descriptor names (R252, R253, R255). -/
def Desc.tally (d : Desc) : Nat := if dcOpc d.words = 0x11 ∨ dcOpc d.words = 0x12 then wfld d.words 0 31 20 else wfld d.words 1 31 20

/-- All tallies that it names: a RING waits on `RTALLY` as well (R330, R335). -/
def Desc.tallies (d : Desc) : List Nat :=
  d.tally :: (if dcOpc d.words = 0x51 ∧ wfld d.words 0 31 28 = 7 then [wfld d.words 13 27 16] else [])

/-- The descriptors that are queued, accepted or running. -/
def State.descs (s : State) : List Desc :=
  (s.cores.flatMap fun e => e.2.inq ++ e.2.heldDesc.toList) ++ (s.dies.flatMap fun e => e.2.map OpRec.desc) ++
  (s.ridges.flatMap fun e => e.2.tileIn ++ e.2.brookIn ++ e.2.fetchIn ++ e.2.tileOps.map TileOp.desc ++
    e.2.brookOps.map BrookOp.desc ++ e.2.fetchOps.map FetchOp.desc) ++
  (s.dmas.flatMap fun e => e.2.inq ++ e.2.acc) ++
  (s.treads.flatMap fun e => e.2.toList.map fun r => r.coll.desc) ++
  (s.cfls.flatMap fun e => e.2.cur.toList.map Coll.desc ++ e.2.wsq.map Coll.desc ++
    (e.2.xq.filter fun x => !x.stock).map Xfer.desc ++ (e.2.fly.filter fun f => !f.x.stock).map fun f => f.x.desc) ++
  s.stepm.q ++ ([s.stepm.s0, s.stepm.s1].flatMap fun k => k.act.toList ++ k.again.toList)

/-- An operation whose share tally lies in block `b` is issued under context `c` (R253). -/
def State.shareNames (s : State) (b c : Nat) : Bool :=
  s.dies.any fun e => e.2.any fun r => r.desc.ctx == c && r.phase != 0 && !r.owing.isEmpty && r.shareTally / 64 == b

/-- A record that stands unconsumed in a window names a tally of block `b`, or may: the descriptor of a DESC_REF record has not
been read. -/
def Win.names (k : Win) (b : Nat) : Bool :=
  (k.words.map fun e => e.1 / 16).any fun i =>
    let r := (List.range 16).map fun j => ((Table.find (16 * i + j) k.words).join).getD 0
    k.full i && ((rcWait r && rcWtally r / 64 == b) || rcKind r == 2 || (rcKind r == 3 && wfld r 4 11 0 / 64 == b) ||
      (rcKind r == 1 && (Desc.tallies { words := r.drop 4, ctx := 0, src := .device }).any fun t => t / 64 == b))

/-- A core holds an instruction that names tallies: `TRD`, `ISSUE`, `TINC` or `TWAIT`. -/
def Core.mayTally (k : Core) : Bool := k.imem.any fun e => [0x19, 0x3C, 0x3E, 0x3F].contains (fld e.2 27 22)

/-- Something of context `c` can still name a tally of block `b` (R256). -/
def State.blockNamed (s : State) (b c : Nat) : Bool :=
  (s.descs.any fun d => d.ctx == c && d.tallies.any fun t => t / 64 == b) || s.shareNames b c || (s.win c).names b ||
  s.cores.any fun e => [CoreSt.running, .waiting, .idle].contains e.2.st && e.2.ctx == c && e.2.mayTally

/-- The tallies of block `b`, and the waits on them, become unpredictable (R256). -/
def State.blockLost (s : State) (b : Nat) : State :=
  ((List.range 64).foldl (fun t i => t.setTally (64 * b + i) (Config.freeWord s.free (64 * b + i))) s).fresh

/-- BLOCK_OWN_WRITE (R256, R266). -/
def execBlockOwnWrite (b : Fin 64) (value : W32) (s : State) : Host.Outcome State Fault Refusal :=
  let n := fld value 7 0
  let t := s.setReg .tly (0x200 + 4 * b.val) (w32 n)
  .next (if !s.ready || s.pageSealed .tly then s
    else if s.blockNamed b.val (s.field .tly (0x200 + 4 * b.val) 7 0) || s.blockNamed b.val n then t.blockLost b.val else t)

/-! ### Micro-batch slots (R258, R259) -/

/-- SLOT_TOK_WRITE (R258): ignored as a whole where it would leave an empty valid slot or too many tokens. -/
def execSlotTokWrite (i : Fin 8) (value : W32) (s : State) : Host.Outcome State Fault Refusal :=
  let n := fld value 24 0
  .next (if !s.ready then s
    else if 2 ^ 24 < n ∨ (bitOf value 31 ∧ n = 0) then s.setErr .cwn 2
    else (s.setReg .cwn (0x500 + 16 * i.val) (setBit (w32 n) 31 (bitOf value 31))).setReg .cwn (0x504 + 16 * i.val)
      (if bitOf value 31 then w32 (ceilDiv n 32768) else 0))

end Sys2Proof.Machine
end

