-- ==== Sys2Proof/Machine/Regs.lean ====
section
/-! DEFINITION. Writes of BAR0 registers that have no command of their own (R30, R31, R37), the common header (R34 to R44), the
partition layout (R23 to R26), the hashed window's size (R177), die-to-die links (R13). -/
namespace Sys2Proof.Machine

/-! ### Which registers a write reaches -/

/-- The page responds (R510): before `READY`, only the pages that boot needs. -/
def State.pageOpen (s : State) (p : Page) : Bool :=
  !s.asleep && (s.bootDone || match p with
    | .dev | .clk | .pwr | .thm | .pci | .smb | .stp | .sec | .boot | .pmap => true
    | _ => false)

/-- The C-die whose partition owns Rill core `c`, for the die and Ridge sequencers (R24, R32). -/
def rilDie (c : Nat) : Option Nat :=
  if 1 ≤ c ∧ c ≤ 4 then some (c - 1) else if 5 ≤ c ∧ c ≤ 68 then some ((c - 5) / 16) else none

/-- The sub-aperture of partition `q` shows the BAR0 word at `a` (R24, R264): the pages and Rill windows of its C-dies, the
entries of its command windows with `CWN.CTL`, and the tallies of its contexts. -/
def State.apShows (s : State) (q a : Nat) : Bool :=
  let mine (k : Nat) : Bool := s.partOfDie k == q
  match pageAt a with
  | some (.die k) | some (.bsn k) => mine k
  | some (.rdg n) | some (.trn n) | some (.acc n) | some (.brk n) | some (.chk n) => mine (n / 16)
  | some (.hbm k) | some (.hbm2 k) => mine (stackDie k)
  | some (.ril c) => (rilDie c).any mine
  | some .cwn =>
    let off := a % 0x1000
    off == 0x008 || decide (0x100 ≤ off ∧ off < 0x500) && s.partOfCtx (off % 0x100 / 4) == q
  | some _ => false
  | none =>
    if 0x1000000 ≤ a ∧ a < 0x19A0000 then (rilDie ((a - 0x1000000) / 0x20000)).any mine
    else decide (0x2000000 ≤ a ∧ a < 0x2004000) &&
      s.partOfCtx (s.field .tly (0x200 + 4 * ((a - 0x2000000) / 256)) 7 0) == q

/-- The BAR0 address that an access reaches: the sub-aperture of partition `q` stands for its addresses from
`(q + 1) × 2^26` on, and what it does not show is not there (R24). -/
def State.reach (s : State) (a : Nat) : Option Nat :=
  if a < 2 ^ 26 then some a
  else
    let q := a / 2 ^ 26 - 1
    if q < s.partCount ∧ s.apShows q (a % 2 ^ 26) then some (a % 2 ^ 26) else none

/-- The page and the offset at a BAR0 address, while the page responds. -/
def State.target (s : State) (a : Nat) : Option (Page × Nat) :=
  match s.reach a with
  | none => none
  | some b =>
    match pageAt b with
    | some p => if s.pageOpen p then some (p, b - p.base) else none
    | none => none

/-- How a register takes writes. -/
def Page.kindAt (p : Page) (off : Nat) : Option RegKind := (p.row off).map RegRow.kind

/-! ### Plain writes -/

/-- The value that a register takes where its fields limit it: divider codes have a minimum (R475); `PQ_PART` and `CTX` hold
while what they name runs (R421, R422). -/
def State.limitValue (s : State) (p : Page) (off : Nat) (v : W32) : W32 :=
  match p with
  | .clk =>
    let i := (off - 0x200) / 4
    if 0x200 ≤ off ∧ off < 0x3F4 then setFld v 9 0 (max (islMin i) (fld v 9 0)) else v
  | .dev => if off = 0x008 ∧ s.flag .dev 0x008 31 then setFld v 17 16 (s.field .dev 0x008 17 16) else v
  | .cwn => if off = 0x008 ∧ s.abortBusy then setFld v 21 16 (s.field .cwn 0x008 21 16) else v
  | _ => v

/-- What follows a write: interrupts, voltage requests, notices, the Scree test, `CE_ADDR` (R38, R74, R110, R488, R493,
R505). -/
def State.afterWrite (s : State) (p : Page) (off : Nat) : State :=
  let t := if off = 0x008 ∨ off = 0x014 then s.irqUpdate p else s
  match p with
  | .clk => if 0x200 ≤ off ∧ off < 0x300 then t.avsUpdate ((off - 0x200) / 64) else t
  | .pwr =>
    if off = 0x008 ∧ !(t.flag .pwr 0x008 16) then
      (List.range 4).foldl State.avsUpdate { t with plat := { t.plat with idle := [] } }
    else t
  | .acc n =>
    if (off = 0x100 ∨ off = 0x104) ∧ (t.ridge n).arrs.any (fun e => e.2.ramp != .stopped) then
      t.setRidge n { t.ridge n with spoiled := true }
    else t
  | .pci =>
    if 0x200 ≤ off ∧ off < 0x300 then
      { t with
        io := { t.io with notices := NatSet.del (161 + (off - 0x200) / 4) t.io.notices }
        host := { t.host with due := NatSet.del ((off - 0x200) / 4) t.host.due } }
    else t
  | .scl =>
    if (off = 0x110 ∨ off = 0x114) ∧ !(t.flag .scl 0x120 31) then
      (t.setField .scl 0x120 15 0 (Config.freeWord t.free 0x120).toNat).fresh
    else t
  | .trn _ => if off = 0x020 then t.setFlag p 0x108 31 false else t
  | _ => t

/-- A write of a register that is neither half of a pair nor a command's; a write that clears `HARD_CHK.CORR` lets the next
mismatch record its offset (R42). -/
def State.writePlain (s : State) (p : Page) (off : Nat) (v : W32) : State :=
  let t := (s.storeBits p off (s.limitValue p off v)).afterWrite p off
  if off = 0x028 ∧ bitOf v 30 then { t with io := { t.io with struck := NatSet.del p.base t.io.struck } } else t

/-- A page's registers are load registers of a core that runs: the write is ignored, and `LOAD_BUSY` sets (R237). -/
def State.loadBusy (s : State) (p : Page) (off : Nat) : Option State :=
  match p with
  | .ril c => if 0x200 ≤ off ∧ (s.core c).busy then some (s.setErr p 2) else none
  | _ => none

/-- The held word of the pair whose low register is at address `a` (R37). -/
def State.heldWord (s : State) (a : Nat) : W32 := Table.get (fun _ => 0) s.io.held a
def State.setHeld (s : State) (a : Nat) (v : W32) : State :=
  { s with io := { s.io with held := Table.set (fun _ => 0) s.io.held a v } }

/-- A write of a `_LO` register: the held word (R37). -/
def State.writeLo (s : State) (p : Page) (off : Nat) (v : W32) : State :=
  match s.loadBusy p off with
  | some t => t
  | none => s.setHeld (p.base + off) v

/-- A write of a `_HI` register: both halves at once, the low one from the held word (R37). -/
def State.writeHi (s : State) (p : Page) (off : Nat) (v : W32) : State :=
  (s.storeBits p (off - 4) (s.heldWord (p.base + (off - 4)))).storeBits p off v

/-- PAIR_LO_WRITE (R37): a 32-bit write of a `_LO` register, or of the low half of a Page Map entry (R185). -/
def execPairLoWrite (addr : BitVec 29) (value : W32) (s : State) : Host.Outcome State Fault Refusal :=
  .next (match s.target addr.toNat with
    | some (p, off) => if p.kindAt off = some .lo then s.writeLo p off value else s
    | none =>
      if !s.asleep && decide (0x2400000 ≤ addr.toNat) && decide (addr.toNat < 0x2800000) && addr.toNat % 8 == 0 then
        s.setHeld addr.toNat value
      else s)

/-- PAIR_HI_WRITE (R37): a 32-bit write of a `_HI` register without a command of its own. -/
def execPairHiWrite (addr : BitVec 29) (value : W32) (s : State) : Host.Outcome State Fault Refusal :=
  .next (match s.target addr.toNat with
    | some (p, off) => if p.kindAt off = some .hi then s.writeHi p off value else s
    | none => s)

/-! ### The common header (R34 to R44) -/

/-- SEAL_KEY_WRITE (R43): the page's key seals it. -/
def execSealKeyWrite (addr : BitVec 29) (value : W32) (s : State) : Host.Outcome State Fault Refusal :=
  .next (match s.target addr.toNat with
    | some (p, off) =>
      if off = 0x024 ∧ p.sealable ∧ value = w32 (0x5EA10000 + fld p.id 15 0) then
        { s with io := { s.io with isSealed := NatSet.add p.base s.io.isSealed } }
      else s
    | none => s)

/-- The fault records of a page: the offset whose bit 31 is `VALID`, and the error bits until whose clearing it holds. -/
def Page.faultRecords : Page → List (Nat × Nat)
  | .rdg _ => [(0x11C, 1)] | .trn _ => [(0x104, 3)] | .acc _ => [(0x120, 3)] | .brk _ => [(0x108, 1)]
  | .hbm _ => [(0x108, 3)] | .bsn _ => [(0x104, 3)] | .pmap => [(0x10C, 1)] | .tly => [(0x104, 1)]
  | .dma _ => [(0x11C, 1)] | .cfl _ => [(0x124, 0x13)] | .step => [(0x14C, 1)] | .pci => [(0x114, 1)]
  | _ => []

/-- What follows when error bits have been cleared: fault records end, `INJ_SEEN`, the sources of ALERT# (R34, R482, R507). -/
def State.afterClear (s : State) (p : Page) : State :=
  let e := (s.reg p 0x010).toNat
  let t := p.faultRecords.foldl (fun t r => if e &&& r.2 = 0 then t.setFlag p r.1 31 false else t) s
  let t := if e = 0 then { t with io := { t.io with injSeen := NatSet.del p.base t.io.injSeen } } else t
  match p with
  | .clk => if e = 0 then t.setFlag .smb 0x108 0 false else t
  | .thm => if e.testBit 1 then t else t.setFlag .smb 0x108 2 false
  | _ => t

/-- ERR_STAT_CLEAR (R38): bits written 1 clear, but for those detected in the same island cycle. -/
def execErrStatClear (addr : BitVec 29) (value detect : W32) (s : State) : Host.Outcome State Fault Refusal :=
  .next (match s.target addr.toNat with
    | some (p, off) =>
      if off = 0x010 then ((s.setReg p 0x010 (s.reg p 0x010 &&& ~~~(value &&& ~~~detect))).afterClear p).irqUpdate p else s
    | none => s)

/-- ERR_FIRST_CLEAR (R39). -/
def execErrFirstClear (addr : BitVec 29) (value : W32) (s : State) : Host.Outcome State Fault Refusal :=
  .next (match s.target addr.toNat with
    | some (p, off) => if off = 0x018 then s.setReg p 0x018 (s.reg p 0x018 &&& ~~~value) else s
    | none => s)

/-- One strike of a scan (R42): both copies fail, and the value and the block's results are unknown from then on, or one is
mended. `OFFSET` names the first register found since `CORR` was cleared. -/
def State.hardStrike (s : State) (p : Page) (h : HardStrike) : State :=
  let off := 4 * h.off.toNat
  let rws := match p.row off with | some r => r.rws | none => 0
  if rws = 0 then s
  else
    let t := if h.both || !(s.io.struck.has p.base) then s.setField p 0x028 11 2 h.off.toNat else s
    let t := { t with io := { t.io with struck := NatSet.add p.base t.io.struck } }
    if h.both then
      let m := w32 rws
      let t := (t.setReg p off ((s.reg p off &&& ~~~m) ||| (Config.freeWord s.free off &&& m))).fresh
      let t := ((t.setFlag p 0x028 31 true).wreck p).irqUpdate p
      (t.stepAbort 0x04).escalate 0x02
    else (t.setFlag p 0x028 30 true).countErr p

/-- HARD_REG_SCAN (R42): a scan of a page's hardened registers, with what it finds. -/
def execHardRegScan (addr : BitVec 26) (strikes : List HardStrike) (s : State) : Host.Outcome State Fault Refusal :=
  .next (match pageAt addr.toNat with
    | some p => if p.sealable then strikes.foldl (fun t h => t.hardStrike p h) s else s
    | none => s)

/-! ### The device-level page (R13, R23 to R26) -/

/-- C-die `k` has an operation queued, waiting, open or draining (R28). -/
def State.dieBusy (s : State) (k : Nat) : Bool := !(s.die k).isEmpty || !(s.core (1 + k)).inq.isEmpty

/-- `PART_STAT.IDLE` (R26). -/
def State.partIdle (s : State) : Bool :=
  (List.range 4).all (fun k => !(s.dieBusy k)) &&
  (List.range 32).all (fun c => (s.dma c).st == .idle && (s.dma c).acc.isEmpty) &&
  !s.stepOpen && (List.range 64).all fun w => (s.win w).fullSlots == 0

/-- PART_CFG_WRITE (R23, R25, R26). -/
def execPartCfgWrite (value : W32) (s : State) : Host.Outcome State Fault Refusal :=
  let m := fld value 1 0
  let parts := match m with | 0 => 1 | 1 => 2 | _ => 4
  .next (if s.asleep || s.pageSealed .dev then s
    else if !s.partIdle then s.setErr .dev 0
    else if m = 3 ∨ parts ≤ fld value 5 4 then s.setErr .dev 1
    else s.storeBits .dev 0x100 value)

/-- D2D_TRANSFER_RETRY (R13): a transfer fails `fails` times; the seventeenth failure takes the link down. -/
def execD2dTransferRetry (link : Fin 13) (fails : Fin 18) (s : State) : Host.Outcome State Fault Refusal :=
  let l := link.val
  .next (if !(s.mem.d2dUp.has l) then s
    else
      let t := s.addSat .dev (0x118 + 4 * l) (min 16 fails.val)
      if fails.val ≤ 16 then t
      else
        let t := { t with mem := { t.mem with d2dUp := NatSet.del l t.mem.d2dUp, d2dDown := NatSet.add l t.mem.d2dDown } }
        (((t.setFlag .dev 0x114 l false).setErr .dev 2).stepAbort 0x04).escalate 0x01)

/-- WIN_CFG_WRITE (R177): the window is resized while the device is idle. -/
def execWinCfgWrite (value : W32) (s : State) : Host.Outcome State Fault Refusal :=
  .next (if s.asleep || s.pageSealed .pmap then s
    else if !s.partIdle then s.setErr .pmap 3
    else s.resizeWindow value)

end Sys2Proof.Machine
end

