-- ==== Sys2Proof/Machine/Bar0.lean ====
section
/-! DEFINITION. Writes of BAR0 at any address (R30, R31, R33, R37): a 32-bit write has the effect that the command of its
register has, a 64-bit write that of both halves; the injection of errors (R40). -/
namespace Sys2Proof.Machine

/-- The state that a command leaves. -/
def State.afterCmd (s : State) (o : Host.Outcome State Fault Refusal) : State := match o with | .next t => t | _ => s

/-! ### Injection (R40) -/

/-- What an error's detection causes beside its record (R13, R231, R361, R378, R391, R482, R491): the reactions that damage no
data path. -/
def State.react (s : State) (p : Page) (i : Nat) : State :=
  match p, i with
  | .dev, 2 => (s.stepAbort 0x04).escalate 0x01
  | .clk, 0 => s.clockLoss .core
  | .clk, 1 => s.clockLoss .pcie
  | .clk, 2 => s.clockLoss .watch
  | .thm, 1 => s.setFlag .smb 0x108 2 true
  | .rdg _, 2 => s.stepAbort 0x04
  | .acc _, 2 => s.stepAbort 0x04
  | .acc _, 3 => s.stepAbort 0x04
  | .cfl _, 1 => s.stepAbort 0x04
  | .cfl _, 4 => s.stepAbort 0x04
  | .pmap, 1 => s.stepAbort 0x04
  | .scl, 3 => s.stepAbort 0x04
  | .oxb, 0 => s.mirrorFail
  | .oxb, 1 => s.stepAbort 0x04
  | .hdw, 0 => [0, 1].foldl (fun t j => if (t.slot j).st = .opening then t.abortSlot j 0x09 0 true else t) s
  | .ril c, 1 => if (s.core c).busy then s.hang c else s
  | _, _ => s

/-- ERR_INJ_WRITE (R40): while `INJ_EN` is 1, each bit written acts as a detection. -/
def execErrInjWrite (addr : BitVec 29) (value : W32) (s : State) : Host.Outcome State Fault Refusal :=
  .next (match s.target addr.toNat with
    | some (p, off) =>
      let v := value.toNat % 2 ^ p.errBits
      if off ≠ 0x01C ∨ !(s.flag p 0x008 1) ∨ v = 0 then s
      else
        let t := { s with io := { s.io with injSeen := NatSet.add p.base s.io.injSeen } }
        let t := t.detect p (w32 v)
        ((List.range p.errBits).filter v.testBit).foldl (fun t i => t.react p i) t
    | none => s)

/-! ### Registers that act -/

/-- The partition whose sub-aperture an address lies in (R24). -/
def subApOf (a : Nat) : Option (Fin 4) := if a < 2 ^ 26 then none else some (Fin.ofNat 4 (a / 2 ^ 26 - 1))

/-- A write of a page's header: the registers and the bits that act (R38, R39, R40, R43, R416 to R424). -/
def State.writeHeader (s : State) (a : Nat) (p : Page) (off : Nat) (v : W32) : State :=
  let addr := BitVec.ofNat 29 a
  if off = 0x010 then s.afterCmd (execErrStatClear addr v 0 s)
  else if off = 0x018 then s.afterCmd (execErrFirstClear addr v s)
  else if off = 0x01C then s.afterCmd (execErrInjWrite addr v s)
  else if off = 0x024 then s.afterCmd (execSealKeyWrite addr v s)
  else if off = 0x008 then
    match p, bitOf v 31 with
    | .dev, true => s.afterCmd (execPartitionQuiesce v s)
    | .dev, false =>
      if bitOf v 29 then s.afterCmd (if bitOf v 28 then execEscGoPowerCycle v s else execEscGoChipReset v s)
      else s.writePlain p off v
    | .cwn, true => s.afterCmd (execContextAbort (subApOf a) v s)
    | .rdg n, true => s.afterCmd (execRidgeQuiesce (Fin.ofNat 64 n) v s)
    | .dma c, true => s.afterCmd (execDmaQuiesce (Fin.ofNat 32 c) v s)
    | .cfl e, true => s.afterCmd (execCflQuiesce (Fin.ofNat 8 e) v s)
    | .oxb, true => s.afterCmd (execRemirror v s)
    | .step, b =>
      let t := if bitOf v 28 then s.afterCmd (execStragClr v s) else s.writePlain p off v
      if b then t.afterCmd (execStepDecide v t) else t
    | _, _ => s.writePlain p off v
  else s.writePlain p off v

/-- A write of a register of a Rill core's page that acts (R218, R237). -/
def State.writeRil (s : State) (c : Nat) (off : Nat) (v : W32) : State :=
  let x := Fin.ofNat 77 c
  let load (t : LoadTarget) : State := s.afterCmd (execProgramMemoryWrite x t s)
  match off with
  | 0x100 => s.afterCmd (execRunCtlStart x v s)
  | 0x104 => load (.startPc v)
  | 0x10C => load (.ctx v)
  | 0x280 => load (.pred v)
  | _ => load (.gregHi (Fin.ofNat 16 ((off - 0x200) / 8)) v)

/-- A write of a register of the CWN page that acts (R250, R251, R258). -/
def State.writeCwn (s : State) (off : Nat) (v : W32) : State :=
  let w := Fin.ofNat 64 (off % 0x100 / 4)
  if off < 0x200 then s.afterCmd (execWinNextWrite w v s)
  else if off < 0x400 then
    let t := s.afterCmd (execWinCtlEnWrite w (bitOf v 0) s)
    if bitOf v 1 then t.afterCmd (execWinCtlResume w t) else t
  else s.afterCmd (execSlotTokWrite (Fin.ofNat 8 ((off - 0x500) / 16)) v s)

/-- A write of a block's register that has a command of its own. -/
def State.writeOwn (s : State) (p : Page) (off : Nat) (v : W32) : State :=
  match p with
  | .dev => s.afterCmd (execPartCfgWrite v s)
  | .clk => if bitOf v 30 then s.afterCmd (execFmcAbort s) else if bitOf v 31 then s.afterCmd (execFmcGo s) else s
  | .dma c =>
    let x := Fin.ofNat 32 c
    if off = 0x100 then s.afterCmd (execChCfgWrite x v s)
    else if bitOf v 1 then s.afterCmd (execDmaAbort x s)
    else if bitOf v 0 then s.afterCmd (execDmaResume x s) else s
  | .prt q => if off = 0x100 then s.afterCmd (execPortCfgWrite (Fin.ofNat 36 q) v s) else s.portCtl q v
  | .prt2 _ => s.afterCmd (execDiscStart v s)
  | .step => s.afterCmd (execNextStepWrite v s)
  | .hdw => s.afterCmd (execCursorWrite (Fin.ofNat 8 ((off - 0x114) / 8)) false (w64 v.toNat) s)
  | .oxb =>
    if off = 0x140 then s.afterCmd (execMirrorInit v s)
    else s.afterCmd (execPartnerWrite (Fin.ofNat 4 ((off - 0x104) / 4)) v s)
  | .chkG => s.afterCmd (if off = 0x104 then execChkSeedWrite v s else execDigestEngineStart v s)
  | .scl => s.afterCmd (execScreeTestStart v s)
  | .pmap => s.afterCmd (if off = 0x100 then execWinCfgWrite v s else execWindowPortWriteHi v s)
  | .cwn => s.writeCwn off v
  | .tly => s.afterCmd (if off = 0x100 then execHostInc v s else execBlockOwnWrite (Fin.ofNat 64 ((off - 0x200) / 4)) v s)
  | .ril c => s.writeRil c off v
  | _ => s

/-- A write of a block's register whose other bits are plain and whose bit 31 acts (R186, R457, R517, R518). -/
def State.writeGo (s : State) (p : Page) (off : Nat) (v : W32) : State :=
  match p, off with
  | .pmap, 0x110 => s.afterCmd (execBatchGo v s)
  | .boot, 0x104 => s.afterCmd (execSvnCommit v none s)
  | .boot, 0x110 => s.afterCmd (execMailboxGo v s)
  | .uhl, 0x150 => s.afterCmd (execUhlClear v s)
  | _, _ => s.writePlain p off v

/-- A 32-bit write of a register; `a` is its BAR0 address as the host gave it. -/
def State.writeReg (s : State) (a : Nat) (p : Page) (off : Nat) (v : W32) : State :=
  match p.kindAt off with
  | some .lo => s.writeLo p off v
  | some .hi => s.writeHi p off v
  | some .own => if off < 0x100 then s.writeHeader a p off v else s.writeOwn p off v
  | some .plain =>
    if off < 0x100 then s.writeHeader a p off v
    else if bitOf v 31 then s.writeGo p off v else s.writePlain p off v
  | none => s

/-! ### The windows of R33 -/

/-- A write of one word, or of an aligned pair, in a window without pages (R33, R67, R145, R185, R237, R238, R254, R337,
R346); a low half written alone in the Page Map is the held word (R37). -/
def State.writeWindow (s : State) (a : Nat) (wide : Bool) (v : W64) : State :=
  if 0x1000000 ≤ a ∧ a < 0x19A0000 then
    let c := Fin.ofNat 77 ((a - 0x1000000) / 0x20000)
    let o := a % 0x10000
    if a % 0x20000 < 0x10000 then
      let i := BitVec.ofNat 14 (o / 4)
      s.afterCmd (execProgramMemoryWrite c (if wide then .words i v else .word i (lo32 v)) s)
    else s.afterCmd (execDataMemoryWrite c (BitVec.ofNat 16 o) wide v s)
  else if 0x2000000 ≤ a ∧ a < 0x2004000 then s.afterCmd (execTallyWrite (Fin.ofNat 4096 ((a - 0x2000000) / 4)) wide v s)
  else if 0x2400000 ≤ a ∧ a < 0x2800000 then
    if !wide && a % 8 == 0 then s.setHeld a (lo32 v)
    else s.afterCmd (execPageMapWrite (BitVec.ofNat 19 ((a - 0x2400000) / 8)) wide v s)
  else if 0x2800000 ≤ a ∧ a < 0x3000000 then s.afterCmd (execScaleTableWrite (BitVec.ofNat 23 (a - 0x2800000)) wide v s)
  else if 0x3000000 ≤ a ∧ a < 0x3100000 then s.afterCmd (execNormTableWrite (BitVec.ofNat 20 (a - 0x3000000)) wide v s)
  else if 0x3100000 ≤ a ∧ a < 0x3200000 then s.afterCmd (execNoiseTableWrite (BitVec.ofNat 20 (a - 0x3100000)) wide v s)
  else if 0x3200000 ≤ a ∧ a < 0x3210000 then s.afterCmd (execExpertTableWrite (BitVec.ofNat 16 (a - 0x3200000)) wide v s)
  else s

/-- A BAR0 address lies in no page but in a window. -/
def inWindow (a : Nat) : Bool := decide (0x1000000 ≤ a)

/-! ### Accesses of each size (R30) -/

/-- A 32-bit write at an address (R30, R31); the MSI-X table takes it too (R504). -/
def State.write32 (s : State) (a : Nat) (v : W32) : State :=
  if 0xA000 ≤ a ∧ a < 0xB000 then s.msixWrite a v
  else match s.target a, s.reach a with
    | some (p, off), _ => s.writeReg a p off v
    | none, some b => if inWindow b then s.writeWindow b false (w64 v.toNat) else s
    | none, none => s

/-- An aligned 64-bit write: both halves of a pair together, which the low half held and the high half written make;
else two accesses, the lower address first (R30, R37). The windows take the whole (R238, R254). -/
def State.write64 (s : State) (a : Nat) (v : W64) : State :=
  match s.reach a with
  | some b => if inWindow b then s.writeWindow b true v else (s.write32 a (lo32 v)).write32 (a + 4) (hi32 v)
  | none => (s.write32 a (lo32 v)).write32 (a + 4) (hi32 v)

/-- An unaligned write: the writable bits of every register that it touches, and the words of a window, are unpredictable
(R30); the interrupts of the pages follow (R38). -/
def State.writeAstray (s : State) (a n : Nat) : State :=
  let ws := (List.range (n / 4 + 1)).map fun i => (a / 4 + i) * 4
  ((ws.filter fun x => decide (x < a + n)).foldl (fun t x =>
    match t.target x, t.reach x with
    | some (p, off), _ => (t.storeBits p off (Config.freeWord s.free x)).irqUpdate p
    | none, some b => if inWindow b then t.writeWindow b false (w64 (Config.freeWord s.free x).toNat) else t
    | none, none => t) s).fresh

/-- REGISTER_WRITE (R30): a write of BAR0; it reaches a register that has a command of its own as that command does. -/
def execRegisterWrite (addr : BitVec 29) (size : WSize) (value : W64) (s : State) : Host.Outcome State Fault Refusal :=
  let a := addr.toNat
  .next (if s.asleep then s else match size with
    | .b8 | .b16 => s
    | .b32 => if a % 4 = 0 then s.write32 a (lo32 value) else s.writeAstray a 4
    | .b64 => if a % 8 = 0 then s.write64 a value else s.writeAstray a 8)

end Sys2Proof.Machine
end

