-- ==== Sys2Proof/Machine/Fabric.lean ====
section
/-! DEFINITION. Fabric transactions: issue and routing (R295, R300), answers at the requester (R296, R297), requests at their
target (R182, R298, R304, R305), floods (R298, R325, R394). -/
namespace Sys2Proof.Machine

/-! ### The requester's side: answers (R297) -/

/-- An output write of a tile op is answered; a failure is a translation fault with the reason given (R180, R297). -/
def State.tileAnswer (s : State) (n op a reason : Nat) : State :=
  match (s.ridge n).tileOp? op with
  | none => s
  | some o =>
    let ok := reason == 0
    let o1 := { o with remote := o.remote - 1, xfault := o.xfault || !ok }
    let t := s.setRidge n ((s.ridge n).putTile o1)
    let t := if ok then t else t.recordXlate reason 0 o.desc.ctx n a
    let t := if ok || o.xfault then t else t.opFault o.desc 0x0B reason 0x21
    if o.ph = .writing then t.finishTile n o1 else t

/-- A transaction of this device is over; `reason` is 0, or that of the translation fault in which it ends. -/
def State.answerWhy (s : State) (r : FReq) (status : Option Nat) (reason : Nat) (bs : List OutByte) : State :=
  let ok := reason == 0
  let a := r.own.getD r.addr
  let t := match r.who with
    | .tile n op => s.tileAnswer n op a reason
    | .fetch n op key => s.fetchAnswer n op key reason bs
    | .dma c key => s.dmaAnswer c key reason bs
    | .cfl e key => s.cflAnswer e key status reason bs
    | .win w gen => s.refAnswer w gen reason a bs
    | .step key => s.stepAnswer key (if ok then some 0 else none) bs
    | .service x n wr => s.svcAnswer x n wr ok bs
    | .host key off => s.hostAnswer key off ok bs
    | .msg e d => s.msgAnswer e d a reason
    | .table q id off => s.tableAnswer q id off reason a bs
    | .none => s
  match r.who, ok, r.kind with
  | .fetch _ _ _, false, 2 => t.stepAbort 0x04
  | .fetch _ _ _, false, 3 => t.stepAbort 0x04
  | _, _, _ => t

/-- A transaction of this device ends with a status, or by its timeout (none); `bs` are the bytes that came with it. -/
def State.answer (s : State) (r : FReq) (status : Option Nat) (bs : List OutByte) : State :=
  s.answerWhy r status (if status = some 0 then 0 else 0x06) bs

/-! ### The target's side: performing a request (R298) -/

/-- Perform a request on the memory at an HBM key, for board address `a`: the bytes that answer it; a reduction that met poison is
answered with a mark of it (R195, R199, R201, log entry 116). -/
def State.performReq (s : State) (kind rop : Nat) (wide : Bool) (a key len : Nat) (data : List OutByte) (us : List GranUse) :
    State × List OutByte :=
  match kind with
  | 0 =>
    let t := s.readRange 0 key len us
    t.asRead 0 (fun i => (a + i) % 2 ^ 43) (t.keyBytes key len)
  | 1 => ((s.writeRange 0 key len us).putBoard a key data, [])
  | k =>
    let r := (s.readRange 0 key len us).combineAll rop (if wide then 8 else 4) key data
    let t := r.s.smear (s.dmaDest none false) a len key
    let u := if r.bad then (t.bsnInfo (key / 2 ^ 38) 5 0).setErr (.bsn (key / 2 ^ 38)) 1 else t
    (u, if k = 3 then r.old else if r.bad then [(0, true)] else [])

/-- The kind of access of a transaction (R181). -/
def kindAcc (kind : Nat) : Acc := match kind with | 0 => .rd | 1 => .wr | _ => .at

/-- A request that R182 judges at port `p`: its status and bytes; `m` is what its entry and its granules meet. -/
def State.serveReq (s : State) (p kind rop : Nat) (wide : Bool) (a len : Nat) (data : List OutByte) (m : MemUse) :
    State × Nat × List OutByte :=
  let t := s.lookup (portDie p) 0 a (m.pm.headD .clean)
  match t.mayServe p (kindAcc kind) a with
  | .error r => (t.recordXlate r 3 0 p a, if r = 0x09 then 4 else 2, [])
  | .ok (st, x) =>
    let y := t.performReq kind rop wide a (memKey st x) len data m.gran
    (y.1, 0, y.2)

/-! ### Issue (R295, R300) -/

/-- The header of a request of this device. -/
def State.reqHeader (s : State) (r : FReq) (tag : Nat) (detour : Bool) : List W32 :=
  txHeader r.kind r.rop r.wide 0 detour tag s.myGroup s.myDev r.group r.dev r.port r.addr r.len r.arg r.body

/-- The bytes of a request with their poison. -/
def FReq.out (r : FReq) : List OutByte :=
  ((List.range r.data.length).zip r.data).map fun p => (p.2, r.bad.has ((r.addr + p.1) / 64 - r.addr / 64))

/-- The slots of a request. -/
def State.reqSlots (s : State) (r : FReq) (tag : Nat) (detour : Bool) : List Slot :=
  { words := s.reqHeader r tag detour, hdr := true } :: (if r.data.isEmpty then [] else dataSlots r.addr r.data r.bad)

/-- The port has 2,048 outstanding transactions (R295). -/
def Port.full (k : Port) : Bool := decide (2048 ≤ k.outs.length)

/-- A tag for a transaction of port `p` (R295, R296): no outstanding transaction of the port bears it, nor, while there is such a
number, one of another port or one whose late response may still come. -/
def State.freeTag (s : State) (p : Nat) : Nat :=
  let busy (k : Port) (t : Nat) : Bool := k.outs.any fun o => o.tag == t
  let held (t : Nat) : Bool := (List.range 36).any fun q => busy (s.port q) t || (s.port q).late.any fun o => o.tag == t
  (((List.range 2048).find? fun t => !(held t)) <|> ((List.range 2048).find? fun t => !(busy (s.port p) t))).getD 0

/-- The die of the requester of a transaction (R8). -/
def Who.die : Who → Nat
  | .tile n _ => n / 16
  | .fetch n _ _ => n / 16
  | .cfl e _ => cflDie e
  | .msg e _ => cflDie e
  | .table q _ _ => if q < 8 then cflDie q else 4
  | _ => 4

/-- A request to this device itself is served here and answered at once. -/
def State.issueHere (s : State) (r : FReq) : State :=
  let p := 0
  if r.kind = 4 then
    match s.msgArrive r.arg r.addr r.body with
    | (t, some st) => t.answer r (some st) []
    | (t, none) => t.submit r
  else
    let y := s.serveReq p r.kind r.rop r.wide r.addr r.len r.out {}
    y.1.answer r (some y.2.1) y.2.2

/-- Send a FLOOD on every UP port but one (R298). -/
def State.floodOut (s : State) (but : Option Nat) (h : List W32) : State :=
  ((List.range 36).filter fun p => (s.port p).st == .up && but != some p).foldl
    (fun t p => t.enqueue p { cls := 2, vc := 0, slots := [{ words := h, hdr := true }] }) s

/-- A transaction of this device leaves by port `p`; one whose way to the port crosses a die-to-die link that is down ends in a
translation fault (R13, R180). -/
def State.issueBy (s : State) (r : FReq) (p : Nat) (detour : Bool) : State :=
  if s.routeDown r.who.die (portDie p) then s.answerWhy r none 0x09 []
  else
    let k := s.port p
    let tag := s.freeTag p
    let t := s.setPort p { k with outs := k.outs ++ [{ tag := tag, req := r, since := s.refcnt }] }
    let t := if detour then t.event (.prt p) 0x07 1 else t
    t.enqueue p { cls := 0, vc := 0, slots := s.reqSlots r tag detour, tag := some tag }

/-- Issue a transaction of this device: among its candidates it takes the one with the shortest queue that has fewer than 2,048
outstanding; while none has, it waits (R295, R300). -/
def State.issueOwn (s : State) (r : FReq) : State :=
  if r.kind = 5 then s.floodOut none (s.reqHeader r 0 false)
  else if r.group = s.myGroup ∧ r.dev = s.myDev ∧ r.port = 0x3F then s.issueHere r
  else
    let c := s.routes 0 0 false r.group r.dev r.port
    match s.shortest (c.1.filter fun p => !(s.port p).full), c.1 with
    | some p, _ => s.issueBy r p (s.marked c false p)
    | none, p :: _ => (s.event (.prt p) 0x06 1).submit r
    | none, [] => (s.event (.prt 0) 0x09 1).answer r (some 4) []

/-- The status of a response that refuses a request. -/
def rspHeader (h : List W32) (status : Nat) : List W32 :=
  txHeader 8 status false 0 false (thTag h) (thSrcGroup h) (thSrcDev h) (thDstGroup h) (thDstDev h) (thDstPort h) (thAddr h)
    (thLen h) 0 []

/-- The port that a transaction at port `p` takes, if the way to it crosses no link that is down (R13, R294). -/
def State.onward (s : State) (p cls hops : Nat) (detour : Bool) (g d dport : Nat) : Except Bool (Nat × Bool) :=
  match s.route cls hops detour g d dport with
  | none => .error false
  | some x => if s.routeDown (portDie p) (portDie x.1) then .error true else .ok x

/-- Send a response to the requester named in a header; without a way to it it is lost, and the requester reaches its timeout. -/
def State.respond (s : State) (p : Nat) (h : List W32) (status : Nat) (bs : List OutByte) : State :=
  match s.onward p 1 0 false (thSrcGroup h) (thSrcDev h) 0x3F with
  | .ok (q, detour) =>
    let slots : List Slot := { words := thSet (rspHeader h status) 0 detour, hdr := true } ::
      (if bs.isEmpty then [] else dataSlots (thAddr h) (bs.map Prod.fst) (badSlots (thAddr h) bs))
    (if detour then s.event (.prt q) 0x07 1 else s).enqueue q { cls := 1, vc := 0, slots := slots }
  | .error _ => s.event (.prt p) 0x09 1

/-- Send a transaction on towards its next device (R300): the header with its hops and detour mark, and its data. A request whose
way to its port is down is recorded, and answered as unreachable (R13). -/
def State.passOn (s : State) (p cls hops : Nat) (h : List W32) (data : List Slot) : State :=
  let dest := if cls = 1 then (thSrcGroup h, thSrcDev h, 0x3F) else (thDstGroup h, thDstDev h, thDstPort h)
  match (if 8 ≤ hops then .error false else s.onward p cls hops (thDetour h) dest.1 dest.2.1 dest.2.2 : Except Bool (Nat × Bool)) with
  | .ok (q, detour) =>
    let slots : List Slot := { words := thSet h hops detour, hdr := true } :: data
    (if detour && !(thDetour h) then s.event (.prt q) 0x07 1 else s).enqueue q { cls := cls, vc := hops, slots := slots }
  | .error down =>
    let t := s.event (.prt p) 0x09 1
    if cls = 1 then t else (if down then t.recordXlate 0x09 3 0 p (thAddr h) else t).respond p h 4 []

/-- A transaction in transit that a fence returned takes another candidate (R313). -/
def State.reissue (s : State) (p cls : Nat) (slots : List Slot) : State :=
  match slots with
  | [] => s
  | x :: data =>
    if cls = 2 then s
    else s.passOn p cls (thHops x.words) x.words data

/-- TRANSACTION_ISSUE (R295, R300, R301): one waiting transaction is issued. -/
def execTransactionIssue (i : BitVec 16) (s : State) : Host.Outcome State Fault Refusal :=
  let n := i.toNat
  .next (match s.fwait[n]? with
    | some r => { s with fwait := s.fwait.eraseIdx n }.issueOwn r
    | none =>
      let m := n - s.fwait.length
      match s.transit[m]? with
      | some (p, cls, slots) => { s with transit := s.transit.eraseIdx m }.reissue p cls slots
      | none => s)

/-- TRANSACTION_TIMEOUT (R296): an outstanding transaction of a port has waited `TXN_CFG.TIMEOUT` µs. -/
def execTransactionTimeout (port : Fin 36) (tag : BitVec 11) (s : State) : Host.Outcome State Fault Refusal :=
  let p := port.val
  let k := s.port p
  .next (match k.outs.find? fun o => o.tag == tag.toNat with
    | none => s
    | some o =>
      let t := s.advance o.since (s.field (.prt p) 0x114 15 0 * 100)
      let t := t.setPort p { k with outs := k.outs.erase o, late := (k.late ++ [o]).drop (k.late.length + 1 - 2048) }
      let t := ((t.addSat (.prt p) 0x148 1).setErr (.prt p) 1).event (.prt p) 0x08 1
      t.answer o.req none [])

/-! ### Responses (R297) -/

/-- The data slots that follow the header at the front of a queue. -/
def dataAfter (l : List Slot) : List Slot := (l.drop 1).takeWhile fun x => !x.hdr

/-- The transaction answered has the address, length and target of a response's header. -/
def OutTxn.fits (o : OutTxn) (h : List W32) : Bool :=
  o.tag == thTag h && o.req.addr == thAddr h && o.req.len == thLen h && o.req.group == thDstGroup h && o.req.dev == thDstDev h

/-- The first transaction of a list by port that satisfies `f`: on port `p`, or else on any. -/
def State.findTxn (s : State) (p : Nat) (l : Port → List OutTxn) (f : OutTxn → Bool) : Option (Nat × OutTxn) :=
  (p :: List.range 36).findSome? fun q => ((l (s.port q)).find? f).map fun o => (q, o)

/-- What a response at port `p` answers: the outstanding transaction that its address, length and target fit; else one that its tag
names, unless a transaction that has ended by its timeout bears that tag (R290, R296, log entry 116). -/
def State.outFor (s : State) (p : Nat) (h : List W32) : Option (Nat × OutTxn) :=
  let tagged (o : OutTxn) : Bool := o.tag == thTag h
  s.findTxn p Port.outs (fun o => o.fits h) <|>
    (if (s.findTxn p Port.late tagged).isSome then none else s.findTxn p Port.outs tagged)

/-- A late response is discarded and counted; nothing waits for it any more (R296). -/
def State.lateRsp (s : State) (p : Nat) (h : List W32) : State :=
  let t := s.event (.prt p) 0x0A 1
  match s.findTxn p Port.late fun o => o.tag == thTag h with
  | some (q, o) => t.setPort q { t.port q with late := (t.port q).late.erase o }
  | none => t

/-- The bytes that a response brings its transaction: those of its data slots, or for a reduction the mark that it met poison. -/
def rspBytes (o : OutTxn) (status : Nat) (data : List Slot) : List OutByte :=
  if status ≠ 0 then []
  else if o.req.kind = 0 ∨ o.req.kind = 3 then slotBytes o.req.addr o.req.len data
  else if o.req.kind = 2 ∧ data.any Slot.bad then [(0, true)] else []

/-- RESPONSE_RECEIVE (R297): the response at the front of a queue, all of it received, answers its transaction or goes on. -/
def execResponseReceive (port : Fin 36) (vc : Fin 8) (s : State) : Host.Outcome State Fault Refusal :=
  let p := port.val
  let k := s.port p
  let q := k.rx 1 vc.val
  .next (match q with
    | [] => s
    | x :: _ =>
      if !x.hdr then (s.setPort p (k.freeRx 1 vc.val 1)).pump p
      else
        let h := x.words
        let data := dataAfter q
        let t := (s.setPort p (k.freeRx 1 vc.val (1 + data.length))).pump p
        if thSrcGroup h = s.myGroup ∧ thSrcDev h = s.myDev then
          match t.outFor p h with
          | none => t.lateRsp p h
          | some (r, o) =>
            let kr := t.port r
            (t.setPort r { kr with outs := kr.outs.erase o }).answer o.req (some (thRop h)) (rspBytes o (thRop h) data)
        else t.passOn p 1 (thHops h + 1) h data)

/-! ### Requests that arrive (R298, R304, R305) -/

/-- The slots of data that a request brings. -/
def reqData (h : List W32) : Nat := if thKind h = 1 ∨ thKind h = 2 ∨ thKind h = 3 then slotCount (thAddr h) (thLen h) else 0

/-- A request that no rule lets a device make: it crosses a 2 KiB boundary (R290), or its elements are not those of R189. -/
def reqMalformed (h : List W32) : Bool :=
  let n := if thWide h then 8 else 4
  decide (2048 < thAddr h % 2048 + thLen h) ||
  ((thKind h == 2 || thKind h == 3) && (decide (10 ≤ thRop h) || (decide (8 ≤ thRop h) && thWide h) ||
    thAddr h % n != 0 || thLen h % n != 0))

/-- Some window of the firewall of the port admits the request (R304). -/
def State.firewall (s : State) (p : Nat) (h : List W32) : Bool :=
  let q := s.portAs p
  let a := pageOf (thAddr h)
  let z := pageOf ((thAddr h + thLen h - 1) % 2 ^ 43)
  (List.range 8).any fun w =>
    let lo := s.reg (.prt2 q) (0x140 + 8 * w)
    let hi := s.reg (.prt2 q) (0x144 + 8 * w)
    bitOf hi 31 && decide (fld lo 18 0 ≤ a) && decide (z ≤ fld hi 18 0) &&
      match thKind h with
      | 0 => bitOf hi 30
      | 1 => bitOf hi 29
      | 4 => bitOf hi 29
      | _ => bitOf hi 30 && bitOf hi 29 && bitOf hi 28

/-- The firewall refuses a request: status 0x1; too many in a window fence the port (R304, R312). -/
def State.firewallHit (s : State) (p : Nat) (h : List W32) : State :=
  let k := s.port p
  let t := ((s.setPort p { k with fwW := k.fwW + 1 }).addSat (.prt p) 0x140 1).setErr (.prt p) 2
  let t := t.respond p h 1 []
  if s.field (.prt p) 0x11C 7 0 < k.fwW + 1 then t.fencePort p 0x06 else t

/-- A request that ends at this device, its slots already taken (R298, R304). -/
def State.reqHere (s : State) (p : Nat) (h : List W32) (data : List Slot) (m : MemUse) : State :=
  if !(s.firewall p h) then s.firewallHit p h
  else
    let y := s.serveReq p (thKind h) (thRop h) (thWide h) (thAddr h) (thLen h) (slotBytes (thAddr h) (thLen h) data) m
    y.1.respond p h y.2.1 y.2.2

/-- A message that has arrived is answered with its status. -/
def State.msgEnd (p : Nat) (h : List W32) (r : State × Option Nat) : State :=
  match r.2 with
  | some st => r.1.respond p h st []
  | none => r.1

/-- A message that ends at this device: it stays where it is while the queue of its engine is full (R324). -/
def State.msgHere (s t : State) (p : Nat) (h : List W32) : State :=
  let r := s.msgArrive (thArg h) (thAddr h) (thBody h)
  if !(s.firewall p h) then t.firewallHit p h
  else if r.2.isNone then r.1
  else State.msgEnd p h (t.msgArrive (thArg h) (thAddr h) (thBody h))

/-- INCOMING_REQUEST (R182, R298, R304, R305): the request at the front of a queue is refused, served, or sent on. -/
def execIncomingRequest (port : Fin 36) (vc : Fin 8) (m : MemUse) (s : State) :
    Host.Outcome State Fault Refusal :=
  let p := port.val
  let k := s.port p
  let q := k.rx 0 vc.val
  .next (match q with
    | [] => s
    | x :: _ =>
      if !x.hdr then (s.setPort p (k.freeRx 0 vc.val 1)).pump p
      else
        let h := x.words
        let n := reqData h
        if q.length < 1 + n then s
        else
          let data := (q.drop 1).take n
          let c := s.countHeader p
          let t := (c.1.setPort p ((c.1.port p).freeRx 0 vc.val (1 + n))).pump p
          let mine := decide (thDstGroup h = s.myGroup ∧ thDstDev h = s.myDev) && thDstPort h == 0x3F
          if c.2 then t.respond p h 3 []
          else if reqMalformed h then t.malformed p
          else if !mine then t.passOn p 0 (thHops h + 1) h data
          else if thKind h = 4 then s.msgHere t p h
          else t.reqHere p h data m)

/-! ### Floods (R298, R325) -/

/-- FLOOD_RECEIVE (R298, R305, R325, R394): a FLOOD is dropped if its identifier is known, otherwise sent on and acted on. -/
def execFloodReceive (port : Fin 36) (s : State) : Host.Outcome State Fault Refusal :=
  let p := port.val
  let k := s.port p
  .next (match k.rx 2 0 with
    | [] => s
    | x :: _ =>
      let t := (s.setPort p (k.freeRx 2 0 1)).pump p
      if !x.hdr || thKind x.words != 5 then t
      else
        let c := t.countHeader p
        let h := x.words
        let b := thBody h
        let id := join64 (wordAt b 1) (wordAt b 0)
        if c.2 || c.1.fab.floods.contains id then c.1
        else
          let u := { c.1 with fab := { c.1.fab with floods := (id :: c.1.fab.floods).take 64 } }
          let u := u.floodOut (some p) (thSet h ((thHops h + 1) % 8) (thDetour h))
          if fld (thArg h) 31 24 = 1 then
            u.abortFloodGot (thSrcGroup h * 16 + thSrcDev h) (join64 (wordAt b 3) (wordAt b 2)) (wordAt b 4)
          else u.setErr (.cfl 0) 3)

end Sys2Proof.Machine
end

