-- ==== Sys2Proof/Machine/Dispatch.lean ====
section
/-! DEFINITION. The dispatch: one arm for each command. -/
namespace Sys2Proof.Machine

/-- The effect of one command on everything but the queue. -/
def exec (i : Instr) (s : State) : Host.Outcome State Fault Refusal :=
  match i with
  | .registerWrite addr size value => Sys2Proof.Machine.execRegisterWrite addr size value s
  | .pairLoWrite addr value => Sys2Proof.Machine.execPairLoWrite addr value s
  | .pairHiWrite addr value => Sys2Proof.Machine.execPairHiWrite addr value s
  | .sealKeyWrite addr value => Sys2Proof.Machine.execSealKeyWrite addr value s
  | .errStatClear addr value detect => Sys2Proof.Machine.execErrStatClear addr value detect s
  | .errFirstClear addr value => Sys2Proof.Machine.execErrFirstClear addr value s
  | .errInjWrite addr value => Sys2Proof.Machine.execErrInjWrite addr value s
  | .hardRegScan addr strikes => Sys2Proof.Machine.execHardRegScan addr strikes s
  | .partCfgWrite value => Sys2Proof.Machine.execPartCfgWrite value s
  | .d2dTransferRetry link fails => Sys2Proof.Machine.execD2dTransferRetry link fails s
  | .operationAccept die => Sys2Proof.Machine.execOperationAccept die s
  | .operationBegin die shareTally => Sys2Proof.Machine.execOperationBegin die shareTally s
  | .shareComplete ridge => Sys2Proof.Machine.execShareComplete ridge s
  | .tileOpAccept ridge e => Sys2Proof.Machine.execTileOpAccept ridge e s
  | .tileOpReachArray ridge array tarn => Sys2Proof.Machine.execTileOpReachArray ridge array tarn s
  | .arrayPass ridge array parity acc tarn => Sys2Proof.Machine.execArrayPass ridge array parity acc tarn s
  | .tileDrain ridge array acc tarn m => Sys2Proof.Machine.execTileDrain ridge array acc tarn m s
  | .arrayRampStep ridge array => Sys2Proof.Machine.execArrayRampStep ridge array s
  | .arrayHoldExpire ridge array => Sys2Proof.Machine.execArrayHoldExpire ridge array s
  | .tarnZeroingStart ridge => Sys2Proof.Machine.execTarnZeroingStart ridge s
  | .tarnZeroingDone ridge => Sys2Proof.Machine.execTarnZeroingDone ridge s
  | .tarnScrubRead ridge e => Sys2Proof.Machine.execTarnScrubRead ridge e s
  | .brookOpAccept ridge e => Sys2Proof.Machine.execBrookOpAccept ridge e s
  | .brookOpExecute ridge tarn => Sys2Proof.Machine.execBrookOpExecute ridge tarn s
  | .brookOpComplete ridge => Sys2Proof.Machine.execBrookOpComplete ridge s
  | .scaleTableWrite off wide value => Sys2Proof.Machine.execScaleTableWrite off wide value s
  | .normTableWrite off wide value => Sys2Proof.Machine.execNormTableWrite off wide value s
  | .noiseTableWrite off wide value => Sys2Proof.Machine.execNoiseTableWrite off wide value s
  | .expertTableWrite off wide value => Sys2Proof.Machine.execExpertTableWrite off wide value s
  | .screeTestStart value => Sys2Proof.Machine.execScreeTestStart value s
  | .screeTestDone => Sys2Proof.Machine.execScreeTestDone s
  | .hbmTrainFill stack ok lanes => Sys2Proof.Machine.execHbmTrainFill stack ok lanes s
  | .hbmFillDone stack => Sys2Proof.Machine.execHbmFillDone stack s
  | .hbmScrubRead stack e => Sys2Proof.Machine.execHbmScrubRead stack e s
  | .winCfgWrite value => Sys2Proof.Machine.execWinCfgWrite value s
  | .pageMapWrite page wide value => Sys2Proof.Machine.execPageMapWrite page wide value s
  | .batchGo value => Sys2Proof.Machine.execBatchGo value s
  | .batchApply => Sys2Proof.Machine.execBatchApply s
  | .xlateCacheRefill ridge page e tarn => Sys2Proof.Machine.execXlateCacheRefill ridge page e tarn s
  | .windowPortReadLo wide => Sys2Proof.Machine.execWindowPortReadLo wide s
  | .windowPortReadHi => Sys2Proof.Machine.execWindowPortReadHi s
  | .windowPortWriteHi value => Sys2Proof.Machine.execWindowPortWriteHi value s
  | .fetchOpAccept ridge => Sys2Proof.Machine.execFetchOpAccept ridge s
  | .fetchChunkIssue ridge op tarn => Sys2Proof.Machine.execFetchChunkIssue ridge op tarn s
  | .fetchChunkDone ridge op chunk us tarn => Sys2Proof.Machine.execFetchChunkDone ridge op chunk us tarn s
  | .nop c e => Sys2Proof.Machine.execNop c e s
  | .addR c e => Sys2Proof.Machine.execAddR c e s
  | .subR c e => Sys2Proof.Machine.execSubR c e s
  | .andR c e => Sys2Proof.Machine.execAndR c e s
  | .orR c e => Sys2Proof.Machine.execOrR c e s
  | .xorR c e => Sys2Proof.Machine.execXorR c e s
  | .shl c e => Sys2Proof.Machine.execShl c e s
  | .shr c e => Sys2Proof.Machine.execShr c e s
  | .sar c e => Sys2Proof.Machine.execSar c e s
  | .mulR c e => Sys2Proof.Machine.execMulR c e s
  | .addi c e => Sys2Proof.Machine.execAddi c e s
  | .andi c e => Sys2Proof.Machine.execAndi c e s
  | .ori c e => Sys2Proof.Machine.execOri c e s
  | .xori c e => Sys2Proof.Machine.execXori c e s
  | .shli c e => Sys2Proof.Machine.execShli c e s
  | .shri c e => Sys2Proof.Machine.execShri c e s
  | .sari c e => Sys2Proof.Machine.execSari c e s
  | .li c e => Sys2Proof.Machine.execLi c e s
  | .lis c e => Sys2Proof.Machine.execLis c e s
  | .trd c e => Sys2Proof.Machine.execTrd c e s
  | .cmp c e => Sys2Proof.Machine.execCmp c e s
  | .cmpi c e => Sys2Proof.Machine.execCmpi c e s
  | .br c e => Sys2Proof.Machine.execBr c e s
  | .call c e => Sys2Proof.Machine.execCall c e s
  | .jr c e => Sys2Proof.Machine.execJr c e s
  | .halt c e => Sys2Proof.Machine.execHalt c e s
  | .prog c e => Sys2Proof.Machine.execProg c e s
  | .gets c e => Sys2Proof.Machine.execGets c e s
  | .sets c e => Sys2Proof.Machine.execSets c e s
  | .rett c e => Sys2Proof.Machine.execRett c e s
  | .ld64 c e d => Sys2Proof.Machine.execLd64 c e d s
  | .ld32 c e d => Sys2Proof.Machine.execLd32 c e d s
  | .st64 c e => Sys2Proof.Machine.execSt64 c e s
  | .st32 c e => Sys2Proof.Machine.execSt32 c e s
  | .issue c e d => Sys2Proof.Machine.execIssue c e d s
  | .issueResume c => Sys2Proof.Machine.execIssueResume c s
  | .take c e => Sys2Proof.Machine.execTake c e s
  | .takeResume c => Sys2Proof.Machine.execTakeResume c s
  | .tinc c e => Sys2Proof.Machine.execTinc c e s
  | .twait c e => Sys2Proof.Machine.execTwait c e s
  | .twaitRelease c => Sys2Proof.Machine.execTwaitRelease c s
  | .waitLimitExpire c => Sys2Proof.Machine.execWaitLimitExpire c s
  | .hangDetect c => Sys2Proof.Machine.execHangDetect c s
  | .asyncExceptionTake c => Sys2Proof.Machine.execAsyncExceptionTake c s
  | .runCtlStart c value => Sys2Proof.Machine.execRunCtlStart c value s
  | .runCtlStop c => Sys2Proof.Machine.execRunCtlStop c s
  | .programMemoryWrite c target => Sys2Proof.Machine.execProgramMemoryWrite c target s
  | .dataMemoryWrite c off wide value => Sys2Proof.Machine.execDataMemoryWrite c off wide value s
  | .commandWindowWrite w off data enables => Sys2Proof.Machine.execCommandWindowWrite w off data enables s
  | .recordNop w => Sys2Proof.Machine.execRecordNop w s
  | .recordDesc w => Sys2Proof.Machine.execRecordDesc w s
  | .recordDescRef w pm => Sys2Proof.Machine.execRecordDescRef w pm s
  | .descRefReadDone w us => Sys2Proof.Machine.execDescRefReadDone w us s
  | .recordTinc w => Sys2Proof.Machine.execRecordTinc w s
  | .recordProg w => Sys2Proof.Machine.execRecordProg w s
  | .recordWaitRelease w pm => Sys2Proof.Machine.execRecordWaitRelease w pm s
  | .winCtlEnWrite w en => Sys2Proof.Machine.execWinCtlEnWrite w en s
  | .winCtlResume w => Sys2Proof.Machine.execWinCtlResume w s
  | .winNextWrite w value => Sys2Proof.Machine.execWinNextWrite w value s
  | .tallyWrite t wide value => Sys2Proof.Machine.execTallyWrite t wide value s
  | .hostInc value => Sys2Proof.Machine.execHostInc value s
  | .blockOwnWrite b value => Sys2Proof.Machine.execBlockOwnWrite b value s
  | .slotTokWrite slot value => Sys2Proof.Machine.execSlotTokWrite slot value s
  | .dmaDescAccept c => Sys2Proof.Machine.execDmaDescAccept c s
  | .dmaReadAccess c host m => Sys2Proof.Machine.execDmaReadAccess c host m s
  | .dmaWriteAccess c m => Sys2Proof.Machine.execDmaWriteAccess c m s
  | .dmaDescComplete c => Sys2Proof.Machine.execDmaDescComplete c s
  | .dmaBusError c => Sys2Proof.Machine.execDmaBusError c s
  | .dmaResume c => Sys2Proof.Machine.execDmaResume c s
  | .dmaAbort c => Sys2Proof.Machine.execDmaAbort c s
  | .chCfgWrite c value => Sys2Proof.Machine.execChCfgWrite c value s
  | .portTrainAttempt port ok peerGen2 nonce => Sys2Proof.Machine.execPortTrainAttempt port ok peerGen2 nonce s
  | .helloReceive port hello => Sys2Proof.Machine.execHelloReceive port hello s
  | .admitReceive port sig key => Sys2Proof.Machine.execAdmitReceive port sig key s
  | .admitTimeout port => Sys2Proof.Machine.execAdmitTimeout port s
  | .flitReceive port flit => Sys2Proof.Machine.execFlitReceive port flit s
  | .nakReceive port ack => Sys2Proof.Machine.execNakReceive port ack s
  | .transactionIssue n => Sys2Proof.Machine.execTransactionIssue n s
  | .transactionTimeout port tag => Sys2Proof.Machine.execTransactionTimeout port tag s
  | .responseReceive port vc => Sys2Proof.Machine.execResponseReceive port vc s
  | .incomingRequest port vc m => Sys2Proof.Machine.execIncomingRequest port vc m s
  | .floodReceive port => Sys2Proof.Machine.execFloodReceive port s
  | .probeSend port => Sys2Proof.Machine.execProbeSend port s
  | .probeReceive port count => Sys2Proof.Machine.execProbeReceive port count s
  | .probeReplyReceive port count => Sys2Proof.Machine.execProbeReplyReceive port count s
  | .probeMiss port => Sys2Proof.Machine.execProbeMiss port s
  | .lossOfLight port => Sys2Proof.Machine.execLossOfLight port s
  | .starveEpisode port => Sys2Proof.Machine.execStarveEpisode port s
  | .fenceWindowExpire port => Sys2Proof.Machine.execFenceWindowExpire port s
  | .rateIntervalExpire port => Sys2Proof.Machine.execRateIntervalExpire port s
  | .linkMapUpdate port idx entry => Sys2Proof.Machine.execLinkMapUpdate port idx entry s
  | .discStart value => Sys2Proof.Machine.execDiscStart value s
  | .discTimeout => Sys2Proof.Machine.execDiscTimeout s
  | .portCtlAdmit port value => Sys2Proof.Machine.execPortCtlAdmit port value s
  | .portCtlFence port value => Sys2Proof.Machine.execPortCtlFence port value s
  | .portCtlUnfence port value => Sys2Proof.Machine.execPortCtlUnfence port value s
  | .portCtlRetrain port value => Sys2Proof.Machine.execPortCtlRetrain port value s
  | .pull e m => Sys2Proof.Machine.execPull e m s
  | .pullCombine e m => Sys2Proof.Machine.execPullCombine e m s
  | .notify e => Sys2Proof.Machine.execNotify e s
  | .finish e m => Sys2Proof.Machine.execFinish e m s
  | .put e m => Sys2Proof.Machine.execPut e m s
  | .pullChunkArrive e m => Sys2Proof.Machine.execPullChunkArrive e m s
  | .msgReadyReceive e => Sys2Proof.Machine.execMsgReadyReceive e s
  | .msgDoneReceive e => Sys2Proof.Machine.execMsgDoneReceive e s
  | .allreduce e => Sys2Proof.Machine.execAllreduce e s
  | .reduceScatter e => Sys2Proof.Machine.execReduceScatter e s
  | .allgather e => Sys2Proof.Machine.execAllgather e s
  | .broadcast e => Sys2Proof.Machine.execBroadcast e s
  | .alltoall e => Sys2Proof.Machine.execAlltoall e s
  | .permute e => Sys2Proof.Machine.execPermute e s
  | .ring e => Sys2Proof.Machine.execRing e s
  | .ringRound e => Sys2Proof.Machine.execRingRound e s
  | .send e => Sys2Proof.Machine.execSend e s
  | .recv e => Sys2Proof.Machine.execRecv e s
  | .reduce e => Sys2Proof.Machine.execReduce e s
  | .barrier e => Sys2Proof.Machine.execBarrier e s
  | .collectiveComplete e => Sys2Proof.Machine.execCollectiveComplete e s
  | .collectiveTimeout e => Sys2Proof.Machine.execCollectiveTimeout e s
  | .stepOpen => Sys2Proof.Machine.execStepOpen s
  | .stepReplayOpen => Sys2Proof.Machine.execStepReplayOpen s
  | .journalCopyDone => Sys2Proof.Machine.execJournalCopyDone s
  | .slotDone => Sys2Proof.Machine.execSlotDone s
  | .stepCheck => Sys2Proof.Machine.execStepCheck s
  | .stepVote => Sys2Proof.Machine.execStepVote s
  | .voteRound1End => Sys2Proof.Machine.execVoteRound1End s
  | .voteTimeout => Sys2Proof.Machine.execVoteTimeout s
  | .stepSeal => Sys2Proof.Machine.execStepSeal s
  | .sealCopyDone => Sys2Proof.Machine.execSealCopyDone s
  | .sealWordReturn => Sys2Proof.Machine.execSealWordReturn s
  | .voteRound2End => Sys2Proof.Machine.execVoteRound2End s
  | .sealedTimeout => Sys2Proof.Machine.execSealedTimeout s
  | .resolutionReturn => Sys2Proof.Machine.execResolutionReturn s
  | .stepResolve => Sys2Proof.Machine.execStepResolve s
  | .stepLayer => Sys2Proof.Machine.execStepLayer s
  | .commitEnd => Sys2Proof.Machine.execCommitEnd s
  | .stepEndSkip => Sys2Proof.Machine.execStepEndSkip s
  | .stepEndDrop => Sys2Proof.Machine.execStepEndDrop s
  | .stepAbortAction => Sys2Proof.Machine.execStepAbortAction s
  | .stepDrainDone => Sys2Proof.Machine.execStepDrainDone s
  | .mirrorPageSend => Sys2Proof.Machine.execMirrorPageSend s
  | .mirrorPageConfirm => Sys2Proof.Machine.execMirrorPageConfirm s
  | .copyBeforeWriteStall m counts => Sys2Proof.Machine.execCopyBeforeWriteStall m counts s
  | .mirrorInit value => Sys2Proof.Machine.execMirrorInit value s
  | .remirror value => Sys2Proof.Machine.execRemirror value s
  | .partnerWrite n value => Sys2Proof.Machine.execPartnerWrite n value s
  | .nextStepWrite value => Sys2Proof.Machine.execNextStepWrite value s
  | .cursorWrite k wide value => Sys2Proof.Machine.execCursorWrite k wide value s
  | .stepDecide value => Sys2Proof.Machine.execStepDecide value s
  | .stragClr value => Sys2Proof.Machine.execStragClr value s
  | .opTimeout ridge kind op => Sys2Proof.Machine.execOpTimeout ridge kind op s
  | .contextAbort part value => Sys2Proof.Machine.execContextAbort part value s
  | .ridgeQuiesce ridge value => Sys2Proof.Machine.execRidgeQuiesce ridge value s
  | .dmaQuiesce c value => Sys2Proof.Machine.execDmaQuiesce c value s
  | .cflQuiesce e value => Sys2Proof.Machine.execCflQuiesce e value s
  | .partitionQuiesce value => Sys2Proof.Machine.execPartitionQuiesce value s
  | .quiesceTimeout ridge => Sys2Proof.Machine.execQuiesceTimeout ridge s
  | .escGoChipReset value => Sys2Proof.Machine.execEscGoChipReset value s
  | .escGoPowerCycle value => Sys2Proof.Machine.execEscGoPowerCycle value s
  | .chipReset cause => Sys2Proof.Machine.execChipReset cause s
  | .mailboxGo value => Sys2Proof.Machine.execMailboxGo value s
  | .ckptDigest => Sys2Proof.Machine.execCkptDigest s
  | .ckptTables => Sys2Proof.Machine.execCkptTables s
  | .ckptSign => Sys2Proof.Machine.execCkptSign s
  | .verifyBytes => Sys2Proof.Machine.execVerifyBytes s
  | .verifyPageList => Sys2Proof.Machine.execVerifyPageList s
  | .verifySignature => Sys2Proof.Machine.execVerifySignature s
  | .ckptLoad => Sys2Proof.Machine.execCkptLoad s
  | .flashRead => Sys2Proof.Machine.execFlashRead s
  | .flashErase => Sys2Proof.Machine.execFlashErase s
  | .flashProgram => Sys2Proof.Machine.execFlashProgram s
  | .flashSelect => Sys2Proof.Machine.execFlashSelect s
  | .flashConfirm => Sys2Proof.Machine.execFlashConfirm s
  | .attestationReport => Sys2Proof.Machine.execAttestationReport s
  | .cairnPairBorrow check => Sys2Proof.Machine.execCairnPairBorrow check s
  | .cairnAcqTimeout check => Sys2Proof.Machine.execCairnAcqTimeout check s
  | .cairnRecomputeDone check r => Sys2Proof.Machine.execCairnRecomputeDone check r s
  | .cairnArbiterDone check r => Sys2Proof.Machine.execCairnArbiterDone check r s
  | .uhlClear value => Sys2Proof.Machine.execUhlClear value s
  | .chkSeedWrite value => Sys2Proof.Machine.execChkSeedWrite value s
  | .digestEngineStart value => Sys2Proof.Machine.execDigestEngineStart value s
  | .digestEngineDone => Sys2Proof.Machine.execDigestEngineDone s
  | .clockMonitorWindow core pcie watch => Sys2Proof.Machine.execClockMonitorWindow core pcie watch s
  | .clockFastTest pcie edges => Sys2Proof.Machine.execClockFastTest pcie edges s
  | .clockReturn input => Sys2Proof.Machine.execClockReturn input s
  | .dividerRampStep island => Sys2Proof.Machine.execDividerRampStep island s
  | .fmcGo => Sys2Proof.Machine.execFmcGo s
  | .fmcAbort => Sys2Proof.Machine.execFmcAbort s
  | .fmcDone count => Sys2Proof.Machine.execFmcDone count s
  | .railOutOfWindow rail => Sys2Proof.Machine.execRailOutOfWindow rail s
  | .resetRelease straps => Sys2Proof.Machine.execResetRelease straps s
  | .forcedResetRelease straps => Sys2Proof.Machine.execForcedResetRelease straps s
  | .flashResetRelease silent => Sys2Proof.Machine.execFlashResetRelease silent s
  | .bootSlotVerify => Sys2Proof.Machine.execBootSlotVerify s
  | .bootReady => Sys2Proof.Machine.execBootReady s
  | .avsVoltageAck die => Sys2Proof.Machine.execAvsVoltageAck die s
  | .avsTimeout die => Sys2Proof.Machine.execAvsTimeout die s
  | .thermalTick ridges edies hbms => Sys2Proof.Machine.execThermalTick ridges edies hbms s
  | .powerTick short long => Sys2Proof.Machine.execPowerTick short long s
  | .dieIdleEntry die => Sys2Proof.Machine.execDieIdleEntry die s
  | .bar2Read off len m => Sys2Proof.Machine.execBar2Read off len m s
  | .bar2Write off data enables m => Sys2Proof.Machine.execBar2Write off data enables m s
  | .pcieLinkLoss => Sys2Proof.Machine.execPcieLinkLoss s
  | .tallyNoticeFire n => Sys2Proof.Machine.execTallyNoticeFire n s
  | .smbStatus pec => Sys2Proof.Machine.execSmbStatus pec s
  | .smbTemp pec => Sys2Proof.Machine.execSmbTemp pec s
  | .smbPower pec => Sys2Proof.Machine.execSmbPower pec s
  | .smbEscCause pec => Sys2Proof.Machine.execSmbEscCause pec s
  | .smbPosition pec => Sys2Proof.Machine.execSmbPosition pec s
  | .smbIdDigest pec => Sys2Proof.Machine.execSmbIdDigest pec s
  | .smbSvn pec => Sys2Proof.Machine.execSmbSvn pec s
  | .smbTrayLimitWrite watts pec => Sys2Proof.Machine.execSmbTrayLimitWrite watts pec s
  | .smbTrayLimitRead pec => Sys2Proof.Machine.execSmbTrayLimitRead pec s
  | .smbBadCommand code => Sys2Proof.Machine.execSmbBadCommand code s
  | .smbAlertResponse => Sys2Proof.Machine.execSmbAlertResponse s
  | .svnCommit value bad => Sys2Proof.Machine.execSvnCommit value bad s
  | .strapCompare straps => Sys2Proof.Machine.execStrapCompare straps s
  | .jtagBypass => Sys2Proof.Machine.execJtagBypass s
  | .jtagSamplePreload lands preload => Sys2Proof.Machine.execJtagSamplePreload lands preload s
  | .jtagExtest => Sys2Proof.Machine.execJtagExtest s
  | .jtagClamp => Sys2Proof.Machine.execJtagClamp s
  | .jtagHighz => Sys2Proof.Machine.execJtagHighz s
  | .railsInWindow rail => Sys2Proof.Machine.execRailsInWindow rail s
  | .watchOscEdgeTimeout => Sys2Proof.Machine.execWatchOscEdgeTimeout s
  | .d2dLinksTrained => Sys2Proof.Machine.execD2dLinksTrained s
  | .pcieLinkUp rate width flit => Sys2Proof.Machine.execPcieLinkUp rate width flit s
  | .progWait w => Sys2Proof.Machine.execProgWait w s
  | .msixUnmask vector => Sys2Proof.Machine.execMsixUnmask vector s
  | .configurationWrite w => Sys2Proof.Machine.execConfigurationWrite w s
  | .atomicopRequest => Sys2Proof.Machine.execAtomicopRequest s
  | .portCfgWrite port value => Sys2Proof.Machine.execPortCfgWrite port value s

end Sys2Proof.Machine
end

