-- ==== Sys2Proof/Machine/Tick.lean ====
section
/-! DEFINITION. What a step does while no command waits: one cycle of the reference clock passes (R20, R35). -/
namespace Sys2Proof.Machine

/-- One reference count passes; while chip reset is held nothing counts. -/
def State.tick (s : State) : State := if s.plat.held then s else s.passTime 1

end Sys2Proof.Machine
end

