-- ==== Sys2Proof/Machine/Read.lean ====
section
/-! DEFINITION. What a read of BAR0 shows (R30, R31, R33, R510). No command of the table but the window port's reads (R211), since a
read has no side effect; the registers that show live state are worked out here from that state. -/
namespace Sys2Proof.Machine

/-! ### The common header -/

/-- The block's half of `STAT` where it shows live state (R172, R183, R423, R424). -/
def State.blockStat (s : State) : Page → Nat
  | .rdg n => (s.ridge n).quiesced.toNat * 2 ^ 31 + (s.ridge n).opHung.toNat * 2 ^ 30
  | .dma c => (s.dma c).quiesced.toNat * 2 ^ 31
  | .cfl e => (s.cfl e).quiesced.toNat * 2 ^ 31
  | .hbm k => (s.mem.failed.has k).toNat * 2 ^ 17 + (s.mem.ready.has k).toNat * 2 ^ 16
  | .trn n => (s.ridge n).zeroing.toNat * 2 ^ 17 + (!(s.ridge n).zeroPending).toNat * 2 ^ 16
  | .pmap => s.mem.batch.isSome.toNat * 2 ^ 17 + s.mem.pmapReady.toNat * 2 ^ 16
  | .step =>
    let m := s.stepm
    m.draining.isSome.toNat * 2 ^ 31 + m.strag.named.isSome.toNat * 2 ^ 30 +
      ((m.newest.map fun j => 1 - j).getD 0) * 2 ^ 29 + (m.strag.named.getD 0) % 2 ^ 13 * 2 ^ 16
  | _ => 0

/-- The header's registers that show live state (R34, R43, R401, R422). -/
def State.readHead (s : State) (p : Page) (off : Nat) : W32 :=
  if off = 0x00C then
    s.reg p 0x00C ||| w32 (s.blockStat p + (s.io.injSeen.has p.base).toNat * 4 +
      (s.reg p 0x028 &&& 0xC0000000#32 != 0).toNat * 2 + (s.pageSealed p).toNat)
  else if off = 0x024 then w32 (s.pageSealed p).toNat
  else if off = 0x008 then
    match p with
    | .cwn => setBit (s.reg p off) 31 s.abortBusy
    | .oxb => setBit (s.reg p off) 31 s.oxb.remirror
    | _ => s.reg p off
  else s.reg p off

/-! ### Blocks -/

/-- The state code of a Rill core (R218). -/
def CoreSt.code : CoreSt → Nat
  | .stopped => 0 | .running => 1 | .waiting => 2 | .idle => 3 | .halted => 4 | .faulted => 5

/-- The state code of a command window (R264). -/
def WinSt.code : WinSt → Nat
  | .disabled => 0 | .run => 1 | .held => 2 | .blocked => 3 | .faulted => 4

/-- The state code of a DMA channel (R281). -/
def DmaSt.code : DmaSt → Nat
  | .idle => 0 | .active => 1 | .halted => 2

/-- `DEV` (R28). -/
def State.readDev (s : State) (off : Nat) : W32 :=
  match off with
  | 0x104 => w32 (s.partIdle.toNat + maskOf 4 s.dieBusy * 16)
  | 0x108 => lo32 s.refcnt
  | 0x10C => hi32 s.refcnt
  | _ => s.reg .dev off

/-- `CLK` (R495): `RAMP`. -/
def State.readClk (s : State) (off : Nat) : W32 :=
  let i := (off - 0x200) / 4
  if 0x200 ≤ off ∧ off < 0x3F4 then
    setBit (s.reg .clk off) 30 (islPll i != 0 && !(s.islReserve i) && s.islCur i != s.islCode i)
  else s.reg .clk off

/-- `PWR.STATE` (R493). -/
def State.readPwr (s : State) (off : Nat) : W32 :=
  let floors := decide (64 < s.powerFloor) || (List.range 4).any fun k => decide (64 < s.thermalFloor k)
  let st := if (List.range 125).any s.islReserve then 4
    else if (List.range 4).all s.plat.idle.has then 1
    else if floors then 3 else 2
  if off = 0x108 then setFld (s.reg .pwr off) 2 0 st else s.reg .pwr off

/-- `RDG` (R107). -/
def State.readRdg (s : State) (n off : Nat) : W32 :=
  let r := s.ridge n
  match off with
  | 0x10C => w32 (maskOf 32 fun a => (r.arr a).ramp != .stopped)
  | 0x110 => w32 (maskOf 32 fun a => (r.arr (32 + a)).ramp != .stopped)
  | 0x114 => w32 r.tileOps.length
  | 0x118 => w32 r.owner
  | _ => s.reg (.rdg n) off

/-- `ACC.SLOT_STAT` (R146). -/
def State.readAcc (s : State) (n off : Nat) : W32 :=
  let used := ((s.ridge n).arrs.flatMap fun e => [e.2.t0.slot, e.2.t1.slot]).filterMap id
  if off = 0x108 then w32 (maskOf 16 (fun k => used.contains k) * 2 ^ 16 + (used.filter fun k => decide (16 ≤ k)).length)
  else s.reg (.acc n) off

/-- `DIE.OP_STAT` (R262). -/
def State.readDie (s : State) (k off : Nat) : W32 :=
  let open_ := (s.die k).find? fun r => s.opPhase r == 1
  if off ≠ 0x100 then s.reg (.die k) off
  else
    let t := match open_ with
      | some r => wfld r.desc.words 0 31 20
      | none => s.field (.die k) 0x100 27 16
    w32 (open_.isSome.toNat * 2 ^ 31 + ((s.die k).any fun r => s.opPhase r == 2).toNat * 2 ^ 30 + t * 2 ^ 16)

/-- `RIL` (R239). -/
def State.readRil (s : State) (c off : Nat) : W32 :=
  let k := s.core c
  if 0x200 ≤ off ∧ off < 0x280 then
    let g := Table.get (fun _ => 0) k.g ((off - 0x200) / 8)
    if (off - 0x200) / 8 = 0 then 0 else if off % 8 = 0 then lo32 g else hi32 g
  else match off with
  | 0x104 => w32 k.startPc.toNat
  | 0x108 => w32 (k.pc.toNat * 2 ^ 16 + k.ctx % 64 * 2 ^ 8 + k.inTrap.toNat * 8 + k.st.code)
  | 0x10C => w32 k.startCtx
  | 0x120 => k.prog
  | 0x124 => lo32 k.cause
  | 0x128 => hi32 k.cause
  | 0x12C => w32 k.epc.toNat
  | 0x130 => w32 k.haltCode.toNat
  | 0x134 => w32 k.pend.length
  | 0x280 => w32 k.p.toNat
  | _ => s.reg (.ril c) off

/-- `CWN` (R264). -/
def State.readCwn (s : State) (off : Nat) : W32 :=
  let w := off % 0x100 / 4
  let k := s.win w
  match off / 0x100 with
  | 1 => k.next
  | 2 => w32 (k.st.code * 2 ^ 29 + (if k.st = .faulted then k.reason else 0) * 2 ^ 16 + (1024 - k.fullSlots))
  | 3 => w32 (k.st != .disabled).toNat
  | 4 => k.fseq
  | _ => s.reg .cwn off

/-- A DMA channel's page (R281). -/
def State.readDma (s : State) (c off : Nat) : W32 :=
  let k := s.dma c
  if off = 0x108 then
    w32 (k.st.code * 2 ^ 29 + (k.acc.head?.map Desc.ctx).getD 0 % 64 * 2 ^ 16 + k.acc.length % 32)
  else s.reg (.dma c) off

/-- The global DMA page (R280): blocks of 2 KiB held. -/
def State.readDmaG (s : State) (off : Nat) : W32 :=
  if off = 0x108 then w32 (((s.dmas.map fun e => e.2.blocks).sum)) else s.reg .dmaG off

/-- A port's first page (R314). -/
def State.readPrt (s : State) (p off : Nat) : W32 :=
  let k := s.port p
  match off with
  | 0x108 => w32 (k.st.code * 2 ^ 28 + (if k.st.linked then k.gen else 0) * 2 ^ 24 + (if k.st = .fenced then k.cause else 0) * 2 ^ 16 + k.verdict * 2 ^ 8)
  | 0x10C => k.nbr
  | 0x128 => w32 k.outs.length
  | _ => s.reg (.prt p) off

/-- The number of ports with a verdict (R310). -/
def State.verdicts (s : State) (v : Nat) : Nat := ((List.range 36).filter fun p => (s.port p).verdict == v).length

/-- A port's second page, and the fabric's registers in that of port 0 (R316, R317). -/
def State.readPrt2 (s : State) (p off : Nat) : W32 :=
  let k := s.port p
  match p, off with
  | 0, 0x408 =>
    w32 (s.fab.discDone.toNat * 2 ^ 31 + s.fab.partnerLost.toNat * 2 ^ 30 + s.fab.spareLost.toNat * 2 ^ 29 +
      s.verdicts 1 * 2 ^ 18 + s.verdicts 2 * 2 ^ 12 + s.verdicts 3 * 2 ^ 6 + s.verdicts 4)
  | 0, 0x40C => w32 (maskOf 32 s.fab.unreach.has)
  | 0, 0x410 => w32 (maskOf 4 fun i => s.fab.unreach.has (32 + i))
  | 0, 0x418 => s.linkEntry (s.field (.prt2 0) 0x414 7 0)
  | _, 0x124 => w32 (k.attOk.toNat * 2 ^ 31 + k.idOk.toNat * 2 ^ 30 + k.attReason)
  | _, _ => s.reg (.prt2 p) off

/-- `CFL` (R349): an engine waits while nothing is under way for its collective. -/
def State.readCfl (s : State) (e off : Nat) : W32 :=
  let k := s.cfl e
  let slots := (k.slots.filter fun x => !x.2.isEmpty).length
  match off with
  | 0x10C =>
    let w := s.reg (.cfl e) 0x10C
    setFld (setFld w 31 30 (if k.cur.isNone && (s.tread e).isNone then 0 else if k.fly.isEmpty then 2 else 1)) 4 0 (min 16 slots)
  | 0x120 => w32 k.msgs.length
  | _ => s.reg (.cfl e) off

/-- `STEP` (R385). -/
def State.readStep (s : State) (off : Nat) : W32 :=
  let st (j : Nat) : W32 :=
    w32 ((s.slot j).st.code * 2 ^ 28 + (s.slot j).replay.toNat * 2 ^ 16 + maskOf 8 (s.slot j).mbDone.has)
  let res (j : Nat) : W32 := match (s.slot j).verdict with | some f => w32 (2 ^ 31 + f) | none => 0
  match off with
  | 0x110 => st 0
  | 0x114 => st 1
  | 0x118 => (s.slot 0).step
  | 0x11C => (s.slot 1).step
  | 0x124 => res 0
  | 0x128 => res 1
  | _ => s.reg .step off

/-- `OXB.MIR_STAT` (R388). -/
def State.readOxb (s : State) (off : Nat) : W32 :=
  let board := match s.partner 0 with
    | some d => d.1 == s.myGroup && d.2 / 8 == s.myDev / 8
    | none => false
  if off = 0x144 then
    setFld (setBit (setBit (s.reg .oxb off) 30 s.oxb.initRun) 29 board) 18 0 s.oxb.pend.length
  else s.reg .oxb off

/-- `UHL.RD_DATA` (R472): the words of the record at `RD_IDX`, counted from the oldest valid one. -/
def State.readUhl (s : State) (off : Nat) : W32 :=
  if 0x110 ≤ off ∧ off < 0x150 then wordAt (s.uhlLog.getD (s.field .uhl 0x10C 14 0) []) ((off - 0x110) / 4) else s.reg .uhl off

/-- `BOOT.MB_STAT` (R527). -/
def State.readBoot (s : State) (off : Nat) : W32 :=
  if off = 0x114 then w32 ((!s.mgmt.mbox.isEmpty).toNat * 2 ^ 31 + s.mgmt.mbox.length) else s.reg .boot off

/-- A register of a page. -/
def State.readPage (s : State) (p : Page) (off : Nat) : W32 :=
  if off < 0x100 then s.readHead p off
  else match p with
    | .dev => s.readDev off
    | .clk => s.readClk off
    | .pwr => s.readPwr off
    | .rdg n => s.readRdg n off
    | .acc n => s.readAcc n off
    | .brk n => if off = 0x100 then w32 (s.ridge n).brookOps.length else s.reg p off
    | .die k => s.readDie k off
    | .ril c => s.readRil c off
    | .cwn => s.readCwn off
    | .dma c => s.readDma c off
    | .dmaG => s.readDmaG off
    | .prt q => s.readPrt q off
    | .prt2 q => s.readPrt2 q off
    | .cfl e => s.readCfl e off
    | .step => s.readStep off
    | .oxb => s.readOxb off
    | .pmap =>
      if off = 0x110 then setBit (s.reg p off) 31 s.mem.batch.isSome
      else if off = 0x114 then setBit (s.reg p off) 1 s.mem.batch.isSome else s.reg p off
    | .uhl => s.readUhl off
    | .boot => s.readBoot off
    | _ => s.reg p off

/-! ### The windows of R33 -/

/-- The window offset of a word of the Scale, Norm, Noise or Expert Table at BAR0 address `a` (R33). -/
def tableOff (a : Nat) : Option Nat :=
  if 0x2800000 ≤ a ∧ a < 0x3000000 then some (scaleOff 0 + (a - 0x2800000))
  else if 0x3000000 ≤ a ∧ a < 0x3100000 then some (normOff 0 + (a - 0x3000000))
  else if 0x3100000 ≤ a ∧ a < 0x3200000 then some (noiseOff 0 + (a - 0x3100000))
  else if 0x3200000 ≤ a ∧ a < 0x3210000 then some (expertOff + (a - 0x3200000))
  else none

/-- A word of a table window: zero while the window is absent or the granule poisoned (R177, R543). -/
def State.readTable (s : State) (o : Nat) : W32 := if !s.windowOk || s.winPoison o then 0 else s.shownWord o

/-- A word of a window without pages (R33). -/
def State.readWindow (s : State) (a : Nat) : W32 :=
  if 0x1000000 ≤ a ∧ a < 0x19A0000 then
    let c := (a - 0x1000000) / 0x20000
    let o := a % 0x10000
    if a % 0x20000 < 0x10000 then Table.get (fun _ => 0) (s.core c).imem (o / 4) else wordAt ((s.core c).dmemWords o 1) 0
  else if 0x2000000 ≤ a ∧ a < 0x2004000 then s.tally ((a - 0x2000000) / 4)
  else if 0x2400000 ≤ a ∧ a < 0x2800000 then
    let e := s.pmapEntry 0 ((a - 0x2400000) / 8)
    if a % 8 = 0 then lo32 e else hi32 e
  else match tableOff a with
    | some o => s.readTable o
    | none => 0

/-- The word at BAR0 address `a`, a multiple of 4 (R24, R31, R510). -/
def State.read (s : State) (a : Nat) : W32 :=
  if 0xA000 ≤ a ∧ a < 0xB000 then Table.get (fun x => if x % 16 = 12 then 1#32 else 0#32) s.io.msix a
  else if 0xB000 ≤ a ∧ a < 0xB020 then w32 (maskOf 32 fun i => s.io.pba.has ((a - 0xB000) * 8 + i))
  else match s.target a, s.reach a with
    | some (p, off), _ => s.readPage p off
    | none, some b => if s.ready || (!s.asleep && decide (0x2400000 ≤ b ∧ b < 0x2800000)) then s.readWindow b else 0
    | none, none => 0

/-- A read of BAR0 of each size (R30): 8 and 16 bits are bytes of the containing register, an aligned 64-bit read is both
words of one instant; an unaligned access returns what it may. -/
def State.readSized (s : State) (a : Nat) (size : WSize) : W64 :=
  let byteAt (x : Nat) : Nat := (s.read (x / 4 * 4)).toNat / 2 ^ (8 * (x % 4)) % 256
  let n := match size with | .b8 => 1 | .b16 => 2 | .b32 => 4 | .b64 => 8
  if a % n ≠ 0 then w64 ((Config.freeWord s.free a).toNat + (Config.freeWord s.free (a + 2 ^ 29)).toNat * 2 ^ 32 % 2 ^ (8 * n))
  else match size with
    | .b8 => w64 (byteAt a)
    | .b16 => w64 (byteAt a + 256 * byteAt (a + 1))
    | .b32 => w64 (s.read a).toNat
    | .b64 => join64 (s.read (a + 4)) (s.read a)

/-- What a read of BAR0 of `n` bytes changes: a poisoned word of a table sets `TBL_POISON` (R543). -/
def State.readEffect (s : State) (a n : Nat) : State :=
  let bad := (List.range (ceilDiv n 4)).any fun i =>
    match s.reach (a / 4 * 4 + 4 * i) with
    | some b => match tableOff b with
      | some o => s.ready && s.windowOk && s.winPoison o
      | none => false
    | none => false
  if bad then s.setErr .scl 3 else s

/-- A read of BAR4 returns zero (R242). -/
def State.readBar4 (_ : State) (_ : Nat) : W32 := 0

end Sys2Proof.Machine
end

