-- ==== Sys2Proof/Safety.lean ====
section
/-! DEFINITION. What the claims speak of: what a command of a Rill core does to the state, when a core performs an instruction,
and the canonical form that memory keeps. -/
namespace Sys2Proof.Machine

/-! ### Rill -/

/-- The instruction word at the PC of core `c`. -/
def State.instrWord (s : State) (c : Nat) : W32 := Table.get (fun _ => 0) (s.core c).imem (s.core c).pc.toNat

/-- The guard of an instruction word lets it execute (R219, R222): an unguarded word has `N` and `P` at zero, a guarded one
executes when p[`P`] xor `N` is 1. -/
def guardPasses (w : W32) (p : BitVec 4) : Bool :=
  if rG w then p.getLsbD (rP w) ^^ rN w else !(rN w) && rP w == 0

/-- Core `c` performs the instruction with opcode `op` at its PC: it is RUNNING with no exception to take first, the word is good, and its guard passes. -/
def State.performs (s : State) (c op : Nat) : Bool :=
  (s.core c).steps && !((s.core c).imemBad.has (s.core c).pc.toNat) && rOp (s.instrWord c) == op &&
    guardPasses (s.instrWord c) (s.core c).p

/-- From `s` to `t` core `c` comes to be `k`, every other core stays as it is, and nothing else changes but registers (event
counters, the count of corrected errors). -/
def State.onlyCore (s t : State) (c : Nat) (k : Core) : Prop :=
  t.core c = k ∧ (∀ j, j ≠ c → t.core j = s.core j) ∧ t = { s with cores := t.cores, io := t.io }

/-! ### Memory -/

/-- Memory is in its canonical form: the bytes that were written, the draws that stand for bytes that were not, the granules that
mailbox requests find written, poison, granules with free contents, frames marked, the Page Map copies and their lost entries. -/
def Mem.wf (m : Mem) : Bool :=
  Table.rising m.hbm && Table.wf (fun _ => 0) m.fill && Table.wf (fun _ => 0) m.draws && Table.wf (fun _ => 0) m.touched &&
    NatSet.wf m.poison && NatSet.wf m.freed && NatSet.wf m.winFresh && NatSet.wf m.marked &&
    Table.wf (fun _ => 0) m.pmap0 && Table.wf (fun _ => 0) m.pmap1 && NatSet.wf m.lost

/-- What memory keeps: its canonical form; two Page Map copies that agree (R9, R185); a stack that is at most one of filling,
ready and failed (R172); a Page Map that serves only once every stack is ready or has failed (R183); a pending batch that is
valid (R186); a die-to-die link that is not both up and down (R13). -/
structure Mem.Inv (m : Mem) : Prop where
  form : m.wf = true
  copies : m.pmap0 = m.pmap1
  stackOk : ∀ k, (m.filling.has k = true → m.ready.has k = false) ∧ (m.failed.has k = true → m.ready.has k = false) ∧
    (m.failed.has k = true → m.filling.has k = false)
  served : m.pmapReady = true → ∀ k < 8, m.ready.has k = true ∨ m.failed.has k = true
  batches : ∀ b, m.batch = some b → b.recs ≠ [] ∧ b.recs.length ≤ 4096 ∧ ∀ r ∈ b.recs, r.1 < 2 ^ 19
  links : ∀ l, m.d2dDown.has l = true → m.d2dUp.has l = false

/-- The memory of a state keeps its invariant. -/
def State.MemInv (s : State) : Prop := s.mem.Inv

end Sys2Proof.Machine
end

