-- ==== Sys2Proof/WellFormed.lean ====
section
/-! DEFINITION. Which commands a sender can form: the checks that the types of the operands do not make already. The machine
answers every command; a command that is not well formed is none that the block's surroundings can send. -/
namespace Sys2Proof

/-- The register at a BAR0 address takes writes as `k` says. -/
def addrKind (a : BitVec 29) (k : Machine.RegKind) : Bool :=
  match Machine.pageAt a.toNat with
  | some p => (p.row (a.toNat - p.base)).map Machine.RegRow.kind == some k
  | none => false

/-- The BAR0 address is offset `off` of a page. -/
def addrOff (a : BitVec 29) (off : Nat) : Bool :=
  match Machine.pageAt a.toNat with
  | some p => a.toNat == p.base + off
  | none => false

/-- A flit has a header, up to four slots of sixteen words, a CRC (R288). -/
def Flit.wf (f : Flit) : Bool := decide (f.slots.length ≤ 4) && f.slots.all fun w => w.length == 16

/-- A command is well formed. The types of the operands check the commands that the last arm takes. -/
def Instr.wf : Instr → Bool
  | .registerWrite a size _ =>
    -- a register that has a command of its own is written by that command
    !(size == .b32 && addrKind a .own)
  | .pairLoWrite a _ => addrKind a .lo
  | .pairHiWrite a _ => addrKind a .hi
  | .sealKeyWrite a _ => addrOff a 0x024
  | .errStatClear a _ _ => addrOff a 0x010
  | .errFirstClear a _ => addrOff a 0x018
  | .errInjWrite a _ => addrOff a 0x01C
  | .hardRegScan a _ => addrOff (a.setWidth 29) 0
  | .commandWindowWrite _ off data enables =>
    decide (off.toNat + data.length ≤ 65536) && enables.length == data.length
  | .bar2Write off data enables _ => decide (off.toNat + data.length ≤ 2 ^ 40) && enables.length == data.length
  | .bar2Read off len _ => decide (off.toNat + len.toNat ≤ 2 ^ 40)
  | .portTrainAttempt _ _ _ nonce => nonce.length == 32
  | .helloReceive _ h => h.nonce.length == 32
  | .flitReceive _ f => f.wf
  | .thermalTick ridges edies hbms => ridges.length == 64 && edies.length == 4 && hbms.length == 8
  | .smbBadCommand code => decide (6 < code.toNat) && code.toNat != 0x10
  | .jtagSamplePreload lands preload => lands.length == 108 && preload.length == 108
  | _ => true

end Sys2Proof
end

