-- ==== Sys2Proof/Certificates/Slice0/Obligations.lean ====
section
/-! DEFINITION. The statements for the provers: what each command does by the manual's rules, what it leaves alone, what a step
keeps. -/

open Sys2Proof Sys2Proof.Machine

/-! ### The step -/

/-- A step runs the command at the front of the queue on the state with the queue's rest. -/
def Obligations.StepRunsFrontCommand : Prop :=
  ∀ (c : Instr) (rest : List Instr) (s : State), step { s with pending := c :: rest } = exec c { s with pending := rest }

/-- With no command waiting a step is one reference count: the counter rises by one, modulo 2^64, while chip reset is not
held, and nothing but the registers (event counters) and the counter of free values changes. While it is held nothing changes.
That time passes at an idle step is the model's choice (log entry 4). -/
def Obligations.IdleStepCountsOneReference : Prop :=
  ∀ s : State, s.pending = [] →
    (s.plat.held = true → step s = .next s) ∧
    (s.plat.held = false → ∃ t, step s = .next t ∧ t.refcnt = s.refcnt + 1 ∧
      t = { s with refcnt := t.refcnt, io := t.io, free := t.free })

/-! ### Registers and the common header (chapters 1 and 2) -/

/-- Every page reads the `ID` of R34 at reset: block type, instance, version 0xA1; no error is recorded, no page is sealed; the
reference counter is zero (R20). -/
def Obligations.ResetHeaders : Prop :=
  State.reset.refcnt = 0#64 ∧
  ∀ p ∈ allPages, State.reset.reg p 0x000 = w32 (p.typeInst.1 * 2 ^ 16 + p.typeInst.2 * 2 ^ 8 + 0xA1) ∧
    State.reset.reg p 0x010 = 0#32 ∧ State.reset.reg p 0x018 = 0#32 ∧ State.reset.reg p 0x020 = 0#32 ∧
    State.reset.readHead p 0x024 = 0#32

/-- The device runs as one, two or four partitions: which C-dies each mode gives a partition; a write of mode 0b11 keeps the
field and sets `CFG_INVALID` (R23).

PART_CFG_WRITE (R25, R26, R44): ignored while the page is sealed; ignored with `PART_BUSY` while the device is not idle;
ignored with `CFG_INVALID` for a mode or an owner that does not exist; else it takes effect on the two fields, and nothing else
changes. -/
def Obligations.PartitionsFollowTheirMode : Prop :=
  (∀ s : State,
    (s.partMode = 0 → s.partCount = 1 ∧ s.diesOf 0 = [0, 1, 2, 3]) ∧
    (s.partMode = 1 → s.partCount = 2 ∧ ∀ p < 2, s.diesOf p = [2 * p, 2 * p + 1]) ∧
    (s.partMode = 2 → s.partCount = 4 ∧ ∀ p < 4, s.diesOf p = [p]) ∧
    ∀ v : W32, fld v 1 0 = 3 → s.asleep = false → s.partIdle = true → s.pageSealed .dev = false →
      ∃ t, exec (.partCfgWrite v) s = .next t ∧ t.partMode = s.partMode ∧ t.flag .dev 0x010 1 = true) ∧
  (∀ (s : State) (v : W32), s.asleep = false →
    (s.pageSealed .dev = true → exec (.partCfgWrite v) s = .next s) ∧
    (s.pageSealed .dev = false → s.partIdle = false → exec (.partCfgWrite v) s = .next (s.setErr .dev 0)) ∧
    (s.pageSealed .dev = false → s.partIdle = true → fld v 1 0 = 3 ∨ 2 ^ fld v 1 0 ≤ fld v 5 4 →
      exec (.partCfgWrite v) s = .next (s.setErr .dev 1)) ∧
    (s.pageSealed .dev = false → s.partIdle = true → fld v 1 0 ≠ 3 → fld v 5 4 < 2 ^ fld v 1 0 →
      exec (.partCfgWrite v) s =
        .next (s.setReg .dev 0x100 ((s.reg .dev 0x100 &&& ~~~0x33#32) ||| (v &&& 0x33#32)))))

/-- The commands of the common header complete with the effect of their rules: sealing (R43), clearing of error bits, but for
those detected at once (R38), of `ERR_FIRST` (R39), injection of errors that have no reaction (R40), a corrected strike of a scan
(R42).

The frame of the writes of the common header and of the pairs: nothing but the registers and the messages sent changes. -/
def Obligations.HeaderCommandsComplete : Prop :=
  (∀ (s : State) (a : BitVec 29) (b : BitVec 26) (p : Page) (v d : W32),
    (s.target a.toNat = some (p, 0x024) → p.sealable = true → v = w32 (0x5EA1 * 2 ^ 16 + fld p.id 15 0) →
      ∃ t, exec (.sealKeyWrite a v) s = .next t ∧ t.pageSealed p = true ∧ t.readHead p 0x024 = 1#32) ∧
    (s.target a.toNat = some (p, 0x010) →
      ∃ t, exec (.errStatClear a v d) s = .next t ∧ t.reg p 0x010 = s.reg p 0x010 &&& ~~~(v &&& ~~~d)) ∧
    (s.target a.toNat = some (p, 0x018) →
      exec (.errFirstClear a v) s = .next (s.setReg p 0x018 (s.reg p 0x018 &&& ~~~v))) ∧
    (s.target a.toNat = some (p, 0x01C) → s.flag p 0x008 1 = true → v.toNat % 2 ^ p.errBits ≠ 0 →
      (∀ i < p.errBits, v.toNat.testBit i = true → ∀ u : State, u.react p i = u) →
      ∃ t, exec (.errInjWrite a v) s = .next t ∧ t.reg p 0x010 = s.reg p 0x010 ||| w32 (v.toNat % 2 ^ p.errBits) ∧
        t.io.injSeen.has p.base = true) ∧
    ∀ (h : HardStrike) (r : RegRow), pageAt b.toNat = some p → p.sealable = true → p.row (4 * h.off.toNat) = some r →
      r.rws ≠ 0 → h.both = false →
      ∃ t, exec (.hardRegScan b [h]) s = .next t ∧ t.flag p 0x028 30 = true ∧
        t.reg p 0x020 = satAdd32 (s.reg p 0x020) 1 ∧ t.reg p (4 * h.off.toNat) = s.reg p (4 * h.off.toNat)) ∧
  (∀ (s : State) (a : BitVec 29) (v d : W32),
    ∀ i ∈ [Instr.pairLoWrite a v, .pairHiWrite a v, .sealKeyWrite a v, .errStatClear a v d, .errFirstClear a v,
      .partCfgWrite v],
    ∃ t, exec i s = .next t ∧ t = { s with io := t.io, out := t.out })

/-- The pairs of the event counters (R37): a 32-bit write of the low register changes only the held word; a write of the high
one updates both halves at once with the held word, which it keeps; an aligned 64-bit write updates both and sets the held word.

A 32-bit write of a plain register (R5, R30): RW bits take the value, RWS bits while the page is not sealed (R44), W1C bits
clear, the others hold. Left out are writes that start something by a bit of `CTL` or by bit 31 (R186, R421 to R424, R464, R517,
R518): their commands say what these do.

After sealing, no write changes a hardened register (R44): neither an aligned write of 32 or 64 bits nor one half of a
pair. -/
def Obligations.RegisterWritesAct : Prop :=
  (∀ (s : State) (a : BitVec 29) (p : Page) (off : Nat), off = 0x030 ∨ off = 0x038 →
    (∀ v : W32, s.target a.toNat = some (p, off) → ∃ t, exec (.pairLoWrite a v) s = .next t ∧
      t.reg64 p off = s.reg64 p off ∧ t.heldWord (p.base + off) = v) ∧
    (∀ v : W32, s.target a.toNat = some (p, off + 4) → ∃ t, exec (.pairHiWrite a v) s = .next t ∧
      t.reg64 p off = join64 v (s.heldWord (p.base + off)) ∧ t.heldWord (p.base + off) = s.heldWord (p.base + off)) ∧
    (∀ v : W64, s.target a.toNat = some (p, off) → a.toNat % 8 = 0 → ∃ t, exec (.registerWrite a .b64 v) s = .next t ∧
      t.reg64 p off = v ∧ t.heldWord (p.base + off) = lo32 v)) ∧
  (∀ (s : State) (a : BitVec 29) (p : Page) (off : Nat) (r : RegRow) (v : W64),
    a.toNat % 4 = 0 → ¬(0xA000 ≤ a.toNat ∧ a.toNat < 0xB000) → s.target a.toNat = some (p, off) → p.row off = some r →
    r.kind = .plain → p ≠ .clk → p ≠ .pwr → s.limitValue p off (lo32 v) = lo32 v →
    fld (lo32 v) 31 28 = 0 ∨ (off ≠ 0x008 ∧ (p, off) ∉ [(Page.pmap, 0x110), (.boot, 0x104), (.boot, 0x110), (.uhl, 0x150)]) →
    ∃ t, exec (.registerWrite a .b32 v) s = .next t ∧
      t.reg p off =
        ((s.reg p off &&& ~~~w32 (r.rw ||| (if s.pageSealed p then 0 else r.rws))) |||
          (lo32 v &&& w32 (r.rw ||| (if s.pageSealed p then 0 else r.rws)))) &&& ~~~(lo32 v &&& w32 r.w1c)) ∧
  (∀ (s : State) (p : Page) (off : Nat) (r : RegRow), s.pageSealed p = true → p ∈ allPages → off < 0x1000 →
    p.row off = some r →
    ∀ (a : BitVec 29) (size : WSize) (v : W64) (w : W32) (t : State),
      exec (.registerWrite a size v) s = .next t ∨ exec (.pairLoWrite a w) s = .next t ∨
        exec (.pairHiWrite a w) s = .next t ∨ exec (.partCfgWrite w) s = .next t →
      t.reg p off &&& w32 r.rws = s.reg p off &&& w32 r.rws)

/-- A die-to-die transfer that fails at most sixteen times counts its retries; a seventeenth failure takes the link down,
sets its error and asks for a chip reset (R13); on a link that is not up nothing happens.

Training, fill and scrub of the stacks (R172, R202, R205): a stack that trains begins its fill, one that fails sets
`TRAIN_FAIL`; the end of the fill makes a stack ready; the scrubber reads granule after granule and poisons one that it cannot
correct, and no other. It waits while it is disabled and while the stacks are in self-refresh (R481, log entry 119). -/
def Obligations.LinksAndStacksComeUp : Prop :=
  (∀ (s : State) (l : Fin 13) (f : Fin 18),
    (s.mem.d2dUp.has l.val = false → exec (.d2dTransferRetry l f) s = .next s) ∧
    (s.mem.d2dUp.has l.val = true → f.val ≤ 16 → exec (.d2dTransferRetry l f) s = .next (s.addSat .dev (0x118 + 4 * l.val) f.val)) ∧
    (s.mem.d2dUp.has l.val = true → 16 < f.val → ∃ t, exec (.d2dTransferRetry l f) s = .next t ∧
      (∀ k, t.mem.d2dUp.has k = (s.mem.d2dUp.has k && decide (k ≠ l.val)) ∧
        t.mem.d2dDown.has k = (s.mem.d2dDown.has k || decide (k = l.val))) ∧
      t.flag .dev 0x114 l.val = false ∧ t.reg .dev (0x118 + 4 * l.val) = satAdd32 (s.reg .dev (0x118 + 4 * l.val)) 16 ∧
      t.flag .dev 0x010 2 = true ∧ t.field .dev 0x00C 31 29 = 4 ∧
      (s.stepOpen = false → t.tallies = s.tallies ∧
        t.mem = { s.mem with d2dUp := t.mem.d2dUp, d2dDown := t.mem.d2dDown }))) ∧
  (∀ (s : State) (k : Fin 8) (lanes : BitVec 8) (e : Ecc),
    (s.plat.held = false → s.mem.ready.has k.val = false → s.mem.failed.has k.val = false → s.mem.filling.has k.val = false →
      (∃ t, exec (.hbmTrainFill k true lanes) s = .next t ∧ t.reg (.hbm2 k.val) 0x104 = w32 lanes.toNat ∧
        (∀ x, t.mem.filling.has x = (s.mem.filling.has x || decide (x = k.val))) ∧
        t = { s with io := t.io, mem := { s.mem with filling := t.mem.filling } }) ∧
      ∃ t, exec (.hbmTrainFill k false lanes) s = .next t ∧ t.flag (.hbm k.val) 0x010 2 = true ∧
        (∀ x, t.mem.failed.has x = (s.mem.failed.has x || decide (x = k.val))) ∧
        t.mem.ready = s.mem.ready ∧ t.mem.filling = s.mem.filling ∧ t.tallies = s.tallies) ∧
    (s.mem.filling.has k.val = true → ∃ t, exec (.hbmFillDone k) s = .next t ∧
      (∀ x, t.mem.ready.has x = (s.mem.ready.has x || decide (x = k.val))) ∧
      (∀ x, t.mem.filling.has x = (s.mem.filling.has x && decide (x ≠ k.val))) ∧ t.mem.failed = s.mem.failed ∧
      t.io = s.io ∧ t.tallies = s.tallies) ∧
    (s.mem.filling.has k.val = false → exec (.hbmFillDone k) s = .next s) ∧
    (s.flag (.hbm k.val) 0x100 0 = true → s.mem.ready.has k.val = true → s.hbmSleeps = false →
      let g := Table.get (fun _ => 0) s.mem.scrub k.val
      ∃ t, exec (.hbmScrubRead k e) s = .next t ∧ Table.get (fun _ => 0) t.mem.scrub k.val = (g + 1) % (5120 * 2 ^ 18) ∧
        t.mem = { s.mem with scrub := t.mem.scrub, poison := t.mem.poison } ∧ t.tallies = s.tallies ∧
        (∀ x, t.granPoison x = (s.granPoison x || (decide (e = .uncorrectable) && decide (x = memKey k.val (g * 64) / 64)))) ∧
        (e = .uncorrectable → t.flag (.hbm k.val) 0x010 1 = true)) ∧
    (s.flag (.hbm k.val) 0x100 0 = false ∨ s.hbmSleeps = true → exec (.hbmScrubRead k e) s = .next s))

/-! ### Numbers, tables, Scree (chapters 3, 5, 12) -/

/-- Every finite code of a number format decodes to a value that converts back to it, whatever the rounding mode and the overflow
mode (R47, R57, R59): no code is misread and none is lost.

The exact sum of a row does not depend on the order of its elements (R157): whatever the order, one rounding gives the same
code. -/
def Obligations.NumbersBehave : Prop :=
  (∀ f ∈ [Fmt.f8e4, .f8e5, .int8, .bf16, .fp16, .fp32], ∀ c < 2 ^ f.width, (f.decode c).isFin = true →
    ∀ (mode : Rnd) (nonsat : Bool) (r : Nat), (f.conv mode nonsat r (f.decode c)).code = c) ∧
  (∀ (f : Fmt) (mode : Rnd) (nonsat : Bool) (r : Nat) (x y : Sys2Proof.Machine.Num) (l k : List Sys2Proof.Machine.Num), (x :: l).Perm (y :: k) →
    (∀ z ∈ x :: l, z.isFin = true) →
    (f.conv mode nonsat r (l.foldl Sys2Proof.Machine.Num.add x)).code = (f.conv mode nonsat r (k.foldl Sys2Proof.Machine.Num.add y)).code)

/-- Scree yields the outputs of R64, and the test registers compute it from the seed registers and the test inputs (R74): a write
of `TEST_ELEM_HI` takes the held low word and clears `READY`; then the result comes with `READY`. -/
def Obligations.ScreeVectors : Prop :=
  let key := screeKey 0x0123456789ABCDEF#64 1#32 1#32
  let out := fun x => (screeElem key x, scree 0x0123456789ABCDEF#64 1#32 1#32 x)
  key = (0xBB756CDB#32, 0xEEFCE1B3#32, 0xA68C09C0#32, 0xBEB27D87#32) ∧
  out 0 = ((0x7F5C9E83#32, 0xED056FF5#32, 0xC9BA557D#32, 0x2415E720#32), 0x7FF6) ∧
  out 1 = ((0x5264E957#32, 0xEE6104C4#32, 0xC4E42D1A#32, 0x0C4EA33D#32), 0x74AF) ∧
  out 0xFFFFFFFFFF = ((0x4724DDD5#32, 0xE0FEFC84#32, 0xBB04EBB1#32, 0x5A7B4BFC#32), 0x46A5) ∧
  ∀ (s : State) (v : W32),
    (s.ready = true → ∃ t, exec (.screeTestStart v) s = .next t ∧ t.flag .scl 0x120 31 = false ∧
      t.reg .scl 0x118 = s.heldWord (Page.base .scl + 0x118) ∧ t.reg .scl 0x11C = w32 (fld v 7 0) ∧
      (s.flag .scl 0x120 31 = true → t.field .scl 0x120 15 0 = s.field .scl 0x120 15 0)) ∧
    (s.flag .scl 0x120 31 = false → ∃ t, exec .screeTestDone s = .next t ∧ t.flag .scl 0x120 31 = true ∧
      t.field .scl 0x120 15 0 = scree (join64 (s.reg .scl 0x108) (s.reg .scl 0x104)) (s.reg .scl 0x110) (s.reg .scl 0x114)
        ((s.reg .scl 0x118).toNat + (s.reg .scl 0x11C).toNat * 2 ^ 32) ∧ t = { s with io := t.io })

/-- Host writes of the Scale, Norm, Noise and Expert Tables (R65, R67, R142, R145, R337, R346): outside a step a word takes the
bits its layout lets software write, and no other byte of memory and nothing else changes (the word reads back unless the transfers
of its stack are unpredictable, R18, R42); between OPEN and CLOSED of a step the write is ignored, and recorded.

Writes of memory with poison (R203): after a write that covers the whole granule its bytes read as written and it is not
poisoned; a partial write of a granule that is not poisoned writes its bytes and no other; one of a poisoned granule changes
nothing. What is written reads back while no stack's transfers are unpredictable (R18, R42). -/
def Obligations.MemoryAndTableWrites : Prop :=
  (∀ (s : State) (v : W64) (o : Nat), s.ready = true → o % 4 = 0 →
    (∀ x ∈ [(Instr.scaleTableWrite (BitVec.ofNat 23 o) false v, scaleOff 0, 0x80, scaleMask, 2 ^ 23),
        (.normTableWrite (BitVec.ofNat 20 o) false v, normOff 0, 0x100, normMask, 2 ^ 20),
        (.noiseTableWrite (BitVec.ofNat 20 o) false v, noiseOff 0, 0x100, noiseMask, 2 ^ 20),
        (.expertTableWrite (BitVec.ofNat 16 o) false v, expertOff, 0x40, expertMask, 2 ^ 16)],
      o < x.2.2.2.2 → s.stepOpen = false → s.windowOk = true → s.winPoison (x.2.1 + o) = false →
      ∃ t, exec x.1 s = .next t ∧ t = { s with mem := t.mem } ∧
        (∀ a, (∀ i < 4, a ≠ s.windowKey (x.2.1 + o + i)) → t.hbmByte a = s.hbmByte a) ∧
        (s.mem.astray = [] → x.2.2.2.1 (o % x.2.2.1) ≠ 0 → t.winWord (x.2.1 + o) = lo32 v &&& w32 (x.2.2.2.1 (o % x.2.2.1))) ∧
        (x.2.2.2.1 (o % x.2.2.1) = 0 → t = s)) ∧
    (s.stepOpen = true → ∀ wide : Bool,
      exec (.scaleTableWrite (BitVec.ofNat 23 o) wide v) s = .next (s.setErr .scl 2) ∧
      exec (.normTableWrite (BitVec.ofNat 20 o) wide v) s = .next (s.setErr .nrm 0) ∧
      exec (.noiseTableWrite (BitVec.ofNat 20 o) wide v) s = .next (s.setErr .nse 0) ∧
      exec (.expertTableWrite (BitVec.ofNat 16 o) wide v) s = .next (s.event (.cfl 0) 0x0A 1))) ∧
  (∀ (s : State) (key : Nat) (bs : List Byte), key / 64 = (key + bs.length - 1) / 64 → bs ≠ [] →
    let t := s.hbmWrite key bs
    (bs.length = 64 → t.granPoison (key / 64) = false ∧ (s.mem.astray = [] → t.hbmRead key 64 = bs)) ∧
    (s.granPoison (key / 64) = true → bs.length < 64 → t = s) ∧
    (s.granPoison (key / 64) = false → (s.mem.astray = [] → t.hbmRead key bs.length = bs) ∧
      ∀ a, a < key ∨ key + bs.length ≤ a → t.hbmByte a = s.hbmByte a))

/-! ### Ridges: tile ops, arrays, the Tarn (chapters 4 and 5) -/

/-- A Ridge takes the oldest tile op descriptor and reads its epilogue record (R94, R102, R217): one that passes the checks becomes an accepted op of the Ridge, whose
owner is now its context, and its array starts; one that fails is gone, with its reason recorded, no tally and no byte of memory
changed.

An op reaches its array (R103): an open tile goes on, a closed one starts afresh; an op that the state of its tile refuses is
charged with reason 0x07 and ends. -/
def Obligations.TileOpsReachTheirArrays : Prop :=
  (∀ (s : State) (n : Fin 64) (e : Ecc) (d : Desc) (rest : List Desc) (r : Ridge), r = s.ridge n.val → r.tileIn = d :: rest →
    r.admits d.ctx = true → r.tileOps.length < 64 → tdPair d.words = false → s.cairnWait n.val = false →
    let u := (s.setRidge n.val { r with tileIn := rest }).epiMeets n.val d e
    (u.tileVerdict n.val d = .ok → ∃ t, exec (.tileOpAccept n e) s = .next t ∧ (t.ridge n.val).tileIn = rest ∧
      (t.ridge n.val).owner = d.ctx ∧
      (∃ o, (t.ridge n.val).tileOps = r.tileOps ++ [o] ∧ o.desc = d ∧ o.ph = .accepted ∧ o.id = r.nextId) ∧
      ((t.ridge n.val).arr (tdArray d.words)).ramp = (r.arr (tdArray d.words)).ramp.start ∧
      (∀ m, m ≠ n.val → t.ridge m = s.ridge m) ∧ t.tallies = s.tallies ∧ t.mem = s.mem) ∧
    (∀ k, u.tileVerdict n.val d = .refuse k → ∃ t, exec (.tileOpAccept n e) s = .next t ∧ t.ridge n.val = { r with tileIn := rest } ∧
      t.flag (.rdg n.val) 0x010 0 = true ∧
      (s.flag (.rdg n.val) 0x11C 31 = false → t.field (.rdg n.val) 0x11C 15 8 = k % 256 ∧
        t.field (.rdg n.val) 0x11C 5 0 = tdArray d.words) ∧
      (∀ m, m ≠ n.val → t.ridge m = s.ridge m) ∧ t.tallies = s.tallies ∧ t.mem = s.mem)) ∧
  (∀ (s : State) (n a : Fin 64) (e : TarnErr) (r : Ridge) (o : TileOp), r = s.ridge n.val → r.tileOps = [o] → o.ph = .accepted →
    tdArray o.desc.words = a.val → o.mate = none → tdPair o.desc.words = false → s.arrReady n.val o = true →
    (r.stateRefused o = false → tdAccIn o.desc.words = false → ∃ t, exec (.tileOpReachArray n a e) s = .next t ∧
      (∃ p, (t.ridge n.val).tileOps = [p] ∧ p.ph = .atArray ∧ p.desc = o.desc ∧ p.tile = r.tileOf o) ∧
      (∀ i ∈ o.tiles (r.tileOf o),
        (((r.arr a.val).tile i).isOpen = true → (((t.ridge n.val).arr a.val).tile i).ent = ((r.arr a.val).tile i).ent ∧
          (((t.ridge n.val).arr a.val).tile i).spill = ((r.arr a.val).tile i).spill) ∧
        (((r.arr a.val).tile i).isOpen = false → ((t.ridge n.val).arr a.val).tile i = o.fresh)) ∧
      t = { s with ridges := t.ridges }) ∧
    (r.stateRefused o = true → exec (.tileOpReachArray n a .good) s = .next ((s.tileRefuse n.val o.desc 7).endTile n.val o)))

/-- A pass loads the weights it brings into the shadow registers of its array, and each cell copies its own into its active one
(R76, R80); it adds its column sums (R78, R116, R125): every entry of its rows and columns, in ledger form exactly, in FP32 form by
one rounding of the sum and one addition; no other entry changes; the count of the tile rises by 32 in ledger form. After the last pass of an op that
leaves its tile open, the op is complete and its tally increments (R255). -/
def Obligations.PassAddsColumnSums : Prop :=
  ∀ (s : State) (n a : Fin 64) (r : Ridge) (o : TileOp) (q p : Pass) (u : Tile), r = s.ridge n.val → r.tileOps = [o] →
    o.ph = .atArray → tdArray o.desc.words = a.val → tdPair o.desc.words = false → tdCols o.desc.words ≤ 32 →
    q = r.passOf o o.made → p = q.using ((r.arr a.val).swap q).active → u = (r.arr a.val).tile p.tile → p.rangeBad = false →
    (∀ m < p.rows, p.rowBad m = false) → (∀ c < p.cols, p.colBad c = false) →
    u.fp = true ∨ u.count + 32 ≤ s.spillInterval n.val →
    ∃ t, exec (.arrayPass n a .good .good .good) s = .next t ∧
      (q.load = true → ((t.ridge n.val).arr a.val).active = q.shadow ∧ ∀ k < 32, ∀ c < 32, p.w k c = q.w k c) ∧
      (let v := ((t.ridge n.val).arr a.val).tile p.tile
       (∀ m < p.rows, ∀ c < p.cols,
         (u.fp = false → v.entry (m * 32 + c) = (entAdd 80 (u.entry (m * 32 + c)) (p.entry (o.mulShift u) m c)).1) ∧
         (u.fp = true → v.entry (m * 32 + c) = { v := ((accRound o.o.nonsat (Sys2Proof.Machine.Num.add
           (fp32Val (w32 (u.entry (m * 32 + c)).v.toNat)) (fp32Val (w32 (accRound o.o.nonsat (p.sum m c)).1)))).1 : Int) })) ∧
       (∀ k, (∀ m < p.rows, ∀ c < p.cols, k ≠ m * 32 + c) → v.entry k = u.entry k) ∧
       v.count = (if u.fp then u.count else u.count + 32)) ∧
      (o.made + 1 = opPasses o.desc.words → tdDrain o.desc.words = false → o.remote = 0 → o.sampled = false →
        o.xfault = false → (t.ridge n.val).tileOps = [] ∧
          t.tallies = (s.opTally (tdTally o.desc.words) o.desc.ctx).tallies) ∧
      (o.made + 1 < opPasses o.desc.words → (t.ridge n.val).tileOps = [{ o with made := o.made + 1 }])

/-- A drain to the Tarn writes every element of its rows and columns (R128, R130): the code of one rounding of the exact scaled
sum, at its address, unless what the op read was being written (R96, R121) or the address lay in a poisoned word (R203); then the tile is
closed and the op is gone; no other byte of the Tarn changes. -/
def Obligations.TileDrainWritesItsOutput : Prop :=
  ∀ (s : State) (n a : Fin 64) (m : MemUse) (r : Ridge) (o : TileOp) (d : List W32) (c : Closed) (i : Nat), r = s.ridge n.val →
    r.tileOps = [o] → o.ph = .passed → d = o.desc.words → tdArray d = a.val → o.tiles o.tile = [i] → i < 2 →
    c = ((r.arr a.val).tile i).close o → tdPair d = false → tdDrain d = true → tdRaw d = false → tdOutTarn d = true →
    tdTout d = false → tdAccIn d = false → o.remote = 0 → o.sampled = false →
    tdCols d * (opOutFmt d o.cold).bytes ≤ tdOutStride d → tdOutAddr d % 2 ^ 24 + tdRows d * tdOutStride d ≤ 0xC00000 →
    s.slotBad n.val ((r.arr a.val).tile i) = [] →
    (∀ m < tdRows d, ∀ k < tdCols d, c.isBad (m * 32 + k) = false ∧ (r.outEl o [c] 0 (m * 32 + k) m k).epiBad = false) →
    ∃ t, exec (.tileDrain n a .good .good m) s = .next t ∧
      (((r.arr a.val).tile i).loose = false → s.opRaces n.val o = false → ∀ m < tdRows d, ∀ k < tdCols d,
        r.tarnPoison (tdOutAddr d % 2 ^ 24 + m * tdOutStride d + k * (opOutFmt d o.cold).bytes) (opOutFmt d o.cold).bytes = false →
        (t.ridge n.val).tarnRead (tdOutAddr d % 2 ^ 24 + m * tdOutStride d + k * (opOutFmt d o.cold).bytes)
          (opOutFmt d o.cold).bytes = leBytes (opOutFmt d o.cold).bytes (r.outEl o [c] 0 (m * 32 + k) m k).code) ∧
      (∀ b, (∀ m < tdRows d, ∀ k < tdCols d * (opOutFmt d o.cold).bytes, b ≠ tdOutAddr d % 2 ^ 24 + m * tdOutStride d + k) →
        (t.ridge n.val).tarnByte b = r.tarnByte b) ∧
      ((t.ridge n.val).arr a.val).tile i = {} ∧ (t.ridge n.val).tileOps = []

/-- The activity ramp and the upkeep of the Tarn (R90, R94, R95): eight steps up and eight down, a hold between; zeroing begins
when another context waits and no op is left, and ends with every byte of the Tarn zero, every tile closed and no owner; the
scrubber goes on word by word and poisons a word it cannot correct.

A Ridge takes the oldest Brook descriptor and reads what it needs of its sequencer's data memory (R166, R167, R217): one that passes becomes the newest accepted op of the Ridge, with the
scalars it read; one that fails is recorded with its reason, and no tally, no op and no memory changes. An op that has run
completes in issue order and increments its tally. -/
def Obligations.RidgeOpsComeAndGo : Prop :=
  (∀ (s : State) (n a : Fin 64) (r : Ridge) (e : Ecc), r = s.ridge n.val →
    (∀ k, (r.arr a.val).ramp = .up k → ∃ t, exec (.arrayRampStep n a) s = .next t ∧
      ((t.ridge n.val).arr a.val).ramp = (if k < 7 then .up (k + 1) else if r.hasOp a.val then .running else .hold) ∧
      t = { s with ridges := t.ridges }) ∧
    (∀ k, (r.arr a.val).ramp = .down k → ∃ t, exec (.arrayRampStep n a) s = .next t ∧
      ((t.ridge n.val).arr a.val).ramp = (if k < 7 then .down (k + 1) else .stopped) ∧ t = { s with ridges := t.ridges }) ∧
    ((r.arr a.val).ramp = .hold → ∃ t, exec (.arrayHoldExpire n a) s = .next t ∧
      ((t.ridge n.val).arr a.val).ramp = .down 0 ∧ t = { s with ridges := t.ridges }) ∧
    (r.zeroing = false → r.owner ≠ 0xFF → (∃ d ∈ r.tileIn.head?, d.ctx ≠ r.owner) → r.tileOps = [] → r.brookOps = [] →
      r.fetchOps = [] → exec (.tarnZeroingStart n) s = .next (s.setRidge n.val { r with zeroing := true })) ∧
    (r.tileOps ≠ [] ∨ r.brookOps ≠ [] ∨ r.fetchOps ≠ [] → exec (.tarnZeroingStart n) s = .next s) ∧
    (r.zeroing = true → r.quiescing = false → ∃ t, exec (.tarnZeroingDone n) s = .next t ∧
      (∀ b, (t.ridge n.val).tarnByte b = 0) ∧ (t.ridge n.val).tarnBad = [] ∧ (t.ridge n.val).owner = 0xFF ∧
      (t.ridge n.val).zeroing = false ∧ (∀ b, ((t.ridge n.val).arr b).t0 = {} ∧ ((t.ridge n.val).arr b).t1 = {}) ∧
      t = { s with ridges := t.ridges, io := t.io }) ∧
    (s.flag (.trn n.val) 0x100 0 = false → exec (.tarnScrubRead n e) s = .next s) ∧
    (s.flag (.trn n.val) 0x100 0 = true → ∃ t, exec (.tarnScrubRead n e) s = .next t ∧
      (t.ridge n.val).scrub = (r.scrub + 1) % 0x60000 ∧ (t.ridge n.val).tarn = r.tarn ∧
      (e = .uncorrectable → (t.ridge n.val).tarnBad.has r.scrub = true ∧ t.flag (.trn n.val) 0x010 1 = true) ∧
      (e ≠ .uncorrectable → (t.ridge n.val).tarnBad = r.tarnBad))) ∧
  (∀ (s : State) (n : Fin 64) (e : Ecc) (r : Ridge), r = s.ridge n.val →
    (∀ (d : Desc) (rest : List Desc), r.brookIn = d :: rest → r.admits d.ctx = true → r.brookOps.length < 16 →
      (bdOperands d.words).all (fun x => !(bdNames d.words x && s.scalePoison false (bdScl d.words x))) = true →
      let u := s.brookMeets n.val d.words e
      let j := s.curSlot d.ctx (fnOpt (bdFn d.words))
      let v := s.bdJudge d.words (s.bdUses d.words j) (s.bdCold d.words)
      (∀ sc, v.1 = 0 → fnOpt (bdFn d.words) = false → u.brScalars n.val d.words j = some sc →
        ∃ t, exec (.brookOpAccept n e) s = .next t ∧ (t.ridge n.val).brookIn = rest ∧ (t.ridge n.val).owner = d.ctx ∧
          (∃ o, (t.ridge n.val).brookOps = r.brookOps ++ [o] ∧ o.desc = d ∧ o.scalars = sc ∧ o.done = false) ∧
          t = { u with ridges := t.ridges, free := t.free } ∧ t.tallies = s.tallies ∧ t.mem = s.mem) ∧
      (v.1 ≠ 0 → ∃ t, exec (.brookOpAccept n e) s = .next t ∧ t.ridge n.val = { r with brookIn := rest } ∧
        t.flag (.brk n.val) 0x010 0 = true ∧
        (s.flag (.brk n.val) 0x108 31 = false → t.field (.brk n.val) 0x108 7 0 = v.1) ∧
        t.tallies = s.tallies ∧ t.mem = s.mem)) ∧
    (∀ (o : BrookOp) (rest : List BrookOp), r.brookOps = o :: rest → o.done = true → o.cold = false → o.folds = [] →
      ∃ t, exec (.brookOpComplete n) s = .next t ∧ (t.ridge n.val).brookOps = rest ∧
        t.tallies = (s.opTally (bdTally o.desc.words) o.desc.ctx).tallies ∧ t.mem = s.mem))

/-! ### Brook (chapter 6) -/

/-- An element-wise op in fast mode writes, for every row and element, the code of its function's exact result at the element's
address, rounded once (R155, R156), where no poison lay (R203); the op then only waits to complete. Where no exact result exists the code is the model's
free value (log entry 62). -/
def Obligations.BrookWritesEveryElement : Prop :=
  ∀ (s : State) (n : Fin 64) (r : Ridge) (o : BrookOp) (rest : List BrookOp) (d : List W32), r = s.ridge n.val →
    r.brookOps = o :: rest → o.done = false → r.zeroing = false → d = o.desc.words → bdStrict d = false → fnOpt (bdFn d) = false →
    fnRow (bdFn d) = false → bdTo4 d = false → r.brRawBad o = false → o.overlaps r 3 = false →
    s.brRaces n.val o = false →
    bdLen d * (o.fmt 3).bytes ≤ bdStride d 3 → bdAddr d 3 + bdRows d * bdStride d 3 ≤ 0xC00000 →
    (∀ row < bdRows d, ∀ i < bdLen d, ∀ x ∈ fnUses (bdFn d), (r.brElem o x row i).bad = false) →
    ∃ t, exec (.brookOpExecute n .good) s = .next t ∧
      (∀ row < bdRows d, ∀ i < bdLen d,
        let e := fun x => if x ∈ fnUses (bdFn d) then (r.brElem o x row i).x else .fin false 0 0
        let nan := (e 0).isNan || (e 1).isNan || (e 2).isNan
        r.tarnPoison (o.addr 3 row i) (o.fmt 3).bytes = false → (t.ridge n.val).tarnRead (o.addr 3 row i) (o.fmt 3).bytes =
          leBytes (o.fmt 3).bytes (o.roundFast s.free 3 0 row i nan (o.nonsat 3) (fnValue (bdFn d) (e 0) (e 1) (e 2)))) ∧
      (∃ p, (t.ridge n.val).brookOps = p :: rest ∧ p.done = true ∧ p.desc = o.desc ∧ p.jslot = o.jslot) ∧
      t.tallies = s.tallies ∧ t.mem = s.mem

/-! ### Memory (chapter 7) -/

/-- The hash of the window (R174): an offset below W × 128 MiB lies in the stack that the fold of its granule index names, at the
address the rule gives; no two offsets share a byte, and an aligned run of 2 KiB touches all eight stacks. -/
def Obligations.WindowHashIsOneToOne : Prop :=
  ∀ (s : State) (o : Nat), o < s.winFrames * 2 ^ 27 →
    let g := o / 256
    let stack := (g % 8) ^^^ (g / 2 ^ 3 % 8) ^^^ (g / 2 ^ 6 % 8) ^^^ (g / 2 ^ 9 % 8) ^^^ (g / 2 ^ 12 % 8) ^^^ (g / 2 ^ 15 % 8) ^^^
      (g / 2 ^ 18 % 8) ^^^ (g / 2 ^ 21 % 8) ^^^ (g / 2 ^ 24 % 8) ^^^ (g / 2 ^ 27 % 8)
    s.windowKey o = stack * 2 ^ 37 + ((5120 - s.winFrames) * 2 ^ 24 + g / 8 * 256 + o % 256) ∧ stack < 8 ∧
    (∀ p < s.winFrames * 2 ^ 27, s.windowKey p = s.windowKey o → p = o) ∧
    (o % 2048 = 0 → ∀ k < 8, ∃ i < 8, s.windowKey (o + 256 * i) / 2 ^ 37 = k)

/-- A translation that succeeds has passed every check of R180 and R181: the entry translates, the page lies in the context's view,
a local page lies in the context's partition, below the hashed window, on a stack that works; and it leads where `TGT` says
(R179).

Writes of the Page Map (R185, R186): a write gives both copies the entry, and no translation cache holds the page; every other
entry is as before. While a batch is pending it is ignored, with `MAP_BUSY`. A valid batch becomes pending; when it is applied,
each page that a record names holds the last record's entry, every other page its own, and every translation cache is empty; a
batch that is not valid changes no entry.

The window port and the size of the window (R177, R211): a read of the low half returns the low half of the word at the port and
holds its high half; a 64-bit read returns both and steps the port on; a read of the high half returns the held half and steps the
port on; a write of the high half stores the word, in the bits that its place has, and steps the port on; a poisoned word reads
zero. Outside the Scale Table a word shows what is stored. A write of `WIN_CFG` is ignored while the page is sealed, and ignored
with `MAP_BUSY` while the device is not idle. -/
def Obligations.PageMapTranslatesAndChanges : Prop :=
  (∀ (s : State) (die copy c a : Nat) (k : Acc) (x : Place), s.translate die copy c k a = .ok x →
    let e := s.pmapEntry copy (a / 2 ^ 24 % 2 ^ 19)
    let d := pmFld e 55 52
    let v := s.reg .pmap (0x200 + 4 * c)
    pmFld e 63 63 = 1 ∧ (k ≠ .wr → pmFld e 62 62 = 1 ∧ bitOf v d = true) ∧ (k ≠ .rd → pmFld e 61 61 = 1 ∧ bitOf v (16 + d) = true) ∧
      (k = .at → pmFld e 60 60 = 1) ∧
    (match x with
      | .local st y => pmFld e 43 40 = s.mySlot ∧ st = pmFld e 18 16 ∧ y = pmFld e 12 0 * 2 ^ 24 + a % 2 ^ 24 ∧
          pmFld e 12 0 < 5120 - s.winFrames ∧ s.partOfDie (st / 2) = s.partOfCtx c ∧ s.mem.failed.has st = false
      | .board slot => slot = pmFld e 43 40 ∧ slot < 8 ∧ slot ≠ s.mySlot
      | .remote w => w + 8 = pmFld e 43 40)) ∧
  (∀ (s : State) (p : BitVec 19) (x : W64) (v : W32) (b : Batch), s.asleep = false →
    (s.mem.batch = none → ∃ t, exec (.pageMapWrite p true x) s = .next t ∧
      (∀ c < 2, t.pmapEntry c p.toNat = x ∧ ∀ q, q ≠ p.toNat → t.pmapEntry c q = s.pmapEntry c q) ∧
      (∀ e ∈ t.mem.xcache, p.toNat ∉ e.2) ∧ t.mem.lost.has p.toNat = false) ∧
    (s.mem.batch.isSome = true → exec (.pageMapWrite p true x) s = .next (s.setErr .pmap 3) ∧
      exec (.batchGo v) s = .next (s.setErr .pmap 3)) ∧
    (s.mem.batch = none → s.batchOk (fld v 12 0) = true → ∃ t, exec (.batchGo v) s = .next t ∧
      t.mem.batch = some { recs := (List.range (fld v 12 0)).map s.batchRec, atClosed := bitOf v 16 }) ∧
    (s.mem.batch = none → s.batchOk (fld v 12 0) = false → ∃ t, exec (.batchGo v) s = .next t ∧ t.mem = s.mem ∧
      t.flag .pmap 0x010 2 = true) ∧
    (s.mem.batch = some b → b.atClosed = false → ∃ t, exec .batchApply s = .next t ∧ t.mem.batch = none ∧ t.mem.xcache = [] ∧
      ∀ c < 2, ∀ q, t.pmapEntry c q = (match (b.recs.reverse.find? fun r => r.1 == q) with
        | some r => r.2
        | none => s.pmapEntry c q))) ∧
  (∀ (s : State) (o : Nat) (v : W32), o = ((s.reg64 .pmap 0x118).toNat % 2 ^ 36) / 8 * 8 → s.asleep = false → s.windowOk = true →
    o < s.winFrames * 2 ^ 27 → portUnused o = false →
    let stepped := fun t : State => (t.reg64 .pmap 0x118).toNat = ((s.reg64 .pmap 0x118).toNat + 8) % 2 ^ 36
    (∀ x, x < 0x400000 ∨ 0xC00000 ≤ x → s.shownWord x = s.winWord x &&& w32 (winMask x)) ∧
    (s.winPoison o = false → (∃ t, exec (.windowPortReadLo false) s = .next t ∧
      t.out = .data (w64 (s.shownWord o).toNat) :: s.out ∧ t.reg .pmap 0x124 = s.shownWord (o + 4) ∧ t.mem = s.mem) ∧
      ∃ t, exec (.windowPortReadLo true) s = .next t ∧ t.out = .data (join64 (s.shownWord (o + 4)) (s.shownWord o)) :: s.out ∧
        stepped t ∧ t.mem = s.mem) ∧
    (s.winPoison o = true → ∃ t, exec (.windowPortReadLo false) s = .next t ∧ t.out.head? = some (.data 0) ∧
      t.flag .pmap 0x010 4 = true ∧ t.mem = s.mem) ∧
    (∃ t, exec .windowPortReadHi s = .next t ∧ t.out = .data (w64 (s.reg .pmap 0x124).toNat) :: s.out ∧ stepped t ∧
      t.mem = s.mem) ∧
    (s.winPoison o = false → s.stepOpen = false → ∃ t, exec (.windowPortWriteHi v) s = .next t ∧ stepped t ∧
      (s.mem.astray = [] → t.winNat o 8 = (join64 (v &&& w32 (winMask (o + 4)))
        (s.heldWord (Page.base .pmap + 0x120) &&& w32 (winMask o))).toNat)) ∧
    (s.pageSealed .pmap = true → exec (.winCfgWrite v) s = .next s) ∧
    (s.pageSealed .pmap = false → s.partIdle = false → exec (.winCfgWrite v) s = .next (s.setErr .pmap 3)) ∧
    (s.pageSealed .pmap = false → s.partIdle = true → ∃ t, exec (.winCfgWrite v) s = .next t ∧
      t.winFrames = min (fld v 9 0) 512 ∧ t.mem.pmap0 = s.mem.pmap0 ∧ t.mem.pmap1 = s.mem.pmap1))

/-- Fetch ops (R188 to R193): a Ridge takes the oldest descriptor, or refuses it with the first reason that holds; the port cuts
chunks that never cross a 2 KiB boundary, and translates one whose page the cache holds; a refill lets the chunks that wait for the
page go on.

A chunk that is served here and meets no error moves its bytes (R189, R190, R204): a read puts memory's bytes and the poison of
its granules into the Tarn where no poison lay, a write puts the Tarn's bytes into memory, where they do not lie in a spill slot
(R121) and no DMA channel may write the same bytes (R279); the chunk's context is free, and with the last chunk of an op the tally
increments. A chunk whose way went down meanwhile moves nothing (R13). -/
def Obligations.FetchOpsMoveBytes : Prop :=
  (∀ (s : State) (n : Fin 64) (e : TarnErr) (r : Ridge), r = s.ridge n.val →
    (∀ d rest, r.fetchIn = d :: rest → r.admits d.ctx = true → r.fetchOps.length < 32 →
      (fdReason d.words = 0 → ∃ t, exec (.fetchOpAccept n) s = .next t ∧ (t.ridge n.val).fetchIn = rest ∧
        (t.ridge n.val).owner = d.ctx ∧
        (∃ o, (t.ridge n.val).fetchOps = r.fetchOps ++ [o] ∧ o.desc = d ∧ o.row = 0 ∧ o.off = 0 ∧ o.chunks = []) ∧
        t = { s with ridges := t.ridges }) ∧
      (fdReason d.words ≠ 0 → ∃ t, exec (.fetchOpAccept n) s = .next t ∧ t.ridge n.val = { r with fetchIn := rest } ∧
        t.flag (.bsn (n.val / 16)) 0x010 0 = true ∧
        (s.flag (.bsn (n.val / 16)) 0x104 31 = false → t.field (.bsn (n.val / 16)) 0x104 15 8 = fdReason d.words ∧
          t.field (.bsn (n.val / 16)) 0x104 5 0 = n.val) ∧ t.tallies = s.tallies ∧ t.mem = s.mem)) ∧
    (∀ o, r.fetchOps = [o] → o.row < fdRows o.desc.words → o.chunks = [] → o.off < fdBytes o.desc.words →
      let a := (fdRowAddr o.desc.words o.row + o.off) % 2 ^ 43
      let m := min (fdBytes o.desc.words - o.off) (2048 - a % 2048)
      m ≠ 0 ∧ a / 2048 = (a + m - 1) / 2048 ∧
      (fdWin o.desc.words = false → pageOf a ∉ s.cacheSet n.val (pageOf a) → ∃ t, exec (.fetchChunkIssue n 0 e) s = .next t ∧
        (∃ p, (t.ridge n.val).fetchOps = [p] ∧ p.chunks = [{ row := o.row, off := o.off, len := m, addr := a, st := .refill }] ∧
          (p.row, p.off) = (if fdBytes o.desc.words ≤ o.off + m then (o.row + 1, 0) else (o.row, o.off + m))) ∧
        t = { s with ridges := t.ridges, io := t.io })) ∧
    (∀ (o : FetchOp) (c : Chunk) (st x : Nat), r.fetchOps = [o] → o.chunks = [c] → c.st = .refill →
      s.routeDown (n.val / 16) (4 + ridgeCopy n.val) = false → s.mem.lost.has (pageOf c.addr) = false →
      s.translateEntry (n.val / 16) o.desc.ctx (fdAcc o.desc.words) c.addr (s.pmapEntry (ridgeCopy n.val) (pageOf c.addr)) =
        .ok (.local st x) →
      ∃ t, exec (.xlateCacheRefill n (BitVec.ofNat 19 (pageOf c.addr)) .clean e) s = .next t ∧
        (t.ridge n.val).fetchOps = [{ o with chunks := [{ c with st := .here (memKey st x) }] }] ∧
        pageOf c.addr ∈ t.cacheSet n.val (pageOf c.addr) ∧ t.tallies = s.tallies)) ∧
  (∀ (s : State) (n : Fin 64) (us : List GranUse) (r : Ridge) (o : FetchOp) (c : Chunk) (key : Nat) (d : List W32),
    r = s.ridge n.val → r.fetchOps = [o] → o.chunks = [c] → c.st = .here key → d = o.desc.words → 0 < c.len → c.len ≤ 2048 →
    (∀ u ∈ us, u.hit = true ∧ u.line = .good) →
    (s.keyDown n.val key = true → ∃ t, exec (.fetchChunkDone n 0 0 us .good) s = .next t ∧ t.mem = s.mem ∧ t.tallies = s.tallies ∧
      ∀ b, (t.ridge n.val).tarnByte b = r.tarnByte b) ∧
    (s.keyDown n.val key = false → fdDir d = 0 → fdHint d ≠ 3 → ∃ t, exec (.fetchChunkDone n 0 0 us .good) s = .next t ∧
      (∀ i < c.len, r.tarnBad.has ((chunkTarn d c + i) / 32) = false →
        (∀ j < c.len, s.unwritten o.desc.op ((c.addr + j) % 2 ^ 43) = false) → (t.ridge n.val).tarnByte (chunkTarn d c + i) = s.hbmByte (key + i)) ∧
      (∀ i < c.len, s.granPoison ((key + i) / 64) = true → (t.ridge n.val).tarnBad.has ((chunkTarn d c + i) / 32) = true) ∧
      (∀ b, b < chunkTarn d c ∨ chunkTarn d c + c.len ≤ b → (t.ridge n.val).tarnByte b = r.tarnByte b) ∧
      (o.row = fdRows d → o.xfault = false → (t.ridge n.val).fetchOps = [] ∧
        t.tallies = (s.opTally (fdTally d) o.desc.ctx).tallies) ∧ t.mem = s.mem) ∧
    (s.keyDown n.val key = false → fdDir d = 1 → r.tarnPoison (chunkTarn d c) c.len = false →
      (∀ g ∈ granules key c.len, s.granPoison g = false) →
      ∃ t, exec (.fetchChunkDone n 0 0 us .good) s = .next t ∧
        (spansMeet [(chunkTarn d c, c.len)] (s.tarnSlots n.val) = false →
          (∀ i < c.len, s.dmaDest none false ((c.addr + i) % 2 ^ 43) = false) →
          (s.mem.astray = [] → ∀ i < c.len, t.hbmByte (key + i) = r.tarnByte (chunkTarn d c + i)) ∧
          ∀ a, a < key ∨ key + c.len ≤ a → t.hbmByte a = s.hbmByte a) ∧
        (o.row = fdRows d → o.xfault = false → (t.ridge n.val).fetchOps = [] ∧
          t.tallies = (s.opTally (fdTally d) o.desc.ctx).tallies)))

/-- A Ridge works for one context at a time (R94): if all its accepted ops are tagged with its owner, and there are none while it
zeroes or has no owner, then that stays so whatever a Ridge command does. -/
def Obligations.RidgesKeepOneOwner : Prop :=
  let own := fun s : State => ∀ n : Fin 64, let r := s.ridge n.val
    (∀ o ∈ r.tileOps, o.desc.ctx = r.owner) ∧ (∀ o ∈ r.brookOps, o.desc.ctx = r.owner) ∧
    (∀ o ∈ r.fetchOps, o.desc.ctx = r.owner) ∧
    (r.zeroing = true ∨ r.owner = 0xFF → r.tileOps = [] ∧ r.brookOps = [] ∧ r.fetchOps = [])
  own State.reset ∧
  ∀ (s t : State) (n a : Fin 64) (p : BitVec 19) (q : Fin 32) (ch : BitVec 8) (pp : PassParity) (ae : AccErr) (te : TarnErr) (e : Ecc)
    (m : MemUse) (us : List GranUse), own s → (∀ d ∈ (s.ridge n.val).tileIn ++ (s.ridge n.val).brookIn ++ (s.ridge n.val).fetchIn, d.ctx < 64) →
    ∀ i ∈ [Instr.tileOpAccept n e, .tileOpReachArray n a te, .arrayPass n a pp ae te, .tileDrain n a ae te m, .arrayRampStep n a,
      .arrayHoldExpire n a, .tarnZeroingStart n, .tarnZeroingDone n, .tarnScrubRead n e, .brookOpAccept n e, .brookOpExecute n te,
      .brookOpComplete n, .fetchOpAccept n, .fetchChunkIssue n q te, .fetchChunkDone n q ch us te, .xlateCacheRefill n p e te],
    exec i s = .next t → own t

/-! ### Rill (chapter 8) -/

/-- Arithmetic of format R, of format I, and the loads of immediates: g[D] takes the value of R220 (g0 discards it), the PC goes
on by one, and nothing else changes.

Compares write one predicate with the condition of R221, a compare with an immediate against its sign extension. -/
def Obligations.RillComputes : Prop :=
  (∀ (s : State) (c : Fin 77) (e : Ecc) (k : Core) (w : W32), k = s.core c.val → w = s.instrWord c.val →
    e ≠ .uncorrectable → k.pc.toNat ≠ 16383 →
    (∀ x ∈ [(Instr.addR c e, 0x01, k.reg (rA w) + k.reg (rB w)), (.subR c e, 0x02, k.reg (rA w) - k.reg (rB w)),
        (.andR c e, 0x03, k.reg (rA w) &&& k.reg (rB w)), (.orR c e, 0x04, k.reg (rA w) ||| k.reg (rB w)),
        (.xorR c e, 0x05, k.reg (rA w) ^^^ k.reg (rB w)), (.shl c e, 0x06, k.reg (rA w) <<< ((k.reg (rB w)).toNat % 64)),
        (.shr c e, 0x07, k.reg (rA w) >>> ((k.reg (rB w)).toNat % 64)),
        (.sar c e, 0x08, (k.reg (rA w)).sshiftRight ((k.reg (rB w)).toNat % 64)),
        (.mulR c e, 0x09, k.reg (rA w) * k.reg (rB w))],
      s.performs c.val x.2.1 = true → fld w 9 0 = 0 →
      ∃ t, exec x.1 s = .next t ∧ s.onlyCore t c.val { k.setReg (rD w) x.2.2 with pc := k.pc + 1 }) ∧
    (∀ x ∈ [(Instr.addi c e, 0x10, k.reg (rA w) + (w.extractLsb' 0 14).signExtend 64),
        (.andi c e, 0x11, k.reg (rA w) &&& (w.extractLsb' 0 14).setWidth 64),
        (.ori c e, 0x12, k.reg (rA w) ||| (w.extractLsb' 0 14).setWidth 64),
        (.xori c e, 0x13, k.reg (rA w) ^^^ (w.extractLsb' 0 14).setWidth 64),
        (.li c e, 0x17, (w.extractLsb' 0 18).signExtend 64),
        (.lis c e, 0x18, k.reg (rD w) <<< 18 ||| (w.extractLsb' 0 18).setWidth 64)],
      s.performs c.val x.2.1 = true →
      ∃ t, exec x.1 s = .next t ∧ s.onlyCore t c.val { k.setReg (rD w) x.2.2 with pc := k.pc + 1 }) ∧
    (∀ x ∈ [(Instr.shli c e, 0x14, k.reg (rA w) <<< fld w 5 0), (.shri c e, 0x15, k.reg (rA w) >>> fld w 5 0),
        (.sari c e, 0x16, (k.reg (rA w)).sshiftRight (fld w 5 0))],
      s.performs c.val x.2.1 = true → fld w 13 6 = 0 →
      ∃ t, exec x.1 s = .next t ∧ s.onlyCore t c.val { k.setReg (rD w) x.2.2 with pc := k.pc + 1 })) ∧
  (∀ (s : State) (c : Fin 77) (e : Ecc) (k : Core) (w : W32) (cc : Fin 7), k = s.core c.val → w = s.instrWord c.val →
    e ≠ .uncorrectable → k.pc.toNat ≠ 16383 → fld w 21 20 = 0 →
    ∀ x ∈ [(Instr.cmp c e, 0x20, k.reg (rB w), fld w 9 0), (.cmpi c e, 0x28, (w.extractLsb' 0 14).signExtend 64, 0)],
      s.performs c.val (x.2.1 + cc.val) = true → x.2.2.2 = 0 →
      ∃ t, exec x.1 s = .next t ∧
        (∀ i < 4, (t.core c.val).p.getLsbD i = if i = fld w 19 18 then
          ([k.reg (rA w) == x.2.2.1, k.reg (rA w) != x.2.2.1, (k.reg (rA w)).slt x.2.2.1, !((k.reg (rA w)).slt x.2.2.1),
            (k.reg (rA w)).ult x.2.2.1, !((k.reg (rA w)).ult x.2.2.1), (k.reg (rA w) &&& x.2.2.1) != 0].getD cc.val false)
          else k.p.getLsbD i) ∧
        s.onlyCore t c.val { k with p := (t.core c.val).p, pc := k.pc + 1 })

/-- Control flow (R220, R222): a target inside program memory is where the core goes; `CALL` saves the next PC in g15, `RETT`
goes to `EPC` and leaves the handler; `NOP` and `PROG` go on; `HALT` stops the core with its code.

Taking an exception (R233, R234): the core traps to its handler where `TRAP.EN` is 1 and it is outside the handler; else it is
FAULTED and `ERR_STAT.FAULTED` is set; in both cases `EPC` and `CAUSE` record it, a wait is abandoned, and no register, predicate
or memory of the core changes. -/
def Obligations.RillControlFlow : Prop :=
  (∀ (s : State) (c : Fin 77) (e : Ecc) (k : Core) (w : W32) (x : BitVec 14), k = s.core c.val → w = s.instrWord c.val →
    e ≠ .uncorrectable →
    (s.performs c.val 0x30 = true → ((k.pc.toNat : Int) + (w.extractLsb' 0 22).toInt = x.toNat) →
      ∃ t, exec (.br c e) s = .next t ∧ s.onlyCore t c.val { k with pc := x }) ∧
    (s.performs c.val 0x31 = true → ((k.pc.toNat : Int) + (w.extractLsb' 0 22).toInt = x.toNat) →
      ∃ t, exec (.call c e) s = .next t ∧ s.onlyCore t c.val { k.setReg 15 (w64 (k.pc.toNat + 1)) with pc := x }) ∧
    (s.performs c.val 0x32 = true → rD w = 0 → fld w 13 0 = 0 → (k.reg (rA w)).toNat = x.toNat →
      ∃ t, exec (.jr c e) s = .next t ∧ s.onlyCore t c.val { k with pc := x }) ∧
    (s.performs c.val 0x37 = true → fld w 21 0 = 0 → k.inTrap = true →
      ∃ t, exec (.rett c e) s = .next t ∧ s.onlyCore t c.val { k with pc := k.epc, inTrap := false }) ∧
    (s.performs c.val 0x33 = true → rD w = 0 → rA w = 0 →
      ∃ t, exec (.halt c e) s = .next t ∧
        s.onlyCore t c.val { k with st := .halted, haltCode := w.extractLsb' 0 14, pc := k.pc + 1 }) ∧
    (s.performs c.val 0x00 = true → fld w 21 0 = 0 → k.pc.toNat ≠ 16383 →
      ∃ t, exec (.nop c e) s = .next t ∧ s.onlyCore t c.val { k with pc := k.pc + 1 }) ∧
    (s.performs c.val 0x34 = true → fld w 21 0 = 0 → k.pc.toNat ≠ 16383 →
      ∃ t, exec (.prog c e) s = .next t ∧ s.onlyCore t c.val { k with prog := k.prog + 1, since := s.refcnt, pc := k.pc + 1 })) ∧
  (∀ (s : State) (c : Nat) (cause : W64) (epc : BitVec 14), c < 77 →
    ∀ t, t = s.takeExc c cause epc → ∀ trap : Bool, trap = (s.flag (.ril c) 0x110 31 && !(s.core c).inTrap) →
    (t.core c).epc = epc ∧ (t.core c).cause = cause ∧ (t.core c).g = (s.core c).g ∧ (t.core c).p = (s.core c).p ∧
      (t.core c).imem = (s.core c).imem ∧ (t.core c).dmem = (s.core c).dmem ∧ (t.core c).pend = (s.core c).pend ∧
      (t.core c).inq = (s.core c).inq ∧ (t.core c).ctx = (s.core c).ctx ∧
    ((s.core c).st = .waiting ∨ (s.core c).st = .idle → (t.core c).waitTally = none ∧ (t.core c).heldDesc = none) ∧
    (trap = true → (t.core c).st = .running ∧ (t.core c).inTrap = true ∧
      (t.core c).pc = BitVec.ofNat 14 (s.field (.ril c) 0x110 13 0)) ∧
    (trap = false → (t.core c).st = .faulted ∧ (t.core c).inTrap = (s.core c).inTrap ∧ (t.core c).pc = (s.core c).pc ∧
      t.flag (.ril c) 0x010 0 = true) ∧
    (∀ j, j ≠ c → t.core j = s.core j) ∧ t = { s with cores := t.cores, io := t.io, out := t.out })

/-- Loads and stores must be naturally aligned and inside data memory (R223): a misaligned address raises exception 0x03, one
beyond data memory 0x04, one that is both raises one of the two, at the instruction, which writes no register and no memory. -/
def Obligations.MisplacedAccessesRaise : Prop :=
  ∀ (s : State) (c : Fin 77) (k : Core) (ea : W64), k = s.core c.val → ea = k.ea (s.instrWord c.val) →
    ∀ x ∈ [(Instr.ld64 c .clean .clean, 0x38, 8), (.ld32 c .clean .clean, 0x39, 4), (.st64 c .clean, 0x3A, 8),
        (.st32 c .clean, 0x3B, 4)],
      s.performs c.val x.2.1 = true →
      (ea.toNat % x.2.2 ≠ 0 → ea.toNat + x.2.2 ≤ 0x10000 → exec x.1 s = .next (s.syncExc c.val 0x03 ea.toNat)) ∧
      (ea.toNat % x.2.2 = 0 → 0x10000 < ea.toNat + x.2.2 → exec x.1 s = .next (s.syncExc c.val 0x04 ea.toNat)) ∧
      (ea.toNat % x.2.2 ≠ 0 → 0x10000 < ea.toNat + x.2.2 → exec x.1 s = .next (s.syncExc c.val 0x03 ea.toNat) ∨
        exec x.1 s = .next (s.syncExc c.val 0x04 ea.toNat)) ∧
      (ea.toNat % x.2.2 ≠ 0 ∨ 0x10000 < ea.toNat + x.2.2 → ∀ t, exec x.1 s = .next t →
        (t.core c.val).g = k.g ∧ (t.core c.val).dmem = k.dmem ∧ t.mem = s.mem)

/-- Loads and stores inside data memory (R216, R220): a load puts the little-endian bytes at ea into g[D]; a store changes the
bytes at ea and no other byte of the core. -/
def Obligations.RillLoadsAndStores : Prop :=
  ∀ (s : State) (c : Fin 77) (e d : Ecc) (k : Core) (w : W32) (a : Nat), k = s.core c.val → w = s.instrWord c.val →
    a = (k.ea w).toNat → e ≠ .uncorrectable → d ≠ .uncorrectable → k.pc.toNat ≠ 16383 →
    (∀ x ∈ [(Instr.ld64 c e d, 0x38, 8), (.ld32 c e d, 0x39, 4)],
      s.performs c.val x.2.1 = true → a % x.2.2 = 0 → a + x.2.2 ≤ 0x10000 → k.dmemBad.has (a / 8) = false →
      ∃ t, exec x.1 s = .next t ∧ s.onlyCore t c.val { k.setReg (rD w) (w64 (k.dmemNat a x.2.2)) with pc := k.pc + 1 }) ∧
    (∀ x ∈ [(Instr.st64 c e, 0x3A, 8), (.st32 c e, 0x3B, 4)],
      s.performs c.val x.2.1 = true → a % x.2.2 = 0 → a + x.2.2 ≤ 0x10000 →
      ∃ t, exec x.1 s = .next t ∧
        s.onlyCore t c.val { k with dmem := (t.core c.val).dmem, dmemBad := (t.core c.val).dmemBad, pc := k.pc + 1 } ∧
        (t.core c.val).dmemNat a x.2.2 = (k.reg (rD w)).toNat % 256 ^ x.2.2 ∧
        ∀ b, b < a ∨ a + x.2.2 ≤ b → (t.core c.val).dmemNat b 1 = k.dmemNat b 1)

/-- System values (R224): `GETS` reads nine of them, `SETS` writes two; any other selector raises exception 0x01.

Tally instructions (R225, R226): `TRD` reads, `TINC` adds modulo 2^32 and makes progress, `TWAIT` goes on when the tally has
reached its target and waits otherwise; TWAIT_RELEASE ends the wait; a tally not permitted to the context raises 0x08.

A tally that passes the target of a waiting core releases it for good, if no exception has to be taken first (R225, R234). -/
def Obligations.RillSystemAndTallies : Prop :=
  (∀ (s : State) (c : Fin 77) (k : Core) (w : W32), k = s.core c.val → w = s.instrWord c.val → k.pc.toNat ≠ 16383 →
    (s.performs c.val 0x35 = true → rA w = 0 →
      (rImm w < 9 → ∃ t, exec (.gets c .clean) s = .next t ∧
        s.onlyCore t c.val { k.setReg (rD w) ([w64 c.val, w64 (coreKind c.val), w64 k.ctx, w64 (s.partOfCtx k.ctx), s.refcnt,
          k.prog.setWidth 64, k.epc.setWidth 64, k.cause, k.p.setWidth 64].getD (rImm w) 0) with pc := k.pc + 1 }) ∧
      (9 ≤ rImm w → exec (.gets c .clean) s = .next (s.syncExc c.val 0x01 0))) ∧
    (s.performs c.val 0x36 = true → rD w = 0 →
      (rImm w = 6 → ∃ t, exec (.sets c .clean) s = .next t ∧
        s.onlyCore t c.val { k with epc := (k.reg (rA w)).setWidth 14, pc := k.pc + 1 }) ∧
      (rImm w = 8 → ∃ t, exec (.sets c .clean) s = .next t ∧
        s.onlyCore t c.val { k with p := (k.reg (rA w)).setWidth 4, pc := k.pc + 1 }) ∧
      (rImm w ≠ 6 → rImm w ≠ 8 → exec (.sets c .clean) s = .next (s.syncExc c.val 0x01 0)))) ∧
  (∀ (s : State) (c : Fin 77) (k : Core) (w : W32) (n : Nat) (v : W32), k = s.core c.val → w = s.instrWord c.val →
    n = (k.ea w).toNat % 4096 → v = (k.reg (rD w)).setWidth 32 → k.pc.toNat ≠ 16383 →
    (s.tallyPermitted n k.ctx = true →
      (s.performs c.val 0x19 = true → ∃ t, exec (.trd c .clean) s = .next t ∧
        s.onlyCore t c.val { k.setReg (rD w) ((s.tally n).setWidth 64) with pc := k.pc + 1 }) ∧
      (s.performs c.val 0x3E = true → k.waitTally = none → ∃ t, exec (.tinc c .clean) s = .next t ∧
        t.tally n = s.tally n + (if rD w = 0 then 1 else v) ∧ (∀ m, m ≠ n → t.tally m = s.tally m) ∧
        t.core c.val = { k with prog := k.prog + 1, since := s.refcnt, pc := k.pc + 1 } ∧
        t = { s with tallies := t.tallies, wins := t.wins, cores := t.cores, host := { s.host with due := t.host.due }, io := t.io }) ∧
      (s.performs c.val 0x3F = true → (s.tally n - v).toNat < 2 ^ 31 →
        ∃ t, exec (.twait c .clean) s = .next t ∧ s.onlyCore t c.val { k with pc := k.pc + 1 }) ∧
      (s.performs c.val 0x3F = true → 2 ^ 31 ≤ (s.tally n - v).toNat →
        ∃ t, exec (.twait c .clean) s = .next t ∧ (t.core c.val).st = .waiting ∧ (t.core c.val).waitTally = some (n, v) ∧
          (t.core c.val).pc = k.pc)) ∧
    (s.tallyPermitted n k.ctx = false →
      ∀ x ∈ [(Instr.trd c .clean, 0x19), (.tinc c .clean, 0x3E), (.twait c .clean, 0x3F)], s.performs c.val x.2 = true →
        exec x.1 s = .next (s.syncExc c.val 0x08 0)) ∧
    (k.st = .waiting → k.waitTally.isSome = true → k.released = true →
      ∃ t, exec (.twaitRelease c) s = .next t ∧ (t.core c.val).st = .running ∧ (t.core c.val).pc = k.pc + 1 ∧
        (t.core c.val).waitTally = none ∧ (t.core c.val).g = k.g)) ∧
  (∀ (s : State) (c n : Nat) (a target : W32), (s.core c).waitTally = some (n, target) → (s.core c).undisturbed = true →
    (s.tally n + a - target).toNat < 2 ^ 31 → ((s.addTally n a).core c).released = true)

/-- `ISSUE` (R227) places a copy of the descriptor at ea, tagged with the current context, in the queue of its target; while the
target is full the core waits, and ISSUE_RESUME places the copy later.

`TAKE` (R228) writes the oldest descriptor at ea, takes its tag as the current context and makes progress; with none there
the core is IDLE, and TAKE_RESUME ends that. Cores of Confluence engines tell their engine as well, so these clauses speak of the
others.

Limits and asynchronous exceptions (R231, R234): a wait that reaches its limit raises 0x0C, a core without progress hangs and
is FAULTED, the oldest pending exception is taken at an instruction boundary.

Starting, stopping and loading a core (R218, R237, R238). -/
def Obligations.RillIssuesTakesAndRuns : Prop :=
  (∀ (s : State) (c : Fin 77) (k : Core) (w : W32) (a opc : Nat) (d : Desc), k = s.core c.val → w = s.instrWord c.val →
    a = (k.ea w).toNat → opc = k.dmemNat a 1 →
    d = { words := k.dmemWords a (if opc = 0x41 then 8 else 16), ctx := k.ctx, src := .core c.val a, op := k.op } →
    k.pc.toNat ≠ 16383 →
    (s.performs c.val 0x3C = true → rD w = 0 → a % 32 = 0 → a + (if opc = 0x41 then 32 else 64) ≤ 0x10000 →
      k.dmemPoison a ((if opc = 0x41 then 32 else 64) / 4) = false →
      (opc ∉ [[0x11, 0x51, 0x61, 0x71], [0x12], [0x21, 0x31, 0x41], [0x52]].getD (coreKind c.val) [] →
        exec (.issue c .clean .clean) s = .next (s.syncExc c.val 0x07 0)) ∧
      (opc ∈ [[0x11, 0x51, 0x61, 0x71], [0x12], [0x21, 0x31, 0x41], [0x52]].getD (coreKind c.val) [] →
        (∀ u, s.place c.val d = some u → ∃ t, exec (.issue c .clean .clean) s = .next t ∧
          t.core c.val = { u.core c.val with pc := k.pc + 1 } ∧ t = { u with cores := t.cores, io := t.io }) ∧
        (s.place c.val d = none → ∃ t, exec (.issue c .clean .clean) s = .next t ∧ (t.core c.val).st = .waiting ∧
          (t.core c.val).heldDesc = some d ∧ (t.core c.val).pc = k.pc ∧ t = { s with cores := t.cores }))) ∧
    (∀ (h : Desc) (u : State), k.st = .waiting → k.undisturbed = true → k.heldDesc = some h → s.place c.val h = some u →
      ∃ t, exec (.issueResume c) s = .next t ∧ (t.core c.val).st = .running ∧ (t.core c.val).pc = (u.core c.val).pc + 1 ∧
        (t.core c.val).heldDesc = none ∧ t = { u with cores := t.cores, io := t.io })) ∧
  (∀ (s : State) (c : Fin 77) (k : Core) (w : W32) (a : Nat), c.val < 69 → k = s.core c.val → w = s.instrWord c.val →
    a = (k.ea w).toNat →
    (s.performs c.val 0x3D = true → rD w = 0 → a % 32 = 0 → a + 64 ≤ 0x10000 → k.pc.toNat ≠ 16383 →
      (∀ d, s.nextTake c.val = some d → ∃ t, exec (.take c .clean) s = .next t ∧
        (∀ i < 16, (t.core c.val).dmemNat (a + 4 * i) 4 = (wordAt d.words i).toNat) ∧ (t.core c.val).inq = k.inq.tail ∧
        (t.core c.val).ctx = d.ctx ∧ (t.core c.val).prog = k.prog + 1 ∧ (t.core c.val).pc = k.pc + 1 ∧
        (t.core c.val).g = k.g) ∧
      (s.nextTake c.val = none → ∃ t, exec (.take c .clean) s = .next t ∧ (t.core c.val).st = .idle ∧
        (t.core c.val).pc = k.pc ∧ (t.core c.val).dmem = k.dmem)) ∧
    (∀ d, s.nextTake c.val = some d → k.st = .idle → k.undisturbed = true → ∃ t, exec (.takeResume c) s = .next t ∧ (t.core c.val).st = .running ∧
      (t.core c.val).inq = k.inq.tail ∧ (t.core c.val).ctx = d.ctx ∧ (t.core c.val).prog = k.prog + 1 ∧
      (t.core c.val).pc = k.pc + 1)) ∧
  (∀ (s : State) (c : Fin 77) (k : Core), k = s.core c.val →
    (k.st = .waiting → (s.reg (.ril c.val) 0x118).toNat ≠ 0 → k.released = false →
      k.undisturbed = true →
      exec (.waitLimitExpire c) s =
        .next ((s.advance k.since ((s.reg (.ril c.val) 0x118).toNat * 1024)).syncExc c.val 0x0C 0)) ∧
    (k.st = .running → (s.reg (.ril c.val) 0x11C).toNat ≠ 0 →
      ∃ t, exec (.hangDetect c) s = .next t ∧ (t.core c.val).st = .faulted ∧ t.flag (.ril c.val) 0x010 1 = true ∧
        (t.core c.val).cause = causeWord 0 0 0 k.ctx 0x0D ∧ (t.core c.val).epc = k.pc) ∧
    (∀ (x : W64) (rest : List W64), k.pend = x :: rest → k.inTrap = false → k.st = .running ∨ k.st = .waiting ∨ k.st = .idle →
      ∃ t, exec (.asyncExceptionTake c) s = .next t ∧ (t.core c.val).pend = rest ∧ (t.core c.val).cause = x ∧
        (t.core c.val).epc = k.pc ∧ (t.core c.val).g = k.g)) ∧
  (∀ (s : State) (c : Fin 77) (k : Core) (v : W32), k = s.core c.val → s.ready = true →
    (v.toNat % 4 = 1 → k.st = .stopped ∨ k.st = .halted ∨ k.st = .faulted →
      ∃ t, exec (.runCtlStart c v) s = .next t ∧ (t.core c.val).st = .running ∧ (t.core c.val).pc = k.startPc ∧
        (t.core c.val).ctx = k.startCtx ∧ (t.core c.val).inTrap = false ∧ (t.core c.val).pend = [] ∧
        (t.core c.val).g = k.g ∧ (t.core c.val).p = k.p) ∧
    (v.toNat % 4 = 1 → k.st = .running ∨ k.st = .waiting ∨ k.st = .idle → exec (.runCtlStart c v) s = .next s) ∧
    (∃ t, exec (.runCtlStop c) s = .next t ∧ (t.core c.val).st = .stopped ∧ (t.core c.val).pc = k.pc ∧
      (t.core c.val).heldDesc = (if k.st = .waiting ∨ k.st = .idle then none else k.heldDesc) ∧ t = { s with cores := t.cores }) ∧
    (∀ (i : BitVec 14) (x : W32), k.busy = false → s.flag (.ril c.val) 0x114 0 = false →
      ∃ t, exec (.programMemoryWrite c (.word i x)) s = .next t ∧
        Table.get (fun _ => 0) (t.core c.val).imem i.toNat = x ∧ (t.core c.val).imemBad.has i.toNat = false ∧
        ∀ j, j ≠ i.toNat → Table.get (fun _ => 0) (t.core c.val).imem j = Table.get (fun _ => 0) k.imem j) ∧
    (∀ x : LoadTarget, k.busy = true → exec (.programMemoryWrite c x) s = .next (s.setErr (.ril c.val) 2)) ∧
    (∀ (i : BitVec 14) (x : W32), k.busy = false → s.flag (.ril c.val) 0x114 0 = true →
      exec (.programMemoryWrite c (.word i x)) s = .next (s.setErr (.ril c.val) 2)) ∧
    (∀ (off : BitVec 16) (x : W64), off.toNat % 8 = 0 → ∃ t, exec (.dataMemoryWrite c off true x) s = .next t ∧
      (t.core c.val).dmemNat off.toNat 8 = x.toNat ∧ (t.core c.val).dmemBad.has (off.toNat / 8) = false ∧
      t = { s with cores := t.cores }))

/-- What no Rill instruction but those that issue, take or count changes: only core `c`, registers and messages; and of another
core's own state nothing at all (R216). -/
def Obligations.RillFrame : Prop :=
  ∀ (s : State) (c : Fin 77) (e d : Ecc),
    ∀ i ∈ [Instr.nop c e, .addR c e, .subR c e, .andR c e, .orR c e, .xorR c e, .shl c e, .shr c e, .sar c e, .mulR c e,
        .addi c e, .andi c e, .ori c e, .xori c e, .shli c e, .shri c e, .sari c e, .li c e, .lis c e, .trd c e, .cmp c e,
        .cmpi c e, .br c e, .call c e, .jr c e, .halt c e, .prog c e, .gets c e, .sets c e, .rett c e, .twait c e,
        .ld64 c e d, .ld32 c e d, .st64 c e, .st32 c e],
    ∃ t, exec i s = .next t ∧ (∀ j, j ≠ c.val → t.core j = s.core j) ∧
      t = { s with cores := t.cores, io := t.io, out := t.out }

/-! ### Command windows, tallies, operations (chapter 9) -/

/-- A write of BAR4 that meets the four conditions of R242 on an enabled window stores its words in the slots; where a word of a
slot was not yet written since the slot was consumed it reads back, and no other word changes; a write that fails a condition, or
to a disabled window, is ignored as a whole.

Window control (R250, R251): disabling empties the slots and keeps `NEXT`, enabling starts in RUN with every slot empty, RESUME
leaves FAULTED, `NEXT` is written only while the window is disabled.

Host writes of tallies and of their owners, and the micro-batch table (R254, R256, R258): a 32-bit write sets one tally, a
64-bit write a pair, `HOST_INC` adds; an owner is written unless the page is sealed, and nothing else changes where nothing of the old or
the new owner can still name a tally of the block; a slot's tokens are refused above 2^24, or a valid slot without tokens, and else
give its segments (R259).

The increment of an op that completes (R255): made where the tally is permitted to the op's tag, else dropped, with
`DENIED` and the first tally and context recorded. -/
def Obligations.CommandWindowsAndTallies : Prop :=
  (∀ (s : State) (w : Fin 64) (off : BitVec 16) (data : List Byte) (en : List Bool), s.ready = true →
    let ok := data.length % 4 = 0 ∧ 4 ≤ data.length ∧ data.length ≤ 64 ∧ off.toNat % 4 = 0 ∧
      off.toNat % 64 + data.length ≤ 64 ∧ en.length = data.length ∧ (∀ b ∈ en, b = true)
    (¬ok ∨ (s.win w.val).st = .disabled → exec (.commandWindowWrite w off data en) s = .next s) ∧
    (ok → (s.win w.val).st ≠ .disabled → ∃ t, exec (.commandWindowWrite w off data en) s = .next t ∧
      (∀ i < data.length / 4, Table.find (off.toNat / 4 + i) (s.win w.val).words = none →
        Table.find (off.toNat / 4 + i) (t.win w.val).words = some (some (w32 (leNat ((data.drop (4 * i)).take 4))))) ∧
      (∀ j, j < off.toNat / 4 ∨ off.toNat / 4 + data.length / 4 ≤ j →
        Table.find j (t.win w.val).words = Table.find j (s.win w.val).words) ∧
      ((∀ i < data.length / 4, Table.find (off.toNat / 4 + i) (s.win w.val).words = none) → t.free = s.free) ∧
      (∀ v, v ≠ w.val → t.win v = s.win v) ∧ t = { s with wins := t.wins, free := t.free })) ∧
  (∀ (s : State) (w : Fin 64) (v : W32), s.ready = true →
    (∃ t, exec (.winCtlEnWrite w false) s = .next t ∧ (t.win w.val).st = .disabled ∧ (t.win w.val).fullSlots = 0 ∧
      (t.win w.val).next = (s.win w.val).next ∧ t = { s with wins := t.wins }) ∧
    ((s.win w.val).st = .disabled → ∃ t, exec (.winCtlEnWrite w true) s = .next t ∧ (t.win w.val).st = .run ∧
      (t.win w.val).fullSlots = 0 ∧ (t.win w.val).next = (s.win w.val).next ∧ t = { s with wins := t.wins }) ∧
    ((s.win w.val).st = .faulted → exec (.winCtlResume w) s =
      .next (s.setWin w.val { s.win w.val with st := .run, reason := 0 })) ∧
    ((s.win w.val).st ≠ .faulted → exec (.winCtlResume w) s = .next s) ∧
    ((s.win w.val).st = .disabled → exec (.winNextWrite w v) s = .next (s.setWin w.val { s.win w.val with next := v })) ∧
    ((s.win w.val).st ≠ .disabled → exec (.winNextWrite w v) s = .next s)) ∧
  (∀ (s : State) (v : W32) (x : W64), s.ready = true →
    (∀ t : Fin 4096, ∃ u, exec (.tallyWrite t false x) s = .next u ∧ u.tally t.val = lo32 x ∧
      (∀ n, n ≠ t.val → u.tally n = s.tally n) ∧ u = { s with tallies := u.tallies, wins := u.wins, cores := u.cores, host := { s.host with due := u.host.due } }) ∧
    (∀ t : Fin 4096, t.val % 2 = 0 → ∃ u, exec (.tallyWrite t true x) s = .next u ∧ u.tally t.val = lo32 x ∧
      u.tally (t.val + 1) = hi32 x ∧ ∀ n, n ≠ t.val → n ≠ t.val + 1 → u.tally n = s.tally n) ∧
    (∃ u, exec (.hostInc v) s = .next u ∧ u.tally (fld v 31 20) = s.tally (fld v 31 20) + w32 (fld v 19 0) ∧
      ∀ n, n ≠ fld v 31 20 → u.tally n = s.tally n) ∧
    (∀ b : Fin 64, s.pageSealed .tly = false → ∃ u, exec (.blockOwnWrite b v) s = .next u ∧
      (∀ t < 4096, ∀ c < 64, t / 64 = b.val → u.tallyPermitted t c = decide (fld v 7 0 = c)) ∧
      (∀ t, t / 64 ≠ b.val → u.tally t = s.tally t) ∧
      (s.blockNamed b.val (s.field .tly (0x200 + 4 * b.val) 7 0) = false → s.blockNamed b.val (fld v 7 0) = false →
        u = { s with io := u.io })) ∧
    (∀ b : Fin 64, s.pageSealed .tly = true → exec (.blockOwnWrite b v) s = .next s) ∧
    (∀ i : Fin 8, 2 ^ 24 < fld v 24 0 ∨ (bitOf v 31 = true ∧ fld v 24 0 = 0) →
      exec (.slotTokWrite i v) s = .next (s.setErr .cwn 2)) ∧
    (∀ i : Fin 8, fld v 24 0 ≤ 2 ^ 24 → bitOf v 31 = true → fld v 24 0 ≠ 0 → ∃ u, exec (.slotTokWrite i v) s = .next u ∧
      u.field .cwn (0x500 + 16 * i.val) 24 0 = fld v 24 0 ∧ u.flag .cwn (0x500 + 16 * i.val) 31 = true ∧
      (u.reg .cwn (0x504 + 16 * i.val)).toNat = (fld v 24 0 + 32767) / 32768)) ∧
  (∀ (s : State) (n c : Nat), n < 4096 → c < 64 →
    (s.tallyPermitted n c = true → (s.opTally n c).tally n = s.tally n + 1 ∧ ∀ m, m ≠ n → (s.opTally n c).tally m = s.tally m) ∧
    (s.tallyPermitted n c = false → (s.opTally n c).tallies = s.tallies ∧ (s.opTally n c).flag .tly 0x010 0 = true ∧
      (s.flag .tly 0x104 31 = false → (s.opTally n c).field .tly 0x104 11 0 = n ∧ (s.opTally n c).field .tly 0x104 17 12 = c ∧
        (s.opTally n c).flag .tly 0x104 31 = true) ∧
      (s.flag .tly 0x104 31 = true → (s.opTally n c).reg .tly 0x104 = s.reg .tly 0x104)))

/-- A record of the window whose turn it is acts by its kind (R243, R245, R247, R248): NOP does nothing, TINC adds its amount, DESC
places the descriptor, PROG places the record in core 0's queue; the slot is then free, `NEXT` advances, and the turn goes past
this window.

DESC_REF (R247): the read of a local descriptor begins, counted as an event; once it has come without poison it is placed and
the record is consumed.

A record that must wait holds its window in HELD, and one whose target is full in BLOCKED, and nothing else happens; when
the tally has reached the target, at any moment since, or the queue has a place, RECORD_WAIT_RELEASE lets the record act (R248).
PROG_WAIT reports a window BLOCKED on core 0's queue for the whole of its limit (R265).

A refused record does nothing but its refusal (R250): it is consumed, its window is FAULTED with the reason and the sequence
number, `REC_FAULT` sets; no other window, no tally, no queue and no memory changes. -/
def Obligations.RecordsActWaitOrAreRefused : Prop :=
  (∀ (s : State) (w : Fin 64) (r : List W32), s.record w.val = some r → s.nextWin = some w.val →
    (s.win w.val).overrun = none → wordAt r 0 = (s.win w.val).next → s.rcReason w.val r = 0 →
    rcWait r = false ∨ tallyReached (s.tally (rcWtally r)) (rcTarget r) = true →
    let done := fun t : State => (t.win w.val).next = (s.win w.val).next + 1 ∧ (t.win w.val).st = .run ∧
      (t.win w.val).full ((s.win w.val).next.toNat % 1024) = false ∧ t.winTurn = w.val
    (rcKind r = 0 → ∃ t, exec (.recordNop w) s = .next t ∧ done t ∧ (∀ v, v ≠ w.val → t.win v = s.win v) ∧
      t = { s with wins := t.wins, winTurn := w.val, io := t.io }) ∧
    (rcKind r = 3 → ∃ t, exec (.recordTinc w) s = .next t ∧ done t ∧
      t.tally (wfld r 4 11 0) = s.tally (wfld r 4 11 0) + wordAt r 5 ∧
      ∀ n, n ≠ wfld r 4 11 0 → t.tally n = s.tally n) ∧
    (rcKind r = 1 → ∀ u, { s with winTurn := w.val }.placeWork
        { words := r.drop 4, ctx := w.val, src := .win w.val (s.win w.val).next } = some u →
      ∃ t, exec (.recordDesc w) s = .next t ∧ done t ∧ t = { u with wins := t.wins, io := t.io }) ∧
    (rcKind r = 4 → (s.core 0).inq.length < 16 → ∃ t, exec (.recordProg w) s = .next t ∧ done t ∧
      (∀ v, v ≠ w.val → t.win v = s.win v) ∧
      (t.core 0).inq = (s.core 0).inq ++ [{ words := r, ctx := w.val, src := .win w.val (s.win w.val).next }])) ∧
  (∀ (s : State) (w : Fin 64),
    (∀ (r : List W32) (s1 : State) (key : Nat), s.record w.val = some r → s.nextWin = some w.val → (s.win w.val).ref = none →
      (s.win w.val).overrun = none → wordAt r 0 = (s.win w.val).next → s.rcReason w.val r = 0 → rcWait r = false →
      rcKind r = 2 → s1 = ({ s with winTurn := w.val }.event .cwn 0x05 1).lookup 4 0 (wquad r 4 43) .clean →
      s1.site 4 0 w.val .rd (wquad r 4 43) = .ok (.here key) →
      ∃ t, exec (.recordDescRef w .clean) s = .next t ∧ (t.win w.val).ref = some (.here key) ∧
        (t.win w.val).next = (s.win w.val).next) ∧
    (∀ (key : Nat) (us : List GranUse) (ws : List W32) (s1 u : State), (s.win w.val).ref = some (.here key) →
      (s.win w.val).st = .run → s.routeDown 4 (stackDie (key / 2 ^ 37)) = false → s1 = s.readRange 0 key 64 us →
      ws = leWords (s1.hbmRead key 64) 16 → s1.rangePoison key 64 = false → s1.winOpc w.val (dcOpc ws) = true →
      (s1.setWin w.val { s1.win w.val with ref := some (.got ws) }).placeWork
        { words := ws, ctx := w.val, src := .win w.val (s1.win w.val).next } = some u →
      exec (.descRefReadDone w us) s = .next (u.consume w.val))) ∧
  (∀ (s : State) (w : Fin 64) (r : List W32), s.record w.val = some r → s.rcReason w.val r = 0 →
    (s.nextWin = some w.val → (s.win w.val).overrun = none → wordAt r 0 = (s.win w.val).next → (s.win w.val).st = .run →
      (rcWait r = true → tallyReached (s.tally (rcWtally r)) (rcTarget r) = false → rcKind r = 0 →
        ∃ t, exec (.recordNop w) s = .next t ∧ t.win w.val = { s.win w.val with
            st := .held, since := s.refcnt, waits := some (rcWtally r, rcTarget r), met := false } ∧
          (∀ v, v ≠ w.val → t.win v = s.win v) ∧ t = { s with wins := t.wins, winTurn := w.val }) ∧
      (rcWait r = false → rcKind r = 4 → 16 ≤ (s.core 0).inq.length →
        ∃ t, exec (.recordProg w) s = .next t ∧ t.win w.val = { s.win w.val with st := .blocked, since := s.refcnt } ∧
          (∀ v, v ≠ w.val → t.win v = s.win v) ∧ t = { s with wins := t.wins, winTurn := w.val })) ∧
    ((s.win w.val).st = .held → rcKind r = 0 →
      (s.win w.val).met = true ∨ tallyReached (s.tally (rcWtally r)) (rcTarget r) = true →
      ∃ t, exec (.recordWaitRelease w .clean) s = .next t ∧ (t.win w.val).st = .run ∧
        (t.win w.val).next = (s.win w.val).next + 1) ∧
    ((s.win w.val).st = .blocked → rcKind r = 4 → (s.core 0).inq.length < 16 →
      ∃ t, exec (.recordWaitRelease w .clean) s = .next t ∧ (t.win w.val).st = .run ∧
        (t.win w.val).next = (s.win w.val).next + 1 ∧ (t.core 0).inq.length = (s.core 0).inq.length + 1) ∧
    ((s.win w.val).st = .blocked → rcKind r = 4 → (s.reg (.ril 0) 0x118).toNat ≠ 0 →
      exec (.progWait w) s =
        .next ((s.advance (s.win w.val).since ((s.reg (.ril 0) 0x118).toNat * 1024)).setErr .cwn 1))) ∧
  (∀ (s : State) (w : Fin 64) (r : List W32) (n : Nat), s.record w.val = some r → s.nextWin = some w.val →
    (s.win w.val).overrun = none → wordAt r 0 = (s.win w.val).next → s.rcReason w.val r = n →
    n ≠ 0 →
    ∀ x ∈ [(Instr.recordNop w, rcKind r == 0 || decide (5 ≤ rcKind r)), (.recordDesc w, rcKind r == 1),
        (.recordDescRef w .clean, rcKind r == 2), (.recordTinc w, rcKind r == 3), (.recordProg w, rcKind r == 4)], x.2 = true →
      ∃ t, exec x.1 s = .next t ∧ (t.win w.val).st = .faulted ∧ (t.win w.val).reason = n ∧
        (t.win w.val).fseq = wordAt r 0 ∧ (t.win w.val).next = (s.win w.val).next + 1 ∧ t.flag .cwn 0x010 0 = true ∧
        (∀ v, v ≠ w.val → t.win v = s.win v) ∧ t = { s with wins := t.wins, winTurn := w.val, io := t.io, out := t.out })

/-- A die sequencer accepts a valid operation descriptor and refuses one with a reserved field that is not zero or with `M`, `N`
or `K` at 0, whose tally it does not increment (R252).

Opening an operation deals it (R15, R97, R253): every Ridge of the die with an array in the deal gets its share descriptor, and
the operation is open, owes those shares, and its arrays have their tiles to do.

The shares of a deal cover it: every list position belongs to the share of exactly one Ridge (R97, R253).

The end of a share (R16), once its ops have all written their results: the share tally rises; with the last share of the die the operation's tally rises as well, and the
operation is gone from the die, with its `OPS_DONE` counted. -/
def Obligations.OperationsAreShared : Prop :=
  (∀ (s : State) (k : Fin 4) (d : Desc) (rest : List Desc), (s.core (1 + k.val)).inq = d :: rest → d.judged = false →
    (odOk d.words = true → ∃ t, exec (.operationAccept k) s = .next t ∧
      (t.core (1 + k.val)).inq = { d with judged := true } :: rest ∧
      t.die k.val = s.die k.val ++ [{ desc := { d with judged := true } }] ∧ t.tallies = s.tallies) ∧
    (wfld d.words 2 23 0 = 0 ∨ wfld d.words 3 23 0 = 0 ∨ wfld d.words 4 23 0 = 0 ∨ wfld d.words 0 19 8 ≠ 0 →
      exec (.operationAccept k) s =
        .next (((s.setCore (1 + k.val) { s.core (1 + k.val) with inq := rest }).setErr (.die k.val) 1).refuseDesc d 0 0x11))) ∧
  (∀ (s : State) (k : Fin 4) (n : Fin 4096) (r : OpRec) (l : List (Nat × Nat)) (mine : List Nat), s.partMode = 2 →
    s.die k.val = [r] → r.phase = 0 → (∀ d ∈ (s.core (1 + k.val)).inq, d.judged = false → r.desc.op ≤ d.op) →
    l = s.dealFinal (s.dealList k.val) (odTiles r.desc.words) →
    mine = (((List.range 16).map fun i => 16 * k.val + i).filter fun m => arraysOf l m != 0) →
    mine ≠ [] → (∀ m ∈ mine, (s.core (5 + m)).inq.length < 16) →
    ∃ t due, exec (.operationBegin k n) s = .next t ∧
      t.die k.val = [{ r with phase := 1, shareTally := n.val, owing := mine, due := due }] ∧
      (∀ m ∈ mine, Table.get (fun _ => 0) due m = tilesDealt l (odTiles r.desc.words) m) ∧
      (∀ m ∈ mine, (t.core (5 + m)).inq = (s.core (5 + m)).inq ++
        [{ words := shareWords r.desc.words n.val l m, ctx := r.desc.ctx, src := r.desc.src, op := r.desc.op }]) ∧
      (∀ m, m ∉ mine → t.core (5 + m) = s.core (5 + m)) ∧ t.tallies = s.tallies ∧ t.mem = s.mem) ∧
  (∀ (s : State) (p tiles : Nat) (d : List W32) (tally : Nat),
    let l := s.dealFinal (s.dealList p) tiles
    let pos := fun n => wfld (shareWords d tally l n) 3 28 16
    let narr := fun n => wfld (shareWords d tally l n) 4 6 0
    ∀ i < l.length, ∃ n < 64, (pos n ≤ i ∧ i < pos n + narr n ∧ narr n ≠ 0) ∧
      ∀ m < 64, narr m ≠ 0 → pos m ≤ i → i < pos m + narr m → m = n) ∧
  (∀ (s : State) (n : Fin 64) (r : OpRec), s.die (n.val / 16) = [r] → r.phase ≠ 0 → r.owing.has n.val = true →
    s.shareWaits n.val r = false → s.opWork n.val r.desc.op = false → r.abandoned = false →
    (NatSet.del n.val r.owing ≠ [] → ∃ t, exec (.shareComplete n) s = .next t ∧
      t.die (n.val / 16) = [{ r with owing := NatSet.del n.val r.owing }] ∧
      t.tallies = (s.opTally r.shareTally r.desc.ctx).tallies) ∧
    (NatSet.del n.val r.owing = [] → ∃ t, exec (.shareComplete n) s = .next t ∧ t.die (n.val / 16) = [] ∧
      t.reg (.die (n.val / 16)) 0x110 = satAdd32 (s.reg (.die (n.val / 16)) 0x110) 1 ∧
      t.tallies = ((s.opTally r.shareTally r.desc.ctx).opTally (odTally r.desc.words) r.desc.ctx).tallies))

/-! ### DMA (chapter 10) -/

/-- A DMA descriptor (R269 to R271, R275, R278): the channel takes it, or refuses it with the first reason; an access reads the
elements' bytes of one granule into the buffer, with its poison, or writes the buffered bytes to their destination (unless they
meet an access that nothing orders them with, R279; a channel whose block failed reads free bytes, R42); when all is written the tally increments and the next descriptor begins.

Halts of a DMA channel (R272, R276, R277, R281): a bus error is repeated up to `RETRY` times and then halts the channel, as a
translation fault does at once; the halt records its cause, its address and the bytes from the first destination element that is
not written whole. `RESUME` restarts there, `ABORT` discards what is accepted and queued without any tally; both are ignored in a
channel that is not halted. `CH_CFG` is written only while the page is not sealed and the channel is idle and empty. -/
def Obligations.DmaMovesBytes : Prop :=
  (∀ (s : State) (c : Fin 32) (k : DmaCh) (d : Desc) (rest : List Desc) (h : HostData) (m : MemUse), k = s.dma c.val →
    (k.inq = d :: rest → s.ddReason c.val d = 0 → ∃ t, exec (.dmaDescAccept c) s = .next t ∧ (t.dma c.val).inq = rest ∧
      (t.dma c.val).acc = k.acc ++ [d] ∧
      (k.st = .idle → (t.dma c.val).st = .active ∧ (t.dma c.val).rd = 0 ∧ (t.dma c.val).wr = 0 ∧ (t.dma c.val).buf = []) ∧
      t = { s with dmas := t.dmas }) ∧
    (k.inq = d :: rest → s.ddReason c.val d ≠ 0 → d.ctx < 64 → ∃ t, exec (.dmaDescAccept c) s = .next t ∧
      t.dma c.val = { k with inq := rest } ∧ t.flag (.dma c.val) 0x010 0 = true ∧
      (s.flag (.dma c.val) 0x11C 31 = false → t.field (.dma c.val) 0x11C 7 0 = s.ddReason c.val d ∧
        t.field (.dma c.val) 0x11C 13 8 = d.ctx) ∧ t.tallies = s.tallies ∧ t.mem = s.mem) ∧
    (k.acc = d :: rest → s.dmaCanRead c.val = true → s.dmaAstray c.val = false → ddSHost d.words = false →
      ddSHint d.words ≠ 3 →
      ∀ key, s.site 4 0 d.ctx .rd (ddSrcAddr d.words k.rd) = .ok (.here key) →
      let n := s.dmaReadLen c.val false
      0 < n ∧ ∃ t, exec (.dmaReadAccess c h {}) s = .next t ∧ (t.dma c.val).rd = k.rd + n ∧
        ((∀ i < n, s.unwritten d.op (ddSrcAddr d.words (k.rd + i)) = false) →
          (t.dma c.val).buf = k.buf ++ (List.range n).map (fun i =>
            (s.hbmByte (key / 64 * 64 + ddSrcAddr d.words (k.rd + i) % 64), s.granPoison (key / 64)))) ∧
        t = { s with dmas := t.dmas, io := t.io, free := t.free }) ∧
    (k.acc = d :: rest → s.dmaCanRead c.val = true → s.dmaAstray c.val = false → ddSHost d.words = true →
      let n := s.dmaReadLen c.val true
      0 < n ∧ ∃ t, exec (.dmaReadAccess c h m) s = .next t ∧ (t.dma c.val).rd = k.rd + n ∧
        (t.dma c.val).buf = k.buf ++ (List.range n).map (fun i => (h.bytes.getD i 0, h.ep)) ∧
        t = { s with dmas := t.dmas, io := t.io }) ∧
    (k.acc = d :: rest → s.dmaCanWrite c.val = true → ddDHost d.words = false →
      (ddDw d.words ≤ ddDStride d.words ∨ ddLen d.words ≤ ddDw d.words) →
      ∀ key, s.site 4 0 d.ctx .wr (ddDstAddr d.words k.wr) = .ok (.here key) → s.granPoison (key / 64) = false →
      let n := runLen (ddDstAddr d.words) false k.wr k.writable
      (∀ b ∈ k.buf.take n, b.2 = false) →
      0 < n ∧ ∃ t, exec (.dmaWriteAccess c {}) s = .next t ∧ (t.dma c.val).wr = k.wr + n ∧ (t.dma c.val).buf = k.buf.drop n ∧
        ((∀ i < n, s.dmaRaces c.val (ddDstAddr d.words (k.wr + i)) = false) →
          (s.mem.astray = [] → ∀ i < n, t.hbmByte (key / 64 * 64 + ddDstAddr d.words (k.wr + i) % 64) = (k.buf.getD i (0, false)).1) ∧
          (∀ a, (∀ i < n, a ≠ key / 64 * 64 + ddDstAddr d.words (k.wr + i) % 64) → t.hbmByte a = s.hbmByte a) ∧
          t = { s with dmas := t.dmas, io := t.io, mem := t.mem })) ∧
    (k.acc = d :: rest → s.dmaCanWrite c.val = true → ddDHost d.words = true →
      let n := runLen (ddDstAddr d.words) true k.wr k.writable
      0 < n ∧ ∃ t, exec (.dmaWriteAccess c m) s = .next t ∧ (t.dma c.val).wr = k.wr + n ∧ (t.dma c.val).buf = k.buf.drop n ∧
        t = { s with dmas := t.dmas, io := t.io, out := t.out, free := t.free } ∧
        ((∀ i < n, s.dmaRaces c.val (ddDstAddr d.words (k.wr + i)) = false) → t.free = s.free ∧
          t.out = .hostWrite (ddDstAddr d.words k.wr) ((k.buf.take n).map Prod.fst) ((k.buf.take n).any Prod.snd) :: s.out)) ∧
    (k.acc = d :: rest → k.st = .active → ddLen d.words ≤ k.wr → ∃ t, exec (.dmaDescComplete c) s = .next t ∧
      (t.dma c.val).acc = rest ∧ (t.dma c.val).st = (if rest = [] then .idle else .active) ∧
      t.tallies = (s.opTally (ddTally d.words) d.ctx).tallies ∧ t.mem = s.mem)) ∧
  (∀ (s : State) (c : Fin 32) (k : DmaCh) (d : Desc) (rest : List Desc) (v : W32), k = s.dma c.val →
    k.acc = d :: rest →
    (s.dmaCanRead c.val = true → ddSHost d.words = true → k.rtries < s.field (.dma c.val) 0x100 14 12 →
      ∃ t, exec (.dmaBusError c) s = .next t ∧ t.dma c.val = { k with rtries := k.rtries + 1, rdOut := none } ∧
        t = { s with dmas := t.dmas, io := t.io }) ∧
    (s.dmaCanRead c.val = true → ddSHost d.words = true → k.rtries = s.field (.dma c.val) 0x100 14 12 →
      ∃ t, exec (.dmaBusError c) s = .next t ∧ (t.dma c.val).st = .halted ∧ (t.dma c.val).acc = k.acc ∧
        t.field (.dma c.val) 0x10C 31 29 = 5 ∧ t.field (.dma c.val) 0x10C 23 16 = 2 ∧
        t.field (.dma c.val) 0x10C 3 0 = k.rtries + 1 ∧ t.reg64 (.dma c.val) 0x110 = w64 (ddSrcAddr d.words k.rd) ∧
        t.reg (.dma c.val) 0x118 = w32 (ddLen d.words - k.wr / ddDw d.words * ddDw d.words) ∧
        t.flag (.dma c.val) 0x010 1 = true ∧ t.tallies = s.tallies ∧ t.mem = s.mem) ∧
    (s.dmaCanWrite c.val = true → k.st = .active → ddDHost d.words = false →
      ∀ r, r < 256 → s.site 4 0 d.ctx .wr (ddDstAddr d.words k.wr) = .error r →
      ∃ t, exec (.dmaWriteAccess c {}) s = .next t ∧ (t.dma c.val).st = .halted ∧ (t.dma c.val).wr = k.wr ∧
        t.field (.dma c.val) 0x10C 31 29 = 6 ∧ t.field (.dma c.val) 0x10C 23 16 = 1 ∧ t.field (.dma c.val) 0x10C 15 8 = r ∧
        t.reg64 (.dma c.val) 0x110 = w64 (ddDstAddr d.words k.wr) ∧ t.tallies = s.tallies ∧ t.mem = s.mem) ∧
    (s.ready = true → k.st = .halted →
      (∃ t, exec (.dmaResume c) s = .next t ∧ (t.dma c.val).st = .active ∧ (t.dma c.val).acc = k.acc ∧
        (t.dma c.val).rd = k.wr / ddDw d.words * ddDw d.words ∧ (t.dma c.val).wr = k.wr / ddDw d.words * ddDw d.words ∧
        (t.dma c.val).buf = [] ∧ t.flag (.dma c.val) 0x10C 31 = false ∧ t = { s with dmas := t.dmas, io := t.io }) ∧
      ∃ t, exec (.dmaAbort c) s = .next t ∧ (t.dma c.val).st = .idle ∧ (t.dma c.val).acc = [] ∧ (t.dma c.val).inq = [] ∧
        t.flag (.dma c.val) 0x10C 31 = false ∧ t = { s with dmas := t.dmas, io := t.io }) ∧
    (k.st ≠ .halted → exec (.dmaResume c) s = .next s ∧ exec (.dmaAbort c) s = .next s) ∧
    (s.ready = true → s.pageSealed (.dma c.val) = false → exec (.chCfgWrite c v) s = .next (s.setErr (.dma c.val) 2)) ∧
    (∀ u : State, u.ready = true → u.pageSealed (.dma c.val) = false → u.dma c.val = {} →
      ∃ t, exec (.chCfgWrite c v) u = .next t ∧ t.field (.dma c.val) 0x100 17 16 = fld v 17 16 ∧
        t.field (.dma c.val) 0x100 14 12 = fld v 14 12 ∧ t.field (.dma c.val) 0x100 10 0 = fld v 10 0 ∧
        t = { u with io := t.io }))

/-! ### The fabric (chapter 11) -/

/-- How a port comes up (R284, R286, R308 to R311): it trains, at generation 2 where both ends allow it and fewer than three attempts
failed; it judges its partner's HELLO by the plan, and a group port by its cabling too; it is UP only after a signature that verifies
under a key whose digest is the planned one, and otherwise quarantined or fenced with cause 0x05; a claim of its own position fences
it with cause 0x0A.

Discovery (R310): its start, and its end when every enabled port has a verdict or `DISC_TO` has passed; a planned partner
that has not trained by then, or whose port has fenced, is ABSENT; `UNREACH` marks exactly the ports whose planned neighbour is the
mirror partner or a spare and whose verdict, or that of the flex port that stands in for them, is not MATCH.

How a port judges its partner (R306, R311 to R314): probes, their answers and their misses, loss of light, starvation; the
counts of a window; what software writes to `PORT_CTL`. A fenced port leaves that state by none of these but `UNFENCE`. -/
def Obligations.PortsComeUpAndJudge : Prop :=
  (∀ (s : State) (port : Fin 36) (k : Port) (nonce sig key : List Byte) (peer2 : Bool) (h : Hello) (v : W32),
    k = s.port port.val →
    let p := port.val
    let cfg := s.reg (.prt p) 0x100
    let others := fun t : State => t.tallies = s.tallies ∧ t.cores = s.cores ∧ t.ridges = s.ridges ∧ t.mem.hbm = s.mem.hbm
    (s.fab.disc = true → fld cfg 1 0 ≠ 0 → k.st = .down →
      let two := decide (2 ≤ fld cfg 1 0) && peer2 && !(bitOf cfg 2 && decide (3 ≤ k.tries))
      (∃ t, exec (.portTrainAttempt port true peer2 nonce) s = .next t ∧ (t.port p).st = .hello ∧
        (t.port p).gen = (if two then 2 else 1) ∧ (t.port p).nonce = nonce ∧ (t.port p).tries = 0 ∧
        (∀ q, q ≠ p → t.port q = s.port q) ∧ others t) ∧
      ∃ t, exec (.portTrainAttempt port false peer2 nonce) s = .next t ∧ (t.port p).st = .down ∧ (t.port p).gen = 0 ∧
        t = { s with ports := t.ports }) ∧
    (k.st = .hello → fld h.pos 30 30 = 0 → fld h.pos 29 21 = s.myGroup → fld h.pos 20 17 = s.myDev →
      ∃ t, exec (.helloReceive port h) s = .next t ∧ (t.port p).st = .fenced ∧ (t.port p).cause = 0x0A ∧
        (t.port p).verdict = 3 ∧ t.flag (.prt p) 0x010 3 = true ∧ others t) ∧
    (k.st = .hello → fld h.pos 30 30 = 1 ∨ fld h.pos 29 21 ≠ s.myGroup ∨ fld h.pos 20 17 ≠ s.myDev →
      ∃ t, exec (.helloReceive port h) s = .next t ∧ (t.port p).st = .attest ∧
        (portRole (s.portAs p) ≠ 0 → (t.port p).verdict = (if bitOf (s.planNbr p) 31 = false then 4
          else if fld (s.planNbr p) 30 11 = fld h.pos 30 11 then 0 else 3)) ∧
        (portRole (s.portAs p) = 0 → fld h.pos 20 17 ≠ s.mateOf (portIndex (s.portAs p)) → (t.port p).verdict = 3) ∧
        fld (t.port p).nbr 31 11 = 2 ^ 20 + fld h.pos 30 11 ∧ others t) ∧
    (k.st = .attest → k.peer = some h →
      let ok := Config.slhVerify key admitContext (admitMessage (Config.helloBytes h.pos h.gen.val h.nonce)
        (Config.helloBytes (s.myPos p) k.ownGen k.nonce)) sig
      let same := sha256 key == s.planId p
      ∃ t, exec (.admitReceive port sig key) s = .next t ∧
        (t.port p).st = (if sig.length ≠ 17088 ∨ key.length ≠ 32 ∨ ok = false then .fenced
          else if k.verdict = 3 ∨ k.verdict = 4 then .quarantine else if same then .up else .fenced) ∧
        ((t.port p).st = .fenced → (t.port p).cause = 0x05) ∧
        (k.verdict = 0 → (t.port p).st = .up → (t.port p).verdict = 1) ∧
        ((t.port p).st ≠ .fenced → (t.port p).attOk = true ∧ (t.port p).idOk = same) ∧ others t) ∧
    (k.st = .attest → ∃ t, exec (.admitTimeout port) s = .next t ∧ (t.port p).st = .fenced ∧ (t.port p).cause = 0x05 ∧
      (t.port p).attReason = 3 ∧ others t) ∧
    (s.ready = true → k.st = .quarantine → fld v 3 1 = 0 →
      (k.attOk = true → s.admitDigest p = true → ∃ t, exec (.portCtlAdmit port v) s = .next t ∧ (t.port p).st = .up ∧
        (t.port p).verdict = (if k.verdict = 0 then 1 else k.verdict) ∧ others t) ∧
      (k.attOk = false ∨ s.admitDigest p = false → ∃ t, exec (.portCtlAdmit port v) s = .next t ∧
        (t.port p).st = .quarantine ∧ t.flag (.prt p) 0x010 4 = true ∧ others t))) ∧
  (∀ (s : State) (v : W32),
    (s.ready = true → bitOf v 0 = true → ∃ t, exec (.discStart v) s = .next t ∧
      (t.fab.disc, t.fab.discDone) = (if s.discSettled then (false, true) else (true, false)) ∧ t = { s with fab := t.fab }) ∧
    (s.fab.disc = true → ∃ t, exec .discTimeout s = .next t ∧ t.fab.disc = false ∧ t.fab.discDone = true ∧
      (∀ p < 36, (t.port p).verdict =
        (if bitOf (s.planNbr p) 31 = true ∧ s.field (.prt p) 0x100 1 0 ≠ 0 ∧ (s.port p).verdict = 0 ∧
          ((s.port p).st = .down ∨ (s.port p).st = .training ∨ (s.port p).st = .fenced) then 2 else (s.port p).verdict) ∧ (t.port p).st = (s.port p).st) ∧
      (∀ p < 36, p ∈ t.fab.unreach ↔ s.portAs p = p ∧ s.flag (.prt2 p) 0x100 31 = true ∧
        (s.flag (.prt2 p) 0x100 8 = true ∨ s.field (.prt2 p) 0x100 10 9 = 1) ∧ (t.port (s.actor p)).verdict ≠ 1) ∧
      t = { s with fab := t.fab, ports := t.ports, io := t.io, refcnt := t.refcnt })) ∧
  (∀ (s : State) (port : Fin 36) (k : Port) (count : W64) (rest : List W64) (v : W32), k = s.port port.val →
    let p := port.val
    let planned := bitOf (s.planNbr p) 31
    let rtt := (s.refcnt - count).toNat
    (k.st = .up → ∃ t, exec (.probeSend port) s = .next t ∧
      (k.ctlq = [] → k.replay.length < 256 →
        ∃ l, t.out = l ++ .flit p (k.sendFlit 3 2 0 [valueSlot t.refcnt]).2 :: s.out) ∧
      (t.port p).probes = k.probes ++ [t.refcnt] ∧ t.elapsed k.probeAt (max 1 (s.field (.prt p) 0x110 31 20) * 100) = true ∧
      t = { s with ports := t.ports, io := t.io, out := t.out, refcnt := t.refcnt }) ∧
    (k.st = .up → k.ctlq = [] → k.replay.length < 256 → ∃ t l, exec (.probeReceive port count) s = .next t ∧
      t.out = l ++ .flit p (k.sendFlit 4 2 0 [valueSlot count]).2 :: s.out ∧ (t.port p).probes = k.probes ∧
      t = { s with ports := t.ports, io := t.io, out := t.out }) ∧
    ((count ∈ k.probes → rtt ≤ s.field (.prt p) 0x110 19 8 * 100 → ∃ t, exec (.probeReplyReceive port count) s = .next t ∧
        t.reg (.prt p) 0x12C = w32 rtt ∧ (t.port p).misses = 0 ∧ count ∉ (t.port p).probes ∧
        t = { s with ports := t.ports, io := t.io }) ∧
      (count ∉ k.probes ∨ s.field (.prt p) 0x110 19 8 * 100 < rtt → exec (.probeReplyReceive port count) s = .next s)) ∧
    (k.st = .up → k.probes = count :: rest → ∃ t, exec (.probeMiss port) s = .next t ∧
      t.reg (.prt p) 0x13C = satAdd32 (s.reg (.prt p) 0x13C) 1 ∧
      (k.misses + 1 < max 1 (s.field (.prt p) 0x110 3 0) → (t.port p).st = .up ∧ (t.port p).misses = k.misses + 1) ∧
      (max 1 (s.field (.prt p) 0x110 3 0) ≤ k.misses + 1 → (planned = true → (t.port p).st = .fenced ∧ (t.port p).cause = 1 ∧
        (t.port p).verdict = 2) ∧ (planned = false → (t.port p).st = .down))) ∧
    (k.st = .up → ∃ t, exec (.lossOfLight port) s = .next t ∧ t.flag (.prt p) 0x010 0 = true ∧
      (planned = true → (t.port p).st = .fenced ∧ (t.port p).cause = 1 ∧ (t.port p).verdict = 2) ∧
      (planned = false → (t.port p).st = .down)) ∧
    (k.st = .up → (∃ e ∈ k.txq, k.credit e.cls e.vc = 0) → ∃ t, exec (.starveEpisode port) s = .next t ∧
      t.reg (.prt p) 0x138 = satAdd32 (s.reg (.prt p) 0x138) 1 ∧
      (t.port p).st = (if s.field (.prt p) 0x11C 15 8 < k.starveW + 1 then .fenced else .up)) ∧
    (∃ t, exec (.fenceWindowExpire port) s = .next t ∧
      t.port p = { k with retryW := 0, malfW := 0, starveW := 0, fwW := 0, rateW := 0, winAt := t.refcnt } ∧
      t = { s with ports := t.ports, io := t.io, refcnt := t.refcnt }) ∧
    (∃ t, exec (.rateIntervalExpire port) s = .next t ∧ t.port p = { k with hdrs := 0, past := false, rateAt := t.refcnt } ∧
      t = { s with ports := t.ports, io := t.io, refcnt := t.refcnt }) ∧
    (∀ idx : BitVec 8, k.st = .up → portRole (s.portAs p) = 0 → s.mateOf (portIndex (s.portAs p)) = idx.toNat / 16 →
      ∃ t, exec (.linkMapUpdate port idx v) s = .next t ∧ fld (Table.get (fun _ => 0) t.fab.lmap idx.toNat) 31 11 = fld v 31 11 ∧
        t = { s with fab := t.fab }) ∧
    (s.ready = true → k.st ≠ .disabled → k.st ≠ .fenced → ∃ t, exec (.portCtlFence port v) s = .next t ∧
      (t.port p).st = .fenced ∧ (t.port p).cause = 8 ∧ t.flag (.prt p) 0x010 5 = true ∧
      .flit p (k.mkFlit 7 2 0 (k.txSeq + 1) [{ words := [8#32], hdr := false }]) ∈ t.out) ∧
    (s.ready = true → k.st = .fenced → s.posBad = false → bitOf v 3 = false → ∃ t, exec (.portCtlUnfence port v) s = .next t ∧
      (t.port p).st = .training ∧ (t.port p).cause = 0 ∧ t = { s with ports := t.ports }) ∧
    (s.ready = true → k.st = .up → bitOf v 3 = false → ∃ t, exec (.portCtlRetrain port v) s = .next t ∧
      (t.port p).st = .training ∧ t.flag (.prt p) 0x010 0 = true) ∧
    (s.ready = true → s.pageSealed (.prt p) = false → bitOf v 15 = false → ∃ t, exec (.portCfgWrite port v) s = .next t ∧
      t.field (.prt p) 0x100 1 0 = fld v 1 0 ∧ t.flag (.prt p) 0x100 2 = bitOf v 2 ∧ t.flag (.prt p) 0x100 15 = false ∧
      (fld v 1 0 = 0 → k.st ≠ .fenced → (t.port p).st = .disabled) ∧
      (fld v 1 0 ≠ 0 → k.st = .disabled → (t.port p).st = .down)) ∧
    (s.posBad = true → k.st = .fenced → k.probes = [] → ∀ t,
      ∀ i ∈ [Instr.portTrainAttempt port true true [], .helloReceive port ⟨v, 2, []⟩, .admitReceive port [] [], .admitTimeout port,
        .flitReceive port ⟨count, [], 0⟩, .nakReceive port 0, .probeSend port, .probeReceive port count,
        .probeReplyReceive port count, .probeMiss port, .lossOfLight port, .starveEpisode port, .fenceWindowExpire port,
        .rateIntervalExpire port, .portCtlAdmit port v, .portCtlFence port v, .portCtlUnfence port v, .portCtlRetrain port v,
        .portCfgWrite port v], exec i s = .next t → (t.port p).st = .fenced))

/-- Flits are taken once and in order (R289, R291, R292): one whose CRC fails or whose number is not the next leaves every
receive queue as it was, and the first of a run is answered by a NAK naming the last good flit; a good flit with the next number is
acknowledged and its slots enter their queue (CTL slots without a header are link entries, log entry 114, DESIGN CHOICE);
a malformed one is acknowledged and counted, and its slots are lost. A NAK has what
is not acknowledged sent again. -/
def Obligations.FlitsArriveOnceAndInOrder : Prop :=
  ∀ (s : State) (port : Fin 36) (k : Port) (f : Flit) (ack : BitVec 16), k = s.port port.val → k.st = .up →
    let p := port.val
    let good := crc64 (flBytes f) = f.crc.toNat
    let a := k.acked ack.toNat
    (¬good ∨ (flType f ≠ 0 ∧ flSeq f ≠ (k.rxSeq + 1) % 65536) → ∃ t, exec (.flitReceive port f) s = .next t ∧
      (t.port p).rxq = k.rxq ∧ (t.port p).rxSeq = k.rxSeq ∧ (t.port p).outs = k.outs ∧
      (¬good → t.reg (.prt p) 0x14C = satAdd32 (s.reg (.prt p) 0x14C) 1 ∧ (t.port p).nakSent = true ∧
        (k.nakSent = false → k.ctlq = [] → k.replay.length < 256 →
          ∃ l, t.out = l ++ .flit p (k.sendFlit 2 2 0 []).2 :: s.out)) ∧ t = { s with ports := t.ports, io := t.io, out := t.out }) ∧
    (good → flType f = 1 → flClass f ≠ 2 → flSeq f = (k.rxSeq + 1) % 65536 → k.flBad f = false → ∃ t, exec (.flitReceive port f) s = .next t ∧
      (t.port p).rx (flClass f) (flVc f) = k.rx (flClass f) (flVc f) ++ flSlots f ∧ (t.port p).rxSeq = flSeq f ∧
      (t.port p).nakSent = false ∧ (∀ c v, vcKey c v ≠ vcKey (flClass f) (flVc f) → (t.port p).rx c v = k.rx c v) ∧
      t = { s with ports := t.ports, io := t.io, out := t.out }) ∧
    (good → flType f = 1 → flClass f = 2 → flSeq f = (k.rxSeq + 1) % 65536 → k.flBad f = false → ∃ t,
      exec (.flitReceive port f) s = .next t ∧ (t.port p).rx 2 (flVc f) = k.rx 2 (flVc f) ++ (flSlots f).filter Slot.hdr ∧
      (t.port p).rxSeq = flSeq f ∧ t = { s with ports := t.ports, fab := t.fab, io := t.io, out := t.out }) ∧
    (good → flType f ≠ 0 → flSeq f = (k.rxSeq + 1) % 65536 → k.flBad f = true → k.malfW + 1 ≤ s.field (.prt p) 0x11C 23 16 →
      ∃ t, exec (.flitReceive port f) s = .next t ∧ (t.port p).rxq = k.rxq ∧ (t.port p).rxSeq = flSeq f ∧
        (t.port p).malfW = k.malfW + 1) ∧
    (a.replay ≠ [] → (∀ r ∈ a.replay, r.resent < 16) → k.retryW + 1 ≤ s.field (.prt p) 0x11C 31 24 →
        ∃ t, exec (.nakReceive port ack) s = .next t ∧ t.out = (a.replay.map fun r => Out.flit p r.flit).reverse ++ s.out ∧
          (t.port p).replay = a.replay.map (fun r => { r with resent := r.resent + 1 }) ∧ (t.port p).retryW = k.retryW + 1 ∧
          (t.port p).txSeq = k.txSeq) ∧
    ((∃ r ∈ a.replay, 16 ≤ r.resent) → ∃ t, exec (.nakReceive port ack) s = .next t ∧ (t.port p).st = .training)

/-- Transactions of this device (R295 to R297, R300): one that is issued takes a live port, under a number that no outstanding
transaction of that port bears, and waits where every candidate has 2,048; one whose way to its port is down ends in a translation
fault; one without a route ends as status 0x4; a timeout or a response ends it and answers its
requester; a response for another device goes on. -/
def Obligations.TransactionsEndOnce : Prop :=
  ∀ (s : State) (port : Fin 36) (vc : Fin 8) (i : BitVec 16) (r : FReq) (tag : BitVec 11) (o : OutTxn) (x : Slot)
      (rest : List Slot),
    let p := port.val
    (s.fwait[i.toNat]? = some r → r.kind ≠ 5 → ¬(r.group = s.myGroup ∧ r.dev = s.myDev ∧ r.port = 0x3F) →
      let u := { s with fwait := s.fwait.eraseIdx i.toNat }
      let c := u.routes 0 0 false r.group r.dev r.port
      (∀ q, s.shortest (c.1.filter fun x => !(s.port x).full) = some q → s.routeDown r.who.die (portDie q) = false →
        ∃ t n, exec (.transactionIssue i) s = .next t ∧
          (t.port q).outs = (s.port q).outs ++ [{ tag := n, req := r, since := s.refcnt }] ∧ n < 2048 ∧
          (∀ z ∈ (s.port q).outs, z.tag ≠ n) ∧ (s.port q).st = .up ∧ t.fwait = s.fwait.eraseIdx i.toNat ∧ t.mem = s.mem) ∧
      (∀ q, s.shortest (c.1.filter fun x => !(s.port x).full) = some q → s.routeDown r.who.die (portDie q) = true →
        exec (.transactionIssue i) s = .next (u.answerWhy r none 0x09 [])) ∧
      (c.1 ≠ [] → (∀ q ∈ c.1, (s.port q).full = true) → ∃ t, exec (.transactionIssue i) s = .next t ∧
        t.fwait = s.fwait.eraseIdx i.toNat ++ [r] ∧ t = { s with fwait := t.fwait, io := t.io }) ∧
      (c.1 = [] → exec (.transactionIssue i) s = .next ((u.event (.prt 0) 0x09 1).answer r (some 4) []))) ∧
    ((s.port p).outs.find? (fun z => z.tag == tag.toNat) = some o → ∃ u : State, exec (.transactionTimeout port tag) s =
        .next (u.answer o.req none []) ∧ (u.port p).outs = (s.port p).outs.erase o ∧ u.flag (.prt p) 0x010 1 = true ∧
      u.elapsed o.since (s.field (.prt p) 0x114 15 0 * 100) = true ∧ u.mem = s.mem) ∧
    ((s.port p).rx 1 vc.val = x :: rest → x.hdr = true → thSrcGroup x.words = s.myGroup → thSrcDev x.words = s.myDev →
      (s.port p).outs = [o] → o.tag = thTag x.words → o.req.addr = thAddr x.words → o.req.len = thLen x.words →
      o.req.group = thDstGroup x.words → o.req.dev = thDstDev x.words → ∃ u : State, exec (.responseReceive port vc) s = .next (u.answer o.req
        (some (thRop x.words)) (rspBytes o (thRop x.words) (dataAfter (x :: rest)))) ∧ (u.port p).outs = [] ∧ u.mem = s.mem) ∧
    ((s.port p).rx 1 vc.val = x :: rest → x.hdr = true → thSrcGroup x.words ≠ s.myGroup → ∃ t,
      exec (.responseReceive port vc) s = .next t ∧ (∀ q, (t.port q).outs = (s.port q).outs) ∧ t.mem = s.mem)

/-- What arrives from the fabric (R182, R298, R304, R305): a request that no window of the port's firewall admits, or whose
header exceeds the rate, or that is for another device, leaves memory, tallies, cores and Ridges as they are; an admitted write that the Page
Map permits writes its bytes and an admitted read leaves them; a FLOOD whose identifier is known is dropped, another is remembered
and acted on. -/
def Obligations.NothingPassesTheFirewall : Prop :=
  ∀ (s : State) (port : Fin 36) (vc : Fin 8) (x : Slot) (rest : List Slot) (m : MemUse),
    let p := port.val
    let h := x.words
    let mine := thDstGroup h = s.myGroup ∧ thDstDev h = s.myDev ∧ thDstPort h = 0x3F
    ((s.port p).rx 0 vc.val = x :: rest → x.hdr = true →
      (s.firewall p h = false ∨ (s.countHeader p).2 = true ∨ reqMalformed h = true ∨ ¬mine) →
      ∃ t, exec (.incomingRequest port vc m) s = .next t ∧ t.mem = s.mem ∧ t.tallies = s.tallies ∧ t.cores = s.cores ∧
        t.ridges = s.ridges ∧ t.cfls = s.cfls ∧ t.free = s.free) ∧
    ((s.port p).rx 0 vc.val = x :: rest → x.hdr = true → s.firewall p h = true → (s.countHeader p).2 = false →
      reqMalformed h = false → mine → reqData h ≤ rest.length → ∀ st a, s.mayServe p (kindAcc (thKind h)) (thAddr h) = .ok (st, a) →
      (thKind h = 1 → ∃ t, exec (.incomingRequest port vc {}) s = .next t ∧
        t.mem = (s.putBoard (thAddr h) (memKey st a) (slotBytes (thAddr h) (thLen h) (rest.take (reqData h)))).mem) ∧
      (thKind h = 0 → (∀ i < thLen h, s.unwritten 0 ((thAddr h + i) % 2 ^ 43) = false) →
        ∃ u : State, exec (.incomingRequest port vc {}) s =
        .next (u.respond p h 0 (s.keyBytes (memKey st a) (thLen h))) ∧ u.mem = s.mem)) ∧
    ((s.port p).rx 2 0 = x :: rest → x.hdr = true → thKind h = 5 →
      let b := thBody h
      let id := join64 (wordAt b 1) (wordAt b 0)
      ((s.port p).st = .up → id ∈ s.fab.floods → ∃ t, exec (.floodReceive port) s = .next t ∧ t.fab = s.fab ∧ t.mem = s.mem) ∧
      ((s.countHeader p).2 = false → id ∉ s.fab.floods → fld (thArg h) 31 24 = 1 → ∃ u : State, exec (.floodReceive port) s =
        .next (u.abortFloodGot (thSrcGroup h * 16 + thSrcDev h) (join64 (wordAt b 3) (wordAt b 2)) (wordAt b 4)) ∧
        u.fab.floods = (id :: s.fab.floods).take 64 ∧ u.mem = s.mem))

/-! ### Collectives (chapter 12) -/

/-- The collective program takes the oldest descriptor (R319 to R322, R331, R332, R343): one that passes the checks has its
participant table read, at once where it lies in this device's memory and else by a RD transaction; when the table is known and in
order it becomes the running collective, its segments are reported and its transfers wait; one that is refused writes nothing,
increments no tally and leaves the engine as it was.

How a collective goes on and ends (R331, R333, R335): a RING round begins once its buffer is released; a collective with
nothing left to do increments its tally; one that reaches its limit ends, recorded as a timeout. -/
def Obligations.CollectivesBeginAndEnd : Prop :=
  (∀ (s : State) (e : Fin 8) (d : Desc) (rest : List Desc) (w : List W32), (s.core (69 + e.val)).inq = d :: rest → w = d.words →
    s.cflNative e.val = true → (s.cfl e.val).cur = none → s.tread e.val = none → cdConv w = false →
    let u := s.setCore (69 + e.val) { s.core (69 + e.val) with inq := rest }
    ∀ x ∈ [(Instr.allreduce e, 1), (.reduceScatter e, 2), (.allgather e, 3), (.broadcast e, 4), (.alltoall e, 5), (.permute e, 6),
      (.ring e, 7), (.send e, 8), (.recv e, 9), (.reduce e, 10), (.barrier e, 11)], cdKind w = x.2 →
      (x.2 ≠ 6 → s.cdVerdict e.val d.ctx w = .ok → tablePieces w = [(cdPart w, 16 * cdN w, 0)] →
        (∀ key ps, s.site (cflDie e.val) (cflDie e.val - 4) d.ctx .rd (cdPart w) = .ok (.here key) →
          s.rangePoison key (16 * cdN w) = false →
          s.partsOf e.val w (leWords (s.hbmRead key (16 * cdN w)) (4 * cdN w)) = .ok ps → s.unitReason e.val d ps = 0 →
          ∃ t c form, exec x.1 s = .next t ∧ (t.cfl e.val).cur = some c ∧ c.desc = d ∧ c.parts = ps ∧ c.since = s.refcnt ∧
            (t.cfl e.val).xq = (s.cfl e.val).xq ++ c.transfers form [] [] ∧
            t.reg (.cfl e.val) 0x118 = w32 ((ps.map Part.segLen).foldl max 0) ∧
            t.reg (.cfl e.val) 0x11C = w32 ((ps.map Part.segLen).foldl min ((ps.map Part.segLen).headD 0)) ∧
            t.field (.cfl e.val) 0x10C 27 24 = x.2 ∧ t.field (.cfl e.val) 0x10C 19 8 = cdId w ∧
            t = { u with cfls := t.cfls, treads := t.treads, io := t.io }) ∧
        (∀ g dv pt a, s.site (cflDie e.val) (cflDie e.val - 4) d.ctx .rd (cdPart w) = .ok (.there g dv pt a) →
          ∃ t r, exec x.1 s = .next t ∧ t.fwait = s.fwait ++ [r] ∧ r.kind = 0 ∧ r.group = g ∧ r.dev = dv ∧ r.port = pt ∧
            r.addr = a ∧ r.len = 16 * cdN w ∧ r.ctx = d.ctx ∧ (t.cfl e.val).cur = none ∧ (t.tread e.val).isSome = true ∧
            t = { u with cfls := t.cfls, treads := t.treads, fwait := t.fwait, io := t.io })) ∧
      (∀ n, s.cdVerdict e.val d.ctx w = .refuse n false → ∃ t, exec x.1 s = .next t ∧ t.cfls = s.cfls ∧ t.treads = s.treads ∧
        t.tallies = s.tallies ∧ t.mem = s.mem ∧ t.flag (.cfl e.val) 0x010 0 = true ∧ d.ctx ∈ t.faulted ∧
        (s.flag (.cfl e.val) 0x124 31 = false → t.field (.cfl e.val) 0x124 7 0 = n ∧ t.field (.cfl e.val) 0x124 19 8 = cdId w))) ∧
  (∀ (s : State) (e : Fin 8) (k : Cfl) (c : Coll), k = s.cfl e.val → k.cur = some c → c.stock = true →
    let w := c.desc.words
    let n := c.parts.length
    let pred := (c.me + n - 1) % n
    (cdKind w = 7 → c.round + 1 ≤ cdRoot w → k.fly = [] → (∀ x ∈ k.xq, x.kind ≠ 1) →
      (2 ≤ c.round → tallyReached (s.tally (cdRtally w)) (w32 (c.round - 1)) = false → exec (.ringRound e) s = .next s) ∧
      ((c.round < 2 ∨ tallyReached (s.tally (cdRtally w)) (w32 (c.round - 1)) = true) →
        c.gateOpen pred (.ready c.round 1) = true → ∃ t y, exec (.ringRound e) s = .next t ∧
          (t.cfl e.val).xq = k.xq ++ [y] ∧ y.kind = 1 ∧ y.peer = pred ∧
          y.loc = (cdDst w + (c.round + 1) % 2 * cdLen w) % 2 ^ 43 ∧ t = { s with cfls := t.cfls })) ∧
    (k.collDone c = true → c.ws = none → k.wsq = [] → cdKind w ≠ 7 → ∃ t, exec (.collectiveComplete e) s = .next t ∧
      (t.cfl e.val).cur = none ∧ t.tallies = (s.opTally (cdTally w) c.desc.ctx).tallies ∧ t.mem = s.mem) ∧
    (c.ws = none → k.wsq = [] → ∃ t, exec (.collectiveTimeout e) s = .next t ∧
      (t.cfl e.val).cur = none ∧ t.flag (.cfl e.val) 0x010 1 = true ∧ t.elapsed c.since (s.collLimit e.val c) = true ∧
      (∀ m ∈ (t.cfl e.val).msgs, m.coll ≠ cdId w) ∧ c.desc.ctx ∈ t.faulted ∧
      (s.flag (.cfl e.val) 0x124 31 = false → t.field (.cfl e.val) 0x124 7 0 = 8)))

/-- Messages and pulls (R324, R329): a READY or DONE of the running collective is consumed, NOTIFY sends one; a pull asks for its
bytes, from this device's memory at once and from a peer by a RD; what arrives is written, or waits in its combine slot (bytes that
a DMA channel may write as well are free, R279; so is what an engine moves whose block failed, R42).

FINISH (R326, R328, R329): the contributions of the slot are combined in participant order, as a chain or a tree, and the
result is written.

What a combine slot computes does not depend on the order in which its pieces arrived, and for integers it is the same as a
chain and as a tree (R326, R327). -/
def Obligations.ArrivalOrderChangesNothing : Prop :=
  (∀ (s : State) (e : Fin 8) (c : Coll) (x : Xfer) (m : Msg) (a : Arrival) (f : Flight) (rest : List Arrival) (k : Cfl) (u : State),
    k = s.cfl e.val → u = s.judgeXfers e.val → k.cur = some c →
    let die := cflDie e.val
    (∀ y ∈ [(Instr.msgReadyReceive e, false), (.msgDoneReceive e, true)],
      k.msgs.find? (fun m => m.coll == cdId c.desc.words && m.done == y.2) = some m → ∃ t, exec y.1 s = .next t ∧
        (t.cfl e.val).msgs = k.msgs.erase m ∧ (t.cfl e.val).cur = some { c with got := c.got ++ [m] } ∧
        t = { s with cfls := t.cfls }) ∧
    ((u.cfl e.val).nextXfer 3 = some x → x.note = some m → x.stock = true →
      u.isHere (c.part x.peer) = false → ∃ t, exec (.notify e) s = .next t ∧ (t.cfl e.val).xq = (u.cfl e.val).xq.erase x ∧
        (∃ r, t.fwait = u.fwait ++ [r] ∧ r.kind = 4 ∧ r.group = (c.part x.peer).group ∧ r.dev = (c.part x.peer).dev ∧
          r.addr = (c.part x.peer).rxPage * 2 ^ 24 ∧
          r.arg = w32 (m.coll * 2 ^ 20 + c.me * 2 ^ 7 + (if m.done then 2 else 1) * 8 + (c.part x.peer).engine) ∧
          r.body = [w32 m.first, w32 m.count, w32 m.off, w32 m.len, w32 m.expert]) ∧ t.mem = u.mem) ∧
    (∀ y ∈ [(Instr.pull e {}, 1), (.pullCombine e {}, 2)], ∀ b n,
      cdKind c.desc.words ≠ 5 → (u.cfl e.val).nextXfer y.2 = some x → pieces x.remote x.len = [(b, n, 0)] →
      (∀ g ∈ (u.cfl e.val).fly, g.id ≠ (u.cfl e.val).nextId) → u.cflAstray e.val = false →
      (∀ key, u.isHere (c.part x.peer) = true → u.localPieces die (die - 4) c.desc.ctx .rd b n = .ok [(key, n, 0)] →
        (∀ i < n, u.unwritten 0 ((b + i) % 2 ^ 43) = false) → ∃ t, exec y.1 s = .next t ∧ t.mem = u.mem ∧ (t.cfl e.val).arr = (u.cfl e.val).arr ++
          [{ flight := (u.cfl e.val).nextId, off := 0
             data := (List.range n).map fun i => (u.hbmByte (key + i), u.granPoison ((key + i) / 64)) }]) ∧
      (u.isHere (c.part x.peer) = false → ∃ t, exec y.1 s = .next t ∧ t.mem = u.mem ∧ t.fwait = u.fwait ++
        [{ who := .cfl e.val (pieceKey (u.cfl e.val).nextId 0), ctx := c.desc.ctx, kind := 0, group := (c.part x.peer).group, dev := (c.part x.peer).dev, addr := b, len := n }])) ∧
    (k.arr = a :: rest → k.fly = [f] → f.id = a.flight →
      (f.x.kind = 2 → ∃ t, exec (.pullChunkArrive e {}) s = .next t ∧ (t.cfl e.val).arr = rest ∧ t.mem = s.mem ∧
        Table.get (fun _ => []) (t.cfl e.val).slots f.x.key =
          Table.get (fun _ => []) k.slots f.x.key ++ [{ peer := f.x.peer, off := a.off, data := a.data }]) ∧
      (∀ key b, b = (f.x.loc + a.off) % 2 ^ 43 → f.x.kind = 1 → s.cflAstray e.val = false → (s.clashed c b a.data).1 = false →
        s.localPieces die (die - 4) c.desc.ctx .wr b a.data.length = .ok [(key, a.data.length, 0)] →
        ∃ t, exec (.pullChunkArrive e {}) s = .next t ∧ (t.cfl e.val).arr = rest ∧ t.mem = (s.putBoard b key a.data).mem)) ∧
    (∀ l b n key, (u.cfl e.val).nextXfer 5 = some x → u.cflAstray e.val = false →
      u.localPieces die (die - 4) c.desc.ctx .rd x.loc x.len = .ok l → pieces x.remote x.len = [(b, n, 0)] →
      (∀ g ∈ (u.cfl e.val).fly, g.id ≠ (u.cfl e.val).nextId) →
      u.site die (die - 4) c.desc.ctx .wr b = .ok (.here key) →
      (∀ i < x.len, u.unwritten 0 ((x.loc + i) % 2 ^ 43) = false) → ∃ t, exec (.put e {}) s = .next t ∧
        t.mem = (u.putBoard b key ((l.flatMap fun p => (List.range p.2.1).map fun i =>
          (u.hbmByte (p.1 + i), u.granPoison ((p.1 + i) / 64))).take n)).mem)) ∧
  (∀ (s : State) (e : Fin 8) (c : Coll) (x : Xfer) (bs : List OutByte) (key : Nat) (u : State), u = s.judgeXfers e.val →
    (u.cfl e.val).nextXfer 4 = some x → (u.cfl e.val).cur = some c → cdDtype x.desc.words ∈ [2, 3] → u.cflAstray e.val = false →
    rankFold (cdTree c.desc.words) (combineElems (ropApply fmax32 fmin32 (cdRop x.desc.words) (8 * cdElemBytes x.desc.words))
      (cdElemBytes x.desc.words)) (contributions (Table.get (fun _ => []) (u.cfl e.val).slots x.key) c.parts.length) = some bs →
    u.localPieces (cflDie e.val) (cflDie e.val - 4) c.desc.ctx .wr (x.loc % 2 ^ 43) bs.length = .ok [(key, bs.length, 0)] →
    ∃ t, exec (.finish e {}) s = .next t ∧ t.mem = (u.putBoard (x.loc % 2 ^ 43) key bs).mem ∧
      Table.get (fun _ => []) (t.cfl e.val).slots x.key = []) ∧
  ((∀ (hs hs' : List Held) (n : Nat), hs.Perm hs' → (∀ a ∈ hs, ∀ b ∈ hs, a.peer = b.peer → a.off = b.off → a = b) →
    contributions hs n = contributions hs' n) ∧
  (∀ (rop n k : Nat) (cs : List (List OutByte)), rop < 8 → n = 4 ∨ n = 8 → (∀ l ∈ cs, l.length = n * k) →
    let f := combineElems (ropApply fmax32 fmin32 rop (8 * n)) n
    rankFold true f cs = rankFold false f cs))

/-! ### The transactional step (chapter 13) -/

/-- Steps open, compute and are checked (R354, R359, R361 to R365): a new OPEN takes the number in `NEXT_STEP`, or waits, or is
refused while a slot is ABORTED-CLEAN; a replay OPEN keeps the number; when every write of the OPEN is confirmed the slot is in
COMPUTE; with the last SLOT_DONE it is in REDUCE; CHECK records the failure bits of R365. -/
def Obligations.StepsOpenAndRun : Prop :=
  ∀ (s : State) (d : Desc) (rest : List Desc) (o : Nat), o < 2 →
    let j := sdSlot d.words
    let k := s.slot j
    let toks := (List.range 8).map fun i => s.reg .cwn (0x500 + 16 * i)
    let acts := s.stepm.q = d :: rest ∧ s.sdReason d = 0
    (s.stepm.q = d :: rest → s.sdReason d ≠ 0 → ∀ i ∈ [Instr.stepOpen, .stepReplayOpen, .slotDone, .stepVote, .stepSeal, .stepLayer,
        .commitEnd, .stepEndSkip, .stepEndDrop, .stepResolve, .stepAbortAction], ∃ t, exec i s = .next t ∧ t.stepm.q = rest ∧
      t.slot 0 = s.slot 0 ∧ t.slot 1 = s.slot 1 ∧ t.flag .step 0x010 0 = true ∧ t.tallies = s.tallies ∧ t.mem = s.mem ∧
      (s.flag .step 0x14C 31 = false → t.field .step 0x14C 15 8 = s.sdReason d ∧ t.field .step 0x14C 7 4 = sdAction d.words)) ∧
    (acts → sdAction d.words = 1 → sdFlag d.words = false →
      (s.stepm.s0.st = .free → s.stepm.s1.st = .free → s.fab.partnerLost = false → s.winFrames ≠ 0 →
        (mbOffsets toks s.tokBytes).2 ≤ s.journalSize → ∃ t, exec .stepOpen s = .next t ∧
          (t.slot s.nextSlot).st = .opening ∧ (t.slot s.nextSlot).step = s.reg .step 0x108 ∧
          (t.slot s.nextSlot).seed = s.reg64 .scl 0x104 ∧ (t.slot s.nextSlot).toks = toks ∧
          (t.slot s.nextSlot).ctx = d.ctx ∧ t.slot (1 - s.nextSlot) = s.slot (1 - s.nextSlot) ∧
          t.reg .step 0x108 = s.reg .step 0x108 + 1 ∧ t.stepm.q = rest ∧ t.tallies = s.tallies) ∧
      (s.stepm.s0.st = .compute → s.stepm.s1.st ≠ .aborted → exec .stepOpen s = .next s.stepWait) ∧
      (s.stepm.s0.st = .aborted → exec .stepOpen s = .next (s.stepRefuse d 3))) ∧
    (acts → sdAction d.words = 1 → sdFlag d.words = true → k.st = .aborted → ∃ t, exec .stepReplayOpen s = .next t ∧
      (t.slot j).st = .opening ∧ (t.slot j).replay = true ∧ (t.slot j).step = k.step ∧ (t.slot j).seed = k.seed ∧
      (t.slot j).toks = k.toks ∧ (t.slot j).replays = min 255 (k.replays + 1) ∧ t.slot (1 - j) = s.slot (1 - j) ∧
      t.reg .step 0x108 = s.reg .step 0x108) ∧
    (s.openSlot = some o →
      ((s.slot o).copyFail = true → ∃ t, exec .journalCopyDone s = .next t ∧ (t.slot o).st = .aborted ∧
        t.field .step 0x12C 23 16 = 9 ∧ t.flag .hdw 0x010 0 = true) ∧
      ((s.slot o).copyFail = false → s.asking o (fun _ => true) = false → ∃ t, exec .journalCopyDone s = .next t ∧
        (t.slot o).st = .compute ∧ t.mem = s.mem ∧
        ∀ a, (s.slot o).act = some a → t.tallies = (s.stepTally a).tallies)) ∧
    (acts → sdAction d.words = 2 → k.st = .compute → mbValid k.toks (wfld d.words 2 2 0) = true →
      ∃ t, exec .slotDone s = .next t ∧ (t.slot j).mbDone = NatSet.add (wfld d.words 2 2 0) k.mbDone ∧
        (t.slot j).st = (if ((List.range 8).filter (mbValid k.toks)).all (t.slot j).mbDone.has then .reduce else .compute) ∧
        t.tallies = (s.stepTally d).tallies) ∧
    (acts → sdAction d.words = 3 → k.st = .reduce → (s.slot (1 - j)).st ≠ .check →
      ∃ u : State, (u.slot j).act = some d ∧ u.mem = s.mem ∧ (u.slot j).st = .check ∧
        (s.field .chkG (0x108 + 4 * j) 31 16 ≠ 0 → exec .stepCheck s = .next u) ∧
        (s.field .chkG (0x108 + 4 * j) 31 16 = 0 → ((u.normEval j).slot j).st = .check → ∃ t, exec .stepCheck s = .next t ∧
          (t.slot j).verdict = some ((u.normEval j).verdictOf j d) ∧ (t.slot j).act = none ∧ (t.slot j).st = .check)) ∧
    (let v := s.verdictOf j d
      let fl := fun b => ∃ n < 64, s.flag (.acc n) 0x10C (8 * j + b) = true
      let sat := ((List.range 64).map fun n => (s.reg (.acc n) (0x110 + 4 * j)).toNat).sum
      (v.testBit 0 ↔ wfld d.words 2 30 23 = 0xFF) ∧ (v.testBit 1 ↔ wfld d.words 3 0 0 = 1) ∧
      (v.testBit 2 ↔ fl 1 ∨ fl 2 ∨ k.nonfin = true) ∧
      (v.testBit 3 ↔ s.field .step 0x120 23 0 ≠ 0xFFFFFF ∧ s.field .step 0x120 23 0 < sat) ∧
      (v.testBit 4 ↔ s.reg .nrm (0x100 + 4 * j) ≠ 0#32) ∧ (v.testBit 5 ↔ s.field .chkG (0x108 + 4 * j) 15 0 ≠ 0) ∧
      (v.testBit 6 ↔ fl 3) ∧ (v.testBit 7 ↔ s.faulted.has k.ctx = true) ∧ v < 256)

/-- The Watershed (R322, R367 to R370, R410): VOTE has the participant table read, waits for it, and begins the first round; its records decide in index order whether the step aborts or
the round has passed; SEAL, once its copies are confirmed, ORs `COMPLETE` into the seal word; a refused seal aborts; with every
`SEALED` record the step has reached its commit point, and where one lacks, every such index is asked and the answers decide. -/
def Obligations.WatershedDecides : Prop :=
  ∀ (s : State) (d : Desc) (rest : List Desc) (v : Vote) (o : Nat) (value : W32), o < 2 →
    let j := sdSlot d.words
    let k := s.slot j
    let acts := s.stepm.q = d :: rest ∧ s.sdReason d = 0
    let aborts := fun (t : State) (n cause : Nat) => (t.slot n).st = .aborted ∧ t.field .step 0x12C 23 16 = cause ∧
      t.flag .step 0x010 1 = true
    (acts → sdAction d.words = 4 → k.st = .check → k.verdict.isSome = true →
      (voteFieldsOk d.words = false → exec .stepVote s = .next (s.stepRefuse d 6)) ∧
      (voteFieldsOk d.words = true →
        (∀ g dv pt a, s.tread 8 = none → tablePieces (voteTable d.words) = [(wquad d.words 3 43, 16 * wfld d.words 5 12 0, 0)] →
          s.site (cflDie (wfld d.words 2 2 0)) (cflDie (wfld d.words 2 2 0) - 4) d.ctx .rd (wquad d.words 3 43) =
            .ok (.there g dv pt a) →
          ∃ t q, exec .stepVote s = .next t ∧ t.fwait = s.fwait ++ [q] ∧ q.kind = 0 ∧ q.group = g ∧ q.dev = dv ∧ q.addr = a ∧
            q.len = 16 * wfld d.words 5 12 0 ∧ (t.tread 8).isSome = true ∧ (t.slot j).st = .check ∧ t.stepm.q = s.stepm.q) ∧
        ∀ tr, s.tread 8 = some tr →
          (tr.wait ≠ [] → exec .stepVote s = .next s.stepWait) ∧
          (tr.wait = [] → s.voteOf d tr = some v → ∃ t, exec .stepVote s = .next t ∧ (t.slot j).st = .vote ∧
            (t.slot j).vote = some v ∧ (t.slot j).round = 1 ∧ (t.slot j).act = some d) ∧
          (tr.wait = [] → s.voteOf d tr = none → exec .stepVote s = .next (s.stepRefuse d 6)))) ∧
    (s.voteSlot = some (o, v) →
      (∀ recs, (s.slot o).gathered = some true → s.roundRecs (s.slot o) v = some recs →
        let bad := fun i => (s.recOurs (s.slot o) (recs.getD i []) && wfld (recs.getD i []) 4 14 0 == (v.parts.map Part.rank).getD i 0) = false
        let unsound := fun i => wfld (recs.getD i []) 0 31 31 = 0
        (∀ i < recs.length, bad i → (∀ m < i, ¬bad m) → ∃ t, exec .voteRound1End s = .next t ∧ aborts t o 2 ∧
          t.field .step 0x12C 12 0 = i % 2 ^ 13 ∧ t.flag .step 0x010 2 = true) ∧
        ((∀ i < recs.length, ¬bad i) → ∀ i < recs.length, unsound i → (∀ m < i, ¬unsound m) →
          ∃ t, exec .voteRound1End s = .next t ∧ aborts t o 1 ∧ t.field .step 0x12C 12 0 = i % 2 ^ 13) ∧
        ((∀ i < recs.length, ¬bad i ∧ ¬unsound i) → ∃ t, exec .voteRound1End s = .next t ∧ (t.slot o).st = .vote ∧
          (t.slot o).passed = true ∧ (t.slot o).recs = recs)) ∧
      ((s.slot o).gathered = none → v.voteTo < 65536 → ∃ t, exec .voteTimeout s = .next t ∧ aborts t o 8 ∧
        t.elapsed (Table.get (fun _ => 0) (s.slot o).times 14) (v.voteTo * 1024) = true)) ∧
    (acts → sdAction d.words = 5 → k.st = .vote → k.passed = true →
      let a := wquad d.words 2 43
      let n := wfld d.words 4 6 0
      (∀ ext, a % 64 = 0 → 1 ≤ n → n ≤ 64 → s.stepWords d.ctx a (4 * n) = some ext → (sealExtents ext n).2 ≤ s.sealSize →
        ∃ u : State, (u.slot j).st = .seal ∧ (u.slot j).act = some d ∧ u.mem = s.mem ∧ u.stepm.q = rest ∧
          exec .stepSeal s = .next (if s.mirrorOn then u.sealSend j ext n else u.roundStart j 2)) ∧
      (a % 64 ≠ 0 ∨ n = 0 ∨ 64 < n ∨ (∃ ext, s.stepWords d.ctx a (4 * n) = some ext ∧ s.sealSize < (sealExtents ext n).2) →
        exec .stepSeal s = .next (s.stepRefuse d 7))) ∧
    (s.sealSlot = some o →
      (∀ p, (s.slot o).sealRet = none → s.asking o (fun a => a == .seal || a == .complete) = false → s.partner 0 = some p →
        exec .sealCopyDone s = .next (s.ask o .complete (orReq (s.slot o).ctx p (s.sealWord o) ((s.slot o).step.toNat + 2 ^ 32)))) ∧
      (∀ w, (s.slot o).sealRet = some w → (w.toNat / 2 ^ 33 % 2 = 1 → ∃ t, exec .sealWordReturn s = .next t ∧ aborts t o 6) ∧
        (w.toNat / 2 ^ 33 % 2 = 0 → (s.slot o).vote.isSome = true → ∃ t, exec .sealWordReturn s = .next t ∧ (t.slot o).complete = true ∧ (t.slot o).round = 2 ∧
          (t.slot o).st = .seal))) ∧
    (s.round2Slot = some (o, v) →
      ((s.slot o).gathered = some true → s.sealedLack (s.slot o) v [] = [] → ∃ t, exec .voteRound2End s = .next t ∧
        (t.slot o).pastCommit = true ∧ (t.slot o).st = .seal ∧ ∀ a, (s.slot o).act = some a → t.tallies = (s.stepTally a).tallies) ∧
      ((s.slot o).gathered = some true → s.sealedLack (s.slot o) v [] ≠ [] → ∃ t, exec .voteRound2End s = .next t ∧
        (t.slot o).round = 3 ∧ (t.slot o).lack = s.sealedLack (s.slot o) v [] ∧ (t.slot o).pastCommit = false) ∧
      ((s.slot o).gathered = some false → s.sealedLack (s.slot o) v (s.slot o).lack ≠ [] → ∃ t, exec .sealedTimeout s = .next t ∧
        (t.slot o).round = 3 ∧ (t.slot o).lack = s.sealedLack (s.slot o) v (s.slot o).lack)) ∧
    ((s.slot o).st = .seal → (s.slot o).pastCommit = false → (s.slot o).round = 3 → (s.slot (1 - o)).round ≠ 3 →
      s.asking o (fun a => match a with | .resolve _ => true | _ => false) = false → (s.slot o).again = none →
      let ans := fun i => Table.get (fun _ => none) (s.slot o).answers i
      let refused := fun i => ∃ w, ans i = some w ∧ w.toNat / 2 ^ 32 % 2 = 0
      ((∃ i ∈ (s.slot o).lack, refused i) → ∃ t, exec .resolutionReturn s = .next t ∧ aborts t o 7) ∧
      ((∀ i ∈ (s.slot o).lack, ¬refused i ∧ ans i ≠ none) → ∃ t, exec .resolutionReturn s = .next t ∧
        (t.slot o).pastCommit = true) ∧
      ((∀ i ∈ (s.slot o).lack, ¬refused i ∧ i < 8192) → (∃ i ∈ (s.slot o).lack, ans i = none) → ∃ t, exec .resolutionReturn s = .next t ∧
        (t.slot o).st = .inDoubt ∧ t.flag .step 0x130 31 = true ∧ t.flag .step 0x010 3 = true)) ∧
    (acts → sdAction d.words = 9 → k.st = .inDoubt → k.round = 2 → k.lack ≠ [] → ∃ t, exec .stepResolve s = .next t ∧
      (t.slot j).round = 3 ∧ (t.slot j).lack = k.lack ∧ (t.slot j).again = some d ∧ t.stepm.q = rest) ∧
    (s.ready = true → (s.slot (fld value 29 29)).st = .inDoubt →
      (bitOf value 30 = true → ∃ t, exec (.stepDecide value) s = .next t ∧ (t.slot (fld value 29 29)).pastCommit = true) ∧
      (bitOf value 30 = false → ∃ t, exec (.stepDecide value) s = .next t ∧ aborts t (fld value 29 29) 5))

/-- Commit and end of a step (R373, R374, R381, R382, R384, R386, R392): LAYER waits for the commit point and `INIT_DONE` and then
updates its tables and increments its tally; COMMIT_END advances the cursors and `LAST_DONE`; END with SKIP advances them without
an update, END with DROP gives the number back; an ABORT action aborts; the drain ends the collectives of the step's context;
`NEXT_STEP` and the cursors are written only while both slots are FREE. -/
def Obligations.StepsCommitOrEnd : Prop :=
  ∀ (s : State) (d : Desc) (rest : List Desc) (value : W32) (n : Fin 8) (x : W64),
    let j := sdSlot d.words
    let k := s.slot j
    let acts := s.stepm.q = d :: rest ∧ s.sdReason d = 0
    let advanced := fun t : State => ∀ c < 8, t.cursor c = (s.cursor c + k.advanceOf c) % 2 ^ 64
    (acts → sdAction d.words = 6 → k.st = .seal ∨ k.st = .commit →
      (k.pastCommit = false ∨ s.flag .oxb 0x144 31 = false → exec .stepLayer s = .next s.stepWait) ∧
      (k.pastCommit = true → s.flag .oxb 0x144 31 = true → ∃ t, exec .stepLayer s = .next t ∧ (t.slot j).st = .commit ∧
        (t.slot j).layers.has (wfld d.words 2 11 0) = true ∧ (k.st = .seal → (t.slot j).layers.has 0xFFF = true ∧ t.mem.marking = true) ∧
        t.tallies = (s.stepTally d).tallies)) ∧
    (acts → sdAction d.words = 7 → k.st = .commit → s.mirrorWait = false → ∃ t, exec .commitEnd s = .next t ∧
      ((t.slot j).st = .mirror ∨ (t.slot j).st = .free) ∧ t.reg .step 0x10C = k.step ∧ advanced t ∧ t.mem.marking = false ∧
      t.mgmt.commits = s.mgmt.commits + 1) ∧
    (acts → sdAction d.words = 8 → k.st = .aborted →
      (sdFlag d.words = true → ∃ t, exec .stepEndSkip s = .next t ∧ (t.slot j).st = .free ∧ t.reg .step 0x10C = k.step ∧ advanced t ∧
        t.reg .step 0x108 = s.reg .step 0x108 ∧ (s.mem.batch = none → t.mem.hbm = s.mem.hbm)) ∧
      (sdFlag d.words = false → ∃ t, exec .stepEndDrop s = .next t ∧ (t.slot j).st = .free ∧ t.reg .step 0x108 = k.step ∧
        t.reg .step 0x10C = s.reg .step 0x10C ∧ (∀ c < 8, t.cursor c = s.cursor c) ∧ (s.mem.batch = none → t.mem.hbm = s.mem.hbm))) ∧
    (acts → sdAction d.words = 10 → k.abortable = true → ∃ t, exec .stepAbortAction s = .next t ∧ (t.slot j).st = .aborted ∧
      t.field .step 0x12C 23 16 = 5 ∧ t.reg .step 0x108 = s.reg .step 0x108 ∧ t.reg .step 0x10C = s.reg .step 0x10C ∧
      t.stepm.draining = some (j, k.ctx)) ∧
    (∀ i c, s.stepm.draining = some (i, c) → i < 2 → ∃ t, exec .stepDrainDone s = .next t ∧ t.stepm.draining = none ∧
      (∀ e < 8, (∀ y ∈ (t.core (69 + e)).inq, y.ctx ≠ c) ∧ ∀ y, (t.cfl e).cur = some y → y.desc.ctx ≠ c)) ∧
    (s.ready = true → s.stepOpen = false → ∃ t, exec (.nextStepWrite value) s = .next t ∧ t.reg .step 0x108 = value ∧
      t.reg .step 0x10C = value - 1) ∧
    (s.ready = true → s.stepOpen = true → exec (.nextStepWrite value) s = .next (s.setErr .step 4) ∧
      ∀ wide, exec (.cursorWrite n wide x) s = .next (s.setErr .hdw 1)) ∧
    (s.ready = true → s.stepOpen = false → ∃ t, exec (.cursorWrite n true x) s = .next t ∧ t.cursor n.val = x.toNat ∧
      ∀ c < 8, c ≠ n.val → t.cursor c = s.cursor c) ∧
    (s.ready = true → ∃ t, exec (.stragClr value) s = .next t ∧ t.stepm.strag = {} ∧ t.stepm = { s.stepm with strag := {} })

/-- A step that has reached its commit point never aborts (R369): where only steps in SEAL, COMMIT and MIRROR are past their commit
point, that stays so, and a step past its commit point stays past it until its slot is CLOSED. -/
def Obligations.CommittedStepsNeverAbort : Prop :=
  ∀ (s t : State) (value : W32) (m : BitVec 19) (i : Fin 4),
    (∀ j < 2, (s.slot j).pastCommit = true → (s.slot j).st = .seal ∨ (s.slot j).st = .commit ∨ (s.slot j).st = .mirror) →
    ∀ c ∈ [Instr.stepOpen, .stepReplayOpen, .journalCopyDone, .slotDone, .stepCheck, .stepVote, .voteRound1End, .voteTimeout, .stepSeal,
      .sealCopyDone, .sealWordReturn, .voteRound2End, .sealedTimeout, .resolutionReturn, .stepResolve, .stepDecide value,
      .stragClr value, .stepLayer, .commitEnd, .stepEndSkip, .stepEndDrop, .stepAbortAction, .stepDrainDone, .nextStepWrite value,
      .mirrorPageSend, .mirrorPageConfirm, .copyBeforeWriteStall m value, .mirrorInit value, .partnerWrite i value],
    exec c s = .next t → ∀ j < 2,
      ((t.slot j).pastCommit = true → (t.slot j).st = .seal ∨ (t.slot j).st = .commit ∨ (t.slot j).st = .mirror) ∧
      ((s.slot j).pastCommit = true → (t.slot j).pastCommit = true ∨ ((s.slot j).st ≠ .seal ∧ t.slot j = {}))

/-- Oxbow (R375 to R379, R401): a PENDING page is sent, promoted ones first, and confirmed; the last page of a step closes its
slot; a write that waits for a page promotes it; INIT makes every mirror page PENDING and is ignored while a step is open;
REMIRROR does the same in a running job; a partner outside the group is not taken. -/
def Obligations.OxbowMirrors : Prop :=
  ∀ (s : State) (p : PendPage) (rest : List PendPage) (value counts : W32) (m : BitVec 19),
    let o := s.oxb
    (o.promoted = [] → o.pend = p :: rest → o.sending = none → o.stopped = false → s.mirrorOn = true →
      (∀ dst, p.bad = [] → (∀ g ∈ s.mem.poison, g / 2 ^ 15 ≠ o.frames.getD p.m 0) → s.ways = 1 → s.partner 0 = some dst →
        ∃ t, exec .mirrorPageSend s = .next t ∧ t.oxb = { o with sending := some p.m } ∧
          (∃ a ∈ t.stepm.asks, a.kind = .page p.m ∧ a.req.group = dst.1 ∧ a.req.dev = dst.2)) ∧
      (p.bad ≠ [] → ∃ t, exec .mirrorPageSend s = .next t ∧ t.oxb.stopped = true ∧ t.oxb.sending = none ∧
        t.flag .oxb 0x010 0 = true)) ∧
    (o.sending = some p.m → o.pend = p :: rest → (∀ q ∈ rest, q.m ≠ p.m) →
      (∀ a ∈ s.stepm.asks, a.kind ≠ .page p.m ∧ a.kind ≠ .tag p.m) → ∃ t, exec .mirrorPageConfirm s = .next t ∧
        t.oxb.pend = rest ∧ t.oxb.sending = none ∧
        (∀ j < 2, rest = [] → (s.slot j).st = .mirror → (t.slot j).st = .free) ∧
        (rest = [] → o.initRun = true → t.flag .oxb 0x144 31 = true)) ∧
    ((∃ q ∈ o.pend, q.m = m.toNat) → ∃ t, exec (.copyBeforeWriteStall m counts) s = .next t ∧
      t.reg .oxb 0x14C = satAdd32 (s.reg .oxb 0x14C) 1 ∧ t.reg .oxb 0x150 = satAdd32 (s.reg .oxb 0x150) counts.toNat ∧
      t.oxb = { o with promoted := if o.sending = some m.toNat ∨ m.toNat ∈ o.promoted then o.promoted else o.promoted ++ [m.toNat] } ∧
      t = { s with io := t.io, oxb := t.oxb }) ∧
    (s.ready = true → bitOf value 0 = true →
      (s.mirrorFrames = none ∨ s.stepOpen = true → exec (.mirrorInit value) s = .next (s.setErr .oxb 2)) ∧
      (∀ fs, s.mirrorFrames = some fs → s.stepOpen = false → s.mirrorOn = true → fs ≠ [] → ∃ t, exec (.mirrorInit value) s = .next t ∧
        t.oxb.frames = fs ∧ t.oxb.pend.map PendPage.m = List.range fs.length ∧ (∀ q ∈ t.oxb.pend, q.step = s.reg .step 0x10C) ∧
        t.oxb.initRun = true ∧ t.flag .oxb 0x144 31 = false ∧ t.reg .oxb 0x148 = w32 fs.length)) ∧
    (s.ready = true → bitOf value 31 = true →
      (s.stepm.s0.st = .commit ∨ s.stepm.s1.st = .commit → ∃ t, exec (.remirror value) s = .next t ∧ t.oxb = o ∧
        t.flag .oxb 0x010 2 = true) ∧
      (s.stepOpen = false → o.initRun = false → s.mirrorOn = true → o.frames ≠ [] → ∃ t, exec (.remirror value) s = .next t ∧
        t.oxb.frames = o.frames ∧ t.oxb.pend.map PendPage.m = List.range o.frames.length ∧ t.oxb.remirror = true ∧
        t.oxb.stopped = false)) ∧
    (s.ready = true → s.pageSealed .oxb = false → ∀ i : Fin 4,
      (i.val < 2 → bitOf value 31 = true → fld value 29 21 ≠ s.myGroup → exec (.partnerWrite i value) s = .next (s.setErr .oxb 2)) ∧
      (2 ≤ i.val ∨ fld value 29 21 = s.myGroup → ∃ t, exec (.partnerWrite i value) s = .next t ∧
        t.flag .oxb (0x104 + 4 * i.val) 31 = bitOf value 31 ∧ t.field .oxb (0x104 + 4 * i.val) 29 17 = fld value 29 17 ∧ t = { s with io := t.io }))

/-! ### The escalation ladder (chapter 14) -/

/-- A context abort (R416, R422) faults the window with reason 0x08, removes the context's waiting descriptors, gives every core
that works for it exception 0x0E, and leaves tallies and memory as they are; a second write while it runs, and one
through the sub-aperture of another partition, is ignored; that of the
step's context aborts the step (R391). An op that has outlived its limit (R414) ends, its Ridge shows `OP_HUNG`, its context is
aborted; a limit of 0 disables. -/
def Obligations.ContextsAbort : Prop :=
  ∀ (s : State) (v : W32) (r : Fin 64) (kd : OpKind) (i : Fin 64),
    let c := fld v 21 16
    let lim := s.field (.rdg r.val) 0x008 27 16 * 65536
    (∀ q : Fin 4, s.partCount ≤ q.val ∨ s.partOfCtx c ≠ q.val → exec (.contextAbort (some q) v) s = .next s) ∧
    (∀ q : Fin 4, q.val < s.partCount → s.partOfCtx c = q.val → exec (.contextAbort (some q) v) s = exec (.contextAbort none v) s) ∧
    (s.ready = true → s.abortBusy = true → ∃ t, exec (.contextAbort none v) s = .next t ∧ t = { s with io := t.io, out := t.out }) ∧
    (s.ready = true → s.abortBusy = false → ∃ t, exec (.contextAbort none v) s = .next t ∧
      ((s.win c).st ≠ .disabled → (t.win c).st = .faulted) ∧
      ((s.win c).st ≠ .disabled → (s.win c).st ≠ .faulted → (t.win c).reason = 0x08) ∧
      (∀ n < 77, ∀ d ∈ (t.core n).inq, d.ctx ≠ c) ∧
      (∀ n < 64, ∀ d ∈ (t.ridge n).tileIn ++ (t.ridge n).brookIn ++ (t.ridge n).fetchIn, d.ctx ≠ c) ∧
      (∀ n < 32, ∀ d ∈ (t.dma n).inq, d.ctx ≠ c) ∧ (∀ d ∈ t.stepm.q, d.ctx ≠ c) ∧
      (∀ n < 69, (s.core n).ctx = c → (s.core n).busy = true → (s.core n).pend.length < 8 →
        (t.core n).pend = (s.core n).pend ++ [causeWord 0 0 0 c 0x0E]) ∧
      (s.stepCtx c = false → (∀ w, w ≠ c → t.win w = s.win w) ∧ t.tallies = s.tallies ∧ t.mem = s.mem ∧ t.slot 0 = s.slot 0 ∧ t.slot 1 = s.slot 1) ∧
      (s.stepm.s0.abortable = true → s.stepm.s0.ctx = c → (t.slot 0).st = .aborted ∧ t.field .step 0x12C 23 16 = 4)) ∧
    (lim = 0 → exec (.opTimeout r kd i) s = .next s) ∧
    (lim ≠ 0 → ∀ c' since u, s.opAt r.val kd i.val = some (c', since, u) → ∃ t, exec (.opTimeout r kd i) s = .next t ∧
      (t.ridge r.val).opHung = true ∧ ((u.win c').st ≠ .disabled → (t.win c').st = .faulted) ∧
      (∀ o, kd = .brook → (s.ridge r.val).brookOps[i.val]? = some o → ∀ x ∈ (t.ridge r.val).brookOps, x.id ≠ o.id) ∧
      (kd ≠ .tile → s.stepm.s0.abortable = false → s.stepm.s0.committing = false → s.stepm.s1.abortable = false →
        s.stepm.s1.committing = false → t.tallies = s.tallies ∧ t.mem = s.mem))

/-- Quiesces (R417 to R419, R424): a Ridge's sequencer stops and the Ridge is to be scrubbed; a DMA channel and a Confluence engine
are emptied, scrubbed and show `QUIESCED`; a partition's quiesce faults its contexts' windows, quiesces its Ridges and channels,
stops its die sequencers and, where it owns the step machinery, core 0, and `PQ_GO` reads 1; a quiesce that outlives its limit asks
for level 4 with cause 0x03.

Chip reset and power cycle (R419, R420, R503): `ESC_GO` asks the tray controller for level 4, with cause 0x05 unless another
request is pending, or for level 5 with PWR_REQ# asserted; PERST#, a hot reset and the loss of a link that had been up put every
register, every buffer and HBM at reset, while the board's flash and fuses, and the waiting commands, stay; without a link up the
last two do nothing. -/
def Obligations.QuiescesAndResets : Prop :=
  (∀ (s : State) (v : W32) (r : Fin 64) (c : Fin 32) (e : Fin 8), s.ready = true →
    let p := fld v 17 16
    ((s.ridge r.val).quiescing = false → ∃ t, exec (.ridgeQuiesce r v) s = .next t ∧ (t.ridge r.val).quiescing = true ∧
      (t.ridge r.val).opHung = false ∧ t.flag (.rdg r.val) 0x008 31 = true ∧ (t.core (5 + r.val)).st = .stopped ∧
      ∀ d ∈ (s.ridge r.val).tileIn ++ (s.ridge r.val).brookIn ++ (s.ridge r.val).fetchIn,
        (s.win d.ctx).st ≠ .disabled → (t.win d.ctx).st = .faulted) ∧
    (∃ t, exec (.dmaQuiesce c v) s = .next t ∧ (t.dma c.val).inq = [] ∧ (t.dma c.val).acc = [] ∧ (t.dma c.val).st = .idle ∧
      (t.dma c.val).buf = [] ∧ (t.dma c.val).quiesced = true) ∧
    (∃ t, exec (.cflQuiesce e v) s = .next t ∧ (t.cfl e.val).cur = none ∧ (t.cfl e.val).wsq = [] ∧ (t.cfl e.val).slots = [] ∧
      (t.cfl e.val).msgs = [] ∧ (t.cfl e.val).quiesced = true ∧ (t.core (69 + e.val)).st = .stopped ∧
      (t.core (69 + e.val)).inq = [] ∧ (t.core (69 + e.val)).dmem = [] ∧ (t.core (69 + e.val)).g = []) ∧
    (bitOf v 29 = false → s.flag .dev 0x008 31 = false → p < s.partCount → ∃ t, exec (.partitionQuiesce v) s = .next t ∧
      t.flag .dev 0x008 31 = true ∧ t.flag .dev 0x00C (16 + p) = false ∧
      (∀ x < 64, s.partOfCtx x = p → (s.win x).st ≠ .disabled → (t.win x).st = .faulted) ∧
      (∀ n < 64, s.partOfDie (n / 16) = p → (t.ridge n).quiescing = true ∧ (t.core (5 + n)).st = .stopped) ∧
      (∀ k ∈ s.diesOf p, (t.core (1 + k)).st = .stopped ∧ (t.core (1 + k)).dmem = []) ∧
      (∀ n < 32, s.field (.dma n) 0x100 17 16 = p → (t.dma n).quiesced = true) ∧
      (s.stepOwner = p → t.stepm.q = [] ∧ (t.core 0).st = .stopped)) ∧
    (bitOf v 29 = false → s.flag .dev 0x008 31 = false → s.partCount ≤ p → ∃ t, exec (.partitionQuiesce v) s = .next t ∧
      t = { s with io := t.io, out := t.out }) ∧
    ((s.ridge r.val).quiescing = true → ∃ t, exec (.quiesceTimeout r) s = .next t ∧ t.field .dev 0x00C 31 29 = 4 ∧
      (s.field .dev 0x00C 31 29 ≠ 4 → t.field .dev 0x00C 28 24 = 3 ∧ (s.flag .dev 0x008 30 = false → t.mgmt.asked = 4)))) ∧
  (∀ (s : State) (v : W32),
    let blank := fun (t : State) => t.plat.held = true ∧ t.plat.idle = [] ∧ t.plat.railsOut = s.plat.railsOut ∧
      t = { State.reset with pending := s.pending, out := s.out, free := s.free, board := s.board, plat := t.plat,
                             mgmt := { pwrReq := s.mgmt.pwrReq } }
    (s.plat.held = false → s.asleep = false → bitOf v 31 = false →
      (∃ t, exec (.escGoChipReset v) s = .next t ∧ t.field .dev 0x00C 31 29 = 4 ∧ t.mgmt.asked = 4 ∧
        (s.field .dev 0x00C 31 29 ≠ 4 → t.field .dev 0x00C 28 24 = 5) ∧
        (s.field .dev 0x00C 31 29 = 4 → t.field .dev 0x00C 28 24 = s.field .dev 0x00C 28 24) ∧ t.mem = s.mem ∧
        t.tallies = s.tallies) ∧
      (∃ t, exec (.escGoPowerCycle v) s = .next t ∧ t.mgmt.pwrReq = true ∧ t.mgmt.asked = 5 ∧ t.mem = s.mem ∧
        t.tallies = s.tallies)) ∧
    (∃ t, exec (.chipReset .perst) s = .next t ∧ blank t ∧ t.plat.perst = true) ∧
    (s.host.linkUp = true → ∃ t, exec (.chipReset .hotReset) s = .next t ∧ blank t ∧ exec .pcieLinkLoss s = .next t) ∧
    (s.host.linkUp = false → exec (.chipReset .hotReset) s = .next s ∧ exec .pcieLinkLoss s = .next s))

/-! ### The management mailbox, checkpoints, the board flash, attestation (chapters 15 and 18) -/

/-- Handing over (R518): a `GO` is refused, or finds the queue full, or puts the request at its end. A served request whose writes
are local ends with them made, the further words and `STATUS` in its block, its tally one higher, and the mailbox one shorter
(R426, R519, R521). -/
def Obligations.RequestsEnterAndEnd : Prop :=
  ∀ (s : State) (v : W32) (sv a c : Nat) (w : List W32) (st : Nat) (words : List (Nat × W32)) (writes : List (Nat × List OutByte)),
    let go := fld v 1 0
    let refused := go = 3 ∨ (s.bootFail = true ∧ go ≠ 1) ∨ (s.bootDone = false ∧ s.bootFail = false)
    let u := writes.foldl (fun u x => u.svcWrite c x.1 x.2) s
    (s.plat.held = false → s.asleep = false → bitOf v 31 = true →
      (refused → ∃ t, exec (.mailboxGo v) s = .next t ∧ t.flag .boot 0x010 2 = true ∧ t = { s with io := t.io, out := t.out }) ∧
      (¬refused → 16 ≤ s.mgmt.mbox.length → ∃ t, exec (.mailboxGo v) s = .next t ∧ t.flag .boot 0x010 1 = true ∧
        t = { s with io := t.io, out := t.out }) ∧
      (¬refused → s.mgmt.mbox.length < 16 → ∃ t, exec (.mailboxGo v) s = .next t ∧
        t.mgmt = { s.mgmt with mbox := s.mgmt.mbox ++ [(go, (s.reg64 .boot 0x108).toNat % 2 ^ 43 / 64 * 64)] } ∧
        t.reg .boot 0x110 = w32 go ∧
        t = { s with io := t.io, mem := { s.mem with handed := s.mem.handed + 1 }, mgmt := t.mgmt })) ∧
    ((∀ x ∈ writes, s.svcMayWrite c x.1 x.2.length = none) → u.mgmt.svc.wr = 0 →
      let t := s.svcApply sv a c w (.done s st words writes)
      t = u.svcFinish c (sbTally w) a (words ++ [(svcStatus sv, w32 st)]) ∧ t.mgmt.mbox = s.mgmt.mbox.drop 1 ∧
      t.tally (sbTally w) = s.tally (sbTally w) + 1 ∧ (∀ n, n ≠ sbTally w → t.tally n = s.tally n) ∧
      ∀ k, writes = [] → words = [] → st < 256 → s.svcSite c .wr ((a + 4 * svcStatus sv) % 2 ^ 43) = .ok (.here k) → a % 64 = 0 →
        s.mem.astray = [] → s.mem.touched = [] → s.granPoison (k / 64) = false → t.hbmByte k = BitVec.ofNat 8 st)

/-- The checkpoint service (R426 to R431): each function, once its block has been read, whose reserved fields are zero, ends with
the `STATUS`, the words and the writes that its row gives. -/
def Obligations.CheckpointsAreServed : Prop :=
  ∀ (s : State) (a : Nat) (bs data list : List OutByte),
    let w := leWords (bs.map Prod.fst) 32
    let c := sbCtx w
    let clear := fun (l : List OutByte) => l.any Prod.snd = false
    s.svcHead = some (0, a, .got bs) → s.mgmt.svc.fin = none → clear bs → (∃ k, s.svcSite c .rd a = .ok k) →
    (∃ k, s.svcSite c .wr a = .ok k) →
    (∀ x ∈ [(Instr.ckptDigest, 1, 0, State.ckptDigest), (.ckptTables, 2, 0, State.ckptTables), (.ckptSign, 3, 0, State.ckptSign),
        (.verifyBytes, 4, 0, State.verifyBytes), (.verifyPageList, 4, 1, State.verifyPages),
        (.verifySignature, 4, 2, State.verifySig), (.ckptLoad, 5, 0, State.ckptLoad)],
      sbFn w = x.2.1 → ckMode w = x.2.2.1 →
        exec x.1 s = .next (s.svcApply 0 a c w (if ckBad w then .done s 0x03 [ckDetail 0] [] else (x.2.2.2 s w).plain))) ∧
    (sbFn w = 0 ∨ 6 ≤ sbFn w → exec .ckptDigest s = .next (s.svcApply 0 a c w (.done s 0x03 [ckDetail 0] []))) ∧
    (∀ h d : List Byte, s.svcLocal c (ckSrc w) (4096 + 10551296) = .ok (h, false) →
      let m := leNat ((h.drop 0x18).take 4)
      m ≤ 327680 → s.svcLocal c ((ckSrc w + 0x1411000) % 2 ^ 43) (m * 2 ^ 21) = .ok (d, false) →
      let l := (List.range m).flatMap fun i => sha256 ((d.drop (i * 2 ^ 21)).take (2 ^ 21))
      let dg := sha256 (h.take 0x20 ++ List.replicate 32 0#8 ++ (h.take 0x90).drop 0x40 ++ sha256 (h.drop 4096) ++ sha256 l ++
        (h.take 4096).drop 0xD0)
      s.ckptDigest w = .done s 0x01 (ckDetail 0 :: ckResult dg) [((ckSrc w + 0xA11000) % 2 ^ 43, clean l),
        ((ckSrc w + 0x90) % 2 ^ 43, clean (sha256 (h.drop 4096) ++ sha256 l)), ((ckSrc w + 0x20) % 2 ^ 43, clean dg)]) ∧
    (s.stepm.s0.st = .commit ∨ s.stepm.s1.st = .commit → s.ckptTables w = .done s 0x04 [] []) ∧
    (s.stepm.s0.st ≠ .commit → s.stepm.s1.st ≠ .commit → s.windowOk = true →
      (∀ i < 10551296, s.winPoison (0x400000 + i) = false) →
      ∃ l, s.ckptTables w = .done s 0x01 [ckDetail 0] [(ckDst w, l)] ∧ l.length = 10551296 ∧
        ∀ i (h : i < l.length), l[i] = (s.hbmByte (s.windowKey (0x400000 + i)) &&& ~~~pendingMask (0x400000 + i), false)) ∧
    (ckLen w % 64 ≠ 0 → s.ckptSign w = .done s 0x03 [] []) ∧
    (ckLen w % 64 = 0 → s.svcRead c (ckSrc w) (ckLen w) = .got data → clear data →
      s.ckptSign w = (match s.signed manifestContext (sha256 (data.map Prod.fst)) with
        | (t, some sig) => .done t 0x01 [ckDetail 0] [((ckSrc w + ckLen w) % 2 ^ 43, clean (idKey ++ sig))]
        | (t, none) => .done t 0x02 [] [])) ∧
    (s.svcRead c (ckSrc w) (ckLen w) = .got data → clear data →
      (let d := sha256 (data.map Prod.fst);
        s.verifyBytes w = .done s (if d = ckExpect w then 0x01 else 0x02) (ckDetail 0 :: ckResult d) []) ∧
      (let n := ckLen w / 2 ^ 21
        let page := fun i => sha256 (((data.map Prod.fst).drop (i * 2 ^ 21)).take (2 ^ 21))
        let entry := fun i => ((list.map Prod.fst).drop (32 * i)).take 32
        let d := sha256 (list.map Prod.fst);
        ckLen w % 2 ^ 21 = 0 → s.svcRead c (ckDst w) (32 * n) = .got list → clear list →
        (∀ m < n, page m ≠ entry m → (∀ i < m, page i = entry i) →
          s.verifyPages w = .done s 0x02 (ckDetail m :: ckResult d) []) ∧
        ((∀ i < n, page i = entry i) →
          s.verifyPages w = .done s (if d = ckExpect w then 0x01 else 0x02) (ckDetail 0 :: ckResult d) [])) ∧
      (s.svcRead c ((ckSrc w + ckLen w) % 2 ^ 43) 17120 = .got list → clear list → data.length = ckLen w →
        let key := (list.map Prod.fst).take 32
        ∃ t, s.verifySig w = .done t (if Config.slhVerify key manifestContext (sha256 (data.map Prod.fst))
            ((list.map Prod.fst).drop 32) then 0x01 else 0x02) (ckDetail 0 :: ckResult (sha256 key)) [] ∧
          t = { s with io := t.io })) ∧
    (s.stepOpen = true → s.ckptLoad w = .done s 0x04 [] []) ∧
    (s.stepOpen = false → s.windowOk = true → match s.svcRead c (ckSrc w) 10551296 with
      | .got l => clear l → s.ckptLoad w = .done (s.winWrite 0x400000 (l.map Prod.fst)) 0x01 [ckDetail 0] []
      | _ => True)

/-- The flash service (R519) and the attestation service (R521): what each makes of a block whose fields are in order. -/
def Obligations.FlashAndReportsAreServed : Prop :=
  ∀ (s : State) (a sv : Nat) (bs data : List OutByte),
    let w := leWords (bs.map Prod.fst) 16
    let c := sbCtx w
    let o := flOff w
    let n := flLen w
    s.svcHead = some (sv, a, .got bs) → s.mgmt.svc.fin = none → bs.any Prod.snd = false → (∃ k, s.svcSite c .rd a = .ok k) →
    (∃ k, s.svcSite c .wr a = .ok k) →
    (∀ x ∈ [(Instr.flashRead, 1, State.flRead), (.flashErase, 2, State.flErase), (.flashProgram, 3, State.flProgram),
        (.flashSelect, 4, State.flSelect), (.flashConfirm, 5, State.flConfirm)], sv = 1 → sbFn w = x.2.1 →
      exec x.1 s = .next (s.svcApply 1 a c w (if flBad w then .done s 0x03 [] [] else x.2.2 s w))) ∧
    (sv = 2 → exec .attestationReport s = .next (s.svcApply 2 a c w (if atBad w then .done s 0x03 [] []
      else match s.signed reportContext (s.report (wordsBytes ((w.drop 4).take 8))) with
        | (u, some sig) => .done u 0x01 [] [(atDst w, clean (s.report (wordsBytes ((w.drop 4).take 8)) ++ sig))]
        | (u, none) => .done u 0x02 [] []))) ∧
    (s.report (wordsBytes ((w.drop 4).take 8))).take 40 =
      leBytes 4 0x53504152 ++ leBytes 4 1 ++ wordsBytes ((w.drop 4).take 8) ∧
    (s.flashLock = true → s.flErase w = .done s 0x06 [] [] ∧ s.flProgram w = .done s 0x06 [] [] ∧
      s.flSelect w = .done s 0x06 [] []) ∧
    (o + n ≤ 2 ^ 26 → s.flashPast w = false → s.board.dead = false →
      s.flRead w = .done s 0x01 [] [(flAddr w, clean (s.flashRead o n))]) ∧
    (s.flashLock = false → s.board.dead = false → s.flashOpen o n = true → o % 4096 = 0 → n % 4096 = 0 →
      ∃ t, s.flErase w = .done t 0x01 [] [] ∧ t = { s with board := t.board } ∧
        ∀ x, 4096 ≤ x → t.flashByte x = (if o ≤ x ∧ x < o + n then 0xFF else s.flashByte x)) ∧
    (s.flashLock = false → s.board.dead = false → s.flashOpen o n = true → s.flashPast w = false → o % 256 = 0 → n % 256 = 0 →
      (s.flashRead o n).all (fun b => b == 0xFF) = true → s.svcRead c (flAddr w) n = .got data → data.any Prod.snd = false →
      data.length = n → ∃ t, s.flProgram w = .done t 0x01 [] [] ∧ t.flashRead o n = data.map Prod.fst ∧
        ∀ x, x < o ∨ o + n ≤ x → t.flashByte x = s.flashByte x) ∧
    (s.flashLock = false → s.board.dead = false →
      if s.slotReason (flSlot w) = 0 then ∃ t, s.flSelect w = .done t 0x01 [] [] ∧ t.board.bootCfg = some (flSlot w, flTrial w)
      else ∃ t, s.flSelect w = .done t 0x07 [] [] ∧ t.board = s.board) ∧
    (∀ k, s.runSlot = some k → s.board.dead = false → ∃ t, s.flConfirm w = .done t 0x01 [] [] ∧ t.board.bootCfg = some (k, 0) ∧
      t.flag .boot 0x100 28 = false)

/-! ### Cairn, the Unit History Log, digests (chapter 16) -/

/-- Cairn (R449, R452 to R454): a waiting check takes the lowest pair that can be borrowed, of its checker or of its arbiter; an
abandoned one counts in `ABANDONED` and gives no verdict; an equal tile passes; a differing one goes to the arbiter, or is unresolved
where none exists; the arbiter's tile names the culprit; every verdict other than a pass counts, and confirms a mismatch against the
op's slot unless the checker was the culprit. -/
def Obligations.CairnJudges : Prop :=
  ∀ (s : State) (i : BitVec 8) (c : Check) (n j : Nat) (b : Bool), s.checks[i.toNat]? = some c → c.ridge < 64 → c.arr < 64 →
    (∀ p, c.checker = some p → p.1 < 64 ∧ p.2 < 63) → (∀ k, c.jslot = some k → k < 2) →
    let abandoned := fun (t : State) => t.reg (.chk c.ridge) 0x108 = satAdd32 (s.reg (.chk c.ridge) 0x108) 1 ∧
      t.reg (.chk c.ridge) 0x10C = s.reg (.chk c.ridge) 0x10C ∧ t.checks = s.checks.filter (fun x => x != c) ∧ t.mgmt = s.mgmt
    let verdict := fun (t : State) (c : Check) (v : Nat) =>
      let cu := if v = 2 then c.pairArray c.checker else c.srcArray
      t.reg (.chk c.ridge) 0x10C = satAdd32 (s.reg (.chk c.ridge) 0x10C) 1 ∧
      t.reg (.chk c.ridge) 0x114 = w32 (2 ^ 31 + v * 2 ^ 28 + c.srcArray % 64 * 2 ^ 16 + cu) ∧
      t.reg (.chk (cu / 64)) 0x110 = satAdd32 (s.reg (.chk (cu / 64)) 0x110) 1 ∧ t.flag (.chk (cu / 64)) 0x010 1 = true ∧
      t.flag (.chk c.ridge) 0x010 0 = true ∧ t.checks.length < s.checks.length ∧
      (∀ k, c.jslot = some k → t.field .chkG (0x108 + 4 * k) 15 0 =
        (if v = 2 then s.field .chkG (0x108 + 4 * k) 15 0 else min 65535 (s.field .chkG (0x108 + 4 * k) 15 0 + 1))) ∧
      (v = 3 → t.flag .chkG 0x010 1 = true) ∧
      (Table.get (fun _ => 0) s.mgmt.mism cu < 16 → Table.get (fun _ => 0) t.mgmt.mism cu = Table.get (fun _ => 0) s.mgmt.mism cu + 1)
    (c.ph = .waitPair ∧ n = c.chk ∨ c.ph = .waitArb ∧ c.arb = some n → s.cairnServes n = false → s.cairnPair n = some j →
      exec (.cairnPairBorrow i) s = .next (s.putCheck i.toNat
        (if c.ph = .waitPair then { c with ph := .recompute, checker := some (n, 2 * j) }
          else { c with ph := .arbitrate, arbiter := some (n, 2 * j) })) ∧
      let can := fun k => s.pairFree n k = true ∧ ∀ a ∈ [2 * k, 2 * k + 1], ((s.ridge n).arr a).t0.isOpen = false ∧
        ((s.ridge n).arr a).t1.isOpen = false ∧ ∀ o ∈ (s.ridge n).tileOps, tdArray o.desc.words ≠ a
      j < 32 ∧ can j ∧ ∀ k < j, ¬can k) ∧
    (c.ph = .waitPair ∨ c.ph = .waitArb → ∃ t, exec (.cairnAcqTimeout i) s = .next t ∧ abandoned t ∧
      t.elapsed c.since (100 * max 1 (s.field .chkG 0x100 15 0)) = true) ∧
    (c.ph = .recompute → s.cairnSourceDone c = true →
      (∃ t, exec (.cairnRecomputeDone i .poisoned) s = .next t ∧ abandoned t) ∧
      (∃ t, exec (.cairnRecomputeDone i .equal) s = .next t ∧ t.checks = s.checks.filter (fun x => x != c) ∧
        t.reg (.chk c.ridge) 0x10C = s.reg (.chk c.ridge) 0x10C ∧ t.reg (.chk c.ridge) 0x108 = s.reg (.chk c.ridge) 0x108) ∧
      (let c1 := { c with twinB := b && c.pair, ph := .waitArb };
        (c.arb ≠ none → exec (.cairnRecomputeDone i (.differ b)) s = .next (s.putCheck i.toNat c1)) ∧
        (c.arb = none → ∃ t, exec (.cairnRecomputeDone i (.differ b)) s = .next t ∧ verdict t c1 3))) ∧
    (c.ph = .arbitrate →
      (∃ t, exec (.cairnArbiterDone i .poisoned) s = .next t ∧ abandoned t) ∧
      (c.checker.isSome = true → ∃ t, exec (.cairnArbiterDone i .source) s = .next t ∧ verdict t c 2) ∧
      (∃ t, exec (.cairnArbiterDone i .checker) s = .next t ∧ verdict t c 1) ∧
      ∃ t, exec (.cairnArbiterDone i .neither) s = .next t ∧ verdict t c 3)

/-- The log and the seed (R447, R458, R460, R464): a record that is written stands at the next position with its `MAGIC`, `VER` and
`CRC`, and numbers go up; a write that fails sets `FLASH_FAIL`; a CLEAR removes the array's Cairn fences, and without later
MISMATCH records none returns; a write of the seed gives Ridge n the state `SEED` xor n, or 1.

The digest engine (R465, R466, R470): `GO` starts it on the list as it stands and is ignored while it runs; each run's digest is the
SHA-256 of its pages; at its end the digests stand in words 8 to 15 of their entries, `DONE` sets and the tally increments, or, where
poison was met, `POISON` and `DIG_POISON`. -/
def Obligations.LogAndDigests : Prop :=
  (∀ (s : State) (v : W32) (r : UhlRec),
    let a := fld v 11 0
    let at_ := s.mgmt.uhlPos % 32768
    let clear : UhlRec := { type := 6, unit := w32 a, step := s.reg .step 0x10C, info1 := 0 }
    let u := (s.setReg .uhl 0x150 (w32 a)).uhlWrite clear
    (s.board.dead = true → (s.uhlPut r).flag .uhl 0x010 1 = true ∧ (s.uhlPut r).board = s.board) ∧
    (s.board.dead = false → r.type < 256 → let t := s.uhlPut r
      uhlMagic (t.uhlWords at_) = true ∧ uhlType (t.uhlWords at_) = r.type ∧ uhlUnit (t.uhlWords at_) = r.unit ∧
      uhlSeq (t.uhlWords at_) = s.reg .uhl 0x104 ∧ t.reg .uhl 0x104 = s.reg .uhl 0x104 + 1 ∧
      (∀ i < 32768, i ≠ at_ → t.uhlWords i = s.uhlWords i) ∧ t.mgmt.uhlPos = (at_ + 1) % 32768) ∧
    (s.ready = true → s.pageSealed .uhl = true → exec (.uhlClear v) s = .next s) ∧
    (s.ready = true → s.pageSealed .uhl = false → bitOf v 31 = true → uhlCounted u.uhlLog a = [] →
      ∃ t, exec (.uhlClear v) s = .next t ∧ t.reg .uhl 0x150 = w32 a ∧
        t.flag (.chk (a / 64)) (0x118 + 4 * (a % 64 / 32)) (a % 32) = false ∧
        (∀ k < 16, t.flag (.chk (a / 64)) (0x140 + 4 * k) 31 = true → t.field (.chk (a / 64)) (0x140 + 4 * k) 29 24 ≠ a % 64) ∧
        t.tallies = s.tallies ∧ t.mem = s.mem) ∧
    (s.ready = true → s.pageSealed .chkG = false → ∃ t, exec (.chkSeedWrite v) s = .next t ∧ t.reg .chkG 0x104 = v ∧
      (∀ n < 64, t.reg (.chk n) 0x120 = if v = w32 n then 1 else v ^^^ w32 n) ∧ t = { s with io := t.io })) ∧
  (∀ (s : State) (v : W32) (d : Dig) (x : List Byte) (p n k : Nat),
    (s.ready = true → bitOf v 0 = true → s.dig.isSome = true → exec (.digestEngineStart v) s = .next s) ∧
    (s.ready = true → bitOf v 0 = true → s.dig = none → ∃ t d, exec (.digestEngineStart v) s = .next t ∧ t.dig = some d ∧
      d.step = s.reg .step 0x10C ∧ t.reg .chkG 0x120 = 0x80000000#32 ∧ d.digests.length ≤ 64 ∧
      t = { s with dig := t.dig, io := t.io, out := t.out, free := t.free } ∧
      (s.digRuns 64 0 = [(p, n)] → match s.ownRead p (n * 2 ^ 21) with
        | some bs => if bs.any Prod.snd = true then d.poison = true else d.digests = [sha256 (bs.map Prod.fst)] ∧ d.poison = false
        | none => True)) ∧
    (s.dig = some d → ∃ t, exec .digestEngineDone s = .next t ∧ t.dig = none ∧ t.reg .chkG 0x128 = d.step ∧
      t.reg .chkG 0x120 = w32 ((if d.poison then 2 ^ 29 else 2 ^ 30) + d.digests.length) ∧
      (d.poison = true → t.flag .chkG 0x010 2 = true ∧ t.tallies = s.tallies) ∧
      (d.poison = false → t.tallies = (s.addTally (s.field .chkG 0x110 31 20) 1).tallies) ∧
      (d.digests = [x] → x.length = 32 → s.mem.astray = [] → s.ownKey (((s.reg64 .chkG 0x114).toNat % 2 ^ 43 + 32) % 2 ^ 43) = some k →
        s.rangePoison k 32 = false → (t.keyBytes k 32).map Prod.fst = x)))

/-! ### Clocks, supplies, power and temperature (chapter 17) -/

/-- The clock monitor (R479 to R483): how each window moves the three inputs; what a loss does; the return of the islands.

Dividers, voltages, the frequency-measuring counter, idle dies (R475 to R477, R484, R488, R493): a code moves by one towards the
effective code, but a Ridge becomes faster only once its die's voltage permits; a voltage acknowledged is what was asked, and one not
acknowledged in time is asked again (a judgement of R478's limits may leave stacks unpredictable); the counter runs, ends with its count, and can be ended (its result is then free); an idle die's
Ridges have a code of at least 128. -/
def Obligations.ClocksAreJudgedAndFollowed : Prop :=
  (∀ (s : State) (cc pc wc : W32) (edges : BitVec 16) (i : ClkInput),
    let off := fun (x y : Nat) => (x - y) + (y - x)
    let judged := fun (k : ClkIn) (good lost : Bool) => if lost then ({ st := .lost } : ClkIn) else if k.st = .stable then k
      else if good = false then { k with good := 0 } else if 2 ≤ k.good then { st := .stable, good := 0 } else { k with good := k.good + 1 }
    let ref := fun (k : ClkIn) (x : W32) => judged k (decide (off x.toNat 262144 ≤ 52))
      (decide (262144 * max 250 (s.field .clk 0x100 31 16) < off x.toNat 262144 * 1000000))
    let dw := off wc.toNat 1048576
    let lossOf := fun (t : State) (i : ClkInput) => (t.input i).st = .lost ∧ t.flag .clk 0x010 (inputBit i) = true ∧
      t.reg .clk 0x114 = satAdd32 (s.reg .clk 0x114) 1 ∧ (∀ x ∈ inputIslands i, t.islReserve x = true) ∧
      t.flag .smb 0x108 0 = true ∧ (i ≠ .pcie → s.reg .clk 0x010 = 0#32 → s.vectorMasked 0 = false → .msix 0 ∈ t.out) ∧
      (i = .core → t.flag .dev 0x110 0 = true ∧ ∀ p < 36, (t.port p).st =
        if (s.port p).st = .fenced ∨ (s.port p).st = .disabled then (s.port p).st else .down) ∧
      (s.stepm.s0.abortable = true → (t.slot 0).st = .aborted ∧ t.field .step 0x12C 23 16 = 4)
    (s.railsGood = true → ∃ t, exec (.clockMonitorWindow cc pc wc) s = .next t ∧ t.reg .clk 0x108 = cc ∧ t.reg .clk 0x10C = pc ∧
      t.reg .clk 0x110 = wc ∧
      t.plat.watch = judged s.plat.watch (decide (10 * dw ≤ 2 * 1048576)) (decide (1048576 < 4 * dw)) ∧
      (1048576 < 4 * dw → s.plat.watch.st ≠ .lost → t.plat.core = {} ∧ t.plat.pcie = {}) ∧
      (4 * dw ≤ 1048576 → s.plat.watch.st = .stable → t.plat.core = ref s.plat.core cc ∧ t.plat.pcie = ref s.plat.pcie pc) ∧
      (4 * dw ≤ 1048576 → s.plat.watch.st = .stable → s.plat.core.st ≠ .stable → 2 ≤ s.plat.core.good → off cc.toNat 262144 ≤ 52 →
        t.flag .dev 0x110 0 = false) ∧
      (4 * dw ≤ 1048576 → s.plat.watch.st ≠ .stable → t.plat.core = s.plat.core ∧ t.plat.pcie = s.plat.pcie)) ∧
    (s.railsGood = true → s.plat.held = false → s.plat.watch.st = .stable → edges.toNat < 192 ∨ 320 < edges.toNat →
      (s.plat.core.st ≠ .lost → ∃ t, exec (.clockFastTest false edges) s = .next t ∧ lossOf t .core) ∧
      (s.plat.pcie.st ≠ .lost → ∃ t, exec (.clockFastTest true edges) s = .next t ∧ lossOf t .pcie)) ∧
    (192 ≤ edges.toNat → edges.toNat ≤ 320 → ∀ b, exec (.clockFastTest b edges) s = .next s) ∧
    (s.railsGood = true → s.plat.held = false → s.plat.watch.st ≠ .lost → ∃ t, exec .watchOscEdgeTimeout s = .next t ∧
      lossOf t .watch ∧ t.plat.core = {} ∧ t.plat.pcie = {}) ∧
    (s.plat.held = false → (s.input i).st = .stable → (∃ x ∈ inputIslands i, s.islReserve x = true) →
      (s.flag .clk 0x100 0 = false → exec (.clockReturn i) s = .next s) ∧
      (s.flag .clk 0x100 0 = true → ∃ t, exec (.clockReturn i) s = .next t ∧ (∀ x ∈ inputIslands i, t.islReserve x = false) ∧
        (i = .core → ∀ x ∈ inputIslands i, s.islReserve x = true → islPll x ≠ 0 → t.islCur x = s.returnCode x)))) ∧
  (∀ (s : State) (i : Fin 125) (k : Fin 4) (n : BitVec 40),
    let cur := s.islCur i.val
    let goal := s.islCode i.val
    let nxt := if cur < goal then cur + 1 else cur - 1
    let slow := i.val < 64 ∧ nxt < cur ∧ s.volts (i.val / 16) < codeMv nxt
    (i.val < 64 → goal = max (max (max 64 (s.islDiv i.val)) (s.thermalFloor (i.val / 16)))
      (max s.powerFloor (if s.plat.idle.has (i.val / 16) then 128 else 0))) ∧
    (s.plat.held = false → islPll i.val ≠ 0 → s.islReserve i.val = false → cur ≠ goal → nxt < 1024 →
      ∃ t, exec (.dividerRampStep i) s = .next t ∧ (slow → t.islCur i.val = cur) ∧ (¬slow → t.islCur i.val = nxt) ∧
        (∀ x < 125, x ≠ i.val → t.islCur x = s.islCur x) ∧
        t = { s with io := t.io, plat := t.plat, out := t.out, mem := { s.mem with astray := t.mem.astray } }) ∧
    (cur = goal ∨ s.islReserve i.val = true ∨ islPll i.val = 0 → exec (.dividerRampStep i) s = .next s) ∧
    (s.plat.vWait.has k.val = true →
      (∃ t, exec (.avsVoltageAck k) s = .next t ∧ t.volts k.val = s.railMv k.val ∧ t.plat.vWait.has k.val = false ∧
        t = { s with plat := t.plat }) ∧
      ∃ t, exec (.avsTimeout k) s = .next t ∧ t.flag .pwr 0x010 0 = true ∧ t.out.head? = some (.avs k.val (s.railMv k.val)) ∧
        t.plat = s.plat) ∧
    (s.asleep = false → s.flag .clk 0x118 29 = false → ∃ t, exec .fmcGo s = .next t ∧ t.reg .clk 0x124 = 0#32 ∧ t.reg .clk 0x128 = 0#32 ∧
      (s.field .clk 0x11C 15 8 < 129 → s.field .clk 0x11C 7 0 < 129 → t.flag .clk 0x118 29 = true ∧ t.flag .clk 0x118 28 = false) ∧
      (129 ≤ s.field .clk 0x11C 15 8 → t.flag .clk 0x118 29 = false ∧ t.flag .clk 0x118 28 = true) ∧ t = { s with io := t.io }) ∧
    (s.flag .clk 0x118 29 = true → exec .fmcGo s = .next s ∧
      (∃ t, exec (.fmcDone n) s = .next t ∧ t.reg .clk 0x124 = w32 n.toNat ∧ t.reg .clk 0x128 = w32 (n.toNat / 2 ^ 32) ∧
        t.flag .clk 0x118 29 = false ∧ t.flag .clk 0x118 28 = true) ∧
      (s.asleep = false → ∃ t, exec .fmcAbort s = .next t ∧ t.flag .clk 0x118 29 = false ∧ t = { s with io := t.io, free := t.free })) ∧
    (s.plat.held = false → s.flag .pwr 0x008 16 = true → s.dieQuiet k.val = true → ∃ t, exec (.dieIdleEntry k) s = .next t ∧
      t.plat.idle.has k.val = true ∧ (∀ x < 64, x / 16 = k.val → 128 ≤ t.islCode x) ∧
      t = { s with io := t.io, plat := t.plat, out := t.out }))

/-- Heat and power (R489 to R492): a reading of 125 °C trips the part; else each C-die's temperature, bin and thermal floor follow its
sensors, and the power floor the estimates. -/
def Obligations.FloorsFollowHeatAndPower : Prop :=
  ∀ (s : State) (rs es hs : List (Option Byte)) (short long : BitVec 16), s.plat.held = false →
    let good := (rs.take 64 ++ es.take 4).filterMap id
    let thr := min 120 (s.field .thm 0x100 31 24)
    let crit := min 120 (s.field .thm 0x100 23 16)
    let hyst := max 1 (s.field .thm 0x100 15 8)
    let sust := if s.field .smb 0x10C 15 0 = 0 then min 1850 (s.field .pwr 0x100 31 16)
      else min (min 1850 (s.field .pwr 0x100 31 16)) (s.field .smb 0x10C 15 0)
    let peak := min 2000 (s.field .pwr 0x100 15 0)
    ((∃ b ∈ good, 125 ≤ b.toNat) → ∃ t, exec (.thermalTick rs es hs) s = .next t ∧ t.plat.trip = true ∧ t.plat.held = true ∧
      t.mgmt.pwrReq = true ∧ t.flag .smb 0x108 3 = true ∧ t.board = s.board ∧ t.mem = State.reset.mem) ∧
    ((∀ b ∈ good, b.toNat < 125) → ∃ t, exec (.thermalTick rs es hs) s = .next t ∧ t.elapsed s.plat.thmAt 10000 = true ∧
      t.mem = s.mem ∧ (good.length < 68 → t.flag .thm 0x010 2 = true) ∧
      ∀ k < 4,
        let l := (List.range 16).map fun i => rs.getD (16 * k + i) none
        let c := dieTemp l
        let f := s.thermalFloor k
        (∀ b ∈ l.filterMap id, b.toNat ≤ c) ∧ (l.filterMap id = [] → c = 125 ∧ t.field .thm 0x108 (3 * k + 2) (3 * k) = 7) ∧
        t.field .thm 0x104 (8 * k + 7) (8 * k) = c ∧
        (l.filterMap id ≠ [] → t.field .thm 0x108 (3 * k + 2) (3 * k) = nextBin hyst c (s.field .thm 0x108 (3 * k + 2) (3 * k))) ∧
        t.thermalFloor k = (if crit ≤ c then 128 else if thr ≤ c then min 128 (f + 4) else if c + hyst ≤ thr then max 64 (f - 4)
          else f) ∧
        (crit ≤ c → t.flag .thm 0x010 1 = true ∧ t.flag .smb 0x108 2 = true)) ∧
    (∀ c b, b ≤ 7 → (b ≤ tempBin c → nextBin hyst c b = tempBin c) ∧
      (tempBin c < b → (nextBin hyst c b < b ↔ c + hyst ≤ 30 + 10 * b) ∧ tempBin c ≤ nextBin hyst c b)) ∧
    (let a := short.toNat
      let b := long.toNat
      let f := s.powerFloor
      let g := if peak < a ∨ sust < b then min 128 (f + 4) else if 100 * a < 97 * peak ∧ 100 * b < 97 * sust then max 64 (f - 4) else f
      ∃ t, exec (.powerTick short long) s = .next t ∧ t.field .pwr 0x104 31 16 = b ∧ t.field .pwr 0x104 15 0 = a ∧
        t.powerFloor = g ∧ (f ≤ 64 → 64 < g → t.flag .pwr 0x010 1 = true) ∧ t.mem = s.mem)

/-! ### The host, boot, the sideband, the straps, boundary scan (chapters 18 and 19) -/

/-- Rails, the release of chip reset and the straps (R28, R307, R486, R487, R534 to R536, R539, R541). -/
def Obligations.ResetIsReleased : Prop :=
  ∀ (s : State) (rail : Fin 11) (straps : BitVec 14) (silent : Bool),
    let v := straps.toNat
    let g := v / 16 % 512
    let valid := (popCount 14 v % 2 = 1 ∧ g ≤ 256)
    let mayGo := s.plat.held = true ∧ s.railsGood = true ∧ s.plat.trip = false
    let released := fun (t : State) => t.plat.held = false ∧ t.refcnt = 0#64 ∧ t.reg .stp 0x100 = w32 v ∧
      t.field .stp 0x104 12 0 = v % 2 ^ 13 ∧ (t.flag .stp 0x104 31 = true ↔ valid) ∧
      (t.flag .stp 0x104 30 = true ↔ popCount 14 v % 2 = 0) ∧ (t.flag .stp 0x104 29 = true ↔ 256 < g) ∧
      t.reg .smb 0x100 = w32 (0x60 + v % 8) ∧ t.reg .sec 0x140 = w32 s.board.fuses ∧ t.board = s.board ∧
      (¬valid → t.flag .stp 0x010 0 = true ∧ ∀ p < 36, (t.port p).st = .fenced ∧ (t.port p).cause = 0x09)
    (∃ t, exec (.railOutOfWindow rail) s = .next t ∧ t.plat.held = true ∧ t.plat.trip = false ∧ t.mgmt = {} ∧
      (∀ r, t.plat.railsOut.has r = (decide (r = rail.val) || s.plat.railsOut.has r)) ∧
      t = { State.reset with pending := s.pending, out := s.out, free := s.free, board := s.board, plat := t.plat }) ∧
    (∃ t, exec (.railsInWindow rail) s = .next t ∧ (∀ r, t.plat.railsOut.has r = (s.plat.railsOut.has r && decide (r ≠ rail.val))) ∧
      t = { s with plat := t.plat }) ∧
    (mayGo → s.plat.core.st = .stable → s.plat.pcie.st = .stable → s.plat.watch.st = .stable →
      ∃ t, exec (.resetRelease straps) s = .next t ∧ released t ∧ t.mem = s.mem ∧
        (valid → t = { s with plat := t.plat, refcnt := 0, io := t.io })) ∧
    (mayGo → s.plat.core.st ≠ .stable → ∃ t, exec (.forcedResetRelease straps) s = .next t ∧ t.plat.held = false ∧
      t.reg .stp 0x100 = w32 v ∧ t.flag .clk 0x010 0 = true ∧ ∀ x ∈ inputIslands .core, t.islReserve x = true) ∧
    (¬mayGo → exec (.resetRelease straps) s = .next s ∧ exec (.forcedResetRelease straps) s = .next s) ∧
    (s.plat.held = false →
      (∃ t, exec (.flashResetRelease silent) s = .next t ∧ t.boot.flashUp = true ∧ t.board.dead = silent ∧
        (silent = true → ∀ k, t.slotReason k = 1) ∧ t = { s with boot := t.boot, board := t.board }) ∧
      (∃ t, exec .d2dLinksTrained s = .next t ∧ (∀ l < 13, t.mem.d2dUp.has l = !(s.mem.d2dDown.has l) ∧
        t.flag .dev 0x114 l = !(s.mem.d2dDown.has l)) ∧ t = { s with io := t.io, mem := { s.mem with d2dUp := t.mem.d2dUp } }) ∧
      ∃ t, exec (.strapCompare straps) s = .next t ∧ t = { s with io := t.io, out := t.out } ∧ t.reg .stp 0x100 = s.reg .stp 0x100 ∧
        (s.field .stp 0x100 13 0 = v → t.reg .stp 0x108 = s.reg .stp 0x108) ∧
        (s.field .stp 0x100 13 0 ≠ v → t.flag .stp 0x010 1 = true ∧ t.reg .stp 0x108 = satAdd32 (s.reg .stp 0x108) 1))

/-- The boot and the anti-rollback fuses (R509, R514, R515, R517, R520, R528): which slot is tried first and what the boot
configuration becomes; the slot that is valid runs, with the identity registers and the boot number, else both have failed;
`READY`; the fuse counter
rises to the image's `SVN`, or to the fuse that fails, and never falls. -/
def Obligations.TheDeviceBoots : Prop :=
  ∀ (s : State) (v : W32) (bad : Option (Fin 64)),
    let cfg := if s.board.dead then (0, 0) else s.board.bootCfg.getD (0, 0)
    let a := if cfg.2 = 2 then 1 - cfg.1 else cfg.1
    let b := 1 - a
    let svn := s.field .boot 0x100 7 0
    (s.plat.held = false → s.boot.flashUp = true → s.boot.tried = false → cfg.1 < 2 → s.reg .boot 0x100 = 0x00080800#32 →
      ∃ t, exec .bootSlotVerify s = .next t ∧ t.boot.tried = true ∧
        t.board.bootCfg = (if cfg.2 = 1 then some (cfg.1, 2) else if cfg.2 = 2 then some (a, 0) else s.board.bootCfg) ∧
        t.bootFail = (decide (s.slotReason a ≠ 0) && decide (s.slotReason b ≠ 0)) ∧
        t.field .boot 0x100 (if a = 0 then 23 else 15) (if a = 0 then 16 else 8) = s.slotReason a ∧
        t.field .boot 0x100 (if a = 0 then 15 else 23) (if a = 0 then 8 else 16) = (if s.slotReason a = 0 then 8 else s.slotReason b) ∧
        (t.bootFail = false → t.flag .sec 0x144 31 = true ∧
          (∀ i < 8, t.reg .sec (0x100 + 4 * i) = w32 (beNat ((idKey.drop (4 * i)).take 4)) ∧
            t.reg .sec (0x120 + 4 * i) = w32 (beNat (((sha256 idKey).drop (4 * i)).take 4))) ∧
          t.reg .uhl 0x100 = w32 ((s.uhlLog.map fun w => (uhlBoot w).toNat).foldl max 0 + 1)) ∧
        (if s.slotReason a = 0 then (t.flag .boot 0x100 29).toNat = a ∧ t.flag .boot 0x100 28 = decide (cfg.2 = 1) ∧
            t.field .boot 0x100 7 0 = s.imageWord a 8 ∧ t.boot.imageDigest = sha256 (s.imageRead a 0 0x1000)
          else t.flag .boot 0x010 0 = true ∧ if s.slotReason b = 0 then (t.flag .boot 0x100 29).toNat = b ∧
            t.flag .boot 0x100 28 = false ∧ t.field .boot 0x100 7 0 = s.imageWord b 8 else t.flag .smb 0x108 4 = true)) ∧
    (s.plat.held = false → s.boot.tried = true → s.bootFail = false → s.bootDone = false →
      (s.mem.pmapReady = false → exec .bootReady s = .next s) ∧
      (s.mem.pmapReady = true → ∃ t, exec .bootReady s = .next t ∧ t.bootDone = true ∧ t.mem = s.mem)) ∧
    (s.plat.held = false → s.asleep = false → ∃ t, exec (.svnCommit v bad) s = .next t ∧ s.board.fuses ≤ t.board.fuses ∧
      (s.bootFail = false → s.boot.tried = true → s.flag .boot 0x100 28 = false → s.board.fuses < svn →
        (bad = none → t.board.fuses = svn ∧ t.reg .sec 0x140 = w32 svn) ∧
        (∀ f, bad = some f → s.board.fuses ≤ f.val → f.val < svn → t.board.fuses = f.val ∧ t.flag .sec 0x010 0 = true)) ∧
      (s.flag .boot 0x100 28 = true ∨ svn ≤ s.board.fuses → t.board = s.board) ∧
      t = { s with io := t.io, board := { s.board with fuses := t.board.fuses }, out := t.out })

/-- The host's accesses (R500, R502, R504, R505, R510): BAR2 through the Page Map, its faults, before `READY`, in D3hot; MSI-X, the
tally notices, the link, the configuration space, an AtomicOp request. -/
def Obligations.HostAccessesComplete : Prop :=
  ∀ (s : State) (off : BitVec 40) (len : BitVec 13) (data : List Byte) (en : List Bool) (key r : Nat) (vec : BitVec 8) (n : Fin 64)
      (rate : Fin 6) (width : Fin 5) (flit m : Bool) (size : Fin 3) (mu : MemUse),
    let a := s.b2Addr off.toNat
    let l := len.toNat
    let c := s.reg .pci (0x200 + 4 * n.val)
    let reached := (s.tally (fld c 11 0) - s.reg .pci (0x300 + 4 * n.val)).toNat < 2 ^ 31
    let read := Instr.bar2Read off len mu
    let clean := Instr.bar2Read off len {}
    (s.host.linkUp = true → s.plat.held = false →
      (s.host.d3 = true → l ≠ 0 → exec read s = .next { s with out := .unsupported :: s.out } ∧
        exec (.bar2Write off data en mu) s = .next s) ∧
      (s.host.d3 = false → l ≠ 0 → off.toNat + l ≤ s.apertureSize → s.ready = true →
        (s.b2En = false → ∃ t, exec read s = .next t ∧ t.out = .hostRead (List.replicate l 0xFF#8) false :: s.out ∧
          t = { s with io := t.io, out := t.out }) ∧
        (s.b2En = true → l + a % 2048 ≤ 2048 →
          (s.site 4 0 s.b2Ctx .rd a = .error r → ∃ t, exec clean s = .next t ∧ t.flag .pci 0x010 0 = true ∧
            t.out.head? = some (.hostRead (List.replicate l 0xFF#8) false) ∧ t.mem = s.mem ∧
            (s.flag .pci 0x114 31 = false → r < 256 → t.flag .pci 0x114 31 = true ∧ t.field .pci 0x114 23 16 = r ∧
              t.reg .pci 0x110 = w32 a)) ∧
          (s.site 4 0 s.b2Ctx .rd a = .ok (.here key) → (∀ i < l, s.unwritten 0 ((a + i) % 2 ^ 43) = false) →
            ∃ t, exec clean s = .next t ∧ t.out.head? = some (.hostRead ((s.keyBytes key l).map Prod.fst) ((s.keyBytes key l).any Prod.snd)) ∧
            ((s.keyBytes key l).any Prod.snd = true → t.flag .pci 0x010 1 = true) ∧ t.mem = s.mem))) ∧
      (s.host.d3 = false → off.toNat + data.length ≤ s.apertureSize → s.ready = true → en.length = data.length →
        data.length + a % 2048 ≤ 2048 →
        (s.b2En = false → ∃ t, exec (.bar2Write off data en mu) s = .next t ∧ t = { s with io := t.io }) ∧
        (s.b2En = true → s.site 4 0 s.b2Ctx .wr a = .ok (.here key) → s.mem.astray = [] →
          s.rangePoison key data.length = false → (∀ i < data.length, s.dmaDest none false ((a + i) % 2 ^ 43) = false) →
          ∃ t, exec (.bar2Write off data en {}) s = .next t ∧ (∀ x, t.hbmByte x = if key ≤ x ∧ x < key + data.length ∧ en.getD (x - key) false = true then data.getD (x - key) 0
            else s.hbmByte x) ∧ t.tallies = s.tallies) ∧
        (s.b2En = true → s.site 4 0 s.b2Ctx .wr a = .error r → r ≠ 0 → (∃ i : Nat, en[i]? = some true) →
          ∃ t, exec (.bar2Write off data en {}) s = .next t ∧ t.mem = s.mem ∧ t.flag .pci 0x010 0 = true)) ∧
      (s.host.d3 = false → s.bootDone = false → s.bootFail = false → l ≠ 0 → off.toNat + l ≤ s.apertureSize →
        (∃ t, exec read s = .next t ∧ t.out = .hostRead (List.replicate l 0#8) false :: s.out) ∧
        ∃ t, exec (.bar2Write off data en mu) s = .next t ∧ t.mem = s.mem) ∧
      (s.host.d3 = false → vec.toNat < 225 → s.io.msixMask = false → ∃ t, exec (.msixUnmask vec) s = .next t ∧
        t.vectorMasked vec.toNat = false ∧ t.io.pba.has vec.toNat = false ∧
        t.out = (if s.io.pba.has vec.toNat && s.vectorCond vec.toNat then .msix vec.toNat :: s.out else s.out)) ∧
      (∃ t, exec (.configurationWrite (.power m)) s = .next t ∧ t.host.d3 = m ∧ t = { s with host := t.host }) ∧
      (∃ t, exec (.configurationWrite (.barSize size)) s = .next t ∧ t.apertureSize = 2 ^ (38 + size.val) ∧ t = { s with host := t.host }) ∧
      ∃ t, exec (.configurationWrite (.functionMask m)) s = .next t ∧ t.io.msixMask = m ∧ t = { s with io := t.io, out := t.out }) ∧
    (bitOf c 31 = true → reached ∨ s.host.due.has n.val = true → ∃ t, exec (.tallyNoticeFire n) s = .next t ∧ t.flag .pci (0x200 + 4 * n.val) 31 = false ∧
      (if s.vectorMasked (161 + n.val) then t.io.pba.has (161 + n.val) = true else t.out = .msix (161 + n.val) :: s.out) ∧
      t.tallies = s.tallies) ∧
    (bitOf c 31 = false ∨ ¬(reached ∨ s.host.due.has n.val = true) → exec (.tallyNoticeFire n) s = .next s) ∧
    (s.plat.held = false → s.host.linkUp = false →
      (s.plat.pcie.st = .stable → ∃ t, exec (.pcieLinkUp rate width flit) s = .next t ∧ t.host.linkUp = true ∧
        t.field .pci 0x100 31 28 = rate.val + 1 ∧ t.field .pci 0x100 20 16 = 2 ^ width.val ∧
        t.flag .pci 0x100 27 = (flit || decide (rate.val = 5))) ∧
      (s.plat.pcie.st ≠ .stable → exec (.pcieLinkUp rate width flit) s = .next s)) ∧
    (s.host.linkUp = true → s.plat.held = false → exec .atomicopRequest s = .next { s with out := .unsupported :: s.out })

/-- The SMBus target (R506, R507) and boundary scan (R540): each read answers its register's bytes, with one byte more where the packet
error code is read; the limit is written unless the code is wrong or missing; a command that does not exist sets `BAD_CMD`; in reset
nothing is acknowledged. A TAP instruction that acts only while PERST# is asserted acts as BYPASS at other times. The value of the
packet error code and the form of the address byte are the model's (log entry 67). -/
def Obligations.SidebandAnswers : Prop :=
  ∀ (s : State) (w : BitVec 16) (pec : Pec) (code : Byte) (ls pre : List Bool),
    let floors := 64 < s.powerFloor ∨ ∃ k < 4, 64 < s.thermalFloor k
    let status := s.bootDone.toNat * 128 + s.bootFail.toNat * 64 + s.mgmt.asked % 8 * 8 + (s.flag .smb 0x108 0).toNat * 4 +
      (s.flag .thm 0x010 1).toNat * 2
    let temps := s.field .thm 0x10C 15 8 :: s.field .thm 0x10C 7 0 :: (List.range 4).map fun k => s.field .thm 0x104 (8 * k + 7) (8 * k)
    (s.plat.held = false →
      (∀ x ∈ [(Instr.smbPower, leBytes 2 (s.field .pwr 0x104 31 16)),
          (Instr.smbEscCause, leBytes 1 (s.field .dev 0x00C 28 24)),
          (Instr.smbPosition, leBytes 2 (s.field .stp 0x104 12 0 + (s.flag .stp 0x104 30).toNat * 2 ^ 15)),
          (Instr.smbIdDigest, leBytes 1 32 ++ (List.range 8).flatMap fun i => beBytes 4 (s.reg .sec (0x120 + 4 * i)).toNat),
          (Instr.smbSvn, leBytes 1 (s.field .sec 0x140 6 0)), (Instr.smbTrayLimitRead, leBytes 2 (s.field .smb 0x10C 15 0))],
        (∃ t, exec (x.1 false) s = .next t ∧ t.out = .smb x.2 :: s.out ∧ t = { s with io := t.io, out := t.out }) ∧
        ∃ t c, exec (x.1 true) s = .next t ∧ t.out = .smb (x.2 ++ [c]) :: s.out ∧ t = { s with io := t.io, out := t.out }) ∧
      (∀ f : Nat, (floors → f = 1) → (¬floors → f = 0) → ∃ t, exec (.smbStatus false) s = .next t ∧
        t.out = .smb (leBytes 1 (status + f)) :: s.out ∧ t = { s with io := t.io, out := t.out }) ∧
      (∃ t x, exec (.smbTemp false) s = .next t ∧ t.out = .smb (leBytes 1 x) :: s.out ∧ x ∈ temps ∧ ∀ y ∈ temps, y ≤ x) ∧
      (pec = .wrong ∨ (pec = .missing ∧ s.flag .smb 0x104 0 = true) → ∃ t, exec (.smbTrayLimitWrite w pec) s = .next t ∧
        t.flag .smb 0x010 1 = true ∧ t.reg .smb 0x10C = s.reg .smb 0x10C ∧ t.out.head? = some .smbNack) ∧
      (pec = .good ∨ (pec = .missing ∧ s.flag .smb 0x104 0 = false) → ∃ t, exec (.smbTrayLimitWrite w pec) s = .next t ∧
        t.reg .smb 0x10C = w32 w.toNat ∧ t.out = .smb [] :: s.out ∧ t = { s with io := t.io, out := t.out }) ∧
      (6 < code.toNat → code.toNat ≠ 0x10 → ∃ t, exec (.smbBadCommand code) s = .next t ∧ t.flag .smb 0x010 0 = true ∧
        t.out.head? = some .smbNack ∧ t = { s with io := t.io, out := t.out }) ∧
      ∃ t, exec .smbAlertResponse s = .next t ∧ t.out = .smb (leBytes 1 (2 * s.field .smb 0x100 6 0)) :: s.out) ∧
    (s.plat.held = true → ∀ b, ∀ i ∈ [Instr.smbStatus b, .smbTemp b, .smbPower b, .smbEscCause b, .smbPosition b, .smbIdDigest b,
        .smbSvn b, .smbTrayLimitRead b, .smbTrayLimitWrite w pec, .smbBadCommand code, .smbAlertResponse],
      exec i s = .next { s with out := .smbNack :: s.out }) ∧
    (s.railsGood = true →
      (∃ t, exec .jtagBypass s = .next t ∧ t.plat.tap = .bypass ∧ t = { s with plat := t.plat }) ∧
      (∃ t, exec (.jtagSamplePreload ls pre) s = .next t ∧ t.plat.tap = .sample ∧ t.plat.bsr = pre.take 108 ∧
        t.out = .tdo (ls.take 108) :: s.out ∧ t = { s with plat := t.plat, out := t.out }) ∧
      ∀ x ∈ [(Instr.jtagExtest, TapMode.extest, Out.lands s.plat.bsr), (.jtagClamp, .clamp, .lands s.plat.bsr),
          (.jtagHighz, .highz, .highZ)],
        (s.plat.perst = true → ∃ t, exec x.1 s = .next t ∧ t.plat.tap = x.2.1 ∧ t.out = x.2.2 :: s.out ∧
          t = { s with plat := t.plat, out := t.out }) ∧
        (s.plat.perst = false → ∃ t, exec x.1 s = .next t ∧ t.plat.tap = .bypass ∧ t = { s with plat := t.plat }))

/-! ### What completes (tier 1): the own effect of commands that the statements above say more about -/

/-- Die-to-die links and stacks (R13, R28, R172, R205): a transfer that succeeds after at most sixteen failures counts them; the links
that were not lost carry traffic; a stack trains and fills, its fill ends and it is ready; an enabled scrubber reads the next
granule.

The mailbox, the log, the seed, the digest engine, Cairn and the fuses (R447, R449, R452, R464, R465, R517, R518). -/
def Obligations.LinksStacksAndServicesComplete : Prop :=
  (∀ (s : State) (l : Fin 13) (f : Fin 18) (k : Fin 8) (lanes : BitVec 8) (e : Ecc),
    (s.mem.d2dUp.has l.val = true → f.val ≤ 16 → ∃ t, exec (.d2dTransferRetry l f) s = .next t ∧
      t.reg .dev (0x118 + 4 * l.val) = satAdd32 (s.reg .dev (0x118 + 4 * l.val)) f.val ∧ t.mem = s.mem) ∧
    (s.plat.held = false → s.mem.d2dDown.has l.val = false → ∃ t, exec .d2dLinksTrained s = .next t ∧
      t.mem.d2dUp.has l.val = true) ∧
    (s.plat.held = false → s.mem.ready.has k.val = false → s.mem.failed.has k.val = false → s.mem.filling.has k.val = false →
      ∃ t, exec (.hbmTrainFill k true lanes) s = .next t ∧ t.mem.filling.has k.val = true ∧
        t.reg (.hbm2 k.val) 0x104 = w32 lanes.toNat) ∧
    (s.mem.filling.has k.val = true → ∃ t, exec (.hbmFillDone k) s = .next t ∧ t.mem.ready.has k.val = true ∧
      t.mem.filling.has k.val = false) ∧
    (s.flag (.hbm k.val) 0x100 0 = true → s.mem.ready.has k.val = true → s.hbmSleeps = false →
      ∃ t, exec (.hbmScrubRead k e) s = .next t ∧ Table.get (fun _ => 0) t.mem.scrub k.val =
        (Table.get (fun _ => 0) s.mem.scrub k.val + 1) % (5120 * 2 ^ 18))) ∧
  (∀ (s : State) (v : W32) (d : Dig) (i : BitVec 8) (c : Check) (j : Nat),
    (s.plat.held = false → s.asleep = false → bitOf v 31 = true → fld v 1 0 < 3 → s.bootDone = true → s.bootFail = false →
      s.mgmt.mbox.length < 16 → ∃ t, exec (.mailboxGo v) s = .next t ∧ t.mgmt.mbox.length = s.mgmt.mbox.length + 1) ∧
    (s.ready = true → s.pageSealed .uhl = false → bitOf v 31 = false → ∃ t, exec (.uhlClear v) s = .next t ∧
      t.reg .uhl 0x150 = w32 (fld v 11 0)) ∧
    (s.ready = true → s.pageSealed .chkG = false → ∃ t, exec (.chkSeedWrite v) s = .next t ∧ t.reg .chkG 0x104 = v) ∧
    (s.ready = true → bitOf v 0 = true → s.dig = none → ∃ t, exec (.digestEngineStart v) s = .next t ∧ t.dig.isSome = true) ∧
    (s.dig = some d → ∃ t, exec .digestEngineDone s = .next t ∧ t.dig = none ∧ t.reg .chkG 0x128 = d.step) ∧
    (s.checks[i.toNat]? = some c → c.ph = .waitPair → s.cairnServes c.chk = false → s.cairnPair c.chk = some j → ∃ t,
      exec (.cairnPairBorrow i) s = .next t ∧
        t.checks[i.toNat]? = some { c with ph := .recompute, checker := some (c.chk, 2 * j) }) ∧
    (s.checks[i.toNat]? = some c → c.ph = .waitPair → ∃ t, exec (.cairnAcqTimeout i) s = .next t ∧ c ∉ t.checks) ∧
    (s.checks[i.toNat]? = some c → c.ph = .recompute → s.cairnSourceDone c = true → ∃ t,
      exec (.cairnRecomputeDone i .equal) s = .next t ∧ c ∉ t.checks) ∧
    (s.checks[i.toNat]? = some c → c.ph = .arbitrate → ∃ t, exec (.cairnArbiterDone i .checker) s = .next t ∧ c ∉ t.checks) ∧
    (s.plat.held = false → s.asleep = false → s.bootFail = false → s.boot.tried = true → s.flag .boot 0x100 28 = false →
      s.board.fuses < s.field .boot 0x100 7 0 → ∃ t, exec (.svnCommit v none) s = .next t ∧
        t.board.fuses = s.field .boot 0x100 7 0))

/-- Ports (R286, R289, R291, R302, R305, R306, R309 to R314): every command of a port that finds it in the state it needs has its
effect. -/
def Obligations.PortCommandsComplete : Prop :=
  ∀ (s : State) (port : Fin 36) (k : Port) (nonce sig key : List Byte) (g2 : Bool) (h : Hello) (v : W32) (count : W64)
      (rest : List W64) (idx : BitVec 8) (f : Flit) (ack : BitVec 16), k = s.port port.val →
    let p := port.val
    (s.fab.disc = true → s.field (.prt p) 0x100 1 0 ≠ 0 → k.st = .down → ∃ t,
      exec (.portTrainAttempt port true g2 nonce) s = .next t ∧ (t.port p).st = .hello ∧ (t.port p).nonce = nonce) ∧
    (k.st = .hello → fld h.pos 29 21 ≠ s.myGroup → ∃ t, exec (.helloReceive port h) s = .next t ∧ (t.port p).st = .attest) ∧
    (k.st = .attest → k.peer = some h → k.verdict < 3 → sig.length = 17088 → key.length = 32 → sha256 key = s.planId p →
      ∃ t, exec (.admitReceive port sig key) s = .next t ∧
        (t.port p).st = if Config.slhVerify key admitContext (admitMessage (Config.helloBytes h.pos h.gen.val h.nonce)
          (Config.helloBytes (s.myPos p) k.ownGen k.nonce)) sig then .up else .fenced) ∧
    (k.st = .attest → ∃ t, exec (.admitTimeout port) s = .next t ∧ (t.port p).st = .fenced ∧ (t.port p).cause = 5) ∧
    (s.ready = true → bitOf v 0 = true → ∃ t, exec (.discStart v) s = .next t ∧ t.fab.discDone = !t.fab.disc) ∧
    (s.fab.disc = true → ∃ t, exec .discTimeout s = .next t ∧ t.fab.disc = false ∧ t.fab.discDone = true) ∧
    (k.st = .up → ∃ t, exec (.probeSend port) s = .next t ∧ (t.port p).probes = k.probes ++ [t.refcnt]) ∧
    (k.st = .up → k.ctlq = [] → k.replay.length < 256 → ∃ t, exec (.probeReceive port count) s = .next t ∧
      .flit p (k.sendFlit 4 2 0 [valueSlot count]).2 ∈ t.out) ∧
    (count ∈ k.probes → (s.refcnt - count).toNat ≤ s.field (.prt p) 0x110 19 8 * 100 → ∃ t,
      exec (.probeReplyReceive port count) s = .next t ∧ t.reg (.prt p) 0x12C = w32 (s.refcnt - count).toNat) ∧
    (k.probes = count :: rest → ∃ t, exec (.probeMiss port) s = .next t ∧
      t.reg (.prt p) 0x13C = satAdd32 (s.reg (.prt p) 0x13C) 1) ∧
    (k.st = .up → ∃ t, exec (.lossOfLight port) s = .next t ∧ (t.port p).st ≠ .up) ∧
    (k.st = .up → (∃ e ∈ k.txq, k.credit e.cls e.vc = 0) → ∃ t, exec (.starveEpisode port) s = .next t ∧
      t.reg (.prt p) 0x138 = satAdd32 (s.reg (.prt p) 0x138) 1) ∧
    (∃ t, exec (.fenceWindowExpire port) s = .next t ∧ (t.port p).retryW = 0 ∧ (t.port p).malfW = 0 ∧ (t.port p).starveW = 0) ∧
    (∃ t, exec (.rateIntervalExpire port) s = .next t ∧ (t.port p).hdrs = 0) ∧
    (k.st = .up → portRole (s.portAs p) = 0 → s.mateOf (portIndex (s.portAs p)) = idx.toNat / 16 → ∃ t,
      exec (.linkMapUpdate port idx v) s = .next t ∧ fld (Table.get (fun _ => 0) t.fab.lmap idx.toNat) 31 11 = fld v 31 11) ∧
    (s.ready = true → k.st = .quarantine → fld v 3 1 = 0 → k.attOk = true → s.admitDigest p = true → ∃ t,
      exec (.portCtlAdmit port v) s = .next t ∧ (t.port p).st = .up) ∧
    (s.ready = true → k.st ≠ .disabled → k.st ≠ .fenced → ∃ t, exec (.portCtlFence port v) s = .next t ∧ (t.port p).st = .fenced) ∧
    (s.ready = true → k.st = .fenced → s.posBad = false → bitOf v 3 = false → ∃ t, exec (.portCtlUnfence port v) s = .next t ∧
      (t.port p).st = .training) ∧
    (s.ready = true → k.st = .up → bitOf v 3 = false → ∃ t, exec (.portCtlRetrain port v) s = .next t ∧
      (t.port p).st = .training) ∧
    (s.ready = true → s.pageSealed (.prt p) = false → bitOf v 15 = false → ∃ t, exec (.portCfgWrite port v) s = .next t ∧
      t.field (.prt p) 0x100 1 0 = fld v 1 0) ∧
    (k.st = .up → crc64 (flBytes f) = f.crc.toNat → flType f = 1 → flSeq f = (k.rxSeq + 1) % 65536 → k.flBad f = false → ∃ t,
      exec (.flitReceive port f) s = .next t ∧ (t.port p).rxSeq = flSeq f) ∧
    (k.st = .up → (k.acked ack.toNat).replay ≠ [] → (∀ r ∈ (k.acked ack.toNat).replay, r.resent < 16) →
      k.retryW + 1 ≤ s.field (.prt p) 0x11C 31 24 → ∃ t, exec (.nakReceive port ack) s = .next t ∧
        (t.port p).retryW = k.retryW + 1)

/-- Clocks, supplies, power, heat, reset and boot (R476, R479 to R483, R484, R486 to R488, R489, R492, R493, R509, R514, R536, R539). -/
def Obligations.PlatformCommandsComplete : Prop :=
  ∀ (s : State) (a b c : W32) (e : BitVec 16) (i : Fin 125) (k : Fin 4) (n : BitVec 40) (rs es hs : List (Option Byte))
      (short long : BitVec 16) (rail : Fin 11) (straps : BitVec 14) (silent : Bool),
    (s.railsGood = true → ∃ t, exec (.clockMonitorWindow a b c) s = .next t ∧ t.reg .clk 0x108 = a ∧ t.reg .clk 0x10C = b ∧
      t.reg .clk 0x110 = c) ∧
    (s.railsGood = true → s.plat.watch.st = .stable → e.toNat < 192 → ∃ t, exec (.clockFastTest false e) s = .next t ∧
      t.plat.core.st = .lost) ∧
    (s.railsGood = true → ∃ t, exec .watchOscEdgeTimeout s = .next t ∧ t.plat.watch.st = .lost) ∧
    (s.plat.held = false → s.plat.pcie.st = .stable → s.islReserve 122 = true → s.flag .clk 0x100 0 = true → ∃ t,
      exec (.clockReturn .pcie) s = .next t ∧ t.islReserve 122 = false) ∧
    (s.plat.held = false → islPll i.val ≠ 0 → s.islReserve i.val = false → s.islCur i.val < s.islCode i.val → ∃ t,
      exec (.dividerRampStep i) s = .next t ∧ t.islCur i.val = (s.islCur i.val + 1) % 1024) ∧
    (s.plat.vWait.has k.val = true → (∃ t, exec (.avsVoltageAck k) s = .next t ∧ t.plat.vWait.has k.val = false) ∧
      ∃ t, exec (.avsTimeout k) s = .next t ∧ t.flag .pwr 0x010 0 = true) ∧
    (s.asleep = false → s.flag .clk 0x118 29 = false → ∃ t, exec .fmcGo s = .next t ∧ t.reg .clk 0x124 = 0#32) ∧
    (s.flag .clk 0x118 29 = true → (∃ t, exec (.fmcDone n) s = .next t ∧ t.flag .clk 0x118 28 = true) ∧
      (s.asleep = false → ∃ t, exec .fmcAbort s = .next t ∧ t.flag .clk 0x118 29 = false)) ∧
    (s.plat.held = false → s.flag .pwr 0x008 16 = true → s.dieQuiet k.val = true → ∃ t, exec (.dieIdleEntry k) s = .next t ∧
      t.plat.idle.has k.val = true) ∧
    (s.plat.held = false → (∀ x ∈ (rs.take 64 ++ es.take 4).filterMap id, x.toNat < 125) → ∃ t,
      exec (.thermalTick rs es hs) s = .next t ∧ t.elapsed s.plat.thmAt 10000 = true) ∧
    (s.plat.held = false → ∃ t, exec (.powerTick short long) s = .next t ∧ t.field .pwr 0x104 31 16 = long.toNat) ∧
    (∃ t, exec (.railOutOfWindow rail) s = .next t ∧ t.plat.railsOut.has rail.val = true) ∧
    (∃ t, exec (.railsInWindow rail) s = .next t ∧ t.plat.railsOut.has rail.val = false) ∧
    (s.plat.held = true → s.railsGood = true → s.plat.trip = false →
      (s.plat.core.st = .stable → s.plat.pcie.st = .stable → s.plat.watch.st = .stable → ∃ t,
        exec (.resetRelease straps) s = .next t ∧ t.plat.held = false) ∧
      (s.plat.core.st ≠ .stable → ∃ t, exec (.forcedResetRelease straps) s = .next t ∧ t.plat.held = false)) ∧
    (s.plat.held = false → (∃ t, exec (.flashResetRelease silent) s = .next t ∧ t.boot.flashUp = true) ∧
      (s.boot.flashUp = true → s.boot.tried = false → ∃ t, exec .bootSlotVerify s = .next t ∧ t.boot.tried = true) ∧
      (s.boot.tried = true → s.bootFail = false → s.bootDone = false → s.mem.pmapReady = true → ∃ t,
        exec .bootReady s = .next t ∧ t.bootDone = true) ∧
      (s.field .stp 0x100 13 0 ≠ straps.toNat → ∃ t, exec (.strapCompare straps) s = .next t ∧ t.flag .stp 0x010 1 = true))

/-- The host, the SMBus target and boundary scan (R499, R500, R502, R504, R505, R506, R507, R540). -/
def Obligations.HostAndSidebandComplete : Prop :=
  ∀ (s : State) (off : BitVec 40) (len : BitVec 13) (key : Nat) (byte : Byte) (vec : BitVec 8) (n : Fin 64) (rate : Fin 6)
      (width : Fin 5) (flit b : Bool) (w : BitVec 16) (code : Byte) (ls pre : List Bool),
    let a := s.b2Addr off.toNat
    let c := s.reg .pci (0x200 + 4 * n.val)
    (s.hostOpen = true → s.ready = true → s.b2En = true →
      (len ≠ 0 → off.toNat + len.toNat ≤ s.apertureSize → len.toNat + a % 2048 ≤ 2048 → s.site 4 0 s.b2Ctx .rd a = .ok (.here key) →
        (∀ i < len.toNat, s.unwritten 0 ((a + i) % 2 ^ 43) = false) → ∃ t, exec (.bar2Read off len {}) s = .next t ∧
          t.out.head? = some (.hostRead ((s.keyBytes key len.toNat).map Prod.fst) ((s.keyBytes key len.toNat).any Prod.snd))) ∧
      (off.toNat + 1 ≤ s.apertureSize → s.site 4 0 s.b2Ctx .wr a = .ok (.here key) → s.mem.astray = [] →
        s.granPoison (key / 64) = false → s.dmaDest none false a = false →
        ∃ t, exec (.bar2Write off [byte] [true] {}) s = .next t ∧ t.hbmByte key = byte)) ∧
    (s.hostOpen = true → vec.toNat < 225 → s.io.msixMask = false → ∃ t, exec (.msixUnmask vec) s = .next t ∧
      t.vectorMasked vec.toNat = false) ∧
    (bitOf c 31 = true → tallyReached (s.tally (fld c 11 0)) (s.reg .pci (0x300 + 4 * n.val)) = true → ∃ t,
      exec (.tallyNoticeFire n) s = .next t ∧ t.flag .pci (0x200 + 4 * n.val) 31 = false) ∧
    (s.plat.held = false → s.host.linkUp = false → s.plat.pcie.st = .stable → ∃ t,
      exec (.pcieLinkUp rate width flit) s = .next t ∧ t.host.linkUp = true) ∧
    (s.plat.held = false → s.host.linkUp = true → ∃ t, exec (.configurationWrite (.power b)) s = .next t ∧ t.host.d3 = b) ∧
    (s.host.linkUp = true → s.plat.held = false → ∃ t, exec .atomicopRequest s = .next t ∧ t.out = .unsupported :: s.out) ∧
    (s.plat.held = false → (∀ i ∈ [Instr.smbStatus b, .smbTemp b, .smbPower b, .smbEscCause b, .smbPosition b, .smbIdDigest b,
        .smbSvn b, .smbTrayLimitRead b, .smbAlertResponse], ∃ t bs, exec i s = .next t ∧ t.out = .smb bs :: s.out ∧ bs ≠ []) ∧
      (∃ t, exec (.smbTrayLimitWrite w .good) s = .next t ∧ t.reg .smb 0x10C = w32 w.toNat) ∧
      (6 < code.toNat → code.toNat ≠ 0x10 → ∃ t, exec (.smbBadCommand code) s = .next t ∧ t.flag .smb 0x010 0 = true)) ∧
    (s.railsGood = true → (∃ t, exec .jtagBypass s = .next t ∧ t.plat.tap = .bypass) ∧
      (∃ t, exec (.jtagSamplePreload ls pre) s = .next t ∧ t.plat.tap = .sample ∧ t.plat.bsr = pre.take 108) ∧
      (s.plat.perst = true → (∃ t, exec .jtagExtest s = .next t ∧ t.plat.tap = .extest) ∧
        (∃ t, exec .jtagClamp s = .next t ∧ t.plat.tap = .clamp) ∧ ∃ t, exec .jtagHighz s = .next t ∧ t.plat.tap = .highz))

/-! ### What every step keeps -/

/-- Every step keeps the invariant of memory: bytes, poison, marks and the Page Map are in their canonical form; the two Page Map
copies agree (R9, R185); a stack is at most one of filling, ready and failed (R172); the Page Map serves only once every stack is
ready or has failed (R183); a pending batch has 1 to 4,096 records, each naming an entry of the map (R186); a die-to-die link is not
both up and down (R13). The canonical form is the model's own. -/
def Obligations.MemoryKeepsItsForm : Prop :=
  ∀ s t : State, s.MemInv → step s = .next t → t.MemInv

/-- The memory of the state after reset meets that invariant. -/
def Obligations.ResetMemoryKeepsItsForm : Prop :=
  State.reset.MemInv
end

