-- ==== Sys2Proof/Laws/State.lean ====
section
/-! SUPPORT. What the named updates of the state leave alone: one lemma for each field and update. -/
namespace Sys2Proof.Machine

/-- A fold keeps what each of its steps keeps. -/
theorem foldl_keeps {α β : Type} (g : State → β) {f : State → α → State} (h : ∀ t x, g (f t x) = g t) (l : List α) (s : State) :
    g (l.foldl f s) = g s := by
  induction l generalizing s with
  | nil => rfl
  | cons a l ih => exact (ih (f s a)).trans (h s a)

/-! ### setReg -/

@[simp] theorem State.setReg_pending (s : State) (p : Page) (off : Nat) (v : W32) :
    (s.setReg p off v).pending = s.pending := rfl
@[simp] theorem State.setReg_out (s : State) (p : Page) (off : Nat) (v : W32) :
    (s.setReg p off v).out = s.out := rfl
@[simp] theorem State.setReg_free (s : State) (p : Page) (off : Nat) (v : W32) :
    (s.setReg p off v).free = s.free := rfl
@[simp] theorem State.setReg_refcnt (s : State) (p : Page) (off : Nat) (v : W32) :
    (s.setReg p off v).refcnt = s.refcnt := rfl
@[simp] theorem State.setReg_mem (s : State) (p : Page) (off : Nat) (v : W32) :
    (s.setReg p off v).mem = s.mem := rfl
@[simp] theorem State.setReg_cores (s : State) (p : Page) (off : Nat) (v : W32) :
    (s.setReg p off v).cores = s.cores := rfl
@[simp] theorem State.setReg_wins (s : State) (p : Page) (off : Nat) (v : W32) :
    (s.setReg p off v).wins = s.wins := rfl
@[simp] theorem State.setReg_winTurn (s : State) (p : Page) (off : Nat) (v : W32) :
    (s.setReg p off v).winTurn = s.winTurn := rfl
@[simp] theorem State.setReg_tallies (s : State) (p : Page) (off : Nat) (v : W32) :
    (s.setReg p off v).tallies = s.tallies := rfl
@[simp] theorem State.setReg_dies (s : State) (p : Page) (off : Nat) (v : W32) :
    (s.setReg p off v).dies = s.dies := rfl
@[simp] theorem State.setReg_opNum (s : State) (p : Page) (off : Nat) (v : W32) :
    (s.setReg p off v).opNum = s.opNum := rfl
@[simp] theorem State.setReg_ridges (s : State) (p : Page) (off : Nat) (v : W32) :
    (s.setReg p off v).ridges = s.ridges := rfl
@[simp] theorem State.setReg_dmas (s : State) (p : Page) (off : Nat) (v : W32) :
    (s.setReg p off v).dmas = s.dmas := rfl
@[simp] theorem State.setReg_ports (s : State) (p : Page) (off : Nat) (v : W32) :
    (s.setReg p off v).ports = s.ports := rfl
@[simp] theorem State.setReg_fab (s : State) (p : Page) (off : Nat) (v : W32) :
    (s.setReg p off v).fab = s.fab := rfl
@[simp] theorem State.setReg_cfls (s : State) (p : Page) (off : Nat) (v : W32) :
    (s.setReg p off v).cfls = s.cfls := rfl
@[simp] theorem State.setReg_treads (s : State) (p : Page) (off : Nat) (v : W32) :
    (s.setReg p off v).treads = s.treads := rfl
@[simp] theorem State.setReg_stepm (s : State) (p : Page) (off : Nat) (v : W32) :
    (s.setReg p off v).stepm = s.stepm := rfl
@[simp] theorem State.setReg_oxb (s : State) (p : Page) (off : Nat) (v : W32) :
    (s.setReg p off v).oxb = s.oxb := rfl
@[simp] theorem State.setReg_dig (s : State) (p : Page) (off : Nat) (v : W32) :
    (s.setReg p off v).dig = s.dig := rfl
@[simp] theorem State.setReg_board (s : State) (p : Page) (off : Nat) (v : W32) :
    (s.setReg p off v).board = s.board := rfl
@[simp] theorem State.setReg_mgmt (s : State) (p : Page) (off : Nat) (v : W32) :
    (s.setReg p off v).mgmt = s.mgmt := rfl
@[simp] theorem State.setReg_lad (s : State) (p : Page) (off : Nat) (v : W32) :
    (s.setReg p off v).lad = s.lad := rfl
@[simp] theorem State.setReg_host (s : State) (p : Page) (off : Nat) (v : W32) :
    (s.setReg p off v).host = s.host := rfl
@[simp] theorem State.setReg_plat (s : State) (p : Page) (off : Nat) (v : W32) :
    (s.setReg p off v).plat = s.plat := rfl
@[simp] theorem State.setReg_boot (s : State) (p : Page) (off : Nat) (v : W32) :
    (s.setReg p off v).boot = s.boot := rfl
@[simp] theorem State.setReg_checks (s : State) (p : Page) (off : Nat) (v : W32) :
    (s.setReg p off v).checks = s.checks := rfl
@[simp] theorem State.setReg_transit (s : State) (p : Page) (off : Nat) (v : W32) :
    (s.setReg p off v).transit = s.transit := rfl
@[simp] theorem State.setReg_fwait (s : State) (p : Page) (off : Nat) (v : W32) :
    (s.setReg p off v).fwait = s.fwait := rfl
@[simp] theorem State.setReg_faulted (s : State) (p : Page) (off : Nat) (v : W32) :
    (s.setReg p off v).faulted = s.faulted := rfl

/-! ### setReg64 -/

@[simp] theorem State.setReg64_pending (s : State) (p : Page) (off : Nat) (v : W64) :
    (s.setReg64 p off v).pending = s.pending := rfl
@[simp] theorem State.setReg64_out (s : State) (p : Page) (off : Nat) (v : W64) :
    (s.setReg64 p off v).out = s.out := rfl
@[simp] theorem State.setReg64_free (s : State) (p : Page) (off : Nat) (v : W64) :
    (s.setReg64 p off v).free = s.free := rfl
@[simp] theorem State.setReg64_refcnt (s : State) (p : Page) (off : Nat) (v : W64) :
    (s.setReg64 p off v).refcnt = s.refcnt := rfl
@[simp] theorem State.setReg64_mem (s : State) (p : Page) (off : Nat) (v : W64) :
    (s.setReg64 p off v).mem = s.mem := rfl
@[simp] theorem State.setReg64_cores (s : State) (p : Page) (off : Nat) (v : W64) :
    (s.setReg64 p off v).cores = s.cores := rfl
@[simp] theorem State.setReg64_wins (s : State) (p : Page) (off : Nat) (v : W64) :
    (s.setReg64 p off v).wins = s.wins := rfl
@[simp] theorem State.setReg64_winTurn (s : State) (p : Page) (off : Nat) (v : W64) :
    (s.setReg64 p off v).winTurn = s.winTurn := rfl
@[simp] theorem State.setReg64_tallies (s : State) (p : Page) (off : Nat) (v : W64) :
    (s.setReg64 p off v).tallies = s.tallies := rfl
@[simp] theorem State.setReg64_dies (s : State) (p : Page) (off : Nat) (v : W64) :
    (s.setReg64 p off v).dies = s.dies := rfl
@[simp] theorem State.setReg64_opNum (s : State) (p : Page) (off : Nat) (v : W64) :
    (s.setReg64 p off v).opNum = s.opNum := rfl
@[simp] theorem State.setReg64_ridges (s : State) (p : Page) (off : Nat) (v : W64) :
    (s.setReg64 p off v).ridges = s.ridges := rfl
@[simp] theorem State.setReg64_dmas (s : State) (p : Page) (off : Nat) (v : W64) :
    (s.setReg64 p off v).dmas = s.dmas := rfl
@[simp] theorem State.setReg64_ports (s : State) (p : Page) (off : Nat) (v : W64) :
    (s.setReg64 p off v).ports = s.ports := rfl
@[simp] theorem State.setReg64_fab (s : State) (p : Page) (off : Nat) (v : W64) :
    (s.setReg64 p off v).fab = s.fab := rfl
@[simp] theorem State.setReg64_cfls (s : State) (p : Page) (off : Nat) (v : W64) :
    (s.setReg64 p off v).cfls = s.cfls := rfl
@[simp] theorem State.setReg64_treads (s : State) (p : Page) (off : Nat) (v : W64) :
    (s.setReg64 p off v).treads = s.treads := rfl
@[simp] theorem State.setReg64_stepm (s : State) (p : Page) (off : Nat) (v : W64) :
    (s.setReg64 p off v).stepm = s.stepm := rfl
@[simp] theorem State.setReg64_oxb (s : State) (p : Page) (off : Nat) (v : W64) :
    (s.setReg64 p off v).oxb = s.oxb := rfl
@[simp] theorem State.setReg64_dig (s : State) (p : Page) (off : Nat) (v : W64) :
    (s.setReg64 p off v).dig = s.dig := rfl
@[simp] theorem State.setReg64_board (s : State) (p : Page) (off : Nat) (v : W64) :
    (s.setReg64 p off v).board = s.board := rfl
@[simp] theorem State.setReg64_mgmt (s : State) (p : Page) (off : Nat) (v : W64) :
    (s.setReg64 p off v).mgmt = s.mgmt := rfl
@[simp] theorem State.setReg64_lad (s : State) (p : Page) (off : Nat) (v : W64) :
    (s.setReg64 p off v).lad = s.lad := rfl
@[simp] theorem State.setReg64_host (s : State) (p : Page) (off : Nat) (v : W64) :
    (s.setReg64 p off v).host = s.host := rfl
@[simp] theorem State.setReg64_plat (s : State) (p : Page) (off : Nat) (v : W64) :
    (s.setReg64 p off v).plat = s.plat := rfl
@[simp] theorem State.setReg64_boot (s : State) (p : Page) (off : Nat) (v : W64) :
    (s.setReg64 p off v).boot = s.boot := rfl
@[simp] theorem State.setReg64_checks (s : State) (p : Page) (off : Nat) (v : W64) :
    (s.setReg64 p off v).checks = s.checks := rfl
@[simp] theorem State.setReg64_transit (s : State) (p : Page) (off : Nat) (v : W64) :
    (s.setReg64 p off v).transit = s.transit := rfl
@[simp] theorem State.setReg64_fwait (s : State) (p : Page) (off : Nat) (v : W64) :
    (s.setReg64 p off v).fwait = s.fwait := rfl
@[simp] theorem State.setReg64_faulted (s : State) (p : Page) (off : Nat) (v : W64) :
    (s.setReg64 p off v).faulted = s.faulted := rfl

/-! ### setField -/

@[simp] theorem State.setField_pending (s : State) (p : Page) (off hi lo v : Nat) :
    (s.setField p off hi lo v).pending = s.pending := rfl
@[simp] theorem State.setField_out (s : State) (p : Page) (off hi lo v : Nat) :
    (s.setField p off hi lo v).out = s.out := rfl
@[simp] theorem State.setField_free (s : State) (p : Page) (off hi lo v : Nat) :
    (s.setField p off hi lo v).free = s.free := rfl
@[simp] theorem State.setField_refcnt (s : State) (p : Page) (off hi lo v : Nat) :
    (s.setField p off hi lo v).refcnt = s.refcnt := rfl
@[simp] theorem State.setField_mem (s : State) (p : Page) (off hi lo v : Nat) :
    (s.setField p off hi lo v).mem = s.mem := rfl
@[simp] theorem State.setField_cores (s : State) (p : Page) (off hi lo v : Nat) :
    (s.setField p off hi lo v).cores = s.cores := rfl
@[simp] theorem State.setField_wins (s : State) (p : Page) (off hi lo v : Nat) :
    (s.setField p off hi lo v).wins = s.wins := rfl
@[simp] theorem State.setField_winTurn (s : State) (p : Page) (off hi lo v : Nat) :
    (s.setField p off hi lo v).winTurn = s.winTurn := rfl
@[simp] theorem State.setField_tallies (s : State) (p : Page) (off hi lo v : Nat) :
    (s.setField p off hi lo v).tallies = s.tallies := rfl
@[simp] theorem State.setField_dies (s : State) (p : Page) (off hi lo v : Nat) :
    (s.setField p off hi lo v).dies = s.dies := rfl
@[simp] theorem State.setField_opNum (s : State) (p : Page) (off hi lo v : Nat) :
    (s.setField p off hi lo v).opNum = s.opNum := rfl
@[simp] theorem State.setField_ridges (s : State) (p : Page) (off hi lo v : Nat) :
    (s.setField p off hi lo v).ridges = s.ridges := rfl
@[simp] theorem State.setField_dmas (s : State) (p : Page) (off hi lo v : Nat) :
    (s.setField p off hi lo v).dmas = s.dmas := rfl
@[simp] theorem State.setField_ports (s : State) (p : Page) (off hi lo v : Nat) :
    (s.setField p off hi lo v).ports = s.ports := rfl
@[simp] theorem State.setField_fab (s : State) (p : Page) (off hi lo v : Nat) :
    (s.setField p off hi lo v).fab = s.fab := rfl
@[simp] theorem State.setField_cfls (s : State) (p : Page) (off hi lo v : Nat) :
    (s.setField p off hi lo v).cfls = s.cfls := rfl
@[simp] theorem State.setField_treads (s : State) (p : Page) (off hi lo v : Nat) :
    (s.setField p off hi lo v).treads = s.treads := rfl
@[simp] theorem State.setField_stepm (s : State) (p : Page) (off hi lo v : Nat) :
    (s.setField p off hi lo v).stepm = s.stepm := rfl
@[simp] theorem State.setField_oxb (s : State) (p : Page) (off hi lo v : Nat) :
    (s.setField p off hi lo v).oxb = s.oxb := rfl
@[simp] theorem State.setField_dig (s : State) (p : Page) (off hi lo v : Nat) :
    (s.setField p off hi lo v).dig = s.dig := rfl
@[simp] theorem State.setField_board (s : State) (p : Page) (off hi lo v : Nat) :
    (s.setField p off hi lo v).board = s.board := rfl
@[simp] theorem State.setField_mgmt (s : State) (p : Page) (off hi lo v : Nat) :
    (s.setField p off hi lo v).mgmt = s.mgmt := rfl
@[simp] theorem State.setField_lad (s : State) (p : Page) (off hi lo v : Nat) :
    (s.setField p off hi lo v).lad = s.lad := rfl
@[simp] theorem State.setField_host (s : State) (p : Page) (off hi lo v : Nat) :
    (s.setField p off hi lo v).host = s.host := rfl
@[simp] theorem State.setField_plat (s : State) (p : Page) (off hi lo v : Nat) :
    (s.setField p off hi lo v).plat = s.plat := rfl
@[simp] theorem State.setField_boot (s : State) (p : Page) (off hi lo v : Nat) :
    (s.setField p off hi lo v).boot = s.boot := rfl
@[simp] theorem State.setField_checks (s : State) (p : Page) (off hi lo v : Nat) :
    (s.setField p off hi lo v).checks = s.checks := rfl
@[simp] theorem State.setField_transit (s : State) (p : Page) (off hi lo v : Nat) :
    (s.setField p off hi lo v).transit = s.transit := rfl
@[simp] theorem State.setField_fwait (s : State) (p : Page) (off hi lo v : Nat) :
    (s.setField p off hi lo v).fwait = s.fwait := rfl
@[simp] theorem State.setField_faulted (s : State) (p : Page) (off hi lo v : Nat) :
    (s.setField p off hi lo v).faulted = s.faulted := rfl

/-! ### setFlag -/

@[simp] theorem State.setFlag_pending (s : State) (p : Page) (off i : Nat) (b : Bool) :
    (s.setFlag p off i b).pending = s.pending := rfl
@[simp] theorem State.setFlag_out (s : State) (p : Page) (off i : Nat) (b : Bool) :
    (s.setFlag p off i b).out = s.out := rfl
@[simp] theorem State.setFlag_free (s : State) (p : Page) (off i : Nat) (b : Bool) :
    (s.setFlag p off i b).free = s.free := rfl
@[simp] theorem State.setFlag_refcnt (s : State) (p : Page) (off i : Nat) (b : Bool) :
    (s.setFlag p off i b).refcnt = s.refcnt := rfl
@[simp] theorem State.setFlag_mem (s : State) (p : Page) (off i : Nat) (b : Bool) :
    (s.setFlag p off i b).mem = s.mem := rfl
@[simp] theorem State.setFlag_cores (s : State) (p : Page) (off i : Nat) (b : Bool) :
    (s.setFlag p off i b).cores = s.cores := rfl
@[simp] theorem State.setFlag_wins (s : State) (p : Page) (off i : Nat) (b : Bool) :
    (s.setFlag p off i b).wins = s.wins := rfl
@[simp] theorem State.setFlag_winTurn (s : State) (p : Page) (off i : Nat) (b : Bool) :
    (s.setFlag p off i b).winTurn = s.winTurn := rfl
@[simp] theorem State.setFlag_tallies (s : State) (p : Page) (off i : Nat) (b : Bool) :
    (s.setFlag p off i b).tallies = s.tallies := rfl
@[simp] theorem State.setFlag_dies (s : State) (p : Page) (off i : Nat) (b : Bool) :
    (s.setFlag p off i b).dies = s.dies := rfl
@[simp] theorem State.setFlag_opNum (s : State) (p : Page) (off i : Nat) (b : Bool) :
    (s.setFlag p off i b).opNum = s.opNum := rfl
@[simp] theorem State.setFlag_ridges (s : State) (p : Page) (off i : Nat) (b : Bool) :
    (s.setFlag p off i b).ridges = s.ridges := rfl
@[simp] theorem State.setFlag_dmas (s : State) (p : Page) (off i : Nat) (b : Bool) :
    (s.setFlag p off i b).dmas = s.dmas := rfl
@[simp] theorem State.setFlag_ports (s : State) (p : Page) (off i : Nat) (b : Bool) :
    (s.setFlag p off i b).ports = s.ports := rfl
@[simp] theorem State.setFlag_fab (s : State) (p : Page) (off i : Nat) (b : Bool) :
    (s.setFlag p off i b).fab = s.fab := rfl
@[simp] theorem State.setFlag_cfls (s : State) (p : Page) (off i : Nat) (b : Bool) :
    (s.setFlag p off i b).cfls = s.cfls := rfl
@[simp] theorem State.setFlag_treads (s : State) (p : Page) (off i : Nat) (b : Bool) :
    (s.setFlag p off i b).treads = s.treads := rfl
@[simp] theorem State.setFlag_stepm (s : State) (p : Page) (off i : Nat) (b : Bool) :
    (s.setFlag p off i b).stepm = s.stepm := rfl
@[simp] theorem State.setFlag_oxb (s : State) (p : Page) (off i : Nat) (b : Bool) :
    (s.setFlag p off i b).oxb = s.oxb := rfl
@[simp] theorem State.setFlag_dig (s : State) (p : Page) (off i : Nat) (b : Bool) :
    (s.setFlag p off i b).dig = s.dig := rfl
@[simp] theorem State.setFlag_board (s : State) (p : Page) (off i : Nat) (b : Bool) :
    (s.setFlag p off i b).board = s.board := rfl
@[simp] theorem State.setFlag_mgmt (s : State) (p : Page) (off i : Nat) (b : Bool) :
    (s.setFlag p off i b).mgmt = s.mgmt := rfl
@[simp] theorem State.setFlag_lad (s : State) (p : Page) (off i : Nat) (b : Bool) :
    (s.setFlag p off i b).lad = s.lad := rfl
@[simp] theorem State.setFlag_host (s : State) (p : Page) (off i : Nat) (b : Bool) :
    (s.setFlag p off i b).host = s.host := rfl
@[simp] theorem State.setFlag_plat (s : State) (p : Page) (off i : Nat) (b : Bool) :
    (s.setFlag p off i b).plat = s.plat := rfl
@[simp] theorem State.setFlag_boot (s : State) (p : Page) (off i : Nat) (b : Bool) :
    (s.setFlag p off i b).boot = s.boot := rfl
@[simp] theorem State.setFlag_checks (s : State) (p : Page) (off i : Nat) (b : Bool) :
    (s.setFlag p off i b).checks = s.checks := rfl
@[simp] theorem State.setFlag_transit (s : State) (p : Page) (off i : Nat) (b : Bool) :
    (s.setFlag p off i b).transit = s.transit := rfl
@[simp] theorem State.setFlag_fwait (s : State) (p : Page) (off i : Nat) (b : Bool) :
    (s.setFlag p off i b).fwait = s.fwait := rfl
@[simp] theorem State.setFlag_faulted (s : State) (p : Page) (off i : Nat) (b : Bool) :
    (s.setFlag p off i b).faulted = s.faulted := rfl

/-! ### addSat -/

@[simp] theorem State.addSat_pending (s : State) (p : Page) (off n : Nat) :
    (s.addSat p off n).pending = s.pending := rfl
@[simp] theorem State.addSat_out (s : State) (p : Page) (off n : Nat) :
    (s.addSat p off n).out = s.out := rfl
@[simp] theorem State.addSat_free (s : State) (p : Page) (off n : Nat) :
    (s.addSat p off n).free = s.free := rfl
@[simp] theorem State.addSat_refcnt (s : State) (p : Page) (off n : Nat) :
    (s.addSat p off n).refcnt = s.refcnt := rfl
@[simp] theorem State.addSat_mem (s : State) (p : Page) (off n : Nat) :
    (s.addSat p off n).mem = s.mem := rfl
@[simp] theorem State.addSat_cores (s : State) (p : Page) (off n : Nat) :
    (s.addSat p off n).cores = s.cores := rfl
@[simp] theorem State.addSat_wins (s : State) (p : Page) (off n : Nat) :
    (s.addSat p off n).wins = s.wins := rfl
@[simp] theorem State.addSat_winTurn (s : State) (p : Page) (off n : Nat) :
    (s.addSat p off n).winTurn = s.winTurn := rfl
@[simp] theorem State.addSat_tallies (s : State) (p : Page) (off n : Nat) :
    (s.addSat p off n).tallies = s.tallies := rfl
@[simp] theorem State.addSat_dies (s : State) (p : Page) (off n : Nat) :
    (s.addSat p off n).dies = s.dies := rfl
@[simp] theorem State.addSat_opNum (s : State) (p : Page) (off n : Nat) :
    (s.addSat p off n).opNum = s.opNum := rfl
@[simp] theorem State.addSat_ridges (s : State) (p : Page) (off n : Nat) :
    (s.addSat p off n).ridges = s.ridges := rfl
@[simp] theorem State.addSat_dmas (s : State) (p : Page) (off n : Nat) :
    (s.addSat p off n).dmas = s.dmas := rfl
@[simp] theorem State.addSat_ports (s : State) (p : Page) (off n : Nat) :
    (s.addSat p off n).ports = s.ports := rfl
@[simp] theorem State.addSat_fab (s : State) (p : Page) (off n : Nat) :
    (s.addSat p off n).fab = s.fab := rfl
@[simp] theorem State.addSat_cfls (s : State) (p : Page) (off n : Nat) :
    (s.addSat p off n).cfls = s.cfls := rfl
@[simp] theorem State.addSat_treads (s : State) (p : Page) (off n : Nat) :
    (s.addSat p off n).treads = s.treads := rfl
@[simp] theorem State.addSat_stepm (s : State) (p : Page) (off n : Nat) :
    (s.addSat p off n).stepm = s.stepm := rfl
@[simp] theorem State.addSat_oxb (s : State) (p : Page) (off n : Nat) :
    (s.addSat p off n).oxb = s.oxb := rfl
@[simp] theorem State.addSat_dig (s : State) (p : Page) (off n : Nat) :
    (s.addSat p off n).dig = s.dig := rfl
@[simp] theorem State.addSat_board (s : State) (p : Page) (off n : Nat) :
    (s.addSat p off n).board = s.board := rfl
@[simp] theorem State.addSat_mgmt (s : State) (p : Page) (off n : Nat) :
    (s.addSat p off n).mgmt = s.mgmt := rfl
@[simp] theorem State.addSat_lad (s : State) (p : Page) (off n : Nat) :
    (s.addSat p off n).lad = s.lad := rfl
@[simp] theorem State.addSat_host (s : State) (p : Page) (off n : Nat) :
    (s.addSat p off n).host = s.host := rfl
@[simp] theorem State.addSat_plat (s : State) (p : Page) (off n : Nat) :
    (s.addSat p off n).plat = s.plat := rfl
@[simp] theorem State.addSat_boot (s : State) (p : Page) (off n : Nat) :
    (s.addSat p off n).boot = s.boot := rfl
@[simp] theorem State.addSat_checks (s : State) (p : Page) (off n : Nat) :
    (s.addSat p off n).checks = s.checks := rfl
@[simp] theorem State.addSat_transit (s : State) (p : Page) (off n : Nat) :
    (s.addSat p off n).transit = s.transit := rfl
@[simp] theorem State.addSat_fwait (s : State) (p : Page) (off n : Nat) :
    (s.addSat p off n).fwait = s.fwait := rfl
@[simp] theorem State.addSat_faulted (s : State) (p : Page) (off n : Nat) :
    (s.addSat p off n).faulted = s.faulted := rfl

/-! ### countErr -/

@[simp] theorem State.countErr_pending (s : State) (p : Page) :
    (s.countErr p).pending = s.pending := rfl
@[simp] theorem State.countErr_out (s : State) (p : Page) :
    (s.countErr p).out = s.out := rfl
@[simp] theorem State.countErr_free (s : State) (p : Page) :
    (s.countErr p).free = s.free := rfl
@[simp] theorem State.countErr_refcnt (s : State) (p : Page) :
    (s.countErr p).refcnt = s.refcnt := rfl
@[simp] theorem State.countErr_mem (s : State) (p : Page) :
    (s.countErr p).mem = s.mem := rfl
@[simp] theorem State.countErr_cores (s : State) (p : Page) :
    (s.countErr p).cores = s.cores := rfl
@[simp] theorem State.countErr_wins (s : State) (p : Page) :
    (s.countErr p).wins = s.wins := rfl
@[simp] theorem State.countErr_winTurn (s : State) (p : Page) :
    (s.countErr p).winTurn = s.winTurn := rfl
@[simp] theorem State.countErr_tallies (s : State) (p : Page) :
    (s.countErr p).tallies = s.tallies := rfl
@[simp] theorem State.countErr_dies (s : State) (p : Page) :
    (s.countErr p).dies = s.dies := rfl
@[simp] theorem State.countErr_opNum (s : State) (p : Page) :
    (s.countErr p).opNum = s.opNum := rfl
@[simp] theorem State.countErr_ridges (s : State) (p : Page) :
    (s.countErr p).ridges = s.ridges := rfl
@[simp] theorem State.countErr_dmas (s : State) (p : Page) :
    (s.countErr p).dmas = s.dmas := rfl
@[simp] theorem State.countErr_ports (s : State) (p : Page) :
    (s.countErr p).ports = s.ports := rfl
@[simp] theorem State.countErr_fab (s : State) (p : Page) :
    (s.countErr p).fab = s.fab := rfl
@[simp] theorem State.countErr_cfls (s : State) (p : Page) :
    (s.countErr p).cfls = s.cfls := rfl
@[simp] theorem State.countErr_treads (s : State) (p : Page) :
    (s.countErr p).treads = s.treads := rfl
@[simp] theorem State.countErr_stepm (s : State) (p : Page) :
    (s.countErr p).stepm = s.stepm := rfl
@[simp] theorem State.countErr_oxb (s : State) (p : Page) :
    (s.countErr p).oxb = s.oxb := rfl
@[simp] theorem State.countErr_dig (s : State) (p : Page) :
    (s.countErr p).dig = s.dig := rfl
@[simp] theorem State.countErr_board (s : State) (p : Page) :
    (s.countErr p).board = s.board := rfl
@[simp] theorem State.countErr_mgmt (s : State) (p : Page) :
    (s.countErr p).mgmt = s.mgmt := rfl
@[simp] theorem State.countErr_lad (s : State) (p : Page) :
    (s.countErr p).lad = s.lad := rfl
@[simp] theorem State.countErr_host (s : State) (p : Page) :
    (s.countErr p).host = s.host := rfl
@[simp] theorem State.countErr_plat (s : State) (p : Page) :
    (s.countErr p).plat = s.plat := rfl
@[simp] theorem State.countErr_boot (s : State) (p : Page) :
    (s.countErr p).boot = s.boot := rfl
@[simp] theorem State.countErr_checks (s : State) (p : Page) :
    (s.countErr p).checks = s.checks := rfl
@[simp] theorem State.countErr_transit (s : State) (p : Page) :
    (s.countErr p).transit = s.transit := rfl
@[simp] theorem State.countErr_fwait (s : State) (p : Page) :
    (s.countErr p).fwait = s.fwait := rfl
@[simp] theorem State.countErr_faulted (s : State) (p : Page) :
    (s.countErr p).faulted = s.faulted := rfl

/-! ### emit -/

@[simp] theorem State.emit_pending (s : State) (o : Out) :
    (s.emit o).pending = s.pending := rfl
@[simp] theorem State.emit_free (s : State) (o : Out) :
    (s.emit o).free = s.free := rfl
@[simp] theorem State.emit_refcnt (s : State) (o : Out) :
    (s.emit o).refcnt = s.refcnt := rfl
@[simp] theorem State.emit_io (s : State) (o : Out) :
    (s.emit o).io = s.io := rfl
@[simp] theorem State.emit_mem (s : State) (o : Out) :
    (s.emit o).mem = s.mem := rfl
@[simp] theorem State.emit_cores (s : State) (o : Out) :
    (s.emit o).cores = s.cores := rfl
@[simp] theorem State.emit_wins (s : State) (o : Out) :
    (s.emit o).wins = s.wins := rfl
@[simp] theorem State.emit_winTurn (s : State) (o : Out) :
    (s.emit o).winTurn = s.winTurn := rfl
@[simp] theorem State.emit_tallies (s : State) (o : Out) :
    (s.emit o).tallies = s.tallies := rfl
@[simp] theorem State.emit_dies (s : State) (o : Out) :
    (s.emit o).dies = s.dies := rfl
@[simp] theorem State.emit_opNum (s : State) (o : Out) :
    (s.emit o).opNum = s.opNum := rfl
@[simp] theorem State.emit_ridges (s : State) (o : Out) :
    (s.emit o).ridges = s.ridges := rfl
@[simp] theorem State.emit_dmas (s : State) (o : Out) :
    (s.emit o).dmas = s.dmas := rfl
@[simp] theorem State.emit_ports (s : State) (o : Out) :
    (s.emit o).ports = s.ports := rfl
@[simp] theorem State.emit_fab (s : State) (o : Out) :
    (s.emit o).fab = s.fab := rfl
@[simp] theorem State.emit_cfls (s : State) (o : Out) :
    (s.emit o).cfls = s.cfls := rfl
@[simp] theorem State.emit_treads (s : State) (o : Out) :
    (s.emit o).treads = s.treads := rfl
@[simp] theorem State.emit_stepm (s : State) (o : Out) :
    (s.emit o).stepm = s.stepm := rfl
@[simp] theorem State.emit_oxb (s : State) (o : Out) :
    (s.emit o).oxb = s.oxb := rfl
@[simp] theorem State.emit_dig (s : State) (o : Out) :
    (s.emit o).dig = s.dig := rfl
@[simp] theorem State.emit_board (s : State) (o : Out) :
    (s.emit o).board = s.board := rfl
@[simp] theorem State.emit_mgmt (s : State) (o : Out) :
    (s.emit o).mgmt = s.mgmt := rfl
@[simp] theorem State.emit_lad (s : State) (o : Out) :
    (s.emit o).lad = s.lad := rfl
@[simp] theorem State.emit_host (s : State) (o : Out) :
    (s.emit o).host = s.host := rfl
@[simp] theorem State.emit_plat (s : State) (o : Out) :
    (s.emit o).plat = s.plat := rfl
@[simp] theorem State.emit_boot (s : State) (o : Out) :
    (s.emit o).boot = s.boot := rfl
@[simp] theorem State.emit_checks (s : State) (o : Out) :
    (s.emit o).checks = s.checks := rfl
@[simp] theorem State.emit_transit (s : State) (o : Out) :
    (s.emit o).transit = s.transit := rfl
@[simp] theorem State.emit_fwait (s : State) (o : Out) :
    (s.emit o).fwait = s.fwait := rfl
@[simp] theorem State.emit_faulted (s : State) (o : Out) :
    (s.emit o).faulted = s.faulted := rfl

/-! ### fresh -/

@[simp] theorem State.fresh_pending (s : State) :
    (s.fresh).pending = s.pending := rfl
@[simp] theorem State.fresh_out (s : State) :
    (s.fresh).out = s.out := rfl
@[simp] theorem State.fresh_refcnt (s : State) :
    (s.fresh).refcnt = s.refcnt := rfl
@[simp] theorem State.fresh_io (s : State) :
    (s.fresh).io = s.io := rfl
@[simp] theorem State.fresh_mem (s : State) :
    (s.fresh).mem = s.mem := rfl
@[simp] theorem State.fresh_cores (s : State) :
    (s.fresh).cores = s.cores := rfl
@[simp] theorem State.fresh_wins (s : State) :
    (s.fresh).wins = s.wins := rfl
@[simp] theorem State.fresh_winTurn (s : State) :
    (s.fresh).winTurn = s.winTurn := rfl
@[simp] theorem State.fresh_tallies (s : State) :
    (s.fresh).tallies = s.tallies := rfl
@[simp] theorem State.fresh_dies (s : State) :
    (s.fresh).dies = s.dies := rfl
@[simp] theorem State.fresh_opNum (s : State) :
    (s.fresh).opNum = s.opNum := rfl
@[simp] theorem State.fresh_ridges (s : State) :
    (s.fresh).ridges = s.ridges := rfl
@[simp] theorem State.fresh_dmas (s : State) :
    (s.fresh).dmas = s.dmas := rfl
@[simp] theorem State.fresh_ports (s : State) :
    (s.fresh).ports = s.ports := rfl
@[simp] theorem State.fresh_fab (s : State) :
    (s.fresh).fab = s.fab := rfl
@[simp] theorem State.fresh_cfls (s : State) :
    (s.fresh).cfls = s.cfls := rfl
@[simp] theorem State.fresh_treads (s : State) :
    (s.fresh).treads = s.treads := rfl
@[simp] theorem State.fresh_stepm (s : State) :
    (s.fresh).stepm = s.stepm := rfl
@[simp] theorem State.fresh_oxb (s : State) :
    (s.fresh).oxb = s.oxb := rfl
@[simp] theorem State.fresh_dig (s : State) :
    (s.fresh).dig = s.dig := rfl
@[simp] theorem State.fresh_board (s : State) :
    (s.fresh).board = s.board := rfl
@[simp] theorem State.fresh_mgmt (s : State) :
    (s.fresh).mgmt = s.mgmt := rfl
@[simp] theorem State.fresh_lad (s : State) :
    (s.fresh).lad = s.lad := rfl
@[simp] theorem State.fresh_host (s : State) :
    (s.fresh).host = s.host := rfl
@[simp] theorem State.fresh_plat (s : State) :
    (s.fresh).plat = s.plat := rfl
@[simp] theorem State.fresh_boot (s : State) :
    (s.fresh).boot = s.boot := rfl
@[simp] theorem State.fresh_checks (s : State) :
    (s.fresh).checks = s.checks := rfl
@[simp] theorem State.fresh_transit (s : State) :
    (s.fresh).transit = s.transit := rfl
@[simp] theorem State.fresh_fwait (s : State) :
    (s.fresh).fwait = s.fwait := rfl
@[simp] theorem State.fresh_faulted (s : State) :
    (s.fresh).faulted = s.faulted := rfl

/-! ### setCore -/

@[simp] theorem State.setCore_pending (s : State) (c : Nat) (k : Core) :
    (s.setCore c k).pending = s.pending := rfl
@[simp] theorem State.setCore_out (s : State) (c : Nat) (k : Core) :
    (s.setCore c k).out = s.out := rfl
@[simp] theorem State.setCore_free (s : State) (c : Nat) (k : Core) :
    (s.setCore c k).free = s.free := rfl
@[simp] theorem State.setCore_refcnt (s : State) (c : Nat) (k : Core) :
    (s.setCore c k).refcnt = s.refcnt := rfl
@[simp] theorem State.setCore_io (s : State) (c : Nat) (k : Core) :
    (s.setCore c k).io = s.io := rfl
@[simp] theorem State.setCore_mem (s : State) (c : Nat) (k : Core) :
    (s.setCore c k).mem = s.mem := rfl
@[simp] theorem State.setCore_wins (s : State) (c : Nat) (k : Core) :
    (s.setCore c k).wins = s.wins := rfl
@[simp] theorem State.setCore_winTurn (s : State) (c : Nat) (k : Core) :
    (s.setCore c k).winTurn = s.winTurn := rfl
@[simp] theorem State.setCore_tallies (s : State) (c : Nat) (k : Core) :
    (s.setCore c k).tallies = s.tallies := rfl
@[simp] theorem State.setCore_dies (s : State) (c : Nat) (k : Core) :
    (s.setCore c k).dies = s.dies := rfl
@[simp] theorem State.setCore_opNum (s : State) (c : Nat) (k : Core) :
    (s.setCore c k).opNum = s.opNum := rfl
@[simp] theorem State.setCore_ridges (s : State) (c : Nat) (k : Core) :
    (s.setCore c k).ridges = s.ridges := rfl
@[simp] theorem State.setCore_dmas (s : State) (c : Nat) (k : Core) :
    (s.setCore c k).dmas = s.dmas := rfl
@[simp] theorem State.setCore_ports (s : State) (c : Nat) (k : Core) :
    (s.setCore c k).ports = s.ports := rfl
@[simp] theorem State.setCore_fab (s : State) (c : Nat) (k : Core) :
    (s.setCore c k).fab = s.fab := rfl
@[simp] theorem State.setCore_cfls (s : State) (c : Nat) (k : Core) :
    (s.setCore c k).cfls = s.cfls := rfl
@[simp] theorem State.setCore_treads (s : State) (c : Nat) (k : Core) :
    (s.setCore c k).treads = s.treads := rfl
@[simp] theorem State.setCore_stepm (s : State) (c : Nat) (k : Core) :
    (s.setCore c k).stepm = s.stepm := rfl
@[simp] theorem State.setCore_oxb (s : State) (c : Nat) (k : Core) :
    (s.setCore c k).oxb = s.oxb := rfl
@[simp] theorem State.setCore_dig (s : State) (c : Nat) (k : Core) :
    (s.setCore c k).dig = s.dig := rfl
@[simp] theorem State.setCore_board (s : State) (c : Nat) (k : Core) :
    (s.setCore c k).board = s.board := rfl
@[simp] theorem State.setCore_mgmt (s : State) (c : Nat) (k : Core) :
    (s.setCore c k).mgmt = s.mgmt := rfl
@[simp] theorem State.setCore_lad (s : State) (c : Nat) (k : Core) :
    (s.setCore c k).lad = s.lad := rfl
@[simp] theorem State.setCore_host (s : State) (c : Nat) (k : Core) :
    (s.setCore c k).host = s.host := rfl
@[simp] theorem State.setCore_plat (s : State) (c : Nat) (k : Core) :
    (s.setCore c k).plat = s.plat := rfl
@[simp] theorem State.setCore_boot (s : State) (c : Nat) (k : Core) :
    (s.setCore c k).boot = s.boot := rfl
@[simp] theorem State.setCore_checks (s : State) (c : Nat) (k : Core) :
    (s.setCore c k).checks = s.checks := rfl
@[simp] theorem State.setCore_transit (s : State) (c : Nat) (k : Core) :
    (s.setCore c k).transit = s.transit := rfl
@[simp] theorem State.setCore_fwait (s : State) (c : Nat) (k : Core) :
    (s.setCore c k).fwait = s.fwait := rfl
@[simp] theorem State.setCore_faulted (s : State) (c : Nat) (k : Core) :
    (s.setCore c k).faulted = s.faulted := rfl

/-! ### setWin -/

@[simp] theorem State.setWin_pending (s : State) (w : Nat) (k : Win) :
    (s.setWin w k).pending = s.pending := rfl
@[simp] theorem State.setWin_out (s : State) (w : Nat) (k : Win) :
    (s.setWin w k).out = s.out := rfl
@[simp] theorem State.setWin_free (s : State) (w : Nat) (k : Win) :
    (s.setWin w k).free = s.free := rfl
@[simp] theorem State.setWin_refcnt (s : State) (w : Nat) (k : Win) :
    (s.setWin w k).refcnt = s.refcnt := rfl
@[simp] theorem State.setWin_io (s : State) (w : Nat) (k : Win) :
    (s.setWin w k).io = s.io := rfl
@[simp] theorem State.setWin_mem (s : State) (w : Nat) (k : Win) :
    (s.setWin w k).mem = s.mem := rfl
@[simp] theorem State.setWin_cores (s : State) (w : Nat) (k : Win) :
    (s.setWin w k).cores = s.cores := rfl
@[simp] theorem State.setWin_winTurn (s : State) (w : Nat) (k : Win) :
    (s.setWin w k).winTurn = s.winTurn := rfl
@[simp] theorem State.setWin_tallies (s : State) (w : Nat) (k : Win) :
    (s.setWin w k).tallies = s.tallies := rfl
@[simp] theorem State.setWin_dies (s : State) (w : Nat) (k : Win) :
    (s.setWin w k).dies = s.dies := rfl
@[simp] theorem State.setWin_opNum (s : State) (w : Nat) (k : Win) :
    (s.setWin w k).opNum = s.opNum := rfl
@[simp] theorem State.setWin_ridges (s : State) (w : Nat) (k : Win) :
    (s.setWin w k).ridges = s.ridges := rfl
@[simp] theorem State.setWin_dmas (s : State) (w : Nat) (k : Win) :
    (s.setWin w k).dmas = s.dmas := rfl
@[simp] theorem State.setWin_ports (s : State) (w : Nat) (k : Win) :
    (s.setWin w k).ports = s.ports := rfl
@[simp] theorem State.setWin_fab (s : State) (w : Nat) (k : Win) :
    (s.setWin w k).fab = s.fab := rfl
@[simp] theorem State.setWin_cfls (s : State) (w : Nat) (k : Win) :
    (s.setWin w k).cfls = s.cfls := rfl
@[simp] theorem State.setWin_treads (s : State) (w : Nat) (k : Win) :
    (s.setWin w k).treads = s.treads := rfl
@[simp] theorem State.setWin_stepm (s : State) (w : Nat) (k : Win) :
    (s.setWin w k).stepm = s.stepm := rfl
@[simp] theorem State.setWin_oxb (s : State) (w : Nat) (k : Win) :
    (s.setWin w k).oxb = s.oxb := rfl
@[simp] theorem State.setWin_dig (s : State) (w : Nat) (k : Win) :
    (s.setWin w k).dig = s.dig := rfl
@[simp] theorem State.setWin_board (s : State) (w : Nat) (k : Win) :
    (s.setWin w k).board = s.board := rfl
@[simp] theorem State.setWin_mgmt (s : State) (w : Nat) (k : Win) :
    (s.setWin w k).mgmt = s.mgmt := rfl
@[simp] theorem State.setWin_lad (s : State) (w : Nat) (k : Win) :
    (s.setWin w k).lad = s.lad := rfl
@[simp] theorem State.setWin_host (s : State) (w : Nat) (k : Win) :
    (s.setWin w k).host = s.host := rfl
@[simp] theorem State.setWin_plat (s : State) (w : Nat) (k : Win) :
    (s.setWin w k).plat = s.plat := rfl
@[simp] theorem State.setWin_boot (s : State) (w : Nat) (k : Win) :
    (s.setWin w k).boot = s.boot := rfl
@[simp] theorem State.setWin_checks (s : State) (w : Nat) (k : Win) :
    (s.setWin w k).checks = s.checks := rfl
@[simp] theorem State.setWin_transit (s : State) (w : Nat) (k : Win) :
    (s.setWin w k).transit = s.transit := rfl
@[simp] theorem State.setWin_fwait (s : State) (w : Nat) (k : Win) :
    (s.setWin w k).fwait = s.fwait := rfl
@[simp] theorem State.setWin_faulted (s : State) (w : Nat) (k : Win) :
    (s.setWin w k).faulted = s.faulted := rfl

/-! ### setRidge -/

@[simp] theorem State.setRidge_pending (s : State) (n : Nat) (r : Ridge) :
    (s.setRidge n r).pending = s.pending := rfl
@[simp] theorem State.setRidge_out (s : State) (n : Nat) (r : Ridge) :
    (s.setRidge n r).out = s.out := rfl
@[simp] theorem State.setRidge_free (s : State) (n : Nat) (r : Ridge) :
    (s.setRidge n r).free = s.free := rfl
@[simp] theorem State.setRidge_refcnt (s : State) (n : Nat) (r : Ridge) :
    (s.setRidge n r).refcnt = s.refcnt := rfl
@[simp] theorem State.setRidge_io (s : State) (n : Nat) (r : Ridge) :
    (s.setRidge n r).io = s.io := rfl
@[simp] theorem State.setRidge_mem (s : State) (n : Nat) (r : Ridge) :
    (s.setRidge n r).mem = s.mem := rfl
@[simp] theorem State.setRidge_cores (s : State) (n : Nat) (r : Ridge) :
    (s.setRidge n r).cores = s.cores := rfl
@[simp] theorem State.setRidge_wins (s : State) (n : Nat) (r : Ridge) :
    (s.setRidge n r).wins = s.wins := rfl
@[simp] theorem State.setRidge_winTurn (s : State) (n : Nat) (r : Ridge) :
    (s.setRidge n r).winTurn = s.winTurn := rfl
@[simp] theorem State.setRidge_tallies (s : State) (n : Nat) (r : Ridge) :
    (s.setRidge n r).tallies = s.tallies := rfl
@[simp] theorem State.setRidge_dies (s : State) (n : Nat) (r : Ridge) :
    (s.setRidge n r).dies = s.dies := rfl
@[simp] theorem State.setRidge_opNum (s : State) (n : Nat) (r : Ridge) :
    (s.setRidge n r).opNum = s.opNum := rfl
@[simp] theorem State.setRidge_dmas (s : State) (n : Nat) (r : Ridge) :
    (s.setRidge n r).dmas = s.dmas := rfl
@[simp] theorem State.setRidge_ports (s : State) (n : Nat) (r : Ridge) :
    (s.setRidge n r).ports = s.ports := rfl
@[simp] theorem State.setRidge_fab (s : State) (n : Nat) (r : Ridge) :
    (s.setRidge n r).fab = s.fab := rfl
@[simp] theorem State.setRidge_cfls (s : State) (n : Nat) (r : Ridge) :
    (s.setRidge n r).cfls = s.cfls := rfl
@[simp] theorem State.setRidge_treads (s : State) (n : Nat) (r : Ridge) :
    (s.setRidge n r).treads = s.treads := rfl
@[simp] theorem State.setRidge_stepm (s : State) (n : Nat) (r : Ridge) :
    (s.setRidge n r).stepm = s.stepm := rfl
@[simp] theorem State.setRidge_oxb (s : State) (n : Nat) (r : Ridge) :
    (s.setRidge n r).oxb = s.oxb := rfl
@[simp] theorem State.setRidge_dig (s : State) (n : Nat) (r : Ridge) :
    (s.setRidge n r).dig = s.dig := rfl
@[simp] theorem State.setRidge_board (s : State) (n : Nat) (r : Ridge) :
    (s.setRidge n r).board = s.board := rfl
@[simp] theorem State.setRidge_mgmt (s : State) (n : Nat) (r : Ridge) :
    (s.setRidge n r).mgmt = s.mgmt := rfl
@[simp] theorem State.setRidge_lad (s : State) (n : Nat) (r : Ridge) :
    (s.setRidge n r).lad = s.lad := rfl
@[simp] theorem State.setRidge_host (s : State) (n : Nat) (r : Ridge) :
    (s.setRidge n r).host = s.host := rfl
@[simp] theorem State.setRidge_plat (s : State) (n : Nat) (r : Ridge) :
    (s.setRidge n r).plat = s.plat := rfl
@[simp] theorem State.setRidge_boot (s : State) (n : Nat) (r : Ridge) :
    (s.setRidge n r).boot = s.boot := rfl
@[simp] theorem State.setRidge_checks (s : State) (n : Nat) (r : Ridge) :
    (s.setRidge n r).checks = s.checks := rfl
@[simp] theorem State.setRidge_transit (s : State) (n : Nat) (r : Ridge) :
    (s.setRidge n r).transit = s.transit := rfl
@[simp] theorem State.setRidge_fwait (s : State) (n : Nat) (r : Ridge) :
    (s.setRidge n r).fwait = s.fwait := rfl
@[simp] theorem State.setRidge_faulted (s : State) (n : Nat) (r : Ridge) :
    (s.setRidge n r).faulted = s.faulted := rfl

/-! ### setDma -/

@[simp] theorem State.setDma_pending (s : State) (c : Nat) (k : DmaCh) :
    (s.setDma c k).pending = s.pending := rfl
@[simp] theorem State.setDma_out (s : State) (c : Nat) (k : DmaCh) :
    (s.setDma c k).out = s.out := rfl
@[simp] theorem State.setDma_free (s : State) (c : Nat) (k : DmaCh) :
    (s.setDma c k).free = s.free := rfl
@[simp] theorem State.setDma_refcnt (s : State) (c : Nat) (k : DmaCh) :
    (s.setDma c k).refcnt = s.refcnt := rfl
@[simp] theorem State.setDma_io (s : State) (c : Nat) (k : DmaCh) :
    (s.setDma c k).io = s.io := rfl
@[simp] theorem State.setDma_mem (s : State) (c : Nat) (k : DmaCh) :
    (s.setDma c k).mem = s.mem := rfl
@[simp] theorem State.setDma_cores (s : State) (c : Nat) (k : DmaCh) :
    (s.setDma c k).cores = s.cores := rfl
@[simp] theorem State.setDma_wins (s : State) (c : Nat) (k : DmaCh) :
    (s.setDma c k).wins = s.wins := rfl
@[simp] theorem State.setDma_winTurn (s : State) (c : Nat) (k : DmaCh) :
    (s.setDma c k).winTurn = s.winTurn := rfl
@[simp] theorem State.setDma_tallies (s : State) (c : Nat) (k : DmaCh) :
    (s.setDma c k).tallies = s.tallies := rfl
@[simp] theorem State.setDma_dies (s : State) (c : Nat) (k : DmaCh) :
    (s.setDma c k).dies = s.dies := rfl
@[simp] theorem State.setDma_opNum (s : State) (c : Nat) (k : DmaCh) :
    (s.setDma c k).opNum = s.opNum := rfl
@[simp] theorem State.setDma_ridges (s : State) (c : Nat) (k : DmaCh) :
    (s.setDma c k).ridges = s.ridges := rfl
@[simp] theorem State.setDma_ports (s : State) (c : Nat) (k : DmaCh) :
    (s.setDma c k).ports = s.ports := rfl
@[simp] theorem State.setDma_fab (s : State) (c : Nat) (k : DmaCh) :
    (s.setDma c k).fab = s.fab := rfl
@[simp] theorem State.setDma_cfls (s : State) (c : Nat) (k : DmaCh) :
    (s.setDma c k).cfls = s.cfls := rfl
@[simp] theorem State.setDma_treads (s : State) (c : Nat) (k : DmaCh) :
    (s.setDma c k).treads = s.treads := rfl
@[simp] theorem State.setDma_stepm (s : State) (c : Nat) (k : DmaCh) :
    (s.setDma c k).stepm = s.stepm := rfl
@[simp] theorem State.setDma_oxb (s : State) (c : Nat) (k : DmaCh) :
    (s.setDma c k).oxb = s.oxb := rfl
@[simp] theorem State.setDma_dig (s : State) (c : Nat) (k : DmaCh) :
    (s.setDma c k).dig = s.dig := rfl
@[simp] theorem State.setDma_board (s : State) (c : Nat) (k : DmaCh) :
    (s.setDma c k).board = s.board := rfl
@[simp] theorem State.setDma_mgmt (s : State) (c : Nat) (k : DmaCh) :
    (s.setDma c k).mgmt = s.mgmt := rfl
@[simp] theorem State.setDma_lad (s : State) (c : Nat) (k : DmaCh) :
    (s.setDma c k).lad = s.lad := rfl
@[simp] theorem State.setDma_host (s : State) (c : Nat) (k : DmaCh) :
    (s.setDma c k).host = s.host := rfl
@[simp] theorem State.setDma_plat (s : State) (c : Nat) (k : DmaCh) :
    (s.setDma c k).plat = s.plat := rfl
@[simp] theorem State.setDma_boot (s : State) (c : Nat) (k : DmaCh) :
    (s.setDma c k).boot = s.boot := rfl
@[simp] theorem State.setDma_checks (s : State) (c : Nat) (k : DmaCh) :
    (s.setDma c k).checks = s.checks := rfl
@[simp] theorem State.setDma_transit (s : State) (c : Nat) (k : DmaCh) :
    (s.setDma c k).transit = s.transit := rfl
@[simp] theorem State.setDma_fwait (s : State) (c : Nat) (k : DmaCh) :
    (s.setDma c k).fwait = s.fwait := rfl
@[simp] theorem State.setDma_faulted (s : State) (c : Nat) (k : DmaCh) :
    (s.setDma c k).faulted = s.faulted := rfl

/-! ### setPort -/

@[simp] theorem State.setPort_pending (s : State) (p : Nat) (k : Port) :
    (s.setPort p k).pending = s.pending := rfl
@[simp] theorem State.setPort_out (s : State) (p : Nat) (k : Port) :
    (s.setPort p k).out = s.out := rfl
@[simp] theorem State.setPort_free (s : State) (p : Nat) (k : Port) :
    (s.setPort p k).free = s.free := rfl
@[simp] theorem State.setPort_refcnt (s : State) (p : Nat) (k : Port) :
    (s.setPort p k).refcnt = s.refcnt := rfl
@[simp] theorem State.setPort_io (s : State) (p : Nat) (k : Port) :
    (s.setPort p k).io = s.io := rfl
@[simp] theorem State.setPort_mem (s : State) (p : Nat) (k : Port) :
    (s.setPort p k).mem = s.mem := rfl
@[simp] theorem State.setPort_cores (s : State) (p : Nat) (k : Port) :
    (s.setPort p k).cores = s.cores := rfl
@[simp] theorem State.setPort_wins (s : State) (p : Nat) (k : Port) :
    (s.setPort p k).wins = s.wins := rfl
@[simp] theorem State.setPort_winTurn (s : State) (p : Nat) (k : Port) :
    (s.setPort p k).winTurn = s.winTurn := rfl
@[simp] theorem State.setPort_tallies (s : State) (p : Nat) (k : Port) :
    (s.setPort p k).tallies = s.tallies := rfl
@[simp] theorem State.setPort_dies (s : State) (p : Nat) (k : Port) :
    (s.setPort p k).dies = s.dies := rfl
@[simp] theorem State.setPort_opNum (s : State) (p : Nat) (k : Port) :
    (s.setPort p k).opNum = s.opNum := rfl
@[simp] theorem State.setPort_ridges (s : State) (p : Nat) (k : Port) :
    (s.setPort p k).ridges = s.ridges := rfl
@[simp] theorem State.setPort_dmas (s : State) (p : Nat) (k : Port) :
    (s.setPort p k).dmas = s.dmas := rfl
@[simp] theorem State.setPort_fab (s : State) (p : Nat) (k : Port) :
    (s.setPort p k).fab = s.fab := rfl
@[simp] theorem State.setPort_cfls (s : State) (p : Nat) (k : Port) :
    (s.setPort p k).cfls = s.cfls := rfl
@[simp] theorem State.setPort_treads (s : State) (p : Nat) (k : Port) :
    (s.setPort p k).treads = s.treads := rfl
@[simp] theorem State.setPort_stepm (s : State) (p : Nat) (k : Port) :
    (s.setPort p k).stepm = s.stepm := rfl
@[simp] theorem State.setPort_oxb (s : State) (p : Nat) (k : Port) :
    (s.setPort p k).oxb = s.oxb := rfl
@[simp] theorem State.setPort_dig (s : State) (p : Nat) (k : Port) :
    (s.setPort p k).dig = s.dig := rfl
@[simp] theorem State.setPort_board (s : State) (p : Nat) (k : Port) :
    (s.setPort p k).board = s.board := rfl
@[simp] theorem State.setPort_mgmt (s : State) (p : Nat) (k : Port) :
    (s.setPort p k).mgmt = s.mgmt := rfl
@[simp] theorem State.setPort_lad (s : State) (p : Nat) (k : Port) :
    (s.setPort p k).lad = s.lad := rfl
@[simp] theorem State.setPort_host (s : State) (p : Nat) (k : Port) :
    (s.setPort p k).host = s.host := rfl
@[simp] theorem State.setPort_plat (s : State) (p : Nat) (k : Port) :
    (s.setPort p k).plat = s.plat := rfl
@[simp] theorem State.setPort_boot (s : State) (p : Nat) (k : Port) :
    (s.setPort p k).boot = s.boot := rfl
@[simp] theorem State.setPort_checks (s : State) (p : Nat) (k : Port) :
    (s.setPort p k).checks = s.checks := rfl
@[simp] theorem State.setPort_transit (s : State) (p : Nat) (k : Port) :
    (s.setPort p k).transit = s.transit := rfl
@[simp] theorem State.setPort_fwait (s : State) (p : Nat) (k : Port) :
    (s.setPort p k).fwait = s.fwait := rfl
@[simp] theorem State.setPort_faulted (s : State) (p : Nat) (k : Port) :
    (s.setPort p k).faulted = s.faulted := rfl

/-! ### setCfl -/

@[simp] theorem State.setCfl_pending (s : State) (e : Nat) (k : Cfl) :
    (s.setCfl e k).pending = s.pending := rfl
@[simp] theorem State.setCfl_out (s : State) (e : Nat) (k : Cfl) :
    (s.setCfl e k).out = s.out := rfl
@[simp] theorem State.setCfl_free (s : State) (e : Nat) (k : Cfl) :
    (s.setCfl e k).free = s.free := rfl
@[simp] theorem State.setCfl_refcnt (s : State) (e : Nat) (k : Cfl) :
    (s.setCfl e k).refcnt = s.refcnt := rfl
@[simp] theorem State.setCfl_io (s : State) (e : Nat) (k : Cfl) :
    (s.setCfl e k).io = s.io := rfl
@[simp] theorem State.setCfl_mem (s : State) (e : Nat) (k : Cfl) :
    (s.setCfl e k).mem = s.mem := rfl
@[simp] theorem State.setCfl_cores (s : State) (e : Nat) (k : Cfl) :
    (s.setCfl e k).cores = s.cores := rfl
@[simp] theorem State.setCfl_wins (s : State) (e : Nat) (k : Cfl) :
    (s.setCfl e k).wins = s.wins := rfl
@[simp] theorem State.setCfl_winTurn (s : State) (e : Nat) (k : Cfl) :
    (s.setCfl e k).winTurn = s.winTurn := rfl
@[simp] theorem State.setCfl_tallies (s : State) (e : Nat) (k : Cfl) :
    (s.setCfl e k).tallies = s.tallies := rfl
@[simp] theorem State.setCfl_dies (s : State) (e : Nat) (k : Cfl) :
    (s.setCfl e k).dies = s.dies := rfl
@[simp] theorem State.setCfl_opNum (s : State) (e : Nat) (k : Cfl) :
    (s.setCfl e k).opNum = s.opNum := rfl
@[simp] theorem State.setCfl_ridges (s : State) (e : Nat) (k : Cfl) :
    (s.setCfl e k).ridges = s.ridges := rfl
@[simp] theorem State.setCfl_dmas (s : State) (e : Nat) (k : Cfl) :
    (s.setCfl e k).dmas = s.dmas := rfl
@[simp] theorem State.setCfl_ports (s : State) (e : Nat) (k : Cfl) :
    (s.setCfl e k).ports = s.ports := rfl
@[simp] theorem State.setCfl_fab (s : State) (e : Nat) (k : Cfl) :
    (s.setCfl e k).fab = s.fab := rfl
@[simp] theorem State.setCfl_treads (s : State) (e : Nat) (k : Cfl) :
    (s.setCfl e k).treads = s.treads := rfl
@[simp] theorem State.setCfl_stepm (s : State) (e : Nat) (k : Cfl) :
    (s.setCfl e k).stepm = s.stepm := rfl
@[simp] theorem State.setCfl_oxb (s : State) (e : Nat) (k : Cfl) :
    (s.setCfl e k).oxb = s.oxb := rfl
@[simp] theorem State.setCfl_dig (s : State) (e : Nat) (k : Cfl) :
    (s.setCfl e k).dig = s.dig := rfl
@[simp] theorem State.setCfl_board (s : State) (e : Nat) (k : Cfl) :
    (s.setCfl e k).board = s.board := rfl
@[simp] theorem State.setCfl_mgmt (s : State) (e : Nat) (k : Cfl) :
    (s.setCfl e k).mgmt = s.mgmt := rfl
@[simp] theorem State.setCfl_lad (s : State) (e : Nat) (k : Cfl) :
    (s.setCfl e k).lad = s.lad := rfl
@[simp] theorem State.setCfl_host (s : State) (e : Nat) (k : Cfl) :
    (s.setCfl e k).host = s.host := rfl
@[simp] theorem State.setCfl_plat (s : State) (e : Nat) (k : Cfl) :
    (s.setCfl e k).plat = s.plat := rfl
@[simp] theorem State.setCfl_boot (s : State) (e : Nat) (k : Cfl) :
    (s.setCfl e k).boot = s.boot := rfl
@[simp] theorem State.setCfl_checks (s : State) (e : Nat) (k : Cfl) :
    (s.setCfl e k).checks = s.checks := rfl
@[simp] theorem State.setCfl_transit (s : State) (e : Nat) (k : Cfl) :
    (s.setCfl e k).transit = s.transit := rfl
@[simp] theorem State.setCfl_fwait (s : State) (e : Nat) (k : Cfl) :
    (s.setCfl e k).fwait = s.fwait := rfl
@[simp] theorem State.setCfl_faulted (s : State) (e : Nat) (k : Cfl) :
    (s.setCfl e k).faulted = s.faulted := rfl

/-! ### setTread -/

@[simp] theorem State.setTread_pending (s : State) (e : Nat) (r : Option TableRead) :
    (s.setTread e r).pending = s.pending := rfl
@[simp] theorem State.setTread_out (s : State) (e : Nat) (r : Option TableRead) :
    (s.setTread e r).out = s.out := rfl
@[simp] theorem State.setTread_free (s : State) (e : Nat) (r : Option TableRead) :
    (s.setTread e r).free = s.free := rfl
@[simp] theorem State.setTread_refcnt (s : State) (e : Nat) (r : Option TableRead) :
    (s.setTread e r).refcnt = s.refcnt := rfl
@[simp] theorem State.setTread_io (s : State) (e : Nat) (r : Option TableRead) :
    (s.setTread e r).io = s.io := rfl
@[simp] theorem State.setTread_mem (s : State) (e : Nat) (r : Option TableRead) :
    (s.setTread e r).mem = s.mem := rfl
@[simp] theorem State.setTread_cores (s : State) (e : Nat) (r : Option TableRead) :
    (s.setTread e r).cores = s.cores := rfl
@[simp] theorem State.setTread_wins (s : State) (e : Nat) (r : Option TableRead) :
    (s.setTread e r).wins = s.wins := rfl
@[simp] theorem State.setTread_winTurn (s : State) (e : Nat) (r : Option TableRead) :
    (s.setTread e r).winTurn = s.winTurn := rfl
@[simp] theorem State.setTread_tallies (s : State) (e : Nat) (r : Option TableRead) :
    (s.setTread e r).tallies = s.tallies := rfl
@[simp] theorem State.setTread_dies (s : State) (e : Nat) (r : Option TableRead) :
    (s.setTread e r).dies = s.dies := rfl
@[simp] theorem State.setTread_opNum (s : State) (e : Nat) (r : Option TableRead) :
    (s.setTread e r).opNum = s.opNum := rfl
@[simp] theorem State.setTread_ridges (s : State) (e : Nat) (r : Option TableRead) :
    (s.setTread e r).ridges = s.ridges := rfl
@[simp] theorem State.setTread_dmas (s : State) (e : Nat) (r : Option TableRead) :
    (s.setTread e r).dmas = s.dmas := rfl
@[simp] theorem State.setTread_ports (s : State) (e : Nat) (r : Option TableRead) :
    (s.setTread e r).ports = s.ports := rfl
@[simp] theorem State.setTread_fab (s : State) (e : Nat) (r : Option TableRead) :
    (s.setTread e r).fab = s.fab := rfl
@[simp] theorem State.setTread_cfls (s : State) (e : Nat) (r : Option TableRead) :
    (s.setTread e r).cfls = s.cfls := rfl
@[simp] theorem State.setTread_stepm (s : State) (e : Nat) (r : Option TableRead) :
    (s.setTread e r).stepm = s.stepm := rfl
@[simp] theorem State.setTread_oxb (s : State) (e : Nat) (r : Option TableRead) :
    (s.setTread e r).oxb = s.oxb := rfl
@[simp] theorem State.setTread_dig (s : State) (e : Nat) (r : Option TableRead) :
    (s.setTread e r).dig = s.dig := rfl
@[simp] theorem State.setTread_board (s : State) (e : Nat) (r : Option TableRead) :
    (s.setTread e r).board = s.board := rfl
@[simp] theorem State.setTread_mgmt (s : State) (e : Nat) (r : Option TableRead) :
    (s.setTread e r).mgmt = s.mgmt := rfl
@[simp] theorem State.setTread_lad (s : State) (e : Nat) (r : Option TableRead) :
    (s.setTread e r).lad = s.lad := rfl
@[simp] theorem State.setTread_host (s : State) (e : Nat) (r : Option TableRead) :
    (s.setTread e r).host = s.host := rfl
@[simp] theorem State.setTread_plat (s : State) (e : Nat) (r : Option TableRead) :
    (s.setTread e r).plat = s.plat := rfl
@[simp] theorem State.setTread_boot (s : State) (e : Nat) (r : Option TableRead) :
    (s.setTread e r).boot = s.boot := rfl
@[simp] theorem State.setTread_checks (s : State) (e : Nat) (r : Option TableRead) :
    (s.setTread e r).checks = s.checks := rfl
@[simp] theorem State.setTread_transit (s : State) (e : Nat) (r : Option TableRead) :
    (s.setTread e r).transit = s.transit := rfl
@[simp] theorem State.setTread_fwait (s : State) (e : Nat) (r : Option TableRead) :
    (s.setTread e r).fwait = s.fwait := rfl
@[simp] theorem State.setTread_faulted (s : State) (e : Nat) (r : Option TableRead) :
    (s.setTread e r).faulted = s.faulted := rfl

/-! ### setDie -/

@[simp] theorem State.setDie_pending (s : State) (k : Nat) (l : List OpRec) :
    (s.setDie k l).pending = s.pending := rfl
@[simp] theorem State.setDie_out (s : State) (k : Nat) (l : List OpRec) :
    (s.setDie k l).out = s.out := rfl
@[simp] theorem State.setDie_free (s : State) (k : Nat) (l : List OpRec) :
    (s.setDie k l).free = s.free := rfl
@[simp] theorem State.setDie_refcnt (s : State) (k : Nat) (l : List OpRec) :
    (s.setDie k l).refcnt = s.refcnt := rfl
@[simp] theorem State.setDie_io (s : State) (k : Nat) (l : List OpRec) :
    (s.setDie k l).io = s.io := rfl
@[simp] theorem State.setDie_mem (s : State) (k : Nat) (l : List OpRec) :
    (s.setDie k l).mem = s.mem := rfl
@[simp] theorem State.setDie_cores (s : State) (k : Nat) (l : List OpRec) :
    (s.setDie k l).cores = s.cores := rfl
@[simp] theorem State.setDie_wins (s : State) (k : Nat) (l : List OpRec) :
    (s.setDie k l).wins = s.wins := rfl
@[simp] theorem State.setDie_winTurn (s : State) (k : Nat) (l : List OpRec) :
    (s.setDie k l).winTurn = s.winTurn := rfl
@[simp] theorem State.setDie_tallies (s : State) (k : Nat) (l : List OpRec) :
    (s.setDie k l).tallies = s.tallies := rfl
@[simp] theorem State.setDie_opNum (s : State) (k : Nat) (l : List OpRec) :
    (s.setDie k l).opNum = s.opNum := rfl
@[simp] theorem State.setDie_ridges (s : State) (k : Nat) (l : List OpRec) :
    (s.setDie k l).ridges = s.ridges := rfl
@[simp] theorem State.setDie_dmas (s : State) (k : Nat) (l : List OpRec) :
    (s.setDie k l).dmas = s.dmas := rfl
@[simp] theorem State.setDie_ports (s : State) (k : Nat) (l : List OpRec) :
    (s.setDie k l).ports = s.ports := rfl
@[simp] theorem State.setDie_fab (s : State) (k : Nat) (l : List OpRec) :
    (s.setDie k l).fab = s.fab := rfl
@[simp] theorem State.setDie_cfls (s : State) (k : Nat) (l : List OpRec) :
    (s.setDie k l).cfls = s.cfls := rfl
@[simp] theorem State.setDie_treads (s : State) (k : Nat) (l : List OpRec) :
    (s.setDie k l).treads = s.treads := rfl
@[simp] theorem State.setDie_stepm (s : State) (k : Nat) (l : List OpRec) :
    (s.setDie k l).stepm = s.stepm := rfl
@[simp] theorem State.setDie_oxb (s : State) (k : Nat) (l : List OpRec) :
    (s.setDie k l).oxb = s.oxb := rfl
@[simp] theorem State.setDie_dig (s : State) (k : Nat) (l : List OpRec) :
    (s.setDie k l).dig = s.dig := rfl
@[simp] theorem State.setDie_board (s : State) (k : Nat) (l : List OpRec) :
    (s.setDie k l).board = s.board := rfl
@[simp] theorem State.setDie_mgmt (s : State) (k : Nat) (l : List OpRec) :
    (s.setDie k l).mgmt = s.mgmt := rfl
@[simp] theorem State.setDie_lad (s : State) (k : Nat) (l : List OpRec) :
    (s.setDie k l).lad = s.lad := rfl
@[simp] theorem State.setDie_host (s : State) (k : Nat) (l : List OpRec) :
    (s.setDie k l).host = s.host := rfl
@[simp] theorem State.setDie_plat (s : State) (k : Nat) (l : List OpRec) :
    (s.setDie k l).plat = s.plat := rfl
@[simp] theorem State.setDie_boot (s : State) (k : Nat) (l : List OpRec) :
    (s.setDie k l).boot = s.boot := rfl
@[simp] theorem State.setDie_checks (s : State) (k : Nat) (l : List OpRec) :
    (s.setDie k l).checks = s.checks := rfl
@[simp] theorem State.setDie_transit (s : State) (k : Nat) (l : List OpRec) :
    (s.setDie k l).transit = s.transit := rfl
@[simp] theorem State.setDie_fwait (s : State) (k : Nat) (l : List OpRec) :
    (s.setDie k l).fwait = s.fwait := rfl
@[simp] theorem State.setDie_faulted (s : State) (k : Nat) (l : List OpRec) :
    (s.setDie k l).faulted = s.faulted := rfl

/-! ### setTally -/

@[simp] theorem State.setTally_pending (s : State) (t : Nat) (v : W32) :
    (s.setTally t v).pending = s.pending := rfl
@[simp] theorem State.setTally_out (s : State) (t : Nat) (v : W32) :
    (s.setTally t v).out = s.out := rfl
@[simp] theorem State.setTally_free (s : State) (t : Nat) (v : W32) :
    (s.setTally t v).free = s.free := rfl
@[simp] theorem State.setTally_refcnt (s : State) (t : Nat) (v : W32) :
    (s.setTally t v).refcnt = s.refcnt := rfl
@[simp] theorem State.setTally_io (s : State) (t : Nat) (v : W32) :
    (s.setTally t v).io = s.io := rfl
@[simp] theorem State.setTally_mem (s : State) (t : Nat) (v : W32) :
    (s.setTally t v).mem = s.mem := rfl
@[simp] theorem State.setTally_winTurn (s : State) (t : Nat) (v : W32) :
    (s.setTally t v).winTurn = s.winTurn := rfl
@[simp] theorem State.setTally_dies (s : State) (t : Nat) (v : W32) :
    (s.setTally t v).dies = s.dies := rfl
@[simp] theorem State.setTally_opNum (s : State) (t : Nat) (v : W32) :
    (s.setTally t v).opNum = s.opNum := rfl
@[simp] theorem State.setTally_ridges (s : State) (t : Nat) (v : W32) :
    (s.setTally t v).ridges = s.ridges := rfl
@[simp] theorem State.setTally_dmas (s : State) (t : Nat) (v : W32) :
    (s.setTally t v).dmas = s.dmas := rfl
@[simp] theorem State.setTally_ports (s : State) (t : Nat) (v : W32) :
    (s.setTally t v).ports = s.ports := rfl
@[simp] theorem State.setTally_fab (s : State) (t : Nat) (v : W32) :
    (s.setTally t v).fab = s.fab := rfl
@[simp] theorem State.setTally_cfls (s : State) (t : Nat) (v : W32) :
    (s.setTally t v).cfls = s.cfls := rfl
@[simp] theorem State.setTally_treads (s : State) (t : Nat) (v : W32) :
    (s.setTally t v).treads = s.treads := rfl
@[simp] theorem State.setTally_stepm (s : State) (t : Nat) (v : W32) :
    (s.setTally t v).stepm = s.stepm := rfl
@[simp] theorem State.setTally_oxb (s : State) (t : Nat) (v : W32) :
    (s.setTally t v).oxb = s.oxb := rfl
@[simp] theorem State.setTally_dig (s : State) (t : Nat) (v : W32) :
    (s.setTally t v).dig = s.dig := rfl
@[simp] theorem State.setTally_board (s : State) (t : Nat) (v : W32) :
    (s.setTally t v).board = s.board := rfl
@[simp] theorem State.setTally_mgmt (s : State) (t : Nat) (v : W32) :
    (s.setTally t v).mgmt = s.mgmt := rfl
@[simp] theorem State.setTally_lad (s : State) (t : Nat) (v : W32) :
    (s.setTally t v).lad = s.lad := rfl
@[simp] theorem State.setTally_plat (s : State) (t : Nat) (v : W32) :
    (s.setTally t v).plat = s.plat := rfl
@[simp] theorem State.setTally_boot (s : State) (t : Nat) (v : W32) :
    (s.setTally t v).boot = s.boot := rfl
@[simp] theorem State.setTally_checks (s : State) (t : Nat) (v : W32) :
    (s.setTally t v).checks = s.checks := rfl
@[simp] theorem State.setTally_transit (s : State) (t : Nat) (v : W32) :
    (s.setTally t v).transit = s.transit := rfl
@[simp] theorem State.setTally_fwait (s : State) (t : Nat) (v : W32) :
    (s.setTally t v).fwait = s.fwait := rfl
@[simp] theorem State.setTally_faulted (s : State) (t : Nat) (v : W32) :
    (s.setTally t v).faulted = s.faulted := rfl

/-! ### storeBits -/

@[simp] theorem State.storeBits_pending (s : State) (p : Page) (off : Nat) (v : W32) :
    (s.storeBits p off v).pending = s.pending := by unfold State.storeBits; split <;> rfl
@[simp] theorem State.storeBits_out (s : State) (p : Page) (off : Nat) (v : W32) :
    (s.storeBits p off v).out = s.out := by unfold State.storeBits; split <;> rfl
@[simp] theorem State.storeBits_free (s : State) (p : Page) (off : Nat) (v : W32) :
    (s.storeBits p off v).free = s.free := by unfold State.storeBits; split <;> rfl
@[simp] theorem State.storeBits_refcnt (s : State) (p : Page) (off : Nat) (v : W32) :
    (s.storeBits p off v).refcnt = s.refcnt := by unfold State.storeBits; split <;> rfl
@[simp] theorem State.storeBits_mem (s : State) (p : Page) (off : Nat) (v : W32) :
    (s.storeBits p off v).mem = s.mem := by unfold State.storeBits; split <;> rfl
@[simp] theorem State.storeBits_cores (s : State) (p : Page) (off : Nat) (v : W32) :
    (s.storeBits p off v).cores = s.cores := by unfold State.storeBits; split <;> rfl
@[simp] theorem State.storeBits_wins (s : State) (p : Page) (off : Nat) (v : W32) :
    (s.storeBits p off v).wins = s.wins := by unfold State.storeBits; split <;> rfl
@[simp] theorem State.storeBits_winTurn (s : State) (p : Page) (off : Nat) (v : W32) :
    (s.storeBits p off v).winTurn = s.winTurn := by unfold State.storeBits; split <;> rfl
@[simp] theorem State.storeBits_tallies (s : State) (p : Page) (off : Nat) (v : W32) :
    (s.storeBits p off v).tallies = s.tallies := by unfold State.storeBits; split <;> rfl
@[simp] theorem State.storeBits_dies (s : State) (p : Page) (off : Nat) (v : W32) :
    (s.storeBits p off v).dies = s.dies := by unfold State.storeBits; split <;> rfl
@[simp] theorem State.storeBits_opNum (s : State) (p : Page) (off : Nat) (v : W32) :
    (s.storeBits p off v).opNum = s.opNum := by unfold State.storeBits; split <;> rfl
@[simp] theorem State.storeBits_ridges (s : State) (p : Page) (off : Nat) (v : W32) :
    (s.storeBits p off v).ridges = s.ridges := by unfold State.storeBits; split <;> rfl
@[simp] theorem State.storeBits_dmas (s : State) (p : Page) (off : Nat) (v : W32) :
    (s.storeBits p off v).dmas = s.dmas := by unfold State.storeBits; split <;> rfl
@[simp] theorem State.storeBits_ports (s : State) (p : Page) (off : Nat) (v : W32) :
    (s.storeBits p off v).ports = s.ports := by unfold State.storeBits; split <;> rfl
@[simp] theorem State.storeBits_fab (s : State) (p : Page) (off : Nat) (v : W32) :
    (s.storeBits p off v).fab = s.fab := by unfold State.storeBits; split <;> rfl
@[simp] theorem State.storeBits_cfls (s : State) (p : Page) (off : Nat) (v : W32) :
    (s.storeBits p off v).cfls = s.cfls := by unfold State.storeBits; split <;> rfl
@[simp] theorem State.storeBits_treads (s : State) (p : Page) (off : Nat) (v : W32) :
    (s.storeBits p off v).treads = s.treads := by unfold State.storeBits; split <;> rfl
@[simp] theorem State.storeBits_stepm (s : State) (p : Page) (off : Nat) (v : W32) :
    (s.storeBits p off v).stepm = s.stepm := by unfold State.storeBits; split <;> rfl
@[simp] theorem State.storeBits_oxb (s : State) (p : Page) (off : Nat) (v : W32) :
    (s.storeBits p off v).oxb = s.oxb := by unfold State.storeBits; split <;> rfl
@[simp] theorem State.storeBits_dig (s : State) (p : Page) (off : Nat) (v : W32) :
    (s.storeBits p off v).dig = s.dig := by unfold State.storeBits; split <;> rfl
@[simp] theorem State.storeBits_board (s : State) (p : Page) (off : Nat) (v : W32) :
    (s.storeBits p off v).board = s.board := by unfold State.storeBits; split <;> rfl
@[simp] theorem State.storeBits_mgmt (s : State) (p : Page) (off : Nat) (v : W32) :
    (s.storeBits p off v).mgmt = s.mgmt := by unfold State.storeBits; split <;> rfl
@[simp] theorem State.storeBits_lad (s : State) (p : Page) (off : Nat) (v : W32) :
    (s.storeBits p off v).lad = s.lad := by unfold State.storeBits; split <;> rfl
@[simp] theorem State.storeBits_host (s : State) (p : Page) (off : Nat) (v : W32) :
    (s.storeBits p off v).host = s.host := by unfold State.storeBits; split <;> rfl
@[simp] theorem State.storeBits_plat (s : State) (p : Page) (off : Nat) (v : W32) :
    (s.storeBits p off v).plat = s.plat := by unfold State.storeBits; split <;> rfl
@[simp] theorem State.storeBits_boot (s : State) (p : Page) (off : Nat) (v : W32) :
    (s.storeBits p off v).boot = s.boot := by unfold State.storeBits; split <;> rfl
@[simp] theorem State.storeBits_checks (s : State) (p : Page) (off : Nat) (v : W32) :
    (s.storeBits p off v).checks = s.checks := by unfold State.storeBits; split <;> rfl
@[simp] theorem State.storeBits_transit (s : State) (p : Page) (off : Nat) (v : W32) :
    (s.storeBits p off v).transit = s.transit := by unfold State.storeBits; split <;> rfl
@[simp] theorem State.storeBits_fwait (s : State) (p : Page) (off : Nat) (v : W32) :
    (s.storeBits p off v).fwait = s.fwait := by unfold State.storeBits; split <;> rfl
@[simp] theorem State.storeBits_faulted (s : State) (p : Page) (off : Nat) (v : W32) :
    (s.storeBits p off v).faulted = s.faulted := by unfold State.storeBits; split <;> rfl

/-! ### sendVector -/

@[simp] theorem State.sendVector_pending (s : State) (v : Nat) :
    (s.sendVector v).pending = s.pending := by unfold State.sendVector; split <;> rfl
@[simp] theorem State.sendVector_free (s : State) (v : Nat) :
    (s.sendVector v).free = s.free := by unfold State.sendVector; split <;> rfl
@[simp] theorem State.sendVector_refcnt (s : State) (v : Nat) :
    (s.sendVector v).refcnt = s.refcnt := by unfold State.sendVector; split <;> rfl
@[simp] theorem State.sendVector_mem (s : State) (v : Nat) :
    (s.sendVector v).mem = s.mem := by unfold State.sendVector; split <;> rfl
@[simp] theorem State.sendVector_cores (s : State) (v : Nat) :
    (s.sendVector v).cores = s.cores := by unfold State.sendVector; split <;> rfl
@[simp] theorem State.sendVector_wins (s : State) (v : Nat) :
    (s.sendVector v).wins = s.wins := by unfold State.sendVector; split <;> rfl
@[simp] theorem State.sendVector_winTurn (s : State) (v : Nat) :
    (s.sendVector v).winTurn = s.winTurn := by unfold State.sendVector; split <;> rfl
@[simp] theorem State.sendVector_tallies (s : State) (v : Nat) :
    (s.sendVector v).tallies = s.tallies := by unfold State.sendVector; split <;> rfl
@[simp] theorem State.sendVector_dies (s : State) (v : Nat) :
    (s.sendVector v).dies = s.dies := by unfold State.sendVector; split <;> rfl
@[simp] theorem State.sendVector_opNum (s : State) (v : Nat) :
    (s.sendVector v).opNum = s.opNum := by unfold State.sendVector; split <;> rfl
@[simp] theorem State.sendVector_ridges (s : State) (v : Nat) :
    (s.sendVector v).ridges = s.ridges := by unfold State.sendVector; split <;> rfl
@[simp] theorem State.sendVector_dmas (s : State) (v : Nat) :
    (s.sendVector v).dmas = s.dmas := by unfold State.sendVector; split <;> rfl
@[simp] theorem State.sendVector_ports (s : State) (v : Nat) :
    (s.sendVector v).ports = s.ports := by unfold State.sendVector; split <;> rfl
@[simp] theorem State.sendVector_fab (s : State) (v : Nat) :
    (s.sendVector v).fab = s.fab := by unfold State.sendVector; split <;> rfl
@[simp] theorem State.sendVector_cfls (s : State) (v : Nat) :
    (s.sendVector v).cfls = s.cfls := by unfold State.sendVector; split <;> rfl
@[simp] theorem State.sendVector_treads (s : State) (v : Nat) :
    (s.sendVector v).treads = s.treads := by unfold State.sendVector; split <;> rfl
@[simp] theorem State.sendVector_stepm (s : State) (v : Nat) :
    (s.sendVector v).stepm = s.stepm := by unfold State.sendVector; split <;> rfl
@[simp] theorem State.sendVector_oxb (s : State) (v : Nat) :
    (s.sendVector v).oxb = s.oxb := by unfold State.sendVector; split <;> rfl
@[simp] theorem State.sendVector_dig (s : State) (v : Nat) :
    (s.sendVector v).dig = s.dig := by unfold State.sendVector; split <;> rfl
@[simp] theorem State.sendVector_board (s : State) (v : Nat) :
    (s.sendVector v).board = s.board := by unfold State.sendVector; split <;> rfl
@[simp] theorem State.sendVector_mgmt (s : State) (v : Nat) :
    (s.sendVector v).mgmt = s.mgmt := by unfold State.sendVector; split <;> rfl
@[simp] theorem State.sendVector_lad (s : State) (v : Nat) :
    (s.sendVector v).lad = s.lad := by unfold State.sendVector; split <;> rfl
@[simp] theorem State.sendVector_host (s : State) (v : Nat) :
    (s.sendVector v).host = s.host := by unfold State.sendVector; split <;> rfl
@[simp] theorem State.sendVector_plat (s : State) (v : Nat) :
    (s.sendVector v).plat = s.plat := by unfold State.sendVector; split <;> rfl
@[simp] theorem State.sendVector_boot (s : State) (v : Nat) :
    (s.sendVector v).boot = s.boot := by unfold State.sendVector; split <;> rfl
@[simp] theorem State.sendVector_checks (s : State) (v : Nat) :
    (s.sendVector v).checks = s.checks := by unfold State.sendVector; split <;> rfl
@[simp] theorem State.sendVector_transit (s : State) (v : Nat) :
    (s.sendVector v).transit = s.transit := by unfold State.sendVector; split <;> rfl
@[simp] theorem State.sendVector_fwait (s : State) (v : Nat) :
    (s.sendVector v).fwait = s.fwait := by unfold State.sendVector; split <;> rfl
@[simp] theorem State.sendVector_faulted (s : State) (v : Nat) :
    (s.sendVector v).faulted = s.faulted := by unfold State.sendVector; split <;> rfl

/-! ### irqUpdate -/

@[simp] theorem State.irqUpdate_pending (s : State) (p : Page) :
    (s.irqUpdate p).pending = s.pending := by
  simp only [State.irqUpdate]
  split
  · rfl
  · split <;> simp
@[simp] theorem State.irqUpdate_free (s : State) (p : Page) :
    (s.irqUpdate p).free = s.free := by
  simp only [State.irqUpdate]
  split
  · rfl
  · split <;> simp
@[simp] theorem State.irqUpdate_refcnt (s : State) (p : Page) :
    (s.irqUpdate p).refcnt = s.refcnt := by
  simp only [State.irqUpdate]
  split
  · rfl
  · split <;> simp
@[simp] theorem State.irqUpdate_mem (s : State) (p : Page) :
    (s.irqUpdate p).mem = s.mem := by
  simp only [State.irqUpdate]
  split
  · rfl
  · split <;> simp
@[simp] theorem State.irqUpdate_cores (s : State) (p : Page) :
    (s.irqUpdate p).cores = s.cores := by
  simp only [State.irqUpdate]
  split
  · rfl
  · split <;> simp
@[simp] theorem State.irqUpdate_wins (s : State) (p : Page) :
    (s.irqUpdate p).wins = s.wins := by
  simp only [State.irqUpdate]
  split
  · rfl
  · split <;> simp
@[simp] theorem State.irqUpdate_winTurn (s : State) (p : Page) :
    (s.irqUpdate p).winTurn = s.winTurn := by
  simp only [State.irqUpdate]
  split
  · rfl
  · split <;> simp
@[simp] theorem State.irqUpdate_tallies (s : State) (p : Page) :
    (s.irqUpdate p).tallies = s.tallies := by
  simp only [State.irqUpdate]
  split
  · rfl
  · split <;> simp
@[simp] theorem State.irqUpdate_dies (s : State) (p : Page) :
    (s.irqUpdate p).dies = s.dies := by
  simp only [State.irqUpdate]
  split
  · rfl
  · split <;> simp
@[simp] theorem State.irqUpdate_opNum (s : State) (p : Page) :
    (s.irqUpdate p).opNum = s.opNum := by
  simp only [State.irqUpdate]
  split
  · rfl
  · split <;> simp
@[simp] theorem State.irqUpdate_ridges (s : State) (p : Page) :
    (s.irqUpdate p).ridges = s.ridges := by
  simp only [State.irqUpdate]
  split
  · rfl
  · split <;> simp
@[simp] theorem State.irqUpdate_dmas (s : State) (p : Page) :
    (s.irqUpdate p).dmas = s.dmas := by
  simp only [State.irqUpdate]
  split
  · rfl
  · split <;> simp
@[simp] theorem State.irqUpdate_ports (s : State) (p : Page) :
    (s.irqUpdate p).ports = s.ports := by
  simp only [State.irqUpdate]
  split
  · rfl
  · split <;> simp
@[simp] theorem State.irqUpdate_fab (s : State) (p : Page) :
    (s.irqUpdate p).fab = s.fab := by
  simp only [State.irqUpdate]
  split
  · rfl
  · split <;> simp
@[simp] theorem State.irqUpdate_cfls (s : State) (p : Page) :
    (s.irqUpdate p).cfls = s.cfls := by
  simp only [State.irqUpdate]
  split
  · rfl
  · split <;> simp
@[simp] theorem State.irqUpdate_treads (s : State) (p : Page) :
    (s.irqUpdate p).treads = s.treads := by
  simp only [State.irqUpdate]
  split
  · rfl
  · split <;> simp
@[simp] theorem State.irqUpdate_stepm (s : State) (p : Page) :
    (s.irqUpdate p).stepm = s.stepm := by
  simp only [State.irqUpdate]
  split
  · rfl
  · split <;> simp
@[simp] theorem State.irqUpdate_oxb (s : State) (p : Page) :
    (s.irqUpdate p).oxb = s.oxb := by
  simp only [State.irqUpdate]
  split
  · rfl
  · split <;> simp
@[simp] theorem State.irqUpdate_dig (s : State) (p : Page) :
    (s.irqUpdate p).dig = s.dig := by
  simp only [State.irqUpdate]
  split
  · rfl
  · split <;> simp
@[simp] theorem State.irqUpdate_board (s : State) (p : Page) :
    (s.irqUpdate p).board = s.board := by
  simp only [State.irqUpdate]
  split
  · rfl
  · split <;> simp
@[simp] theorem State.irqUpdate_mgmt (s : State) (p : Page) :
    (s.irqUpdate p).mgmt = s.mgmt := by
  simp only [State.irqUpdate]
  split
  · rfl
  · split <;> simp
@[simp] theorem State.irqUpdate_lad (s : State) (p : Page) :
    (s.irqUpdate p).lad = s.lad := by
  simp only [State.irqUpdate]
  split
  · rfl
  · split <;> simp
@[simp] theorem State.irqUpdate_host (s : State) (p : Page) :
    (s.irqUpdate p).host = s.host := by
  simp only [State.irqUpdate]
  split
  · rfl
  · split <;> simp
@[simp] theorem State.irqUpdate_plat (s : State) (p : Page) :
    (s.irqUpdate p).plat = s.plat := by
  simp only [State.irqUpdate]
  split
  · rfl
  · split <;> simp
@[simp] theorem State.irqUpdate_boot (s : State) (p : Page) :
    (s.irqUpdate p).boot = s.boot := by
  simp only [State.irqUpdate]
  split
  · rfl
  · split <;> simp
@[simp] theorem State.irqUpdate_checks (s : State) (p : Page) :
    (s.irqUpdate p).checks = s.checks := by
  simp only [State.irqUpdate]
  split
  · rfl
  · split <;> simp
@[simp] theorem State.irqUpdate_transit (s : State) (p : Page) :
    (s.irqUpdate p).transit = s.transit := by
  simp only [State.irqUpdate]
  split
  · rfl
  · split <;> simp
@[simp] theorem State.irqUpdate_fwait (s : State) (p : Page) :
    (s.irqUpdate p).fwait = s.fwait := by
  simp only [State.irqUpdate]
  split
  · rfl
  · split <;> simp
@[simp] theorem State.irqUpdate_faulted (s : State) (p : Page) :
    (s.irqUpdate p).faulted = s.faulted := by
  simp only [State.irqUpdate]
  split
  · rfl
  · split <;> simp

/-! ### detect -/

@[simp] theorem State.detect_pending (s : State) (p : Page) (m : W32) :
    (s.detect p m).pending = s.pending := by simp only [State.detect]; split <;> simp
@[simp] theorem State.detect_free (s : State) (p : Page) (m : W32) :
    (s.detect p m).free = s.free := by simp only [State.detect]; split <;> simp
@[simp] theorem State.detect_refcnt (s : State) (p : Page) (m : W32) :
    (s.detect p m).refcnt = s.refcnt := by simp only [State.detect]; split <;> simp
@[simp] theorem State.detect_mem (s : State) (p : Page) (m : W32) :
    (s.detect p m).mem = s.mem := by simp only [State.detect]; split <;> simp
@[simp] theorem State.detect_cores (s : State) (p : Page) (m : W32) :
    (s.detect p m).cores = s.cores := by simp only [State.detect]; split <;> simp
@[simp] theorem State.detect_wins (s : State) (p : Page) (m : W32) :
    (s.detect p m).wins = s.wins := by simp only [State.detect]; split <;> simp
@[simp] theorem State.detect_winTurn (s : State) (p : Page) (m : W32) :
    (s.detect p m).winTurn = s.winTurn := by simp only [State.detect]; split <;> simp
@[simp] theorem State.detect_tallies (s : State) (p : Page) (m : W32) :
    (s.detect p m).tallies = s.tallies := by simp only [State.detect]; split <;> simp
@[simp] theorem State.detect_dies (s : State) (p : Page) (m : W32) :
    (s.detect p m).dies = s.dies := by simp only [State.detect]; split <;> simp
@[simp] theorem State.detect_opNum (s : State) (p : Page) (m : W32) :
    (s.detect p m).opNum = s.opNum := by simp only [State.detect]; split <;> simp
@[simp] theorem State.detect_ridges (s : State) (p : Page) (m : W32) :
    (s.detect p m).ridges = s.ridges := by simp only [State.detect]; split <;> simp
@[simp] theorem State.detect_dmas (s : State) (p : Page) (m : W32) :
    (s.detect p m).dmas = s.dmas := by simp only [State.detect]; split <;> simp
@[simp] theorem State.detect_ports (s : State) (p : Page) (m : W32) :
    (s.detect p m).ports = s.ports := by simp only [State.detect]; split <;> simp
@[simp] theorem State.detect_fab (s : State) (p : Page) (m : W32) :
    (s.detect p m).fab = s.fab := by simp only [State.detect]; split <;> simp
@[simp] theorem State.detect_cfls (s : State) (p : Page) (m : W32) :
    (s.detect p m).cfls = s.cfls := by simp only [State.detect]; split <;> simp
@[simp] theorem State.detect_treads (s : State) (p : Page) (m : W32) :
    (s.detect p m).treads = s.treads := by simp only [State.detect]; split <;> simp
@[simp] theorem State.detect_stepm (s : State) (p : Page) (m : W32) :
    (s.detect p m).stepm = s.stepm := by simp only [State.detect]; split <;> simp
@[simp] theorem State.detect_oxb (s : State) (p : Page) (m : W32) :
    (s.detect p m).oxb = s.oxb := by simp only [State.detect]; split <;> simp
@[simp] theorem State.detect_dig (s : State) (p : Page) (m : W32) :
    (s.detect p m).dig = s.dig := by simp only [State.detect]; split <;> simp
@[simp] theorem State.detect_board (s : State) (p : Page) (m : W32) :
    (s.detect p m).board = s.board := by simp only [State.detect]; split <;> simp
@[simp] theorem State.detect_mgmt (s : State) (p : Page) (m : W32) :
    (s.detect p m).mgmt = s.mgmt := by simp only [State.detect]; split <;> simp
@[simp] theorem State.detect_lad (s : State) (p : Page) (m : W32) :
    (s.detect p m).lad = s.lad := by simp only [State.detect]; split <;> simp
@[simp] theorem State.detect_host (s : State) (p : Page) (m : W32) :
    (s.detect p m).host = s.host := by simp only [State.detect]; split <;> simp
@[simp] theorem State.detect_plat (s : State) (p : Page) (m : W32) :
    (s.detect p m).plat = s.plat := by simp only [State.detect]; split <;> simp
@[simp] theorem State.detect_boot (s : State) (p : Page) (m : W32) :
    (s.detect p m).boot = s.boot := by simp only [State.detect]; split <;> simp
@[simp] theorem State.detect_checks (s : State) (p : Page) (m : W32) :
    (s.detect p m).checks = s.checks := by simp only [State.detect]; split <;> simp
@[simp] theorem State.detect_transit (s : State) (p : Page) (m : W32) :
    (s.detect p m).transit = s.transit := by simp only [State.detect]; split <;> simp
@[simp] theorem State.detect_fwait (s : State) (p : Page) (m : W32) :
    (s.detect p m).fwait = s.fwait := by simp only [State.detect]; split <;> simp
@[simp] theorem State.detect_faulted (s : State) (p : Page) (m : W32) :
    (s.detect p m).faulted = s.faulted := by simp only [State.detect]; split <;> simp

/-! ### setErr -/

@[simp] theorem State.setErr_pending (s : State) (p : Page) (i : Nat) :
    (s.setErr p i).pending = s.pending := by simp [State.setErr]
@[simp] theorem State.setErr_free (s : State) (p : Page) (i : Nat) :
    (s.setErr p i).free = s.free := by simp [State.setErr]
@[simp] theorem State.setErr_refcnt (s : State) (p : Page) (i : Nat) :
    (s.setErr p i).refcnt = s.refcnt := by simp [State.setErr]
@[simp] theorem State.setErr_mem (s : State) (p : Page) (i : Nat) :
    (s.setErr p i).mem = s.mem := by simp [State.setErr]
@[simp] theorem State.setErr_cores (s : State) (p : Page) (i : Nat) :
    (s.setErr p i).cores = s.cores := by simp [State.setErr]
@[simp] theorem State.setErr_wins (s : State) (p : Page) (i : Nat) :
    (s.setErr p i).wins = s.wins := by simp [State.setErr]
@[simp] theorem State.setErr_winTurn (s : State) (p : Page) (i : Nat) :
    (s.setErr p i).winTurn = s.winTurn := by simp [State.setErr]
@[simp] theorem State.setErr_tallies (s : State) (p : Page) (i : Nat) :
    (s.setErr p i).tallies = s.tallies := by simp [State.setErr]
@[simp] theorem State.setErr_dies (s : State) (p : Page) (i : Nat) :
    (s.setErr p i).dies = s.dies := by simp [State.setErr]
@[simp] theorem State.setErr_opNum (s : State) (p : Page) (i : Nat) :
    (s.setErr p i).opNum = s.opNum := by simp [State.setErr]
@[simp] theorem State.setErr_ridges (s : State) (p : Page) (i : Nat) :
    (s.setErr p i).ridges = s.ridges := by simp [State.setErr]
@[simp] theorem State.setErr_dmas (s : State) (p : Page) (i : Nat) :
    (s.setErr p i).dmas = s.dmas := by simp [State.setErr]
@[simp] theorem State.setErr_ports (s : State) (p : Page) (i : Nat) :
    (s.setErr p i).ports = s.ports := by simp [State.setErr]
@[simp] theorem State.setErr_fab (s : State) (p : Page) (i : Nat) :
    (s.setErr p i).fab = s.fab := by simp [State.setErr]
@[simp] theorem State.setErr_cfls (s : State) (p : Page) (i : Nat) :
    (s.setErr p i).cfls = s.cfls := by simp [State.setErr]
@[simp] theorem State.setErr_treads (s : State) (p : Page) (i : Nat) :
    (s.setErr p i).treads = s.treads := by simp [State.setErr]
@[simp] theorem State.setErr_stepm (s : State) (p : Page) (i : Nat) :
    (s.setErr p i).stepm = s.stepm := by simp [State.setErr]
@[simp] theorem State.setErr_oxb (s : State) (p : Page) (i : Nat) :
    (s.setErr p i).oxb = s.oxb := by simp [State.setErr]
@[simp] theorem State.setErr_dig (s : State) (p : Page) (i : Nat) :
    (s.setErr p i).dig = s.dig := by simp [State.setErr]
@[simp] theorem State.setErr_board (s : State) (p : Page) (i : Nat) :
    (s.setErr p i).board = s.board := by simp [State.setErr]
@[simp] theorem State.setErr_mgmt (s : State) (p : Page) (i : Nat) :
    (s.setErr p i).mgmt = s.mgmt := by simp [State.setErr]
@[simp] theorem State.setErr_lad (s : State) (p : Page) (i : Nat) :
    (s.setErr p i).lad = s.lad := by simp [State.setErr]
@[simp] theorem State.setErr_host (s : State) (p : Page) (i : Nat) :
    (s.setErr p i).host = s.host := by simp [State.setErr]
@[simp] theorem State.setErr_plat (s : State) (p : Page) (i : Nat) :
    (s.setErr p i).plat = s.plat := by simp [State.setErr]
@[simp] theorem State.setErr_boot (s : State) (p : Page) (i : Nat) :
    (s.setErr p i).boot = s.boot := by simp [State.setErr]
@[simp] theorem State.setErr_checks (s : State) (p : Page) (i : Nat) :
    (s.setErr p i).checks = s.checks := by simp [State.setErr]
@[simp] theorem State.setErr_transit (s : State) (p : Page) (i : Nat) :
    (s.setErr p i).transit = s.transit := by simp [State.setErr]
@[simp] theorem State.setErr_fwait (s : State) (p : Page) (i : Nat) :
    (s.setErr p i).fwait = s.fwait := by simp [State.setErr]
@[simp] theorem State.setErr_faulted (s : State) (p : Page) (i : Nat) :
    (s.setErr p i).faulted = s.faulted := by simp [State.setErr]

/-! ### event -/

@[simp] theorem State.event_pending (s : State) (p : Page) (code n : Nat) :
    (s.event p code n).pending = s.pending := by simp only [State.event]; split <;> split <;> rfl
@[simp] theorem State.event_out (s : State) (p : Page) (code n : Nat) :
    (s.event p code n).out = s.out := by simp only [State.event]; split <;> split <;> rfl
@[simp] theorem State.event_free (s : State) (p : Page) (code n : Nat) :
    (s.event p code n).free = s.free := by simp only [State.event]; split <;> split <;> rfl
@[simp] theorem State.event_refcnt (s : State) (p : Page) (code n : Nat) :
    (s.event p code n).refcnt = s.refcnt := by simp only [State.event]; split <;> split <;> rfl
@[simp] theorem State.event_mem (s : State) (p : Page) (code n : Nat) :
    (s.event p code n).mem = s.mem := by simp only [State.event]; split <;> split <;> rfl
@[simp] theorem State.event_cores (s : State) (p : Page) (code n : Nat) :
    (s.event p code n).cores = s.cores := by simp only [State.event]; split <;> split <;> rfl
@[simp] theorem State.event_wins (s : State) (p : Page) (code n : Nat) :
    (s.event p code n).wins = s.wins := by simp only [State.event]; split <;> split <;> rfl
@[simp] theorem State.event_winTurn (s : State) (p : Page) (code n : Nat) :
    (s.event p code n).winTurn = s.winTurn := by simp only [State.event]; split <;> split <;> rfl
@[simp] theorem State.event_tallies (s : State) (p : Page) (code n : Nat) :
    (s.event p code n).tallies = s.tallies := by simp only [State.event]; split <;> split <;> rfl
@[simp] theorem State.event_dies (s : State) (p : Page) (code n : Nat) :
    (s.event p code n).dies = s.dies := by simp only [State.event]; split <;> split <;> rfl
@[simp] theorem State.event_opNum (s : State) (p : Page) (code n : Nat) :
    (s.event p code n).opNum = s.opNum := by simp only [State.event]; split <;> split <;> rfl
@[simp] theorem State.event_ridges (s : State) (p : Page) (code n : Nat) :
    (s.event p code n).ridges = s.ridges := by simp only [State.event]; split <;> split <;> rfl
@[simp] theorem State.event_dmas (s : State) (p : Page) (code n : Nat) :
    (s.event p code n).dmas = s.dmas := by simp only [State.event]; split <;> split <;> rfl
@[simp] theorem State.event_ports (s : State) (p : Page) (code n : Nat) :
    (s.event p code n).ports = s.ports := by simp only [State.event]; split <;> split <;> rfl
@[simp] theorem State.event_fab (s : State) (p : Page) (code n : Nat) :
    (s.event p code n).fab = s.fab := by simp only [State.event]; split <;> split <;> rfl
@[simp] theorem State.event_cfls (s : State) (p : Page) (code n : Nat) :
    (s.event p code n).cfls = s.cfls := by simp only [State.event]; split <;> split <;> rfl
@[simp] theorem State.event_treads (s : State) (p : Page) (code n : Nat) :
    (s.event p code n).treads = s.treads := by simp only [State.event]; split <;> split <;> rfl
@[simp] theorem State.event_stepm (s : State) (p : Page) (code n : Nat) :
    (s.event p code n).stepm = s.stepm := by simp only [State.event]; split <;> split <;> rfl
@[simp] theorem State.event_oxb (s : State) (p : Page) (code n : Nat) :
    (s.event p code n).oxb = s.oxb := by simp only [State.event]; split <;> split <;> rfl
@[simp] theorem State.event_dig (s : State) (p : Page) (code n : Nat) :
    (s.event p code n).dig = s.dig := by simp only [State.event]; split <;> split <;> rfl
@[simp] theorem State.event_board (s : State) (p : Page) (code n : Nat) :
    (s.event p code n).board = s.board := by simp only [State.event]; split <;> split <;> rfl
@[simp] theorem State.event_mgmt (s : State) (p : Page) (code n : Nat) :
    (s.event p code n).mgmt = s.mgmt := by simp only [State.event]; split <;> split <;> rfl
@[simp] theorem State.event_lad (s : State) (p : Page) (code n : Nat) :
    (s.event p code n).lad = s.lad := by simp only [State.event]; split <;> split <;> rfl
@[simp] theorem State.event_host (s : State) (p : Page) (code n : Nat) :
    (s.event p code n).host = s.host := by simp only [State.event]; split <;> split <;> rfl
@[simp] theorem State.event_plat (s : State) (p : Page) (code n : Nat) :
    (s.event p code n).plat = s.plat := by simp only [State.event]; split <;> split <;> rfl
@[simp] theorem State.event_boot (s : State) (p : Page) (code n : Nat) :
    (s.event p code n).boot = s.boot := by simp only [State.event]; split <;> split <;> rfl
@[simp] theorem State.event_checks (s : State) (p : Page) (code n : Nat) :
    (s.event p code n).checks = s.checks := by simp only [State.event]; split <;> split <;> rfl
@[simp] theorem State.event_transit (s : State) (p : Page) (code n : Nat) :
    (s.event p code n).transit = s.transit := by simp only [State.event]; split <;> split <;> rfl
@[simp] theorem State.event_fwait (s : State) (p : Page) (code n : Nat) :
    (s.event p code n).fwait = s.fwait := by simp only [State.event]; split <;> split <;> rfl
@[simp] theorem State.event_faulted (s : State) (p : Page) (code n : Nat) :
    (s.event p code n).faulted = s.faulted := by simp only [State.event]; split <;> split <;> rfl

/-! ### addTally -/

@[simp] theorem State.addTally_pending (s : State) (t : Nat) (n : W32) :
    (s.addTally t n).pending = s.pending := by simp [State.addTally]
@[simp] theorem State.addTally_out (s : State) (t : Nat) (n : W32) :
    (s.addTally t n).out = s.out := by simp [State.addTally]
@[simp] theorem State.addTally_free (s : State) (t : Nat) (n : W32) :
    (s.addTally t n).free = s.free := by simp [State.addTally]
@[simp] theorem State.addTally_refcnt (s : State) (t : Nat) (n : W32) :
    (s.addTally t n).refcnt = s.refcnt := by simp [State.addTally]
@[simp] theorem State.addTally_mem (s : State) (t : Nat) (n : W32) :
    (s.addTally t n).mem = s.mem := by simp [State.addTally]
@[simp] theorem State.addTally_winTurn (s : State) (t : Nat) (n : W32) :
    (s.addTally t n).winTurn = s.winTurn := by simp [State.addTally]
@[simp] theorem State.addTally_dies (s : State) (t : Nat) (n : W32) :
    (s.addTally t n).dies = s.dies := by simp [State.addTally]
@[simp] theorem State.addTally_opNum (s : State) (t : Nat) (n : W32) :
    (s.addTally t n).opNum = s.opNum := by simp [State.addTally]
@[simp] theorem State.addTally_ridges (s : State) (t : Nat) (n : W32) :
    (s.addTally t n).ridges = s.ridges := by simp [State.addTally]
@[simp] theorem State.addTally_dmas (s : State) (t : Nat) (n : W32) :
    (s.addTally t n).dmas = s.dmas := by simp [State.addTally]
@[simp] theorem State.addTally_ports (s : State) (t : Nat) (n : W32) :
    (s.addTally t n).ports = s.ports := by simp [State.addTally]
@[simp] theorem State.addTally_fab (s : State) (t : Nat) (n : W32) :
    (s.addTally t n).fab = s.fab := by simp [State.addTally]
@[simp] theorem State.addTally_cfls (s : State) (t : Nat) (n : W32) :
    (s.addTally t n).cfls = s.cfls := by simp [State.addTally]
@[simp] theorem State.addTally_treads (s : State) (t : Nat) (n : W32) :
    (s.addTally t n).treads = s.treads := by simp [State.addTally]
@[simp] theorem State.addTally_stepm (s : State) (t : Nat) (n : W32) :
    (s.addTally t n).stepm = s.stepm := by simp [State.addTally]
@[simp] theorem State.addTally_oxb (s : State) (t : Nat) (n : W32) :
    (s.addTally t n).oxb = s.oxb := by simp [State.addTally]
@[simp] theorem State.addTally_dig (s : State) (t : Nat) (n : W32) :
    (s.addTally t n).dig = s.dig := by simp [State.addTally]
@[simp] theorem State.addTally_board (s : State) (t : Nat) (n : W32) :
    (s.addTally t n).board = s.board := by simp [State.addTally]
@[simp] theorem State.addTally_mgmt (s : State) (t : Nat) (n : W32) :
    (s.addTally t n).mgmt = s.mgmt := by simp [State.addTally]
@[simp] theorem State.addTally_lad (s : State) (t : Nat) (n : W32) :
    (s.addTally t n).lad = s.lad := by simp [State.addTally]
@[simp] theorem State.addTally_plat (s : State) (t : Nat) (n : W32) :
    (s.addTally t n).plat = s.plat := by simp [State.addTally]
@[simp] theorem State.addTally_boot (s : State) (t : Nat) (n : W32) :
    (s.addTally t n).boot = s.boot := by simp [State.addTally]
@[simp] theorem State.addTally_checks (s : State) (t : Nat) (n : W32) :
    (s.addTally t n).checks = s.checks := by simp [State.addTally]
@[simp] theorem State.addTally_transit (s : State) (t : Nat) (n : W32) :
    (s.addTally t n).transit = s.transit := by simp [State.addTally]
@[simp] theorem State.addTally_fwait (s : State) (t : Nat) (n : W32) :
    (s.addTally t n).fwait = s.fwait := by simp [State.addTally]
@[simp] theorem State.addTally_faulted (s : State) (t : Nat) (n : W32) :
    (s.addTally t n).faulted = s.faulted := by simp [State.addTally]

/-! ### opTally -/

@[simp] theorem State.opTally_pending (s : State) (t c : Nat) :
    (s.opTally t c).pending = s.pending := by
  simp only [State.opTally]
  split
  · simp
  · split <;> simp
@[simp] theorem State.opTally_free (s : State) (t c : Nat) :
    (s.opTally t c).free = s.free := by
  simp only [State.opTally]
  split
  · simp
  · split <;> simp
@[simp] theorem State.opTally_refcnt (s : State) (t c : Nat) :
    (s.opTally t c).refcnt = s.refcnt := by
  simp only [State.opTally]
  split
  · simp
  · split <;> simp
@[simp] theorem State.opTally_mem (s : State) (t c : Nat) :
    (s.opTally t c).mem = s.mem := by
  simp only [State.opTally]
  split
  · simp
  · split <;> simp
@[simp] theorem State.opTally_winTurn (s : State) (t c : Nat) :
    (s.opTally t c).winTurn = s.winTurn := by
  simp only [State.opTally]
  split
  · simp
  · split <;> simp
@[simp] theorem State.opTally_dies (s : State) (t c : Nat) :
    (s.opTally t c).dies = s.dies := by
  simp only [State.opTally]
  split
  · simp
  · split <;> simp
@[simp] theorem State.opTally_opNum (s : State) (t c : Nat) :
    (s.opTally t c).opNum = s.opNum := by
  simp only [State.opTally]
  split
  · simp
  · split <;> simp
@[simp] theorem State.opTally_ridges (s : State) (t c : Nat) :
    (s.opTally t c).ridges = s.ridges := by
  simp only [State.opTally]
  split
  · simp
  · split <;> simp
@[simp] theorem State.opTally_dmas (s : State) (t c : Nat) :
    (s.opTally t c).dmas = s.dmas := by
  simp only [State.opTally]
  split
  · simp
  · split <;> simp
@[simp] theorem State.opTally_ports (s : State) (t c : Nat) :
    (s.opTally t c).ports = s.ports := by
  simp only [State.opTally]
  split
  · simp
  · split <;> simp
@[simp] theorem State.opTally_fab (s : State) (t c : Nat) :
    (s.opTally t c).fab = s.fab := by
  simp only [State.opTally]
  split
  · simp
  · split <;> simp
@[simp] theorem State.opTally_cfls (s : State) (t c : Nat) :
    (s.opTally t c).cfls = s.cfls := by
  simp only [State.opTally]
  split
  · simp
  · split <;> simp
@[simp] theorem State.opTally_treads (s : State) (t c : Nat) :
    (s.opTally t c).treads = s.treads := by
  simp only [State.opTally]
  split
  · simp
  · split <;> simp
@[simp] theorem State.opTally_stepm (s : State) (t c : Nat) :
    (s.opTally t c).stepm = s.stepm := by
  simp only [State.opTally]
  split
  · simp
  · split <;> simp
@[simp] theorem State.opTally_oxb (s : State) (t c : Nat) :
    (s.opTally t c).oxb = s.oxb := by
  simp only [State.opTally]
  split
  · simp
  · split <;> simp
@[simp] theorem State.opTally_dig (s : State) (t c : Nat) :
    (s.opTally t c).dig = s.dig := by
  simp only [State.opTally]
  split
  · simp
  · split <;> simp
@[simp] theorem State.opTally_board (s : State) (t c : Nat) :
    (s.opTally t c).board = s.board := by
  simp only [State.opTally]
  split
  · simp
  · split <;> simp
@[simp] theorem State.opTally_mgmt (s : State) (t c : Nat) :
    (s.opTally t c).mgmt = s.mgmt := by
  simp only [State.opTally]
  split
  · simp
  · split <;> simp
@[simp] theorem State.opTally_lad (s : State) (t c : Nat) :
    (s.opTally t c).lad = s.lad := by
  simp only [State.opTally]
  split
  · simp
  · split <;> simp
@[simp] theorem State.opTally_plat (s : State) (t c : Nat) :
    (s.opTally t c).plat = s.plat := by
  simp only [State.opTally]
  split
  · simp
  · split <;> simp
@[simp] theorem State.opTally_boot (s : State) (t c : Nat) :
    (s.opTally t c).boot = s.boot := by
  simp only [State.opTally]
  split
  · simp
  · split <;> simp
@[simp] theorem State.opTally_checks (s : State) (t c : Nat) :
    (s.opTally t c).checks = s.checks := by
  simp only [State.opTally]
  split
  · simp
  · split <;> simp
@[simp] theorem State.opTally_transit (s : State) (t c : Nat) :
    (s.opTally t c).transit = s.transit := by
  simp only [State.opTally]
  split
  · simp
  · split <;> simp
@[simp] theorem State.opTally_fwait (s : State) (t c : Nat) :
    (s.opTally t c).fwait = s.fwait := by
  simp only [State.opTally]
  split
  · simp
  · split <;> simp
@[simp] theorem State.opTally_faulted (s : State) (t c : Nat) :
    (s.opTally t c).faulted = s.faulted := by
  simp only [State.opTally]
  split
  · simp
  · split <;> simp

/-! ### tickPage -/

@[simp] theorem State.tickPage_pending (s : State) (n : Nat) (p : Page) :
    (s.tickPage n p).pending = s.pending := by
  unfold State.tickPage
  dsimp only
  split
  · split <;> simp
  · simp
@[simp] theorem State.tickPage_out (s : State) (n : Nat) (p : Page) :
    (s.tickPage n p).out = s.out := by
  unfold State.tickPage
  dsimp only
  split
  · split <;> simp
  · simp
@[simp] theorem State.tickPage_free (s : State) (n : Nat) (p : Page) :
    (s.tickPage n p).free = s.free := by
  unfold State.tickPage
  dsimp only
  split
  · split <;> simp
  · simp
@[simp] theorem State.tickPage_refcnt (s : State) (n : Nat) (p : Page) :
    (s.tickPage n p).refcnt = s.refcnt := by
  unfold State.tickPage
  dsimp only
  split
  · split <;> simp
  · simp
@[simp] theorem State.tickPage_mem (s : State) (n : Nat) (p : Page) :
    (s.tickPage n p).mem = s.mem := by
  unfold State.tickPage
  dsimp only
  split
  · split <;> simp
  · simp
@[simp] theorem State.tickPage_cores (s : State) (n : Nat) (p : Page) :
    (s.tickPage n p).cores = s.cores := by
  unfold State.tickPage
  dsimp only
  split
  · split <;> simp
  · simp
@[simp] theorem State.tickPage_wins (s : State) (n : Nat) (p : Page) :
    (s.tickPage n p).wins = s.wins := by
  unfold State.tickPage
  dsimp only
  split
  · split <;> simp
  · simp
@[simp] theorem State.tickPage_winTurn (s : State) (n : Nat) (p : Page) :
    (s.tickPage n p).winTurn = s.winTurn := by
  unfold State.tickPage
  dsimp only
  split
  · split <;> simp
  · simp
@[simp] theorem State.tickPage_tallies (s : State) (n : Nat) (p : Page) :
    (s.tickPage n p).tallies = s.tallies := by
  unfold State.tickPage
  dsimp only
  split
  · split <;> simp
  · simp
@[simp] theorem State.tickPage_dies (s : State) (n : Nat) (p : Page) :
    (s.tickPage n p).dies = s.dies := by
  unfold State.tickPage
  dsimp only
  split
  · split <;> simp
  · simp
@[simp] theorem State.tickPage_opNum (s : State) (n : Nat) (p : Page) :
    (s.tickPage n p).opNum = s.opNum := by
  unfold State.tickPage
  dsimp only
  split
  · split <;> simp
  · simp
@[simp] theorem State.tickPage_ridges (s : State) (n : Nat) (p : Page) :
    (s.tickPage n p).ridges = s.ridges := by
  unfold State.tickPage
  dsimp only
  split
  · split <;> simp
  · simp
@[simp] theorem State.tickPage_dmas (s : State) (n : Nat) (p : Page) :
    (s.tickPage n p).dmas = s.dmas := by
  unfold State.tickPage
  dsimp only
  split
  · split <;> simp
  · simp
@[simp] theorem State.tickPage_ports (s : State) (n : Nat) (p : Page) :
    (s.tickPage n p).ports = s.ports := by
  unfold State.tickPage
  dsimp only
  split
  · split <;> simp
  · simp
@[simp] theorem State.tickPage_fab (s : State) (n : Nat) (p : Page) :
    (s.tickPage n p).fab = s.fab := by
  unfold State.tickPage
  dsimp only
  split
  · split <;> simp
  · simp
@[simp] theorem State.tickPage_cfls (s : State) (n : Nat) (p : Page) :
    (s.tickPage n p).cfls = s.cfls := by
  unfold State.tickPage
  dsimp only
  split
  · split <;> simp
  · simp
@[simp] theorem State.tickPage_treads (s : State) (n : Nat) (p : Page) :
    (s.tickPage n p).treads = s.treads := by
  unfold State.tickPage
  dsimp only
  split
  · split <;> simp
  · simp
@[simp] theorem State.tickPage_stepm (s : State) (n : Nat) (p : Page) :
    (s.tickPage n p).stepm = s.stepm := by
  unfold State.tickPage
  dsimp only
  split
  · split <;> simp
  · simp
@[simp] theorem State.tickPage_oxb (s : State) (n : Nat) (p : Page) :
    (s.tickPage n p).oxb = s.oxb := by
  unfold State.tickPage
  dsimp only
  split
  · split <;> simp
  · simp
@[simp] theorem State.tickPage_dig (s : State) (n : Nat) (p : Page) :
    (s.tickPage n p).dig = s.dig := by
  unfold State.tickPage
  dsimp only
  split
  · split <;> simp
  · simp
@[simp] theorem State.tickPage_board (s : State) (n : Nat) (p : Page) :
    (s.tickPage n p).board = s.board := by
  unfold State.tickPage
  dsimp only
  split
  · split <;> simp
  · simp
@[simp] theorem State.tickPage_mgmt (s : State) (n : Nat) (p : Page) :
    (s.tickPage n p).mgmt = s.mgmt := by
  unfold State.tickPage
  dsimp only
  split
  · split <;> simp
  · simp
@[simp] theorem State.tickPage_lad (s : State) (n : Nat) (p : Page) :
    (s.tickPage n p).lad = s.lad := by
  unfold State.tickPage
  dsimp only
  split
  · split <;> simp
  · simp
@[simp] theorem State.tickPage_host (s : State) (n : Nat) (p : Page) :
    (s.tickPage n p).host = s.host := by
  unfold State.tickPage
  dsimp only
  split
  · split <;> simp
  · simp
@[simp] theorem State.tickPage_plat (s : State) (n : Nat) (p : Page) :
    (s.tickPage n p).plat = s.plat := by
  unfold State.tickPage
  dsimp only
  split
  · split <;> simp
  · simp
@[simp] theorem State.tickPage_boot (s : State) (n : Nat) (p : Page) :
    (s.tickPage n p).boot = s.boot := by
  unfold State.tickPage
  dsimp only
  split
  · split <;> simp
  · simp
@[simp] theorem State.tickPage_checks (s : State) (n : Nat) (p : Page) :
    (s.tickPage n p).checks = s.checks := by
  unfold State.tickPage
  dsimp only
  split
  · split <;> simp
  · simp
@[simp] theorem State.tickPage_transit (s : State) (n : Nat) (p : Page) :
    (s.tickPage n p).transit = s.transit := by
  unfold State.tickPage
  dsimp only
  split
  · split <;> simp
  · simp
@[simp] theorem State.tickPage_fwait (s : State) (n : Nat) (p : Page) :
    (s.tickPage n p).fwait = s.fwait := by
  unfold State.tickPage
  dsimp only
  split
  · split <;> simp
  · simp
@[simp] theorem State.tickPage_faulted (s : State) (n : Nat) (p : Page) :
    (s.tickPage n p).faulted = s.faulted := by
  unfold State.tickPage
  dsimp only
  split
  · split <;> simp
  · simp

/-! ### passTime -/

@[simp] theorem State.passTime_pending (s : State) (n : Nat) :
    (s.passTime n).pending = s.pending := by unfold State.passTime; rw [foldl_keeps State.pending (by simp)]
@[simp] theorem State.passTime_out (s : State) (n : Nat) :
    (s.passTime n).out = s.out := by unfold State.passTime; rw [foldl_keeps State.out (by simp)]
@[simp] theorem State.passTime_free (s : State) (n : Nat) :
    (s.passTime n).free = s.free := by unfold State.passTime; rw [foldl_keeps State.free (by simp)]
@[simp] theorem State.passTime_mem (s : State) (n : Nat) :
    (s.passTime n).mem = s.mem := by unfold State.passTime; rw [foldl_keeps State.mem (by simp)]
@[simp] theorem State.passTime_cores (s : State) (n : Nat) :
    (s.passTime n).cores = s.cores := by unfold State.passTime; rw [foldl_keeps State.cores (by simp)]
@[simp] theorem State.passTime_wins (s : State) (n : Nat) :
    (s.passTime n).wins = s.wins := by unfold State.passTime; rw [foldl_keeps State.wins (by simp)]
@[simp] theorem State.passTime_winTurn (s : State) (n : Nat) :
    (s.passTime n).winTurn = s.winTurn := by unfold State.passTime; rw [foldl_keeps State.winTurn (by simp)]
@[simp] theorem State.passTime_tallies (s : State) (n : Nat) :
    (s.passTime n).tallies = s.tallies := by unfold State.passTime; rw [foldl_keeps State.tallies (by simp)]
@[simp] theorem State.passTime_dies (s : State) (n : Nat) :
    (s.passTime n).dies = s.dies := by unfold State.passTime; rw [foldl_keeps State.dies (by simp)]
@[simp] theorem State.passTime_opNum (s : State) (n : Nat) :
    (s.passTime n).opNum = s.opNum := by unfold State.passTime; rw [foldl_keeps State.opNum (by simp)]
@[simp] theorem State.passTime_ridges (s : State) (n : Nat) :
    (s.passTime n).ridges = s.ridges := by unfold State.passTime; rw [foldl_keeps State.ridges (by simp)]
@[simp] theorem State.passTime_dmas (s : State) (n : Nat) :
    (s.passTime n).dmas = s.dmas := by unfold State.passTime; rw [foldl_keeps State.dmas (by simp)]
@[simp] theorem State.passTime_ports (s : State) (n : Nat) :
    (s.passTime n).ports = s.ports := by unfold State.passTime; rw [foldl_keeps State.ports (by simp)]
@[simp] theorem State.passTime_fab (s : State) (n : Nat) :
    (s.passTime n).fab = s.fab := by unfold State.passTime; rw [foldl_keeps State.fab (by simp)]
@[simp] theorem State.passTime_cfls (s : State) (n : Nat) :
    (s.passTime n).cfls = s.cfls := by unfold State.passTime; rw [foldl_keeps State.cfls (by simp)]
@[simp] theorem State.passTime_treads (s : State) (n : Nat) :
    (s.passTime n).treads = s.treads := by unfold State.passTime; rw [foldl_keeps State.treads (by simp)]
@[simp] theorem State.passTime_stepm (s : State) (n : Nat) :
    (s.passTime n).stepm = s.stepm := by unfold State.passTime; rw [foldl_keeps State.stepm (by simp)]
@[simp] theorem State.passTime_oxb (s : State) (n : Nat) :
    (s.passTime n).oxb = s.oxb := by unfold State.passTime; rw [foldl_keeps State.oxb (by simp)]
@[simp] theorem State.passTime_dig (s : State) (n : Nat) :
    (s.passTime n).dig = s.dig := by unfold State.passTime; rw [foldl_keeps State.dig (by simp)]
@[simp] theorem State.passTime_board (s : State) (n : Nat) :
    (s.passTime n).board = s.board := by unfold State.passTime; rw [foldl_keeps State.board (by simp)]
@[simp] theorem State.passTime_mgmt (s : State) (n : Nat) :
    (s.passTime n).mgmt = s.mgmt := by unfold State.passTime; rw [foldl_keeps State.mgmt (by simp)]
@[simp] theorem State.passTime_lad (s : State) (n : Nat) :
    (s.passTime n).lad = s.lad := by unfold State.passTime; rw [foldl_keeps State.lad (by simp)]
@[simp] theorem State.passTime_host (s : State) (n : Nat) :
    (s.passTime n).host = s.host := by unfold State.passTime; rw [foldl_keeps State.host (by simp)]
@[simp] theorem State.passTime_plat (s : State) (n : Nat) :
    (s.passTime n).plat = s.plat := by unfold State.passTime; rw [foldl_keeps State.plat (by simp)]
@[simp] theorem State.passTime_boot (s : State) (n : Nat) :
    (s.passTime n).boot = s.boot := by unfold State.passTime; rw [foldl_keeps State.boot (by simp)]
@[simp] theorem State.passTime_checks (s : State) (n : Nat) :
    (s.passTime n).checks = s.checks := by unfold State.passTime; rw [foldl_keeps State.checks (by simp)]
@[simp] theorem State.passTime_transit (s : State) (n : Nat) :
    (s.passTime n).transit = s.transit := by unfold State.passTime; rw [foldl_keeps State.transit (by simp)]
@[simp] theorem State.passTime_fwait (s : State) (n : Nat) :
    (s.passTime n).fwait = s.fwait := by unfold State.passTime; rw [foldl_keeps State.fwait (by simp)]
@[simp] theorem State.passTime_faulted (s : State) (n : Nat) :
    (s.passTime n).faulted = s.faulted := by unfold State.passTime; rw [foldl_keeps State.faulted (by simp)]

/-! ### advance -/

@[simp] theorem State.advance_pending (s : State) (since : W64) (n : Nat) :
    (s.advance since n).pending = s.pending := by unfold State.advance; split <;> simp
@[simp] theorem State.advance_out (s : State) (since : W64) (n : Nat) :
    (s.advance since n).out = s.out := by unfold State.advance; split <;> simp
@[simp] theorem State.advance_free (s : State) (since : W64) (n : Nat) :
    (s.advance since n).free = s.free := by unfold State.advance; split <;> simp
@[simp] theorem State.advance_mem (s : State) (since : W64) (n : Nat) :
    (s.advance since n).mem = s.mem := by unfold State.advance; split <;> simp
@[simp] theorem State.advance_cores (s : State) (since : W64) (n : Nat) :
    (s.advance since n).cores = s.cores := by unfold State.advance; split <;> simp
@[simp] theorem State.advance_wins (s : State) (since : W64) (n : Nat) :
    (s.advance since n).wins = s.wins := by unfold State.advance; split <;> simp
@[simp] theorem State.advance_winTurn (s : State) (since : W64) (n : Nat) :
    (s.advance since n).winTurn = s.winTurn := by unfold State.advance; split <;> simp
@[simp] theorem State.advance_tallies (s : State) (since : W64) (n : Nat) :
    (s.advance since n).tallies = s.tallies := by unfold State.advance; split <;> simp
@[simp] theorem State.advance_dies (s : State) (since : W64) (n : Nat) :
    (s.advance since n).dies = s.dies := by unfold State.advance; split <;> simp
@[simp] theorem State.advance_opNum (s : State) (since : W64) (n : Nat) :
    (s.advance since n).opNum = s.opNum := by unfold State.advance; split <;> simp
@[simp] theorem State.advance_ridges (s : State) (since : W64) (n : Nat) :
    (s.advance since n).ridges = s.ridges := by unfold State.advance; split <;> simp
@[simp] theorem State.advance_dmas (s : State) (since : W64) (n : Nat) :
    (s.advance since n).dmas = s.dmas := by unfold State.advance; split <;> simp
@[simp] theorem State.advance_ports (s : State) (since : W64) (n : Nat) :
    (s.advance since n).ports = s.ports := by unfold State.advance; split <;> simp
@[simp] theorem State.advance_fab (s : State) (since : W64) (n : Nat) :
    (s.advance since n).fab = s.fab := by unfold State.advance; split <;> simp
@[simp] theorem State.advance_cfls (s : State) (since : W64) (n : Nat) :
    (s.advance since n).cfls = s.cfls := by unfold State.advance; split <;> simp
@[simp] theorem State.advance_treads (s : State) (since : W64) (n : Nat) :
    (s.advance since n).treads = s.treads := by unfold State.advance; split <;> simp
@[simp] theorem State.advance_stepm (s : State) (since : W64) (n : Nat) :
    (s.advance since n).stepm = s.stepm := by unfold State.advance; split <;> simp
@[simp] theorem State.advance_oxb (s : State) (since : W64) (n : Nat) :
    (s.advance since n).oxb = s.oxb := by unfold State.advance; split <;> simp
@[simp] theorem State.advance_dig (s : State) (since : W64) (n : Nat) :
    (s.advance since n).dig = s.dig := by unfold State.advance; split <;> simp
@[simp] theorem State.advance_board (s : State) (since : W64) (n : Nat) :
    (s.advance since n).board = s.board := by unfold State.advance; split <;> simp
@[simp] theorem State.advance_mgmt (s : State) (since : W64) (n : Nat) :
    (s.advance since n).mgmt = s.mgmt := by unfold State.advance; split <;> simp
@[simp] theorem State.advance_lad (s : State) (since : W64) (n : Nat) :
    (s.advance since n).lad = s.lad := by unfold State.advance; split <;> simp
@[simp] theorem State.advance_host (s : State) (since : W64) (n : Nat) :
    (s.advance since n).host = s.host := by unfold State.advance; split <;> simp
@[simp] theorem State.advance_plat (s : State) (since : W64) (n : Nat) :
    (s.advance since n).plat = s.plat := by unfold State.advance; split <;> simp
@[simp] theorem State.advance_boot (s : State) (since : W64) (n : Nat) :
    (s.advance since n).boot = s.boot := by unfold State.advance; split <;> simp
@[simp] theorem State.advance_checks (s : State) (since : W64) (n : Nat) :
    (s.advance since n).checks = s.checks := by unfold State.advance; split <;> simp
@[simp] theorem State.advance_transit (s : State) (since : W64) (n : Nat) :
    (s.advance since n).transit = s.transit := by unfold State.advance; split <;> simp
@[simp] theorem State.advance_fwait (s : State) (since : W64) (n : Nat) :
    (s.advance since n).fwait = s.fwait := by unfold State.advance; split <;> simp
@[simp] theorem State.advance_faulted (s : State) (since : W64) (n : Nat) :
    (s.advance since n).faulted = s.faulted := by unfold State.advance; split <;> simp

end Sys2Proof.Machine
end

