-- ==== Sys2Proof/Laws/Table.lean ====
section
/-! SUPPORT. Sparse tables and sets: what a read gives after a write, and that writes keep the canonical form. -/
namespace Sys2Proof.Machine

variable {α : Type}

/-! ### Reads -/

@[simp] theorem Table.find_nil (k : Nat) : Table.find k ([] : Table α) = none := rfl

theorem Table.find_cons (k : Nat) (e : Nat × α) (t : Table α) :
    Table.find k (e :: t) = if e.1 = k then some e.2 else Table.find k t := rfl

@[simp] theorem Table.find_erase_same (k : Nat) (t : Table α) : Table.find k (Table.erase k t) = none := by
  induction t with
  | nil => rfl
  | cons e t ih =>
    by_cases h : e.1 = k
    · simp [Table.erase, h, ih]
    · simp [Table.erase, h, Table.find_cons, ih]

theorem Table.find_erase_ne {j k : Nat} (h : j ≠ k) (t : Table α) : Table.find j (Table.erase k t) = Table.find j t := by
  induction t with
  | nil => rfl
  | cons e t ih =>
    by_cases hk : e.1 = k
    · have hj : e.1 ≠ j := fun hj => h (hj.symm.trans hk)
      simp only [Table.erase, hk, if_true, Table.find_cons, ih, if_neg (hk ▸ hj)]
    · simp only [Table.erase, hk, if_false, Table.find_cons, ih]

@[simp] theorem Table.find_insert_same (k : Nat) (v : α) (t : Table α) (h : Table.find k t = none) :
    Table.find k (Table.insert k v t) = some v := by
  induction t with
  | nil => simp [Table.insert, Table.find_cons]
  | cons e t ih =>
    by_cases hk : e.1 = k
    · simp [Table.find_cons, hk] at h
    · simp only [Table.find_cons, hk, if_false] at h
      by_cases hl : k < e.1
      · simp [Table.insert, hl, Table.find_cons]
      · simp [Table.insert, hl, Table.find_cons, hk, ih h]

theorem Table.find_insert_ne {j k : Nat} (h : j ≠ k) (v : α) (t : Table α) :
    Table.find j (Table.insert k v t) = Table.find j t := by
  have h' : k ≠ j := fun e => h e.symm
  induction t with
  | nil => simp [Table.insert, Table.find_cons, h']
  | cons e t ih =>
    by_cases hl : k < e.1
    · simp [Table.insert, hl, Table.find_cons, h']
    · simp [Table.insert, hl, Table.find_cons, ih]

/-- A read of the key just written gives the value written. -/
@[simp] theorem Table.get_set_same [DecidableEq α] (d : Nat → α) (t : Table α) (k : Nat) (v : α) :
    Table.get d (Table.set d t k v) k = v := by
  unfold Table.get Table.set
  by_cases h : v = d k
  · simp [h]
  · simp [h]

/-- A write leaves every other key alone. -/
theorem Table.get_set_ne [DecidableEq α] (d : Nat → α) (t : Table α) {j k : Nat} (h : j ≠ k) (v : α) :
    Table.get d (Table.set d t k v) j = Table.get d t j := by
  unfold Table.get Table.set
  by_cases hv : v = d k
  · simp [hv, Table.find_erase_ne h]
  · simp [hv, Table.find_insert_ne h, Table.find_erase_ne h]

/-- What a read gives after a write. -/
theorem Table.get_set [DecidableEq α] (d : Nat → α) (t : Table α) (j k : Nat) (v : α) :
    Table.get d (Table.set d t k v) j = if j = k then v else Table.get d t j := by
  by_cases h : j = k
  · subst h; simp
  · simp [h, Table.get_set_ne d t h v]

/-! ### The canonical form -/

/-- Every key is above `n`. -/
def Table.above (n : Nat) (t : Table α) : Prop := ∀ e ∈ t, n < e.1

/-- The canonical form of a list with a head: the head is not the unlisted value and lies below the rest. -/
theorem Table.wf_cons [DecidableEq α] (d : Nat → α) (e : Nat × α) (t : Table α) :
    Table.wf d (e :: t) = true ↔ e.2 ≠ d e.1 ∧ Table.above e.1 t ∧ Table.wf d t = true := by
  induction t generalizing e with
  | nil => simp [Table.wf, Table.above]
  | cons f t ih =>
    simp only [Table.wf, Bool.and_eq_true, decide_eq_true_eq]
    constructor
    · rintro ⟨⟨h1, h2⟩, h3⟩
      refine ⟨h1, ?_, h3⟩
      intro x hx
      rcases List.mem_cons.mp hx with rfl | hx
      · exact h2
      · exact Nat.lt_trans h2 (((ih f).mp h3).2.1 x hx)
    · rintro ⟨h1, h2, h3⟩
      exact ⟨⟨h1, h2 f (by simp)⟩, h3⟩

theorem Table.above_erase {n : Nat} (k : Nat) {t : Table α} (h : Table.above n t) : Table.above n (Table.erase k t) := by
  induction t with
  | nil => exact h
  | cons e t ih =>
    have ht : Table.above n t := fun x hx => h x (List.mem_cons_of_mem _ hx)
    by_cases hk : e.1 = k
    · simpa [Table.erase, hk] using ih ht
    · intro x hx
      simp only [Table.erase, hk, if_false] at hx
      rcases List.mem_cons.mp hx with rfl | hx
      · exact h x (by simp)
      · exact ih ht x hx

theorem Table.above_insert {n k : Nat} (v : α) {t : Table α} (hk : n < k) (h : Table.above n t) :
    Table.above n (Table.insert k v t) := by
  induction t with
  | nil => intro x hx; simp [Table.insert] at hx; simp [hx, hk]
  | cons e t ih =>
    have ht : Table.above n t := fun x hx => h x (List.mem_cons_of_mem _ hx)
    by_cases hl : k < e.1
    · intro x hx
      simp only [Table.insert, hl, if_true] at hx
      rcases List.mem_cons.mp hx with rfl | hx
      · exact hk
      · exact h x hx
    · intro x hx
      simp only [Table.insert, hl, if_false] at hx
      rcases List.mem_cons.mp hx with rfl | hx
      · exact h x (by simp)
      · exact ih ht x hx

/-- Erasing a key keeps the canonical form. -/
theorem Table.wf_erase [DecidableEq α] (d : Nat → α) (k : Nat) {t : Table α} (h : Table.wf d t = true) :
    Table.wf d (Table.erase k t) = true := by
  induction t with
  | nil => rfl
  | cons e t ih =>
    obtain ⟨h1, h2, h3⟩ := (Table.wf_cons d e t).mp h
    by_cases hk : e.1 = k
    · simpa [Table.erase, hk] using ih h3
    · simp only [Table.erase, hk, if_false]
      exact (Table.wf_cons d _ _).mpr ⟨h1, Table.above_erase k h2, ih h3⟩

/-- A canonical table lists a key once at most, so one erasure removes it. -/
theorem Table.erase_no_key (k : Nat) (t : Table α) : ∀ e ∈ Table.erase k t, e.1 ≠ k := by
  induction t with
  | nil => intro e he; simp [Table.erase] at he
  | cons f t ih =>
    by_cases hk : f.1 = k
    · simpa [Table.erase, hk] using ih
    · intro e he
      simp only [Table.erase, hk, if_false] at he
      rcases List.mem_cons.mp he with rfl | he
      · exact hk
      · exact ih e he

theorem Table.wf_insert [DecidableEq α] (d : Nat → α) {k : Nat} {v : α} {t : Table α} (hv : v ≠ d k)
    (hn : ∀ e ∈ t, e.1 ≠ k) (h : Table.wf d t = true) : Table.wf d (Table.insert k v t) = true := by
  induction t with
  | nil => simp [Table.insert, Table.wf, hv]
  | cons e t ih =>
    obtain ⟨h1, h2, h3⟩ := (Table.wf_cons d e t).mp h
    by_cases hl : k < e.1
    · simp only [Table.insert, hl, if_true]
      refine (Table.wf_cons d _ _).mpr ⟨hv, ?_, h⟩
      intro x hx
      rcases List.mem_cons.mp hx with rfl | hx
      · exact hl
      · exact Nat.lt_trans hl (h2 x hx)
    · simp only [Table.insert, hl, if_false]
      have hk : e.1 < k := by have := hn e (by simp); omega
      exact (Table.wf_cons d _ _).mpr ⟨h1, Table.above_insert v hk h2, ih (fun x hx => hn x (List.mem_cons_of_mem _ hx)) h3⟩

/-- A write keeps the canonical form. -/
theorem Table.wf_set [DecidableEq α] (d : Nat → α) (k : Nat) (v : α) {t : Table α} (h : Table.wf d t = true) :
    Table.wf d (Table.set d t k v) = true := by
  unfold Table.set
  by_cases hv : v = d k
  · simpa [hv] using Table.wf_erase d k h
  · simpa [hv] using Table.wf_insert d hv (Table.erase_no_key k t) (Table.wf_erase d k h)

/-! ### Tables that list whatever is put into them -/

/-- A read of the key just put gives what was put. -/
@[simp] theorem Table.find_put_same (t : Table α) (k : Nat) (v : α) : Table.find k (Table.put t k v) = some v :=
  Table.find_insert_same _ _ _ (Table.find_erase_same _ _)

/-- A put leaves every other key alone. -/
theorem Table.find_put_ne (t : Table α) {j k : Nat} (h : j ≠ k) (v : α) : Table.find j (Table.put t k v) = Table.find j t := by
  unfold Table.put
  rw [Table.find_insert_ne h, Table.find_erase_ne h]

theorem Table.rising_cons (e : Nat × α) (t : Table α) :
    Table.rising (e :: t) = true ↔ Table.above e.1 t ∧ Table.rising t = true := by
  induction t generalizing e with
  | nil => simp [Table.rising, NatSet.wf, Table.above]
  | cons f t ih =>
    have hd : Table.rising (e :: f :: t) = (decide (e.1 < f.1) && Table.rising (f :: t)) := rfl
    rw [hd, Bool.and_eq_true, decide_eq_true_eq]
    constructor
    · rintro ⟨h1, h2⟩
      refine ⟨?_, h2⟩
      intro x hx
      rcases List.mem_cons.mp hx with rfl | hx
      · exact h1
      · exact Nat.lt_trans h1 (((ih f).mp h2).1 x hx)
    · rintro ⟨h1, h2⟩
      exact ⟨h1 f (by simp), h2⟩

theorem Table.rising_erase (k : Nat) {t : Table α} (h : Table.rising t = true) : Table.rising (Table.erase k t) = true := by
  induction t with
  | nil => rfl
  | cons e t ih =>
    obtain ⟨h1, h2⟩ := (Table.rising_cons e t).mp h
    by_cases hk : e.1 = k
    · simpa [Table.erase, hk] using ih h2
    · simp only [Table.erase, hk, if_false]
      exact (Table.rising_cons _ _).mpr ⟨Table.above_erase k h1, ih h2⟩

theorem Table.rising_insert {k : Nat} (v : α) {t : Table α} (hn : ∀ e ∈ t, e.1 ≠ k) (h : Table.rising t = true) :
    Table.rising (Table.insert k v t) = true := by
  induction t with
  | nil => rfl
  | cons e t ih =>
    obtain ⟨h1, h2⟩ := (Table.rising_cons e t).mp h
    by_cases hl : k < e.1
    · simp only [Table.insert, hl, if_true]
      refine (Table.rising_cons _ _).mpr ⟨?_, h⟩
      intro x hx
      rcases List.mem_cons.mp hx with rfl | hx
      · exact hl
      · exact Nat.lt_trans hl (h1 x hx)
    · simp only [Table.insert, hl, if_false]
      have hk : e.1 < k := by have := hn e (by simp); omega
      exact (Table.rising_cons _ _).mpr ⟨Table.above_insert v hk h1, ih (fun x hx => hn x (List.mem_cons_of_mem _ hx)) h2⟩

/-- A put keeps the keys rising. -/
theorem Table.rising_put (k : Nat) (v : α) {t : Table α} (h : Table.rising t = true) : Table.rising (Table.put t k v) = true :=
  Table.rising_insert v (Table.erase_no_key k t) (Table.rising_erase k h)

theorem Table.above_filter {n : Nat} (f : Nat × α → Bool) {t : Table α} (h : Table.above n t) : Table.above n (t.filter f) :=
  fun e he => h e (List.mem_filter.mp he).1

/-- Every part of a table with rising keys has rising keys. -/
theorem Table.rising_filter (f : Nat × α → Bool) {t : Table α} (h : Table.rising t = true) :
    Table.rising (t.filter f) = true := by
  induction t with
  | nil => rfl
  | cons e t ih =>
    obtain ⟨h1, h2⟩ := (Table.rising_cons e t).mp h
    by_cases hf : f e = true
    · simp only [List.filter_cons, hf, if_true]
      exact (Table.rising_cons _ _).mpr ⟨Table.above_filter f h1, ih h2⟩
    · simpa [List.filter_cons, hf] using ih h2

/-- Every part of a canonical table is canonical. -/
theorem Table.wf_filter [DecidableEq α] (d : Nat → α) (f : Nat × α → Bool) {t : Table α} (h : Table.wf d t = true) :
    Table.wf d (t.filter f) = true := by
  induction t with
  | nil => rfl
  | cons e t ih =>
    obtain ⟨h1, h2, h3⟩ := (Table.wf_cons d e t).mp h
    by_cases hf : f e = true
    · simp only [List.filter_cons, hf, if_true]
      exact (Table.wf_cons d _ _).mpr ⟨h1, Table.above_filter f h2, ih h3⟩
    · simpa [List.filter_cons, hf] using ih h3

/-! ### Sets -/

@[simp] theorem NatSet.has_add (s : NatSet) (n m : Nat) : (NatSet.add n s).has m = (decide (m = n) || s.has m) := by
  induction s with
  | nil => simp [NatSet.add, NatSet.has]
  | cons k t ih =>
    by_cases h1 : n < k
    · simp [NatSet.add, h1, NatSet.has]
    · by_cases h2 : n = k
      · subst h2; simp [NatSet.add, NatSet.has]
      · simp only [NatSet.add, h1, h2, if_false]
        simp only [NatSet.has] at ih ⊢
        simp only [List.contains_cons, ih]
        cases (m == k) <;> simp

@[simp] theorem NatSet.has_del (s : NatSet) (n m : Nat) : (NatSet.del n s).has m = (decide (m ≠ n) && s.has m) := by
  by_cases h : m = n
  · subst h; simp [NatSet.del, NatSet.has]
  · simp [NatSet.del, NatSet.has, h]

theorem NatSet.wf_cons (a : Nat) (s : NatSet) : NatSet.wf (a :: s) = true ↔ (∀ b ∈ s, a < b) ∧ NatSet.wf s = true := by
  induction s generalizing a with
  | nil => simp [NatSet.wf]
  | cons b t ih =>
    simp only [NatSet.wf, Bool.and_eq_true, decide_eq_true_eq]
    constructor
    · rintro ⟨h1, h2⟩
      refine ⟨?_, h2⟩
      intro x hx
      rcases List.mem_cons.mp hx with rfl | hx
      · exact h1
      · exact Nat.lt_trans h1 (((ih b).mp h2).1 x hx)
    · rintro ⟨h1, h2⟩
      exact ⟨h1 b (by simp), h2⟩

/-- Adding an element keeps the canonical form. -/
theorem NatSet.wf_add (n : Nat) {s : NatSet} (h : NatSet.wf s = true) : NatSet.wf (NatSet.add n s) = true := by
  induction s with
  | nil => rfl
  | cons k t ih =>
    obtain ⟨h1, h2⟩ := (NatSet.wf_cons k t).mp h
    by_cases hl : n < k
    · simp only [NatSet.add, hl, if_true]
      refine (NatSet.wf_cons _ _).mpr ⟨?_, h⟩
      intro x hx
      rcases List.mem_cons.mp hx with rfl | hx
      · exact hl
      · exact Nat.lt_trans hl (h1 x hx)
    · by_cases he : n = k
      · subst he; simpa [NatSet.add] using h
      · simp only [NatSet.add, hl, he, if_false]
        refine (NatSet.wf_cons _ _).mpr ⟨?_, ih h2⟩
        intro x hx
        have := NatSet.has_add t n x
        have hx' : (NatSet.add n t).has x = true := by simpa [NatSet.has] using hx
        rw [hx'] at this
        rcases Bool.or_eq_true _ _ ▸ this.symm with h' | h'
        · have : x = n := of_decide_eq_true h'; omega
        · exact h1 x (by simpa [NatSet.has] using h')

/-- Every sublist of a canonical set is canonical. -/
theorem NatSet.wf_filter (f : Nat → Bool) {s : NatSet} (h : NatSet.wf s = true) : NatSet.wf (s.filter f) = true := by
  induction s with
  | nil => rfl
  | cons k t ih =>
    obtain ⟨h1, h2⟩ := (NatSet.wf_cons k t).mp h
    by_cases hk : f k = true
    · simp only [List.filter_cons, hk, if_true]
      exact (NatSet.wf_cons _ _).mpr ⟨fun x hx => h1 x ((List.mem_filter.mp hx).1), ih h2⟩
    · simpa [List.filter_cons, hk] using ih h2

/-- Removing an element keeps the canonical form. -/
theorem NatSet.wf_del (n : Nat) {s : NatSet} (h : NatSet.wf s = true) : NatSet.wf (NatSet.del n s) = true :=
  NatSet.wf_filter _ h

theorem NatSet.wf_put (n : Nat) (b : Bool) {s : NatSet} (h : NatSet.wf s = true) : NatSet.wf (NatSet.put s n b) = true := by
  unfold NatSet.put
  cases b
  · exact NatSet.wf_del n h
  · exact NatSet.wf_add n h

end Sys2Proof.Machine
end

