-- ==== Sys2Proof/Laws/Memory.lean ====
section
/-! SUPPORT. The operations of memory keep its invariant: the canonical form, the two Page Map copies in agreement, the state
of the stacks and links. -/
namespace Sys2Proof.Machine

/-! ### The canonical form -/

/-- The parts of the canonical form, by name. -/
structure Mem.Canon (m : Mem) : Prop where
  hbm : Table.rising m.hbm = true
  fill : Table.wf (fun _ => 0) m.fill = true
  draws : Table.wf (fun _ => 0) m.draws = true
  touched : Table.wf (fun _ => 0) m.touched = true
  poison : NatSet.wf m.poison = true
  freed : NatSet.wf m.freed = true
  winFresh : NatSet.wf m.winFresh = true
  marked : NatSet.wf m.marked = true
  pmap0 : Table.wf (fun _ => 0) m.pmap0 = true
  pmap1 : Table.wf (fun _ => 0) m.pmap1 = true
  lost : NatSet.wf m.lost = true

theorem Mem.wf_iff (m : Mem) : m.wf = true ↔ m.Canon := by
  simp only [Mem.wf, Bool.and_eq_true]
  constructor
  · rintro ⟨⟨⟨⟨⟨⟨⟨⟨⟨⟨a, b⟩, c⟩, d⟩, e⟩, f⟩, g⟩, h⟩, i⟩, j⟩, k⟩
    exact ⟨a, b, c, d, e, f, g, h, i, j, k⟩
  · rintro ⟨a, b, c, d, e, f, g, h, i, j, k⟩
    exact ⟨⟨⟨⟨⟨⟨⟨⟨⟨⟨a, b⟩, c⟩, d⟩, e⟩, f⟩, g⟩, h⟩, i⟩, j⟩, k⟩

theorem Mem.Inv.canon {m : Mem} (h : m.Inv) : m.Canon := (Mem.wf_iff m).mp h.form

/-- A memory with the same Page Map and stacks, in canonical form, keeps the invariant. -/
theorem Mem.Inv.of_canon {m n : Mem} (h : m.Inv) (c : n.Canon) (e : n = { m with
    hbm := n.hbm, fill := n.fill, draws := n.draws, touched := n.touched, poison := n.poison, freed := n.freed
    winFresh := n.winFresh, marked := n.marked, lost := n.lost, spillAt := n.spillAt, winStale := n.winStale
    xcache := n.xcache, scrub := n.scrub, marking := n.marking, handed := n.handed, astray := n.astray }) : n.Inv := by
  have f : n.wf = true := (Mem.wf_iff n).mpr c
  rw [e] at f ⊢
  exact ⟨f, h.copies, h.stackOk, h.served, h.batches, h.links⟩

/-- Storing bytes keeps the table of cells canonical. -/
theorem wf_putBytes (bs : List (Nat × Byte)) {t : Table Byte} (h : Table.rising t = true) :
    Table.rising (putBytes t bs) = true := by
  unfold putBytes
  induction bs generalizing t with
  | nil => exact h
  | cons b l ih => exact ih (Table.rising_put _ _ h)

/-! ### States with the same memory -/

theorem MemInv.of_mem {s t : State} (e : t.mem = s.mem) (h : s.MemInv) : t.MemInv := by
  unfold State.MemInv at *; rw [e]; exact h

theorem MemInv.ite {c : Prop} [Decidable c] {a b : State} (ha : c → a.MemInv) (hb : ¬c → b.MemInv) :
    (if c then a else b).MemInv := by
  split
  · exact ha ‹_›
  · exact hb ‹_›

theorem MemInv.foldl {α : Type} {f : State → α → State} (hf : ∀ t x, t.MemInv → (f t x).MemInv) (l : List α) {s : State}
    (h : s.MemInv) : (l.foldl f s).MemInv := by
  induction l generalizing s with
  | nil => exact h
  | cons a l ih => exact ih (hf s a h)

/-! ### Bytes and poison -/

theorem State.settle_memInv (s : State) (g : Nat) (h : s.MemInv) : (s.settle g).MemInv := by
  unfold State.settle
  refine MemInv.ite (fun _ => ?_) (fun _ => h)
  have c := Mem.Inv.canon h
  refine Mem.Inv.of_canon h { c with
    hbm := Table.rising_filter _ c.hbm, draws := Table.wf_set _ g (s.free + 1) c.draws, freed := NatSet.wf_del _ c.freed
    winFresh := ?_ } rfl
  dsimp only
  split
  · exact NatSet.wf_add _ c.winFresh
  · exact c.winFresh

theorem Mem.Inv.touch {m : Mem} (h : m.Inv) (g : Nat) : (m.touch g).Inv := by
  unfold Mem.touch
  split
  · exact h
  · exact h.of_canon { h.canon with touched := Table.wf_set _ _ _ h.canon.touched } rfl

theorem State.markFrame_memInv (s : State) (g : Nat) (h : s.MemInv) : (s.markFrame g).MemInv := by
  have h' := Mem.Inv.touch h g
  unfold State.markFrame State.MemInv
  dsimp only
  split
  · exact h'.of_canon { h'.canon with marked := NatSet.wf_add _ h'.canon.marked } rfl
  · exact h'

theorem State.writeGran_memInv (s : State) (g : Nat) (bs : List (Nat × Byte)) (h : s.MemInv) : (s.writeGran g bs).MemInv := by
  unfold State.writeGran
  refine MemInv.ite (fun _ => h) (fun _ => ?_)
  have h' := State.markFrame_memInv _ g (State.settle_memInv s g h)
  have c := Mem.Inv.canon h'
  refine Mem.Inv.of_canon h' { c with hbm := wf_putBytes _ c.hbm, poison := NatSet.wf_del _ c.poison, freed := ?_ } rfl
  dsimp only
  split
  · exact NatSet.wf_add _ c.freed
  · exact c.freed

theorem State.poisonGran_memInv (s : State) (g : Nat) (h : s.MemInv) : (s.poisonGran g).MemInv :=
  Mem.Inv.of_canon h { Mem.Inv.canon h with poison := NatSet.wf_add _ (Mem.Inv.canon h).poison } rfl

theorem wf_addAll (l : List Nat) {s : NatSet} (h : NatSet.wf s = true) :
    NatSet.wf (l.foldl (fun m g => NatSet.add g m) s) = true := by
  induction l generalizing s with
  | nil => exact h
  | cons a l ih => exact ih (NatSet.wf_add a h)

theorem State.discard_memInv (s : State) (k n : Nat) (h : s.MemInv) : (s.discard k n).MemInv :=
  Mem.Inv.of_canon h { Mem.Inv.canon h with freed := wf_addAll _ (Mem.Inv.canon h).freed } rfl

/-- The rows of the spill copy are cleared before they are rewritten. -/
theorem Mem.Inv.clearRows {m : Mem} (h : m.Inv) (w : Nat) (f : Nat × Byte → Bool) (g : Nat × Nat → Bool) (p q : Nat → Bool) :
    Mem.Inv { m with spillAt := w, hbm := m.hbm.filter f, draws := m.draws.filter g, poison := m.poison.filter p
                     freed := m.freed.filter q } :=
  h.of_canon { h.canon with
    hbm := Table.rising_filter _ h.canon.hbm, draws := Table.wf_filter _ _ h.canon.draws
    poison := NatSet.wf_filter _ h.canon.poison, freed := NatSet.wf_filter _ h.canon.freed } rfl

/-! ### The mailbox -/

theorem Mem.Inv.setHanded {m : Mem} (h : m.Inv) (n : Nat) : Mem.Inv { m with handed := n } := h.of_canon { h.canon with } rfl

theorem Mem.Inv.noTouch {m : Mem} (h : m.Inv) : Mem.Inv { m with handed := 0, touched := [] } :=
  h.of_canon { h.canon with touched := rfl } rfl

/-- The writes of a service are not software's: they leave what was touched as it was. -/
theorem Mem.Inv.keepTouched {m n : Mem} (hm : m.Inv) (h : n.Inv) : Mem.Inv { n with touched := m.touched } :=
  h.of_canon { h.canon with touched := hm.canon.touched } rfl

/-! ### The Page Map -/

theorem State.setPmap_memInv (s : State) (p : Nat) (e : W64) (h : s.MemInv) : (s.setPmap p e).MemInv := by
  have c := Mem.Inv.canon h
  refine ⟨(Mem.wf_iff _).mpr { c with
    pmap0 := Table.wf_set _ _ _ c.pmap0, pmap1 := Table.wf_set _ _ _ c.pmap1, lost := NatSet.wf_del _ c.lost }, ?_,
    h.stackOk, h.served, h.batches, h.links⟩
  simp only [State.setPmap, h.copies]

/-- A memory that differs in nothing that the invariant speaks of. -/
theorem Mem.Inv.congr {m n : Mem} (h : m.Inv) (e : n = { m with
    winStale := n.winStale, xcache := n.xcache, scrub := n.scrub, marking := n.marking, astray := n.astray }) : n.Inv := by
  refine h.of_canon ?_ (by rw [e])
  rw [e]
  exact { h.canon with }

theorem Mem.Inv.setMarking {m : Mem} (h : m.Inv) (b : Bool) : Mem.Inv { m with marking := b } := h.congr rfl

theorem Mem.Inv.setReady {m : Mem} (h : m.Inv) (e : ∀ k < 8, m.ready.has k = true ∨ m.failed.has k = true) :
    Mem.Inv { m with pmapReady := true } :=
  ⟨(Mem.wf_iff _).mpr { h.canon with }, h.copies, h.stackOk, fun _ => e, h.batches, h.links⟩

/-- A resize of the window leaves the Page Map not served. -/
theorem Mem.Inv.resize {m : Mem} (h : m.Inv) (n : Nat) (f : Nat → Bool) :
    Mem.Inv { m with winStale := n, winFresh := m.winFresh.filter f, spillAt := 0, pmapReady := false } :=
  ⟨(Mem.wf_iff _).mpr { h.canon with winFresh := NatSet.wf_filter _ h.canon.winFresh }, h.copies, h.stackOk, (by rintro ⟨⟩),
    h.batches, h.links⟩

theorem Mem.Inv.addFilling {m : Mem} (h : m.Inv) {k : Nat} (hr : m.ready.has k = false) (hf : m.failed.has k = false) :
    Mem.Inv { m with filling := NatSet.add k m.filling } := by
  refine ⟨(Mem.wf_iff _).mpr { h.canon with }, h.copies, fun j => ?_, h.served, h.batches, h.links⟩
  obtain ⟨a, b, c⟩ := h.stackOk j
  by_cases e : j = k
  · subst e; simp [hr, hf]
  · simp [e]; exact ⟨a, b, c⟩

theorem Mem.Inv.addFailed {m : Mem} (h : m.Inv) {k : Nat} (hr : m.ready.has k = false) (hf : m.filling.has k = false) :
    Mem.Inv { m with failed := NatSet.add k m.failed } := by
  refine ⟨(Mem.wf_iff _).mpr { h.canon with }, h.copies, fun j => ?_, fun e k hk => ?_, h.batches, h.links⟩
  · obtain ⟨a, b, c⟩ := h.stackOk j
    by_cases e : j = k
    · subst e; simp [hr, hf]
    · simp [e]; exact ⟨a, b, c⟩
  · rcases h.served e k hk with h | h <;> simp [h]

theorem Mem.Inv.fillDone {m : Mem} (h : m.Inv) {k : Nat} (hf : m.filling.has k = true) (n : Nat) :
    Mem.Inv { m with filling := NatSet.del k m.filling, ready := NatSet.add k m.ready
                     fill := Table.set (fun _ => 0) m.fill k n } := by
  refine ⟨(Mem.wf_iff _).mpr { h.canon with fill := Table.wf_set _ _ _ h.canon.fill }, h.copies, fun j => ?_, fun e k hk => ?_,
    h.batches, h.links⟩
  · obtain ⟨a, b, c⟩ := h.stackOk j
    by_cases e : j = k
    · subst e
      cases hx : m.failed.has j
      · simp
      · rw [c hx] at hf; cases hf
    · simp [e]; exact ⟨a, b, c⟩
  · rcases h.served e k hk with h | h <;> simp [h]

theorem Mem.Inv.addLost {m : Mem} (h : m.Inv) (p : Nat) : Mem.Inv { m with lost := NatSet.add p m.lost } :=
  h.of_canon { h.canon with lost := NatSet.wf_add _ h.canon.lost } rfl

theorem Mem.Inv.setBatch {m : Mem} (h : m.Inv) (b : Batch)
    (hb : b.recs ≠ [] ∧ b.recs.length ≤ 4096 ∧ ∀ r ∈ b.recs, r.1 < 2 ^ 19) : Mem.Inv { m with batch := some b } :=
  ⟨(Mem.wf_iff _).mpr { h.canon with }, h.copies, h.stackOk, h.served, (by rintro c ⟨⟩; exact hb), h.links⟩

theorem Mem.Inv.noBatch {m : Mem} (h : m.Inv) (c : Table (List Nat)) : Mem.Inv { m with batch := none, xcache := c } :=
  ⟨(Mem.wf_iff _).mpr { h.canon with }, h.copies, h.stackOk, h.served, (by rintro c ⟨⟩), h.links⟩

theorem Mem.Inv.noMarks {m : Mem} (h : m.Inv) : Mem.Inv { m with marking := false, marked := [] } :=
  h.of_canon { h.canon with marked := rfl } rfl

/-- A link is taken down. -/
theorem Mem.Inv.linkDown {m : Mem} (h : m.Inv) (l : Nat) :
    Mem.Inv { m with d2dUp := NatSet.del l m.d2dUp, d2dDown := NatSet.add l m.d2dDown } := by
  refine ⟨(Mem.wf_iff _).mpr { h.canon with }, h.copies, h.stackOk, h.served, h.batches, fun j => ?_⟩
  by_cases e : j = l
  · simp [e]
  · simp [e]; exact h.links j

/-- The links that are not down come up. -/
theorem Mem.Inv.linksUp {m : Mem} (h : m.Inv) (n : Nat) :
    Mem.Inv { m with d2dUp := (List.range n).filter fun l => !(m.d2dDown.has l) } := by
  refine ⟨(Mem.wf_iff _).mpr { h.canon with }, h.copies, h.stackOk, h.served, h.batches, fun j hj => ?_⟩
  dsimp only at hj
  simp only [NatSet.has, List.contains_eq_mem, List.mem_filter, decide_eq_false_iff_not, not_and] at hj ⊢
  intro _; simp [hj]

/-! ### What a write of memory can change -/

/-- A write of bytes changes the bytes of memory, what stands for unwritten ones, poison, free contents and marks, and nothing
else. -/
def State.WritesMem (s t : State) : Prop :=
  t = { s with mem := { s.mem with
    hbm := t.mem.hbm, draws := t.mem.draws, touched := t.mem.touched, poison := t.mem.poison, freed := t.mem.freed
    winFresh := t.mem.winFresh, marked := t.mem.marked } }

theorem State.WritesMem.refl (s : State) : s.WritesMem s := rfl

theorem State.WritesMem.trans {s t u : State} (h : s.WritesMem t) (k : t.WritesMem u) : s.WritesMem u := by
  unfold State.WritesMem at *
  rw [h] at k
  exact k

theorem State.WritesMem.foldl {α : Type} {f : State → α → State} (hf : ∀ (s : State) (x : α), s.WritesMem (f s x)) (l : List α) (s : State) :
    s.WritesMem (l.foldl f s) := by
  induction l generalizing s with
  | nil => exact State.WritesMem.refl s
  | cons a l ih => exact (hf s a).trans (ih (f s a))

/-- A write leaves the state of the stacks alone. -/
theorem State.WritesMem.stacks {s t : State} (h : s.WritesMem t) : t.mem.ready = s.mem.ready ∧ t.mem.failed = s.mem.failed := by
  unfold State.WritesMem at h
  rw [h]
  exact ⟨rfl, rfl⟩

theorem State.settle_writes (s : State) (g : Nat) : s.WritesMem (s.settle g) := by
  unfold State.settle; split <;> rfl
theorem State.markFrame_writes (s : State) (g : Nat) : s.WritesMem (s.markFrame g) := by
  unfold State.markFrame Mem.touch
  dsimp only
  split <;> split <;> rfl
theorem State.writeGran_writes (s : State) (g : Nat) (bs : List (Nat × Byte)) : s.WritesMem (s.writeGran g bs) := by
  unfold State.writeGran
  split
  · rfl
  · exact ((s.settle_writes g).trans (State.markFrame_writes _ g)).trans rfl
theorem State.hbmPut_writes (s : State) (bs : List (Nat × Byte)) : s.WritesMem (s.hbmPut bs) :=
  State.WritesMem.foldl (fun t g => t.writeGran_writes g _) _ s
theorem State.hbmWrite_writes (s : State) (k : Nat) (bs : List Byte) : s.WritesMem (s.hbmWrite k bs) := s.hbmPut_writes _
theorem State.winWrite_writes (s : State) (o : Nat) (bs : List Byte) : s.WritesMem (s.winWrite o bs) := s.hbmPut_writes _
theorem State.setWinWord_writes (s : State) (o : Nat) (v : W32) : s.WritesMem (s.setWinWord o v) := s.winWrite_writes _ _

end Sys2Proof.Machine
end

