-- ==== Sys2Proof/Laws/Outcome.lean ====
section
/-! SUPPORT. The invariant of memory over what an operation answers. -/
namespace Sys2Proof.Machine

/-- The invariant speaks of the memory alone. -/
theorem MemInv.mk_iff {mem : Mem}
    {pending : List Instr} {out : List Out} {free : Nat} {refcnt : W64} {io : Bar0} {cores : Table Core} {wins : Table
    Win} {winTurn : Nat} {tallies : Table W32} {dies : Table (List OpRec)} {opNum : Nat} {ridges : Table Ridge} {dmas : Table
    DmaCh} {ports : Table Port} {fab : Fab} {cfls : Table Cfl} {treads : Table (Option TableRead)} {stepm : StepM} {oxb : Oxb}
    {dig : Option Dig} {board : Board} {mgmt : Mgmt} {lad : Ladder} {host : HostIf} {plat : Plat} {boot : Boot}
    {checks : List Check} {transit : List (Nat × Nat × List Slot)} {fwait : List FReq} {faulted : NatSet} :
    State.MemInv
      { mem := mem, pending := pending, out := out, free := free, refcnt := refcnt, io := io, cores := cores, wins
        := wins, winTurn := winTurn, tallies := tallies, dies := dies, opNum := opNum, ridges := ridges, dmas := dmas, ports :=
        ports, fab := fab, cfls := cfls, treads := treads, stepm := stepm, oxb := oxb, dig := dig, board := board, mgmt := mgmt
        lad := lad, host := host, plat := plat, boot := boot, checks := checks, transit := transit, fwait := fwait
        faulted := faulted } ↔ mem.Inv := Iff.rfl

theorem MemInv.mem {s : State} (h : s.MemInv) : s.mem.Inv := h

/-- The next state that an outcome answers, if any, keeps the invariant. -/
def OutInv (o : Host.Outcome State Fault Refusal) : Prop := ∀ t, o = .next t → t.MemInv
/-- A state that an option holds keeps the invariant. -/
def OptInv (o : Option State) : Prop := ∀ t, o = some t → t.MemInv
/-- A state that a result holds keeps the invariant. -/
def ExcInv (o : Except Nat State) : Prop := ∀ t, o = .ok t → t.MemInv

theorem OutInv.next {t : State} (h : t.MemInv) : OutInv (.next t) := by rintro u ⟨⟩; exact h
theorem OptInv.some {t : State} (h : t.MemInv) : OptInv (some t) := by rintro u ⟨⟩; exact h
theorem OptInv.none : OptInv none := by rintro u ⟨⟩
theorem ExcInv.ok {t : State} (h : t.MemInv) : ExcInv (.ok t) := by rintro u ⟨⟩; exact h
theorem ExcInv.error {e : Nat} : ExcInv (.error e) := by rintro u ⟨⟩

theorem OptInv.getD {o : Option State} {s : State} (ho : OptInv o) (h : s.MemInv) : (o.getD s).MemInv := by
  cases o with
  | none => exact h
  | some t => exact ho t rfl

theorem OptInv.bind {o : Option State} {f : State → Option State} (ho : OptInv o) (hf : ∀ t, t.MemInv → OptInv (f t)) :
    OptInv (o.bind f) := by
  cases o with
  | none => exact OptInv.none
  | some t => exact hf t (ho t rfl)

theorem OptInv.map {o : Option State} {f : State → State} (ho : OptInv o) (hf : ∀ t, t.MemInv → (f t).MemInv) :
    OptInv (o.map f) := by
  cases o with
  | none => exact OptInv.none
  | some t => exact OptInv.some (hf t (ho t rfl))

theorem OptInv.map_any {α : Type} {o : Option α} {f : α → State} (hf : ∀ a, (f a).MemInv) : OptInv (o.map f) := by
  cases o with
  | none => exact OptInv.none
  | some a => exact OptInv.some (hf a)

theorem MemInv.foldl_wrote {α : Type} {f : Wrote → α → Wrote} (hf : ∀ w x, w.s.MemInv → (f w x).s.MemInv) (l : List α)
    {w : Wrote} (h : w.s.MemInv) : (l.foldl f w).s.MemInv := by
  induction l generalizing w with
  | nil => exact h
  | cons x l ih => exact ih (hf w x h)

theorem MemInv.foldl_combined {α : Type} {f : Combined → α → Combined} (hf : ∀ w x, w.s.MemInv → (f w x).s.MemInv)
    (l : List α) {w : Combined} (h : w.s.MemInv) : (l.foldl f w).s.MemInv := by
  induction l generalizing w with
  | nil => exact h
  | cons x l ih => exact ih (hf w x h)

/-- A state that an option holds beside a result keeps the invariant. -/
def OptFst {β : Type} (o : Option (State × β)) : Prop := ∀ t, o = some t → t.1.MemInv

theorem OptFst.none {β : Type} : OptFst (none : Option (State × β)) := by rintro u ⟨⟩
theorem OptFst.some {β : Type} {t : State × β} (h : t.1.MemInv) : OptFst (some t) := by rintro u ⟨⟩; exact h
theorem OptFst.map_any {α β : Type} {o : Option α} {f : α → State × β} (hf : ∀ a, (f a).1.MemInv) : OptFst (o.map f) := by
  cases o with
  | none => exact OptFst.none
  | some a => exact OptFst.some (hf a)

theorem MemInv.of_ofst {β : Type} {o : Option (State × β)} {t : State} {b : β} (e : o = some (t, b)) (h : OptFst o) : t.MemInv :=
  h _ e

theorem MemInv.foldl_fst {α β : Type} {f : State × β → α → State × β} (hf : ∀ a x, a.1.MemInv → (f a x).1.MemInv) (l : List α)
    {a : State × β} (h : a.1.MemInv) : (l.foldl f a).1.MemInv := by
  induction l generalizing a with
  | nil => exact h
  | cons x l ih => exact ih (hf a x h)

theorem MemInv.foldl_fst2 {α β γ : Type} {f : (State × β) × γ → α → (State × β) × γ}
    (hf : ∀ a x, a.1.1.MemInv → (f a x).1.1.MemInv) (l : List α) {a : (State × β) × γ} (h : a.1.1.MemInv) :
    (l.foldl f a).1.1.MemInv := by
  induction l generalizing a with
  | nil => exact h
  | cons x l ih => exact ih (hf a x h)

theorem MemInv.foldl_opt {α : Type} {f : Option State → α → Option State} (hf : ∀ o x, OptInv o → OptInv (f o x)) (l : List α)
    {o : Option State} (h : OptInv o) : OptInv (l.foldl f o) := by
  induction l generalizing o with
  | nil => exact h
  | cons x l ih => exact ih (hf o x h)

theorem MemInv.of_fst {α : Type} {p : State × α} {a : State} {b : α} (e : p = (a, b)) (h : p.1.MemInv) : a.MemInv := by
  subst e; exact h
theorem MemInv.of_some {o : Option State} {t : State} (e : o = some t) (h : OptInv o) : t.MemInv := h t e
theorem MemInv.of_ok {o : Except Nat State} {t : State} (e : o = .ok t) (h : ExcInv o) : t.MemInv := h t e

end Sys2Proof.Machine
end

