-- ==== Sys2Proof/Laws/KeepOps.lean ====
section
/-! SUPPORT. What the operations of Machine/Ops.lean do keeps the invariant of memory. -/
set_option linter.unusedSimpArgs false
namespace Sys2Proof.Machine

theorem State.setReg_memInv (s : State) (p : Page) (off : Nat) (v : W32) (h : s.MemInv) :
    (State.setReg s p off v).MemInv := by
  unfold State.setReg
  try dsimp only
  repeat' first
    | with_reducible assumption | with_reducible refine MemInv.mem ?_ | simp only [MemInv.mk_iff]

theorem State.setReg64_memInv (s : State) (p : Page) (off : Nat) (v : W64) (h : s.MemInv) :
    (State.setReg64 s p off v).MemInv := by
  unfold State.setReg64
  try dsimp only
  repeat' first
    | with_reducible assumption | with_reducible refine MemInv.mem ?_ | with_reducible apply State.setReg_memInv

theorem State.setField_memInv (s : State) (p : Page) (off : Nat) (hi : Nat) (lo : Nat) (v : Nat) (h : s.MemInv) :
    (State.setField s p off hi lo v).MemInv := by
  unfold State.setField
  try dsimp only
  repeat' first
    | with_reducible assumption | with_reducible refine MemInv.mem ?_ | with_reducible apply State.setReg_memInv

theorem State.setFlag_memInv (s : State) (p : Page) (off : Nat) (i : Nat) (b : Bool) (h : s.MemInv) :
    (State.setFlag s p off i b).MemInv := by
  unfold State.setFlag
  try dsimp only
  repeat' first
    | with_reducible assumption | with_reducible refine MemInv.mem ?_ | with_reducible apply State.setReg_memInv

theorem State.addSat_memInv (s : State) (p : Page) (off : Nat) (n : Nat) (h : s.MemInv) :
    (State.addSat s p off n).MemInv := by
  unfold State.addSat
  try dsimp only
  repeat' first
    | with_reducible assumption | with_reducible refine MemInv.mem ?_ | with_reducible apply State.setReg_memInv

theorem State.storeBits_memInv (s : State) (p : Page) (off : Nat) (v : W32) (h : s.MemInv) :
    (State.storeBits s p off v).MemInv := by
  unfold State.storeBits
  try dsimp only
  repeat' first
    | with_reducible assumption | with_reducible refine MemInv.ite (fun _ => ?_) (fun _ => ?_)
    | with_reducible refine MemInv.mem ?_ | with_reducible apply State.setReg_memInv | split

theorem State.emit_memInv (s : State) (o : Out) (h : s.MemInv) :
    (State.emit s o).MemInv := by
  unfold State.emit
  try dsimp only
  repeat' first
    | with_reducible assumption | with_reducible refine MemInv.mem ?_ | simp only [MemInv.mk_iff]

theorem State.fresh_memInv (s : State) (h : s.MemInv) :
    (State.fresh s).MemInv := by
  unfold State.fresh
  try dsimp only
  repeat' first
    | with_reducible assumption | with_reducible refine MemInv.mem ?_ | simp only [MemInv.mk_iff]

theorem State.judgeStacks_memInv (s : State) (h : s.MemInv) : (State.judgeStacks s).MemInv := Mem.Inv.congr h rfl

theorem State.wreck_memInv (s : State) (p : Page) (h : s.MemInv) :
    (State.wreck s p).MemInv := by
  unfold State.wreck
  try dsimp only
  repeat' first
    | with_reducible assumption | with_reducible refine MemInv.mem ?_ | simp only [MemInv.mk_iff]
    | with_reducible apply State.judgeStacks_memInv

theorem State.sendVector_memInv (s : State) (v : Nat) (h : s.MemInv) :
    (State.sendVector s v).MemInv := by
  unfold State.sendVector
  try dsimp only
  repeat' first
    | with_reducible assumption | with_reducible refine MemInv.ite (fun _ => ?_) (fun _ => ?_)
    | with_reducible refine MemInv.mem ?_ | simp only [MemInv.mk_iff] | with_reducible apply State.emit_memInv

theorem State.irqUpdate_memInv (s : State) (p : Page) (h : s.MemInv) :
    (State.irqUpdate s p).MemInv := by
  unfold State.irqUpdate
  try dsimp only
  repeat' first
    | with_reducible assumption | with_reducible refine MemInv.ite (fun _ => ?_) (fun _ => ?_)
    | with_reducible refine MemInv.mem ?_ | simp only [MemInv.mk_iff] | with_reducible apply State.sendVector_memInv
    | with_reducible refine Mem.Inv.setMarking ?_ _ | split

theorem State.detect_memInv (s : State) (p : Page) (bitsMask : W32) (h : s.MemInv) :
    (State.detect s p bitsMask).MemInv := by
  unfold State.detect
  try dsimp only
  repeat' first
    | with_reducible assumption | with_reducible refine MemInv.ite (fun _ => ?_) (fun _ => ?_)
    | with_reducible refine MemInv.mem ?_ | with_reducible apply State.setReg_memInv
    | with_reducible apply State.irqUpdate_memInv

theorem State.setErr_memInv (s : State) (p : Page) (i : Nat) (h : s.MemInv) :
    (State.setErr s p i).MemInv := by
  unfold State.setErr
  try dsimp only
  repeat' first
    | with_reducible assumption | with_reducible refine MemInv.mem ?_ | with_reducible apply State.detect_memInv

theorem State.countErr_memInv (s : State) (p : Page) (h : s.MemInv) :
    (State.countErr s p).MemInv := by
  unfold State.countErr
  try dsimp only
  repeat' first
    | with_reducible assumption | with_reducible refine MemInv.mem ?_ | with_reducible apply State.addSat_memInv

theorem State.event_memInv (s : State) (p : Page) (code : Nat) (n : Nat) (h : s.MemInv) :
    (State.event s p code n).MemInv := by
  unfold State.event
  try dsimp only
  repeat' first
    | with_reducible assumption | with_reducible refine MemInv.ite (fun _ => ?_) (fun _ => ?_)
    | with_reducible refine MemInv.mem ?_ | with_reducible apply State.setReg64_memInv

theorem State.setCore_memInv (s : State) (c : Nat) (k : Core) (h : s.MemInv) :
    (State.setCore s c k).MemInv := by
  unfold State.setCore
  try dsimp only
  repeat' first
    | with_reducible assumption | with_reducible refine MemInv.mem ?_ | simp only [MemInv.mk_iff]

theorem State.setWin_memInv (s : State) (w : Nat) (k : Win) (h : s.MemInv) :
    (State.setWin s w k).MemInv := by
  unfold State.setWin
  try dsimp only
  repeat' first
    | with_reducible assumption | with_reducible refine MemInv.mem ?_ | simp only [MemInv.mk_iff]

theorem State.setRidge_memInv (s : State) (n : Nat) (r : Ridge) (h : s.MemInv) :
    (State.setRidge s n r).MemInv := by
  unfold State.setRidge
  try dsimp only
  repeat' first
    | with_reducible assumption | with_reducible refine MemInv.mem ?_ | simp only [MemInv.mk_iff]

theorem State.setDma_memInv (s : State) (c : Nat) (k : DmaCh) (h : s.MemInv) :
    (State.setDma s c k).MemInv := by
  unfold State.setDma
  try dsimp only
  repeat' first
    | with_reducible assumption | with_reducible refine MemInv.mem ?_ | simp only [MemInv.mk_iff]

theorem State.setPort_memInv (s : State) (p : Nat) (k : Port) (h : s.MemInv) :
    (State.setPort s p k).MemInv := by
  unfold State.setPort
  try dsimp only
  repeat' first
    | with_reducible assumption | with_reducible refine MemInv.mem ?_ | simp only [MemInv.mk_iff]

theorem State.setCfl_memInv (s : State) (e : Nat) (k : Cfl) (h : s.MemInv) :
    (State.setCfl s e k).MemInv := by
  unfold State.setCfl
  try dsimp only
  repeat' first
    | with_reducible assumption | with_reducible refine MemInv.mem ?_ | simp only [MemInv.mk_iff]

theorem State.setTread_memInv (s : State) (q : Nat) (r : Option TableRead) (h : s.MemInv) :
    (State.setTread s q r).MemInv := by
  unfold State.setTread
  try dsimp only
  repeat' first
    | with_reducible assumption | with_reducible refine MemInv.mem ?_ | simp only [MemInv.mk_iff]

theorem State.setDie_memInv (s : State) (k : Nat) (l : List OpRec) (h : s.MemInv) :
    (State.setDie s k l).MemInv := by
  unfold State.setDie
  try dsimp only
  repeat' first
    | with_reducible assumption | with_reducible refine MemInv.mem ?_ | simp only [MemInv.mk_iff]

theorem State.setTally_memInv (s : State) (t : Nat) (v : W32) (h : s.MemInv) :
    (State.setTally s t v).MemInv := by
  unfold State.setTally
  try dsimp only
  repeat' first
    | with_reducible assumption | with_reducible refine MemInv.mem ?_ | simp only [MemInv.mk_iff]

theorem State.addTally_memInv (s : State) (t : Nat) (n : W32) (h : s.MemInv) :
    (State.addTally s t n).MemInv := by
  unfold State.addTally
  try dsimp only
  repeat' first
    | with_reducible assumption | with_reducible refine MemInv.mem ?_ | with_reducible apply State.event_memInv
    | with_reducible apply State.setTally_memInv

theorem State.opTally_memInv (s : State) (t : Nat) (c : Nat) (h : s.MemInv) :
    (State.opTally s t c).MemInv := by
  unfold State.opTally
  try dsimp only
  repeat' first
    | with_reducible assumption | with_reducible refine MemInv.ite (fun _ => ?_) (fun _ => ?_)
    | with_reducible refine MemInv.mem ?_ | with_reducible apply State.addTally_memInv
    | with_reducible apply State.setReg_memInv | with_reducible apply State.setErr_memInv

theorem State.tileLeaves_memInv (s : State) (n : Nat) (op : Nat) (h : s.MemInv) :
    (State.tileLeaves s n op).MemInv := by
  unfold State.tileLeaves
  try dsimp only
  repeat' first
    | with_reducible assumption | with_reducible refine MemInv.ite (fun _ => ?_) (fun _ => ?_)
    | with_reducible refine MemInv.mem ?_ | with_reducible apply State.setDie_memInv

theorem State.tickPage_memInv (s : State) (n : Nat) (p : Page) (h : s.MemInv) :
    (State.tickPage s n p).MemInv := by
  unfold State.tickPage
  try dsimp only
  repeat' first
    | with_reducible assumption | with_reducible refine MemInv.ite (fun _ => ?_) (fun _ => ?_)
    | with_reducible refine MemInv.mem ?_ | with_reducible apply State.event_memInv | split

theorem State.passTime_memInv (s : State) (n : Nat) (h : s.MemInv) :
    (State.passTime s n).MemInv := by
  unfold State.passTime
  try dsimp only
  repeat' first
    | with_reducible assumption | with_reducible refine MemInv.mem ?_ | simp only [MemInv.mk_iff]
    | with_reducible apply State.tickPage_memInv | with_reducible refine MemInv.foldl (fun _ _ _ => ?_) _ ?_

theorem State.advance_memInv (s : State) (since : W64) (n : Nat) (h : s.MemInv) :
    (State.advance s since n).MemInv := by
  unfold State.advance
  try dsimp only
  repeat' first
    | with_reducible assumption | with_reducible refine MemInv.ite (fun _ => ?_) (fun _ => ?_)
    | with_reducible refine MemInv.mem ?_ | with_reducible apply State.passTime_memInv

end Sys2Proof.Machine
end

