-- ==== Sys2Proof/Laws/KeepMemory.lean ====
section
/-! SUPPORT. What the operations of Machine/Memory.lean do keeps the invariant of memory. -/
set_option linter.unusedSimpArgs false
namespace Sys2Proof.Machine

theorem State.hbmPut_memInv (s : State) (bs : List (Nat × Byte)) (h : s.MemInv) :
    (State.hbmPut s bs).MemInv := by
  unfold State.hbmPut
  try dsimp only
  repeat' first
    | with_reducible assumption | with_reducible refine MemInv.mem ?_ | with_reducible apply State.writeGran_memInv
    | with_reducible refine MemInv.foldl (fun _ _ _ => ?_) _ ?_

theorem State.hbmWrite_memInv (s : State) (k : Nat) (bs : List Byte) (h : s.MemInv) :
    (State.hbmWrite s k bs).MemInv := by
  unfold State.hbmWrite
  try dsimp only
  repeat' first
    | with_reducible assumption | with_reducible refine MemInv.mem ?_ | with_reducible apply State.hbmPut_memInv

theorem State.poisonCount_memInv (s : State) (g : Nat) (h : s.MemInv) :
    (State.poisonCount s g).MemInv := by
  unfold State.poisonCount
  try dsimp only
  repeat' first
    | with_reducible assumption | with_reducible refine MemInv.ite (fun _ => ?_) (fun _ => ?_)
    | with_reducible refine MemInv.mem ?_ | with_reducible apply State.addSat_memInv
    | with_reducible apply State.poisonGran_memInv

theorem State.poisonWrite_memInv (s : State) (g : Nat) (h : s.MemInv) :
    (State.poisonWrite s g).MemInv := by
  unfold State.poisonWrite
  try dsimp only
  repeat' first
    | with_reducible assumption | with_reducible refine MemInv.mem ?_ | with_reducible apply State.poisonCount_memInv
    | with_reducible apply State.markFrame_memInv

theorem State.hbmUe_memInv (s : State) (stack : Nat) (addr : Nat) (bit : Nat) (h : s.MemInv) :
    (State.hbmUe s stack addr bit).MemInv := by
  unfold State.hbmUe
  try dsimp only
  repeat' first
    | with_reducible assumption | with_reducible refine MemInv.ite (fun _ => ?_) (fun _ => ?_)
    | with_reducible refine MemInv.mem ?_ | with_reducible apply State.addSat_memInv
    | with_reducible apply State.poisonGran_memInv | with_reducible apply State.setReg_memInv
    | with_reducible apply State.setErr_memInv

theorem State.winWrite_memInv (s : State) (o : Nat) (bs : List Byte) (h : s.MemInv) :
    (State.winWrite s o bs).MemInv := by
  unfold State.winWrite
  try dsimp only
  repeat' first
    | with_reducible assumption | with_reducible refine MemInv.mem ?_ | with_reducible apply State.hbmPut_memInv

theorem State.setWinWord_memInv (s : State) (o : Nat) (v : W32) (h : s.MemInv) :
    (State.setWinWord s o v).MemInv := by
  unfold State.setWinWord
  try dsimp only
  repeat' first
    | with_reducible assumption | with_reducible refine MemInv.mem ?_ | with_reducible apply State.winWrite_memInv

theorem State.recordXlate_memInv (s : State) (reason : Nat) (req : Nat) (c : Nat) (inst : Nat) (a : Nat) (h : s.MemInv) :
    (State.recordXlate s reason req c inst a).MemInv := by
  unfold State.recordXlate
  try dsimp only
  repeat' first
    | with_reducible assumption | with_reducible refine MemInv.ite (fun _ => ?_) (fun _ => ?_)
    | with_reducible refine MemInv.mem ?_ | with_reducible apply State.setReg_memInv | with_reducible apply State.setErr_memInv

theorem State.boardWrite_memInv (s : State) (die : Nat) (copy : Nat) (c : Nat) (a : Nat) (bs : List Byte) (h : s.MemInv) :
    ExcInv (State.boardWrite s die copy c a bs) := by
  unfold State.boardWrite
  try dsimp only
  repeat' first
    | with_reducible assumption | with_reducible refine ExcInv.ok ?_ | with_reducible exact ExcInv.error
    | with_reducible refine MemInv.mem ?_ | with_reducible apply State.hbmWrite_memInv
    | with_reducible refine MemInv.foldl (fun _ _ _ => ?_) _ ?_ | with_reducible refine MemInv.foldl_fst (fun _ _ _ => ?_) _ ?_
    | split

end Sys2Proof.Machine
end

