-- ==== Sys2Proof/Laws/KeepUhl.lean ====
section
/-! SUPPORT. What the operations of Machine/Uhl.lean do keeps the invariant of memory. -/
set_option linter.unusedSimpArgs false
namespace Sys2Proof.Machine

theorem State.flashErase_memInv (s : State) (o : Nat) (n : Nat) (h : s.MemInv) :
    (State.flashErase s o n).MemInv := by
  unfold State.flashErase
  try dsimp only
  repeat' first
    | with_reducible assumption | with_reducible refine MemInv.mem ?_ | simp only [MemInv.mk_iff]

theorem State.flashPut_memInv (s : State) (o : Nat) (bs : List Byte) (h : s.MemInv) :
    (State.flashPut s o bs).MemInv := by
  unfold State.flashPut
  try dsimp only
  repeat' first
    | with_reducible assumption | with_reducible refine MemInv.mem ?_ | simp only [MemInv.mk_iff]

theorem State.uhlPut_memInv (s : State) (r : UhlRec) (h : s.MemInv) :
    (State.uhlPut s r).MemInv := by
  unfold State.uhlPut
  try dsimp only
  repeat' first
    | with_reducible assumption | with_reducible refine MemInv.ite (fun _ => ?_) (fun _ => ?_)
    | with_reducible refine MemInv.mem ?_ | simp only [MemInv.mk_iff] | with_reducible apply State.setErr_memInv
    | with_reducible apply State.flashPut_memInv | with_reducible apply State.setReg_memInv
    | with_reducible apply State.event_memInv

theorem State.uhlRoom_memInv (s : State) (h : s.MemInv) :
    (State.uhlRoom s).MemInv := by
  unfold State.uhlRoom
  try dsimp only
  repeat' first
    | with_reducible assumption | with_reducible refine MemInv.ite (fun _ => ?_) (fun _ => ?_)
    | with_reducible refine MemInv.mem ?_ | with_reducible apply State.event_memInv
    | with_reducible apply State.flashErase_memInv | with_reducible apply State.setReg_memInv
    | with_reducible apply State.uhlPut_memInv | with_reducible refine MemInv.foldl (fun _ _ _ => ?_) _ ?_

theorem State.uhlWrite_memInv (s : State) (r : UhlRec) (h : s.MemInv) :
    (State.uhlWrite s r).MemInv := by
  unfold State.uhlWrite
  try dsimp only
  repeat' first
    | with_reducible assumption | with_reducible refine MemInv.mem ?_ | with_reducible apply State.uhlPut_memInv
    | with_reducible apply State.uhlRoom_memInv

end Sys2Proof.Machine
end

