-- ==== Sys2Proof/Laws/KeepClear.lean ====
section
/-! SUPPORT. What the operations of Machine/Clear.lean do keeps the invariant of memory. -/
set_option linter.unusedSimpArgs false
namespace Sys2Proof.Machine

theorem State.scaleDrop_memInv (s : State) (j : Nat) (h : s.MemInv) :
    (State.scaleDrop s j).MemInv := by
  unfold State.scaleDrop
  try dsimp only
  repeat' first
    | with_reducible assumption | with_reducible refine MemInv.ite (fun _ => ?_) (fun _ => ?_)
    | with_reducible refine MemInv.mem ?_ | with_reducible apply State.setWinWord_memInv
    | with_reducible refine MemInv.foldl (fun _ _ _ => ?_) _ ?_

theorem State.clearBlock_memInv (s : State) (o : Nat) (h : s.MemInv) :
    (State.clearBlock s o).MemInv := by
  unfold State.clearBlock
  try dsimp only
  repeat' first
    | with_reducible assumption | with_reducible refine MemInv.mem ?_ | with_reducible apply State.setWinWord_memInv
    | with_reducible apply State.winWrite_memInv

theorem State.normDrop_memInv (s : State) (j : Nat) (h : s.MemInv) :
    (State.normDrop s j).MemInv := by
  unfold State.normDrop
  try dsimp only
  repeat' first
    | with_reducible assumption | with_reducible refine MemInv.ite (fun _ => ?_) (fun _ => ?_)
    | with_reducible refine MemInv.mem ?_ | with_reducible apply State.clearBlock_memInv
    | with_reducible refine MemInv.foldl (fun _ _ _ => ?_) _ ?_

theorem State.expertDrop_memInv (s : State) (j : Nat) (h : s.MemInv) :
    (State.expertDrop s j).MemInv := by
  unfold State.expertDrop
  try dsimp only
  repeat' first
    | with_reducible assumption | with_reducible refine MemInv.ite (fun _ => ?_) (fun _ => ?_)
    | with_reducible refine MemInv.mem ?_ | with_reducible apply State.setWinWord_memInv
    | with_reducible refine MemInv.foldl (fun _ _ _ => ?_) _ ?_

theorem State.pendingDrop_memInv (s : State) (j : Nat) (h : s.MemInv) :
    (State.pendingDrop s j).MemInv := by
  unfold State.pendingDrop
  try dsimp only
  repeat' first
    | with_reducible assumption | with_reducible refine MemInv.mem ?_ | with_reducible apply State.expertDrop_memInv
    | with_reducible apply State.normDrop_memInv | with_reducible apply State.scaleDrop_memInv

theorem State.oobClear_memInv (s : State) (j : Nat) (h : s.MemInv) :
    (State.oobClear s j).MemInv := by
  unfold State.oobClear
  try dsimp only
  repeat' first
    | with_reducible assumption | with_reducible refine MemInv.mem ?_ | with_reducible apply State.setReg_memInv

theorem State.accClear_memInv (s : State) (j : Nat) (h : s.MemInv) :
    (State.accClear s j).MemInv := by
  unfold State.accClear
  try dsimp only
  repeat' first
    | with_reducible assumption | with_reducible refine MemInv.mem ?_ | with_reducible apply State.setReg_memInv
    | with_reducible apply State.setField_memInv | with_reducible refine MemInv.foldl (fun _ _ _ => ?_) _ ?_

end Sys2Proof.Machine
end

