-- ==== Sys2Proof/Laws/KeepClock.lean ====
section
/-! SUPPORT. What the operations of Machine/Clock.lean do keeps the invariant of memory. -/
set_option linter.unusedSimpArgs false
namespace Sys2Proof.Machine

theorem State.judgeLimits_memInv (s : State) (i : Nat) (h : s.MemInv) :
    (State.judgeLimits s i).MemInv := by
  unfold State.judgeLimits
  try dsimp only
  repeat' first
    | with_reducible assumption | with_reducible refine MemInv.mem ?_ | simp only [MemInv.mk_iff]
    | with_reducible apply State.judgeStacks_memInv

theorem State.avsSend_memInv (s : State) (k : Nat) (h : s.MemInv) :
    (State.avsSend s k).MemInv := by
  unfold State.avsSend
  try dsimp only
  repeat' first
    | with_reducible assumption | with_reducible refine MemInv.mem ?_ | with_reducible apply State.emit_memInv
    | with_reducible apply State.event_memInv

theorem State.avsUpdate_memInv (s : State) (k : Nat) (h : s.MemInv) :
    (State.avsUpdate s k).MemInv := by
  unfold State.avsUpdate
  try dsimp only
  repeat' first
    | with_reducible assumption | with_reducible refine MemInv.ite (fun _ => ?_) (fun _ => ?_)
    | with_reducible refine MemInv.mem ?_ | simp only [MemInv.mk_iff] | with_reducible apply State.setField_memInv
    | with_reducible apply State.avsSend_memInv

theorem State.wake_memInv (s : State) (k : Nat) (h : s.MemInv) :
    (State.wake s k).MemInv := by
  unfold State.wake
  try dsimp only
  repeat' first
    | with_reducible assumption | with_reducible refine MemInv.ite (fun _ => ?_) (fun _ => ?_)
    | with_reducible refine MemInv.mem ?_ | simp only [MemInv.mk_iff] | with_reducible apply State.avsUpdate_memInv

end Sys2Proof.Machine
end

