-- ==== Sys2Proof/Laws/KeepFaults.lean ====
section
/-! SUPPORT. What the operations of Machine/Faults.lean do keeps the invariant of memory. -/
set_option linter.unusedSimpArgs false
namespace Sys2Proof.Machine

theorem State.raiseAsync_memInv (s : State) (c : Nat) (cause : W64) (h : s.MemInv) :
    (State.raiseAsync s c cause).MemInv := by
  unfold State.raiseAsync
  try dsimp only
  repeat' first
    | with_reducible assumption | with_reducible refine MemInv.ite (fun _ => ?_) (fun _ => ?_)
    | with_reducible refine MemInv.mem ?_ | with_reducible apply State.setCore_memInv | with_reducible apply State.setErr_memInv

theorem State.winFault_memInv (s : State) (w : Nat) (reason : Nat) (seq : W32) (h : s.MemInv) :
    (State.winFault s w reason seq).MemInv := by
  unfold State.winFault
  try dsimp only
  repeat' first
    | with_reducible assumption | with_reducible refine MemInv.ite (fun _ => ?_) (fun _ => ?_)
    | with_reducible refine MemInv.mem ?_ | with_reducible apply State.setErr_memInv | with_reducible apply State.setWin_memInv

theorem State.opFault_memInv (s : State) (d : Desc) (code : Nat) (reason : Nat) (opc : Nat) (h : s.MemInv) :
    (State.opFault s d code reason opc).MemInv := by
  unfold State.opFault
  try dsimp only
  repeat' first
    | with_reducible assumption | with_reducible refine MemInv.mem ?_ | simp only [MemInv.mk_iff]
    | with_reducible apply State.raiseAsync_memInv | with_reducible apply State.winFault_memInv
    | with_reducible refine Mem.Inv.setMarking ?_ _ | split

theorem State.refuseDesc_memInv (s : State) (d : Desc) (reason : Nat) (opc : Nat) (h : s.MemInv) :
    (State.refuseDesc s d reason opc).MemInv := by
  unfold State.refuseDesc
  try dsimp only
  repeat' first
    | with_reducible assumption | with_reducible refine MemInv.mem ?_ | simp only [MemInv.mk_iff]
    | with_reducible apply State.raiseAsync_memInv | with_reducible apply State.winFault_memInv
    | with_reducible refine Mem.Inv.setMarking ?_ _ | split

theorem State.escRecord_memInv (s : State) (level : Nat) (cause : Nat) (h : s.MemInv) :
    (State.escRecord s level cause).MemInv := by
  unfold State.escRecord
  try dsimp only
  repeat' first
    | with_reducible assumption | with_reducible refine MemInv.ite (fun _ => ?_) (fun _ => ?_)
    | with_reducible refine MemInv.mem ?_ | with_reducible apply State.uhlWrite_memInv

theorem State.askTray_memInv (s : State) (n : Nat) (h : s.MemInv) :
    (State.askTray s n).MemInv := by
  unfold State.askTray
  try dsimp only
  repeat' first
    | with_reducible assumption | with_reducible refine MemInv.mem ?_ | simp only [MemInv.mk_iff]

theorem State.escalate_memInv (s : State) (cause : Nat) (h : s.MemInv) :
    (State.escalate s cause).MemInv := by
  unfold State.escalate
  try dsimp only
  repeat' first
    | with_reducible assumption | with_reducible refine MemInv.ite (fun _ => ?_) (fun _ => ?_)
    | with_reducible refine MemInv.mem ?_ | with_reducible apply State.setReg_memInv
    | with_reducible apply State.escRecord_memInv | with_reducible apply State.setFlag_memInv
    | with_reducible apply State.askTray_memInv

theorem State.setSlot_memInv (s : State) (j : Nat) (k : StepSlot) (h : s.MemInv) :
    (State.setSlot s j k).MemInv := by
  unfold State.setSlot
  try dsimp only
  repeat' first
    | with_reducible assumption | with_reducible refine MemInv.mem ?_ | simp only [MemInv.mk_iff]

theorem State.submit_memInv (s : State) (r : FReq) (h : s.MemInv) :
    (State.submit s r).MemInv := by
  unfold State.submit
  try dsimp only
  repeat' first
    | with_reducible assumption | with_reducible refine MemInv.mem ?_ | simp only [MemInv.mk_iff]

theorem State.ask_memInv (s : State) (slot : Nat) (kind : AskKind) (r : FReq) (h : s.MemInv) :
    (State.ask s slot kind r).MemInv := by
  unfold State.ask
  try dsimp only
  repeat' first
    | with_reducible assumption | with_reducible refine MemInv.mem ?_ | simp only [MemInv.mk_iff]
    | with_reducible apply State.submit_memInv

theorem State.sendFlood_memInv (s : State) (r : FReq) (h : s.MemInv) :
    (State.sendFlood s r).MemInv := by
  unfold State.sendFlood
  try dsimp only
  repeat' first
    | with_reducible assumption | with_reducible refine MemInv.mem ?_ | simp only [MemInv.mk_iff]
    | with_reducible apply State.submit_memInv

theorem State.abortTell_memInv (s : State) (j : Nat) (cause : Nat) (h : s.MemInv) :
    (State.abortTell s j cause).MemInv := by
  unfold State.abortTell
  try dsimp only
  repeat' first
    | with_reducible assumption | with_reducible refine MemInv.ite (fun _ => ?_) (fun _ => ?_)
    | with_reducible refine MemInv.mem ?_ | with_reducible apply State.ask_memInv | with_reducible apply State.sendFlood_memInv
    | split

theorem State.abortSlot_memInv (s : State) (j : Nat) (cause : Nat) (index : Nat) (tell : Bool) (h : s.MemInv) :
    (State.abortSlot s j cause index tell).MemInv := by
  unfold State.abortSlot
  try dsimp only
  repeat' first
    | with_reducible assumption | with_reducible refine MemInv.ite (fun _ => ?_) (fun _ => ?_)
    | with_reducible refine MemInv.mem ?_ | simp only [MemInv.mk_iff] | with_reducible apply State.abortTell_memInv
    | with_reducible apply State.setReg_memInv | with_reducible apply State.setSlot_memInv
    | with_reducible apply State.event_memInv | with_reducible apply State.setErr_memInv
    | with_reducible apply State.opTally_memInv | with_reducible apply State.accClear_memInv
    | with_reducible apply State.pendingDrop_memInv | with_reducible refine Mem.Inv.setMarking ?_ _ | split

theorem State.stepAbort_memInv (s : State) (cause : Nat) (h : s.MemInv) :
    (State.stepAbort s cause).MemInv := by
  unfold State.stepAbort
  try dsimp only
  repeat' first
    | with_reducible assumption | with_reducible refine MemInv.ite (fun _ => ?_) (fun _ => ?_)
    | with_reducible refine MemInv.mem ?_ | with_reducible apply State.abortSlot_memInv
    | with_reducible apply State.escalate_memInv

end Sys2Proof.Machine
end

