-- ==== Sys2Proof/Laws/KeepTables.lean ====
section
/-! SUPPORT. What the operations of Machine/Tables.lean do keeps the invariant of memory. -/
set_option linter.unusedSimpArgs false
namespace Sys2Proof.Machine

theorem State.tablePoison_memInv (s : State) (j : Option Nat) (h : s.MemInv) :
    (State.tablePoison s j).MemInv := by
  unfold State.tablePoison
  try dsimp only
  repeat' first
    | with_reducible assumption | with_reducible refine MemInv.mem ?_ | with_reducible apply State.setErr_memInv
    | with_reducible apply State.stepAbort_memInv | split

theorem State.foldAmax_memInv (s : State) (i : Nat) (j : Nat) (a : W32) (h : s.MemInv) :
    (State.foldAmax s i j a).MemInv := by
  unfold State.foldAmax
  try dsimp only
  repeat' first
    | with_reducible assumption | with_reducible refine MemInv.ite (fun _ => ?_) (fun _ => ?_)
    | with_reducible refine MemInv.mem ?_ | with_reducible apply State.tablePoison_memInv
    | with_reducible apply State.setWinWord_memInv

theorem State.setScaleBit_memInv (s : State) (i : Nat) (j : Nat) (b : Nat) (h : s.MemInv) :
    (State.setScaleBit s i j b).MemInv := by
  unfold State.setScaleBit
  try dsimp only
  repeat' first
    | with_reducible assumption | with_reducible refine MemInv.ite (fun _ => ?_) (fun _ => ?_)
    | with_reducible refine MemInv.mem ?_ | with_reducible apply State.tablePoison_memInv
    | with_reducible apply State.setWinWord_memInv

theorem State.scaleUpdate_memInv (s : State) (j : Nat) (i : Nat) (h : s.MemInv) :
    (State.scaleUpdate s j i).MemInv := by
  unfold State.scaleUpdate
  try dsimp only
  repeat' first
    | with_reducible assumption | with_reducible refine MemInv.ite (fun _ => ?_) (fun _ => ?_)
    | with_reducible refine MemInv.mem ?_ | with_reducible apply State.setWinWord_memInv
    | with_reducible apply State.winWrite_memInv

theorem State.scaleCommit_memInv (s : State) (j : Nat) (sel : Nat → Bool) (h : s.MemInv) :
    (State.scaleCommit s j sel).1.MemInv := by
  unfold State.scaleCommit
  try dsimp only
  repeat' first
    | with_reducible assumption | with_reducible refine MemInv.ite (fun _ => ?_) (fun _ => ?_)
    | with_reducible refine MemInv.mem ?_ | with_reducible apply State.scaleUpdate_memInv
    | with_reducible refine MemInv.foldl (fun _ _ _ => ?_) _ ?_ | with_reducible refine MemInv.foldl_fst (fun _ _ _ => ?_) _ ?_
    | split

theorem State.foldBlock_memInv (s : State) (o : Nat) (f : Fold) (mask : Nat) (h : s.MemInv) :
    (State.foldBlock s o f mask).MemInv := by
  unfold State.foldBlock
  try dsimp only
  repeat' first
    | with_reducible assumption | with_reducible refine MemInv.ite (fun _ => ?_) (fun _ => ?_)
    | with_reducible refine MemInv.mem ?_ | with_reducible apply State.winWrite_memInv
    | with_reducible apply State.setWinWord_memInv

theorem State.foldNorm_memInv (s : State) (i : Nat) (j : Option Nat) (f : Fold) (h : s.MemInv) :
    (State.foldNorm s i j f).MemInv := by
  unfold State.foldNorm
  try dsimp only
  repeat' first
    | with_reducible assumption | with_reducible refine MemInv.ite (fun _ => ?_) (fun _ => ?_)
    | with_reducible refine MemInv.mem ?_ | with_reducible apply State.event_memInv | with_reducible apply State.addSat_memInv
    | with_reducible apply State.setErr_memInv | with_reducible apply State.tablePoison_memInv
    | with_reducible apply State.foldBlock_memInv | split

theorem State.foldNoise_memInv (s : State) (i : Nat) (m : Nat) (j : Option Nat) (f : Fold) (h : s.MemInv) :
    (State.foldNoise s i m j f).MemInv := by
  unfold State.foldNoise
  try dsimp only
  repeat' first
    | with_reducible assumption | with_reducible refine MemInv.ite (fun _ => ?_) (fun _ => ?_)
    | with_reducible refine MemInv.mem ?_ | with_reducible apply State.event_memInv | with_reducible apply State.addSat_memInv
    | with_reducible apply State.setErr_memInv | with_reducible apply State.tablePoison_memInv
    | with_reducible apply State.foldBlock_memInv | split

theorem State.normCommit_memInv (s : State) (j : Nat) (sel : Nat → Bool) (h : s.MemInv) :
    (State.normCommit s j sel).1.MemInv := by
  unfold State.normCommit
  try dsimp only
  repeat' first
    | with_reducible assumption | with_reducible refine MemInv.ite (fun _ => ?_) (fun _ => ?_)
    | with_reducible refine MemInv.mem ?_ | with_reducible apply State.setWinWord_memInv
    | with_reducible apply State.clearBlock_memInv | with_reducible refine MemInv.foldl (fun _ _ _ => ?_) _ ?_
    | with_reducible refine MemInv.foldl_fst (fun _ _ _ => ?_) _ ?_ | split

theorem State.normEval_memInv (s : State) (j : Nat) (h : s.MemInv) :
    (State.normEval s j).MemInv := by
  unfold State.normEval
  try dsimp only
  repeat' first
    | with_reducible assumption | with_reducible refine MemInv.ite (fun _ => ?_) (fun _ => ?_)
    | with_reducible refine MemInv.mem ?_ | with_reducible apply State.setReg_memInv | with_reducible apply State.event_memInv
    | with_reducible apply State.tablePoison_memInv

theorem State.noiseEntry_memInv (s : State) (i : Nat) (j : Nat) (tok : Nat → Nat) (h : s.MemInv) :
    (State.noiseEntry s i j tok).MemInv := by
  unfold State.noiseEntry
  try dsimp only
  repeat' first
    | with_reducible assumption | with_reducible refine MemInv.ite (fun _ => ?_) (fun _ => ?_)
    | with_reducible refine MemInv.mem ?_ | with_reducible apply State.setWinWord_memInv
    | with_reducible apply State.winWrite_memInv

theorem State.noiseCommit_memInv (s : State) (j : Nat) (tok : Nat → Nat) (linked : Nat → Bool) (h : s.MemInv) :
    (State.noiseCommit s j tok linked).1.MemInv := by
  unfold State.noiseCommit
  try dsimp only
  repeat' first
    | with_reducible assumption | with_reducible refine MemInv.ite (fun _ => ?_) (fun _ => ?_)
    | with_reducible refine MemInv.mem ?_ | with_reducible apply State.clearBlock_memInv
    | with_reducible apply State.addSat_memInv | with_reducible apply State.event_memInv
    | with_reducible apply State.noiseEntry_memInv | with_reducible apply State.setReg_memInv
    | with_reducible refine MemInv.foldl (fun _ _ _ => ?_) _ ?_ | with_reducible refine MemInv.foldl_fst (fun _ _ _ => ?_) _ ?_
    | split

theorem State.tableWord_memInv (s : State) (o : Nat) (mask : Nat) (v : W32) (h : s.MemInv) :
    (State.tableWord s o mask v).MemInv := by
  unfold State.tableWord
  try dsimp only
  repeat' first
    | with_reducible assumption | with_reducible refine MemInv.ite (fun _ => ?_) (fun _ => ?_)
    | with_reducible refine MemInv.mem ?_ | with_reducible apply State.setWinWord_memInv

theorem State.tableWrite_memInv (s : State) (base : Nat) (size : Nat) (x : Nat) (mask : Nat → Nat) (wide : Bool) (v : W64) (h : s.MemInv) :
    (State.tableWrite s base size x mask wide v).MemInv := by
  unfold State.tableWrite
  try dsimp only
  repeat' first
    | with_reducible assumption | with_reducible refine MemInv.ite (fun _ => ?_) (fun _ => ?_)
    | with_reducible refine MemInv.mem ?_ | with_reducible apply State.tableWord_memInv

theorem execScaleTableWrite_memInv (off : BitVec 23) (wide : Bool) (value : W64) (s : State) (h : s.MemInv) :
    OutInv (execScaleTableWrite off wide value s) := by
  unfold execScaleTableWrite
  try dsimp only
  repeat' first
    | with_reducible assumption | with_reducible refine OutInv.next ?_
    | with_reducible refine MemInv.ite (fun _ => ?_) (fun _ => ?_) | with_reducible refine MemInv.mem ?_
    | with_reducible apply State.setErr_memInv | with_reducible apply State.tableWrite_memInv

theorem execNormTableWrite_memInv (off : BitVec 20) (wide : Bool) (value : W64) (s : State) (h : s.MemInv) :
    OutInv (execNormTableWrite off wide value s) := by
  unfold execNormTableWrite
  try dsimp only
  repeat' first
    | with_reducible assumption | with_reducible refine OutInv.next ?_
    | with_reducible refine MemInv.ite (fun _ => ?_) (fun _ => ?_) | with_reducible refine MemInv.mem ?_
    | with_reducible apply State.setErr_memInv | with_reducible apply State.tableWrite_memInv

theorem execNoiseTableWrite_memInv (off : BitVec 20) (wide : Bool) (value : W64) (s : State) (h : s.MemInv) :
    OutInv (execNoiseTableWrite off wide value s) := by
  unfold execNoiseTableWrite
  try dsimp only
  repeat' first
    | with_reducible assumption | with_reducible refine OutInv.next ?_
    | with_reducible refine MemInv.ite (fun _ => ?_) (fun _ => ?_) | with_reducible refine MemInv.mem ?_
    | with_reducible apply State.setErr_memInv | with_reducible apply State.tableWrite_memInv

theorem execScreeTestStart_memInv (value : W32) (s : State) (h : s.MemInv) :
    OutInv (execScreeTestStart value s) := by
  unfold execScreeTestStart
  try dsimp only
  repeat' first
    | with_reducible assumption | with_reducible refine OutInv.next ?_
    | with_reducible refine MemInv.ite (fun _ => ?_) (fun _ => ?_) | with_reducible refine MemInv.mem ?_
    | with_reducible apply State.setReg_memInv | with_reducible apply State.fresh_memInv
    | with_reducible apply State.setField_memInv | with_reducible apply State.setFlag_memInv

theorem execScreeTestDone_memInv (s : State) (h : s.MemInv) :
    OutInv (execScreeTestDone s) := by
  unfold execScreeTestDone
  try dsimp only
  repeat' first
    | with_reducible assumption | with_reducible refine OutInv.next ?_
    | with_reducible refine MemInv.ite (fun _ => ?_) (fun _ => ?_) | with_reducible refine MemInv.mem ?_
    | with_reducible apply State.setReg_memInv

end Sys2Proof.Machine
end

