-- ==== Sys2Proof/Laws/KeepHbm.lean ====
section
/-! SUPPORT. What the operations of Machine/Hbm.lean do keeps the invariant of memory. -/
set_option linter.unusedSimpArgs false
namespace Sys2Proof.Machine

theorem State.pageLost_memInv (s : State) (g : Nat) (h : s.MemInv) :
    (State.pageLost s g).MemInv := by
  unfold State.pageLost
  try dsimp only
  repeat' first
    | with_reducible assumption | with_reducible refine MemInv.ite (fun _ => ?_) (fun _ => ?_)
    | with_reducible refine MemInv.mem ?_ | with_reducible apply State.escalate_memInv

theorem State.hbmEcc_memInv (s : State) (key : Nat) (e : Ecc) (h : s.MemInv) :
    (State.hbmEcc s key e).MemInv := by
  unfold State.hbmEcc
  try dsimp only
  repeat' first
    | with_reducible assumption | with_reducible refine MemInv.mem ?_ | with_reducible apply State.event_memInv
    | with_reducible apply State.countErr_memInv | with_reducible apply State.pageLost_memInv
    | with_reducible apply State.hbmUe_memInv | split

theorem State.basinLine_memInv (s : State) (key : Nat) (l : LineErr) (h : s.MemInv) :
    (State.basinLine s key l).MemInv := by
  unfold State.basinLine
  try dsimp only
  repeat' first
    | with_reducible assumption | with_reducible refine MemInv.mem ?_ | with_reducible apply State.countErr_memInv
    | with_reducible apply State.setErr_memInv | with_reducible apply State.pageLost_memInv
    | with_reducible apply State.poisonCount_memInv | split

theorem State.hbmFetch_memInv (s : State) (g : Nat) (e : Ecc) (h : s.MemInv) :
    (State.hbmFetch s g e).MemInv := by
  unfold State.hbmFetch
  try dsimp only
  repeat' first
    | with_reducible assumption | with_reducible refine MemInv.ite (fun _ => ?_) (fun _ => ?_)
    | with_reducible refine MemInv.mem ?_ | with_reducible apply State.hbmEcc_memInv | with_reducible apply State.event_memInv

theorem State.writeBack_memInv (s : State) (b : Nat) (back : Option Bool) (h : s.MemInv) :
    (State.writeBack s b back).MemInv := by
  unfold State.writeBack
  try dsimp only
  repeat' first
    | with_reducible assumption | with_reducible refine MemInv.mem ?_ | with_reducible apply State.event_memInv | split

theorem State.basinHit_memInv (s : State) (g : Nat) (u : GranUse) (h : s.MemInv) :
    (State.basinHit s g u).MemInv := by
  unfold State.basinHit
  try dsimp only
  repeat' first
    | with_reducible assumption | with_reducible refine MemInv.ite (fun _ => ?_) (fun _ => ?_)
    | with_reducible refine MemInv.mem ?_ | with_reducible apply State.basinLine_memInv
    | with_reducible apply State.event_memInv | with_reducible apply State.hbmFetch_memInv

theorem State.granRead_memInv (s : State) (hint : Nat) (g : Nat) (u : GranUse) (h : s.MemInv) :
    (State.granRead s hint g u).MemInv := by
  unfold State.granRead
  try dsimp only
  repeat' first
    | with_reducible assumption | with_reducible refine MemInv.ite (fun _ => ?_) (fun _ => ?_)
    | with_reducible refine MemInv.mem ?_ | with_reducible apply State.basinHit_memInv | with_reducible apply State.event_memInv
    | with_reducible apply State.hbmFetch_memInv | with_reducible apply State.writeBack_memInv

theorem State.granWrite_memInv (s : State) (hint : Nat) (g : Nat) (u : GranUse) (h : s.MemInv) :
    (State.granWrite s hint g u).MemInv := by
  unfold State.granWrite
  try dsimp only
  repeat' first
    | with_reducible assumption | with_reducible refine MemInv.ite (fun _ => ?_) (fun _ => ?_)
    | with_reducible refine MemInv.mem ?_ | with_reducible apply State.basinHit_memInv | with_reducible apply State.event_memInv
    | with_reducible apply State.hbmFetch_memInv | with_reducible apply State.writeBack_memInv

theorem State.readRange_memInv (s : State) (hint : Nat) (key : Nat) (n : Nat) (us : List GranUse) (h : s.MemInv) :
    (State.readRange s hint key n us).MemInv := by
  unfold State.readRange
  try dsimp only
  repeat' first
    | with_reducible assumption | with_reducible refine MemInv.mem ?_ | with_reducible apply State.granRead_memInv
    | with_reducible refine MemInv.foldl (fun _ _ _ => ?_) _ ?_

theorem State.writeRange_memInv (s : State) (hint : Nat) (key : Nat) (n : Nat) (us : List GranUse) (h : s.MemInv) :
    (State.writeRange s hint key n us).MemInv := by
  unfold State.writeRange
  try dsimp only
  repeat' first
    | with_reducible assumption | with_reducible refine MemInv.mem ?_ | with_reducible apply State.granWrite_memInv
    | with_reducible refine MemInv.foldl (fun _ _ _ => ?_) _ ?_

theorem State.setSpill_memInv (s : State) (p : Nat) (v : W64) (h : s.MemInv) :
    (State.setSpill s p v).MemInv := by
  unfold State.setSpill
  try dsimp only
  repeat' first
    | with_reducible assumption | with_reducible refine MemInv.ite (fun _ => ?_) (fun _ => ?_)
    | with_reducible refine MemInv.mem ?_ | with_reducible apply State.winWrite_memInv

theorem State.clearSpill_memInv (s : State) (h : s.MemInv) : (State.clearSpill s).MemInv :=
  Mem.Inv.clearRows h _ _ _ _ _

theorem State.setSpill_writes (s : State) (p : Nat) (v : W64) : s.WritesMem (s.setSpill p v) := by
  unfold State.setSpill
  split
  · exact s.winWrite_writes _ _
  · rfl
theorem State.writeSpill_memInv (s : State) (h : s.MemInv) : (State.writeSpill s).MemInv := by
  unfold State.writeSpill
  split
  · exact h
  · exact MemInv.foldl (fun t e ht => State.setSpill_memInv _ _ _ ht) _ (State.clearSpill_memInv s h)
/-- The spill copy is written without any change to the state of the stacks. -/
theorem State.writeSpill_stacks (s : State) : s.writeSpill.mem.ready = s.mem.ready ∧ s.writeSpill.mem.failed = s.mem.failed := by
  unfold State.writeSpill
  split
  · exact ⟨rfl, rfl⟩
  · have hr : s.clearSpill.mem.ready = s.mem.ready := rfl
    have hf : s.clearSpill.mem.failed = s.mem.failed := rfl
    have hw := (State.WritesMem.foldl (f := fun (t : State) (e : Nat × W64) => t.setSpill e.1 e.2)
      (fun t e => t.setSpill_writes e.1 e.2) s.mem.pmap0 s.clearSpill).stacks
    rw [hr, hf] at hw
    exact hw

theorem State.pmapInit_memInv (s : State) (h : s.MemInv) : (State.pmapInit s).MemInv := by
  unfold State.pmapInit
  split
  · exact h
  · refine Mem.Inv.setReady (State.writeSpill_memInv s h) fun k hk => ?_
    rename_i hc
    simp only [Bool.or_eq_true, Bool.not_eq_true', not_or, Bool.not_eq_false, List.all_eq_true, List.mem_range] at hc
    rw [s.writeSpill_stacks.1, s.writeSpill_stacks.2]
    exact hc.2 k hk

theorem execHbmTrainFill_memInv (stack : Fin 8) (ok : Bool) (lanes : BitVec 8) (s : State) (h : s.MemInv) :
    OutInv (execHbmTrainFill stack ok lanes s) := by
  refine OutInv.next ?_
  split
  · exact h
  · rename_i hc
    simp only [Bool.or_eq_true, not_or, Bool.not_eq_true] at hc
    split
    · exact Mem.Inv.addFilling h hc.1.1.2 hc.1.2
    · refine State.pmapInit_memInv _ (State.setErr_memInv _ _ _ ?_)
      exact Mem.Inv.addFailed h hc.1.1.2 hc.2

theorem execHbmFillDone_memInv (stack : Fin 8) (s : State) (h : s.MemInv) : OutInv (execHbmFillDone stack s) := by
  refine OutInv.next ?_
  split
  · exact State.pmapInit_memInv _ (State.fresh_memInv _ (Mem.Inv.fillDone h ‹_› _))
  · exact h

theorem execHbmScrubRead_memInv (stack : Fin 8) (e : Ecc) (s : State) (h : s.MemInv) : OutInv (execHbmScrubRead stack e s) := by
  refine OutInv.next ?_
  split
  · exact h
  · have h' : ∀ t : Table Nat, State.MemInv { s with mem := { s.mem with scrub := t } } := fun t => Mem.Inv.congr h rfl
    cases e
    · exact State.event_memInv _ _ _ _ (h' _)
    · exact State.event_memInv _ _ _ _ (State.countErr_memInv _ _ (State.event_memInv _ _ _ _ (h' _)))
    · exact State.pageLost_memInv _ _ (State.hbmUe_memInv _ _ _ _ (State.event_memInv _ _ _ _ (h' _)))

theorem State.resizeWindow_memInv (s : State) (v : W32) (h : s.MemInv) : (State.resizeWindow s v).MemInv := by
  unfold State.resizeWindow
  have h' := State.setReg_memInv s .pmap 0x100 (w32 (fld v 9 0)) h
  dsimp only
  split
  · exact h'
  · exact State.pmapInit_memInv _ (State.fresh_memInv _ (Mem.Inv.resize h' _ _))

theorem State.dropPage_memInv (s : State) (p : Nat) (h : s.MemInv) : (State.dropPage s p).MemInv := Mem.Inv.congr h rfl

theorem State.writeEntry_memInv (s : State) (p : Nat) (v : W64) (h : s.MemInv) :
    (State.writeEntry s p v).MemInv := by
  unfold State.writeEntry
  try dsimp only
  repeat' first
    | with_reducible assumption | with_reducible refine MemInv.mem ?_ | with_reducible apply State.event_memInv
    | with_reducible apply State.dropPage_memInv | with_reducible apply State.setSpill_memInv
    | with_reducible apply State.setPmap_memInv

theorem execPageMapWrite_memInv (page : BitVec 19) (wide : Bool) (value : W64) (s : State) (h : s.MemInv) :
    OutInv (execPageMapWrite page wide value s) := by
  unfold execPageMapWrite
  try dsimp only
  repeat' first
    | with_reducible assumption | with_reducible refine OutInv.next ?_
    | with_reducible refine MemInv.ite (fun _ => ?_) (fun _ => ?_) | with_reducible refine MemInv.mem ?_
    | simp only [MemInv.mk_iff] | with_reducible apply State.setErr_memInv | with_reducible apply State.writeEntry_memInv

theorem State.entryUe_memInv (s : State) (p : Nat) (h : s.MemInv) : (State.entryUe s p).MemInv := by
  unfold State.entryUe
  split
  · exact State.countErr_memInv _ _ (State.setPmap_memInv _ _ _ h)
  · exact State.stepAbort_memInv _ _ (State.setErr_memInv _ _ _ (Mem.Inv.addLost h p))

theorem State.readEntry_memInv (s : State) (p : Nat) (e : Ecc) (h : s.MemInv) :
    (State.readEntry s p e).MemInv := by
  unfold State.readEntry
  try dsimp only
  repeat' first
    | with_reducible assumption | with_reducible refine MemInv.ite (fun _ => ?_) (fun _ => ?_)
    | with_reducible refine MemInv.mem ?_ | with_reducible apply State.event_memInv | with_reducible apply State.countErr_memInv
    | with_reducible apply State.entryUe_memInv | split

theorem State.lookup_memInv (s : State) (die : Nat) (copy : Nat) (a : Nat) (e : Ecc) (h : s.MemInv) :
    (State.lookup s die copy a e).MemInv := by
  unfold State.lookup
  try dsimp only
  repeat' first
    | with_reducible assumption | with_reducible refine MemInv.ite (fun _ => ?_) (fun _ => ?_)
    | with_reducible refine MemInv.mem ?_ | with_reducible apply State.readEntry_memInv

theorem State.cacheUse_memInv (s : State) (n p : Nat) (h : s.MemInv) : (State.cacheUse s n p).MemInv := Mem.Inv.congr h rfl

theorem State.cacheFill_memInv (s : State) (n : Nat) (p : Nat) (e : Ecc) (h : s.MemInv) :
    (State.cacheFill s n p e).MemInv := by
  unfold State.cacheFill
  try dsimp only
  repeat' first
    | with_reducible assumption | with_reducible refine MemInv.ite (fun _ => ?_) (fun _ => ?_)
    | with_reducible refine MemInv.mem ?_ | with_reducible apply State.readEntry_memInv
    | with_reducible apply State.cacheUse_memInv

theorem execBatchGo_memInv (value : W32) (s : State) (h : s.MemInv) : OutInv (execBatchGo value s) := by
  refine OutInv.next ?_
  split
  · exact h
  · split
    · exact State.setErr_memInv _ _ _ h
    · dsimp only
      split
      · rename_i hb
        simp only [State.batchOk, Bool.and_eq_true, bne_iff_ne, decide_eq_true_eq, List.all_eq_true, List.mem_range,
          Bool.not_eq_true'] at hb
        refine Mem.Inv.setBatch (State.setReg_memInv _ _ _ _ (State.setReg_memInv _ _ _ _ h)) _ ⟨?_, ?_, ?_⟩
        · simpa using hb.1.1.1
        · simpa using hb.1.1.2
        · intro r hr
          simp only [List.mem_map, List.mem_range] at hr
          obtain ⟨i, hi, rfl⟩ := hr
          exact (hb.2 i hi).2
      · exact State.setErr_memInv _ _ _ (State.setReg_memInv _ _ _ _ (State.setReg_memInv _ _ _ _ h))

theorem State.applyBatch_memInv (s : State) (b : Batch) (h : s.MemInv) : (State.applyBatch s b).MemInv := by
  refine State.event_memInv _ _ _ _ (State.setReg_memInv _ _ _ _ (Mem.Inv.noBatch ?_ _))
  exact MemInv.foldl (fun t r ht => State.event_memInv _ _ _ _ (State.setSpill_memInv _ _ _ (State.setPmap_memInv _ _ _ ht))) _ h

theorem execBatchApply_memInv (s : State) (h : s.MemInv) :
    OutInv (execBatchApply s) := by
  unfold execBatchApply
  try dsimp only
  repeat' first
    | with_reducible assumption | with_reducible refine OutInv.next ?_
    | with_reducible refine MemInv.ite (fun _ => ?_) (fun _ => ?_) | with_reducible refine MemInv.mem ?_
    | with_reducible apply State.applyBatch_memInv | split

theorem State.batchAtClosed_memInv (s : State) (h : s.MemInv) :
    (State.batchAtClosed s).MemInv := by
  unfold State.batchAtClosed
  try dsimp only
  repeat' first
    | with_reducible assumption | with_reducible refine MemInv.ite (fun _ => ?_) (fun _ => ?_)
    | with_reducible refine MemInv.mem ?_ | with_reducible apply State.applyBatch_memInv | split

theorem State.portNext_memInv (s : State) (h : s.MemInv) :
    (State.portNext s).MemInv := by
  unfold State.portNext
  try dsimp only
  repeat' first
    | with_reducible assumption | with_reducible refine MemInv.mem ?_ | with_reducible apply State.setReg64_memInv

theorem execWindowPortReadLo_memInv (wide : Bool) (s : State) (h : s.MemInv) :
    OutInv (execWindowPortReadLo wide s) := by
  unfold execWindowPortReadLo
  try dsimp only
  repeat' first
    | with_reducible assumption | with_reducible refine OutInv.next ?_
    | with_reducible refine MemInv.ite (fun _ => ?_) (fun _ => ?_) | with_reducible refine MemInv.mem ?_
    | with_reducible apply State.event_memInv | with_reducible apply State.setReg_memInv
    | with_reducible apply State.setErr_memInv | with_reducible apply State.emit_memInv
    | with_reducible apply State.portNext_memInv

theorem execWindowPortReadHi_memInv (s : State) (h : s.MemInv) :
    OutInv (execWindowPortReadHi s) := by
  unfold execWindowPortReadHi
  try dsimp only
  repeat' first
    | with_reducible assumption | with_reducible refine OutInv.next ?_
    | with_reducible refine MemInv.ite (fun _ => ?_) (fun _ => ?_) | with_reducible refine MemInv.mem ?_
    | with_reducible apply State.emit_memInv | with_reducible apply State.portNext_memInv

theorem State.portBusy_memInv (s : State) (o : Nat) (h : s.MemInv) :
    (State.portBusy s o).MemInv := by
  unfold State.portBusy
  try dsimp only
  repeat' first
    | with_reducible assumption | with_reducible refine MemInv.ite (fun _ => ?_) (fun _ => ?_)
    | with_reducible refine MemInv.mem ?_ | with_reducible apply State.setErr_memInv | with_reducible apply State.event_memInv

theorem State.portTag_memInv (s : State) (o : Nat) (h : s.MemInv) :
    (State.portTag s o).MemInv := by
  unfold State.portTag
  try dsimp only
  repeat' first
    | with_reducible assumption | with_reducible refine MemInv.ite (fun _ => ?_) (fun _ => ?_)
    | with_reducible refine MemInv.mem ?_ | simp only [MemInv.mk_iff]

theorem execWindowPortWriteHi_memInv (value : W32) (s : State) (h : s.MemInv) :
    OutInv (execWindowPortWriteHi value s) := by
  unfold execWindowPortWriteHi
  try dsimp only
  repeat' first
    | with_reducible assumption | with_reducible refine OutInv.next ?_
    | with_reducible refine MemInv.ite (fun _ => ?_) (fun _ => ?_) | with_reducible refine MemInv.mem ?_
    | with_reducible apply State.portTag_memInv | with_reducible apply State.winWrite_memInv
    | with_reducible apply State.portBusy_memInv | with_reducible apply State.portNext_memInv
    | with_reducible apply State.event_memInv

end Sys2Proof.Machine
end

