-- ==== Sys2Proof/Laws/KeepAccess.lean ====
section
/-! SUPPORT. What the operations of Machine/Access.lean do keeps the invariant of memory. -/
set_option linter.unusedSimpArgs false
namespace Sys2Proof.Machine

theorem State.walk_memInv (s : State) (w : Walker) (a : Nat) (e : Ecc) (h : s.MemInv) :
    (State.walk s w a e).MemInv := by
  unfold State.walk
  try dsimp only
  repeat' first
    | with_reducible assumption | with_reducible refine MemInv.ite (fun _ => ?_) (fun _ => ?_)
    | with_reducible refine MemInv.mem ?_ | with_reducible apply State.lookup_memInv
    | with_reducible apply State.cacheUse_memInv | with_reducible apply State.cacheFill_memInv
    | with_reducible apply State.event_memInv | split

theorem State.putLocal_memInv (s : State) (key : Nat) (bs : List OutByte) (h : s.MemInv) :
    (State.putLocal s key bs).MemInv := by
  unfold State.putLocal
  try dsimp only
  repeat' first
    | with_reducible assumption | with_reducible refine MemInv.mem ?_ | with_reducible apply State.poisonWrite_memInv
    | with_reducible apply State.hbmPut_memInv | with_reducible refine MemInv.foldl (fun _ _ _ => ?_) _ ?_

theorem State.smear_memInv (s : State) (race : Nat → Bool) (a : Nat) (n : Nat) (key : Nat) (h : s.MemInv) :
    (State.smear s race a n key).MemInv := by
  unfold State.smear
  try dsimp only
  repeat' first
    | with_reducible assumption | with_reducible refine MemInv.ite (fun _ => ?_) (fun _ => ?_)
    | with_reducible refine MemInv.mem ?_ | with_reducible apply State.fresh_memInv | with_reducible apply State.hbmPut_memInv

theorem State.putBoard_memInv (s : State) (a : Nat) (key : Nat) (bs : List OutByte) (h : s.MemInv) :
    (State.putBoard s a key bs).MemInv := by
  unfold State.putBoard
  try dsimp only
  repeat' first
    | with_reducible assumption | with_reducible refine MemInv.mem ?_ | with_reducible apply State.smear_memInv
    | with_reducible apply State.putLocal_memInv

theorem Wrote.piece_memInv (x : Wrote) (w : Walker) (c : Nat) (hint : Nat) (who : Who) (us : List GranUse) (a : Nat) (d : List OutByte) (e : Ecc)  (hw : x.s.MemInv) :
    (Wrote.piece x w c hint who us a d e).s.MemInv := by
  unfold Wrote.piece
  try dsimp only
  repeat' first
    | with_reducible assumption | with_reducible refine MemInv.ite (fun _ => ?_) (fun _ => ?_)
    | with_reducible refine MemInv.mem ?_ | with_reducible apply State.walk_memInv | with_reducible apply Wrote.s_memInv
    | with_reducible apply State.putBoard_memInv | with_reducible apply State.writeRange_memInv
    | with_reducible apply State.submit_memInv | split

theorem State.writeBoard_memInv (s : State) (w : Walker) (c : Nat) (a : Nat) (hint : Nat) (bs : List OutByte) (who : Who) (m : MemUse) (h : s.MemInv) :
    (State.writeBoard s w c a hint bs who m).s.MemInv := by
  unfold State.writeBoard
  try dsimp only
  repeat' first
    | with_reducible assumption | with_reducible refine MemInv.mem ?_ | with_reducible apply Wrote.piece_memInv
    | with_reducible refine MemInv.foldl (fun _ _ _ => ?_) _ ?_ | with_reducible refine MemInv.foldl_fst (fun _ _ _ => ?_) _ ?_
    | with_reducible refine MemInv.foldl_wrote (fun _ _ _ => ?_) _ ?_

theorem State.lookupRange_memInv (s : State) (die : Nat) (copy : Nat) (a : Nat) (n : Nat) (pm : List Ecc) (h : s.MemInv) :
    (State.lookupRange s die copy a n pm).MemInv := by
  unfold State.lookupRange
  try dsimp only
  repeat' first
    | with_reducible assumption | with_reducible refine MemInv.mem ?_ | with_reducible apply State.lookup_memInv
    | with_reducible refine MemInv.foldl (fun _ _ _ => ?_) _ ?_

theorem State.useLocal_memInv (s : State) (wr : Bool) (hint : Nat) (l : List (Nat × Nat × Nat)) (us : List GranUse) (h : s.MemInv) :
    (State.useLocal s wr hint l us).MemInv := by
  unfold State.useLocal
  try dsimp only
  repeat' first
    | with_reducible assumption | with_reducible refine MemInv.ite (fun _ => ?_) (fun _ => ?_)
    | with_reducible refine MemInv.mem ?_ | with_reducible apply State.writeRange_memInv
    | with_reducible apply State.readRange_memInv | with_reducible refine MemInv.foldl (fun _ _ _ => ?_) _ ?_
    | with_reducible refine MemInv.foldl_fst (fun _ _ _ => ?_) _ ?_

theorem State.putPieces_memInv (s : State) (a : Nat) (l : List (Nat × Nat × Nat)) (bs : List OutByte) (h : s.MemInv) :
    (State.putPieces s a l bs).MemInv := by
  unfold State.putPieces
  try dsimp only
  repeat' first
    | with_reducible assumption | with_reducible refine MemInv.mem ?_ | with_reducible apply State.putBoard_memInv
    | with_reducible refine MemInv.foldl (fun _ _ _ => ?_) _ ?_

end Sys2Proof.Machine
end

