-- ==== Sys2Proof/Laws/KeepTile.lean ====
section
/-! SUPPORT. What the operations of Machine/Tile.lean do keeps the invariant of memory. -/
set_option linter.unusedSimpArgs false
namespace Sys2Proof.Machine

theorem State.tarnReads_memInv (s : State) (n : Nat) (l : List (Nat × Nat)) (h : s.MemInv) :
    (State.tarnReads s n l).MemInv := by
  unfold State.tarnReads
  try dsimp only
  repeat' first
    | with_reducible assumption | with_reducible refine MemInv.mem ?_ | with_reducible apply State.event_memInv

theorem State.tarnWrites_memInv (s : State) (n : Nat) (l : List (Nat × Nat)) (h : s.MemInv) :
    (State.tarnWrites s n l).MemInv := by
  unfold State.tarnWrites
  try dsimp only
  repeat' first
    | with_reducible assumption | with_reducible refine MemInv.mem ?_ | with_reducible apply State.event_memInv

end Sys2Proof.Machine
end

