-- ==== Sys2Proof/Laws/KeepRidge.lean ====
section
/-! SUPPORT. What the operations of Machine/Ridge.lean do keeps the invariant of memory. -/
set_option linter.unusedSimpArgs false
namespace Sys2Proof.Machine

theorem State.rdgInfo_memInv (s : State) (n : Nat) (reason : Nat) (arr : Nat) (h : s.MemInv) :
    (State.rdgInfo s n reason arr).MemInv := by
  unfold State.rdgInfo
  try dsimp only
  repeat' first
    | with_reducible assumption | with_reducible refine MemInv.ite (fun _ => ?_) (fun _ => ?_)
    | with_reducible refine MemInv.mem ?_ | with_reducible apply State.setReg_memInv

theorem State.accInfo_memInv (s : State) (n : Nat) (reason : Nat) (arr : Nat) (h : s.MemInv) :
    (State.accInfo s n reason arr).MemInv := by
  unfold State.accInfo
  try dsimp only
  repeat' first
    | with_reducible assumption | with_reducible refine MemInv.ite (fun _ => ?_) (fun _ => ?_)
    | with_reducible refine MemInv.mem ?_ | with_reducible apply State.setReg_memInv

theorem State.tileDone_memInv (s : State) (n : Nat) (d : Desc) (h : s.MemInv) :
    (State.tileDone s n d).MemInv := by
  unfold State.tileDone
  try dsimp only
  repeat' first
    | with_reducible assumption | with_reducible refine MemInv.ite (fun _ => ?_) (fun _ => ?_)
    | with_reducible refine MemInv.mem ?_ | with_reducible apply State.tileLeaves_memInv

theorem State.tileRefuse_memInv (s : State) (n : Nat) (d : Desc) (reason : Nat) (h : s.MemInv) :
    (State.tileRefuse s n d reason).MemInv := by
  unfold State.tileRefuse
  try dsimp only
  repeat' first
    | with_reducible assumption | with_reducible refine MemInv.ite (fun _ => ?_) (fun _ => ?_)
    | with_reducible refine MemInv.mem ?_ | with_reducible apply State.opFault_memInv | with_reducible apply State.event_memInv
    | with_reducible apply State.setErr_memInv | with_reducible apply State.rdgInfo_memInv

theorem State.epiRefuse_memInv (s : State) (n : Nat) (d : Desc) (reason : Nat) (fmt : Bool) (h : s.MemInv) :
    (State.epiRefuse s n d reason fmt).MemInv := by
  unfold State.epiRefuse
  try dsimp only
  repeat' first
    | with_reducible assumption | with_reducible refine MemInv.ite (fun _ => ?_) (fun _ => ?_)
    | with_reducible refine MemInv.mem ?_ | with_reducible apply State.opFault_memInv | with_reducible apply State.event_memInv
    | with_reducible apply State.setErr_memInv | with_reducible apply State.accInfo_memInv

theorem State.chainFault_memInv (s : State) (n : Nat) (d : Desc) (reason : Nat) (h : s.MemInv) :
    (State.chainFault s n d reason).MemInv := by
  unfold State.chainFault
  try dsimp only
  repeat' first
    | with_reducible assumption | with_reducible refine MemInv.mem ?_ | with_reducible apply State.opFault_memInv
    | with_reducible apply State.setErr_memInv | with_reducible apply State.accInfo_memInv

theorem State.asRead_memInv (s : State) (op : Nat) (place : Nat → Nat) (bs : List OutByte) (h : s.MemInv) :
    (State.asRead s op place bs).1.MemInv := by
  unfold State.asRead
  try dsimp only
  repeat' first
    | with_reducible assumption | with_reducible refine MemInv.ite (fun _ => ?_) (fun _ => ?_)
    | with_reducible refine MemInv.mem ?_ | with_reducible apply State.fresh_memInv | split

theorem State.tileReject_memInv (s : State) (n : Nat) (d : Desc) (v : TileVerdict) (h : s.MemInv) :
    (State.tileReject s n d v).MemInv := by
  unfold State.tileReject
  try dsimp only
  repeat' first
    | with_reducible assumption | with_reducible refine MemInv.ite (fun _ => ?_) (fun _ => ?_)
    | with_reducible refine MemInv.mem ?_ | with_reducible apply State.tileDone_memInv
    | with_reducible apply State.tileRefuse_memInv | with_reducible apply State.epiRefuse_memInv
    | with_reducible apply State.opFault_memInv | with_reducible apply State.setErr_memInv | split

theorem State.cairnPending_memInv (s : State) (j : Option Nat) (d : Int) (h : s.MemInv) :
    (State.cairnPending s j d).MemInv := by
  unfold State.cairnPending
  try dsimp only
  repeat' first
    | with_reducible assumption | with_reducible refine MemInv.mem ?_ | with_reducible apply State.setField_memInv | split

theorem State.cairnAccept_memInv (s : State) (n : Nat) (id : Nat) (d : Desc) (h : s.MemInv) :
    (State.cairnAccept s n id d).1.MemInv := by
  unfold State.cairnAccept
  try dsimp only
  repeat' first
    | with_reducible assumption | with_reducible refine MemInv.ite (fun _ => ?_) (fun _ => ?_)
    | with_reducible refine MemInv.mem ?_ | simp only [MemInv.mk_iff] | with_reducible apply State.event_memInv
    | with_reducible apply State.addSat_memInv | with_reducible apply State.setReg_memInv
    | with_reducible apply State.cairnPending_memInv | with_reducible refine Mem.Inv.setMarking ?_ _ | split

theorem State.pushTile_memInv (s : State) (n : Nat) (o : TileOp) (h : s.MemInv) :
    (State.pushTile s n o).MemInv := by
  unfold State.pushTile
  try dsimp only
  repeat' first
    | with_reducible assumption | with_reducible refine MemInv.mem ?_ | with_reducible apply State.wake_memInv
    | with_reducible apply State.event_memInv | with_reducible apply State.setRidge_memInv

theorem State.acceptTile_memInv (s : State) (n : Nat) (d : Desc) (h : s.MemInv) :
    (State.acceptTile s n d).MemInv := by
  unfold State.acceptTile
  try dsimp only
  repeat' first
    | with_reducible assumption | with_reducible refine MemInv.ite (fun _ => ?_) (fun _ => ?_)
    | with_reducible refine MemInv.mem ?_ | with_reducible apply State.cairnAccept_memInv
    | with_reducible apply State.pushTile_memInv | with_reducible apply State.tileReject_memInv
    | with_reducible refine MemInv.of_fst (by assumption) ?_ | split

theorem State.acceptPair_memInv (s : State) (n : Nat) (d : Desc) (e : Desc) (h : s.MemInv) :
    (State.acceptPair s n d e).MemInv := by
  unfold State.acceptPair
  try dsimp only
  repeat' first
    | with_reducible assumption | with_reducible refine MemInv.ite (fun _ => ?_) (fun _ => ?_)
    | with_reducible refine MemInv.mem ?_ | with_reducible apply State.tileReject_memInv
    | with_reducible apply State.cairnAccept_memInv | with_reducible apply State.pushTile_memInv
    | with_reducible refine MemInv.of_fst (by assumption) ?_ | split

theorem State.rejectTwin_memInv (s : State) (n : Nat) (d : Desc) (h : s.MemInv) :
    (State.rejectTwin s n d).MemInv := by
  unfold State.rejectTwin
  try dsimp only
  repeat' first
    | with_reducible assumption | with_reducible refine MemInv.mem ?_ | with_reducible apply State.tileReject_memInv | split

theorem State.dmemMeets_memInv (s : State) (c : Nat) (a : Nat) (n : Nat) (e : Ecc) (h : s.MemInv) :
    (State.dmemMeets s c a n e).MemInv := by
  unfold State.dmemMeets
  try dsimp only
  repeat' first
    | with_reducible assumption | with_reducible refine MemInv.ite (fun _ => ?_) (fun _ => ?_)
    | with_reducible refine MemInv.mem ?_ | with_reducible apply State.countErr_memInv
    | with_reducible apply State.setCore_memInv | with_reducible apply State.setErr_memInv | split

theorem State.epiMeets_memInv (s : State) (n : Nat) (d : Desc) (e : Ecc) (h : s.MemInv) :
    (State.epiMeets s n d e).MemInv := by
  unfold State.epiMeets
  try dsimp only
  repeat' first
    | with_reducible assumption | with_reducible refine MemInv.ite (fun _ => ?_) (fun _ => ?_)
    | with_reducible refine MemInv.mem ?_ | with_reducible apply State.dmemMeets_memInv

theorem execTileOpAccept_memInv (ridge : Fin 64) (e : Ecc) (s : State) (h : s.MemInv) :
    OutInv (execTileOpAccept ridge e s) := by
  unfold execTileOpAccept
  try dsimp only
  repeat' first
    | with_reducible assumption | with_reducible refine OutInv.next ?_
    | with_reducible refine MemInv.ite (fun _ => ?_) (fun _ => ?_) | with_reducible refine MemInv.mem ?_
    | with_reducible apply State.acceptTile_memInv | with_reducible apply State.epiMeets_memInv
    | with_reducible apply State.setRidge_memInv | with_reducible apply State.rejectTwin_memInv
    | with_reducible apply State.acceptPair_memInv | split

theorem State.finishTile_memInv (s : State) (n : Nat) (o : TileOp) (h : s.MemInv) :
    (State.finishTile s n o).MemInv := by
  unfold State.finishTile
  try dsimp only
  repeat' first
    | with_reducible assumption | with_reducible refine MemInv.ite (fun _ => ?_) (fun _ => ?_)
    | with_reducible refine MemInv.mem ?_ | with_reducible apply State.setRidge_memInv
    | with_reducible apply State.opTally_memInv

theorem State.abandonCheck_memInv (s : State) (c : Check) (h : s.MemInv) :
    (State.abandonCheck s c).MemInv := by
  unfold State.abandonCheck
  try dsimp only
  repeat' first
    | with_reducible assumption | with_reducible refine MemInv.mem ?_ | simp only [MemInv.mk_iff]
    | with_reducible apply State.event_memInv | with_reducible apply State.addSat_memInv
    | with_reducible apply State.cairnPending_memInv

theorem State.checkRelease_memInv (s : State) (c : Check) (h : s.MemInv) :
    (State.checkRelease s c).MemInv := by
  unfold State.checkRelease
  try dsimp only
  repeat' first
    | with_reducible assumption | with_reducible refine MemInv.ite (fun _ => ?_) (fun _ => ?_)
    | with_reducible refine MemInv.mem ?_ | with_reducible apply State.setRidge_memInv
    | with_reducible apply State.finishTile_memInv | with_reducible apply State.event_memInv
    | with_reducible refine MemInv.foldl (fun _ _ _ => ?_) _ ?_

theorem State.abandonSample_memInv (s : State) (c : Check) (h : s.MemInv) :
    (State.abandonSample s c).MemInv := by
  unfold State.abandonSample
  try dsimp only
  repeat' first
    | with_reducible assumption | with_reducible refine MemInv.mem ?_ | with_reducible apply State.checkRelease_memInv
    | with_reducible apply State.abandonCheck_memInv

theorem State.endTile_memInv (s : State) (n : Nat) (o : TileOp) (h : s.MemInv) :
    (State.endTile s n o).MemInv := by
  unfold State.endTile
  try dsimp only
  repeat' first
    | with_reducible assumption | with_reducible refine MemInv.ite (fun _ => ?_) (fun _ => ?_)
    | with_reducible refine MemInv.mem ?_ | with_reducible apply State.tileDone_memInv
    | with_reducible apply State.abandonCheck_memInv | with_reducible apply State.checkRelease_memInv
    | with_reducible apply State.setRidge_memInv | split

theorem State.tilePoisonFault_memInv (s : State) (n : Nat) (id : Nat) (h : s.MemInv) :
    (State.tilePoisonFault s n id).MemInv := by
  unfold State.tilePoisonFault
  try dsimp only
  repeat' first
    | with_reducible assumption | with_reducible refine MemInv.ite (fun _ => ?_) (fun _ => ?_)
    | with_reducible refine MemInv.mem ?_ | with_reducible apply State.opFault_memInv
    | with_reducible apply State.setRidge_memInv | split

end Sys2Proof.Machine
end

