-- ==== Sys2Proof/Laws/KeepArray.lean ====
section
/-! SUPPORT. What the operations of Machine/Array.lean do keeps the invariant of memory. -/
set_option linter.unusedSimpArgs false
namespace Sys2Proof.Machine

theorem State.tarnUe_memInv (s : State) (n : Nat) (word : Nat) (bit : Nat) (h : s.MemInv) :
    (State.tarnUe s n word bit).MemInv := by
  unfold State.tarnUe
  try dsimp only
  repeat' first
    | with_reducible assumption | with_reducible refine MemInv.ite (fun _ => ?_) (fun _ => ?_)
    | with_reducible refine MemInv.mem ?_ | with_reducible apply State.setRidge_memInv
    | with_reducible apply State.setReg_memInv | with_reducible apply State.setErr_memInv

theorem State.tarnCe_memInv (s : State) (n : Nat) (word : Nat) (h : s.MemInv) :
    (State.tarnCe s n word).MemInv := by
  unfold State.tarnCe
  try dsimp only
  repeat' first
    | with_reducible assumption | with_reducible refine MemInv.mem ?_ | with_reducible apply State.event_memInv
    | with_reducible apply State.setReg_memInv | with_reducible apply State.countErr_memInv

theorem State.tarnErr_memInv (s : State) (n : Nat) (e : TarnErr) (h : s.MemInv) :
    (State.tarnErr s n e).MemInv := by
  unfold State.tarnErr
  try dsimp only
  repeat' first
    | with_reducible assumption | with_reducible refine MemInv.ite (fun _ => ?_) (fun _ => ?_)
    | with_reducible refine MemInv.mem ?_ | with_reducible apply State.tarnCe_memInv | with_reducible apply State.tarnUe_memInv
    | split

theorem State.loosen_memInv (s : State) (n : Nat) (o : TileOp) (b : Bool) (h : s.MemInv) :
    (State.loosen s n o b).MemInv := by
  unfold State.loosen
  try dsimp only
  repeat' first
    | with_reducible assumption | with_reducible refine MemInv.ite (fun _ => ?_) (fun _ => ?_)
    | with_reducible refine MemInv.mem ?_ | with_reducible apply State.setRidge_memInv
    | with_reducible refine MemInv.foldl (fun _ _ _ => ?_) _ ?_

theorem State.putArrTile_memInv (s : State) (n : Nat) (arr : Nat) (t : Nat) (u : Tile) (h : s.MemInv) :
    (State.putArrTile s n arr t u).MemInv := by
  unfold State.putArrTile
  try dsimp only
  repeat' first
    | with_reducible assumption | with_reducible refine MemInv.mem ?_ | with_reducible apply State.setRidge_memInv

theorem State.feedPoison_memInv (s : State) (n : Nat) (id : Nat) (h : s.MemInv) :
    (State.feedPoison s n id).MemInv := by
  unfold State.feedPoison
  try dsimp only
  repeat' first
    | with_reducible assumption | with_reducible refine MemInv.mem ?_ | with_reducible apply State.tilePoisonFault_memInv
    | with_reducible apply State.setErr_memInv

theorem State.takeTiles_memInv (s : State) (n : Nat) (o : TileOp) (x3 : List Nat) (x4 : Nat) (h : s.MemInv) :
    OptFst (State.takeTiles s n o x3 x4) := by
  induction x3 generalizing s x4 with
  | nil => rintro t ⟨⟩; exact h
  | cons a l ih =>
    intro t e
    unfold State.takeTiles at e
    split at e
    · cases e
    · cases e; exact h
    · rename_i u bad hu
      dsimp only at e
      refine ih _ _ ?_ t e
      have h1 := State.putArrTile_memInv s n (tdArray o.desc.words) a u h
      repeat' first
    | with_reducible assumption | with_reducible refine MemInv.ite (fun _ => ?_) (fun _ => ?_)
    | with_reducible apply State.feedPoison_memInv | with_reducible apply State.tarnReads_memInv
    | with_reducible apply State.event_memInv

theorem State.beginOp_memInv (s : State) (n : Nat) (o : TileOp) (h : s.MemInv) : OptInv (State.beginOp s n o) := by
  unfold State.beginOp
  dsimp only
  split
  · exact OptInv.some (State.setRidge_memInv _ _ _ h)
  · split
    · exact OptInv.none
    · exact OptInv.some (State.takeTiles_memInv _ _ _ _ _ (State.setRidge_memInv _ _ _ h) _ ‹_›)
    · exact OptInv.some (State.endTile_memInv _ _ _ (State.chainFault_memInv _ _ _ _ (State.setRidge_memInv _ _ _ h)))

theorem execTileOpReachArray_memInv (ridge : Fin 64) (array : Fin 64) (tarn : TarnErr) (s : State) (h : s.MemInv) :
    OutInv (execTileOpReachArray ridge array tarn s) := by
  unfold execTileOpReachArray
  try dsimp only
  repeat' first
    | with_reducible assumption | with_reducible refine OutInv.next ?_
    | with_reducible refine MemInv.ite (fun _ => ?_) (fun _ => ?_) | with_reducible refine MemInv.mem ?_
    | with_reducible apply State.tarnErr_memInv | with_reducible apply State.endTile_memInv
    | with_reducible apply State.tileRefuse_memInv | with_reducible apply State.beginOp_memInv
    | with_reducible refine OptInv.getD ?_ ?_ | with_reducible refine OptInv.bind ?_ (fun _ _ => ?_) | with_reducible intro _
    | with_reducible refine OptInv.some ?_ | with_reducible exact OptInv.none
    | with_reducible refine MemInv.of_some (by assumption) ?_ | split

theorem State.poisonTile_memInv (s : State) (n : Nat) (arr : Nat) (t : Nat) (h : s.MemInv) :
    (State.poisonTile s n arr t).MemInv := by
  unfold State.poisonTile
  try dsimp only
  repeat' first
    | with_reducible assumption | with_reducible refine MemInv.mem ?_ | with_reducible apply State.putArrTile_memInv

theorem State.accPoison_memInv (s : State) (n : Nat) (id : Nat) (arr : Nat) (t : Nat) (bit : Nat) (h : s.MemInv) :
    (State.accPoison s n id arr t bit).MemInv := by
  unfold State.accPoison
  try dsimp only
  repeat' first
    | with_reducible assumption | with_reducible refine MemInv.mem ?_ | with_reducible apply State.stepAbort_memInv
    | with_reducible apply State.tilePoisonFault_memInv | with_reducible apply State.setErr_memInv
    | with_reducible apply State.poisonTile_memInv

theorem State.readSlot_memInv (s : State) (n : Nat) (id : Nat) (arr : Nat) (t : Nat) (h : s.MemInv) :
    (State.readSlot s n id arr t).MemInv := by
  unfold State.readSlot
  try dsimp only
  repeat' first
    | with_reducible assumption | with_reducible refine MemInv.ite (fun _ => ?_) (fun _ => ?_)
    | with_reducible refine MemInv.mem ?_ | with_reducible apply State.feedPoison_memInv
    | with_reducible apply State.putArrTile_memInv

theorem State.slotErr_memInv (s : State) (n : Nat) (id : Nat) (arr : Nat) (t : Nat) (acc : AccErr) (h : s.MemInv) :
    (State.slotErr s n id arr t acc).MemInv := by
  unfold State.slotErr
  try dsimp only
  repeat' first
    | with_reducible assumption | with_reducible refine MemInv.ite (fun _ => ?_) (fun _ => ?_)
    | with_reducible refine MemInv.mem ?_ | with_reducible apply State.countErr_memInv
    | with_reducible apply State.accPoison_memInv | with_reducible apply State.readSlot_memInv | split

theorem State.spillTile_memInv (s : State) (n : Nat) (id : Nat) (arr : Nat) (t : Nat) (acc : AccErr) (h : s.MemInv) :
    OptInv (State.spillTile s n id arr t acc) := by
  unfold State.spillTile
  try dsimp only
  repeat' first
    | with_reducible assumption | with_reducible refine MemInv.ite (fun _ => ?_) (fun _ => ?_)
    | with_reducible refine MemInv.mem ?_ | with_reducible apply State.putArrTile_memInv
    | with_reducible apply State.slotErr_memInv | with_reducible apply State.event_memInv
    | with_reducible apply State.tarnWrites_memInv | with_reducible apply State.tarnReads_memInv
    | with_reducible apply State.readSlot_memInv | with_reducible apply State.setRidge_memInv
    | with_reducible refine OptInv.some ?_ | with_reducible exact OptInv.none
    | with_reducible refine MemInv.of_some (by assumption) ?_ | split

theorem State.passParity_memInv (s : State) (n : Nat) (id : Nat) (arr : Nat) (t : Nat) (p : PassParity) (h : s.MemInv) :
    (State.passParity s n id arr t p).1.MemInv := by
  unfold State.passParity
  try dsimp only
  repeat' first
    | with_reducible assumption | with_reducible refine MemInv.mem ?_ | with_reducible apply State.event_memInv
    | with_reducible apply State.countErr_memInv | with_reducible apply State.stepAbort_memInv
    | with_reducible apply State.tilePoisonFault_memInv | with_reducible apply State.setErr_memInv
    | with_reducible apply State.poisonTile_memInv | split

theorem State.blkRange_memInv (s : State) (o : TileOp) (h : s.MemInv) :
    (State.blkRange s o).MemInv := by
  unfold State.blkRange
  try dsimp only
  repeat' first
    | with_reducible assumption | with_reducible refine MemInv.mem ?_ | with_reducible apply State.setErr_memInv
    | with_reducible apply State.setScaleBit_memInv | split

theorem State.runPass_memInv (s : State) (n : Nat) (o : TileOp) (p : Pass) (kfirst two : Bool) (par : PassParity)
    (acc : AccErr) (h : s.MemInv) : OptInv (State.runPass s n o p kfirst two par acc) := by
  unfold State.runPass
  refine OptInv.map (State.spillTile_memInv _ _ _ _ _ _ h) fun s0 h0 => ?_
  extract_lets r x s1 p q u u1 u2 s2 s3 s4 s5 s6
  have h2 : s2.MemInv := State.putArrTile_memInv _ _ _ _ _ (State.passParity_memInv _ _ _ _ _ _ (State.setRidge_memInv _ _ _ h0))
  have h3 : s3.MemInv := by
    unfold s3
    split
    · exact State.accPoison_memInv _ _ _ _ _ _ h2
    · exact h2
  have h4 : s4.MemInv := MemInv.ite (fun _ => State.feedPoison_memInv _ _ _ h3) (fun _ => h3)
  have h5 : s5.MemInv := MemInv.ite (fun _ => State.blkRange_memInv _ _ h4) (fun _ => h4)
  have h6 : s6.MemInv := State.tarnReads_memInv _ _ _ (State.event_memInv _ _ _ _ (State.event_memInv _ _ _ _ h5))
  split
  · exact State.setRidge_memInv _ _ _ h6
  · exact h6

theorem State.endPasses_memInv (s : State) (n : Nat) (id : Nat) (h : s.MemInv) :
    (State.endPasses s n id).MemInv := by
  unfold State.endPasses
  try dsimp only
  repeat' first
    | with_reducible assumption | with_reducible refine MemInv.ite (fun _ => ?_) (fun _ => ?_)
    | with_reducible refine MemInv.mem ?_ | with_reducible apply State.tileDone_memInv
    | with_reducible apply State.setRidge_memInv | with_reducible apply State.finishTile_memInv | split

theorem State.blockTile_memInv (s : State) (n : Nat) (a : TileOp) (h : s.MemInv) :
    OptInv (State.blockTile s n a) := by
  unfold State.blockTile
  try dsimp only
  repeat' first
    | with_reducible assumption | with_reducible refine MemInv.ite (fun _ => ?_) (fun _ => ?_)
    | with_reducible refine MemInv.mem ?_ | with_reducible apply State.endTile_memInv
    | with_reducible apply State.chainFault_memInv | with_reducible apply State.putArrTile_memInv
    | with_reducible apply State.tarnReads_memInv | with_reducible apply State.event_memInv
    | with_reducible apply State.feedPoison_memInv | with_reducible refine OptInv.some ?_ | with_reducible exact OptInv.none
    | with_reducible refine MemInv.of_some (by assumption) ?_ | split

theorem State.singlePass_memInv (s : State) (n : Nat) (o : TileOp) (par : PassParity) (acc : AccErr) (h : s.MemInv) :
    OptInv (State.singlePass s n o par acc) := by
  unfold State.singlePass
  try dsimp only
  repeat' first
    | with_reducible assumption | with_reducible refine MemInv.mem ?_ | with_reducible apply State.endPasses_memInv
    | with_reducible apply State.loosen_memInv | with_reducible apply State.runPass_memInv
    | with_reducible refine OptInv.map ?_ (fun _ _ => ?_)

theorem State.pairBlock_memInv (s : State) (n : Nat) (arr : Nat) (a : Option TileOp) (b : Option TileOp) (par : PassParity) (acc : AccErr) (h : s.MemInv) :
    OptInv (State.pairBlock s n arr a b par acc) := by
  unfold State.pairBlock
  try dsimp only
  repeat' first
    | with_reducible assumption | with_reducible refine MemInv.ite (fun _ => ?_) (fun _ => ?_)
    | with_reducible refine MemInv.mem ?_ | with_reducible apply State.blockTile_memInv
    | with_reducible apply State.runPass_memInv | with_reducible apply State.endPasses_memInv
    | with_reducible apply State.loosen_memInv | with_reducible refine OptInv.getD ?_ ?_
    | with_reducible refine OptInv.bind ?_ (fun _ _ => ?_) | with_reducible refine OptInv.map ?_ (fun _ _ => ?_)
    | with_reducible refine OptInv.map_any (fun _ => ?_) | with_reducible intro _ | with_reducible refine OptInv.some ?_
    | with_reducible exact OptInv.none | with_reducible refine MemInv.of_some (by assumption) ?_ | split

theorem execArrayPass_memInv (ridge : Fin 64) (array : Fin 64) (parity : PassParity) (acc : AccErr) (tarn : TarnErr) (s : State) (h : s.MemInv) :
    OutInv (execArrayPass ridge array parity acc tarn s) := by
  unfold execArrayPass
  try dsimp only
  repeat' first
    | with_reducible assumption | with_reducible refine OutInv.next ?_
    | with_reducible refine MemInv.ite (fun _ => ?_) (fun _ => ?_) | with_reducible refine MemInv.mem ?_
    | with_reducible apply State.tarnErr_memInv | with_reducible apply State.singlePass_memInv
    | with_reducible apply State.pairBlock_memInv | with_reducible refine OptInv.getD ?_ ?_
    | with_reducible refine OptInv.bind ?_ (fun _ _ => ?_) | with_reducible intro _ | with_reducible refine OptInv.some ?_
    | with_reducible exact OptInv.none | with_reducible refine MemInv.of_some (by assumption) ?_ | split

theorem execArrayRampStep_memInv (ridge : Fin 64) (array : Fin 64) (s : State) (h : s.MemInv) :
    OutInv (execArrayRampStep ridge array s) := by
  unfold execArrayRampStep
  try dsimp only
  repeat' first
    | with_reducible assumption | with_reducible refine OutInv.next ?_
    | with_reducible refine MemInv.ite (fun _ => ?_) (fun _ => ?_) | with_reducible refine MemInv.mem ?_
    | with_reducible apply State.setRidge_memInv

theorem execArrayHoldExpire_memInv (ridge : Fin 64) (array : Fin 64) (s : State) (h : s.MemInv) :
    OutInv (execArrayHoldExpire ridge array s) := by
  unfold execArrayHoldExpire
  try dsimp only
  repeat' first
    | with_reducible assumption | with_reducible refine OutInv.next ?_
    | with_reducible refine MemInv.ite (fun _ => ?_) (fun _ => ?_) | with_reducible refine MemInv.mem ?_
    | with_reducible apply State.setRidge_memInv

theorem execTarnZeroingStart_memInv (ridge : Fin 64) (s : State) (h : s.MemInv) :
    OutInv (execTarnZeroingStart ridge s) := by
  unfold execTarnZeroingStart
  try dsimp only
  repeat' first
    | with_reducible assumption | with_reducible refine OutInv.next ?_
    | with_reducible refine MemInv.ite (fun _ => ?_) (fun _ => ?_) | with_reducible refine MemInv.mem ?_
    | with_reducible apply State.setRidge_memInv

theorem State.partDone_memInv (s : State) (h : s.MemInv) :
    (State.partDone s).MemInv := by
  unfold State.partDone
  try dsimp only
  repeat' first
    | with_reducible assumption | with_reducible refine MemInv.ite (fun _ => ?_) (fun _ => ?_)
    | with_reducible refine MemInv.mem ?_ | with_reducible apply State.setFlag_memInv

theorem State.ridgeScrubbed_memInv (s : State) (n : Nat) (h : s.MemInv) : (State.ridgeScrubbed s n).MemInv := by
  unfold State.ridgeScrubbed
  dsimp only
  split
  · exact h
  · refine State.partDone_memInv _ (State.setFlag_memInv _ _ _ _ _ (State.setCore_memInv _ _ _ ?_))
    exact Mem.Inv.congr h rfl

theorem execTarnZeroingDone_memInv (ridge : Fin 64) (s : State) (h : s.MemInv) :
    OutInv (execTarnZeroingDone ridge s) := by
  unfold execTarnZeroingDone
  try dsimp only
  repeat' first
    | with_reducible assumption | with_reducible refine OutInv.next ?_
    | with_reducible refine MemInv.ite (fun _ => ?_) (fun _ => ?_) | with_reducible refine MemInv.mem ?_
    | with_reducible apply State.ridgeScrubbed_memInv | with_reducible apply State.tarnWrites_memInv
    | with_reducible apply State.event_memInv | with_reducible apply State.setRidge_memInv

theorem execTarnScrubRead_memInv (ridge : Fin 64) (e : Ecc) (s : State) (h : s.MemInv) :
    OutInv (execTarnScrubRead ridge e s) := by
  unfold execTarnScrubRead
  try dsimp only
  repeat' first
    | with_reducible assumption | with_reducible refine OutInv.next ?_
    | with_reducible refine MemInv.ite (fun _ => ?_) (fun _ => ?_) | with_reducible refine MemInv.mem ?_
    | with_reducible apply State.tarnReads_memInv | with_reducible apply State.setRidge_memInv
    | with_reducible apply State.tarnCe_memInv | with_reducible apply State.tarnUe_memInv | split

end Sys2Proof.Machine
end

