-- ==== Sys2Proof/Laws/KeepBrook.lean ====
section
/-! SUPPORT. What the operations of Machine/Brook.lean do keeps the invariant of memory. -/
set_option linter.unusedSimpArgs false
namespace Sys2Proof.Machine

theorem State.brookRefuse_memInv (s : State) (n : Nat) (d : Desc) (reason : Nat) (fmt : Bool) (h : s.MemInv) :
    (State.brookRefuse s n d reason fmt).MemInv := by
  unfold State.brookRefuse
  try dsimp only
  repeat' first
    | with_reducible assumption | with_reducible refine MemInv.ite (fun _ => ?_) (fun _ => ?_)
    | with_reducible refine MemInv.mem ?_ | with_reducible apply State.setReg_memInv | with_reducible apply State.opFault_memInv
    | with_reducible apply State.setErr_memInv

theorem State.brookMeets_memInv (s : State) (n : Nat) (d : List W32) (e : Ecc) (h : s.MemInv) :
    (State.brookMeets s n d e).MemInv := by
  unfold State.brookMeets
  try dsimp only
  repeat' first
    | with_reducible assumption | with_reducible refine MemInv.ite (fun _ => ?_) (fun _ => ?_)
    | with_reducible refine MemInv.mem ?_ | with_reducible apply State.dmemMeets_memInv | split

theorem execBrookOpAccept_memInv (ridge : Fin 64) (e : Ecc) (s : State) (h : s.MemInv) :
    OutInv (execBrookOpAccept ridge e s) := by
  unfold execBrookOpAccept
  try dsimp only
  repeat' first
    | with_reducible assumption | with_reducible refine OutInv.next ?_
    | with_reducible refine MemInv.ite (fun _ => ?_) (fun _ => ?_) | with_reducible refine MemInv.mem ?_
    | with_reducible apply State.brookMeets_memInv | with_reducible apply State.setRidge_memInv
    | with_reducible apply State.brookRefuse_memInv | with_reducible apply State.opFault_memInv
    | with_reducible apply State.setErr_memInv | with_reducible apply State.fresh_memInv | split

theorem execBrookOpExecute_memInv (ridge : Fin 64) (tarn : TarnErr) (s : State) (h : s.MemInv) :
    OutInv (execBrookOpExecute ridge tarn s) := by
  unfold execBrookOpExecute
  try dsimp only
  repeat' first
    | with_reducible assumption | with_reducible refine OutInv.next ?_
    | with_reducible refine MemInv.ite (fun _ => ?_) (fun _ => ?_) | with_reducible refine MemInv.mem ?_
    | with_reducible apply State.tarnReads_memInv | with_reducible apply State.tarnErr_memInv
    | with_reducible apply State.brookRefuse_memInv | with_reducible apply State.setRidge_memInv
    | with_reducible apply State.tarnWrites_memInv | with_reducible apply State.event_memInv
    | with_reducible apply State.fresh_memInv | with_reducible apply State.setReg_memInv
    | with_reducible apply State.opFault_memInv | with_reducible apply State.setErr_memInv | split

theorem execBrookOpComplete_memInv (ridge : Fin 64) (s : State) (h : s.MemInv) :
    OutInv (execBrookOpComplete ridge s) := by
  unfold execBrookOpComplete
  try dsimp only
  repeat' first
    | with_reducible assumption | with_reducible refine OutInv.next ?_
    | with_reducible refine MemInv.ite (fun _ => ?_) (fun _ => ?_) | with_reducible refine MemInv.mem ?_
    | with_reducible apply State.setRidge_memInv | with_reducible apply State.foldAmax_memInv
    | with_reducible apply State.addSat_memInv | with_reducible apply State.setScaleBit_memInv
    | with_reducible apply State.event_memInv | with_reducible apply State.opTally_memInv
    | with_reducible refine MemInv.foldl (fun _ _ _ => ?_) _ ?_ | with_reducible refine MemInv.foldl_fst (fun _ _ _ => ?_) _ ?_
    | split

end Sys2Proof.Machine
end

