-- ==== Sys2Proof/Laws/KeepCairn.lean ====
section
/-! SUPPORT. What the operations of Machine/Cairn.lean do keeps the invariant of memory. -/
set_option linter.unusedSimpArgs false
namespace Sys2Proof.Machine

theorem State.unfence_memInv (s : State) (a : Nat) (h : s.MemInv) :
    (State.unfence s a).MemInv := by
  unfold State.unfence
  try dsimp only
  repeat' first
    | with_reducible assumption | with_reducible refine MemInv.ite (fun _ => ?_) (fun _ => ?_)
    | with_reducible refine MemInv.mem ?_ | with_reducible apply State.setFlag_memInv | with_reducible apply State.setReg_memInv
    | with_reducible refine MemInv.foldl (fun _ _ _ => ?_) _ ?_

theorem State.classify_memInv (s : State) (a : Nat) (h : s.MemInv) :
    (State.classify s a).MemInv := by
  unfold State.classify
  try dsimp only
  repeat' first
    | with_reducible assumption | with_reducible refine MemInv.ite (fun _ => ?_) (fun _ => ?_)
    | with_reducible refine MemInv.mem ?_ | with_reducible apply State.setFlag_memInv | with_reducible apply State.setReg_memInv
    | with_reducible apply State.unfence_memInv | with_reducible apply State.uhlWrite_memInv | split

theorem execUhlClear_memInv (value : W32) (s : State) (h : s.MemInv) :
    OutInv (execUhlClear value s) := by
  unfold execUhlClear
  try dsimp only
  repeat' first
    | with_reducible assumption | with_reducible refine OutInv.next ?_
    | with_reducible refine MemInv.ite (fun _ => ?_) (fun _ => ?_) | with_reducible refine MemInv.mem ?_
    | with_reducible apply State.setReg_memInv | with_reducible apply State.classify_memInv
    | with_reducible apply State.unfence_memInv | with_reducible apply State.uhlWrite_memInv

theorem State.uhlBootScan_memInv (s : State) (h : s.MemInv) :
    (State.uhlBootScan s).MemInv := by
  unfold State.uhlBootScan
  try dsimp only
  repeat' first
    | with_reducible assumption | with_reducible refine MemInv.ite (fun _ => ?_) (fun _ => ?_)
    | with_reducible refine MemInv.mem ?_ | simp only [MemInv.mk_iff] | with_reducible apply State.setErr_memInv
    | with_reducible apply State.setReg_memInv | with_reducible apply State.setFlag_memInv
    | with_reducible apply State.classify_memInv | with_reducible apply State.uhlWrite_memInv
    | with_reducible refine MemInv.foldl (fun _ _ _ => ?_) _ ?_

theorem State.putCheck_memInv (s : State) (i : Nat) (c : Check) (h : s.MemInv) :
    (State.putCheck s i c).MemInv := by
  unfold State.putCheck
  try dsimp only
  repeat' first
    | with_reducible assumption | with_reducible refine MemInv.mem ?_ | simp only [MemInv.mk_iff]

theorem execCairnPairBorrow_memInv (check : BitVec 8) (s : State) (h : s.MemInv) :
    OutInv (execCairnPairBorrow check s) := by
  unfold execCairnPairBorrow
  try dsimp only
  repeat' first
    | with_reducible assumption | with_reducible refine OutInv.next ?_
    | with_reducible refine MemInv.ite (fun _ => ?_) (fun _ => ?_) | with_reducible refine MemInv.mem ?_
    | with_reducible apply State.putCheck_memInv | split

theorem execCairnAcqTimeout_memInv (check : BitVec 8) (s : State) (h : s.MemInv) :
    OutInv (execCairnAcqTimeout check s) := by
  unfold execCairnAcqTimeout
  try dsimp only
  repeat' first
    | with_reducible assumption | with_reducible refine OutInv.next ?_
    | with_reducible refine MemInv.ite (fun _ => ?_) (fun _ => ?_) | with_reducible refine MemInv.mem ?_
    | with_reducible apply State.abandonSample_memInv | with_reducible apply State.advance_memInv | split

theorem State.endCheck_memInv (s : State) (c : Check) (h : s.MemInv) :
    (State.endCheck s c).MemInv := by
  unfold State.endCheck
  try dsimp only
  repeat' first
    | with_reducible assumption | with_reducible refine MemInv.mem ?_ | simp only [MemInv.mk_iff]
    | with_reducible apply State.checkRelease_memInv | with_reducible apply State.cairnPending_memInv

theorem State.logMismatch_memInv (s : State) (c : Check) (verdict : Nat) (arb : Bool) (h : s.MemInv) :
    (State.logMismatch s c verdict arb).MemInv := by
  unfold State.logMismatch
  try dsimp only
  repeat' first
    | with_reducible assumption | with_reducible refine MemInv.ite (fun _ => ?_) (fun _ => ?_)
    | with_reducible refine MemInv.mem ?_ | simp only [MemInv.mk_iff] | with_reducible apply State.uhlWrite_memInv
    | with_reducible apply State.setFlag_memInv | with_reducible apply State.classify_memInv

theorem State.cairnConfirm_memInv (s : State) (j : Option Nat) (h : s.MemInv) :
    (State.cairnConfirm s j).MemInv := by
  unfold State.cairnConfirm
  try dsimp only
  repeat' first
    | with_reducible assumption | with_reducible refine MemInv.mem ?_ | with_reducible apply State.setField_memInv | split

theorem State.cairnErrs_memInv (s : State) (src : Nat) (culprit : Nat) (confirmed : Bool) (unresolved : Bool) (h : s.MemInv) :
    (State.cairnErrs s src culprit confirmed unresolved).MemInv := by
  unfold State.cairnErrs
  try dsimp only
  repeat' first
    | with_reducible assumption | with_reducible refine MemInv.ite (fun _ => ?_) (fun _ => ?_)
    | with_reducible refine MemInv.mem ?_ | with_reducible apply State.detect_memInv | with_reducible apply State.setErr_memInv

theorem State.cairnVerdict_memInv (s : State) (c : Check) (verdict : Nat) (arb : Bool) (h : s.MemInv) :
    (State.cairnVerdict s c verdict arb).MemInv := by
  unfold State.cairnVerdict
  try dsimp only
  repeat' first
    | with_reducible assumption | with_reducible refine MemInv.ite (fun _ => ?_) (fun _ => ?_)
    | with_reducible refine MemInv.mem ?_ | with_reducible apply State.setReg_memInv | with_reducible apply State.addSat_memInv
    | with_reducible apply State.cairnErrs_memInv | with_reducible apply State.event_memInv
    | with_reducible apply State.cairnConfirm_memInv | with_reducible apply State.endCheck_memInv
    | with_reducible apply State.logMismatch_memInv

theorem execCairnRecomputeDone_memInv (check : BitVec 8) (r : Recompute) (s : State) (h : s.MemInv) :
    OutInv (execCairnRecomputeDone check r s) := by
  unfold execCairnRecomputeDone
  try dsimp only
  repeat' first
    | with_reducible assumption | with_reducible refine OutInv.next ?_
    | with_reducible refine MemInv.ite (fun _ => ?_) (fun _ => ?_) | with_reducible refine MemInv.mem ?_
    | with_reducible apply State.abandonSample_memInv | with_reducible apply State.endCheck_memInv
    | with_reducible apply State.event_memInv | with_reducible apply State.putCheck_memInv
    | with_reducible apply State.cairnVerdict_memInv | split

theorem execCairnArbiterDone_memInv (check : BitVec 8) (r : Arbitration) (s : State) (h : s.MemInv) :
    OutInv (execCairnArbiterDone check r s) := by
  unfold execCairnArbiterDone
  try dsimp only
  repeat' first
    | with_reducible assumption | with_reducible refine OutInv.next ?_
    | with_reducible refine MemInv.ite (fun _ => ?_) (fun _ => ?_) | with_reducible refine MemInv.mem ?_
    | with_reducible apply State.abandonSample_memInv | with_reducible apply State.cairnVerdict_memInv | split

theorem execChkSeedWrite_memInv (value : W32) (s : State) (h : s.MemInv) :
    OutInv (execChkSeedWrite value s) := by
  unfold execChkSeedWrite
  try dsimp only
  repeat' first
    | with_reducible assumption | with_reducible refine OutInv.next ?_
    | with_reducible refine MemInv.ite (fun _ => ?_) (fun _ => ?_) | with_reducible refine MemInv.mem ?_
    | with_reducible apply State.setReg_memInv | with_reducible refine MemInv.foldl (fun _ _ _ => ?_) _ ?_

end Sys2Proof.Machine
end

