-- ==== Sys2Proof/Laws/KeepDie.lean ====
section
/-! SUPPORT. What the operations of Machine/Die.lean do keeps the invariant of memory. -/
set_option linter.unusedSimpArgs false
namespace Sys2Proof.Machine

theorem execOperationAccept_memInv (die : Fin 4) (s : State) (h : s.MemInv) :
    OutInv (execOperationAccept die s) := by
  unfold execOperationAccept
  try dsimp only
  repeat' first
    | with_reducible assumption | with_reducible refine OutInv.next ?_
    | with_reducible refine MemInv.ite (fun _ => ?_) (fun _ => ?_) | with_reducible refine MemInv.mem ?_
    | with_reducible apply State.setDie_memInv | with_reducible apply State.setCore_memInv
    | with_reducible apply State.refuseDesc_memInv | with_reducible apply State.setErr_memInv | split

theorem State.settleOps_memInv (s : State) (k : Nat) (h : s.MemInv) :
    (State.settleOps s k).MemInv := by
  unfold State.settleOps
  try dsimp only
  repeat' first
    | with_reducible assumption | with_reducible refine MemInv.mem ?_ | with_reducible apply State.setDie_memInv

theorem State.deliver_memInv (s : State) (c : Nat) (d : Desc) (h : s.MemInv) :
    (State.deliver s c d).MemInv := by
  unfold State.deliver
  try dsimp only
  repeat' first
    | with_reducible assumption | with_reducible refine MemInv.mem ?_ | with_reducible apply State.setCore_memInv

theorem State.recordDeal_memInv (s : State) (k : Nat) (first : List (Nat × Nat)) (fin : List (Nat × Nat)) (t : Nat) (h : s.MemInv) :
    (State.recordDeal s k first fin t).MemInv := by
  unfold State.recordDeal
  try dsimp only
  repeat' first
    | with_reducible assumption | with_reducible refine MemInv.mem ?_ | with_reducible apply State.setReg_memInv
    | with_reducible apply State.setRidge_memInv | with_reducible refine MemInv.foldl (fun _ _ _ => ?_) _ ?_

theorem State.closeOp_memInv (s : State) (k : Nat) (r : OpRec) (h : s.MemInv) :
    (State.closeOp s k r).MemInv := by
  unfold State.closeOp
  try dsimp only
  repeat' first
    | with_reducible assumption | with_reducible refine MemInv.mem ?_ | with_reducible apply State.setCore_memInv
    | with_reducible apply State.setDie_memInv

theorem State.completeOp_memInv (s : State) (k : Nat) (r : OpRec) (h : s.MemInv) :
    (State.completeOp s k r).MemInv := by
  unfold State.completeOp
  try dsimp only
  repeat' first
    | with_reducible assumption | with_reducible refine MemInv.ite (fun _ => ?_) (fun _ => ?_)
    | with_reducible refine MemInv.mem ?_ | with_reducible apply State.closeOp_memInv
    | with_reducible apply State.opTally_memInv | with_reducible apply State.addSat_memInv

theorem execOperationBegin_memInv (die : Fin 4) (shareTally : Fin 4096) (s : State) (h : s.MemInv) :
    OutInv (execOperationBegin die shareTally s) := by
  unfold execOperationBegin
  try dsimp only
  repeat' first
    | with_reducible assumption | with_reducible refine OutInv.next ?_
    | with_reducible refine MemInv.ite (fun _ => ?_) (fun _ => ?_) | with_reducible refine MemInv.mem ?_
    | with_reducible apply State.settleOps_memInv | with_reducible apply State.setReg_memInv
    | with_reducible apply State.recordDeal_memInv | with_reducible apply State.event_memInv
    | with_reducible apply State.setDie_memInv | with_reducible apply State.completeOp_memInv
    | with_reducible apply State.setErr_memInv | with_reducible apply State.deliver_memInv
    | with_reducible refine MemInv.foldl (fun _ _ _ => ?_) _ ?_ | with_reducible refine MemInv.foldl_fst (fun _ _ _ => ?_) _ ?_
    | split

theorem execShareComplete_memInv (ridge : Fin 64) (s : State) (h : s.MemInv) :
    OutInv (execShareComplete ridge s) := by
  unfold execShareComplete
  try dsimp only
  repeat' first
    | with_reducible assumption | with_reducible refine OutInv.next ?_
    | with_reducible refine MemInv.ite (fun _ => ?_) (fun _ => ?_) | with_reducible refine MemInv.mem ?_
    | with_reducible apply State.setDie_memInv | with_reducible apply State.opTally_memInv
    | with_reducible apply State.completeOp_memInv | split

end Sys2Proof.Machine
end

