-- ==== Sys2Proof/Laws/KeepDrain.lean ====
section
/-! SUPPORT. What the operations of Machine/Drain.lean do keeps the invariant of memory. -/
set_option linter.unusedSimpArgs false
namespace Sys2Proof.Machine

theorem State.writeOut_memInv (s : State) (n : Nat) (id : Nat) (a : Nat) (bs : List OutByte) (m : MemUse) (h : s.MemInv) :
    (State.writeOut s n id a bs m).1.MemInv := by
  unfold State.writeOut
  try dsimp only
  repeat' first
    | with_reducible assumption | with_reducible refine MemInv.ite (fun _ => ?_) (fun _ => ?_)
    | with_reducible refine MemInv.mem ?_ | with_reducible apply State.tarnWrites_memInv
    | with_reducible apply State.setRidge_memInv | with_reducible apply State.writeBoard_memInv
    | with_reducible apply Wrote.s_memInv | with_reducible apply State.recordXlate_memInv
    | with_reducible apply State.opFault_memInv | with_reducible refine MemInv.foldl (fun _ _ _ => ?_) _ ?_
    | with_reducible refine MemInv.foldl_fst (fun _ _ _ => ?_) _ ?_ | split

theorem State.writeRuns_memInv (s : State) (n : Nat) (id : Nat) (runs : List (Nat × List OutByte)) (m : MemUse) (h : s.MemInv) :
    (State.writeRuns s n id runs m).1.MemInv := by
  unfold State.writeRuns
  try dsimp only
  repeat' first
    | with_reducible assumption | with_reducible refine MemInv.mem ?_ | with_reducible apply State.writeOut_memInv
    | with_reducible refine MemInv.foldl (fun _ _ _ => ?_) _ ?_ | with_reducible refine MemInv.foldl_fst (fun _ _ _ => ?_) _ ?_

theorem State.bookFlags_memInv (s : State) (n : Nat) (j : Option Nat) (f : TFlags) (sat : Nat) (nonfin : Nat) (h : s.MemInv) :
    (State.bookFlags s n j f sat nonfin).MemInv := by
  unfold State.bookFlags
  try dsimp only
  repeat' first
    | with_reducible assumption | with_reducible refine MemInv.ite (fun _ => ?_) (fun _ => ?_)
    | with_reducible refine MemInv.mem ?_ | with_reducible apply State.setReg_memInv | with_reducible apply State.event_memInv
    | with_reducible apply State.addSat_memInv | with_reducible apply State.setErr_memInv

theorem State.drainNoise_memInv (s : State) (o : TileOp) (own : List Closed) (els : List (Nat × Nat)) (h : s.MemInv) :
    (State.drainNoise s o own els).MemInv := by
  unfold State.drainNoise
  try dsimp only
  repeat' first
    | with_reducible assumption | with_reducible refine MemInv.ite (fun _ => ?_) (fun _ => ?_)
    | with_reducible refine MemInv.mem ?_ | with_reducible apply State.foldNoise_memInv

theorem State.drainAmax_memInv (s : State) (o : TileOp) (t : Tallied) (h : s.MemInv) :
    (State.drainAmax s o t).MemInv := by
  unfold State.drainAmax
  try dsimp only
  repeat' first
    | with_reducible assumption | with_reducible refine MemInv.ite (fun _ => ?_) (fun _ => ?_)
    | with_reducible refine MemInv.mem ?_ | with_reducible apply State.setScaleBit_memInv
    | with_reducible apply State.foldAmax_memInv | split

theorem State.drainConv_memInv (s : State) (n : Nat) (id : Nat) (o : TileOp) (cs : List Closed) (own : List Closed) (base : Nat) (rows : Nat) (m : MemUse) (h : s.MemInv) :
    (State.drainConv s n id o cs own base rows m).1.MemInv := by
  unfold State.drainConv
  try dsimp only
  repeat' first
    | with_reducible assumption | with_reducible refine MemInv.ite (fun _ => ?_) (fun _ => ?_)
    | with_reducible refine MemInv.mem ?_ | with_reducible apply State.bookFlags_memInv
    | with_reducible apply State.tilePoisonFault_memInv | with_reducible apply State.drainAmax_memInv
    | with_reducible apply State.foldNorm_memInv | with_reducible apply State.event_memInv
    | with_reducible apply State.drainNoise_memInv | with_reducible apply State.tarnReads_memInv
    | with_reducible apply State.writeRuns_memInv

theorem State.drainRaw_memInv (s : State) (n : Nat) (id : Nat) (o : TileOp) (cs : List Closed) (own : List Closed) (a : Nat) (rows : Nat) (m : MemUse) (h : s.MemInv) :
    (State.drainRaw s n id o cs own a rows m).1.MemInv := by
  unfold State.drainRaw
  try dsimp only
  repeat' first
    | with_reducible assumption | with_reducible refine MemInv.ite (fun _ => ?_) (fun _ => ?_)
    | with_reducible refine MemInv.mem ?_ | simp only [MemInv.mk_iff] | with_reducible apply State.event_memInv
    | with_reducible apply State.drainNoise_memInv | with_reducible apply State.bookFlags_memInv
    | with_reducible apply State.writeRuns_memInv

theorem State.freeTiles_memInv (s : State) (n : Nat) (arr : Nat) (ts : List Nat) (h : s.MemInv) :
    (State.freeTiles s n arr ts).MemInv := by
  unfold State.freeTiles
  try dsimp only
  repeat' first
    | with_reducible assumption | with_reducible refine MemInv.mem ?_ | with_reducible apply State.putArrTile_memInv
    | with_reducible refine MemInv.foldl (fun _ _ _ => ?_) _ ?_

theorem State.drainGroup_memInv (s : State) (n : Nat) (o : TileOp) (g : Group) (m : MemUse) (h : s.MemInv) :
    (State.drainGroup s n o g m).1.MemInv := by
  unfold State.drainGroup
  try dsimp only
  repeat' first
    | with_reducible assumption | with_reducible refine MemInv.ite (fun _ => ?_) (fun _ => ?_)
    | with_reducible refine MemInv.mem ?_ | with_reducible apply State.tarnReads_memInv
    | with_reducible apply State.event_memInv | with_reducible apply State.feedPoison_memInv
    | with_reducible apply State.drainRaw_memInv | with_reducible apply State.drainConv_memInv
    | with_reducible refine MemInv.of_fst (by assumption) ?_ | split

theorem State.drainErr_memInv (s : State) (n : Nat) (id : Nat) (arr : Nat) (t : Nat) (acc : AccErr) (h : s.MemInv) :
    (State.drainErr s n id arr t acc).MemInv := by
  unfold State.drainErr
  try dsimp only
  repeat' first
    | with_reducible assumption | with_reducible refine MemInv.mem ?_ | with_reducible apply State.slotErr_memInv
    | with_reducible apply State.accPoison_memInv | split

theorem State.slotReads_memInv (s : State) (n : Nat) (arr : Nat) (t : Nat) (h : s.MemInv) :
    (State.slotReads s n arr t).MemInv := by
  unfold State.slotReads
  try dsimp only
  repeat' first
    | with_reducible assumption | with_reducible refine MemInv.ite (fun _ => ?_) (fun _ => ?_)
    | with_reducible refine MemInv.mem ?_ | with_reducible apply State.tarnReads_memInv | split

theorem execTileDrain_memInv (ridge : Fin 64) (array : Fin 64) (acc : AccErr) (tarn : TarnErr) (m : MemUse) (s : State) (h : s.MemInv) :
    OutInv (execTileDrain ridge array acc tarn m s) := by
  unfold execTileDrain
  try dsimp only
  repeat' first
    | with_reducible assumption | with_reducible refine OutInv.next ?_
    | with_reducible refine MemInv.ite (fun _ => ?_) (fun _ => ?_) | with_reducible refine MemInv.mem ?_
    | with_reducible apply State.tarnErr_memInv | with_reducible apply State.drainErr_memInv
    | with_reducible apply State.slotReads_memInv | with_reducible apply State.loosen_memInv
    | with_reducible apply State.freeTiles_memInv | with_reducible apply State.fresh_memInv
    | with_reducible apply State.endTile_memInv | with_reducible apply State.chainFault_memInv
    | with_reducible apply State.drainGroup_memInv | with_reducible apply State.addSat_memInv
    | with_reducible apply State.setRidge_memInv | with_reducible apply State.finishTile_memInv
    | with_reducible refine MemInv.foldl (fun _ _ _ => ?_) _ ?_ | with_reducible refine MemInv.foldl_fst (fun _ _ _ => ?_) _ ?_
    | with_reducible refine MemInv.of_fst (by assumption) ?_ | split

end Sys2Proof.Machine
end

