-- ==== Sys2Proof/Laws/KeepIssue.lean ====
section
/-! SUPPORT. What the operations of Machine/Issue.lean do keeps the invariant of memory. -/
set_option linter.unusedSimpArgs false
namespace Sys2Proof.Machine

theorem State.placeCore_memInv (s : State) (c : Nat) (d : Desc) (h : s.MemInv) :
    OptInv (State.placeCore s c d) := by
  unfold State.placeCore
  try dsimp only
  repeat' first
    | with_reducible assumption | with_reducible refine MemInv.ite (fun _ => ?_) (fun _ => ?_)
    | with_reducible refine MemInv.mem ?_ | with_reducible apply State.deliver_memInv | with_reducible refine OptInv.some ?_
    | with_reducible exact OptInv.none | with_reducible refine MemInv.of_some (by assumption) ?_ | split

theorem State.placeDies_memInv (s : State) (d : Desc) (h : s.MemInv) :
    OptInv (State.placeDies s d) := by
  unfold State.placeDies
  try dsimp only
  repeat' first
    | with_reducible assumption | with_reducible refine MemInv.ite (fun _ => ?_) (fun _ => ?_)
    | with_reducible refine MemInv.mem ?_ | simp only [MemInv.mk_iff] | with_reducible apply State.deliver_memInv
    | with_reducible refine MemInv.foldl (fun _ _ _ => ?_) _ ?_ | with_reducible refine MemInv.foldl_fst (fun _ _ _ => ?_) _ ?_
    | with_reducible refine MemInv.foldl_opt (fun _ _ _ => ?_) _ ?_ | with_reducible refine OptInv.some ?_
    | with_reducible exact OptInv.none | with_reducible refine MemInv.of_some (by assumption) ?_
    | with_reducible refine Mem.Inv.setMarking ?_ _ | split

theorem State.placeDma_memInv (s : State) (d : Desc) (h : s.MemInv) :
    OptInv (State.placeDma s d) := by
  unfold State.placeDma
  try dsimp only
  repeat' first
    | with_reducible assumption | with_reducible refine MemInv.ite (fun _ => ?_) (fun _ => ?_)
    | with_reducible refine MemInv.mem ?_ | with_reducible apply State.setDma_memInv | with_reducible refine OptInv.some ?_
    | with_reducible exact OptInv.none | with_reducible refine MemInv.of_some (by assumption) ?_ | split

theorem State.placeStep_memInv (s : State) (d : Desc) (h : s.MemInv) :
    OptInv (State.placeStep s d) := by
  unfold State.placeStep
  try dsimp only
  repeat' first
    | with_reducible assumption | with_reducible refine MemInv.ite (fun _ => ?_) (fun _ => ?_)
    | with_reducible refine MemInv.mem ?_ | simp only [MemInv.mk_iff] | with_reducible refine OptInv.some ?_
    | with_reducible exact OptInv.none | with_reducible refine MemInv.of_some (by assumption) ?_
    | with_reducible refine Mem.Inv.setMarking ?_ _ | split

theorem State.placeShare_memInv (s : State) (k : Nat) (d : Desc) (h : s.MemInv) :
    OptInv (State.placeShare s k d) := by
  unfold State.placeShare
  try dsimp only
  repeat' first
    | with_reducible assumption | with_reducible refine MemInv.ite (fun _ => ?_) (fun _ => ?_)
    | with_reducible refine MemInv.mem ?_ | with_reducible apply State.placeCore_memInv | with_reducible refine OptInv.some ?_
    | with_reducible exact OptInv.none | with_reducible refine MemInv.of_some (by assumption) ?_ | split

theorem State.placeRidge_memInv (s : State) (n : Nat) (d : Desc) (h : s.MemInv) :
    OptInv (State.placeRidge s n d) := by
  unfold State.placeRidge
  try dsimp only
  repeat' first
    | with_reducible assumption | with_reducible refine MemInv.ite (fun _ => ?_) (fun _ => ?_)
    | with_reducible refine MemInv.mem ?_ | with_reducible apply State.setRidge_memInv | with_reducible refine OptInv.some ?_
    | with_reducible exact OptInv.none | with_reducible refine MemInv.of_some (by assumption) ?_ | split

theorem State.placeXfer_memInv (s : State) (e : Nat) (d : Desc) (h : s.MemInv) :
    OptInv (State.placeXfer s e d) := by
  unfold State.placeXfer
  try dsimp only
  repeat' first
    | with_reducible assumption | with_reducible refine MemInv.ite (fun _ => ?_) (fun _ => ?_)
    | with_reducible refine MemInv.mem ?_ | with_reducible apply State.setCfl_memInv | with_reducible refine OptInv.some ?_
    | with_reducible exact OptInv.none | with_reducible refine MemInv.of_some (by assumption) ?_ | split

theorem State.placeWork_memInv (s : State) (d : Desc) (h : s.MemInv) :
    OptInv (State.placeWork s d) := by
  unfold State.placeWork
  try dsimp only
  repeat' first
    | with_reducible assumption | with_reducible refine MemInv.mem ?_ | with_reducible apply State.placeDies_memInv
    | with_reducible apply State.placeCore_memInv | with_reducible apply State.placeDma_memInv
    | with_reducible apply State.placeStep_memInv | with_reducible refine OptInv.some ?_ | with_reducible exact OptInv.none
    | with_reducible refine MemInv.of_some (by assumption) ?_ | split

theorem State.place_memInv (s : State) (c : Nat) (d : Desc) (h : s.MemInv) :
    OptInv (State.place s c d) := by
  unfold State.place
  try dsimp only
  repeat' first
    | with_reducible assumption | with_reducible refine MemInv.mem ?_ | with_reducible apply State.placeWork_memInv
    | with_reducible apply State.placeShare_memInv | with_reducible apply State.placeRidge_memInv
    | with_reducible apply State.placeXfer_memInv | with_reducible refine OptInv.some ?_ | with_reducible exact OptInv.none
    | with_reducible refine MemInv.of_some (by assumption) ?_ | split

end Sys2Proof.Machine
end

