-- ==== Sys2Proof/Laws/KeepColl.lean ====
section
/-! SUPPORT. What the operations of Machine/Coll.lean do keeps the invariant of memory. -/
set_option linter.unusedSimpArgs false
namespace Sys2Proof.Machine

theorem State.tableGot_memInv (s : State) (q : Nat) (id : Nat) (off : Nat) (bs : Option (List OutByte)) (h : s.MemInv) :
    (State.tableGot s q id off bs).MemInv := by
  unfold State.tableGot
  try dsimp only
  repeat' first
    | with_reducible assumption | with_reducible refine MemInv.ite (fun _ => ?_) (fun _ => ?_)
    | with_reducible refine MemInv.mem ?_ | with_reducible apply State.setTread_memInv
    | with_reducible refine OptInv.map ?_ (fun _ _ => ?_) | with_reducible refine OptInv.map_any (fun _ => ?_)
    | with_reducible intro _ | with_reducible refine OptInv.some ?_ | with_reducible exact OptInv.none
    | with_reducible refine MemInv.of_some (by assumption) ?_ | split

theorem State.tablePiece_memInv (s : State) (q : Nat) (r : TableRead) (p : Nat × Nat × Nat) (h : s.MemInv) :
    (State.tablePiece s q r p).MemInv := by
  unfold State.tablePiece
  try dsimp only
  repeat' first
    | with_reducible assumption | with_reducible refine MemInv.mem ?_ | with_reducible apply State.lookup_memInv
    | with_reducible apply State.tableGot_memInv | with_reducible apply State.recordXlate_memInv
    | with_reducible apply State.readRange_memInv | with_reducible apply State.submit_memInv | split

theorem State.tableAsk_memInv (s : State) (q : Nat) (e : Nat) (use : TableUse) (c : Coll) (h : s.MemInv) :
    (State.tableAsk s q e use c).MemInv := by
  unfold State.tableAsk
  try dsimp only
  repeat' first
    | with_reducible assumption | with_reducible refine MemInv.mem ?_ | with_reducible apply State.tablePiece_memInv
    | with_reducible apply State.setTread_memInv | with_reducible apply State.setCfl_memInv
    | with_reducible refine MemInv.foldl (fun _ _ _ => ?_) _ ?_

theorem State.collShow_memInv (s : State) (e : Nat) (c : Coll) (h : s.MemInv) :
    (State.collShow s e c).MemInv := by
  unfold State.collShow
  try dsimp only
  repeat' first
    | with_reducible assumption | with_reducible refine MemInv.mem ?_ | with_reducible apply State.setReg_memInv

theorem State.cflInfo_memInv (s : State) (e : Nat) (id : Nat) (reason : Nat) (h : s.MemInv) :
    (State.cflInfo s e id reason).MemInv := by
  unfold State.cflInfo
  try dsimp only
  repeat' first
    | with_reducible assumption | with_reducible refine MemInv.ite (fun _ => ?_) (fun _ => ?_)
    | with_reducible refine MemInv.mem ?_ | with_reducible apply State.setReg_memInv

theorem State.roundOver_memInv (s : State) (j : Nat) (ok : Bool) (lack : List Nat) (h : s.MemInv) :
    (State.roundOver s j ok lack).MemInv := by
  unfold State.roundOver
  try dsimp only
  repeat' first
    | with_reducible assumption | with_reducible refine MemInv.mem ?_ | with_reducible apply State.setSlot_memInv

theorem State.wsStart_memInv (s : State) (e : Nat) (h : s.MemInv) :
    (State.wsStart s e).MemInv := by
  unfold State.wsStart
  try dsimp only
  repeat' first
    | with_reducible assumption | with_reducible refine MemInv.mem ?_ | with_reducible apply State.collShow_memInv
    | with_reducible apply State.setCfl_memInv | split

theorem State.tableDrop_memInv (s : State) (e : Nat) (gone : Nat → Bool) (h : s.MemInv) :
    (State.tableDrop s e gone).MemInv := by
  unfold State.tableDrop
  try dsimp only
  repeat' first
    | with_reducible assumption | with_reducible refine MemInv.ite (fun _ => ?_) (fun _ => ?_)
    | with_reducible refine MemInv.mem ?_ | with_reducible apply State.wsStart_memInv
    | with_reducible apply State.setTread_memInv | split

theorem State.collDrop_memInv (s : State) (e : Nat) (h : s.MemInv) :
    (State.collDrop s e).MemInv := by
  unfold State.collDrop
  try dsimp only
  repeat' first
    | with_reducible assumption | with_reducible refine MemInv.mem ?_ | with_reducible apply State.wsStart_memInv
    | with_reducible apply State.setCfl_memInv | split

theorem State.collFail_memInv (s : State) (e : Nat) (reason : Nat) (bit : Nat) (fault : Nat) (h : s.MemInv) :
    (State.collFail s e reason bit fault).MemInv := by
  unfold State.collFail
  try dsimp only
  repeat' first
    | with_reducible assumption | with_reducible refine MemInv.mem ?_ | with_reducible apply State.setErr_memInv
    | with_reducible apply State.cflInfo_memInv | with_reducible apply State.collDrop_memInv
    | with_reducible apply State.roundOver_memInv | with_reducible apply State.opFault_memInv
    | with_reducible apply State.stepAbort_memInv | split

theorem State.collRefuse_memInv (s : State) (e : Nat) (d : Desc) (reason : Nat) (h : s.MemInv) :
    (State.collRefuse s e d reason).MemInv := by
  unfold State.collRefuse
  try dsimp only
  repeat' first
    | with_reducible assumption | with_reducible refine MemInv.mem ?_ | with_reducible apply State.opFault_memInv
    | with_reducible apply State.setErr_memInv | with_reducible apply State.cflInfo_memInv

theorem State.collBegin_memInv (s : State) (e : Nat) (c : Coll) (old : List W32) (new : List W32) (h : s.MemInv) :
    (State.collBegin s e c old new).MemInv := by
  unfold State.collBegin
  try dsimp only
  repeat' first
    | with_reducible assumption | with_reducible refine MemInv.mem ?_ | with_reducible apply State.collShow_memInv
    | with_reducible apply State.setCfl_memInv | with_reducible apply State.setReg_memInv

theorem State.collGo_memInv (s : State) (e : Nat) (c : Coll) (ws : List W32) (h : s.MemInv) :
    (State.collGo s e c ws).MemInv := by
  unfold State.collGo
  try dsimp only
  repeat' first
    | with_reducible assumption | with_reducible refine MemInv.ite (fun _ => ?_) (fun _ => ?_)
    | with_reducible refine MemInv.mem ?_ | with_reducible apply State.collRefuse_memInv
    | with_reducible apply State.collBegin_memInv

theorem State.tableEnd_memInv (s : State) (e : Nat) (h : s.MemInv) :
    (State.tableEnd s e).MemInv := by
  unfold State.tableEnd
  try dsimp only
  repeat' first
    | with_reducible assumption | with_reducible refine MemInv.ite (fun _ => ?_) (fun _ => ?_)
    | with_reducible refine MemInv.mem ?_ | with_reducible apply State.setTread_memInv
    | with_reducible apply State.wsStart_memInv | with_reducible apply State.collRefuse_memInv
    | with_reducible apply State.collGo_memInv | with_reducible apply State.collShow_memInv
    | with_reducible apply State.setCfl_memInv | split

theorem State.tableAnswer_memInv (s : State) (q : Nat) (id : Nat) (off : Nat) (reason : Nat) (a : Nat) (bs : List OutByte) (h : s.MemInv) :
    (State.tableAnswer s q id off reason a bs).MemInv := by
  unfold State.tableAnswer
  try dsimp only
  repeat' first
    | with_reducible assumption | with_reducible refine MemInv.ite (fun _ => ?_) (fun _ => ?_)
    | with_reducible refine MemInv.mem ?_ | with_reducible apply State.recordXlate_memInv
    | with_reducible apply State.tableEnd_memInv | with_reducible apply State.tableGot_memInv | split

theorem State.collAccept_memInv (s : State) (e : Nat) (kind : Nat) (h : s.MemInv) :
    (State.collAccept s e kind).MemInv := by
  unfold State.collAccept
  try dsimp only
  repeat' first
    | with_reducible assumption | with_reducible refine MemInv.ite (fun _ => ?_) (fun _ => ?_)
    | with_reducible refine MemInv.mem ?_ | with_reducible apply State.setCore_memInv
    | with_reducible apply State.dmemMeets_memInv | with_reducible apply State.collRefuse_memInv
    | with_reducible apply State.setErr_memInv | with_reducible apply State.opFault_memInv
    | with_reducible apply State.tableEnd_memInv | with_reducible apply State.tableAsk_memInv | split

theorem State.collTaken_memInv (s : State) (e : Nat) (d : Desc) (h : s.MemInv) :
    (State.collTaken s e d).MemInv := by
  unfold State.collTaken
  try dsimp only
  repeat' first
    | with_reducible assumption | with_reducible refine MemInv.ite (fun _ => ?_) (fun _ => ?_)
    | with_reducible refine MemInv.mem ?_ | with_reducible apply State.tableEnd_memInv
    | with_reducible apply State.tableAsk_memInv

theorem execAllreduce_memInv (e : Fin 8) (s : State) (h : s.MemInv) :
    OutInv (execAllreduce e s) := by
  unfold execAllreduce
  try dsimp only
  repeat' first
    | with_reducible assumption | with_reducible refine OutInv.next ?_ | with_reducible refine MemInv.mem ?_
    | with_reducible apply State.collAccept_memInv

theorem execReduceScatter_memInv (e : Fin 8) (s : State) (h : s.MemInv) :
    OutInv (execReduceScatter e s) := by
  unfold execReduceScatter
  try dsimp only
  repeat' first
    | with_reducible assumption | with_reducible refine OutInv.next ?_ | with_reducible refine MemInv.mem ?_
    | with_reducible apply State.collAccept_memInv

theorem execAllgather_memInv (e : Fin 8) (s : State) (h : s.MemInv) :
    OutInv (execAllgather e s) := by
  unfold execAllgather
  try dsimp only
  repeat' first
    | with_reducible assumption | with_reducible refine OutInv.next ?_ | with_reducible refine MemInv.mem ?_
    | with_reducible apply State.collAccept_memInv

theorem execBroadcast_memInv (e : Fin 8) (s : State) (h : s.MemInv) :
    OutInv (execBroadcast e s) := by
  unfold execBroadcast
  try dsimp only
  repeat' first
    | with_reducible assumption | with_reducible refine OutInv.next ?_ | with_reducible refine MemInv.mem ?_
    | with_reducible apply State.collAccept_memInv

theorem execAlltoall_memInv (e : Fin 8) (s : State) (h : s.MemInv) :
    OutInv (execAlltoall e s) := by
  unfold execAlltoall
  try dsimp only
  repeat' first
    | with_reducible assumption | with_reducible refine OutInv.next ?_ | with_reducible refine MemInv.mem ?_
    | with_reducible apply State.collAccept_memInv

theorem execPermute_memInv (e : Fin 8) (s : State) (h : s.MemInv) :
    OutInv (execPermute e s) := by
  unfold execPermute
  try dsimp only
  repeat' first
    | with_reducible assumption | with_reducible refine OutInv.next ?_ | with_reducible refine MemInv.mem ?_
    | with_reducible apply State.collAccept_memInv

theorem execRing_memInv (e : Fin 8) (s : State) (h : s.MemInv) :
    OutInv (execRing e s) := by
  unfold execRing
  try dsimp only
  repeat' first
    | with_reducible assumption | with_reducible refine OutInv.next ?_ | with_reducible refine MemInv.mem ?_
    | with_reducible apply State.collAccept_memInv

theorem execSend_memInv (e : Fin 8) (s : State) (h : s.MemInv) :
    OutInv (execSend e s) := by
  unfold execSend
  try dsimp only
  repeat' first
    | with_reducible assumption | with_reducible refine OutInv.next ?_ | with_reducible refine MemInv.mem ?_
    | with_reducible apply State.collAccept_memInv

theorem execRecv_memInv (e : Fin 8) (s : State) (h : s.MemInv) :
    OutInv (execRecv e s) := by
  unfold execRecv
  try dsimp only
  repeat' first
    | with_reducible assumption | with_reducible refine OutInv.next ?_ | with_reducible refine MemInv.mem ?_
    | with_reducible apply State.collAccept_memInv

theorem execReduce_memInv (e : Fin 8) (s : State) (h : s.MemInv) :
    OutInv (execReduce e s) := by
  unfold execReduce
  try dsimp only
  repeat' first
    | with_reducible assumption | with_reducible refine OutInv.next ?_ | with_reducible refine MemInv.mem ?_
    | with_reducible apply State.collAccept_memInv

theorem execBarrier_memInv (e : Fin 8) (s : State) (h : s.MemInv) :
    OutInv (execBarrier e s) := by
  unfold execBarrier
  try dsimp only
  repeat' first
    | with_reducible assumption | with_reducible refine OutInv.next ?_ | with_reducible refine MemInv.mem ?_
    | with_reducible apply State.collAccept_memInv

end Sys2Proof.Machine
end

