-- ==== Sys2Proof/Laws/KeepFetch.lean ====
section
/-! SUPPORT. What the operations of Machine/Fetch.lean do keeps the invariant of memory. -/
set_option linter.unusedSimpArgs false
namespace Sys2Proof.Machine

theorem State.combine_memInv (s : State) (rop : Nat) (n : Nat) (key : Nat) (x : List OutByte) (h : s.MemInv) :
    (State.combine s rop n key x).s.MemInv := by
  unfold State.combine
  try dsimp only
  repeat' first
    | with_reducible assumption | with_reducible refine MemInv.ite (fun _ => ?_) (fun _ => ?_)
    | with_reducible refine MemInv.mem ?_ | with_reducible apply State.event_memInv | with_reducible apply State.hbmWrite_memInv
    | split

theorem State.combineAll_memInv (s : State) (rop : Nat) (n : Nat) (key : Nat) (data : List OutByte) (h : s.MemInv) :
    (State.combineAll s rop n key data).s.MemInv := by
  unfold State.combineAll
  try dsimp only
  repeat' first
    | with_reducible assumption | with_reducible refine MemInv.mem ?_ | with_reducible apply State.combine_memInv
    | with_reducible apply Combined.s_memInv | with_reducible refine MemInv.foldl (fun _ _ _ => ?_) _ ?_
    | with_reducible refine MemInv.foldl_fst (fun _ _ _ => ?_) _ ?_
    | with_reducible refine MemInv.foldl_combined (fun _ _ _ => ?_) _ ?_

theorem State.bsnInfo_memInv (s : State) (b : Nat) (reason : Nat) (n : Nat) (h : s.MemInv) :
    (State.bsnInfo s b reason n).MemInv := by
  unfold State.bsnInfo
  try dsimp only
  repeat' first
    | with_reducible assumption | with_reducible refine MemInv.ite (fun _ => ?_) (fun _ => ?_)
    | with_reducible refine MemInv.mem ?_ | with_reducible apply State.setReg_memInv

theorem execFetchOpAccept_memInv (ridge : Fin 64) (s : State) (h : s.MemInv) :
    OutInv (execFetchOpAccept ridge s) := by
  unfold execFetchOpAccept
  try dsimp only
  repeat' first
    | with_reducible assumption | with_reducible refine OutInv.next ?_
    | with_reducible refine MemInv.ite (fun _ => ?_) (fun _ => ?_) | with_reducible refine MemInv.mem ?_
    | with_reducible apply State.opFault_memInv | with_reducible apply State.setErr_memInv
    | with_reducible apply State.bsnInfo_memInv | with_reducible apply State.setRidge_memInv | split

theorem State.putFetch_memInv (s : State) (n : Nat) (o : FetchOp) (h : s.MemInv) :
    (State.putFetch s n o).MemInv := by
  unfold State.putFetch
  try dsimp only
  repeat' first
    | with_reducible assumption | with_reducible refine MemInv.ite (fun _ => ?_) (fun _ => ?_)
    | with_reducible refine MemInv.mem ?_ | with_reducible apply State.setRidge_memInv

theorem State.dropFetch_memInv (s : State) (n : Nat) (id : Nat) (h : s.MemInv) :
    (State.dropFetch s n id).MemInv := by
  unfold State.dropFetch
  try dsimp only
  repeat' first
    | with_reducible assumption | with_reducible refine MemInv.mem ?_ | with_reducible apply State.setRidge_memInv

theorem State.fetchEnd_memInv (s : State) (n : Nat) (id : Nat) (h : s.MemInv) :
    (State.fetchEnd s n id).MemInv := by
  unfold State.fetchEnd
  try dsimp only
  repeat' first
    | with_reducible assumption | with_reducible refine MemInv.ite (fun _ => ?_) (fun _ => ?_)
    | with_reducible refine MemInv.mem ?_ | with_reducible apply State.dropFetch_memInv
    | with_reducible apply State.opTally_memInv | split

theorem State.releaseChunk_memInv (s : State) (n : Nat) (id : Nat) (c : Chunk) (h : s.MemInv) :
    (State.releaseChunk s n id c).MemInv := by
  unfold State.releaseChunk
  try dsimp only
  repeat' first
    | with_reducible assumption | with_reducible refine MemInv.mem ?_ | with_reducible apply State.fetchEnd_memInv
    | with_reducible apply State.putFetch_memInv | split

theorem State.chunkFault_memInv (s : State) (n : Nat) (id : Nat) (c : Chunk) (reason : Nat) (h : s.MemInv) :
    (State.chunkFault s n id c reason).MemInv := by
  unfold State.chunkFault
  try dsimp only
  repeat' first
    | with_reducible assumption | with_reducible refine MemInv.ite (fun _ => ?_) (fun _ => ?_)
    | with_reducible refine MemInv.mem ?_ | with_reducible apply State.putFetch_memInv
    | with_reducible apply State.opFault_memInv | with_reducible apply State.releaseChunk_memInv | split

theorem State.tarnSent_memInv (s : State) (n : Nat) (a : Nat) (m : Nat) (h : s.MemInv) :
    (State.tarnSent s n a m).MemInv := by
  unfold State.tarnSent
  try dsimp only
  repeat' first
    | with_reducible assumption | with_reducible refine MemInv.ite (fun _ => ?_) (fun _ => ?_)
    | with_reducible refine MemInv.mem ?_ | with_reducible apply State.tarnReads_memInv
    | with_reducible apply State.fresh_memInv

theorem State.chunkDown_memInv (s : State) (n : Nat) (o : FetchOp) (c : Chunk) (reason : Nat) (h : s.MemInv) :
    (State.chunkDown s n o c reason).MemInv := by
  unfold State.chunkDown
  try dsimp only
  repeat' first
    | with_reducible assumption | with_reducible refine MemInv.mem ?_ | with_reducible apply State.chunkFault_memInv
    | with_reducible apply State.recordXlate_memInv

theorem State.chunkTranslate_memInv (s : State) (n : Nat) (o : FetchOp) (c : Chunk) (tarn : TarnErr) (h : s.MemInv) :
    (State.chunkTranslate s n o c tarn).MemInv := by
  unfold State.chunkTranslate
  try dsimp only
  repeat' first
    | with_reducible assumption | with_reducible refine MemInv.ite (fun _ => ?_) (fun _ => ?_)
    | with_reducible refine MemInv.mem ?_ | with_reducible apply State.putFetch_memInv
    | with_reducible apply State.chunkDown_memInv | with_reducible apply State.tarnErr_memInv
    | with_reducible apply State.submit_memInv | with_reducible apply State.tarnSent_memInv | split

theorem execXlateCacheRefill_memInv (ridge : Fin 64) (page : BitVec 19) (e : Ecc) (tarn : TarnErr) (s : State) (h : s.MemInv) :
    OutInv (execXlateCacheRefill ridge page e tarn s) := by
  unfold execXlateCacheRefill
  try dsimp only
  repeat' first
    | with_reducible assumption | with_reducible refine OutInv.next ?_
    | with_reducible refine MemInv.ite (fun _ => ?_) (fun _ => ?_) | with_reducible refine MemInv.mem ?_
    | with_reducible apply State.chunkTranslate_memInv | with_reducible apply State.cacheFill_memInv
    | with_reducible refine MemInv.foldl (fun _ _ _ => ?_) _ ?_ | with_reducible refine MemInv.foldl_fst (fun _ _ _ => ?_) _ ?_
    | split

theorem execFetchChunkIssue_memInv (ridge : Fin 64) (op : Fin 32) (tarn : TarnErr) (s : State) (h : s.MemInv) :
    OutInv (execFetchChunkIssue ridge op tarn s) := by
  unfold execFetchChunkIssue
  try dsimp only
  repeat' first
    | with_reducible assumption | with_reducible refine OutInv.next ?_
    | with_reducible refine MemInv.ite (fun _ => ?_) (fun _ => ?_) | with_reducible refine MemInv.mem ?_
    | with_reducible apply State.event_memInv | with_reducible apply State.putFetch_memInv
    | with_reducible apply State.chunkDown_memInv | with_reducible apply State.chunkTranslate_memInv
    | with_reducible apply State.cacheUse_memInv | split

theorem State.atomPoison_memInv (s : State) (n : Nat) (id : Nat) (b : Nat) (h : s.MemInv) :
    (State.atomPoison s n id b).MemInv := by
  unfold State.atomPoison
  try dsimp only
  repeat' first
    | with_reducible assumption | with_reducible refine MemInv.ite (fun _ => ?_) (fun _ => ?_)
    | with_reducible refine MemInv.mem ?_ | with_reducible apply State.setErr_memInv | with_reducible apply State.bsnInfo_memInv
    | with_reducible apply State.opFault_memInv | with_reducible apply State.putFetch_memInv | split

theorem State.chunkLand_memInv (s : State) (n : Nat) (d : List W32) (c : Chunk) (bs : List OutByte) (h : s.MemInv) :
    (State.chunkLand s n d c bs).MemInv := by
  unfold State.chunkLand
  try dsimp only
  repeat' first
    | with_reducible assumption | with_reducible refine MemInv.mem ?_ | with_reducible apply State.tarnWrites_memInv
    | with_reducible apply State.setRidge_memInv

theorem State.chunkHere_memInv (s : State) (n : Nat) (o : FetchOp) (c : Chunk) (key : Nat) (us : List GranUse) (tarn : TarnErr) (h : s.MemInv) :
    (State.chunkHere s n o c key us tarn).MemInv := by
  unfold State.chunkHere
  try dsimp only
  repeat' first
    | with_reducible assumption | with_reducible refine MemInv.ite (fun _ => ?_) (fun _ => ?_)
    | with_reducible refine MemInv.mem ?_ | with_reducible apply State.readRange_memInv
    | with_reducible apply State.asRead_memInv | with_reducible apply State.chunkLand_memInv
    | with_reducible apply State.releaseChunk_memInv | with_reducible apply State.discard_memInv
    | with_reducible apply State.writeRange_memInv | with_reducible apply State.tarnErr_memInv
    | with_reducible apply State.tarnSent_memInv | with_reducible apply State.putBoard_memInv
    | with_reducible apply State.combineAll_memInv | with_reducible apply State.smear_memInv
    | with_reducible apply Combined.s_memInv | with_reducible apply State.atomPoison_memInv
    | with_reducible refine MemInv.of_fst (by assumption) ?_ | split

theorem State.chunkWindow_memInv (s : State) (n : Nat) (o : FetchOp) (c : Chunk) (us : List GranUse) (h : s.MemInv) :
    (State.chunkWindow s n o c us).MemInv := by
  unfold State.chunkWindow
  try dsimp only
  repeat' first
    | with_reducible assumption | with_reducible refine MemInv.ite (fun _ => ?_) (fun _ => ?_)
    | with_reducible refine MemInv.mem ?_ | with_reducible apply State.granRead_memInv
    | with_reducible apply State.chunkLand_memInv | with_reducible apply State.releaseChunk_memInv
    | with_reducible apply State.discard_memInv | with_reducible refine MemInv.foldl (fun _ _ _ => ?_) _ ?_

theorem execFetchChunkDone_memInv (ridge : Fin 64) (op : Fin 32) (chunk : BitVec 8) (us : List GranUse) (tarn : TarnErr) (s : State) (h : s.MemInv) :
    OutInv (execFetchChunkDone ridge op chunk us tarn s) := by
  unfold execFetchChunkDone
  try dsimp only
  repeat' first
    | with_reducible assumption | with_reducible refine OutInv.next ?_
    | with_reducible refine MemInv.ite (fun _ => ?_) (fun _ => ?_) | with_reducible refine MemInv.mem ?_
    | with_reducible apply State.chunkDown_memInv | with_reducible apply State.chunkHere_memInv
    | with_reducible apply State.chunkWindow_memInv | split

theorem State.fetchAnswer_memInv (s : State) (n : Nat) (id : Nat) (key : Nat) (reason : Nat) (bs : List OutByte) (h : s.MemInv) :
    (State.fetchAnswer s n id key reason bs).MemInv := by
  unfold State.fetchAnswer
  try dsimp only
  repeat' first
    | with_reducible assumption | with_reducible refine MemInv.ite (fun _ => ?_) (fun _ => ?_)
    | with_reducible refine MemInv.mem ?_ | with_reducible apply State.chunkDown_memInv
    | with_reducible apply State.chunkLand_memInv | with_reducible apply State.atomPoison_memInv
    | with_reducible apply State.releaseChunk_memInv | split

end Sys2Proof.Machine
end

