-- ==== Sys2Proof/Laws/KeepCfl.lean ====
section
/-! SUPPORT. What the operations of Machine/Cfl.lean do keeps the invariant of memory. -/
set_option linter.unusedSimpArgs false
namespace Sys2Proof.Machine

theorem State.takeXfer_memInv (s : State) (e : Nat) (x : Xfer) (h : s.MemInv) :
    (State.takeXfer s e x).MemInv := by
  unfold State.takeXfer
  try dsimp only
  repeat' first
    | with_reducible assumption | with_reducible refine MemInv.mem ?_ | with_reducible apply State.setCfl_memInv

theorem State.judgeXfers_memInv (s : State) (e : Nat) (h : s.MemInv) :
    (State.judgeXfers s e).MemInv := by
  unfold State.judgeXfers
  try dsimp only
  repeat' first
    | with_reducible assumption | with_reducible refine MemInv.mem ?_ | with_reducible apply State.opFault_memInv
    | with_reducible apply State.setErr_memInv | with_reducible apply State.cflInfo_memInv
    | with_reducible apply State.setCfl_memInv | with_reducible refine MemInv.foldl (fun _ _ _ => ?_) _ ?_

theorem State.msgArrive_memInv (s : State) (arg : W32) (addr : Nat) (body : List W32) (h : s.MemInv) :
    (State.msgArrive s arg addr body).1.MemInv := by
  unfold State.msgArrive
  try dsimp only
  repeat' first
    | with_reducible assumption | with_reducible refine MemInv.ite (fun _ => ?_) (fun _ => ?_)
    | with_reducible refine MemInv.mem ?_ | with_reducible apply State.event_memInv | with_reducible apply State.setErr_memInv
    | with_reducible apply State.fresh_memInv | with_reducible apply State.setCfl_memInv | split

theorem State.msgAnswer_memInv (s : State) (e : Nat) (d : Desc) (a : Nat) (reason : Nat) (h : s.MemInv) :
    (State.msgAnswer s e d a reason).MemInv := by
  unfold State.msgAnswer
  try dsimp only
  repeat' first
    | with_reducible assumption | with_reducible refine MemInv.ite (fun _ => ?_) (fun _ => ?_)
    | with_reducible refine MemInv.mem ?_ | with_reducible apply State.opFault_memInv
    | with_reducible apply State.recordXlate_memInv

theorem State.sendMsg_memInv (s : State) (e : Nat) (c : Coll) (peer : Nat) (m : Msg) (h : s.MemInv) :
    (State.sendMsg s e c peer m).MemInv := by
  unfold State.sendMsg
  extract_lets p kind arg body t r
  have ht : t.MemInv := State.event_memInv _ _ _ _ h
  clear_value t arg body r p
  repeat' first
    | with_reducible assumption | with_reducible apply State.msgAnswer_memInv | with_reducible apply State.submit_memInv
    | with_reducible refine MemInv.of_fst (by assumption) ?_ | with_reducible apply State.msgArrive_memInv | split

theorem State.msgConsume_memInv (s : State) (e : Nat) (done : Bool) (h : s.MemInv) :
    (State.msgConsume s e done).MemInv := by
  unfold State.msgConsume
  try dsimp only
  repeat' first
    | with_reducible assumption | with_reducible refine MemInv.mem ?_ | with_reducible apply State.setCfl_memInv | split

theorem execMsgReadyReceive_memInv (e : Fin 8) (s : State) (h : s.MemInv) :
    OutInv (execMsgReadyReceive e s) := by
  unfold execMsgReadyReceive
  try dsimp only
  repeat' first
    | with_reducible assumption | with_reducible refine OutInv.next ?_ | with_reducible refine MemInv.mem ?_
    | with_reducible apply State.msgConsume_memInv

theorem execMsgDoneReceive_memInv (e : Fin 8) (s : State) (h : s.MemInv) :
    OutInv (execMsgDoneReceive e s) := by
  unfold execMsgDoneReceive
  try dsimp only
  repeat' first
    | with_reducible assumption | with_reducible refine OutInv.next ?_ | with_reducible refine MemInv.mem ?_
    | with_reducible apply State.msgConsume_memInv

theorem execNotify_memInv (e : Fin 8) (s : State) (h : s.MemInv) :
    OutInv (execNotify e s) := by
  unfold execNotify
  try dsimp only
  repeat' first
    | with_reducible assumption | with_reducible refine OutInv.next ?_
    | with_reducible refine MemInv.ite (fun _ => ?_) (fun _ => ?_) | with_reducible refine MemInv.mem ?_
    | with_reducible apply State.judgeXfers_memInv | with_reducible apply State.takeXfer_memInv
    | with_reducible apply State.sendMsg_memInv | with_reducible apply State.opTally_memInv | split

theorem State.cflLoose_memInv (s : State) (e : Nat) (bs : List OutByte) (h : s.MemInv) :
    (State.cflLoose s e bs).1.MemInv := by
  unfold State.cflLoose
  try dsimp only
  repeat' first
    | with_reducible assumption | with_reducible refine MemInv.ite (fun _ => ?_) (fun _ => ?_)
    | with_reducible refine MemInv.mem ?_ | with_reducible apply State.fresh_memInv | split

theorem State.cflWrite_memInv (s : State) (e : Nat) (ctx : Nat) (a : Nat) (hint : Nat) (bs : List OutByte) (m : MemUse) (h : s.MemInv) :
    (State.cflWrite s e ctx a hint bs m).1.MemInv := by
  unfold State.cflWrite
  try dsimp only
  repeat' first
    | with_reducible assumption | with_reducible refine MemInv.mem ?_ | with_reducible apply State.lookupRange_memInv
    | with_reducible apply State.cflLoose_memInv | with_reducible apply State.putPieces_memInv
    | with_reducible apply State.useLocal_memInv | with_reducible refine MemInv.of_fst (by assumption) ?_ | split

theorem State.cflFetch_memInv (s : State) (e : Nat) (ctx : Nat) (a : Nat) (n : Nat) (m : MemUse) (h : s.MemInv) :
    (State.cflFetch s e ctx a n m).1.MemInv := by
  unfold State.cflFetch
  try dsimp only
  repeat' first
    | with_reducible assumption | with_reducible refine MemInv.mem ?_ | with_reducible apply State.lookupRange_memInv
    | with_reducible apply State.useLocal_memInv | with_reducible apply State.asRead_memInv
    | with_reducible apply State.cflLoose_memInv | with_reducible refine MemInv.of_fst (by assumption) ?_ | split

theorem State.addTokens_memInv (s : State) (x : Nat) (j : Option Nat) (n : W32) (h : s.MemInv) :
    (State.addTokens s x j n).MemInv := by
  unfold State.addTokens
  try dsimp only
  repeat' first
    | with_reducible assumption | with_reducible refine MemInv.ite (fun _ => ?_) (fun _ => ?_)
    | with_reducible refine MemInv.mem ?_ | with_reducible apply State.tablePoison_memInv
    | with_reducible apply State.setWinWord_memInv | split

theorem State.a2aTokens_memInv (s : State) (c : Coll) (m : Msg) (h : s.MemInv) :
    (State.a2aTokens s c m).MemInv := by
  unfold State.a2aTokens
  try dsimp only
  repeat' first
    | with_reducible assumption | with_reducible refine MemInv.ite (fun _ => ?_) (fun _ => ?_)
    | with_reducible refine MemInv.mem ?_ | with_reducible apply State.fresh_memInv
    | with_reducible apply State.addTokens_memInv

theorem State.a2aWrote_memInv (s : State) (e : Nat) (c : Coll) (m : Msg) (r : Nat) (a : Nat) (h : s.MemInv) :
    (State.a2aWrote s e c m r a).MemInv := by
  unfold State.a2aWrote
  try dsimp only
  repeat' first
    | with_reducible assumption | with_reducible refine MemInv.ite (fun _ => ?_) (fun _ => ?_)
    | with_reducible refine MemInv.mem ?_ | with_reducible apply State.collFail_memInv
    | with_reducible apply State.recordXlate_memInv | with_reducible apply State.setCfl_memInv
    | with_reducible apply State.a2aTokens_memInv

theorem State.a2aPlace_memInv (s : State) (e : Nat) (m : MemUse) (h : s.MemInv) :
    (State.a2aPlace s e m).1.MemInv := by
  unfold State.a2aPlace
  try dsimp only
  repeat' first
    | with_reducible assumption | with_reducible refine MemInv.ite (fun _ => ?_) (fun _ => ?_)
    | with_reducible refine MemInv.mem ?_ | with_reducible apply State.cflWrite_memInv
    | with_reducible apply State.a2aWrote_memInv | with_reducible refine MemInv.of_fst (by assumption) ?_ | split

theorem State.cflArrive_memInv (s : State) (e : Nat) (id : Nat) (off : Nat) (bs : List OutByte) (h : s.MemInv) :
    (State.cflArrive s e id off bs).MemInv := by
  unfold State.cflArrive
  try dsimp only
  repeat' first
    | with_reducible assumption | with_reducible refine MemInv.mem ?_ | with_reducible apply State.cflLoose_memInv
    | with_reducible apply State.event_memInv | with_reducible apply State.setCfl_memInv

theorem State.pullPiece_memInv (s : State) (e : Nat) (id : Nat) (c : Coll) (x : Xfer) (p : Nat × Nat × Nat) (m : MemUse) (h : s.MemInv) :
    (State.pullPiece s e id c x p m).1.MemInv := by
  unfold State.pullPiece
  try dsimp only
  repeat' first
    | with_reducible assumption | with_reducible refine MemInv.ite (fun _ => ?_) (fun _ => ?_)
    | with_reducible refine MemInv.mem ?_ | with_reducible apply State.cflFetch_memInv
    | with_reducible apply State.collFail_memInv | with_reducible apply State.recordXlate_memInv
    | with_reducible apply State.cflArrive_memInv | with_reducible apply State.submit_memInv
    | with_reducible refine MemInv.of_fst (by assumption) ?_ | split

theorem State.nativeDone_memInv (s : State) (e : Nat) (c : Coll) (x : Xfer) (h : s.MemInv) :
    (State.nativeDone s e c x).MemInv := by
  unfold State.nativeDone
  try dsimp only
  repeat' first
    | with_reducible assumption | with_reducible refine MemInv.ite (fun _ => ?_) (fun _ => ?_)
    | with_reducible refine MemInv.mem ?_ | with_reducible apply State.setCfl_memInv
    | with_reducible apply State.a2aTokens_memInv | with_reducible apply State.opTally_memInv | split

theorem State.flightEnd_memInv (s : State) (e : Nat) (id : Nat) (h : s.MemInv) :
    (State.flightEnd s e id).MemInv := by
  unfold State.flightEnd
  try dsimp only
  repeat' first
    | with_reducible assumption | with_reducible refine MemInv.ite (fun _ => ?_) (fun _ => ?_)
    | with_reducible refine MemInv.mem ?_ | with_reducible apply State.setCfl_memInv
    | with_reducible apply State.nativeDone_memInv | with_reducible apply State.opTally_memInv | split

theorem State.startPull_memInv (s : State) (e : Nat) (c : Coll) (x : Xfer) (m : MemUse) (h : s.MemInv) :
    (State.startPull s e c x m).MemInv := by
  unfold State.startPull
  try dsimp only
  repeat' first
    | with_reducible assumption | with_reducible refine MemInv.ite (fun _ => ?_) (fun _ => ?_)
    | with_reducible refine MemInv.mem ?_ | with_reducible apply State.takeXfer_memInv
    | with_reducible apply State.setCfl_memInv | with_reducible apply State.flightEnd_memInv
    | with_reducible apply State.pullPiece_memInv | with_reducible refine MemInv.foldl (fun _ _ _ => ?_) _ ?_
    | with_reducible refine MemInv.foldl_fst (fun _ _ _ => ?_) _ ?_ | with_reducible refine MemInv.of_fst (by assumption) ?_
    | split

theorem execPull_memInv (e : Fin 8) (m : MemUse) (s : State) (h : s.MemInv) :
    OutInv (execPull e m s) := by
  unfold execPull
  try dsimp only
  repeat' first
    | with_reducible assumption | with_reducible refine OutInv.next ?_ | with_reducible refine MemInv.mem ?_
    | with_reducible apply State.a2aPlace_memInv | with_reducible apply State.judgeXfers_memInv
    | with_reducible apply State.startPull_memInv | with_reducible refine MemInv.of_fst (by assumption) ?_ | split

theorem execPullCombine_memInv (e : Fin 8) (m : MemUse) (s : State) (h : s.MemInv) :
    OutInv (execPullCombine e m s) := by
  unfold execPullCombine
  try dsimp only
  repeat' first
    | with_reducible assumption | with_reducible refine OutInv.next ?_ | with_reducible refine MemInv.mem ?_
    | with_reducible apply State.judgeXfers_memInv | with_reducible apply State.startPull_memInv | split

theorem State.pieceDone_memInv (s : State) (e : Nat) (id : Nat) (off : Nat) (h : s.MemInv) :
    (State.pieceDone s e id off).MemInv := by
  unfold State.pieceDone
  try dsimp only
  repeat' first
    | with_reducible assumption | with_reducible refine MemInv.ite (fun _ => ?_) (fun _ => ?_)
    | with_reducible refine MemInv.mem ?_ | with_reducible apply State.flightEnd_memInv
    | with_reducible apply State.setCfl_memInv

theorem execPullChunkArrive_memInv (e : Fin 8) (m : MemUse) (s : State) (h : s.MemInv) :
    OutInv (execPullChunkArrive e m s) := by
  unfold execPullChunkArrive
  try dsimp only
  repeat' first
    | with_reducible assumption | with_reducible refine OutInv.next ?_
    | with_reducible refine MemInv.ite (fun _ => ?_) (fun _ => ?_) | with_reducible refine MemInv.mem ?_
    | with_reducible apply State.setCfl_memInv | with_reducible apply State.pieceDone_memInv
    | with_reducible apply State.cflWrite_memInv | with_reducible apply State.fresh_memInv
    | with_reducible apply State.collFail_memInv | with_reducible apply State.recordXlate_memInv
    | with_reducible refine MemInv.of_fst (by assumption) ?_ | split

theorem State.cflAnswer_memInv (s : State) (e : Nat) (key : Nat) (status : Option Nat) (reason : Nat) (bs : List OutByte) (h : s.MemInv) :
    (State.cflAnswer s e key status reason bs).MemInv := by
  unfold State.cflAnswer
  try dsimp only
  repeat' first
    | with_reducible assumption | with_reducible refine MemInv.ite (fun _ => ?_) (fun _ => ?_)
    | with_reducible refine MemInv.mem ?_ | with_reducible apply State.pieceDone_memInv
    | with_reducible apply State.cflArrive_memInv | with_reducible apply State.recordXlate_memInv
    | with_reducible apply State.collFail_memInv | split

theorem State.putPiece_memInv (s : State) (e : Nat) (id : Nat) (c : Coll) (x : Xfer) (bs : List OutByte) (p : Nat × Nat × Nat) (m : MemUse) (h : s.MemInv) :
    (State.putPiece s e id c x bs p m).1.MemInv := by
  unfold State.putPiece
  try dsimp only
  repeat' first
    | with_reducible assumption | with_reducible refine MemInv.mem ?_ | with_reducible apply State.lookup_memInv
    | with_reducible apply State.collFail_memInv | with_reducible apply State.recordXlate_memInv
    | with_reducible apply State.pieceDone_memInv | with_reducible apply State.putBoard_memInv
    | with_reducible apply State.writeRange_memInv | with_reducible apply State.submit_memInv | split

theorem execPut_memInv (e : Fin 8) (m : MemUse) (s : State) (h : s.MemInv) :
    OutInv (execPut e m s) := by
  unfold execPut
  try dsimp only
  repeat' first
    | with_reducible assumption | with_reducible refine OutInv.next ?_
    | with_reducible refine MemInv.ite (fun _ => ?_) (fun _ => ?_) | with_reducible refine MemInv.mem ?_
    | with_reducible apply State.judgeXfers_memInv | with_reducible apply State.cflFetch_memInv
    | with_reducible apply State.takeXfer_memInv | with_reducible apply State.collFail_memInv
    | with_reducible apply State.recordXlate_memInv | with_reducible apply State.setCfl_memInv
    | with_reducible apply State.flightEnd_memInv | with_reducible apply State.putPiece_memInv
    | with_reducible refine MemInv.foldl (fun _ _ _ => ?_) _ ?_ | with_reducible refine MemInv.foldl_fst (fun _ _ _ => ?_) _ ?_
    | with_reducible refine MemInv.of_fst (by assumption) ?_ | split

theorem State.convFlags_memInv (s : State) (j : Option Nat) (f : TFlags) (h : s.MemInv) :
    (State.convFlags s j f).MemInv := by
  unfold State.convFlags
  try dsimp only
  repeat' first
    | with_reducible assumption | with_reducible refine MemInv.ite (fun _ => ?_) (fun _ => ?_)
    | with_reducible refine MemInv.mem ?_ | with_reducible apply State.setSlot_memInv | split

theorem State.convFold_memInv (s : State) (c : Coll) (t : Tallied) (ts : List RawTile) (h : s.MemInv) :
    (State.convFold s c t ts).MemInv := by
  unfold State.convFold
  try dsimp only
  repeat' first
    | with_reducible assumption | with_reducible refine MemInv.ite (fun _ => ?_) (fun _ => ?_)
    | with_reducible refine MemInv.mem ?_ | with_reducible apply State.addSat_memInv
    | with_reducible apply State.setScaleBit_memInv | with_reducible apply State.foldAmax_memInv
    | with_reducible apply State.foldNorm_memInv | with_reducible apply State.foldNoise_memInv
    | with_reducible refine MemInv.foldl (fun _ _ _ => ?_) _ ?_ | with_reducible refine MemInv.foldl_fst (fun _ _ _ => ?_) _ ?_
    | split

theorem State.slotResult_memInv (s : State) (c : Coll) (x : Xfer) (cs : List (List OutByte)) (h : s.MemInv) :
    OptFst (State.slotResult s c x cs) := by
  unfold State.slotResult
  repeat' first
    | with_reducible exact OptFst.none | with_reducible refine OptFst.some ?_
    | with_reducible refine OptFst.map_any (fun _ => ?_) | exact h | with_reducible refine State.fresh_memInv _ ?_
    | with_reducible refine State.convFlags_memInv _ _ _ ?_ | with_reducible exact State.convFold_memInv _ _ _ _ h | split
    | dsimp only

theorem State.convCounted_memInv (s : State) (e : Nat) (c : Coll) (h : s.MemInv) :
    (State.convCounted s e c).MemInv := by
  unfold State.convCounted
  try dsimp only
  repeat' first
    | with_reducible assumption | with_reducible refine MemInv.ite (fun _ => ?_) (fun _ => ?_)
    | with_reducible refine MemInv.mem ?_ | with_reducible apply State.setCfl_memInv

theorem execFinish_memInv (e : Fin 8) (m : MemUse) (s : State) (h : s.MemInv) :
    OutInv (execFinish e m s) := by
  unfold execFinish
  try dsimp only
  repeat' first
    | with_reducible assumption | with_reducible refine OutInv.next ?_
    | with_reducible refine MemInv.ite (fun _ => ?_) (fun _ => ?_) | with_reducible refine MemInv.mem ?_
    | with_reducible apply State.judgeXfers_memInv | with_reducible apply State.takeXfer_memInv
    | with_reducible apply State.setCfl_memInv | with_reducible apply State.event_memInv
    | with_reducible apply State.slotResult_memInv | with_reducible apply State.collFail_memInv
    | with_reducible apply State.convCounted_memInv | with_reducible apply State.cflWrite_memInv
    | with_reducible apply State.recordXlate_memInv | with_reducible apply State.opTally_memInv
    | with_reducible refine MemInv.of_fst (by assumption) ?_ | with_reducible refine MemInv.of_ofst (by assumption) ?_ | split

theorem execRingRound_memInv (e : Fin 8) (s : State) (h : s.MemInv) :
    OutInv (execRingRound e s) := by
  unfold execRingRound
  try dsimp only
  repeat' first
    | with_reducible assumption | with_reducible refine OutInv.next ?_
    | with_reducible refine MemInv.ite (fun _ => ?_) (fun _ => ?_) | with_reducible refine MemInv.mem ?_
    | with_reducible apply State.setCfl_memInv | split

theorem State.collStats_memInv (s : State) (e : Nat) (c : Coll) (h : s.MemInv) :
    (State.collStats s e c).MemInv := by
  unfold State.collStats
  try dsimp only
  repeat' first
    | with_reducible assumption | with_reducible refine MemInv.ite (fun _ => ?_) (fun _ => ?_)
    | with_reducible refine MemInv.mem ?_ | with_reducible apply State.event_memInv | with_reducible apply State.setReg_memInv

theorem execCollectiveComplete_memInv (e : Fin 8) (s : State) (h : s.MemInv) :
    OutInv (execCollectiveComplete e s) := by
  unfold execCollectiveComplete
  try dsimp only
  repeat' first
    | with_reducible assumption | with_reducible refine OutInv.next ?_
    | with_reducible refine MemInv.ite (fun _ => ?_) (fun _ => ?_) | with_reducible refine MemInv.mem ?_
    | with_reducible apply State.event_memInv | with_reducible apply State.collStats_memInv
    | with_reducible apply State.setCfl_memInv | with_reducible apply State.wsStart_memInv
    | with_reducible apply State.roundOver_memInv | with_reducible apply State.opTally_memInv | split

theorem execCollectiveTimeout_memInv (e : Fin 8) (s : State) (h : s.MemInv) :
    OutInv (execCollectiveTimeout e s) := by
  unfold execCollectiveTimeout
  try dsimp only
  repeat' first
    | with_reducible assumption | with_reducible refine OutInv.next ?_
    | with_reducible refine MemInv.ite (fun _ => ?_) (fun _ => ?_) | with_reducible refine MemInv.mem ?_
    | with_reducible apply State.collFail_memInv | with_reducible apply State.advance_memInv | split

theorem execExpertTableWrite_memInv (off : BitVec 16) (wide : Bool) (value : W64) (s : State) (h : s.MemInv) :
    OutInv (execExpertTableWrite off wide value s) := by
  unfold execExpertTableWrite
  try dsimp only
  repeat' first
    | with_reducible assumption | with_reducible refine OutInv.next ?_
    | with_reducible refine MemInv.ite (fun _ => ?_) (fun _ => ?_) | with_reducible refine MemInv.mem ?_
    | with_reducible apply State.event_memInv | with_reducible apply State.tableWrite_memInv

theorem State.expertCommit_memInv (s : State) (j : Nat) (h : s.MemInv) :
    (State.expertCommit s j).1.MemInv := by
  unfold State.expertCommit
  try dsimp only
  repeat' first
    | with_reducible assumption | with_reducible refine MemInv.ite (fun _ => ?_) (fun _ => ?_)
    | with_reducible refine MemInv.mem ?_ | with_reducible apply State.setWinWord_memInv
    | with_reducible refine MemInv.foldl (fun _ _ _ => ?_) _ ?_ | with_reducible refine MemInv.foldl_fst (fun _ _ _ => ?_) _ ?_
    | split

end Sys2Proof.Machine
end

