-- ==== Sys2Proof/Laws/KeepJournal.lean ====
section
/-! SUPPORT. What the operations of Machine/Journal.lean do keeps the invariant of memory. -/
set_option linter.unusedSimpArgs false
namespace Sys2Proof.Machine

theorem State.stepXlate_memInv (s : State) (inst : Nat) (reason : Nat) (ctx : Nat) (a : Nat) (h : s.MemInv) :
    (State.stepXlate s inst reason ctx a).MemInv := by
  unfold State.stepXlate
  try dsimp only
  repeat' first
    | with_reducible assumption | with_reducible refine MemInv.mem ?_ | with_reducible apply State.recordXlate_memInv

theorem State.ownFault_memInv (s : State) (inst : Nat) (a : Nat) (n : Nat) (h : s.MemInv) :
    (State.ownFault s inst a n).MemInv := by
  unfold State.ownFault
  try dsimp only
  repeat' first
    | with_reducible assumption | with_reducible refine MemInv.mem ?_ | with_reducible apply State.stepXlate_memInv | split

theorem State.stepWrite_memInv (s : State) (ctx : Nat) (a : Nat) (bs : List OutByte) (h : s.MemInv) :
    (State.stepWrite s ctx a bs).1.MemInv := by
  unfold State.stepWrite
  try dsimp only
  repeat' first
    | with_reducible assumption | with_reducible refine MemInv.mem ?_ | with_reducible apply State.lookupRange_memInv
    | with_reducible apply State.stepXlate_memInv | with_reducible apply State.putPieces_memInv
    | with_reducible apply State.useLocal_memInv | split

theorem State.readFault_memInv (s : State) (inst : Nat) (ctx : Nat) (a : Nat) (n : Nat) (h : s.MemInv) :
    (State.readFault s inst ctx a n).MemInv := by
  unfold State.readFault
  try dsimp only
  repeat' first
    | with_reducible assumption | with_reducible refine MemInv.mem ?_ | with_reducible apply State.stepXlate_memInv | split

theorem State.putTo_memInv (s : State) (slot : Nat) (kind : AskKind) (ctx : Nat) (w : Nat) (a : Nat) (bs : List OutByte) (h : s.MemInv) :
    OptInv (State.putTo s slot kind ctx w a bs) := by
  unfold State.putTo
  try dsimp only
  repeat' first
    | with_reducible assumption | with_reducible refine MemInv.mem ?_ | with_reducible apply State.ask_memInv
    | with_reducible refine MemInv.foldl (fun _ _ _ => ?_) _ ?_ | with_reducible refine MemInv.foldl_fst (fun _ _ _ => ?_) _ ?_
    | with_reducible refine MemInv.foldl_opt (fun _ _ _ => ?_) _ ?_ | with_reducible refine OptInv.map ?_ (fun _ _ => ?_)
    | with_reducible refine OptInv.map_any (fun _ => ?_)

theorem State.putWays_memInv (s : State) (slot : Nat) (kind : AskKind) (ctx : Nat) (a : Nat → Nat) (bs : List OutByte) (h : s.MemInv) :
    OptInv (State.putWays s slot kind ctx a bs) := by
  unfold State.putWays
  try dsimp only
  repeat' first
    | with_reducible assumption | with_reducible refine MemInv.mem ?_ | with_reducible apply State.putTo_memInv
    | with_reducible refine MemInv.foldl (fun _ _ _ => ?_) _ ?_ | with_reducible refine MemInv.foldl_fst (fun _ _ _ => ?_) _ ?_
    | with_reducible refine MemInv.foldl_opt (fun _ _ _ => ?_) _ ?_ | with_reducible refine OptInv.bind ?_ (fun _ _ => ?_)
    | with_reducible intro _ | with_reducible refine OptInv.some ?_

theorem State.unask_memInv (s : State) (f : Ask → Bool) (h : s.MemInv) :
    (State.unask s f).MemInv := by
  unfold State.unask
  try dsimp only
  repeat' first
    | with_reducible assumption | with_reducible refine MemInv.mem ?_ | simp only [MemInv.mk_iff]

theorem State.cursorsAdvance_memInv (s : State) (k : StepSlot) (h : s.MemInv) :
    (State.cursorsAdvance s k).MemInv := by
  unfold State.cursorsAdvance
  try dsimp only
  repeat' first
    | with_reducible assumption | with_reducible refine MemInv.mem ?_ | with_reducible apply State.setReg64_memInv
    | with_reducible refine MemInv.foldl (fun _ _ _ => ?_) _ ?_

theorem State.setBusy_memInv (s : State) (k : StepSlot) (h : s.MemInv) :
    (State.setBusy s k).MemInv := by
  unfold State.setBusy
  try dsimp only
  repeat' first
    | with_reducible assumption | with_reducible refine MemInv.ite (fun _ => ?_) (fun _ => ?_)
    | with_reducible refine MemInv.mem ?_ | with_reducible apply State.setReg_memInv
    | with_reducible refine MemInv.foldl (fun _ _ _ => ?_) _ ?_

theorem State.closeSlot_memInv (s : State) (j : Nat) (h : s.MemInv) :
    (State.closeSlot s j).MemInv := by
  unfold State.closeSlot
  try dsimp only
  repeat' first
    | with_reducible assumption | with_reducible refine MemInv.mem ?_ | with_reducible apply State.setBusy_memInv
    | with_reducible apply State.setReg_memInv | with_reducible apply State.oobClear_memInv
    | with_reducible apply State.accClear_memInv | with_reducible apply State.batchAtClosed_memInv
    | with_reducible apply State.setSlot_memInv | with_reducible refine MemInv.foldl (fun _ _ _ => ?_) _ ?_

end Sys2Proof.Machine
end

