-- ==== Sys2Proof/Laws/KeepDigest.lean ====
section
/-! SUPPORT. What the operations of Machine/Digest.lean do keeps the invariant of memory. -/
set_option linter.unusedSimpArgs false
namespace Sys2Proof.Machine

theorem State.digStart_memInv (s : State) (step : W32) (h : s.MemInv) :
    (State.digStart s step).MemInv := by
  unfold State.digStart
  try dsimp only
  repeat' first
    | with_reducible assumption | with_reducible refine MemInv.ite (fun _ => ?_) (fun _ => ?_)
    | with_reducible refine MemInv.mem ?_ | simp only [MemInv.mk_iff] | with_reducible apply State.ownFault_memInv
    | with_reducible apply State.fresh_memInv | with_reducible apply State.setReg_memInv
    | with_reducible refine MemInv.foldl (fun _ _ _ => ?_) _ ?_

theorem State.digAtCommit_memInv (s : State) (step : W32) (h : s.MemInv) :
    (State.digAtCommit s step).MemInv := by
  unfold State.digAtCommit
  try dsimp only
  repeat' first
    | with_reducible assumption | with_reducible refine MemInv.ite (fun _ => ?_) (fun _ => ?_)
    | with_reducible refine MemInv.mem ?_ | with_reducible apply State.digStart_memInv

theorem execDigestEngineStart_memInv (value : W32) (s : State) (h : s.MemInv) :
    OutInv (execDigestEngineStart value s) := by
  unfold execDigestEngineStart
  try dsimp only
  repeat' first
    | with_reducible assumption | with_reducible refine OutInv.next ?_
    | with_reducible refine MemInv.ite (fun _ => ?_) (fun _ => ?_) | with_reducible refine MemInv.mem ?_
    | with_reducible apply State.digStart_memInv

theorem State.digWrite_memInv (s : State) (i : Nat) (bs : List Byte) (h : s.MemInv) :
    (State.digWrite s i bs).MemInv := by
  unfold State.digWrite
  try dsimp only
  repeat' first
    | with_reducible assumption | with_reducible refine MemInv.mem ?_ | with_reducible apply State.putLocal_memInv | split

theorem execDigestEngineDone_memInv (s : State) (h : s.MemInv) :
    OutInv (execDigestEngineDone s) := by
  unfold execDigestEngineDone
  try dsimp only
  repeat' first
    | with_reducible assumption | with_reducible refine OutInv.next ?_
    | with_reducible refine MemInv.ite (fun _ => ?_) (fun _ => ?_) | with_reducible refine MemInv.mem ?_
    | simp only [MemInv.mk_iff] | with_reducible apply State.digWrite_memInv | with_reducible apply State.event_memInv
    | with_reducible apply State.setReg_memInv | with_reducible apply State.setErr_memInv
    | with_reducible apply State.addTally_memInv | with_reducible refine MemInv.foldl (fun _ _ _ => ?_) _ ?_
    | with_reducible refine MemInv.foldl_fst (fun _ _ _ => ?_) _ ?_ | with_reducible refine Mem.Inv.setMarking ?_ _ | split

end Sys2Proof.Machine
end

