-- ==== Sys2Proof/Laws/KeepDma.lean ====
section
/-! SUPPORT. What the operations of Machine/Dma.lean do keeps the invariant of memory. -/
set_option linter.unusedSimpArgs false
namespace Sys2Proof.Machine

theorem execDmaDescAccept_memInv (c : Fin 32) (s : State) (h : s.MemInv) :
    OutInv (execDmaDescAccept c s) := by
  unfold execDmaDescAccept
  try dsimp only
  repeat' first
    | with_reducible assumption | with_reducible refine OutInv.next ?_
    | with_reducible refine MemInv.ite (fun _ => ?_) (fun _ => ?_) | with_reducible refine MemInv.mem ?_
    | with_reducible apply State.setDma_memInv | with_reducible apply State.setReg_memInv
    | with_reducible apply State.refuseDesc_memInv | with_reducible apply State.setErr_memInv | split

theorem State.dmaHalt_memInv (s : State) (c : Nat) (dst : Bool) (host : Bool) (reason : Nat) (pmap : Nat) (attempts : Nat) (addr : Nat) (h : s.MemInv) :
    (State.dmaHalt s c dst host reason pmap attempts addr).MemInv := by
  unfold State.dmaHalt
  try dsimp only
  repeat' first
    | with_reducible assumption | with_reducible refine MemInv.ite (fun _ => ?_) (fun _ => ?_)
    | with_reducible refine MemInv.mem ?_ | with_reducible apply State.setDma_memInv | with_reducible apply State.setReg_memInv
    | with_reducible apply State.setReg64_memInv | with_reducible apply State.opFault_memInv
    | with_reducible apply State.setErr_memInv | split

theorem State.dmaXfault_memInv (s : State) (c : Nat) (dst : Bool) (reason : Nat) (addr : Nat) (h : s.MemInv) :
    (State.dmaXfault s c dst reason addr).MemInv := by
  unfold State.dmaXfault
  try dsimp only
  repeat' first
    | with_reducible assumption | with_reducible refine MemInv.mem ?_ | with_reducible apply State.dmaHalt_memInv
    | with_reducible apply State.recordXlate_memInv

theorem State.dmaBusError_memInv (s : State) (c : Nat) (dst : Bool) (host : Bool) (addr : Nat) (h : s.MemInv) :
    (State.dmaBusError s c dst host addr).MemInv := by
  unfold State.dmaBusError
  try dsimp only
  repeat' first
    | with_reducible assumption | with_reducible refine MemInv.ite (fun _ => ?_) (fun _ => ?_)
    | with_reducible refine MemInv.mem ?_ | with_reducible apply State.event_memInv | with_reducible apply State.countErr_memInv
    | with_reducible apply State.setDma_memInv | with_reducible apply State.dmaHalt_memInv

theorem State.dmaTake_memInv (s : State) (c : Nat) (bs : List OutByte) (h : s.MemInv) :
    (State.dmaTake s c bs).MemInv := by
  unfold State.dmaTake
  try dsimp only
  repeat' first
    | with_reducible assumption | with_reducible refine MemInv.mem ?_ | with_reducible apply State.event_memInv
    | with_reducible apply State.setDma_memInv

theorem State.dmaGot_memInv (s : State) (c : Nat) (bs : List OutByte) (h : s.MemInv) :
    (State.dmaGot s c bs).MemInv := by
  unfold State.dmaGot
  try dsimp only
  repeat' first
    | with_reducible assumption | with_reducible refine MemInv.ite (fun _ => ?_) (fun _ => ?_)
    | with_reducible refine MemInv.mem ?_ | with_reducible apply State.dmaTake_memInv | with_reducible apply State.fresh_memInv

theorem execDmaReadAccess_memInv (c : Fin 32) (host : HostData) (m : MemUse) (s : State) (h : s.MemInv) :
    OutInv (execDmaReadAccess c host m s) := by
  unfold execDmaReadAccess
  try dsimp only
  repeat' first
    | with_reducible assumption | with_reducible refine OutInv.next ?_
    | with_reducible refine MemInv.ite (fun _ => ?_) (fun _ => ?_) | with_reducible refine MemInv.mem ?_
    | with_reducible apply State.dmaGot_memInv | with_reducible apply State.lookup_memInv
    | with_reducible apply State.dmaXfault_memInv | with_reducible apply State.granRead_memInv
    | with_reducible apply State.asRead_memInv | with_reducible apply State.discard_memInv
    | with_reducible apply State.submit_memInv | with_reducible apply State.setDma_memInv
    | with_reducible refine MemInv.of_fst (by assumption) ?_ | split

theorem State.dmaDrop_memInv (s : State) (c : Nat) (n : Nat) (h : s.MemInv) :
    (State.dmaDrop s c n).MemInv := by
  unfold State.dmaDrop
  try dsimp only
  repeat' first
    | with_reducible assumption | with_reducible refine MemInv.ite (fun _ => ?_) (fun _ => ?_)
    | with_reducible refine MemInv.mem ?_ | with_reducible apply State.event_memInv | with_reducible apply State.setDma_memInv
    | with_reducible apply State.setReg_memInv

theorem State.putGran_memInv (s : State) (g : Nat) (bs : List (Nat × OutByte)) (h : s.MemInv) :
    (State.putGran s g bs).MemInv := by
  unfold State.putGran
  try dsimp only
  repeat' first
    | with_reducible assumption | with_reducible refine MemInv.ite (fun _ => ?_) (fun _ => ?_)
    | with_reducible refine MemInv.mem ?_ | with_reducible apply State.poisonWrite_memInv
    | with_reducible apply State.hbmPut_memInv

theorem State.dmaDrew_memInv (s : State) (t : State) (c : Nat) (n : Nat) (h : s.MemInv) (h1 : t.MemInv) :
    (State.dmaDrew s t c n).MemInv := by
  unfold State.dmaDrew
  try dsimp only
  repeat' first
    | with_reducible assumption | with_reducible refine MemInv.ite (fun _ => ?_) (fun _ => ?_)
    | with_reducible refine MemInv.mem ?_ | with_reducible apply State.fresh_memInv

theorem execDmaWriteAccess_memInv (c : Fin 32) (m : MemUse) (s : State) (h : s.MemInv) :
    OutInv (execDmaWriteAccess c m s) := by
  unfold execDmaWriteAccess
  try dsimp only
  repeat' first
    | with_reducible assumption | with_reducible refine OutInv.next ?_
    | with_reducible refine MemInv.ite (fun _ => ?_) (fun _ => ?_) | with_reducible refine MemInv.mem ?_
    | with_reducible apply State.dmaDrew_memInv | with_reducible apply State.event_memInv
    | with_reducible apply State.emit_memInv | with_reducible apply State.dmaDrop_memInv
    | with_reducible apply State.lookup_memInv | with_reducible apply State.dmaXfault_memInv
    | with_reducible apply State.granWrite_memInv | with_reducible apply State.putGran_memInv
    | with_reducible apply State.submit_memInv | with_reducible apply State.setDma_memInv | split

theorem State.dmaAway_memInv (s : State) (c : Nat) (dst : Bool) (reason : Nat) (a : Nat) (h : s.MemInv) :
    (State.dmaAway s c dst reason a).MemInv := by
  unfold State.dmaAway
  try dsimp only
  repeat' first
    | with_reducible assumption | with_reducible refine MemInv.ite (fun _ => ?_) (fun _ => ?_)
    | with_reducible refine MemInv.mem ?_ | with_reducible apply State.dmaXfault_memInv
    | with_reducible apply State.dmaBusError_memInv

theorem State.dmaAnswer_memInv (s : State) (c : Nat) (key : Nat) (reason : Nat) (bs : List OutByte) (h : s.MemInv) :
    (State.dmaAnswer s c key reason bs).MemInv := by
  unfold State.dmaAnswer
  try dsimp only
  repeat' first
    | with_reducible assumption | with_reducible refine MemInv.ite (fun _ => ?_) (fun _ => ?_)
    | with_reducible refine MemInv.mem ?_ | with_reducible apply State.dmaGot_memInv | with_reducible apply State.dmaAway_memInv
    | with_reducible apply State.event_memInv | with_reducible apply State.dmaDrop_memInv | split

theorem execDmaBusError_memInv (c : Fin 32) (s : State) (h : s.MemInv) :
    OutInv (execDmaBusError c s) := by
  unfold execDmaBusError
  try dsimp only
  repeat' first
    | with_reducible assumption | with_reducible refine OutInv.next ?_
    | with_reducible refine MemInv.ite (fun _ => ?_) (fun _ => ?_) | with_reducible refine MemInv.mem ?_
    | with_reducible apply State.dmaBusError_memInv

theorem execDmaDescComplete_memInv (c : Fin 32) (s : State) (h : s.MemInv) :
    OutInv (execDmaDescComplete c s) := by
  unfold execDmaDescComplete
  try dsimp only
  repeat' first
    | with_reducible assumption | with_reducible refine OutInv.next ?_
    | with_reducible refine MemInv.ite (fun _ => ?_) (fun _ => ?_) | with_reducible refine MemInv.mem ?_
    | with_reducible apply State.opTally_memInv | with_reducible apply State.event_memInv
    | with_reducible apply State.setDma_memInv | split

theorem State.dmaClear_memInv (s : State) (c : Nat) (h : s.MemInv) :
    (State.dmaClear s c).MemInv := by
  unfold State.dmaClear
  try dsimp only
  repeat' first
    | with_reducible assumption | with_reducible refine MemInv.mem ?_ | with_reducible apply State.setFlag_memInv

theorem execDmaResume_memInv (c : Fin 32) (s : State) (h : s.MemInv) :
    OutInv (execDmaResume c s) := by
  unfold execDmaResume
  try dsimp only
  repeat' first
    | with_reducible assumption | with_reducible refine OutInv.next ?_
    | with_reducible refine MemInv.ite (fun _ => ?_) (fun _ => ?_) | with_reducible refine MemInv.mem ?_
    | with_reducible apply State.setDma_memInv | with_reducible apply State.dmaClear_memInv

theorem execDmaAbort_memInv (c : Fin 32) (s : State) (h : s.MemInv) :
    OutInv (execDmaAbort c s) := by
  unfold execDmaAbort
  try dsimp only
  repeat' first
    | with_reducible assumption | with_reducible refine OutInv.next ?_
    | with_reducible refine MemInv.ite (fun _ => ?_) (fun _ => ?_) | with_reducible refine MemInv.mem ?_
    | with_reducible apply State.setDma_memInv | with_reducible apply State.dmaClear_memInv

theorem execChCfgWrite_memInv (c : Fin 32) (value : W32) (s : State) (h : s.MemInv) :
    OutInv (execChCfgWrite c value s) := by
  unfold execChCfgWrite
  try dsimp only
  repeat' first
    | with_reducible assumption | with_reducible refine OutInv.next ?_
    | with_reducible refine MemInv.ite (fun _ => ?_) (fun _ => ?_) | with_reducible refine MemInv.mem ?_
    | with_reducible apply State.setErr_memInv | with_reducible apply State.setReg_memInv

end Sys2Proof.Machine
end

