-- ==== Sys2Proof/Laws/KeepHost.lean ====
section
/-! SUPPORT. What the operations of Machine/Host.lean do keeps the invariant of memory. -/
set_option linter.unusedSimpArgs false
namespace Sys2Proof.Machine

theorem State.b2Fault_memInv (s : State) (reason : Nat) (a : Nat) (h : s.MemInv) :
    (State.b2Fault s reason a).MemInv := by
  unfold State.b2Fault
  try dsimp only
  repeat' first
    | with_reducible assumption | with_reducible refine MemInv.ite (fun _ => ?_) (fun _ => ?_)
    | with_reducible refine MemInv.mem ?_ | with_reducible apply State.setReg_memInv | with_reducible apply State.setErr_memInv

theorem State.b2Complete_memInv (s : State) (bs : List OutByte) (h : s.MemInv) :
    (State.b2Complete s bs).MemInv := by
  unfold State.b2Complete
  try dsimp only
  repeat' first
    | with_reducible assumption | with_reducible refine MemInv.ite (fun _ => ?_) (fun _ => ?_)
    | with_reducible refine MemInv.mem ?_ | with_reducible apply State.emit_memInv | with_reducible apply State.setErr_memInv

theorem State.hostEnd_memInv (s : State) (x : HostAcc) (h : s.MemInv) :
    (State.hostEnd s x).MemInv := by
  unfold State.hostEnd
  try dsimp only
  repeat' first
    | with_reducible assumption | with_reducible refine MemInv.ite (fun _ => ?_) (fun _ => ?_)
    | with_reducible refine MemInv.mem ?_ | simp only [MemInv.mk_iff] | with_reducible apply State.b2Fault_memInv
    | with_reducible apply State.emit_memInv | with_reducible apply State.b2Complete_memInv

theorem State.hostAnswer_memInv (s : State) (key : Nat) (off : Nat) (ok : Bool) (bs : List OutByte) (h : s.MemInv) :
    (State.hostAnswer s key off ok bs).MemInv := by
  unfold State.hostAnswer
  try dsimp only
  repeat' first
    | with_reducible assumption | with_reducible refine MemInv.mem ?_ | with_reducible apply State.hostEnd_memInv | split

theorem State.hostBegin_memInv (s : State) (wr : Bool) (a : Nat) (n : Nat) (h : s.MemInv) :
    (State.hostBegin s wr a n).1.MemInv := by
  unfold State.hostBegin
  try dsimp only
  repeat' first
    | with_reducible assumption | with_reducible refine MemInv.mem ?_ | simp only [MemInv.mk_iff]

theorem State.b2Piece_memInv (s : State) (x : HostAcc) (p : Nat × Nat × Nat) (us : List GranUse) (h : s.MemInv) :
    (State.b2Piece s x p us).1.MemInv := by
  unfold State.b2Piece
  try dsimp only
  repeat' first
    | with_reducible assumption | with_reducible refine MemInv.mem ?_ | with_reducible apply State.readRange_memInv
    | with_reducible apply State.asRead_memInv | with_reducible apply State.submit_memInv
    | with_reducible refine MemInv.of_fst (by assumption) ?_ | split

theorem State.b2Read_memInv (s : State) (a : Nat) (n : Nat) (m : MemUse) (h : s.MemInv) :
    (State.b2Read s a n m).MemInv := by
  unfold State.b2Read
  try dsimp only
  repeat' first
    | with_reducible assumption | with_reducible refine MemInv.mem ?_ | with_reducible apply State.lookup_memInv
    | with_reducible apply State.emit_memInv | with_reducible apply State.b2Fault_memInv
    | with_reducible apply State.hostBegin_memInv | with_reducible apply State.b2Piece_memInv
    | with_reducible apply State.hostEnd_memInv | with_reducible refine MemInv.foldl (fun _ _ _ => ?_) _ ?_
    | with_reducible refine MemInv.foldl_fst (fun _ _ _ => ?_) _ ?_
    | with_reducible refine MemInv.foldl_fst2 (fun _ _ _ => ?_) _ ?_ | with_reducible refine MemInv.of_fst (by assumption) ?_
    | split

theorem execBar2Read_memInv (off : BitVec 40) (len : BitVec 13) (m : MemUse) (s : State) (h : s.MemInv) :
    OutInv (execBar2Read off len m s) := by
  unfold execBar2Read
  try dsimp only
  repeat' first
    | with_reducible assumption | with_reducible refine OutInv.next ?_
    | with_reducible refine MemInv.ite (fun _ => ?_) (fun _ => ?_) | with_reducible refine MemInv.mem ?_
    | with_reducible apply State.emit_memInv | with_reducible apply State.event_memInv
    | with_reducible apply State.b2Read_memInv | with_reducible apply State.readRange_memInv
    | with_reducible apply State.b2Complete_memInv | split

theorem State.b2Write_memInv (s : State) (a : Nat) (n : Nat) (runs : List (Nat × List Byte)) (m : MemUse) (h : s.MemInv) :
    (State.b2Write s a n runs m).MemInv := by
  unfold State.b2Write
  try dsimp only
  repeat' first
    | with_reducible assumption | with_reducible refine MemInv.ite (fun _ => ?_) (fun _ => ?_)
    | with_reducible refine MemInv.mem ?_ | with_reducible apply State.hostBegin_memInv
    | with_reducible apply State.writeBoard_memInv | with_reducible apply Wrote.s_memInv
    | with_reducible apply State.b2Fault_memInv | with_reducible apply State.hostEnd_memInv
    | with_reducible refine MemInv.foldl (fun _ _ _ => ?_) _ ?_ | with_reducible refine MemInv.foldl_fst (fun _ _ _ => ?_) _ ?_
    | with_reducible refine MemInv.foldl_fst2 (fun _ _ _ => ?_) _ ?_

theorem State.areaWrite_memInv (s : State) (k : Nat) (p : Nat × List Byte) (us : List GranUse) (h : s.MemInv) :
    (State.areaWrite s k p us).MemInv := by
  unfold State.areaWrite
  try dsimp only
  repeat' first
    | with_reducible assumption | with_reducible refine MemInv.mem ?_ | with_reducible apply State.hbmWrite_memInv
    | with_reducible apply State.writeRange_memInv

theorem execBar2Write_memInv (off : BitVec 40) (data : List Byte) (enables : List Bool) (m : MemUse) (s : State) (h : s.MemInv) :
    OutInv (execBar2Write off data enables m s) := by
  unfold execBar2Write
  try dsimp only
  repeat' first
    | with_reducible assumption | with_reducible refine OutInv.next ?_
    | with_reducible refine MemInv.ite (fun _ => ?_) (fun _ => ?_) | with_reducible refine MemInv.mem ?_
    | with_reducible apply State.event_memInv | with_reducible apply State.b2Write_memInv
    | with_reducible apply State.areaWrite_memInv | with_reducible refine MemInv.foldl (fun _ _ _ => ?_) _ ?_
    | with_reducible refine MemInv.foldl_fst (fun _ _ _ => ?_) _ ?_
    | with_reducible refine MemInv.foldl_fst2 (fun _ _ _ => ?_) _ ?_ | split

theorem State.sendPending_memInv (s : State) (v : Nat) (h : s.MemInv) :
    (State.sendPending s v).MemInv := by
  unfold State.sendPending
  try dsimp only
  repeat' first
    | with_reducible assumption | with_reducible refine MemInv.ite (fun _ => ?_) (fun _ => ?_)
    | with_reducible refine MemInv.mem ?_ | simp only [MemInv.mk_iff] | with_reducible apply State.emit_memInv

theorem State.msixWrite_memInv (s : State) (a : Nat) (v : W32) (h : s.MemInv) :
    (State.msixWrite s a v).MemInv := by
  unfold State.msixWrite
  try dsimp only
  repeat' first
    | with_reducible assumption | with_reducible refine MemInv.ite (fun _ => ?_) (fun _ => ?_)
    | with_reducible refine MemInv.mem ?_ | simp only [MemInv.mk_iff] | with_reducible apply State.sendPending_memInv

theorem execMsixUnmask_memInv (vector : BitVec 8) (s : State) (h : s.MemInv) :
    OutInv (execMsixUnmask vector s) := by
  unfold execMsixUnmask
  try dsimp only
  repeat' first
    | with_reducible assumption | with_reducible refine OutInv.next ?_
    | with_reducible refine MemInv.ite (fun _ => ?_) (fun _ => ?_) | with_reducible refine MemInv.mem ?_
    | with_reducible apply State.msixWrite_memInv

theorem execTallyNoticeFire_memInv (n : Fin 64) (s : State) (h : s.MemInv) :
    OutInv (execTallyNoticeFire n s) := by
  unfold execTallyNoticeFire
  try dsimp only
  repeat' first
    | with_reducible assumption | with_reducible refine OutInv.next ?_
    | with_reducible refine MemInv.ite (fun _ => ?_) (fun _ => ?_) | with_reducible refine MemInv.mem ?_
    | simp only [MemInv.mk_iff] | with_reducible apply State.event_memInv | with_reducible apply State.setReg_memInv
    | with_reducible apply State.sendVector_memInv

theorem execPcieLinkUp_memInv (rate : Fin 6) (width : Fin 5) (flit : Bool) (s : State) (h : s.MemInv) :
    OutInv (execPcieLinkUp rate width flit s) := by
  unfold execPcieLinkUp
  try dsimp only
  repeat' first
    | with_reducible assumption | with_reducible refine OutInv.next ?_
    | with_reducible refine MemInv.ite (fun _ => ?_) (fun _ => ?_) | with_reducible refine MemInv.mem ?_
    | simp only [MemInv.mk_iff] | with_reducible apply State.setReg_memInv

theorem execConfigurationWrite_memInv (w : CfgWrite) (s : State) (h : s.MemInv) :
    OutInv (execConfigurationWrite w s) := by
  unfold execConfigurationWrite
  try dsimp only
  repeat' first
    | with_reducible assumption | with_reducible refine OutInv.next ?_
    | with_reducible refine MemInv.ite (fun _ => ?_) (fun _ => ?_) | with_reducible refine MemInv.mem ?_
    | simp only [MemInv.mk_iff] | with_reducible apply State.sendPending_memInv
    | with_reducible refine MemInv.foldl (fun _ _ _ => ?_) _ ?_ | with_reducible refine MemInv.foldl_fst (fun _ _ _ => ?_) _ ?_
    | with_reducible refine MemInv.foldl_fst2 (fun _ _ _ => ?_) _ ?_ | with_reducible refine Mem.Inv.setMarking ?_ _ | split

theorem execAtomicopRequest_memInv (s : State) (h : s.MemInv) :
    OutInv (execAtomicopRequest s) := by
  unfold execAtomicopRequest
  try dsimp only
  repeat' first
    | with_reducible assumption | with_reducible refine OutInv.next ?_
    | with_reducible refine MemInv.ite (fun _ => ?_) (fun _ => ?_) | with_reducible refine MemInv.mem ?_
    | with_reducible apply State.emit_memInv

end Sys2Proof.Machine
end

