-- ==== Sys2Proof/Laws/KeepImage.lean ====
section
/-! SUPPORT. What the operations of Machine/Image.lean do keeps the invariant of memory. -/
set_option linter.unusedSimpArgs false
namespace Sys2Proof.Machine

theorem State.slotVerified_memInv (s : State) (slot : Nat) (h : s.MemInv) :
    (State.slotVerified s slot).MemInv := by
  unfold State.slotVerified
  try dsimp only
  repeat' first
    | with_reducible assumption | with_reducible refine MemInv.ite (fun _ => ?_) (fun _ => ?_)
    | with_reducible refine MemInv.mem ?_ | with_reducible apply State.event_memInv

theorem State.bootCfgPut_memInv (s : State) (slot : Nat) (trial : Nat) (h : s.MemInv) :
    (State.bootCfgPut s slot trial).MemInv := by
  unfold State.bootCfgPut
  try dsimp only
  repeat' first
    | with_reducible assumption | with_reducible refine MemInv.mem ?_ | simp only [MemInv.mk_iff]

end Sys2Proof.Machine
end

