-- ==== Sys2Proof/Laws/KeepMirror.lean ====
section
/-! SUPPORT. What the operations of Machine/Mirror.lean do keeps the invariant of memory. -/
set_option linter.unusedSimpArgs false
namespace Sys2Proof.Machine

theorem State.setTag_memInv (s : State) (m : Nat) (pending : Bool) (sending : Bool) (step : W32) (h : s.MemInv) :
    (State.setTag s m pending sending step).MemInv := by
  unfold State.setTag
  try dsimp only
  repeat' first
    | with_reducible assumption | with_reducible refine MemInv.ite (fun _ => ?_) (fun _ => ?_)
    | with_reducible refine MemInv.mem ?_ | with_reducible apply State.winWrite_memInv

theorem State.markTag_memInv (s : State) (m : Nat) (sending : Bool) (h : s.MemInv) :
    (State.markTag s m sending).MemInv := by
  unfold State.markTag
  try dsimp only
  repeat' first
    | with_reducible assumption | with_reducible refine MemInv.mem ?_ | with_reducible apply State.setTag_memInv

theorem State.settleFrame_memInv (s : State) (f : Nat) (h : s.MemInv) :
    (State.settleFrame s f).MemInv := by
  unfold State.settleFrame
  try dsimp only
  repeat' first
    | with_reducible assumption | with_reducible refine MemInv.mem ?_ | with_reducible apply State.settle_memInv
    | with_reducible refine MemInv.foldl (fun _ _ _ => ?_) _ ?_

theorem State.pendPage_memInv (s : State) (step : W32) (m : Nat) (h : s.MemInv) :
    (State.pendPage s step m).MemInv := by
  unfold State.pendPage
  try dsimp only
  repeat' first
    | with_reducible assumption | with_reducible refine MemInv.mem ?_ | simp only [MemInv.mk_iff]
    | with_reducible apply State.settleFrame_memInv | with_reducible apply State.markTag_memInv
    | with_reducible refine Mem.Inv.setMarking ?_ _ | split

theorem State.mirrorClose_memInv (s : State) (h : s.MemInv) :
    (State.mirrorClose s).MemInv := by
  unfold State.mirrorClose
  try dsimp only
  repeat' first
    | with_reducible assumption | with_reducible refine MemInv.ite (fun _ => ?_) (fun _ => ?_)
    | with_reducible refine MemInv.mem ?_ | with_reducible apply State.closeSlot_memInv
    | with_reducible refine MemInv.foldl (fun _ _ _ => ?_) _ ?_

theorem State.mirrorEnd_memInv (s : State) (h : s.MemInv) :
    (State.mirrorEnd s).MemInv := by
  unfold State.mirrorEnd
  try dsimp only
  repeat' first
    | with_reducible assumption | with_reducible refine MemInv.ite (fun _ => ?_) (fun _ => ?_)
    | with_reducible refine MemInv.mem ?_ | simp only [MemInv.mk_iff] | with_reducible apply State.mirrorClose_memInv
    | with_reducible apply State.setFlag_memInv

theorem State.pageDone_memInv (s : State) (m : Nat) (step : W32) (h : s.MemInv) :
    (State.pageDone s m step).MemInv := by
  unfold State.pageDone
  try dsimp only
  repeat' first
    | with_reducible assumption | with_reducible refine MemInv.mem ?_ | simp only [MemInv.mk_iff]
    | with_reducible apply State.setTag_memInv

theorem State.mirrorAll_memInv (s : State) (h : s.MemInv) :
    (State.mirrorAll s).MemInv := by
  unfold State.mirrorAll
  try dsimp only
  repeat' first
    | with_reducible assumption | with_reducible refine MemInv.ite (fun _ => ?_) (fun _ => ?_)
    | with_reducible refine MemInv.mem ?_ | simp only [MemInv.mk_iff] | with_reducible apply State.pendPage_memInv
    | with_reducible apply State.setTag_memInv | with_reducible apply State.mirrorEnd_memInv
    | with_reducible apply State.fresh_memInv | with_reducible refine MemInv.foldl (fun _ _ _ => ?_) _ ?_

theorem State.mirrorHalt_memInv (s : State) (h : s.MemInv) :
    (State.mirrorHalt s).MemInv := by
  unfold State.mirrorHalt
  try dsimp only
  repeat' first
    | with_reducible assumption | with_reducible refine MemInv.mem ?_ | with_reducible apply State.unask_memInv

theorem State.mirrorFail_memInv (s : State) (h : s.MemInv) :
    (State.mirrorFail s).MemInv := by
  unfold State.mirrorFail
  try dsimp only
  repeat' first
    | with_reducible assumption | with_reducible refine MemInv.mem ?_ | simp only [MemInv.mk_iff]
    | with_reducible apply State.markTag_memInv | with_reducible apply State.setErr_memInv
    | with_reducible apply State.mirrorHalt_memInv | with_reducible refine Mem.Inv.setMarking ?_ _ | split

theorem State.mirrorCommit_memInv (s : State) (step : W32) (h : s.MemInv) : (State.mirrorCommit s step).MemInv := by
  refine State.fresh_memInv _ ?_
  have h' : State.MemInv { s with mem := { s.mem with marking := false, marked := [] } } := Mem.Inv.noMarks h
  refine MemInv.ite (fun _ => ?_) (fun _ => ?_)
  · exact MemInv.foldl (fun t m ht => State.pendPage_memInv _ _ _ ht) _ h'
  · exact MemInv.foldl (fun t m ht => State.setTag_memInv _ _ _ _ _ ht) _ h'

theorem State.sendTag_memInv (s : State) (m : Nat) (h : s.MemInv) :
    (State.sendTag s m).MemInv := by
  unfold State.sendTag
  try dsimp only
  repeat' first
    | with_reducible assumption | with_reducible refine MemInv.ite (fun _ => ?_) (fun _ => ?_)
    | with_reducible refine MemInv.mem ?_ | with_reducible apply State.putWays_memInv | with_reducible apply State.fresh_memInv
    | with_reducible apply State.mirrorFail_memInv | with_reducible refine OptInv.some ?_ | with_reducible exact OptInv.none
    | with_reducible refine MemInv.of_some (by assumption) ?_ | split

theorem execMirrorPageSend_memInv (s : State) (h : s.MemInv) :
    OutInv (execMirrorPageSend s) := by
  unfold execMirrorPageSend
  try dsimp only
  repeat' first
    | with_reducible assumption | with_reducible refine OutInv.next ?_
    | with_reducible refine MemInv.ite (fun _ => ?_) (fun _ => ?_) | with_reducible refine MemInv.mem ?_
    | simp only [MemInv.mk_iff] | with_reducible apply State.markTag_memInv | with_reducible apply State.mirrorFail_memInv
    | with_reducible apply State.putWays_memInv | with_reducible apply State.fresh_memInv | with_reducible refine OptInv.some ?_
    | with_reducible exact OptInv.none | with_reducible refine MemInv.of_some (by assumption) ?_
    | with_reducible refine Mem.Inv.setMarking ?_ _ | split

theorem execMirrorPageConfirm_memInv (s : State) (h : s.MemInv) :
    OutInv (execMirrorPageConfirm s) := by
  unfold execMirrorPageConfirm
  try dsimp only
  repeat' first
    | with_reducible assumption | with_reducible refine OutInv.next ?_
    | with_reducible refine MemInv.ite (fun _ => ?_) (fun _ => ?_) | with_reducible refine MemInv.mem ?_
    | with_reducible apply State.mirrorEnd_memInv | with_reducible apply State.event_memInv
    | with_reducible apply State.pageDone_memInv | split

theorem execCopyBeforeWriteStall_memInv (m : BitVec 19) (counts : W32) (s : State) (h : s.MemInv) :
    OutInv (execCopyBeforeWriteStall m counts s) := by
  unfold execCopyBeforeWriteStall
  try dsimp only
  repeat' first
    | with_reducible assumption | with_reducible refine OutInv.next ?_
    | with_reducible refine MemInv.ite (fun _ => ?_) (fun _ => ?_) | with_reducible refine MemInv.mem ?_
    | simp only [MemInv.mk_iff] | with_reducible apply State.event_memInv | with_reducible apply State.addSat_memInv

theorem execMirrorInit_memInv (value : W32) (s : State) (h : s.MemInv) :
    OutInv (execMirrorInit value s) := by
  unfold execMirrorInit
  try dsimp only
  repeat' first
    | with_reducible assumption | with_reducible refine OutInv.next ?_
    | with_reducible refine MemInv.ite (fun _ => ?_) (fun _ => ?_) | with_reducible refine MemInv.mem ?_
    | simp only [MemInv.mk_iff] | with_reducible apply State.setErr_memInv | with_reducible apply State.setReg_memInv
    | with_reducible apply State.setFlag_memInv | with_reducible apply State.mirrorHalt_memInv
    | with_reducible apply State.mirrorAll_memInv | with_reducible refine Mem.Inv.setMarking ?_ _ | split

theorem State.journalSend_memInv (s : State) (j : Nat) (kind : AskKind) (h : s.MemInv) :
    OptInv (State.journalSend s j kind) := by
  unfold State.journalSend
  try dsimp only
  repeat' first
    | with_reducible assumption | with_reducible refine MemInv.mem ?_ | with_reducible apply State.putWays_memInv
    | with_reducible refine OptInv.some ?_ | with_reducible exact OptInv.none
    | with_reducible refine MemInv.of_some (by assumption) ?_ | split

theorem State.sealZero_memInv (s : State) (j : Nat) (kind : AskKind) (h : s.MemInv) :
    OptInv (State.sealZero s j kind) := by
  unfold State.sealZero
  try dsimp only
  repeat' first
    | with_reducible assumption | with_reducible refine MemInv.mem ?_ | with_reducible apply State.putTo_memInv

theorem execRemirror_memInv (value : W32) (s : State) (h : s.MemInv) : OutInv (execRemirror value s) := by
  refine OutInv.next ?_
  split
  · exact h
  · extract_lets s0 t0 o0 t live fits u
    have h0 : s0.MemInv := State.irqUpdate_memInv _ _ (State.storeBits_memInv _ _ _ _ h)
    have ht : t.MemInv := State.mirrorHalt_memInv _ h0
    have hu : OptInv u := by
      unfold u
      split
      · exact OptInv.some ht
      · refine MemInv.foldl_opt (fun o j ho => OptInv.bind ho fun x hx => State.sealZero_memInv _ _ _ hx) _ ?_
        exact MemInv.foldl_opt (fun o j ho => OptInv.bind ho fun x hx => State.journalSend_memInv _ _ _ hx) _ (OptInv.some ht)
    refine MemInv.ite (fun _ => h0) fun _ => ?_
    · refine MemInv.ite (fun _ => State.setErr_memInv _ _ _ h0) fun _ => ?_
      clear_value u t s0
      split
      · exact State.mirrorFail_memInv _ (State.mirrorAll_memInv _ ht)
      · exact State.mirrorAll_memInv _ (hu _ rfl)

theorem execPartnerWrite_memInv (i : Fin 4) (value : W32) (s : State) (h : s.MemInv) :
    OutInv (execPartnerWrite i value s) := by
  unfold execPartnerWrite
  try dsimp only
  repeat' first
    | with_reducible assumption | with_reducible refine OutInv.next ?_
    | with_reducible refine MemInv.ite (fun _ => ?_) (fun _ => ?_) | with_reducible refine MemInv.mem ?_
    | with_reducible apply State.setErr_memInv | with_reducible apply State.storeBits_memInv

end Sys2Proof.Machine
end

