-- ==== Sys2Proof/Laws/KeepRill.lean ====
section
/-! SUPPORT. What the operations of Machine/Rill.lean do keeps the invariant of memory. -/
set_option linter.unusedSimpArgs false
namespace Sys2Proof.Machine

theorem State.enterFaulted_memInv (s : State) (c : Nat) (cause : W64) (epc : BitVec 14) (errs : W32) (h : s.MemInv) :
    (State.enterFaulted s c cause epc errs).MemInv := by
  unfold State.enterFaulted
  try dsimp only
  repeat' first
    | with_reducible assumption | with_reducible exact ActInv.exc | with_reducible refine ActInv.next ?_
    | with_reducible refine ActInv.jump ?_ | with_reducible refine ActInv.wait ?_ | with_reducible refine ActInv.halt ?_
    | with_reducible refine MemInv.mem ?_ | with_reducible apply State.detect_memInv | with_reducible apply State.setCore_memInv
    | with_reducible apply State.event_memInv

theorem State.takeExc_memInv (s : State) (c : Nat) (cause : W64) (epc : BitVec 14) (h : s.MemInv) :
    (State.takeExc s c cause epc).MemInv := by
  unfold State.takeExc
  try dsimp only
  repeat' first
    | with_reducible assumption | with_reducible exact ActInv.exc | with_reducible refine ActInv.next ?_
    | with_reducible refine ActInv.jump ?_ | with_reducible refine ActInv.wait ?_ | with_reducible refine ActInv.halt ?_
    | with_reducible refine MemInv.ite (fun _ => ?_) (fun _ => ?_) | with_reducible refine MemInv.mem ?_
    | with_reducible apply State.setCore_memInv | with_reducible apply State.event_memInv
    | with_reducible apply State.enterFaulted_memInv

theorem State.syncExc_memInv (s : State) (c : Nat) (code : Nat) (addr : Nat) (h : s.MemInv) :
    (State.syncExc s c code addr).MemInv := by
  unfold State.syncExc
  try dsimp only
  repeat' first
    | with_reducible assumption | with_reducible exact ActInv.exc | with_reducible refine ActInv.next ?_
    | with_reducible refine ActInv.jump ?_ | with_reducible refine ActInv.wait ?_ | with_reducible refine ActInv.halt ?_
    | with_reducible refine MemInv.mem ?_ | with_reducible apply State.takeExc_memInv

theorem State.goPc_memInv (s : State) (c : Nat) (target : Int) (t : State) (h : s.MemInv) (h1 : t.MemInv) :
    (State.goPc s c target t).MemInv := by
  unfold State.goPc
  try dsimp only
  repeat' first
    | with_reducible assumption | with_reducible exact ActInv.exc | with_reducible refine ActInv.next ?_
    | with_reducible refine ActInv.jump ?_ | with_reducible refine ActInv.wait ?_ | with_reducible refine ActInv.halt ?_
    | with_reducible refine MemInv.ite (fun _ => ?_) (fun _ => ?_) | with_reducible refine MemInv.mem ?_
    | with_reducible apply State.syncExc_memInv | with_reducible apply State.event_memInv
    | with_reducible apply State.setCore_memInv

/-- The state that an instruction leaves keeps the invariant. -/
def ActInv : Act → Prop
  | .exc _ _ => True
  | .next s | .jump _ s | .wait s | .halt s => s.MemInv

theorem ActInv.exc {a b : Nat} : ActInv (.exc a b) := trivial
theorem ActInv.next {s : State} (h : s.MemInv) : ActInv (.next s) := h
theorem ActInv.jump {s : State} {x : Int} (h : s.MemInv) : ActInv (.jump x s) := h
theorem ActInv.wait {s : State} (h : s.MemInv) : ActInv (.wait s) := h
theorem ActInv.halt {s : State} (h : s.MemInv) : ActInv (.halt s) := h

theorem State.retire_memInv (s : State) (c : Nat) (a : Act) (h : s.MemInv) (ha : ActInv a) : (State.retire s c a).MemInv := by
  unfold State.retire
  cases a with
  | exc x y => exact State.syncExc_memInv _ _ _ _ h
  | next t => exact State.goPc_memInv _ _ _ _ h ha
  | jump x t => exact State.goPc_memInv _ _ _ _ h ha
  | wait t => exact MemInv.ite (fun _ => State.syncExc_memInv _ _ _ _ h) (fun _ => ha)
  | halt t => exact State.event_memInv _ _ _ _ ha

theorem State.rill_memInv (s : State) (c : Nat) (e : Ecc) (ops : List Nat) (f : State → Core → W32 → Act) (h : s.MemInv)
    (hf : ∀ t k w, t.MemInv → ActInv (f t k w)) : (State.rill s c e ops f).MemInv := by
  unfold State.rill
  dsimp only
  repeat' first
    | with_reducible assumption | with_reducible refine MemInv.ite (fun _ => ?_) (fun _ => ?_)
    | with_reducible apply State.setCore_memInv | with_reducible apply State.setErr_memInv
    | with_reducible apply State.syncExc_memInv | with_reducible apply State.countErr_memInv
    | with_reducible apply State.retire_memInv | with_reducible apply State.event_memInv | with_reducible refine ActInv.next ?_
    | with_reducible apply hf

theorem writeReg_memInv (s : State) (c : Nat) (k : Core) (d : Nat) (v : W64) (h : s.MemInv) :
    ActInv (writeReg s c k d v) := by
  unfold writeReg
  try dsimp only
  repeat' first
    | with_reducible assumption | with_reducible exact ActInv.exc | with_reducible refine ActInv.next ?_
    | with_reducible refine ActInv.jump ?_ | with_reducible refine ActInv.wait ?_ | with_reducible refine ActInv.halt ?_
    | with_reducible refine MemInv.mem ?_ | with_reducible apply State.setCore_memInv

theorem aluR_memInv (c : Nat) (f : W64 → W64 → W64) (s : State) (k : Core) (w : W32) (h : s.MemInv) :
    ActInv (aluR c f s k w) := by
  unfold aluR
  try dsimp only
  repeat' first
    | with_reducible assumption | with_reducible exact ActInv.exc | with_reducible refine ActInv.next ?_
    | with_reducible refine ActInv.jump ?_ | with_reducible refine ActInv.wait ?_ | with_reducible refine ActInv.halt ?_
    | with_reducible refine MemInv.ite (fun _ => ?_) (fun _ => ?_) | with_reducible refine MemInv.mem ?_
    | with_reducible apply writeReg_memInv | with_reducible intro _ | split

theorem aluI_memInv (c : Nat) (imm : W32 → W64) (f : W64 → W64 → W64) (s : State) (k : Core) (w : W32) (h : s.MemInv) :
    ActInv (aluI c imm f s k w) := by
  unfold aluI
  try dsimp only
  repeat' first
    | with_reducible assumption | with_reducible exact ActInv.exc | with_reducible refine ActInv.next ?_
    | with_reducible refine ActInv.jump ?_ | with_reducible refine ActInv.wait ?_ | with_reducible refine ActInv.halt ?_
    | with_reducible refine MemInv.mem ?_ | with_reducible apply writeReg_memInv

theorem shiftI_memInv (c : Nat) (f : W64 → Nat → W64) (s : State) (k : Core) (w : W32) (h : s.MemInv) :
    ActInv (shiftI c f s k w) := by
  unfold shiftI
  try dsimp only
  repeat' first
    | with_reducible assumption | with_reducible exact ActInv.exc | with_reducible refine ActInv.next ?_
    | with_reducible refine ActInv.jump ?_ | with_reducible refine ActInv.wait ?_ | with_reducible refine ActInv.halt ?_
    | with_reducible refine MemInv.ite (fun _ => ?_) (fun _ => ?_) | with_reducible refine MemInv.mem ?_
    | with_reducible apply writeReg_memInv | with_reducible intro _ | split

theorem execNop_memInv (c : Fin 77) (e : Ecc) (s : State) (h : s.MemInv) :
    OutInv (execNop c e s) := by
  unfold execNop
  try dsimp only
  repeat' first
    | with_reducible assumption | with_reducible refine OutInv.next ?_ | with_reducible exact ActInv.exc
    | with_reducible refine ActInv.next ?_ | with_reducible refine ActInv.jump ?_ | with_reducible refine ActInv.wait ?_
    | with_reducible refine ActInv.halt ?_ | with_reducible refine MemInv.ite (fun _ => ?_) (fun _ => ?_)
    | with_reducible refine MemInv.mem ?_ | with_reducible apply State.rill_memInv | with_reducible intro _ | split

theorem execAddR_memInv (c : Fin 77) (e : Ecc) (s : State) (h : s.MemInv) :
    OutInv (execAddR c e s) := by
  unfold execAddR
  try dsimp only
  repeat' first
    | with_reducible assumption | with_reducible refine OutInv.next ?_ | with_reducible exact ActInv.exc
    | with_reducible refine ActInv.next ?_ | with_reducible refine ActInv.jump ?_ | with_reducible refine ActInv.wait ?_
    | with_reducible refine ActInv.halt ?_ | with_reducible refine MemInv.mem ?_ | with_reducible apply State.rill_memInv
    | with_reducible apply aluR_memInv

theorem execSubR_memInv (c : Fin 77) (e : Ecc) (s : State) (h : s.MemInv) :
    OutInv (execSubR c e s) := by
  unfold execSubR
  try dsimp only
  repeat' first
    | with_reducible assumption | with_reducible refine OutInv.next ?_ | with_reducible exact ActInv.exc
    | with_reducible refine ActInv.next ?_ | with_reducible refine ActInv.jump ?_ | with_reducible refine ActInv.wait ?_
    | with_reducible refine ActInv.halt ?_ | with_reducible refine MemInv.mem ?_ | with_reducible apply State.rill_memInv
    | with_reducible apply aluR_memInv

theorem execAndR_memInv (c : Fin 77) (e : Ecc) (s : State) (h : s.MemInv) :
    OutInv (execAndR c e s) := by
  unfold execAndR
  try dsimp only
  repeat' first
    | with_reducible assumption | with_reducible refine OutInv.next ?_ | with_reducible exact ActInv.exc
    | with_reducible refine ActInv.next ?_ | with_reducible refine ActInv.jump ?_ | with_reducible refine ActInv.wait ?_
    | with_reducible refine ActInv.halt ?_ | with_reducible refine MemInv.mem ?_ | with_reducible apply State.rill_memInv
    | with_reducible apply aluR_memInv

theorem execOrR_memInv (c : Fin 77) (e : Ecc) (s : State) (h : s.MemInv) :
    OutInv (execOrR c e s) := by
  unfold execOrR
  try dsimp only
  repeat' first
    | with_reducible assumption | with_reducible refine OutInv.next ?_ | with_reducible exact ActInv.exc
    | with_reducible refine ActInv.next ?_ | with_reducible refine ActInv.jump ?_ | with_reducible refine ActInv.wait ?_
    | with_reducible refine ActInv.halt ?_ | with_reducible refine MemInv.mem ?_ | with_reducible apply State.rill_memInv
    | with_reducible apply aluR_memInv

theorem execXorR_memInv (c : Fin 77) (e : Ecc) (s : State) (h : s.MemInv) :
    OutInv (execXorR c e s) := by
  unfold execXorR
  try dsimp only
  repeat' first
    | with_reducible assumption | with_reducible refine OutInv.next ?_ | with_reducible exact ActInv.exc
    | with_reducible refine ActInv.next ?_ | with_reducible refine ActInv.jump ?_ | with_reducible refine ActInv.wait ?_
    | with_reducible refine ActInv.halt ?_ | with_reducible refine MemInv.mem ?_ | with_reducible apply State.rill_memInv
    | with_reducible apply aluR_memInv

theorem execShl_memInv (c : Fin 77) (e : Ecc) (s : State) (h : s.MemInv) :
    OutInv (execShl c e s) := by
  unfold execShl
  try dsimp only
  repeat' first
    | with_reducible assumption | with_reducible refine OutInv.next ?_ | with_reducible exact ActInv.exc
    | with_reducible refine ActInv.next ?_ | with_reducible refine ActInv.jump ?_ | with_reducible refine ActInv.wait ?_
    | with_reducible refine ActInv.halt ?_ | with_reducible refine MemInv.mem ?_ | with_reducible apply State.rill_memInv
    | with_reducible apply aluR_memInv

theorem execShr_memInv (c : Fin 77) (e : Ecc) (s : State) (h : s.MemInv) :
    OutInv (execShr c e s) := by
  unfold execShr
  try dsimp only
  repeat' first
    | with_reducible assumption | with_reducible refine OutInv.next ?_ | with_reducible exact ActInv.exc
    | with_reducible refine ActInv.next ?_ | with_reducible refine ActInv.jump ?_ | with_reducible refine ActInv.wait ?_
    | with_reducible refine ActInv.halt ?_ | with_reducible refine MemInv.mem ?_ | with_reducible apply State.rill_memInv
    | with_reducible apply aluR_memInv

theorem execSar_memInv (c : Fin 77) (e : Ecc) (s : State) (h : s.MemInv) :
    OutInv (execSar c e s) := by
  unfold execSar
  try dsimp only
  repeat' first
    | with_reducible assumption | with_reducible refine OutInv.next ?_ | with_reducible exact ActInv.exc
    | with_reducible refine ActInv.next ?_ | with_reducible refine ActInv.jump ?_ | with_reducible refine ActInv.wait ?_
    | with_reducible refine ActInv.halt ?_ | with_reducible refine MemInv.mem ?_ | with_reducible apply State.rill_memInv
    | with_reducible apply aluR_memInv

theorem execMulR_memInv (c : Fin 77) (e : Ecc) (s : State) (h : s.MemInv) :
    OutInv (execMulR c e s) := by
  unfold execMulR
  try dsimp only
  repeat' first
    | with_reducible assumption | with_reducible refine OutInv.next ?_ | with_reducible exact ActInv.exc
    | with_reducible refine ActInv.next ?_ | with_reducible refine ActInv.jump ?_ | with_reducible refine ActInv.wait ?_
    | with_reducible refine ActInv.halt ?_ | with_reducible refine MemInv.mem ?_ | with_reducible apply State.rill_memInv
    | with_reducible apply aluR_memInv

theorem execAddi_memInv (c : Fin 77) (e : Ecc) (s : State) (h : s.MemInv) :
    OutInv (execAddi c e s) := by
  unfold execAddi
  try dsimp only
  repeat' first
    | with_reducible assumption | with_reducible refine OutInv.next ?_ | with_reducible exact ActInv.exc
    | with_reducible refine ActInv.next ?_ | with_reducible refine ActInv.jump ?_ | with_reducible refine ActInv.wait ?_
    | with_reducible refine ActInv.halt ?_ | with_reducible refine MemInv.mem ?_ | with_reducible apply State.rill_memInv
    | with_reducible apply aluI_memInv

theorem execAndi_memInv (c : Fin 77) (e : Ecc) (s : State) (h : s.MemInv) :
    OutInv (execAndi c e s) := by
  unfold execAndi
  try dsimp only
  repeat' first
    | with_reducible assumption | with_reducible refine OutInv.next ?_ | with_reducible exact ActInv.exc
    | with_reducible refine ActInv.next ?_ | with_reducible refine ActInv.jump ?_ | with_reducible refine ActInv.wait ?_
    | with_reducible refine ActInv.halt ?_ | with_reducible refine MemInv.mem ?_ | with_reducible apply State.rill_memInv
    | with_reducible apply aluI_memInv

theorem execOri_memInv (c : Fin 77) (e : Ecc) (s : State) (h : s.MemInv) :
    OutInv (execOri c e s) := by
  unfold execOri
  try dsimp only
  repeat' first
    | with_reducible assumption | with_reducible refine OutInv.next ?_ | with_reducible exact ActInv.exc
    | with_reducible refine ActInv.next ?_ | with_reducible refine ActInv.jump ?_ | with_reducible refine ActInv.wait ?_
    | with_reducible refine ActInv.halt ?_ | with_reducible refine MemInv.mem ?_ | with_reducible apply State.rill_memInv
    | with_reducible apply aluI_memInv

theorem execXori_memInv (c : Fin 77) (e : Ecc) (s : State) (h : s.MemInv) :
    OutInv (execXori c e s) := by
  unfold execXori
  try dsimp only
  repeat' first
    | with_reducible assumption | with_reducible refine OutInv.next ?_ | with_reducible exact ActInv.exc
    | with_reducible refine ActInv.next ?_ | with_reducible refine ActInv.jump ?_ | with_reducible refine ActInv.wait ?_
    | with_reducible refine ActInv.halt ?_ | with_reducible refine MemInv.mem ?_ | with_reducible apply State.rill_memInv
    | with_reducible apply aluI_memInv

theorem execShli_memInv (c : Fin 77) (e : Ecc) (s : State) (h : s.MemInv) :
    OutInv (execShli c e s) := by
  unfold execShli
  try dsimp only
  repeat' first
    | with_reducible assumption | with_reducible refine OutInv.next ?_ | with_reducible exact ActInv.exc
    | with_reducible refine ActInv.next ?_ | with_reducible refine ActInv.jump ?_ | with_reducible refine ActInv.wait ?_
    | with_reducible refine ActInv.halt ?_ | with_reducible refine MemInv.mem ?_ | with_reducible apply State.rill_memInv
    | with_reducible apply shiftI_memInv

theorem execShri_memInv (c : Fin 77) (e : Ecc) (s : State) (h : s.MemInv) :
    OutInv (execShri c e s) := by
  unfold execShri
  try dsimp only
  repeat' first
    | with_reducible assumption | with_reducible refine OutInv.next ?_ | with_reducible exact ActInv.exc
    | with_reducible refine ActInv.next ?_ | with_reducible refine ActInv.jump ?_ | with_reducible refine ActInv.wait ?_
    | with_reducible refine ActInv.halt ?_ | with_reducible refine MemInv.mem ?_ | with_reducible apply State.rill_memInv
    | with_reducible apply shiftI_memInv

theorem execSari_memInv (c : Fin 77) (e : Ecc) (s : State) (h : s.MemInv) :
    OutInv (execSari c e s) := by
  unfold execSari
  try dsimp only
  repeat' first
    | with_reducible assumption | with_reducible refine OutInv.next ?_ | with_reducible exact ActInv.exc
    | with_reducible refine ActInv.next ?_ | with_reducible refine ActInv.jump ?_ | with_reducible refine ActInv.wait ?_
    | with_reducible refine ActInv.halt ?_ | with_reducible refine MemInv.mem ?_ | with_reducible apply State.rill_memInv
    | with_reducible apply shiftI_memInv

theorem execLi_memInv (c : Fin 77) (e : Ecc) (s : State) (h : s.MemInv) :
    OutInv (execLi c e s) := by
  unfold execLi
  try dsimp only
  repeat' first
    | with_reducible assumption | with_reducible refine OutInv.next ?_ | with_reducible exact ActInv.exc
    | with_reducible refine ActInv.next ?_ | with_reducible refine ActInv.jump ?_ | with_reducible refine ActInv.wait ?_
    | with_reducible refine ActInv.halt ?_ | with_reducible refine MemInv.mem ?_ | with_reducible apply State.rill_memInv
    | with_reducible apply writeReg_memInv | with_reducible intro _

theorem execLis_memInv (c : Fin 77) (e : Ecc) (s : State) (h : s.MemInv) :
    OutInv (execLis c e s) := by
  unfold execLis
  try dsimp only
  repeat' first
    | with_reducible assumption | with_reducible refine OutInv.next ?_ | with_reducible exact ActInv.exc
    | with_reducible refine ActInv.next ?_ | with_reducible refine ActInv.jump ?_ | with_reducible refine ActInv.wait ?_
    | with_reducible refine ActInv.halt ?_ | with_reducible refine MemInv.mem ?_ | with_reducible apply State.rill_memInv
    | with_reducible apply writeReg_memInv | with_reducible intro _

theorem execCmp_memInv (c : Fin 77) (e : Ecc) (s : State) (h : s.MemInv) :
    OutInv (execCmp c e s) := by
  unfold execCmp
  try dsimp only
  repeat' first
    | with_reducible assumption | with_reducible refine OutInv.next ?_ | with_reducible exact ActInv.exc
    | with_reducible refine ActInv.next ?_ | with_reducible refine ActInv.jump ?_ | with_reducible refine ActInv.wait ?_
    | with_reducible refine ActInv.halt ?_ | with_reducible refine MemInv.ite (fun _ => ?_) (fun _ => ?_)
    | with_reducible refine MemInv.mem ?_ | with_reducible apply State.rill_memInv | with_reducible apply State.setCore_memInv
    | with_reducible intro _ | split

theorem execCmpi_memInv (c : Fin 77) (e : Ecc) (s : State) (h : s.MemInv) :
    OutInv (execCmpi c e s) := by
  unfold execCmpi
  try dsimp only
  repeat' first
    | with_reducible assumption | with_reducible refine OutInv.next ?_ | with_reducible exact ActInv.exc
    | with_reducible refine ActInv.next ?_ | with_reducible refine ActInv.jump ?_ | with_reducible refine ActInv.wait ?_
    | with_reducible refine ActInv.halt ?_ | with_reducible refine MemInv.ite (fun _ => ?_) (fun _ => ?_)
    | with_reducible refine MemInv.mem ?_ | with_reducible apply State.rill_memInv | with_reducible apply State.setCore_memInv
    | with_reducible intro _ | split

theorem execBr_memInv (c : Fin 77) (e : Ecc) (s : State) (h : s.MemInv) :
    OutInv (execBr c e s) := by
  unfold execBr
  try dsimp only
  repeat' first
    | with_reducible assumption | with_reducible refine OutInv.next ?_ | with_reducible exact ActInv.exc
    | with_reducible refine ActInv.next ?_ | with_reducible refine ActInv.jump ?_ | with_reducible refine ActInv.wait ?_
    | with_reducible refine ActInv.halt ?_ | with_reducible refine MemInv.mem ?_ | with_reducible apply State.rill_memInv
    | with_reducible intro _

theorem execCall_memInv (c : Fin 77) (e : Ecc) (s : State) (h : s.MemInv) :
    OutInv (execCall c e s) := by
  unfold execCall
  try dsimp only
  repeat' first
    | with_reducible assumption | with_reducible refine OutInv.next ?_ | with_reducible exact ActInv.exc
    | with_reducible refine ActInv.next ?_ | with_reducible refine ActInv.jump ?_ | with_reducible refine ActInv.wait ?_
    | with_reducible refine ActInv.halt ?_ | with_reducible refine MemInv.mem ?_ | with_reducible apply State.rill_memInv
    | with_reducible apply State.setCore_memInv | with_reducible intro _

theorem execJr_memInv (c : Fin 77) (e : Ecc) (s : State) (h : s.MemInv) :
    OutInv (execJr c e s) := by
  unfold execJr
  try dsimp only
  repeat' first
    | with_reducible assumption | with_reducible refine OutInv.next ?_ | with_reducible exact ActInv.exc
    | with_reducible refine ActInv.next ?_ | with_reducible refine ActInv.jump ?_ | with_reducible refine ActInv.wait ?_
    | with_reducible refine ActInv.halt ?_ | with_reducible refine MemInv.ite (fun _ => ?_) (fun _ => ?_)
    | with_reducible refine MemInv.mem ?_ | with_reducible apply State.rill_memInv | with_reducible intro _ | split

theorem execHalt_memInv (c : Fin 77) (e : Ecc) (s : State) (h : s.MemInv) :
    OutInv (execHalt c e s) := by
  unfold execHalt
  try dsimp only
  repeat' first
    | with_reducible assumption | with_reducible refine OutInv.next ?_ | with_reducible exact ActInv.exc
    | with_reducible refine ActInv.next ?_ | with_reducible refine ActInv.jump ?_ | with_reducible refine ActInv.wait ?_
    | with_reducible refine ActInv.halt ?_ | with_reducible refine MemInv.ite (fun _ => ?_) (fun _ => ?_)
    | with_reducible refine MemInv.mem ?_ | with_reducible apply State.rill_memInv | with_reducible apply State.setCore_memInv
    | with_reducible intro _ | split

theorem execRett_memInv (c : Fin 77) (e : Ecc) (s : State) (h : s.MemInv) :
    OutInv (execRett c e s) := by
  unfold execRett
  try dsimp only
  repeat' first
    | with_reducible assumption | with_reducible refine OutInv.next ?_ | with_reducible exact ActInv.exc
    | with_reducible refine ActInv.next ?_ | with_reducible refine ActInv.jump ?_ | with_reducible refine ActInv.wait ?_
    | with_reducible refine ActInv.halt ?_ | with_reducible refine MemInv.ite (fun _ => ?_) (fun _ => ?_)
    | with_reducible refine MemInv.mem ?_ | with_reducible apply State.rill_memInv | with_reducible apply State.setCore_memInv
    | with_reducible intro _ | split

theorem execProg_memInv (c : Fin 77) (e : Ecc) (s : State) (h : s.MemInv) :
    OutInv (execProg c e s) := by
  unfold execProg
  try dsimp only
  repeat' first
    | with_reducible assumption | with_reducible refine OutInv.next ?_ | with_reducible exact ActInv.exc
    | with_reducible refine ActInv.next ?_ | with_reducible refine ActInv.jump ?_ | with_reducible refine ActInv.wait ?_
    | with_reducible refine ActInv.halt ?_ | with_reducible refine MemInv.ite (fun _ => ?_) (fun _ => ?_)
    | with_reducible refine MemInv.mem ?_ | with_reducible apply State.rill_memInv | with_reducible apply State.setCore_memInv
    | with_reducible intro _ | split

theorem execGets_memInv (c : Fin 77) (e : Ecc) (s : State) (h : s.MemInv) :
    OutInv (execGets c e s) := by
  unfold execGets
  try dsimp only
  repeat' first
    | with_reducible assumption | with_reducible refine OutInv.next ?_ | with_reducible exact ActInv.exc
    | with_reducible refine ActInv.next ?_ | with_reducible refine ActInv.jump ?_ | with_reducible refine ActInv.wait ?_
    | with_reducible refine ActInv.halt ?_ | with_reducible refine MemInv.ite (fun _ => ?_) (fun _ => ?_)
    | with_reducible refine MemInv.mem ?_ | with_reducible apply State.rill_memInv | with_reducible apply writeReg_memInv
    | with_reducible intro _ | split

theorem execSets_memInv (c : Fin 77) (e : Ecc) (s : State) (h : s.MemInv) :
    OutInv (execSets c e s) := by
  unfold execSets
  try dsimp only
  repeat' first
    | with_reducible assumption | with_reducible refine OutInv.next ?_ | with_reducible exact ActInv.exc
    | with_reducible refine ActInv.next ?_ | with_reducible refine ActInv.jump ?_ | with_reducible refine ActInv.wait ?_
    | with_reducible refine ActInv.halt ?_ | with_reducible refine MemInv.ite (fun _ => ?_) (fun _ => ?_)
    | with_reducible refine MemInv.mem ?_ | with_reducible apply State.rill_memInv | with_reducible apply State.setCore_memInv
    | with_reducible intro _ | split

theorem loadAct_memInv (c : Nat) (n : Nat) (d : Ecc) (s : State) (k : Core) (w : W32) (h : s.MemInv) :
    ActInv (loadAct c n d s k w) := by
  unfold loadAct
  try dsimp only
  repeat' first
    | with_reducible assumption | with_reducible exact ActInv.exc | with_reducible refine ActInv.next ?_
    | with_reducible refine ActInv.jump ?_ | with_reducible refine ActInv.wait ?_ | with_reducible refine ActInv.halt ?_
    | with_reducible refine MemInv.ite (fun _ => ?_) (fun _ => ?_) | with_reducible refine MemInv.mem ?_
    | with_reducible apply writeReg_memInv | with_reducible apply State.countErr_memInv | with_reducible intro _ | split

theorem State.loadStep_memInv (s : State) (c : Nat) (e : Ecc) (d : Ecc) (op : Nat) (n : Nat) (h : s.MemInv) :
    (State.loadStep s c e d op n).MemInv := by
  unfold State.loadStep
  try dsimp only
  repeat' first
    | with_reducible assumption | with_reducible exact ActInv.exc | with_reducible refine ActInv.next ?_
    | with_reducible refine ActInv.jump ?_ | with_reducible refine ActInv.wait ?_ | with_reducible refine ActInv.halt ?_
    | with_reducible refine MemInv.ite (fun _ => ?_) (fun _ => ?_) | with_reducible refine MemInv.mem ?_
    | with_reducible apply State.rill_memInv | with_reducible apply loadAct_memInv | with_reducible intro _ | split

theorem State.markLoad_memInv (s : State) (c : Nat) (d : Ecc) (op : Nat) (n : Nat) (h : s.MemInv) :
    (State.markLoad s c d op n).MemInv := by
  unfold State.markLoad
  try dsimp only
  repeat' first
    | with_reducible assumption | with_reducible exact ActInv.exc | with_reducible refine ActInv.next ?_
    | with_reducible refine ActInv.jump ?_ | with_reducible refine ActInv.wait ?_ | with_reducible refine ActInv.halt ?_
    | with_reducible refine MemInv.ite (fun _ => ?_) (fun _ => ?_) | with_reducible refine MemInv.mem ?_
    | with_reducible apply State.setErr_memInv | with_reducible apply State.setCore_memInv

theorem execLd64_memInv (c : Fin 77) (e : Ecc) (d : Ecc) (s : State) (h : s.MemInv) :
    OutInv (execLd64 c e d s) := by
  unfold execLd64
  try dsimp only
  repeat' first
    | with_reducible assumption | with_reducible refine OutInv.next ?_ | with_reducible exact ActInv.exc
    | with_reducible refine ActInv.next ?_ | with_reducible refine ActInv.jump ?_ | with_reducible refine ActInv.wait ?_
    | with_reducible refine ActInv.halt ?_ | with_reducible refine MemInv.ite (fun _ => ?_) (fun _ => ?_)
    | with_reducible refine MemInv.mem ?_ | with_reducible apply State.loadStep_memInv
    | with_reducible apply State.markLoad_memInv

theorem execLd32_memInv (c : Fin 77) (e : Ecc) (d : Ecc) (s : State) (h : s.MemInv) :
    OutInv (execLd32 c e d s) := by
  unfold execLd32
  try dsimp only
  repeat' first
    | with_reducible assumption | with_reducible refine OutInv.next ?_ | with_reducible exact ActInv.exc
    | with_reducible refine ActInv.next ?_ | with_reducible refine ActInv.jump ?_ | with_reducible refine ActInv.wait ?_
    | with_reducible refine ActInv.halt ?_ | with_reducible refine MemInv.ite (fun _ => ?_) (fun _ => ?_)
    | with_reducible refine MemInv.mem ?_ | with_reducible apply State.loadStep_memInv
    | with_reducible apply State.markLoad_memInv

theorem storeAct_memInv (c : Nat) (n : Nat) (s : State) (k : Core) (w : W32) (h : s.MemInv) :
    ActInv (storeAct c n s k w) := by
  unfold storeAct
  try dsimp only
  repeat' first
    | with_reducible assumption | with_reducible exact ActInv.exc | with_reducible refine ActInv.next ?_
    | with_reducible refine ActInv.jump ?_ | with_reducible refine ActInv.wait ?_ | with_reducible refine ActInv.halt ?_
    | with_reducible refine MemInv.mem ?_ | with_reducible apply State.setCore_memInv | with_reducible intro _ | split

theorem execSt64_memInv (c : Fin 77) (e : Ecc) (s : State) (h : s.MemInv) :
    OutInv (execSt64 c e s) := by
  unfold execSt64
  try dsimp only
  repeat' first
    | with_reducible assumption | with_reducible refine OutInv.next ?_ | with_reducible exact ActInv.exc
    | with_reducible refine ActInv.next ?_ | with_reducible refine ActInv.jump ?_ | with_reducible refine ActInv.wait ?_
    | with_reducible refine ActInv.halt ?_ | with_reducible refine MemInv.mem ?_ | with_reducible apply State.rill_memInv
    | with_reducible apply storeAct_memInv

theorem execSt32_memInv (c : Fin 77) (e : Ecc) (s : State) (h : s.MemInv) :
    OutInv (execSt32 c e s) := by
  unfold execSt32
  try dsimp only
  repeat' first
    | with_reducible assumption | with_reducible refine OutInv.next ?_ | with_reducible exact ActInv.exc
    | with_reducible refine ActInv.next ?_ | with_reducible refine ActInv.jump ?_ | with_reducible refine ActInv.wait ?_
    | with_reducible refine ActInv.halt ?_ | with_reducible refine MemInv.mem ?_ | with_reducible apply State.rill_memInv
    | with_reducible apply storeAct_memInv

theorem execTrd_memInv (c : Fin 77) (e : Ecc) (s : State) (h : s.MemInv) :
    OutInv (execTrd c e s) := by
  unfold execTrd
  try dsimp only
  repeat' first
    | with_reducible assumption | with_reducible refine OutInv.next ?_ | with_reducible exact ActInv.exc
    | with_reducible refine ActInv.next ?_ | with_reducible refine ActInv.jump ?_ | with_reducible refine ActInv.wait ?_
    | with_reducible refine ActInv.halt ?_ | with_reducible refine MemInv.ite (fun _ => ?_) (fun _ => ?_)
    | with_reducible refine MemInv.mem ?_ | with_reducible apply State.rill_memInv | with_reducible apply writeReg_memInv
    | with_reducible intro _ | split

theorem execTinc_memInv (c : Fin 77) (e : Ecc) (s : State) (h : s.MemInv) :
    OutInv (execTinc c e s) := by
  unfold execTinc
  try dsimp only
  repeat' first
    | with_reducible assumption | with_reducible refine OutInv.next ?_ | with_reducible exact ActInv.exc
    | with_reducible refine ActInv.next ?_ | with_reducible refine ActInv.jump ?_ | with_reducible refine ActInv.wait ?_
    | with_reducible refine ActInv.halt ?_ | with_reducible refine MemInv.ite (fun _ => ?_) (fun _ => ?_)
    | with_reducible refine MemInv.mem ?_ | with_reducible apply State.rill_memInv | with_reducible apply State.addTally_memInv
    | with_reducible apply State.setCore_memInv | with_reducible intro _ | split

theorem execTwait_memInv (c : Fin 77) (e : Ecc) (s : State) (h : s.MemInv) :
    OutInv (execTwait c e s) := by
  unfold execTwait
  try dsimp only
  repeat' first
    | with_reducible assumption | with_reducible refine OutInv.next ?_ | with_reducible exact ActInv.exc
    | with_reducible refine ActInv.next ?_ | with_reducible refine ActInv.jump ?_ | with_reducible refine ActInv.wait ?_
    | with_reducible refine ActInv.halt ?_ | with_reducible refine MemInv.ite (fun _ => ?_) (fun _ => ?_)
    | with_reducible refine MemInv.mem ?_ | with_reducible apply State.rill_memInv | with_reducible apply State.setCore_memInv
    | with_reducible intro _ | split

theorem execTwaitRelease_memInv (c : Fin 77) (s : State) (h : s.MemInv) :
    OutInv (execTwaitRelease c s) := by
  unfold execTwaitRelease
  try dsimp only
  repeat' first
    | with_reducible assumption | with_reducible refine OutInv.next ?_ | with_reducible exact ActInv.exc
    | with_reducible refine ActInv.next ?_ | with_reducible refine ActInv.jump ?_ | with_reducible refine ActInv.wait ?_
    | with_reducible refine ActInv.halt ?_ | with_reducible refine MemInv.ite (fun _ => ?_) (fun _ => ?_)
    | with_reducible refine MemInv.mem ?_ | with_reducible apply State.event_memInv | with_reducible apply State.setCore_memInv

theorem issueAct_memInv (c : Nat) (d : Ecc) (s : State) (k : Core) (w : W32) (h : s.MemInv) :
    ActInv (issueAct c d s k w) := by
  unfold issueAct
  try dsimp only
  repeat' first
    | with_reducible assumption | with_reducible exact ActInv.exc | with_reducible refine ActInv.next ?_
    | with_reducible refine ActInv.jump ?_ | with_reducible refine ActInv.wait ?_ | with_reducible refine ActInv.halt ?_
    | with_reducible refine MemInv.ite (fun _ => ?_) (fun _ => ?_) | with_reducible refine MemInv.mem ?_
    | with_reducible apply State.countErr_memInv | with_reducible apply State.opFault_memInv
    | with_reducible apply State.setErr_memInv | with_reducible apply State.setCore_memInv
    | with_reducible apply State.place_memInv | with_reducible apply State.event_memInv | with_reducible intro _
    | with_reducible refine OptInv.some ?_ | with_reducible exact OptInv.none
    | with_reducible refine MemInv.of_some (by assumption) ?_ | split

theorem execIssue_memInv (c : Fin 77) (e : Ecc) (d : Ecc) (s : State) (h : s.MemInv) :
    OutInv (execIssue c e d s) := by
  unfold execIssue
  try dsimp only
  repeat' first
    | with_reducible assumption | with_reducible refine OutInv.next ?_ | with_reducible exact ActInv.exc
    | with_reducible refine ActInv.next ?_ | with_reducible refine ActInv.jump ?_ | with_reducible refine ActInv.wait ?_
    | with_reducible refine ActInv.halt ?_ | with_reducible refine MemInv.mem ?_ | with_reducible apply State.rill_memInv
    | with_reducible apply issueAct_memInv

theorem execIssueResume_memInv (c : Fin 77) (s : State) (h : s.MemInv) :
    OutInv (execIssueResume c s) := by
  unfold execIssueResume
  try dsimp only
  repeat' first
    | with_reducible assumption | with_reducible refine OutInv.next ?_ | with_reducible exact ActInv.exc
    | with_reducible refine ActInv.next ?_ | with_reducible refine ActInv.jump ?_ | with_reducible refine ActInv.wait ?_
    | with_reducible refine ActInv.halt ?_ | with_reducible refine MemInv.ite (fun _ => ?_) (fun _ => ?_)
    | with_reducible refine MemInv.mem ?_ | with_reducible apply State.place_memInv | with_reducible apply State.event_memInv
    | with_reducible apply State.setCore_memInv | with_reducible intro _ | with_reducible refine OptInv.some ?_
    | with_reducible exact OptInv.none | with_reducible refine MemInv.of_some (by assumption) ?_ | split

theorem State.tookDesc_memInv (s : State) (c : Nat) (k : Core) (d : Desc) (h : s.MemInv) :
    (State.tookDesc s c k d).MemInv := by
  unfold State.tookDesc
  try dsimp only
  repeat' first
    | with_reducible assumption | with_reducible exact ActInv.exc | with_reducible refine ActInv.next ?_
    | with_reducible refine ActInv.jump ?_ | with_reducible refine ActInv.wait ?_ | with_reducible refine ActInv.halt ?_
    | with_reducible refine MemInv.ite (fun _ => ?_) (fun _ => ?_) | with_reducible refine MemInv.mem ?_
    | with_reducible apply State.setCore_memInv | with_reducible apply State.collTaken_memInv

theorem execTake_memInv (c : Fin 77) (e : Ecc) (s : State) (h : s.MemInv) :
    OutInv (execTake c e s) := by
  unfold execTake
  try dsimp only
  repeat' first
    | with_reducible assumption | with_reducible refine OutInv.next ?_ | with_reducible exact ActInv.exc
    | with_reducible refine ActInv.next ?_ | with_reducible refine ActInv.jump ?_ | with_reducible refine ActInv.wait ?_
    | with_reducible refine ActInv.halt ?_ | with_reducible refine MemInv.ite (fun _ => ?_) (fun _ => ?_)
    | with_reducible refine MemInv.mem ?_ | with_reducible apply State.rill_memInv | with_reducible apply State.tookDesc_memInv
    | with_reducible apply State.setCore_memInv | with_reducible intro _ | split

theorem execTakeResume_memInv (c : Fin 77) (s : State) (h : s.MemInv) :
    OutInv (execTakeResume c s) := by
  unfold execTakeResume
  try dsimp only
  repeat' first
    | with_reducible assumption | with_reducible refine OutInv.next ?_ | with_reducible exact ActInv.exc
    | with_reducible refine ActInv.next ?_ | with_reducible refine ActInv.jump ?_ | with_reducible refine ActInv.wait ?_
    | with_reducible refine ActInv.halt ?_ | with_reducible refine MemInv.ite (fun _ => ?_) (fun _ => ?_)
    | with_reducible refine MemInv.mem ?_ | with_reducible apply State.event_memInv | with_reducible apply State.tookDesc_memInv
    | with_reducible intro _ | split

theorem execWaitLimitExpire_memInv (c : Fin 77) (s : State) (h : s.MemInv) :
    OutInv (execWaitLimitExpire c s) := by
  unfold execWaitLimitExpire
  try dsimp only
  repeat' first
    | with_reducible assumption | with_reducible refine OutInv.next ?_ | with_reducible exact ActInv.exc
    | with_reducible refine ActInv.next ?_ | with_reducible refine ActInv.jump ?_ | with_reducible refine ActInv.wait ?_
    | with_reducible refine ActInv.halt ?_ | with_reducible refine MemInv.ite (fun _ => ?_) (fun _ => ?_)
    | with_reducible refine MemInv.mem ?_ | with_reducible apply State.syncExc_memInv
    | with_reducible apply State.advance_memInv

theorem State.hang_memInv (s : State) (c : Nat) (h : s.MemInv) :
    (State.hang s c).MemInv := by
  unfold State.hang
  try dsimp only
  repeat' first
    | with_reducible assumption | with_reducible exact ActInv.exc | with_reducible refine ActInv.next ?_
    | with_reducible refine ActInv.jump ?_ | with_reducible refine ActInv.wait ?_ | with_reducible refine ActInv.halt ?_
    | with_reducible refine MemInv.mem ?_ | with_reducible apply State.enterFaulted_memInv

theorem execHangDetect_memInv (c : Fin 77) (s : State) (h : s.MemInv) :
    OutInv (execHangDetect c s) := by
  unfold execHangDetect
  try dsimp only
  repeat' first
    | with_reducible assumption | with_reducible refine OutInv.next ?_ | with_reducible exact ActInv.exc
    | with_reducible refine ActInv.next ?_ | with_reducible refine ActInv.jump ?_ | with_reducible refine ActInv.wait ?_
    | with_reducible refine ActInv.halt ?_ | with_reducible refine MemInv.ite (fun _ => ?_) (fun _ => ?_)
    | with_reducible refine MemInv.mem ?_ | with_reducible apply State.hang_memInv | with_reducible apply State.advance_memInv

theorem execAsyncExceptionTake_memInv (c : Fin 77) (s : State) (h : s.MemInv) :
    OutInv (execAsyncExceptionTake c s) := by
  unfold execAsyncExceptionTake
  try dsimp only
  repeat' first
    | with_reducible assumption | with_reducible refine OutInv.next ?_ | with_reducible exact ActInv.exc
    | with_reducible refine ActInv.next ?_ | with_reducible refine ActInv.jump ?_ | with_reducible refine ActInv.wait ?_
    | with_reducible refine ActInv.halt ?_ | with_reducible refine MemInv.ite (fun _ => ?_) (fun _ => ?_)
    | with_reducible refine MemInv.mem ?_ | with_reducible apply State.takeExc_memInv
    | with_reducible apply State.setCore_memInv | with_reducible intro _ | split

theorem State.runStop_memInv (s : State) (c : Nat) (h : s.MemInv) :
    (State.runStop s c).MemInv := by
  unfold State.runStop
  try dsimp only
  repeat' first
    | with_reducible assumption | with_reducible exact ActInv.exc | with_reducible refine ActInv.next ?_
    | with_reducible refine ActInv.jump ?_ | with_reducible refine ActInv.wait ?_ | with_reducible refine ActInv.halt ?_
    | with_reducible refine MemInv.mem ?_ | with_reducible apply State.setCore_memInv | with_reducible intro _ | split

theorem State.unquiesce_memInv (s : State) (c : Nat) (h : s.MemInv) :
    (State.unquiesce s c).MemInv := by
  unfold State.unquiesce
  try dsimp only
  repeat' first
    | with_reducible assumption | with_reducible exact ActInv.exc | with_reducible refine ActInv.next ?_
    | with_reducible refine ActInv.jump ?_ | with_reducible refine ActInv.wait ?_ | with_reducible refine ActInv.halt ?_
    | with_reducible refine MemInv.ite (fun _ => ?_) (fun _ => ?_) | with_reducible refine MemInv.mem ?_
    | with_reducible apply State.setCfl_memInv | with_reducible apply State.setRidge_memInv

theorem State.runStart_memInv (s : State) (c : Nat) (h : s.MemInv) :
    (State.runStart s c).MemInv := by
  unfold State.runStart
  try dsimp only
  repeat' first
    | with_reducible assumption | with_reducible exact ActInv.exc | with_reducible refine ActInv.next ?_
    | with_reducible refine ActInv.jump ?_ | with_reducible refine ActInv.wait ?_ | with_reducible refine ActInv.halt ?_
    | with_reducible refine MemInv.mem ?_ | with_reducible apply State.setCore_memInv
    | with_reducible apply State.unquiesce_memInv | with_reducible intro _ | split

theorem execRunCtlStart_memInv (c : Fin 77) (value : W32) (s : State) (h : s.MemInv) :
    OutInv (execRunCtlStart c value s) := by
  unfold execRunCtlStart
  try dsimp only
  repeat' first
    | with_reducible assumption | with_reducible refine OutInv.next ?_ | with_reducible exact ActInv.exc
    | with_reducible refine ActInv.next ?_ | with_reducible refine ActInv.jump ?_ | with_reducible refine ActInv.wait ?_
    | with_reducible refine ActInv.halt ?_ | with_reducible refine MemInv.ite (fun _ => ?_) (fun _ => ?_)
    | with_reducible refine MemInv.mem ?_ | with_reducible apply State.runStop_memInv
    | with_reducible apply State.runStart_memInv

theorem execRunCtlStop_memInv (c : Fin 77) (s : State) (h : s.MemInv) :
    OutInv (execRunCtlStop c s) := by
  unfold execRunCtlStop
  try dsimp only
  repeat' first
    | with_reducible assumption | with_reducible refine OutInv.next ?_ | with_reducible exact ActInv.exc
    | with_reducible refine ActInv.next ?_ | with_reducible refine ActInv.jump ?_ | with_reducible refine ActInv.wait ?_
    | with_reducible refine ActInv.halt ?_ | with_reducible refine MemInv.ite (fun _ => ?_) (fun _ => ?_)
    | with_reducible refine MemInv.mem ?_ | with_reducible apply State.runStop_memInv

theorem State.progReplaced_memInv (s : State) (c : Nat) (h : s.MemInv) :
    (State.progReplaced s c).MemInv := by
  unfold State.progReplaced
  try dsimp only
  repeat' first
    | with_reducible assumption | with_reducible exact ActInv.exc | with_reducible refine ActInv.next ?_
    | with_reducible refine ActInv.jump ?_ | with_reducible refine ActInv.wait ?_ | with_reducible refine ActInv.halt ?_
    | with_reducible refine MemInv.ite (fun _ => ?_) (fun _ => ?_) | with_reducible refine MemInv.mem ?_
    | simp only [MemInv.mk_iff]

theorem execProgramMemoryWrite_memInv (c : Fin 77) (target : LoadTarget) (s : State) (h : s.MemInv) :
    OutInv (execProgramMemoryWrite c target s) := by
  unfold execProgramMemoryWrite
  try dsimp only
  repeat' first
    | with_reducible assumption | with_reducible refine OutInv.next ?_ | with_reducible exact ActInv.exc
    | with_reducible refine ActInv.next ?_ | with_reducible refine ActInv.jump ?_ | with_reducible refine ActInv.wait ?_
    | with_reducible refine ActInv.halt ?_ | with_reducible refine MemInv.ite (fun _ => ?_) (fun _ => ?_)
    | with_reducible refine MemInv.mem ?_ | simp only [MemInv.mk_iff] | with_reducible apply State.setErr_memInv
    | with_reducible apply State.setCore_memInv | with_reducible apply State.progReplaced_memInv | with_reducible intro _
    | with_reducible refine Mem.Inv.setMarking ?_ _ | split

theorem execDataMemoryWrite_memInv (c : Fin 77) (off : BitVec 16) (wide : Bool) (value : W64) (s : State) (h : s.MemInv) :
    OutInv (execDataMemoryWrite c off wide value s) := by
  unfold execDataMemoryWrite
  try dsimp only
  repeat' first
    | with_reducible assumption | with_reducible refine OutInv.next ?_ | with_reducible exact ActInv.exc
    | with_reducible refine ActInv.next ?_ | with_reducible refine ActInv.jump ?_ | with_reducible refine ActInv.wait ?_
    | with_reducible refine ActInv.halt ?_ | with_reducible refine MemInv.ite (fun _ => ?_) (fun _ => ?_)
    | with_reducible refine MemInv.mem ?_ | with_reducible apply State.setCore_memInv

end Sys2Proof.Machine
end

