-- ==== Sys2Proof/Laws/KeepSteps.lean ====
section
/-! SUPPORT. What the operations of Machine/Steps.lean do keeps the invariant of memory. -/
set_option linter.unusedSimpArgs false
namespace Sys2Proof.Machine

theorem State.stepPop_memInv (s : State) (h : s.MemInv) :
    (State.stepPop s).MemInv := by
  unfold State.stepPop
  try dsimp only
  repeat' first
    | with_reducible assumption | with_reducible refine MemInv.ite (fun _ => ?_) (fun _ => ?_)
    | with_reducible refine MemInv.mem ?_ | simp only [MemInv.mk_iff] | with_reducible apply State.setTread_memInv
    | with_reducible apply State.event_memInv | with_reducible intro _ | with_reducible refine Mem.Inv.setMarking ?_ _ | split

theorem State.stepWait_memInv (s : State) (h : s.MemInv) :
    (State.stepWait s).MemInv := by
  unfold State.stepWait
  try dsimp only
  repeat' first
    | with_reducible assumption | with_reducible refine MemInv.mem ?_ | simp only [MemInv.mk_iff]

theorem State.stepRefuse_memInv (s : State) (d : Desc) (reason : Nat) (h : s.MemInv) :
    (State.stepRefuse s d reason).MemInv := by
  unfold State.stepRefuse
  try dsimp only
  repeat' first
    | with_reducible assumption | with_reducible refine MemInv.ite (fun _ => ?_) (fun _ => ?_)
    | with_reducible refine MemInv.mem ?_ | with_reducible apply State.stepPop_memInv | with_reducible apply State.setReg_memInv
    | with_reducible apply State.refuseDesc_memInv | with_reducible apply State.setErr_memInv

theorem State.stepTally_memInv (s : State) (d : Desc) (h : s.MemInv) :
    (State.stepTally s d).MemInv := by
  unfold State.stepTally
  try dsimp only
  repeat' first
    | with_reducible assumption | with_reducible refine MemInv.mem ?_ | with_reducible apply State.opTally_memInv

theorem State.stepTake_memInv (s : State) (want : List W32 → Bool) (act : Desc → State) (h : s.MemInv)
    (ha : ∀ d, (act d).MemInv) : (State.stepTake s want act).MemInv := by
  unfold State.stepTake
  repeat' first
    | with_reducible assumption | exact ha _ | with_reducible refine MemInv.ite (fun _ => ?_) (fun _ => ?_)
    | with_reducible apply State.stepRefuse_memInv | split

theorem State.stepTakeIn_memInv (s : State) (action : Nat) (ok : StepSlot → Bool) (act : Desc → Nat → StepSlot → State)
    (h : s.MemInv) (ha : ∀ d j k, (act d j k).MemInv) : (State.stepTakeIn s action ok act).MemInv := by
  refine State.stepTake_memInv _ _ _ h fun d => ?_
  exact MemInv.ite (fun _ => ha _ _ _) (fun _ => State.stepRefuse_memInv _ _ _ h)

theorem State.copyFail_memInv (s : State) (j : Nat) (h : s.MemInv) :
    (State.copyFail s j).MemInv := by
  unfold State.copyFail
  try dsimp only
  repeat' first
    | with_reducible assumption | with_reducible refine MemInv.mem ?_ | with_reducible apply State.setSlot_memInv

theorem State.openCopies_memInv (s : State) (j : Nat) (h : s.MemInv) :
    (State.openCopies s j).MemInv := by
  unfold State.openCopies
  try dsimp only
  repeat' first
    | with_reducible assumption | with_reducible refine MemInv.ite (fun _ => ?_) (fun _ => ?_)
    | with_reducible refine MemInv.mem ?_ | with_reducible apply State.journalSend_memInv
    | with_reducible apply State.sealZero_memInv | with_reducible apply State.copyFail_memInv
    | with_reducible refine OptInv.bind ?_ (fun _ _ => ?_) | with_reducible intro _ | with_reducible refine OptInv.some ?_
    | with_reducible exact OptInv.none | with_reducible refine MemInv.of_some (by assumption) ?_ | split

theorem State.tokenPiece_memInv (s : State) (j : Nat) (ctx : Nat) (base : Nat) (p : Nat × Nat × Nat) (h : s.MemInv) :
    (State.tokenPiece s j ctx base p).MemInv := by
  unfold State.tokenPiece
  try dsimp only
  repeat' first
    | with_reducible assumption | with_reducible refine MemInv.ite (fun _ => ?_) (fun _ => ?_)
    | with_reducible refine MemInv.mem ?_ | with_reducible apply State.copyFail_memInv
    | with_reducible apply State.stepXlate_memInv | with_reducible apply State.stepWrite_memInv
    | with_reducible apply State.readRange_memInv | with_reducible apply State.ask_memInv | with_reducible intro _
    | with_reducible refine MemInv.of_fst (by assumption) ?_ | split

theorem State.openGo_memInv (j : Nat) (d : Desc) (base : Nat) (n : Nat) (toks : List W32) (x : State × Bool) (r : Option (List W32))  (hx : x.1.MemInv) :
    (State.openGo j d base n toks x r).MemInv := by
  unfold State.openGo
  try dsimp only
  repeat' first
    | with_reducible assumption | with_reducible refine MemInv.mem ?_ | with_reducible apply State.tokenPiece_memInv
    | with_reducible apply State.openCopies_memInv | with_reducible apply State.copyFail_memInv
    | with_reducible refine MemInv.foldl (fun _ _ _ => ?_) _ ?_ | with_reducible refine MemInv.foldl_fst (fun _ _ _ => ?_) _ ?_
    | with_reducible intro _ | split

theorem State.openNew_memInv (s : State) (d : Desc) (h : s.MemInv) :
    (State.openNew s d).MemInv := by
  unfold State.openNew
  try dsimp only
  repeat' first
    | with_reducible assumption | with_reducible refine MemInv.mem ?_ | simp only [MemInv.mk_iff]
    | with_reducible apply State.accClear_memInv | with_reducible apply State.setFlag_memInv
    | with_reducible apply State.setReg_memInv | with_reducible apply State.stepPop_memInv
    | with_reducible apply State.setSlot_memInv | with_reducible apply State.readFault_memInv
    | with_reducible apply State.stepWrite_memInv | with_reducible apply State.openGo_memInv

theorem execStepOpen_memInv (s : State) (h : s.MemInv) :
    OutInv (execStepOpen s) := by
  unfold execStepOpen
  try dsimp only
  repeat' first
    | with_reducible assumption | with_reducible refine OutInv.next ?_
    | with_reducible refine MemInv.ite (fun _ => ?_) (fun _ => ?_) | with_reducible refine MemInv.mem ?_
    | with_reducible apply State.stepTake_memInv | with_reducible apply State.stepRefuse_memInv
    | with_reducible apply State.stepWait_memInv | with_reducible apply State.openNew_memInv | with_reducible intro _

theorem execStepReplayOpen_memInv (s : State) (h : s.MemInv) :
    OutInv (execStepReplayOpen s) := by
  unfold execStepReplayOpen
  try dsimp only
  repeat' first
    | with_reducible assumption | with_reducible refine OutInv.next ?_
    | with_reducible refine MemInv.ite (fun _ => ?_) (fun _ => ?_) | with_reducible refine MemInv.mem ?_
    | simp only [MemInv.mk_iff] | with_reducible apply State.stepTake_memInv | with_reducible apply State.stepRefuse_memInv
    | with_reducible apply State.accClear_memInv | with_reducible apply State.stepPop_memInv
    | with_reducible apply State.setSlot_memInv | with_reducible apply State.stepWrite_memInv
    | with_reducible apply State.copyFail_memInv | with_reducible apply State.sealZero_memInv | with_reducible intro _
    | with_reducible refine OptInv.some ?_ | with_reducible exact OptInv.none
    | with_reducible refine MemInv.of_fst (by assumption) ?_ | with_reducible refine MemInv.of_some (by assumption) ?_
    | with_reducible refine Mem.Inv.setMarking ?_ _ | split

theorem execJournalCopyDone_memInv (s : State) (h : s.MemInv) :
    OutInv (execJournalCopyDone s) := by
  unfold execJournalCopyDone
  try dsimp only
  repeat' first
    | with_reducible assumption | with_reducible refine OutInv.next ?_
    | with_reducible refine MemInv.ite (fun _ => ?_) (fun _ => ?_) | with_reducible refine MemInv.mem ?_
    | with_reducible apply State.abortSlot_memInv | with_reducible apply State.setErr_memInv
    | with_reducible apply State.event_memInv | with_reducible apply State.setReg_memInv
    | with_reducible apply State.setSlot_memInv | with_reducible apply State.stepTally_memInv | with_reducible intro _ | split

theorem execSlotDone_memInv (s : State) (h : s.MemInv) :
    OutInv (execSlotDone s) := by
  unfold execSlotDone
  try dsimp only
  repeat' first
    | with_reducible assumption | with_reducible refine OutInv.next ?_
    | with_reducible refine MemInv.ite (fun _ => ?_) (fun _ => ?_) | with_reducible refine MemInv.mem ?_
    | with_reducible apply State.stepTakeIn_memInv | with_reducible apply State.stepRefuse_memInv
    | with_reducible apply State.stepTally_memInv | with_reducible apply State.setSlot_memInv
    | with_reducible apply State.stepPop_memInv | with_reducible intro _

theorem State.checkEnd_memInv (s : State) (j : Nat) (d : Desc) (h : s.MemInv) :
    (State.checkEnd s j d).MemInv := by
  unfold State.checkEnd
  try dsimp only
  repeat' first
    | with_reducible assumption | with_reducible refine MemInv.ite (fun _ => ?_) (fun _ => ?_)
    | with_reducible refine MemInv.mem ?_ | with_reducible apply State.normEval_memInv
    | with_reducible apply State.stepTally_memInv | with_reducible apply State.setSlot_memInv

theorem execStepCheck_memInv (s : State) (h : s.MemInv) :
    OutInv (execStepCheck s) := by
  unfold execStepCheck
  try dsimp only
  repeat' first
    | with_reducible assumption | with_reducible refine OutInv.next ?_
    | with_reducible refine MemInv.ite (fun _ => ?_) (fun _ => ?_) | with_reducible refine MemInv.mem ?_
    | with_reducible apply State.checkEnd_memInv | with_reducible apply State.stepTakeIn_memInv
    | with_reducible apply State.setSlot_memInv | with_reducible apply State.stepPop_memInv | with_reducible intro _ | split

theorem State.roundStart_memInv (s : State) (j : Nat) (round : Nat) (h : s.MemInv) :
    (State.roundStart s j round).MemInv := by
  unfold State.roundStart
  try dsimp only
  repeat' first
    | with_reducible assumption | with_reducible refine MemInv.ite (fun _ => ?_) (fun _ => ?_)
    | with_reducible refine MemInv.mem ?_ | with_reducible apply State.stepWrite_memInv
    | with_reducible apply State.setSlot_memInv | with_reducible apply State.wsStart_memInv
    | with_reducible apply State.setCfl_memInv | with_reducible intro _ | with_reducible refine MemInv.of_fst (by assumption) ?_
    | split

theorem State.wsEnd_memInv (s : State) (j : Nat) (h : s.MemInv) :
    (State.wsEnd s j).MemInv := by
  unfold State.wsEnd
  try dsimp only
  repeat' first
    | with_reducible assumption | with_reducible refine MemInv.ite (fun _ => ?_) (fun _ => ?_)
    | with_reducible refine MemInv.mem ?_ | with_reducible apply State.setCfl_memInv
    | with_reducible apply State.collDrop_memInv | with_reducible intro _ | split

theorem State.voteGo_memInv (s : State) (d : Desc) (j : Nat) (k : StepSlot) (h : s.MemInv) :
    (State.voteGo s d j k).MemInv := by
  unfold State.voteGo
  try dsimp only
  repeat' first
    | with_reducible assumption | with_reducible refine MemInv.ite (fun _ => ?_) (fun _ => ?_)
    | with_reducible refine MemInv.mem ?_ | with_reducible apply State.stepWait_memInv
    | with_reducible apply State.stepRefuse_memInv | with_reducible apply State.roundStart_memInv
    | with_reducible apply State.setSlot_memInv | with_reducible apply State.stepPop_memInv | with_reducible intro _ | split

theorem execStepVote_memInv (s : State) (h : s.MemInv) :
    OutInv (execStepVote s) := by
  unfold execStepVote
  try dsimp only
  repeat' first
    | with_reducible assumption | with_reducible refine OutInv.next ?_
    | with_reducible refine MemInv.ite (fun _ => ?_) (fun _ => ?_) | with_reducible refine MemInv.mem ?_
    | with_reducible apply State.stepTakeIn_memInv | with_reducible apply State.stepRefuse_memInv
    | with_reducible apply State.voteGo_memInv | with_reducible apply State.tableAsk_memInv | with_reducible intro _

theorem State.voteTally_memInv (s : State) (j : Nat) (h : s.MemInv) :
    (State.voteTally s j).MemInv := by
  unfold State.voteTally
  try dsimp only
  repeat' first
    | with_reducible assumption | with_reducible refine MemInv.mem ?_ | with_reducible apply State.stepTally_memInv
    | with_reducible apply State.setSlot_memInv | with_reducible intro _ | split

theorem State.stragJudge_memInv (s : State) (recs : List (List W32)) (h : s.MemInv) :
    (State.stragJudge s recs).MemInv := by
  unfold State.stragJudge
  try dsimp only
  repeat' first
    | with_reducible assumption | with_reducible refine MemInv.ite (fun _ => ?_) (fun _ => ?_)
    | with_reducible refine MemInv.mem ?_ | simp only [MemInv.mk_iff]

theorem State.voteFail_memInv (s : State) (j : Nat) (h : s.MemInv) :
    (State.voteFail s j).MemInv := by
  unfold State.voteFail
  try dsimp only
  repeat' first
    | with_reducible assumption | with_reducible refine MemInv.mem ?_ | with_reducible apply State.abortSlot_memInv
    | with_reducible apply State.voteTally_memInv | with_reducible apply State.wsEnd_memInv

theorem execVoteRound1End_memInv (s : State) (h : s.MemInv) :
    OutInv (execVoteRound1End s) := by
  unfold execVoteRound1End
  try dsimp only
  repeat' first
    | with_reducible assumption | with_reducible refine OutInv.next ?_
    | with_reducible refine MemInv.ite (fun _ => ?_) (fun _ => ?_) | with_reducible refine MemInv.mem ?_
    | with_reducible apply State.voteFail_memInv | with_reducible apply State.voteTally_memInv
    | with_reducible apply State.abortSlot_memInv | with_reducible apply State.setErr_memInv
    | with_reducible apply State.stragJudge_memInv | with_reducible apply State.setSlot_memInv | with_reducible intro _ | split

theorem execVoteTimeout_memInv (s : State) (h : s.MemInv) :
    OutInv (execVoteTimeout s) := by
  unfold execVoteTimeout
  try dsimp only
  repeat' first
    | with_reducible assumption | with_reducible refine OutInv.next ?_ | with_reducible refine MemInv.mem ?_
    | with_reducible apply State.voteFail_memInv | with_reducible apply State.advance_memInv | with_reducible intro _ | split

theorem State.sealBroken_memInv (s : State) (h : s.MemInv) :
    (State.sealBroken s).MemInv := by
  unfold State.sealBroken
  try dsimp only
  repeat' first
    | with_reducible assumption | with_reducible refine MemInv.mem ?_ | with_reducible apply State.stepAbort_memInv
    | with_reducible apply State.setErr_memInv

theorem State.sealSent_memInv (s : State) (ps : List (Nat × List OutByte)) (r : Option State) (h : s.MemInv) (ho : OptInv r) :
    (State.sealSent s ps r).MemInv := by
  unfold State.sealSent
  try dsimp only
  repeat' first
    | with_reducible assumption | with_reducible refine MemInv.mem ?_ | with_reducible apply State.sealBroken_memInv
    | with_reducible apply State.event_memInv | with_reducible intro _ | with_reducible refine OptInv.some ?_
    | with_reducible exact OptInv.none | with_reducible refine MemInv.of_some (by assumption) ?_ | exact ho _ rfl | split

theorem State.sealPut_memInv (s : State) (j : Nat) (r : Option (List (Nat × List OutByte))) (h : s.MemInv) :
    (State.sealPut s j r).MemInv := by
  unfold State.sealPut
  try dsimp only
  repeat' first
    | with_reducible assumption | with_reducible refine MemInv.mem ?_ | with_reducible apply State.sealBroken_memInv
    | with_reducible apply State.sealSent_memInv | with_reducible apply State.putWays_memInv
    | with_reducible refine MemInv.foldl (fun _ _ _ => ?_) _ ?_ | with_reducible refine MemInv.foldl_fst (fun _ _ _ => ?_) _ ?_
    | with_reducible refine MemInv.foldl_opt (fun _ _ _ => ?_) _ ?_ | with_reducible refine OptInv.bind ?_ (fun _ _ => ?_)
    | with_reducible intro _ | with_reducible refine OptInv.some ?_ | with_reducible exact OptInv.none
    | with_reducible refine MemInv.of_some (by assumption) ?_ | split

theorem State.sealSend_memInv (s : State) (j : Nat) (ext : List W32) (n : Nat) (h : s.MemInv) :
    (State.sealSend s j ext n).MemInv := by
  unfold State.sealSend
  try dsimp only
  repeat' first
    | with_reducible assumption | with_reducible refine MemInv.mem ?_ | with_reducible apply State.readFault_memInv
    | with_reducible apply State.ownFault_memInv | with_reducible apply State.sealPut_memInv
    | with_reducible refine MemInv.foldl (fun _ _ _ => ?_) _ ?_

theorem execStepSeal_memInv (s : State) (h : s.MemInv) :
    OutInv (execStepSeal s) := by
  unfold execStepSeal
  try dsimp only
  repeat' first
    | with_reducible assumption | with_reducible refine OutInv.next ?_
    | with_reducible refine MemInv.ite (fun _ => ?_) (fun _ => ?_) | with_reducible refine MemInv.mem ?_
    | with_reducible apply State.stepTakeIn_memInv | with_reducible apply State.stepRefuse_memInv
    | with_reducible apply State.readFault_memInv | with_reducible apply State.setSlot_memInv
    | with_reducible apply State.stepPop_memInv | with_reducible apply State.sealSend_memInv
    | with_reducible apply State.roundStart_memInv | with_reducible intro _ | split

theorem execSealCopyDone_memInv (s : State) (h : s.MemInv) :
    OutInv (execSealCopyDone s) := by
  unfold execSealCopyDone
  try dsimp only
  repeat' first
    | with_reducible assumption | with_reducible refine OutInv.next ?_
    | with_reducible refine MemInv.ite (fun _ => ?_) (fun _ => ?_) | with_reducible refine MemInv.mem ?_
    | with_reducible apply State.sealBroken_memInv | with_reducible apply State.ask_memInv | with_reducible intro _ | split

theorem execSealWordReturn_memInv (s : State) (h : s.MemInv) :
    OutInv (execSealWordReturn s) := by
  unfold execSealWordReturn
  try dsimp only
  repeat' first
    | with_reducible assumption | with_reducible refine OutInv.next ?_
    | with_reducible refine MemInv.ite (fun _ => ?_) (fun _ => ?_) | with_reducible refine MemInv.mem ?_
    | with_reducible apply State.abortSlot_memInv | with_reducible apply State.roundStart_memInv
    | with_reducible apply State.setSlot_memInv | with_reducible intro _ | split

theorem State.commitPoint_memInv (s : State) (j : Nat) (h : s.MemInv) :
    (State.commitPoint s j).MemInv := by
  unfold State.commitPoint
  try dsimp only
  repeat' first
    | with_reducible assumption | with_reducible refine MemInv.mem ?_ | simp only [MemInv.mk_iff]
    | with_reducible apply State.unask_memInv | with_reducible apply State.wsEnd_memInv
    | with_reducible apply State.setSlot_memInv | with_reducible apply State.setReg_memInv
    | with_reducible apply State.stepTally_memInv | with_reducible intro _ | with_reducible refine Mem.Inv.setMarking ?_ _
    | split

theorem State.orHere_memInv (s : State) (a : Nat) (v : Nat) (h : s.MemInv) :
    (State.orHere s a v).1.MemInv := by
  unfold State.orHere
  try dsimp only
  repeat' first
    | with_reducible assumption | with_reducible refine MemInv.ite (fun _ => ?_) (fun _ => ?_)
    | with_reducible refine MemInv.mem ?_ | with_reducible apply State.hbmWrite_memInv | with_reducible intro _ | split

theorem State.resolveAsk_memInv (s : State) (j : Nat) (k : Nat) (h : s.MemInv) :
    (State.resolveAsk s j k).MemInv := by
  unfold State.resolveAsk
  try dsimp only
  repeat' first
    | with_reducible assumption | with_reducible refine MemInv.ite (fun _ => ?_) (fun _ => ?_)
    | with_reducible refine MemInv.mem ?_ | with_reducible apply State.orHere_memInv | with_reducible apply State.setSlot_memInv
    | with_reducible apply State.ask_memInv

theorem State.resolve_memInv (s : State) (j : Nat) (lack : List Nat) (h : s.MemInv) :
    (State.resolve s j lack).MemInv := by
  unfold State.resolve
  try dsimp only
  repeat' first
    | with_reducible assumption | with_reducible refine MemInv.ite (fun _ => ?_) (fun _ => ?_)
    | with_reducible refine MemInv.mem ?_ | with_reducible apply State.event_memInv | with_reducible apply State.wsEnd_memInv
    | with_reducible apply State.commitPoint_memInv | with_reducible apply State.resolveAsk_memInv
    | with_reducible apply State.setSlot_memInv | with_reducible refine MemInv.foldl (fun _ _ _ => ?_) _ ?_

theorem execVoteRound2End_memInv (s : State) (h : s.MemInv) :
    OutInv (execVoteRound2End s) := by
  unfold execVoteRound2End
  try dsimp only
  repeat' first
    | with_reducible assumption | with_reducible refine OutInv.next ?_
    | with_reducible refine MemInv.ite (fun _ => ?_) (fun _ => ?_) | with_reducible refine MemInv.mem ?_
    | with_reducible apply State.commitPoint_memInv | with_reducible apply State.resolve_memInv | with_reducible intro _ | split

theorem execSealedTimeout_memInv (s : State) (h : s.MemInv) :
    OutInv (execSealedTimeout s) := by
  unfold execSealedTimeout
  try dsimp only
  repeat' first
    | with_reducible assumption | with_reducible refine OutInv.next ?_
    | with_reducible refine MemInv.ite (fun _ => ?_) (fun _ => ?_) | with_reducible refine MemInv.mem ?_
    | with_reducible apply State.resolve_memInv | with_reducible apply State.advance_memInv | with_reducible intro _ | split

theorem State.againTally_memInv (s : State) (j : Nat) (h : s.MemInv) :
    (State.againTally s j).MemInv := by
  unfold State.againTally
  try dsimp only
  repeat' first
    | with_reducible assumption | with_reducible refine MemInv.mem ?_ | with_reducible apply State.stepTally_memInv
    | with_reducible apply State.setSlot_memInv | with_reducible intro _ | split

theorem execResolutionReturn_memInv (s : State) (h : s.MemInv) :
    OutInv (execResolutionReturn s) := by
  unfold execResolutionReturn
  try dsimp only
  repeat' first
    | with_reducible assumption | with_reducible refine OutInv.next ?_
    | with_reducible refine MemInv.ite (fun _ => ?_) (fun _ => ?_) | with_reducible refine MemInv.mem ?_
    | with_reducible apply State.againTally_memInv | with_reducible apply State.abortSlot_memInv
    | with_reducible apply State.commitPoint_memInv | with_reducible apply State.setErr_memInv
    | with_reducible apply State.setReg_memInv | with_reducible apply State.setSlot_memInv | with_reducible intro _ | split

theorem execStepResolve_memInv (s : State) (h : s.MemInv) :
    OutInv (execStepResolve s) := by
  unfold execStepResolve
  try dsimp only
  repeat' first
    | with_reducible assumption | with_reducible refine OutInv.next ?_ | with_reducible refine MemInv.mem ?_
    | with_reducible apply State.stepTakeIn_memInv | with_reducible apply State.resolve_memInv
    | with_reducible apply State.setSlot_memInv | with_reducible apply State.stepPop_memInv | with_reducible intro _

theorem execStepDecide_memInv (value : W32) (s : State) (h : s.MemInv) :
    OutInv (execStepDecide value s) := by
  unfold execStepDecide
  try dsimp only
  repeat' first
    | with_reducible assumption | with_reducible refine OutInv.next ?_
    | with_reducible refine MemInv.ite (fun _ => ?_) (fun _ => ?_) | with_reducible refine MemInv.mem ?_
    | with_reducible apply State.irqUpdate_memInv | with_reducible apply State.storeBits_memInv
    | with_reducible apply State.commitPoint_memInv | with_reducible apply State.abortSlot_memInv

theorem execStragClr_memInv (value : W32) (s : State) (h : s.MemInv) :
    OutInv (execStragClr value s) := by
  unfold execStragClr
  try dsimp only
  repeat' first
    | with_reducible assumption | with_reducible refine OutInv.next ?_
    | with_reducible refine MemInv.ite (fun _ => ?_) (fun _ => ?_) | with_reducible refine MemInv.mem ?_
    | simp only [MemInv.mk_iff] | with_reducible apply State.irqUpdate_memInv | with_reducible apply State.storeBits_memInv

theorem State.commitFault_memInv (s : State) (bad : Bool) (h : s.MemInv) :
    (State.commitFault s bad).MemInv := by
  unfold State.commitFault
  try dsimp only
  repeat' first
    | with_reducible assumption | with_reducible refine MemInv.ite (fun _ => ?_) (fun _ => ?_)
    | with_reducible refine MemInv.mem ?_ | with_reducible apply State.escalate_memInv
    | with_reducible apply State.setErr_memInv

theorem State.layerUpdate_memInv (s : State) (j : Nat) (sel : Nat → Bool) (h : s.MemInv) :
    (State.layerUpdate s j sel).MemInv := by
  unfold State.layerUpdate
  try dsimp only
  repeat' first
    | with_reducible assumption | with_reducible refine MemInv.ite (fun _ => ?_) (fun _ => ?_)
    | with_reducible refine MemInv.mem ?_ | with_reducible apply State.setSlot_memInv
    | with_reducible apply State.scaleCommit_memInv | with_reducible apply State.normCommit_memInv
    | with_reducible apply State.commitFault_memInv

theorem execStepLayer_memInv (s : State) (h : s.MemInv) :
    OutInv (execStepLayer s) := by
  unfold execStepLayer
  try dsimp only
  repeat' first
    | with_reducible assumption | with_reducible refine OutInv.next ?_
    | with_reducible refine MemInv.ite (fun _ => ?_) (fun _ => ?_) | with_reducible refine MemInv.mem ?_
    | simp only [MemInv.mk_iff] | with_reducible apply State.stepTakeIn_memInv | with_reducible apply State.stepWait_memInv
    | with_reducible apply State.stepPop_memInv | with_reducible apply State.setSlot_memInv
    | with_reducible apply State.layerUpdate_memInv | with_reducible apply State.stepTally_memInv | with_reducible intro _
    | with_reducible refine Mem.Inv.setMarking ?_ _

theorem execCommitEnd_memInv (s : State) (h : s.MemInv) :
    OutInv (execCommitEnd s) := by
  unfold execCommitEnd
  try dsimp only
  repeat' first
    | with_reducible assumption | with_reducible refine OutInv.next ?_
    | with_reducible refine MemInv.ite (fun _ => ?_) (fun _ => ?_) | with_reducible refine MemInv.mem ?_
    | simp only [MemInv.mk_iff] | with_reducible apply State.stepTakeIn_memInv | with_reducible apply State.layerUpdate_memInv
    | with_reducible apply State.stepPop_memInv | with_reducible apply State.noiseCommit_memInv
    | with_reducible apply State.expertCommit_memInv | with_reducible apply State.cursorsAdvance_memInv
    | with_reducible apply State.commitFault_memInv | with_reducible apply State.accClear_memInv
    | with_reducible apply State.pendingDrop_memInv | with_reducible apply State.setReg_memInv
    | with_reducible apply State.setSlot_memInv | with_reducible apply State.digAtCommit_memInv
    | with_reducible apply State.mirrorCommit_memInv | with_reducible apply State.event_memInv
    | with_reducible apply State.mirrorClose_memInv | with_reducible apply State.stepTally_memInv | with_reducible intro _
    | with_reducible refine MemInv.of_fst (by assumption) ?_ | with_reducible refine Mem.Inv.setMarking ?_ _ | split

theorem State.abortScrub_memInv (s : State) (j : Nat) (h : s.MemInv) :
    (State.abortScrub s j).MemInv := by
  unfold State.abortScrub
  try dsimp only
  repeat' first
    | with_reducible assumption | with_reducible refine MemInv.mem ?_ | with_reducible apply State.voteTally_memInv
    | with_reducible apply State.unask_memInv | with_reducible apply State.abandonSample_memInv
    | with_reducible refine MemInv.foldl (fun _ _ _ => ?_) _ ?_

theorem execStepEndSkip_memInv (s : State) (h : s.MemInv) :
    OutInv (execStepEndSkip s) := by
  unfold execStepEndSkip
  try dsimp only
  repeat' first
    | with_reducible assumption | with_reducible refine OutInv.next ?_
    | with_reducible refine MemInv.ite (fun _ => ?_) (fun _ => ?_) | with_reducible refine MemInv.mem ?_
    | with_reducible apply State.stepTake_memInv | with_reducible apply State.stepRefuse_memInv
    | with_reducible apply State.stepTally_memInv | with_reducible apply State.closeSlot_memInv
    | with_reducible apply State.setReg_memInv | with_reducible apply State.cursorsAdvance_memInv
    | with_reducible apply State.abortScrub_memInv | with_reducible apply State.stepPop_memInv | with_reducible intro _

theorem execStepEndDrop_memInv (s : State) (h : s.MemInv) :
    OutInv (execStepEndDrop s) := by
  unfold execStepEndDrop
  try dsimp only
  repeat' first
    | with_reducible assumption | with_reducible refine OutInv.next ?_
    | with_reducible refine MemInv.ite (fun _ => ?_) (fun _ => ?_) | with_reducible refine MemInv.mem ?_
    | with_reducible apply State.stepTake_memInv | with_reducible apply State.stepRefuse_memInv
    | with_reducible apply State.stepTally_memInv | with_reducible apply State.closeSlot_memInv
    | with_reducible apply State.setReg_memInv | with_reducible apply State.abortScrub_memInv
    | with_reducible apply State.stepPop_memInv | with_reducible intro _

theorem execStepAbortAction_memInv (s : State) (h : s.MemInv) :
    OutInv (execStepAbortAction s) := by
  unfold execStepAbortAction
  try dsimp only
  repeat' first
    | with_reducible assumption | with_reducible refine OutInv.next ?_ | with_reducible refine MemInv.mem ?_
    | with_reducible apply State.stepTakeIn_memInv | with_reducible apply State.stepTally_memInv
    | with_reducible apply State.abortSlot_memInv | with_reducible apply State.stepPop_memInv | with_reducible intro _

theorem State.collsEnd_memInv (s : State) (c : Nat) (e : Nat) (h : s.MemInv) :
    (State.collsEnd s c e).MemInv := by
  unfold State.collsEnd
  try dsimp only
  repeat' first
    | with_reducible assumption | with_reducible refine MemInv.ite (fun _ => ?_) (fun _ => ?_)
    | with_reducible refine MemInv.mem ?_ | with_reducible apply State.setCore_memInv
    | with_reducible apply State.tableDrop_memInv | with_reducible apply State.setCfl_memInv
    | with_reducible apply State.collDrop_memInv | with_reducible intro _ | split

theorem execStepDrainDone_memInv (s : State) (h : s.MemInv) :
    OutInv (execStepDrainDone s) := by
  unfold execStepDrainDone
  try dsimp only
  repeat' first
    | with_reducible assumption | with_reducible refine OutInv.next ?_
    | with_reducible refine MemInv.ite (fun _ => ?_) (fun _ => ?_) | with_reducible refine MemInv.mem ?_
    | simp only [MemInv.mk_iff] | with_reducible apply State.collsEnd_memInv | with_reducible apply State.abortScrub_memInv
    | with_reducible apply State.raiseAsync_memInv | with_reducible refine MemInv.foldl (fun _ _ _ => ?_) _ ?_
    | with_reducible refine MemInv.foldl_fst (fun _ _ _ => ?_) _ ?_ | with_reducible intro _
    | with_reducible refine Mem.Inv.setMarking ?_ _ | split

theorem execNextStepWrite_memInv (value : W32) (s : State) (h : s.MemInv) :
    OutInv (execNextStepWrite value s) := by
  unfold execNextStepWrite
  try dsimp only
  repeat' first
    | with_reducible assumption | with_reducible refine OutInv.next ?_
    | with_reducible refine MemInv.ite (fun _ => ?_) (fun _ => ?_) | with_reducible refine MemInv.mem ?_
    | simp only [MemInv.mk_iff] | with_reducible apply State.setErr_memInv | with_reducible apply State.setReg_memInv

theorem execCursorWrite_memInv (k : Fin 8) (wide : Bool) (value : W64) (s : State) (h : s.MemInv) :
    OutInv (execCursorWrite k wide value s) := by
  unfold execCursorWrite
  try dsimp only
  repeat' first
    | with_reducible assumption | with_reducible refine OutInv.next ?_
    | with_reducible refine MemInv.ite (fun _ => ?_) (fun _ => ?_) | with_reducible refine MemInv.mem ?_
    | simp only [MemInv.mk_iff] | with_reducible apply State.setErr_memInv | with_reducible apply State.setReg64_memInv

theorem State.askDone_memInv (s : State) (a : Ask) (ok : Bool) (bs : List OutByte) (h : s.MemInv) :
    (State.askDone s a ok bs).MemInv := by
  unfold State.askDone
  try dsimp only
  repeat' first
    | with_reducible assumption | with_reducible refine MemInv.ite (fun _ => ?_) (fun _ => ?_)
    | with_reducible refine MemInv.mem ?_ | with_reducible apply State.copyFail_memInv
    | with_reducible apply State.stepWrite_memInv | with_reducible apply State.openCopies_memInv
    | with_reducible apply State.sealBroken_memInv | with_reducible apply State.setSlot_memInv
    | with_reducible apply State.stepAbort_memInv | with_reducible apply State.sendFlood_memInv
    | with_reducible apply State.mirrorFail_memInv | with_reducible apply State.sendTag_memInv | with_reducible intro _
    | with_reducible refine MemInv.of_fst (by assumption) ?_ | split

theorem State.stepAnswer_memInv (s : State) (key : Nat) (status : Option Nat) (bs : List OutByte) (h : s.MemInv) :
    (State.stepAnswer s key status bs).MemInv := by
  unfold State.stepAnswer
  try dsimp only
  repeat' first
    | with_reducible assumption | with_reducible refine MemInv.ite (fun _ => ?_) (fun _ => ?_)
    | with_reducible refine MemInv.mem ?_ | simp only [MemInv.mk_iff] | with_reducible apply State.unask_memInv
    | with_reducible apply State.askDone_memInv | with_reducible apply State.event_memInv
    | with_reducible apply State.submit_memInv | with_reducible intro _ | with_reducible refine Mem.Inv.setMarking ?_ _ | split

theorem State.abortFloodGot_memInv (s : State) (origin : Nat) (job : W64) (step : W32) (h : s.MemInv) :
    (State.abortFloodGot s origin job step).MemInv := by
  unfold State.abortFloodGot
  try dsimp only
  repeat' first
    | with_reducible assumption | with_reducible refine MemInv.mem ?_ | with_reducible apply State.abortSlot_memInv
    | with_reducible apply State.event_memInv | with_reducible intro _ | split

end Sys2Proof.Machine
end

