-- ==== Sys2Proof/Laws/KeepLadder.lean ====
section
/-! SUPPORT. What the operations of Machine/Ladder.lean do keeps the invariant of memory. -/
set_option linter.unusedSimpArgs false
namespace Sys2Proof.Machine

theorem State.abortWin_memInv (s : State) (c : Nat) (h : s.MemInv) :
    (State.abortWin s c).MemInv := by
  unfold State.abortWin
  try dsimp only
  repeat' first
    | with_reducible assumption | with_reducible refine MemInv.ite (fun _ => ?_) (fun _ => ?_)
    | with_reducible refine MemInv.mem ?_ | with_reducible apply State.winFault_memInv
    | with_reducible apply State.setWin_memInv

theorem State.abortCoreQ_memInv (s : State) (c : Nat) (n : Nat) (h : s.MemInv) :
    (State.abortCoreQ s c n).MemInv := by
  unfold State.abortCoreQ
  try dsimp only
  repeat' first
    | with_reducible assumption | with_reducible refine MemInv.mem ?_ | with_reducible apply State.setCore_memInv

theorem State.abortDma_memInv (s : State) (c : Nat) (n : Nat) (h : s.MemInv) :
    (State.abortDma s c n).MemInv := by
  unfold State.abortDma
  try dsimp only
  repeat' first
    | with_reducible assumption | with_reducible refine MemInv.ite (fun _ => ?_) (fun _ => ?_)
    | with_reducible refine MemInv.mem ?_ | with_reducible apply State.setDma_memInv | split

theorem State.abortFetch_memInv (s : State) (n : Nat) (o : FetchOp) (h : s.MemInv) :
    (State.abortFetch s n o).MemInv := by
  unfold State.abortFetch
  try dsimp only
  repeat' first
    | with_reducible assumption | with_reducible refine MemInv.ite (fun _ => ?_) (fun _ => ?_)
    | with_reducible refine MemInv.mem ?_ | with_reducible apply State.fetchEnd_memInv
    | with_reducible apply State.putFetch_memInv

theorem State.abortRidge_memInv (s : State) (c : Nat) (n : Nat) (h : s.MemInv) :
    (State.abortRidge s c n).MemInv := by
  unfold State.abortRidge
  try dsimp only
  repeat' first
    | with_reducible assumption | with_reducible refine MemInv.mem ?_ | with_reducible apply State.setRidge_memInv
    | with_reducible apply State.abortFetch_memInv | with_reducible refine MemInv.foldl (fun _ _ _ => ?_) _ ?_

theorem State.abortDie_memInv (s : State) (c : Nat) (k : Nat) (h : s.MemInv) :
    (State.abortDie s c k).MemInv := by
  unfold State.abortDie
  try dsimp only
  repeat' first
    | with_reducible assumption | with_reducible refine MemInv.ite (fun _ => ?_) (fun _ => ?_)
    | with_reducible refine MemInv.mem ?_ | with_reducible apply State.setDie_memInv

theorem State.abortCfl_memInv (s : State) (c : Nat) (e : Nat) (h : s.MemInv) :
    (State.abortCfl s c e).MemInv := by
  unfold State.abortCfl
  try dsimp only
  repeat' first
    | with_reducible assumption | with_reducible refine MemInv.mem ?_ | with_reducible apply State.collsEnd_memInv
    | with_reducible apply State.setCfl_memInv

theorem State.abortSignal_memInv (s : State) (c : Nat) (n : Nat) (h : s.MemInv) :
    (State.abortSignal s c n).MemInv := by
  unfold State.abortSignal
  try dsimp only
  repeat' first
    | with_reducible assumption | with_reducible refine MemInv.ite (fun _ => ?_) (fun _ => ?_)
    | with_reducible refine MemInv.mem ?_ | with_reducible apply State.raiseAsync_memInv

theorem State.abortCtx_memInv (s : State) (c : Nat) (h : s.MemInv) :
    (State.abortCtx s c).MemInv := by
  unfold State.abortCtx
  try dsimp only
  repeat' first
    | with_reducible assumption | with_reducible refine MemInv.ite (fun _ => ?_) (fun _ => ?_)
    | with_reducible refine MemInv.mem ?_ | simp only [MemInv.mk_iff] | with_reducible apply State.abortWin_memInv
    | with_reducible apply State.abortDie_memInv | with_reducible apply State.abortCoreQ_memInv
    | with_reducible apply State.settleOps_memInv | with_reducible apply State.abortRidge_memInv
    | with_reducible apply State.abortDma_memInv | with_reducible apply State.abortCfl_memInv
    | with_reducible apply State.setTread_memInv | with_reducible apply State.abortSignal_memInv
    | with_reducible apply State.stepAbort_memInv | with_reducible refine MemInv.foldl (fun _ _ _ => ?_) _ ?_

theorem execContextAbort_memInv (part : Option (Fin 4)) (value : W32) (s : State) (h : s.MemInv) :
    OutInv (execContextAbort part value s) := by
  unfold execContextAbort
  try dsimp only
  repeat' first
    | with_reducible assumption | with_reducible refine OutInv.next ?_
    | with_reducible refine MemInv.ite (fun _ => ?_) (fun _ => ?_) | with_reducible refine MemInv.mem ?_
    | simp only [MemInv.mk_iff] | with_reducible apply State.irqUpdate_memInv | with_reducible apply State.storeBits_memInv
    | with_reducible apply State.abortCtx_memInv

theorem State.opAt_memInv (s : State) (n : Nat) (kind : OpKind) (i : Nat) (h : s.MemInv) :
    ∀ t, State.opAt s n kind i = some t → t.2.2.MemInv := by
  intro t e
  unfold State.opAt at e
  dsimp only at e
  split at e
  · simp only [Option.map_eq_some_iff] at e
    obtain ⟨o, _, rfl⟩ := e
    dsimp only
    split
    · exact State.endTile_memInv _ _ _ (State.endTile_memInv _ _ _ h)
    · exact State.endTile_memInv _ _ _ h
  · simp only [Option.map_eq_some_iff] at e
    obtain ⟨o, _, rfl⟩ := e
    exact State.setRidge_memInv _ _ _ h
  · simp only [Option.map_eq_some_iff] at e
    obtain ⟨o, _, rfl⟩ := e
    exact State.dropFetch_memInv _ _ _ h

theorem execOpTimeout_memInv (ridge : Fin 64) (kind : OpKind) (op : Fin 64) (s : State) (h : s.MemInv) :
    OutInv (execOpTimeout ridge kind op s) := by
  unfold execOpTimeout
  dsimp only
  refine OutInv.next ?_
  split
  · rename_i c since t _ e
    have ht : t.MemInv := State.opAt_memInv s _ _ _ h _ e
    exact State.stepAbort_memInv _ _ (State.abortCtx_memInv _ _ (State.setRidge_memInv _ _ _ (State.advance_memInv _ _ _ ht)))
  · exact h

theorem State.quiesceChecks_memInv (s : State) (n : Nat) (h : s.MemInv) :
    (State.quiesceChecks s n).MemInv := by
  unfold State.quiesceChecks
  try dsimp only
  repeat' first
    | with_reducible assumption | with_reducible refine MemInv.mem ?_ | with_reducible apply State.abandonSample_memInv
    | with_reducible refine MemInv.foldl (fun _ _ _ => ?_) _ ?_

theorem State.quiesceRidge_memInv (s : State) (n : Nat) (h : s.MemInv) :
    (State.quiesceRidge s n).MemInv := by
  unfold State.quiesceRidge
  try dsimp only
  repeat' first
    | with_reducible assumption | with_reducible refine MemInv.mem ?_ | simp only [MemInv.mk_iff]
    | with_reducible apply State.abortCtx_memInv | with_reducible apply State.runStop_memInv
    | with_reducible apply State.quiesceChecks_memInv | with_reducible apply State.setRidge_memInv
    | with_reducible apply State.setFlag_memInv | with_reducible refine MemInv.foldl (fun _ _ _ => ?_) _ ?_

theorem State.quiesceDma_memInv (s : State) (c : Nat) (h : s.MemInv) :
    (State.quiesceDma s c).MemInv := by
  unfold State.quiesceDma
  try dsimp only
  repeat' first
    | with_reducible assumption | with_reducible refine MemInv.mem ?_ | with_reducible apply State.abortCtx_memInv
    | with_reducible apply State.setDma_memInv | with_reducible apply State.dmaClear_memInv
    | with_reducible refine MemInv.foldl (fun _ _ _ => ?_) _ ?_

theorem State.quiesceCfl_memInv (s : State) (e : Nat) (h : s.MemInv) :
    (State.quiesceCfl s e).MemInv := by
  unfold State.quiesceCfl
  try dsimp only
  repeat' first
    | with_reducible assumption | with_reducible refine MemInv.mem ?_ | with_reducible apply State.abortCtx_memInv
    | with_reducible apply State.runStop_memInv | with_reducible apply State.setCore_memInv
    | with_reducible apply State.setCfl_memInv | with_reducible apply State.setTread_memInv
    | with_reducible refine MemInv.foldl (fun _ _ _ => ?_) _ ?_

theorem execRidgeQuiesce_memInv (ridge : Fin 64) (value : W32) (s : State) (h : s.MemInv) :
    OutInv (execRidgeQuiesce ridge value s) := by
  unfold execRidgeQuiesce
  try dsimp only
  repeat' first
    | with_reducible assumption | with_reducible refine OutInv.next ?_
    | with_reducible refine MemInv.ite (fun _ => ?_) (fun _ => ?_) | with_reducible refine MemInv.mem ?_
    | with_reducible apply State.irqUpdate_memInv | with_reducible apply State.storeBits_memInv
    | with_reducible apply State.setRidge_memInv | with_reducible apply State.stepAbort_memInv
    | with_reducible apply State.quiesceRidge_memInv

theorem execDmaQuiesce_memInv (c : Fin 32) (value : W32) (s : State) (h : s.MemInv) :
    OutInv (execDmaQuiesce c value s) := by
  unfold execDmaQuiesce
  try dsimp only
  repeat' first
    | with_reducible assumption | with_reducible refine OutInv.next ?_
    | with_reducible refine MemInv.ite (fun _ => ?_) (fun _ => ?_) | with_reducible refine MemInv.mem ?_
    | with_reducible apply State.stepAbort_memInv | with_reducible apply State.quiesceDma_memInv
    | with_reducible apply State.irqUpdate_memInv | with_reducible apply State.storeBits_memInv

theorem execCflQuiesce_memInv (e : Fin 8) (value : W32) (s : State) (h : s.MemInv) :
    OutInv (execCflQuiesce e value s) := by
  unfold execCflQuiesce
  try dsimp only
  repeat' first
    | with_reducible assumption | with_reducible refine OutInv.next ?_
    | with_reducible refine MemInv.ite (fun _ => ?_) (fun _ => ?_) | with_reducible refine MemInv.mem ?_
    | with_reducible apply State.stepAbort_memInv | with_reducible apply State.quiesceCfl_memInv
    | with_reducible apply State.irqUpdate_memInv | with_reducible apply State.storeBits_memInv

theorem State.quiescePart_memInv (s : State) (p : Nat) (h : s.MemInv) :
    (State.quiescePart s p).MemInv := by
  unfold State.quiescePart
  try dsimp only
  repeat' first
    | with_reducible assumption | with_reducible refine MemInv.ite (fun _ => ?_) (fun _ => ?_)
    | with_reducible refine MemInv.mem ?_ | simp only [MemInv.mk_iff] | with_reducible apply State.abortCtx_memInv
    | with_reducible apply State.quiesceRidge_memInv | with_reducible apply State.runStop_memInv
    | with_reducible apply State.setCore_memInv | with_reducible apply State.quiesceDma_memInv
    | with_reducible apply State.setTread_memInv | with_reducible apply State.stepAbort_memInv
    | with_reducible refine MemInv.foldl (fun _ _ _ => ?_) _ ?_

theorem State.goChipReset_memInv (s : State) (h : s.MemInv) :
    (State.goChipReset s).MemInv := by
  unfold State.goChipReset
  try dsimp only
  repeat' first
    | with_reducible assumption | with_reducible refine MemInv.mem ?_ | with_reducible apply State.askTray_memInv
    | with_reducible apply State.escalate_memInv

theorem State.goPowerCycle_memInv (s : State) (h : s.MemInv) :
    (State.goPowerCycle s).MemInv := by
  unfold State.goPowerCycle
  try dsimp only
  repeat' first
    | with_reducible assumption | with_reducible refine MemInv.mem ?_ | simp only [MemInv.mk_iff]
    | with_reducible apply State.askTray_memInv | with_reducible apply State.escRecord_memInv

theorem State.devCtl_memInv (s : State) (v : W32) (h : s.MemInv) :
    (State.devCtl s v).MemInv := by
  unfold State.devCtl
  try dsimp only
  repeat' first
    | with_reducible assumption | with_reducible refine MemInv.ite (fun _ => ?_) (fun _ => ?_)
    | with_reducible refine MemInv.mem ?_ | with_reducible apply State.irqUpdate_memInv
    | with_reducible apply State.storeBits_memInv | with_reducible apply State.partDone_memInv
    | with_reducible apply State.quiescePart_memInv | with_reducible apply State.setFlag_memInv
    | with_reducible apply State.goPowerCycle_memInv | with_reducible apply State.goChipReset_memInv

theorem execPartitionQuiesce_memInv (value : W32) (s : State) (h : s.MemInv) :
    OutInv (execPartitionQuiesce value s) := by
  unfold execPartitionQuiesce
  try dsimp only
  repeat' first
    | with_reducible assumption | with_reducible refine OutInv.next ?_
    | with_reducible refine MemInv.ite (fun _ => ?_) (fun _ => ?_) | with_reducible refine MemInv.mem ?_
    | with_reducible apply State.devCtl_memInv

theorem execEscGoChipReset_memInv (value : W32) (s : State) (h : s.MemInv) :
    OutInv (execEscGoChipReset value s) := by
  unfold execEscGoChipReset
  try dsimp only
  repeat' first
    | with_reducible assumption | with_reducible refine OutInv.next ?_
    | with_reducible refine MemInv.ite (fun _ => ?_) (fun _ => ?_) | with_reducible refine MemInv.mem ?_
    | with_reducible apply State.devCtl_memInv

theorem execEscGoPowerCycle_memInv (value : W32) (s : State) (h : s.MemInv) :
    OutInv (execEscGoPowerCycle value s) := by
  unfold execEscGoPowerCycle
  try dsimp only
  repeat' first
    | with_reducible assumption | with_reducible refine OutInv.next ?_
    | with_reducible refine MemInv.ite (fun _ => ?_) (fun _ => ?_) | with_reducible refine MemInv.mem ?_
    | with_reducible apply State.devCtl_memInv

theorem execQuiesceTimeout_memInv (ridge : Fin 64) (s : State) (h : s.MemInv) :
    OutInv (execQuiesceTimeout ridge s) := by
  unfold execQuiesceTimeout
  try dsimp only
  repeat' first
    | with_reducible assumption | with_reducible refine OutInv.next ?_
    | with_reducible refine MemInv.ite (fun _ => ?_) (fun _ => ?_) | with_reducible refine MemInv.mem ?_
    | with_reducible apply State.escalate_memInv | with_reducible apply State.advance_memInv
    | with_reducible apply State.wreck_memInv

theorem State.chipReset_memInv (s : State) (_ : s.MemInv) : (State.chipReset s).MemInv := by
  refine ⟨rfl, rfl, fun k => by simp [NatSet.has, State.chipReset], ?_, ?_, ?_⟩
  · rintro ⟨⟩
  · rintro b ⟨⟩
  · rintro l ⟨⟩

theorem execChipReset_memInv (cause : ResetCause) (s : State) (h : s.MemInv) :
    OutInv (execChipReset cause s) := by
  unfold execChipReset
  try dsimp only
  repeat' first
    | with_reducible assumption | with_reducible refine OutInv.next ?_
    | with_reducible refine MemInv.ite (fun _ => ?_) (fun _ => ?_) | with_reducible refine MemInv.mem ?_
    | simp only [MemInv.mk_iff] | with_reducible apply State.chipReset_memInv | with_reducible refine Mem.Inv.setMarking ?_ _
    | split

theorem execPcieLinkLoss_memInv (s : State) (h : s.MemInv) :
    OutInv (execPcieLinkLoss s) := by
  unfold execPcieLinkLoss
  try dsimp only
  repeat' first
    | with_reducible assumption | with_reducible refine OutInv.next ?_
    | with_reducible refine MemInv.ite (fun _ => ?_) (fun _ => ?_) | with_reducible refine MemInv.mem ?_
    | with_reducible apply State.chipReset_memInv

end Sys2Proof.Machine
end

