-- ==== Sys2Proof/Laws/KeepLink.lean ====
section
/-! SUPPORT. What the operations of Machine/Link.lean do keeps the invariant of memory. -/
set_option linter.unusedSimpArgs false
namespace Sys2Proof.Machine

theorem State.emitFlits_memInv (s : State) (p : Nat) (fs : List Flit) (h : s.MemInv) :
    (State.emitFlits s p fs).MemInv := by
  unfold State.emitFlits
  try dsimp only
  repeat' first
    | with_reducible assumption | with_reducible refine MemInv.mem ?_ | with_reducible apply State.event_memInv
    | with_reducible apply State.emit_memInv | with_reducible refine MemInv.foldl (fun _ _ _ => ?_) _ ?_

theorem State.pump_memInv (s : State) (p : Nat) (h : s.MemInv) :
    (State.pump s p).MemInv := by
  unfold State.pump
  try dsimp only
  repeat' first
    | with_reducible assumption | with_reducible refine MemInv.mem ?_ | with_reducible apply State.emitFlits_memInv
    | with_reducible apply State.setPort_memInv

theorem State.pumpAck_memInv (s : State) (p : Nat) (h : s.MemInv) :
    (State.pumpAck s p).MemInv := by
  unfold State.pumpAck
  try dsimp only
  repeat' first
    | with_reducible assumption | with_reducible refine MemInv.ite (fun _ => ?_) (fun _ => ?_)
    | with_reducible refine MemInv.mem ?_ | with_reducible apply State.emitFlits_memInv
    | with_reducible apply State.setPort_memInv

theorem State.sendOwn_memInv (s : State) (p : Nat) (ty : Nat) (ss : List Slot) (h : s.MemInv) :
    (State.sendOwn s p ty ss).MemInv := by
  unfold State.sendOwn
  try dsimp only
  repeat' first
    | with_reducible assumption | with_reducible refine MemInv.mem ?_ | with_reducible apply State.pump_memInv
    | with_reducible apply State.setPort_memInv

theorem State.sendBytes_memInv (s : State) (p : Nat) (ty : Nat) (bs : List Byte) (h : s.MemInv) :
    (State.sendBytes s p ty bs).MemInv := by
  unfold State.sendBytes
  try dsimp only
  repeat' first
    | with_reducible assumption | with_reducible refine MemInv.mem ?_ | with_reducible apply State.sendOwn_memInv
    | with_reducible refine MemInv.foldl (fun _ _ _ => ?_) _ ?_

theorem State.enqueue_memInv (s : State) (p : Nat) (e : TxEnt) (h : s.MemInv) :
    (State.enqueue s p e).MemInv := by
  unfold State.enqueue
  try dsimp only
  repeat' first
    | with_reducible assumption | with_reducible refine MemInv.ite (fun _ => ?_) (fun _ => ?_)
    | with_reducible refine MemInv.mem ?_ | with_reducible apply State.pump_memInv | with_reducible apply State.setPort_memInv

theorem State.sendLinks_memInv (s : State) (h : s.MemInv) :
    (State.sendLinks s).MemInv := by
  unfold State.sendLinks
  try dsimp only
  repeat' first
    | with_reducible assumption | with_reducible refine MemInv.mem ?_ | with_reducible apply State.enqueue_memInv
    | with_reducible refine MemInv.foldl (fun _ _ _ => ?_) _ ?_

theorem State.leaveUp_memInv (s : State) (p : Nat) (st : PortSt) (h : s.MemInv) :
    (State.leaveUp s p st).MemInv := by
  unfold State.leaveUp
  try dsimp only
  repeat' first
    | with_reducible assumption | with_reducible refine MemInv.ite (fun _ => ?_) (fun _ => ?_)
    | with_reducible refine MemInv.mem ?_ | simp only [MemInv.mk_iff] | with_reducible apply State.setPort_memInv
    | with_reducible apply State.setErr_memInv | with_reducible apply State.sendLinks_memInv

theorem State.fencePort_memInv (s : State) (p : Nat) (cause : Nat) (h : s.MemInv) :
    (State.fencePort s p cause).MemInv := by
  unfold State.fencePort
  try dsimp only
  repeat' first
    | with_reducible assumption | with_reducible refine MemInv.ite (fun _ => ?_) (fun _ => ?_)
    | with_reducible refine MemInv.mem ?_ | with_reducible apply State.leaveUp_memInv
    | with_reducible apply State.emitFlits_memInv | with_reducible apply State.setErr_memInv
    | with_reducible apply State.setPort_memInv

theorem State.absent_memInv (s : State) (p : Nat) (h : s.MemInv) :
    (State.absent s p).MemInv := by
  unfold State.absent
  try dsimp only
  repeat' first
    | with_reducible assumption | with_reducible refine MemInv.ite (fun _ => ?_) (fun _ => ?_)
    | with_reducible refine MemInv.mem ?_ | with_reducible apply State.fencePort_memInv
    | with_reducible apply State.setPort_memInv | with_reducible apply State.leaveUp_memInv

end Sys2Proof.Machine
end

