-- ==== Sys2Proof/Laws/KeepSign.lean ====
section
/-! SUPPORT. What the operations of Machine/Sign.lean do keeps the invariant of memory. -/
set_option linter.unusedSimpArgs false
namespace Sys2Proof.Machine

theorem State.verified_memInv (s : State) (key : List Byte) (context : List Byte) (msg : List Byte) (sig : List Byte) (h : s.MemInv) :
    (State.verified s key context msg sig).1.MemInv := by
  unfold State.verified
  try dsimp only
  repeat' first
    | with_reducible assumption | with_reducible refine MemInv.mem ?_ | with_reducible apply State.event_memInv

theorem State.signed_memInv (s : State) (context : List Byte) (msg : List Byte) (h : s.MemInv) :
    (State.signed s context msg).1.MemInv := by
  unfold State.signed
  try dsimp only
  repeat' first
    | with_reducible assumption | with_reducible refine MemInv.ite (fun _ => ?_) (fun _ => ?_)
    | with_reducible refine MemInv.mem ?_ | with_reducible apply State.verified_memInv | with_reducible apply State.event_memInv
    | with_reducible apply State.setErr_memInv | with_reducible refine MemInv.of_fst (by assumption) ?_ | split

end Sys2Proof.Machine
end

