-- ==== Sys2Proof/Laws/KeepMailbox.lean ====
section
/-! SUPPORT. What the operations of Machine/Mailbox.lean do keeps the invariant of memory. -/
set_option linter.unusedSimpArgs false
namespace Sys2Proof.Machine

theorem execMailboxGo_memInv (value : W32) (s : State) (h : s.MemInv) : OutInv (execMailboxGo value s) := by
  refine OutInv.next ?_
  have h1 : (s.setReg .boot 0x110 (w32 (fld value 1 0))).MemInv := State.setReg_memInv _ _ _ _ h
  dsimp only
  split
  · exact h
  · split
    · exact h1
    · split
      · exact State.setErr_memInv _ _ _ h1
      · split
        · exact State.setErr_memInv _ _ _ h1
        · exact Mem.Inv.setHanded h1 _

theorem State.svcAsk_memInv (s : State) (rs : List FReq) (h : s.MemInv) :
    (State.svcAsk s rs).MemInv := by
  unfold State.svcAsk
  try dsimp only
  repeat' first
    | with_reducible assumption | with_reducible refine MemInv.ite (fun _ => ?_) (fun _ => ?_)
    | with_reducible refine MemInv.mem ?_ | simp only [MemInv.mk_iff] | with_reducible apply State.submit_memInv
    | with_reducible refine MemInv.foldl (fun _ _ _ => ?_) _ ?_ | with_reducible refine MemInv.foldl_fst (fun _ _ _ => ?_) _ ?_
    | with_reducible intro _ | with_reducible refine Mem.Inv.setMarking ?_ _ | split

theorem State.svcPut_memInv (s : State) (key : Nat) (bs : List OutByte) (h : s.MemInv) : (State.svcPut s key bs).MemInv :=
  Mem.Inv.keepTouched h (State.putLocal_memInv s key _ h)

theorem State.svcWrite_memInv (s : State) (ctx : Nat) (a : Nat) (bs : List OutByte) (h : s.MemInv) :
    (State.svcWrite s ctx a bs).MemInv := by
  unfold State.svcWrite
  try dsimp only
  repeat' first
    | with_reducible assumption | with_reducible refine MemInv.mem ?_ | simp only [MemInv.mk_iff]
    | with_reducible apply State.svcPut_memInv | with_reducible apply State.submit_memInv
    | with_reducible refine MemInv.foldl (fun _ _ _ => ?_) _ ?_ | with_reducible refine MemInv.foldl_fst (fun _ _ _ => ?_) _ ?_
    | with_reducible intro _ | with_reducible refine Mem.Inv.setMarking ?_ _ | split

theorem State.svcXlate_memInv (s : State) (reason : Nat) (ctx : Nat) (a : Nat) (h : s.MemInv) :
    (State.svcXlate s reason ctx a).MemInv := by
  unfold State.svcXlate
  try dsimp only
  repeat' first
    | with_reducible assumption | with_reducible refine MemInv.ite (fun _ => ?_) (fun _ => ?_)
    | with_reducible refine MemInv.mem ?_ | with_reducible apply State.recordXlate_memInv

theorem State.svcDrop_memInv (s : State) (h : s.MemInv) : (State.svcDrop s).MemInv := by
  unfold State.svcDrop
  extract_lets t rest
  have ht : t.MemInv := MemInv.ite (fun _ => h) (fun _ => State.fresh_memInv _ h)
  clear_value t
  simp only [MemInv.mk_iff]
  split
  · exact Mem.Inv.noTouch ht
  · exact ht

theorem State.svcFinish_memInv (s : State) (ctx : Nat) (tally : Nat) (a : Nat) (ws : List (Nat × W32)) (h : s.MemInv) :
    (State.svcFinish s ctx tally a ws).MemInv := by
  unfold State.svcFinish
  try dsimp only
  repeat' first
    | with_reducible assumption | with_reducible refine MemInv.mem ?_ | with_reducible apply State.svcWrite_memInv
    | with_reducible apply State.svcDrop_memInv | with_reducible apply State.event_memInv
    | with_reducible apply State.addTally_memInv | with_reducible refine MemInv.foldl (fun _ _ _ => ?_) _ ?_

/-- The state that a service ends with keeps the invariant. -/
def ResInv (r : SvcRes) : Prop := ∀ t st ws wr, r = .done t st ws wr → t.MemInv

theorem ResInv.done {t : State} {st : Nat} {ws : List (Nat × W32)} {wr : List (Nat × List OutByte)} (h : t.MemInv) :
    ResInv (.done t st ws wr) := by rintro _ _ _ _ ⟨⟩; exact h
theorem ResInv.ite {c : Prop} [Decidable c] {a b : SvcRes} (ha : ResInv a) (hb : ResInv b) : ResInv (if c then a else b) := by
  split
  · exact ha
  · exact hb
theorem ResInv.more {rs : List FReq} : ResInv (.more rs) := by rintro _ _ _ _ ⟨⟩

theorem State.svcEnd_memInv (s : State) (status : Nat) (h : s.MemInv) : ResInv (State.svcEnd s status) := ResInv.done h

theorem State.svcUse_memInv (s : State) (ctx poison : Nat) (i : SvcIn) (f : List Byte → SvcRes) (h : s.MemInv)
    (hf : ∀ bs, ResInv (f bs)) : ResInv (State.svcUse s ctx poison i f) := by
  unfold State.svcUse
  split
  · exact ResInv.more
  · exact State.svcEnd_memInv _ _ (State.svcXlate_memInv _ _ _ _ h)
  · split
    · exact State.svcEnd_memInv _ _ h
    · exact hf _

theorem State.svcApply_memInv (s : State) (sv a ctx : Nat) (w : List W32) (r : SvcRes) (h : s.MemInv) (hr : ResInv r) :
    (State.svcApply s sv a ctx w r).MemInv := by
  unfold State.svcApply
  cases r with
  | more rs => exact State.svcAsk_memInv _ _ h
  | done t st ws wr =>
    have ht : t.MemInv := hr _ _ _ _ rfl
    dsimp only
    split
    · with_reducible apply State.svcFinish_memInv
      with_reducible apply State.svcXlate_memInv
      exact ht
    · have hu : (wr.foldl (fun u x => u.svcWrite ctx x.1 x.2) t).MemInv := by
        with_reducible refine MemInv.foldl (fun u x hu => ?_) _ ht
        with_reducible apply State.svcWrite_memInv
        exact hu
      split
      · with_reducible apply State.svcFinish_memInv
        exact hu
      · simp only [MemInv.mk_iff]
        exact hu

theorem State.svcServe_memInv (s : State) (sv : Nat) (mine : List W32 → Bool) (job : State → List W32 → SvcRes) (h : s.MemInv)
    (hj : ∀ w, ResInv (job s w)) : (State.svcServe s sv mine job).MemInv := by
  unfold State.svcServe
  repeat' first
    | with_reducible assumption | with_reducible apply State.svcAsk_memInv | with_reducible apply State.svcDrop_memInv
    | with_reducible apply State.svcXlate_memInv | with_reducible apply State.svcApply_memInv | with_reducible exact hj _
    | split | dsimp only

theorem State.svcAnswer_memInv (s : State) (a : Nat) (n : Nat) (wr : Bool) (ok : Bool) (bs : List OutByte) (h : s.MemInv) :
    (State.svcAnswer s a n wr ok bs).MemInv := by
  unfold State.svcAnswer
  try dsimp only
  repeat' first
    | with_reducible assumption | with_reducible refine MemInv.ite (fun _ => ?_) (fun _ => ?_)
    | with_reducible refine MemInv.mem ?_ | simp only [MemInv.mk_iff] | with_reducible apply State.svcFinish_memInv
    | with_reducible apply State.svcXlate_memInv | with_reducible intro _ | with_reducible refine Mem.Inv.setMarking ?_ _
    | split

theorem State.ckptPages_memInv (s : State) (w : List W32) (h : List Byte) (bad : Bool) (r : Except Nat (List Byte × Bool)) (hm : s.MemInv) :
    ResInv (State.ckptPages s w h bad r) := by
  unfold State.ckptPages
  try dsimp only
  repeat' first
    | with_reducible assumption | with_reducible refine ResInv.done ?_ | with_reducible exact ResInv.more
    | with_reducible refine MemInv.ite (fun _ => ?_) (fun _ => ?_) | with_reducible refine MemInv.mem ?_
    | with_reducible apply State.svcEnd_memInv | with_reducible apply State.svcXlate_memInv | with_reducible intro _ | split

theorem State.ckptHead_memInv (s : State) (w : List W32) (r : Except Nat (List Byte × Bool)) (h : s.MemInv) :
    ResInv (State.ckptHead s w r) := by
  unfold State.ckptHead
  try dsimp only
  repeat' first
    | with_reducible assumption | with_reducible refine ResInv.done ?_ | with_reducible exact ResInv.more
    | with_reducible refine MemInv.ite (fun _ => ?_) (fun _ => ?_) | with_reducible refine MemInv.mem ?_
    | with_reducible apply State.svcEnd_memInv | with_reducible apply State.svcXlate_memInv
    | with_reducible apply State.ckptPages_memInv | with_reducible intro _ | split

theorem State.ckptDigest_memInv (s : State) (w : List W32) (h : s.MemInv) :
    ResInv (State.ckptDigest s w) := by
  unfold State.ckptDigest
  try dsimp only
  repeat' first
    | with_reducible assumption | with_reducible refine ResInv.done ?_ | with_reducible exact ResInv.more
    | with_reducible refine MemInv.mem ?_ | with_reducible apply State.ckptHead_memInv

theorem State.ckptTables_memInv (s : State) (w : List W32) (h : s.MemInv) :
    ResInv (State.ckptTables s w) := by
  unfold State.ckptTables
  try dsimp only
  repeat' first
    | with_reducible assumption | with_reducible refine ResInv.done ?_ | with_reducible exact ResInv.more
    | with_reducible refine MemInv.ite (fun _ => ?_) (fun _ => ?_) | with_reducible refine MemInv.mem ?_
    | with_reducible apply State.svcEnd_memInv | with_reducible intro _ | split

theorem State.ckptSign_memInv (s : State) (w : List W32) (h : s.MemInv) :
    ResInv (State.ckptSign s w) := by
  unfold State.ckptSign
  try dsimp only
  repeat' first
    | with_reducible assumption | with_reducible refine ResInv.done ?_ | with_reducible exact ResInv.more
    | with_reducible refine MemInv.ite (fun _ => ?_) (fun _ => ?_) | with_reducible refine MemInv.mem ?_
    | with_reducible apply State.svcEnd_memInv | with_reducible apply State.svcUse_memInv
    | with_reducible apply State.signed_memInv | with_reducible intro _ | with_reducible refine MemInv.of_fst (by assumption) ?_
    | split

theorem State.verifyBytes_memInv (s : State) (w : List W32) (h : s.MemInv) :
    ResInv (State.verifyBytes s w) := by
  unfold State.verifyBytes
  try dsimp only
  repeat' first
    | with_reducible assumption | with_reducible refine ResInv.done ?_ | with_reducible exact ResInv.more
    | with_reducible refine MemInv.ite (fun _ => ?_) (fun _ => ?_) | with_reducible refine MemInv.mem ?_
    | with_reducible apply State.svcUse_memInv | with_reducible intro _

theorem State.verifyPages_memInv (s : State) (w : List W32) (h : s.MemInv) : ResInv (State.verifyPages s w) := by
  unfold State.verifyPages
  extract_lets n
  split
  · exact State.svcEnd_memInv _ _ h
  · generalize s.svcRead (sbCtx w) (ckSrc w) (ckLen w) = r1
    generalize s.svcRead (sbCtx w) (ckDst w) (32 * n) = r2
    split
    · split
      · exact State.svcEnd_memInv _ _ h
      · extract_lets list d
        split
        · exact ResInv.done h
        · exact ResInv.done h
    · exact State.svcUse_memInv _ _ _ _ _ h fun _ => State.svcEnd_memInv _ _ h

theorem State.verifySig_memInv (s : State) (w : List W32) (h : s.MemInv) :
    ResInv (State.verifySig s w) := by
  unfold State.verifySig
  try dsimp only
  repeat' first
    | with_reducible assumption | with_reducible refine ResInv.done ?_ | with_reducible exact ResInv.more
    | with_reducible refine MemInv.ite (fun _ => ?_) (fun _ => ?_) | with_reducible refine MemInv.mem ?_
    | with_reducible apply State.svcUse_memInv | with_reducible apply State.verified_memInv | with_reducible intro _

theorem State.ckptLoad_memInv (s : State) (w : List W32) (h : s.MemInv) :
    ResInv (State.ckptLoad s w) := by
  unfold State.ckptLoad
  try dsimp only
  repeat' first
    | with_reducible assumption | with_reducible refine ResInv.done ?_ | with_reducible exact ResInv.more
    | with_reducible refine MemInv.ite (fun _ => ?_) (fun _ => ?_) | with_reducible refine MemInv.mem ?_
    | with_reducible apply State.svcEnd_memInv | with_reducible apply State.svcUse_memInv
    | with_reducible apply State.winWrite_memInv | with_reducible intro _ | split

theorem SvcRes.plain_memInv {r : SvcRes} (h : ResInv r) : ResInv r.plain := by
  unfold SvcRes.plain
  split
  · exact ResInv.done (h _ _ _ _ rfl)
  · exact h
theorem State.ckpt_memInv (s : State) (mine : List W32 → Bool) (job : State → List W32 → SvcRes) (h : s.MemInv)
    (hj : ∀ w, ResInv (job s w)) : (State.ckpt s mine job).MemInv := by
  refine State.svcServe_memInv _ _ _ _ h fun w => SvcRes.plain_memInv ?_
  split
  · exact State.svcEnd_memInv _ _ h
  · exact hj w

theorem execCkptDigest_memInv (s : State) (h : s.MemInv) :
    OutInv (execCkptDigest s) := by
  unfold execCkptDigest
  try dsimp only
  repeat' first
    | with_reducible assumption | with_reducible refine OutInv.next ?_ | with_reducible refine MemInv.mem ?_
    | with_reducible apply State.ckpt_memInv | with_reducible apply State.ckptDigest_memInv | with_reducible intro _

theorem execCkptTables_memInv (s : State) (h : s.MemInv) :
    OutInv (execCkptTables s) := by
  unfold execCkptTables
  try dsimp only
  repeat' first
    | with_reducible assumption | with_reducible refine OutInv.next ?_ | with_reducible refine MemInv.mem ?_
    | with_reducible apply State.ckpt_memInv | with_reducible apply State.ckptTables_memInv | with_reducible intro _

theorem execCkptSign_memInv (s : State) (h : s.MemInv) :
    OutInv (execCkptSign s) := by
  unfold execCkptSign
  try dsimp only
  repeat' first
    | with_reducible assumption | with_reducible refine OutInv.next ?_ | with_reducible refine MemInv.mem ?_
    | with_reducible apply State.ckpt_memInv | with_reducible apply State.ckptSign_memInv | with_reducible intro _

theorem execVerifyBytes_memInv (s : State) (h : s.MemInv) :
    OutInv (execVerifyBytes s) := by
  unfold execVerifyBytes
  try dsimp only
  repeat' first
    | with_reducible assumption | with_reducible refine OutInv.next ?_ | with_reducible refine MemInv.mem ?_
    | with_reducible apply State.ckpt_memInv | with_reducible apply State.verifyBytes_memInv | with_reducible intro _

theorem execVerifyPageList_memInv (s : State) (h : s.MemInv) :
    OutInv (execVerifyPageList s) := by
  unfold execVerifyPageList
  try dsimp only
  repeat' first
    | with_reducible assumption | with_reducible refine OutInv.next ?_ | with_reducible refine MemInv.mem ?_
    | with_reducible apply State.ckpt_memInv | with_reducible apply State.verifyPages_memInv | with_reducible intro _

theorem execVerifySignature_memInv (s : State) (h : s.MemInv) :
    OutInv (execVerifySignature s) := by
  unfold execVerifySignature
  try dsimp only
  repeat' first
    | with_reducible assumption | with_reducible refine OutInv.next ?_ | with_reducible refine MemInv.mem ?_
    | with_reducible apply State.ckpt_memInv | with_reducible apply State.verifySig_memInv | with_reducible intro _

theorem execCkptLoad_memInv (s : State) (h : s.MemInv) :
    OutInv (execCkptLoad s) := by
  unfold execCkptLoad
  try dsimp only
  repeat' first
    | with_reducible assumption | with_reducible refine OutInv.next ?_ | with_reducible refine MemInv.mem ?_
    | with_reducible apply State.ckpt_memInv | with_reducible apply State.ckptLoad_memInv | with_reducible intro _

theorem State.flRead_memInv (s : State) (w : List W32) (h : s.MemInv) :
    ResInv (State.flRead s w) := by
  unfold State.flRead
  try dsimp only
  repeat' first
    | with_reducible assumption | with_reducible refine ResInv.done ?_ | with_reducible exact ResInv.more
    | with_reducible refine MemInv.ite (fun _ => ?_) (fun _ => ?_) | with_reducible refine MemInv.mem ?_
    | with_reducible apply State.svcEnd_memInv | with_reducible intro _ | split

theorem State.flErase_memInv (s : State) (w : List W32) (h : s.MemInv) :
    ResInv (State.flErase s w) := by
  unfold State.flErase
  try dsimp only
  repeat' first
    | with_reducible assumption | with_reducible refine ResInv.done ?_ | with_reducible exact ResInv.more
    | with_reducible refine MemInv.ite (fun _ => ?_) (fun _ => ?_) | with_reducible refine MemInv.mem ?_
    | with_reducible apply State.svcEnd_memInv | with_reducible apply State.flashErase_memInv | with_reducible intro _ | split

theorem State.flProgram_memInv (s : State) (w : List W32) (h : s.MemInv) :
    ResInv (State.flProgram s w) := by
  unfold State.flProgram
  try dsimp only
  repeat' first
    | with_reducible assumption | with_reducible refine ResInv.done ?_ | with_reducible exact ResInv.more
    | with_reducible refine MemInv.ite (fun _ => ?_) (fun _ => ?_) | with_reducible refine MemInv.mem ?_
    | with_reducible apply State.svcEnd_memInv | with_reducible apply State.svcUse_memInv
    | with_reducible apply State.event_memInv | with_reducible apply State.flashPut_memInv | with_reducible intro _ | split

theorem State.flSelect_memInv (s : State) (w : List W32) (h : s.MemInv) :
    ResInv (State.flSelect s w) := by
  unfold State.flSelect
  try dsimp only
  repeat' first
    | with_reducible assumption | with_reducible refine ResInv.done ?_ | with_reducible exact ResInv.more
    | with_reducible refine MemInv.ite (fun _ => ?_) (fun _ => ?_) | with_reducible refine MemInv.mem ?_
    | with_reducible apply State.svcEnd_memInv | with_reducible apply State.slotVerified_memInv
    | with_reducible apply State.bootCfgPut_memInv | with_reducible intro _ | split

theorem State.flConfirm_memInv (s : State) (x1 : List W32) (h : s.MemInv) :
    ResInv (State.flConfirm s x1) := by
  unfold State.flConfirm
  try dsimp only
  repeat' first
    | with_reducible assumption | with_reducible refine ResInv.done ?_ | with_reducible exact ResInv.more
    | with_reducible refine MemInv.ite (fun _ => ?_) (fun _ => ?_) | with_reducible refine MemInv.mem ?_
    | with_reducible apply State.svcEnd_memInv | with_reducible apply State.setFlag_memInv
    | with_reducible apply State.bootCfgPut_memInv | with_reducible intro _ | split

theorem State.flash_memInv (s : State) (mine : List W32 → Bool) (job : State → List W32 → SvcRes) (h : s.MemInv)
    (hj : ∀ w, ResInv (job s w)) : (State.flash s mine job).MemInv := by
  refine State.svcServe_memInv _ _ _ _ h fun w => ?_
  split
  · exact State.svcEnd_memInv _ _ h
  · exact hj w

theorem execFlashRead_memInv (s : State) (h : s.MemInv) :
    OutInv (execFlashRead s) := by
  unfold execFlashRead
  try dsimp only
  repeat' first
    | with_reducible assumption | with_reducible refine OutInv.next ?_ | with_reducible refine MemInv.mem ?_
    | with_reducible apply State.flash_memInv | with_reducible apply State.flRead_memInv | with_reducible intro _

theorem execFlashErase_memInv (s : State) (h : s.MemInv) :
    OutInv (execFlashErase s) := by
  unfold execFlashErase
  try dsimp only
  repeat' first
    | with_reducible assumption | with_reducible refine OutInv.next ?_ | with_reducible refine MemInv.mem ?_
    | with_reducible apply State.flash_memInv | with_reducible apply State.flErase_memInv | with_reducible intro _

theorem execFlashProgram_memInv (s : State) (h : s.MemInv) :
    OutInv (execFlashProgram s) := by
  unfold execFlashProgram
  try dsimp only
  repeat' first
    | with_reducible assumption | with_reducible refine OutInv.next ?_ | with_reducible refine MemInv.mem ?_
    | with_reducible apply State.flash_memInv | with_reducible apply State.flProgram_memInv | with_reducible intro _

theorem execFlashSelect_memInv (s : State) (h : s.MemInv) :
    OutInv (execFlashSelect s) := by
  unfold execFlashSelect
  try dsimp only
  repeat' first
    | with_reducible assumption | with_reducible refine OutInv.next ?_ | with_reducible refine MemInv.mem ?_
    | with_reducible apply State.flash_memInv | with_reducible apply State.flSelect_memInv | with_reducible intro _

theorem execFlashConfirm_memInv (s : State) (h : s.MemInv) :
    OutInv (execFlashConfirm s) := by
  unfold execFlashConfirm
  try dsimp only
  repeat' first
    | with_reducible assumption | with_reducible refine OutInv.next ?_ | with_reducible refine MemInv.mem ?_
    | with_reducible apply State.flash_memInv | with_reducible apply State.flConfirm_memInv | with_reducible intro _

end Sys2Proof.Machine
end

