-- ==== Sys2Proof/Laws/KeepPlatform.lean ====
section
/-! SUPPORT. What the operations of Machine/Platform.lean do keeps the invariant of memory. -/
set_option linter.unusedSimpArgs false
namespace Sys2Proof.Machine

theorem State.setInput_memInv (s : State) (i : ClkInput) (v : ClkIn) (h : s.MemInv) :
    (State.setInput s i v).MemInv := by
  unfold State.setInput
  try dsimp only
  repeat' first
    | with_reducible assumption | with_reducible refine MemInv.mem ?_ | simp only [MemInv.mk_iff]
    | with_reducible apply State.setReg_memInv

theorem State.reserve_memInv (s : State) (l : List Nat) (b : Bool) (h : s.MemInv) :
    (State.reserve s l b).MemInv := by
  unfold State.reserve
  try dsimp only
  repeat' first
    | with_reducible assumption | with_reducible refine MemInv.mem ?_ | with_reducible apply State.setFlag_memInv
    | with_reducible refine MemInv.foldl (fun _ _ _ => ?_) _ ?_

theorem State.refReserve_memInv (s : State) (b : Bool) (h : s.MemInv) :
    (State.refReserve s b).MemInv := by
  unfold State.refReserve
  try dsimp only
  repeat' first
    | with_reducible assumption | with_reducible refine MemInv.ite (fun _ => ?_) (fun _ => ?_)
    | with_reducible refine MemInv.mem ?_ | with_reducible apply State.setField_memInv
    | with_reducible apply State.setFlag_memInv

theorem State.portsGo_memInv (s : State) (from_ : PortSt → Bool) (dst : PortSt) (h : s.MemInv) :
    (State.portsGo s from_ dst).MemInv := by
  unfold State.portsGo
  try dsimp only
  repeat' first
    | with_reducible assumption | with_reducible refine MemInv.ite (fun _ => ?_) (fun _ => ?_)
    | with_reducible refine MemInv.mem ?_ | with_reducible apply State.leaveUp_memInv
    | with_reducible refine MemInv.foldl (fun _ _ _ => ?_) _ ?_

theorem State.coreReserve_memInv (s : State) (h : s.MemInv) :
    (State.coreReserve s).MemInv := by
  unfold State.coreReserve
  try dsimp only
  repeat' first
    | with_reducible assumption | with_reducible refine MemInv.mem ?_ | with_reducible apply State.portsGo_memInv
    | with_reducible apply State.refReserve_memInv | with_reducible apply State.reserve_memInv

theorem State.clockLoss_memInv (s : State) (i : ClkInput) (h : s.MemInv) :
    (State.clockLoss s i).MemInv := by
  unfold State.clockLoss
  try dsimp only
  repeat' first
    | with_reducible assumption | with_reducible refine MemInv.ite (fun _ => ?_) (fun _ => ?_)
    | with_reducible refine MemInv.mem ?_ | with_reducible apply State.setFlag_memInv | with_reducible apply State.setErr_memInv
    | with_reducible apply State.stepAbort_memInv | with_reducible apply State.sendVector_memInv

theorem State.lose_memInv (s : State) (i : ClkInput) (h : s.MemInv) :
    (State.lose s i).MemInv := by
  unfold State.lose
  try dsimp only
  repeat' first
    | with_reducible assumption | with_reducible refine MemInv.ite (fun _ => ?_) (fun _ => ?_)
    | with_reducible refine MemInv.mem ?_ | with_reducible apply State.setInput_memInv
    | with_reducible apply State.coreReserve_memInv | with_reducible apply State.reserve_memInv
    | with_reducible apply State.clockLoss_memInv | with_reducible apply State.addSat_memInv

theorem State.judge_memInv (s : State) (i : ClkInput) (good : Bool) (lost : Bool) (h : s.MemInv) :
    (State.judge s i good lost).MemInv := by
  unfold State.judge
  try dsimp only
  repeat' first
    | with_reducible assumption | with_reducible refine MemInv.ite (fun _ => ?_) (fun _ => ?_)
    | with_reducible refine MemInv.mem ?_ | with_reducible apply State.event_memInv | with_reducible apply State.lose_memInv
    | with_reducible apply State.setInput_memInv | with_reducible apply State.refReserve_memInv

theorem execClockMonitorWindow_memInv (core : W32) (pcie : W32) (watch : W32) (s : State) (h : s.MemInv) :
    OutInv (execClockMonitorWindow core pcie watch s) := by
  unfold execClockMonitorWindow
  try dsimp only
  repeat' first
    | with_reducible assumption | with_reducible refine OutInv.next ?_
    | with_reducible refine MemInv.ite (fun _ => ?_) (fun _ => ?_) | with_reducible refine MemInv.mem ?_
    | with_reducible apply State.setReg_memInv | with_reducible apply State.judge_memInv

theorem execClockFastTest_memInv (pcie : Bool) (edges : BitVec 16) (s : State) (h : s.MemInv) :
    OutInv (execClockFastTest pcie edges s) := by
  unfold execClockFastTest
  try dsimp only
  repeat' first
    | with_reducible assumption | with_reducible refine OutInv.next ?_
    | with_reducible refine MemInv.ite (fun _ => ?_) (fun _ => ?_) | with_reducible refine MemInv.mem ?_
    | with_reducible apply State.lose_memInv

theorem execWatchOscEdgeTimeout_memInv (s : State) (h : s.MemInv) :
    OutInv (execWatchOscEdgeTimeout s) := by
  unfold execWatchOscEdgeTimeout
  try dsimp only
  repeat' first
    | with_reducible assumption | with_reducible refine OutInv.next ?_
    | with_reducible refine MemInv.ite (fun _ => ?_) (fun _ => ?_) | with_reducible refine MemInv.mem ?_
    | with_reducible apply State.lose_memInv

theorem execClockReturn_memInv (input : ClkInput) (s : State) (h : s.MemInv) :
    OutInv (execClockReturn input s) := by
  unfold execClockReturn
  try dsimp only
  repeat' first
    | with_reducible assumption | with_reducible refine OutInv.next ?_
    | with_reducible refine MemInv.ite (fun _ => ?_) (fun _ => ?_) | with_reducible refine MemInv.mem ?_
    | with_reducible apply State.reserve_memInv | with_reducible apply State.setField_memInv
    | with_reducible apply State.avsUpdate_memInv | with_reducible apply State.setPort_memInv
    | with_reducible refine MemInv.foldl (fun _ _ _ => ?_) _ ?_ | with_reducible refine MemInv.foldl_fst (fun _ _ _ => ?_) _ ?_
    | split

theorem execDividerRampStep_memInv (island : Fin 125) (s : State) (h : s.MemInv) :
    OutInv (execDividerRampStep island s) := by
  unfold execDividerRampStep
  try dsimp only
  repeat' first
    | with_reducible assumption | with_reducible refine OutInv.next ?_
    | with_reducible refine MemInv.ite (fun _ => ?_) (fun _ => ?_) | with_reducible refine MemInv.mem ?_
    | with_reducible apply State.avsUpdate_memInv | with_reducible apply State.judgeLimits_memInv
    | with_reducible apply State.event_memInv | with_reducible apply State.setField_memInv

theorem execAvsVoltageAck_memInv (die : Fin 4) (s : State) (h : s.MemInv) :
    OutInv (execAvsVoltageAck die s) := by
  unfold execAvsVoltageAck
  try dsimp only
  repeat' first
    | with_reducible assumption | with_reducible refine OutInv.next ?_
    | with_reducible refine MemInv.ite (fun _ => ?_) (fun _ => ?_) | with_reducible refine MemInv.mem ?_
    | simp only [MemInv.mk_iff]

theorem execAvsTimeout_memInv (die : Fin 4) (s : State) (h : s.MemInv) :
    OutInv (execAvsTimeout die s) := by
  unfold execAvsTimeout
  try dsimp only
  repeat' first
    | with_reducible assumption | with_reducible refine OutInv.next ?_
    | with_reducible refine MemInv.ite (fun _ => ?_) (fun _ => ?_) | with_reducible refine MemInv.mem ?_
    | with_reducible apply State.avsSend_memInv | with_reducible apply State.setErr_memInv

theorem execFmcGo_memInv (s : State) (h : s.MemInv) :
    OutInv (execFmcGo s) := by
  unfold execFmcGo
  try dsimp only
  repeat' first
    | with_reducible assumption | with_reducible refine OutInv.next ?_
    | with_reducible refine MemInv.ite (fun _ => ?_) (fun _ => ?_) | with_reducible refine MemInv.mem ?_
    | with_reducible apply State.setReg_memInv

theorem execFmcAbort_memInv (s : State) (h : s.MemInv) :
    OutInv (execFmcAbort s) := by
  unfold execFmcAbort
  try dsimp only
  repeat' first
    | with_reducible assumption | with_reducible refine OutInv.next ?_
    | with_reducible refine MemInv.ite (fun _ => ?_) (fun _ => ?_) | with_reducible refine MemInv.mem ?_
    | with_reducible apply State.fresh_memInv | with_reducible apply State.setReg_memInv

theorem execFmcDone_memInv (count : BitVec 40) (s : State) (h : s.MemInv) :
    OutInv (execFmcDone count s) := by
  unfold execFmcDone
  try dsimp only
  repeat' first
    | with_reducible assumption | with_reducible refine OutInv.next ?_
    | with_reducible refine MemInv.ite (fun _ => ?_) (fun _ => ?_) | with_reducible refine MemInv.mem ?_
    | with_reducible apply State.setReg_memInv

theorem execRailOutOfWindow_memInv (rail : Fin 11) (s : State) (h : s.MemInv) :
    OutInv (execRailOutOfWindow rail s) := by
  unfold execRailOutOfWindow
  try dsimp only
  repeat' first
    | with_reducible assumption | with_reducible refine OutInv.next ?_ | with_reducible refine MemInv.mem ?_
    | simp only [MemInv.mk_iff] | with_reducible apply State.chipReset_memInv

theorem execRailsInWindow_memInv (rail : Fin 11) (s : State) (h : s.MemInv) :
    OutInv (execRailsInWindow rail s) := by
  unfold execRailsInWindow
  try dsimp only
  repeat' first
    | with_reducible assumption | with_reducible refine OutInv.next ?_ | with_reducible refine MemInv.mem ?_
    | simp only [MemInv.mk_iff]

theorem State.latchStraps_memInv (s : State) (straps : BitVec 14) (h : s.MemInv) :
    (State.latchStraps s straps).MemInv := by
  unfold State.latchStraps
  try dsimp only
  repeat' first
    | with_reducible assumption | with_reducible refine MemInv.ite (fun _ => ?_) (fun _ => ?_)
    | with_reducible refine MemInv.mem ?_ | with_reducible apply State.setReg_memInv | with_reducible apply State.setErr_memInv
    | with_reducible apply State.setPort_memInv | with_reducible refine MemInv.foldl (fun _ _ _ => ?_) _ ?_

theorem State.release_memInv (s : State) (straps : BitVec 14) (h : s.MemInv) :
    (State.release s straps).MemInv := by
  unfold State.release
  try dsimp only
  repeat' first
    | with_reducible assumption | with_reducible refine MemInv.ite (fun _ => ?_) (fun _ => ?_)
    | with_reducible refine MemInv.mem ?_ | simp only [MemInv.mk_iff] | with_reducible apply State.latchStraps_memInv
    | with_reducible apply State.setReg_memInv

theorem execResetRelease_memInv (straps : BitVec 14) (s : State) (h : s.MemInv) :
    OutInv (execResetRelease straps s) := by
  unfold execResetRelease
  try dsimp only
  repeat' first
    | with_reducible assumption | with_reducible refine OutInv.next ?_
    | with_reducible refine MemInv.ite (fun _ => ?_) (fun _ => ?_) | with_reducible refine MemInv.mem ?_
    | with_reducible apply State.release_memInv

theorem execForcedResetRelease_memInv (straps : BitVec 14) (s : State) (h : s.MemInv) :
    OutInv (execForcedResetRelease straps s) := by
  unfold execForcedResetRelease
  try dsimp only
  repeat' first
    | with_reducible assumption | with_reducible refine OutInv.next ?_
    | with_reducible refine MemInv.ite (fun _ => ?_) (fun _ => ?_) | with_reducible refine MemInv.mem ?_
    | with_reducible apply State.clockLoss_memInv | with_reducible apply State.coreReserve_memInv
    | with_reducible apply State.release_memInv

theorem execFlashResetRelease_memInv (silent : Bool) (s : State) (h : s.MemInv) :
    OutInv (execFlashResetRelease silent s) := by
  unfold execFlashResetRelease
  try dsimp only
  repeat' first
    | with_reducible assumption | with_reducible refine OutInv.next ?_
    | with_reducible refine MemInv.ite (fun _ => ?_) (fun _ => ?_) | with_reducible refine MemInv.mem ?_
    | simp only [MemInv.mk_iff]

theorem execD2dLinksTrained_memInv (s : State) (h : s.MemInv) : OutInv (execD2dLinksTrained s) := by
  refine OutInv.next (MemInv.ite (fun _ => h) fun _ => State.setReg_memInv _ _ _ _ ?_)
  exact Mem.Inv.linksUp h 13

theorem State.thermalDie_memInv (s : State) (l : List (Option Byte)) (k : Nat) (h : s.MemInv) :
    (State.thermalDie s l k).MemInv := by
  unfold State.thermalDie
  try dsimp only
  repeat' first
    | with_reducible assumption | with_reducible refine MemInv.ite (fun _ => ?_) (fun _ => ?_)
    | with_reducible refine MemInv.mem ?_ | simp only [MemInv.mk_iff] | with_reducible apply State.setField_memInv
    | with_reducible apply State.event_memInv | with_reducible apply State.setErr_memInv
    | with_reducible apply State.setFlag_memInv | with_reducible apply State.avsUpdate_memInv

theorem State.storeReadings_memInv (s : State) (l : List (Option Byte)) (h : s.MemInv) :
    (State.storeReadings s l).MemInv := by
  unfold State.storeReadings
  try dsimp only
  repeat' first
    | with_reducible assumption | with_reducible refine MemInv.mem ?_ | with_reducible apply State.fresh_memInv
    | with_reducible apply State.setReg_memInv | with_reducible refine MemInv.foldl (fun _ _ _ => ?_) _ ?_

theorem State.tripOff_memInv (s : State) (h : s.MemInv) :
    (State.tripOff s).MemInv := by
  unfold State.tripOff
  try dsimp only
  repeat' first
    | with_reducible assumption | with_reducible refine MemInv.mem ?_ | simp only [MemInv.mk_iff]
    | with_reducible apply State.chipReset_memInv | with_reducible apply State.setFlag_memInv

theorem State.stackTemps_memInv (s : State) (l : List (Option Byte)) (h : s.MemInv) :
    (State.stackTemps s l).MemInv := by
  unfold State.stackTemps
  try dsimp only
  repeat' first
    | with_reducible assumption | with_reducible refine MemInv.mem ?_ | with_reducible apply State.setReg_memInv
    | with_reducible refine MemInv.foldl (fun _ _ _ => ?_) _ ?_ | with_reducible refine MemInv.foldl_fst (fun _ _ _ => ?_) _ ?_
    | split

theorem execThermalTick_memInv (ridges : List (Option Byte)) (edies : List (Option Byte)) (hbms : List (Option Byte)) (s : State) (h : s.MemInv) :
    OutInv (execThermalTick ridges edies hbms s) := by
  unfold execThermalTick
  try dsimp only
  repeat' first
    | with_reducible assumption | with_reducible refine OutInv.next ?_
    | with_reducible refine MemInv.ite (fun _ => ?_) (fun _ => ?_) | with_reducible refine MemInv.mem ?_
    | simp only [MemInv.mk_iff] | with_reducible apply State.tripOff_memInv | with_reducible apply State.advance_memInv
    | with_reducible apply State.addSat_memInv | with_reducible apply State.stackTemps_memInv
    | with_reducible apply State.storeReadings_memInv | with_reducible apply State.event_memInv
    | with_reducible apply State.setErr_memInv | with_reducible apply State.setReg_memInv
    | with_reducible apply State.thermalDie_memInv | with_reducible refine MemInv.foldl (fun _ _ _ => ?_) _ ?_

theorem execPowerTick_memInv (short : BitVec 16) (long : BitVec 16) (s : State) (h : s.MemInv) :
    OutInv (execPowerTick short long s) := by
  unfold execPowerTick
  try dsimp only
  repeat' first
    | with_reducible assumption | with_reducible refine OutInv.next ?_
    | with_reducible refine MemInv.ite (fun _ => ?_) (fun _ => ?_) | with_reducible refine MemInv.mem ?_
    | simp only [MemInv.mk_iff] | with_reducible apply State.advance_memInv | with_reducible apply State.addSat_memInv
    | with_reducible apply State.setReg_memInv | with_reducible apply State.event_memInv
    | with_reducible apply State.setField_memInv | with_reducible apply State.setErr_memInv
    | with_reducible apply State.avsUpdate_memInv | with_reducible refine MemInv.foldl (fun _ _ _ => ?_) _ ?_

theorem execDieIdleEntry_memInv (die : Fin 4) (s : State) (h : s.MemInv) :
    OutInv (execDieIdleEntry die s) := by
  unfold execDieIdleEntry
  try dsimp only
  repeat' first
    | with_reducible assumption | with_reducible refine OutInv.next ?_
    | with_reducible refine MemInv.ite (fun _ => ?_) (fun _ => ?_) | with_reducible refine MemInv.mem ?_
    | simp only [MemInv.mk_iff] | with_reducible apply State.avsUpdate_memInv

end Sys2Proof.Machine
end

