-- ==== Sys2Proof/Laws/KeepBoot.lean ====
section
/-! SUPPORT. What the operations of Machine/Boot.lean do keeps the invariant of memory. -/
set_option linter.unusedSimpArgs false
namespace Sys2Proof.Machine

theorem State.loadSection_memInv (s : State) (slot : Nat) (w : List W32) (h : s.MemInv) :
    (State.loadSection s slot w).MemInv := by
  unfold State.loadSection
  try dsimp only
  repeat' first
    | with_reducible assumption | with_reducible refine ResInv.done ?_ | with_reducible exact ResInv.more
    | with_reducible refine MemInv.ite (fun _ => ?_) (fun _ => ?_) | with_reducible refine MemInv.mem ?_
    | simp only [MemInv.mk_iff] | with_reducible apply State.setCore_memInv

theorem State.loadImage_memInv (s : State) (slot : Nat) (trial : Bool) (h : s.MemInv) :
    (State.loadImage s slot trial).MemInv := by
  unfold State.loadImage
  try dsimp only
  repeat' first
    | with_reducible assumption | with_reducible refine ResInv.done ?_ | with_reducible exact ResInv.more
    | with_reducible refine MemInv.mem ?_ | simp only [MemInv.mk_iff] | with_reducible apply State.loadSection_memInv
    | with_reducible apply State.setReg_memInv | with_reducible refine MemInv.foldl (fun _ _ _ => ?_) _ ?_

theorem State.trySlot_memInv (s : State) (slot : Nat) (h : s.MemInv) :
    (State.trySlot s slot).1.MemInv := by
  unfold State.trySlot
  try dsimp only
  repeat' first
    | with_reducible assumption | with_reducible refine ResInv.done ?_ | with_reducible exact ResInv.more
    | with_reducible refine MemInv.ite (fun _ => ?_) (fun _ => ?_) | with_reducible refine MemInv.mem ?_
    | with_reducible apply State.slotVerified_memInv | with_reducible apply State.setField_memInv
    | with_reducible apply State.setErr_memInv | with_reducible intro _ | split

theorem State.identity_memInv (s : State) (h : s.MemInv) :
    (State.identity s).MemInv := by
  unfold State.identity
  try dsimp only
  repeat' first
    | with_reducible assumption | with_reducible refine ResInv.done ?_ | with_reducible exact ResInv.more
    | with_reducible refine MemInv.mem ?_ | with_reducible apply State.setReg_memInv | with_reducible apply State.setFlag_memInv
    | with_reducible refine MemInv.foldl (fun _ _ _ => ?_) _ ?_

theorem State.bootPowerCycle_memInv (s : State) (h : s.MemInv) :
    (State.bootPowerCycle s).MemInv := by
  unfold State.bootPowerCycle
  try dsimp only
  repeat' first
    | with_reducible assumption | with_reducible refine ResInv.done ?_ | with_reducible exact ResInv.more
    | with_reducible refine MemInv.mem ?_ | simp only [MemInv.mk_iff] | with_reducible apply State.askTray_memInv
    | with_reducible apply State.escRecord_memInv | with_reducible intro _ | with_reducible refine Mem.Inv.setMarking ?_ _
    | split

theorem State.bootImage_memInv (s : State) (h : s.MemInv) :
    (State.bootImage s).MemInv := by
  unfold State.bootImage
  try dsimp only
  repeat' first
    | with_reducible assumption | with_reducible refine ResInv.done ?_ | with_reducible exact ResInv.more
    | with_reducible refine MemInv.mem ?_ | with_reducible apply State.bootPowerCycle_memInv
    | with_reducible apply State.uhlBootScan_memInv | with_reducible apply State.identity_memInv

theorem execBootSlotVerify_memInv (s : State) (h : s.MemInv) :
    OutInv (execBootSlotVerify s) := by
  unfold execBootSlotVerify
  try dsimp only
  repeat' first
    | with_reducible assumption | with_reducible refine OutInv.next ?_ | with_reducible refine ResInv.done ?_
    | with_reducible exact ResInv.more | with_reducible refine MemInv.ite (fun _ => ?_) (fun _ => ?_)
    | with_reducible refine MemInv.mem ?_ | simp only [MemInv.mk_iff] | with_reducible apply State.bootCfgPut_memInv
    | with_reducible apply State.trySlot_memInv | with_reducible apply State.bootImage_memInv
    | with_reducible apply State.loadImage_memInv | with_reducible apply State.setFlag_memInv | with_reducible intro _
    | with_reducible refine MemInv.of_fst (by assumption) ?_ | with_reducible refine Mem.Inv.setMarking ?_ _ | split

theorem State.startColl_memInv (s : State) (h : s.MemInv) :
    (State.startColl s).MemInv := by
  unfold State.startColl
  try dsimp only
  repeat' first
    | with_reducible assumption | with_reducible refine ResInv.done ?_ | with_reducible exact ResInv.more
    | with_reducible refine MemInv.ite (fun _ => ?_) (fun _ => ?_) | with_reducible refine MemInv.mem ?_
    | with_reducible apply State.runStart_memInv | with_reducible refine MemInv.foldl (fun _ _ _ => ?_) _ ?_

theorem execBootReady_memInv (s : State) (h : s.MemInv) :
    OutInv (execBootReady s) := by
  unfold execBootReady
  try dsimp only
  repeat' first
    | with_reducible assumption | with_reducible refine OutInv.next ?_ | with_reducible refine ResInv.done ?_
    | with_reducible exact ResInv.more | with_reducible refine MemInv.ite (fun _ => ?_) (fun _ => ?_)
    | with_reducible refine MemInv.mem ?_ | with_reducible apply State.setFlag_memInv
    | with_reducible apply State.startColl_memInv

theorem execSvnCommit_memInv (value : W32) (bad : Option (Fin 64)) (s : State) (h : s.MemInv) :
    OutInv (execSvnCommit value bad s) := by
  unfold execSvnCommit
  try dsimp only
  repeat' first
    | with_reducible assumption | with_reducible refine OutInv.next ?_ | with_reducible refine ResInv.done ?_
    | with_reducible exact ResInv.more | with_reducible refine MemInv.ite (fun _ => ?_) (fun _ => ?_)
    | with_reducible refine MemInv.mem ?_ | simp only [MemInv.mk_iff] | with_reducible apply State.storeBits_memInv
    | with_reducible apply State.setReg_memInv | with_reducible apply State.setErr_memInv

theorem execAttestationReport_memInv (s : State) (h : s.MemInv) :
    OutInv (execAttestationReport s) := by
  unfold execAttestationReport
  try dsimp only
  repeat' first
    | with_reducible assumption | with_reducible refine OutInv.next ?_ | with_reducible refine ResInv.done ?_
    | with_reducible exact ResInv.more | with_reducible refine MemInv.ite (fun _ => ?_) (fun _ => ?_)
    | with_reducible refine MemInv.mem ?_ | with_reducible apply State.svcServe_memInv
    | with_reducible apply State.svcEnd_memInv | with_reducible apply State.signed_memInv | with_reducible intro _
    | with_reducible refine MemInv.of_fst (by assumption) ?_ | split

theorem execStrapCompare_memInv (straps : BitVec 14) (s : State) (h : s.MemInv) :
    OutInv (execStrapCompare straps s) := by
  unfold execStrapCompare
  try dsimp only
  repeat' first
    | with_reducible assumption | with_reducible refine OutInv.next ?_ | with_reducible refine ResInv.done ?_
    | with_reducible exact ResInv.more | with_reducible refine MemInv.ite (fun _ => ?_) (fun _ => ?_)
    | with_reducible refine MemInv.mem ?_ | with_reducible apply State.event_memInv | with_reducible apply State.addSat_memInv
    | with_reducible apply State.setErr_memInv

theorem State.tapLoad_memInv (s : State) (m : TapMode) (h : s.MemInv) :
    (State.tapLoad s m).MemInv := by
  unfold State.tapLoad
  try dsimp only
  repeat' first
    | with_reducible assumption | with_reducible refine ResInv.done ?_ | with_reducible exact ResInv.more
    | with_reducible refine MemInv.ite (fun _ => ?_) (fun _ => ?_) | with_reducible refine MemInv.mem ?_
    | simp only [MemInv.mk_iff]

theorem execJtagBypass_memInv (s : State) (h : s.MemInv) :
    OutInv (execJtagBypass s) := by
  unfold execJtagBypass
  try dsimp only
  repeat' first
    | with_reducible assumption | with_reducible refine OutInv.next ?_ | with_reducible refine ResInv.done ?_
    | with_reducible exact ResInv.more | with_reducible refine MemInv.ite (fun _ => ?_) (fun _ => ?_)
    | with_reducible refine MemInv.mem ?_ | with_reducible apply State.tapLoad_memInv

theorem execJtagSamplePreload_memInv (lands : List Bool) (preload : List Bool) (s : State) (h : s.MemInv) :
    OutInv (execJtagSamplePreload lands preload s) := by
  unfold execJtagSamplePreload
  try dsimp only
  repeat' first
    | with_reducible assumption | with_reducible refine OutInv.next ?_ | with_reducible refine ResInv.done ?_
    | with_reducible exact ResInv.more | with_reducible refine MemInv.ite (fun _ => ?_) (fun _ => ?_)
    | with_reducible refine MemInv.mem ?_ | simp only [MemInv.mk_iff] | with_reducible apply State.tapLoad_memInv
    | with_reducible apply State.emit_memInv

theorem execJtagExtest_memInv (s : State) (h : s.MemInv) :
    OutInv (execJtagExtest s) := by
  unfold execJtagExtest
  try dsimp only
  repeat' first
    | with_reducible assumption | with_reducible refine OutInv.next ?_ | with_reducible refine ResInv.done ?_
    | with_reducible exact ResInv.more | with_reducible refine MemInv.ite (fun _ => ?_) (fun _ => ?_)
    | with_reducible refine MemInv.mem ?_ | with_reducible apply State.emit_memInv | with_reducible apply State.tapLoad_memInv

theorem execJtagClamp_memInv (s : State) (h : s.MemInv) :
    OutInv (execJtagClamp s) := by
  unfold execJtagClamp
  try dsimp only
  repeat' first
    | with_reducible assumption | with_reducible refine OutInv.next ?_ | with_reducible refine ResInv.done ?_
    | with_reducible exact ResInv.more | with_reducible refine MemInv.ite (fun _ => ?_) (fun _ => ?_)
    | with_reducible refine MemInv.mem ?_ | with_reducible apply State.emit_memInv | with_reducible apply State.tapLoad_memInv

theorem execJtagHighz_memInv (s : State) (h : s.MemInv) :
    OutInv (execJtagHighz s) := by
  unfold execJtagHighz
  try dsimp only
  repeat' first
    | with_reducible assumption | with_reducible refine OutInv.next ?_ | with_reducible refine ResInv.done ?_
    | with_reducible exact ResInv.more | with_reducible refine MemInv.ite (fun _ => ?_) (fun _ => ?_)
    | with_reducible refine MemInv.mem ?_ | with_reducible apply State.emit_memInv | with_reducible apply State.tapLoad_memInv

end Sys2Proof.Machine
end

