-- ==== Sys2Proof/Laws/KeepPort.lean ====
section
/-! SUPPORT. What the operations of Machine/Port.lean do keeps the invariant of memory. -/
set_option linter.unusedSimpArgs false
namespace Sys2Proof.Machine

theorem execPortTrainAttempt_memInv (port : Fin 36) (ok : Bool) (peerGen2 : Bool) (nonce : List Byte) (s : State) (h : s.MemInv) :
    OutInv (execPortTrainAttempt port ok peerGen2 nonce s) := by
  unfold execPortTrainAttempt
  try dsimp only
  repeat' first
    | with_reducible assumption | with_reducible refine OutInv.next ?_
    | with_reducible refine MemInv.ite (fun _ => ?_) (fun _ => ?_) | with_reducible refine MemInv.mem ?_
    | with_reducible apply State.setPort_memInv | with_reducible apply State.sendBytes_memInv
    | with_reducible apply State.judgeLimits_memInv | with_reducible apply State.setReg_memInv

theorem State.discEnd_memInv (s : State) (h : s.MemInv) :
    (State.discEnd s).MemInv := by
  unfold State.discEnd
  try dsimp only
  repeat' first
    | with_reducible assumption | with_reducible refine MemInv.mem ?_ | simp only [MemInv.mk_iff]

theorem State.discCheck_memInv (s : State) (h : s.MemInv) :
    (State.discCheck s).MemInv := by
  unfold State.discCheck
  try dsimp only
  repeat' first
    | with_reducible assumption | with_reducible refine MemInv.ite (fun _ => ?_) (fun _ => ?_)
    | with_reducible refine MemInv.mem ?_ | with_reducible apply State.discEnd_memInv

theorem State.helloTaken_memInv (s : State) (p : Nat) (v : Nat) (pos : W32) (hello : Hello) (h : s.MemInv) :
    (State.helloTaken s p v pos hello).MemInv := by
  unfold State.helloTaken
  try dsimp only
  repeat' first
    | with_reducible assumption | with_reducible refine MemInv.ite (fun _ => ?_) (fun _ => ?_)
    | with_reducible refine MemInv.mem ?_ | with_reducible apply State.setPort_memInv
    | with_reducible apply State.sendLinks_memInv | with_reducible apply State.setErr_memInv
    | with_reducible apply State.signed_memInv | with_reducible apply State.sendBytes_memInv
    | with_reducible refine MemInv.of_fst (by assumption) ?_ | split

theorem execHelloReceive_memInv (port : Fin 36) (hello : Hello) (s : State) (h : s.MemInv) :
    OutInv (execHelloReceive port hello s) := by
  unfold execHelloReceive
  try dsimp only
  repeat' first
    | with_reducible assumption | with_reducible refine OutInv.next ?_
    | with_reducible refine MemInv.ite (fun _ => ?_) (fun _ => ?_) | with_reducible refine MemInv.mem ?_
    | with_reducible apply State.discCheck_memInv | with_reducible apply State.fencePort_memInv
    | with_reducible apply State.setErr_memInv | with_reducible apply State.setPort_memInv
    | with_reducible apply State.helloTaken_memInv

theorem State.goUp_memInv (s : State) (p : Nat) (h : s.MemInv) :
    (State.goUp s p).MemInv := by
  unfold State.goUp
  try dsimp only
  repeat' first
    | with_reducible assumption | with_reducible refine MemInv.ite (fun _ => ?_) (fun _ => ?_)
    | with_reducible refine MemInv.mem ?_ | with_reducible apply State.sendLinks_memInv
    | with_reducible apply State.setPort_memInv

theorem State.admitFail_memInv (s : State) (p : Nat) (reason : Nat) (h : s.MemInv) :
    (State.admitFail s p reason).MemInv := by
  unfold State.admitFail
  try dsimp only
  repeat' first
    | with_reducible assumption | with_reducible refine MemInv.mem ?_ | with_reducible apply State.fencePort_memInv
    | with_reducible apply State.setErr_memInv | with_reducible apply State.setPort_memInv

theorem execAdmitReceive_memInv (port : Fin 36) (sig : List Byte) (key : List Byte) (s : State) (h : s.MemInv) :
    OutInv (execAdmitReceive port sig key s) := by
  unfold execAdmitReceive
  try dsimp only
  repeat' first
    | with_reducible assumption | with_reducible refine OutInv.next ?_
    | with_reducible refine MemInv.ite (fun _ => ?_) (fun _ => ?_) | with_reducible refine MemInv.mem ?_
    | with_reducible apply State.verified_memInv | with_reducible apply State.setPort_memInv
    | with_reducible apply State.discCheck_memInv | with_reducible apply State.admitFail_memInv
    | with_reducible apply State.goUp_memInv | with_reducible refine MemInv.of_fst (by assumption) ?_ | split

theorem execAdmitTimeout_memInv (port : Fin 36) (s : State) (h : s.MemInv) :
    OutInv (execAdmitTimeout port s) := by
  unfold execAdmitTimeout
  try dsimp only
  repeat' first
    | with_reducible assumption | with_reducible refine OutInv.next ?_
    | with_reducible refine MemInv.ite (fun _ => ?_) (fun _ => ?_) | with_reducible refine MemInv.mem ?_
    | with_reducible apply State.discCheck_memInv | with_reducible apply State.admitFail_memInv
    | with_reducible apply State.advance_memInv

theorem execDiscStart_memInv (value : W32) (s : State) (h : s.MemInv) :
    OutInv (execDiscStart value s) := by
  unfold execDiscStart
  try dsimp only
  repeat' first
    | with_reducible assumption | with_reducible refine OutInv.next ?_
    | with_reducible refine MemInv.ite (fun _ => ?_) (fun _ => ?_) | with_reducible refine MemInv.mem ?_
    | simp only [MemInv.mk_iff] | with_reducible apply State.discCheck_memInv

theorem execDiscTimeout_memInv (s : State) (h : s.MemInv) :
    OutInv (execDiscTimeout s) := by
  unfold execDiscTimeout
  try dsimp only
  repeat' first
    | with_reducible assumption | with_reducible refine OutInv.next ?_
    | with_reducible refine MemInv.ite (fun _ => ?_) (fun _ => ?_) | with_reducible refine MemInv.mem ?_
    | with_reducible apply State.advance_memInv | with_reducible apply State.discEnd_memInv
    | with_reducible apply State.setPort_memInv | with_reducible refine MemInv.foldl (fun _ _ _ => ?_) _ ?_

theorem State.retryEpisode_memInv (s : State) (p : Nat) (h : s.MemInv) :
    (State.retryEpisode s p).MemInv := by
  unfold State.retryEpisode
  try dsimp only
  repeat' first
    | with_reducible assumption | with_reducible refine MemInv.ite (fun _ => ?_) (fun _ => ?_)
    | with_reducible refine MemInv.mem ?_ | with_reducible apply State.addSat_memInv | with_reducible apply State.setPort_memInv
    | with_reducible apply State.fencePort_memInv

theorem State.malformed_memInv (s : State) (p : Nat) (h : s.MemInv) :
    (State.malformed s p).MemInv := by
  unfold State.malformed
  try dsimp only
  repeat' first
    | with_reducible assumption | with_reducible refine MemInv.ite (fun _ => ?_) (fun _ => ?_)
    | with_reducible refine MemInv.mem ?_ | with_reducible apply State.addSat_memInv | with_reducible apply State.setPort_memInv
    | with_reducible apply State.fencePort_memInv

theorem State.nakGot_memInv (s : State) (p : Nat) (ack : Nat) (h : s.MemInv) :
    (State.nakGot s p ack).MemInv := by
  unfold State.nakGot
  try dsimp only
  repeat' first
    | with_reducible assumption | with_reducible refine MemInv.ite (fun _ => ?_) (fun _ => ?_)
    | with_reducible refine MemInv.mem ?_ | with_reducible apply State.setPort_memInv
    | with_reducible apply State.leaveUp_memInv | with_reducible apply State.emit_memInv
    | with_reducible apply State.retryEpisode_memInv | with_reducible apply State.event_memInv
    | with_reducible refine MemInv.foldl (fun _ _ _ => ?_) _ ?_

theorem execNakReceive_memInv (port : Fin 36) (ack : BitVec 16) (s : State) (h : s.MemInv) :
    OutInv (execNakReceive port ack s) := by
  unfold execNakReceive
  try dsimp only
  repeat' first
    | with_reducible assumption | with_reducible refine OutInv.next ?_
    | with_reducible refine MemInv.ite (fun _ => ?_) (fun _ => ?_) | with_reducible refine MemInv.mem ?_
    | with_reducible apply State.nakGot_memInv

theorem State.probeGot_memInv (s : State) (p : Nat) (count : W64) (h : s.MemInv) :
    (State.probeGot s p count).MemInv := by
  unfold State.probeGot
  try dsimp only
  repeat' first
    | with_reducible assumption | with_reducible refine MemInv.ite (fun _ => ?_) (fun _ => ?_)
    | with_reducible refine MemInv.mem ?_ | with_reducible apply State.sendOwn_memInv

theorem State.replyGot_memInv (s : State) (p : Nat) (count : W64) (h : s.MemInv) :
    (State.replyGot s p count).MemInv := by
  unfold State.replyGot
  try dsimp only
  repeat' first
    | with_reducible assumption | with_reducible refine MemInv.ite (fun _ => ?_) (fun _ => ?_)
    | with_reducible refine MemInv.mem ?_ | with_reducible apply State.setReg_memInv | with_reducible apply State.setPort_memInv

theorem execProbeReceive_memInv (port : Fin 36) (count : W64) (s : State) (h : s.MemInv) :
    OutInv (execProbeReceive port count s) := by
  unfold execProbeReceive
  try dsimp only
  repeat' first
    | with_reducible assumption | with_reducible refine OutInv.next ?_ | with_reducible refine MemInv.mem ?_
    | with_reducible apply State.probeGot_memInv

theorem execProbeReplyReceive_memInv (port : Fin 36) (count : W64) (s : State) (h : s.MemInv) :
    OutInv (execProbeReplyReceive port count s) := by
  unfold execProbeReplyReceive
  try dsimp only
  repeat' first
    | with_reducible assumption | with_reducible refine OutInv.next ?_ | with_reducible refine MemInv.mem ?_
    | with_reducible apply State.replyGot_memInv

theorem State.linksGot_memInv (s : State) (p : Nat) (ws : List W32) (h : s.MemInv) :
    (State.linksGot s p ws).MemInv := by
  unfold State.linksGot
  try dsimp only
  repeat' first
    | with_reducible assumption | with_reducible refine MemInv.ite (fun _ => ?_) (fun _ => ?_)
    | with_reducible refine MemInv.mem ?_ | simp only [MemInv.mk_iff]

theorem State.dataGot_memInv (s : State) (p : Nat) (f : Flit) (h : s.MemInv) :
    (State.dataGot s p f).MemInv := by
  unfold State.dataGot
  try dsimp only
  repeat' first
    | with_reducible assumption | with_reducible refine MemInv.mem ?_ | with_reducible apply State.linksGot_memInv
    | with_reducible apply State.setPort_memInv | with_reducible refine MemInv.foldl (fun _ _ _ => ?_) _ ?_

theorem State.flTake_memInv (s : State) (p : Nat) (f : Flit) (h : s.MemInv) :
    (State.flTake s p f).MemInv := by
  unfold State.flTake
  try dsimp only
  repeat' first
    | with_reducible assumption | with_reducible refine MemInv.mem ?_ | with_reducible apply State.dataGot_memInv
    | with_reducible apply State.nakGot_memInv | with_reducible apply State.probeGot_memInv
    | with_reducible apply State.replyGot_memInv | split

theorem State.flDrop_memInv (s : State) (p : Nat) (h : s.MemInv) :
    (State.flDrop s p).MemInv := by
  unfold State.flDrop
  try dsimp only
  repeat' first
    | with_reducible assumption | with_reducible refine MemInv.ite (fun _ => ?_) (fun _ => ?_)
    | with_reducible refine MemInv.mem ?_ | with_reducible apply State.sendOwn_memInv
    | with_reducible apply State.setPort_memInv

theorem execFlitReceive_memInv (port : Fin 36) (flit : Flit) (s : State) (h : s.MemInv) :
    OutInv (execFlitReceive port flit s) := by
  unfold execFlitReceive
  try dsimp only
  repeat' first
    | with_reducible assumption | with_reducible refine OutInv.next ?_
    | with_reducible refine MemInv.ite (fun _ => ?_) (fun _ => ?_) | with_reducible refine MemInv.mem ?_
    | with_reducible apply State.flDrop_memInv | with_reducible apply State.addSat_memInv
    | with_reducible apply State.malformed_memInv | with_reducible apply State.pump_memInv
    | with_reducible apply State.setPort_memInv | with_reducible apply State.event_memInv
    | with_reducible apply State.pumpAck_memInv | with_reducible apply State.flTake_memInv

theorem execProbeSend_memInv (port : Fin 36) (s : State) (h : s.MemInv) :
    OutInv (execProbeSend port s) := by
  unfold execProbeSend
  try dsimp only
  repeat' first
    | with_reducible assumption | with_reducible refine OutInv.next ?_
    | with_reducible refine MemInv.ite (fun _ => ?_) (fun _ => ?_) | with_reducible refine MemInv.mem ?_
    | with_reducible apply State.advance_memInv | with_reducible apply State.sendOwn_memInv
    | with_reducible apply State.setPort_memInv

theorem execProbeMiss_memInv (port : Fin 36) (s : State) (h : s.MemInv) :
    OutInv (execProbeMiss port s) := by
  unfold execProbeMiss
  try dsimp only
  repeat' first
    | with_reducible assumption | with_reducible refine OutInv.next ?_
    | with_reducible refine MemInv.ite (fun _ => ?_) (fun _ => ?_) | with_reducible refine MemInv.mem ?_
    | with_reducible apply State.addSat_memInv | with_reducible apply State.advance_memInv
    | with_reducible apply State.setPort_memInv | with_reducible apply State.discCheck_memInv
    | with_reducible apply State.absent_memInv | split

theorem execLossOfLight_memInv (port : Fin 36) (s : State) (h : s.MemInv) :
    OutInv (execLossOfLight port s) := by
  unfold execLossOfLight
  try dsimp only
  repeat' first
    | with_reducible assumption | with_reducible refine OutInv.next ?_ | with_reducible refine MemInv.mem ?_
    | with_reducible apply State.discCheck_memInv | with_reducible apply State.absent_memInv
    | with_reducible apply State.setPort_memInv | split

theorem execStarveEpisode_memInv (port : Fin 36) (s : State) (h : s.MemInv) :
    OutInv (execStarveEpisode port s) := by
  unfold execStarveEpisode
  try dsimp only
  repeat' first
    | with_reducible assumption | with_reducible refine OutInv.next ?_
    | with_reducible refine MemInv.ite (fun _ => ?_) (fun _ => ?_) | with_reducible refine MemInv.mem ?_
    | with_reducible apply State.addSat_memInv | with_reducible apply State.setPort_memInv
    | with_reducible apply State.fencePort_memInv

theorem execFenceWindowExpire_memInv (port : Fin 36) (s : State) (h : s.MemInv) :
    OutInv (execFenceWindowExpire port s) := by
  unfold execFenceWindowExpire
  try dsimp only
  repeat' first
    | with_reducible assumption | with_reducible refine OutInv.next ?_ | with_reducible refine MemInv.mem ?_
    | with_reducible apply State.advance_memInv | with_reducible apply State.setPort_memInv

theorem execRateIntervalExpire_memInv (port : Fin 36) (s : State) (h : s.MemInv) :
    OutInv (execRateIntervalExpire port s) := by
  unfold execRateIntervalExpire
  try dsimp only
  repeat' first
    | with_reducible assumption | with_reducible refine OutInv.next ?_ | with_reducible refine MemInv.mem ?_
    | with_reducible apply State.advance_memInv | with_reducible apply State.setPort_memInv

theorem State.countHeader_memInv (s : State) (p : Nat) (h : s.MemInv) :
    (State.countHeader s p).1.MemInv := by
  unfold State.countHeader
  try dsimp only
  repeat' first
    | with_reducible assumption | with_reducible refine MemInv.ite (fun _ => ?_) (fun _ => ?_)
    | with_reducible refine MemInv.mem ?_ | with_reducible apply State.setPort_memInv | with_reducible apply State.addSat_memInv
    | with_reducible apply State.fencePort_memInv | split

theorem execLinkMapUpdate_memInv (port : Fin 36) (idx : BitVec 8) (entry : W32) (s : State) (h : s.MemInv) :
    OutInv (execLinkMapUpdate port idx entry s) := by
  unfold execLinkMapUpdate
  try dsimp only
  repeat' first
    | with_reducible assumption | with_reducible refine OutInv.next ?_
    | with_reducible refine MemInv.ite (fun _ => ?_) (fun _ => ?_) | with_reducible refine MemInv.mem ?_
    | simp only [MemInv.mk_iff]

theorem State.portCtl_memInv (s : State) (p : Nat) (v : W32) (h : s.MemInv) :
    (State.portCtl s p v).MemInv := by
  unfold State.portCtl
  try dsimp only
  repeat' first
    | with_reducible assumption | with_reducible refine MemInv.ite (fun _ => ?_) (fun _ => ?_)
    | with_reducible refine MemInv.mem ?_ | with_reducible apply State.discCheck_memInv
    | with_reducible apply State.fencePort_memInv | with_reducible apply State.setPort_memInv
    | with_reducible apply State.leaveUp_memInv | with_reducible apply State.goUp_memInv
    | with_reducible apply State.setErr_memInv

theorem execPortCtlAdmit_memInv (port : Fin 36) (value : W32) (s : State) (h : s.MemInv) :
    OutInv (execPortCtlAdmit port value s) := by
  unfold execPortCtlAdmit
  try dsimp only
  repeat' first
    | with_reducible assumption | with_reducible refine OutInv.next ?_ | with_reducible refine MemInv.mem ?_
    | with_reducible apply State.portCtl_memInv

theorem execPortCtlFence_memInv (port : Fin 36) (value : W32) (s : State) (h : s.MemInv) :
    OutInv (execPortCtlFence port value s) := by
  unfold execPortCtlFence
  try dsimp only
  repeat' first
    | with_reducible assumption | with_reducible refine OutInv.next ?_ | with_reducible refine MemInv.mem ?_
    | with_reducible apply State.portCtl_memInv

theorem execPortCtlUnfence_memInv (port : Fin 36) (value : W32) (s : State) (h : s.MemInv) :
    OutInv (execPortCtlUnfence port value s) := by
  unfold execPortCtlUnfence
  try dsimp only
  repeat' first
    | with_reducible assumption | with_reducible refine OutInv.next ?_ | with_reducible refine MemInv.mem ?_
    | with_reducible apply State.portCtl_memInv

theorem execPortCtlRetrain_memInv (port : Fin 36) (value : W32) (s : State) (h : s.MemInv) :
    OutInv (execPortCtlRetrain port value s) := by
  unfold execPortCtlRetrain
  try dsimp only
  repeat' first
    | with_reducible assumption | with_reducible refine OutInv.next ?_ | with_reducible refine MemInv.mem ?_
    | with_reducible apply State.portCtl_memInv

theorem State.setGenMax_memInv (s : State) (p : Nat) (v : W32) (h : s.MemInv) :
    (State.setGenMax s p v).MemInv := by
  unfold State.setGenMax
  try dsimp only
  repeat' first
    | with_reducible assumption | with_reducible refine MemInv.ite (fun _ => ?_) (fun _ => ?_)
    | with_reducible refine MemInv.mem ?_ | with_reducible apply State.setReg_memInv | with_reducible apply State.leaveUp_memInv
    | with_reducible apply State.setPort_memInv

theorem execPortCfgWrite_memInv (port : Fin 36) (value : W32) (s : State) (h : s.MemInv) :
    OutInv (execPortCfgWrite port value s) := by
  unfold execPortCfgWrite
  try dsimp only
  repeat' first
    | with_reducible assumption | with_reducible refine OutInv.next ?_
    | with_reducible refine MemInv.ite (fun _ => ?_) (fun _ => ?_) | with_reducible refine MemInv.mem ?_
    | with_reducible apply State.setErr_memInv | with_reducible apply State.setReg_memInv
    | with_reducible apply State.discCheck_memInv | with_reducible apply State.setGenMax_memInv

end Sys2Proof.Machine
end

