-- ==== Sys2Proof/Laws/KeepSmbus.lean ====
section
/-! SUPPORT. What the operations of Machine/Smbus.lean do keeps the invariant of memory. -/
set_option linter.unusedSimpArgs false
namespace Sys2Proof.Machine

theorem State.smbRead_memInv (s : State) (code : Nat) (bs : List Byte) (pec : Bool) (h : s.MemInv) :
    (State.smbRead s code bs pec).MemInv := by
  unfold State.smbRead
  try dsimp only
  repeat' first
    | with_reducible assumption | with_reducible refine MemInv.ite (fun _ => ?_) (fun _ => ?_)
    | with_reducible refine MemInv.mem ?_ | with_reducible apply State.emit_memInv | with_reducible apply State.event_memInv

theorem execSmbStatus_memInv (pec : Bool) (s : State) (h : s.MemInv) :
    OutInv (execSmbStatus pec s) := by
  unfold execSmbStatus
  try dsimp only
  repeat' first
    | with_reducible assumption | with_reducible refine OutInv.next ?_ | with_reducible refine MemInv.mem ?_
    | with_reducible apply State.smbRead_memInv

theorem execSmbTemp_memInv (pec : Bool) (s : State) (h : s.MemInv) :
    OutInv (execSmbTemp pec s) := by
  unfold execSmbTemp
  try dsimp only
  repeat' first
    | with_reducible assumption | with_reducible refine OutInv.next ?_ | with_reducible refine MemInv.mem ?_
    | with_reducible apply State.smbRead_memInv

theorem execSmbPower_memInv (pec : Bool) (s : State) (h : s.MemInv) :
    OutInv (execSmbPower pec s) := by
  unfold execSmbPower
  try dsimp only
  repeat' first
    | with_reducible assumption | with_reducible refine OutInv.next ?_ | with_reducible refine MemInv.mem ?_
    | with_reducible apply State.smbRead_memInv

theorem execSmbEscCause_memInv (pec : Bool) (s : State) (h : s.MemInv) :
    OutInv (execSmbEscCause pec s) := by
  unfold execSmbEscCause
  try dsimp only
  repeat' first
    | with_reducible assumption | with_reducible refine OutInv.next ?_ | with_reducible refine MemInv.mem ?_
    | with_reducible apply State.smbRead_memInv

theorem execSmbPosition_memInv (pec : Bool) (s : State) (h : s.MemInv) :
    OutInv (execSmbPosition pec s) := by
  unfold execSmbPosition
  try dsimp only
  repeat' first
    | with_reducible assumption | with_reducible refine OutInv.next ?_ | with_reducible refine MemInv.mem ?_
    | with_reducible apply State.smbRead_memInv

theorem execSmbIdDigest_memInv (pec : Bool) (s : State) (h : s.MemInv) :
    OutInv (execSmbIdDigest pec s) := by
  unfold execSmbIdDigest
  try dsimp only
  repeat' first
    | with_reducible assumption | with_reducible refine OutInv.next ?_ | with_reducible refine MemInv.mem ?_
    | with_reducible apply State.smbRead_memInv

theorem execSmbSvn_memInv (pec : Bool) (s : State) (h : s.MemInv) :
    OutInv (execSmbSvn pec s) := by
  unfold execSmbSvn
  try dsimp only
  repeat' first
    | with_reducible assumption | with_reducible refine OutInv.next ?_ | with_reducible refine MemInv.mem ?_
    | with_reducible apply State.smbRead_memInv

theorem execSmbTrayLimitWrite_memInv (watts : BitVec 16) (pec : Pec) (s : State) (h : s.MemInv) :
    OutInv (execSmbTrayLimitWrite watts pec s) := by
  unfold execSmbTrayLimitWrite
  try dsimp only
  repeat' first
    | with_reducible assumption | with_reducible refine OutInv.next ?_
    | with_reducible refine MemInv.ite (fun _ => ?_) (fun _ => ?_) | with_reducible refine MemInv.mem ?_
    | with_reducible apply State.emit_memInv | with_reducible apply State.setErr_memInv
    | with_reducible apply State.event_memInv | with_reducible apply State.setReg_memInv

theorem execSmbTrayLimitRead_memInv (pec : Bool) (s : State) (h : s.MemInv) :
    OutInv (execSmbTrayLimitRead pec s) := by
  unfold execSmbTrayLimitRead
  try dsimp only
  repeat' first
    | with_reducible assumption | with_reducible refine OutInv.next ?_ | with_reducible refine MemInv.mem ?_
    | with_reducible apply State.smbRead_memInv

theorem execSmbBadCommand_memInv (code : Byte) (s : State) (h : s.MemInv) :
    OutInv (execSmbBadCommand code s) := by
  unfold execSmbBadCommand
  try dsimp only
  repeat' first
    | with_reducible assumption | with_reducible refine OutInv.next ?_
    | with_reducible refine MemInv.ite (fun _ => ?_) (fun _ => ?_) | with_reducible refine MemInv.mem ?_
    | with_reducible apply State.emit_memInv | with_reducible apply State.setErr_memInv

theorem execSmbAlertResponse_memInv (s : State) (h : s.MemInv) :
    OutInv (execSmbAlertResponse s) := by
  unfold execSmbAlertResponse
  try dsimp only
  repeat' first
    | with_reducible assumption | with_reducible refine OutInv.next ?_
    | with_reducible refine MemInv.ite (fun _ => ?_) (fun _ => ?_) | with_reducible refine MemInv.mem ?_
    | with_reducible apply State.emit_memInv | with_reducible apply State.event_memInv

end Sys2Proof.Machine
end

