-- ==== Sys2Proof/Laws/KeepWindow.lean ====
section
/-! SUPPORT. What the operations of Machine/Window.lean do keeps the invariant of memory. -/
set_option linter.unusedSimpArgs false
namespace Sys2Proof.Machine

theorem execCommandWindowWrite_memInv (w : Fin 64) (off : BitVec 16) (data : List Byte) (enables : List Bool) (s : State) (h : s.MemInv) :
    OutInv (execCommandWindowWrite w off data enables s) := by
  unfold execCommandWindowWrite
  try dsimp only
  repeat' first
    | with_reducible assumption | with_reducible refine OutInv.next ?_
    | with_reducible refine MemInv.ite (fun _ => ?_) (fun _ => ?_) | with_reducible refine MemInv.mem ?_
    | with_reducible apply State.setWin_memInv | with_reducible apply State.fresh_memInv

theorem State.consume_memInv (s : State) (w : Nat) (h : s.MemInv) :
    (State.consume s w).MemInv := by
  unfold State.consume
  try dsimp only
  repeat' first
    | with_reducible assumption | with_reducible refine MemInv.mem ?_ | with_reducible apply State.event_memInv
    | with_reducible apply State.setWin_memInv

theorem State.refuseRec_memInv (s : State) (w : Nat) (reason : Nat) (h : s.MemInv) :
    (State.refuseRec s w reason).MemInv := by
  unfold State.refuseRec
  try dsimp only
  repeat' first
    | with_reducible assumption | with_reducible refine MemInv.mem ?_ | with_reducible apply State.winFault_memInv
    | with_reducible apply State.consume_memInv

theorem State.winHold_memInv (s : State) (w : Nat) (st : WinSt) (h : s.MemInv) :
    (State.winHold s w st).MemInv := by
  unfold State.winHold
  try dsimp only
  repeat' first
    | with_reducible assumption | with_reducible refine MemInv.ite (fun _ => ?_) (fun _ => ?_)
    | with_reducible refine MemInv.mem ?_ | with_reducible apply State.setWin_memInv

theorem State.winPlace_memInv (s : State) (w : Nat) (ws : List W32) (h : s.MemInv) :
    (State.winPlace s w ws).MemInv := by
  unfold State.winPlace
  try dsimp only
  repeat' first
    | with_reducible assumption | with_reducible refine MemInv.mem ?_ | with_reducible apply State.placeWork_memInv
    | with_reducible apply State.consume_memInv | with_reducible apply State.winHold_memInv
    | with_reducible refine OptInv.some ?_ | with_reducible exact OptInv.none
    | with_reducible refine MemInv.of_some (by assumption) ?_ | split

theorem State.refDone_memInv (s : State) (w : Nat) (ws : List W32) (poison : Bool) (h : s.MemInv) :
    (State.refDone s w ws poison).MemInv := by
  unfold State.refDone
  try dsimp only
  repeat' first
    | with_reducible assumption | with_reducible refine MemInv.ite (fun _ => ?_) (fun _ => ?_)
    | with_reducible refine MemInv.mem ?_ | simp only [MemInv.mk_iff] | with_reducible apply State.refuseRec_memInv
    | with_reducible apply State.winPlace_memInv | with_reducible apply State.setWin_memInv

theorem State.refFault_memInv (s : State) (w : Nat) (reason : Nat) (a : Nat) (h : s.MemInv) :
    (State.refFault s w reason a).MemInv := by
  unfold State.refFault
  try dsimp only
  repeat' first
    | with_reducible assumption | with_reducible refine MemInv.mem ?_ | simp only [MemInv.mk_iff]
    | with_reducible apply State.refuseRec_memInv | with_reducible apply State.recordXlate_memInv

theorem State.refRead_memInv (s : State) (w : Nat) (a : Nat) (e : Ecc) (h : s.MemInv) :
    (State.refRead s w a e).MemInv := by
  unfold State.refRead
  try dsimp only
  repeat' first
    | with_reducible assumption | with_reducible refine MemInv.mem ?_ | with_reducible apply State.lookup_memInv
    | with_reducible apply State.event_memInv | with_reducible apply State.refFault_memInv
    | with_reducible apply State.setWin_memInv | with_reducible apply State.submit_memInv | split

theorem State.refAnswer_memInv (s : State) (w : Nat) (gen : Nat) (reason : Nat) (a : Nat) (bs : List OutByte) (h : s.MemInv) :
    (State.refAnswer s w gen reason a bs).MemInv := by
  unfold State.refAnswer
  try dsimp only
  repeat' first
    | with_reducible assumption | with_reducible refine MemInv.ite (fun _ => ?_) (fun _ => ?_)
    | with_reducible refine MemInv.mem ?_ | with_reducible apply State.setWin_memInv | with_reducible apply State.refDone_memInv
    | with_reducible apply State.refFault_memInv

theorem State.recAct_memInv (s : State) (w : Nat) (r : List W32) (e : Ecc) (h : s.MemInv) :
    (State.recAct s w r e).MemInv := by
  unfold State.recAct
  try dsimp only
  repeat' first
    | with_reducible assumption | with_reducible refine MemInv.ite (fun _ => ?_) (fun _ => ?_)
    | with_reducible refine MemInv.mem ?_ | with_reducible apply State.consume_memInv
    | with_reducible apply State.winPlace_memInv | with_reducible apply State.refuseRec_memInv
    | with_reducible apply State.refRead_memInv | with_reducible apply State.addTally_memInv
    | with_reducible apply State.placeCore_memInv | with_reducible apply State.winHold_memInv
    | with_reducible refine OptInv.some ?_ | with_reducible exact OptInv.none
    | with_reducible refine MemInv.of_some (by assumption) ?_ | split

theorem State.winWait_memInv (s : State) (w : Nat) (r : List W32) (h : s.MemInv) :
    (State.winWait s w r).MemInv := by
  unfold State.winWait
  try dsimp only
  repeat' first
    | with_reducible assumption | with_reducible refine MemInv.mem ?_ | with_reducible apply State.winHold_memInv
    | with_reducible apply State.setWin_memInv

theorem State.recJudged_memInv (s : State) (w : Nat) (r : List W32) (met : Bool) (e : Ecc) (h : s.MemInv) :
    (State.recJudged s w r met e).MemInv := by
  unfold State.recJudged
  try dsimp only
  repeat' first
    | with_reducible assumption | with_reducible refine MemInv.ite (fun _ => ?_) (fun _ => ?_)
    | with_reducible refine MemInv.mem ?_ | with_reducible apply State.refuseRec_memInv
    | with_reducible apply State.winWait_memInv | with_reducible apply State.recAct_memInv

theorem State.serve_memInv (s : State) (w : Nat) (kinds : List Nat) (e : Ecc) (h : s.MemInv) :
    (State.serve s w kinds e).MemInv := by
  unfold State.serve
  try dsimp only
  repeat' first
    | with_reducible assumption | with_reducible refine MemInv.ite (fun _ => ?_) (fun _ => ?_)
    | with_reducible refine MemInv.mem ?_ | simp only [MemInv.mk_iff] | with_reducible apply State.fresh_memInv
    | with_reducible apply State.setWin_memInv | with_reducible apply State.recJudged_memInv
    | with_reducible refine Mem.Inv.setMarking ?_ _ | split

theorem execRecordNop_memInv (w : Fin 64) (s : State) (h : s.MemInv) :
    OutInv (execRecordNop w s) := by
  unfold execRecordNop
  try dsimp only
  repeat' first
    | with_reducible assumption | with_reducible refine OutInv.next ?_ | with_reducible refine MemInv.mem ?_
    | with_reducible apply State.serve_memInv

theorem execRecordDesc_memInv (w : Fin 64) (s : State) (h : s.MemInv) :
    OutInv (execRecordDesc w s) := by
  unfold execRecordDesc
  try dsimp only
  repeat' first
    | with_reducible assumption | with_reducible refine OutInv.next ?_ | with_reducible refine MemInv.mem ?_
    | with_reducible apply State.serve_memInv

theorem execRecordDescRef_memInv (w : Fin 64) (pm : Ecc) (s : State) (h : s.MemInv) :
    OutInv (execRecordDescRef w pm s) := by
  unfold execRecordDescRef
  try dsimp only
  repeat' first
    | with_reducible assumption | with_reducible refine OutInv.next ?_ | with_reducible refine MemInv.mem ?_
    | with_reducible apply State.serve_memInv

theorem execRecordTinc_memInv (w : Fin 64) (s : State) (h : s.MemInv) :
    OutInv (execRecordTinc w s) := by
  unfold execRecordTinc
  try dsimp only
  repeat' first
    | with_reducible assumption | with_reducible refine OutInv.next ?_ | with_reducible refine MemInv.mem ?_
    | with_reducible apply State.serve_memInv

theorem execRecordProg_memInv (w : Fin 64) (s : State) (h : s.MemInv) :
    OutInv (execRecordProg w s) := by
  unfold execRecordProg
  try dsimp only
  repeat' first
    | with_reducible assumption | with_reducible refine OutInv.next ?_ | with_reducible refine MemInv.mem ?_
    | with_reducible apply State.serve_memInv

theorem execDescRefReadDone_memInv (w : Fin 64) (us : List GranUse) (s : State) (h : s.MemInv) :
    OutInv (execDescRefReadDone w us s) := by
  unfold execDescRefReadDone
  try dsimp only
  repeat' first
    | with_reducible assumption | with_reducible refine OutInv.next ?_
    | with_reducible refine MemInv.ite (fun _ => ?_) (fun _ => ?_) | with_reducible refine MemInv.mem ?_
    | with_reducible apply State.refFault_memInv | with_reducible apply State.readRange_memInv
    | with_reducible apply State.refDone_memInv | split

theorem execRecordWaitRelease_memInv (w : Fin 64) (pm : Ecc) (s : State) (h : s.MemInv) :
    OutInv (execRecordWaitRelease w pm s) := by
  unfold execRecordWaitRelease
  try dsimp only
  repeat' first
    | with_reducible assumption | with_reducible refine OutInv.next ?_
    | with_reducible refine MemInv.ite (fun _ => ?_) (fun _ => ?_) | with_reducible refine MemInv.mem ?_
    | with_reducible apply State.recJudged_memInv | with_reducible apply State.event_memInv
    | with_reducible apply State.setWin_memInv | split

theorem execProgWait_memInv (w : Fin 64) (s : State) (h : s.MemInv) :
    OutInv (execProgWait w s) := by
  unfold execProgWait
  try dsimp only
  repeat' first
    | with_reducible assumption | with_reducible refine OutInv.next ?_
    | with_reducible refine MemInv.ite (fun _ => ?_) (fun _ => ?_) | with_reducible refine MemInv.mem ?_
    | with_reducible apply State.setErr_memInv | with_reducible apply State.advance_memInv | split

theorem execWinCtlEnWrite_memInv (w : Fin 64) (en : Bool) (s : State) (h : s.MemInv) :
    OutInv (execWinCtlEnWrite w en s) := by
  unfold execWinCtlEnWrite
  try dsimp only
  repeat' first
    | with_reducible assumption | with_reducible refine OutInv.next ?_
    | with_reducible refine MemInv.ite (fun _ => ?_) (fun _ => ?_) | with_reducible refine MemInv.mem ?_
    | with_reducible apply State.setWin_memInv

theorem execWinCtlResume_memInv (w : Fin 64) (s : State) (h : s.MemInv) :
    OutInv (execWinCtlResume w s) := by
  unfold execWinCtlResume
  try dsimp only
  repeat' first
    | with_reducible assumption | with_reducible refine OutInv.next ?_
    | with_reducible refine MemInv.ite (fun _ => ?_) (fun _ => ?_) | with_reducible refine MemInv.mem ?_
    | with_reducible apply State.setWin_memInv

theorem execWinNextWrite_memInv (w : Fin 64) (value : W32) (s : State) (h : s.MemInv) :
    OutInv (execWinNextWrite w value s) := by
  unfold execWinNextWrite
  try dsimp only
  repeat' first
    | with_reducible assumption | with_reducible refine OutInv.next ?_
    | with_reducible refine MemInv.ite (fun _ => ?_) (fun _ => ?_) | with_reducible refine MemInv.mem ?_
    | with_reducible apply State.setWin_memInv

theorem execTallyWrite_memInv (t : Fin 4096) (wide : Bool) (value : W64) (s : State) (h : s.MemInv) :
    OutInv (execTallyWrite t wide value s) := by
  unfold execTallyWrite
  try dsimp only
  repeat' first
    | with_reducible assumption | with_reducible refine OutInv.next ?_
    | with_reducible refine MemInv.ite (fun _ => ?_) (fun _ => ?_) | with_reducible refine MemInv.mem ?_
    | with_reducible apply State.setTally_memInv

theorem execHostInc_memInv (value : W32) (s : State) (h : s.MemInv) :
    OutInv (execHostInc value s) := by
  unfold execHostInc
  try dsimp only
  repeat' first
    | with_reducible assumption | with_reducible refine OutInv.next ?_
    | with_reducible refine MemInv.ite (fun _ => ?_) (fun _ => ?_) | with_reducible refine MemInv.mem ?_
    | with_reducible apply State.addTally_memInv

theorem State.blockLost_memInv (s : State) (b : Nat) (h : s.MemInv) :
    (State.blockLost s b).MemInv := by
  unfold State.blockLost
  try dsimp only
  repeat' first
    | with_reducible assumption | with_reducible refine MemInv.mem ?_ | with_reducible apply State.fresh_memInv
    | with_reducible apply State.setTally_memInv | with_reducible refine MemInv.foldl (fun _ _ _ => ?_) _ ?_

theorem execBlockOwnWrite_memInv (b : Fin 64) (value : W32) (s : State) (h : s.MemInv) :
    OutInv (execBlockOwnWrite b value s) := by
  unfold execBlockOwnWrite
  try dsimp only
  repeat' first
    | with_reducible assumption | with_reducible refine OutInv.next ?_
    | with_reducible refine MemInv.ite (fun _ => ?_) (fun _ => ?_) | with_reducible refine MemInv.mem ?_
    | with_reducible apply State.setReg_memInv | with_reducible apply State.blockLost_memInv

theorem execSlotTokWrite_memInv (i : Fin 8) (value : W32) (s : State) (h : s.MemInv) :
    OutInv (execSlotTokWrite i value s) := by
  unfold execSlotTokWrite
  try dsimp only
  repeat' first
    | with_reducible assumption | with_reducible refine OutInv.next ?_
    | with_reducible refine MemInv.ite (fun _ => ?_) (fun _ => ?_) | with_reducible refine MemInv.mem ?_
    | with_reducible apply State.setErr_memInv | with_reducible apply State.setReg_memInv

end Sys2Proof.Machine
end

