-- ==== Sys2Proof/Laws/KeepRegs.lean ====
section
/-! SUPPORT. What the operations of Machine/Regs.lean do keeps the invariant of memory. -/
set_option linter.unusedSimpArgs false
namespace Sys2Proof.Machine

theorem State.afterWrite_memInv (s : State) (p : Page) (off : Nat) (h : s.MemInv) :
    (State.afterWrite s p off).MemInv := by
  unfold State.afterWrite
  try dsimp only
  repeat' first
    | with_reducible assumption | with_reducible refine MemInv.ite (fun _ => ?_) (fun _ => ?_)
    | with_reducible refine MemInv.mem ?_ | simp only [MemInv.mk_iff] | with_reducible apply State.irqUpdate_memInv
    | with_reducible apply State.avsUpdate_memInv | with_reducible apply State.setRidge_memInv
    | with_reducible apply State.fresh_memInv | with_reducible apply State.setField_memInv
    | with_reducible apply State.setFlag_memInv | with_reducible refine MemInv.foldl (fun _ _ _ => ?_) _ ?_
    | with_reducible refine MemInv.foldl_fst (fun _ _ _ => ?_) _ ?_ | with_reducible refine Mem.Inv.setMarking ?_ _ | split

theorem State.writePlain_memInv (s : State) (p : Page) (off : Nat) (v : W32) (h : s.MemInv) :
    (State.writePlain s p off v).MemInv := by
  unfold State.writePlain
  try dsimp only
  repeat' first
    | with_reducible assumption | with_reducible refine MemInv.ite (fun _ => ?_) (fun _ => ?_)
    | with_reducible refine MemInv.mem ?_ | simp only [MemInv.mk_iff] | with_reducible apply State.afterWrite_memInv
    | with_reducible apply State.storeBits_memInv

theorem State.loadBusy_memInv (s : State) (p : Page) (off : Nat) (h : s.MemInv) :
    OptInv (State.loadBusy s p off) := by
  unfold State.loadBusy
  try dsimp only
  repeat' first
    | with_reducible assumption | with_reducible refine MemInv.ite (fun _ => ?_) (fun _ => ?_)
    | with_reducible refine MemInv.mem ?_ | with_reducible apply State.setErr_memInv | with_reducible refine OptInv.some ?_
    | with_reducible exact OptInv.none | with_reducible refine MemInv.of_some (by assumption) ?_ | split

theorem State.setHeld_memInv (s : State) (a : Nat) (v : W32) (h : s.MemInv) :
    (State.setHeld s a v).MemInv := by
  unfold State.setHeld
  try dsimp only
  repeat' first
    | with_reducible assumption | with_reducible refine MemInv.mem ?_ | simp only [MemInv.mk_iff]

theorem State.writeLo_memInv (s : State) (p : Page) (off : Nat) (v : W32) (h : s.MemInv) :
    (State.writeLo s p off v).MemInv := by
  unfold State.writeLo
  try dsimp only
  repeat' first
    | with_reducible assumption | with_reducible refine MemInv.mem ?_ | with_reducible apply State.loadBusy_memInv
    | with_reducible apply State.setHeld_memInv | with_reducible refine OptInv.some ?_ | with_reducible exact OptInv.none
    | with_reducible refine MemInv.of_some (by assumption) ?_ | split

theorem State.writeHi_memInv (s : State) (p : Page) (off : Nat) (v : W32) (h : s.MemInv) :
    (State.writeHi s p off v).MemInv := by
  unfold State.writeHi
  try dsimp only
  repeat' first
    | with_reducible assumption | with_reducible refine MemInv.mem ?_ | with_reducible apply State.storeBits_memInv

theorem execPairLoWrite_memInv (addr : BitVec 29) (value : W32) (s : State) (h : s.MemInv) :
    OutInv (execPairLoWrite addr value s) := by
  unfold execPairLoWrite
  try dsimp only
  repeat' first
    | with_reducible assumption | with_reducible refine OutInv.next ?_
    | with_reducible refine MemInv.ite (fun _ => ?_) (fun _ => ?_) | with_reducible refine MemInv.mem ?_
    | with_reducible apply State.writeLo_memInv | with_reducible apply State.setHeld_memInv | split

theorem execPairHiWrite_memInv (addr : BitVec 29) (value : W32) (s : State) (h : s.MemInv) :
    OutInv (execPairHiWrite addr value s) := by
  unfold execPairHiWrite
  try dsimp only
  repeat' first
    | with_reducible assumption | with_reducible refine OutInv.next ?_
    | with_reducible refine MemInv.ite (fun _ => ?_) (fun _ => ?_) | with_reducible refine MemInv.mem ?_
    | with_reducible apply State.writeHi_memInv | split

theorem execSealKeyWrite_memInv (addr : BitVec 29) (value : W32) (s : State) (h : s.MemInv) :
    OutInv (execSealKeyWrite addr value s) := by
  unfold execSealKeyWrite
  try dsimp only
  repeat' first
    | with_reducible assumption | with_reducible refine OutInv.next ?_
    | with_reducible refine MemInv.ite (fun _ => ?_) (fun _ => ?_) | with_reducible refine MemInv.mem ?_
    | simp only [MemInv.mk_iff] | with_reducible refine Mem.Inv.setMarking ?_ _ | split

theorem State.afterClear_memInv (s : State) (p : Page) (h : s.MemInv) :
    (State.afterClear s p).MemInv := by
  unfold State.afterClear
  try dsimp only
  repeat' first
    | with_reducible assumption | with_reducible refine MemInv.ite (fun _ => ?_) (fun _ => ?_)
    | with_reducible refine MemInv.mem ?_ | simp only [MemInv.mk_iff] | with_reducible apply State.setFlag_memInv
    | with_reducible refine MemInv.foldl (fun _ _ _ => ?_) _ ?_ | with_reducible refine MemInv.foldl_fst (fun _ _ _ => ?_) _ ?_
    | with_reducible refine Mem.Inv.setMarking ?_ _ | split

theorem execErrStatClear_memInv (addr : BitVec 29) (value : W32) (detect : W32) (s : State) (h : s.MemInv) :
    OutInv (execErrStatClear addr value detect s) := by
  unfold execErrStatClear
  try dsimp only
  repeat' first
    | with_reducible assumption | with_reducible refine OutInv.next ?_
    | with_reducible refine MemInv.ite (fun _ => ?_) (fun _ => ?_) | with_reducible refine MemInv.mem ?_
    | with_reducible apply State.irqUpdate_memInv | with_reducible apply State.afterClear_memInv
    | with_reducible apply State.setReg_memInv | split

theorem execErrFirstClear_memInv (addr : BitVec 29) (value : W32) (s : State) (h : s.MemInv) :
    OutInv (execErrFirstClear addr value s) := by
  unfold execErrFirstClear
  try dsimp only
  repeat' first
    | with_reducible assumption | with_reducible refine OutInv.next ?_
    | with_reducible refine MemInv.ite (fun _ => ?_) (fun _ => ?_) | with_reducible refine MemInv.mem ?_
    | with_reducible apply State.setReg_memInv | split

theorem State.hardStrike_memInv (s : State) (p : Page) (h : HardStrike) (hm : s.MemInv) :
    (State.hardStrike s p h).MemInv := by
  unfold State.hardStrike
  try dsimp only
  repeat' first
    | with_reducible assumption | with_reducible refine MemInv.ite (fun _ => ?_) (fun _ => ?_)
    | with_reducible refine MemInv.mem ?_ | simp only [MemInv.mk_iff] | with_reducible apply State.setField_memInv
    | with_reducible apply State.fresh_memInv | with_reducible apply State.setReg_memInv
    | with_reducible apply State.irqUpdate_memInv | with_reducible apply State.wreck_memInv
    | with_reducible apply State.setFlag_memInv | with_reducible apply State.escalate_memInv
    | with_reducible apply State.stepAbort_memInv | with_reducible apply State.countErr_memInv

theorem execHardRegScan_memInv (addr : BitVec 26) (strikes : List HardStrike) (s : State) (h : s.MemInv) :
    OutInv (execHardRegScan addr strikes s) := by
  unfold execHardRegScan
  try dsimp only
  repeat' first
    | with_reducible assumption | with_reducible refine OutInv.next ?_
    | with_reducible refine MemInv.ite (fun _ => ?_) (fun _ => ?_) | with_reducible refine MemInv.mem ?_
    | with_reducible apply State.hardStrike_memInv | with_reducible refine MemInv.foldl (fun _ _ _ => ?_) _ ?_
    | with_reducible refine MemInv.foldl_fst (fun _ _ _ => ?_) _ ?_ | split

theorem execPartCfgWrite_memInv (value : W32) (s : State) (h : s.MemInv) :
    OutInv (execPartCfgWrite value s) := by
  unfold execPartCfgWrite
  try dsimp only
  repeat' first
    | with_reducible assumption | with_reducible refine OutInv.next ?_
    | with_reducible refine MemInv.ite (fun _ => ?_) (fun _ => ?_) | with_reducible refine MemInv.mem ?_
    | with_reducible apply State.setErr_memInv | with_reducible apply State.storeBits_memInv

theorem execD2dTransferRetry_memInv (link : Fin 13) (fails : Fin 18) (s : State) (h : s.MemInv) :
    OutInv (execD2dTransferRetry link fails s) := by
  refine OutInv.next (MemInv.ite (fun _ => h) fun _ => ?_)
  have ht := State.addSat_memInv s .dev (0x118 + 4 * link.val) (min 16 fails.val) h
  refine MemInv.ite (fun _ => ht) fun _ => ?_
  exact State.escalate_memInv _ _ (State.stepAbort_memInv _ _ (State.setErr_memInv _ _ _ (State.setFlag_memInv _ _ _ _ _
    (Mem.Inv.linkDown ht link.val))))

theorem execWinCfgWrite_memInv (value : W32) (s : State) (h : s.MemInv) :
    OutInv (execWinCfgWrite value s) := by
  unfold execWinCfgWrite
  try dsimp only
  repeat' first
    | with_reducible assumption | with_reducible refine OutInv.next ?_
    | with_reducible refine MemInv.ite (fun _ => ?_) (fun _ => ?_) | with_reducible refine MemInv.mem ?_
    | with_reducible apply State.setErr_memInv | with_reducible apply State.resizeWindow_memInv

end Sys2Proof.Machine
end

