-- ==== Sys2Proof/Laws/KeepBar0.lean ====
section
/-! SUPPORT. What the operations of Machine/Bar0.lean do keeps the invariant of memory. -/
set_option linter.unusedSimpArgs false
namespace Sys2Proof.Machine

theorem State.afterCmd_memInv (s : State) (o : Host.Outcome State Fault Refusal) (h : s.MemInv) (ho : OutInv o) :
    (State.afterCmd s o).MemInv := by
  unfold State.afterCmd
  split
  · exact ho _ rfl
  · exact h

theorem State.react_memInv (s : State) (p : Page) (i : Nat) (h : s.MemInv) :
    (State.react s p i).MemInv := by
  unfold State.react
  try dsimp only
  repeat' first
    | with_reducible assumption | with_reducible refine MemInv.ite (fun _ => ?_) (fun _ => ?_)
    | with_reducible refine MemInv.mem ?_ | with_reducible apply State.escalate_memInv
    | with_reducible apply State.stepAbort_memInv | with_reducible apply State.clockLoss_memInv
    | with_reducible apply State.setFlag_memInv | with_reducible apply State.mirrorFail_memInv
    | with_reducible apply State.abortSlot_memInv | with_reducible apply State.hang_memInv
    | with_reducible refine MemInv.foldl (fun _ _ _ => ?_) _ ?_ | with_reducible refine MemInv.foldl_fst (fun _ _ _ => ?_) _ ?_
    | split

theorem execErrInjWrite_memInv (addr : BitVec 29) (value : W32) (s : State) (h : s.MemInv) :
    OutInv (execErrInjWrite addr value s) := by
  unfold execErrInjWrite
  try dsimp only
  repeat' first
    | with_reducible assumption | with_reducible refine OutInv.next ?_
    | with_reducible refine MemInv.ite (fun _ => ?_) (fun _ => ?_) | with_reducible refine MemInv.mem ?_
    | simp only [MemInv.mk_iff] | with_reducible apply State.detect_memInv | with_reducible apply State.react_memInv
    | with_reducible refine MemInv.foldl (fun _ _ _ => ?_) _ ?_ | with_reducible refine MemInv.foldl_fst (fun _ _ _ => ?_) _ ?_
    | with_reducible refine Mem.Inv.setMarking ?_ _ | split

theorem State.writeHeader_memInv (s : State) (a : Nat) (p : Page) (off : Nat) (v : W32) (h : s.MemInv) :
    (State.writeHeader s a p off v).MemInv := by
  unfold State.writeHeader
  try dsimp only
  repeat' first
    | with_reducible assumption | with_reducible refine MemInv.ite (fun _ => ?_) (fun _ => ?_)
    | with_reducible refine MemInv.mem ?_ | with_reducible apply State.afterCmd_memInv
    | with_reducible apply execErrStatClear_memInv | with_reducible apply execErrFirstClear_memInv
    | with_reducible apply execErrInjWrite_memInv | with_reducible apply execSealKeyWrite_memInv
    | with_reducible apply execPartitionQuiesce_memInv | with_reducible apply execEscGoPowerCycle_memInv
    | with_reducible apply execEscGoChipReset_memInv | with_reducible apply State.writePlain_memInv
    | with_reducible apply execContextAbort_memInv | with_reducible apply execRidgeQuiesce_memInv
    | with_reducible apply execDmaQuiesce_memInv | with_reducible apply execCflQuiesce_memInv
    | with_reducible apply execRemirror_memInv | with_reducible apply execStragClr_memInv
    | with_reducible apply execStepDecide_memInv | split

theorem State.writeRil_memInv (s : State) (c : Nat) (off : Nat) (v : W32) (h : s.MemInv) :
    (State.writeRil s c off v).MemInv := by
  unfold State.writeRil
  try dsimp only
  repeat' first
    | with_reducible assumption | with_reducible refine MemInv.mem ?_ | with_reducible apply State.afterCmd_memInv
    | with_reducible apply execProgramMemoryWrite_memInv | with_reducible apply execRunCtlStart_memInv | split

theorem State.writeCwn_memInv (s : State) (off : Nat) (v : W32) (h : s.MemInv) :
    (State.writeCwn s off v).MemInv := by
  unfold State.writeCwn
  try dsimp only
  repeat' first
    | with_reducible assumption | with_reducible refine MemInv.ite (fun _ => ?_) (fun _ => ?_)
    | with_reducible refine MemInv.mem ?_ | with_reducible apply State.afterCmd_memInv
    | with_reducible apply execWinNextWrite_memInv | with_reducible apply execWinCtlEnWrite_memInv
    | with_reducible apply execWinCtlResume_memInv | with_reducible apply execSlotTokWrite_memInv

theorem State.writeOwn_memInv (s : State) (p : Page) (off : Nat) (v : W32) (h : s.MemInv) :
    (State.writeOwn s p off v).MemInv := by
  unfold State.writeOwn
  try dsimp only
  repeat' first
    | with_reducible assumption | with_reducible refine MemInv.ite (fun _ => ?_) (fun _ => ?_)
    | with_reducible refine MemInv.mem ?_ | with_reducible apply State.afterCmd_memInv
    | with_reducible apply execPartCfgWrite_memInv | with_reducible apply execFmcAbort_memInv
    | with_reducible apply execFmcGo_memInv | with_reducible apply execChCfgWrite_memInv
    | with_reducible apply execDmaAbort_memInv | with_reducible apply execDmaResume_memInv
    | with_reducible apply execPortCfgWrite_memInv | with_reducible apply State.portCtl_memInv
    | with_reducible apply execDiscStart_memInv | with_reducible apply execNextStepWrite_memInv
    | with_reducible apply execCursorWrite_memInv | with_reducible apply execMirrorInit_memInv
    | with_reducible apply execPartnerWrite_memInv | with_reducible apply execChkSeedWrite_memInv
    | with_reducible apply execDigestEngineStart_memInv | with_reducible apply execScreeTestStart_memInv
    | with_reducible apply execWinCfgWrite_memInv | with_reducible apply execWindowPortWriteHi_memInv
    | with_reducible apply State.writeCwn_memInv | with_reducible apply execHostInc_memInv
    | with_reducible apply execBlockOwnWrite_memInv | with_reducible apply State.writeRil_memInv | split

theorem State.writeGo_memInv (s : State) (p : Page) (off : Nat) (v : W32) (h : s.MemInv) :
    (State.writeGo s p off v).MemInv := by
  unfold State.writeGo
  try dsimp only
  repeat' first
    | with_reducible assumption | with_reducible refine MemInv.mem ?_ | with_reducible apply State.afterCmd_memInv
    | with_reducible apply execBatchGo_memInv | with_reducible apply execSvnCommit_memInv
    | with_reducible apply execMailboxGo_memInv | with_reducible apply execUhlClear_memInv
    | with_reducible apply State.writePlain_memInv | split

theorem State.writeReg_memInv (s : State) (a : Nat) (p : Page) (off : Nat) (v : W32) (h : s.MemInv) :
    (State.writeReg s a p off v).MemInv := by
  unfold State.writeReg
  try dsimp only
  repeat' first
    | with_reducible assumption | with_reducible refine MemInv.ite (fun _ => ?_) (fun _ => ?_)
    | with_reducible refine MemInv.mem ?_ | with_reducible apply State.writeLo_memInv
    | with_reducible apply State.writeHi_memInv | with_reducible apply State.writeHeader_memInv
    | with_reducible apply State.writeOwn_memInv | with_reducible apply State.writeGo_memInv
    | with_reducible apply State.writePlain_memInv | split

theorem State.writeWindow_memInv (s : State) (a : Nat) (wide : Bool) (v : W64) (h : s.MemInv) :
    (State.writeWindow s a wide v).MemInv := by
  unfold State.writeWindow
  try dsimp only
  repeat' first
    | with_reducible assumption | with_reducible refine MemInv.ite (fun _ => ?_) (fun _ => ?_)
    | with_reducible refine MemInv.mem ?_ | with_reducible apply State.afterCmd_memInv
    | with_reducible apply execProgramMemoryWrite_memInv | with_reducible apply execDataMemoryWrite_memInv
    | with_reducible apply execTallyWrite_memInv | with_reducible apply State.setHeld_memInv
    | with_reducible apply execPageMapWrite_memInv | with_reducible apply execScaleTableWrite_memInv
    | with_reducible apply execNormTableWrite_memInv | with_reducible apply execNoiseTableWrite_memInv
    | with_reducible apply execExpertTableWrite_memInv

theorem State.write32_memInv (s : State) (a : Nat) (v : W32) (h : s.MemInv) :
    (State.write32 s a v).MemInv := by
  unfold State.write32
  try dsimp only
  repeat' first
    | with_reducible assumption | with_reducible refine MemInv.ite (fun _ => ?_) (fun _ => ?_)
    | with_reducible refine MemInv.mem ?_ | with_reducible apply State.msixWrite_memInv
    | with_reducible apply State.writeReg_memInv | with_reducible apply State.writeWindow_memInv | split

theorem State.write64_memInv (s : State) (a : Nat) (v : W64) (h : s.MemInv) :
    (State.write64 s a v).MemInv := by
  unfold State.write64
  try dsimp only
  repeat' first
    | with_reducible assumption | with_reducible refine MemInv.ite (fun _ => ?_) (fun _ => ?_)
    | with_reducible refine MemInv.mem ?_ | with_reducible apply State.writeWindow_memInv
    | with_reducible apply State.write32_memInv | split

theorem State.writeAstray_memInv (s : State) (a : Nat) (n : Nat) (h : s.MemInv) :
    (State.writeAstray s a n).MemInv := by
  unfold State.writeAstray
  try dsimp only
  repeat' first
    | with_reducible assumption | with_reducible refine MemInv.ite (fun _ => ?_) (fun _ => ?_)
    | with_reducible refine MemInv.mem ?_ | with_reducible apply State.fresh_memInv
    | with_reducible apply State.irqUpdate_memInv | with_reducible apply State.storeBits_memInv
    | with_reducible apply State.writeWindow_memInv | with_reducible refine MemInv.foldl (fun _ _ _ => ?_) _ ?_
    | with_reducible refine MemInv.foldl_fst (fun _ _ _ => ?_) _ ?_ | split

theorem execRegisterWrite_memInv (addr : BitVec 29) (size : WSize) (value : W64) (s : State) (h : s.MemInv) :
    OutInv (execRegisterWrite addr size value s) := by
  unfold execRegisterWrite
  try dsimp only
  repeat' first
    | with_reducible assumption | with_reducible refine OutInv.next ?_
    | with_reducible refine MemInv.ite (fun _ => ?_) (fun _ => ?_) | with_reducible refine MemInv.mem ?_
    | with_reducible apply State.write32_memInv | with_reducible apply State.writeAstray_memInv
    | with_reducible apply State.write64_memInv | split

end Sys2Proof.Machine
end

