-- ==== Sys2Proof/Laws/KeepFabric.lean ====
section
/-! SUPPORT. What the operations of Machine/Fabric.lean do keeps the invariant of memory. -/
set_option linter.unusedSimpArgs false
namespace Sys2Proof.Machine

theorem State.tileAnswer_memInv (s : State) (n : Nat) (op : Nat) (a : Nat) (reason : Nat) (h : s.MemInv) :
    (State.tileAnswer s n op a reason).MemInv := by
  unfold State.tileAnswer
  try dsimp only
  repeat' first
    | with_reducible assumption | with_reducible refine MemInv.ite (fun _ => ?_) (fun _ => ?_)
    | with_reducible refine MemInv.mem ?_ | with_reducible apply State.setRidge_memInv
    | with_reducible apply State.recordXlate_memInv | with_reducible apply State.opFault_memInv
    | with_reducible apply State.finishTile_memInv | split

theorem State.answerWhy_memInv (s : State) (r : FReq) (status : Option Nat) (reason : Nat) (bs : List OutByte) (h : s.MemInv) :
    (State.answerWhy s r status reason bs).MemInv := by
  unfold State.answerWhy
  try dsimp only
  repeat' first
    | with_reducible assumption | with_reducible refine MemInv.ite (fun _ => ?_) (fun _ => ?_)
    | with_reducible refine MemInv.mem ?_ | with_reducible apply State.tileAnswer_memInv
    | with_reducible apply State.fetchAnswer_memInv | with_reducible apply State.dmaAnswer_memInv
    | with_reducible apply State.cflAnswer_memInv | with_reducible apply State.refAnswer_memInv
    | with_reducible apply State.stepAnswer_memInv | with_reducible apply State.svcAnswer_memInv
    | with_reducible apply State.hostAnswer_memInv | with_reducible apply State.msgAnswer_memInv
    | with_reducible apply State.tableAnswer_memInv | with_reducible apply State.stepAbort_memInv | split

theorem State.answer_memInv (s : State) (r : FReq) (status : Option Nat) (bs : List OutByte) (h : s.MemInv) :
    (State.answer s r status bs).MemInv := by
  unfold State.answer
  try dsimp only
  repeat' first
    | with_reducible assumption | with_reducible refine MemInv.ite (fun _ => ?_) (fun _ => ?_)
    | with_reducible refine MemInv.mem ?_ | with_reducible apply State.answerWhy_memInv

theorem State.performReq_memInv (s : State) (kind : Nat) (rop : Nat) (wide : Bool) (a : Nat) (key : Nat) (len : Nat) (data : List OutByte) (us : List GranUse) (h : s.MemInv) :
    (State.performReq s kind rop wide a key len data us).1.MemInv := by
  unfold State.performReq
  try dsimp only
  repeat' first
    | with_reducible assumption | with_reducible refine MemInv.ite (fun _ => ?_) (fun _ => ?_)
    | with_reducible refine MemInv.mem ?_ | with_reducible apply State.readRange_memInv
    | with_reducible apply State.asRead_memInv | with_reducible apply State.putBoard_memInv
    | with_reducible apply State.writeRange_memInv | with_reducible apply State.combineAll_memInv
    | with_reducible apply State.smear_memInv | with_reducible apply Combined.s_memInv
    | with_reducible apply State.setErr_memInv | with_reducible apply State.bsnInfo_memInv
    | with_reducible refine MemInv.of_fst (by assumption) ?_ | split

theorem State.serveReq_memInv (s : State) (p : Nat) (kind : Nat) (rop : Nat) (wide : Bool) (a : Nat) (len : Nat) (data : List OutByte) (m : MemUse) (h : s.MemInv) :
    (State.serveReq s p kind rop wide a len data m).1.MemInv := by
  unfold State.serveReq
  try dsimp only
  repeat' first
    | with_reducible assumption | with_reducible refine MemInv.ite (fun _ => ?_) (fun _ => ?_)
    | with_reducible refine MemInv.mem ?_ | with_reducible apply State.lookup_memInv
    | with_reducible apply State.recordXlate_memInv | with_reducible apply State.performReq_memInv
    | with_reducible refine MemInv.of_fst (by assumption) ?_ | split

theorem State.issueHere_memInv (s : State) (r : FReq) (h : s.MemInv) :
    (State.issueHere s r).MemInv := by
  unfold State.issueHere
  try dsimp only
  repeat' first
    | with_reducible assumption | with_reducible refine MemInv.ite (fun _ => ?_) (fun _ => ?_)
    | with_reducible refine MemInv.mem ?_ | with_reducible apply State.msgArrive_memInv
    | with_reducible apply State.answer_memInv | with_reducible apply State.submit_memInv
    | with_reducible apply State.serveReq_memInv | with_reducible refine MemInv.of_fst (by assumption) ?_ | split

theorem State.floodOut_memInv (s : State) (but : Option Nat) (h : List W32) (hm : s.MemInv) :
    (State.floodOut s but h).MemInv := by
  unfold State.floodOut
  try dsimp only
  repeat' first
    | with_reducible assumption | with_reducible refine MemInv.mem ?_ | with_reducible apply State.enqueue_memInv
    | with_reducible refine MemInv.foldl (fun _ _ _ => ?_) _ ?_

theorem State.issueBy_memInv (s : State) (r : FReq) (p : Nat) (detour : Bool) (h : s.MemInv) :
    (State.issueBy s r p detour).MemInv := by
  unfold State.issueBy
  try dsimp only
  repeat' first
    | with_reducible assumption | with_reducible refine MemInv.ite (fun _ => ?_) (fun _ => ?_)
    | with_reducible refine MemInv.mem ?_ | with_reducible apply State.answerWhy_memInv
    | with_reducible apply State.setPort_memInv | with_reducible apply State.event_memInv
    | with_reducible apply State.enqueue_memInv

theorem State.issueOwn_memInv (s : State) (r : FReq) (h : s.MemInv) :
    (State.issueOwn s r).MemInv := by
  unfold State.issueOwn
  try dsimp only
  repeat' first
    | with_reducible assumption | with_reducible refine MemInv.ite (fun _ => ?_) (fun _ => ?_)
    | with_reducible refine MemInv.mem ?_ | with_reducible apply State.floodOut_memInv
    | with_reducible apply State.issueHere_memInv | with_reducible apply State.issueBy_memInv
    | with_reducible apply State.submit_memInv | with_reducible apply State.event_memInv
    | with_reducible apply State.answer_memInv | split

theorem State.respond_memInv (s : State) (p : Nat) (h : List W32) (status : Nat) (bs : List OutByte) (hm : s.MemInv) :
    (State.respond s p h status bs).MemInv := by
  unfold State.respond
  try dsimp only
  repeat' first
    | with_reducible assumption | with_reducible refine MemInv.ite (fun _ => ?_) (fun _ => ?_)
    | with_reducible refine MemInv.mem ?_ | with_reducible apply State.enqueue_memInv | with_reducible apply State.event_memInv
    | split

theorem State.passOn_memInv (s : State) (p : Nat) (cls : Nat) (hops : Nat) (h : List W32) (data : List Slot) (hm : s.MemInv) :
    (State.passOn s p cls hops h data).MemInv := by
  unfold State.passOn
  try dsimp only
  repeat' first
    | with_reducible assumption | with_reducible refine MemInv.ite (fun _ => ?_) (fun _ => ?_)
    | with_reducible refine MemInv.mem ?_ | with_reducible apply State.enqueue_memInv | with_reducible apply State.event_memInv
    | with_reducible apply State.respond_memInv | with_reducible apply State.recordXlate_memInv | split

theorem State.reissue_memInv (s : State) (p : Nat) (cls : Nat) (slots : List Slot) (h : s.MemInv) :
    (State.reissue s p cls slots).MemInv := by
  unfold State.reissue
  try dsimp only
  repeat' first
    | with_reducible assumption | with_reducible refine MemInv.ite (fun _ => ?_) (fun _ => ?_)
    | with_reducible refine MemInv.mem ?_ | with_reducible apply State.passOn_memInv | split

theorem execTransactionIssue_memInv (i : BitVec 16) (s : State) (h : s.MemInv) :
    OutInv (execTransactionIssue i s) := by
  unfold execTransactionIssue
  try dsimp only
  repeat' first
    | with_reducible assumption | with_reducible refine OutInv.next ?_ | with_reducible refine MemInv.mem ?_
    | simp only [MemInv.mk_iff] | with_reducible apply State.issueOwn_memInv | with_reducible apply State.reissue_memInv
    | with_reducible refine Mem.Inv.setMarking ?_ _ | split

theorem execTransactionTimeout_memInv (port : Fin 36) (tag : BitVec 11) (s : State) (h : s.MemInv) :
    OutInv (execTransactionTimeout port tag s) := by
  unfold execTransactionTimeout
  try dsimp only
  repeat' first
    | with_reducible assumption | with_reducible refine OutInv.next ?_ | with_reducible refine MemInv.mem ?_
    | with_reducible apply State.advance_memInv | with_reducible apply State.setPort_memInv
    | with_reducible apply State.event_memInv | with_reducible apply State.setErr_memInv
    | with_reducible apply State.addSat_memInv | with_reducible apply State.answer_memInv | split

theorem State.lateRsp_memInv (s : State) (p : Nat) (h : List W32) (hm : s.MemInv) :
    (State.lateRsp s p h).MemInv := by
  unfold State.lateRsp
  try dsimp only
  repeat' first
    | with_reducible assumption | with_reducible refine MemInv.mem ?_ | with_reducible apply State.event_memInv
    | with_reducible apply State.setPort_memInv | split

theorem execResponseReceive_memInv (port : Fin 36) (vc : Fin 8) (s : State) (h : s.MemInv) :
    OutInv (execResponseReceive port vc s) := by
  unfold execResponseReceive
  try dsimp only
  repeat' first
    | with_reducible assumption | with_reducible refine OutInv.next ?_
    | with_reducible refine MemInv.ite (fun _ => ?_) (fun _ => ?_) | with_reducible refine MemInv.mem ?_
    | with_reducible apply State.pump_memInv | with_reducible apply State.setPort_memInv
    | with_reducible apply State.lateRsp_memInv | with_reducible apply State.answer_memInv
    | with_reducible apply State.passOn_memInv | split

theorem State.firewallHit_memInv (s : State) (p : Nat) (h : List W32) (hm : s.MemInv) :
    (State.firewallHit s p h).MemInv := by
  unfold State.firewallHit
  try dsimp only
  repeat' first
    | with_reducible assumption | with_reducible refine MemInv.ite (fun _ => ?_) (fun _ => ?_)
    | with_reducible refine MemInv.mem ?_ | with_reducible apply State.setErr_memInv | with_reducible apply State.addSat_memInv
    | with_reducible apply State.setPort_memInv | with_reducible apply State.respond_memInv
    | with_reducible apply State.fencePort_memInv

theorem State.reqHere_memInv (s : State) (p : Nat) (h : List W32) (data : List Slot) (m : MemUse) (hm : s.MemInv) :
    (State.reqHere s p h data m).MemInv := by
  unfold State.reqHere
  try dsimp only
  repeat' first
    | with_reducible assumption | with_reducible refine MemInv.ite (fun _ => ?_) (fun _ => ?_)
    | with_reducible refine MemInv.mem ?_ | with_reducible apply State.firewallHit_memInv
    | with_reducible apply State.serveReq_memInv | with_reducible apply State.respond_memInv

theorem State.msgEnd_memInv (p : Nat) (h : List W32) (r : State × Option Nat)  (hx : r.1.MemInv) :
    (State.msgEnd p h r).MemInv := by
  unfold State.msgEnd
  try dsimp only
  repeat' first
    | with_reducible assumption | with_reducible refine MemInv.mem ?_ | with_reducible apply State.respond_memInv | split

theorem State.msgHere_memInv (s : State) (t : State) (p : Nat) (h : List W32) (hm : s.MemInv) (hm1 : t.MemInv) :
    (State.msgHere s t p h).MemInv := by
  unfold State.msgHere
  try dsimp only
  repeat' first
    | with_reducible assumption | with_reducible refine MemInv.ite (fun _ => ?_) (fun _ => ?_)
    | with_reducible refine MemInv.mem ?_ | with_reducible apply State.msgArrive_memInv
    | with_reducible apply State.firewallHit_memInv | with_reducible apply State.msgEnd_memInv

theorem execIncomingRequest_memInv (port : Fin 36) (vc : Fin 8) (m : MemUse) (s : State) (h : s.MemInv) :
    OutInv (execIncomingRequest port vc m s) := by
  unfold execIncomingRequest
  try dsimp only
  repeat' first
    | with_reducible assumption | with_reducible refine OutInv.next ?_
    | with_reducible refine MemInv.ite (fun _ => ?_) (fun _ => ?_) | with_reducible refine MemInv.mem ?_
    | with_reducible apply State.pump_memInv | with_reducible apply State.setPort_memInv
    | with_reducible apply State.countHeader_memInv | with_reducible apply State.respond_memInv
    | with_reducible apply State.malformed_memInv | with_reducible apply State.passOn_memInv
    | with_reducible apply State.msgHere_memInv | with_reducible apply State.reqHere_memInv
    | with_reducible refine MemInv.of_fst (by assumption) ?_ | split

theorem execFloodReceive_memInv (port : Fin 36) (s : State) (h : s.MemInv) :
    OutInv (execFloodReceive port s) := by
  unfold execFloodReceive
  try dsimp only
  repeat' first
    | with_reducible assumption | with_reducible refine OutInv.next ?_
    | with_reducible refine MemInv.ite (fun _ => ?_) (fun _ => ?_) | with_reducible refine MemInv.mem ?_
    | simp only [MemInv.mk_iff] | with_reducible apply State.pump_memInv | with_reducible apply State.setPort_memInv
    | with_reducible apply State.countHeader_memInv | with_reducible apply State.floodOut_memInv
    | with_reducible apply State.abortFloodGot_memInv | with_reducible apply State.setErr_memInv
    | with_reducible refine MemInv.of_fst (by assumption) ?_ | with_reducible refine Mem.Inv.setMarking ?_ _ | split

end Sys2Proof.Machine
end

