-- ==== Sys2Proof/Laws/Reads.lean ====
section
/-! SUPPORT. What the named reads of the state give after the named updates. -/
namespace Sys2Proof.Machine

/-! ### A read of what was written -/

theorem State.reg_setReg (s : State) (p q : Page) (o j : Nat) (v : W32) :
    (s.setReg p o v).reg q j = if q.base + j = p.base + o then v else s.reg q j :=
  Table.get_set _ _ _ _ _

@[simp] theorem State.reg_setReg_same (s : State) (p : Page) (o : Nat) (v : W32) : (s.setReg p o v).reg p o = v :=
  Table.get_set_same _ _ _ _

theorem State.reg_setReg_ne (s : State) {p q : Page} {o j : Nat} (h : q.base + j ≠ p.base + o) (v : W32) :
    (s.setReg p o v).reg q j = s.reg q j :=
  Table.get_set_ne _ _ h v

theorem State.reg_setReg_off (s : State) (p : Page) {o j : Nat} (h : j ≠ o) (v : W32) :
    (s.setReg p o v).reg p j = s.reg p j :=
  State.reg_setReg_ne s (by omega) v

@[simp] theorem State.core_setCore_same (s : State) (j : Nat) (k : Core) : (s.setCore j k).core j = k :=
  Table.get_set_same _ _ _ _

theorem State.core_setCore_ne (s : State) {i j : Nat} (h : i ≠ j) (k : Core) : (s.setCore j k).core i = s.core i :=
  Table.get_set_ne _ _ h k

@[simp] theorem State.win_setWin_same (s : State) (j : Nat) (k : Win) : (s.setWin j k).win j = k :=
  Table.get_set_same _ _ _ _

theorem State.win_setWin_ne (s : State) {i j : Nat} (h : i ≠ j) (k : Win) : (s.setWin j k).win i = s.win i :=
  Table.get_set_ne _ _ h k

@[simp] theorem State.ridge_setRidge_same (s : State) (j : Nat) (k : Ridge) : (s.setRidge j k).ridge j = k :=
  Table.get_set_same _ _ _ _

theorem State.ridge_setRidge_ne (s : State) {i j : Nat} (h : i ≠ j) (k : Ridge) : (s.setRidge j k).ridge i = s.ridge i :=
  Table.get_set_ne _ _ h k

@[simp] theorem State.dma_setDma_same (s : State) (j : Nat) (k : DmaCh) : (s.setDma j k).dma j = k :=
  Table.get_set_same _ _ _ _

theorem State.dma_setDma_ne (s : State) {i j : Nat} (h : i ≠ j) (k : DmaCh) : (s.setDma j k).dma i = s.dma i :=
  Table.get_set_ne _ _ h k

@[simp] theorem State.port_setPort_same (s : State) (j : Nat) (k : Port) : (s.setPort j k).port j = k :=
  Table.get_set_same _ _ _ _

theorem State.port_setPort_ne (s : State) {i j : Nat} (h : i ≠ j) (k : Port) : (s.setPort j k).port i = s.port i :=
  Table.get_set_ne _ _ h k

@[simp] theorem State.cfl_setCfl_same (s : State) (j : Nat) (k : Cfl) : (s.setCfl j k).cfl j = k :=
  Table.get_set_same _ _ _ _

theorem State.cfl_setCfl_ne (s : State) {i j : Nat} (h : i ≠ j) (k : Cfl) : (s.setCfl j k).cfl i = s.cfl i :=
  Table.get_set_ne _ _ h k

@[simp] theorem State.die_setDie_same (s : State) (j : Nat) (k : List OpRec) : (s.setDie j k).die j = k :=
  Table.get_set_same _ _ _ _

theorem State.die_setDie_ne (s : State) {i j : Nat} (h : i ≠ j) (k : List OpRec) : (s.setDie j k).die i = s.die i :=
  Table.get_set_ne _ _ h k

@[simp] theorem State.tally_setTally_same (s : State) (t : Nat) (v : W32) : (s.setTally t v).tally t = v :=
  Table.get_set_same _ _ _ _

theorem State.tally_setTally_ne (s : State) {i t : Nat} (h : i ≠ t) (v : W32) : (s.setTally t v).tally i = s.tally i :=
  Table.get_set_ne _ _ h v

/-! ### A read of what was left alone -/

@[simp] theorem State.core_setReg (s : State) (p : Page) (off : Nat) (v : W32) (j : Nat) :
    (s.setReg p off v).core j = s.core j := rfl
@[simp] theorem State.win_setReg (s : State) (p : Page) (off : Nat) (v : W32) (j : Nat) :
    (s.setReg p off v).win j = s.win j := rfl
@[simp] theorem State.ridge_setReg (s : State) (p : Page) (off : Nat) (v : W32) (j : Nat) :
    (s.setReg p off v).ridge j = s.ridge j := rfl
@[simp] theorem State.dma_setReg (s : State) (p : Page) (off : Nat) (v : W32) (j : Nat) :
    (s.setReg p off v).dma j = s.dma j := rfl
@[simp] theorem State.port_setReg (s : State) (p : Page) (off : Nat) (v : W32) (j : Nat) :
    (s.setReg p off v).port j = s.port j := rfl
@[simp] theorem State.cfl_setReg (s : State) (p : Page) (off : Nat) (v : W32) (j : Nat) :
    (s.setReg p off v).cfl j = s.cfl j := rfl
@[simp] theorem State.die_setReg (s : State) (p : Page) (off : Nat) (v : W32) (j : Nat) :
    (s.setReg p off v).die j = s.die j := rfl
@[simp] theorem State.tally_setReg (s : State) (p : Page) (off : Nat) (v : W32) (j : Nat) :
    (s.setReg p off v).tally j = s.tally j := rfl
@[simp] theorem State.core_setReg64 (s : State) (p : Page) (off : Nat) (v : W64) (j : Nat) :
    (s.setReg64 p off v).core j = s.core j := rfl
@[simp] theorem State.win_setReg64 (s : State) (p : Page) (off : Nat) (v : W64) (j : Nat) :
    (s.setReg64 p off v).win j = s.win j := rfl
@[simp] theorem State.ridge_setReg64 (s : State) (p : Page) (off : Nat) (v : W64) (j : Nat) :
    (s.setReg64 p off v).ridge j = s.ridge j := rfl
@[simp] theorem State.dma_setReg64 (s : State) (p : Page) (off : Nat) (v : W64) (j : Nat) :
    (s.setReg64 p off v).dma j = s.dma j := rfl
@[simp] theorem State.port_setReg64 (s : State) (p : Page) (off : Nat) (v : W64) (j : Nat) :
    (s.setReg64 p off v).port j = s.port j := rfl
@[simp] theorem State.cfl_setReg64 (s : State) (p : Page) (off : Nat) (v : W64) (j : Nat) :
    (s.setReg64 p off v).cfl j = s.cfl j := rfl
@[simp] theorem State.die_setReg64 (s : State) (p : Page) (off : Nat) (v : W64) (j : Nat) :
    (s.setReg64 p off v).die j = s.die j := rfl
@[simp] theorem State.tally_setReg64 (s : State) (p : Page) (off : Nat) (v : W64) (j : Nat) :
    (s.setReg64 p off v).tally j = s.tally j := rfl
@[simp] theorem State.core_setField (s : State) (p : Page) (off hi lo v : Nat) (j : Nat) :
    (s.setField p off hi lo v).core j = s.core j := rfl
@[simp] theorem State.win_setField (s : State) (p : Page) (off hi lo v : Nat) (j : Nat) :
    (s.setField p off hi lo v).win j = s.win j := rfl
@[simp] theorem State.ridge_setField (s : State) (p : Page) (off hi lo v : Nat) (j : Nat) :
    (s.setField p off hi lo v).ridge j = s.ridge j := rfl
@[simp] theorem State.dma_setField (s : State) (p : Page) (off hi lo v : Nat) (j : Nat) :
    (s.setField p off hi lo v).dma j = s.dma j := rfl
@[simp] theorem State.port_setField (s : State) (p : Page) (off hi lo v : Nat) (j : Nat) :
    (s.setField p off hi lo v).port j = s.port j := rfl
@[simp] theorem State.cfl_setField (s : State) (p : Page) (off hi lo v : Nat) (j : Nat) :
    (s.setField p off hi lo v).cfl j = s.cfl j := rfl
@[simp] theorem State.die_setField (s : State) (p : Page) (off hi lo v : Nat) (j : Nat) :
    (s.setField p off hi lo v).die j = s.die j := rfl
@[simp] theorem State.tally_setField (s : State) (p : Page) (off hi lo v : Nat) (j : Nat) :
    (s.setField p off hi lo v).tally j = s.tally j := rfl
@[simp] theorem State.core_setFlag (s : State) (p : Page) (off i : Nat) (b : Bool) (j : Nat) :
    (s.setFlag p off i b).core j = s.core j := rfl
@[simp] theorem State.win_setFlag (s : State) (p : Page) (off i : Nat) (b : Bool) (j : Nat) :
    (s.setFlag p off i b).win j = s.win j := rfl
@[simp] theorem State.ridge_setFlag (s : State) (p : Page) (off i : Nat) (b : Bool) (j : Nat) :
    (s.setFlag p off i b).ridge j = s.ridge j := rfl
@[simp] theorem State.dma_setFlag (s : State) (p : Page) (off i : Nat) (b : Bool) (j : Nat) :
    (s.setFlag p off i b).dma j = s.dma j := rfl
@[simp] theorem State.port_setFlag (s : State) (p : Page) (off i : Nat) (b : Bool) (j : Nat) :
    (s.setFlag p off i b).port j = s.port j := rfl
@[simp] theorem State.cfl_setFlag (s : State) (p : Page) (off i : Nat) (b : Bool) (j : Nat) :
    (s.setFlag p off i b).cfl j = s.cfl j := rfl
@[simp] theorem State.die_setFlag (s : State) (p : Page) (off i : Nat) (b : Bool) (j : Nat) :
    (s.setFlag p off i b).die j = s.die j := rfl
@[simp] theorem State.tally_setFlag (s : State) (p : Page) (off i : Nat) (b : Bool) (j : Nat) :
    (s.setFlag p off i b).tally j = s.tally j := rfl
@[simp] theorem State.core_addSat (s : State) (p : Page) (off n : Nat) (j : Nat) :
    (s.addSat p off n).core j = s.core j := rfl
@[simp] theorem State.win_addSat (s : State) (p : Page) (off n : Nat) (j : Nat) :
    (s.addSat p off n).win j = s.win j := rfl
@[simp] theorem State.ridge_addSat (s : State) (p : Page) (off n : Nat) (j : Nat) :
    (s.addSat p off n).ridge j = s.ridge j := rfl
@[simp] theorem State.dma_addSat (s : State) (p : Page) (off n : Nat) (j : Nat) :
    (s.addSat p off n).dma j = s.dma j := rfl
@[simp] theorem State.port_addSat (s : State) (p : Page) (off n : Nat) (j : Nat) :
    (s.addSat p off n).port j = s.port j := rfl
@[simp] theorem State.cfl_addSat (s : State) (p : Page) (off n : Nat) (j : Nat) :
    (s.addSat p off n).cfl j = s.cfl j := rfl
@[simp] theorem State.die_addSat (s : State) (p : Page) (off n : Nat) (j : Nat) :
    (s.addSat p off n).die j = s.die j := rfl
@[simp] theorem State.tally_addSat (s : State) (p : Page) (off n : Nat) (j : Nat) :
    (s.addSat p off n).tally j = s.tally j := rfl
@[simp] theorem State.core_countErr (s : State) (p : Page) (j : Nat) :
    (s.countErr p).core j = s.core j := rfl
@[simp] theorem State.win_countErr (s : State) (p : Page) (j : Nat) :
    (s.countErr p).win j = s.win j := rfl
@[simp] theorem State.ridge_countErr (s : State) (p : Page) (j : Nat) :
    (s.countErr p).ridge j = s.ridge j := rfl
@[simp] theorem State.dma_countErr (s : State) (p : Page) (j : Nat) :
    (s.countErr p).dma j = s.dma j := rfl
@[simp] theorem State.port_countErr (s : State) (p : Page) (j : Nat) :
    (s.countErr p).port j = s.port j := rfl
@[simp] theorem State.cfl_countErr (s : State) (p : Page) (j : Nat) :
    (s.countErr p).cfl j = s.cfl j := rfl
@[simp] theorem State.die_countErr (s : State) (p : Page) (j : Nat) :
    (s.countErr p).die j = s.die j := rfl
@[simp] theorem State.tally_countErr (s : State) (p : Page) (j : Nat) :
    (s.countErr p).tally j = s.tally j := rfl
@[simp] theorem State.reg_emit (s : State) (o : Out) (q : Page) (x : Nat) :
    (s.emit o).reg q x = s.reg q x := rfl
@[simp] theorem State.core_emit (s : State) (o : Out) (j : Nat) :
    (s.emit o).core j = s.core j := rfl
@[simp] theorem State.win_emit (s : State) (o : Out) (j : Nat) :
    (s.emit o).win j = s.win j := rfl
@[simp] theorem State.ridge_emit (s : State) (o : Out) (j : Nat) :
    (s.emit o).ridge j = s.ridge j := rfl
@[simp] theorem State.dma_emit (s : State) (o : Out) (j : Nat) :
    (s.emit o).dma j = s.dma j := rfl
@[simp] theorem State.port_emit (s : State) (o : Out) (j : Nat) :
    (s.emit o).port j = s.port j := rfl
@[simp] theorem State.cfl_emit (s : State) (o : Out) (j : Nat) :
    (s.emit o).cfl j = s.cfl j := rfl
@[simp] theorem State.die_emit (s : State) (o : Out) (j : Nat) :
    (s.emit o).die j = s.die j := rfl
@[simp] theorem State.tally_emit (s : State) (o : Out) (j : Nat) :
    (s.emit o).tally j = s.tally j := rfl
@[simp] theorem State.reg_fresh (s : State)  (q : Page) (x : Nat) :
    (s.fresh).reg q x = s.reg q x := rfl
@[simp] theorem State.core_fresh (s : State)  (j : Nat) :
    (s.fresh).core j = s.core j := rfl
@[simp] theorem State.win_fresh (s : State)  (j : Nat) :
    (s.fresh).win j = s.win j := rfl
@[simp] theorem State.ridge_fresh (s : State)  (j : Nat) :
    (s.fresh).ridge j = s.ridge j := rfl
@[simp] theorem State.dma_fresh (s : State)  (j : Nat) :
    (s.fresh).dma j = s.dma j := rfl
@[simp] theorem State.port_fresh (s : State)  (j : Nat) :
    (s.fresh).port j = s.port j := rfl
@[simp] theorem State.cfl_fresh (s : State)  (j : Nat) :
    (s.fresh).cfl j = s.cfl j := rfl
@[simp] theorem State.die_fresh (s : State)  (j : Nat) :
    (s.fresh).die j = s.die j := rfl
@[simp] theorem State.tally_fresh (s : State)  (j : Nat) :
    (s.fresh).tally j = s.tally j := rfl
@[simp] theorem State.reg_setCore (s : State) (c : Nat) (k : Core) (q : Page) (x : Nat) :
    (s.setCore c k).reg q x = s.reg q x := rfl
@[simp] theorem State.win_setCore (s : State) (c : Nat) (k : Core) (j : Nat) :
    (s.setCore c k).win j = s.win j := rfl
@[simp] theorem State.ridge_setCore (s : State) (c : Nat) (k : Core) (j : Nat) :
    (s.setCore c k).ridge j = s.ridge j := rfl
@[simp] theorem State.dma_setCore (s : State) (c : Nat) (k : Core) (j : Nat) :
    (s.setCore c k).dma j = s.dma j := rfl
@[simp] theorem State.port_setCore (s : State) (c : Nat) (k : Core) (j : Nat) :
    (s.setCore c k).port j = s.port j := rfl
@[simp] theorem State.cfl_setCore (s : State) (c : Nat) (k : Core) (j : Nat) :
    (s.setCore c k).cfl j = s.cfl j := rfl
@[simp] theorem State.die_setCore (s : State) (c : Nat) (k : Core) (j : Nat) :
    (s.setCore c k).die j = s.die j := rfl
@[simp] theorem State.tally_setCore (s : State) (c : Nat) (k : Core) (j : Nat) :
    (s.setCore c k).tally j = s.tally j := rfl
@[simp] theorem State.reg_setWin (s : State) (w : Nat) (k : Win) (q : Page) (x : Nat) :
    (s.setWin w k).reg q x = s.reg q x := rfl
@[simp] theorem State.core_setWin (s : State) (w : Nat) (k : Win) (j : Nat) :
    (s.setWin w k).core j = s.core j := rfl
@[simp] theorem State.ridge_setWin (s : State) (w : Nat) (k : Win) (j : Nat) :
    (s.setWin w k).ridge j = s.ridge j := rfl
@[simp] theorem State.dma_setWin (s : State) (w : Nat) (k : Win) (j : Nat) :
    (s.setWin w k).dma j = s.dma j := rfl
@[simp] theorem State.port_setWin (s : State) (w : Nat) (k : Win) (j : Nat) :
    (s.setWin w k).port j = s.port j := rfl
@[simp] theorem State.cfl_setWin (s : State) (w : Nat) (k : Win) (j : Nat) :
    (s.setWin w k).cfl j = s.cfl j := rfl
@[simp] theorem State.die_setWin (s : State) (w : Nat) (k : Win) (j : Nat) :
    (s.setWin w k).die j = s.die j := rfl
@[simp] theorem State.tally_setWin (s : State) (w : Nat) (k : Win) (j : Nat) :
    (s.setWin w k).tally j = s.tally j := rfl
@[simp] theorem State.reg_setRidge (s : State) (n : Nat) (r : Ridge) (q : Page) (x : Nat) :
    (s.setRidge n r).reg q x = s.reg q x := rfl
@[simp] theorem State.core_setRidge (s : State) (n : Nat) (r : Ridge) (j : Nat) :
    (s.setRidge n r).core j = s.core j := rfl
@[simp] theorem State.win_setRidge (s : State) (n : Nat) (r : Ridge) (j : Nat) :
    (s.setRidge n r).win j = s.win j := rfl
@[simp] theorem State.dma_setRidge (s : State) (n : Nat) (r : Ridge) (j : Nat) :
    (s.setRidge n r).dma j = s.dma j := rfl
@[simp] theorem State.port_setRidge (s : State) (n : Nat) (r : Ridge) (j : Nat) :
    (s.setRidge n r).port j = s.port j := rfl
@[simp] theorem State.cfl_setRidge (s : State) (n : Nat) (r : Ridge) (j : Nat) :
    (s.setRidge n r).cfl j = s.cfl j := rfl
@[simp] theorem State.die_setRidge (s : State) (n : Nat) (r : Ridge) (j : Nat) :
    (s.setRidge n r).die j = s.die j := rfl
@[simp] theorem State.tally_setRidge (s : State) (n : Nat) (r : Ridge) (j : Nat) :
    (s.setRidge n r).tally j = s.tally j := rfl
@[simp] theorem State.reg_setDma (s : State) (c : Nat) (k : DmaCh) (q : Page) (x : Nat) :
    (s.setDma c k).reg q x = s.reg q x := rfl
@[simp] theorem State.core_setDma (s : State) (c : Nat) (k : DmaCh) (j : Nat) :
    (s.setDma c k).core j = s.core j := rfl
@[simp] theorem State.win_setDma (s : State) (c : Nat) (k : DmaCh) (j : Nat) :
    (s.setDma c k).win j = s.win j := rfl
@[simp] theorem State.ridge_setDma (s : State) (c : Nat) (k : DmaCh) (j : Nat) :
    (s.setDma c k).ridge j = s.ridge j := rfl
@[simp] theorem State.port_setDma (s : State) (c : Nat) (k : DmaCh) (j : Nat) :
    (s.setDma c k).port j = s.port j := rfl
@[simp] theorem State.cfl_setDma (s : State) (c : Nat) (k : DmaCh) (j : Nat) :
    (s.setDma c k).cfl j = s.cfl j := rfl
@[simp] theorem State.die_setDma (s : State) (c : Nat) (k : DmaCh) (j : Nat) :
    (s.setDma c k).die j = s.die j := rfl
@[simp] theorem State.tally_setDma (s : State) (c : Nat) (k : DmaCh) (j : Nat) :
    (s.setDma c k).tally j = s.tally j := rfl
@[simp] theorem State.reg_setPort (s : State) (p : Nat) (k : Port) (q : Page) (x : Nat) :
    (s.setPort p k).reg q x = s.reg q x := rfl
@[simp] theorem State.core_setPort (s : State) (p : Nat) (k : Port) (j : Nat) :
    (s.setPort p k).core j = s.core j := rfl
@[simp] theorem State.win_setPort (s : State) (p : Nat) (k : Port) (j : Nat) :
    (s.setPort p k).win j = s.win j := rfl
@[simp] theorem State.ridge_setPort (s : State) (p : Nat) (k : Port) (j : Nat) :
    (s.setPort p k).ridge j = s.ridge j := rfl
@[simp] theorem State.dma_setPort (s : State) (p : Nat) (k : Port) (j : Nat) :
    (s.setPort p k).dma j = s.dma j := rfl
@[simp] theorem State.cfl_setPort (s : State) (p : Nat) (k : Port) (j : Nat) :
    (s.setPort p k).cfl j = s.cfl j := rfl
@[simp] theorem State.die_setPort (s : State) (p : Nat) (k : Port) (j : Nat) :
    (s.setPort p k).die j = s.die j := rfl
@[simp] theorem State.tally_setPort (s : State) (p : Nat) (k : Port) (j : Nat) :
    (s.setPort p k).tally j = s.tally j := rfl
@[simp] theorem State.reg_setCfl (s : State) (e : Nat) (k : Cfl) (q : Page) (x : Nat) :
    (s.setCfl e k).reg q x = s.reg q x := rfl
@[simp] theorem State.core_setCfl (s : State) (e : Nat) (k : Cfl) (j : Nat) :
    (s.setCfl e k).core j = s.core j := rfl
@[simp] theorem State.win_setCfl (s : State) (e : Nat) (k : Cfl) (j : Nat) :
    (s.setCfl e k).win j = s.win j := rfl
@[simp] theorem State.ridge_setCfl (s : State) (e : Nat) (k : Cfl) (j : Nat) :
    (s.setCfl e k).ridge j = s.ridge j := rfl
@[simp] theorem State.dma_setCfl (s : State) (e : Nat) (k : Cfl) (j : Nat) :
    (s.setCfl e k).dma j = s.dma j := rfl
@[simp] theorem State.port_setCfl (s : State) (e : Nat) (k : Cfl) (j : Nat) :
    (s.setCfl e k).port j = s.port j := rfl
@[simp] theorem State.die_setCfl (s : State) (e : Nat) (k : Cfl) (j : Nat) :
    (s.setCfl e k).die j = s.die j := rfl
@[simp] theorem State.tally_setCfl (s : State) (e : Nat) (k : Cfl) (j : Nat) :
    (s.setCfl e k).tally j = s.tally j := rfl
@[simp] theorem State.reg_setTread (s : State) (e : Nat) (r : Option TableRead) (q : Page) (x : Nat) :
    (s.setTread e r).reg q x = s.reg q x := rfl
@[simp] theorem State.core_setTread (s : State) (e : Nat) (r : Option TableRead) (j : Nat) :
    (s.setTread e r).core j = s.core j := rfl
@[simp] theorem State.win_setTread (s : State) (e : Nat) (r : Option TableRead) (j : Nat) :
    (s.setTread e r).win j = s.win j := rfl
@[simp] theorem State.ridge_setTread (s : State) (e : Nat) (r : Option TableRead) (j : Nat) :
    (s.setTread e r).ridge j = s.ridge j := rfl
@[simp] theorem State.dma_setTread (s : State) (e : Nat) (r : Option TableRead) (j : Nat) :
    (s.setTread e r).dma j = s.dma j := rfl
@[simp] theorem State.port_setTread (s : State) (e : Nat) (r : Option TableRead) (j : Nat) :
    (s.setTread e r).port j = s.port j := rfl
@[simp] theorem State.cfl_setTread (s : State) (e : Nat) (r : Option TableRead) (j : Nat) :
    (s.setTread e r).cfl j = s.cfl j := rfl
@[simp] theorem State.die_setTread (s : State) (e : Nat) (r : Option TableRead) (j : Nat) :
    (s.setTread e r).die j = s.die j := rfl
@[simp] theorem State.tally_setTread (s : State) (e : Nat) (r : Option TableRead) (j : Nat) :
    (s.setTread e r).tally j = s.tally j := rfl
@[simp] theorem State.reg_setDie (s : State) (k : Nat) (l : List OpRec) (q : Page) (x : Nat) :
    (s.setDie k l).reg q x = s.reg q x := rfl
@[simp] theorem State.core_setDie (s : State) (k : Nat) (l : List OpRec) (j : Nat) :
    (s.setDie k l).core j = s.core j := rfl
@[simp] theorem State.win_setDie (s : State) (k : Nat) (l : List OpRec) (j : Nat) :
    (s.setDie k l).win j = s.win j := rfl
@[simp] theorem State.ridge_setDie (s : State) (k : Nat) (l : List OpRec) (j : Nat) :
    (s.setDie k l).ridge j = s.ridge j := rfl
@[simp] theorem State.dma_setDie (s : State) (k : Nat) (l : List OpRec) (j : Nat) :
    (s.setDie k l).dma j = s.dma j := rfl
@[simp] theorem State.port_setDie (s : State) (k : Nat) (l : List OpRec) (j : Nat) :
    (s.setDie k l).port j = s.port j := rfl
@[simp] theorem State.cfl_setDie (s : State) (k : Nat) (l : List OpRec) (j : Nat) :
    (s.setDie k l).cfl j = s.cfl j := rfl
@[simp] theorem State.tally_setDie (s : State) (k : Nat) (l : List OpRec) (j : Nat) :
    (s.setDie k l).tally j = s.tally j := rfl
@[simp] theorem State.reg_setTally (s : State) (t : Nat) (v : W32) (q : Page) (x : Nat) :
    (s.setTally t v).reg q x = s.reg q x := rfl
@[simp] theorem State.ridge_setTally (s : State) (t : Nat) (v : W32) (j : Nat) :
    (s.setTally t v).ridge j = s.ridge j := rfl
@[simp] theorem State.dma_setTally (s : State) (t : Nat) (v : W32) (j : Nat) :
    (s.setTally t v).dma j = s.dma j := rfl
@[simp] theorem State.port_setTally (s : State) (t : Nat) (v : W32) (j : Nat) :
    (s.setTally t v).port j = s.port j := rfl
@[simp] theorem State.cfl_setTally (s : State) (t : Nat) (v : W32) (j : Nat) :
    (s.setTally t v).cfl j = s.cfl j := rfl
@[simp] theorem State.die_setTally (s : State) (t : Nat) (v : W32) (j : Nat) :
    (s.setTally t v).die j = s.die j := rfl
@[simp] theorem State.core_storeBits (s : State) (p : Page) (off : Nat) (v : W32) (j : Nat) :
    (s.storeBits p off v).core j = s.core j := by simp [State.core]
@[simp] theorem State.win_storeBits (s : State) (p : Page) (off : Nat) (v : W32) (j : Nat) :
    (s.storeBits p off v).win j = s.win j := by simp [State.win]
@[simp] theorem State.ridge_storeBits (s : State) (p : Page) (off : Nat) (v : W32) (j : Nat) :
    (s.storeBits p off v).ridge j = s.ridge j := by simp [State.ridge]
@[simp] theorem State.dma_storeBits (s : State) (p : Page) (off : Nat) (v : W32) (j : Nat) :
    (s.storeBits p off v).dma j = s.dma j := by simp [State.dma]
@[simp] theorem State.port_storeBits (s : State) (p : Page) (off : Nat) (v : W32) (j : Nat) :
    (s.storeBits p off v).port j = s.port j := by simp [State.port]
@[simp] theorem State.cfl_storeBits (s : State) (p : Page) (off : Nat) (v : W32) (j : Nat) :
    (s.storeBits p off v).cfl j = s.cfl j := by simp [State.cfl]
@[simp] theorem State.die_storeBits (s : State) (p : Page) (off : Nat) (v : W32) (j : Nat) :
    (s.storeBits p off v).die j = s.die j := by simp [State.die]
@[simp] theorem State.tally_storeBits (s : State) (p : Page) (off : Nat) (v : W32) (j : Nat) :
    (s.storeBits p off v).tally j = s.tally j := by simp [State.tally]
@[simp] theorem State.core_sendVector (s : State) (v : Nat) (j : Nat) :
    (s.sendVector v).core j = s.core j := by simp [State.core]
@[simp] theorem State.win_sendVector (s : State) (v : Nat) (j : Nat) :
    (s.sendVector v).win j = s.win j := by simp [State.win]
@[simp] theorem State.ridge_sendVector (s : State) (v : Nat) (j : Nat) :
    (s.sendVector v).ridge j = s.ridge j := by simp [State.ridge]
@[simp] theorem State.dma_sendVector (s : State) (v : Nat) (j : Nat) :
    (s.sendVector v).dma j = s.dma j := by simp [State.dma]
@[simp] theorem State.port_sendVector (s : State) (v : Nat) (j : Nat) :
    (s.sendVector v).port j = s.port j := by simp [State.port]
@[simp] theorem State.cfl_sendVector (s : State) (v : Nat) (j : Nat) :
    (s.sendVector v).cfl j = s.cfl j := by simp [State.cfl]
@[simp] theorem State.die_sendVector (s : State) (v : Nat) (j : Nat) :
    (s.sendVector v).die j = s.die j := by simp [State.die]
@[simp] theorem State.tally_sendVector (s : State) (v : Nat) (j : Nat) :
    (s.sendVector v).tally j = s.tally j := by simp [State.tally]
@[simp] theorem State.core_irqUpdate (s : State) (p : Page) (j : Nat) :
    (s.irqUpdate p).core j = s.core j := by simp [State.core]
@[simp] theorem State.win_irqUpdate (s : State) (p : Page) (j : Nat) :
    (s.irqUpdate p).win j = s.win j := by simp [State.win]
@[simp] theorem State.ridge_irqUpdate (s : State) (p : Page) (j : Nat) :
    (s.irqUpdate p).ridge j = s.ridge j := by simp [State.ridge]
@[simp] theorem State.dma_irqUpdate (s : State) (p : Page) (j : Nat) :
    (s.irqUpdate p).dma j = s.dma j := by simp [State.dma]
@[simp] theorem State.port_irqUpdate (s : State) (p : Page) (j : Nat) :
    (s.irqUpdate p).port j = s.port j := by simp [State.port]
@[simp] theorem State.cfl_irqUpdate (s : State) (p : Page) (j : Nat) :
    (s.irqUpdate p).cfl j = s.cfl j := by simp [State.cfl]
@[simp] theorem State.die_irqUpdate (s : State) (p : Page) (j : Nat) :
    (s.irqUpdate p).die j = s.die j := by simp [State.die]
@[simp] theorem State.tally_irqUpdate (s : State) (p : Page) (j : Nat) :
    (s.irqUpdate p).tally j = s.tally j := by simp [State.tally]
@[simp] theorem State.core_detect (s : State) (p : Page) (m : W32) (j : Nat) :
    (s.detect p m).core j = s.core j := by simp [State.core]
@[simp] theorem State.win_detect (s : State) (p : Page) (m : W32) (j : Nat) :
    (s.detect p m).win j = s.win j := by simp [State.win]
@[simp] theorem State.ridge_detect (s : State) (p : Page) (m : W32) (j : Nat) :
    (s.detect p m).ridge j = s.ridge j := by simp [State.ridge]
@[simp] theorem State.dma_detect (s : State) (p : Page) (m : W32) (j : Nat) :
    (s.detect p m).dma j = s.dma j := by simp [State.dma]
@[simp] theorem State.port_detect (s : State) (p : Page) (m : W32) (j : Nat) :
    (s.detect p m).port j = s.port j := by simp [State.port]
@[simp] theorem State.cfl_detect (s : State) (p : Page) (m : W32) (j : Nat) :
    (s.detect p m).cfl j = s.cfl j := by simp [State.cfl]
@[simp] theorem State.die_detect (s : State) (p : Page) (m : W32) (j : Nat) :
    (s.detect p m).die j = s.die j := by simp [State.die]
@[simp] theorem State.tally_detect (s : State) (p : Page) (m : W32) (j : Nat) :
    (s.detect p m).tally j = s.tally j := by simp [State.tally]
@[simp] theorem State.core_setErr (s : State) (p : Page) (i : Nat) (j : Nat) :
    (s.setErr p i).core j = s.core j := by simp [State.core]
@[simp] theorem State.win_setErr (s : State) (p : Page) (i : Nat) (j : Nat) :
    (s.setErr p i).win j = s.win j := by simp [State.win]
@[simp] theorem State.ridge_setErr (s : State) (p : Page) (i : Nat) (j : Nat) :
    (s.setErr p i).ridge j = s.ridge j := by simp [State.ridge]
@[simp] theorem State.dma_setErr (s : State) (p : Page) (i : Nat) (j : Nat) :
    (s.setErr p i).dma j = s.dma j := by simp [State.dma]
@[simp] theorem State.port_setErr (s : State) (p : Page) (i : Nat) (j : Nat) :
    (s.setErr p i).port j = s.port j := by simp [State.port]
@[simp] theorem State.cfl_setErr (s : State) (p : Page) (i : Nat) (j : Nat) :
    (s.setErr p i).cfl j = s.cfl j := by simp [State.cfl]
@[simp] theorem State.die_setErr (s : State) (p : Page) (i : Nat) (j : Nat) :
    (s.setErr p i).die j = s.die j := by simp [State.die]
@[simp] theorem State.tally_setErr (s : State) (p : Page) (i : Nat) (j : Nat) :
    (s.setErr p i).tally j = s.tally j := by simp [State.tally]
@[simp] theorem State.core_event (s : State) (p : Page) (code n : Nat) (j : Nat) :
    (s.event p code n).core j = s.core j := by simp [State.core]
@[simp] theorem State.win_event (s : State) (p : Page) (code n : Nat) (j : Nat) :
    (s.event p code n).win j = s.win j := by simp [State.win]
@[simp] theorem State.ridge_event (s : State) (p : Page) (code n : Nat) (j : Nat) :
    (s.event p code n).ridge j = s.ridge j := by simp [State.ridge]
@[simp] theorem State.dma_event (s : State) (p : Page) (code n : Nat) (j : Nat) :
    (s.event p code n).dma j = s.dma j := by simp [State.dma]
@[simp] theorem State.port_event (s : State) (p : Page) (code n : Nat) (j : Nat) :
    (s.event p code n).port j = s.port j := by simp [State.port]
@[simp] theorem State.cfl_event (s : State) (p : Page) (code n : Nat) (j : Nat) :
    (s.event p code n).cfl j = s.cfl j := by simp [State.cfl]
@[simp] theorem State.die_event (s : State) (p : Page) (code n : Nat) (j : Nat) :
    (s.event p code n).die j = s.die j := by simp [State.die]
@[simp] theorem State.tally_event (s : State) (p : Page) (code n : Nat) (j : Nat) :
    (s.event p code n).tally j = s.tally j := by simp [State.tally]
@[simp] theorem State.ridge_addTally (s : State) (t : Nat) (n : W32) (j : Nat) :
    (s.addTally t n).ridge j = s.ridge j := by simp [State.ridge]
@[simp] theorem State.dma_addTally (s : State) (t : Nat) (n : W32) (j : Nat) :
    (s.addTally t n).dma j = s.dma j := by simp [State.dma]
@[simp] theorem State.port_addTally (s : State) (t : Nat) (n : W32) (j : Nat) :
    (s.addTally t n).port j = s.port j := by simp [State.port]
@[simp] theorem State.cfl_addTally (s : State) (t : Nat) (n : W32) (j : Nat) :
    (s.addTally t n).cfl j = s.cfl j := by simp [State.cfl]
@[simp] theorem State.die_addTally (s : State) (t : Nat) (n : W32) (j : Nat) :
    (s.addTally t n).die j = s.die j := by simp [State.die]
@[simp] theorem State.ridge_opTally (s : State) (t c : Nat) (j : Nat) :
    (s.opTally t c).ridge j = s.ridge j := by simp [State.ridge]
@[simp] theorem State.dma_opTally (s : State) (t c : Nat) (j : Nat) :
    (s.opTally t c).dma j = s.dma j := by simp [State.dma]
@[simp] theorem State.port_opTally (s : State) (t c : Nat) (j : Nat) :
    (s.opTally t c).port j = s.port j := by simp [State.port]
@[simp] theorem State.cfl_opTally (s : State) (t c : Nat) (j : Nat) :
    (s.opTally t c).cfl j = s.cfl j := by simp [State.cfl]
@[simp] theorem State.die_opTally (s : State) (t c : Nat) (j : Nat) :
    (s.opTally t c).die j = s.die j := by simp [State.die]
@[simp] theorem State.core_tickPage (s : State) (n : Nat) (p : Page) (j : Nat) :
    (s.tickPage n p).core j = s.core j := by simp [State.core]
@[simp] theorem State.win_tickPage (s : State) (n : Nat) (p : Page) (j : Nat) :
    (s.tickPage n p).win j = s.win j := by simp [State.win]
@[simp] theorem State.ridge_tickPage (s : State) (n : Nat) (p : Page) (j : Nat) :
    (s.tickPage n p).ridge j = s.ridge j := by simp [State.ridge]
@[simp] theorem State.dma_tickPage (s : State) (n : Nat) (p : Page) (j : Nat) :
    (s.tickPage n p).dma j = s.dma j := by simp [State.dma]
@[simp] theorem State.port_tickPage (s : State) (n : Nat) (p : Page) (j : Nat) :
    (s.tickPage n p).port j = s.port j := by simp [State.port]
@[simp] theorem State.cfl_tickPage (s : State) (n : Nat) (p : Page) (j : Nat) :
    (s.tickPage n p).cfl j = s.cfl j := by simp [State.cfl]
@[simp] theorem State.die_tickPage (s : State) (n : Nat) (p : Page) (j : Nat) :
    (s.tickPage n p).die j = s.die j := by simp [State.die]
@[simp] theorem State.tally_tickPage (s : State) (n : Nat) (p : Page) (j : Nat) :
    (s.tickPage n p).tally j = s.tally j := by simp [State.tally]
@[simp] theorem State.core_passTime (s : State) (n : Nat) (j : Nat) :
    (s.passTime n).core j = s.core j := by simp [State.core]
@[simp] theorem State.win_passTime (s : State) (n : Nat) (j : Nat) :
    (s.passTime n).win j = s.win j := by simp [State.win]
@[simp] theorem State.ridge_passTime (s : State) (n : Nat) (j : Nat) :
    (s.passTime n).ridge j = s.ridge j := by simp [State.ridge]
@[simp] theorem State.dma_passTime (s : State) (n : Nat) (j : Nat) :
    (s.passTime n).dma j = s.dma j := by simp [State.dma]
@[simp] theorem State.port_passTime (s : State) (n : Nat) (j : Nat) :
    (s.passTime n).port j = s.port j := by simp [State.port]
@[simp] theorem State.cfl_passTime (s : State) (n : Nat) (j : Nat) :
    (s.passTime n).cfl j = s.cfl j := by simp [State.cfl]
@[simp] theorem State.die_passTime (s : State) (n : Nat) (j : Nat) :
    (s.passTime n).die j = s.die j := by simp [State.die]
@[simp] theorem State.tally_passTime (s : State) (n : Nat) (j : Nat) :
    (s.passTime n).tally j = s.tally j := by simp [State.tally]
@[simp] theorem State.core_advance (s : State) (since : W64) (n : Nat) (j : Nat) :
    (s.advance since n).core j = s.core j := by simp [State.core]
@[simp] theorem State.win_advance (s : State) (since : W64) (n : Nat) (j : Nat) :
    (s.advance since n).win j = s.win j := by simp [State.win]
@[simp] theorem State.ridge_advance (s : State) (since : W64) (n : Nat) (j : Nat) :
    (s.advance since n).ridge j = s.ridge j := by simp [State.ridge]
@[simp] theorem State.dma_advance (s : State) (since : W64) (n : Nat) (j : Nat) :
    (s.advance since n).dma j = s.dma j := by simp [State.dma]
@[simp] theorem State.port_advance (s : State) (since : W64) (n : Nat) (j : Nat) :
    (s.advance since n).port j = s.port j := by simp [State.port]
@[simp] theorem State.cfl_advance (s : State) (since : W64) (n : Nat) (j : Nat) :
    (s.advance since n).cfl j = s.cfl j := by simp [State.cfl]
@[simp] theorem State.die_advance (s : State) (since : W64) (n : Nat) (j : Nat) :
    (s.advance since n).die j = s.die j := by simp [State.die]
@[simp] theorem State.tally_advance (s : State) (since : W64) (n : Nat) (j : Nat) :
    (s.advance since n).tally j = s.tally j := by simp [State.tally]

end Sys2Proof.Machine
end

