-- ==== Sys2Proof/Laws/Registers.lean ====
section
/-! SUPPORT. Fields of registers, and what errors, interrupts and event counters do to the registers. -/
namespace Sys2Proof.Machine

/-! ### Fields -/

theorem bits_lt (x hi lo : Nat) : bits x hi lo < 2 ^ (hi + 1 - lo) := Nat.mod_lt _ (Nat.two_pow_pos _)

theorem fld_lt (w : W32) (hi lo : Nat) : fld w hi lo < 2 ^ (hi + 1 - lo) := bits_lt _ _ _

theorem testBit_bits (x hi lo i : Nat) : (bits x hi lo).testBit i = (decide (i < hi + 1 - lo) && x.testBit (lo + i)) := by
  simp [bits, Nat.testBit_mod_two_pow, Nat.testBit_shiftRight]

theorem getLsbD_setFld (w : W32) (hi lo v i : Nat) (h : hi < 32) :
    (setFld w hi lo v).getLsbD i =
      if lo ≤ i ∧ i ≤ hi then v.testBit (i - lo) else w.getLsbD i := by
  by_cases hi32 : i < 32
  · simp only [setFld, BitVec.getLsbD_or, BitVec.getLsbD_and, BitVec.getLsbD_not, BitVec.getLsbD_ofNat, Nat.testBit_shiftLeft,
      Nat.testBit_two_pow_sub_one, Nat.testBit_mod_two_pow, hi32, decide_true, Bool.true_and]
    by_cases h1 : lo ≤ i
    · by_cases h2 : i ≤ hi
      · have h3 : i - lo < hi + 1 - lo := by omega
        simp [h1, h2, h3]
      · have h3 : ¬ i - lo < hi + 1 - lo := by omega
        simp [h1, h2, h3]
    · simp [h1]
  · have h1 : ¬ i ≤ hi := by omega
    simp [BitVec.getLsbD_of_ge _ _ (Nat.le_of_not_lt hi32), h1]

theorem testBit_toNat (w : W32) (i : Nat) : w.toNat.testBit i = w.getLsbD i := rfl

/-- A field reads as it was written. -/
theorem fld_setFld_same (w : W32) (hi lo v : Nat) (h : hi < 32) (hl : lo ≤ hi) :
    fld (setFld w hi lo v) hi lo = v % 2 ^ (hi + 1 - lo) := by
  apply Nat.eq_of_testBit_eq
  intro i
  simp only [fld, testBit_bits, testBit_toNat, getLsbD_setFld _ _ _ _ _ h, Nat.testBit_mod_two_pow]
  by_cases hi' : i < hi + 1 - lo
  · have h1 : lo + i ≤ hi := by omega
    simp [hi', h1]
  · simp [hi']

/-- A write of a field leaves every field beside it alone. -/
theorem fld_setFld_ne (w : W32) (hi lo v hi' lo' : Nat) (h : hi < 32) (hd : hi < lo' ∨ hi' < lo) :
    fld (setFld w hi lo v) hi' lo' = fld w hi' lo' := by
  apply Nat.eq_of_testBit_eq
  intro i
  simp only [fld, testBit_bits, testBit_toNat, getLsbD_setFld _ _ _ _ _ h]
  by_cases hi2 : i < hi' + 1 - lo'
  · have h1 : ¬ (lo ≤ lo' + i ∧ lo' + i ≤ hi) := by omega
    simp [h1]
  · simp [hi2]

theorem bitOf_eq (w : W32) (i : Nat) : bitOf w i = w.getLsbD i := rfl

@[simp] theorem bitOf_setBit_same (w : W32) (i : Nat) (b : Bool) (h : i < 32) : bitOf (setBit w i b) i = b := by
  simp only [bitOf_eq, setBit, getLsbD_setFld _ _ _ _ _ h]
  cases b <;> simp

theorem bitOf_setBit_ne (w : W32) {i j : Nat} (b : Bool) (h : i < 32) (hj : j ≠ i) :
    bitOf (setBit w i b) j = bitOf w j := by
  have : ¬ (i ≤ j ∧ j ≤ i) := by omega
  simp [bitOf_eq, setBit, getLsbD_setFld _ _ _ _ _ h, this]

/-- A field that does not take in a bit is unchanged by a write of the bit. -/
theorem fld_setBit_ne (w : W32) (i hi lo : Nat) (b : Bool) (h : i < 32) (hd : i < lo ∨ hi < i) :
    fld (setBit w i b) hi lo = fld w hi lo := fld_setFld_ne _ _ _ _ _ _ h hd

theorem bitOf_setFld_ne (w : W32) (hi lo v i : Nat) (h : hi < 32) (hd : i < lo ∨ hi < i) :
    bitOf (setFld w hi lo v) i = bitOf w i := by
  have : ¬ (lo ≤ i ∧ i ≤ hi) := by omega
  simp [bitOf_eq, getLsbD_setFld _ _ _ _ _ h, this]

theorem bitOf_or (v w : W32) (i : Nat) : bitOf (v ||| w) i = (bitOf v i || bitOf w i) := by simp [bitOf_eq]
theorem bitOf_and (v w : W32) (i : Nat) : bitOf (v &&& w) i = (bitOf v i && bitOf w i) := by simp [bitOf_eq]

theorem bitOf_w32_two_pow (i : Nat) (h : i < 32) : bitOf (w32 (2 ^ i)) i = true := by
  rw [bitOf_eq, w32, BitVec.getLsbD_ofNat]
  simp [h, Nat.testBit_two_pow_self]

/-! ### Registers of the state -/

@[simp] theorem State.field_setField_same (s : State) (p : Page) (o hi lo v : Nat) (h : hi < 32) (hl : lo ≤ hi) :
    (s.setField p o hi lo v).field p o hi lo = v % 2 ^ (hi + 1 - lo) := by
  simp [State.field, State.setField, fld_setFld_same _ _ _ _ h hl]

@[simp] theorem State.flag_setFlag_same (s : State) (p : Page) (o i : Nat) (b : Bool) (h : i < 32) :
    (s.setFlag p o i b).flag p o i = b := by
  simp [State.flag, State.setFlag, h]

theorem State.reg_setField_ne (s : State) {p q : Page} {o j : Nat} (hi lo v : Nat) (h : q.base + j ≠ p.base + o) :
    (s.setField p o hi lo v).reg q j = s.reg q j := State.reg_setReg_ne s h _

theorem State.reg_setFlag_ne (s : State) {p q : Page} {o j : Nat} (i : Nat) (b : Bool) (h : q.base + j ≠ p.base + o) :
    (s.setFlag p o i b).reg q j = s.reg q j := State.reg_setReg_ne s h _

theorem State.reg_addSat (s : State) (p : Page) (o n : Nat) : (s.addSat p o n).reg p o = satAdd32 (s.reg p o) n := by
  simp [State.addSat]

theorem State.reg_addSat_ne (s : State) {p q : Page} {o j : Nat} (n : Nat) (h : q.base + j ≠ p.base + o) :
    (s.addSat p o n).reg q j = s.reg q j := State.reg_setReg_ne s h _

@[simp] theorem State.reg_sendVector (s : State) (v : Nat) (q : Page) (j : Nat) : (s.sendVector v).reg q j = s.reg q j := by
  unfold State.sendVector; split <;> rfl

@[simp] theorem State.reg_irqUpdate (s : State) (p q : Page) (j : Nat) : (s.irqUpdate p).reg q j = s.reg q j := by
  simp only [State.irqUpdate]
  split
  · rfl
  · split
    · rw [State.reg_sendVector]; rfl
    · rfl

/-- What the detection of errors does to the registers: `ERR_STAT`, and `ERR_FIRST` while it reads zero (R38, R39). -/
theorem State.reg_detect (s : State) (p q : Page) (m : W32) (j : Nat) :
    (s.detect p m).reg q j =
      if q.base + j = p.base + 0x018 ∧ s.reg p 0x018 = 0#32 then m
      else if q.base + j = p.base + 0x010 then s.reg p 0x010 ||| m else s.reg q j := by
  simp only [State.detect, State.reg_irqUpdate]
  by_cases h0 : s.reg p 0x018 = 0#32
  · by_cases h1 : q.base + j = p.base + 0x018
    · have : q.base + j ≠ p.base + 0x010 := by omega
      simp [h0, h1, State.reg_setReg]
    · simp [h0, h1, State.reg_setReg]
  · simp [h0, State.reg_setReg]

theorem State.reg_setErr (s : State) (p q : Page) (i j : Nat) :
    (s.setErr p i).reg q j =
      if q.base + j = p.base + 0x018 ∧ s.reg p 0x018 = 0#32 then w32 (2 ^ i)
      else if q.base + j = p.base + 0x010 then s.reg p 0x010 ||| w32 (2 ^ i) else s.reg q j :=
  State.reg_detect s p q _ j

theorem State.reg_setErr_ne (s : State) {p q : Page} (i : Nat) {j : Nat} (h1 : q.base + j ≠ p.base + 0x010)
    (h2 : q.base + j ≠ p.base + 0x018) : (s.setErr p i).reg q j = s.reg q j := by
  simp [State.reg_setErr, h1, h2]

/-- The bit of a detected error is set. -/
@[simp] theorem State.flag_setErr (s : State) (p : Page) (i : Nat) (h : i < 32) : (s.setErr p i).flag p 0x010 i = true := by
  have : (p.base + 0x010 = p.base + 0x018) = False := by simp
  simp [State.flag, State.reg_setErr, bitOf_or, bitOf_w32_two_pow i h]

/-- An event changes only the page's event counters (R35). -/
theorem State.reg_event_ne (s : State) {p q : Page} (c n : Nat) {j : Nat}
    (h : ∀ k, 0x030 ≤ k → k < 0x040 → q.base + j ≠ p.base + k) : (s.event p c n).reg q j = s.reg q j := by
  simp only [State.event]
  split <;> split <;>
    simp only [State.setReg64, State.reg_setReg_ne _ (h 0x030 (by decide) (by decide)), State.reg_setReg_ne _ (h (0x030 + 4) (by decide) (by decide)),
      State.reg_setReg_ne _ (h 0x038 (by decide) (by decide)), State.reg_setReg_ne _ (h (0x038 + 4) (by decide) (by decide))]

theorem State.reg64_setReg64 (s : State) (p : Page) (o : Nat) (v : W64) : (s.setReg64 p o v).reg64 p o = v := by
  have h : p.base + o ≠ p.base + (o + 4) := by omega
  simp only [State.reg64, State.setReg64, State.reg_setReg_same, State.reg_setReg_ne _ h]
  simp only [join64, hi32, lo32]
  apply BitVec.eq_of_getLsbD_eq
  intro i hi
  simp only [BitVec.getLsbD_append, BitVec.getLsbD_setWidth, BitVec.getLsbD_ushiftRight]
  by_cases h32 : i < 32
  · simp [h32]
  · have h1 : i - 32 < 32 := by omega
    have h2 : 32 + (i - 32) = i := by omega
    simp [h32, h1, h2]

end Sys2Proof.Machine
end

