-- ==== Sys2Proof/Tests/Slice0.lean ====
section
/-! SUPPORT. Tests: ill-formed commands, witnesses that the hypotheses of the statements can be met, and worked examples of the
manual. -/
namespace Sys2Proof.Tests
open Sys2Proof.Machine

/-! ### Ill-formed commands -/

/-- One ill-formed term for each check of `Instr.wf`. -/
theorem test_wf_refuses :
    ([Instr.registerWrite 0x10 .b32 1, .pairLoWrite 0x34 0, .pairHiWrite 0x30 0, .sealKeyWrite 0x20 0,
     .errStatClear 0x14 0 0, .errFirstClear 0x10 0, .errInjWrite 0x18 0, .hardRegScan 4 [],
     .commandWindowWrite 0 0xFFFF [1, 2] [true, true], .commandWindowWrite 0 0 [1] [],
     .bar2Write 0xFFFFFFFFFF [1, 2] [true, true] {}, .bar2Write 0 [1] [] {}, .bar2Read 0xFFFFFFFFFF 2 {}, .portTrainAttempt 0 true true [],
     .helloReceive 0 ⟨0, 0, []⟩, .flitReceive 0 ⟨0, [[]], 0⟩, .flitReceive 0 ⟨0, List.replicate 5 (List.replicate 16 0), 0⟩,
     .thermalTick [] [] [], .smbBadCommand 6, .smbBadCommand 0x10, .jtagSamplePreload [] []] : List Instr).all (fun i => !i.wf) = true ∧
    (Instr.registerWrite 0x100000 .b32 1).wf = true := by decide

/-! ### States for witnesses -/

/-- A part that has booted: chip reset released, `BOOT_STAT.READY`. -/
def booted : State := { plat := { held := false }, io := { regs := [(0x8100, 0x80080800#32)] } }

/-- A part whose page 0 maps to frame 0 of stack 0, with a view of context 5 of domain 0. -/
def mapped : State := { booted with
  mem := { pmap0 := [(0, 0xF000000000000000#64)], pmap1 := [(0, 0xF000000000000000#64)] }
  io := { regs := Table.set (fun _ => 0#32) booted.io.regs (Page.base .pmap + 0x214) 0x00010001#32 } }

/-! ### Registers -/

theorem witness_IdleStepCountsOneReference : State.reset.pending = [] ∧ State.reset.plat.held = true ∧
    booted.pending = [] ∧ booted.plat.held = false := by decide

/-- A write of `PART_CFG` while nothing runs, and one for each of its refusals. -/
theorem witness_PartCfgWrite : booted.asleep = false ∧ booted.pageSealed .dev = false ∧ booted.partIdle = true ∧ fld 0x11#32 1 0 ≠ 3 ∧
    fld 0x11#32 5 4 < 2 ^ fld 0x11#32 1 0 ∧ 2 ^ fld 0x10#32 1 0 ≤ fld 0x10#32 5 4 ∧ fld 3#32 1 0 = 3 := by decide

theorem witness_PartCfgWrite_busy :
    (booted.setDie 0 [{ desc := { words := [], ctx := 0, src := .device } }]).partIdle = false ∧
    (booted.setDie 0 [{ desc := { words := [], ctx := 0, src := .device } }]).pageSealed .dev = false ∧
    { booted with io := { booted.io with isSealed := [0] } }.pageSealed .dev = true := by decide

theorem witness_PartitionModes : booted.partMode = 0 ∧ (booted.setReg .dev 0x100 1).partMode = 1 ∧
    (booted.setReg .dev 0x100 2).partMode = 2 := by decide

/-- The worked example of R43: the ACC page of Ridge 37 at 0x0029_5000, its `ID`, its seal key, a read of `SEAL` after it. -/
theorem test_seal_example :
    Page.base (.acc 37) = 0x295000 ∧ Page.id (.acc 37) = 0x001325A1#32 ∧ booted.target 0x295024 = some (.acc 37, 0x024) ∧
    (Page.acc 37).sealable = true ∧ 0x5EA125A1#32 = w32 (0x5EA1 * 2 ^ 16 + fld (Page.id (.acc 37)) 15 0) ∧
    (match exec (.sealKeyWrite 0x295024 0x5EA125A1) booted with | .next t => t.read 0x295024 == 1#32 | _ => false) = true ∧
    (match exec (.sealKeyWrite 0x299024 0x5EA125A1) booted with | .next t => t.read 0x299024 == 0#32 | _ => false) = true ∧
    (match exec (.sealKeyWrite 0x297024 0x5EA125A1) booted with | .next t => t.read 0x297024 == 0#32 | _ => false) = true := by
  decide

theorem witness_HeaderCommandsComplete :
    booted.target 0x10 = some (.dev, 0x010) ∧ booted.target 0x18 = some (.dev, 0x018) ∧
    booted.target 0x40001C = some (.hbm 0, 0x01C) ∧ (booted.setReg (.hbm 0) 0x008 2).flag (.hbm 0) 0x008 1 = true ∧
    (booted.setReg (.hbm 0) 0x008 2).target 0x40001C = some (.hbm 0, 0x01C) ∧ 1 % 2 ^ (Page.hbm 0).errBits ≠ 0 ∧
    pageAt 0 = some .dev ∧ Page.sealable .dev = true ∧ ((Page.row .dev 0x100).map RegRow.rws) = some 0x33 := by decide

theorem witness_HeaderCommandsComplete_react : ∀ u : State, ∀ i < 3, u.react (.hbm 0) i = u := by
  intro u i h
  have : i = 0 ∨ i = 1 ∨ i = 2 := by omega
  rcases this with rfl | rfl | rfl <;> rfl

theorem witness_PairWritesAct : booted.target 0x30 = some (.dev, 0x030) ∧ booted.target 0x34 = some (.dev, 0x030 + 4) ∧
    0x30 % 8 = 0 := by decide

theorem witness_RegisterWriteStores : booted.target 0x201100 = some (.acc 0, 0x100) ∧
    ((Page.row (.acc 0) 0x100).map RegRow.kind) = some .plain ∧
    booted.limitValue (.acc 0) 0x100 (lo32 5#64) = lo32 5#64 := by decide

theorem witness_SealedRegistersHold : { booted with io := { booted.io with isSealed := [0x201000] } }.pageSealed (.acc 0) = true ∧
    Page.acc 0 ∈ allPages ∧ (Page.row (.acc 0) 0x100).isSome = true := by decide

theorem witness_D2dRetry : ({ booted with mem := { d2dUp := [4] } } : State).mem.d2dUp.has (4 : Fin 13).val = true := by decide

theorem witness_DetectionCapturesFirst : booted.reg .dev 0x018 = 0#32 ∧ (booted.setErr .dev 0).reg .dev 0x018 ≠ 0#32 := by
  decide

/-! ### Rill -/

/-- Core 5 runs the word `w` at PC 0. -/
def rilling (w : W32) (k : Core := {}) : State := booted.setCore 5 { k with st := .running, imem := [(0, w)] }

/-- The annotated program of chapter 8: its words decode to what its table says. -/
theorem test_rill_words :
    [rOp 0x05C40000#32, rOp 0x0E480040#32, rOp 0x0E140048#32, rOp 0x0F000100#32, rOp 0x040CC001#32, rOp 0x0FCC0010#32,
      rOp 0x0D000000#32, rOp 0x00511400#32, rOp 0x0E900108#32, rOp 0x08804800#32, rOp 0x8C3FFFF2#32, rOp 0x0F800012#32,
      rOp 0x0CC00001#32] = [0x17, 0x39, 0x38, 0x3C, 0x10, 0x3F, 0x34, 0x01, 0x3A, 0x22, 0x30, 0x3E, 0x33] ∧
    [rD 0x0E480040#32, rD 0x040CC001#32, rA 0x040CC001#32, rD 0x00511400#32, rA 0x00511400#32, rB 0x00511400#32,
      rA 0x08804800#32, rB 0x08804800#32] = [2, 3, 3, 4, 4, 5, 1, 2] ∧
    rOff 0x8C3FFFF2#32 = -14 ∧ rG 0x8C3FFFF2#32 = true := by decide

theorem witness_RillArithmetic :
    (rilling 0x00511400#32).performs 5 0x01 = true ∧ ((rilling 0x00511400#32).core 5).pc.toNat ≠ 16383 ∧
    fld 0x00511400#32 9 0 = 0 ∧ (rilling 0x040CC001#32).performs 5 0x10 = true ∧
    (rilling 0x05140005#32).performs 5 0x14 = true ∧ fld 0x05140005#32 13 6 = 0 := by decide

/-- `ADD g4, g4, g5` wraps; a guarded word whose predicate is 0 retires without effect. -/
theorem test_rill_add :
    (match exec (.addR 5 .clean) (rilling 0x00511400#32 { g := [(4, 0xFFFFFFFFFFFFFFFF#64), (5, 2#64)] }) with
      | .next t => (t.core 5).reg 4 == 1#64 && (t.core 5).pc == 1 | _ => false) = true ∧
    (match exec (.addR 5 .clean) (rilling 0x80511400#32 { g := [(4, 1#64), (5, 2#64)] }) with
      | .next t => (t.core 5).reg 4 == 1#64 && (t.core 5).pc == 1 | _ => false) = true := by decide

theorem witness_RillCompares : (rilling 0x08804800#32).performs 5 0x22 = true ∧ fld 0x08804800#32 21 20 = 0 ∧
    fld 0x08804800#32 9 0 = 0 ∧ (rilling 0x0A800001#32).performs 5 0x2A = true := by decide

theorem witness_RillControlFlow :
    (rilling 0x0C000005#32).performs 5 0x30 = true ∧ (rilling 0x0C400005#32).performs 5 0x31 = true ∧
    (((rilling 0x0C000005#32).core 5).pc.toNat : Int) + ((0x0C000005#32).extractLsb' 0 22).toInt = (5#14).toNat ∧
    (rilling 0x0C800000#32).performs 5 0x32 = true ∧ ((rilling 0x0C800000#32).core 5).reg 0 = 0#64 ∧
    (rilling 0x0DC00000#32 { inTrap := true }).performs 5 0x37 = true ∧ (rilling 0x0CC00001#32).performs 5 0x33 = true ∧
    (rilling 0#32).performs 5 0 = true ∧ (rilling 0x0D000000#32).performs 5 0x34 = true := by decide

/-- Without a trap handler an illegal word faults the core. -/
theorem test_rill_illegal :
    (match exec (.nop 5 .clean) (rilling 0x02800000#32) with
      | .next t => (t.core 5).st == .faulted && (t.core 5).cause == 1#64 && t.flag (.ril 5) 0x010 0 | _ => false) = true := by
  decide

theorem witness_MisplacedAccesses : (rilling 0x0E040004#32).performs 5 0x38 = true ∧
    (((rilling 0x0E040004#32).core 5).ea 0x0E040004#32).toNat % 8 ≠ 0 ∧
    (rilling 0x0E044000#32 { g := [(1, 0x10000#64)] }).performs 5 0x38 = true ∧
    (((rilling 0x0E044000#32 { g := [(1, 0x10000#64)] }).core 5).ea 0x0E044000#32).toNat = 0x10000 ∧
    (rilling 0x0E840004#32).performs 5 0x3A = true ∧
    (((rilling 0x0E044000#32 { g := [(1, 0xFFFC#64)] }).core 5).ea 0x0E044000#32).toNat = 0xFFFC := by decide

theorem witness_RillLoadsAndStores : (rilling 0x0E040008#32).performs 5 0x38 = true ∧
    (rilling 0x0E840008#32).performs 5 0x3A = true ∧ (((rilling 0x0E040008#32).core 5).ea 0x0E040008#32).toNat = 8 ∧
    ((rilling 0x0E040008#32).core 5).dmemBad.has 1 = false := by decide

theorem witness_RillSystemValues : (rilling 0x0D440004#32).performs 5 0x35 = true ∧ rA 0x0D440004#32 = 0 ∧
    rImm 0x0D440004#32 < 9 ∧ (rilling 0x0D440009#32).performs 5 0x35 = true ∧ 9 ≤ rImm 0x0D440009#32 ∧
    (rilling 0x0D804006#32).performs 5 0x36 = true ∧ rImm 0x0D804006#32 = 6 ∧ rD 0x0D804006#32 = 0 ∧
    rImm 0x0D804008#32 = 8 ∧ rImm 0x0D804007#32 = 7 ∧ (rilling 0x0D804007#32).performs 5 0x36 = true := by decide

theorem witness_RillTallies : (rilling 0x06440012#32).performs 5 0x19 = true ∧ (rilling 0x0F800012#32).performs 5 0x3E = true ∧
    (rilling 0x0FC00012#32).performs 5 0x3F = true ∧ (rilling 0x0F800012#32).tallyPermitted 0x12 0 = true ∧
    (rilling 0x0F800040#32).tallyPermitted 0x40 0 = false ∧ (0#32 - 0#32).toNat < 2 ^ 31 ∧ 2 ^ 31 ≤ (0#32 - 1#32).toNat := by
  decide

theorem witness_TwaitRelease :
    ((booted.setCore 5 { st := .waiting, waitTally := some (0, 1), released := true }).core 5).waitTally.isSome = true ∧
    ((booted.setCore 5 { waitTally := some (0, 1) }).core 5).waitTally = some (0, 1#32) ∧ (0#32 + 1#32 - 1#32).toNat < 2 ^ 31 :=
  by decide

/-- A fetch descriptor at 0x100, issued by the core of Ridge 0. -/
theorem witness_RillIssue :
    (rilling 0x0F000100#32 { dmem := [(0x100, 0x41)] }).performs 5 0x3C = true ∧
    ((rilling 0x0F000100#32 { dmem := [(0x100, 0x41)] }).core 5).dmemNat 0x100 1 = 0x41 ∧
    ((rilling 0x0F000100#32 { dmem := [(0x100, 0x41)] }).core 5).dmemPoison 0x100 8 = false ∧
    ((rilling 0x0F000100#32 { dmem := [(0x100, 0x41)] }).place 5
      { words := [0x41#32, 0, 0, 0, 0, 0, 0, 0], ctx := 0, src := .core 5 0x100 }).isSome = true ∧
    ((rilling 0x0F000100#32).core 5).dmemNat 0x100 1 = 0 := by decide

theorem witness_RillTake :
    (rilling 0x0F400100#32 { inq := [{ words := [0x12#32], ctx := 0, src := .device }] }).performs 5 0x3D = true ∧
    ((rilling 0x0F400100#32 { inq := [{ words := [0x12#32], ctx := 0, src := .device }] }).nextTake 5).isSome = true ∧
    (rilling 0x0F400100#32).nextTake 5 = none := by decide

theorem witness_RillLimits : (booted.reg (.ril 5) 0x118).toNat ≠ 0 ∧ (booted.reg (.ril 5) 0x11C).toNat ≠ 0 ∧
    booted.firmCore 5 = false ∧ ((booted.setCore 5 { st := .waiting }).core 5).released = false ∧
    ((booted.setCore 5 { st := .running, pend := [1] }).core 5).pend = 1#64 :: [] := by decide

theorem witness_RillRunAndLoad : booted.ready = true ∧ (1#32).toNat % 4 = 1 ∧ (booted.core 5).busy = false ∧
    booted.flag (.ril 5) 0x114 0 = false ∧ (booted.setCore 5 { st := .running } |>.core 5).busy = true ∧
    (booted.setReg (.ril 5) 0x114 1).flag (.ril 5) 0x114 0 = true := by decide


/-! ### Numbers, tables, Scree -/

theorem witness_CodesConvertBack : (Fmt.f8e4.decode 0x5D).isFin = true ∧ (Fmt.f8e4.decode 0x80).isFin = false := by decide

/-- 3.3 × 8 = 26.4 is stored in F8E4 as 0x5D, 26 (worked example of R72); 496 overflows, 495 does not (R56). -/
theorem test_f8e4_rounding :
    (Fmt.f8e4.conv .rne false 0 (.fin false 211 (-3))).code = 0x5D ∧
    (Fmt.f8e4.conv .rne true 0 (.fin true 496 0)).code = 0x80 ∧ (Fmt.f8e4.conv .rne false 0 (.fin true 496 0)).code = 0xFF ∧
    (Fmt.f8e4.conv .rne true 0 (.fin true 495 0)).code = 0xFF ∧ (Fmt.int8.conv .rne false 0 (.fin true 257 (-1))).code = 0x80 := by
  decide

/-- The worked example of R64: 1.00390625 rounds stochastically to BF16 0x3F81 with r = 32,758, and to 0x3F80 to nearest even. -/
theorem test_stochastic_example :
    (Fmt.bf16.conv .sr false 0x7FF6 (fp32Val 0x3F808000#32)).code = 0x3F81 ∧
    (Fmt.bf16.conv .rne false 0 (fp32Val 0x3F808000#32)).code = 0x3F80 := by decide

/-- The worked example of R72: an amax of 21.0 gives exponent 3 with margin 1, and so does 27.5. -/
theorem test_scale_exp : scaleExp 0 1 [0x41A80000#32] = 3 ∧ scaleExp 0 1 [0x41A80000#32, 0x41DC0000#32] = 3 := by decide

theorem witness_ScreeVectors : booted.flag .scl 0x120 31 = true ∧ booted.ready = true ∧
    (booted.setFlag .scl 0x120 31 false).flag .scl 0x120 31 = false := by decide

/-- A part with one frame per stack in the hashed window. -/
def windowed : State := booted.setReg .pmap 0x100 1#32

theorem witness_TableWrites : windowed.ready = true ∧ windowed.stepOpen = false ∧ windowed.windowOk = true ∧
    windowed.winPoison (scaleOff 0 + 0x48) = false ∧ scaleMask (0x48 % 0x80) ≠ 0 ∧ scaleMask (0x50 % 0x80) = 0 ∧
    normMask (0x8C % 0x100) ≠ 0 ∧ noiseMask (0x80 % 0x100) ≠ 0 ∧ expertMask (0 % 0x40) ≠ 0 ∧
    windowed.winPoison (normOff 0 + 0x8C) = false ∧ windowed.winPoison (noiseOff 0 + 0x80) = false ∧
    windowed.winPoison expertOff = false ∧ { windowed with stepm := { s0 := { st := .compute } } }.stepOpen = true := by decide


/-! ### Ridges -/

/-- A tile op: INT8 × INT8, one row, one column, one contraction element, array 0, no Scale Table entries; drained to the Tarn at
0x40 if `drain` is 1. -/
def tileWords (drain : Nat) : List W32 :=
  [w32 (0x22200021 + drain * 2 ^ 11), w32 (321 * 2 ^ 20 + 2 ^ 13 + 2 ^ 7), 1, 0, 32, 0x00010001#32, 0, 0, 0, 0, 0x40, 0x80000000#32, 0, 0,
    32, 0x1C#32]

def tileDesc (drain : Nat) : Desc := { words := tileWords drain, ctx := 5, src := .device }

/-- Ridge 3, zeroed, with one descriptor waiting. -/
def tiling (r : Ridge) : State := booted.setRidge 3 { r with zeroing := false }

/-- The op that descriptor becomes, with its array running. -/
def tileRun (drain : Nat) (ph : TilePh) (made : Nat) : Ridge :=
  { owner := 5, tileOps := [{ id := 0, desc := tileDesc drain, ph := ph, made := made }], arrs := [(0, { ramp := .running })]
    tarn := [(0, 0xFD), (32, 7)] }

theorem witness_TileOpsAreAccepted :
    ({ tileIn := [tileDesc 1], zeroing := false } : Ridge).admits 5 = true ∧ tdPair (tileWords 1) = false ∧
    (tiling { tileIn := [tileDesc 1] }).cairnWait 3 = false ∧ (tiling { tileIn := [] }).tileVerdict 3 (tileDesc 1) = .ok ∧
    (tiling { tileIn := [] }).tileVerdict 3 { tileDesc 1 with words := (tileWords 1).set 2 0 } = .refuse 2 ∧
    (tiling {}).flag (.rdg 3) 0x11C 31 = false := by decide

theorem witness_TileOpReachesItsArray :
    (tiling (tileRun 1 .accepted 0)).arrReady 3 { id := 0, desc := tileDesc 1 } = true ∧
    (tileRun 1 .accepted 0).stateRefused { id := 0, desc := tileDesc 1 } = false ∧ tdAccIn (tileWords 1) = false ∧
    ({ tileRun 1 .accepted 0 with arrs := [(0, { ramp := .running, t0 := { isOpen := true, cols := 2 } })] } : Ridge).stateRefused
      { id := 0, desc := tileDesc 1 } = true ∧
    (((tileRun 1 .accepted 0).arr 0).tile 0).isOpen = false := by decide

theorem witness_PassAddsColumnSums :
    let r := tileRun 0 .atArray 0
    let o : TileOp := { id := 0, desc := tileDesc 0, ph := .atArray }
    let p := r.passOf o 0
    p.rangeBad = false ∧ p.rowBad 0 = false ∧ p.colBad 0 = false ∧ ((r.arr 0).tile p.tile).fp = false ∧
      ((r.arr 0).tile p.tile).count + 32 ≤ (tiling r).spillInterval 3 ∧ opPasses (tileWords 0) = 1 ∧ tdDrain (tileWords 0) = false ∧
      tdCols (tileWords 0) ≤ 32 ∧ p.rows = 1 ∧ p.cols = 1 := by decide

/-- R96: a fetch op that is not over writes what the op reads. -/
theorem test_tile_races :
    let f : FetchOp := { id := 7, desc := { words := [0x41, 0x100, 0, 0, 0, 0, 0, 0x40], ctx := 5, src := .device }, since := 0 }
    (tiling { tileRun 0 .atArray 0 with fetchOps := [f] }).opRaces 3 { id := 0, desc := tileDesc 0, ph := .atArray } = true ∧
    (tiling { tileRun 0 .atArray 0 with spoiled := true }).opRaces 3 { id := 0, desc := tileDesc 0, ph := .atArray } = true := by
  decide

set_option maxRecDepth 20000 in
/-- −3 × 7 = −21 reaches the ledger in units of 2^−32 (R115, R116), and the op that leaves its tile open increments its tally. -/
theorem test_array_pass :
    (match exec (.arrayPass 3 0 .good .good .good) (tiling (tileRun 0 .atArray 0)) with
      | .next t => ((((t.ridge 3).arr 0).tile 0).entry 0).v == -21 * 2 ^ 32 && t.tally 321 == 1#32
      | _ => false) = true := by decide

theorem witness_TileDrain :
    let r := tileRun 1 .passed 1
    let o : TileOp := { id := 0, desc := tileDesc 1, ph := .passed, made := 1 }
    ((r.arr 0).tile 0).loose = false ∧ (tiling r).opRaces 3 o = false ∧ o.tiles o.tile = [0] ∧ tdDrain (tileWords 1) = true ∧ tdRaw (tileWords 1) = false ∧ tdOutTarn (tileWords 1) = true ∧
      tdTout (tileWords 1) = false ∧ tdCols (tileWords 1) * (opOutFmt (tileWords 1) false).bytes ≤ tdOutStride (tileWords 1) ∧
      tdOutAddr (tileWords 1) % 2 ^ 24 + tdRows (tileWords 1) * tdOutStride (tileWords 1) ≤ 0xC00000 ∧
      (((r.arr 0).tile 0).close o).isBad 0 = false ∧ (r.outEl o [((r.arr 0).tile 0).close o] 0 0 0 0).epiBad = false ∧
      r.tarnPoison (tdOutAddr (tileWords 1) % 2 ^ 24) (opOutFmt (tileWords 1) false).bytes = false := by decide

/-- The entry 1,234.5 with SHIFT 8 and an output exponent of 2, without its epilogue, is 4.822265625 × 4 (worked example of
R135): F8E4 rounds 19.2890625 to 20. -/
theorem test_drain_example :
    (({} : Ridge).outEl { id := 0, desc := { words := [0x00000021#32], ctx := 0, src := .device }, a := { expo := 3 }
                          w := { expo := 5 }, o := { expo := 2 } }
      [{ vals := [(0, { v := 0x04D280000000 })], shift := 8 }] 0 0 0 0).code = 0x5A := by decide

theorem witness_DrainRoundsOnce : epOp [] = 0 ∧ tdRnd (tileWords 1) = 0 := by decide

theorem witness_RidgeUpkeep :
    (({ arrs := [(2, { ramp := .up 3 })] } : Ridge).arr 2).ramp = .up 3 ∧
    (({ arrs := [(2, { ramp := .down 7 })] } : Ridge).arr 2).ramp = .down 7 ∧
    (({ arrs := [(2, { ramp := .hold })] } : Ridge).arr 2).ramp = .hold ∧
    (({ tileIn := [tileDesc 1], owner := 4, zeroing := false } : Ridge).tileIn.head?.any fun d => d.ctx ≠ 4) = true ∧
    (tileRun 1 .passed 1).tileOps ≠ [] ∧ ((booted.ridge 3).zeroing && !(booted.ridge 3).quiescing) = true ∧
    booted.flag (.trn 3) 0x100 0 = true ∧ (booted.setReg (.trn 3) 0x100 0).flag (.trn 3) 0x100 0 = false := by decide


/-! ### Brook -/

theorem witness_RowSums : [Sys2Proof.Machine.Num.fin false 1 0, .fin true 3 (-1)].Perm [.fin true 3 (-1), .fin false 1 0] ∧
    (∀ z ∈ [Sys2Proof.Machine.Num.fin false 1 0, .fin true 3 (-1)], z.isFin = true) := ⟨List.Perm.swap _ _ _, by decide⟩

/-- Row of R164: 2^24, 1 and 1. Fast ROWSUM forms 16,777,218; strict ROWSUM gives 16,777,216 and is inexact. -/
theorem test_rowsum_example :
    (Fmt.fp32.conv .rne true 0 (([fp32Val 0x3F800000#32, fp32Val 0x3F800000#32] : List Sys2Proof.Machine.Num).foldl Sys2Proof.Machine.Num.add
      (fp32Val 0x4B800000#32))).code = 0x4B800001 ∧
    (strictRow 0x0D .fp32 .rne true [(fpEl 0x4B800000, {}), (fpEl 0x3F800000, {}), (fpEl 0x3F800000, {})] {}).1 = 0x4B800000 ∧
    (strictRow 0x0D .fp32 .rne true [(fpEl 0x4B800000, {}), (fpEl 0x3F800000, {}), (fpEl 0x3F800000, {})] {}).2.code = 1 := by
  decide

/-- ADD of two FP32 rows of one element, all without Scale Table entries: A at 0, B at 0x20, D at 0x40. -/
def brookWords : List W32 :=
  [0x04070031#32, w32 (321 * 2 ^ 20 + 2 ^ 8), 1, 0x70000000#32, 0x70000020#32, 0, 0x40, 0x00010001#32, 0x00000001#32, 0, 0, 0, 0, 0xF,
    0, 0]
def brookDesc : Desc := { words := brookWords, ctx := 5, src := .device }
def brookOp : BrookOp := { id := 0, desc := brookDesc, scalars := [0, 0, 0], uses := [{}, {}, {}, {}] }

theorem witness_BrookOpsComeAndGo :
    ({ brookIn := [brookDesc], zeroing := false } : Ridge).admits 5 = true ∧
    ((bdOperands brookWords).all fun x => !(bdNames brookWords x && booted.scalePoison false (bdScl brookWords x))) = true ∧
    (booted.bdJudge brookWords (booted.bdUses brookWords none) (booted.bdCold brookWords)).1 = 0 ∧
    (booted.bdJudge (brookWords.set 1 0) (booted.bdUses (brookWords.set 1 0) none) false).1 = 2 ∧
    booted.brScalars 3 brookWords none = some [0, 0, 0] ∧ booted.curSlot 5 false = none ∧ fnOpt (bdFn brookWords) = false ∧
    booted.flag (.brk 3) 0x108 31 = false ∧ ({ brookOp with done := true } : BrookOp).cold = false ∧ brookOp.folds = [] := by decide

/-- Brook writes 1.0 + 1.5 = 2.5 (R155). -/
theorem test_brook_add :
    (match exec (.brookOpExecute 3 .good) (booted.setRidge 3 { owner := 5, zeroing := false, brookOps := [brookOp], tarn := [(2, 0x80), (3, 0x3F), (34, 0xC0), (35, 0x3F)] }) with
      | .next t => (t.ridge 3).tarnNat 0x40 4 == 0x40200000
      | _ => false) = true := by decide

theorem witness_BrookWritesEveryElement :
    let r : Ridge := { owner := 5, zeroing := false, brookOps := [brookOp] }
    r.brRawBad brookOp = false ∧ brookOp.overlaps r 3 = false ∧ (booted.setRidge 3 r).brRaces 3 brookOp = false ∧
      bdTo4 brookWords = false ∧ fnOpt (bdFn brookWords) = false ∧ r.zeroing = false ∧ bdLen brookWords * (brookOp.fmt 3).bytes ≤ bdStride brookWords 3 ∧
      bdAddr brookWords 3 + bdRows brookWords * bdStride brookWords 3 ≤ 0xC00000 ∧ bdRows brookWords = 1 ∧ bdLen brookWords = 1 ∧
      (∀ x ∈ fnUses (bdFn brookWords), (r.brElem brookOp x 0 0).bad = false) ∧ fnRow (bdFn brookWords) = false ∧
      bdStrict brookWords = false ∧ r.tarnPoison (brookOp.addr 3 0 0) (brookOp.fmt 3).bytes = false := by decide


/-! ### Memory -/

/-- The worked example of R177: Scale Table entry 1,000 lies in stack 1 at 0x13_FF08_3E00; and that of R182: what page 4,660 leads
to. -/
theorem test_window_example : windowed.windowKey (scaleOff 1000) = 1 * 2 ^ 37 + 0x13FF083E00 ∧
    0x41F400 < windowed.winFrames * 2 ^ 27 ∧ 0x2400000 + 4660 * 8 = 0x24091A0 ∧
    pmFld 0xE0200400000303E8#64 43 40 = 4 ∧ pmFld 0xE0200400000303E8#64 18 16 = 3 ∧ pmFld 0xE0200400000303E8#64 12 0 = 1000 ∧
    pmFld 0xE0200400000303E8#64 55 52 = 2 ∧ pmValid 0xE0200400000303E8#64 = true := by decide

theorem witness_PoisonAndWrites : 0 / 64 = (0 + ([1, 2] : List Byte).length - 1) / 64 ∧
    ({ booted with mem := { poison := [0] } } : State).granPoison 0 = true ∧ booted.granPoison 0 = false ∧
    0 / 64 = (0 + (List.replicate 64 (0 : Byte)).length - 1) / 64 := by decide

theorem witness_Translations : (match mapped.translate 0 0 5 .rd 0x10 with | .ok (.local 0 0x10) => true | _ => false) = true := by
  decide

theorem witness_PageMapChanges : booted.asleep = false ∧ windowed.asleep = false ∧ booted.mem.batch = none ∧
    ({ windowed with mem := { hbm := (List.range 16).map fun i => (windowed.windowKey (stagingOff + i), 0) } } : State).batchOk 1 = true ∧ booted.batchOk (fld 0x80000000#32 12 0) = false ∧
    ({ booted with mem := { batch := some { recs := [(3, 7)], atClosed := false } } } : State).mem.batch.isSome = true := by decide

theorem witness_WindowPort : windowed.asleep = false ∧ ((windowed.reg64 .pmap 0x118).toNat % 2 ^ 36) / 8 * 8 = 0 ∧ windowed.windowOk = true ∧
    0 < windowed.winFrames * 2 ^ 27 ∧ windowed.winPoison 0 = false ∧ windowed.stepOpen = false ∧
    ({ windowed with mem := { poison := [windowed.windowKey 0 / 64] } } : State).winPoison 0 = true ∧
    ({ windowed with mem := { poison := [windowed.windowKey 0 / 64] } } : State).windowOk = true ∧
    windowed.pageSealed .pmap = false ∧ windowed.partIdle = true := by decide

theorem witness_StacksTrain : booted.plat.held = false ∧ booted.mem.ready.has 3 = false ∧ booted.mem.failed.has 3 = false ∧
    booted.mem.filling.has 3 = false ∧ ({ booted with mem := { filling := [3], ready := [4] } } : State).mem.filling.has 3 = true ∧
    booted.flag (.hbm 4) 0x100 0 = true := by decide

/-- A fetch of 0x40 bytes at board address 0 into the Tarn at 0x100. -/
def fetchWords (dir : Nat) : List W32 := [w32 (dir * 2 ^ 28 + 0x41), w32 (321 * 2 ^ 20 + 2 ^ 8), 0, 0, 0, 0x100, 0x00020000#32, 0x40]
def fetchDesc (dir : Nat) : Desc := { words := fetchWords dir, ctx := 5, src := .device }
def chunk0 (st : ChunkSt) : Chunk := { row := 0, off := 0, len := 0x40, addr := 0, st := st }
def fetching (dir row : Nat) (c : List Chunk) : State :=
  mapped.setRidge 3 { owner := 5, zeroing := false, fetchOps := [{ id := 0, desc := fetchDesc dir, row := row, chunks := c }] }

theorem witness_FetchOps :
    ({ fetchIn := [fetchDesc 0], zeroing := false } : Ridge).admits 5 = true ∧ fdReason (fetchWords 0) = 0 ∧
    fdReason ((fetchWords 0).set 7 0) = 2 ∧ booted.flag (.bsn 0) 0x104 31 = false ∧ 0 < fdRows (fetchWords 0) ∧
    0 < fdBytes (fetchWords 0) ∧ fdWin (fetchWords 0) = false ∧ pageOf ((fdRowAddr (fetchWords 0) 0 + 0) % 2 ^ 43) ∉
      (fetching 0 0 []).cacheSet 3 0 ∧
    (fetching 0 1 [chunk0 .refill]).routeDown 0 (4 + ridgeCopy 3) = false ∧
    (match (((fetching 0 1 [chunk0 .refill]).readEntry 0 .clean).cacheUse 3 0).site 0 (ridgeCopy 3) 5 (fdAcc (fetchWords 0)) 0 with
      | .ok (.here 0) => true | _ => false) = true := by decide

theorem witness_FetchChunks : ((fetching 0 1 [chunk0 (.here 0)]).ridge 3).tarnBad.has (chunkTarn (fetchWords 0) (chunk0 (.here 0)) / 32) = false ∧
    spansMeet [(chunkTarn (fetchWords 1) (chunk0 (.here 0)), 0x40)] (booted.tarnSlots 3) = false ∧ fdDir (fetchWords 0) = 0 ∧ fdHint (fetchWords 0) ≠ 3 ∧ fdDir (fetchWords 1) = 1 ∧
    ((fetching 1 1 [chunk0 (.here 0)]).ridge 3).tarnPoison (chunkTarn (fetchWords 1) (chunk0 (.here 0))) 0x40 = false ∧
    (∀ g ∈ granules 0 0x40, (fetching 1 1 [chunk0 (.here 0)]).granPoison g = false) ∧ 1 = fdRows (fetchWords 1) := by decide

theorem witness_RidgesKeepOneOwner : ∀ n : Fin 64, let r := (fetching 0 0 []).ridge n.val
    (∀ o ∈ r.tileOps, o.desc.ctx = r.owner) ∧ (∀ o ∈ r.brookOps, o.desc.ctx = r.owner) ∧
    (∀ o ∈ r.fetchOps, o.desc.ctx = r.owner) ∧
    (r.zeroing = true ∨ r.owner = 0xFF → r.tileOps = [] ∧ r.brookOps = [] ∧ r.fetchOps = []) := by decide


/-! ### Command windows, tallies, operations -/

/-- `n` bytes from address 0, those of `b` as told and zero elsewhere. -/
def listed (n : Nat) (b : List (Nat × Byte)) : List (Nat × Byte) := (List.range n).map fun i => (i, (Table.find i b).getD 0)

/-- Window 5 holds the record `r` in its next slot. -/
def holding (r : List W32) (k : Win := {}) (s : State := booted) : State :=
  s.setWin 5 { k with
    st := .run, words := (List.range 16).map fun i => (16 * (k.next.toNat % 1024) + i, some (wordAt r i)), next := k.next }

/-- A record's common words. -/
def rec_ (kind wait wtally : Nat) (body : List W32) : List W32 :=
  [0, w32 (kind * 2 ^ 28 + wait * 2 ^ 27 + wtally), 0, 0] ++ body

theorem witness_CommandWindowWrites : booted.ready = true ∧ ((holding []).win 5).st ≠ .disabled ∧
    Table.find 16 ((holding []).win 5).words = none ∧ (booted.win 5).st = .disabled := by decide

/-- The third record of the worked example of R256: TINC of tally 322 by 1, placed by one write, consumed at `NEXT` 0 here. -/
theorem test_record_tinc :
    (match exec (.commandWindowWrite 5 0 (wordsBytes [0, 0x30000141, 4, 0, 0x142, 1, 0, 0, 0, 0, 0, 0, 0, 0, 0, 0])
        (List.replicate 64 true)) (booted.setWin 5 { st := .run }) with
      | .next t => match exec (.recordTinc 5) t with
        | .next u => (u.tally 322 == 1#32) && (u.win 5).next == 1#32
        | _ => false
      | _ => false) = true := by decide

theorem witness_RecordsAct :
    ∀ r ∈ [rec_ 0 0 0 [], rec_ 3 0 0 [0x142, 1], rec_ 4 0 0 [7], rec_ 1 0 0 [0x11, 0, 1, 1, 1]],
      ((holding r).record 5).isSome = true ∧ (holding r).rcReason 5 (((holding r).record 5).getD []) = 0 ∧
      ((holding r).win 5).ref = none ∧ (holding r).nextWin = some 5 ∧ ((holding r).win 5).overrun = none ∧ wordAt (((holding r).record 5).getD []) 0 = ((holding r).win 5).next ∧
      rcWait r = false := by decide

theorem witness_RecordsAct_place :
    ({ holding (rec_ 1 0 0 [0x11, 0, 1, 1, 1]) with winTurn := 5 }.placeWork
      { words := (((holding (rec_ 1 0 0 [0x11, 0, 1, 1, 1])).record 5).getD []).drop 4, ctx := 5, src := .win 5 0 }).isSome = true ∧
    ((holding []).core 0).inq.length < 16 := by decide

/-- A DESC_REF of address 0 in window 5 finds local memory. -/
theorem witness_DescRefActs :
    ((holding (rec_ 2 0 0 [0, 0]) {} mapped).record 5).isSome = true ∧
    (holding (rec_ 2 0 0 [0, 0]) {} mapped).rcReason 5 (((holding (rec_ 2 0 0 [0, 0]) {} mapped).record 5).getD []) = 0 ∧
    (holding (rec_ 2 0 0 [0, 0]) {} mapped).nextWin = some 5 ∧
    (match (({ holding (rec_ 2 0 0 [0, 0]) {} mapped with winTurn := 5 }.event .cwn 0x05 1).lookup 4 0 0 .clean).site 4 0 5 .rd 0 with
      | .ok (.here _) => true | _ => false) = true := by decide

theorem witness_DescRefActs_done :
    ((booted.setWin 5 { st := .run, ref := some (.here 0) }).win 5).ref = some (.here 0) ∧
    (let s : State := { booted.setWin 5 { st := .run, ref := some (.here 0) } with mem := { hbm := listed 64 [(0, 0x61)] } };
      let t := s.readRange 0 0 64 [];
      t.rangePoison 0 64 = false ∧ s.routeDown 4 (stackDie 0) = false ∧ t.winOpc 5 (dcOpc (leWords (t.hbmRead 0 64) 16)) = true ∧
      ((t.setWin 5 { t.win 5 with ref := some (.got (leWords (t.hbmRead 0 64) 16)) }).placeWork
        { words := leWords (t.hbmRead 0 64) 16, ctx := 5, src := .win 5 (t.win 5).next }).isSome = true) := by decide

theorem witness_RecordsWait :
    ((holding [0, w32 (2 ^ 27 + 0x140), 1, 0]).record 5).isSome = true ∧
    (holding [0, w32 (2 ^ 27 + 0x140), 1, 0]).rcReason 5 [0, w32 (2 ^ 27 + 0x140), 1, 0] = 0 ∧
    (holding [0, w32 (2 ^ 27 + 0x140), 1, 0]).nextWin = some 5 ∧ (holding (rec_ 4 0 0 [7])).nextWin = some 5 ∧
    rcWait [0, w32 (2 ^ 27 + 0x140), 1, 0] = true ∧ tallyReached (booted.tally 0x140) 1 = false ∧
    tallyReached ((booted.setTally 0x140 1).tally 0x140) 1 = true ∧
    16 ≤ ((booted.setCore 0 { inq := List.replicate 16 { words := [], ctx := 0, src := .device } }).core 0).inq.length ∧
    (booted.reg (.ril 0) 0x118).toNat ≠ 0 := by decide

theorem witness_RefusedRecords : (holding (rec_ 7 0 0 [])).nextWin = some 5 ∧ (holding (rec_ 1 0 0 [])).nextWin = some 5 ∧
    (holding (rec_ 7 0 0 [])).rcReason 5 (((holding (rec_ 7 0 0 [])).record 5).getD []) = 1 ∧
    (holding (rec_ 1 0 0 [])).rcReason 5 (((holding (rec_ 1 0 0 [])).record 5).getD []) = 3 ∧
    (holding (rec_ 3 0 0 [0])).rcReason 5 (((holding (rec_ 3 0 0 [0])).record 5).getD []) = 2 ∧
    (holding (rec_ 2 0 0 [1])).rcReason 5 (((holding (rec_ 2 0 0 [1])).record 5).getD []) = 1 ∧
    (holding (rec_ 4 1 0 [])).rcReason 5 (((holding (rec_ 4 1 0 [])).record 5).getD []) = 2 := by decide

theorem witness_RecordReasons : rcBad (rec_ 3 0 0 [0]) = false ∧ rcBad (rec_ 0 1 0 []) = false ∧ rcBad (rec_ 1 0 0 [0x71]) = false ∧
    booted.tallyPermitted 0 5 = false ∧
    ({ booted with io := { booted.io with regs := [(0x100, 0x12#32)] } } : State).partOfCtx 5 ≠
      ({ booted with io := { booted.io with regs := [(0x100, 0x12#32)] } } : State).stepOwner := by decide

theorem witness_WindowControl : (booted.win 5).st = .disabled ∧ ((booted.setWin 5 { st := .faulted }).win 5).st = .faulted ∧
    (booted.win 5).st ≠ .faulted := by decide

theorem witness_TallyAndSlotWrites : booted.pageSealed .tly = false ∧ booted.blockNamed 5 5 = false ∧
    ({ booted with io := { isSealed := [0x809000] } } : State).pageSealed .tly = true ∧ fld 0x80001000#32 24 0 ≤ 2 ^ 24 ∧
    bitOf 0x80001000#32 31 = true ∧ 2 ^ 24 < fld 0x1000001#32 24 0 := by decide

theorem witness_OpTallyPermission : booted.tallyPermitted 320 5 = true ∧ booted.tallyPermitted 320 6 = false ∧
    booted.flag .tly 0x104 31 = false := by decide

/-- The worked example of R259: a slot of 90,000 tokens has three segments. -/
theorem test_segments : ceilDiv 90000 32768 = 3 := by decide

/-- An operation of 128 rows, 64 columns, contraction 32. -/
def anOp : Desc := { words := [0x14100011#32, 0, 128, 64, 32], ctx := 5, src := .device }

theorem witness_OperationAccept : ((booted.setCore 1 { inq := [anOp] }).core (1 + (0 : Fin 4).val)).inq = anOp :: [] ∧
    anOp.judged = false ∧ odOk anOp.words = true ∧ wfld [0x11#32] 2 23 0 = 0 := by decide

theorem witness_OperationBegin :
    ((booted.setReg .dev 0x100 2).setDie 0 [{ desc := anOp }]).partMode = 2 ∧
    ((booted.setReg .dev 0x100 2).setDie 0 [{ desc := anOp }]).die 0 = [{ desc := anOp }] := by decide

theorem witness_ShareComplete :
    ((booted.setDie 0 [{ desc := anOp, phase := 1, owing := [3] }]).die (3 / 16)) = [{ desc := anOp, phase := 1, owing := [3] }] ∧
    NatSet.has [3] 3 = true ∧ NatSet.del 3 [3] = [] ∧ NatSet.del 3 [3, 4] ≠ [] ∧
    (booted.setDie 0 [{ desc := anOp, phase := 1, owing := [3] }]).shareWaits 3 { desc := anOp, phase := 1, owing := [3] } = false := by
  decide


/-! ### DMA -/

/-- A descriptor of 64 bytes from address 0 to address 0x1000, with host sides as told. -/
def dmaWords (sHost dHost : Nat) : List W32 :=
  [w32 (6 * 2 ^ 24 + 6 * 2 ^ 21 + sHost * 2 ^ 20 + dHost * 2 ^ 19 + 0x61), w32 (321 * 2 ^ 20), 0, 0, 0x1000, 0, 64, 64, 64]
def dmaDesc (sHost dHost : Nat) : Desc := { words := dmaWords sHost dHost, ctx := 5, src := .device }
/-- Channel 2 runs it. -/
def moving (sHost dHost : Nat) (k : DmaCh) : State := mapped.setDma 2 { k with st := .active, acc := [dmaDesc sHost dHost] }

theorem witness_DmaMovesBytes :
    (mapped.setDma 2 { inq := [dmaDesc 0 0] }).ddReason 2 (dmaDesc 0 0) = 0 ∧ mapped.ddReason 2 (dmaDesc 1 0) = 4 ∧
    (moving 0 0 {}).dmaCanRead 2 = true ∧ (match (moving 0 0 {}).site 4 0 5 .rd (ddSrcAddr (dmaWords 0 0) 0) with
      | .ok (.here 0) => true | _ => false) = true ∧ ddSHost (dmaWords 1 0) = true ∧ (moving 1 0 {}).dmaCanRead 2 = true ∧
    (moving 0 0 { rd := 64, buf := List.replicate 64 (1, false) }).dmaCanWrite 2 = true ∧
    (match (moving 0 0 {}).site 4 0 5 .wr (ddDstAddr (dmaWords 0 0) 0) with | .ok (.here 0x1000) => true | _ => false) = true ∧
    ddDHost (dmaWords 0 1) = true ∧ ddLen (dmaWords 0 0) ≤ 64 ∧
    (∀ i < 64, (moving 0 0 {}).dmaRaces 2 (ddDstAddr (dmaWords 0 0) i) = false) := by decide

/-- R279: a descriptor from 0 to 0x20 overlaps itself from 0x20 on; two channels that write the same bytes meet. -/
theorem test_dma_overlap :
    let d : Desc := { dmaDesc 0 0 with words := (dmaWords 0 0).set 4 0x20 }
    let s := (mapped.setDma 2 { st := .active, acc := [d] }).setDma 3 { st := .active, acc := [dmaDesc 0 0] }
    s.dmaRaces 2 0x3F = true ∧ s.dmaRaces 2 0x40 = false ∧ s.dmaRaces 2 0x1000 = true := by decide

theorem witness_DmaHalts : (moving 1 0 {}).field (.dma 2) 0x100 14 12 = 3 ∧ (moving 1 0 { rtries := 3 }).dmaCanRead 2 = true ∧
    (match (booted.setDma 2 { st := .active, acc := [dmaDesc 0 0], buf := List.replicate 64 (1, false) }).site 4 0 5 .wr
      (ddDstAddr (dmaWords 0 0) 0) with | .error 1 => true | _ => false) = true ∧
    ((booted.setDma 2 { st := .halted, acc := [dmaDesc 0 0] }).dma 2).st = .halted ∧ booted.pageSealed (.dma 2) = false ∧
    booted.dma 2 = {} := by decide

/-- The worked example of chapter 10: element 2,500 of the column, and what is left of the transfer. -/
theorem test_dma_residual :
    let d : List W32 := [w32 (1 * 2 ^ 24 + 6 * 2 ^ 21 + 0x61), 0, 0, 0x12#32, 0, 0, 8192, 14336, 64]
    ddSrcAddr d 5000 = 0x120222E000 ∧
    ({ st := .active, acc := [{ words := d, ctx := 0, src := .device }], wr := 4992 } : DmaCh).residual = 3200 := by decide


/-! ### The fabric -/

/-- Port 2 as told, on a part whose straps say device (0, 0), or (0, 1) where the parity is good. -/
def linked (k : Port) : State := (booted.setPort 2 k).setReg .stp 0x100 1

theorem witness_PortsComeUp : ({ booted with fab := { disc := true } } : State).fab.disc = true ∧
    fld (booted.reg (.prt 2) 0x100) 1 0 ≠ 0 ∧ (booted.port 2).st = .down ∧ (linked { st := .hello }).myGroup = 0 ∧
    (linked { st := .hello }).myDev = 1 ∧ fld (0x20000#32) 30 30 = 0 ∧ fld (0x20000#32) 20 17 = 1 ∧
    ((linked { st := .attest, peer := some ⟨0, 2, []⟩ }).port 2).peer = some ⟨0, 2, []⟩ ∧ fld (0#32) 3 1 = 0 ∧
    (linked { st := .quarantine, attOk := true, keyDigest := List.replicate 32 0 }).admitDigest 2 = true ∧
    (linked { st := .quarantine }).admitDigest 2 = false := by decide

theorem witness_DiscoveryEnds : booted.ready = true ∧ bitOf 1#32 0 = true ∧ booted.discSettled = true ∧
    (booted.setReg (.prt2 2) 0x100 0x80000100#32).discSettled = false ∧
    ({ booted with fab := { disc := true } } : State).fab.disc = true := by decide

theorem witness_PortsJudgePartners : ((linked { st := .up, probes := [0] }).port 2).probes = 0 :: [] ∧
    ((linked { st := .up }).refcnt - 0).toNat ≤ (linked { st := .up }).field (.prt 2) 0x110 19 8 * 100 ∧
    ((linked {}).planNbr 2) = 0 ∧ ({ txq := [{ cls := 0, vc := 0, slots := [] }], credits := [(0, 0)] } : Port).credit 0 0 = 0 ∧
    portRole ((linked {}).portAs 2) = 0 ∧ (linked {}).mateOf (portIndex ((linked {}).portAs 2)) = (0x40#8).toNat / 16 ∧
    (linked {}).posBad = false ∧ booted.posBad = true ∧ (linked {}).pageSealed (.prt 2) = false ∧
    max 1 ((linked {}).field (.prt 2) 0x110 3 0) = 3 := by decide

/-- An empty flit with its CRC; `flit1` is a DATA flit with sequence number 1. -/
def emptyFlit (h : W64) : Flit := { hdr := h, slots := [], crc := w64 (crc64 (flBytes { hdr := h, slots := [], crc := 0 })) }
def flit1 : Flit := emptyFlit 0x0001000010000000#64

theorem crcBit_lt (r : Nat) (b : Bool) : crcBit 64 0x42F0E1EBA9EA3693 r b < 2 ^ 64 := by
  unfold crcBit
  dsimp only
  split
  · exact Nat.xor_lt_two_pow (Nat.mod_lt _ (by decide)) (by decide)
  · exact Nat.mod_lt _ (by decide)

theorem crc64_lt (bs : List Byte) : crc64 bs < 2 ^ 64 := by
  refine Nat.xor_lt_two_pow (by decide) ?_
  suffices h : ∀ r < 2 ^ 64, bs.foldl (crcByte 64 0x42F0E1EBA9EA3693) r < 2 ^ 64 from h _ (by decide)
  induction bs with
  | nil => exact fun r h => h
  | cons b bs ih => exact fun r _ => ih _ (by simp only [crcByte, List.foldl_cons, List.foldl_nil]; exact crcBit_lt _ _)

theorem flBytes_mk (h : W64) (c : W64) : flBytes { hdr := h, slots := [], crc := c } = flBytes { hdr := h, slots := [], crc := 0 } :=
  rfl

theorem emptyFlit_good (h : W64) : crc64 (flBytes (emptyFlit h)) = (emptyFlit h).crc.toNat := by
  unfold emptyFlit
  rw [flBytes_mk h (w64 _)]
  show _ = (w64 _).toNat
  rw [w64, BitVec.toNat_ofNat, Nat.mod_eq_of_lt (crc64_lt _)]

theorem witness_Flits : crc64 (flBytes flit1) = flit1.crc.toNat ∧ flType flit1 = 1 ∧ flSeq flit1 = (0 + 1) % 65536 ∧
    ({} : Port).flBad flit1 = false ∧ ({} : Port).flBad { flit1 with hdr := 0x00010000F0000000#64 } = true ∧
    (({ replay := [{ seq := 5, flit := flit1 }] } : Port).acked 0).replay ≠ [] := by
  exact ⟨emptyFlit_good _, by decide, by decide, by decide, by decide, by decide⟩

/-- A read request for 64 bytes at address 0 from device (0, 2) to device (0, 1). -/
def rdHeader : List W32 := txHeader 0 0 false 0 false 7 0 2 0 1 0x3F 0 64 0 []
def rsp : List W32 := txHeader 8 0 false 0 false 7 0 1 0 2 0x3F 0 64 0 []
def aRead : FReq := { who := .none, kind := 0, group := 0, dev := 2, addr := 0, len := 64 }

theorem witness_Transactions :
    (let s := { linked { st := .up } with fwait := [aRead] };
      let c := { s with fwait := s.fwait.eraseIdx 0 }.routes 0 0 false 0 2 0x3F;
      s.fwait[0]? = some aRead ∧ s.shortest (c.1.filter fun x => !(s.port x).full) = some 2 ∧
      s.routeDown aRead.who.die (portDie 2) = false ∧ c.1 ≠ [] ∧ 0 ≠ s.myDev) ∧
    ((linked {}).routes 0 0 false 0 2 0x3F).1 = [] ∧
    (let s := linked { st := .up, outs := [{ tag := 7, req := aRead, since := 0 }], rxq := [(8, [{ words := rsp, hdr := true }])] };
      (s.port 2).rx 1 0 = { words := rsp, hdr := true } :: [] ∧ thSrcGroup rsp = s.myGroup ∧ thSrcDev rsp = s.myDev ∧
      (s.port 2).outs = [{ tag := 7, req := aRead, since := 0 }] ∧ 7 = thTag rsp ∧ aRead.addr = thAddr rsp ∧ aRead.len = thLen rsp ∧
      aRead.group = thDstGroup rsp ∧ aRead.dev = thDstDev rsp) := by decide

/-- A port with 2,048 transactions under way takes no more. -/
theorem witness_Transactions_full :
    ({ outs := List.replicate 2048 { tag := 0, req := aRead, since := 0 } } : Port).full = true := by
  unfold Port.full
  rw [List.length_replicate]
  rfl

theorem witness_Firewall :
    (let s := linked { st := .up, rxq := [(0, [{ words := rdHeader, hdr := true }])] };
      (s.port 2).rx 0 0 = { words := rdHeader, hdr := true } :: [] ∧ s.firewall 2 rdHeader = false ∧
      (s.countHeader 2).2 = false ∧ reqMalformed rdHeader = false ∧ thDstGroup rdHeader = s.myGroup ∧ thDstDev rdHeader = s.myDev ∧
      thDstPort rdHeader = 0x3F ∧ reqData rdHeader = 0 ∧
      (s.setReg (.prt2 2) 0x144 0xC0000000#32).firewall 2 rdHeader = true ∧
      (match ({ s with mem := { pmap0 := [(0, 0xF810000000000000#64 + 2 ^ 40)] } } : State).mayServe 2 .rd 0 with
        | .ok _ => true | _ => false) = true) ∧
    thKind (txHeader 5 0 false 0 false 0 0 2 0 0 0 0 1 0x01000000#32 []) = 5 := by decide


/-! ### Collectives -/

/-- A collective descriptor of kind `k` and data type `dt`, one participant, table, source and destination at address 0. -/
def collWords (k dt : Nat) : List W32 := [w32 (k * 2 ^ 28 + dt * 2 ^ 22 + 0x51), w32 (321 * 2 ^ 20), 1]
def collDesc (k dt : Nat) : Desc := { words := collWords k dt, ctx := 5, src := .device }
/-- Core 69 runs the collective program, and a table with one entry for this engine lies at address 0. -/
def conflu (k : Cfl) (q : List Desc) : State :=
  { (mapped.setCore 69 { st := .running, inq := q }).setCfl 0 k with
    mgmt := { collProg := [0] }
    mem := { mapped.mem with hbm := listed 112 [(3, 0x80)] } }
def onePart : Part := { group := 0, dev := 0, engine := 0, rank := 0, rxPage := 0, segOff := 0, segLen := 0 }
def aColl (k dt : Nat) : Coll := { desc := collDesc k dt, parts := [onePart], since := 0 }

theorem witness_CollectivesBegin :
    ∀ x ∈ [(1, 2), (2, 2), (3, 0), (4, 0), (5, 0), (6, 0), (8, 0), (9, 0), (10, 2), (11, 0)],
      (conflu {} []).cdVerdict 0 5 (collWords x.1 x.2) = .ok ∧ (conflu {} []).cflNative 0 = true ∧ cdConv (collWords x.1 x.2) = false ∧
      cdKind (collWords x.1 x.2) = x.1 ∧ ((conflu {} []).cfl 0).cur = none ∧ (conflu {} []).tread 0 = none ∧
      (x.1 = 6 ∨ tablePieces (collWords x.1 x.2) = [(0, 16, 0)]) ∧ (conflu {} []).rangePoison 0 16 = false ∧
      (match (conflu {} []).site 4 0 5 .rd 0 with | .ok (.here 0) => true | _ => false) = true ∧
      (match (conflu {} []).partsOf 0 (collWords x.1 x.2) (leWords ((conflu {} []).hbmRead 0 16) 4) with
        | .ok ps => ps == [onePart] | _ => false) = true ∧
      (conflu {} []).unitReason 0 (collDesc x.1 x.2) [onePart] = 0 := by decide

/-- RING of two participants in one round. -/
def ringWords : List W32 := (collWords 7 0).set 2 2 ++ List.replicate 10 0 ++ [1]

theorem witness_CollectivesBegin_more :
    (conflu {} []).cdVerdict 0 5 (collWords 1 0) = .refuse 5 false ∧
    (conflu {} []).cdVerdict 0 5 (ringWords.set 1 0x14000000#32) = .refuse 1 false ∧
    ((conflu {} []).setReg .tly 0x214 5).tallyPermitted 321 5 = true := by decide

/-- RING passes the checks once its `RTALLY`, tally 0, is permitted to context 5; one of a single participant is refused. -/
theorem witness_CollectivesBegin_ring : ((conflu {} []).setReg .tly 0x200 5).cdVerdict 0 5 ringWords = .ok ∧
    ((conflu {} []).setReg .tly 0x200 5).cdVerdict 0 5 (collWords 7 0) = .refuse 3 false := by decide

/-- The table has a second entry, for rank 1 of the same engine. -/
def twoEntries : State := { conflu {} [] with mem := { mapped.mem with hbm := listed 112 [(3, 0x80), (16, 1), (19, 0x80)] } }

theorem witness_CollectivesBegin_two : tablePieces ringWords = [(0, 32, 0)] ∧
    (match twoEntries.partsOf 0 ringWords (leWords (twoEntries.hbmRead 0 32) 8) with
      | .ok ps => ps == [onePart, { onePart with rank := 1 }] | _ => false) = true ∧
    (conflu {} []).clashed (aColl 11 0) 0x80 [(1, false)] = (false, [(1, false)]) ∧
    ((conflu {} []).clashed { aColl 6 0 with oldBuf := (0x80, 1) } 0x80 [(1, false)]).1 = true := by decide

/-- A pull of 64 bytes from address 0x40 of this device, or into slot 1, or a FINISH, or a NOTIFY. -/
def xfer (k : Nat) (peer : Nat := 0) : Xfer :=
  { desc := collDesc 11 0, stock := k != 5, kind := k, key := 1, peer := peer, remote := 0x40, loc := 0x80, len := 0x40
    note := some { coll := 0, peer := 0, done := false } }
def running (k : Cfl) (c : Coll := aColl 11 0) : State := conflu { k with cur := some c } []
def twoParts : Coll := { aColl 11 0 with parts := [onePart, { onePart with dev := 1, rank := 1 }] }

theorem witness_Transfers :
    ((running { msgs := [{ coll := 0, peer := 0, done := true }] }).cfl 0).msgs.find? (fun m => m.coll == 0 && m.done == true) =
      some { coll := 0, peer := 0, done := true } ∧
    (((running { xq := [xfer 3 1] } twoParts).judgeXfers 0).cfl 0).nextXfer 3 = some (xfer 3 1) ∧
    (running {} twoParts).isHere (twoParts.part 1) = false ∧ pieces 0x40 0x40 = [(0x40, 0x40, 0)] ∧
    ((((running { xq := [xfer 1] }).judgeXfers 0).a2aPlace 0 {}).1.cfl 0).nextXfer 1 = some (xfer 1) ∧ (running {}).cflAstray 0 = false ∧
    (running {}).isHere ((aColl 11 0).part 0) = true ∧
    (match (running {}).localKey 4 0 5 .rd 0x40 with | .ok 0x40 => true | _ => false) = true ∧
    (match (running {}).localPieces 4 0 5 .wr 0x80 0x40 with | .ok [(0x80, 0x40, 0)] => true | _ => false) = true := by decide

theorem witness_Transfers_put :
    let x := { xfer 5 with note := some { coll := 0, peer := 0, done := false }, desc := { collDesc 11 0 with words := [0x50000052#32] } }
    (((running { xq := [x] } { aColl 11 0 with stock := false }).judgeXfers 0).cfl 0).nextXfer 5 = some x ∧
    (match (running {}).site 4 0 5 .wr 0x40 with | .ok (.here 0x40) => true | _ => false) = true := by decide

/-- One contribution of one element, the number 1. -/
def heldOne : Held := { peer := 0, off := 0, data := [(1, false), (0, false), (0, false), (0, false)] }

theorem witness_Finish :
    let x := { xfer 4 with desc := collDesc 1 2 }
    let u := running { xq := [x], slots := [(1, [heldOne])] } (aColl 1 2)
    ((u.judgeXfers 0).cfl 0).nextXfer 4 = some x ∧ cdDtype (collWords 1 2) = 2 ∧
    Table.get (fun _ => []) ((u.judgeXfers 0).cfl 0).slots 1 = [heldOne] ∧ contributions [heldOne] 1 = [heldOne.data] ∧
    rankFold (cdTree (collWords 1 2)) (combineElems (ropApply fmax32 fmin32 0 32) 4) [heldOne.data] = some heldOne.data := by
  refine ⟨by decide, by decide, by decide, ?_, by decide⟩
  simp [contributions, List.range_succ, heldOne]

theorem witness_ArrivalOrder : ([{ peer := 0, off := 0, data := [] }, { peer := 1, off := 0, data := [] }] : List Held).Perm
    [{ peer := 1, off := 0, data := [] }, { peer := 0, off := 0, data := [] }] := by decide

theorem witness_CollectivesEnd :
    ({ cur := some (aColl 11 0) } : Cfl).collDone (aColl 11 0) = true ∧
    (let c := { aColl 7 0 with desc := { collDesc 7 0 with words := [0x70000051#32, 0, 1, 0, 0, 0, 0, 0, 0, 0, 0, 0, 0, 3, 0, 0] } };
      cdKind c.desc.words = 7 ∧ c.round + 1 ≤ cdRoot c.desc.words ∧
      ({ c with got := [{ coll := 0, peer := 0, done := false, count := 1 }] } : Coll).gateOpen 0 (.ready 0 1) = true) ∧
    tallyReached (booted.tally 0) (w32 (2 - 1)) = false := by decide


/-! ### The transactional step -/

/-- A step machinery descriptor of action `a` on slot 0, with the argument words from word 2 on. -/
def stepDesc (a flag : Nat) (args : List W32 := []) : Desc :=
  { words := [w32 (a * 2 ^ 28 + flag * 2 ^ 27 + 0x71), w32 (321 * 2 ^ 20)] ++ args, ctx := 5, src := .device }
def stepping (k : StepSlot) (d : Desc) (s : State := mapped) : State := { s with stepm := { s0 := k, q := [d] } }

theorem witness_StepsOpenAndRun :
    (∀ x ∈ [(1, 0), (1, 1), (2, 0), (3, 0), (4, 0), (5, 0), (6, 0), (7, 0), (8, 0), (8, 1), (9, 0), (10, 0)],
      (stepping {} (stepDesc x.1 x.2)).sdReason (stepDesc x.1 x.2) = 0 ∧ sdAction (stepDesc x.1 x.2).words = x.1) ∧
    (stepping {} (stepDesc 11 0)).sdReason (stepDesc 11 0) = 2 ∧ (stepping {} (stepDesc 1 0) windowed).winFrames ≠ 0 ∧
    (mbOffsets ((List.range 8).map fun i => windowed.reg .cwn (0x500 + 16 * i)) windowed.tokBytes).2 ≤ windowed.journalSize ∧
    (stepping { st := .opening } (stepDesc 2 0)).openSlot = some 0 ∧ (stepping {} (stepDesc 2 0)).asking 0 (fun _ => true) = false ∧
    mbValid [0x80000010#32] (wfld (stepDesc 2 0).words 2 2 0) = true ∧
    (stepping {} (stepDesc 3 0)).field .chkG 0x108 31 16 = 0 := by decide

/-- The first-round record of rank 0 in step 0, sound or not. -/
def voteRec (sound : Bool) : List W32 := [if sound then 0x80000000#32 else 1#32]
def aVote : Vote := { engine := 0, table := 0, parts := [{ onePart with segLen := 64 }], me := 0, coll := 0, vbuf := 0, voteTo := 1, sealedTo := 1 }
/-- A step in its first round, whose buffer at address 0 holds a record. -/
def voting (k : StepSlot) (b : List (Nat × Byte)) : State :=
  { stepping { k with ctx := 5, vote := some aVote } (stepDesc 5 0 [0, 0, 1]) with mem := { mapped.mem with hbm := listed 64 b } }

/-- The participant table of a VOTE, read: one entry, this engine's. -/
def voteRead : TableRead :=
  { id := 0, engine := 0, use := .vote
    coll := { desc := { stepDesc 4 0 with words := voteTable (stepDesc 4 0 [0, 0, 0, 1]).words }, parts := [], since := 0 }
    got := [(0, (listed 16 [(3, 0x80), (12, 64)]).map fun x => (x.2, false))] }

set_option maxRecDepth 20000 in
theorem witness_WatershedDecides_table : voteRead.wait = [] ∧
    ((stepping { st := .check } (stepDesc 4 0 [0, 0, 0, 1])).voteOf (stepDesc 4 0 [0, 0, 0, 1]) voteRead).isSome = true := by
  refine ⟨by decide, ?_⟩
  have h : voteRead.words = some [0x80000000#32, 0#32, 0#32, 64#32] := by
    unfold TableRead.words
    rw [show voteRead.got = [(0, (listed 16 [(3, 0x80), (12, 64)]).map fun x => (x.2, false))] from rfl, List.mergeSort_singleton]
    decide
  unfold State.voteOf
  rw [h]
  decide

set_option maxRecDepth 20000 in
theorem witness_WatershedDecides :
    voteFieldsOk (stepDesc 4 0 [0, 0, 0, 1]).words = true ∧
    ((voting { st := .vote, round := 1, gathered := some true } [(3, 0x80)]).voteSlot).isSome = true ∧
    (match (voting { st := .vote, round := 1 } [(3, 0x80)]).roundRecs { ctx := 5, round := 1 } aVote with
      | some [r] => wfld r 0 31 31 == 1 && (voting {} []).recOurs {} r | _ => false) = true ∧
    (match (voting { st := .vote, round := 1 } []).roundRecs { ctx := 5, round := 1 } aVote with
      | some [r] => wfld r 0 31 31 == 0 | _ => false) = true ∧
    ((voting {} []).stepWords 5 0 4).isSome = true ∧ (sealExtents [0, 0, 0, 0] 1).2 ≤ (booted.setReg .oxb 0x134 0x1000).sealSize ∧
    (voting { st := .seal, round := 1 } []).sealSlot = some 0 ∧
    ((voting {} []).setReg .oxb 0x104 0x80000000#32).partner 0 = some (0, 0) ∧
    ((voting { st := .seal, round := 2, gathered := some true } [(3, 0x80)]).round2Slot).isSome = true ∧
    (voting {} [(3, 0x80)]).sealedLack { ctx := 5, round := 1 } aVote [] = [] ∧
    (voting {} []).sealedLack { ctx := 5, round := 1 } aVote [] = [0] ∧ bitOf 0x40000000#32 30 = true := by decide

theorem witness_StepsCommitOrEnd :
    ({ st := .check } : StepSlot).abortable = true ∧ (booted.setReg .oxb 0x144 0x80000000#32).flag .oxb 0x144 31 = true ∧
    booted.mirrorWait = false ∧ booted.stepOpen = false ∧ (stepping { st := .check } (stepDesc 6 0)).stepOpen = true ∧
    sdFlag (stepDesc 8 1).words = true := by decide

theorem witness_CommittedSteps :
    let s := stepping { st := .commit, pastCommit := true } (stepDesc 7 0)
    ∀ j < 2, (s.slot j).pastCommit = true → (s.slot j).st = .seal ∨ (s.slot j).st = .commit ∨ (s.slot j).st = .mirror := by decide

/-- Page 0 waits, for step 7; mirroring is on, and the partner is device (0, 0). -/
def mirroring (o : Oxb) : State :=
  { (booted.setReg .oxb 0x100 0x80000001#32).setReg .oxb 0x104 0x80000000#32 with oxb := o }

theorem witness_OxbowMirrors : (mirroring {}).mirrorOn = true ∧ (mirroring {}).ways = 1 ∧ (mirroring {}).partner 0 = some (0, 0) ∧
    (mirroring { frames := [5], pend := [{ m := 0, step := 7, cells := [], draws := [], bad := [] }] }).oxb.pend ≠ [] ∧
    bitOf 0x80000000#32 31 = true ∧ booted.pageSealed .oxb = false ∧ fld 0x80200000#32 29 21 ≠ booted.myGroup := by decide

set_option maxRecDepth 20000 in
/-- One extent of one page at board address 0 makes mirror page 0, in frame 0. -/
theorem witness_MirrorInit :
    let s := (windowed.setReg .oxb 0x100 0x80000001#32)
    let t := { s with mem := { mapped.mem with hbm := (listed 32 [(8, 1)]).map fun (x : Nat × Byte) => (s.windowKey (metaOff + x.1), x.2) } }
    t.stepOpen = false ∧ t.mirrorOn = true ∧ t.mirrorFrames = some [0] := by decide


/-! ### The escalation ladder -/

/-- Context 5 has a descriptor in the issue queue of Ridge 0, and a Brook op that runs there. -/
def aFetch : Desc := { words := [0x41#32], ctx := 5, src := .device }
def laden : State := (booted.setRidge 0 { fetchIn := [aFetch], brookOps := [{ id := 3, desc := { aFetch with words := [0x21#32] } }] }).setReg
  (.rdg 0) 0x008 0x01000000#32

theorem witness_ContextsAbort : laden.ready = true ∧ laden.abortBusy = false ∧ laden.stepCtx 5 = false ∧
    fld 0x00050000#32 21 16 = 5 ∧ laden.field (.rdg 0) 0x008 27 16 * 65536 ≠ 0 ∧ (laden.opAt 0 .brook 0).isSome = true ∧
    (booted.setRidge 0 {}).field (.rdg 1) 0x008 27 16 ≠ 0 ∧
    ({ laden with lad := { aborting := [(0, 3)] } } : State).abortBusy = true ∧
    ((laden.setWin 5 { st := .run }).win 5).st ≠ .disabled ∧ (booted.setReg (.rdg 0) 0x008 0).field (.rdg 0) 0x008 27 16 = 0 ∧
    ((laden.setCore 5 { st := .running, ctx := 5 }).core 5).busy = true ∧ laden.firmCore 5 = false ∧
    ({ st := .compute, ctx := 5 } : StepSlot).abortable = true := by decide

theorem witness_EnginesQuiesce : laden.ready = true ∧ (laden.ridge 0).quiescing = false ∧ bitOf 0x80000000#32 29 = false ∧
    laden.flag .dev 0x008 31 = false ∧ fld 0x80000000#32 17 16 < laden.partCount ∧ laden.partCount ≤ fld 0x80010000#32 17 16 ∧
    laden.partOfCtx 5 = 0 ∧ laden.partOfDie 0 = 0 ∧ laden.stepOwner = 0 ∧ laden.field (.dma 0) 0x100 17 16 = 0 ∧
    ((laden.setRidge 0 { quiescing := true }).ridge 0).quiescing = true ∧ laden.field .dev 0x00C 31 29 ≠ 4 ∧
    laden.flag .dev 0x008 30 = false := by decide

theorem witness_ResetsStartAgain : booted.plat.held = false ∧ bitOf 0#32 31 = false ∧ booted.host.linkUp = false ∧
    ({ booted with host := { linkUp := true } } : State).host.linkUp = true := by decide


/-! ### The mailbox and its services -/

/-- A request of service `sv` at board address 0, whose block holds the bytes `b`. -/
def handed (sv : Nat) (b : List (Nat × Byte)) : State :=
  { mapped with mgmt := { mbox := [(sv, 0)] }, mem := { mapped.mem with hbm := listed 128 b } }

/-- What the mailbox reads is there, and is not poisoned. -/
def inClear (i : SvcIn) : Bool := match i with
  | .got bs => !(bs.any Prod.snd)
  | _ => false
def isHere (e : Except Nat Site) : Bool := match e with
  | .ok (.here _) => true
  | _ => false
def headOk (s : State) : Bool := match s.svcHead with
  | some (_, a, i) => inClear i && isHere (s.svcSite 5 .rd a) && isHere (s.svcSite 5 .wr a) && s.mgmt.svc.fin.isNone
  | none => false
def headWords (s : State) (n : Nat) : List W32 := match s.svcHead with
  | some (_, _, .got bs) => leWords (bs.map Prod.fst) n
  | _ => []

theorem witness_RequestsEnterAndEnd : booted.plat.held = false ∧ booted.asleep = false ∧ bitOf 0x80000001#32 31 = true ∧
    fld 0x80000001#32 1 0 ≠ 3 ∧ booted.bootFail = false ∧ booted.bootDone = true ∧ booted.mgmt.mbox.length < 16 ∧
    fld 0x80000003#32 1 0 = 3 ∧ 16 ≤ ({ booted with mgmt := { mbox := List.replicate 16 (1, 0) } } : State).mgmt.mbox.length ∧
    (handed 1 []).svcMayWrite 5 0 4 = none ∧ ((handed 1 []).svcWrite 5 0 [(7, false)]).mgmt.svc.wr = 0 ∧
    isHere ((handed 1 []).svcSite 5 .wr (0 + 4 * svcStatus 1)) = true := by decide

set_option maxRecDepth 20000 in
theorem witness_CheckpointsAreServed :
    (∀ x ∈ [(0x10, 1, 0), (0x20, 2, 0), (0x30, 3, 0), (0x40, 4, 0), (0x44, 4, 1), (0x48, 4, 2), (0x50, 5, 0), (0, 0, 0)],
      let s := handed 0 [(0, 5), (3, BitVec.ofNat 8 x.1)]
      headOk s = true ∧ sbFn (headWords s 32) = x.2.1 ∧ ckMode (headWords s 32) = x.2.2 ∧ sbCtx (headWords s 32) = 5 ∧
      ckBad (headWords s 32) = decide (x.1 = 0) ∧ ckLen (headWords s 32) = 0 ∧ inClear (s.svcRead 5 0 0) = true ∧
      s.stepOpen = false) ∧
    ({ windowed with stepm := { s0 := { st := .commit } } } : State).stepm.s0.st = .commit ∧
    ({ windowed with stepm := { s0 := { st := .commit } } } : State).stepOpen = true ∧ windowed.windowOk = true := by decide

theorem witness_CheckpointTables : windowed.stepm.s0.st ≠ .commit ∧ windowed.stepm.s1.st ≠ .commit ∧ windowed.windowOk = true ∧
    ∀ i < 10551296, windowed.winPoison (0x400000 + i) = false := by
  refine ⟨by decide, by decide, by decide, ?_⟩
  intro i _
  have h : windowed.mem.poison = [] := rfl
  simp [State.winPoison, State.granPoison, NatSet.has, h]

set_option maxRecDepth 200000 in
theorem witness_VerifySignature : inClear ((handed 0 []).svcRead 5 0 17120) = true := by decide +kernel

set_option maxRecDepth 20000 in
theorem witness_FlashAndReports :
    (∀ n ∈ [1, 2, 3, 4, 5], let s := handed 1 [(0, 5), (3, BitVec.ofNat 8 (16 * n))]
      headOk s = true ∧ sbFn (headWords s 16) = n ∧ flBad (headWords s 16) = false) ∧
    (let s := handed 2 [(0, 5), (3, 0x10)]; headOk s = true ∧ atBad (headWords s 16) = false) ∧
    mapped.flashLock = false ∧ mapped.board.dead = false ∧ mapped.flashOpen 0x3300000 4096 = true ∧ mapped.runSlot = some 0 ∧
    mapped.flashPast [] = false ∧ (mapped.setReg .boot 0x104 1).flashLock = true ∧ mapped.flashOpen 0x3300000 0 = true ∧
    mapped.slotReason 0 ≠ 0 ∧ (mapped.flashRead 0x3300000 16).all (fun b => b == 0xFF) = true := by decide


/-! ### Cairn, the log, digests -/

def aCheck : Check :=
  { ridge := 0, op := 0, arr := 0, pair := false, ctx := 5, jslot := some 0, step := 0, chk := 17, arb := some 34, srcCond := ⟨0, 0, 0, 0⟩, chkCond := ⟨0, 0, 0, 0⟩, since := 0 }
def judging (c : Check) : State := { booted with checks := [c] }

theorem witness_CairnJudges :
    (∀ ph ∈ [CheckPh.waitPair, .waitArb, .recompute, .arbitrate], (judging { aCheck with ph := ph, checker := some (17, 0) }).checks[(0#8).toNat]? =
      some { aCheck with ph := ph, checker := some (17, 0) }) ∧
    (judging aCheck).cairnServes 17 = false ∧ (judging aCheck).cairnPair 17 = some 0 ∧
    (judging { aCheck with ph := .waitArb }).cairnServes 34 = false ∧ (judging { aCheck with ph := .waitArb }).cairnPair 34 = some 0 ∧
    (judging { aCheck with ph := .recompute }).cairnSourceDone { aCheck with ph := .recompute } = true := by decide

/-- A part whose flash does not answer, and what a CLEAR of array 0 leaves of its log. -/
def deadFlash : State := { booted with board := { dead := true } }
def deadCleared : State :=
  (deadFlash.setReg .uhl 0x150 (w32 0)).uhlWrite { type := 6, unit := w32 0, step := deadFlash.reg .step 0x10C, info1 := 0 }

set_option maxRecDepth 100000 in
theorem deadFlash_log_empty : deadFlash.uhlSeen = [] := by decide +kernel

theorem witness_LogKeepsRecords : booted.ready = true ∧ booted.board.dead = false ∧ booted.pageSealed .uhl = false ∧
    booted.pageSealed .chkG = false ∧ bitOf 0x80000000#32 31 = true ∧ fld 0x80000000#32 11 0 = 0 ∧
    { booted with io := { booted.io with isSealed := [Page.base .uhl] } }.pageSealed .uhl = true ∧
    deadFlash.board.dead = true ∧ deadFlash.ready = true ∧ deadFlash.pageSealed .uhl = false := by decide

theorem witness_LogClear : uhlCounted deadCleared.uhlLog 0 = [] := by
  have h : deadCleared.uhlSeen = [] := by
    have e : deadCleared.board = deadFlash.board := by decide
    have : deadCleared.uhlSeen = ({ deadFlash with board := deadCleared.board } : State).uhlSeen := rfl
    rw [this, e]
    exact deadFlash_log_empty
  have g : deadCleared.uhlLog = [] := by simp [State.uhlLog, State.uhlValid, h]
  rw [g]
  rfl

set_option maxRecDepth 20000 in
theorem witness_Digests : booted.ready = true ∧ bitOf 1#32 0 = true ∧ booted.dig = none ∧
    (mapped.ownKey (((mapped.reg64 .chkG 0x114).toNat % 2 ^ 43 + 32) % 2 ^ 43)).isSome = true ∧
    ({ mapped with dig := some { step := 0, digests := [List.replicate 32 7], poison := false } } : State).dig.isSome = true ∧
    ({ mapped with mem := { mapped.mem with hbm := listed 128 [(8, 1), (12, 1)] } } : State).digRuns 64 0 = [(0, 1)] := by decide


/-! ### Clocks, power and temperature -/

/-- A part whose clocks are all STABLE. -/
def clocked : State := { booted with plat := { booted.plat with core := { st := .stable }, pcie := { st := .stable }, watch := { st := .stable } } }

theorem witness_ClocksAreJudged : clocked.railsGood = true ∧ clocked.plat.held = false ∧ clocked.plat.watch.st = .stable ∧
    (191#16).toNat < 192 ∧ 320 < (321#16).toNat ∧ clocked.plat.core.st ≠ .lost ∧ clocked.plat.pcie.st ≠ .lost ∧
    booted.plat.watch.st ≠ .stable ∧ ((clocked.reserve [0] true).input .core).st = .stable ∧ 0 ∈ inputIslands .core ∧
    (clocked.reserve [0] true).islReserve 0 = true ∧ (clocked.reserve [0] true).flag .clk 0x100 0 = true ∧
    ((clocked.reserve [0] true).setReg .clk 0x100 0).flag .clk 0x100 0 = false ∧ booted.vectorMasked 0 = true ∧
    (booted.msixWrite 0xA00C 0).vectorMasked 0 = false := by decide

/-- The worked examples of R476, R488: 600 MHz is code 128, 1.2 GHz asks for 750 mV. -/
theorem test_codes : codeMv 64 = 750 ∧ codeMv 128 = 550 ∧ codeMv 96 = 620 ∧ islPll 20 * 16 / 128 = 600 := by decide

theorem witness_ClocksFollow : booted.plat.held = false ∧ islPll 20 ≠ 0 ∧ booted.islReserve 20 = false ∧ booted.islCur 20 = 64 ∧
    (booted.setField .clk (islReg 20) 9 0 128).islCode 20 = 128 ∧ (booted.setField .clk (islReg 20) 25 16 128).islCur 20 = 128 ∧
    (booted.setField .clk (islReg 20) 25 16 128).islCode 20 = 64 ∧
    ({ booted with plat := { booted.plat with vAck := [(1, 550)] } } : State).volts 1 < codeMv 127 ∧
    ({ booted with plat := { booted.plat with vWait := [1] } } : State).plat.vWait.has 1 = true ∧
    booted.asleep = false ∧ booted.flag .clk 0x118 29 = false ∧ booted.field .clk 0x11C 15 8 < 129 ∧ booted.field .clk 0x11C 7 0 < 129 ∧
    129 ≤ (booted.setReg .clk 0x11C 0xFF7D).field .clk 0x11C 15 8 ∧
    (booted.setReg .clk 0x118 0x20000000).flag .clk 0x118 29 = true ∧ booted.flag .pwr 0x008 16 = true ∧ booted.dieQuiet 0 = true := by
  decide

theorem witness_Floors : booted.plat.held = false ∧ (([some 125#8] : List (Option Byte)).take 64 ++ ([] : List (Option Byte)).take 4).filterMap id = [125#8] ∧
    125 ≤ (125#8).toNat ∧ (90#8).toNat < 125 := by decide

set_option maxRecDepth 20000 in
/-- A die at its limit is throttled by 4 codes; a bin is left only below its bound less the hysteresis. -/
theorem test_thermal : (match exec (.thermalTick (List.replicate 64 (some 0x5F#8)) (List.replicate 4 (some 40#8)) []) booted with
    | .next t => t.thermalFloor 0 == 68 && t.field .thm 0x104 7 0 == 0x5F && t.field .thm 0x108 2 0 == 6 | _ => false) = true ∧
    nextBin 2 39 1 = 1 ∧ nextBin 2 38 1 = 0 ∧ nextBin 2 40 0 = 1 := by decide


/-! ### Boot, the host, the sideband -/

/-- The part before the release of chip reset, its clocks judged; and after it, its flash reachable. -/
def unreleased : State := { clocked with plat := { clocked.plat with held := true } }
def flashReady : State := { plat := { held := false }, boot := { flashUp := true } }
/-- A linked part whose BAR2 shows page 0 through context 5. -/
def hosted : State := { mapped with
  host := { linkUp := true }, io := { mapped.io with regs := Table.set (fun _ => 0) mapped.io.regs (Page.base .pci + 0x10C) 0x80000005#32 } }

/-- The worked example of R536: device (41, 9). -/
theorem test_straps : (match exec (.resetRelease 0x299) unreleased with
    | .next t => t.reg .stp 0x100 == 0x299#32 && t.reg .stp 0x104 == 0x80000299#32 && t.reg .smb 0x100 == 0x61#32
    | _ => false) = true := by decide

theorem witness_ResetIsReleased : unreleased.plat.held = true ∧ unreleased.railsGood = true ∧ unreleased.plat.trip = false ∧
    unreleased.plat.core.st = .stable ∧ unreleased.plat.pcie.st = .stable ∧ unreleased.plat.watch.st = .stable ∧
    popCount 14 0x299 % 2 = 1 ∧ popCount 14 0 % 2 = 0 ∧ State.reset.plat.held = true ∧ State.reset.railsGood = true ∧
    State.reset.plat.trip = false ∧ State.reset.plat.core.st ≠ .stable ∧ booted.plat.held = false ∧
    booted.field .stp 0x100 13 0 ≠ (0x299#14).toNat ∧ booted.field .stp 0x100 13 0 = (0#14).toNat := by decide

theorem witness_TheDeviceBoots : flashReady.plat.held = false ∧ flashReady.boot.flashUp = true ∧ flashReady.boot.tried = false ∧
    flashReady.reg .boot 0x100 = 0x00080800#32 ∧
    (let s : State := { flashReady with boot := { flashUp := true, tried := true }, mem := { pmapReady := true } };
      s.boot.tried = true ∧ s.bootFail = false ∧ s.bootDone = false ∧ s.mem.pmapReady = true ∧ flashReady.mem.pmapReady = false) ∧
    (let s : State := ({ flashReady with boot := { flashUp := true, tried := true } } : State).setReg .boot 0x100 0x00080805#32;
      s.bootFail = false ∧ s.boot.tried = true ∧ s.flag .boot 0x100 28 = false ∧ s.board.fuses < s.field .boot 0x100 7 0 ∧
      s.asleep = false) := by decide

theorem witness_HostAccesses : hosted.host.linkUp = true ∧ hosted.plat.held = false ∧ hosted.host.d3 = false ∧ hosted.ready = true ∧
    hosted.b2En = true ∧ hosted.b2Addr 0 = 0 ∧ isHere (hosted.site 4 0 hosted.b2Ctx .rd 0) = true ∧
    isHere (hosted.site 4 0 hosted.b2Ctx .wr 0) = true ∧ isHere (hosted.site 4 0 hosted.b2Ctx .rd 0x1000000) = false ∧
    (match hosted.site 4 0 hosted.b2Ctx .wr 0x1000000 with | .error r => decide (r ≠ 0) | _ => false) = true ∧
    0x1000000 + 64 ≤ hosted.apertureSize ∧ (hosted.setReg .pci 0x10C 5).b2En = false ∧ hosted.io.msixMask = false ∧
    (flashReady.bootDone = false ∧ flashReady.bootFail = false) ∧ bitOf ((hosted.setReg .pci 0x200 0x80000005).reg .pci 0x200) 31 = true ∧
    (hosted.tally 5 - hosted.reg .pci 0x300).toNat < 2 ^ 31 ∧ hosted.reg .pci 0x200 = 0#32 ∧ booted.host.linkUp = false ∧
    clocked.plat.pcie.st = .stable ∧ booted.plat.pcie.st ≠ .stable ∧ hosted.flag .pci 0x114 31 = false := by decide

/-- A host write and read of HBM through BAR2. -/
theorem test_bar2 : (match exec (.bar2Write 8 [1, 2] [true, true] {}) hosted with
    | .next t => (match exec (.bar2Read 8 2 {}) t with
      | .next u => u.out.head? == some (.hostRead [1, 2] false)
      | _ => false)
    | _ => false) = true := by decide

theorem witness_Sideband : booted.plat.held = false ∧ booted.flag .smb 0x104 0 = true ∧
    (booted.setReg .smb 0x104 0).flag .smb 0x104 0 = false ∧ 6 < (7#8).toNat ∧ (7#8).toNat ≠ 0x10 ∧ State.reset.plat.held = true ∧
    booted.railsGood = true ∧ booted.plat.perst = false ∧ ({ booted with plat := { perst := true } } : State).plat.perst = true ∧
    booted.powerFloor = 64 ∧ ∀ k < 4, booted.thermalFloor k = 64 := by decide


/-! ### What completes -/

/-- The command completes, with the effect told. -/
def ends (c : Instr) (s : State) (p : State → Bool) : Bool := match exec c s with
  | .next t => p t
  | _ => false

/-- Port 2 of device (0, 1), as told. -/
def porting (c : Instr) (k : Port) (p : State → Port → Bool) : Bool := ends c (linked k) fun t => p t (t.port 2)

theorem witness_LinksAndStacksComplete :
    ({ booted with mem := { d2dUp := [4] } } : State).mem.d2dUp.has (4 : Fin 13).val = true ∧ (16 : Fin 18).val ≤ 16 ∧
    booted.mem.d2dDown.has (4 : Fin 13).val = false ∧ booted.mem.ready.has 3 = false ∧ booted.mem.failed.has 3 = false ∧
    booted.mem.filling.has 3 = false ∧ ({ booted with mem := { filling := [3] } } : State).mem.filling.has 3 = true ∧
    (let s := ({ booted with mem := { ready := [3] } } : State).setReg (.hbm 3) 0x100 1;
      s.flag (.hbm 3) 0x100 0 = true ∧ s.mem.ready.has 3 = true ∧ s.hbmSleeps = false) := by decide

def aHello : Hello := { pos := 0x20000#32, gen := 2, nonce := List.replicate 32 1 }

theorem witness_PortCommandsComplete :
    booted.field (.prt 2) 0x100 1 0 ≠ 0 ∧ (booted.port 2).st = .down ∧ fld 0x200000#32 29 21 ≠ (linked {}).myGroup ∧
    ends .discTimeout { booted with fab := { disc := true } } (fun t => t.fab.discDone) = true ∧
    ends (.discStart 1) booted (fun t => t.fab.discDone == !t.fab.disc) = true ∧
    porting (.probeSend 2) { st := .up } (fun t k => k.probes == [t.refcnt]) = true ∧
    porting (.probeReplyReceive 2 0) { st := .up, probes := [0] } (fun t _ => t.reg (.prt 2) 0x12C == 0) = true ∧
    porting (.probeMiss 2) { st := .up, probes := [0] } (fun t _ => t.reg (.prt 2) 0x13C == 1) = true ∧
    porting (.lossOfLight 2) { st := .up } (fun _ k => k.st != .up) = true ∧
    porting (.starveEpisode 2) { st := .up, txq := [{ cls := 0, vc := 0, slots := [] }], credits := [(0, 0)] }
      (fun t _ => t.reg (.prt 2) 0x138 == 1) = true ∧
    porting (.linkMapUpdate 2 0x40 0x800) { st := .up } (fun t _ => fld (Table.get (fun _ => 0) t.fab.lmap 0x40) 31 11 == 1) = true ∧
    porting (.portCtlAdmit 2 1) { st := .quarantine, attOk := true, keyDigest := List.replicate 32 0 } (fun _ k => k.st == .up) = true ∧
    porting (.portCtlFence 2 2) { st := .up } (fun _ k => k.st == .fenced) = true ∧
    porting (.portCtlUnfence 2 4) { st := .fenced } (fun _ k => k.st == .training) = true ∧
    porting (.portCtlRetrain 2 16) { st := .up } (fun _ k => k.st == .training) = true ∧
    porting (.portCfgWrite 2 1) { st := .up } (fun t _ => t.field (.prt 2) 0x100 1 0 == 1) = true ∧
    porting (.nakReceive 2 0) { st := .up, replay := [{ seq := 5, flit := { hdr := 0, slots := [], crc := 0 } }] }
      (fun _ k => k.retryW == 1) = true := by decide

/-- A plan that names the SHA-256 of 32 zero bytes, and the partner's HELLO. -/
def planned : State :=
  (List.range 8).foldl (fun s i => s.setReg (.prt2 2) (0x104 + 4 * i)
    (w32 ((((sha256 (List.replicate 32 0)).drop (4 * i)).take 4).foldl (fun a b => a * 256 + b.toNat) 0)))
    (linked { st := .attest, peer := some aHello })

theorem witness_PortCommandsComplete_admit : (planned.port 2).st = .attest ∧ (planned.port 2).peer = some aHello ∧
    (planned.port 2).verdict < 3 ∧ (List.replicate 17088 0#8).length = 17088 ∧
    (sha256 (List.replicate 32 0#8) = planned.planId 2) := by
  refine ⟨by decide +kernel, by decide +kernel, by decide +kernel, List.length_replicate, by decide +kernel⟩

set_option maxRecDepth 20000 in
theorem witness_ServicesComplete : bitOf 0x80000001#32 31 = true ∧ fld 0x80000001#32 1 0 < 3 ∧ booted.bootDone = true ∧
    booted.bootFail = false ∧ booted.plat.held = false ∧ booted.asleep = false ∧ bitOf 0#32 31 = false ∧
    ends (.mailboxGo 0x80000001) booted (fun t => t.mgmt.mbox.length == 1) = true ∧
    ends (.chkSeedWrite 7) booted (fun t => t.reg .chkG 0x104 == 7) = true ∧
    ends .digestEngineDone { booted with dig := some { step := 3, digests := [List.replicate 32 7], poison := false } }
      (fun t => t.dig.isNone && t.reg .chkG 0x128 == 3) = true ∧
    ends (.cairnPairBorrow 0) (judging aCheck) (fun t => t.checks == [{ aCheck with ph := .recompute, checker := some (17, 0) }]) = true ∧
    ends (.cairnAcqTimeout 0) (judging aCheck) (fun t => t.checks == []) = true ∧
    ends (.cairnRecomputeDone 0 .equal) (judging { aCheck with ph := .recompute }) (fun t => t.checks == []) = true := by decide

set_option maxRecDepth 20000 in
theorem witness_PlatformCommandsComplete :
    ends (.clockMonitorWindow 1 2 3) clocked (fun t => t.reg .clk 0x108 == 1 && t.reg .clk 0x110 == 3) = true ∧
    ends (.clockFastTest false 191) clocked (fun t => t.plat.core.st == .lost) = true ∧
    ends .watchOscEdgeTimeout clocked (fun t => t.plat.watch.st == .lost) = true ∧
    (let s := clocked.reserve [122] true;
      s.plat.pcie.st = .stable ∧ s.islReserve 122 = true ∧ s.flag .clk 0x100 0 = true) ∧
    ends (.dividerRampStep 20) (booted.setField .clk (islReg 20) 9 0 128) (fun t => t.islCur 20 == 65) = true ∧
    ends (.avsVoltageAck 1) { booted with plat := { booted.plat with vWait := [1] } } (fun t => !t.plat.vWait.has 1) = true ∧
    ends (.avsTimeout 1) { booted with plat := { booted.plat with vWait := [1] } } (fun t => t.flag .pwr 0x010 0) = true ∧
    ends .fmcGo booted (fun t => t.reg .clk 0x124 == 0) = true ∧
    ends (.fmcDone 9) (booted.setReg .clk 0x118 0x20000000) (fun t => t.flag .clk 0x118 28) = true ∧
    ends (.dieIdleEntry 0) booted (fun t => t.plat.idle.has 0) = true ∧
    ends (.powerTick 1 2) booted (fun t => t.field .pwr 0x104 31 16 == 2) = true ∧
    ends (.railOutOfWindow 3) booted (fun t => t.plat.railsOut.has 3) = true ∧
    ends (.railsInWindow 3) { booted with plat := { booted.plat with railsOut := [3] } } (fun t => !t.plat.railsOut.has 3) = true ∧
    ends (.flashResetRelease false) booted (fun t => t.boot.flashUp) = true ∧
    ends (.strapCompare 0x299) booted (fun t => t.flag .stp 0x010 1) = true ∧
    flashReady.boot.flashUp = true := by decide

theorem witness_HostAndSidebandComplete : hosted.hostOpen = true ∧ hosted.mem.astray = [] ∧ hosted.granPoison (0 / 64) = false ∧
    hosted.dmaDest none false 0 = false ∧ (224#8).toNat < 225 ∧
    ends (.msixUnmask 224) hosted (fun t => !t.vectorMasked 224) = true ∧
    ends (.tallyNoticeFire 0) (hosted.setReg .pci 0x200 0x80000005) (fun t => !t.flag .pci 0x200 31) = true ∧
    ends (.pcieLinkUp 0 0 true) clocked (fun t => t.host.linkUp) = true ∧
    ends (.configurationWrite (.power true)) hosted (fun t => t.host.d3) = true ∧
    ends (.smbTrayLimitWrite 5 .good) booted (fun t => t.reg .smb 0x10C == 5) = true ∧
    ends (.smbBadCommand 7) booted (fun t => t.flag .smb 0x010 0) = true ∧
    ends .jtagBypass booted (fun t => t.plat.tap == .bypass) = true ∧
    ends .jtagExtest { booted with plat := { booted.plat with perst := true } } (fun t => t.plat.tap == .extest) = true := by decide


/-! ### More premises that are met -/

/-- Page 0 of this part leads to page 0 of device (0, 2), through remote window 0. -/
def outward : State := ({ mapped with
  mem := { pmap0 := [(0, 0xF000080000000000#64)], pmap1 := [(0, 0xF000080000000000#64)] } } : State).setReg (.prt2 0) 0x420 0x80040000#32

theorem witness_Premises_sites :
    (match outward.site 4 0 5 .rd 0 with | .ok (.there 0 2 0x3F 0) => true | _ => false) = true ∧ outward.tread 8 = none ∧
    tablePieces (voteTable (stepDesc 4 0 [0, 0, 0, 1]).words) =
      [(wquad (stepDesc 4 0 [0, 0, 0, 1]).words 3 43, 16 * wfld (stepDesc 4 0 [0, 0, 0, 1]).words 5 12 0, 0)] ∧
    windowed.mem.astray = [] ∧ portUnused (((windowed.reg64 .pmap 0x118).toNat % 2 ^ 36) / 8 * 8) = false := by decide

theorem witness_Premises_ridges :
    (tiling (tileRun 1 .passed 1)).slotBad 3 (((tileRun 1 .passed 1).arr 0).tile 0) = [] ∧
    (let r := tileRun 0 .atArray 0;
      let q := r.passOf { id := 0, desc := tileDesc 0, ph := .atArray } 0;
      let p := q.using ((r.arr 0).swap q).active;
      p.rangeBad = false ∧ (∀ m < p.rows, p.rowBad m = false) ∧ (∀ c < p.cols, p.colBad c = false)) ∧
    (fetching 0 1 [chunk0 (.here 0)]).keyDown 3 0 = false ∧
    ({ fetching 0 1 [chunk0 (.here 0)] with mem := { (fetching 0 1 [chunk0 (.here 0)]).mem with d2dDown := List.range 13 } } :
      State).keyDown 63 0 = true ∧ (fetching 1 1 [chunk0 (.here 0)]).mem.astray = [] ∧
    (∀ i < 0x40, (fetching 1 1 [chunk0 (.here 0)]).dmaDest none false i = false) := by decide

theorem witness_Premises_cores :
    (let k : Core := { st := .waiting, heldDesc := some { words := [0x41#32], ctx := 0, src := .device } };
      k.undisturbed = true ∧ ((booted.setCore 5 k).place 5 { words := [0x41#32], ctx := 0, src := .device }).isSome = true) ∧
    (booted.setRidge 0 { fetchIn := List.replicate 32 aFetch }).place 5 aFetch = none ∧
    ((booted.setCore 5 { st := .idle, inq := [{ words := [0x12#32], ctx := 0, src := .device }] }).nextTake 5).isSome = true ∧
    ({ st := .waiting, pend := [1], inTrap := true } : Core).undisturbed = true := by decide

theorem witness_Premises_operations :
    ((holding [0, w32 (2 ^ 27 + 0x140), 1, 0]).setWin 5 { (holding [0, w32 (2 ^ 27 + 0x140), 1, 0]).win 5 with
      st := .held, waits := some (0x140, 1), met := true } |>.win 5).met = true ∧
    (booted.setDie 0 [{ desc := anOp, phase := 1, owing := [3] }]).opWork 3 anOp.op = false ∧
    (let s := (booted.setReg .dev 0x100 2).setDie 0 [{ desc := anOp }];
      let l := s.dealFinal (s.dealList 0) (odTiles anOp.words);
      let mine := ((List.range 16).map fun i => 16 * 0 + i).filter fun m => arraysOf l m != 0;
      mine ≠ [] ∧ ∀ m ∈ mine, (s.core (5 + m)).inq.length < 16) := by decide +kernel

theorem witness_Premises_engines :
    (moving 0 0 {}).dmaAstray 2 = false ∧ ddSHint (dmaWords 0 0) ≠ 3 ∧ (running {}).cflAstray 0 = false ∧
    (linked { st := .up }).shortest [2] = some 2 ∧
    (let s := { linked { st := .up } with mem := { d2dDown := List.range 13 } };
      s.routeDown 0 (portDie 2) = true) ∧
    (stepping { st := .opening, copyFail := true } (stepDesc 2 0)).openSlot = some 0 ∧ (mirroring {}).ways = 1 := by decide

/-- The fetch op of operation 7 that stores to memory. -/
def storing : State :=
  let s := fetching 1 1 [chunk0 (.here 0)]
  s.setRidge 3 { s.ridge 3 with fetchOps := (s.ridge 3).fetchOps.map fun o => { o with desc := { o.desc with op := 7 } } }

theorem witness_Premises_unwritten :
    (∀ i < 0x40, (fetching 0 1 [chunk0 (.here 0)]).unwritten 0 ((0 + i) % 2 ^ 43) = false) ∧
    (∀ i < 0x40, (moving 0 0 {}).unwritten 0 (0x40 + i) = false) ∧
    (∀ i < 0x40, ((running { xq := [xfer 1] }).judgeXfers 0).unwritten 0 ((0x40 + i) % 2 ^ 43) = false) ∧
    hosted.unwritten 0 0 = false ∧ hosted.unwritten 0 1 = false ∧
    storing.unwritten 0 (fdMem (fetchWords 1)) = true ∧ storing.unwritten 7 (fdMem (fetchWords 1)) = false := by decide

/-! ### Memory's invariant -/

/-- A memory with a byte written, a stack ready and a Page Map entry. -/
def memSt : State :=
  { State.reset with mem := { hbm := [(5, 1#8)], poison := [7], ready := [0], failed := [1], pmap0 := [(3, 1#64)], pmap1 := [(3, 1#64)] } }

theorem witness_MemoryKeepsItsForm : memSt.MemInv ∧ step memSt = .next memSt := by
  refine ⟨⟨by decide, rfl, fun k => ?_, by rintro ⟨⟩, by rintro b ⟨⟩, by rintro l ⟨⟩⟩, rfl⟩
  simp only [memSt, NatSet.has, List.contains_eq_mem]
  refine ⟨by simp, ?_, ?_⟩
  · intro h; simp at h; subst h; decide
  · simp

end Sys2Proof.Tests
end

section
/-! PROOF. Writes of command windows, window control, host writes of tallies and of their owners, the micro-batch table, the
increment of an op that completes (R242 to R259). -/
namespace Sys2Proof.Machine

/-! ### Words put into a window's slots (R242 to R244) -/

/-- The conditions of R242, one by one. -/
theorem bar4Ok_iff (off : Nat) (data : List Byte) (en : List Bool) :
    bar4Ok off data en = true ↔ data.length % 4 = 0 ∧ 4 ≤ data.length ∧ data.length ≤ 64 ∧ off % 4 = 0 ∧
      off % 64 + data.length ≤ 64 ∧ en.length = data.length ∧ ∀ b ∈ en, b = true := by
  simp [bar4Ok, and_assoc]

theorem Win.find_putWord_ne (n : Nat) (k : Win) {j key : Nat} (h : j ≠ key) (v : W32) :
    Table.find j (k.putWord n key v).words = Table.find j k.words := by
  unfold Win.putWord
  split
  · exact Table.find_put_ne _ h _
  · exact Table.find_insert_ne h _ _

/-- A word that was not yet written since its slot was consumed. -/
theorem Win.putWord_of_unwritten (n : Nat) {k : Win} {key : Nat} (h : Table.find key k.words = none) (v : W32) :
    k.putWord n key v = { k with words := Table.insert key (some v) k.words } := by
  simp [Win.putWord, h]

/-- The words `v 0` to `v (m - 1)` put at the keys from `o` on, as one BAR4 write does it. -/
def Win.putWords (n o : Nat) (v : Nat → W32) (m : Nat) (k : Win) : Win :=
  (List.range m).foldl (fun k i => k.putWord n (o + i) (v i)) k

theorem Win.putWords_succ (n o : Nat) (v : Nat → W32) (m : Nat) (k : Win) :
    k.putWords n o v (m + 1) = (k.putWords n o v m).putWord n (o + m) (v m) := by
  simp [Win.putWords, List.range_succ]

theorem Win.find_putWords_outside (n o : Nat) (v : Nat → W32) (m : Nat) (k : Win) {j : Nat} (h : j < o ∨ o + m ≤ j) :
    Table.find j (k.putWords n o v m).words = Table.find j k.words := by
  induction m with
  | zero => rfl
  | succ m ih => rw [Win.putWords_succ, Win.find_putWord_ne _ _ (by omega), ih (by omega)]

theorem Win.find_putWords_of_unwritten (n o : Nat) (v : Nat → W32) (m : Nat) (k : Win) {i : Nat} (hi : i < m)
    (h : Table.find (o + i) k.words = none) : Table.find (o + i) (k.putWords n o v m).words = some (some (v i)) := by
  induction m with
  | zero => omega
  | succ m ih =>
    rw [Win.putWords_succ]
    by_cases hm : i = m
    · subst hm
      have h' := (Win.find_putWords_outside n o v i k (Or.inr (Nat.le_refl _))).trans h
      rw [Win.putWord_of_unwritten n h']
      exact Table.find_insert_same _ _ _ h'
    · rw [Win.find_putWord_ne _ _ (by omega), ih (by omega)]

/-- Where no word was written before, there is no overrun (R244). -/
theorem Win.putWords_overrun_of_unwritten (n o : Nat) (v : Nat → W32) (m : Nat) (k : Win)
    (h : ∀ i < m, Table.find (o + i) k.words = none) : (k.putWords n o v m).overrun = k.overrun := by
  induction m with
  | zero => rfl
  | succ m ih =>
    have hm := (Win.find_putWords_outside n o v m k (Or.inr (Nat.le_refl _))).trans (h m (by omega))
    rw [Win.putWords_succ, Win.putWord_of_unwritten n hm]
    exact ih fun i hi => h i (by omega)

/-! ### BAR4 writes (R242) -/

/-- Word `i` of the data of a BAR4 write. -/
def bar4Word (data : List Byte) (i : Nat) : W32 := w32 (leNat ((data.drop (4 * i)).take 4))

/-- Window `w` after a BAR4 write that it accepts. -/
def State.winWritten (s : State) (w off : Nat) (data : List Byte) : Win :=
  (s.win w).putWords s.free (off / 4) (bar4Word data) (data.length / 4)

theorem exec_commandWindowWrite_ignored (s : State) (w : Fin 64) (off : BitVec 16) (data : List Byte) (en : List Bool)
    (h : bar4Ok off.toNat data en = false ∨ (s.win w.val).st = .disabled) :
    exec (.commandWindowWrite w off data en) s = .next s := by
  change execCommandWindowWrite w off data en s = _
  unfold execCommandWindowWrite
  rcases h with h | h <;> simp [h]

theorem exec_commandWindowWrite_taken (s : State) (w : Fin 64) (off : BitVec 16) (data : List Byte) (en : List Bool)
    (hr : s.ready = true) (hok : bar4Ok off.toNat data en = true) (hst : (s.win w.val).st ≠ .disabled) :
    exec (.commandWindowWrite w off data en) s =
      .next (if (s.winWritten w.val off.toNat data).overrun = (s.win w.val).overrun
        then s.setWin w.val (s.winWritten w.val off.toNat data)
        else (s.setWin w.val (s.winWritten w.val off.toNat data)).fresh) := by
  have hopen : (!s.ready || (s.win w.val).st == .disabled || !(bar4Ok off.toNat data en)) = false := by simp [hr, hok, hst]
  change execCommandWindowWrite w off data en s = _
  simp only [execCommandWindowWrite, hopen]
  rfl

/-- What an accepted BAR4 write does to the slots, and what it leaves alone (R242, R243). -/
theorem exec_commandWindowWrite_words (s : State) (w : Fin 64) (off : BitVec 16) (data : List Byte) (en : List Bool)
    (hr : s.ready = true) (hok : bar4Ok off.toNat data en = true) (hst : (s.win w.val).st ≠ .disabled) :
    ∃ t, exec (.commandWindowWrite w off data en) s = .next t ∧
      (∀ i < data.length / 4, Table.find (off.toNat / 4 + i) (s.win w.val).words = none →
        Table.find (off.toNat / 4 + i) (t.win w.val).words = some (some (bar4Word data i))) ∧
      (∀ j, j < off.toNat / 4 ∨ off.toNat / 4 + data.length / 4 ≤ j →
        Table.find j (t.win w.val).words = Table.find j (s.win w.val).words) ∧
      ((∀ i < data.length / 4, Table.find (off.toNat / 4 + i) (s.win w.val).words = none) → t.free = s.free) ∧
      (∀ v, v ≠ w.val → t.win v = s.win v) ∧ t = { s with wins := t.wins, free := t.free } := by
  have hwords := fun i hi h =>
    Win.find_putWords_of_unwritten s.free (off.toNat / 4) (bar4Word data) (data.length / 4) (s.win w.val) (i := i) hi h
  have hrest := fun j h =>
    Win.find_putWords_outside s.free (off.toNat / 4) (bar4Word data) (data.length / 4) (s.win w.val) (j := j) h
  refine ⟨_, exec_commandWindowWrite_taken s w off data en hr hok hst, ?_⟩
  split
  case isTrue _ =>
    rw [State.win_setWin_same]
    exact ⟨hwords, hrest, fun _ => rfl, fun v hv => State.win_setWin_ne s hv _, rfl⟩
  case isFalse hover =>
    rw [State.win_fresh, State.win_setWin_same]
    exact ⟨hwords, hrest, fun h => absurd (Win.putWords_overrun_of_unwritten _ _ _ _ _ h) hover,
      fun v hv => State.win_setWin_ne s hv _, rfl⟩

/-! ### Window control (R250, R251) -/

@[simp] theorem Win.emptied_st (k : Win) (st : WinSt) : (k.emptied st).st = st := rfl
@[simp] theorem Win.emptied_next (k : Win) (st : WinSt) : (k.emptied st).next = k.next := rfl
@[simp] theorem Win.emptied_fullSlots (k : Win) (st : WinSt) : (k.emptied st).fullSlots = 0 := rfl

theorem exec_winCtlEnWrite_false (s : State) (w : Fin 64) (hr : s.ready = true) :
    exec (.winCtlEnWrite w false) s = .next (s.setWin w.val ((s.win w.val).emptied .disabled)) := by
  change execWinCtlEnWrite w false s = _
  simp [execWinCtlEnWrite, hr]

theorem exec_winCtlEnWrite_true (s : State) (w : Fin 64) (hr : s.ready = true) (h : (s.win w.val).st = .disabled) :
    exec (.winCtlEnWrite w true) s = .next (s.setWin w.val ((s.win w.val).emptied .run)) := by
  change execWinCtlEnWrite w true s = _
  simp [execWinCtlEnWrite, hr, h]

/-- A window emptied shows the state it is put in, no full slot, and its old `NEXT`; nothing outside the windows changes. -/
theorem State.setWin_emptied_spec (s : State) (w : Nat) (st : WinSt) :
    let t := s.setWin w ((s.win w).emptied st)
    (t.win w).st = st ∧ (t.win w).fullSlots = 0 ∧ (t.win w).next = (s.win w).next ∧ t = { s with wins := t.wins } :=
  ⟨by simp, by simp, by simp, rfl⟩

theorem exec_winCtlResume (s : State) (w : Fin 64) (hr : s.ready = true) :
    exec (.winCtlResume w) s = .next
      (if (s.win w.val).st = .faulted then s.setWin w.val { s.win w.val with st := .run, reason := 0 } else s) := by
  change execWinCtlResume w s = _
  simp [execWinCtlResume, hr]

theorem exec_winNextWrite (s : State) (w : Fin 64) (v : W32) (hr : s.ready = true) :
    exec (.winNextWrite w v) s = .next
      (if (s.win w.val).st = .disabled then s.setWin w.val { s.win w.val with next := v } else s) := by
  change execWinNextWrite w v s = _
  simp [execWinNextWrite, hr]

/-! ### Host writes of tallies (R254) -/

theorem State.setTally_frame (s : State) (t : Nat) (v : W32) :
    s.setTally t v =
      let u := s.setTally t v
      { s with tallies := u.tallies, wins := u.wins, cores := u.cores, host := { s.host with due := u.host.due } } := rfl

theorem State.tally_addTally_same (s : State) (t : Nat) (n : W32) : (s.addTally t n).tally t = s.tally t + n := by
  simp [State.addTally]

theorem State.tally_addTally_ne (s : State) {i t : Nat} (h : i ≠ t) (n : W32) : (s.addTally t n).tally i = s.tally i := by
  simp [State.addTally, State.tally_setTally_ne _ h]

theorem exec_tallyWrite_narrow (s : State) (t : Fin 4096) (x : W64) (hr : s.ready = true) :
    exec (.tallyWrite t false x) s = .next (s.setTally t.val (lo32 x)) := by
  change execTallyWrite t false x s = _
  simp [execTallyWrite, hr]

theorem exec_tallyWrite_wide (s : State) (t : Fin 4096) (x : W64) (hr : s.ready = true) (h : t.val % 2 = 0) :
    exec (.tallyWrite t true x) s = .next ((s.setTally t.val (lo32 x)).setTally (t.val + 1) (hi32 x)) := by
  have heven : t.val / 2 * 2 = t.val := by omega
  change execTallyWrite t true x s = _
  simp [execTallyWrite, hr, heven]

theorem exec_hostInc (s : State) (v : W32) (hr : s.ready = true) :
    exec (.hostInc v) s = .next (s.addTally (fld v 31 20) (w32 (fld v 19 0))) := by
  change execHostInc v s = _
  simp [execHostInc, hr]

/-! ### The owner of a block of tallies (R255, R256) -/

/-- The block's owner decides for each of its tallies (R255). -/
theorem State.tallyPermitted_eq (s : State) (t c : Nat) :
    s.tallyPermitted t c = decide (s.field .tly (0x200 + 4 * (t / 64)) 7 0 = c) := rfl

theorem fld_w32_of_lt {n : Nat} (hi : Nat) (hn : n < 2 ^ (hi + 1)) (h : hi < 32) : fld (w32 n) hi 0 = n := by
  have h32 : 2 ^ (hi + 1) ≤ 2 ^ 32 := Nat.pow_le_pow_right (by decide) h
  simp only [fld, bits, w32, BitVec.toNat_ofNat, Nat.shiftRight_zero, Nat.sub_zero]
  rw [Nat.mod_eq_of_lt (Nat.lt_of_lt_of_le hn h32), Nat.mod_eq_of_lt hn]

theorem State.tally_foldl_setTally_ne (f : Nat → Nat) (v : Nat → W32) {n : Nat} (l : List Nat) (h : ∀ i ∈ l, n ≠ f i)
    (s : State) : (l.foldl (fun t i => t.setTally (f i) (v i)) s).tally n = s.tally n := by
  induction l generalizing s with
  | nil => rfl
  | cons i l ih =>
    rw [List.foldl_cons, ih fun j hj => h j (List.mem_cons_of_mem _ hj),
      State.tally_setTally_ne s (h i List.mem_cons_self)]

theorem State.tally_blockLost_ne (s : State) (b : Nat) {n : Nat} (h : n / 64 ≠ b) : (s.blockLost b).tally n = s.tally n := by
  rw [State.blockLost, State.tally_fresh]
  refine State.tally_foldl_setTally_ne (64 * b + ·) _ _ (fun i hi => ?_) s
  have := List.mem_range.mp hi
  omega

@[simp] theorem State.reg_blockLost (s : State) (b : Nat) (p : Page) (o : Nat) : (s.blockLost b).reg p o = s.reg p o := by
  rw [State.blockLost, State.reg_fresh]
  exact foldl_keeps (fun t => t.reg p o) (fun _ _ => State.reg_setTally _ _ _ _ _) _ s

/-- A write of a block's owner that takes effect (R256). -/
theorem exec_blockOwnWrite_open (s : State) (b : Fin 64) (v : W32) (hr : s.ready = true) (hs : s.pageSealed .tly = false) :
    exec (.blockOwnWrite b v) s = .next
      (if (s.blockNamed b.val (s.field .tly (0x200 + 4 * b.val) 7 0) || s.blockNamed b.val (fld v 7 0)) = true
        then (s.setReg .tly (0x200 + 4 * b.val) (w32 (fld v 7 0))).blockLost b.val
        else s.setReg .tly (0x200 + 4 * b.val) (w32 (fld v 7 0))) := by
  change execBlockOwnWrite b v s = _
  simp [execBlockOwnWrite, hr, hs]

theorem exec_blockOwnWrite_sealed (s : State) (b : Fin 64) (v : W32) (hs : s.pageSealed .tly = true) :
    exec (.blockOwnWrite b v) s = .next s := by
  change execBlockOwnWrite b v s = _
  simp [execBlockOwnWrite, hs]

theorem State.tallyPermitted_of_owner {u : State} {b : Nat} {v : W32}
    (h : u.reg .tly (0x200 + 4 * b) = w32 (fld v 7 0)) {t : Nat} (ht : t / 64 = b) (c : Nat) :
    u.tallyPermitted t c = decide (fld v 7 0 = c) := by
  rw [State.tallyPermitted_eq, ht, State.field, h, fld_w32_of_lt 7 (fld_lt v 7 0) (by decide)]

/-- The new owner, the tallies of the other blocks, and all else where nothing can name a tally of the block (R256). -/
theorem exec_blockOwnWrite_spec (s : State) (b : Fin 64) (v : W32) (hr : s.ready = true) (hs : s.pageSealed .tly = false) :
    ∃ u, exec (.blockOwnWrite b v) s = .next u ∧
      (∀ t < 4096, ∀ c < 64, t / 64 = b.val → u.tallyPermitted t c = decide (fld v 7 0 = c)) ∧
      (∀ t, t / 64 ≠ b.val → u.tally t = s.tally t) ∧
      (s.blockNamed b.val (s.field .tly (0x200 + 4 * b.val) 7 0) = false → s.blockNamed b.val (fld v 7 0) = false →
        u = { s with io := u.io }) := by
  refine ⟨_, exec_blockOwnWrite_open s b v hr hs, ?_⟩
  split
  case isTrue hnamed =>
    refine ⟨fun t _ c _ ht => State.tallyPermitted_of_owner (by simp) ht c, fun t ht => ?_, fun hold hnew => ?_⟩
    · rw [State.tally_blockLost_ne _ _ ht, State.tally_setReg]
    · simp [hold, hnew] at hnamed
  case isFalse _ =>
    exact ⟨fun t _ c _ ht => State.tallyPermitted_of_owner (by simp) ht c, fun _ _ => rfl, fun _ _ => rfl⟩

/-! ### The micro-batch table (R258, R259) -/

theorem exec_slotTokWrite_refused (s : State) (i : Fin 8) (v : W32) (hr : s.ready = true)
    (h : 2 ^ 24 < fld v 24 0 ∨ (bitOf v 31 = true ∧ fld v 24 0 = 0)) :
    exec (.slotTokWrite i v) s = .next (s.setErr .cwn 2) := by
  change execSlotTokWrite i v s = _
  unfold execSlotTokWrite
  simp only [hr, Bool.not_true, Bool.false_eq_true, if_false, if_pos h]

/-- A valid slot with a number of tokens that it may hold. -/
theorem exec_slotTokWrite_valid (s : State) (i : Fin 8) (v : W32) (hr : s.ready = true) (hle : fld v 24 0 ≤ 2 ^ 24)
    (hv : bitOf v 31 = true) (h0 : fld v 24 0 ≠ 0) :
    exec (.slotTokWrite i v) s = .next
      ((s.setReg .cwn (0x500 + 16 * i.val) (setBit (w32 (fld v 24 0)) 31 true)).setReg .cwn (0x504 + 16 * i.val)
        (w32 (ceilDiv (fld v 24 0) 32768))) := by
  have hno : ¬(2 ^ 24 < fld v 24 0 ∨ (bitOf v 31 = true ∧ fld v 24 0 = 0)) := by
    rintro (h | ⟨-, h⟩)
    · omega
    · exact h0 h
  change execSlotTokWrite i v s = _
  unfold execSlotTokWrite
  simp only [hr, Bool.not_true, Bool.false_eq_true, if_false, if_neg hno]
  simp only [hv, if_true]

/-- The number of segments of a micro-batch fits its register (R259). -/
theorem toNat_segments {n : Nat} (h : n ≤ 2 ^ 24) : (w32 (ceilDiv n 32768)).toNat = (n + 32767) / 32768 := by
  have hlt : (n + 32767) / 32768 < 2 ^ 32 := by omega
  simp only [ceilDiv, w32, BitVec.toNat_ofNat]
  exact Nat.mod_eq_of_lt hlt

theorem exec_slotTokWrite_spec (s : State) (i : Fin 8) (v : W32) (hr : s.ready = true) (hle : fld v 24 0 ≤ 2 ^ 24)
    (hv : bitOf v 31 = true) (h0 : fld v 24 0 ≠ 0) :
    ∃ u, exec (.slotTokWrite i v) s = .next u ∧
      u.field .cwn (0x500 + 16 * i.val) 24 0 = fld v 24 0 ∧ u.flag .cwn (0x500 + 16 * i.val) 31 = true ∧
      (u.reg .cwn (0x504 + 16 * i.val)).toNat = (fld v 24 0 + 32767) / 32768 := by
  have hoff : 0x500 + 16 * i.val ≠ 0x504 + 16 * i.val := by omega
  refine ⟨_, exec_slotTokWrite_valid s i v hr hle hv h0, ?_, ?_, ?_⟩
  · rw [State.field, State.reg_setReg_off _ _ hoff, State.reg_setReg_same,
      fld_setBit_ne _ _ _ _ _ (by decide) (by decide), fld_w32_of_lt 24 (fld_lt v 24 0) (by decide)]
  · rw [State.flag, State.reg_setReg_off _ _ hoff, State.reg_setReg_same, bitOf_setBit_same _ _ _ (by decide)]
  · rw [State.reg_setReg_same, toNat_segments hle]

/-! ### The increment of an op that completes (R255) -/

theorem State.opTally_permitted (s : State) {n c : Nat} (h : s.tallyPermitted n c = true) : s.opTally n c = s.addTally n 1 := by
  simp [State.opTally, h]

/-- What the record of a dropped increment holds: the tally, its context, and that it is valid (R255). -/
theorem droppedRecord_fields {n c : Nat} (hn : n < 4096) (hc : c < 64) :
    let r := w32 (2 ^ 31 + c * 4096 + n)
    fld r 11 0 = n ∧ fld r 17 12 = c ∧ bitOf r 31 = true := by
  have hlt : 2 ^ 31 + c * 4096 + n < 2 ^ 32 := by omega
  have hr : (w32 (2 ^ 31 + c * 4096 + n)).toNat = 2 ^ 31 + c * 4096 + n := Nat.mod_eq_of_lt hlt
  refine ⟨?_, ?_, ?_⟩
  · simp only [fld, bits, hr, Nat.shiftRight_eq_div_pow]; omega
  · simp only [fld, bits, hr, Nat.shiftRight_eq_div_pow]; omega
  · simp only [bitOf, hr, Nat.testBit_eq_decide_div_mod_eq, decide_eq_true_eq]; omega

/-- A dropped increment: `DENIED` is detected, and the first one is recorded (R255, R267). -/
theorem State.opTally_denied (s : State) {n c : Nat} (h : s.tallyPermitted n c = false) :
    s.opTally n c =
      (if s.flag .tly 0x104 31 then s else s.setReg .tly 0x104 (w32 (2 ^ 31 + c * 4096 + n))).setErr .tly 0 := by
  simp [State.opTally, h]

/-- The record of the first dropped increment stands until it is cleared (R255). -/
theorem State.reg_opTally_denied (s : State) {n c : Nat} (h : s.tallyPermitted n c = false) :
    (s.opTally n c).reg .tly 0x104 =
      if s.flag .tly 0x104 31 then s.reg .tly 0x104 else w32 (2 ^ 31 + c * 4096 + n) := by
  rw [State.opTally_denied s h, State.reg_setErr_ne _ 0 (by decide) (by decide)]
  split
  · rfl
  · exact State.reg_setReg_same _ _ _ _

theorem State.opTally_denied_spec (s : State) {n c : Nat} (hn : n < 4096) (hc : c < 64) (h : s.tallyPermitted n c = false) :
    (s.opTally n c).tallies = s.tallies ∧ (s.opTally n c).flag .tly 0x010 0 = true ∧
      (s.flag .tly 0x104 31 = false → (s.opTally n c).field .tly 0x104 11 0 = n ∧
        (s.opTally n c).field .tly 0x104 17 12 = c ∧ (s.opTally n c).flag .tly 0x104 31 = true) ∧
      (s.flag .tly 0x104 31 = true → (s.opTally n c).reg .tly 0x104 = s.reg .tly 0x104) := by
  refine ⟨?_, ?_, fun hfirst => ?_, fun hstands => ?_⟩
  · rw [State.opTally_denied s h, State.setErr_tallies]
    split <;> rfl
  · rw [State.opTally_denied s h, State.flag_setErr _ _ _ (by decide)]
  · rw [State.field, State.field, State.flag, State.reg_opTally_denied s h, hfirst]
    exact droppedRecord_fields hn hc
  · rw [State.reg_opTally_denied s h, if_pos hstands]

/-! ### The obligation -/

/-- Settles O27, clause by clause from the rules above: the words of a BAR4 write, window control, host writes, the increment
of an op. -/
theorem commandWindowsAndTallies : Obligations.CommandWindowsAndTallies := by
  unfold Obligations.CommandWindowsAndTallies
  refine ⟨fun s w off data en hr => ?_, fun s w v hr => ?_, fun s v x hr => ?_, fun s n c hn hc => ⟨fun h => ?_, fun h => ?_⟩⟩
  · intro ok
    have hok : bar4Ok off.toNat data en = true ↔ ok := bar4Ok_iff _ _ _
    refine ⟨fun h => exec_commandWindowWrite_ignored s w off data en (h.imp_left fun hno => ?_), fun h hst =>
      exec_commandWindowWrite_words s w off data en hr (hok.mpr h) hst⟩
    exact Bool.eq_false_iff.mpr (mt hok.mp hno)
  · refine ⟨⟨_, exec_winCtlEnWrite_false s w hr, State.setWin_emptied_spec s w.val _⟩,
      fun h => ⟨_, exec_winCtlEnWrite_true s w hr h, State.setWin_emptied_spec s w.val _⟩,
      fun h => ?_, fun h => ?_, fun h => ?_, fun h => ?_⟩
    · rw [exec_winCtlResume s w hr, if_pos h]
    · rw [exec_winCtlResume s w hr, if_neg h]
    · rw [exec_winNextWrite s w v hr, if_pos h]
    · rw [exec_winNextWrite s w v hr, if_neg h]
  · refine ⟨fun t => ?_, fun t ht => ?_, ?_, fun b hs => exec_blockOwnWrite_spec s b v hr hs,
      fun b hs => exec_blockOwnWrite_sealed s b v hs, fun i h => exec_slotTokWrite_refused s i v hr h,
      fun i hle hv h0 => exec_slotTokWrite_spec s i v hr hle hv h0⟩
    · exact ⟨_, exec_tallyWrite_narrow s t x hr, State.tally_setTally_same _ _ _,
        fun n hn => State.tally_setTally_ne s hn _, State.setTally_frame s t.val _⟩
    · refine ⟨_, exec_tallyWrite_wide s t x hr ht, ?_, State.tally_setTally_same _ _ _, fun n h0 h1 => ?_⟩
      · rw [State.tally_setTally_ne _ (by omega), State.tally_setTally_same]
      · rw [State.tally_setTally_ne _ h1, State.tally_setTally_ne _ h0]
    · exact ⟨_, exec_hostInc s v hr, State.tally_addTally_same _ _ _, fun n hn => State.tally_addTally_ne s hn _⟩
  · rw [State.opTally_permitted s h]
    exact ⟨State.tally_addTally_same s n 1, fun m hm => State.tally_addTally_ne s hm 1⟩
  · exact State.opTally_denied_spec s hn hc h

end Sys2Proof.Machine
end

section
/-! PROOF. A step and its queue, the common header at reset (R34), and a write that changes a sealed register (R44). -/
namespace Sys2Proof.Machine

/-- Settles O1: a step on a queue with a front command is by definition that command on the state with the queue's rest. -/
theorem stepRunsFrontCommand : Obligations.StepRunsFrontCommand := by
  unfold Obligations.StepRunsFrontCommand
  intro c rest s
  rfl

/-! ### Registers at reset -/

/-- The index of R32 names each page at that page's own address. -/
theorem pageAt_base : ∀ p ∈ allPages, pageAt p.base = some p := by decide +kernel

theorem Page.base_mod (p : Page) : p.base % 0x1000 = 0 := by
  cases p <;> simp only [Page.base] <;> omega

theorem pageAt_base_add {p : Page} (hp : p ∈ allPages) {o : Nat} (ho : o < 0x1000) : pageAt (p.base + o) = some p := by
  have hpage : (p.base + o) / 0x1000 = p.base / 0x1000 := by
    have := p.base_mod
    omega
  rw [← pageAt_base p hp]
  simp only [pageAt, hpage]

theorem State.reg_reset {p : Page} (hp : p ∈ allPages) {o : Nat} (ho : o < 0x1000) :
    State.reset.reg p o = p.resetOf o := by
  change regDefault (p.base + o) = _
  simp only [regDefault, pageAt_base_add hp ho, Nat.add_sub_cancel_left]

/-- In the common header the reset value is that of the register's row; the values by instance lie above it. -/
theorem Page.resetOf_header {p : Page} {o : Nat} (ho : o < 0x100) {r : RegRow} (hr : p.row o = some r) :
    p.resetOf o = w32 r.reset := by
  have h200 : (decide (0x200 ≤ o) && decide (o < 0x300)) = false := by simp; omega
  have h120 : (o == 0x120) = false := by simp; omega
  simp only [Page.resetOf, h200, h120, hr]

theorem State.reg_reset_header {p : Page} (hp : p ∈ allPages) {o : Nat} (ho : o < 0x100) {r : RegRow}
    (hr : p.row o = some r) : State.reset.reg p o = w32 r.reset := by
  rw [State.reg_reset hp (by omega), Page.resetOf_header ho hr]

/-- `ID` (R34). -/
theorem Page.row_id (p : Page) : p.row 0x000 = some { off := 0x000, reset := p.id.toNat } := by
  simp [Page.row, headerRows, RegRow.covers]

/-- `ERR_STAT` (R38). -/
theorem Page.row_errStat (p : Page) : p.row 0x010 = some { off := 0x010, w1c := 2 ^ p.errBits - 1, kind := .own } := by
  simp [Page.row, headerRows, RegRow.covers]

/-- `ERR_FIRST` (R39). -/
theorem Page.row_errFirst (p : Page) : p.row 0x018 = some { off := 0x018, w1c := 2 ^ p.errBits - 1, kind := .own } := by
  simp [Page.row, headerRows, RegRow.covers]

/-- `CE_COUNT` (R41). -/
theorem Page.row_ceCount (p : Page) : p.row 0x020 = some { off := 0x020, rw := all32 } := by
  simp [Page.row, headerRows, RegRow.covers]

/-- Settles O3: page by page the rows of the common header (R34) give the reset values, and no page is sealed. -/
theorem resetHeaders : Obligations.ResetHeaders := by
  unfold Obligations.ResetHeaders
  refine ⟨rfl, fun p hp => ⟨?_, State.reg_reset_header hp (by decide) p.row_errStat,
    State.reg_reset_header hp (by decide) p.row_errFirst, State.reg_reset_header hp (by decide) p.row_ceCount, rfl⟩⟩
  calc State.reset.reg p 0x000 = w32 p.id.toNat := State.reg_reset_header hp (by decide) p.row_id
    _ = p.id := BitVec.ofNat_toNat 32 p.id
    _ = w32 (p.typeInst.1 * 2 ^ 16 + p.typeInst.2 * 2 ^ 8 + 0xA1) := rfl

/-! ### A sealed register that a write changes -/

/-- A Cairn check of Ridge 0, by Ridge 0, that counts for a journal slot 2. The device has slots 0 and 1 only, whose `PEND0` and
`PEND1` are the words before `DIG_CFG` (R470); nothing in the state's type keeps a check from naming another. -/
def strayCheck : Check :=
  { ridge := 0, op := 0, arr := 0, pair := false, ctx := 0, jslot := some 2, step := 0, chk := 0, arb := none
    srcCond := { bin := 0, sig := 0, mv := 0, mhz := 0 }, chkCond := { bin := 0, sig := 0, mv := 0, mhz := 0 }, since := 0 }

/-- A booted part with the stray check, whose global CHK page is sealed with 0x0010_0040 in `DIG_CFG`. -/
def strayState : State :=
  { io := { regs := [(0x8100, 0x80080800#32), (0x803110, 0x00100040#32)], isSealed := [0x803000] }, checks := [strayCheck] }

/-- A register write always answers a next state. -/
theorem exec_registerWrite_next (s : State) (a : BitVec 29) (size : WSize) (v : W64) :
    exec (.registerWrite a size v) s = .next (s.afterCmd (exec (.registerWrite a size v) s)) := rfl

/-- What a write of `RDG.CTL` of Ridge 0 with `QUIESCE` (R417) leaves of `strayState`. -/
def strayAfter : State := strayState.afterCmd (exec (.registerWrite 0x200008 .b32 0x80000000) strayState)

/-- The quiesce abandons the check (R453): `PENDING` of its slot, here bits [31:16] of `DIG_CFG`, falls by one. -/
theorem strayAfter_digCfg : strayAfter.reg .chkG 0x110 = 0x000F0040#32 := by decide

/-- Refutes O6: its third clause speaks of every state, and in `strayState`, whose check names a slot that no sampling
gives (R454), a write of `RDG.CTL` clears bit 20 of the sealed `DIG_CFG`. -/
theorem not_registerWritesAct : ¬ Obligations.RegisterWritesAct := by
  unfold Obligations.RegisterWritesAct
  rintro ⟨-, -, hsealed⟩
  have hmem : Page.chkG ∈ allPages := by simp [allPages]
  have hrow : Page.row .chkG 0x110 = some { off := 0x110, reset := 0x40, rws := 0xFFF0FFFF } := rfl
  have hkeep := hsealed strayState .chkG 0x110 _ rfl hmem (by decide) hrow 0x200008 .b32 0x80000000 0 strayAfter
    (.inl (exec_registerWrite_next _ _ _ _))
  rw [strayAfter_digCfg] at hkeep
  exact absurd hkeep (by decide)

end Sys2Proof.Machine
end

section
/-! PROOF. Every finite code converts back to itself (R47, R57, R59); the exact sum does not depend on the order (R157). -/
namespace Sys2Proof.Machine

/-! ### Floating-point codes (R47, R59) -/

/-- What the encodings of R47 have in common: the largest finite code lies just below the code of infinity; without an infinity
every magnitude is finite, and the code of −0 is the NaN. -/
structure FpSpec.Sound (f : FpSpec) : Prop where
  pos : 0 < f.width
  maxCode_of_inf : ∀ ic, f.infCode = some ic → ic = f.maxCode + 1
  maxCode_of_noInf : f.infCode = none → 2 ^ (f.width - 1) = f.maxCode + 1
  nanCode_of_noInf : f.infCode = none → f.nanCode = 2 ^ (f.width - 1)

/-- The value of the finite magnitude code `mag`: subnormal below `2 ^ mant`, normal from there on. -/
def FpSpec.finVal (f : FpSpec) (neg : Bool) (mag : Nat) : Num :=
  if mag / 2 ^ f.mant = 0 then .fin neg mag f.emin
  else .fin neg (mag % 2 ^ f.mant + 2 ^ f.mant) (f.emin + ((mag / 2 ^ f.mant : Nat) : Int) - 1)

/-- The code of a sign in a format. -/
def FpSpec.signCode (f : FpSpec) (neg : Bool) : Nat := if neg then 2 ^ (f.width - 1) else 0

/-- The sign of a code. -/
def FpSpec.negOf (f : FpSpec) (c : Nat) : Bool := c / 2 ^ (f.width - 1) % 2 == 1

/-- A code is its magnitude and its sign. -/
theorem FpSpec.code_eq_mag_add_sign {f : FpSpec} (hf : 0 < f.width) {c : Nat} (hc : c < 2 ^ f.width) :
    c % 2 ^ (f.width - 1) + f.signCode (f.negOf c) = c := by
  have hw : 2 ^ f.width = 2 ^ (f.width - 1) * 2 := by rw [← Nat.pow_succ, Nat.succ_eq_add_one, Nat.sub_add_cancel hf]
  have hq : c / 2 ^ (f.width - 1) < 2 := Nat.div_lt_of_lt_mul (hw ▸ hc)
  have hdiv := Nat.mod_add_div c (2 ^ (f.width - 1))
  rcases Nat.le_one_iff_eq_zero_or_eq_one.mp (Nat.lt_succ_iff.mp hq) with h | h
  · simpa [FpSpec.signCode, FpSpec.negOf, h] using hdiv
  · simpa [FpSpec.signCode, FpSpec.negOf, h] using hdiv

/-- What a finite code decodes to. -/
theorem FpSpec.decode_of_isFin {f : FpSpec} (hf : f.Sound) {c : Nat} (h : (f.decode c).isFin = true) :
    f.decode c = f.finVal (f.negOf c) (c % 2 ^ (f.width - 1)) ∧ c % 2 ^ (f.width - 1) ≤ f.maxCode ∧
      (f.infCode = none → c ≠ 2 ^ (f.width - 1)) := by
  cases hic : f.infCode with
  | none =>
    have hmag := Nat.mod_lt c (Nat.two_pow_pos (f.width - 1))
    have hmax := hf.maxCode_of_noInf hic
    simp only [FpSpec.decode, hic, hf.nanCode_of_noInf hic] at h ⊢
    split at h
    case isTrue => cases h
    case isFalse hnan => exact ⟨by rw [if_neg hnan]; rfl, by omega, fun _ => hnan⟩
  | some ic =>
    have hmax := hf.maxCode_of_inf ic hic
    simp only [FpSpec.decode, hic] at h ⊢
    split at h
    case isTrue => cases h
    case isFalse hinf =>
      split at h
      case isTrue => cases h
      case isFalse hnan => exact ⟨by rw [if_neg hinf, if_neg hnan]; rfl, by omega, nofun⟩

/-- A value that is a multiple of its quantum, and not past the largest code, converts without rounding. -/
theorem FpSpec.conv_of_quantum (f : FpSpec) (mode : Rnd) (nonsat : Bool) (r : Nat) (neg : Bool) {m : Nat} {e : Int}
    (hm : m ≠ 0) (hq : quantum f m e = e) (hmax : (e - f.emin).toNat * 2 ^ f.mant + m ≤ f.maxCode) :
    (f.conv mode nonsat r (.fin neg m e)).code = (e - f.emin).toNat * 2 ^ f.mant + m + f.signCode neg := by
  have hround : roundMul mode r m e e = m := by simp [roundMul]
  simp only [FpSpec.conv, hq, hround, if_neg hm, if_pos hmax]
  rfl

/-- The quantum of a subnormal is the smallest one (R47). -/
theorem quantum_subnormal (f : FpSpec) {m : Nat} (hm : m ≠ 0) (h : m < 2 ^ f.mant) : quantum f m f.emin = f.emin := by
  have hlog : m.log2 < f.mant := (Nat.log2_lt hm).mpr h
  simp only [quantum]
  omega

/-- The quantum of a normal value is its own exponent. -/
theorem quantum_normal (f : FpSpec) {k : Nat} {e : Int} (hk : k < 2 ^ f.mant) (he : f.emin ≤ e) :
    quantum f (k + 2 ^ f.mant) e = e := by
  have hpos := Nat.two_pow_pos f.mant
  have hlog : (k + 2 ^ f.mant).log2 = f.mant := (Nat.log2_eq_iff (by omega)).mpr ⟨by omega, by rw [Nat.pow_succ]; omega⟩
  simp only [quantum, hlog]
  omega

/-- The value of a finite magnitude that is not zero converts back to it. -/
theorem FpSpec.conv_finVal (f : FpSpec) (mode : Rnd) (nonsat : Bool) (r : Nat) (neg : Bool) {mag : Nat} (h0 : mag ≠ 0)
    (hmax : mag ≤ f.maxCode) : (f.conv mode nonsat r (f.finVal neg mag)).code = mag + f.signCode neg := by
  have hpos := Nat.two_pow_pos f.mant
  by_cases hex : mag / 2 ^ f.mant = 0
  · have hlt : mag < 2 ^ f.mant := (Nat.div_eq_zero_iff_lt hpos).mp hex
    have hcode : (f.emin - f.emin).toNat * 2 ^ f.mant + mag = mag := by simp
    rw [FpSpec.finVal, if_pos hex, f.conv_of_quantum mode nonsat r neg h0 (quantum_subnormal f h0 hlt) (by rwa [hcode]), hcode]
  · have hdiv : mag / 2 ^ f.mant * 2 ^ f.mant + mag % 2 ^ f.mant = mag := Nat.div_add_mod' _ _
    have hfrac : mag % 2 ^ f.mant < 2 ^ f.mant := Nat.mod_lt _ hpos
    rw [FpSpec.finVal, if_neg hex]
    generalize mag / 2 ^ f.mant = ex, mag % 2 ^ f.mant = frac at *
    have hcode : (f.emin + (ex : Int) - 1 - f.emin).toNat * 2 ^ f.mant + (frac + 2 ^ f.mant) = mag := by
      have hexp : (f.emin + (ex : Int) - 1 - f.emin).toNat = ex - 1 := by omega
      calc _ = (ex - 1 + 1) * 2 ^ f.mant + frac := by rw [hexp, Nat.add_one_mul]; omega
        _ = mag := by rw [Nat.sub_add_cancel (by omega), hdiv]
    rw [f.conv_of_quantum mode nonsat r neg (by omega) (quantum_normal f hfrac (by omega)) (by rwa [hcode]), hcode]

/-- Zero converts to a zero of its sign, which F8E4 does not have (R47, R59). -/
theorem FpSpec.conv_finVal_zero (f : FpSpec) (mode : Rnd) (nonsat : Bool) (r : Nat) (neg : Bool) :
    (f.conv mode nonsat r (f.finVal neg 0)).code = if f.infCode = none then 0 else f.signCode neg := by
  simp [FpSpec.finVal, FpSpec.conv, FpSpec.signCode]

/-- A finite code of a floating-point format converts back to itself. -/
theorem FpSpec.conv_decode {f : FpSpec} (hf : f.Sound) {c : Nat} (hc : c < 2 ^ f.width) (h : (f.decode c).isFin = true)
    (mode : Rnd) (nonsat : Bool) (r : Nat) : (f.conv mode nonsat r (f.decode c)).code = c := by
  obtain ⟨hval, hmax, hnan⟩ := f.decode_of_isFin hf h
  have hsum := FpSpec.code_eq_mag_add_sign hf.pos hc
  rw [hval]
  by_cases h0 : c % 2 ^ (f.width - 1) = 0
  · rw [h0, Nat.zero_add] at hsum
    rw [h0, FpSpec.conv_finVal_zero]
    split
    case isTrue hinf =>
      have hne := hnan hinf
      cases hneg : f.negOf c with
      | false => simpa [hneg, FpSpec.signCode] using hsum
      | true => exact absurd (by simpa [hneg, FpSpec.signCode] using hsum.symm) hne
    case isFalse => exact hsum
  · rw [FpSpec.conv_finVal f mode nonsat r _ h0 hmax, hsum]

theorem Fmt.fp_sound {f : Fmt} {g : FpSpec} (h : f.fp = some g) : g.Sound := by
  cases f <;> cases h <;> exact ⟨by decide, by decide, by decide, by decide⟩

theorem Fmt.width_of_fp {f : Fmt} {g : FpSpec} (h : f.fp = some g) : g.width = f.width := by
  cases f <;> cases h <;> rfl

theorem Fmt.decode_of_fp {f : Fmt} {g : FpSpec} (h : f.fp = some g) (c : Nat) : f.decode c = g.decode (c % 2 ^ g.width) := by
  cases f <;> cases h <;> rfl

theorem Fmt.conv_of_fp {f : Fmt} {g : FpSpec} (h : f.fp = some g) (mode : Rnd) (nonsat : Bool) (r : Nat) (x : Num) :
    f.conv mode nonsat r x = g.conv mode nonsat r x := by
  cases f <;> cases h <;> rfl

/-- R59 for the floating-point formats. -/
theorem Fmt.conv_decode_of_fp {f : Fmt} {g : FpSpec} (h : f.fp = some g) {c : Nat} (hc : c < 2 ^ f.width)
    (hfin : (f.decode c).isFin = true) (mode : Rnd) (nonsat : Bool) (r : Nat) :
    (f.conv mode nonsat r (f.decode c)).code = c := by
  have hcg : c < 2 ^ g.width := Fmt.width_of_fp h ▸ hc
  rw [Fmt.decode_of_fp h, Nat.mod_eq_of_lt hcg] at hfin ⊢
  rw [Fmt.conv_of_fp h, FpSpec.conv_decode (Fmt.fp_sound h) hcg hfin]

/-! ### INT8 codes (R57) -/

/-- An integer in range converts to its two's complement, without rounding. -/
theorem intConv_ofInt (w : Nat) (mode : Rnd) {i : Int} (hlo : -(2 ^ (w - 1)) ≤ i) (hhi : i ≤ 2 ^ (w - 1) - 1) :
    (intConv w mode (Num.ofInt i)).code = (i % 2 ^ w).toNat := by
  have hround : roundMul mode 0 i.natAbs 0 0 = i.natAbs := by simp [roundMul]
  have hval : (if decide (i < 0) = true then -((i.natAbs : Nat) : Int) else ((i.natAbs : Nat) : Int)) = i := by
    simp only [decide_eq_true_eq]
    split <;> omega
  simp only [Num.ofInt, intConv, hround, hval, if_neg (Int.not_lt.mpr hhi), if_neg (Int.not_lt.mpr hlo)]

/-- The two's complement of 8 bits and back. -/
theorem Fmt.conv_decode_int8 {c : Nat} (hc : c < 2 ^ 8) (mode : Rnd) (nonsat : Bool) (r : Nat) :
    (Fmt.int8.conv mode nonsat r (Fmt.int8.decode c)).code = c := by
  have hval : signedOf 8 c = if c < 128 then (c : Int) else (c : Int) - 256 := by
    simp only [signedOf, Nat.mod_eq_of_lt hc]; rfl
  have hrange : -(2 ^ (8 - 1)) ≤ signedOf 8 c ∧ signedOf 8 c ≤ 2 ^ (8 - 1) - 1 := by
    rw [hval]
    split <;> omega
  have hback : (signedOf 8 c % 2 ^ 8).toNat = c := by
    rw [hval]
    split <;> omega
  exact (intConv_ofInt 8 mode hrange.1 hrange.2).trans hback

/-! ### The exact sum (R157) -/

/-- The value of the sum `s × 2^q`; `z` is the sign of a zero. -/
def Num.ofSum (z : Bool) (s q : Int) : Num := if s = 0 then .fin z 0 q else .fin (decide (s < 0)) s.natAbs q

theorem Num.add_fin (a b : Bool) (m n : Nat) (e f : Int) :
    Num.add (.fin a m e) (.fin b n f) =
      Num.ofSum (a && b) (alignInt a m e (min e f) + alignInt b n f (min e f)) (min e f) := rfl

/-- A negative value aligns to a negative integer or zero, a positive one to a positive integer or zero. -/
theorem alignInt_sign (a : Bool) (m : Nat) (e q : Int) :
    (a = true → alignInt a m e q ≤ 0) ∧ (a = false → 0 ≤ alignInt a m e q) := by
  have hmag : (0 : Int) ≤ ((m * 2 ^ (e - q).toNat : Nat) : Int) := Int.natCast_nonneg _
  constructor
  · rintro rfl
    exact Int.neg_nonpos_of_nonneg hmag
  · rintro rfl
    exact hmag

/-- Alignment to a lower exponent, by way of one in between. -/
theorem alignInt_lower (a : Bool) (m : Nat) {e q r : Int} (hr : r ≤ q) (hq : q ≤ e) :
    alignInt a m e q * 2 ^ (q - r).toNat = alignInt a m e r := by
  have hexp : (e - r).toNat = (e - q).toNat + (q - r).toNat := by omega
  have hmag : ((m * 2 ^ (e - q).toNat : Nat) : Int) * 2 ^ (q - r).toNat = ((m * 2 ^ (e - r).toNat : Nat) : Int) := by
    rw [hexp, Nat.pow_add, ← Nat.mul_assoc, Int.natCast_mul _ (2 ^ (q - r).toNat), Int.natCast_pow]
    rfl
  cases a with
  | false => exact hmag
  | true => exact (Int.neg_mul _ _).trans (congrArg _ hmag)

/-- A sum aligns as the integer that it is. -/
theorem Num.ofSum_eq_fin (z : Bool) (s q : Int) : ∃ n m, Num.ofSum z s q = .fin n m q ∧
    n = (if s = 0 then z else decide (s < 0)) ∧ ∀ r, alignInt n m q r = s * 2 ^ (q - r).toNat := by
  by_cases h : s = 0
  · exact ⟨z, 0, by simp [Num.ofSum, h], by simp [h], fun r => by simp [alignInt, h]⟩
  · refine ⟨decide (s < 0), s.natAbs, by simp [Num.ofSum, h], by simp [h], fun r => ?_⟩
    by_cases hneg : s < 0
    · have habs : (s.natAbs : Int) = -s := by omega
      simp only [alignInt, hneg, decide_true, if_true, Int.natCast_mul, Int.natCast_pow, habs, Int.neg_mul, Int.neg_neg]
      rfl
    · have habs : (s.natAbs : Int) = s := by omega
      simp only [alignInt, hneg, decide_false, Bool.false_eq_true, if_false, Int.natCast_mul, Int.natCast_pow, habs]
      rfl

/-- Adding to a sum: the sign of a zero stays negative only where everything added was negative. -/
theorem Num.ofSum_add_fin {z : Bool} {s q : Int} (hz : z = true → s ≤ 0) (c : Bool) (k : Nat) (g : Int) :
    Num.add (Num.ofSum z s q) (.fin c k g) =
      Num.ofSum (z && c) (s * 2 ^ (q - min q g).toNat + alignInt c k g (min q g)) (min q g) := by
  obtain ⟨n, m, hfin, hn, halign⟩ := Num.ofSum_eq_fin z s q
  obtain ⟨hcneg, hcpos⟩ := alignInt_sign c k g (min q g)
  have hpow : (0 : Int) < 2 ^ (q - min q g).toNat := Int.pow_pos (by decide)
  rw [hfin, Num.add_fin, halign]
  generalize alignInt c k g (min q g) = t at *
  by_cases hsum : s * 2 ^ (q - min q g).toNat + t = 0
  · have hsign : (n && c) = (z && c) := by
      rcases Int.lt_trichotomy s 0 with hs | hs | hs
      · have : s * 2 ^ (q - min q g).toNat < 0 := Int.mul_neg_of_neg_of_pos hs hpow
        have hc : c = false := Bool.eq_false_iff.mpr fun h => by have := hcneg h; omega
        rw [hc, Bool.and_false, Bool.and_false]
      · rw [hn, if_pos hs]
      · have hz' : z = false := Bool.eq_false_iff.mpr fun h => by have := hz h; omega
        rw [hn, if_neg (Int.ne_of_gt hs), decide_eq_false (Int.not_lt.mpr (Int.le_of_lt hs)), hz']
    rw [hsign]
  · simp only [Num.ofSum, if_neg hsum]

/-- The sum of three finite values, in a form that treats them alike. -/
theorem Num.add_add_fin (a b c : Bool) (m n k : Nat) (e f g : Int) :
    Num.add (Num.add (.fin a m e) (.fin b n f)) (.fin c k g) =
      let q := min (min e f) g
      Num.ofSum (a && b && c) (alignInt a m e q + alignInt b n f q + alignInt c k g q) q := by
  have hz : (a && b) = true → alignInt a m e (min e f) + alignInt b n f (min e f) ≤ 0 := by
    intro h
    obtain ⟨ha, hb⟩ := Bool.and_eq_true_iff.mp h
    have := (alignInt_sign a m e (min e f)).1 ha
    have := (alignInt_sign b n f (min e f)).1 hb
    omega
  rw [Num.add_fin, Num.ofSum_add_fin hz, Int.add_mul,
    alignInt_lower a m (Int.min_le_left _ _) (Int.min_le_left _ _),
    alignInt_lower b n (Int.min_le_left _ _) (Int.min_le_right _ _)]

theorem Num.isFin_iff {x : Num} : x.isFin = true ↔ ∃ a m e, x = .fin a m e := by
  cases x <;> simp [Num.isFin]

theorem Num.add_comm_of_isFin {x y : Num} (hx : x.isFin = true) (hy : y.isFin = true) : Num.add x y = Num.add y x := by
  obtain ⟨a, m, e, rfl⟩ := Num.isFin_iff.mp hx
  obtain ⟨b, n, f, rfl⟩ := Num.isFin_iff.mp hy
  rw [Num.add_fin, Num.add_fin, Bool.and_comm, Int.min_comm, Int.add_comm]

/-- Two finite values may be added to a value in either order. -/
theorem Num.add_right_comm_of_isFin {x y : Num} (hx : x.isFin = true) (hy : y.isFin = true) (z : Num) :
    Num.add (Num.add z x) y = Num.add (Num.add z y) x := by
  obtain ⟨a, m, e, rfl⟩ := Num.isFin_iff.mp hx
  obtain ⟨b, n, f, rfl⟩ := Num.isFin_iff.mp hy
  cases z with
  | nan => rfl
  | inf c => rfl
  | fin c k g =>
    have hmin : min (min g e) f = min (min g f) e := by omega
    rw [Num.add_add_fin, Num.add_add_fin, Bool.and_right_comm, hmin]
    dsimp only
    rw [Int.add_right_comm]

/-- The sum of a row of finite values is the same in every order. -/
theorem Num.foldl_add_perm {x y : Num} {l k : List Num} (hp : (x :: l).Perm (y :: k))
    (hfin : ∀ z ∈ x :: l, z.isFin = true) : l.foldl Num.add x = k.foldl Num.add y := by
  have hcomm : ∀ {l' : List Num}, (∀ z ∈ l', z.isFin = true) →
      ∀ u ∈ l', ∀ v ∈ l', ∀ z, Num.add (Num.add z u) v = Num.add (Num.add z v) u :=
    fun h u hu v hv z => Num.add_right_comm_of_isFin (h u hu) (h v hv) z
  have hx := hfin x List.mem_cons_self
  have hl : ∀ z ∈ l, z.isFin = true := fun z hz => hfin z (List.mem_cons_of_mem _ hz)
  have hk : ∀ z ∈ k, z.isFin = true := fun z hz => hfin z (hp.mem_iff.mpr (List.mem_cons_of_mem _ hz))
  rcases List.mem_cons.mp (hp.mem_iff.mpr (List.mem_cons_self (a := y) (l := k))) with rfl | hy
  · exact hp.cons_inv.foldl_eq' (hcomm hl) y
  · obtain ⟨l', hl'⟩ : ∃ l', l.Perm (y :: l') := ⟨_, List.perm_cons_erase hy⟩
    have hk' : k.Perm (x :: l') :=
      (((hl'.cons x).trans (List.Perm.swap y x l')).symm.trans hp).cons_inv.symm
    calc l.foldl Num.add x = l'.foldl Num.add (Num.add x y) := hl'.foldl_eq' (hcomm hl) x
      _ = l'.foldl Num.add (Num.add y x) := by rw [Num.add_comm_of_isFin hx (hl y hy)]
      _ = k.foldl Num.add y := (hk'.foldl_eq' (hcomm hk) y).symm

/-! ### The obligation -/

/-- Settles O8: format by format the codes convert back, and the sum itself, not its rounding alone, is the same in every
order. -/
theorem numbersBehave : Obligations.NumbersBehave := by
  unfold Obligations.NumbersBehave
  refine ⟨fun f hf c hc hfin mode nonsat r => ?_, fun f mode nonsat r x y l k hp hfin => ?_⟩
  · simp only [List.mem_cons, List.not_mem_nil, or_false] at hf
    rcases hf with rfl | rfl | rfl | rfl | rfl | rfl
    case inr.inr.inl => exact Fmt.conv_decode_int8 hc mode nonsat r
    all_goals exact Fmt.conv_decode_of_fp rfl hc hfin mode nonsat r
  · rw [Num.foldl_add_perm hp hfin]

end Sys2Proof.Machine
end

section
/-! PROOF. The vectors of Scree and its test registers (R64, R74). -/
namespace Sys2Proof.Machine

/-- The output of Scree fits its field (R63). -/
theorem scree_lt (seed : W64) (step tensor : W32) (elem : Nat) : scree seed step tensor elem < 2 ^ 16 := fld_lt _ 31 16

/-- `TEST_OUT` with a result: `READY` and the value (R74). -/
theorem screeResult_fields {r : Nat} (hr : r < 2 ^ 16) :
    bitOf (w32 (2 ^ 31 + r)) 31 = true ∧ fld (w32 (2 ^ 31 + r)) 15 0 = r := by
  have hw : (w32 (2 ^ 31 + r)).toNat = 2 ^ 31 + r := Nat.mod_eq_of_lt (by omega)
  refine ⟨?_, ?_⟩
  · simp only [bitOf, hw, Nat.testBit_eq_decide_div_mod_eq, decide_eq_true_eq]; omega
  · simp only [fld, bits, hw, Nat.shiftRight_zero]; omega

theorem exec_screeTestDone (s : State) (h : s.flag .scl 0x120 31 = false) :
    exec .screeTestDone s = .next (s.setReg .scl 0x120 (w32 (2 ^ 31 +
      scree (join64 (s.reg .scl 0x108) (s.reg .scl 0x104)) (s.reg .scl 0x110) (s.reg .scl 0x114)
        ((s.reg .scl 0x118).toNat + (s.reg .scl 0x11C).toNat * 2 ^ 32)))) := by
  change execScreeTestDone s = _
  simp only [execScreeTestDone, h]
  rfl

/-- The test inputs after a write of `TEST_ELEM_HI` (R74). -/
def State.screeTestInputs (s : State) (v : W32) : State :=
  (s.setReg .scl 0x118 (s.heldWord (Page.base .scl + 0x118))).setReg .scl 0x11C (w32 (fld v 7 0))

/-- The result while a computation in progress is disturbed: unpredictable (R74). -/
def State.screeDisturbed (s : State) : State :=
  if !(s.flag .scl 0x120 31) then (s.setField .scl 0x120 15 0 (Config.freeWord s.free 0x120).toNat).fresh else s

theorem exec_screeTestStart (s : State) (v : W32) (hr : s.ready = true) :
    exec (.screeTestStart v) s = .next ((s.screeTestInputs v).screeDisturbed.setFlag .scl 0x120 31 false) := by
  change execScreeTestStart v s = _
  simp only [execScreeTestStart, hr]
  rfl

/-- The unpredictable result touches no register but `TEST_OUT`. -/
theorem State.reg_screeDisturbed (s : State) {j : Nat} (h : j ≠ 0x120) : s.screeDisturbed.reg .scl j = s.reg .scl j := by
  unfold State.screeDisturbed
  split
  · rw [State.reg_fresh, State.reg_setField_ne _ _ _ _ (by omega)]
  · rfl

theorem State.reg_screeTestInputs (s : State) (v : W32) {j : Nat} (h0 : j ≠ 0x118) (h1 : j ≠ 0x11C) :
    (s.screeTestInputs v).reg .scl j = s.reg .scl j := by
  rw [State.screeTestInputs, State.reg_setReg_off _ _ h1, State.reg_setReg_off _ _ h0]

/-- The inputs that a write of `TEST_ELEM_HI` leaves, `READY` clear, and the old result where none was being computed (R74). -/
theorem exec_screeTestStart_spec (s : State) (v : W32) (hr : s.ready = true) :
    ∃ t, exec (.screeTestStart v) s = .next t ∧ t.flag .scl 0x120 31 = false ∧
      t.reg .scl 0x118 = s.heldWord (Page.base .scl + 0x118) ∧ t.reg .scl 0x11C = w32 (fld v 7 0) ∧
      (s.flag .scl 0x120 31 = true → t.field .scl 0x120 15 0 = s.field .scl 0x120 15 0) := by
  have hin : (s.screeTestInputs v).reg .scl 0x120 = s.reg .scl 0x120 := s.reg_screeTestInputs v (by decide) (by decide)
  refine ⟨_, exec_screeTestStart s v hr, State.flag_setFlag_same _ _ _ _ _ (by decide), ?_, ?_, fun hready => ?_⟩
  · rw [State.reg_setFlag_ne _ _ _ (by decide), State.reg_screeDisturbed _ (by decide), State.screeTestInputs,
      State.reg_setReg_off _ _ (by decide), State.reg_setReg_same]
  · rw [State.reg_setFlag_ne _ _ _ (by decide), State.reg_screeDisturbed _ (by decide), State.screeTestInputs,
      State.reg_setReg_same]
  · have hidle : (s.screeTestInputs v).screeDisturbed = s.screeTestInputs v := by
      rw [State.flag, ← hin] at hready
      simp [State.screeDisturbed, State.flag, hready]
    rw [hidle, State.field, State.setFlag, State.reg_setReg_same, fld_setBit_ne _ _ _ _ _ (by decide) (by decide), hin]
    rfl

/-- The result comes with `READY`, and nothing but registers changes (R74). -/
theorem exec_screeTestDone_spec (s : State) (h : s.flag .scl 0x120 31 = false) :
    ∃ t, exec .screeTestDone s = .next t ∧ t.flag .scl 0x120 31 = true ∧
      t.field .scl 0x120 15 0 = scree (join64 (s.reg .scl 0x108) (s.reg .scl 0x104)) (s.reg .scl 0x110) (s.reg .scl 0x114)
        ((s.reg .scl 0x118).toNat + (s.reg .scl 0x11C).toNat * 2 ^ 32) ∧ t = { s with io := t.io } := by
  refine ⟨_, exec_screeTestDone s h, ?_, ?_, rfl⟩
  · rw [State.flag, State.reg_setReg_same]
    exact (screeResult_fields (scree_lt _ _ _ _)).1
  · rw [State.field, State.reg_setReg_same]
    exact (screeResult_fields (scree_lt _ _ _ _)).2

/-- Settles O9: the vectors of R64 by evaluation, the test registers by the two rules above. -/
theorem screeVectors : Obligations.ScreeVectors := by
  unfold Obligations.ScreeVectors
  refine ⟨by decide, by decide, by decide, by decide, fun s v => ⟨exec_screeTestStart_spec s v, exec_screeTestDone_spec s⟩⟩

end Sys2Proof.Machine
end

section
/-! PROOF. Writes of memory and poison (R203), and host writes of the tables of the hashed window (R67, R145, R337, R346). -/
namespace Sys2Proof.Machine

/-! ### What a write of memory keeps -/

theorem State.WritesMem.free_eq {s t : State} (h : s.WritesMem t) : t.free = s.free := by rw [State.WritesMem] at h; rw [h]

theorem State.WritesMem.io_eq {s t : State} (h : s.WritesMem t) : t.io = s.io := by rw [State.WritesMem] at h; rw [h]

theorem State.WritesMem.astray_eq {s t : State} (h : s.WritesMem t) : t.mem.astray = s.mem.astray := by
  rw [State.WritesMem] at h; rw [h]

theorem State.WritesMem.inSpill_eq {s t : State} (h : s.WritesMem t) (g : Nat) : t.inSpill g = s.inSpill g := by
  rw [State.WritesMem] at h; rw [h]; rfl

theorem State.WritesMem.granStale_eq {s t : State} (h : s.WritesMem t) (g : Nat) :
    t.granStale g = (decide ((5120 - s.mem.winStale) * 2 ^ 24 ≤ (g * 64) % 2 ^ 37) && !(t.mem.winFresh.has g) &&
      !(s.inSpill g)) := by
  rw [State.WritesMem] at h; rw [h]; rfl

theorem State.WritesMem.only_mem {s t : State} (h : s.WritesMem t) : t = { s with mem := t.mem } := by
  rw [State.WritesMem] at h; rw [h]

theorem State.WritesMem.windowKey_eq {s t : State} (h : s.WritesMem t) (o : Nat) : t.windowKey o = s.windowKey o := by
  simp only [State.windowKey, State.winFrames, State.field, State.reg, h.io_eq]

/-! ### Settling a granule (R177, R198) -/

theorem State.granFree_eq_false_iff (s : State) (g : Nat) :
    s.granFree g = false ↔ s.mem.freed.has g = false ∧ s.granStale g = false ∧ s.mem.astray.has (g / 2 ^ 31) = false := by
  simp only [State.granFree, Bool.or_eq_false_iff, and_assoc]

theorem State.settle_of_not_granFree (s : State) {g : Nat} (h : s.granFree g = false) : s.settle g = s := by
  simp [State.settle, h]

/-- What settling a granule with free contents does: bytes that nothing has written stand for those that a read gave. -/
theorem State.settle_of_granFree (s : State) {g : Nat} (h : s.granFree g = true) :
    s.settle g = { s with mem := { s.mem with
      hbm := s.mem.hbm.filter fun e => e.1 / 64 != g
      draws := Table.set (fun _ => 0) s.mem.draws g (s.free + 1)
      freed := NatSet.del g s.mem.freed
      winFresh := if s.granStale g then NatSet.add g s.mem.winFresh else s.mem.winFresh } } := if_pos h

theorem State.freed_settle (s : State) (g j : Nat) :
    (s.settle g).mem.freed.has j = (decide (j ≠ g) && s.mem.freed.has j) := by
  cases h : s.granFree g with
  | true => rw [s.settle_of_granFree h]; exact NatSet.has_del _ _ _
  | false =>
    obtain ⟨hfreed, -, -⟩ := (s.granFree_eq_false_iff g).mp h
    rw [s.settle_of_not_granFree h]
    by_cases hj : j = g <;> simp [hj, hfreed]

theorem State.winFresh_settle (s : State) (g j : Nat) :
    (s.settle g).mem.winFresh.has j = (s.mem.winFresh.has j || (decide (j = g) && s.granStale g)) := by
  cases h : s.granFree g with
  | true =>
    rw [s.settle_of_granFree h]
    cases hstale : s.granStale g with
    | true => simp [Bool.or_comm]
    | false => simp
  | false =>
    obtain ⟨-, hstale, -⟩ := (s.granFree_eq_false_iff g).mp h
    simp [s.settle_of_not_granFree h, hstale]

theorem State.granStale_settle (s : State) (g j : Nat) :
    (s.settle g).granStale j = (decide (j ≠ g) && s.granStale j) := by
  rw [(s.settle_writes g).granStale_eq, s.winFresh_settle]
  by_cases hj : j = g
  · subst hj
    cases hstale : s.granStale j with
    | true => simp
    | false => rw [(State.WritesMem.refl s).granStale_eq] at hstale; simpa using hstale
  · rw [(State.WritesMem.refl s).granStale_eq j]
    simp [hj]

/-- A settled granule reads free only while the transfers of its stack are unpredictable (R18, R42). -/
theorem State.granFree_settle (s : State) (g j : Nat) :
    (s.settle g).granFree j = if j = g then s.mem.astray.has (g / 2 ^ 31) else s.granFree j := by
  rw [State.granFree, s.freed_settle, s.granStale_settle, (s.settle_writes g).astray_eq]
  by_cases hj : j = g
  · simp [hj]
  · simp [hj, State.granFree]

/-- The byte of a granule that nothing has written since it was settled. -/
theorem State.hbmDefault_of_draw (s : State) {k n : Nat}
    (h : Table.get (fun _ => 0) s.mem.draws (k / 64) = n + 1) : s.hbmDefault k = Config.freeByte n k := by
  simp [State.hbmDefault, State.drawOf, h]

theorem State.hbmDefault_settle_ne (s : State) {g k : Nat} (h : k / 64 ≠ g) : (s.settle g).hbmDefault k = s.hbmDefault k := by
  cases hfree : s.granFree g with
  | false => rw [s.settle_of_not_granFree hfree]
  | true =>
    have hdraw : Table.get (fun _ => 0) (s.settle g).mem.draws (k / 64) = Table.get (fun _ => 0) s.mem.draws (k / 64) := by
      rw [s.settle_of_granFree hfree]
      exact Table.get_set_ne (fun _ => 0) s.mem.draws h (s.free + 1)
    have hfill : (s.settle g).mem.fill = s.mem.fill := by rw [s.settle_of_granFree hfree]
    simp only [State.hbmDefault, State.drawOf, hdraw, hfill, (s.settle_writes g).inSpill_eq]

theorem Table.find_filter_key {α : Type} (p : Nat → Bool) (k : Nat) (t : Table α) :
    Table.find k (t.filter fun e => p e.1) = if p k then Table.find k t else none := by
  induction t with
  | nil => simp
  | cons e t ih =>
    by_cases he : e.1 = k
    · cases hp : p k <;> simp [he, hp, Table.find_cons, ih]
    · cases hp : p e.1 <;> simp [he, hp, Table.find_cons, ih]

/-- Settling a granule changes no byte that a read gives (R177, R198). -/
theorem State.hbmByte_settle (s : State) (g k : Nat) : (s.settle g).hbmByte k = s.hbmByte k := by
  cases hfree : s.granFree g with
  | false => rw [s.settle_of_not_granFree hfree]
  | true =>
    have hhbm : (s.settle g).mem.hbm = s.mem.hbm.filter fun e => e.1 / 64 != g := by rw [s.settle_of_granFree hfree]
    rw [State.hbmByte, State.hbmByte, s.granFree_settle, (s.settle_writes g).free_eq, hhbm]
    by_cases hk : k / 64 = g
    · have hdraw : Table.get (fun _ => 0) (s.settle g).mem.draws (k / 64) = s.free + 1 := by
        rw [s.settle_of_granFree hfree, hk]
        exact Table.get_set_same (fun _ => 0) s.mem.draws g (s.free + 1)
      rw [if_pos hk, hk, if_pos hfree, Table.find_filter_key (fun k => k / 64 != g), hk, bne_self_eq_false,
        if_neg Bool.false_ne_true, Option.getD_none, State.hbmDefault_of_draw _ hdraw, ite_self]
    · rw [if_neg hk, Table.find_filter_key (fun k => k / 64 != g), if_pos (bne_iff_ne.mpr hk), s.hbmDefault_settle_ne hk]

theorem State.granPoison_settle (s : State) (g j : Nat) : (s.settle g).granPoison j = s.granPoison j := by
  cases hfree : s.granFree g with
  | false => rw [s.settle_of_not_granFree hfree]
  | true => rw [s.settle_of_granFree hfree]; rfl

/-! ### Writes of one granule (R203) -/

theorem State.writeGran_refused (s : State) {g : Nat} {bs : List (Nat × Byte)} (hp : s.granPoison g = true)
    (hlen : bs.length < 64) : s.writeGran g bs = s := by
  simp [State.writeGran, hp, hlen]

/-- A write takes effect where the granule is not poisoned, or where it covers the granule (R203). -/
def State.Takes (s : State) (g : Nat) (bs : List (Nat × Byte)) : Prop := s.granPoison g = false ∨ 64 ≤ bs.length

/-- Marking the frame changes the marks and what was touched, nothing that a read gives (R377, R426). -/
theorem State.markFrame_eq (s : State) (g : Nat) : s.markFrame g =
    { s with mem := { s.mem with touched := (s.markFrame g).mem.touched, marked := (s.markFrame g).mem.marked } } := by
  unfold State.markFrame Mem.touch
  dsimp only
  split <;> split <;> rfl

theorem State.writeGran_of_takes {s : State} {g : Nat} {bs : List (Nat × Byte)} (h : s.Takes g bs) :
    s.writeGran g bs = { s.settle g with mem := { (s.settle g).mem with
      touched := ((s.settle g).markFrame g).mem.touched
      marked := ((s.settle g).markFrame g).mem.marked
      hbm := putBytes (s.settle g).mem.hbm bs
      poison := NatSet.del g (s.settle g).mem.poison
      freed := if (s.settle g).mem.astray.has (g / 2 ^ 31) then NatSet.add g (s.settle g).mem.freed
        else (s.settle g).mem.freed } } := by
  have hno : ¬(s.granPoison g && bs.length < 64) = true := by
    rcases h with h | h
    · simp [h]
    · simp [Nat.not_lt.mpr h]
  rw [State.writeGran, if_neg hno]
  dsimp only
  rw [State.markFrame_eq]

/-- What a granule reads as, free or not, is after a write what it was after settling. -/
theorem State.granFree_writeGran {s : State} {g : Nat} {bs : List (Nat × Byte)} (h : s.Takes g bs) (j : Nat) :
    (s.writeGran g bs).granFree j = (s.settle g).granFree j := by
  have hastray := (s.settle_writes g).astray_eq
  have hstale : (s.writeGran g bs).granStale j = (s.settle g).granStale j := by rw [State.writeGran_of_takes h]; rfl
  by_cases hj : j = g ∧ s.mem.astray.has (g / 2 ^ 31) = true
  · obtain ⟨rfl, ha⟩ := hj
    simp only [State.granFree, (s.writeGran_writes _ bs).astray_eq, hastray, ha, Bool.or_true]
  · have hfreed : (s.writeGran g bs).mem.freed.has j = (s.settle g).mem.freed.has j := by
      rw [State.writeGran_of_takes h, hastray]
      cases ha : s.mem.astray.has (g / 2 ^ 31) with
      | false => simp
      | true => simp [show j ≠ g from fun e => hj ⟨e, ha⟩]
    rw [State.granFree, hfreed, hstale, (s.writeGran_writes g bs).astray_eq, ← hastray]
    rfl

theorem State.hbmByte_writeGran {s : State} {g : Nat} {bs : List (Nat × Byte)} (h : s.Takes g bs) (k : Nat) :
    (s.writeGran g bs).hbmByte k = if (s.settle g).granFree (k / 64) then Config.freeByte s.free k
      else (Table.find k (putBytes (s.settle g).mem.hbm bs)).getD ((s.settle g).hbmDefault k) := by
  have hhbm : (s.writeGran g bs).mem.hbm = putBytes (s.settle g).mem.hbm bs := by rw [State.writeGran_of_takes h]
  have hdefault : (s.writeGran g bs).hbmDefault k = (s.settle g).hbmDefault k := by rw [State.writeGran_of_takes h]; rfl
  rw [State.hbmByte, State.granFree_writeGran h, (s.writeGran_writes g bs).free_eq, hhbm, hdefault]

theorem find_putBytes_ne {k : Nat} (bs : List (Nat × Byte)) (h : ∀ b ∈ bs, k ≠ b.1) (t : Table Byte) :
    Table.find k (putBytes t bs) = Table.find k t := by
  induction bs generalizing t with
  | nil => rfl
  | cons b bs ih =>
    rw [putBytes, List.foldl_cons, ← putBytes, ih (fun c hc => h c (List.mem_cons_of_mem _ hc)),
      Table.find_put_ne _ (h b List.mem_cons_self)]

theorem find_putBytes_mem {k : Nat} {v : Byte} {bs : List (Nat × Byte)} (hnd : (bs.map Prod.fst).Nodup) (h : (k, v) ∈ bs)
    (t : Table Byte) : Table.find k (putBytes t bs) = some v := by
  induction bs generalizing t with
  | nil => cases h
  | cons b bs ih =>
    obtain ⟨hb, hnd'⟩ := List.nodup_cons.mp hnd
    rw [putBytes, List.foldl_cons, ← putBytes]
    rcases List.mem_cons.mp h with rfl | h
    · rw [find_putBytes_ne bs fun c hc e => hb (List.mem_map.mpr ⟨c, hc, e.symm⟩), Table.find_put_same]
    · exact ih hnd' h _

/-- A write leaves every byte beside it as it reads. -/
theorem State.hbmByte_writeGran_ne {s : State} {g : Nat} {bs : List (Nat × Byte)} {k : Nat} (hk : ∀ b ∈ bs, k ≠ b.1) :
    (s.writeGran g bs).hbmByte k = s.hbmByte k := by
  by_cases h : s.Takes g bs
  · rw [State.hbmByte_writeGran h, find_putBytes_ne bs hk, ← s.hbmByte_settle g k, State.hbmByte,
      (s.settle_writes g).free_eq]
  · simp only [State.Takes, not_or, Bool.not_eq_false, Nat.not_le] at h
    rw [s.writeGran_refused h.1 h.2]

/-- What a write puts into its granule reads back, unless the transfers of its stack are unpredictable (R18, R42). -/
theorem State.hbmByte_writeGran_mem {s : State} {bs : List (Nat × Byte)} {k : Nat} {v : Byte} (h : s.Takes (k / 64) bs)
    (hnd : (bs.map Prod.fst).Nodup) (hk : (k, v) ∈ bs) (hastray : s.mem.astray = []) :
    (s.writeGran (k / 64) bs).hbmByte k = v := by
  have hfree : (s.settle (k / 64)).granFree (k / 64) = false := by rw [s.granFree_settle, if_pos rfl, hastray]; rfl
  rw [State.hbmByte_writeGran h, hfree, if_neg Bool.false_ne_true, find_putBytes_mem hnd hk, Option.getD_some]

/-- A write that takes effect clears the poison of its granule (R203). -/
theorem State.granPoison_writeGran {s : State} {g : Nat} {bs : List (Nat × Byte)} (h : s.Takes g bs) :
    (s.writeGran g bs).granPoison g = false := by
  rw [State.writeGran_of_takes h]
  simp [State.granPoison]

/-! ### Writes of consecutive bytes within a granule -/

/-- The bytes of a write with their keys. -/
def cells (key : Nat) (bs : List Byte) : List (Nat × Byte) :=
  (List.range bs.length).zip bs |>.map fun p => (key + p.1, p.2)

@[simp] theorem length_cells (key : Nat) (bs : List Byte) : (cells key bs).length = bs.length := by simp [cells]

theorem getElem_cells (key : Nat) (bs : List Byte) {i : Nat} (h : i < (cells key bs).length) :
    (cells key bs)[i] = (key + i, bs[i]'(length_cells key bs ▸ h)) := by simp [cells]

theorem mem_cells {key : Nat} {bs : List Byte} {c : Nat × Byte} :
    c ∈ cells key bs ↔ ∃ i, ∃ h : i < bs.length, c = (key + i, bs[i]) := by
  simp only [List.mem_iff_getElem, getElem_cells, length_cells, eq_comm]

theorem nodup_cells (key : Nat) (bs : List Byte) : ((cells key bs).map Prod.fst).Nodup := by
  have hkeys : (cells key bs).map Prod.fst = (List.range bs.length).map (key + ·) :=
    List.ext_getElem (by simp) fun i _ _ => by simp [getElem_cells]
  rw [hkeys]
  exact List.pairwise_map.mpr (List.nodup_range.imp fun h e => h (Nat.add_left_cancel e))

theorem State.hbmPut_of_granule (s : State) {g : Nat} {bs : List (Nat × Byte)} (hne : bs ≠ [])
    (h : ∀ b ∈ bs, b.1 / 64 = g) : s.hbmPut bs = s.writeGran g bs := by
  obtain ⟨b, bs', rfl⟩ := List.exists_cons_of_ne_nil hne
  have hgrans : ((b :: bs').map fun b => b.1 / 64).eraseDups = [g] := by
    have hrest : (bs'.map fun b => b.1 / 64).filter (fun j => !j == g) = [] := by
      simpa using fun _ k v hv e => e ▸ h (k, v) (List.mem_cons_of_mem _ hv)
    rw [List.map_cons, h b List.mem_cons_self, List.eraseDups_cons, hrest, List.eraseDups_nil]
  have hall : (b :: bs').filter (fun c => c.1 / 64 == g) = b :: bs' := List.filter_eq_self.mpr fun c hc => by simp [h c hc]
  rw [State.hbmPut, hgrans, List.foldl_cons, List.foldl_nil, hall]

/-- A write of consecutive bytes within a granule is one write of it. -/
theorem State.hbmWrite_of_granule (s : State) {key : Nat} {bs : List Byte} (hg : key / 64 = (key + bs.length - 1) / 64)
    (hne : bs ≠ []) : s.hbmWrite key bs = s.writeGran (key / 64) (cells key bs) := by
  have hpos := List.length_pos_iff.mpr hne
  have hcells : cells key bs ≠ [] := List.ne_nil_of_length_pos (by rwa [length_cells])
  refine s.hbmPut_of_granule hcells fun c hc => ?_
  obtain ⟨i, hi, rfl⟩ := mem_cells.mp hc
  dsimp only
  omega

/-- The bytes beside the range of a write read as before. -/
theorem State.hbmByte_hbmWrite_outside (s : State) {key : Nat} {bs : List Byte}
    (hg : key / 64 = (key + bs.length - 1) / 64) (hne : bs ≠ []) {a : Nat} (ha : a < key ∨ key + bs.length ≤ a) :
    (s.hbmWrite key bs).hbmByte a = s.hbmByte a := by
  rw [s.hbmWrite_of_granule hg hne]
  refine State.hbmByte_writeGran_ne fun c hc => ?_
  obtain ⟨i, hi, rfl⟩ := mem_cells.mp hc
  dsimp only
  omega

/-- A write that takes effect reads back (R203), while no stack's transfers are unpredictable. -/
theorem State.hbmRead_hbmWrite (s : State) {key : Nat} {bs : List Byte} (hg : key / 64 = (key + bs.length - 1) / 64)
    (hne : bs ≠ []) (h : s.granPoison (key / 64) = false ∨ 64 ≤ bs.length) (hastray : s.mem.astray = []) :
    (s.hbmWrite key bs).hbmRead key bs.length = bs := by
  refine List.ext_getElem (by simp [State.hbmRead]) fun i _ hi => ?_
  have hki : (key + i) / 64 = key / 64 := by omega
  have htakes : s.Takes ((key + i) / 64) (cells key bs) := by rwa [State.Takes, hki, length_cells]
  have hbyte := State.hbmByte_writeGran_mem htakes (nodup_cells key bs) (mem_cells.mpr ⟨i, hi, rfl⟩) hastray
  simp only [State.hbmRead, List.getElem_map, List.getElem_range]
  rw [s.hbmWrite_of_granule hg hne, ← hki, hbyte]

/-! ### Words of the hashed window (R174) -/

theorem length_leBytes (n x : Nat) : (leBytes n x).length = n := by
  induction n generalizing x with
  | zero => rfl
  | succ n ih => simp [leBytes, ih]

theorem leNat_leBytes (n x : Nat) : leNat (leBytes n x) = x % 256 ^ n := by
  induction n generalizing x with
  | zero => simp [leBytes, leNat, Nat.mod_one]
  | succ n ih => rw [leBytes, leNat, ih, Nat.pow_succ', Nat.mod_mul, BitVec.toNat_ofNat]

/-- The bytes of a window word follow one another in HBM. -/
theorem State.windowKey_add (s : State) {o i : Nat} (ho : o % 4 = 0) (hi : i < 4) :
    s.windowKey (o + i) = s.windowKey o + i := by
  have hdiv : (o + i) / 256 = o / 256 := by omega
  have hmod : (o + i) % 256 = o % 256 + i := by omega
  simp only [State.windowKey, memKey, hdiv, hmod]
  omega

/-- A window word lies in one granule. -/
theorem State.windowKey_granule (s : State) {o : Nat} (ho : o % 4 = 0) : s.windowKey o / 64 = (s.windowKey o + 4 - 1) / 64 := by
  simp only [State.windowKey, memKey]
  omega

theorem State.setWinWord_eq_hbmWrite (s : State) {o : Nat} (ho : o % 4 = 0) (v : W32) :
    s.setWinWord o v = s.hbmWrite (s.windowKey o) (leBytes 4 v.toNat) := by
  rw [State.setWinWord, State.winWrite, State.hbmWrite]
  refine congrArg s.hbmPut (List.map_congr_left fun p hp => ?_)
  have hi := List.mem_range.mp (List.of_mem_zip hp).1
  rw [length_leBytes] at hi
  rw [s.windowKey_add ho hi]

theorem State.winRead_eq_hbmRead (s : State) {o : Nat} (ho : o % 4 = 0) : s.winRead o 4 = s.hbmRead (s.windowKey o) 4 :=
  List.map_congr_left fun i hi => by rw [s.windowKey_add ho (List.mem_range.mp hi)]

/-- A window word that is not poisoned reads back as it was written. -/
theorem State.winWord_setWinWord (s : State) {o : Nat} (ho : o % 4 = 0) (v : W32) (hp : s.winPoison o = false)
    (hastray : s.mem.astray = []) : (s.setWinWord o v).winWord o = v := by
  have hlen := length_leBytes 4 v.toNat
  have hread := s.hbmRead_hbmWrite (key := s.windowKey o) (bs := leBytes 4 v.toNat)
    (by rw [hlen]; exact s.windowKey_granule ho) (List.ne_nil_of_length_pos (by omega)) (.inl hp) hastray
  rw [hlen] at hread
  rw [State.winWord, State.winRead_eq_hbmRead _ ho, (s.setWinWord_writes o v).windowKey_eq, s.setWinWord_eq_hbmWrite ho,
    hread, leNat_leBytes]
  apply BitVec.eq_of_toNat_eq
  have := v.isLt
  simp only [w32, BitVec.toNat_ofNat]
  omega

/-- A write of a window word leaves every byte beside it as it reads. -/
theorem State.hbmByte_setWinWord_ne (s : State) {o : Nat} (ho : o % 4 = 0) (v : W32) {a : Nat}
    (ha : ∀ i < 4, a ≠ s.windowKey (o + i)) : (s.setWinWord o v).hbmByte a = s.hbmByte a := by
  have hlen := length_leBytes 4 v.toNat
  have hout : a < s.windowKey o ∨ s.windowKey o + 4 ≤ a := by
    refine Decidable.byContradiction fun hin => ?_
    have hi : a - s.windowKey o < 4 := by omega
    have hne := ha _ hi
    rw [s.windowKey_add ho hi] at hne
    omega
  rw [s.setWinWord_eq_hbmWrite ho]
  exact s.hbmByte_hbmWrite_outside (by rw [hlen]; exact s.windowKey_granule ho) (List.ne_nil_of_length_pos (by omega))
    (by rwa [hlen])

/-! ### Host writes of the tables (R67, R145, R337, R346) -/

theorem State.tableWord_writes (s : State) (o mask : Nat) (v : W32) : s.WritesMem (s.tableWord o mask v) := by
  unfold State.tableWord
  split
  · exact State.WritesMem.refl s
  · exact s.setWinWord_writes _ _

/-- A word of a table takes the bits that its layout lets software write, and no other byte of memory changes. -/
theorem State.tableWord_spec (s : State) {o : Nat} (mask : Nat) (v : W32) (ho : o % 4 = 0) (hp : s.winPoison o = false) :
    let t := s.tableWord o mask v
    t = { s with mem := t.mem } ∧ (∀ a, (∀ i < 4, a ≠ s.windowKey (o + i)) → t.hbmByte a = s.hbmByte a) ∧
      (s.mem.astray = [] → mask ≠ 0 → t.winWord o = v &&& w32 mask) ∧ (mask = 0 → t = s) := by
  refine ⟨(s.tableWord_writes o mask v).only_mem, fun a ha => ?_, fun hastray hmask => ?_, fun hmask => if_pos hmask⟩
  · rw [State.tableWord]
    split
    · rfl
    · exact s.hbmByte_setWinWord_ne ho _ ha
  · rw [State.tableWord, if_neg hmask]
    exact s.winWord_setWinWord ho _ hp hastray

theorem State.tableWrite_narrow (s : State) (base size x : Nat) (mask : Nat → Nat) (v : W64) (hr : s.ready = true)
    (hw : s.windowOk = true) :
    s.tableWrite base size x mask false v = s.tableWord (base + x) (mask (x % size)) (lo32 v) := by
  simp [State.tableWrite, hr, hw]

section
variable (s : State) {o : Nat} (wide : Bool) (v : W64)

theorem exec_scaleTableWrite_outside (ho : o < 2 ^ 23) (hstep : s.stepOpen = false) :
    exec (.scaleTableWrite (BitVec.ofNat 23 o) wide v) s = .next (s.tableWrite (scaleOff 0) 0x80 o scaleMask wide v) := by
  change execScaleTableWrite _ _ _ _ = _
  have hoff : (BitVec.ofNat 23 o).toNat = o := Nat.mod_eq_of_lt ho
  simp only [execScaleTableWrite, hstep, hoff, Bool.and_false, Bool.false_eq_true, if_false]

theorem exec_normTableWrite_outside (ho : o < 2 ^ 20) (hstep : s.stepOpen = false) :
    exec (.normTableWrite (BitVec.ofNat 20 o) wide v) s = .next (s.tableWrite (normOff 0) 0x100 o normMask wide v) := by
  change execNormTableWrite _ _ _ _ = _
  have hoff : (BitVec.ofNat 20 o).toNat = o := Nat.mod_eq_of_lt ho
  simp only [execNormTableWrite, hstep, hoff, Bool.and_false, Bool.false_eq_true, if_false]

theorem exec_noiseTableWrite_outside (ho : o < 2 ^ 20) (hstep : s.stepOpen = false) :
    exec (.noiseTableWrite (BitVec.ofNat 20 o) wide v) s = .next (s.tableWrite (noiseOff 0) 0x100 o noiseMask wide v) := by
  change execNoiseTableWrite _ _ _ _ = _
  have hoff : (BitVec.ofNat 20 o).toNat = o := Nat.mod_eq_of_lt ho
  simp only [execNoiseTableWrite, hstep, hoff, Bool.and_false, Bool.false_eq_true, if_false]

theorem exec_expertTableWrite_outside (ho : o < 2 ^ 16) (hstep : s.stepOpen = false) :
    exec (.expertTableWrite (BitVec.ofNat 16 o) wide v) s = .next (s.tableWrite expertOff 0x40 o expertMask wide v) := by
  change execExpertTableWrite _ _ _ _ = _
  have hoff : (BitVec.ofNat 16 o).toNat = o := Nat.mod_eq_of_lt ho
  simp only [execExpertTableWrite, hstep, hoff, Bool.and_false, Bool.false_eq_true, if_false]

/-- Between OPEN and CLOSED of a step each table records the write and ignores it (R67, R145, R337, R346). -/
theorem exec_tableWrite_inStep (hr : s.ready = true) (hstep : s.stepOpen = true) :
    exec (.scaleTableWrite (BitVec.ofNat 23 o) wide v) s = .next (s.setErr .scl 2) ∧
      exec (.normTableWrite (BitVec.ofNat 20 o) wide v) s = .next (s.setErr .nrm 0) ∧
      exec (.noiseTableWrite (BitVec.ofNat 20 o) wide v) s = .next (s.setErr .nse 0) ∧
      exec (.expertTableWrite (BitVec.ofNat 16 o) wide v) s = .next (s.event (.cfl 0) 0x0A 1) := by
  refine ⟨?_, ?_, ?_, ?_⟩
  · change execScaleTableWrite _ _ _ _ = _
    simp [execScaleTableWrite, hr, hstep]
  · change execNormTableWrite _ _ _ _ = _
    simp [execNormTableWrite, hr, hstep]
  · change execNoiseTableWrite _ _ _ _ = _
    simp [execNoiseTableWrite, hr, hstep]
  · change execExpertTableWrite _ _ _ _ = _
    simp [execExpertTableWrite, hr, hstep]

end

/-- A command that writes one word of a table does what the word's layout says. -/
theorem tableCommand_spec (s : State) {i : Instr} {base size o : Nat} {mask : Nat → Nat} {v : W64}
    (hexec : exec i s = .next (s.tableWrite base size o mask false v)) (hr : s.ready = true) (hw : s.windowOk = true)
    (hbase : base % 4 = 0) (ho : o % 4 = 0) (hp : s.winPoison (base + o) = false) :
    ∃ t, exec i s = .next t ∧ t = { s with mem := t.mem } ∧
      (∀ a, (∀ i < 4, a ≠ s.windowKey (base + o + i)) → t.hbmByte a = s.hbmByte a) ∧
      (s.mem.astray = [] → mask (o % size) ≠ 0 → t.winWord (base + o) = lo32 v &&& w32 (mask (o % size))) ∧
      (mask (o % size) = 0 → t = s) := by
  rw [s.tableWrite_narrow base size o mask v hr hw] at hexec
  exact ⟨_, hexec, s.tableWord_spec (mask (o % size)) (lo32 v) (by omega) hp⟩

/-! ### The obligation -/

/-- Settles O10: each table command writes one word by its layout, and a write of memory is one write of its granule. -/
theorem memoryAndTableWrites : Obligations.MemoryAndTableWrites := by
  unfold Obligations.MemoryAndTableWrites
  refine ⟨fun s v o hr ho => ⟨fun x hx => ?_, fun hstep wide => exec_tableWrite_inStep s wide v hr hstep⟩,
    fun s key bs hg hne => ⟨fun hlen => ⟨?_, fun hastray => ?_⟩, fun hp hlen => ?_,
      fun hp => ⟨fun hastray => ?_, fun a ha => ?_⟩⟩⟩
  · simp only [List.mem_cons, List.not_mem_nil, or_false] at hx
    rcases hx with rfl | rfl | rfl | rfl <;> intro hlt hstep hw hp
    · have hbase : scaleOff 0 % 4 = 0 := by decide
      exact tableCommand_spec s (exec_scaleTableWrite_outside s false v hlt hstep) hr hw hbase ho hp
    · have hbase : normOff 0 % 4 = 0 := by decide
      exact tableCommand_spec s (exec_normTableWrite_outside s false v hlt hstep) hr hw hbase ho hp
    · have hbase : noiseOff 0 % 4 = 0 := by decide
      exact tableCommand_spec s (exec_noiseTableWrite_outside s false v hlt hstep) hr hw hbase ho hp
    · have hbase : expertOff % 4 = 0 := by decide
      exact tableCommand_spec s (exec_expertTableWrite_outside s false v hlt hstep) hr hw hbase ho hp
  · rw [s.hbmWrite_of_granule hg hne]
    exact State.granPoison_writeGran (.inr (by rw [length_cells]; omega))
  · simpa only [hlen] using s.hbmRead_hbmWrite hg hne (.inr (Nat.le_of_eq hlen.symm)) hastray
  · rw [s.hbmWrite_of_granule hg hne]
    exact s.writeGran_refused hp (by rwa [length_cells])
  · exact s.hbmRead_hbmWrite hg hne (.inl hp) hastray
  · exact s.hbmByte_hbmWrite_outside hg hne ha

end Sys2Proof.Machine
end

section
/-! PROOF. The drain of a tile op to the Tarn (R96, R121, R128, R130, R203). -/
namespace Sys2Proof.Machine

/-! ### What leaves the Ridges alone: the tables, the log, the abort of a step -/

theorem State.WritesMem.ridges_eq {s t : State} (h : s.WritesMem t) : t.ridges = s.ridges := by
  rw [State.WritesMem] at h; rw [h]

@[simp] theorem State.winWrite_ridges (s : State) (o : Nat) (bs : List Byte) : (s.winWrite o bs).ridges = s.ridges :=
  (s.winWrite_writes o bs).ridges_eq

@[simp] theorem State.setWinWord_ridges (s : State) (o : Nat) (v : W32) : (s.setWinWord o v).ridges = s.ridges :=
  (s.setWinWord_writes o v).ridges_eq

@[simp] theorem State.clearBlock_ridges (s : State) (o : Nat) : (s.clearBlock o).ridges = s.ridges := by
  simp [State.clearBlock]

@[simp] theorem State.scaleDrop_ridges (s : State) (j : Nat) : (s.scaleDrop j).ridges = s.ridges := by
  unfold State.scaleDrop
  split
  · rfl
  · refine foldl_keeps State.ridges (fun t x => ?_) _ _
    dsimp only
    split
    · rfl
    · exact (State.setWinWord_ridges _ _ _).trans (State.setWinWord_ridges _ _ _)

@[simp] theorem State.normDrop_ridges (s : State) (j : Nat) : (s.normDrop j).ridges = s.ridges := by
  unfold State.normDrop
  dsimp only
  split
  · rfl
  · refine (foldl_keeps State.ridges (fun t x => ?_) _ _).trans (foldl_keeps State.ridges (fun t x => ?_) _ _)
    all_goals
      split
      · rfl
      · exact State.clearBlock_ridges _ _

@[simp] theorem State.expertDrop_ridges (s : State) (j : Nat) : (s.expertDrop j).ridges = s.ridges := by
  unfold State.expertDrop
  split
  · rfl
  · refine foldl_keeps State.ridges (fun t x => ?_) _ _
    dsimp only
    split
    · rfl
    · exact State.setWinWord_ridges _ _ _

@[simp] theorem State.pendingDrop_ridges (s : State) (j : Nat) : (s.pendingDrop j).ridges = s.ridges := by
  simp [State.pendingDrop]

@[simp] theorem State.accClear_ridges (s : State) (j : Nat) : (s.accClear j).ridges = s.ridges := by
  unfold State.accClear
  exact foldl_keeps State.ridges (fun t n => by simp) _ s

@[simp] theorem State.flashErase_ridges (s : State) (o n : Nat) : (s.flashErase o n).ridges = s.ridges := rfl
@[simp] theorem State.flashPut_ridges (s : State) (o : Nat) (bs : List Byte) : (s.flashPut o bs).ridges = s.ridges := rfl

@[simp] theorem State.uhlPut_ridges (s : State) (r : UhlRec) : (s.uhlPut r).ridges = s.ridges := by
  unfold State.uhlPut
  dsimp only
  split
  · exact s.setErr_ridges _ _
  · rw [State.event_ridges, State.setReg_ridges, State.setReg_ridges]
    exact s.flashPut_ridges (uhlBase + 64 * (s.mgmt.uhlPos % uhlSize)) (s.uhlBytes r)

@[simp] theorem State.uhlRoom_ridges (s : State) : s.uhlRoom.ridges = s.ridges := by
  unfold State.uhlRoom
  dsimp only
  split
  · rfl
  · rw [foldl_keeps State.ridges fun t w => t.uhlPut_ridges _, State.setReg_ridges, State.event_ridges,
      State.flashErase_ridges]

@[simp] theorem State.escRecord_ridges (s : State) (level cause : Nat) : (s.escRecord level cause).ridges = s.ridges := by
  unfold State.escRecord
  split <;> simp [State.uhlWrite]

@[simp] theorem State.escalate_ridges (s : State) (cause : Nat) : (s.escalate cause).ridges = s.ridges := by
  simp only [State.escalate]
  split
  · rfl
  · split <;> simp [State.askTray]

@[simp] theorem State.abortTell_ridges (s : State) (j cause : Nat) : (s.abortTell j cause).ridges = s.ridges := by
  simp only [State.abortTell]
  split
  · rfl
  · split
    · split <;> rfl
    · rfl

@[simp] theorem State.abortSlot_ridges (s : State) (j cause index : Nat) (tell : Bool) :
    (s.abortSlot j cause index tell).ridges = s.ridges := by
  simp only [State.abortSlot, State.accClear_ridges, State.pendingDrop_ridges]
  split <;> simp only [State.setSlot, State.opTally_ridges, State.event_ridges, State.setErr_ridges,
    apply_ite State.ridges, State.setReg_ridges, State.abortTell_ridges, ite_self]

/-- The abort of a step acts on no Ridge at once (R392). -/
@[simp] theorem State.stepAbort_ridges (s : State) (cause : Nat) : (s.stepAbort cause).ridges = s.ridges := by
  unfold State.stepAbort
  split
  · exact s.abortSlot_ridges _ _ _ _
  · split
    · exact s.abortSlot_ridges _ _ _ _
    · split
      · exact s.escalate_ridges _
      · rfl

@[simp] theorem State.tablePoison_ridges (s : State) (j : Option Nat) : (s.tablePoison j).ridges = s.ridges := by
  cases j <;> simp [State.tablePoison]

@[simp] theorem State.foldAmax_ridges (s : State) (i j : Nat) (a : W32) : (s.foldAmax i j a).ridges = s.ridges := by
  simp only [State.foldAmax]
  split
  · rfl
  · split
    · simp
    · rw [State.setWinWord_ridges]
      split <;> simp

@[simp] theorem State.setScaleBit_ridges (s : State) (i j b : Nat) : (s.setScaleBit i j b).ridges = s.ridges := by
  unfold State.setScaleBit
  split
  · rfl
  · split <;> simp

@[simp] theorem State.foldBlock_ridges (s : State) (o : Nat) (f : Fold) (mask : Nat) :
    (s.foldBlock o f mask).ridges = s.ridges := by
  simp [State.foldBlock]

@[simp] theorem State.foldNorm_ridges (s : State) (i : Nat) (j : Option Nat) (f : Fold) :
    (s.foldNorm i j f).ridges = s.ridges := by
  cases j with
  | none => rfl
  | some j =>
    simp only [State.foldNorm]
    repeat' split
    all_goals simp

@[simp] theorem State.foldNoise_ridges (s : State) (i m : Nat) (j : Option Nat) (f : Fold) :
    (s.foldNoise i m j f).ridges = s.ridges := by
  cases j with
  | none => rfl
  | some j =>
    simp only [State.foldNoise]
    repeat' split
    all_goals simp

/-! ### What a drain books leaves the Ridges alone (R69, R127, R134) -/

@[simp] theorem State.tarnReads_ridges (s : State) (n : Nat) (l : List (Nat × Nat)) : (s.tarnReads n l).ridges = s.ridges :=
  s.event_ridges _ _ _

@[simp] theorem State.tarnWrites_ridges (s : State) (n : Nat) (l : List (Nat × Nat)) : (s.tarnWrites n l).ridges = s.ridges :=
  s.event_ridges _ _ _

@[simp] theorem State.slotReads_ridges (s : State) (n a i : Nat) : (s.slotReads n a i).ridges = s.ridges := by
  unfold State.slotReads
  split
  · split <;> simp
  · rfl

@[simp] theorem State.bookFlags_ridges (s : State) (n : Nat) (j : Option Nat) (f : TFlags) (sat nonfin : Nat) :
    (s.bookFlags n j f sat nonfin).ridges = s.ridges := by
  simp only [State.bookFlags]
  split <;> simp

@[simp] theorem State.drainNoise_ridges (s : State) (o : TileOp) (own : List Closed) (els : List (Nat × Nat)) :
    (s.drainNoise o own els).ridges = s.ridges := by
  unfold State.drainNoise
  split <;> simp

@[simp] theorem State.drainAmax_ridges (s : State) (o : TileOp) (t : Tallied) : (s.drainAmax o t).ridges = s.ridges := by
  unfold State.drainAmax
  split
  · dsimp only
    split <;> split <;> simp
  · rfl

/-! ### Bytes of the Tarn (R92, R95, R203) -/

/-- What a sparse table holds at a key that no write of a run names. -/
theorem Table.get_foldl_set_ne {α : Type} [DecidableEq α] (d : Nat → α) (skip : Nat → Bool) (cs : List (Nat × α)) (t : Table α)
    {b : Nat} (h : ∀ c ∈ cs, b ≠ c.1) :
    Table.get d (cs.foldl (fun t c => if skip c.1 then t else Table.set d t c.1 c.2) t) b = Table.get d t b := by
  induction cs generalizing t with
  | nil => rfl
  | cons c cs ih =>
    rw [List.foldl_cons, ih _ fun e he => h e (List.mem_cons_of_mem _ he)]
    split
    · rfl
    · exact Table.get_set_ne d t (h c List.mem_cons_self) _

/-- What a sparse table holds at a key that one write of a run names. -/
theorem Table.get_foldl_set_mem {α : Type} [DecidableEq α] (d : Nat → α) (skip : Nat → Bool) {cs : List (Nat × α)} (t : Table α)
    {b : Nat} {v : α} (hn : (cs.map Prod.fst).Nodup) (h : (b, v) ∈ cs) (hb : skip b = false) :
    Table.get d (cs.foldl (fun t c => if skip c.1 then t else Table.set d t c.1 c.2) t) b = v := by
  induction cs generalizing t with
  | nil => cases h
  | cons c cs ih =>
    obtain ⟨hc, hn⟩ := List.nodup_cons.mp hn
    rw [List.foldl_cons]
    rcases List.mem_cons.mp h with rfl | h
    · rw [Table.get_foldl_set_ne d skip cs _ fun e he heq => hc (List.mem_map.mpr ⟨e, he, heq.symm⟩), if_neg (by simp [hb])]
      exact Table.get_set_same d t b v
    · exact ih _ hn h

/-- A write of the Tarn puts its cells one by one, but for those of poisoned words (R95, R203). -/
theorem Ridge.tarnWrite_tarn (r : Ridge) (a : Nat) (bs : List Byte) :
    (r.tarnWrite a bs).tarn = (cells a bs).foldl (fun t c =>
      if (r.tarnClear a bs.length).tarnBad.has (c.1 / 32) then t else Table.set (fun _ => 0) t c.1 c.2) r.tarn := by
  rw [cells, List.foldl_map]
  rfl

theorem Ridge.tarnBad_tarnClear (r : Ridge) {a k w : Nat} (h : r.tarnBad.has w = false) :
    (r.tarnClear a k).tarnBad.has w = false := by
  simp only [NatSet.has, List.contains_eq_mem, decide_eq_false_iff_not] at h ⊢
  exact fun hw => h (List.mem_filter.mp hw).1

/-- A write poisons no word. -/
theorem Ridge.tarnBad_tarnWrite (r : Ridge) (a : Nat) (bs : List Byte) {w : Nat} (h : r.tarnBad.has w = false) :
    (r.tarnWrite a bs).tarnBad.has w = false :=
  r.tarnBad_tarnClear h

theorem Ridge.tarnByte_tarnWrite_outside (r : Ridge) {a b : Nat} {bs : List Byte} (h : b < a ∨ a + bs.length ≤ b) :
    (r.tarnWrite a bs).tarnByte b = r.tarnByte b := by
  rw [Ridge.tarnByte, r.tarnWrite_tarn]
  refine Table.get_foldl_set_ne (fun _ => 0) (fun k => (r.tarnClear a bs.length).tarnBad.has (k / 32)) _ _ fun c hc => ?_
  obtain ⟨j, hj, rfl⟩ := mem_cells.mp hc
  dsimp only
  omega

theorem Ridge.tarnByte_tarnWrite (r : Ridge) (a : Nat) {bs : List Byte} {j : Nat} (hj : j < bs.length)
    (h : r.tarnBad.has ((a + j) / 32) = false) : (r.tarnWrite a bs).tarnByte (a + j) = bs[j] := by
  rw [Ridge.tarnByte, r.tarnWrite_tarn]
  exact Table.get_foldl_set_mem (fun _ => 0) (fun k => (r.tarnClear a bs.length).tarnBad.has (k / 32)) _ (nodup_cells a bs)
    (mem_cells.mpr ⟨j, hj, rfl⟩) (r.tarnBad_tarnClear h)

/-- Where no word of a range is poisoned, none of its bytes lies in a poisoned word. -/
theorem Ridge.tarnBad_of_tarnPoison {r : Ridge} {a k j : Nat} (h : r.tarnPoison a k = false) (hj : j < k) :
    r.tarnBad.has ((a + j) / 32) = false := by
  have hk : ¬ k = 0 := by omega
  rw [Ridge.tarnPoison, List.any_eq_false] at h
  refine Bool.eq_false_iff.mpr (h _ ?_)
  rw [tarnWords, if_neg hk, List.mem_map]
  exact ⟨(a + j) / 32 - a / 32, List.mem_range.mpr (by omega), by omega⟩

/-! ### Several runs of bytes written to the Tarn -/

/-- The Tarn once several runs of bytes, each from its address, are written to it one after another. -/
def Ridge.tarnRuns (r : Ridge) (runs : List (Nat × List Byte)) : Ridge := runs.foldl (fun r x => r.tarnWrite x.1 x.2) r

/-- Two runs share no byte. -/
def RunsApart (x y : Nat × List Byte) : Prop := x.1 + x.2.length ≤ y.1 ∨ y.1 + y.2.length ≤ x.1

@[simp] theorem Ridge.tarnRuns_cons (r : Ridge) (x : Nat × List Byte) (runs : List (Nat × List Byte)) :
    r.tarnRuns (x :: runs) = (r.tarnWrite x.1 x.2).tarnRuns runs := rfl

/-- Writes to the Tarn change its bytes and its poisoned words alone. -/
theorem Ridge.tarnRuns_frame (r : Ridge) (runs : List (Nat × List Byte)) :
    r.tarnRuns runs = { r with tarn := (r.tarnRuns runs).tarn, tarnBad := (r.tarnRuns runs).tarnBad } := by
  induction runs generalizing r with
  | nil => rfl
  | cons x runs ih => exact ih (r.tarnWrite x.1 x.2)

theorem Ridge.tarnRuns_spoil (r : Ridge) (b : Bool) (runs : List (Nat × List Byte)) :
    (r.spoil b).tarnRuns runs = (r.tarnRuns runs).spoil b := by
  induction runs generalizing r with
  | nil => rfl
  | cons x runs ih =>
    have hx : (r.spoil b).tarnWrite x.1 x.2 = (r.tarnWrite x.1 x.2).spoil b := by cases b <;> rfl
    rw [Ridge.tarnRuns_cons, Ridge.tarnRuns_cons, hx, ih]

theorem Ridge.tarnByte_tarnRuns_outside (r : Ridge) {runs : List (Nat × List Byte)} {b : Nat}
    (h : ∀ x ∈ runs, b < x.1 ∨ x.1 + x.2.length ≤ b) : (r.tarnRuns runs).tarnByte b = r.tarnByte b := by
  induction runs generalizing r with
  | nil => rfl
  | cons x runs ih =>
    rw [Ridge.tarnRuns_cons, ih _ fun y hy => h y (List.mem_cons_of_mem _ hy),
      r.tarnByte_tarnWrite_outside (h x List.mem_cons_self)]

/-- Of runs that share no byte each reads back, but for poisoned words (R203). -/
theorem Ridge.tarnByte_tarnRuns (r : Ridge) {runs : List (Nat × List Byte)} (hd : runs.Pairwise RunsApart)
    {x : Nat × List Byte} (hx : x ∈ runs) {j : Nat} (hj : j < x.2.length) (h : r.tarnBad.has ((x.1 + j) / 32) = false) :
    (r.tarnRuns runs).tarnByte (x.1 + j) = x.2[j] := by
  induction runs generalizing r with
  | nil => cases hx
  | cons y runs ih =>
    obtain ⟨hy, hd⟩ := List.pairwise_cons.mp hd
    rw [Ridge.tarnRuns_cons]
    rcases List.mem_cons.mp hx with rfl | hx
    · rw [Ridge.tarnByte_tarnRuns_outside _ fun z hz => ?_, r.tarnByte_tarnWrite _ hj h]
      have := hy z hz
      unfold RunsApart at this
      omega
    · exact ih _ hd hx (r.tarnBad_tarnWrite _ _ h)

/-! ### Output written to the Tarn (R130) -/

theorem Ridge.tileOp?_sole {r : Ridge} {o : TileOp} (h : r.tileOps = [o]) : r.tileOp? o.id = some o := by
  simp [Ridge.tileOp?, h]

theorem State.ridge_of_ridges_eq {s t : State} (h : t.ridges = s.ridges) (n : Nat) : t.ridge n = s.ridge n := by
  rw [State.ridge, State.ridge, h]

@[simp] theorem Ridge.tileOps_spoil (r : Ridge) (b : Bool) : (r.spoil b).tileOps = r.tileOps := by cases b <;> rfl
@[simp] theorem Ridge.arr_spoil (r : Ridge) (b : Bool) (a : Nat) : (r.spoil b).arr a = r.arr a := by cases b <;> rfl
@[simp] theorem Ridge.tarnByte_spoil (r : Ridge) (b : Bool) (a : Nat) : (r.spoil b).tarnByte a = r.tarnByte a := by
  cases b <;> rfl

theorem Ridge.spoil_spoil (r : Ridge) (b c : Bool) : (r.spoil b).spoil c = r.spoil (b || c) := by cases b <;> cases c <;> rfl

@[simp] theorem Ridge.tileOps_tarnRuns (r : Ridge) (runs : List (Nat × List Byte)) : (r.tarnRuns runs).tileOps = r.tileOps := by
  rw [Ridge.tarnRuns_frame]
@[simp] theorem Ridge.arr_tarnRuns (r : Ridge) (runs : List (Nat × List Byte)) (a : Nat) : (r.tarnRuns runs).arr a = r.arr a := by
  rw [Ridge.tarnRuns_frame]; rfl

/-- Bytes that no poison has reached mark no word of the Tarn. -/
theorem foldl_mark_of_clean (a : Nat) {l : List (Nat × OutByte)} (h : ∀ p ∈ l, p.2.2 = false) (w : NatSet) :
    l.foldl (fun m p => if p.2.2 then NatSet.add ((a + p.1) / 32) m else m) w = w := by
  induction l with
  | nil => rfl
  | cons p l ih =>
    rw [List.foldl_cons, if_neg (by simp [h p List.mem_cons_self])]
    exact ih fun q hq => h q (List.mem_cons_of_mem _ hq)

/-- Output bytes of an op, none of them poisoned, are one write of the Tarn; it may spoil open tiles (R121). -/
theorem State.writeOut_tarn (s : State) {n : Nat} {o : TileOp} (a : Nat) {bs : List OutByte} (m : MemUse)
    (hops : (s.ridge n).tileOps = [o]) (htarn : tdOutTarn o.desc.words = true) (hbs : ∀ b ∈ bs, b.2 = false) :
    ∃ b, (s.writeOut n o.id a bs m).1.ridge n = ((s.ridge n).tarnWrite (a % 2 ^ 24) (bs.map Prod.fst)).spoil b := by
  have hnone := foldl_mark_of_clean (a % 2 ^ 24) (l := (List.range bs.length).zip bs)
    (fun p hp => hbs _ (List.of_mem_zip hp).2) []
  simp only [State.writeOut, Ridge.tileOp?_sole hops, htarn, if_true, hnone, List.foldl_nil]
  exact ⟨_, (State.ridge_of_ridges_eq (State.tarnWrites_ridges _ _ _) n).trans (State.ridge_setRidge_same _ _ _)⟩

/-- A run of output bytes as the Tarn takes it: its address there, and its bytes. -/
def tarnRun (x : Nat × List OutByte) : Nat × List Byte := (x.1 % 2 ^ 24, x.2.map Prod.fst)

/-- Runs of output bytes, none of them poisoned, are written to the Tarn one after another. -/
theorem State.writeRuns_tarn (s : State) {n : Nat} {o : TileOp} {runs : List (Nat × List OutByte)} (m : MemUse)
    (hops : (s.ridge n).tileOps = [o]) (htarn : tdOutTarn o.desc.words = true) (hruns : ∀ x ∈ runs, ∀ b ∈ x.2, b.2 = false) :
    ∃ b, (s.writeRuns n o.id runs m).1.ridge n = ((s.ridge n).tarnRuns (runs.map tarnRun)).spoil b := by
  induction runs generalizing s m with
  | nil => exact ⟨false, rfl⟩
  | cons x runs ih =>
    obtain ⟨b, hb⟩ := s.writeOut_tarn x.1 m hops htarn (hruns x List.mem_cons_self)
    have hops' : ((s.writeOut n o.id x.1 x.2 m).1.ridge n).tileOps = [o] := by rw [hb, Ridge.tileOps_spoil]; exact hops
    obtain ⟨c, hc⟩ := ih (s.writeOut n o.id x.1 x.2 m).1 (s.writeOut n o.id x.1 x.2 m).2 hops'
      fun y hy => hruns y (List.mem_cons_of_mem _ hy)
    refine ⟨b || c, hc.trans ?_⟩
    rw [hb, Ridge.tarnRuns_spoil, Ridge.spoil_spoil]
    rfl

/-! ### The elements of a drain (R128, R130, R204) -/

/-- What the elements of a line are written as where no poison has reached them: one run of bytes from the address of the
first. -/
def cleanRun (size : Nat) (l : List OutEl) : Option (Nat × List OutByte) :=
  l.head?.map fun e => (e.addr, l.flatMap fun x => (leBytes size x.code).map fun b => (b, false))

/-- The run of a line as the Tarn takes it. -/
def lineRun (size : Nat) (l : List OutEl) : Option (Nat × List Byte) :=
  l.head?.map fun e => (e.addr % 2 ^ 24, l.flatMap fun x => leBytes size x.code)

theorem tarnRun_cleanRun (size : Nat) (l : List OutEl) : (cleanRun size l).map tarnRun = lineRun size l := by
  simp [cleanRun, lineRun, tarnRun, Function.comp_def, List.map_flatMap]

theorem cleanRun_clean {size : Nat} {l : List OutEl} {x : Nat × List OutByte} (h : cleanRun size l = some x) :
    ∀ b ∈ x.2, b.2 = false := by
  obtain ⟨e, -, rfl⟩ := Option.map_eq_some_iff.mp h
  intro b hb
  obtain ⟨y, -, hy⟩ := List.mem_flatMap.mp hb
  obtain ⟨v, -, rfl⟩ := List.mem_map.mp hy
  rfl

/-- Lines of elements that no poison has reached are written to the Tarn one after another. -/
theorem State.writeLines_tarn (s : State) {n : Nat} {o : TileOp} (size : Nat) (lines : List (List OutEl)) (m : MemUse)
    (hops : (s.ridge n).tileOps = [o]) (htarn : tdOutTarn o.desc.words = true) :
    ∃ b, (s.writeRuns n o.id (lines.filterMap (cleanRun size)) m).1.ridge n =
      ((s.ridge n).tarnRuns (lines.filterMap (lineRun size))).spoil b := by
  have hruns : (lines.filterMap (cleanRun size)).map tarnRun = lines.filterMap (lineRun size) := by
    rw [List.map_filterMap]
    exact congrArg (lines.filterMap ·) (funext fun l => tarnRun_cleanRun size l)
  rw [← hruns]
  refine s.writeRuns_tarn m hops htarn fun x hx => ?_
  obtain ⟨l, -, hl⟩ := List.mem_filterMap.mp hx
  exact cleanRun_clean hl

theorem badGranules_of_clean (g size : Nat) {els : List OutEl} (h : ∀ e ∈ els, e.bad = false ∧ e.epiBad = false) :
    badGranules g size els = [] := by
  have hnone : els.filter (fun e => e.bad || e.epiBad) = [] :=
    List.filter_eq_nil_iff.mpr fun e he => by simp [h e he]
  rw [badGranules, hnone, List.foldl_nil]

theorem OutEl.hit_nil (e : OutEl) (g size : Nat) : e.hit g size [] = false := rfl

/-- A converted drain to the Tarn whose elements no poison has reached writes its lines there, and changes nothing else of
its Ridge but that it may spoil open tiles. -/
theorem State.drainConv_ridge (s : State) {n : Nat} {o : TileOp} (cs own : List Closed) (base rows : Nat) (m : MemUse)
    (hops : (s.ridge n).tileOps = [o]) (htarn : tdOutTarn o.desc.words = true)
    (hclean : ∀ e ∈ ((s.ridge n).outRows o cs base rows).flatten, e.bad = false ∧ e.epiBad = false) :
    ∃ b, (s.drainConv n o.id o cs own base rows m).1.ridge n = ((s.ridge n).tarnRuns
      (((s.ridge n).outRows o cs base rows).filterMap (lineRun (opOutFmt o.desc.words o.cold).bytes))).spoil b := by
  have hepi : ((s.ridge n).outRows o cs base rows).flatten.any (fun e => e.epiBad) = false :=
    List.any_eq_false.mpr fun e he => by simp [hclean e he]
  have hwrite : ∀ u : State, u.ridges = s.ridges → ∃ b,
      (u.writeRuns n o.id (((s.ridge n).outRows o cs base rows).filterMap (cleanRun (opOutFmt o.desc.words o.cold).bytes))
        m).1.ridge n = ((s.ridge n).tarnRuns
          (((s.ridge n).outRows o cs base rows).filterMap (lineRun (opOutFmt o.desc.words o.cold).bytes))).spoil b := by
    intro u hu
    have hridge := State.ridge_of_ridges_eq hu n
    rw [← hridge] at hops ⊢
    exact u.writeLines_tarn _ _ m hops htarn
  simp only [State.drainConv, badGranules_of_clean _ _ hclean, OutEl.hit_nil, hepi]
  refine hwrite _ ?_
  simp only [apply_ite State.ridges, State.tarnReads_ridges, State.event_ridges, State.drainNoise_ridges,
    State.foldNorm_ridges, State.drainAmax_ridges, State.bookFlags_ridges, Bool.false_eq_true, ite_self, if_false]

/-! ### The rows of a drain of one tile (R128, R130) -/

theorem length_flatMap_range {α : Type} {f : Nat → List α} {size : Nat} (hf : ∀ k, (f k).length = size) (n : Nat) :
    ((List.range n).flatMap f).length = n * size := by
  induction n with
  | zero => rw [Nat.zero_mul]; rfl
  | succ n ih => rw [List.range_succ, List.flatMap_append, List.flatMap_singleton, List.length_append, ih, hf, Nat.succ_mul]

/-- A place in the first `n` of blocks of one size. -/
theorem mul_add_lt_mul_of_lt {k n j size : Nat} (hk : k < n) (hj : j < size) : k * size + j < n * size := by
  have hblock : (k + 1) * size ≤ n * size := Nat.mul_le_mul_right _ hk
  rw [Nat.succ_mul] at hblock
  omega

/-- Lists of one length, put one after another, keep their places. -/
theorem getElem?_flatMap_range {α : Type} {f : Nat → List α} {size : Nat} (hf : ∀ k, (f k).length = size) {n k j : Nat}
    (hk : k < n) (hj : j < size) : ((List.range n).flatMap f)[k * size + j]? = (f k)[j]? := by
  induction n with
  | zero => omega
  | succ n ih =>
    have hlen := length_flatMap_range hf n
    rw [List.range_succ, List.flatMap_append, List.flatMap_singleton]
    rcases Nat.lt_succ_iff_lt_or_eq.mp hk with hk | rfl
    · have hin := mul_add_lt_mul_of_lt hk hj
      rw [List.getElem?_append_left (hlen ▸ hin), ih hk]
    · rw [List.getElem?_append_right (by omega), hlen, Nat.add_sub_cancel_left]

/-- The bytes of an element of an op's output. -/
def TileOp.outBytes (o : TileOp) : Nat := (opOutFmt o.desc.words o.cold).bytes

/-- Row `m` of the output of a drain of the one closed tile `c`, as a run of bytes in the Tarn. -/
def Ridge.rowRun (r : Ridge) (o : TileOp) (c : Closed) (m : Nat) : Nat × List Byte :=
  ((tdOutAddr o.desc.words + m * tdOutStride o.desc.words) % 2 ^ 24,
    (List.range (tdCols o.desc.words)).flatMap fun k => leBytes o.outBytes (r.outEl o [c] 0 (m * 32 + k) m k).code)

/-- The output of a drain of the one closed tile `c`, as runs of bytes in the Tarn. -/
def Ridge.rowRuns (r : Ridge) (o : TileOp) (c : Closed) : List (Nat × List Byte) :=
  (r.outRows o [c] 0 (tdRows o.desc.words)).filterMap (lineRun o.outBytes)

theorem Ridge.outRows_plain (r : Ridge) {o : TileOp} (c : Closed) (rows : Nat) (h : tdTout o.desc.words = false) :
    r.outRows o [c] 0 rows = (List.range rows).map fun m => (List.range (tdCols o.desc.words)).map fun k =>
      r.outEl o [c] 0 (m * 32 + k) m k := by
  simp [Ridge.outRows, h, Nat.mod_one]

/-- The first element of a row stands where the row begins. -/
theorem Ridge.addr_outEl_first (r : Ridge) (o : TileOp) (cs : List Closed) (src k row : Nat) :
    (r.outEl o cs src k row 0).addr = tdOutAddr o.desc.words + row * tdOutStride o.desc.words := by
  change _ + 0 * _ = _
  rw [Nat.zero_mul, Nat.add_zero]

theorem Ridge.rowRuns_eq (r : Ridge) {o : TileOp} (c : Closed) (h : tdTout o.desc.words = false) :
    r.rowRuns o c = if tdCols o.desc.words = 0 then [] else (List.range (tdRows o.desc.words)).map (r.rowRun o c) := by
  rw [Ridge.rowRuns, r.outRows_plain c _ h, List.filterMap_map]
  split
  case isTrue h0 =>
    have hline : lineRun o.outBytes ∘ (fun m => (List.range (tdCols o.desc.words)).map fun k =>
        r.outEl o [c] 0 (m * 32 + k) m k) = fun _ => none := funext fun m => by rw [h0]; rfl
    rw [hline, List.filterMap_eq_nil_iff]
    exact fun _ _ => rfl
  case isFalse h0 =>
    have hline : lineRun o.outBytes ∘ (fun m => (List.range (tdCols o.desc.words)).map fun k =>
        r.outEl o [c] 0 (m * 32 + k) m k) = some ∘ r.rowRun o c := funext fun m => by
      simp only [Function.comp_apply, lineRun, Ridge.rowRun, List.head?_map, List.head?_range, h0, if_false, Option.map_some,
        List.flatMap_map, Ridge.addr_outEl_first]
    rw [hline, List.filterMap_eq_map]

/-- Where row `m` of the output of an op begins in the Tarn. -/
def TileOp.rowAddr (o : TileOp) (m : Nat) : Nat := tdOutAddr o.desc.words % 2 ^ 24 + m * tdOutStride o.desc.words

/-- The output of an op, not transposed, is rows that share no byte and end inside the Tarn (R92, R130). -/
structure TileOp.RowsInTarn (o : TileOp) : Prop where
  rowwise : tdTout o.desc.words = false
  apart : tdCols o.desc.words * o.outBytes ≤ tdOutStride o.desc.words
  inside : o.rowAddr (tdRows o.desc.words) ≤ 0xC00000

section
variable {r : Ridge} {o : TileOp} {c : Closed} {m : Nat}

theorem Ridge.length_rowRun : (r.rowRun o c m).2.length = tdCols o.desc.words * o.outBytes :=
  length_flatMap_range (fun _ => length_leBytes _ _) _

theorem Ridge.getElem?_rowRun {k j : Nat} (hk : k < tdCols o.desc.words) (hj : j < o.outBytes) :
    (r.rowRun o c m).2[k * o.outBytes + j]? = (leBytes o.outBytes (r.outEl o [c] 0 (m * 32 + k) m k).code)[j]? :=
  getElem?_flatMap_range (fun _ => length_leBytes _ _) hk hj

theorem TileOp.rowAddr_add_stride_le {i j : Nat} (hij : i < j) : o.rowAddr i + tdOutStride o.desc.words ≤ o.rowAddr j := by
  have hstep : (i + 1) * tdOutStride o.desc.words ≤ j * tdOutStride o.desc.words := Nat.mul_le_mul_right _ hij
  rw [Nat.succ_mul] at hstep
  unfold TileOp.rowAddr
  omega

section
variable (h : o.RowsInTarn)
include h

theorem Ridge.mem_rowRuns (hc : tdCols o.desc.words ≠ 0) (hm : m < tdRows o.desc.words) : r.rowRun o c m ∈ r.rowRuns o c := by
  rw [r.rowRuns_eq c h.rowwise, if_neg hc]
  exact List.mem_map_of_mem (List.mem_range.mpr hm)

theorem Ridge.exists_row_of_mem_rowRuns {x : Nat × List Byte} (hx : x ∈ r.rowRuns o c) :
    ∃ m < tdRows o.desc.words, x = r.rowRun o c m := by
  rw [r.rowRuns_eq c h.rowwise] at hx
  split at hx
  · cases hx
  · obtain ⟨m, hm, rfl⟩ := List.mem_map.mp hx
    exact ⟨m, List.mem_range.mp hm, rfl⟩

/-- Output that ends inside the Tarn does not wrap around (R92). -/
theorem Ridge.addr_rowRun (hm : m < tdRows o.desc.words) : (r.rowRun o c m).1 = o.rowAddr m := by
  have hrow := TileOp.rowAddr_add_stride_le (o := o) hm
  have hend := h.inside
  unfold TileOp.rowAddr at hrow hend
  rw [Ridge.rowRun, TileOp.rowAddr, Nat.add_mod, Nat.mod_eq_of_lt (a := m * _) (by omega), Nat.mod_eq_of_lt (by omega)]

theorem Ridge.rowRuns_apart : (r.rowRuns o c).Pairwise RunsApart := by
  rw [r.rowRuns_eq c h.rowwise]
  split
  · exact List.Pairwise.nil
  · refine List.pairwise_map.mpr (List.pairwise_lt_range.imp_of_mem fun hi hj hij => .inl ?_)
    rw [Ridge.addr_rowRun h (List.mem_range.mp hi), Ridge.addr_rowRun h (List.mem_range.mp hj), Ridge.length_rowRun]
    exact Nat.le_trans (Nat.add_le_add_left h.apart _) (TileOp.rowAddr_add_stride_le hij)

/-- A drain writes every element at its address, but in poisoned words (R128, R130, R203). -/
theorem Ridge.tarnRead_rowRuns (hm : m < tdRows o.desc.words) {k : Nat} (hk : k < tdCols o.desc.words)
    (hp : r.tarnPoison (o.rowAddr m + k * o.outBytes) o.outBytes = false) :
    (r.tarnRuns (r.rowRuns o c)).tarnRead (o.rowAddr m + k * o.outBytes) o.outBytes =
      leBytes o.outBytes (r.outEl o [c] 0 (m * 32 + k) m k).code := by
  refine List.ext_getElem (by simp [Ridge.tarnRead, length_leBytes]) fun j hj hj' => ?_
  rw [length_leBytes] at hj'
  have hrun := Ridge.mem_rowRuns (r := r) (c := c) h (Nat.ne_zero_of_lt hk) hm
  have haddr := Ridge.addr_rowRun (r := r) (c := c) h hm
  have hlen : k * o.outBytes + j < (r.rowRun o c m).2.length := by
    rw [Ridge.length_rowRun]
    exact mul_add_lt_mul_of_lt hk hj'
  have hword := Ridge.tarnBad_of_tarnPoison hp hj'
  rw [Nat.add_assoc, ← haddr] at hword
  have hbyte := r.tarnByte_tarnRuns (Ridge.rowRuns_apart h) hrun hlen hword
  simp only [Ridge.tarnRead, List.getElem_map, List.getElem_range]
  rw [Nat.add_assoc, ← haddr, hbyte]
  exact Option.some.inj (by rw [← List.getElem?_eq_getElem, Ridge.getElem?_rowRun hk hj', List.getElem?_eq_getElem])

/-- A drain changes no byte of the Tarn beside its rows. -/
theorem Ridge.tarnByte_rowRuns_outside {b : Nat}
    (hb : ∀ m < tdRows o.desc.words, ∀ k < tdCols o.desc.words * o.outBytes, b ≠ o.rowAddr m + k) :
    (r.tarnRuns (r.rowRuns o c)).tarnByte b = r.tarnByte b := by
  refine r.tarnByte_tarnRuns_outside fun x hx => ?_
  obtain ⟨m, hm, rfl⟩ := Ridge.exists_row_of_mem_rowRuns h hx
  rw [Ridge.addr_rowRun h hm, Ridge.length_rowRun]
  exact Decidable.byContradiction fun hn => hb m hm (b - o.rowAddr m) (by omega) (by omega)

end
end

/-! ### Tiles and ops of a Ridge -/

@[simp] theorem Ridge.arr_setArr_same (r : Ridge) (a : Nat) (v : Arr) : (r.setArr a v).arr a = v := Table.get_set_same _ _ _ _

theorem Ridge.arr_setArr_ne (r : Ridge) {a b : Nat} (h : b ≠ a) (v : Arr) : (r.setArr a v).arr b = r.arr b :=
  Table.get_set_ne _ _ h v

@[simp] theorem Arr.tile_setTile_same (x : Arr) (i : Nat) (u : Tile) : (x.setTile i u).tile i = u := by
  unfold Arr.setTile Arr.tile
  split <;> rfl

/-- An array whose last op ends keeps its tiles (R90). -/
@[simp] theorem Ridge.tile_idleArr (r : Ridge) (a b i : Nat) : ((r.idleArr a).arr b).tile i = (r.arr b).tile i := by
  unfold Ridge.idleArr
  split
  · rfl
  · by_cases hb : b = a
    · subst hb
      split <;> simp <;> rfl
    · split <;> simp [Ridge.arr_setArr_ne _ hb]

@[simp] theorem Ridge.tarnByte_idleArr (r : Ridge) (a b : Nat) : (r.idleArr a).tarnByte b = r.tarnByte b := by
  unfold Ridge.idleArr
  repeat' split
  all_goals rfl

@[simp] theorem Ridge.tileOps_idleArr (r : Ridge) (a : Nat) : (r.idleArr a).tileOps = r.tileOps := by
  unfold Ridge.idleArr
  repeat' split
  all_goals rfl

/-- A Ridge with other arrays. -/
def Ridge.withArrs (r : Ridge) (arrs : Table Arr) : Ridge := { r with arrs := arrs }

@[simp] theorem Ridge.withArrs_withArrs (r : Ridge) (x y : Table Arr) : (r.withArrs x).withArrs y = r.withArrs y := rfl
@[simp] theorem Ridge.tileOps_withArrs (r : Ridge) (x : Table Arr) : (r.withArrs x).tileOps = r.tileOps := rfl
@[simp] theorem Ridge.tarnByte_withArrs (r : Ridge) (x : Table Arr) (b : Nat) : (r.withArrs x).tarnByte b = r.tarnByte b := rfl

/-- What a drain computes of an element does not depend on the arrays as they then stand. -/
theorem Ridge.outEl_withArrs (r : Ridge) (x : Table Arr) (o : TileOp) (cs : List Closed) (src k row col : Nat) :
    (r.withArrs x).outEl o cs src k row col = r.outEl o cs src k row col := rfl

theorem Ridge.outRows_withArrs (r : Ridge) (x : Table Arr) (o : TileOp) (cs : List Closed) (base rows : Nat) :
    (r.withArrs x).outRows o cs base rows = r.outRows o cs base rows := rfl

theorem Ridge.tarnRuns_withArrs (r : Ridge) (x : Table Arr) (runs : List (Nat × List Byte)) :
    (r.withArrs x).tarnRuns runs = (r.tarnRuns runs).withArrs x := by
  induction runs generalizing r with
  | nil => rfl
  | cons y runs ih => exact ih (r.tarnWrite y.1 y.2)

/-- A tile of an array is stored, and nothing else of its Ridge changes. -/
theorem State.putArrTile_ridge (s : State) (n a i : Nat) (u : Tile) :
    ∃ arrs, (s.putArrTile n a i u).ridge n = (s.ridge n).withArrs arrs ∧
      (((s.putArrTile n a i u).ridge n).arr a).tile i = u :=
  ⟨_, State.ridge_setRidge_same _ _ _, by simp [State.putArrTile]⟩

/-- The end of an op that was the only one of its Ridge: its tiles and the Tarn stay as they are. -/
theorem State.finishTile_sole (s : State) {n : Nat} {o : TileOp} (hops : (s.ridge n).tileOps = [o]) (hr : o.remote = 0)
    (hs : o.sampled = false) :
    (((s.finishTile n o).ridge n).tileOps = []) ∧
      (∀ a i, (((s.finishTile n o).ridge n).arr a).tile i = ((s.ridge n).arr a).tile i) ∧
      ∀ b, ((s.finishTile n o).ridge n).tarnByte b = (s.ridge n).tarnByte b := by
  have hdrop : (s.finishTile n o).ridge n = (s.ridge n).dropTile o := by
    simp only [State.finishTile, hr, hs, ne_eq, not_true_eq_false, if_false, Bool.false_eq_true]
    split
    · exact State.ridge_setRidge_same _ _ _
    · rw [State.ridge_opTally]
      exact State.ridge_setRidge_same _ _ _
  rw [hdrop, Ridge.dropTile, hops]
  refine ⟨by simp, fun a i => ?_, fun b => ?_⟩
  · rw [Ridge.tile_idleArr]; rfl
  · rw [Ridge.tarnByte_idleArr]; rfl

/-! ### A drain of one tile by the only op of its Ridge -/

/-- The only tile op of Ridge `n` has made its passes and drains its one tile, `i`, to the Tarn, converted and not transposed,
with no chain and no Cairn check. -/
structure State.SoleDrain (s : State) (n i : Nat) (o : TileOp) : Prop where
  ops : (s.ridge n).tileOps = [o]
  passed : o.ph = .passed
  tiles : o.tiles o.tile = [i]
  single : tdPair o.desc.words = false
  drains : tdDrain o.desc.words = true
  converts : tdRaw o.desc.words = false
  toTarn : tdOutTarn o.desc.words = true
  rowwise : tdTout o.desc.words = false
  unchained : tdAccIn o.desc.words = false
  answered : o.remote = 0
  unsampled : o.sampled = false

/-- A tile that is drained, closed: what its sums come to, unpredictable where it is loose (R96, R121). -/
def State.closedTile (s : State) (n : Nat) (o : TileOp) (t : Nat) : Closed :=
  let u := ((s.ridge n).arr (tdArray o.desc.words)).tile t
  if u.loose then (u.close o).loose s.free (tdArray o.desc.words * 2 + t) else u.close o

/-- No check of the accumulator finds an error (R114, R124). -/
theorem State.drainErr_good (s : State) {n a t : Nat} (id : Nat) (h : s.slotBad n (((s.ridge n).arr a).tile t) = []) :
    s.drainErr n id a t .good = s := by
  simp only [State.drainErr, State.slotErr, State.readSlot, h]
  split
  · rfl
  · split <;> rfl

/-- A drain begins: the sums of its tile become unpredictable where something wrote what the op read (R96, R121), and the tile
reads its spill slot. -/
def State.drainBegun (s : State) (n i : Nat) (o : TileOp) : State :=
  (s.loosen n o (s.opRaces n o)).slotReads n (tdArray o.desc.words) i

/-- The tile of a drain is freed (R127). -/
def State.drainFreed (s : State) (n i : Nat) (o : TileOp) : State :=
  let u := s.putArrTile n (tdArray o.desc.words) i {}
  if (((s.ridge n).arr (tdArray o.desc.words)).tile i).loose then u.fresh else u

/-- The results of a drain are written, once it has begun and its tile is freed. -/
def State.drainWritten (s : State) (n i : Nat) (o : TileOp) (m : MemUse) : State :=
  let c := (s.drainBegun n i o).closedTile n o i
  (((s.drainBegun n i o).drainFreed n i o).drainConv n o.id o [c] [c] 0 (tdRows o.desc.words) m).1

/-- An op that has drained one block more. -/
def TileOp.drainedBlock (o : TileOp) : TileOp := { o with blocks := o.blocks + 1 }

/-- An op whose drain is written counts it and ends. -/
def State.drainEnded (s : State) (n : Nat) (o : TileOp) : State :=
  let u := if o.cold && decide (o.blocks = 0) then s.addSat .scl 0x10C 1 else s
  (u.setRidge n ((u.ridge n).putTile o.drainedBlock)).finishTile n o.drainedBlock

/-- The sums of an op's one tile become unpredictable, and nothing else of its Ridge changes. -/
theorem State.loosen_ridge (s : State) {n i : Nat} {o : TileOp} (b : Bool) (h : o.tiles o.tile = [i]) :
    ∃ arrs, (s.loosen n o b).ridge n = (s.ridge n).withArrs arrs ∧
      (((s.loosen n o b).ridge n).arr (tdArray o.desc.words)).tile i =
        (((s.ridge n).arr (tdArray o.desc.words)).tile i).loosen b := by
  cases b with
  | false => exact ⟨_, rfl, by simp [State.loosen, Tile.loosen]⟩
  | true =>
    have hput : s.loosen n o true = s.putArrTile n (tdArray o.desc.words) i
        ((((s.ridge n).arr (tdArray o.desc.words)).tile i).loosen true) := by
      simp [State.loosen, h, State.putArrTile]
    rw [hput]
    exact s.putArrTile_ridge n (tdArray o.desc.words) i _

/-- The tile of a drain is closed, and nothing else of its Ridge changes. -/
theorem State.drainFreed_ridge (s : State) (n i : Nat) (o : TileOp) :
    ∃ arrs, (s.drainFreed n i o).ridge n = (s.ridge n).withArrs arrs ∧
      (((s.drainFreed n i o).ridge n).arr (tdArray o.desc.words)).tile i = {} := by
  have hput := s.putArrTile_ridge n (tdArray o.desc.words) i {}
  simp only [State.drainFreed]
  split <;> simpa using hput

@[simp] theorem Tile.loosen_false (t : Tile) : t.loosen false = t := by simp [Tile.loosen]

@[simp] theorem Tile.isBad_close_loosen (t : Tile) (o : TileOp) (b : Bool) (k : Nat) :
    ((t.loosen b).close o).isBad k = (t.close o).isBad k := rfl

theorem Closed.isBad_loose (c : Closed) (free x k : Nat) : (c.loose free x).isBad k = c.isBad k := by
  unfold Closed.isBad Closed.loose
  rfl

/-- What entries of a tile depend on poison does not depend on whether its sums are unpredictable. -/
theorem State.isBad_closedTile (s : State) (n : Nat) (o : TileOp) (t k : Nat) :
    (s.closedTile n o t).isBad k = ((((s.ridge n).arr (tdArray o.desc.words)).tile t).close o).isBad k := by
  simp only [State.closedTile]
  split
  · exact Closed.isBad_loose _ _ _ _
  · rfl

theorem State.closedTile_of_not_loose {s : State} {n : Nat} {o : TileOp} {t : Nat}
    (h : (((s.ridge n).arr (tdArray o.desc.words)).tile t).loose = false) :
    s.closedTile n o t = (((s.ridge n).arr (tdArray o.desc.words)).tile t).close o := by
  simp [State.closedTile, h]

/-- An op whose drain is written ends: what stands in the tiles and in the Tarn stays. -/
theorem State.drainEnded_ridge (s : State) {n : Nat} {o : TileOp} (hops : (s.ridge n).tileOps = [o]) (hr : o.remote = 0)
    (hs : o.sampled = false) :
    ((s.drainEnded n o).ridge n).tileOps = [] ∧
      (∀ a i, (((s.drainEnded n o).ridge n).arr a).tile i = ((s.ridge n).arr a).tile i) ∧
      ∀ b, ((s.drainEnded n o).ridge n).tarnByte b = (s.ridge n).tarnByte b := by
  simp only [State.drainEnded]
  generalize hu : (if (o.cold && decide (o.blocks = 0)) = true then s.addSat .scl 0x10C 1 else s) = u
  have hridge : u.ridge n = s.ridge n := by rw [← hu]; split <;> rfl
  have hops' : ((s.ridge n).putTile o.drainedBlock).tileOps = [o.drainedBlock] := by
    simp [Ridge.putTile, hops, TileOp.drainedBlock]
  have hput : (u.setRidge n ((u.ridge n).putTile o.drainedBlock)).ridge n = (s.ridge n).putTile o.drainedBlock := by
    rw [State.ridge_setRidge_same, hridge]
  rw [← hput] at hops'
  obtain ⟨hnone, htile, hbyte⟩ := State.finishTile_sole _ hops' hr hs
  rw [hput] at htile hbyte
  exact ⟨hnone, htile, hbyte⟩

section
variable {s : State} {n i : Nat} {o : TileOp} (h : s.SoleDrain n i o)
include h

theorem State.SoleDrain.due_eq : o.due = [([i], 0, 0)] := by
  simp [TileOp.due, tdTwinA, tdTwinB, h.single, h.passed, h.tiles]

theorem State.SoleDrain.late_eq : o.late = false := by simp [TileOp.late, h.unchained]

theorem State.SoleDrain.rowsOf_eq : o.rowsOf i = tdRows o.desc.words := by
  simp [TileOp.rowsOf, tdTwinA, tdTwinB, h.single]

theorem State.SoleDrain.of_tileOps {u : State} (hu : (u.ridge n).tileOps = (s.ridge n).tileOps) : u.SoleDrain n i o :=
  { h with ops := hu.trans h.ops }

/-- The drain of one tile is one group: no preload, so nothing that stops it (R137, R138). -/
theorem State.SoleDrain.dueGroups_eq (raw : Nat) :
    s.dueGroups n o raw = [{ ts := [i], base := 0, chain := tdChain o.desc.words, raw := raw, rows := tdRows o.desc.words
                             cs := [s.closedTile n o i], own := [s.closedTile n o i], bad := false, reason := 0 }] := by
  simp [State.dueGroups, h.due_eq, State.closeGroup, State.closeTile, State.closedTile, h.late_eq, h.rowsOf_eq]

theorem State.SoleDrain.drainGroup_eq (g : Group) (hg : g.bad = false) (m : MemUse) :
    s.drainGroup n o g m = s.drainConv n o.id o g.cs g.own g.base g.rows m := by
  simp [State.drainGroup, h.late_eq, hg, h.converts]

theorem State.SoleDrain.twinA_eq : tdTwinA o.desc.words = false := by simp [tdTwinA, h.single]

/-- Nothing stops the drain: no chain is missing, and its output is not raw (R136, R137). -/
theorem State.SoleDrain.drainReason_eq (raw : Nat) {g : Group} (hg : g.reason = 0) :
    drainReason o.desc.words raw [g] = 0 := by
  simp [drainReason, hg, h.converts]

theorem State.SoleDrain.drainBegun_ridge :
    ∃ arrs, (s.drainBegun n i o).ridge n = (s.ridge n).withArrs arrs ∧
      (((s.drainBegun n i o).ridge n).arr (tdArray o.desc.words)).tile i =
        (((s.ridge n).arr (tdArray o.desc.words)).tile i).loosen (s.opRaces n o) := by
  rw [State.drainBegun, State.ridge_of_ridges_eq (State.slotReads_ridges _ _ _ _)]
  exact s.loosen_ridge _ h.tiles

theorem State.SoleDrain.drainBegun : (s.drainBegun n i o).SoleDrain n i o := by
  obtain ⟨arrs, hr, -⟩ := h.drainBegun_ridge
  exact h.of_tileOps (by rw [hr, Ridge.tileOps_withArrs])

theorem State.SoleDrain.drainFreed : (s.drainFreed n i o).SoleDrain n i o := by
  obtain ⟨arrs, hr, -⟩ := s.drainFreed_ridge n i o
  exact h.of_tileOps (by rw [hr, Ridge.tileOps_withArrs])

/-- The drain of one tile by the only op of its Ridge, in its four parts: it begins, the tile is freed, the results are
written, the op ends (R128 to R130). -/
theorem State.SoleDrain.exec_tileDrain {ridge array : Fin 64} (hn : ridge.val = n) (ha : tdArray o.desc.words = array.val)
    (m : MemUse) (hslot : s.slotBad n (((s.ridge n).arr array.val).tile i) = [])
    (hops : ((s.drainWritten n i o m).ridge n).tileOps = [o]) :
    exec (.tileDrain ridge array .good .good m) s = .next ((s.drainWritten n i o m).drainEnded n o) := by
  have hfind : ((s.ridge n).tileOps.find? fun o => tdArray o.desc.words == array.val && tdDrain o.desc.words &&
      (o.ph == .passed || o.ph == .atArray) && !o.due.isEmpty) = some o := by
    simp [h.ops, ha, h.drains, h.passed, h.due_eq]
  have hbegun := h.drainBegun
  have hgroup := hbegun.drainFreed.drainGroup_eq
  have hfreed : ∀ u : State, (if [i].any (fun t => (((u.ridge n).arr (tdArray o.desc.words)).tile t).loose) = true
      then (u.freeTiles n (tdArray o.desc.words) [i]).fresh else u.freeTiles n (tdArray o.desc.words) [i]) =
      u.drainFreed n i o := fun u => by simp [State.drainFreed, State.freeTiles]
  change execTileDrain _ _ _ _ _ _ = _
  subst hn
  simp only [execTileDrain, hfind, h.due_eq, List.flatMap_cons, List.flatMap_nil, List.append_nil, List.foldl_cons,
    List.foldl_nil, State.tarnErr, State.drainErr_good s o.id hslot]
  simp only [← ha, ← State.drainBegun.eq_def, Ridge.tileOp?_sole hbegun.ops, hbegun.dueGroups_eq, h.drainReason_eq, hfreed,
    List.foldl_cons, List.foldl_nil, hgroup, ← State.drainWritten.eq_def, Ridge.tileOp?_sole hops, h.twinA_eq]
  rfl

/-- Where no poison reaches what is written, the results are the rows of the closed tile, and they stand in the Tarn with the
tile freed (R128, R130). -/
theorem State.SoleDrain.drainWritten_rows (m : MemUse)
    (hclean : ∀ m < tdRows o.desc.words, ∀ k < tdCols o.desc.words,
      ((((s.ridge n).arr (tdArray o.desc.words)).tile i).close o).isBad (m * 32 + k) = false ∧
      ((s.ridge n).outEl o [(((s.ridge n).arr (tdArray o.desc.words)).tile i).close o] 0 (m * 32 + k) m k).epiBad = false) :
    ((s.drainWritten n i o m).ridge n).tileOps = [o] ∧
      (((s.drainWritten n i o m).ridge n).arr (tdArray o.desc.words)).tile i = {} ∧
      ∀ b, ((s.drainWritten n i o m).ridge n).tarnByte b =
        ((s.ridge n).tarnRuns ((s.ridge n).rowRuns o ((s.drainBegun n i o).closedTile n o i))).tarnByte b := by
  obtain ⟨arrs₁, hbegun, htile⟩ := h.drainBegun_ridge
  obtain ⟨arrs₂, hfreed, hempty⟩ := (s.drainBegun n i o).drainFreed_ridge n i o
  rw [hbegun, Ridge.withArrs_withArrs] at hfreed
  have hbad : ∀ k, ((s.drainBegun n i o).closedTile n o i).isBad k =
      ((((s.ridge n).arr (tdArray o.desc.words)).tile i).close o).isBad k := fun k => by
    rw [State.isBad_closedTile, htile, Tile.isBad_close_loosen]
  obtain ⟨b, hb⟩ := State.drainConv_ridge ((s.drainBegun n i o).drainFreed n i o) (o := o)
    [(s.drainBegun n i o).closedTile n o i] [(s.drainBegun n i o).closedTile n o i] 0 (tdRows o.desc.words) m
    h.drainBegun.drainFreed.ops h.toTarn (by
      intro e he
      rw [Ridge.outRows_plain _ _ _ h.rowwise] at he
      obtain ⟨l, hl, he⟩ := List.mem_flatten.mp he
      obtain ⟨m, hm, rfl⟩ := List.mem_map.mp hl
      obtain ⟨k, hk, rfl⟩ := List.mem_map.mp he
      obtain ⟨hc, he⟩ := hclean m (List.mem_range.mp hm) k (List.mem_range.mp hk)
      rw [hfreed, Ridge.outEl_withArrs]
      exact ⟨(hbad _).trans hc, he⟩)
  change (s.drainWritten n i o m).ridge n = _ at hb
  refine ⟨?_, ?_, fun a => ?_⟩
  · rw [hb, Ridge.tileOps_spoil, Ridge.tileOps_tarnRuns, h.drainBegun.drainFreed.ops]
  · rw [hb, Ridge.arr_spoil, Ridge.arr_tarnRuns, hempty]
  · rw [hb, Ridge.tarnByte_spoil, hfreed, Ridge.outRows_withArrs, Ridge.tarnRuns_withArrs, Ridge.tarnByte_withArrs]
    rfl

/-- Where nothing made the sums unpredictable, the tile is closed as it stands (R96, R121). -/
theorem State.SoleDrain.closedTile_drainBegun (hl : (((s.ridge n).arr (tdArray o.desc.words)).tile i).loose = false)
    (hr : s.opRaces n o = false) :
    (s.drainBegun n i o).closedTile n o i = (((s.ridge n).arr (tdArray o.desc.words)).tile i).close o := by
  obtain ⟨-, -, htile⟩ := h.drainBegun_ridge
  rw [hr, Tile.loosen_false] at htile
  rw [State.closedTile_of_not_loose (by rw [htile, hl]), htile]

end

theorem Ridge.tarnRead_congr {r t : Ridge} (h : ∀ b, t.tarnByte b = r.tarnByte b) (a k : Nat) :
    t.tarnRead a k = r.tarnRead a k := by
  simp only [Ridge.tarnRead, h]

/-! ### The obligation -/

/-- Settles O13: the drain begins, frees its tile, writes the rows of the closed tile one after another, and ends its op. -/
theorem tileDrainWritesItsOutput : Obligations.TileDrainWritesItsOutput := by
  unfold Obligations.TileDrainWritesItsOutput
  intro s n a m r o d c i hr hops hph hd ha htiles _ hc hpair hdrain hraw htarn htout haccIn hremote hsampled hfit hin hslot hclean
  subst hr hd hc
  have h : s.SoleDrain n.val i o :=
    ⟨hops, hph, htiles, hpair, hdrain, hraw, htarn, htout, haccIn, hremote, hsampled⟩
  have hrows : o.RowsInTarn := ⟨htout, hfit, hin⟩
  rw [← ha] at hclean ⊢
  obtain ⟨hopsw, htilew, hbytew⟩ := h.drainWritten_rows m hclean
  obtain ⟨hnone, htile, hbyte⟩ := State.drainEnded_ridge _ hopsw hremote hsampled
  have hbytes := fun b => (hbyte b).trans (hbytew b)
  refine ⟨_, h.exec_tileDrain rfl ha m hslot hopsw, fun hloose hraces row hrow col hcol hp => ?_, fun b hb => ?_,
    (htile _ _).trans htilew, hnone⟩
  · rw [h.closedTile_drainBegun hloose hraces] at hbytes
    exact (Ridge.tarnRead_congr hbytes _ _).trans (Ridge.tarnRead_rowRuns hrows hrow hcol hp)
  · exact (hbytes b).trans (Ridge.tarnByte_rowRuns_outside hrows hb)

end Sys2Proof.Machine
end

section
/-! PROOF. An element-wise op of Brook in fast mode (R155, R156, R158, R203). -/
namespace Sys2Proof.Machine

/-! ### Runs read back from the Tarn (R203) -/

/-- Of runs that share no byte each reads back whole where no word of it was poisoned. -/
theorem Ridge.tarnRead_tarnRuns (r : Ridge) {runs : List (Nat × List Byte)} (hd : runs.Pairwise RunsApart) {a k : Nat}
    {bs : List Byte} (hx : (a, bs) ∈ runs) (hk : bs.length = k) (hp : r.tarnPoison a k = false) :
    (r.tarnRuns runs).tarnRead a k = bs := by
  subst hk
  refine List.ext_getElem (by simp [Ridge.tarnRead]) fun j _ hj => ?_
  simp only [Ridge.tarnRead, List.getElem_map, List.getElem_range]
  exact r.tarnByte_tarnRuns hd hx hj (Ridge.tarnBad_of_tarnPoison hp hj)

theorem Ridge.tarnPoison_of_tarnBad {r t : Ridge} (h : ∀ w, r.tarnBad.has w = false → t.tarnBad.has w = false) {a k : Nat}
    (hp : r.tarnPoison a k = false) : t.tarnPoison a k = false := by
  simp only [Ridge.tarnPoison, List.any_eq_false, Bool.not_eq_true] at hp ⊢
  exact fun w hw => h w (hp w hw)

@[simp] theorem Ridge.brookOps_spoil (r : Ridge) (b : Bool) : (r.spoil b).brookOps = r.brookOps := by cases b <;> rfl

/-! ### The functions that are element-wise (R155 to R159) -/

/-- The op is element-wise, in fast mode, and its destination is not of 4 bits. -/
structure BrookOp.FastElementwise (o : BrookOp) : Prop where
  fast : bdStrict o.desc.words = false
  notOpt : fnOpt (bdFn o.desc.words) = false
  notRow : fnRow (bdFn o.desc.words) = false
  notTo4 : bdTo4 o.desc.words = false

/-- An op other than an optimiser update writes D alone. -/
theorem bdWrites_of_not_opt {d : List W32} (h : fnOpt (bdFn d) = false) : bdWrites d = [3] := by
  simp only [fnOpt, Bool.or_eq_false_iff, beq_eq_false_iff_ne] at h
  obtain ⟨hadamw, hsgdm⟩ := h
  simp [bdWrites, hadamw, hsgdm]

theorem BrookOp.addr_of_not_row {o : BrookOp} (h : fnRow (bdFn o.desc.words) = false) (row i : Nat) :
    o.addr 3 row i = bdAddr o.desc.words 3 + row * bdStride o.desc.words 3 + i * (o.fmt 3).bytes := by
  simp [BrookOp.addr, BrookOp.kind, h]

/-! ### One element (R155, R156) -/

/-- The value of operand `x` at (row, i), zero where the function does not use it. -/
def Ridge.brArg (r : Ridge) (o : BrookOp) (row i x : Nat) : Num :=
  if x ∈ fnUses (bdFn o.desc.words) then (r.brElem o x row i).x else .fin false 0 0

/-- An operand at (row, i) is NaN. -/
def Ridge.brNan (r : Ridge) (o : BrookOp) (row i : Nat) : Bool :=
  (r.brArg o row i 0).isNan || (r.brArg o row i 1).isNan || (r.brArg o row i 2).isNan

/-- The function's exact result at (row, i). -/
def Ridge.brResult (r : Ridge) (o : BrookOp) (row i : Nat) : FnRes :=
  fnValue (bdFn o.desc.words) (r.brArg o row i 0) (r.brArg o row i 1) (r.brArg o row i 2)

/-- What an element-wise op in fast mode stores for (row, i) where no poison lay. -/
def Ridge.brOut (r : Ridge) (o : BrookOp) (free row i : Nat) : BOut :=
  { x := 3, row := row, i := i, bad := false
    code := o.roundFast free 3 0 row i (r.brNan o row i) (o.nonsat 3) (r.brResult o row i)
    v := fastValue free row i (r.brNan o row i) (r.brResult o row i) }

/-- No source of the op at (row, i) holds poison. -/
def Ridge.BrClean (r : Ridge) (o : BrookOp) (row i : Nat) : Prop :=
  ∀ x ∈ fnUses (bdFn o.desc.words), (r.brElem o x row i).bad = false

/-- `run'` holds what `run` holds and `outs` after it, and has met no poison since. -/
def BRun.Gathers (run run' : BRun) (outs : List BOut) : Prop :=
  run'.outs = outs.reverse ++ run.outs ∧ run'.poison = run.poison

theorem Ridge.brElement_gathers {r : Ridge} {o : BrookOp} (free : Nat) {row i : Nat} (run : BRun)
    (hfast : bdStrict o.desc.words = false) (hclean : r.BrClean o row i) :
    run.Gathers (r.brElement o free row run i) [r.brOut o free row i] := by
  have hval : ∀ x, (if (fnUses (bdFn o.desc.words)).contains x then r.brElem o x row i else {}).x = r.brArg o row i x :=
    fun x => by simp only [Ridge.brArg, List.contains_iff_mem]; split <;> rfl
  have hbad : ∀ x, (if (fnUses (bdFn o.desc.words)).contains x then r.brElem o x row i else {}).bad = false := fun x => by
    split
    case isTrue h => exact hclean x (List.contains_iff_mem.mp h)
    case isFalse => rfl
  simp only [BRun.Gathers, Ridge.brElement, hval, hbad, hfast, Bool.or_false, Bool.false_eq_true, if_false]
  exact ⟨rfl, trivial⟩

/-! ### All elements of an op -/

/-- Parts that each gather their values gather them one after another. -/
theorem BRun.gathers_foldl {f : BRun → Nat → BRun} {g : Nat → List BOut} {l : List Nat}
    (h : ∀ run : BRun, ∀ k ∈ l, run.Gathers (f run k) (g k)) (run : BRun) : run.Gathers (l.foldl f run) (l.flatMap g) := by
  induction l generalizing run with
  | nil => exact ⟨rfl, rfl⟩
  | cons k l ih =>
    obtain ⟨houts, hpoison⟩ := h run k List.mem_cons_self
    obtain ⟨houts', hpoison'⟩ := ih (fun run k hk => h run k (List.mem_cons_of_mem _ hk)) (f run k)
    refine ⟨?_, hpoison'.trans hpoison⟩
    rw [List.foldl_cons, houts', houts, List.flatMap_cons, List.reverse_append, List.append_assoc]

/-- All that an element-wise op in fast mode stores, row by row. -/
def Ridge.brOuts (r : Ridge) (o : BrookOp) (free : Nat) : List BOut :=
  (List.range (bdRows o.desc.words)).flatMap fun row => (List.range (bdLen o.desc.words)).flatMap fun i =>
    [r.brOut o free row i]

theorem Ridge.mem_brOuts {r : Ridge} {o : BrookOp} {free : Nat} {b : BOut} :
    b ∈ r.brOuts o free ↔ ∃ row < bdRows o.desc.words, ∃ i < bdLen o.desc.words, b = r.brOut o free row i := by
  simp only [Ridge.brOuts, List.mem_flatMap, List.mem_range, List.mem_singleton]

/-- An op whose sources hold no poison gathers every element, and meets none. -/
theorem Ridge.brRun_gathers {r : Ridge} {o : BrookOp} (h : o.FastElementwise) (free : Nat)
    (hclean : ∀ row < bdRows o.desc.words, ∀ i < bdLen o.desc.words, r.BrClean o row i) :
    ({} : BRun).Gathers (r.brRun o free) (r.brOuts o free) := by
  simp only [Ridge.brRun, h.notRow, h.notOpt, Bool.false_eq_true, if_false]
  refine BRun.gathers_foldl (fun run row hrow => BRun.gathers_foldl (fun run i hi => ?_) run) {}
  exact Ridge.brElement_gathers free run h.fast (hclean row (List.mem_range.mp hrow) i (List.mem_range.mp hi))

/-! ### The store (R158, R203) -/

/-- The bytes of one value and where they go. -/
def BrookOp.outRun (o : BrookOp) (b : BOut) : Nat × List Byte :=
  (o.addr b.x b.row b.i, leBytes (o.fmt b.x).bytes b.code)

/-- The rows that the op writes whole lose their poison first. -/
def Ridge.brClear (r : Ridge) (o : BrookOp) : Ridge :=
  (bdWrites o.desc.words).foldl (fun r x => (List.range (bdRows o.desc.words)).foldl (fun (r : Ridge) row =>
    r.tarnClear (o.addr x row 0) ((if fnRow (bdFn o.desc.words) then 1 else bdLen o.desc.words) * (o.fmt x).bytes)) r) r

theorem Ridge.tarnBad_brClear (r : Ridge) (o : BrookOp) {w : Nat} (h : r.tarnBad.has w = false) :
    (r.brClear o).tarnBad.has w = false :=
  List.foldlRecOn (motive := fun t : Ridge => t.tarnBad.has w = false) _ _ h fun _ ht _ _ =>
    List.foldlRecOn (motive := fun t : Ridge => t.tarnBad.has w = false) _ _ ht fun t ht _ _ => t.tarnBad_tarnClear ht

/-- Values that no poison has reached are written one after another. -/
theorem Ridge.brStore_clean (r : Ridge) (o : BrookOp) {outs : List BOut} (h : ∀ b ∈ outs, b.bad = false) :
    r.brStore o outs = (r.brClear o).tarnRuns (outs.map o.outRun) := by
  have hnone : outs.filter BOut.bad = [] := List.filter_eq_nil_iff.mpr fun b hb => by simp [h b hb]
  simp only [Ridge.brStore, hnone, List.foldl_nil, Ridge.tarnRuns, List.foldl_map]
  rfl

/-- One of several blocks of one size ends before a later one begins. -/
theorem mul_add_self_le_mul_of_lt {k l : Nat} (size : Nat) (h : k < l) : k * size + size ≤ l * size := by
  rw [← Nat.succ_mul]
  exact Nat.mul_le_mul_right _ h

section
variable {r : Ridge} {o : BrookOp} {free : Nat} (h : o.FastElementwise)
include h

theorem Ridge.outRun_brOut (row i : Nat) : o.outRun (r.brOut o free row i) =
    (bdAddr o.desc.words 3 + row * bdStride o.desc.words 3 + i * (o.fmt 3).bytes,
      leBytes (o.fmt 3).bytes (r.brOut o free row i).code) :=
  Prod.ext (BrookOp.addr_of_not_row h.notRow row i) rfl

/-- The elements of D share no byte where a row fits in its stride (R92). -/
theorem Ridge.outRuns_apart (hfit : bdLen o.desc.words * (o.fmt 3).bytes ≤ bdStride o.desc.words 3) :
    ((r.brOuts o free).map o.outRun).Pairwise RunsApart := by
  rw [List.pairwise_map, Ridge.brOuts, List.pairwise_flatMap]
  refine ⟨fun row _ => ?_, List.pairwise_lt_range.imp fun {row row'} hrow x hx y hy => ?_⟩
  · refine List.pairwise_flatMap.mpr ⟨fun i _ => List.pairwise_singleton _ _,
      List.pairwise_lt_range.imp fun {i j} hij x hx y hy => ?_⟩
    rw [List.mem_singleton.mp hx, List.mem_singleton.mp hy, Ridge.outRun_brOut h, Ridge.outRun_brOut h]
    have hnext := mul_add_self_le_mul_of_lt (o.fmt 3).bytes hij
    simp only [RunsApart, length_leBytes]
    omega
  · obtain ⟨i, hi, hx⟩ := List.mem_flatMap.mp hx
    obtain ⟨j, -, hy⟩ := List.mem_flatMap.mp hy
    rw [List.mem_singleton.mp hx, List.mem_singleton.mp hy, Ridge.outRun_brOut h, Ridge.outRun_brOut h]
    have hin := mul_add_self_le_mul_of_lt (o.fmt 3).bytes (List.mem_range.mp hi)
    have hnext := mul_add_self_le_mul_of_lt (bdStride o.desc.words 3) hrow
    simp only [RunsApart, length_leBytes]
    omega

/-- The store puts the code of every element at the element's address, but in poisoned words (R203). -/
theorem Ridge.tarnRead_brStore (hfit : bdLen o.desc.words * (o.fmt 3).bytes ≤ bdStride o.desc.words 3) {row i : Nat}
    (hrow : row < bdRows o.desc.words) (hi : i < bdLen o.desc.words)
    (hp : r.tarnPoison (o.addr 3 row i) (o.fmt 3).bytes = false) :
    (r.brStore o (r.brOuts o free)).tarnRead (o.addr 3 row i) (o.fmt 3).bytes =
      leBytes (o.fmt 3).bytes (r.brOut o free row i).code := by
  have hgood : ∀ b ∈ r.brOuts o free, b.bad = false := fun b hb => by
    obtain ⟨_, _, _, _, rfl⟩ := Ridge.mem_brOuts.mp hb
    rfl
  have hmem : o.outRun (r.brOut o free row i) ∈ (r.brOuts o free).map o.outRun :=
    List.mem_map_of_mem (Ridge.mem_brOuts.mpr ⟨row, hrow, i, hi, rfl⟩)
  have hclear := Ridge.tarnPoison_of_tarnBad (t := r.brClear o) (fun _ => r.tarnBad_brClear o) hp
  rw [r.brStore_clean o hgood]
  exact (r.brClear o).tarnRead_tarnRuns (Ridge.outRuns_apart h hfit) hmem (length_leBytes _ _) hclear

/-! ### The op runs -/

/-- An op that has run: it owes the amax of what it wrote, and only waits to complete (R69, R167). -/
def BrookOp.ran (o : BrookOp) (outs : List BOut) : BrookOp :=
  { o with done := true, folds := (bdWrites o.desc.words).flatMap fun x => o.amax outs x }

/-- A Ridge whose oldest Brook op, `o`, has run and has stored `outs`. -/
def Ridge.brRan (r : Ridge) (o : BrookOp) (rest : List BrookOp) (outs : List BOut) : Ridge :=
  { r.brStore o outs with brookOps := o.ran outs :: rest }

/-- An op that suits its sources, overlaps nothing and races with nothing stores all its elements and then only waits to
complete. -/
theorem State.exec_brookOpExecute_fast {s : State} {n : Fin 64} {rest : List BrookOp} (hr : s.ridge n.val = r)
    (hops : r.brookOps = o :: rest) (hdone : o.done = false) (hzero : r.zeroing = false) (hraw : r.brRawBad o = false)
    (hover : o.overlaps r 3 = false) (hrace : s.brRaces n.val o = false)
    (hclean : ∀ row < bdRows o.desc.words, ∀ i < bdLen o.desc.words, r.BrClean o row i) :
    ∃ t, exec (.brookOpExecute n .good) s = .next t ∧
      t.ridge n.val = (r.brRan o rest (r.brOuts o s.free)).spoil
        (spansMeet ((bdWrites o.desc.words).flatMap (o.spans 1)) (s.tarnSlots n.val)) ∧
      t.tallies = s.tallies ∧ t.mem = s.mem := by
  obtain ⟨houts, hpoison⟩ := Ridge.brRun_gathers h s.free hclean
  have hwrites := bdWrites_of_not_opt h.notOpt
  change ∃ t, execBrookOpExecute n .good s = _ ∧ _
  have hread : (s.tarnReads n.val (o.readSpans r)).ridge n.val = r := by
    rw [State.ridge_of_ridges_eq (State.tarnReads_ridges _ _ _), hr]
  have hfree : (s.tarnReads n.val (o.readSpans r)).free = s.free := State.event_free _ _ _ _
  have hkeep : (r.brRun o s.free).outs.reverse = r.brOuts o s.free := by simp [houts]
  simp only [execBrookOpExecute, hr, hops, hdone, hzero, Bool.or_self, Bool.false_eq_true, if_false, State.tarnErr, hread, hraw,
    hfree, hrace, hwrites, hover, Bool.false_or, List.filter_cons, List.filter_nil, List.contains_nil, List.map_id', hkeep,
    h.notTo4, h.fast, hpoison, Ridge.brRan, BrookOp.ran]
  refine ⟨_, rfl, ?_, ?_, ?_⟩
  · rw [State.ridge_of_ridges_eq (State.tarnWrites_ridges _ _ _), State.ridge_of_ridges_eq (State.event_ridges _ _ _ _),
      State.ridge_setRidge_same]
  · simp [State.tarnWrites, State.tarnReads]
  · simp [State.tarnWrites, State.tarnReads]

end

/-! ### The obligation -/

/-- Settles O15: the op gathers the code of every element, and stores them at places that share no byte. -/
theorem brookWritesEveryElement : Obligations.BrookWritesEveryElement := by
  unfold Obligations.BrookWritesEveryElement
  intro s n r o rest d hr hops hdone hzero hd hfast hopt hrow hto4 hraw hover hrace hfit _ hclean
  subst hd
  have h : o.FastElementwise := ⟨hfast, hopt, hrow, hto4⟩
  obtain ⟨t, hexec, hridge, htallies, hmem⟩ :=
    State.exec_brookOpExecute_fast h hr.symm hops hdone hzero hraw hover hrace hclean
  have hbyte : ∀ a, (t.ridge n.val).tarnByte a = (r.brStore o (r.brOuts o s.free)).tarnByte a := fun a => by
    rw [hridge, Ridge.tarnByte_spoil]; rfl
  refine ⟨t, hexec, fun row hrow i hi => ?_, ⟨o.ran (r.brOuts o s.free), ?_, rfl, rfl, rfl⟩, htallies, hmem⟩
  · exact fun hp => (Ridge.tarnRead_congr hbyte _ _).trans (Ridge.tarnRead_brStore h hfit hrow hi hp)
  · rw [hridge, Ridge.brookOps_spoil]
    rfl

end Sys2Proof.Machine
end

section
/-! PROOF. How a Rill core performs an instruction (R219, R222), and what that leaves alone (R216); Rill's arithmetic, compares and
control flow (R220, R221), and the taking of exceptions (R233, R234). -/
namespace Sys2Proof.Machine

/-! ### Effects on registers, messages and one core -/

theorem State.event_eq_io (s : State) (p : Page) (code n : Nat) : s.event p code n = { s with io := (s.event p code n).io } := by
  simp only [State.event]
  split <;> split <;> rfl

theorem State.irqUpdate_eq_io_out (s : State) (p : Page) :
    s.irqUpdate p = { s with io := (s.irqUpdate p).io, out := (s.irqUpdate p).out } := by
  simp only [State.irqUpdate, State.sendVector]
  split
  · rfl
  · split
    · split <;> rfl
    · rfl

theorem State.detect_eq_io_out (s : State) (p : Page) (m : W32) :
    s.detect p m = { s with io := (s.detect p m).io, out := (s.detect p m).out } := by
  simp only [State.detect]
  rw [State.irqUpdate_eq_io_out]
  split <;> rfl

section
variable {s t u : State} {c : Nat} {k : Core}

theorem State.onlyCore_refl (s : State) (c : Nat) : s.onlyCore s c (s.core c) := ⟨rfl, fun _ _ => rfl, rfl⟩

theorem State.onlyCore.io (h : s.onlyCore t c k) (hu : u = { t with io := u.io }) : s.onlyCore u c k := by
  obtain ⟨hk, ho, ht⟩ := h
  have hcore : ∀ j, u.core j = t.core j := fun j => by rw [hu]; rfl
  refine ⟨(hcore c).trans hk, fun j hj => (hcore j).trans (ho j hj), ?_⟩
  calc u = { t with io := u.io } := hu
    _ = { s with cores := t.cores, io := u.io } := congrArg (fun v : State => { v with io := u.io }) ht
    _ = { s with cores := u.cores, io := u.io } := by rw [hu]

theorem State.onlyCore.event (h : s.onlyCore t c k) (p : Page) (code n : Nat) : s.onlyCore (t.event p code n) c k :=
  h.io (t.event_eq_io p code n)

theorem State.onlyCore.countErr (h : s.onlyCore t c k) (p : Page) : s.onlyCore (t.countErr p) c k := h.io rfl

theorem State.onlyCore.setCore (h : s.onlyCore t c k) (k' : Core) : s.onlyCore (t.setCore c k') c k' := by
  obtain ⟨_, ho, ht⟩ := h
  exact ⟨State.core_setCore_same _ _ _, fun j hj => (State.core_setCore_ne t hj k').trans (ho j hj),
    congrArg (fun v : State => { v with cores := (t.setCore c k').cores }) ht⟩

end

/-! ### An instruction that executes -/

/-- The state in which an instruction executes: its fetch may have met a corrected error (R217). -/
def State.fetched (s : State) (c : Nat) (e : Ecc) : State := if e = .corrected then s.countErr (.ril c) else s

@[simp] theorem State.fetched_clean (s : State) (c : Nat) : s.fetched c .clean = s := rfl

theorem State.onlyCore.fetched {s t : State} {c : Nat} {k : Core} (h : s.onlyCore t c k) (e : Ecc) :
    s.onlyCore (t.fetched c e) c k := by
  unfold State.fetched
  split
  · exact h.countErr _
  · exact h

theorem State.onlyCore_fetched (s : State) (c : Nat) (e : Ecc) : s.onlyCore (s.fetched c e) c (s.core c) :=
  (s.onlyCore_refl c).fetched e

@[simp] theorem State.core_fetched (s : State) (c : Nat) (e : Ecc) (j : Nat) : (s.fetched c e).core j = s.core j := by
  unfold State.fetched; split <;> simp

@[simp] theorem State.refcnt_fetched (s : State) (c : Nat) (e : Ecc) : (s.fetched c e).refcnt = s.refcnt := by
  unfold State.fetched; split <;> simp

theorem State.rOp_of_performs {s : State} {c op : Nat} (h : s.performs c op = true) : rOp (s.instrWord c) = op := by
  simp only [State.performs, Bool.and_eq_true, beq_iff_eq] at h
  obtain ⟨⟨_, hop⟩, _⟩ := h
  exact hop

/-- An instruction whose guard passes is performed by its own meaning, and retires (R219, R222). -/
theorem State.rill_of_performs {s : State} {c op : Nat} {e : Ecc} {ops : List Nat} (f : State → Core → W32 → Act)
    (h : s.performs c op = true) (he : e ≠ .uncorrectable) (hops : ops.contains op = true) :
    s.rill c e ops f = (s.fetched c e).retire c (f (s.fetched c e) (s.core c) (s.instrWord c)) := by
  have hop := State.rOp_of_performs h
  simp only [State.performs, Bool.and_eq_true, Bool.not_eq_true'] at h
  obtain ⟨⟨⟨hsteps, hgood⟩, _⟩, hguard⟩ := h
  simp only [State.rill, hsteps, hgood]
  rw [← State.instrWord, hop, hops]
  unfold guardPasses at hguard
  by_cases hg : rG (s.instrWord c) = true
  · simp only [hg, if_true] at hguard
    have : ((s.core c).p.getLsbD (rP (s.instrWord c)) == rN (s.instrWord c)) = false := by
      revert hguard
      cases (s.core c).p.getLsbD (rP (s.instrWord c)) <;> cases rN (s.instrWord c) <;> decide
    simp [he, hg, this, State.fetched]
  · simp only [hg, Bool.false_eq_true, if_false, Bool.and_eq_true, Bool.not_eq_true', beq_iff_eq] at hguard
    simp [he, hg, hguard, State.fetched]

/-- A target inside program memory is where the core goes (R222). -/
theorem State.goPc_inside (s : State) (c : Nat) (t : State) {target : Int} {x : BitVec 14} (h : target = x.toNat) :
    s.goPc c target t = (t.setCore c { t.core c with pc := x }).event (.ril c) 0x02 1 := by
  have hx := x.isLt
  have hin : ¬ (target < 0 ∨ 16384 ≤ target) := by omega
  have hpc : BitVec.ofNat 14 target.toNat = x := by
    rw [h, Int.toNat_natCast, BitVec.ofNat_toNat, BitVec.setWidth_eq]
  rw [State.goPc, if_neg hin, hpc]

theorem State.retire_jump (s : State) (c : Nat) (t : State) {target : Int} {x : BitVec 14} (h : target = x.toNat) :
    s.retire c (.jump target t) = (t.setCore c { t.core c with pc := x }).event (.ril c) 0x02 1 := s.goPc_inside c t h

theorem toNat_add_one_of_ne {pc : BitVec 14} (h : pc.toNat ≠ 16383) : (pc + 1).toNat = pc.toNat + 1 := by
  bv_omega

theorem State.retire_next {s : State} {c : Nat} (t : State) (hpc : (s.core c).pc.toNat ≠ 16383) :
    s.retire c (.next t) = (t.setCore c { t.core c with pc := (s.core c).pc + 1 }).event (.ril c) 0x02 1 :=
  s.goPc_inside c t (by rw [toNat_add_one_of_ne hpc]; rfl)

section
variable {s u v : State} {c op : Nat} {e : Ecc} {ops : List Nat} {f : State → Core → W32 → Act} {k' : Core}

/-- An instruction whose effect is that of `v` but for its core goes on to the next one. -/
theorem State.rill_next (h : s.performs c op = true) (he : e ≠ .uncorrectable) (hpc : (s.core c).pc.toNat ≠ 16383)
    (hops : ops.contains op = true) (hf : f (s.fetched c e) (s.core c) (s.instrWord c) = .next u)
    (hu : v.onlyCore u c k') : v.onlyCore (s.rill c e ops f) c { k' with pc := (s.core c).pc + 1 } := by
  have hpc' : ((s.fetched c e).core c).pc.toNat ≠ 16383 := by rwa [State.core_fetched]
  obtain ⟨rfl, _⟩ := id hu
  rw [State.rill_of_performs f h he hops, hf, State.retire_next u hpc', State.core_fetched]
  exact (hu.setCore _).event _ _ _

/-- An instruction whose effect is that of `v` but for its core jumps inside program memory (R222). -/
theorem State.rill_jump {target : Int} {x : BitVec 14} (h : s.performs c op = true) (he : e ≠ .uncorrectable)
    (hops : ops.contains op = true) (hf : f (s.fetched c e) (s.core c) (s.instrWord c) = .jump target u)
    (hx : target = x.toNat) (hu : v.onlyCore u c k') : v.onlyCore (s.rill c e ops f) c { k' with pc := x } := by
  obtain ⟨rfl, _⟩ := id hu
  rw [State.rill_of_performs f h he hops, hf, State.retire_jump _ c u hx]
  exact (hu.setCore _).event _ _ _

/-- An instruction that writes one register. -/
theorem State.rill_writeReg {d : Nat} {x : W64} (h : s.performs c op = true) (he : e ≠ .uncorrectable)
    (hpc : (s.core c).pc.toNat ≠ 16383) (hops : ops.contains op = true)
    (hf : f (s.fetched c e) (s.core c) (s.instrWord c) = Machine.writeReg (s.fetched c e) c (s.core c) d x) :
    s.onlyCore (s.rill c e ops f) c { (s.core c).setReg d x with pc := (s.core c).pc + 1 } :=
  State.rill_next h he hpc hops hf ((s.onlyCore_fetched c e).setCore _)

/-- An instruction that raises an exception (R232). -/
theorem State.rill_exc {code addr : Nat} (h : s.performs c op = true) (hops : ops.contains op = true)
    (hf : f s (s.core c) (s.instrWord c) = .exc code addr) : s.rill c .clean ops f = s.syncExc c code addr := by
  rw [State.rill_of_performs f h (by decide) hops, State.fetched_clean, hf]
  rfl

end

/-! ### Arithmetic and immediates (R220) -/

theorem rZx14_eq (w : W32) : rZx14 w = (w.extractLsb' 0 14).setWidth 64 := by
  apply BitVec.eq_of_toNat_eq
  simp [rZx14, rImm, fld, bits, w64]

theorem w64_fld_17_0 (w : W32) : w64 (fld w 17 0) = (w.extractLsb' 0 18).setWidth 64 := by
  apply BitVec.eq_of_toNat_eq
  simp [fld, bits, w64]

section
variable {s : State} {c op : Nat} {e : Ecc} (h : s.performs c op = true) (he : e ≠ .uncorrectable)
  (hpc : (s.core c).pc.toNat ≠ 16383)
include h he hpc

theorem State.rill_aluR (f : W64 → W64 → W64) (hlow : fld (s.instrWord c) 9 0 = 0) :
    s.onlyCore (s.rill c e [op] (aluR c f)) c
      { (s.core c).setReg (rD (s.instrWord c))
          (f ((s.core c).reg (rA (s.instrWord c))) ((s.core c).reg (rB (s.instrWord c)))) with pc := (s.core c).pc + 1 } :=
  State.rill_writeReg h he hpc (by simp) (if_neg fun hn => hn hlow)

theorem State.rill_aluI (imm : W32 → W64) (f : W64 → W64 → W64) :
    s.onlyCore (s.rill c e [op] (aluI c imm f)) c
      { (s.core c).setReg (rD (s.instrWord c)) (f ((s.core c).reg (rA (s.instrWord c))) (imm (s.instrWord c))) with
        pc := (s.core c).pc + 1 } :=
  State.rill_writeReg h he hpc (by simp) rfl

theorem State.rill_shiftI (f : W64 → Nat → W64) (hz : fld (s.instrWord c) 13 6 = 0) :
    s.onlyCore (s.rill c e [op] (shiftI c f)) c
      { (s.core c).setReg (rD (s.instrWord c)) (f ((s.core c).reg (rA (s.instrWord c))) (fld (s.instrWord c) 5 0)) with
        pc := (s.core c).pc + 1 } :=
  State.rill_writeReg h he hpc (by simp) (if_neg fun hn => hn hz)

end

/-! ### Compares (R221) -/

theorem getLsbD_setPred (k : Core) {i j : Nat} (b : Bool) (hi : i < 4) (hj : j < 4) :
    (k.setPred i b).p.getLsbD j = if j = i then b else k.p.getLsbD j := by
  have hij : (i ≤ j ∧ j ≤ i) ↔ j = i := by omega
  simp only [Core.setPred, BitVec.getLsbD_ofNat, hj, decide_true, Bool.true_and, testBit_toNat, setBit,
    getLsbD_setFld _ _ _ _ _ (Nat.lt_trans hi (by decide : 4 < 32)), hij]
  split
  next heq =>
    subst heq
    cases b <;> simp
  next => simp [w32, show j < 32 by omega]

theorem condHolds_eq_getD (cc : Fin 7) (a b : W64) :
    condHolds cc.val a b = ([a == b, a != b, a.slt b, !(a.slt b), a.ult b, !(a.ult b), (a &&& b) != 0].getD cc.val false) :=
  match cc with
  | 0 | 1 | 2 | 3 | 4 | 5 | 6 => rfl

theorem contains_compare (cc : Fin 7) : [0x20, 0x21, 0x22, 0x23, 0x24, 0x25, 0x26, 0x27].contains (0x20 + cc.val) = true := by
  decide +revert

theorem contains_compareImm (cc : Fin 7) :
    [0x28, 0x29, 0x2A, 0x2B, 0x2C, 0x2D, 0x2E, 0x2F].contains (0x28 + cc.val) = true := by
  decide +revert

/-- A compare writes one predicate with its condition between g[A] and `y`. -/
theorem State.rill_compare {s : State} {c op : Nat} {e : Ecc} {ops : List Nat} {f : State → Core → W32 → Act} (cc : Fin 7) {y : W64}
    (h : s.performs c op = true) (he : e ≠ .uncorrectable) (hpc : (s.core c).pc.toNat ≠ 16383) (hops : ops.contains op = true)
    (hf : f (s.fetched c e) (s.core c) (s.instrWord c) =
      .next ((s.fetched c e).setCore c ((s.core c).setPred (fld (s.instrWord c) 19 18)
        (condHolds cc.val ((s.core c).reg (rA (s.instrWord c))) y)))) :
    let t := s.rill c e ops f
    let a := (s.core c).reg (rA (s.instrWord c))
    (∀ i < 4, (t.core c).p.getLsbD i = if i = fld (s.instrWord c) 19 18 then
        ([a == y, a != y, a.slt y, !(a.slt y), a.ult y, !(a.ult y), (a &&& y) != 0].getD cc.val false)
      else (s.core c).p.getLsbD i) ∧
    s.onlyCore t c { s.core c with p := (t.core c).p, pc := (s.core c).pc + 1 } := by
  have ht := State.rill_next h he hpc hops hf ((s.onlyCore_fetched c e).setCore _)
  obtain ⟨hcore, _⟩ := id ht
  refine ⟨fun i hi => ?_, ?_⟩
  · rw [hcore, ← condHolds_eq_getD]
    exact getLsbD_setPred _ _ (fld_lt _ 19 18) hi
  · rw [hcore]
    exact ht

/-! ### Control flow (R220, R222, R233, R234) -/

theorem rOff_eq (w : W32) : rOff w = (w.extractLsb' 0 22).toInt := by
  have hx : (w.extractLsb' 0 22).toNat = w.toNat % 2 ^ 22 := by simp
  simp only [rOff, signedOf, BitVec.toInt, hx]
  have : w.toNat % 2 ^ 22 < 2 ^ (22 - 1) ↔ 2 * (w.toNat % 2 ^ 22) < 2 ^ 22 := by omega
  simp only [this]
  rfl

theorem rImm_eq (w : W32) : BitVec.ofNat 14 (rImm w) = w.extractLsb' 0 14 := by
  apply BitVec.eq_of_toNat_eq
  simp [rImm, fld, bits]

/-- A core that halts retires its instruction. -/
theorem State.rill_halt {s u : State} {c op : Nat} {e : Ecc} {ops : List Nat} {f : State → Core → W32 → Act} {k' : Core}
    (h : s.performs c op = true) (he : e ≠ .uncorrectable) (hops : ops.contains op = true)
    (hf : f (s.fetched c e) (s.core c) (s.instrWord c) = .halt u) (hu : s.onlyCore u c k') :
    s.onlyCore (s.rill c e ops f) c k' := by
  rw [State.rill_of_performs f h he hops, hf]
  exact hu.event _ _ _

/-- The core after an exception (R233, R234): in its handler with `trap`, else FAULTED. -/
def Core.excepted (k : Core) (now cause : W64) (epc handler : BitVec 14) (trap : Bool) : Core :=
  if trap then { k.leaveWait now with cause := cause, epc := epc, inTrap := true, st := .running, pc := handler }
  else { k.leaveWait now with cause := cause, epc := epc, st := .faulted }

theorem Core.leaveWait_kept (k : Core) (now : W64) :
    let l := k.leaveWait now
    l.g = k.g ∧ l.p = k.p ∧ l.imem = k.imem ∧ l.dmem = k.dmem ∧ l.pend = k.pend ∧ l.inq = k.inq ∧ l.ctx = k.ctx ∧
      l.inTrap = k.inTrap ∧ l.pc = k.pc := by
  unfold Core.leaveWait
  split <;> exact ⟨rfl, rfl, rfl, rfl, rfl, rfl, rfl, rfl, rfl⟩

theorem Core.leaveWait_of_waiting {k : Core} (now : W64) (h : k.st = .waiting ∨ k.st = .idle) :
    (k.leaveWait now).waitTally = none ∧ (k.leaveWait now).heldDesc = none := by
  rw [Core.leaveWait, if_pos h]
  exact ⟨rfl, rfl⟩

/-- What an exception leaves of the core as it was. -/
theorem Core.excepted_kept (k : Core) (now cause : W64) (epc handler : BitVec 14) (trap : Bool) :
    let x := k.excepted now cause epc handler trap
    x.g = k.g ∧ x.p = k.p ∧ x.imem = k.imem ∧ x.dmem = k.dmem ∧ x.pend = k.pend ∧ x.inq = k.inq ∧ x.ctx = k.ctx := by
  obtain ⟨hg, hp, himem, hdmem, hpend, hinq, hctx, _⟩ := k.leaveWait_kept now
  cases trap <;> exact ⟨hg, hp, himem, hdmem, hpend, hinq, hctx⟩

/-- What an exception records, and that a wait is abandoned. -/
theorem Core.excepted_records (k : Core) (now cause : W64) (epc handler : BitVec 14) (trap : Bool) :
    let x := k.excepted now cause epc handler trap
    x.epc = epc ∧ x.cause = cause ∧ (k.st = .waiting ∨ k.st = .idle → x.waitTally = none ∧ x.heldDesc = none) := by
  cases trap <;> exact ⟨rfl, rfl, Core.leaveWait_of_waiting now⟩

/-- `t` differs from `s` in core `c`, registers and messages alone. -/
def State.besides (s t : State) (c : Nat) : Prop :=
  (∀ j, j ≠ c → t.core j = s.core j) ∧ t = { s with cores := t.cores, io := t.io, out := t.out }

section
variable {s t u : State} {c : Nat}

theorem State.besides_refl (s : State) (c : Nat) : s.besides s c := ⟨fun _ _ => rfl, rfl⟩

theorem State.besides.io_out (h : s.besides t c) (hu : u = { t with io := u.io, out := u.out }) : s.besides u c := by
  obtain ⟨ho, ht⟩ := h
  refine ⟨fun j hj => Eq.trans (by rw [hu]; rfl) (ho j hj), ?_⟩
  calc u = { t with io := u.io, out := u.out } := hu
    _ = { s with cores := t.cores, io := u.io, out := u.out } := congrArg (fun v : State => { v with io := u.io, out := u.out }) ht
    _ = { s with cores := u.cores, io := u.io, out := u.out } := by rw [hu]

theorem State.besides.event (h : s.besides t c) (p : Page) (code n : Nat) : s.besides (t.event p code n) c :=
  h.io_out (by rw [t.event_eq_io p code n])

theorem State.besides.countErr (h : s.besides t c) (p : Page) : s.besides (t.countErr p) c := h.io_out rfl

theorem State.besides.detect (h : s.besides t c) (p : Page) (m : W32) : s.besides (t.detect p m) c :=
  h.io_out (t.detect_eq_io_out p m)

theorem State.besides.setErr (h : s.besides t c) (p : Page) (i : Nat) : s.besides (t.setErr p i) c := h.detect p _

theorem State.besides.setCore (h : s.besides t c) (k : Core) : s.besides (t.setCore c k) c := by
  obtain ⟨ho, ht⟩ := h
  exact ⟨fun j hj => (State.core_setCore_ne t hj k).trans (ho j hj),
    congrArg (fun v : State => { v with cores := (t.setCore c k).cores }) ht⟩

end

theorem State.core_enterFaulted (s : State) (c : Nat) (cause : W64) (epc : BitVec 14) (errs : W32) :
    (s.enterFaulted c cause epc errs).core c =
      { (s.core c).leaveWait s.refcnt with cause := cause, epc := epc, st := .faulted } := by
  simp [State.enterFaulted]

theorem State.besides.enterFaulted {s t : State} {c : Nat} (h : s.besides t c) (cause : W64) (epc : BitVec 14) (errs : W32) :
    s.besides (t.enterFaulted c cause epc errs) c :=
  ((h.event _ _ _).setCore _).detect _ _

section
variable {s : State} {c : Nat} (cause : W64) (epc : BitVec 14)

theorem State.takeExc_of_trap (h : (s.flag (.ril c) 0x110 31 && !(s.core c).inTrap) = true) :
    s.takeExc c cause epc = (s.event (.ril c) 0x06 1).setCore c
      ((s.core c).excepted s.refcnt cause epc (BitVec.ofNat 14 (s.field (.ril c) 0x110 13 0)) true) := if_pos h

theorem State.takeExc_of_fault (h : (s.flag (.ril c) 0x110 31 && !(s.core c).inTrap) = false) :
    s.takeExc c cause epc = s.enterFaulted c cause epc 1 := if_neg (ne_true_of_eq_false h)

/-- What an exception does to its core. -/
theorem State.core_takeExc (s : State) (c : Nat) (cause : W64) (epc : BitVec 14) :
    (s.takeExc c cause epc).core c = (s.core c).excepted s.refcnt cause epc (BitVec.ofNat 14 (s.field (.ril c) 0x110 13 0))
      (s.flag (.ril c) 0x110 31 && !(s.core c).inTrap) := by
  cases h : (s.flag (.ril c) 0x110 31 && !(s.core c).inTrap) with
  | true => rw [State.takeExc_of_trap cause epc h, State.core_setCore_same]
  | false => rw [State.takeExc_of_fault cause epc h, State.core_enterFaulted]; rfl

/-- An error bit of a core that enters FAULTED is set (R234). -/
theorem State.flag_enterFaulted (s : State) (c : Nat) (cause : W64) (epc : BitVec 14) {errs : W32} {i : Nat}
    (h : bitOf errs i = true) : (s.enterFaulted c cause epc errs).flag (.ril c) 0x010 i = true := by
  simp [State.enterFaulted, State.flag, State.reg_detect, bitOf_or, h]

/-- An exception that is not trapped sets `ERR_STAT.FAULTED` (R234). -/
theorem State.flag_takeExc (h : (s.flag (.ril c) 0x110 31 && !(s.core c).inTrap) = false) :
    (s.takeExc c cause epc).flag (.ril c) 0x010 0 = true := by
  rw [State.takeExc_of_fault cause epc h]
  exact s.flag_enterFaulted c cause epc (by decide)

end

theorem State.besides.takeExc {s t : State} {c : Nat} (h : s.besides t c) (cause : W64) (epc : BitVec 14) :
    s.besides (t.takeExc c cause epc) c := by
  simp only [State.takeExc]
  split
  · exact (h.event _ _ _).setCore _
  · exact h.enterFaulted _ _ _

theorem State.besides.syncExc {s t : State} {c : Nat} (h : s.besides t c) (code addr : Nat) :
    s.besides (t.syncExc c code addr) c := h.takeExc _ _

/-! ### The obligations -/

/-- Settles O20: each opcode is one shape of `rill_writeReg` or of `rill_compare`. -/
theorem rillComputes : Obligations.RillComputes := by
  unfold Obligations.RillComputes
  refine ⟨?_, ?_⟩
  · intro s c e k w hk hw he hpc
    subst hk hw
    have hzx := rZx14_eq (s.instrWord c.val)
    simp only [List.forall_mem_cons, List.not_mem_nil, false_implies, implies_true, and_true, ← hzx, ← w64_fld_17_0]
    refine ⟨?_, ?_, ?_⟩
    · refine ⟨?_, ?_, ?_, ?_, ?_, ?_, ?_, ?_, ?_⟩
      all_goals exact fun h hl => ⟨_, rfl, State.rill_aluR h he hpc _ hl⟩
    · refine ⟨?_, ?_, ?_, ?_, fun h => ⟨_, rfl, State.rill_writeReg h he hpc (by simp) rfl⟩,
        fun h => ⟨_, rfl, State.rill_writeReg h he hpc (by simp) rfl⟩⟩
      all_goals exact fun h => ⟨_, rfl, State.rill_aluI h he hpc _ _⟩
    · refine ⟨?_, ?_, ?_⟩
      all_goals exact fun h hz => ⟨_, rfl, State.rill_shiftI h he hpc _ hz⟩
  · intro s c e k w cc hk hw he hpc hd
    subst hk hw
    simp only [List.forall_mem_cons, List.not_mem_nil, false_implies, implies_true, and_true]
    refine ⟨fun h hl => ⟨_, rfl, ?_⟩, fun h _ => ⟨_, rfl, ?_⟩⟩
    · have hop := State.rOp_of_performs h
      have hcc : rOp (s.instrWord c.val) % 8 = cc.val := by omega
      have hok : ¬ (rOp (s.instrWord c.val) = 0x27 ∨ fld (s.instrWord c.val) 21 20 ≠ 0 ∨ rLow (s.instrWord c.val) ≠ 0) := by
        simp only [rLow, hd, hl]; omega
      exact State.rill_compare cc h he hpc (contains_compare cc) (by rw [if_neg hok, hcc])
    · have hop := State.rOp_of_performs h
      have hcc : rOp (s.instrWord c.val) % 8 = cc.val := by omega
      have hok : ¬ (rOp (s.instrWord c.val) = 0x2F ∨ fld (s.instrWord c.val) 21 20 ≠ 0) := by
        rw [hd]; omega
      exact State.rill_compare cc h he hpc (contains_compareImm cc) (by rw [if_neg hok, hcc]; rfl)

/-- Settles O21: jumps by `rill_jump`; an exception leaves its core as `Core.excepted` says. -/
theorem rillControlFlow : Obligations.RillControlFlow := by
  unfold Obligations.RillControlFlow
  refine ⟨?_, ?_⟩
  · intro s c e k w x hk hw he
    subst hk hw
    have hs := s.onlyCore_fetched c.val e
    refine ⟨fun h hx => ⟨_, rfl, ?_⟩, fun h hx => ⟨_, rfl, ?_⟩, fun h hd hz hx => ⟨_, rfl, ?_⟩, fun h hz htrap => ⟨_, rfl, ?_⟩,
      fun h hd ha => ⟨_, rfl, ?_⟩, fun h hz hpc => ⟨_, rfl, ?_⟩, fun h hz hpc => ⟨_, rfl, ?_⟩⟩
    · exact State.rill_jump h he (by simp) rfl (by rw [rOff_eq, hx]) hs
    · exact State.rill_jump h he (by simp) rfl (by rw [rOff_eq, hx]) (hs.setCore _)
    · exact State.rill_jump h he (by simp) (if_neg (by simp [hd, hz])) (by rw [hx]) hs
    · exact State.rill_jump h he (by simp) (if_neg (by simp [hz, htrap])) rfl
        (hs.setCore { s.core c.val with inTrap := false })
    · rw [← rImm_eq]
      exact State.rill_halt h he (by simp) (if_neg (by simp [hd, ha])) (hs.setCore _)
    · have hop := State.rOp_of_performs h
      exact State.rill_next h he hpc (by simp) (if_neg (by simp [hop, hz])) hs
    · rw [← s.refcnt_fetched c.val e]
      exact State.rill_next h he hpc (by simp) (if_neg (by simp [hz]))
        (hs.setCore ((s.core c.val).progress (s.fetched c.val e).refcnt))
  · intro s c cause epc _ t ht trap htrap
    subst ht
    obtain ⟨hothers, hrest⟩ := (s.besides_refl c).takeExc cause epc
    have hcore := s.core_takeExc c cause epc
    rw [← htrap] at hcore
    obtain ⟨hg, hp, himem, hdmem, hpend, hinq, hctx⟩ := (s.core c).excepted_kept s.refcnt cause epc
      (BitVec.ofNat 14 (s.field (.ril c) 0x110 13 0)) trap
    obtain ⟨hepc, hcause, hwait⟩ := (s.core c).excepted_records s.refcnt cause epc
      (BitVec.ofNat 14 (s.field (.ril c) 0x110 13 0)) trap
    simp only [hcore]
    refine ⟨hepc, hcause, hg, hp, himem, hdmem, hpend, hinq, hctx, hwait, ?_, ?_, hothers, hrest⟩
    · rintro rfl
      exact ⟨rfl, rfl, rfl⟩
    · rintro rfl
      obtain ⟨_, _, _, _, _, _, _, hin, hpc⟩ := (s.core c).leaveWait_kept s.refcnt
      exact ⟨rfl, hin, hpc, State.flag_takeExc cause epc htrap.symm⟩

end Sys2Proof.Machine
end

section
/-! PROOF. Rill's loads and stores (R217, R220, R223), and what the instructions that issue, take and count nothing leave alone
(R216). -/
namespace Sys2Proof.Machine

/-! ### Addresses (R223) -/

theorem eaExc_of_misaligned {ea : W64} {al : Nat} (n : Nat) (h : ea.toNat % al ≠ 0) : eaExc ea al n = some 0x03 := if_pos h

theorem eaExc_of_beyond {ea : W64} {al n : Nat} (h : ea.toNat % al = 0) (hn : 0x10000 < ea.toNat + n) :
    eaExc ea al n = some 0x04 := (if_neg fun hn => hn h).trans (if_pos hn)

theorem eaExc_of_placed {ea : W64} {al n : Nat} (h : ea.toNat % al = 0) (hn : ea.toNat + n ≤ 0x10000) :
    eaExc ea al n = none := (if_neg fun hn => hn h).trans (if_neg (Nat.not_lt.mpr hn))

/-- An exception leaves the registers and the memory of its core, and HBM, alone. -/
theorem State.syncExc_kept (s : State) (c code addr : Nat) :
    ((s.syncExc c code addr).core c).g = (s.core c).g ∧ ((s.syncExc c code addr).core c).dmem = (s.core c).dmem ∧
      (s.syncExc c code addr).mem = s.mem := by
  obtain ⟨_, hrest⟩ := (s.besides_refl c).syncExc code addr
  have hmem := congrArg State.mem hrest
  rw [State.syncExc] at hmem ⊢
  rw [State.core_takeExc]
  obtain ⟨hg, _, _, hdmem, _⟩ := Core.excepted_kept (s.core c) s.refcnt _ _ _ _
  exact ⟨hg, hdmem, hmem⟩

/-- An instruction that raises what `eaExc` says for its address raises as R223 says. -/
theorem misplaced_of_raises {s : State} {c n : Nat} {ea : W64} {i : Instr}
    (h : ∀ code, eaExc ea n n = some code → exec i s = .next (s.syncExc c code ea.toNat)) :
    (ea.toNat % n ≠ 0 → ea.toNat + n ≤ 0x10000 → exec i s = .next (s.syncExc c 0x03 ea.toNat)) ∧
    (ea.toNat % n = 0 → 0x10000 < ea.toNat + n → exec i s = .next (s.syncExc c 0x04 ea.toNat)) ∧
    (ea.toNat % n ≠ 0 → 0x10000 < ea.toNat + n → exec i s = .next (s.syncExc c 0x03 ea.toNat) ∨
      exec i s = .next (s.syncExc c 0x04 ea.toNat)) ∧
    (ea.toNat % n ≠ 0 ∨ 0x10000 < ea.toNat + n → ∀ t, exec i s = .next t →
      (t.core c).g = (s.core c).g ∧ (t.core c).dmem = (s.core c).dmem ∧ t.mem = s.mem) := by
  refine ⟨fun ha _ => h _ (eaExc_of_misaligned n ha), fun ha hn => h _ (eaExc_of_beyond ha hn),
    fun ha _ => .inl (h _ (eaExc_of_misaligned n ha)), fun hbad t ht => ?_⟩
  obtain ⟨code, hcode⟩ : ∃ code, eaExc ea n n = some code := by
    by_cases ha : ea.toNat % n = 0
    · exact ⟨_, eaExc_of_beyond ha (hbad.resolve_left fun hn => hn ha)⟩
    · exact ⟨_, eaExc_of_misaligned n ha⟩
  obtain rfl : s.syncExc c code ea.toNat = t := Host.Outcome.next.inj ((h code hcode).symm.trans ht)
  exact s.syncExc_kept c code ea.toNat

/-! ### Loads -/

section
variable {s : State} {c op n : Nat}

theorem State.markLoad_of_misplaced {code : Nat} (d : Ecc) (h : eaExc ((s.core c).ea (s.instrWord c)) n n = some code) :
    s.markLoad c d op n = s := by
  simp only [State.markLoad]
  rw [← State.instrWord]
  simp [h]

theorem State.markLoad_of_good {d : Ecc} (hd : d ≠ .uncorrectable)
    (h : (s.core c).dmemBad.has (((s.core c).ea (s.instrWord c)).toNat / 8) = false) : s.markLoad c d op n = s := by
  simp only [State.markLoad]
  rw [← State.instrWord]
  simp [hd, h]

/-- A misplaced load raises its exception, and marks no word (R217, R223). -/
theorem State.loadStep_misplaced {code : Nat} (h : s.performs c op = true)
    (hx : eaExc ((s.core c).ea (s.instrWord c)) n n = some code) :
    (s.markLoad c .clean op n).loadStep c .clean .clean op n = s.syncExc c code ((s.core c).ea (s.instrWord c)).toNat := by
  rw [State.markLoad_of_misplaced .clean hx]
  exact State.rill_exc h (by simp) (by simp [hx, loadAct])

/-- A load of good words (R217, R220). -/
theorem State.loadStep_placed {e d : Ecc} (h : s.performs c op = true) (he : e ≠ .uncorrectable) (hd : d ≠ .uncorrectable)
    (hpc : (s.core c).pc.toNat ≠ 16383) (hx : eaExc ((s.core c).ea (s.instrWord c)) n n = none)
    (hbad : (s.core c).dmemBad.has (((s.core c).ea (s.instrWord c)).toNat / 8) = false) :
    s.onlyCore ((if e = .uncorrectable then s else s.markLoad c d op n).loadStep c e d op n) c
      { (s.core c).setReg (rD (s.instrWord c)) (w64 ((s.core c).dmemNat ((s.core c).ea (s.instrWord c)).toNat n)) with
        pc := (s.core c).pc + 1 } := by
  rw [if_neg he, State.markLoad_of_good hd hbad]
  refine State.rill_next h he hpc (by simp) ?_ (((s.onlyCore_fetched c e).fetched d).setCore _)
  simp only [hx, hbad, loadAct]
  rw [if_neg (by simp [hd])]
  rfl

/-- A misplaced store raises its exception (R223). -/
theorem State.store_misplaced {code : Nat} (h : s.performs c op = true)
    (hx : eaExc ((s.core c).ea (s.instrWord c)) n n = some code) :
    s.rill c .clean [op] (storeAct c n) = s.syncExc c code ((s.core c).ea (s.instrWord c)).toNat :=
  State.rill_exc h (by simp) (by simp [hx, storeAct])

end

/-! ### Bytes of data memory (R216) -/

theorem Core.dmem_dmemPut (k : Core) (a n v : Nat) :
    (k.dmemPut a n v).dmem = (cells a (leBytes n v)).foldl (fun t p => Table.set (fun _ => 0) t p.1 p.2) k.dmem := by
  rw [cells, List.foldl_map, length_leBytes]
  rfl

theorem Core.get_dmemPut_outside (k : Core) {a n b : Nat} (v : Nat) (h : b < a ∨ a + n ≤ b) :
    Table.get (fun _ => 0) (k.dmemPut a n v).dmem b = Table.get (fun _ => 0) k.dmem b := by
  have hne : ∀ p ∈ cells a (leBytes n v), b ≠ p.1 := fun p hp => by
    obtain ⟨i, hi, rfl⟩ := mem_cells.mp hp
    rw [length_leBytes] at hi
    dsimp only
    omega
  rw [Core.dmem_dmemPut]
  exact Table.get_foldl_set_ne (fun _ => 0) (fun _ => false) _ _ hne

theorem Core.get_dmemPut_inside (k : Core) (a n v : Nat) {i : Nat} (h : i < (leBytes n v).length) :
    Table.get (fun _ => 0) (k.dmemPut a n v).dmem (a + i) = (leBytes n v)[i] := by
  rw [Core.dmem_dmemPut]
  exact Table.get_foldl_set_mem (fun _ => 0) (fun _ => false) _ (nodup_cells a _) (mem_cells.mpr ⟨i, h, rfl⟩) rfl

/-- Bytes read back from within a store. -/
theorem Core.dmemNat_dmemPut_within (k : Core) (a v : Nat) {o m n : Nat} (h : o + m ≤ n) :
    (k.dmemPut a n v).dmemNat (a + o) m = leNat (((leBytes n v).drop o).take m) := by
  have hlen := length_leBytes n v
  refine congrArg leNat (List.ext_getElem (by simp; omega) fun i hi _ => ?_)
  have him : i < m := by simpa using hi
  simp only [List.getElem_map, List.getElem_range, List.getElem_take, List.getElem_drop, Nat.add_assoc]
  exact k.get_dmemPut_inside a n v (by omega)

theorem Core.dmemNat_dmemPut_same (k : Core) (a n v : Nat) : (k.dmemPut a n v).dmemNat a n = v % 256 ^ n := by
  have hread := k.dmemNat_dmemPut_within a v (o := 0) (m := n) (n := n) (by omega)
  rwa [List.drop_zero, List.take_of_length_le (Nat.le_of_eq (length_leBytes n v)), leNat_leBytes] at hread

theorem Core.dmemNat_dmemPut_outside (k : Core) {a n b : Nat} (v : Nat) (h : b < a ∨ a + n ≤ b) :
    (k.dmemPut a n v).dmemNat b 1 = k.dmemNat b 1 := by
  refine congrArg leNat (List.map_congr_left fun i hi => k.get_dmemPut_outside v ?_)
  have := List.mem_range.mp hi
  omega

/-! ### Stores -/

/-- A store changes the bytes at its address and no other byte of its core (R220). -/
theorem State.store_placed {s : State} {c op n : Nat} {e : Ecc} (h : s.performs c op = true) (he : e ≠ .uncorrectable)
    (hpc : (s.core c).pc.toNat ≠ 16383) (hx : eaExc ((s.core c).ea (s.instrWord c)) n n = none) :
    let t := s.rill c e [op] (storeAct c n)
    let k := s.core c
    let a := (k.ea (s.instrWord c)).toNat
    s.onlyCore t c { k with dmem := (t.core c).dmem, dmemBad := (t.core c).dmemBad, pc := k.pc + 1 } ∧
      (t.core c).dmemNat a n = (k.reg (rD (s.instrWord c))).toNat % 256 ^ n ∧
      ∀ b, b < a ∨ a + n ≤ b → (t.core c).dmemNat b 1 = k.dmemNat b 1 := by
  intro t k a
  have ht : s.onlyCore t c { k.dmemPut a n (k.reg (rD (s.instrWord c))).toNat with pc := k.pc + 1 } :=
    State.rill_next h he hpc (by simp) (by simp only [storeAct, hx]; rfl) ((s.onlyCore_fetched c e).setCore _)
  obtain ⟨hcore, _⟩ := id ht
  rw [hcore]
  exact ⟨ht, k.dmemNat_dmemPut_same _ _ _, fun b hb => k.dmemNat_dmemPut_outside _ hb⟩

/-! ### What instructions leave alone (R216) -/

/-- The state that an instruction leaves differs from `s` in core `c`, registers and messages alone. -/
def Act.Besides (s : State) (c : Nat) : Act → Prop
  | .exc _ _ => True
  | .next t | .jump _ t | .wait t | .halt t => s.besides t c

theorem Act.Besides.ite {s : State} {c : Nat} {p : Prop} [Decidable p] {a b : Act} (ha : p → a.Besides s c)
    (hb : ¬p → b.Besides s c) : (if p then a else b).Besides s c := by
  split
  next h => exact ha h
  next h => exact hb h

/-- A meaning that acts on core `c`, registers and messages alone. -/
def ActsOn (c : Nat) (f : State → Core → W32 → Act) : Prop :=
  ∀ (s t : State) (k : Core) (w : W32), s.besides t c → (f t k w).Besides s c

section
variable {s t u : State} {c : Nat}

theorem State.besides.ite {p : Prop} [Decidable p] (ht : s.besides t c) (hu : s.besides u c) :
    s.besides (if p then t else u) c := by
  split
  · exact ht
  · exact hu

theorem State.besides.goPc (h : s.besides t c) (hu : s.besides u c) (target : Int) : s.besides (t.goPc c target u) c := by
  unfold State.goPc
  split
  · exact h.syncExc _ _
  · exact (hu.setCore _).event _ _ _

theorem State.besides.retire {a : Act} (h : s.besides t c) (ha : a.Besides s c) : s.besides (t.retire c a) c := by
  cases a with
  | exc code addr => exact h.syncExc code addr
  | next u => exact h.goPc ha _
  | jump x u => exact h.goPc ha x
  | wait u => exact .ite (h.syncExc _ _) ha
  | halt u => exact State.besides.event ha _ _ _

/-- One instruction whose meaning acts on its core alone, whether it executes, is skipped or raises an exception. -/
theorem State.besides.rill {f : State → Core → W32 → Act} (h : s.besides t c) (hf : ActsOn c f) (e : Ecc) (ops : List Nat) :
    s.besides (t.rill c e ops f) c := by
  have hfetch := State.besides.ite (p := e = .corrected) (h.countErr (.ril c)) h
  simp only [State.rill]
  split
  · exact h
  · split
    · exact ((h.setCore _).setErr _ _).syncExc _ _
    · split
      · exact h
      · split
        · exact hfetch.syncExc _ _
        · split
          · exact hfetch.retire (hfetch.event _ _ _)
          · exact hfetch.retire (hf _ _ _ _ hfetch)

theorem State.besides.markLoad (h : s.besides t c) (d : Ecc) (op n : Nat) : s.besides (t.markLoad c d op n) c :=
  State.besides.ite ((h.setCore _).setErr _ _) h

end

section
variable (c : Nat)

theorem actsOn_writeReg {v : State → Core → W32 → W64} : ActsOn c fun s k w => writeReg s c k (rD w) (v s k w) :=
  fun _ _ _ _ h => h.setCore _

theorem actsOn_aluR (f : W64 → W64 → W64) : ActsOn c (aluR c f) :=
  fun _ _ _ _ h => .ite (fun _ => trivial) fun _ => h.setCore _

theorem actsOn_aluI (imm : W32 → W64) (f : W64 → W64 → W64) : ActsOn c (aluI c imm f) := fun _ _ _ _ h => h.setCore _

theorem actsOn_shiftI (f : W64 → Nat → W64) : ActsOn c (shiftI c f) :=
  fun _ _ _ _ h => .ite (fun _ => trivial) fun _ => h.setCore _

theorem actsOn_loadAct (n : Nat) (d : Ecc) : ActsOn c (loadAct c n d) := by
  intro s t k w h
  simp only [loadAct]
  split
  · trivial
  · exact (State.besides.ite (h.countErr _) h).setCore _

theorem actsOn_storeAct (n : Nat) : ActsOn c (storeAct c n) := by
  intro s t k w h
  simp only [storeAct]
  split
  · trivial
  · exact h.setCore _

/-- A load acts on its core alone, whatever its data word's check says. -/
theorem State.besides_load (s : State) (e d : Ecc) (op n : Nat) :
    s.besides ((if e = .uncorrectable then s else s.markLoad c d op n).loadStep c e d op n) c := by
  have hs := s.besides_refl c
  have hmark := State.besides.ite (p := e = .uncorrectable) hs (hs.markLoad d op n)
  unfold State.loadStep
  refine hmark.rill (fun s t k w h => ?_) e [op]
  exact .ite (fun _ => trivial) fun _ => actsOn_loadAct c n d s t k w h

end

/-! ### The obligations -/

/-- Settles O22: the address is checked before anything else of the instruction. -/
theorem misplacedAccessesRaise : Obligations.MisplacedAccessesRaise := by
  unfold Obligations.MisplacedAccessesRaise
  intro s c k ea hk hea
  subst hk hea
  simp only [List.forall_mem_cons, List.not_mem_nil, false_implies, implies_true, and_true]
  refine ⟨?_, ?_, ?_, ?_⟩
  · exact fun h => misplaced_of_raises fun _ hx => congrArg _ (State.loadStep_misplaced h hx)
  · exact fun h => misplaced_of_raises fun _ hx => congrArg _ (State.loadStep_misplaced h hx)
  · exact fun h => misplaced_of_raises fun _ hx => congrArg _ (State.store_misplaced h hx)
  · exact fun h => misplaced_of_raises fun _ hx => congrArg _ (State.store_misplaced h hx)

/-- Settles O23: what a load reads, and which bytes a store writes. -/
theorem rillLoadsAndStores : Obligations.RillLoadsAndStores := by
  unfold Obligations.RillLoadsAndStores
  intro s c e d k w a hk hw ha he hd hpc
  subst hk hw ha
  simp only [List.forall_mem_cons, List.not_mem_nil, false_implies, implies_true, and_true]
  refine ⟨⟨?_, ?_⟩, ?_, ?_⟩
  · exact fun h hal hin hbad => ⟨_, rfl, State.loadStep_placed h he hd hpc (eaExc_of_placed hal hin) hbad⟩
  · exact fun h hal hin hbad => ⟨_, rfl, State.loadStep_placed h he hd hpc (eaExc_of_placed hal hin) hbad⟩
  · exact fun h hal hin => ⟨_, rfl, State.store_placed h he hpc (eaExc_of_placed hal hin)⟩
  · exact fun h hal hin => ⟨_, rfl, State.store_placed h he hpc (eaExc_of_placed hal hin)⟩

/-- Settles O26: the meaning of each of these instructions acts on its core alone, and so does its retirement. -/
theorem rillFrame : Obligations.RillFrame := by
  unfold Obligations.RillFrame
  intro s c e d
  have run : ∀ {ops f}, ActsOn c.val f → s.besides (s.rill c.val e ops f) c.val := fun hf => (s.besides_refl c.val).rill hf e _
  simp only [List.forall_mem_cons, List.not_mem_nil, false_implies, implies_true, and_true]
  refine ⟨⟨_, rfl, run ?nop⟩, ?_⟩
  case nop => exact fun _ _ _ _ h => .ite (fun _ => trivial) fun _ => h
  have alu : ∀ {op f}, s.besides (s.rill c.val e [op] (aluR c.val f)) c.val := run (actsOn_aluR _ _)
  have imm : ∀ {op i f}, s.besides (s.rill c.val e [op] (aluI c.val i f)) c.val := run (actsOn_aluI _ _ _)
  have shift : ∀ {op f}, s.besides (s.rill c.val e [op] (shiftI c.val f)) c.val := run (actsOn_shiftI _ _)
  refine ⟨⟨_, rfl, alu⟩, ⟨_, rfl, alu⟩, ⟨_, rfl, alu⟩, ⟨_, rfl, alu⟩, ⟨_, rfl, alu⟩, ⟨_, rfl, alu⟩, ⟨_, rfl, alu⟩,
    ⟨_, rfl, alu⟩, ⟨_, rfl, alu⟩, ?_⟩
  refine ⟨⟨_, rfl, imm⟩, ⟨_, rfl, imm⟩, ⟨_, rfl, imm⟩, ⟨_, rfl, imm⟩, ⟨_, rfl, shift⟩, ⟨_, rfl, shift⟩, ⟨_, rfl, shift⟩,
    ⟨_, rfl, run (actsOn_writeReg _)⟩, ⟨_, rfl, run (actsOn_writeReg _)⟩, ?_⟩
  refine ⟨⟨_, rfl, run ?trd⟩, ⟨_, rfl, run ?cmp⟩, ⟨_, rfl, run ?cmpi⟩, ⟨_, rfl, run ?br⟩, ⟨_, rfl, run ?call⟩,
    ⟨_, rfl, run ?jr⟩, ⟨_, rfl, run ?halt⟩, ⟨_, rfl, run ?prog⟩, ⟨_, rfl, run ?gets⟩, ⟨_, rfl, run ?sets⟩,
    ⟨_, rfl, run ?rett⟩, ⟨_, rfl, run ?twait⟩, ⟨_, rfl, State.besides_load _ _ _ _ _ _⟩, ⟨_, rfl, State.besides_load _ _ _ _ _ _⟩,
    ⟨_, rfl, run (actsOn_storeAct _ _)⟩, ⟨_, rfl, run (actsOn_storeAct _ _)⟩⟩
  case br => exact fun _ _ _ _ h => h
  case call => exact fun _ _ _ _ h => h.setCore _
  case jr => exact fun _ _ _ _ h => .ite (fun _ => trivial) fun _ => h
  case cmp | cmpi | halt | prog | rett => exact fun _ _ _ _ h => .ite (fun _ => trivial) fun _ => h.setCore _
  case trd => exact fun _ _ _ _ h => .ite (fun _ => h.setCore _) fun _ => trivial
  case sets =>
    exact fun _ _ _ _ h => .ite (fun _ => trivial) fun _ => .ite (fun _ => h.setCore _) fun _ =>
      .ite (fun _ => h.setCore _) fun _ => trivial
  case gets =>
    refine fun _ _ _ _ h => .ite (fun _ => trivial) fun _ => ?_
    split
    · exact h.setCore _
    · trivial
  case twait =>
    exact fun _ _ _ _ h => .ite (fun _ => trivial) fun _ => .ite (fun _ => h) fun _ => h.setCore _

end Sys2Proof.Machine
end

section
/-! PROOF. System values and tally instructions of Rill (R224 to R226); the release of a core that waits for a tally (R225, R234). -/
namespace Sys2Proof.Machine

/-! ### System values (R224) -/

theorem w64_toNat {n : Nat} (x : BitVec n) : w64 x.toNat = x.setWidth 64 := BitVec.ofNat_toNat 64 x

theorem State.sysValue_of_lt (s : State) (c : Nat) (k : Core) {sel : Nat} (h : sel < 9) :
    s.sysValue c k sel = some ([w64 c, w64 (coreKind c), w64 k.ctx, w64 (s.partOfCtx k.ctx), s.refcnt, k.prog.setWidth 64,
      k.epc.setWidth 64, k.cause, k.p.setWidth 64].getD sel 0) := by
  simp only [← w64_toNat]
  match sel, h with
  | 0, _ | 1, _ | 2, _ | 3, _ | 4, _ | 5, _ | 6, _ | 7, _ | 8, _ => rfl

theorem State.sysValue_of_le (s : State) (c : Nat) (k : Core) {sel : Nat} (h : 9 ≤ sel) : s.sysValue c k sel = none := by
  obtain ⟨n, rfl⟩ := Nat.exists_eq_add_of_le' h
  rfl

/-! ### Tallies and the cores that wait for them (R225, R226) -/

theorem Table.find_map_snd {α β : Type} (f : α → β) (t : Table α) (k : Nat) :
    Table.find k (t.map fun e => (e.1, f e.2)) = (Table.find k t).map f := by
  induction t with
  | nil => rfl
  | cons e t ih =>
    simp only [List.map_cons, Table.find_cons, ih]
    split <;> rfl

/-- A write of a tally shows itself to each core. -/
theorem State.core_setTally (s : State) (t : Nat) (v : W32) (j : Nat) :
    (s.setTally t v).core j = (s.core j).seeTally t v := by
  simp only [State.core, State.setTally, Table.get, Table.find_map_snd]
  cases Table.find j s.cores <;> rfl

theorem Core.seeTally_of_no_wait {k : Core} (t : Nat) (v : W32) (h : k.waitTally = none) : k.seeTally t v = k := by
  simp [Core.seeTally, h]

theorem Core.released_seeTally {k : Core} {t : Nat} {v target : W32} (hw : k.waitTally = some (t, target))
    (hu : k.undisturbed = true) (h : (v - target).toNat < 2 ^ 31) : (k.seeTally t v).released = true := by
  have hreached : tallyReached v target = true := decide_eq_true h
  simp [Core.seeTally, hw, hu, hreached]

theorem State.core_addTally (s : State) (t : Nat) (n : W32) (j : Nat) :
    (s.addTally t n).core j = (s.core j).seeTally t (s.tally t + n) := by
  rw [State.addTally, State.core_event, State.core_setTally]

/-- What an increment changes: tallies, the windows and cores that wait for them, the notices due, registers. -/
theorem State.addTally_frame (s : State) (t : Nat) (n : W32) :
    s.addTally t n =
      let u := s.addTally t n
      { s with tallies := u.tallies, wins := u.wins, cores := u.cores, host := { s.host with due := u.host.due }, io := u.io } := by
  simp only [State.addTally, State.event_tallies, State.event_wins, State.event_cores, State.event_host]
  exact State.event_eq_io _ _ _ _

/-! ### Tally instructions -/

/-- An instruction whose core waits at it. -/
theorem State.rill_wait {s u : State} {c op : Nat} {e : Ecc} {ops : List Nat} {f : State → Core → W32 → Act}
    (h : s.performs c op = true) (he : e ≠ .uncorrectable) (hpc : (s.core c).pc.toNat ≠ 16383) (hops : ops.contains op = true)
    (hf : f (s.fetched c e) (s.core c) (s.instrWord c) = .wait u) : s.rill c e ops f = u := by
  have hpc' : ¬ (((s.fetched c e).core c).pc.toNat : Int) = 16383 := by
    rw [State.core_fetched]
    omega
  rw [State.rill_of_performs f h he hops, hf]
  exact if_neg hpc'

/-- `TINC` of a core that waits for nothing: the tally, its own progress, and what waits for the tally (R225, R231). -/
theorem State.rill_tinc {s : State} {c t : Nat} {v : W32} {f : State → Core → W32 → Act} (h : s.performs c 0x3E = true)
    (hpc : (s.core c).pc.toNat ≠ 16383) (hw : (s.core c).waitTally = none)
    (hf : f s (s.core c) (s.instrWord c) = .next ((s.setCore c ((s.core c).progress s.refcnt)).addTally t v)) :
    let u := s.rill c .clean [0x3E] f
    u.tally t = s.tally t + v ∧ (∀ m, m ≠ t → u.tally m = s.tally m) ∧
      u.core c = { s.core c with prog := (s.core c).prog + 1, since := s.refcnt, pc := (s.core c).pc + 1 } ∧
      u = { s with tallies := u.tallies, wins := u.wins, cores := u.cores, host := { s.host with due := u.host.due }, io := u.io } := by
  have hcore : ((s.setCore c ((s.core c).progress s.refcnt)).addTally t v).core c = (s.core c).progress s.refcnt := by
    rw [State.core_addTally, State.core_setCore_same]
    exact Core.seeTally_of_no_wait _ _ hw
  obtain ⟨huc, _, hu⟩ :=
    State.rill_next (e := .clean) (ops := [0x3E]) h (by decide) hpc (by simp) hf (State.onlyCore_refl _ c)
  intro u
  have htally : ∀ m, u.tally m = ((s.setCore c ((s.core c).progress s.refcnt)).addTally t v).tally m := fun m => by
    rw [show u = _ from hu]; rfl
  refine ⟨?_, fun m hm => ?_, ?_, ?_⟩
  · rw [htally, State.tally_addTally_same, State.tally_setCore]
  · rw [htally, State.tally_addTally_ne _ hm, State.tally_setCore]
  · rw [huc, hcore]
    rfl
  · rw [show u = _ from hu, State.addTally_frame]
    rfl

/-- The end of a wait for a tally (R225). -/
theorem exec_twaitRelease {s : State} (c : Fin 77) (hst : (s.core c.val).st = .waiting) (hw : (s.core c.val).waitTally.isSome = true)
    (hr : (s.core c.val).released = true) :
    exec (.twaitRelease c) s = .next (((s.setCore c.val
      { (s.core c.val).endWait s.refcnt with pc := (s.core c.val).pc + 1 }).event (.ril c.val) 0x02 1).event .tly 0x03 1) :=
  congrArg Host.Outcome.next (if_pos ⟨hst, hw, hr⟩)

/-! ### The obligation -/

/-- Settles O24: each instruction acts on its core alone but `TINC`, whose tally shows itself to what waits for it. -/
theorem rillSystemAndTallies : Obligations.RillSystemAndTallies := by
  unfold Obligations.RillSystemAndTallies
  refine ⟨?_, ?_, ?_⟩
  · intro s c k w hk hw hpc
    subst hk hw
    refine ⟨fun h ha => ⟨fun hi => ⟨_, rfl, ?_⟩, fun hi => ?_⟩,
      fun h hd => ⟨fun hi => ⟨_, rfl, ?_⟩, fun hi => ⟨_, rfl, ?_⟩, fun h6 h8 => ?_⟩⟩
    · refine State.rill_writeReg h (by decide) hpc (by simp) ?_
      simp only [State.fetched_clean, ha, ne_eq, not_true_eq_false, if_false, s.sysValue_of_lt c.val (s.core c.val) hi]
    · refine congrArg Host.Outcome.next (State.rill_exc h (by simp) ?_)
      simp only [ha, ne_eq, not_true_eq_false, if_false, s.sysValue_of_le c.val (s.core c.val) hi]
    · refine State.rill_next h (by decide) hpc (by simp) ?_ ((s.onlyCore_refl c.val).setCore
        { s.core c.val with epc := ((s.core c.val).reg (rA (s.instrWord c.val))).setWidth 14 })
      simp [hd, hi]
    · refine State.rill_next h (by decide) hpc (by simp) ?_ ((s.onlyCore_refl c.val).setCore
        { s.core c.val with p := ((s.core c.val).reg (rA (s.instrWord c.val))).setWidth 4 })
      simp [hd, hi]
    · exact congrArg Host.Outcome.next (State.rill_exc h (by simp) (by simp [hd, h6, h8]))
  · intro s c k w n v hk hw hn hv hpc
    subst hk hw hv
    have hea : (s.core c.val).eaTally (s.instrWord c.val) = n := hn.symm
    refine ⟨fun hperm => ⟨fun h => ⟨_, rfl, ?_⟩, fun h hwait => ⟨_, rfl, ?_⟩, fun h hreach => ⟨_, rfl, ?_⟩, fun h hbelow => ?_⟩,
      fun hperm => ?_, fun hst hwait hrel => ?_⟩
    · refine State.rill_writeReg h (by decide) hpc (by simp) ?_
      simp [hea, hperm, w64_toNat]
    · exact State.rill_tinc h hpc hwait (by simp [hea, hperm])
    · refine State.rill_next h (by decide) hpc (by simp) ?_ (s.onlyCore_refl c.val)
      have hreached : tallyReached (s.tally n) (((s.core c.val).reg (rD (s.instrWord c.val))).setWidth 32) = true :=
        decide_eq_true hreach
      simp [hea, hperm, hreached]
    · have hreached : tallyReached (s.tally n) (((s.core c.val).reg (rD (s.instrWord c.val))).setWidth 32) = false :=
        decide_eq_false (Nat.not_lt.mpr hbelow)
      refine ⟨s.setCore c.val { (s.core c.val).beginWait s.refcnt .waiting with
          waitTally := some (n, ((s.core c.val).reg (rD (s.instrWord c.val))).setWidth 32), released := false },
        congrArg Host.Outcome.next (State.rill_wait h (by decide) hpc (by simp) (by simp [hea, hperm, hreached])), ?_⟩
      rw [State.core_setCore_same]
      exact ⟨rfl, rfl, rfl⟩
    · have hexc : ∀ {op f}, s.performs c.val op = true → f s (s.core c.val) (s.instrWord c.val) = .exc 0x08 0 →
          s.rill c.val .clean [op] f = s.syncExc c.val 0x08 0 := fun h hf => State.rill_exc h (by simp) hf
      simp only [List.forall_mem_cons, List.not_mem_nil, false_implies, implies_true, and_true]
      exact ⟨fun h => congrArg Host.Outcome.next (hexc h (by simp [hea, hperm])),
        fun h => congrArg Host.Outcome.next (hexc h (by simp [hea, hperm])),
        fun h => congrArg Host.Outcome.next (hexc h (by simp [hea, hperm]))⟩
    · refine ⟨_, exec_twaitRelease c hst hwait hrel, ?_⟩
      simp [Core.endWait]
  · intro s c n a target hw hu h
    rw [State.core_addTally]
    exact Core.released_seeTally hw hu h

end Sys2Proof.Machine
end

section
/-! PROOF. `ISSUE` and `TAKE` (R227, R228), limits and asynchronous exceptions (R231, R234), starting, stopping and loading a core
(R218, R237, R238). -/
namespace Sys2Proof.Machine

/-! ### What a core issues (R214, R227) -/

/-- The OPC of a descriptor in data memory is its first byte. -/
theorem Core.dcOpc_dmemWords (k : Core) (a : Nat) : dcOpc (k.dmemWords a 1) = k.dmemNat a 1 := by
  have hbyte := (Table.get (fun _ => 0) k.dmem a).isLt
  simp only [dcOpc, wfld, wordAt, Core.dmemWords, Core.dmemNat, List.range_succ, List.range_zero, List.nil_append, List.cons_append,
    List.map_cons, List.map_nil, List.getD_cons_zero, leNat, fld, bits, w32, BitVec.toNat_ofNat, Nat.shiftRight_zero, Nat.mul_zero,
    Nat.add_zero]
  omega

theorem coreKind_lt (c : Nat) : coreKind c < 4 := by
  unfold coreKind
  split
  · decide
  · split
    · decide
    · split <;> decide

theorem kindIssues_iff {kind : Nat} (h : kind < 4) (opc : Nat) :
    kindIssues kind opc = true ↔ opc ∈ [[0x11, 0x51, 0x61, 0x71], [0x12], [0x21, 0x31, 0x41], [0x52]].getD kind [] := by
  match kind, h with
  | 0, _ | 1, _ | 2, _ | 3, _ => simp [kindIssues, or_assoc]

/-- The descriptor that `ISSUE` copies (R227). -/
def Core.issued (k : Core) (c : Nat) (w : W32) : Desc :=
  { words := k.descWords (k.ea w).toNat, ctx := k.ctx, src := .core c (k.ea w).toNat, op := k.op }

section
variable {s : State} {c : Nat} {k : Core} {w : W32} (hd : rD w = 0)
  (hx : eaExc (k.ea w) 32 (if dcOpc (k.dmemWords (k.ea w).toNat 1) = 0x41 then 32 else 64) = none)
include hd hx

theorem issueAct_foreign (hk : kindIssues (coreKind c) (dcOpc (k.dmemWords (k.ea w).toNat 1)) = false) :
    issueAct c .clean s k w = .exc 0x07 0 := by
  simp [issueAct, hd, hx, hk]

variable (hk : kindIssues (coreKind c) (dcOpc (k.dmemWords (k.ea w).toNat 1)) = true)
  (hp : k.dmemPoison (k.ea w).toNat ((if dcOpc (k.dmemWords (k.ea w).toNat 1) = 0x41 then 32 else 64) / 4) = false)
include hk hp

theorem issueAct_placed {u : State} (h : s.place c (k.issued c w) = some u) :
    issueAct c .clean s k w = .next (u.event (.ril c) 0x07 1) := by
  rw [Core.issued] at h
  simp [issueAct, hd, hx, hk, hp, h]

theorem issueAct_full (h : s.place c (k.issued c w) = none) :
    issueAct c .clean s k w =
      .wait (s.setCore c { k.beginWait s.refcnt .waiting with heldDesc := some (k.issued c w), waitTally := none }) := by
  rw [Core.issued] at h ⊢
  simp [issueAct, hd, hx, hk, hp, h]

end

theorem State.rill_issue_placed {s u : State} {c : Nat} {f : State → Core → W32 → Act} (h : s.performs c 0x3C = true)
    (hpc : (s.core c).pc.toNat ≠ 16383) (hf : f s (s.core c) (s.instrWord c) = .next (u.event (.ril c) 0x07 1)) :
    let t := s.rill c .clean [0x3C] f
    t.core c = { u.core c with pc := (s.core c).pc + 1 } ∧ t = { u with cores := t.cores, io := t.io } := by
  obtain ⟨hcore, _, hrest⟩ :=
    State.rill_next (e := .clean) (ops := [0x3C]) h (by decide) hpc (by simp) hf ((u.onlyCore_refl c).event _ _ _)
  exact ⟨hcore, hrest⟩

theorem exec_issueResume {s u : State} (c : Fin 77) {d : Desc} (hst : (s.core c.val).st = .waiting)
    (hu : (s.core c.val).undisturbed = true) (hd : (s.core c.val).heldDesc = some d) (hplace : s.place c.val d = some u) :
    exec (.issueResume c) s = .next (((u.setCore c.val { (u.core c.val).endWait u.refcnt with pc := (u.core c.val).pc + 1 }).event
      (.ril c.val) 0x02 1).event (.ril c.val) 0x07 1) := by
  change execIssueResume c s = _
  simp [execIssueResume, hst, hu, hd, hplace]

/-! ### What a core takes (R228) -/

theorem length_wordsBytes (ws : List W32) : (wordsBytes ws).length = 4 * ws.length := by
  induction ws with
  | nil => rfl
  | cons w ws ih =>
    rw [wordsBytes, List.flatMap_cons, List.length_append, length_leBytes, ← wordsBytes, ih, List.length_cons]
    omega

theorem take_drop_wordsBytes (ws : List W32) {i : Nat} (h : i < ws.length) :
    ((wordsBytes ws).drop (4 * i)).take 4 = leBytes 4 ws[i].toNat := by
  induction ws generalizing i with
  | nil => cases h
  | cons w ws ih =>
    have hlen := length_leBytes 4 w.toNat
    rw [wordsBytes, List.flatMap_cons, ← wordsBytes]
    cases i with
    | zero => exact List.take_left' hlen
    | succ i =>
      have hdrop : 4 * (i + 1) = 4 + 4 * i := by omega
      rw [hdrop, ← List.drop_drop, List.drop_left' hlen]
      exact ih (Nat.lt_of_succ_lt_succ h)

theorem leBytes_leNat (bs : List Byte) : leBytes bs.length (leNat bs) = bs := by
  induction bs with
  | nil => rfl
  | cons b bs ih =>
    have hb := b.isLt
    have hlow : BitVec.ofNat 8 (b.toNat + 256 * leNat bs) = b := by
      apply BitVec.eq_of_toNat_eq
      rw [BitVec.toNat_ofNat]
      omega
    have hhigh : (b.toNat + 256 * leNat bs) / 256 = leNat bs := by omega
    rw [List.length_cons, leNat, leBytes, hlow, hhigh, ih]

/-- The 16 words of a descriptor as `TAKE` writes them (R228). -/
theorem Core.dmemNat_takeDesc (k : Core) (a : Nat) (d : Desc) (now : W64) {i : Nat} (h : i < 16) :
    (k.takeDesc a d now).dmemNat (a + 4 * i) 4 = (wordAt d.words i).toNat := by
  have hlen : ((List.range 16).map fun i => wordAt d.words i).length = 16 := rfl
  have hbytes := length_wordsBytes ((List.range 16).map fun i => wordAt d.words i)
  have hread := k.dmemNat_dmemPut_within a (leNat (wordsBytes ((List.range 16).map fun i => wordAt d.words i)))
    (o := 4 * i) (m := 4) (n := 64) (by omega)
  have hput := leBytes_leNat (wordsBytes ((List.range 16).map fun i => wordAt d.words i))
  rw [hbytes, hlen] at hput
  rw [hput, take_drop_wordsBytes _ (by rwa [hlen]), List.getElem_map, List.getElem_range, leNat_leBytes] at hread
  exact hread.trans (Nat.mod_eq_of_lt (wordAt d.words i).isLt)

theorem State.tookDesc_of_lt (s : State) {c : Nat} (k : Core) (d : Desc) (h : c < 69) : s.tookDesc c k d = s.setCore c k :=
  if_neg (Nat.not_le.mpr h)

/-- `TAKE` with a descriptor to take (R228). -/
theorem exec_take {s : State} (c : Fin 77) {d : Desc} (hc : c.val < 69) (h : s.performs c.val 0x3D = true)
    (hrd : rD (s.instrWord c.val) = 0) (hx : eaExc ((s.core c.val).ea (s.instrWord c.val)) 32 64 = none)
    (hpc : (s.core c.val).pc.toNat ≠ 16383) (hd : s.nextTake c.val = some d) :
    ∃ t, exec (.take c .clean) s = .next t ∧ t.core c.val =
      { (s.core c.val).takeDesc ((s.core c.val).ea (s.instrWord c.val)).toNat d s.refcnt with pc := (s.core c.val).pc + 1 } := by
  refine ⟨_, rfl, (State.rill_next h (by decide) hpc (by simp) ?_ ((s.onlyCore_refl c.val).setCore
    ((s.core c.val).takeDesc ((s.core c.val).ea (s.instrWord c.val)).toNat d s.refcnt))).1⟩
  simp [hrd, hx, hd, State.tookDesc_of_lt _ _ _ hc]

theorem exec_takeResume {s : State} (c : Fin 77) {d : Desc} (hc : c.val < 69) (hd : s.nextTake c.val = some d)
    (hst : (s.core c.val).st = .idle) (hu : (s.core c.val).undisturbed = true) :
    exec (.takeResume c) s = .next ((s.setCore c.val
      { ((s.core c.val).takeDesc ((s.core c.val).ea (s.instrWord c.val)).toNat d s.refcnt).endWait s.refcnt with
        pc := (s.core c.val).pc + 1, since := s.refcnt }).event (.ril c.val) 0x02 1) := by
  change execTakeResume c s = _
  simp only [execTakeResume, hd, hst, hu, State.tookDesc_of_lt _ _ _ hc]
  rfl

/-! ### Limits and asynchronous exceptions (R231, R234) -/

theorem exec_waitLimitExpire {s : State} (c : Fin 77) (hst : (s.core c.val).st = .waiting)
    (hlim : (s.reg (.ril c.val) 0x118).toNat ≠ 0) (hrel : (s.core c.val).released = false)
    (hu : (s.core c.val).undisturbed = true) :
    exec (.waitLimitExpire c) s = .next ((s.advance (s.core c.val).since ((s.reg (.ril c.val) 0x118).toNat * 1024)).syncExc
      c.val 0x0C 0) := by
  have hcounts : (s.reg (.ril c.val) 0x118).toNat * 1024 ≠ 0 := by omega
  exact congrArg Host.Outcome.next (if_neg (by simp [hst, hcounts, hrel, hu]))

theorem exec_hangDetect {s : State} (c : Fin 77) (hst : (s.core c.val).st = .running)
    (hlim : (s.reg (.ril c.val) 0x11C).toNat ≠ 0) :
    exec (.hangDetect c) s = .next ((s.advance (s.core c.val).since ((s.reg (.ril c.val) 0x11C).toNat * 1024)).hang c.val) := by
  have hcounts : (s.reg (.ril c.val) 0x11C).toNat * 1024 ≠ 0 := by omega
  exact congrArg Host.Outcome.next (if_neg (by simp [hst, hcounts]))

theorem exec_asyncExceptionTake {s : State} (c : Fin 77) {x : W64} {rest : List W64} (hpend : (s.core c.val).pend = x :: rest)
    (htrap : (s.core c.val).inTrap = false)
    (hst : (s.core c.val).st = .running ∨ (s.core c.val).st = .waiting ∨ (s.core c.val).st = .idle) :
    exec (.asyncExceptionTake c) s =
      .next ((s.setCore c.val { s.core c.val with pend := rest }).takeExc c.val x (s.core c.val).pc) := by
  change execAsyncExceptionTake c s = _
  simp only [execAsyncExceptionTake, hpend, htrap]
  rcases hst with hst | hst | hst <;> rw [hst] <;> rfl

/-! ### Run control (R218) -/

theorem exec_runCtlStart {s : State} (c : Fin 77) {v : W32} (hr : s.ready = true) (hv : v.toNat % 4 = 1) :
    exec (.runCtlStart c v) s = .next (s.runStart c.val) := by
  have h0 : bitOf v 0 = true := by
    rw [bitOf, Nat.testBit_zero]
    exact decide_eq_true (by omega)
  have h1 : bitOf v 1 = false := by
    rw [bitOf, Nat.testBit_succ, Nat.testBit_zero]
    exact decide_eq_false (by omega)
  change execRunCtlStart c v s = _
  simp [execRunCtlStart, hr, h0, h1]

/-- A core that does not run starts at `START_PC` under `START_CTX`, its registers and predicates as they were (R218). -/
theorem State.runStart_of_still {s : State} {c : Nat}
    (h : (s.core c).st = .stopped ∨ (s.core c).st = .halted ∨ (s.core c).st = .faulted) :
    s.runStart c = (s.unquiesce c).setCore c { s.core c with
      st := .running, pc := (s.core c).startPc, ctx := (s.core c).startCtx, op := 0, inTrap := false, pend := [], since := s.refcnt
      ran := 0, waitTally := none, released := false, heldDesc := none } := by
  rcases h with h | h | h <;> simp only [State.runStart, h]

theorem State.runStart_of_busy {s : State} {c : Nat}
    (h : (s.core c).st = .running ∨ (s.core c).st = .waiting ∨ (s.core c).st = .idle) : s.runStart c = s := by
  rcases h with h | h | h <;> simp only [State.runStart, h]

/-- A core that is stopped keeps its PC, and drops the descriptor of an `ISSUE` that it leaves (R218). -/
theorem State.runStop_spec (s : State) (c : Nat) :
    let t := s.runStop c
    (t.core c).st = .stopped ∧ (t.core c).pc = (s.core c).pc ∧
      (t.core c).heldDesc = (if (s.core c).st = .waiting ∨ (s.core c).st = .idle then none else (s.core c).heldDesc) ∧
      t = { s with cores := t.cores } := by
  simp only [State.runStop]
  cases h : (s.core c).st <;> simp <;> rfl

/-! ### Loading (R237, R238) -/

theorem Core.setImem_spec (k : Core) (i : BitVec 14) (v : W32) :
    Table.get (fun _ => 0) (k.setImem i.toNat v).imem i.toNat = v ∧ (k.setImem i.toNat v).imemBad.has i.toNat = false ∧
      ∀ j, j ≠ i.toNat → Table.get (fun _ => 0) (k.setImem i.toNat v).imem j = Table.get (fun _ => 0) k.imem j := by
  rw [Core.setImem, if_pos i.isLt]
  exact ⟨Table.get_set_same _ _ _ _, by simp [NatSet.has_del], fun j hj => Table.get_set_ne _ _ hj _⟩

theorem exec_programMemoryWrite_word {s : State} (c : Fin 77) (i : BitVec 14) (v : W32) (hr : s.ready = true)
    (hb : (s.core c.val).busy = false) (hl : s.flag (.ril c.val) 0x114 0 = false) :
    exec (.programMemoryWrite c (.word i v)) s =
      .next ((s.progReplaced c.val).setCore c.val ((s.core c.val).setImem i.toNat v)) := by
  change execProgramMemoryWrite c (.word i v) s = _
  simp [execProgramMemoryWrite, hr, hb, hl]

theorem exec_programMemoryWrite_busy {s : State} (c : Fin 77) (x : LoadTarget) (hr : s.ready = true)
    (hb : (s.core c.val).busy = true) : exec (.programMemoryWrite c x) s = .next (s.setErr (.ril c.val) 2) := by
  change execProgramMemoryWrite c x s = _
  simp [execProgramMemoryWrite, hr, hb]

theorem exec_programMemoryWrite_locked {s : State} (c : Fin 77) (i : BitVec 14) (v : W32) (hr : s.ready = true)
    (hl : s.flag (.ril c.val) 0x114 0 = true) :
    exec (.programMemoryWrite c (.word i v)) s = .next (s.setErr (.ril c.val) 2) := by
  change execProgramMemoryWrite c (.word i v) s = _
  simp [execProgramMemoryWrite, hr, hl]

theorem exec_dataMemoryWrite_wide {s : State} (c : Fin 77) (off : BitVec 16) (x : W64) (hr : s.ready = true)
    (ha : off.toNat % 8 = 0) :
    exec (.dataMemoryWrite c off true x) s = .next (s.setCore c.val ((s.core c.val).dmemPut off.toNat 8 x.toNat)) := by
  change execDataMemoryWrite c off true x s = _
  simp [execDataMemoryWrite, hr, ha]

/-- A doubleword that is written whole is repaired (R217). -/
theorem Core.dmemBad_dmemPut_word (k : Core) {a : Nat} (v : Nat) (h : a % 8 = 0) :
    (k.dmemPut a 8 v).dmemBad.has (a / 8) = false := by
  have hword : 8 * (a / 8) = a := by omega
  simp [Core.dmemPut, NatSet.has, hword]

/-! ### The obligation -/

/-- Settles O25: each command of a core by its own equation. -/
theorem rillIssuesTakesAndRuns : Obligations.RillIssuesTakesAndRuns := by
  unfold Obligations.RillIssuesTakesAndRuns
  refine ⟨?_, ?_, ?_, ?_⟩
  · intro s c k w a opc d hk hw ha hopc hd hpc
    subst hk hw ha
    rw [← Core.dcOpc_dmemWords] at hopc
    subst hopc
    have hdesc : d = (s.core c.val).issued c.val (s.instrWord c.val) := hd
    rw [hdesc]
    refine ⟨fun h hrd hal hin hp => ?_, fun h u hst hu hheld hplace => ?_⟩
    · have hx := eaExc_of_placed hal hin
      have hkind := kindIssues_iff (coreKind_lt c.val)
        (dcOpc ((s.core c.val).dmemWords ((s.core c.val).ea (s.instrWord c.val)).toNat 1))
      refine ⟨fun hnot => ?_, fun hmem => ⟨fun u hu => ⟨_, rfl, ?_⟩, fun hfull => ?_⟩⟩
      · exact congrArg Host.Outcome.next (State.rill_exc h (by simp)
          (issueAct_foreign hrd hx (Bool.eq_false_iff.mpr fun hyes => hnot (hkind.mp hyes))))
      · exact State.rill_issue_placed h hpc (issueAct_placed hrd hx (hkind.mpr hmem) hp hu)
      · refine ⟨_, congrArg Host.Outcome.next (State.rill_wait h (by decide) hpc (by simp)
          (issueAct_full hrd hx (hkind.mpr hmem) hp hfull)), ?_⟩
        rw [State.core_setCore_same]
        exact ⟨rfl, rfl, rfl, rfl⟩
    · obtain ⟨hcore, _, hrest⟩ := (((u.onlyCore_refl c.val).setCore { (u.core c.val).endWait u.refcnt with
        pc := (u.core c.val).pc + 1 }).event (.ril c.val) 0x02 1).event (.ril c.val) 0x07 1
      refine ⟨_, exec_issueResume c hst hu hheld hplace, ?_⟩
      rw [hcore]
      exact ⟨rfl, rfl, rfl, hrest⟩
  · intro s c k w a hc hk hw ha
    subst hk hw ha
    refine ⟨fun h hrd hal hin hpc => ⟨fun d hd => ?_, fun hnone => ?_⟩, fun d hd hst hu => ?_⟩
    · obtain ⟨t, ht, hcore⟩ := exec_take c hc h hrd (eaExc_of_placed hal hin) hpc hd
      refine ⟨t, ht, ?_⟩
      rw [hcore]
      exact ⟨fun i hi => Core.dmemNat_takeDesc _ _ d s.refcnt hi, List.drop_one, rfl, rfl, rfl, rfl⟩
    · refine ⟨s.setCore c.val ((s.core c.val).beginWait s.refcnt .idle), congrArg Host.Outcome.next
        (State.rill_wait h (by decide) hpc (by simp) ?_), ?_⟩
      · simp [hrd, eaExc_of_placed hal hin, hnone]
      · rw [State.core_setCore_same]
        exact ⟨rfl, rfl, rfl⟩
    · refine ⟨_, exec_takeResume c hc hd hst hu, ?_⟩
      rw [State.core_event, State.core_setCore_same]
      exact ⟨rfl, List.drop_one, rfl, rfl, rfl⟩
  · intro s c k hk
    subst hk
    refine ⟨fun hst hlim hrel hu => exec_waitLimitExpire c hst hlim hrel hu, fun hst hlim => ?_, fun x rest hpend htrap hst => ?_⟩
    · refine ⟨_, exec_hangDetect c hst hlim, ?_⟩
      rw [State.hang, State.core_enterFaulted, State.core_advance]
      exact ⟨rfl, State.flag_enterFaulted _ _ _ _ (by decide), rfl, rfl⟩
    · refine ⟨_, exec_asyncExceptionTake c hpend htrap hst, ?_⟩
      rw [State.core_takeExc, State.core_setCore_same]
      obtain ⟨hg, _, _, _, hrest, _⟩ := Core.excepted_kept { s.core c.val with pend := rest } _ _ _ _ _
      obtain ⟨hepc, hcause, _⟩ := Core.excepted_records { s.core c.val with pend := rest } _ _ _ _ _
      exact ⟨hrest, hcause, hepc, hg⟩
  · intro s c k v hk hr
    subst hk
    refine ⟨fun hv hst => ?_, fun hv hst => ?_, ?_, fun i x hb hl => ?_, fun x hb => exec_programMemoryWrite_busy c x hr hb,
      fun i x _ hl => exec_programMemoryWrite_locked c i x hr hl, fun off x ha => ?_⟩
    · refine ⟨_, exec_runCtlStart c hr hv, ?_⟩
      rw [State.runStart_of_still hst, State.core_setCore_same]
      exact ⟨rfl, rfl, rfl, rfl, rfl, rfl, rfl⟩
    · rw [exec_runCtlStart c hr hv, State.runStart_of_busy hst]
    · exact ⟨_, congrArg Host.Outcome.next (if_neg (by simp [hr])), s.runStop_spec c.val⟩
    · refine ⟨_, exec_programMemoryWrite_word c i x hr hb hl, ?_⟩
      rw [State.core_setCore_same]
      exact (s.core c.val).setImem_spec i x
    · refine ⟨_, exec_dataMemoryWrite_wide c off x hr ha, ?_⟩
      rw [State.core_setCore_same, Core.dmemNat_dmemPut_same]
      exact ⟨Nat.mod_eq_of_lt x.isLt, (s.core c.val).dmemBad_dmemPut_word x.toNat ha, rfl⟩

end Sys2Proof.Machine
end

section
/-! PROOF. Records of command windows: how a record acts by its kind, waits, or is refused (R243 to R250, R265). -/
namespace Sys2Proof.Machine

/-! ### Effects on registers, messages and windows -/

theorem State.setErr_eq_io_out (s : State) (p : Page) (i : Nat) :
    s.setErr p i = { s with io := (s.setErr p i).io, out := (s.setErr p i).out } := s.detect_eq_io_out p _

/-- A write of a tally shows itself to each window. -/
theorem State.win_setTally (s : State) (t : Nat) (v : W32) (j : Nat) : (s.setTally t v).win j = (s.win j).seeTally t v := by
  simp only [State.win, State.setTally, Table.get, Table.find_map_snd]
  cases Table.find j s.wins <;> rfl

theorem State.win_addTally (s : State) (t : Nat) (n : W32) (j : Nat) :
    (s.addTally t n).win j = (s.win j).seeTally t (s.tally t + n) := by
  rw [State.addTally, State.win_event, State.win_setTally]

@[simp] theorem Win.seeTally_next (t : Nat) (v : W32) (k : Win) : (k.seeTally t v).next = k.next := by
  unfold Win.seeTally
  split
  · split <;> rfl
  · rfl

theorem State.core_deliver_same (s : State) (c : Nat) (d : Desc) :
    (s.deliver c d).core c = { s.core c with inq := (s.core c).inq ++ [d] } := State.core_setCore_same _ _ _

theorem State.core_deliver_ne (s : State) {j c : Nat} (h : j ≠ c) (d : Desc) : (s.deliver c d).core j = s.core j :=
  State.core_setCore_ne _ h _

theorem State.deliver_wins (s : State) (c : Nat) (d : Desc) : (s.deliver c d).wins = s.wins := rfl

theorem State.deliver_winTurn (s : State) (c : Nat) (d : Desc) : (s.deliver c d).winTurn = s.winTurn := rfl

theorem State.placeCore_of_lt {s : State} {c : Nat} (d : Desc) (h : (s.core c).inq.length < 16) :
    s.placeCore c d = some (s.deliver c d) := if_neg (Nat.not_le.mpr h)

theorem State.placeCore_of_full {s : State} {c : Nat} (d : Desc) (h : 16 ≤ (s.core c).inq.length) : s.placeCore c d = none :=
  if_pos h

theorem State.placeCore_windows {s u : State} {c : Nat} {d : Desc} (h : s.placeCore c d = some u) :
    u.wins = s.wins ∧ u.winTurn = s.winTurn := by
  cases Nat.lt_or_ge (s.core c).inq.length 16 with
  | inl hlt =>
    rw [State.placeCore_of_lt d hlt] at h
    cases h
    exact ⟨rfl, rfl⟩
  | inr hge => rw [State.placeCore_of_full d hge] at h; cases h

theorem State.placeDies_windows {s u : State} {d : Desc} (h : s.placeDies d = some u) :
    u.wins = s.wins ∧ u.winTurn = s.winTurn := by
  simp only [State.placeDies] at h
  split at h
  · cases h
  · cases h
    exact ⟨foldl_keeps State.wins (fun t _ => t.deliver_wins _ _) _ _,
      foldl_keeps State.winTurn (fun t _ => t.deliver_winTurn _ _) _ _⟩

/-- The placing of a descriptor concerns its target only, no window (R247). -/
theorem State.placeWork_windows {s u : State} {d : Desc} (h : s.placeWork d = some u) :
    u.wins = s.wins ∧ u.winTurn = s.winTurn := by
  simp only [State.placeWork] at h
  split at h
  · exact State.placeDies_windows h
  · exact State.placeCore_windows h
  · simp only [State.placeDma] at h
    split at h <;> cases h
    exact ⟨rfl, rfl⟩
  · simp only [State.placeStep] at h
    split at h <;> cases h
    exact ⟨rfl, rfl⟩

/-! ### A record that is consumed (R243, R248) -/

/-- A window once its record is consumed. -/
def Win.consumed (k : Win) : Win :=
  { k.freeSlot k.slot with next := k.next + 1, st := .run, ref := none, waits := none, met := false }

theorem State.win_consume_same (s : State) (w : Nat) : (s.consume w).win w = (s.win w).consumed := by
  rw [State.consume, State.win_event, State.win_setWin_same, Win.consumed]

theorem State.win_consume_ne (s : State) {v w : Nat} (h : v ≠ w) : (s.consume w).win v = s.win v := by
  rw [State.consume, State.win_event, State.win_setWin_ne _ h]

theorem State.core_consume (s : State) (w j : Nat) : (s.consume w).core j = s.core j := by simp [State.consume]

theorem State.tally_consume (s : State) (w j : Nat) : (s.consume w).tally j = s.tally j := by simp [State.consume]

theorem State.consume_frame (s : State) (w : Nat) :
    s.consume w = { s with wins := (s.consume w).wins, io := (s.consume w).io } := by
  rw [State.consume, State.event_eq_io]
  rfl

/-- The slot of the record is free. -/
theorem Win.full_consumed (k : Win) : k.consumed.full k.slot = false := by
  have hfirst : Table.find (16 * k.slot) k.consumed.words = none := by
    have hslot : 16 * k.slot / 16 = k.slot := by omega
    have hfind := Table.find_filter_key (fun x => x / 16 != k.slot) (16 * k.slot) k.words
    rwa [hslot, bne_self_eq_false, if_neg Bool.false_ne_true] at hfind
  rw [Win.full, List.all_eq_false]
  exact ⟨0, by simp, by simp [hfirst]⟩

/-- The record that window `w` had in `s` is consumed, and the turn goes past the window (R243, R245). -/
def State.Served (s : State) (w : Nat) (t : State) : Prop :=
  (t.win w).next = (s.win w).next + 1 ∧ (t.win w).st = .run ∧ (t.win w).full ((s.win w).next.toNat % 1024) = false ∧ t.winTurn = w

theorem State.served_consume {s u : State} {w : Nat} (hnext : (u.win w).next = (s.win w).next) (hturn : u.winTurn = w) :
    s.Served w (u.consume w) := by
  refine ⟨?_, ?_, ?_, ?_⟩
  · rw [State.win_consume_same, Win.consumed, hnext]
  · rw [State.win_consume_same, Win.consumed]
  · rw [State.win_consume_same, ← hnext]
    exact Win.full_consumed _
  · rw [State.consume_frame]
    exact hturn

/-! ### A record that is refused (R250) -/

theorem State.refuseRec_eq (s : State) (w reason : Nat) :
    s.refuseRec w reason = ((s.consume w).setWin w
      { (s.win w).consumed with st := .faulted, reason := reason, fseq := (s.win w).next }).setErr .cwn 0 := by
  simp only [State.refuseRec, State.winFault, State.win_consume_same]
  exact if_neg (by simp [Win.consumed])

theorem State.win_refuseRec_same (s : State) (w reason : Nat) :
    (s.refuseRec w reason).win w =
      { (s.win w).consumed with st := .faulted, reason := reason, fseq := (s.win w).next } := by
  rw [State.refuseRec_eq, State.win_setErr, State.win_setWin_same]

theorem State.win_refuseRec_ne (s : State) {v w : Nat} (h : v ≠ w) (reason : Nat) : (s.refuseRec w reason).win v = s.win v := by
  rw [State.refuseRec_eq, State.win_setErr, State.win_setWin_ne _ h, State.win_consume_ne _ h]

/-- A refusal changes windows, registers and interrupts, nothing else. -/
theorem State.refuseRec_frame (s : State) (w reason : Nat) :
    s.refuseRec w reason = { s with
      wins := (s.refuseRec w reason).wins, io := (s.refuseRec w reason).io, out := (s.refuseRec w reason).out } := by
  rw [State.refuseRec_eq, State.setErr_eq_io_out, State.consume_frame]
  rfl

/-! ### The judgement of a record (R246 to R250) -/

/-- The state in which the controller serves window `w` (R245). -/
def State.atTurn (s : State) (w : Nat) : State := { s with winTurn := w }

/-- The record of the window whose turn it is, with the sequence number due, is judged (R243, R245). -/
theorem State.serve_of_turn {s : State} {w : Nat} {r : List W32} {kinds : List Nat} (e : Ecc) (hrec : s.record w = some r)
    (hturn : s.nextWin = some w) (hover : (s.win w).overrun = none) (hseq : wordAt r 0 = (s.win w).next)
    (hkind : kinds.contains (rcKind r) = true) :
    s.serve w kinds e = (s.atTurn w).recJudged w r false e := by
  have hmem : rcKind r ∈ kinds := List.contains_iff_mem.mp hkind
  simp [State.serve, State.atTurn, hrec, hturn, hover, hseq, hmem]

theorem State.recJudged_refused {s : State} {w : Nat} {r : List W32} {n : Nat} (met : Bool) (e : Ecc) (h : s.rcReason w r = n)
    (hn : n ≠ 0) : s.recJudged w r met e = s.refuseRec w n := by
  subst h
  exact if_pos hn

theorem State.recJudged_waits {s : State} {w : Nat} {r : List W32} (e : Ecc) (h : s.rcReason w r = 0) (hwait : rcWait r = true)
    (htally : tallyReached (s.tally (rcWtally r)) (rcTarget r) = false) : s.recJudged w r false e = s.winWait w r := by
  simp [State.recJudged, h, hwait, htally]

theorem State.recJudged_acts {s : State} {w : Nat} {r : List W32} {met : Bool} (e : Ecc) (h : s.rcReason w r = 0)
    (hopen : rcWait r = false ∨ met = true ∨ tallyReached (s.tally (rcWtally r)) (rcTarget r) = true) :
    s.recJudged w r met e = s.recAct w r e := by
  have hgo : (rcWait r && !met && !(tallyReached (s.tally (rcWtally r)) (rcTarget r))) = false := by
    rcases hopen with hopen | hopen | hopen <;> simp [hopen]
  simp [State.recJudged, h, hgo]

/-- A record whose turn has come and whose wait is over, or that has none. -/
theorem State.recJudged_atTurn {s : State} {w : Nat} {r : List W32} (e : Ecc) (h : s.rcReason w r = 0)
    (hopen : rcWait r = false ∨ tallyReached (s.tally (rcWtally r)) (rcTarget r) = true) :
    (s.atTurn w).recJudged w r false e = (s.atTurn w).recAct w r e :=
  State.recJudged_acts (s := s.atTurn w) e h (hopen.imp_right .inr)

theorem State.tallyPermitted_event (s : State) (c n t x : Nat) :
    (s.event .tly c n).tallyPermitted t x = s.tallyPermitted t x := by
  rw [State.tallyPermitted_eq, State.tallyPermitted_eq, State.field, State.field,
    State.reg_event_ne s c n fun k hk hk' => by omega]

theorem State.winOpc_event (s : State) (c n w opc : Nat) : (s.event .tly c n).winOpc w opc = s.winOpc w opc := by
  have hreg : (s.event .tly c n).reg .dev 0x100 = s.reg .dev 0x100 :=
    State.reg_event_ne s c n fun k _ _ => by simp only [Page.base]; omega
  simp only [State.winOpc, State.partOfCtx, State.partCount, State.partMode, State.stepOwner, State.field, hreg]

/-- The count of an event decides nothing about a record. -/
theorem State.rcReason_event (s : State) (c n w : Nat) (r : List W32) : (s.event .tly c n).rcReason w r = s.rcReason w r := by
  simp only [State.rcReason, State.tallyPermitted_event, State.winOpc_event]

theorem rcKind_lt (r : List W32) : rcKind r < 16 := fld_lt _ 31 28

/-! ### The kinds of records (R247) -/

section
variable {s : State} {w : Nat} {r : List W32} (e : Ecc)

theorem State.recAct_nop (h : rcKind r = 0) : s.recAct w r e = s.consume w := by simp only [State.recAct, h]

theorem State.recAct_tinc (h : rcKind r = 3) :
    s.recAct w r e = (s.addTally (wfld r 4 11 0) (wordAt r 5)).consume w := by simp only [State.recAct, h]

theorem State.recAct_desc {u : State} (h : rcKind r = 1)
    (hplace : s.placeWork { words := r.drop 4, ctx := w, src := .win w (s.win w).next } = some u) :
    s.recAct w r e = u.consume w := by simp only [State.recAct, h, State.winPlace, hplace]

theorem State.recAct_descRef (h : rcKind r = 2) (href : (s.win w).ref = none) :
    s.recAct w r e = s.refRead w (wquad r 4 43) e := by simp only [State.recAct, h, href]

theorem State.recAct_prog (h : rcKind r = 4) (hlen : (s.core 0).inq.length < 16) :
    s.recAct w r e = (s.deliver 0 { words := r, ctx := w, src := .win w (s.win w).next }).consume w := by
  simp only [State.recAct, h, State.placeCore_of_lt _ hlen]

theorem State.recAct_prog_full (h : rcKind r = 4) (hlen : 16 ≤ (s.core 0).inq.length) :
    s.recAct w r e = s.winHold w .blocked := by simp only [State.recAct, h, State.placeCore_of_full _ hlen]

end

/-! ### Waiting (R248) -/

theorem State.winHold_of_ne {s : State} {w : Nat} {st : WinSt} (h : (s.win w).st ≠ st) :
    s.winHold w st = s.setWin w { s.win w with st := st, since := s.refcnt } := if_neg h

theorem State.win_winWait_same {s : State} {w : Nat} (r : List W32) (h : (s.win w).st ≠ .held) :
    (s.winWait w r).win w = { s.win w with
      st := .held, since := s.refcnt, waits := some (rcWtally r, rcTarget r), met := false } := by
  rw [State.winWait, State.win_setWin_same, State.winHold_of_ne h, State.win_setWin_same]

theorem State.win_winWait_ne {s : State} {v w : Nat} (r : List W32) (h : (s.win w).st ≠ .held) (hv : v ≠ w) :
    (s.winWait w r).win v = s.win v := by
  rw [State.winWait, State.win_setWin_ne _ hv, State.winHold_of_ne h, State.win_setWin_ne _ hv]

theorem State.winWait_frame {s : State} {w : Nat} (r : List W32) (h : (s.win w).st ≠ .held) :
    s.winWait w r = { s with wins := (s.winWait w r).wins } := by
  rw [State.winWait, State.winHold_of_ne h]
  rfl

theorem exec_progWait_blocked {s : State} {w : Fin 64} {r : List W32} (hrec : s.record w.val = some r)
    (hst : (s.win w.val).st = .blocked) (hkind : rcKind r = 4) (hlim : (s.reg (.ril 0) 0x118).toNat ≠ 0) :
    exec (.progWait w) s =
      .next ((s.advance (s.win w.val).since ((s.reg (.ril 0) 0x118).toNat * 1024)).setErr .cwn 1) := by
  have hcounts : (s.reg (.ril 0) 0x118).toNat * 1024 ≠ 0 := by omega
  have hgo : ¬((s.win w.val).st ≠ .blocked ∨ rcKind r ≠ 4 ∨ (s.reg (.ril 0) 0x118).toNat * 1024 = 0) := by
    rintro (h | h | h)
    · exact h hst
    · exact h hkind
    · exact hcounts h
  change execProgWait w s = _
  simp only [execProgWait, hrec, if_neg hgo]

/-! ### The read of a descriptor (R247) -/

theorem State.win_lookup_clean (s : State) (die copy a j : Nat) : (s.lookup die copy a .clean).win j = s.win j := by
  unfold State.lookup
  split
  · rfl
  · exact State.win_event _ _ _ _ _

theorem State.refRead_here {s : State} {w a key : Nat} {e : Ecc}
    (h : ((s.event .cwn 0x05 1).lookup 4 0 a e).site 4 0 w .rd a = .ok (.here key)) :
    s.refRead w a e = ((s.event .cwn 0x05 1).lookup 4 0 a e).setWin w
      { ((s.event .cwn 0x05 1).lookup 4 0 a e).win w with ref := some (.here key), st := .run } := by
  simp only [State.refRead, h]

theorem State.refDone_placed {s u : State} {w : Nat} {ws : List W32} (hopc : s.winOpc w (dcOpc ws) = true)
    (hplace : (s.setWin w { s.win w with ref := some (.got ws) }).placeWork
      { words := ws, ctx := w, src := .win w (s.win w).next } = some u) :
    s.refDone w ws false = u.consume w := by
  simp only [State.refDone, hopc, State.winPlace, State.win_setWin_same, hplace]
  rfl

theorem exec_descRefReadDone_local {s : State} {w : Fin 64} {key : Nat} (us : List GranUse)
    (href : (s.win w.val).ref = some (.here key)) (hst : (s.win w.val).st = .run)
    (hroute : s.routeDown 4 (stackDie (key / 2 ^ 37)) = false) :
    exec (.descRefReadDone w us) s = .next ((s.readRange 0 key 64 us).refDone w.val
      (leWords ((s.readRange 0 key 64 us).hbmRead key 64) 16) ((s.readRange 0 key 64 us).rangePoison key 64)) := by
  change execDescRefReadDone w us s = _
  simp only [execDescRefReadDone, href, hst, hroute, ne_eq, not_true_eq_false, if_false, Bool.false_eq_true]

/-! ### The commands of the record kinds -/

section
variable {s : State} {w : Fin 64} {r : List W32} (hrec : s.record w.val = some r) (hturn : s.nextWin = some w.val)
  (hover : (s.win w.val).overrun = none) (hseq : wordAt r 0 = (s.win w.val).next)
include hrec hturn hover hseq

theorem exec_recordNop (h : rcKind r = 0 ∨ 5 ≤ rcKind r) :
    exec (.recordNop w) s = .next ((s.atTurn w.val).recJudged w.val r false .clean) := by
  have hlt := rcKind_lt r
  exact congrArg Host.Outcome.next (State.serve_of_turn .clean hrec hturn hover hseq
    (List.contains_iff_mem.mpr (by simp only [List.mem_cons]; omega)))

theorem exec_recordDesc (h : rcKind r = 1) :
    exec (.recordDesc w) s = .next ((s.atTurn w.val).recJudged w.val r false .clean) :=
  congrArg Host.Outcome.next (State.serve_of_turn .clean hrec hturn hover hseq (by simp [h]))

theorem exec_recordDescRef (e : Ecc) (h : rcKind r = 2) :
    exec (.recordDescRef w e) s = .next ((s.atTurn w.val).recJudged w.val r false e) :=
  congrArg Host.Outcome.next (State.serve_of_turn e hrec hturn hover hseq (by simp [h]))

theorem exec_recordTinc (h : rcKind r = 3) :
    exec (.recordTinc w) s = .next ((s.atTurn w.val).recJudged w.val r false .clean) :=
  congrArg Host.Outcome.next (State.serve_of_turn .clean hrec hturn hover hseq (by simp [h]))

theorem exec_recordProg (h : rcKind r = 4) :
    exec (.recordProg w) s = .next ((s.atTurn w.val).recJudged w.val r false .clean) :=
  congrArg Host.Outcome.next (State.serve_of_turn .clean hrec hturn hover hseq (by simp [h]))

/-- Each record kind has its command, and every other kind RECORD_NOP. -/
theorem exec_record_of_kind {i : Instr} {own : Bool} (hi : (i, own) ∈
      [(Instr.recordNop w, rcKind r == 0 || decide (5 ≤ rcKind r)), (.recordDesc w, rcKind r == 1),
        (.recordDescRef w .clean, rcKind r == 2), (.recordTinc w, rcKind r == 3), (.recordProg w, rcKind r == 4)])
    (hown : own = true) : exec i s = .next ((s.atTurn w.val).recJudged w.val r false .clean) := by
  simp only [List.mem_cons, Prod.mk.injEq, List.not_mem_nil, or_false] at hi
  rcases hi with ⟨rfl, rfl⟩ | ⟨rfl, rfl⟩ | ⟨rfl, rfl⟩ | ⟨rfl, rfl⟩ | ⟨rfl, rfl⟩
  · exact exec_recordNop hrec hturn hover hseq (by simpa using hown)
  · exact exec_recordDesc hrec hturn hover hseq (by simpa using hown)
  · exact exec_recordDescRef hrec hturn hover hseq .clean (by simpa using hown)
  · exact exec_recordTinc hrec hturn hover hseq (by simpa using hown)
  · exact exec_recordProg hrec hturn hover hseq (by simpa using hown)

theorem exec_record_refused {n : Nat} {i : Instr} {own : Bool} (hwhy : s.rcReason w.val r = n) (hn : n ≠ 0) (hi : (i, own) ∈
      [(Instr.recordNop w, rcKind r == 0 || decide (5 ≤ rcKind r)), (.recordDesc w, rcKind r == 1),
        (.recordDescRef w .clean, rcKind r == 2), (.recordTinc w, rcKind r == 3), (.recordProg w, rcKind r == 4)])
    (hown : own = true) : exec i s = .next ((s.atTurn w.val).refuseRec w.val n) := by
  rw [exec_record_of_kind hrec hturn hover hseq hi hown, State.recJudged_refused (s := s.atTurn w.val) false .clean hwhy hn]

variable (hwhy : s.rcReason w.val r = 0)
include hwhy

theorem exec_recordNop_waits (hkind : rcKind r = 0) (hwait : rcWait r = true)
    (htally : tallyReached (s.tally (rcWtally r)) (rcTarget r) = false) :
    exec (.recordNop w) s = .next ((s.atTurn w.val).winWait w.val r) := by
  rw [exec_recordNop hrec hturn hover hseq (.inl hkind),
    State.recJudged_waits (s := s.atTurn w.val) .clean hwhy hwait htally]

theorem exec_recordProg_blocks (hkind : rcKind r = 4) (hwait : rcWait r = false) (hlen : 16 ≤ (s.core 0).inq.length) :
    exec (.recordProg w) s = .next ((s.atTurn w.val).winHold w.val .blocked) := by
  rw [exec_recordProg hrec hturn hover hseq hkind, State.recJudged_atTurn .clean hwhy (.inl hwait),
    State.recAct_prog_full (s := s.atTurn w.val) _ hkind hlen]

theorem exec_recordDescRef_reads (hkind : rcKind r = 2) (hwait : rcWait r = false) (href : (s.win w.val).ref = none) :
    exec (.recordDescRef w .clean) s = .next ((s.atTurn w.val).refRead w.val (wquad r 4 43) .clean) := by
  rw [exec_recordDescRef hrec hturn hover hseq .clean hkind,
    State.recJudged_atTurn .clean hwhy (.inl hwait),
    State.recAct_descRef (s := s.atTurn w.val) _ hkind href]

variable (hopen : rcWait r = false ∨ tallyReached (s.tally (rcWtally r)) (rcTarget r) = true)
include hopen

theorem exec_recordNop_acts (hkind : rcKind r = 0) : exec (.recordNop w) s = .next ((s.atTurn w.val).consume w.val) := by
  rw [exec_recordNop hrec hturn hover hseq (.inl hkind), State.recJudged_atTurn .clean hwhy hopen, State.recAct_nop _ hkind]

theorem exec_recordTinc_acts (hkind : rcKind r = 3) :
    exec (.recordTinc w) s = .next (((s.atTurn w.val).addTally (wfld r 4 11 0) (wordAt r 5)).consume w.val) := by
  rw [exec_recordTinc hrec hturn hover hseq hkind, State.recJudged_atTurn .clean hwhy hopen, State.recAct_tinc _ hkind]

theorem exec_recordDesc_acts {u : State} (hkind : rcKind r = 1) (hplace : (s.atTurn w.val).placeWork
      { words := r.drop 4, ctx := w.val, src := .win w.val (s.win w.val).next } = some u) :
    exec (.recordDesc w) s = .next (u.consume w.val) := by
  rw [exec_recordDesc hrec hturn hover hseq hkind, State.recJudged_atTurn .clean hwhy hopen,
    State.recAct_desc (s := s.atTurn w.val) _ hkind hplace]

theorem exec_recordProg_acts (hkind : rcKind r = 4) (hlen : (s.core 0).inq.length < 16) :
    exec (.recordProg w) s = .next (((s.atTurn w.val).deliver 0
      { words := r, ctx := w.val, src := .win w.val (s.win w.val).next }).consume w.val) := by
  rw [exec_recordProg hrec hturn hover hseq hkind, State.recJudged_atTurn .clean hwhy hopen,
    State.recAct_prog (s := s.atTurn w.val) _ hkind hlen]
  rfl

end

/-! ### A wait that is over (R248) -/

section
variable {s : State} {w : Fin 64} {r : List W32} (hrec : s.record w.val = some r) (hwhy : s.rcReason w.val r = 0)
include hrec hwhy

theorem exec_recordWaitRelease_held (hst : (s.win w.val).st = .held) (hkind : rcKind r = 0)
    (hmet : (s.win w.val).met = true ∨ tallyReached (s.tally (rcWtally r)) (rcTarget r) = true) :
    exec (.recordWaitRelease w .clean) s =
      .next (((s.setWin w.val { s.win w.val with st := .run }).event .tly 0x03 1).consume w.val) := by
  have hjudged := State.recJudged_acts (met := true) .clean
    ((State.rcReason_event (s.setWin w.val { s.win w.val with st := .run }) 0x03 1 w.val r).trans hwhy) (.inr (.inl rfl))
  change execRecordWaitRelease w .clean s = _
  simp only [execRecordWaitRelease, hrec, hst, true_and, if_pos hmet]
  rw [hjudged, State.recAct_nop _ hkind]

theorem exec_recordWaitRelease_blocked (hst : (s.win w.val).st = .blocked) (hkind : rcKind r = 4)
    (hlen : (s.core 0).inq.length < 16) :
    exec (.recordWaitRelease w .clean) s = .next ((s.deliver 0
      { words := r, ctx := w.val, src := .win w.val (s.win w.val).next }).consume w.val) := by
  have hjudged := State.recJudged_acts (met := true) .clean hwhy (.inr (.inl rfl))
  rw [State.recAct_prog _ hkind hlen] at hjudged
  change execRecordWaitRelease w .clean s = _
  simp [execRecordWaitRelease, hrec, hst, hjudged]

end

/-! ### The obligation -/

/-- Settles O28, clause by clause: a record that acts by its kind, the read of a descriptor, a record that waits and is
released, a record that is refused. -/
theorem recordsActWaitOrAreRefused : Obligations.RecordsActWaitOrAreRefused := by
  unfold Obligations.RecordsActWaitOrAreRefused
  refine ⟨fun s w r hrec hturn hover hseq hwhy hopen => ?_, fun s w => ⟨?_, ?_⟩, fun s w r hrec hwhy => ⟨?_, ?_, ?_, ?_⟩, ?_⟩
  · intro done
    refine ⟨fun hkind => ?_, fun hkind => ?_, fun hkind u hplace => ?_, fun hkind hlen => ?_⟩
    · exact ⟨_, exec_recordNop_acts hrec hturn hover hseq hwhy hopen hkind, State.served_consume rfl rfl,
        fun v hv => State.win_consume_ne _ hv, State.consume_frame _ _⟩
    · refine ⟨_, exec_recordTinc_acts hrec hturn hover hseq hwhy hopen hkind,
        State.served_consume ?_ (State.addTally_winTurn _ _ _), ?_, fun n hn => ?_⟩
      · rw [State.win_addTally, Win.seeTally_next]
        rfl
      · rw [State.tally_consume, State.tally_addTally_same]
        rfl
      · rw [State.tally_consume, State.tally_addTally_ne _ hn]
        rfl
    · obtain ⟨hwins, hlast⟩ := State.placeWork_windows hplace
      refine ⟨_, exec_recordDesc_acts hrec hturn hover hseq hwhy hopen hkind hplace, State.served_consume ?_ hlast,
        State.consume_frame _ _⟩
      rw [State.win, hwins]
      rfl
    · refine ⟨_, exec_recordProg_acts hrec hturn hover hseq hwhy hopen hkind hlen, State.served_consume rfl rfl,
        fun v hv => State.win_consume_ne _ hv, ?_⟩
      rw [State.core_consume, State.core_deliver_same]
      rfl
  · intro r s1 key hrec hturn href hover hseq hwhy hwait hkind hs1 hsite
    subst hs1
    refine ⟨_, exec_recordDescRef_reads hrec hturn hover hseq hwhy hkind hwait href, ?_⟩
    rw [State.refRead_here (s := s.atTurn w.val) hsite, State.win_setWin_same, State.win_lookup_clean, State.win_event]
    exact ⟨rfl, rfl⟩
  · intro key us ws s1 u href hst hroute hs1 hws hclean hopc hplace
    subst hs1 hws
    rw [exec_descRefReadDone_local us href hst hroute, hclean, State.refDone_placed hopc hplace]
  · intro hturn hover hseq hst
    have hne : ∀ st, st ≠ .run → ((s.atTurn w.val).win w.val).st ≠ st := fun st h heq => h (heq.symm.trans hst)
    refine ⟨fun hwait htally hkind => ?_, fun hwait hkind hlen => ?_⟩
    · have hrun := hne .held (by decide)
      exact ⟨_, exec_recordNop_waits hrec hturn hover hseq hwhy hkind hwait htally, State.win_winWait_same r hrun,
        fun v hv => State.win_winWait_ne r hrun hv, State.winWait_frame r hrun⟩
    · refine ⟨_, exec_recordProg_blocks hrec hturn hover hseq hwhy hkind hwait hlen, ?_⟩
      rw [State.winHold_of_ne (hne .blocked (by decide))]
      exact ⟨State.win_setWin_same _ _ _, fun v hv => State.win_setWin_ne _ hv _, rfl⟩
  · intro hst hkind hmet
    refine ⟨_, exec_recordWaitRelease_held hrec hwhy hst hkind hmet, ?_⟩
    rw [State.win_consume_same, State.win_event, State.win_setWin_same]
    exact ⟨rfl, rfl⟩
  · intro hst hkind hlen
    refine ⟨_, exec_recordWaitRelease_blocked hrec hwhy hst hkind hlen, ?_⟩
    rw [State.win_consume_same, State.core_consume, State.core_deliver_same]
    exact ⟨rfl, rfl, List.length_append⟩
  · exact fun hst hkind hlim => exec_progWait_blocked hrec hst hkind hlim
  · rintro s w r n hrec hturn hover hseq hwhy hn ⟨i, own⟩ hi hown
    refine ⟨_, exec_record_refused hrec hturn hover hseq hwhy hn hi hown, ?_⟩
    rw [State.win_refuseRec_same]
    refine ⟨rfl, rfl, hseq.symm, rfl, ?_, fun v hv => State.win_refuseRec_ne _ hv n, State.refuseRec_frame _ _ _⟩
    rw [State.refuseRec_eq]
    exact State.flag_setErr _ _ _ (by decide)

end Sys2Proof.Machine
end

section
/-! PROOF. Die sequencers: accepting an operation, dealing it into shares that cover the deal, and the end of a share (R15, R16,
R97, R252, R253). -/
namespace Sys2Proof.Machine

/-! ### Accepting an operation (R252) -/

theorem odOk_of_malformed {d : List W32}
    (h : wfld d 2 23 0 = 0 ∨ wfld d 3 23 0 = 0 ∨ wfld d 4 23 0 = 0 ∨ wfld d 0 19 8 ≠ 0) : odOk d = false := by
  rcases h with h | h | h | h <;> simp [odOk, odM, odN, odK, h]

theorem nextUnjudged_cons {d : Desc} (q : List Desc) (h : d.judged = false) : nextUnjudged (d :: q) = some d := by
  simp [nextUnjudged, h]

theorem judgeFirst_cons (f : Desc → Option Desc) {d : Desc} (q : List Desc) (h : d.judged = false) :
    judgeFirst f (d :: q) = (f d).toList ++ q := by
  simp [judgeFirst, h]

section
variable {s : State} {k : Fin 4} {d : Desc} {rest : List Desc} (hq : (s.core (1 + k.val)).inq = d :: rest)
  (hj : d.judged = false)
include hq hj

theorem exec_operationAccept_taken (hok : odOk d.words = true) :
    exec (.operationAccept k) s = .next
      ((s.setCore (1 + k.val) { s.core (1 + k.val) with inq := { d with judged := true } :: rest }).setDie k.val
        (s.die k.val ++ [{ desc := { d with judged := true } }])) := by
  change execOperationAccept k s = _
  simp only [execOperationAccept, hq, nextUnjudged_cons rest hj, judgeFirst_cons _ rest hj, if_pos hok]
  rfl

theorem exec_operationAccept_refused (hok : odOk d.words = false) :
    exec (.operationAccept k) s = .next (((s.setCore (1 + k.val) { s.core (1 + k.val) with inq := rest }).setErr
      (.die k.val) 1).refuseDesc d 0 0x11) := by
  change execOperationAccept k s = _
  simp only [execOperationAccept, hq, nextUnjudged_cons rest hj, judgeFirst_cons _ rest hj, hok]
  rfl

end

/-! ### The deal (R97, R253) -/

/-- The arrays of Ridge `n` that the deal of partition `p` may use. -/
def State.dealArrays (s : State) (p n : Nat) : List (Nat × Nat) :=
  if s.partOfDie (n / 16) ≠ p ∨ (s.ridge n).quiescing ∨ (s.ridge n).quiesced then []
  else (List.range 64).filterMap fun a =>
    if s.uncondFence n a || s.binFence n a (s.dieBin (n / 16)) then none else some (n, a)

theorem State.dealList_eq (s : State) (p : Nat) : s.dealList p = (List.range 64).flatMap (s.dealArrays p) := rfl

theorem State.fst_of_mem_dealArrays {s : State} {p n : Nat} {x : Nat × Nat} (h : x ∈ s.dealArrays p n) : x.1 = n := by
  unfold State.dealArrays at h
  split at h
  · cases h
  · obtain ⟨a, _, ha⟩ := List.mem_filterMap.mp h
    split at ha <;> cases ha
    rfl

theorem State.length_dealArrays (s : State) (p n : Nat) : (s.dealArrays p n).length ≤ 64 := by
  unfold State.dealArrays
  split
  · exact Nat.zero_le _
  · exact Nat.le_trans (List.length_filterMap_le _ _) (Nat.le_of_eq List.length_range)

theorem length_flatMap_le {α β : Type} {f : α → List β} {m : Nat} (h : ∀ x, (f x).length ≤ m) (l : List α) :
    (l.flatMap f).length ≤ l.length * m := by
  induction l with
  | nil => exact Nat.zero_le _
  | cons x l ih =>
    have hx := h x
    rw [List.flatMap_cons, List.length_append, List.length_cons, Nat.succ_mul]
    omega

theorem State.length_dealFinal (s : State) (p t : Nat) : (s.dealFinal (s.dealList p) t).length ≤ 4096 :=
  Nat.le_trans (List.length_filter_le _ _) (length_flatMap_le (s.length_dealArrays p) (List.range 64))

theorem State.fst_lt_of_mem_dealFinal {s : State} {p t : Nat} {x : Nat × Nat} (h : x ∈ s.dealFinal (s.dealList p) t) :
    x.1 < 64 := by
  obtain ⟨n, hn, hx⟩ := List.mem_flatMap.mp (List.mem_filter.mp h).1
  rw [State.fst_of_mem_dealArrays hx]
  exact List.mem_range.mp hn

/-- The list `l` is `a`, `b` and `c` one after the other, `b` the arrays of Ridge `n`, which stand nowhere else. -/
structure RidgeSplit (l : List (Nat × Nat)) (n : Nat) (a b c : List (Nat × Nat)) : Prop where
  eq : l = a ++ (b ++ c)
  before : ∀ x ∈ a, x.1 ≠ n
  own : ∀ x ∈ b, x.1 = n
  after : ∀ x ∈ c, x.1 ≠ n

theorem RidgeSplit.filter {l a b c : List (Nat × Nat)} {n : Nat} (h : RidgeSplit l n a b c) (f : Nat × Nat → Bool) :
    RidgeSplit (l.filter f) n (a.filter f) (b.filter f) (c.filter f) where
  eq := by rw [h.eq, List.filter_append, List.filter_append]
  before x hx := h.before x (List.mem_filter.mp hx).1
  own x hx := h.own x (List.mem_filter.mp hx).1
  after x hx := h.after x (List.mem_filter.mp hx).1

/-- The arrays of each Ridge stand side by side in the list that a deal starts from. -/
theorem State.dealList_split (s : State) (p : Nat) {n : Nat} (hn : n < 64) :
    ∃ a c, RidgeSplit (s.dealList p) n a (s.dealArrays p n) c := by
  obtain ⟨lo, hi, hrange⟩ := List.append_of_mem (List.mem_range.mpr hn)
  have hnodup : (lo ++ n :: hi).Nodup := hrange ▸ List.nodup_range
  obtain ⟨_, hhi, hapart⟩ := List.nodup_append.mp hnodup
  refine ⟨lo.flatMap (s.dealArrays p), hi.flatMap (s.dealArrays p), ?_, ?_, fun _ => State.fst_of_mem_dealArrays, ?_⟩
  · rw [State.dealList_eq, hrange, List.flatMap_append, List.flatMap_cons]
  · intro x hx
    obtain ⟨m, hm, hx⟩ := List.mem_flatMap.mp hx
    rw [State.fst_of_mem_dealArrays hx]
    exact hapart m hm n List.mem_cons_self
  · intro x hx heq
    obtain ⟨m, hm, hx⟩ := List.mem_flatMap.mp hx
    rw [State.fst_of_mem_dealArrays hx] at heq
    exact (List.nodup_cons.mp hhi).1 (heq ▸ hm)

section
variable {l a b c : List (Nat × Nat)} {n : Nat} (h : RidgeSplit l n a b c)
include h

theorem RidgeSplit.arraysOf_eq : arraysOf l n = b.length := by
  have ha : a.filter (fun x => x.1 == n) = [] := List.filter_eq_nil_iff.mpr fun x hx => by simpa using h.before x hx
  have hb : b.filter (fun x => x.1 == n) = b := List.filter_eq_self.mpr fun x hx => by simpa using h.own x hx
  have hc : c.filter (fun x => x.1 == n) = [] := List.filter_eq_nil_iff.mpr fun x hx => by simpa using h.after x hx
  rw [arraysOf, h.eq, List.filter_append, List.filter_append, ha, hb, hc, List.nil_append, List.append_nil]

theorem RidgeSplit.listPos_eq : listPos l n = if b = [] then 0 else a.length := by
  have ha : a.findIdx? (fun x => x.1 == n) = none := List.findIdx?_eq_none_iff.mpr fun x hx => by simpa using h.before x hx
  have hc : c.findIdx? (fun x => x.1 == n) = none := List.findIdx?_eq_none_iff.mpr fun x hx => by simpa using h.after x hx
  rw [listPos, h.eq, List.findIdx?_append, List.findIdx?_append, ha, hc]
  cases b with
  | nil => rfl
  | cons x b =>
    have hx := h.own x List.mem_cons_self
    simp [List.findIdx?_cons, hx]

/-- The places that belong to Ridge `n` are those of its run. -/
theorem RidgeSplit.place_iff {i : Nat} (hi : i < l.length) : l[i].1 = n ↔ a.length ≤ i ∧ i < a.length + b.length := by
  have hl := h.eq
  subst hl
  rw [List.length_append, List.length_append] at hi
  by_cases hlo : i < a.length
  · rw [List.getElem_append_left hlo]
    have := h.before _ (List.getElem_mem hlo)
    omega
  · by_cases hmid : i < a.length + b.length
    · rw [List.getElem_append_right (by omega), List.getElem_append_left (by omega)]
      have := h.own _ (List.getElem_mem (n := i - a.length) (by omega))
      omega
    · rw [List.getElem_append_right (by omega), List.getElem_append_right (by omega)]
      have := h.after _ (List.getElem_mem (n := i - a.length - b.length) (by omega))
      omega

end

/-! ### Share descriptors (R253) -/

/-- A share descriptor states the Ridge's place in the list and its number of arrays. -/
theorem shareWords_fields (d : List W32) (tally : Nat) {l : List (Nat × Nat)} {n : Nat} (hlen : l.length < 65536)
    (hpos : listPos l n < 8192) (hnum : arraysOf l n < 128) :
    wfld (shareWords d tally l n) 3 28 16 = listPos l n ∧ wfld (shareWords d tally l n) 4 6 0 = arraysOf l n := by
  have hplace : wordAt (shareWords d tally l n) 3 = w32 (listPos l n * 65536 + l.length) := rfl
  have hcount : wordAt (shareWords d tally l n) 4 = w32 (arraysOf l n) := rfl
  refine ⟨?_, ?_⟩
  · rw [wfld, hplace, fld, w32, BitVec.toNat_ofNat, Nat.mod_eq_of_lt (by omega), bits, Nat.shiftRight_eq_div_pow]
    omega
  · rw [wfld, hcount, fld_w32_of_lt 6 hnum (by decide)]

/-- A place of the list lies in the share of Ridge `n` exactly when the array at it is of that Ridge. -/
theorem State.share_iff (s : State) (p t : Nat) (d : List W32) (tally : Nat) {n i : Nat} (hn : n < 64)
    (hi : i < (s.dealFinal (s.dealList p) t).length) :
    let w := shareWords d tally (s.dealFinal (s.dealList p) t) n
    (wfld w 3 28 16 ≤ i ∧ i < wfld w 3 28 16 + wfld w 4 6 0 ∧ wfld w 4 6 0 ≠ 0) ↔ (s.dealFinal (s.dealList p) t)[i].1 = n := by
  have hlen := s.length_dealFinal p t
  obtain ⟨a, c, hlist⟩ := s.dealList_split p hn
  have hsplit : RidgeSplit (s.dealFinal (s.dealList p) t) n _ _ _ := hlist.filter _
  have hown := Nat.le_trans
    (List.length_filter_le (fun x => !(s.sigFence x.1 x.2 (loadSignature (s.dealList p) t x.1))) _) (s.length_dealArrays p n)
  generalize s.dealFinal (s.dealList p) t = l at hi hlen hsplit ⊢
  generalize List.filter _ a = a at hsplit
  generalize List.filter _ (s.dealArrays p n) = b at hsplit hown
  have hsum : a.length + b.length ≤ l.length := by
    rw [hsplit.eq, List.length_append, List.length_append]
    omega
  have hpos := hsplit.listPos_eq
  have hnum := hsplit.arraysOf_eq
  have hle : listPos l n ≤ a.length := by rw [hpos]; split <;> omega
  obtain ⟨hfpos, hfnum⟩ := shareWords_fields d tally (l := l) (n := n) (by omega) (by omega) (by omega)
  intro w
  rw [hfpos, hfnum, hsplit.place_iff hi, hnum, hpos]
  cases b with
  | nil => simp
  | cons x b => simp

/-! ### Opening an operation (R15, R253) -/

theorem State.partOfDie_of_four {s : State} (h : s.partMode = 2) (k : Nat) : s.partOfDie k = k := by simp [State.partOfDie, h]

theorem State.diesOf_of_four {s : State} (h : s.partMode = 2) (k : Fin 4) : s.diesOf k.val = [k.val] := by
  have hone : ∀ k : Fin 4, ((List.range 4).filter fun j => j == k.val) = [k.val] := by decide
  simp only [State.diesOf, State.partOfDie_of_four h, hone]

theorem State.die_settleOps_waiting {s : State} {k : Nat} {r : OpRec} (hdie : s.die k = [r]) (hphase : r.phase = 0) :
    (s.settleOps k).die k = [r] := by
  have hstay : s.opGone r = false := by simp [State.opGone, hphase]
  have hwaits : s.opPhase r = r.phase := by simp [State.opPhase, hphase]
  rw [State.settleOps, State.die_setDie_same, hdie]
  simp [hstay, hwaits]

theorem State.core_settleOps (s : State) (k j : Nat) : (s.settleOps k).core j = s.core j := rfl

/-- On a die of its own partition, the only operation opens once no earlier one is still queued (R15). -/
theorem State.mayOpen_of_only {s : State} {k : Fin 4} {r : OpRec} (hmode : s.partMode = 2) (hdie : s.die k.val = [r])
    (hphase : r.phase = 0) (hfirst : ∀ d ∈ (s.core (1 + k.val)).inq, d.judged = false → r.desc.op ≤ d.op) :
    s.mayOpen k.val r = true := by
  simp only [State.mayOpen, State.partOfDie_of_four hmode, State.diesOf_of_four hmode, List.flatMap_cons, List.flatMap_nil,
    List.all_cons, List.all_nil, hdie]
  simpa [hphase] using hfirst

/-- The Ridges of die `k` with an array in the list. -/
def dealtRidges (l : List (Nat × Nat)) (k : Nat) : List Nat :=
  ((List.range 16).map fun i => 16 * k + i).filter fun m => arraysOf l m != 0

theorem nodup_dealtRidges (l : List (Nat × Nat)) (k : Nat) : (dealtRidges l k).Nodup :=
  List.Pairwise.filter _ (List.Pairwise.map _ (fun _ _ hne heq => hne (Nat.add_left_cancel heq)) List.nodup_range)

/-- An operation once it is open: it owes its shares, and its arrays have their tiles to do. -/
def OpRec.opened (r : OpRec) (tally : Nat) (l : List (Nat × Nat)) (mine : List Nat) : OpRec :=
  { r with phase := 1, shareTally := tally, owing := mine
           due := mine.foldl (fun m n => Table.set (fun _ => 0) m n (tilesDealt l (odTiles r.desc.words) n)) [] }

/-- The descriptor of the share of Ridge `m`. -/
def OpRec.share (r : OpRec) (tally : Nat) (l : List (Nat × Nat)) (m : Nat) : Desc :=
  { words := shareWords r.desc.words tally l m, ctx := r.desc.ctx, src := r.desc.src, op := r.desc.op }

theorem OpRec.due_opened (r : OpRec) (tally : Nat) (l : List (Nat × Nat)) {mine : List Nat} (hn : mine.Nodup) {m : Nat}
    (hm : m ∈ mine) : Table.get (fun _ => 0) (r.opened tally l mine).due m = tilesDealt l (odTiles r.desc.words) m := by
  have hkeys : (mine.map fun n => (n, tilesDealt l (odTiles r.desc.words) n)).map Prod.fst = mine :=
    List.map_map.trans (List.map_id _)
  have hget := Table.get_foldl_set_mem (fun _ => 0) (fun _ => false)
    (cs := mine.map fun n => (n, tilesDealt l (odTiles r.desc.words) n)) [] (hkeys.symm ▸ hn)
    (List.mem_map.mpr ⟨m, hm, rfl⟩) rfl
  simpa only [OpRec.opened, List.foldl_map, Bool.false_eq_true, if_false] using hget

/-- The state `u` with the deal of `r` on die `k` recorded, as `s` dealt it (R262). -/
def State.dealRecorded (s u : State) (k : Nat) (r : OpRec) : State :=
  let first := s.dealList k
  let l := s.dealFinal first (odTiles r.desc.words)
  (((u.recordDeal k first l (odTiles r.desc.words)).setReg (.die k) 0x100 (w32 (odTally r.desc.words * 65536))).event
    (.die k) 0x03 1).event (.die k) 0x05 (s.condRemoved k first l).toNat

theorem State.recordDeal_keeps {β : Type} (g : State → β) (hreg : ∀ t p o v, g (State.setReg t p o v) = g t)
    (hridge : ∀ t n r, g (State.setRidge t n r) = g t) (s : State) (k : Nat) (first fin : List (Nat × Nat)) (t : Nat) :
    g (s.recordDeal k first fin t) = g s := by
  rw [State.recordDeal, foldl_keeps g (fun t n => hridge t n _), hreg, hreg, hreg]

theorem State.dealRecorded_keeps {β : Type} (g : State → β) (hreg : ∀ t p o v, g (State.setReg t p o v) = g t)
    (hridge : ∀ t n r, g (State.setRidge t n r) = g t) (hevent : ∀ t p c n, g (State.event t p c n) = g t)
    (s u : State) (k : Nat) (r : OpRec) : g (s.dealRecorded u k r) = g u := by
  rw [State.dealRecorded, hevent, hevent, hreg, State.recordDeal_keeps g hreg hridge]

theorem State.core_dealRecorded (s u : State) (k : Nat) (r : OpRec) (j : Nat) : (s.dealRecorded u k r).core j = u.core j :=
  State.dealRecorded_keeps (State.core · j) (by simp) (by simp) (by simp) s u k r

theorem State.die_dealRecorded (s u : State) (k : Nat) (r : OpRec) (j : Nat) : (s.dealRecorded u k r).die j = u.die j :=
  State.dealRecorded_keeps (State.die · j) (by simp) (by simp) (by simp) s u k r

theorem State.dealRecorded_tallies (s u : State) (k : Nat) (r : OpRec) : (s.dealRecorded u k r).tallies = u.tallies :=
  State.dealRecorded_keeps State.tallies (by simp) (by simp) (by simp) s u k r

theorem State.dealRecorded_mem (s u : State) (k : Nat) (r : OpRec) : (s.dealRecorded u k r).mem = u.mem :=
  State.dealRecorded_keeps State.mem (by simp) (by simp) (by simp) s u k r

theorem State.core_foldl_deliver_ne (f : Nat → Desc) {j : Nat} (l : List Nat) (h : ∀ m ∈ l, j ≠ 5 + m) (s : State) :
    (l.foldl (fun a m => a.deliver (5 + m) (f m)) s).core j = s.core j := by
  induction l generalizing s with
  | nil => rfl
  | cons m l ih =>
    rw [List.foldl_cons, ih fun i hi => h i (List.mem_cons_of_mem _ hi), State.core_deliver_ne _ (h m List.mem_cons_self)]

theorem State.inq_foldl_deliver_mem (f : Nat → Desc) {l : List Nat} (hn : l.Nodup) {m : Nat} (hm : m ∈ l) (s : State) :
    ((l.foldl (fun a m => a.deliver (5 + m) (f m)) s).core (5 + m)).inq = (s.core (5 + m)).inq ++ [f m] := by
  induction l generalizing s with
  | nil => cases hm
  | cons i l ih =>
    obtain ⟨hi, hl⟩ := List.nodup_cons.mp hn
    rw [List.foldl_cons]
    rcases List.mem_cons.mp hm with rfl | hm
    · have hother : ∀ j ∈ l, 5 + m ≠ 5 + j := fun j hj heq => hi ((show m = j by omega) ▸ hj)
      rw [State.core_foldl_deliver_ne f l hother, State.core_deliver_same]
    · have hne : 5 + m ≠ 5 + i := fun heq => hi ((show m = i by omega) ▸ hm)
      rw [ih hl hm, State.core_deliver_ne _ hne]

theorem State.foldl_deliver_keeps {β : Type} (g : State → β) (hcore : ∀ t j k, g (State.setCore t j k) = g t) (f : Nat → Desc)
    (l : List Nat) (s : State) : g (l.foldl (fun a m => a.deliver (5 + m) (f m)) s) = g s :=
  foldl_keeps g (fun t _ => hcore t _ _) l s

/-- OPERATION_BEGIN of the only operation of a die that is a partition, with a Ridge to deal to. -/
theorem exec_operationBegin_deals {s : State} {k : Fin 4} (n : Fin 4096) {r : OpRec} {l : List (Nat × Nat)} {mine : List Nat}
    (hmode : s.partMode = 2) (hdie : s.die k.val = [r]) (hphase : r.phase = 0)
    (hfirst : ∀ d ∈ (s.core (1 + k.val)).inq, d.judged = false → r.desc.op ≤ d.op)
    (hl : l = s.dealFinal (s.dealList k.val) (odTiles r.desc.words)) (hmine : mine = dealtRidges l k.val) (hne : mine ≠ [])
    (hroom : ∀ m ∈ mine, (s.core (5 + m)).inq.length < 16) :
    exec (.operationBegin k n) s = .next ((mine.foldl (fun a m => a.deliver (5 + m) (r.share n.val l m))
      ((s.dealRecorded (s.settleOps k.val) k.val r).setDie k.val [r.opened n.val l mine])).event (.die k.val) 0x04 mine.length) := by
  have hsettled := State.die_settleOps_waiting hdie hphase
  have hrecorded : (s.dealRecorded (s.settleOps k.val) k.val r).die k.val = [r] := (s.die_dealRecorded _ _ r _).trans hsettled
  have hopens : (s.settleOps k.val).mayOpen k.val r = true := State.mayOpen_of_only hmode hsettled hphase hfirst
  have hplaces : (mine.any fun m => decide (16 ≤ ((s.settleOps k.val).core (5 + m)).inq.length)) = false :=
    List.any_eq_false.mpr fun m hm => by
      rw [State.core_settleOps]
      simpa using hroom m hm
  rw [hl] at hmine
  subst hl
  change execOperationBegin k n s = _
  simp only [execOperationBegin, State.partOfDie_of_four hmode, State.diesOf_of_four hmode, List.foldl_cons, List.foldl_nil,
    hsettled]
  rw [List.find?_cons_of_pos (by simp [hphase])]
  simp only [State.dealRecorded] at hrecorded ⊢
  rw [← dealtRidges, ← hmine, if_neg (by simp [hopens, hplaces]), if_neg (by simpa using hne), hrecorded,
    List.map_singleton, beq_self_eq_true, if_pos rfl]
  rfl

/-! ### The end of a share (R16) -/

theorem State.opTally_tallies (s : State) (t c : Nat) : (s.opTally t c).tallies =
    if s.tallyPermitted t c then Table.set (fun _ => 0) s.tallies t (s.tally t + 1) else s.tallies := by
  cases h : s.tallyPermitted t c with
  | true => rw [State.opTally_permitted s h, State.addTally, State.event_tallies]; rfl
  | false =>
    rw [State.opTally_denied s h, State.setErr_tallies]
    split <;> rfl

/-- What an increment does to the tallies follows from the tallies and their owners (R255). -/
theorem State.opTally_tallies_congr {s u : State} (t c : Nat) (htallies : u.tallies = s.tallies)
    (howner : u.tallyPermitted t c = s.tallyPermitted t c) : (u.opTally t c).tallies = (s.opTally t c).tallies := by
  rw [State.opTally_tallies, State.opTally_tallies, howner, State.tally, State.tally, htallies]

/-- An increment changes no register but those of the TLY page (R255). -/
theorem State.reg_opTally_ne (s : State) (t c : Nat) {p : Page} {j : Nat} (h : p.base + j < Page.tly.base) :
    (s.opTally t c).reg p j = s.reg p j := by
  have hother : ∀ k, p.base + j ≠ Page.tly.base + k := fun k => by omega
  cases hperm : s.tallyPermitted t c with
  | true =>
    rw [State.opTally_permitted s hperm, State.addTally, State.reg_event_ne _ _ _ fun k _ _ => hother k, State.reg_setTally]
  | false =>
    rw [State.opTally_denied s hperm, State.reg_setErr_ne _ 0 (hother _) (hother _)]
    split
    · rfl
    · exact State.reg_setReg_ne s (hother _) _

/-- An operation once Ridge `n` has ended its share. -/
def OpRec.paid (r : OpRec) (n : Nat) : OpRec := { r with owing := NatSet.del n r.owing }

/-- The only operation `r` of a die when Ridge `n` ends its share: the share tally, and what is owed (R16). -/
def State.shareEnded (s : State) (n : Nat) (r : OpRec) : State :=
  (s.opTally r.shareTally r.desc.ctx).setDie (n / 16) [r.paid n]

theorem State.die_shareEnded (s : State) (n : Nat) (r : OpRec) : (s.shareEnded n r).die (n / 16) = [r.paid n] :=
  State.die_setDie_same _ _ _

theorem exec_shareComplete_owed {s : State} {n : Fin 64} {r : OpRec} (hdie : s.die (n.val / 16) = [r]) (hphase : r.phase ≠ 0)
    (howes : r.owing.has n.val = true) (htaken : s.shareWaits n.val r = false) (hdone : s.opWork n.val r.desc.op = false) :
    exec (.shareComplete n) s = .next (if (r.paid n.val).owing.isEmpty
      then (s.shareEnded n.val r).completeOp (n.val / 16) (r.paid n.val) else s.shareEnded n.val r) := by
  change execShareComplete n s = _
  simp only [execShareComplete, hdie]
  rw [List.find?_cons_of_pos (by simp [hphase, howes])]
  simp only [htaken, hdone, List.map_singleton, beq_self_eq_true, if_true]
  rfl

/-- The last share of the only operation of a die (R16, R252). -/
theorem State.completeOp_spec {s : State} {k : Nat} {r : OpRec} (hk : k < 4) (hdie : s.die k = [r]) (ha : r.abandoned = false) :
    let t := s.completeOp k r
    t.die k = [] ∧ t.reg (.die k) 0x110 = satAdd32 (s.reg (.die k) 0x110) 1 ∧
      t.tallies = (s.opTally (odTally r.desc.words) r.desc.ctx).tallies := by
  have hbase : (Page.die k).base + 0x110 < Page.tly.base := by simp only [Page.base]; omega
  have heq : s.completeOp k r =
      ((s.closeOp k r).addSat (.die k) 0x110 1).opTally (odTally r.desc.words) r.desc.ctx := if_neg (by simp [ha])
  intro t
  refine ⟨?_, ?_, ?_⟩
  · rw [show t = _ from heq, State.die_opTally, State.die_addSat, State.closeOp, State.die_setCore, State.die_setDie_same,
      hdie, List.erase_cons_head]
  · rw [show t = _ from heq, State.reg_opTally_ne _ _ _ hbase, State.reg_addSat]
    rfl
  · rw [show t = _ from heq]
    refine State.opTally_tallies_congr _ _ rfl ?_
    rw [State.tallyPermitted_eq, State.tallyPermitted_eq, State.field, State.field, State.reg_addSat_ne _ _ (by omega)]
    rfl

/-! ### The obligation -/

/-- Settles O29, clause by clause: acceptance and refusal, the opening of an operation, the cover of a deal by its shares, the end
of a share. -/
theorem operationsAreShared : Obligations.OperationsAreShared := by
  unfold Obligations.OperationsAreShared
  refine ⟨fun s k d rest hq hj => ⟨fun hok => ?_, fun hbad => ?_⟩, ?_, fun s p tiles d tally => ?_, ?_⟩
  · refine ⟨_, exec_operationAccept_taken hq hj hok, ?_, State.die_setDie_same _ _ _, rfl⟩
    rw [State.core_setDie, State.core_setCore_same]
  · exact exec_operationAccept_refused hq hj (odOk_of_malformed hbad)
  · intro s k n r l mine hmode hdie hphase hfirst hl hmine hne hroom
    have hcore : ∀ j, ((s.dealRecorded (s.settleOps k.val) k.val r).setDie k.val [r.opened n.val l mine]).core j = s.core j :=
      fun j => by rw [State.core_setDie, State.core_dealRecorded, State.core_settleOps]
    have hnodup : mine.Nodup := hmine ▸ nodup_dealtRidges l k.val
    refine ⟨_, (r.opened n.val l mine).due,
      exec_operationBegin_deals n hmode hdie hphase hfirst hl hmine hne hroom, ?_, fun m hm => r.due_opened n.val l hnodup hm,
      fun m hm => ?_, fun m hm => ?_, ?_, ?_⟩
    · rw [State.die_event, State.foldl_deliver_keeps (State.die · k.val) (fun _ _ _ => rfl), State.die_setDie_same]
      rfl
    · rw [State.core_event, State.inq_foldl_deliver_mem _ hnodup hm, hcore]
      rfl
    · have hother : ∀ j ∈ mine, 5 + m ≠ 5 + j := fun j hj heq => hm ((show m = j by omega) ▸ hj)
      rw [State.core_event, State.core_foldl_deliver_ne _ _ hother, hcore]
    · rw [State.event_tallies, State.foldl_deliver_keeps State.tallies (fun _ _ _ => rfl), State.setDie_tallies,
        State.dealRecorded_tallies]
      rfl
    · rw [State.event_mem, State.foldl_deliver_keeps State.mem (fun _ _ _ => rfl), State.setDie_mem, State.dealRecorded_mem]
      rfl
  · intro l pos narr i hi
    have hlt : l[i].1 < 64 := State.fst_lt_of_mem_dealFinal (List.getElem_mem hi)
    obtain ⟨hlo, hhi, hnum⟩ := (s.share_iff p tiles d tally hlt hi).mpr rfl
    exact ⟨l[i].1, hlt, ⟨hlo, hhi, hnum⟩, fun m hm hm0 hmlo hmhi =>
      ((s.share_iff p tiles d tally hm hi).mp ⟨hmlo, hmhi, hm0⟩).symm⟩
  · intro s n r hdie hphase howes htaken hdone ha
    have hexec := exec_shareComplete_owed hdie hphase howes htaken hdone
    refine ⟨fun hleft => ?_, fun hlast => ?_⟩
    · have hopen : ¬(r.paid n.val).owing.isEmpty = true := by simpa [OpRec.paid] using hleft
      rw [if_neg hopen] at hexec
      exact ⟨_, hexec, s.die_shareEnded n.val r, rfl⟩
    · have hover : (r.paid n.val).owing.isEmpty = true := by simpa [OpRec.paid] using hlast
      have hk : n.val / 16 < 4 := by omega
      rw [if_pos hover] at hexec
      obtain ⟨hgone, hcount, htallies⟩ := State.completeOp_spec hk (s.die_shareEnded n.val r) ha
      refine ⟨_, hexec, hgone, hcount.trans ?_, htallies.trans (State.opTally_tallies_congr _ _ rfl rfl)⟩
      have hbase : (Page.die (n.val / 16)).base + 0x110 < Page.tly.base := by simp only [Page.base]; omega
      rw [State.shareEnded, State.reg_setDie, State.reg_opTally_ne _ _ _ hbase]

end Sys2Proof.Machine
end

section
/-! PROOF. What the acts of a DMA channel leave alone: registers beside the event counters, the fault or the refusal of an op, the
translation of an address (R35, R180, R232). -/
namespace Sys2Proof.Machine

/-! ### Registers beside the event counters (R35) -/

/-- The counters stand at the same offsets of every page, so that no other register of any page changes. -/
theorem State.reg_event_off (s : State) (p q : Page) (code n : Nat) {j : Nat} (hj : j < 0x030 ∨ 0x040 ≤ j)
    (hpage : j < 0x1000) : (s.event p code n).reg q j = s.reg q j := by
  refine State.reg_event_ne s code n fun k hlo hhi heq => ?_
  have hp := p.base_mod
  have hq := q.base_mod
  omega

/-! ### The fault or the refusal of an op (R232, R250) -/

/-- A read that sees neither the cores and windows, nor the contexts at fault, nor the errors of their pages. -/
structure State.FaultBlind {β : Type} (g : State → β) : Prop where
  core : ∀ t c k, g (State.setCore t c k) = g t
  win : ∀ t w k, g (State.setWin t w k) = g t
  faulted : ∀ (t : State) f, g { t with faulted := f } = g t
  coreErr : ∀ t c, g (State.setErr t (.ril c) 4) = g t
  winErr : ∀ t, g (State.setErr t .cwn 0) = g t

section
variable {β : Type} {g : State → β} (h : State.FaultBlind g)
include h

theorem State.FaultBlind.raiseAsync (s : State) (c : Nat) (cause : W64) : g (s.raiseAsync c cause) = g s := by
  simp only [State.raiseAsync]
  split
  · exact h.core _ _ _
  · exact h.coreErr _ _

theorem State.FaultBlind.winFault (s : State) (w reason : Nat) (seq : W32) : g (s.winFault w reason seq) = g s := by
  simp only [State.winFault]
  split
  · rfl
  · exact (h.winErr _).trans (h.win _ _ _)

theorem State.FaultBlind.opFault (s : State) (d : Desc) (code reason opc : Nat) : g (s.opFault d code reason opc) = g s := by
  simp only [State.opFault]
  split
  · exact (h.raiseAsync _ _ _).trans (h.faulted _ _)
  · exact (h.winFault _ _ _ _).trans (h.faulted _ _)
  · exact h.faulted _ _

theorem State.FaultBlind.refuseDesc (s : State) (d : Desc) (reason opc : Nat) : g (s.refuseDesc d reason opc) = g s := by
  simp only [State.refuseDesc]
  split
  · exact (h.raiseAsync _ _ _).trans (h.faulted _ _)
  · exact (h.winFault _ _ _ _).trans (h.faulted _ _)
  · exact h.faulted _ _

end

theorem State.faultBlind_mem : State.FaultBlind State.mem :=
  ⟨fun _ _ _ => rfl, fun _ _ _ => rfl, fun _ _ => rfl, fun _ _ => State.setErr_mem _ _ _, fun _ => State.setErr_mem _ _ _⟩

theorem State.faultBlind_tallies : State.FaultBlind State.tallies :=
  ⟨fun _ _ _ => rfl, fun _ _ _ => rfl, fun _ _ => rfl, fun _ _ => State.setErr_tallies _ _ _,
    fun _ => State.setErr_tallies _ _ _⟩

theorem State.faultBlind_dma (c : Nat) : State.FaultBlind (State.dma · c) :=
  ⟨fun _ _ _ => rfl, fun _ _ _ => rfl, fun _ _ => rfl, fun _ _ => State.dma_setErr _ _ _ _, fun _ => State.dma_setErr _ _ _ _⟩

/-- The pages of the windows and the cores lie above those of the DMA channels (R32). -/
theorem State.faultBlind_reg {p : Page} {j : Nat} (hlow : p.base + j < Page.cwn.base) : State.FaultBlind (State.reg · p j) := by
  have hcwn : Page.cwn.base = 0x808000 := rfl
  refine ⟨fun _ _ _ => rfl, fun _ _ _ => rfl, fun _ _ => rfl, fun _ c => ?_, fun _ => ?_⟩
  · have hril : (Page.ril c).base = 0xC00000 + c * 0x1000 := rfl
    exact State.reg_setErr_ne _ _ (by omega) (by omega)
  · exact State.reg_setErr_ne _ _ (by omega) (by omega)

theorem Page.dma_low (c : Fin 32) {j : Nat} (hj : j < 0x1000) : (Page.dma c.val).base + j < Page.cwn.base := by
  simp only [Page.base]
  omega

/-! ### The translation of an address (R179, R180) -/

/-- The remote windows are eight (R179). -/
theorem State.translate_remote_lt {s : State} {die copy c a w : Nat} {k : Acc}
    (h : s.translate die copy c k a = .ok (.remote w)) : w < 8 := by
  have htgt : pmFld (s.pmapEntry copy (pageOf a)) 43 40 < 16 := bits_lt _ 43 40
  unfold State.translate State.translateEntry at h
  dsimp only at h
  repeat' split at h
  all_goals cases h
  omega

section
variable (s : State) (code n : Nat)

/-- An event of the Page Map changes nothing that a translation sees. -/
theorem State.translate_event (die copy c : Nat) (k : Acc) (a : Nat) :
    (s.event .pmap code n).translate die copy c k a = s.translate die copy c k a := by
  have hreg : ∀ p, (s.event .pmap code n).reg p 0x100 = s.reg p 0x100 := fun p =>
    State.reg_event_off s .pmap p code n (by decide) (by decide)
  have hmode : (s.event .pmap code n).partMode = s.partMode := congrArg (fld · 1 0) (hreg .dev)
  have hdie : (s.event .pmap code n).partOfDie = s.partOfDie := funext fun _ => by
    unfold State.partOfDie
    rw [hmode]
  have hctx : (s.event .pmap code n).partOfCtx = s.partOfCtx := funext fun _ => by
    unfold State.partOfCtx State.partCount
    rw [hmode]
  have hslot : (s.event .pmap code n).mySlot = s.mySlot := congrArg (fld · 2 0) (hreg .stp)
  have hwin : (s.event .pmap code n).winFrames = s.winFrames := congrArg (fun x => min (fld x 9 0) 512) (hreg .pmap)
  have hview : ∀ e, (s.event .pmap code n).viewPermits c e k = s.viewPermits c e k := fun e => by
    unfold State.viewPermits
    rw [State.reg_event_ne s code n fun _ _ _ => by omega]
  unfold State.translate State.translateEntry State.routeDown State.pmapEntry
  rw [hdie, hctx, hslot, hwin, hview, State.event_mem]

theorem State.siteOf_event (a : Nat) {x : Except Nat Place} (hx : ∀ w, x = .ok (.remote w) → w < 8) :
    (s.event .pmap code n).siteOf a x = s.siteOf a x := by
  have hreg : ∀ p {j}, 0x040 ≤ j → j < 0x1000 → (s.event .pmap code n).reg p j = s.reg p j := fun p _ hlo hhi =>
    State.reg_event_off s .pmap p code n (.inr hlo) hhi
  match x with
  | .error _ => rfl
  | .ok (.local _ _) => rfl
  | .ok (.board slot) =>
    unfold State.siteOf State.myGroup State.myHalf State.strap
    rw [hreg .stp (by decide) (by decide)]
  | .ok (.remote w) =>
    have hw := hx w rfl
    unfold State.siteOf State.field
    dsimp only
    rw [hreg (.prt2 0) (by omega) (by omega), hreg (.prt2 0) (by omega) (by omega)]

theorem State.site_event (die copy c : Nat) (k : Acc) (a : Nat) :
    (s.event .pmap code n).site die copy c k a = s.site die copy c k a := by
  rw [State.site, State.site, State.translate_event, State.siteOf_event _ _ _ _ fun w hw => State.translate_remote_lt hw]

end

/-- The DMA engines stand on E0, beside Page Map copy 0 (R9): the copy can always be reached. -/
theorem State.lookup_beside (s : State) (a : Nat) : s.lookup 4 0 a .clean = s.event .pmap 0x02 1 := rfl

theorem State.recordXlate_keeps {β : Type} (g : State → β) (hreg : ∀ t p o v, g (State.setReg t p o v) = g t)
    (herr : ∀ t p i, g (State.setErr t p i) = g t) (s : State) (reason req c inst a : Nat) :
    g (s.recordXlate reason req c inst a) = g s := by
  simp only [State.recordXlate, herr]
  split
  · rfl
  · simp only [hreg]

end Sys2Proof.Machine
end

section
/-! PROOF. The accesses of a DMA channel: how many bytes each moves (R269, R270, R274), what it leaves alone, what memory holds
after a write (R203, R278, R279). -/
namespace Sys2Proof.Machine

/-! ### Acts of a channel -/

/-- An act that changes the channels, registers, memory, what is sent and the draws, and nothing else. -/
def State.movesOnly (s t : State) : Prop :=
  t = { s with dmas := t.dmas, io := t.io, mem := t.mem, out := t.out, free := t.free }

section
variable {s t : State} (h : s.movesOnly t)

theorem State.movesOnly_refl (s : State) : s.movesOnly s := rfl

include h

theorem State.movesOnly.trans {u : State} (hu : t.movesOnly u) : s.movesOnly u :=
  Eq.trans hu (congrArg
    (fun v : State => { v with dmas := u.dmas, io := u.io, mem := u.mem, out := u.out, free := u.free }) h)

theorem State.movesOnly.setDma (c : Nat) (k : DmaCh) : s.movesOnly (t.setDma c k) := h.trans rfl
theorem State.movesOnly.setReg (p : Page) (o : Nat) (v : W32) : s.movesOnly (t.setReg p o v) := h.trans rfl
theorem State.movesOnly.fresh : s.movesOnly t.fresh := h.trans rfl
theorem State.movesOnly.emit (o : Out) : s.movesOnly (t.emit o) := h.trans rfl

theorem State.movesOnly.io (x : Bar0) : s.movesOnly { t with io := x } := h.trans rfl

theorem State.movesOnly.event (p : Page) (code n : Nat) : s.movesOnly (t.event p code n) := by
  rw [t.event_eq_io]
  exact h.io _

theorem State.movesOnly.writes {u : State} (hu : t.WritesMem u) : s.movesOnly u := by
  rw [hu.only_mem]
  exact h.trans rfl

/-- An act that wrote no memory, sent nothing and drew nothing. -/
theorem State.movesOnly.dmas_io (hmem : t.mem = s.mem) (hout : t.out = s.out) (hfree : t.free = s.free) :
    t = { s with dmas := t.dmas, io := t.io } := by
  have ht : t = _ := h
  rw [hmem, hout, hfree] at ht
  exact ht

theorem State.movesOnly.dmas_io_free (hmem : t.mem = s.mem) (hout : t.out = s.out) :
    t = { s with dmas := t.dmas, io := t.io, free := t.free } := by
  have ht : t = _ := h
  rw [hmem, hout] at ht
  exact ht

theorem State.movesOnly.dmas_io_mem (hout : t.out = s.out) (hfree : t.free = s.free) :
    t = { s with dmas := t.dmas, io := t.io, mem := t.mem } := by
  have ht : t = _ := h
  rw [hout, hfree] at ht
  exact ht

theorem State.movesOnly.dmas_io_out_free (hmem : t.mem = s.mem) :
    t = { s with dmas := t.dmas, io := t.io, out := t.out, free := t.free } := by
  have ht : t = _ := h
  rw [hmem] at ht
  exact ht

end

/-! ### The running descriptor -/

section
variable {k : DmaCh} {d : Desc} {rest : List Desc} (h : k.acc = d :: rest)
include h

theorem DmaCh.words_of_acc : k.words = d.words := by rw [DmaCh.words, h]; rfl
theorem DmaCh.tag_of_acc : k.tag = d.ctx := by rw [DmaCh.tag, h]; rfl
theorem DmaCh.op_of_acc : k.op = d.op := by rw [DmaCh.op, h]; rfl

end

theorem ddSw_pos (d : List W32) : 0 < ddSw d := Nat.two_pow_pos _
theorem ddDw_pos (d : List W32) : 0 < ddDw d := Nat.two_pow_pos _

/-! ### The bytes of one access (R270) -/

theorem runLen_le (addr : Nat → Nat) (flat : Bool) (p m : Nat) : runLen addr flat p m ≤ m :=
  Nat.le_trans (List.takeWhile_sublist _).length_le (Nat.le_of_eq List.length_range)

/-- The bytes of one access lie in one granule. -/
theorem granule_of_lt_runLen {addr : Nat → Nat} {flat : Bool} {p m i : Nat} (h : i < runLen addr flat p m) :
    addr (p + i) / 64 = addr p / 64 := by
  rw [runLen, List.takeWhile_eq_take_findIdx_not, List.length_take] at h
  have hholds := List.not_of_lt_findIdx (Nat.lt_of_lt_of_le h (Nat.min_le_left _ _))
  simp only [List.getElem_range, Bool.not_eq_false', Bool.and_eq_true, beq_iff_eq] at hholds
  exact hholds.1

theorem runLen_pos (addr : Nat → Nat) (flat : Bool) (p : Nat) {m : Nat} (hm : 0 < m) : 0 < runLen addr flat p m := by
  obtain ⟨m, rfl⟩ := Nat.exists_eq_add_of_lt hm
  rw [runLen, Nat.zero_add, List.range_succ_eq_map, List.takeWhile_cons_of_pos (by simp)]
  exact Nat.succ_pos _

theorem trimRun_pos (addr : Nat → Nat) (w p len : Nat) {n : Nat} (hn : 0 < n) : 0 < trimRun addr w p n len := by
  unfold trimRun
  split
  · exact hn
  · omega

/-- What one access must read together is at least a byte. -/
theorem DmaCh.headLen_pos {k : DmaCh} (h : k.rd < ddLen k.words) : 0 < k.headLen := by
  have hw := Nat.mod_lt k.rd (ddSw_pos k.words)
  exact runLen_pos _ _ _ (by omega)

theorem State.dmaCanRead_iff (s : State) (c : Nat) : s.dmaCanRead c = true ↔ (s.dma c).st = .active ∧ (s.dma c).rdOut = none ∧
    (s.dma c).rd < ddLen (s.dma c).words ∧ (s.dma c).headLen ≤ s.dmaRoom c := by
  simp [State.dmaCanRead, and_assoc]

theorem State.dmaCanWrite_iff (s : State) (c : Nat) : s.dmaCanWrite c = true ↔ (s.dma c).wrOut = none ∧
    (s.dma c).writable ≠ 0 ∧ (s.dma c).wstop = false ∧ (s.dma c).st ≠ .idle := by
  simp [State.dmaCanWrite, and_assoc]

theorem State.dmaReadLen_pos {s : State} {c : Nat} (h : s.dmaCanRead c = true) (flat : Bool) : 0 < s.dmaReadLen c flat := by
  obtain ⟨-, -, hrd, hroom⟩ := (s.dmaCanRead_iff c).mp h
  have hhead := DmaCh.headLen_pos hrd
  exact trimRun_pos _ _ _ _ (runLen_pos _ _ _ (by omega))

theorem DmaCh.writable_le (k : DmaCh) : k.writable ≤ k.buf.length := by
  have hw := Nat.div_mul_le_self (k.wr + k.buf.length) (ddDw k.words)
  simp only [DmaCh.writable]
  split <;> omega

/-- Only bytes of the descriptor may be written. -/
theorem DmaCh.lt_len_of_writable {k : DmaCh} {i : Nat} (hi : i < k.writable) : k.wr + i < ddLen k.words := by
  have hw := Nat.div_mul_le_self (k.wr + k.buf.length) (ddDw k.words)
  simp only [DmaCh.writable] at hi
  split at hi <;> omega

/-- Elements that do not overlap: the place of a byte tells which byte of which element it is. -/
theorem eq_of_stride {w stride p q : Nat} (hw : 0 < w) (hfit : w ≤ stride)
    (h : p / w * stride + p % w = q / w * stride + q % w) : p = q := by
  have helem : ∀ x, (x / w * stride + x % w) / stride = x / w := fun x => by
    have hx := Nat.mod_lt x hw
    rw [Nat.add_comm, Nat.add_mul_div_right _ _ (by omega), Nat.div_eq_of_lt (by omega), Nat.zero_add]
  have hdiv : p / w = q / w := by rw [← helem p, h, helem q]
  have hmod : p % w = q % w := by rw [hdiv] at h; omega
  rw [← Nat.div_add_mod p w, hdiv, hmod, Nat.div_add_mod]

/-- Where the destination elements do not overlap (R271), each stream byte that may be written has its own address. -/
theorem DmaCh.dst_injective {k : DmaCh} (hfit : ddDw k.words ≤ ddDStride k.words ∨ ddLen k.words ≤ ddDw k.words) {i j : Nat}
    (hi : i < k.writable) (hj : j < k.writable) (h : ddDstAddr k.words (k.wr + i) = ddDstAddr k.words (k.wr + j)) : i = j := by
  have hil := k.lt_len_of_writable hi
  have hjl := k.lt_len_of_writable hj
  simp only [ddDstAddr] at h
  have heq : k.wr + i = k.wr + j := by
    rcases hfit with hfit | hfit
    · exact eq_of_stride (ddDw_pos k.words) hfit (by omega)
    · rw [Nat.div_eq_of_lt (by omega), Nat.div_eq_of_lt (by omega), Nat.mod_eq_of_lt (by omega), Nat.mod_eq_of_lt (by omega)] at h
      omega
  omega

/-! ### What an access meets -/

/-- An access to granule `g` that the Page Map entry and a good Basin line serve: the two are counted (R171, R213). -/
def State.granMet (s : State) (g : Nat) : State := (s.event .pmap 0x02 1).event (.bsn (g / 2 ^ 32)) 0x02 1

theorem State.granMet_eq_io (s : State) (g : Nat) : s.granMet g = { s with io := (s.granMet g).io } := by
  rw [State.granMet, State.event_eq_io, State.event_eq_io s]

@[simp] theorem State.granMet_mem (s : State) (g : Nat) : (s.granMet g).mem = s.mem := by rw [State.granMet_eq_io]
@[simp] theorem State.granMet_free (s : State) (g : Nat) : (s.granMet g).free = s.free := by rw [State.granMet_eq_io]
@[simp] theorem State.granMet_out (s : State) (g : Nat) : (s.granMet g).out = s.out := by rw [State.granMet_eq_io]
@[simp] theorem State.dma_granMet (s : State) (g c : Nat) : (s.granMet g).dma c = s.dma c := by rw [State.granMet_eq_io]; rfl

theorem State.movesOnly_granMet (s : State) (g : Nat) : s.movesOnly (s.granMet g) :=
  (s.movesOnly_refl.event _ _ _).event _ _ _

theorem State.granRead_hit (s : State) (hint g : Nat) : s.granRead hint g {} = s.event (.bsn (g / 2 ^ 32)) 0x02 1 := by
  simp [State.granRead, State.basinHit, State.basinLine]

theorem State.granWrite_hit (s : State) (hint g : Nat) : s.granWrite hint g {} = s.event (.bsn (g / 2 ^ 32)) 0x02 1 := by
  simp [State.granWrite, State.basinHit, State.basinLine]

theorem State.dmaRoom_event (s : State) (p : Page) (code n c : Nat) : (s.event p code n).dmaRoom c = s.dmaRoom c := by
  unfold State.dmaRoom State.field
  rw [State.dma_event, State.event_dmas, State.reg_event_off s p (.dma c) code n (by decide) (by decide)]

theorem State.dmaReadLen_event (s : State) (p : Page) (code n c : Nat) (flat : Bool) :
    (s.event p code n).dmaReadLen c flat = s.dmaReadLen c flat := by
  unfold State.dmaReadLen
  rw [State.dmaRoom_event, State.dma_event]

theorem State.hbmByte_congr {s t : State} (hmem : t.mem = s.mem) (hfree : t.free = s.free) (k : Nat) :
    t.hbmByte k = s.hbmByte k := by
  unfold State.hbmByte State.granFree State.granStale State.inSpill State.hbmDefault State.drawOf State.inSpill
  rw [hmem, hfree]

/-! ### Results that are still to be written (R16) -/

section
variable (s : State) (op : Nat) (place : Nat → Nat) (bs : List OutByte)

theorem State.length_asRead : (s.asRead op place bs).2.length = bs.length := by
  unfold State.asRead
  split <;> simp

theorem State.asRead_of_written (h : ∀ i < bs.length, s.unwritten op (place i) = false) : s.asRead op place bs = (s, bs) := by
  have hnone : ((List.range bs.length).any fun i => s.unwritten op (place i)) = false := by simpa using h
  rw [State.asRead, hnone]
  rfl

theorem State.asRead_fst : (s.asRead op place bs).1 = s ∨ (s.asRead op place bs).1 = s.fresh := by
  unfold State.asRead
  split
  · exact .inr rfl
  · exact .inl rfl

end

/-! ### The read engine (R270, R274, R278) -/

theorem State.dma_dmaTake (s : State) (c : Nat) (bs : List OutByte) : (s.dmaTake c bs).dma c =
    { s.dma c with rd := (s.dma c).rd + bs.length, buf := (s.dma c).buf ++ bs, rdOut := none, rtries := 0 } := by
  simp [State.dmaTake]

theorem State.movesOnly.dmaTake {s t : State} (h : s.movesOnly t) (c : Nat) (bs : List OutByte) : s.movesOnly (t.dmaTake c bs) :=
  (h.setDma c _).event _ _ _

/-- A channel none of whose blocks failed takes what it read (R42). -/
theorem State.dmaGot_of_sound {s : State} {c : Nat} (h : s.dmaAstray c = false) (bs : List OutByte) :
    s.dmaGot c bs = s.dmaTake c bs := by
  simp [State.dmaGot, State.dmaMoved, h]

/-- The bytes that a read of channel `c` finds in the granule of `key`, with their poison. -/
def State.dmaFound (s : State) (c key : Nat) : List OutByte :=
  (List.range (s.dmaReadLen c false)).map fun i =>
    (s.hbmByte (key / 64 * 64 + ddSrcAddr (s.dma c).words ((s.dma c).rd + i) % 64), s.granPoison (key / 64))

section
variable {s : State} {c : Fin 32} {d : Desc} {rest : List Desc} (hacc : (s.dma c.val).acc = d :: rest)
  (hcan : s.dmaCanRead c.val = true)
include hacc hcan

theorem exec_dmaReadAccess_host (h : HostData) (m : MemUse) (hsound : s.dmaAstray c.val = false)
    (hhost : ddSHost d.words = true) : exec (.dmaReadAccess c h m) s =
      .next (s.dmaTake c.val ((List.range (s.dmaReadLen c.val true)).map fun i => (h.bytes.getD i 0, h.ep))) := by
  change execDmaReadAccess c h m s = _
  simp only [execDmaReadAccess, DmaCh.words_of_acc hacc, hcan, hhost, if_true, Bool.not_true, Bool.false_eq_true, if_false,
    State.dmaGot_of_sound hsound]

theorem exec_dmaReadAccess_local (h : HostData) (hhost : ddSHost d.words = false) (hhint : ddSHint d.words ≠ 3) {key : Nat}
    (hsite : s.site 4 0 d.ctx .rd (ddSrcAddr d.words (s.dma c.val).rd) = .ok (.here key)) :
    exec (.dmaReadAccess c h {}) s =
      let x := (s.granMet (key / 64)).asRead d.op (fun i => ddSrcAddr d.words ((s.dma c.val).rd + i)) (s.dmaFound c.val key)
      .next (x.1.dmaGot c.val x.2) := by
  have hfound : s.dmaFound c.val key = (List.range (s.dmaReadLen c.val false)).map fun i =>
      ((s.granMet (key / 64)).hbmByte (key / 64 * 64 + ddSrcAddr d.words ((s.dma c.val).rd + i) % 64),
        (s.granMet (key / 64)).granPoison (key / 64)) := by
    rw [State.dmaFound, DmaCh.words_of_acc hacc, State.granMet_eq_io]
    rfl
  rw [hfound]
  change execDmaReadAccess c h {} s = _
  simp only [execDmaReadAccess, DmaCh.words_of_acc hacc, DmaCh.tag_of_acc hacc, DmaCh.op_of_acc hacc, hcan, hhost,
    Bool.not_true, Bool.false_eq_true, if_false, List.headD_nil, State.lookup_beside, State.site_event, hsite,
    State.granRead_hit, State.dmaReadLen_event, if_neg hhint]
  rfl

end

@[simp] theorem State.dmaTake_mem (s : State) (c : Nat) (bs : List OutByte) : (s.dmaTake c bs).mem = s.mem :=
  State.event_mem _ _ _ _
@[simp] theorem State.dmaTake_out (s : State) (c : Nat) (bs : List OutByte) : (s.dmaTake c bs).out = s.out :=
  State.event_out _ _ _ _
@[simp] theorem State.dmaTake_free (s : State) (c : Nat) (bs : List OutByte) : (s.dmaTake c bs).free = s.free :=
  State.event_free _ _ _ _

/-- Before the read engine takes what it found, only counters and draws have changed. -/
theorem State.granMet_read {s u : State} {g : Nat} (hu : u = s.granMet g ∨ u = (s.granMet g).fresh) (c : Nat) :
    s.movesOnly u ∧ u.dma c = s.dma c ∧ u.mem = s.mem ∧ u.out = s.out ∧ u.dmaAstray c = s.dmaAstray c := by
  have hmet := s.movesOnly_granMet g
  rw [State.granMet_eq_io] at hmet hu
  rcases hu with rfl | rfl
  · exact ⟨hmet, rfl, rfl, rfl, rfl⟩
  · exact ⟨hmet.fresh, rfl, rfl, rfl, rfl⟩

section
variable {s : State} {c : Fin 32} {d : Desc} {rest : List Desc} (hacc : (s.dma c.val).acc = d :: rest)
  (hcan : s.dmaCanRead c.val = true) (hsound : s.dmaAstray c.val = false)
include hacc hcan hsound

theorem exec_dmaReadAccess_host_spec (h : HostData) (m : MemUse) (hhost : ddSHost d.words = true) :
    let n := s.dmaReadLen c.val true
    0 < n ∧ ∃ t, exec (.dmaReadAccess c h m) s = .next t ∧ (t.dma c.val).rd = (s.dma c.val).rd + n ∧
      (t.dma c.val).buf = (s.dma c.val).buf ++ (List.range n).map (fun i => (h.bytes.getD i 0, h.ep)) ∧
      t = { s with dmas := t.dmas, io := t.io } := by
  refine ⟨State.dmaReadLen_pos hcan true, _, exec_dmaReadAccess_host hacc hcan h m hsound hhost, ?_, ?_,
    (s.movesOnly_refl.dmaTake c.val _).dmas_io (s.dmaTake_mem _ _) (s.dmaTake_out _ _) (s.dmaTake_free _ _)⟩
  · rw [State.dma_dmaTake, List.length_map, List.length_range]
  · rw [State.dma_dmaTake]

theorem exec_dmaReadAccess_local_spec (h : HostData) (hhost : ddSHost d.words = false) (hhint : ddSHint d.words ≠ 3) {key : Nat}
    (hsite : s.site 4 0 d.ctx .rd (ddSrcAddr d.words (s.dma c.val).rd) = .ok (.here key)) :
    let n := s.dmaReadLen c.val false
    0 < n ∧ ∃ t, exec (.dmaReadAccess c h {}) s = .next t ∧ (t.dma c.val).rd = (s.dma c.val).rd + n ∧
      ((∀ i < n, s.unwritten d.op (ddSrcAddr d.words ((s.dma c.val).rd + i)) = false) →
        (t.dma c.val).buf = (s.dma c.val).buf ++ (List.range n).map (fun i =>
          (s.hbmByte (key / 64 * 64 + ddSrcAddr d.words ((s.dma c.val).rd + i) % 64), s.granPoison (key / 64)))) ∧
      t = { s with dmas := t.dmas, io := t.io, free := t.free } := by
  have hlen : (s.dmaFound c.val key).length = s.dmaReadLen c.val false := by simp [State.dmaFound]
  obtain ⟨hmoves, hdma, hmem, hout, hastray⟩ := State.granMet_read ((s.granMet (key / 64)).asRead_fst d.op
    (fun i => ddSrcAddr d.words ((s.dma c.val).rd + i)) (s.dmaFound c.val key)) c.val
  have hexec := exec_dmaReadAccess_local hacc hcan h hhost hhint hsite
  dsimp only at hexec
  rw [State.dmaGot_of_sound (hastray.trans hsound)] at hexec
  refine ⟨State.dmaReadLen_pos hcan false, _, hexec, ?_, fun hwritten => ?_,
    (hmoves.dmaTake c.val _).dmas_io_free ((State.dmaTake_mem _ _ _).trans hmem) ((State.dmaTake_out _ _ _).trans hout)⟩
  · rw [State.dma_dmaTake, hdma, State.length_asRead, hlen]
  · have hdone : ∀ i < (s.dmaFound c.val key).length,
        (s.granMet (key / 64)).unwritten d.op (ddSrcAddr d.words ((s.dma c.val).rd + i)) = false := fun i hi => by
      rw [State.granMet_eq_io]
      exact hwritten i (hlen ▸ hi)
    rw [State.dma_dmaTake, hdma, State.asRead_of_written _ _ _ _ hdone, State.dmaFound, DmaCh.words_of_acc hacc]

end

/-! ### The write engine (R270, R274, R278, R279) -/

theorem State.dma_dmaDrop (s : State) (c n : Nat) : (s.dmaDrop c n).dma c =
    { s.dma c with wr := (s.dma c).wr + n, buf := (s.dma c).buf.drop n, wrOut := none, wtries := 0 } := by
  simp only [State.dmaDrop]
  split <;> simp

@[simp] theorem State.dmaDrop_mem (s : State) (c n : Nat) : (s.dmaDrop c n).mem = s.mem := by
  simp only [State.dmaDrop]
  split <;> simp

@[simp] theorem State.dmaDrop_out (s : State) (c n : Nat) : (s.dmaDrop c n).out = s.out := by
  simp only [State.dmaDrop]
  split <;> simp

@[simp] theorem State.dmaDrop_free (s : State) (c n : Nat) : (s.dmaDrop c n).free = s.free := by
  simp only [State.dmaDrop]
  split <;> simp

theorem State.movesOnly.dmaDrop {s t : State} (h : s.movesOnly t) (c n : Nat) : s.movesOnly (t.dmaDrop c n) := by
  have hdrop := (h.setDma c { t.dma c with
    wr := (t.dma c).wr + n, buf := (t.dma c).buf.drop n, wrOut := none, wtries := 0 }).event (.dma c) 0x04 1
  simp only [State.dmaDrop]
  split
  · exact hdrop.setReg _ _ _
  · exact hdrop

theorem State.dmaDrew_eq (s t : State) (c n : Nat) : s.dmaDrew t c n = t ∨ s.dmaDrew t c n = t.fresh := by
  unfold State.dmaDrew
  split
  · exact .inr rfl
  · exact .inl rfl

theorem State.dma_dmaDrew (s t : State) (c n j : Nat) : (s.dmaDrew t c n).dma j = t.dma j := by
  rcases s.dmaDrew_eq t c n with h | h <;> rw [h]
  rfl

theorem State.dmaDrew_mem (s t : State) (c n : Nat) : (s.dmaDrew t c n).mem = t.mem := by
  rcases s.dmaDrew_eq t c n with h | h <;> rw [h]
  rfl

theorem State.movesOnly.dmaDrew {s t : State} (h : s.movesOnly t) (u : State) (c n : Nat) : s.movesOnly (u.dmaDrew t c n) := by
  rcases u.dmaDrew_eq t c n with hd | hd <;> rw [hd]
  · exact h
  · exact h.fresh

/-- No byte of the next `n` meets an access that nothing orders it with (R279). -/
def State.dmaOrdered (s : State) (c n : Nat) : Prop :=
  ∀ i < n, s.dmaRaces c (ddDstAddr (s.dma c).words ((s.dma c).wr + i)) = false

theorem State.dmaDrew_of_ordered {s : State} {c n : Nat} (h : s.dmaOrdered c n) (t : State) : s.dmaDrew t c n = t := by
  have hnone : ((List.range n).any fun i => s.dmaRaces c (ddDstAddr (s.dma c).words ((s.dma c).wr + i))) = false := by
    simpa [State.dmaOrdered] using h
  rw [State.dmaDrew, hnone]
  rfl

theorem State.dmaBytes_of_ordered {s : State} {c n : Nat} (h : s.dmaOrdered c n) :
    s.dmaBytes c n = (s.dma c).buf.take n := by
  refine List.ext_getElem (by simp [State.dmaBytes]) fun i hi _ => ?_
  have hin : i < n := by simp [State.dmaBytes] at hi; omega
  simp [State.dmaBytes, h i hin]

theorem State.dmaBytes_event (s : State) (p : Page) (code m c n : Nat) : (s.event p code m).dmaBytes c n = s.dmaBytes c n := by
  rw [State.event_eq_io]
  rfl

theorem State.dmaDrew_event (s t : State) (p : Page) (code m c n : Nat) : (s.event p code m).dmaDrew t c n = s.dmaDrew t c n := by
  rw [State.event_eq_io]
  rfl

/-! ### A granule takes the bytes of an access (R203, R204) -/

/-- The bytes of an access with their keys in granule `g`; byte `i` has the address `addr i`. -/
def accessCells (g : Nat) (addr : Nat → Nat) (n : Nat) (bs : List OutByte) : List (Nat × OutByte) :=
  ((List.range n).zip bs).map fun p => (g * 64 + addr p.1 % 64, p.2)

theorem mem_accessCells {g n : Nat} {addr : Nat → Nat} {bs : List OutByte} (hlen : bs.length = n) {x : Nat × OutByte} :
    x ∈ accessCells g addr n bs ↔ ∃ i, ∃ h : i < n, x = (g * 64 + addr i % 64, bs[i]) := by
  simp [accessCells, List.mem_iff_getElem, hlen, eq_comm]

theorem fst_accessCells (g : Nat) (addr : Nat → Nat) {n : Nat} {bs : List OutByte} (hlen : bs.length = n) :
    (accessCells g addr n bs).map Prod.fst = (List.range n).map fun i => g * 64 + addr i % 64 :=
  List.ext_getElem (by simp [accessCells, hlen]) fun i _ _ => by simp [accessCells]

section
variable {s : State} {g n : Nat} {addr : Nat → Nat} {bs : List OutByte} (hlen : bs.length = n) (hn : 0 < n)
  (hclean : ∀ b ∈ bs, b.2 = false)
include hlen hn hclean

theorem State.putGran_clean (s : State) (g : Nat) (addr : Nat → Nat) : s.putGran g (accessCells g addr n bs) =
    s.writeGran g ((accessCells g addr n bs).map fun b => (b.1, b.2.1)) := by
  have hgood : ((accessCells g addr n bs).any fun b => b.2.2) = false := by
    rw [List.any_eq_false]
    intro x hx
    obtain ⟨i, hi, rfl⟩ := (mem_accessCells hlen).mp hx
    simp [hclean _ (List.getElem_mem (hlen ▸ hi))]
  rw [State.putGran, hgood]
  refine s.hbmPut_of_granule (fun hnil => ?_) fun b hb => ?_
  · have hlength := congrArg List.length hnil
    simp [accessCells, hlen] at hlength
    omega
  · obtain ⟨x, hx, rfl⟩ := List.mem_map.mp hb
    obtain ⟨i, hi, rfl⟩ := (mem_accessCells hlen).mp hx
    dsimp only
    omega

theorem State.putGran_writes (s : State) (g : Nat) (addr : Nat → Nat) :
    s.WritesMem (s.putGran g (accessCells g addr n bs)) := by
  rw [State.putGran_clean hlen hn hclean]
  exact s.writeGran_writes _ _

theorem State.hbmByte_putGran_ne {a : Nat} (ha : ∀ i < n, a ≠ g * 64 + addr i % 64) :
    (s.putGran g (accessCells g addr n bs)).hbmByte a = s.hbmByte a := by
  rw [State.putGran_clean hlen hn hclean]
  refine State.hbmByte_writeGran_ne fun b hb => ?_
  obtain ⟨x, hx, rfl⟩ := List.mem_map.mp hb
  obtain ⟨i, hi, rfl⟩ := (mem_accessCells hlen).mp hx
  exact ha i hi

/-- Bytes of one granule at addresses of their own read back as they were written. -/
theorem State.hbmByte_putGran_mem (hpoison : s.granPoison g = false) (hastray : s.mem.astray = [])
    (hgran : ∀ i < n, addr i / 64 = addr 0 / 64) (hinj : ∀ i < n, ∀ j < n, addr i = addr j → i = j) {i : Nat} (hi : i < n) :
    (s.putGran g (accessCells g addr n bs)).hbmByte (g * 64 + addr i % 64) = (bs.getD i (0, false)).1 := by
  have hg : (g * 64 + addr i % 64) / 64 = g := by omega
  have hib : i < bs.length := hlen ▸ hi
  have hkeys : (((accessCells g addr n bs).map fun b => (b.1, b.2.1)).map Prod.fst).Nodup := by
    rw [List.map_map, show (Prod.fst ∘ fun b : Nat × OutByte => (b.1, b.2.1)) = Prod.fst from rfl, fst_accessCells g addr hlen]
    refine List.pairwise_map.mpr (List.nodup_range.imp_of_mem fun {x y} hx hy hne heq => hne ?_)
    have hgx := hgran x (List.mem_range.mp hx)
    have hgy := hgran y (List.mem_range.mp hy)
    exact hinj x (List.mem_range.mp hx) y (List.mem_range.mp hy) (by omega)
  have hcell : (g * 64 + addr i % 64, bs[i].1) ∈ (accessCells g addr n bs).map fun b => (b.1, b.2.1) :=
    List.mem_map.mpr ⟨_, (mem_accessCells hlen).mpr ⟨i, hi, rfl⟩, rfl⟩
  have hbyte := State.hbmByte_writeGran_mem (s := s) (.inl (hg.symm ▸ hpoison)) hkeys hcell hastray
  rw [hg] at hbyte
  rw [State.putGran_clean hlen hn hclean, hbyte, List.getD_eq_getElem?_getD, List.getElem?_eq_getElem hib,
    Option.getD_some]

end

theorem State.length_dmaBytes {s : State} {c n : Nat} (hn : n ≤ (s.dma c).buf.length) : (s.dmaBytes c n).length = n := by
  simp [State.dmaBytes, hn]

/-- A byte that races keeps the poison it was read with. -/
theorem State.dmaBytes_clean {s : State} {c n : Nat} (h : ∀ b ∈ (s.dma c).buf.take n, b.2 = false) :
    ∀ b ∈ s.dmaBytes c n, b.2 = false := by
  intro b hb
  simp only [State.dmaBytes, List.mem_map] at hb
  obtain ⟨p, hp, rfl⟩ := hb
  have hclean := h p.2 (List.of_mem_zip hp).2
  split <;> exact hclean

/-- The cells that the next `n` bytes of channel `c` go to in granule `g`. -/
def State.dmaCells (s : State) (c g n : Nat) : List (Nat × OutByte) :=
  accessCells g (fun i => ddDstAddr (s.dma c).words ((s.dma c).wr + i)) n (s.dmaBytes c n)

/-- The state after the next `n` bytes of channel `c` have gone to granule `g`. -/
def State.dmaPlaced (s : State) (c g n : Nat) : State :=
  (((s.granMet g).putGran g (s.dmaCells c g n)).dmaDrop c n).event (.dma c) 0x08 ((s.dmaBytes c n).any Prod.snd).toNat

theorem State.hbmByte_dmaPlaced (s : State) (c g n a : Nat) :
    (s.dmaPlaced c g n).hbmByte a = ((s.granMet g).putGran g (s.dmaCells c g n)).hbmByte a := by
  refine State.hbmByte_congr ?_ ?_ a
  · rw [State.dmaPlaced, State.event_mem, State.dmaDrop_mem]
  · rw [State.dmaPlaced, State.event_free, State.dmaDrop_free]

section
variable {s : State} {c n : Nat} (hn : 0 < n) (hle : n ≤ (s.dma c).writable)
  (hclean : ∀ b ∈ (s.dma c).buf.take n, b.2 = false)
include hn hle hclean

theorem State.dmaCells_writes (g : Nat) : (s.granMet g).WritesMem ((s.granMet g).putGran g (s.dmaCells c g n)) :=
  State.putGran_writes (State.length_dmaBytes (Nat.le_trans hle (DmaCh.writable_le _))) hn (State.dmaBytes_clean hclean) _ _ _

theorem State.dma_dmaPlaced (g : Nat) : (s.dmaPlaced c g n).dma c =
    { s.dma c with wr := (s.dma c).wr + n, buf := (s.dma c).buf.drop n, wrOut := none, wtries := 0 } := by
  have hput := State.dmaCells_writes hn hle hclean g
  rw [State.dmaPlaced, State.dma_event, State.dma_dmaDrop,
    (congrArg (·.dma c) hput.only_mem).trans (s.dma_granMet g c)]

theorem State.movesOnly_dmaPlaced (g : Nat) : s.movesOnly (s.dmaPlaced c g n) :=
  (((s.movesOnly_granMet g).writes (State.dmaCells_writes hn hle hclean g)).dmaDrop c n).event _ _ _

theorem State.dmaPlaced_out (g : Nat) : (s.dmaPlaced c g n).out = s.out := by
  rw [State.dmaPlaced, State.event_out, State.dmaDrop_out, (State.dmaCells_writes hn hle hclean g).only_mem]
  exact s.granMet_out g

theorem State.dmaPlaced_free (g : Nat) : (s.dmaPlaced c g n).free = s.free := by
  rw [State.dmaPlaced, State.event_free, State.dmaDrop_free, (State.dmaCells_writes hn hle hclean g).free_eq, State.granMet_free]

/-- The bytes beside those of the access read as before. -/
theorem State.hbmByte_dmaPlaced_ne (g : Nat) {a : Nat}
    (ha : ∀ i < n, a ≠ g * 64 + ddDstAddr (s.dma c).words ((s.dma c).wr + i) % 64) :
    (s.dmaPlaced c g n).hbmByte a = s.hbmByte a := by
  rw [State.hbmByte_dmaPlaced, State.dmaCells, State.hbmByte_putGran_ne
    (State.length_dmaBytes (Nat.le_trans hle (DmaCh.writable_le _))) hn (State.dmaBytes_clean hclean) ha]
  exact State.hbmByte_congr (s.granMet_mem g) (s.granMet_free g) a

/-- The bytes of the access read as they stood in the buffer (R269). -/
theorem State.hbmByte_dmaPlaced_mem {g : Nat} (hordered : s.dmaOrdered c n)
    (hfit : ddDw (s.dma c).words ≤ ddDStride (s.dma c).words ∨ ddLen (s.dma c).words ≤ ddDw (s.dma c).words)
    (hgran : ∀ i < n, ddDstAddr (s.dma c).words ((s.dma c).wr + i) / 64 = ddDstAddr (s.dma c).words (s.dma c).wr / 64)
    (hpoison : s.granPoison g = false) (hastray : s.mem.astray = []) {i : Nat} (hi : i < n) :
    (s.dmaPlaced c g n).hbmByte (g * 64 + ddDstAddr (s.dma c).words ((s.dma c).wr + i) % 64) =
      ((s.dma c).buf.getD i (0, false)).1 := by
  rw [State.hbmByte_dmaPlaced, State.dmaCells, State.hbmByte_putGran_mem
    (State.length_dmaBytes (Nat.le_trans hle (DmaCh.writable_le _))) hn (State.dmaBytes_clean hclean)
    (by rwa [State.granPoison, State.granMet_mem]) (by rwa [State.granMet_mem]) hgran
    (fun i hi j hj => DmaCh.dst_injective hfit (Nat.lt_of_lt_of_le hi hle) (Nat.lt_of_lt_of_le hj hle)) hi, State.dmaBytes_of_ordered hordered]
  simp [hi]

end

section
variable {s : State} {c : Fin 32} {d : Desc} {rest : List Desc} (hacc : (s.dma c.val).acc = d :: rest)
  (hcan : s.dmaCanWrite c.val = true)
include hacc hcan

theorem exec_dmaWriteAccess_host (m : MemUse) (hhost : ddDHost d.words = true) :
    let n := runLen (ddDstAddr d.words) true (s.dma c.val).wr (s.dma c.val).writable
    let bs := s.dmaBytes c.val n
    exec (.dmaWriteAccess c m) s = .next (s.dmaDrew
      (((s.dmaDrop c.val n).emit (.hostWrite (ddDstAddr d.words (s.dma c.val).wr) (bs.map Prod.fst) (bs.any Prod.snd))).event
        (.dma c.val) 0x08 (bs.any Prod.snd).toNat) c.val n) := by
  change execDmaWriteAccess c m s = _
  simp only [execDmaWriteAccess, DmaCh.words_of_acc hacc, hcan, hhost, if_true, Bool.not_true, Bool.false_eq_true, if_false]

theorem exec_dmaWriteAccess_local (hhost : ddDHost d.words = false) {key : Nat}
    (hsite : s.site 4 0 d.ctx .wr (ddDstAddr d.words (s.dma c.val).wr) = .ok (.here key)) :
    let n := runLen (ddDstAddr d.words) false (s.dma c.val).wr (s.dma c.val).writable
    exec (.dmaWriteAccess c {}) s = .next (s.dmaDrew (s.dmaPlaced c.val (key / 64) n) c.val n) := by
  unfold State.dmaPlaced State.dmaCells
  change execDmaWriteAccess c {} s = _
  simp only [execDmaWriteAccess, DmaCh.words_of_acc hacc, DmaCh.tag_of_acc hacc, hcan, hhost, Bool.not_true,
    Bool.false_eq_true, if_false, List.headD_nil, State.lookup_beside, State.site_event, hsite, State.granWrite_hit,
    State.dmaBytes_event, State.dmaDrew_event]
  rfl

theorem exec_dmaWriteAccess_fault (hhost : ddDHost d.words = false) {r : Nat}
    (hsite : s.site 4 0 d.ctx .wr (ddDstAddr d.words (s.dma c.val).wr) = .error r) :
    exec (.dmaWriteAccess c {}) s =
      .next ((s.event .pmap 0x02 1).dmaXfault c.val true r (ddDstAddr d.words (s.dma c.val).wr)) := by
  change execDmaWriteAccess c {} s = _
  simp only [execDmaWriteAccess, DmaCh.words_of_acc hacc, DmaCh.tag_of_acc hacc, hcan, hhost, Bool.not_true,
    Bool.false_eq_true, if_false, List.headD_nil, State.lookup_beside, State.site_event, hsite]

theorem exec_dmaWriteAccess_host_spec (m : MemUse) (hhost : ddDHost d.words = true) :
    let n := runLen (ddDstAddr d.words) true (s.dma c.val).wr (s.dma c.val).writable
    0 < n ∧ ∃ t, exec (.dmaWriteAccess c m) s = .next t ∧ (t.dma c.val).wr = (s.dma c.val).wr + n ∧
      (t.dma c.val).buf = (s.dma c.val).buf.drop n ∧ t = { s with dmas := t.dmas, io := t.io, out := t.out, free := t.free } ∧
      ((∀ i < n, s.dmaRaces c.val (ddDstAddr d.words ((s.dma c.val).wr + i)) = false) → t.free = s.free ∧
        t.out = .hostWrite (ddDstAddr d.words (s.dma c.val).wr) (((s.dma c.val).buf.take n).map Prod.fst)
          (((s.dma c.val).buf.take n).any Prod.snd) :: s.out) := by
  obtain ⟨-, hsome, -, -⟩ := (s.dmaCanWrite_iff _).mp hcan
  have hexec := exec_dmaWriteAccess_host hacc hcan m hhost
  intro n
  refine ⟨runLen_pos _ _ _ (Nat.pos_of_ne_zero hsome), _, hexec, ?_, ?_, ?_, fun hraces => ?_⟩
  · rw [State.dma_dmaDrew, State.dma_event, State.dma_emit, State.dma_dmaDrop]
  · rw [State.dma_dmaDrew, State.dma_event, State.dma_emit, State.dma_dmaDrop]
  · refine State.movesOnly.dmas_io_out_free
      ((((s.movesOnly_refl.dmaDrop c.val n).emit _).event (.dma c.val) 0x08 _).dmaDrew s c.val n) ?_
    rw [State.dmaDrew_mem, State.event_mem, State.emit_mem, State.dmaDrop_mem]
  · have hordered : s.dmaOrdered c.val n := by rwa [State.dmaOrdered, DmaCh.words_of_acc hacc]
    rw [State.dmaDrew_of_ordered hordered, State.dmaBytes_of_ordered hordered, State.event_free, State.event_out]
    exact ⟨State.dmaDrop_free _ _ _, congrArg (List.cons _) (State.dmaDrop_out _ _ _)⟩

theorem exec_dmaWriteAccess_local_spec (hhost : ddDHost d.words = false)
    (hfit : ddDw d.words ≤ ddDStride d.words ∨ ddLen d.words ≤ ddDw d.words) {key : Nat}
    (hsite : s.site 4 0 d.ctx .wr (ddDstAddr d.words (s.dma c.val).wr) = .ok (.here key))
    (hpoison : s.granPoison (key / 64) = false) :
    let n := runLen (ddDstAddr d.words) false (s.dma c.val).wr (s.dma c.val).writable
    (∀ b ∈ (s.dma c.val).buf.take n, b.2 = false) →
    0 < n ∧ ∃ t, exec (.dmaWriteAccess c {}) s = .next t ∧ (t.dma c.val).wr = (s.dma c.val).wr + n ∧
      (t.dma c.val).buf = (s.dma c.val).buf.drop n ∧
      ((∀ i < n, s.dmaRaces c.val (ddDstAddr d.words ((s.dma c.val).wr + i)) = false) →
        (s.mem.astray = [] → ∀ i < n, t.hbmByte (key / 64 * 64 + ddDstAddr d.words ((s.dma c.val).wr + i) % 64) =
          ((s.dma c.val).buf.getD i (0, false)).1) ∧
        (∀ a, (∀ i < n, a ≠ key / 64 * 64 + ddDstAddr d.words ((s.dma c.val).wr + i) % 64) → t.hbmByte a = s.hbmByte a) ∧
        t = { s with dmas := t.dmas, io := t.io, mem := t.mem }) := by
  obtain ⟨-, hsome, -, -⟩ := (s.dmaCanWrite_iff _).mp hcan
  have hwords := DmaCh.words_of_acc hacc
  intro n hclean
  have hn : 0 < n := runLen_pos _ _ _ (Nat.pos_of_ne_zero hsome)
  have hle : n ≤ (s.dma c.val).writable := runLen_le _ _ _ _
  have hgran : ∀ i < n, ddDstAddr d.words ((s.dma c.val).wr + i) / 64 = ddDstAddr d.words (s.dma c.val).wr / 64 :=
    fun i hi => granule_of_lt_runLen hi
  have hexec : exec (.dmaWriteAccess c {}) s = .next (s.dmaDrew (s.dmaPlaced c.val (key / 64) n) c.val n) :=
    exec_dmaWriteAccess_local hacc hcan hhost hsite
  refine ⟨hn, _, hexec, ?_, ?_, fun hraces => ?_⟩
  · rw [State.dma_dmaDrew, State.dma_dmaPlaced hn hle hclean]
  · rw [State.dma_dmaDrew, State.dma_dmaPlaced hn hle hclean]
  · rw [← hwords] at hraces hfit hgran ⊢
    rw [State.dmaDrew_of_ordered hraces]
    exact ⟨fun hastray i hi => State.hbmByte_dmaPlaced_mem hn hle hclean hraces hfit hgran hpoison hastray hi,
      fun a ha => State.hbmByte_dmaPlaced_ne hn hle hclean _ ha,
      (State.movesOnly_dmaPlaced hn hle hclean _).dmas_io_mem (State.dmaPlaced_out hn hle hclean _)
        (State.dmaPlaced_free hn hle hclean _)⟩

end

end Sys2Proof.Machine
end

section
/-! PROOF. How a DMA channel takes, ends, halts, resumes and discards its descriptors (R271, R272, R275 to R277), and its
configuration (R281). -/
namespace Sys2Proof.Machine

/-! ### Acceptance and refusal (R271) -/

section
variable {s : State} {c : Fin 32} {d : Desc} {rest : List Desc} (hq : (s.dma c.val).inq = d :: rest)
include hq

theorem exec_dmaDescAccept_taken (hok : s.ddReason c.val d = 0) :
    let k := { s.dma c.val with inq := rest, acc := (s.dma c.val).acc ++ [d], quiesced := false }
    exec (.dmaDescAccept c) s = .next (s.setDma c.val (if (s.dma c.val).st = .idle then k.begin s.refcnt else k)) := by
  change execDmaDescAccept c s = _
  simp only [execDmaDescAccept, hq, hok, if_true]

theorem exec_dmaDescAccept_refused (hbad : s.ddReason c.val d ≠ 0) :
    let t := s.setDma c.val { s.dma c.val with inq := rest }
    exec (.dmaDescAccept c) s = .next (((if s.flag (.dma c.val) 0x11C 31 then t
      else t.setReg (.dma c.val) 0x11C (w32 (2 ^ 31 + d.ctx * 256 + s.ddReason c.val d))).setErr (.dma c.val) 0).refuseDesc d
        (s.ddReason c.val d) 0x61) := by
  change execDmaDescAccept c s = _
  simp only [execDmaDescAccept, hq, if_neg hbad]
  rfl

end

theorem State.ddReason_lt (s : State) (c : Nat) (d : Desc) : s.ddReason c d < 6 := by
  simp only [State.ddReason]
  repeat' split
  all_goals decide

/-- What `FAULT_INFO` records of a refusal: its reason and the context (R281). -/
theorem refusalRecord_fields {ctx why : Nat} (hctx : ctx < 64) (hwhy : why < 256) :
    fld (w32 (2 ^ 31 + ctx * 256 + why)) 7 0 = why ∧ fld (w32 (2 ^ 31 + ctx * 256 + why)) 13 8 = ctx := by
  have hr : (w32 (2 ^ 31 + ctx * 256 + why)).toNat = 2 ^ 31 + ctx * 256 + why := Nat.mod_eq_of_lt (by omega)
  simp only [fld, bits, hr, Nat.shiftRight_eq_div_pow]
  omega

theorem exec_dmaDescAccept_taken_spec {s : State} {c : Fin 32} {d : Desc} {rest : List Desc}
    (hq : (s.dma c.val).inq = d :: rest) (hok : s.ddReason c.val d = 0) :
    ∃ t, exec (.dmaDescAccept c) s = .next t ∧ (t.dma c.val).inq = rest ∧ (t.dma c.val).acc = (s.dma c.val).acc ++ [d] ∧
      ((s.dma c.val).st = .idle →
        (t.dma c.val).st = .active ∧ (t.dma c.val).rd = 0 ∧ (t.dma c.val).wr = 0 ∧ (t.dma c.val).buf = []) ∧
      t = { s with dmas := t.dmas } := by
  refine ⟨_, exec_dmaDescAccept_taken hq hok, ?_⟩
  rw [State.dma_setDma_same]
  by_cases hidle : (s.dma c.val).st = .idle
  · rw [if_pos hidle]
    exact ⟨rfl, rfl, fun _ => ⟨by simp [DmaCh.begin], rfl, rfl, rfl⟩, rfl⟩
  · rw [if_neg hidle]
    exact ⟨rfl, rfl, fun h => absurd h hidle, rfl⟩

theorem exec_dmaDescAccept_refused_spec {s : State} {c : Fin 32} {d : Desc} {rest : List Desc}
    (hq : (s.dma c.val).inq = d :: rest) (hbad : s.ddReason c.val d ≠ 0) (hctx : d.ctx < 64) :
    ∃ t, exec (.dmaDescAccept c) s = .next t ∧ t.dma c.val = { s.dma c.val with inq := rest } ∧
      t.flag (.dma c.val) 0x010 0 = true ∧
      (s.flag (.dma c.val) 0x11C 31 = false → t.field (.dma c.val) 0x11C 7 0 = s.ddReason c.val d ∧
        t.field (.dma c.val) 0x11C 13 8 = d.ctx) ∧ t.tallies = s.tallies ∧ t.mem = s.mem := by
  have hreg := fun j (hj : j < 0x1000) => State.faultBlind_reg (Page.dma_low c hj)
  refine ⟨_, exec_dmaDescAccept_refused hq hbad, ?_, ?_, fun hfirst => ?_, ?_, ?_⟩
  · rw [(State.faultBlind_dma c.val).refuseDesc, State.dma_setErr]
    split <;> simp
  · rw [State.flag, (hreg 0x010 (by decide)).refuseDesc]
    exact State.flag_setErr _ _ _ (by decide)
  · rw [State.field, State.field, (hreg 0x11C (by decide)).refuseDesc, State.reg_setErr_ne _ _ (by omega) (by omega), hfirst,
      if_neg Bool.false_ne_true, State.reg_setReg_same]
    exact refusalRecord_fields hctx (by have := s.ddReason_lt c.val d; omega)
  · rw [State.faultBlind_tallies.refuseDesc, State.setErr_tallies]
    split <;> rfl
  · rw [State.faultBlind_mem.refuseDesc, State.setErr_mem]
    split <;> rfl

/-! ### Completion (R275) -/

theorem State.tallyPermitted_event_dma (s : State) (c : Fin 32) (code m n x : Nat) :
    (s.event (.dma c.val) code m).tallyPermitted n x = s.tallyPermitted n x := by
  have hreg : (s.event (.dma c.val) code m).reg .tly (0x200 + 4 * (n / 64)) = s.reg .tly (0x200 + 4 * (n / 64)) := by
    refine State.reg_event_ne s code m fun k _ hk => ?_
    simp only [Page.base]
    omega
  rw [State.tallyPermitted_eq, State.tallyPermitted_eq, State.field, State.field, hreg]

theorem exec_dmaDescComplete_spec {s : State} {c : Fin 32} {d : Desc} {rest : List Desc}
    (hacc : (s.dma c.val).acc = d :: rest) (hst : (s.dma c.val).st = .active) (hend : ddLen d.words ≤ (s.dma c.val).wr) :
    ∃ t, exec (.dmaDescComplete c) s = .next t ∧ (t.dma c.val).acc = rest ∧
      (t.dma c.val).st = (if rest = [] then .idle else .active) ∧
      t.tallies = (s.opTally (ddTally d.words) d.ctx).tallies ∧ t.mem = s.mem := by
  have hexec : exec (.dmaDescComplete c) s = .next (((s.setDma c.val
      ({ s.dma c.val with acc := rest }.begin s.refcnt)).event (.dma c.val) 0x02 1).opTally (ddTally d.words) d.ctx) := by
    change execDmaDescComplete c s = _
    simp only [execDmaDescComplete, hacc]
    rw [if_neg (by simp [hst, hend])]
  refine ⟨_, hexec, ?_, ?_, ?_, ?_⟩
  · rw [State.dma_opTally, State.dma_event, State.dma_setDma_same]
    rfl
  · rw [State.dma_opTally, State.dma_event, State.dma_setDma_same]
    cases rest <;> rfl
  · refine State.opTally_tallies_congr _ _ (State.event_tallies _ _ _ _) ?_
    rw [State.tallyPermitted_event_dma]
    rfl
  · rw [State.opTally_mem, State.event_mem]
    rfl

/-! ### Halts (R272, R276, R277) -/

/-- `FAIL_INFO` of a halt (R281). -/
def failInfo (dst host : Bool) (reason pmap attempts : Nat) : W32 :=
  w32 (2 ^ 31 + dst.toNat * 2 ^ 30 + host.toNat * 2 ^ 29 + reason * 65536 + pmap * 256 + attempts)

/-- The side and the address space, the reason, the reason of the Page Map, the attempts (R281). -/
theorem failInfo_fields (dst host : Bool) {reason pmap attempts : Nat} (hr : reason < 256) (hp : pmap < 256) (ha : attempts < 16) :
    fld (failInfo dst host reason pmap attempts) 31 29 = 4 + 2 * dst.toNat + host.toNat ∧
      fld (failInfo dst host reason pmap attempts) 23 16 = reason ∧ fld (failInfo dst host reason pmap attempts) 15 8 = pmap ∧
      fld (failInfo dst host reason pmap attempts) 3 0 = attempts := by
  have hd := dst.toNat_le
  have hh := host.toNat_le
  have hlt : 2 ^ 31 + dst.toNat * 2 ^ 30 + host.toNat * 2 ^ 29 + reason * 65536 + pmap * 256 + attempts < 2 ^ 32 := by omega
  have hw : (failInfo dst host reason pmap attempts).toNat =
      2 ^ 31 + dst.toNat * 2 ^ 30 + host.toNat * 2 ^ 29 + reason * 65536 + pmap * 256 + attempts := by
    rw [failInfo, w32, BitVec.toNat_ofNat, Nat.mod_eq_of_lt hlt]
  simp only [fld, bits, hw, Nat.shiftRight_eq_div_pow]
  omega

/-- Channel `k` halted by its destination or not (R277). -/
def DmaCh.halted (k : DmaCh) (dst : Bool) : DmaCh := { k with wstop := k.wstop || dst, st := .halted, rdOut := none, rtries := 0 }

theorem DmaCh.residual_halted (k : DmaCh) (dst : Bool) : (k.halted dst).residual = k.residual := by
  simp only [DmaCh.residual, DmaCh.words, DmaCh.halted]

/-- What the registers of channel `c` show of a halt at `addr` (R277). -/
def State.haltRecorded (s : State) (c : Nat) (info : W32) (addr residual : Nat) : State :=
  ((s.setReg (.dma c) 0x10C info).setReg64 (.dma c) 0x110 (w64 addr)).setReg (.dma c) 0x118 (w32 residual)

section
variable (s : State) (c : Nat) (info : W32) (addr residual : Nat)

theorem State.haltRecorded_mem : (s.haltRecorded c info addr residual).mem = s.mem := rfl
theorem State.haltRecorded_tallies : (s.haltRecorded c info addr residual).tallies = s.tallies := rfl
theorem State.dma_haltRecorded (j : Nat) : (s.haltRecorded c info addr residual).dma j = s.dma j := rfl

theorem State.failInfo_haltRecorded : (s.haltRecorded c info addr residual).reg (.dma c) 0x10C = info := by
  rw [State.haltRecorded, State.reg_setReg_off _ _ (by decide), State.setReg64, State.reg_setReg_off _ _ (by decide),
    State.reg_setReg_off _ _ (by decide), State.reg_setReg_same]

theorem State.failAddr_haltRecorded : (s.haltRecorded c info addr residual).reg64 (.dma c) 0x110 = w64 addr := by
  rw [State.reg64, State.haltRecorded, State.reg_setReg_off _ _ (by decide), State.reg_setReg_off _ _ (by decide)]
  exact State.reg64_setReg64 _ _ _ _

theorem State.residual_haltRecorded : (s.haltRecorded c info addr residual).reg (.dma c) 0x118 = w32 residual :=
  State.reg_setReg_same _ _ _ _

end

/-- What the registers of `t` show of a halt, and what else it leaves as in `s` (R277). -/
structure State.HaltShown (s t : State) (c : Nat) (k : DmaCh) (info : W32) (addr : Nat) : Prop where
  channel : t.dma c = k
  info : t.reg (.dma c) 0x10C = info
  addr : t.reg64 (.dma c) 0x110 = w64 addr
  residual : t.reg (.dma c) 0x118 = w32 k.residual
  err : t.flag (.dma c) 0x010 1 = true
  tallies : t.tallies = s.tallies
  mem : t.mem = s.mem

theorem State.dmaHalt_shown {s : State} {c : Fin 32} {d : Desc} {rest : List Desc} (hacc : (s.dma c.val).acc = d :: rest)
    (hst : (s.dma c.val).st ≠ .halted) (dst host : Bool) (reason pmap attempts addr : Nat) :
    s.HaltShown (s.dmaHalt c.val dst host reason pmap attempts addr) c.val ((s.dma c.val).halted dst)
      (failInfo dst host reason pmap attempts) addr := by
  have hhalt : s.dmaHalt c.val dst host reason pmap attempts addr =
      (((s.setDma c.val ((s.dma c.val).halted dst)).haltRecorded c.val (failInfo dst host reason pmap attempts) addr
        (s.dma c.val).residual).setErr (.dma c.val) 1).opFault d 0x0B (if reason = 1 then pmap else 0x06) 0x61 := by
    simp only [State.dmaHalt, if_neg hst, hacc, State.haltRecorded, failInfo, DmaCh.halted]
  have hreg := fun j (hj : j < 0x1000) => State.faultBlind_reg (Page.dma_low c hj)
  rw [hhalt]
  refine ⟨?_, ?_, ?_, ?_, ?_, ?_, ?_⟩
  · rw [(State.faultBlind_dma c.val).opFault, State.dma_setErr, State.dma_haltRecorded, State.dma_setDma_same]
  · rw [(hreg 0x10C (by decide)).opFault, State.reg_setErr_ne _ _ (by omega) (by omega), State.failInfo_haltRecorded]
  · rw [State.reg64, (hreg 0x114 (by decide)).opFault, (hreg 0x110 (by decide)).opFault,
      State.reg_setErr_ne _ _ (by omega) (by omega), State.reg_setErr_ne _ _ (by omega) (by omega)]
    exact State.failAddr_haltRecorded _ _ _ _ _
  · rw [(hreg 0x118 (by decide)).opFault, State.reg_setErr_ne _ _ (by omega) (by omega), State.residual_haltRecorded,
      DmaCh.residual_halted]
  · rw [State.flag, (hreg 0x010 (by decide)).opFault]
    exact State.flag_setErr _ _ _ (by decide)
  · rw [State.faultBlind_tallies.opFault, State.setErr_tallies, State.haltRecorded_tallies, State.setDma_tallies]
  · rw [State.faultBlind_mem.opFault, State.setErr_mem, State.haltRecorded_mem, State.setDma_mem]

theorem State.HaltShown.of_before {s u t : State} {c : Nat} {k : DmaCh} {info : W32} {addr : Nat}
    (h : u.HaltShown t c k info addr) (htallies : u.tallies = s.tallies) (hmem : u.mem = s.mem) : s.HaltShown t c k info addr :=
  { h with tallies := h.tallies.trans htallies, mem := h.mem.trans hmem }

section
variable {s : State} {c : Fin 32} {d : Desc} {rest : List Desc} (hacc : (s.dma c.val).acc = d :: rest)
  (hcan : s.dmaCanRead c.val = true) (hhost : ddSHost d.words = true)
include hacc hcan hhost

theorem exec_dmaBusError_host :
    exec (.dmaBusError c) s = .next (s.dmaBusError c.val false true (ddSrcAddr d.words (s.dma c.val).rd)) := by
  change execDmaBusError c s = _
  simp only [execDmaBusError, DmaCh.words_of_acc hacc, hcan, hhost, Bool.and_self, if_true]

/-- A failed access is repeated while `RETRY` allows it (R276). -/
theorem exec_dmaBusError_repeats (hleft : (s.dma c.val).rtries < s.field (.dma c.val) 0x100 14 12) :
    ∃ t, exec (.dmaBusError c) s = .next t ∧
      t.dma c.val = { s.dma c.val with rtries := (s.dma c.val).rtries + 1, rdOut := none } ∧
      t = { s with dmas := t.dmas, io := t.io } := by
  have hbus : s.dmaBusError c.val false true (ddSrcAddr d.words (s.dma c.val).rd) =
      ((s.setDma c.val { s.dma c.val with rtries := (s.dma c.val).rtries + 1, rdOut := none }).countErr (.dma c.val)).event
        (.dma c.val) 0x05 1 := by
    simp only [State.dmaBusError, Bool.false_eq_true, if_false]
    exact if_pos hleft
  have hexec := exec_dmaBusError_host hacc hcan hhost
  rw [hbus] at hexec
  refine ⟨_, hexec, ?_, ?_⟩
  · rw [State.dma_event, State.dma_countErr, State.dma_setDma_same]
  · refine State.movesOnly.dmas_io (((s.movesOnly_refl.setDma c.val _).setReg (.dma c.val) 0x020 _).event _ _ _) ?_ ?_ ?_
    · exact State.event_mem _ _ _ _
    · exact State.event_out _ _ _ _
    · exact State.event_free _ _ _ _

/-- The last repeat of a failed access halts the channel (R276, R277). -/
theorem exec_dmaBusError_halts (hlast : (s.dma c.val).rtries = s.field (.dma c.val) 0x100 14 12) :
    ∃ t, exec (.dmaBusError c) s = .next t ∧ s.HaltShown t c.val ((s.dma c.val).halted false)
      (failInfo false true 2 0 ((s.dma c.val).rtries + 1)) (ddSrcAddr d.words (s.dma c.val).rd) := by
  obtain ⟨hst, -, -, -⟩ := (s.dmaCanRead_iff _).mp hcan
  have hbus : s.dmaBusError c.val false true (ddSrcAddr d.words (s.dma c.val).rd) =
      (s.setDma c.val (s.dma c.val)).dmaHalt c.val false true 2 0 ((s.dma c.val).rtries + 1)
        (ddSrcAddr d.words (s.dma c.val).rd) := by
    simp only [State.dmaBusError, Bool.false_eq_true, if_false]
    exact if_neg (by omega)
  have hsame : (s.setDma c.val (s.dma c.val)).dma c.val = s.dma c.val := State.dma_setDma_same _ _ _
  have hhalt := State.dmaHalt_shown (s := s.setDma c.val (s.dma c.val)) (hsame ▸ hacc) (by rw [hsame, hst]; decide)
    false true 2 0 ((s.dma c.val).rtries + 1) (ddSrcAddr d.words (s.dma c.val).rd)
  rw [hsame] at hhalt
  exact ⟨_, (exec_dmaBusError_host hacc hcan hhost).trans (congrArg _ hbus), hhalt.of_before rfl rfl⟩

end

/-- A translation fault at the destination halts the channel at once (R272). -/
theorem exec_dmaWriteAccess_faults {s : State} {c : Fin 32} {d : Desc} {rest : List Desc} (hacc : (s.dma c.val).acc = d :: rest)
    (hcan : s.dmaCanWrite c.val = true) (hst : (s.dma c.val).st = .active) (hhost : ddDHost d.words = false) {r : Nat}
    (hsite : s.site 4 0 d.ctx .wr (ddDstAddr d.words (s.dma c.val).wr) = .error r) :
    ∃ t, exec (.dmaWriteAccess c {}) s = .next t ∧ s.HaltShown t c.val ((s.dma c.val).halted true)
      (failInfo true false 1 r 1) (ddDstAddr d.words (s.dma c.val).wr) := by
  refine ⟨_, exec_dmaWriteAccess_fault hacc hcan hhost hsite, ?_⟩
  have hdma : ∀ tag a, ((s.event .pmap 0x02 1).recordXlate r 1 tag c.val a).dma c.val = s.dma c.val := fun tag a =>
    (State.recordXlate_keeps (State.dma · c.val) (fun _ _ _ _ => rfl) (fun _ _ _ => State.dma_setErr _ _ _ _) _ _ _ _ _ _).trans
      (State.dma_event _ _ _ _ _)
  have hhalt := fun tag a => State.dmaHalt_shown (s := (s.event .pmap 0x02 1).recordXlate r 1 tag c.val a)
    ((hdma tag a).symm ▸ hacc) (by rw [hdma, hst]; decide) true false 1 r 1 (ddDstAddr d.words (s.dma c.val).wr)
  simp only [hdma] at hhalt
  refine (hhalt _ _).of_before ?_ ?_
  · rw [State.recordXlate_keeps State.tallies (fun _ _ _ _ => rfl) (fun _ _ _ => State.setErr_tallies _ _ _), State.event_tallies]
  · rw [State.recordXlate_keeps State.mem (fun _ _ _ _ => rfl) (fun _ _ _ => State.setErr_mem _ _ _), State.event_mem]

/-! ### RESUME, ABORT and `CH_CFG` (R277, R281) -/

theorem fld_and_of_ones (v : W32) {m : W32} {hi lo : Nat} (h : fld m hi lo = 2 ^ (hi + 1 - lo) - 1) :
    fld (v &&& m) hi lo = fld v hi lo := by
  refine Nat.eq_of_testBit_eq fun i => ?_
  have hone := congrArg (·.testBit i) h
  simp only [fld, testBit_bits, Nat.testBit_two_pow_sub_one, testBit_toNat] at hone
  simp only [fld, testBit_bits, testBit_toNat, BitVec.getLsbD_and]
  cases hin : decide (i < hi + 1 - lo) with
  | false => rfl
  | true =>
    rw [hin, Bool.true_and] at hone
    rw [hone, Bool.and_true]

section
variable {s : State} {c : Fin 32}

theorem exec_dmaResume_ignored (hst : (s.dma c.val).st ≠ .halted) : exec (.dmaResume c) s = .next s := by
  change execDmaResume c s = _
  simp [execDmaResume, hst]

theorem exec_dmaAbort_ignored (hst : (s.dma c.val).st ≠ .halted) : exec (.dmaAbort c) s = .next s := by
  change execDmaAbort c s = _
  simp [execDmaAbort, hst]

theorem State.flag_dmaClear (s : State) (c : Nat) (k : DmaCh) : ((s.dmaClear c).setDma c k).flag (.dma c) 0x10C 31 = false := by
  rw [State.flag, State.reg_setDma]
  exact State.flag_setFlag_same _ _ _ _ _ (by decide)

/-- A halted descriptor starts again at its first destination element that is not written whole (R277). -/
theorem exec_dmaResume_restarts (hready : s.ready = true) (hst : (s.dma c.val).st = .halted) {d : Desc} {rest : List Desc}
    (hacc : (s.dma c.val).acc = d :: rest) :
    ∃ t, exec (.dmaResume c) s = .next t ∧ (t.dma c.val).st = .active ∧ (t.dma c.val).acc = (s.dma c.val).acc ∧
      (t.dma c.val).rd = (s.dma c.val).wr / ddDw d.words * ddDw d.words ∧
      (t.dma c.val).wr = (s.dma c.val).wr / ddDw d.words * ddDw d.words ∧
      (t.dma c.val).buf = [] ∧ t.flag (.dma c.val) 0x10C 31 = false ∧ t = { s with dmas := t.dmas, io := t.io } := by
  have hexec : exec (.dmaResume c) s = .next ((s.dmaClear c.val).setDma c.val
      { s.dma c.val with
        st := .active, rd := (s.dma c.val).wr / ddDw d.words * ddDw d.words, wr := (s.dma c.val).wr / ddDw d.words * ddDw d.words
        buf := [], rdOut := none, wrOut := none, rtries := 0, wtries := 0, wstop := false, gen := (s.dma c.val).gen + 1 }) := by
    change execDmaResume c s = _
    simp [execDmaResume, hready, hst, DmaCh.words_of_acc hacc]
  refine ⟨_, hexec, ?_⟩
  rw [State.dma_setDma_same, State.flag_dmaClear]
  exact ⟨rfl, rfl, rfl, rfl, rfl, rfl, rfl⟩

/-- What is accepted and queued is discarded (R277). -/
theorem exec_dmaAbort_discards (hready : s.ready = true) (hst : (s.dma c.val).st = .halted) :
    ∃ t, exec (.dmaAbort c) s = .next t ∧ (t.dma c.val).st = .idle ∧ (t.dma c.val).acc = [] ∧ (t.dma c.val).inq = [] ∧
      t.flag (.dma c.val) 0x10C 31 = false ∧ t = { s with dmas := t.dmas, io := t.io } := by
  have hexec : exec (.dmaAbort c) s = .next ((s.dmaClear c.val).setDma c.val
      ({ s.dma c.val with inq := [], acc := [] }.begin s.refcnt)) := by
    change execDmaAbort c s = _
    simp [execDmaAbort, hready, hst]
  refine ⟨_, hexec, ?_⟩
  rw [State.dma_setDma_same, State.flag_dmaClear]
  exact ⟨rfl, rfl, rfl, rfl, rfl⟩

theorem exec_chCfgWrite_busy (v : W32) (hready : s.ready = true) (hopen : s.pageSealed (.dma c.val) = false)
    {d : Desc} {rest : List Desc} (hacc : (s.dma c.val).acc = d :: rest) :
    exec (.chCfgWrite c v) s = .next (s.setErr (.dma c.val) 2) := by
  change execChCfgWrite c v s = _
  simp [execChCfgWrite, hready, hopen, hacc]

/-- An idle channel takes its partition, its repeats and its share of the buffer (R281). -/
theorem exec_chCfgWrite_idle (v : W32) (hready : s.ready = true) (hopen : s.pageSealed (.dma c.val) = false)
    (hidle : s.dma c.val = {}) :
    ∃ t, exec (.chCfgWrite c v) s = .next t ∧ t.field (.dma c.val) 0x100 17 16 = fld v 17 16 ∧
      t.field (.dma c.val) 0x100 14 12 = fld v 14 12 ∧ t.field (.dma c.val) 0x100 10 0 = fld v 10 0 ∧
      t = { s with io := t.io } := by
  have hexec : exec (.chCfgWrite c v) s = .next (s.setReg (.dma c.val) 0x100 (v &&& 0x000377FF#32)) := by
    change execChCfgWrite c v s = _
    simp [execChCfgWrite, hready, hopen, hidle]
  refine ⟨_, hexec, ?_⟩
  simp only [State.field, State.reg_setReg_same]
  exact ⟨fld_and_of_ones v rfl, fld_and_of_ones v rfl, fld_and_of_ones v rfl, rfl⟩

end

/-! ### The obligation -/

/-- Settles O30, clause by clause: a channel takes or refuses a descriptor, reads, writes and ends it; a bus error, a translation
fault, `RESUME`, `ABORT` and `CH_CFG`. -/
theorem dmaMovesBytes : Obligations.DmaMovesBytes := by
  unfold Obligations.DmaMovesBytes
  refine ⟨?_, ?_⟩
  · rintro s c _ d rest h m rfl
    refine ⟨fun hq hok => exec_dmaDescAccept_taken_spec hq hok, fun hq hbad hctx => exec_dmaDescAccept_refused_spec hq hbad hctx,
      fun hacc hcan hsound hhost hhint key hsite => exec_dmaReadAccess_local_spec hacc hcan hsound h hhost hhint hsite,
      fun hacc hcan hsound hhost => exec_dmaReadAccess_host_spec hacc hcan hsound h m hhost,
      fun hacc hcan hhost hfit key hsite hpoison => exec_dmaWriteAccess_local_spec hacc hcan hhost hfit hsite hpoison,
      fun hacc hcan hhost => exec_dmaWriteAccess_host_spec hacc hcan m hhost,
      fun hacc hst hend => exec_dmaDescComplete_spec hacc hst hend⟩
  · rintro s c _ d rest v rfl hacc
    refine ⟨fun hcan hhost hleft => exec_dmaBusError_repeats hacc hcan hhost hleft, fun hcan hhost hlast => ?_,
      fun hcan hst hhost r hr hsite => ?_,
      fun hready hst => ⟨exec_dmaResume_restarts hready hst hacc, exec_dmaAbort_discards hready hst⟩,
      fun hst => ⟨exec_dmaResume_ignored hst, exec_dmaAbort_ignored hst⟩,
      fun hready hopen => exec_chCfgWrite_busy v hready hopen hacc,
      fun u hready hopen hidle => exec_chCfgWrite_idle v hready hopen hidle⟩
    · obtain ⟨t, hexec, hshown⟩ := exec_dmaBusError_halts hacc hcan hhost hlast
      have htries : s.field (.dma c.val) 0x100 14 12 < 8 := fld_lt _ 14 12
      obtain ⟨hside, hreason, -, hattempts⟩ := failInfo_fields false true (reason := 2) (pmap := 0)
        (attempts := (s.dma c.val).rtries + 1) (by decide) (by decide) (by omega)
      refine ⟨t, hexec, ?_, ?_, ?_, ?_, ?_, hshown.addr, ?_, hshown.err, hshown.tallies, hshown.mem⟩
      · rw [hshown.channel]; rfl
      · rw [hshown.channel]; rfl
      · rw [State.field, hshown.info, hside]; rfl
      · rw [State.field, hshown.info, hreason]
      · rw [State.field, hshown.info, hattempts]
      · rw [hshown.residual, DmaCh.residual_halted, DmaCh.residual, DmaCh.words_of_acc hacc]
    · obtain ⟨t, hexec, hshown⟩ := exec_dmaWriteAccess_faults hacc hcan hst hhost hsite
      obtain ⟨hside, hreason, hpmap, -⟩ := failInfo_fields true false (reason := 1) (pmap := r) (attempts := 1)
        (by decide) hr (by decide)
      refine ⟨t, hexec, ?_, ?_, ?_, ?_, ?_, hshown.addr, hshown.tallies, hshown.mem⟩
      · rw [hshown.channel]; rfl
      · rw [hshown.channel]; rfl
      · rw [State.field, hshown.info, hside]; rfl
      · rw [State.field, hshown.info, hreason]
      · rw [State.field, hshown.info, hpmap]

end Sys2Proof.Machine
end

section
/-! PROOF. Where two states differ: the areas of the state that an operation can change. -/
namespace Sys2Proof.Machine

/-! ### Areas -/

/-- The areas of the state: its fields. -/
inductive Area where
  | pending | out | free | refcnt | io | mem | cores | wins | winTurn | tallies | dies | opNum | ridges | dmas | ports | fab | cfls
  | treads | stepm | oxb | dig | board | mgmt | lad | host | plat | boot | checks | transit | fwait | faulted
deriving DecidableEq

/-- `x` where the area is of the list, else `y`. -/
def Area.pick {β : Type} (a : Area) (l : List Area) (x y : β) : β := if a ∈ l then x else y

theorem Area.pick_self {β : Type} (a : Area) (l : List Area) (x : β) : a.pick l x x = x := ite_self _

theorem Area.pick_of_notMem {β : Type} {a : Area} {l : List Area} (h : a ∉ l) (x y : β) : a.pick l x y = y := if_neg h

theorem Area.pick_pick {β : Type} (a : Area) (l : List Area) (x y z : β) : a.pick l x (a.pick l y z) = a.pick l x z := by
  unfold Area.pick; split <;> rfl

theorem Area.pick_sub {β : Type} {l m : List Area} (h : m ⊆ l) (a : Area) (x y : β) :
    a.pick l (a.pick m x y) y = a.pick m x y := by
  unfold Area.pick
  by_cases hl : a ∈ l
  · rw [if_pos hl]
  · rw [if_neg hl, if_neg fun hm => hl (h hm)]

/-- The state that takes the areas `l` from `t` and the others from `s`. -/
def State.over (s : State) (l : List Area) (t : State) : State where
  pending := Area.pending.pick l t.pending s.pending
  out := Area.out.pick l t.out s.out
  free := Area.free.pick l t.free s.free
  refcnt := Area.refcnt.pick l t.refcnt s.refcnt
  io := Area.io.pick l t.io s.io
  mem := Area.mem.pick l t.mem s.mem
  cores := Area.cores.pick l t.cores s.cores
  wins := Area.wins.pick l t.wins s.wins
  winTurn := Area.winTurn.pick l t.winTurn s.winTurn
  tallies := Area.tallies.pick l t.tallies s.tallies
  dies := Area.dies.pick l t.dies s.dies
  opNum := Area.opNum.pick l t.opNum s.opNum
  ridges := Area.ridges.pick l t.ridges s.ridges
  dmas := Area.dmas.pick l t.dmas s.dmas
  ports := Area.ports.pick l t.ports s.ports
  fab := Area.fab.pick l t.fab s.fab
  cfls := Area.cfls.pick l t.cfls s.cfls
  treads := Area.treads.pick l t.treads s.treads
  stepm := Area.stepm.pick l t.stepm s.stepm
  oxb := Area.oxb.pick l t.oxb s.oxb
  dig := Area.dig.pick l t.dig s.dig
  board := Area.board.pick l t.board s.board
  mgmt := Area.mgmt.pick l t.mgmt s.mgmt
  lad := Area.lad.pick l t.lad s.lad
  host := Area.host.pick l t.host s.host
  plat := Area.plat.pick l t.plat s.plat
  boot := Area.boot.pick l t.boot s.boot
  checks := Area.checks.pick l t.checks s.checks
  transit := Area.transit.pick l t.transit s.transit
  fwait := Area.fwait.pick l t.fwait s.fwait
  faulted := Area.faulted.pick l t.faulted s.faulted

/-- `t` differs from `s` in the areas `l` only. -/
def State.within (s : State) (l : List Area) (t : State) : Prop := t = s.over l t

theorem State.within.refl (s : State) (l : List Area) : s.within l s := by simp only [State.within, State.over, Area.pick_self]

section
variable {s t u : State} {l m : List Area}

theorem State.within.trans (h : s.within l t) (hu : t.within l u) : s.within l u := by
  calc u = t.over l u := hu
    _ = (s.over l t).over l u := by rw [← h]
    _ = s.over l u := by simp only [State.over, Area.pick_pick]

theorem State.within.mono (hm : m ⊆ l) (h : s.within m t) : s.within l t := by
  calc t = s.over m t := h
    _ = s.over l (s.over m t) := by simp only [State.over, Area.pick_sub hm]
    _ = s.over l t := by rw [← h]

theorem State.within.then (hm : m ⊆ l) (h : s.within l t) (hu : t.within m u) : s.within l u :=
  h.trans (hu.mono hm)

theorem State.within.ite {p : Prop} [Decidable p] (ht : p → s.within l t) (hu : ¬p → s.within l u) :
    s.within l (if p then t else u) := by
  split
  · exact ht ‹_›
  · exact hu ‹_›

theorem State.within.foldl {α : Type} {f : State → α → State} (h : ∀ (t : State) (x : α), t.within l (f t x)) (xs : List α)
    (s : State) : s.within l (xs.foldl f s) := by
  induction xs generalizing s with
  | nil => exact .refl s l
  | cons x xs ih => exact (h s x).trans (ih _)

/-- A fold over a state and what is carried along with it. -/
theorem State.within.foldl_fst {α β : Type} {f : State × β → α → State × β} (h : ∀ (a : State × β) (x : α), a.1.within l (f a x).1) (xs : List α)
    (a : State × β) : a.1.within l (xs.foldl f a).1 := by
  induction xs generalizing a with
  | nil => exact .refl a.1 l
  | cons x xs ih => exact (h a x).trans (ih _)

/-! ### What is left alone -/

theorem State.within.pending (h : s.within l t) (hn : Area.pending ∉ l) : t.pending = s.pending :=
  (congrArg State.pending h).trans (Area.pick_of_notMem hn _ _)
theorem State.within.out (h : s.within l t) (hn : Area.out ∉ l) : t.out = s.out :=
  (congrArg State.out h).trans (Area.pick_of_notMem hn _ _)
theorem State.within.free (h : s.within l t) (hn : Area.free ∉ l) : t.free = s.free :=
  (congrArg State.free h).trans (Area.pick_of_notMem hn _ _)
theorem State.within.refcnt (h : s.within l t) (hn : Area.refcnt ∉ l) : t.refcnt = s.refcnt :=
  (congrArg State.refcnt h).trans (Area.pick_of_notMem hn _ _)
theorem State.within.io (h : s.within l t) (hn : Area.io ∉ l) : t.io = s.io :=
  (congrArg State.io h).trans (Area.pick_of_notMem hn _ _)
theorem State.within.mem (h : s.within l t) (hn : Area.mem ∉ l) : t.mem = s.mem :=
  (congrArg State.mem h).trans (Area.pick_of_notMem hn _ _)
theorem State.within.cores (h : s.within l t) (hn : Area.cores ∉ l) : t.cores = s.cores :=
  (congrArg State.cores h).trans (Area.pick_of_notMem hn _ _)
theorem State.within.wins (h : s.within l t) (hn : Area.wins ∉ l) : t.wins = s.wins :=
  (congrArg State.wins h).trans (Area.pick_of_notMem hn _ _)
theorem State.within.winTurn (h : s.within l t) (hn : Area.winTurn ∉ l) : t.winTurn = s.winTurn :=
  (congrArg State.winTurn h).trans (Area.pick_of_notMem hn _ _)
theorem State.within.tallies (h : s.within l t) (hn : Area.tallies ∉ l) : t.tallies = s.tallies :=
  (congrArg State.tallies h).trans (Area.pick_of_notMem hn _ _)
theorem State.within.dies (h : s.within l t) (hn : Area.dies ∉ l) : t.dies = s.dies :=
  (congrArg State.dies h).trans (Area.pick_of_notMem hn _ _)
theorem State.within.opNum (h : s.within l t) (hn : Area.opNum ∉ l) : t.opNum = s.opNum :=
  (congrArg State.opNum h).trans (Area.pick_of_notMem hn _ _)
theorem State.within.ridges (h : s.within l t) (hn : Area.ridges ∉ l) : t.ridges = s.ridges :=
  (congrArg State.ridges h).trans (Area.pick_of_notMem hn _ _)
theorem State.within.dmas (h : s.within l t) (hn : Area.dmas ∉ l) : t.dmas = s.dmas :=
  (congrArg State.dmas h).trans (Area.pick_of_notMem hn _ _)
theorem State.within.ports (h : s.within l t) (hn : Area.ports ∉ l) : t.ports = s.ports :=
  (congrArg State.ports h).trans (Area.pick_of_notMem hn _ _)
theorem State.within.fab (h : s.within l t) (hn : Area.fab ∉ l) : t.fab = s.fab :=
  (congrArg State.fab h).trans (Area.pick_of_notMem hn _ _)
theorem State.within.cfls (h : s.within l t) (hn : Area.cfls ∉ l) : t.cfls = s.cfls :=
  (congrArg State.cfls h).trans (Area.pick_of_notMem hn _ _)
theorem State.within.treads (h : s.within l t) (hn : Area.treads ∉ l) : t.treads = s.treads :=
  (congrArg State.treads h).trans (Area.pick_of_notMem hn _ _)
theorem State.within.stepm (h : s.within l t) (hn : Area.stepm ∉ l) : t.stepm = s.stepm :=
  (congrArg State.stepm h).trans (Area.pick_of_notMem hn _ _)
theorem State.within.oxb (h : s.within l t) (hn : Area.oxb ∉ l) : t.oxb = s.oxb :=
  (congrArg State.oxb h).trans (Area.pick_of_notMem hn _ _)
theorem State.within.dig (h : s.within l t) (hn : Area.dig ∉ l) : t.dig = s.dig :=
  (congrArg State.dig h).trans (Area.pick_of_notMem hn _ _)
theorem State.within.board (h : s.within l t) (hn : Area.board ∉ l) : t.board = s.board :=
  (congrArg State.board h).trans (Area.pick_of_notMem hn _ _)
theorem State.within.mgmt (h : s.within l t) (hn : Area.mgmt ∉ l) : t.mgmt = s.mgmt :=
  (congrArg State.mgmt h).trans (Area.pick_of_notMem hn _ _)
theorem State.within.lad (h : s.within l t) (hn : Area.lad ∉ l) : t.lad = s.lad :=
  (congrArg State.lad h).trans (Area.pick_of_notMem hn _ _)
theorem State.within.host (h : s.within l t) (hn : Area.host ∉ l) : t.host = s.host :=
  (congrArg State.host h).trans (Area.pick_of_notMem hn _ _)
theorem State.within.plat (h : s.within l t) (hn : Area.plat ∉ l) : t.plat = s.plat :=
  (congrArg State.plat h).trans (Area.pick_of_notMem hn _ _)
theorem State.within.boot (h : s.within l t) (hn : Area.boot ∉ l) : t.boot = s.boot :=
  (congrArg State.boot h).trans (Area.pick_of_notMem hn _ _)
theorem State.within.checks (h : s.within l t) (hn : Area.checks ∉ l) : t.checks = s.checks :=
  (congrArg State.checks h).trans (Area.pick_of_notMem hn _ _)
theorem State.within.transit (h : s.within l t) (hn : Area.transit ∉ l) : t.transit = s.transit :=
  (congrArg State.transit h).trans (Area.pick_of_notMem hn _ _)
theorem State.within.fwait (h : s.within l t) (hn : Area.fwait ∉ l) : t.fwait = s.fwait :=
  (congrArg State.fwait h).trans (Area.pick_of_notMem hn _ _)
theorem State.within.faulted (h : s.within l t) (hn : Area.faulted ∉ l) : t.faulted = s.faulted :=
  (congrArg State.faulted h).trans (Area.pick_of_notMem hn _ _)

end

end Sys2Proof.Machine
end

section
/-! PROOF. What the named operations can change: registers and messages, memory, the log, faults, the abort of a step. -/
namespace Sys2Proof.Machine

/-! ### Registers, messages, tallies, time -/

section
variable (s : State)

theorem State.setReg_within (p : Page) (o : Nat) (v : W32) : s.within [.io] (s.setReg p o v) := rfl
theorem State.setField_within (p : Page) (o hi lo v : Nat) : s.within [.io] (s.setField p o hi lo v) := rfl
theorem State.setFlag_within (p : Page) (o i : Nat) (b : Bool) : s.within [.io] (s.setFlag p o i b) := rfl
theorem State.addSat_within (p : Page) (o n : Nat) : s.within [.io] (s.addSat p o n) := rfl
theorem State.setReg64_within (p : Page) (o : Nat) (v : W64) : s.within [.io] (s.setReg64 p o v) := rfl
theorem State.event_within (p : Page) (code n : Nat) : s.within [.io] (s.event p code n) := s.event_eq_io p code n
theorem State.setErr_within (p : Page) (i : Nat) : s.within [.io, .out] (s.setErr p i) := s.detect_eq_io_out p _
theorem State.irqUpdate_within (p : Page) : s.within [.io, .out] (s.irqUpdate p) := s.irqUpdate_eq_io_out p

theorem State.setMem_within (m : Mem) : s.within [.mem] { s with mem := m } := rfl
theorem State.setOxb_within (o : Oxb) : s.within [.oxb] { s with oxb := o } := rfl
theorem State.setMgmt_within (m : Mgmt) : s.within [.mgmt] { s with mgmt := m } := rfl
theorem State.setFaulted_within (f : NatSet) : s.within [.faulted] { s with faulted := f } := rfl
theorem State.setPort_within (p : Nat) (k : Port) : s.within [.ports] (s.setPort p k) := rfl
theorem State.setCfl_within (e : Nat) (k : Cfl) : s.within [.cfls] (s.setCfl e k) := rfl
theorem State.setTread_within (q : Nat) (r : Option TableRead) : s.within [.treads] (s.setTread q r) := rfl
theorem State.setRidge_within (n : Nat) (r : Ridge) : s.within [.ridges] (s.setRidge n r) := rfl
theorem State.fresh_within : s.within [.free] s.fresh := rfl

theorem State.storeBits_within (p : Page) (o : Nat) (v : W32) : s.within [.io] (s.storeBits p o v) := by
  unfold State.storeBits
  split
  · exact .refl _ _
  · exact s.setReg_within _ _ _

theorem State.setTally_within (t : Nat) (v : W32) : s.within [.tallies, .host, .wins, .cores] (s.setTally t v) := rfl

theorem State.addTally_within (t : Nat) (n : W32) : s.within [.tallies, .host, .wins, .cores, .io] (s.addTally t n) :=
  ((s.setTally_within t _).mono (by decide)).then (by decide) (State.event_within _ _ _ _)

theorem State.opTally_within (t c : Nat) : s.within [.tallies, .host, .wins, .cores, .io, .out] (s.opTally t c) := by
  unfold State.opTally
  refine .ite (fun _ => ((s.addTally_within t 1).mono (by decide))) fun _ => ?_
  refine State.within.then (by decide) ?_ (State.setErr_within _ _ _)
  exact .ite (fun _ => .refl _ _) fun _ => ((s.setReg_within _ _ _).mono (by decide))

theorem State.tickPage_within (n : Nat) (p : Page) : s.within [.io] (s.tickPage n p) := by
  have h := (s.event_within p 0x01 n).then (by decide) (State.event_within _ p 0x00 (Config.freeNat s.free (2 ^ 26 * s.refcnt.toNat + p.base)))
  unfold State.tickPage
  dsimp only
  split
  · exact .ite (fun _ => h.then (by decide) (State.event_within _ _ _ _)) fun _ => h
  · exact h

theorem State.passTime_within (n : Nat) : s.within [.io, .refcnt] (s.passTime n) :=
  State.within.trans (t := { s with refcnt := s.refcnt + w64 n }) rfl
    (.foldl (fun t p => ((t.tickPage_within n p).mono (by decide))) _ _)

theorem State.advance_within (since : W64) (n : Nat) : s.within [.io, .refcnt] (s.advance since n) :=
  .ite (fun _ => .refl _ _) fun _ => s.passTime_within _

/-! ### Memory -/

theorem State.WritesMem.within {s t : State} (h : s.WritesMem t) : s.within [.mem] t := h.only_mem

theorem State.poisonCount_within (g : Nat) : s.within [.mem, .io] (s.poisonCount g) :=
  .ite (fun _ => .refl _ _) fun _ => rfl

theorem State.poisonWrite_within (g : Nat) : s.within [.mem, .io] (s.poisonWrite g) :=
  ((s.markFrame_writes g).within.mono (by decide)).trans (State.poisonCount_within _ g)

theorem State.putLocal_within (key : Nat) (bs : List OutByte) : s.within [.mem, .io] (s.putLocal key bs) :=
  ((s.hbmPut_writes _).within.mono (by decide)).trans (.foldl (fun t g => t.poisonWrite_within g) _ _)

theorem State.smear_within (race : Nat → Bool) (a n key : Nat) : s.within [.mem, .free] (s.smear race a n key) :=
  .ite (fun _ => .refl _ _) fun _ => ((s.hbmPut_writes _).within.mono (by decide)).trans rfl

theorem State.putBoard_within (a key : Nat) (bs : List OutByte) : s.within [.mem, .io, .free] (s.putBoard a key bs) :=
  ((s.putLocal_within key bs).mono (by decide)).then (by decide) (State.smear_within _ _ _ _ _)

theorem State.putPieces_within (a : Nat) (l : List (Nat × Nat × Nat)) (bs : List OutByte) :
    s.within [.mem, .io, .free] (s.putPieces a l bs) :=
  .foldl (fun t _ => t.putBoard_within _ _ _) _ _

theorem State.recordXlate_within (reason req c inst a : Nat) : s.within [.io, .out] (s.recordXlate reason req c inst a) := by
  refine State.within.then (by decide) (.ite (fun _ => .refl _ _) fun _ => ?_) (State.setErr_within _ _ _)
  exact ((((s.setReg_within _ _ _).trans (State.setReg_within _ _ _ _)).trans (State.setReg_within _ _ _ _)).mono (by decide))

/-! ### The log and escalation -/

theorem State.flashPut_within (o : Nat) (bs : List Byte) : s.within [.board] (s.flashPut o bs) := rfl

theorem State.flashErase_within (o n : Nat) : s.within [.board] (s.flashErase o n) := rfl

theorem State.uhlPut_within (r : UhlRec) : s.within [.io, .out, .board, .mgmt] (s.uhlPut r) := by
  unfold State.uhlPut
  refine .ite (fun _ => ((s.setErr_within _ _).mono (by decide))) fun _ => ?_
  extract_lets i t1 m t2 t3
  have h1 : s.within [.io, .out, .board, .mgmt] t1 := ((s.flashPut_within _ _).mono (by decide))
  clear_value t1
  have h2 : s.within [.io, .out, .board, .mgmt] t2 := h1.trans rfl
  have h3 : s.within [.io, .out, .board, .mgmt] t3 := h2.then (by decide) (t2.setReg_within _ _ _)
  exact (h3.then (by decide) (t3.setReg_within _ _ _)).then (by decide) (State.event_within _ _ _ _)

theorem State.uhlRoom_within : s.within [.io, .out, .board, .mgmt] s.uhlRoom := by
  unfold State.uhlRoom
  extract_lets i sec used log gone keep t1 t2
  refine .ite (fun _ => .refl _ _) fun _ => ?_
  have h1 : s.within [.io, .out, .board, .mgmt] t1 := ((s.flashErase_within _ _).mono (by decide)).then (by decide) (State.event_within _ _ _ _)
  have h2 : s.within [.io, .out, .board, .mgmt] t2 := h1.then (by decide) (t1.setReg_within _ _ _)
  exact h2.trans (.foldl (fun t w => t.uhlPut_within _) _ _)

theorem State.uhlWrite_within (r : UhlRec) : s.within [.io, .out, .board, .mgmt] (s.uhlWrite r) :=
  s.uhlRoom_within.trans (State.uhlPut_within _ r)

theorem State.escRecord_within (level cause : Nat) : s.within [.io, .out, .board, .mgmt] (s.escRecord level cause) :=
  .ite (fun _ => .refl _ _) fun _ => s.uhlWrite_within _

theorem State.askTray_within (level : Nat) : s.within [.io, .out, .board, .mgmt] (s.askTray level) := rfl

theorem State.escalate_within (cause : Nat) : s.within [.io, .out, .board, .mgmt] (s.escalate cause) := by
  unfold State.escalate
  refine .ite (fun _ => .refl _ _) fun _ => ?_
  extract_lets t1 t2
  have h1 : s.within [.io, .out, .board, .mgmt] t1 := ((s.setReg_within _ _ _).mono (by decide))
  have h2 : s.within [.io, .out, .board, .mgmt] t2 := (h1.then (by decide) (t1.setFlag_within _ _ _ _)).trans (State.escRecord_within _ 4 cause)
  exact .ite (fun _ => h2) fun _ => h2.then (by decide) (t2.askTray_within 4)

/-! ### Faults -/

theorem State.raiseAsync_within (c : Nat) (cause : W64) : s.within [.cores, .io, .out] (s.raiseAsync c cause) :=
  .ite (fun _ => rfl) fun _ => ((s.setErr_within _ _).mono (by decide))

theorem State.winFault_within (w reason : Nat) (seq : W32) : s.within [.wins, .io, .out] (s.winFault w reason seq) :=
  .ite (fun _ => .refl _ _) fun _ =>
    State.within.then (by decide) (t := s.setWin w _) rfl (State.setErr_within _ _ _)

theorem State.opFault_within (d : Desc) (code reason opc : Nat) :
    s.within [.faulted, .cores, .wins, .io, .out] (s.opFault d code reason opc) := by
  refine State.within.trans (t := { s with faulted := NatSet.add d.ctx s.faulted }) rfl ?_
  unfold State.opFault
  dsimp only
  split
  · exact ((State.raiseAsync_within _ _ _).mono (by decide))
  · exact ((State.winFault_within _ _ _ _).mono (by decide))
  · exact .refl _ _

theorem State.refuseDesc_within (d : Desc) (reason opc : Nat) :
    s.within [.faulted, .cores, .wins, .io, .out] (s.refuseDesc d reason opc) := by
  refine State.within.trans (t := { s with faulted := NatSet.add d.ctx s.faulted }) rfl ?_
  unfold State.refuseDesc
  dsimp only
  split
  · exact ((State.raiseAsync_within _ _ _).mono (by decide))
  · exact ((State.winFault_within _ _ _ _).mono (by decide))
  · exact .refl _ _

/-! ### What the end of a step clears (R381) -/

theorem State.scaleDrop_within (j : Nat) : s.within [.mem] (s.scaleDrop j) :=
  .ite (fun _ => .refl _ _) fun _ => .foldl (fun t _ => .ite (fun _ => .refl _ _) fun _ =>
    (t.setWinWord_writes _ _).within.trans (State.setWinWord_writes _ _ _).within) _ _

theorem State.clearBlock_within (o : Nat) : s.within [.mem] (s.clearBlock o) :=
  (s.winWrite_writes _ _).within.trans (State.setWinWord_writes _ _ _).within

theorem State.normDrop_within (j : Nat) : s.within [.mem] (s.normDrop j) :=
  .ite (fun _ => .refl _ _) fun _ =>
    State.within.trans (.foldl (fun t _ => .ite (fun _ => .refl _ _) fun _ => t.clearBlock_within _) _ _)
      (.foldl (fun t _ => .ite (fun _ => .refl _ _) fun _ => t.clearBlock_within _) _ _)

theorem State.expertDrop_within (j : Nat) : s.within [.mem] (s.expertDrop j) :=
  .ite (fun _ => .refl _ _) fun _ => .foldl (fun t _ => .ite (fun _ => .refl _ _) fun _ =>
    (t.setWinWord_writes _ _).within) _ _

theorem State.pendingDrop_within (j : Nat) : s.within [.mem] (s.pendingDrop j) :=
  ((s.scaleDrop_within j).trans (State.normDrop_within _ j)).trans (State.expertDrop_within _ j)

theorem State.accClear_within (j : Nat) : s.within [.io] (s.accClear j) :=
  .foldl (fun t n => ((t.setField_within (.acc n) 0x10C (8 * j + 3) (8 * j) 0).trans (State.setReg_within _ _ _ _)).trans
    (State.setReg_within _ _ _ _)) _ _

/-! ### The abort of a step (R391, R392) -/

theorem State.sendFlood_within (r : FReq) : s.within [.board, .fab, .fwait] (s.sendFlood r) := rfl
theorem State.ask_within (slot : Nat) (kind : AskKind) (r : FReq) : s.within [.stepm, .fwait] (s.ask slot kind r) := rfl

theorem State.abortTell_within (j cause : Nat) : s.within [.stepm, .fwait, .board, .fab] (s.abortTell j cause) := by
  unfold State.abortTell
  refine .ite (fun _ => .refl _ _) fun _ => .ite (fun _ => ?_) fun _ => ((s.sendFlood_within _).mono (by decide))
  split
  · exact ((s.ask_within _ _ _).mono (by decide))
  · exact ((s.sendFlood_within _).mono (by decide))

/-- What the abort of a step can change. -/
abbrev abortAreas : List Area := [.stepm, .fwait, .board, .fab, .io, .out, .tallies, .host, .wins, .cores, .mem]

theorem State.abortSlot_within (j cause index : Nat) (tell : Bool) : s.within abortAreas (s.abortSlot j cause index tell) := by
  unfold State.abortSlot
  extract_lets k t1 t2 t3 t4 t5 m t6
  have h1 : s.within abortAreas t1 := .ite (fun _ => ((s.abortTell_within j cause).mono (by decide))) fun _ => .refl _ _
  have h2 : s.within abortAreas t2 := h1.then (by decide) (t1.setReg_within _ _ _)
  have h3 : s.within abortAreas t3 := .ite (fun _ => h2.then (by decide) (t2.setReg_within _ _ _)) fun _ => h2
  have h4 : s.within abortAreas t4 := ((h3.then (by decide) (t3.setErr_within _ _)).then (by decide) (State.event_within _ _ _ _)).trans rfl
  have h5 : s.within abortAreas t5 := by
    simp only [t5]
    split
    · exact h4.then (by decide) (t4.opTally_within _ _)
    · exact h4.then (by decide) (t4.opTally_within _ _)
    · exact h4
  have h6 : s.within abortAreas t6 := h5.trans rfl
  exact (h6.then (by decide) (t6.pendingDrop_within j)).then (by decide) (State.accClear_within _ j)

theorem State.stepAbort_within (cause : Nat) : s.within (.mgmt :: abortAreas) (s.stepAbort cause) :=
  .ite (fun _ => ((s.abortSlot_within _ _ _ _).mono (by decide))) fun _ => .ite (fun _ => ((s.abortSlot_within _ _ _ _).mono (by decide))) fun _ =>
    .ite (fun _ => ((s.escalate_within _).mono (by decide))) fun _ => .refl _ _

end

end Sys2Proof.Machine
end

section
/-! PROOF. What the accesses of the engines, the tables at a commit, collectives, checks and the mirror can change. -/
namespace Sys2Proof.Machine

/-! ### Accesses that meet no error (R171, R184) -/

section
variable (s : State)

theorem State.lookup_clean_within (die copy a : Nat) : s.within [.io] (s.lookup die copy a .clean) :=
  .ite (fun _ => .refl _ _) fun _ => s.event_within _ _ _

theorem State.lookupRange_clean_within (die copy a n : Nat) : s.within [.io] (s.lookupRange die copy a n []) :=
  .foldl (fun t _ => t.lookup_clean_within die copy _) _ _

theorem granUses_clean {key n : Nat} {p : Nat × GranUse} (h : p ∈ granUses key n []) : p.2 = {} := by
  obtain ⟨i, -, rfl⟩ := List.mem_map.mp h
  rfl

/-- A fold whose steps are judged on the elements of the list only. -/
theorem State.within.foldl_mem {α : Type} {l : List Area} {f : State → α → State} (xs : List α)
    (h : ∀ (t : State), ∀ x ∈ xs, t.within l (f t x)) (s : State) : s.within l (xs.foldl f s) := by
  induction xs generalizing s with
  | nil => exact .refl s l
  | cons x xs ih =>
    exact (h s x List.mem_cons_self).trans (ih (fun t y hy => h t y (List.mem_cons_of_mem _ hy)) _)

theorem State.readRange_clean_within (hint key n : Nat) : s.within [.io] (s.readRange hint key n []) :=
  .foldl_mem _ (fun t p hp => by
    rw [granUses_clean hp, State.granRead_hit]
    exact t.event_within _ _ _) s

theorem State.writeRange_clean_within (hint key n : Nat) : s.within [.io] (s.writeRange hint key n []) :=
  .foldl_mem _ (fun t p hp => by
    rw [granUses_clean hp, State.granWrite_hit]
    exact t.event_within _ _ _) s

theorem State.useLocal_clean_within (wr : Bool) (hint : Nat) (l : List (Nat × Nat × Nat)) :
    s.within [.io] (s.useLocal wr hint l []) := by
  refine State.within.foldl_fst (fun x p => ?_) l (s, 0)
  dsimp only
  rw [List.drop_nil]
  exact .ite (fun _ => x.1.writeRange_clean_within _ _ _) fun _ => x.1.readRange_clean_within _ _ _

/-! ### Accesses of the step machinery (R210, R361, R376) -/

theorem State.stepXlate_within (inst reason ctx a : Nat) : s.within [.io, .out] (s.stepXlate inst reason ctx a) :=
  s.recordXlate_within _ _ _ _ _

theorem State.ownFault_within (inst a n : Nat) : s.within [.io, .out] (s.ownFault inst a n) := by
  unfold State.ownFault
  split
  · exact s.stepXlate_within _ _ _ _
  · exact .refl _ _

theorem State.readFault_within (inst ctx a n : Nat) : s.within [.io, .out] (s.readFault inst ctx a n) := by
  unfold State.readFault
  split
  · exact s.stepXlate_within _ _ _ _
  · exact .refl _ _

theorem State.stepWrite_within (ctx a : Nat) (bs : List OutByte) :
    s.within [.io, .out, .mem, .free] (s.stepWrite ctx a bs).1 := by
  unfold State.stepWrite
  extract_lets t
  have h : s.within [.io, .out, .mem, .free] t := ((s.lookupRange_clean_within _ _ _ _).mono (by decide))
  split
  · exact h.then (by decide) (t.stepXlate_within _ _ _ _)
  · exact (h.then (by decide) (t.useLocal_clean_within _ _ _)).then (by decide) (State.putPieces_within _ _ _ _)

theorem State.orHere_within (a v : Nat) : s.within [.mem] (s.orHere a v).1 := by
  unfold State.orHere
  split
  · exact .refl _ _
  · dsimp only
    split
    · exact .refl _ _
    · exact (s.hbmWrite_writes _ _).within

/-! ### The tables at a commit (R70, R143, R338, R348) -/

theorem State.scaleUpdate_within (j i : Nat) : s.within [.mem] (s.scaleUpdate j i) :=
  .ite (fun _ => (s.winWrite_writes _ _).within.trans (State.setWinWord_writes _ _ _).within) fun _ =>
    (s.setWinWord_writes _ _).within

theorem State.scaleCommit_within (j : Nat) (sel : Nat → Bool) : s.within [.mem] (s.scaleCommit j sel).1 := by
  refine State.within.foldl_fst (fun a i => ?_) _ (s, false)
  dsimp only
  repeat' split
  · exact .refl _ _
  · exact .refl _ _
  · exact .refl _ _
  · exact a.1.scaleUpdate_within j i

theorem State.normCommit_within (j : Nat) (sel : Nat → Bool) : s.within [.mem] (s.normCommit j sel).1 := by
  refine State.within.foldl_fst (fun a i => ?_) _ (s, false)
  extract_lets s o b t
  split
  · exact .refl _ _
  · split
    · exact .refl _ _
    · split
      · exact .refl _ _
      · exact State.within.trans (.ite (fun _ => (s.setWinWord_writes _ _).within.trans (State.setWinWord_writes _ _ _).within)
          fun _ => .refl _ _) (t.clearBlock_within _)

theorem State.noiseEntry_within (i j : Nat) (tok : Nat → Nat) : s.within [.mem] (s.noiseEntry i j tok) := by
  unfold State.noiseEntry
  extract_lets o b fl ms st sm bg bs bb g2 sv hs hg v t add4 num den
  have ht : s.within [.mem] t := (s.winWrite_writes _ _).within.trans (State.winWrite_writes _ _ _).within
  clear_value t
  refine .ite (fun _ => (s.setWinWord_writes _ _).within) fun _ => .ite (fun _ => .ite (fun _ => ?_) fun _ => ?_) fun _ => ?_
  · exact (ht.trans (t.setWinWord_writes _ _).within).trans (State.setWinWord_writes _ _ _).within
  · exact ht.trans (t.setWinWord_writes _ _).within
  · exact ht.trans (t.setWinWord_writes _ _).within

theorem State.noiseCommit_within (j : Nat) (tok : Nat → Nat) (linked : Nat → Bool) :
    s.within [.mem, .io] (s.noiseCommit j tok linked).1 := by
  unfold State.noiseCommit
  extract_lets x count
  have hc : ∀ (t : State) off code, t.within [.mem, .io] (count t off code) := fun t _ _ => ((t.setReg_within _ _ _).mono (by decide))
  have hx : s.within [.mem, .io] x.1 := by
    simp only [x]
    refine ((s.setReg_within .nse 0x10C 0).mono (by decide)).trans (State.within.foldl_fst (fun a i => ?_) _ (s.setReg .nse 0x10C 0, false))
    split
    · exact .refl _ _
    · split
      · split
        · exact .refl _ _
        · exact ((a.1.clearBlock_within _).mono (by decide))
      · split
        · exact .refl _ _
        · refine State.within.then (by decide) (.ite (fun _ => ((a.1.setReg_within _ _ _).mono (by decide))) fun _ => ?_) (State.clearBlock_within _ _)
          exact ((a.1.noiseEntry_within _ _ _).mono (by decide)).then (by decide) (State.event_within _ _ _ _)
  clear_value x count
  exact ((hx.trans (hc _ _ _)).trans (hc _ _ _)).trans (hc _ _ _)

theorem State.expertCommit_within (j : Nat) : s.within [.mem] (s.expertCommit j).1 := by
  unfold State.expertCommit
  split
  · exact .refl _ _
  · refine State.within.foldl_fst (fun a x => ?_) _ (s, false)
    extract_lets o t n cap past mx
    split
    · exact .refl _ _
    · split
      · exact .refl _ _
      · exact ((((t.setWinWord_writes _ _).within.trans (State.setWinWord_writes _ _ _).within).trans
          (State.setWinWord_writes _ _ _).within).trans (State.setWinWord_writes _ _ _).within)

theorem State.commitFault_within (bad : Bool) : s.within [.io, .out, .board, .mgmt] (s.commitFault bad) :=
  .ite (fun _ => ((s.setErr_within _ _).mono (by decide)).then (by decide) (State.escalate_within _ _)) fun _ => .refl _ _

theorem State.cursorsAdvance_within (k : StepSlot) : s.within [.io] (s.cursorsAdvance k) :=
  .foldl (fun t _ => t.setReg64_within _ _ _) _ _

theorem State.tablePoison_within (j : Option Nat) : s.within (.mgmt :: abortAreas) (s.tablePoison j) := by
  cases j with
  | none => exact ((s.setErr_within _ _).mono (by decide))
  | some j => exact ((s.setErr_within _ _).mono (by decide)).trans (State.stepAbort_within _ _)

theorem State.applyBatch_within (b : Batch) : s.within [.mem, .io] (s.applyBatch b) := by
  have hrec : ∀ (t : State) (r : Nat × W64), t.within [.mem, .io] (((t.setPmap r.1 r.2).setSpill r.1 r.2).event .pmap 0x03 1) :=
    fun t r =>
      have hp : t.within [.mem, .io] (t.setPmap r.1 r.2) := rfl
      (hp.trans ((State.setSpill_writes _ _ _).within.mono (by decide))).then (by decide) (State.event_within _ _ _ _)
  unfold State.applyBatch
  extract_lets t
  have ht : s.within [.mem, .io] t := .foldl hrec _ _
  refine State.within.then (by decide) ?_ (State.event_within _ _ _ _)
  exact State.within.then (by decide) (ht.trans (u := { t with mem := { t.mem with batch := none, xcache := [] } }) rfl)
    (State.setReg_within _ _ _ _)

end

end Sys2Proof.Machine
end

section
/-! PROOF. What the end of a step, the readers of participant tables, collectives, checks, the digest and the mirror can change. -/
namespace Sys2Proof.Machine

section
variable (s : State)

/-! ### The end of a step (R353) -/

theorem State.setBusy_within (k : StepSlot) : s.within [.io] (s.setBusy k) :=
  State.within.then (by decide) (State.within.foldl (fun t _ => t.setReg_within _ _ _) _ _) (State.setReg_within _ _ _ _)

theorem State.oobClear_within (j : Nat) : s.within [.io] (s.oobClear j) := rfl

theorem State.batchAtClosed_within : s.within [.mem, .io] s.batchAtClosed := by
  unfold State.batchAtClosed
  split
  · exact .ite (fun _ => s.applyBatch_within _) fun _ => .refl _ _
  · exact .refl _ _

/-! ### Participant tables and collectives (R320, R322, R333, R367) -/

theorem State.tableGot_within (q id off : Nat) (bs : Option (List OutByte)) : s.within [.treads] (s.tableGot q id off bs) := by
  unfold State.tableGot
  split
  · exact .refl _ _
  · exact .ite (fun _ => .refl _ _) fun _ => rfl

theorem State.tablePiece_within (q : Nat) (r : TableRead) (p : Nat × Nat × Nat) :
    s.within [.io, .out, .treads, .fwait] (s.tablePiece q r p) := by
  unfold State.tablePiece
  extract_lets die c t
  have ht : s.within [.io, .out, .treads, .fwait] t := ((s.lookup_clean_within _ _ _).mono (by decide))
  split
  · exact (ht.then (by decide) (t.recordXlate_within _ _ _ _ _)).then (by decide) (State.tableGot_within _ _ _ _ _)
  · exact (ht.then (by decide) (t.readRange_clean_within _ _ _)).then (by decide) (State.tableGot_within _ _ _ _ _)
  · exact ht.trans rfl

theorem State.tableAsk_within (q e : Nat) (use : TableUse) (c : Coll) :
    s.within [.io, .out, .treads, .fwait, .cfls] (s.tableAsk q e use c) := by
  unfold State.tableAsk
  extract_lets k ps r
  exact State.within.trans (t := (s.setCfl e { k with nextId := k.nextId + 1 }).setTread q (some r)) rfl
    (.foldl (fun t p => ((t.tablePiece_within q r p).mono (by decide))) _ _)

theorem State.wsStart_within (e : Nat) : s.within [.cfls, .io] (s.wsStart e) := by
  unfold State.wsStart
  extract_lets k
  split
  · exact State.within.then (by decide) (State.within.trans (t := s.setCfl e _) rfl (.refl _ _)) (State.setReg_within _ _ _ _)
  · exact .refl _ _

theorem State.tableDrop_within (e : Nat) (gone : Nat → Bool) : s.within [.cfls, .treads, .io] (s.tableDrop e gone) := by
  unfold State.tableDrop
  split
  · exact .refl _ _
  · exact .ite (fun _ => State.within.then (by decide) (t := s.setTread e none) rfl (State.wsStart_within _ _)) fun _ => .refl _ _

theorem State.collDrop_within (e : Nat) : s.within [.cfls, .io] (s.collDrop e) := by
  unfold State.collDrop
  split
  · exact .refl _ _
  · exact State.within.then (by decide) (t := s.setCfl e _) rfl (State.wsStart_within _ _)

theorem State.wsEnd_within (j : Nat) : s.within [.cfls, .io] (s.wsEnd j) := by
  unfold State.wsEnd
  split
  · exact .refl _ _
  · extract_lets e t
    have ht : s.within [.cfls, .io] t := rfl
    split
    · exact .ite (fun _ => ht.trans (State.collDrop_within _ _)) fun _ => ht
    · exact ht

theorem State.collsEnd_within (c e : Nat) : s.within [.cores, .cfls, .treads, .io] (s.collsEnd c e) := by
  unfold State.collsEnd
  extract_lets k core gone t u
  have hu : s.within [.cores, .cfls, .treads, .io] u :=
    State.within.then (by decide) (t := t.setCfl e _) rfl (State.tableDrop_within _ _ _)
  split
  · exact .ite (fun _ => hu.then (by decide) (State.collDrop_within _ _)) fun _ => hu
  · exact hu

/-! ### Cairn checks (R451, R453) -/

theorem State.cairnPending_within (j : Option Nat) (d : Int) : s.within [.io] (s.cairnPending j d) := by
  cases j with
  | none => exact .refl _ _
  | some j => rfl

/-- What the end of a check can change. -/
abbrev checkAreas : List Area := [.checks, .ridges, .io, .out, .tallies, .host, .wins, .cores]

theorem State.finishTile_within (n : Nat) (o : TileOp) : s.within checkAreas (s.finishTile n o) := by
  unfold State.finishTile
  extract_lets r t
  have ht : s.within checkAreas t := rfl
  exact .ite (fun _ => rfl) fun _ => .ite (fun _ => rfl) fun _ => .ite (fun _ => ht) fun _ => ht.then (by decide) (t.opTally_within _ _)

theorem State.abandonCheck_within (c : Check) : s.within [.checks, .io] (s.abandonCheck c) := by
  unfold State.abandonCheck
  extract_lets t
  have ht : s.within [.checks, .io] t := rfl
  exact ((ht.then (by decide) (t.cairnPending_within _ _)).then (by decide) (State.setReg_within _ _ _ _)).then (by decide) (State.event_within _ _ _ _)

theorem State.checkRelease_within (c : Check) : s.within checkAreas (s.checkRelease c) := by
  refine State.within.foldl (fun t o => ?_) _ s
  extract_lets o1 u
  have hu : t.within checkAreas u := rfl
  exact .ite (fun _ => (hu.then (by decide) (u.event_within _ _ _)).then (by decide) (State.finishTile_within _ _ _)) fun _ => hu

theorem State.abandonSample_within (c : Check) : s.within checkAreas (s.abandonSample c) :=
  ((s.abandonCheck_within c).mono (by decide)).trans (State.checkRelease_within _ c)

/-! ### The mirror and the digest (R377, R379, R465) -/

theorem State.setTag_within (m : Nat) (pending sending : Bool) (step : W32) :
    s.within [.mem] (s.setTag m pending sending step) :=
  .ite (fun _ => .refl _ _) fun _ => (s.winWrite_writes _ _).within

theorem State.settleFrame_within (f : Nat) : s.within [.mem] (s.settleFrame f) :=
  .foldl (fun t g => (t.settle_writes g).within) _ _

theorem State.pendPage_within (step : W32) (m : Nat) : s.within [.mem, .oxb] (s.pendPage step m) := by
  unfold State.pendPage
  split
  · exact .refl _ _
  · extract_lets t
    have ht : s.within [.mem, .oxb] t := ((s.settleFrame_within _).mono (by decide))
    clear_value t
    exact (ht.then (by decide) (t.setOxb_within _)).then (by decide) (State.setTag_within _ _ _ _ _)

theorem State.mirrorCommit_within (step : W32) : s.within [.mem, .oxb, .free] (s.mirrorCommit step) := by
  unfold State.mirrorCommit
  extract_lets ms m t
  have ht : s.within [.mem, .oxb, .free] t := rfl
  clear_value t
  refine State.within.then (by decide) (.ite (fun _ => ?_) fun _ => ?_) (State.fresh_within _)
  · exact ht.trans (.foldl (fun t m => ((t.pendPage_within step m).mono (by decide))) _ _)
  · exact ht.trans (.foldl (fun t m => ((t.setTag_within m false false step).mono (by decide))) _ _)

theorem State.digStart_within (step : W32) : s.within [.dig, .io, .out, .free] (s.digStart step) := by
  unfold State.digStart
  refine .ite (fun _ => .refl _ _) fun _ => ?_
  extract_lets runs x t
  have ht : s.within [.dig, .io, .out, .free] t :=
    State.within.trans (.ite (fun _ => ((s.ownFault_within _ _ _).mono (by decide))) fun _ => .refl _ _)
      (.foldl (fun t _ => ((t.ownFault_within _ _ _).mono (by decide))) _ _)
  exact ht.trans rfl

theorem State.digAtCommit_within (step : W32) : s.within [.dig, .io, .out, .free] (s.digAtCommit step) :=
  .ite (fun _ => .refl _ _) fun _ => s.digStart_within step

end

end Sys2Proof.Machine
end

section
/-! PROOF. The slots of the step machinery: which operations leave them as they are, and which keep a step past its commit point. -/
namespace Sys2Proof.Machine

/-! ### Slots -/

theorem State.slot_setSlot_same (s : State) (j : Nat) (k : StepSlot) : (s.setSlot j k).slot j = k := by
  unfold State.slot State.setSlot StepM.slot StepM.setSlot
  by_cases h : j = 0
  · simp only [if_pos h]
  · simp only [if_neg h]

/-- Slots 1 and above are one. -/
theorem State.slot_congr (s : State) {i j : Nat} (h : i = 0 ↔ j = 0) : s.slot i = s.slot j := by
  unfold State.slot StepM.slot
  simp only [h]

theorem State.slot_setSlot_other (s : State) {i j : Nat} (k : StepSlot) (h : ¬(i = 0 ↔ j = 0)) :
    (s.setSlot j k).slot i = s.slot i := by
  unfold State.slot State.setSlot StepM.slot StepM.setSlot
  by_cases hi : i = 0 <;> by_cases hj : j = 0
  · exact absurd (by simp only [hi, hj]) h
  · simp only [if_pos hi, if_neg hj]
  · simp only [if_neg hi, if_pos hj]
  · exact absurd (by simp only [hi, hj]) h

/-- The slots of `t` are those of `s`. -/
def State.SlotsAs (s t : State) : Prop := ∀ j, t.slot j = s.slot j

section
variable {s t u : State}

theorem State.SlotsAs.refl (s : State) : s.SlotsAs s := fun _ => rfl
theorem State.SlotsAs.trans (h : s.SlotsAs t) (hu : t.SlotsAs u) : s.SlotsAs u := fun j => (hu j).trans (h j)

theorem State.SlotsAs.foldl {α : Type} {f : State → α → State} (h : ∀ (t : State) (x : α), t.SlotsAs (f t x)) (xs : List α)
    (s : State) : s.SlotsAs (xs.foldl f s) := by
  induction xs generalizing s with
  | nil => exact .refl s
  | cons x xs ih => exact (h s x).trans (ih _)

theorem State.SlotsAs.ite {p : Prop} [Decidable p] (ht : s.SlotsAs t) (hu : s.SlotsAs u) : s.SlotsAs (if p then t else u) := by
  split
  · exact ht
  · exact hu

theorem State.SlotsAs.setSlot (h : s.SlotsAs t) (j : Nat) (k : StepSlot) : (s.setSlot j k).SlotsAs (t.setSlot j k) := fun i => by
  by_cases hij : i = 0 ↔ j = 0
  · rw [State.slot_congr _ hij, State.slot_congr (s.setSlot j k) hij, State.slot_setSlot_same, State.slot_setSlot_same]
  · rw [State.slot_setSlot_other _ _ hij, State.slot_setSlot_other _ _ hij, h]

theorem State.within.slotsAs {l : List Area} (hn : Area.stepm ∉ l) (h : s.within l t) : s.SlotsAs t := fun j =>
  congrArg (fun m : StepM => m.slot j) (h.stepm hn)

end

/-! ### Operations that leave the slots as they are -/

section
variable (s : State)

theorem State.ask_slots (j : Nat) (kind : AskKind) (r : FReq) : s.SlotsAs (s.ask j kind r) := fun _ => rfl
theorem State.unask_slots (f : Ask → Bool) : s.SlotsAs (s.unask f) := fun _ => rfl
theorem State.stepWait_slots : s.SlotsAs s.stepWait := fun _ => rfl

theorem State.stepPop_slots : s.SlotsAs s.stepPop := by
  unfold State.stepPop
  extract_lets m t0 t
  have ht : s.SlotsAs t := fun _ => rfl
  clear_value t
  split
  · exact ht.trans ((t.event_within _ _ _).slotsAs (by decide))
  · exact ht

theorem State.stepRefuse_slots (d : Desc) (reason : Nat) : s.SlotsAs (s.stepRefuse d reason) := by
  unfold State.stepRefuse
  extract_lets t u
  have hu : s.SlotsAs u := .ite s.stepPop_slots (s.stepPop_slots.trans ((t.setReg_within _ _ _).slotsAs (by decide)))
  exact (hu.trans ((u.setErr_within _ _).slotsAs (by decide))).trans ((State.refuseDesc_within _ _ _ _).slotsAs (by decide))

theorem State.stepTally_slots (d : Desc) : s.SlotsAs (s.stepTally d) := ((s.opTally_within _ _).slotsAs (by decide))

theorem State.abortTell_slots (j cause : Nat) : s.SlotsAs (s.abortTell j cause) := by
  unfold State.abortTell
  extract_lets k done own fl
  refine .ite (.refl _) (.ite ?_ ((s.sendFlood_within _).slotsAs (by decide)))
  split
  · exact s.ask_slots _ _ _
  · exact ((s.sendFlood_within _).slotsAs (by decide))

theorem State.stragJudge_slots (recs : List (List W32)) : s.SlotsAs (s.stragJudge recs) :=
  .ite (fun _ => rfl) (.ite (.refl _) fun _ => rfl)

theorem State.readFault_slots (inst ctx a n : Nat) : s.SlotsAs (s.readFault inst ctx a n) := ((s.readFault_within _ _ _ _).slotsAs (by decide))
theorem State.stepWrite_slots (ctx a : Nat) (bs : List OutByte) : s.SlotsAs (s.stepWrite ctx a bs).1 :=
  ((s.stepWrite_within _ _ _).slotsAs (by decide))

/-- Writes to a partner. -/
theorem State.putTo_slots {s t : State} {slot : Nat} {kind : AskKind} {ctx w a : Nat} {bs : List OutByte}
    (h : s.putTo slot kind ctx w a bs = some t) : s.SlotsAs t := by
  obtain ⟨d, -, rfl⟩ := Option.map_eq_some_iff.mp h
  exact .foldl (fun t _ => t.ask_slots _ _ _) _ _

/-- A fold that may fail. -/
theorem State.SlotsAs.foldl_bind {α : Type} {f : State → α → Option State} (hf : ∀ t x u, f t x = some u → t.SlotsAs u)
    (xs : List α) {s t : State} (o : Option State) (ho : ∀ u, o = some u → s.SlotsAs u)
    (h : xs.foldl (fun o x => o.bind fun t => f t x) o = some t) : s.SlotsAs t := by
  induction xs generalizing o with
  | nil => exact ho t h
  | cons x xs ih =>
    refine ih _ (fun u hu => ?_) h
    obtain ⟨v, hv, hu⟩ := Option.bind_eq_some_iff.mp hu
    exact (ho v hv).trans (hf v x u hu)

theorem State.putWays_slots {s t : State} {slot : Nat} {kind : AskKind} {ctx : Nat} {a : Nat → Nat} {bs : List OutByte}
    (h : s.putWays slot kind ctx a bs = some t) : s.SlotsAs t :=
  .foldl_bind (fun _ _ _ hu => State.putTo_slots hu) _ (some s) (fun _ hu => Option.some.inj hu ▸ .refl s) h

theorem State.journalSend_slots {s t : State} {j : Nat} {kind : AskKind} (h : s.journalSend j kind = some t) : s.SlotsAs t := by
  unfold State.journalSend at h
  extract_lets k at h
  split at h
  · cases h
  · exact State.putWays_slots h

theorem State.sealZero_slots {s t : State} {j : Nat} {kind : AskKind} (h : s.sealZero j kind = some t) : s.SlotsAs t :=
  State.putTo_slots h

theorem State.mirrorHalt_slots : s.SlotsAs s.mirrorHalt := s.unask_slots _

theorem State.mirrorFail_slots : s.SlotsAs s.mirrorFail := by
  unfold State.mirrorFail
  extract_lets t m
  have ht : s.SlotsAs t := by
    simp only [t]
    split
    · exact ((s.setTag_within _ _ _ _).slotsAs (by decide))
    · exact .refl _
  have hm : t.SlotsAs t.mirrorHalt := t.mirrorHalt_slots
  refine (ht.trans hm).trans (State.SlotsAs.trans ?_ ((State.setErr_within _ _ _).slotsAs (by decide)))
  exact ((t.mirrorHalt.setOxb_within _).slotsAs (by decide))

end

end Sys2Proof.Machine
end

section
/-! PROOF. What a step past its commit point may become (R353, R366, R369). -/
namespace Sys2Proof.Machine

/-- Only in SEAL, COMMIT and MIRROR is a step past its commit point. -/
def StepSlot.CommitOk (k : StepSlot) : Prop := k.pastCommit = true → k.st = .seal ∨ k.st = .commit ∨ k.st = .mirror

/-- A slot `k` that becomes `k'` without reaching COMMIT from SEAL or being CLOSED. -/
def StepSlot.Steady (k k' : StepSlot) : Prop :=
  (k.CommitOk → k'.CommitOk) ∧ (k.pastCommit = true → k'.pastCommit = true ∧ (k.st = .seal → k'.st = .seal))

/-- In another state a step is not past it. -/
theorem StepSlot.CommitOk.not_past {k : StepSlot} {x : SlotSt} (hx : x ≠ .seal ∧ x ≠ .commit ∧ x ≠ .mirror) (h : k.CommitOk)
    (hst : k.st = x) : k.pastCommit = false := by
  obtain ⟨hs, hc, hm⟩ := hx
  by_contra hp
  rcases h (eq_true_of_ne_false hp) with h | h | h
  · exact hs (hst.symm.trans h)
  · exact hc (hst.symm.trans h)
  · exact hm (hst.symm.trans h)

/-- A slot that has not reached its commit point becomes any slot that is in order. -/
theorem StepSlot.Steady.of_not_past {k k' : StepSlot} (h : k.pastCommit = false) (hk : k'.CommitOk) : k.Steady k' :=
  ⟨fun _ => hk, fun hp => absurd (hp.symm.trans h) (by decide)⟩

/-- The state and the commit point stay. -/
theorem StepSlot.Steady.of_eq {k k' : StepSlot} (hst : k'.st = k.st) (hp : k'.pastCommit = k.pastCommit) : k.Steady k' := by
  unfold StepSlot.Steady StepSlot.CommitOk
  rw [hst, hp]
  exact ⟨id, fun h => ⟨h, id⟩⟩

theorem StepSlot.commitOk_of_not_past {k : StepSlot} (h : k.pastCommit = false) : k.CommitOk :=
  fun hp => absurd (hp.symm.trans h) (by decide)

theorem StepSlot.not_past_of_abortable {k : StepSlot} (h : k.abortable = true) : k.pastCommit = false := by
  unfold StepSlot.abortable at h
  simpa using (Bool.and_eq_true_iff.mp h).2

/-- Both slots are in order. -/
def State.CommitOk (s : State) : Prop := ∀ j, (s.slot j).CommitOk

/-- No slot reaches COMMIT from SEAL or is CLOSED. -/
def State.Steady (s t : State) : Prop := ∀ j, (s.slot j).Steady (t.slot j)

/-- What a command may do (R369): a step past its commit point stays so, or its slot, not in SEAL, becomes FREE. -/
def State.KeepsCommits (s t : State) : Prop :=
  ∀ j, (t.slot j).CommitOk ∧
    ((s.slot j).pastCommit = true → (t.slot j).pastCommit = true ∨ ((s.slot j).st ≠ .seal ∧ t.slot j = {}))

/-- Slots in MIRROR may become FREE, and nothing else changes. -/
def State.Closes (s t : State) : Prop := ∀ j, t.slot j = s.slot j ∨ ((s.slot j).st = .mirror ∧ t.slot j = {})

section
variable {s t u : State}

theorem State.SlotsAs.steady (h : s.SlotsAs t) : s.Steady t := fun j => .of_eq (by rw [h]) (by rw [h])

theorem State.Steady.refl (s : State) : s.Steady s := (State.SlotsAs.refl s).steady

theorem State.Steady.trans (h : s.Steady t) (hu : t.Steady u) : s.Steady u := fun j =>
  ⟨fun hs => (hu j).1 ((h j).1 hs), fun hp =>
    have ht := (h j).2 hp
    have hu := (hu j).2 ht.1
    ⟨hu.1, fun hs => hu.2 (ht.2 hs)⟩⟩

theorem State.Steady.then (h : s.Steady t) (hu : t.SlotsAs u) : s.Steady u := h.trans hu.steady

theorem State.Steady.ok (h : s.Steady t) (hs : s.CommitOk) : t.CommitOk := fun j => (h j).1 (hs j)

theorem State.Steady.foldl {α : Type} {f : State → α → State} (h : ∀ (t : State) (x : α), t.Steady (f t x)) (xs : List α)
    (s : State) : s.Steady (xs.foldl f s) := by
  induction xs generalizing s with
  | nil => exact .refl s
  | cons x xs ih => exact (h s x).trans (ih _)

theorem State.Steady.ite {p : Prop} [Decidable p] (ht : s.Steady t) (hu : s.Steady u) : s.Steady (if p then t else u) := by
  split
  · exact ht
  · exact hu

theorem State.SlotsAs.ok (h : s.SlotsAs t) (hs : s.CommitOk) : t.CommitOk := h.steady.ok hs

theorem State.setSlot_steady (s : State) (j : Nat) {k : StepSlot} (h : (s.slot j).Steady k) : s.Steady (s.setSlot j k) := fun i => by
  by_cases hij : i = 0 ↔ j = 0
  · rw [State.slot_congr s hij, State.slot_congr (s.setSlot j k) hij, State.slot_setSlot_same]
    exact h
  · rw [State.slot_setSlot_other _ _ hij]
    exact .of_eq rfl rfl

/-- A slot is replaced by one of the same state and commit point. -/
theorem State.setSlot_steady_of_eq (s : State) (j : Nat) {k : StepSlot} (hst : k.st = (s.slot j).st)
    (hp : k.pastCommit = (s.slot j).pastCommit) : s.Steady (s.setSlot j k) := s.setSlot_steady j (.of_eq hst hp)

theorem State.Steady.keeps (h : s.Steady t) (hs : s.CommitOk) : s.KeepsCommits t := fun j =>
  ⟨h.ok hs j, fun hp => .inl ((h j).2 hp).1⟩

theorem State.SlotsAs.keeps (h : s.SlotsAs t) (hs : s.CommitOk) : s.KeepsCommits t := h.steady.keeps hs

theorem State.KeepsCommits.then (h : s.KeepsCommits t) (hu : t.SlotsAs u) : s.KeepsCommits u := fun j => by
  rw [hu]
  exact h j

theorem State.Closes.refl (s : State) : s.Closes s := fun _ => .inl rfl

theorem State.Closes.trans (h : s.Closes t) (hu : t.Closes u) : s.Closes u := fun j => by
  rcases h j with h | ⟨hs, h⟩ <;> rcases hu j with hu | ⟨ht, hu⟩
  · exact .inl (hu.trans h)
  · exact .inr ⟨h ▸ ht, hu⟩
  · exact .inr ⟨hs, hu.trans h⟩
  · exact .inr ⟨hs, hu⟩

/-- Whatever leaves the commit points as they are, and then only closes, keeps the rule. -/
theorem State.Steady.keeps_closing (h : s.Steady t) (hs : s.CommitOk) (hu : t.Closes u) : s.KeepsCommits u := fun j => by
  rcases hu j with hu | ⟨ht, hu⟩
  · rw [hu]
    exact h.keeps hs j
  · rw [hu]
    refine ⟨StepSlot.commitOk_of_not_past rfl, fun hp => .inr ⟨fun hseal => ?_, rfl⟩⟩
    exact absurd (((h j).2 hp).2 hseal) (ht ▸ by decide)

end

/-! ### The abort of a step -/

section
variable (s : State)

/-- The slot of a step once the step has aborted. -/
def StepSlot.abort (k : StepSlot) : StepSlot := { k with st := .aborted, act := if k.st = .vote then k.act else none }

/-- The slot of a step that aborts is ABORTED; nothing else changes in the slots. -/
theorem State.abortSlot_slots (j cause index : Nat) (tell : Bool) :
    (s.setSlot j (s.slot j).abort).SlotsAs (s.abortSlot j cause index tell) := by
  unfold State.abortSlot
  extract_lets k t1 t2 t3 t4 t5 m t6
  have h3 : s.SlotsAs t3 := by
    have h1 : s.SlotsAs t1 := .ite (s.abortTell_slots j cause) (.refl _)
    have h2 : s.SlotsAs t2 := h1.trans ((t1.setReg_within _ _ _).slotsAs (by decide))
    exact .ite (h2.trans ((t2.setReg_within _ _ _).slotsAs (by decide))) h2
  have h4 : (s.setSlot j k.abort).SlotsAs t4 :=
    ((h3.trans ((t3.setErr_within _ _).slotsAs (by decide))).trans ((State.event_within _ _ _ _).slotsAs (by decide))).setSlot j _
  have h5 : t4.SlotsAs t5 := by
    simp only [t5]
    split
    · exact ((t4.opTally_within _ _).slotsAs (by decide))
    · exact ((t4.opTally_within _ _).slotsAs (by decide))
    · exact .refl _
  have h6 : t5.SlotsAs t6 := fun _ => rfl
  exact ((h4.trans h5).trans h6).trans (((t6.pendingDrop_within j).slotsAs (by decide)).trans ((State.accClear_within _ j).slotsAs (by decide)))

theorem State.abortSlot_steady (j cause index : Nat) (tell : Bool) (h : (s.slot j).pastCommit = false) :
    s.Steady (s.abortSlot j cause index tell) :=
  (s.setSlot_steady j (.of_not_past (k' := (s.slot j).abort) h (StepSlot.commitOk_of_not_past h))).then (s.abortSlot_slots j cause index tell)

theorem State.stepAbort_steady (cause : Nat) : s.Steady (s.stepAbort cause) := by
  unfold State.stepAbort
  split
  · exact s.abortSlot_steady 0 _ _ _ (StepSlot.not_past_of_abortable ‹_›)
  · split
    · exact s.abortSlot_steady 1 _ _ _ (StepSlot.not_past_of_abortable ‹_›)
    · exact .ite ((s.escalate_within _).slotsAs (by decide)).steady (.refl _)

theorem State.tablePoison_steady (j : Option Nat) : s.Steady (s.tablePoison j) := by
  cases j with
  | none => exact ((s.setErr_within _ _).slotsAs (by decide)).steady
  | some j => exact State.Steady.trans ((s.setErr_within _ _).slotsAs (by decide)).steady (State.stepAbort_steady _ _)

theorem State.normEval_steady (j : Nat) : s.Steady (s.normEval j) := by
  unfold State.normEval
  extract_lets pois live bad t u
  have hu : s.SlotsAs u :=
    (State.SlotsAs.trans ((s.setReg_within _ _ _).slotsAs (by decide)) ((State.setReg_within _ _ _ _).slotsAs (by decide))).trans ((t.event_within _ _ _).slotsAs (by decide))
  exact .ite hu.steady (hu.steady.trans (u.tablePoison_steady _))

end

end Sys2Proof.Machine
end

section
/-! PROOF. The commands of the step machinery and of Oxbow keep every step past its commit point (R369). -/
namespace Sys2Proof.Machine

/-! ### Slots that keep their state and their commit point -/

/-- Every slot keeps its state and its commit point. -/
def State.Stays (s t : State) : Prop := ∀ j, (t.slot j).st = (s.slot j).st ∧ (t.slot j).pastCommit = (s.slot j).pastCommit

section
variable {s t u : State}

theorem State.SlotsAs.stays (h : s.SlotsAs t) : s.Stays t := fun j => by
  rw [h]
  exact ⟨rfl, rfl⟩

theorem State.Stays.refl (s : State) : s.Stays s := fun _ => ⟨rfl, rfl⟩

theorem State.Stays.trans (h : s.Stays t) (hu : t.Stays u) : s.Stays u := fun j =>
  ⟨(hu j).1.trans (h j).1, (hu j).2.trans (h j).2⟩

theorem State.Stays.then (h : s.Stays t) (hu : t.SlotsAs u) : s.Stays u := h.trans hu.stays

theorem State.Stays.steady (h : s.Stays t) : s.Steady t := fun j => .of_eq (h j).1 (h j).2

theorem State.Stays.foldl {α : Type} {f : State → α → State} (h : ∀ (t : State) (x : α), t.Stays (f t x)) (xs : List α)
    (s : State) : s.Stays (xs.foldl f s) := by
  induction xs generalizing s with
  | nil => exact .refl s
  | cons x xs ih => exact (h s x).trans (ih _)

theorem State.Stays.not_past (h : s.Stays t) {j : Nat} (hp : (s.slot j).pastCommit = false) : (t.slot j).pastCommit = false :=
  (h j).2.trans hp

theorem State.SlotsAs.not_past (h : s.SlotsAs t) {j : Nat} (hp : (s.slot j).pastCommit = false) :
    (t.slot j).pastCommit = false := h.stays.not_past hp

theorem State.setSlot_stays (s : State) (j : Nat) {k : StepSlot} (hst : k.st = (s.slot j).st)
    (hp : k.pastCommit = (s.slot j).pastCommit) : s.Stays (s.setSlot j k) := fun i => by
  by_cases hij : i = 0 ↔ j = 0
  · rw [State.slot_congr s hij, State.slot_congr (s.setSlot j k) hij, State.slot_setSlot_same]
    exact ⟨hst, hp⟩
  · rw [State.slot_setSlot_other _ _ hij]
    exact ⟨rfl, rfl⟩

/-- A step that has not reached its commit point goes to a state in order. -/
theorem State.setSlot_steady_of_not_past (s : State) (j : Nat) {k : StepSlot} (h : (s.slot j).pastCommit = false)
    (hk : k.CommitOk) : s.Steady (s.setSlot j k) := s.setSlot_steady j (.of_not_past h hk)

end

/-! ### Taking an action (R359) -/

/-- What holds of the state, of each refusal and of each action holds of the outcome. -/
theorem State.stepTake_ind {P : State → Prop} {s : State} {want : List W32 → Bool} {act : Desc → State} (h0 : P s)
    (hr : ∀ d why, P (s.stepRefuse d why)) (ha : ∀ d, want d.words = true → P (act d)) : P (s.stepTake want act) := by
  unfold State.stepTake
  split
  · exact h0
  · next d _ _ =>
    extract_lets why
    split
    · exact hr d why
    · split
      · exact ha d ‹_›
      · exact h0

theorem State.stepTakeIn_ind {P : State → Prop} {s : State} {action : Nat} {ok : StepSlot → Bool}
    {act : Desc → Nat → StepSlot → State} (h0 : P s) (hr : ∀ d why, P (s.stepRefuse d why))
    (ha : ∀ d j, ok (s.slot j) = true → P (act d j (s.slot j))) : P (s.stepTakeIn action ok act) := by
  refine State.stepTake_ind h0 hr fun d _ => ?_
  extract_lets j
  split
  · exact ha d j ‹_›
  · exact hr d 3

section
variable {s : State} (hs : s.CommitOk)
include hs

theorem State.stepTake_keeps {want : List W32 → Bool} {act : Desc → State}
    (ha : ∀ d, want d.words = true → s.KeepsCommits (act d)) : s.KeepsCommits (s.stepTake want act) :=
  State.stepTake_ind ((State.SlotsAs.refl s).keeps hs) (fun d why => (s.stepRefuse_slots d why).keeps hs) ha

theorem State.stepTakeIn_keeps {action : Nat} {ok : StepSlot → Bool} {act : Desc → Nat → StepSlot → State}
    (ha : ∀ d j, ok (s.slot j) = true → s.KeepsCommits (act d j (s.slot j))) : s.KeepsCommits (s.stepTakeIn action ok act) :=
  State.stepTakeIn_ind ((State.SlotsAs.refl s).keeps hs) (fun d why => (s.stepRefuse_slots d why).keeps hs) ha

end

/-! ### OPEN (R360 to R363) -/

section
variable (s : State)

theorem State.copyFail_stays (j : Nat) : s.Stays (s.copyFail j) := s.setSlot_stays j rfl rfl

theorem State.openCopies_stays (j : Nat) : s.Stays (s.openCopies j) := by
  unfold State.openCopies
  extract_lets k
  split
  · exact .refl s
  · split
    · next t ht =>
      obtain ⟨v, hv, ht⟩ := Option.bind_eq_some_iff.mp ht
      exact ((State.journalSend_slots hv).trans (State.sealZero_slots ht)).stays
    · exact s.copyFail_stays j

theorem State.tokenPiece_stays (j ctx base : Nat) (p : Nat × Nat × Nat) : s.Stays (s.tokenPiece j ctx base p) := by
  unfold State.tokenPiece
  split
  · exact ((s.stepXlate_within _ _ _ _).slotsAs (by decide)).stays.trans (State.copyFail_stays _ j)
  · next key _ =>
    extract_lets x
    have hx : s.SlotsAs x.1 := ((s.readRange_clean_within _ _ _).slotsAs (by decide)).trans (State.stepWrite_slots _ _ _ _)
    split
    · exact hx.stays
    · exact hx.stays.trans (State.copyFail_stays _ j)
  · exact (s.ask_slots _ _ _).stays

theorem State.openGo_stays (j : Nat) (d : Desc) (base n : Nat) (toks : List W32) (x : State × Bool) (r : Option (List W32)) :
    x.1.Stays (State.openGo j d base n toks x r) := by
  unfold State.openGo
  split
  · extract_lets t
    exact State.Stays.trans (State.Stays.foldl (fun t o => State.Stays.foldl (fun t p => t.tokenPiece_stays _ _ _ _) _ _) _ _)
      (t.openCopies_stays j)
  · exact x.1.copyFail_stays j

/-- With a slot FREE the next one is so. -/
theorem State.nextSlot_free (h : s.stepm.s0.st = .free ∨ s.stepm.s1.st = .free) : (s.slot s.nextSlot).st = .free := by
  unfold State.nextSlot
  split
  · next h0 _ => exact beq_iff_eq.mp h0
  · next _ h1 => exact beq_iff_eq.mp h1
  · next h0 h1 =>
    have hall : ∀ j, (s.slot j).st = .free := fun j => by
      unfold State.slot StepM.slot
      split
      · exact beq_iff_eq.mp h0
      · exact beq_iff_eq.mp h1
    exact hall _
  · next h0 h1 => exact absurd h (not_or.mpr ⟨beq_eq_false_iff_ne.mp h0, beq_eq_false_iff_ne.mp h1⟩)

theorem State.openNew_steady (d : Desc) (h : (s.slot s.nextSlot).pastCommit = false) : s.Steady (s.openNew d) := by
  unfold State.openNew
  extract_lets j step k head t t1 base u x
  have ht : s.SlotsAs t := ((s.stepPop_slots.trans ((State.setReg_within _ _ _ _).slotsAs (by decide))).trans
    ((State.setFlag_within _ _ _ _ _).slotsAs (by decide))).trans ((State.accClear_within _ j).slotsAs (by decide))
  clear_value t
  have hf : s.SlotsAs { t with faulted := NatSet.del d.ctx t.faulted } := ht.trans ((t.setFaulted_within _).slotsAs (by decide))
  have h1 : s.Steady t1 :=
    hf.steady.trans (State.setSlot_steady_of_not_past _ j (hf.not_past h) (StepSlot.commitOk_of_not_past rfl))
  clear_value t1
  have hx : s.Steady x.1 := (h1.then (t1.readFault_slots _ _ _ _)).then (u.stepWrite_slots _ _ _)
  exact hx.trans (State.openGo_stays _ _ _ _ _ _ _).steady

end

end Sys2Proof.Machine
end

section
/-! PROOF. The commands of a step before its commit point keep R369. -/
namespace Sys2Proof.Machine

section
variable {s t : State} (hs : s.CommitOk)
include hs

theorem execStepOpen_keeps (h : execStepOpen s = .next t) : s.KeepsCommits t := by
  obtain rfl := Host.Outcome.next.inj h
  refine State.stepTake_keeps hs fun d _ => ?_
  extract_lets m toks
  have hr : ∀ why, s.KeepsCommits (s.stepRefuse d why) := fun why => (s.stepRefuse_slots d why).keeps hs
  split
  · exact hr 3
  · split
    · exact s.stepWait_slots.keeps hs
    · next hfree =>
      split
      · exact hr 4
      · split
        · exact hr 5
        · have hfree : m.s0.st = .free ∨ m.s1.st = .free := by
            simp only [Bool.not_eq_true', Bool.not_eq_false, Bool.and_eq_true, Bool.or_eq_true, beq_iff_eq] at hfree
            exact hfree.2
          have hst := s.nextSlot_free hfree
          exact (s.openNew_steady d ((hs _).not_past (by decide) hst)).keeps hs

theorem execStepReplayOpen_keeps (h : execStepReplayOpen s = .next t) : s.KeepsCommits t := by
  obtain rfl := Host.Outcome.next.inj h
  refine State.stepTake_keeps hs fun d _ => ?_
  refine iteInduction (motive := s.KeepsCommits) (fun _ => (s.stepRefuse_slots d 3).keeps hs) fun hst => ?_
  · have hp := (hs _).not_past (by decide) (not_not.mp hst)
    extract_lets n k1 t t1 x
    have ht : s.SlotsAs t := s.stepPop_slots.trans ((State.accClear_within _ _).slotsAs (by decide))
    clear_value t
    have hf : s.SlotsAs { t with faulted := NatSet.del d.ctx t.faulted } := ht.trans ((t.setFaulted_within _).slotsAs (by decide))
    have h1 : s.Steady t1 :=
      hf.steady.trans (State.setSlot_steady_of_not_past _ _ (hf.not_past hp) (StepSlot.commitOk_of_not_past rfl))
    clear_value t1
    have hx : s.Steady x.1 := h1.then (t1.stepWrite_slots _ _ _)
    split
    · exact (hx.trans (x.1.copyFail_stays _).steady).keeps hs
    · split
      · exact hx.keeps hs
      · split
        · next u hu => exact (hx.then (State.sealZero_slots hu)).keeps hs
        · exact (hx.trans (x.1.copyFail_stays _).steady).keeps hs

omit hs in
theorem State.openSlot_st {j : Nat} (h : s.openSlot = some j) : (s.slot j).st = .opening := by
  unfold State.openSlot at h
  split at h
  · next h0 => exact Option.some.inj h ▸ beq_iff_eq.mp h0
  · split at h
    · next h1 => exact Option.some.inj h ▸ beq_iff_eq.mp h1
    · cases h

theorem execJournalCopyDone_keeps (h : execJournalCopyDone s = .next t) : s.KeepsCommits t := by
  obtain rfl := Host.Outcome.next.inj h
  split
  · exact (State.SlotsAs.refl s).keeps hs
  · next j hj =>
    have hst := State.openSlot_st hj
    have hp : (s.slot j).pastCommit = false := (hs j).not_past (by decide) hst
    extract_lets k n t u
    split
    · have he : s.SlotsAs (s.setErr .hdw 0) := ((s.setErr_within _ _).slotsAs (by decide))
      exact (he.steady.trans (State.abortSlot_steady _ j _ _ _ (he.not_past hp))).keeps hs
    · split
      · exact (State.SlotsAs.refl s).keeps hs
      · have ht : s.SlotsAs t := .ite ((s.event_within _ _ _).slotsAs (by decide)) (((((s.setReg_within _ _ _).slotsAs (by decide)).trans
          ((State.event_within _ _ _ _).slotsAs (by decide))).trans ((State.event_within _ _ _ _).slotsAs (by decide))).trans
          ((State.event_within _ _ _ _).slotsAs (by decide)))
        have hu : s.Steady u :=
          ht.steady.trans (t.setSlot_steady_of_not_past j (ht.not_past hp) (StepSlot.commitOk_of_not_past hp))
        split
        · next d _ => exact (hu.then (u.stepTally_slots d)).keeps hs
        · exact hu.keeps hs

/-! ### COMPUTE and CHECK (R364, R365) -/

theorem execSlotDone_keeps (h : execSlotDone s = .next t) : s.KeepsCommits t := by
  obtain rfl := Host.Outcome.next.inj h
  refine State.stepTakeIn_keeps hs fun d j hok => ?_
  extract_lets i vs k1 k2
  have hst := beq_iff_eq.mp hok
  have hp : (s.slot j).pastCommit = false := (hs j).not_past (by decide) hst
  split
  · exact (s.stepRefuse_slots d 3).keeps hs
  · have hk : k2.pastCommit = false := (apply_ite StepSlot.pastCommit _ _ _).trans (by rw [show k1.pastCommit = false from hp]; exact ite_self _)
    exact ((s.stepPop_slots.steady.trans (State.setSlot_steady_of_not_past _ j (s.stepPop_slots.not_past hp)
      (StepSlot.commitOk_of_not_past hk))).then (State.stepTally_slots _ d)).keeps hs

omit hs in
theorem State.checkEnd_steady (s : State) (j : Nat) (d : Desc) : s.Steady (s.checkEnd j d) := by
  unfold State.checkEnd
  extract_lets t
  have ht : s.Steady t := s.normEval_steady j
  clear_value t
  split
  · exact ht
  · refine State.Steady.then ?_ (State.stepTally_slots _ d)
    exact ht.trans (t.setSlot_steady_of_eq j rfl rfl)

theorem execStepCheck_keeps (h : execStepCheck s = .next t) : s.KeepsCommits t := by
  obtain rfl := Host.Outcome.next.inj h
  have hready : ∀ (t : State) (j : Nat) (d : Desc),
      t.Steady (if t.field .chkG (0x108 + 4 * j) 31 16 = 0 then t.checkEnd j d else t) := fun t j d =>
    .ite (t.checkEnd_steady j d) (.refl t)
  split
  · split
    · exact (hready _ _ _).keeps hs
    · exact (State.SlotsAs.refl s).keeps hs
  · refine State.stepTakeIn_keeps hs fun d j hok => ?_
    have hst := beq_iff_eq.mp hok
    have hp : (s.slot j).pastCommit = false := (hs j).not_past (by decide) hst
    refine (State.Steady.trans ?_ (hready _ _ _)).keeps hs
    exact s.stepPop_slots.steady.trans (State.setSlot_steady_of_not_past _ j (s.stepPop_slots.not_past hp)
      (StepSlot.commitOk_of_not_past hp))

end

end Sys2Proof.Machine
end

section
/-! PROOF. The Watershed keeps R369: its rounds, the seal, the commit point and the resolution. -/
namespace Sys2Proof.Machine

/-! ### The operations of the rounds -/

section
variable (s : State)

theorem State.roundStart_stays (j round : Nat) : s.Stays (s.roundStart j round) := by
  unfold State.roundStart
  extract_lets k k1
  split
  · exact .refl s
  · next v _ =>
    extract_lets r x c e
    have hx : s.SlotsAs x.1 := s.stepWrite_slots _ _ _
    have hk : (s.slot j).st = (x.1.slot j).st ∧ (s.slot j).pastCommit = (x.1.slot j).pastCommit := by rw [hx]; exact ⟨rfl, rfl⟩
    clear_value x
    refine iteInduction (fun _ => ?_) fun _ => ?_
    · exact hx.stays.trans (x.1.setSlot_stays j hk.1 hk.2)
    · have h1 : s.Stays (x.1.setSlot j k1) := hx.stays.trans (x.1.setSlot_stays j hk.1 hk.2)
      have h2 : s.Stays ((x.1.setSlot j k1).setCfl v.engine { e with wsq := e.wsq ++ [c] }) := h1.then fun _ => rfl
      exact h2.then ((State.wsStart_within _ _).slotsAs (by decide))

theorem State.voteTally_stays (j : Nat) : s.Stays (s.voteTally j) := by
  unfold State.voteTally
  split
  · exact (s.setSlot_stays j (k := { s.slot j with act := none }) rfl rfl).then (State.stepTally_slots _ _)
  · exact .refl s

theorem State.againTally_stays (j : Nat) : s.Stays (s.againTally j) := by
  unfold State.againTally
  split
  · exact (s.setSlot_stays j (k := { s.slot j with again := none }) rfl rfl).then (State.stepTally_slots _ _)
  · exact .refl s

theorem State.voteFail_steady (j : Nat) (h : (s.slot j).pastCommit = false) : s.Steady (s.voteFail j) := by
  have ht : s.Stays ((s.wsEnd j).voteTally j) := ((s.wsEnd_within j).slotsAs (by decide)).stays.trans (State.voteTally_stays _ j)
  exact ht.steady.trans (State.abortSlot_steady _ j _ _ _ (ht.not_past h))

theorem State.voteGo_steady (d : Desc) (j : Nat) (k : StepSlot) (hk : s.slot j = k) (h : k.pastCommit = false) :
    s.Steady (s.voteGo d j k) := by
  unfold State.voteGo
  split
  · exact s.stepWait_slots.steady
  · refine iteInduction (fun _ => s.stepWait_slots.steady) fun _ => ?_
    split
    · exact (s.stepRefuse_slots d 6).steady
    · refine State.Steady.trans ?_ (State.roundStart_stays _ j 1).steady
      exact s.stepPop_slots.steady.trans (State.setSlot_steady_of_not_past _ j (s.stepPop_slots.not_past (hk ▸ h))
        (StepSlot.commitOk_of_not_past h))

theorem State.sealBroken_steady : s.Steady s.sealBroken :=
  State.Steady.trans ((s.setErr_within _ _).slotsAs (by decide)).steady (State.stepAbort_steady _ _)

theorem State.sealSent_steady (ps : List (Nat × List OutByte)) (r : Option State) (h : ∀ t, r = some t → s.SlotsAs t) :
    s.Steady (s.sealSent ps r) := by
  unfold State.sealSent
  split
  · exact s.sealBroken_steady
  · exact ((h _ rfl).trans ((State.event_within _ _ _ _).slotsAs (by decide))).steady

theorem State.sealPut_steady (j : Nat) (r : Option (List (Nat × List OutByte))) : s.Steady (s.sealPut j r) := by
  unfold State.sealPut
  split
  · exact s.sealBroken_steady
  · exact s.sealSent_steady _ _ fun t ht =>
      State.SlotsAs.foldl_bind (fun _ _ _ hu => State.putWays_slots hu) _ (some s) (fun _ hu => Option.some.inj hu ▸ .refl s) ht

theorem State.sealSend_steady (j : Nat) (ext : List W32) (n : Nat) : s.Steady (s.sealSend j ext n) := by
  unfold State.sealSend
  extract_lets t u
  have ht : s.SlotsAs t := s.readFault_slots _ _ _ _
  have hu : t.SlotsAs u := .foldl (fun t e => ((t.ownFault_within _ _ _).slotsAs (by decide))) _ _
  exact (ht.trans hu).steady.trans (u.sealPut_steady j _)

/-- The commit point is reached from a slot before it. -/
theorem State.commitPoint_steady (j : Nat) (h : (s.slot j).pastCommit = false) : s.Steady (s.commitPoint j) := by
  unfold State.commitPoint
  extract_lets t k t1 m t2
  have ht : s.SlotsAs t := ((s.wsEnd_within j).slotsAs (by decide)).trans (State.unask_slots _ _)
  have h1 : s.Steady t1 := (ht.trans ((t.setReg_within _ _ _).slotsAs (by decide))).steady.trans
    (State.setSlot_steady_of_not_past _ j (ht.not_past h) fun _ => .inl rfl)
  have h2 : s.Steady t2 := h1.then fun _ => rfl
  split
  · exact h2.then (t2.stepTally_slots _)
  · exact h2

theorem State.resolveAsk_stays (j k : Nat) : s.Stays (s.resolveAsk j k) := by
  unfold State.resolveAsk
  extract_lets w r dest a v x
  have hx : s.SlotsAs x.1 := ((s.orHere_within _ _).slotsAs (by decide))
  clear_value x
  refine iteInduction (fun _ => ?_) fun _ => (s.ask_slots _ _ _).stays
  exact hx.stays.trans (x.1.setSlot_stays j rfl rfl)

theorem State.resolve_steady (j : Nat) (lack : List Nat) (h : (s.slot j).pastCommit = false) : s.Steady (s.resolve j lack) := by
  unfold State.resolve
  extract_lets t
  have ht : s.SlotsAs t := ((s.wsEnd_within j).slotsAs (by decide)).trans ((State.event_within _ _ _ _).slotsAs (by decide))
  clear_value t
  refine iteInduction (fun _ => ht.steady.trans (t.commitPoint_steady j (ht.not_past h))) fun _ => ?_
  have hr : t.Stays (t.setSlot j { t.slot j with round := 3, lack := lack, answers := [] }) := t.setSlot_stays j rfl rfl
  exact ht.steady.trans (hr.trans (State.Stays.foldl (fun t k => t.resolveAsk_stays j k) _ _)).steady

end

/-! ### Which slot a command is about -/

section
variable {s : State} {j : Nat} {v : Vote}

theorem State.voteSlot_st (h : s.voteSlot = some (j, v)) : (s.slot j).st = .vote := by
  obtain ⟨i, -, hi⟩ := List.exists_of_findSome?_eq_some h
  dsimp only at hi
  split at hi
  · next hc =>
    obtain ⟨w, -, hw⟩ := Option.map_eq_some_iff.mp hi
    obtain ⟨rfl, -⟩ := Prod.mk.inj hw
    simp only [Bool.and_eq_true, beq_iff_eq] at hc
    exact hc.1.1
  · cases hi

theorem State.round2Slot_not_past (h : s.round2Slot = some (j, v)) : (s.slot j).pastCommit = false := by
  obtain ⟨i, -, hi⟩ := List.exists_of_findSome?_eq_some h
  dsimp only at hi
  split at hi
  · next hc =>
    obtain ⟨w, -, hw⟩ := Option.map_eq_some_iff.mp hi
    obtain ⟨rfl, -⟩ := Prod.mk.inj hw
    simp only [Bool.and_eq_true, Bool.not_eq_true'] at hc
    exact hc.1.2
  · cases hi

theorem State.sealSlot_not_past (h : s.sealSlot = some j) : (s.slot j).pastCommit = false := by
  have hc := List.find?_some h
  simp only [Bool.and_eq_true, Bool.not_eq_true'] at hc
  exact hc.1.2

end

/-! ### The commands -/

section
variable {s t : State} (hs : s.CommitOk)
include hs

theorem execStepVote_keeps (h : execStepVote s = .next t) : s.KeepsCommits t := by
  obtain rfl := Host.Outcome.next.inj h
  refine State.stepTakeIn_keeps hs fun d j hok => ?_
  have hst := beq_iff_eq.mp (Bool.and_eq_true_iff.mp hok).1
  have hp : (s.slot j).pastCommit = false := (hs j).not_past (by decide) hst
  refine iteInduction (fun _ => (s.stepRefuse_slots d 6).keeps hs) fun _ =>
    iteInduction (fun _ => (s.voteGo_steady d j _ rfl hp).keeps hs) fun _ => ?_
  have ha : s.SlotsAs (s.tableAsk 8 (wfld d.words 2 2 0) .vote
      { desc := { d with words := voteTable d.words }, parts := [], since := s.refcnt }) := ((s.tableAsk_within _ _ _ _).slotsAs (by decide))
  exact (ha.steady.trans (State.voteGo_steady _ d j _ (ha j) hp)).keeps hs

theorem execVoteRound1End_keeps (h : execVoteRound1End s = .next t) : s.KeepsCommits t := by
  obtain rfl := Host.Outcome.next.inj h
  split
  · exact (State.SlotsAs.refl s).keeps hs
  · next j v hv =>
    have hp : (s.slot j).pastCommit = false := (hs j).not_past (by decide) (State.voteSlot_st hv)
    refine iteInduction (motive := s.KeepsCommits) (fun _ => (State.SlotsAs.refl s).keeps hs) fun _ => ?_
    split
    · exact (s.voteFail_steady j hp).keeps hs
    · next recs _ =>
      extract_lets t k bad unsound
      have ht : s.Stays t := s.voteTally_stays j
      have hpt := ht.not_past hp
      clear_value t bad unsound
      refine State.Steady.keeps ?_ hs
      split
      · have he : s.Stays (t.setErr .step 2) := ht.then ((t.setErr_within _ _).slotsAs (by decide))
        exact he.steady.trans (State.abortSlot_steady _ j _ _ _ (he.not_past hp))
      · exact ht.steady.trans (t.abortSlot_steady j _ _ _ hpt)
      · refine State.Steady.then (t := t.setSlot j { k with passed := true, recs := recs }) ?_ (State.stragJudge_slots _ _)
        exact ht.steady.trans (t.setSlot_steady_of_eq j rfl rfl)

theorem execVoteTimeout_keeps (h : execVoteTimeout s = .next t) : s.KeepsCommits t := by
  obtain rfl := Host.Outcome.next.inj h
  split
  · exact (State.SlotsAs.refl s).keeps hs
  · next j v hv =>
    have hp : (s.slot j).pastCommit = false := (hs j).not_past (by decide) (State.voteSlot_st hv)
    extract_lets k
    split
    · exact (State.SlotsAs.refl s).keeps hs
    · exact (s.voteFail_steady j hp).keeps hs
    · have ha := ((s.advance_within (Table.get (fun _ => 0) k.times 14) (v.voteTo * 1024)).slotsAs (by decide))
      exact (ha.steady.trans (State.voteFail_steady _ j (ha.not_past hp))).keeps hs

theorem execStepSeal_keeps (h : execStepSeal s = .next t) : s.KeepsCommits t := by
  obtain rfl := Host.Outcome.next.inj h
  refine State.stepTakeIn_keeps hs fun d j hok => ?_
  have hst := beq_iff_eq.mp (Bool.and_eq_true_iff.mp hok).1
  have hp : (s.slot j).pastCommit = false := (hs j).not_past (by decide) hst
  extract_lets a n t
  refine iteInduction (fun _ => (s.stepRefuse_slots d 7).keeps hs) fun _ => ?_
  split
  · exact ((s.readFault_slots _ _ _ _).trans (State.stepRefuse_slots _ d 7)).keeps hs
  · next ext _ =>
    refine iteInduction (fun _ => (s.stepRefuse_slots d 7).keeps hs) fun _ => ?_
    have ht : s.Steady t := s.stepPop_slots.steady.trans (State.setSlot_steady_of_not_past _ j (s.stepPop_slots.not_past hp)
      (StepSlot.commitOk_of_not_past hp))
    clear_value t
    exact (State.Steady.ite (ht.trans (t.sealSend_steady j ext n)) (ht.trans (t.roundStart_stays j 2).steady)).keeps hs

theorem execSealCopyDone_keeps (h : execSealCopyDone s = .next t) : s.KeepsCommits t := by
  obtain rfl := Host.Outcome.next.inj h
  split
  · exact (State.SlotsAs.refl s).keeps hs
  · extract_lets k
    refine iteInduction (fun _ => (State.SlotsAs.refl s).keeps hs) fun _ => ?_
    split
    · exact s.sealBroken_steady.keeps hs
    · exact (s.ask_slots _ _ _).keeps hs

theorem execSealWordReturn_keeps (h : execSealWordReturn s = .next t) : s.KeepsCommits t := by
  obtain rfl := Host.Outcome.next.inj h
  split
  · exact (State.SlotsAs.refl s).keeps hs
  · next j hj =>
    extract_lets k
    split
    · exact (State.SlotsAs.refl s).keeps hs
    · refine iteInduction (fun _ => (s.abortSlot_steady j _ _ _ (State.sealSlot_not_past hj)).keeps hs) fun _ => ?_
      refine (State.Steady.trans (t := s.setSlot j { k with complete := true }) ?_ (State.roundStart_stays _ j 2).steady).keeps hs
      exact s.setSlot_steady_of_eq j rfl rfl

theorem execVoteRound2End_keeps (h : execVoteRound2End s = .next t) : s.KeepsCommits t := by
  obtain rfl := Host.Outcome.next.inj h
  split
  · exact (State.SlotsAs.refl s).keeps hs
  · next j v hv =>
    have hp := State.round2Slot_not_past hv
    extract_lets k
    refine iteInduction (fun _ => (State.SlotsAs.refl s).keeps hs) fun _ => ?_
    split
    · exact (s.commitPoint_steady j hp).keeps hs
    · exact (s.resolve_steady j _ hp).keeps hs

theorem execSealedTimeout_keeps (h : execSealedTimeout s = .next t) : s.KeepsCommits t := by
  obtain rfl := Host.Outcome.next.inj h
  split
  · exact (State.SlotsAs.refl s).keeps hs
  · next j v hv =>
    have hp := State.round2Slot_not_past hv
    extract_lets k running t
    split
    · exact (State.SlotsAs.refl s).keeps hs
    · exact (s.resolve_steady j _ hp).keeps hs
    · have ht : s.SlotsAs t := ((s.advance_within _ _).slotsAs (by decide))
      exact (ht.steady.trans (t.resolve_steady j _ (ht.not_past hp))).keeps hs

theorem execResolutionReturn_keeps (h : execResolutionReturn s = .next t) : s.KeepsCommits t := by
  obtain rfl := Host.Outcome.next.inj h
  split
  · exact (State.SlotsAs.refl s).keeps hs
  · next j hj =>
    have hc := List.find?_some hj
    simp only [Bool.and_eq_true, Bool.not_eq_true'] at hc
    have hp : (s.slot j).pastCommit = false := hc.1.2
    refine iteInduction (motive := s.KeepsCommits) (fun _ => (State.SlotsAs.refl s).keeps hs) fun _ => ?_
    extract_lets t k ans refused silent
    have ht : s.Stays t := s.againTally_stays j
    have hpt := ht.not_past hp
    clear_value t refused silent
    refine State.Steady.keeps ?_ hs
    split
    · exact ht.steady.trans (t.abortSlot_steady j _ _ _ hpt)
    · exact ht.steady.trans (t.commitPoint_steady j hpt)
    · refine State.Steady.then (State.Steady.then (State.setSlot_steady_of_not_past _ _ hpt ?_ |> ht.steady.trans)
        ((State.setReg_within _ _ _ _).slotsAs (by decide))) ((State.setErr_within _ _ _).slotsAs (by decide))
      exact StepSlot.commitOk_of_not_past hpt

theorem execStepResolve_keeps (h : execStepResolve s = .next t) : s.KeepsCommits t := by
  obtain rfl := Host.Outcome.next.inj h
  refine State.stepTakeIn_keeps hs fun d j hok => ?_
  have hst := beq_iff_eq.mp (Bool.and_eq_true_iff.mp hok).1
  have hp : (s.slot j).pastCommit = false := (hs j).not_past (by decide) hst
  have ht : s.Stays (s.stepPop.setSlot j { s.slot j with again := some d }) := by
    refine s.stepPop_slots.stays.trans (State.setSlot_stays _ j ?_ ?_) <;> rw [s.stepPop_slots]
  exact (ht.steady.trans (State.resolve_steady _ j _ (ht.not_past hp))).keeps hs

theorem execStepDecide_keeps (value : W32) (h : execStepDecide value s = .next t) : s.KeepsCommits t := by
  obtain rfl := Host.Outcome.next.inj h
  refine iteInduction (fun _ => (State.SlotsAs.refl s).keeps hs) fun _ => ?_
  extract_lets t j
  have ht : s.SlotsAs t := ((s.storeBits_within _ _ _).slotsAs (by decide)).trans ((State.irqUpdate_within _ _).slotsAs (by decide))
  refine iteInduction (fun _ => ht.keeps hs) fun hst => ?_
  have hp : (t.slot j).pastCommit = false := (ht.ok hs j).not_past (by decide) (not_not.mp hst)
  exact iteInduction (fun _ => (ht.steady.trans (t.commitPoint_steady j hp)).keeps hs) fun _ =>
    (ht.steady.trans (t.abortSlot_steady j _ _ _ hp)).keeps hs

theorem execStragClr_keeps (value : W32) (h : execStragClr value s = .next t) : s.KeepsCommits t := by
  obtain rfl := Host.Outcome.next.inj h
  refine iteInduction (fun _ => (State.SlotsAs.refl s).keeps hs) fun _ => ?_
  have ht : s.SlotsAs ((s.storeBits .step 0x008 value).irqUpdate .step) :=
    ((s.storeBits_within _ _ _).slotsAs (by decide)).trans ((State.irqUpdate_within _ _).slotsAs (by decide))
  exact (ht.trans fun _ => rfl).keeps hs

end

end Sys2Proof.Machine
end

section
/-! PROOF. The commit, the end of a step and the mirror keep R369; the obligation. -/
namespace Sys2Proof.Machine

/-! ### COMMIT (R373, R374) -/

section
variable (s : State)

theorem State.layerUpdate_stays (j : Nat) (sel : Nat → Bool) : s.Stays (s.layerUpdate j sel) := by
  unfold State.layerUpdate
  refine iteInduction (fun _ => .refl s) fun _ => ?_
  extract_lets live k t a b
  clear_value live
  have ht : s.Stays t := s.setSlot_stays j rfl rfl
  clear_value t
  have ha : t.SlotsAs a.1 := ((t.scaleCommit_within j sel).slotsAs (by decide))
  clear_value a
  have hb : a.1.SlotsAs b.1 := ((a.1.normCommit_within j sel).slotsAs (by decide))
  clear_value b
  exact ht.then ((ha.trans hb).trans ((b.1.commitFault_within _).slotsAs (by decide)))

/-- A CLOSED slot is FREE; nothing else changes in the slots. -/
theorem State.closeSlot_slots (j : Nat) : (s.setSlot j {}).SlotsAs (s.closeSlot j) := by
  unfold State.closeSlot
  extract_lets k t u
  have ht : s.SlotsAs t := State.SlotsAs.trans (.foldl (fun t _ => ((t.setReg_within _ _ _).slotsAs (by decide))) _ _)
    ((State.setBusy_within _ k).slotsAs (by decide))
  have hu : t.SlotsAs u := (((t.setReg_within _ _ _).slotsAs (by decide)).trans ((State.accClear_within _ j).slotsAs (by decide))).trans
    ((State.oobClear_within _ j).slotsAs (by decide))
  exact ((ht.trans hu).setSlot j {}).trans ((State.batchAtClosed_within _).slotsAs (by decide))

theorem State.closeSlot_closes (j : Nat) (h : (s.slot j).st = .mirror) : s.Closes (s.closeSlot j) := fun i => by
  rw [s.closeSlot_slots j i]
  by_cases hij : i = 0 ↔ j = 0
  · rw [State.slot_congr (s.setSlot j {}) hij, State.slot_congr s hij, State.slot_setSlot_same]
    exact .inr ⟨h, rfl⟩
  · exact .inl (State.slot_setSlot_other _ _ hij)

theorem State.mirrorClose_closes : s.Closes s.mirrorClose := by
  have hf : ∀ (xs : List Nat) (s : State), s.Closes (xs.foldl (fun t j =>
      if (t.slot j).st == .mirror && !t.oxb.remirror && !(t.oxb.pend.any fun p => p.step == (t.slot j).step) then t.closeSlot j
      else t) s) := fun xs => by
    induction xs with
    | nil => exact fun s => .refl s
    | cons j xs ih =>
      intro s
      refine State.Closes.trans ?_ (ih _)
      refine iteInduction (fun h => s.closeSlot_closes j ?_) fun _ => .refl s
      simp only [Bool.and_eq_true, beq_iff_eq] at h
      exact h.1.1
  exact hf _ s

theorem State.abortScrub_stays (j : Nat) : s.Stays (s.abortScrub j) := by
  unfold State.abortScrub
  extract_lets t
  have ht : s.Stays t := (s.unask_slots _).stays.trans (State.voteTally_stays _ j)
  exact ht.trans (.foldl (fun t x => ((t.abandonSample_within x).slotsAs (by decide)).stays) _ _)

/-- The slot of an ABORTED step is CLOSED. -/
theorem State.closeSlot_steady (j : Nat) (h : (s.slot j).pastCommit = false) : s.Steady (s.closeSlot j) :=
  (s.setSlot_steady_of_not_past j h (StepSlot.commitOk_of_not_past rfl)).then (s.closeSlot_slots j)

theorem State.mirrorEnd_closes : s.Closes s.mirrorEnd := by
  unfold State.mirrorEnd
  refine iteInduction (fun _ => s.mirrorClose_closes) fun _ => ?_
  extract_lets t
  have ht : s.SlotsAs t := .ite ((s.setFlag_within _ _ _ _).slotsAs (by decide)) (.refl s)
  clear_value t
  intro j
  have hj := State.mirrorClose_closes { t with oxb := { t.oxb with initRun := false, remirror := false, promoted := [] } } j
  rw [← ht j]
  exact hj

theorem State.pageDone_slots (m : Nat) (step : W32) : s.SlotsAs (s.pageDone m step) :=
  ((s.setOxb_within _).slotsAs (by decide)).trans ((State.setTag_within _ _ _ _ _).slotsAs (by decide))

/-- The mirror pages become PENDING, or are confirmed at once. -/
theorem State.mirrorAll_closes : s.Closes s.mirrorAll := by
  unfold State.mirrorAll
  extract_lets step ms o t u
  have ht : s.SlotsAs t := fun _ => rfl
  have hu : s.SlotsAs u := ht.trans (.ite (.foldl (fun t m => ((t.pendPage_within step m).slotsAs (by decide))) _ _)
    (.foldl (fun t m => ((t.setTag_within m false false step).slotsAs (by decide))) _ _))
  clear_value u
  intro j
  have hj := State.mirrorEnd_closes u.fresh j
  rw [← hu j]
  exact hj

end

/-- No slot is CLOSED. -/
def State.KeepsPast (s t : State) : Prop := t.CommitOk ∧ ∀ j, (s.slot j).pastCommit = true → (t.slot j).pastCommit = true

section
variable {s t u : State}

theorem State.Steady.keepsPast (h : s.Steady t) (hs : s.CommitOk) : s.KeepsPast t := ⟨h.ok hs, fun j hp => ((h j).2 hp).1⟩

theorem State.KeepsPast.keeps (h : s.KeepsPast t) : s.KeepsCommits t := fun j => ⟨h.1 j, fun hp => .inl (h.2 j hp)⟩

theorem State.KeepsPast.stays (h : s.KeepsPast t) (hu : t.Stays u) : s.KeepsPast u :=
  ⟨hu.steady.ok h.1, fun j hp => (hu j).2.trans (h.2 j hp)⟩

theorem State.KeepsPast.setSlot (h : s.KeepsPast t) (j : Nat) {k : StepSlot} (hk : k.CommitOk)
    (hp : (s.slot j).pastCommit = true → k.pastCommit = true) : s.KeepsPast (t.setSlot j k) := by
  have hall : ∀ i, ((t.setSlot j k).slot i).CommitOk ∧ ((s.slot i).pastCommit = true → ((t.setSlot j k).slot i).pastCommit = true) :=
    fun i => by
      by_cases hij : i = 0 ↔ j = 0
      · rw [State.slot_congr s hij, State.slot_congr (t.setSlot j k) hij, State.slot_setSlot_same]
        exact ⟨hk, hp⟩
      · rw [State.slot_setSlot_other _ _ hij]
        exact ⟨h.1 i, h.2 i⟩
  exact ⟨fun i => (hall i).1, fun i => (hall i).2⟩

end

/-! ### The commands -/

section
variable {s t : State} (hs : s.CommitOk)
include hs

theorem execStepLayer_keeps (h : execStepLayer s = .next t) : s.KeepsCommits t := by
  obtain rfl := Host.Outcome.next.inj h
  refine State.stepTakeIn_keeps hs fun d j hok => ?_
  have hst : (s.slot j).st = .seal ∨ (s.slot j).st = .commit := by
    simpa only [Bool.or_eq_true, beq_iff_eq] using hok
  refine iteInduction (motive := s.KeepsCommits) (fun _ => s.stepWait_slots.keeps hs) fun hgo => ?_
  have hp : (s.slot j).pastCommit = true := by
    simp only [Bool.or_eq_true, Bool.not_eq_true', not_or, Bool.not_eq_false] at hgo
    exact hgo.1
  extract_lets t u m v k w
  have hpop : s.SlotsAs t := s.stepPop_slots
  clear_value t
  have hv : s.KeepsPast v := by
    refine iteInduction (motive := s.KeepsPast) (fun _ => hpop.stays.steady.keepsPast hs) fun _ => ?_
    have hu : s.KeepsPast u := (hpop.stays.steady.keepsPast hs).setSlot j (fun _ => .inr (.inl rfl)) fun _ => hp
    clear_value u
    exact (hu.stays (u := { u with mem := { u.mem with marking := true } }) fun _ => ⟨rfl, rfl⟩).stays
      (State.layerUpdate_stays _ _ _)
  clear_value v
  have hw : s.KeepsPast w := hv.stays (v.setSlot_stays j rfl rfl)
  exact ((hw.stays (w.layerUpdate_stays j _)).stays (State.stepTally_slots _ d).stays).keeps

theorem execCommitEnd_keeps (h : execCommitEnd s = .next t) : s.KeepsCommits t := by
  obtain rfl := Host.Outcome.next.inj h
  refine State.stepTakeIn_keeps hs fun d j hok => ?_
  refine iteInduction (motive := s.KeepsCommits) (fun _ => (State.SlotsAs.refl s).keeps hs) fun _ => ?_
  extract_lets t f n x u v k w g
  have ht : s.Stays t := s.stepPop_slots.stays.trans (State.layerUpdate_stays _ j _)
  clear_value t
  have hn : t.SlotsAs n.1 := by
    refine iteInduction (motive := fun n : State × Bool => t.SlotsAs n.1) (fun _ => ?_) fun _ => .refl t
    exact ((t.noiseCommit_within j _ _).slotsAs (by decide))
  clear_value n
  have hx : n.1.SlotsAs x.1 := ((n.1.expertCommit_within j).slotsAs (by decide))
  have hu : s.Stays u := ht.then ((hn.trans hx).trans
    (((x.1.commitFault_within _).slotsAs (by decide)).trans ((State.cursorsAdvance_within _ _).slotsAs (by decide))))
  clear_value u
  have hv : s.Stays v := hu.then ((((u.setReg_within _ _ _).slotsAs (by decide)).trans ((State.pendingDrop_within _ j).slotsAs (by decide))).trans
    ((State.accClear_within _ j).slotsAs (by decide)))
  clear_value v
  have hst : (v.slot j).st = .commit := ((hv j).1).trans (beq_iff_eq.mp hok)
  have hw : s.Steady w := hv.steady.trans (v.setSlot_steady j
    ⟨fun _ _ => .inr (.inr rfl), fun hp => ⟨hp, fun hseal => absurd (hst.symm.trans hseal) (by decide)⟩⟩)
  clear_value w
  refine State.Steady.keeps_closing (t := State.stepTally _ d) ?_ hs (State.mirrorClose_closes _)
  refine State.Steady.then (t := State.digAtCommit _ _) ?_ (State.stepTally_slots _ d)
  refine State.Steady.then (t := State.mirrorCommit _ _) ?_ ((State.digAtCommit_within _ _).slotsAs (by decide))
  refine State.Steady.then (t := State.event _ _ _ _) ?_ ((State.mirrorCommit_within _ _).slotsAs (by decide))
  exact (hw.then ((w.setMgmt_within _).slotsAs (by decide))).then ((State.event_within _ _ _ _).slotsAs (by decide))

theorem execStepEndSkip_keeps (h : execStepEndSkip s = .next t) : s.KeepsCommits t := by
  obtain rfl := Host.Outcome.next.inj h
  refine State.stepTake_keeps hs fun d _ => ?_
  extract_lets j k
  refine iteInduction (fun _ => (s.stepRefuse_slots d 3).keeps hs) fun hst => ?_
  have hp : (s.slot j).pastCommit = false := (hs j).not_past (by decide) (not_not.mp hst)
  have ht : s.Stays (((s.stepPop.abortScrub j).cursorsAdvance k).setReg .step 0x10C k.step) :=
    ((s.stepPop_slots.stays.trans (State.abortScrub_stays _ j)).then ((State.cursorsAdvance_within _ k).slotsAs (by decide))).then
      ((State.setReg_within _ _ _ _).slotsAs (by decide))
  exact ((ht.steady.trans (State.closeSlot_steady _ j (ht.not_past hp))).then (State.stepTally_slots _ d)).keeps hs

theorem execStepEndDrop_keeps (h : execStepEndDrop s = .next t) : s.KeepsCommits t := by
  obtain rfl := Host.Outcome.next.inj h
  refine State.stepTake_keeps hs fun d _ => ?_
  extract_lets j k
  refine iteInduction (fun _ => (s.stepRefuse_slots d 3).keeps hs) fun hst => ?_
  have hp : (s.slot j).pastCommit = false := (hs j).not_past (by decide) (not_not.mp hst)
  have ht : s.Stays ((s.stepPop.abortScrub j).setReg .step 0x108 k.step) :=
    (s.stepPop_slots.stays.trans (State.abortScrub_stays _ j)).then ((State.setReg_within _ _ _ _).slotsAs (by decide))
  exact ((ht.steady.trans (State.closeSlot_steady _ j (ht.not_past hp))).then (State.stepTally_slots _ d)).keeps hs

theorem execStepAbortAction_keeps (h : execStepAbortAction s = .next t) : s.KeepsCommits t := by
  obtain rfl := Host.Outcome.next.inj h
  refine State.stepTakeIn_keeps hs fun d j hok => ?_
  exact ((s.stepPop_slots.steady.trans (State.abortSlot_steady _ j _ _ _
    (s.stepPop_slots.not_past (StepSlot.not_past_of_abortable hok)))).then (State.stepTally_slots _ d)).keeps hs

theorem execStepDrainDone_keeps (h : execStepDrainDone s = .next t) : s.KeepsCommits t := by
  obtain rfl := Host.Outcome.next.inj h
  split
  · exact (State.SlotsAs.refl s).keeps hs
  · next j c _ =>
    extract_lets t u v m
    have ht : s.SlotsAs t := .foldl (fun t e => ((t.collsEnd_within c e).slotsAs (by decide))) _ _
    have hu : s.Stays u := iteInduction (motive := s.Stays) (fun _ => ht.stays.trans (t.abortScrub_stays j)) fun _ => ht.stays
    have hv : s.Stays v :=
      hu.trans (.foldl (fun t n => iteInduction (motive := t.Stays) (fun _ => ((t.raiseAsync_within _ _).slotsAs (by decide)).stays) fun _ => .refl t) _ _)
    clear_value v
    exact (hv.then fun _ => rfl).steady.keeps hs

theorem execNextStepWrite_keeps (value : W32) (h : execNextStepWrite value s = .next t) : s.KeepsCommits t := by
  obtain rfl := Host.Outcome.next.inj h
  refine iteInduction (fun _ => (State.SlotsAs.refl s).keeps hs) fun _ =>
    iteInduction (fun _ => ((s.setErr_within _ _).slotsAs (by decide)).keeps hs) fun _ => ?_
  exact State.SlotsAs.keeps (fun _ => rfl) hs

/-! ### Oxbow -/

theorem execMirrorPageSend_keeps (h : execMirrorPageSend s = .next t) : s.KeepsCommits t := by
  obtain rfl := Host.Outcome.next.inj h
  refine State.SlotsAs.keeps ?_ hs
  split
  · exact .refl s
  · next p _ =>
    refine iteInduction (motive := s.SlotsAs) (fun _ => .refl s) fun _ => ?_
    extract_lets f t
    have ht : s.SlotsAs t := ((s.setOxb_within _).slotsAs (by decide)).trans ((State.setTag_within _ _ _ _ _).slotsAs (by decide))
    clear_value t
    refine iteInduction (fun _ => ht.trans t.mirrorFail_slots) fun _ => ?_
    split
    · next u hu => exact ht.trans ((State.putWays_slots hu).trans (.ite (fun _ => rfl) (.refl u)))
    · exact ht.trans t.mirrorFail_slots

theorem execMirrorPageConfirm_keeps (h : execMirrorPageConfirm s = .next t) : s.KeepsCommits t := by
  obtain rfl := Host.Outcome.next.inj h
  split
  · exact (State.SlotsAs.refl s).keeps hs
  · next m _ =>
    extract_lets busy
    split
    · exact (State.SlotsAs.refl s).keeps hs
    · next p _ =>
      refine iteInduction (fun _ => (State.SlotsAs.refl s).keeps hs) fun _ => ?_
      exact ((s.pageDone_slots _ _).trans ((State.event_within _ _ _ _).slotsAs (by decide))).steady.keeps_closing hs (State.mirrorEnd_closes _)

theorem execCopyBeforeWriteStall_keeps (m : BitVec 19) (counts : W32) (h : execCopyBeforeWriteStall m counts s = .next t) :
    s.KeepsCommits t := by
  obtain rfl := Host.Outcome.next.inj h
  refine State.SlotsAs.keeps (iteInduction (fun _ => .refl s) fun _ => ?_) hs
  extract_lets t o
  have ht : s.SlotsAs t := (((s.addSat_within _ _ _).slotsAs (by decide)).trans ((State.addSat_within _ _ _ _).slotsAs (by decide))).trans
    ((State.event_within _ _ _ _).slotsAs (by decide))
  clear_value t
  refine .ite ht (State.SlotsAs.trans (t := State.addSat _ _ _ _) ?_ ((State.event_within _ _ _ _).slotsAs (by decide)))
  refine State.SlotsAs.trans ?_ ((State.addSat_within _ _ _ _).slotsAs (by decide))
  exact ht.trans fun _ => rfl

theorem execMirrorInit_keeps (value : W32) (h : execMirrorInit value s = .next t) : s.KeepsCommits t := by
  obtain rfl := Host.Outcome.next.inj h
  refine iteInduction (fun _ => (State.SlotsAs.refl s).keeps hs) fun _ => ?_
  split
  · exact ((s.setErr_within _ _).slotsAs (by decide)).keeps hs
  · next fs _ =>
    refine iteInduction (fun _ => ((s.setErr_within _ _).slotsAs (by decide)).keeps hs) fun _ => ?_
    extract_lets t o
    have ht : s.SlotsAs t := (s.mirrorHalt_slots.trans ((State.setFlag_within _ _ _ _ _).slotsAs (by decide))).trans
      ((State.setReg_within _ _ _ _).slotsAs (by decide))
    clear_value t
    exact State.Steady.keeps_closing (ht.trans fun _ => rfl).steady hs (State.mirrorAll_closes _)

theorem execPartnerWrite_keeps (i : Fin 4) (value : W32) (h : execPartnerWrite i value s = .next t) : s.KeepsCommits t := by
  obtain rfl := Host.Outcome.next.inj h
  exact iteInduction (fun _ => (State.SlotsAs.refl s).keeps hs) fun _ => iteInduction (fun _ => ((s.setErr_within _ _).slotsAs (by decide)).keeps hs)
    fun _ => ((s.storeBits_within _ _ _).slotsAs (by decide)).keeps hs

end

/-- The rule of R369 for the two slots is that for every slot. -/
theorem State.commitOk_iff (s : State) :
    s.CommitOk ↔ ∀ j < 2, (s.slot j).pastCommit = true → (s.slot j).st = .seal ∨ (s.slot j).st = .commit ∨ (s.slot j).st = .mirror := by
  refine ⟨fun h j _ => h j, fun h j => ?_⟩
  by_cases hj : j = 0
  · rw [hj]
    exact h 0 (by decide)
  · rw [s.slot_congr (j := 1) (by simp only [hj, one_ne_zero])]
    exact h 1 (by decide)

/-- Settles O40: every command of chapter 13 keeps the rule of R369. -/
theorem committedStepsNeverAbort : Obligations.CommittedStepsNeverAbort := by
  unfold Obligations.CommittedStepsNeverAbort
  intro s t value m i hs c hc h j _
  have hs : s.CommitOk := s.commitOk_iff.mpr hs
  suffices hk : s.KeepsCommits t from hk j
  simp only [List.mem_cons, List.not_mem_nil, or_false] at hc
  rcases hc with rfl | rfl | rfl | rfl | rfl | rfl | rfl | rfl | rfl | rfl | rfl | rfl | rfl | rfl | rfl | rfl | rfl | rfl | rfl |
    rfl | rfl | rfl | rfl | rfl | rfl | rfl | rfl | rfl | rfl
  · exact execStepOpen_keeps hs h
  · exact execStepReplayOpen_keeps hs h
  · exact execJournalCopyDone_keeps hs h
  · exact execSlotDone_keeps hs h
  · exact execStepCheck_keeps hs h
  · exact execStepVote_keeps hs h
  · exact execVoteRound1End_keeps hs h
  · exact execVoteTimeout_keeps hs h
  · exact execStepSeal_keeps hs h
  · exact execSealCopyDone_keeps hs h
  · exact execSealWordReturn_keeps hs h
  · exact execVoteRound2End_keeps hs h
  · exact execSealedTimeout_keeps hs h
  · exact execResolutionReturn_keeps hs h
  · exact execStepResolve_keeps hs h
  · exact execStepDecide_keeps hs value h
  · exact execStragClr_keeps hs value h
  · exact execStepLayer_keeps hs h
  · exact execCommitEnd_keeps hs h
  · exact execStepEndSkip_keeps hs h
  · exact execStepEndDrop_keeps hs h
  · exact execStepAbortAction_keeps hs h
  · exact execStepDrainDone_keeps hs h
  · exact execNextStepWrite_keeps hs value h
  · exact execMirrorPageSend_keeps hs h
  · exact execMirrorPageConfirm_keeps hs h
  · exact execCopyBeforeWriteStall_keeps hs m value h
  · exact execMirrorInit_keeps hs value h
  · exact execPartnerWrite_keeps hs i value h

end Sys2Proof.Machine
end

section
/-! PROOF. Registers and messages that stay (R35 to R43, R504): what each operation on registers leaves alone, by address. -/
namespace Sys2Proof.Machine

/-- The word at a register's address. -/
def State.wordOf (s : State) (a : Nat) : W32 := Table.get regDefault s.io.regs a

/-- Registers at the addresses of `A` keep their values, so does the MSI-X table, and what has been sent stays sent. -/
abbrev State.Calm (A : Nat → Prop) (s t : State) : Prop :=
  (∀ a, A a → t.wordOf a = s.wordOf a) ∧ (∀ o ∈ s.out, o ∈ t.out) ∧ t.io.msix = s.io.msix ∧ t.io.msixMask = s.io.msixMask

section
variable {A B : Nat → Prop} {s t u : State}

theorem State.Calm.word (h : s.Calm A t) {a : Nat} (ha : A a) : t.wordOf a = s.wordOf a := h.1 a ha

theorem State.Calm.reg (h : s.Calm A t) {p : Page} {j : Nat} (ha : A (p.base + j)) : t.reg p j = s.reg p j := h.1 _ ha

theorem State.Calm.field (h : s.Calm A t) {p : Page} {j : Nat} (hi lo : Nat) (ha : A (p.base + j)) :
    t.field p j hi lo = s.field p j hi lo := congrArg (fld · hi lo) (h.reg ha)

theorem State.Calm.flag (h : s.Calm A t) {p : Page} {j : Nat} (i : Nat) (ha : A (p.base + j)) : t.flag p j i = s.flag p j i :=
  congrArg (bitOf · i) (h.reg ha)

theorem State.Calm.out (h : s.Calm A t) {o : Out} (ho : o ∈ s.out) : o ∈ t.out := h.2.1 o ho

/-- The host masks the same vectors. -/
theorem State.Calm.vectorMasked (h : s.Calm A t) (v : Nat) : t.vectorMasked v = s.vectorMasked v := by
  rw [State.vectorMasked, State.vectorMasked, h.2.2.1, h.2.2.2]

theorem State.Calm.of_io (hio : t.io = s.io) (hout : t.out = s.out) : s.Calm A t :=
  ⟨fun a _ => congrArg (fun io : Bar0 => Table.get regDefault io.regs a) hio, fun _ ho => hout ▸ ho, congrArg Bar0.msix hio,
    congrArg Bar0.msixMask hio⟩

theorem State.Calm.refl (s : State) : s.Calm A s := .of_io rfl rfl

theorem State.Calm.trans (h : s.Calm A t) (hu : t.Calm A u) : s.Calm A u :=
  ⟨fun _ ha => (hu.word ha).trans (h.word ha), fun _ ho => hu.out (h.out ho), hu.2.2.1.trans h.2.2.1, hu.2.2.2.trans h.2.2.2⟩

theorem State.Calm.mono (h : s.Calm A t) (hb : ∀ a, B a → A a) : s.Calm B t := ⟨fun _ ha => h.word (hb _ ha), h.2⟩

theorem State.Calm.ite {c : Prop} [Decidable c] (ht : s.Calm A t) (hu : s.Calm A u) : s.Calm A (if c then t else u) := by
  split
  · exact ht
  · exact hu

theorem State.Calm.foldl {α : Type} {f : State → α → State} (xs : List α) (h : ∀ (t : State), ∀ x ∈ xs, t.Calm A (f t x)) (s : State) :
    s.Calm A (xs.foldl f s) := by
  induction xs generalizing s with
  | nil => exact .refl s
  | cons x xs ih => exact (h s x List.mem_cons_self).trans (ih (fun t y hy => h t y (List.mem_cons_of_mem _ hy)) _)

theorem State.within.calm {l : List Area} (hio : Area.io ∉ l) (hout : Area.out ∉ l) (h : s.within l t) : s.Calm A t :=
  .of_io (h.io hio) (h.out hout)

end

section
variable {A : Nat → Prop} (s : State)

theorem State.setStepm_within (m : StepM) : s.within [.stepm] { s with stepm := m } := rfl
theorem State.setPlat_within (p : Plat) : s.within [.plat] { s with plat := p } := rfl

theorem State.emit_calm (o : Out) : s.Calm A (s.emit o) := ⟨fun _ _ => rfl, fun _ ho => List.mem_cons_of_mem _ ho, rfl, rfl⟩

theorem State.setReg_calm (p : Page) (o : Nat) (v : W32) (h : ¬ A (p.base + o)) : s.Calm A (s.setReg p o v) :=
  by
  have hne : ∀ a, A a → a ≠ p.base + o := fun a ha he => h (he ▸ ha)
  exact ⟨fun a ha => Table.get_set_ne _ _ (hne a ha) _, fun _ ho => ho, rfl, rfl⟩

theorem State.sendVector_calm (v : Nat) : s.Calm A (s.sendVector v) := by
  unfold State.sendVector
  split
  · exact ⟨fun _ _ => rfl, fun _ ho => ho, rfl, rfl⟩
  · exact s.emit_calm _

theorem State.irqUpdate_calm (p : Page) : s.Calm A (s.irqUpdate p) := by
  unfold State.irqUpdate
  extract_lets now _ t
  have ht : s.Calm A t := ⟨fun _ _ => rfl, fun _ ho => ho, rfl, rfl⟩
  split
  · exact ht
  · exact .ite (ht.trans (t.sendVector_calm _)) ht

theorem State.setErr_calm (p : Page) (i : Nat) (h10 : ¬ A (p.base + 0x010)) (h18 : ¬ A (p.base + 0x018)) : s.Calm A (s.setErr p i) := by
  unfold State.setErr State.detect
  extract_lets t u
  have ht : s.Calm A t := s.setReg_calm p _ _ h10
  have hu : s.Calm A u := .ite (ht.trans (t.setReg_calm p _ _ h18)) ht
  exact hu.trans (u.irqUpdate_calm p)

theorem State.event_calm (p : Page) (code n : Nat) (h : ∀ o, 0x030 ≤ o → o < 0x040 → ¬ A (p.base + o)) : s.Calm A (s.event p code n) := by
  unfold State.event State.setReg64
  extract_lets sel t
  have hset : ∀ (t : State) (o : Nat) (v : W32), 0x030 ≤ o → o < 0x040 → t.Calm A (t.setReg p o v) := fun t o v h1 h2 =>
    t.setReg_calm p o v (h o h1 h2)
  have ht : s.Calm A t := .ite ((hset _ _ _ (by decide) (by decide)).trans (hset _ _ _ (by decide) (by decide))) (.refl s)
  exact .ite ((ht.trans (hset _ _ _ (by decide) (by decide))).trans (hset _ _ _ (by decide) (by decide))) ht

end

/-! ### Registers beyond the headers -/

/-- An address beyond the header of its page. -/
abbrev bodyAddr (a : Nat) : Prop := 0x100 ≤ a % 0x1000

theorem bodyAddr_base_add (p : Page) {j : Nat} (h1 : 0x100 ≤ j) (h2 : j < 0x1000) : bodyAddr (p.base + j) := by
  have hp := p.base_mod
  unfold bodyAddr
  omega

theorem not_bodyAddr_base_add (p : Page) {j : Nat} (h : j < 0x100) : ¬ bodyAddr (p.base + j) := by
  have hp := p.base_mod
  unfold bodyAddr
  omega

/-- Every register beyond the header of its page keeps its value. -/
abbrev State.KeepsRegs (s t : State) : Prop := s.Calm bodyAddr t

section
variable (s : State)

theorem State.KeepsRegs.reg {s t : State} (h : s.KeepsRegs t) (p : Page) {j : Nat} (h1 : 0x100 ≤ j) (h2 : j < 0x1000) :
    t.reg p j = s.reg p j := h.word (bodyAddr_base_add p h1 h2)

theorem State.KeepsRegs.field {s t : State} (h : s.KeepsRegs t) (p : Page) {j : Nat} (hi lo : Nat) (h1 : 0x100 ≤ j)
    (h2 : j < 0x1000) : t.field p j hi lo = s.field p j hi lo := congrArg (fld · hi lo) (h.reg p h1 h2)

theorem State.event_keepsRegs (p : Page) (code n : Nat) : s.KeepsRegs (s.event p code n) :=
  s.event_calm p code n fun _ _ h => not_bodyAddr_base_add p (h.trans (by decide))

theorem State.setErr_keepsRegs (p : Page) (i : Nat) : s.KeepsRegs (s.setErr p i) :=
  s.setErr_calm p i (not_bodyAddr_base_add p (by decide)) (not_bodyAddr_base_add p (by decide))

theorem State.tickPage_keepsRegs (n : Nat) (p : Page) : s.KeepsRegs (s.tickPage n p) := by
  unfold State.tickPage
  extract_lets t
  have ht : s.KeepsRegs t := (s.event_keepsRegs _ _ _).trans (State.event_keepsRegs _ _ _ _)
  split
  · exact .ite (ht.trans (t.event_keepsRegs _ _ _)) ht
  · exact ht

theorem State.advance_keepsRegs (since : W64) (n : Nat) : s.KeepsRegs (s.advance since n) :=
  .ite (.refl s) (State.Calm.trans (t := { s with refcnt := s.refcnt + w64 _ }) (.of_io rfl rfl)
    (.foldl _ (fun t p _ => t.tickPage_keepsRegs _ p) _))

end

end Sys2Proof.Machine
end

section
/-! PROOF. Ports: what sending leaves as it is, and how a port leaves UP, fences and comes up (R288, R291, R302, R313). -/
namespace Sys2Proof.Machine

/-! ### Sending -/

/-- A port but for what it has sent and waits to send. -/
def Port.silent (k : Port) : Port := { k with txSeq := 0, replay := [], credits := [], owed := [], ctlq := [], txq := [] }

theorem Port.sendFlit_silent (k : Port) (ty cls vc : Nat) (ss : List Slot) : (k.sendFlit ty cls vc ss).1.silent = k.silent := rfl

theorem Port.setCredit_silent (k : Port) (cls vc n : Nat) : (k.setCredit cls vc n).silent = k.silent := rfl

theorem Port.idleFlit_silent (k : Port) (fs : List Flit) : (k.idleFlit fs).1.silent = k.silent := by
  unfold Port.idleFlit
  split <;> rfl

theorem Port.pump_silent (fuel : Nat) (k : Port) (fs : List Flit) : (Port.pump fuel k fs).1.silent = k.silent := by
  induction fuel generalizing k fs with
  | zero => rfl
  | succ fuel ih =>
    unfold Port.pump
    split
    · rfl
    · split
      · exact k.idleFlit_silent fs
      · split
        · next _ _ c rest _ =>
          exact (ih _ _).trans (Port.sendFlit_silent { k with ctlq := rest } c.1 2 0 c.2)
        · exact k.idleFlit_silent fs
        · next e _ _ =>
          extract_lets n rest r k1 k2
          refine (ih _ _).trans ?_
          have h1 : k1.silent = r.1.silent := Port.setCredit_silent _ _ _ _
          have h2 : k2.silent = k1.silent := rfl
          exact (h2.trans h1).trans (Port.sendFlit_silent _ _ _ _ _)

/-- What has been sent goes before what is sent next. -/
theorem Port.pump_prefix (fuel : Nat) (k : Port) (fs : List Flit) : fs <+: (Port.pump fuel k fs).2 := by
  induction fuel generalizing k fs with
  | zero => exact List.prefix_rfl
  | succ fuel ih =>
    have hidle : fs <+: (k.idleFlit fs).2 := by
      unfold Port.idleFlit
      split
      · exact List.prefix_rfl
      · exact List.prefix_append _ _
    unfold Port.pump
    split
    · exact List.prefix_rfl
    · split
      · exact hidle
      · split
        · exact (List.prefix_append _ _).trans (ih _ _)
        · exact hidle
        · exact (List.prefix_append _ _).trans (ih _ _)

/-- The first flit of a port's own that waits goes out first (R288). -/
theorem Port.mem_pump_of_ctlq {fuel : Nat} {k : Port} {c : Nat × List Slot} {rest : List (Nat × List Slot)} (hst : k.st.linked = true)
    (hreplay : k.replay.length < 256) (hq : k.ctlq = c :: rest) :
    ({ k with ctlq := rest }.sendFlit c.1 2 0 c.2).2 ∈ (Port.pump (fuel + 1) k []).2 := by
  unfold Port.pump
  rw [if_neg (by simp only [hst, Bool.not_true, Bool.false_eq_true, not_false_eq_true]), if_neg (by omega), hq]
  exact (Port.pump_prefix fuel _ _).subset (List.mem_append_right _ (List.mem_singleton_self _))

/-- Only what ports send, the messages and the counters change. -/
abbrev State.Sends (s t : State) : Prop :=
  s.within [.io, .out, .ports] t ∧ s.KeepsRegs t ∧ ∀ q, (t.port q).silent = (s.port q).silent

section
variable {s t u : State}

theorem State.Sends.within (h : s.Sends t) : s.within [.io, .out, .ports] t := h.1
theorem State.Sends.regs (h : s.Sends t) : s.KeepsRegs t := h.2.1
theorem State.Sends.silent (h : s.Sends t) (q : Nat) : (t.port q).silent = (s.port q).silent := h.2.2 q

theorem State.Sends.refl (s : State) : s.Sends s := ⟨.refl _ _, .refl s, fun _ => rfl⟩

theorem State.Sends.trans (h : s.Sends t) (hu : t.Sends u) : s.Sends u :=
  ⟨h.within.trans hu.within, h.regs.trans hu.regs, fun q => (hu.silent q).trans (h.silent q)⟩

theorem State.Sends.foldl {α : Type} {f : State → α → State} (h : ∀ (t : State) (x : α), t.Sends (f t x)) (xs : List α)
    (s : State) : s.Sends (xs.foldl f s) := by
  induction xs generalizing s with
  | nil => exact .refl s
  | cons x xs ih => exact (h s x).trans (ih _)

theorem State.Sends.ite {p : Prop} [Decidable p] (ht : s.Sends t) (hu : s.Sends u) : s.Sends (if p then t else u) := by
  split
  · exact ht
  · exact hu

/-- The port is replaced by one that differs in what it sends. -/
theorem State.setPort_sends (s : State) (p : Nat) {k : Port} (h : k.silent = (s.port p).silent) : s.Sends (s.setPort p k) := by
  refine ⟨rfl, .of_io rfl rfl, fun q => ?_⟩
  by_cases hq : q = p
  · rw [hq, State.port_setPort_same, h]
  · rw [State.port_setPort_ne _ hq]

theorem State.Sends.port_st (h : s.Sends t) (q : Nat) : (t.port q).st = (s.port q).st := by
  have hst := congrArg Port.st (h.silent q)
  exact hst

theorem State.Sends.port_nonce (h : s.Sends t) (q : Nat) : (t.port q).nonce = (s.port q).nonce := by
  have hnonce := congrArg Port.nonce (h.silent q)
  exact hnonce

end

section
variable (s : State)

theorem State.event_sends (p : Page) (code n : Nat) : s.Sends (s.event p code n) :=
  ⟨((s.event_within p code n).mono (by decide)), s.event_keepsRegs p code n, fun q => by
    rw [State.port, (s.event_within p code n).ports (by decide)]
    rfl⟩

theorem State.emit_sends (o : Out) : s.Sends (s.emit o) := ⟨rfl, s.emit_calm o, fun _ => rfl⟩

theorem State.emitFlits_sends (p : Nat) (fs : List Flit) : s.Sends (s.emitFlits p fs) := by
  refine State.Sends.trans ?_ (State.event_sends _ _ _ _)
  exact .foldl (fun t f => (t.emit_sends (.flit p f))) _ _

theorem State.pump_sends (p : Nat) : s.Sends (s.pump p) :=
  (s.setPort_sends p (Port.pump_silent _ _ _)).trans (State.emitFlits_sends _ _ _)

theorem State.pumpAck_sends (p : Nat) : s.Sends (s.pumpAck p) :=
  (s.setPort_sends p (Port.pump_silent _ _ _)).trans (State.emitFlits_sends _ _ _)

theorem State.sendOwn_sends (p ty : Nat) (ss : List Slot) : s.Sends (s.sendOwn p ty ss) :=
  State.Sends.trans (t := s.setPort p { s.port p with ctlq := (s.port p).ctlq ++ [(ty, ss)] }) (s.setPort_sends p rfl)
    (State.pump_sends _ p)

theorem State.sendBytes_sends (p ty : Nat) (bs : List Byte) : s.Sends (s.sendBytes p ty bs) :=
  .foldl (fun t _ => t.sendOwn_sends _ _ _) _ _

theorem State.enqueue_sends (p : Nat) (e : TxEnt) : s.Sends (s.enqueue p e) := by
  unfold State.enqueue
  extract_lets k q
  exact State.Sends.trans (t := s.setPort p { k with txq := q }) (s.setPort_sends p rfl) (State.pump_sends _ p)

theorem State.sendLinks_sends : s.Sends s.sendLinks := .foldl (fun t p => t.enqueue_sends p _) _ _

theorem State.setErr_sends (p : Page) (i : Nat) : s.Sends (s.setErr p i) :=
  ⟨((s.setErr_within p i).mono (by decide)), s.setErr_keepsRegs p i, fun q => by
    rw [State.port, (s.setErr_within p i).ports (by decide)]
    rfl⟩

/-! ### A port leaves UP, fences, is absent (R306, R312, R313) -/

/-- A port once it has left UP for `st`. -/
def Port.left (k : Port) (st : PortSt) (outs : List OutTxn) : Port :=
  { k with
    st := st, nbr := 0, peer := none, attOk := false, idOk := false, ctlq := [], txq := [], replay := [], credits := [], owed := []
    probes := [], misses := 0, nakSent := false, txSeq := 0, rxSeq := 0, outs := outs }

/-- What a port that leaves UP can change. -/
abbrev leaveAreas : List Area := [.io, .out, .ports, .fwait, .transit]

/-- Port `p` leaves UP for `st`: registers beyond the headers stay, and so does every other port but for what it sends. -/
abbrev State.Leaves (s t : State) (p : Nat) (st : PortSt) : Prop :=
  s.within leaveAreas t ∧ s.KeepsRegs t ∧ (∃ outs, (t.port p).silent = ((s.port p).left st outs).silent) ∧
    ∀ q ≠ p, (t.port q).silent = (s.port q).silent

theorem State.Leaves.within {s t : State} {p : Nat} {st : PortSt} (h : s.Leaves t p st) : s.within leaveAreas t := h.1
theorem State.Leaves.regs {s t : State} {p : Nat} {st : PortSt} (h : s.Leaves t p st) : s.KeepsRegs t := h.2.1
theorem State.Leaves.port {s t : State} {p : Nat} {st : PortSt} (h : s.Leaves t p st) :
    ∃ outs, (t.port p).silent = ((s.port p).left st outs).silent := h.2.2.1
theorem State.Leaves.other {s t : State} {p : Nat} {st : PortSt} (h : s.Leaves t p st) {q : Nat} (hq : q ≠ p) :
    (t.port q).silent = (s.port q).silent := h.2.2.2 q hq

theorem State.Leaves.st {s t : State} {p : Nat} {st : PortSt} (h : s.Leaves t p st) : (t.port p).st = st := by
  obtain ⟨outs, hp⟩ := h.port
  have hst := congrArg Port.st hp
  exact hst

theorem State.Leaves.then {s t u : State} {p : Nat} {st : PortSt} (h : s.Leaves t p st) (hu : t.Sends u) : s.Leaves u p st :=
  ⟨h.within.then (by decide) hu.within, h.regs.trans hu.regs, h.port.imp fun _ hp => (hu.silent p).trans hp,
    fun q hq => (hu.silent q).trans (h.other hq)⟩

theorem State.leaveUp_leaves (p : Nat) (st : PortSt) : s.Leaves (s.leaveUp p st) p st := by
  unfold State.leaveUp
  extract_lets k wasUp unsent own k1 t t1 t2
  have h1 : s.Leaves t1 p st := by
    refine ⟨rfl, .of_io rfl rfl, ⟨k.outs.filter fun o => !(own.contains o), ?_⟩, fun q hq => ?_⟩
    · exact congrArg Port.silent (s.port_setPort_same p k1)
    · exact congrArg Port.silent (s.port_setPort_ne hq k1)
  clear_value t1
  have h2 : s.Leaves t2 p st := iteInduction (motive := fun t => s.Leaves t p st) (fun _ => h1.then (t1.setErr_sends _ _)) fun _ => h1
  exact iteInduction (motive := fun t => s.Leaves t p st) (fun _ => h2.then t2.sendLinks_sends) fun _ => h2

end

end Sys2Proof.Machine
end

section
/-! PROOF. Ports fence, are absent, come up, and end discovery; the commands of a port complete. -/
namespace Sys2Proof.Machine

section
variable {s t u : State} {p c : Nat}

/-- Port `p` has fenced with a cause. -/
abbrev State.Fences (s t : State) (p cause : Nat) : Prop :=
  s.within leaveAreas t ∧ s.KeepsRegs t ∧ (t.port p).st = .fenced ∧ (t.port p).cause = cause ∧
    ∀ q ≠ p, (t.port q).silent = (s.port q).silent

theorem State.Fences.within (h : s.Fences t p c) : s.within leaveAreas t := h.1
theorem State.Fences.regs (h : s.Fences t p c) : s.KeepsRegs t := h.2.1
theorem State.Fences.st (h : s.Fences t p c) : (t.port p).st = .fenced := h.2.2.1
theorem State.Fences.cause_eq (h : s.Fences t p c) : (t.port p).cause = c := h.2.2.2.1
theorem State.Fences.other (h : s.Fences t p c) {q : Nat} (hq : q ≠ p) : (t.port q).silent = (s.port q).silent := h.2.2.2.2 q hq

theorem State.fencePort_fences (s : State) (p cause : Nat) (h : (s.port p).st ≠ .fenced) : s.Fences (s.fencePort p cause) p cause := by
  unfold State.fencePort
  refine iteInduction (motive := fun t => s.Fences t p cause) (fun hf => absurd hf h) fun _ => ?_
  extract_lets f t k
  have he : s.Sends (s.emitFlits p [f]) := s.emitFlits_sends p [f]
  have hl : (s.emitFlits p [f]).Leaves t p .fenced := State.leaveUp_leaves _ p .fenced
  clear_value t
  have hst : k.st = .fenced := hl.st
  clear_value k
  let k1 : Port := { k with cause := cause, retryW := 0, malfW := 0, starveW := 0, fwW := 0, rateW := 0, winAt := t.refcnt }
  have hset : (t.setPort p k1).Sends ((t.setPort p k1).setErr (.prt p) 5) := State.setErr_sends _ _ _
  have hport : ((t.setPort p k1).setErr (.prt p) 5).port p = k1 := by
    rw [State.port, (State.setErr_within (t.setPort p k1) (.prt p) 5).ports (by decide)]
    exact t.port_setPort_same p k1
  refine ⟨?_, ?_, by rw [hport]; exact hst, by rw [hport], fun q hq => ?_⟩
  · exact (((he.within.mono (by decide)).trans hl.within).trans (rfl : t.within leaveAreas (t.setPort p k1))).then (by decide) hset.within
  · exact ((he.regs.trans hl.regs).trans (.of_io rfl rfl)).trans hset.regs
  · exact (hset.silent q).trans ((congrArg Port.silent (t.port_setPort_ne hq k1)).trans ((hl.other hq).trans (he.silent q)))

/-- The partner of port `p` is absent. -/
abbrev State.Absent (s t : State) (p : Nat) : Prop := s.within leaveAreas t ∧ s.KeepsRegs t ∧ (t.port p).st ≠ .up

theorem State.Absent.within (h : s.Absent t p) : s.within leaveAreas t := h.1
theorem State.Absent.regs (h : s.Absent t p) : s.KeepsRegs t := h.2.1
theorem State.Absent.st (h : s.Absent t p) : (t.port p).st ≠ .up := h.2.2

theorem State.absent_absent (s : State) (p : Nat) : s.Absent (s.absent p) p := by
  unfold State.absent
  have hset : ∀ {t : State} {k : Port}, s.within leaveAreas t → s.KeepsRegs t → k.st ≠ .up → s.Absent (t.setPort p k) p :=
    fun {t k} hw hr hk => ⟨hw.trans rfl, hr.trans (.of_io rfl rfl), by rwa [State.port_setPort_same]⟩
  refine iteInduction (motive := fun t => s.Absent t p) (fun _ => ?_) fun _ => ?_
  · extract_lets t k
    by_cases hf : (s.port p).st = .fenced
    · have ht : t = s := if_pos hf
      clear_value t
      subst ht
      exact hset (.refl _ _) (.refl _) (hf ▸ by decide)
    · have ht : s.Fences t p 1 := s.fencePort_fences p 1 hf
      exact hset ht.within ht.regs (ht.st ▸ by decide)
  · extract_lets t k
    have ht : s.Leaves t p .down := s.leaveUp_leaves p .down
    exact hset ht.within ht.regs (ht.st ▸ by decide)

theorem State.discEnd_within (s : State) : s.within [.fab] s.discEnd := rfl

theorem State.discCheck_within (s : State) : s.within [.fab] s.discCheck := .ite (fun _ => s.discEnd_within) fun _ => .refl _ _

theorem State.port_discCheck (s : State) (p : Nat) : s.discCheck.port p = s.port p := by
  rw [State.port, s.discCheck_within.ports (by decide)]
  rfl

/-- A port that has come up. -/
theorem State.goUp_st (s : State) (p : Nat) : ((s.goUp p).port p).st = .up := by
  unfold State.goUp
  extract_lets k
  rw [(State.sendLinks_sends _).port_st, State.port_setPort_same]

theorem State.admitFail_fences (s : State) (p reason : Nat) (h : (s.port p).st ≠ .fenced) :
    ((s.admitFail p reason).port p).st = .fenced ∧ ((s.admitFail p reason).port p).cause = 5 := by
  have hf := State.fencePort_fences ((s.setPort p { s.port p with attReason := reason }).setErr (.prt p) 4) p 5
    (by rwa [State.port_setErr, State.port_setPort_same])
  exact ⟨hf.st, hf.cause_eq⟩

theorem State.verified_within (s : State) (key context msg sig : List Byte) : s.within [.io] (s.verified key context msg sig).1 :=
  s.event_within _ _ _

theorem State.signed_within (s : State) (context msg : List Byte) : s.within [.io, .out] (s.signed context msg).1 := by
  unfold State.signed
  extract_lets sig r
  have hr : s.within [.io] r.1 := s.verified_within _ _ _ _
  split
  · exact (hr.mono (by decide)).then (by decide) (State.event_within _ _ _ _)
  · have hu : r.1.within [.io, .out] (r.1.setErr .sec 1) := r.1.setErr_within _ _
    exact State.within.trans (hr.mono (by decide)) hu

end

end Sys2Proof.Machine
end

section
/-! PROOF. What a step abort leaves as it is: registers elsewhere and messages sent (R391, R392, R419); clocks and voltages change no
other part of the state (R475 to R488). -/
namespace Sys2Proof.Machine

/-! ### The step abort (R391, R392) -/

/-- The pages of the device, the clocks, the supplies, the heat, the host and the log (R32). -/
abbrev lowAddr (a : Nat) : Prop := a < 0x100000

/-- The low pages but for that of the log, of which only the boot number counts (R459). -/
abbrev offLog (a : Nat) : Prop := a < 0x100000 ∧ (a = 0x9100 ∨ ¬ (0x9000 ≤ a ∧ a < 0xA000))

/-- The low pages but for what a request for escalation changes: `RST_STAT`, `ALERT` and the page of the log (R419, R459). -/
abbrev calmAddr (a : Nat) : Prop := offLog a ∧ a ≠ 0x00C ∧ a ≠ 0x5108

theorem offLog_of_calmAddr (a : Nat) (h : calmAddr a) : offLog a := h.1
theorem lowAddr_of_calmAddr (a : Nat) (h : calmAddr a) : lowAddr a := h.1.1

theorem not_offLog_uhl {o : Nat} (ho : o < 0x1000) (hne : o ≠ 0x100) : ¬ offLog (Page.uhl.base + o) := by
  simp only [offLog, Page.base]
  omega

/-- `ABORT_INFO` (R392). -/
def abortInfo (a : Nat) : Prop := a = Page.step.base + 0x12C

/-- The cause in `ABORT_INFO` (R392). -/
theorem fld_abortInfo {cause : Nat} (h : cause < 256) (index : Nat) :
    fld (w32 (2 ^ 31 + cause * 2 ^ 16 + index % 2 ^ 13)) 23 16 = cause := by
  simp only [fld, bits, w32, BitVec.toNat_ofNat, Nat.shiftRight_eq_div_pow]
  omega

section
variable (s : State)

theorem State.opTally_calm {A : Nat → Prop} (htly : ∀ o, o < 0x1000 → ¬ A (Page.tly.base + o)) (t c : Nat) :
    s.Calm A (s.opTally t c) := by
  cases hperm : s.tallyPermitted t c with
  | true =>
    rw [State.opTally_permitted s hperm]
    exact State.Calm.trans ((s.setTally_within t _).calm (by decide) (by decide))
      (State.event_calm _ _ _ _ fun o _ ho => htly o (ho.trans (by decide)))
  | false =>
    rw [State.opTally_denied s hperm]
    exact State.Calm.trans (.ite (.refl s) (s.setReg_calm _ _ _ (htly _ (by decide))))
      (State.setErr_calm _ _ _ (htly _ (by decide)) (htly _ (by decide)))

theorem State.accClear_calm {A : Nat → Prop} (hacc : ∀ n < 64, ∀ o, o < 0x1000 → ¬ A ((Page.acc n).base + o)) {j : Nat} (hj : j < 2) :
    s.Calm A (s.accClear j) := by
  refine State.Calm.foldl _ (fun t n hn => ?_) s
  have hset : ∀ (t : State) (o : Nat) (v : W32), o < 0x1000 → t.Calm A (t.setReg (.acc n) o v) := fun t o v ho =>
    t.setReg_calm _ o v (hacc n (List.mem_range.mp hn) o ho)
  exact ((hset _ _ _ (by decide)).trans (hset _ _ _ (by omega))).trans (hset _ _ _ (by omega))

/-- The abort of slot `j` is recorded in `ABORT_INFO` (R392). -/
def State.abortRecord (s : State) (j cause index : Nat) (tell : Bool) : State :=
  (if tell then s.abortTell j cause else s).setReg .step 0x12C (w32 (2 ^ 31 + cause * 2 ^ 16 + index % 2 ^ 13))

/-- What follows the record of an abort writes `DOUBT_INFO` and registers of the tallies and the accumulators alone (R392). -/
theorem State.abortRecord_calm {A : Nat → Prop} (hdoubt : ¬ A (Page.step.base + 0x130))
    (hstep : ∀ o, o < 0x100 → ¬ A (Page.step.base + o)) (htly : ∀ o, o < 0x1000 → ¬ A (Page.tly.base + o))
    (hacc : ∀ n < 64, ∀ o, o < 0x1000 → ¬ A ((Page.acc n).base + o)) {j : Nat} (hj : j < 2) (cause index : Nat) (tell : Bool) :
    (s.abortRecord j cause index tell).Calm A (s.abortSlot j cause index tell) := by
  unfold State.abortSlot
  extract_lets k t1 t2 t3 t4 t5 _ t6
  have ht2 : s.abortRecord j cause index tell = t2 := rfl
  rw [ht2]
  have h3 : t2.Calm A t3 := .ite (t2.setReg_calm _ _ _ hdoubt) (.refl _)
  have h4 : t2.Calm A t4 := by
    refine (h3.trans (t3.setErr_calm .step 1 (hstep _ (by decide)) (hstep _ (by decide)))).trans ?_
    exact (State.event_calm _ .step 0x03 1 fun o _ ho => hstep o (ho.trans (by decide))).trans
      ((State.setStepm_within _ _).calm (by decide) (by decide))
  clear_value t4
  have h5 : t2.Calm A t5 := by
    simp only [t5]
    split
    · exact h4.trans (t4.opTally_calm htly _ _)
    · exact h4.trans (t4.opTally_calm htly _ _)
    · exact h4
  have h6 : t2.Calm A t6 := h5.trans ((t5.setStepm_within _).calm (by decide) (by decide))
  clear_value t6
  exact (h6.trans ((t6.pendingDrop_within j).calm (by decide) (by decide))).trans (State.accClear_calm _ hacc hj)

theorem State.abortSlot_calm {j : Nat} (hj : j < 2) (cause index : Nat) (tell : Bool) : s.Calm lowAddr (s.abortSlot j cause index tell) := by
  have hhigh : ∀ p o, 0x100000 ≤ Page.base p → ¬ lowAddr (p.base + o) := fun p o ha hl =>
    absurd hl (Nat.not_lt.mpr (ha.trans (Nat.le_add_right _ _)))
  have hrecord : s.Calm lowAddr (s.abortRecord j cause index tell) :=
    State.Calm.trans (.ite ((s.abortTell_within j cause).calm (by decide) (by decide)) (.refl s))
      (State.setReg_calm _ _ _ _ (hhigh _ _ (by decide)))
  refine hrecord.trans (s.abortRecord_calm (hhigh _ _ (by decide)) (fun o _ => hhigh _ _ (by decide))
    (fun o _ => hhigh _ _ (by decide)) (fun n _ o _ => hhigh _ _ ?_) hj cause index tell)
  simp only [Page.base]
  omega

/-- The abort is recorded with its cause (R392). -/
theorem State.abortSlot_info {j : Nat} (hj : j < 2) {cause : Nat} (hcause : cause < 256) (index : Nat) (tell : Bool) :
    (s.abortSlot j cause index tell).field .step 0x12C 23 16 = cause := by
  have hinfo : (s.abortRecord j cause index tell).field .step 0x12C 23 16 = cause := by
    rw [State.field, State.abortRecord, State.reg_setReg_same]
    exact fld_abortInfo hcause index
  have hother : ∀ a, a ≠ Page.step.base + 0x12C → ¬ abortInfo a := fun _ h => h
  refine ((s.abortRecord_calm (A := abortInfo) (hother _ (by decide)) (fun o ho => hother _ ?_) (fun o _ => hother _ ?_)
    (fun n _ o _ => hother _ ?_) hj cause index tell).field 23 16 rfl).trans hinfo
  all_goals
    simp only [Page.base]
    omega

theorem State.uhlPut_calm (r : UhlRec) : s.Calm offLog (s.uhlPut r) := by
  unfold State.uhlPut
  refine .ite (s.setErr_calm .uhl 1 (not_offLog_uhl (by decide) (by decide)) (not_offLog_uhl (by decide) (by decide))) ?_
  extract_lets i t0 _ t1 t2
  have h0 : s.Calm offLog t0 := (s.flashPut_within _ _).calm (by decide) (by decide)
  clear_value t0
  have h1 : s.Calm offLog t1 := h0.trans ((t0.setMgmt_within _).calm (by decide) (by decide))
  clear_value t1
  have h2 : s.Calm offLog t2 := h1.trans (t1.setReg_calm _ _ _ (not_offLog_uhl (by decide) (by decide)))
  clear_value t2
  exact (h2.trans (t2.setReg_calm _ _ _ (not_offLog_uhl (by decide) (by decide)))).trans
    (State.event_calm _ .uhl 0x02 1 fun o _ ho => not_offLog_uhl (ho.trans (by decide)) (by omega))

theorem State.uhlRoom_calm : s.Calm offLog s.uhlRoom := by
  unfold State.uhlRoom
  extract_lets i sec used log gone keep t1 t2
  refine .ite (.refl s) ?_
  have h1 : s.Calm offLog t1 := ((s.flashErase_within _ _).calm (by decide) (by decide)).trans
    (State.event_calm _ .uhl 0x03 1 fun o _ ho => not_offLog_uhl (ho.trans (by decide)) (by omega))
  have h2 : s.Calm offLog t2 := h1.trans (t1.setReg_calm _ _ _ (not_offLog_uhl (by decide) (by decide)))
  exact h2.trans (State.Calm.foldl _ (fun t w _ => t.uhlPut_calm _) t2)

theorem State.escRecord_calm (level cause : Nat) : s.Calm offLog (s.escRecord level cause) :=
  .ite (.refl s) (s.uhlRoom_calm.trans (State.uhlPut_calm _ _))

theorem State.escalate_calm (cause : Nat) : s.Calm calmAddr (s.escalate cause) := by
  unfold State.escalate
  refine .ite (.refl s) ?_
  extract_lets t0 t1
  have h0 : s.Calm calmAddr t0 := s.setReg_calm _ _ _ fun ha => ha.2.1 rfl
  have h1 : s.Calm calmAddr t1 := by
    have halert : t0.Calm calmAddr (t0.setFlag .smb 0x108 1 true) := t0.setReg_calm .smb 0x108 _ fun ha => ha.2.2 rfl
    exact (h0.trans halert).trans ((State.escRecord_calm _ 4 cause).mono offLog_of_calmAddr)
  exact .ite h1 (h1.trans ((t1.setMgmt_within _).calm (by decide) (by decide)))

/-- A request for escalation raises its own bit of `ALERT` alone. -/
theorem State.escalate_alert (cause : Nat) {i : Nat} (hi : i ≠ 1) : (s.escalate cause).flag .smb 0x108 i = s.flag .smb 0x108 i := by
  unfold State.escalate
  split
  · rfl
  extract_lets t0 t1
  have hsmb : offLog (Page.smb.base + 0x108) := ⟨by decide, by decide⟩
  have h0 : (t0.setFlag .smb 0x108 1 true).flag .smb 0x108 i = s.flag .smb 0x108 i := by
    rw [State.flag, State.setFlag, State.reg_setReg_same, bitOf_setBit_ne _ _ (by decide) hi]
    exact congrArg (bitOf · i) (s.reg_setReg_ne (by decide) _)
  have h1 : t1.flag .smb 0x108 i = s.flag .smb 0x108 i := ((State.escRecord_calm _ 4 cause).flag i hsmb).trans h0
  clear_value t1
  split
  · exact h1
  · exact h1

theorem State.stepAbort_calm (cause : Nat) : s.Calm calmAddr (s.stepAbort cause) :=
  .ite ((s.abortSlot_calm (by decide) cause 0 true).mono lowAddr_of_calmAddr)
    (.ite ((s.abortSlot_calm (by decide) cause 0 true).mono lowAddr_of_calmAddr) (.ite (s.escalate_calm 0x04) (.refl s)))

/-- A step abort raises no bit of `ALERT` but that of a request for escalation. -/
theorem State.stepAbort_alert (cause : Nat) {i : Nat} (hi : i ≠ 1) : (s.stepAbort cause).flag .smb 0x108 i = s.flag .smb 0x108 i := by
  have hsmb : lowAddr (Page.smb.base + 0x108) := by simp only [lowAddr, Page.base]; omega
  unfold State.stepAbort
  split
  · exact (s.abortSlot_calm (by decide) cause 0 true).flag i hsmb
  · split
    · exact (s.abortSlot_calm (by decide) cause 0 true).flag i hsmb
    · split
      · exact s.escalate_alert 0x04 hi
      · rfl

end

section
variable (s : State)

/-! ### Clocks and voltages (R478, R488) -/

theorem State.judgeStacks_within : s.within [.mem] s.judgeStacks := rfl

theorem State.judgeLimits_within (i : Nat) : s.within [.plat, .mem] (s.judgeLimits i) :=
  State.within.trans ((s.setPlat_within _).mono (by decide)) ((State.judgeStacks_within _).mono (by decide))

theorem State.avsSend_within (k : Nat) : s.within [.io, .out] (s.avsSend k) :=
  State.within.trans ((s.event_within _ _ _).mono (by decide)) rfl

theorem State.avsUpdate_within (k : Nat) : s.within [.io, .out, .plat] (s.avsUpdate k) := by
  unfold State.avsUpdate
  extract_lets mv t p
  refine .ite (fun _ => .refl _ _) fun _ => ?_
  have ht : s.within [.io, .out, .plat] t := (s.setField_within _ _ _ _ _).mono (by decide)
  exact (ht.then (by decide) (t.setPlat_within _)).then (by decide) (State.avsSend_within _ k)

/-- The request for a voltage writes `RAIL_REQ` alone, and is counted (R488, R497). -/
theorem State.avsUpdate_calm {A : Nat → Prop} (k : Nat) (hreq : ¬ A (Page.pwr.base + 0x10C))
    (hev : ∀ o, 0x030 ≤ o → o < 0x040 → ¬ A (Page.pwr.base + o)) : s.Calm A (s.avsUpdate k) := by
  unfold State.avsUpdate
  extract_lets mv t p
  refine .ite (.refl s) ?_
  have ht : s.Calm A t := s.setReg_calm .pwr 0x10C _ hreq
  have hsend : ∀ u : State, u.Calm A (u.avsSend k) := fun u =>
    (u.event_calm .pwr 0x02 1 hev).trans (State.emit_calm _ _)
  exact (ht.trans ((t.setPlat_within _).calm (by decide) (by decide))).trans (hsend _)

end

end Sys2Proof.Machine
end

section
/-! PROOF. The commands of a port complete (R286 to R314). -/
namespace Sys2Proof.Machine

/-- A field of a word that keeps another's place. -/
theorem fld_w32_fld {w : W32} {top base hi lo : Nat} (htop : top < 32) (hhi : hi ≤ top) (hlo : base ≤ lo) :
    fld (w32 (fld w top base * 2 ^ base)) hi lo = fld w hi lo := by
  apply Nat.eq_of_testBit_eq
  intro i
  simp only [fld, w32, testBit_bits, BitVec.toNat_ofNat, Nat.testBit_mod_two_pow, Nat.testBit_mul_two_pow]
  by_cases hi1 : i < hi + 1 - lo
  · have h1 : lo + i < 32 := by omega
    have h2 : base ≤ lo + i := by omega
    have h3 : lo + i - base < top + 1 - base := by omega
    have h4 : base + (lo + i - base) = lo + i := by omega
    simp only [h1, h2, h3, h4, decide_true, Bool.true_and]
  · simp only [hi1, decide_false, Bool.false_and]

/-- A field within one that is replaced reads as the new value does. -/
theorem fld_setFld_fld {w v : W32} {top hi : Nat} (htop : top < 32) (hhi : hi ≤ top) :
    fld (setFld w top 0 (fld v top 0)) hi 0 = fld v hi 0 := by
  apply Nat.eq_of_testBit_eq
  intro i
  simp only [fld, testBit_bits, testBit_toNat, getLsbD_setFld _ _ _ _ _ htop]
  by_cases hi1 : i ≤ hi
  · simp [hi1, hi1.trans hhi]
  · simp [hi1]

/-- A bit of a field that reads 0. -/
theorem bitOf_of_fld_eq_zero {w : W32} {hi lo i : Nat} (h : fld w hi lo = 0) (hlo : lo ≤ i) (hhi : i ≤ hi) : bitOf w i = false := by
  have hbit := congrArg (Nat.testBit · (i - lo)) h
  simp only [fld, testBit_bits, Nat.zero_testBit, testBit_toNat] at hbit
  rw [bitOf_eq]
  have h1 : i - lo < hi + 1 - lo := by omega
  have h2 : lo + (i - lo) = i := by omega
  simpa [h1, h2] using hbit

/-- What is sent leaves the chip. -/
theorem State.mem_out_emitFlits {s : State} {p : Nat} {fs : List Flit} {f : Flit} (h : f ∈ fs) : .flit p f ∈ (s.emitFlits p fs).out := by
  have hfold : ∀ (fs : List Flit) (t : State), f ∈ fs ∨ .flit p f ∈ t.out →
      .flit p f ∈ (fs.foldl (fun t f => t.emit (.flit p f)) t).out := by
    intro fs
    induction fs with
    | nil => exact fun t h => h.resolve_left List.not_mem_nil
    | cons g fs ih =>
      intro t h
      refine ih _ ?_
      rcases h with h | h
      · rcases List.mem_cons.mp h with rfl | h
        · exact .inr List.mem_cons_self
        · exact .inl h
      · exact .inr (List.mem_cons_of_mem _ h)
  unfold State.emitFlits
  rw [(State.event_within _ _ _ _).out (by decide)]
  exact hfold fs s (.inl h)

section
variable {s : State} {port : Fin 36}

/-! ### Training and admission -/

theorem exec_portTrainAttempt_trains (g2 : Bool) (nonce : List Byte) (hdisc : s.fab.disc = true)
    (hgen : s.field (.prt port.val) 0x100 1 0 ≠ 0) (hst : (s.port port.val).st = .down) :
    ∃ t, exec (.portTrainAttempt port true g2 nonce) s = .next t ∧ (t.port port.val).st = .hello ∧
      (t.port port.val).nonce = nonce := by
  refine ⟨_, rfl, ?_⟩
  rw [if_neg (by simp [hdisc, hgen, hst]), if_pos rfl]
  extract_lets code fresh t
  have hport : ∀ u : State, u.port port.val = t.port port.val → (u.port port.val).st = .hello ∧ (u.port port.val).nonce = nonce := by
    intro u hu
    rw [hu, State.port_setPort_same]
    exact ⟨rfl, rfl⟩
  clear_value t
  rw [(State.sendBytes_sends _ _ _ _).port_st, (State.sendBytes_sends _ _ _ _).port_nonce]
  refine hport _ ?_
  rw [State.port, (State.judgeLimits_within _ _).ports (by decide)]
  rfl

theorem exec_helloReceive_attests {h : Hello} (hst : (s.port port.val).st = .hello) (hgroup : fld h.pos 29 21 ≠ s.myGroup) :
    ∃ t, exec (.helloReceive port h) s = .next t ∧ (t.port port.val).st = .attest := by
  have hpos : fld (setBit (w32 (fld h.pos 30 11 * 2 ^ 11)) 31 true) 29 21 = fld h.pos 29 21 :=
    (fld_setBit_ne _ 31 29 21 true (by decide) (by decide)).trans (fld_w32_fld (by decide) (by decide) (by decide))
  refine ⟨_, rfl, ?_⟩
  rw [if_neg (by simp [hst])]
  extract_lets pos
  have hown : (!(bitOf pos 30) && fld pos 29 21 == s.myGroup && fld pos 20 17 == s.myDev) = false := by
    simp only [pos, hpos, beq_eq_false_iff_ne.mpr hgroup, Bool.and_false, Bool.false_and]
  rw [if_neg (by rw [hown]; decide), State.port_discCheck]
  unfold State.helloTaken
  extract_lets k t u msg
  have ht : (t.port port.val).st = .attest := by rw [State.port_setPort_same]
  have hu : (u.port port.val).st = .attest := by
    rw [(State.sendLinks_sends _).port_st]
    split
    · rwa [State.port_setErr]
    · exact ht
  have hsigned : ∀ q, ((u.signed admitContext msg).1.port q) = u.port q := fun q => by
    rw [State.port, (u.signed_within admitContext msg).ports (by decide)]
    rfl
  clear_value u
  split
  · next v sig hv =>
    rw [(State.sendBytes_sends _ _ _ _).port_st, show v = (u.signed admitContext msg).1 by rw [hv], hsigned]
    exact hu
  · next v hv =>
    rw [show v = (u.signed admitContext msg).1 by rw [hv], hsigned]
    exact hu

theorem exec_admitReceive_judges {h : Hello} {sig key : List Byte} (hst : (s.port port.val).st = .attest)
    (hpeer : (s.port port.val).peer = some h) (hverdict : (s.port port.val).verdict < 3) (hsig : sig.length = 17088)
    (hkey : key.length = 32) (hplan : sha256 key = s.planId port.val) :
    ∃ t, exec (.admitReceive port sig key) s = .next t ∧
      (t.port port.val).st = if Config.slhVerify key admitContext (admitMessage (Config.helloBytes h.pos h.gen.val h.nonce)
        (Config.helloBytes (s.myPos port.val) (s.port port.val).ownGen (s.port port.val).nonce)) sig then .up else .fenced := by
  refine ⟨_, rfl, ?_⟩
  split
  · next hnone => cases hpeer.symm.trans hnone
  next h' hpeer' =>
  obtain rfl := Option.some.inj (hpeer.symm.trans hpeer')
  rw [if_neg (by simp [hst])]
  extract_lets msg ok same t
  rw [State.port_discCheck]
  have ht : (t.port port.val).st = .attest := by rw [State.port_setPort_same]; exact hst
  have hsame : same = true := by simp [same, hplan]
  change _ = if ok = true then PortSt.up else .fenced
  clear_value t ok same
  rw [if_neg (by simp [hsig, hkey])]
  by_cases hok : ok = true
  · rw [if_neg (by simp [hok]), if_neg (by omega), if_neg (by simp [hsame]), if_pos hok]
    exact t.goUp_st _
  · rw [if_pos (by simp [hok]), if_neg hok]
    exact (t.admitFail_fences _ _ (by rw [ht]; decide)).1

theorem exec_admitTimeout_fences (hst : (s.port port.val).st = .attest) :
    ∃ t, exec (.admitTimeout port) s = .next t ∧ (t.port port.val).st = .fenced ∧ (t.port port.val).cause = 5 := by
  refine ⟨_, rfl, ?_⟩
  rw [if_neg (by simp [hst]), State.port_discCheck]
  exact State.admitFail_fences _ _ _ (by rw [State.port_advance, hst]; decide)

/-! ### Discovery -/

theorem exec_discStart_starts {v : W32} (hready : s.ready = true) (hv : bitOf v 0 = true) :
    ∃ t, exec (.discStart v) s = .next t ∧ t.fab.discDone = !t.fab.disc := by
  refine ⟨_, rfl, ?_⟩
  rw [if_neg (by simp [hready, hv])]
  unfold State.discCheck
  split <;> rfl

theorem exec_discTimeout_ends (hdisc : s.fab.disc = true) :
    ∃ t, exec .discTimeout s = .next t ∧ t.fab.disc = false ∧ t.fab.discDone = true := by
  refine ⟨_, rfl, ?_⟩
  rw [if_neg (by simp [hdisc])]
  exact ⟨rfl, rfl⟩

/-! ### Probes and what is absent -/

theorem exec_probeSend_sends (hst : (s.port port.val).st = .up) :
    ∃ t, exec (.probeSend port) s = .next t ∧ (t.port port.val).probes = (s.port port.val).probes ++ [t.refcnt] := by
  refine ⟨_, rfl, ?_⟩
  rw [if_neg (by simp [hst])]
  extract_lets t
  have hs := State.sendOwn_sends (t.setPort port.val { s.port port.val with
    probeAt := t.refcnt, probes := (s.port port.val).probes ++ [t.refcnt] }) port.val 3 [valueSlot t.refcnt]
  have hprobes := congrArg Port.probes (hs.silent port.val)
  rw [State.port_setPort_same] at hprobes
  rw [hs.within.refcnt (by decide)]
  exact hprobes

theorem exec_probeReceive_answers (count : W64) (hst : (s.port port.val).st = .up) (hq : (s.port port.val).ctlq = [])
    (hreplay : (s.port port.val).replay.length < 256) :
    ∃ t, exec (.probeReceive port count) s = .next t ∧
      .flit port.val ((s.port port.val).sendFlit 4 2 0 [valueSlot count]).2 ∈ t.out := by
  refine ⟨_, rfl, ?_⟩
  unfold State.probeGot
  extract_lets k
  rw [if_pos (.inl hst)]
  unfold State.sendOwn State.pump
  extract_lets k1 r
  have hk1 : k1 = { k with ctlq := [(4, [valueSlot count])] } := by
    simp only [k1, State.port_setPort_same, k, hq, List.nil_append]
  have hflit : (k.sendFlit 4 2 0 [valueSlot count]).2 = ({ k1 with ctlq := [] }.sendFlit 4 2 0 [valueSlot count]).2 := by
    rw [hk1]
    rfl
  have hlinked : k1.st.linked = true := by
    rw [hk1]
    simp [k, hst, PortSt.linked]
  have hroom : k1.replay.length < 256 := by
    rw [hk1]
    exact hreplay
  refine State.mem_out_emitFlits ?_
  rw [hflit]
  clear_value k1
  exact Port.mem_pump_of_ctlq (c := (4, [valueSlot count])) hlinked hroom (congrArg Port.ctlq hk1)

theorem exec_probeReplyReceive_stores {count : W64} (hmem : count ∈ (s.port port.val).probes)
    (htime : (s.refcnt - count).toNat ≤ s.field (.prt port.val) 0x110 19 8 * 100) :
    ∃ t, exec (.probeReplyReceive port count) s = .next t ∧ t.reg (.prt port.val) 0x12C = w32 (s.refcnt - count).toNat := by
  refine ⟨_, rfl, ?_⟩
  unfold State.replyGot
  extract_lets k rtt
  rw [List.contains_iff_mem.mpr hmem, if_neg]
  · exact State.reg_setReg_same _ _ _ _
  · rw [Bool.not_true, Bool.false_or, decide_eq_true_eq]
    exact Nat.not_lt.mpr htime

theorem exec_probeMiss_counts {count : W64} {rest : List W64} (hprobes : (s.port port.val).probes = count :: rest) :
    ∃ t, exec (.probeMiss port) s = .next t ∧
      t.reg (.prt port.val) 0x13C = satAdd32 (s.reg (.prt port.val) 0x13C) 1 := by
  refine ⟨_, rfl, ?_⟩
  split
  · next hnil => cases hprobes.symm.trans hnil
  next c rest' hcons =>
  obtain ⟨rfl, rfl⟩ := List.cons.inj (hprobes.symm.trans hcons)
  extract_lets t u
  have hu : u.reg (.prt port.val) 0x13C = satAdd32 (s.reg (.prt port.val) 0x13C) 1 := by
    rw [State.reg_setPort, State.reg_addSat, (s.advance_keepsRegs _ _).reg _ (by decide) (by decide)]
  have hlost : u.KeepsRegs (u.absent port.val).discCheck :=
    (u.absent_absent port.val).regs.trans ((State.discCheck_within _).calm (by decide) (by decide))
  clear_value u
  rw [← hu]
  exact State.KeepsRegs.reg (.ite hlost (.refl u)) _ (by decide) (by decide)

theorem exec_lossOfLight_drops (hst : (s.port port.val).st = .up) :
    ∃ t, exec (.lossOfLight port) s = .next t ∧ (t.port port.val).st ≠ .up := by
  refine ⟨_, rfl, ?_⟩
  rw [hst, State.port_discCheck]
  exact (s.absent_absent port.val).st

/-! ### Window counts -/

theorem exec_starveEpisode_counts (hst : (s.port port.val).st = .up)
    (hstarve : ∃ e ∈ (s.port port.val).txq, (s.port port.val).credit e.cls e.vc = 0) :
    ∃ t, exec (.starveEpisode port) s = .next t ∧
      t.reg (.prt port.val) 0x138 = satAdd32 (s.reg (.prt port.val) 0x138) 1 := by
  refine ⟨_, rfl, ?_⟩
  obtain ⟨e, he, hc⟩ := hstarve
  rw [if_neg (by
    simp only [hst, ne_eq, not_true_eq_false, Bool.not_eq_eq_eq_not, false_or]
    simp only [Bool.not_true, List.any_eq_false, not_forall]
    exact ⟨e, he, by simp [hc]⟩)]
  extract_lets t
  have ht : t.reg (.prt port.val) 0x138 = satAdd32 (s.reg (.prt port.val) 0x138) 1 := by
    rw [State.reg_addSat, State.reg_setPort]
  have hup : (t.port port.val).st = .up := by
    rw [State.port_addSat, State.port_setPort_same]
    exact hst
  clear_value t
  rw [← ht]
  exact State.KeepsRegs.reg (.ite (t.fencePort_fences port.val 2 (by rw [hup]; decide)).regs (.refl t)) _ (by decide) (by decide)

theorem exec_fenceWindowExpire_restarts :
    ∃ t, exec (.fenceWindowExpire port) s = .next t ∧ (t.port port.val).retryW = 0 ∧ (t.port port.val).malfW = 0 ∧
      (t.port port.val).starveW = 0 := by
  refine ⟨_, rfl, ?_⟩
  rw [State.port_setPort_same]
  exact ⟨rfl, rfl, rfl⟩

theorem exec_rateIntervalExpire_restarts :
    ∃ t, exec (.rateIntervalExpire port) s = .next t ∧ (t.port port.val).hdrs = 0 := by
  refine ⟨_, rfl, ?_⟩
  rw [State.port_setPort_same]

theorem exec_linkMapUpdate_stores {idx : BitVec 8} (v : W32) (hst : (s.port port.val).st = .up)
    (hrole : portRole (s.portAs port.val) = 0) (hmate : s.mateOf (portIndex (s.portAs port.val)) = idx.toNat / 16) :
    ∃ t, exec (.linkMapUpdate port idx v) s = .next t ∧ fld (Table.get (fun _ => 0) t.fab.lmap idx.toNat) 31 11 = fld v 31 11 := by
  refine ⟨_, rfl, ?_⟩
  rw [if_pos ⟨hst, hrole, hmate⟩, Table.get_set_same]
  exact fld_w32_fld (by decide) (by decide) (by decide)

/-! ### The port registers -/

theorem exec_portCtlAdmit_admits {v : W32} (hready : s.ready = true) (hst : (s.port port.val).st = .quarantine) (hv : fld v 3 1 = 0)
    (hatt : (s.port port.val).attOk = true) (hdigest : s.admitDigest port.val = true) :
    ∃ t, exec (.portCtlAdmit port v) s = .next t ∧ (t.port port.val).st = .up := by
  refine ⟨_, rfl, ?_⟩
  unfold State.portCtl
  extract_lets k _ _ t
  have h1 : bitOf v 1 = false := bitOf_of_fld_eq_zero hv (by decide) (by decide)
  have h2 : bitOf v 2 = false := bitOf_of_fld_eq_zero hv (by decide) (by decide)
  have h3 : bitOf v 3 = false := bitOf_of_fld_eq_zero hv (by decide) (by decide)
  rw [if_neg (by simp [hready]), if_neg (by simp [bitOf_setBit_ne, h3]), if_neg (by simp [bitOf_setBit_ne, h2]),
    if_neg (by simp [bitOf_setBit_ne, h1]), if_pos (bitOf_setBit_same _ _ _ (by decide)), if_pos ⟨hst, hatt, hdigest⟩]
  clear_value t
  exact t.goUp_st _

theorem exec_portCtlFence_fences (v : W32) (hready : s.ready = true) (hdis : (s.port port.val).st ≠ .disabled)
    (hst : (s.port port.val).st ≠ .fenced) :
    ∃ t, exec (.portCtlFence port v) s = .next t ∧ (t.port port.val).st = .fenced := by
  refine ⟨_, rfl, ?_⟩
  unfold State.portCtl
  extract_lets k
  rw [if_neg (by simp [hready]), if_pos (bitOf_setBit_same _ _ _ (by decide)), if_neg hdis, State.port_discCheck]
  exact (s.fencePort_fences port.val 8 hst).st

theorem exec_portCtlUnfence_trains {v : W32} (hready : s.ready = true) (hst : (s.port port.val).st = .fenced)
    (hpos : s.posBad = false) (hv : bitOf v 3 = false) :
    ∃ t, exec (.portCtlUnfence port v) s = .next t ∧ (t.port port.val).st = .training := by
  refine ⟨_, rfl, ?_⟩
  unfold State.portCtl
  extract_lets k
  rw [if_neg (by simp [hready]), if_neg (by simp [bitOf_setBit_ne, hv]), if_pos (by simp [k, hst, hpos]), State.port_setPort_same]

theorem exec_portCtlRetrain_trains {v : W32} (hready : s.ready = true) (hst : (s.port port.val).st = .up) (hv : bitOf v 3 = false) :
    ∃ t, exec (.portCtlRetrain port v) s = .next t ∧ (t.port port.val).st = .training := by
  refine ⟨_, rfl, ?_⟩
  unfold State.portCtl
  extract_lets k t
  rw [if_neg (by simp [hready]), if_neg (by simp [bitOf_setBit_ne, hv]), if_neg (by simp [k, hst]), if_pos (by simp [k, hst]),
    State.port_setPort_same]
  exact (s.leaveUp_leaves port.val .training).st

/-- `GEN_MAX` is stored; what follows from it changes no register of the port. -/
theorem State.setGenMax_field (t : State) (p : Nat) (v : W32) : (t.setGenMax p v).field (.prt p) 0x100 1 0 = fld v 1 0 := by
  unfold State.setGenMax
  extract_lets u k
  have hu : u.field (.prt p) 0x100 1 0 = fld v 1 0 := by
    rw [State.field, State.reg_setReg_same]
    exact fld_setFld_fld (by decide) (by decide)
  have hdown : u.KeepsRegs (u.setPort p { k with st := .down }) := .of_io rfl rfl
  clear_value u
  rw [← hu]
  exact State.KeepsRegs.field (.ite (.ite (.refl u) (u.leaveUp_leaves p .disabled).regs) (.ite hdown (.refl u))) _ _ _
    (by decide) (by decide)

theorem exec_portCfgWrite_sets (v : W32) (hready : s.ready = true) (hsealed : s.pageSealed (.prt port.val) = false) :
    ∃ t, exec (.portCfgWrite port v) s = .next t ∧ t.field (.prt port.val) 0x100 1 0 = fld v 1 0 := by
  refine ⟨_, rfl, ?_⟩
  rw [if_neg (by simp [hready, hsealed])]
  extract_lets sub t
  exact (State.KeepsRegs.field ((State.discCheck_within _).calm (by decide) (by decide)) _ _ _ (by decide) (by decide)).trans
    (t.setGenMax_field port.val v)

/-! ### Flits -/

theorem State.linksGot_within (t : State) (p : Nat) (ws : List W32) : t.within [.fab] (t.linksGot p ws) :=
  .ite (fun _ => .refl _ _) fun _ => rfl

/-- The slots of a flit leave the numbers of the link as they are. -/
theorem State.dataGot_rxSeq (t : State) (p : Nat) (f : Flit) : ((t.dataGot p f).port p).rxSeq = (t.port p).rxSeq := by
  unfold State.dataGot
  extract_lets k cls vc keep links k1
  have hset : ((t.setPort p k1).port p).rxSeq = (t.port p).rxSeq := by rw [t.port_setPort_same p k1]; rfl
  generalize t.setPort p k1 = u at hset ⊢
  clear_value links
  have hlink : ∀ (t : State) (x : Slot), t.within [.fab] (t.linksGot p x.words) := fun t x => t.linksGot_within p x.words
  have hlinks : u.within [.fab] (links.foldl (fun t x => t.linksGot p x.words) u) := State.within.foldl hlink links u
  rw [State.port, hlinks.ports (by decide)]
  exact hset

theorem exec_flitReceive_takes {f : Flit} (hst : (s.port port.val).st = .up) (hcrc : crc64 (flBytes f) = f.crc.toNat)
    (hty : flType f = 1) (hseq : flSeq f = ((s.port port.val).rxSeq + 1) % 65536) (hbad : (s.port port.val).flBad f = false) :
    ∃ t, exec (.flitReceive port f) s = .next t ∧ (t.port port.val).rxSeq = flSeq f := by
  refine ⟨_, rfl, ?_⟩
  rw [if_neg (by simp [hst, PortSt.linked]), if_neg (not_not.mpr hcrc), if_neg (hty ▸ by decide), if_neg (not_not.mpr hseq)]
  extract_lets _ k1 t
  have ht : (t.port port.val).rxSeq = flSeq f := by rw [State.port_event, State.port_setPort_same]
  rw [if_neg (by simp [hbad])]
  generalize t.port port.val = k at ht ⊢
  have hu : ((t.setPort port.val (k.creditGot f)).port port.val).rxSeq = flSeq f :=
    (congrArg Port.rxSeq (t.port_setPort_same port.val (k.creditGot f))).trans ht
  generalize t.setPort port.val (k.creditGot f) = u at hu ⊢
  have htake : u.flTake port.val f = u.dataGot port.val f := by
    unfold State.flTake
    extract_lets v
    rw [hty]
    rfl
  have hack := congrArg Port.rxSeq ((State.pumpAck_sends (u.dataGot port.val f) port.val).silent port.val)
  rw [htake]
  exact (hack.trans (u.dataGot_rxSeq port.val f)).trans hu

theorem Port.acked_retryW (k : Port) (ack : Nat) : (k.acked ack).retryW = k.retryW := by
  unfold Port.acked
  split <;> rfl

/-- A retry episode within the limit of the window is counted. -/
theorem State.retryEpisode_retryW (t : State) (p : Nat) (h : (t.port p).retryW + 1 ≤ t.field (.prt p) 0x11C 31 24) :
    ((t.retryEpisode p).port p).retryW = (t.port p).retryW + 1 := by
  unfold State.retryEpisode
  extract_lets k u
  rw [if_neg (Nat.not_lt.mpr h), State.port_addSat, State.port_setPort_same]

theorem exec_nakReceive_resends {ack : BitVec 16} (hst : (s.port port.val).st = .up)
    (hreplay : ((s.port port.val).acked ack.toNat).replay ≠ [])
    (hresent : ∀ r ∈ ((s.port port.val).acked ack.toNat).replay, r.resent < 16)
    (hlim : (s.port port.val).retryW + 1 ≤ s.field (.prt port.val) 0x11C 31 24) :
    ∃ t, exec (.nakReceive port ack) s = .next t ∧ (t.port port.val).retryW = (s.port port.val).retryW + 1 := by
  refine ⟨_, rfl, ?_⟩
  rw [if_pos (by simp [hst, PortSt.linked])]
  unfold State.nakGot
  extract_lets k t u
  have htu : t.Sends (u.event (.prt port.val) 0x04 k.replay.length) :=
    (State.Sends.foldl (fun t r => t.emit_sends _) _ _).trans (State.event_sends _ _ _ _)
  have hretry : (t.port port.val).retryW = (s.port port.val).retryW := by
    rw [State.port_setPort_same]
    exact (s.port port.val).acked_retryW ack.toNat
  have hsent := (congrArg Port.retryW (htu.silent port.val)).trans hretry
  have hfield := htu.regs.field (.prt port.val) (j := 0x11C) 31 24 (by decide) (by decide)
  rw [if_neg (by simpa [List.isEmpty_iff] using hreplay), if_neg (by
    simp only [List.any_eq_true, decide_eq_true_eq, not_exists, not_and, Nat.not_le]
    exact hresent)]
  refine (State.retryEpisode_retryW _ _ ?_).trans (congrArg (· + 1) hsent)
  rw [hfield]
  exact hsent ▸ hlim

end

/-- Settles O56: each command of a port by the lemma that says what it does to a port in the state it needs. -/
theorem portCommandsComplete : Obligations.PortCommandsComplete := by
  unfold Obligations.PortCommandsComplete
  rintro s port _ nonce sig key g2 h v count rest idx f ack rfl p
  exact ⟨exec_portTrainAttempt_trains g2 nonce, exec_helloReceive_attests, exec_admitReceive_judges, exec_admitTimeout_fences,
    exec_discStart_starts, exec_discTimeout_ends, exec_probeSend_sends, exec_probeReceive_answers count,
    exec_probeReplyReceive_stores, exec_probeMiss_counts, exec_lossOfLight_drops, exec_starveEpisode_counts,
    exec_fenceWindowExpire_restarts, exec_rateIntervalExpire_restarts, exec_linkMapUpdate_stores v, exec_portCtlAdmit_admits,
    exec_portCtlFence_fences v, exec_portCtlUnfence_trains, exec_portCtlRetrain_trains, fun hready hsealed _ => exec_portCfgWrite_sets v hready hsealed,
    exec_flitReceive_takes, exec_nakReceive_resends⟩

end Sys2Proof.Machine
end

section
/-! PROOF. The clock monitor: what judging an input, losing one and switching islands leave as they are (R479 to R483). -/
namespace Sys2Proof.Machine

/-! ### The inputs -/

theorem Plat.input_setInput_same (p : Plat) (i : ClkInput) (v : ClkIn) : (p.setInput i v).input i = v := by
  cases i <;> rfl

theorem Plat.input_setInput_ne (p : Plat) {i j : ClkInput} (h : j ≠ i) (v : ClkIn) : (p.setInput i v).input j = p.input j := by
  cases i <;> cases j <;> simp_all [Plat.setInput, Plat.input]

section
variable (s : State)

theorem State.setInput_plat (i : ClkInput) (v : ClkIn) : (s.setInput i v).plat = s.plat.setInput i v := rfl

theorem State.input_setInput_same (i : ClkInput) (v : ClkIn) : (s.setInput i v).input i = v := s.plat.input_setInput_same i v

theorem State.input_setInput_ne {i j : ClkInput} (h : j ≠ i) (v : ClkIn) : (s.setInput i v).input j = s.input j :=
  s.plat.input_setInput_ne h v

theorem State.setInput_within (i : ClkInput) (v : ClkIn) : s.within [.io, .plat] (s.setInput i v) :=
  State.within.trans ((s.setPlat_within _).mono (by decide)) ((State.setReg_within _ _ _ _).mono (by decide))

theorem State.setInput_calm {A : Nat → Prop} (h : ¬ A 0x1104) (i : ClkInput) (v : ClkIn) : s.Calm A (s.setInput i v) :=
  State.Calm.trans ((s.setPlat_within _).calm (by decide) (by decide)) (State.setReg_calm _ .clk 0x104 _ h)

/-! ### Islands (R475, R481) -/

theorem State.reserve_within (l : List Nat) (b : Bool) : s.within [.io] (s.reserve l b) :=
  .foldl (fun t _ => t.setFlag_within _ _ _ _) l s

theorem State.reserve_calm {A : Nat → Prop} {l : List Nat} (h : ∀ i ∈ l, ¬ A (0x1000 + islReg i)) (b : Bool) :
    s.Calm A (s.reserve l b) := .foldl l (fun t i hi => t.setReg_calm .clk _ _ (h i hi)) s

theorem State.islReserve_reserve (l : List Nat) (b : Bool) (i : Nat) :
    (s.reserve l b).islReserve i = if i ∈ l then b else s.islReserve i := by
  induction l generalizing s with
  | nil => rfl
  | cons j l ih =>
    have hfirst : (s.reserve (j :: l) b) = (s.setFlag .clk (islReg j) 31 b).reserve l b := rfl
    rw [hfirst, ih]
    by_cases hl : i ∈ l
    · rw [if_pos hl, if_pos (List.mem_cons_of_mem _ hl)]
    · rw [if_neg hl]
      by_cases hj : i = j
      · rw [if_pos (hj ▸ List.mem_cons_self), hj]
        exact s.flag_setFlag_same _ _ _ _ (by decide)
      · rw [if_neg (by simp [hj, hl])]
        exact congrArg (bitOf · 31) (s.reg_setFlag_ne 31 b (by simp only [islReg, Page.base]; omega))

/-! ### The reference counter's source (R21, R28) -/

theorem State.refReserve_within (b : Bool) : s.within [.io] (s.refReserve b) :=
  State.within.trans (s.setFlag_within _ _ _ _) (State.setField_within _ _ _ _ _ _)

theorem State.refReserve_calm {A : Nat → Prop} (h : ¬ A 0x110) (b : Bool) : s.Calm A (s.refReserve b) :=
  State.Calm.trans (s.setReg_calm .dev 0x110 _ (by simpa [Page.base] using h))
    (State.setReg_calm _ .dev 0x110 _ (by simpa [Page.base] using h))

theorem State.refReserve_flag (b : Bool) : (s.refReserve b).flag .dev 0x110 0 = b := by
  unfold State.refReserve
  extract_lets n
  rw [State.flag, State.setField, State.reg_setReg_same, bitOf_setFld_ne _ _ _ _ _ (by decide) (by decide)]
  exact s.flag_setFlag_same _ _ _ _ (by decide)

/-! ### The ports (R481) -/

theorem State.portsGo_step {P : PortSt → Bool} {dst : PortSt} (t : State) (p : Nat) :
    t.within leaveAreas (if P (t.port p).st then t.leaveUp p dst else t) ∧
      t.KeepsRegs (if P (t.port p).st then t.leaveUp p dst else t) :=
  iteInduction (motive := fun u => t.within leaveAreas u ∧ t.KeepsRegs u)
    (fun _ => ⟨(t.leaveUp_leaves p dst).within, (t.leaveUp_leaves p dst).regs⟩) fun _ => ⟨.refl _ _, .refl t⟩

theorem State.portsGo_within (P : PortSt → Bool) (dst : PortSt) : s.within leaveAreas (s.portsGo P dst) :=
  .foldl (fun t p => (t.portsGo_step p).1) _ _

theorem State.portsGo_keepsRegs (P : PortSt → Bool) (dst : PortSt) : s.KeepsRegs (s.portsGo P dst) :=
  .foldl _ (fun t p _ => (t.portsGo_step p).2) _

/-- Each port changes its state once. -/
theorem State.portsGo_st (P : PortSt → Bool) (dst : PortSt) (q : Nat) :
    ((s.portsGo P dst).port q).st = if q < 36 ∧ P (s.port q).st then dst else (s.port q).st := by
  have hfold : ∀ (l : List Nat), l.Nodup → ∀ t : State,
      ((l.foldl (fun t p => if P (t.port p).st then t.leaveUp p dst else t) t).port q).st =
        if q ∈ l ∧ P (t.port q).st then dst else (t.port q).st := by
    intro l
    induction l with
    | nil => exact fun _ t => by simp
    | cons p l ih =>
      intro hnd t
      rw [List.foldl_cons, ih (List.nodup_cons.mp hnd).2]
      by_cases hq : q = p
      · subst hq
        rw [if_neg (fun h => (List.nodup_cons.mp hnd).1 h.1)]
        by_cases hP : P (t.port q).st
        · rw [if_pos hP, if_pos ⟨List.mem_cons_self, hP⟩]
          exact (t.leaveUp_leaves q dst).st
        · rw [if_neg hP, if_neg (fun h => hP h.2)]
      · have hst : ((if P (t.port p).st then t.leaveUp p dst else t).port q).st = (t.port q).st := by
          split
          · have hsilent := congrArg Port.st ((t.leaveUp_leaves p dst).other hq)
            exact hsilent
          · rfl
        rw [hst]
        simp [hq]
  rw [State.portsGo, hfold _ List.nodup_range]
  simp only [List.mem_range]

/-! ### A loss (R481, R482) -/

theorem State.coreReserve_within : s.within leaveAreas s.coreReserve :=
  State.within.trans (((s.reserve_within _ _).trans (State.refReserve_within _ _)).mono (by decide)) (State.portsGo_within _ _ _)

theorem State.clockLoss_within (i : ClkInput) : s.within (.mgmt :: abortAreas) (s.clockLoss i) := by
  unfold State.clockLoss
  extract_lets t
  have ht : s.within [.io, .out] t := (s.setErr_within _ _).then (by decide) (State.setFlag_within _ _ _ _ _)
  have hsend : s.within [.io, .out] (if i = .pcie then t else t.sendVector 0) :=
    .ite (fun _ => ht) fun _ => ht.trans (by
      unfold State.sendVector
      exact .ite (fun _ => rfl) fun _ => rfl)
  exact (hsend.mono (by decide)).trans (State.stepAbort_within _ _)

theorem State.coreReserve_calm {A : Nat → Prop} (hbody : ∀ a, A a → bodyAddr a) (hisl : ∀ i, ¬ A (0x1000 + islReg i)) (href : ¬ A 0x110) :
    s.Calm A s.coreReserve := by
  unfold State.coreReserve
  have hreserve : s.Calm A (s.reserve (inputIslands .core) true) := s.reserve_calm (fun i _ => hisl i) true
  exact (hreserve.trans (State.refReserve_calm _ href true)).trans ((State.portsGo_keepsRegs _ _ _).mono hbody)

/-- A Clock Loss event writes the error bits of the clocks and `ALERT`, and may abort a step (R482). -/
theorem State.clockLoss_calm {A : Nat → Prop} (h10 : ¬ A 0x1010) (h18 : ¬ A 0x1018) (hA : ∀ a, A a → calmAddr a) (i : ClkInput) :
    s.Calm A (s.clockLoss i) := by
  unfold State.clockLoss
  extract_lets t
  have ht : s.Calm A t := (s.setErr_calm .clk _ h10 h18).trans (State.setReg_calm _ .smb 0x108 _ fun ha => (hA _ ha).2.2 rfl)
  have hsend : s.Calm A (if i = .pcie then t else t.sendVector 0) := .ite ht (ht.trans (t.sendVector_calm 0))
  exact hsend.trans ((State.stepAbort_calm _ _).mono hA)

/-- What an input's loss sets (R481, R482). -/
theorem State.clockLoss_signs (i : ClkInput) : (s.clockLoss i).flag .clk 0x010 (inputBit i) = true ∧
    (s.clockLoss i).flag .smb 0x108 0 = true ∧ (i ≠ .pcie → s.vectorMasked 0 = false → .msix 0 ∈ (s.clockLoss i).out) := by
  unfold State.clockLoss
  extract_lets t
  have hbit : inputBit i < 32 := by cases i <;> decide
  have hclk : t.flag .clk 0x010 (inputBit i) = true := by
    rw [State.flag, State.reg_setFlag_ne _ _ _ (by decide)]
    exact s.flag_setErr .clk _ hbit
  have hsmb : t.flag .smb 0x108 0 = true := State.flag_setFlag_same _ _ _ _ _ (by decide)
  have hmask : t.vectorMasked 0 = s.vectorMasked 0 :=
    State.Calm.vectorMasked (A := fun _ => False) ((s.setErr_calm .clk _ id id).trans (State.setReg_calm _ .smb 0x108 _ id)) 0
  have hsend : t.Calm calmAddr (if i = .pcie then t else t.sendVector 0) := .ite (.refl t) (t.sendVector_calm 0)
  have halert : (if i = .pcie then t else t.sendVector 0).flag .smb 0x108 0 = t.flag .smb 0x108 0 := by
    split
    · rfl
    · exact congrArg (bitOf · 0) (t.reg_sendVector 0 .smb 0x108)
  have habort := State.stepAbort_calm (if i = .pcie then t else t.sendVector 0) 0x04
  refine ⟨?_, ?_, fun hi hunmasked => habort.out ?_⟩
  · exact ((hsend.trans habort).flag _ ⟨⟨by decide, by decide⟩, by decide, by decide⟩).trans hclk
  · rw [State.stepAbort_alert _ _ (by decide), halert, hsmb]
  · rw [if_neg hi, State.sendVector, hmask, hunmasked]
    exact List.mem_cons_self

/-- The inputs after a loss of `i`: the references wait for WATCH_OSC again once it is lost (R480, R481). -/
def Plat.afterLoss (p : Plat) (i : ClkInput) : Plat :=
  let q := p.setInput i { st := .lost }
  if (p.input i).st ≠ .lost ∧ i = .watch then (q.setInput .core {}).setInput .pcie {} else q

theorem Plat.afterLoss_input_same (p : Plat) (i : ClkInput) : (p.afterLoss i).input i = { st := .lost } := by
  unfold Plat.afterLoss
  extract_lets q
  split
  · next h =>
    rw [h.2, Plat.input_setInput_ne _ (by decide), Plat.input_setInput_ne _ (by decide), ← h.2]
    exact p.input_setInput_same i _
  · exact p.input_setInput_same i _

theorem Plat.afterLoss_input_ne (p : Plat) {i j : ClkInput} (h : j ≠ i) (hi : i ≠ .watch) : (p.afterLoss i).input j = p.input j := by
  unfold Plat.afterLoss
  extract_lets q
  rw [if_neg (fun hw => hi hw.2)]
  exact p.input_setInput_ne h _

/-- A loss changes the inputs, and no other part of the platform. -/
theorem State.lose_plat (i : ClkInput) : (s.lose i).plat = s.plat.afterLoss i := by
  unfold State.lose
  by_cases hst : (s.input i).st = .lost
  · rw [if_pos hst, Plat.afterLoss, if_neg (fun h => h.1 hst)]
    rfl
  · rw [if_neg hst]
    extract_lets t u v
    have hu : u.plat = s.plat.afterLoss i := by
      by_cases hi : i = .watch
      · simp only [u, Plat.afterLoss, hi, if_true]
        rw [if_pos ⟨hi ▸ hst, trivial⟩]
        subst hi
        rfl
      · simp only [u, Plat.afterLoss]
        rw [if_neg hi, if_neg (fun h => hi h.2)]
        rfl
    clear_value u
    have hv : u.within leaveAreas v :=
      .ite (fun _ => u.coreReserve_within) fun _ => (u.reserve_within _ _).mono (by decide)
    clear_value v
    split
    · exact hu
    · rw [(State.clockLoss_within _ i).plat (by decide)]
      exact (hv.plat (by decide)).trans hu

/-- What the judgement of an input leaves alone: the counts of the monitor's windows, and the source of the reference counter unless
it is CORE_REFCLK that is judged. -/
abbrev monAddr (i : ClkInput) (a : Nat) : Prop := a = 0x1108 ∨ a = 0x110C ∨ a = 0x1110 ∨ (a = 0x110 ∧ i ≠ .core)

theorem calmAddr_of_monAddr {i : ClkInput} (a : Nat) (h : monAddr i a) : calmAddr a := by
  rcases h with rfl | rfl | rfl | ⟨rfl, -⟩ <;> exact ⟨⟨by decide, by decide⟩, by decide, by decide⟩

theorem bodyAddr_of_monAddr {i : ClkInput} (a : Nat) (h : monAddr i a) : bodyAddr a := by
  rcases h with rfl | rfl | rfl | ⟨rfl, -⟩ <;> decide

theorem not_monAddr_islReg (i : ClkInput) (x : Nat) : ¬ monAddr i (0x1000 + islReg x) := by
  unfold monAddr islReg
  omega

/-- A register of the clocks that the monitor writes. -/
theorem not_monAddr (i : ClkInput) {a : Nat} (h : a ≠ 0x1108 ∧ a ≠ 0x110C ∧ a ≠ 0x1110 ∧ a ≠ 0x110) : ¬ monAddr i a := by
  unfold monAddr
  omega

theorem State.lose_calm (i : ClkInput) : s.Calm (monAddr i) (s.lose i) := by
  have hset : ∀ (t : State) (j : ClkInput) (v : ClkIn), t.Calm (monAddr i) (t.setInput j v) := fun t =>
    t.setInput_calm (not_monAddr i (by decide))
  unfold State.lose
  refine .ite (hset _ _ _) ?_
  extract_lets t u v
  have hu : s.Calm (monAddr i) u := .ite (((hset _ _ _).trans (hset _ _ _)).trans (hset _ _ _)) (hset _ _ _)
  have hv : u.Calm (monAddr i) v := by
    by_cases hi : i = .core
    · have hv : v = u.coreReserve := if_pos hi
      rw [hv]
      exact u.coreReserve_calm bodyAddr_of_monAddr (not_monAddr_islReg i) (by simp [monAddr, hi])
    · have hv : v = u.reserve (inputIslands i) true := if_neg hi
      rw [hv]
      exact u.reserve_calm (fun x _ => not_monAddr_islReg i x) true
  refine .ite hu (hu.trans (hv.trans (State.Calm.trans ?_
    (State.clockLoss_calm _ (not_monAddr i (by decide)) (not_monAddr i (by decide)) calmAddr_of_monAddr i))))
  exact v.setReg_calm .clk 0x114 _ (not_monAddr i (by decide))

/-! ### A window (R480) -/

/-- An input once its window is judged (R480). -/
def ClkIn.judged (k : ClkIn) (good lost : Bool) : ClkIn :=
  if lost then { st := .lost } else if k.st = .stable then k else if good = false then { k with good := 0 }
  else if 2 ≤ k.good then { st := .stable, good := 0 } else { k with good := k.good + 1 }

/-- The platform once the window of an input is judged. -/
def Plat.judged (p : Plat) (i : ClkInput) (good lost : Bool) : Plat :=
  if lost then p.afterLoss i else if (p.input i).st = .stable then p else p.setInput i ((p.input i).judged good false)

theorem State.judge_plat (i : ClkInput) (good lost : Bool) : (s.judge i good lost).plat = s.plat.judged i good lost := by
  unfold State.judge
  extract_lets t k u v
  have ht : t.plat = s.plat := (s.event_within _ _ _).plat (by decide)
  have hk : k = s.plat.input i := congrArg (Plat.input · i) ht
  have hu : u.plat = s.plat := by
    refine Eq.trans ?_ ht
    exact iteInduction (motive := fun x : State => x.plat = t.plat) (fun _ => rfl) fun _ => (t.event_within _ _ _).plat (by decide)
  cases lost with
  | true =>
    rw [if_pos rfl, State.lose_plat, ht]
    rfl
  | false =>
    have hright : s.plat.judged i good false = if k.st = .stable then s.plat else s.plat.setInput i (k.judged good false) := by
      rw [hk]
      rfl
    rw [if_neg Bool.false_ne_true, hright]
    clear_value k
    by_cases hst : k.st = .stable
    · rw [if_pos hst, if_pos hst, hu]
    rw [if_neg hst, if_neg hst, ClkIn.judged, if_neg Bool.false_ne_true, if_neg hst]
    cases good with
    | false => rw [if_pos (by decide), if_pos rfl, State.setInput_plat, hu]
    | true =>
      rw [Bool.not_true, if_neg Bool.false_ne_true, if_neg (show ¬ true = false by decide)]
      by_cases hgood : 2 ≤ k.good
      · have hv : v.plat = s.plat.setInput i { st := .stable, good := 0 } := (u.setInput_plat i _).trans (by rw [hu])
        rw [if_pos hgood, if_pos hgood]
        split
        · rw [(v.refReserve_within _).plat (by decide), hv]
        · exact hv
      · rw [if_neg hgood, if_neg hgood, State.setInput_plat, hu]

theorem State.judge_calm (i : ClkInput) (good lost : Bool) : s.Calm (monAddr i) (s.judge i good lost) := by
  have hset : ∀ (t : State) (j : ClkInput) (v : ClkIn), t.Calm (monAddr i) (t.setInput j v) := fun t =>
    t.setInput_calm (not_monAddr i (by decide))
  have hev : ∀ (t : State) (c : Nat), t.Calm (monAddr i) (t.event .clk c 1) := fun t c => t.event_calm .clk c 1 fun o h1 h2 =>
    not_monAddr i (by simp only [Page.base]; omega)
  unfold State.judge
  extract_lets t k u v
  have ht : s.Calm (monAddr i) t := hev s _
  have hu : s.Calm (monAddr i) u := .ite ht (ht.trans (hev t _))
  have hv : s.Calm (monAddr i) v := hu.trans (hset u _ _)
  have hstable : s.Calm (monAddr i) (if i = .core then v.refReserve false else v) := by
    by_cases hi : i = .core
    · rw [if_pos hi]
      exact hv.trans (v.refReserve_calm (by simp [monAddr, hi]) false)
    · rw [if_neg hi]
      exact hv
  exact .ite (ht.trans (t.lose_calm i)) (.ite hu (.ite (hu.trans (hset _ _ _)) (.ite hstable (hu.trans (hset _ _ _)))))

/-- A CORE_REFCLK judged STABLE is the source of the reference counter again (R21, R480). -/
theorem State.judge_core_source (hst : (s.input .core).st ≠ .stable) (hgood : 2 ≤ (s.input .core).good) :
    (s.judge .core true false).flag .dev 0x110 0 = false := by
  unfold State.judge
  extract_lets t k u v
  have hk : k = s.input .core := congrArg (Plat.input · .core) ((s.event_within _ _ _).plat (by decide))
  rw [if_neg Bool.false_ne_true, if_neg (by rw [hk]; exact hst), Bool.not_true, if_neg Bool.false_ne_true, if_pos (by rw [hk]; exact hgood),
    if_pos rfl]
  exact v.refReserve_flag false

end

theorem Plat.judged_input_same (p : Plat) (i : ClkInput) (good lost : Bool) :
    (p.judged i good lost).input i = (p.input i).judged good lost := by
  unfold Plat.judged
  cases lost with
  | true => exact p.afterLoss_input_same i
  | false =>
    rw [if_neg (by decide)]
    by_cases hst : (p.input i).st = .stable
    · rw [if_pos hst, ClkIn.judged, if_neg (by decide), if_pos hst]
    · rw [if_neg hst, Plat.input_setInput_same]

theorem Plat.judged_input_ne (p : Plat) {i j : ClkInput} (h : j ≠ i) {good lost : Bool} (hi : i ≠ .watch ∨ lost = false) :
    (p.judged i good lost).input j = p.input j := by
  unfold Plat.judged
  cases lost with
  | true => exact p.afterLoss_input_ne h (hi.resolve_right (by decide))
  | false =>
    rw [if_neg (by decide)]
    split
    · rfl
    · exact p.input_setInput_ne h _

end Sys2Proof.Machine
end

section
/-! PROOF. What the loss of a clock input does (R481, R482). -/
namespace Sys2Proof.Machine

/-- The islands of a lost input switch to the reserve oscillator (R481). -/
def State.lostIslands (s : State) (i : ClkInput) : State := if i = .core then s.coreReserve else s.reserve (inputIslands i) true

/-- The input is marked as lost, and nothing else has happened. -/
abbrev State.MarksLost (s t : State) : Prop := s.within [.io, .plat] t ∧ ∀ A : Nat → Prop, ¬ A 0x1104 → s.Calm A t

section
variable (s : State)

/-- A loss outside reset, of an input that was not lost. -/
theorem State.lose_of_running {i : ClkInput} (hheld : s.plat.held = false) (hst : (s.input i).st ≠ .lost) :
    ∃ t, s.MarksLost t ∧ s.lose i = ((t.lostIslands i).addSat .clk 0x114 1).clockLoss i := by
  have hset : ∀ (t : State) (j : ClkInput) (v : ClkIn), t.MarksLost (t.setInput j v) := fun t j v =>
    ⟨t.setInput_within j v, fun A hA => t.setInput_calm hA j v⟩
  have htrans : ∀ {t u v : State}, t.MarksLost u → u.MarksLost v → t.MarksLost v := fun h hu =>
    ⟨h.1.trans hu.1, fun A hA => (h.2 A hA).trans (hu.2 A hA)⟩
  unfold State.lose
  rw [if_neg hst]
  extract_lets t u v
  have hu : s.MarksLost u := iteInduction (motive := fun u => s.MarksLost u)
    (fun _ => htrans (htrans (hset _ _ _) (hset _ _ _)) (hset _ _ _)) fun _ => hset _ _ _
  refine ⟨u, hu, ?_⟩
  rw [hheld]
  rfl

theorem State.lostIslands_within (i : ClkInput) : s.within leaveAreas (s.lostIslands i) :=
  .ite (fun _ => s.coreReserve_within) fun _ => (s.reserve_within _ _).mono (by decide)

theorem State.lostIslands_calm {A : Nat → Prop} (hbody : ∀ a, A a → bodyAddr a) (hisl : ∀ i, ¬ A (0x1000 + islReg i)) (href : ¬ A 0x110)
    (i : ClkInput) : s.Calm A (s.lostIslands i) := by
  unfold State.lostIslands
  have hreserve : s.Calm A (s.reserve (inputIslands i) true) := s.reserve_calm (fun i _ => hisl i) true
  exact .ite (s.coreReserve_calm hbody hisl href) hreserve

theorem islReg_lt {x : Nat} (hx : x < 125) : islReg x < 0x1000 := by
  unfold islReg
  omega

/-- Every island of the input runs from the reserve oscillator. -/
theorem State.lostIslands_islReserve {i : ClkInput} {x : Nat} (hx : x ∈ inputIslands i) : (s.lostIslands i).islReserve x = true := by
  have hlt : x < 125 := by
    cases i
    case core => exact (List.mem_range.mp (List.mem_of_mem_filter hx)).trans (by decide)
    case pcie => exact List.mem_singleton.mp hx ▸ by decide
    case watch => exact List.mem_singleton.mp hx ▸ by decide
  have hreserve : ∀ t : State, (t.reserve (inputIslands i) true).islReserve x = true := fun t => by
    rw [t.islReserve_reserve, if_pos hx]
  unfold State.lostIslands
  split
  · next hi =>
    subst hi
    unfold State.coreReserve
    generalize hu : s.reserve (inputIslands .core) true = u
    have hux : u.islReserve x = true := hu ▸ hreserve s
    have hports := (u.refReserve true).portsGo_keepsRegs (fun st => !(st == .fenced || st == .disabled || st == .down)) .down
    have href : u.Calm (· = 0x1000 + islReg x) (u.refReserve true) := u.refReserve_calm (by unfold islReg; omega) true
    refine (hports.flag (p := .clk) 31 (bodyAddr_base_add .clk ?_ (islReg_lt hlt))).trans ((href.flag (p := .clk) 31 rfl).trans hux)
    unfold islReg
    omega
  · exact hreserve s

/-- A Clock Loss event aborts the step that can abort, with its cause (R391, R482). -/
theorem State.clockLoss_aborts (i : ClkInput) (h : s.stepm.s0.abortable = true) :
    ((s.clockLoss i).slot 0).st = .aborted ∧ (s.clockLoss i).field .step 0x12C 23 16 = 4 := by
  unfold State.clockLoss
  extract_lets t
  have ht : s.within [.io, .out] t := (s.setErr_within _ _).then (by decide) (State.setFlag_within _ _ _ _ _)
  have hsend : s.within [.io, .out] (if i = .pcie then t else t.sendVector 0) :=
    .ite (fun _ => ht) fun _ => ht.trans (by
      unfold State.sendVector
      exact .ite (fun _ => rfl) fun _ => rfl)
  generalize (if i = .pcie then t else t.sendVector 0) = u at hsend ⊢
  have habort : u.stepAbort 0x04 = u.abortSlot 0 0x04 0 true := if_pos (by rw [hsend.stepm (by decide)]; exact h)
  rw [habort]
  refine ⟨?_, u.abortSlot_info (by decide) (by decide) 0 true⟩
  rw [u.abortSlot_slots 0 0x04 0 true 0, State.slot_setSlot_same]
  rfl

/-- Every effect of a loss (R481, R482). -/
theorem State.lose_effects {i : ClkInput} (hheld : s.plat.held = false) (hst : (s.input i).st ≠ .lost) :
    ((s.lose i).input i).st = .lost ∧ (s.lose i).flag .clk 0x010 (inputBit i) = true ∧
      (s.lose i).reg .clk 0x114 = satAdd32 (s.reg .clk 0x114) 1 ∧ (∀ x ∈ inputIslands i, (s.lose i).islReserve x = true) ∧
      (s.lose i).flag .smb 0x108 0 = true ∧ (i ≠ .pcie → s.vectorMasked 0 = false → .msix 0 ∈ (s.lose i).out) := by
  have hinput : ((s.lose i).input i).st = .lost := by
    rw [State.input, s.lose_plat, Plat.afterLoss_input_same]
  refine ⟨hinput, ?_⟩
  obtain ⟨t, hmark, hlose⟩ := s.lose_of_running hheld hst
  rw [hlose]
  have hisl : ∀ x ∈ inputIslands i, (t.lostIslands i).islReserve x = true := fun x hx => t.lostIslands_islReserve hx
  have hcount : (t.lostIslands i).reg .clk 0x114 = s.reg .clk 0x114 := by
    have hislands : t.Calm (· = 0x1114) (t.lostIslands i) := t.lostIslands_calm (A := (· = 0x1114)) (fun a ha => ha ▸ by decide)
      (fun x => by unfold islReg; omega) (by decide) i
    exact ((hmark.2 (· = 0x1114) (by decide)).trans hislands).reg (p := .clk) rfl
  have hmask : (t.lostIslands i).vectorMasked 0 = s.vectorMasked 0 :=
    ((hmark.2 (fun _ => False) id).trans (t.lostIslands_calm (fun _ => False.elim) (fun _ => id) id i)).vectorMasked 0
  generalize t.lostIslands i = u at hisl hcount hmask
  obtain ⟨hbit, halert, hmsg⟩ := (u.addSat .clk 0x114 1).clockLoss_signs i
  refine ⟨hbit, ?_, fun x hx => ?_, halert, fun hi hun => hmsg hi (hmask.trans hun)⟩
  · have hloss : (u.addSat .clk 0x114 1).Calm (· = 0x1114) ((u.addSat .clk 0x114 1).clockLoss i) :=
      State.clockLoss_calm (A := (· = 0x1114)) _ (by decide) (by decide) (fun a ha => ha ▸ by decide) i
    rw [hloss.reg (p := .clk) rfl, State.reg_addSat, hcount]
  · have hx' : 0x200 ≤ islReg x := by unfold islReg; omega
    have hlt : islReg x < 0x1000 := by
      unfold inputIslands at hx
      cases i <;> simp at hx <;> unfold islReg <;> omega
    have hloss : (u.addSat .clk 0x114 1).Calm (· = 0x1000 + islReg x) ((u.addSat .clk 0x114 1).clockLoss i) :=
      State.clockLoss_calm _ (by omega) (by omega) (fun a ha => by unfold calmAddr offLog; omega) i
    refine (hloss.flag (p := .clk) 31 rfl).trans ?_
    rw [State.flag, State.reg_addSat_ne _ _ (by simp only [Page.base]; omega)]
    exact hisl x hx

/-- After the loss of CORE_REFCLK the reference counter runs from the reserve oscillator, and every port is down that is neither fenced
nor disabled (R21, R481). -/
theorem State.lose_core (hheld : s.plat.held = false) (hst : (s.input .core).st ≠ .lost) :
    (s.lose .core).flag .dev 0x110 0 = true ∧ ∀ p < 36, ((s.lose .core).port p).st =
      if (s.port p).st = .fenced ∨ (s.port p).st = .disabled then (s.port p).st else .down := by
  obtain ⟨t, hmark, hlose⟩ := s.lose_of_running hheld hst
  rw [hlose, State.lostIslands, if_pos rfl, State.coreReserve]
  generalize hu : t.reserve (inputIslands .core) true = u
  have hports : (u.refReserve true).ports = s.ports := by
    rw [(u.refReserve_within true).ports (by decide), ← hu, (t.reserve_within _ true).ports (by decide), hmark.1.ports (by decide)]
  have hport : ∀ p, (u.refReserve true).port p = s.port p := fun p => by
    rw [State.port, hports]
    rfl
  have hgo : ∀ p, (((u.refReserve true).portsGo (fun st => !(st == .fenced || st == .disabled || st == .down)) .down).port p).st = _ :=
    fun p => (u.refReserve true).portsGo_st (fun st => !(st == .fenced || st == .disabled || st == .down)) .down p
  have hkeeps := (u.refReserve true).portsGo_keepsRegs (fun st => !(st == .fenced || st == .disabled || st == .down)) .down
  generalize (u.refReserve true).portsGo (fun st => !(st == .fenced || st == .disabled || st == .down)) .down = v at hgo hkeeps ⊢
  have hloss : (v.addSat .clk 0x114 1).within (.mgmt :: abortAreas) ((v.addSat .clk 0x114 1).clockLoss .core) :=
    State.clockLoss_within _ _
  refine ⟨?_, fun p hp => ?_⟩
  · have hcalm : (v.addSat .clk 0x114 1).Calm (· = 0x110) ((v.addSat .clk 0x114 1).clockLoss .core) :=
      State.clockLoss_calm (A := (· = 0x110)) _ (by decide) (by decide) (fun a ha => ha ▸ by decide) .core
    refine (hcalm.flag (p := .dev) 0 rfl).trans ?_
    rw [State.flag, State.reg_addSat_ne _ _ (by decide)]
    exact (hkeeps.flag (p := .dev) 0 (by decide)).trans (u.refReserve_flag true)
  · rw [State.port, hloss.ports (by decide)]
    refine (hgo p).trans ?_
    rw [hport]
    cases hp' : (s.port p).st <;> simp [hp]

theorem State.lose_aborts {i : ClkInput} (hheld : s.plat.held = false) (hst : (s.input i).st ≠ .lost)
    (habort : s.stepm.s0.abortable = true) : ((s.lose i).slot 0).st = .aborted ∧ (s.lose i).field .step 0x12C 23 16 = 4 := by
  obtain ⟨t, hmark, hlose⟩ := s.lose_of_running hheld hst
  rw [hlose]
  refine State.clockLoss_aborts _ i ?_
  have hstep : ((t.lostIslands i).addSat .clk 0x114 1).stepm = s.stepm := by
    refine Eq.trans ?_ (hmark.1.stepm (by decide))
    exact (t.lostIslands_within i).stepm (by decide)
  rw [hstep]
  exact habort

end

end Sys2Proof.Machine
end

section
/-! PROOF. Clocks are judged and followed: the monitor's windows, the return of the islands, dividers, voltages, the counter
(R475 to R493). -/
namespace Sys2Proof.Machine

/-! ### Codes of islands (R475, R476) -/

/-- The islands of a list return to their PLL with the codes of `f` (R483). -/
def State.setCodes (s : State) (l : List Nat) (f : Nat → Nat) : State :=
  l.foldl (fun t i => if islPll i = 0 then t else t.setField .clk (islReg i) 25 16 (f i)) s

section
variable (s : State)

theorem State.islCur_setField_same (i v : Nat) : (s.setField .clk (islReg i) 25 16 v).islCur i = v % 1024 :=
  s.field_setField_same .clk (islReg i) 25 16 v (by decide) (by decide)

theorem State.islCur_setField_ne {i j : Nat} (h : j ≠ i) (hi lo v : Nat) : (s.setField .clk (islReg i) hi lo v).islCur j = s.islCur j :=
  congrArg (fld · 25 16) (s.reg_setField_ne hi lo v (by simp only [islReg, Page.base]; omega))

theorem State.islReserve_setField (i j v : Nat) : (s.setField .clk (islReg i) 25 16 v).islReserve j = s.islReserve j := by
  by_cases h : j = i
  · subst h
    rw [State.islReserve, State.flag, State.setField, State.reg_setReg_same]
    exact bitOf_setFld_ne _ _ _ _ _ (by decide) (by decide)
  · exact congrArg (bitOf · 31) (s.reg_setField_ne 25 16 v (by simp only [islReg, Page.base]; omega))

theorem State.islReserve_setCodes (l : List Nat) (f : Nat → Nat) (j : Nat) : (s.setCodes l f).islReserve j = s.islReserve j := by
  induction l generalizing s with
  | nil => rfl
  | cons i l ih =>
    refine (ih _).trans ?_
    dsimp only
    split
    · rfl
    · exact s.islReserve_setField i j _

theorem State.islCur_setCodes {l : List Nat} {f : Nat → Nat} {j : Nat} (hj : j ∈ l ∨ s.islCur j = f j % 1024) (hpll : islPll j ≠ 0) :
    (s.setCodes l f).islCur j = f j % 1024 := by
  induction l generalizing s with
  | nil => exact hj.resolve_left List.not_mem_nil
  | cons i l ih =>
    refine ih _ ?_
    dsimp only
    by_cases hji : j = i
    · subst hji
      rw [if_neg hpll]
      exact .inr (s.islCur_setField_same j _)
    · refine hj.imp (fun h => (List.mem_cons.mp h).resolve_left hji) fun h => ?_
      split
      · exact h
      · rw [State.islCur_setField_ne _ hji, h]

/-- Requests for voltages leave the islands' registers as they are. -/
theorem State.avsUpdate_island {x : Nat} (hx : x < 125) (k : Nat) : s.Calm (· = 0x1000 + islReg x) (s.avsUpdate k) :=
  s.avsUpdate_calm k (by simp only [islReg, Page.base]; omega) fun o h1 h2 => by
    simp only [islReg, Page.base]
    omega

theorem State.Calm.islReserve {s t : State} {x : Nat} (h : s.Calm (· = 0x1000 + islReg x) t) : t.islReserve x = s.islReserve x :=
  h.flag (p := .clk) 31 rfl

theorem State.Calm.islCur {s t : State} {x : Nat} (h : s.Calm (· = 0x1000 + islReg x) t) : t.islCur x = s.islCur x :=
  h.field (p := .clk) 25 16 rfl

theorem lt_of_mem_inputIslands {i : ClkInput} {x : Nat} (hx : x ∈ inputIslands i) : x < 125 := by
  cases i
  case core => exact (List.mem_range.mp (List.mem_of_mem_filter hx)).trans (by decide)
  case pcie => exact List.mem_singleton.mp hx ▸ by decide
  case watch => exact List.mem_singleton.mp hx ▸ by decide

/-- The ports that are down and may train do so again (R483). -/
def State.portsTrain (s : State) : State :=
  if s.fab.disc || s.fab.discDone then
    (List.range 36).foldl (fun t p => if (t.port p).st = .down && t.field (.prt p) 0x100 1 0 != 0 then
      t.setPort p { t.port p with st := .training, gen := 0 } else t) s
  else s

theorem State.portsTrain_within : s.within [.ports] s.portsTrain :=
  .ite (fun _ => .foldl (fun t p => .ite (fun _ => t.setPort_within p _) fun _ => .refl _ _) _ _) fun _ => .refl _ _

/-- The islands of an input that run from the reserve oscillator. -/
def State.reserved (s : State) (i : ClkInput) : List Nat := (inputIslands i).filter s.islReserve

theorem State.islReserve_reserve_reserved {i : ClkInput} {x : Nat} (hx : x ∈ inputIslands i) :
    (s.reserve (s.reserved i) false).islReserve x = false := by
  rw [State.islReserve_reserve]
  split
  · rfl
  · next h =>
    have hne : ¬ s.islReserve x = true := fun hr => h (List.mem_filter.mpr ⟨hx, hr⟩)
    exact Bool.not_eq_true _ ▸ hne

/-- The islands of an input return (R483). -/
theorem State.clockReturn_eq {i : ClkInput} (hheld : s.plat.held = false) (hst : (s.input i).st = .stable)
    (hflag : s.flag .clk 0x100 0 = true) (hl : ∃ x ∈ inputIslands i, s.islReserve x = true) :
    exec (.clockReturn i) s = .next (if i = .core then
      ((List.range 4).foldl State.avsUpdate ((s.reserve (s.reserved i) false).setCodes (s.reserved i) s.returnCode)).portsTrain
      else s.reserve (s.reserved i) false) := by
  obtain ⟨x, hx, hr⟩ := hl
  have hne : (s.reserved i).isEmpty = false := by
    rw [List.isEmpty_eq_false_iff]
    exact List.ne_nil_of_mem (List.mem_filter.mpr ⟨hx, hr⟩)
  have hexec : exec (.clockReturn i) s = execClockReturn i s := rfl
  rw [hexec]
  unfold execClockReturn
  extract_lets l t u v
  have hl : s.reserved i = l := rfl
  rw [hl] at hne ⊢
  clear_value l
  rw [if_neg (by rw [hst, hflag, hne, hheld]; decide)]
  cases i
  case core =>
    have hv : (List.range 4).foldl State.avsUpdate (t.setCodes l s.returnCode) = v := rfl
    rw [if_pos rfl, hv]
    rfl
  case pcie => exact congrArg Host.Outcome.next (if_neg (by decide)).symm
  case watch => exact congrArg Host.Outcome.next (if_neg (by decide)).symm

theorem State.returnCode_lt (i : Nat) : s.returnCode i < 1024 := by
  unfold State.returnCode
  extract_lets n
  split <;> omega

/-- After the return of an input its islands run from their PLLs, at the codes nearest to the measured frequency (R483). -/
theorem State.clockReturn_returns {i : ClkInput} (hheld : s.plat.held = false) (hst : (s.input i).st = .stable)
    (hflag : s.flag .clk 0x100 0 = true) (hl : ∃ x ∈ inputIslands i, s.islReserve x = true) :
    ∃ t, exec (.clockReturn i) s = .next t ∧ (∀ x ∈ inputIslands i, t.islReserve x = false) ∧
      (i = .core → ∀ x ∈ inputIslands i, s.islReserve x = true → islPll x ≠ 0 → t.islCur x = s.returnCode x) := by
  refine ⟨_, s.clockReturn_eq hheld hst hflag hl, ?_⟩
  generalize ht : s.reserve (s.reserved i) false = t
  have hres : ∀ x ∈ inputIslands i, t.islReserve x = false := fun x hx => ht ▸ s.islReserve_reserve_reserved hx
  by_cases hi : i = .core
  · rw [if_pos hi]
    have hcalm : ∀ x ∈ inputIslands i, (t.setCodes (s.reserved i) s.returnCode).Calm (· = 0x1000 + islReg x)
        ((List.range 4).foldl State.avsUpdate (t.setCodes (s.reserved i) s.returnCode)).portsTrain := fun x hx =>
      State.Calm.trans (.foldl _ (fun u k _ => u.avsUpdate_island (lt_of_mem_inputIslands hx) k) _)
        ((State.portsTrain_within _).calm (by decide) (by decide))
    refine ⟨fun x hx => ?_, fun _ x hx hr hpll => ?_⟩
    · rw [(hcalm x hx).islReserve, State.islReserve_setCodes, hres x hx]
    · rw [(hcalm x hx).islCur, t.islCur_setCodes (l := s.reserved i) (.inl (List.mem_filter.mpr ⟨hx, hr⟩)) hpll]
      exact Nat.mod_eq_of_lt (s.returnCode_lt x)
  · rw [if_neg hi]
    exact ⟨hres, fun h => absurd h hi⟩

end

end Sys2Proof.Machine
end

section
/-! PROOF. The monitor's windows (R479, R480); dividers, voltages, the counter, idle dies (R475 to R493). -/
namespace Sys2Proof.Machine

theorem Plat.input_core (p : Plat) : p.input .core = p.core := rfl
theorem Plat.input_pcie (p : Plat) : p.input .pcie = p.pcie := rfl
theorem Plat.input_watch (p : Plat) : p.input .watch = p.watch := rfl

section
variable (s : State)

/-! ### A window -/

/-- A difference of counts beyond the tolerance (R479, R495). -/
theorem State.lossTol_lt_iff (n : Nat) : s.lossTol < n ↔ 262144 * max 250 (s.field .clk 0x100 31 16) < n * 1000000 := by
  unfold State.lossTol
  rw [Nat.div_lt_iff_lt_mul (by decide)]

/-- Counts of a window as they are read after it. -/
def State.counted (s : State) (cc pc wc : W32) : State := ((s.setReg .clk 0x108 cc).setReg .clk 0x10C pc).setReg .clk 0x110 wc

theorem State.counted_regs (cc pc wc : W32) : (s.counted cc pc wc).reg .clk 0x108 = cc ∧ (s.counted cc pc wc).reg .clk 0x10C = pc ∧
    (s.counted cc pc wc).reg .clk 0x110 = wc := by
  unfold State.counted
  refine ⟨?_, ?_, State.reg_setReg_same _ _ _ _⟩
  · rw [State.reg_setReg_off _ _ (by decide), State.reg_setReg_off _ _ (by decide), State.reg_setReg_same]
  · rw [State.reg_setReg_off _ _ (by decide), State.reg_setReg_same]

theorem State.Calm.mon {i : ClkInput} {s t : State} (h : s.Calm (monAddr i) t) :
    t.reg .clk 0x108 = s.reg .clk 0x108 ∧ t.reg .clk 0x10C = s.reg .clk 0x10C ∧ t.reg .clk 0x110 = s.reg .clk 0x110 :=
  ⟨h.reg (.inl rfl), h.reg (.inr (.inl rfl)), h.reg (.inr (.inr (.inl rfl)))⟩

/-- The judgement of WATCH_OSC at the end of a window (R480). -/
def State.watchJudged (s : State) (cc pc wc : W32) : State :=
  (s.counted cc pc wc).judge .watch (decide (apart wc.toNat 1048576 ≤ 209715)) (decide (262144 < apart wc.toNat 1048576))

/-- The judgement of a reference. -/
def State.refJudged (t s : State) (i : ClkInput) (c : W32) : State :=
  t.judge i (decide (apart c.toNat 262144 ≤ 52)) (decide (s.lossTol < apart c.toNat 262144))

theorem State.clockMonitorWindow_eq (cc pc wc : W32) (hrails : s.railsGood = true) :
    exec (.clockMonitorWindow cc pc wc) s = .next (if s.plat.watch.st = .stable ∧ (s.watchJudged cc pc wc).plat.watch.st = .stable then
      ((s.watchJudged cc pc wc).refJudged s .core cc).refJudged s .pcie pc else s.watchJudged cc pc wc) := by
  have hexec : exec (.clockMonitorWindow cc pc wc) s = execClockMonitorWindow cc pc wc s := rfl
  rw [hexec]
  unfold execClockMonitorWindow
  extract_lets dw dc dp t on u
  rw [if_neg (by rw [hrails]; decide)]
  have hu : u = s.watchJudged cc pc wc := rfl
  rw [← hu]
  clear_value u
  have hcond : (!on || u.plat.watch.st != .stable) = !decide (s.plat.watch.st = .stable ∧ u.plat.watch.st = .stable) := by
    cases hs : s.plat.watch.st <;> cases hu' : u.plat.watch.st <;> simp [on, hs]
  rw [hcond]
  by_cases h : s.plat.watch.st = .stable ∧ u.plat.watch.st = .stable
  · rw [if_pos h, if_neg (by rw [decide_eq_true h]; decide)]
    rfl
  · rw [if_neg h, if_pos (by rw [decide_eq_false h]; rfl)]

theorem State.watchJudged_plat (cc pc wc : W32) : (s.watchJudged cc pc wc).plat =
    s.plat.judged .watch (decide (apart wc.toNat 1048576 ≤ 209715)) (decide (262144 < apart wc.toNat 1048576)) :=
  State.judge_plat _ _ _ _

theorem State.refJudged_plat (t : State) (i : ClkInput) (c : W32) : (t.refJudged s i c).plat =
    t.plat.judged i (decide (apart c.toNat 262144 ≤ 52)) (decide (s.lossTol < apart c.toNat 262144)) :=
  State.judge_plat _ _ _ _

theorem ClkIn.judged_lost (k : ClkIn) (good : Bool) : k.judged good true = { st := .lost } := rfl

theorem ClkIn.judged_stable {k : ClkIn} (h : k.st = .stable) (good : Bool) : k.judged good false = k := by
  unfold ClkIn.judged
  rw [if_neg Bool.false_ne_true, if_pos h]

/-- The registers, the inputs and the source of the reference counter after a window (R21, R479, R480). -/
theorem State.clockMonitorWindow_judges (cc pc wc : W32) (hrails : s.railsGood = true) :
    ∃ t, exec (.clockMonitorWindow cc pc wc) s = .next t ∧ t.reg .clk 0x108 = cc ∧ t.reg .clk 0x10C = pc ∧ t.reg .clk 0x110 = wc ∧
      t.plat.watch = s.plat.watch.judged (decide (apart wc.toNat 1048576 ≤ 209715)) (decide (262144 < apart wc.toNat 1048576)) ∧
      (262144 < apart wc.toNat 1048576 → s.plat.watch.st ≠ .lost → t.plat.core = {} ∧ t.plat.pcie = {}) ∧
      (apart wc.toNat 1048576 ≤ 262144 → s.plat.watch.st = .stable →
        t.plat.core = s.plat.core.judged (decide (apart cc.toNat 262144 ≤ 52)) (decide (s.lossTol < apart cc.toNat 262144)) ∧
        t.plat.pcie = s.plat.pcie.judged (decide (apart pc.toNat 262144 ≤ 52)) (decide (s.lossTol < apart pc.toNat 262144))) ∧
      (apart wc.toNat 1048576 ≤ 262144 → s.plat.watch.st = .stable → s.plat.core.st ≠ .stable → 2 ≤ s.plat.core.good →
        apart cc.toNat 262144 ≤ 52 → t.flag .dev 0x110 0 = false) ∧
      (apart wc.toNat 1048576 ≤ 262144 → s.plat.watch.st ≠ .stable → t.plat.core = s.plat.core ∧ t.plat.pcie = s.plat.pcie) := by
  have hplat := s.watchJudged_plat cc pc wc
  have hregs := s.counted_regs cc pc wc
  have hmon : (s.counted cc pc wc).Calm (monAddr .watch) (s.watchJudged cc pc wc) := State.judge_calm _ _ _ _
  refine ⟨_, s.clockMonitorWindow_eq cc pc wc hrails, ?_⟩
  generalize s.watchJudged cc pc wc = u at hplat hmon ⊢
  generalize s.counted cc pc wc = v at hregs hmon
  generalize apart wc.toNat 1048576 = dw at hplat ⊢
  obtain ⟨h108, h10C, h110⟩ := hmon.mon
  obtain ⟨hv108, hv10C, hv110⟩ := hregs
  have hwatch : u.plat.watch = s.plat.watch.judged (decide (dw ≤ 209715)) (decide (262144 < dw)) := by
    have hin := s.plat.judged_input_same .watch (decide (dw ≤ 209715)) (decide (262144 < dw))
    rwa [← hplat, Plat.input_watch, Plat.input_watch] at hin
  by_cases h : s.plat.watch.st = .stable ∧ u.plat.watch.st = .stable
  · rw [if_pos h]
    obtain ⟨hstable, hstill⟩ := h
    have hgood : ¬ 262144 < dw := fun hlost => by
      rw [hwatch, decide_eq_true hlost, ClkIn.judged_lost] at hstill
      cases hstill
    have hkept : u.plat = s.plat := by
      rw [hplat, decide_eq_false hgood, Plat.judged, if_neg Bool.false_ne_true]
      exact if_pos hstable
    have hcoreMon : u.Calm (monAddr .core) (u.refJudged s .core cc) := State.judge_calm _ _ _ _
    have hpcieMon : (u.refJudged s .core cc).Calm (monAddr .pcie) ((u.refJudged s .core cc).refJudged s .pcie pc) := State.judge_calm _ _ _ _
    have hcorePlat := s.refJudged_plat u .core cc
    have hpciePlat := s.refJudged_plat (u.refJudged s .core cc) .pcie pc
    rw [hcorePlat, hkept] at hpciePlat
    obtain ⟨hc108, hc10C, hc110⟩ := hcoreMon.mon
    obtain ⟨hp108, hp10C, hp110⟩ := hpcieMon.mon
    refine ⟨?_, ?_, ?_, ?_, fun hlost => absurd hlost hgood, fun _ _ => ⟨?_, ?_⟩, fun _ _ hcst hcgood hcc => ?_,
      fun _ hne => absurd hstable hne⟩
    · rw [hp108, hc108, h108, hv108]
    · rw [hp10C, hc10C, h10C, hv10C]
    · rw [hp110, hc110, h110, hv110]
    · have hin := Plat.judged_input_ne (s.plat.judged .core (decide (apart cc.toNat 262144 ≤ 52)) (decide (s.lossTol < apart cc.toNat 262144)))
        (i := .pcie) (j := .watch) (by decide) (good := decide (apart pc.toNat 262144 ≤ 52))
        (lost := decide (s.lossTol < apart pc.toNat 262144)) (.inl (by decide))
      rw [← hpciePlat, Plat.judged_input_ne _ (i := .core) (by decide) (.inl (by decide))] at hin
      rwa [decide_eq_false hgood, ClkIn.judged_stable hstable, ← Plat.input_watch, ← Plat.input_watch]
    · have hin := Plat.judged_input_ne (s.plat.judged .core (decide (apart cc.toNat 262144 ≤ 52)) (decide (s.lossTol < apart cc.toNat 262144)))
        (i := .pcie) (j := .core) (by decide) (good := decide (apart pc.toNat 262144 ≤ 52))
        (lost := decide (s.lossTol < apart pc.toNat 262144)) (.inl (by decide))
      rwa [← hpciePlat, Plat.judged_input_same, Plat.input_core, Plat.input_core] at hin
    · have hin := Plat.judged_input_same (s.plat.judged .core (decide (apart cc.toNat 262144 ≤ 52)) (decide (s.lossTol < apart cc.toNat 262144)))
        .pcie (decide (apart pc.toNat 262144 ≤ 52)) (decide (s.lossTol < apart pc.toNat 262144))
      rwa [← hpciePlat, Plat.judged_input_ne _ (i := .core) (by decide) (.inl (by decide)), Plat.input_pcie, Plat.input_pcie] at hin
    · have htol : ¬ s.lossTol < apart cc.toNat 262144 := by
        rw [s.lossTol_lt_iff]
        have hmax : 250 ≤ max 250 (s.field .clk 0x100 31 16) := Nat.le_max_left _ _
        omega
      have hsource : (u.refJudged s .core cc).flag .dev 0x110 0 = false := by
        unfold State.refJudged
        rw [decide_eq_true hcc, decide_eq_false htol]
        exact u.judge_core_source (by rw [State.input, hkept]; exact hcst) (by rw [State.input, hkept]; exact hcgood)
      exact (hpcieMon.flag (p := .dev) 0 (.inr (.inr (.inr ⟨rfl, by decide⟩)))).trans hsource
  · rw [if_neg h]
    refine ⟨h108.trans hv108, h10C.trans hv10C, h110.trans hv110, hwatch, fun hlost hne => ?_, fun hgood hst => ?_, fun hgood hst => ?_,
      fun hgood hne => ?_⟩
    · rw [hplat, decide_eq_true hlost, Plat.judged, if_pos rfl, Plat.afterLoss]
      have hcond : (s.plat.input .watch).st ≠ .lost ∧ ClkInput.watch = .watch := ⟨hne, rfl⟩
      rw [if_pos hcond]
      exact ⟨rfl, rfl⟩
    · exact absurd ⟨hst, by rw [hwatch, decide_eq_false (Nat.not_lt.mpr hgood), ClkIn.judged_stable hst, hst]⟩ h
    · exact absurd ⟨hst, by rw [hwatch, decide_eq_false (Nat.not_lt.mpr hgood), ClkIn.judged_stable hst, hst]⟩ h
    · have hcore := s.plat.judged_input_ne (i := .watch) (j := .core) (by decide)
        (good := decide (dw ≤ 209715)) (.inr (decide_eq_false (Nat.not_lt.mpr hgood)))
      have hpcie := s.plat.judged_input_ne (i := .watch) (j := .pcie) (by decide)
        (good := decide (dw ≤ 209715)) (.inr (decide_eq_false (Nat.not_lt.mpr hgood)))
      rw [← hplat] at hcore hpcie
      rw [Plat.input_core, Plat.input_core] at hcore
      rw [Plat.input_pcie, Plat.input_pcie] at hpcie
      exact ⟨hcore, hpcie⟩

end

end Sys2Proof.Machine
end

section
/-! PROOF. Dividers, voltages, the frequency-measuring counter, idle dies (R475 to R477, R484, R488, R493). -/
namespace Sys2Proof.Machine

section
variable (s : State)

/-! ### Dividers (R476) -/

/-- A judgement of limits changes no memory but which stacks are unpredictable (R478). -/
theorem State.judgeLimits_mem (i : Nat) : (s.judgeLimits i).mem = { s.mem with astray := (s.judgeLimits i).mem.astray } := rfl

theorem State.judgeLimits_calm {A : Nat → Prop} (i : Nat) : s.Calm A (s.judgeLimits i) :=
  (s.judgeLimits_within i).calm (by decide) (by decide)

/-- The island's code moves, is counted, and its limits are judged. -/
def State.ramped (s : State) (i next : Nat) : State := ((s.setField .clk (islReg i) 25 16 next).event .clk 0x04 1).judgeLimits i

/-- The voltage of an island's die follows. -/
def State.followed (s : State) (i : Nat) : State := if i < 64 then s.avsUpdate (i / 16) else s

theorem State.ramped_within (i next : Nat) : s.within [.io, .plat, .mem] (s.ramped i next) := by
  have hset : s.within [.io] ((s.setField .clk (islReg i) 25 16 next).event .clk 0x04 1) :=
    State.within.trans (s.setField_within _ _ _ _ _) (State.event_within _ _ _ _)
  exact (hset.mono (by decide)).trans ((State.judgeLimits_within _ i).mono (by decide))

theorem State.ramped_mem (i next : Nat) : (s.ramped i next).mem = { s.mem with astray := (s.ramped i next).mem.astray } := by
  have hset : s.within [.io] ((s.setField .clk (islReg i) 25 16 next).event .clk 0x04 1) :=
    State.within.trans (s.setField_within _ _ _ _ _) (State.event_within _ _ _ _)
  unfold State.ramped
  rw [State.judgeLimits_mem, hset.mem (by decide)]

theorem State.ramped_calm {i next x : Nat} (hx : x < 125) : (s.setField .clk (islReg i) 25 16 next).Calm (· = 0x1000 + islReg x)
    (s.ramped i next) := by
  refine State.Calm.trans (State.event_calm _ .clk 0x04 1 fun o h1 h2 => ?_) (State.judgeLimits_calm _ i)
  simp only [islReg, Page.base]
  omega

theorem State.followed_within (i : Nat) : s.within [.io, .out, .plat] (s.followed i) :=
  .ite (fun _ => s.avsUpdate_within _) fun _ => .refl _ _

theorem State.followed_calm {x : Nat} (hx : x < 125) (i : Nat) : s.Calm (· = 0x1000 + islReg x) (s.followed i) :=
  .ite (s.avsUpdate_island hx _) (.refl s)

/-- The code that follows. -/
def State.nextCode (s : State) (i : Nat) : Nat := if s.islCur i < s.islCode i then s.islCur i + 1 else s.islCur i - 1

/-- A Ridge waits for the voltage that its next code needs (R488). -/
abbrev State.awaitsVoltage (s : State) (i : Nat) : Prop :=
  i < 64 ∧ s.nextCode i < s.islCur i ∧ s.volts (i / 16) < codeMv (s.nextCode i)

theorem State.dividerRampStep_eq (i : Fin 125) (hheld : s.plat.held = false) (hpll : islPll i.val ≠ 0)
    (hres : s.islReserve i.val = false) (hne : s.islCur i.val ≠ s.islCode i.val) :
    exec (.dividerRampStep i) s = .next (if s.awaitsVoltage i.val then s.avsUpdate (i.val / 16)
      else (s.ramped i.val (s.nextCode i.val)).followed i.val) := by
  have hexec : exec (.dividerRampStep i) s = execDividerRampStep i s := rfl
  rw [hexec]
  unfold execDividerRampStep
  extract_lets k cur goal next t
  rw [if_neg (by simp [hheld, hpll, hres, hne, k, cur, goal])]
  rfl

theorem State.dividerRampStep_idle (i : Fin 125) (h : s.islCur i.val = s.islCode i.val ∨ s.islReserve i.val = true ∨ islPll i.val = 0) :
    exec (.dividerRampStep i) s = .next s := by
  have hexec : exec (.dividerRampStep i) s = execDividerRampStep i s := rfl
  rw [hexec]
  unfold execDividerRampStep
  extract_lets k cur goal next t
  rw [if_pos]
  rcases h with h | h | h <;> simp [h, k, cur, goal]

/-- A step of a ramp: the island's own code alone moves (R476, R488). -/
theorem State.dividerRampStep_moves (i : Fin 125) (hheld : s.plat.held = false) (hpll : islPll i.val ≠ 0)
    (hres : s.islReserve i.val = false) (hne : s.islCur i.val ≠ s.islCode i.val) :
    ∃ t, exec (.dividerRampStep i) s = .next t ∧ (s.awaitsVoltage i.val → t.islCur i.val = s.islCur i.val) ∧
      (¬ s.awaitsVoltage i.val → t.islCur i.val = s.nextCode i.val % 1024) ∧
      (∀ x < 125, x ≠ i.val → t.islCur x = s.islCur x) ∧
      t = { s with io := t.io, plat := t.plat, out := t.out, mem := { s.mem with astray := t.mem.astray } } := by
  refine ⟨_, s.dividerRampStep_eq i hheld hpll hres hne, ?_⟩
  by_cases hslow : s.awaitsVoltage i.val
  · rw [if_pos hslow]
    have hw := s.avsUpdate_within (i.val / 16)
    have hcur : ∀ x < 125, (s.avsUpdate (i.val / 16)).islCur x = s.islCur x := fun x hx => (s.avsUpdate_island hx _).islCur
    generalize s.avsUpdate (i.val / 16) = t at hw hcur
    refine ⟨fun _ => hcur _ i.isLt, fun h => absurd hslow h, fun x hx _ => hcur x hx, ?_⟩
    rw [hw.mem (by decide)]
    exact hw
  · rw [if_neg hslow]
    have hw1 := s.ramped_within i.val (s.nextCode i.val)
    have hmem := s.ramped_mem i.val (s.nextCode i.val)
    have hcalm : ∀ x < 125, (s.setField .clk (islReg i.val) 25 16 (s.nextCode i.val)).Calm (· = 0x1000 + islReg x)
        ((s.ramped i.val (s.nextCode i.val)).followed i.val) := fun x hx => (s.ramped_calm hx).trans (State.followed_calm _ hx _)
    have hw2 := (s.ramped i.val (s.nextCode i.val)).followed_within i.val
    generalize s.ramped i.val (s.nextCode i.val) = u at hw1 hmem hcalm hw2
    generalize u.followed i.val = t at hcalm hw2
    refine ⟨fun h => absurd h hslow, fun _ => ?_, fun x hx hxi => ?_, ?_⟩
    · rw [(hcalm _ i.isLt).islCur, State.islCur_setField_same]
    · rw [(hcalm x hx).islCur, State.islCur_setField_ne _ hxi]
    · have hmem' : t.mem = { s.mem with astray := t.mem.astray } := by rw [hw2.mem (by decide)]; exact hmem
      have hw : s.within [.io, .plat, .out, .mem] t := (hw1.mono (by decide)).trans (hw2.mono (by decide))
      rw [← hmem']
      exact hw

/-! ### Voltages (R488) -/

theorem State.avsVoltageAck_supplies (k : Fin 4) (h : s.plat.vWait.has k.val = true) :
    ∃ t, exec (.avsVoltageAck k) s = .next t ∧ t.volts k.val = s.railMv k.val ∧ t.plat.vWait.has k.val = false ∧
      t = { s with plat := t.plat } := by
  refine ⟨_, rfl, ?_⟩
  rw [if_neg (by rw [h]; decide)]
  refine ⟨Table.get_set_same _ _ _ _, ?_, rfl⟩
  simp

/-- A request that is sent is the message sent last. -/
theorem State.avsSend_head (k : Nat) : (s.avsSend k).out.head? = some (.avs k (s.railMv k)) := rfl

theorem State.avsTimeout_asks (k : Fin 4) (h : s.plat.vWait.has k.val = true) :
    ∃ t, exec (.avsTimeout k) s = .next t ∧ t.flag .pwr 0x010 0 = true ∧ t.out.head? = some (.avs k.val (s.railMv k.val)) ∧
      t.plat = s.plat := by
  refine ⟨_, rfl, ?_⟩
  rw [if_pos h]
  have herr : (s.setErr .pwr 0).flag .pwr 0x010 0 = true := s.flag_setErr .pwr 0 (by decide)
  have hmv : (s.setErr .pwr 0).railMv k.val = s.railMv k.val := by
    unfold State.railMv
    rw [(s.setErr_keepsRegs .pwr 0).field .pwr _ _ (by decide) (by decide)]
  have hplat : (s.setErr .pwr 0).plat = s.plat := (s.setErr_within _ _).plat (by decide)
  generalize s.setErr .pwr 0 = t at herr hmv hplat
  have hsend : t.Calm (· = 0x2010) (t.avsSend k.val) := (t.event_calm .pwr 0x02 1 fun o h1 h2 => by
    simp only [Page.base]
    omega).trans (State.emit_calm _ _)
  refine ⟨(hsend.flag (p := .pwr) 0 rfl).trans herr, ?_, ((t.avsSend_within _).plat (by decide)).trans hplat⟩
  rw [t.avsSend_head, hmv]

/-! ### The frequency-measuring counter (R484) -/

theorem State.fmcGo_starts (hawake : s.asleep = false) (hidle : s.flag .clk 0x118 29 = false) :
    ∃ t, exec .fmcGo s = .next t ∧ t.reg .clk 0x124 = 0#32 ∧ t.reg .clk 0x128 = 0#32 ∧
      (s.field .clk 0x11C 15 8 < 129 → s.field .clk 0x11C 7 0 < 129 → t.flag .clk 0x118 29 = true ∧ t.flag .clk 0x118 28 = false) ∧
      (129 ≤ s.field .clk 0x11C 15 8 → t.flag .clk 0x118 29 = false ∧ t.flag .clk 0x118 28 = true) ∧ t = { s with io := t.io } := by
  refine ⟨_, rfl, ?_⟩
  rw [if_neg (by rw [hawake, hidle]; decide)]
  have h124 : ((s.setReg .clk 0x124 0).setReg .clk 0x128 0).reg .clk 0x124 = 0#32 := by
    rw [State.reg_setReg_off _ _ (by decide), State.reg_setReg_same]
    rfl
  have h128 : ((s.setReg .clk 0x124 0).setReg .clk 0x128 0).reg .clk 0x128 = 0#32 := State.reg_setReg_same _ _ _ _
  have hw : s.within [.io] ((s.setReg .clk 0x124 0).setReg .clk 0x128 0) :=
    State.within.trans (s.setReg_within _ _ _) (State.setReg_within _ _ _ _)
  generalize (s.setReg .clk 0x124 0).setReg .clk 0x128 0 = t at h124 h128 hw
  have hset : ∀ v : W32, (t.setReg .clk 0x118 v).reg .clk 0x124 = 0#32 ∧ (t.setReg .clk 0x118 v).reg .clk 0x128 = 0#32 ∧
      t.setReg .clk 0x118 v = { s with io := (t.setReg .clk 0x118 v).io } := fun v =>
    ⟨(t.reg_setReg_off .clk (by decide) v).trans h124, (t.reg_setReg_off .clk (by decide) v).trans h128, hw.trans (t.setReg_within _ _ v)⟩
  have hflag : ∀ (v : W32) (i : Nat), (t.setReg .clk 0x118 v).flag .clk 0x118 i = bitOf v i := fun v i => by
    rw [State.flag, State.reg_setReg_same]
  split
  · next h =>
    obtain ⟨ha, hb, hc⟩ := hset (w32 (2 ^ 28))
    refine ⟨ha, hb, fun h1 h2 => absurd h (by omega), fun _ => ⟨?_, ?_⟩, hc⟩
    · rw [hflag]; decide
    · rw [hflag]; decide
  · next h =>
    obtain ⟨ha, hb, hc⟩ := hset (w32 (2 ^ 29))
    refine ⟨ha, hb, fun _ _ => ⟨?_, ?_⟩, fun h1 => absurd (.inl h1) h, hc⟩
    · rw [hflag]; decide
    · rw [hflag]; decide

theorem State.fmcGo_running (h : s.flag .clk 0x118 29 = true) : exec .fmcGo s = .next s := by
  have hexec : exec .fmcGo s = execFmcGo s := rfl
  rw [hexec, execFmcGo, if_pos (by rw [h, Bool.or_true])]

theorem State.fmcDone_holds (n : BitVec 40) (h : s.flag .clk 0x118 29 = true) :
    ∃ t, exec (.fmcDone n) s = .next t ∧ t.reg .clk 0x124 = w32 n.toNat ∧ t.reg .clk 0x128 = w32 (n.toNat / 2 ^ 32) ∧
      t.flag .clk 0x118 29 = false ∧ t.flag .clk 0x118 28 = true := by
  refine ⟨_, rfl, ?_⟩
  rw [if_pos h]
  refine ⟨?_, State.reg_setReg_same _ _ _ _, ?_, ?_⟩
  · rw [State.reg_setReg_off _ _ (by decide), State.reg_setReg_same]
  · rw [State.flag, State.reg_setReg_off _ _ (by decide), State.reg_setReg_off _ _ (by decide), State.reg_setReg_same]
    decide
  · rw [State.flag, State.reg_setReg_off _ _ (by decide), State.reg_setReg_off _ _ (by decide), State.reg_setReg_same]
    decide

theorem State.fmcAbort_ends (h : s.flag .clk 0x118 29 = true) (hawake : s.asleep = false) :
    ∃ t, exec .fmcAbort s = .next t ∧ t.flag .clk 0x118 29 = false ∧ t = { s with io := t.io, free := t.free } := by
  refine ⟨_, rfl, ?_⟩
  rw [if_pos (by rw [hawake, h]; decide)]
  refine ⟨?_, rfl⟩
  rw [State.flag, State.reg_fresh, State.reg_setReg_off _ _ (by decide), State.reg_setReg_off _ _ (by decide), State.reg_setReg_same]
  decide

/-! ### Idle dies (R493) -/

theorem State.islCode_of_lt {i : Nat} (h : i < 64) : s.islCode i = max (max (max 64 (s.islDiv i)) (s.thermalFloor (i / 16)))
    (max s.powerFloor (if s.plat.idle.has (i / 16) then 128 else 0)) := by
  have hmin : islMin i = 64 := by
    unfold islMin
    rw [if_neg (by omega), if_neg (by omega)]
  unfold State.islCode
  extract_lets d
  rw [if_pos h, ← hmin]

theorem State.avsUpdate_idle (k : Nat) : (s.avsUpdate k).plat.idle = s.plat.idle := by
  unfold State.avsUpdate
  extract_lets mv t p
  split
  · rfl
  · rw [(State.avsSend_within _ k).plat (by decide)]
    rfl

theorem State.dieIdleEntry_idles (k : Fin 4) (hheld : s.plat.held = false) (hflag : s.flag .pwr 0x008 16 = true)
    (hquiet : s.dieQuiet k.val = true) :
    ∃ t, exec (.dieIdleEntry k) s = .next t ∧ t.plat.idle.has k.val = true ∧ (∀ x < 64, x / 16 = k.val → 128 ≤ t.islCode x) ∧
      t = { s with io := t.io, plat := t.plat, out := t.out } := by
  refine ⟨_, rfl, ?_⟩
  rw [if_neg (by rw [hheld, hflag, hquiet]; decide)]
  generalize hu : ({ s with plat := { s.plat with idle := NatSet.add k.val s.plat.idle } } : State) = u
  have huw : s.within [.plat] u := hu ▸ s.setPlat_within _
  have hidle : u.plat.idle.has k.val = true := by
    rw [← hu]
    simp
  have hw := u.avsUpdate_within k.val
  have hsame := u.avsUpdate_idle k.val
  generalize u.avsUpdate k.val = t at hw hsame
  rw [← hsame] at hidle
  have hst : s.within [.io, .plat, .out] t := (huw.mono (by decide)).trans (hw.mono (by decide))
  refine ⟨hidle, fun x hx hxk => ?_, hst⟩
  rw [t.islCode_of_lt hx, hxk, if_pos hidle]
  exact (Nat.le_max_right _ _).trans (Nat.le_max_right _ _)

end

/-! ### Tests of the references and of WATCH_OSC (R479) -/

section
variable (s : State)

theorem State.clockFastTest_loses (pcie : Bool) {edges : BitVec 16} (hrails : s.railsGood = true) (hwatch : s.plat.watch.st = .stable)
    (hedges : edges.toNat < 192 ∨ 320 < edges.toNat) :
    exec (.clockFastTest pcie edges) s = .next (s.lose (if pcie then .pcie else .core)) := by
  have hexec : exec (.clockFastTest pcie edges) s = execClockFastTest pcie edges s := rfl
  rw [hexec, execClockFastTest, if_pos]
  rw [hrails, hwatch]
  simpa using hedges

theorem State.clockFastTest_passes (pcie : Bool) {edges : BitVec 16} (h1 : 192 ≤ edges.toNat) (h2 : edges.toNat ≤ 320) :
    exec (.clockFastTest pcie edges) s = .next s := by
  have hexec : exec (.clockFastTest pcie edges) s = execClockFastTest pcie edges s := rfl
  rw [hexec, execClockFastTest, if_neg]
  rw [decide_eq_false (Nat.not_lt.mpr h1), decide_eq_false (Nat.not_lt.mpr h2), Bool.or_false, Bool.and_false]
  decide

theorem State.watchOscEdgeTimeout_loses (hrails : s.railsGood = true) : exec .watchOscEdgeTimeout s = .next (s.lose .watch) := by
  have hexec : exec .watchOscEdgeTimeout s = execWatchOscEdgeTimeout s := rfl
  rw [hexec, execWatchOscEdgeTimeout, if_pos hrails]

theorem State.clockReturn_disabled {i : ClkInput} (hflag : s.flag .clk 0x100 0 = false) : exec (.clockReturn i) s = .next s := by
  have hexec : exec (.clockReturn i) s = execClockReturn i s := rfl
  rw [hexec]
  unfold execClockReturn
  extract_lets l t u v
  rw [if_pos]
  rw [hflag, Bool.not_false, Bool.or_true, Bool.true_or, Bool.true_or]

/-- After a loss of WATCH_OSC the references are judged anew (R480). -/
theorem State.lose_watch (hst : s.plat.watch.st ≠ .lost) : (s.lose .watch).plat.core = {} ∧ (s.lose .watch).plat.pcie = {} := by
  have hcond : (s.plat.input .watch).st ≠ .lost ∧ ClkInput.watch = .watch := ⟨hst, rfl⟩
  rw [s.lose_plat, Plat.afterLoss, if_pos hcond]
  exact ⟨rfl, rfl⟩

end

/-- Settles O49: windows by `clockMonitorWindow_judges`, losses by `lose_effects`, `lose_core` and `lose_aborts`, the return by
`clockReturn_returns`; each of the other commands by the lemma that says what it does. -/
theorem clocksAreJudgedAndFollowed : Obligations.ClocksAreJudgedAndFollowed := by
  unfold Obligations.ClocksAreJudgedAndFollowed
  refine ⟨?_, ?_⟩
  · intro s cc pc wc edges i off judged ref dw lossOf
    have hloss : ∀ i, s.plat.held = false → (s.plat.input i).st ≠ .lost → lossOf (s.lose i) i := by
      intro i hheld hst
      obtain ⟨hin, hbit, hcount, hisl, halert, hmsg⟩ := s.lose_effects hheld hst
      refine ⟨hin, hbit, hcount, hisl, halert, fun hi _ hmask => hmsg hi hmask, fun hi => ?_, s.lose_aborts hheld hst⟩
      subst hi
      exact s.lose_core hheld hst
    have hjudged : ∀ k good lost, judged k good lost = ClkIn.judged k good lost := fun _ _ _ => rfl
    have hdw : apart wc.toNat 1048576 = dw := rfl
    have href : ∀ (k : ClkIn) (x : W32), ref k x = k.judged (decide (apart x.toNat 262144 ≤ 52)) (decide (s.lossTol < apart x.toNat 262144)) :=
      fun k x => by rw [decide_eq_decide.mpr (s.lossTol_lt_iff _)]; rfl
    have hoff : ∀ x y, off x y = apart x y := fun _ _ => rfl
    clear_value dw lossOf ref judged off
    refine ⟨fun hrails => ?_, fun hrails hheld hwatch hedges => ?_, fun h1 h2 b => s.clockFastTest_passes b h1 h2,
      fun hrails hheld hwatch => ?_, fun hheld hst hl => ⟨s.clockReturn_disabled, fun hflag => s.clockReturn_returns hheld hst hflag hl⟩⟩
    · obtain ⟨t, hexec, h108, h10C, h110, hjw, hlost, hrefs, hsource, hkept⟩ := s.clockMonitorWindow_judges cc pc wc hrails
      rw [hdw] at hjw hlost hrefs hsource hkept
      refine ⟨t, hexec, h108, h10C, h110, ?_, fun h => hlost (by omega), fun h hst => ?_, fun h hst hc hg hcc => ?_, fun h => hkept (by omega)⟩
      · rw [hjw, hjudged, decide_eq_decide.mpr (by omega : dw ≤ 209715 ↔ 10 * dw ≤ 2 * 1048576),
          decide_eq_decide.mpr (by omega : 262144 < dw ↔ 1048576 < 4 * dw)]
      · rw [href, href]
        exact hrefs (by omega) hst
      · exact hsource (by omega) hst hc hg (by rwa [hoff] at hcc)
    · exact ⟨fun h => ⟨_, s.clockFastTest_loses false hrails hwatch hedges, hloss .core hheld h⟩,
        fun h => ⟨_, s.clockFastTest_loses true hrails hwatch hedges, hloss .pcie hheld h⟩⟩
    · exact ⟨_, s.watchOscEdgeTimeout_loses hrails, hloss .watch hheld hwatch, s.lose_watch hwatch⟩
  · intro s i k n cur goal nxt slow
    refine ⟨fun h => s.islCode_of_lt h, fun hheld hpll hres hne hlt => ?_, s.dividerRampStep_idle i,
      fun h => ⟨s.avsVoltageAck_supplies k h, s.avsTimeout_asks k h⟩, s.fmcGo_starts,
      fun h => ⟨s.fmcGo_running h, s.fmcDone_holds n h, s.fmcAbort_ends h⟩, s.dieIdleEntry_idles k⟩
    obtain ⟨t, hexec, hslow, hfast, hother, ht⟩ := s.dividerRampStep_moves i hheld hpll hres hne
    exact ⟨t, hexec, hslow, fun h => (hfast h).trans (Nat.mod_eq_of_lt hlt), hother, ht⟩

end Sys2Proof.Machine
end

section
/-! PROOF. Heat (R489 to R491): bins of temperatures, a C-die at a tick, the passing of time. -/
namespace Sys2Proof.Machine

/-! ### The passing of time (R20) -/

section
variable (s : State)

theorem State.passTime_refcnt (n : Nat) : (s.passTime n).refcnt = s.refcnt + w64 n := by
  have hfold : ∀ (l : List Page) (t : State), (l.foldl (fun t p => t.tickPage n p) t).refcnt = t.refcnt := by
    intro l
    induction l with
    | nil => exact fun _ => rfl
    | cons p l ih => exact fun t => (ih _).trans (t.tickPage_refcnt n p)
  exact hfold _ _

/-- The counts that the counter was to advance have passed. -/
theorem State.elapsed_advance (since : W64) {n : Nat} (hn : n < 2 ^ 64) : (s.advance since n).elapsed since n = true := by
  unfold State.advance
  split
  · next h => exact h
  · next h =>
    have hd : (s.refcnt - since).toNat < n := by simpa [State.elapsed] using h
    have hsub : s.refcnt + w64 (n - (s.refcnt - since).toNat) - since = w64 n := by
      have hcomm : s.refcnt + w64 (n - (s.refcnt - since).toNat) - since = (s.refcnt - since) + w64 (n - (s.refcnt - since).toNat) := by
        ring
      rw [hcomm]
      apply BitVec.eq_of_toNat_eq
      rw [BitVec.toNat_add, w64, w64, BitVec.toNat_ofNat, BitVec.toNat_ofNat]
      generalize (s.refcnt - since).toNat = d at hd
      omega
    rw [State.elapsed, s.passTime_refcnt, hsub, w64, BitVec.toNat_ofNat, Nat.mod_eq_of_lt hn]
    exact decide_eq_true le_rfl

theorem State.elapsed_congr {s t : State} (h : t.refcnt = s.refcnt) (since : W64) (n : Nat) : t.elapsed since n = s.elapsed since n := by
  rw [State.elapsed, State.elapsed, h]

end

/-! ### Temperatures and bins (R490) -/

theorem foldl_max_toNat_ge (l : List Byte) (m : Nat) : m ≤ l.foldl (fun m x => max m x.toNat) m ∧
    ∀ b ∈ l, b.toNat ≤ l.foldl (fun m x => max m x.toNat) m := by
  induction l generalizing m with
  | nil => exact ⟨le_rfl, fun _ h => absurd h List.not_mem_nil⟩
  | cons x l ih =>
    obtain ⟨hm, hl⟩ := ih (max m x.toNat)
    refine ⟨(Nat.le_max_left _ _).trans hm, fun b hb => ?_⟩
    rcases List.mem_cons.mp hb with rfl | hb
    · exact (Nat.le_max_right _ _).trans hm
    · exact hl b hb

theorem foldl_max_toNat_lt (l : List Byte) {m : Nat} (hm : m < 256) : l.foldl (fun m x => max m x.toNat) m < 256 := by
  induction l generalizing m with
  | nil => exact hm
  | cons x l ih => exact ih (Nat.max_lt.mpr ⟨hm, x.isLt⟩)

/-- No reading of a die is above its temperature. -/
theorem le_dieTemp {l : List (Option Byte)} {b : Byte} (hb : b ∈ l.filterMap id) : b.toNat ≤ dieTemp l := by
  unfold dieTemp
  split
  · next h => exact absurd (h ▸ hb) List.not_mem_nil
  · next x xs h =>
    rw [h] at hb
    obtain ⟨hm, hl⟩ := foldl_max_toNat_ge xs x.toNat
    rcases List.mem_cons.mp hb with rfl | hb
    · exact hm
    · exact hl b hb

theorem dieTemp_of_none {l : List (Option Byte)} (h : l.filterMap id = []) : dieTemp l = 125 := by
  rw [dieTemp, h]

theorem dieTemp_lt (l : List (Option Byte)) : dieTemp l < 256 := by
  unfold dieTemp
  split
  · decide
  · next x xs _ => exact foldl_max_toNat_lt xs x.isLt

theorem tempBin_le (t : Nat) : tempBin t ≤ 7 := by
  unfold tempBin
  split
  · decide
  · exact Nat.min_le_left _ _

theorem nextBin_of_le {hyst t b : Nat} (h : b ≤ tempBin t) : nextBin hyst t b = tempBin t := by
  cases b with
  | zero => rfl
  | succ b => exact if_pos h

/-- A bin is left downwards only far enough below its lower bound; it never falls below the temperature's own. -/
theorem nextBin_of_lt {hyst t b : Nat} (h : tempBin t < b) :
    (nextBin hyst t b < b ↔ t + hyst ≤ 30 + 10 * b) ∧ tempBin t ≤ nextBin hyst t b ∧ nextBin hyst t b ≤ b := by
  induction b with
  | zero => omega
  | succ b ih =>
    unfold nextBin
    rw [if_neg (by omega)]
    by_cases hcold : t + hyst ≤ 30 + 10 * (b + 1)
    · rw [if_pos hcold]
      have hb : tempBin t ≤ nextBin hyst t b ∧ nextBin hyst t b ≤ b := by
        by_cases hlt : tempBin t < b
        · exact (ih hlt).2
        · have hle : b ≤ tempBin t := Nat.not_lt.mp hlt
          rw [nextBin_of_le hle]
          omega
      omega
    · rw [if_neg hcold]
      omega

theorem nextBin_le {hyst t b : Nat} (hb : b ≤ 7) : nextBin hyst t b ≤ 7 := by
  by_cases h : tempBin t < b
  · exact (nextBin_of_lt h).2.2.trans hb
  · rw [nextBin_of_le (Nat.not_lt.mp h)]
    exact tempBin_le t

theorem fld_le {w : W32} {hi lo : Nat} : fld w hi lo < 2 ^ (hi + 1 - lo) := by
  unfold fld bits
  exact Nat.mod_lt _ (by positivity)

/-! ### A C-die at a tick (R490, R491) -/

/-- The thermal floor after a temperature (R491). -/
def State.nextFloor (s : State) (c f : Nat) : Nat :=
  if s.critC ≤ c then 128 else if s.throttleC ≤ c then min 128 (f + 4) else if c + s.thermHyst ≤ s.throttleC then max 64 (f - 4) else f

/-- The bin of a die after its readings (R490). -/
def State.binAfter (s : State) (r : List (Option Byte)) (was : Nat) : Nat :=
  if (r.filterMap id).isEmpty then 7 else nextBin s.thermHyst (dieTemp r) was

/-- The readings of a C-die. -/
def dieReadings (l : List (Option Byte)) (k : Nat) : List (Option Byte) := (List.range 16).map fun i => l.getD (16 * k + i) none

/-- What the tick of a die leaves alone: the limits, and the fields of other dies. -/
abbrev heatAddr (a : Nat) : Prop := a = 0x3100 ∨ a = 0x3104 ∨ a = 0x3108

/-- Bits of the thermal errors and of `ALERT` that stay set. -/
abbrev State.SignsStay (s t : State) : Prop :=
  (∀ i, s.flag .thm 0x010 i = true → t.flag .thm 0x010 i = true) ∧ (s.flag .smb 0x108 2 = true → t.flag .smb 0x108 2 = true)

section
variable {s t u : State}

theorem State.SignsStay.refl (s : State) : s.SignsStay s := ⟨fun _ h => h, fun h => h⟩

theorem State.SignsStay.trans (h : s.SignsStay t) (hu : t.SignsStay u) : s.SignsStay u :=
  ⟨fun i hi => hu.1 i (h.1 i hi), fun hs => hu.2 (h.2 hs)⟩

theorem State.Calm.signsStay (h : s.Calm (fun a => a = 0x3010 ∨ a = 0x5108) t) : s.SignsStay t :=
  ⟨fun i hi => (h.flag (p := .thm) i (.inl rfl)).trans hi, fun hs => (h.flag (p := .smb) 2 (.inr rfl)).trans hs⟩

theorem State.SignsStay.ite {c : Prop} [Decidable c] (ht : s.SignsStay t) (hu : s.SignsStay u) : s.SignsStay (if c then t else u) := by
  split
  · exact ht
  · exact hu

end

section
variable (s : State)

/-- Detected errors stay. -/
theorem State.flag_setErr_of {p : Page} {i j : Nat} (h : s.flag p 0x010 i = true) : (s.setErr p j).flag p 0x010 i = true := by
  rw [State.flag, State.setErr, State.reg_detect, if_neg (by rintro ⟨h1, -⟩; omega), if_pos rfl, bitOf_or]
  rw [State.flag] at h
  rw [h, Bool.true_or]

theorem State.setErr_signsStay (j : Nat) : s.SignsStay (s.setErr .thm j) :=
  ⟨fun _ => s.flag_setErr_of, fun h => (s.setErr_keepsRegs .thm j).flag (p := .smb) 2 (by decide) |>.trans h⟩

/-- The temperature and the bin of a die are stored; its floor follows (R490, R491). -/
def State.dieStored (s : State) (r : List (Option Byte)) (k : Nat) : State :=
  (s.setField .thm 0x104 (8 * k + 7) (8 * k) (dieTemp r)).setField .thm 0x108 (3 * k + 2) (3 * k)
    (s.binAfter r (s.field .thm 0x108 (3 * k + 2) (3 * k)))

theorem State.dieStored_within (r : List (Option Byte)) (k : Nat) : s.within [.io] (s.dieStored r k) :=
  State.within.trans (s.setField_within _ _ _ _ _) (State.setField_within _ _ _ _ _ _)

theorem State.dieStored_calm {A : Nat → Prop} (h4 : ¬ A 0x3104) (h8 : ¬ A 0x3108) (r : List (Option Byte)) (k : Nat) :
    s.Calm A (s.dieStored r k) :=
  State.Calm.trans (s.setReg_calm .thm 0x104 _ h4) (State.setReg_calm _ .thm 0x108 _ h8)

theorem State.dieStored_fields (r : List (Option Byte)) {k : Nat} (hk : k < 4) :
    (s.dieStored r k).field .thm 0x104 (8 * k + 7) (8 * k) = dieTemp r ∧
      (s.dieStored r k).field .thm 0x108 (3 * k + 2) (3 * k) = s.binAfter r (s.field .thm 0x108 (3 * k + 2) (3 * k)) := by
  have hbin : s.binAfter r (s.field .thm 0x108 (3 * k + 2) (3 * k)) < 8 := by
    have hwas : s.field .thm 0x108 (3 * k + 2) (3 * k) < 2 ^ (3 * k + 2 + 1 - 3 * k) := fld_le
    rw [show 3 * k + 2 + 1 - 3 * k = 3 by omega] at hwas
    unfold State.binAfter
    split
    · decide
    · exact Nat.lt_succ_of_le (nextBin_le (Nat.le_of_lt_succ hwas))
  refine ⟨?_, ?_⟩
  · unfold State.dieStored
    rw [State.field, State.reg_setField_ne _ _ _ _ (by decide)]
    refine (s.field_setField_same .thm 0x104 _ _ _ (by omega) (by omega)).trans ?_
    rw [show 8 * k + 7 + 1 - 8 * k = 8 by omega]
    exact Nat.mod_eq_of_lt (dieTemp_lt r)
  · refine (State.field_setField_same _ .thm 0x108 _ _ _ (by omega) (by omega)).trans ?_
    rw [show 3 * k + 2 + 1 - 3 * k = 3 by omega]
    exact Nat.mod_eq_of_lt hbin

/-- The fields of another die stay. -/
theorem State.dieStored_fields_ne (r : List (Option Byte)) {j k : Nat} (hj : j < 4) (hjk : k ≠ j) :
    (s.dieStored r j).field .thm 0x104 (8 * k + 7) (8 * k) = s.field .thm 0x104 (8 * k + 7) (8 * k) ∧
      (s.dieStored r j).field .thm 0x108 (3 * k + 2) (3 * k) = s.field .thm 0x108 (3 * k + 2) (3 * k) := by
  refine ⟨?_, ?_⟩
  · unfold State.dieStored
    rw [State.field, State.reg_setField_ne _ _ _ _ (by decide), State.setField, State.reg_setReg_same]
    exact fld_setFld_ne _ _ _ _ _ _ (by omega) (by omega)
  · unfold State.dieStored
    rw [State.field, State.setField, State.reg_setReg_same]
    refine (fld_setFld_ne _ _ _ _ _ _ (by omega) (by omega)).trans ?_
    exact congrArg (fld · _ _) (State.reg_setField_ne s _ _ _ (by decide))

/-- A step of a die's tick that leaves its readings and what is shown of other dies alone. -/
abbrev State.HeatStep (s t : State) : Prop := s.within [.io, .out] t ∧ s.Calm heatAddr t ∧ s.SignsStay t

/-- Addresses that no counter of events takes. -/
abbrev heatOrSign (a : Nat) : Prop := heatAddr a ∨ a = 0x3010 ∨ a = 0x5108

theorem State.Calm.heatStep {s t : State} (hw : s.within [.io, .out] t) (h : s.Calm heatOrSign t) : s.HeatStep t :=
  ⟨hw, h.mono fun _ => .inl, (h.mono fun _ => .inr).signsStay⟩

theorem State.HeatStep.trans {s t u : State} (h : s.HeatStep t) (hu : t.HeatStep u) : s.HeatStep u :=
  ⟨h.1.trans hu.1, h.2.1.trans hu.2.1, h.2.2.trans hu.2.2⟩

theorem State.HeatStep.refl (s : State) : s.HeatStep s := ⟨.refl _ _, .refl s, .refl s⟩

theorem State.HeatStep.ite {s t u : State} {c : Prop} [Decidable c] (ht : s.HeatStep t) (hu : s.HeatStep u) :
    s.HeatStep (if c then t else u) := by
  split
  · exact ht
  · exact hu

theorem State.event_heatStep (code n : Nat) : s.HeatStep (s.event .thm code n) :=
  State.Calm.heatStep ((s.event_within _ _ _).mono (by decide)) (s.event_calm .thm code n fun o h1 h2 => by
    simp only [Page.base, heatOrSign, heatAddr]
    omega)

theorem State.setErr_heatStep (j : Nat) : s.HeatStep (s.setErr .thm j) :=
  ⟨s.setErr_within _ _, s.setErr_calm .thm j (by decide) (by decide), s.setErr_signsStay j⟩

theorem State.setReg_heatStep {o : Nat} (v : W32) (h : ¬ heatOrSign (0x3000 + o)) : s.HeatStep (s.setReg .thm o v) :=
  State.Calm.heatStep ((s.setReg_within _ _ _).mono (by decide)) (s.setReg_calm .thm o v h)

/-- `ALERT` shows a critical temperature (R491). -/
theorem State.alert_heatStep : s.HeatStep (s.setFlag .smb 0x108 2 true) :=
  ⟨(s.setFlag_within _ _ _ _).mono (by decide), s.setReg_calm .smb 0x108 _ (by decide),
    fun i h => (congrArg (bitOf · i) (s.reg_setFlag_ne 2 true (by decide))).trans h, fun _ => s.flag_setFlag_same _ _ _ _ (by decide)⟩

theorem State.avsUpdate_tfloor (k : Nat) : (s.avsUpdate k).plat.tfloor = s.plat.tfloor := by
  unfold State.avsUpdate
  extract_lets mv t p
  split
  · rfl
  · rw [(State.avsSend_within _ k).plat (by decide)]
    rfl

theorem State.avsUpdate_heat (k : Nat) : s.Calm heatAddr (s.avsUpdate k) ∧ s.SignsStay (s.avsUpdate k) := by
  have hcalm : s.Calm heatOrSign (s.avsUpdate k) := s.avsUpdate_calm k (by decide) fun o h1 h2 => by
    simp only [Page.base, heatOrSign, heatAddr]
    omega
  exact ⟨hcalm.mono fun _ => .inl, (hcalm.mono fun _ => .inr).signsStay⟩

/-- What follows the readings of a die, stored in `u`: its floor, the signs of throttling and of a critical temperature, its voltage
(R491). -/
theorem State.thermalDie_follows (l : List (Option Byte)) {k : Nat} {u : State} (hu : s.dieStored (dieReadings l k) k = u) :
    u.within [.io, .out, .plat] (s.thermalDie l k) ∧ u.Calm heatAddr (s.thermalDie l k) ∧ u.SignsStay (s.thermalDie l k) ∧
      (s.thermalDie l k).plat.tfloor = Table.set (fun _ => 64) s.plat.tfloor k (s.nextFloor (dieTemp (dieReadings l k)) (s.thermalFloor k)) ∧
      (s.critC ≤ dieTemp (dieReadings l k) → (s.thermalDie l k).flag .thm 0x010 1 = true ∧ (s.thermalDie l k).flag .smb 0x108 2 = true) := by
  unfold State.thermalDie
  extract_lets r c was bin t1 t2 f g p t3 t4 t5 t6 t7
  have ht1 : u = t1 := hu.symm
  have hplat : u.plat = s.plat := hu ▸ (s.dieStored_within _ _).plat (by decide)
  have hc : dieTemp (dieReadings l k) = c := rfl
  have hg : s.nextFloor c (s.thermalFloor k) = g := rfl
  rw [hc, hg]
  have h2 : u.HeatStep t2 := ht1 ▸ .ite (.refl _) (State.event_heatStep _ _ _)
  clear_value g c t1
  have h3 : u.within [.io, .out, .plat] t3 ∧ u.Calm heatAddr t3 ∧ u.SignsStay t3 := by
    have hset : t2.within [.plat] t3 := t2.setPlat_within _
    refine ⟨(h2.1.mono (by decide)).trans (hset.mono (by decide)), h2.2.1.trans (hset.calm (by decide) (by decide)), h2.2.2.trans ?_⟩
    exact State.Calm.signsStay (hset.calm (by decide) (by decide))
  have hfloor : t3.plat.tfloor = Table.set (fun _ => 64) s.plat.tfloor k g := by
    have hp : t2.plat = s.plat := (h2.1.plat (by decide)).trans hplat
    simp only [t3, hp]
  clear_value t3
  have h4 : t3.HeatStep t4 := .ite (.refl _) (State.event_heatStep _ _ _)
  have h5 : t4.HeatStep t5 := .ite (State.setErr_heatStep _ _) (.refl _)
  have h6 : t5.HeatStep t6 := (State.setReg_heatStep t5 (o := 0x150) _ (by decide)).trans (State.setReg_heatStep _ (o := 0x150) _ (by decide))
  have h7 : t6.HeatStep t7 := .ite ((State.setErr_heatStep _ _).trans (State.alert_heatStep _)) (.refl _)
  have hcrit : s.critC ≤ c → t7.flag .thm 0x010 1 = true ∧ t7.flag .smb 0x108 2 = true := fun h => by
    have ht7 : t7 = (t6.setErr .thm 1).setFlag .smb 0x108 2 true := if_pos h
    rw [ht7]
    exact ⟨(State.alert_heatStep _).2.2.1 1 (t6.flag_setErr .thm 1 (by decide)), State.flag_setFlag_same _ _ _ _ _ (by decide)⟩
  have h37 : t3.HeatStep t7 := ((h4.trans h5).trans h6).trans h7
  clear_value t7
  obtain ⟨havs, hsigns⟩ := t7.avsUpdate_heat k
  refine ⟨(h3.1.trans (h37.1.mono (by decide))).trans (t7.avsUpdate_within k), (h3.2.1.trans h37.2.1).trans havs,
    (h3.2.2.trans h37.2.2).trans hsigns, ?_, fun h => ⟨hsigns.1 1 (hcrit h).1, hsigns.2 (hcrit h).2⟩⟩
  rw [t7.avsUpdate_tfloor, h37.1.plat (by decide), hfloor]

end

end Sys2Proof.Machine
end

section
/-! PROOF. A thermal tick, the trip, a power tick (R489 to R492). -/
namespace Sys2Proof.Machine

/-- What a fold makes of one index of its list: what leads to it, what it does, what it leaves. -/
theorem foldl_at {α : Type} {f : State → α → State} {Q P : State → Prop} {k : α} {l : List α} (hk : k ∈ l) (hnd : l.Nodup)
    (hbefore : ∀ t, ∀ j ∈ l, j ≠ k → Q t → Q (f t j)) (hat : ∀ t, Q t → P (f t k)) (hafter : ∀ t, ∀ j ∈ l, j ≠ k → P t → P (f t j))
    {s : State} (hs : Q s) : P (l.foldl f s) := by
  induction l generalizing s with
  | nil => exact absurd hk List.not_mem_nil
  | cons j l ih =>
    obtain ⟨hj, hnd⟩ := List.nodup_cons.mp hnd
    by_cases hjk : j = k
    · subst hjk
      have hrest : ∀ (m : List α), (∀ i ∈ m, i ∈ l) → ∀ t, P t → P (m.foldl f t) := by
        intro m
        induction m with
        | nil => exact fun _ t ht => ht
        | cons i m ihm =>
          intro hm t ht
          refine ihm (fun x hx => hm x (List.mem_cons_of_mem _ hx)) _ (hafter t i (List.mem_cons_of_mem _ (hm i List.mem_cons_self)) ?_ ht)
          rintro rfl
          exact hj (hm i List.mem_cons_self)
      exact hrest l (fun _ h => h) _ (hat s hs)
    · exact ih ((List.mem_cons.mp hk).resolve_left fun h => hjk h.symm) hnd (fun t i hi => hbefore t i (List.mem_cons_of_mem _ hi))
        (fun t i hi => hafter t i (List.mem_cons_of_mem _ hi)) (hbefore s j List.mem_cons_self hjk hs)

section
variable (s : State)

/-! ### One die (R490, R491) -/

theorem State.thermalDie_within (l : List (Option Byte)) (k : Nat) : s.within [.io, .out, .plat] (s.thermalDie l k) :=
  ((s.dieStored_within _ _).mono (by decide)).trans (s.thermalDie_follows l rfl).1

theorem State.thermalDie_signs (l : List (Option Byte)) (k : Nat) : s.SignsStay (s.thermalDie l k) :=
  State.SignsStay.trans (State.Calm.signsStay (s.dieStored_calm (by decide) (by decide) _ _)) (s.thermalDie_follows l rfl).2.2.1

theorem State.thermalDie_limits (l : List (Option Byte)) (k : Nat) : (s.thermalDie l k).reg .thm 0x100 = s.reg .thm 0x100 := by
  have h1 : s.Calm (· = 0x3100) (s.dieStored (dieReadings l k) k) := s.dieStored_calm (by decide) (by decide) _ _
  exact ((s.thermalDie_follows l rfl).2.1.reg (p := .thm) (.inl rfl)).trans (h1.reg (p := .thm) rfl)

/-- What a die shows. -/
def State.dieShows (s : State) (k : Nat) : Nat × Nat × Nat :=
  (s.field .thm 0x104 (8 * k + 7) (8 * k), s.field .thm 0x108 (3 * k + 2) (3 * k), s.thermalFloor k)

/-- What a die shows after its tick (R490, R491). -/
def State.dieNext (s : State) (l : List (Option Byte)) (k : Nat) : Nat × Nat × Nat :=
  (dieTemp (dieReadings l k), s.binAfter (dieReadings l k) (s.field .thm 0x108 (3 * k + 2) (3 * k)),
    s.nextFloor (dieTemp (dieReadings l k)) (s.thermalFloor k))

theorem State.thermalDie_shows (l : List (Option Byte)) {k : Nat} (hk : k < 4) : (s.thermalDie l k).dieShows k = s.dieNext l k := by
  obtain ⟨h1, h2⟩ := s.dieStored_fields (dieReadings l k) hk
  obtain ⟨-, hcalm, -, hfloor, -⟩ := s.thermalDie_follows l (k := k) rfl
  rw [State.dieShows, State.dieNext, hcalm.field (p := .thm) _ _ (.inr (.inl rfl)), hcalm.field (p := .thm) _ _ (.inr (.inr rfl)), h1, h2,
    State.thermalFloor, hfloor, Table.get_set_same]

theorem State.thermalDie_shows_ne (l : List (Option Byte)) {j k : Nat} (hj : j < 4) (hjk : j ≠ k) :
    (s.thermalDie l j).dieShows k = s.dieShows k := by
  obtain ⟨h1, h2⟩ := s.dieStored_fields_ne (dieReadings l j) hj hjk.symm
  obtain ⟨-, hcalm, -, hfloor, -⟩ := s.thermalDie_follows l (k := j) rfl
  rw [State.dieShows, State.dieShows, hcalm.field (p := .thm) _ _ (.inr (.inl rfl)), hcalm.field (p := .thm) _ _ (.inr (.inr rfl)), h1, h2,
    State.thermalFloor, hfloor, Table.get_set_ne _ _ hjk.symm]
  rfl

/-- The next state of a die follows from what it shows and from the limits. -/
theorem State.dieNext_congr {s t : State} {k : Nat} (hshow : t.dieShows k = s.dieShows k) (hlim : t.reg .thm 0x100 = s.reg .thm 0x100)
    (l : List (Option Byte)) : t.dieNext l k = s.dieNext l k := by
  have hfield : ∀ hi lo, t.field .thm 0x100 hi lo = s.field .thm 0x100 hi lo := fun hi lo => congrArg (fld · hi lo) hlim
  obtain ⟨-, hbin, hfloor⟩ : t.field .thm 0x104 (8 * k + 7) (8 * k) = s.field .thm 0x104 (8 * k + 7) (8 * k) ∧
      t.field .thm 0x108 (3 * k + 2) (3 * k) = s.field .thm 0x108 (3 * k + 2) (3 * k) ∧ t.thermalFloor k = s.thermalFloor k := by
    simpa [State.dieShows] using hshow
  have hcrit : t.critC = s.critC := by rw [State.critC, hfield, State.critC]
  have hthrottle : t.throttleC = s.throttleC := by rw [State.throttleC, hfield, State.throttleC]
  have hhyst : t.thermHyst = s.thermHyst := by rw [State.thermHyst, hfield, State.thermHyst]
  unfold State.dieNext State.binAfter State.nextFloor
  rw [hbin, hfloor, hcrit, hthrottle, hhyst]

theorem State.critC_congr {s t : State} (hlim : t.reg .thm 0x100 = s.reg .thm 0x100) : t.critC = s.critC :=
  congrArg (fun w => min 120 (fld w 23 16)) hlim

/-! ### The four dies -/

/-- The dies of a tick. -/
def State.thermalDies (s : State) (l : List (Option Byte)) : State := (List.range 4).foldl (fun t k => t.thermalDie l k) s

theorem State.thermalDies_within (l : List (Option Byte)) : s.within [.io, .out, .plat] (s.thermalDies l) :=
  .foldl (fun t k => t.thermalDie_within l k) _ s

theorem State.thermalDies_shows (l : List (Option Byte)) {k : Nat} (hk : k < 4) : (s.thermalDies l).dieShows k = s.dieNext l k ∧
    (s.critC ≤ dieTemp (dieReadings l k) → (s.thermalDies l).flag .thm 0x010 1 = true ∧ (s.thermalDies l).flag .smb 0x108 2 = true) := by
  refine foldl_at (Q := fun t => t.dieShows k = s.dieShows k ∧ t.reg .thm 0x100 = s.reg .thm 0x100)
    (P := fun t => t.dieShows k = s.dieNext l k ∧
      (s.critC ≤ dieTemp (dieReadings l k) → t.flag .thm 0x010 1 = true ∧ t.flag .smb 0x108 2 = true))
    (List.mem_range.mpr hk) List.nodup_range (fun t j hj hjk ⟨h1, h2⟩ => ?_) (fun t ⟨h1, h2⟩ => ?_) (fun t j hj hjk ⟨h1, h2⟩ => ?_) ⟨rfl, rfl⟩
  · exact ⟨(t.thermalDie_shows_ne l (List.mem_range.mp hj) hjk).trans h1, (t.thermalDie_limits l j).trans h2⟩
  · refine ⟨(t.thermalDie_shows l hk).trans (State.dieNext_congr h1 h2 l), fun hc => ?_⟩
    exact (t.thermalDie_follows l (k := k) rfl).2.2.2.2 (by rwa [State.critC_congr h2])
  · have hsigns := t.thermalDie_signs l j
    exact ⟨(t.thermalDie_shows_ne l (List.mem_range.mp hj) hjk).trans h1, fun hc => ⟨hsigns.1 1 (h2 hc).1, hsigns.2 (h2 hc).2⟩⟩

theorem State.thermalDies_signs (l : List (Option Byte)) : s.SignsStay (s.thermalDies l) := by
  have hfold : ∀ (m : List Nat) (t : State), t.SignsStay (m.foldl (fun t k => t.thermalDie l k) t) := by
    intro m
    induction m with
    | nil => exact State.SignsStay.refl
    | cons k m ih =>
      intro t
      rw [List.foldl_cons]
      exact State.SignsStay.trans (t.thermalDie_signs l k) (ih (t.thermalDie l k))
  exact hfold _ s

/-! ### The tick (R489) -/

theorem State.storeReadings_within (l : List (Option Byte)) : s.within [.io, .free] (s.storeReadings l) := by
  unfold State.storeReadings
  refine State.within.trans (l := [.io, .free]) ?_ ((State.fresh_within _).mono (by decide))
  refine State.within.foldl (fun t w => ?_) _ s
  exact (State.setReg_within _ _ _ _).mono (by decide)

theorem State.storeReadings_calm (l : List (Option Byte)) : s.Calm heatAddr (s.storeReadings l) := by
  unfold State.storeReadings
  refine State.Calm.trans (.foldl _ (fun t w hw => State.setReg_calm _ .thm _ _ ?_) s) ((State.fresh_within _).calm (by decide) (by decide))
  have hw := List.mem_range.mp hw
  simp only [Page.base, heatAddr]
  omega

theorem State.stackTemps_step (t : State) (l : List (Option Byte)) (k : Nat) :
    t.within [.io] (match l.getD k none with | some b => t.setReg (.hbm2 k) 0x100 (w32 (2 ^ 31 + b.toNat)) | none => t) ∧
      t.Calm heatAddr (match l.getD k none with | some b => t.setReg (.hbm2 k) 0x100 (w32 (2 ^ 31 + b.toNat)) | none => t) := by
  split
  · refine ⟨t.setReg_within _ _ _, t.setReg_calm _ _ _ ?_⟩
    simp only [Page.base, heatAddr]
    omega
  · exact ⟨.refl _ _, .refl t⟩

theorem State.stackTemps_within (l : List (Option Byte)) : s.within [.io] (s.stackTemps l) :=
  .foldl (fun t k => (t.stackTemps_step l k).1) _ s

theorem State.stackTemps_calm (l : List (Option Byte)) : s.Calm heatAddr (s.stackTemps l) :=
  .foldl _ (fun t k _ => (t.stackTemps_step l k).2) s

/-- The readings that count. -/
def goodReadings (rs es : List (Option Byte)) : List Byte := (rs.take 64 ++ es.take 4).filterMap id

/-- What a tick does before it comes to the dies (R489). -/
theorem State.thermalTick_eq (rs es hs : List (Option Byte)) (hheld : s.plat.held = false)
    (hcool : ∀ b ∈ goodReadings rs es, b.toNat < 125) : ∃ u, exec (.thermalTick rs es hs) s = .next (u.thermalDies rs) ∧
      s.within [.io, .refcnt, .out, .plat, .free] u ∧ s.Calm heatAddr u ∧ u.plat.tfloor = s.plat.tfloor ∧
      u.elapsed s.plat.thmAt 10000 = true ∧ ((goodReadings rs es).length < 68 → u.flag .thm 0x010 2 = true) := by
  have hexec : exec (.thermalTick rs es hs) s = execThermalTick rs es hs s := rfl
  rw [hexec]
  unfold execThermalTick
  extract_lets good t n t1 p t2 t3 t4 e t5
  have hgood : goodReadings rs es = good := rfl
  rw [hgood] at hcool ⊢
  have hany : (good.any fun b => decide (125 ≤ b.toNat)) = false := by
    rw [List.any_eq_false]
    exact fun b hb => by simpa using hcool b hb
  refine ⟨t5, ?_, ?_⟩
  · rw [hheld, hany, if_neg Bool.false_ne_true, if_neg Bool.false_ne_true]
    rfl
  clear_value good
  have helapsed : t.elapsed s.plat.thmAt 10000 = true := s.elapsed_advance _ (by decide)
  have hw : s.within [.io, .refcnt] t := s.advance_within _ _
  have hcalm : s.Calm heatAddr t := (s.advance_keepsRegs _ _).mono fun a ha => by rcases ha with rfl | rfl | rfl <;> decide
  clear_value t n
  have h1 : t.within [.io] t1 ∧ t.Calm heatAddr t1 := iteInduction (motive := fun u => t.within [.io] u ∧ t.Calm heatAddr u)
    (fun _ => ⟨t.setReg_within _ _ _, t.setReg_calm .thm 0x154 _ (by decide)⟩) fun _ => ⟨.refl _ _, .refl t⟩
  have h2 : t1.within [.plat] t2 := t1.setPlat_within _
  have hfloor : t2.plat.tfloor = s.plat.tfloor := by
    have ht2 : t2.plat.tfloor = t1.plat.tfloor := rfl
    rw [ht2, h1.1.plat (by decide), hw.plat (by decide)]
  clear_value t1 t2
  have h3 : t2.within [.io, .free] t3 ∧ t2.Calm heatAddr t3 := by
    have hev := t2.event_heatStep 0x02 good.length
    have hevw : t2.within [.io] (t2.event .thm 0x02 good.length) := t2.event_within _ _ _
    exact ⟨((hevw.mono (by decide)).trans (State.storeReadings_within _ _)).trans ((State.stackTemps_within _ _).mono (by decide)),
      (hev.2.1.trans (State.storeReadings_calm _ _)).trans (State.stackTemps_calm _ _)⟩
  clear_value t3
  have h4 : t3.HeatStep t4 := .ite (t3.setErr_heatStep 2) (.refl _)
  have herr : good.length < 68 → t4.flag .thm 0x010 2 = true := fun h => by
    have ht4 : t4 = t3.setErr .thm 2 := if_pos h
    rw [ht4]
    exact t3.flag_setErr .thm 2 (by decide)
  clear_value t4
  have h5 : t4.HeatStep t5 := t4.setReg_heatStep _ (by decide)
  clear_value t5
  have hu : t.within [.io, .out, .plat, .free] t5 :=
    ((((h1.1.mono (by decide)).trans (h2.mono (by decide))).trans (h3.1.mono (by decide))).trans (h4.1.mono (by decide))).trans
      (h5.1.mono (by decide))
  refine ⟨(hw.mono (by decide)).trans (hu.mono (by decide)), ?_, ?_, ?_, fun h => h5.2.2.1 2 (herr h)⟩
  · exact (((((hcalm.trans h1.2).trans (h2.calm (by decide) (by decide))).trans h3.2).trans h4.2.1).trans h5.2.1)
  · rw [h5.1.plat (by decide), h4.1.plat (by decide), h3.1.plat (by decide), hfloor]
  · rw [State.elapsed_congr (hu.refcnt (by decide))]
    exact helapsed

end

end Sys2Proof.Machine
end

section
/-! PROOF. The trip at 125 °C and the power tick (R491, R492); floors follow heat and power. -/
namespace Sys2Proof.Machine

section
variable (s : State)

/-! ### The trip (R491) -/

theorem State.thermalTick_hot {rs es : List (Option Byte)} (hs : List (Option Byte)) (hheld : s.plat.held = false)
    (hhot : ∃ b ∈ goodReadings rs es, 125 ≤ b.toNat) : exec (.thermalTick rs es hs) s = .next s.tripOff := by
  have hexec : exec (.thermalTick rs es hs) s = execThermalTick rs es hs s := rfl
  rw [hexec]
  unfold execThermalTick
  extract_lets good
  have hany : (good.any fun b => decide (125 ≤ b.toNat)) = true := by
    obtain ⟨b, hb, h⟩ := hhot
    exact List.any_eq_true.mpr ⟨b, hb, decide_eq_true h⟩
  rw [hheld, hany, if_neg Bool.false_ne_true, if_pos rfl]

theorem State.tripOff_trips : s.tripOff.plat.trip = true ∧ s.tripOff.plat.held = true ∧ s.tripOff.mgmt.pwrReq = true ∧
    s.tripOff.flag .smb 0x108 3 = true ∧ s.tripOff.board = s.board ∧ s.tripOff.mem = State.reset.mem :=
  ⟨rfl, rfl, rfl, State.flag_setFlag_same _ _ _ _ _ (by decide), rfl, rfl⟩

/-! ### The power tick (R492) -/

/-- The power floor after the estimates `a` and `b` (R492). -/
def State.nextPowerFloor (s : State) (a b : Nat) : Nat :=
  if s.peakW < a ∨ s.sustW < b then min 128 (s.powerFloor + 4)
  else if a * 100 < 97 * s.peakW ∧ b * 100 < 97 * s.sustW then max 64 (s.powerFloor - 4) else s.powerFloor

theorem State.powerFloor_le : s.powerFloor < 1024 := by
  have h : s.field .pwr 0x108 31 22 < 2 ^ (31 + 1 - 22) := fld_le
  unfold State.powerFloor
  omega

theorem State.nextPowerFloor_bounds (a b : Nat) : 64 ≤ s.nextPowerFloor a b ∧ s.nextPowerFloor a b < 1024 := by
  have h := s.powerFloor_le
  have h64 : 64 ≤ s.powerFloor := Nat.le_max_left _ _
  unfold State.nextPowerFloor
  split
  · omega
  · split <;> omega

/-- The estimates are stored (R492, R497). -/
def State.powerStored (s : State) (a b : Nat) : State :=
  let t := s.advance s.plat.pwrAt 100000
  let n := (t.refcnt - s.plat.pwrAt).toNat
  let t := if 64 < s.powerFloor then t.addSat .pwr 0x110 n else t
  ({ t with plat := { t.plat with pwrAt := t.refcnt } }).setReg .pwr 0x104 (w32 (b * 65536 + a))

/-- The power floor changes, and the voltages follow. -/
def State.floorMoved (s : State) (f g : Nat) : State :=
  let t := (s.setField .pwr 0x108 31 22 g).event .pwr 0x03 1
  let t := if f ≤ 64 ∧ 64 < g then t.setErr .pwr 1 else t
  (List.range 4).foldl State.avsUpdate t

theorem State.powerTick_eq (short long : BitVec 16) (hheld : s.plat.held = false) :
    exec (.powerTick short long) s = .next (if s.powerFloor = s.nextPowerFloor short.toNat long.toNat
      then s.powerStored short.toNat long.toNat
      else (s.powerStored short.toNat long.toNat).floorMoved s.powerFloor (s.nextPowerFloor short.toNat long.toNat)) := by
  have hexec : exec (.powerTick short long) s = execPowerTick short long s := rfl
  rw [hexec, execPowerTick, hheld, if_neg Bool.false_ne_true]
  rfl

/-- Registers of the supplies that a change of voltages leaves alone. -/
abbrev powerAddr (a : Nat) : Prop := a = 0x2104 ∨ a = 0x2108

theorem State.powerStored_mem (a b : Nat) : (s.powerStored a b).mem = s.mem := by
  unfold State.powerStored
  extract_lets t n u p
  have ht : s.within [.io, .refcnt, .plat] t := (s.advance_within _ _).mono (by decide)
  have hu : s.within [.io, .refcnt, .plat] u := .ite (fun _ => ht.then (by decide) (t.setReg_within _ _ _)) fun _ => ht
  have hall := (hu.then (by decide) (u.setPlat_within { p with pwrAt := u.refcnt })).then (by decide)
    (State.setReg_within _ .pwr 0x104 (w32 (b * 65536 + a)))
  exact hall.mem (by decide)

theorem State.powerStored_fields {a b : Nat} (ha : a < 65536) (hb : b < 65536) :
    (s.powerStored a b).field .pwr 0x104 31 16 = b ∧ (s.powerStored a b).field .pwr 0x104 15 0 = a ∧
      (s.powerStored a b).powerFloor = s.powerFloor := by
  unfold State.powerStored
  extract_lets t n u p
  have hu : s.Calm (· = 0x2108) u := by
    have ht : s.Calm (· = 0x2108) t := (s.advance_keepsRegs _ _).mono fun a ha => by rw [ha]; decide
    exact .ite (ht.trans (t.setReg_calm .pwr 0x110 _ (by decide))) ht
  have hv : s.Calm (· = 0x2108) { u with plat := { p with pwrAt := u.refcnt } } :=
    hu.trans ((u.setPlat_within _).calm (by decide) (by decide))
  generalize ({ u with plat := { p with pwrAt := u.refcnt } } : State) = v at hv ⊢
  have hfloor : (v.setReg .pwr 0x104 (w32 (b * 65536 + a))).powerFloor = s.powerFloor := by
    have hreg := (hv.trans (v.setReg_calm .pwr 0x104 (w32 (b * 65536 + a)) (by decide))).field (p := .pwr) (j := 0x108) 31 22 rfl
    rw [State.powerFloor, hreg, State.powerFloor]
  refine ⟨?_, ?_, hfloor⟩
  · rw [State.field, State.reg_setReg_same]
    simp only [fld, bits, w32, BitVec.toNat_ofNat, Nat.shiftRight_eq_div_pow]
    omega
  · rw [State.field, State.reg_setReg_same]
    simp only [fld, bits, w32, BitVec.toNat_ofNat, Nat.shiftRight_eq_div_pow]
    omega

theorem State.floorMoved_moves (f : Nat) {g : Nat} (h64 : 64 ≤ g) (hg : g < 1024) :
    (s.floorMoved f g).reg .pwr 0x104 = s.reg .pwr 0x104 ∧ (s.floorMoved f g).powerFloor = g ∧
      (f ≤ 64 → 64 < g → (s.floorMoved f g).flag .pwr 0x010 1 = true) ∧ (s.floorMoved f g).mem = s.mem := by
  unfold State.floorMoved
  extract_lets t u
  have ht4 : t.reg .pwr 0x104 = s.reg .pwr 0x104 := by
    rw [State.reg_event_off _ _ _ _ _ (by decide) (by decide), State.reg_setField_ne _ _ _ _ (by decide)]
  have ht8 : t.field .pwr 0x108 31 22 = g := by
    rw [State.field, State.reg_event_off _ _ _ _ _ (by decide) (by decide)]
    exact (s.field_setField_same .pwr 0x108 31 22 g (by decide) (by decide)).trans (Nat.mod_eq_of_lt hg)
  have htm : t.mem = s.mem := (State.event_within _ _ _ _).mem (by decide)
  clear_value t
  have hu : t.Calm powerAddr u := .ite (t.setErr_calm .pwr 1 (by decide) (by decide)) (.refl t)
  have hum : u.mem = t.mem := by
    simp only [u]
    split
    · exact (t.setErr_within _ _).mem (by decide)
    · rfl
  have herr : f ≤ 64 → 64 < g → u.flag .pwr 0x010 1 = true := fun h1 h2 => by
    have hu' : u = t.setErr .pwr 1 := if_pos ⟨h1, h2⟩
    rw [hu']
    exact t.flag_setErr .pwr 1 (by decide)
  clear_value u
  have hfold : u.Calm (fun a => powerAddr a ∨ a = 0x2010) ((List.range 4).foldl State.avsUpdate u) :=
    .foldl _ (fun v k _ => v.avsUpdate_calm k (by decide) fun o h1 h2 => by
      simp only [Page.base, powerAddr]
      omega) u
  have hfoldm : u.within [.io, .out, .plat] ((List.range 4).foldl State.avsUpdate u) := .foldl (fun v k => v.avsUpdate_within k) _ u
  have hall : t.Calm powerAddr ((List.range 4).foldl State.avsUpdate u) := hu.trans (hfold.mono fun _ => .inl)
  refine ⟨(hall.reg (p := .pwr) (.inl rfl)).trans ht4, ?_, fun h1 h2 => ?_, (hfoldm.mem (by decide)).trans (hum.trans htm)⟩
  · rw [State.powerFloor, hall.field (p := .pwr) 31 22 (.inr rfl), ht8]
    exact Nat.max_eq_right h64
  · exact (hfold.flag (p := .pwr) 1 (.inr rfl)).trans (herr h1 h2)

theorem State.powerTick_follows (short long : BitVec 16) (hheld : s.plat.held = false) :
    ∃ t, exec (.powerTick short long) s = .next t ∧ t.field .pwr 0x104 31 16 = long.toNat ∧ t.field .pwr 0x104 15 0 = short.toNat ∧
      t.powerFloor = s.nextPowerFloor short.toNat long.toNat ∧
      (s.powerFloor ≤ 64 → 64 < s.nextPowerFloor short.toNat long.toNat → t.flag .pwr 0x010 1 = true) ∧ t.mem = s.mem := by
  refine ⟨_, s.powerTick_eq short long hheld, ?_⟩
  obtain ⟨h64, hg⟩ := s.nextPowerFloor_bounds short.toNat long.toNat
  obtain ⟨hlong, hshort, hfloor⟩ := s.powerStored_fields short.isLt long.isLt
  have hmem := s.powerStored_mem short.toNat long.toNat
  generalize s.nextPowerFloor short.toNat long.toNat = g at *
  generalize s.powerStored short.toNat long.toNat = t at *
  split
  · next h => exact ⟨hlong, hshort, hfloor.trans h, fun h1 h2 => absurd h1 (by omega), hmem⟩
  · obtain ⟨hreg, hmoved, herr, hm⟩ := t.floorMoved_moves s.powerFloor h64 hg
    refine ⟨?_, ?_, hmoved, herr, hm.trans hmem⟩
    · rw [State.field, hreg]
      exact hlong
    · rw [State.field, hreg]
      exact hshort

/-! ### The thermal tick (R489 to R491) -/

theorem State.thermalTick_cool {rs es : List (Option Byte)} (hs : List (Option Byte)) (hheld : s.plat.held = false)
    (hcool : ∀ b ∈ goodReadings rs es, b.toNat < 125) : ∃ t, exec (.thermalTick rs es hs) s = .next t ∧
      t.elapsed s.plat.thmAt 10000 = true ∧ t.mem = s.mem ∧ ((goodReadings rs es).length < 68 → t.flag .thm 0x010 2 = true) ∧
      ∀ k < 4, t.dieShows k = s.dieNext rs k ∧
        (s.critC ≤ dieTemp (dieReadings rs k) → t.flag .thm 0x010 1 = true ∧ t.flag .smb 0x108 2 = true) := by
  obtain ⟨u, hexec, hw, hcalm, hfloor, helapsed, herr⟩ := s.thermalTick_eq rs es hs hheld hcool
  have hdies := u.thermalDies_within rs
  refine ⟨_, hexec, ?_, ?_, fun h => (u.thermalDies_signs rs).1 2 (herr h), fun k hk => ?_⟩
  · rw [State.elapsed_congr (hdies.refcnt (by decide)), helapsed]
  · rw [hdies.mem (by decide), hw.mem (by decide)]
  · have hlim : u.reg .thm 0x100 = s.reg .thm 0x100 := hcalm.reg (p := .thm) (.inl rfl)
    have hshow : u.dieShows k = s.dieShows k := by
      rw [State.dieShows, State.dieShows, hcalm.field (p := .thm) _ _ (.inr (.inl rfl)), hcalm.field (p := .thm) _ _ (.inr (.inr rfl)),
        State.thermalFloor, hfloor]
      rfl
    obtain ⟨hnext, hcrit⟩ := u.thermalDies_shows rs hk
    exact ⟨hnext.trans (State.dieNext_congr hshow hlim rs), fun hc => hcrit (by rwa [State.critC_congr hlim])⟩

end

/-- Settles O50: a tick by `thermalTick_hot` and `thermalTick_cool`, the bins by `nextBin_of_le` and `nextBin_of_lt`, the power floor by
`powerTick_follows`. -/
theorem floorsFollowHeatAndPower : Obligations.FloorsFollowHeatAndPower := by
  unfold Obligations.FloorsFollowHeatAndPower
  intro s rs es hs short long hheld good thr crit hyst sust peak
  refine ⟨fun hhot => ⟨_, s.thermalTick_hot hs hheld hhot, s.tripOff_trips⟩, fun hcool => ?_, fun c b _ =>
    ⟨nextBin_of_le, fun h => ⟨(nextBin_of_lt h).1, (nextBin_of_lt h).2.1⟩⟩, ?_⟩
  · obtain ⟨t, hexec, helapsed, hmem, herr, hdies⟩ := s.thermalTick_cool hs hheld hcool
    refine ⟨t, hexec, helapsed, hmem, herr, fun k hk => ?_⟩
    obtain ⟨hshow, hcrit⟩ := hdies k hk
    intro l c f
    have htemp : t.field .thm 0x104 (8 * k + 7) (8 * k) = c := congrArg Prod.fst hshow
    have hbin : t.field .thm 0x108 (3 * k + 2) (3 * k) = s.binAfter l (s.field .thm 0x108 (3 * k + 2) (3 * k)) :=
      congrArg (fun x => x.2.1) hshow
    have hfloor : t.thermalFloor k = s.nextFloor c f := congrArg (fun x => x.2.2) hshow
    refine ⟨fun b hb => le_dieTemp hb, fun hnone => ⟨dieTemp_of_none hnone, ?_⟩, htemp, fun hsome => ?_, hfloor, hcrit⟩
    · rw [hbin, State.binAfter, hnone]
      rfl
    · rw [hbin, State.binAfter, if_neg (by simpa [List.isEmpty_iff] using hsome)]
      rfl
  · intro a b f g
    obtain ⟨t, hexec, hlong, hshort, hfloor, herr, hmem⟩ := s.powerTick_follows short long hheld
    have hg : s.nextPowerFloor a b = g := by
      unfold State.nextPowerFloor
      rw [Nat.mul_comm a 100, Nat.mul_comm b 100]
      rfl
    rw [hg] at hfloor herr
    exact ⟨t, hexec, hlong, hshort, hfloor, herr, hmem⟩

end Sys2Proof.Machine
end

section
/-! PROOF. The boot (R509, R514, R515): the flash that the slots and the log are read from, what a slot's trial and the scan of the log
change. -/
namespace Sys2Proof.Machine

/-! ### The flash (R511) -/

/-- The same images and the same log; the boot configuration alone may differ. -/
abbrev State.SameFlash (s t : State) : Prop :=
  (∀ o, 4096 ≤ o → t.flashByte o = s.flashByte o) ∧ t.board.dead = s.board.dead ∧ t.board.fuses = s.board.fuses

section
variable {s t : State}

theorem State.flashByte_of_le (s : State) {o : Nat} (h : 4096 ≤ o) : s.flashByte o = Table.get flashErased s.board.flash o := by
  unfold State.flashByte
  rw [decide_eq_false (Nat.not_lt.mpr h)]

theorem State.SameFlash.of_flash (hflash : t.board.flash = s.board.flash) (hdead : t.board.dead = s.board.dead)
    (hfuses : t.board.fuses = s.board.fuses) : s.SameFlash t :=
  ⟨fun o ho => by rw [t.flashByte_of_le ho, s.flashByte_of_le ho, hflash], hdead, hfuses⟩

theorem State.SameFlash.of_board (h : t.board = s.board) : s.SameFlash t := .of_flash (by rw [h]) (by rw [h]) (by rw [h])

theorem State.within.sameFlash {l : List Area} (hn : Area.board ∉ l) (h : s.within l t) : s.SameFlash t := .of_board (h.board hn)

theorem State.SameFlash.trans {u : State} (h : s.SameFlash t) (hu : t.SameFlash u) : s.SameFlash u :=
  ⟨fun o ho => (hu.1 o ho).trans (h.1 o ho), hu.2.1.trans h.2.1, hu.2.2.trans h.2.2⟩

theorem State.SameFlash.flashRead (h : s.SameFlash t) {o : Nat} (ho : 4096 ≤ o) (n : Nat) : t.flashRead o n = s.flashRead o n :=
  List.map_congr_left fun i _ => h.1 _ (ho.trans (Nat.le_add_right o i))

theorem State.SameFlash.imageRead (h : s.SameFlash t) : t.imageRead = s.imageRead := by
  funext slot o n
  refine h.flashRead ?_ n
  unfold slotBase
  split <;> omega

theorem State.SameFlash.imageWord (h : s.SameFlash t) : t.imageWord = s.imageWord := by
  funext slot o
  rw [State.imageWord, h.imageRead, State.imageWord]

theorem State.SameFlash.sections (h : s.SameFlash t) : t.sections = s.sections := by
  funext slot
  rw [State.sections, h.imageRead, State.sections]

theorem State.SameFlash.slotReason (h : s.SameFlash t) (slot : Nat) : t.slotReason slot = s.slotReason slot := by
  have hzero : t.imageZero = s.imageZero := by
    funext slot o n
    rw [State.imageZero, h.imageRead, State.imageZero]
  unfold State.slotReason
  rw [h.imageWord, h.sections, h.imageRead, hzero, h.2.1, h.2.2]

theorem State.SameFlash.uhlWords (h : s.SameFlash t) : t.uhlWords = s.uhlWords := by
  funext i
  rw [State.uhlWords, h.flashRead (by unfold uhlBase; omega), State.uhlWords]

theorem State.SameFlash.uhlScan (h : s.SameFlash t) : t.uhlScan = s.uhlScan := by
  funext sec
  rw [State.uhlScan, h.uhlWords, State.uhlScan]

theorem State.SameFlash.uhlValid (h : s.SameFlash t) : t.uhlValid = s.uhlValid := by
  rw [State.uhlValid, State.uhlSeen, h.uhlScan, h.uhlWords, State.uhlValid, State.uhlSeen]

theorem State.SameFlash.uhlLog (h : s.SameFlash t) : t.uhlLog = s.uhlLog := by
  rw [State.uhlLog, h.uhlValid, h.uhlWords, State.uhlLog]

end

/-! ### The log at boot (R460, R461) -/

/-- Work on the log: registers of other low pages stay, and so does the boot configuration. -/
abbrev State.LogStep (s t : State) : Prop :=
  s.within [.io, .out, .board, .mgmt] t ∧ s.Calm offLog t ∧ t.board.bootCfg = s.board.bootCfg

section
variable {s t u : State}

theorem State.LogStep.refl (s : State) : s.LogStep s := ⟨.refl _ _, .refl s, rfl⟩

theorem State.LogStep.trans (h : s.LogStep t) (hu : t.LogStep u) : s.LogStep u :=
  ⟨h.1.trans hu.1, h.2.1.trans hu.2.1, hu.2.2.trans h.2.2⟩

theorem State.LogStep.ite {c : Prop} [Decidable c] (ht : s.LogStep t) (hu : s.LogStep u) : s.LogStep (if c then t else u) := by
  split
  · exact ht
  · exact hu

theorem State.LogStep.foldl {α : Type} {f : State → α → State} (h : ∀ (t : State) (x : α), t.LogStep (f t x)) (xs : List α) (s : State) :
    s.LogStep (xs.foldl f s) := by
  induction xs generalizing s with
  | nil => exact .refl s
  | cons x xs ih => exact State.LogStep.trans (h s x) (ih (f s x))

/-- Work that writes registers alone. -/
theorem State.within.logStep (hw : s.within [.io, .out] t) (hc : s.Calm offLog t) : s.LogStep t :=
  ⟨hw.mono (by decide), hc, congrArg Board.bootCfg (hw.board (by decide))⟩

end

section
variable (s : State)

theorem State.setReg_logStep (p : Page) (o : Nat) (v : W32) (h : ¬ offLog (p.base + o)) : s.LogStep (s.setReg p o v) :=
  State.within.logStep ((s.setReg_within _ _ _).mono (by decide)) (s.setReg_calm p o v h)

theorem State.flashPut_bootCfg (o : Nat) (bs : List Byte) : (s.flashPut o bs).board.bootCfg = s.board.bootCfg := rfl

theorem State.flashErase_bootCfg (o n : Nat) : (s.flashErase o n).board.bootCfg = s.board.bootCfg := rfl

theorem State.uhlPut_bootCfg (r : UhlRec) : (s.uhlPut r).board.bootCfg = s.board.bootCfg := by
  unfold State.uhlPut
  split
  · rw [(s.setErr_within _ _).board (by decide)]
  · extract_lets i t0 m t1 t2
    have h0 : t0.board.bootCfg = s.board.bootCfg := s.flashPut_bootCfg _ _
    clear_value t0 i
    have h2 : t1.within [.io] t2 := t1.setReg_within _ _ _
    rw [(State.event_within _ _ _ _).board (by decide), (State.setReg_within _ _ _ _).board (by decide), h2.board (by decide),
      (t0.setMgmt_within _).board (by decide), h0]

theorem State.uhlPut_logStep (r : UhlRec) : s.LogStep (s.uhlPut r) := ⟨s.uhlPut_within r, s.uhlPut_calm r, s.uhlPut_bootCfg r⟩

theorem State.uhlRoom_bootCfg : s.uhlRoom.board.bootCfg = s.board.bootCfg := by
  unfold State.uhlRoom
  extract_lets i sec used log gone keep t1 t2
  split
  · rfl
  have hfold : t2.LogStep (keep.foldl (fun t w => t.uhlPut (uhlAgain w)) t2) := .foldl (fun t w => t.uhlPut_logStep _) keep t2
  have h2 : t1.within [.io] t2 := t1.setReg_within _ _ _
  rw [hfold.2.2, h2.board (by decide), (State.event_within _ _ _ _).board (by decide),
    s.flashErase_bootCfg]

theorem State.uhlWrite_logStep (r : UhlRec) : s.LogStep (s.uhlWrite r) :=
  State.LogStep.trans ⟨s.uhlRoom_within, s.uhlRoom_calm, s.uhlRoom_bootCfg⟩ (s.uhlRoom.uhlPut_logStep r)

theorem State.escRecord_logStep (level cause : Nat) : s.LogStep (s.escRecord level cause) := .ite (.refl s) (s.uhlWrite_logStep _)

theorem not_offLog_chk (n o : Nat) : ¬ offLog ((Page.chk n).base + o) := by
  simp only [offLog, Page.base]
  omega

theorem State.unfence_logStep (a : Nat) : s.LogStep (s.unfence a) := by
  unfold State.unfence
  extract_lets n i t
  have ht : s.LogStep t := s.setReg_logStep _ _ _ (not_offLog_chk _ _)
  exact State.LogStep.trans ht (.foldl (fun u k => .ite (u.setReg_logStep _ _ _ (not_offLog_chk _ _)) (.refl u)) _ t)

theorem State.classify_logStep (a : Nat) : s.LogStep (s.classify a) := by
  unfold State.classify
  extract_lets log recs bins sigs n i uf raw entry cls t
  have ht : s.LogStep t := by
    clear_value cls entry
    simp only [t]
    split
    · exact s.setReg_logStep _ _ _ (not_offLog_chk _ _)
    · exact s.setReg_logStep _ _ _ (not_offLog_chk _ _)
    · exact s.unfence_logStep a
  clear_value t cls
  exact .ite ht (State.LogStep.trans ht (t.uhlWrite_logStep _))

/-- The largest number of a list, and 0 for none. -/
theorem maxOf_getD (l : List Nat) : (maxOf l).getD 0 = l.foldl max 0 := by
  have hsome : ∀ (l : List Nat) (x : Nat), l.foldl (fun m x => match m with | none => some x | some y => some (max x y)) (some x) =
      some (l.foldl max x) := by
    intro l
    induction l with
    | nil => exact fun _ => rfl
    | cons y l ih => exact fun x => (ih _).trans (by rw [List.foldl_cons, Nat.max_comm])
  cases l with
  | nil => rfl
  | cons x l =>
    rw [List.foldl_cons, Nat.zero_max]
    exact congrArg (fun m : Option Nat => m.getD 0) (hsome l x)

/-- The scan of the log writes the boot number; of the low pages it changes that of the log alone (R461). -/
theorem State.uhlBootScan_scans : s.within [.io, .out, .board, .mgmt] s.uhlBootScan ∧
    (∀ A : Nat → Prop, (∀ a, A a → offLog a ∧ a ≠ 0x9100) → s.Calm A s.uhlBootScan) ∧ s.uhlBootScan.board.bootCfg = s.board.bootCfg ∧
    s.uhlBootScan.reg .uhl 0x100 = w32 ((s.uhlLog.map fun w => (uhlBoot w).toNat).foldl max 0 + 1) := by
  unfold State.uhlBootScan
  extract_lets valid log t1 t2 t3 t4 t5 m t6 units t7
  have hlog : s.uhlLog = log := rfl
  have herr : s.LogStep (s.setErr .uhl 0) := State.within.logStep (s.setErr_within _ _)
    (s.setErr_calm .uhl 0 (not_offLog_uhl (by decide) (by decide)) (not_offLog_uhl (by decide) (by decide)))
  have h1 : s.LogStep t1 := by
    simp only [t1]
    split
    · exact herr
    · exact .refl s
  clear_value t1
  have h2w : t1.within [.io] t2 := t1.setReg_within _ _ _
  have h2c : ∀ A : Nat → Prop, (∀ a, A a → offLog a ∧ a ≠ 0x9100) → t1.Calm A t2 := fun A hA =>
    t1.setReg_calm .uhl 0x100 _ fun ha => (hA _ ha).2 rfl
  have h2 : t2.reg .uhl 0x100 = w32 ((log.map fun w => (uhlBoot w).toNat).foldl max 0 + 1) := by
    rw [State.reg_setReg_same, maxOf_getD]
  clear_value t2
  have hset : ∀ (t : State) (o : Nat) (v : W32), o < 0x1000 → o ≠ 0x100 → t.LogStep (t.setReg .uhl o v) := fun t o v h1 h2 =>
    t.setReg_logStep .uhl o v (not_offLog_uhl h1 h2)
  have h5 : t2.LogStep t5 := State.LogStep.trans (State.LogStep.trans (hset t2 _ _ (by decide) (by decide)) (hset t3 _ _ (by decide) (by decide)))
    (hset t4 _ _ (by decide) (by decide))
  clear_value t5
  have h6 : t5.LogStep t6 := ⟨(t5.setMgmt_within _).mono (by decide), (t5.setMgmt_within _).calm (by decide) (by decide), rfl⟩
  clear_value t6
  have h7 : t6.LogStep t7 := .foldl (fun t a => t.classify_logStep a) _ t6
  clear_value t7
  have hend := State.LogStep.trans (State.LogStep.trans (State.LogStep.trans h5 h6) h7) (t7.uhlWrite_logStep
    { type := 5, unit := 0xFFFFFFFF#32, step := t7.reg .step 0x10C, info1 := w32 valid.length })
  generalize t7.uhlWrite { type := 5, unit := 0xFFFFFFFF#32, step := t7.reg .step 0x10C, info1 := w32 valid.length } = u at hend ⊢
  refine ⟨(h1.1.trans (h2w.mono (by decide))).trans hend.1, fun A hA => ?_, ?_, ?_⟩
  · exact ((h1.2.1.mono fun a ha => (hA a ha).1).trans (h2c A hA)).trans (hend.2.1.mono fun a ha => (hA a ha).1)
  · rw [hend.2.2, h2w.board (by decide), h1.2.2]
  · rw [hlog]
    exact (hend.2.1.reg (p := .uhl) ⟨by decide, .inl rfl⟩).trans h2

theorem State.bootPowerCycle_logStep : s.LogStep s.bootPowerCycle := by
  unfold State.bootPowerCycle
  split
  · next c _ =>
    extract_lets t
    have ht : s.LogStep t := State.LogStep.trans (s.escRecord_logStep 5 c)
      ⟨(State.setMgmt_within _ _).mono (by decide), (State.setMgmt_within _ _).calm (by decide) (by decide), rfl⟩
    exact State.LogStep.trans ht ⟨(State.setMgmt_within _ _).mono (by decide), (State.setMgmt_within _ _).calm (by decide) (by decide), rfl⟩
  · exact .refl s

end

end Sys2Proof.Machine
end

section
/-! PROOF. A slot is tried, loaded and run (R509, R513 to R515, R520). -/
namespace Sys2Proof.Machine

/-! ### Words of `BOOT_STAT` (R527) -/

theorem bitOf_w32 (n i : Nat) (h : i < 32) : bitOf (w32 n) i = decide (n / 2 ^ i % 2 = 1) := by
  rw [bitOf, w32, BitVec.toNat_ofNat, Nat.testBit_mod_two_pow, Nat.testBit_eq_decide_div_mod_eq]
  simp [h]

/-- The word that a running image shows. -/
def bootWord (slot : Nat) (trial : Bool) (x svn : Nat) : W32 := w32 (slot * 2 ^ 29 + trial.toNat * 2 ^ 28 + x * 2 ^ 8 + svn)

theorem bootWord_fields {slot x svn : Nat} (trial : Bool) (hslot : slot < 2) (hx : x < 65536) (hsvn : svn < 256) :
    bitOf (bootWord slot trial x svn) 30 = false ∧ (bitOf (bootWord slot trial x svn) 29).toNat = slot ∧
      bitOf (bootWord slot trial x svn) 28 = trial ∧ fld (bootWord slot trial x svn) 23 16 = x / 256 ∧
      fld (bootWord slot trial x svn) 15 8 = x % 256 ∧ fld (bootWord slot trial x svn) 7 0 = svn := by
  have htrial : trial.toNat < 2 := trial.toNat_lt
  have hword : (bootWord slot trial x svn).toNat = slot * 2 ^ 29 + trial.toNat * 2 ^ 28 + x * 2 ^ 8 + svn := by
    rw [bootWord, w32, BitVec.toNat_ofNat]
    omega
  have hbit : ∀ i, bitOf (bootWord slot trial x svn) i = decide ((bootWord slot trial x svn).toNat / 2 ^ i % 2 = 1) := fun i => by
    rw [bitOf, Nat.testBit_eq_decide_div_mod_eq]
  simp only [hbit, fld, bits, Nat.shiftRight_eq_div_pow, hword]
  refine ⟨?_, ?_, ?_, ?_, ?_, ?_⟩
  · exact decide_eq_false (by omega)
  · have h01 : slot = 0 ∨ slot = 1 := by omega
    rcases h01 with rfl | rfl
    · rw [decide_eq_false (by omega)]
      rfl
    · rw [decide_eq_true (by omega)]
      rfl
  · cases trial
    · exact decide_eq_false (by simp only [Bool.toNat_false]; omega)
    · exact decide_eq_true (by simp only [Bool.toNat_true]; omega)
  · omega
  · omega
  · omega

theorem fld_23_8 (w : W32) : fld w 23 8 < 65536 ∧ fld w 23 8 / 256 = fld w 23 16 ∧ fld w 23 8 % 256 = fld w 15 8 := by
  simp only [fld, bits, Nat.shiftRight_eq_div_pow]
  omega

section
variable (s : State)

/-! ### A slot is tried (R514) -/

theorem State.slotReason_lt (slot : Nat) : s.slotReason slot < 8 := by
  unfold State.slotReason
  extract_lets len svn secs
  split_ifs <;> decide

theorem State.imageWord_svn_le {slot : Nat} (h : s.slotReason slot = 0) : s.imageWord slot 8 ≤ 64 := by
  unfold State.slotReason at h
  extract_lets len svn secs at h
  split_ifs at h with h1 h2 h3 h4 h5
  have hsvn : ¬ (svn < s.board.fuses ∨ 64 < svn) := h5
  exact Nat.le_of_not_lt fun hlt => hsvn (.inr hlt)

theorem State.slotVerified_calm {A : Nat → Prop} (hA : ∀ o, 0x030 ≤ o → o < 0x040 → ¬ A (Page.sec.base + o)) (slot : Nat) :
    s.Calm A (s.slotVerified slot) := .ite (.refl s) (s.event_calm .sec 0x03 1 hA)

theorem State.slotVerified_within (slot : Nat) : s.within [.io] (s.slotVerified slot) :=
  .ite (fun _ => .refl _ _) fun _ => s.event_within _ _ _

/-- Where the reason of a slot is shown (R527). -/
def reasonHi (slot : Nat) : Nat := if slot = 0 then 23 else 15
def reasonLo (slot : Nat) : Nat := if slot = 0 then 16 else 8

theorem State.trySlot_eq (slot : Nat) : s.trySlot slot =
    (let t := (s.slotVerified slot).setField .boot 0x100 (reasonHi slot) (reasonLo slot) (s.slotReason slot)
    if s.slotReason slot = 0 then (t, true) else (t.setErr .boot 0, false)) := by
  unfold State.trySlot reasonHi reasonLo
  by_cases h : slot = 0
  · simp only [if_pos h]
  · simp only [if_neg h]

/-- What a trial of a slot shows. -/
theorem State.trySlot_shows (slot : Nat) : (s.trySlot slot).2 = decide (s.slotReason slot = 0) ∧
    s.within [.io, .out] (s.trySlot slot).1 ∧
    (s.trySlot slot).1.reg .boot 0x100 = setFld (s.reg .boot 0x100) (reasonHi slot) (reasonLo slot) (s.slotReason slot) ∧
    (s.slotReason slot ≠ 0 → (s.trySlot slot).1.flag .boot 0x010 0 = true) ∧
    (s.flag .boot 0x010 0 = true → (s.trySlot slot).1.flag .boot 0x010 0 = true) := by
  rw [s.trySlot_eq slot]
  have hv : s.Calm (fun a => a = 0x8100 ∨ a = 0x8010) (s.slotVerified slot) := s.slotVerified_calm (fun o h1 h2 => by
    simp only [Page.base]
    omega) slot
  have hvw := s.slotVerified_within slot
  generalize s.slotVerified slot = u at hv hvw
  extract_lets t
  have htw : s.within [.io] t := hvw.trans (u.setField_within _ _ _ _ _)
  have hreg : t.reg .boot 0x100 = setFld (s.reg .boot 0x100) (reasonHi slot) (reasonLo slot) (s.slotReason slot) := by
    rw [← hv.reg (p := .boot) (j := 0x100) (.inl rfl)]
    exact u.reg_setReg_same _ _ _
  have hflag : t.flag .boot 0x010 0 = s.flag .boot 0x010 0 :=
    (congrArg (bitOf · 0) (u.reg_setField_ne _ _ _ (by decide))).trans (hv.flag (p := .boot) 0 (.inr rfl))
  clear_value t
  by_cases h : s.slotReason slot = 0
  · rw [if_pos h]
    exact ⟨(decide_eq_true h).symm, htw.mono (by decide), hreg, fun hne => absurd h hne, fun hf => hflag.trans hf⟩
  · rw [if_neg h]
    dsimp only
    have herr := t.flag_setErr .boot 0 (by decide)
    refine ⟨(decide_eq_false h).symm, (htw.mono (by decide)).trans (t.setErr_within _ _), ?_, fun _ => herr, fun _ => herr⟩
    rw [(t.setErr_keepsRegs .boot 0).reg .boot (by decide) (by decide)]
    exact hreg

/-! ### A valid slot runs (R509, R513, R520) -/

theorem State.setCore_within (c : Nat) (k : Core) : s.within [.cores] (s.setCore c k) := rfl
theorem State.setBoot_within (b : Boot) : s.within [.boot] { s with boot := b } := rfl

theorem State.loadSection_within (slot : Nat) (w : List W32) : s.within [.cores, .mgmt] (s.loadSection slot w) := by
  unfold State.loadSection
  extract_lets c bs ws k0 m k1
  refine .ite (fun _ => ?_) fun _ => .ite (fun _ => ?_) fun _ => .refl _ _
  · exact State.within.trans ((s.setCore_within _ _).mono (by decide)) ((State.setMgmt_within _ _).mono (by decide))
  · exact (s.setCore_within _ _).mono (by decide)

/-- The image of a slot is loaded: its digest, and the word of `BOOT_STAT` (R509, R513, R527). -/
theorem State.loadImage_loads (slot : Nat) (trial : Bool) : s.within [.io, .cores, .mgmt, .boot] (s.loadImage slot trial) ∧
    (s.loadImage slot trial).boot = { s.boot with imageDigest := sha256 (s.imageRead slot 0 0x1000) } ∧
    (s.loadImage slot trial).reg .boot 0x100 = bootWord slot trial (fld (s.reg .boot 0x100) 23 8) (s.imageWord slot 8 % 256) ∧
    (∀ A : Nat → Prop, ¬ A 0x8100 → s.Calm A (s.loadImage slot trial)) := by
  unfold State.loadImage
  extract_lets t b u
  have ht : s.within [.cores, .mgmt] t := .foldl (fun t w => t.loadSection_within slot w) _ s
  have hb : b = s.boot := ht.boot (by decide)
  have hboot : u.boot = { s.boot with imageDigest := sha256 (s.imageRead slot 0 0x1000) } := by
    rw [← hb]
  have hu : s.within [.cores, .mgmt, .boot] u := (ht.mono (by decide)).trans ((t.setBoot_within _).mono (by decide))
  have hreg : u.reg .boot 0x100 = s.reg .boot 0x100 :=
    (hu.calm (A := fun a => a = 0x8100) (by decide) (by decide)).reg (p := .boot) rfl
  clear_value u
  have hset : ∀ v : W32, u.within [.io] (u.setReg .boot 0x100 v) := fun v => u.setReg_within _ _ v
  refine ⟨(hu.mono (by decide)).trans ((hset _).mono (by decide)), ?_, ?_, fun A hA => ?_⟩
  · rw [(hset _).boot (by decide), hboot]
  · rw [State.reg_setReg_same, hreg]
    rfl
  · exact State.Calm.trans (hu.calm (by decide) (by decide)) (u.setReg_calm .boot 0x100 _ hA)

/-- Words of bytes, big-endian, in registers of the SEC page. -/
def State.putWords (s : State) (o : Nat) (bs : List Byte) : State :=
  (List.range 8).foldl (fun t i => t.setReg .sec (o + 4 * i) (w32 (beNat ((bs.drop (4 * i)).take 4)))) s

theorem State.putWords_within (o : Nat) (bs : List Byte) : s.within [.io] (s.putWords o bs) :=
  .foldl (fun t _ => t.setReg_within _ _ _) _ s

theorem State.putWords_calm {A : Nat → Prop} {o : Nat} (h : ∀ i < 8, ¬ A (0x7000 + (o + 4 * i))) (bs : List Byte) :
    s.Calm A (s.putWords o bs) := .foldl _ (fun t i hi => t.setReg_calm .sec _ _ (h i (List.mem_range.mp hi))) s

theorem State.putWords_reg (o : Nat) (bs : List Byte) {i : Nat} (hi : i < 8) :
    (s.putWords o bs).reg .sec (o + 4 * i) = w32 (beNat ((bs.drop (4 * i)).take 4)) := by
  unfold State.putWords
  refine foldl_at (Q := fun _ => True) (P := fun t => t.reg .sec (o + 4 * i) = w32 (beNat ((bs.drop (4 * i)).take 4)))
    (List.mem_range.mpr hi) List.nodup_range (fun _ _ _ _ _ => trivial) (fun t _ => t.reg_setReg_same _ _ _) (fun t j _ hji h => ?_) trivial
  rw [State.reg_setReg_off _ _ (by omega)]
  exact h

theorem State.identity_eq : s.identity = ((s.putWords 0x100 idKey).putWords 0x120 (sha256 idKey)).setFlag .sec 0x144 31 true := rfl

/-- The identity key stands in its registers (R520, R528). -/
theorem State.identity_shows : s.within [.io] s.identity ∧ s.identity.flag .sec 0x144 31 = true ∧
    (∀ i < 8, s.identity.reg .sec (0x100 + 4 * i) = w32 (beNat ((idKey.drop (4 * i)).take 4)) ∧
      s.identity.reg .sec (0x120 + 4 * i) = w32 (beNat (((sha256 idKey).drop (4 * i)).take 4))) ∧
    (∀ A : Nat → Prop, (∀ a, A a → a < 0x7000 ∨ 0x8000 ≤ a) → s.Calm A s.identity) := by
  rw [s.identity_eq]
  generalize hkey : idKey = key
  generalize hdigest : sha256 key = digest
  have h1 : (s.putWords 0x100 key).Calm (fun a => ∃ i < 8, a = 0x7100 + 4 * i) ((s.putWords 0x100 key).putWords 0x120 digest) :=
    State.putWords_calm _ (by rintro i hi ⟨j, hj, h⟩; omega) _
  refine ⟨((s.putWords_within _ _).trans (State.putWords_within _ _ _)).trans (State.setFlag_within _ _ _ _ _),
    State.flag_setFlag_same _ _ _ _ _ (by decide), fun i hi => ⟨?_, ?_⟩, fun A hA => ?_⟩
  · rw [State.reg_setFlag_ne _ _ _ (by omega)]
    exact (h1.reg (p := .sec) ⟨i, hi, by simp only [Page.base]; omega⟩).trans (s.putWords_reg _ _ hi)
  · rw [State.reg_setFlag_ne _ _ _ (by omega)]
    exact State.putWords_reg _ _ _ hi
  · have hsec : ∀ o < 0x1000, ¬ A (0x7000 + o) := fun o ho ha => by
      have := hA _ ha
      omega
    exact State.Calm.trans (State.Calm.trans (s.putWords_calm (fun i hi => hsec _ (by omega)) _)
      (State.putWords_calm _ (fun i hi => hsec _ (by omega)) _)) (State.setReg_calm _ .sec 0x144 _ (hsec _ (by decide)))

/-- The firmware starts: the identity key, the log (R461, R509). -/
theorem State.bootImage_starts : s.within [.io, .out, .board, .mgmt] s.bootImage ∧ s.bootImage.board.bootCfg = s.board.bootCfg ∧
    s.bootImage.flag .sec 0x144 31 = true ∧
    (∀ i < 8, s.bootImage.reg .sec (0x100 + 4 * i) = w32 (beNat ((idKey.drop (4 * i)).take 4)) ∧
      s.bootImage.reg .sec (0x120 + 4 * i) = w32 (beNat (((sha256 idKey).drop (4 * i)).take 4))) ∧
    s.bootImage.reg .uhl 0x100 = w32 ((s.uhlLog.map fun w => (uhlBoot w).toNat).foldl max 0 + 1) ∧
    (∀ j < 0x1000, s.bootImage.reg .boot j = s.reg .boot j) := by
  obtain ⟨hidw, hflag, hregs, hidc⟩ := s.identity_shows
  have hlog : s.identity.uhlLog = s.uhlLog := (hidw.sameFlash (by decide)).uhlLog
  obtain ⟨hsw, hsc, hscfg, hboot⟩ := s.identity.uhlBootScan_scans
  have hcycle := s.identity.uhlBootScan.bootPowerCycle_logStep
  have heq : s.bootImage = s.identity.uhlBootScan.bootPowerCycle := rfl
  rw [heq, ← hlog]
  generalize s.identity.uhlBootScan.bootPowerCycle = u at hcycle ⊢
  generalize s.identity.uhlBootScan = v at hcycle hsw hsc hscfg hboot
  generalize s.identity = w at *
  have hmid : w.Calm (fun a => 0x7000 ≤ a ∧ a < 0x9000) u := (hsc _ fun a ha => ⟨⟨by omega, by omega⟩, by omega⟩).trans
    (hcycle.2.1.mono fun a ha => ⟨by omega, by omega⟩)
  have hsec : ∀ o < 0x1000, u.reg .sec o = w.reg .sec o := fun o ho => hmid.reg (p := .sec) ⟨by simp only [Page.base]; omega, by
    simp only [Page.base]
    omega⟩
  refine ⟨((hidw.mono (by decide)).trans hsw).trans hcycle.1, ?_, ?_, fun i hi => ?_, ?_, fun j hj => ?_⟩
  · rw [hcycle.2.2, hscfg, hidw.board (by decide)]
  · exact (congrArg (bitOf · 31) (hsec 0x144 (by decide))).trans hflag
  · rw [hsec _ (by omega), hsec _ (by omega)]
    exact hregs i hi
  · exact (hcycle.2.1.reg (p := .uhl) ⟨by decide, .inl rfl⟩).trans hboot
  · have hb : w.Calm (fun a => 0x8000 ≤ a ∧ a < 0x9000) u := hmid.mono fun a ha => ⟨by omega, ha.2⟩
    have hc := (hidc (fun a => 0x8000 ≤ a ∧ a < 0x9000) fun a ha => .inr ha.1).trans hb
    exact hc.reg (p := .boot) ⟨by simp only [Page.base]; omega, by simp only [Page.base]; omega⟩

/-- The slot that runs (R509, R515, R527). -/
theorem State.runs_shows {slot : Nat} (trial : Bool) (hslot : slot < 2) (hsvn : s.imageWord slot 8 < 256) :
    ∀ t, (s.loadImage slot trial).bootImage = t → t.boot.tried = s.boot.tried ∧ t.board.bootCfg = s.board.bootCfg ∧ t.bootFail = false ∧
      t.field .boot 0x100 23 16 = s.field .boot 0x100 23 16 ∧ t.field .boot 0x100 15 8 = s.field .boot 0x100 15 8 ∧
      t.flag .boot 0x010 0 = s.flag .boot 0x010 0 ∧
      (t.flag .sec 0x144 31 = true ∧
        (∀ i < 8, t.reg .sec (0x100 + 4 * i) = w32 (beNat ((idKey.drop (4 * i)).take 4)) ∧
          t.reg .sec (0x120 + 4 * i) = w32 (beNat (((sha256 idKey).drop (4 * i)).take 4))) ∧
        t.reg .uhl 0x100 = w32 ((s.uhlLog.map fun w => (uhlBoot w).toNat).foldl max 0 + 1)) ∧
      (t.flag .boot 0x100 29).toNat = slot ∧ t.flag .boot 0x100 28 = trial ∧ t.field .boot 0x100 7 0 = s.imageWord slot 8 ∧
      t.boot.imageDigest = sha256 (s.imageRead slot 0 0x1000) := by
  rintro t rfl
  obtain ⟨hlw, hlboot, hlreg, hlcalm⟩ := s.loadImage_loads slot trial
  rw [Nat.mod_eq_of_lt hsvn] at hlreg
  have hlog : (s.loadImage slot trial).uhlLog = s.uhlLog := (hlw.sameFlash (by decide)).uhlLog
  have hlflag : (s.loadImage slot trial).flag .boot 0x010 0 = s.flag .boot 0x010 0 := (hlcalm (· = 0x8010) (by decide)).flag (p := .boot) 0 rfl
  have hlcfg : (s.loadImage slot trial).board.bootCfg = s.board.bootCfg := by rw [hlw.board (by decide)]
  generalize s.loadImage slot trial = u at *
  obtain ⟨hbw, hbcfg, hkey, hid, hboot, hsame⟩ := u.bootImage_starts
  rw [hlog] at hboot
  have h100 : u.bootImage.reg .boot 0x100 = bootWord slot trial (fld (s.reg .boot 0x100) 23 8) (s.imageWord slot 8) :=
    (hsame _ (by decide)).trans hlreg
  have hflag : ∀ i, u.bootImage.flag .boot 0x100 i = bitOf (bootWord slot trial (fld (s.reg .boot 0x100) 23 8) (s.imageWord slot 8)) i :=
    fun i => congrArg (bitOf · i) h100
  have hfield : ∀ hi lo, u.bootImage.field .boot 0x100 hi lo =
      fld (bootWord slot trial (fld (s.reg .boot 0x100) 23 8) (s.imageWord slot 8)) hi lo := fun hi lo => congrArg (fld · hi lo) h100
  obtain ⟨hx, hhi, hlo⟩ := fld_23_8 (s.reg .boot 0x100)
  obtain ⟨h30, h29, h28, h23, h15, h7⟩ := bootWord_fields trial hslot hx hsvn
  refine ⟨?_, hbcfg.trans hlcfg, (hflag 30).trans h30, ?_, ?_, (congrArg (bitOf · 0) (hsame 0x010 (by decide))).trans hlflag,
    ⟨hkey, hid, hboot⟩, ?_, (hflag 28).trans h28, (hfield 7 0).trans h7, ?_⟩
  · rw [hbw.boot (by decide), hlboot]
  · rw [hfield, h23, hhi]
    rfl
  · rw [hfield, h15, hlo]
    rfl
  · rw [hflag, h29]
  · rw [hbw.boot (by decide), hlboot]

end

end Sys2Proof.Machine
end

section
/-! PROOF. The slots in their order, READY, and the anti-rollback fuses (R509, R514, R515, R517). -/
namespace Sys2Proof.Machine

section
variable (s : State)

/-! ### The slots in their order (R515) -/

/-- The choice of a slot is noted, and the boot configuration with it. -/
def State.slotChosen (s : State) : State :=
  match s.bootPick.2.2 with
  | some c => ({ s with boot := { s.boot with tried := true } } : State).bootCfgPut c.1 c.2
  | none => { s with boot := { s.boot with tried := true } }

/-- A valid slot runs. -/
def State.bootFrom (s : State) (slot : Nat) (trial : Bool) : State := (s.loadImage slot trial).bootImage

theorem State.bootSlotVerify_eq (hheld : s.plat.held = false) (hflash : s.boot.flashUp = true) (htried : s.boot.tried = false) :
    exec .bootSlotVerify s = .next (
      if (s.slotChosen.trySlot s.bootPick.1).2 then (s.slotChosen.trySlot s.bootPick.1).1.bootFrom s.bootPick.1 s.bootPick.2.1
      else if ((s.slotChosen.trySlot s.bootPick.1).1.trySlot (otherSlot s.bootPick.1)).2 then
        ((s.slotChosen.trySlot s.bootPick.1).1.trySlot (otherSlot s.bootPick.1)).1.bootFrom (otherSlot s.bootPick.1) false
      else (((s.slotChosen.trySlot s.bootPick.1).1.trySlot (otherSlot s.bootPick.1)).1.setFlag .boot 0x100 30 true).setFlag .smb 0x108 4 true) := by
  have hexec : exec .bootSlotVerify s = execBootSlotVerify s := rfl
  rw [hexec, execBootSlotVerify, if_neg (by rw [hheld, hflash, htried]; decide)]
  rfl

theorem State.slotChosen_same : s.SameFlash s.slotChosen ∧ s.slotChosen.boot.tried = true ∧ s.slotChosen.io = s.io := by
  unfold State.slotChosen
  split
  · exact ⟨.of_flash rfl rfl rfl, rfl, rfl⟩
  · exact ⟨.of_board rfl, rfl, rfl⟩

theorem State.bootPick_trial_one {c : Nat × Nat} (hc : (if s.board.dead then (0, 0) else s.board.bootCfg.getD (0, 0)) = c) (h : c.2 = 1) :
    s.bootPick = (c.1, true, some (c.1, 2)) := by
  unfold State.bootPick
  extract_lets d
  have hd : d = c := hc
  clear_value d
  subst hd
  rw [h]
  rfl

theorem State.bootPick_trial_two {c : Nat × Nat} (hc : (if s.board.dead then (0, 0) else s.board.bootCfg.getD (0, 0)) = c) (h : c.2 = 2) :
    s.bootPick = (otherSlot c.1, false, some (otherSlot c.1, 0)) := by
  unfold State.bootPick
  extract_lets d
  have hd : d = c := hc
  clear_value d
  subst hd
  rw [h]
  rfl

theorem State.bootPick_settled {c : Nat × Nat} (hc : (if s.board.dead then (0, 0) else s.board.bootCfg.getD (0, 0)) = c) (h1 : c.2 ≠ 1)
    (h2 : c.2 ≠ 2) : s.bootPick = (c.1, false, none) := by
  unfold State.bootPick
  extract_lets d
  have hd : d = c := hc
  clear_value d
  subst hd
  split
  · next h => exact absurd h h1
  · next h => exact absurd h h2
  · rfl

/-- The slot tried first, its trial, the configuration that is written (R515). -/
theorem State.bootPick_eq {c : Nat × Nat} (hc : (if s.board.dead then (0, 0) else s.board.bootCfg.getD (0, 0)) = c) :
    s.bootPick.1 = (if c.2 = 2 then 1 - c.1 else c.1) ∧ s.bootPick.2.1 = decide (c.2 = 1) ∧
      s.slotChosen.board.bootCfg = (if c.2 = 1 then some (c.1, 2) else if c.2 = 2 then some (1 - c.1, 0) else s.board.bootCfg) := by
  unfold State.slotChosen
  by_cases h1 : c.2 = 1
  · rw [s.bootPick_trial_one hc h1, if_pos h1, if_neg (by omega), decide_eq_true h1]
    exact ⟨rfl, rfl, rfl⟩
  by_cases h2 : c.2 = 2
  · rw [s.bootPick_trial_two hc h2, if_neg h1, if_pos h2, if_pos h2, decide_eq_false h1]
    exact ⟨rfl, rfl, rfl⟩
  · rw [s.bootPick_settled hc h1 h2, if_neg h1, if_neg h2, if_neg h2, decide_eq_false h1]
    exact ⟨rfl, rfl, rfl⟩

/-- The reasons of both slots, from a word that shows 8 for each (R527). -/
theorem reasons_shown {slot other r q : Nat} (hslot : slot < 2) (hother : other = 1 - slot) (hr : r < 256) (hq : q < 256) (w : W32)
    (h23 : fld w 23 16 = 8) (h15 : fld w 15 8 = 8) :
    fld (setFld w (reasonHi slot) (reasonLo slot) r) (reasonHi slot) (reasonLo slot) = r ∧
      fld (setFld w (reasonHi slot) (reasonLo slot) r) (reasonHi other) (reasonLo other) = 8 ∧
      fld (setFld (setFld w (reasonHi slot) (reasonLo slot) r) (reasonHi other) (reasonLo other) q) (reasonHi slot) (reasonLo slot) = r ∧
      fld (setFld (setFld w (reasonHi slot) (reasonLo slot) r) (reasonHi other) (reasonLo other) q) (reasonHi other) (reasonLo other) = q := by
  have hcase : (slot = 0 ∧ other = 1) ∨ (slot = 1 ∧ other = 0) := by omega
  have hsame : ∀ (w : W32) {hi lo v : Nat}, hi < 32 → lo ≤ hi → hi + 1 - lo = 8 → v < 256 → fld (setFld w hi lo v) hi lo = v :=
    fun w hi lo v h1 h2 h3 h4 => by rw [fld_setFld_same _ _ _ _ h1 h2, h3]; exact Nat.mod_eq_of_lt h4
  rcases hcase with ⟨rfl, rfl⟩ | ⟨rfl, rfl⟩
  · have hhi : reasonHi 0 = 23 ∧ reasonLo 0 = 16 ∧ reasonHi 1 = 15 ∧ reasonLo 1 = 8 := ⟨rfl, rfl, rfl, rfl⟩
    obtain ⟨h1, h2, h3, h4⟩ := hhi
    rw [h1, h2, h3, h4]
    refine ⟨hsame w (by decide) (by decide) rfl hr, ?_, ?_, hsame _ (by decide) (by decide) rfl hq⟩
    · rw [fld_setFld_ne _ _ _ _ _ _ (by decide) (by decide), h15]
    · rw [fld_setFld_ne _ _ _ _ _ _ (by decide) (by decide), hsame w (by decide) (by decide) rfl hr]
  · have hhi : reasonHi 0 = 23 ∧ reasonLo 0 = 16 ∧ reasonHi 1 = 15 ∧ reasonLo 1 = 8 := ⟨rfl, rfl, rfl, rfl⟩
    obtain ⟨h1, h2, h3, h4⟩ := hhi
    rw [h1, h2, h3, h4]
    refine ⟨hsame w (by decide) (by decide) rfl hr, ?_, ?_, hsame _ (by decide) (by decide) rfl hq⟩
    · rw [fld_setFld_ne _ _ _ _ _ _ (by decide) (by decide), h23]
    · rw [fld_setFld_ne _ _ _ _ _ _ (by decide) (by decide), hsame w (by decide) (by decide) rfl hr]

/-- The fields of both reasons stay where they did not change. -/
theorem reason_field {s t : State} {slot : Nat} (h23 : t.field .boot 0x100 23 16 = s.field .boot 0x100 23 16)
    (h15 : t.field .boot 0x100 15 8 = s.field .boot 0x100 15 8) :
    t.field .boot 0x100 (reasonHi slot) (reasonLo slot) = s.field .boot 0x100 (reasonHi slot) (reasonLo slot) := by
  unfold reasonHi reasonLo
  split
  · exact h23
  · exact h15

/-! ### READY (R509) -/

theorem State.unquiesce_within (c : Nat) : s.within [.cfls, .ridges] (s.unquiesce c) :=
  .ite (fun _ => (s.setCfl_within _ _).mono (by decide)) fun _ => .ite (fun _ => (s.setRidge_within _ _).mono (by decide)) fun _ => .refl _ _

theorem State.runStart_within (c : Nat) : s.within [.cfls, .ridges, .cores] (s.runStart c) := by
  unfold State.runStart
  extract_lets k
  split
  · exact ((s.unquiesce_within c).mono (by decide)).trans ((State.setCore_within _ _ _).mono (by decide))
  · exact ((s.unquiesce_within c).mono (by decide)).trans ((State.setCore_within _ _ _).mono (by decide))
  · exact ((s.unquiesce_within c).mono (by decide)).trans ((State.setCore_within _ _ _).mono (by decide))
  · exact .refl _ _

theorem State.startColl_within : s.within [.cfls, .ridges, .cores] s.startColl :=
  .foldl (fun t _ => .ite (fun _ => t.runStart_within _) fun _ => .refl _ _) _ s

theorem State.bootReady_readies (hheld : s.plat.held = false) (htried : s.boot.tried = true) (hfail : s.bootFail = false)
    (hdone : s.bootDone = false) (hmap : s.mem.pmapReady = true) :
    ∃ t, exec .bootReady s = .next t ∧ t.bootDone = true ∧ t.mem = s.mem := by
  refine ⟨_, rfl, ?_⟩
  rw [if_neg (by rw [hheld, htried, hfail, hdone, hmap]; decide)]
  refine ⟨State.flag_setFlag_same _ _ _ _ _ (by decide), ?_⟩
  rw [(State.setFlag_within _ _ _ _ _).mem (by decide), s.startColl_within.mem (by decide)]

theorem State.bootReady_waits (hmap : s.mem.pmapReady = false) : exec .bootReady s = .next s := by
  have hexec : exec .bootReady s = execBootReady s := rfl
  rw [hexec, execBootReady, if_pos (by rw [hmap, Bool.not_false, Bool.or_true])]

/-! ### The fuses (R517) -/

/-- The fuse that fails, of those to be blown. -/
def fuseFails (old svn : Nat) (bad : Option (Fin 64)) : Option Nat :=
  match bad with
  | some b => if old ≤ b.val ∧ b.val < svn then some b.val else none
  | none => none

/-- The fuses are blown up to `n`. -/
def State.fused (s : State) (n : Nat) (fails : Bool) : State :=
  let u := { s with board := { s.board with fuses := n } }.setReg .sec 0x140 (w32 n)
  if fails then u.setErr .sec 0 else u

theorem State.svnCommit_eq (v : W32) (bad : Option (Fin 64)) (hheld : s.plat.held = false) (hawake : s.asleep = false) :
    exec (.svnCommit v bad) s = .next (
      if s.bootFail || !s.boot.tried || s.flag .boot 0x100 28 || decide (s.field .boot 0x100 7 0 ≤ s.board.fuses) then
        s.storeBits .boot 0x104 v
      else (s.storeBits .boot 0x104 v).fused ((fuseFails s.board.fuses (s.field .boot 0x100 7 0) bad).getD (s.field .boot 0x100 7 0))
        (fuseFails s.board.fuses (s.field .boot 0x100 7 0) bad).isSome) := by
  have hexec : exec (.svnCommit v bad) s = execSvnCommit v bad s := rfl
  rw [hexec]
  unfold execSvnCommit
  extract_lets t svn old
  rw [if_neg (by rw [hheld, hawake]; decide)]
  cases bad <;> rfl

theorem State.fused_facts (n : Nat) (fails : Bool) : (s.fused n fails).board.fuses = n ∧ (s.fused n fails).reg .sec 0x140 = w32 n ∧
    (fails = true → (s.fused n fails).flag .sec 0x010 0 = true) ∧
    s.fused n fails = { s with io := (s.fused n fails).io, board := { s.board with fuses := n }, out := (s.fused n fails).out } := by
  unfold State.fused
  extract_lets b u
  have hset : ({ s with board := { s.board with fuses := n } } : State).within [.io] u := State.setReg_within _ _ _ _
  have hreg : u.reg .sec 0x140 = w32 n := State.reg_setReg_same _ _ _ _
  have hfuses : u.board = { s.board with fuses := n } := rfl
  have hrest : u = { s with io := u.io, board := { s.board with fuses := n }, out := u.out } := rfl
  clear_value u
  cases fails with
  | false => exact ⟨by rw [if_neg Bool.false_ne_true, hfuses], hreg, fun h => absurd h (by decide), hrest⟩
  | true =>
    rw [if_pos rfl]
    have herr := u.flag_setErr .sec 0 (by decide)
    have hkeep := (u.setErr_keepsRegs .sec 0).reg .sec (j := 0x140) (by decide) (by decide)
    have hw := u.setErr_within .sec 0
    refine ⟨by rw [hw.board (by decide), hfuses], hkeep.trans hreg, fun _ => herr, ?_⟩
    generalize u.setErr .sec 0 = t at hw
    have ht : t = { u with io := t.io, out := t.out } := hw
    rw [ht, hrest]

theorem fuseFails_some {old svn : Nat} {f : Fin 64} (h1 : old ≤ f.val) (h2 : f.val < svn) : fuseFails old svn (some f) = some f.val :=
  if_pos ⟨h1, h2⟩

theorem le_fuseFails_getD {old svn : Nat} (h : old ≤ svn) (bad : Option (Fin 64)) : old ≤ (fuseFails old svn bad).getD svn := by
  unfold fuseFails
  split
  · split
    · next h' => exact h'.1
    · exact h
  · exact h

theorem State.svnCommit_commits (v : W32) (bad : Option (Fin 64)) (hheld : s.plat.held = false) (hawake : s.asleep = false) :
    ∃ t, exec (.svnCommit v bad) s = .next t ∧ s.board.fuses ≤ t.board.fuses ∧
      (s.bootFail = false → s.boot.tried = true → s.flag .boot 0x100 28 = false → s.board.fuses < s.field .boot 0x100 7 0 →
        (bad = none → t.board.fuses = s.field .boot 0x100 7 0 ∧ t.reg .sec 0x140 = w32 (s.field .boot 0x100 7 0)) ∧
        (∀ f, bad = some f → s.board.fuses ≤ f.val → f.val < s.field .boot 0x100 7 0 → t.board.fuses = f.val ∧ t.flag .sec 0x010 0 = true)) ∧
      (s.flag .boot 0x100 28 = true ∨ s.field .boot 0x100 7 0 ≤ s.board.fuses → t.board = s.board) ∧
      t = { s with io := t.io, board := { s.board with fuses := t.board.fuses }, out := t.out } := by
  refine ⟨_, s.svnCommit_eq v bad hheld hawake, ?_⟩
  generalize s.field .boot 0x100 7 0 = svn
  have hw := s.storeBits_within .boot 0x104 v
  generalize s.storeBits .boot 0x104 v = t at hw ⊢
  have ht : t = { s with io := t.io } := hw
  have hboard : t.board = s.board := hw.board (by decide)
  by_cases hc : (s.bootFail || !s.boot.tried || s.flag .boot 0x100 28 || decide (svn ≤ s.board.fuses)) = true
  · rw [if_pos hc]
    refine ⟨by rw [hboard], fun h1 h2 h3 h4 => ?_, fun _ => hboard, ?_⟩
    · rw [h1, h2, h3, decide_eq_false (Nat.not_le.mpr h4)] at hc
      exact absurd hc (by decide)
    · rw [hboard]
      have hout : t.out = s.out := hw.out (by decide)
      rw [hout]
      exact ht
  · rw [if_neg hc]
    obtain ⟨hfuses, hreg, herr, hall⟩ := t.fused_facts ((fuseFails s.board.fuses svn bad).getD svn) (fuseFails s.board.fuses svn bad).isSome
    have hlt : s.board.fuses < svn := by
      by_contra hle
      exact hc (by rw [decide_eq_true (Nat.not_lt.mp hle), Bool.or_true])
    have hge := le_fuseFails_getD hlt.le bad
    have hflag : s.flag .boot 0x100 28 ≠ true := fun h => hc (by rw [h]; simp)
    generalize hn : (fuseFails s.board.fuses svn bad).getD svn = n at *
    generalize hf : (fuseFails s.board.fuses svn bad).isSome = fails at *
    generalize t.fused n fails = u at hfuses hreg herr hall ⊢
    refine ⟨by rw [hfuses]; exact hge, fun _ _ _ _ => ⟨?_, fun f hbad h1 h2 => ?_⟩, fun h => absurd h ?_, ?_⟩
    · rintro rfl
      rw [hfuses, hreg, ← hn]
      exact ⟨rfl, rfl⟩
    · subst hbad
      rw [fuseFails_some h1 h2] at hn hf
      rw [hfuses, ← hn]
      exact ⟨rfl, herr hf.symm⟩
    · rintro (h | h)
      · exact hflag h
      · omega
    · rw [hfuses]
      rw [hboard] at hall
      exact hall.trans (by rw [ht])

/-! ### The boot (R509, R514, R515) -/

/-- What the boot leaves once slot `a`, or else slot `b`, has been judged. -/
abbrev State.Booted (s t : State) (a b : Nat) (trial : Bool) : Prop :=
  t.boot.tried = true ∧ t.board.bootCfg = s.slotChosen.board.bootCfg ∧
    t.bootFail = (decide (s.slotReason a ≠ 0) && decide (s.slotReason b ≠ 0)) ∧
    t.field .boot 0x100 (reasonHi a) (reasonLo a) = s.slotReason a ∧
    t.field .boot 0x100 (reasonHi b) (reasonLo b) = (if s.slotReason a = 0 then 8 else s.slotReason b) ∧
    (t.bootFail = false → t.flag .sec 0x144 31 = true ∧
      (∀ i < 8, t.reg .sec (0x100 + 4 * i) = w32 (beNat ((idKey.drop (4 * i)).take 4)) ∧
        t.reg .sec (0x120 + 4 * i) = w32 (beNat (((sha256 idKey).drop (4 * i)).take 4))) ∧
      t.reg .uhl 0x100 = w32 ((s.uhlLog.map fun w => (uhlBoot w).toNat).foldl max 0 + 1)) ∧
    (if s.slotReason a = 0 then (t.flag .boot 0x100 29).toNat = a ∧ t.flag .boot 0x100 28 = trial ∧
        t.field .boot 0x100 7 0 = s.imageWord a 8 ∧ t.boot.imageDigest = sha256 (s.imageRead a 0 0x1000)
      else t.flag .boot 0x010 0 = true ∧ if s.slotReason b = 0 then (t.flag .boot 0x100 29).toNat = b ∧
        t.flag .boot 0x100 28 = false ∧ t.field .boot 0x100 7 0 = s.imageWord b 8 else t.flag .smb 0x108 4 = true)

/-- `BOOT_STAT` before the boot shows 8 for both slots, and nothing else (R527). -/
theorem bootStat_reset : fld 0x00080800#32 23 16 = 8 ∧ fld 0x00080800#32 15 8 = 8 := by decide

theorem State.bootSlotVerify_boots (hheld : s.plat.held = false) (hflash : s.boot.flashUp = true) (htried : s.boot.tried = false)
    (hslot : s.bootPick.1 < 2) (hstat : s.reg .boot 0x100 = 0x00080800#32) :
    ∃ t, exec .bootSlotVerify s = .next t ∧ s.Booted t s.bootPick.1 (1 - s.bootPick.1) s.bootPick.2.1 := by
  refine ⟨_, s.bootSlotVerify_eq hheld hflash htried, ?_⟩
  unfold State.bootFrom otherSlot State.Booted
  generalize s.bootPick.1 = a at *
  generalize s.bootPick.2.1 = trial
  have hb : 1 - a < 2 := by omega
  obtain ⟨hsame, htri, hio⟩ := s.slotChosen_same
  have hstat' : s.slotChosen.reg .boot 0x100 = 0x00080800#32 := by
    rw [State.reg, hio]
    exact hstat
  generalize s.slotChosen = t at *
  obtain ⟨hok, htw, hreg, herr, -⟩ := t.trySlot_shows a
  rw [hsame.slotReason] at hok hreg herr
  generalize (t.trySlot a).2 = ok at hok ⊢
  generalize (t.trySlot a).1 = u at htw hreg herr ⊢
  have hsu : s.SameFlash u := hsame.trans (htw.sameFlash (by decide))
  have hutried : u.boot.tried = true := by rw [htw.boot (by decide), htri]
  have hucfg : u.board.bootCfg = t.board.bootCfg := by rw [htw.board (by decide)]
  have hra : s.slotReason a < 256 := (s.slotReason_lt a).trans (by decide)
  have hrb : s.slotReason (1 - a) < 256 := (s.slotReason_lt _).trans (by decide)
  rw [hstat'] at hreg
  obtain ⟨h1, h2, h3, h4⟩ := reasons_shown hslot rfl hra hrb _ bootStat_reset.1 bootStat_reset.2
  by_cases ha : s.slotReason a = 0
  · rw [hok, decide_eq_true ha, if_pos rfl]
    have hsvn : u.imageWord a 8 < 256 := by
      rw [hsu.imageWord]
      exact (s.imageWord_svn_le ha).trans_lt (by decide)
    obtain ⟨hbt, hbc, hbf, h23, h15, -, hkeys, h29, h28, h7, hdig⟩ := u.runs_shows trial hslot hsvn _ rfl
    generalize (u.loadImage a trial).bootImage = v at *
    rw [hsu.uhlLog] at hkeys
    rw [hsu.imageWord] at h7
    rw [hsu.imageRead] at hdig
    refine ⟨hbt.trans hutried, hbc.trans hucfg, ?_, ?_, ?_, fun _ => hkeys, ?_⟩
    · rw [hbf, decide_eq_false (not_not.mpr ha)]
      rfl
    · rw [reason_field h23 h15, State.field, hreg]
      exact h1
    · rw [reason_field h23 h15, State.field, hreg, if_pos ha]
      exact h2
    · rw [if_pos ha]
      exact ⟨h29, h28, h7, hdig⟩
  · rw [hok, decide_eq_false ha, if_neg Bool.false_ne_true]
    have hua := herr ha
    obtain ⟨hok2, hvw, hreg2, herr2, hkept⟩ := u.trySlot_shows (1 - a)
    rw [hsu.slotReason] at hok2 hreg2 herr2
    generalize (u.trySlot (1 - a)).2 = ok2 at hok2 ⊢
    generalize (u.trySlot (1 - a)).1 = v at hvw hreg2 herr2 hkept ⊢
    have hsv : s.SameFlash v := hsu.trans (hvw.sameFlash (by decide))
    have hvtried : v.boot.tried = true := by rw [hvw.boot (by decide), hutried]
    have hvcfg : v.board.bootCfg = t.board.bootCfg := by rw [hvw.board (by decide), hucfg]
    rw [hreg] at hreg2
    by_cases hb0 : s.slotReason (1 - a) = 0
    · rw [hok2, decide_eq_true hb0, if_pos rfl]
      have hsvn : v.imageWord (1 - a) 8 < 256 := by
        rw [hsv.imageWord]
        exact (s.imageWord_svn_le hb0).trans_lt (by decide)
      obtain ⟨hbt, hbc, hbf, h23, h15, h010, hkeys, h29, h28, h7, hdig⟩ := v.runs_shows false hb hsvn _ rfl
      generalize (v.loadImage (1 - a) false).bootImage = w at *
      rw [hsv.uhlLog] at hkeys
      rw [hsv.imageWord] at h7
      refine ⟨hbt.trans hvtried, hbc.trans hvcfg, ?_, ?_, ?_, fun _ => hkeys, ?_⟩
      · rw [hbf, decide_eq_false (p := s.slotReason (1 - a) ≠ 0) (not_not.mpr hb0), Bool.and_false]
      · rw [reason_field h23 h15, State.field, hreg2]
        exact h3
      · rw [reason_field h23 h15, State.field, hreg2, if_neg ha]
        exact h4
      · rw [if_neg ha, if_pos hb0]
        exact ⟨h010.trans (hkept hua), h29, h28, h7⟩
    · rw [hok2, decide_eq_false hb0, if_neg Bool.false_ne_true]
      generalize hw : v.setFlag .boot 0x100 30 true = w
      have hww : v.within [.io] w := hw ▸ v.setFlag_within _ _ _ _
      have h30 : w.flag .boot 0x100 30 = true := hw ▸ v.flag_setFlag_same _ _ _ _ (by decide)
      have hfields : w.field .boot 0x100 23 16 = v.field .boot 0x100 23 16 ∧ w.field .boot 0x100 15 8 = v.field .boot 0x100 15 8 := by
        rw [← hw]
        unfold State.field State.setFlag
        rw [State.reg_setReg_same]
        exact ⟨fld_setBit_ne _ _ _ _ _ (by decide) (by decide), fld_setBit_ne _ _ _ _ _ (by decide) (by decide)⟩
      have h010 : w.flag .boot 0x010 0 = v.flag .boot 0x010 0 := hw ▸ congrArg (bitOf · 0) (v.reg_setFlag_ne 30 true (by decide))
      have hx : (w.setFlag .smb 0x108 4 true).flag .smb 0x108 4 = true := w.flag_setFlag_same _ _ _ _ (by decide)
      have hboot : ∀ j < 0x1000, (w.setFlag .smb 0x108 4 true).reg .boot j = w.reg .boot j := fun j hj =>
        w.reg_setFlag_ne 4 true (by simp only [Page.base]; omega)
      have hxw := w.setFlag_within .smb 0x108 4 true
      generalize w.setFlag .smb 0x108 4 true = x at *
      have hfail : x.bootFail = true := (congrArg (bitOf · 30) (hboot 0x100 (by decide))).trans h30
      have hxf : ∀ hi lo, x.field .boot 0x100 hi lo = w.field .boot 0x100 hi lo := fun hi lo => congrArg (fld · hi lo) (hboot 0x100 (by decide))
      refine ⟨?_, ?_, ?_, ?_, ?_, fun h => absurd (hfail.symm.trans h) (by decide), ?_⟩
      · rw [hxw.boot (by decide), hww.boot (by decide), hvtried]
      · rw [hxw.board (by decide), hww.board (by decide), hvcfg]
      · rw [hfail, decide_eq_true (p := s.slotReason a ≠ 0) ha, decide_eq_true (p := s.slotReason (1 - a) ≠ 0) hb0]
        rfl
      · rw [hxf, reason_field hfields.1 hfields.2, State.field, hreg2]
        exact h3
      · rw [hxf, reason_field hfields.1 hfields.2, State.field, hreg2, if_neg ha]
        exact h4
      · rw [if_neg ha, if_neg hb0]
        refine ⟨?_, hx⟩
        rw [State.flag, hboot 0x010 (by decide)]
        exact h010.trans (hkept hua)

end

/-- Settles O52: the slots by `bootSlotVerify_boots`, READY by `bootReady_readies`, the fuses by `svnCommit_commits`. -/
theorem theDeviceBoots : Obligations.TheDeviceBoots := by
  unfold Obligations.TheDeviceBoots
  intro s v bad cfg a b svn
  obtain ⟨hpick, htrial, hcfg⟩ := s.bootPick_eq (c := cfg) rfl
  refine ⟨fun hheld hflash htried hlt hstat => ?_, fun hheld htried hfail hdone =>
    ⟨s.bootReady_waits, s.bootReady_readies hheld htried hfail hdone⟩, s.svnCommit_commits v bad⟩
  have ha : s.bootPick.1 = a := hpick
  have ha2 : a < 2 := by
    rw [← ha, hpick]
    split <;> omega
  obtain ⟨t, hexec, hbooted⟩ := s.bootSlotVerify_boots hheld hflash htried (ha ▸ ha2) hstat
  rw [ha, htrial] at hbooted
  obtain ⟨h1, h2, h3, h4, h5, h6, h7⟩ := hbooted
  have hother : (reasonHi b = if a = 0 then 15 else 23) ∧ (reasonLo b = if a = 0 then 8 else 16) := by
    unfold reasonHi reasonLo
    by_cases h0 : a = 0
    · rw [if_pos h0, if_pos h0, if_neg (by omega), if_neg (by omega)]
      exact ⟨rfl, rfl⟩
    · rw [if_neg h0, if_neg h0, if_pos (by omega), if_pos (by omega)]
      exact ⟨rfl, rfl⟩
  have hcfg' : t.board.bootCfg = if cfg.2 = 1 then some (cfg.1, 2) else if cfg.2 = 2 then some (a, 0) else s.board.bootCfg := by
    rw [h2, hcfg]
    by_cases h2' : cfg.2 = 2
    · rw [show a = 1 - cfg.1 from if_pos h2']
    · rw [if_neg h2', if_neg h2']
  refine ⟨t, hexec, h1, hcfg', h3, h4, ?_, h6, h7⟩
  rw [← hother.1, ← hother.2]
  exact h5

end Sys2Proof.Machine
end

section
/-! PROOF. The commands of clocks, supplies, heat, reset and boot complete (R476 to R493, R509, R514, R536, R539). -/
namespace Sys2Proof.Machine

section
variable (s : State)

/-! ### The release of chip reset (R486) -/

theorem State.latchStraps_within (straps : BitVec 14) : s.within [.io, .out, .ports] (s.latchStraps straps) := by
  unfold State.latchStraps
  extract_lets v g par range bad t0 t
  have ht : s.within [.io, .out, .ports] t :=
    (((s.setReg_within _ _ _).trans (State.setReg_within _ _ _ _)).trans (State.setReg_within _ _ _ _)).mono (by decide)
  refine .ite (fun _ => ht) fun _ => (ht.trans ((State.setErr_within _ _ _).mono (by decide))).trans (.foldl (fun u p => ?_) _ _)
  exact ((State.setPort_within _ _ _).mono (by decide)).trans ((State.setErr_within _ _ _).mono (by decide))

theorem State.release_plat_held (straps : BitVec 14) : (s.release straps).plat.held = false := by
  unfold State.release
  extract_lets tap p t
  have h := ((t.setReg_within .sec 0x140 (w32 s.board.fuses)).mono (by decide)).trans (State.latchStraps_within _ straps)
  rw [h.plat (by decide)]

theorem State.resetRelease_releases (straps : BitVec 14) (hheld : s.plat.held = true) (hrails : s.railsGood = true)
    (htrip : s.plat.trip = false) (hcore : s.plat.core.st = .stable) (hpcie : s.plat.pcie.st = .stable)
    (hwatch : s.plat.watch.st = .stable) : ∃ t, exec (.resetRelease straps) s = .next t ∧ t.plat.held = false := by
  refine ⟨_, rfl, ?_⟩
  rw [if_pos (by rw [hheld, hrails, htrip, hcore, hpcie, hwatch]; decide)]
  exact s.release_plat_held straps

theorem State.forcedResetRelease_releases (straps : BitVec 14) (hheld : s.plat.held = true) (hrails : s.railsGood = true)
    (htrip : s.plat.trip = false) (hcore : s.plat.core.st ≠ .stable) :
    ∃ t, exec (.forcedResetRelease straps) s = .next t ∧ t.plat.held = false := by
  refine ⟨_, rfl, ?_⟩
  rw [if_pos (by rw [hheld, hrails, htrip]; simpa using hcore), (State.clockLoss_within _ _).plat (by decide),
    (State.coreReserve_within _).plat (by decide)]
  exact s.release_plat_held straps

/-! ### The flash, its slots, the straps (R514, R536, R539) -/

theorem State.bootFrom_tried (slot : Nat) (trial : Bool) : (s.bootFrom slot trial).boot.tried = s.boot.tried := by
  unfold State.bootFrom
  rw [(State.bootImage_starts _).1.boot (by decide), (s.loadImage_loads slot trial).2.1]

theorem State.trySlot_boot (slot : Nat) : (s.trySlot slot).1.boot = s.boot := (s.trySlot_shows slot).2.1.boot (by decide)

theorem State.bootSlotVerify_tries (hheld : s.plat.held = false) (hflash : s.boot.flashUp = true) (htried : s.boot.tried = false) :
    ∃ t, exec .bootSlotVerify s = .next t ∧ t.boot.tried = true := by
  have hchosen := s.slotChosen_same.2.1
  refine ⟨_, s.bootSlotVerify_eq hheld hflash htried, ?_⟩
  generalize s.slotChosen = u at hchosen ⊢
  split
  · rw [State.bootFrom_tried, State.trySlot_boot, hchosen]
  split
  · rw [State.bootFrom_tried, State.trySlot_boot, State.trySlot_boot, hchosen]
  · rw [(State.setFlag_within _ _ _ _ _).boot (by decide), (State.setFlag_within _ _ _ _ _).boot (by decide), State.trySlot_boot,
      State.trySlot_boot, hchosen]

theorem State.strapCompare_differs (straps : BitVec 14) (hheld : s.plat.held = false) (h : s.field .stp 0x100 13 0 ≠ straps.toNat) :
    ∃ t, exec (.strapCompare straps) s = .next t ∧ t.flag .stp 0x010 1 = true := by
  refine ⟨_, rfl, ?_⟩
  rw [if_neg (by rw [hheld]; decide)]
  extract_lets t
  rw [if_neg h, State.flag, State.addSat, State.reg_setReg_off _ _ (by decide)]
  exact State.flag_setErr _ _ _ (by decide)

end

/-- Settles O57: clause by clause from the lemma of each command. -/
theorem platformCommandsComplete : Obligations.PlatformCommandsComplete := by
  unfold Obligations.PlatformCommandsComplete
  intro s a b c e i k n rs es hs short long rail straps silent
  refine ⟨fun hrails => ?_, fun hrails hwatch he => ?_, fun hrails => ?_, fun hheld hst hres hflag => ?_,
    fun hheld hpll hres hlt => ?_, fun hwait => ⟨?_, ?_⟩, fun hawake hidle => ?_, fun hrun => ⟨?_, fun hawake => ?_⟩,
    fun hheld hflag hquiet => ?_, fun hheld hcool => ?_, fun hheld => ?_, ?_, ?_,
    fun hheld hrails htrip => ⟨s.resetRelease_releases straps hheld hrails htrip, s.forcedResetRelease_releases straps hheld hrails htrip⟩,
    fun hheld => ⟨?_, s.bootSlotVerify_tries hheld, fun htried hfail hdone hmap => ?_, s.strapCompare_differs straps hheld⟩⟩
  · obtain ⟨t, hexec, ha, hb, hc, -⟩ := s.clockMonitorWindow_judges a b c hrails
    exact ⟨t, hexec, ha, hb, hc⟩
  · refine ⟨_, s.clockFastTest_loses false hrails hwatch (.inl he), ?_⟩
    rw [State.lose_plat]
    exact congrArg ClkIn.st (s.plat.afterLoss_input_same .core)
  · refine ⟨_, s.watchOscEdgeTimeout_loses hrails, ?_⟩
    rw [State.lose_plat]
    exact congrArg ClkIn.st (s.plat.afterLoss_input_same .watch)
  · obtain ⟨t, hexec, hback, -⟩ := s.clockReturn_returns (i := .pcie) hheld hst hflag ⟨122, by decide, hres⟩
    exact ⟨t, hexec, hback 122 (by decide)⟩
  · obtain ⟨t, hexec, -, hmoves, -⟩ := s.dividerRampStep_moves i hheld hpll hres (by omega)
    have hnext : s.nextCode i.val = s.islCur i.val + 1 := if_pos hlt
    exact ⟨t, hexec, by rw [hmoves fun h => absurd h.2.1 (by omega), hnext]⟩
  · obtain ⟨t, hexec, -, hdone, -⟩ := s.avsVoltageAck_supplies k hwait
    exact ⟨t, hexec, hdone⟩
  · obtain ⟨t, hexec, herr, -⟩ := s.avsTimeout_asks k hwait
    exact ⟨t, hexec, herr⟩
  · obtain ⟨t, hexec, hzero, -⟩ := s.fmcGo_starts hawake hidle
    exact ⟨t, hexec, hzero⟩
  · obtain ⟨t, hexec, -, -, -, hdone⟩ := s.fmcDone_holds n hrun
    exact ⟨t, hexec, hdone⟩
  · obtain ⟨t, hexec, hend, -⟩ := s.fmcAbort_ends hrun hawake
    exact ⟨t, hexec, hend⟩
  · obtain ⟨t, hexec, hidle, -⟩ := s.dieIdleEntry_idles k hheld hflag hquiet
    exact ⟨t, hexec, hidle⟩
  · obtain ⟨t, hexec, helapsed, -⟩ := s.thermalTick_cool hs hheld hcool
    exact ⟨t, hexec, helapsed⟩
  · obtain ⟨t, hexec, hlong, -⟩ := s.powerTick_follows short long hheld
    exact ⟨t, hexec, hlong⟩
  · exact ⟨_, rfl, by rw [NatSet.has_add]; simp⟩
  · exact ⟨_, rfl, by rw [NatSet.has_del]; simp⟩
  · refine ⟨_, rfl, ?_⟩
    rw [if_neg (by rw [hheld]; decide)]
  · obtain ⟨t, hexec, hdone, -⟩ := s.bootReady_readies hheld htried hfail hdone hmap
    exact ⟨t, hexec, hdone⟩

end Sys2Proof.Machine
end

section
/-! PROOF. The SMBus target and boundary scan (R506, R507, R540). -/
namespace Sys2Proof.Machine

section
variable (s : State)

/-! ### Reads (R506) -/

theorem State.emit_within (o : Out) : s.within [.out] (s.emit o) := rfl

/-- A read answers its bytes, and is counted. -/
theorem State.smbRead_false (code : Nat) (bs : List Byte) (hheld : s.plat.held = false) :
    (s.smbRead code bs false).out = .smb bs :: s.out ∧ s.within [.io, .out] (s.smbRead code bs false) := by
  unfold State.smbRead
  rw [if_neg (by rw [hheld]; decide)]
  extract_lets head
  refine ⟨?_, ((s.event_within _ _ _).mono (by decide)).trans ((State.emit_within _ _).mono (by decide))⟩
  rw [State.emit, State.event_out, if_neg (by decide), List.append_nil]

/-- With the packet error code the answer is one byte longer. -/
theorem State.smbRead_true (code : Nat) (bs : List Byte) (hheld : s.plat.held = false) :
    ∃ c, (s.smbRead code bs true).out = .smb (bs ++ [c]) :: s.out ∧ s.within [.io, .out] (s.smbRead code bs true) := by
  unfold State.smbRead
  rw [if_neg (by rw [hheld]; decide)]
  extract_lets head
  refine ⟨BitVec.ofNat 8 (crc8 (head ++ bs)), ?_, ((s.event_within _ _ _).mono (by decide)).trans ((State.emit_within _ _).mono (by decide))⟩
  rw [State.emit, State.event_out, if_pos rfl]
  rfl

theorem State.smbRead_held (code : Nat) (bs : List Byte) (pec : Bool) (hheld : s.plat.held = true) :
    s.smbRead code bs pec = { s with out := .smbNack :: s.out } := by
  unfold State.smbRead
  rw [if_pos hheld, State.emit]

/-- A read of a register of the table, with or without the packet error code. -/
theorem State.smbRead_answers (code : Nat) (bs : List Byte) (hheld : s.plat.held = false) {x : Bool → Instr}
    (hx : ∀ pec, exec (x pec) s = .next (s.smbRead code bs pec)) :
    (∃ t, exec (x false) s = .next t ∧ t.out = .smb bs :: s.out ∧ t = { s with io := t.io, out := t.out }) ∧
      ∃ t c, exec (x true) s = .next t ∧ t.out = .smb (bs ++ [c]) :: s.out ∧ t = { s with io := t.io, out := t.out } := by
  obtain ⟨hout, hw⟩ := s.smbRead_false code bs hheld
  obtain ⟨c, hout', hw'⟩ := s.smbRead_true code bs hheld
  exact ⟨⟨_, hx false, hout, hw⟩, _, c, hx true, hout', hw'⟩

/-- A read of a register of the table is answered, by at least one byte. -/
theorem State.smbRead_some (code : Nat) {bs : List Byte} (hbs : bs ≠ []) (hheld : s.plat.held = false) {i : Instr} {pec : Bool}
    (hi : exec i s = .next (s.smbRead code bs pec)) : ∃ t cs, exec i s = .next t ∧ t.out = .smb cs :: s.out ∧ cs ≠ [] := by
  cases pec with
  | false => exact ⟨_, bs, hi, (s.smbRead_false code bs hheld).1, hbs⟩
  | true =>
    obtain ⟨c, hout, -⟩ := s.smbRead_true code bs hheld
    exact ⟨_, _, hi, hout, List.append_ne_nil_of_left_ne_nil hbs _⟩

theorem foldl_max_mem (l : List Nat) (a : Nat) : l.foldl max a = a ∨ l.foldl max a ∈ l := by
  induction l generalizing a with
  | nil => exact .inl rfl
  | cons b l ih =>
    rcases ih (max a b) with h | h
    · rcases Nat.le_total a b with hab | hab
      · exact .inr (by rw [List.foldl_cons, h, Nat.max_eq_right hab]; exact List.mem_cons_self)
      · exact .inl (by rw [List.foldl_cons, h, Nat.max_eq_left hab])
    · exact .inr (List.mem_cons_of_mem _ h)

theorem le_foldl_max (l : List Nat) (a : Nat) : a ≤ l.foldl max a ∧ ∀ y ∈ l, y ≤ l.foldl max a := by
  induction l generalizing a with
  | nil => exact ⟨Nat.le_refl a, fun y hy => absurd hy List.not_mem_nil⟩
  | cons b l ih =>
    obtain ⟨hle, hall⟩ := ih (max a b)
    refine ⟨(Nat.le_max_left a b).trans hle, fun y hy => ?_⟩
    rcases List.mem_cons.mp hy with rfl | hy
    · exact (Nat.le_max_right a y).trans hle
    · exact hall y hy

/-- The temperatures that the device reports. -/
def State.reportedTemps (s : State) : List Nat :=
  s.field .thm 0x10C 15 8 :: s.field .thm 0x10C 7 0 :: (List.range 4).map fun k => s.field .thm 0x104 (8 * k + 7) (8 * k)

/-- TEMP is the highest of the temperatures. -/
theorem State.smbTemp_highest : s.smbTemp ∈ s.reportedTemps ∧ ∀ y ∈ s.reportedTemps, y ≤ s.smbTemp := by
  unfold State.reportedTemps State.smbTemp
  generalize hl : (List.range 4).map (fun k => s.field .thm 0x104 (8 * k + 7) (8 * k)) = l
  have hne : l ≠ [] := by
    rw [← hl]
    simp
  generalize s.field .thm 0x10C 15 8 = a
  generalize s.field .thm 0x10C 7 0 = b
  obtain ⟨-, hall⟩ := le_foldl_max l 0
  have hmem : l.foldl max 0 ∈ l := by
    rcases foldl_max_mem l 0 with h | h
    · obtain ⟨x, hx⟩ := List.exists_mem_of_ne_nil l hne
      have h0 : x = 0 := Nat.le_zero.mp (h ▸ hall x hx)
      rw [h, ← h0]
      exact hx
    · exact h
  generalize l.foldl max 0 = m at hall hmem
  refine ⟨?_, fun y hy => ?_⟩
  · have hcases : max m (max a b) = m ∨ max m (max a b) = a ∨ max m (max a b) = b := by omega
    rcases hcases with h | h | h
    · rw [h]
      exact List.mem_cons_of_mem _ (List.mem_cons_of_mem _ hmem)
    · rw [h]
      exact List.mem_cons_self
    · rw [h]
      exact List.mem_cons_of_mem _ List.mem_cons_self
  · rcases List.mem_cons.mp hy with rfl | hy
    · omega
    rcases List.mem_cons.mp hy with rfl | hy
    · omega
    · have := hall y hy
      omega

/-- Bit 0 of STATUS: a floor stands above 64. -/
theorem State.smbStatus_eq {f : Nat} (h1 : 64 < s.powerFloor ∨ (∃ k < 4, 64 < s.thermalFloor k) → f = 1)
    (h0 : ¬ (64 < s.powerFloor ∨ ∃ k < 4, 64 < s.thermalFloor k) → f = 0) :
    s.smbStatus = s.bootDone.toNat * 128 + s.bootFail.toNat * 64 + s.mgmt.asked % 8 * 8 + (s.flag .smb 0x108 0).toNat * 4 +
      (s.flag .thm 0x010 1).toNat * 2 + f := by
  have hiff : (decide (64 < s.powerFloor) || (List.range 4).any fun k => decide (64 < s.thermalFloor k)) = true ↔
      (64 < s.powerFloor ∨ ∃ k < 4, 64 < s.thermalFloor k) := by
    simp only [Bool.or_eq_true, decide_eq_true_eq, List.any_eq_true, List.mem_range]
  unfold State.smbStatus
  extract_lets floors
  have hf : floors.toNat = f := by
    by_cases h : 64 < s.powerFloor ∨ ∃ k < 4, 64 < s.thermalFloor k
    · rw [h1 h, show floors = true from hiff.mpr h]
      rfl
    · rw [h0 h, show floors = false from Bool.eq_false_iff.mpr fun hx => h (hiff.mp hx)]
      rfl
  rw [hf]

/-! ### The tray limit and commands that do not exist (R506) -/

theorem State.smbTrayLimitWrite_refused (w : BitVec 16) {pec : Pec} (hheld : s.plat.held = false)
    (hpec : pec = .wrong ∨ (pec = .missing ∧ s.flag .smb 0x104 0 = true)) : ∃ t, exec (.smbTrayLimitWrite w pec) s = .next t ∧
      t.flag .smb 0x010 1 = true ∧ t.reg .smb 0x10C = s.reg .smb 0x10C ∧ t.out.head? = some .smbNack := by
  refine ⟨_, rfl, ?_⟩
  rw [if_neg (by rw [hheld]; decide), if_pos hpec]
  exact ⟨State.flag_setErr s .smb 1 (by decide), (s.setErr_keepsRegs .smb 1).reg .smb (by decide) (by decide), rfl⟩

theorem State.smbTrayLimitWrite_writes (w : BitVec 16) {pec : Pec} (hheld : s.plat.held = false)
    (hpec : pec = .good ∨ (pec = .missing ∧ s.flag .smb 0x104 0 = false)) : ∃ t, exec (.smbTrayLimitWrite w pec) s = .next t ∧
      t.reg .smb 0x10C = w32 w.toNat ∧ t.out = .smb [] :: s.out ∧ t = { s with io := t.io, out := t.out } := by
  refine ⟨_, rfl, ?_⟩
  rw [if_neg (by rw [hheld]; decide), if_neg (by rcases hpec with rfl | ⟨rfl, h⟩ <;> simp [*])]
  have hw : s.within [.io, .out] (((s.setReg .smb 0x10C (w32 w.toNat)).event .smb 2 1).emit (.smb [])) :=
    (((s.setReg_within _ _ _).trans (State.event_within _ _ _ _)).mono (by decide)).trans ((State.emit_within _ _).mono (by decide))
  refine ⟨?_, ?_, hw⟩
  · exact (((s.setReg .smb 0x10C (w32 w.toNat)).event_keepsRegs .smb 2 1).reg .smb (by decide) (by decide)).trans
      (State.reg_setReg_same _ _ _ _)
  · rw [State.emit, State.event_out, State.setReg_out]

theorem State.smbBadCommand_refused {code : Byte} (hheld : s.plat.held = false) (h6 : 6 < code.toNat) (h10 : code.toNat ≠ 0x10) :
    ∃ t, exec (.smbBadCommand code) s = .next t ∧ t.flag .smb 0x010 0 = true ∧
      t.out.head? = some .smbNack ∧ t = { s with io := t.io, out := t.out } := by
  refine ⟨_, rfl, ?_⟩
  rw [if_neg (by rw [hheld]; decide), if_neg (by omega)]
  exact ⟨State.flag_setErr s .smb 0 (by decide), rfl, (s.setErr_within _ _).trans ((State.emit_within _ _).mono (by decide))⟩

theorem State.smbAlertResponse_answers (hheld : s.plat.held = false) : ∃ t, exec .smbAlertResponse s = .next t ∧
    t.out = .smb (leBytes 1 (2 * s.field .smb 0x100 6 0)) :: s.out := by
  refine ⟨_, rfl, ?_⟩
  rw [if_neg (by rw [hheld]; decide), State.emit, State.event_out]
  rfl

/-! ### Boundary scan (R540) -/

theorem State.tapLoad_within (m : TapMode) : s.within [.plat] (s.tapLoad m) := s.setPlat_within _

theorem State.jtagBypass_bypasses (hrails : s.railsGood = true) : ∃ t, exec .jtagBypass s = .next t ∧ t.plat.tap = .bypass ∧
    t = { s with plat := t.plat } := by
  refine ⟨_, rfl, ?_⟩
  rw [if_pos hrails]
  exact ⟨ite_self _, s.tapLoad_within _⟩

theorem State.jtagSamplePreload_samples (ls pre : List Bool) (hrails : s.railsGood = true) :
    ∃ t, exec (.jtagSamplePreload ls pre) s = .next t ∧ t.plat.tap = .sample ∧ t.plat.bsr = pre.take 108 ∧
      t.out = .tdo (ls.take 108) :: s.out ∧ t = { s with plat := t.plat, out := t.out } := by
  refine ⟨_, rfl, ?_⟩
  rw [if_neg (by rw [hrails]; decide)]
  exact ⟨if_pos (Bool.or_true _), rfl, rfl, rfl⟩

/-- An instruction that drives the lands acts while PERST# is asserted, and as BYPASS at other times. -/
theorem State.tapDrive {i : Instr} {m : TapMode} {o : Out} (hi : exec i s = .next (if !s.railsGood then s
      else if s.plat.perst then (s.tapLoad m).emit o else s.tapLoad m)) (hm : (m == .sample) = false) (hrails : s.railsGood = true) :
    (s.plat.perst = true → ∃ t, exec i s = .next t ∧ t.plat.tap = m ∧ t.out = o :: s.out ∧
      t = { s with plat := t.plat, out := t.out }) ∧
    (s.plat.perst = false → ∃ t, exec i s = .next t ∧ t.plat.tap = .bypass ∧ t = { s with plat := t.plat }) := by
  rw [hi, if_neg (by rw [hrails]; decide)]
  refine ⟨fun hperst => ⟨_, rfl, ?_⟩, fun hperst => ⟨_, rfl, ?_⟩⟩
  · rw [if_pos hperst]
    exact ⟨if_pos (by rw [hperst]; rfl), rfl, rfl⟩
  · rw [if_neg (by rw [hperst]; decide)]
    exact ⟨if_neg (by rw [hperst, hm]; decide), rfl⟩

end

/-- Settles O54: reads by `smbRead_false` and `smbRead_true`, boundary scan by `tapDrive`. -/
theorem sidebandAnswers : Obligations.SidebandAnswers := by
  unfold Obligations.SidebandAnswers
  intro s w pec code ls pre floors status temps
  refine ⟨fun hheld => ⟨fun x hx => ?_, fun f h1 h0 => ?_, ?_, s.smbTrayLimitWrite_refused w hheld, s.smbTrayLimitWrite_writes w hheld,
    s.smbBadCommand_refused hheld, ?_⟩, fun hheld b i hi => ?_, fun hrails => ⟨s.jtagBypass_bypasses hrails,
    s.jtagSamplePreload_samples ls pre hrails, fun x hx => ?_⟩⟩
  · simp only [List.mem_cons, List.not_mem_nil, or_false] at hx
    rcases hx with rfl | rfl | rfl | rfl | rfl | rfl
    · exact s.smbRead_answers 2 _ hheld fun _ => rfl
    · exact s.smbRead_answers 3 _ hheld fun _ => rfl
    · exact s.smbRead_answers 4 _ hheld fun _ => rfl
    · exact s.smbRead_answers 5 _ hheld fun _ => rfl
    · exact s.smbRead_answers 6 _ hheld fun _ => rfl
    · exact s.smbRead_answers 0x10 _ hheld fun _ => rfl
  · obtain ⟨hout, hw⟩ := s.smbRead_false 0 (leBytes 1 s.smbStatus) hheld
    exact ⟨_, rfl, hout.trans (by rw [s.smbStatus_eq h1 h0]), hw⟩
  · obtain ⟨hmem, hle⟩ := s.smbTemp_highest
    exact ⟨_, s.smbTemp, rfl, (s.smbRead_false 1 _ hheld).1, hmem, hle⟩
  · exact s.smbAlertResponse_answers hheld
  · have hread : ∀ code bs pec, exec i s = .next (s.smbRead code bs pec) → exec i s = .next { s with out := .smbNack :: s.out } :=
      fun code bs pec h => by rw [h, s.smbRead_held code bs pec hheld]
    have hnack : ∀ {x : State}, exec i s = .next (if s.plat.held then s.emit .smbNack else x) →
        exec i s = .next { s with out := .smbNack :: s.out } := fun h => by rw [h, if_pos hheld, State.emit]
    simp only [List.mem_cons, List.not_mem_nil, or_false] at hi
    rcases hi with rfl | rfl | rfl | rfl | rfl | rfl | rfl | rfl | rfl | rfl | rfl
    · exact hread _ _ _ rfl
    · exact hread _ _ _ rfl
    · exact hread _ _ _ rfl
    · exact hread _ _ _ rfl
    · exact hread _ _ _ rfl
    · exact hread _ _ _ rfl
    · exact hread _ _ _ rfl
    · exact hread _ _ _ rfl
    · exact hnack rfl
    · exact hnack rfl
    · exact hnack rfl
  · simp only [List.mem_cons, List.not_mem_nil, or_false] at hx
    rcases hx with rfl | rfl | rfl
    · exact s.tapDrive rfl rfl hrails
    · exact s.tapDrive rfl rfl hrails
    · exact s.tapDrive rfl rfl hrails

end Sys2Proof.Machine
end

section
/-! PROOF. Writes of many granules (R203), the site of an address (R179, R180), and accesses that meet good lines (R171). -/
namespace Sys2Proof.Machine

/-! ### Writes of many granules -/

theorem State.granPoison_writeGran_of_clean {s : State} {g : Nat} (bs : List (Nat × Byte)) {j : Nat} (h : s.granPoison j = false) :
    (s.writeGran g bs).granPoison j = false := by
  by_cases hg : s.Takes g bs
  · have hp : (s.settle g).granPoison j = false := (s.granPoison_settle g j).trans h
    rw [State.writeGran_of_takes hg]
    rw [State.granPoison] at hp ⊢
    rw [NatSet.has_del, hp, Bool.and_false]
  · simp only [State.Takes, not_or, Bool.not_eq_false, Nat.not_le] at hg
    rw [s.writeGran_refused hg.1 hg.2, h]

/-- The cells of `bs` that lie in granule `g`. -/
def granCells (bs : List (Nat × Byte)) (g : Nat) : List (Nat × Byte) := bs.filter fun b => b.1 / 64 == g

theorem mem_granCells {bs : List (Nat × Byte)} {g : Nat} {b : Nat × Byte} : b ∈ granCells bs g ↔ b ∈ bs ∧ b.1 / 64 = g := by
  rw [granCells, List.mem_filter, beq_iff_eq]

theorem State.hbmByte_foldl_writeGran_ne {bs : List (Nat × Byte)} {k : Nat} (gs : List Nat) (hk : ∀ g ∈ gs, ∀ b ∈ granCells bs g, k ≠ b.1)
    (s : State) : (gs.foldl (fun t g => t.writeGran g (granCells bs g)) s).hbmByte k = s.hbmByte k := by
  induction gs generalizing s with
  | nil => rfl
  | cons g gs ih =>
    rw [List.foldl_cons, ih fun g' hg' => hk g' (List.mem_cons_of_mem _ hg')]
    exact State.hbmByte_writeGran_ne (hk g List.mem_cons_self)

theorem State.hbmByte_foldl_writeGran_mem {bs : List (Nat × Byte)} (hkeys : (bs.map Prod.fst).Nodup) {k : Nat} {v : Byte} (hk : (k, v) ∈ bs)
    {gs : List Nat} (hnd : gs.Nodup) (hg : k / 64 ∈ gs) {s : State} (hclean : s.granPoison (k / 64) = false) (hastray : s.mem.astray = []) :
    (gs.foldl (fun t g => t.writeGran g (granCells bs g)) s).hbmByte k = v := by
  induction gs generalizing s with
  | nil => exact absurd hg List.not_mem_nil
  | cons g gs ih =>
    obtain ⟨hnot, hnd'⟩ := List.nodup_cons.mp hnd
    rw [List.foldl_cons]
    by_cases hgk : g = k / 64
    · have hrest := State.hbmByte_foldl_writeGran_ne (bs := bs) (k := k) gs (fun g' hg' b hb hkb => hnot (by
        have hb64 := (mem_granCells.mp hb).2
        rw [hgk, hkb, hb64]
        exact hg')) (s.writeGran g (granCells bs g))
      rw [hrest, hgk]
      exact State.hbmByte_writeGran_mem (.inl hclean) (hkeys.sublist (List.filter_sublist.map _)) (mem_granCells.mpr ⟨hk, rfl⟩) hastray
    · have hin : k / 64 ∈ gs := (List.mem_cons.mp hg).resolve_left fun h => hgk h.symm
      exact ih hnd' hin (State.granPoison_writeGran_of_clean _ hclean) ((s.writeGran_writes g _).astray_eq.trans hastray)

theorem nodup_eraseDups {α : Type} [BEq α] [LawfulBEq α] (l : List α) : l.eraseDups.Nodup := by
  induction h : l.length using Nat.strong_induction_on generalizing l with
  | _ n ih =>
    cases l with
    | nil => exact List.nodup_nil
    | cons a l =>
      have hlen : (l.filter fun b => !b == a).length < n := by
        have := List.length_filter_le (fun b => !b == a) l
        rw [← h, List.length_cons]
        omega
      rw [List.eraseDups_cons]
      refine List.nodup_cons.mpr ⟨fun hmem => ?_, ih _ hlen _ rfl⟩
      have hne := (List.mem_filter.mp (List.mem_eraseDups.mp hmem)).2
      simp at hne

theorem State.hbmPut_eq (s : State) (bs : List (Nat × Byte)) :
    s.hbmPut bs = ((bs.map fun b => b.1 / 64).eraseDups).foldl (fun t g => t.writeGran g (granCells bs g)) s := rfl

/-- Every byte that is not written stays. -/
theorem State.hbmByte_hbmPut_ne {s : State} {bs : List (Nat × Byte)} {k : Nat} (hk : ∀ b ∈ bs, k ≠ b.1) :
    (s.hbmPut bs).hbmByte k = s.hbmByte k := by
  rw [State.hbmPut_eq]
  exact State.hbmByte_foldl_writeGran_ne _ (fun g _ b hb => hk b (mem_granCells.mp hb).1) s

/-- Every byte that is written to a granule without poison reads back. -/
theorem State.hbmByte_hbmPut_mem {s : State} {bs : List (Nat × Byte)} (hkeys : (bs.map Prod.fst).Nodup) {k : Nat} {v : Byte} (hk : (k, v) ∈ bs)
    (hclean : s.granPoison (k / 64) = false) (hastray : s.mem.astray = []) : (s.hbmPut bs).hbmByte k = v := by
  rw [State.hbmPut_eq]
  refine State.hbmByte_foldl_writeGran_mem hkeys hk (nodup_eraseDups _) ?_ hclean hastray
  rw [List.mem_eraseDups]
  exact List.mem_map.mpr ⟨_, hk, rfl⟩

theorem State.granPoison_hbmPut_of_clean {s : State} (bs : List (Nat × Byte)) {j : Nat} (h : s.granPoison j = false) :
    (s.hbmPut bs).granPoison j = false := by
  rw [State.hbmPut_eq]
  generalize ((bs.map fun b => b.1 / 64).eraseDups) = gs
  induction gs generalizing s with
  | nil => exact h
  | cons g gs ih => exact ih (State.granPoison_writeGran_of_clean _ h)

/-- Consecutive bytes written to granules without poison: each reads back, and every other byte stays. -/
theorem State.hbmByte_hbmPut_cells {s : State} {key : Nat} {bs : List Byte} (hclean : ∀ i < bs.length, s.granPoison ((key + i) / 64) = false)
    (hastray : s.mem.astray = []) (x : Nat) : (s.hbmPut (cells key bs)).hbmByte x =
      if key ≤ x ∧ x < key + bs.length then bs.getD (x - key) 0 else s.hbmByte x := by
  split
  · next h =>
    have hi : x - key < bs.length := by omega
    have hx : key + (x - key) = x := by omega
    have hmem : (x, bs.getD (x - key) 0) ∈ cells key bs := by
      refine mem_cells.mpr ⟨x - key, hi, ?_⟩
      rw [hx, List.getD_eq_getElem?_getD, List.getElem?_eq_getElem hi, Option.getD_some]
    exact State.hbmByte_hbmPut_mem (nodup_cells key bs) hmem (by rw [← hx]; exact hclean _ hi) hastray
  · next h =>
    refine State.hbmByte_hbmPut_ne fun b hb hxb => h ?_
    obtain ⟨i, hi, rfl⟩ := mem_cells.mp hb
    dsimp only at hxb
    omega

/-- No granule of a range is poisoned. -/
theorem granPoison_of_rangePoison {s : State} {key n : Nat} (h : s.rangePoison key n = false) : ∀ i < n, s.granPoison ((key + i) / 64) = false := by
  intro i hi
  unfold State.rangePoison granules at h
  rw [if_neg (by omega), List.any_eq_false] at h
  refine Bool.eq_false_iff.mpr (h _ (List.mem_map.mpr ⟨(key + i) / 64 - key / 64, List.mem_range.mpr ?_, ?_⟩))
  · omega
  · omega

/-! ### What the granules of an access meet (R171) -/

section
variable (s : State)

theorem granUses_hit {key n : Nat} : ∀ p ∈ granUses key n [], p.2 = {} := by
  intro p hp
  obtain ⟨i, -, rfl⟩ := List.mem_map.mp hp
  rfl

/-- A read whose granules good lines hold is only counted. -/
theorem State.readRange_hit (hint key n : Nat) : s.within [.io] (s.readRange hint key n []) ∧ s.KeepsRegs (s.readRange hint key n []) := by
  unfold State.readRange
  have h := granUses_hit (key := key) (n := n)
  generalize granUses key n [] = l at h
  induction l generalizing s with
  | nil => exact ⟨.refl _ _, .refl _⟩
  | cons p l ih =>
    obtain ⟨hw, hk⟩ := ih (s.granRead hint p.1 p.2) fun q hq => h q (List.mem_cons_of_mem _ hq)
    rw [h p List.mem_cons_self, State.granRead_hit] at hw hk
    rw [List.foldl_cons, h p List.mem_cons_self, State.granRead_hit]
    exact ⟨(s.event_within _ _ _).trans hw, (s.event_keepsRegs _ _ _).trans hk⟩

/-- A write whose granules good lines hold is only counted. -/
theorem State.writeRange_hit (hint key n : Nat) : s.within [.io] (s.writeRange hint key n []) ∧ s.KeepsRegs (s.writeRange hint key n []) := by
  unfold State.writeRange
  have h := granUses_hit (key := key) (n := n)
  generalize granUses key n [] = l at h
  induction l generalizing s with
  | nil => exact ⟨.refl _ _, .refl _⟩
  | cons p l ih =>
    obtain ⟨hw, hk⟩ := ih (s.granWrite hint p.1 p.2) fun q hq => h q (List.mem_cons_of_mem _ hq)
    rw [h p List.mem_cons_self, State.granWrite_hit] at hw hk
    rw [List.foldl_cons, h p List.mem_cons_self, State.granWrite_hit]
    exact ⟨(s.event_within _ _ _).trans hw, (s.event_keepsRegs _ _ _).trans hk⟩

end

/-! ### The site of an address (R179, R180) -/

/-- The registers beyond the headers, but for the record of a BAR2 fault. -/
abbrev mapAddr (a : Nat) : Prop := bodyAddr a ∧ a ≠ Page.pci.base + 0x110 ∧ a ≠ Page.pci.base + 0x114

theorem mapAddr_base_add {p : Page} (hp : p.base ≠ Page.pci.base) {j : Nat} (h1 : 0x100 ≤ j) (h2 : j < 0x1000) : mapAddr (p.base + j) := by
  have hm := p.base_mod
  have hpci : Page.pci.base % 0x1000 = 0 := Page.pci.base_mod
  refine ⟨bodyAddr_base_add p h1 h2, fun h => ?_, fun h => ?_⟩ <;> omega

/-- Two states translate alike: the same registers beyond the headers, the same Page Map, stacks and links. -/
abbrev State.SameMap (s t : State) : Prop := s.Calm mapAddr t ∧ t.mem.d2dDown = s.mem.d2dDown ∧ t.mem.lost = s.mem.lost ∧
  t.mem.pmap0 = s.mem.pmap0 ∧ t.mem.pmap1 = s.mem.pmap1 ∧ t.mem.failed = s.mem.failed

section
variable {s t u : State}

theorem State.SameMap.of_calm (hk : s.Calm mapAddr t) (hm : t.mem = s.mem) : s.SameMap t := by
  refine ⟨hk, ?_⟩
  rw [hm]
  exact ⟨rfl, rfl, rfl, rfl, rfl⟩

theorem State.SameMap.of_mem (hk : s.KeepsRegs t) (hm : t.mem = s.mem) : s.SameMap t := .of_calm (hk.mono fun _ ha => ha.1) hm

theorem State.SameMap.reg (h : s.SameMap t) {p : Page} (hp : p.base ≠ Page.pci.base) {j : Nat} (h1 : 0x100 ≤ j) (h2 : j < 0x1000) :
    t.reg p j = s.reg p j := h.1.reg (mapAddr_base_add hp h1 h2)

theorem State.SameMap.field (h : s.SameMap t) {p : Page} (hp : p.base ≠ Page.pci.base) {j : Nat} (hi lo : Nat) (h1 : 0x100 ≤ j)
    (h2 : j < 0x1000) : t.field p j hi lo = s.field p j hi lo := congrArg (fld · hi lo) (h.reg hp h1 h2)

theorem State.SameMap.b2Ctx (h : s.SameMap t) : t.b2Ctx = s.b2Ctx := h.1.field (p := .pci) 5 0 (by decide)

theorem State.SameMap.trans (h : s.SameMap t) (hu : t.SameMap u) : s.SameMap u := by
  obtain ⟨h0, h1, h2, h3, h4, h5⟩ := h
  obtain ⟨k0, k1, k2, k3, k4, k5⟩ := hu
  exact ⟨h0.trans k0, k1.trans h1, k2.trans h2, k3.trans h3, k4.trans h4, k5.trans h5⟩

theorem State.WritesMem.sameMap (h : s.WritesMem t) : s.SameMap t := by
  have hio : t.io = s.io := h.io_eq
  have hout : t.out = s.out := by rw [h.only_mem]
  refine ⟨.of_io hio hout, ?_⟩
  rw [State.WritesMem] at h
  rw [h]
  exact ⟨rfl, rfl, rfl, rfl, rfl⟩

theorem State.SameMap.winFrames (h : s.SameMap t) : t.winFrames = s.winFrames := by
  unfold State.winFrames State.field
  rw [h.reg (p := .pmap) (by decide) (by decide) (by decide)]

theorem State.SameMap.partMode (h : s.SameMap t) : t.partMode = s.partMode := h.field (p := .dev) (by decide) 1 0 (by decide) (by decide)

theorem State.SameMap.partOfDie (h : s.SameMap t) (k : Nat) : t.partOfDie k = s.partOfDie k := by
  unfold State.partOfDie
  rw [h.partMode]

theorem State.SameMap.partOfCtx (h : s.SameMap t) (c : Nat) : t.partOfCtx c = s.partOfCtx c := by
  unfold State.partOfCtx State.partCount
  rw [h.partMode]

theorem State.SameMap.strap (h : s.SameMap t) : t.strap = s.strap := h.reg (p := .stp) (by decide) (by decide) (by decide)

theorem State.SameMap.routeDown (h : s.SameMap t) (a b : Nat) : t.routeDown a b = s.routeDown a b := by
  unfold State.routeDown
  rw [h.2.1]

/-- Translation sees of the views that of its context alone. -/
theorem State.SameMap.translate_of_view (h : s.SameMap t) (die copy : Nat) {c : Nat}
    (hview : t.reg .pmap (0x200 + 4 * c) = s.reg .pmap (0x200 + 4 * c)) (k : Acc) (a : Nat) :
    t.translate die copy c k a = s.translate die copy c k a := by
  obtain ⟨-, hdown, hlost, h0, h1, hfailed⟩ := id h
  have hpermits : ∀ e, t.viewPermits c e k = s.viewPermits c e k := fun e => by
    unfold State.viewPermits
    rw [hview]
  unfold State.translate State.translateEntry State.pmapEntry State.mySlot
  rw [h.routeDown, hlost, h0, h1, h.partOfCtx, h.strap, h.winFrames, hfailed]
  simp only [h.routeDown, h.partOfDie, hpermits]

theorem State.SameMap.translate (h : s.SameMap t) (die copy : Nat) {c : Nat} (hc : c < 64) (k : Acc) (a : Nat) :
    t.translate die copy c k a = s.translate die copy c k a :=
  h.translate_of_view die copy (h.reg (p := .pmap) (by decide) (by omega) (by omega)) k a

theorem State.SameMap.siteOf (h : s.SameMap t) (a : Nat) {x : Except Nat Place} (hx : ∀ w, x = .ok (.remote w) → w < 8) :
    t.siteOf a x = s.siteOf a x := by
  unfold State.siteOf
  split
  · rfl
  · rfl
  · unfold State.myGroup State.myHalf
    rw [h.strap]
  · next w =>
    have hw := hx w rfl
    rw [h.reg (p := .prt2 0) (by decide) (by omega) (by omega), h.field (p := .prt2 0) (by decide) 18 0 (by omega) (by omega)]

theorem State.SameMap.site_of_view (h : s.SameMap t) (die copy : Nat) {c : Nat}
    (hview : t.reg .pmap (0x200 + 4 * c) = s.reg .pmap (0x200 + 4 * c)) (k : Acc) (a : Nat) :
    t.site die copy c k a = s.site die copy c k a := by
  unfold State.site
  rw [h.translate_of_view die copy hview, h.siteOf]
  exact fun w hw => State.translate_remote_lt hw

theorem State.SameMap.site (h : s.SameMap t) (die copy : Nat) {c : Nat} (hc : c < 64) (k : Acc) (a : Nat) :
    t.site die copy c k a = s.site die copy c k a :=
  h.site_of_view die copy (h.reg (p := .pmap) (by decide) (by omega) (by omega)) k a

end

/-- A place further on in the same page. -/
def Place.later (j : Nat) : Place → Place
  | .local st x => .local st (x + j)
  | p => p

section
variable {s : State} {die copy c a j : Nat} {k : Acc}

theorem pageOf_add (h : a % 2 ^ 24 + j < 2 ^ 24) : pageOf (a + j) = pageOf a := by
  unfold pageOf
  omega

theorem State.translateEntry_add (h : a % 2 ^ 24 + j < 2 ^ 24) (e : W64) :
    s.translateEntry die c k (a + j) e = (s.translateEntry die c k a e).map (Place.later j) := by
  unfold State.translateEntry
  have hmod : (a + j) % 2 ^ 24 = a % 2 ^ 24 + j := by omega
  rw [hmod]
  generalize a % 2 ^ 24 = o
  split
  · rfl
  split
  · rfl
  extract_lets tgt st
  split
  · rfl
  split
  · rfl
  split
  · rfl
  split
  · rfl
  split
  · rfl
  split
  · rfl
  · rw [← Nat.add_assoc]
    rfl

theorem State.translate_add (h : a % 2 ^ 24 + j < 2 ^ 24) :
    s.translate die copy c k (a + j) = (s.translate die copy c k a).map (Place.later j) := by
  unfold State.translate
  rw [pageOf_add h, State.translateEntry_add h]
  split
  · rfl
  split
  · rfl
  · rfl

/-- What lies further on in the same page lies further on in the same stack. -/
theorem State.site_add_here {key : Nat} (h : a % 2 ^ 24 + j < 2 ^ 24) (hs : s.site die copy c k a = .ok (.here key)) :
    s.site die copy c k (a + j) = .ok (.here (key + j)) := by
  unfold State.site at hs ⊢
  rw [State.translate_add h]
  generalize s.translate die copy c k a = x at hs
  match x with
  | .error r => exact absurd hs (by simp [State.siteOf])
  | .ok (.board slot) => exact absurd hs (by simp [State.siteOf])
  | .ok (.remote w) =>
    unfold State.siteOf at hs
    dsimp only at hs
    split at hs <;> simp at hs
  | .ok (.local st x) =>
    simp only [State.siteOf, Except.ok.injEq, Site.here.injEq] at hs
    simp only [Except.map, Place.later, State.siteOf, memKey, ← hs]
    rw [Nat.add_assoc]

/-- A fault of an address is one of its page. -/
theorem State.site_add_error {r : Nat} (h : a % 2 ^ 24 + j < 2 ^ 24) (hs : s.site die copy c k a = .error r) :
    s.site die copy c k (a + j) = .error r := by
  unfold State.site at hs ⊢
  rw [State.translate_add h]
  generalize s.translate die copy c k a = x at hs
  match x with
  | .error r' => exact hs
  | .ok (.board slot) => exact absurd hs (by simp [State.siteOf])
  | .ok (.local st x) => exact absurd hs (by simp [State.siteOf])
  | .ok (.remote w) =>
    unfold State.siteOf at hs ⊢
    dsimp only [Except.map, Place.later] at hs ⊢
    split at hs
    · next hv => rw [if_pos hv]; exact hs
    · simp at hs

end

/-! ### Ranges within 2 KiB (R190, R290) -/

theorem pieces_of_fit {a n : Nat} (hn : n ≠ 0) (hfit : n + a % 2048 ≤ 2048) : pieces a n = [(a % 2 ^ 43, n, 0)] := by
  have hm : min n (2048 - a % 2048) = n := by omega
  unfold pieces
  rw [show n / 2048 + 2 = (n / 2048 + 1) + 1 from rfl, pieces2k, if_neg hn, hm]
  dsimp only
  rw [Nat.sub_self, pieces2k, if_pos rfl]

end Sys2Proof.Machine
end

section
/-! PROOF. BAR2: reads and writes through the Page Map, and those that go no further (R502, R510). -/
namespace Sys2Proof.Machine

section
variable (s : State)

theorem fld_w32 (n lo : Nat) {hi : Nat} (h : hi < 32) : fld (w32 n) hi lo = n / 2 ^ lo % 2 ^ (hi + 1 - lo) := by
  apply Nat.eq_of_testBit_eq
  intro i
  simp only [fld, w32, testBit_bits, BitVec.toNat_ofNat, Nat.testBit_mod_two_pow, Nat.testBit_div_two_pow]
  by_cases hi' : i < hi + 1 - lo
  · simp [hi', show lo + i < 32 by omega, Nat.add_comm]
  · simp [hi']

theorem State.setHost_within (h : HostIf) : s.within [.host] { s with host := h } := rfl

theorem State.b2Ctx_lt : s.b2Ctx < 64 := fld_lt _ 5 0

theorem State.b2Addr_lt (o : Nat) : s.b2Addr o < 2 ^ 43 := Nat.mod_lt _ (Nat.two_pow_pos 43)

/-! ### The event of an access -/

/-- Counting an access changes counters alone. -/
abbrev State.Counted (s t : State) : Prop := s.within [.io] t ∧ s.KeepsRegs t

theorem State.counted_event (p : Page) (code n : Nat) : s.Counted (s.event p code n) := ⟨s.event_within p code n, s.event_keepsRegs p code n⟩

section
variable {s : State} {t u : State}

theorem State.Counted.refl (s : State) : s.Counted s := ⟨.refl _ _, .refl _⟩
theorem State.Counted.trans (h : s.Counted t) (hu : t.Counted u) : s.Counted u := ⟨h.1.trans hu.1, h.2.trans hu.2⟩
theorem State.Counted.mem (h : s.Counted t) : t.mem = s.mem := h.1.mem (by decide)
theorem State.Counted.free (h : s.Counted t) : t.free = s.free := h.1.free (by decide)
theorem State.Counted.out (h : s.Counted t) : t.out = s.out := h.1.out (by decide)
theorem State.Counted.ridges (h : s.Counted t) : t.ridges = s.ridges := h.1.ridges (by decide)
theorem State.Counted.dmas (h : s.Counted t) : t.dmas = s.dmas := h.1.dmas (by decide)
theorem State.Counted.sameMap (h : s.Counted t) : s.SameMap t := .of_mem h.2 h.mem
theorem State.Counted.hbmByte (h : s.Counted t) (k : Nat) : t.hbmByte k = s.hbmByte k := State.hbmByte_congr h.mem h.free k

theorem State.Counted.keyBytes (h : s.Counted t) (k n : Nat) : t.keyBytes k n = s.keyBytes k n := by
  unfold State.keyBytes State.granPoison
  rw [h.mem]
  exact List.map_congr_left fun i _ => by rw [h.hbmByte]

theorem State.Counted.unwritten (h : s.Counted t) (op a : Nat) : t.unwritten op a = s.unwritten op a := by
  unfold State.unwritten
  rw [h.ridges]

end

/-! ### The end of an access -/

theorem State.hostEnd_write (x : HostAcc) (hwait : x.wait = []) (hbad : x.bad = false) (hwr : x.wr = true) :
    s.within [.host] (s.hostEnd x) := by
  unfold State.hostEnd
  rw [if_neg (by rw [hwait]; decide)]
  extract_lets h t u
  have hu : u = t := if_neg (by rw [hbad]; decide)
  rw [if_pos hwr, hu]
  exact s.setHost_within _

theorem State.hostEnd_read (x : HostAcc) (hwait : x.wait = []) (hbad : x.bad = false) (hwr : x.wr = false) :
    ∃ u, s.within [.host] u ∧ s.hostEnd x = u.b2Complete x.bytes := by
  unfold State.hostEnd
  rw [if_neg (by rw [hwait]; decide)]
  extract_lets h t u
  have hu : u = t := if_neg (by rw [hbad]; decide)
  rw [if_neg (by rw [hwr]; decide), if_neg (by rw [hbad]; decide), hu]
  exact ⟨t, s.setHost_within _, rfl⟩

/-- A completion is the last thing that the device sends. -/
theorem State.b2Complete_sends (bs : List OutByte) :
    (s.b2Complete bs).out.head? = some (.hostRead (bs.map Prod.fst) (bs.any Prod.snd)) ∧
      (bs.any Prod.snd = true → (s.b2Complete bs).flag .pci 0x010 1 = true) ∧ (s.b2Complete bs).mem = s.mem := by
  unfold State.b2Complete
  extract_lets ep
  refine ⟨rfl, fun hep => ?_, ?_⟩
  · rw [if_pos hep]
    exact State.flag_setErr _ _ _ (by decide)
  · split
    · exact (s.setErr_within _ _).mem (by decide)
    · rfl

/-- A fault is recorded, and the record of an earlier one is kept (R525). -/
theorem State.b2Fault_records (reason a : Nat) : s.within [.io, .out] (s.b2Fault reason a) ∧ s.SameMap (s.b2Fault reason a) ∧
    (s.b2Fault reason a).flag .pci 0x010 0 = true ∧
    (s.flag .pci 0x114 31 = false → reason < 256 → (s.b2Fault reason a).flag .pci 0x114 31 = true ∧
      (s.b2Fault reason a).field .pci 0x114 23 16 = reason ∧ (s.b2Fault reason a).reg .pci 0x110 = w32 a) := by
  unfold State.b2Fault
  extract_lets t
  have htw : s.within [.io] t := .ite (fun _ => .refl _ _) fun _ => (s.setReg_within _ _ _).trans (State.setReg_within _ _ _ _)
  have htc : s.Calm mapAddr t := .ite (.refl _)
    ((s.setReg_calm .pci 0x110 _ fun h => h.2.1 rfl).trans (State.setReg_calm _ .pci 0x114 _ fun h => h.2.2 rfl))
  have hw : s.within [.io, .out] (t.setErr .pci 0) := (htw.mono (by decide)).trans (t.setErr_within _ _)
  refine ⟨hw, .of_calm (htc.trans ((t.setErr_keepsRegs .pci 0).mono fun _ ha => ha.1)) (hw.mem (by decide)), State.flag_setErr t .pci 0 (by decide), fun hflag hreason => ?_⟩
  have ht : t = (s.setReg .pci 0x110 (w32 a)).setReg .pci 0x114 (w32 (2 ^ 31 + reason * 65536 + a / 2 ^ 32 % 2048)) :=
    if_neg (by rw [hflag]; decide)
  have hk := t.setErr_keepsRegs .pci 0
  have h114 : t.reg .pci 0x114 = w32 (2 ^ 31 + reason * 65536 + a / 2 ^ 32 % 2048) := by rw [ht, State.reg_setReg_same]
  have h110 : t.reg .pci 0x110 = w32 a := by rw [ht, State.reg_setReg_off _ _ (by decide), State.reg_setReg_same]
  refine ⟨?_, ?_, (hk.reg .pci (by decide) (by decide)).trans h110⟩
  · rw [State.flag, hk.reg .pci (by decide) (by decide), h114, bitOf_w32 _ _ (by decide)]
    exact decide_eq_true (by omega)
  · rw [State.field, hk.reg .pci (by decide) (by decide), h114, fld_w32 _ _ (by decide)]
    omega

end

end Sys2Proof.Machine
end

section
/-! PROOF. Reads and writes of BAR2 within one 2 KiB range (R502, R510). -/
namespace Sys2Proof.Machine

section
variable (s : State)

/-! ### Reads -/

theorem State.lookup_counted (a : Nat) : s.Counted (s.lookup 4 0 a .clean) := by
  rw [State.lookup_beside]
  exact s.counted_event _ _ _

theorem State.hostBegin_within (wr : Bool) (a n : Nat) : s.within [.host] (s.hostBegin wr a n).1 := s.setHost_within _

theorem State.within_host_counts {t u : State} (h : s.within [.host] t) (hu : t.Counted u) :
    u.mem = s.mem ∧ u.free = s.free ∧ u.out = s.out ∧ u.ridges = s.ridges ∧ u.dmas = s.dmas ∧ s.KeepsRegs u :=
  ⟨hu.mem.trans (h.mem (by decide)), hu.free.trans (h.free (by decide)), hu.out.trans (h.out (by decide)),
    hu.ridges.trans (h.ridges (by decide)), hu.dmas.trans (h.dmas (by decide)), (h.calm (by decide) (by decide)).trans hu.2⟩

/-- One piece of a read that is served here takes its bytes. -/
theorem State.b2Piece_here (x : HostAcc) {a n key : Nat} (hsite : s.site 4 0 s.b2Ctx .rd a = .ok (.here key))
    (hwritten : ∀ i < n, s.unwritten 0 ((a + i) % 2 ^ 43) = false) :
    ∃ u, s.Counted u ∧ s.b2Piece x (a, n, 0) [] = (u, { x with got := x.got ++ [(0, s.keyBytes key n)] }) := by
  obtain hr : s.Counted (s.readRange 0 key n []) := s.readRange_hit 0 key n
  have hlen : (s.keyBytes key n).length = n := by rw [State.keyBytes, List.length_map, List.length_range]
  refine ⟨_, hr, ?_⟩
  unfold State.b2Piece
  dsimp only
  rw [hsite]
  dsimp only
  rw [hr.keyBytes, State.asRead_of_written _ _ _ _ fun i hi => by rw [hr.unwritten]; exact hwritten i (hlen ▸ hi)]

/-- A read that one place of this device serves (R502). -/
theorem State.b2Read_here {a n key : Nat} (hn : n ≠ 0) (ha : a < 2 ^ 43) (hfit : n + a % 2048 ≤ 2048)
    (hsite : s.site 4 0 s.b2Ctx .rd a = .ok (.here key)) (hwritten : ∀ i < n, s.unwritten 0 ((a + i) % 2 ^ 43) = false) :
    ∃ u : State, s.b2Read a n {} = u.b2Complete (s.keyBytes key n) ∧ u.mem = s.mem := by
  have hps : pieces a n = [(a, n, 0)] := by rw [pieces_of_fit hn hfit, Nat.mod_eq_of_lt ha]
  unfold State.b2Read
  extract_lets ps s0 bad b r
  have hs0 : s0 = s.lookup 4 0 a .clean := by simp only [s0, ps, hps]; rfl
  have hcount : s.Counted s0 := hs0 ▸ s.lookup_counted a
  have hctx : s0.b2Ctx = s.b2Ctx := hcount.2.field .pci 5 0 (by decide) (by decide)
  have hsite0 : s0.site 4 0 s0.b2Ctx .rd a = .ok (.here key) := by
    rw [hctx, hcount.sameMap.site 4 0 s.b2Ctx_lt, hsite]
  have hbad : bad = [] := by
    simp only [bad, ps, hps, List.filterMap_cons, hsite0, List.filterMap_nil]
  rw [hbad]
  have hb : s0.within [.host] b.1 := s0.hostBegin_within false a n
  have hx : b.2 = { key := s0.host.nextKey, wr := false, addr := a, len := n } := rfl
  clear_value b
  have hc := s0.within_host_counts hb (.refl b.1)
  obtain ⟨hmem, hfree, hout, hridges, -, hregs⟩ := hc
  have hmap : s.SameMap b.1 := hcount.sameMap.trans (.of_mem hregs hmem)
  have hctxb : b.1.b2Ctx = s.b2Ctx := (hregs.field .pci 5 0 (by decide) (by decide)).trans hctx
  have hsiteb : b.1.site 4 0 b.1.b2Ctx .rd a = .ok (.here key) := by rw [hctxb, hmap.site 4 0 s.b2Ctx_lt, hsite]
  have hunb : ∀ i < n, b.1.unwritten 0 ((a + i) % 2 ^ 43) = false := fun i hi => by
    rw [State.unwritten, hridges]
    exact (hcount.unwritten 0 _).trans (hwritten i hi)
  have hbytes : b.1.keyBytes key n = s.keyBytes key n := by
    rw [← hcount.keyBytes]
    unfold State.keyBytes State.granPoison
    rw [hmem]
    exact List.map_congr_left fun i _ => by rw [State.hbmByte_congr hmem hfree]
  obtain ⟨u, hu, hpiece⟩ := b.1.b2Piece_here b.2 hsiteb hunb
  have hr : r.1 = (u, { b.2 with got := b.2.got ++ [(0, s.keyBytes key n)] }) := by
    simp only [r, ps, hps, List.foldl_cons, List.foldl_nil, List.drop_nil]
    rw [hpiece, hbytes]
  clear_value r
  dsimp only
  obtain ⟨v, hv, hend⟩ := u.hostEnd_read r.1.2 (by rw [hr, hx]) (by rw [hr, hx]) (by rw [hr, hx])
  have hgot : r.1.2.bytes = s.keyBytes key n := by
    rw [hr, hx]
    exact List.append_nil _
  have hu1 : r.1.1 = u := by rw [hr]
  refine ⟨v, by rw [hu1, hend, hgot], ?_⟩
  rw [hv.mem (by decide), hu.mem, hmem, hcount.mem]

/-- A read whose piece faults fails (R502, R525). -/
theorem State.b2Read_fault {a n r : Nat} (hn : n ≠ 0) (ha : a < 2 ^ 43) (hfit : n + a % 2048 ≤ 2048)
    (hsite : s.site 4 0 s.b2Ctx .rd a = .error r) :
    ∃ u, s.Counted u ∧ s.b2Read a n {} = (u.b2Fault r a).emit (.hostRead (List.replicate n 0xFF#8) false) := by
  have hps : pieces a n = [(a, n, 0)] := by rw [pieces_of_fit hn hfit, Nat.mod_eq_of_lt ha]
  unfold State.b2Read
  extract_lets ps s0 bad b r'
  have hs0 : s0 = s.lookup 4 0 a .clean := by simp only [s0, ps, hps]; rfl
  have hcount : s.Counted s0 := hs0 ▸ s.lookup_counted a
  have hctx : s0.b2Ctx = s.b2Ctx := hcount.2.field .pci 5 0 (by decide) (by decide)
  have hsite0 : s0.site 4 0 s0.b2Ctx .rd a = .error r := by
    rw [hctx, hcount.sameMap.site 4 0 s.b2Ctx_lt, hsite]
  have hbad : bad = [(r, a)] := by
    simp only [bad, ps, hps, List.filterMap_cons, hsite0, List.filterMap_nil]
  rw [hbad]
  exact ⟨s0, hcount, rfl⟩

/-! ### Writes -/

theorem badCells_clean (key : Nat) (bs : List Byte) : ∀ c ∈ ((List.range (clean bs).length).zip (clean bs)).map
    (fun p : Nat × OutByte => (key + p.1, p.2)), c.2.2 = false := by
  intro c hc
  obtain ⟨p, hp, rfl⟩ := List.mem_map.mp hc
  have hmem := (List.of_mem_zip hp).2
  obtain ⟨x, -, hx⟩ := List.mem_map.mp hmem
  dsimp only
  rw [← hx]

theorem State.putLocal_clean (key : Nat) (bs : List Byte) : s.putLocal key (clean bs) = s.hbmPut (cells key bs) := by
  have hall := badCells_clean key bs
  unfold State.putLocal
  extract_lets cs bad good
  have hbad : bad = [] := by
    have hnone : cs.filter (fun c => c.2.2) = [] := List.filter_eq_nil_iff.mpr fun c hc => by rw [hall c hc]; decide
    simp only [bad, hnone, List.map_nil]
  have hgood : good = cs := by
    simp only [good, hbad]
    exact List.filter_eq_self.mpr fun c _ => rfl
  rw [hbad, hgood]
  have hcs : cs.map (fun c => (c.1, c.2.1)) = cells key bs := by
    refine List.ext_getElem (by simp [cs, clean]) fun i hi _ => ?_
    simp [cs, clean, cells]
  rw [hcs]
  rfl

/-- A write that no channel writes as well lands as it is (R279). -/
theorem State.putBoard_clean (a key : Nat) (bs : List Byte) (hrace : ∀ i < bs.length, s.dmaDest none false ((a + i) % 2 ^ 43) = false) :
    s.putBoard a key (clean bs) = s.hbmPut (cells key bs) := by
  have hdmas : (s.hbmPut (cells key bs)).dmas = s.dmas := by rw [(s.hbmPut_writes _).only_mem]
  unfold State.putBoard State.smear
  extract_lets hit
  have hhit : hit = [] := by
    refine List.filter_eq_nil_iff.mpr fun i hi => ?_
    have hlt : i < bs.length := by
      have := List.mem_range.mp hi
      rwa [clean, List.length_map] at this
    rw [hrace i hlt]
    decide
  rw [if_pos (by rw [hhit]; rfl), State.putLocal_clean]

/-- A write within one 2 KiB range that this device serves (R502). -/
theorem State.writeBoard_here {a key : Nat} {bs : List Byte} {c : Nat} (hc : c < 64) (who : Who) (hne : bs ≠ []) (ha : a < 2 ^ 43)
    (hfit : bs.length + a % 2048 ≤ 2048) (hsite : s.site 4 0 c .wr a = .ok (.here key))
    (hrace : ∀ i < bs.length, s.dmaDest none false ((a + i) % 2 ^ 43) = false) :
    ∃ u, s.Counted u ∧ (s.writeBoard (.die 4 0) c a 0 (clean bs) who {}).s = u.hbmPut (cells key bs) ∧
      (s.writeBoard (.die 4 0) c a 0 (clean bs) who {}).fault = 0 ∧
      (s.writeBoard (.die 4 0) c a 0 (clean bs) who {}).remote = 0 := by
  have hlen : (clean bs).length = bs.length := by rw [clean, List.length_map]
  have hps : pieces a (clean bs).length = [(a, bs.length, 0)] := by
    rw [hlen, pieces_of_fit (fun h => hne (List.eq_nil_of_length_eq_zero h)) hfit, Nat.mod_eq_of_lt ha]
  have hcount : s.Counted (s.event .pmap 0x02 1) := s.counted_event _ _ _
  have hsite' : (s.event .pmap 0x02 1).siteBy (.die 4 0) c .wr a = .ok (.here key) := (hcount.sameMap.site 4 0 hc .wr a).trans hsite
  have hw : (s.event .pmap 0x02 1).Counted ((s.event .pmap 0x02 1).writeRange 0 key (clean bs).length []) :=
    (s.event .pmap 0x02 1).writeRange_hit 0 key _
  have hpiece : s.writeBoard (.die 4 0) c a 0 (clean bs) who {} =
      { ({ s := s } : Wrote) with
        s := ((s.event .pmap 0x02 1).writeRange 0 key (clean bs).length []).putBoard a key (clean bs)
        used := 0 + (granules key (clean bs).length).length } := by
    unfold State.writeBoard
    rw [hps]
    have htake : ((clean bs).drop 0).take bs.length = clean bs := by rw [List.drop_zero, ← hlen, List.take_length]
    change Wrote.piece { s := s } (.die 4 0) c 0 who [] a (((clean bs).drop 0).take bs.length) .clean = _
    rw [htake]
    unfold Wrote.piece
    have hwalk : ({ s := s } : Wrote).s.walk (.die 4 0) a .clean = s.event .pmap 0x02 1 := rfl
    extract_lets t
    have ht : t = s.event .pmap 0x02 1 := hwalk
    clear_value t
    subst ht
    rw [hsite']
    rfl
  have hall := hcount.trans hw
  refine ⟨_, hall, ?_, ?_, ?_⟩
  · rw [hpiece]
    refine State.putBoard_clean _ a key bs fun i hi => ?_
    rw [State.dmaDest, hall.dmas]
    exact hrace i hi
  · rw [hpiece]
  · rw [hpiece]

/-- A write whose address faults changes no memory (R193, R502). -/
theorem State.writeBoard_fault {a r : Nat} {bs : List Byte} {c : Nat} (hc : c < 64) (who : Who) (hne : bs ≠ []) (ha : a < 2 ^ 43)
    (hfit : bs.length + a % 2048 ≤ 2048) (hsite : s.site 4 0 c .wr a = .error r) :
    s.Counted (s.writeBoard (.die 4 0) c a 0 (clean bs) who {}).s ∧
      (s.writeBoard (.die 4 0) c a 0 (clean bs) who {}).fault = r ∧
      (s.writeBoard (.die 4 0) c a 0 (clean bs) who {}).remote = 0 := by
  have hlen : (clean bs).length = bs.length := by rw [clean, List.length_map]
  have hps : pieces a (clean bs).length = [(a, bs.length, 0)] := by
    rw [hlen, pieces_of_fit (fun h => hne (List.eq_nil_of_length_eq_zero h)) hfit, Nat.mod_eq_of_lt ha]
  have hcount : s.Counted (s.event .pmap 0x02 1) := s.counted_event _ _ _
  have hsite' : (s.event .pmap 0x02 1).siteBy (.die 4 0) c .wr a = .error r := (hcount.sameMap.site 4 0 hc .wr a).trans hsite
  have hpiece : s.writeBoard (.die 4 0) c a 0 (clean bs) who {} =
      { ({ s := s } : Wrote) with s := s.event .pmap 0x02 1, fault := r, faultAddr := a } := by
    unfold State.writeBoard
    rw [hps]
    change Wrote.piece { s := s } (.die 4 0) c 0 who [] a (((clean bs).drop 0).take bs.length) .clean = _
    unfold Wrote.piece
    extract_lets t
    have ht : t = s.event .pmap 0x02 1 := rfl
    clear_value t
    subst ht
    rw [hsite']
    rfl
  rw [hpiece]
  exact ⟨hcount, rfl, rfl⟩

end

end Sys2Proof.Machine
end

section
/-! PROOF. The runs of enabled bytes of a BAR2 write, and what they leave in memory (R502). -/
namespace Sys2Proof.Machine

/-! ### The runs of enabled bytes -/

/-- A run whose bytes are those of `l`, all of them enabled; the run's offsets count from `i`. -/
def RunOf (i : Nat) (l : List (Byte × Bool)) (p : Nat × List Byte) : Prop :=
  p.2 ≠ [] ∧ i ≤ p.1 ∧ ∀ k b, p.2[k]? = some b → l[p.1 - i + k]? = some (b, true)

/-- A run covers an offset. -/
def covers (p : Nat × List Byte) (o : Nat) : Prop := p.1 ≤ o ∧ o < p.1 + p.2.length

theorem RunOf.tail {i : Nat} {x : Byte × Bool} {l : List (Byte × Bool)} {p : Nat × List Byte} (h : RunOf (i + 1) l p) :
    RunOf i (x :: l) p := by
  obtain ⟨hne, hle, hbytes⟩ := h
  refine ⟨hne, by omega, fun k b hk => ?_⟩
  rw [show p.1 - i + k = (p.1 - (i + 1) + k) + 1 by omega, List.getElem?_cons_succ]
  exact hbytes k b hk

theorem runOf_single (i : Nat) (b : Byte) (l : List (Byte × Bool)) : RunOf i ((b, true) :: l) (i, [b]) := by
  refine ⟨List.cons_ne_nil _ _, Nat.le_refl i, fun k c hk => ?_⟩
  cases k with
  | zero =>
    rw [Nat.sub_self]
    exact congrArg (Option.map (·, true)) hk
  | succ k => exact absurd hk (by simp)

theorem RunOf.cons {i : Nat} {b : Byte} {bs : List Byte} {l : List (Byte × Bool)} (h : RunOf (i + 1) l (i + 1, bs)) :
    RunOf i ((b, true) :: l) (i, b :: bs) := by
  obtain ⟨-, -, hbytes⟩ := h
  refine ⟨List.cons_ne_nil _ _, Nat.le_refl i, fun k c hk => ?_⟩
  cases k with
  | zero =>
    rw [Nat.sub_self]
    exact congrArg (Option.map (·, true)) hk
  | succ k =>
    have hb := hbytes k c hk
    rw [Nat.sub_self, Nat.zero_add] at hb ⊢
    exact hb

/-- The runs are made of the enabled bytes. -/
theorem byteRuns_runOf (i : Nat) (l : List (Byte × Bool)) : ∀ p ∈ byteRuns i l, RunOf i l p := by
  induction l generalizing i with
  | nil => exact fun p hp => absurd hp List.not_mem_nil
  | cons x l ih =>
    obtain ⟨b, en⟩ := x
    have htail := ih (i + 1)
    unfold byteRuns
    extract_lets t
    change ∀ p ∈ t, RunOf (i + 1) l p at htail
    clear_value t
    split
    · exact fun p hp => (htail p hp).tail
    · next hen =>
      have hen' : en = true := by simpa using hen
      subst hen'
      split
      · next j bs u =>
        split
        · next hj =>
          subst hj
          intro p hp
          rcases List.mem_cons.mp hp with rfl | hp
          · exact (htail _ List.mem_cons_self).cons
          · exact (htail p (List.mem_cons_of_mem _ hp)).tail
        · intro p hp
          rcases List.mem_cons.mp hp with rfl | hp
          · exact runOf_single i b l
          · exact (htail p hp).tail
      · intro p hp
        obtain rfl := List.mem_singleton.mp hp
        exact runOf_single i b l

/-- Every enabled byte is in a run. -/
theorem byteRuns_covers (i : Nat) (l : List (Byte × Bool)) {o : Nat} {b : Byte} (h : l[o]? = some (b, true)) :
    ∃ p ∈ byteRuns i l, covers p (i + o) := by
  induction l generalizing i o with
  | nil => exact absurd h (by simp)
  | cons x l ih =>
    obtain ⟨c, en⟩ := x
    have htail : ∀ k, l[k]? = some (b, true) → ∃ p ∈ byteRuns (i + 1) l, covers p (i + 1 + k) := fun k hk => ih (i + 1) hk
    unfold byteRuns
    extract_lets t
    change ∀ k, l[k]? = some (b, true) → ∃ p ∈ t, covers p (i + 1 + k) at htail
    clear_value t
    cases o with
    | zero =>
      have hen : en = true := by simpa using congrArg (Option.map Prod.snd) h
      rw [if_neg (by rw [hen]; decide)]
      split
      · split
        · exact ⟨_, List.mem_cons_self, Nat.le_refl i, by simp⟩
        · exact ⟨_, List.mem_cons_self, Nat.le_refl i, by simp⟩
      · exact ⟨_, List.mem_cons_self, Nat.le_refl i, by simp⟩
    | succ k =>
      obtain ⟨p, hp, hlo, hhi⟩ := htail k (by simpa using h)
      split
      · exact ⟨p, hp, by omega, by omega⟩
      split
      · next j bs u =>
        split
        · next hj =>
          rcases List.mem_cons.mp hp with rfl | hp
          · refine ⟨_, List.mem_cons_self, ?_, ?_⟩
            · dsimp only
              omega
            · dsimp only [List.length_cons] at hhi ⊢
              omega
          · exact ⟨p, List.mem_cons_of_mem _ hp, by omega, by omega⟩
        · exact ⟨p, List.mem_cons_of_mem _ hp, by omega, by omega⟩
      · exact absurd hp List.not_mem_nil

/-- A run ends with the bytes. -/
theorem RunOf.end_le {l : List (Byte × Bool)} {p : Nat × List Byte} (h : RunOf 0 l p) : p.1 + p.2.length ≤ l.length := by
  obtain ⟨hne, -, hbytes⟩ := h
  have hpos := List.length_pos_iff.mpr hne
  have hlast := hbytes (p.2.length - 1) _ (List.getElem?_eq_getElem (by omega))
  have hlt := (List.getElem?_eq_some_iff.mp hlast).1
  omega

/-! ### The runs of a write -/

/-- What a write of a BAR2 range needs of the device: one place serves it, nothing there is poisoned or free, no channel writes it. -/
abbrev State.HostTakes (s : State) (a key n : Nat) : Prop := s.site 4 0 s.b2Ctx .wr a = .ok (.here key) ∧ s.mem.astray = [] ∧
  (∀ i < n, s.granPoison ((key + i) / 64) = false) ∧ ∀ i < n, s.dmaDest none false ((a + i) % 2 ^ 43) = false

/-- One run of a BAR2 write. -/
def b2Run (a : Nat) (t : (State × HostAcc) × MemUse) (p : Nat × List Byte) : (State × HostAcc) × MemUse :=
  let b := (a + p.1) % 2 ^ 43
  let w := t.1.1.writeBoard (.die 4 0) t.1.1.b2Ctx b 0 (p.2.map fun x => (x, false)) (.host t.1.2.key 0) t.2
  let u := if w.fault = 0 then w.s else w.s.b2Fault w.fault w.faultAddr
  ((u, { t.1.2 with wait := t.1.2.wait ++ List.replicate w.remote 0 }),
    { pm := t.2.pm.drop (pieces b p.2.length).length, gran := t.2.gran.drop w.used })

theorem State.b2Write_eq (s : State) (a n : Nat) (runs : List (Nat × List Byte)) (m : MemUse) :
    s.b2Write a n runs m = (runs.foldl (b2Run a) (s.hostBegin true a n, m)).1.1.hostEnd (runs.foldl (b2Run a) (s.hostBegin true a n, m)).1.2 := rfl

section
variable {s : State} {x : HostAcc} {a n : Nat} {p : Nat × List Byte} (ha : a < 2 ^ 43) (hfit : n + a % 2048 ≤ 2048) (hne : p.2 ≠ [])
  (hend : p.1 + p.2.length ≤ n)
include ha hfit hne hend

/-- The run lies in the range's page, and within 2 KiB. -/
theorem run_fits : (a + p.1) % 2 ^ 43 = a + p.1 ∧ a % 2 ^ 24 + p.1 < 2 ^ 24 ∧ a + p.1 < 2 ^ 43 ∧
    p.2.length + (a + p.1) % 2048 ≤ 2048 := by
  have hpos := List.length_pos_iff.mpr hne
  omega

theorem b2Run_here {key : Nat} (htakes : s.HostTakes a key n) : ∃ u, s.Counted u ∧
    b2Run a ((s, x), {}) p = ((u.hbmPut (cells (key + p.1) p.2), x), {}) := by
  obtain ⟨hmod, hpage, hlt, hfit'⟩ := run_fits ha hfit hne hend
  obtain ⟨hsite, -, -, hrace⟩ := htakes
  obtain ⟨u, hu, hs, hfault, hremote⟩ := s.writeBoard_here s.b2Ctx_lt (.host x.key 0) hne hlt hfit' (State.site_add_here hpage hsite)
    fun i hi => by rw [Nat.add_assoc]; exact hrace _ (by omega)
  refine ⟨u, hu, ?_⟩
  unfold b2Run
  extract_lets b w v
  have hw : w.s = u.hbmPut (cells (key + p.1) p.2) ∧ w.fault = 0 ∧ w.remote = 0 := by
    simp only [w, b]
    rw [hmod]
    exact ⟨hs, hfault, hremote⟩
  clear_value w
  obtain ⟨hws, hwf, hwr⟩ := hw
  have hv : v = w.s := if_pos hwf
  rw [hv, hws, hwr, List.replicate_zero, List.append_nil, List.drop_nil, List.drop_nil]

theorem b2Run_fault {r : Nat} (hr : r ≠ 0) (hsite : s.site 4 0 s.b2Ctx .wr a = .error r) : ∃ u at', s.Counted u ∧
    b2Run a ((s, x), {}) p = ((u.b2Fault r at', x), {}) := by
  obtain ⟨hmod, hpage, hlt, hfit'⟩ := run_fits ha hfit hne hend
  obtain ⟨hcount, hfault, hremote⟩ := s.writeBoard_fault s.b2Ctx_lt (.host x.key 0) hne hlt hfit' (State.site_add_error hpage hsite)
  refine ⟨_, (s.writeBoard (.die 4 0) s.b2Ctx (a + p.1) 0 (clean p.2) (.host x.key 0) {}).faultAddr, hcount, ?_⟩
  unfold b2Run
  extract_lets b w v
  have hw : w = s.writeBoard (.die 4 0) s.b2Ctx (a + p.1) 0 (clean p.2) (.host x.key 0) {} := by
    simp only [w, b]
    rw [hmod]
    rfl
  rw [← hw] at hfault hremote ⊢
  clear_value w
  have hv : v = w.s.b2Fault w.fault w.faultAddr := if_neg (by rw [hfault]; exact hr)
  rw [hv, hfault, hremote, List.replicate_zero, List.append_nil, List.drop_nil, List.drop_nil]

end

/-- What a write leaves: the bytes that its runs cover are written, and no other. -/
abbrev State.HostWrote (s t : State) (key : Nat) (runs : List (Nat × List Byte)) (d : Nat → Byte) : Prop := ∀ y,
  ((∃ p ∈ runs, key ≤ y ∧ covers p (y - key)) → t.hbmByte y = d (y - key)) ∧
    ((¬ ∃ p ∈ runs, key ≤ y ∧ covers p (y - key)) → t.hbmByte y = s.hbmByte y)

theorem State.HostTakes.congr {s t : State} {a key n : Nat} (h : s.HostTakes a key n) (hmap : s.SameMap t) (hdmas : t.dmas = s.dmas)
    (hastray : t.mem.astray = s.mem.astray) (hpoison : ∀ g, s.granPoison g = false → t.granPoison g = false) : t.HostTakes a key n := by
  obtain ⟨h1, h2, h3, h4⟩ := h
  have hctx : t.b2Ctx = s.b2Ctx := hmap.b2Ctx
  refine ⟨?_, hastray.trans h2, fun i hi => hpoison _ (h3 i hi), fun i hi => ?_⟩
  · rw [hctx, hmap.site 4 0 s.b2Ctx_lt, h1]
  · rw [State.dmaDest, hdmas]
    exact h4 i hi

/-- The runs of a write, one after the other. -/
theorem b2Runs_here {a n key : Nat} (ha : a < 2 ^ 43) (hfit : n + a % 2048 ≤ 2048) (d : Nat → Byte) (x : HostAcc)
    (runs : List (Nat × List Byte)) (hruns : ∀ p ∈ runs, p.2 ≠ [] ∧ p.1 + p.2.length ≤ n ∧ ∀ k < p.2.length, p.2.getD k 0 = d (p.1 + k))
    (s : State) (htakes : s.HostTakes a key n) : ∃ t, runs.foldl (b2Run a) ((s, x), {}) = ((t, x), {}) ∧ s.within [.io, .mem] t ∧
      s.HostWrote t key runs d := by
  induction runs generalizing s with
  | nil => exact ⟨s, rfl, .refl _ _, fun y => ⟨fun ⟨p, hp, _⟩ => absurd hp List.not_mem_nil, fun _ => rfl⟩⟩
  | cons p runs ih =>
    obtain ⟨hne, hend, hbytes⟩ := hruns p List.mem_cons_self
    obtain ⟨u, hu, hrun⟩ := b2Run_here (x := x) ha hfit hne hend htakes
    have hput := u.hbmPut_writes (cells (key + p.1) p.2)
    have hutakes : u.HostTakes a key n := htakes.congr hu.sameMap hu.dmas (by rw [hu.mem]) fun g hg => by
      rw [State.granPoison, hu.mem]
      exact hg
    have hvtakes : (u.hbmPut (cells (key + p.1) p.2)).HostTakes a key n := hutakes.congr hput.sameMap (by rw [hput.only_mem])
      hput.astray_eq fun g hg => State.granPoison_hbmPut_of_clean _ hg
    obtain ⟨t, ht, hw, hwrote⟩ := ih (fun q hq => hruns q (List.mem_cons_of_mem _ hq)) _ hvtakes
    have hcells := State.hbmByte_hbmPut_cells (s := u) (key := key + p.1) (bs := p.2) (fun i hi => by
      rw [Nat.add_assoc]
      exact hutakes.2.2.1 _ (by omega)) hutakes.2.1
    have huv : u.within [.mem] (u.hbmPut (cells (key + p.1) p.2)) := hput.only_mem
    refine ⟨t, by rw [List.foldl_cons, hrun, ht], ((hu.1.mono (by decide)).trans (huv.mono (by decide))).trans hw, fun y => ⟨?_, ?_⟩⟩
    · intro hcov
      by_cases hrest : ∃ q ∈ runs, key ≤ y ∧ covers q (y - key)
      · exact (hwrote y).1 hrest
      · obtain ⟨q, hq, hky, hqy⟩ := hcov
        rcases List.mem_cons.mp hq with rfl | hq
        · obtain ⟨hlo, hhi⟩ := hqy
          rw [(hwrote y).2 hrest, hcells, if_pos (by omega), hbytes _ (by omega)]
          exact congrArg d (by omega)
        · exact absurd ⟨q, hq, hky, hqy⟩ hrest
    · intro hcov
      have hrest : ¬ ∃ q ∈ runs, key ≤ y ∧ covers q (y - key) := fun ⟨q, hq, h⟩ => hcov ⟨q, List.mem_cons_of_mem _ hq, h⟩
      rw [(hwrote y).2 hrest, hcells, if_neg (fun h => hcov ⟨p, List.mem_cons_self, by omega, by omega, by omega⟩), hu.hbmByte]

theorem b2Runs_fault {a n r : Nat} (hr : r ≠ 0) (ha : a < 2 ^ 43) (hfit : n + a % 2048 ≤ 2048) (x : HostAcc)
    (runs : List (Nat × List Byte)) (hruns : ∀ p ∈ runs, p.2 ≠ [] ∧ p.1 + p.2.length ≤ n)
    (s : State) (hsite : s.site 4 0 s.b2Ctx .wr a = .error r) : ∃ t, runs.foldl (b2Run a) ((s, x), {}) = ((t, x), {}) ∧
      s.within [.io, .out] t ∧ (runs ≠ [] ∨ s.flag .pci 0x010 0 = true → t.flag .pci 0x010 0 = true) := by
  induction runs generalizing s with
  | nil => exact ⟨s, rfl, .refl _ _, fun h => h.resolve_left fun hn => hn rfl⟩
  | cons p runs ih =>
    obtain ⟨hne, hend⟩ := hruns p List.mem_cons_self
    obtain ⟨u, b, hu, hrun⟩ := b2Run_fault (x := x) ha hfit hne hend hr hsite
    obtain ⟨hfw, hfm, hflag, -⟩ := u.b2Fault_records r b
    have hmap : s.SameMap (u.b2Fault r b) := hu.sameMap.trans hfm
    have hctx : (u.b2Fault r b).b2Ctx = s.b2Ctx := hmap.b2Ctx
    obtain ⟨t, ht, hw, hkeep⟩ := ih (fun q hq => hruns q (List.mem_cons_of_mem _ hq)) _ (by
      rw [hctx, hmap.site 4 0 s.b2Ctx_lt, hsite])
    exact ⟨t, by rw [List.foldl_cons, hrun, ht], ((hu.1.mono (by decide)).trans hfw).trans hw, fun _ => hkeep (.inr hflag)⟩

end Sys2Proof.Machine
end

section
/-! PROOF. BAR2_READ and BAR2_WRITE (R502, R510). -/
namespace Sys2Proof.Machine

section
variable (s : State)

/-! ### BAR2_READ -/

theorem State.bar2Read_asleep (off : BitVec 40) {len : BitVec 13} (mu : MemUse) (hup : s.host.linkUp = true) (hheld : s.plat.held = false)
    (hd3 : s.host.d3 = true) (hlen : len.toNat ≠ 0) : exec (.bar2Read off len mu) s = .next { s with out := .unsupported :: s.out } := by
  have hexec : exec (.bar2Read off len mu) s = execBar2Read off len mu s := rfl
  rw [hexec, execBar2Read]
  dsimp only
  rw [if_neg (by simp [hup, hheld, hlen]), if_pos (by rw [hd3]; rfl)]
  rfl

/-- A read that the function accepts (R500, R502). -/
theorem State.bar2Read_opens {off : BitVec 40} {len : BitVec 13} (mu : MemUse) (hup : s.host.linkUp = true) (hheld : s.plat.held = false)
    (hd3 : s.host.d3 = false) (hlen : len.toNat ≠ 0) (hfit : off.toNat + len.toNat ≤ s.apertureSize) :
    exec (.bar2Read off len mu) s = .next (if s.ready then
        if !s.b2En then (s.event .pci 0x02 1).emit (.hostRead (List.replicate len.toNat 0xFF#8) false)
        else (s.event .pci 0x02 1).b2Read (s.b2Addr off.toNat) len.toNat mu
      else match s.recovery with
        | some k => ((s.event .pci 0x02 1).readRange 0 (memKey k off.toNat) len.toNat mu.gran).b2Complete
            (((s.event .pci 0x02 1).readRange 0 (memKey k off.toNat) len.toNat mu.gran).areaRead k off.toNat len.toNat)
        | none => (s.event .pci 0x02 1).emit (.hostRead (List.replicate len.toNat 0#8) false)) := by
  have hexec : exec (.bar2Read off len mu) s = execBar2Read off len mu s := rfl
  rw [hexec, execBar2Read]
  dsimp only
  rw [if_neg (by simp [hup, hheld, hlen]), if_neg (by simp [hd3, hfit])] <;> rfl

/-- A device that is not ready, and has not failed to boot, has no recovery area (R510, R516). -/
theorem State.recovery_of_booting (hfail : s.bootFail = false) : s.recovery = none := by
  unfold State.recovery
  rw [if_neg (by rw [hfail]; simp)]

theorem State.ready_of_booting (hdone : s.bootDone = false) : s.ready = false := by rw [State.ready, hdone, Bool.false_and]

section
variable {off : BitVec 40} {len : BitVec 13} (hup : s.host.linkUp = true) (hheld : s.plat.held = false) (hd3 : s.host.d3 = false)
  (hlen : len.toNat ≠ 0) (hfit : off.toNat + len.toNat ≤ s.apertureSize)
include hup hheld hd3 hlen hfit

theorem State.bar2Read_booting (mu : MemUse) (hdone : s.bootDone = false) (hfail : s.bootFail = false) :
    ∃ t, exec (.bar2Read off len mu) s = .next t ∧ t.out = .hostRead (List.replicate len.toNat 0#8) false :: s.out := by
  refine ⟨_, s.bar2Read_opens mu hup hheld hd3 hlen hfit, ?_⟩
  rw [if_neg (by rw [s.ready_of_booting hdone]; decide), s.recovery_of_booting hfail]
  exact congrArg (Out.hostRead (List.replicate len.toNat 0#8) false :: ·) (State.event_out _ _ _ _)

theorem State.bar2Read_closed (mu : MemUse) (hready : s.ready = true) (hoff : s.b2En = false) :
    ∃ t, exec (.bar2Read off len mu) s = .next t ∧ t.out = .hostRead (List.replicate len.toNat 0xFF#8) false :: s.out ∧
      t = { s with io := t.io, out := t.out } := by
  refine ⟨_, s.bar2Read_opens mu hup hheld hd3 hlen hfit, ?_⟩
  rw [if_pos hready, if_pos (by rw [hoff]; rfl)]
  have hw : s.within [.io, .out] ((s.event .pci 0x02 1).emit (.hostRead (List.replicate len.toNat 0xFF#8) false)) :=
    ((s.event_within _ _ _).mono (by decide)).trans ((State.emit_within _ _).mono (by decide))
  exact ⟨congrArg (Out.hostRead (List.replicate len.toNat 0xFF#8) false :: ·) (State.event_out _ _ _ _), hw⟩

theorem State.bar2Read_here {key : Nat} (hready : s.ready = true) (hen : s.b2En = true)
    (hrange : len.toNat + s.b2Addr off.toNat % 2048 ≤ 2048)
    (hsite : s.site 4 0 s.b2Ctx .rd (s.b2Addr off.toNat) = .ok (.here key))
    (hwritten : ∀ i < len.toNat, s.unwritten 0 ((s.b2Addr off.toNat + i) % 2 ^ 43) = false) :
    ∃ t, exec (.bar2Read off len {}) s = .next t ∧
      t.out.head? = some (.hostRead ((s.keyBytes key len.toNat).map Prod.fst) ((s.keyBytes key len.toNat).any Prod.snd)) ∧
      ((s.keyBytes key len.toNat).any Prod.snd = true → t.flag .pci 0x010 1 = true) ∧ t.mem = s.mem := by
  refine ⟨_, s.bar2Read_opens {} hup hheld hd3 hlen hfit, ?_⟩
  rw [if_pos hready, if_neg (by rw [hen]; decide)]
  have hc := s.counted_event .pci 0x02 1
  generalize s.event .pci 0x02 1 = u at hc ⊢
  obtain ⟨v, hread, hmem⟩ := u.b2Read_here hlen (s.b2Addr_lt _) hrange
    (by rw [hc.sameMap.b2Ctx, hc.sameMap.site 4 0 s.b2Ctx_lt, hsite]) fun i hi => by rw [hc.unwritten]; exact hwritten i hi
  rw [hread, hc.keyBytes]
  obtain ⟨hout, hflag, hmem'⟩ := v.b2Complete_sends (s.keyBytes key len.toNat)
  exact ⟨hout, hflag, by rw [hmem', hmem, hc.mem]⟩

theorem State.bar2Read_faults {r : Nat} (hready : s.ready = true) (hen : s.b2En = true)
    (hrange : len.toNat + s.b2Addr off.toNat % 2048 ≤ 2048)
    (hsite : s.site 4 0 s.b2Ctx .rd (s.b2Addr off.toNat) = .error r) :
    ∃ t, exec (.bar2Read off len {}) s = .next t ∧ t.flag .pci 0x010 0 = true ∧
      t.out.head? = some (.hostRead (List.replicate len.toNat 0xFF#8) false) ∧ t.mem = s.mem ∧
      (s.flag .pci 0x114 31 = false → r < 256 → t.flag .pci 0x114 31 = true ∧ t.field .pci 0x114 23 16 = r ∧
        t.reg .pci 0x110 = w32 (s.b2Addr off.toNat)) := by
  refine ⟨_, s.bar2Read_opens {} hup hheld hd3 hlen hfit, ?_⟩
  rw [if_pos hready, if_neg (by rw [hen]; decide)]
  have hc := s.counted_event .pci 0x02 1
  generalize s.event .pci 0x02 1 = u at hc ⊢
  obtain ⟨v, hv, hread⟩ := u.b2Read_fault hlen (s.b2Addr_lt off.toNat) hrange
    (by rw [hc.sameMap.b2Ctx, hc.sameMap.site 4 0 s.b2Ctx_lt, hsite])
  obtain ⟨hw, -, hflag, hrec⟩ := v.b2Fault_records r (s.b2Addr off.toNat)
  rw [hread]
  refine ⟨hflag, rfl, ?_, fun hfree hr => ?_⟩
  · exact (hw.mem (by decide)).trans (hv.mem.trans hc.mem)
  · have hk := (hc.trans hv).2.reg .pci (j := 0x114) (by decide) (by decide)
    exact hrec (by rw [State.flag, hk]; exact hfree) hr

end

/-! ### BAR2_WRITE -/

theorem State.hostOpen_of (hup : s.host.linkUp = true) (hheld : s.plat.held = false) (hd3 : s.host.d3 = false) : s.hostOpen = true := by
  rw [State.hostOpen, hup, hheld, hd3]
  rfl

theorem State.bar2Write_asleep (off : BitVec 40) (data : List Byte) (en : List Bool) (mu : MemUse) (hd3 : s.host.d3 = true) :
    exec (.bar2Write off data en mu) s = .next s := by
  have hexec : exec (.bar2Write off data en mu) s = execBar2Write off data en mu s := rfl
  rw [hexec, execBar2Write]
  dsimp only
  rw [if_pos (by simp [State.hostOpen, hd3])]

theorem State.bar2Write_outside {off : BitVec 40} {data : List Byte} (en : List Bool) (mu : MemUse)
    (hfit : ¬ off.toNat + data.length ≤ s.apertureSize) : exec (.bar2Write off data en mu) s = .next s := by
  have hexec : exec (.bar2Write off data en mu) s = execBar2Write off data en mu s := rfl
  rw [hexec, execBar2Write]
  dsimp only
  rw [if_pos (by rw [decide_eq_true (by omega), Bool.or_true])]

/-- A write that the function accepts (R500, R502). -/
theorem State.bar2Write_opens {off : BitVec 40} {data : List Byte} (en : List Bool) (mu : MemUse) (hopen : s.hostOpen = true)
    (hfit : off.toNat + data.length ≤ s.apertureSize) : exec (.bar2Write off data en mu) s = .next (if s.ready then
        (if s.b2En then (s.event .pci 0x03 1).b2Write (s.b2Addr off.toNat) data.length (byteRuns 0 (data.zip en)) mu
          else s.event .pci 0x03 1)
      else match s.recovery with
        | some k => (((byteRuns 0 (data.zip en)).filter fun p => decide (off.toNat + p.1 < recoverySize)).foldl
            (fun (t : State × Nat) p => (t.1.areaWrite k (off.toNat + p.1, p.2) (mu.gran.drop t.2),
              t.2 + (granules (off.toNat + p.1) p.2.length).length)) (s.event .pci 0x03 1, 0)).1
        | none => s.event .pci 0x03 1) := by
  have hexec : exec (.bar2Write off data en mu) s = execBar2Write off data en mu s := rfl
  rw [hexec, execBar2Write]
  dsimp only
  rw [if_neg (by simp [hopen, hfit])] <;> rfl

section
variable {off : BitVec 40} {data : List Byte} (en : List Bool) (hopen : s.hostOpen = true)
  (hfit : off.toNat + data.length ≤ s.apertureSize)
include hopen hfit

theorem State.bar2Write_booting (mu : MemUse) (hdone : s.bootDone = false) (hfail : s.bootFail = false) :
    ∃ t, exec (.bar2Write off data en mu) s = .next t ∧ t.mem = s.mem := by
  refine ⟨_, s.bar2Write_opens en mu hopen hfit, ?_⟩
  rw [if_neg (by rw [s.ready_of_booting hdone]; decide), s.recovery_of_booting hfail]
  exact State.event_mem _ _ _ _

theorem State.bar2Write_closed (mu : MemUse) (hready : s.ready = true) (hoff : s.b2En = false) :
    ∃ t, exec (.bar2Write off data en mu) s = .next t ∧ t = { s with io := t.io } := by
  refine ⟨_, s.bar2Write_opens en mu hopen hfit, ?_⟩
  rw [if_pos hready, if_neg (by rw [hoff]; decide)]
  exact s.event_within _ _ _

end

/-- A byte is covered by a run exactly where it is enabled. -/
theorem covered_iff {data : List Byte} {en : List Bool} (hlen : en.length = data.length) (key y : Nat) :
    (∃ p ∈ byteRuns 0 (data.zip en), key ≤ y ∧ covers p (y - key)) ↔
      key ≤ y ∧ y < key + data.length ∧ en.getD (y - key) false = true := by
  constructor
  · rintro ⟨p, hp, hky, hlo, hhi⟩
    obtain ⟨-, -, hbytes⟩ := byteRuns_runOf 0 _ p hp
    have hb := hbytes (y - key - p.1) _ (List.getElem?_eq_getElem (by omega))
    rw [show p.1 - 0 + (y - key - p.1) = y - key by omega] at hb
    obtain ⟨hdata, hen⟩ := List.getElem?_zip_eq_some.mp hb
    obtain ⟨hlt, -⟩ := List.getElem?_eq_some_iff.mp hdata
    exact ⟨hky, by omega, by rw [List.getD_eq_getElem?_getD, hen]; rfl⟩
  · rintro ⟨hky, hlt, hen⟩
    have hdata := List.getElem?_eq_getElem (l := data) (i := y - key) (by omega)
    have hen' : en[y - key]? = some true := by
      rw [List.getD_eq_getElem?_getD, List.getElem?_eq_getElem (by omega), Option.getD_some] at hen
      rw [List.getElem?_eq_getElem (by omega), hen]
    obtain ⟨p, hp, hcov⟩ := byteRuns_covers 0 (data.zip en) (List.getElem?_zip_eq_some.mpr ⟨hdata, hen'⟩)
    rw [Nat.zero_add] at hcov
    exact ⟨p, hp, hky, hcov⟩

/-- The runs of a write lie in its range, with its bytes. -/
theorem byteRuns_fit (data : List Byte) (en : List Bool) : ∀ p ∈ byteRuns 0 (data.zip en), p.2 ≠ [] ∧ p.1 + p.2.length ≤ data.length ∧
    ∀ k < p.2.length, p.2.getD k 0 = data.getD (p.1 + k) 0 := by
  intro p hp
  have hrun := byteRuns_runOf 0 _ p hp
  obtain ⟨hne, -, hbytes⟩ := id hrun
  refine ⟨hne, hrun.end_le.trans (by rw [List.length_zip]; exact Nat.min_le_left _ _), fun k hk => ?_⟩
  have hb := hbytes k _ (List.getElem?_eq_getElem hk)
  rw [Nat.sub_zero] at hb
  obtain ⟨hdata, -⟩ := List.getElem?_zip_eq_some.mp hb
  rw [List.getD_eq_getElem?_getD, List.getD_eq_getElem?_getD, hdata, List.getElem?_eq_getElem hk]

section
variable {off : BitVec 40} {data : List Byte} {en : List Bool} (hopen : s.hostOpen = true)
  (hfit : off.toNat + data.length ≤ s.apertureSize) (hready : s.ready = true) (hen : s.b2En = true)
  (hrange : data.length + s.b2Addr off.toNat % 2048 ≤ 2048)
include hopen hfit hready hen hrange

theorem State.bar2Write_here (hlen : en.length = data.length) {key : Nat} (htakes : s.HostTakes (s.b2Addr off.toNat) key data.length) :
    ∃ t, exec (.bar2Write off data en {}) s = .next t ∧ (∀ x, t.hbmByte x =
      if key ≤ x ∧ x < key + data.length ∧ en.getD (x - key) false = true then data.getD (x - key) 0 else s.hbmByte x) ∧
      t.tallies = s.tallies := by
  refine ⟨_, s.bar2Write_opens en {} hopen hfit, ?_⟩
  rw [if_pos hready, if_pos hen, State.b2Write_eq]
  have hc := s.counted_event .pci 0x03 1
  generalize s.event .pci 0x03 1 = u at hc ⊢
  have hb : u.within [.host] (u.hostBegin true (s.b2Addr off.toNat) data.length).1 := u.hostBegin_within _ _ _
  have hx : (u.hostBegin true (s.b2Addr off.toNat) data.length).2.wait = [] ∧
      (u.hostBegin true (s.b2Addr off.toNat) data.length).2.bad = false ∧
      (u.hostBegin true (s.b2Addr off.toNat) data.length).2.wr = true := ⟨rfl, rfl, rfl⟩
  generalize u.hostBegin true (s.b2Addr off.toNat) data.length = b at hb hx ⊢
  obtain ⟨v, x⟩ := b
  obtain ⟨hwait, hbad, hwr⟩ := hx
  obtain ⟨hmem, hfree, -, -, hdmas, hregs⟩ := u.within_host_counts hb (.refl v)
  have hvtakes : v.HostTakes (s.b2Addr off.toNat) key data.length := htakes.congr (hc.sameMap.trans (.of_mem hregs hmem))
    (hdmas.trans hc.dmas) (by rw [hmem, hc.mem]) fun g hg => by
      rw [State.granPoison, hmem, hc.mem]
      exact hg
  obtain ⟨t, ht, hw, hwrote⟩ := b2Runs_here (s.b2Addr_lt _) hrange (fun o => data.getD o 0) x _ (byteRuns_fit data en) v hvtakes
  rw [ht]
  have hend := t.hostEnd_write x hwait hbad hwr
  refine ⟨fun y => ?_, ?_⟩
  · rw [State.hbmByte_congr (hend.mem (by decide)) (hend.free (by decide))]
    have hiff := covered_iff hlen key y
    split
    · next h => exact (hwrote y).1 (hiff.mpr h)
    · next h => rw [(hwrote y).2 fun hcov => h (hiff.mp hcov), State.hbmByte_congr hmem hfree, hc.hbmByte]
  · rw [hend.tallies (by decide), hw.tallies (by decide), hb.tallies (by decide), hc.1.tallies (by decide)]

theorem State.bar2Write_faults (hlen : en.length = data.length) {r : Nat} (hr : r ≠ 0)
    (hsite : s.site 4 0 s.b2Ctx .wr (s.b2Addr off.toNat) = .error r) (hsome : ∃ i : Nat, en[i]? = some true) :
    ∃ t, exec (.bar2Write off data en {}) s = .next t ∧ t.mem = s.mem ∧ t.flag .pci 0x010 0 = true := by
  refine ⟨_, s.bar2Write_opens en {} hopen hfit, ?_⟩
  rw [if_pos hready, if_pos hen, State.b2Write_eq]
  have hc := s.counted_event .pci 0x03 1
  generalize s.event .pci 0x03 1 = u at hc ⊢
  have hb : u.within [.host] (u.hostBegin true (s.b2Addr off.toNat) data.length).1 := u.hostBegin_within _ _ _
  have hx : (u.hostBegin true (s.b2Addr off.toNat) data.length).2.wait = [] ∧
      (u.hostBegin true (s.b2Addr off.toNat) data.length).2.bad = false ∧
      (u.hostBegin true (s.b2Addr off.toNat) data.length).2.wr = true := ⟨rfl, rfl, rfl⟩
  generalize u.hostBegin true (s.b2Addr off.toNat) data.length = b at hb hx ⊢
  obtain ⟨v, x⟩ := b
  obtain ⟨hwait, hbad, hwr⟩ := hx
  obtain ⟨hmem, -, -, -, -, hregs⟩ := u.within_host_counts hb (.refl v)
  have hmap : s.SameMap v := hc.sameMap.trans (.of_mem hregs hmem)
  obtain ⟨t, ht, hw, hkeep⟩ := b2Runs_fault hr (s.b2Addr_lt _) hrange x (byteRuns 0 (data.zip en))
    (fun p hp => ⟨(byteRuns_fit data en p hp).1, (byteRuns_fit data en p hp).2.1⟩) v
    (by rw [hmap.b2Ctx, hmap.site 4 0 s.b2Ctx_lt, hsite])
  have hruns : byteRuns 0 (data.zip en) ≠ [] := by
    obtain ⟨i, hi⟩ := hsome
    obtain ⟨hlt, -⟩ := List.getElem?_eq_some_iff.mp hi
    obtain ⟨p, hp, -⟩ := byteRuns_covers 0 (data.zip en)
      (List.getElem?_zip_eq_some.mpr ⟨List.getElem?_eq_getElem (by omega), hi⟩)
    exact List.ne_nil_of_mem hp
  rw [ht]
  have hend := t.hostEnd_write x hwait hbad hwr
  refine ⟨?_, ?_⟩
  · rw [hend.mem (by decide), hw.mem (by decide), hmem, hc.mem]
  · exact ((hend.calm (A := fun _ => True) (by decide) (by decide)).flag 0 trivial).trans (hkeep (.inl hruns))

end

end

end Sys2Proof.Machine
end

section
/-! PROOF. MSI-X, tally notices, the link and the configuration space (R499, R500, R503, R504, R505). -/
namespace Sys2Proof.Machine

section
variable (s : State)

/-! ### MSI-X (R504) -/

/-- A pending message of a vector that is not masked is sent where its condition holds, and no longer pends. -/
theorem State.sendPending_sends {v : Nat} (hmask : s.vectorMasked v = false) : s.within [.io, .out] (s.sendPending v) ∧
    (s.sendPending v).io.msix = s.io.msix ∧ (s.sendPending v).io.msixMask = s.io.msixMask ∧ (s.sendPending v).io.pba.has v = false ∧
    (s.sendPending v).out = (if s.io.pba.has v && s.vectorCond v then .msix v :: s.out else s.out) := by
  unfold State.sendPending
  by_cases hp : s.io.pba.has v = true
  · rw [if_neg (by rw [hp, hmask]; decide), hp, Bool.true_and]
    extract_lets io t
    have ht : s.within [.io] t := rfl
    have hdel : t.io.pba.has v = false := by
      have : t.io.pba = NatSet.del v s.io.pba := rfl
      rw [this, NatSet.has_del]
      simp
    split
    · exact ⟨(ht.mono (by decide)).trans ((State.emit_within _ _).mono (by decide)), rfl, rfl, hdel, rfl⟩
    · exact ⟨ht.mono (by decide), rfl, rfl, hdel, rfl⟩
  · rw [Bool.not_eq_true] at hp
    rw [if_pos (by rw [hp]; rfl), hp]
    exact ⟨.refl _ _, rfl, rfl, rfl, rfl⟩

theorem State.sendPending_masks (v : Nat) : s.within [.io, .out] (s.sendPending v) ∧ (s.sendPending v).io.msixMask = s.io.msixMask := by
  by_cases hmask : s.vectorMasked v = true
  · unfold State.sendPending
    rw [if_pos (by rw [hmask, Bool.or_true])]
    exact ⟨.refl _ _, rfl⟩
  · obtain ⟨hw, -, hm, -⟩ := s.sendPending_sends (Bool.not_eq_true _ ▸ hmask)
    exact ⟨hw, hm⟩

theorem State.foldl_sendPending_masks (l : List Nat) : s.within [.io, .out] (l.foldl State.sendPending s) ∧
    (l.foldl State.sendPending s).io.msixMask = s.io.msixMask := by
  induction l generalizing s with
  | nil => exact ⟨.refl _ _, rfl⟩
  | cons v l ih =>
    obtain ⟨hw, hm⟩ := s.sendPending_masks v
    obtain ⟨hw', hm'⟩ := ih (s.sendPending v)
    exact ⟨hw.trans hw', hm'.trans hm⟩

theorem State.msixUnmask_sends {vec : BitVec 8} (hopen : s.hostOpen = true) (hmask : s.io.msixMask = false) :
    ∃ t, exec (.msixUnmask vec) s = .next t ∧ t.vectorMasked vec.toNat = false ∧ t.io.pba.has vec.toNat = false ∧
      t.out = (if s.io.pba.has vec.toNat && s.vectorCond vec.toNat then .msix vec.toNat :: s.out else s.out) := by
  refine ⟨_, rfl, ?_⟩
  rw [if_neg (by rw [hopen]; decide)]
  unfold State.msixWrite
  extract_lets d v io t
  have hv : (0xA000 + 16 * vec.toNat + 12 - 0xA000) / 16 = vec.toNat := by omega
  rw [hv]
  have hzero : v = 0#32 := by
    have h12 : (0xA000 + 16 * vec.toNat + 12) % 16 = 12 := by omega
    simp only [v]
    rw [if_pos h12]
    decide
  have ht : t.vectorMasked vec.toNat = false := by
    unfold State.vectorMasked
    have h1 : t.io.msixMask = s.io.msixMask := rfl
    have h2 : t.io.msix = Table.set d s.io.msix (0xA000 + 16 * vec.toNat + 12) v := rfl
    rw [h1, hmask, h2, Bool.false_or]
    change bitOf (Table.get d _ _) 0 = false
    rw [Table.get_set_same, hzero]
    decide
  have hcond : t.vectorCond vec.toNat = s.vectorCond vec.toNat := rfl
  have hpba : t.io.pba = s.io.pba := rfl
  have hout : t.out = s.out := rfl
  clear_value t
  obtain ⟨-, hmsix, hm, hdone, hsent⟩ := t.sendPending_sends ht
  rw [hcond, hpba, hout] at hsent
  refine ⟨?_, hdone, hsent⟩
  unfold State.vectorMasked at ht ⊢
  rw [hmsix, hm, ht]

/-! ### Tally notices (R505) -/

theorem State.noticeDue_iff (n : Nat) : s.noticeDue n = true ↔ bitOf (s.reg .pci (0x200 + 4 * n)) 31 = true ∧
    ((s.tally (fld (s.reg .pci (0x200 + 4 * n)) 11 0) - s.reg .pci (0x300 + 4 * n)).toNat < 2 ^ 31 ∨ s.host.due.has n = true) := by
  simp only [State.noticeDue, tallyReached, Bool.and_eq_true, Bool.or_eq_true, decide_eq_true_eq]
  rw [or_comm]

theorem State.tallyNoticeFire_waits (n : Fin 64) (h : s.noticeDue n.val = false) : exec (.tallyNoticeFire n) s = .next s := by
  have hexec : exec (.tallyNoticeFire n) s = execTallyNoticeFire n s := rfl
  rw [hexec, execTallyNoticeFire, if_pos (by rw [h]; rfl)]

theorem State.sendVector_sends (v : Nat) : s.within [.io, .out] (s.sendVector v) ∧ (∀ p j, (s.sendVector v).reg p j = s.reg p j) ∧
    (if s.vectorMasked v then (s.sendVector v).io.pba.has v = true else (s.sendVector v).out = .msix v :: s.out) := by
  unfold State.sendVector
  split
  · refine ⟨rfl, fun _ _ => rfl, ?_⟩
    rw [NatSet.has_add]
    simp
  · exact ⟨rfl, fun _ _ => rfl, rfl⟩

theorem State.tallyNoticeFire_fires (n : Fin 64) (h : s.noticeDue n.val = true) : ∃ t, exec (.tallyNoticeFire n) s = .next t ∧
    t.flag .pci (0x200 + 4 * n.val) 31 = false ∧
    (if s.vectorMasked (161 + n.val) then t.io.pba.has (161 + n.val) = true else t.out = .msix (161 + n.val) :: s.out) ∧
    t.tallies = s.tallies := by
  have hexec : exec (.tallyNoticeFire n) s = execTallyNoticeFire n s := rfl
  rw [hexec, execTallyNoticeFire, if_neg (by rw [h]; decide)]
  refine ⟨_, rfl, ?_⟩
  extract_lets off u io ho t
  have hu : s.within [.io] u := (s.setReg_within _ _ _).trans (State.event_within _ _ _ _)
  have hureg : u.reg .pci off = setBit (s.reg .pci off) 31 false :=
    ((State.event_keepsRegs _ .pci 0x04 1).reg .pci (by omega) (by omega)).trans (State.reg_setReg_same _ _ _ _)
  have humask : u.vectorMasked (161 + n.val) = s.vectorMasked (161 + n.val) :=
    ((s.setReg_calm (A := fun _ => False) _ _ _ id).trans (State.event_calm _ _ _ _ fun _ _ _ => id)).vectorMasked _
  have ht : u.within [.io, .host] t := rfl
  have htreg : t.reg .pci off = u.reg .pci off := rfl
  have htmask : t.vectorMasked (161 + n.val) = u.vectorMasked (161 + n.val) := rfl
  clear_value t
  obtain ⟨hw, hreg, hsend⟩ := t.sendVector_sends (161 + n.val)
  rw [htmask, humask, ht.out (by decide), hu.out (by decide)] at hsend
  refine ⟨?_, hsend, ?_⟩
  · rw [State.flag, hreg, htreg, hureg]
    exact bitOf_setBit_same _ _ _ (by decide)
  · rw [hw.tallies (by decide), ht.tallies (by decide), hu.tallies (by decide)]

/-! ### The link and the configuration space (R499, R500, R503) -/

theorem linkWord_fields : ∀ (rate : Fin 6) (width : Fin 5) (flit : Bool),
    let w := w32 ((rate.val + 1) * 2 ^ 28 + (flit || rate.val == 5).toNat * 2 ^ 27 + 2 ^ width.val * 2 ^ 16)
    fld w 31 28 = rate.val + 1 ∧ fld w 20 16 = 2 ^ width.val ∧ bitOf w 27 = (flit || decide (rate.val = 5)) := by
  decide

theorem State.pcieLinkUp_trains (rate : Fin 6) (width : Fin 5) (flit : Bool) (hheld : s.plat.held = false) (hdown : s.host.linkUp = false)
    (hst : s.plat.pcie.st = .stable) : ∃ t, exec (.pcieLinkUp rate width flit) s = .next t ∧ t.host.linkUp = true ∧
      t.field .pci 0x100 31 28 = rate.val + 1 ∧ t.field .pci 0x100 20 16 = 2 ^ width.val ∧
      t.flag .pci 0x100 27 = (flit || decide (rate.val = 5)) := by
  refine ⟨_, rfl, ?_⟩
  rw [if_neg (by rw [hheld, hdown, hst]; decide)]
  refine ⟨rfl, ?_⟩
  rw [State.field, State.field, State.flag, State.reg_setReg_same]
  exact linkWord_fields rate width flit

theorem State.pcieLinkUp_waits (rate : Fin 6) (width : Fin 5) (flit : Bool) (hst : s.plat.pcie.st ≠ .stable) :
    exec (.pcieLinkUp rate width flit) s = .next s := by
  have hexec : exec (.pcieLinkUp rate width flit) s = execPcieLinkUp rate width flit s := rfl
  rw [hexec, execPcieLinkUp, if_pos (by simp [hst])]

section
variable (hup : s.host.linkUp = true) (hheld : s.plat.held = false)
include hup hheld

theorem State.configurationWrite_power (m : Bool) : ∃ t, exec (.configurationWrite (.power m)) s = .next t ∧ t.host.d3 = m ∧
    t = { s with host := t.host } := by
  refine ⟨_, rfl, ?_⟩
  rw [if_neg (by rw [hup, hheld]; decide)]
  exact ⟨rfl, rfl⟩

theorem State.configurationWrite_barSize (n : Fin 3) : ∃ t, exec (.configurationWrite (.barSize n)) s = .next t ∧
    t.apertureSize = 2 ^ (38 + n.val) ∧ t = { s with host := t.host } := by
  refine ⟨_, rfl, ?_⟩
  rw [if_neg (by rw [hup, hheld]; decide)]
  exact ⟨rfl, rfl⟩

theorem State.configurationWrite_functionMask (m : Bool) : ∃ t, exec (.configurationWrite (.functionMask m)) s = .next t ∧
    t.io.msixMask = m ∧ t = { s with io := t.io, out := t.out } := by
  refine ⟨_, rfl, ?_⟩
  rw [if_neg (by rw [hup, hheld]; decide)]
  dsimp only
  generalize hu : ({ s with io := { s.io with msixMask := m } } : State) = u
  have huw : s.within [.io] u := hu ▸ rfl
  have hum : u.io.msixMask = m := by rw [← hu]
  have huw' : s.within [.io, .out] u := huw.mono (by decide)
  split
  · exact ⟨hum, huw'⟩
  · obtain ⟨hw, hm⟩ := u.foldl_sendPending_masks (List.range 225)
    exact ⟨hm.trans hum, huw'.trans hw⟩

theorem State.atomicopRequest_refused : exec .atomicopRequest s = .next { s with out := .unsupported :: s.out } := by
  have hexec : exec .atomicopRequest s = execAtomicopRequest s := rfl
  rw [hexec, execAtomicopRequest, if_neg (by rw [hup, hheld]; decide), State.emit]

end

end

/-- Settles O53: BAR2 by `bar2Read_here`, `bar2Read_faults`, `bar2Write_here` and `bar2Write_faults`, the rest command by command. -/
theorem hostAccessesComplete : Obligations.HostAccessesComplete := by
  unfold Obligations.HostAccessesComplete
  intro s off len data en key r vec n rate width flit m size mu a l c reached read clean
  have hdue := s.noticeDue_iff n.val
  refine ⟨fun hup hheld => ⟨fun hd3 hlen => ⟨s.bar2Read_asleep off mu hup hheld hd3 hlen, s.bar2Write_asleep off data en mu hd3⟩,
    fun hd3 hlen hfit hready => ⟨s.bar2Read_closed hup hheld hd3 hlen hfit mu hready, fun hen hrange =>
      ⟨s.bar2Read_faults hup hheld hd3 hlen hfit hready hen hrange, s.bar2Read_here hup hheld hd3 hlen hfit hready hen hrange⟩⟩,
    fun hd3 hfit hready hlen hrange => ?_, fun hd3 hdone hfail hlen hfit => ?_,
    fun hd3 _ hmask => s.msixUnmask_sends (s.hostOpen_of hup hheld hd3) hmask, s.configurationWrite_power hup hheld m,
    s.configurationWrite_barSize hup hheld size, s.configurationWrite_functionMask hup hheld m⟩,
    fun hon hdue' => s.tallyNoticeFire_fires n (hdue.mpr ⟨hon, hdue'⟩), fun hoff => s.tallyNoticeFire_waits n ?_,
    fun hheld hdown => ⟨s.pcieLinkUp_trains rate width flit hheld hdown, s.pcieLinkUp_waits rate width flit⟩,
    s.atomicopRequest_refused⟩
  · have hopen := s.hostOpen_of hup hheld hd3
    exact ⟨s.bar2Write_closed en hopen hfit mu hready, fun hen hsite hastray hpoison hrace =>
      s.bar2Write_here hopen hfit hready hen hrange hlen ⟨hsite, hastray, granPoison_of_rangePoison hpoison, hrace⟩,
      fun hen hsite hr hsome => s.bar2Write_faults hopen hfit hready hen hrange hlen hr hsite hsome⟩
  · by_cases hlend : off.toNat + data.length ≤ s.apertureSize
    · exact ⟨s.bar2Read_booting hup hheld hd3 hlen hfit mu hdone hfail,
        s.bar2Write_booting en (s.hostOpen_of hup hheld hd3) hlend mu hdone hfail⟩
    · exact ⟨s.bar2Read_booting hup hheld hd3 hlen hfit mu hdone hfail, s, s.bar2Write_outside en mu hlend, rfl⟩
  · refine Bool.eq_false_iff.mpr fun hx => ?_
    obtain ⟨hon, hr⟩ := hdue.mp hx
    rcases hoff with hoff | hoff
    · exact absurd (hon.symm.trans hoff) (by decide)
    · exact hoff hr

/-- Settles O58: the host by the lemmas of O53, the SMBus target by `smbRead_some`, boundary scan by `tapDrive`. -/
theorem hostAndSidebandComplete : Obligations.HostAndSidebandComplete := by
  unfold Obligations.HostAndSidebandComplete
  intro s off len key byte vec n rate width flit b w code ls pre a c
  refine ⟨fun hopen hready hen => ?_, fun hopen _ hmask => ?_, fun hon hr => ?_, fun hheld hdown hst => ?_, fun hheld hup => ?_,
    fun hup hheld => ⟨_, s.atomicopRequest_refused hup hheld, rfl⟩, fun hheld => ⟨fun i hi => ?_, ?_, fun h6 h10 => ?_⟩,
    fun hrails => ⟨?_, ?_, fun hperst => ⟨?_, ?_, ?_⟩⟩⟩
  · obtain ⟨⟨hup, hd3⟩, hheld⟩ : (s.host.linkUp = true ∧ s.host.d3 = false) ∧ s.plat.held = false := by
      simpa [State.hostOpen] using hopen
    refine ⟨fun hlen hfit hrange hsite hwritten => ?_, fun hfit hsite hastray hpoison hrace => ?_⟩
    · obtain ⟨t, hexec, hout, -⟩ := s.bar2Read_here hup hheld hd3 (fun h => hlen (BitVec.eq_of_toNat_eq h)) hfit hready hen hrange
        hsite hwritten
      exact ⟨t, hexec, hout⟩
    · have hrange : ([byte] : List Byte).length + s.b2Addr off.toNat % 2048 ≤ 2048 := by
        have := Nat.mod_lt (s.b2Addr off.toNat) (show 2048 > 0 by decide)
        simp only [List.length_singleton]
        omega
      have hone : ∀ i < ([byte] : List Byte).length, i = 0 := fun i hi => by simpa using hi
      obtain ⟨t, hexec, hbytes, -⟩ := s.bar2Write_here (en := [true]) hopen hfit hready hen hrange rfl
        ⟨hsite, hastray, fun i hi => by rw [hone i hi]; exact hpoison, fun i hi => by
          rw [hone i hi, Nat.add_zero, Nat.mod_eq_of_lt (s.b2Addr_lt _)]
          exact hrace⟩
      refine ⟨t, hexec, ?_⟩
      rw [hbytes, if_pos ⟨Nat.le_refl _, by simp, by simp⟩, Nat.sub_self]
      rfl
  · obtain ⟨t, hexec, hv, -⟩ := s.msixUnmask_sends (vec := vec) hopen hmask
    exact ⟨t, hexec, hv⟩
  · obtain ⟨t, hexec, hflag, -⟩ := s.tallyNoticeFire_fires n ((s.noticeDue_iff n.val).mpr ⟨hon, .inl (of_decide_eq_true hr)⟩)
    exact ⟨t, hexec, hflag⟩
  · obtain ⟨t, hexec, hup, -⟩ := s.pcieLinkUp_trains rate width flit hheld hdown hst
    exact ⟨t, hexec, hup⟩
  · obtain ⟨t, hexec, hd3, -⟩ := s.configurationWrite_power hup hheld b
    exact ⟨t, hexec, hd3⟩
  · simp only [List.mem_cons, List.not_mem_nil, or_false] at hi
    rcases hi with rfl | rfl | rfl | rfl | rfl | rfl | rfl | rfl | rfl
    · exact s.smbRead_some 0 (List.cons_ne_nil _ _) hheld rfl
    · exact s.smbRead_some 1 (List.cons_ne_nil _ _) hheld rfl
    · exact s.smbRead_some 2 (List.cons_ne_nil _ _) hheld rfl
    · exact s.smbRead_some 3 (List.cons_ne_nil _ _) hheld rfl
    · exact s.smbRead_some 4 (List.cons_ne_nil _ _) hheld rfl
    · exact s.smbRead_some 5 (List.cons_ne_nil _ _) hheld rfl
    · exact s.smbRead_some 6 (List.cons_ne_nil _ _) hheld rfl
    · exact s.smbRead_some 0x10 (List.cons_ne_nil _ _) hheld rfl
    · obtain ⟨t, hexec, hout⟩ := s.smbAlertResponse_answers hheld
      exact ⟨t, _, hexec, hout, List.cons_ne_nil _ _⟩
  · obtain ⟨t, hexec, hreg, -⟩ := s.smbTrayLimitWrite_writes w hheld (.inl rfl)
    exact ⟨t, hexec, hreg⟩
  · obtain ⟨t, hexec, hflag, -⟩ := s.smbBadCommand_refused hheld h6 h10
    exact ⟨t, hexec, hflag⟩
  · obtain ⟨t, hexec, htap, -⟩ := s.jtagBypass_bypasses hrails
    exact ⟨t, hexec, htap⟩
  · obtain ⟨t, hexec, htap, hbsr, -⟩ := s.jtagSamplePreload_samples ls pre hrails
    exact ⟨t, hexec, htap, hbsr⟩
  · obtain ⟨t, hexec, htap, -⟩ := (s.tapDrive (i := .jtagExtest) (m := .extest) (o := .lands s.plat.bsr) rfl rfl hrails).1 hperst
    exact ⟨t, hexec, htap⟩
  · obtain ⟨t, hexec, htap, -⟩ := (s.tapDrive (i := .jtagClamp) (m := .clamp) (o := .lands s.plat.bsr) rfl rfl hrails).1 hperst
    exact ⟨t, hexec, htap⟩
  · obtain ⟨t, hexec, htap, -⟩ := (s.tapDrive (i := .jtagHighz) (m := .highz) (o := .highZ) rfl rfl hrails).1 hperst
    exact ⟨t, hexec, htap⟩

end Sys2Proof.Machine
end

section
/-! PROOF. The mailbox: handing over, and the end of a served request (R426, R518, R519, R521). -/
namespace Sys2Proof.Machine

section
variable (s : State)

/-! ### Handing over (R518) -/

/-- A `GO` is refused (R518). -/
abbrev State.goRefused (s : State) (sv : Nat) : Prop := sv = 3 ∨ (s.bootFail = true ∧ sv ≠ 1) ∨ (s.bootDone = false ∧ s.bootFail = false)

theorem State.mailboxGo_eq {v : W32} (hheld : s.plat.held = false) (hawake : s.asleep = false) (hgo : bitOf v 31 = true) :
    exec (.mailboxGo v) s = .next (if s.goRefused (fld v 1 0) then (s.setReg .boot 0x110 (w32 (fld v 1 0))).setErr .boot 2
      else if 16 ≤ s.mgmt.mbox.length then (s.setReg .boot 0x110 (w32 (fld v 1 0))).setErr .boot 1
      else { s.setReg .boot 0x110 (w32 (fld v 1 0)) with
        mem := { s.mem with handed := s.mem.handed + 1 }
        mgmt := { s.mgmt with mbox := s.mgmt.mbox ++ [(fld v 1 0,
          ((s.setReg .boot 0x110 (w32 (fld v 1 0))).reg64 .boot 0x108).toNat % 2 ^ 43 / 64 * 64)] } }) := by
  have hexec : exec (.mailboxGo v) s = execMailboxGo v s := rfl
  rw [hexec, execMailboxGo]
  dsimp only
  rw [if_neg (by rw [hheld, hawake]; decide), if_neg (by rw [hgo]; decide)]
  have hiff : (fld v 1 0 = 3 ∨ (s.bootFail = true ∧ fld v 1 0 ≠ 1) ∨ ((!s.bootDone) = true ∧ (!s.bootFail) = true)) ↔
      s.goRefused (fld v 1 0) := by
    rw [Bool.not_eq_true', Bool.not_eq_true']
  split
  · next h => rw [if_pos (hiff.mp h)]
  · next h => rw [if_neg fun hr => h (hiff.mpr hr)]; rfl

section
variable {v : W32} (hheld : s.plat.held = false) (hawake : s.asleep = false) (hgo : bitOf v 31 = true)
include hheld hawake hgo

theorem State.mailboxGo_refused (h : s.goRefused (fld v 1 0)) : ∃ t, exec (.mailboxGo v) s = .next t ∧ t.flag .boot 0x010 2 = true ∧
    t = { s with io := t.io, out := t.out } := by
  refine ⟨_, s.mailboxGo_eq hheld hawake hgo, ?_⟩
  rw [if_pos h]
  have hw : s.within [.io, .out] ((s.setReg .boot 0x110 (w32 (fld v 1 0))).setErr .boot 2) :=
    ((s.setReg_within _ _ _).mono (by decide)).trans (State.setErr_within _ _ _)
  exact ⟨State.flag_setErr _ _ _ (by decide), hw⟩

theorem State.mailboxGo_full (h : ¬ s.goRefused (fld v 1 0)) (hlen : 16 ≤ s.mgmt.mbox.length) : ∃ t, exec (.mailboxGo v) s = .next t ∧
    t.flag .boot 0x010 1 = true ∧ t = { s with io := t.io, out := t.out } := by
  refine ⟨_, s.mailboxGo_eq hheld hawake hgo, ?_⟩
  rw [if_neg h, if_pos hlen]
  have hw : s.within [.io, .out] ((s.setReg .boot 0x110 (w32 (fld v 1 0))).setErr .boot 1) :=
    ((s.setReg_within _ _ _).mono (by decide)).trans (State.setErr_within _ _ _)
  exact ⟨State.flag_setErr _ _ _ (by decide), hw⟩

theorem State.mailboxGo_queues (h : ¬ s.goRefused (fld v 1 0)) (hlen : s.mgmt.mbox.length < 16) : ∃ t, exec (.mailboxGo v) s = .next t ∧
    t.mgmt = { s.mgmt with mbox := s.mgmt.mbox ++ [(fld v 1 0, (s.reg64 .boot 0x108).toNat % 2 ^ 43 / 64 * 64)] } ∧
    t.reg .boot 0x110 = w32 (fld v 1 0) ∧ t = { s with io := t.io, mem := { s.mem with handed := s.mem.handed + 1 }, mgmt := t.mgmt } := by
  refine ⟨_, s.mailboxGo_eq hheld hawake hgo, ?_⟩
  rw [if_neg h, if_neg (by omega)]
  have h64 : (s.setReg .boot 0x110 (w32 (fld v 1 0))).reg64 .boot 0x108 = s.reg64 .boot 0x108 := by
    rw [State.reg64, State.reg64, State.reg_setReg_off _ _ (by decide), State.reg_setReg_off _ _ (by decide)]
  refine ⟨by rw [h64], ?_, rfl⟩
  exact State.reg_setReg_same s .boot 0x110 _

end

/-! ### Writes of a service -/

/-- What the writes of a service change. -/
abbrev svcAreas : List Area := [.mem, .io, .mgmt, .fwait]

theorem State.svcPut_within (key : Nat) (bs : List OutByte) : s.within [.mem, .io] (s.svcPut key bs) := by
  unfold State.svcPut
  extract_lets u m
  exact (s.putLocal_within key _).trans (.mono (m := [.mem]) (by decide) rfl)

theorem State.foldl_keeps_mbox {α : Type} {f : State → α → State}
    (h : ∀ t x, t.within svcAreas (f t x) ∧ (f t x).mgmt.mbox = t.mgmt.mbox) (l : List α) (s : State) :
    s.within svcAreas (l.foldl f s) ∧ (l.foldl f s).mgmt.mbox = s.mgmt.mbox := by
  induction l generalizing s with
  | nil => exact ⟨.refl _ _, rfl⟩
  | cons x l ih =>
    obtain ⟨hw, hm⟩ := h s x
    obtain ⟨hw', hm'⟩ := ih (f s x)
    exact ⟨hw.trans hw', hm'.trans hm⟩

/-- A write of a service leaves the queue of the mailbox. -/
theorem State.svcWrite_keeps (ctx a : Nat) (bs : List OutByte) : s.within svcAreas (s.svcWrite ctx a bs) ∧
    (s.svcWrite ctx a bs).mgmt.mbox = s.mgmt.mbox := by
  unfold State.svcWrite
  refine State.foldl_keeps_mbox (fun t p => ?_) _ _
  extract_lets d
  split
  · exact ⟨.refl _ _, rfl⟩
  · exact ⟨(t.svcPut_within _ _).mono (by decide), congrArg Mgmt.mbox ((t.svcPut_within _ _).mgmt (by decide))⟩
  · exact ⟨rfl, rfl⟩

theorem State.foldl_svcWrite_keeps {α : Type} (ctx : Nat) (a : α → Nat) (d : α → List OutByte) (l : List α) :
    s.within svcAreas (l.foldl (fun u x => u.svcWrite ctx (a x) (d x)) s) ∧
      (l.foldl (fun u x => u.svcWrite ctx (a x) (d x)) s).mgmt.mbox = s.mgmt.mbox :=
  State.foldl_keeps_mbox (fun t x => t.svcWrite_keeps ctx (a x) (d x)) _ _

/-! ### The end of a request (R426, R519, R521) -/

theorem State.svcDrop_drops : s.svcDrop.mgmt.mbox = s.mgmt.mbox.drop 1 ∧ s.svcDrop.tallies = s.tallies ∧
    (s.mem.touched = [] → ∀ k, s.svcDrop.hbmByte k = s.hbmByte k) := by
  unfold State.svcDrop
  extract_lets t rest
  have ht : t.mgmt = s.mgmt ∧ t.tallies = s.tallies := by
    simp only [t]
    split <;> exact ⟨rfl, rfl⟩
  refine ⟨congrArg (fun m : Mgmt => m.mbox.drop 1) ht.1, ht.2, fun htouched k => ?_⟩
  have hts : t = s := if_pos (by rw [htouched]; rfl)
  clear_value t
  subst hts
  split
  · rfl
  · rfl

theorem State.svcFinish_finishes (ctx tally a : Nat) (ws : List (Nat × W32)) :
    (s.svcFinish ctx tally a ws).mgmt.mbox = s.mgmt.mbox.drop 1 ∧
      (s.svcFinish ctx tally a ws).tally tally = s.tally tally + 1 ∧
      ∀ n, n ≠ tally → (s.svcFinish ctx tally a ws).tally n = s.tally n := by
  unfold State.svcFinish
  obtain ⟨hw, hm⟩ := s.foldl_svcWrite_keeps ctx (fun w : Nat × W32 => a + 4 * w.1) (fun w => clean (leBytes 4 w.2.toNat)) ws
  extract_lets t
  obtain ⟨hdrop, htal, -⟩ := ((t.addTally tally 1).event .boot 0x02 1).svcDrop_drops
  have hev := (t.addTally tally 1).event_within .boot 0x02 1
  have hat := t.addTally_within tally 1
  have htally : ∀ n, ((t.addTally tally 1).event .boot 0x02 1).svcDrop.tally n = (t.addTally tally 1).tally n := fun n => by
    rw [State.tally, htal, hev.tallies (by decide), State.tally]
  have hts : ∀ n, t.tally n = s.tally n := fun n => by rw [State.tally, hw.tallies (by decide), State.tally]
  refine ⟨?_, ?_, fun n hn => ?_⟩
  · rw [hdrop, hev.mgmt (by decide), hat.mgmt (by decide)]
    exact congrArg (List.drop 1) hm
  · rw [htally, State.tally_addTally_same, hts]
  · rw [htally, State.tally_addTally_ne _ hn, hts]

/-- A request all of whose writes may be made, none of them to another device, ends. -/
theorem State.svcApply_done (sv a c : Nat) (w : List W32) (t : State) (st : Nat) (words : List (Nat × W32))
    (writes : List (Nat × List OutByte)) (hmay : ∀ x ∈ writes, t.svcMayWrite c x.1 x.2.length = none)
    (hwr : (writes.foldl (fun u x => u.svcWrite c x.1 x.2) t).mgmt.svc.wr = 0) :
    s.svcApply sv a c w (.done t st words writes) =
      (writes.foldl (fun u x => u.svcWrite c x.1 x.2) t).svcFinish c (sbTally w) a (words ++ [(svcStatus sv, w32 st)]) := by
  have hbad : (writes.findSome? fun x => t.svcMayWrite c x.1 x.2.length) = none := List.findSome?_eq_none_iff.mpr hmay
  unfold State.svcApply
  dsimp only
  rw [hbad]
  dsimp only
  rw [if_pos hwr]

/-! ### The byte of STATUS -/

theorem State.svcBytes_of_untouched (h : s.mem.touched = []) (key : Nat) (bs : List OutByte) : s.svcBytes key bs = bs := by
  have hno : ∀ k, s.svcTouched k = false := fun k => by
    unfold State.svcTouched
    rw [h]
    rfl
  unfold State.svcBytes
  refine List.ext_getElem (by simp) fun i hi _ => ?_
  simp [hno]

theorem State.svcWrite_one {ctx a key : Nat} {bs : List Byte} (hne : bs ≠ []) (hfit : bs.length + a % 2048 ≤ 2048)
    (hsite : s.svcSite ctx .wr (a % 2 ^ 43) = .ok (.here key)) : s.svcWrite ctx a (clean bs) = s.svcPut key (clean bs) := by
  have hlen : (clean bs).length = bs.length := by rw [clean, List.length_map]
  have hps : pieces a (clean bs).length = [(a % 2 ^ 43, bs.length, 0)] := by
    rw [hlen, pieces_of_fit (fun h => hne (List.eq_nil_of_length_eq_zero h)) hfit]
  unfold State.svcWrite
  rw [hps, List.foldl_cons, List.foldl_nil]
  dsimp only
  rw [hsite]
  dsimp only
  rw [List.drop_zero, ← hlen, List.take_length]

theorem State.hbmByte_svcPut {key : Nat} {b : Byte} {bs : List Byte} (htouched : s.mem.touched = []) (hastray : s.mem.astray = [])
    (hclean : s.granPoison (key / 64) = false) : (s.svcPut key (clean (b :: bs))).hbmByte key = b ∧
      (s.svcPut key (clean (b :: bs))).mem.touched = [] := by
  unfold State.svcPut
  rw [s.svcBytes_of_untouched htouched, State.putLocal_clean]
  have hmem : (key, b) ∈ cells key (b :: bs) := mem_cells.mpr ⟨0, by simp, rfl⟩
  exact ⟨State.hbmByte_hbmPut_mem (nodup_cells key _) hmem hclean hastray, htouched⟩

theorem leBytes_succ (n x : Nat) : leBytes (n + 1) x = BitVec.ofNat 8 x :: leBytes n (x / 256) := rfl

/-- The first byte of the last word that a request writes. -/
theorem State.svcFinish_status {c tally a st sv k : Nat} (hst : st < 256)
    (hsite : s.svcSite c .wr ((a + 4 * svcStatus sv) % 2 ^ 43) = .ok (.here k)) (ha : a % 64 = 0) (hastray : s.mem.astray = [])
    (htouched : s.mem.touched = []) (hclean : s.granPoison (k / 64) = false) :
    (s.svcFinish c tally a [(svcStatus sv, w32 st)]).hbmByte k = BitVec.ofNat 8 st := by
  have hlow : svcStatus sv = 16 ∨ svcStatus sv = 12 := by
    unfold svcStatus
    split
    · exact .inl rfl
    · exact .inr rfl
  have hword : (w32 st).toNat = st := by
    rw [w32, BitVec.toNat_ofNat]
    exact Nat.mod_eq_of_lt (by omega)
  have hone := s.svcWrite_one (bs := leBytes 4 (w32 st).toNat) (List.cons_ne_nil _ _) (by
    rw [length_leBytes]
    rcases hlow with h | h <;> rw [h] <;> omega) hsite
  obtain ⟨hb, htch⟩ := s.hbmByte_svcPut (key := k) (b := BitVec.ofNat 8 (w32 st).toNat) (bs := leBytes 3 ((w32 st).toNat / 256))
    htouched hastray hclean
  rw [← leBytes_succ] at hb htch
  unfold State.svcFinish
  rw [List.foldl_cons, List.foldl_nil, hone]
  generalize s.svcPut k (clean (leBytes 4 (w32 st).toNat)) = t at hb htch
  extract_lets u
  have hu : u = t := rfl
  clear_value u
  subst hu
  have hw : u.within [.tallies, .host, .wins, .cores, .io] ((u.addTally tally 1).event .boot 0x02 1) :=
    (u.addTally_within tally 1).trans ((State.event_within _ _ _ _).mono (by decide))
  obtain ⟨-, -, hdrop⟩ := ((u.addTally tally 1).event .boot 0x02 1).svcDrop_drops
  rw [hdrop (by rw [hw.mem (by decide), htch]), State.hbmByte_congr (hw.mem (by decide)) (hw.free (by decide)), hb, hword]

end

/-- Settles O44: handing over by `mailboxGo_refused`, `mailboxGo_full` and `mailboxGo_queues`, the end by `svcFinish_finishes`. -/
theorem requestsEnterAndEnd : Obligations.RequestsEnterAndEnd := by
  unfold Obligations.RequestsEnterAndEnd
  intro s v sv a c w st words writes go refused u
  refine ⟨fun hheld hawake hgo => ⟨s.mailboxGo_refused hheld hawake hgo, s.mailboxGo_full hheld hawake hgo,
    s.mailboxGo_queues hheld hawake hgo⟩, fun hmay hwr => ?_⟩
  have hdone := s.svcApply_done sv a c w s st words writes hmay hwr
  intro t
  have ht : t = u.svcFinish c (sbTally w) a (words ++ [(svcStatus sv, w32 st)]) := hdone
  have hu : u = writes.foldl (fun u x => u.svcWrite c x.1 x.2) s := rfl
  clear_value t u
  subst ht
  obtain ⟨hw, hm⟩ := s.foldl_svcWrite_keeps c (fun x : Nat × List OutByte => x.1) (fun x => x.2) writes
  rw [← hu] at hw hm
  obtain ⟨hmbox, hsame, hother⟩ := u.svcFinish_finishes c (sbTally w) a (words ++ [(svcStatus sv, w32 st)])
  have htally : ∀ n, u.tally n = s.tally n := fun n => by rw [State.tally, hw.tallies (by decide), State.tally]
  refine ⟨rfl, by rw [hmbox, hm], by rw [hsame, htally], fun n hn => by rw [hother n hn, htally], ?_⟩
  intro k hwrites hwords hst hsite ha hastray htouched hclean
  subst hwords
  rw [hwrites] at hu
  subst hu
  exact State.svcFinish_status _ hst hsite ha hastray htouched hclean

end Sys2Proof.Machine
end

section
/-! PROOF. The flash service and the attestation service (R519, R521). -/
namespace Sys2Proof.Machine

section
variable (s : State)

/-! ### Serving a request -/

/-- A request at the head of the mailbox that can be served. -/
abbrev State.Serves (s : State) (sv a : Nat) (bs : List OutByte) (w : List W32) : Prop := s.svcHead = some (sv, a, .got bs) ∧
  s.mgmt.svc.fin = none ∧ bs.any Prod.snd = false ∧ leWords (bs.map Prod.fst) (svcBlock sv / 4) = w ∧
  (∃ k, s.svcSite (sbCtx w) .rd a = .ok k) ∧ ∃ k, s.svcSite (sbCtx w) .wr a = .ok k

theorem State.svcServe_serves {sv a : Nat} {bs : List OutByte} {w : List W32} (h : s.Serves sv a bs w) {mine : List W32 → Bool}
    (hmine : mine w = true) (job : State → List W32 → SvcRes) : s.svcServe sv mine job = s.svcApply sv a (sbCtx w) w (job s w) := by
  obtain ⟨hhead, hfin, hclear, hw, ⟨k, hrd⟩, k', hwr⟩ := h
  unfold State.svcServe
  rw [hhead]
  dsimp only
  rw [if_neg (by rw [hfin]; simp), hw, if_neg (by rw [hclear]; decide), if_neg (by rw [hmine]; decide), hrd, hwr]

/-! ### The flash functions (R519) -/

theorem State.flash_serves {a : Nat} {bs : List OutByte} {w : List W32} (h : s.Serves 1 a bs w) {mine : List W32 → Bool}
    (hmine : mine w = true) (job : State → List W32 → SvcRes) :
    s.flash mine job = s.svcApply 1 a (sbCtx w) w (if flBad w then .done s 0x03 [] [] else job s w) :=
  s.svcServe_serves h hmine _

theorem exec_flash (w : List W32) : ∀ x ∈ [(Instr.flashRead, 1, State.flRead), (.flashErase, 2, State.flErase),
    (.flashProgram, 3, State.flProgram), (.flashSelect, 4, State.flSelect), (.flashConfirm, 5, State.flConfirm)], sbFn w = x.2.1 →
    ∀ s : State, ∃ mine, mine w = true ∧ exec x.1 s = .next (s.flash mine x.2.2) := by
  intro x hx hfn s
  simp only [List.mem_cons, List.not_mem_nil, or_false] at hx
  rcases hx with rfl | rfl | rfl | rfl | rfl
  · exact ⟨fun w => sbFn w == 1 || sbFn w == 0 || decide (6 ≤ sbFn w), by simp [hfn], rfl⟩
  · exact ⟨fun w => sbFn w == 2, by simp [hfn], rfl⟩
  · exact ⟨fun w => sbFn w == 3, by simp [hfn], rfl⟩
  · exact ⟨fun w => sbFn w == 4, by simp [hfn], rfl⟩
  · exact ⟨fun w => sbFn w == 5, by simp [hfn], rfl⟩

theorem State.flRead_reads (w : List W32) (hfit : flOff w + flLen w ≤ 2 ^ 26) (hpast : s.flashPast w = false) (hdead : s.board.dead = false) :
    s.flRead w = .done s 0x01 [] [(flAddr w, clean (s.flashRead (flOff w) (flLen w)))] := by
  unfold State.flRead
  rw [if_neg fun h => h.elim (by omega) (by rw [hpast]; decide), if_neg (by rw [hdead]; decide)]

theorem State.flErase_locked (w : List W32) (h : s.flashLock = true) : s.flErase w = .done s 0x06 [] [] := by
  unfold State.flErase
  rw [if_pos h, State.svcEnd]

theorem State.flProgram_locked (w : List W32) (h : s.flashLock = true) : s.flProgram w = .done s 0x06 [] [] := by
  unfold State.flProgram
  rw [if_pos h, State.svcEnd]

theorem State.flSelect_locked (w : List W32) (h : s.flashLock = true) : s.flSelect w = .done s 0x06 [] [] := by
  unfold State.flSelect
  rw [if_pos h, State.svcEnd]

theorem Table.get_filter_key {α : Type} (d : Nat → α) (p : Nat → Bool) (k : Nat) (t : Table α) :
    Table.get d (t.filter fun e => p e.1) k = if p k then Table.get d t k else d k := by
  unfold Table.get
  rw [Table.find_filter_key]
  split
  · rfl
  · rfl

/-- Erasing whole sectors erases their bytes, and no other. -/
theorem State.flashByte_flashErase {o n : Nat} (ho : o % 4096 = 0) (hn : n % 4096 = 0) {x : Nat} (hx : 4096 ≤ x) :
    (s.flashErase o n).flashByte x = if o ≤ x ∧ x < o + n then 0xFF else s.flashByte x := by
  rw [State.flashByte_of_le _ hx, State.flashByte_of_le _ hx]
  refine (Table.get_filter_key flashErased (fun k => decide (k / 4096 < o / 4096) || decide ((o + n + 4095) / 4096 ≤ k / 4096)) x
    s.board.flash).trans ?_
  by_cases hin : o ≤ x ∧ x < o + n
  · rw [if_pos hin, if_neg (by
      rw [decide_eq_false (by omega), decide_eq_false (by omega)]
      decide)]
    rfl
  · rw [if_neg hin, if_pos (by
      by_cases hlo : x < o
      · rw [decide_eq_true (by omega), Bool.true_or]
      · rw [decide_eq_true (p := _ ≤ _) (by omega), Bool.or_true])]

theorem State.flErase_erases (w : List W32) (hlock : s.flashLock = false) (hdead : s.board.dead = false)
    (hopen : s.flashOpen (flOff w) (flLen w) = true) (ho : flOff w % 4096 = 0) (hn : flLen w % 4096 = 0) :
    ∃ t, s.flErase w = .done t 0x01 [] [] ∧ t = { s with board := t.board } ∧
      ∀ x, 4096 ≤ x → t.flashByte x = (if flOff w ≤ x ∧ x < flOff w + flLen w then 0xFF else s.flashByte x) := by
  refine ⟨s.flashErase (flOff w) (flLen w), ?_, rfl, fun x hx => s.flashByte_flashErase ho hn hx⟩
  unfold State.flErase
  rw [if_neg (by rw [hlock]; decide), if_neg (by omega), if_neg (by rw [hopen]; decide), if_neg (by rw [hdead]; decide), State.svcEnd]

/-- A range that may be changed lies beyond the boot sector. -/
theorem State.le_of_flashOpen {o n : Nat} (h : s.flashOpen o n = true) : 4096 ≤ o := by
  unfold State.flashOpen at h
  rw [Bool.or_eq_true] at h
  rcases h with h | h
  · have := (Bool.and_eq_true _ _ ▸ h).1
    have := of_decide_eq_true this
    omega
  · obtain ⟨k, -, hk⟩ := List.any_eq_true.mp h
    simp only [Bool.and_eq_true, decide_eq_true_eq] at hk
    have hbase : 4096 ≤ slotBase k := by
      unfold slotBase
      split <;> omega
    omega

theorem State.flashByte_flashPut_ne {o : Nat} {bs : List Byte} {x : Nat} (hx : x < o ∨ o + bs.length ≤ x) :
    (s.flashPut o bs).flashByte x = s.flashByte x := by
  have hget : Table.get flashErased (s.flashPut o bs).board.flash x = Table.get flashErased s.board.flash x := by
    have h := Table.get_foldl_set_ne flashErased (fun _ => false) (cells o bs) s.board.flash (b := x) fun c hc hxc => by
      obtain ⟨i, hi, rfl⟩ := mem_cells.mp hc
      dsimp only at hxc
      omega
    unfold cells at h
    rw [List.foldl_map] at h
    exact h
  unfold State.flashByte
  rw [State.flashPut_bootCfg, hget]

theorem State.flashByte_flashPut_mem {o : Nat} {bs : List Byte} {i : Nat} (ho : 4096 ≤ o) (hi : i < bs.length) :
    (s.flashPut o bs).flashByte (o + i) = bs[i] := by
  have h := Table.get_foldl_set_mem flashErased (fun _ => false) (cs := cells o bs) s.board.flash (b := o + i) (v := bs[i]) (nodup_cells o bs)
    (mem_cells.mpr ⟨i, hi, rfl⟩) rfl
  unfold cells at h
  rw [List.foldl_map] at h
  rw [State.flashByte_of_le _ (by omega)]
  exact h

theorem State.flashByte_event (p : Page) (code n x : Nat) : (s.event p code n).flashByte x = s.flashByte x := by
  unfold State.flashByte
  rw [(s.event_within p code n).board (by decide)]

theorem State.flProgram_programs (w : List W32) {data : List OutByte} (hlock : s.flashLock = false) (hdead : s.board.dead = false)
    (hopen : s.flashOpen (flOff w) (flLen w) = true) (hpast : s.flashPast w = false) (ho : flOff w % 256 = 0) (hn : flLen w % 256 = 0)
    (herased : (s.flashRead (flOff w) (flLen w)).all (fun b => b == 0xFF) = true)
    (hdata : s.svcRead (sbCtx w) (flAddr w) (flLen w) = .got data) (hclear : data.any Prod.snd = false) (hlen : data.length = flLen w) :
    ∃ t, s.flProgram w = .done t 0x01 [] [] ∧ t.flashRead (flOff w) (flLen w) = data.map Prod.fst ∧
      ∀ x, x < flOff w ∨ flOff w + flLen w ≤ x → t.flashByte x = s.flashByte x := by
  have hall : ((s.flashRead (flOff w) (flLen w)).any fun b => b != 0xFF) = false := by
    rw [List.any_eq_false]
    intro b hb
    have := List.all_eq_true.mp herased b hb
    simpa using this
  have hlen' : (data.map Prod.fst).length = flLen w := by rw [List.length_map, hlen]
  refine ⟨(s.flashPut (flOff w) (data.map Prod.fst)).event .boot 0x03 (flLen w / 256), ?_, ?_, fun x hx => ?_⟩
  · unfold State.flProgram
    rw [if_neg (by rw [hlock]; decide), if_neg (by omega), if_neg (by rw [hopen, hpast]; decide), if_neg (by rw [hdead, hall]; decide), hdata,
      State.svcUse, if_neg (by rw [hclear]; decide), State.svcEnd]
  · refine List.ext_getElem (by rw [State.flashRead, List.length_map, List.length_range, hlen']) fun i _ hi => ?_
    simp only [State.flashRead, List.getElem_map, List.getElem_range, State.flashByte_event]
    rw [s.flashByte_flashPut_mem (s.le_of_flashOpen hopen) hi, List.getElem_map]
  · rw [State.flashByte_event, State.flashByte_flashPut_ne _ (by omega)]

theorem State.flSelect_selects (w : List W32) (hlock : s.flashLock = false) (hdead : s.board.dead = false) :
    if s.slotReason (flSlot w) = 0 then ∃ t, s.flSelect w = .done t 0x01 [] [] ∧ t.board.bootCfg = some (flSlot w, flTrial w)
      else ∃ t, s.flSelect w = .done t 0x07 [] [] ∧ t.board = s.board := by
  have heq : s.flSelect w = if s.slotReason (flSlot w) ≠ 0 then (s.slotVerified (flSlot w)).svcEnd 0x07
      else ((s.slotVerified (flSlot w)).bootCfgPut (flSlot w) (flTrial w)).svcEnd 0x01 := by
    unfold State.flSelect
    rw [if_neg (by rw [hlock]; decide), if_neg (by rw [hdead]; decide)]
  rw [heq]
  split
  · next h =>
    rw [if_neg (not_not.mpr h)]
    exact ⟨_, rfl, rfl⟩
  · refine ⟨_, rfl, ?_⟩
    unfold State.slotVerified
    split
    · rfl
    · exact (s.event_within _ _ _).board (by decide)

theorem State.flConfirm_confirms (w : List W32) {k : Nat} (hrun : s.runSlot = some k) (hdead : s.board.dead = false) :
    ∃ t, s.flConfirm w = .done t 0x01 [] [] ∧ t.board.bootCfg = some (k, 0) ∧ t.flag .boot 0x100 28 = false := by
  refine ⟨(s.bootCfgPut k 0).setFlag .boot 0x100 28 false, ?_, rfl, ?_⟩
  · unfold State.flConfirm
    rw [hrun]
    dsimp only
    rw [if_neg (by rw [hdead]; decide), State.svcEnd]
  · exact State.flag_setFlag_same _ _ _ _ _ (by decide)

/-! ### The attestation service (R521) -/

theorem length_leWords (bs : List Byte) (n : Nat) : (leWords bs n).length = n := by rw [leWords, List.length_map, List.length_range]

theorem State.report_take (nonce : List Byte) (h : nonce.length = 32) :
    (s.report nonce).take 40 = leBytes 4 0x53504152 ++ leBytes 4 1 ++ nonce := by
  have hsplit : ∃ rest, s.report nonce = (leBytes 4 0x53504152 ++ leBytes 4 1 ++ nonce) ++ rest := by
    unfold State.report
    simp only [List.append_assoc]
    exact ⟨_, rfl⟩
  obtain ⟨rest, hrest⟩ := hsplit
  have hlen : (leBytes 4 0x53504152 ++ leBytes 4 1 ++ nonce).length = 40 := by
    rw [List.length_append, List.length_append, length_leBytes, length_leBytes, h]
  rw [hrest, ← hlen, List.take_left]

theorem State.attestationReport_serves {a : Nat} {bs : List OutByte} {w : List W32} (h : s.Serves 2 a bs w) :
    exec .attestationReport s = .next (s.svcApply 2 a (sbCtx w) w (if atBad w then .done s 0x03 [] []
      else match s.signed reportContext (s.report (wordsBytes ((w.drop 4).take 8))) with
        | (u, some sig) => .done u 0x01 [] [(atDst w, clean (s.report (wordsBytes ((w.drop 4).take 8)) ++ sig))]
        | (u, none) => .done u 0x02 [] [])) := by
  have hexec : exec .attestationReport s = execAttestationReport s := rfl
  rw [hexec, execAttestationReport, s.svcServe_serves h rfl]
  rfl

end

/-- Settles O46: the services by `svcServe_serves`, the functions of R519 one by one. -/
theorem flashAndReportsAreServed : Obligations.FlashAndReportsAreServed := by
  unfold Obligations.FlashAndReportsAreServed
  intro s a sv bs data w c o n hhead hfin hclear hrd hwr
  have hserves : ∀ {v}, sv = v → v ≠ 0 → s.Serves v a bs w := fun hsv hv => by
    have hblock : svcBlock sv / 4 = 16 := by
      unfold svcBlock
      rw [hsv, if_neg hv]
    rw [← hsv]
    exact ⟨hhead, hfin, hclear, by rw [hblock], hrd, hwr⟩
  have hnonce : (wordsBytes ((w.drop 4).take 8)).length = 32 := by
    rw [length_wordsBytes, List.length_take, List.length_drop, length_leWords]
    decide
  refine ⟨fun x hx hsv hfn => ?_, fun hsv => s.attestationReport_serves (hserves hsv (by decide)), s.report_take _ hnonce,
    fun hlock => ⟨s.flErase_locked w hlock, s.flProgram_locked w hlock, s.flSelect_locked w hlock⟩,
    s.flRead_reads w, s.flErase_erases w, s.flProgram_programs w, s.flSelect_selects w, fun k hrun => s.flConfirm_confirms w hrun⟩
  obtain ⟨mine, hmine, hexec⟩ := exec_flash w x hx hfn s
  rw [hexec, s.flash_serves (hserves hsv (by decide)) hmine]

end Sys2Proof.Machine
end

section
/-! PROOF. The checkpoint service (R426 to R431). -/
namespace Sys2Proof.Machine

section
variable (s : State)

/-! ### Which command serves which function (R427) -/

theorem State.ckpt_serves {a : Nat} {bs : List OutByte} {w : List W32} (h : s.Serves 0 a bs w) {mine : List W32 → Bool}
    (hmine : mine w = true) (job : State → List W32 → SvcRes) :
    s.ckpt mine job = s.svcApply 0 a (sbCtx w) w (if ckBad w then .done s 0x03 [ckDetail 0] [] else (job s w).plain) := by
  unfold State.ckpt
  rw [s.svcServe_serves h hmine]
  cases ckBad w with
  | true => rfl
  | false => rfl

theorem exec_ckpt (w : List W32) : ∀ x ∈ [(Instr.ckptDigest, 1, 0, State.ckptDigest), (.ckptTables, 2, 0, State.ckptTables),
    (.ckptSign, 3, 0, State.ckptSign), (.verifyBytes, 4, 0, State.verifyBytes), (.verifyPageList, 4, 1, State.verifyPages),
    (.verifySignature, 4, 2, State.verifySig), (.ckptLoad, 5, 0, State.ckptLoad)], sbFn w = x.2.1 → ckMode w = x.2.2.1 →
    ∀ s : State, ∃ mine, mine w = true ∧ exec x.1 s = .next (s.ckpt mine x.2.2.2) := by
  intro x hx hfn hmode s
  simp only [List.mem_cons, List.not_mem_nil, or_false] at hx
  rcases hx with rfl | rfl | rfl | rfl | rfl | rfl | rfl
  · exact ⟨fun w => sbFn w == 1 || sbFn w == 0 || decide (6 ≤ sbFn w), by simp [hfn], rfl⟩
  · exact ⟨fun w => sbFn w == 2, by simp [hfn], rfl⟩
  · exact ⟨fun w => sbFn w == 3, by simp [hfn], rfl⟩
  · exact ⟨fun w => sbFn w == 4 && (ckMode w == 0 || ckMode w == 3), by simp [hfn, hmode], rfl⟩
  · exact ⟨fun w => sbFn w == 4 && ckMode w == 1, by simp [hfn, hmode], rfl⟩
  · exact ⟨fun w => sbFn w == 4 && ckMode w == 2, by simp [hfn, hmode], rfl⟩
  · exact ⟨fun w => sbFn w == 5, by simp [hfn], rfl⟩

theorem ckBad_of_unused {w : List W32} (h : sbFn w = 0 ∨ 6 ≤ sbFn w) : ckBad w = true := by
  unfold ckBad
  rcases h with h | h
  · rw [h]
    simp
  · rw [decide_eq_true h]
    simp

theorem State.ckptDigest_refuses {a : Nat} {bs : List OutByte} {w : List W32} (h : s.Serves 0 a bs w) (hfn : sbFn w = 0 ∨ 6 ≤ sbFn w) :
    exec .ckptDigest s = .next (s.svcApply 0 a (sbCtx w) w (.done s 0x03 [ckDetail 0] [])) := by
  have hexec : exec .ckptDigest s = .next (s.ckpt (fun w => sbFn w == 1 || sbFn w == 0 || decide (6 ≤ sbFn w)) State.ckptDigest) := rfl
  have hmine : (sbFn w == 1 || sbFn w == 0 || decide (6 ≤ sbFn w)) = true := by
    rcases hfn with hfn | hfn <;> simp [hfn]
  rw [hexec, s.ckpt_serves h hmine, if_pos (ckBad_of_unused hfn)]

/-! ### DIGEST and TABLES (R427, R429, R430) -/

/-- The digests of a shard object whose header and pages are `h` and `d`: of each page, and of the whole. -/
def objPageDigests (h d : List Byte) : List Byte :=
  (List.range (leNat ((h.drop 0x18).take 4))).flatMap fun i => sha256 ((d.drop (i * pageLen)).take pageLen)

def objDigest (h d : List Byte) : List Byte :=
  sha256 (h.take 0x20 ++ List.replicate 32 0#8 ++ (h.take 0x90).drop 0x40 ++ sha256 (h.drop 4096) ++ sha256 (objPageDigests h d) ++
    (h.take 4096).drop 0xD0)

theorem State.ckptDigest_digests (w : List W32) {h d : List Byte} (hhead : s.svcLocal (sbCtx w) (ckSrc w) (4096 + tableLen) = .ok (h, false))
    (hm : leNat ((h.drop 0x18).take 4) ≤ 327680)
    (hpages : s.svcLocal (sbCtx w) ((ckSrc w + objPages) % 2 ^ 43) (leNat ((h.drop 0x18).take 4) * pageLen) = .ok (d, false)) :
    s.ckptDigest w = .done s 0x01 (ckDetail 0 :: ckResult (objDigest h d)) [((ckSrc w + objList) % 2 ^ 43, clean (objPageDigests h d)),
      ((ckSrc w + 0x90) % 2 ^ 43, clean (sha256 (h.drop 4096) ++ sha256 (objPageDigests h d))),
      ((ckSrc w + 0x20) % 2 ^ 43, clean (objDigest h d))] := by
  have hstep : s.ckptHead w (.ok (h, false)) = s.ckptPages w h false (.ok (d, false)) := by
    unfold State.ckptHead
    generalize (ckSrc w + objPages) % 2 ^ 43 = x at hpages ⊢
    dsimp only
    generalize leNat ((h.drop 0x18).take 4) = m at hm hpages ⊢
    rw [if_neg (Nat.not_lt.mpr hm), hpages]
  rw [State.ckptDigest, hhead, hstep]
  unfold State.ckptPages objDigest objPageDigests
  dsimp only
  rw [Bool.or_false, if_neg Bool.false_ne_true]

theorem State.ckptTables_committing (w : List W32) (h : s.stepm.s0.st = .commit ∨ s.stepm.s1.st = .commit) :
    s.ckptTables w = .done s 0x04 [] [] := by
  unfold State.ckptTables
  rw [if_pos (by rcases h with h | h <;> rw [h] <;> simp), State.svcEnd]

/-- The table region with its pending fields zero. -/
def State.tableBytes (s : State) : List OutByte := (List.range tableLen).map fun i =>
  (s.hbmByte (s.windowKey (ckTables + i)) &&& ~~~(pendingMask (ckTables + i)), s.winPoison (ckTables + i))

theorem State.ckptTables_gives (w : List W32) (h0 : s.stepm.s0.st ≠ .commit) (h1 : s.stepm.s1.st ≠ .commit) (hok : s.windowOk = true)
    (hclear : ∀ i < tableLen, s.winPoison (ckTables + i) = false) :
    ∃ l, s.ckptTables w = .done s 0x01 [ckDetail 0] [(ckDst w, l)] ∧ l.length = tableLen ∧
      ∀ i (h : i < l.length), l[i] = (s.hbmByte (s.windowKey (ckTables + i)) &&& ~~~pendingMask (ckTables + i), false) := by
  have hnone : (s.tableBytes.any Prod.snd) = false := by
    rw [List.any_eq_false]
    intro b hb
    obtain ⟨i, hi, rfl⟩ := List.mem_map.mp hb
    dsimp only
    rw [hclear i (List.mem_range.mp hi)]
    decide
  have hlen : s.tableBytes.length = tableLen := by rw [State.tableBytes, List.length_map, List.length_range]
  refine ⟨s.tableBytes, ?_, hlen, fun i hi => ?_⟩
  · unfold State.ckptTables
    rw [if_neg (by simp [h0, h1]), if_neg (by rw [hok]; decide)]
    exact if_neg (by
      change ¬ s.tableBytes.any Prod.snd = true
      rw [hnone]
      decide)
  · have hi' : i < tableLen := hlen ▸ hi
    have hget : s.tableBytes[i]? = some (s.hbmByte (s.windowKey (ckTables + i)) &&& ~~~pendingMask (ckTables + i), false) := by
      rw [State.tableBytes, List.getElem?_map, List.getElem?_range hi', Option.map_some, hclear i hi']
    exact (List.getElem?_eq_some_iff.mp hget).2

/-! ### SIGN, VERIFY and LOAD (R427) -/

theorem State.svcUse_got (ctx poison : Nat) {data : List OutByte} (hclear : data.any Prod.snd = false) (f : List Byte → SvcRes) :
    s.svcUse ctx poison (.got data) f = f (data.map Prod.fst) := by
  unfold State.svcUse
  exact if_neg (by rw [hclear]; decide)

theorem State.ckptSign_unaligned (w : List W32) (h : ckLen w % 64 ≠ 0) : s.ckptSign w = .done s 0x03 [] [] := by
  unfold State.ckptSign
  rw [if_pos h, State.svcEnd]

theorem State.ckptSign_signs (w : List W32) {data : List OutByte} (h : ckLen w % 64 = 0)
    (hdata : s.svcRead (sbCtx w) (ckSrc w) (ckLen w) = .got data) (hclear : data.any Prod.snd = false) :
    s.ckptSign w = (match s.signed manifestContext (sha256 (data.map Prod.fst)) with
      | (t, some sig) => .done t 0x01 [ckDetail 0] [((ckSrc w + ckLen w) % 2 ^ 43, clean (idKey ++ sig))]
      | (t, none) => .done t 0x02 [] []) := by
  unfold State.ckptSign
  rw [if_neg (not_not.mpr h), hdata, s.svcUse_got _ _ hclear]
  rfl

theorem State.verifyBytes_verifies (w : List W32) {data : List OutByte} (hdata : s.svcRead (sbCtx w) (ckSrc w) (ckLen w) = .got data)
    (hclear : data.any Prod.snd = false) : s.verifyBytes w = .done s (if sha256 (data.map Prod.fst) = ckExpect w then 0x01 else 0x02)
      (ckDetail 0 :: ckResult (sha256 (data.map Prod.fst))) [] := by
  unfold State.verifyBytes
  rw [hdata, s.svcUse_got _ _ hclear]

/-- Page `i` of the bytes has the digest that entry `i` of the list states. -/
abbrev pageMatches (bs list : List Byte) (i : Nat) : Prop := sha256 ((bs.drop (i * pageLen)).take pageLen) = (list.drop (32 * i)).take 32

theorem firstDiffer_none {bs list : List Byte} {n : Nat} (h : ∀ i < n, pageMatches bs list i) : firstDiffer bs list n = none := by
  unfold firstDiffer
  rw [List.find?_eq_none]
  intro i hi
  rw [bne_iff_ne, not_not]
  exact h i (List.mem_range.mp hi)

theorem firstDiffer_some {bs list : List Byte} {n m : Nat} (hm : m < n) (hdiff : ¬ pageMatches bs list m)
    (h : ∀ i < m, pageMatches bs list i) : firstDiffer bs list n = some m := by
  unfold firstDiffer
  rw [List.find?_range_eq_some]
  refine ⟨bne_iff_ne.mpr hdiff, List.mem_range.mpr hm, fun i hi => ?_⟩
  rw [Bool.not_eq_true', bne_eq_false_iff_eq]
  exact h i hi

section
variable (w : List W32) {data list : List OutByte} (hlen : ckLen w % pageLen = 0)
  (hdata : s.svcRead (sbCtx w) (ckSrc w) (ckLen w) = .got data) (hclear : data.any Prod.snd = false)
  (hlist : s.svcRead (sbCtx w) (ckDst w) (32 * (ckLen w / pageLen)) = .got list) (hclear' : list.any Prod.snd = false)
include hlen hdata hclear hlist hclear'

theorem State.verifyPages_differs {m : Nat} (h : firstDiffer (data.map Prod.fst) (list.map Prod.fst) (ckLen w / pageLen) = some m) :
    s.verifyPages w = .done s 0x02 (ckDetail m :: ckResult (sha256 (list.map Prod.fst))) [] := by
  unfold State.verifyPages
  generalize ckLen w = len at hlen hdata hlist h ⊢
  extract_lets n
  have hn : n = len / pageLen := rfl
  rw [← hn] at hlist h
  clear_value n
  rw [if_neg (not_not.mpr hlen), hdata, hlist]
  dsimp only
  rw [if_neg (by rw [hclear, hclear']; decide), h]

theorem State.verifyPages_agrees (h : firstDiffer (data.map Prod.fst) (list.map Prod.fst) (ckLen w / pageLen) = none) :
    s.verifyPages w = .done s (if sha256 (list.map Prod.fst) = ckExpect w then 0x01 else 0x02)
      (ckDetail 0 :: ckResult (sha256 (list.map Prod.fst))) [] := by
  unfold State.verifyPages
  generalize ckLen w = len at hlen hdata hlist h ⊢
  extract_lets n
  have hn : n = len / pageLen := rfl
  rw [← hn] at hlist h
  clear_value n
  rw [if_neg (not_not.mpr hlen), hdata, hlist]
  dsimp only
  rw [if_neg (by rw [hclear, hclear']; decide), h]

end

theorem State.verifySig_verifies (w : List W32) {data list : List OutByte} (hdata : s.svcRead (sbCtx w) (ckSrc w) (ckLen w) = .got data)
    (hclear : data.any Prod.snd = false) (hlist : s.svcRead (sbCtx w) ((ckSrc w + ckLen w) % 2 ^ 43) 17120 = .got list)
    (hclear' : list.any Prod.snd = false) (hlen : data.length = ckLen w) :
    ∃ t, s.verifySig w = .done t (if Config.slhVerify ((list.map Prod.fst).take 32) manifestContext (sha256 (data.map Prod.fst))
        ((list.map Prod.fst).drop 32) then 0x01 else 0x02) (ckDetail 0 :: ckResult (sha256 ((list.map Prod.fst).take 32))) [] ∧
      t = { s with io := t.io } := by
  have hboth : (data ++ list).any Prod.snd = false := by rw [List.any_append, hclear, hclear']; rfl
  have hlen' : (data.map Prod.fst).length = ckLen w := by rw [List.length_map, hlen]
  unfold State.verifySig
  extract_lets c
  have hjoin : (s.svcRead c (ckSrc w) (ckLen w)).join (s.svcRead c ((ckSrc w + ckLen w) % 2 ^ 43) 17120) = .got (data ++ list) := by
    rw [hdata, hlist]
    rfl
  rw [hjoin, s.svcUse_got _ _ hboth, List.map_append]
  dsimp only
  have htake : (data.map Prod.fst ++ list.map Prod.fst).take (ckLen w) = data.map Prod.fst := by rw [← hlen', List.take_left]
  have hdrop : (data.map Prod.fst ++ list.map Prod.fst).drop (ckLen w) = list.map Prod.fst := by rw [← hlen', List.drop_left]
  have hdrop' : (data.map Prod.fst ++ list.map Prod.fst).drop (ckLen w + 32) = (list.map Prod.fst).drop 32 := by
    rw [← List.drop_drop, hdrop]
  rw [htake, hdrop, hdrop']
  exact ⟨_, rfl, (s.verified_within _ _ _ _)⟩

theorem State.ckptLoad_open (w : List W32) (h : s.stepOpen = true) : s.ckptLoad w = .done s 0x04 [] [] := by
  unfold State.ckptLoad
  rw [if_pos h, State.svcEnd]

theorem State.ckptLoad_loads (w : List W32) {l : List OutByte} (hopen : s.stepOpen = false) (hok : s.windowOk = true)
    (hl : s.svcRead (sbCtx w) (ckSrc w) tableLen = .got l) (hclear : l.any Prod.snd = false) :
    s.ckptLoad w = .done (s.winWrite ckTables (l.map Prod.fst)) 0x01 [ckDetail 0] [] := by
  unfold State.ckptLoad
  rw [if_neg (by rw [hopen]; decide), if_neg (by rw [hok]; decide), hl, s.svcUse_got _ _ hclear]

end

/-- Settles O45: the service by `svcServe_serves`, the rows of R427 one by one. -/
theorem checkpointsAreServed : Obligations.CheckpointsAreServed := by
  unfold Obligations.CheckpointsAreServed
  intro s a bs data list w c clear hhead hfin hclear hrd hwr
  have hserves : s.Serves 0 a bs w := ⟨hhead, hfin, hclear, rfl, hrd, hwr⟩
  refine ⟨fun x hx hfn hmode => ?_, s.ckptDigest_refuses hserves, fun h d hh hm hd => s.ckptDigest_digests w hh hm hd,
    s.ckptTables_committing w, s.ckptTables_gives w, s.ckptSign_unaligned w, s.ckptSign_signs w, fun hdata hdc =>
    ⟨s.verifyBytes_verifies w hdata hdc, fun hlen hlist hlc => ⟨fun m hm hdiff hsame => ?_, fun hsame => ?_⟩, fun hlist hlc hlen =>
      s.verifySig_verifies w hdata hdc hlist hlc hlen⟩, s.ckptLoad_open w, fun hopen hok => ?_⟩
  · obtain ⟨mine, hmine, hexec⟩ := exec_ckpt w x hx hfn hmode s
    rw [hexec, s.ckpt_serves hserves hmine]
  · exact s.verifyPages_differs w hlen hdata hdc hlist hlc (firstDiffer_some hm hdiff hsame)
  · exact s.verifyPages_agrees w hlen hdata hdc hlist hlc (firstDiffer_none hsame)
  · split
    · next l hl => exact fun hlc => s.ckptLoad_loads w hopen hok hl hlc
    · trivial

end Sys2Proof.Machine
end

section
/-! PROOF. Registers that stay while the log is written and an array is classified (R458 to R464): those off the log's page and
off the fences of the Cairn pages. -/
namespace Sys2Proof.Machine

section
variable {A : Nat → Prop} (s : State)

theorem State.detect_calm (p : Page) (m : W32) (h10 : ¬ A (p.base + 0x010)) (h18 : ¬ A (p.base + 0x018)) : s.Calm A (s.detect p m) := by
  unfold State.detect
  extract_lets t u
  have ht : s.Calm A t := s.setReg_calm p _ _ h10
  have hu : s.Calm A u := .ite (ht.trans (t.setReg_calm p _ _ h18)) ht
  exact hu.trans (u.irqUpdate_calm p)

theorem State.uhlPut_calm_off (hlog : ∀ o, o < 0x110 → o ≠ 0x100 → ¬ A (Page.uhl.base + o)) (r : UhlRec) : s.Calm A (s.uhlPut r) := by
  unfold State.uhlPut
  refine .ite (s.setErr_calm .uhl 1 (hlog _ (by decide) (by decide)) (hlog _ (by decide) (by decide))) ?_
  extract_lets i t0 _ t1 t2
  have h0 : s.Calm A t0 := (s.flashPut_within _ _).calm (by decide) (by decide)
  clear_value t0
  have h1 : s.Calm A t1 := h0.trans ((t0.setMgmt_within _).calm (by decide) (by decide))
  clear_value t1
  have h2 : s.Calm A t2 := h1.trans (t1.setReg_calm _ _ _ (hlog _ (by decide) (by decide)))
  clear_value t2
  exact (h2.trans (t2.setReg_calm _ _ _ (hlog _ (by decide) (by decide)))).trans
    (State.event_calm _ .uhl 0x02 1 fun o _ ho => hlog _ (ho.trans (by decide)) (by omega))

theorem State.uhlRoom_calm_off (hlog : ∀ o, o < 0x110 → o ≠ 0x100 → ¬ A (Page.uhl.base + o)) : s.Calm A s.uhlRoom := by
  unfold State.uhlRoom
  extract_lets i sec used log gone keep t1 t2
  refine .ite (.refl s) ?_
  have h1 : s.Calm A t1 := ((s.flashErase_within _ _).calm (by decide) (by decide)).trans
    (State.event_calm _ .uhl 0x03 1 fun o _ ho => hlog _ (ho.trans (by decide)) (by omega))
  have h2 : s.Calm A t2 := h1.trans (t1.setReg_calm _ _ _ (hlog _ (by decide) (by decide)))
  exact h2.trans (State.Calm.foldl _ (fun t w _ => t.uhlPut_calm_off hlog _) t2)

theorem State.uhlWrite_calm_off (hlog : ∀ o, o < 0x110 → o ≠ 0x100 → ¬ A (Page.uhl.base + o)) (r : UhlRec) : s.Calm A (s.uhlWrite r) :=
  (s.uhlRoom_calm_off hlog).trans (State.uhlPut_calm_off _ hlog r)

theorem State.unfence_calm (hchk : ∀ n o, 0x118 ≤ o → o < 0x180 → ¬ A ((Page.chk n).base + o)) (a : Nat) : s.Calm A (s.unfence a) := by
  unfold State.unfence
  extract_lets n i t
  have ht : s.Calm A t := s.setReg_calm _ _ _ (hchk _ _ (by omega) (by omega))
  exact ht.trans (.foldl _ (fun u k hk => .ite (u.setReg_calm _ _ _ (hchk _ _ (by omega) (by
    have hk := List.mem_range.mp hk
    omega))) (.refl u)) t)

theorem State.classify_calm (hlog : ∀ o, o < 0x110 → o ≠ 0x100 → ¬ A (Page.uhl.base + o))
    (hchk : ∀ n o, 0x118 ≤ o → o < 0x180 → ¬ A ((Page.chk n).base + o)) (a : Nat) : s.Calm A (s.classify a) := by
  unfold State.classify
  extract_lets log recs bins sigs n i uf raw entry cls t
  have hentry : ∀ k, entry = some k → k < 16 := fun k hk => by
    simp only [entry, State.condEntry] at hk
    split at hk
    · next hfind => exact List.mem_range.mp (List.mem_of_find?_eq_some (hfind.trans hk))
    · exact List.mem_range.mp (List.mem_of_find?_eq_some hk)
  have ht : s.Calm A t := by
    clear_value cls entry
    simp only [t]
    split
    · exact s.setReg_calm _ _ _ (hchk _ _ (by omega) (by omega))
    · next k =>
      have hk := hentry k rfl
      exact s.setReg_calm _ _ _ (hchk _ _ (by omega) (by omega))
    · exact s.unfence_calm hchk a
  clear_value t cls
  exact .ite ht (ht.trans (t.uhlWrite_calm_off hlog _))

end

/-! ### The count of MISMATCH records -/

section
variable (s : State)

theorem State.uhlPut_mism (r : UhlRec) : (s.uhlPut r).mgmt.mism = s.mgmt.mism := by
  unfold State.uhlPut
  split
  · rw [(s.setErr_within _ _).mgmt (by decide)]
  · extract_lets i t0 m t1 t2
    have h0 : t0.mgmt = s.mgmt := (s.flashPut_within _ _).mgmt (by decide)
    have h1 : t1.mgmt.mism = t0.mgmt.mism := rfl
    clear_value t0 t1
    have h2 : t2.mgmt = t1.mgmt := (t1.setReg_within _ _ _).mgmt (by decide)
    rw [(State.event_within _ _ _ _).mgmt (by decide), (State.setReg_within _ _ _ _).mgmt (by decide), h2, h1, h0]

theorem State.uhlRoom_mism : s.uhlRoom.mgmt.mism = s.mgmt.mism := by
  have hfold : ∀ (l : List (List W32)) (t : State), (l.foldl (fun t w => t.uhlPut (uhlAgain w)) t).mgmt.mism = t.mgmt.mism := by
    intro l
    induction l with
    | nil => exact fun _ => rfl
    | cons w l ih => exact fun t => (ih _).trans (t.uhlPut_mism _)
  unfold State.uhlRoom
  extract_lets i sec used log gone keep t1 t2
  split
  · rfl
  have h1 : t1.mgmt = s.mgmt :=
    ((State.event_within _ _ _ _).mgmt (by decide)).trans ((s.flashErase_within _ _).mgmt (by decide))
  have h2 : t2.mgmt = t1.mgmt := (t1.setReg_within _ _ _).mgmt (by decide)
  rw [hfold, h2, h1]

theorem State.uhlWrite_mism (r : UhlRec) : (s.uhlWrite r).mgmt.mism = s.mgmt.mism := (State.uhlPut_mism _ r).trans s.uhlRoom_mism

theorem State.unfence_within (a : Nat) : s.within [.io] (s.unfence a) := by
  unfold State.unfence
  extract_lets n i t
  have ht : s.within [.io] t := s.setReg_within _ _ _
  exact ht.trans (.foldl (fun u k => .ite (fun _ => u.setReg_within _ _ _) fun _ => .refl _ _) _ _)

theorem State.classify_mism (a : Nat) : (s.classify a).mgmt.mism = s.mgmt.mism := by
  unfold State.classify
  extract_lets log recs bins sigs n i uf raw entry cls t
  have ht : t.mgmt = s.mgmt := by
    clear_value cls entry
    simp only [t]
    split
    · exact (s.setReg_within _ _ _).mgmt (by decide)
    · exact (s.setReg_within _ _ _).mgmt (by decide)
    · exact (s.unfence_within a).mgmt (by decide)
  clear_value t cls
  split
  · rw [ht]
  · rw [t.uhlWrite_mism, ht]

end

end Sys2Proof.Machine
end

section
/-! PROOF. What Cairn makes of a check (R449, R452 to R454): the pair it takes, its abandonment, its verdict. -/
namespace Sys2Proof.Machine

/-! ### The registers of a verdict -/

/-- `ERR_STAT` and the registers from 0x100 to 0x117 of the Cairn pages. -/
abbrev verdictAddr (a : Nat) : Prop :=
  0x200000 ≤ a ∧ (a % 0x4000 = 0x3010 ∨ 0x3100 ≤ a % 0x4000 ∧ a % 0x4000 < 0x3118)

/-- Those without the counts of the two slots. -/
abbrev offSlots (a : Nat) : Prop := verdictAddr a ∧ a ≠ 0x803108 ∧ a ≠ 0x80310C

theorem verdictAddr_chk (n : Nat) {o : Nat} (h : 0x100 ≤ o) (h' : o < 0x118) : verdictAddr ((Page.chk n).base + o) := by
  simp only [verdictAddr, Page.base]
  omega

theorem offSlots_chk {n : Nat} (hn : n < 64) {o : Nat} (h : o = 0x010 ∨ 0x100 ≤ o ∧ o < 0x118) : offSlots ((Page.chk n).base + o) := by
  simp only [offSlots, verdictAddr, Page.base]
  omega

theorem not_verdictAddr_uhl (o : Nat) (h : o < 0x110) (_ : o ≠ 0x100) : ¬ verdictAddr (Page.uhl.base + o) := by
  simp only [verdictAddr, Page.base]
  omega

theorem not_verdictAddr_fence (n o : Nat) (h : 0x118 ≤ o) (h' : o < 0x180) : ¬ verdictAddr ((Page.chk n).base + o) := by
  simp only [verdictAddr, Page.base]
  omega

theorem not_verdictAddr_tly (o : Nat) (h : o < 0x1000) : ¬ verdictAddr (Page.tly.base + o) := by
  simp only [verdictAddr, Page.base]
  omega

theorem not_verdictAddr_counter {p : Page} (hp : p.base % 0x4000 = 0x3000) (o : Nat) (h : 0x030 ≤ o) (h' : o < 0x040) :
    ¬ verdictAddr (p.base + o) := by
  simp only [verdictAddr]
  omega

theorem Page.base_chk_mod (n : Nat) : (Page.chk n).base % 0x4000 = 0x3000 := by
  simp only [Page.base]
  omega

theorem not_offSlots_slot {k : Nat} (hk : k < 2) : ¬ offSlots (Page.chkG.base + (0x108 + 4 * k)) := by
  simp only [offSlots, Page.base]
  omega

theorem verdictAddr_of_offSlots (a : Nat) (h : offSlots a) : verdictAddr a := h.1

/-! ### The release of the op's tally -/

/-- What the release of a held tally can change. -/
abbrev releaseAreas : List Area := [.ridges, .io, .out, .tallies, .host, .wins, .cores]

/-- One op of a check holds its tally no longer. -/
def State.releaseOp (c : Check) (s : State) (o : TileOp) : State :=
  let o1 := { o with sampled := false }
  let u := s.setRidge c.ridge ((s.ridge c.ridge).putTile o1)
  if o.ph = .held then (u.event (.chk c.ridge) 0x06 (u.refcnt - o.heldAt).toNat).finishTile c.ridge o1 else u

section
variable (s : State)

theorem State.checkRelease_eq (c : Check) : s.checkRelease c =
    ((s.ridge c.ridge).tileOps.filter fun o => o.id == c.op || o.mate == some c.op).foldl (State.releaseOp c) s := rfl

theorem State.finishTile_releases (n : Nat) (o : TileOp) : s.within releaseAreas (s.finishTile n o) ∧ s.Calm verdictAddr (s.finishTile n o) := by
  unfold State.finishTile
  extract_lets r t
  have hset : ∀ q, s.within releaseAreas (s.setRidge n q) ∧ s.Calm verdictAddr (s.setRidge n q) := fun q => ⟨rfl, .of_io rfl rfl⟩
  have ht := hset (r.dropTile o)
  split
  · exact hset _
  split
  · exact hset _
  split
  · exact ht
  · exact ⟨ht.1.then (by decide) (t.opTally_within _ _), ht.2.trans (t.opTally_calm not_verdictAddr_tly _ _)⟩

theorem State.releaseOp_releases (c : Check) (o : TileOp) :
    s.within releaseAreas (s.releaseOp c o) ∧ s.Calm verdictAddr (s.releaseOp c o) := by
  unfold State.releaseOp
  extract_lets o1 u
  have hu : s.within releaseAreas u ∧ s.Calm verdictAddr u := ⟨rfl, .of_io rfl rfl⟩
  split
  · have hv := State.finishTile_releases (u.event (.chk c.ridge) 0x06 (u.refcnt - o.heldAt).toNat) c.ridge o1
    exact ⟨(hu.1.then (by decide) (u.event_within _ _ _)).trans hv.1,
      (hu.2.trans (u.event_calm _ _ _ (not_verdictAddr_counter (Page.base_chk_mod _)))).trans hv.2⟩
  · exact hu

theorem State.checkRelease_releases (c : Check) : s.within releaseAreas (s.checkRelease c) ∧ s.Calm verdictAddr (s.checkRelease c) := by
  rw [s.checkRelease_eq]
  exact ⟨State.within.foldl (fun t o => (t.releaseOp_releases c o).1) _ s,
    State.Calm.foldl _ (fun t o _ => (t.releaseOp_releases c o).2) s⟩

/-- The pending count of a slot lies in the upper half of its register. -/
theorem State.cairnPending_slots (j : Option Nat) (hj : ∀ k, j = some k → k < 2) (d : Int) :
    s.Calm offSlots (s.cairnPending j d) ∧
    ∀ k < 2, (s.cairnPending j d).field .chkG (0x108 + 4 * k) 15 0 = s.field .chkG (0x108 + 4 * k) 15 0 := by
  cases j with
  | none => exact ⟨.refl s, fun _ _ => rfl⟩
  | some i =>
    refine ⟨s.setReg_calm _ _ _ (not_offSlots_slot (hj i rfl)), fun k _ => ?_⟩
    rw [State.cairnPending]
    by_cases hki : k = i
    · subst hki
      rw [State.field, State.setField, State.reg_setReg_same, fld_setFld_ne _ _ _ _ _ _ (by decide) (by decide)]
      rfl
    · rw [State.field, State.reg_setField_ne _ _ _ _ (by omega)]
      rfl

/-- What an abandoned sample leaves (R453). -/
theorem State.abandonSample_abandons (c : Check) (hj : ∀ k, c.jslot = some k → k < 2) (hr : c.ridge < 64) :
    (s.abandonSample c).reg (.chk c.ridge) 0x108 = satAdd32 (s.reg (.chk c.ridge) 0x108) 1 ∧
    (s.abandonSample c).reg (.chk c.ridge) 0x10C = s.reg (.chk c.ridge) 0x10C ∧
    (s.abandonSample c).checks = s.checks.filter (fun x => x != c) ∧ (s.abandonSample c).mgmt = s.mgmt ∧
    (s.abandonSample c).refcnt = s.refcnt := by
  unfold State.abandonSample State.abandonCheck
  extract_lets t
  have h1 := t.cairnPending_within c.jslot (-1)
  have h1c := (t.cairnPending_slots c.jslot hj (-1)).1
  have hreg : ∀ o, 0x100 ≤ o → o < 0x118 → (t.cairnPending c.jslot (-1)).reg (.chk c.ridge) o = s.reg (.chk c.ridge) o := fun o h h' =>
    h1c.reg (offSlots_chk hr (.inr ⟨h, h'⟩))
  generalize t.cairnPending c.jslot (-1) = u at h1 hreg
  have h2 : (u.addSat (.chk c.ridge) 0x108 1).reg (.chk c.ridge) 0x108 = satAdd32 (s.reg (.chk c.ridge) 0x108) 1 := by
    rw [State.reg_addSat, hreg _ (by decide) (by decide)]
  have h2' : (u.addSat (.chk c.ridge) 0x108 1).reg (.chk c.ridge) 0x10C = s.reg (.chk c.ridge) 0x10C := by
    rw [State.reg_addSat_ne _ _ (by omega), hreg _ (by decide) (by decide)]
  have h2w : u.within [.io] (u.addSat (.chk c.ridge) 0x108 1) := u.setReg_within _ _ _
  generalize u.addSat (.chk c.ridge) 0x108 1 = v at h2 h2' h2w
  have h3w := v.event_within (.chk c.ridge) 0x07 1
  have h3 := v.event_keepsRegs (.chk c.ridge) 0x07 1
  generalize v.event (.chk c.ridge) 0x07 1 = x at h3 h3w
  obtain ⟨hw, hc⟩ := x.checkRelease_releases c
  have hwx := (h1.trans h2w).trans h3w
  refine ⟨?_, ?_, ?_, ?_, ?_⟩
  · rw [hc.reg (verdictAddr_chk _ (by decide) (by decide)), h3.reg _ (by decide) (by decide), h2]
  · rw [hc.reg (verdictAddr_chk _ (by decide) (by decide)), h3.reg _ (by decide) (by decide), h2']
  · rw [hw.checks (by decide), hwx.checks (by decide)]
  · rw [hw.mgmt (by decide), hwx.mgmt (by decide)]
  · rw [hw.refcnt (by decide), hwx.refcnt (by decide)]

/-- A check that ends keeps what its verdict recorded. -/
theorem State.endCheck_ends (c : Check) (hj : ∀ k, c.jslot = some k → k < 2) :
    s.Calm offSlots (s.endCheck c) ∧
    (∀ k < 2, (s.endCheck c).field .chkG (0x108 + 4 * k) 15 0 = s.field .chkG (0x108 + 4 * k) 15 0) ∧
    (s.endCheck c).checks = s.checks.filter (fun x => x != c) ∧ (s.endCheck c).mgmt = s.mgmt := by
  unfold State.endCheck
  generalize ht : ({ s with checks := s.checks.filter fun x => x != c } : State) = t
  have hts : s.Calm offSlots t := by
    subst ht
    exact .of_io rfl rfl
  have hcheck : t.checks = s.checks.filter fun x => x != c := by rw [← ht]
  have hmgmt : t.mgmt = s.mgmt := by rw [← ht]
  have hfield : ∀ k, t.field .chkG (0x108 + 4 * k) 15 0 = s.field .chkG (0x108 + 4 * k) 15 0 := fun k => by
    subst ht
    rfl
  clear ht
  have h1 := t.cairnPending_within c.jslot (-1)
  obtain ⟨h1c, h1f⟩ := t.cairnPending_slots c.jslot hj (-1)
  generalize t.cairnPending c.jslot (-1) = u at h1 h1c h1f
  obtain ⟨hw, hc⟩ := u.checkRelease_releases c
  refine ⟨(hts.trans h1c).trans (hc.mono verdictAddr_of_offSlots), fun k hk => ?_, ?_, ?_⟩
  · have hslot : verdictAddr (Page.chkG.base + (0x108 + 4 * k)) := by
      simp only [verdictAddr, Page.base]
      omega
    rw [hc.field 15 0 hslot, h1f k hk, hfield]
  · rw [hw.checks (by decide), h1.checks (by decide), hcheck]
  · rw [hw.mgmt (by decide), h1.mgmt (by decide), hmgmt]

/-! ### The record and the errors of a verdict -/

/-- The array that a verdict names (R452). -/
def Check.culprit (c : Check) (v : Nat) : Nat := if v = 2 then c.pairArray c.checker else c.srcArray

theorem State.logMismatch_logs (c : Check) (v : Nat) (arb : Bool) :
    s.Calm verdictAddr (s.logMismatch c v arb) ∧ s.within [.io, .out, .board, .mgmt] (s.logMismatch c v arb) ∧
    (Table.get (fun _ => 0) s.mgmt.mism (c.culprit v) < 16 → Table.get (fun _ => 0) (s.logMismatch c v arb).mgmt.mism (c.culprit v) =
      Table.get (fun _ => 0) s.mgmt.mism (c.culprit v) + 1) := by
  unfold State.logMismatch
  extract_lets culprit q n mg t1 t2 t3
  have hcu : c.culprit v = culprit := rfl
  rw [hcu]
  have hn : Table.get (fun _ => 0) s.mgmt.mism culprit = n := rfl
  rw [hn]
  split
  · next hfull => exact ⟨.refl s, .refl _ _, fun hlt => absurd hfull (by omega)⟩
  have h1w : s.within [.io, .out, .board, .mgmt] t1 := rfl
  have h1c : s.Calm verdictAddr t1 := .of_io rfl rfl
  have h1m : Table.get (fun _ => 0) t1.mgmt.mism culprit = n + 1 :=
    Table.get_set_same (fun _ => 0) s.mgmt.mism culprit (n + 1)
  clear_value t1 n
  have h2w : s.within [.io, .out, .board, .mgmt] t2 := h1w.trans (t1.uhlWrite_within _)
  have h2c : s.Calm verdictAddr t2 := h1c.trans (t1.uhlWrite_calm_off not_verdictAddr_uhl _)
  have h2m : t2.mgmt.mism = t1.mgmt.mism := t1.uhlWrite_mism _
  clear_value t2
  have h3 : t2.within [.io] t3 ∧ t2.Calm verdictAddr t3 := by
    simp only [t3]
    split
    · exact ⟨.refl _ _, .refl _⟩
    · exact ⟨t2.setReg_within _ _ _, t2.setReg_calm _ _ _ (not_verdictAddr_uhl _ (by decide) (by decide))⟩
  clear_value t3
  refine ⟨(h2c.trans h3.2).trans (t3.classify_calm not_verdictAddr_uhl not_verdictAddr_fence _),
    (h2w.then (by decide) h3.1).trans (t3.classify_logStep _).1, fun _ => ?_⟩
  rw [t3.classify_mism, h3.1.mgmt (by decide), h2m, h1m]

theorem State.flag_detect (p : Page) (m : W32) (i : Nat) : (s.detect p m).flag p 0x010 i = (s.flag p 0x010 i || bitOf m i) := by
  rw [State.flag, State.reg_detect, if_neg (by omega), if_pos rfl, bitOf_or]
  rfl

theorem State.flag_detect_other {p q : Page} (h10 : q.base + 0x010 ≠ p.base + 0x010) (h18 : q.base + 0x010 ≠ p.base + 0x018) (m : W32)
    (i : Nat) : (s.detect p m).flag q 0x010 i = s.flag q 0x010 i :=
  (s.detect_calm (A := fun a => a = q.base + 0x010) p m (Ne.symm h10) (Ne.symm h18)).flag i rfl

theorem State.cairnErrs_detects {r cu : Nat} (hr : r < 64) (hcu : cu < 64) (confirmed unresolved : Bool) :
    (s.cairnErrs r cu confirmed unresolved).flag (.chk cu) 0x010 1 = true ∧
    (s.cairnErrs r cu confirmed unresolved).flag (.chk r) 0x010 0 = true ∧
    (unresolved = true → (s.cairnErrs r cu confirmed unresolved).flag .chkG 0x010 1 = true) := by
  unfold State.cairnErrs
  extract_lets t
  have hchk : ∀ n < 64, ∀ j, j < 0x100 → (Page.chk n).base + 0x010 ≠ Page.chkG.base + j := fun n hn j hj => by
    simp only [Page.base]
    omega
  have ht : t.flag (.chk cu) 0x010 1 = true ∧ t.flag (.chk r) 0x010 0 = true := by
    simp only [t]
    split
    · next heq =>
      subst heq
      exact ⟨by rw [State.flag_detect]; exact Bool.or_true _, by rw [State.flag_detect]; exact Bool.or_true _⟩
    · next hne =>
      refine ⟨State.flag_setErr _ _ _ (by decide), ?_⟩
      refine (State.flag_detect_other _ ?_ ?_ _ _).trans (s.flag_setErr _ _ (by decide))
      · simp only [Page.base]
        omega
      · simp only [Page.base]
        omega
  clear_value t
  split
  · refine ⟨?_, ?_, fun hu => ?_⟩
    · rw [t.flag_detect_other (hchk cu hcu _ (by decide)) (hchk cu hcu _ (by decide)), ht.1]
    · rw [t.flag_detect_other (hchk r hr _ (by decide)) (hchk r hr _ (by decide)), ht.2]
    · subst hu
      rw [State.flag_detect]
      cases confirmed
      · exact Bool.or_true _
      · exact Bool.or_true _
  · next hno =>
    refine ⟨ht.1, ht.2, fun hu => ?_⟩
    subst hu
    exact absurd (Bool.or_true _) hno

theorem State.detect_keepsRegs (p : Page) (m : W32) : s.KeepsRegs (s.detect p m) :=
  s.detect_calm p m (not_bodyAddr_base_add p (by decide)) (not_bodyAddr_base_add p (by decide))

theorem State.cairnErrs_keeps (r cu : Nat) (confirmed unresolved : Bool) :
    s.KeepsRegs (s.cairnErrs r cu confirmed unresolved) ∧ s.within [.io, .out] (s.cairnErrs r cu confirmed unresolved) := by
  unfold State.cairnErrs
  extract_lets t
  have ht : s.KeepsRegs t ∧ s.within [.io, .out] t := by
    simp only [t]
    split
    · exact ⟨s.detect_keepsRegs _ _, s.detect_eq_io_out _ _⟩
    · exact ⟨(s.setErr_keepsRegs _ _).trans (State.setErr_keepsRegs _ _ _), (s.setErr_within _ _).trans (State.setErr_within _ _ _)⟩
  clear_value t
  split
  · exact ⟨ht.1.trans (t.detect_keepsRegs _ _), ht.2.trans (t.detect_eq_io_out _ _)⟩
  · exact ht

end

/-! ### Verdicts (R452, R454) -/

/-- What a verdict other than a pass leaves (R452). -/
abbrev State.Judged (s t : State) (c : Check) (v : Nat) : Prop :=
  t.reg (.chk c.ridge) 0x10C = satAdd32 (s.reg (.chk c.ridge) 0x10C) 1 ∧
  t.reg (.chk c.ridge) 0x114 = w32 (2 ^ 31 + v * 2 ^ 28 + c.srcArray % 64 * 2 ^ 16 + c.culprit v) ∧
  t.reg (.chk (c.culprit v / 64)) 0x110 = satAdd32 (s.reg (.chk (c.culprit v / 64)) 0x110) 1 ∧
  t.flag (.chk (c.culprit v / 64)) 0x010 1 = true ∧
  t.flag (.chk c.ridge) 0x010 0 = true ∧ t.checks = s.checks.filter (fun x => x != c) ∧
  (∀ k, c.jslot = some k → t.field .chkG (0x108 + 4 * k) 15 0 =
    (if v = 2 then s.field .chkG (0x108 + 4 * k) 15 0 else min 65535 (s.field .chkG (0x108 + 4 * k) 15 0 + 1))) ∧
  (v = 3 → t.flag .chkG 0x010 1 = true) ∧
  (Table.get (fun _ => 0) s.mgmt.mism (c.culprit v) < 16 →
    Table.get (fun _ => 0) t.mgmt.mism (c.culprit v) = Table.get (fun _ => 0) s.mgmt.mism (c.culprit v) + 1)

section
variable (s : State)

theorem State.cairnConfirm_confirms (j : Option Nat) (hj : ∀ k, j = some k → k < 2) :
    s.Calm offSlots (s.cairnConfirm j) ∧ s.within [.io] (s.cairnConfirm j) ∧
    ∀ k, j = some k → (s.cairnConfirm j).field .chkG (0x108 + 4 * k) 15 0 = min 65535 (s.field .chkG (0x108 + 4 * k) 15 0 + 1) := by
  cases j with
  | none => exact ⟨.refl s, .refl _ _, fun _ hk => nomatch hk⟩
  | some i =>
    refine ⟨s.setReg_calm _ _ _ (not_offSlots_slot (hj i rfl)), rfl, fun k hk => ?_⟩
    obtain rfl := Option.some.inj hk
    refine (s.field_setField_same .chkG (0x108 + 4 * i) 15 0 _ (by decide) (by decide)).trans (Nat.mod_eq_of_lt ?_)
    omega

/-- The counters, the record and the errors of a verdict, before the slot and the log (R452, R470). -/
def State.verdictShown (c : Check) (v : Nat) : State :=
  let t := (s.addSat (.chk c.ridge) 0x10C 1).setReg (.chk c.ridge) 0x114
    (w32 (2 ^ 31 + v * 2 ^ 28 + c.srcArray % 64 * 2 ^ 16 + c.culprit v))
  ((t.addSat (.chk (c.culprit v / 64)) 0x110 1).cairnErrs c.ridge (c.culprit v / 64)
    (v != 2 && c.jslot.isSome) (v == 3)).event .chkG (2 + v) 1

theorem State.cairnVerdict_eq (c : Check) (v : Nat) (arb : Bool) : s.cairnVerdict c v arb =
    ((if v = 2 then s.verdictShown c v else (s.verdictShown c v).cairnConfirm c.jslot).logMismatch c v arb).endCheck c := rfl

theorem State.verdictShown_shows (c : Check) (v : Nat) (hr : c.ridge < 64) (hcu : c.culprit v / 64 < 64) :
    s.within [.io, .out] (s.verdictShown c v) ∧
    (s.verdictShown c v).reg (.chk c.ridge) 0x10C = satAdd32 (s.reg (.chk c.ridge) 0x10C) 1 ∧
    (s.verdictShown c v).reg (.chk c.ridge) 0x114 = w32 (2 ^ 31 + v * 2 ^ 28 + c.srcArray % 64 * 2 ^ 16 + c.culprit v) ∧
    (s.verdictShown c v).reg (.chk (c.culprit v / 64)) 0x110 = satAdd32 (s.reg (.chk (c.culprit v / 64)) 0x110) 1 ∧
    (s.verdictShown c v).flag (.chk (c.culprit v / 64)) 0x010 1 = true ∧
    (s.verdictShown c v).flag (.chk c.ridge) 0x010 0 = true ∧
    (∀ k < 2, (s.verdictShown c v).field .chkG (0x108 + 4 * k) 15 0 = s.field .chkG (0x108 + 4 * k) 15 0) ∧
    (v = 3 → (s.verdictShown c v).flag .chkG 0x010 1 = true) := by
  unfold State.verdictShown
  generalize w32 (2 ^ 31 + v * 2 ^ 28 + c.srcArray % 64 * 2 ^ 16 + c.culprit v) = word
  generalize c.culprit v / 64 = cu at hcu ⊢
  generalize hr' : c.ridge = r at hr ⊢
  extract_lets t
  have hchk : ∀ {n o n' o' : Nat}, o < 0x1000 → o' < 0x1000 → o ≠ o' → (Page.chk n).base + o ≠ (Page.chk n').base + o' :=
    fun h h' hne => by
      simp only [Page.base]
      omega
  have hslot : ∀ {n o k : Nat}, n < 64 → o < 0x1000 → Page.chkG.base + (0x108 + 4 * k) ≠ (Page.chk n).base + o := fun h h' => by
    simp only [Page.base]
    omega
  have ht1 : t.reg (.chk r) 0x10C = satAdd32 (s.reg (.chk r) 0x10C) 1 :=
    (State.reg_setReg_ne _ (hchk (by decide) (by decide) (by decide)) _).trans (s.reg_addSat _ _ _)
  have ht2 : t.reg (.chk r) 0x114 = word := State.reg_setReg_same _ _ _ _
  have ht3 : t.reg (.chk cu) 0x110 = s.reg (.chk cu) 0x110 :=
    (State.reg_setReg_ne _ (hchk (by decide) (by decide) (by decide)) _).trans
      (s.reg_addSat_ne _ (hchk (by decide) (by decide) (by decide)))
  have ht4 : ∀ k, t.reg .chkG (0x108 + 4 * k) = s.reg .chkG (0x108 + 4 * k) := fun k =>
    (State.reg_setReg_ne _ (hslot hr (by decide)) _).trans (s.reg_addSat_ne _ (hslot hr (by decide)))
  have htw : s.within [.io] t := State.within.trans (s.setReg_within _ _ _) (State.setReg_within _ _ _ _)
  clear_value t
  have hu1 := t.reg_addSat_ne 1 (hchk (n := r) (o := 0x10C) (n' := cu) (o' := 0x110) (by decide) (by decide) (by decide))
  have hu2 := t.reg_addSat_ne 1 (hchk (n := r) (o := 0x114) (n' := cu) (o' := 0x110) (by decide) (by decide) (by decide))
  have hu3 := t.reg_addSat (.chk cu) 0x110 1
  have hu4 := fun k => t.reg_addSat_ne 1 (hslot (n := cu) (o := 0x110) (k := k) hcu (by decide))
  have huw : t.within [.io] (t.addSat (.chk cu) 0x110 1) := t.setReg_within _ _ _
  generalize t.addSat (.chk cu) 0x110 1 = u at hu1 hu2 hu3 hu4 huw
  have herr := u.cairnErrs_detects hr hcu (v != 2 && c.jslot.isSome) (v == 3)
  have hkeep := u.cairnErrs_keeps r cu (v != 2 && c.jslot.isSome) (v == 3)
  generalize u.cairnErrs r cu (v != 2 && c.jslot.isSome) (v == 3) = x at herr hkeep
  have hbody : u.KeepsRegs (x.event .chkG (2 + v) 1) := hkeep.1.trans (x.event_keepsRegs _ _ _)
  have hstat : ∀ (p : Page) (i : Nat), (x.event .chkG (2 + v) 1).flag p 0x010 i = x.flag p 0x010 i := fun p i =>
    congrArg (bitOf · i) (x.reg_event_off .chkG p (2 + v) 1 (by decide) (by decide))
  have hw : s.within [.io, .out] (x.event .chkG (2 + v) 1) :=
    (((htw.trans huw).mono (by decide)).trans hkeep.2).then (by decide) (x.event_within .chkG (2 + v) 1)
  obtain ⟨he1, he2, he3⟩ := herr
  refine ⟨hw, ?_, ?_, ?_, ?_, ?_, fun k hk => ?_, fun hv => ?_⟩
  · rw [hbody.reg _ (by decide) (by decide), hu1, ht1]
  · rw [hbody.reg _ (by decide) (by decide), hu2, ht2]
  · rw [hbody.reg _ (by decide) (by decide), hu3, ht3]
  · rw [hstat, he1]
  · rw [hstat, he2]
  · rw [hbody.field .chkG 15 0 (by omega) (by omega), State.field, hu4, ht4]
    rfl
  · rw [hstat, he3 (by rw [hv]; rfl)]

theorem State.cairnVerdict_judges (c : Check) (v : Nat) (arb : Bool) (hr : c.ridge < 64) (hcu : c.culprit v / 64 < 64)
    (hj : ∀ k, c.jslot = some k → k < 2) : s.Judged (s.cairnVerdict c v arb) c v := by
  rw [s.cairnVerdict_eq c v arb]
  obtain ⟨hw, h1, h2, h3, h4, h5, h6, h7⟩ := s.verdictShown_shows c v hr hcu
  generalize s.verdictShown c v = t at hw h1 h2 h3 h4 h5 h6 h7
  have hconf : t.Calm offSlots (if v = 2 then t else t.cairnConfirm c.jslot) ∧
      t.within [.io] (if v = 2 then t else t.cairnConfirm c.jslot) ∧
      ∀ k, c.jslot = some k → (if v = 2 then t else t.cairnConfirm c.jslot).field .chkG (0x108 + 4 * k) 15 0 =
        if v = 2 then s.field .chkG (0x108 + 4 * k) 15 0 else min 65535 (s.field .chkG (0x108 + 4 * k) 15 0 + 1) := by
    split
    · exact ⟨.refl t, .refl _ _, fun k hk => h6 k (hj k hk)⟩
    · obtain ⟨ha, hb, hc⟩ := t.cairnConfirm_confirms c.jslot hj
      exact ⟨ha, hb, fun k hk => by rw [hc k hk, h6 k (hj k hk)]⟩
  generalize (if v = 2 then t else t.cairnConfirm c.jslot) = u at hconf ⊢
  obtain ⟨hlc, hlw, hlm⟩ := u.logMismatch_logs c v arb
  generalize u.logMismatch c v arb = x at hlc hlw hlm ⊢
  obtain ⟨hec, hef, hek, hem⟩ := x.endCheck_ends c hj
  generalize x.endCheck c = y at hec hef hek hem ⊢
  have hcalm : t.Calm offSlots y := (hconf.1.trans (hlc.mono verdictAddr_of_offSlots)).trans hec
  have hmu : u.mgmt = s.mgmt := by rw [hconf.2.1.mgmt (by decide), hw.mgmt (by decide)]
  have hbody : ∀ {n o : Nat}, n < 64 → 0x100 ≤ o → o < 0x118 → y.reg (.chk n) o = t.reg (.chk n) o := fun hn h h' =>
    hcalm.reg (offSlots_chk hn (.inr ⟨h, h'⟩))
  refine ⟨?_, ?_, ?_, ?_, ?_, ?_, fun k hk => ?_, fun hv => ?_, ?_⟩
  · rw [hbody hr (by decide) (by decide), h1]
  · rw [hbody hr (by decide) (by decide), h2]
  · rw [hbody hcu (by decide) (by decide), h3]
  · rw [hcalm.flag 1 (offSlots_chk hcu (.inl rfl)), h4]
  · rw [hcalm.flag 0 (offSlots_chk hr (.inl rfl)), h5]
  · rw [hek, hlw.checks (by decide), hconf.2.1.checks (by decide), hw.checks (by decide)]
  · have hslot : verdictAddr (Page.chkG.base + (0x108 + 4 * k)) := by
      have := hj k hk
      simp only [verdictAddr, Page.base]
      omega
    rw [hef k (hj k hk), hlc.field 15 0 hslot, hconf.2.2 k hk]
  · have hstat : offSlots (Page.chkG.base + 0x010) := by decide
    rw [hcalm.flag 1 hstat, h7 hv]
  · rw [hmu] at hlm
    rw [hem]
    exact hlm

end

end Sys2Proof.Machine
end

section
/-! PROOF. Cairn chooses, abandons and judges (R449, R452 to R454). -/
namespace Sys2Proof.Machine

/-! ### The pair that is borrowed (R449) -/

/-- Pair `j` of Ridge `n` can be borrowed. -/
abbrev State.canBorrow (s : State) (n j : Nat) : Prop :=
  s.pairFree n j = true ∧ ∀ a ∈ [2 * j, 2 * j + 1], ((s.ridge n).arr a).t0.isOpen = false ∧
    ((s.ridge n).arr a).t1.isOpen = false ∧ ∀ o ∈ (s.ridge n).tileOps, tdArray o.desc.words ≠ a

section
variable (s : State)

theorem State.borrows_iff (n j : Nat) :
    ((s.pairFree n j && [2 * j, 2 * j + 1].all fun a => !(((s.ridge n).arr a).t0.isOpen) && !(((s.ridge n).arr a).t1.isOpen) &&
      !((s.ridge n).tileOps.any fun o => tdArray o.desc.words == a)) = true) ↔ s.canBorrow n j := by
  simp only [State.canBorrow, Bool.and_eq_true, List.all_eq_true, Bool.not_eq_true', List.any_eq_false, beq_iff_eq, ne_eq, and_assoc]

/-- The lowest pair that can be borrowed. -/
theorem State.cairnPair_lowest {n j : Nat} (h : s.cairnPair n = some j) : j < 32 ∧ s.canBorrow n j ∧ ∀ k < j, ¬ s.canBorrow n k := by
  unfold State.cairnPair at h
  obtain ⟨hj, hmem, hless⟩ := List.find?_range_eq_some.mp h
  refine ⟨List.mem_range.mp hmem, (s.borrows_iff n j).mp hj, fun k hk hcan => ?_⟩
  have hno := hless k hk
  rw [(s.borrows_iff n k).mpr hcan] at hno
  exact absurd hno (by decide)

theorem State.cairnPairBorrow_borrows {i : BitVec 8} {c : Check} {n j : Nat} (hc : s.checks[i.toNat]? = some c)
    (hph : c.ph = .waitPair ∧ n = c.chk ∨ c.ph = .waitArb ∧ c.arb = some n) (hserves : s.cairnServes n = false)
    (hpair : s.cairnPair n = some j) : exec (.cairnPairBorrow i) s = .next (s.putCheck i.toNat
      (if c.ph = .waitPair then { c with ph := .recompute, checker := some (n, 2 * j) }
        else { c with ph := .arbitrate, arbiter := some (n, 2 * j) })) := by
  have hexec : exec (.cairnPairBorrow i) s = execCairnPairBorrow i s := rfl
  rw [hexec, execCairnPairBorrow, hc]
  rcases hph with ⟨hw, rfl⟩ | ⟨hw, ha⟩
  · simp only [hw, hserves, hpair]
    rfl
  · simp only [hw, ha, hserves, hpair]
    rfl

/-! ### Abandonment and verdicts (R452, R453) -/

/-- What a check without a verdict leaves. -/
abbrev State.Abandoned (s t : State) (c : Check) : Prop :=
  t.reg (.chk c.ridge) 0x108 = satAdd32 (s.reg (.chk c.ridge) 0x108) 1 ∧
  t.reg (.chk c.ridge) 0x10C = s.reg (.chk c.ridge) 0x10C ∧ t.checks = s.checks.filter (fun x => x != c) ∧ t.mgmt = s.mgmt

variable {s} {i : BitVec 8} {c : Check}

theorem State.abandonSample_abandoned (hr : c.ridge < 64) (hj : ∀ k, c.jslot = some k → k < 2) : s.Abandoned (s.abandonSample c) c := by
  obtain ⟨h1, h2, h3, h4, -⟩ := s.abandonSample_abandons c hj hr
  exact ⟨h1, h2, h3, h4⟩

theorem State.cairnAcqTimeout_abandons (hc : s.checks[i.toNat]? = some c) (hr : c.ridge < 64) (hj : ∀ k, c.jslot = some k → k < 2)
    (hph : c.ph = .waitPair ∨ c.ph = .waitArb) : ∃ t, exec (.cairnAcqTimeout i) s = .next t ∧ s.Abandoned t c ∧
      t.elapsed c.since (100 * max 1 (s.field .chkG 0x100 15 0)) = true := by
  have hexec : exec (.cairnAcqTimeout i) s = execCairnAcqTimeout i s := rfl
  refine ⟨(s.advance c.since s.cairnAcq).abandonSample c, ?_, ?_⟩
  · rw [hexec, execCairnAcqTimeout, hc]
    exact congrArg Host.Outcome.next (if_pos hph)
  have hacq : s.cairnAcq < 2 ^ 64 := by
    have := fld_lt (s.reg .chkG 0x100) 15 0
    simp only [State.cairnAcq, State.field]
    omega
  have helapsed := s.elapsed_advance c.since hacq
  have hkeep := s.advance_keepsRegs c.since s.cairnAcq
  have hw := s.advance_within c.since s.cairnAcq
  generalize s.advance c.since s.cairnAcq = u at helapsed hkeep hw
  obtain ⟨h1, h2, h3, h4, h5⟩ := u.abandonSample_abandons c hj hr
  refine ⟨⟨?_, ?_, ?_, ?_⟩, ?_⟩
  · rw [h1, hkeep.reg _ (by decide) (by decide)]
  · rw [h2, hkeep.reg _ (by decide) (by decide)]
  · rw [h3, hw.checks (by decide)]
  · rw [h4, hw.mgmt (by decide)]
  · rw [State.elapsed, h5]
    exact helapsed

theorem State.cairnRecomputeDone_eq (hc : s.checks[i.toNat]? = some c) (hph : c.ph = .recompute) (hdone : s.cairnSourceDone c = true)
    (r : Recompute) : exec (.cairnRecomputeDone i r) s = .next (match r with
      | .poisoned => s.abandonSample c
      | .equal => (s.event .chkG 0x02 1).endCheck c
      | .differ twinB =>
        let c1 := { c with twinB := twinB && c.pair, ph := .waitArb }
        let t := s.putCheck i.toNat c1
        if c.arb.isNone then t.cairnVerdict c1 3 false else t) := by
  have hexec : exec (.cairnRecomputeDone i r) s = execCairnRecomputeDone i r s := rfl
  rw [hexec, execCairnRecomputeDone, hc]
  dsimp only
  rw [if_neg (by simp [hph, hdone])] <;> rfl

theorem State.cairnArbiterDone_eq (hc : s.checks[i.toNat]? = some c) (hph : c.ph = .arbitrate)
    (r : Arbitration) : exec (.cairnArbiterDone i r) s = .next (match r with
      | .poisoned => s.abandonSample c
      | .source => s.cairnVerdict c 2 true
      | .checker => s.cairnVerdict c 1 true
      | .neither => s.cairnVerdict c 3 true) := by
  have hexec : exec (.cairnArbiterDone i r) s = execCairnArbiterDone i r s := rfl
  rw [hexec, execCairnArbiterDone, hc]
  dsimp only
  rw [if_neg (fun h => h hph)] <;> rfl

theorem State.endCheck_passes (hr : c.ridge < 64) (hj : ∀ k, c.jslot = some k → k < 2) :
    ((s.event .chkG 0x02 1).endCheck c).checks = s.checks.filter (fun x => x != c) ∧
    ((s.event .chkG 0x02 1).endCheck c).reg (.chk c.ridge) 0x10C = s.reg (.chk c.ridge) 0x10C ∧
    ((s.event .chkG 0x02 1).endCheck c).reg (.chk c.ridge) 0x108 = s.reg (.chk c.ridge) 0x108 := by
  have hw := s.event_within .chkG 0x02 1
  have hkeep := s.event_keepsRegs .chkG 0x02 1
  generalize s.event .chkG 0x02 1 = t at hw hkeep
  obtain ⟨hcalm, -, hck, -⟩ := t.endCheck_ends c hj
  refine ⟨by rw [hck, hw.checks (by decide)], ?_, ?_⟩
  · rw [hcalm.reg (offSlots_chk hr (by decide)), hkeep.reg _ (by decide) (by decide)]
  · rw [hcalm.reg (offSlots_chk hr (by decide)), hkeep.reg _ (by decide) (by decide)]

end

/-! ### Culprits -/

theorem Check.srcArray_div (c : Check) (hr : c.ridge < 64) (ha : c.arr < 64) : c.srcArray / 64 < 64 := by
  have htwin := c.twinB.toNat_le
  unfold Check.srcArray
  split <;> omega

theorem Check.pairArray_div (c : Check) {p : Nat × Nat} (h1 : p.1 < 64) (h2 : p.2 < 63) : c.pairArray (some p) / 64 < 64 := by
  have htwin := c.twinB.toNat_le
  unfold Check.pairArray
  dsimp only
  split <;> omega

theorem length_filter_lt {l : List Check} {c : Check} (hc : c ∈ l) : (l.filter fun x => x != c).length < l.length :=
  List.length_filter_lt_length_iff_exists.mpr ⟨c, hc, by simp⟩

/-- Settles O47. -/
theorem cairnJudges : Obligations.CairnJudges := by
  unfold Obligations.CairnJudges
  intro s i c n j b hc hr ha hp hj abandoned verdict
  have habandon : s.Abandoned (s.abandonSample c) c := State.abandonSample_abandoned hr hj
  have hmem : c ∈ s.checks := List.mem_of_getElem? hc
  have hjudge : ∀ (u t : State) (c : Check) (v : Nat), u.io = s.io → u.mgmt = s.mgmt → u.checks.length = s.checks.length →
      c ∈ u.checks → u.Judged t c v → verdict t c v := by
    intro u t c v hio hmgmt hlen hmem ⟨h1, h2, h3, h4, h5, h6, h7, h8, h9⟩
    have hreg : ∀ p o, u.reg p o = s.reg p o := fun p o => congrArg (fun io : Bar0 => Table.get regDefault io.regs (p.base + o)) hio
    simp only [State.field, hreg] at h1 h3 h7
    rw [hmgmt] at h9
    exact ⟨h1, h2, h3, h4, h5, by rw [h6, ← hlen]; exact length_filter_lt hmem, h7, h8, h9⟩
  have hsrc : ∀ v, v ≠ 2 → c.culprit v / 64 < 64 := fun v hv => by
    rw [Check.culprit, if_neg hv]
    exact c.srcArray_div hr ha
  refine ⟨fun hph hserves hpair => ⟨s.cairnPairBorrow_borrows hc hph hserves hpair, s.cairnPair_lowest hpair⟩,
    State.cairnAcqTimeout_abandons hc hr hj, fun hph hdone => ⟨?_, ?_, ?_⟩, fun hph => ⟨?_, fun hsome => ?_, ?_, ?_⟩⟩
  · exact ⟨_, State.cairnRecomputeDone_eq hc hph hdone .poisoned, habandon⟩
  · exact ⟨_, State.cairnRecomputeDone_eq hc hph hdone .equal, State.endCheck_passes hr hj⟩
  · have hexec := State.cairnRecomputeDone_eq hc hph hdone (.differ b)
    extract_lets c1
    refine ⟨fun harb => ?_, fun harb => ⟨(s.putCheck i.toNat c1).cairnVerdict c1 3 false, ?_, ?_⟩⟩
    · rw [hexec]
      dsimp only
      rw [if_neg (by rwa [Option.isNone_iff_eq_none])]
    · rw [hexec]
      dsimp only
      rw [if_pos (by rw [harb]; rfl)]
    · have hi : i.toNat < s.checks.length := (List.getElem?_eq_some_iff.mp hc).1
      have hcu : c1.culprit 3 / 64 < 64 := c1.srcArray_div hr ha
      exact hjudge (s.putCheck i.toNat c1) _ c1 3 rfl rfl List.length_set (List.mem_set hi _)
        (State.cairnVerdict_judges _ c1 3 false hr hcu hj)
  · exact ⟨_, State.cairnArbiterDone_eq hc hph .poisoned, habandon⟩
  · obtain ⟨p, hchecker⟩ := Option.isSome_iff_exists.mp hsome
    have hcu : c.culprit 2 / 64 < 64 := by
      rw [Check.culprit, if_pos rfl, hchecker]
      exact c.pairArray_div (hp p hchecker).1 (hp p hchecker).2
    exact ⟨_, State.cairnArbiterDone_eq hc hph .source, hjudge s _ c 2 rfl rfl rfl hmem (s.cairnVerdict_judges c 2 true hr hcu hj)⟩
  · exact ⟨_, State.cairnArbiterDone_eq hc hph .checker,
      hjudge s _ c 1 rfl rfl rfl hmem (s.cairnVerdict_judges c 1 true hr (hsrc 1 (by decide)) hj)⟩
  · exact ⟨_, State.cairnArbiterDone_eq hc hph .neither,
      hjudge s _ c 3 rfl rfl rfl hmem (s.cairnVerdict_judges c 3 true hr (hsrc 3 (by decide)) hj)⟩

end Sys2Proof.Machine
end

section
/-! PROOF. The log and the seed (R447, R458, R460, R464): what a written record reads as, what a CLEAR and the seed leave. -/
namespace Sys2Proof.Machine

/-! ### Words and their bytes -/

theorem leWords_wordsBytes (ws : List W32) : leWords (wordsBytes ws) ws.length = ws := by
  refine List.ext_getElem (by rw [length_leWords]) fun i hi hi' => ?_
  simp only [leWords, List.getElem_map, List.getElem_range]
  rw [take_drop_wordsBytes ws hi', leNat_leBytes]
  have hmod : ws[i].toNat % 256 ^ 4 = ws[i].toNat := Nat.mod_eq_of_lt ws[i].isLt
  rw [hmod]
  exact (BitVec.ofNat_toNat 32 ws[i]).trans (BitVec.setWidth_eq _)

/-! ### The record (R459) -/

/-- The words of a record before its `CRC`. -/
def State.uhlFields (s : State) (r : UhlRec) : List W32 :=
  [w32 (0x15548 + r.type * 2 ^ 24), s.reg .uhl 0x104, s.reg .uhl 0x100, r.unit, lo32 s.refcnt, hi32 s.refcnt,
    s.reg .step 0x100, s.reg .step 0x104, r.step, r.info1, r.info2, r.info3, r.vclk, 0, 0]

/-- The words of a record. -/
def State.uhlRecord (s : State) (r : UhlRec) : List W32 := s.uhlFields r ++ [crc32 (wordsBytes (s.uhlFields r))]

section
variable (s : State) (r : UhlRec)

theorem State.uhlBytes_eq : s.uhlBytes r = wordsBytes (s.uhlRecord r) := by
  have happend : wordsBytes (s.uhlRecord r) = wordsBytes (s.uhlFields r) ++ leBytes 4 (crc32 (wordsBytes (s.uhlFields r))).toNat := by
    rw [State.uhlRecord, wordsBytes, List.flatMap_append]
    simp only [List.flatMap_cons, List.flatMap_nil, List.append_nil]
    rfl
  rw [happend]
  rfl

theorem State.length_uhlRecord : (s.uhlRecord r).length = 16 := rfl

/-- A record states its type and unit, the next number, and its `MAGIC`, `VER` and `CRC` are right. -/
theorem State.uhlRecord_valid (htype : r.type < 256) : uhlMagic (s.uhlRecord r) = true ∧ uhlType (s.uhlRecord r) = r.type ∧
    uhlUnit (s.uhlRecord r) = r.unit ∧ uhlSeq (s.uhlRecord r) = s.reg .uhl 0x104 := by
  have hfirst : wordAt (s.uhlRecord r) 0 = w32 (0x15548 + r.type * 2 ^ 24) := rfl
  have hcrc : (wordAt (s.uhlRecord r) 15 == crc32 (wordsBytes ((s.uhlRecord r).take 15))) = true := by
    have htake : (s.uhlRecord r).take 15 = s.uhlFields r := List.take_left' rfl
    have hlast : ∀ c, wordAt (s.uhlFields r ++ [c]) 15 = c := fun _ => rfl
    rw [htake, State.uhlRecord, hlast]
    exact beq_self_eq_true _
  have hmagic : wfld (s.uhlRecord r) 0 15 0 = 0x5548 := by
    rw [wfld, hfirst, fld_w32 _ _ (by decide)]
    omega
  have hver : wfld (s.uhlRecord r) 0 23 16 = 1 := by
    rw [wfld, hfirst, fld_w32 _ _ (by decide)]
    omega
  have htypes : wfld (s.uhlRecord r) 0 31 24 = r.type := by
    rw [wfld, hfirst, fld_w32 _ _ (by decide)]
    omega
  refine ⟨?_, htypes, rfl, rfl⟩
  rw [uhlMagic, hmagic, hver, hcrc]
  rfl

/-! ### Writing it (R460) -/

theorem State.uhlWords_congr {t : State} (h : t.board = s.board) (i : Nat) : t.uhlWords i = s.uhlWords i := by
  have hbyte : ∀ x, t.flashByte x = s.flashByte x := fun x => by rw [State.flashByte, h]; rfl
  simp only [State.uhlWords, State.flashRead, hbyte]

/-- The record that is written to position `at_` stands there, and no other position changes. -/
theorem State.uhlWords_flashPut {at_ : Nat} (hat : at_ < 32768) :
    (s.flashPut (uhlBase + 64 * at_) (s.uhlBytes r)).uhlWords at_ = s.uhlRecord r ∧
    ∀ i < 32768, i ≠ at_ → (s.flashPut (uhlBase + 64 * at_) (s.uhlBytes r)).uhlWords i = s.uhlWords i := by
  have hlen : (s.uhlBytes r).length = 64 := by rw [s.uhlBytes_eq, length_wordsBytes, s.length_uhlRecord]
  refine ⟨?_, fun i hi hne => ?_⟩
  · have hread : (s.flashPut (uhlBase + 64 * at_) (s.uhlBytes r)).flashRead (uhlBase + 64 * at_) 64 = s.uhlBytes r := by
      refine List.ext_getElem (by rw [State.flashRead, List.length_map, List.length_range, hlen]) fun i hi hi' => ?_
      simp only [State.flashRead, List.getElem_map, List.getElem_range]
      exact s.flashByte_flashPut_mem (by unfold uhlBase; omega) hi'
    rw [State.uhlWords, hread, s.uhlBytes_eq]
    exact leWords_wordsBytes (s.uhlRecord r)
  · have hread : (s.flashPut (uhlBase + 64 * at_) (s.uhlBytes r)).flashRead (uhlBase + 64 * i) 64 = s.flashRead (uhlBase + 64 * i) 64 := by
      refine List.map_congr_left fun j hj => ?_
      have := List.mem_range.mp hj
      exact s.flashByte_flashPut_ne (by omega)
    rw [State.uhlWords, State.uhlWords, hread]

/-- A record that cannot be written is lost. -/
theorem State.uhlPut_fails (hdead : s.board.dead = true) : (s.uhlPut r).flag .uhl 0x010 1 = true ∧ (s.uhlPut r).board = s.board := by
  have heq : s.uhlPut r = s.setErr .uhl 1 := if_pos hdead
  rw [heq]
  exact ⟨s.flag_setErr _ _ (by decide), (s.setErr_within _ _).board (by decide)⟩

theorem State.uhlPos_set (n : Nat) : ({ s with mgmt := { s.mgmt with uhlPos := n } } : State).mgmt.uhlPos = n := rfl

theorem State.uhlPut_puts (hdead : s.board.dead = false) (htype : r.type < 256) {at_ : Nat} (hlt : at_ < 32768)
    (hat : s.mgmt.uhlPos % uhlSize = at_) :
    uhlMagic ((s.uhlPut r).uhlWords at_) = true ∧ uhlType ((s.uhlPut r).uhlWords at_) = r.type ∧
    uhlUnit ((s.uhlPut r).uhlWords at_) = r.unit ∧ uhlSeq ((s.uhlPut r).uhlWords at_) = s.reg .uhl 0x104 ∧
    (s.uhlPut r).reg .uhl 0x104 = s.reg .uhl 0x104 + 1 ∧
    (∀ i < 32768, i ≠ at_ → (s.uhlPut r).uhlWords i = s.uhlWords i) ∧
    (s.uhlPut r).mgmt.uhlPos = (at_ + 1) % uhlSize := by
  obtain ⟨hhere, hothers⟩ := s.uhlWords_flashPut r hlt
  unfold State.uhlPut
  rw [if_neg (by rw [hdead]; decide)]
  extract_lets i t0 m t1 t2
  have hi : i = at_ := hat
  clear_value i
  subst i
  have h0 : s.flashPut (uhlBase + 64 * at_) (s.uhlBytes r) = t0 := rfl
  rw [h0] at hhere hothers
  have hreg0 : t0.reg .uhl 0x104 = s.reg .uhl 0x104 :=
    ((s.flashPut_within _ _).calm (A := fun _ => True) (by decide) (by decide)).reg trivial
  have hpos : t1.mgmt.uhlPos = (at_ + 1) % uhlSize := t0.uhlPos_set _
  have hboard : t1.board = t0.board := rfl
  have hreg1 : t1.reg .uhl 0x104 = t0.reg .uhl 0x104 :=
    ((t0.setMgmt_within m).calm (A := fun _ => True) (by decide) (by decide)).reg trivial
  clear_value t0 t1
  have h2 : t1.within [.io] t2 := t1.setReg_within _ _ _
  have h2r : t2.reg .uhl 0x104 = s.reg .uhl 0x104 + 1 := by
    refine (t1.reg_setReg_same _ _ _).trans ?_
    rw [hreg1, hreg0]
  clear_value t2
  have hu : t2.within [.io] (t2.setReg .uhl 0x108 (w32 (min uhlSize ((t2.reg .uhl 0x108).toNat + 1)))) := t2.setReg_within _ _ _
  have hur := t2.reg_setReg_ne (p := .uhl) (o := 0x108) (q := .uhl) (j := 0x104) (by decide)
    (w32 (min uhlSize ((t2.reg .uhl 0x108).toNat + 1)))
  generalize t2.setReg .uhl 0x108 (w32 (min uhlSize ((t2.reg .uhl 0x108).toNat + 1))) = u at hu hur
  have hv := (h2.trans hu).trans (u.event_within .uhl 0x02 1)
  have hvr := (u.event_keepsRegs .uhl 0x02 1).reg .uhl (j := 0x104) (by decide) (by decide)
  generalize u.event .uhl 0x02 1 = v at hv hvr
  have hwords : ∀ j, v.uhlWords j = t0.uhlWords j := t0.uhlWords_congr ((hv.board (by decide)).trans hboard)
  obtain ⟨hr1, hr2, hr3, hr4⟩ := s.uhlRecord_valid r htype
  rw [hwords, hhere]
  refine ⟨hr1, hr2, hr3, hr4, ?_, fun j hj hne => (hwords j).trans (hothers j hj hne), ?_⟩
  · rw [hvr, hur, h2r]
  · rw [hv.mgmt (by decide), hpos]

end

end Sys2Proof.Machine
end

section
/-! PROOF. A CLEAR of an array and the seed (R447, R464). -/
namespace Sys2Proof.Machine

/-! ### The fences of an array -/

/-- The `COND` entry is one of array `i`. -/
def condOf (i : Nat) (w : W32) : Bool := bitOf w 31 && fld w 29 24 == i

/-- Entry `k` of Ridge `n` goes where it is one of array `i`. -/
def State.condGo (n i : Nat) (s : State) (k : Nat) : State :=
  if condOf i (s.reg (.chk n) (0x140 + 4 * k)) then s.setReg (.chk n) (0x140 + 4 * k) 0 else s

section
variable (s : State)

theorem condOf_zero (i : Nat) : condOf i 0 = false := by
  rw [condOf, show bitOf (0 : W32) 31 = false by decide]
  rfl

/-- An entry that goes, or was not one of the array's, is none of the array's. -/
theorem State.condOf_condGo (n i j k : Nat) (h : k = j ∨ condOf i (s.reg (.chk n) (0x140 + 4 * k)) = false) :
    condOf i ((s.condGo n i j).reg (.chk n) (0x140 + 4 * k)) = false := by
  unfold State.condGo
  by_cases hkj : k = j
  · subst hkj
    split
    · rw [State.reg_setReg_same, condOf_zero]
    · next hno => exact Bool.eq_false_iff.mpr hno
  · have hk := h.resolve_left hkj
    split
    · rwa [s.reg_setReg_ne (by omega)]
    · exact hk

theorem State.condOf_foldl_condGo (n i k : Nat) (js : List Nat)
    (h : k ∈ js ∨ condOf i (s.reg (.chk n) (0x140 + 4 * k)) = false) :
    condOf i ((js.foldl (State.condGo n i) s).reg (.chk n) (0x140 + 4 * k)) = false := by
  induction js generalizing s with
  | nil => exact h.resolve_left fun hk => nomatch hk
  | cons j js ih =>
    refine ih _ ?_
    by_cases hjs : k ∈ js
    · exact .inl hjs
    · exact .inr (s.condOf_condGo n i j k (h.imp (fun hk => (List.mem_cons.mp hk).resolve_right hjs) id))

theorem State.unfence_eq (a : Nat) : s.unfence a = (List.range 16).foldl (State.condGo (a / 64) (a % 64))
    (s.setFlag (.chk (a / 64)) (0x118 + 4 * (a % 64 / 32)) (a % 64 % 32) false) := rfl

/-- The fences of the array go, the conditional one and the other (R464). -/
theorem State.unfence_removes (a : Nat) :
    (s.unfence a).flag (.chk (a / 64)) (0x118 + 4 * (a % 64 / 32)) (a % 32) = false ∧
    ∀ k < 16, condOf (a % 64) ((s.unfence a).reg (.chk (a / 64)) (0x140 + 4 * k)) = false := by
  rw [s.unfence_eq]
  have h0 : (s.setFlag (.chk (a / 64)) (0x118 + 4 * (a % 64 / 32)) (a % 64 % 32) false).flag (.chk (a / 64))
      (0x118 + 4 * (a % 64 / 32)) (a % 32) = false := by
    rw [show a % 64 % 32 = a % 32 by omega]
    exact s.flag_setFlag_same _ _ _ _ (Nat.mod_lt _ (by decide))
  generalize s.setFlag (.chk (a / 64)) (0x118 + 4 * (a % 64 / 32)) (a % 64 % 32) false = t at h0
  constructor
  · have hcalm : t.Calm (fun x => x < (Page.chk (a / 64)).base + 0x140) ((List.range 16).foldl (State.condGo (a / 64) (a % 64)) t) :=
      State.Calm.foldl _ (fun u k _ => .ite (u.setReg_calm _ _ _ (by omega)) (.refl u)) t
    rw [hcalm.flag _ (by omega), h0]
  · exact fun k hk => t.condOf_foldl_condGo _ _ k _ (.inl (List.mem_range.mpr hk))

/-! ### A CLEAR (R464) -/

/-- Without counted records the array has no fence: only the log goes on. -/
theorem State.classify_of_none {a : Nat} (h : uhlCounted s.uhlLog a = []) (n o : Nat) :
    (s.classify a).reg (.chk n) o = (s.unfence a).reg (.chk n) o := by
  unfold State.classify
  extract_lets log recs bins sigs m i uf raw entry cls t
  have hrecs : recs = [] := h
  have hbins : bins = 0 := (congrArg uhlBins hrecs).trans (by decide)
  have hraw : raw = 0 := by
    have hseen : popCount 8 (uhlSeenBins recs) = 0 := (congrArg (fun l => popCount 8 (uhlSeenBins l)) hrecs).trans (by decide)
    simp only [raw]
    rw [hseen, if_neg (by decide), if_neg (fun hne => hne hbins)]
  have hcls : cls = 0 := by
    simp only [cls]
    rw [hraw, if_neg (by simp)]
  have ht : t = s.unfence a := by
    simp only [t]
    rw [hcls]
    generalize entry = e
    cases e <;> rfl
  rw [← ht]
  clear_value t cls
  have hlog : ∀ o, o < 0x110 → o ≠ 0x100 → ¬ (0x200000 ≤ Page.uhl.base + o) := fun o ho _ => by
    simp only [Page.base]
    omega
  split
  · rfl
  · exact (t.uhlWrite_calm_off (A := fun x => 0x200000 ≤ x) hlog _).reg (by
      simp only [Page.base]
      omega)

theorem State.uhlLog_congr {t : State} (h : t.board = s.board) : t.uhlLog = s.uhlLog := by
  have hwords : t.uhlWords = s.uhlWords := funext fun i => s.uhlWords_congr h i
  have hscan : t.uhlScan = s.uhlScan := funext fun sec => by
    unfold State.uhlScan
    rw [hwords]
  unfold State.uhlLog State.uhlValid State.uhlSeen
  rw [hwords, hscan]

/-- What a CLEAR with `GO` does to a log without later MISMATCH records of the array. -/
theorem State.uhlClear_clears (v : W32) (hready : s.ready = true) (hopen : s.pageSealed .uhl = false) (hgo : bitOf v 31 = true)
    {a : Nat} (ha : fld v 11 0 = a)
    (hnone : uhlCounted ((s.setReg .uhl 0x150 (w32 a)).uhlWrite
      { type := 6, unit := w32 a, step := s.reg .step 0x10C, info1 := 0 }).uhlLog a = []) :
    ∃ t, exec (.uhlClear v) s = .next t ∧ t.reg .uhl 0x150 = w32 a ∧
      t.flag (.chk (a / 64)) (0x118 + 4 * (a % 64 / 32)) (a % 32) = false ∧
      (∀ k < 16, t.flag (.chk (a / 64)) (0x140 + 4 * k) 31 = true → t.field (.chk (a / 64)) (0x140 + 4 * k) 29 24 ≠ a % 64) ∧
      t.tallies = s.tallies ∧ t.mem = s.mem := by
  have h150 : (s.setReg .uhl 0x150 (w32 a)).reg .uhl 0x150 = w32 a := s.reg_setReg_same _ _ _
  have hstep : (s.setReg .uhl 0x150 (w32 a)).reg .step 0x10C = s.reg .step 0x10C := s.reg_setReg_ne (by decide) _
  have htw : s.within [.io] (s.setReg .uhl 0x150 (w32 a)) := s.setReg_within _ _ _
  have hexec : exec (.uhlClear v) s = .next ((((s.setReg .uhl 0x150 (w32 a)).uhlWrite
      { type := 6, unit := w32 a, step := (s.setReg .uhl 0x150 (w32 a)).reg .step 0x10C, info1 := 0 }).unfence a).classify a) := by
    have h : exec (.uhlClear v) s = execUhlClear v s := rfl
    rw [h, execUhlClear, ha]
    dsimp only
    rw [if_neg (by rw [hready, hopen]; decide), if_neg (by rw [hgo]; decide)]
  rw [hstep] at hexec
  generalize s.setReg .uhl 0x150 (w32 a) = t at h150 hstep htw hexec hnone
  generalize UhlRec.mk 6 (w32 a) (s.reg .step 0x10C) 0 0 0 0 = r at hexec hnone
  have hlog : ∀ o, o < 0x110 → o ≠ 0x100 → ¬ Page.uhl.base + o = Page.uhl.base + 0x150 := fun o ho _ => by omega
  have hfence : ∀ n o, 0x118 ≤ o → o < 0x180 → ¬ (Page.chk n).base + o = Page.uhl.base + 0x150 := fun n o _ _ => by
    simp only [Page.base]
    omega
  have hput : (t.uhlWrite r).reg .uhl 0x150 = t.reg .uhl 0x150 := (t.uhlWrite_calm_off (A := fun x => x = Page.uhl.base + 0x150) hlog r).reg rfl
  have huw := t.uhlWrite_within r
  generalize t.uhlWrite r = u at hexec hnone hput huw
  obtain ⟨hflag, hcond⟩ := (u.unfence a).unfence_removes a
  have hvw := u.unfence_within a
  have hv150 : (u.unfence a).reg .uhl 0x150 = u.reg .uhl 0x150 :=
    (State.unfence_calm (A := fun x => x = Page.uhl.base + 0x150) u hfence a).reg rfl
  have hvlog : uhlCounted (u.unfence a).uhlLog a = [] := by rw [u.uhlLog_congr (hvw.board (by decide)), hnone]
  generalize u.unfence a = x at hexec hflag hcond hvw hv150 hvlog
  have hchk := x.classify_of_none hvlog
  refine ⟨_, hexec, ?_, ?_, fun k hk => ?_, ?_, ?_⟩
  · rw [(x.classify_calm (A := fun x => x = Page.uhl.base + 0x150) hlog hfence a).reg rfl, hv150, hput, h150]
  · rw [State.flag, hchk]
    exact hflag
  · have hk' := hcond k hk
    rw [State.flag, State.field, hchk]
    intro h31 hfld
    rw [condOf, h31, hfld, beq_self_eq_true] at hk'
    exact absurd hk' (by decide)
  · rw [(x.classify_logStep a).1.tallies (by decide), hvw.tallies (by decide), huw.tallies (by decide), htw.tallies (by decide)]
  · rw [(x.classify_logStep a).1.mem (by decide), hvw.mem (by decide), huw.mem (by decide), htw.mem (by decide)]

/-! ### The seed (R447) -/

theorem State.foldl_setReg_chk (f : Nat → W32) (o : Nat) (ns : List Nat) (n : Nat) :
    (ns.foldl (fun t n => t.setReg (.chk n) o (f n)) s).reg (.chk n) o = if n ∈ ns then f n else s.reg (.chk n) o := by
  induction ns generalizing s with
  | nil => rfl
  | cons m ns ih =>
    rw [List.foldl_cons, ih]
    by_cases hns : n ∈ ns
    · rw [if_pos hns, if_pos (List.mem_cons_of_mem _ hns)]
    · rw [if_neg hns]
      by_cases hnm : n = m
      · subst hnm
        rw [State.reg_setReg_same, if_pos List.mem_cons_self]
      · rw [State.reg_setReg_ne _ (by simp only [Page.base]; omega), if_neg fun h => (List.mem_cons.mp h).elim hnm hns]

theorem State.chkSeedWrite_seeds (v : W32) (hready : s.ready = true) (hopen : s.pageSealed .chkG = false) :
    ∃ t, exec (.chkSeedWrite v) s = .next t ∧ t.reg .chkG 0x104 = v ∧
      (∀ n < 64, t.reg (.chk n) 0x120 = if v = w32 n then 1 else v ^^^ w32 n) ∧ t = { s with io := t.io } := by
  refine ⟨(List.range 64).foldl (fun t n => t.setReg (.chk n) 0x120 (if v ^^^ w32 n = 0 then 1 else v ^^^ w32 n)) (s.setReg .chkG 0x104 v),
    ?_, ?_, fun n hn => ?_, ?_⟩
  · have h : exec (.chkSeedWrite v) s = execChkSeedWrite v s := rfl
    rw [h, execChkSeedWrite, if_neg (by rw [hready, hopen]; decide)]
  · have h104 : (s.setReg .chkG 0x104 v).reg .chkG 0x104 = v := s.reg_setReg_same _ _ _
    have hcalm : (s.setReg .chkG 0x104 v).Calm (fun x => x = Page.chkG.base + 0x104) ((List.range 64).foldl
        (fun t n => t.setReg (.chk n) 0x120 (if v ^^^ w32 n = 0 then 1 else v ^^^ w32 n)) (s.setReg .chkG 0x104 v)) :=
      State.Calm.foldl _ (fun t n _ => t.setReg_calm _ _ _ (by
        simp only [Page.base]
        omega)) _
    rw [hcalm.reg rfl, h104]
  · rw [State.foldl_setReg_chk (f := fun n => if v ^^^ w32 n = 0 then 1 else v ^^^ w32 n), if_pos (List.mem_range.mpr hn)]
    have hiff : v ^^^ w32 n = 0 ↔ v = w32 n := BitVec.xor_eq_zero_iff
    simp only [hiff]
  · exact (State.within.foldl (l := [.io]) (fun t n => t.setReg_within _ _ _) _ _ |> (State.within.trans (s.setReg_within _ _ _) ·))

end

end Sys2Proof.Machine
end

section
/-! PROOF. The digest engine (R465, R466, R470). -/
namespace Sys2Proof.Machine

section
variable (s : State)

/-! ### Its runs -/

theorem State.length_digRuns (n i : Nat) : (s.digRuns n i).length ≤ n := by
  induction n generalizing i with
  | zero => exact Nat.le_refl 0
  | succ n ih =>
    rw [State.digRuns]
    split
    · exact Nat.zero_le _
    · split
      · exact Nat.zero_le _
      · exact Nat.succ_le_succ (ih (i + 1))

/-- The digests of the runs, whatever reads their pages. -/
def digestsBy (read : Nat → Nat → Option (List OutByte)) (unstated : Nat → List Byte) : List (Nat × Nat) → Nat → List (List Byte) × Bool
  | [], _ => ([], false)
  | r :: rs, i =>
    match read r.1 (r.2 * 2 ^ 21) with
    | none => let x := digestsBy read unstated rs (i + 1); (unstated i :: x.1, x.2)
    | some bs =>
      if bs.any Prod.snd then ([unstated i], true)
      else let x := digestsBy read unstated rs (i + 1); (sha256 (bs.map Prod.fst) :: x.1, x.2)

theorem State.digests_eq (rs : List (Nat × Nat)) (i : Nat) : s.digests rs i = digestsBy s.ownRead s.freeDigest rs i := by
  delta State.digests State.digests._f digestsBy digestsBy._f
  generalize s.ownRead = read
  generalize s.freeDigest = unstated
  rfl

theorem length_digestsBy (read : Nat → Nat → Option (List OutByte)) (unstated : Nat → List Byte) (rs : List (Nat × Nat)) (i : Nat) :
    (digestsBy read unstated rs i).1.length ≤ rs.length := by
  induction rs generalizing i with
  | nil => exact Nat.le_refl 0
  | cons r rs ih =>
    rw [digestsBy]
    split
    · exact Nat.succ_le_succ (ih (i + 1))
    · split
      · exact Nat.succ_le_succ (Nat.zero_le _)
      · exact Nat.succ_le_succ (ih (i + 1))

/-- The digest of a single run. -/
theorem digestsBy_single {read : Nat → Nat → Option (List OutByte)} (unstated : Nat → List Byte) {p n : Nat} {bs : List OutByte}
    (h : read p (n * 2 ^ 21) = some bs) :
    (bs.any Prod.snd = true → (digestsBy read unstated [(p, n)] 0).2 = true) ∧
    (¬ bs.any Prod.snd = true → digestsBy read unstated [(p, n)] 0 = ([sha256 (bs.map Prod.fst)], false)) := by
  rw [digestsBy]
  dsimp only
  rw [h]
  dsimp only
  exact ⟨fun hp => by rw [if_pos hp], fun hp => by rw [if_neg hp, digestsBy]⟩

/-- What the engine has once it starts (R466). -/
theorem State.digStart_starts (step : W32) (hidle : s.dig = none) : ∃ d, (s.digStart step).dig = some d ∧ d.step = step ∧
    (s.digStart step).reg .chkG 0x120 = 0x80000000#32 ∧ d.digests = (s.digests (s.digRuns 64 0) 0).1 ∧
    d.poison = (s.digests (s.digRuns 64 0) 0).2 ∧ s.within [.dig, .io, .out, .free] (s.digStart step) := by
  unfold State.digStart
  rw [if_neg (by rw [hidle]; decide)]
  extract_lets runs x t
  have ht : s.within [.dig, .io, .out, .free] t := by
    refine State.within.mono (m := [.io, .out]) (l := [.dig, .io, .out, .free]) (by decide) ?_
    exact State.within.trans (.ite (fun _ => s.ownFault_within _ _ _) fun _ => .refl _ _)
      (.foldl (fun t r => t.ownFault_within _ _ _) _ _)
  clear_value t
  refine ⟨{ step := step, digests := x.1, poison := x.2 }, rfl, rfl, ?_, rfl, rfl, ?_⟩
  · exact State.reg_setReg_same _ _ _ _
  · exact (ht.trans (u := { t with dig := some { step := step, digests := x.1, poison := x.2 } }) rfl).then (by decide)
      (((State.setReg_within _ _ _ _).mono (l := [.io, .free]) (by decide)).then (by decide) (State.fresh_within _))

/-! ### Its end -/

theorem State.digWrite_within (i : Nat) (bs : List Byte) : s.within [.mem, .io] (s.digWrite i bs) := by
  unfold State.digWrite
  split
  · exact .refl _ _
  · exact s.putLocal_within _ _

/-- The state once the digests are written and reported (R465). -/
def State.digReported (d : Dig) : State :=
  let t := ((List.range d.digests.length).zip d.digests).foldl (fun (t : State) p => t.digWrite p.1 p.2) { s with dig := none }
  let t := t.event .chkG 0x06 (((s.digRuns d.digests.length 0).map fun r => r.2 * 2 ^ 15).sum)
  (t.setReg .chkG 0x120 (w32 ((if d.poison then 2 ^ 29 else 2 ^ 30) + d.digests.length))).setReg .chkG 0x128 d.step

theorem State.digestEngineDone_eq {d : Dig} (h : s.dig = some d) : exec .digestEngineDone s =
    .next (if d.poison then (s.digReported d).setErr .chkG 2 else (s.digReported d).addTally (s.field .chkG 0x110 31 20) 1) := by
  have hexec : exec .digestEngineDone s = execDigestEngineDone s := rfl
  rw [hexec, execDigestEngineDone, h] <;> rfl

theorem State.digReported_reports (d : Dig) : s.within [.mem, .io, .dig] (s.digReported d) ∧ (s.digReported d).dig = none ∧
    (s.digReported d).reg .chkG 0x128 = d.step ∧
    (s.digReported d).reg .chkG 0x120 = w32 ((if d.poison then 2 ^ 29 else 2 ^ 30) + d.digests.length) ∧
    (s.digReported d).mem =
      (((List.range d.digests.length).zip d.digests).foldl (fun (t : State) p => t.digWrite p.1 p.2) { s with dig := none }).mem := by
  unfold State.digReported
  generalize w32 ((if d.poison then 2 ^ 29 else 2 ^ 30) + d.digests.length) = word
  generalize ((s.digRuns d.digests.length 0).map fun r => r.2 * 2 ^ 15).sum = count
  extract_lets t t1
  have ht : s.within [.mem, .io, .dig] t :=
    State.within.then (t := { s with dig := none }) (by decide) (State.within.mono (m := [.dig]) (l := [.mem, .io, .dig]) (by decide) rfl)
      (State.within.foldl (l := [.mem, .io]) (fun (t : State) p => t.digWrite_within _ _) _ _)
  have hdig : t.dig = none :=
    (State.within.foldl (s := { s with dig := none }) (l := [.mem, .io]) (fun (t : State) p => t.digWrite_within _ _) _).dig (by decide)
  have hmem : t.mem = (((List.range d.digests.length).zip d.digests).foldl (fun (t : State) p => t.digWrite p.1 p.2)
    { s with dig := none }).mem := rfl
  clear_value t
  have h1 : t.within [.io] t1 := t.event_within _ _ _
  clear_value t1
  have h2 : t1.within [.io] ((t1.setReg .chkG 0x120 word).setReg .chkG 0x128 d.step) :=
    State.within.trans (t1.setReg_within _ _ _) (State.setReg_within _ _ _ _)
  refine ⟨(ht.then (by decide) h1).then (by decide) h2, ?_, State.reg_setReg_same _ _ _ _, ?_, ?_⟩
  · rw [h2.dig (by decide), h1.dig (by decide), hdig]
  · rw [State.reg_setReg_ne _ (by decide), State.reg_setReg_same]
  · rw [h2.mem (by decide), h1.mem (by decide), hmem]

/-- A digest that is written into clean memory of this device stands there. -/
theorem State.keyBytes_digWrite {x : List Byte} {k : Nat} (hlen : x.length = 32) (hastray : s.mem.astray = [])
    (hkey : s.ownKey (((s.reg64 .chkG 0x114).toNat % 2 ^ 43 + 32) % 2 ^ 43) = some k) (hclean : s.rangePoison k 32 = false)
    {t : State} (hmem : t.mem = (s.digWrite 0 x).mem) (hfree : t.free = s.free) : (t.keyBytes k 32).map Prod.fst = x := by
  have hput : s.digWrite 0 x = s.hbmPut (cells k x) := by
    unfold State.digWrite
    rw [Nat.mul_zero, Nat.add_zero, hkey]
    exact s.putLocal_clean k x
  have hfree' : (s.digWrite 0 x).free = s.free := (s.digWrite_within 0 x).free (by decide)
  have hgran := granPoison_of_rangePoison hclean
  refine List.ext_getElem (by rw [List.length_map, State.keyBytes, List.length_map, List.length_range, hlen]) fun i hi hi' => ?_
  simp only [State.keyBytes, List.getElem_map, List.getElem_range]
  rw [State.hbmByte_congr hmem (hfree.trans hfree'.symm), hput]
  exact State.hbmByte_hbmPut_mem (nodup_cells k x) (mem_cells.mpr ⟨i, hi', rfl⟩) (hgran i (hlen ▸ hi')) hastray

theorem State.addTally_tallies_of (h : Nat) {t : State} (ht : t.tallies = s.tallies) : (t.addTally h 1).tallies = (s.addTally h 1).tallies := by
  have hset : ∀ (u : State), (u.addTally h 1).tallies = Table.set (fun _ => 0) u.tallies h (Table.get (fun _ => 0) u.tallies h + 1) :=
    fun u => (State.event_within _ _ _ _).tallies (by decide)
  rw [hset, hset, ht]

theorem State.digestEngineDone_ends {d : Dig} {x : List Byte} {k : Nat} (h : s.dig = some d) :
    ∃ t, exec .digestEngineDone s = .next t ∧ t.dig = none ∧ t.reg .chkG 0x128 = d.step ∧
      t.reg .chkG 0x120 = w32 ((if d.poison then 2 ^ 29 else 2 ^ 30) + d.digests.length) ∧
      (d.poison = true → t.flag .chkG 0x010 2 = true ∧ t.tallies = s.tallies) ∧
      (d.poison = false → t.tallies = (s.addTally (s.field .chkG 0x110 31 20) 1).tallies) ∧
      (d.digests = [x] → x.length = 32 → s.mem.astray = [] → s.ownKey (((s.reg64 .chkG 0x114).toNat % 2 ^ 43 + 32) % 2 ^ 43) = some k →
        s.rangePoison k 32 = false → (t.keyBytes k 32).map Prod.fst = x) := by
  obtain ⟨hw, hdig, h128, h120, hmem⟩ := s.digReported_reports d
  refine ⟨_, s.digestEngineDone_eq h, ?_⟩
  generalize s.digReported d = u at hw hdig h128 h120 hmem
  have hend : u.within [.tallies, .host, .wins, .cores, .io, .out]
      (if d.poison then u.setErr .chkG 2 else u.addTally (s.field .chkG 0x110 31 20) 1) :=
    .ite (fun _ => (u.setErr_within _ _).mono (by decide)) fun _ => (u.addTally_within _ _).mono (by decide)
  have hkeep : ∀ o, 0x100 ≤ o → o < 0x1000 →
      (if d.poison then u.setErr .chkG 2 else u.addTally (s.field .chkG 0x110 31 20) 1).reg .chkG o = u.reg .chkG o := by
    intro o h1 h2
    split
    · exact (u.setErr_keepsRegs _ _).reg _ h1 h2
    · exact (State.event_keepsRegs _ _ _ _).reg _ h1 h2
  refine ⟨?_, ?_, ?_, fun hp => ?_, fun hp => ?_, fun hone hlen hastray hkey hclean => ?_⟩
  · rw [hend.dig (by decide), hdig]
  · rw [hkeep _ (by decide) (by decide), h128]
  · rw [hkeep _ (by decide) (by decide), h120]
  · rw [if_pos hp]
    exact ⟨u.flag_setErr _ _ (by decide), by rw [(u.setErr_within _ _).tallies (by decide), hw.tallies (by decide)]⟩
  · rw [if_neg (by rw [hp]; decide)]
    exact s.addTally_tallies_of _ (hw.tallies (by decide))
  · refine State.keyBytes_digWrite { s with dig := none } hlen hastray hkey hclean ?_ ?_
    · rw [hend.mem (by decide), hmem, hone]
      rfl
    · rw [hend.free (by decide), hw.free (by decide)]

end

/-- Settles O48. -/
theorem logAndDigests : Obligations.LogAndDigests := by
  unfold Obligations.LogAndDigests
  refine ⟨fun s v r => ?_, fun s v d x p n k => ⟨fun hready hgo hrun => ?_, fun hready hgo hidle => ?_, s.digestEngineDone_ends⟩⟩
  · intro a at_ clear u
    refine ⟨s.uhlPut_fails r, fun hdead htype => ?_, fun hready hsealed => ?_, fun hready hopen hgo hnone => ?_, s.chkSeedWrite_seeds v⟩
    · have hlt : at_ < 32768 := Nat.mod_lt _ (by decide)
      have hat : s.mgmt.uhlPos % uhlSize = at_ := congrArg (s.mgmt.uhlPos % ·) (rfl : uhlSize = 32768)
      clear_value at_
      exact s.uhlPut_puts r hdead htype hlt hat
    · have h : exec (.uhlClear v) s = execUhlClear v s := rfl
      rw [h, execUhlClear]
      dsimp only
      rw [if_pos (by rw [hready, hsealed]; rfl)]
    · exact s.uhlClear_clears v hready hopen hgo rfl hnone
  · have h : exec (.digestEngineStart v) s = execDigestEngineStart v s := rfl
    rw [h, execDigestEngineStart, if_neg (by rw [hready, hgo]; decide), State.digStart, if_pos hrun]
  · obtain ⟨d, hd, hstep, h120, hdigests, hpoison, hw⟩ := s.digStart_starts (s.reg .step 0x10C) hidle
    refine ⟨s.digStart (s.reg .step 0x10C), d, ?_, hd, hstep, h120, ?_, hw, fun hruns => ?_⟩
    · have h : exec (.digestEngineStart v) s = execDigestEngineStart v s := rfl
      rw [h, execDigestEngineStart, if_neg (by rw [hready, hgo]; decide)]
    · rw [hdigests, s.digests_eq]
      exact (length_digestsBy _ _ _ _).trans (s.length_digRuns 64 0)
    · rw [hruns, s.digests_eq] at hdigests hpoison
      split
      · next bs hread =>
        obtain ⟨hbad, hgood⟩ := digestsBy_single s.freeDigest hread
        split
        · next hp => rw [hpoison, hbad hp]
        · next hp =>
          rw [hdigests, hpoison, hgood hp]
          exact ⟨rfl, rfl⟩
      · trivial

end Sys2Proof.Machine
end

section
/-! PROOF. What Oxbow makes of its pages (R375 to R379, R401): closing, sending, confirming, and every page at once. -/
namespace Sys2Proof.Machine

/-- The registers of Oxbow's page. -/
abbrev oxbAddr (a : Nat) : Prop := 0x802000 ≤ a ∧ a < 0x803000

theorem oxbAddr_oxb {o : Nat} (h : o < 0x1000) : oxbAddr (Page.oxb.base + o) := by
  simp only [oxbAddr, Page.base]
  omega

/-- Registers that the end of a step leaves alone. -/
abbrev offClose (A : Nat → Prop) : Prop :=
  (∀ o, 0x134 ≤ o → o < 0x14C → ¬ A (Page.step.base + o)) ∧
  (∀ p ∈ [Page.cwn, .chkG, .nrm, .pmap], ∀ o, o < 0x1000 → ¬ A (p.base + o)) ∧
  ∀ n < 64, ∀ o, o < 0x1000 → ¬ A ((Page.acc n).base + o)

theorem offClose_oxbAddr : offClose oxbAddr := by
  refine ⟨fun o h h' => ?_, fun p hp o ho => ?_, fun n hn o ho => ?_⟩
  · simp only [oxbAddr, Page.base]
    omega
  · fin_cases hp <;>
      · simp only [oxbAddr, Page.base]
        omega
  · simp only [oxbAddr, Page.base]
    omega

section
variable {A : Nat → Prop} (hA : offClose A) (s : State)

/-! ### The end of a step (R353) -/

include hA

theorem State.applyBatch_calm (b : Batch) : s.Calm A (s.applyBatch b) := by
  have hpmap : ∀ o, o < 0x1000 → ¬ A (Page.pmap.base + o) := hA.2.1 .pmap (by decide)
  have hstep : ∀ (t : State) (r : Nat × W64), t.Calm A (((t.setPmap r.1 r.2).setSpill r.1 r.2).event .pmap 0x03 1) := fun t r =>
    (State.Calm.trans ((t.setMem_within _).calm (by decide) (by decide)) ((State.setSpill_writes _ _ _).within.calm (by decide) (by decide))).trans
      (State.event_calm _ _ _ _ fun o _ h => hpmap o (h.trans (by decide)))
  unfold State.applyBatch
  extract_lets t
  have ht : s.Calm A t := .foldl _ (fun t r _ => hstep t r) s
  clear_value t
  exact ((ht.trans ((t.setMem_within _).calm (by decide) (by decide))).trans (State.setReg_calm _ _ _ _ (hpmap _ (by decide)))).trans
    (State.event_calm _ _ _ _ fun o _ h => hpmap o (h.trans (by decide)))

theorem State.batchAtClosed_calm : s.Calm A s.batchAtClosed := by
  unfold State.batchAtClosed
  split
  · exact .ite (s.applyBatch_calm hA _) (.refl s)
  · exact .refl s

theorem State.setBusy_calm (k : StepSlot) : s.Calm A (s.setBusy k) := by
  have hcwn : ∀ o, o < 0x1000 → ¬ A (Page.cwn.base + o) := hA.2.1 .cwn (by decide)
  unfold State.setBusy
  extract_lets vs b t
  have ht : s.Calm A t := .foldl _ (fun t i hi =>
    t.setReg_calm _ _ _ (hcwn _ (by have := List.mem_range.mp hi; omega))) s
  clear_value t
  exact ht.trans (t.setReg_calm _ _ _ (hcwn _ (by decide)))

omit hA

theorem State.slot_setSlot {i j : Nat} (hi : i < 2) (hj : j < 2) (k : StepSlot) :
    (s.setSlot j k).slot i = if i = j then k else s.slot i := by
  interval_cases i <;> interval_cases j <;> rfl

/-- The phase counters, the busy counts and the counts of the slot go to their registers. -/
def State.closeCounts (s : State) (j : Nat) : State :=
  (((((List.range 6).foldl (fun t i => t.setReg .step (0x134 + 4 * i) ((s.slot j).phases.getD i 0)) s).setBusy (s.slot j)).setReg .chkG
    (0x108 + 4 * j) 0).accClear j).oobClear j

theorem State.closeSlot_eq (j : Nat) : s.closeSlot j = ((s.closeCounts j).setSlot j {}).batchAtClosed := rfl

theorem State.closeCounts_within (j : Nat) : s.within [.io] (s.closeCounts j) := by
  unfold State.closeCounts
  generalize s.slot j = k
  have h1 : s.within [.io] ((List.range 6).foldl (fun t i => t.setReg .step (0x134 + 4 * i) (k.phases.getD i 0)) s) :=
    .foldl (fun t i => t.setReg_within _ _ _) _ s
  generalize (List.range 6).foldl (fun t i => t.setReg .step (0x134 + 4 * i) (k.phases.getD i 0)) s = t at h1
  exact (((h1.trans (t.setBusy_within k)).trans (State.setReg_within _ _ _ _)).trans (State.accClear_within _ j)).trans
    (State.oobClear_within _ j)

include hA

theorem State.closeCounts_calm {j : Nat} (hj : j < 2) : s.Calm A (s.closeCounts j) := by
  have hchk : ∀ o, o < 0x1000 → ¬ A (Page.chkG.base + o) := hA.2.1 .chkG (by decide)
  have hnrm : ∀ o, o < 0x1000 → ¬ A (Page.nrm.base + o) := hA.2.1 .nrm (by decide)
  unfold State.closeCounts
  generalize s.slot j = k
  have h1 : s.Calm A ((List.range 6).foldl (fun t i => t.setReg .step (0x134 + 4 * i) (k.phases.getD i 0)) s) :=
    .foldl _ (fun t i hi => t.setReg_calm _ _ _ (hA.1 _ (by omega) (by have := List.mem_range.mp hi; omega))) s
  generalize (List.range 6).foldl (fun t i => t.setReg .step (0x134 + 4 * i) (k.phases.getD i 0)) s = t at h1
  have h2 := h1.trans (t.setBusy_calm hA k)
  generalize t.setBusy k = u at h2
  have h3 := h2.trans (u.setReg_calm .chkG (0x108 + 4 * j) 0 (hchk _ (by omega)))
  generalize u.setReg .chkG (0x108 + 4 * j) 0 = v at h3
  have h4 := h3.trans (v.accClear_calm hA.2.2 hj)
  generalize v.accClear j = w at h4
  exact (h4.trans (w.setReg_calm .nrm (0x100 + 4 * j) 0 (hnrm _ (by omega)))).trans
    (State.setReg_calm _ .nrm (0x108 + 4 * j) 0 (hnrm _ (by omega)))

/-- The slot is FREE; the other one, and what Oxbow has, stay. -/
theorem State.closeSlot_frees {j : Nat} (hj : j < 2) : (s.closeSlot j).oxb = s.oxb ∧ s.Calm A (s.closeSlot j) ∧
    ∀ i < 2, (s.closeSlot j).slot i = if i = j then {} else s.slot i := by
  rw [s.closeSlot_eq]
  have hw := s.closeCounts_within j
  have hc := s.closeCounts_calm hA hj
  generalize s.closeCounts j = u at hw hc
  have hb := (u.setSlot j {}).batchAtClosed_within
  refine ⟨?_, (hc.trans (.of_io rfl rfl)).trans ((u.setSlot j {}).batchAtClosed_calm hA), fun i hi => ?_⟩
  · rw [hb.oxb (by decide)]
    exact hw.oxb (by decide)
  · rw [hb.slotsAs (by decide) i, u.slot_setSlot hi hj, hw.slotsAs (by decide) i]

/-- One slot of a step whose pages are all confirmed. -/
def State.closeDone (s : State) (j : Nat) : State :=
  if (s.slot j).st == .mirror && !s.oxb.remirror && !(s.oxb.pend.any fun p => p.step == (s.slot j).step) then s.closeSlot j else s

omit hA in
theorem State.mirrorClose_eq : s.mirrorClose = (s.closeDone 0).closeDone 1 := rfl

theorem State.closeDone_closes {j : Nat} (hj : j < 2) : (s.closeDone j).oxb = s.oxb ∧ s.Calm A (s.closeDone j) ∧
    (∀ i < 2, i ≠ j → (s.closeDone j).slot i = s.slot i) ∧
    (s.oxb.pend = [] → s.oxb.remirror = false → (s.slot j).st = .mirror → ((s.closeDone j).slot j).st = .free) := by
  unfold State.closeDone
  split
  · obtain ⟨h1, h2, h3⟩ := s.closeSlot_frees hA hj
    exact ⟨h1, h2, fun i hi hne => by rw [h3 i hi, if_neg hne], fun _ _ _ => by rw [h3 j hj, if_pos rfl]⟩
  · next hno =>
    refine ⟨rfl, .refl s, fun _ _ _ => rfl, fun hp hr hm => absurd ?_ hno⟩
    rw [hp, hr, hm]
    rfl

theorem State.mirrorClose_frees : s.mirrorClose.oxb = s.oxb ∧ s.Calm A s.mirrorClose ∧
    (s.oxb.pend = [] → s.oxb.remirror = false → ∀ j < 2, (s.slot j).st = .mirror → (s.mirrorClose.slot j).st = .free) := by
  rw [s.mirrorClose_eq]
  obtain ⟨h1, h2, h3, h4⟩ := s.closeDone_closes hA (j := 0) (by decide)
  generalize s.closeDone 0 = t at h1 h2 h3 h4
  obtain ⟨k1, k2, k3, k4⟩ := t.closeDone_closes hA (j := 1) (by decide)
  refine ⟨k1.trans h1, h2.trans k2, fun hp hr j hj hm => ?_⟩
  interval_cases j
  · rw [k3 0 (by decide) (by decide)]
    exact h4 hp hr hm
  · exact k4 (h1 ▸ hp) (h1 ▸ hr) (by rw [h3 1 (by decide) (by decide)]; exact hm)

omit hA

/-- While no step is open there is nothing to close. -/
theorem State.mirrorClose_idle (h : s.stepOpen = false) : s.mirrorClose = s := by
  have hslot : ∀ j, (s.slot j).st = .free := by
    intro j
    obtain ⟨h0, h1⟩ : s.stepm.s0.st = .free ∧ s.stepm.s1.st = .free := by
      simpa [State.stepOpen] using h
    unfold State.slot StepM.slot
    split
    · exact h0
    · exact h1
  have hdone : ∀ j, s.closeDone j = s := fun j => by
    rw [State.closeDone, hslot j]
    rfl
  rw [s.mirrorClose_eq, hdone, hdone]

end

end Sys2Proof.Machine
end

section
/-! PROOF. Sending, confirming, and every page at once (R375 to R379, R401). -/
namespace Sys2Proof.Machine

/-! ### PENDING pages -/

/-- A page with a higher number than every PENDING one stands last. -/
theorem pendAdd_last (p : PendPage) (l : List PendPage) (h : ∀ q ∈ l, q.m < p.m) : pendAdd p l = l ++ [p] := by
  induction l with
  | nil => rfl
  | cons q l ih =>
    have hq := h q List.mem_cons_self
    rw [pendAdd, if_neg (by omega), if_neg (by omega), ih fun r hr => h r (List.mem_cons_of_mem _ hr)]
    rfl

/-- The rest of what Oxbow has stays while pages become PENDING. -/
abbrev Oxb.sameRest (o o' : Oxb) : Prop :=
  o'.frames = o.frames ∧ o'.sending = o.sending ∧ o'.promoted = o.promoted ∧ o'.stopped = o.stopped ∧ o'.initRun = o.initRun ∧
  o'.remirror = o.remirror

section
variable (s : State)

theorem State.markTag_within (m : Nat) (sending : Bool) : s.within [.mem] (s.markTag m sending) := s.setTag_within _ _ _ _

theorem State.pendPage_pends (step : W32) {m : Nat} (hm : m < s.oxb.frames.length) (hlast : ∀ q ∈ s.oxb.pend, q.m < m) :
    s.oxb.sameRest (s.pendPage step m).oxb ∧ ∃ p : PendPage, p.m = m ∧ p.step = step ∧ (s.pendPage step m).oxb.pend = s.oxb.pend ++ [p] := by
  unfold State.pendPage
  rw [List.getElem?_eq_getElem hm]
  dsimp only
  generalize s.oxb.frames[m] = f
  have ho := (s.settleFrame_within f).oxb (by decide)
  generalize s.settleFrame f = t at ho
  have hlast' : ∀ q ∈ t.oxb.pend, q.m < (t.pageNow m f step).m := by
    rw [ho]
    exact hlast
  rw [(State.markTag_within _ m false).oxb (by decide)]
  dsimp only
  rw [pendAdd_last _ _ hlast', ho]
  exact ⟨⟨rfl, rfl, rfl, rfl, rfl, rfl⟩, _, rfl, rfl, rfl⟩

/-- Every page of the frames becomes PENDING, in order. -/
theorem State.foldl_pendPage (step : W32) (hnone : s.oxb.pend = []) (k : Nat) (hk : k ≤ s.oxb.frames.length) :
    s.oxb.sameRest ((List.range k).foldl (fun t m => t.pendPage step m) s).oxb ∧
    ((List.range k).foldl (fun t m => t.pendPage step m) s).oxb.pend.map PendPage.m = List.range k ∧
    ∀ q ∈ ((List.range k).foldl (fun t m => t.pendPage step m) s).oxb.pend, q.step = step := by
  induction k with
  | zero =>
    refine ⟨⟨rfl, rfl, rfl, rfl, rfl, rfl⟩, ?_, ?_⟩
    · exact congrArg (List.map PendPage.m) hnone
    · exact fun q hq => absurd (hnone ▸ hq : q ∈ []) (List.not_mem_nil)
  | succ k ih =>
    obtain ⟨⟨h1, h2, h3, h4, h5, h6⟩, hmap, hstep⟩ := ih (by omega)
    rw [List.range_succ, List.foldl_append, List.foldl_cons, List.foldl_nil]
    generalize (List.range k).foldl (fun t m => t.pendPage step m) s = t at h1 h2 h3 h4 h5 h6 hmap hstep
    have hlast : ∀ q ∈ t.oxb.pend, q.m < k := fun q hq => by
      have : q.m ∈ List.range k := hmap ▸ List.mem_map_of_mem hq
      exact List.mem_range.mp this
    obtain ⟨⟨k1, k2, k3, k4, k5, k6⟩, p, hpm, hps, hp⟩ := t.pendPage_pends step (m := k) (by rw [h1]; omega) hlast
    refine ⟨⟨k1.trans h1, k2.trans h2, k3.trans h3, k4.trans h4, k5.trans h5, k6.trans h6⟩, ?_, fun q hq => ?_⟩
    · rw [hp, List.map_append, hmap, List.map_cons, List.map_nil, hpm]
    · rw [hp] at hq
      rcases List.mem_append.mp hq with hq | hq
      · exact hstep q hq
      · rw [List.mem_singleton.mp hq, hps]

/-- While the mirror is on and no step is open, every page becomes PENDING for `LAST_DONE` (R379, R401). -/
theorem State.mirrorAll_pends (hon : s.mirrorOn = true) (hidle : s.stepOpen = false) (hne : s.oxb.frames ≠ []) :
    s.within [.mem, .oxb, .free] s.mirrorAll ∧ s.mirrorAll.oxb.frames = s.oxb.frames ∧
    s.mirrorAll.oxb.pend.map PendPage.m = List.range s.oxb.frames.length ∧
    (∀ q ∈ s.mirrorAll.oxb.pend, q.step = s.reg .step 0x10C) ∧ s.mirrorAll.oxb.stopped = false ∧
    s.mirrorAll.oxb.initRun = s.oxb.initRun ∧ s.mirrorAll.oxb.remirror = s.oxb.remirror := by
  unfold State.mirrorAll
  extract_lets step ms o t u
  have ht : s.within [.oxb] t := rfl
  have hto : t.oxb.frames = s.oxb.frames ∧ t.oxb.stopped = false ∧ t.oxb.initRun = s.oxb.initRun ∧ t.oxb.remirror = s.oxb.remirror :=
    ⟨rfl, rfl, rfl, rfl⟩
  have hon' : t.mirrorOn = true := hon
  have hu : u = ms.foldl (fun t m => t.pendPage step m) t := if_pos hon'
  have hfold := t.foldl_pendPage step rfl s.oxb.frames.length (Nat.le_refl _)
  have hw : t.within [.mem, .oxb] u := by
    rw [hu]
    exact .foldl (fun t m => t.pendPage_within _ _) _ t
  have hfold' : t.oxb.sameRest u.oxb ∧ u.oxb.pend.map PendPage.m = List.range s.oxb.frames.length ∧ ∀ q ∈ u.oxb.pend, q.step = step := by
    rw [hu]
    exact hfold
  clear hfold hu
  obtain ⟨⟨h1, h2, h3, h4, h5, h6⟩, hmap, hstep⟩ := hfold'
  have hsu : s.within [.mem, .oxb] u := (ht.mono (by decide)).trans hw
  clear_value u
  have hpend : u.oxb.pend ≠ [] := fun h => by
    rw [h] at hmap
    exact hne (List.eq_nil_of_length_eq_zero (List.range_eq_nil.mp hmap.symm))
  have hend : u.fresh.mirrorEnd = u.fresh := by
    unfold State.mirrorEnd
    have hne' : (!u.fresh.oxb.pend.isEmpty) = true := by
      rw [Bool.not_eq_true', List.isEmpty_eq_false_iff]
      exact hpend
    rw [if_pos hne']
    refine State.mirrorClose_idle _ ?_
    have hstepm : u.fresh.stepm = s.stepm := hsu.stepm (by decide)
    rw [State.stepOpen, hstepm]
    exact hidle
  rw [hend]
  exact ⟨(hsu.mono (by decide)).then (by decide) u.fresh_within, h1.trans hto.1, hmap, hstep, h4.trans hto.2.1, h5.trans hto.2.2.1,
    h6.trans hto.2.2.2⟩

/-! ### The last page (R377, R379) -/

theorem State.mirrorEnd_ends (hrem : s.oxb.sending = none) : s.mirrorEnd.oxb.pend = s.oxb.pend ∧ s.mirrorEnd.oxb.sending = none ∧
    (∀ j < 2, s.oxb.pend = [] → (s.slot j).st = .mirror → (s.mirrorEnd.slot j).st = .free) ∧
    (s.oxb.pend = [] → s.oxb.initRun = true → s.mirrorEnd.flag .oxb 0x144 31 = true) := by
  unfold State.mirrorEnd
  split
  · next hne =>
    obtain ⟨ho, -, -⟩ := s.mirrorClose_frees offClose_oxbAddr
    have hnil : s.oxb.pend ≠ [] := fun h => by
      rw [h] at hne
      exact absurd hne (by decide)
    exact ⟨by rw [ho], by rw [ho, hrem], fun _ _ h => absurd h hnil, fun h => absurd h hnil⟩
  · next hnil =>
    have hpend : s.oxb.pend = [] := by simpa using hnil
    extract_lets t
    have ht : s.within [.io] t := .ite (fun _ => s.setReg_within _ _ _) fun _ => .refl _ _
    have hflag : s.oxb.initRun = true → t.flag .oxb 0x144 31 = true := fun h => by
      have : t = s.setFlag .oxb 0x144 31 true := if_pos h
      rw [this, s.flag_setFlag_same _ _ _ _ (by decide)]
    clear_value t
    have hto := ht.oxb (by decide)
    have hto' : t.oxb.pend = s.oxb.pend := congrArg Oxb.pend hto
    obtain ⟨ho, hc, hfree⟩ := State.mirrorClose_frees offClose_oxbAddr { t with oxb := { t.oxb with initRun := false, remirror := false, promoted := [] } }
    refine ⟨?_, ?_, fun j hj _ hm => ?_, fun _ hinit => ?_⟩
    · rw [ho]
      exact hto'
    · rw [ho]
      exact (congrArg Oxb.sending hto : _).trans hrem
    · exact hfree (hto'.trans hpend) rfl j hj ((congrArg StepSlot.st (ht.slotsAs (by decide) j)).trans hm)
    · rw [hc.flag 31 (oxbAddr_oxb (by decide))]
      exact hflag hinit

theorem State.mirrorPageConfirm_confirms {p : PendPage} {rest : List PendPage} (hsend : s.oxb.sending = some p.m)
    (hpend : s.oxb.pend = p :: rest) (hrest : ∀ q ∈ rest, q.m ≠ p.m)
    (hasks : ∀ a ∈ s.stepm.asks, a.kind ≠ .page p.m ∧ a.kind ≠ .tag p.m) : ∃ t, exec .mirrorPageConfirm s = .next t ∧
      t.oxb.pend = rest ∧ t.oxb.sending = none ∧ (∀ j < 2, rest = [] → (s.slot j).st = .mirror → (t.slot j).st = .free) ∧
      (rest = [] → s.oxb.initRun = true → t.flag .oxb 0x144 31 = true) := by
  have hexec : exec .mirrorPageConfirm s = .next ((s.pageDone p.m p.step).event .oxb 0x02 1).mirrorEnd := by
    have h : exec .mirrorPageConfirm s = execMirrorPageConfirm s := rfl
    have hfind : (s.oxb.pend.find? fun q => q.m == p.m) = some p := by
      rw [hpend]
      exact List.find?_cons_of_pos (p := fun q : PendPage => q.m == p.m) (beq_self_eq_true _)
    have hbusy : (s.stepm.asks.any fun a => a.kind == .page p.m || a.kind == .tag p.m) = false := by
      rw [List.any_eq_false]
      intro a ha
      obtain ⟨h1, h2⟩ := hasks a ha
      rw [beq_eq_false_iff_ne.mpr h1, beq_eq_false_iff_ne.mpr h2]
      decide
    rw [h, execMirrorPageConfirm, hsend]
    dsimp only
    rw [hfind]
    dsimp only
    rw [if_neg (by rw [hbusy]; decide)]
  have hdone : (s.pageDone p.m p.step).oxb.pend = rest ∧ (s.pageDone p.m p.step).oxb.sending = none ∧
      (s.pageDone p.m p.step).oxb.initRun = s.oxb.initRun := by
    rw [State.pageDone, (State.setTag_within _ _ _ _ _).oxb (by decide)]
    refine ⟨?_, rfl, rfl⟩
    dsimp only
    rw [hpend, List.filter_cons_of_neg (by simp), List.filter_eq_self]
    exact fun q hq => bne_iff_ne.mpr (hrest q hq)
  have hslots := s.pageDone_slots p.m p.step
  generalize s.pageDone p.m p.step = t at hexec hdone hslots
  have he := t.event_within .oxb 0x02 1
  obtain ⟨h1, h2, h3, h4⟩ := (t.event .oxb 0x02 1).mirrorEnd_ends (by rw [he.oxb (by decide), hdone.2.1])
  rw [he.oxb (by decide), hdone.1] at h1 h3 h4
  rw [hdone.2.2] at h4
  refine ⟨_, hexec, h1, h2, fun j hj hr hm => h3 j hj hr ?_, h4⟩
  rw [he.slotsAs (by decide) j, hslots j, hm]

end

end Sys2Proof.Machine
end

section
/-! PROOF. Oxbow sends, confirms and initialises the mirror (R375 to R379, R401). -/
namespace Sys2Proof.Machine

section
variable (s : State)

/-! ### Sending (R377) -/

theorem pieces_ne_nil {a n : Nat} (hn : n ≠ 0) : pieces a n ≠ [] := by
  unfold pieces
  rw [pieces2k, if_neg hn]
  exact List.cons_ne_nil _ _

/-- The writes of a piece of data to a partner are among what the step machinery asks. -/
theorem State.foldl_ask {α : Type} (slot : Nat) (kind : AskKind) (r : α → FReq) (xs : List α) :
    (xs.foldl (fun t x => t.ask slot kind (r x)) s).oxb = s.oxb ∧
    (∀ a ∈ s.stepm.asks, a ∈ (xs.foldl (fun t x => t.ask slot kind (r x)) s).stepm.asks) ∧
    (∀ x ∈ xs, ∃ a ∈ (xs.foldl (fun t x => t.ask slot kind (r x)) s).stepm.asks,
      a.kind = kind ∧ a.req.group = (r x).group ∧ a.req.dev = (r x).dev) := by
  induction xs generalizing s with
  | nil => exact ⟨rfl, fun _ ha => ha, fun _ hx => nomatch hx⟩
  | cons x xs ih =>
    have hasks : ∃ a, (s.ask slot kind (r x)).stepm.asks = s.stepm.asks ++ [a] ∧ a.kind = kind ∧ a.req.group = (r x).group ∧
        a.req.dev = (r x).dev := ⟨_, rfl, rfl, rfl, rfl⟩
    have hoxb : (s.ask slot kind (r x)).oxb = s.oxb := rfl
    rw [List.foldl_cons]
    generalize s.ask slot kind (r x) = t at hasks hoxb
    obtain ⟨h1, h2, h3⟩ := ih t
    obtain ⟨a, happend, hkind, hgroup, hdev⟩ := hasks
    refine ⟨h1.trans hoxb, fun b hb => h2 b (by rw [happend]; exact List.mem_append_left _ hb), fun y hy => ?_⟩
    rcases List.mem_cons.mp hy with rfl | hy
    · exact ⟨a, h2 a (by rw [happend]; exact List.mem_append_right _ (List.mem_singleton.mpr rfl)), hkind, hgroup, hdev⟩
    · exact h3 y hy

/-- Bytes go to the partner of a way. -/
theorem State.putTo_sends (slot : Nat) (kind : AskKind) (ctx w a : Nat) {bs : List OutByte} (hbs : bs.length ≠ 0) {d : Nat × Nat}
    (hd : s.partner w = some d) : ∃ t, s.putTo slot kind ctx w a bs = some t ∧ t.oxb = s.oxb ∧
      ∃ x ∈ t.stepm.asks, x.kind = kind ∧ x.req.group = d.1 ∧ x.req.dev = d.2 := by
  obtain ⟨p, hp⟩ := List.exists_mem_of_ne_nil _ (pieces_ne_nil (a := a % 2 ^ 43) hbs)
  unfold State.putTo
  rw [hd]
  obtain ⟨h1, -, h3⟩ := s.foldl_ask slot kind (fun p : Nat × Nat × Nat =>
    { who := .none, ctx := ctx, kind := 1, group := d.1, dev := d.2, addr := p.1, len := p.2.1
      data := ((bs.drop p.2.2).take p.2.1).map Prod.fst, bad := badSlots p.1 ((bs.drop p.2.2).take p.2.1) }) (pieces (a % 2 ^ 43) bs.length)
  exact ⟨_, rfl, h1, h3 p hp⟩

theorem State.length_pageBytes (p : PendPage) (f : Nat) : (s.pageBytes p f).length = 2 ^ 21 := by
  unfold State.pageBytes
  rw [List.length_map, List.length_range]

theorem State.putWays_one (slot : Nat) (kind : AskKind) (ctx : Nat) (a : Nat → Nat) (bs : List OutByte) (hways : s.ways = 1) :
    s.putWays slot kind ctx a bs = s.putTo slot kind ctx 0 (a 0) bs := by
  unfold State.putWays
  rw [hways]
  rfl

theorem State.mirrorFail_fails : s.mirrorFail.oxb.stopped = true ∧ s.mirrorFail.oxb.sending = none ∧
    s.mirrorFail.flag .oxb 0x010 0 = true := by
  unfold State.mirrorFail
  extract_lets t u
  refine ⟨?_, ?_, State.flag_setErr _ _ _ (by decide)⟩
  · rw [(State.setErr_within _ _ _).oxb (by decide)]
  · rw [(State.setErr_within _ _ _).oxb (by decide)]

theorem State.partner_congr {t : State} (h : t.io = s.io) (w : Nat) : t.partner w = s.partner w := by
  unfold State.partner State.reg
  rw [h]

theorem State.ways_congr {t : State} (h : t.io = s.io) : t.ways = s.ways := by
  unfold State.ways State.field State.reg
  rw [h]

variable {s} {p : PendPage} {rest : List PendPage}

/-- The page that is sent next, where none was promoted, is the first PENDING one. -/
theorem State.mirrorPageSend_eq (hprom : s.oxb.promoted = []) (hpend : s.oxb.pend = p :: rest) (hsend : s.oxb.sending = none)
    (hstop : s.oxb.stopped = false) (hon : s.mirrorOn = true) : exec .mirrorPageSend s = .next (
      if !p.bad.isEmpty || s.mem.poison.any fun g => g / 2 ^ 15 == s.oxb.frames.getD p.m 0 then
        ({ s with oxb := { s.oxb with sending := some p.m } }.markTag p.m true).mirrorFail
      else match ({ s with oxb := { s.oxb with sending := some p.m } }.markTag p.m true).putWays 0 (.page p.m) 0
          (fun w => s.mirrorDst w + p.m * 2 ^ 21) (s.pageBytes p (s.oxb.frames.getD p.m 0)) with
        | some u => if s.oxb.loose then u.fresh else u
        | none => ({ s with oxb := { s.oxb with sending := some p.m } }.markTag p.m true).mirrorFail) := by
  have h : exec .mirrorPageSend s = execMirrorPageSend s := rfl
  rw [h, execMirrorPageSend]
  dsimp only
  rw [hprom, hpend, List.findSome?_nil]
  dsimp only [List.head?_cons]
  rw [if_neg (by rw [hsend, hstop, hon]; decide)] <;> rfl

/-- A page without poison goes to its partner. -/
theorem State.mirrorPageSend_sends (hprom : s.oxb.promoted = []) (hpend : s.oxb.pend = p :: rest) (hsend : s.oxb.sending = none)
    (hstop : s.oxb.stopped = false) (hon : s.mirrorOn = true) {dst : Nat × Nat} (hbad : p.bad = [])
    (hclean : ∀ g ∈ s.mem.poison, g / 2 ^ 15 ≠ s.oxb.frames.getD p.m 0) (hways : s.ways = 1) (hdst : s.partner 0 = some dst) :
    ∃ t, exec .mirrorPageSend s = .next t ∧ t.oxb = { s.oxb with sending := some p.m } ∧
      ∃ a ∈ t.stepm.asks, a.kind = .page p.m ∧ a.req.group = dst.1 ∧ a.req.dev = dst.2 := by
  have hexec := State.mirrorPageSend_eq hprom hpend hsend hstop hon
  have hpoison : (!p.bad.isEmpty || s.mem.poison.any fun g => g / 2 ^ 15 == s.oxb.frames.getD p.m 0) = false := by
    rw [hbad, Bool.or_eq_false_iff]
    refine ⟨rfl, List.any_eq_false.mpr fun g hg => ?_⟩
    rw [beq_iff_eq]
    exact hclean g hg
  rw [hpoison, if_neg (by decide)] at hexec
  have hlen := s.length_pageBytes p (s.oxb.frames.getD p.m 0)
  generalize s.pageBytes p (s.oxb.frames.getD p.m 0) = bs at hexec hlen
  have ho : ({ s with oxb := { s.oxb with sending := some p.m } } : State).oxb = { s.oxb with sending := some p.m } := rfl
  have hp : ({ s with oxb := { s.oxb with sending := some p.m } } : State).partner 0 = some dst := hdst
  have hw : ({ s with oxb := { s.oxb with sending := some p.m } } : State).ways = 1 := hways
  generalize ({ s with oxb := { s.oxb with sending := some p.m } } : State) = t0 at hexec ho hp hw
  have hm := t0.markTag_within p.m true
  generalize t0.markTag p.m true = t at hexec hm
  have hp' : t.partner 0 = some dst := by
    rw [← hp]
    exact t0.partner_congr (hm.io (by decide)) 0
  have hw' : t.ways = 1 := by
    rw [← hw]
    exact t0.ways_congr (hm.io (by decide))
  rw [t.putWays_one _ _ _ _ _ hw'] at hexec
  obtain ⟨u, hu, huo, a, ha, hkind⟩ := t.putTo_sends 0 (.page p.m) 0 0 (s.mirrorDst 0 + p.m * 2 ^ 21) (bs := bs)
    (by rw [hlen]; decide) hp'
  rw [hu] at hexec
  have hoxb : u.oxb = { s.oxb with sending := some p.m } := by rw [huo, hm.oxb (by decide), ho]
  refine ⟨_, hexec, ?_⟩
  dsimp only
  split
  · exact ⟨hoxb, a, ha, hkind⟩
  · exact ⟨hoxb, a, ha, hkind⟩

theorem State.mirrorPageSend_stops (hprom : s.oxb.promoted = []) (hpend : s.oxb.pend = p :: rest) (hsend : s.oxb.sending = none)
    (hstop : s.oxb.stopped = false) (hon : s.mirrorOn = true) (hbad : p.bad ≠ []) :
    ∃ t, exec .mirrorPageSend s = .next t ∧ t.oxb.stopped = true ∧ t.oxb.sending = none ∧ t.flag .oxb 0x010 0 = true := by
  have hexec := State.mirrorPageSend_eq hprom hpend hsend hstop hon
  rw [if_pos (by rw [List.isEmpty_eq_false_iff.mpr hbad]; rfl)] at hexec
  exact ⟨_, hexec, State.mirrorFail_fails _⟩

/-! ### A write that waits for a page (R378) -/

theorem State.copyBeforeWriteStall_promotes {m : BitVec 19} (counts : W32) (hm : ∃ q ∈ s.oxb.pend, q.m = m.toNat) :
    ∃ t, exec (.copyBeforeWriteStall m counts) s = .next t ∧
      t.reg .oxb 0x14C = satAdd32 (s.reg .oxb 0x14C) 1 ∧ t.reg .oxb 0x150 = satAdd32 (s.reg .oxb 0x150) counts.toNat ∧
      t.oxb = { s.oxb with promoted := if s.oxb.sending = some m.toNat ∨ m.toNat ∈ s.oxb.promoted then s.oxb.promoted
        else s.oxb.promoted ++ [m.toNat] } ∧
      t = { s with io := t.io, oxb := t.oxb } := by
  have hany : (s.oxb.pend.any fun q => q.m == m.toNat) = true := by
    obtain ⟨q, hq, hqm⟩ := hm
    exact List.any_eq_true.mpr ⟨q, hq, by rw [hqm]; exact beq_self_eq_true _⟩
  have hexec : exec (.copyBeforeWriteStall m counts) s = execCopyBeforeWriteStall m counts s := rfl
  rw [hexec, execCopyBeforeWriteStall]
  dsimp only
  rw [if_neg (by rw [hany]; decide)]
  have h1 : ((s.addSat .oxb 0x14C 1).addSat .oxb 0x150 counts.toNat).reg .oxb 0x14C = satAdd32 (s.reg .oxb 0x14C) 1 := by
    rw [State.reg_addSat_ne _ _ (by decide), State.reg_addSat]
  have h2 : ((s.addSat .oxb 0x14C 1).addSat .oxb 0x150 counts.toNat).reg .oxb 0x150 = satAdd32 (s.reg .oxb 0x150) counts.toNat := by
    rw [State.reg_addSat, State.reg_addSat_ne _ _ (by decide)]
  have hw : s.within [.io] ((s.addSat .oxb 0x14C 1).addSat .oxb 0x150 counts.toNat) :=
    State.within.trans (s.setReg_within _ _ _) (State.setReg_within _ _ _ _)
  generalize (s.addSat .oxb 0x14C 1).addSat .oxb 0x150 counts.toNat = t at h1 h2 hw
  have ht := hw.trans (t.event_within .oxb 0x03 1)
  have hk := t.event_keepsRegs .oxb 0x03 1
  have ht1 := (hk.reg .oxb (by decide) (by decide)).trans h1
  have ht2 := (hk.reg .oxb (by decide) (by decide)).trans h2
  generalize t.event .oxb 0x03 1 = u at ht ht1 ht2
  refine ⟨_, rfl, ?_⟩
  split
  · next hin =>
    have hin' : s.oxb.sending = some m.toNat ∨ m.toNat ∈ s.oxb.promoted := by simpa using hin
    rw [if_pos hin']
    exact ⟨ht1, ht2, ht.oxb (by decide), (ht.mono (by decide) : s.within [.io, .oxb] u)⟩
  · next hin =>
    have hin' : ¬ (s.oxb.sending = some m.toNat ∨ m.toNat ∈ s.oxb.promoted) := by simpa using hin
    rw [if_neg hin']
    have hv : u.within [.oxb] { u with oxb := { u.oxb with promoted := u.oxb.promoted ++ [m.toNat] } } := rfl
    have hvo : ({ u with oxb := { u.oxb with promoted := u.oxb.promoted ++ [m.toNat] } } : State).oxb =
        { s.oxb with promoted := s.oxb.promoted ++ [m.toNat] } := by rw [ht.oxb (by decide)]
    have hvr : ∀ o, ({ u with oxb := { u.oxb with promoted := u.oxb.promoted ++ [m.toNat] } } : State).reg .oxb o = u.reg .oxb o :=
      fun _ => rfl
    generalize ({ u with oxb := { u.oxb with promoted := u.oxb.promoted ++ [m.toNat] } } : State) = v at hv hvo hvr
    have hx := v.setReg_within .oxb 0x154 (satAdd32 (v.reg .oxb 0x154) 1)
    have hxr : ∀ o, o < 0x154 → (v.addSat .oxb 0x154 1).reg .oxb o = v.reg .oxb o := fun o ho => v.reg_addSat_ne _ (by omega)
    have hxe : v.within [.io] (v.addSat .oxb 0x154 1) := hx
    generalize v.addSat .oxb 0x154 1 = x at hxr hxe
    have hy := x.event_within .oxb 0x04 1
    have hyk := x.event_keepsRegs .oxb 0x04 1
    refine ⟨?_, ?_, ?_, ?_⟩
    · rw [hyk.reg _ (by decide) (by decide), hxr _ (by decide), hvr, ht1]
    · rw [hyk.reg _ (by decide) (by decide), hxr _ (by decide), hvr, ht2]
    · rw [hy.oxb (by decide), hxe.oxb (by decide), hvo]
    · have hall : s.within [.io, .oxb] (x.event .oxb 0x04 1) :=
        (((ht.mono (by decide)).then (by decide) hv).then (by decide) hxe).then (by decide) hy
      exact hall

end

end Sys2Proof.Machine
end

section
/-! PROOF. INIT, REMIRROR and the partner registers (R375, R379, R401). -/
namespace Sys2Proof.Machine

section
variable {s : State} {value : W32}

/-! ### INIT (R379) -/

theorem State.mirrorInit_ignored (hready : s.ready = true) (hgo : bitOf value 0 = true)
    (h : s.mirrorFrames = none ∨ s.stepOpen = true) : exec (.mirrorInit value) s = .next (s.setErr .oxb 2) := by
  have hexec : exec (.mirrorInit value) s = execMirrorInit value s := rfl
  rw [hexec, execMirrorInit, if_neg (by rw [hready, hgo]; decide)]
  cases hf : s.mirrorFrames with
  | none => rfl
  | some fs =>
    have hopen : s.stepOpen = true := h.resolve_left (by rw [hf]; exact Option.some_ne_none _)
    dsimp only
    rw [if_pos hopen]

/-- The state whose pages an INIT makes PENDING. -/
def State.initStart (s : State) (fs : List Nat) : State :=
  let t := (s.mirrorHalt.setFlag .oxb 0x144 31 false).setReg .oxb 0x148 (w32 fs.length)
  { t with oxb := { t.oxb with frames := fs, initRun := true, loose := false } }

theorem State.initStart_regs (fs : List Nat) : (s.initStart fs).flag .oxb 0x144 31 = false ∧
    (s.initStart fs).reg .oxb 0x148 = w32 fs.length ∧ (s.initStart fs).mirrorOn = s.mirrorOn ∧
    (s.initStart fs).reg .step 0x10C = s.reg .step 0x10C ∧ (s.initStart fs).stepOpen = s.stepOpen := by
  have hreg : ∀ p o, (s.initStart fs).reg p o =
      ((s.mirrorHalt.setFlag .oxb 0x144 31 false).setReg .oxb 0x148 (w32 fs.length)).reg p o := fun _ _ => rfl
  have hhalt : ∀ p o, s.mirrorHalt.reg p o = s.reg p o := fun _ _ => rfl
  refine ⟨?_, ?_, ?_, ?_, rfl⟩
  · rw [State.flag, hreg, State.reg_setReg_ne _ (by decide)]
    exact State.flag_setFlag_same _ _ _ _ _ (by decide)
  · rw [hreg, State.reg_setReg_same]
  · rw [State.mirrorOn, State.flag, hreg, State.reg_setReg_ne _ (by decide), State.reg_setFlag_ne _ _ _ (by decide), hhalt]
    rfl
  · rw [hreg, State.reg_setReg_ne _ (by decide), State.reg_setFlag_ne _ _ _ (by decide), hhalt]

theorem State.mirrorInit_pends (hready : s.ready = true) (hgo : bitOf value 0 = true) {fs : List Nat} (hfs : s.mirrorFrames = some fs)
    (hidle : s.stepOpen = false) (hon : s.mirrorOn = true) (hne : fs ≠ []) : ∃ t, exec (.mirrorInit value) s = .next t ∧
      t.oxb.frames = fs ∧ t.oxb.pend.map PendPage.m = List.range fs.length ∧ (∀ q ∈ t.oxb.pend, q.step = s.reg .step 0x10C) ∧
      t.oxb.initRun = true ∧ t.flag .oxb 0x144 31 = false ∧ t.reg .oxb 0x148 = w32 fs.length := by
  have hexec : exec (.mirrorInit value) s = .next (s.initStart fs).mirrorAll := by
    have h : exec (.mirrorInit value) s = execMirrorInit value s := rfl
    rw [h, execMirrorInit, if_neg (by rw [hready, hgo]; decide), hfs]
    dsimp only
    rw [if_neg (by rw [hidle]; decide)]
    rfl
  obtain ⟨h144, h148, hon', hstep, hidle'⟩ := s.initStart_regs fs
  have hfr : (s.initStart fs).oxb.frames = fs := rfl
  have hir : (s.initStart fs).oxb.initRun = true := rfl
  generalize s.initStart fs = t at hexec h144 h148 hon' hstep hidle' hfr hir
  obtain ⟨hw, h1, h2, h3, -, h5, -⟩ := t.mirrorAll_pends (hon'.trans hon) (hidle'.trans hidle) (by rw [hfr]; exact hne)
  have hcalm : t.Calm (fun _ => True) t.mirrorAll := hw.calm (by decide) (by decide)
  refine ⟨_, hexec, h1.trans hfr, by rw [h2, hfr], fun q hq => (h3 q hq).trans hstep, h5.trans hir, ?_, ?_⟩
  · rw [hcalm.flag 31 trivial, h144]
  · rw [hcalm.reg trivial, h148]

/-! ### REMIRROR (R401) -/

/-- A write of `OXB.CTL`, and its interrupt condition. -/
def State.oxbCtl (s : State) (value : W32) : State := (s.storeBits .oxb 0x008 value).irqUpdate .oxb

theorem State.storeBits_calm {A : Nat → Prop} {p : Page} {off : Nat} (h : ¬ A (p.base + off)) (v : W32) : s.Calm A (s.storeBits p off v) := by
  unfold State.storeBits
  split
  · exact .refl s
  · exact s.setReg_calm _ _ _ h

theorem State.oxbCtl_within : s.within [.io, .out] (s.oxbCtl value) :=
  ((s.storeBits_within _ _ _).mono (by decide)).trans (State.irqUpdate_within _ _)

theorem State.oxbCtl_keepsRegs : s.KeepsRegs (s.oxbCtl value) :=
  (State.storeBits_calm (not_bodyAddr_base_add .oxb (by decide)) value).trans (State.irqUpdate_calm _ _)

theorem State.remirror_ignored (hready : s.ready = true) (hgo : bitOf value 31 = true)
    (h : s.stepm.s0.st = .commit ∨ s.stepm.s1.st = .commit) : ∃ t, exec (.remirror value) s = .next t ∧ t.oxb = s.oxb ∧
      t.flag .oxb 0x010 2 = true := by
  have hw : s.within [.io, .out] (s.oxbCtl value) := s.oxbCtl_within
  have hexec : exec (.remirror value) s = .next ((s.oxbCtl value).setErr .oxb 2) := by
    have h' : exec (.remirror value) s = execRemirror value s := rfl
    have hctl : (s.storeBits .oxb 0x008 value).irqUpdate .oxb = s.oxbCtl value := rfl
    rw [h', execRemirror, if_neg (by rw [hready]; decide), hctl]
    dsimp only
    rw [if_neg (by rw [hgo]; decide), hw.stepm (by decide), if_pos]
    rcases h with h | h
    · rw [h]
      rfl
    · rw [h]
      simp
  generalize s.oxbCtl value = t at hw hexec
  refine ⟨_, hexec, ?_, t.flag_setErr _ _ (by decide)⟩
  rw [(t.setErr_within _ _).oxb (by decide), hw.oxb (by decide)]

theorem State.remirror_pends (hready : s.ready = true) (hgo : bitOf value 31 = true) (hidle : s.stepOpen = false)
    (hinit : s.oxb.initRun = false) (hon : s.mirrorOn = true) (hne : s.oxb.frames ≠ []) : ∃ t, exec (.remirror value) s = .next t ∧
      t.oxb.frames = s.oxb.frames ∧ t.oxb.pend.map PendPage.m = List.range s.oxb.frames.length ∧ t.oxb.remirror = true ∧
      t.oxb.stopped = false := by
  obtain ⟨hs0, hs1⟩ : s.stepm.s0.st = .free ∧ s.stepm.s1.st = .free := by simpa [State.stepOpen] using hidle
  have hw : s.within [.io, .out] (s.oxbCtl value) := s.oxbCtl_within
  have hk : s.KeepsRegs (s.oxbCtl value) := s.oxbCtl_keepsRegs
  have h' : exec (.remirror value) s = execRemirror value s := rfl
  have hctl : (s.storeBits .oxb 0x008 value).irqUpdate .oxb = s.oxbCtl value := rfl
  rw [execRemirror, if_neg (by rw [hready]; decide), hctl] at h'
  generalize s.oxbCtl value = c at hw hk h'
  dsimp only at h'
  rw [if_neg (by rw [hgo]; decide), if_neg (by
    rw [hw.stepm (by decide), hw.oxb (by decide), hs0, hs1, hinit]
    decide)] at h'
  have hth : ({ c.mirrorHalt with oxb := { c.oxb with sending := none, stopped := false, remirror := true } } : State).stepm.s0.st = .free ∧
      ({ c.mirrorHalt with oxb := { c.oxb with sending := none, stopped := false, remirror := true } } : State).stepm.s1.st = .free := by
    have hstepm := hw.stepm (by decide)
    exact ⟨(congrArg (fun m : StepM => m.s0.st) hstepm).trans hs0, (congrArg (fun m : StepM => m.s1.st) hstepm).trans hs1⟩
  have hwf : c.oxb.frames = s.oxb.frames := congrArg Oxb.frames (hw.oxb (by decide))
  have htf : ({ c.mirrorHalt with oxb := { c.oxb with sending := none, stopped := false, remirror := true } } : State).oxb.frames =
      s.oxb.frames := hwf
  have htr : ({ c.mirrorHalt with oxb := { c.oxb with sending := none, stopped := false, remirror := true } } : State).oxb.remirror = true := rfl
  have hton : ({ c.mirrorHalt with oxb := { c.oxb with sending := none, stopped := false, remirror := true } } : State).mirrorOn = true :=
    (hk.flag (p := .oxb) 31 (by decide)).trans hon
  generalize ({ c.mirrorHalt with oxb := { c.oxb with sending := none, stopped := false, remirror := true } } : State) = t
    at h' hth htf htr hton
  have hslot : ∀ j, (t.slot j).st = .free := fun j => by
    unfold State.slot StepM.slot
    split
    · exact hth.1
    · exact hth.2
  have hlive : ((List.range 2).filter fun j => (t.slot j).st != .free) = [] := List.filter_eq_nil_iff.mpr fun j _ => by
    rw [hslot j]
    decide
  have hfits : ((List.range 2).filter fun j => (t.slot j).abortable) = [] := List.filter_eq_nil_iff.mpr fun j _ => by
    rw [StepSlot.abortable, StepSlot.computing, hslot j]
    simp
  rw [hlive, hfits, List.foldl_nil, List.foldl_nil, ite_self] at h'
  have hidle' : t.stepOpen = false := by
    rw [State.stepOpen, hth.1, hth.2]
    rfl
  obtain ⟨-, h1, h2, -, h4, -, h6⟩ := t.mirrorAll_pends hton hidle' (by rw [htf]; exact hne)
  exact ⟨_, h', h1.trans htf, by rw [h2, htf], h6.trans htr, h4⟩

/-! ### The partners (R375, R388) -/

theorem fld_eq_of_bits {v w : W32} {hi lo : Nat} (h : ∀ i, lo ≤ i → i ≤ hi → bitOf v i = bitOf w i) : fld v hi lo = fld w hi lo := by
  apply Nat.eq_of_testBit_eq
  intro i
  simp only [fld, testBit_bits]
  by_cases hi' : i < hi + 1 - lo
  · have := h (lo + i) (by omega) (by omega)
    simp only [bitOf] at this
    simpa [hi'] using this
  · simp [hi']

/-- A stored bit that may be written takes the value's. -/
theorem bitOf_store (x v : W32) {m : W32} {i : Nat} (hi : i < 32) (hm : bitOf m i = true) :
    bitOf (((x &&& ~~~m) ||| (v &&& m)) &&& ~~~(v &&& w32 0)) i = bitOf v i := by
  have hzero : bitOf (w32 0) i = false := by simp [bitOf_eq, w32]
  have hnot : ∀ w : W32, bitOf (~~~w) i = !bitOf w i := fun w => by simp [bitOf_eq, hi]
  rw [bitOf_and, bitOf_or, bitOf_and, bitOf_and, hnot, hnot, bitOf_and, hm, hzero]
  cases bitOf x i <;> cases bitOf v i <;> rfl

/-- The row of a partner register: all its bits are sealed ones. -/
theorem row_partner (i : Fin 4) : ∃ r, Page.oxb.row (0x104 + 4 * i.val) = some r ∧ r.rw = 0 ∧ r.rws = 0xBFFE0000 ∧ r.w1c = 0 := by
  fin_cases i <;> exact ⟨_, rfl, rfl, rfl, rfl⟩

theorem State.storeBits_partner (hopen : s.pageSealed .oxb = false) (i : Fin 4) :
    s.storeBits .oxb (0x104 + 4 * i.val) value = s.setReg .oxb (0x104 + 4 * i.val)
      (((s.reg .oxb (0x104 + 4 * i.val) &&& ~~~(w32 0xBFFE0000)) ||| (value &&& w32 0xBFFE0000)) &&& ~~~(value &&& w32 0)) := by
  obtain ⟨r, hrow, hrw, hrws, hw1c⟩ := row_partner i
  unfold State.storeBits
  rw [hrow]
  dsimp only
  rw [hopen, hrw, hrws, hw1c]
  rfl

theorem State.partnerWrite_takes (hready : s.ready = true) (hopen : s.pageSealed .oxb = false) (i : Fin 4)
    (h : 2 ≤ i.val ∨ fld value 29 21 = s.myGroup) : ∃ t, exec (.partnerWrite i value) s = .next t ∧
      t.flag .oxb (0x104 + 4 * i.val) 31 = bitOf value 31 ∧ t.field .oxb (0x104 + 4 * i.val) 29 17 = fld value 29 17 ∧
      t = { s with io := t.io } := by
  refine ⟨_, ?_, ?_, ?_, s.storeBits_within .oxb (0x104 + 4 * i.val) value⟩
  · have hexec : exec (.partnerWrite i value) s = execPartnerWrite i value s := rfl
    rw [hexec, execPartnerWrite, if_neg (by rw [hready, hopen]; decide), if_neg]
    rintro ⟨hi, -, hg⟩
    exact h.elim (fun h => absurd hi (by omega)) hg
  · rw [s.storeBits_partner hopen i, State.flag, State.reg_setReg_same]
    exact bitOf_store _ _ (by decide) (by decide)
  · rw [s.storeBits_partner hopen i, State.field, State.reg_setReg_same]
    have hmask : ∀ j < 30, 17 ≤ j → bitOf (w32 0xBFFE0000) j = true := by decide
    exact fld_eq_of_bits fun j h1 h2 => bitOf_store _ _ (by omega) (hmask j (by omega) h1)

theorem State.partnerWrite_ignored (hready : s.ready = true) (hopen : s.pageSealed .oxb = false) (i : Fin 4) (hi : i.val < 2)
    (hv : bitOf value 31 = true) (hg : fld value 29 21 ≠ s.myGroup) : exec (.partnerWrite i value) s = .next (s.setErr .oxb 2) := by
  have hexec : exec (.partnerWrite i value) s = execPartnerWrite i value s := rfl
  rw [hexec, execPartnerWrite, if_neg (by rw [hready, hopen]; decide), if_pos ⟨hi, hv, hg⟩]

end

/-- Settles O41. -/
theorem oxbowMirrors : Obligations.OxbowMirrors := by
  unfold Obligations.OxbowMirrors
  intro s p rest value counts m o
  refine ⟨fun hprom hpend hsend hstop hon => ⟨fun dst => State.mirrorPageSend_sends hprom hpend hsend hstop hon,
      State.mirrorPageSend_stops hprom hpend hsend hstop hon⟩, s.mirrorPageConfirm_confirms,
    State.copyBeforeWriteStall_promotes counts, fun hready hgo => ⟨State.mirrorInit_ignored hready hgo,
      fun fs => State.mirrorInit_pends hready hgo⟩, fun hready hgo => ⟨State.remirror_ignored hready hgo,
      State.remirror_pends hready hgo⟩, fun hready hopen i => ⟨State.partnerWrite_ignored hready hopen i,
      State.partnerWrite_takes hready hopen i⟩⟩

end Sys2Proof.Machine
end

section
/-! PROOF. The head of the step machinery's queue, the abort of a step, its tally (R357 to R359, R381, R392). -/
namespace Sys2Proof.Machine

theorem sdSlot_lt (d : List W32) : sdSlot d < 2 := fld_lt _ 26 26

section
variable {s : State} {d : Desc} {rest : List Desc}

/-! ### The queue (R359) -/

theorem State.stepTake_of_head (hq : s.stepm.q = d :: rest) (hwhy : s.sdReason d = 0) (want : List W32 → Bool) (act : Desc → State) :
    s.stepTake want act = if want d.words then act d else s := by
  unfold State.stepTake
  rw [hq]
  dsimp only
  rw [if_neg (fun h => h hwhy)]

/-- An action whose slot is in the state it needs is taken, and refused otherwise. -/
theorem State.stepTakeIn_of_head {action : Nat} (hq : s.stepm.q = d :: rest) (hwhy : s.sdReason d = 0)
    (haction : sdAction d.words = action) (ok : StepSlot → Bool) (act : Desc → Nat → StepSlot → State) :
    s.stepTakeIn action ok act =
      if ok (s.slot (sdSlot d.words)) then act d (sdSlot d.words) (s.slot (sdSlot d.words)) else s.stepRefuse d 3 := by
  unfold State.stepTakeIn
  rw [State.stepTake_of_head hq hwhy, if_pos (beq_iff_eq.mpr haction)]

theorem State.stepPop_within (s : State) : s.within [.treads, .stepm, .io] s.stepPop := by
  unfold State.stepPop
  extract_lets m _ t
  have ht : s.within [.treads, .stepm, .io] t := rfl
  split
  · exact ht.then (by decide) (t.event_within _ _ _)
  · exact ht

theorem State.stepPop_keepsRegs (s : State) : s.KeepsRegs s.stepPop := by
  unfold State.stepPop
  extract_lets m _ t
  have ht : s.KeepsRegs t := .of_io rfl rfl
  split
  · exact ht.trans (t.event_keepsRegs _ _ _)
  · exact ht

theorem State.stepPop_queue (s : State) : s.stepPop.stepm = { s.stepm with q := s.stepm.q.drop 1, waitAt := none } := by
  unfold State.stepPop
  extract_lets m _ t
  split
  · exact (t.event_within _ _ _).stepm (by decide)
  · rfl

theorem State.stepPop_rest (hq : s.stepm.q = d :: rest) : s.stepPop.stepm.q = rest := by
  rw [s.stepPop_queue, hq]
  rfl

/-! ### Tallies (R358) -/

/-- The registers that give the tallies their owners. -/
abbrev tlyAddr (a : Nat) : Prop := 0x809200 ≤ a ∧ a < 0x809300

theorem State.tallyPermitted_of_calm {u : State} (h : s.Calm tlyAddr u) {n : Nat} (hn : n < 4096) (c : Nat) :
    u.tallyPermitted n c = s.tallyPermitted n c := by
  have haddr : tlyAddr (Page.tly.base + (0x200 + 4 * (n / 64))) := by
    simp only [tlyAddr, Page.base]
    omega
  unfold State.tallyPermitted
  rw [h.field 7 0 haddr]

/-- What an increment does follows from the tallies and their owners alone. -/
theorem State.stepTally_congr {u : State} (h : s.Calm tlyAddr u) (htallies : u.tallies = s.tallies) (d : Desc) :
    (u.stepTally d).tallies = (s.stepTally d).tallies :=
  State.opTally_tallies_congr _ _ htallies (State.tallyPermitted_of_calm h (fld_lt _ 31 20) _)

/-! ### The abort (R392) -/

theorem fld_abortInfo_index {cause : Nat} (h : cause < 256) (index : Nat) :
    fld (w32 (2 ^ 31 + cause * 2 ^ 16 + index % 2 ^ 13)) 12 0 = index % 2 ^ 13 := by
  simp only [fld, bits, w32, BitVec.toNat_ofNat, Nat.shiftRight_eq_div_pow]
  omega

variable (s)

/-- The index in `ABORT_INFO`. -/
theorem State.abortSlot_index {j : Nat} (hj : j < 2) {cause : Nat} (hcause : cause < 256) (index : Nat) (tell : Bool) :
    (s.abortSlot j cause index tell).field .step 0x12C 12 0 = index % 2 ^ 13 := by
  have hinfo : (s.abortRecord j cause index tell).field .step 0x12C 12 0 = index % 2 ^ 13 := by
    rw [State.field, State.abortRecord, State.reg_setReg_same]
    exact fld_abortInfo_index hcause index
  have hother : ∀ a, a ≠ Page.step.base + 0x12C → ¬ abortInfo a := fun _ h => h
  refine ((s.abortRecord_calm (A := abortInfo) (hother _ (by decide)) (fun o ho => hother _ ?_) (fun o _ => hother _ ?_)
    (fun n _ o _ => hother _ ?_) hj cause index tell).field 12 0 rfl).trans hinfo
  all_goals
    simp only [Page.base]
    omega

/-- The error of an abort is shown beside those already shown, and the drain begins. -/
theorem State.abortSlot_shows {j : Nat} (hj : j < 2) (cause index : Nat) (tell : Bool) :
    (s.abortSlot j cause index tell).flag .step 0x010 1 = true ∧
    (∀ i, s.flag .step 0x010 i = true → (s.abortSlot j cause index tell).flag .step 0x010 i = true) ∧
    (s.abortSlot j cause index tell).stepm.draining = some (j, (s.slot j).ctx) := by
  unfold State.abortSlot
  extract_lets k t1 t2 t3 t4 t5 m t6
  have hflags : ∀ i, t3.flag .step 0x010 i = s.flag .step 0x010 i := by
    have h1 : s.Calm (· = Page.step.base + 0x010) t1 := .ite ((s.abortTell_within j cause).calm (by decide) (by decide)) (.refl s)
    have h2 : s.Calm (· = Page.step.base + 0x010) t2 := h1.trans (t1.setReg_calm _ _ _ (by decide))
    have h3 : s.Calm (· = Page.step.base + 0x010) t3 := .ite (h2.trans (t2.setReg_calm _ _ _ (by decide))) h2
    exact fun i => h3.flag i rfl
  clear_value t3
  have herr : (t3.setErr .step 1).flag .step 0x010 1 = true := t3.flag_setErr _ _ (by decide)
  have hstay : ∀ i, s.flag .step 0x010 i = true → (t3.setErr .step 1).flag .step 0x010 i = true := fun i hi =>
    t3.flag_setErr_of ((hflags i).trans hi)
  have h4 : (t3.setErr .step 1).Calm (· = Page.step.base + 0x010) t4 :=
    (State.event_calm _ .step 0x03 1 fun o h1 h2 => by simp only [Page.base]; omega).trans
      ((State.setStepm_within _ _).calm (by decide) (by decide))
  clear_value t4
  have h5 : t4.Calm (· = Page.step.base + 0x010) t5 := by
    have htly : ∀ o, o < 0x1000 → ¬ Page.tly.base + o = Page.step.base + 0x010 := fun o ho => by
      simp only [Page.base]
      omega
    simp only [t5]
    split
    · exact t4.opTally_calm htly _ _
    · exact t4.opTally_calm htly _ _
    · exact .refl t4
  clear_value t5
  have h6 : (t3.setErr .step 1).Calm (· = Page.step.base + 0x010) ((t6.pendingDrop j).accClear j) :=
    (((h4.trans h5).trans (u := t6) (.of_io rfl rfl)).trans ((t6.pendingDrop_within j).calm (by decide) (by decide))).trans
      (State.accClear_calm _ (fun n hn o ho => by
        simp only [Page.base]
        omega) hj)
  have hdrain : t6.stepm.draining = some (j, k.ctx) := rfl
  clear_value t6
  refine ⟨(h6.flag 1 rfl).trans herr, fun i hi => (h6.flag i rfl).trans (hstay i hi), ?_⟩
  rw [(State.accClear_within _ j).stepm (by decide), (t6.pendingDrop_within j).stepm (by decide), hdrain]

/-- An aborted step leaves `NEXT_STEP` and `LAST_DONE` (R392). -/
theorem State.abortSlot_numbers {j : Nat} (hj : j < 2) (cause index : Nat) (tell : Bool) {o : Nat} (h : 0x100 ≤ o) (h' : o < 0x12C) :
    (s.abortSlot j cause index tell).reg .step o = s.reg .step o := by
  have hrecord : s.Calm (· = Page.step.base + o) (s.abortRecord j cause index tell) :=
    State.Calm.trans (.ite ((s.abortTell_within j cause).calm (by decide) (by decide)) (.refl s))
      (State.setReg_calm _ _ _ _ (by simp only [Page.base]; omega))
  refine ((hrecord.trans (s.abortRecord_calm (by simp only [Page.base]; omega) (fun p hp => ?_) (fun p hp => ?_)
    (fun n hn p hp => ?_) hj cause index tell)).reg rfl)
  all_goals
    simp only [Page.base]
    omega

/-- What the abort of a step shows (R391, R392). -/
abbrev State.Aborts (t : State) (j cause : Nat) : Prop :=
  (t.slot j).st = .aborted ∧ t.field .step 0x12C 23 16 = cause ∧ t.flag .step 0x010 1 = true

theorem State.abortSlot_aborts {j : Nat} (hj : j < 2) {cause : Nat} (hcause : cause < 256) (index : Nat) (tell : Bool) :
    (s.abortSlot j cause index tell).Aborts j cause := by
  refine ⟨?_, s.abortSlot_info hj hcause index tell, (s.abortSlot_shows hj cause index tell).1⟩
  rw [s.abortSlot_slots j cause index tell j, State.slot_setSlot_same]
  rfl

end

end Sys2Proof.Machine
end

section
/-! PROOF. The two rounds of the Watershed, the seal, the commit point and resolution (R322, R367 to R370). -/
namespace Sys2Proof.Machine

section
variable (s : State)

/-! ### The engine of a Watershed -/

theorem State.wsStart_calm {A : Nat → Prop} (e : Nat) (hcfl : ¬ A ((Page.cfl e).base + 0x10C)) : s.Calm A (s.wsStart e) := by
  unfold State.wsStart
  extract_lets k
  split
  · exact State.Calm.trans (.of_io rfl rfl) (State.setReg_calm _ _ _ _ hcfl)
  · exact .refl s

theorem State.collDrop_calm {A : Nat → Prop} (e : Nat) (hcfl : ¬ A ((Page.cfl e).base + 0x10C)) : s.Calm A (s.collDrop e) := by
  unfold State.collDrop
  split
  · exact .refl s
  · exact State.Calm.trans (.of_io rfl rfl) (State.wsStart_calm _ e hcfl)

theorem State.wsEnd_calm {A : Nat → Prop} (hcfl : ∀ e, ¬ A ((Page.cfl e).base + 0x10C)) (j : Nat) : s.Calm A (s.wsEnd j) := by
  unfold State.wsEnd
  split
  · exact .refl s
  · next v _ =>
    extract_lets e t
    have ht : s.Calm A t := .of_io rfl rfl
    split
    · exact .ite (ht.trans (t.collDrop_calm _ (hcfl _))) ht
    · exact ht

theorem not_tlyAddr_cfl (e : Nat) : ¬ tlyAddr ((Page.cfl e).base + 0x10C) := by
  simp only [tlyAddr, Page.base]
  omega

theorem State.wsEnd_slots (j : Nat) : s.SlotsAs (s.wsEnd j) := (s.wsEnd_within j).slotsAs (by decide)

/-! ### The rounds (R367, R368) -/

/-- A round that begins is stamped in the slot of its step, which keeps the rest. -/
theorem State.roundStart_begins {j : Nat} (round : Nat) {v : Vote} (hv : (s.slot j).vote = some v) :
    ((s.roundStart j round).slot j).round = round ∧ ((s.roundStart j round).slot j).st = (s.slot j).st ∧
    ((s.roundStart j round).slot j).vote = some v ∧ ((s.roundStart j round).slot j).act = (s.slot j).act ∧
    ((s.roundStart j round).slot j).complete = (s.slot j).complete := by
  unfold State.roundStart
  extract_lets k k1
  have hk1 : k1.round = round ∧ k1.st = (s.slot j).st ∧ k1.vote = some v ∧ k1.act = (s.slot j).act ∧ k1.complete = (s.slot j).complete :=
    ⟨rfl, rfl, hv, rfl, rfl⟩
  split
  · next hnone => exact absurd (hv.symm.trans hnone) (Option.some_ne_none v)
  · next w _ =>
    extract_lets r x c e
    split
    · rw [State.slot_setSlot_same]
      exact hk1
    · have hslots : (x.1.setSlot j k1).SlotsAs (((x.1.setSlot j k1).setCfl w.engine { e with wsq := e.wsq ++ [c] }).wsStart w.engine) :=
        State.SlotsAs.trans (fun _ => rfl) ((State.wsStart_within _ _).slotsAs (by decide))
      rw [hslots j, State.slot_setSlot_same]
      exact hk1

theorem State.voteTally_slot (j : Nat) : (s.voteTally j).slot j = { s.slot j with act := none } := by
  unfold State.voteTally
  split
  · rw [State.stepTally_slots _ _ j, State.slot_setSlot_same]
  · next hnone =>
    generalize s.slot j = k at hnone ⊢
    cases k
    dsimp only at hnone ⊢
    rw [hnone]

/-! ### The commit point (R369) -/

theorem State.commitPoint_commits (j : Nat) : ((s.commitPoint j).slot j).pastCommit = true ∧ ((s.commitPoint j).slot j).st = .seal ∧
    ∀ a, (s.slot j).act = some a → (s.commitPoint j).tallies = (s.stepTally a).tallies := by
  unfold State.commitPoint
  extract_lets t k t1 m t2
  have hslot : s.SlotsAs t := (s.wsEnd_slots j).trans (State.unask_slots _ _)
  have htly : s.Calm tlyAddr t := (s.wsEnd_calm not_tlyAddr_cfl j).trans (.of_io rfl rfl)
  have htal : t.tallies = s.tallies := (s.wsEnd_within j).tallies (by decide)
  have hk : k = s.slot j := hslot j
  clear_value t
  have h1 : (t1.slot j).pastCommit = true ∧ (t1.slot j).st = .seal := by
    simp only [t1]
    rw [State.slot_setSlot_same]
    exact ⟨rfl, rfl⟩
  have h1c : t.Calm tlyAddr t1 := (t.setReg_calm .step 0x130 0 (by decide)).trans (.of_io rfl rfl)
  have h1t : t1.tallies = t.tallies := rfl
  clear_value t1
  have h2 : t1.SlotsAs t2 := fun _ => rfl
  have h2c : s.Calm tlyAddr t2 := (htly.trans h1c).trans (.of_io rfl rfl)
  have h2t : t2.tallies = s.tallies := h1t.trans htal
  clear_value t2
  rw [hk]
  split
  · next d hd =>
    refine ⟨?_, ?_, fun a ha => ?_⟩
    · rw [t2.stepTally_slots d j, h2 j, h1.1]
    · rw [t2.stepTally_slots d j, h2 j, h1.2]
    · obtain rfl := Option.some.inj (hd.symm.trans ha)
      exact State.stepTally_congr h2c h2t d
  · next hnone => exact ⟨by rw [h2 j, h1.1], by rw [h2 j, h1.2], fun a ha => absurd (hnone.symm.trans ha) (Option.some_ne_none a).symm⟩

/-! ### Resolution (R370) -/

theorem State.queue_setSlot (j : Nat) (k : StepSlot) : (s.setSlot j k).stepm.q = s.stepm.q := by
  unfold State.setSlot StepM.setSlot
  dsimp only
  split <;> rfl

/-- Each index that is asked leaves what resolution is about. -/
abbrev State.SameResolution (s t : State) (j : Nat) : Prop :=
  (t.slot j).round = (s.slot j).round ∧ (t.slot j).lack = (s.slot j).lack ∧ (t.slot j).again = (s.slot j).again ∧
  (t.slot j).pastCommit = (s.slot j).pastCommit ∧ t.stepm.q = s.stepm.q

theorem State.resolveAsk_same (j k : Nat) : s.SameResolution (s.resolveAsk j k) j := by
  unfold State.resolveAsk
  extract_lets w r dest a v x k'
  have hx : s.SlotsAs x.1 ∧ x.1.stepm = s.stepm :=
    ⟨(s.orHere_within _ _).slotsAs (by decide), (s.orHere_within _ _).stepm (by decide)⟩
  have hk' : k' = s.slot j := hx.1 j
  clear_value x k'
  subst hk'
  split
  · rw [State.SameResolution, State.slot_setSlot_same, State.queue_setSlot, hx.2]
    exact ⟨rfl, rfl, rfl, rfl, rfl⟩
  · exact ⟨rfl, rfl, rfl, rfl, rfl⟩

theorem State.foldl_resolveAsk_same (j : Nat) (ks : List Nat) : s.SameResolution (ks.foldl (fun t k => t.resolveAsk j k) s) j := by
  induction ks generalizing s with
  | nil => exact ⟨rfl, rfl, rfl, rfl, rfl⟩
  | cons k ks ih =>
    obtain ⟨h1, h2, h3, h4, h5⟩ := s.resolveAsk_same j k
    obtain ⟨k1, k2, k3, k4, k5⟩ := ih (s.resolveAsk j k)
    exact ⟨k1.trans h1, k2.trans h2, k3.trans h3, k4.trans h4, k5.trans h5⟩

/-- Every lacking index is asked. -/
theorem State.resolve_asks (j : Nat) {lack : List Nat} (hne : lack ≠ []) : ((s.resolve j lack).slot j).round = 3 ∧
    ((s.resolve j lack).slot j).lack = lack ∧ ((s.resolve j lack).slot j).again = (s.slot j).again ∧
    ((s.resolve j lack).slot j).pastCommit = (s.slot j).pastCommit ∧ (s.resolve j lack).stepm.q = s.stepm.q := by
  unfold State.resolve
  extract_lets t
  have ht : s.SlotsAs t := (s.wsEnd_slots j).trans ((State.event_within _ _ _ _).slotsAs (by decide))
  have hq : t.stepm.q = s.stepm.q := by
    rw [(State.event_within _ _ _ _).stepm (by decide), (s.wsEnd_within j).stepm (by decide)]
  clear_value t
  rw [if_neg (by rw [List.isEmpty_eq_false_iff.mpr hne]; decide)]
  have h0 : (t.setSlot j { t.slot j with round := 3, lack := lack, answers := [] }).slot j =
      { t.slot j with round := 3, lack := lack, answers := [] } := t.slot_setSlot_same _ _
  have h0q := t.queue_setSlot j { t.slot j with round := 3, lack := lack, answers := [] }
  generalize t.setSlot j { t.slot j with round := 3, lack := lack, answers := [] } = u at h0 h0q
  obtain ⟨h1, h2, h3, h4, h5⟩ := u.foldl_resolveAsk_same j lack
  rw [h0] at h1 h2 h3 h4
  refine ⟨h1, h2, h3.trans ?_, h4.trans ?_, by rw [h5, h0q, hq]⟩
  · rw [ht j]
  · rw [ht j]

end

end Sys2Proof.Machine
end

section
/-! PROOF. A participant table at another device, and VOTE (R319, R322, R367). -/
namespace Sys2Proof.Machine

section
variable (s : State)

/-! ### Participant tables (R319, R322) -/

/-- A table read of engine `e`, as it begins. -/
abbrev State.newTread (s : State) (e : Nat) (use : TableUse) (c : Coll) : TableRead :=
  { id := (s.cfl e).nextId, engine := e, use := use, coll := c, wait := (tablePieces c.desc.words).map fun p => p.2.2 }

/-- The engine has given out a number and the reader waits for its pieces. -/
def State.treadOpened (s : State) (q e : Nat) (use : TableUse) (c : Coll) : State :=
  ((s.setCfl e { s.cfl e with nextId := (s.cfl e).nextId + 1 }).setTread q (some (s.newTread e use c)))

theorem State.routeDown_beside (e : Nat) : s.routeDown (cflDie e) (4 + (cflDie e - 4)) = false := by
  unfold cflDie
  split <;> rfl

/-- The copy of the Page Map beside an engine can always be reached (R9). -/
theorem State.lookup_cfl (e a : Nat) : s.lookup (cflDie e) (cflDie e - 4) a .clean = s.event .pmap 0x02 1 := by
  rw [State.lookup, s.routeDown_beside e, if_neg (by decide), State.readEntry]

/-- A table at another device is asked for by one RD. -/
theorem State.tableAsk_there (q e : Nat) (use : TableUse) {c : Coll} {x len g dv pt a : Nat}
    (hpiece : tablePieces c.desc.words = [(x, len, 0)])
    (hsite : s.site (cflDie e) (cflDie e - 4) c.desc.ctx .rd x = .ok (.there g dv pt a)) :
    s.tableAsk q e use c = ((s.treadOpened q e use c).event .pmap 0x02 1).submit
      { who := .table q (s.cfl e).nextId 0, ctx := c.desc.ctx, kind := 0, group := g, dev := dv, port := pt, addr := a, len := len, own := some x } := by
  have hopened : s.tableAsk q e use c =
      (tablePieces c.desc.words).foldl (fun t p => t.tablePiece q (s.newTread e use c) p) (s.treadOpened q e use c) := rfl
  have hu : (s.treadOpened q e use c).site (cflDie e) (cflDie e - 4) c.desc.ctx .rd x = .ok (.there g dv pt a) := hsite
  rw [hopened, hpiece, List.foldl_cons, List.foldl_nil, State.tablePiece]
  generalize s.treadOpened q e use c = u at hu ⊢
  dsimp only
  rw [State.lookup_cfl, State.site_event, hu]

theorem State.treadOpened_tread (q e : Nat) (use : TableUse) (c : Coll) :
    (s.treadOpened q e use c).tread q = some (s.newTread e use c) :=
  Table.get_set_same (fun _ => none) _ q (some (s.newTread e use c))

end

section
variable {s : State} {d : Desc} {rest : List Desc}

/-! ### VOTE (R322, R367) -/

section
variable (hq : s.stepm.q = d :: rest) (hwhy : s.sdReason d = 0) (haction : sdAction d.words = 4)
  (hst : (s.slot (sdSlot d.words)).st = .check) (hverdict : (s.slot (sdSlot d.words)).verdict.isSome = true)
include hq hwhy haction hst hverdict

theorem State.stepVote_eq : exec .stepVote s = .next (
    if !(voteFieldsOk d.words) then s.stepRefuse d 6
    else if (s.tread 8).isSome then s.voteGo d (sdSlot d.words) (s.slot (sdSlot d.words))
    else (s.tableAsk 8 (wfld d.words 2 2 0) .vote
      { desc := { d with words := voteTable d.words }, parts := [], since := s.refcnt }).voteGo d (sdSlot d.words)
        (s.slot (sdSlot d.words))) := by
  have hexec : exec .stepVote s = execStepVote s := rfl
  rw [hexec, execStepVote, State.stepTakeIn_of_head hq hwhy haction, if_pos (by rw [hst, hverdict]; rfl)]

theorem State.stepVote_refuses (hfields : voteFieldsOk d.words = false) : exec .stepVote s = .next (s.stepRefuse d 6) := by
  rw [State.stepVote_eq hq hwhy haction hst hverdict, hfields]
  rfl

/-- A table at another device is asked for, and VOTE waits (R322). -/
theorem State.stepVote_asks (hfields : voteFieldsOk d.words = true) {g dv pt a : Nat} (hnone : s.tread 8 = none)
    (hpiece : tablePieces (voteTable d.words) = [(wquad d.words 3 43, 16 * wfld d.words 5 12 0, 0)])
    (hsite : s.site (cflDie (wfld d.words 2 2 0)) (cflDie (wfld d.words 2 2 0) - 4) d.ctx .rd (wquad d.words 3 43) =
      .ok (.there g dv pt a)) :
    ∃ t q, exec .stepVote s = .next t ∧ t.fwait = s.fwait ++ [q] ∧ q.kind = 0 ∧ q.group = g ∧ q.dev = dv ∧ q.addr = a ∧
      q.len = 16 * wfld d.words 5 12 0 ∧ (t.tread 8).isSome = true ∧ (t.slot (sdSlot d.words)).st = .check ∧
      t.stepm.q = s.stepm.q := by
  have hexec := State.stepVote_eq hq hwhy haction hst hverdict
  rw [hfields, hnone, if_neg (by decide), if_neg (by decide)] at hexec
  let c : Coll := { desc := { d with words := voteTable d.words }, parts := [], since := s.refcnt }
  have hc : tablePieces c.desc.words = [(wquad d.words 3 43, 16 * wfld d.words 5 12 0, 0)] := hpiece
  have hask := s.tableAsk_there 8 (wfld d.words 2 2 0) .vote hc hsite
  have hwait : (s.newTread (wfld d.words 2 2 0) .vote c).wait = [0] := congrArg (List.map fun p => p.2.2) hc
  have hread := s.treadOpened_tread 8 (wfld d.words 2 2 0) .vote c
  have hopened : s.within [.cfls, .treads] (s.treadOpened 8 (wfld d.words 2 2 0) .vote c) := rfl
  change exec .stepVote s = .next ((s.tableAsk 8 (wfld d.words 2 2 0) .vote c).voteGo d _ _) at hexec
  rw [hask] at hexec
  generalize s.newTread (wfld d.words 2 2 0) .vote c = r at hwait hread
  generalize s.treadOpened 8 (wfld d.words 2 2 0) .vote c = u at hexec hread hopened
  have hev : s.within [.cfls, .treads, .io] (u.event .pmap 0x02 1) :=
    (hopened.mono (by decide)).then (by decide) (u.event_within _ _ _)
  have hread' : (u.event .pmap 0x02 1).tread 8 = some r := by
    rw [State.tread, (u.event_within _ _ _).treads (by decide)]
    exact hread
  generalize u.event .pmap 0x02 1 = w at hexec hev hread'
  have hgo : ∀ p : FReq, (w.submit p).voteGo d (sdSlot d.words) (s.slot (sdSlot d.words)) = (w.submit p).stepWait := fun p => by
    have hp : (w.submit p).tread 8 = some r := hread'
    rw [State.voteGo, hp]
    dsimp only
    rw [hwait]
    rfl
  rw [hgo] at hexec
  refine ⟨_, _, hexec, congrArg (· ++ _) (hev.fwait (by decide)), rfl, rfl, rfl, rfl, rfl, ?_, ?_, ?_⟩
  · exact congrArg Option.isSome hread'
  · rw [State.stepWait_slots _ _]
    have hslot : w.slot (sdSlot d.words) = s.slot (sdSlot d.words) := hev.slotsAs (by decide) _
    exact (congrArg StepSlot.st hslot).trans hst
  · have hqueue : w.stepm.q = s.stepm.q := congrArg StepM.q (hev.stepm (by decide))
    exact hqueue

/-- With the table asked for, VOTE goes by what has come of it. -/
theorem State.stepVote_goes (hfields : voteFieldsOk d.words = true) {tr : TableRead} (htr : s.tread 8 = some tr) :
    exec .stepVote s = .next (if !tr.wait.isEmpty then s.stepWait else match s.voteOf d tr with
      | none => s.stepRefuse d 6
      | some v => (s.stepPop.setSlot (sdSlot d.words) ({ s.slot (sdSlot d.words) with
          st := .vote, vote := some v, act := some d }.stamp 5 s.refcnt)).roundStart (sdSlot d.words) 1) := by
  rw [State.stepVote_eq hq hwhy haction hst hverdict, hfields, htr, if_neg (by decide), if_pos (by rfl), State.voteGo, htr] <;> rfl

theorem State.stepVote_waits (hfields : voteFieldsOk d.words = true) {tr : TableRead} (htr : s.tread 8 = some tr) (hwait : tr.wait ≠ []) :
    exec .stepVote s = .next s.stepWait := by
  rw [State.stepVote_goes hq hwhy haction hst hverdict hfields htr, if_pos]
  rw [List.isEmpty_eq_false_iff.mpr hwait]
  rfl

theorem State.stepVote_rejects (hfields : voteFieldsOk d.words = true) {tr : TableRead} (htr : s.tread 8 = some tr) (hwait : tr.wait = [])
    (hvote : s.voteOf d tr = none) : exec .stepVote s = .next (s.stepRefuse d 6) := by
  rw [State.stepVote_goes hq hwhy haction hst hverdict hfields htr, hwait, if_neg (by decide), hvote]

theorem State.stepVote_begins (hfields : voteFieldsOk d.words = true) {tr : TableRead} (htr : s.tread 8 = some tr) (hwait : tr.wait = [])
    {v : Vote} (hvote : s.voteOf d tr = some v) : ∃ t, exec .stepVote s = .next t ∧ (t.slot (sdSlot d.words)).st = .vote ∧
      (t.slot (sdSlot d.words)).vote = some v ∧ (t.slot (sdSlot d.words)).round = 1 ∧ (t.slot (sdSlot d.words)).act = some d := by
  have hexec := State.stepVote_goes hq hwhy haction hst hverdict hfields htr
  rw [hwait, if_neg (by decide), hvote] at hexec
  refine ⟨_, hexec, ?_⟩
  dsimp only
  have hslot := s.stepPop.slot_setSlot_same (sdSlot d.words) ({ s.slot (sdSlot d.words) with
    st := .vote, vote := some v, act := some d }.stamp 5 s.refcnt)
  generalize s.stepPop.setSlot (sdSlot d.words) ({ s.slot (sdSlot d.words) with
    st := .vote, vote := some v, act := some d }.stamp 5 s.refcnt) = u at hslot ⊢
  have hvslot : (u.slot (sdSlot d.words)).vote = some v := congrArg StepSlot.vote hslot
  obtain ⟨hround, hst', hv', hact, _⟩ := u.roundStart_begins 1 hvslot
  exact ⟨hst'.trans (congrArg StepSlot.st hslot), hv', hround, hact.trans (congrArg StepSlot.act hslot)⟩

end

end

end Sys2Proof.Machine
end

section
/-! PROOF. The end of the first round, SEAL and the seal word (R368, R369). -/
namespace Sys2Proof.Machine

/-- The first index of a list that is named is the one that a search finds. -/
theorem find?_range_first {n i : Nat} {p : Nat → Bool} (hi : i < n) (hp : p i = true) (hfirst : ∀ m < i, p m = false) :
    (List.range n).find? p = some i :=
  List.find?_range_eq_some.mpr ⟨hp, List.mem_range.mpr hi, fun m hm => by rw [hfirst m hm]; rfl⟩

theorem find?_range_none {n : Nat} {p : Nat → Bool} (h : ∀ i < n, p i = false) : (List.range n).find? p = none :=
  List.find?_eq_none.mpr fun i hi => by rw [h i (List.mem_range.mp hi)]; decide

/-! ### The end of the first round (R368) -/

section
variable {s : State} {o : Nat} {v : Vote} (hslot : s.voteSlot = some (o, v))
include hslot

/-- What the record of index `i` says of itself that it should not. -/
abbrev State.recWrong (s : State) (o : Nat) (v : Vote) (recs : List (List W32)) (i : Nat) : Prop :=
  (s.recOurs (s.slot o) (recs.getD i []) && wfld (recs.getD i []) 4 14 0 == (v.parts.map Part.rank).getD i 0) = false

section
variable (hgathered : (s.slot o).gathered = some true) {recs : List (List W32)} (hrecs : s.roundRecs (s.slot o) v = some recs)
include hgathered hrecs

theorem State.voteRound1End_eq : exec .voteRound1End s = .next (
    match (List.range recs.length).find? (fun i =>
        !(s.recOurs ((s.voteTally o).slot o) (recs.getD i [])) || wfld (recs.getD i []) 4 14 0 != (v.parts.map Part.rank).getD i 0),
      (List.range recs.length).find? (fun i => wfld (recs.getD i []) 0 31 31 == 0) with
    | some i, _ => ((s.voteTally o).setErr .step 2).abortSlot o 0x02 i true
    | none, some i => (s.voteTally o).abortSlot o 0x01 i true
    | none, none => ((s.voteTally o).setSlot o { (s.voteTally o).slot o with passed := true, recs := recs }).stragJudge recs) := by
  have hexec : exec .voteRound1End s = execVoteRound1End s := rfl
  rw [hexec, execVoteRound1End, hslot]
  dsimp only
  rw [if_neg (fun h => h hgathered), hrecs] <;> rfl

omit hslot hgathered hrecs in
theorem State.recWrong_iff (i : Nat) : (!(s.recOurs ((s.voteTally o).slot o) (recs.getD i [])) ||
    wfld (recs.getD i []) 4 14 0 != (v.parts.map Part.rank).getD i 0) = true ↔ s.recWrong o v recs i := by
  have hours : s.recOurs ((s.voteTally o).slot o) (recs.getD i []) = s.recOurs (s.slot o) (recs.getD i []) := by
    rw [s.voteTally_slot o]
    rfl
  rw [hours, State.recWrong]
  cases s.recOurs (s.slot o) (recs.getD i []) <;> simp

theorem State.voteRound1End_wrong {i : Nat} (hi : i < recs.length) (hwrong : s.recWrong o v recs i)
    (hfirst : ∀ m < i, ¬ s.recWrong o v recs m) (ho : o < 2) : ∃ t, exec .voteRound1End s = .next t ∧ t.Aborts o 2 ∧
      t.field .step 0x12C 12 0 = i % 2 ^ 13 ∧ t.flag .step 0x010 2 = true := by
  have hexec := State.voteRound1End_eq hslot hgathered hrecs
  rw [find?_range_first hi ((State.recWrong_iff i).mpr hwrong)
    fun m hm => Bool.eq_false_iff.mpr (mt (State.recWrong_iff m).mp (hfirst m hm))] at hexec
  refine ⟨_, hexec, State.abortSlot_aborts _ ho (by decide) _ _, State.abortSlot_index _ ho (by decide) _ _, ?_⟩
  exact (State.abortSlot_shows _ ho _ _ _).2.1 2 ((s.voteTally o).flag_setErr _ _ (by decide))

theorem State.voteRound1End_unsound (hright : ∀ i < recs.length, ¬ s.recWrong o v recs i) {i : Nat} (hi : i < recs.length)
    (hunsound : wfld (recs.getD i []) 0 31 31 = 0) (hfirst : ∀ m < i, ¬ wfld (recs.getD m []) 0 31 31 = 0) (ho : o < 2) :
    ∃ t, exec .voteRound1End s = .next t ∧ t.Aborts o 1 ∧ t.field .step 0x12C 12 0 = i % 2 ^ 13 := by
  have hexec := State.voteRound1End_eq hslot hgathered hrecs
  rw [find?_range_none fun m hm => Bool.eq_false_iff.mpr (mt (State.recWrong_iff m).mp (hright m hm)),
    find?_range_first (p := fun i => wfld (recs.getD i []) 0 31 31 == 0) hi (beq_iff_eq.mpr hunsound)
      fun m hm => beq_eq_false_iff_ne.mpr (hfirst m hm)] at hexec
  exact ⟨_, hexec, State.abortSlot_aborts _ ho (by decide) _ _, State.abortSlot_index _ ho (by decide) _ _⟩

theorem State.voteRound1End_passes (hright : ∀ i < recs.length, ¬ s.recWrong o v recs i ∧ ¬ wfld (recs.getD i []) 0 31 31 = 0) :
    ∃ t, exec .voteRound1End s = .next t ∧ (t.slot o).st = .vote ∧ (t.slot o).passed = true ∧ (t.slot o).recs = recs := by
  have hexec := State.voteRound1End_eq hslot hgathered hrecs
  rw [find?_range_none fun m hm => Bool.eq_false_iff.mpr (mt (State.recWrong_iff m).mp (hright m hm).1),
    find?_range_none (p := fun i => wfld (recs.getD i []) 0 31 31 == 0)
      fun m hm => beq_eq_false_iff_ne.mpr (hright m hm).2] at hexec
  refine ⟨_, hexec, ?_⟩
  have hst := State.voteSlot_st hslot
  rw [State.stragJudge_slots _ recs o, State.slot_setSlot_same, s.voteTally_slot o]
  exact ⟨hst, rfl, rfl⟩

end

theorem State.voteTimeout_aborts (hgathered : (s.slot o).gathered = none) (hto : v.voteTo < 65536) (ho : o < 2) :
    ∃ t, exec .voteTimeout s = .next t ∧ t.Aborts o 8 ∧
      t.elapsed (Table.get (fun _ => 0) (s.slot o).times 14) (v.voteTo * 1024) = true := by
  have hexec : exec .voteTimeout s = execVoteTimeout s := rfl
  rw [execVoteTimeout, hslot] at hexec
  dsimp only at hexec
  rw [hgathered] at hexec
  refine ⟨_, hexec, State.abortSlot_aborts _ ho (by decide) _ _, ?_⟩
  have helapsed := s.elapsed_advance (Table.get (fun _ => 0) (s.slot o).times 14) (n := v.voteTo * 1024) (by omega)
  dsimp only
  generalize s.advance (Table.get (fun _ => 0) (s.slot o).times 14) (v.voteTo * 1024) = t at helapsed ⊢
  have hcnt : (t.voteFail o).refcnt = t.refcnt := by
    have h1 : (t.wsEnd o).refcnt = t.refcnt := (t.wsEnd_within o).refcnt (by decide)
    have h2 : ∀ u : State, (u.voteTally o).refcnt = u.refcnt := fun u => by
      unfold State.voteTally
      split
      · next d _ =>
        exact ((u.setSlot o { u.slot o with act := none }).opTally_within _ _).refcnt (by decide)
      · rfl
    rw [State.voteFail, (State.abortSlot_within _ _ _ _ _).refcnt (by decide), h2, h1]
  rw [State.elapsed, hcnt]
  exact helapsed

end

/-! ### SEAL (R369, R372) -/

section
variable {s : State} {d : Desc} {rest : List Desc} (hq : s.stepm.q = d :: rest) (hwhy : s.sdReason d = 0)
  (haction : sdAction d.words = 5) (hst : (s.slot (sdSlot d.words)).st = .vote) (hpassed : (s.slot (sdSlot d.words)).passed = true)
include hq hwhy haction hst hpassed

theorem State.stepSeal_eq : exec .stepSeal s = .next (
    if wquad d.words 2 43 % 64 ≠ 0 ∨ wfld d.words 4 6 0 = 0 ∨ 64 < wfld d.words 4 6 0 then s.stepRefuse d 7
    else match s.stepWords d.ctx (wquad d.words 2 43) (4 * wfld d.words 4 6 0) with
      | none => (s.readFault 1 d.ctx (wquad d.words 2 43) (16 * wfld d.words 4 6 0)).stepRefuse d 7
      | some ext =>
        if s.sealSize < (sealExtents ext (wfld d.words 4 6 0)).2 then s.stepRefuse d 7
        else
          let t := s.stepPop.setSlot (sdSlot d.words) ({ s.slot (sdSlot d.words) with st := .seal, act := some d, gathered := none }.stamp 6 s.refcnt)
          if s.mirrorOn then t.sealSend (sdSlot d.words) ext (wfld d.words 4 6 0) else t.roundStart (sdSlot d.words) 2) := by
  have hexec : exec .stepSeal s = execStepSeal s := rfl
  rw [hexec, execStepSeal, State.stepTakeIn_of_head hq hwhy haction, if_pos (by rw [hst, hpassed]; rfl)] <;> rfl

theorem State.stepSeal_taken {ext : List W32} (ha : wquad d.words 2 43 % 64 = 0) (hlo : 1 ≤ wfld d.words 4 6 0)
    (hhi : wfld d.words 4 6 0 ≤ 64) (hwords : s.stepWords d.ctx (wquad d.words 2 43) (4 * wfld d.words 4 6 0) = some ext)
    (hsize : (sealExtents ext (wfld d.words 4 6 0)).2 ≤ s.sealSize) :
    ∃ u : State, (u.slot (sdSlot d.words)).st = .seal ∧ (u.slot (sdSlot d.words)).act = some d ∧ u.mem = s.mem ∧ u.stepm.q = rest ∧
      exec .stepSeal s = .next (if s.mirrorOn then u.sealSend (sdSlot d.words) ext (wfld d.words 4 6 0)
        else u.roundStart (sdSlot d.words) 2) := by
  have hexec := State.stepSeal_eq hq hwhy haction hst hpassed
  rw [if_neg (by omega), hwords] at hexec
  dsimp only at hexec
  rw [if_neg (Nat.not_lt.mpr hsize)] at hexec
  have hslot := s.stepPop.slot_setSlot_same (sdSlot d.words)
    ({ s.slot (sdSlot d.words) with st := .seal, act := some d, gathered := none }.stamp 6 s.refcnt)
  refine ⟨_, congrArg StepSlot.st hslot, congrArg StepSlot.act hslot, ?_, ?_, hexec⟩
  · exact s.stepPop_within.mem (by decide)
  · rw [State.queue_setSlot, State.stepPop_rest hq]

theorem State.stepSeal_refuses (h : wquad d.words 2 43 % 64 ≠ 0 ∨ wfld d.words 4 6 0 = 0 ∨ 64 < wfld d.words 4 6 0 ∨
    ∃ ext, s.stepWords d.ctx (wquad d.words 2 43) (4 * wfld d.words 4 6 0) = some ext ∧
      s.sealSize < (sealExtents ext (wfld d.words 4 6 0)).2) : exec .stepSeal s = .next (s.stepRefuse d 7) := by
  rw [State.stepSeal_eq hq hwhy haction hst hpassed]
  by_cases hshape : wquad d.words 2 43 % 64 ≠ 0 ∨ wfld d.words 4 6 0 = 0 ∨ 64 < wfld d.words 4 6 0
  · rw [if_pos hshape]
  · obtain ⟨ext, hwords, hsize⟩ : ∃ ext, s.stepWords d.ctx (wquad d.words 2 43) (4 * wfld d.words 4 6 0) = some ext ∧
        s.sealSize < (sealExtents ext (wfld d.words 4 6 0)).2 := by
      rcases h with h | h | h | h
      · exact absurd (.inl h) hshape
      · exact absurd (.inr (.inl h)) hshape
      · exact absurd (.inr (.inr h)) hshape
      · exact h
    rw [if_neg hshape, hwords]
    dsimp only
    rw [if_pos hsize]

end

/-! ### The seal word (R369) -/

section
variable {s : State} {o : Nat} (hslot : s.sealSlot = some o)
include hslot

theorem State.sealCopyDone_asks {p : Nat × Nat} (hret : (s.slot o).sealRet = none)
    (hask : s.asking o (fun a => a == .seal || a == .complete) = false) (hp : s.partner 0 = some p) :
    exec .sealCopyDone s =
      .next (s.ask o .complete (orReq (s.slot o).ctx p (s.sealWord o) ((s.slot o).step.toNat + 2 ^ 32))) := by
  have hexec : exec .sealCopyDone s = execSealCopyDone s := rfl
  rw [hexec, execSealCopyDone, hslot]
  dsimp only
  rw [hret, hask, if_neg (by decide), hp] <;> rfl

theorem State.sealSlot_st : (s.slot o).st = .seal := by
  have h := List.find?_some hslot
  simp only [Bool.and_eq_true, beq_iff_eq] at h
  exact h.1.1

theorem State.sealWordReturn_refused {w : W64} (hret : (s.slot o).sealRet = some w) (hw : w.toNat / 2 ^ 33 % 2 = 1) (ho : o < 2) :
    ∃ t, exec .sealWordReturn s = .next t ∧ t.Aborts o 6 := by
  have hexec : exec .sealWordReturn s = execSealWordReturn s := rfl
  rw [execSealWordReturn, hslot] at hexec
  dsimp only at hexec
  rw [hret] at hexec
  dsimp only at hexec
  have hn : w.toNat / sealRefused % 2 = 1 := hw
  rw [if_pos hn] at hexec
  exact ⟨_, hexec, s.abortSlot_aborts ho (by decide) _ _⟩

omit hslot in
theorem State.roundStart_sealed (s : State) (k : StepSlot) {v : Vote} (hv : k.vote = some v) (hcomplete : k.complete = true)
    (hst : k.st = .seal) : (((s.setSlot o k).roundStart o 2).slot o).complete = true ∧
      (((s.setSlot o k).roundStart o 2).slot o).round = 2 ∧ (((s.setSlot o k).roundStart o 2).slot o).st = .seal := by
  have hset := s.slot_setSlot_same o k
  generalize s.setSlot o k = u at hset ⊢
  obtain ⟨hround, hst', _, _, hcomplete'⟩ := u.roundStart_begins 2 ((congrArg StepSlot.vote hset).trans hv)
  exact ⟨hcomplete'.trans ((congrArg StepSlot.complete hset).trans hcomplete), hround,
    hst'.trans ((congrArg StepSlot.st hset).trans hst)⟩

theorem State.sealWordReturn_goesOn {w : W64} (hret : (s.slot o).sealRet = some w) (hw : w.toNat / 2 ^ 33 % 2 = 0)
    (hv : (s.slot o).vote.isSome = true) : ∃ t, exec .sealWordReturn s = .next t ∧ (t.slot o).complete = true ∧
      (t.slot o).round = 2 ∧ (t.slot o).st = .seal := by
  obtain ⟨v, hv⟩ := Option.isSome_iff_exists.mp hv
  have hexec : exec .sealWordReturn s = execSealWordReturn s := rfl
  rw [execSealWordReturn, hslot] at hexec
  dsimp only at hexec
  rw [hret] at hexec
  dsimp only at hexec
  have hn : ¬ w.toNat / sealRefused % 2 = 1 := fun h => absurd (hw.symm.trans h) (by decide)
  rw [if_neg hn] at hexec
  exact ⟨_, hexec, State.roundStart_sealed s _ hv rfl (State.sealSlot_st hslot)⟩

end

end Sys2Proof.Machine
end

section
/-! PROOF. The second round, resolution and DECIDE (R369, R370, R410). -/
namespace Sys2Proof.Machine

/-! ### The second round (R369, R370) -/

section
variable {s : State} {o : Nat} {v : Vote} (hslot : s.round2Slot = some (o, v))
include hslot

theorem State.voteRound2End_commits (hgathered : (s.slot o).gathered = some true) (hlack : s.sealedLack (s.slot o) v [] = []) :
    exec .voteRound2End s = .next (s.commitPoint o) := by
  have hexec : exec .voteRound2End s = execVoteRound2End s := rfl
  rw [hexec, execVoteRound2End, hslot]
  dsimp only
  rw [if_neg (fun h => h hgathered), hlack] <;> rfl

theorem State.voteRound2End_resolves (hgathered : (s.slot o).gathered = some true) (hlack : s.sealedLack (s.slot o) v [] ≠ []) :
    exec .voteRound2End s = .next (s.resolve o (s.sealedLack (s.slot o) v [])) := by
  have hexec : exec .voteRound2End s = execVoteRound2End s := rfl
  rw [hexec, execVoteRound2End, hslot]
  dsimp only
  rw [if_neg (fun h => h hgathered)]
  split
  · next h => exact absurd h hlack
  · rfl

theorem State.sealedTimeout_resolves (hgathered : (s.slot o).gathered = some false) :
    exec .sealedTimeout s = .next (s.resolve o (s.sealedLack (s.slot o) v (s.slot o).lack)) := by
  have hexec : exec .sealedTimeout s = execSealedTimeout s := rfl
  rw [hexec, execSealedTimeout, hslot]
  dsimp only
  rw [hgathered]

end

/-! ### Resolution (R370) -/

section
variable {s : State} {o : Nat}

/-- The slot whose resolution runs. -/
theorem State.resolving_slot (ho : o < 2) (hst : (s.slot o).st = .seal) (hpast : (s.slot o).pastCommit = false)
    (hround : (s.slot o).round = 3) (hother : (s.slot (1 - o)).round ≠ 3) :
    (List.range 2).find? (fun j => ((s.slot j).st == .seal || (s.slot j).st == .inDoubt) && !(s.slot j).pastCommit && (s.slot j).round == 3) =
      some o := by
  refine find?_range_first ho (by rw [hst, hpast, hround]; rfl) fun m hm => ?_
  obtain ⟨rfl, rfl⟩ : m = 0 ∧ o = 1 := by omega
  rw [beq_eq_false_iff_ne.mpr hother, Bool.and_false]

variable (ho : o < 2) (hst : (s.slot o).st = .seal) (hpast : (s.slot o).pastCommit = false)
  (hround : (s.slot o).round = 3) (hother : (s.slot (1 - o)).round ≠ 3)
  (hask : s.asking o (fun a => match a with | .resolve _ => true | _ => false) = false) (hagain : (s.slot o).again = none)
include ho hst hpast hround hother hask hagain

theorem State.resolutionReturn_eq : exec .resolutionReturn s = .next (
    match (s.slot o).lack.find? (fun i => match Table.get (fun _ => none) (s.slot o).answers i with
        | some v => v.toNat / sealComplete % 2 == 0
        | none => false),
      (s.slot o).lack.filter (fun i => (Table.get (fun _ => none) (s.slot o).answers i).isNone) with
    | some i, _ => s.abortSlot o 0x07 i true
    | none, [] => s.commitPoint o
    | none, i :: _ => ((s.setSlot o { s.slot o with
        st := .inDoubt, round := 2, answers := []
        lack := (s.slot o).lack.filter fun i => (Table.get (fun _ => none) (s.slot o).answers i).isNone }).setReg .step 0x130
        (w32 (2 ^ 31 + i))).setErr .step 3) := by
  have hexec : exec .resolutionReturn s = execResolutionReturn s := rfl
  have htally : s.againTally o = s := by
    rw [State.againTally, hagain]
  rw [hexec, execResolutionReturn, State.resolving_slot ho hst hpast hround hother]
  dsimp only
  refine congrArg _ ((if_neg fun h => absurd (hask.symm.trans h) (by decide)).trans ?_)
  rw [htally] <;> rfl

/-- The answer of index `i`, and that it refuses. -/
abbrev State.answerOf (s : State) (o i : Nat) : Option W64 := Table.get (fun _ => none) (s.slot o).answers i
abbrev State.answerRefuses (s : State) (o i : Nat) : Prop := ∃ w, s.answerOf o i = some w ∧ w.toNat / 2 ^ 32 % 2 = 0

omit ho hst hpast hround hother hask hagain in
theorem State.answerRefuses_iff (i : Nat) : (match Table.get (fun _ => none) (s.slot o).answers i with
    | some (v : W64) => v.toNat / sealComplete % 2 == 0
    | none => false) = true ↔ s.answerRefuses o i := by
  rw [State.answerRefuses, State.answerOf]
  split
  · next w hw =>
    rw [hw, beq_iff_eq]
    exact ⟨fun h => ⟨w, rfl, h⟩, fun ⟨x, hx, h⟩ => Option.some.inj hx ▸ h⟩
  · next hnone =>
    rw [hnone]
    exact ⟨fun h => absurd h (by decide), fun ⟨x, hx, _⟩ => absurd hx (Option.some_ne_none x).symm⟩

theorem State.resolutionReturn_aborts (h : ∃ i ∈ (s.slot o).lack, s.answerRefuses o i) :
    ∃ t, exec .resolutionReturn s = .next t ∧ t.Aborts o 7 := by
  have hexec := State.resolutionReturn_eq ho hst hpast hround hother hask hagain
  obtain ⟨i, hi⟩ := Option.isSome_iff_exists.mp (List.find?_isSome.mpr
    (h.imp fun i hi => ⟨hi.1, (State.answerRefuses_iff i).mpr hi.2⟩))
  rw [hi] at hexec
  exact ⟨_, hexec, s.abortSlot_aborts ho (by decide) _ _⟩

omit ho hst hpast hround hother hask hagain in
theorem State.refused_none (h : ∀ i ∈ (s.slot o).lack, ¬ s.answerRefuses o i) :
    (s.slot o).lack.find? (fun i => match Table.get (fun _ => none) (s.slot o).answers i with
      | some v => v.toNat / sealComplete % 2 == 0
      | none => false) = none :=
  List.find?_eq_none.mpr fun i hi => mt (State.answerRefuses_iff i).mp (h i hi)

theorem State.resolutionReturn_commits (h : ∀ i ∈ (s.slot o).lack, ¬ s.answerRefuses o i ∧ s.answerOf o i ≠ none) :
    ∃ t, exec .resolutionReturn s = .next t ∧ (t.slot o).pastCommit = true := by
  have hexec := State.resolutionReturn_eq ho hst hpast hround hother hask hagain
  have hsilent : (s.slot o).lack.filter (fun i => (Table.get (fun _ => none) (s.slot o).answers i).isNone) = [] :=
    List.filter_eq_nil_iff.mpr fun i hi => mt Option.isNone_iff_eq_none.mp (h i hi).2
  rw [State.refused_none fun i hi => (h i hi).1, hsilent] at hexec
  exact ⟨_, hexec, (s.commitPoint_commits o).1⟩

theorem State.resolutionReturn_inDoubt (h : ∀ i ∈ (s.slot o).lack, ¬ s.answerRefuses o i ∧ i < 8192)
    (hnone : ∃ i ∈ (s.slot o).lack, s.answerOf o i = none) : ∃ t, exec .resolutionReturn s = .next t ∧
      (t.slot o).st = .inDoubt ∧ t.flag .step 0x130 31 = true ∧ t.flag .step 0x010 3 = true := by
  have hexec := State.resolutionReturn_eq ho hst hpast hround hother hask hagain
  rw [State.refused_none fun i hi => (h i hi).1] at hexec
  obtain ⟨i, l, hsilent, hi⟩ : ∃ i l, (s.slot o).lack.filter (fun i => (Table.get (fun _ => none) (s.slot o).answers i).isNone) = i :: l ∧
      i ∈ (s.slot o).lack := by
    obtain ⟨m, hm, hmn⟩ := hnone
    have hmem : m ∈ (s.slot o).lack.filter (fun i => (Table.get (fun _ => none) (s.slot o).answers i).isNone) :=
      List.mem_filter.mpr ⟨hm, Option.isNone_iff_eq_none.mpr hmn⟩
    obtain ⟨i, l, hil⟩ := List.exists_cons_of_ne_nil (List.ne_nil_of_mem hmem)
    exact ⟨i, l, hil, (List.mem_filter.mp (hil ▸ List.mem_cons_self)).1⟩
  rw [hsilent] at hexec
  refine ⟨_, hexec, ?_⟩
  dsimp only
  have hlt := (h i hi).2
  generalize hk : { s.slot o with st := SlotSt.inDoubt, round := 2, lack := i :: l, answers := [] } = k
  have hkst : k.st = .inDoubt := by rw [← hk]
  have hset := s.slot_setSlot_same o k
  generalize s.setSlot o k = u at hset ⊢
  have hflag : (u.setReg .step 0x130 (w32 (2 ^ 31 + i))).flag .step 0x130 31 = true := by
    rw [State.flag, State.reg_setReg_same, bitOf, w32, BitVec.toNat_ofNat, Nat.testBit_eq_decide_div_mod_eq, decide_eq_true_eq]
    omega
  have hslots : u.SlotsAs (u.setReg .step 0x130 (w32 (2 ^ 31 + i))) := (u.setReg_within _ _ _).slotsAs (by decide)
  generalize u.setReg .step 0x130 (w32 (2 ^ 31 + i)) = w at hflag hslots ⊢
  refine ⟨?_, ?_, w.flag_setErr _ _ (by decide)⟩
  · rw [(w.setErr_within .step 3).slotsAs (by decide) o, hslots o, hset, hkst]
  · have hcalm : w.Calm (· = Page.step.base + 0x130) (w.setErr .step 3) := w.setErr_calm _ _ (by decide) (by decide)
    exact (hcalm.flag 31 rfl).trans hflag

end

/-! ### RESOLVE and DECIDE (R370, R410) -/

section
variable {s : State} {d : Desc} {rest : List Desc}

theorem State.stepResolve_asks (hq : s.stepm.q = d :: rest) (hwhy : s.sdReason d = 0) (haction : sdAction d.words = 9)
    (hst : (s.slot (sdSlot d.words)).st = .inDoubt) (hround : (s.slot (sdSlot d.words)).round = 2)
    (hlack : (s.slot (sdSlot d.words)).lack ≠ []) : ∃ t, exec .stepResolve s = .next t ∧
      (t.slot (sdSlot d.words)).round = 3 ∧ (t.slot (sdSlot d.words)).lack = (s.slot (sdSlot d.words)).lack ∧
      (t.slot (sdSlot d.words)).again = some d ∧ t.stepm.q = rest := by
  have hexec : exec .stepResolve s = execStepResolve s := rfl
  rw [execStepResolve, State.stepTakeIn_of_head hq hwhy haction, if_pos (by rw [hst, hround]; rfl)] at hexec
  refine ⟨_, hexec, ?_⟩
  have hset := s.stepPop.slot_setSlot_same (sdSlot d.words) { s.slot (sdSlot d.words) with again := some d }
  have hqueue := s.stepPop.queue_setSlot (sdSlot d.words) { s.slot (sdSlot d.words) with again := some d }
  generalize s.stepPop.setSlot (sdSlot d.words) { s.slot (sdSlot d.words) with again := some d } = u at hset hqueue ⊢
  obtain ⟨h1, h2, h3, _, h5⟩ := u.resolve_asks (sdSlot d.words) hlack
  exact ⟨h1, h2, h3.trans (congrArg StepSlot.again hset), by rw [h5, hqueue, State.stepPop_rest hq]⟩

theorem State.stepDecide_eq {value : W32} (hready : s.ready = true) (hst : (s.slot (fld value 29 29)).st = .inDoubt) :
    ∃ u : State, exec (.stepDecide value) s =
      .next (if bitOf value 30 then u.commitPoint (fld value 29 29) else u.abortSlot (fld value 29 29) 0x05 0 false) := by
  have hexec : exec (.stepDecide value) s = execStepDecide value s := rfl
  rw [execStepDecide, hready, if_neg (by decide)] at hexec
  dsimp only at hexec
  have hslots : s.SlotsAs ((s.storeBits .step 0x008 value).irqUpdate .step) :=
    ((s.storeBits_within _ _ _).slotsAs (by decide)).trans ((State.irqUpdate_within _ _).slotsAs (by decide))
  generalize (s.storeBits .step 0x008 value).irqUpdate .step = u at hexec hslots
  rw [if_neg (fun h => h (by rw [hslots]; exact hst))] at hexec
  exact ⟨u, hexec⟩

end

end Sys2Proof.Machine
end

section
/-! PROOF. Settles O38. -/
namespace Sys2Proof.Machine

/-- Settles O38. -/
theorem watershedDecides : Obligations.WatershedDecides := by
  unfold Obligations.WatershedDecides
  intro s d rest v o value ho
  dsimp only
  refine ⟨fun ⟨hq, hwhy⟩ haction hst hverdict => ⟨State.stepVote_refuses hq hwhy haction hst hverdict, fun hfields => ⟨?_, ?_⟩⟩,
    fun hvote => ⟨?_, ?_⟩, fun ⟨hq, hwhy⟩ haction hst hpassed => ⟨?_, ?_⟩, fun hseal => ⟨?_, ?_⟩, fun hround2 => ⟨?_, ?_, ?_⟩,
    fun hst hpast hround hother hask hagain => ⟨?_, ?_, ?_⟩, fun ⟨hq, hwhy⟩ => State.stepResolve_asks hq hwhy,
    fun hready hst => ⟨?_, ?_⟩⟩
  · exact fun g dv pt a => State.stepVote_asks hq hwhy haction hst hverdict hfields
  · exact fun tr htr => ⟨State.stepVote_waits hq hwhy haction hst hverdict hfields htr,
      fun hwait hv => State.stepVote_begins hq hwhy haction hst hverdict hfields htr hwait hv,
      fun hwait hv => State.stepVote_rejects hq hwhy haction hst hverdict hfields htr hwait hv⟩
  · exact fun recs hgathered hrecs =>
      ⟨fun i hi hwrong hfirst => State.voteRound1End_wrong hvote hgathered hrecs hi hwrong hfirst ho,
        fun hright i hi hunsound hfirst => State.voteRound1End_unsound hvote hgathered hrecs hright hi hunsound hfirst ho,
        State.voteRound1End_passes hvote hgathered hrecs⟩
  · exact fun hgathered hto => State.voteTimeout_aborts hvote hgathered hto ho
  · exact fun ext => State.stepSeal_taken hq hwhy haction hst hpassed
  · exact State.stepSeal_refuses hq hwhy haction hst hpassed
  · exact fun p => State.sealCopyDone_asks hseal
  · exact fun w hret => ⟨fun hw => State.sealWordReturn_refused hseal hret hw ho, State.sealWordReturn_goesOn hseal hret⟩
  · exact fun hgathered hlack => ⟨_, State.voteRound2End_commits hround2 hgathered hlack, s.commitPoint_commits o⟩
  · intro hgathered hlack
    obtain ⟨hr, hl, _, hp, _⟩ := s.resolve_asks o hlack
    exact ⟨_, State.voteRound2End_resolves hround2 hgathered hlack, hr, hl, hp.trans (State.round2Slot_not_past hround2)⟩
  · intro hgathered hlack
    obtain ⟨hr, hl, _⟩ := s.resolve_asks o hlack
    exact ⟨_, State.sealedTimeout_resolves hround2 hgathered, hr, hl⟩
  · exact State.resolutionReturn_aborts ho hst hpast hround hother hask hagain
  · exact State.resolutionReturn_commits ho hst hpast hround hother hask hagain
  · exact State.resolutionReturn_inDoubt ho hst hpast hround hother hask hagain
  · intro hbit
    obtain ⟨u, hexec⟩ := State.stepDecide_eq hready hst
    rw [if_pos hbit] at hexec
    exact ⟨_, hexec, (u.commitPoint_commits _).1⟩
  · intro hbit
    obtain ⟨u, hexec⟩ := State.stepDecide_eq hready hst
    rw [hbit, if_neg (by decide)] at hexec
    exact ⟨_, hexec, u.abortSlot_aborts (fld_lt _ 29 29) (by decide) _ _⟩

end Sys2Proof.Machine
end

section
/-! PROOF. The tables and the cursors of a commit: what each part leaves alone (R70, R143, R373, R374, R386). -/
namespace Sys2Proof.Machine

/-- `NEXT_STEP`, `LAST_DONE` and the cursors. -/
abbrev cursAddr (a : Nat) : Prop := a = 0x800108 ∨ a = 0x80010C ∨ 0x801110 ≤ a ∧ a < 0x801150

theorem offClose_cursAddr : offClose cursAddr := by
  refine ⟨fun o h h' => ?_, fun p hp o ho => ?_, fun n hn o ho => ?_⟩
  · simp only [cursAddr, Page.base]
    omega
  · fin_cases hp <;>
      · simp only [cursAddr, Page.base]
        omega
  · simp only [cursAddr, Page.base]
    omega

theorem bodyAddr_of_cursAddr (a : Nat) (h : cursAddr a) : bodyAddr a := by
  unfold cursAddr at h
  unfold bodyAddr
  omega

/-- Registers that a commit's updates of tables leave alone. -/
abbrev offTables (A : Nat → Prop) : Prop := ∀ a, A a → 0x100000 ≤ a ∧ ¬ (0x804000 ≤ a ∧ a < 0x805000)

theorem offTables_cursAddr : offTables cursAddr := fun a h => by
  unfold cursAddr at h
  omega

theorem offTables_tlyAddr : offTables tlyAddr := fun a h => by
  unfold tlyAddr at h
  omega

section
variable {A : Nat → Prop} (hA : offTables A) (s : State)

/-! ### A commit fault (R391, R419) -/

theorem State.escRecord_commits (level cause : Nat) : (s.escRecord level cause).mgmt.commits = s.mgmt.commits := by
  have hput : ∀ (t : State) (r : UhlRec), (t.uhlPut r).mgmt.commits = t.mgmt.commits := fun t r => by
    unfold State.uhlPut
    split
    · rw [(t.setErr_within .uhl 1).mgmt (by decide)]
    · extract_lets i t0 _ t1 t2
      have h0 : t0.mgmt = t.mgmt := (t.flashPut_within _ _).mgmt (by decide)
      clear_value t0
      have h1 : t1.mgmt.commits = t0.mgmt.commits := rfl
      clear_value t1
      rw [(State.event_within _ _ _ _).mgmt (by decide), (State.setReg_within _ _ _ _).mgmt (by decide),
        (State.setReg_within _ _ _ _).mgmt (by decide), h1, h0]
  have hfold : ∀ (rs : List (List W32)) (t : State), (rs.foldl (fun t w => t.uhlPut (uhlAgain w)) t).mgmt.commits = t.mgmt.commits := fun rs => by
    induction rs with
    | nil => exact fun _ => rfl
    | cons r rs ih => exact fun t => (ih _).trans (hput t _)
  have hroom : ∀ t : State, t.uhlRoom.mgmt.commits = t.mgmt.commits := fun t => by
    unfold State.uhlRoom
    extract_lets i sec used log gone keep t1 t2
    split
    · rfl
    · have h1 : t1.mgmt = t.mgmt := by
        simp only [t1]
        rw [(State.event_within _ _ _ _).mgmt (by decide), (t.flashErase_within _ _).mgmt (by decide)]
      exact (hfold _ _).trans (congrArg Mgmt.commits h1)
  unfold State.escRecord
  split
  · rfl
  · exact (hput _ _).trans (hroom s)

theorem State.escalate_commits (cause : Nat) : (s.escalate cause).mgmt.commits = s.mgmt.commits := by
  unfold State.escalate
  split
  · rfl
  · extract_lets t0 t1
    have h1 : t1.mgmt.commits = s.mgmt.commits := State.escRecord_commits _ 4 cause
    clear_value t1
    split
    · exact h1
    · exact h1

theorem State.commitFault_commits (bad : Bool) : (s.commitFault bad).mgmt.commits = s.mgmt.commits := by
  unfold State.commitFault
  split
  · rw [State.escalate_commits, (s.setErr_within _ _).mgmt (by decide)]
  · rfl

include hA

theorem State.escalate_calm_high (cause : Nat) : s.Calm A (s.escalate cause) := by
  have hlow : ∀ a, a < 0x100000 → ¬ A a := fun a ha hA' => absurd (hA a hA').1 (by omega)
  have hlog : ∀ o, o < 0x110 → o ≠ 0x100 → ¬ A (Page.uhl.base + o) := fun o ho _ => hlow _ (by
    simp only [Page.base]
    omega)
  unfold State.escalate
  refine .ite (.refl s) ?_
  extract_lets t0 t1
  have h0 : s.Calm A t0 := s.setReg_calm _ _ _ (hlow _ (by decide))
  have h1 : s.Calm A t1 := (h0.trans (t0.setReg_calm .smb 0x108 _ (hlow _ (by decide)))).trans
    (.ite (.refl _) (State.uhlWrite_calm_off _ hlog _))
  exact .ite h1 (h1.trans ((t1.setMgmt_within _).calm (by decide) (by decide)))

theorem State.commitFault_calm (bad : Bool) : s.Calm A (s.commitFault bad) :=
  .ite ((s.setErr_calm .scl 3 (fun h => (hA _ h).2 (by decide)) (fun h => (hA _ h).2 (by decide))).trans
    (State.escalate_calm_high hA _ _)) (.refl s)

omit hA

/-! ### The Scale and Norm entries of a layer (R373) -/

theorem State.WritesMem.marking {s t : State} (h : s.WritesMem t) : t.mem.marking = s.mem.marking := by
  rw [State.WritesMem] at h
  rw [h]

theorem State.WritesMem.foldl_fst {α β : Type} {f : State × β → α → State × β} (h : ∀ (a : State × β) (x : α), a.1.WritesMem (f a x).1)
    (xs : List α) (a : State × β) : a.1.WritesMem (xs.foldl f a).1 := by
  induction xs generalizing a with
  | nil => exact .refl a.1
  | cons x xs ih => exact (h a x).trans (ih _)

theorem State.scaleUpdate_writes (j i : Nat) : s.WritesMem (s.scaleUpdate j i) := by
  unfold State.scaleUpdate
  extract_lets o cfg st cleared hist v e st'
  split
  · exact (s.winWrite_writes _ _).trans (State.setWinWord_writes _ _ _)
  · exact s.setWinWord_writes _ _

theorem State.scaleCommit_writes (j : Nat) (sel : Nat → Bool) : s.WritesMem (s.scaleCommit j sel).1 := by
  refine State.WritesMem.foldl_fst (fun a i => ?_) _ (s, false)
  extract_lets o
  split
  · exact .refl _
  · split
    · exact .refl _
    · split
      · exact .refl _
      · exact a.1.scaleUpdate_writes j i

theorem State.clearBlock_writes (o : Nat) : s.WritesMem (s.clearBlock o) :=
  (s.winWrite_writes _ _).trans (State.setWinWord_writes _ _ _)

theorem State.normCommit_writes (j : Nat) (sel : Nat → Bool) : s.WritesMem (s.normCommit j sel).1 := by
  refine State.WritesMem.foldl_fst (fun a i => ?_) _ (s, false)
  extract_lets s o b t
  have ht : s.WritesMem t := by
    simp only [t]
    split
    · exact (s.setWinWord_writes _ _).trans (State.setWinWord_writes _ _ _)
    · exact .refl s
  split
  · exact .refl _
  · split
    · exact .refl _
    · split
      · exact .refl _
      · exact ht.trans (t.clearBlock_writes b)

/-- What an update of a layer leaves as it was. -/
abbrev State.LayerKept (s t : State) (j : Nat) : Prop :=
  (∃ f, t.slot j = { s.slot j with folded := f }) ∧ t.mem.marking = s.mem.marking ∧ t.mgmt.commits = s.mgmt.commits ∧ t.tallies = s.tallies

theorem State.layerUpdate_kept (j : Nat) (sel : Nat → Bool) : s.LayerKept (s.layerUpdate j sel) j := by
  unfold State.layerUpdate
  split
  · exact ⟨⟨(s.slot j).folded, rfl⟩, rfl, rfl, rfl⟩
  extract_lets live k t a b
  have ht : t.slot j = { s.slot j with folded := live.foldl (fun m i => NatSet.add i m) k.folded } := s.slot_setSlot_same j _
  have htm : t.mem = s.mem ∧ t.mgmt = s.mgmt ∧ t.tallies = s.tallies := ⟨rfl, rfl, rfl⟩
  clear_value t
  have ha : t.WritesMem a.1 := t.scaleCommit_writes j sel
  clear_value a
  have hb : t.WritesMem b.1 := ha.trans (a.1.normCommit_writes j sel)
  clear_value b
  have hf := b.1.commitFault_within (a.2 || b.2)
  refine ⟨⟨live.foldl (fun m i => NatSet.add i m) k.folded, ?_⟩, ?_, ?_, ?_⟩
  · rw [hf.slotsAs (by decide) j, hb.within.slotsAs (by decide) j, ht]
  · rw [hf.mem (by decide), hb.marking, htm.1]
  · rw [State.commitFault_commits, hb.within.mgmt (by decide), htm.2.1]
  · rw [hf.tallies (by decide), hb.within.tallies (by decide), htm.2.2]

theorem State.layerUpdate_calm (hA : offTables A) (j : Nat) (sel : Nat → Bool) : s.Calm A (s.layerUpdate j sel) := by
  unfold State.layerUpdate
  refine .ite (.refl s) ?_
  extract_lets live k t a b
  have ht : s.Calm A t := .of_io rfl rfl
  clear_value t
  have ha : t.Calm A a.1 := (t.scaleCommit_writes j sel).within.calm (by decide) (by decide)
  clear_value a
  have hb : a.1.Calm A b.1 := (a.1.normCommit_writes j sel).within.calm (by decide) (by decide)
  clear_value b
  exact ((ht.trans ha).trans hb).trans (b.1.commitFault_calm hA _)

end

/-! ### LAYER (R373) -/

/-- The first LAYER of slot `j`, whose state was `k`, moves the slot into COMMIT. -/
def State.layerOpened (t : State) (j : Nat) (k : StepSlot) (now : W64) : State :=
  if k.st = .commit then t
  else
    let u := t.setSlot j ({ k with st := .commit, layers := [0xFFF] }.stamp 7 now)
    { u with mem := { u.mem with marking := true } }.layerUpdate j fun x => x == 0xFFF

/-- Layer `l` is noted and updated. -/
def State.layerDone (t : State) (j l : Nat) : State :=
  (t.setSlot j { t.slot j with layers := NatSet.add l (t.slot j).layers }).layerUpdate j fun x => x == l

theorem State.layerOpened_opens (t : State) {j : Nat} {k : StepSlot} (now : W64) (hk : t.slot j = k) (hst : k.st = .seal ∨ k.st = .commit) :
    t.Calm tlyAddr (t.layerOpened j k now) ∧ (t.layerOpened j k now).tallies = t.tallies ∧ ((t.layerOpened j k now).slot j).st = .commit ∧
    (k.st = .seal → ((t.layerOpened j k now).slot j).layers = [0xFFF] ∧ (t.layerOpened j k now).mem.marking = true) := by
  unfold State.layerOpened
  split
  · next hcommit => exact ⟨.refl t, rfl, hk ▸ hcommit, fun h => absurd (hcommit.symm.trans h) (by decide)⟩
  · dsimp only
    generalize hk1 : StepSlot.stamp _ 7 now = k1
    have hk1' : k1.st = .commit ∧ k1.layers = [0xFFF] := by
      rw [← hk1]
      exact ⟨rfl, rfl⟩
    have hslot := t.slot_setSlot_same j k1
    have hcalm : t.Calm tlyAddr (t.setSlot j k1) := .of_io rfl rfl
    have htal : (t.setSlot j k1).tallies = t.tallies := rfl
    generalize t.setSlot j k1 = u at hslot hcalm htal ⊢
    obtain ⟨⟨f, hf⟩, hm, _, ht⟩ := State.layerUpdate_kept { u with mem := { u.mem with marking := true } } j fun x => x == 0xFFF
    have hc := State.layerUpdate_calm { u with mem := { u.mem with marking := true } } offTables_tlyAddr j fun x => x == 0xFFF
    have hu : State.slot { u with mem := { u.mem with marking := true } } j = k1 := hslot
    rw [hu] at hf
    refine ⟨(hcalm.trans (.of_io rfl rfl)).trans hc, ht.trans htal, ?_, fun _ => ⟨?_, hm⟩⟩
    · rw [hf]
      exact hk1'.1
    · rw [hf]
      exact hk1'.2

theorem State.layerDone_updates (t : State) (j l : Nat) : t.Calm tlyAddr (t.layerDone j l) ∧ (t.layerDone j l).tallies = t.tallies ∧
    ((t.layerDone j l).slot j).st = (t.slot j).st ∧ ((t.layerDone j l).slot j).layers = NatSet.add l (t.slot j).layers ∧
    (t.layerDone j l).mem.marking = t.mem.marking := by
  unfold State.layerDone
  have hslot := t.slot_setSlot_same j { t.slot j with layers := NatSet.add l (t.slot j).layers }
  have hcalm : t.Calm tlyAddr (t.setSlot j { t.slot j with layers := NatSet.add l (t.slot j).layers }) := .of_io rfl rfl
  have htal : (t.setSlot j { t.slot j with layers := NatSet.add l (t.slot j).layers }).tallies = t.tallies := rfl
  have hmem : (t.setSlot j { t.slot j with layers := NatSet.add l (t.slot j).layers }).mem = t.mem := rfl
  generalize t.setSlot j { t.slot j with layers := NatSet.add l (t.slot j).layers } = u at hslot hcalm htal hmem ⊢
  obtain ⟨⟨f, hf⟩, hm, _, ht⟩ := u.layerUpdate_kept j fun x => x == l
  rw [hslot] at hf
  exact ⟨hcalm.trans (u.layerUpdate_calm offTables_tlyAddr j _), ht.trans htal, by rw [hf], by rw [hf],
    hm.trans (congrArg Mem.marking hmem)⟩

section
variable {s : State} {d : Desc} {rest : List Desc} (hq : s.stepm.q = d :: rest) (hwhy : s.sdReason d = 0)
  (haction : sdAction d.words = 6) (hst : (s.slot (sdSlot d.words)).st = .seal ∨ (s.slot (sdSlot d.words)).st = .commit)
include hq hwhy haction hst

theorem State.stepLayer_taken : exec .stepLayer s = .next (
    if !(s.slot (sdSlot d.words)).pastCommit || !(s.flag .oxb 0x144 31) then s.stepWait
    else ((s.stepPop.layerOpened (sdSlot d.words) (s.slot (sdSlot d.words)) s.refcnt).layerDone (sdSlot d.words)
      (wfld d.words 2 11 0)).stepTally d) := by
  have hexec : exec .stepLayer s = execStepLayer s := rfl
  have hok : ((s.slot (sdSlot d.words)).st == .seal || (s.slot (sdSlot d.words)).st == .commit) = true := by
    rcases hst with h | h
    · rw [h]
      rfl
    · rw [h]
      rfl
  rw [hexec, execStepLayer, State.stepTakeIn_of_head hq hwhy haction, if_pos hok] <;> rfl

theorem State.stepLayer_waits (h : (s.slot (sdSlot d.words)).pastCommit = false ∨ s.flag .oxb 0x144 31 = false) :
    exec .stepLayer s = .next s.stepWait := by
  rw [State.stepLayer_taken hq hwhy haction hst, if_pos]
  rcases h with h | h
  · rw [h]
    rfl
  · rw [h]
    exact Bool.or_true _

theorem State.stepLayer_updates (hpast : (s.slot (sdSlot d.words)).pastCommit = true) (hinit : s.flag .oxb 0x144 31 = true) :
    ∃ t, exec .stepLayer s = .next t ∧ (t.slot (sdSlot d.words)).st = .commit ∧
      (t.slot (sdSlot d.words)).layers.has (wfld d.words 2 11 0) = true ∧
      ((s.slot (sdSlot d.words)).st = .seal → (t.slot (sdSlot d.words)).layers.has 0xFFF = true ∧ t.mem.marking = true) ∧
      t.tallies = (s.stepTally d).tallies := by
  have hexec := State.stepLayer_taken hq hwhy haction hst
  rw [hpast, hinit, if_neg (by decide)] at hexec
  refine ⟨_, hexec, ?_⟩
  clear hexec
  generalize sdSlot d.words = j at hst ⊢
  generalize wfld d.words 2 11 0 = l
  have htly : ∀ a, tlyAddr a → bodyAddr a := fun a h => by
    unfold tlyAddr at h
    unfold bodyAddr
    omega
  have hc1 : s.Calm tlyAddr s.stepPop := s.stepPop_keepsRegs.mono htly
  have ht1 : s.stepPop.tallies = s.tallies := s.stepPop_within.tallies (by decide)
  obtain ⟨hc2, ht2, hs2, hl2⟩ := s.stepPop.layerOpened_opens s.refcnt (s.stepPop_slots j) hst
  generalize s.stepPop.layerOpened j (s.slot j) s.refcnt = u at hc2 ht2 hs2 hl2 ⊢
  obtain ⟨hc3, ht3, hs3, hl3, hm3⟩ := u.layerDone_updates j l
  generalize u.layerDone j l = v at hc3 ht3 hs3 hl3 hm3 ⊢
  have hm4 : (v.stepTally d).mem = v.mem := (v.opTally_within _ _).mem (by decide)
  rw [v.stepTally_slots d j, hs3, hl3, hm4, hm3]
  refine ⟨hs2, ?_, fun hseal => ⟨?_, (hl2 hseal).2⟩, State.stepTally_congr ((hc1.trans hc2).trans hc3) (ht3.trans (ht2.trans ht1)) d⟩
  · exact (NatSet.has_add _ _ _).trans (by simp)
  · refine (NatSet.has_add _ _ _).trans ?_
    rw [(hl2 hseal).1]
    exact Bool.or_true _

end

end Sys2Proof.Machine
end

section
/-! PROOF. The commit of a step and the end of an aborted one (R374, R382). -/
namespace Sys2Proof.Machine

section
variable {A : Nat → Prop} (s : State)

/-! ### The cursors (R362, R386) -/

theorem cursAddr_cursor {c : Nat} (hc : c < 8) : cursAddr (Page.hdw.base + (0x110 + 8 * c)) ∧
    cursAddr (Page.hdw.base + (0x110 + 8 * c + 4)) := by
  simp only [cursAddr, Page.base]
  omega

theorem State.Calm.cursor {s t : State} (h : s.Calm cursAddr t) {c : Nat} (hc : c < 8) : t.cursor c = s.cursor c := by
  unfold State.cursor State.reg64
  rw [h.reg (cursAddr_cursor hc).1, h.reg (cursAddr_cursor hc).2]

theorem State.cursor_setReg64 (c : Nat) (v : W64) : (s.setReg64 .hdw (0x110 + 8 * c) v).cursor c = v.toNat := by
  rw [State.cursor, State.reg64_setReg64]

theorem State.cursor_setReg64_other {c e : Nat} (h : e ≠ c) (v : W64) :
    (s.setReg64 .hdw (0x110 + 8 * c) v).cursor e = s.cursor e := by
  have hcalm : s.Calm (fun a => a = Page.hdw.base + (0x110 + 8 * e) ∨ a = Page.hdw.base + (0x110 + 8 * e + 4))
      (s.setReg64 .hdw (0x110 + 8 * c) v) :=
    (s.setReg_calm _ _ _ (by omega)).trans (State.setReg_calm _ _ _ _ (by omega))
  unfold State.cursor State.reg64
  rw [hcalm.reg (.inl rfl), hcalm.reg (.inr rfl)]

/-- A cursor that is set among others is the last thing written to it. -/
theorem State.foldl_setCursor {cs : List Nat} (hcs : cs.Nodup) (f : Nat → W64) (c : Nat) (t : State) :
    (cs.foldl (fun t c => t.setReg64 .hdw (0x110 + 8 * c) (f c)) t).cursor c = if c ∈ cs then (f c).toNat else t.cursor c := by
  induction cs generalizing t with
  | nil => rfl
  | cons e cs ih =>
    obtain ⟨hnot, hrest⟩ := List.nodup_cons.mp hcs
    rw [List.foldl_cons, ih hrest]
    by_cases hc : c = e
    · subst hc
      rw [if_neg hnot, if_pos List.mem_cons_self, State.cursor_setReg64]
    · rw [State.cursor_setReg64_other _ hc]
      simp only [List.mem_cons, hc, false_or]

theorem State.cursorsAdvance_cursor (k : StepSlot) {c : Nat} (hc : c < 8) :
    (s.cursorsAdvance k).cursor c = (s.cursor c + k.advanceOf c) % 2 ^ 64 := by
  rw [State.cursorsAdvance, State.foldl_setCursor List.nodup_range (fun c => w64 (s.cursor c + k.advanceOf c)),
    if_pos (List.mem_range.mpr hc), w64, BitVec.toNat_ofNat]

theorem State.cursorsAdvance_calm (hA : ∀ o, 0x110 ≤ o → o < 0x150 → ¬ A (Page.hdw.base + o)) (k : StepSlot) :
    s.Calm A (s.cursorsAdvance k) :=
  .foldl _ (fun t c hc => by
    have hc := List.mem_range.mp hc
    exact (t.setReg_calm _ _ _ (hA _ (by omega) (by omega))).trans (State.setReg_calm _ _ _ _ (hA _ (by omega) (by omega)))) s

/-! ### The noise estimate and the expert counts (R338, R348) -/

theorem State.Calm.foldl_fst {α β : Type} {f : State × β → α → State × β} (h : ∀ (a : State × β) (x : α), a.1.Calm A (f a x).1)
    (xs : List α) (a : State × β) : a.1.Calm A (xs.foldl f a).1 := by
  induction xs generalizing a with
  | nil => exact .refl a.1
  | cons x xs ih => exact (h a x).trans (ih _)

theorem State.noiseCommit_calm (hnse : ∀ o, o < 0x1000 → ¬ A (Page.nse.base + o)) (j : Nat) (tok : Nat → Nat) (linked : Nat → Bool) :
    s.Calm A (s.noiseCommit j tok linked).1 := by
  have hset : ∀ (t : State) (o : Nat) (v : W32), o < 0x1000 → t.Calm A (t.setReg .nse o v) := fun t o v ho => t.setReg_calm _ _ _ (hnse o ho)
  have hclear : ∀ (t : State) (b : Nat), t.Calm A (t.clearBlock b) := fun t b =>
    (t.clearBlock_writes b).within.calm (by decide) (by decide)
  unfold State.noiseCommit
  extract_lets x count
  have hcount : ∀ (t : State) off code, off < 0x1000 → t.Calm A (count t off code) := fun t off _ hoff => hset t off _ hoff
  have hx : s.Calm A x.1 := by
    simp only [x]
    refine (hset s 0x10C 0 (by decide)).trans (State.Calm.foldl_fst (fun a i => ?_) _ (s.setReg .nse 0x10C 0, false))
    split
    · exact .refl _
    · split
      · split
        · exact .refl _
        · exact hclear _ _
      · split
        · exact .refl _
        · refine State.Calm.trans (.ite (hset _ _ _ (by decide)) ?_) (hclear _ _)
          exact ((a.1.noiseEntry_within _ _ _).calm (by decide) (by decide)).trans
            (State.event_calm _ _ _ _ fun o _ ho => hnse o (ho.trans (by decide)))
  clear_value x count
  exact ((hx.trans (hcount _ _ _ (by decide))).trans (hcount _ _ _ (by decide))).trans (hcount _ _ _ (by decide))

/-! ### What the mirror and the digest make of a commit (R377, R465) -/

theorem State.settleFrame_writes (f : Nat) : s.WritesMem (s.settleFrame f) := by
  unfold State.settleFrame
  generalize List.filter _ _ = gs
  exact .foldl (fun t g => t.settle_writes g) gs s

theorem State.mirrorCommit_marking (step : W32) : (s.mirrorCommit step).mem.marking = false := by
  have htag : ∀ (t : State) m a b v, (t.setTag m a b v).mem.marking = t.mem.marking := fun t m a b v => by
    unfold State.setTag
    split
    · rfl
    · exact (t.winWrite_writes _ _).marking
  have hpend : ∀ (t : State) m, (t.pendPage step m).mem.marking = t.mem.marking := fun t m => by
    unfold State.pendPage
    split
    · rfl
    · next f _ =>
      extract_lets u
      have hu : u.mem.marking = t.mem.marking := by
        simp only [u]
        exact (t.settleFrame_writes f).marking
      clear_value u
      exact (htag _ _ _ _ _).trans hu
  have hfold : ∀ {f : State → Nat → State}, (∀ t m, (f t m).mem.marking = t.mem.marking) → ∀ (ms : List Nat) (t : State),
      (ms.foldl f t).mem.marking = t.mem.marking := fun {f} hf ms => by
    induction ms with
    | nil => exact fun _ => rfl
    | cons m ms ih => exact fun t => (ih _).trans (hf t m)
  unfold State.mirrorCommit
  extract_lets ms _ t
  have ht : t.mem.marking = false := rfl
  clear_value t
  rw [(State.fresh_within _).mem (by decide)]
  split
  · exact (hfold (fun t m => hpend t m) _ t).trans ht
  · exact (hfold (fun t m => htag t m _ _ _) _ t).trans ht

theorem State.ownFault_calm (hpmap : ∀ o, o < 0x1000 → ¬ A (Page.pmap.base + o)) (inst a n : Nat) : s.Calm A (s.ownFault inst a n) := by
  unfold State.ownFault
  split
  · next r x _ =>
    unfold State.stepXlate State.recordXlate
    extract_lets t
    have ht : s.Calm A t := .ite (.refl s) (((s.setReg_calm _ _ _ (hpmap _ (by decide))).trans
      (State.setReg_calm _ _ _ _ (hpmap _ (by decide)))).trans (State.setReg_calm _ _ _ _ (hpmap _ (by decide))))
    exact ht.trans (t.setErr_calm _ _ (hpmap _ (by decide)) (hpmap _ (by decide)))
  · exact .refl s

theorem State.digAtCommit_calm (hpmap : ∀ o, o < 0x1000 → ¬ A (Page.pmap.base + o)) (hchk : ∀ o, o < 0x1000 → ¬ A (Page.chkG.base + o))
    (step : W32) : s.Calm A (s.digAtCommit step) := by
  unfold State.digAtCommit
  extract_lets n
  refine .ite (.refl s) ?_
  unfold State.digStart
  refine .ite (.refl s) ?_
  extract_lets runs x t
  have ht : s.Calm A t := State.Calm.trans (.ite (s.ownFault_calm hpmap _ _ _) (.refl s))
    (.foldl _ (fun t r _ => t.ownFault_calm hpmap _ _ _) _)
  clear_value t x
  exact (State.Calm.trans (ht.trans (.of_io rfl rfl)) (State.setReg_calm _ _ _ _ (hchk _ (by decide)))).trans (.of_io rfl rfl)

/-! ### Slots that are closed -/

theorem State.applyBatch_marking (b : Batch) : (s.applyBatch b).mem.marking = s.mem.marking := by
  have hfold : ∀ (rs : List (Nat × W64)) (t : State),
      (rs.foldl (fun t r => ((t.setPmap r.1 r.2).setSpill r.1 r.2).event .pmap 0x03 1) t).mem.marking = t.mem.marking := fun rs => by
    induction rs with
    | nil => exact fun _ => rfl
    | cons r rs ih =>
      intro t
      refine (ih _).trans ?_
      dsimp only
      rw [(State.event_within _ _ _ _).mem (by decide), (State.setSpill_writes _ _ _).marking]
      rfl
  unfold State.applyBatch
  extract_lets t
  have ht : t.mem.marking = s.mem.marking := hfold _ s
  clear_value t
  rw [(State.event_within _ _ _ _).mem (by decide)]
  exact ht

theorem State.closeSlot_keeps (j : Nat) : s.within [.io, .stepm, .mem] (s.closeSlot j) ∧ (s.closeSlot j).mem.marking = s.mem.marking ∧
    (s.mem.batch = none → (s.closeSlot j).mem = s.mem) := by
  rw [s.closeSlot_eq]
  have hw := s.closeCounts_within j
  generalize s.closeCounts j = u at hw
  have hm : (u.setSlot j {}).mem = s.mem := hw.mem (by decide)
  have hu : s.within [.io, .stepm, .mem] (u.setSlot j {}) := (hw.mono (by decide)).trans rfl
  generalize u.setSlot j {} = v at hu hm
  refine ⟨hu.then (by decide) v.batchAtClosed_within, ?_, fun hb => ?_⟩
  · rw [← hm]
    unfold State.batchAtClosed
    split
    · split
      · exact v.applyBatch_marking _
      · rfl
    · rfl
  · rw [← hm] at hb
    unfold State.batchAtClosed
    rw [hb]
    exact hm

theorem State.closeDone_keeps (j : Nat) : s.within [.io, .stepm, .mem] (s.closeDone j) ∧ (s.closeDone j).mem.marking = s.mem.marking := by
  unfold State.closeDone
  split
  · exact ⟨(s.closeSlot_keeps j).1, (s.closeSlot_keeps j).2.1⟩
  · exact ⟨.refl s _, rfl⟩

theorem State.mirrorClose_keeps : s.within [.io, .stepm, .mem] s.mirrorClose ∧ s.mirrorClose.mem.marking = s.mem.marking := by
  rw [s.mirrorClose_eq]
  obtain ⟨h1, h2⟩ := s.closeDone_keeps 0
  obtain ⟨k1, k2⟩ := (s.closeDone 0).closeDone_keeps 1
  exact ⟨h1.trans k1, k2.trans h2⟩

theorem not_cursAddr {p : Page} (hp : p ∈ [Page.nse, .pmap, .chkG, .tly]) {o : Nat} (ho : o < 0x1000) : ¬ cursAddr (p.base + o) := by
  fin_cases hp <;>
    · simp only [cursAddr, Page.base]
      omega

end

/-! ### COMMIT_END (R374) -/

/-- The tables of a commit: the layers without a LAYER, the noise estimate, the expert counts. -/
def State.commitTables (t : State) (j : Nat) (k : StepSlot) : State :=
  let t := t.layerUpdate j fun x => !(k.layers.has x)
  let f := (t.slot j).folded
  let n := if t.windowOk then t.noiseCommit j (mbTokens k.toks) f.has else (t, false)
  let x := n.1.expertCommit j
  x.1.commitFault (n.2 || x.2)

theorem State.commitTables_keeps (t : State) (j : Nat) (k : StepSlot) : t.Calm cursAddr (t.commitTables j k) ∧
    (t.commitTables j k).mgmt.commits = t.mgmt.commits := by
  unfold State.commitTables
  extract_lets t1 f n x
  have h1 : t.Calm cursAddr t1 := t.layerUpdate_calm offTables_cursAddr j _
  obtain ⟨-, -, h1c, -⟩ := t.layerUpdate_kept j fun x => !(k.layers.has x)
  have h1c : t1.mgmt.commits = t.mgmt.commits := h1c
  clear_value t1
  have h2 : t1.Calm cursAddr n.1 ∧ n.1.mgmt = t1.mgmt := by
    simp only [n]
    split
    · exact ⟨t1.noiseCommit_calm (fun o ho => not_cursAddr (by decide) ho) _ _ _, (t1.noiseCommit_within _ _ _).mgmt (by decide)⟩
    · exact ⟨.refl t1, rfl⟩
  clear_value n
  have h3 : n.1.within [.mem] x.1 := n.1.expertCommit_within j
  clear_value x
  refine ⟨((h1.trans h2.1).trans (h3.calm (by decide) (by decide))).trans (State.commitFault_calm offTables_cursAddr _ _), ?_⟩
  rw [State.commitFault_commits, h3.mgmt (by decide), h2.2, h1c]

/-- What follows once the cursors stand: the step is committed, its pages go to the mirror. -/
def State.committed (t : State) (j : Nat) (k : StepSlot) (now : W64) (d : Desc) : State :=
  let t := ((t.setReg .step 0x10C k.step).pendingDrop j).accClear j
  let t := t.setSlot j ({ t.slot j with st := .mirror }.stamp 8 now)
  let t := (({ t with mgmt := { t.mgmt with commits := t.mgmt.commits + 1 } }.event .step 0x02 1).mirrorCommit k.step).digAtCommit k.step
  (t.stepTally d).mirrorClose

theorem State.execCommitEnd_eq (s : State) : execCommitEnd s = .next (s.stepTakeIn 7 (fun k => k.st == .commit) fun d j k =>
    if s.mirrorWait then s else ((s.stepPop.commitTables j k).cursorsAdvance k).committed j k s.refcnt d) := by
  unfold execCommitEnd State.committed State.commitTables
  dsimp only

theorem State.committed_commits (t : State) {j : Nat} (hj : j < 2) (k : StepSlot) (now : W64) (d : Desc) :
    (((t.committed j k now d).slot j).st = .mirror ∨ ((t.committed j k now d).slot j).st = .free) ∧
    (t.committed j k now d).reg .step 0x10C = k.step ∧ (∀ c < 8, (t.committed j k now d).cursor c = t.cursor c) ∧
    (t.committed j k now d).mem.marking = false ∧ (t.committed j k now d).mgmt.commits = t.mgmt.commits + 1 := by
  unfold State.committed
  have hreg : (t.setReg .step 0x10C k.step).reg .step 0x10C = k.step := t.reg_setReg_same _ _ _
  have hcur : ∀ c < 8, (t.setReg .step 0x10C k.step).cursor c = t.cursor c := fun c hc => by
    have hcalm : t.Calm (fun a => cursAddr a ∧ a ≠ 0x80010C) (t.setReg .step 0x10C k.step) := t.setReg_calm _ _ _ (by decide)
    unfold State.cursor State.reg64
    rw [hcalm.reg ⟨(cursAddr_cursor hc).1, by simp only [Page.base]; omega⟩,
      hcalm.reg ⟨(cursAddr_cursor hc).2, by simp only [Page.base]; omega⟩]
  have hmg : (t.setReg .step 0x10C k.step).mgmt = t.mgmt := rfl
  generalize t.setReg .step 0x10C k.step = u at hreg hcur hmg ⊢
  extract_lets t1 _ t2 _ t3
  have h1 : u.Calm cursAddr t1 ∧ t1.mgmt = u.mgmt :=
    ⟨((u.pendingDrop_within j).calm (by decide) (by decide)).trans (State.accClear_calm _ offClose_cursAddr.2.2 hj), by
      simp only [t1]
      rw [(State.accClear_within _ _).mgmt (by decide), (u.pendingDrop_within j).mgmt (by decide)]⟩
  clear_value t1
  have h2 : t1.Calm cursAddr t2 ∧ t2.mgmt = t1.mgmt ∧ (t2.slot j).st = .mirror :=
    ⟨.of_io rfl rfl, rfl, congrArg StepSlot.st (t1.slot_setSlot_same j _)⟩
  clear_value t2
  have h3 : t2.Calm cursAddr t3 ∧ t3.mgmt.commits = t2.mgmt.commits + 1 ∧ (t3.slot j).st = .mirror ∧ t3.mem.marking = false := by
    have hw : State.within { t2 with mgmt := { t2.mgmt with commits := t2.mgmt.commits + 1 } } [.io]
        (State.event { t2 with mgmt := { t2.mgmt with commits := t2.mgmt.commits + 1 } } .step 0x02 1) := State.event_within _ _ _ _
    have hc : State.Calm cursAddr { t2 with mgmt := { t2.mgmt with commits := t2.mgmt.commits + 1 } }
        (State.event { t2 with mgmt := { t2.mgmt with commits := t2.mgmt.commits + 1 } } .step 0x02 1) :=
      (State.event_keepsRegs _ _ _ _).mono bodyAddr_of_cursAddr
    have hslot : (State.event { t2 with mgmt := { t2.mgmt with commits := t2.mgmt.commits + 1 } } .step 0x02 1).slot j = t2.slot j :=
      hw.slotsAs (by decide) j
    simp only [t3]
    generalize State.event { t2 with mgmt := { t2.mgmt with commits := t2.mgmt.commits + 1 } } .step 0x02 1 = v at hw hc hslot
    have hm := v.mirrorCommit_within k.step
    have hmk := v.mirrorCommit_marking k.step
    generalize v.mirrorCommit k.step = w at hm hmk
    have hd := w.digAtCommit_within k.step
    refine ⟨((State.Calm.trans (.of_io rfl rfl) hc).trans (hm.calm (by decide) (by decide))).trans (w.digAtCommit_calm
      (fun o ho => not_cursAddr (by decide) ho) (fun o ho => not_cursAddr (by decide) ho) _), ?_, ?_, ?_⟩
    · rw [hd.mgmt (by decide), hm.mgmt (by decide), hw.mgmt (by decide)]
    · rw [hd.slotsAs (by decide) j, hm.slotsAs (by decide) j, hslot, h2.2.2]
    · rw [hd.mem (by decide), hmk]
  clear_value t3
  have h4w := t3.opTally_within (sdTally d.words) d.ctx
  have h4 : t3.Calm cursAddr (t3.stepTally d) := t3.opTally_calm (fun o ho => not_cursAddr (by decide) ho) _ _
  have h4s : (t3.stepTally d).slot j = t3.slot j := t3.stepTally_slots d j
  have h4m : (t3.stepTally d).mem = t3.mem := h4w.mem (by decide)
  have h4g : (t3.stepTally d).mgmt = t3.mgmt := h4w.mgmt (by decide)
  generalize t3.stepTally d = t4 at h4 h4s h4m h4g ⊢
  obtain ⟨-, h5, -⟩ := t4.mirrorClose_frees offClose_cursAddr
  obtain ⟨h5w, h5m⟩ := t4.mirrorClose_keeps
  have hall := (((h1.1.trans h2.1).trans h3.1).trans h4).trans h5
  refine ⟨?_, ?_, fun c hc => ?_, ?_, ?_⟩
  · rcases t4.mirrorClose_closes j with h | ⟨_, h⟩
    · left
      rw [h, h4s, h3.2.2.1]
    · right
      rw [h]
  · rw [hall.reg (by decide), hreg]
  · rw [hall.cursor hc, hcur c hc]
  · rw [h5m, h4m, h3.2.2.2]
  · rw [h5w.mgmt (by decide), h4g, h3.2.1, h2.2.1, h1.2, hmg]

section
variable {s : State} {d : Desc} {rest : List Desc} (hq : s.stepm.q = d :: rest) (hwhy : s.sdReason d = 0)
include hq hwhy

theorem State.commitEnd_commits (haction : sdAction d.words = 7) (hst : (s.slot (sdSlot d.words)).st = .commit)
    (hwait : s.mirrorWait = false) : ∃ t, exec .commitEnd s = .next t ∧
      ((t.slot (sdSlot d.words)).st = .mirror ∨ (t.slot (sdSlot d.words)).st = .free) ∧
      t.reg .step 0x10C = (s.slot (sdSlot d.words)).step ∧
      (∀ c < 8, t.cursor c = (s.cursor c + (s.slot (sdSlot d.words)).advanceOf c) % 2 ^ 64) ∧ t.mem.marking = false ∧
      t.mgmt.commits = s.mgmt.commits + 1 := by
  have hexec : exec .commitEnd s = execCommitEnd s := rfl
  rw [State.execCommitEnd_eq, State.stepTakeIn_of_head hq hwhy haction, if_pos (by rw [hst]; rfl), hwait, if_neg (by decide)] at hexec
  have hj := sdSlot_lt d.words
  generalize sdSlot d.words = j at hexec hj ⊢
  generalize s.slot j = k at hexec ⊢
  refine ⟨_, hexec, ?_⟩
  have hp : s.Calm cursAddr s.stepPop := s.stepPop_keepsRegs.mono bodyAddr_of_cursAddr
  have hpc : s.stepPop.mgmt = s.mgmt := s.stepPop_within.mgmt (by decide)
  obtain ⟨ht, htc⟩ := s.stepPop.commitTables_keeps j k
  generalize s.stepPop.commitTables j k = u at ht htc ⊢
  have hc := u.cursorsAdvance_within k
  have hcur : ∀ c < 8, (u.cursorsAdvance k).cursor c = (u.cursor c + k.advanceOf c) % 2 ^ 64 := fun c => u.cursorsAdvance_cursor k
  generalize u.cursorsAdvance k = v at hc hcur ⊢
  obtain ⟨h1, h2, h3, h4, h5⟩ := v.committed_commits hj k s.refcnt d
  refine ⟨h1, h2, fun c hlt => ?_, h4, ?_⟩
  · rw [h3 c hlt, hcur c hlt, (hp.trans ht).cursor hlt]
  · rw [h5, hc.mgmt (by decide), htc, hpc]

end

end Sys2Proof.Machine
end

section
/-! PROOF. The end of an aborted step, the drain, and the registers of the step machinery (R382, R384, R386, R392). -/
namespace Sys2Proof.Machine

section
variable {A : Nat → Prop} (s : State)

/-! ### What an aborted step had under way (R453) -/

theorem State.finishTile_calm (htly : ∀ o, o < 0x1000 → ¬ A (Page.tly.base + o)) (n : Nat) (o : TileOp) : s.Calm A (s.finishTile n o) := by
  unfold State.finishTile
  extract_lets r t
  have ht : s.Calm A t := .of_io rfl rfl
  exact .ite (.of_io rfl rfl) (.ite (.of_io rfl rfl) (.ite ht (ht.trans (t.opTally_calm htly _ _))))

theorem State.checkRelease_calm (htly : ∀ o, o < 0x1000 → ¬ A (Page.tly.base + o))
    (hchk : ∀ n o, o < 0x110 → ¬ A ((Page.chk n).base + o)) (c : Check) : s.Calm A (s.checkRelease c) := by
  refine State.Calm.foldl _ (fun t o _ => ?_) s
  extract_lets o1 u
  have hu : t.Calm A u := .of_io rfl rfl
  exact .ite ((hu.trans (u.event_calm _ _ _ fun o _ ho => hchk _ o (ho.trans (by decide)))).trans (State.finishTile_calm _ htly _ _)) hu

theorem State.abandonSample_calm (htly : ∀ o, o < 0x1000 → ¬ A (Page.tly.base + o)) (hchk : ∀ n o, o < 0x110 → ¬ A ((Page.chk n).base + o))
    (hslot : ∀ j < 2, ¬ A (Page.chkG.base + (0x108 + 4 * j))) (c : Check) (hj : ∀ j, c.jslot = some j → j < 2) :
    s.Calm A (s.abandonSample c) := by
  unfold State.abandonSample State.abandonCheck
  extract_lets t
  have ht : s.Calm A t := .of_io rfl rfl
  clear_value t
  have h1 : t.Calm A (t.cairnPending c.jslot (-1)) := by
    unfold State.cairnPending
    split
    · exact .refl t
    · next i hi => exact t.setReg_calm _ _ _ (hslot i (hj i hi))
  generalize t.cairnPending c.jslot (-1) = u at h1
  have h2 : u.Calm A (u.addSat (.chk c.ridge) 0x108 1) := u.setReg_calm _ _ _ (hchk _ _ (by decide))
  exact ((((ht.trans h1).trans h2)).trans (State.event_calm _ _ _ _ fun o _ ho => hchk _ o (ho.trans (by decide)))).trans
    (State.checkRelease_calm _ htly hchk c)

theorem not_cursAddr_chk (n : Nat) {o : Nat} (ho : o < 0x110) : ¬ cursAddr ((Page.chk n).base + o) := by
  simp only [cursAddr, Page.base]
  omega

theorem State.voteTally_calm (htly : ∀ o, o < 0x1000 → ¬ A (Page.tly.base + o)) (j : Nat) : s.Calm A (s.voteTally j) := by
  unfold State.voteTally
  split
  · exact State.Calm.trans (.of_io rfl rfl) (State.opTally_calm _ htly _ _)
  · exact .refl s

theorem State.abortScrub_calm {j : Nat} (hj : j < 2) : s.Calm cursAddr (s.abortScrub j) := by
  have htly : ∀ o, o < 0x1000 → ¬ cursAddr (Page.tly.base + o) := fun o ho => not_cursAddr (by decide) ho
  unfold State.abortScrub
  extract_lets t
  have ht : s.Calm cursAddr t := State.Calm.trans (.of_io rfl rfl) (State.voteTally_calm _ htly j)
  clear_value t
  refine ht.trans (.foldl _ (fun u x hx => ?_) t)
  have hx := (List.mem_filter.mp hx).2
  refine u.abandonSample_calm htly (fun n o ho => not_cursAddr_chk n ho) (fun i hi => not_cursAddr (p := .chkG) (by decide) (by omega)) x
    fun i hi => ?_
  rw [hi] at hx
  rwa [Option.some.inj (beq_iff_eq.mp hx)]

/-- What can change as accesses, checks and a round end. -/
abbrev scrubAreas : List Area := .stepm :: checkAreas

theorem State.voteTally_within (j : Nat) : s.within scrubAreas (s.voteTally j) := by
  unfold State.voteTally
  split
  · next d _ =>
    have hs : s.within scrubAreas (s.setSlot j { s.slot j with act := none }) := rfl
    exact hs.trans ((State.opTally_within _ _ _).mono (by decide))
  · exact .refl s _

theorem State.abortScrub_within (j : Nat) : s.within scrubAreas (s.abortScrub j) := by
  unfold State.abortScrub
  extract_lets t
  have hu : s.within scrubAreas (s.unask fun a => a.slot == j && a.kind.ofStep) := rfl
  have ht : s.within scrubAreas t := hu.trans (State.voteTally_within _ j)
  clear_value t
  exact ht.trans (.foldl (fun u x => (u.abandonSample_within x).mono (by decide)) _ t)

/-! ### The end of an aborted step (R382) -/

/-- A slot that is closed frees its slot and leaves the cursors, the numbers and memory. -/
theorem State.closeTally_frees {j : Nat} (hj : j < 2) (d : Desc) : (((s.closeSlot j).stepTally d).slot j).st = .free ∧
    s.Calm cursAddr ((s.closeSlot j).stepTally d) ∧ (s.mem.batch = none → ((s.closeSlot j).stepTally d).mem = s.mem) := by
  obtain ⟨-, hc, hs⟩ := s.closeSlot_frees offClose_cursAddr hj
  obtain ⟨-, -, hm⟩ := s.closeSlot_keeps j
  generalize s.closeSlot j = t at hc hs hm ⊢
  have htm : (t.stepTally d).mem = t.mem := (t.opTally_within _ _).mem (by decide)
  refine ⟨?_, hc.trans (t.opTally_calm (fun o ho => not_cursAddr (by decide) ho) _ _), fun hb => htm.trans (hm hb)⟩
  rw [t.stepTally_slots d j, hs j hj, if_pos rfl]

theorem State.setReg_step_calm (o : Nat) (v : W32) :
    s.Calm (fun a => cursAddr a ∧ a ≠ Page.step.base + o) (s.setReg .step o v) :=
  s.setReg_calm _ _ _ fun ha => ha.2 rfl

end

section
variable {s : State} {d : Desc} {rest : List Desc} (hq : s.stepm.q = d :: rest) (hwhy : s.sdReason d = 0)
include hq hwhy

section
variable (haction : sdAction d.words = 8) (hst : (s.slot (sdSlot d.words)).st = .aborted)
include haction hst

theorem State.stepEndSkip_ends (hflag : sdFlag d.words = true) : ∃ t, exec .stepEndSkip s = .next t ∧
    (t.slot (sdSlot d.words)).st = .free ∧ t.reg .step 0x10C = (s.slot (sdSlot d.words)).step ∧
    (∀ c < 8, t.cursor c = (s.cursor c + (s.slot (sdSlot d.words)).advanceOf c) % 2 ^ 64) ∧
    t.reg .step 0x108 = s.reg .step 0x108 ∧ (s.mem.batch = none → t.mem.hbm = s.mem.hbm) := by
  have hexec : exec .stepEndSkip s = execStepEndSkip s := rfl
  rw [execStepEndSkip, State.stepTake_of_head hq hwhy, if_pos (by rw [haction, hflag]; rfl)] at hexec
  dsimp only at hexec
  rw [if_neg (fun h => h hst)] at hexec
  refine ⟨_, hexec, ?_⟩
  have hj := sdSlot_lt d.words
  generalize sdSlot d.words = j at hj ⊢
  generalize s.slot j = k
  have hp : s.Calm cursAddr s.stepPop := s.stepPop_keepsRegs.mono bodyAddr_of_cursAddr
  have hpm : s.stepPop.mem = s.mem := s.stepPop_within.mem (by decide)
  have hs := s.stepPop.abortScrub_calm hj
  have hsm : (s.stepPop.abortScrub j).mem = s.stepPop.mem := (s.stepPop.abortScrub_within j).mem (by decide)
  generalize s.stepPop.abortScrub j = u at hs hsm ⊢
  have hcur : ∀ c < 8, (u.cursorsAdvance k).cursor c = (u.cursor c + k.advanceOf c) % 2 ^ 64 := fun c => u.cursorsAdvance_cursor k
  have hcm : (u.cursorsAdvance k).mem = u.mem := (u.cursorsAdvance_within k).mem (by decide)
  have hcn : u.Calm (fun a => a = 0x800108) (u.cursorsAdvance k) := u.cursorsAdvance_calm (fun o ho h => by simp only [Page.base]; omega) k
  generalize u.cursorsAdvance k = v at hcur hcm hcn ⊢
  have hset := v.reg_setReg_same .step 0x10C k.step
  have hsetc := v.setReg_step_calm 0x10C k.step
  have hsetm : (v.setReg .step 0x10C k.step).mem = v.mem := rfl
  generalize v.setReg .step 0x10C k.step = w at hset hsetc hsetm ⊢
  obtain ⟨hfree, hclose, hmem⟩ := w.closeTally_frees hj d
  refine ⟨hfree, ?_, fun c hc => ?_, ?_, fun hb => ?_⟩
  · rw [hclose.reg (by decide), hset]
  · have hwc : w.cursor c = v.cursor c := by
      unfold State.cursor State.reg64
      rw [hsetc.reg ⟨(cursAddr_cursor hc).1, by simp only [Page.base]; omega⟩, hsetc.reg ⟨(cursAddr_cursor hc).2, by simp only [Page.base]; omega⟩]
    rw [hclose.cursor hc, hwc, hcur c hc, (hp.trans hs).cursor hc]
  · rw [hclose.reg (by decide), hsetc.reg ⟨by decide, by decide⟩, hcn.reg (by decide), (hp.trans hs).reg (by decide)]
  · have hall : w.mem = s.mem := hsetm.trans (hcm.trans (hsm.trans hpm))
    rw [hmem (by rw [hall, hb]), hall]

theorem State.stepEndDrop_ends (hflag : sdFlag d.words = false) : ∃ t, exec .stepEndDrop s = .next t ∧
    (t.slot (sdSlot d.words)).st = .free ∧ t.reg .step 0x108 = (s.slot (sdSlot d.words)).step ∧
    t.reg .step 0x10C = s.reg .step 0x10C ∧ (∀ c < 8, t.cursor c = s.cursor c) ∧ (s.mem.batch = none → t.mem.hbm = s.mem.hbm) := by
  have hexec : exec .stepEndDrop s = execStepEndDrop s := rfl
  rw [execStepEndDrop, State.stepTake_of_head hq hwhy, if_pos (by rw [haction, hflag]; rfl)] at hexec
  dsimp only at hexec
  rw [if_neg (fun h => h hst)] at hexec
  refine ⟨_, hexec, ?_⟩
  have hj := sdSlot_lt d.words
  generalize sdSlot d.words = j at hj ⊢
  generalize s.slot j = k
  have hp : s.Calm cursAddr s.stepPop := s.stepPop_keepsRegs.mono bodyAddr_of_cursAddr
  have hpm : s.stepPop.mem = s.mem := s.stepPop_within.mem (by decide)
  have hs := s.stepPop.abortScrub_calm hj
  have hsm : (s.stepPop.abortScrub j).mem = s.stepPop.mem := (s.stepPop.abortScrub_within j).mem (by decide)
  generalize s.stepPop.abortScrub j = v at hs hsm ⊢
  have hset := v.reg_setReg_same .step 0x108 k.step
  have hsetc := v.setReg_step_calm 0x108 k.step
  have hsetm : (v.setReg .step 0x108 k.step).mem = v.mem := rfl
  generalize v.setReg .step 0x108 k.step = w at hset hsetc hsetm ⊢
  obtain ⟨hfree, hclose, hmem⟩ := w.closeTally_frees hj d
  refine ⟨hfree, ?_, ?_, fun c hc => ?_, fun hb => ?_⟩
  · rw [hclose.reg (by decide), hset]
  · rw [hclose.reg (by decide), hsetc.reg ⟨by decide, by decide⟩, (hp.trans hs).reg (by decide)]
  · have hwc : w.cursor c = v.cursor c := by
      unfold State.cursor State.reg64
      rw [hsetc.reg ⟨(cursAddr_cursor hc).1, by simp only [Page.base]; omega⟩, hsetc.reg ⟨(cursAddr_cursor hc).2, by simp only [Page.base]; omega⟩]
    rw [hclose.cursor hc, hwc, (hp.trans hs).cursor hc]
  · have hall : w.mem = s.mem := hsetm.trans (hsm.trans hpm)
    rw [hmem (by rw [hall, hb]), hall]

end

/-- An ABORT action (R358). -/
theorem State.stepAbortAction_aborts (haction : sdAction d.words = 10) (habort : (s.slot (sdSlot d.words)).abortable = true) :
    ∃ t, exec .stepAbortAction s = .next t ∧ (t.slot (sdSlot d.words)).st = .aborted ∧
      t.field .step 0x12C 23 16 = 5 ∧ t.reg .step 0x108 = s.reg .step 0x108 ∧ t.reg .step 0x10C = s.reg .step 0x10C ∧
      t.stepm.draining = some (sdSlot d.words, (s.slot (sdSlot d.words)).ctx) := by
  have hexec : exec .stepAbortAction s = execStepAbortAction s := rfl
  rw [execStepAbortAction, State.stepTakeIn_of_head hq hwhy haction, if_pos habort] at hexec
  refine ⟨_, hexec, ?_⟩
  have hj := sdSlot_lt d.words
  generalize sdSlot d.words = j at hj ⊢
  have hp : s.Calm cursAddr s.stepPop := s.stepPop_keepsRegs.mono bodyAddr_of_cursAddr
  have hpj : s.stepPop.slot j = s.slot j := s.stepPop_slots j
  generalize s.stepPop = u at hp hpj ⊢
  obtain ⟨hst, hinfo, -⟩ := u.abortSlot_aborts hj (cause := 5) (by decide) 0 true
  obtain ⟨-, -, hdrain⟩ := u.abortSlot_shows hj 5 0 true
  have hnum := fun {o : Nat} => u.abortSlot_numbers hj 5 0 true (o := o)
  generalize u.abortSlot j 5 0 true = v at hst hinfo hdrain hnum ⊢
  have ht : v.Calm (fun a => a < 0x809000) (v.stepTally d) := v.opTally_calm (fun o _ => by simp only [Page.base]; omega) _ _
  have hts : (v.stepTally d).slot j = v.slot j := v.stepTally_slots d j
  have htd : (v.stepTally d).stepm = v.stepm := (v.opTally_within _ _).stepm (by decide)
  refine ⟨?_, ?_, ?_, ?_, ?_⟩
  · rw [hts, hst]
  · rw [ht.field 23 16 (by decide), hinfo]
  · rw [ht.reg (by decide), hnum (by decide) (by decide), hp.reg (by decide)]
  · rw [ht.reg (by decide), hnum (by decide) (by decide), hp.reg (by decide)]
  · rw [htd, hdrain, hpj]

end

/-! ### The drain (R392) -/

section
variable (s : State)

/-- The descriptors of every core stay. -/
abbrev State.SameInq (s t : State) : Prop := ∀ n, (t.core n).inq = (s.core n).inq

theorem State.SameInq.of_cores {s t : State} (h : t.cores = s.cores) : s.SameInq t := fun n => by
  rw [State.core, h, State.core]

theorem State.SameInq.trans {s t u : State} (h : s.SameInq t) (hu : t.SameInq u) : s.SameInq u := fun n => (hu n).trans (h n)

theorem State.SameInq.foldl {α : Type} {f : State → α → State} (h : ∀ (t : State) (x : α), t.SameInq (f t x)) (xs : List α) (s : State) :
    s.SameInq (xs.foldl f s) := by
  induction xs generalizing s with
  | nil => exact fun _ => rfl
  | cons x xs ih => exact (h s x).trans (ih _)

theorem Core.seeTally_inq (t : Nat) (v : W32) (k : Core) : (k.seeTally t v).inq = k.inq := by
  unfold Core.seeTally
  split
  · split
    · rfl
    · rfl
  · rfl

theorem State.opTally_inq (t c : Nat) : s.SameInq (s.opTally t c) := by
  cases hperm : s.tallyPermitted t c with
  | true =>
    rw [State.opTally_permitted s hperm]
    refine State.SameInq.trans (fun n => ?_) (.of_cores ((State.event_within _ _ _ _).cores (by decide)))
    rw [State.core_setTally, Core.seeTally_inq]
  | false =>
    rw [State.opTally_denied s hperm]
    refine .of_cores (((State.setErr_within _ _ _).cores (by decide)).trans ?_)
    split <;> rfl

theorem State.finishTile_inq (n : Nat) (o : TileOp) : s.SameInq (s.finishTile n o) := by
  unfold State.finishTile
  extract_lets r t
  split
  · exact .of_cores rfl
  · split
    · exact .of_cores rfl
    · split
      · exact .of_cores rfl
      · exact State.SameInq.trans (.of_cores rfl) (t.opTally_inq _ _)

theorem State.abandonSample_inq (c : Check) : s.SameInq (s.abandonSample c) := by
  refine State.SameInq.trans (.of_cores ((s.abandonCheck_within c).cores (by decide))) (.foldl (fun t o => ?_) _ _)
  extract_lets o1 u
  have hu : t.SameInq u := .of_cores rfl
  split
  · exact (hu.trans (.of_cores ((u.event_within _ _ _).cores (by decide)))).trans (State.finishTile_inq _ _ _)
  · exact hu

theorem State.abortScrub_inq (j : Nat) : s.SameInq (s.abortScrub j) := by
  have hvote : ∀ t : State, t.SameInq (t.voteTally j) := fun t => by
    unfold State.voteTally
    split
    · exact State.SameInq.trans (.of_cores rfl) (State.opTally_inq _ _ _)
    · exact fun _ => rfl
  unfold State.abortScrub
  extract_lets t
  have ht : s.SameInq t := State.SameInq.trans (.of_cores rfl) (hvote _)
  exact ht.trans (.foldl (fun u x => u.abandonSample_inq x) _ t)

theorem State.raiseAsync_inq (c : Nat) (cause : W64) : s.SameInq (s.raiseAsync c cause) := by
  unfold State.raiseAsync
  extract_lets k
  split
  · intro n
    by_cases hn : n = c
    · subst hn
      rw [State.core_setCore_same]
    · rw [State.core_setCore_ne s hn]
  · exact .of_cores ((s.setErr_within _ _).cores (by decide))

/-- No collective of context `c` is left at engine `e`. -/
abbrev State.Drained (s : State) (c e : Nat) : Prop :=
  (∀ y ∈ (s.core (69 + e)).inq, y.ctx ≠ c) ∧ (∀ y, (s.cfl e).cur = some y → y.desc.ctx ≠ c) ∧ ∀ y ∈ (s.cfl e).wsq, y.desc.ctx ≠ c

variable {s} {t : State} {c e : Nat}

/-- What leaves the queue and the engine leaves it drained. -/
theorem State.Drained.of_same (h : s.Drained c e) (hin : (t.core (69 + e)).inq = (s.core (69 + e)).inq) (hcfl : t.cfl e = s.cfl e) :
    t.Drained c e := by
  rw [State.Drained, hin, hcfl]
  exact h

theorem State.Drained.of_within {l : List Area} (h : s.Drained c e) (hcores : Area.cores ∉ l) (hcfls : Area.cfls ∉ l)
    (hw : s.within l t) : t.Drained c e :=
  h.of_same (by rw [State.core, hw.cores hcores, State.core]) (by rw [State.cfl, hw.cfls hcfls, State.cfl])

theorem State.collShow_within (s : State) (e : Nat) (c : Coll) : s.within [.io] (s.collShow e c) := s.setReg_within _ _ _

theorem State.wsStart_drained (h : s.Drained c e) : (s.wsStart e).Drained c e := by
  obtain ⟨hin, hcur, hws⟩ := h
  unfold State.wsStart
  extract_lets k
  split
  · next x rest hk1 _ hk3 =>
    extract_lets x1
    have hmem : ∀ y ∈ x :: rest, y.desc.ctx ≠ c := fun y hy => hws y (hk3 ▸ hy)
    have hcfl := s.cfl_setCfl_same e { k with cur := some x1, wsq := rest, xq := k.xq ++ x1.transfers 0 [] [] }
    have hcore : ((s.setCfl e { k with cur := some x1, wsq := rest, xq := k.xq ++ x1.transfers 0 [] [] }).core (69 + e)).inq =
      (s.core (69 + e)).inq := rfl
    generalize s.setCfl e { k with cur := some x1, wsq := rest, xq := k.xq ++ x1.transfers 0 [] [] } = u at hcfl hcore
    refine State.Drained.of_within (s := u) ⟨hcore ▸ hin, fun y hy => ?_, fun y hy => ?_⟩ (by decide) (by decide) (u.collShow_within e x1)
    · rw [hcfl] at hy
      obtain rfl := Option.some.inj hy
      exact hmem x List.mem_cons_self
    · rw [hcfl] at hy
      exact hmem y (List.mem_cons_of_mem _ hy)
  · exact ⟨hin, hcur, hws⟩

/-- The engines that a Watershed of engine `e` starts are that one alone. -/
theorem State.wsStart_cfl_ne (s : State) {i : Nat} (h : i ≠ e) : (s.wsStart e).cfl i = s.cfl i := by
  unfold State.wsStart
  extract_lets k
  split
  · extract_lets c
    rw [State.cfl, (State.collShow_within _ _ _).cfls (by decide)]
    exact s.cfl_setCfl_ne h _
  · rfl

theorem State.tableDrop_cfl_ne (s : State) {i : Nat} (h : i ≠ e) (gone : Nat → Bool) : (s.tableDrop e gone).cfl i = s.cfl i := by
  unfold State.tableDrop
  split
  · rfl
  · split
    · exact State.wsStart_cfl_ne _ h
    · rfl

theorem State.collDrop_cfl_ne (s : State) {i : Nat} (h : i ≠ e) : (s.collDrop e).cfl i = s.cfl i := by
  unfold State.collDrop
  split
  · rfl
  · rw [State.wsStart_cfl_ne _ h, State.cfl_setCfl_ne _ h]

/-- A running collective is not replaced while a table is dropped. -/
theorem State.tableDrop_running {x : Coll} (hcur : (s.cfl e).cur = some x) (gone : Nat → Bool) :
    (s.tableDrop e gone).cfl e = s.cfl e := by
  unfold State.tableDrop
  split
  · rfl
  · split
    · unfold State.wsStart
      extract_lets k
      have hk : k.cur = some x := hcur
      rw [hk] <;> rfl
    · rfl

theorem State.tableDrop_core (s : State) (gone : Nat → Bool) (n : Nat) : (s.tableDrop e gone).core n = s.core n := by
  rw [State.core, (s.tableDrop_within e gone).cores (by decide), State.core]

theorem State.wsStart_core (s : State) (n : Nat) : (s.wsStart e).core n = s.core n := by
  rw [State.core, (s.wsStart_within e).cores (by decide), State.core]

theorem State.tableDrop_drained (h : s.Drained c e) (gone : Nat → Bool) : (s.tableDrop e gone).Drained c e := by
  unfold State.tableDrop
  split
  · exact h
  · split
    · exact State.wsStart_drained (h.of_same rfl rfl)
    · exact h

/-- The queue of the engine's core and its Watersheds, without context `c`; what runs stays. -/
def State.collsOut (s : State) (c e : Nat) : State :=
  (s.setCore (69 + e) { s.core (69 + e) with inq := (s.core (69 + e)).inq.filter fun d => d.ctx != c }).setCfl e { s.cfl e with
    wsq := (s.cfl e).wsq.filter fun x => x.desc.ctx != c
    msgs := (s.cfl e).msgs.filter fun m =>
      !(((s.core (69 + e)).inq.filter fun d => d.ctx == c).any fun d => cdId d.words == m.coll) }

theorem State.collsEnd_eq (s : State) (c e : Nat) : s.collsEnd c e = match (s.cfl e).cur with
    | some x => if x.desc.ctx = c then ((s.collsOut c e).tableDrop e fun x => x == c).collDrop e else (s.collsOut c e).tableDrop e fun x => x == c
    | none => (s.collsOut c e).tableDrop e fun x => x == c := rfl

theorem State.collsOut_cfl (s : State) (c e : Nat) : (s.collsOut c e).cfl e = { s.cfl e with
    wsq := (s.cfl e).wsq.filter fun x => x.desc.ctx != c
    msgs := (s.cfl e).msgs.filter fun m =>
      !(((s.core (69 + e)).inq.filter fun d => d.ctx == c).any fun d => cdId d.words == m.coll) } := State.cfl_setCfl_same _ _ _

theorem State.collsOut_inq (s : State) (c e : Nat) : ∀ y ∈ ((s.collsOut c e).core (69 + e)).inq, y.ctx ≠ c := by
  have hcore : (s.collsOut c e).core (69 + e) = { s.core (69 + e) with inq := (s.core (69 + e)).inq.filter fun d => d.ctx != c } :=
    s.core_setCore_same _ _
  rw [hcore]
  exact fun y hy => bne_iff_ne.mp (List.mem_filter.mp hy).2

theorem State.collsOut_wsq (s : State) (c e : Nat) : ∀ y ∈ ((s.collsOut c e).cfl e).wsq, y.desc.ctx ≠ c := by
  rw [s.collsOut_cfl]
  exact fun y hy => bne_iff_ne.mp (List.mem_filter.mp hy).2

theorem State.collsOut_cur (s : State) (c e : Nat) : ((s.collsOut c e).cfl e).cur = (s.cfl e).cur := by
  rw [s.collsOut_cfl]

theorem State.collsEnd_drains (s : State) (c e : Nat) : (s.collsEnd c e).Drained c e := by
  rw [s.collsEnd_eq]
  have hin := s.collsOut_inq c e
  have hws := s.collsOut_wsq c e
  have hcur := s.collsOut_cur c e
  generalize s.collsOut c e = u at hin hws hcur ⊢
  split
  · next x hx =>
    have hux : (u.cfl e).cur = some x := hcur.trans hx
    have hdrop := State.tableDrop_running hux fun x => x == c
    have hcore := u.tableDrop_core (e := e) (fun x => x == c) (69 + e)
    generalize u.tableDrop e (fun x => x == c) = v at hdrop hcore
    split
    · unfold State.collDrop
      rw [hdrop, hux]
      refine State.wsStart_drained ⟨?_, fun y hy => ?_, fun y hy => ?_⟩
      · have hc : (v.setCfl e ((u.cfl e).clear (cdId x.desc.words))).core (69 + e) = u.core (69 + e) := hcore
        rw [hc]
        exact hin
      · rw [State.cfl_setCfl_same] at hy
        exact absurd hy (Option.some_ne_none y).symm
      · rw [State.cfl_setCfl_same] at hy
        exact hws y hy
    · next hne =>
      refine State.Drained.of_same (s := u) ⟨hin, fun y hy => ?_, hws⟩ (congrArg Core.inq hcore) hdrop
      obtain rfl := Option.some.inj (hux.symm.trans hy)
      exact hne
  · next hnone =>
    exact State.tableDrop_drained ⟨hin, fun y hy => absurd ((hcur.trans hnone).symm.trans hy) (Option.some_ne_none y).symm, hws⟩ _

theorem State.collsEnd_others (s : State) (c : Nat) {i e : Nat} (h : i ≠ e) : (s.collsEnd c e).cfl i = s.cfl i ∧
    (s.collsEnd c e).core (69 + i) = s.core (69 + i) := by
  rw [s.collsEnd_eq]
  have hcfl : (s.collsOut c e).cfl i = s.cfl i := State.cfl_setCfl_ne _ h _
  have hcore : (s.collsOut c e).core (69 + i) = s.core (69 + i) := s.core_setCore_ne (by omega) _
  generalize s.collsOut c e = u at hcfl hcore ⊢
  have hd := u.tableDrop_cfl_ne h fun x => x == c
  have hdc := u.tableDrop_core (e := e) (fun x => x == c) (69 + i)
  generalize u.tableDrop e (fun x => x == c) = v at hd hdc
  have hc : (v.collDrop e).cfl i = s.cfl i ∧ (v.collDrop e).core (69 + i) = s.core (69 + i) := by
    refine ⟨by rw [v.collDrop_cfl_ne h, hd, hcfl], ?_⟩
    unfold State.collDrop
    split
    · rw [hdc, hcore]
    · rw [State.wsStart_core]
      exact hdc.trans hcore
  split
  · split
    · exact hc
    · exact ⟨hd.trans hcfl, hdc.trans hcore⟩
  · exact ⟨hd.trans hcfl, hdc.trans hcore⟩

/-- Engine after engine is drained. -/
theorem State.foldl_collsEnd (c : Nat) (n : Nat) (s : State) :
    ∀ e < n, ((List.range n).foldl (fun t e => t.collsEnd c e) s).Drained c e := by
  induction n with
  | zero => exact fun e he => absurd he (Nat.not_lt_zero e)
  | succ n ih =>
    intro e he
    rw [List.range_succ, List.foldl_append, List.foldl_cons, List.foldl_nil]
    generalize (List.range n).foldl (fun t e => t.collsEnd c e) s = u at ih ⊢
    by_cases h : e = n
    · subst h
      exact u.collsEnd_drains c e
    · obtain ⟨h1, h2⟩ := u.collsEnd_others c h
      exact (ih e (by omega)).of_same (congrArg Core.inq h2) h1

/-- The drain of context `c`, whose step in slot `i` aborted. -/
def State.drainRun (s : State) (i c : Nat) : State :=
  let t := (List.range 8).foldl (fun t e => t.collsEnd c e) s
  let t := if (t.slot i).st = .aborted then t.abortScrub i else t
  (List.range 77).foldl (fun t n => if t.signalled n c then t.raiseAsync n (causeWord 0 0 0 c 0x0E) else t) t

theorem State.drainRun_drains (s : State) (i c : Nat) : ∀ e < 8, (s.drainRun i c).Drained c e := by
  intro e he
  unfold State.drainRun
  extract_lets t1 t2
  have h1 : t1.Drained c e := State.foldl_collsEnd c 8 s e he
  clear_value t1
  have h2 : t2.Drained c e := by
    simp only [t2]
    split
    · exact h1.of_same (t1.abortScrub_inq i _) (by rw [State.cfl, (t1.abortScrub_within i).cfls (by decide), State.cfl])
    · exact h1
  clear_value t2
  generalize List.range 77 = ns
  refine h2.of_same (State.SameInq.foldl (fun t n => ?_) ns t2 _) ?_
  · split
    · exact t.raiseAsync_inq _ _
    · exact fun _ => rfl
  · have hw := State.within.foldl (l := [.cores, .io, .out])
      (f := fun t n => if t.signalled n c then t.raiseAsync n (causeWord 0 0 0 c 0x0E) else t)
      (fun t n => .ite (fun _ => t.raiseAsync_within _ _) fun _ => .refl t _) ns t2
    rw [State.cfl, hw.cfls (by decide), State.cfl]

theorem State.stepDrainDone_drains {i : Nat} (h : s.stepm.draining = some (i, c)) : ∃ t, exec .stepDrainDone s = .next t ∧
    t.stepm.draining = none ∧ ∀ e < 8, (∀ y ∈ (t.core (69 + e)).inq, y.ctx ≠ c) ∧ ∀ y, (t.cfl e).cur = some y → y.desc.ctx ≠ c := by
  have hexec : exec .stepDrainDone s = execStepDrainDone s := rfl
  rw [execStepDrainDone, h] at hexec
  have hrun : exec .stepDrainDone s =
      .next { s.drainRun i c with stepm := { (s.drainRun i c).stepm with draining := none } } := by
    rw [hexec]
    unfold State.drainRun
    dsimp only
  have hdrains := s.drainRun_drains i c
  generalize s.drainRun i c = u at hrun hdrains
  refine ⟨_, hrun, rfl, fun e he => ?_⟩
  obtain ⟨hin, hcur, -⟩ := hdrains e he
  exact ⟨hin, hcur⟩

end

/-! ### Registers (R384, R386, R411) -/

section
variable {s : State}

theorem State.nextStepWrite_writes (value : W32) (hready : s.ready = true) (hopen : s.stepOpen = false) :
    ∃ t, exec (.nextStepWrite value) s = .next t ∧ t.reg .step 0x108 = value ∧ t.reg .step 0x10C = value - 1 := by
  have hexec : exec (.nextStepWrite value) s = execNextStepWrite value s := rfl
  have hfree : s.slotsFree = true := by
    rw [State.slotsFree, hopen]
    rfl
  rw [execNextStepWrite, hready, hfree, if_neg (by decide), if_neg (by decide)] at hexec
  have hlow : ((s.setReg .step 0x108 value).setReg .step 0x10C (value - 1)).reg .step 0x108 = value := by
    rw [State.reg_setReg_ne _ (by decide), State.reg_setReg_same]
  have hhigh : ((s.setReg .step 0x108 value).setReg .step 0x10C (value - 1)).reg .step 0x10C = value - 1 :=
    State.reg_setReg_same _ _ _ _
  exact ⟨_, hexec, hlow, hhigh⟩

theorem State.stepWrites_refused (value : W32) (n : Fin 8) (x : W64) (hready : s.ready = true) (hopen : s.stepOpen = true) :
    exec (.nextStepWrite value) s = .next (s.setErr .step 4) ∧ ∀ wide, exec (.cursorWrite n wide x) s = .next (s.setErr .hdw 1) := by
  have hfree : s.slotsFree = false := by
    rw [State.slotsFree, hopen]
    rfl
  refine ⟨?_, fun wide => ?_⟩
  · have hexec : exec (.nextStepWrite value) s = execNextStepWrite value s := rfl
    rw [hexec, execNextStepWrite, hready, hfree, if_neg (by decide), if_pos (by rfl)]
  · have hexec : exec (.cursorWrite n wide x) s = execCursorWrite n wide x s := rfl
    rw [hexec, execCursorWrite, hready, hfree]
    rfl

theorem State.cursorWrite_writes (n : Fin 8) (x : W64) (hready : s.ready = true) (hopen : s.stepOpen = false) :
    ∃ t, exec (.cursorWrite n true x) s = .next t ∧ t.cursor n.val = x.toNat ∧ ∀ c < 8, c ≠ n.val → t.cursor c = s.cursor c := by
  have hexec : exec (.cursorWrite n true x) s = execCursorWrite n true x s := rfl
  have hfree : s.slotsFree = true := by
    rw [State.slotsFree, hopen]
    rfl
  rw [execCursorWrite, hready, hfree] at hexec
  refine ⟨_, hexec, State.cursor_setReg64 _ _ _, fun c _ hne => ?_⟩
  exact (State.cursor_setReg64_other _ hne _).trans rfl

theorem State.stragClr_clears (value : W32) (hready : s.ready = true) : ∃ t, exec (.stragClr value) s = .next t ∧
    t.stepm.strag = {} ∧ t.stepm = { s.stepm with strag := {} } := by
  have hexec : exec (.stragClr value) s = execStragClr value s := rfl
  rw [execStragClr, hready, if_neg (by decide)] at hexec
  have hw : s.within [.io, .out] ((s.storeBits .step 0x008 value).irqUpdate .step) :=
    ((s.storeBits_within _ _ _).mono (by decide)).trans ((State.irqUpdate_within _ _).mono (by decide))
  refine ⟨_, hexec, rfl, ?_⟩
  dsimp only
  rw [hw.stepm (by decide)]

end

end Sys2Proof.Machine
end

section
/-! PROOF. Settles O39. -/
namespace Sys2Proof.Machine

/-- Settles O39. -/
theorem stepsCommitOrEnd : Obligations.StepsCommitOrEnd := by
  unfold Obligations.StepsCommitOrEnd
  intro s d rest value n x
  dsimp only
  refine ⟨fun ⟨hq, hwhy⟩ haction hst => ⟨State.stepLayer_waits hq hwhy haction hst, State.stepLayer_updates hq hwhy haction hst⟩,
    fun ⟨hq, hwhy⟩ => State.commitEnd_commits hq hwhy,
    fun ⟨hq, hwhy⟩ haction hst => ⟨State.stepEndSkip_ends hq hwhy haction hst, State.stepEndDrop_ends hq hwhy haction hst⟩,
    fun ⟨hq, hwhy⟩ => State.stepAbortAction_aborts hq hwhy, fun i c h _ => State.stepDrainDone_drains h,
    State.nextStepWrite_writes value, State.stepWrites_refused value n x, State.cursorWrite_writes n x, State.stragClr_clears value⟩

end Sys2Proof.Machine
end

section
/-! PROOF. The abort of a context, part by part (R416). -/
namespace Sys2Proof.Machine

/-! ### Parts done one after the other -/

/-- What a run over `List.range N` makes of the `i`th part, where each turn touches its own part alone. -/
theorem foldl_range_part {α : Type} (get : State → Nat → α) (f : State → Nat → State) (P : Nat → α → α → Prop)
    (hother : ∀ t i j, j ≠ i → get (f t i) j = get t j) (hself : ∀ t i, P i (get t i) (get (f t i) i)) (N : Nat) (s : State) :
    (∀ i < N, P i (get s i) (get ((List.range N).foldl f s) i)) ∧ ∀ i, N ≤ i → get ((List.range N).foldl f s) i = get s i := by
  induction N with
  | zero => exact ⟨fun i hi => absurd hi (Nat.not_lt_zero i), fun i _ => rfl⟩
  | succ N ih =>
    rw [List.range_succ, List.foldl_append, List.foldl_cons, List.foldl_nil]
    obtain ⟨hdone, hrest⟩ := ih
    generalize (List.range N).foldl f s = u at hdone hrest ⊢
    refine ⟨fun i hi => ?_, fun i hi => ?_⟩
    · by_cases h : i = N
      · subst h
        rw [← hrest i (Nat.le_refl i)]
        exact hself u i
      · rw [hother u N i h]
        exact hdone i (by omega)
    · rw [hother u N i (by omega)]
      exact hrest i (by omega)

/-! ### What tallies show to cores and windows (R225) -/

/-- Cores but for their release, what is known of windows, and the queue of steps. -/
abbrev State.Released (s t : State) : Prop :=
  (∀ n, ∃ b, t.core n = { s.core n with released := b }) ∧
  (∀ w, (t.win w).st = (s.win w).st ∧ (t.win w).reason = (s.win w).reason) ∧ t.stepm.q = s.stepm.q

section
variable {s t u : State}

theorem State.Released.trans (h : s.Released t) (hu : t.Released u) : s.Released u := by
  obtain ⟨hc, hw, hq⟩ := h
  obtain ⟨kc, kw, kq⟩ := hu
  refine ⟨fun n => ?_, fun w => ⟨(kw w).1.trans (hw w).1, (kw w).2.trans (hw w).2⟩, kq.trans hq⟩
  obtain ⟨b, hb⟩ := hc n
  obtain ⟨b', hb'⟩ := kc n
  exact ⟨b', by rw [hb', hb]⟩

theorem State.Released.of_eq (hc : t.cores = s.cores) (hw : t.wins = s.wins) (hq : t.stepm.q = s.stepm.q) : s.Released t :=
  ⟨fun n => ⟨(s.core n).released, by rw [State.core, hc, State.core]⟩, fun w => by rw [State.win, hw, State.win]; exact ⟨rfl, rfl⟩, hq⟩

theorem State.within.released {l : List Area} (h : s.within l t) (hc : Area.cores ∉ l) (hw : Area.wins ∉ l) (hq : Area.stepm ∉ l) :
    s.Released t := .of_eq (h.cores hc) (h.wins hw) (congrArg StepM.q (h.stepm hq))

end

section
variable (s : State)

theorem Core.seeTally_released (t : Nat) (v : W32) (k : Core) : ∃ b, k.seeTally t v = { k with released := b } := by
  unfold Core.seeTally
  split
  · split
    · exact ⟨true, rfl⟩
    · exact ⟨k.released, rfl⟩
  · exact ⟨k.released, rfl⟩

theorem Win.seeTally_shown (t : Nat) (v : W32) (k : Win) : (k.seeTally t v).st = k.st ∧ (k.seeTally t v).reason = k.reason := by
  unfold Win.seeTally
  split
  · split
    · exact ⟨rfl, rfl⟩
    · exact ⟨rfl, rfl⟩
  · exact ⟨rfl, rfl⟩

theorem State.opTally_released (t c : Nat) : s.Released (s.opTally t c) := by
  cases hperm : s.tallyPermitted t c with
  | true =>
    rw [State.opTally_permitted s hperm]
    have hset : s.Released (s.setTally t (s.tally t + 1)) := ⟨fun n => ?_, fun w => ?_, rfl⟩
    · exact hset.trans ((State.event_within _ _ _ _).released (by decide) (by decide) (by decide))
    · rw [State.core_setTally]
      exact Core.seeTally_released _ _ _
    · rw [State.win_setTally]
      exact Win.seeTally_shown _ _ _
  | false =>
    rw [State.opTally_denied s hperm]
    refine State.Released.trans (t := if s.flag .tly 0x104 31 then s else s.setReg .tly 0x104 (w32 (2 ^ 31 + c * 4096 + t))) ?_
      ((State.setErr_within _ _ _).released (by decide) (by decide) (by decide))
    split
    · exact .of_eq rfl rfl rfl
    · exact .of_eq rfl rfl rfl

theorem State.abortTell_queue (j cause : Nat) : (s.abortTell j cause).stepm.q = s.stepm.q := by
  unfold State.abortTell
  extract_lets k done own fl
  split
  · rfl
  · split
    · split <;> rfl
    · rfl

theorem State.abortSlot_released (j cause index : Nat) (tell : Bool) : s.Released (s.abortSlot j cause index tell) := by
  unfold State.abortSlot
  extract_lets k t1 t2 t3 t4 t5 m t6
  have h1 : s.Released t1 := by
    simp only [t1]
    split
    · have h := s.abortTell_within j cause
      exact .of_eq (h.cores (by decide)) (h.wins (by decide)) (s.abortTell_queue j cause)
    · exact .of_eq rfl rfl rfl
  clear_value t1
  have h2 : t1.Released t2 := .of_eq rfl rfl rfl
  clear_value t2
  have h3 : t2.Released t3 := by
    simp only [t3]
    split
    · exact .of_eq rfl rfl rfl
    · exact .of_eq rfl rfl rfl
  clear_value t3
  have h4 : t3.Released t4 := by
    have he : t3.Released ((t3.setErr .step 1).event .step 0x03 1) :=
      ((t3.setErr_within _ _).released (by decide) (by decide) (by decide)).trans
        ((State.event_within _ _ _ _).released (by decide) (by decide) (by decide))
    exact he.trans (.of_eq rfl rfl (State.queue_setSlot _ _ _))
  clear_value t4
  have h5 : t4.Released t5 := by
    simp only [t5]
    split
    · exact t4.opTally_released _ _
    · exact t4.opTally_released _ _
    · exact .of_eq rfl rfl rfl
  clear_value t5
  have h6 : t5.Released t6 := .of_eq rfl rfl rfl
  clear_value t6
  exact (((((h1.trans h2).trans h3).trans h4).trans h5).trans h6).trans
    (((t6.pendingDrop_within j).released (by decide) (by decide) (by decide)).trans
      ((State.accClear_within _ j).released (by decide) (by decide) (by decide)))

theorem State.stepAbort_released (cause : Nat) : s.Released (s.stepAbort cause) := by
  unfold State.stepAbort
  split
  · exact s.abortSlot_released _ _ _ _
  · split
    · exact s.abortSlot_released _ _ _ _
    · split
      · exact (s.escalate_within _).released (by decide) (by decide) (by decide)
      · exact .of_eq rfl rfl rfl

/-! ### The parts of an abort (R416) -/

theorem State.abortWin_within (c : Nat) : s.within [.wins, .io, .out] (s.abortWin c) := by
  unfold State.abortWin
  extract_lets t
  have ht : s.within [.wins, .io, .out] t := s.winFault_within _ _ _
  exact .ite (fun _ => ht.trans rfl) fun _ => ht

theorem State.winFault_faults (w reason : Nat) (seq : W32) :
    ((s.win w).st ≠ .disabled → ((s.winFault w reason seq).win w).st = .faulted) ∧
    ((s.win w).st ≠ .disabled → (s.win w).st ≠ .faulted → ((s.winFault w reason seq).win w).reason = reason) ∧
    ((s.win w).st = .disabled → ((s.winFault w reason seq).win w).st = .disabled) ∧
    ∀ v, v ≠ w → (s.winFault w reason seq).win v = s.win v := by
  unfold State.winFault
  extract_lets k
  split
  · next h => exact ⟨fun hd => h.resolve_right hd, fun hd hf => absurd h (not_or.mpr ⟨hf, hd⟩), id, fun v _ => rfl⟩
  · next h =>
    obtain ⟨_, hnd⟩ := not_or.mp h
    have hset : ∀ (u : State) v, (u.setErr .cwn 0).win v = u.win v := fun u v => by
      rw [State.win, (u.setErr_within .cwn 0).wins (by decide), State.win]
    have hself : (s.setWin w { k with st := .faulted, reason := reason, fseq := seq }).win w =
        { k with st := .faulted, reason := reason, fseq := seq } := s.win_setWin_same w _
    refine ⟨fun _ => ?_, fun _ _ => ?_, fun hd => absurd hd hnd, fun v hv => ?_⟩
    · rw [hset, hself]
    · rw [hset, hself]
    · rw [hset, s.win_setWin_ne hv]

/-- The window of the context enters FAULTED with reason 0x08 unless it is DISABLED. -/
theorem State.abortWin_faults (c : Nat) :
    ((s.win c).st ≠ .disabled → ((s.abortWin c).win c).st = .faulted) ∧
    ((s.win c).st ≠ .disabled → (s.win c).st ≠ .faulted → ((s.abortWin c).win c).reason = 0x08) ∧
    ((s.win c).st = .disabled → ((s.abortWin c).win c).st = .disabled) ∧ ∀ v, v ≠ c → (s.abortWin c).win v = s.win v := by
  obtain ⟨h1, h2, h3, h4⟩ := s.winFault_faults c 0x08 (s.win c).next
  unfold State.abortWin
  extract_lets t
  change (_ → (t.win c).st = _) at h1
  change (_ → _ → (t.win c).reason = _) at h2
  change (_ → (t.win c).st = _) at h3
  change (∀ v, _ → t.win v = _) at h4
  clear_value t
  split
  · next hf =>
    have hself : (t.setWin c { t.win c with ref := none }).win c = { t.win c with ref := none } := t.win_setWin_same c _
    refine ⟨fun hd => ?_, fun hd hnf => ?_, fun hd => ?_, fun v hv => ?_⟩
    · rw [hself]
      exact hf
    · rw [hself]
      exact h2 hd hnf
    · rw [hself]
      exact h3 hd
    · rw [t.win_setWin_ne hv, h4 v hv]
  · exact ⟨h1, h2, h3, h4⟩

theorem State.abortDie_within (c k : Nat) : s.within [.dies] (s.abortDie c k) := rfl
theorem State.settleOps_within (k : Nat) : s.within [.dies] (s.settleOps k) := rfl
theorem State.abortCoreQ_within (c n : Nat) : s.within [.cores] (s.abortCoreQ c n) := rfl

theorem State.abortDma_within (c n : Nat) : s.within [.dmas] (s.abortDma c n) := by
  unfold State.abortDma
  extract_lets k k1
  split
  · rfl
  · exact .ite (fun _ => rfl) fun _ => rfl

/-- A fetch op of the context takes no more chunks, and its tally does not increment. -/
theorem State.abortFetch_ridge (n : Nat) (o : FetchOp) : s.within [.ridges] (s.abortFetch n o) ∧
    (∀ m, m ≠ n → (s.abortFetch n o).ridge m = s.ridge m) ∧ ∃ f, (s.abortFetch n o).ridge n = { s.ridge n with fetchOps := f } := by
  unfold State.abortFetch
  split
  · exact ⟨.refl s _, fun m _ => rfl, (s.ridge n).fetchOps, rfl⟩
  · generalize ho : ({ o with row := fdRows o.desc.words, off := 0, xfault := true } : FetchOp) = o1
    have hx : o1.xfault = true := by rw [← ho]
    have hid : o1.id = o.id := by rw [← ho]
    have hput : (s.putFetch n o1).ridge n = { s.ridge n with
        fetchOps := (s.ridge n).fetchOps.map fun x => if x.id = o1.id then o1 else x } := s.ridge_setRidge_same n _
    have hputo : ∀ m, m ≠ n → (s.putFetch n o1).ridge m = s.ridge m := fun m hm => s.ridge_setRidge_ne hm _
    have hputw : s.within [.ridges] (s.putFetch n o1) := rfl
    have hfound : ∀ x, ((s.putFetch n o1).ridge n).fetchOp? o.id = some x → x.xfault = true := fun x hfind => by
      rw [hput, Ridge.fetchOp?] at hfind
      have hmem := List.mem_of_find?_eq_some hfind
      have hxid : x.id = o.id := by simpa using List.find?_some hfind
      obtain ⟨y, _, hy⟩ := List.mem_map.mp hmem
      split at hy
      · rw [← hy, hx]
      · next hne => exact absurd (hy ▸ hxid.trans hid.symm) hne
    generalize s.putFetch n o1 = u at hput hputo hputw hfound
    unfold State.fetchEnd
    split
    · exact ⟨hputw, hputo, _, hput⟩
    · next x hfind =>
      rw [if_pos (hfound x hfind)]
      split
      · exact ⟨hputw, hputo, _, hput⟩
      · refine ⟨hputw.trans rfl, fun m hm => (u.ridge_setRidge_ne hm _).trans (hputo m hm), (u.ridge n).fetchOps.filter fun x => x.id != o.id, ?_⟩
        have hdrop : (u.dropFetch n o.id).ridge n = { u.ridge n with fetchOps := (u.ridge n).fetchOps.filter fun x => x.id != o.id } :=
          u.ridge_setRidge_same n _
        rw [hdrop, hput]

/-- What an abort of context `c` makes of a Ridge. -/
abbrev Ridge.AbortedTo (c : Nat) (r r' : Ridge) : Prop :=
  ∃ f, r' = { r with tileIn := notOf c r.tileIn, brookIn := notOf c r.brookIn, fetchIn := notOf c r.fetchIn, fetchOps := f } ∧
    (r.fetchOps = [] → f = [])

theorem State.foldl_abortFetch (n : Nat) (os : List FetchOp) (t : State) :
    t.within [.ridges] (os.foldl (fun t o => t.abortFetch n o) t) ∧
    (∀ m, m ≠ n → (os.foldl (fun t o => t.abortFetch n o) t).ridge m = t.ridge m) ∧
    ∃ f, (os.foldl (fun t o => t.abortFetch n o) t).ridge n = { t.ridge n with fetchOps := f } := by
  induction os generalizing t with
  | nil => exact ⟨.refl t _, fun m _ => rfl, (t.ridge n).fetchOps, rfl⟩
  | cons o os ih =>
    obtain ⟨h1, h2, f, h3⟩ := t.abortFetch_ridge n o
    obtain ⟨k1, k2, f', k3⟩ := ih (t.abortFetch n o)
    refine ⟨h1.trans k1, fun m hm => (k2 m hm).trans (h2 m hm), f', ?_⟩
    rw [List.foldl_cons, k3, h3]

theorem State.abortRidge_aborts (c n : Nat) : s.within [.ridges] (s.abortRidge c n) ∧
    (∀ m, m ≠ n → (s.abortRidge c n).ridge m = s.ridge m) ∧ Ridge.AbortedTo c (s.ridge n) ((s.abortRidge c n).ridge n) := by
  unfold State.abortRidge
  extract_lets r t
  have ht : t.ridge n = { r with tileIn := notOf c r.tileIn, brookIn := notOf c r.brookIn, fetchIn := notOf c r.fetchIn } :=
    s.ridge_setRidge_same n _
  have hto : ∀ m, m ≠ n → t.ridge m = s.ridge m := fun m hm => s.ridge_setRidge_ne hm _
  have htw : s.within [.ridges] t := rfl
  clear_value t
  obtain ⟨h1, h2, f, h3⟩ := State.foldl_abortFetch n (r.fetchOps.filter fun o => o.desc.ctx == c) t
  refine ⟨htw.trans h1, fun m hm => (h2 m hm).trans (hto m hm), ?_⟩
  by_cases hnil : r.fetchOps = []
  · refine ⟨[], ?_, fun _ => rfl⟩
    rw [hnil, List.filter_nil, List.foldl_nil, ht, ← hnil]
  · refine ⟨f, ?_, fun h => absurd h hnil⟩
    rw [h3, ht]

end

end Sys2Proof.Machine
end

section
/-! PROOF. The abort of a context as a whole (R416). -/
namespace Sys2Proof.Machine

section
variable (s : State)

/-! ### Cores (R227, R233, R416) -/

/-- What an abort of context `c` makes of a core, but for its pending exceptions. -/
abbrev Core.AbortedTo (c : Nat) (k k' : Core) : Prop :=
  ∃ now, k'.st = (k.loseDesc c now).st ∧ k'.heldDesc = (k.loseDesc c now).heldDesc ∧ k'.inTrap = k.inTrap ∧ k'.ctx = k.ctx ∧
    ∀ d ∈ k'.inq, d ∈ k.inq ∧ d.ctx ≠ c

theorem mem_notOf {c : Nat} {l : List Desc} {d : Desc} : d ∈ notOf c l ↔ d ∈ l ∧ d.ctx ≠ c := by
  rw [notOf, List.mem_filter, bne_iff_ne]

theorem Core.loseDesc_kept (k : Core) (c : Nat) (now : W64) : (k.loseDesc c now).inTrap = k.inTrap ∧ (k.loseDesc c now).ctx = k.ctx ∧
    (k.loseDesc c now).pend = k.pend ∧ (k.loseDesc c now).inq = k.inq ∧ (k.busy = true → (k.loseDesc c now).busy = true) := by
  unfold Core.loseDesc
  split
  · split
    · exact ⟨rfl, rfl, rfl, rfl, fun _ => rfl⟩
    · exact ⟨rfl, rfl, rfl, rfl, id⟩
  · exact ⟨rfl, rfl, rfl, rfl, id⟩

/-- Every core's queue is cleared of the context, and it waits no longer with such a descriptor. -/
theorem State.foldl_abortCoreQ (c : Nat) : ∀ n < 77, ∃ now, ((List.range 77).foldl (fun t n => t.abortCoreQ c n) s).core n =
    { (s.core n).loseDesc c now with inq := notOf c ((s.core n).loseDesc c now).inq } :=
  (foldl_range_part State.core (fun t n => t.abortCoreQ c n)
    (fun _ k k' => ∃ now, k' = { k.loseDesc c now with inq := notOf c (k.loseDesc c now).inq })
    (fun t _ _ h => t.core_setCore_ne h _) (fun t n => ⟨t.refcnt, t.core_setCore_same n _⟩) 77 s).1

/-- Queues of cores only shrink; nothing else changes in the cores. -/
abbrev State.Shrunk (s t : State) : Prop := ∀ n, ∃ q, t.core n = { s.core n with inq := q } ∧ ∀ d ∈ q, d ∈ (s.core n).inq

theorem State.Shrunk.of_cores {s t : State} (h : t.cores = s.cores) : s.Shrunk t := fun n =>
  ⟨(s.core n).inq, by rw [State.core, h, State.core], fun _ hd => hd⟩

theorem State.Shrunk.trans {s t u : State} (h : s.Shrunk t) (hu : t.Shrunk u) : s.Shrunk u := fun n => by
  obtain ⟨q, hq, hin⟩ := h n
  obtain ⟨q', hq', hin'⟩ := hu n
  rw [hq] at hq' hin'
  exact ⟨q', hq', fun d hd => hin d (hin' d hd)⟩

theorem State.abortCfl_shrunk (c e : Nat) : s.Shrunk (s.abortCfl c e) := by
  have hout : s.Shrunk (s.collsOut c e) := fun n => by
    by_cases hn : n = 69 + e
    · subst hn
      exact ⟨(s.core (69 + e)).inq.filter fun d => d.ctx != c, s.core_setCore_same _ _, fun d hd => (List.mem_filter.mp hd).1⟩
    · exact ⟨(s.core n).inq, s.core_setCore_ne hn _, fun _ hd => hd⟩
  have hend : s.Shrunk (s.collsEnd c e) := by
    rw [s.collsEnd_eq]
    generalize s.collsOut c e = u at hout ⊢
    have hd : u.Shrunk (u.tableDrop e fun x => x == c) := .of_cores ((u.tableDrop_within e _).cores (by decide))
    generalize u.tableDrop e (fun x => x == c) = v at hd ⊢
    have hc : v.Shrunk (v.collDrop e) := by
      unfold State.collDrop
      split
      · exact .of_cores rfl
      · exact .of_cores ((State.wsStart_within _ _).cores (by decide))
    split
    · split
      · exact (hout.trans hd).trans hc
      · exact hout.trans hd
    · exact hout.trans hd
  exact hend.trans (.of_cores rfl)

theorem State.abortCfl_within (c e : Nat) : s.within [.cores, .cfls, .treads, .io] (s.abortCfl c e) :=
  State.within.trans (s.collsEnd_within c e) rfl

theorem State.foldl_abortCfl (c : Nat) (es : List Nat) : s.Shrunk (es.foldl (fun t e => t.abortCfl c e) s) := by
  induction es generalizing s with
  | nil => exact .of_cores rfl
  | cons e es ih => exact (s.abortCfl_shrunk c e).trans (ih _)

/-- A core that works for the context has exception 0x0E coming. -/
theorem State.foldl_abortSignal (c : Nat) : ∀ n < 77,
    (∃ l, ((List.range 77).foldl (fun t n => t.abortSignal c n) s).core n = { s.core n with pend := l }) ∧
    (n < 69 → (s.core n).ctx = c → (s.core n).busy = true → (s.core n).pend.length < 8 →
      (((List.range 77).foldl (fun t n => t.abortSignal c n) s).core n).pend = (s.core n).pend ++ [causeWord 0 0 0 c 0x0E]) := by
  refine (foldl_range_part State.core (fun t n => t.abortSignal c n)
    (fun n k k' => (∃ l, k' = { k with pend := l }) ∧ (n < 69 → k.ctx = c → k.busy = true → k.pend.length < 8 →
      k'.pend = k.pend ++ [causeWord 0 0 0 c 0x0E])) (fun t i j h => ?_) (fun t i => ?_) 77 s).1
  · unfold State.abortSignal
    extract_lets k
    split
    · unfold State.raiseAsync
      extract_lets k1
      split
      · exact t.core_setCore_ne h _
      · rw [State.core, (t.setErr_within _ _).cores (by decide), State.core]
    · rfl
  · unfold State.abortSignal
    extract_lets k
    split
    · unfold State.raiseAsync
      extract_lets k1
      split
      · rw [State.core_setCore_same]
        exact ⟨⟨_, rfl⟩, fun _ _ _ _ => rfl⟩
      · next hlen =>
        have hc : (t.setErr (.ril i) 4).core i = t.core i := by rw [State.core, (t.setErr_within _ _).cores (by decide), State.core]
        exact ⟨⟨(t.core i).pend, hc⟩, fun _ _ _ hlt => absurd hlt hlen⟩
    · next hno =>
      refine ⟨⟨(t.core i).pend, rfl⟩, fun hi hctx hbusy _ => absurd ?_ hno⟩
      have hfirm : t.firmCore i = false := by
        rw [State.firmCore, decide_eq_false (by omega), Bool.false_and, Bool.false_and]
      have hk : k = t.core i := rfl
      rw [hfirm, hk, hctx, hbusy, beq_self_eq_true]
      rfl

theorem State.abortSignal_within (c n : Nat) : s.within [.cores, .io, .out] (s.abortSignal c n) :=
  .ite (fun _ => s.raiseAsync_within _ _) fun _ => .refl s _

/-! ### The whole -/

/-- The dies, the cores and the Ridges of an abort. -/
def State.abortFront (s : State) (c : Nat) : State :=
  let t := s.abortWin c
  let t := (List.range 4).foldl (fun t k => t.abortDie c k) t
  let t := (List.range 77).foldl (fun t n => t.abortCoreQ c n) t
  let t := (List.range 4).foldl State.settleOps t
  (List.range 64).foldl (fun t n => t.abortRidge c n) t

/-- The channels, the engines, the steps, and the exceptions of an abort. -/
def State.abortBack (s : State) (c : Nat) : State :=
  let t := (List.range 32).foldl (fun t n => t.abortDma c n) s
  let t := (List.range 8).foldl (fun t e => t.abortCfl c e) t
  let t := if t.stepm.q.head?.any fun d => d.ctx == c then t.setTread 8 none else t
  let t := { t with stepm := { t.stepm with q := notOf c t.stepm.q } }
  (List.range 77).foldl (fun t n => t.abortSignal c n) t

theorem State.abortCtx_eq (c : Nat) : s.abortCtx c =
    if s.stepCtx c then ((s.abortFront c).abortBack c).stepAbort 0x04 else (s.abortFront c).abortBack c := by
  unfold State.abortCtx State.abortFront State.abortBack
  dsimp only

theorem State.abortFront_aborts (c : Nat) :
    s.within [.wins, .io, .out, .dies, .cores, .ridges] (s.abortFront c) ∧ (s.abortFront c).wins = (s.abortWin c).wins ∧
    (∀ n < 64, Ridge.AbortedTo c (s.ridge n) ((s.abortFront c).ridge n)) ∧
    ∀ n < 77, ∃ now, (s.abortFront c).core n = { (s.core n).loseDesc c now with inq := notOf c ((s.core n).loseDesc c now).inq } := by
  unfold State.abortFront
  extract_lets t1 t2 t3 t4
  have h1 : s.within [.wins, .io, .out] t1 := s.abortWin_within c
  have h1w : t1.wins = (s.abortWin c).wins := rfl
  clear_value t1
  have h2 : t1.within [.dies] t2 := .foldl (fun t k => t.abortDie_within c k) _ t1
  clear_value t2
  have h3 : t2.within [.cores] t3 := .foldl (fun t n => t.abortCoreQ_within c n) _ t2
  have h3c := t2.foldl_abortCoreQ c
  change ∀ n < 77, ∃ now, t3.core n = _ at h3c
  clear_value t3
  have h4 : t3.within [.dies] t4 := .foldl (fun t k => t.settleOps_within k) _ t3
  clear_value t4
  have h5 : t4.within [.ridges] ((List.range 64).foldl (fun t n => t.abortRidge c n) t4) :=
    .foldl (fun t n => (t.abortRidge_aborts c n).1) _ t4
  have h5r := (foldl_range_part State.ridge (fun t n => t.abortRidge c n) (fun _ => Ridge.AbortedTo c)
    (fun t i j h => (t.abortRidge_aborts c i).2.1 j h) (fun t n => (t.abortRidge_aborts c n).2.2) 64 t4).1
  generalize (List.range 64).foldl (fun t n => t.abortRidge c n) t4 = t5 at h5 h5r
  have hridge : ∀ n, t4.ridge n = s.ridge n := fun n => by
    rw [State.ridge, h4.ridges (by decide), h3.ridges (by decide), h2.ridges (by decide), h1.ridges (by decide), State.ridge]
  have hcore : ∀ n, t2.core n = s.core n := fun n => by
    rw [State.core, h2.cores (by decide), h1.cores (by decide), State.core]
  refine ⟨?_, ?_, fun n hn => hridge n ▸ h5r n hn, fun n hn => ?_⟩
  · exact ((((h1.mono (by decide)).then (by decide) h2).then (by decide) h3).then (by decide) h4).then (by decide) h5
  · rw [h5.wins (by decide), h4.wins (by decide), h3.wins (by decide), h2.wins (by decide), h1w]
  · obtain ⟨now, hnow⟩ := h3c n hn
    rw [hcore n] at hnow
    exact ⟨now, by rw [State.core, h5.cores (by decide), h4.cores (by decide)]; exact hnow⟩

theorem State.abortDma_part (c n : Nat) : (∀ m, m ≠ n → (s.abortDma c n).dma m = s.dma m) ∧
    ((s.abortDma c n).dma n).inq = notOf c (s.dma n).inq := by
  unfold State.abortDma
  extract_lets k k1
  split
  · exact ⟨fun m hm => s.dma_setDma_ne hm _, by rw [State.dma_setDma_same]⟩
  · split
    · exact ⟨fun m hm => s.dma_setDma_ne hm _, by rw [State.dma_setDma_same]; rfl⟩
    · exact ⟨fun m hm => s.dma_setDma_ne hm _, by rw [State.dma_setDma_same]⟩

/-- The areas of an abort without the step's. -/
abbrev ctxAreas : List Area := [.wins, .io, .out, .dies, .cores, .ridges, .dmas, .cfls, .treads, .stepm]

theorem State.abortBack_aborts (c : Nat) :
    s.within [.dmas, .cores, .cfls, .treads, .io, .stepm, .out] (s.abortBack c) ∧
    (s.abortBack c).stepm = { s.stepm with q := notOf c s.stepm.q } ∧
    (∀ n < 32, ((s.abortBack c).dma n).inq = notOf c (s.dma n).inq) ∧
    ∀ n < 77, (∃ q l, (s.abortBack c).core n = { s.core n with inq := q, pend := l } ∧ ∀ d ∈ q, d ∈ (s.core n).inq) ∧
      (n < 69 → (s.core n).ctx = c → (s.core n).busy = true → (s.core n).pend.length < 8 →
        ((s.abortBack c).core n).pend = (s.core n).pend ++ [causeWord 0 0 0 c 0x0E]) := by
  unfold State.abortBack
  extract_lets t1 t2 t3 m t4
  have h1 : s.within [.dmas] t1 := .foldl (fun t n => t.abortDma_within c n) _ s
  have h1d := (foldl_range_part State.dma (fun t n => t.abortDma c n) (fun _ k k' => k'.inq = notOf c k.inq)
    (fun t i j h => (t.abortDma_part c i).1 j h) (fun t n => (t.abortDma_part c n).2) 32 s).1
  change ∀ n < 32, (t1.dma n).inq = _ at h1d
  clear_value t1
  have h2 : t1.within [.cores, .cfls, .treads, .io] t2 := .foldl (fun t e => t.abortCfl_within c e) _ t1
  have h2s : t1.Shrunk t2 := t1.foldl_abortCfl c _
  clear_value t2
  have h3 : t2.within [.treads] t3 := .ite (fun _ => rfl) fun _ => .refl t2 _
  clear_value t3
  have h4 : t3.within [.stepm] t4 := rfl
  have h4m : t4.stepm = { t3.stepm with q := notOf c t3.stepm.q } := rfl
  clear_value t4
  have h5 : t4.within [.cores, .io, .out] ((List.range 77).foldl (fun t n => t.abortSignal c n) t4) :=
    .foldl (fun t n => t.abortSignal_within c n) _ t4
  have h5c := t4.foldl_abortSignal c
  generalize (List.range 77).foldl (fun t n => t.abortSignal c n) t4 = t5 at h5 h5c
  refine ⟨?_, ?_, fun n hn => ?_, fun n hn => ?_⟩
  · exact ((((h1.mono (by decide)).then (by decide) h2).then (by decide) h3).then (by decide) h4).then (by decide) h5
  · rw [h5.stepm (by decide), h4m, h3.stepm (by decide), h2.stepm (by decide), h1.stepm (by decide)]
  · rw [← h1d n hn, State.dma, h5.dmas (by decide), h4.dmas (by decide), h3.dmas (by decide), h2.dmas (by decide), State.dma]
  · have hcore : t4.core n = t2.core n := by
      rw [State.core, h4.cores (by decide), h3.cores (by decide), State.core]
    have hcore1 : t1.core n = s.core n := by rw [State.core, h1.cores (by decide), State.core]
    obtain ⟨q, hq, hin⟩ := h2s n
    rw [hcore1] at hq hin
    obtain ⟨⟨l, hl⟩, hp⟩ := h5c n hn
    rw [hcore, hq] at hl hp
    exact ⟨⟨q, l, hl, hin⟩, hp⟩

/-- What an abort of context `c` comes to, before that of the step. -/
theorem State.abortBody_aborts (c : Nat) :
    s.within ctxAreas ((s.abortFront c).abortBack c) ∧ ((s.abortFront c).abortBack c).wins = (s.abortWin c).wins ∧
    ((s.abortFront c).abortBack c).stepm = { s.stepm with q := notOf c s.stepm.q } ∧
    (∀ n < 64, Ridge.AbortedTo c (s.ridge n) (((s.abortFront c).abortBack c).ridge n)) ∧
    (∀ n < 32, (((s.abortFront c).abortBack c).dma n).inq = notOf c (s.dma n).inq) ∧
    (∀ n < 77, Core.AbortedTo c (s.core n) (((s.abortFront c).abortBack c).core n)) ∧
    ∀ n < 69, (s.core n).ctx = c → (s.core n).busy = true → (s.core n).pend.length < 8 →
      (((s.abortFront c).abortBack c).core n).pend = (s.core n).pend ++ [causeWord 0 0 0 c 0x0E] := by
  obtain ⟨h1, h1w, h1r, h1c⟩ := s.abortFront_aborts c
  generalize s.abortFront c = t at h1 h1w h1r h1c ⊢
  obtain ⟨h2, h2m, h2d, h2c⟩ := t.abortBack_aborts c
  generalize t.abortBack c = u at h2 h2m h2d h2c ⊢
  refine ⟨(h1.mono (by decide)).then (by decide) h2, (h2.wins (by decide)).trans h1w, ?_, fun n hn => ?_, fun n hn => ?_, fun n hn => ?_,
    fun n hn hctx hbusy hlen => ?_⟩
  · rw [h2m, h1.stepm (by decide)]
  · have hru : u.ridge n = t.ridge n := by rw [State.ridge, h2.ridges (by decide), State.ridge]
    rw [hru]
    exact h1r n hn
  · rw [h2d n hn, State.dma, h1.dmas (by decide), State.dma]
  · obtain ⟨now, hnow⟩ := h1c n hn
    obtain ⟨⟨q, l, hq, hin⟩, _⟩ := h2c n hn
    obtain ⟨htrap, hctx, -, hinq, -⟩ := (s.core n).loseDesc_kept c now
    rw [hnow] at hq hin
    refine ⟨now, ?_, ?_, ?_, ?_, fun d hd => ?_⟩
    · rw [hq]
    · rw [hq]
    · rw [hq]
      exact htrap
    · rw [hq]
      exact hctx
    · rw [hq] at hd
      have := mem_notOf.mp (hin d hd)
      rwa [hinq] at this
  · obtain ⟨now, hnow⟩ := h1c n (by omega)
    obtain ⟨_, hp⟩ := h2c n (by omega)
    obtain ⟨-, hctx', hpend, -, hbusy'⟩ := (s.core n).loseDesc_kept c now
    rw [hnow] at hp
    have := hp hn (hctx'.trans hctx) (hbusy' hbusy) (by rw [hpend]; exact hlen)
    rwa [hpend] at this

end

end Sys2Proof.Machine
end

section
/-! PROOF. Context aborts and op limits (R414, R416, R422). -/
namespace Sys2Proof.Machine

section
variable (s : State) (c : Nat)

/-! ### The abort of a context (R416) -/

/-- What an abort of context `c`, with its step's, comes to. -/
theorem State.abortCtx_released : ((s.abortFront c).abortBack c).Released (s.abortCtx c) := by
  rw [s.abortCtx_eq]
  split
  · exact State.stepAbort_released _ _
  · exact .of_eq rfl rfl rfl

theorem State.abortCtx_within : s.within (.mgmt :: (abortAreas ++ ctxAreas)) (s.abortCtx c) := by
  obtain ⟨h, -⟩ := s.abortBody_aborts c
  rw [s.abortCtx_eq]
  exact .ite (fun _ => (h.mono (by decide)).then (by decide) (State.stepAbort_within _ _)) fun _ => h.mono (by decide)

/-- Ridges and channels are as the abort of the context leaves them. -/
theorem State.abortCtx_engines : (s.abortCtx c).ridges = ((s.abortFront c).abortBack c).ridges ∧
    (s.abortCtx c).dmas = ((s.abortFront c).abortBack c).dmas := by
  rw [s.abortCtx_eq]
  split
  · exact ⟨(State.stepAbort_within _ _).ridges (by decide), (State.stepAbort_within _ _).dmas (by decide)⟩
  · exact ⟨rfl, rfl⟩

theorem State.abortCtx_win : ((s.win c).st ≠ .disabled → ((s.abortCtx c).win c).st = .faulted) ∧
    ((s.win c).st ≠ .disabled → (s.win c).st ≠ .faulted → ((s.abortCtx c).win c).reason = 0x08) := by
  obtain ⟨-, hw, -⟩ := s.abortBody_aborts c
  obtain ⟨-, hrel, -⟩ := s.abortCtx_released c
  obtain ⟨h1, h2, -⟩ := s.abortWin_faults c
  have hwin : ((s.abortFront c).abortBack c).win c = (s.abortWin c).win c := by rw [State.win, hw, State.win]
  refine ⟨fun hd => ?_, fun hd hf => ?_⟩
  · rw [(hrel c).1, hwin, h1 hd]
  · rw [(hrel c).2, hwin, h2 hd hf]

theorem State.abortCtx_core {n : Nat} (hn : n < 77) : Core.AbortedTo c (s.core n) ((s.abortCtx c).core n) := by
  obtain ⟨-, -, -, -, -, hcore, -⟩ := s.abortBody_aborts c
  obtain ⟨hrel, -⟩ := s.abortCtx_released c
  have hbody := hcore n hn
  obtain ⟨b, hb⟩ := hrel n
  generalize ((s.abortFront c).abortBack c).core n = k at hbody hb
  rw [hb]
  exact hbody

theorem State.abortCtx_pend {n : Nat} (hn : n < 69) (hctx : (s.core n).ctx = c) (hbusy : (s.core n).busy = true)
    (hlen : (s.core n).pend.length < 8) : ((s.abortCtx c).core n).pend = (s.core n).pend ++ [causeWord 0 0 0 c 0x0E] := by
  obtain ⟨-, -, -, -, -, -, hpend⟩ := s.abortBody_aborts c
  obtain ⟨hrel, -⟩ := s.abortCtx_released c
  have hbody := hpend n hn hctx hbusy hlen
  obtain ⟨b, hb⟩ := hrel n
  generalize ((s.abortFront c).abortBack c).core n = k at hbody hb
  rw [hb]
  exact hbody

theorem State.abortCtx_ridge {n : Nat} (hn : n < 64) : Ridge.AbortedTo c (s.ridge n) ((s.abortCtx c).ridge n) := by
  obtain ⟨-, -, -, hridge, -⟩ := s.abortBody_aborts c
  have heq : (s.abortCtx c).ridge n = ((s.abortFront c).abortBack c).ridge n := by
    rw [State.ridge, (s.abortCtx_engines c).1, State.ridge]
  rw [heq]
  exact hridge n hn

theorem State.abortCtx_dma {n : Nat} (hn : n < 32) : ((s.abortCtx c).dma n).inq = notOf c (s.dma n).inq := by
  obtain ⟨-, -, -, -, hdma, -⟩ := s.abortBody_aborts c
  rw [State.dma, (s.abortCtx_engines c).2, ← State.dma, hdma n hn]

theorem State.abortCtx_queue : (s.abortCtx c).stepm.q = notOf c s.stepm.q := by
  obtain ⟨-, -, hq, -⟩ := s.abortBody_aborts c
  rw [(s.abortCtx_released c).2.2, hq]

/-- A context that is not the step's takes nothing but its own with it. -/
theorem State.abortCtx_apart (hstep : s.stepCtx c = false) : (∀ w, w ≠ c → (s.abortCtx c).win w = s.win w) ∧
    (s.abortCtx c).tallies = s.tallies ∧ (s.abortCtx c).mem = s.mem ∧ ∀ j, (s.abortCtx c).slot j = s.slot j := by
  obtain ⟨h, hw, hq, -⟩ := s.abortBody_aborts c
  obtain ⟨-, -, -, h4⟩ := s.abortWin_faults c
  rw [s.abortCtx_eq, hstep, if_neg (by decide)]
  generalize (s.abortFront c).abortBack c = u at h hw hq ⊢
  refine ⟨fun w hne => ?_, h.tallies (by decide), h.mem (by decide), fun j => ?_⟩
  · rw [State.win, hw, ← State.win, h4 w hne]
  · rw [State.slot, hq]
    rfl

theorem State.stepCtx_eq : s.stepCtx c = ((s.stepm.s0.abortable || s.stepm.s0.committing) && s.stepm.s0.ctx == c ||
    (s.stepm.s1.abortable || s.stepm.s1.committing) && s.stepm.s1.ctx == c) := rfl

/-- The step of the context aborts (R391). -/
theorem State.abortCtx_step (habort : s.stepm.s0.abortable = true) (hctx : s.stepm.s0.ctx = c) :
    (s.abortCtx c).Aborts 0 4 := by
  obtain ⟨-, -, hq, -⟩ := s.abortBody_aborts c
  have hstep : s.stepCtx c = true := by
    rw [s.stepCtx_eq, habort, hctx, beq_self_eq_true]
    rfl
  rw [s.abortCtx_eq, hstep, if_pos rfl]
  generalize (s.abortFront c).abortBack c = u at hq ⊢
  have hu : u.stepm.s0.abortable = true := by
    rw [hq]
    exact habort
  rw [State.stepAbort, if_pos hu]
  exact u.abortSlot_aborts (by decide) (by decide) _ _

end

/-! ### CONTEXT_ABORT (R416, R422) -/

section
variable {s : State} {v : W32}

theorem State.contextAbort_foreign {q : Fin 4} (h : s.partCount ≤ q.val ∨ s.partOfCtx (fld v 21 16) ≠ q.val) :
    exec (.contextAbort (some q) v) s = .next s := by
  have hexec : exec (.contextAbort (some q) v) s = execContextAbort (some q) v s := rfl
  have hforeign : s.foreign (some q) (fld v 21 16) = true := by
    rw [State.foreign, Option.any_some, Bool.or_eq_true, decide_eq_true_eq, bne_iff_ne]
    exact h
  rw [hexec, execContextAbort]
  dsimp only
  rw [hforeign, if_pos (Bool.or_true _)]

theorem State.contextAbort_own {q : Fin 4} (h : q.val < s.partCount) (hq : s.partOfCtx (fld v 21 16) = q.val) :
    exec (.contextAbort (some q) v) s = exec (.contextAbort none v) s := by
  have hexec : ∀ part, exec (.contextAbort part v) s = execContextAbort part v s := fun _ => rfl
  have hforeign : s.foreign (some q) (fld v 21 16) = s.foreign none (fld v 21 16) := by
    rw [State.foreign, Option.any_some, decide_eq_false (Nat.not_le.mpr h), hq, bne_self_eq_false]
    rfl
  rw [hexec, hexec, execContextAbort, execContextAbort]
  dsimp only
  rw [hforeign]

theorem State.foreign_none (c : Nat) : s.foreign none c = false := rfl

theorem State.contextAbort_busy (hready : s.ready = true) (hbusy : s.abortBusy = true) :
    ∃ t, exec (.contextAbort none v) s = .next t ∧ t = { s with io := t.io, out := t.out } := by
  have hexec : exec (.contextAbort none v) s = execContextAbort none v s := rfl
  rw [execContextAbort] at hexec
  dsimp only at hexec
  rw [hready, s.foreign_none, if_neg (by decide), hbusy, if_pos rfl] at hexec
  refine ⟨_, hexec, ?_⟩
  have hw : ∀ x, s.within [.io, .out] ((s.storeBits .cwn 0x008 x).irqUpdate .cwn) := fun x =>
    ((s.storeBits_within _ _ _).mono (by decide)).trans ((State.irqUpdate_within _ _).mono (by decide))
  exact hw _

theorem State.contextAbort_eq (hready : s.ready = true) (hbusy : s.abortBusy = false) : ∃ u, s.within [.io, .out] u ∧
    exec (.contextAbort none v) s = .next { u.abortCtx (fld v 21 16) with
      lad := { (u.abortCtx (fld v 21 16)).lad with aborting := (u.abortCtx (fld v 21 16)).opsOf (fld v 21 16) } } := by
  have hexec : exec (.contextAbort none v) s = execContextAbort none v s := rfl
  rw [execContextAbort] at hexec
  dsimp only at hexec
  rw [hready, s.foreign_none, if_neg (by decide), hbusy, if_neg (by decide)] at hexec
  exact ⟨_, ((s.storeBits_within _ _ _).mono (by decide)).trans ((State.irqUpdate_within _ _).mono (by decide)), hexec⟩

theorem State.contextAbort_aborts (hready : s.ready = true) (hbusy : s.abortBusy = false) :
    ∃ t, exec (.contextAbort none v) s = .next t ∧
      ((s.win (fld v 21 16)).st ≠ .disabled → (t.win (fld v 21 16)).st = .faulted) ∧
      ((s.win (fld v 21 16)).st ≠ .disabled → (s.win (fld v 21 16)).st ≠ .faulted → (t.win (fld v 21 16)).reason = 0x08) ∧
      (∀ n < 77, ∀ d ∈ (t.core n).inq, d.ctx ≠ fld v 21 16) ∧
      (∀ n < 64, ∀ d ∈ (t.ridge n).tileIn ++ (t.ridge n).brookIn ++ (t.ridge n).fetchIn, d.ctx ≠ fld v 21 16) ∧
      (∀ n < 32, ∀ d ∈ (t.dma n).inq, d.ctx ≠ fld v 21 16) ∧ (∀ d ∈ t.stepm.q, d.ctx ≠ fld v 21 16) ∧
      (∀ n < 69, (s.core n).ctx = fld v 21 16 → (s.core n).busy = true → (s.core n).pend.length < 8 →
        (t.core n).pend = (s.core n).pend ++ [causeWord 0 0 0 (fld v 21 16) 0x0E]) ∧
      (s.stepCtx (fld v 21 16) = false → (∀ w, w ≠ fld v 21 16 → t.win w = s.win w) ∧ t.tallies = s.tallies ∧ t.mem = s.mem ∧
        t.slot 0 = s.slot 0 ∧ t.slot 1 = s.slot 1) ∧
      (s.stepm.s0.abortable = true → s.stepm.s0.ctx = fld v 21 16 → (t.slot 0).st = .aborted ∧ t.field .step 0x12C 23 16 = 4) := by
  obtain ⟨u, hu, hexec⟩ := State.contextAbort_eq (v := v) hready hbusy
  generalize fld v 21 16 = c at hexec ⊢
  have hwin := u.abortCtx_win c
  have hcore := fun {n : Nat} => u.abortCtx_core c (n := n)
  have hpend := fun {n : Nat} => u.abortCtx_pend c (n := n)
  have hridge := fun {n : Nat} => u.abortCtx_ridge c (n := n)
  have hdma := fun {n : Nat} => u.abortCtx_dma c (n := n)
  have hqueue := u.abortCtx_queue c
  have hapart := u.abortCtx_apart c
  have hstep := u.abortCtx_step c
  generalize u.abortCtx c = t at hexec hwin hcore hpend hridge hdma hqueue hapart hstep
  have hwins : ∀ w, u.win w = s.win w := fun w => by rw [State.win, hu.wins (by decide), State.win]
  have hcores : ∀ n, u.core n = s.core n := fun n => by rw [State.core, hu.cores (by decide), State.core]
  have hstepm : u.stepm = s.stepm := hu.stepm (by decide)
  rw [hwins] at hwin
  refine ⟨_, hexec, hwin.1, hwin.2, fun n hn d hd => ?_, fun n hn d hd => ?_, fun n hn d hd => ?_, fun d hd => ?_,
    fun n hn hctx hb hlen => ?_, fun hs => ?_, fun ha hc => ?_⟩
  · obtain ⟨-, -, -, -, -, h⟩ := hcore hn
    exact (h d hd).2
  · obtain ⟨f, hf, -⟩ := hridge hn
    have hall : ∀ x ∈ (t.ridge n).tileIn ++ (t.ridge n).brookIn ++ (t.ridge n).fetchIn, x.ctx ≠ c := fun x hx => by
      rw [hf] at hx
      rcases List.mem_append.mp hx with hx | hx
      · rcases List.mem_append.mp hx with hx | hx
        · exact (mem_notOf.mp hx).2
        · exact (mem_notOf.mp hx).2
      · exact (mem_notOf.mp hx).2
    exact hall d hd
  · have hd' : d ∈ (t.dma n).inq := hd
    rw [hdma hn] at hd'
    exact (mem_notOf.mp hd').2
  · have hd' : d ∈ t.stepm.q := hd
    rw [hqueue] at hd'
    exact (mem_notOf.mp hd').2
  · rw [← hcores n] at hctx hb hlen ⊢
    exact hpend hn hctx hb hlen
  · have hs' : u.stepCtx c = false := by rw [State.stepCtx, hstepm]; exact hs
    obtain ⟨h1, h2, h3, h4⟩ := hapart hs'
    have hslot : ∀ j, u.slot j = s.slot j := fun j => by rw [State.slot, hstepm, State.slot]
    exact ⟨fun w hne => (h1 w hne).trans (hwins w), h2.trans (hu.tallies (by decide)), h3.trans (hu.mem (by decide)),
      (h4 0).trans (hslot 0), (h4 1).trans (hslot 1)⟩
  · rw [← hstepm] at ha hc
    obtain ⟨h1, h2, -⟩ := hstep ha hc
    exact ⟨h1, h2⟩

/-! ### Op limits (R414) -/

theorem State.opTimeout_disabled {r : Fin 64} {kd : OpKind} {i : Fin 64} (hlim : s.field (.rdg r.val) 0x008 27 16 * 65536 = 0) :
    exec (.opTimeout r kd i) s = .next s := by
  have hexec : exec (.opTimeout r kd i) s = execOpTimeout r kd i s := rfl
  rw [hexec, execOpTimeout]
  dsimp only
  rw [hlim] <;> rfl

/-- Taking a Brook or fetch op out of its Ridge changes that Ridge alone. -/
theorem State.opAt_ridges {n : Nat} {kd : OpKind} {i c : Nat} {since : W64} {u : State} (hop : s.opAt n kd i = some (c, since, u))
    (hkd : kd ≠ .tile) : s.within [.ridges] u := by
  cases kd with
  | tile => exact absurd rfl hkd
  | brook =>
    obtain ⟨o, _, ho⟩ := Option.map_eq_some_iff.mp hop
    obtain ⟨-, -, rfl⟩ : _ ∧ _ ∧ _ = u := by simpa only [Prod.mk.injEq] using ho
    rfl
  | fetch =>
    obtain ⟨o, _, ho⟩ := Option.map_eq_some_iff.mp hop
    obtain ⟨-, -, rfl⟩ : _ ∧ _ ∧ _ = u := by simpa only [Prod.mk.injEq] using ho
    rfl

theorem State.opAt_brook {n i c : Nat} {since : W64} {u : State} (hop : s.opAt n .brook i = some (c, since, u)) {o : BrookOp}
    (ho : (s.ridge n).brookOps[i]? = some o) : ∀ x ∈ (u.ridge n).brookOps, x.id ≠ o.id := by
  obtain ⟨o', ho', heq⟩ := Option.map_eq_some_iff.mp hop
  obtain rfl := Option.some.inj (ho'.symm.trans ho)
  obtain ⟨-, -, hu⟩ : _ ∧ _ ∧ _ = u := by simpa only [Prod.mk.injEq] using heq
  rw [← hu, State.ridge_setRidge_same]
  exact fun x hx => bne_iff_ne.mp (List.mem_filter.mp hx).2

theorem State.opTimeout_eq {r : Fin 64} {kd : OpKind} {i : Fin 64} (hlim : s.field (.rdg r.val) 0x008 27 16 * 65536 ≠ 0) {c : Nat}
    {since : W64} {u : State} (hop : s.opAt r.val kd i.val = some (c, since, u)) : ∃ w, u.within [.io, .refcnt] w ∧
    exec (.opTimeout r kd i) s = .next (((w.setRidge r.val { w.ridge r.val with opHung := true }).abortCtx c).stepAbort 0x04) := by
  have hexec : exec (.opTimeout r kd i) s = execOpTimeout r kd i s := rfl
  rw [execOpTimeout] at hexec
  dsimp only at hexec
  rw [decide_eq_false hlim, hop] at hexec
  exact ⟨_, u.advance_within since _, hexec⟩

theorem State.opTimeout_ends {r : Fin 64} {kd : OpKind} {i : Fin 64} (hlim : s.field (.rdg r.val) 0x008 27 16 * 65536 ≠ 0) {c : Nat}
    {since : W64} {u : State} (hop : s.opAt r.val kd i.val = some (c, since, u)) : ∃ t, exec (.opTimeout r kd i) s = .next t ∧
      (t.ridge r.val).opHung = true ∧ ((u.win c).st ≠ .disabled → (t.win c).st = .faulted) ∧
      (∀ o, kd = .brook → (s.ridge r.val).brookOps[i.val]? = some o → ∀ x ∈ (t.ridge r.val).brookOps, x.id ≠ o.id) ∧
      (kd ≠ .tile → s.stepm.s0.abortable = false → s.stepm.s0.committing = false → s.stepm.s1.abortable = false →
        s.stepm.s1.committing = false → t.tallies = s.tallies ∧ t.mem = s.mem) := by
  obtain ⟨w, hw, hexec⟩ := State.opTimeout_eq hlim hop
  have hset := w.ridge_setRidge_same r.val { w.ridge r.val with opHung := true }
  have hsetw : w.within [.ridges] (w.setRidge r.val { w.ridge r.val with opHung := true }) := rfl
  generalize w.setRidge r.val { w.ridge r.val with opHung := true } = x at hexec hset hsetw
  obtain ⟨hwin, -⟩ := x.abortCtx_win c
  obtain ⟨f, hf, -⟩ := x.abortCtx_ridge c r.isLt
  have hapart := x.abortCtx_apart c
  generalize x.abortCtx c = y at hexec hwin hf hapart
  have hy := y.stepAbort_within 0x04
  obtain ⟨-, hyw, -⟩ := y.stepAbort_released 0x04
  have hridge : (y.stepAbort 0x04).ridge r.val = y.ridge r.val := by rw [State.ridge, hy.ridges (by decide), State.ridge]
  have hux : ∀ v, x.win v = u.win v := fun v => by
    rw [State.win, hsetw.wins (by decide), hw.wins (by decide), State.win]
  have hwu : w.ridge r.val = u.ridge r.val := by rw [State.ridge, hw.ridges (by decide), State.ridge]
  rw [hux] at hwin
  refine ⟨_, hexec, ?_, fun hd => ?_, fun o hkd ho => ?_, fun hkd h0a h0c h1a h1c => ?_⟩
  · rw [hridge, hf, hset]
  · rw [(hyw c).1, hwin hd]
  · subst hkd
    rw [hridge, hf, hset, hwu]
    exact State.opAt_brook hop ho
  · have hu := State.opAt_ridges hop hkd
    have hx : x.stepm = s.stepm := by rw [hsetw.stepm (by decide), hw.stepm (by decide), hu.stepm (by decide)]
    have hctx : x.stepCtx c = false := by
      rw [x.stepCtx_eq, hx, h0a, h0c, h1a, h1c]
      rfl
    obtain ⟨-, ht, hm, hs⟩ := hapart hctx
    have hslots : y.stepm.s0 = s.stepm.s0 ∧ y.stepm.s1 = s.stepm.s1 :=
      ⟨(hs 0).trans (congrArg StepM.s0 hx), (hs 1).trans (congrArg StepM.s1 hx)⟩
    have hnone : y.stepAbort 0x04 = y := by
      rw [State.stepAbort, hslots.1, hslots.2, h0a, h0c, h1a, h1c]
      rfl
    rw [hnone]
    refine ⟨?_, ?_⟩
    · rw [ht, hsetw.tallies (by decide), hw.tallies (by decide), hu.tallies (by decide)]
    · rw [hm, hsetw.mem (by decide), hw.mem (by decide), hu.mem (by decide)]

end

end Sys2Proof.Machine
end

section
/-! PROOF. Settles O42. -/
namespace Sys2Proof.Machine

/-- Settles O42. -/
theorem contextsAbort : Obligations.ContextsAbort := by
  unfold Obligations.ContextsAbort
  intro s v r kd i
  exact ⟨fun q => State.contextAbort_foreign, fun q => State.contextAbort_own, State.contextAbort_busy, State.contextAbort_aborts,
    State.opTimeout_disabled, fun hlim c since u => State.opTimeout_ends hlim⟩

end Sys2Proof.Machine
end

section
/-! PROOF. A partition's quiesce can leave a Ridge's sequencer running (R417, R418): a sequencer that was stopped in its handler,
and still holds the descriptor of an `ISSUE`, goes on when that descriptor's context is aborted on behalf of a later Ridge. -/
namespace Sys2Proof.Machine

/-! ### The state -/

/-- A descriptor of a context that no partition has. -/
def strayDesc : Desc := { words := [], ctx := 64, src := .device }

/-- The sequencer of Ridge 0 is stopped in its handler and holds the descriptor; Ridge 1 has it in its tile queue. -/
def heldState : State :=
  { plat := { held := false }, io := { regs := [(0x8100, 0x80080800#32)] }
    cores := [(5, { inTrap := true, heldDesc := some strayDesc })], ridges := [(1, { tileIn := [strayDesc] })] }

/-- Ridge 0 works for no context, its sequencer holds the descriptor, and Ridge 1 has it in its queue. -/
abbrev State.Stray (s : State) : Prop :=
  ((s.core 5).st = .stopped ∧ (s.core 5).heldDesc = some strayDesc ∧ (s.core 5).inTrap = true ∧ (s.core 5).inq = []) ∧
  ((s.ridge 0).tileIn = [] ∧ (s.ridge 0).brookIn = [] ∧ (s.ridge 0).fetchIn = [] ∧ (s.ridge 0).tileOps = [] ∧
    (s.ridge 0).brookOps = [] ∧ (s.ridge 0).fetchOps = []) ∧
  (s.ridge 1).tileIn = [strayDesc] ∧ s.checks = []

/-- The sequencer of Ridge 0 runs. -/
abbrev State.Loose (s : State) : Prop := (s.core 5).st = .running ∧ s.checks = []

section
variable {s : State}

/-! ### Contexts that are aborted -/

theorem State.abortCtx_checks (s : State) (c : Nat) : (s.abortCtx c).checks = s.checks := (s.abortCtx_within c).checks (by decide)

theorem Core.loseDesc_other {k : Core} {c : Nat} (h : k.heldDesc = some strayDesc) (hc : c ≠ 64) (now : W64) : k.loseDesc c now = k := by
  unfold Core.loseDesc
  have hne : ¬ (strayDesc.ctx == c) = true := fun hd => hc (beq_iff_eq.mp hd).symm
  rw [h, Option.any_some, if_neg hne]

theorem State.Stray.abortCtx (h : s.Stray) {c : Nat} (hc : c ≠ 64) : (s.abortCtx c).Stray := by
  obtain ⟨⟨hst, hheld, htrap, hinq⟩, ⟨h1, h2, h3, h4, h5, h6⟩, htile, hchecks⟩ := h
  obtain ⟨now, kst, kheld, ktrap, -, kinq⟩ := s.abortCtx_core c (n := 5) (by decide)
  rw [Core.loseDesc_other hheld hc] at kst kheld
  obtain ⟨f, hf, hf0⟩ := s.abortCtx_ridge c (n := 0) (by decide)
  obtain ⟨g, hg, -⟩ := s.abortCtx_ridge c (n := 1) (by decide)
  refine ⟨⟨kst.trans hst, kheld.trans hheld, ktrap.trans htrap, ?_⟩, ?_, ?_, (s.abortCtx_checks c).trans hchecks⟩
  · exact List.eq_nil_iff_forall_not_mem.mpr fun d hd => absurd (hinq ▸ (kinq d hd).1) List.not_mem_nil
  · rw [hf]
    exact ⟨by rw [h1]; rfl, by rw [h2]; rfl, by rw [h3]; rfl, h4, h5, hf0 h6⟩
  · rw [hg]
    dsimp only
    have hne : (strayDesc.ctx != c) = true := bne_iff_ne.mpr (Ne.symm hc)
    rw [htile]
    exact List.filter_eq_self.mpr fun d hd => (List.mem_singleton.mp hd) ▸ hne

theorem State.Stray.foldl_abortCtx {cs : List Nat} (hcs : ∀ c ∈ cs, c ≠ 64) (h : s.Stray) : (cs.foldl State.abortCtx s).Stray := by
  induction cs generalizing s with
  | nil => exact h
  | cons c cs ih => exact ih (fun x hx => hcs x (List.mem_cons_of_mem _ hx)) (h.abortCtx (hcs c List.mem_cons_self))

theorem Core.loseDesc_running {k : Core} (h : k.st = .running) (c : Nat) (now : W64) : (k.loseDesc c now).st = .running := by
  unfold Core.loseDesc
  split
  · split
    · rfl
    · exact h
  · exact h

theorem State.Loose.abortCtx (h : s.Loose) (c : Nat) : (s.abortCtx c).Loose := by
  obtain ⟨now, kst, -⟩ := s.abortCtx_core c (n := 5) (by decide)
  exact ⟨kst.trans (Core.loseDesc_running h.1 c now), (s.abortCtx_checks c).trans h.2⟩

theorem State.Loose.foldl_abortCtx (cs : List Nat) (h : s.Loose) : (cs.foldl State.abortCtx s).Loose := by
  induction cs generalizing s with
  | nil => exact h
  | cons c cs ih => exact ih (h.abortCtx c)

/-- The abort of the stray descriptor's context ends the wait of the sequencer, which goes on in its handler. -/
theorem State.Stray.abortCtx_loose (h : s.Stray) : (s.abortCtx 64).Loose := by
  obtain ⟨⟨-, hheld, htrap, -⟩, -, -, hchecks⟩ := h
  obtain ⟨now, kst, -⟩ := s.abortCtx_core 64 (n := 5) (by decide)
  refine ⟨kst.trans ?_, (s.abortCtx_checks 64).trans hchecks⟩
  unfold Core.loseDesc
  rw [hheld, Option.any_some, if_pos (by decide), htrap, if_pos rfl]
  rfl

theorem State.Stray.foldl_abortCtx_loose {cs : List Nat} (hcs : 64 ∈ cs) (h : s.Stray) : (cs.foldl State.abortCtx s).Loose := by
  induction cs generalizing s with
  | nil => exact absurd hcs List.not_mem_nil
  | cons c cs ih =>
    by_cases hc : c = 64
    · subst hc
      exact h.abortCtx_loose.foldl_abortCtx cs
    · exact ih ((List.mem_cons.mp hcs).resolve_left (Ne.symm hc)) (h.abortCtx hc)

/-! ### Ridges that are quiesced -/

theorem mem_ctxSet {l : List Nat} {c : Nat} : c ∈ ctxSet l ↔ c ∈ l := by
  have hfold : ∀ (l : List Nat) (m : NatSet), (l.foldl (fun m c => NatSet.add c m) m).has c = (decide (c ∈ l) || m.has c) := fun l => by
    induction l with
    | nil => exact fun m => by simp
    | cons x l ih =>
      intro m
      rw [List.foldl_cons, ih, NatSet.has_add]
      simp only [List.mem_cons, Bool.decide_or]
      cases decide (c = x) <;> cases decide (c ∈ l) <;> rfl
  have h := hfold l []
  rw [NatSet.has, List.contains_eq_mem] at h
  have hnil : NatSet.has [] c = false := rfl
  rw [hnil, Bool.or_false] at h
  exact ⟨fun hc => decide_eq_true_eq.mp (h.symm.trans (decide_eq_true hc)), fun hc => decide_eq_true_eq.mp (h.trans (decide_eq_true hc))⟩

theorem State.runStop_core_ne (s : State) {n i : Nat} (h : i ≠ n) : (s.runStop n).core i = s.core i := by
  unfold State.runStop
  extract_lets k
  split
  · exact s.core_setCore_ne h _
  · exact s.core_setCore_ne h _
  · exact s.core_setCore_ne h _
  · exact s.core_setCore_ne h _

theorem State.runStop_within (s : State) (n : Nat) : s.within [.cores] (s.runStop n) := by
  unfold State.runStop
  extract_lets k
  split <;> rfl

theorem State.quiesceChecks_none (h : s.checks = []) (n : Nat) : s.quiesceChecks n = s := by
  rw [State.quiesceChecks, h]
  rfl

/-- Ridge 0, which works for no context, takes nothing from its sequencer. -/
theorem State.Stray.quiesceRidge (h : s.Stray) : (s.quiesceRidge 0).Stray := by
  have hnone : s.ridgeCtxs 0 = [] := by
    obtain ⟨⟨hst, -, -, hinq⟩, ⟨h1, h2, h3, h4, h5, h6⟩, -⟩ := h
    have hbusy : (s.core (5 + 0)).busy = false := by
      rw [Core.busy, hst]
      rfl
    unfold State.ridgeCtxs
    dsimp only
    rw [hbusy, hinq, h1, h2, h3, h4, h5, h6]
    rfl
  unfold State.quiesceRidge
  rw [hnone, List.foldl_nil]
  dsimp only
  obtain ⟨⟨hst, hheld, htrap, hinq⟩, ⟨h1, h2, h3, h4, h5, h6⟩, htile, hchecks⟩ := h
  rw [State.quiesceChecks_none hchecks]
  have hstop : s.runStop 5 = s.setCore 5 { s.core 5 with st := .stopped } := by
    rw [State.runStop, hst] <;> rfl
  have hcore := s.core_setCore_same 5 { s.core 5 with st := .stopped }
  rw [show 5 + 0 = 5 from rfl, hstop]
  have hridge : ∀ n, (s.setCore 5 { s.core 5 with st := .stopped }).ridge n = s.ridge n := fun n => rfl
  have hcheck : (s.setCore 5 { s.core 5 with st := .stopped }).checks = s.checks := rfl
  generalize s.setCore 5 { s.core 5 with st := .stopped } = t at hcore hridge hcheck ⊢
  have hset := t.ridge_setRidge_same 0 { t.ridge 0 with quiescing := true, opHung := false }
  have hsetne := fun n (hn : n ≠ 0) => t.ridge_setRidge_ne hn { t.ridge 0 with quiescing := true, opHung := false }
  have hsetc : ∀ n, (t.setRidge 0 { t.ridge 0 with quiescing := true, opHung := false }).core n = t.core n := fun n => rfl
  have hsetk : (t.setRidge 0 { t.ridge 0 with quiescing := true, opHung := false }).checks = t.checks := rfl
  generalize t.setRidge 0 { t.ridge 0 with quiescing := true, opHung := false } = u at hset hsetne hsetc hsetk ⊢
  have hend : ∀ lad b, State.Stray (State.setFlag { u with lad := lad } (.rdg 0) 0x008 31 b) ↔ u.Stray := fun lad b => Iff.rfl
  refine (hend _ _).mpr ⟨?_, ?_, ?_, ?_⟩
  · rw [hsetc, hcore]
    exact ⟨rfl, hheld, htrap, hinq⟩
  · rw [hset, hridge]
    exact ⟨h1, h2, h3, h4, h5, h6⟩
  · rw [hsetne 1 (by decide), hridge, htile]
  · rw [hsetk, hcheck, hchecks]

/-- What follows the aborts of a Ridge's quiesce touches its own sequencer alone. -/
theorem State.Loose.quiesceRidge_of {n : Nat} (hn : n ≠ 0) (h : ((s.ridgeCtxs n).foldl State.abortCtx s).Loose) :
    (s.quiesceRidge n).Loose := by
  unfold State.quiesceRidge
  dsimp only
  generalize (s.ridgeCtxs n).foldl State.abortCtx s = t at h ⊢
  rw [State.quiesceChecks_none h.2]
  have hcore := t.runStop_core_ne (n := 5 + n) (i := 5) (by omega)
  have hchecks := (t.runStop_within (5 + n)).checks (by decide)
  generalize t.runStop (5 + n) = u at hcore hchecks ⊢
  have hend : ∀ r lad b, State.Loose (State.setFlag { u.setRidge n r with lad := lad } (.rdg n) 0x008 31 b) ↔ u.Loose :=
    fun r lad b => Iff.rfl
  refine (hend _ _ _).mpr ⟨?_, hchecks.trans h.2⟩
  rw [hcore, h.1]

/-- Ridge 1 has its context aborted. -/
theorem State.Stray.quiesceRidge_loose (h : s.Stray) : (s.quiesceRidge 1).Loose := by
  refine State.Loose.quiesceRidge_of (by decide) (h.foldl_abortCtx_loose (mem_ctxSet.mpr ?_))
  obtain ⟨-, -, htile, -⟩ := h
  rw [htile]
  simp [strayDesc]

theorem State.Loose.quiesceRidge (h : s.Loose) {n : Nat} (hn : n ≠ 0) : (s.quiesceRidge n).Loose :=
  .quiesceRidge_of hn (h.foldl_abortCtx _)

/-! ### What follows the Ridges -/

theorem State.Loose.foldl {α : Type} {f : State → α → State} (xs : List α) (hf : ∀ (t : State), ∀ x ∈ xs, t.Loose → (f t x).Loose)
    (h : s.Loose) : (xs.foldl f s).Loose := by
  induction xs generalizing s with
  | nil => exact h
  | cons x xs ih => exact ih (fun t y hy => hf t y (List.mem_cons_of_mem _ hy)) (hf s x List.mem_cons_self h)

theorem State.Loose.runStop (h : s.Loose) {n : Nat} (hn : 5 ≠ n) : (s.runStop n).Loose := by
  refine ⟨?_, ((s.runStop_within n).checks (by decide)).trans h.2⟩
  rw [s.runStop_core_ne hn]
  exact h.1

theorem State.Loose.quiesceDma (h : s.Loose) (c : Nat) : (s.quiesceDma c).Loose := by
  unfold State.quiesceDma
  extract_lets t k
  have ht : t.Loose := h.foldl_abortCtx _
  clear_value t k
  exact ht

theorem State.Loose.stepAbort (h : s.Loose) (cause : Nat) : (s.stepAbort cause).Loose := by
  obtain ⟨hcore, -⟩ := s.stepAbort_released cause
  obtain ⟨b, hb⟩ := hcore 5
  refine ⟨?_, ((s.stepAbort_within cause).checks (by decide)).trans h.2⟩
  rw [hb]
  exact h.1

theorem State.Stray.quiescePart (h : s.Stray) (hmode : s.partMode = 0) : (s.quiescePart 0).Loose := by
  have hridges : ((List.range 64).filter fun n => s.partOfDie (n / 16) == 0) = 0 :: 1 :: (List.range 62).map (· + 2) := by
    have hdie : ∀ k, s.partOfDie k = 0 := fun k => by
      rw [State.partOfDie, hmode] <;> rfl
    rw [List.filter_eq_self.mpr fun n _ => by rw [hdie]; rfl]
    rfl
  unfold State.quiescePart
  extract_lets t1 t2 t3 t4 _ _ t5
  have h1 : t1.Stray := h.foldl_abortCtx fun c hc => Nat.ne_of_lt (List.mem_range.mp (List.mem_filter.mp hc).1)
  clear_value t1
  have h2 : t2.Loose := by
    simp only [t2]
    rw [hridges, List.foldl_cons, List.foldl_cons]
    refine State.Loose.foldl _ (fun t n hn ht => ?_) h1.quiesceRidge.quiesceRidge_loose
    obtain ⟨m, -, rfl⟩ := List.mem_map.mp hn
    exact ht.quiesceRidge (by omega)
  clear_value t2
  have h3 : t3.Loose := by
    refine h2.foldl _ fun t k hk ht => ?_
    have hk := List.mem_range.mp (List.mem_filter.mp hk).1
    extract_lets u
    have hu : u.Loose := ht.runStop (by omega)
    clear_value u
    refine ⟨?_, hu.2⟩
    rw [u.core_setCore_ne (by omega)]
    exact hu.1
  clear_value t3
  have h4 : t4.Loose := h3.foldl _ fun t c _ ht => ht.quiesceDma c
  clear_value t4
  have h5 : t5.Loose := by
    simp only [t5]
    split
    · have h0 : (t4.runStop 0).Loose := h4.runStop (by decide)
      exact h0
    · exact h4
  clear_value t5
  exact h5.stepAbort 4

/-! ### The write of `PQ_GO` -/

theorem State.partDone_within (s : State) : s.within [.io] s.partDone := by
  unfold State.partDone
  extract_lets p
  exact .ite (fun _ => .refl s _) fun _ => rfl

theorem heldState_stray : heldState.Stray := by decide

/-- The quiesce of the only partition leaves the sequencer of Ridge 0 running. -/
theorem partitionQuiesce_loose : ∃ t, exec (.partitionQuiesce 0) heldState = .next t ∧ t.Loose := by
  have hexec : exec (.partitionQuiesce 0) heldState = execPartitionQuiesce 0 heldState := rfl
  have hw : heldState.within [.io, .out] ((heldState.storeBits .dev 0x008 (setBit 0 31 true)).irqUpdate .dev) :=
    ((heldState.storeBits_within _ _ _).mono (by decide)).trans ((State.irqUpdate_within _ _).mono (by decide))
  have hc : heldState.Calm (· = Page.dev.base + 0x100) ((heldState.storeBits .dev 0x008 (setBit 0 31 true)).irqUpdate .dev) :=
    (State.storeBits_calm (by decide) _).trans (State.irqUpdate_calm _ _)
  rw [execPartitionQuiesce, if_neg (by decide)] at hexec
  unfold State.devCtl at hexec
  rw [show heldState.flag .dev 0x008 31 = false by decide, if_neg (by decide)] at hexec
  rw [if_pos (by decide), if_neg (by decide), show fld (setBit 0 31 true) 17 16 = 0 by decide] at hexec
  generalize (heldState.storeBits .dev 0x008 (setBit 0 31 true)).irqUpdate .dev = u at hexec hw hc
  have hmode : ((u.setFlag .dev 0x008 31 true).setFlag .dev 0x00C (16 + 0) false).partMode = 0 := by
    have h1 : u.Calm (· = Page.dev.base + 0x100) (u.setFlag .dev 0x008 31 true) := u.setReg_calm _ _ _ (by decide)
    have h2 := State.setReg_calm (A := (· = Page.dev.base + 0x100)) (u.setFlag .dev 0x008 31 true) .dev 0x00C
      (setBit ((u.setFlag .dev 0x008 31 true).reg .dev 0x00C) (16 + 0) false) (by decide)
    exact (((hc.trans h1).trans h2).field 1 0 rfl).trans (by decide)
  have hstray : ((u.setFlag .dev 0x008 31 true).setFlag .dev 0x00C (16 + 0) false).Stray := by
    have hcores : u.cores = heldState.cores := hw.cores (by decide)
    have hridges : u.ridges = heldState.ridges := hw.ridges (by decide)
    have hchecks : u.checks = heldState.checks := hw.checks (by decide)
    have hu : u.Stray := by
      unfold State.Stray State.core State.ridge
      rw [hcores, hridges, hchecks]
      exact heldState_stray
    exact hu
  generalize (u.setFlag .dev 0x008 31 true).setFlag .dev 0x00C (16 + 0) false = w at hexec hmode hstray
  have hloose := hstray.quiescePart hmode
  generalize w.quiescePart 0 = x at hexec hloose
  have hdone := x.partDone_within
  generalize x.partDone = y at hexec hdone
  refine ⟨y, hexec, ?_, (hdone.checks (by decide)).trans hloose.2⟩
  rw [State.core, hdone.cores (by decide)]
  exact hloose.1

end

end Sys2Proof.Machine
end

section
/-! PROOF. Refutes O43. -/
namespace Sys2Proof.Machine

/-- Refutes O43: the sequencer of Ridge 0 is stopped in its handler and holds a descriptor of context 64, which waits at Ridge 1
too; as Ridge 1 is quiesced that context is aborted, the sequencer's `ISSUE` ends, and it runs on. -/
theorem not_quiescesAndResets : ¬ Obligations.QuiescesAndResets := by
  unfold Obligations.QuiescesAndResets
  rintro ⟨hquiesce, -⟩
  obtain ⟨-, -, -, hpart, -⟩ := hquiesce heldState 0 0 0 0 (by decide)
  obtain ⟨t, ht, -, -, -, hridges, -⟩ := hpart (by decide) (by decide) (by decide)
  obtain ⟨u, hu, hloose, -⟩ := partitionQuiesce_loose
  obtain rfl := Host.Outcome.next.inj (ht.symm.trans hu)
  obtain ⟨-, hstop⟩ := hridges 0 (by decide) (by decide)
  exact absurd (hstop.symm.trans hloose) (by decide)

end Sys2Proof.Machine
end

section
/-! PROOF. Flits are taken once and in order (R289, R291, R292): what a port makes of a flit and of a NAK. -/
namespace Sys2Proof.Machine

/-! ### A flit of the port's own, a flit that is discarded -/

section
variable (s : State) (p : Nat)

theorem State.out_foldl_emit (fs : List Flit) : (fs.foldl (fun t f => t.emit (.flit p f)) s).out = (fs.map (Out.flit p)).reverse ++ s.out := by
  induction fs generalizing s with
  | nil => rfl
  | cons f fs ih =>
    rw [List.foldl_cons, ih, List.map_cons, List.reverse_cons, List.append_assoc]
    rfl

theorem State.out_emitFlits (fs : List Flit) : (s.emitFlits p fs).out = (fs.map (Out.flit p)).reverse ++ s.out :=
  (State.event_out _ _ _ _).trans (s.out_foldl_emit p fs)

/-- The first flit of the port's own that waits is the first that a linked port with replay space sends. -/
theorem Port.pump_of_ctlq {fuel : Nat} {k : Port} {c : Nat × List Slot} {rest : List (Nat × List Slot)} (hst : k.st.linked = true)
    (hreplay : k.replay.length < 256) (hq : k.ctlq = c :: rest) :
    ∃ l, (Port.pump (fuel + 1) k []).2 = ({ k with ctlq := rest }.sendFlit c.1 2 0 c.2).2 :: l := by
  unfold Port.pump
  rw [if_neg (by simp only [hst, Bool.not_true, Bool.false_eq_true, not_false_eq_true]), if_neg (by omega), hq]
  obtain ⟨l, hl⟩ := Port.pump_prefix fuel ({ k with ctlq := rest }.sendFlit c.1 2 0 c.2).1 ([] ++ [({ k with ctlq := rest }.sendFlit c.1 2 0 c.2).2])
  exact ⟨l, hl.symm⟩

theorem State.sendOwn_out {s : State} {p : Nat} (ty : Nat) (ss : List Slot) (hst : (s.port p).st.linked = true)
    (hreplay : (s.port p).replay.length < 256) (hq : (s.port p).ctlq = []) :
    ∃ l, (s.sendOwn p ty ss).out = l ++ .flit p ((s.port p).sendFlit ty 2 0 ss).2 :: s.out := by
  let k : Port := { s.port p with ctlq := (s.port p).ctlq ++ [(ty, ss)] }
  have hk : (s.setPort p k).port p = k := s.port_setPort_same p k
  obtain ⟨l, hl⟩ := Port.pump_of_ctlq (fuel := k.queued + k.ctlq.length) (k := k) (c := (ty, ss)) (rest := []) hst hreplay
    (by simp only [k, hq, List.nil_append])
  refine ⟨(l.map (Out.flit p)).reverse, ?_⟩
  change ((s.setPort p k).pump p).out = _
  rw [State.pump, State.out_emitFlits, hk, hl, List.map_cons, List.reverse_cons, List.append_assoc]
  rfl

/-- A discarded flit leaves the port but for the mark that a NAK has gone out. -/
theorem State.flDrop_drops : s.within [.io, .out, .ports] (s.flDrop p) ∧ s.KeepsRegs (s.flDrop p) ∧
    ((s.flDrop p).port p).silent = { s.port p with nakSent := true }.silent := by
  unfold State.flDrop
  extract_lets k
  by_cases hn : k.nakSent = true
  · rw [if_pos hn]
    have hk : k = { k with nakSent := true } := by rw [← hn]
    exact ⟨.refl _ _, .refl s, congrArg Port.silent hk⟩
  · rw [if_neg hn]
    have hs := State.sendOwn_sends (s.setPort p { k with nakSent := true }) p 2 []
    refine ⟨State.within.trans (rfl : s.within [.io, .out, .ports] (s.setPort p { k with nakSent := true })) hs.within,
      (State.Calm.trans (.of_io rfl rfl) hs.regs), (hs.silent p).trans ?_⟩
    rw [State.port_setPort_same]

/-- The first discarded flit of a run is answered by a NAK. -/
theorem State.flDrop_out {s : State} {p : Nat} (hst : (s.port p).st.linked = true) (hn : (s.port p).nakSent = false)
    (hq : (s.port p).ctlq = []) (hreplay : (s.port p).replay.length < 256) :
    ∃ l, (s.flDrop p).out = l ++ .flit p ((s.port p).sendFlit 2 2 0 []).2 :: s.out := by
  unfold State.flDrop
  extract_lets k
  rw [if_neg (by rw [hn]; decide)]
  have hk : (s.setPort p { k with nakSent := true }).port p = { k with nakSent := true } := s.port_setPort_same p _
  obtain ⟨l, hl⟩ := State.sendOwn_out (s := s.setPort p { k with nakSent := true }) (p := p) 2 [] (by rw [hk]; exact hst)
    (by rw [hk]; exact hreplay) (by rw [hk]; exact hq)
  refine ⟨l, hl.trans ?_⟩
  rw [hk]
  rfl

end

/-! ### A flit that is accepted -/

theorem Port.acked_silent (k : Port) (ack : Nat) : (k.acked ack).silent = k.silent := by
  unfold Port.acked
  split <;> rfl

theorem Port.creditGot_silent (k : Port) (f : Flit) : (k.creditGot f).silent = k.silent := rfl

/-- The port once the flit with the next number is in. -/
def Port.advanced (k : Port) (seq : Nat) : Port := { k with rxSeq := seq, nakSent := false }

/-- The state once the flit with the next number is in: it acknowledges and returns credits. -/
def State.flAccepted (s : State) (p : Nat) (f : Flit) : State :=
  (s.setPort p { (s.port p).acked (flAck f) with rxSeq := flSeq f, nakSent := false }).event (.prt p) 0x03 1

/-- The slots of a DATA flit that enter their queue. -/
def flKept (f : Flit) : List Slot := (flSlots f).filter fun x => flClass f != 2 || x.hdr

theorem flKept_eq_flSlots {f : Flit} (h : flClass f ≠ 2) : flKept f = flSlots f :=
  List.filter_eq_self.2 fun x _ => by simp only [bne_iff_ne.2 h, Bool.true_or]

theorem flKept_eq_filter {f : Flit} (h : flClass f = 2) : flKept f = (flSlots f).filter Slot.hdr :=
  List.filter_congr fun x _ => by simp only [h, bne_self_eq_false, Bool.false_or]

section
variable (s : State) (p : Nat) (f : Flit)

theorem State.flAccepted_within : s.within [.io, .out, .ports] (s.flAccepted p f) :=
  State.within.trans (rfl : s.within [.io, .out, .ports] (s.setPort p { (s.port p).acked (flAck f) with rxSeq := flSeq f, nakSent := false }))
    ((State.event_within _ _ _ _).mono (by decide))

theorem State.flAccepted_keepsRegs : s.KeepsRegs (s.flAccepted p f) :=
  State.Calm.trans (.of_io rfl rfl) (State.event_keepsRegs _ _ _ _)

theorem State.port_flAccepted : (s.flAccepted p f).port p = ((s.port p).acked (flAck f)).advanced (flSeq f) := by
  rw [State.flAccepted, State.port_event, State.port_setPort_same]
  rfl

theorem State.flAccepted_silent : ((s.flAccepted p f).port p).silent = ((s.port p).advanced (flSeq f)).silent := by
  rw [s.port_flAccepted]
  exact congrArg (Port.advanced · (flSeq f)) ((s.port p).acked_silent (flAck f))

theorem State.foldl_linksGot_within (xs : List Slot) : s.within [.fab] (xs.foldl (fun t x => t.linksGot p x.words) s) := by
  induction xs generalizing s with
  | nil => exact .refl _ _
  | cons x xs ih => exact (s.linksGot_within p x.words).trans (ih _)

theorem State.dataGot_within : s.within [.ports, .fab] (s.dataGot p f) :=
  State.within.trans (rfl : s.within [.ports, .fab] (s.setPort p _)) ((State.foldl_linksGot_within _ p _).mono (by decide))

/-- Slots of REQ and RSP bring no link entries. -/
theorem State.dataGot_within_ports (h : flClass f ≠ 2) : s.within [.ports] (s.dataGot p f) := by
  unfold State.dataGot
  extract_lets k cls vc keep links k1
  have hl : links = [] := List.filter_eq_nil_iff.2 fun x _ => by
    simp only [cls, beq_eq_false_iff_ne.2 h, Bool.and_false, Bool.false_and, Bool.false_eq_true, not_false_eq_true]
  rw [hl]
  rfl

/-- A port that is UP keeps a DATA flit's slots. -/
theorem State.dataGot_silent (hst : (s.port p).st = .up) : ((s.dataGot p f).port p).silent =
    ((s.port p).setRx (flClass f) (flVc f) ((s.port p).rx (flClass f) (flVc f) ++ flKept f)).silent := by
  unfold State.dataGot
  extract_lets k cls vc keep links k1
  have hkeep : keep = flKept f := List.filter_congr fun x _ => by
    simp only [k, hst, cls, beq_self_eq_true, Bool.true_and]
  rw [State.port, (State.foldl_linksGot_within _ p links).ports (by decide), ← State.port, State.port_setPort_same]
  simp only [k1, hkeep]
  rfl

/-- The state that has accepted the flit and the credits that it returns. -/
def State.flCredited : State :=
  (s.flAccepted p f).setPort p (((s.flAccepted p f).port p).creditGot f)

theorem State.flCredited_within : s.within [.io, .out, .ports] (s.flCredited p f) :=
  (s.flAccepted_within p f).trans (rfl : (s.flAccepted p f).within [.io, .out, .ports] (s.flCredited p f))

theorem State.flCredited_silent : ((s.flCredited p f).port p).silent = ((s.port p).advanced (flSeq f)).silent := by
  rw [State.flCredited, State.port_setPort_same, Port.creditGot_silent]
  exact s.flAccepted_silent p f

end

section
variable {s : State} {port : Fin 36} {f : Flit}

/-- A flit whose CRC is right and which has the next number. -/
theorem execFlitReceive_next (hst : (s.port port.val).st = .up) (hgood : crc64 (flBytes f) = f.crc.toNat) (hty : flType f ≠ 0)
    (hseq : flSeq f = ((s.port port.val).rxSeq + 1) % 65536) : execFlitReceive port f s =
      .next (if (s.port port.val).flBad f then ((s.flAccepted port.val f).malformed port.val).pumpAck port.val
        else ((s.flCredited port.val f).flTake port.val f).pumpAck port.val) := by
  unfold execFlitReceive
  extract_lets p k k1 t
  have h1 : ¬ (!k.st.linked) = true := by rw [show k.st = .up from hst]; decide
  rw [if_neg h1, if_neg (not_not.2 hgood), if_neg hty, if_neg (not_not.2 hseq)]
  rfl

/-- A good DATA flit: its slots enter their queue. -/
theorem execFlitReceive_data (hst : (s.port port.val).st = .up) (hgood : crc64 (flBytes f) = f.crc.toNat) (hty : flType f = 1)
    (hseq : flSeq f = ((s.port port.val).rxSeq + 1) % 65536) (hbad : (s.port port.val).flBad f = false) :
    ∃ t, execFlitReceive port f s = .next t ∧ s.within [.io, .out, .ports, .fab] t ∧
      (flClass f ≠ 2 → s.within [.io, .out, .ports] t) ∧ (t.port port.val).silent =
        (((s.port port.val).advanced (flSeq f)).setRx (flClass f) (flVc f)
          ((s.port port.val).rx (flClass f) (flVc f) ++ flKept f)).silent := by
  have he := execFlitReceive_next hst hgood (by omega) hseq
  rw [if_neg (by rw [hbad]; decide)] at he
  have htake : (s.flCredited port.val f).flTake port.val f = (s.flCredited port.val f).dataGot port.val f := by
    unfold State.flTake
    rw [hty] <;> rfl
  rw [htake] at he
  have hc := s.flCredited_within port.val f
  have hk := s.flCredited_silent port.val f
  generalize s.flCredited port.val f = u at he hc hk
  have hsend := State.pumpAck_sends (u.dataGot port.val f) port.val
  have hup : (u.port port.val).st = .up := (congrArg Port.st hk).trans hst
  refine ⟨_, he, ?_, fun hcl => ?_, ?_⟩
  · exact ((hc.mono (by decide)).trans ((u.dataGot_within port.val f).mono (by decide))).trans (hsend.within.mono (by decide))
  · exact (hc.trans ((u.dataGot_within_ports port.val f hcl).mono (by decide))).trans hsend.within
  · rw [hsend.silent, u.dataGot_silent port.val f hup]
    have hrx : (u.port port.val).rx (flClass f) (flVc f) = (s.port port.val).rx (flClass f) (flVc f) := by
      have h := congrArg (fun k : Port => k.rx (flClass f) (flVc f)) hk
      exact h
    rw [hrx]
    exact congrArg (fun k : Port => k.setRx (flClass f) (flVc f) ((s.port port.val).rx (flClass f) (flVc f) ++ flKept f)) hk

/-- A malformed flit is counted while its window allows. -/
theorem State.malformed_counts {p : Nat} (h : (s.port p).malfW + 1 ≤ s.field (.prt p) 0x11C 23 16) :
    (s.malformed p).port p = { s.port p with malfW := (s.port p).malfW + 1 } := by
  unfold State.malformed
  extract_lets k t
  rw [if_neg (by simp only [k]; omega), State.port_addSat, State.port_setPort_same]

/-- A retry episode is counted while its window allows. -/
theorem State.retryEpisode_counts {p : Nat} (h : (s.port p).retryW + 1 ≤ s.field (.prt p) 0x11C 31 24) :
    (s.retryEpisode p).port p = { s.port p with retryW := (s.port p).retryW + 1 } ∧ (s.retryEpisode p).out = s.out := by
  unfold State.retryEpisode
  extract_lets k t
  rw [if_neg (by simp only [k]; omega)]
  refine ⟨?_, rfl⟩
  rw [State.port_addSat, State.port_setPort_same]

theorem execFlitReceive_malformed (hst : (s.port port.val).st = .up) (hgood : crc64 (flBytes f) = f.crc.toNat) (hty : flType f ≠ 0)
    (hseq : flSeq f = ((s.port port.val).rxSeq + 1) % 65536) (hbad : (s.port port.val).flBad f = true)
    (hmalf : (s.port port.val).malfW + 1 ≤ s.field (.prt port.val) 0x11C 23 16) :
    ∃ t, execFlitReceive port f s = .next t ∧ (t.port port.val).silent =
      { (s.port port.val).advanced (flSeq f) with malfW := (s.port port.val).malfW + 1 }.silent := by
  have he := execFlitReceive_next hst hgood hty hseq
  rw [if_pos hbad] at he
  refine ⟨_, he, ((State.pumpAck_sends _ _).silent _).trans ?_⟩
  have hk := s.flAccepted_silent port.val f
  have hm : ((s.flAccepted port.val f).port port.val).malfW = (s.port port.val).malfW := by
    have h := congrArg Port.malfW hk
    exact h
  rw [State.malformed_counts (by
    rw [hm, State.KeepsRegs.field (s.flAccepted_keepsRegs port.val f) (.prt port.val) 23 16 (by decide) (by decide)]
    exact hmalf), hm]
  exact congrArg (fun k : Port => { k with malfW := (s.port port.val).malfW + 1 }) hk

end

/-! ### A NAK (R291) -/

section
variable {s : State} {p ack : Nat}

/-- A NAK: what is not acknowledged is sent again. -/
theorem State.nakGot_resends (hne : ((s.port p).acked ack).replay ≠ []) (hr : ∀ r ∈ ((s.port p).acked ack).replay, r.resent < 16)
    (hw : (s.port p).retryW + 1 ≤ s.field (.prt p) 0x11C 31 24) :
    (s.nakGot p ack).out = (((s.port p).acked ack).replay.map fun r => Out.flit p r.flit).reverse ++ s.out ∧
      (s.nakGot p ack).port p = { (s.port p).acked ack with
        replay := ((s.port p).acked ack).replay.map fun r => { r with resent := r.resent + 1 }
        retryW := ((s.port p).acked ack).retryW + 1 } := by
  unfold State.nakGot
  extract_lets k t t1
  have hany : ¬ (k.replay.any fun r => decide (16 ≤ r.resent)) = true := by
    simp only [List.any_eq_true, decide_eq_true_eq, not_exists, not_and, not_le]
    exact hr
  rw [if_neg (by simpa using hne), if_neg hany]
  have hfold : t1 = (k.replay.map fun r => r.flit).foldl (fun t f => t.emit (.flit p f)) t := by
    rw [List.foldl_map]
  have hsend : t.Sends t1 := hfold ▸ .foldl (fun t f => t.emit_sends (.flit p f)) _ _
  have hregs : s.KeepsRegs t1 := State.Calm.trans (.of_io rfl rfl) hsend.regs
  have hport : t1.port p = { k with replay := k.replay.map fun r => { r with resent := r.resent + 1 } } := by
    have hports : ∀ (fs : List Flit) (t : State), (fs.foldl (fun t f => t.emit (.flit p f)) t).port p = t.port p := by
      intro fs
      induction fs with
      | nil => exact fun _ => rfl
      | cons f fs ih => exact fun t => (ih _).trans (t.port_emit _ _)
    rw [hfold, hports]
    exact s.port_setPort_same p _
  have hout : t1.out = (k.replay.map fun r => Out.flit p r.flit).reverse ++ s.out := by
    rw [hfold, State.out_foldl_emit, List.map_map]
    rfl
  have hret : k.retryW = (s.port p).retryW := by
    have h := congrArg Port.retryW ((s.port p).acked_silent ack)
    exact h
  clear_value t1
  have hall : s.KeepsRegs (t1.event (.prt p) 0x04 k.replay.length) := hregs.trans (State.event_keepsRegs _ _ _ _)
  obtain ⟨hep, heo⟩ := State.retryEpisode_counts (s := t1.event (.prt p) 0x04 k.replay.length) (p := p) (by
    rw [State.port_event, hport, State.KeepsRegs.field hall (.prt p) 31 24 (by decide) (by decide)]
    exact hret ▸ hw)
  exact ⟨heo.trans ((State.event_out _ _ _ _).trans hout), by rw [hep, State.port_event, hport]⟩

/-- A flit that has been resent 16 times retrains the port. -/
theorem State.nakGot_retrains (h : ∃ r ∈ ((s.port p).acked ack).replay, 16 ≤ r.resent) : ((s.nakGot p ack).port p).st = .training := by
  unfold State.nakGot
  extract_lets k
  obtain ⟨r, hr, h16⟩ := h
  have hne : ¬ k.replay.isEmpty = true := by
    simp only [List.isEmpty_iff]
    exact List.ne_nil_of_mem hr
  have hany : (k.replay.any fun r => decide (16 ≤ r.resent)) = true := List.any_eq_true.2 ⟨r, hr, decide_eq_true h16⟩
  rw [if_neg hne, if_pos hany]
  exact (State.leaveUp_leaves _ p .training).st

end

/-! ### Flits with a wrong CRC or out of order -/

section
variable {s : State} {port : Fin 36} {f : Flit}

/-- What a discarded flit leaves of the port. -/
theorem execFlitReceive_discarded (hst : (s.port port.val).st = .up)
    (h : crc64 (flBytes f) ≠ f.crc.toNat ∨ (flType f ≠ 0 ∧ flSeq f ≠ ((s.port port.val).rxSeq + 1) % 65536)) :
    ∃ t b, execFlitReceive port f s = .next t ∧ s.within [.io, .out, .ports] t ∧
      (t.port port.val).silent = { s.port port.val with nakSent := b }.silent ∧
      (crc64 (flBytes f) ≠ f.crc.toNat → t = (s.addSat (.prt port.val) 0x14C 1).flDrop port.val ∧ b = true) := by
  unfold execFlitReceive
  extract_lets p k k1 t
  have h1 : ¬ (!k.st.linked) = true := by rw [show k.st = .up from hst]; decide
  rw [if_neg h1]
  by_cases hgood : crc64 (flBytes f) = f.crc.toNat
  · obtain ⟨hty, hseq⟩ := h.resolve_left (not_not.2 hgood)
    rw [if_neg (not_not.2 hgood), if_neg hty, if_pos hseq]
    by_cases hold : (k.rxSeq + 65536 - flSeq f) % 65536 < 256
    · rw [if_pos hold]
      exact ⟨s, k.nakSent, rfl, .refl _ _, rfl, fun hb => absurd hgood hb⟩
    · rw [if_neg hold]
      obtain ⟨hwithin, -, hsilent⟩ := s.flDrop_drops p
      exact ⟨_, true, rfl, hwithin, hsilent, fun hb => absurd hgood hb⟩
  · rw [if_pos hgood]
    obtain ⟨hwithin, -, hsilent⟩ := (s.addSat (.prt p) 0x14C 1).flDrop_drops p
    exact ⟨_, true, rfl, State.within.trans ((s.addSat_within (.prt p) 0x14C 1).mono (by decide)) hwithin, hsilent, fun _ => ⟨rfl, rfl⟩⟩

/-- A wrong CRC is counted, and the first of a run is answered. -/
theorem State.badCrc_answered (hst : (s.port port.val).st = .up) :
    ((s.addSat (.prt port.val) 0x14C 1).flDrop port.val).reg (.prt port.val) 0x14C = satAdd32 (s.reg (.prt port.val) 0x14C) 1 ∧
      ((s.port port.val).nakSent = false → (s.port port.val).ctlq = [] → (s.port port.val).replay.length < 256 →
        ∃ l, ((s.addSat (.prt port.val) 0x14C 1).flDrop port.val).out =
          l ++ .flit port.val ((s.port port.val).sendFlit 2 2 0 []).2 :: s.out) := by
  constructor
  · rw [State.KeepsRegs.reg ((s.addSat (.prt port.val) 0x14C 1).flDrop_drops port.val).2.1 (.prt port.val) (by decide) (by decide), State.reg_addSat]
  · intro hn hq hreplay
    exact State.flDrop_out (s := s.addSat (.prt port.val) 0x14C 1) (p := port.val) (by rw [State.port_addSat, hst]; rfl) hn hq hreplay

end

/-- Settles O32. -/
theorem flitsArriveOnceAndInOrder : Obligations.FlitsArriveOnceAndInOrder := by
  unfold Obligations.FlitsArriveOnceAndInOrder
  intro s port k f ack hk hst
  subst hk
  extract_lets p good a
  refine ⟨fun h => ?_, fun hgood hty hcl hseq hbad => ?_, fun hgood hty hcl hseq hbad => ?_, fun hgood hty hseq hbad hmalf => ?_,
    fun hne hr hw => ?_, fun h => ?_⟩
  · obtain ⟨t, b, he, hwithin, hport, hbad⟩ := execFlitReceive_discarded hst h
    have hrxq := congrArg Port.rxq hport
    have hrxSeq := congrArg Port.rxSeq hport
    have houts := congrArg Port.outs hport
    refine ⟨t, he, hrxq, hrxSeq, houts, fun hng => ?_, hwithin⟩
    · obtain ⟨ht, hb⟩ := hbad hng
      obtain ⟨hreg, hout⟩ := State.badCrc_answered (s := s) (port := port) hst
      have hnak := congrArg Port.nakSent hport
      exact ⟨ht ▸ hreg, Eq.trans hnak hb, ht ▸ hout⟩
  · obtain ⟨t, he, -, hwithin, hport⟩ := execFlitReceive_data hst hgood hty hseq hbad
    have hrx : ∀ c v, (t.port p).rx c v = (((s.port p).advanced (flSeq f)).setRx (flClass f) (flVc f)
        ((s.port p).rx (flClass f) (flVc f) ++ flKept f)).rx c v := by
      intro c v
      have h := congrArg (fun k : Port => k.rx c v) hport
      exact h
    have hrxSeq := congrArg Port.rxSeq hport
    have hnak := congrArg Port.nakSent hport
    refine ⟨t, he, ?_, hrxSeq, hnak, fun c v hne => ?_, hwithin hcl⟩
    · rw [hrx, ← flKept_eq_flSlots hcl]
      exact Table.get_set_same _ _ _ _
    · rw [hrx]
      exact Table.get_set_ne _ _ hne _
  · obtain ⟨t, he, hwithin, -, hport⟩ := execFlitReceive_data hst hgood hty hseq hbad
    have hrxSeq := congrArg Port.rxSeq hport
    refine ⟨t, he, ?_, hrxSeq, hwithin⟩
    have hrx : (t.port p).rx 2 (flVc f) = (((s.port p).advanced (flSeq f)).setRx (flClass f) (flVc f)
        ((s.port p).rx (flClass f) (flVc f) ++ flKept f)).rx 2 (flVc f) := by
      have h := congrArg (fun k : Port => k.rx 2 (flVc f)) hport
      exact h
    rw [hrx, flKept_eq_filter hcl, hcl]
    exact Table.get_set_same _ _ _ _
  · obtain ⟨t, he, hport⟩ := execFlitReceive_malformed hst hgood hty hseq hbad hmalf
    have hrxq := congrArg Port.rxq hport
    have hrxSeq := congrArg Port.rxSeq hport
    have hmalfW := congrArg Port.malfW hport
    exact ⟨t, he, hrxq, hrxSeq, hmalfW⟩
  · have he : exec (.nakReceive port ack) s = .next (s.nakGot p ack.toNat) := congrArg Host.Outcome.next (if_pos (by rw [hst]; rfl))
    obtain ⟨hout, hport⟩ := State.nakGot_resends hne hr hw
    have hret : a.retryW = (s.port p).retryW := by
      have h := congrArg Port.retryW ((s.port p).acked_silent ack.toNat)
      exact h
    have hseq : a.txSeq = (s.port p).txSeq := by
      simp only [a, Port.acked]
      split <;> rfl
    exact ⟨_, he, hout, by rw [hport], by rw [hport, ← hret], by rw [hport, ← hseq]⟩
  · have he : exec (.nakReceive port ack) s = .next (s.nakGot p ack.toNat) := congrArg Host.Outcome.next (if_pos (by rw [hst]; rfl))
    exact ⟨_, he, State.nakGot_retrains h⟩

end Sys2Proof.Machine
end

section
/-! PROOF. Transactions of this device are issued once and end once (R295 to R297, R300). -/
namespace Sys2Proof.Machine

/-! ### Routes (R300, R301) -/

section
variable {s : State}

theorem State.mem_of_shortest {l : List Nat} {q : Nat} (h : s.shortest l = some q) : q ∈ l := by
  have hfold : ∀ (l : List Nat) (b : Option Nat), l.foldl (fun b p => match b with
      | some q => if (s.port p).queued < (s.port q).queued then some p else some q
      | none => some p) b = some q → q ∈ l ∨ b = some q := by
    intro l
    induction l with
    | nil => exact fun _ h => .inr h
    | cons p l ih =>
      intro b h
      rcases ih _ h with hq | hq
      · exact .inl (List.mem_cons_of_mem _ hq)
      · cases b with
        | none => exact .inl (Option.some.inj hq ▸ List.mem_cons_self)
        | some x =>
          dsimp only at hq
          split at hq
          · exact .inl (Option.some.inj hq ▸ List.mem_cons_self)
          · exact .inr hq
  exact (hfold l none h).resolve_right (by simp)

/-- A port of the device that is UP. -/
abbrev State.UpPort (s : State) (p : Nat) : Prop := p < 36 ∧ (s.port p).st = .up

theorem State.st_of_livePort {cls hops len p : Nat} (h : s.livePort cls hops len p = true) : (s.port p).st = .up := by
  simp only [State.livePort, Bool.and_eq_true, beq_iff_eq] at h
  exact h.1.1

theorem State.lt_of_mem_portsTo {d p : Nat} (h : p ∈ s.portsTo d) : p < 36 := List.mem_range.1 (List.mem_filter.1 h).1

theorem State.lt_of_mem_globals {f : W32 → Bool} {p : Nat} (h : p ∈ s.globals f) : p < 36 := List.mem_range.1 (List.mem_filter.1 h).1

theorem State.lt_of_mem_flatMap_portsTo {l : List Nat} {p : Nat} (h : p ∈ l.flatMap s.portsTo) : p < 36 := by
  obtain ⟨d, -, hd⟩ := List.mem_flatMap.1 h
  exact State.lt_of_mem_portsTo hd

theorem State.actor_lt {q : Nat} (h : q < 36) : s.actor q < 36 := by
  unfold State.actor
  generalize hf : List.find? _ _ = o
  cases o with
  | none => exact h
  | some p => exact List.mem_range.1 (List.mem_of_find?_eq_some hf)

/-- Candidates that the rules of R300 filter by their life. -/
theorem State.upPort_of_mem_live {l : List Nat} {cls hops len p : Nat} (hl : ∀ q ∈ l, q < 36)
    (h : p ∈ l.filter (s.livePort cls hops len)) : s.UpPort p :=
  ⟨hl p (List.mem_filter.1 h).1, State.st_of_livePort (List.mem_filter.1 h).2⟩

theorem State.upPort_of_mem_inGroup {cls hops d p : Nat} (h : p ∈ s.inGroup cls hops d) : s.UpPort p := by
  unfold State.inGroup at h
  extract_lets direct at h
  split at h
  · exact State.upPort_of_mem_live (fun _ => State.lt_of_mem_portsTo) h
  · exact State.upPort_of_mem_live (fun _ => State.lt_of_mem_flatMap_portsTo) h

theorem State.upPort_of_mem_minimal {cls hops g d p : Nat} (h : p ∈ s.minimal cls hops g d) : s.UpPort p := by
  unfold State.minimal at h
  extract_lets live r2 r3 r4 at h
  split at h
  · exact State.upPort_of_mem_inGroup h
  · split at h
    · exact State.upPort_of_mem_live (fun _ => State.lt_of_mem_globals) h
    · split at h
      · exact State.upPort_of_mem_live (fun _ => State.lt_of_mem_globals) h
      · exact State.upPort_of_mem_live (fun _ => State.lt_of_mem_flatMap_portsTo) h

theorem State.upPort_of_mem_detours {cls hops p : Nat} (h : p ∈ s.detours cls hops) : s.UpPort p := by
  rcases List.mem_append.1 h with h | h
  · exact State.upPort_of_mem_live (fun _ => State.lt_of_mem_globals) h
  · exact State.upPort_of_mem_live (fun _ => State.lt_of_mem_flatMap_portsTo) h

/-- Every candidate of a transaction is a port that is UP. -/
theorem State.upPort_of_mem_routes {cls hops : Nat} {detour : Bool} {g d dport p : Nat}
    (h : p ∈ (s.routes cls hops detour g d dport).1) : s.UpPort p := by
  unfold State.routes at h
  split at h
  · split at h
    · next hlive =>
      simp only [Bool.and_eq_true, decide_eq_true_eq] at hlive
      rw [List.mem_singleton.1 h]
      exact ⟨State.actor_lt hlive.1, State.st_of_livePort hlive.2⟩
    · exact absurd h List.not_mem_nil
  · extract_lets m thr jam dt at h
    have hdt : ∀ p ∈ dt, s.UpPort p := by
      intro p hp
      by_cases hd : detour = true
      · simp only [dt, if_pos hd, List.not_mem_nil] at hp
      · simp only [dt, if_neg hd] at hp
        exact State.upPort_of_mem_detours (List.mem_filter.1 hp).1
    split at h
    · exact hdt p h
    · exact State.upPort_of_mem_minimal h

end

/-! ### Numbers (R295, R296) -/

/-- Fewer than `n` numbers leave one below `n` free. -/
theorem exists_lt_notMem {l : List Nat} {n : Nat} (h : l.length < n) : ∃ t < n, t ∉ l := by
  by_contra hall
  have hsub : List.range n ⊆ l := by
    intro t ht
    by_contra hnot
    exact hall ⟨t, List.mem_range.1 ht, hnot⟩
  have hlen := (List.subperm_of_subset List.nodup_range hsub).length_le
  rw [List.length_range] at hlen
  omega

/-- The number of a transaction is one that no outstanding transaction of its port bears. -/
theorem State.freeTag_free (s : State) {p : Nat} (hp : p < 36) (hfull : (s.port p).full = false) :
    s.freeTag p < 2048 ∧ ∀ z ∈ (s.port p).outs, z.tag ≠ s.freeTag p := by
  have hlen : (s.port p).outs.length < 2048 := by simpa [Port.full] using hfull
  unfold State.freeTag
  extract_lets busy held
  have hfree : ∀ t, busy (s.port p) t = false → ∀ z ∈ (s.port p).outs, z.tag ≠ t := by
    intro t ht z hz heq
    have hb : busy (s.port p) t = true := List.any_eq_true.2 ⟨z, hz, beq_iff_eq.2 heq⟩
    rw [hb] at ht
    exact absurd ht (by decide)
  have hheld : ∀ t, held t = false → busy (s.port p) t = false := by
    intro t ht
    have hq := List.any_eq_false.1 ht p (List.mem_range.2 hp)
    simp only [Bool.or_eq_true, not_or, Bool.not_eq_true] at hq
    exact hq.1
  cases h1 : (List.range 2048).find? (fun t => !(held t)) with
  | some t =>
    have ht : held t = false := by simpa using List.find?_some h1
    exact ⟨List.mem_range.1 (List.mem_of_find?_eq_some h1), hfree t (hheld t ht)⟩
  | none =>
    cases h2 : (List.range 2048).find? (fun t => !(busy (s.port p) t)) with
    | some t =>
      have ht : busy (s.port p) t = false := by simpa using List.find?_some h2
      exact ⟨List.mem_range.1 (List.mem_of_find?_eq_some h2), hfree t ht⟩
    | none =>
      obtain ⟨t, ht, hnot⟩ := exists_lt_notMem (l := (s.port p).outs.map OutTxn.tag) (n := 2048) (by simpa using hlen)
      have hbusy := List.find?_eq_none.1 h2 t (List.mem_range.2 ht)
      have hb : busy (s.port p) t = true := by simpa using hbusy
      obtain ⟨z, hz, hzt⟩ := List.any_eq_true.1 hb
      exact absurd (List.mem_map.2 ⟨z, hz, beq_iff_eq.1 hzt⟩) hnot

/-! ### Issue (R295, R300) -/

section
variable {s : State}

/-- A transaction leaves by a port: it is outstanding there under its number. -/
theorem State.issueBy_issues (r : FReq) (p : Nat) (detour : Bool) (hdown : s.routeDown r.who.die (portDie p) = false) :
    ((s.issueBy r p detour).port p).outs = (s.port p).outs ++ [{ tag := s.freeTag p, req := r, since := s.refcnt }] ∧
      s.within [.io, .out, .ports] (s.issueBy r p detour) := by
  unfold State.issueBy
  rw [if_neg (by rw [hdown]; decide)]
  extract_lets k tag t t1
  have ht1 : t.Sends t1 := .ite (t.event_sends _ _ _) (.refl t)
  have hport : (t.port p).outs = k.outs ++ [{ tag := tag, req := r, since := s.refcnt }] := by
    rw [show t.port p = _ from s.port_setPort_same p _]
  have hw : s.within [.io, .out, .ports] t := rfl
  clear_value t t1
  have hall := ht1.trans (t1.enqueue_sends p { cls := 0, vc := 0, slots := s.reqSlots r tag detour, tag := some tag })
  have houts := congrArg Port.outs (hall.silent p)
  exact ⟨Eq.trans houts hport, hw.trans hall.within⟩

/-- A waiting transaction that a port takes, is not for this device itself and is no FLOOD. -/
theorem State.issueOwn_some {r : FReq} {q : Nat} (hkind : r.kind ≠ 5)
    (hhere : ¬(r.group = s.myGroup ∧ r.dev = s.myDev ∧ r.port = 0x3F))
    (hq : s.shortest ((s.routes 0 0 false r.group r.dev r.port).1.filter fun x => !(s.port x).full) = some q) :
    s.issueOwn r = s.issueBy r q (s.marked (s.routes 0 0 false r.group r.dev r.port) false q) := by
  unfold State.issueOwn
  rw [if_neg hkind, if_neg hhere]
  dsimp only
  rw [hq]

/-- Without a route the transaction ends as status 0x4. -/
theorem State.issueOwn_nil {r : FReq} (hkind : r.kind ≠ 5) (hhere : ¬(r.group = s.myGroup ∧ r.dev = s.myDev ∧ r.port = 0x3F))
    (hc : (s.routes 0 0 false r.group r.dev r.port).1 = []) :
    s.issueOwn r = (s.event (.prt 0) 0x09 1).answer r (some 4) [] := by
  unfold State.issueOwn
  rw [if_neg hkind, if_neg hhere]
  dsimp only
  rw [hc]
  rfl

/-- Where every candidate is full the transaction waits. -/
theorem State.issueOwn_full {r : FReq} (hkind : r.kind ≠ 5) (hhere : ¬(r.group = s.myGroup ∧ r.dev = s.myDev ∧ r.port = 0x3F))
    (hc : (s.routes 0 0 false r.group r.dev r.port).1 ≠ [])
    (hfull : ∀ q ∈ (s.routes 0 0 false r.group r.dev r.port).1, (s.port q).full = true) :
    ∃ p, s.issueOwn r = (s.event (.prt p) 0x06 1).submit r := by
  have hnil : ((s.routes 0 0 false r.group r.dev r.port).1.filter fun x => !(s.port x).full) = [] :=
    List.filter_eq_nil_iff.2 fun q hq => by simp only [hfull q hq, Bool.not_true, Bool.false_eq_true, not_false_eq_true]
  unfold State.issueOwn
  rw [if_neg hkind, if_neg hhere]
  dsimp only
  rw [hnil]
  obtain ⟨p, l, hl⟩ := List.exists_cons_of_ne_nil hc
  rw [hl]
  exact ⟨p, rfl⟩

theorem execTransactionIssue_eq {i : BitVec 16} {r : FReq} (h : s.fwait[i.toNat]? = some r) :
    execTransactionIssue i s = .next ({ s with fwait := s.fwait.eraseIdx i.toNat }.issueOwn r) := by
  unfold execTransactionIssue
  dsimp only
  rw [h]

end

/-! ### The end (R296, R297) -/

section
variable {s : State} {port : Fin 36}

/-- The port's transaction has waited too long: it is no longer outstanding. -/
def State.timedOut (s : State) (p : Nat) (o : OutTxn) : State :=
  let t := s.advance o.since (s.field (.prt p) 0x114 15 0 * 100)
  let t := t.setPort p { s.port p with
    outs := (s.port p).outs.erase o, late := ((s.port p).late ++ [o]).drop ((s.port p).late.length + 1 - 2048) }
  ((t.addSat (.prt p) 0x148 1).setErr (.prt p) 1).event (.prt p) 0x08 1

theorem execTransactionTimeout_eq {tag : BitVec 11} {o : OutTxn} (h : (s.port port.val).outs.find? (fun z => z.tag == tag.toNat) = some o) :
    execTransactionTimeout port tag s = .next ((s.timedOut port.val o).answer o.req none []) := by
  unfold execTransactionTimeout
  dsimp only
  rw [h]
  rfl

theorem State.port_timedOut (p : Nat) (o : OutTxn) : ((s.timedOut p o).port p).outs = (s.port p).outs.erase o := by
  rw [State.timedOut, State.port_event, State.port_setErr, State.port_addSat, State.port_setPort_same]

theorem State.flag_timedOut (p : Nat) (o : OutTxn) : (s.timedOut p o).flag (.prt p) 0x010 1 = true := by
  unfold State.timedOut
  extract_lets t _ t1
  have hcalm : ((t1.addSat (.prt p) 0x148 1).setErr (.prt p) 1).Calm (· = (Page.prt p).base + 0x010)
      (((t1.addSat (.prt p) 0x148 1).setErr (.prt p) 1).event (.prt p) 0x08 1) :=
    State.event_calm _ _ _ _ fun o h1 _ => by omega
  rw [hcalm.flag 1 rfl]
  exact State.flag_setErr _ _ _ (by decide)

theorem State.timedOut_within (p : Nat) (o : OutTxn) :
    (s.advance o.since (s.field (.prt p) 0x114 15 0 * 100)).within [.io, .out, .ports] (s.timedOut p o) := by
  unfold State.timedOut
  extract_lets t _ t1
  have h1 : t.within [.io, .out, .ports] (t1.addSat (.prt p) 0x148 1) := rfl
  generalize t1.addSat (.prt p) 0x148 1 = u at h1
  exact (h1.trans ((u.setErr_within _ _).mono (by decide))).trans ((State.event_within _ _ _ _).mono (by decide))

theorem State.elapsed_timedOut (p : Nat) (o : OutTxn) :
    (s.timedOut p o).elapsed o.since (s.field (.prt p) 0x114 15 0 * 100) = true := by
  have hn : s.field (.prt p) 0x114 15 0 < 2 ^ 16 := fld_lt _ 15 0
  generalize hx : s.field (.prt p) 0x114 15 0 * 100 = n
  have hw := s.timedOut_within p o
  rw [hx] at hw
  exact (State.elapsed_congr (hw.refcnt (by decide)) _ _).trans (s.elapsed_advance o.since (by omega))

theorem State.mem_timedOut (p : Nat) (o : OutTxn) : (s.timedOut p o).mem = s.mem :=
  ((s.timedOut_within p o).mem (by decide)).trans ((s.advance_within _ _).mem (by decide))

/-- The state in which a response and its data have left their queue. -/
def State.rspTaken (s : State) (p vc n : Nat) : State := (s.setPort p ((s.port p).freeRx 1 vc n)).pump p

theorem State.rspTaken_within (p vc n : Nat) : s.within [.io, .out, .ports] (s.rspTaken p vc n) :=
  State.within.trans (rfl : s.within [.io, .out, .ports] (s.setPort p ((s.port p).freeRx 1 vc n))) (State.pump_sends _ p).within

theorem State.outs_rspTaken (p vc n q : Nat) : ((s.rspTaken p vc n).port q).outs = (s.port q).outs := by
  have hset : ((s.setPort p ((s.port p).freeRx 1 vc n)).port q).outs = (s.port q).outs := by
    by_cases hq : q = p
    · rw [hq, State.port_setPort_same]
      rfl
    · rw [State.port_setPort_ne _ hq]
  have houts := congrArg Port.outs ((State.pump_sends (s.setPort p ((s.port p).freeRx 1 vc n)) p).silent q)
  exact Eq.trans houts hset

/-- The transaction that a response at its own port fits. -/
theorem State.outFor_fits {p : Nat} {h : List W32} {o : OutTxn} (ho : (s.port p).outs = [o]) (hfits : o.fits h = true) :
    s.outFor p h = some (p, o) := by
  have hfind : s.findTxn p Port.outs (fun o => o.fits h) = some (p, o) := by
    unfold State.findTxn
    rw [List.findSome?_cons, ho, List.find?_cons_of_pos (p := fun o : OutTxn => o.fits h) hfits] <;> rfl
  rw [State.outFor, hfind]
  rfl

/-- A response for this device ends the transaction that it fits. -/
theorem execResponseReceive_fits {vc : Fin 8} {o : OutTxn} {x : Slot} {rest : List Slot}
    (hq : (s.port port.val).rx 1 vc.val = x :: rest) (hh : x.hdr = true) (hg : thSrcGroup x.words = s.myGroup)
    (hd : thSrcDev x.words = s.myDev) (ho : (s.port port.val).outs = [o]) (hfits : o.fits x.words = true) :
    ∃ u : State, execResponseReceive port vc s = .next (u.answer o.req (some (thRop x.words))
        (rspBytes o (thRop x.words) (dataAfter (x :: rest)))) ∧ (u.port port.val).outs = [] ∧ u.mem = s.mem := by
  have houts : ((s.rspTaken port.val vc.val (1 + (dataAfter (x :: rest)).length)).port port.val).outs = [o] :=
    (s.outs_rspTaken _ _ _ _).trans ho
  have hmem := (s.rspTaken_within port.val vc.val (1 + (dataAfter (x :: rest)).length)).mem (by decide)
  have hfor := State.outFor_fits houts hfits
  have he : execResponseReceive port vc s = .next (
      match (s.rspTaken port.val vc.val (1 + (dataAfter (x :: rest)).length)).outFor port.val x.words with
      | none => (s.rspTaken port.val vc.val (1 + (dataAfter (x :: rest)).length)).lateRsp port.val x.words
      | some (r, o) =>
        let kr := (s.rspTaken port.val vc.val (1 + (dataAfter (x :: rest)).length)).port r
        ((s.rspTaken port.val vc.val (1 + (dataAfter (x :: rest)).length)).setPort r { kr with outs := kr.outs.erase o }).answer o.req
          (some (thRop x.words)) (rspBytes o (thRop x.words) (dataAfter (x :: rest)))) := by
    unfold execResponseReceive
    dsimp only
    rw [hq]
    dsimp only
    rw [if_neg (by rw [hh]; decide), if_pos ⟨hg, hd⟩] <;> rfl
  generalize s.rspTaken port.val vc.val (1 + (dataAfter (x :: rest)).length) = t at he houts hmem hfor
  rw [hfor] at he
  refine ⟨_, he, ?_, hmem⟩
  rw [State.port_setPort_same, houts, List.erase_cons_head]

/-- What sending on a response changes: what ports send. -/
theorem State.passOn_response_sends (p hops : Nat) (h : List W32) (data : List Slot) : s.Sends (s.passOn p 1 hops h data) := by
  unfold State.passOn
  extract_lets dest
  split
  · next q detour _ =>
    exact State.Sends.trans (.ite (s.event_sends _ _ _) (.refl s)) (State.enqueue_sends _ _ _)
  · exact s.event_sends _ _ _

/-- A response for another device goes on. -/
theorem execResponseReceive_onward {vc : Fin 8} {x : Slot} {rest : List Slot} (hq : (s.port port.val).rx 1 vc.val = x :: rest)
    (hh : x.hdr = true) (hg : thSrcGroup x.words ≠ s.myGroup) :
    ∃ t, execResponseReceive port vc s = .next t ∧ (∀ q, (t.port q).outs = (s.port q).outs) ∧ t.mem = s.mem := by
  have he : execResponseReceive port vc s = .next ((s.rspTaken port.val vc.val (1 + (dataAfter (x :: rest)).length)).passOn
      port.val 1 (thHops x.words + 1) x.words (dataAfter (x :: rest))) := by
    unfold execResponseReceive
    dsimp only
    rw [hq]
    dsimp only
    rw [if_neg (by rw [hh]; decide), if_neg (fun h => hg h.1)] <;> rfl
  have houts := s.outs_rspTaken port.val vc.val (1 + (dataAfter (x :: rest)).length)
  have hmem := (s.rspTaken_within port.val vc.val (1 + (dataAfter (x :: rest)).length)).mem (by decide)
  generalize s.rspTaken port.val vc.val (1 + (dataAfter (x :: rest)).length) = t at he houts hmem
  have hsend := t.passOn_response_sends port.val (thHops x.words + 1) x.words (dataAfter (x :: rest))
  refine ⟨_, he, fun q => ?_, (hsend.within.mem (by decide)).trans hmem⟩
  have h := congrArg Port.outs (hsend.silent q)
  exact Eq.trans h (houts q)

end

/-- Settles O33. -/
theorem transactionsEndOnce : Obligations.TransactionsEndOnce := by
  unfold Obligations.TransactionsEndOnce
  intro s port vc i r tag o x rest
  extract_lets p u c
  refine ⟨fun hr hkind hhere => ?_, fun ho => ?_, fun hq hh hg hd ho htag haddr hlen hgroup hdev => ?_,
    fun hq hh hg => execResponseReceive_onward hq hh hg⟩
  · have he : exec (.transactionIssue i) s = .next (u.issueOwn r) := execTransactionIssue_eq hr
    refine ⟨fun q hq hdown => ?_, fun q hq hdown => ?_, fun hne hfull => ?_, fun hnil => ?_⟩
    · have hown : u.issueOwn r = u.issueBy r q (u.marked c false q) := State.issueOwn_some hkind hhere hq
      have hmem := List.mem_filter.1 (State.mem_of_shortest hq)
      obtain ⟨hlt, hup⟩ := State.upPort_of_mem_routes hmem.1
      have hfull : (s.port q).full = false := by simpa using hmem.2
      obtain ⟨hnum, hfree⟩ := u.freeTag_free hlt hfull
      obtain ⟨houts, hwithin⟩ := State.issueBy_issues (s := u) r q (u.marked c false q) hdown
      exact ⟨_, u.freeTag q, he.trans (congrArg _ hown), houts, hnum, hfree, hup, hwithin.fwait (by decide), hwithin.mem (by decide)⟩
    · have hown : u.issueOwn r = u.issueBy r q (u.marked c false q) := State.issueOwn_some hkind hhere hq
      rw [he, hown]
      exact congrArg _ (if_pos hdown)
    · obtain ⟨q, hown⟩ := State.issueOwn_full (s := u) hkind hhere hne hfull
      have hw : u.within [.io] (u.event (.prt q) 0x06 1) := u.event_within _ _ _
      have hfw := hw.fwait (by decide)
      refine ⟨_, he.trans (congrArg _ hown), ?_, ?_⟩
      · rw [State.submit, hfw]
      · have hio : u.event (.prt q) 0x06 1 = { u with io := (u.event (.prt q) 0x06 1).io } := hw
        generalize u.event (.prt q) 0x06 1 = v at hio hfw
        rw [hio]
        rfl
    · rw [he]
      exact congrArg _ (State.issueOwn_nil hkind hhere hnil)
  · exact ⟨_, execTransactionTimeout_eq ho, State.port_timedOut _ _, State.flag_timedOut _ _, State.elapsed_timedOut _ _,
      State.mem_timedOut _ _⟩
  · have hfits : o.fits x.words = true := by
      simp only [OutTxn.fits, Bool.and_eq_true, beq_iff_eq]
      exact ⟨⟨⟨⟨htag, haddr⟩, hlen⟩, hgroup⟩, hdev⟩
    exact execResponseReceive_fits hq hh hg hd ho hfits

end Sys2Proof.Machine
end

section
/-! PROOF. A collective is taken: what its participant table and its checks see (R319, R322, R332). -/
namespace Sys2Proof.Machine

/-! ### Reads that count alone, for any context -/

/-- The registers that a translation or a check of a collective sees: those beyond the headers, and the views of the Page Map. -/
abbrev viewAddr (a : Nat) : Prop := bodyAddr a ∨ 0x807200 ≤ a

/-- Only counters of the basins' and other lower pages change, and what no memory access sees. -/
abbrev State.Seen (s t : State) : Prop := s.Calm viewAddr t ∧ t.mem = s.mem ∧ t.free = s.free

section
variable {s t u : State} {die copy c : Nat}

theorem State.Seen.trans (h : s.Seen t) (hu : t.Seen u) : s.Seen u := ⟨h.1.trans hu.1, hu.2.1.trans h.2.1, hu.2.2.trans h.2.2⟩

theorem State.Seen.reg (h : s.Seen t) {p : Page} {j : Nat} (h1 : 0x100 ≤ j) (h2 : j < 0x1000) : t.reg p j = s.reg p j :=
  h.1.reg (.inl (bodyAddr_base_add p h1 h2))

theorem State.Seen.sameMap (h : s.Seen t) : s.SameMap t := .of_mem (h.1.mono fun _ ha => .inl ha) h.2.1

theorem State.Seen.translate (h : s.Seen t) (k : Acc) (a : Nat) : t.translate die copy c k a = s.translate die copy c k a :=
  h.sameMap.translate_of_view die copy (h.1.reg (.inr (by simp only [Page.base]; omega))) k a

theorem State.localPieces_congr {k : Acc} (h : ∀ a, t.translate die copy c k a = s.translate die copy c k a) (a n : Nat) :
    t.localPieces die copy c k a n = s.localPieces die copy c k a n := by
  unfold State.localPieces State.localKey
  simp only [h]

theorem State.Seen.hbmRead (h : s.Seen t) (k n : Nat) : t.hbmRead k n = s.hbmRead k n :=
  List.map_congr_left fun _ _ => State.hbmByte_congr h.2.1 h.2.2 _

theorem State.Seen.rangePoison (h : s.Seen t) (k n : Nat) : t.rangePoison k n = s.rangePoison k n := by
  unfold State.rangePoison State.granPoison
  rw [h.2.1]

theorem State.Seen.boardRead (h : s.Seen t) (a n : Nat) : t.boardRead die copy c a n = s.boardRead die copy c a n := by
  have hp : t.localPieces die copy c .rd a n = s.localPieces die copy c .rd a n := State.localPieces_congr (fun a => h.translate .rd a) a n
  unfold State.boardRead
  rw [hp]
  generalize s.localPieces die copy c .rd a n = l
  match l with
  | .error r => rfl
  | .ok l =>
    have hread : ∀ p : Nat × Nat × Nat, t.hbmRead p.1 p.2.1 = s.hbmRead p.1 p.2.1 := fun p => h.hbmRead _ _
    have hpoison : ∀ p : Nat × Nat × Nat, t.rangePoison p.1 p.2.1 = s.rangePoison p.1 p.2.1 := fun p => h.rangePoison _ _
    simp only [hread, hpoison]

theorem State.Seen.cflRead (h : s.Seen t) (e ctx a n : Nat) : t.cflRead e ctx a n = s.cflRead e ctx a n := h.boardRead a n

/-- A header comes from what the engine reads at its source, and from nothing else of the state. -/
def ReadsSource (f : State → Nat → Desc → Option ChainHdr) : Prop :=
  ∀ (s t : State) (e : Nat) (d : Desc), t.cflRead e d.ctx (cdSrc d.words) 64 = s.cflRead e d.ctx (cdSrc d.words) 64 → f t e d = f s e d

theorem ReadsSource.of_eq {f g : State → Nat → Desc → Option ChainHdr} (h : f = g) (hg : ReadsSource g) : ReadsSource f := h ▸ hg

/-- The definition is opened as a function: with arguments the kernel would evaluate the read. -/
theorem readsSource_srcHdr : ReadsSource State.srcHdr := by
  apply ReadsSource.of_eq
  · delta State.srcHdr
    exact rfl
  · intro s t e d h
    beta_reduce
    rw [h]

theorem State.Seen.srcHdr (h : s.Seen t) (e : Nat) (d : Desc) : t.srcHdr e d = s.srcHdr e d :=
  readsSource_srcHdr s t e d (h.cflRead e d.ctx (cdSrc d.words) 64)

theorem State.Seen.unitReason (h : s.Seen t) (e : Nat) (d : Desc) (ps : List Part) : t.unitReason e d ps = s.unitReason e d ps := by
  unfold State.unitReason
  rw [h.srcHdr]

theorem State.Seen.inJob (h : s.Seen t) : t.inJob = s.inJob := by
  funext g
  unfold State.inJob
  rw [h.reg (by decide) (by decide)]

theorem State.Seen.partsReason (h : s.Seen t) (ws : List W32) (fuel i prev : Nat) :
    t.partsReason ws fuel i prev = s.partsReason ws fuel i prev := by
  induction fuel generalizing i prev with
  | zero => rfl
  | succ fuel ih => rw [State.partsReason, State.partsReason, h.inJob, ih]

theorem State.Seen.isMe (h : s.Seen t) (e : Nat) (p : Part) : t.isMe e p = s.isMe e p := by
  unfold State.isMe State.myGroup State.myDev State.myHalf State.mySlot
  rw [h.sameMap.strap]

theorem State.Seen.partsOf (h : s.Seen t) (e : Nat) (d ws : List W32) : t.partsOf e d ws = s.partsOf e d ws := by
  unfold State.partsOf
  rw [h.partsReason, h.isMe]

end

section
variable (s : State)

theorem State.event_seen {p : Page} (hp : p.base + 0x040 ≤ 0x807200) (code n : Nat) : s.Seen (s.event p code n) := by
  refine ⟨s.event_calm p code n fun o h1 h2 ha => ?_, s.event_mem _ _ _, (s.event_within p code n).free (by decide)⟩
  rcases ha with ha | ha
  · exact not_bodyAddr_base_add p (h2.trans (by decide)) ha
  · omega

/-- A place in this device's memory lies in one of its stacks. -/
theorem State.key_lt_of_site {die copy c a key : Nat} {k : Acc} (h : s.site die copy c k a = .ok (.here key)) : key < 2 ^ 40 := by
  unfold State.site at h
  cases hx : s.translate die copy c k a with
  | error r =>
    rw [hx] at h
    exact absurd h (by simp [State.siteOf])
  | ok x =>
    rw [hx] at h
    match x, h, hx with
    | .board slot, h, _ => exact absurd h (by simp [State.siteOf])
    | .remote w, h, _ =>
      unfold State.siteOf at h
      dsimp only at h
      split at h <;> simp at h
    | .local st y, h, hx =>
      have hkey : st * 2 ^ 37 + y = key := by simpa [State.siteOf, memKey] using h
      unfold State.translate State.translateEntry at hx
      dsimp only at hx
      repeat' split at hx
      all_goals cases hx
      have hst := bits_lt (s.pmapEntry copy (pageOf a)).toNat 18 16
      have hframe := bits_lt (s.pmapEntry copy (pageOf a)).toNat 12 0
      unfold pmFld at hkey
      omega

/-- A read of a few granules of this device is counted below the views of the Page Map. -/
theorem State.readRange_seen (hint : Nat) {key n : Nat} (hkey : key < 2 ^ 40) (hn : n < 2 ^ 17) : s.Seen (s.readRange hint key n []) := by
  have hg : ∀ p ∈ granUses key n [], p.1 < 2 ^ 35 := by
    intro p hp
    obtain ⟨i, hi, rfl⟩ := List.mem_map.mp hp
    have hmem : (granules key n).getD i 0 ∈ granules key n := by
      rw [List.getD_eq_getElem?_getD, List.getElem?_eq_getElem (List.mem_range.mp hi), Option.getD_some]
      exact List.getElem_mem _
    generalize (granules key n).getD i 0 = g at hmem ⊢
    unfold granules at hmem
    split at hmem
    · exact absurd hmem List.not_mem_nil
    · obtain ⟨j, hj, rfl⟩ := List.mem_map.mp hmem
      have hj := List.mem_range.mp hj
      dsimp only
      omega
  have hhit := granUses_hit (key := key) (n := n)
  unfold State.readRange
  generalize granUses key n [] = l at hg hhit
  induction l generalizing s with
  | nil => exact ⟨.refl s, rfl, rfl⟩
  | cons p l ih =>
    rw [List.foldl_cons, hhit p List.mem_cons_self, State.granRead_hit]
    refine State.Seen.trans (s.event_seen ?_ 0x02 1) (ih _ (fun q hq => hg q (List.mem_cons_of_mem _ hq))
      fun q hq => hhit q (List.mem_cons_of_mem _ hq))
    have hp := hg p List.mem_cons_self
    simp only [Page.base]
    omega

/-! ### The table is here (R322) -/

/-- Every piece of a table has come. -/
abbrev TableRead.full (r : TableRead) (bs : List OutByte) : TableRead := { r with wait := [], got := [(0, bs)], bad := false }

theorem State.tableGot_only {q : Nat} {r : TableRead} (hr : s.tread q = some r) (hwait : r.wait = [0]) (hgot : r.got = []) (hbad : r.bad = false)
    (bs : List OutByte) : s.tableGot q r.id 0 (some bs) = s.setTread q (some (r.full bs)) := by
  unfold State.tableGot
  rw [hr]
  dsimp only
  rw [if_neg (not_not.2 rfl), hwait, hgot, hbad]
  rfl

theorem TableRead.words_full (r : TableRead) {bs : List OutByte} (hclean : bs.any Prod.snd = false) :
    (r.full bs).words = some (leWords (bs.map Prod.fst) (bs.length / 4)) := by
  unfold TableRead.words
  rw [List.mergeSort_singleton]
  simp only [List.flatMap_cons, List.flatMap_nil, List.append_nil, hclean, Bool.or_self, Bool.false_eq_true, if_false]

/-- A table in this device's memory is read at once. -/
theorem State.tableAsk_here (q e : Nat) (use : TableUse) {c : Coll} {x len key : Nat} (hpiece : tablePieces c.desc.words = [(x, len, 0)])
    (hsite : s.site (cflDie e) (cflDie e - 4) c.desc.ctx .rd x = .ok (.here key)) :
    s.tableAsk q e use c = (((s.treadOpened q e use c).event .pmap 0x02 1).readRange 0 key len []).setTread q
      (some ((s.newTread e use c).full (s.keyBytes key len))) := by
  have hopened : s.tableAsk q e use c =
      (tablePieces c.desc.words).foldl (fun t p => t.tablePiece q (s.newTread e use c) p) (s.treadOpened q e use c) := rfl
  have hu : (s.treadOpened q e use c).site (cflDie e) (cflDie e - 4) c.desc.ctx .rd x = .ok (.here key) := hsite
  have hread := s.treadOpened_tread q e use c
  have hbytes : (s.treadOpened q e use c).keyBytes key len = s.keyBytes key len := rfl
  have hwait : (s.newTread e use c).wait = [0] := congrArg (List.map fun p => p.2.2) hpiece
  have hgot : (s.newTread e use c).got = [] := rfl
  have hbad : (s.newTread e use c).bad = false := rfl
  have hengine : (s.newTread e use c).engine = e := rfl
  have hcoll : (s.newTread e use c).coll = c := rfl
  rw [hopened, hpiece, List.foldl_cons, List.foldl_nil, State.tablePiece, ← hbytes]
  generalize s.newTread e use c = r at hwait hgot hbad hread hengine hcoll ⊢
  generalize s.treadOpened q e use c = u at hu hread ⊢
  dsimp only
  rw [hengine, hcoll, State.lookup_cfl, State.site_event, hu]
  dsimp only
  have hcount : u.Counted ((u.event .pmap 0x02 1).readRange 0 key len []) :=
    (u.counted_event _ _ _).trans (State.readRange_hit _ 0 key len)
  have hev : u.Counted (u.event .pmap 0x02 1) := u.counted_event _ _ _
  have htread : ((u.event .pmap 0x02 1).readRange 0 key len []).tread q = some r := by
    rw [State.tread, hcount.1.treads (by decide)]
    exact hread
  rw [State.tableGot_only _ htread hwait hgot hbad, hev.keyBytes]

/-- With its participants read, a collective of the firmware's program begins or is refused. -/
theorem State.tableEnd_coll {e : Nat} {r : TableRead} {ws : List W32} {ps : List Part} (hr : s.tread e = some r) (hwait : r.wait = [])
    (huse : r.use = .coll) (hws : r.words = some ws) (hps : (s.setTread e none).partsOf e r.coll.desc.words ws = .ok ps) :
    s.tableEnd e = ((s.setTread e none).collGo e { r.coll with parts := ps } ws).wsStart e := by
  unfold State.tableEnd
  rw [hr]
  dsimp only
  rw [hwait, huse, hws, if_neg (by decide)]
  simp only [Option.isNone_some, Bool.false_eq_true, if_false, Option.getD_some]
  rw [hps]

end

end Sys2Proof.Machine
end

section
/-! PROOF. A collective is taken: it begins, waits for its participant table, or is refused (R319 to R322, R331, R332, R343). -/
namespace Sys2Proof.Machine

/-- The collectives of the firmware's program, by kind (R331). -/
theorem exec_collective (e : Fin 8) (s : State) : ∀ x ∈ [(Instr.allreduce e, 1), (.reduceScatter e, 2), (.allgather e, 3),
    (.broadcast e, 4), (.alltoall e, 5), (.permute e, 6), (.ring e, 7), (.send e, 8), (.recv e, 9), (.reduce e, 10), (.barrier e, 11)],
    exec x.1 s = .next (s.collAccept e.val x.2) ∧ 1 ≤ x.2 ∧ x.2 ≤ 11 := by
  simp only [List.forall_mem_cons, List.not_mem_nil, IsEmpty.forall_iff, implies_true, and_true]
  exact ⟨⟨rfl, by decide⟩, ⟨rfl, by decide⟩, ⟨rfl, by decide⟩, ⟨rfl, by decide⟩, ⟨rfl, by decide⟩, ⟨rfl, by decide⟩, ⟨rfl, by decide⟩,
    ⟨rfl, by decide⟩, ⟨rfl, by decide⟩, ⟨rfl, by decide⟩, ⟨rfl, by decide⟩⟩

section
variable {s : State} {e kind : Nat} {d : Desc} {rest : List Desc}

/-- The engine's core has taken the oldest descriptor. -/
abbrev State.collPopped (s : State) (e : Nat) (rest : List Desc) : State := s.setCore (69 + e) { s.core (69 + e) with inq := rest }

/-- The program takes the oldest descriptor of its kind: what the checks find decides (R332). -/
theorem State.collAccept_eq (hq : (s.core (69 + e)).inq = d :: rest) (hnative : s.cflNative e = true) (hcur : (s.cfl e).cur = none)
    (htread : s.tread e = none) (hconv : cdConv d.words = false) (hkind : cdKind d.words = kind) :
    s.collAccept e kind = match s.cdVerdict e d.ctx d.words with
      | .refuse r f => (if f then (s.collPopped e rest).setErr .scl 0 else s.collPopped e rest).collRefuse e d r
      | .poison tb => (if tb then (s.collPopped e rest).setErr .scl 3 else s.collPopped e rest).opFault d 0x0A 0 0x51
      | .ok => ((s.collPopped e rest).tableAsk e e .coll ((s.collPopped e rest).collOf e d)).tableEnd e := by
  have hverdict : (s.collPopped e rest).cdVerdict e d.ctx d.words = s.cdVerdict e d.ctx d.words := by
    unfold State.cdVerdict
    simp only [hconv, Bool.false_eq_true, if_false]
    rfl
  unfold State.collAccept
  dsimp only
  rw [hq]
  dsimp only
  rw [hnative, hcur, htread, hconv, hkind, if_neg (by decide), if_neg (fun h => h.1 rfl), Bool.false_and, Bool.false_and]
  simp only [Bool.false_eq_true, if_false]
  generalize s.cdVerdict e d.ctx d.words = v at hverdict ⊢
  cases v <;> simp only [hverdict]

/-! ### The collective begins (R331, R343) -/

/-- Only PERMUTE goes by Shard Map records (R344). -/
theorem Coll.transfers_of_ne {c : Coll} (h : cdKind c.desc.words ≠ 6) (form : Nat) (old new : List W32) :
    c.transfers form old new = c.transfers form [] [] := by
  unfold Coll.transfers
  dsimp only
  generalize cdKind c.desc.words = k at h
  split
  case h_6 => exact absurd rfl h
  all_goals rfl

theorem State.wsStart_of_cur {c : Coll} (h : (s.cfl e).cur = some c) : s.wsStart e = s := by
  unfold State.wsStart
  dsimp only
  rw [h]

theorem State.wsStart_of_wsq (h : (s.cfl e).wsq = []) : s.wsStart e = s := by
  unfold State.wsStart
  dsimp only
  rw [h]
  split
  · next heq => exact absurd heq (by simp)
  · rfl

theorem State.collGo_begins {c : Coll} {ws : List W32} (hr : s.unitReason e c.desc c.parts = 0) (hkind : cdKind c.desc.words ≠ 6) :
    ∃ old new, s.collGo e c ws = s.collBegin e c old new := by
  unfold State.collGo
  extract_lets n r old new o
  exact ⟨old, new, by rw [if_neg (not_not.2 hr), if_neg hkind]⟩

/-- `COLL_STAT` (R349). -/
abbrev Coll.stat (c : Coll) : W32 := w32 (cdKind c.desc.words * 2 ^ 24 + cdId c.desc.words * 2 ^ 8)

theorem Coll.fld_stat (c : Coll) : fld c.stat 27 24 = cdKind c.desc.words ∧ fld c.stat 19 8 = cdId c.desc.words := by
  have hk : cdKind c.desc.words < 2 ^ 4 := fld_lt _ 31 28
  have hi : cdId c.desc.words < 2 ^ 12 := fld_lt _ 19 8
  rw [Coll.stat, fld_w32 _ _ (by decide), fld_w32 _ _ (by decide)]
  omega

/-- The engine has begun a collective, for a form of its raw tiles. -/
def State.collBegun (s : State) (e : Nat) (c : Coll) (form : Nat) (old new : List W32) : State :=
  let k := s.cfl e
  let t := (s.setCfl e { k with cur := some c, xq := k.xq ++ c.transfers form old new }).collShow e c
  (t.setReg (.cfl e) 0x118 (w32 ((c.parts.map Part.segLen).foldl max 0))).setReg (.cfl e) 0x11C
    (w32 ((c.parts.map Part.segLen).foldl min ((c.parts.map Part.segLen).headD 0)))

theorem State.collBegin_eq (c : Coll) (old new : List W32) : ∃ form, s.collBegin e c old new = s.collBegun e c form old new := ⟨_, rfl⟩

/-- The engine runs the collective: its segments are reported, its transfers wait. -/
theorem State.collBegin_begins {c : Coll} (hkind : cdKind c.desc.words ≠ 6) (old new : List W32) :
    ∃ form, (s.collBegin e c old new).cfl e = { s.cfl e with cur := some c, xq := (s.cfl e).xq ++ c.transfers form [] [] } ∧
      (s.collBegin e c old new).reg (.cfl e) 0x118 = w32 ((c.parts.map Part.segLen).foldl max 0) ∧
      (s.collBegin e c old new).reg (.cfl e) 0x11C = w32 ((c.parts.map Part.segLen).foldl min ((c.parts.map Part.segLen).headD 0)) ∧
      (s.collBegin e c old new).reg (.cfl e) 0x10C = c.stat ∧ s.within [.cfls, .io] (s.collBegin e c old new) := by
  obtain ⟨form, hform⟩ := State.collBegin_eq (s := s) (e := e) c old new
  refine ⟨form, ?_⟩
  rw [hform, ← Coll.transfers_of_ne hkind form old new]
  unfold State.collBegun
  extract_lets k t
  have hset := s.cfl_setCfl_same e { k with cur := some c, xq := k.xq ++ c.transfers form old new }
  have hw : s.within [.cfls, .io] (s.setCfl e { k with cur := some c, xq := k.xq ++ c.transfers form old new }) :=
    (s.setCfl_within e _).mono (by decide)
  have hshow : (s.setCfl e { k with cur := some c, xq := k.xq ++ c.transfers form old new }).within [.io] t := State.collShow_within _ e c
  have hstat : t.reg (.cfl e) 0x10C = c.stat := State.reg_setReg_same _ _ _ _
  clear_value t
  have ht : t.cfl e = { k with cur := some c, xq := k.xq ++ c.transfers form old new } := by
    rw [State.cfl, hshow.cfls (by decide)]
    exact hset
  refine ⟨?_, ?_, State.reg_setReg_same _ _ _ _, ?_, ?_⟩
  · rw [State.cfl_setReg, State.cfl_setReg]
    exact ht
  · rw [State.reg_setReg_ne _ (by omega), State.reg_setReg_same]
  · rw [State.reg_setReg_ne _ (by omega), State.reg_setReg_ne _ (by omega), hstat]
  · exact (hw.then (by decide) hshow).then (by decide) ((t.setReg_within _ _ _).trans (State.setReg_within _ _ _ _))

/-- The collective whose table is read, as it will begin. -/
abbrev State.collNew (s : State) (e : Nat) (d : Desc) (rest : List Desc) (ps : List Part) : Coll :=
  { (s.collPopped e rest).collOf e d with parts := ps }

section
variable (hq : (s.core (69 + e)).inq = d :: rest) (hnative : s.cflNative e = true) (hcur : (s.cfl e).cur = none)
  (htread : s.tread e = none) (hconv : cdConv d.words = false) (hkind : cdKind d.words = kind)
include hq hnative hcur htread hconv hkind

theorem State.collAccept_ok (hok : s.cdVerdict e d.ctx d.words = .ok) :
    s.collAccept e kind = ((s.collPopped e rest).tableAsk e e .coll ((s.collPopped e rest).collOf e d)).tableEnd e := by
  rw [State.collAccept_eq hq hnative hcur htread hconv hkind, hok]

/-- With its table in this device's memory the collective begins at once. -/
theorem State.collAccept_begins (hsix : kind ≠ 6) (hok : s.cdVerdict e d.ctx d.words = .ok)
    (hpiece : tablePieces d.words = [(cdPart d.words, 16 * cdN d.words, 0)]) {key : Nat} {ps : List Part}
    (hsite : s.site (cflDie e) (cflDie e - 4) d.ctx .rd (cdPart d.words) = .ok (.here key))
    (hclean : s.rangePoison key (16 * cdN d.words) = false)
    (hps : s.partsOf e d.words (leWords (s.hbmRead key (16 * cdN d.words)) (4 * cdN d.words)) = .ok ps)
    (hunit : s.unitReason e d ps = 0) :
    ∃ t old new, s.collAccept e kind = t.collBegin e (s.collNew e d rest ps) old new ∧
      (s.collPopped e rest).within [.cfls, .treads, .io] t ∧ t.cfl e = { s.cfl e with nextId := (s.cfl e).nextId + 1 } := by
  rw [State.collAccept_ok hq hnative hcur htread hconv hkind hok]
  have hdesc : ((s.collPopped e rest).collOf e d).desc = d := rfl
  have hparts : s.collNew e d rest ps = { (s.collPopped e rest).collOf e d with parts := ps } := rfl
  rw [hparts]
  have hseen0 : s.Seen (s.collPopped e rest) := ⟨.of_io rfl rfl, rfl, rfl⟩
  have hcfl0 : (s.collPopped e rest).cfl e = s.cfl e := rfl
  have hsite0 : (s.collPopped e rest).site (cflDie e) (cflDie e - 4) d.ctx .rd (cdPart d.words) = .ok (.here key) := hsite
  have hbytes0 : (s.collPopped e rest).keyBytes key (16 * cdN d.words) = s.keyBytes key (16 * cdN d.words) := rfl
  generalize s.collPopped e rest = u at hdesc hseen0 hcfl0 hsite0 hbytes0 ⊢
  generalize u.collOf e d = c at hdesc ⊢
  have hpiece' : tablePieces c.desc.words = [(cdPart d.words, 16 * cdN d.words, 0)] := by rw [hdesc, hpiece]
  rw [← hdesc] at hsite0
  rw [State.tableAsk_here u e e .coll hpiece' (by rw [← hsite0, hdesc]), hbytes0]
  have hopen : u.within [.cfls, .treads] (u.treadOpened e e .coll c) := rfl
  have hcfl : (u.treadOpened e e .coll c).cfl e = { s.cfl e with nextId := (s.cfl e).nextId + 1 } := by
    rw [← hcfl0]
    exact u.cfl_setCfl_same e _
  have hcoll : (u.newTread e .coll c).coll = c := rfl
  have huse : (u.newTread e .coll c).use = .coll := rfl
  generalize u.newTread e .coll c = r at hcoll huse ⊢
  have hseen1 : u.Seen (u.treadOpened e e .coll c) := ⟨.of_io rfl rfl, rfl, rfl⟩
  generalize u.treadOpened e e .coll c = v at hopen hcfl hseen1 ⊢
  have hn : cdN d.words < 2 ^ 13 := fld_lt _ 12 0
  have hread := (v.event_seen (p := .pmap) (by decide) 0x02 1).trans
    (State.readRange_seen _ 0 (s.key_lt_of_site hsite) (n := 16 * cdN d.words) (by omega))
  have hio : v.within [.io] ((v.event .pmap 0x02 1).readRange 0 key (16 * cdN d.words) []) :=
    (v.event_within _ _ _).trans (State.readRange_hit _ _ _ _).1
  generalize (v.event .pmap 0x02 1).readRange 0 key (16 * cdN d.words) [] = w at hread hio ⊢
  let x := (w.setTread e (some (r.full (s.keyBytes key (16 * cdN d.words))))).setTread e none
  have hseen : s.Seen x := ((hseen0.trans hseen1).trans hread).trans ⟨.of_io rfl rfl, rfl, rfl⟩
  have hx : u.within [.cfls, .treads, .io] x :=
    ((hopen.mono (by decide)).trans (hio.mono (by decide))).trans (rfl : w.within [.cfls, .treads, .io] x)
  have hxcfl : x.cfl e = { s.cfl e with nextId := (s.cfl e).nextId + 1 } := by
    have hw : w.cfl e = v.cfl e := by
      rw [State.cfl, hio.cfls (by decide)]
      rfl
    exact Eq.trans (Eq.trans rfl hw) hcfl
  have hpoison : (s.keyBytes key (16 * cdN d.words)).any Prod.snd = false := by
    rw [List.any_eq_false]
    intro b hb
    obtain ⟨i, hi, rfl⟩ := List.mem_map.mp hb
    rw [granPoison_of_rangePoison hclean i (List.mem_range.mp hi)]
    exact Bool.false_ne_true
  have hfst : (s.keyBytes key (16 * cdN d.words)).map Prod.fst = s.hbmRead key (16 * cdN d.words) := by
    rw [State.keyBytes, List.map_map]
    rfl
  have hlen : (s.keyBytes key (16 * cdN d.words)).length / 4 = 4 * cdN d.words := by
    rw [State.keyBytes, List.length_map, List.length_range]
    omega
  have hwords := TableRead.words_full r hpoison
  rw [hfst, hlen] at hwords
  have hend := State.tableEnd_coll (s := w.setTread e (some (r.full (s.keyBytes key (16 * cdN d.words))))) (e := e)
    (r := r.full (s.keyBytes key (16 * cdN d.words))) (ps := ps)
    (Table.get_set_same (fun _ => none) w.treads e (some (r.full (s.keyBytes key (16 * cdN d.words))))) rfl huse hwords (by
      rw [show (r.full (s.keyBytes key (16 * cdN d.words))).coll = c from hcoll, hdesc]
      exact (hseen.partsOf e _ _).trans hps)
  have hc : ({ (r.full (s.keyBytes key (16 * cdN d.words))).coll with parts := ps } : Coll) = { c with parts := ps } := by
    rw [← hcoll]
  rw [hc] at hend
  rw [hend]
  have hk6 : cdKind ({ c with parts := ps } : Coll).desc.words ≠ 6 := by
    change cdKind c.desc.words ≠ 6
    rw [hdesc, hkind]
    exact hsix
  have hunit' : x.unitReason e ({ c with parts := ps } : Coll).desc ps = 0 := by
    change x.unitReason e c.desc ps = 0
    rw [hdesc, hseen.unitReason]
    exact hunit
  obtain ⟨old, new, hgo⟩ := State.collGo_begins (s := x) (e := e) (c := { c with parts := ps })
    (ws := leWords (s.hbmRead key (16 * cdN d.words)) (4 * cdN d.words)) hunit' hk6
  obtain ⟨form, hbegin, -⟩ := State.collBegin_begins (s := x) (e := e) (c := { c with parts := ps }) hk6 old new
  refine ⟨x, old, new, ?_, hx, hxcfl⟩
  rw [← hgo]
  refine State.wsStart_of_cur (c := { c with parts := ps }) ?_
  rw [hgo, hbegin]

/-- A table at another device is asked for by one RD, and the collective waits. -/
theorem State.collAccept_asks (hok : s.cdVerdict e d.ctx d.words = .ok)
    (hpiece : tablePieces d.words = [(cdPart d.words, 16 * cdN d.words, 0)]) {g dv pt a : Nat}
    (hsite : s.site (cflDie e) (cflDie e - 4) d.ctx .rd (cdPart d.words) = .ok (.there g dv pt a)) :
    ∃ t id, s.collAccept e kind = t.submit {
        who := .table e id 0, ctx := d.ctx, kind := 0, group := g, dev := dv, port := pt, addr := a, len := 16 * cdN d.words
        own := some (cdPart d.words) } ∧ (s.collPopped e rest).within [.cfls, .treads, .io] t ∧
      (t.cfl e).cur = none ∧ (t.tread e).isSome = true := by
  rw [State.collAccept_ok hq hnative hcur htread hconv hkind hok]
  have hdesc : ((s.collPopped e rest).collOf e d).desc = d := rfl
  have hcfl0 : ((s.collPopped e rest).cfl e).cur = none := hcur
  have hsite0 : (s.collPopped e rest).site (cflDie e) (cflDie e - 4) d.ctx .rd (cdPart d.words) = .ok (.there g dv pt a) := hsite
  generalize s.collPopped e rest = u at hdesc hcfl0 hsite0 ⊢
  generalize u.collOf e d = c at hdesc ⊢
  have hpiece' : tablePieces c.desc.words = [(cdPart d.words, 16 * cdN d.words, 0)] := by rw [hdesc, hpiece]
  rw [← hdesc] at hsite0
  rw [State.tableAsk_there u e e .coll hpiece' (by rw [← hsite0, hdesc]), hdesc]
  have hopen : u.within [.cfls, .treads] (u.treadOpened e e .coll c) := rfl
  have hcfl : ((u.treadOpened e e .coll c).cfl e).cur = none := by
    rw [State.treadOpened, State.cfl_setTread, State.cfl_setCfl_same]
    exact hcfl0
  have hr := u.treadOpened_tread e e .coll c
  have hwait : (u.newTread e .coll c).wait = [0] := congrArg (List.map fun p => p.2.2) hpiece'
  generalize u.newTread e .coll c = r at hr hwait
  generalize u.treadOpened e e .coll c = v at hopen hcfl hr ⊢
  have hio : v.within [.io] (v.event .pmap 0x02 1) := v.event_within _ _ _
  have hr' : (v.event .pmap 0x02 1).tread e = some r := by
    rw [State.tread, hio.treads (by decide)]
    exact hr
  have hcfl' : ((v.event .pmap 0x02 1).cfl e).cur = none := by
    rw [State.cfl, hio.cfls (by decide)]
    exact hcfl
  have hw : u.within [.cfls, .treads, .io] (v.event .pmap 0x02 1) := (hopen.mono (by decide)).trans (hio.mono (by decide))
  generalize v.event .pmap 0x02 1 = w at hr' hcfl' hw ⊢
  refine ⟨w, (u.cfl e).nextId, ?_, hw, hcfl', by rw [hr']; rfl⟩
  · have hsub : ∀ q : FReq, (w.submit q).tableEnd e = w.submit q := fun q => by
      have hq' : (w.submit q).tread e = some r := hr'
      unfold State.tableEnd
      rw [hq']
      dsimp only
      rw [hwait, if_pos (by rfl)]
    exact hsub _

end

end

end Sys2Proof.Machine
end

section
/-! PROOF. A collective is refused, goes on and ends (R331 to R333, R335, R349). -/
namespace Sys2Proof.Machine

/-! ### Faults and aborts leave the pages of the engines (R349) -/

/-- The pages of the Confluence engines. -/
abbrev cflAddr (a : Nat) : Prop := 0x780000 ≤ a ∧ a < 0x788000

theorem offTables_cflAddr : offTables cflAddr := fun a h => by
  unfold cflAddr at h
  omega

theorem cflAddr_base_add (e : Fin 8) {o : Nat} (ho : o < 0x1000) : cflAddr ((Page.cfl e.val).base + o) := by
  have he := e.isLt
  simp only [Page.base, cflAddr]
  omega

section
variable (s : State)

theorem State.opFault_calm (d : Desc) (code reason opc : Nat) : s.Calm (· < 0x800000) (s.opFault d code reason opc) := by
  have hril : ∀ c o, ¬ ((Page.ril c).base + o < 0x800000) := fun c o => by
    simp only [Page.base]
    omega
  have hcwn : ∀ o, ¬ (Page.cwn.base + o < 0x800000) := fun o => by
    simp only [Page.base]
    omega
  refine State.Calm.trans (t := { s with faulted := NatSet.add d.ctx s.faulted }) (.of_io rfl rfl) ?_
  unfold State.opFault
  dsimp only
  split
  · exact .ite (.of_io rfl rfl) (State.setErr_calm _ _ _ (hril _ _) (hril _ _))
  · exact .ite (.refl _) (State.Calm.trans (.of_io rfl rfl) (State.setErr_calm _ _ _ (hcwn _) (hcwn _)))
  · exact .refl _

theorem NatSet.mem_add (n : Nat) (l : NatSet) : n ∈ NatSet.add n l := by
  have h : (NatSet.add n l).has n = true := by rw [NatSet.has_add, decide_eq_true rfl, Bool.true_or]
  exact List.contains_iff_mem.1 h

theorem State.opFault_faulted (d : Desc) (code reason opc : Nat) : d.ctx ∈ (s.opFault d code reason opc).faulted := by
  have h : (s.opFault d code reason opc).faulted = NatSet.add d.ctx s.faulted := by
    unfold State.opFault
    dsimp only
    split
    · exact (State.raiseAsync_within _ _ _).faulted (by decide)
    · exact (State.winFault_within _ _ _ _).faulted (by decide)
    · rfl
  rw [h]
  exact NatSet.mem_add _ _

theorem State.stepAbort_calm_cfl (cause : Nat) : s.Calm cflAddr (s.stepAbort cause) := by
  have hhigh : ∀ p o, 0x788000 ≤ Page.base p → ¬ cflAddr (p.base + o) := fun p o ha hc => absurd hc.2 (by omega)
  have hacc : ∀ n < 64, ∀ o, o < 0x1000 → ¬ cflAddr ((Page.acc n).base + o) := fun n hn o ho hc => by
    have h1 := hc.1
    simp only [Page.base] at h1
    omega
  have hslot : ∀ j < 2, s.Calm cflAddr (s.abortSlot j cause 0 true) := fun j hj =>
    State.Calm.trans (State.Calm.trans ((s.abortTell_within j cause).calm (by decide) (by decide))
        (State.setReg_calm _ _ _ _ (hhigh _ _ (by decide))))
      (s.abortRecord_calm (hhigh _ _ (by decide)) (fun o _ => hhigh _ _ (by decide)) (fun o _ => hhigh _ _ (by decide)) hacc hj cause 0 true)
  exact .ite (hslot 0 (by decide)) (.ite (hslot 1 (by decide)) (.ite (s.escalate_calm_high offTables_cflAddr 0x04) (.refl s)))

/-! ### A refusal is recorded (R332, R349) -/

theorem State.cflInfo_within (e id reason : Nat) : s.within [.io] (s.cflInfo e id reason) := .ite (fun _ => .refl _ _) fun _ => s.setReg_within _ _ _

/-- The first refusal or failure of an engine is recorded. -/
theorem State.cflInfo_records {e id reason : Nat} (hid : id < 2 ^ 12) (hreason : reason < 256) (h : s.flag (.cfl e) 0x124 31 = false) :
    (s.cflInfo e id reason).field (.cfl e) 0x124 7 0 = reason ∧ (s.cflInfo e id reason).field (.cfl e) 0x124 19 8 = id := by
  rw [State.cflInfo, if_neg (by rw [h]; decide), State.field, State.field, State.reg_setReg_same, fld_w32 _ _ (by decide),
    fld_w32 _ _ (by decide)]
  omega

end

theorem cdReason_lt (w : List W32) : cdReason w < 256 := by
  unfold cdReason
  split_ifs <;> decide

section
variable {s : State} {d : Desc} {rest : List Desc}

theorem State.cdVerdict_refuse_lt {e ctx n : Nat} {w : List W32} {f : Bool} (hconv : cdConv w = false) (h : s.cdVerdict e ctx w = .refuse n f) :
    n < 256 := by
  unfold State.cdVerdict at h
  rw [hconv] at h
  split at h
  · have hn := (CollVerdict.refuse.inj h).1
    exact hn ▸ cdReason_lt w
  · split at h
    · have hn := (CollVerdict.refuse.inj h).1
      exact hn ▸ by decide
    · exact absurd h (by simp)

theorem cdId_lt (w : List W32) : cdId w < 2 ^ 12 := fld_lt _ 19 8

/-- A collective that is refused writes nothing and leaves its engine as it was. -/
theorem State.collRefuse_refuses (e : Fin 8) {n : Nat} (hn : n < 256) :
    s.within [.faulted, .cores, .wins, .io, .out] (s.collRefuse e.val d n) ∧ (s.collRefuse e.val d n).flag (.cfl e.val) 0x010 0 = true ∧
      d.ctx ∈ (s.collRefuse e.val d n).faulted ∧ (s.flag (.cfl e.val) 0x124 31 = false →
        (s.collRefuse e.val d n).field (.cfl e.val) 0x124 7 0 = n ∧ (s.collRefuse e.val d n).field (.cfl e.val) 0x124 19 8 = cdId d.words) := by
  have hbelow : ∀ {o : Nat}, o < 0x1000 → (Page.cfl e.val).base + o < 0x800000 := fun ho =>
    (cflAddr_base_add e ho).2.trans (by decide)
  have hinfo := s.cflInfo_within e.val (cdId d.words) n
  have hrec := s.cflInfo_records (e := e.val) (cdId_lt d.words) hn
  unfold State.collRefuse
  generalize s.cflInfo e.val (cdId d.words) n = t at hinfo hrec ⊢
  have hflag : (t.setErr (.cfl e.val) 0).flag (.cfl e.val) 0x010 0 = true := State.flag_setErr _ _ _ (by decide)
  have hkeep : ∀ hi lo, (t.setErr (.cfl e.val) 0).field (.cfl e.val) 0x124 hi lo = t.field (.cfl e.val) 0x124 hi lo := fun hi lo =>
    State.KeepsRegs.field (t.setErr_keepsRegs _ _) (.cfl e.val) hi lo (by decide) (by decide)
  have herr := t.setErr_within (.cfl e.val) 0
  generalize t.setErr (.cfl e.val) 0 = u at hflag hkeep herr ⊢
  have hcalm := u.opFault_calm d 0x09 n 0x51
  refine ⟨?_, ?_, u.opFault_faulted _ _ _ _, fun h => ?_⟩
  · exact ((hinfo.mono (by decide)).trans (herr.mono (by decide))).trans (u.opFault_within d 0x09 n 0x51)
  · rw [hcalm.flag 0 (hbelow (by decide)), hflag]
  · rw [hcalm.field 7 0 (hbelow (by decide)), hcalm.field 19 8 (hbelow (by decide)), hkeep, hkeep]
    exact hrec h

/-! ### RING (R335) -/

/-- What a round of RING waits for besides its buffer. -/
abbrev Coll.ringOpen (c : Coll) (k : Cfl) : Prop :=
  c.stock = true ∧ cdKind c.desc.words = 7 ∧ c.round + 1 ≤ cdRoot c.desc.words ∧ k.fly = [] ∧ ∀ x ∈ k.xq, x.kind ≠ 1

/-- The index of the predecessor. -/
abbrev Coll.pred (c : Coll) : Nat := (c.me + c.parts.length - 1) % c.parts.length

theorem execRingRound_eq {e : Fin 8} {c : Coll} (hc : (s.cfl e.val).cur = some c) (hopen : c.ringOpen (s.cfl e.val)) :
    execRingRound e s = .next (
      if !(decide (c.round + 1 < 3) || tallyReached (s.tally (cdRtally c.desc.words)) (w32 (c.round + 1 - 2))) ||
          !(c.gateOpen c.pred (.ready c.round 1)) then s
      else s.setCfl e.val { s.cfl e.val with xq := (s.cfl e.val).xq ++
        [c.pull 1 0 c.pred (if c.round + 1 = 1 then cdSrc c.desc.words else cdDst c.desc.words + (c.round + 1 - 1) % 2 * cdLen c.desc.words)
          (cdDst c.desc.words + (c.round + 1) % 2 * cdLen c.desc.words)
          (c.part ((c.me + c.parts.length * (c.round + 1) - (c.round + 1)) % c.parts.length)).segLen .none] }) := by
  obtain ⟨hstock, hkind, hround, hfly, hxq⟩ := hopen
  have hany : ((s.cfl e.val).xq.any fun x => x.kind == 1) = false := List.any_eq_false.2 fun x hx => by
    simpa using hxq x hx
  have hdone : decide (cdRoot c.desc.words < c.round + 1) = false := decide_eq_false (by omega)
  unfold execRingRound
  dsimp only
  rw [hc]
  dsimp only
  rw [hstock, hkind, hfly, hany, hdone, Nat.add_sub_cancel]
  simp only [bne_self_eq_false, Bool.not_true, Bool.false_or, List.isEmpty_nil, Bool.or_false]

theorem State.ringRound_waits {e : Fin 8} {c : Coll} (hc : (s.cfl e.val).cur = some c) (hopen : c.ringOpen (s.cfl e.val)) (h2 : 2 ≤ c.round)
    (h : tallyReached (s.tally (cdRtally c.desc.words)) (w32 (c.round - 1)) = false) : execRingRound e s = .next s := by
  have hsub : c.round + 1 - 2 = c.round - 1 := by omega
  rw [execRingRound_eq hc hopen, hsub, h, decide_eq_false (by omega), if_pos (by simp)]

theorem State.ringRound_begins {e : Fin 8} {c : Coll} (hc : (s.cfl e.val).cur = some c) (hopen : c.ringOpen (s.cfl e.val))
    (h : c.round < 2 ∨ tallyReached (s.tally (cdRtally c.desc.words)) (w32 (c.round - 1)) = true)
    (hgate : c.gateOpen c.pred (.ready c.round 1) = true) :
    ∃ t y, execRingRound e s = .next t ∧ (t.cfl e.val).xq = (s.cfl e.val).xq ++ [y] ∧ y.kind = 1 ∧ y.peer = c.pred ∧
      y.loc = (cdDst c.desc.words + (c.round + 1) % 2 * cdLen c.desc.words) % 2 ^ 43 ∧ t = { s with cfls := t.cfls } := by
  have hsub : c.round + 1 - 2 = c.round - 1 := by omega
  have hfree : (decide (c.round + 1 < 3) || tallyReached (s.tally (cdRtally c.desc.words)) (w32 (c.round - 1))) = true := by
    rcases h with h | h
    · rw [decide_eq_true (by omega), Bool.true_or]
    · rw [h, Bool.or_true]
  have he := execRingRound_eq hc hopen
  rw [hsub, hfree, hgate, if_neg (by decide)] at he
  exact ⟨_, _, he, congrArg Cfl.xq (s.cfl_setCfl_same e.val _), rfl, rfl, rfl, rfl⟩

/-! ### Completion (R331) -/

theorem State.opTally_tallies_of {t : State} (n c : Nat) (ht : t.tallies = s.tallies) (hp : t.tallyPermitted n c = s.tallyPermitted n c) :
    (t.opTally n c).tallies = (s.opTally n c).tallies := by
  cases h : s.tallyPermitted n c with
  | true =>
    rw [State.opTally_permitted s h, State.opTally_permitted t (hp.trans h)]
    exact State.addTally_tallies_of _ n ht
  | false =>
    have hdenied : ∀ u : State, u.tallyPermitted n c = false → (u.opTally n c).tallies = u.tallies := fun u hu => by
      rw [State.opTally_denied u hu, (State.setErr_within _ _ _).tallies (by decide)]
      split
      · rfl
      · rfl
    rw [hdenied s h, hdenied t (hp.trans h), ht]

/-- The imbalance registers are the engine's own. -/
theorem State.collStats_shows (e : Fin 8) (c : Coll) : s.within [.io] (s.collStats e.val c) ∧ s.Calm (0x800000 ≤ ·) (s.collStats e.val c) := by
  have hbelow : ∀ {o : Nat}, o < 0x1000 → ¬ 0x800000 ≤ (Page.cfl e.val).base + o := fun ho h =>
    absurd (cflAddr_base_add e ho).2 (by omega)
  unfold State.collStats
  extract_lets ls best wait
  refine ⟨.ite (fun _ => .refl _ _) fun _ => ?_, .ite (.refl s) ?_⟩
  · exact ((s.setReg_within _ _ _).trans (State.setReg_within _ _ _ _)).trans (State.event_within _ _ _ _)
  · exact ((s.setReg_calm _ _ _ (hbelow (by decide))).trans (State.setReg_calm _ _ _ _ (hbelow (by decide)))).trans
      (State.event_calm _ _ _ _ fun o _ ho => hbelow (ho.trans (by decide)))

/-- A collective with nothing left to do increments its tally and leaves the engine. -/
theorem State.collectiveComplete_ends {e : Fin 8} {c : Coll} (hc : (s.cfl e.val).cur = some c) (hstock : c.stock = true)
    (hdone : (s.cfl e.val).collDone c = true) (hws : c.ws = none) (hwsq : (s.cfl e.val).wsq = []) (hkind : cdKind c.desc.words ≠ 7) :
    ∃ t, execCollectiveComplete e s = .next t ∧ (t.cfl e.val).cur = none ∧
      t.tallies = (s.opTally (cdTally c.desc.words) c.desc.ctx).tallies ∧ t.mem = s.mem := by
  let k1 : Cfl := { s.cfl e.val with cur := none, slots := [] }
  let x := ((s.setCfl e.val k1).collStats e.val c).event (.cfl e.val) 0x02 1
  have he : execCollectiveComplete e s = .next ((x.opTally (cdTally c.desc.words) c.desc.ctx).wsStart e.val) := by
    unfold execCollectiveComplete
    dsimp only
    rw [hc]
    dsimp only
    rw [hstock, hdone, hws, if_neg (by decide), if_neg hkind]
  have hstats := (State.collStats_shows (s := s.setCfl e.val k1) e c)
  have hset := s.cfl_setCfl_same e.val k1
  have hw0 : s.within [.cfls, .io] (s.setCfl e.val k1) := (s.setCfl_within e.val k1).mono (by decide)
  have hevent : ((s.setCfl e.val k1).collStats e.val c).within [.io] x := State.event_within _ _ _ _
  have hwx : (s.setCfl e.val k1).within [.io] x := hstats.1.trans hevent
  have hcalm : s.Calm (0x800000 ≤ ·) x :=
    ((State.Calm.of_io rfl rfl).trans hstats.2).trans (State.event_calm _ _ _ _ fun o _ ho h =>
      absurd (cflAddr_base_add e (ho.trans (by decide))).2 (by omega))
  clear_value x
  have hcfl : x.cfl e.val = k1 := by
    rw [State.cfl, hwx.cfls (by decide)]
    exact hset
  have hx : s.within [.cfls, .io] x := hw0.then (by decide) hwx
  have hty := x.opTally_within (cdTally c.desc.words) c.desc.ctx
  have hcflt : (x.opTally (cdTally c.desc.words) c.desc.ctx).cfl e.val = k1 := by
    rw [State.cfl, hty.cfls (by decide)]
    exact hcfl
  have hperm : x.tallyPermitted (cdTally c.desc.words) c.desc.ctx = s.tallyPermitted (cdTally c.desc.words) c.desc.ctx := by
    unfold State.tallyPermitted
    rw [hcalm.field 7 0 (by simp only [Page.base]; omega)]
  have hwsq1 : k1.wsq = [] := hwsq
  rw [State.wsStart_of_wsq (by rw [hcflt, hwsq1])] at he
  exact ⟨_, he, by rw [hcflt], State.opTally_tallies_of _ _ (hx.tallies (by decide)) hperm, (hty.mem (by decide)).trans (hx.mem (by decide))⟩

/-! ### The limit (R333) -/

/-- A collective of a context that fails: recorded, the step aborts, its context takes a translation fault. -/
theorem State.collFail_fails {e : Fin 8} {c : Coll} (hc : (s.cfl e.val).cur = some c) (hws : c.ws = none) (hwsq : (s.cfl e.val).wsq = [])
    {reason bit : Nat} (fault : Nat) (hreason : reason < 256) (hbit : bit < 32) :
    ((s.collFail e.val reason bit fault).cfl e.val) = (s.cfl e.val).clear (cdId c.desc.words) ∧
      (s.collFail e.val reason bit fault).flag (.cfl e.val) 0x010 bit = true ∧ (s.collFail e.val reason bit fault).refcnt = s.refcnt ∧
      c.desc.ctx ∈ (s.collFail e.val reason bit fault).faulted ∧ (s.flag (.cfl e.val) 0x124 31 = false →
        (s.collFail e.val reason bit fault).field (.cfl e.val) 0x124 7 0 = reason) := by
  have hbelow : ∀ {o : Nat}, o < 0x1000 → (Page.cfl e.val).base + o < 0x800000 := fun ho =>
    (cflAddr_base_add e ho).2.trans (by decide)
  have hset := s.cfl_setCfl_same e.val ((s.cfl e.val).clear (cdId c.desc.words))
  have hdrop : s.collDrop e.val = s.setCfl e.val ((s.cfl e.val).clear (cdId c.desc.words)) := by
    unfold State.collDrop
    rw [hc]
    dsimp only
    refine State.wsStart_of_wsq ?_
    rw [hset]
    exact hwsq
  have hw0 : s.within [.cfls] (s.setCfl e.val ((s.cfl e.val).clear (cdId c.desc.words))) := s.setCfl_within _ _
  have heq : s.collFail e.val reason bit fault = ((((s.collDrop e.val).cflInfo e.val (cdId c.desc.words) reason).setErr (.cfl e.val) bit).stepAbort
      0x04).opFault c.desc 0x0B fault 0x51 := by
    unfold State.collFail
    rw [hc]
    dsimp only
    rw [hws]
  rw [heq, hdrop]
  have hflag0 : (s.setCfl e.val ((s.cfl e.val).clear (cdId c.desc.words))).flag (.cfl e.val) 0x124 31 = s.flag (.cfl e.val) 0x124 31 := rfl
  generalize s.setCfl e.val ((s.cfl e.val).clear (cdId c.desc.words)) = t at hset hw0 hflag0 ⊢
  have hinfo := t.cflInfo_within e.val (cdId c.desc.words) reason
  have hrec := t.cflInfo_records (e := e.val) (cdId_lt c.desc.words) hreason
  generalize t.cflInfo e.val (cdId c.desc.words) reason = u at hinfo hrec ⊢
  have herr := u.setErr_within (.cfl e.val) bit
  have hflag : (u.setErr (.cfl e.val) bit).flag (.cfl e.val) 0x010 bit = true := State.flag_setErr _ _ _ hbit
  have hkeep : (u.setErr (.cfl e.val) bit).field (.cfl e.val) 0x124 7 0 = u.field (.cfl e.val) 0x124 7 0 :=
    State.KeepsRegs.field (u.setErr_keepsRegs _ _) (.cfl e.val) 7 0 (by decide) (by decide)
  generalize u.setErr (.cfl e.val) bit = v at herr hflag hkeep ⊢
  have habort := v.stepAbort_within 0x04
  have hcalm1 := v.stepAbort_calm_cfl 0x04
  generalize v.stepAbort 0x04 = x at habort hcalm1 ⊢
  have hfault := x.opFault_within c.desc 0x0B fault 0x51
  have hcalm2 := x.opFault_calm c.desc 0x0B fault 0x51
  refine ⟨?_, ?_, ?_, x.opFault_faulted _ _ _ _, fun h => ?_⟩
  · rw [State.cfl, hfault.cfls (by decide), habort.cfls (by decide), herr.cfls (by decide), hinfo.cfls (by decide)]
    exact hset
  · rw [hcalm2.flag bit (hbelow (by decide)), hcalm1.flag bit (cflAddr_base_add e (by decide)), hflag]
  · rw [hfault.refcnt (by decide), habort.refcnt (by decide), herr.refcnt (by decide), hinfo.refcnt (by decide), hw0.refcnt (by decide)]
  · rw [hcalm2.field 7 0 (hbelow (by decide)), hcalm1.field 7 0 (cflAddr_base_add e (by decide)), hkeep]
    exact (hrec (hflag0.trans h)).1

/-- A collective that reaches its limit ends, recorded as a timeout. -/
theorem State.collectiveTimeout_ends {e : Fin 8} {c : Coll} (hc : (s.cfl e.val).cur = some c) (hstock : c.stock = true) (hws : c.ws = none)
    (hwsq : (s.cfl e.val).wsq = []) : ∃ t, execCollectiveTimeout e s = .next t ∧
      (t.cfl e.val).cur = none ∧ t.flag (.cfl e.val) 0x010 1 = true ∧ t.elapsed c.since (s.collLimit e.val c) = true ∧
      (∀ m ∈ (t.cfl e.val).msgs, m.coll ≠ cdId c.desc.words) ∧ c.desc.ctx ∈ t.faulted ∧
      (s.flag (.cfl e.val) 0x124 31 = false → t.field (.cfl e.val) 0x124 7 0 = 8) := by
  have he : execCollectiveTimeout e s = .next ((s.advance c.since (s.collLimit e.val c)).collFail e.val 8 1 6) := by
    unfold execCollectiveTimeout
    dsimp only
    rw [hc]
    dsimp only
    rw [hstock, hws, if_neg (by decide)]
  have hlimit : s.collLimit e.val c < 2 ^ 64 := by
    have h1 : s.field (.cfl e.val) 0x100 31 16 < 2 ^ 16 := fld_lt _ 31 16
    have h2 := (wordAt c.desc.words 14).isLt
    unfold State.collLimit
    split <;> omega
  have helapsed := s.elapsed_advance c.since hlimit
  have hw := s.advance_within c.since (s.collLimit e.val c)
  have hregs := s.advance_keepsRegs c.since (s.collLimit e.val c)
  generalize s.collLimit e.val c = n at he helapsed hw hregs
  generalize s.advance c.since n = t at he helapsed hw hregs
  have hcfl : t.cfl e.val = s.cfl e.val := by
    rw [State.cfl, hw.cfls (by decide)]
    rfl
  obtain ⟨hclear, hflag, href, hfaulted, hfield⟩ := State.collFail_fails (s := t) (e := e) (c := c) (by rw [hcfl, hc]) hws (by rw [hcfl, hwsq])
    (reason := 8) (bit := 1) 6 (by decide) (by decide)
  refine ⟨_, he, by rw [hclear]; rfl, hflag, ?_, ?_, hfaulted, fun h => hfield ?_⟩
  · rw [State.elapsed_congr href, helapsed]
  · rw [hclear]
    intro m hm
    simpa using (List.mem_filter.1 hm).2
  · rw [State.flag, State.KeepsRegs.reg hregs (.cfl e.val) (by decide) (by decide)]
    exact h

end

/-- Settles O35. -/
theorem collectivesBeginAndEnd : Obligations.CollectivesBeginAndEnd := by
  unfold Obligations.CollectivesBeginAndEnd
  constructor
  · intro s e d rest w hq hw hnative hcur htread hconv
    subst hw
    extract_lets u
    intro x hx hkind
    obtain ⟨hexec, -, -⟩ := exec_collective e s x hx
    rw [hexec]
    refine ⟨fun hsix hok hpiece => ⟨fun key ps hsite hclean hps hunit => ?_, fun g dv pt a hsite => ?_⟩, fun n hrefuse => ?_⟩
    · obtain ⟨t, old, new, hbegin, hwt, hcfl⟩ := State.collAccept_begins hq hnative hcur htread hconv hkind hsix hok hpiece hsite hclean hps hunit
      obtain ⟨form, hc, h118, h11C, h10C, hwb⟩ := State.collBegin_begins (s := t) (e := e.val) (c := s.collNew e.val d rest ps)
        (by change cdKind d.words ≠ 6; rw [hkind]; exact hsix) old new
      obtain ⟨hstatk, hstati⟩ := (s.collNew e.val d rest ps).fld_stat
      refine ⟨_, s.collNew e.val d rest ps, form, congrArg _ hbegin, by rw [hc], rfl, rfl, rfl, ?_, h118, h11C, ?_, ?_, ?_⟩
      · rw [hc, hcfl]
      · rw [State.field, h10C, hstatk]
        exact hkind
      · rw [State.field, h10C, hstati]
        rfl
      · exact hwt.trans (hwb.mono (by decide))
    · obtain ⟨t, id, hask, hwt, hcurt, htreadt⟩ := State.collAccept_asks hq hnative hcur htread hconv hkind hok hpiece hsite
      have hall : ∀ r, (s.collPopped e.val rest).within [.cfls, .treads, .fwait, .io] (t.submit r) := fun r =>
        State.within.trans (hwt.mono (by decide)) (rfl : t.within [.cfls, .treads, .fwait, .io] (t.submit r))
      refine ⟨_, _, congrArg _ hask, congrArg (· ++ _) (hwt.fwait (by decide)), rfl, rfl, rfl, rfl, rfl, rfl, rfl, hcurt, htreadt, hall _⟩
    · have heq := State.collAccept_eq hq hnative hcur htread hconv hkind
      rw [hrefuse] at heq
      simp only [Bool.false_eq_true, if_false] at heq
      obtain ⟨hwr, hflag, hfaulted, hinfo⟩ := State.collRefuse_refuses (s := s.collPopped e.val rest) (d := d) e
        (State.cdVerdict_refuse_lt hconv hrefuse)
      exact ⟨_, congrArg _ heq, hwr.cfls (by decide), hwr.treads (by decide), hwr.tallies (by decide), hwr.mem (by decide), hflag, hfaulted, hinfo⟩
  · intro s e k c hk hc hstock
    subst hk
    extract_lets w n pred
    refine ⟨fun hkind hround hfly hxq => ⟨fun h2 h => ?_, fun h hgate => ?_⟩, fun hdone hws hwsq hkind => ?_, fun hws hwsq => ?_⟩
    · exact State.ringRound_waits hc ⟨hstock, hkind, hround, hfly, hxq⟩ h2 h
    · exact State.ringRound_begins hc ⟨hstock, hkind, hround, hfly, hxq⟩ h hgate
    · exact State.collectiveComplete_ends hc hstock hdone hws hwsq hkind
    · exact State.collectiveTimeout_ends hc hstock hws hwsq

end Sys2Proof.Machine
end

section
/-! PROOF. An ALLTOALL's last arriving piece changes more memory than its own bytes (R338): the segment is then placed, and its
tokens are counted in the Expert Table. -/
namespace Sys2Proof.Machine

/-- The descriptor of an ALLTOALL whose rows are one byte long. -/
def placedDesc : Desc := { words := [0x50000000, 0, 0, 0, 0, 0, 0, 0, 0, 0, 0, 0, 0, 0, 0, 1], ctx := 0, src := .device }

/-- Participant 1 has made five tokens of expert 0 ready. -/
def placedColl : Coll :=
  { desc := placedDesc, parts := [], since := 0, jslot := some 0
    got := [{ coll := 0, peer := 1, done := false, len := 5, expert := 0 }] }

/-- The pull of a segment of participant 1, of which one piece is on its way. -/
def placedFlight : Flight := { id := 0, x := { desc := placedDesc, stock := true, kind := 1, peer := 1, len := 1 }, left := [(0, 1)] }

/-- The piece has come. -/
def placedArrival : Arrival := { flight := 0, off := 0, data := [(7, false)] }

/-- Engine 0 runs the ALLTOALL; the hashed window has one frame per stack, and page 0 is a readable and writable page of stack 0. -/
def placedState : State :=
  { io := { regs := [(0x807100, 1), (0x807200, 0xFFFFFFFF)] }, mem := { pmap0 := [(0, 0xE000000000000000)] }
    cfls := [(0, { cur := some placedColl, fly := [placedFlight], arr := [placedArrival] })] }

/-- How many bytes of HBM have been written once a command has ended. -/
def bytesWritten : Host.Outcome State Fault Refusal → Nat
  | .next t => t.mem.hbm.length
  | _ => 0

/-- The piece's byte and the four of `TOK[0]` are written. -/
theorem written_pullChunkArrive : bytesWritten (exec (.pullChunkArrive 0 {}) placedState) = 5 := by decide

theorem written_putBoard : (placedState.putBoard 0 0 [(7, false)]).mem.hbm.length = 1 := by decide

/-- Refutes O36: the last piece of an ALLTOALL segment that arrives is written, and then the tokens of the segment are counted in the
Expert Table of this device's memory (R338), so memory is not what the piece alone makes of it. -/
theorem not_arrivalOrderChangesNothing : ¬ Obligations.ArrivalOrderChangesNothing := by
  unfold Obligations.ArrivalOrderChangesNothing
  rintro ⟨hall, -⟩
  obtain ⟨-, -, -, harrive, -⟩ := hall placedState 0 placedColl placedFlight.x { coll := 0, peer := 1, done := false } placedArrival
    placedFlight [] (placedState.cfl 0) (placedState.judgeXfers 0) rfl rfl rfl
  obtain ⟨-, hwrite⟩ := harrive rfl rfl rfl
  obtain ⟨t, hexec, -, hmem⟩ := hwrite 0 0 (by decide) rfl (by decide) (by decide) rfl
  have hfive := written_pullChunkArrive
  rw [hexec, bytesWritten, hmem] at hfive
  have hone := written_putBoard
  exact absurd (hone.symm.trans hfive) (by decide)

end Sys2Proof.Machine
end
